-- ==== Sys2Proof/Word.lean ====
section
/-!
DEFINITION. The word types of the MZ8 and the plainest bit arithmetic on them (00_scope R13: bit 0 is the least
significant bit, multi-byte values are little-endian).
-/
namespace Sys2Proof

/-- One byte of a store, of host memory or of a frame. -/
abbrev Byte := BitVec 8

/-- A 256-bit tile op (06_tile_ops R162). -/
abbrev OpWord := BitVec 256

/-- A 64-byte request, response or descriptor word (10_steward_mailboxes R305). -/
abbrev MsgWord := BitVec 512

end Sys2Proof
end

