-- ==== Sys2Proof/Syntax.lean ====
section
/-!
DEFINITION. The commands of the block: one constructor of `Instr` per row of spec/opcode_table.json, with the row's
operands, and the plain data that the operands are made of. A command is one step of the part
(95_what_each_step_holds: "the part's steps, each whole and indivisible"). Numbers that name a unit are `Nat`; the
meaning faults by name when the configuration has no such unit. What only the surroundings decide (a measurement, an
answer of the host, the data on a pin) is an operand.
-/
namespace Sys2Proof

/-- The 32-byte header of a fabric frame (13_fabric R385). -/
structure FrameHdr where
  dst    : BitVec 16
  src    : BitVec 16
  kind   : BitVec 8
  hops   : BitVec 8
  length : BitVec 16
  epoch  : BitVec 32
  tag    : BitVec 32
  task   : BitVec 64
  aux    : BitVec 32
  hcrc   : BitVec 32
  deriving DecidableEq, Repr

/-- A fabric frame: header and payload (13_fabric R385). -/
structure Frame where
  hdr     : FrameHdr
  payload : List Byte
  deriving DecidableEq, Repr

/-- A link block (14_links R419). `bad` is a control block of a reserved kind. -/
inductive Block where
  | data (bytes : List Byte)
  | beatMark (beat : Nat) (prevEnd lane : Nat)
  | slotMark (beat slot : Nat) (bytes : List Byte)
  | filler
  | nak (beat position lane : Nat)
  | replayHead (beat position lane : Nat)
  | swap (target lane : Nat)
  | train (serial : BitVec 64) (gatehouse port rates : Nat) (precodeReq : Bool) (state echoTx echoRx : Nat)
  | loop (start : Bool) (beats : Nat)
  | bad (kind : Nat)
  deriving DecidableEq, Repr

/-- One refresh of the rail-telemetry port (16_power R458, 19 R544): per hall the VCORE current in 1/8 A, and per rail the current in 1/4 A and the voltage in mV. -/
structure TeleSample where
  hallAmps : List Nat
  railAmps : List Nat
  railMv   : List Nat
  deriving DecidableEq, Repr

/-- One control interval's telemetry: what the rail-telemetry port brought within it, over which the governor averages (16_power R458), and the junction readings in degrees
(R474). -/
structure Telemetry where
  samples : List TeleSample
  hallTj  : List Int
  deriving DecidableEq, Repr

/-- What one unit's ageing monitor reports at the hourly fit: the unit's kind and physical index (17 R482) and its wear
measure (R484, R502). -/
structure WearSample where
  kind  : Nat
  index : Nat
  wear  : Nat
  deriving DecidableEq, Repr

/-- A failure that diagnosis or self-test found in a unit (17 R490): a row or a column of a mould (physical index), a lane group of the chute, another stage of the
unit. -/
inductive Finding where
  | row (mould index : Nat)
  | col (mould index : Nat)
  | chute
  | stage
  deriving DecidableEq, Repr

/-- The units of the engine that are no unit of 17 R482 (01 R24, R25): the two steward cores are units of kind 0x6 as well. -/
inductive EngineUnit where
  | activeCore | standbyCore | router | timeUnit | governor | healthUnit | porch
  deriving DecidableEq, Repr

/-- Where a stage of the hard part lies (01 R20, R22, R25, R26, 17 R482, R499): in a unit of 17 R482, in a hall's ring, in the die crossing between two halls or to a
gatehouse, in a gatehouse's die, in an engine-level unit. -/
inductive Stage where
  | unit (kind index : Nat)
  | ring (hall : Nat)
  | crossing (a b : Nat)
  | gateCrossing (g : Nat)
  | gateDie (g : Nat)
  | engine (u : EngineUnit)
  deriving DecidableEq, Repr

/-- The periods, in ps, that the reference pipelines have run in a beat (02 R37): of each hall ring, and of each physical room at its index of 17 R482. -/
structure MeasuredPace where
  rings : List Nat
  rooms : List Nat
  deriving DecidableEq, Repr

/-- A unit whose rate is stated per cycle, which takes one permit to begin each cycle (02 R41). Rooms are engine rooms. -/
inductive PaceUnit where
  | mould (room m : Nat)
  | chute (room : Nat)
  | shelf (room m : Nat)
  | pantryPort (room : Nat)
  | cellarPort (hall : Nat)
  | hallRing (hall : Nat)
  | mover (room : Nat)
  | sizer (room : Nat)
  | press (room : Nat)
  | roomCore (room : Nat)
  deriving DecidableEq, Repr

/-- How a unit meets a cycle permit of fixed pace, or begins a cycle with one that it has banked (02 R42). -/
inductive PermitUse where
  | spend | notReady | noWork | banked
  deriving DecidableEq, Repr

/-- What the link test's checker counted (14 R433). -/
structure LinkTestResult where
  blocks        : Nat
  badBlocks     : Nat
  corrected     : Nat
  uncorrectable : Nat
  lockLost      : Bool
  deriving DecidableEq, Repr

/-- A time stamp in 1/65,536 tick (15 R443, R444). -/
abbrev Stamp := Int

/-- The four stamps of one exchange with a peer (15 R444). -/
structure Exchange where
  t1 : Stamp
  t2 : Stamp
  t3 : Stamp
  t4 : Stamp
  deriving DecidableEq, Repr

/-- The commands of the MZ8, one constructor per row of spec/opcode_table.json, in the table's order. -/
inductive Instr where
  -- tile ops: the room core of `room` issues the op word `w` (06 R166)
  /-- MMA R172 -/
  | mma (room : Nat) (w : OpWord)
  /-- MMT R172 -/
  | mmt (room : Nat) (w : OpWord)
  /-- PAIR R200: two consecutive slots -/
  | pair (room : Nat) (w w2 : OpWord)
  /-- LDS R179 -/
  | lds (room : Nat) (w : OpWord)
  /-- FLIP R135 -/
  | flip (room : Nat) (w : OpWord)
  /-- CHUTE R180 -/
  | chute (room : Nat) (w : OpWord)
  /-- EWA R181 -/
  | ewa (room : Nat) (w : OpWord)
  /-- ROWF R182 -/
  | rowf (room : Nat) (w : OpWord)
  /-- STAT R183 -/
  | stat (room : Nat) (w : OpWord)
  /-- RESC R183 -/
  | resc (room : Nat) (w : OpWord)
  /-- MOVE R184 -/
  | move (room : Nat) (w : OpWord)
  /-- HALO R185 -/
  | halo (room : Nat) (w : OpWord)
  /-- RELAY R186 -/
  | relay (room : Nat) (w : OpWord)
  /-- SYNC R188 -/
  | sync (room : Nat) (w : OpWord)
  /-- HINT R187 -/
  | hint (room : Nat) (w : OpWord)
  /-- STUFF R152 -/
  | stuff (room : Nat) (w : OpWord)
  /-- BKT R190 -/
  | bkt (room : Nat) (w : OpWord)
  /-- WAIT R189 -/
  | wait (room : Nat) (w : OpWord)
  /-- SIGNAL R189 -/
  | signal (room : Nat) (w : OpWord)
  /-- END R191 -/
  | endOp (room : Nat) (w : OpWord)
  -- room, store and beat events
  /-- NARROW_ACCESS_SERVICE R227 -/
  | narrowAccessService (room : Nat)
  /-- NARROW_LOAD_COMPLETE R171 -/
  | narrowLoadComplete (room : Nat)
  /-- OP_FETCH R163 -/
  | opFetch (room : Nat)
  /-- OP_RETIRE R193: op number `op` of the room retires -/
  | opRetire (room op : Nat)
  /-- SYNC_RELEASE R49: the release of a sync group of a task -/
  | syncRelease (task group : Nat)
  /-- WAIT_EXPIRED R198 -/
  | waitExpired (room : Nat)
  /-- HANDSHAKE_TIMEOUT R39: a handshake that `stage` fails to acknowledge has counted `ticks`; a stage of the fabric of stores and ports holds up an access of
  `room` -/
  | handshakeTimeout (room : Nat) (stage : Stage) (ticks : Nat)
  /-- ANNEX_SILENT R218 -/
  | annexSilent (room : Nat)
  /-- BEAT_BOUNDARY R48: what the reference pipelines measured in the beat that ends -/
  | beatBoundary (measured : MeasuredPace)
  /-- PACE_PERMIT R41: one permit reaches per-cycle unit `unit`, or the unit begins a cycle with a permit that it has banked -/
  | pacePermit (unit : PaceUnit) (use : PermitUse)
  /-- CELLAR_PORT_CYCLE R230 -/
  | cellarPortCycle (hall : Nat)
  /-- REMOTE_ACCESS_SERVICE R228: the oldest waiting remote access of a room's pantry or shelf port -/
  | remoteAccessService (room : Nat)
  /-- CORRECTED_WRITE_BACK R247: store line number `line` -/
  | correctedWriteBack (line : Nat)
  /-- SCRUB_READ R248 -/
  | scrubRead (hall line : Nat)
  /-- GRANULE_CLEAR_DONE R253: the granule at store address `addr` -/
  | granuleClearDone (addr : Nat)
  /-- BANK_RELOCATION R252: 1 MiB bank number of the hall's cellar -/
  | bankRelocation (hall bank : Nat)
  /-- TASK_LAUNCH_BOUNDARY R341 -/
  | taskLaunchBoundary (task : Nat)
  /-- END_REPORT R346: the end report of one member room -/
  | endReport (task room : Nat)
  /-- COMPLETION_RECORD_ACK R342 -/
  | completionRecordAck (task : Nat)
  /-- FAULT_REPORT R346: the oldest fault report the steward has not taken from `room` -/
  | faultReport (room : Nat)
  /-- TASK_HALTED R345 -/
  | taskHalted (task : Nat)
  -- steward commands: mailbox `m` executes the request word `w` (10 R305, R309)
  /-- NOP R312 -/
  | nop (m : Nat) (w : MsgWord)
  /-- IDENTIFY R312 -/
  | identify (m : Nat) (w : MsgWord)
  /-- MBX_BIND R313 -/
  | mbxBind (m : Nat) (w : MsgWord)
  /-- CTX_CREATE R326 -/
  | ctxCreate (m : Nat) (w : MsgWord)
  /-- CTX_DESTROY R347 -/
  | ctxDestroy (m : Nat) (w : MsgWord)
  /-- CTX_DESTROY_COMPLETE R347 -/
  | ctxDestroyComplete (ctx : Nat)
  /-- CTX_QUERY R329 -/
  | ctxQuery (m : Nat) (w : MsgWord)
  /-- QUEUE_CREATE R331 -/
  | queueCreate (m : Nat) (w : MsgWord)
  /-- QUEUE_DESTROY R331 -/
  | queueDestroy (m : Nat) (w : MsgWord)
  /-- FENCE_ALLOC R336 -/
  | fenceAlloc (m : Nat) (w : MsgWord)
  /-- FENCE_FREE R336 -/
  | fenceFree (m : Nat) (w : MsgWord)
  /-- FENCE_SIGNAL R336 -/
  | fenceSignal (m : Nat) (w : MsgWord)
  /-- TASK_LAUNCH R316 -/
  | taskLaunch (m : Nat) (w : MsgWord)
  /-- TASK_ABORT R345 -/
  | taskAbort (m : Nat) (w : MsgWord)
  /-- IMAGE_LOAD R287: `bytes` is what the host's memory returned, none when a read of it failed -/
  | imageLoad (m : Nat) (w : MsgWord) (bytes : Option (List Byte))
  /-- IMAGE_UNLOAD R289 -/
  | imageUnload (m : Nat) (w : MsgWord)
  /-- QSTATE_RESET R578 -/
  | qstateReset (m : Nat) (w : MsgWord)
  /-- GRANULE_ALLOC R314 -/
  | granuleAlloc (m : Nat) (w : MsgWord)
  /-- GRANULE_FREE R314 -/
  | granuleFree (m : Nat) (w : MsgWord)
  /-- WINDOW_OPEN R241 -/
  | windowOpen (m : Nat) (w : MsgWord)
  /-- WINDOW_CLOSE R242 -/
  | windowClose (m : Nat) (w : MsgWord)
  /-- STORE_COPY R314: `bytes` is what the host's memory returned for a copy into the store, none when a host access
  failed -/
  | storeCopy (m : Nat) (w : MsgWord) (bytes : Option (List Byte))
  /-- PACE_SET R47 -/
  | paceSet (m : Nat) (w : MsgWord)
  /-- POWER_SET R476 -/
  | powerSet (m : Nat) (w : MsgWord)
  /-- SB_PIN_SET R551 -/
  | sbPinSet (m : Nat) (w : MsgWord)
  /-- TIME_SET R451 -/
  | timeSet (m : Nat) (w : MsgWord)
  /-- FABRIC_SET R390: `table` is the supplied route table read from host memory -/
  | fabricSet (m : Nat) (w : MsgWord) (table : Option (List (BitVec 32)))
  /-- HEALTH_SET R504 -/
  | healthSet (m : Nat) (w : MsgWord)
  /-- HEALTH_QUERY R502 -/
  | healthQuery (m : Nat) (w : MsgWord)
  /-- SNAPSHOT_FREEZE R374 -/
  | snapshotFreeze (m : Nat) (w : MsgWord)
  /-- SNAPSHOT_RELEASE R374 -/
  | snapshotRelease (m : Nat) (w : MsgWord)
  /-- LINK_TEST R432 -/
  | linkTest (m : Nat) (w : MsgWord)
  /-- FW_UPDATE R373: `bytes` is the payload read from host memory -/
  | fwUpdate (m : Nat) (w : MsgWord) (bytes : Option (List Byte))
  /-- RESET_REQUEST R522 -/
  | resetRequest (m : Nat) (w : MsgWord)
  /-- RESET_TAKE_EFFECT R522 -/
  | resetTakeEffect
  /-- STAGED_COMMIT R318: the oldest staged item that is eligible -/
  | stagedCommit
  /-- DEFERRED_NOT_APPLIED R318: the staging of mailbox `m` -/
  | deferredNotApplied (m : Nat)
  -- mailbox hardware
  /-- MBX_DOORBELL R301 -/
  | mbxDoorbell (m : Nat) (tail : BitVec 32)
  /-- MBX_ENABLE R299: the value written to MBX_CTRL -/
  | mbxEnable (m : Nat) (ctrl : BitVec 32)
  /-- MBX_DISABLE R304 -/
  | mbxDisable (m : Nat) (ctrl : BitVec 32)
  /-- MBX_REQUEST_FETCH R300 -/
  | mbxRequestFetch (m : Nat)
  /-- REQUEST_WORD R306 -/
  | requestWord (m : Nat) (w : MsgWord)
  /-- RESPONSE_WRITE_ACK R302 -/
  | responseWriteAck (m : Nat)
  -- queues
  /-- POSTED_OBSERVED R334: the porch receives the doorbell line -/
  | postedObserved (q : Nat) (posted cplHead : BitVec 32)
  /-- DESCRIPTOR_FETCH R334 -/
  | descriptorFetch (q : Nat)
  /-- DESCRIPTOR_ARRIVAL R333 -/
  | descriptorArrival (q : Nat) (w : MsgWord)
  /-- CHAIN_FETCH_TIMEOUT R334 -/
  | chainFetchTimeout (q : Nat)
  /-- FENCE_ACTION R339: the oldest work item of the queue, a fence action, is eligible -/
  | fenceAction (q : Nat)
  -- hatch, annex, keep, snapshot
  /-- HATCH_START R359 -/
  | hatchStart (c : Nat)
  /-- HATCH_STOP R363 -/
  | hatchStop (c : Nat)
  /-- HATCH_DISABLE R364: the value written to HATCH_GLOBAL -/
  | hatchDisable (v : BitVec 32)
  /-- HATCH_REQUEST R360 -/
  | hatchRequest (c : Nat)
  /-- HATCH_BURST_ISSUE R361 -/
  | hatchBurstIssue (c : Nat)
  /-- HATCH_BURST_LANDED R360: `data` is what the peripheral port delivered, for a burst into the store; none when it
  signalled an error -/
  | hatchBurstLanded (c : Nat) (data : Option (List Byte))
  /-- ANNEX_RESULT R353: results of one transfer for the press of room `tag` -/
  | annexResult (slot tag : Nat) (results : List (BitVec 32))
  /-- STREAM_PORT_TAKE R355: the consumer stream port of pipe `pipe` of task `task` -/
  | streamPortTake (task pipe : Nat)
  /-- STREAM_PORT_APPEND R355: the annex's next SLOT bytes for the producer stream port -/
  | streamPortAppend (task pipe : Nat) (bytes : List Byte)
  /-- KEEP_UNIT_ACK R543: `err` is KP_ERR; `data` is KP_RDATA of a read -/
  | keepUnitAck (err : Bool) (data : List Byte)
  /-- HEALTH_RECORD_WRITE R501 -/
  | healthRecordWrite
  /-- FREEZE_TAKE_EFFECT R375 -/
  | freezeTakeEffect
  /-- SNAP_ACK R376 -/
  | snapAck
  /-- SNAP_ACK_TIMEOUT R376 -/
  | snapAckTimeout
  /-- FREEZE_END R377 -/
  | freezeEnd
  -- fabric
  /-- FRAME_ROUTE R388: a frame's header arrives on input bundle `b` -/
  | frameRoute (b : Nat) (f : Frame)
  /-- ROLL_START R382 -/
  | rollStart (b : Nat) (f : Frame)
  /-- ROLL R382 -/
  | roll (b : Nat) (f : Frame)
  /-- BUNDLE_CHANGE R382: bundle `b` comes up or goes down -/
  | bundleChange (b : Nat) (up : Bool)
  /-- ROLL_CALL_CLOSE R383 -/
  | rollCallClose
  /-- ASSIGN R383: the frame gives the engine of serial `serial` the address `addr` -/
  | assign (b : Nat) (f : Frame) (serial : BitVec 64) (addr : Nat)
  /-- ADMIT R395: the admission state and reason of the engine of serial `serial` -/
  | admitFrame (b : Nat) (f : Frame) (serial : BitVec 64) (state reason : Nat)
  /-- ROUTE_UPDATE R391: the entries for this engine; EPOCH is the new epoch, AUX the effective beat -/
  | routeUpdate (b : Nat) (f : Frame) (entries : List (Nat × BitVec 32))
  /-- ROUTE_EFFECTIVE R391 -/
  | routeEffective
  /-- DRAIN R392 -/
  | drain (b : Nat) (f : Frame)
  /-- INPUT_PORT_SWITCH_TIMEOUT R392 -/
  | inputPortSwitchTimeout (b : Nat)
  /-- ACK R387 -/
  | ack (b : Nat) (f : Frame)
  /-- MESSAGE_RESEND R387: the message of TAG `tag` to address `dst` -/
  | messageResend (dst : Nat) (tag : BitVec 32)
  /-- FABRIC_OF_ONE R384 -/
  | fabricOfOne
  /-- READY R407 -/
  | ready (b : Nat) (f : Frame)
  /-- LAUNCH R407 -/
  | launch (b : Nat) (f : Frame)
  /-- REFUSE R408 -/
  | refuse (b : Nat) (f : Frame)
  /-- WITHDRAW R408 -/
  | withdraw (b : Nat) (f : Frame)
  /-- END_FRAME R410 -/
  | endFrame (b : Nat) (f : Frame)
  /-- DONE R410 -/
  | done (b : Nat) (f : Frame)
  /-- FAULT R409: AUX carries the fault code; room, op and opcode are the member's fault record -/
  | faultFrame (b : Nat) (f : Frame) (room op opcode : Nat)
  /-- ABORT R409 -/
  | abort (b : Nat) (f : Frame)
  /-- HALTED R409 -/
  | halted (b : Nat) (f : Frame)
  /-- HALTED_TIMEOUT R409 -/
  | haltedTimeout (task : Nat)
  /-- FLOW_SLOT_TAKE R403: the claimed slot of flow `flow` of the task comes -/
  | flowSlotTake (task flow : Nat)
  /-- FLOW R403 -/
  | flow (b : Nat) (f : Frame)
  -- links: gatehouse `g`, physical port `p`
  /-- BLOCK_TRANSMIT R426: the lane sends the block of its next position; `bytes` are the frame bytes that it
  carries there -/
  | blockTransmit (g p : Nat) (bytes : List Byte)
  /-- CODEWORD_DECODE R418: the 20 blocks of the codeword that was sent, and the number of its symbols that the lane delivered wrong -/
  | codewordDecode (g p : Nat) (errors : Nat) (blocks : List Block)
  /-- BEAT_MARK R420 -/
  | beatMark (g p : Nat) (beat prevEnd lane : Nat)
  /-- SLOT_MARK R420 -/
  | slotMark (g p : Nat) (beat slot : Nat) (bytes : List Byte)
  /-- DATA_BLOCK R419 -/
  | dataBlock (g p : Nat) (bytes : List Byte)
  /-- NAK R427 -/
  | nak (g p : Nat) (beat position lane : Nat)
  /-- REPLAY_HEAD R428: `blocks` names the positions of the replay's blocks, which follow in the spare positions -/
  | replayHead (g p : Nat) (beat position lane : Nat) (blocks : List (Nat × Block))
  /-- SWAP R431 -/
  | swap (g p : Nat) (target lane : Nat)
  /-- SWAP_TARGET R431 -/
  | swapTarget (g lane : Nat)
  /-- TRAIN R423: a TRAIN block of the peer -/
  | train (g p : Nat) (serial : BitVec 64) (peerGate peerPort rates : Nat) (precodeReq : Bool) (state echoTx echoRx : Nat)
  /-- LOOP R432 -/
  | loop (g p : Nat) (start : Bool) (beats : Nat)
  /-- LANE_SLOT_DEADLINE R425: lane-slot (beat, slot) of the port's lane -/
  | laneSlotDeadline (g p : Nat) (beat slot : Nat)
  /-- SIGNAL_DETECT R422 -/
  | signalDetect (g p : Nat)
  /-- ADAPT_DONE R422 -/
  | adaptDone (g p : Nat) (ok : Bool)
  /-- LOCK_TIMEOUT R422 -/
  | lockTimeout (g p : Nat)
  /-- FAILED_RETRY R422 -/
  | failedRetry (g p : Nat)
  /-- TRAINING_END R424 -/
  | trainingEnd (g : Nat)
  /-- PORT_LOSS R429 -/
  | portLoss (g p : Nat)
  /-- LINK_TEST_END R433 -/
  | linkTestEnd (g p : Nat) (r : LinkTestResult)
  /-- EYE_MARGIN_REPORT R485 -/
  | eyeMarginReport (g p mv : Nat)
  -- time
  /-- ANNOUNCE R441: class, rank and serial of the keeper named, and the frame's HOPS -/
  | announce (b : Nat) (cls rank : Nat) (serial : BitVec 64) (hops : Nat)
  /-- ANNOUNCE_PERIOD R441 -/
  | announcePeriod
  /-- KEEPER_TIMEOUT R441 -/
  | keeperTimeout
  /-- STAMP_PERIOD R443 -/
  | stampPeriod
  /-- STAMP R444: an exchange with the peer of bundle `b`; `lost` marks a stamp that names a lost or damaged mark -/
  | stamp (b : Nat) (cls : Nat) (x : Exchange) (lost : Bool)
  /-- TIME_STEP R446 -/
  | timeStep
  /-- HOLDOVER_ENTRY R449 -/
  | holdoverEntry
  /-- REFERENCE_PULSE R450: the tick of fabric time at which the edge leaves the pin's filter -/
  | referencePulse (at' : Nat)
  /-- REF_LOST R450 -/
  | refLost
  /-- TIME_NOW_LO R438: the read reaches the time unit `sub` ticks and `frac` of a tick into the beat -/
  | timeNowLo (tag sub frac : Nat)
  -- power
  /-- CONTROL_INTERVAL R458 -/
  | controlInterval (t : Telemetry)
  /-- GAP_FILL_END R469: unit (room, mould 0-3 or 4 for the chute) -/
  | gapFillEnd (room unit : Nat)
  /-- BARRIER_HOLD_END R470 -/
  | barrierHoldEnd (hall : Nat)
  /-- PRE_RAMP_START R471 -/
  | preRampStart (hall : Nat)
  -- health
  /-- HEARTBEAT R487 -/
  | heartbeat
  /-- STEWARD_TAKEOVER R495 -/
  | stewardTakeover
  /-- REPAIR R488: the oldest attributed fault of the unit (kind, index) -/
  | repair (kind index : Nat)
  /-- DIAGNOSIS_COMPLETE R490 -/
  | diagnosisComplete (kind index : Nat) (found : List Finding)
  /-- REPAIR_MAPPING_EFFECT R488 -/
  | repairMappingEffect (kind index : Nat)
  /-- WEAR_PREDICTION R486 -/
  | wearPrediction (samples : List WearSample)
  /-- MARGIN_ROW_TEST R484: the bank's margin in mV as its rows still read -/
  | marginRowTest (bank mv : Nat)
  /-- PROACTIVE_REPLACEMENT R497 -/
  | proactiveReplacement (kind index : Nat)
  -- power sequencing
  /-- VAUX_GOOD R510 -/
  | vauxGood
  /-- RAIL_REQUEST R510: the sequencer's wait ends -/
  | railRequest
  /-- RAIL_GOOD_RISE R510: rail 1 VCORE, 2 VSRAM, 3 VLINK -/
  | railGoodRise (rail : Nat)
  /-- RAIL_TIMEOUT R510 -/
  | railTimeout
  /-- HARD_PART_RESET_RELEASE R510: the identity inputs and pin levels sampled -/
  | hardPartResetRelease (serial : BitVec 64) (keyHash : BitVec 384) (pins : BitVec 16)
  /-- FIRMWARE_VERIFIED R372 -/
  | firmwareVerified
  /-- SELF_TEST_COMPLETE R512: the units of 17 R482 that failed (kind, index, what was found in each), the other stages that failed, and each hall's I_full in 1/8 A -/
  | selfTestComplete (units : List (Nat × Nat × List Finding)) (stages : List Stage) (iFull : List Nat)
  /-- ENGINE_READY R514 -/
  | engineReady
  /-- SUPPLY_WARN R515: SUPPLY_WARN sampled high -/
  | supplyWarn
  /-- POWER_DOWN_START R516 -/
  | powerDownStart
  /-- POWER_DOWN_CANCEL R518 -/
  | powerDownCancel
  /-- POINT_OF_NO_RETURN R516 -/
  | pointOfNoReturn
  /-- RAIL_GOOD_FALL R516 -/
  | railGoodFall (rail : Nat)
  /-- RAIL_DROP_TIMEOUT R516 -/
  | railDropTimeout
  /-- RAIL_FAILURE R519 -/
  | railFailure (rail : Nat)
  /-- SHELL_RESET R520 -/
  | shellReset
  /-- WAKE R521 -/
  | wake
  /-- POWER_DOWN_SETTLE R521 -/
  | powerDownSettle
  -- host port and porch
  /-- HOST_RESPONSE R534 -/
  | hostResponse (tag status : Nat) (data : List Byte)
  /-- REQUEST_TIMEOUT R534 -/
  | requestTimeout (tag : Nat)
  /-- FERR_DISCARD R531 -/
  | ferrDiscard
  /-- HP_TX_CREDIT R530: `n` credits of virtual network `vn` -/
  | hpTxCredit (vn n : Nat)
  /-- SNOOP_INVALIDATE R538 -/
  | snoopInvalidate (tag : Nat) (addr : Nat)
  /-- SNOOP_SHARE R538 -/
  | snoopShare (tag : Nat) (addr : Nat)
  -- register accesses
  /-- HOST_REGISTER_WRITE R533 -/
  | hostRegisterWrite (tag offset width : Nat) (value : BitVec 64)
  /-- INT_ENABLE R566 -/
  | intEnable (tag : Nat) (value : BitVec 32)
  /-- PACE_EVENTS R46 -/
  | paceEvents (tag : Nat)
  /-- STORE_ERR_COUNT R249 -/
  | storeErrCount (tag hall : Nat)
  /-- FABRIC_DROPS R412 -/
  | fabricDrops (tag : Nat)
  /-- LINK_PORT_COUNTS R436 of port `p` mod 32: the whole register where `p` / 32 is 0, its low word where it is 1, its high word where it is 2 -/
  | linkPortCounts (tag g p : Nat)
  /-- POWER_EVENTS R479 -/
  | powerEvents (tag : Nat)
  /-- HEALTH_EVENTS R506 -/
  | healthEvents (tag : Nat)
  /-- HP_ERRORS R536 -/
  | hpErrors (tag : Nat)
  /-- SB_STATUS R553: `levels` are the filtered levels at the read -/
  | sbStatus (tag : Nat) (levels : BitVec 16)
  -- further events
  /-- PIN_HOLD_END R552 -/
  | pinHoldEnd (pin : Nat)
  /-- SUPPLY_WARN_LOW R521 -/
  | supplyWarnLow
  /-- SHELL_RESET_RELEASE R521 -/
  | shellResetRelease
  /-- VAUX_GOOD_FALL R509 -/
  | vauxGoodFall
  /-- LINK_NO_PEER R432 -/
  | linkNoPeer (g p : Nat)
  /-- HOLDOVER_BOUND_EXCEEDED R449 -/
  | holdoverBoundExceeded
  /-- TAG_RELEASE R534 -/
  | tagRelease (tag : Nat)
  /-- RESERVED_HOST_MESSAGE R532 -/
  | reservedHostMessage (isReq : Bool) (tag : Nat)
  /-- REPLACEMENT_END R497 -/
  | replacementEnd (kind index : Nat)
  /-- COPY_REBUILT R115 -/
  | copyRebuilt (image copy : Nat)
  deriving DecidableEq, Repr

end Sys2Proof
end

