-- ==== Sys2Proof/Decode.lean ====
section
/-!
DEFINITION. The command that a word spells. spec/opcode_table.json gives no row any bits: commands reach the part as register accesses, mailbox
words, frames, blocks and events, whose formats the chapters give and the commands' operands carry. So no word spells a command.
-/
namespace Sys2Proof

/-- The command that the table's bits spell: none, since the table gives no row bits. -/
def decodeTableWord (_nbits _w : Nat) : Option Instr := none

end Sys2Proof
end

