-- ==== Sys2Proof/Config.lean ====
section
/-!
DEFINITION. What one implementation fixes and what the manual leaves open. A free value is an opaque constant: it has no
body, so nothing can be proved of it beyond its width. The free values are applied to the counter `State.freeCtr`, which
every step that draws one advances (assumption log 3).
-/
namespace Sys2Proof

/-- A byte whose value the manual leaves undefined (02 R60, 08 R224, R253, 12 R364). -/
opaque Config.freeByte : Nat → Byte

/-- A number whose value the manual leaves undefined or to the implementation; the user of it bounds it. -/
opaque Config.freeNat : Nat → Nat

/-- Whether a line with more flipped bits than its code is stated for reads as uncorrectable (08 R246 states nothing beyond 3 bits of a W-class line and 2 of an
A-class word): the line's number and the flipped bits (log 82). -/
opaque Config.beyondCode : Nat → List Nat → Bool

/-- A choice that the manual does not promise (which of two outcomes arises). -/
opaque Config.freeBool : Nat → Bool

/-- The governor's own characterisation of power against VCORE (16 R462): the setpoint code the learned mode chooses from
the settings in force and the forecast. The manual names it and does not give it. -/
opaque Config.learnedSetpoint : Nat → Nat → Nat

/-- The lowest setpoint code at which the engine pace measured from the reference pipelines is at the floor with 30 mV
taken away (16 R464), as a function of the measured pace in ps and the setpoint in force. -/
opaque Config.vFloor : Nat → Nat → Nat

/-- The lowest setpoint code at which the natural pace is faster than a target pace in ps by a margin in percent
(16 R465), as a function of the measured pace in ps, the setpoint in force, the target and the margin. -/
opaque Config.fixedSetpoint : Nat → Nat → Nat → Nat → Nat

/-- The least-squares line of 17 R486 over a unit's wear samples: the predicted hours until the limit, none when the
measure shows no trend. The manual does not give the arithmetic of the fit. -/
opaque Config.predictedHours : Nat → List Nat → Option Nat

/-- The integer that an integer step makes of a held value that is no integer (05 R134 lets an op meet a tile of another
format, and 03 states acc_add_i for integers only): sign, significand and exponent of the value. -/
opaque Config.heldAsInt : Bool → Nat → Int → Int

/-- The channel index at which the output tile or pass of an op that names no output point begins (04 R574 gives it only for
the producers of a point): room, op and tile. -/
opaque Config.channelBase : Nat → Nat → Nat → Nat

/-- The stored weight scale, an SW16 code, with which the weights of an output channel are dequantised for a rotated copy (04 R114): image identifier, and the place in
DATA, in bits, of the channel's first weight, so that the two variants of an image take one scale for one tensor (02 R59). No record says which tensor holds it. -/
opaque Config.weightScale : Nat → Nat → Nat

end Sys2Proof
end

