-- ==== Sys2Proof/Machine/Num.lean ====
section
/-!
DEFINITION. Number formats and arithmetic (03_number_formats). A value is an exact signed binary fraction, an infinity or
the one NaN; every step of the mill is an exact operation followed by one rounding toward zero.
-/
namespace Sys2Proof.Machine

/-- The formats of 03 R65 with the codes of 06 R168. -/
inductive Fmt where
  | fp32 | fp16 | bf16 | e4m3 | e5m2 | e3m2 | e2m3 | e2m1 | int32 | int16 | int8 | int4 | sw16
  deriving DecidableEq, Repr

/-- 06 R168; codes 0xD to 0xF are reserved. -/
def fmtOfCode : Nat → Option Fmt
  | 0 => some .fp32 | 1 => some .fp16 | 2 => some .bf16 | 3 => some .e4m3 | 4 => some .e5m2 | 5 => some .e3m2
  | 6 => some .e2m3 | 7 => some .e2m1 | 8 => some .int32 | 9 => some .int16 | 10 => some .int8 | 11 => some .int4
  | 12 => some .sw16 | _ => none

/-- Bits of one element (03 R66, R68, R70). -/
def fmtBits : Fmt → Nat
  | .fp32 | .int32 => 32
  | .fp16 | .bf16 | .int16 | .sw16 => 16
  | .e4m3 | .e5m2 | .int8 => 8
  | .e3m2 | .e2m3 => 6
  | .e2m1 | .int4 => 4

/-- The integer formats (03 R68). -/
def fmtIsInt : Fmt → Bool
  | .int32 | .int16 | .int8 | .int4 => true
  | _ => false

/-- Formats a multiplier takes as an operand (03 R65): neither INT32 nor SW16. -/
def fmtIsOperand : Fmt → Bool
  | .int32 | .sw16 => false
  | _ => true

/-- An exact value: `fin neg m e` is (−1)^neg × m × 2^e. -/
inductive Val where
  | fin (neg : Bool) (m : Nat) (e : Int)
  | inf (neg : Bool)
  | nan
  deriving DecidableEq, Repr

/-- +0. -/
def vZero : Val := .fin false 0 0

/-- 1.0. -/
def vOne : Val := .fin false 1 0

/-- An exact integer. -/
def vOfInt (i : Int) : Val := .fin (decide (i < 0)) i.natAbs 0

/-- A zero of either sign. -/
def vIsZero : Val → Bool
  | .fin _ m _ => decide (m = 0)
  | _ => false

/-- Neither an infinity nor a NaN. -/
def vIsFin : Val → Bool
  | .fin _ _ _ => true
  | _ => false

/-- The value with its sign inverted; a NaN stays NaN. -/
def vNeg : Val → Val
  | .fin n m e => .fin (!n) m e
  | .inf n => .inf (!n)
  | .nan => .nan

/-- The value with its sign cleared. -/
def vAbs : Val → Val
  | .fin _ m e => .fin false m e
  | .inf _ => .inf false
  | .nan => .nan

/-- The significand of a finite value as an integer multiple of 2^e', for e' ≤ e. -/
def vScaled (n : Bool) (m : Nat) (e e' : Int) : Int :=
  let k := m <<< (e - e').toNat
  if n then -(k : Int) else (k : Int)

/-- The exact product (03 R75). -/
def vMul : Val → Val → Val
  | .nan, _ => .nan
  | _, .nan => .nan
  | .inf a, .inf b => .inf (a != b)
  | .inf a, .fin b m _ => if m = 0 then .nan else .inf (a != b)
  | .fin a m _, .inf b => if m = 0 then .nan else .inf (a != b)
  | .fin a m e, .fin b m' e' => .fin (a != b) (m * m') (e + e')

/-- The exact sum with the signs of 03 R76: an exact zero is −0 only when both addends are −0. Opposite infinities and NaNs
give NaN. -/
def vAdd : Val → Val → Val
  | .nan, _ => .nan
  | _, .nan => .nan
  | .inf a, .inf b => if a = b then .inf a else .nan
  | .inf a, .fin _ _ _ => .inf a
  | .fin _ _ _, .inf b => .inf b
  | .fin a m e, .fin b m' e' =>
    let lo := if e ≤ e' then e else e'
    let t := vScaled a m e lo + vScaled b m' e' lo
    if t = 0 then .fin (a && b && decide (m = 0) && decide (m' = 0)) 0 0
    else .fin (decide (t < 0)) t.natAbs lo

/-- Exact comparison of two finite values or infinities: −1, 0, 1. +0 and −0 are equal. A NaN compares as 0 and is kept out
by the callers. -/
def vCmp : Val → Val → Int
  | .fin a m e, .fin b m' e' =>
    let lo := if e ≤ e' then e else e'
    let t := vScaled a m e lo - vScaled b m' e' lo
    if t < 0 then -1 else if t = 0 then 0 else 1
  | .inf a, .inf b => if a = b then 0 else if a then -1 else 1
  | .inf a, .fin _ _ _ => if a then -1 else 1
  | .fin _ _ _, .inf b => if b then 1 else -1
  | _, _ => 0

/-- Round the magnitude m × 2^e toward zero to at most `p` significand bits and an exponent of at least `emin`. -/
def rtzMag (p : Nat) (emin : Int) (m : Nat) (e : Int) : Nat × Int :=
  let top : Int := (Nat.log2 m : Int) + e
  let want := top - ((p : Int) - 1)
  let t := if want < emin then emin else want
  if t ≤ e then (m, e) else (m >>> (t - e).toNat, t)

/-- The largest finite FP32 magnitude, (2^24 − 1) × 2^104 (03 R66). -/
def fp32Max : Nat × Int := (16777215, 104)

/-- Does the magnitude m × 2^e exceed the largest finite FP32 (03 R78)? -/
def beyondFp32 (m : Nat) (e : Int) : Bool := vCmp (.fin false m e) (.fin false fp32Max.1 fp32Max.2) = 1

/-- rtz_fp32 of 03 R76. -/
def rtzFp32 : Val → Val
  | .fin n m e =>
    if m = 0 then .fin n 0 0
    else if beyondFp32 m e then .fin n fp32Max.1 fp32Max.2
    else
      let r := rtzMag 24 (-149) m e
      if r.1 = 0 then .fin n 0 0 else .fin n r.1 r.2
  | v => v

/-- The events the rooms count (03 R78, 07 R206). -/
structure Counts where
  nan   : Nat
  ovf   : Nat
  sat   : Nat
  couch : Nat
  deriving DecidableEq, Repr

/-- No event. -/
def countsZero : Counts := ⟨0, 0, 0, 0⟩

/-- Counts of two parts together. -/
def countsAdd (a b : Counts) : Counts := ⟨a.nan + b.nan, a.ovf + b.ovf, a.sat + b.sat, a.couch + b.couch⟩

/-- 2^31 − 1 and −2^31 (03 R68). -/
def int32Max : Int := 2147483647

/-- The least INT32. -/
def int32Min : Int := -2147483648

/-- acc_add_f of 03 R76: an FP32 partial sum and an exact addend. -/
def accAddF (s p : Val) : Val := rtzFp32 (vAdd s p)

/-- The events of one acc_add_f (03 R78). -/
def accAddFCounts (s p : Val) : Counts :=
  match vAdd s p with
  | .nan => if s = .nan ∨ p = .nan then countsZero else ⟨1, 0, 0, 0⟩
  | .fin _ m e => if beyondFp32 m e then ⟨0, 1, 0, 0⟩ else countsZero
  | .inf _ => countsZero

/-- The integer a held value stands for in an integer step. A value that is no integer (05 R134: a tile of another format than
its op's) has no stated reading there, so it is free (log 5). -/
def vToInt : Val → Int
  | .fin n m e =>
    if 0 ≤ e then (if n then -((m <<< e.toNat : Nat) : Int) else ((m <<< e.toNat : Nat) : Int))
    else if m % (2 ^ (-e).toNat) = 0 then
      (if n then -((m >>> (-e).toNat : Nat) : Int) else ((m >>> (-e).toNat : Nat) : Int))
    else Config.heldAsInt n m e
  | .inf n => Config.heldAsInt n 0 0
  | .nan => Config.heldAsInt false 1 0

/-- Saturate an exact integer to INT32 (03 R77). -/
def satInt32 (i : Int) : Int := if i > int32Max then int32Max else if i < int32Min then int32Min else i

/-- acc_add_i of 03 R77. -/
def accAddI (s p : Int) : Int := satInt32 (s + p)

/-- The events of one acc_add_i: acc_sat (03 R77, R78). -/
def accAddICounts (s p : Int) : Counts := if satInt32 (s + p) = s + p then countsZero else ⟨0, 0, 1, 0⟩

/-- acc_add of 03 R79: the float step, or the integer step for an integer pair. -/
def accAdd (int : Bool) (s p : Val) : Val :=
  if int then vOfInt (accAddI (vToInt s) (vToInt p)) else accAddF s p

/-- The events of one acc_add. -/
def accAddCounts (int : Bool) (s p : Val) : Counts :=
  if int then accAddICounts (vToInt s) (vToInt p) else accAddFCounts s p

/-- The reduction chain of 03 R79: every product joins the partial sum in order. -/
def accChain (int : Bool) : Val → List Val → Val
  | s, [] => s
  | s, p :: ps => accChain int (accAdd int s p) ps

/-- The events of a chain. -/
def accChainCounts (int : Bool) : Val → List Val → Counts
  | _, [] => countsZero
  | s, p :: ps => countsAdd (accAddCounts int s p) (accChainCounts int (accAdd int s p) ps)

/-- The exact quotient of a value by a positive finite value, carried to enough bits that every rounding toward zero of the
formats of 03 R66 reads it as the exact quotient (04 R100). -/
def vDivPos : Val → Val → Val
  | .nan, _ => .nan
  | _, .nan => .nan
  | .inf n, _ => .inf n
  | .fin n _ _, .inf _ => .fin n 0 0
  | .fin n m e, .fin _ m' e' =>
    if m = 0 then .fin n 0 0
    else
      let k := Nat.log2 m' + 32
      .fin n ((m <<< k) / m') (e - e' - (k : Int))

/-- Truncation toward zero of a finite value to an integer (03 R86). -/
def vTrunc : Val → Int
  | .fin n m e =>
    let k : Nat := if 0 ≤ e then m <<< e.toNat else m >>> (-e).toNat
    if n then -(k : Int) else (k : Int)
  | _ => 0

/-- The largest integer not above a finite value. -/
def vFloor : Val → Int
  | .fin n m e =>
    if 0 ≤ e then vTrunc (.fin n m e)
    else
      let q := m >>> (-e).toNat
      if n then (if q <<< (-e).toNat = m then -(q : Int) else -(q : Int) - 1) else (q : Int)
  | _ => 0

/-! The float encodings of 03 R66 and R67. -/

/-- Exponent and fraction widths and the bias of a float format (03 R66). SW16 reads as 8 and 8 bits without a sign. -/
def fmtShape : Fmt → Nat × Nat × Int
  | .fp32 => (8, 23, 127) | .fp16 => (5, 10, 15) | .bf16 => (8, 7, 127) | .e4m3 => (4, 3, 7) | .e5m2 => (5, 2, 15)
  | .e3m2 => (3, 2, 3) | .e2m3 => (2, 3, 1) | .e2m1 => (2, 1, 1) | .sw16 => (8, 8, 127)
  | _ => (0, 0, 0)

/-- The value of a two's-complement code of `w` bits. -/
def signedOf (w code : Nat) : Int :=
  let c := code % 2 ^ w
  if c < 2 ^ (w - 1) then (c : Int) else (c : Int) - (2 ^ w : Nat)

/-- The two's-complement code of an integer in `w` bits. -/
def codeOfInt (w : Nat) (i : Int) : Nat := (i % ((2 ^ w : Nat) : Int)).toNat

/-- The value of a code in a format (03 R66 to R68, R70). The SW16 codes with e = 0xFF are invalid and read as NaN here; the
steps that read a scale test for them first (03 R71). -/
def decodeFmt (f : Fmt) (code : Nat) : Val :=
  match f with
  | .int32 => vOfInt (signedOf 32 code)
  | .int16 => vOfInt (signedOf 16 code)
  | .int8 => vOfInt (signedOf 8 code)
  | .int4 => vOfInt (signedOf 4 code)
  | .sw16 =>
    let e := code / 256 % 256
    let m := code % 256
    if e = 255 then .nan else if e = 0 then .fin false m (-134) else .fin false (256 + m) ((e : Int) - 135)
  | _ =>
    let (ew, mw, bias) := fmtShape f
    let m := code % 2 ^ mw
    let e := code / 2 ^ mw % 2 ^ ew
    let n := decide (code / 2 ^ (mw + ew) % 2 = 1)
    let special := e = 2 ^ ew - 1
    match f with
    | .e4m3 =>
      if special ∧ m = 7 then .nan
      else if e = 0 then .fin n m (1 - bias - (mw : Int)) else .fin n (2 ^ mw + m) ((e : Int) - bias - (mw : Int))
    | .e3m2 | .e2m3 | .e2m1 =>
      if e = 0 then .fin n m (1 - bias - (mw : Int)) else .fin n (2 ^ mw + m) ((e : Int) - bias - (mw : Int))
    | .bf16 =>
      if special then (if m = 0 then .inf n else .nan)
      else if e = 0 then .fin n 0 0 else .fin n (2 ^ mw + m) ((e : Int) - bias - (mw : Int))
    | _ =>
      if special then (if m = 0 then .inf n else .nan)
      else if e = 0 then .fin n m (1 - bias - (mw : Int)) else .fin n (2 ^ mw + m) ((e : Int) - bias - (mw : Int))

/-- The largest finite magnitude code (without sign) of a float format (03 R66). -/
def fmtMaxCode : Fmt → Nat
  | .fp32 => 0x7F7FFFFF | .fp16 => 0x7BFF | .bf16 => 0x7F7F | .e4m3 => 0x7E | .e5m2 => 0x7B | .e3m2 => 0x1F
  | .e2m3 => 0x1F | .e2m1 => 0x7 | .sw16 => 0xFEFF
  | .int32 => 0x7FFFFFFF | .int16 => 0x7FFF | .int8 => 0x7F | .int4 => 0x7

/-- The largest finite value of a format. -/
def fmtMax (f : Fmt) : Val := decodeFmt f (fmtMaxCode f)

/-- The canonical NaN code of a float format (03 R67); the formats without one write +0 (03 R86). -/
def fmtNan : Fmt → Nat
  | .fp32 => 0x7FC00000 | .fp16 => 0x7E00 | .bf16 => 0x7FC0 | .e4m3 => 0x7F | .e5m2 => 0x7E | _ => 0

/-- Is NaN or infinity of the format encodable (03 R67)? -/
def fmtHasInf : Fmt → Bool
  | .fp32 | .fp16 | .bf16 | .e5m2 => true
  | _ => false

/-- The magnitude code of m × 2^e rounded toward zero, for a magnitude not beyond the format's range. -/
def magCode (f : Fmt) (m : Nat) (e : Int) : Nat :=
  let (_, mw, bias) := fmtShape f
  if m = 0 then 0
  else
    let emin : Int := 1 - bias - (mw : Int)
    let r := rtzMag (mw + 1) emin m e
    -- bring the significand to exponent t: bit mw set for a normal value
    let top : Int := (Nat.log2 m : Int) + e
    if top < 1 - bias then
      (if f = .bf16 then 0 else (if r.2 ≤ emin then r.1 else r.1 <<< (r.2 - emin).toNat))
    else
      let t := top - (mw : Int)
      let s := if t ≤ r.2 then r.1 <<< (r.2 - t).toNat else r.1 >>> (t - r.2).toNat
      (top + bias).toNat * 2 ^ mw + (s - 2 ^ mw)

/-- The conversion of 03 R86 to a storage format: the code, and whether it is a saturation. -/
def convert (f : Fmt) (v : Val) : Nat × Bool :=
  match f with
  | .int32 | .int16 | .int8 | .int4 =>
    let w := fmtBits f
    let hi : Int := ((2 ^ (w - 1) : Nat) : Int) - 1
    let lo : Int := -((2 ^ (w - 1) : Nat) : Int)
    match v with
    | .nan => (0, true)
    | .inf n => (codeOfInt w (if n then lo else hi), true)
    | .fin _ _ _ =>
      let t := vTrunc v
      if t > hi then (codeOfInt w hi, true) else if t < lo then (codeOfInt w lo, true) else (codeOfInt w t, false)
  | _ =>
    let sign := 2 ^ (fmtBits f - 1)
    match v with
    | .nan => (fmtNan f, match f with | .e3m2 | .e2m3 | .e2m1 => true | _ => false)
    | .inf n =>
      if fmtHasInf f then
        let (ew, mw, _) := fmtShape f
        ((2 ^ ew - 1) * 2 ^ mw + (if n then sign else 0), false)
      else (fmtMaxCode f + (if n then sign else 0), true)
    | .fin n m e =>
      if vCmp (.fin false m e) (fmtMax f) = 1 then (fmtMaxCode f + (if n then sign else 0), true)
      else (magCode f m e + (if n then sign else 0), false)

/-- The FP32 code of a value that is an FP32 value. -/
def fp32Code (v : Val) : Nat := (convert .fp32 v).1

/-- Codes of SW16 are invalid with e = 0xFF (03 R70). -/
def swInvalid (code : Nat) : Bool := decide (code / 256 % 256 = 255)

/-- quantise of 04 R100: the code, and whether a saturation is counted. `z` is 0 for a float target. -/
def quantise (v s : Val) (z : Int) (f : Fmt) : Nat × Bool :=
  if vIsZero s then (if fmtIsInt f then codeOfInt (fmtBits f) z else 0, false)
  else
    let t := rtzFp32 (vDivPos v s)
    if fmtIsInt f then
      let w := fmtBits f
      let hi : Int := ((2 ^ (w - 1) : Nat) : Int) - 1
      let lo : Int := -((2 ^ (w - 1) : Nat) : Int)
      match t with
      | .nan => (codeOfInt w z, true)
      | .inf n => (codeOfInt w (if n then lo else hi), true)
      | .fin _ _ _ =>
        let u := vTrunc t + z
        if u > hi then (codeOfInt w hi, true) else if u < lo then (codeOfInt w lo, true) else (codeOfInt w u, false)
    else convert f t

/-- qmax of 04 R95. -/
def qmaxOf (f : Fmt) (z : Int) : Val :=
  if fmtIsInt f then vOfInt (((2 ^ (fmtBits f - 1) : Nat) : Int) - 1 - z) else fmtMax f

/-- The smallest SW16 code at or above `lo` whose value times qmax is at least `need`: the ascending search of 04 R106,
halving the range (the codes rise with their values). -/
def scaleSearch (q need : Val) : Nat → Nat → Nat → Nat
  | 0, lo, _ => lo
  | fuel + 1, lo, hi =>
    if hi ≤ lo then lo
    else
      let mid := (lo + hi) / 2
      if 0 ≤ vCmp (vMul q (decodeFmt .sw16 mid)) need then scaleSearch q need fuel lo mid
      else scaleSearch q need fuel (mid + 1) hi

/-- derive_scale of 04 R106 for the maximum m: the code and whether CLAMP is set. -/
def deriveScale (m headroom q : Val) (prev : Nat) : Nat × Bool :=
  if vIsZero m then (prev, false)
  else
    let need := vMul headroom m
    let c := scaleSearch q need 17 1 0xFEFF
    if 0 ≤ vCmp (vMul q (decodeFmt .sw16 c)) need then (c, false) else (0xFEFF, true)

/-! Packing of elements in stores (03 R69). -/

/-- The little-endian value of bytes. -/
def leVal : List Byte → Nat
  | [] => 0
  | b :: bs => b.toNat + 256 * leVal bs

/-- `n` little-endian bytes of a number. -/
def leBytes : Nat → Nat → List Byte
  | 0, _ => []
  | n + 1, v => BitVec.ofNat 8 v :: leBytes n (v / 256)

/-- The byte at position `i`, zero beyond the end. -/
def byteAt (bs : List Byte) (i : Nat) : Nat := (bs.getD i 0).toNat

/-- `n` little-endian bytes of a list from offset `o`. -/
def leAt (bs : List Byte) (o n : Nat) : Nat := leVal ((bs.drop o).take n)

/-- The code of element `i` of a row that starts a group at the first byte (03 R69). -/
def elemCode (f : Fmt) (bs : List Byte) (i : Nat) : Nat :=
  match fmtBits f with
  | 32 => leAt bs (4 * i) 4
  | 16 => leAt bs (2 * i) 2
  | 8 => byteAt bs i
  | 6 => leAt bs (3 * (i / 4)) 3 / 2 ^ (6 * (i % 4)) % 64
  | _ => byteAt bs (i / 2) / 2 ^ (4 * (i % 2)) % 16

/-- Bytes a row of `n` elements takes (03 R69). -/
def rowBytes (f : Fmt) (n : Nat) : Nat :=
  match fmtBits f with
  | 32 => 4 * n
  | 16 => 2 * n
  | 8 => n
  | 6 => 3 * ((n + 3) / 4)
  | _ => (n + 1) / 2

/-- Pack groups of four 6-bit codes into three bytes. -/
def pack6 : List Nat → List Byte
  | [] => []
  | [a] => leBytes 3 a
  | [a, b] => leBytes 3 (a + 64 * b)
  | [a, b, c] => leBytes 3 (a + 64 * b + 4096 * c)
  | a :: b :: c :: d :: t => leBytes 3 (a + 64 * b + 4096 * c + 262144 * d) ++ pack6 t

/-- Pack pairs of 4-bit codes into bytes. -/
def pack4 : List Nat → List Byte
  | [] => []
  | [a] => leBytes 1 a
  | a :: b :: t => BitVec.ofNat 8 (a + 16 * b) :: pack4 t

/-- Pack the codes of a row (03 R69). -/
def packRow (f : Fmt) (codes : List Nat) : List Byte :=
  match fmtBits f with
  | 32 => (codes.map (leBytes 4)).flatten
  | 16 => (codes.map (leBytes 2)).flatten
  | 8 => codes.map (BitVec.ofNat 8)
  | 6 => pack6 codes
  | _ => pack4 codes

/-- Extend a row with zero bytes to whole 64 B lines (08 R225). -/
def padLine (bs : List Byte) : List Byte := bs ++ List.replicate ((64 - bs.length % 64) % 64) 0

/-- The element of an operand less its zero point, exactly (03 R73, R74). -/
def elemVal (f : Fmt) (code : Nat) (z : Int) : Val :=
  if fmtIsInt f then vAdd (decodeFmt f code) (vOfInt (-z)) else decodeFmt f code

/-! Function of the press (07 R213, R214). -/

/-- The value of an FP32 code. -/
def fp32 (code : Nat) : Val := decodeFmt .fp32 code

/-- A power of two. -/
def vPow2 (e : Int) : Val := .fin false 1 e

/-- The larger of two values that are not NaN. -/
def vMax (a b : Val) : Val := if vCmp a b < 0 then b else a

/-- The two terms that pwl of 07 R213 adds, over the 2,064-byte table: c0[i], and c1[i] × u rounded. -/
def pwlTerms (table : List Byte) (x : Val) : Val × Val :=
    let lo := fp32 (leAt table 0 4)
    let wexp := signedOf 8 (byteAt table 4)
    let hi := vAdd lo (.fin false 256 wexp)
    let a := if vCmp x lo < 0 then lo else x
    let xc := if vCmp a hi > 0 then hi else a
    let d := vAdd xc (vNeg lo)
    let q := vFloor (vMul d (vPow2 (-wexp)))
    let i := if q > 255 then 255 else q.toNat
    let u := vAdd xc (vNeg (vAdd lo (.fin false i wexp)))
    let c0 := fp32 (leAt table (16 + 8 * i) 4)
    let c1 := fp32 (leAt table (20 + 8 * i) 4)
    (c0, rtzFp32 (vMul c1 u))

/-- pwl of 07 R213. -/
def pwl (table : List Byte) (x : Val) : Val :=
  match x with
  | .nan => .nan
  | _ => accAddF (pwlTerms table x).1 (pwlTerms table x).2

/-- The events of one pwl (03 R78). -/
def pwlCounts (table : List Byte) (x : Val) : Counts :=
  match x with
  | .nan => countsZero
  | _ => accAddFCounts (pwlTerms table x).1 (pwlTerms table x).2

/-- floor of the square root, by bisection on bits. -/
def natSqrtGo (n : Nat) : Nat → Nat → Nat
  | 0, r => r
  | k + 1, r =>
    let c := r + 2 ^ k
    natSqrtGo n k (if c * c ≤ n then c else r)

/-- 2^(i/256) × 2^120, rounded down, formed by eight exact floors of square roots: 2^(j/2) of the factors for the bits of i.
Each factor 2^(2^−t) is taken to 2^−120. -/
def pexpRoot : Nat → Nat
  | 0 => 2 * 2 ^ 120
  | t + 1 => natSqrtGo (pexpRoot t * 2 ^ 120) 122 0

/-- 2^(i/256) in units of 2^−120, from the binary digits of i (digit t of weight 2^(t−8)). -/
def pexpPow (i : Nat) : Nat :=
  (List.range 8).foldl (fun acc t => if i / 2 ^ (7 - t) % 2 = 1 then acc * pexpRoot (t + 1) / 2 ^ 120 else acc) (2 ^ 120)

/-- ln 2 in units of 2^−120: the sum of 1 / (k 2^k). -/
def ln2Fixed : Nat := (List.range 130).foldl (fun acc k => acc + 2 ^ 120 / ((k + 1) * 2 ^ (k + 1))) 0

/-- c0[i] of 07 R214: rtz_fp32(2^(i/256)). -/
def pexpC0 (i : Nat) : Val := rtzFp32 (.fin false (pexpPow i) (-120))

/-- c1[i] of 07 R214: rtz_fp32(ln 2 × 2^(i/256)). -/
def pexpC1 (i : Nat) : Val := rtzFp32 (.fin false (pexpPow i * ln2Fixed) (-240))

/-- pexp of 07 R214. -/
def pexp (x : Val) : Val :=
  match x with
  | .nan => .nan
  | .inf n => if n then vZero else .inf false
  | .fin _ _ _ =>
    let y := rtzFp32 (vMul x (fp32 0x3FB8AA3B))
    if vCmp y (vOfInt (-150)) < 0 then vZero
    else
      let n := vFloor y
      let f := vAdd y (vOfInt (-n))
      let i := (vTrunc (vMul f (vOfInt 256))).toNat
      let u := vAdd f (vNeg (.fin false i (-8)))
      let v := accAddF (pexpC0 i) (rtzFp32 (vMul (pexpC1 i) u))
      rtzFp32 (vMul v (vPow2 n))

/-! The beater rotation (04 R112, R113). -/

/-- One stage of rotate_block at distance `h`: each pair (i, i + h) with i / h even becomes its sum and difference. -/
def rotateStage (h : Nat) (v : List Val) : List Val :=
  (List.range v.length).map fun i =>
    if i / h % 2 = 0 then accAddF (v.getD i vZero) (v.getD (i + h) vZero)
    else accAddF (v.getD (i - h) vZero) (vNeg (v.getD i vZero))

/-- The events of one stage. -/
def rotateStageCounts (h : Nat) (v : List Val) : Counts :=
  (List.range v.length).foldl (fun c i => countsAdd c
    (if i / h % 2 = 0 then accAddFCounts (v.getD i vZero) (v.getD (i + h) vZero)
     else accAddFCounts (v.getD (i - h) vZero) (vNeg (v.getD i vZero)))) countsZero

/-- The stages h = 1, 2, 4 … of a block of 2^log values. -/
def rotateStages : Nat → Nat → List Val → List Val
  | 0, _, v => v
  | n + 1, h, v => rotateStages n (2 * h) (rotateStage h v)

/-- The events of all stages. -/
def rotateStagesCounts : Nat → Nat → List Val → Counts
  | 0, _, _ => countsZero
  | n + 1, h, v => countsAdd (rotateStageCounts h v) (rotateStagesCounts n (2 * h) (rotateStage h v))

/-- rotate_block of 04 R113 for a block of 2^log values, scaled by 2^−a. -/
def rotateBlock (log a : Nat) (v : List Val) : List Val :=
  (rotateStages log 1 v).map fun x => rtzFp32 (vMul x (vPow2 (-(a : Int))))

end Sys2Proof.Machine
end

