-- ==== Sys2Proof/Machine/Tab.lean ====
section
/-!
DEFINITION. Sparse tables: a store, a register file or an object table held as plain data. A table lists the entries that
differ from a default, keys strictly rising; an unlisted key reads as the default. The default is said by the reader, once
per table (08 R253 for a store, the reset column of the manual's register tables for the rest).
-/
namespace Sys2Proof.Machine

/-- A sparse table from a number to a value. -/
abbrev Tab (α : Type) := List (Nat × α)

/-- The value at key `a`; `d` where the table lists none. -/
def tabGet {α : Type} (d : α) : Tab α → Nat → α
  | [], _ => d
  | (k, v) :: t, a => if k = a then v else tabGet d t a

/-- Remove every entry of key `a`. -/
def tabErase {α : Type} : Tab α → Nat → Tab α
  | [], _ => []
  | (k, v) :: t, a => if k = a then tabErase t a else (k, v) :: tabErase t a

/-- List `x` at key `a`, in rising order of the keys. -/
def tabIns {α : Type} : Tab α → Nat → α → Tab α
  | [], a, x => [(a, x)]
  | (k, v) :: t, a, x =>
    if a < k then (a, x) :: (k, v) :: t
    else if a = k then (a, x) :: t
    else (k, v) :: tabIns t a x

/-- Write `x` at key `a`: an entry equal to the default is not listed. -/
def tabPut {α : Type} [DecidableEq α] (d : α) (t : Tab α) (a : Nat) (x : α) : Tab α :=
  if x = d then tabErase t a else tabIns t a x

/-- Keys strictly rising above `lo`, and no entry equal to the default. -/
def tabWfAbove {α : Type} [DecidableEq α] (d : α) : Nat → Tab α → Bool
  | _, [] => true
  | lo, (k, v) :: t => decide (lo ≤ k) && decide (v ≠ d) && tabWfAbove d (k + 1) t

/-- The canonical form of a table with default `d`. -/
def tabWf {α : Type} [DecidableEq α] (d : α) (t : Tab α) : Bool := tabWfAbove d 0 t

/-- Change the value at key `a` by `f`. -/
def tabMod {α : Type} [DecidableEq α] (d : α) (t : Tab α) (a : Nat) (f : α → α) : Tab α :=
  tabPut d t a (f (tabGet d t a))

/-- Write consecutive keys from `a`. -/
def tabPutList {α : Type} [DecidableEq α] (d : α) : Tab α → Nat → List α → Tab α
  | t, _, [] => t
  | t, a, x :: xs => tabPutList d (tabPut d t a x) (a + 1) xs

/-- Read `n` consecutive keys from `a`. -/
def tabGetList {α : Type} (d : α) (t : Tab α) (a n : Nat) : List α :=
  (List.range n).map fun i => tabGet d t (a + i)

/-- Change every listed value by `f`; an entry that becomes the default is no longer listed. -/
def tabMap {α : Type} [DecidableEq α] (d : α) (f : α → α) : Tab α → Tab α
  | [] => []
  | (k, v) :: t => if f v = d then tabMap d f t else (k, f v) :: tabMap d f t

/-- Write the same value to `n` consecutive keys from `a`. -/
def tabFill {α : Type} [DecidableEq α] (d : α) (t : Tab α) (a n : Nat) (x : α) : Tab α :=
  tabPutList d t a (List.replicate n x)

/-- The lowest of the `n` numbers from `k` that meets `p`. -/
def firstFrom (p : Nat → Bool) : Nat → Nat → Option Nat
  | 0, _ => none
  | n + 1, k => if p k then some k else firstFrom p n (k + 1)

end Sys2Proof.Machine
end

