-- ==== Sys2Proof/Machine/StateImage.lean ====
section
/-!
DEFINITION. Plain data of a loaded task image (09_sweeps_and_mapping R273 to R284): the records of its sections as the loader
reads them, and what placement added to them.
-/
namespace Sys2Proof.Machine

/-- A ROOMS record (09 R275): engine room number, op list buffer, entry op. -/
structure RoomRec where
  room   : Nat
  oplist : Nat
  entry  : Nat
  deriving DecidableEq, Repr

/-- A buffer record (09 R276). `data` is the offset of the initial contents in DATA. -/
structure BufRec where
  id     : Nat
  kind   : Nat
  wclass : Bool
  narrow : Bool
  read   : Bool
  write  : Bool
  deckle : Nat
  base   : Nat
  size   : Nat
  data   : Option Nat
  deriving DecidableEq, Repr

/-- A binding record (09 R280). -/
structure BindRec where
  room   : Nat
  op     : Nat
  field  : Nat
  buffer : Nat
  delta  : Int
  deriving DecidableEq, Repr

/-- One axis of a deckle (09 R268). -/
structure AxisRec where
  logical : Nat
  padded  : Nat
  ream    : Nat
  pad     : Nat
  deriving DecidableEq, Repr

/-- A deckle record (09 R268), axis 0 first. -/
structure DeckleRec where
  id   : Nat
  used : Nat
  fmt  : Nat
  axes : List AxisRec
  deriving DecidableEq, Repr

/-- A level record of a sweep (09 R256). -/
structure LevelRec where
  order : Nat
  bm    : Nat
  bn    : Nat
  bk    : Nat
  deriving DecidableEq, Repr

/-- A sweep record (09 R256). -/
structure SweepRec where
  id     : Nat
  out    : Nat
  act    : Nat
  wgt    : Nat
  split  : Nat
  cellar : LevelRec
  pantry : LevelRec
  shelf  : LevelRec
  deriving DecidableEq, Repr

/-- A ream record (09 R271): the bucket sizes in use, ascending. -/
structure ReamRec where
  ream  : Nat
  sizes : List Nat
  deriving DecidableEq, Repr

/-- A RINGS record (09 R275) with the descriptor that placement allocated (09 R283). -/
structure RingRec where
  ring   : Nat
  hall   : Nat
  buffer : Nat
  pipe   : Nat
  desc   : Nat
  deriving DecidableEq, Repr

/-- A pipe record (09 R265). -/
structure PipeRec where
  pipe      : Nat
  ring      : Nat
  producer  : Nat
  consumer  : Nat
  slot      : Nat
  depth     : Nat
  dataCtr   : Nat
  creditCtr : Nat
  deriving DecidableEq, Repr

/-- A CHAINS record (09 R275). -/
structure ChainRec where
  chain : Nat
  pos   : Nat
  room  : Nat
  deriving DecidableEq, Repr

/-- A QPOINTS record (09 R275). -/
structure QRec where
  point   : Nat
  state   : Nat
  room    : Nat
  op      : Nat
  role    : Nat
  axis    : Nat
  chBase  : Nat
  chQstep : Nat
  wide    : Nat
  deriving DecidableEq, Repr

/-- A SYNCS record. -/
structure SyncRec where
  group : Nat
  room  : Nat
  deriving DecidableEq, Repr

/-- A traffic claim (09 R282). -/
structure TrafficRec where
  hall    : Nat
  lane    : Nat
  source  : Nat
  srcHall : Nat
  first   : Nat
  last    : Nat
  rate    : Nat
  deriving DecidableEq, Repr

/-- A TABLES record: press table slot of a room from a buffer of kind 0x6. -/
structure TableRec where
  room   : Nat
  slot   : Nat
  buffer : Nat
  deriving DecidableEq, Repr

/-- An ANNEXES record (09 R275). -/
structure AnnexRec where
  slot    : Nat
  latency : Nat
  rate    : Nat
  fmin    : Nat
  deriving DecidableEq, Repr

/-- A member record of the SLOTS section (13 R400): member index and fabric address. -/
structure MemberRec where
  member : Nat
  addr   : Nat
  deriving DecidableEq, Repr

/-- A flow record of the SLOTS section (13 R400). `window` is DKIND 0x1. -/
structure FlowRec where
  flow      : Nat
  window    : Bool
  srcMember : Nat
  srcRing   : Nat
  dstMember : Nat
  dstRing   : Nat
  frame     : Nat
  dstBase   : Nat
  deriving DecidableEq, Repr

/-- A claim record of the SLOTS section (13 R400). -/
structure ClaimRec where
  bundle : Nat
  member : Nat
  flow   : Nat
  slot   : Nat
  count  : Nat
  first  : Nat
  last   : Nat
  frames : Nat
  deriving DecidableEq, Repr

/-- The sections of one variant of an image (09 R275): shared and variant records together. -/
structure Variant where
  rooms   : List RoomRec
  bufs    : List BufRec
  binds   : List BindRec
  sweeps  : List SweepRec
  rings   : List RingRec
  pipes   : List PipeRec
  chains  : List ChainRec
  qpoints : List QRec
  syncs   : List SyncRec
  traffic : List TrafficRec
  tables  : List TableRec
  deriving DecidableEq, Repr

/-- A rotated weight copy (04 R114): the consumer op and point it serves, its place in the cellar reserve, its scale tensor's
place, its sizes, the window through which tasks read it, and whether it is present (04 R115). -/
structure CopyRec where
  copy    : Nat
  variant : Nat
  room    : Nat
  op      : Nat
  point   : Nat
  buffer  : Nat
  src     : Nat
  base    : Nat
  size    : Nat
  scales  : Nat
  nScales : Nat
  fmt     : Nat
  blockLog : Nat
  window  : Nat
  present : Bool
  deriving DecidableEq, Repr

/-- What the steward keeps of a state block for QSTATE_RESET (04 R90, R578): its address and its initial bytes. -/
structure InitBlock where
  point : Nat
  addr  : Nat
  bytes : List Byte
  deriving DecidableEq, Repr

/-- A loaded image. `launches` counts its launches since it was loaded, which number the rounds of 13 R406. -/
structure Image where
  handle      : Nat
  ctx         : Nat
  imageId     : Nat
  restartable : Bool
  multi       : Bool
  v15         : Bool
  members     : Nat
  c16         : Nat
  c16chk      : Nat
  c15         : Nat
  c15chk      : Nat
  deckles     : List DeckleRec
  reams       : List ReamRec
  var16       : Variant
  var15       : Variant
  memberRecs  : List MemberRec
  flows       : List FlowRec
  claims      : List ClaimRec
  launches    : Nat
  crc         : Nat
  annexes     : List AnnexRec
  windows     : List Nat
  granules    : List Nat
  copies      : List CopyRec
  blocks      : List InitBlock
  deriving DecidableEq, Repr

/-- The variant with no record. -/
def variantNone : Variant := ⟨[], [], [], [], [], [], [], [], [], [], []⟩

end Sys2Proof.Machine
end

