-- ==== Sys2Proof/Machine/StateMill.lean ====
section
/-!
DEFINITION. Plain data of the mill and the store: rooms (06_tile_ops R160 to R199), moulds and chute (05), press (07), sizer
statistics (04), stores with their ownership, windows, rings and error registers (08).
-/
namespace Sys2Proof.Machine

/-- The configuration (00 R5 to R9, 19 R527): parameters fixed when the block is built. `annexDecl` is one ANNEX_DECL value
per slot (12 R352). -/
structure Params where
  halls         : Nat
  tiers         : Nat
  gatehouses    : Nat
  spareRoom     : Nat
  annexSlots    : Nat
  hatchChannels : Nat
  sbPins        : Nat
  annexDecl     : List Nat
  deriving DecidableEq, Repr

/-- What a 64 B line gives when it is read (08 R247). -/
inductive LineCond where
  | good | correctable | uncorrectable | poisoned
  deriving DecidableEq, Repr

/-- What a 64 B line and its 36-bit side entry hold against what was written (08 R246): as written, with the listed bits flipped (0 to 511 the data, 512 to 547 the
check bits) or reached at a wrong address, or the pattern that marks poison. -/
inductive LineErr where
  | good
  | flipped (bits : List Nat) (wrongLine : Bool)
  | poisoned
  deriving DecidableEq, Repr

/-- A ring descriptor (08 R243). -/
structure Ring where
  tail  : Nat
  head  : Nat
  valid : Bool
  owner : Nat
  size  : Nat
  base  : Nat
  deriving DecidableEq, Repr

/-- The ring descriptor at reset. -/
def ringZero : Ring := ⟨0, 0, false, 0, 0, 0⟩

/-- A window descriptor (08 R240). -/
structure Window where
  anyPeer : Bool
  opened  : Bool
  fabric  : Bool
  write   : Bool
  read    : Bool
  peer    : Nat
  owner   : Nat
  limit   : Nat
  base    : Nat
  deriving DecidableEq, Repr

/-- The window descriptor at reset. -/
def windowZero : Window := ⟨false, false, false, false, false, 0, 0, 0, 0⟩

/-- STORE_ERR_COUNT (08 R249). -/
structure ErrCount where
  corrected     : Nat
  uncorrectable : Nat
  poisonHits    : Nat
  deriving DecidableEq, Repr

/-- STORE_ERR_COUNT at reset. -/
def errCountZero : ErrCount := ⟨0, 0, 0⟩

/-- STORE_ERR_LOG (08 R249). -/
structure ErrLog where
  valid    : Bool
  overflow : Bool
  scrub    : Bool
  cls      : Nat
  ctx      : Nat
  line     : Nat
  deriving DecidableEq, Repr

/-- STORE_ERR_LOG at reset. -/
def errLogZero : ErrLog := ⟨false, false, false, 0, 0, 0⟩

/-- A write that waits for service at a port (08 R228, R231): its address and bytes, and the ring whose TAIL advances when it lands, by how many bytes (R244). -/
structure PendWrite where
  addr  : Nat
  bytes : List Byte
  tail  : Option (Nat × Nat)
  deriving DecidableEq, Repr

/-- A read whose data has not been delivered (08 R228, R233): its address and bytes, and the ring whose HEAD advances when it returns, by how many bytes (R244). -/
structure PendRead where
  addr : Nat
  len  : Nat
  head : Option (Nat × Nat)
  deriving DecidableEq, Repr

/-- One 512 B unit in a cellar lane (08 R229 to R233): hall and lane of the cellar, the column behind which it lies,
local or remote, the room and op that wait for it, its number among the lane's units, the port cycle of its arrival, what it writes or reads, and whether it has been
served and stands in the gather stage. The list is in arrival order. -/
structure LaneUnit where
  hall   : Nat
  lane   : Nat
  column : Nat
  isLocal : Bool
  room   : Nat
  op     : Nat
  seq    : Nat
  cycle  : Nat
  write  : Option PendWrite
  read   : Option PendRead
  served : Bool
  deriving DecidableEq, Repr

/-- A remote access waiting at a room's pantry or shelf port (08 R228), what it writes or reads, and the room and counter that a stream port signals when it has been served
(12 R355). -/
structure RemoteAcc where
  target : Nat
  room   : Nat
  op     : Nat
  write  : Option PendWrite
  read   : Option PendRead
  sig    : Option (Nat × Nat)
  deriving DecidableEq, Repr

/-- A relocated bank (08 R252): hall, bank, the reserve offset that holds it. -/
structure Reloc where
  hall : Nat
  bank : Nat
  base : Nat
  deriving DecidableEq, Repr

/-- The store: bytes at 40-bit addresses (unlisted: 0, log 6), line conditions, ownership (08 R238), windows, rings (key
1,024 × hall + ring), error registers per hall and pending work. `portCycle` counts a hall's port cycles from reset (08 R230), `laneNum` the units that each lane (key
16 × hall + lane) has taken. -/
structure Store where
  mem      : Tab Byte
  lines    : Tab LineErr
  own      : Tab (BitVec 16)
  ownReset : BitVec 16
  windows  : Tab Window
  rings    : Tab Ring
  errCount : Tab ErrCount
  errLog   : Tab ErrLog
  wbacks   : List Nat
  clearing : List Nat
  lanes    : List LaneUnit
  remote   : List RemoteAcc
  portCycle : Tab Nat
  laneNum  : Tab Nat
  scrubPos : Tab Nat
  relocs   : List Reloc
  deriving DecidableEq, Repr

/-- The store at reset: every ownership entry reads CLASS 0x3, CTX 0 (08 R238, R254). -/
def storeReset : Store := ⟨[], [], [], 0xC000, [], [], [], [], [], [], [], [], [], [], [], []⟩

/-- A fault record (06 R199, 08 R250, 11 R343): code, engine room, op, opcode, iteration, address bits [39:6], and the member that recorded it. -/
structure FaultRec where
  code : Nat
  room : Nat
  op   : Nat
  opc  : Nat
  iter : Nat
  line : Nat
  member : Nat
  deriving DecidableEq, Repr

/-- What a failed residue check reports to the health unit (05 R158, R159): the mould (4 the chute), the chain check or the product check, and the physical row or
column of the check cell (of the chute, the lane group). -/
structure Mismatch where
  mould : Nat
  chain : Bool
  isRow : Bool
  index : Nat
  deriving DecidableEq, Repr

/-- An output element on its way through the sizer: its channel n, its table rescale entry, the output channel of the op's own weights (04 R114), its output row (the row whose blocks
the beater rotation gathers), the accumulator value, and the chute's partial where one is merged. -/
structure Elem where
  n    : Nat
  tab  : Nat
  col  : Nat
  key  : Nat
  acc  : Val
  part : Option Val
  deriving DecidableEq, Repr

/-- A drained vector: its store address, the iteration that drained it, its elements in order. -/
structure OutRow where
  addr  : Nat
  iter  : Nat
  elems : List Elem
  deriving DecidableEq, Repr

/-- The running state of a row of the streaming softmax (07 R215). -/
structure SoftRow where
  mx  : Val
  l   : Val
  bad : Bool
  deriving DecidableEq, Repr

/-- What an op holds of the fill or the transfer that it is in the middle of: the groups of its streams read and still needed (05 R138), of the left or only edge and of the top
edge; the outputs of the fill so far, or the accumulators of an output-stationary tile, and that tile's seeds; the rows that `move` has read; and the gather stage. -/
structure PartWork where
  edge   : List (List (List Byte))
  top    : List (List (List Byte))
  outs   : List (List Val)
  seeds  : List (List Val)
  rows   : List (List Byte)
  gather : List Nat
  deriving DecidableEq, Repr

/-- Nothing held. -/
def partNone : PartWork := ⟨[], [], [], [], [], []⟩

/-- An issued op that has not retired (06 R193): its number, opcode, the units it engages (bit numbers of 06 R167, and 16 + m for the load path of
mould m), the bits of AFTER that wait for it, and the gangs it runs on; its place in the order of issue, its words and the scalar registers it saw; the work steps done
and to do (the units are engaged until the last has entered, log 55), the seed loop of each output tile (05 R143), drained vectors that wait for
the rest of their blocks (04 R576); of a pair, the tiles of stage A and of the twin in its couch buffer, the rows of its softmax, and the blocks that stage B has taken
(07 R204, R215); and what it holds of the fill or transfer that it is in the middle of. -/
structure InFlight where
  op     : Nat
  opc    : Nat
  units  : List Nat
  after  : List Nat
  gangs  : List Nat
  seq    : Nat
  word   : OpWord
  word2  : OpWord
  regs   : Tab (BitVec 32)
  pos    : Nat
  total  : Nat
  loop   : Tab (List (List Val))
  rows   : List OutRow
  tiles  : List (List (List Val))
  tiles2 : List (List (List Val))
  soft   : List SoftRow
  blk    : Nat
  part   : PartWork
  deriving DecidableEq, Repr

/-- A narrow access of the room core (06 R171, 08 R227) that has not completed: its place in the order of issue, the op and its opcode, load or store, the register of a
load, the pantry offset, the value of a store or of a served load, and whether it has been served. -/
structure Narrow where
  seq    : Nat
  op     : Nat
  opc    : Nat
  load   : Bool
  reg    : Nat
  offset : Nat
  value  : BitVec 32
  served : Bool
  deriving DecidableEq, Repr

/-- A halo transfer at the receiving room (06 R185): the peer, the tag, and either the bytes that a send delivered ahead of
its receive or the local region of a receive whose send has not issued. -/
structure HaloSlot where
  peer    : Nat
  tag     : Nat
  arrived : Bool
  bytes   : List Byte
  op      : Nat
  base    : Nat
  pitch   : Int
  rows    : Nat
  rb      : Nat
  deriving DecidableEq, Repr

/-- Why the room core holds issue: at a `sync` with the beat of issue and the beat in which its earlier ops had retired (02 R49), at a `wait` with the beat of issue, or after `end`. -/
inductive Hold where
  | none
  | sync (op group target since : Nat) (arrived : Option Nat)
  | wait (op ctr count since : Nat)
  | ended
  deriving DecidableEq, Repr

/-- The statistics one room gathers for a point in a round (04 R103, R105): FP32 codes of the maxima. -/
structure PStat where
  norm   : Tab Nat
  beat   : Nat
  sat    : Nat
  nonfin : Nat
  deriving DecidableEq, Repr

/-- No statistic. -/
def pstatZero : PStat := ⟨[], 0, 0, 0⟩

/-- A vector of a pass whose outputs stand in the chute's drain set for a merge (06 R180): the point, the op, the pass, the vector, the values, and those not yet
taken by position. -/
structure WidePart where
  opt  : Nat
  op   : Nat
  pass : Nat
  vec  : Nat
  vals : List Val
  left : List Nat
  deriving DecidableEq, Repr

/-- An element on its way to an annex row function (07 R218): its FP32 word, the row-end mark, and the iteration of the op it belongs to. -/
structure AnnexElem where
  word   : Nat
  rowEnd : Bool
  iter   : Nat
  deriving DecidableEq, Repr

/-- Elements of an op that an annex computes (07 R218): the op, its place in the order of issue, the slot; the elements not yet sent, those in the crossing FIFO in
transfers of up to 64 (02 R62) or with the annex, with the beat of sending; and the results received. -/
structure AnnexJob where
  op      : Nat
  seq     : Nat
  slot    : Nat
  pairOp  : Bool
  toSend  : List AnnexElem
  sent    : List (AnnexElem × Nat)
  results : List Nat
  deriving DecidableEq, Repr

/-- A tile at a room's relay port (09 R263): its size in bytes, the bytes that have arrived, how many an `lds` has written, and how many have gone downstream. A byte stands in the
relay buffer until both have been done with it. -/
structure RelayTile where
  size  : Nat
  bytes : List Byte
  taken : Nat
  sent  : Nat
  deriving DecidableEq, Repr

/-- A room (06, 05, 04, 07). `g` lists the scalar registers (g0 is never listed), `cells` the stationary values of the moulds,
`act` which of the two sets of a mould is active, `vec` the chute's vector buffer, `lanes` its working accumulators by vector and `wide` its drain set (05 R148), `scale`
the sizer's scale table, `relay` the relay buffer (09 R263); `issued` counts the ops issued; `mismatch` is the residue check that failed. -/
structure Room where
  task      : Option Nat
  g         : Tab (BitVec 32)
  ctr       : Tab Nat
  listBase  : Nat
  listOps   : Nat
  issued    : Nat
  fetchNext : Nat
  opBuf     : List (Nat × OpWord)
  hold      : Hold
  inflight  : List InFlight
  narrow    : List Narrow
  cells     : Tab Val
  act       : Tab Nat
  vec       : Tab Byte
  scale     : Tab (BitVec 16)
  press     : Tab (List Byte)
  lanes     : List (List Val)
  wide      : List WidePart
  stats     : Tab PStat
  counts    : Counts
  relay     : List RelayTile
  halos     : List HaloSlot
  annex     : Option AnnexJob
  fault     : Option FaultRec
  mismatch  : Option Mismatch
  reported  : Bool
  deriving DecidableEq, Repr

/-- The room before any launch: every scalar and count zero (log 4). -/
def roomZero : Room :=
  ⟨none, [], [], 0, 0, 0, 0, [], .none, [], [], [], [], [], [], [], [], [], [], countsZero, [], [], none, none, none, false⟩

/-- A physical defect of a mould or chute that its residue checks may find (05 R154 to R159): the physical room, the mould (4 for the
chute), the physical row or column of the mould's cells (of the chute, the lane group), and the error of the residues that its multipliers' products carry. -/
structure Defect where
  room  : Nat
  mould : Nat
  isRow : Bool
  index : Nat
  err   : Nat
  deriving DecidableEq, Repr

/-- What a round reads of a point at launch (04 R91). -/
structure PointL where
  point    : Nat
  block    : Nat
  beater   : Bool
  grain    : Bool
  win      : Nat
  qfmt     : Fmt
  zero     : Int
  blockLog : Nat
  chans    : Nat
  scaleB   : Nat
  scales   : List Nat
  wide     : List Nat
  wideFmt  : Fmt
  headroom : Nat
  thresh   : Nat
  deriving DecidableEq, Repr

end Sys2Proof.Machine
end

