-- ==== Sys2Proof/Machine/StoreOps.lean ====
section
/-!
DEFINITION. The store (08_store_hierarchy): the address map, ownership and windows, line outcomes, byte reads and writes, and
the traffic an access leaves pending at a lane or a port.
-/
namespace Sys2Proof.Machine

/-! The address map (08 R220 to R222, 01 R21). -/

/-- Two ranges overlap. -/
def overlap (a n b m : Nat) : Bool := decide (a < b + m) && decide (b < a + n)

/-- The banks of 1 MiB of a hall's cellar, usable range and reserve, 64 to a tier (01 R21, 08 R252). -/
def cellarBanks (tiers : Nat) : Nat := 64 * tiers

/-- Usable cellar bytes per hall (01 R21). -/
def usableCellar (tiers : Nat) : Nat :=
  2 ^ 20 * (match tiers with | 1 => 48 | 2 => 64 | 3 => 128 | 4 => 192 | _ => 256)

/-- Reserve bytes per hall (01 R21). -/
def reserveCellar (tiers : Nat) : Nat := 2 ^ 20 * (match tiers with | 1 => 16 | _ => 64)

/-- The cellar port rate in bytes per cycle (01 R21). -/
def portRate (tiers : Nat) : Nat := 2 ^ 14 * (if tiers ≤ 4 then tiers else 4)

/-- Columns of a hall's cellar (08 R229). -/
def cellarColumns (tiers : Nat) : Nat := 32 * (if tiers ≤ 4 then tiers else 4)

/-- The lane rate in bytes per cycle (08 R229). -/
def laneRate (tiers : Nat) : Nat := 2 ^ 10 * (if tiers ≤ 4 then tiers else 4)

/-- HALL of a store address. -/
def saHall (a : Nat) : Nat := a / 2 ^ 36 % 16

/-- LEVEL of a store address: 0 cellar, 1 pantry, 2 shelf. -/
def saLevel (a : Nat) : Nat := a / 2 ^ 34 % 4

/-- OFFSET of a store address. -/
def saOffset (a : Nat) : Nat := a % 2 ^ 34

/-- The logical room of a pantry or shelf address. -/
def saRoom (a : Nat) : Nat := a / 2 ^ 22 % 16

/-- The engine room number of a pantry or shelf address (01 R19). -/
def saEngineRoom (a : Nat) : Nat := 16 * saHall a + saRoom a

/-- The address of byte `o` of a room's pantry. -/
def pantryAddr (eroom o : Nat) : Nat := (eroom / 16) * 2 ^ 36 + 2 ^ 34 + (eroom % 16) * 2 ^ 22 + o

/-- The address of byte `o` of shelf `k` of a room. -/
def shelfAddr (eroom k o : Nat) : Nat := (eroom / 16) * 2 ^ 36 + 2 * 2 ^ 34 + (eroom % 16) * 2 ^ 22 + k * 2 ^ 17 + o

/-- The address of byte `o` of a hall's cellar. -/
def cellarAddr (hall o : Nat) : Nat := hall * 2 ^ 36 + o

/-- Is the address unmapped (08 R222)? `offered` lists the halls that offer fewer than 16 logical rooms. -/
def unmapped (P : Params) (offered : Tab Nat) (a : Nat) : Bool :=
  if 2 ^ 40 ≤ a then true
  else if P.halls ≤ saHall a then true
  else match saLevel a with
    | 0 => decide (usableCellar P.tiers + reserveCellar P.tiers ≤ saOffset a)
    | 1 => decide (a / 2 ^ 26 % 2 ^ 8 ≠ 0) || decide (tabGet 16 offered (saHall a) ≤ saRoom a)
    | 2 => decide (a / 2 ^ 26 % 2 ^ 8 ≠ 0) || decide (a / 2 ^ 19 % 8 ≠ 0) || decide (tabGet 16 offered (saHall a) ≤ saRoom a)
    | _ => true

/-- Does [a, a + n) touch an unmapped address? The map changes at granules only. -/
def spanUnmapped (P : Params) (offered : Tab Nat) (a n : Nat) : Bool :=
  decide (0 < n) && (List.range ((a + n - 1) / 65536 - a / 65536 + 1)).any fun k => unmapped P offered (max a ((a / 65536 + k) * 65536))

/-! Ownership (08 R238) and windows (08 R240). -/

/-- The ownership entry of the granule of an address. -/
def ownEntry (st : Store) (a : Nat) : BitVec 16 := tabGet st.ownReset st.own (a / 65536)

/-- CLASS of an entry. -/
def ownClass (e : BitVec 16) : Nat := e.toNat / 2 ^ 14

/-- CTX of an entry. -/
def ownCtx (e : BitVec 16) : Nat := e.toNat % 4096

/-- The entry of CLASS `c` owned by `ctx`. -/
def ownMake (c ctx : Nat) : BitVec 16 := BitVec.ofNat 16 (c * 2 ^ 14 + ctx % 4096)

/-- Write the entry of granule `g`. -/
def setOwn (st : Store) (g : Nat) (e : BitVec 16) : Store := { st with own := tabPut st.ownReset st.own g e }

/-- The granules that [a, a + n) touches. -/
def granulesOf (a n : Nat) : List Nat :=
  if n = 0 then [] else (List.range ((a + n - 1) / 65536 - a / 65536 + 1)).map (· + a / 65536)

/-- The lines that [a, a + n) touches. -/
def linesOf (a n : Nat) : List Nat :=
  if n = 0 then [] else (List.range ((a + n - 1) / 64 - a / 64 + 1)).map (· + a / 64)

/-- A granule that admits context `ctx` as its owner (08 R239). -/
def ownedBy (st : Store) (ctx g : Nat) : Bool :=
  let e := tabGet st.ownReset st.own g
  (ownClass e == 1 || ownClass e == 2) && ownCtx e == ctx

/-- An open window that admits the access of an engine context (08 R240). -/
def windowAdmits (w : Window) (ctx : Nat) (isWrite : Bool) (a n : Nat) : Bool :=
  w.opened && (if isWrite then w.write else w.read) && decide (w.base ≤ a) && decide (a + n ≤ w.limit) &&
    (w.anyPeer || w.peer == ctx)

/-- The admission rule of 08 R239. -/
def admitted (st : Store) (ctx : Nat) (isWrite : Bool) (a n : Nat) : Bool :=
  ctx == 0 || (granulesOf a n).all (ownedBy st ctx) || st.windows.any (fun w => windowAdmits w.2 ctx isWrite a n)

/-! Lines (08 R246, R247). -/

/-- The class of a line: the CLASS of its granule. -/
def lineClass (st : Store) (l : Nat) : Nat := ownClass (ownEntry st (l * 64))

/-- The 16 B word of an A-class line, with its 9 check bits, that a bit of the line and its side entry belongs to (08 R246). -/
def codeWord (bit : Nat) : Nat := if bit < 512 then bit / 128 else (bit - 512) / 9

/-- The flipped bits of one word of an A-class line. -/
def flipsOf (bits : List Nat) (w : Nat) : Nat := (bits.filter fun b => codeWord b == w).length

/-- What a line with flipped bits gives: a W-class line corrects 2 and detects 3, an A-class line corrects 1 and detects 2 in each word; beyond that nothing is stated
(08 R246, log 82). -/
def flipCond (cls l : Nat) (bits : List Nat) : LineCond :=
  let beyond : LineCond := if Config.beyondCode l bits then .uncorrectable else .correctable
  if bits.isEmpty then .good
  else if cls = 2 then (if bits.length ≤ 2 then .correctable else if bits.length = 3 then .uncorrectable else beyond)
  else if (List.range 4).any (fun w => flipsOf bits w == 2) then .uncorrectable
  else if (List.range 4).all (fun w => decide (flipsOf bits w ≤ 1)) then .correctable
  else beyond

/-- What a read of a line finds: the code covers the address, so the wrong line is uncorrectable (08 R246, R247). -/
def lineCond (st : Store) (l : Nat) : LineCond :=
  match tabGet .good st.lines l with
  | .good => .good
  | .poisoned => .poisoned
  | .flipped bits wrong => if wrong then .uncorrectable else flipCond (lineClass st l) l bits

/-- Set what a line and its side entry hold. -/
def setLine (st : Store) (l : Nat) (c : LineErr) : Store := { st with lines := tabPut .good st.lines l c }

/-- A narrow store rewrites the word of an A-class line that holds its target, or the whole line in another class (08 R227): the errors that stay. -/
def narrowErr (cls word : Nat) : LineErr → LineErr
  | .flipped bits wrong =>
    let left := bits.filter fun b => codeWord b != word
    if cls = 1 then (if left.isEmpty ∧ wrong = false then .good else .flipped left wrong) else .good
  | _ => .good

/-- Saturating increment. -/
def satInc (maxv n : Nat) : Nat := if n < maxv then n + 1 else maxv

/-- Change the error count of a hall. -/
def modErr (st : Store) (hall : Nat) (f : ErrCount → ErrCount) : Store :=
  { st with errCount := tabMod errCountZero st.errCount hall f }

/-- Count and log an uncorrectable read (08 R249). -/
def logUncorrectable (st : Store) (l : Nat) (scrub : Bool) : Store :=
  let hall := saHall (l * 64)
  let e := ownEntry st (l * 64)
  let st := modErr st hall fun c => { c with uncorrectable := satInc 255 c.uncorrectable }
  let log := tabGet errLogZero st.errLog hall
  let log' : ErrLog :=
    if log.valid then { log with overflow := true }
    else { log with valid := true, scrub := scrub, cls := ownClass e, ctx := ownCtx e, line := l }
  { st with errLog := tabPut errLogZero st.errLog hall log' }

/-- STORE_A_UNCORRECTABLE or STORE_W_UNCORRECTABLE by the line's class (08 R247). -/
def uncorrectableCode (st : Store) (l : Nat) : Nat := if lineClass st l = 2 then 0x504 else 0x503

/-- Read one line (08 R247): the store afterwards and the fault code, 0 for none. -/
def readLine (st : Store) (l : Nat) (scrub : Bool) : Store × Nat :=
  match lineCond st l with
  | .good => (st, 0)
  | .correctable =>
    let st := modErr st (saHall (l * 64)) fun c => { c with corrected := satInc 65535 c.corrected }
    ({ st with wbacks := if l ∈ st.wbacks then st.wbacks else st.wbacks ++ [l] }, 0)
  | .uncorrectable => (setLine (logUncorrectable st l scrub) l .poisoned, uncorrectableCode st l)
  | .poisoned => (modErr st (saHall (l * 64)) fun c => { c with poisonHits := satInc 255 c.poisonHits }, 0x505)

/-- Read lines in order up to the first that faults: the store, the fault code (0 none) and the line. -/
def readLines (st : Store) (scrub : Bool) : List Nat → Store × Nat × Nat
  | [] => (st, 0, 0)
  | l :: ls =>
    let r := readLine st l scrub
    if r.2 = 0 then readLines r.1 scrub ls else (r.1, r.2, l)

/-- The bytes [a, a + n) as stored. -/
def memBytes (st : Store) (a n : Nat) : List Byte := tabGetList 0 st.mem a n

/-- Write bytes at `a`. -/
def memPut (st : Store) (a : Nat) (bs : List Byte) : Store := { st with mem := tabPutList 0 st.mem a bs }

/-- A write of whole lines makes them good and cancels their write-backs (08 R247). -/
def cleanLines (st : Store) (ls : List Nat) : Store :=
  ls.foldl (fun st l => { setLine st l .good with wbacks := st.wbacks.filter (· ≠ l) }) st

/-- Write whole lines at a 64-byte-aligned address. -/
def writeWhole (st : Store) (a : Nat) (bs : List Byte) : Store := cleanLines (memPut st a bs) (linesOf a bs.length)

/-! Traffic at the ports (08 R228, R230). -/

/-- The 512 B units that [a, a + n) touches. -/
def unitsOf (a n : Nat) : List Nat :=
  if n = 0 then [] else (List.range ((a + n - 1) / 512 - a / 512 + 1)).map (· + a / 512)

/-- One unit joins the lane that a room's traffic into a cellar takes (08 R230, R233). -/
def addUnit (P : Params) (room op u : Nat) (write : Option PendWrite) (read : Option PendRead) (st : Store) : Store :=
  let hall := saHall (u * 512)
  let k := 16 * hall + room % 16
  { st with
    lanes := st.lanes ++ [⟨hall, room % 16, (u % 2 ^ 25) % cellarColumns P.tiers, decide (hall = room / 16), room, op, tabGet 0 st.laneNum k,
      tabGet 0 st.portCycle hall, write, read, false⟩]
    laneNum := tabPut 0 st.laneNum k (tabGet 0 st.laneNum k + 1) }

/-- The part of a write of `bs` at `a` that lies in unit `u`. -/
def unitPart (a u : Nat) (bs : List Byte) (tail : Option (Nat × Nat)) : PendWrite :=
  ⟨max a (u * 512), (bs.drop (u * 512 - a)).take ((u + 1) * 512 - max a (u * 512)), tail⟩

/-- The part of a read of [a, a + n) that lies in unit `u`. -/
def unitRead (a n u : Nat) (head : Option (Nat × Nat)) : PendRead := ⟨max a (u * 512), min (a + n) ((u + 1) * 512) - max a (u * 512), head⟩

/-- The units that a read leaves pending in a cellar lane, those still open in the gather stage not counted again (08 R234), or one remote access at another room's
pantry or shelf (08 R228); a read of the room's own pantry or shelf leaves none. `head` is the ring that the read takes from. -/
def readTraffic (P : Params) (st : Store) (room op : Nat) (gather : List Nat) (head : Option (Nat × Nat)) (a n : Nat) : Store :=
  if saLevel a = 0 then ((unitsOf a n).filter fun u => !gather.contains u).foldl (fun st u => addUnit P room op u none (some (unitRead a n u head)) st) st
  else if saEngineRoom a = room then st
  else { st with remote := st.remote ++ [⟨saEngineRoom a, room, op, none, some ⟨a, n, head⟩, none⟩] }

/-- The gather stage after a read: the last 128 distinct units (08 R233, R234). -/
def gatherAfter (gather : List Nat) (a n : Nat) : List Nat :=
  if saLevel a = 0 then
    let g := gather ++ (unitsOf a n).filter fun u => !gather.contains u
    g.drop (g.length - 128)
  else gather

/-- The writes that wait in the lane or at the port which a read by this room takes, oldest first: they are served before it (08 R228, R230). -/
def waitingWrites (st : Store) (room a : Nat) : List PendWrite :=
  if saLevel a = 0 then st.lanes.filterMap fun u => if u.hall = saHall a ∧ u.lane = room % 16 ∧ u.served = false then u.write else none
  else if saEngineRoom a = room then []
  else st.remote.filterMap fun r => if r.target = saEngineRoom a then r.write else none

/-- The bytes [a, a + n) as a read by this room finds them. -/
def seenBytes (st : Store) (room a n : Nat) : List Byte :=
  memBytes ((waitingWrites st room a).foldl (fun st w => memPut st w.addr w.bytes) st) a n

/-- The lines of a read that no waiting write of its lane or port rewrites first. -/
def seenLines (st : Store) (room a n : Nat) : List Nat :=
  let ws := waitingWrites st room a
  (linesOf a n).filter fun l => !ws.any fun w => (linesOf w.addr w.bytes.length).contains l

/-- Advance the TAIL of a ring (08 R244). -/
def advanceTail (key n : Nat) (st : Store) : Store :=
  { st with rings := tabMod ringZero st.rings key fun x => { x with tail := (x.tail + n) % 2 ^ 32 } }

/-- A waiting write lands (08 R231); TAIL of its ring advances when none of the writes in `rest` belongs to the same append (08 R244). -/
def landWrite (w : PendWrite) (rest : List PendWrite) (st : Store) : Store :=
  let a := writeWhole st w.addr w.bytes
  match w.tail with
  | some (key, n) => if rest.any fun v => v.tail == w.tail then a else advanceTail key n a
  | none => a

/-- Advance the HEAD of a ring (08 R244). -/
def advanceHead (key n : Nat) (st : Store) : Store :=
  { st with rings := tabMod ringZero st.rings key fun x => { x with head := (x.head + n) % 2 ^ 32 } }

/-- A read of an op of this room waits to be delivered as part of a take from a ring. -/
def takePending (st : Store) (room op : Nat) (head : Option (Nat × Nat)) : Bool :=
  let mine (r : Option PendRead) : Bool := match r with
    | some q => q.head == head
    | none => false
  st.lanes.any (fun u => u.room == room && u.op == op && mine u.read) || st.remote.any fun r => r.room == room && r.op == op && mine r.read

/-- The data of a take has returned: HEAD advances once nothing of it waits (08 R244). -/
def returnTake (room op : Nat) (head : Option (Nat × Nat)) (st : Store) : Store :=
  match head with
  | some (key, n) => if takePending st room op head then st else advanceHead key n st
  | none => st

/-- The waiting writes of an op. -/
def opWrites (st : Store) (room op : Nat) : List PendWrite :=
  (st.lanes.filterMap fun u => if u.room = room ∧ u.op = op ∧ u.served = false then u.write else none) ++
    st.remote.filterMap fun r => if r.room = room ∧ r.op = op then r.write else none

/-- Make a write of whole lines (08 R228, R230, R231): it lands at once in the room's own pantry or shelf, and waits for service at a cellar lane or another room's port. -/
def writeTraffic (P : Params) (st : Store) (room op : Nat) (tail : Option (Nat × Nat)) (a : Nat) (bs : List Byte) : Store :=
  if saLevel a = 0 then (unitsOf a bs.length).foldl (fun st u => addUnit P room op u (some (unitPart a u bs tail)) none st) st
  else if saEngineRoom a = room then writeWhole st a bs
  else { st with remote := st.remote ++ [⟨saEngineRoom a, room, op, some ⟨a, bs, tail⟩, none, none⟩] }

/-! The accesses of an op. -/

/-- The physical side of a room's moulds: the spare row and column mapped in each mould, none for none (05 R126), and the defects in use (05 R154 to R159). -/
structure MouldMap where
  rows    : List (Option Nat)
  cols    : List (Option Nat)
  defects : List Defect
  deriving DecidableEq, Repr

/-- What the accesses of one op are checked against: the configuration, the task's context and mode, the op's room and number,
the op list regions of the task's rooms, the records that declare its operands, the rotated copy that stands in for its
weight buffer in beater mode (04 R114), the copy of a pair's twin, and the room's moulds as built and mapped. -/
structure Env where
  P       : Params
  offered : Tab Nat
  ctx     : Nat
  checked : Bool
  room    : Nat
  op      : Nat
  opLists : List (Nat × Nat)
  var     : Variant
  points  : List PointL
  reams   : List ReamRec
  copy    : Option CopyRec
  copy2   : Option CopyRec
  mould   : MouldMap
  deriving DecidableEq, Repr

/-- The part of the state that an op changes as it runs. `wrote` lists the ranges written, `free` counts the free values drawn, `gather` is the lane's gather stage
(08 R234), `mism` the residue check that failed. -/
structure Run where
  st     : Store
  cells  : Tab Val
  act    : Tab Nat
  counts : Counts
  stats  : Tab PStat
  wide   : List WidePart
  fault  : Option (Nat × Nat × Nat)
  wrote  : List (Nat × Nat)
  scale  : Tab (BitVec 16)
  vec    : Tab Byte
  lanes  : List (List Val)
  gather : List Nat
  mism   : Option Mismatch
  free   : Nat
  deriving DecidableEq, Repr

/-- Record a fault unless one is recorded: code, iteration and line. -/
def runFault (r : Run) (code iter line : Nat) : Run :=
  match r.fault with
  | some _ => r
  | none => { r with fault := some (code, iter, line) }

/-- The buffer that the image binds to a field of the op (09 R280). -/
def boundBuf (E : Env) (field : Nat) : Option BufRec :=
  match E.var.binds.find? (fun b => b.room == E.room && b.op == E.op && b.field == field) with
  | some b => E.var.bufs.find? (fun x => x.id == b.buffer)
  | none => none

/-- The wide buffer of the op's producer record (04 R575), which its wide lines are written to as field 512. -/
def wideBuf (E : Env) : Option BufRec :=
  match E.var.qpoints.find? (fun q => q.room == E.room && q.op == E.op && q.role == 0) with
  | some q => E.var.bufs.find? (fun b => b.id == q.wide)
  | none => none

/-- The checked-mode test of a store access (06 R196): inside the declared buffer, and its permissions. -/
def boundOk (E : Env) (field : Nat) (isWrite : Bool) (a n : Nat) : Bool :=
  match (if field = 512 then wideBuf E else boundBuf E field) with
  | some b => decide (b.base ≤ a) && decide (a + n ≤ b.base + b.size) && (if isWrite then b.write else b.read)
  | none => false

/-- Does [a, a + n) touch an op list region of the task (06 R164)? -/
def hitsOpList (E : Env) (a n : Nat) : Bool := E.opLists.any fun r => decide (a < r.1 + r.2) && decide (r.1 < a + n)

/-- In beater mode a consumer reads its weight operand from the rotated copy (04 R114): an address inside the weight buffer is
read at the same offset of the copy. -/
def copyAddr (E : Env) (a : Nat) : Nat :=
  match E.copy with
  | some c => if c.src ≤ a ∧ a < c.src + c.size then c.base + (a - c.src) else a
  | none => a

/-- The fault that a store access meets before it is made (0 none), in the order: checked-mode bound, op list, unmapped,
protection (log 12). `field` 0x100 marks a ring access, whose range the ring's descriptor gives. A read of weights that a copy stands in for is bounded as declared and
checked where the copy lies (08 R239, R251). -/
def accessFault (E : Env) (st : Store) (field : Nat) (isWrite : Bool) (a n : Nat) : Nat :=
  let at_ := if isWrite then a else copyAddr E a
  if E.checked && field != 256 && !boundOk E field isWrite a n then 0x306
  else if isWrite && hitsOpList E a n then 0x301
  else if spanUnmapped E.P E.offered at_ n then 0x501
  else if admitted st E.ctx isWrite at_ n then 0
  else 0x502

/-- A store read of an op: the bytes, or a fault recorded in the run; `head` is the ring that it takes from. -/
def opReadT (E : Env) (field iter : Nat) (head : Option (Nat × Nat)) (r : Run) (a n : Nat) : Run × List Byte :=
  match r.fault with
  | some _ => (r, List.replicate n 0)
  | none =>
    let code := accessFault E r.st field false a n
    if code ≠ 0 then (runFault r code iter (a / 64), List.replicate n 0)
    else
      let a := copyAddr E a
      let q := readLines r.st false (seenLines r.st E.room a n)
      let r' := { r with st := readTraffic E.P q.1 E.room E.op r.gather head a n, gather := gatherAfter r.gather a n }
      if q.2.1 ≠ 0 then (runFault r' q.2.1 iter q.2.2, List.replicate n 0)
      else (r', seenBytes r.st E.room a n)

/-- A store read of an op that takes from no ring. -/
def opRead (E : Env) (field iter : Nat) (r : Run) (a n : Nat) : Run × List Byte := opReadT E field iter none r a n

/-- A store write of an op: the row is padded with zeros to whole lines (08 R225); `tail` is the ring that it appends to. -/
def opWriteT (E : Env) (field iter : Nat) (tail : Option (Nat × Nat)) (r : Run) (a : Nat) (bs : List Byte) : Run :=
  match r.fault with
  | some _ => r
  | none =>
    let row := padLine bs
    if row.length = 0 then r
    else
      let code := accessFault E r.st field true a row.length
      if code ≠ 0 then runFault r code iter (a / 64)
      else { r with st := writeTraffic E.P r.st E.room E.op tail a row, wrote := (a, row.length) :: r.wrote }

/-- A store write of an op that appends to no ring. -/
def opWrite (E : Env) (field iter : Nat) (r : Run) (a : Nat) (bs : List Byte) : Run := opWriteT E field iter none r a bs

/-- Read one 128 B shelf line of the op's own room (05 R138, 06 R169): the line number wraps modulo 1,024. -/
def shelfLine (E : Env) (field iter : Nat) (r : Run) (mould line : Nat) : Run × List Byte :=
  match r.fault with
  | some _ => (r, List.replicate 128 0)
  | none =>
    let a := shelfAddr E.room mould (line % 1024 * 128)
    let inRegion := match boundBuf E field with
      | some b => decide ((b.base % 131072) / 128 ≤ line % 1024) && decide (line % 1024 ≤ ((b.base + b.size - 1) % 131072) / 128) && b.read
      | none => false
    if E.checked && !inRegion then (runFault r 0x306 iter (a / 64), List.replicate 128 0)
    else if unmapped E.P E.offered a then (runFault r 0x501 iter (a / 64), List.replicate 128 0)
    else if !admitted r.st E.ctx false a 128 then (runFault r 0x502 iter (a / 64), List.replicate 128 0)
    else
      let q := readLines r.st false (linesOf a 128)
      if q.2.1 ≠ 0 then (runFault { r with st := q.1 } q.2.1 iter q.2.2, List.replicate 128 0)
      else ({ r with st := q.1 }, memBytes r.st a 128)

/-- Write bytes into a shelf of the op's own room at whole lines. -/
def shelfWrite (E : Env) (field iter : Nat) (r : Run) (mould line : Nat) (bs : List Byte) : Run :=
  match r.fault with
  | some _ => r
  | none =>
    let a := shelfAddr E.room mould (line % 1024 * 128)
    let inRegion := match boundBuf E field with
      | some b => decide ((b.base % 131072) / 128 ≤ line % 1024) && decide (line % 1024 ≤ ((b.base + b.size - 1) % 131072) / 128) && b.write
      | none => false
    if E.checked && !inRegion then runFault r 0x306 iter (a / 64)
    else if unmapped E.P E.offered a then runFault r 0x501 iter (a / 64)
    else if !admitted r.st E.ctx true a 128 then runFault r 0x502 iter (a / 64)
    else { r with st := writeWhole r.st a bs, wrote := (a, bs.length) :: r.wrote }

/-- The bit field [hi:lo] of an op word. -/
def fld (w : OpWord) (hi lo : Nat) : Nat := w.toNat / 2 ^ lo % 2 ^ (hi - lo + 1)

/-- The signed bit field [hi:lo] of an op word. -/
def sfld (w : OpWord) (hi lo : Nat) : Int := signedOf (hi - lo + 1) (fld w hi lo)

/-- An address of 06 R169: g[REG] × 256 + OFF × u, modulo 2^40. -/
def opAddr (g : Tab (BitVec 32)) (reg off unit : Nat) : Nat := ((tabGet 0 g reg).toNat * 256 + off * unit) % 2 ^ 40

/-- Advance an address by a signed number of bytes, modulo 2^40. -/
def addrAdd (a : Nat) (d : Int) : Nat := (((a : Int) + d) % (2 ^ 40 : Nat)).toNat

end Sys2Proof.Machine
end

