-- ==== Sys2Proof/Machine/Operands.lean ====
section
/-!
DEFINITION. The operand forms of the tile ops: gangs and their shapes (03 R81, 05 R127), mould cells and tile layouts (05 R125,
R134), streamed operands in the skewed shelf layout (05 R138), rows of a store, and the channel index of an output (04 R574).
-/
namespace Sys2Proof.Machine

/-- A gang (05 R127): its moulds with their positions (i along the reduction axis, j along the output axis), in position order. -/
def gangMoulds : Nat → List (Nat × Nat × Nat)
  | 0x0 => [(0, 0, 0)]
  | 0x1 => [(1, 0, 0)]
  | 0x2 => [(2, 0, 0)]
  | 0x3 => [(3, 0, 0)]
  | 0x4 => [(0, 0, 0), (1, 0, 1)]
  | 0x5 => [(2, 0, 0), (3, 0, 1)]
  | 0x6 => [(0, 0, 0), (2, 1, 0)]
  | 0x7 => [(1, 0, 0), (3, 1, 0)]
  | 0x8 => [(0, 0, 0), (1, 0, 1), (2, 0, 2), (3, 0, 3)]
  | 0x9 => [(0, 0, 0), (2, 1, 0), (1, 0, 1), (3, 1, 1)]
  | 0xA => [(0, 0, 0), (2, 1, 0), (1, 2, 0), (3, 3, 0)]
  | _ => []

/-- Moulds of a gang along the reduction axis. -/
def gangHigh : Nat → Nat
  | 0x6 | 0x7 | 0x9 => 2
  | 0xA => 4
  | _ => 1

/-- Moulds of a gang along the output axis. -/
def gangWide : Nat → Nat
  | 0x4 | 0x5 | 0x9 => 2
  | 0x8 => 4
  | _ => 1

/-- Logical rows of a gang (03 R81). -/
def gangRows (g : Nat) : Nat := 128 * gangHigh g

/-- Logical columns of a gang (03 R81). -/
def gangCols (g : Nat) : Nat := 32 * gangWide g

/-- The shape number 1 to 6 of a gang code (05 R127). -/
def gangShape : Nat → Nat
  | 0x0 | 0x1 | 0x2 | 0x3 => 1
  | 0x4 | 0x5 => 2
  | 0x6 | 0x7 => 3
  | 0x8 => 4
  | 0x9 => 5
  | 0xA => 6
  | _ => 0

/-- The mould numbers of a gang. -/
def gangUnits (g : Nat) : List Nat := (gangMoulds g).map (·.1)

/-- The mould at position (i, j) of a gang. -/
def mouldAt (g i j : Nat) : Nat :=
  match (gangMoulds g).find? (fun m => m.2.1 == i && m.2.2 == j) with
  | some m => m.1
  | none => 0

/-- The key of a held value: mould, set, cell row, cell column, and which of the cell's two values. -/
def cellKey (mould set row col k : Nat) : Nat := ((mould * 2 + set) * 4096 + row * 32 + col) * 2 + k

/-- The value of a cell of the active (`sh` = 0) or shadow (`sh` = 1) set, by logical row and column of the gang. -/
def gangCell (cells : Tab Val) (act : Tab Nat) (g sh row col k : Nat) : Val :=
  let m := mouldAt g (row / 128) (col / 32)
  tabGet vZero cells (cellKey m ((tabGet 0 act m + sh) % 2) (row % 128) (col % 32) k)

/-- Is a tile of this format held in paired form by an op whose operands have these formats (05 R134)? -/
def isPaired (a b : Fmt) : Bool := fmtBits a == 4 && fmtBits b == 4

/-- Bytes of a mould tile (05 R134). -/
def mouldTileBytes (f : Fmt) (paired : Bool) : Nat := (if paired then 8192 else 4096) * fmtBits f / 8

/-- Bytes of a gang's tile: its mould tiles one after another. -/
def gangTileBytes (g : Nat) (f : Fmt) (paired : Bool) : Nat := (gangMoulds g).length * mouldTileBytes f paired

/-- Write one mould tile into a set: element k × 32 + n lies at row k and column n; a paired tile puts rows 2r and 2r + 1 into
cell row r (05 R134). -/
def loadMould (cells : Tab Val) (mould set : Nat) (f : Fmt) (paired : Bool) (bs : List Byte) : Tab Val :=
  (List.range (if paired then 8192 else 4096)).foldl (fun c e =>
    let row := e / 32
    let key := if paired then cellKey mould set (row / 2) (e % 32) (row % 2) else cellKey mould set row (e % 32) 0
    tabPut vZero c key (decodeFmt f (elemCode f bs e))) cells

/-- Write a gang's tile into the shadow set of its moulds. -/
def loadGang (cells : Tab Val) (act : Tab Nat) (g : Nat) (f : Fmt) (paired : Bool) (bs : List Byte) : Tab Val :=
  let sz := mouldTileBytes f paired
  (List.range (gangMoulds g).length).foldl (fun c t =>
    let m := (gangUnits g).getD t 0
    loadMould c m ((tabGet 0 act m + 1) % 2) f paired ((bs.drop (t * sz)).take sz)) cells

/-- flip of 05 R135: the active and shadow sets of every mould of the gang change places. -/
def flipGang (act : Tab Nat) (g : Nat) : Tab Nat :=
  (gangUnits g).foldl (fun a m => tabPut 0 a m ((tabGet 0 a m + 1) % 2)) act

/-- Clear both sets of every mould (11 R341) is the empty table; this clears one set of a gang to +0. -/
def zeroGangSet (cells : Tab Val) (act : Tab Nat) (g sh : Nat) : Tab Val :=
  (gangUnits g).foldl (fun c m =>
    (List.range 8192).foldl (fun c i => tabPut vZero c ((m * 2 + (tabGet 0 act m + sh) % 2) * 8192 + i) vZero) c) cells

/-! Streamed operands (05 R138). -/

/-- Lines in a group: 1 for 4-, 6- and 8-bit operands, 2 for 16-bit, 4 for FP32. -/
def groupLines (f : Fmt) : Nat := if fmtBits f ≤ 8 then 1 else fmtBits f / 8

/-- The code of lane `e` in a group's bytes. `two` says that the lane holds a pair of 4-bit indices, and `k` picks one; an
unpaired 4-bit lane holds its index in bits [3:0] of its byte. -/
def laneCode (f : Fmt) (two : Bool) (bs : List Byte) (e k : Nat) : Nat :=
  match fmtBits f with
  | 6 => elemCode f bs e
  | 4 => if two then byteAt bs e / 2 ^ (4 * (k % 2)) % 16 else byteAt bs e % 16
  | _ => elemCode f bs e

/-- Read the groups of shelf line `base` that `n` steps of an edge of `lanes` lanes at skew offset `skew` need: one list of bytes
per group. -/
def readGroups (E : Env) (field iter : Nat) (r : Run) (mould base skew : Nat) (f : Fmt) (count : Nat) : Run × List (List Byte) :=
  (List.range count).foldl (fun (acc : Run × List (List Byte)) g =>
    let q := (List.range (groupLines f)).foldl (fun (a : Run × List Byte) k =>
      let t := shelfLine E field iter a.1 mould (base + groupLines f * (skew + g) + k)
      (t.1, a.2 ++ t.2)) (acc.1, [])
    (q.1, acc.2 ++ [q.2])) (r, [])

/-- A streamed operand as a table: for each edge mould, its groups. -/
structure Stream where
  fmt    : Fmt
  two    : Bool
  zero   : Int
  lanes  : Nat
  groups : List (List (List Byte))
  deriving DecidableEq, Repr

/-- The value that step `s` streams to edge lane `lane` (counted over the whole edge), of the pair value `k`. -/
def streamVal (x : Stream) (s lane k : Nat) : Val :=
  let g := x.groups.getD (lane / x.lanes) []
  let e := lane % x.lanes
  elemVal x.fmt (laneCode x.fmt x.two (g.getD (s + e) []) e k) x.zero

/-- Read the left-edge stream of a gang (normal use, 05 R138): the shelves of the moulds at (i, 0), lanes 0 to 127, skew 130 × i. -/
def leftStream (E : Env) (field iter : Nat) (r : Run) (g base steps : Nat) (f : Fmt) (two : Bool) (z : Int) : Run × Stream :=
  let q := (List.range (gangHigh g)).foldl (fun (a : Run × List (List (List Byte))) i =>
    let t := readGroups E field iter a.1 (mouldAt g i 0) base (130 * i) f (steps + 127)
    (t.1, a.2 ++ [t.2])) (r, [])
  (q.1, ⟨f, two, z, 128, q.2⟩)

/-- Read the top-edge stream of a gang (transposed use, and output-stationary weights): the shelves of the moulds at (0, j), lanes
0 to 31, skew 34 × j. -/
def topStream (E : Env) (field iter : Nat) (r : Run) (g base steps : Nat) (f : Fmt) (two : Bool) (z : Int) : Run × Stream :=
  let q := (List.range (gangWide g)).foldl (fun (a : Run × List (List (List Byte))) j =>
    let t := readGroups E field iter a.1 (mouldAt g 0 j) base (34 * j) f (steps + 31)
    (t.1, a.2 ++ [t.2])) (r, [])
  (q.1, ⟨f, two, z, 32, q.2⟩)

/-- Read the groups `lo` to `lo + n - 1` of an edge after those already read: of the left edge (05 R138: the shelves of the moulds at (i, 0), skew 130 × i), or of the top edge
(the moulds at (0, j), skew 34 × j). -/
def moreGroups (E : Env) (field iter : Nat) (r : Run) (g : Nat) (top : Bool) (base lo n : Nat) (f : Fmt) (prev : List (List (List Byte))) :
    Run × List (List (List Byte)) :=
  (List.range (if top then gangWide g else gangHigh g)).foldl (fun (a : Run × List (List (List Byte))) i =>
    let t := readGroups E field iter a.1 (if top then mouldAt g 0 i else mouldAt g i 0) base ((if top then 34 else 130) * i + lo) f n
    (t.1, a.2 ++ [prev.getD i [] ++ t.2])) (r, [])

/-- The stream from a later step on. -/
def streamFrom (x : Stream) (s : Nat) : Stream := { x with groups := x.groups.map (·.drop s) }

/-- The advance of a shelf line by a signed number of lines, modulo 1,024. -/
def lineAdd (line : Nat) (d : Int) : Nat := (((line : Int) + d) % 1024).toNat

/-! Points of a task. -/

/-- A point of the task's launch, none for 0xFFF. -/
def pointOf (E : Env) (p : Nat) : Option PointL := E.points.find? (fun x => x.point == p)

/-- The zero point that IPT supplies (06 R178): it applies to an integer activation operand only (03 R74). -/
def pointZero (E : Env) (ipt : Nat) (f : Fmt) : Int :=
  match pointOf E ipt with
  | some p => if fmtIsInt f then p.zero else 0
  | none => 0

/-- The QPOINTS producer record of this op for a point (09 R275). -/
def producerRec (E : Env) (point : Nat) : Option QRec :=
  E.var.qpoints.find? fun q => q.point == point && q.room == E.room && q.op == E.op && q.role == 0

/-- The channel index of 04 R574 for the tile or pass `q` and position `j`. Without a producer record the manual does not give the
base of the index, and it is free (log 11). -/
def channelIndex (E : Env) (opt q j : Nat) : Nat :=
  match producerRec E opt with
  | some p => p.chBase + q * p.chQstep + j
  | none => Config.channelBase E.room E.op q + j

/-- The list of a range mapped and joined: for nested loops. -/
def forList {α : Type} (n : Nat) (f : Nat → List α) : List α := ((List.range n).map f).flatten

end Sys2Proof.Machine
end

