-- ==== Sys2Proof/Machine/Residue.lean ====
section
/-!
DEFINITION. The watermark checks (05 R154 to R159): residues modulo 4,095, the product check and the chain check of a mould and of a chute's lane group, and which
check cell a defect of the array is found by.
-/
namespace Sys2Proof.Machine

/-- res(v) of 05 R154, for a finite value; the checks skip every other (05 R157). -/
def residue : Val → Nat
  | .fin n m e =>
    let r := m * 2 ^ (e % 12).toNat % 4095
    if n then (4095 - r) % 4095 else r
  | _ => 0

/-- A sum of residues. -/
def residueSum (xs : List Nat) : Nat := xs.foldl (fun a b => (a + b) % 4095) 0

/-- The product check of 05 R155 fails: for each streamed value and the held values along its axis, res(streamed) × held sum against the residues of the products as
formed, which `err` has changed. It is skipped where a value is not finite (05 R157). -/
def productFails (err : Nat) (xs : List (Val × List Val)) : Bool :=
  (xs.all fun p => vIsFin p.1 && p.2.all vIsFin) &&
    residueSum (xs.map fun p => residue p.1 * residueSum (p.2.map residue)) !=
      (residueSum (xs.flatMap fun p => p.2.map fun w => residue (vMul p.1 w)) + err) % 4095

/-- The residue that a cell carries beside a partial sum (05 R156): from the seed's, res(x) × res(w) is added at each step, and the residue of what the rounding or
the saturation discarded is taken away. Each step gives that residue and the exact addend. The answer: the carried residue, the partial sum, all finite. -/
def carriedResidue (int : Bool) : Nat → Val → List (Nat × Val) → Nat × Val × Bool
  | c, s, [] => (c, s, vIsFin s)
  | c, s, (t, p) :: ps =>
    if vIsFin s && vIsFin p then
      let n := accAdd int s p
      carriedResidue int ((c + t + (4095 - residue (vAdd (vAdd s p) (vNeg n)))) % 4095) n ps
    else (0, s, false)

/-- The chain check of 05 R156 fails: the carried residue against that of the partial sum, which products in error by `err` have changed. -/
def chainFails (err : Nat) (int : Bool) (seed : Val) (steps : List (Nat × Val)) : Bool :=
  let q := carriedResidue int (residue seed) seed steps
  q.2.2 && q.1 % 4095 != (residue q.2.1 + err) % 4095

/-- The exact sum of the products of one step: one product, or the pair sum of 03 R80. -/
def vSum : List Val → Val
  | [] => vZero
  | [x] => x
  | x :: xs => vAdd x (vSum xs)

/-- One step of a chain from its products: the residue formed from the operands, and the exact addend. -/
def chainStep (ps : List (Val × Val)) : Nat × Val :=
  (residueSum (ps.map fun p => residue p.1 * residue p.2 % 4095), vSum (ps.map fun p => vMul p.1 p.2))

/-- The physical row or column that serves a logical one: the spare stands in for the one it replaces (05 R126). -/
def physIndex (spare : Option Nat) (spareAt logical : Nat) : Nat :=
  match spare with | some k => if k = logical then spareAt else logical | none => logical

/-- The physical row (column) of a logical row (column) of mould `m`. -/
def physLine (M : MouldMap) (m : Nat) (isRow : Bool) (k : Nat) : Nat :=
  if isRow then physIndex (M.rows.getD m none) 129 k else physIndex (M.cols.getD m none) 33 k

/-- The logical row or column that a defect in use lies in: for a mapped spare, the one it replaces. -/
def defectLine (M : MouldMap) (d : Defect) : Nat :=
  if d.isRow then (if d.index = 129 then (M.rows.getD d.mould none).getD 129 else d.index)
  else if d.index = 33 then (M.cols.getD d.mould none).getD 33 else d.index

/-- A defect lies in a row or column in use: not in the one that a spare replaces, nor in a spare that is not mapped (05 R126). -/
def defectInUse (spareRow spareCol : Option Nat) (d : Defect) : Bool :=
  if d.isRow then (if d.index = 129 then spareRow.isSome else spareRow != some d.index)
  else (if d.index = 33 then spareCol.isSome else spareCol != some d.index)

/-- The first pair (a, b) below bounds that a test accepts. -/
def firstPair (n k : Nat) (p : Nat → Nat → Bool) : Option (Nat × Nat) :=
  ((List.range n).flatMap fun a => (List.range k).map fun b => (a, b)).find? fun x => p x.1 x.2

/-- The check of mould `d.mould` that a defect fails in a fill (05 R155 to R158). Product checks run along lines of the array, rows when `lineIsRow`, at each of `steps`
steps; chain checks end each cross line, at each of `ends`. Where each cell carries a chain of its own (`own`, output-stationary use), `ends` are the lines, and a line in
error changes the chains of its own cells alone. The watermark cells of a kind are themselves the line beyond the last. A product check resolves first. -/
def defectFound (M : MouldMap) (own lineIsRow : Bool) (steps ends : Nat) (prod chain : Nat → Nat → Nat → Bool) (d : Defect) : Option Mismatch :=
  let k := defectLine M d
  let lines := if lineIsRow then 128 else 32
  let crosses := if lineIsRow then 32 else 128
  let prodAt (r : Option (Nat × Nat)) : Option Mismatch := r.map fun x => ⟨d.mould, false, lineIsRow, physLine M d.mould lineIsRow x.2⟩
  let chainAt (r : Option (Nat × Nat)) : Option Mismatch := r.map fun x => ⟨d.mould, true, !lineIsRow, physLine M d.mould (!lineIsRow) x.2⟩
  let oneProd := prodAt (firstPair steps lines fun s l => (l == k) && prod d.err s l)
  let allProd := prodAt (firstPair steps lines fun s l => prod d.err s l)
  let oneChain := chainAt (firstPair ends crosses fun s c => (c == k) && chain d.err s c)
  let allChain := chainAt (firstPair ends crosses fun s c => (!own || s == k || lines ≤ k) && chain d.err s c)
  if d.isRow = lineIsRow then (if k < lines then (match oneProd with | some x => some x | none => allChain) else allChain)
  else if k < crosses then (match allProd with | some x => some x | none => oneChain) else allProd

/-- The first defect of these that a check of the fill finds. -/
def firstFound (ds : List Defect) (found : Defect → Option Mismatch) : Option Mismatch := ds.findSome? found

/-- A check that fails faults the run in its iteration, and says which (05 R158, R159). -/
def noteMismatch (r : Run) (iter : Nat) : Option Mismatch → Run
  | none => r
  | some m =>
    match r.fault with
    | some _ => r
    | none => { runFault r (if m.mould = 4 then 0x30A else 0x309) iter 0 with mism := some m }

end Sys2Proof.Machine
end

