-- ==== Sys2Proof/Machine/Sizer.lean ====
section
/-!
DEFINITION. The sizer (04_quantisation): the path from the accumulators to the store with its rescale, statistics, beater
rotation, quantisation and wide channels (R99 to R113, R575, R576), dequantisation (R101) and the ranking of rows (R120 to R123).
-/
namespace Sys2Proof.Machine

/-- What the sizer path of an op needs beside its elements. -/
structure SizerCfg where
  field : Nat
  int   : Bool
  resc  : Bool
  ipt   : Nat
  opt   : Nat
  scale : Tab (BitVec 16)
  fixedIn : Option Nat
  outFmt : Option Fmt
  deriving DecidableEq, Repr

/-- The code of s_in (04 R99): the point's per-tensor scale, its SCALE_B in beater mode, none for 1.0. A pair supplies its own. R99 speaks of the per-tensor scale alone: for
a point with GRAIN per channel in normal mode the model takes sx[0] (DESIGN CHOICE, log 85). -/
def sIn (E : Env) (c : SizerCfg) : Option Nat :=
  match c.fixedIn with
  | some k => some k
  | none =>
    match pointOf E c.ipt with
    | some p => some (if p.beater then p.scaleB else p.scales.getD 0 0)
    | none => none

/-- The code of the table entry of an element: the sizer's scale table (04 R97), or the scale tensor of the rotated copy while the
consumer reads one (04 R114). -/
def tabCode (E : Env) (c : SizerCfg) (st : Store) (e : Elem) : Nat :=
  match E.copy with
  | some k => leVal (memBytes st (k.scales + 2 * e.col) 2)
  | none => (tabGet 0 c.scale (e.tab % 8192)).toNat

/-- Does the op rescale by the table? A consumer that reads a rotated copy always does (04 R114). -/
def usesTable (E : Env) (c : SizerCfg) : Bool := c.resc || E.copy.isSome

/-- The merge of the chute's partial (04 R99): gang sum first. -/
def mergePart (int : Bool) (e : Elem) : Val × Counts :=
  match e.part with
  | some p => (accAdd int e.acc p, accAddCounts int e.acc p)
  | none => (e.acc, countsZero)

/-- The rescale steps of 04 R99 on a merged value: each product exact and rounded once. -/
def rescaled (E : Env) (c : SizerCfg) (st : Store) (e : Elem) (a : Val) : Val :=
  let r := if usesTable E c then rtzFp32 (vMul a (decodeFmt .sw16 (tabCode E c st e))) else a
  match sIn E c with
  | some k => rtzFp32 (vMul r (decodeFmt .sw16 k))
  | none => rtzFp32 r

/-- Does any rescale factor apply (04 R99)? -/
def factorApplies (E : Env) (c : SizerCfg) : Bool := usesTable E c || (sIn E c).isSome

/-- An SW16 with e = 0xFF read on the way faults the task with SCALE_INVALID (03 R71). -/
def scaleBad (E : Env) (c : SizerCfg) (st : Store) (e : Elem) : Bool :=
  (usesTable E c && swInvalid (tabCode E c st e)) ||
    (match sIn E c with | some k => swInvalid k | none => false)

/-- The larger of an FP32 magnitude code and the magnitude of a finite value (04 R103). -/
def maxMag (m : Nat) (v : Val) : Nat := if vIsFin v then max m (fp32Code (vAbs v)) else m

/-- Change the statistics of a point in the run. -/
def modStat (r : Run) (point : Nat) (f : PStat → PStat) : Run := { r with stats := tabMod pstatZero r.stats point f }

/-- Add events to the run's counts. -/
def addCounts (r : Run) (c : Counts) : Run := { r with counts := countsAdd r.counts c }

/-- observe_normal of 04 R103: a finite value joins its maximum unless its channel is listed as wide; a non-finite one is counted. -/
def observeNormal (p : PointL) (n : Nat) (v : Val) (s : PStat) : PStat :=
  if vIsFin v then
    if n ∈ p.wide then s
    else
      let k := if p.grain then n else 0
      { s with norm := tabPut 0 s.norm k (maxMag (tabGet 0 s.norm k) v) }
  else { s with nonfin := s.nonfin + 1 }

/-- observe_beater of 04 R103. -/
def observeBeater (v : Val) (s : PStat) : PStat := { s with beat := maxMag s.beat v }

/-- The values of one block of an output row, in channel order (04 R576). -/
def blockOf (es : List (Elem × Val)) (log key blk : Nat) : List Val :=
  (List.range (2 ^ log)).map fun i =>
    match es.find? (fun x => x.1.key == key && x.1.n == blk * 2 ^ log + i) with
    | some x => x.2
    | none => vZero

/-- The rotated value of an element (04 R113). -/
def rotatedOf (p : PointL) (es : List (Elem × Val)) (e : Elem) : Val :=
  let b := 2 ^ p.blockLog
  (rotateBlock p.blockLog ((p.blockLog + 1) / 2) (blockOf es p.blockLog e.key (e.n / b))).getD (e.n % b) vZero

/-- The events of the rotations of an op, one block at a time (04 R78 counts them in a round in beater mode). -/
def rotationCounts (p : PointL) (es : List (Elem × Val)) : Counts :=
  es.foldl (fun c x =>
    if x.1.n % 2 ^ p.blockLog = 0 then
      countsAdd c (rotateStagesCounts p.blockLog 1 (blockOf es p.blockLog x.1.key (x.1.n / 2 ^ p.blockLog)))
    else c) countsZero

/-- The least integer code's place of zero: the code that a listed channel's narrow element holds (04 R109). -/
def zeroCode (p : PointL) : Nat := if fmtIsInt p.qfmt then codeOfInt (fmtBits p.qfmt) p.zero else 0

/-- The narrow code of an element at the output point: rotated in beater mode, z at a listed channel (04 R99, R109). -/
def narrowCode (p : PointL) (rot : Val) (n : Nat) (v : Val) : Nat × Bool :=
  if p.beater then quantise rot (decodeFmt .sw16 p.scaleB) p.zero p.qfmt
  else if n ∈ p.wide then (zeroCode p, false)
  else quantise v (decodeFmt .sw16 (p.scales.getD (if p.grain then n else 0) 0)) p.zero p.qfmt

/-- The wide code of a listed channel in normal mode (04 R109). -/
def wideCode (p : PointL) (n : Nat) (v : Val) : Nat × Bool :=
  quantise v (decodeFmt .sw16 (p.scales.getD (if p.grain then n else 0) 0)) p.zero p.wideFmt

/-- Quantising reads an SW16: with e = 0xFF it faults (03 R71). -/
def quantBad (p : PointL) (n : Nat) : Bool :=
  swInvalid (if p.beater then p.scaleB else p.scales.getD (if p.grain then n else 0) 0)

/-- The wide lines of a drained vector (04 R575): for each 64 B line of its mirror that holds a listed channel, the line's address
and bytes. `wb` is the wide buffer's BASE, `nb` the narrow buffer's. -/
def wideLines (p : PointL) (wb nb addr : Nat) (vals : List (Nat × Val)) : List (Nat × List Byte) :=
  let w := fmtBits p.qfmt
  let place (i : Nat) : Nat := 256 * ((addr - nb) / 64 + i * w / 512) + 2 * (i * w % 512 / w)
  let codes : List (Nat × Nat) := ((List.range vals.length).filter fun i => (vals.getD i (0, vZero)).1 ∈ p.wide).map fun i =>
    (place i, (wideCode p (vals.getD i (0, vZero)).1 (vals.getD i (0, vZero)).2).1)
  let lines := (codes.map fun c => c.1 / 64).eraseDups
  lines.map fun l => (wb + 64 * l, packRow .int16 ((List.range 32).map fun k =>
    match codes.find? (fun c => c.1 == 64 * l + 2 * k) with | some c => c.2 | none => 0))

/-- Write the outputs of a vector that no point quantises: in the accumulator format when no factor applies, else FP32 (04 R99), or
converted to the op's own output format (06 R183). -/
def writePlain (E : Env) (c : SizerCfg) (r : Run) (row : OutRow) (vals : List Val) : Run :=
  let f := match c.outFmt with
    | some f => f
    | none => if factorApplies E c then Fmt.fp32 else if c.int then Fmt.int32 else Fmt.fp32
  opWrite E c.field row.iter r row.addr (packRow f (vals.map fun v => (convert f v).1))

/-- Write the narrow row of a vector at the output point, by the codes of its elements (04 R99). -/
def writeNarrow (E : Env) (c : SizerCfg) (p : PointL) (r : Run) (row : OutRow) (codes : List (Nat × Bool)) : Run :=
  modStat (opWrite E c.field row.iter r row.addr (packRow p.qfmt (codes.map (·.1)))) p.point fun s => { s with sat := s.sat + (codes.filter (·.2)).length }

/-- Write a vector in normal mode: the narrow row, then its wide lines (04 R99, R575). The elements hold the values r of R99. -/
def writeNormal (E : Env) (c : SizerCfg) (p : PointL) (r : Run) (row : OutRow) : Run :=
  let r := writeNarrow E c p r row (row.elems.map fun e => narrowCode p vZero e.n e.acc)
  if p.wide.isEmpty then r
  else
    let nb := match boundBuf E c.field with | some b => b.base | none => row.addr
    let wb := match producerRec E p.point with
      | some q => (match E.var.bufs.find? (fun b => b.id == q.wide) with | some b => b.base | none => 0)
      | none => 0
    let wsat := (row.elems.filter fun e => decide (e.n ∈ p.wide) && (wideCode p e.n e.acc).2).length
    let r := modStat r p.point fun s => { s with sat := s.sat + wsat }
    (wideLines p wb nb row.addr (row.elems.map fun e => (e.n, e.acc))).foldl (fun r l => opWrite E 512 row.iter r l.1 l.2) r

/-- The first element whose step would read an invalid scale, by its iteration. -/
def badScaleIter (E : Env) (c : SizerCfg) (st : Store) (rows : List OutRow) : Option Nat :=
  match rows.find? (fun row => row.elems.any fun e => scaleBad E c st e ||
      (match pointOf E c.opt with | some p => quantBad p e.n | none => false)) with
  | some row => some row.iter
  | none => none

/-- The sizer path of 04 R99 over the vectors that a step drains, up to the rotation: the merge, the rescale, the normal statistics, and in normal mode the write. The
vectors for the rotation come back with the values r in their elements. -/
def sizerDrain (E : Env) (c : SizerCfg) (r : Run) (rows : List OutRow) : Run × List OutRow :=
  match r.fault with
  | some _ => (r, [])
  | none =>
    match badScaleIter E c r.st rows with
    | some it => (runFault r 0x308 it 0, [])
    | none =>
      let merged := rows.map fun row => row.elems.map fun e => (e, mergePart c.int e)
      let r := addCounts r (merged.foldl (fun k m => m.foldl (fun k x => countsAdd k x.2.2) k) countsZero)
      let st := r.st
      match pointOf E c.opt with
      | none =>
        let value (x : Elem × Val × Counts) : Val :=
          if factorApplies E c || c.outFmt.isSome then rescaled E c st x.1 x.2.1 else x.2.1
        ((rows.zip merged).foldl (fun r x => writePlain E c r x.1 (x.2.map value)) r, [])
      | some p =>
        let vals := (rows.zip merged).map fun x => { x.1 with elems := x.2.map fun y => { y.1 with acc := rescaled E c st y.1 y.2.1, part := none } }
        let r := modStat r p.point fun s => vals.foldl (fun s row => row.elems.foldl (fun s e => observeNormal p e.n e.acc s) s) s
        (if p.beater then r else vals.foldl (writeNormal E c p) r, vals)

/-- The rotation of whole blocks, once every vector of the op's rows has come (04 R99, R103, R113, R576): the beater statistics, and in beater mode the write. -/
def sizerBlocks (E : Env) (c : SizerCfg) (r : Run) (rows : List OutRow) : Run :=
  match r.fault, pointOf E c.opt with
  | none, some p =>
    let all := rows.flatMap fun row => row.elems.map fun e => (e, e.acc)
    let r := modStat r p.point fun s => all.foldl (fun s x => observeBeater (rotatedOf p all x.1) s) s
    if p.beater then
      rows.foldl (fun r row => writeNarrow E c p r row (row.elems.map fun e => narrowCode p (rotatedOf p all e) e.n e.acc)) (addCounts r (rotationCounts p all))
    else r
  | _, _ => r

/-- The sizer path over all the vectors of an op. -/
def sizerRows (E : Env) (c : SizerCfg) (r : Run) (rows : List OutRow) : Run :=
  let d := sizerDrain E c r rows
  sizerBlocks E c d.1 d.2

/-! Ranking (04 R120 to R123). -/

/-- A ranked record: value, index, the 32-bit VALUE word. -/
structure Rank where
  val   : Val
  index : Nat
  word  : Nat
  deriving DecidableEq, Repr

/-- Does record `a` rank before `b` (04 R121)? -/
def ranksBefore (byMag : Bool) (a b : Rank) : Bool :=
  match a.val, b.val with
  | .nan, .nan => decide (a.index < b.index)
  | .nan, _ => false
  | _, .nan => true
  | x, y =>
    let c := if byMag then vCmp (vAbs x) (vAbs y) else vCmp x y
    if c = 1 then true else if c = 0 then decide (a.index < b.index) else false

/-- Insert a record into a ranked list. -/
def rankInsert (byMag : Bool) (x : Rank) : List Rank → List Rank
  | [] => [x]
  | y :: ys => if ranksBefore byMag x y then x :: y :: ys else y :: rankInsert byMag x ys

/-- The filler record of 04 R122. -/
def fillerRank (int byMag : Bool) : Rank :=
  if int then (if byMag then ⟨vZero, 0xFFFFFFFF, 0⟩ else ⟨vOfInt int32Min, 0xFFFFFFFF, 0x80000000⟩)
  else ⟨.nan, 0xFFFFFFFF, 0x7FC00000⟩

/-- The k best records, filled up (04 R122). -/
def topK (int byMag : Bool) (k : Nat) (xs : List Rank) : List Rank :=
  let ranked := xs.foldl (fun acc x => (rankInsert byMag x acc).take k) []
  ranked ++ List.replicate (k - ranked.length) (fillerRank int byMag)

/-- The VALUE word of an element: widened exactly to FP32 or INT32 (04 R122). -/
def rankWord (f : Fmt) (v : Val) : Nat := if fmtIsInt f then codeOfInt 32 (vToInt v) else fp32Code v

/-- The bytes of ranked records (04 R122). -/
def rankBytes (xs : List Rank) : List Byte := (xs.map fun x => leBytes 4 x.word ++ leBytes 4 x.index).flatten

/-- Dequantisation (04 R101): rtz_fp32(s × (q − z)), q − z exact. -/
def dequant (f : Fmt) (code : Nat) (scale : Nat) (z : Int) : Val :=
  rtzFp32 (vMul (decodeFmt .sw16 scale) (elemVal f code z))

end Sys2Proof.Machine
end

