-- ==== Sys2Proof/Machine/Matrix.lean ====
section
/-!
DEFINITION. The data effect of the matrix ops and the chute, one work step at a time (log 55): the iterations of `mma` and `mmt` (06 R172 to R178, 03 R79 to
R85, 05 R131 to R137) with their residue checks (05 R154 to R159), and the steps of the passes of `chute` (06 R180, 05 R148 to R151).
-/
namespace Sys2Proof.Machine

/-- The fields of `mma`, `mmt` and the first slot of `pair` (06 R172). -/
structure MatF where
  gang    : Nat
  stat    : Nat
  seed    : Nat
  loadb   : Bool
  resc    : Bool
  fmtS    : Fmt
  fmtT    : Fmt
  steps   : Nat
  aLine   : Nat
  iter    : Nat
  q       : Nat
  aStride : Int
  aQstride : Int
  ipt     : Nat
  opt     : Nat
  tReg    : Nat
  tOff    : Nat
  tStride : Int
  oReg    : Nat
  oOff    : Nat
  oStride : Int
  oPitch  : Nat
  deriving DecidableEq, Repr

/-- The format of a field; a reserved code, which the loader rejects, reads as FP32. -/
def fmtFld (w : OpWord) (hi lo : Nat) : Fmt := (fmtOfCode (fld w hi lo)).getD .fp32

/-- Read the fields of 06 R172. -/
def matFields (w : OpWord) : MatF where
  gang := fld w 23 20
  stat := fld w 25 24
  seed := fld w 27 26
  loadb := fld w 28 28 == 1
  resc := fld w 29 29 == 1
  fmtS := fmtFld w 35 32
  fmtT := fmtFld w 39 36
  steps := fld w 53 40 + 1
  aLine := fld w 63 54
  iter := fld w 79 64
  q := fld w 87 80 + 1
  aStride := sfld w 98 88
  aQstride := sfld w 109 99
  ipt := fld w 121 110
  opt := fld w 133 122
  tReg := fld w 137 134
  tOff := fld w 153 138
  tStride := sfld w 173 154
  oReg := fld w 177 174
  oOff := fld w 193 178
  oStride := sfld w 213 194
  oPitch := fld w 223 214

/-- The products that join one output's chain in a step (03 R79, R80, R82): `paired` steps add the exact sum of two products. `x` is the
streamed value of reduction lane and pair value, `w` the held value. -/
def chainProducts (paired : Bool) (red : Nat) (x w : Nat → Nat → Val) : List Val :=
  (List.range red).map fun k =>
    if paired then vAdd (vMul (x k 0) (w k 0)) (vMul (x k 1) (w k 1)) else vMul (x k 0) (w k 0)

/-- Reduction span of a gang (05 R137): logical rows in normal use, logical columns in transposed use. -/
def redSpan (g : Nat) (trans : Bool) : Nat := if trans then gangCols g else gangRows g

/-- Outputs per step of a gang (05 R137): with 4-bit pairs in transposed use each cell row holds two outputs. -/
def outSpan (g : Nat) (trans paired : Bool) : Nat :=
  if trans then (if paired then 2 * gangRows g else gangRows g) else gangCols g

/-- The held value of reduction index `k` (pair value `v`) and output `o`, less the zero point when the stationary operand is the
activation (06 R178). -/
def heldVal (cells : Tab Val) (act : Tab Nat) (g : Nat) (trans paired : Bool) (z : Int) (o k v : Nat) : Val :=
  let c := if trans then
      (if paired then gangCell cells act g 0 (o / 2) k (o % 2) else gangCell cells act g 0 o k 0)
    else gangCell cells act g 0 k o v
  if z = 0 then c else vAdd c (vOfInt (-z))

/-- The products of one output element of one step of a weight- or input-stationary fill. -/
def stepProducts (cells : Tab Val) (act : Tab Nat) (g : Nat) (trans paired : Bool) (zt : Int) (x : Stream) (s o : Nat) : List Val :=
  chainProducts (paired && !trans) (redSpan g trans) (fun k v => streamVal x s k v)
    (fun k v => heldVal cells act g trans paired zt o k v)

/-- One fill: the output vector of each step, from the seeds (03 R79, R81). -/
def fillOut (int : Bool) (cells : Tab Val) (act : Tab Nat) (g : Nat) (trans paired : Bool) (zt : Int) (x : Stream) (steps : Nat)
    (seed : Nat → Nat → Val) : List (List Val) :=
  (List.range steps).map fun s => (List.range (outSpan g trans paired)).map fun o =>
    accChain int (seed s o) (stepProducts cells act g trans paired zt x s o)

/-- The events of one fill (03 R78). -/
def fillCounts (int : Bool) (cells : Tab Val) (act : Tab Nat) (g : Nat) (trans paired : Bool) (zt : Int) (x : Stream) (steps : Nat)
    (seed : Nat → Nat → Val) : Counts :=
  (List.range steps).foldl (fun c s => (List.range (outSpan g trans paired)).foldl (fun c o =>
    countsAdd c (accChainCounts int (seed s o) (stepProducts cells act g trans paired zt x s o))) c) countsZero

/-- Load the stationary tile of a later iteration into the shadow set and exchange the sets (06 R175). -/
def loadTile (E : Env) (field iter : Nat) (r : Run) (g : Nat) (f : Fmt) (paired : Bool) (a : Nat) : Run :=
  let q := opRead E field iter r a (gangTileBytes g f paired)
  match q.1.fault with
  | some _ => q.1
  | none => { q.1 with cells := loadGang q.1.cells q.1.act g f paired q.2, act := flipGang q.1.act g }

/-- Read accumulator-format rows as seeds (03 R83): one row of `n` values at `addr`. -/
def readSeedRow (E : Env) (field iter : Nat) (int : Bool) (r : Run) (addr n : Nat) : Run × List Val :=
  let q := opRead E field iter r addr (4 * n)
  (q.1, (List.range n).map fun j => decodeFmt (if int then .int32 else .fp32) (elemCode .fp32 q.2 j))

/-- Read seed rows for a whole tile. -/
def readSeedRows (E : Env) (field iter : Nat) (int : Bool) (r : Run) (addr : Nat → Nat) (rows n : Nat) : Run × List (List Val) :=
  (List.range rows).foldl (fun (a : Run × List (List Val)) k =>
    let q := readSeedRow E field iter int a.1 (addr k) n
    (q.1, a.2 ++ [q.2])) (r, [])

/-- Element (s, o) of a list of rows; +0 beyond it. -/
def rowsAt (rows : List (List Val)) (s o : Nat) : Val := (rows.getD s []).getD o vZero

/-- Is the pair of formats an integer pair (03 R72)? -/
def intPair (a b : Fmt) : Bool := fmtIsInt a && fmtIsInt b

/-- Does the op merge the chute's partial (04 R99): its activation point lists wide channels and is in normal mode? -/
def mergesWide (E : Env) (ipt : Nat) : Bool :=
  match pointOf E ipt with
  | some p => !p.wide.isEmpty && !p.beater
  | none => false

/-- The address of drained vector `v` of tile `q` (06 R176). -/
def outAddr (g : Tab (BitVec 32)) (f : MatF) (q v : Nat) : Nat :=
  addrAdd (addrAdd (opAddr g f.oReg f.oOff 64) ((q : Int) * f.oStride * 64)) ((v : Int) * (f.oPitch : Int) * 64)

/-- The output row (token) that the beater rotation gathers a drained element into (04 R576): the step in weight-stationary use, the
position in input-stationary use, whose vector runs over tokens. -/
def rowKey (stat v j : Nat) : Nat := if stat = 1 then j else v

/-- The output row of an element of tile or pass `q`: tiles that advance the channels belong to one row, and tiles over the same
channels (CH_QSTEP 0) to rows of their own (04 R574, R576). -/
def groupKey (E : Env) (opt q row : Nat) : Nat :=
  match producerRec E opt with
  | some p => if p.chQstep = 0 then q * 65536 + row else row
  | none => row

/-- The position that R574 gives an element: the column, or the step of the fill in input-stationary use. -/
def chanPos (stat v j : Nat) : Nat := if stat = 1 then v else j

/-- The producer record of the op that left a wide partial: its own, or that of the matrix op which takes the partial (log 70). -/
def wideRec (E : Env) (w : WidePart) : Option QRec :=
  match E.var.qpoints.find? (fun p => p.point == w.opt && p.room == E.room && p.op == w.op && p.role == 0) with
  | some p => some p
  | none => producerRec E w.opt

/-- The vector in the drain set, and its position there, that the element of tile `q`, output row `row` and channel position `j` merges (04 R99, 06 R180): the chute's
output of that row and channel, as R574 numbers them; where neither op has a producer record, of the pass and position that the element has (log 70). -/
def wideAt (E : Env) (ws : List WidePart) (opt q row j : Nat) : Option (WidePart × Nat) :=
  ws.findSome? fun w =>
    if w.opt = opt then match wideRec E w, producerRec E opt with
      | some p, some m =>
        let lo := p.chBase + w.pass * p.chQstep
        let n := m.chBase + q * m.chQstep + j
        if (if p.chQstep = 0 then w.pass * 65536 + w.vec else w.vec) = (if m.chQstep = 0 then q * 65536 + row else row) ∧ lo ≤ n ∧ n < lo + w.vals.length
        then some (w, n - lo) else none
      | _, _ => if w.pass = q ∧ w.vec = row ∧ j < w.vals.length then some (w, j) else none
    else none

/-- The wide partial of an element. -/
def widePartAt (E : Env) (ws : List WidePart) (opt q row j : Nat) : Option Val := (wideAt E ws opt q row j).bind fun p => p.1.vals[p.2]?

/-- The sizer takes an element's partial out of the drain set; a vector of which all are taken has left it (06 R180). -/
def takeWide (E : Env) (opt q row j : Nat) (ws : List WidePart) : List WidePart :=
  match wideAt E ws opt q row j with
  | some (w, k) => (ws.map fun x => if x = w then { x with left := x.left.erase k } else x).filter fun x => !x.left.isEmpty
  | none => ws

/-- The sizer takes the partials of tile `q`: of `rows` drained vectors from `v0` on, and each position. -/
def takeTile (E : Env) (stat opt q v0 rows cols : Nat) (ws : List WidePart) : List WidePart :=
  (List.range rows).foldl (fun ws v => (List.range cols).foldl (fun ws j => takeWide E opt q (rowKey stat (v0 + v) j) (chanPos stat (v0 + v) j) ws) ws) ws

/-- The output channels that one tile of the op's own weights adds (04 R114): the tiles of a weight-stationary op that loads them, those of an input-stationary op whose
streamed lines advance with the tile, and of an output-stationary op whose top-edge lines advance. -/
def tileChannels (f : MatF) (cols : Nat) : Nat :=
  if f.stat = 0 then (if f.loadb then cols else 0)
  else if f.stat = 1 then (if f.aQstride = 0 then 0 else f.steps)
  else if f.tStride = 0 then 0 else cols

/-- Drained vectors of the last reduction part of tile `q`, from vector `v0` on. -/
def tileRows (E : Env) (g : Tab (BitVec 32)) (f : MatF) (parts : List WidePart) (iter q v0 : Nat) (outs : List (List Val)) : List OutRow :=
  (List.range outs.length).map fun k =>
    let v := v0 + k
    let vals := outs.getD k []
    { addr := outAddr g f q v, iter := iter,
      elems := (List.range vals.length).map fun j =>
        let n := channelIndex E f.opt q (chanPos f.stat v j)
        { n := n, tab := n, col := q * tileChannels f vals.length + chanPos f.stat v j, key := groupKey E f.opt q (rowKey f.stat v j), acc := vals.getD j vZero,
          part := if mergesWide E f.ipt then widePartAt E parts f.opt q (rowKey f.stat v j) (chanPos f.stat v j) else none } }

/-- The state carried over the steps of a matrix op: the run, the seed loop per output tile (the rows of the last part of the tile), the finished vectors, and what the op
holds of the fill that it is in. -/
structure MatLoop where
  run  : Run
  loop : Tab (List (List Val))
  rows : List OutRow
  part : PartWork
  deriving DecidableEq, Repr

/-- Steps of a fill that one work step makes (log 55). -/
def fillChunk : Nat := 128

/-- The work steps of one fill. -/
def matChunks (f : MatF) : Nat := max 1 ((f.steps + fillChunk - 1) / fillChunk)

/-- The steps of work step `c` of a fill. -/
def chunkSteps (f : MatF) (c : Nat) : Nat := min f.steps ((c + 1) * fillChunk) - c * fillChunk

/-- Read the groups that work step `c` of a fill needs beyond those already read (05 R138): each group is read once, as its first step comes. `kept` are the groups held;
in an output-stationary fill all of them are. -/
def chunkGroups (E : Env) (field iter : Nat) (r : Run) (f : MatF) (top : Bool) (base : Nat) (fmt : Fmt) (c : Nat) (kept : List (List (List Byte))) :
    Run × List (List (List Byte)) :=
  let lanes := if top then 32 else 128
  moreGroups E field iter r f.gang top base (if c = 0 then 0 else c * fillChunk + lanes - 1) (chunkSteps f c + if c = 0 then lanes - 1 else 0) fmt
    (if c = 0 then [] else kept)

/-- The moulds of a gang with their place, as the checks of a fill look at them. -/
def gangPlace (g m : Nat) : Nat × Nat := ((gangMoulds g).find? fun x => x.1 == m).elim (0, 0) (·.2)

/-- The check that a fill of a weight- or input-stationary op fails (05 R155, R156). In normal use a row of cells sees one streamed value, and the chain runs down a
column; in transposed use the two exchange. The chain of a mould starts from the partial sum that enters it. -/
def fillMismatch (E : Env) (int : Bool) (cells : Tab Val) (act : Tab Nat) (g : Nat) (trans paired : Bool) (zt : Int) (x : Stream) (steps : Nat)
    (seed : Nat → Nat → Val) : Option Mismatch :=
  firstFound (E.mould.defects.filter fun d => (gangUnits g).contains d.mould) fun d =>
    let ij := gangPlace g d.mould
    let vs := if paired then [0, 1] else [0]
    let held (o k v : Nat) : Val := heldVal cells act g trans paired zt o k v
    let lane (l : Nat) : Nat := if trans then 32 * ij.2 + l else 128 * ij.1 + l
    let outs (c : Nat) : List Nat := if trans then (if paired then [2 * (128 * ij.1 + c), 2 * (128 * ij.1 + c) + 1] else [128 * ij.1 + c]) else [32 * ij.2 + c]
    let prod (err s l : Nat) : Bool := productFails err
      (if trans then [(streamVal x s (lane l) 0, (List.range 128).flatMap fun c => (outs c).map fun o => held o (lane l) 0)]
       else vs.map fun v => (streamVal x s (lane l) v, (List.range 32).flatMap fun c => (outs c).map fun o => held o (lane l) v))
    let span := if trans then 32 else 128
    let terms (s o k : Nat) : List (Val × Val) := (if trans then [0] else vs).map fun v => (streamVal x s k v, held o k v)
    let chain (err s c : Nat) : Bool := (outs c).any fun o =>
      chainFails err int (accChain int (seed s o) ((stepProducts cells act g trans paired zt x s o).take (lane 0)))
        ((List.range span).map fun k => chainStep (terms s o (lane 0 + k)))
    defectFound E.mould false (!trans) steps steps prod chain d

/-- Work step `c` of iteration `i` (06 R173, R175): load and exchange at the first when the op loads its tiles, stream the steps, keep the outputs in the seed loop when the
fill is over, and hand the last part's vectors on as they drain. -/
def matIter (E : Env) (g : Tab (BitVec 32)) (f : MatF) (trans : Bool) (parts : List WidePart) (m : MatLoop) (i c : Nat) : MatLoop :=
  match m.run.fault with
  | some _ => m
  | none =>
    let p := i / f.q
    let q := i % f.q
    let paired := isPaired f.fmtS f.fmtT
    let int := intPair f.fmtS f.fmtT
    let s0 := c * fillChunk
    let steps := chunkSteps f c
    let r := if c = 0 && f.loadb && i ≥ 1 then
        loadTile E 1 i m.run f.gang f.fmtT paired (addrAdd (opAddr g f.tReg f.tOff 512) ((i : Int) * f.tStride * 512))
      else m.run
    let base := lineAdd (lineAdd f.aLine ((p : Int) * f.aStride)) ((q : Int) * f.aQstride)
    let zs := if f.stat = 0 then pointZero E f.ipt f.fmtS else 0
    let zt := if f.stat = 1 then pointZero E f.ipt f.fmtT else 0
    let x := chunkGroups E 0 i r f trans base f.fmtS c m.part.edge
    let st : Stream := ⟨f.fmtS, !trans && paired, zs, if trans then 32 else 128, x.2⟩
    let n := outSpan f.gang trans paired
    let sd := if p = 0 then
        (if f.seed = 1 then readSeedRows E 2 i int x.1 (fun v => outAddr g f q (s0 + v)) steps n else (x.1, []))
      else (x.1, (tabGet [] m.loop q).drop s0)
    let seed := rowsAt sd.2
    let outs := fillOut int sd.1.cells sd.1.act f.gang trans paired zt st steps seed
    let run := noteMismatch (addCounts sd.1 (fillCounts int sd.1.cells sd.1.act f.gang trans paired zt st steps seed)) i
      (fillMismatch E int sd.1.cells sd.1.act f.gang trans paired zt st steps seed)
    let all := (if c = 0 then [] else m.part.outs) ++ outs
    let filled := c + 1 == matChunks f
    { run := run, loop := if filled then tabPut [] m.loop q all else m.loop,
      rows := if p + 1 = f.iter / f.q then m.rows ++ tileRows E g f parts i q s0 outs else m.rows,
      part := if filled then partNone else { partNone with edge := x.2.map (·.drop steps), outs := all } }

/-- The exchange of an output-stationary iteration (06 R177): the finished accumulators stand in the shadow set, and +0 or the next
seeds stand in the active set. -/
def putGang (cells : Tab Val) (act : Tab Nat) (g sh : Nat) (rows : List (List Val)) : Tab Val :=
  (List.range (gangRows g)).foldl (fun c m => (List.range (gangCols g)).foldl (fun c n =>
    let mo := mouldAt g (m / 128) (n / 32)
    tabPut vZero c (cellKey mo ((tabGet 0 act mo + sh) % 2) (m % 128) (n % 32) 0) (rowsAt rows m n)) c) cells

/-- The check that an output-stationary fill fails (05 R155, R156): the held sum is that of the top-edge values of the step, and each cell's own residue is compared as
the tile drains. -/
def outMismatch (E : Env) (int : Bool) (g : Nat) (paired : Bool) (x t : Stream) (steps : Nat) (seed : Nat → Nat → Val) : Option Mismatch :=
  firstFound (E.mould.defects.filter fun d => (gangUnits g).contains d.mould) fun d =>
    let ij := gangPlace g d.mould
    let vs := if paired then [0, 1] else [0]
    let row (l : Nat) : Nat := 128 * ij.1 + l
    let prod (err k l : Nat) : Bool := productFails err (vs.map fun v => (streamVal x k (row l) v, (List.range 32).map fun c => streamVal t k (32 * ij.2 + c) v))
    let chain (err l c : Nat) : Bool := chainFails err int (seed (row l) (32 * ij.2 + c))
      ((List.range steps).map fun k => chainStep (vs.map fun v => (streamVal x k (row l) v, streamVal t k (32 * ij.2 + c) v)))
    defectFound E.mould true true steps 128 prod chain d

/-- Work step `c` of iteration `i` of an output-stationary op (06 R177): its own output tile, whose accumulators take their products in ascending k; the tile exchanges and
drains, and its checks resolve, when the fill is over. -/
def outIter (E : Env) (g : Tab (BitVec 32)) (f : MatF) (parts : List WidePart) (m : MatLoop) (i c : Nat) : MatLoop :=
  match m.run.fault with
  | some _ => m
  | none =>
    let paired := isPaired f.fmtS f.fmtT
    let int := intPair f.fmtS f.fmtT
    let rows := gangRows f.gang
    let cols := gangCols f.gang
    let s0 := c * fillChunk
    let sd := if c = 0 ∧ f.seed = 1 then readSeedRows E 2 i int m.run (outAddr g f i) rows cols else (m.run, [])
    let x := chunkGroups E 0 i sd.1 f false (lineAdd f.aLine ((i : Int) * f.aQstride)) f.fmtS c m.part.edge
    let tStep : Int := signedOf 11 ((f.tStride % 2048).toNat)
    let t := chunkGroups E 1 i x.1 f true (lineAdd (f.tOff % 1024) ((i : Int) * tStep)) f.fmtT c m.part.top
    let r := t.1
    let left : Stream := ⟨f.fmtS, paired, pointZero E f.ipt f.fmtS, 128, x.2⟩
    let top : Stream := ⟨f.fmtT, paired, 0, 32, t.2⟩
    let grid (v : Nat → Nat → Val) : List (List Val) := (List.range rows).map fun mm => (List.range cols).map fun n => v mm n
    let seeds := if c = 0 then grid fun mm n => if f.seed = 1 then rowsAt sd.2 mm n else if f.seed = 2 then gangCell r.cells r.act f.gang 0 mm n 0 else vZero
      else m.part.seeds
    let acc := if c = 0 then seeds else m.part.outs
    let prods (mm n : Nat) : List Val :=
      (List.range (chunkSteps f c)).map fun j =>
        let k := s0 + j
        if paired then vAdd (vMul (streamVal left k mm 0) (streamVal top k n 0)) (vMul (streamVal left k mm 1) (streamVal top k n 1))
        else vMul (streamVal left k mm 0) (streamVal top k n 0)
    let outs := grid fun mm n => accChain int (rowsAt acc mm n) (prods mm n)
    let cnt := (List.range rows).foldl (fun c mm => (List.range cols).foldl (fun c n =>
      countsAdd c (accChainCounts int (rowsAt acc mm n) (prods mm n))) c) countsZero
    let a := addCounts r cnt
    if c + 1 < matChunks f then { m with run := a, part := { partNone with edge := x.2, top := t.2, outs := outs, seeds := seeds } }
    else
      let act := flipGang r.act f.gang
      let cells := putGang (zeroGangSet (zeroGangSet r.cells act f.gang 1) act f.gang 0) act f.gang 1 outs
      { run := noteMismatch { a with cells := cells, act := act } i (outMismatch E int f.gang paired left top f.steps (rowsAt seeds)), loop := [],
        rows := m.rows ++ tileRows E g f parts i i 0 outs, part := partNone }

/-! The rotation gathers blocks of an output row (04 R576). -/

/-- Every channel of the block of an element has come among the elements given. -/
def blockCame (log : Nat) (es : List Elem) (e : Elem) : Bool :=
  (List.range (2 ^ log)).all fun i => es.any fun x => x.key == e.key && x.n == e.n / 2 ^ log * 2 ^ log + i

/-- Two vectors hold elements of one block. -/
def shareBlock (log : Nat) (a b : OutRow) : Bool :=
  a.elems.any fun x => b.elems.any fun y => x.key == y.key && x.n / 2 ^ log == y.n / 2 ^ log

/-- Keep back, with the vectors in `held`, those that share a block with one of them, and so on. -/
def withShared (log : Nat) : Nat → List OutRow → List OutRow → List OutRow × List OutRow
  | 0, go, held => (go, held)
  | k + 1, go, held =>
    let s := go.partition fun r => held.any (shareBlock log r)
    if s.1.isEmpty then (go, held) else withShared log k s.2 (held ++ s.1)

/-- The vectors whose blocks have all come, and those that wait for values still to come. -/
def fullBlocks (log : Nat) (rows : List OutRow) : List OutRow × List OutRow :=
  let es := rows.flatMap (·.elems)
  let s := rows.partition fun r => r.elems.all (blockCame log es)
  withShared log rows.length s.1 s.2

/-- The vectors that a step drains go through the sizer; the rotation takes each block when its last value has come, and holds the others, until the op's last step at the
latest (04 R576). -/
def drainRows (E : Env) (c : SizerCfg) (last : Bool) (held rows : List OutRow) (r : Run) : Run × List OutRow :=
  let d := sizerDrain E c r rows
  match pointOf E c.opt with
  | none => (d.1, [])
  | some p =>
    let s := if last then (held ++ d.2, []) else fullBlocks p.blockLog (held ++ d.2)
    (sizerBlocks E c d.1 s.1, s.2)

/-- Does iteration `i` finish its output tile? -/
def lastPart (f : MatF) (i : Nat) : Bool := f.stat == 2 || i / f.q + 1 == f.iter / f.q

/-- One work step of `mma` or `mmt` (06 R172 to R178), the one that `fl.pos` says: its steps of the fill, then the sizer path over the vectors that they finish. -/
def matStep (E : Env) (f : MatF) (trans : Bool) (fl : InFlight) (r : Run) : Run × InFlight :=
  let i := fl.pos / matChunks f
  let k := fl.pos % matChunks f
  let filled := fl.pos + 1 == f.iter * matChunks f
  let m0 : MatLoop := ⟨r, fl.loop, [], fl.part⟩
  let m := if f.stat = 2 then outIter E fl.regs f r.wide m0 i k else matIter E fl.regs f trans r.wide m0 i k
  let c : SizerCfg := ⟨2, intPair f.fmtS f.fmtT, f.resc, f.ipt, f.opt, m.run.scale, none, none⟩
  let out := drainRows E c filled fl.rows m.rows m.run
  let cols := if f.stat = 2 then gangCols f.gang else outSpan f.gang trans (isPaired f.fmtS f.fmtT)
  let wide := if mergesWide E f.ipt && lastPart f i then takeTile E f.stat f.opt (i % f.q) (if f.stat = 2 then 0 else k * fillChunk) m.rows.length cols out.1.wide else out.1.wide
  let wide := if mergesWide E f.ipt && filled then wide.filter fun w => w.opt != f.opt else wide
  ({ out.1 with wide := wide }, { fl with pos := fl.pos + 1, loop := m.loop, rows := out.2, part := m.part })

/-! The chute (06 R180). -/

/-- The fields of `chute`. -/
structure ChuteF where
  batch   : Nat
  wide    : Bool
  seed    : Nat
  resc    : Bool
  tiled   : Bool
  fmtV    : Fmt
  fmtW    : Fmt
  n       : Nat
  k       : Nat
  vOff    : Nat
  iter    : Nat
  ipt     : Nat
  opt     : Nat
  wReg    : Nat
  wOff    : Nat
  wStride : Int
  oReg    : Nat
  oOff    : Nat
  oStride : Int
  wPitch  : Nat
  deriving DecidableEq, Repr

/-- Read the fields of 06 R180. -/
def chuteFields (w : OpWord) : ChuteF where
  batch := fld w 22 20 + 1
  wide := fld w 23 23 == 1
  seed := fld w 25 24
  resc := fld w 26 26 == 1
  tiled := fld w 27 27 == 1
  fmtV := fmtFld w 35 32
  fmtW := fmtFld w 39 36
  n := fld w 51 40 + 1
  k := fld w 75 52
  vOff := fld w 90 76
  iter := fld w 106 91
  ipt := fld w 118 107
  opt := fld w 130 119
  wReg := fld w 134 131
  wOff := fld w 150 135
  wStride := sfld w 170 151
  oReg := fld w 174 171
  oOff := fld w 190 175
  oStride := sfld w 210 191
  wPitch := fld w 220 211

/-- The code of element `k` of input vector `b` in the vector buffer, read circularly (06 R180). -/
def vecCode (vec : Tab Byte) (f : ChuteF) (k b : Nat) : Nat :=
  let e := k * f.batch + b
  let bits := fmtBits f.fmtV
  let byte (o : Nat) : Nat := (tabGet 0 vec ((f.vOff + o) % 32768)).toNat
  let bit := e * bits
  let w := byte (bit / 8) + 256 * byte (bit / 8 + 1) + 65536 * byte (bit / 8 + 2) + 16777216 * byte (bit / 8 + 3)
  w / 2 ^ (bit % 8) % 2 ^ bits

/-- Read the weights of reduction index `k` of a pass: row-major at W_PITCH, or gathered from mould-layout tiles of 32 columns (05
R149), 128 rows to a tile, or 256 for 4-bit pairs, with the tiles of one row block consecutive (log 13). -/
def chuteRow (E : Env) (f : ChuteF) (iter : Nat) (r : Run) (base k : Nat) : Run × List Nat :=
  if f.tiled then
    let paired := isPaired f.fmtV f.fmtW
    let rows := if paired then 256 else 128
    let tiles := (f.n + 31) / 32
    let sz := mouldTileBytes f.fmtW paired
    let q := (List.range tiles).foldl (fun (a : Run × List Nat) t =>
      let off := ((k / rows) * tiles + t) * sz + rowBytes f.fmtW ((k % rows) * 32)
      let b := opRead E 0 iter a.1 (addrAdd base (off : Int)) (rowBytes f.fmtW 32)
      (b.1, a.2 ++ (List.range 32).map fun j => elemCode f.fmtW b.2 j)) (r, [])
    (q.1, q.2.take f.n)
  else
    let b := opRead E 0 iter r (addrAdd base ((k * f.wPitch * 64 : Nat) : Int)) (rowBytes f.fmtW f.n)
    (b.1, (List.range f.n).map fun j => elemCode f.fmtW b.2 j)

/-- The address of output row `b` of a pass: rows follow at N elements rounded up to 64 B (06 R180). -/
def chuteOutAddr (g : Tab (BitVec 32)) (f : ChuteF) (outBits pass b : Nat) : Nat :=
  addrAdd (opAddr g f.oReg f.oOff 64) ((pass : Int) * f.oStride * 64 + ((b * ((f.n * outBits + 511) / 512 * 64) : Nat) : Int))

/-- Bits of an output element of the chute: the output point's format, else the format that 04 R99 gives, 32 bits either way. -/
def chuteOutBits (E : Env) (f : ChuteF) : Nat := match pointOf E f.opt with | some p => fmtBits p.qfmt | none => 32

/-- The reduction indices of one step of a pass: those that the vector buffer holds at once, in whole pairs for 4-bit operands (05 R150). -/
def chuteSpan (f : ChuteF) : Nat :=
  let n := 262144 / (f.batch * fmtBits f.fmtV)
  if isPaired f.fmtV f.fmtW then n / 2 * 2 else n

/-- The steps of one pass. -/
def chuteSteps (f : ChuteF) : Nat := max 1 ((f.k + chuteSpan f - 1) / chuteSpan f)

/-- The check that a step of a pass fails (05 R159): a lane group of 128 lanes compares its products per index and input vector, and each lane's carried residue; the product
check resolves first (05 R158). Lane b × N + n computes output n of vector b (log 58). -/
def chuteMismatch (E : Env) (f : ChuteF) (int paired : Bool) (ks : List (List Nat)) (x w : Nat → Nat → Val) (seed : Nat → Nat → Val) : Option Mismatch :=
  firstFound (E.mould.defects.filter fun d => d.mould == 4) fun d =>
    let lanes (b : Nat) : List Nat := (List.range f.n).filter fun j => (b * f.n + j) / 128 == d.index
    if (List.range f.batch).any fun b => !(lanes b).isEmpty && ks.any fun k => productFails d.err (k.map fun i => (x i b, (lanes b).map fun j => w i j))
    then some ⟨4, false, false, d.index⟩
    else if (List.range f.batch).any fun b => (lanes b).any fun j => chainFails d.err int (seed b j) (ks.map fun k => chainStep (k.map fun i => (x i b, w i j)))
    then some ⟨4, true, false, d.index⟩ else none

/-- One step of a pass (05 R148, R150, 03 R84): the lanes' chains go on over its indices, pair sums for 4-bit pairs. The first step of a pass takes its seeds. The
manual gives no rule for an odd K of 4-bit pairs: the last index, which has no partner, joins no chain (log 83). -/
def chuteChunk (E : Env) (g : Tab (BitVec 32)) (f : ChuteF) (r : Run) (pass c : Nat) : Run × List (List Val) :=
  let base := addrAdd (opAddr g f.wReg f.wOff 512) ((pass : Int) * f.wStride * 512)
  let int := intPair f.fmtV f.fmtW
  let paired := isPaired f.fmtV f.fmtW
  let z := pointZero E f.ipt f.fmtV
  let lo := c * chuteSpan f
  let n := min f.k (lo + chuteSpan f) - lo
  let ws := (List.range n).foldl (fun (a : Run × List (List Nat)) k =>
    let q := chuteRow E f pass a.1 base (lo + k)
    (q.1, a.2 ++ [q.2])) (r, [])
  let wv (k n : Nat) : Val := decodeFmt f.fmtW ((ws.2.getD k []).getD n 0)
  let xv (k b : Nat) : Val := elemVal f.fmtV (vecCode r.vec f (lo + k) b) z
  let sd := if c = 0 then (List.range f.batch).foldl (fun (a : Run × List (List Val)) b =>
      if f.seed = 1 then
        let q := readSeedRow E 1 pass int a.1 (chuteOutAddr g f 32 pass b) f.n
        (q.1, a.2 ++ [q.2])
      else (a.1, a.2 ++ [[]])) (ws.1, [])
    else (ws.1, r.lanes)
  let ks : List (List Nat) := if paired then (List.range (n / 2)).map fun j => [2 * j, 2 * j + 1] else (List.range n).map fun k => [k]
  let prods (b n : Nat) : List Val := ks.map fun k => vSum (k.map fun i => vMul (xv i b) (wv i n))
  let outs := (List.range f.batch).map fun b => (List.range f.n).map fun n => accChain int (rowsAt sd.2 b n) (prods b n)
  let cnt := (List.range f.batch).foldl (fun c b => (List.range f.n).foldl (fun c n =>
    countsAdd c (accChainCounts int (rowsAt sd.2 b n) (prods b n))) c) countsZero
  (noteMismatch (addCounts sd.1 cnt) pass (chuteMismatch E f int paired ks xv wv (rowsAt sd.2)), outs)

/-- Does a wide chute op do nothing because its activation point is in beater mode (04 R110)? -/
def chuteSkips (E : Env) (f : ChuteF) : Bool :=
  f.wide && (match pointOf E f.ipt with | some p => p.beater | none => false)

/-- The vectors that a pass drains toward the sizer. -/
def chuteRows (E : Env) (g : Tab (BitVec 32)) (f : ChuteF) (pass : Nat) (outs : List (List Val)) : List OutRow :=
  (List.range f.batch).map fun b =>
    ({ addr := chuteOutAddr g f (chuteOutBits E f) pass b, iter := pass,
       elems := (List.range f.n).map fun j =>
         let n := channelIndex E f.opt pass j
         { n := n, tab := n, col := pass * f.n + j, key := groupKey E f.opt pass b, acc := rowsAt outs b j, part := none } } : OutRow)

/-- One step of `chute` (06 R180): at the end of a pass the sets exchange, and the outputs wait in the drain set for the merge with WIDE, else they take the sizer path. -/
def chuteStep (E : Env) (f : ChuteF) (fl : InFlight) (r : Run) : Run × InFlight :=
  let pass := fl.pos / chuteSteps f
  let c := fl.pos % chuteSteps f
  let o := chuteChunk E fl.regs f r pass c
  let next := { fl with pos := fl.pos + 1 }
  match o.1.fault with
  | some _ => (o.1, next)
  | none =>
    if c + 1 < chuteSteps f then ({ o.1 with lanes := o.2 }, next)
    else
      let d := { o.1 with lanes := [] }
      if f.wide then
        ({ d with wide := d.wide ++ (List.range f.batch).map fun b => ⟨f.opt, E.op, pass, b, o.2.getD b [], List.range f.n⟩ }, next)
      else
        let out := drainRows E ⟨1, intPair f.fmtV f.fmtW, f.resc, f.ipt, f.opt, d.scale, none, none⟩ (fl.pos + 1 == f.iter * chuteSteps f)
          fl.rows (chuteRows E fl.regs f pass o.2) d
        (out.1, { next with rows := out.2 })

end Sys2Proof.Machine
end

