-- ==== Sys2Proof/Machine/Press.lean ====
section
/-!
DEFINITION. The press and the ops that use it (07_couched_pairs): `pair` with its couched blocks and streaming softmax, and the row
functions of `rowf`; `ewa` on a gang (05 R145 to R147); `stat` and `resc` on the sizer's direct input (06 R183).
-/
namespace Sys2Proof.Machine

/-- The row functions of 07 R211. -/
inductive RowFn where
  | pass | softmax | table | gatedTable | annex | gatedAnnex
  deriving DecidableEq, Repr

/-- The function of a FUNC code; a reserved code, which the loader rejects, reads as pass. -/
def rowFnOf : Nat → RowFn
  | 1 => .softmax | 2 => .table | 3 => .gatedTable | 4 => .annex | 5 => .gatedAnnex | _ => .pass

/-- Does the function take its values from an annex slot? -/
def fnUsesAnnex : RowFn → Bool
  | .annex | .gatedAnnex => true
  | _ => false

/-! `pair` (07 R200 to R216). -/

/-- The fields of a pair's second slot (07 R201). -/
structure PairF where
  gangB   : Nat
  transB  : Bool
  loadbB  : Bool
  rescB   : Bool
  transA  : Bool
  fmtB    : Fmt
  fmtC    : Fmt
  twin    : Nat
  func    : RowFn
  table   : Nat
  ratio   : Nat
  mask    : Nat
  mreg    : Nat
  qb      : Nat
  cscale  : Nat
  alpha   : Nat
  tpt     : Nat
  groups  : Nat
  tbReg   : Nat
  tbOff   : Nat
  tbStride : Int
  t2Reg   : Nat
  t2Off   : Nat
  gStride : Int
  deriving DecidableEq, Repr

/-- Read the fields of 07 R201. -/
def pairFields (w : OpWord) : PairF where
  gangB := fld w 23 20
  transB := fld w 24 24 == 1
  loadbB := fld w 25 25 == 1
  rescB := fld w 26 26 == 1
  transA := fld w 27 27 == 1
  fmtB := fmtFld w 31 28
  fmtC := fmtFld w 35 32
  twin := fld w 39 36
  func := rowFnOf (fld w 47 40)
  table := fld w 59 48
  ratio := 2 ^ fld w 61 60
  mask := fld w 63 62
  mreg := fld w 67 64
  qb := fld w 71 68 + 1
  cscale := fld w 87 72
  alpha := fld w 119 88
  tpt := fld w 131 120
  groups := fld w 143 132 + 1
  tbReg := fld w 147 144
  tbOff := fld w 163 148
  tbStride := sfld w 183 164
  t2Reg := fld w 187 184
  t2Off := fld w 203 188
  gStride := sfld w 223 204

/-- The second slot of a pair as its accesses are checked (09 R280): the number that binds its fields, and the copy of the twin's weights. -/
def slotTwo (E : Env) : Env := { E with op := E.op + 1, copy := E.copy2 }

/-- Stage A iterations of a pair, over all groups (07 R204). -/
def pairIters (f : MatF) (p : PairF) : Nat := p.groups * f.iter

/-- Couched blocks of a pair (07 R204). -/
def pairBlocks (f : MatF) (p : PairF) : Nat := p.groups * f.q / p.ratio

/-- The key of the seed loop of a pair: output tile `q` of stage A (0), of the twin (1) or of stage B (2). -/
def pairLoopKey (stage q : Nat) : Nat := 3 * q + stage

/-- One fill of stage A on a gang, or of the twin, over the streamed rows `x` (07 R200, R204). The op loads the tile of every iteration but the first when LOADB is 1
(06 R175). -/
def stageFill (EL : Env) (f : MatF) (p : PairF) (gang tBase : Nat) (x : Stream) (i : Nat) (sd : List (List Val)) (r : Run) : Run × List (List Val) :=
  let gr := i / f.iter
  let k := i % f.iter
  let r := if f.loadb && i ≥ 1 then
      loadTile EL 1 k r gang f.fmtT false (addrAdd tBase ((gr : Int) * p.gStride * 512 + (k : Int) * f.tStride * 512))
    else r
  let int := intPair f.fmtS f.fmtT
  let outs := fillOut int r.cells r.act gang p.transA false 0 x f.steps (rowsAt sd)
  (noteMismatch (addCounts r (fillCounts int r.cells r.act gang p.transA false 0 x f.steps (rowsAt sd))) k
    (fillMismatch EL int r.cells r.act gang p.transA false 0 x f.steps (rowsAt sd)), outs)

/-- One iteration of stage A, and the twin's in step with it: gang A's feeder reads the rows once and broadcasts them (07 R200). -/
def stageStep (E : Env) (f : MatF) (p : PairF) (fl : InFlight) (r : Run) : Run × InFlight :=
  let i := fl.pos - fl.blk
  let k := i % f.iter
  let q := k % f.q
  let base := lineAdd (lineAdd f.aLine ((k / f.q : Nat) * f.aStride)) ((q : Int) * f.aQstride)
  let zs := pointZero E f.ipt f.fmtS
  let x := if p.transA then topStream E 0 k r f.gang base f.steps f.fmtS false zs
    else leftStream E 0 k r f.gang base f.steps f.fmtS false zs
  let seed (stage : Nat) : List (List Val) := if k / f.q = 0 then [] else tabGet [] fl.loop (pairLoopKey stage q)
  let a := stageFill E f p f.gang (opAddr fl.regs f.tReg f.tOff 512) x.2 i (seed 0) x.1
  let t := if p.twin = 15 then (a.1, []) else stageFill (slotTwo E) f p p.twin (opAddr fl.regs p.t2Reg p.t2Off 512) x.2 i (seed 1) a.1
  let last := k / f.q + 1 == f.iter / f.q
  (t.1, { fl with
    pos := fl.pos + 1, loop := tabPut [] (tabPut [] fl.loop (pairLoopKey 0 q) a.2) (pairLoopKey 1 q) t.2,
    tiles := if last then fl.tiles ++ [a.2] else fl.tiles, tiles2 := if last then fl.tiles2 ++ [t.2] else fl.tiles2 })

/-- The scale of output channel `n` at the press entry: the sizer's table from `tabBase` (07 R205), or the scale tensor of a rotated copy (04 R114). -/
def entryScale (copy : Option CopyRec) (st : Store) (scale : Tab (BitVec 16)) (tabBase n : Nat) : Nat :=
  match copy with
  | some k => leVal (memBytes st (k.scales + 2 * n) 2)
  | none => (tabGet 0 scale (tabBase + n % 2048)).toNat

/-- press_entry of 07 R205: conversion to FP32, the table rescale, s_in, s_t and the pre-factor, each product rounded once. -/
def pressEntry (scale : Nat → Nat) (resc : Bool) (sin st alpha : Nat) (n : Nat) (a : Val) : Val :=
  let r := rtzFp32 a
  let r := if resc then rtzFp32 (vMul r (decodeFmt .sw16 (scale n))) else r
  let r := rtzFp32 (vMul r (decodeFmt .sw16 sin))
  let r := rtzFp32 (vMul r (decodeFmt .sw16 st))
  rtzFp32 (vMul r (fp32 alpha))

/-- The SW16 code of 1.0 (03 R70). -/
def swOne : Nat := 0x7F00

/-- The launch scale of a point, or 1.0 where the field names none: SCALE_B in beater mode. -/
def pointScale (E : Env) (p : Nat) : Nat :=
  match pointOf E p with
  | some x => if x.beater then x.scaleB else x.scales.getD 0 0
  | none => swOne

/-- pexp(acc_add_f(v, −mn)) of 07 R215, +0 for an excluded element, with the events of its step. -/
def softExp (v mn : Val) : Val × Counts :=
  if v == .inf true then (vZero, countsZero) else (pexp (accAddF v (vNeg mn)), accAddFCounts v (vNeg mn))

/-- Sum of events over a list. -/
def sumCounts (xs : List Counts) : Counts := xs.foldl countsAdd countsZero

/-- One block of one row through the press: the couched codes, the correction f(c, m), the row's next state, the couch
saturations and the events (07 R206, R215). -/
def softBlock (fc : Fmt) (cscale : Nat) (masked : Nat → Bool) (t : List Val) (s : SoftRow) : List Nat × Val × SoftRow × Nat × Counts :=
  let te := (List.range t.length).map fun e => if masked e || t.getD e vZero == .inf true then Val.inf true else t.getD e vZero
  let bad := s.bad || te.any fun v => v == .nan || v == .inf false
  if bad then (t.map fun _ => 0, vOne, { s with bad := true }, 0, countsZero)
  else
    let mn := te.foldl vMax s.mx
    let none_ := mn == .inf true
    let f := if none_ then (vOne, countsZero) else softExp s.mx mn
    let ps := if none_ then te.map fun _ => (vZero, countsZero) else te.map fun v => softExp v mn
    let q := ps.map fun v => quantise v.1 (decodeFmt .sw16 cscale) 0 fc
    let l0 := rtzFp32 (vMul s.l f.1)
    let vs := q.map fun c => decodeFmt fc c.1
    (q.map (·.1), f.1, { mx := mn, l := accChain false l0 vs, bad := false }, (q.filter (·.2)).length,
      countsAdd (countsAdd f.2 (sumCounts (ps.map (·.2)))) (accChainCounts false l0 vs))

/-- Is key index `k` of row `m` masked (07 R216)? -/
def maskedKey (mask p0 k m : Nat) : Bool :=
  match mask with
  | 1 => decide (k > p0 + m)
  | 2 => decide (k ≥ p0)
  | _ => false

/-- The value of element `e` of row `m` of couched block `c` at the press entry: tile cr + e / O_A of the op, the block's own tile e / O_A, column e mod O_A (07 R204). -/
def couchedEntry (entry : Nat → Val → Val) (tiles : List (List (List Val))) (oA r c m e : Nat) : Val :=
  entry ((c * r + e / oA) * oA + e % oA) (rowsAt (tiles.getD (e / oA) []) m (e % oA))

/-- The press's work on one block: the couched codes of each row, the corrections, the rows' states, the couch saturations and the
events. -/
structure PressOut where
  codes : List (List Nat)
  corr  : List Val
  rows  : List SoftRow
  couch : Nat
  counts : Counts
  deriving DecidableEq, Repr

/-- Process block `c` (07 R206, R211, R215). `fn` is the row function of one element and its events. -/
def pressBlock (f : RowFn) (fc : Fmt) (cscale : Nat) (kb steps : Nat) (x : Nat → Nat → Val) (fn : Nat → Nat → Val × Counts)
    (masked : Nat → Nat → Bool) (rows : List SoftRow) : PressOut :=
  match f with
  | .softmax =>
    let bs := (List.range steps).map fun m =>
      softBlock fc cscale (fun e => masked e m) ((List.range kb).map fun e => x e m) (rows.getD m ⟨.inf true, vZero, false⟩)
    ⟨bs.map (·.1), bs.map (·.2.1), bs.map (·.2.2.1), bs.foldl (fun k b => k + b.2.2.2.1) 0,
      bs.foldl (fun k b => countsAdd k b.2.2.2.2) countsZero⟩
  | _ =>
    let v := (List.range steps).map fun m => (List.range kb).map fun e => fn e m
    let q := v.map fun r => r.map fun x => quantise x.1 (decodeFmt .sw16 cscale) 0 fc
    ⟨q.map fun r => r.map (·.1), (List.range steps).map fun _ => vOne, rows,
      q.foldl (fun k r => k + (r.filter (·.2)).length) 0, sumCounts (v.map fun r => sumCounts (r.map (·.2)))⟩

/-- State over the fills of stage B. -/
structure PairLoop where
  run  : Run
  loop : Tab (List (List Val))
  rows : List SoftRow
  outs : List (Nat × List (List Val))
  deriving DecidableEq, Repr

/-- One stage B fill j = c × QB + b (07 R204, R207): the couched rows of block `c` stream, the seeds are corrected, the last block's tiles
are finished. -/
def pairFill (E : Env) (g : Tab (BitVec 32)) (p : PairF) (steps nb c b : Nat) (blk : PressOut) (m : PairLoop) : PairLoop :=
  match m.run.fault with
  | some _ => m
  | none =>
    let j := c * p.qb + b
    let r := if p.loadbB && j ≥ 1 then
        loadTile { slotTwo E with copy := none } 0 j m.run p.gangB p.fmtB false (addrAdd (opAddr g p.tbReg p.tbOff 512) ((j : Int) * p.tbStride * 512))
      else m.run
    let int := intPair p.fmtC p.fmtB
    let sd := if c = 0 then [] else tabGet [] m.loop (pairLoopKey 2 b)
    let red := redSpan p.gangB p.transB
    let seed (s o : Nat) : Val := if int then rowsAt sd s o else rtzFp32 (vMul (rowsAt sd s o) (blk.corr.getD s vOne))
    let prods (s o : Nat) : List Val := (List.range red).map fun e =>
      vMul (decodeFmt p.fmtC ((blk.codes.getD s []).getD e 0)) (heldVal r.cells r.act p.gangB p.transB false 0 o e 0)
    let oB := outSpan p.gangB p.transB false
    let outs := (List.range steps).map fun s => (List.range oB).map fun o => accChain int (seed s o) (prods s o)
    let cnt := (List.range steps).foldl (fun k s => (List.range oB).foldl (fun k o =>
      countsAdd k (accChainCounts int (seed s o) (prods s o))) k) countsZero
    let bad := firstFound (E.mould.defects.filter fun d => (gangUnits p.gangB).contains d.mould) fun d =>
      let ij := gangPlace p.gangB d.mould
      let x (s l : Nat) : Val := decodeFmt p.fmtC ((blk.codes.getD s []).getD l 0)
      let held (o e : Nat) : Val := heldVal r.cells r.act p.gangB p.transB false 0 o e 0
      let lane (l : Nat) : Nat := if p.transB then 32 * ij.2 + l else 128 * ij.1 + l
      let out (k : Nat) : Nat := if p.transB then 128 * ij.1 + k else 32 * ij.2 + k
      let prod (err s l : Nat) : Bool := productFails err [(x s (lane l), (List.range (if p.transB then 128 else 32)).map fun k => held (out k) (lane l))]
      let chain (err s k : Nat) : Bool := chainFails err int (accChain int (seed s (out k)) ((prods s (out k)).take (lane 0)))
        ((List.range (if p.transB then 32 else 128)).map fun e => chainStep [(x s (lane e), held (out k) (lane e))])
      defectFound E.mould false (!p.transB) steps steps prod chain d
    { m with run := noteMismatch (addCounts r cnt) j bad, loop := tabPut [] m.loop (pairLoopKey 2 b) outs,
             outs := if c + 1 = nb then m.outs ++ [(b, outs)] else m.outs }

/-- finish of 07 R215: the division by the row sum under softmax. -/
def pairFinish (f : RowFn) (rows : List SoftRow) (m : Nat) (s : Val) : Val :=
  match f with
  | .softmax =>
    let r := rows.getD m ⟨.inf true, vZero, false⟩
    if r.bad then .nan else if vIsZero r.l then vZero else rtzFp32 (vDivPos s r.l)
  | _ => s

/-- Any SW16 with e = 0xFF that the press entry or the couch reads for a block (03 R71). -/
def pairBadScale (E : Env) (st : Store) (scale : Tab (BitVec 16)) (f : MatF) (p : PairF) (first n : Nat) : Bool :=
  let ns := (List.range n).map (· + first)
  swInvalid (pointScale E f.ipt) || swInvalid (pointScale E p.tpt) || swInvalid p.cscale ||
    ((f.resc || E.copy.isSome) && ns.any fun n => swInvalid (entryScale E.copy st scale 0 n)) ||
    (p.twin != 15 && (f.resc || E.copy2.isSome) && ns.any fun n => swInvalid (entryScale E.copy2 st scale 2048 n))

/-- The press-entry value of element `e` of row `m` of the block in the couch buffer: of stage A, or of the twin with its copy and table base 2,048 (07 R205). -/
def pairEntry (E : Env) (f : MatF) (p : PairF) (fl : InFlight) (r : Run) (twin : Bool) (m e : Nat) : Val :=
  let copy := if twin then E.copy2 else E.copy
  couchedEntry (fun n v => pressEntry (entryScale copy r.st r.scale (if twin then 2048 else 0)) (f.resc || copy.isSome) (pointScale E f.ipt)
    (pointScale E p.tpt) p.alpha n v) (if twin then fl.tiles2 else fl.tiles) (outSpan f.gang p.transA false) p.ratio fl.blk m e

/-- The elements of the block in the couch buffer that the press sends to an annex slot: row by row, with a mark on each row's last (07 R218). -/
def pairAnnexElems (E : Env) (f : MatF) (p : PairF) (fl : InFlight) (r : Run) : List AnnexElem :=
  let kb := p.ratio * outSpan f.gang p.transA false
  forList f.steps fun m => (List.range kb).map fun e => ⟨fp32Code (pairEntry E f p fl r false m e), e + 1 == kb, (fl.pos - fl.blk - 1) % f.iter⟩

/-- The row function of one element of a pair, with its events (07 R211). `ann` holds the annex's results for the block in the order sent. -/
def pairFn (E : Env) (f : MatF) (p : PairF) (press : Tab (List Byte)) (ann : List Val) (fl : InFlight) (r : Run) (e m : Nat) : Val × Counts :=
  let table := tabGet [] press (p.table % 4)
  let x := pairEntry E f p fl r false m e
  let u := pairEntry E f p fl r true m e
  let a := ann.getD (m * (p.ratio * outSpan f.gang p.transA false) + e) .nan
  match p.func with
  | .pass | .softmax => (x, countsZero)
  | .table => (pwl table x, pwlCounts table x)
  | .gatedTable => (rtzFp32 (vMul (pwl table x) u), pwlCounts table x)
  | .annex => (a, countsZero)
  | .gatedAnnex => (rtzFp32 (vMul a u), countsZero)

/-- The drained vectors of stage B's output tiles (07 R207, 06 R176). -/
def pairRows (f : MatF) (p : PairF) (g : Tab (BitVec 32)) (nb : Nat) (soft : List SoftRow) (outs : List (Nat × List (List Val))) : List OutRow :=
  outs.flatMap fun t => (List.range t.2.length).map fun v =>
    let vals := t.2.getD v []
    { addr := outAddr g f t.1 v, iter := (nb - 1) * p.qb + t.1,
      elems := (List.range vals.length).map fun j =>
        let n := t.1 * outSpan p.gangB p.transB false + j
        { n := n, tab := 4096 + n, col := n, key := v, acc := pairFinish p.func soft v (vals.getD j vZero), part := none } }

/-- A couched block goes through the press, and the QB fills of stage B stream it (07 R204 to R207); the last block's tiles go on to the sizer. -/
def blockStep (E : Env) (f : MatF) (p : PairF) (press : Tab (List Byte)) (ann : List Val) (fl : InFlight) (r : Run) : Run × InFlight :=
  let oA := outSpan f.gang p.transA false
  let kb := p.ratio * oA
  let nb := pairBlocks f p
  let c := fl.blk
  let next := { fl with pos := fl.pos + 1, blk := c + 1, tiles := [], tiles2 := [] }
  if pairBadScale E r.st r.scale f p (c * kb) kb then (runFault r 0x308 ((fl.pos - c - 1) % f.iter) 0, next)
  else
    let p0 := (tabGet 0 fl.regs p.mreg).toNat
    let blk := pressBlock p.func p.fmtC p.cscale kb f.steps (fun e m => pairEntry E f p fl r false m e) (pairFn E f p press ann fl r)
      (fun e m => maskedKey p.mask p0 (c * kb + e) m) fl.soft
    let run := addCounts { r with counts := { r.counts with couch := r.counts.couch + blk.couch } } blk.counts
    let m := (List.range p.qb).foldl (fun m b => pairFill E fl.regs p f.steps nb c b blk m) (⟨run, fl.loop, blk.rows, []⟩ : PairLoop)
    let cfg : SizerCfg := ⟨2, intPair p.fmtC p.fmtB, p.rescB, 4095, f.opt, r.scale, some (if p.func = .softmax then swOne else p.cscale), none⟩
    let out := if c + 1 = nb then sizerRows { E with copy := none } cfg m.run (pairRows f p fl.regs nb m.rows m.outs) else m.run
    (out, { next with loop := m.loop, soft := m.rows })

/-- One step of `pair` (07 R204): a couched block that is complete, else the next iteration of stage A. -/
def pairStep (E : Env) (f : MatF) (p : PairF) (press : Tab (List Byte)) (ann : List Val) (fl : InFlight) (r : Run) : Run × InFlight :=
  if fl.tiles.length = p.ratio then blockStep E f p press ann fl r else stageStep E f p fl r

/-! `rowf` (06 R182, 07 R217). -/

/-- The fields of `rowf`. -/
structure RowfF where
  func   : RowFn
  fmtI   : Fmt
  fmtO   : Fmt
  len    : Nat
  rows   : Nat
  iReg   : Nat
  iOff   : Nat
  iPitch : Int
  oReg   : Nat
  oOff   : Nat
  oPitch : Int
  table  : Nat
  deriving DecidableEq, Repr

/-- Read the fields of 06 R182. -/
def rowfFields (w : OpWord) : RowfF where
  func := rowFnOf (fld w 27 20)
  fmtI := fmtFld w 31 28
  fmtO := fmtFld w 35 32
  len := fld w 67 36
  rows := fld w 83 68
  iReg := fld w 87 84
  iOff := fld w 103 88
  iPitch := sfld w 123 104
  oReg := fld w 127 124
  oOff := fld w 143 128
  oPitch := sfld w 163 144
  table := fld w 175 164

/-- The values of row `k` as FP32 (an integer row enters as 03 R86 converts it). -/
def rowfValues (f : RowfF) (bs : List Byte) : List Val :=
  (List.range f.len).map fun i => rtzFp32 (decodeFmt f.fmtI (elemCode f.fmtI bs i))

/-- The first pass of the softmax of a row (07 R217): the running maximum and sum over single elements, with the events. -/
def softSum (t : List Val) : Val × Val × Counts :=
  t.foldl (fun (a : Val × Val × Counts) v =>
    let mn := vMax a.1 v
    if mn = .inf true then a
    else
      let f := softExp a.1 mn
      let p := softExp v mn
      let l := rtzFp32 (vMul a.2.1 f.1)
      (mn, accAddF l p.1, countsAdd a.2.2 (countsAdd f.2 (countsAdd p.2 (accAddFCounts l p.1))))) (.inf true, vZero, countsZero)

/-- An element that makes a row of the softmax bad (07 R215). -/
def softBad (v : Val) : Bool := v == .nan || v == .inf false

/-- The softmax of one row (07 R217): each element divided by the sum in the second pass. The first pass makes the steps of 07 R215 up to the first element that is NaN or
+infinity, and counts their events (03 R78); the manual gives only the results of a row with such an element, or with l = +0, and the model makes and counts no step of the
second pass for it (DESIGN CHOICE, log 84). -/
def softmaxRow (t : List Val) : List Val × Counts :=
  if t.any softBad then (t.map fun _ => Val.nan, (softSum (t.takeWhile fun v => !softBad v)).2.2)
  else
    let ml := softSum t
    if vIsZero ml.2.1 then (t.map fun _ => vZero, ml.2.2)
    else
      let ps := t.map fun v => softExp v ml.1
      (ps.map fun p => rtzFp32 (vDivPos p.1 ml.2.1), countsAdd ml.2.2 (sumCounts (ps.map (·.2))))

/-- The results of one row, and its events. -/
def rowfResults (f : RowfF) (table : List Byte) (x : List Val) : List Val × Counts :=
  match f.func with
  | .softmax => softmaxRow x
  | .table => (x.map (pwl table), sumCounts (x.map (pwlCounts table)))
  | _ => (x, countsZero)

/-- Read row `k` of a `rowf`. -/
def rowfRead (E : Env) (g : Tab (BitVec 32)) (f : RowfF) (k : Nat) (r : Run) : Run × List Byte :=
  opRead E 0 0 r (addrAdd (opAddr g f.iReg f.iOff 64) ((k : Int) * f.iPitch * 64)) (rowBytes f.fmtI f.len)

/-- Write row `k` of a `rowf`, converted to FMT_O (03 R86). -/
def rowfWrite (E : Env) (g : Tab (BitVec 32)) (f : RowfF) (k : Nat) (ys : List Val) (r : Run) : Run :=
  opWrite E 1 0 r (addrAdd (opAddr g f.oReg f.oOff 64) ((k : Int) * f.oPitch * 64)) (packRow f.fmtO (ys.map fun v => (convert f.fmtO v).1))

/-- `rowf`: every row read, under softmax twice, passed through the function and written (07 R217). -/
def runRowf (E : Env) (g : Tab (BitVec 32)) (press : Tab (List Byte)) (f : RowfF) (r : Run) : Run :=
  (List.range f.rows).foldl (fun r (k : Nat) =>
    let q := rowfRead E g f k r
    let y := rowfResults f (tabGet [] press (f.table % 4)) (rowfValues f q.2)
    let q2 := if f.func = .softmax then (rowfRead E g f k { q.1 with gather := [] }).1 else q.1
    rowfWrite E g f k y.1 (addCounts q2 y.2)) r

/-- `rowf` with an annex: its rows are read and their elements sent, with a mark on each row's last (07 R218). -/
def rowfElems (E : Env) (g : Tab (BitVec 32)) (f : RowfF) (r : Run) : Run × List AnnexElem :=
  (List.range f.rows).foldl (fun (a : Run × List AnnexElem) k =>
    let q := rowfRead E g f k a.1
    let vs := rowfValues f q.2
    (q.1, a.2 ++ (List.range f.len).map fun i => ⟨fp32Code (vs.getD i vZero), i + 1 == f.len, 0⟩)) (r, [])

/-- The rows of a `rowf` that an annex has answered whole are written (07 R218). -/
def rowfAnswer (E : Env) (g : Tab (BitVec 32)) (f : RowfF) (ann : List Val) (r : Run) : Run :=
  (List.range f.rows).foldl (fun r k => rowfWrite E g f k ((ann.drop (k * f.len)).take f.len) r) r

/-! `ewa` (05 R145 to R147, 06 R181). -/

/-- One element operation of 05 R145 and R146, exact and rounded once. The manual names the saturation of add, subtract and multiply alone: the absolute value and the
negation of −2^31, which have no INT32 of their own, become 2^31 − 1 and are counted nowhere (DESIGN CHOICE, log 84). -/
def ewaOp (int : Bool) (code : Nat) (a b : Val) : Val :=
  let fin (v : Val) : Val := if int then vOfInt (satInt32 (vToInt v)) else rtzFp32 v
  match code with
  | 0 => if int then fin (vAdd a b) else accAddF a b
  | 1 => if int then fin (vAdd a (vNeg b)) else accAddF a (vNeg b)
  | 2 => fin (vMul a b)
  | 3 =>
    if a = .nan ∨ b = .nan then .nan
    else if vCmp a b = 0 then (match a, b with | .fin na m e, .fin nb _ _ => .fin (na && nb) m e | _, _ => a)
    else if vCmp a b > 0 then fin a else fin b
  | 4 =>
    if a = .nan ∨ b = .nan then .nan
    else if vCmp a b = 0 then (match a, b with | .fin na m e, .fin nb _ _ => .fin (na || nb) m e | _, _ => a)
    else if vCmp a b < 0 then fin a else fin b
  | 5 => fin (vAbs a)
  | 6 => fin (vNeg a)
  | _ => fin a

/-- The events of one element operation (05 R146, 03 R78). A NaN made of operands that are no NaN, as inf − inf or inf × 0, counts as R78 counts it in a chain; R146 names
only saturations and range events for `ewa` (DESIGN CHOICE, log 84). -/
def ewaCounts (int : Bool) (code : Nat) (a b : Val) : Counts :=
  let exact : Val := match code with
    | 0 => vAdd a b
    | 1 => vAdd a (vNeg b)
    | 2 => vMul a b
    | _ => vZero
  if int then (if satInt32 (vToInt exact) = vToInt exact then countsZero else ⟨0, 0, 1, 0⟩)
  else match exact with
    | .nan => if a = .nan ∨ b = .nan then countsZero else ⟨1, 0, 0, 0⟩
    | .fin _ m e => if beyondFp32 m e then ⟨0, 1, 0, 0⟩ else countsZero
    | .inf _ => countsZero

/-- The fields of `ewa`. -/
structure EwaF where
  gang    : Nat
  nops    : Nat
  bsrc    : Bool
  fmtA    : Fmt
  fmtO    : Fmt
  ops     : Nat
  opb     : Nat
  aLine   : Nat
  lines   : Nat
  iter    : Nat
  aStride : Int
  oReg    : Nat
  oOff    : Nat
  oStride : Int
  deriving DecidableEq, Repr

/-- Read the fields of 06 R181. -/
def ewaFields (w : OpWord) : EwaF where
  gang := fld w 23 20
  nops := fld w 25 24 + 1
  bsrc := fld w 26 26 == 1
  fmtA := fmtFld w 35 32
  fmtO := fmtFld w 39 36
  ops := fld w 55 40
  opb := fld w 71 56
  aLine := fld w 81 72
  lines := fld w 95 82 + 1
  iter := fld w 111 96
  aStride := sfld w 122 112
  oReg := fld w 126 123
  oOff := fld w 142 127
  oStride := sfld w 162 143

/-- A g register scalar of `ewa`: an FP32 or INT32 bit pattern (05 R145). -/
def ewaScalar (g : Tab (BitVec 32)) (int : Bool) (reg : Nat) : Val :=
  decodeFmt (if int then .int32 else .fp32) (tabGet 0 g reg).toNat

/-- Elements in one 128 B shelf line (05 R147). -/
def lineElems (f : Fmt) : Nat := match fmtBits f with | 32 => 32 | 16 => 64 | 4 => 256 | _ => 128

/-- The operations applied to one element in the order named: the result and its events. -/
def ewaElem (g : Tab (BitVec 32)) (f : EwaF) (a b0 : Val) : Val × Counts :=
  let int := fmtIsInt f.fmtA
  (List.range f.nops).foldl (fun (x : Val × Counts) k =>
    let code := f.ops / 2 ^ (4 * k) % 16
    let b := if k = 0 && !f.bsrc then b0 else ewaScalar g int (f.opb / 2 ^ (4 * k) % 16)
    (ewaOp int code x.1 b, countsAdd x.2 (ewaCounts int code x.1 b))) (a, countsZero)

/-- The check that an iteration of `ewa` fails (05 R157): the manual checks every step of every op and gives no residue rule for an element operation; a defect whose products
carry an error is found by the product check of its line (log 58). `els` are the elements by mould and cell position; one with a NaN or an infinity on its path is not checked. -/
def ewaMismatch (E : Env) (f : EwaF) (els : List (Nat × Nat × Bool)) : Option Mismatch :=
  firstFound (E.mould.defects.filter fun d => (gangUnits f.gang).contains d.mould) fun d =>
    let k := defectLine E.mould d
    let there (row col : Nat) : Bool := if d.isRow then row == k || decide (128 ≤ k) else col == k || decide (32 ≤ k)
    let met (p : Nat → Nat → Bool) : Bool := els.any fun x => x.1 == d.mould && x.2.2 && there (x.2.1 / 32) (x.2.1 % 32) && p (x.2.1 / 32) (x.2.1 % 32)
    defectFound E.mould false true 1 1 (fun err _ l => err % 4095 != 0 && met fun r _ => r == l) (fun err _ c => err % 4095 != 0 && met fun _ n => n == c) d

/-- One iteration of `ewa`: LINES lines of each mould's shelf, element e against the cell at mould-layout position e (05 R145, log 14);
the moulds' results follow one another in position order. `ewa` names no format for b: of a cell that holds a 4-bit pair, b is value 0, the one of row 2r (DESIGN CHOICE,
log 14). -/
def ewaIter (E : Env) (g : Tab (BitVec 32)) (f : EwaF) (r : Run) (i : Nat) : Run :=
  match r.fault with
  | some _ => r
  | none =>
    let per := lineElems f.fmtA
    let q := (gangUnits f.gang).foldl (fun (a : Run × List Val × Counts × List (Nat × Nat × Bool)) m =>
      (List.range f.lines).foldl (fun (a : Run × List Val × Counts × List (Nat × Nat × Bool)) k =>
        let l := shelfLine E 0 i a.1 m (lineAdd (f.aLine + k) ((i : Int) * f.aStride))
        let xs := (List.range per).map fun e =>
          let pos := (k * per + e) % 4096
          let v := decodeFmt f.fmtA (elemCode f.fmtA l.2 e)
          let b := tabGet vZero l.1.cells (cellKey m (tabGet 0 l.1.act m) (pos / 32) (pos % 32) 0)
          let y := ewaElem g f v b
          (y, (m, pos, vIsFin v && (f.bsrc || vIsFin b) && vIsFin y.1))
        (l.1, a.2.1 ++ xs.map (·.1.1), xs.foldl (fun c x => countsAdd c x.1.2) a.2.2.1, a.2.2.2 ++ xs.map (·.2))) a) (r, [], countsZero, [])
    let out := addrAdd (opAddr g f.oReg f.oOff 64) ((i : Int) * f.oStride * 64)
    opWrite E 1 i (noteMismatch (addCounts q.1 q.2.2.1) i (ewaMismatch E f q.2.2.2)) out (packRow f.fmtO (q.2.1.map fun v => (convert f.fmtO v).1))

/-! `stat` and `resc` (06 R183). -/

/-- The fields of `stat` and `resc`. -/
structure DirectF where
  mode   : Nat
  k      : Nat
  resc   : Bool
  fmtI   : Fmt
  byMag  : Bool
  fmtO   : Fmt
  len    : Nat
  rows   : Nat
  ibase  : Nat
  ipt    : Nat
  opt    : Nat
  iReg   : Nat
  iOff   : Nat
  iPitch : Int
  oReg   : Nat
  oOff   : Nat
  oPitch : Int
  pt     : Nat
  deriving DecidableEq, Repr

/-- Read the fields of 06 R183. -/
def directFields (w : OpWord) : DirectF where
  mode := fld w 23 20
  k := fld w 27 24 + 1
  resc := fld w 24 24 == 1
  fmtI := fmtFld w 31 28
  byMag := fld w 32 32 == 1
  fmtO := fmtFld w 35 32
  len := fld w 67 36
  rows := fld w 83 68
  ibase := fld w 115 84
  ipt := fld w 95 84
  opt := fld w 107 96
  iReg := fld w 119 116
  iOff := fld w 135 120
  iPitch := sfld w 155 136
  oReg := fld w 159 156
  oOff := fld w 175 160
  oPitch := sfld w 195 176
  pt := fld w 207 196

/-- Read input row `k` of a direct-input op. -/
def directRow (E : Env) (g : Tab (BitVec 32)) (f : DirectF) (r : Run) (k n : Nat) : Run × List Byte :=
  opRead E 0 0 r (addrAdd (opAddr g f.iReg f.iOff 64) ((k : Int) * f.iPitch * 64)) n

/-- Output address of row `k`. -/
def directOut (g : Tab (BitVec 32)) (f : DirectF) (k : Nat) : Nat :=
  addrAdd (opAddr g f.oReg f.oOff 64) ((k : Int) * f.oPitch * 64)

/-- The records of a row in a ranking mode (04 R121, R122, R123). -/
def statRanks (f : DirectF) (bs : List Byte) : List Rank :=
  if f.mode = 4 then (List.range f.len).map fun i =>
    let w := leAt bs (8 * i) 4
    ⟨decodeFmt f.fmtI w, leAt bs (8 * i + 4) 4, w⟩
  else (List.range f.len).map fun i =>
    let v := decodeFmt f.fmtI (elemCode f.fmtI bs i)
    ⟨v, (f.ibase + i) % 2 ^ 32, rankWord f.fmtI v⟩

/-- One row of `stat`: a maximum joins the point's statistics, or k records are written. -/
def statRow (E : Env) (g : Tab (BitVec 32)) (f : DirectF) (r : Run) (k : Nat) : Run :=
  let q := directRow E g f r k (if f.mode = 4 then 8 * f.len else rowBytes f.fmtI f.len)
  match q.1.fault with
  | some _ => q.1
  | none =>
    if f.mode ≤ 1 then
      match pointOf E f.pt with
      | some p => modStat q.1 f.pt fun s => (List.range f.len).foldl (fun s i =>
          observeNormal p i (rtzFp32 (decodeFmt f.fmtI (elemCode f.fmtI q.2 i))) s) s
      | none => q.1
    else
      let byMag := if f.mode = 4 then f.byMag else f.mode == 3
      opWrite E 1 0 q.1 (directOut g f k) (rankBytes (topK (fmtIsInt f.fmtI) byMag f.k (statRanks f q.2)))

/-- `stat` (06 R183). -/
def runStat (E : Env) (g : Tab (BitVec 32)) (f : DirectF) (r : Run) : Run := (List.range f.rows).foldl (statRow E g f) r

/-- One row of `resc` mode 0x0: dequantised with sx[i] and z, converted to FMT_O (04 R101, 06 R183). For a point in beater mode, whose elements were written with SCALE_B
whatever their channel, the scale of the point is SCALE_B (DESIGN CHOICE, log 85). -/
def dequantRow (E : Env) (g : Tab (BitVec 32)) (f : DirectF) (r : Run) (k : Nat) : Run :=
  let q := directRow E g f r k (rowBytes f.fmtI f.len)
  match q.1.fault with
  | some _ => q.1
  | none =>
    let sc (i : Nat) : Nat := match pointOf E f.ipt with
      | some p => if p.beater then p.scaleB else p.scales.getD (if p.grain then i else 0) 0
      | none => swOne
    if (List.range f.len).any fun i => swInvalid (sc i) then runFault q.1 0x308 0 0
    else opWrite E 1 0 q.1 (directOut g f k) (packRow f.fmtO ((List.range f.len).map fun i =>
      (convert f.fmtO (dequant f.fmtI (elemCode f.fmtI q.2 i) (sc i) (pointZero E f.ipt f.fmtI))).1))

/-- The rows of `resc` modes 0x1 and 0x2 as the sizer takes them: element i of a row is channel i (06 R183, 04 R574). -/
def rescRows (E : Env) (g : Tab (BitVec 32)) (f : DirectF) (r : Run) : Run × List OutRow :=
  (List.range f.rows).foldl (fun (a : Run × List OutRow) k =>
    let q := directRow E g f a.1 k (rowBytes f.fmtI f.len)
    (q.1, a.2 ++ [{ addr := directOut g f k, iter := 0, elems := (List.range f.len).map fun i =>
      { n := i, tab := i, col := i, key := k, acc := decodeFmt f.fmtI (elemCode f.fmtI q.2 i), part := none } }])) (r, [])

/-- `resc` (06 R183). -/
def runResc (E : Env) (g : Tab (BitVec 32)) (f : DirectF) (r : Run) : Run :=
  if f.mode = 0 then (List.range f.rows).foldl (dequantRow E g f) r
  else
    let q := rescRows E g f r
    let opt := if f.mode = 1 then f.opt else 4095
    sizerRows { E with copy := none } ⟨1, fmtIsInt f.fmtI, f.resc, f.ipt, opt, q.1.scale, none, some f.fmtO⟩ q.1 q.2

end Sys2Proof.Machine
end

