-- ==== Sys2Proof/Machine/Mover.lean ====
section
/-!
DEFINITION. The mover, the load path and the scalar slot: `move` in its eight modes (06 R184, 08 R224, R235, R244, R245), the regions
of `halo` (06 R185), the tiles of `lds` and `relay` (06 R179, R186), and the scalar operations (06 R170).
-/
namespace Sys2Proof.Machine

/-- The fields of `move` (06 R184). -/
structure MoveF where
  mode   : Nat
  fmt    : Fmt
  sReg   : Nat
  sOff   : Nat
  sPitch : Int
  dReg   : Nat
  dOff   : Nat
  dPitch : Int
  rows   : Nat
  rb     : Nat
  ring   : Nat
  mould  : Nat
  pos    : Nat
  edge   : Bool
  deriving DecidableEq, Repr

/-- Read the fields of 06 R184. -/
def moveFields (w : OpWord) : MoveF where
  mode := fld w 23 20
  fmt := fmtFld w 27 24
  sReg := fld w 31 28
  sOff := fld w 47 32
  sPitch := sfld w 67 48
  dReg := fld w 71 68
  dOff := fld w 87 72
  dPitch := sfld w 107 88
  rows := fld w 123 108
  rb := fld w 137 124
  ring := fld w 153 144
  mould := fld w 155 154
  pos := fld w 157 156
  edge := fld w 158 158 == 1

/-- The address of source row `k`. -/
def moveSrc (g : Tab (BitVec 32)) (f : MoveF) (k : Nat) : Nat :=
  addrAdd (opAddr g f.sReg f.sOff 64) ((k : Int) * f.sPitch * 64)

/-- The address of destination row `k`. -/
def moveDst (g : Tab (BitVec 32)) (f : MoveF) (k : Nat) : Nat :=
  addrAdd (opAddr g f.dReg f.dOff 64) ((k : Int) * f.dPitch * 64)

/-- Read source row `k`. -/
def moveRead (E : Env) (g : Tab (BitVec 32)) (f : MoveF) (k : Nat) (r : Run) : Run × List Byte := opRead E 0 0 r (moveSrc g f k) (f.rb * 64)

/-- A byte that the manual leaves undefined: the run's next free value (log 3). -/
def freeByteAt (r : Run) (k : Nat) : Byte := Config.freeByte (r.free + k)

/-- The bytes of group `g` of a skewed layout (05 R138, 08 R224): lane e holds step g − e, and a lane that holds no step, or lies beyond
the row, is undefined. -/
def skewGroup (f : MoveF) (r : Run) (rows : List (List Byte)) (lanes g : Nat) : List Byte :=
  let w := fmtBits f.fmt
  let holds (e : Nat) : Bool := decide (e < lanes) && decide (e ≤ g) && decide (g - e < rows.length) &&
    (if w = 4 then decide (e < f.rb * 64) else decide ((e + 1) * w ≤ f.rb * 512))
  let row (e : Nat) : List Byte := rows.getD (g - e) []
  if w = 6 then
    packRow .e3m2 ((List.range 128).map fun e =>
      if holds e then elemCode f.fmt (row e) e else (freeByteAt r e).toNat % 64) ++
    (List.range 32).map fun k => freeByteAt r (128 + k)
  else
    let lam := if w = 4 then 1 else w / 8
    forList 128 fun e => (List.range lam).map fun k =>
      if holds e then (row e).getD (e * lam + k) 0 else freeByteAt r (e * lam + k)

/-- The lanes of the edge that mode 0x1 lays rows out for. -/
def edgeLanes (f : MoveF) : Nat := if f.edge then 32 else 128

/-- Mode 0x1: group `g` of the skewed layout of the rows goes to MOULD's shelf, counted from line D_OFF (08 R224). -/
def moveSkew (E : Env) (f : MoveF) (r : Run) (rows : List (List Byte)) (g : Nat) : Run :=
  let lam := groupLines f.fmt
  let off := (if f.edge then 34 else 130) * f.pos
  let bs := skewGroup f r rows (edgeLanes f) g
  let a := (List.range lam).foldl (fun a k => shelfWrite E 1 0 a f.mould (f.dOff + lam * (g + off) + k) ((bs.drop (128 * k)).take 128)) r
  { a with free := a.free + 512 }

/-- Mode 0x2: row `j` of the destination holds element (i, j) of the block for each i (08 R235). -/
def moveTranspose (E : Env) (g : Tab (BitVec 32)) (f : MoveF) (r : Run) (rows : List (List Byte)) (j : Nat) : Run :=
  let e := fmtBits f.fmt / 8
  opWrite E 1 0 r (moveDst g f j) (((List.range f.rows).map fun i => ((rows.getD i []).drop (j * e)).take e).flatten)

/-- A ring of the room's hall (08 R243). -/
def ringOf (st : Store) (room ring : Nat) : Ring := tabGet ringZero st.rings ((room / 16) * 1024 + ring)

/-- Store a ring descriptor. -/
def setRing (st : Store) (room ring : Nat) (x : Ring) : Store :=
  { st with rings := tabPut ringZero st.rings ((room / 16) * 1024 + ring) x }

/-- The address of ring offset `o`. -/
def ringAddr (x : Ring) (o : Nat) : Nat := x.base + o % (x.size * 512)

/-- Would an append of n bytes overrun (08 R245)? -/
def appendOverruns (x : Ring) (n : Nat) : Bool := decide ((x.tail + 2 ^ 32 - x.head) % 2 ^ 32 + n > x.size * 512)

/-- Would a take of n bytes overrun? -/
def takeOverruns (x : Ring) (n : Nat) : Bool := decide (n > (x.tail + 2 ^ 32 - x.head) % 2 ^ 32)

/-- The pieces, as address and length, into which the ring's end cuts `n` bytes from ring offset `o`. -/
def ringPieces (x : Ring) : Nat → Nat → Nat → List (Nat × Nat)
  | 0, _, _ => []
  | k + 1, o, n =>
    if n = 0 then []
    else
      let l := min n (x.size * 512 - o % (x.size * 512))
      (ringAddr x o, l) :: ringPieces x k (o + l) (n - l)

/-- Does a write by `room` at `a` wait for service: a cellar lane or another room's port (08 R228, R230)? -/
def writeWaits (room a : Nat) : Bool := saLevel a == 0 || saEngineRoom a != room

/-- Write pieces of a byte string in turn. -/
def writePieces (E : Env) (tail : Option (Nat × Nat)) : List (Nat × Nat) → List Byte → Run → Run
  | [], _, r => r
  | (a, l) :: ps, bs, r => writePieces E tail ps (bs.drop l) (opWriteT E 256 0 tail r a (bs.take l))

/-- Mode 0x5: the bytes go to the tail of ring `ring` of the hall of `room`, wrapping at its end, and TAIL advances when the last has landed (08 R244). -/
def moveAppend (E : Env) (room ring : Nat) (r : Run) (bs : List Byte) : Run :=
  match r.fault with
  | some _ => r
  | none =>
    let x := ringOf r.st room ring
    let key := (room / 16) * 1024 + ring
    if E.checked && appendOverruns x bs.length then runFault r 0x307 0 0
    else
      let r' := writePieces E (some (key, bs.length)) (ringPieces x (bs.length / 64 + 1) x.tail bs.length) bs r
      match r'.fault with
      | some _ => r'
      | none => if writeWaits E.room x.base then r' else { r' with st := advanceTail key bs.length r'.st }

/-- Part of a take of `n` bytes from ring `ring` of the hall of `room`: the `l` bytes at `o` behind its head. HEAD advances by `n` when the last part has returned (08 R244). -/
def ringPart (E : Env) (room ring : Nat) (r : Run) (n o l : Nat) : Run × List Byte :=
  match r.fault with
  | some _ => (r, [])
  | none =>
    let x := ringOf r.st room ring
    if o = 0 && E.checked && takeOverruns x n then (runFault r 0x307 0 0, [])
    else
      let head := if o + l < n then none else some ((room / 16) * 1024 + ring, n)
      let q := (ringPieces x (l / 64 + 1) (x.head + o) l).foldl (fun (a : Run × List Byte) p =>
        let t := opReadT E 256 0 head a.1 p.1 p.2
        (t.1, a.2 ++ t.2)) (r, [])
      match q.1.fault with
      | some _ => q
      | none => ({ q.1 with st := returnTake E.room E.op head q.1.st }, q.2)

/-- A take of n bytes in one piece. -/
def ringTake (E : Env) (room ring : Nat) (r : Run) (n : Nat) : Run × List Byte := ringPart E room ring r n 0 n

/-- Mode 0x3: the rows' SW16 values fill table entries from D_OFF (06 R184). -/
def fillScale (scale : Tab (BitVec 16)) (first : Nat) (bs : List Byte) : Tab (BitVec 16) :=
  (List.range (bs.length / 2)).foldl (fun t i => tabPut 0 t (first + i) (BitVec.ofNat 16 (leAt bs (2 * i) 2))) scale

/-- Mode 0x4: the rows fill the vector buffer from byte D_OFF, circularly. -/
def fillVec (vec : Tab Byte) (first : Nat) (bs : List Byte) : Tab Byte :=
  (List.range bs.length).foldl (fun t i => tabPut 0 t ((first + i) % 32768) (bs.getD i 0)) vec

/-- Write row `k` at the destination. -/
def moveWrite (E : Env) (g : Tab (BitVec 32)) (f : MoveF) (k : Nat) (bs : List Byte) (r : Run) : Run := opWrite E 1 0 r (moveDst g f k) bs

/-- The steps of `move` that read: a row each; a zero fill reads nothing. -/
def moveReads (f : MoveF) : Nat := if f.mode = 7 then 0 else f.rows

/-- The work steps of `move` (log 55): a row each; beside them the groups of the skewed layout that come after the last row, and the rows of a transposed block. -/
def moveSteps (f : MoveF) : Nat :=
  max 1 (f.rows + match f.mode with
    | 1 => edgeLanes f - 1
    | 2 => f.rb * 64 / (fmtBits f.fmt / 8)
    | _ => 0)

/-- Step `k` of a `move` (06 R184) with the rows held so far: the run, and the rows held. -/
def moveRow (E : Env) (g : Tab (BitVec 32)) (f : MoveF) (k : Nat) (held : List (List Byte)) (r : Run) : Run × List (List Byte) :=
  let q := moveRead E g f k r
  let ok (x : Run) : Run := match q.1.fault with
    | some _ => q.1
    | none => x
  match f.mode with
  | 0 => (moveWrite E g f k q.2 q.1, [])
  | 1 => if k < f.rows then (moveSkew E f q.1 (held ++ [q.2]) k, held ++ [q.2]) else (moveSkew E f r held k, held)
  | 2 => if k < f.rows then (q.1, held ++ [q.2]) else (moveTranspose E g f r held (k - f.rows), held)
  | 3 => (ok { q.1 with scale := fillScale q.1.scale (f.dOff + k * 32 * f.rb) q.2 }, [])
  | 4 => (ok { q.1 with vec := fillVec q.1.vec (f.dOff + k * 64 * f.rb) q.2 }, [])
  | 5 => if k + 1 < f.rows then (q.1, held ++ [q.2]) else (moveAppend E E.room f.ring q.1 (held ++ [q.2]).flatten, [])
  | 6 =>
    let t := ringPart E E.room f.ring r (f.rows * f.rb * 64) (k * f.rb * 64) (f.rb * 64)
    (moveWrite E g f k t.2 t.1, [])
  | _ => (moveWrite E g f k (List.replicate (f.rb * 64) 0) r, [])

/-- One step of `move`, the one that `fl.pos` says. A rotated copy stands in only for weights that it brings to a shelf to be streamed (04 R114, mode 0x1). -/
def moveStep (E : Env) (f : MoveF) (fl : InFlight) (r : Run) : Run × InFlight :=
  let q := moveRow { E with copy := if f.mode = 1 then E.copy else none } fl.regs f fl.pos fl.part.rows { r with gather := fl.part.gather }
  (q.1, { fl with pos := fl.pos + 1, part := { partNone with rows := q.2, gather := q.1.gather } })

/-! `halo` (06 R185). -/

/-- The fields of `halo`. -/
structure HaloF where
  recv  : Bool
  peer  : Nat
  tag   : Nat
  lReg  : Nat
  lOff  : Nat
  pitch : Int
  rows  : Nat
  rb    : Nat
  deriving DecidableEq, Repr

/-- Read the fields of 06 R185. -/
def haloFields (w : OpWord) : HaloF where
  recv := fld w 23 20 == 1
  peer := fld w 31 24
  tag := fld w 35 32
  lReg := fld w 39 36
  lOff := fld w 55 40
  pitch := sfld w 75 56
  rows := fld w 91 76
  rb := fld w 105 92

/-- Read the local region of a send. -/
def haloRead (E : Env) (base : Nat) (f : HaloF) (r : Run) : Run × List Byte :=
  (List.range f.rows).foldl (fun (a : Run × List Byte) (k : Nat) =>
    let q := opRead E 0 0 a.1 (addrAdd base ((k : Int) * f.pitch * 64)) (f.rb * 64)
    (q.1, a.2 ++ q.2)) (r, [])

/-- Write the local region of a receive. -/
def haloWrite (E : Env) (base : Nat) (pitch : Int) (rows rb : Nat) (bs : List Byte) (r : Run) : Run :=
  (List.range rows).foldl (fun r (k : Nat) =>
    opWrite E 0 0 r (addrAdd base ((k : Int) * pitch * 64)) ((bs.drop (k * rb * 64)).take (rb * 64))) r

/-! `lds` and `relay` (06 R179, R186). -/

/-- The fields of `lds`. -/
structure LdsF where
  gang  : Nat
  seeds : Bool
  relay : Bool
  half  : Bool
  fmt   : Fmt
  tReg  : Nat
  tOff  : Nat
  deriving DecidableEq, Repr

/-- Read the fields of 06 R179. -/
def ldsFields (w : OpWord) : LdsF where
  gang := fld w 23 20
  seeds := fld w 24 24 == 1
  relay := fld w 25 25 == 1
  half := fld w 26 26 == 1
  fmt := fmtFld w 31 28
  tReg := fld w 35 32
  tOff := fld w 51 36

/-- Is the tile of `lds` in paired form: a 4-bit tile with HALF 0 (06 R179)? -/
def ldsPaired (f : LdsF) : Bool := fmtBits f.fmt == 4 && !f.half

/-- `lds` from the store: the tile becomes the gang's shadow set (05 R134). -/
def runLds (E : Env) (g : Tab (BitVec 32)) (f : LdsF) (r : Run) : Run :=
  let q := opRead E 0 0 r (opAddr g f.tReg f.tOff 512) (gangTileBytes f.gang f.fmt (ldsPaired f))
  match q.1.fault with
  | some _ => q.1
  | none => { q.1 with cells := loadGang q.1.cells q.1.act f.gang f.fmt (ldsPaired f) q.2 }

/-- The fields of `relay`. -/
structure RelayF where
  forward : Bool
  fmt     : Fmt
  shape   : Nat
  tiles   : Nat
  tReg    : Nat
  tOff    : Nat
  tStride : Int
  half    : Bool
  deriving DecidableEq, Repr

/-- Read the fields of 06 R186. -/
def relayFields (w : OpWord) : RelayF where
  forward := fld w 23 20 == 1
  fmt := fmtFld w 27 24
  shape := fld w 31 28
  tiles := fld w 47 32
  tReg := fld w 51 48
  tOff := fld w 67 52
  tStride := sfld w 87 68
  half := fld w 88 88 == 1

/-- Bytes of a relayed tile. -/
def relayBytes (f : RelayF) : Nat := gangTileBytes f.shape f.fmt (fmtBits f.fmt == 4 && !f.half)

/-- Bytes of a word of the relay path (09 R263). -/
def relayWord : Nat := 1024

/-- The words of a tile. -/
def tileWords (n : Nat) : Nat := (n + relayWord - 1) / relayWord

/-- Word `k` of the tiles that `relay` mode 0x0 reads, counted through them. -/
def wordToRelay (E : Env) (g : Tab (BitVec 32)) (f : RelayF) (k : Nat) (r : Run) : Run × List Byte :=
  let n := relayBytes f
  let o := k % tileWords n * relayWord
  opRead E 0 0 r (addrAdd (opAddr g f.tReg f.tOff 512) (((k / tileWords n : Nat) : Int) * f.tStride * 512 + (o : Nat))) (min relayWord (n - o))

/-! The scalar slot (06 R170). -/

/-- The scalar slot's fields. -/
structure SlotF where
  sopc : Nat
  d    : Nat
  a    : Nat
  imm  : Nat
  deriving DecidableEq, Repr

/-- Read the scalar slot. -/
def slotFields (w : OpWord) : SlotF where
  sopc := fld w 227 224
  d := fld w 231 228
  a := fld w 235 232
  imm := fld w 255 236

/-- IMM sign-extended to 32 bits. -/
def immSext (imm : Nat) : BitVec 32 := BitVec.ofInt 32 (signedOf 20 imm)

/-- Does the slot make a narrow access? -/
def slotNarrow (f : SlotF) : Bool := f.sopc == 10 || f.sopc == 11

/-- The byte offset of a narrow access: g[A] + 4 × IMM, IMM sign-extended, modulo 2^32 (06 R170, R171). -/
def slotOffset (g : Tab (BitVec 32)) (f : SlotF) : Nat := (tabGet 0 g f.a + 4 * immSext f.imm).toNat

/-- The result of an arithmetic slot; none where the slot writes no register (06 R170). -/
def slotValue (g : Tab (BitVec 32)) (f : SlotF) : Option (BitVec 32) :=
  let a := tabGet 0 g f.a
  let b := tabGet 0 g (f.imm % 16)
  match f.sopc with
  | 1 => some (a + immSext f.imm)
  | 2 => some (a + b)
  | 3 => some (a - b)
  | 4 => some (a * immSext f.imm)
  | 5 => some (a <<< (f.imm % 32))
  | 6 => some (a >>> (f.imm % 32))
  | 7 => some (a &&& BitVec.ofNat 32 f.imm)
  | 8 => some (BitVec.ofNat 32 f.imm <<< 12)
  | 9 => some (if a.toNat ≤ b.toNat then a else b)
  | _ => none

/-- Write a scalar register: g0 discards the write (06 R160). -/
def setG (g : Tab (BitVec 32)) (d : Nat) (v : BitVec 32) : Tab (BitVec 32) := if d = 0 then g else tabPut 0 g d v

/-- Is the offset one that a narrow access may reach (06 R171)? -/
def narrowOk (o : Nat) : Bool := decide (o < 4194304) && decide (o % 4 = 0)

end Sys2Proof.Machine
end

