-- ==== Sys2Proof/Machine/StateHost.lean ====
section
/-!
DEFINITION. Plain data of the host side: the host port and the porch (19_ports_integration R529 to R539), mailboxes and staged items
(10_steward_mailboxes), contexts, queues, fences and tasks (11_contexts_queues_fences), the identity inputs (19 R528), interrupts
(20 R564, R565) and sideband pins (19 R546 to R553).
-/
namespace Sys2Proof.Machine

/-- What an outstanding host-port request of the engine is for (19 R532): a mailbox's request fetch or response write (10 R300, R302), `bytes` of a mailbox's STORE_COPY
to the host (10 R314), a queue's descriptor fetch (11 R334), a task's completion record (11 R342), a porch fill shared or for ownership and a porch
write-back (19 R537), or nothing any more (its answer is discarded). -/
inductive Purpose where
  | reqFetch (m : Nat)
  | rspWrite (m : Nat)
  | copyWrite (m bytes : Nat)
  | descFetch (q : Nat)
  | recordWrite (task : Nat)
  | fill (own : Bool)
  | writeBack
  | dead
  deriving DecidableEq, Repr

/-- An outstanding request (19 R534): its tag, purpose, host address and the tick of its issue. -/
structure HostReq where
  tag     : Nat
  purpose : Purpose
  addr    : Nat
  issued  : Nat
  deriving DecidableEq, Repr

/-- A message the engine sends (19 R532): virtual network, operation, tag, STATUS, RESULT, address, INLINE or data bytes, and the data
flits. -/
structure HostMsg where
  vn     : Nat
  op     : Nat
  tag    : Nat
  status : Nat
  result : Nat
  addr   : Nat
  len    : Nat
  data   : List Byte
  deriving DecidableEq, Repr

/-- An EVT that waits for credit (19 R535, 20 R566); its BEAT is filled in when it is sent. -/
structure Evt where
  type  : Nat
  index : Nat
  ctx   : Nat
  seq   : Nat
  task  : Nat
  src   : Nat
  deriving DecidableEq, Repr

/-- A porch line (19 R537), modified or shared. The list of lines runs from the least to the most recently used. -/
structure PorchLine where
  addr     : Nat
  modified : Bool
  data     : List Byte
  deriving DecidableEq, Repr

/-- An engine write to a porch line that waits for its line (19 R537, R539): status line of a queue or mirror line of a fence. -/
structure PorchWrite where
  addr   : Nat
  offset : Nat
  data   : List Byte
  deriving DecidableEq, Repr

/-- The host port and the porch. `credit` is the flit credit of each virtual network (19 R530), `late` the tags timed out and not yet
released (19 R534) with the tick from which each may be used again, `txq` the messages that wait for credit, `waitq` the requests that wait for a tag. -/
structure HostPort where
  timeout  : Nat
  timeouts : Nat
  lateRsp  : Nat
  ferr     : Nat
  out      : List HostReq
  late     : List (Nat × Nat)
  credit   : Tab Nat
  txq      : List HostMsg
  evts     : List Evt
  sent     : List HostMsg
  porch    : List PorchLine
  held     : List PorchWrite
  waitq    : List (Purpose × HostMsg)
  deriving DecidableEq, Repr

/-- The host port at reset (19 R536, R530). -/
def hostReset : HostPort := ⟨0x3E8, 0, 0, 0, [], [], [], [], [], [], [], [], []⟩

/-- A mailbox (10 R293 to R306). `st` is MBX_STATE, `rsp` the response that is being written,
`rspAcked` that the host port has acknowledged it, the `ex` fields the ring, context and binding that were in effect when the command began, `order` the place of its word
among all words taken (10 R311), and `awaits` marks a command whose response comes with a later event. -/
structure Mailbox where
  reqBase   : BitVec 64
  rspBase   : BitVec 64
  sizeLog2  : Nat
  notifyEn  : Bool
  enable    : Bool
  tail      : BitVec 32
  reqHead   : BitVec 32
  rspTail   : BitVec 32
  rspHead   : BitVec 32
  histValid : Bool
  last      : BitVec 32
  hist      : List (BitVec 32 × MsgWord)
  st        : Nat
  binding   : Nat
  haltCause : Nat
  boundCtx  : Nat
  fetching  : Bool
  arrived   : Option MsgWord
  executing : Option MsgWord
  exRspBase : BitVec 64
  exSize    : Nat
  exCtx     : Nat
  exBinding : Nat
  order     : Nat
  rsp       : Option MsgWord
  rspNotify : Bool
  rspAcked  : Bool
  awaits    : Bool
  deriving DecidableEq, Repr

/-- A mailbox at reset (10 R293 to R298). -/
def mboxZero : Mailbox :=
  ⟨0, 0, 4, true, false, 0, 0, 0, 0, false, 0, [], 0, 0, 0, 0, false, none, none, 0, 4, 0, 0, 0, none, false, false, false⟩

/-- A staged item (10 R317, R318): its mailbox, request word, beat A, the route table that a FABRIC_SET has read (13 R390), and whether a boundary
has come at which it commits. -/
structure Staged where
  mbox  : Nat
  word  : MsgWord
  a     : Nat
  table : List (BitVec 32)
  ready : Bool
  deriving DecidableEq, Repr

/-- A STORE_COPY whose host writes are outstanding (10 R311, R314): its mailbox, the writes not yet answered, the bytes acknowledged, whether one failed, and the store
line at which the copy stopped. -/
structure HostCopy where
  mbox   : Nat
  left   : Nat
  done   : Nat
  failed : Bool
  line   : Option Nat
  deriving DecidableEq, Repr

/-- A close of windows that is answered when the accesses admitted before it have landed or returned their data (08 R242): its mailbox, the hatch channels, the accesses of rooms and
the narrow accesses, by room and place, that were in flight, the granules that go to clearing then (GRANULE_FREE, IMAGE_UNLOAD), and what stands again where a takeover undoes it (10
R308): the windows that it closed, the image that it unloads and the image's ring descriptors. -/
structure Closing where
  mbox     : Nat
  hatch    : List Nat
  lanes    : List LaneUnit
  remote   : List RemoteAcc
  narrow   : List (Nat × Nat)
  granules : List Nat
  closed   : Tab Window
  image    : Option Image
  rings    : Tab Ring
  deriving DecidableEq, Repr

/-- An IMAGE_LOAD that waits for granules in clearing (10 R314): its mailbox, the image's bytes, and the granules claimed so far. -/
structure ImgLoad where
  mbox     : Nat
  bytes    : List Byte
  granules : List Nat
  deriving DecidableEq, Repr

/-- A context (11 R324 to R329). `state` is the code of R324; `destroyer` the mailbox whose CTX_DESTROY is in progress, `was` the state it found, `freed` says that the
images, queues and fences are freed, and `granules` are those that clear for it (R347). -/
structure Ctx where
  state      : Nat
  apBase     : Nat
  apLimit    : Nat
  fault      : Nat
  faultQueue : Nat
  faultAddr  : Nat
  destroyer  : Option Nat
  was        : Nat
  freed      : Bool
  granules   : List Nat
  deriving DecidableEq, Repr

/-- A context number that is not live (11 R324). -/
def ctxZero : Ctx := ⟨3, 0, 0, 0, 0xFFFF, 0, none, 0, false, []⟩

/-- A work item of a queue: a task, or a fence action (11 R333). -/
inductive Work where
  | task (num : Nat)
  | fence (fence action : Nat)
  deriving DecidableEq, Repr

/-- A queue (11 R330 to R335). `closing` is the mailbox whose QUEUE_DESTROY waits for the queue's last records (R342). -/
structure Queue where
  id        : Nat
  ctx       : Nat
  door      : Nat
  status    : Nat
  cplRing   : Nat
  cplLog2   : Nat
  hopLimit  : Nat
  timeout   : Nat
  nextDesc  : Nat
  hops      : Nat
  posted    : Nat
  cplHead   : Nat
  consumed  : Nat
  cplTail   : Nat
  state     : Nat
  fault     : Nat
  faultAddr : Nat
  fetching  : Option Nat
  arrived   : Option MsgWord
  issued    : Nat
  work      : List Work
  closing   : Option Nat
  deriving DecidableEq, Repr

/-- A fence (11 R336, R337): its context, none while it is free. -/
structure Fence where
  ctx      : Option Nat
  signalled : Bool
  mirror   : Nat
  gen      : Nat
  deriving DecidableEq, Repr

/-- A free fence. -/
def fenceZero : Fence := ⟨none, false, 0, 0⟩

/-- The states of 11 R339. -/
inductive TState where
  | queued | eligible | launched | completed | aborted | refused
  deriving DecidableEq, Repr

/-- Where the completion record of a final task stands (11 R342). -/
inductive RecState where
  | none | toWrite | writing | acked | written | dropped
  deriving DecidableEq, Repr

/-- A member engine of a multi-engine task as another member knows it (13 R400 to R411). -/
structure MemberSt where
  member : Nat
  addr   : Nat
  ready  : Bool
  ended  : Bool
  halted : Bool
  deriving DecidableEq, Repr

/-- A task (11 R339 to R346). `halting` marks an abort in progress, `byDesc` marks one taken from a descriptor, `launch` is the fabric beat L; `fault0` is the fault of the first requeue (11 R344); `launchUp`, `endBeat`, `eligBeat` and `haltBeat` count boundaries since the time unit started (15
R447); `repair` marks a task that a repair aborts and `parked` one that waits for
the repair's end to be requeued (17 R488, R498); `abortBy` the mailboxes whose TASK_ABORT waits for it, `wrote` the
ranges this run has written (02 R60), `cert` the certified count of the run (R52, R54), `gtask` the task's number in the fabric (13 R405) and `round` its round (R406). -/
structure Task where
  num       : Nat
  ctx       : Nat
  image     : Nat
  queue     : Nat
  byDesc    : Bool
  seq       : BitVec 32
  notify    : Bool
  args      : List (BitVec 32)
  checked   : Bool
  waitFence : Option Nat
  sigFence  : Option Nat
  waitDone  : Bool
  state     : TState
  eligBeat  : Nat
  order     : Nat
  launch    : Option Nat
  launchUp  : Nat
  endBeat   : Nat
  v15       : Bool
  restarted : Bool
  requeues  : Nat
  fault     : Option FaultRec
  fault0    : Option FaultRec
  others    : Nat
  modeTrans : Bool
  qsat      : Bool
  qlost     : Bool
  abortAfter : Bool
  status    : Nat
  halting   : Bool
  haltBeat  : Nat
  repair    : Bool
  parked    : Bool
  abortBy   : List Nat
  rooms     : List Nat
  ended     : List Nat
  counts    : Counts
  points    : List PointL
  wrote     : List (Nat × Nat)
  cert      : Nat
  record    : RecState
  member    : Nat
  gtask     : BitVec 64
  round     : Nat
  members   : List MemberSt
  launchAt  : Option Nat
  deriving DecidableEq, Repr

/-- A sideband pin's settings (19 R551) and its hold and pending function (19 R552). -/
structure Pin where
  func  : Nat
  park  : Nat
  edge  : Nat
  filter : Nat
  hold  : Nat
  mask  : Nat
  holdUntil : Option Nat
  deriving DecidableEq, Repr

/-- The sideband multiplexer (19 R546 to R553). `traceQ` holds the trace messages that wait (19 R549), `sentBits` the 8- and 16-byte
messages that pins have sent with the pin, `pulses` counts beat-out pulses, `sending` the messages that pins
are sending: pin, the tick count by `up` at which it ends, bytes. -/
structure Sideband where
  pins      : List Pin
  traceLost : Nat
  level     : BitVec 16
  strap     : BitVec 16
  traceQ    : List (List Byte)
  sentMsgs  : List (Nat × List Byte)
  pulses    : Nat
  sending   : List (Nat × Nat × List Byte)
  wave      : List (Nat × Nat × Nat × Bool)
  deriving DecidableEq, Repr

/-- The pins at reset (19 R550): SB0 beat-out, SB1 time-of-day, SB2 alert with mask 0x19, the others straps; EDGE slow, FILTER 20,
HOLD 1. -/
def pinsReset : List Pin :=
  [⟨2, 0, 0, 20, 1, 0, none⟩, ⟨3, 1, 0, 20, 1, 0, none⟩, ⟨4, 2, 0, 20, 1, 0x19, none⟩] ++
    List.replicate 13 ⟨0, 2, 0, 20, 1, 0, none⟩

/-- The sideband multiplexer at reset. -/
def sidebandReset : Sideband := ⟨pinsReset, 0, 0, 0, [], [], 0, [], []⟩

/-- The steward: engine status of 10 R298, mailboxes, staged items, contexts, queues, fences, images, tasks. `nextTask` is the next TASK
number (11 R339), `elig` counts the tasks that became eligible, `taken` the request words taken; `copies`, `closes` and `loads` are commands under way. -/
structure Steward where
  phase      : Nat
  healthSt   : Nat
  fabricSt   : Nat
  standby    : Bool
  up         : Bool
  mboxes     : Tab Mailbox
  staged     : List Staged
  ctxs       : Tab Ctx
  queues     : List Queue
  fences     : Tab Fence
  images     : List Image
  tasks      : List Task
  nextTask   : Nat
  nextImage  : Nat
  elig       : Nat
  taken      : Nat
  copies     : List HostCopy
  closes     : List Closing
  loads      : List ImgLoad
  serial     : BitVec 64
  keyHash    : BitVec 384
  intStatus  : BitVec 32
  intEnable  : BitVec 32
  deriving DecidableEq, Repr


/-- The steward at reset: mailbox 0 is privileged, nothing else exists. -/
def stewardReset : Steward :=
  ⟨0, 0, 0, false, false, [(0, { mboxZero with binding := 2 })], [], [], [], [], [], [], 0, 0, 0, 0, [], [], [], 0, 0, 0, 0⟩

end Sys2Proof.Machine
end

