-- ==== Sys2Proof/Machine/StateShell.lean ====
section
/-!
DEFINITION. Plain data of the soft shell and the snapshot (12_annexes_hatch_keep): hatch channels, stream ports, the keep and its
writes, and the freeze.
-/
namespace Sys2Proof.Machine

/-- A hatch channel (12 R357): HATCH_SRC, HATCH_DST, COUNT, the fields of HATCH_CTRL and HATCH_STATUS, whether a beat-paced burst
is due, and the length of the burst in flight (R360); `killed` marks one whose channel's context was destroyed, and `ran` a channel that ran then (R365). -/
structure Hatch where
  src      : BitVec 64
  dst      : BitVec 64
  count    : Nat
  ctx      : Nat
  burstLog : Nat
  pace     : Nat
  irqEn    : Bool
  stop     : Bool
  start    : Bool
  pending  : Nat
  err      : Nat
  reqLost  : Bool
  error    : Bool
  done     : Bool
  busy     : Bool
  beatDue  : Bool
  flight   : Nat
  killed   : Bool
  ran      : Bool
  deriving DecidableEq, Repr

/-- A hatch channel at reset: BURST_LOG2 0x6, the rest 0 (12 R357). -/
def hatchZero : Hatch := ⟨0, 0, 0, 0, 6, 0, false, false, false, 0, 0, false, false, false, false, false, 0, false, false⟩

/-- A stream port (12 R355): the task and pipe it serves, the annex slot, hand-overs done, the words still held for the task, and the
beat since which an offered word waits. -/
structure StreamPort where
  task  : Nat
  pipe  : Nat
  slot  : Nat
  done  : Nat
  taken : Nat
  held  : List Byte
  since : Option Nat
  deriving DecidableEq, Repr

/-- An item write of the keep in progress or waiting (12 R369): item code, target slot, payload, the next unit (0 the zeroed header, then
the payload units, last the header), its generation, and the mailbox whose FW_UPDATE waits for it. -/
structure KeepWrite where
  item    : Nat
  slot    : Nat
  payload : List Byte
  unit    : Nat
  gen     : Nat
  mbox    : Option Nat
  deriving DecidableEq, Repr

/-- The keep (12 R366 to R373): its bytes as the engine knows them, the slots whose reads failed, the next unit to read at power-up, the
writes in order of issue, the slot of the running firmware, its version, build and security version, the report of a slot that
failed verification, the rank that the link trims item of each slot holds, and those in the writes of it that are under way (13 R381). -/
structure Keep where
  mem     : Tab Byte
  bad     : List (Nat × Nat)
  rdUnit  : Nat
  writes  : List KeepWrite
  fwSlot  : Nat
  fwVersion : Nat
  fwBuild : Nat
  svn     : Nat
  pendingFw : Bool
  failedSlot : Option Nat
  rankSaved : List (Nat × Nat)
  rankSaving : List Nat
  deriving DecidableEq, Repr

/-- The keep before anything is read (log 20). -/
def keepReset : Keep := ⟨[], [], 0, [], 0, 0, 0, 0, false, none, [], []⟩

/-- The snapshot (12 R374 to R378): the fields of SNAP_STATUS, the freeze beat B, HOLD, the mailbox whose freeze response and those
whose release responses wait, SNAP_REQ, the wait for SNAP_ACK, the boundary of B counted from start-up, and the beat in which the end of the freeze was called for. -/
structure Snap where
  noCapture : Bool
  captured  : Bool
  frozen    : Bool
  pend      : Bool
  beat      : Nat
  named     : Bool
  hold      : Nat
  mbox      : Option Nat
  relMbox   : List Nat
  req       : Bool
  waits     : Bool
  since     : Nat
  ending    : Option Nat
  deriving DecidableEq, Repr

/-- The snapshot at reset (12 R378). -/
def snapReset : Snap := ⟨false, false, false, false, 0, false, 0, none, [], false, false, 0, none⟩

/-- The soft shell. `flushes` counts the FLUSH pulses of each annex slot (12 R356), `turn` is the channel that the hatch serves next, and `sentTo` what bursts have delivered
at the peripheral ports: slot, address, bytes, oldest first (R360). -/
structure Shell where
  hatch    : Tab Hatch
  disable  : Bool
  turn     : Nat
  sentTo   : List (Nat × Nat × List Byte)
  ports    : List StreamPort
  flushes  : Tab Nat
  keep     : Keep
  snap     : Snap
  deriving DecidableEq, Repr

/-- The soft shell at reset. -/
def shellReset : Shell := ⟨[], false, 0, [], [], [], keepReset, snapReset⟩

end Sys2Proof.Machine
end

