-- ==== Sys2Proof/Machine/StateFabric.lean ====
section
/-!
DEFINITION. Plain data of the Quopor fabric (13_fabric): bundles, addresses, routes, roll calls, messages awaiting an ACK, flows.
-/
namespace Sys2Proof.Machine

/-- A bundle (13 R380, R399): up, its lanes as a mask of logical lanes, lane rate (0 112 GBd, 1 56, 2 28), measured one-way latency in ticks,
and the engine and address of its peer. -/
structure Bundle where
  up      : Bool
  lanes   : Nat
  rate    : Nat
  latency : Nat
  peer    : BitVec 64
  peerAddr : Nat
  deriving DecidableEq, Repr

/-- A bundle that is not up. -/
def bundleZero : Bundle := ⟨false, 0, 3, 0, 0, 0xFFFF⟩

/-- An admission record (13 R394). -/
structure AdmRec where
  serial  : BitVec 64
  version : Nat
  fwVersion : Nat
  proto   : Nat
  state   : Nat
  rank    : Nat
  addr    : Nat
  classHash : Nat
  epoch   : Nat
  deriving DecidableEq, Repr

/-- A management message that waits for its ACK (13 R387): destination, frame, the beat of the last sending, resends made. -/
structure OutMsg where
  dst   : Nat
  frame : Frame
  sent  : Nat
  tries : Nat
  deriving DecidableEq, Repr

/-- A route update that waits for its effective beat (13 R391): epoch, T, this engine's entries. -/
structure RouteUpd where
  epoch   : Nat
  beat    : Nat
  entries : List (Nat × BitVec 32)
  deriving DecidableEq, Repr

/-- Frames of a flow held by a transit member, as they arrived (13 R403). -/
structure FlowBuf where
  gtask  : BitVec 64
  flow   : Nat
  frames : List Frame
  deriving DecidableEq, Repr

/-- Progress of a flow at this member: frames received or landed, and bytes written to a window (13 R403). -/
structure FlowSt where
  task : Nat
  flow : Nat
  got  : Nat
  wrote : Nat
  deriving DecidableEq, Repr

/-- The rest of a frame that one slot could not hold (13 R398): bundle, the claim's task and flow (0 and 0 for management traffic, flow + 1 for a claim), the lanes that
carry it, and the bytes still to be sent. -/
structure TxTail where
  bundle : Nat
  gtask  : BitVec 64
  flow   : Nat
  lanes  : Nat
  bytes  : List Byte
  deriving DecidableEq, Repr

/-- FABRIC_DROPS (13 R412). -/
structure Drops where
  badHeader : Nat
  hopsOut   : Nat
  noRoute   : Nat
  staleFlow : Nat
  deriving DecidableEq, Repr

/-- The fabric router and the steward's fabric state. `routes` and `old` are the destination entries of the current and the previous epoch: at key a the entry of
address a for scheduled frames, at key 8192 + a that for management frames (13 R389); `onOld` are the input bundles that still route by the old ones (R392), `updates`
the route updates that wait for their beat, `early` the input bundles whose DRAIN came before the update of that epoch took effect here, `supplied` this engine's own
table, `given` those that other engines sent to this registrar by serial, `issued` the entries that it issued last to each address (R390 to R392). `inbox` holds the
frames delivered here and not yet acted on, `out` the frames that wait for their slots with their bundles (oldest first), `tails` what is left of frames begun, and
`arrived` per input bundle the lane-slots taken from the lanes and not yet read as frames, each with 64 × beat + slot (R397, R398, 14 R425). `seen` are the pairs of
sender and TAG acted on (R387), `bcast` the (serial, roll number) pairs forwarded, by kind, `readys` the READY taken by this leader (image, round, address, epoch) and
`refused` the rounds refused (image, round, code) (R407, R408). `members` are the records of the last roll call that closed, with the addresses and states that the
registrar has announced since (state 3 is the vestibule until adoption, R396), and `told` what it announced while a roll call is open: serial, the address then, kind
(3 ASSIGN, 4 ADMIT) and value. -/
structure Fabric where
  addr     : Option Nat
  rank     : Nat
  newRank  : Option Nat
  epoch    : Nat
  admission : Nat
  reason   : Nat
  registrar : Option (BitVec 64)
  rollSeen : Nat
  rolling  : Bool
  lastRoll : Nat
  records  : List AdmRec
  bcast    : List (BitVec 64 × Nat × Nat)
  bundles  : Tab Bundle
  routes   : Tab (BitVec 32)
  old      : Tab (BitVec 32)
  onOld    : List Nat
  switchAt : Nat
  updates  : List RouteUpd
  supplied : Option (List (BitVec 32))
  given    : List (BitVec 64 × Tab (BitVec 32))
  issued   : List (Nat × Tab (BitVec 32))
  tableRejected : Bool
  nextTag  : Nat
  unacked  : List OutMsg
  lost     : List (Nat × BitVec 32)
  seen     : List (Nat × BitVec 32)
  inbox    : List (Nat × Frame)
  out      : List (Nat × Frame)
  tails    : List TxTail
  arrived  : Tab (List (Nat × List Byte))
  flowBufs : List FlowBuf
  flows    : List FlowSt
  early    : List (Nat × Nat)
  readys   : List (BitVec 64 × Nat × Nat × Nat)
  refused  : List (BitVec 64 × Nat × Nat)
  drops    : Drops
  trained  : Option Nat
  members  : List AdmRec
  told     : List (BitVec 64 × Nat × Nat × Nat)
  deriving DecidableEq, Repr

/-- The fabric at reset: rank 0x8000 (13 R381), epoch 0 (R393), every entry 0 (R388). -/
def fabricReset : Fabric :=
  ⟨none, 0x8000, none, 0, 0, 0, none, 0, false, 0, [], [], [], [], [], [], 0, [], none, [], [], false, 0, [], [], [], [], [], [], [], [], [],
    [], [], [], ⟨0, 0, 0, 0⟩, none, [], []⟩

end Sys2Proof.Machine
end

