-- ==== Sys2Proof/Machine/StateLink.lean ====
section
/-!
DEFINITION. Plain data of the link layer (14_links): lane ports, their block streams, replays, lane-slots, and the gatehouse's
swaps.
-/
namespace Sys2Proof.Machine

/-- A block the lane has sent (14 R427): beat and position, the beat and position of its codeword's first block, the block, and whether
a replay may carry it. -/
structure SentBlk where
  beat   : Nat
  pos    : Nat
  cwBeat : Nat
  cwPos  : Nat
  block  : Block
  again  : Bool
  deriving DecidableEq, Repr

/-- A lane-slot in reception (14 R425): beat, slot, and the frame bytes of each of its positions that arrived good. -/
structure RxSlot where
  beat : Nat
  slot : Nat
  got  : Tab (List Byte)
  deriving DecidableEq, Repr

/-- A received block that has not been acted on: good, or damaged (14 R418). -/
inductive RxItem where
  | good (b : Block)
  | damaged
  deriving DecidableEq, Repr

/-- A test of LINK_TEST (14 R432): the loop kind, the rate, PRECODE, BEATS, the mailbox that waits (none at the peer of a far-end test),
the beat of the request or start, and whether the test runs; the pattern registers of its generator and its checker, and what the checker counted (R433): data blocks, those
that differed, symbols corrected, uncorrectable codewords. -/
structure LinkTst where
  loop    : Nat
  rate    : Nat
  precode : Bool
  beats   : Nat
  mbox    : Option Nat
  since   : Nat
  running : Bool
  prbsTx  : Nat
  prbsRx  : Nat
  blocks  : Nat
  bad     : Nat
  fixed   : Nat
  unc     : Nat
  deriving DecidableEq, Repr

/-- A replay in reception (14 R428): the port that receives the lane, and the beat and the positions of its blocks that are still to come. -/
structure RxReplay where
  port : Nat
  beat : Nat
  first : Nat
  left : List Nat
  deriving DecidableEq, Repr

/-- A lane port (14 R422 to R436). The first fields are those of LINK_PORT_STATUS and LINK_PORT_COUNTS; then training (`since` the beat in
which the state was entered), the transmitter, the receiver, and the test. `nextLs` is the number 64 × beat + slot of the first
lane-slot neither delivered nor lost. `held` marks a port that trains at its bundle's rate (R424), `locked` codeword lock (R418), `waitMark` a port that carries its lane from its
next BEAT_MARK on (R429), `txq` the frame bytes of the lane-slots cut for it by 64 × beat + slot (13 R398), `rxVia` the port to which the lane it received has moved (R431),
`echoQ` the decoded blocks that the far end of a test returns (R432), `departs` and `arrives` when the latest
BEAT_MARKs left and came, by the beat they carry, in 1/65,536 tick of fabric time (15 R443). -/
structure Port where
  st         : Nat
  rate       : Nat
  preTx      : Bool
  preRx      : Bool
  logical    : Nat
  bundle     : Nat
  l1         : Nat
  latExcess  : Bool
  lost       : Bool
  corrected  : Nat
  uncorr     : Nat
  slotsLost  : Nat
  replays    : Nat
  badBlocks  : Nat
  since      : Nat
  rates      : Nat
  peerRates  : Nat
  peerSerial : BitVec 64
  peerGate   : Nat
  peerPort   : Nat
  measured   : Bool
  goodTrain  : Nat
  echoes     : Nat
  echoMax    : Nat
  peerEcho   : Nat
  txBeat     : Nat
  txPos      : Nat
  cwBeat     : Nat
  cwPos      : Nat
  cwBlocks   : List Block
  txLevel    : Nat
  line       : List (BitVec 272)
  sent       : List SentBlk
  nakQ       : List Block
  swapQ      : List Block
  loopQ      : List Block
  replayQ    : List (List Block)
  nakSeen    : List (Nat × Nat)
  rxBeat     : Nat
  rxPos      : Nat
  rxPrevEnd  : Nat
  rxLane     : Nat
  rxq        : List RxItem
  rxSlots    : List RxSlot
  nextLs     : Option Nat
  delivered  : List (Nat × List Byte)
  lostLs     : List Nat
  consecBad  : Nat
  markBeat   : Nat
  test       : Option LinkTst
  eye        : Option Nat
  idled      : Bool
  held       : Bool
  locked     : Bool
  waitMark   : Bool
  txq        : List (Nat × List Byte)
  rxVia      : Option Nat
  replay     : Option RxReplay
  echoQ      : List Block
  departs    : List (Nat × Int)
  arrives    : List (Nat × Int)
  deriving DecidableEq, Repr

/-- A lane port at reset (14 R435, R436). -/
def portZero : Port :=
  ⟨0, 3, false, false, 0x1F, 0, 0, false, false, 0, 0, 0, 0, 0, 0, 0, 0, 0, 0, 0, false, 0, 0, 0, 0, 0, 0, 0, 0, [], 0, [], [], [],
    [], [], [], [], 0, 0, 0, 0x1F, [], [], none, [], [], 0, 0, none, none, false,
    false, false, false, [], none, none, [], [], []⟩

/-- A lane move without loss (14 R431): gatehouse, logical lane, old and new port, target beat. -/
structure LaneSwap where
  gate   : Nat
  lane   : Nat
  old    : Nat
  new    : Nat
  target : Nat
  deriving DecidableEq, Repr

/-- The link layer: ports at key 32 × gatehouse + port; per gatehouse the beat in which training began (listed while it trains); moves
that this engine sends and moves that a peer announced. -/
structure Links where
  ports    : Tab Port
  training : Tab (Option Nat)
  swaps    : List LaneSwap
  rxSwaps  : List LaneSwap
  deriving DecidableEq, Repr

/-- The link layer at reset. -/
def linksReset : Links := ⟨[], [], [], []⟩

end Sys2Proof.Machine
end

