-- ==== Sys2Proof/Machine/StateTime.lean ====
section
/-!
DEFINITION. Plain data of the time unit (15_time_reference).
-/
namespace Sys2Proof.Machine

/-- The keeper an engine holds (15 R441): class, rank and serial of the keeper, the hops to it, and the beat of its last ANNOUNCE. -/
structure KeeperRec where
  cls    : Nat
  rank   : Nat
  serial : BitVec 64
  hops   : Nat
  beat   : Nat
  deriving DecidableEq, Repr

/-- A step that waits for the next beat boundary (15 R446): the beats to subtract, twice the remainder in 1/65,536 tick, the count of boundaries when it was found due, and
whether the reference called for it (R450) rather than the parent. -/
structure TimeStep where
  beats : Int
  left  : Int
  since : Nat
  ref   : Bool
  deriving DecidableEq, Repr

/-- The time unit. `ticks` and `frac` are fabric time (15 R437): it stands at the beginning of the present beat, or where a read has met it since, `up` the ticks since the time unit started,
which no step changes (15 R447); `latchHi` and `latchFrac` what a read of TIME_NOW_LO latched (R438); the
settings are TIME_CFG (20 R563); `st` is the STATE of R455. `quiet` is the beat since which no ANNOUNCE better than itself was held,
`streak` the consecutive exchanges within 2 ticks (R445), `unsync` holds READY (R446), `step` the step that waits for
the next boundary, `lastUse` the beat of the last usable STAMP, `holdFrom` the tick at which holdover began and whether from following,
`rate` the discipline's rate (R444). `refGone` says that the reference is enabled and lost (R440), `pulse` is the last
reference pulse by its stamp and by `up`, `refFrom` the value of `up` when REF_EN was set, `pulseBase` the time from which pulses count. `beatDelay`
is the delay of the beat-out pulse of the present beat (R452), `tod` the last time-of-day message (R453), `atime` the last tick shown to the
annexes and `strobes` the beats marked to them (R454). -/
structure TimeUnit where
  running   : Bool
  ticks     : Nat
  up        : Nat
  frac      : Nat
  latchHi   : Nat
  latchFrac : Nat
  refEn     : Bool
  setOn     : Bool
  noKeeper  : Bool
  spread    : Bool
  refDelay  : Nat
  period    : Nat
  setTime   : Nat
  st        : Nat
  stepped   : Bool
  split     : Bool
  refLost   : Bool
  refLock   : Bool
  refGone   : Bool
  offset    : Int
  keeper    : Option KeeperRec
  announcing : Bool
  quiet     : Nat
  lastAnn   : Nat
  lastStamp : Nat
  streak    : Nat
  unsync    : Bool
  step      : Option TimeStep
  lastUse   : Nat
  holdFrom  : Option (Nat × Bool)
  rate      : Int
  pulse     : Option (Int × Nat)
  refFrom   : Nat
  pulseBase : Nat
  beatDelay : Nat
  tod       : List Byte
  atime     : Nat
  strobes   : Nat
  deriving DecidableEq, Repr

/-- The time unit at reset (15 R438, R455, 20 R563). -/
def timeReset : TimeUnit :=
  ⟨false, 0, 0, 0, 0, 0, false, false, false, false, 0, 0, 0, 0, false, false, false, false, false, 0, none, false, 0, 0, 0, 0, false, none, 0, none,
    0, none, 0, 0, 0, [], 0, 0⟩

end Sys2Proof.Machine
end

