-- ==== Sys2Proof/Machine/StatePower.lean ====
section
/-!
DEFINITION. Plain data of pace (02_pace_and_determinism R40 to R47) and of the power governor (16_power).
-/
namespace Sys2Proof.Machine

/-- The permits of one per-cycle unit within the beat (02 R41, R42): issued to it, banked, lost, and the cycles that it has begun and not yet spent on work. -/
structure Permits where
  issued : Nat
  banked : Nat
  lost   : Nat
  begun  : Nat
  deriving DecidableEq, Repr

/-- No permit yet in this beat. -/
def permitsZero : Permits := ⟨0, 0, 0, 0⟩

/-- PACE_CTRL (02 R44), PACE_STATUS (R45), PACE_EVENTS (R46), the permits of the present beat by unit, the permits that the units of each hall received in the beat
before (R41), and the local paces measured over it in ps, of a hall ring at 18 × hall + 17, of a physical room at 18 × hall + room (R37). -/
structure Pace where
  margin     : Nat
  permits    : Nat
  dither     : Bool
  mode       : Bool
  modeActive : Bool
  syncLate   : Bool
  limitMiss  : Bool
  belowFloor : Bool
  cyclePs    : Nat
  missBeats  : Nat
  floorBeats : Nat
  units      : Tab Permits
  issuedLast : Tab Nat
  localPs    : Tab Nat
  deriving DecidableEq, Repr

/-- Pace at reset (02 R44 to R46). -/
def paceReset : Pace := ⟨8, 0x400, true, false, false, false, false, false, 0, 0, 0, [], [], []⟩

/-- The settings of POWER_CFG0 to POWER_CFG2 (16 R477) but for CAP and MODE. -/
structure PowerCfg where
  hallAmps : Nat
  vmax     : Nat
  tjHot    : Nat
  hold     : Nat
  floor    : Nat
  rampDown : Nat
  rampUp   : Nat
  gap      : Nat
  deriving DecidableEq, Repr

/-- The settings at reset (16 R477). -/
def powerCfgReset : PowerCfg := ⟨0x12C, 0x28, 0x64, 0x10, 0x3C, 0x20, 0x10, 0x800⟩

/-- An entry of the phase table (16 R462): context, tag, the halls' activity in 1/65,536 of I_full, VSRAM and VLINK power in 1/8 W. -/
structure Phase where
  ctx   : Nat
  tag   : Nat
  halls : Tab Nat
  vsram : Nat
  vlink : Nat
  deriving DecidableEq, Repr

/-- What the current of a hall does on account of the governor (16 R470, R471): a barrier hold or its ramp (held level in 1/8 A, the beat
from which HOLD counts), or a pre-ramp toward a level, begun at a beat for a boundary, or holding it. -/
inductive HallRamp where
  | none
  | hold (level start : Nat)
  | down (level start : Nat)
  | pre (base level start target : Nat)
  deriving DecidableEq, Repr

/-- A phase or barrier hint in force in a hall (16 R463): its kind, context, tag, level and the beat it names. -/
structure HintRec where
  kind  : Nat
  ctx   : Nat
  tag   : Nat
  level : Nat
  beat  : Nat
  deriving DecidableEq, Repr

/-- One hall of the governor (16 R466 to R480): throttle level, I_full, Tj, the mean current of the last beat and interval, I_pre's
intervals (newest first), the ramp, whether it is hot or critical now, the throttle levels that HALL_AMPS and temperature impose,
whether it is throttled by each, the beats since the level last rose, the phase in force and the hint ahead; `barrier` is a KIND 0x3 hint, its kind 0 once the drop
has been held and only its LEVEL waits for the pre-ramp, and `dropPre` is I_pre of the last drop (R470). -/
structure HallPow where
  throttle : Nat
  iFull    : Nat
  tj       : Int
  amps     : Nat
  ivAmps   : Nat
  ivs      : List Nat
  sum      : Nat
  ramp     : HallRamp
  hot      : Bool
  crit     : Bool
  overAmps : Bool
  below    : Bool
  ampLvl   : Nat
  thermLvl : Nat
  capLvl   : Nat
  ampSince : Nat
  thermSince : Nat
  phase    : Option HintRec
  phaseSum : Nat
  phaseIvs : Nat
  phaseVs  : Nat
  phaseVl  : Nat
  ahead    : Option HintRec
  barrier  : Option HintRec
  dropPre  : Option Nat
  deriving DecidableEq, Repr

/-- A hall at reset: throttle level 16 (16 R478, R480). -/
def hallPowZero : HallPow :=
  ⟨16, 0, 0, 0, 0, [], 0, .none, false, false, false, true, 16, 16, 16, 0, 0, none, 0, 0, 0, 0, none, none, none⟩

/-- A gap filling (16 R469): room, unit (mould 0 to 3, 4 the chute), the stuff level, the GAP in force. -/
structure GapFill where
  room  : Nat
  unit  : Nat
  level : Nat
  gap   : Nat
  deriving DecidableEq, Repr

/-- A supply rail of the telemetry (16 R480): current in 1/4 A and power in 1/8 W of the last beat, and the sums of this beat. -/
structure RailPow where
  amps  : Nat
  watts : Nat
  aSum  : Nat
  wSum  : Nat
  deriving DecidableEq, Repr

/-- A rail at reset. -/
def railPowZero : RailPow := ⟨0, 0, 0, 0⟩

/-- The power governor. `cap` is none while POWER_CFG0.CAP holds its reset value 200 × HALLS (16 R477). `vcore` is the setpoint code in
force, `vWas` the code from which a waiting change of pace raised it (02 R47), `capStep` the step of R461 in force, `ivs` the control intervals of the beat. `sticky` fields are
those of POWER_STATUS, `evBeat` marks which beat counts of POWER_EVENTS this beat has earned; `draws` are the mean draws of the last 63 beats in 1/8 W, newest first (R457). -/
structure Power where
  mode      : Bool
  cap       : Option Nat
  cfg       : PowerCfg
  vcore     : Nat
  vWas      : Option Nat
  vMoved    : Bool
  capStep   : Nat
  capLimited : Bool
  hallLimited : Bool
  thermHot  : Bool
  thermCrit : Bool
  rise      : Bool
  powerW    : Nat
  capBeats  : Nat
  hallBeats : Nat
  thermBeats : Nat
  rises     : Nat
  limNow    : Bool
  ivCount   : Nat
  wSum      : Nat
  draws     : List Nat
  rails     : Tab RailPow
  halls     : Tab HallPow
  phases    : List Phase
  gaps      : List GapFill
  tripped   : Bool
  deriving DecidableEq, Repr

/-- The governor at reset (16 R477 to R480). -/
def powerReset : Power :=
  ⟨false, none, powerCfgReset, 0x14, none, false, 0, false, false, false, false, false, 0, 0, 0, 0, 0, false, 0, 0, [], [], [], [], [], false⟩

end Sys2Proof.Machine
end

