-- ==== Sys2Proof/Machine/StateHealth.lean ====
section
/-!
DEFINITION. Plain data of the health unit (17_health_and_spares). A unit is named by its kind and physical index (R482); tables of units are
keyed by 65,536 × kind + index.
-/
namespace Sys2Proof.Machine

/-- What the health record keeps of a unit (17 R501, R502): attributed faults (saturating), the hours of its transients in the last 24
hours, code and beat of the last fault, wear measure, its samples (newest first, at most 1,000), the predicted hours (none: no trend), and
its service state (0 in service or free or in use, 3 failed, 4 retired, 5 disabled). -/
structure UnitRec where
  faults     : Nat
  transients : List Nat
  lastFault  : Nat
  lastBeat   : Option Nat
  wear       : Nat
  samples    : List Nat
  life       : Option Nat
  service    : Nat
  deriving DecidableEq, Repr

/-- A unit with no history. -/
def unitZero : UnitRec := ⟨0, [], 0, none, 0, [], none, 0⟩

/-- A fault attributed to a unit (17 R487) whose repair has not begun: unit, fault code, engine room and task concerned, and the row or
column that the failed residue check named (05 R158, R159). -/
structure Attrib where
  kind  : Nat
  index : Nat
  code  : Nat
  room  : Option Nat
  task  : Option Nat
  check : Option Mismatch
  deriving DecidableEq, Repr

/-- What a diagnosis decided (17 R490 to R494): a spare row or column of a mould (by mould index and physical row or column); the
hall's spare room for a logical room; retirement of the room; the chute disabled; a room that serves none given up; nothing left to bring in. -/
inductive RepairAct where
  | row (mould index : Nat)
  | col (mould index : Nat)
  | spare (logical : Nat)
  | retire (logical : Nat)
  | chuteOff (room : Nat)
  | unused (room : Nat)
  | stays
  deriving DecidableEq, Repr

/-- A repair in progress (17 R488): the unit, the hall whose repairs it queues with (none for lanes and the steward), the fault, the
detection beat, the step reached (1 halting, 3 diagnosed and spare in place, 4 mapping in effect), the tasks it aborted, the rooms it holds, the check
that failed, and what the diagnosis decided. -/
structure Repair where
  kind  : Nat
  index : Nat
  hall  : Option Nat
  code  : Nat
  beat  : Nat
  stage : Nat
  tasks : List Nat
  rooms : List Nat
  check : Option Mismatch
  acts  : List RepairAct
  deriving DecidableEq, Repr

/-- The mappings and histories of 17 R483 and R501. `roomMap` at 16 × hall + logical room is 0 for the physical room of the same number, 18 for
no room, n + 1 for physical room n; `rowMap` and `colMap` at a mould's index are 0 or the replaced physical row or column + 1. -/
structure Mapping where
  roomMap  : Tab Nat
  rowMap   : Tab Nat
  colMap   : Tab Nat
  chuteOff : List Nat
  coreFail : Option Nat
  relocs   : List Reloc
  units    : Tab UnitRec
  deriving DecidableEq, Repr

/-- No mapping. -/
def mappingZero : Mapping := ⟨[], [], [], [], none, [], []⟩

/-- The health unit. `cfg` fields are HEALTH_CFG (17 R505); `saved` is what the health record of each slot of the keep holds (R501), `saving` what the record writes under way hold; `spareOn` says that a spare is in use or a room retired (10 R298); `replaceQ` and `replacing` are proactive replacements that wait and that run (R497); `beatHb` is the beat of the last
heartbeat (R487); `gone` says that an exhausted spare holds HEALTH at 0x2 (R499); `bankBad` lists (bank, line, hour) of uncorrectable reads and
`bankCorr` (bank, hour, count) of corrected reads (R494); `recTick` is the tick of the last record write. -/
structure Health where
  eolHours   : Nat
  recordMin  : Nat
  transLimit : Nat
  chutePolicy : Bool
  map        : Mapping
  saved      : List (Nat × Mapping)
  saving     : List Mapping
  spareOn    : Bool
  firstTest  : Bool
  attribs    : List Attrib
  repairs    : List Repair
  replaceQ   : List (Nat × Nat)
  replacing  : List (Nat × Nat)
  spareUsed  : Bool
  transient  : Bool
  exhausted  : Bool
  evRepairs  : Nat
  evTrans    : Nat
  evProact   : Nat
  evRequeue  : Nat
  gone       : Bool
  hallsOut   : List Nat
  gatesOut   : List Nat
  beatHb     : Nat
  recTick    : Nat
  recDue     : Bool
  bankBad    : List (Nat × Nat × Nat)
  bankCorr   : List (Nat × Nat × Nat)
  margins    : Tab Nat
  recAbsent  : Bool
  calDefault : Bool
  trimsDefault : Bool
  bundleExcess : Bool
  deriving DecidableEq, Repr

/-- The health unit at reset (17 R505, R506). -/
def healthReset : Health :=
  ⟨720, 60, 3, false, mappingZero, [], [], false, false, [], [], [], [], false, false, false, 0, 0, 0, 0, false, [], [], 0, 0, false, [], [], [],
    false, false, false, false⟩

end Sys2Proof.Machine
end

