-- ==== Sys2Proof/Machine/StateSeq.lean ====
section
/-!
DEFINITION. Plain data of the sequencer (18_power_sequencing_reset).
-/
namespace Sys2Proof.Machine

/-- Where the sequencer stands (18 R510, R511, R516, R521). `dead`: VAUX is not good. `wait`: the 1 ms before VCORE_REQ. `rise r`: rail r is
requested and not good. `gap r`: the 100 µs after rail r became good. `run`: the hard part is out of reset. `drop r`: rail r's request has
fallen and its GOOD is awaited. `settle`: every request is low. `held`: settled, waiting for the cause of a power-up. `failed`: ENGINE_PHASE 0x7. -/
inductive SeqStep where
  | dead | wait | rise (rail : Nat) | gap (rail : Nat) | run | drop (rail : Nat) | settle | held | failed
  deriving DecidableEq, Repr

/-- A power-down in progress (18 R515 to R518): the beat P0, whether SUPPLY_WARN is its sole trigger, the boundaries in
succession at which SUPPLY_WARN was low, whether the point of no return is past, and whether an item of the final flush failed. -/
structure PowerDown where
  p0     : Nat
  cancel : Bool
  lows   : Nat
  past   : Bool
  spoilt : Bool
  deriving DecidableEq, Repr

/-- A RESET_REQUEST of kind 0x0 or 0x1 that waits for its boundary (18 R522): the kind, the beat of the request, the mailboxes,
and whether they have been answered. -/
structure ResetReq where
  kind  : Nat
  beat  : Nat
  boxes : List Nat
  answered : Bool
  deriving DecidableEq, Repr

/-- The sequencer. `good` and `req` are masks of VCORE (1), VSRAM (2), VLINK (4); `pending`, `failCount` are SEQ_STATUS (18 R524); `fail` to `cold`
are RESET_CAUSE (R525); `shellRst` says that SHELL_RST_N is low; `phaseBeat` is the beat in which the present ENGINE_PHASE began; `trips` the
power-down triggers that wait for the next boundary, each with its beat (R515); `resetReq` a reset that waits (R522); `stewardOnly` says that the
phases run after a steward reset (R523); `warnSeen` that SUPPLY_WARN was sampled high for the coming boundary, `lowMs` that it has been low for 1 ms
(R521); `rising` that a power-up has not yet reached ready, been abandoned or failed (R521). -/
structure Seq where
  step      : SeqStep
  good      : Nat
  req       : Nat
  warn      : Bool
  warnSeen  : Bool
  pending   : Nat
  failCount : Nat
  fail      : Nat
  rail      : Nat
  trigger   : Nat
  abandoned : Bool
  cancelled : Bool
  flushed   : Bool
  cold      : Bool
  shellRst  : Bool
  phaseBeat : Nat
  trips     : List (Nat × Nat)
  pd        : Option PowerDown
  resetReq  : Option ResetReq
  stewardOnly : Bool
  lowMs     : Bool
  rising    : Bool
  deriving DecidableEq, Repr

/-- The sequencer before VAUX is good: registers at the values of 18 R524 and R525. -/
def seqReset : Seq :=
  ⟨.dead, 0, 0, false, false, 0, 0, 0, 0, 0, false, false, false, true, false, 0, [], none, none, false, false, false⟩

end Sys2Proof.Machine
end

