-- ==== Sys2Proof/Machine/State.lean ====
section
/-!
DEFINITION. The state of one MZ8 engine, and how a step can stop. State holds every register, memory, queue and mode the manual names
(the groups are the structures of the State files), the configuration (00 R5), the queue of waiting commands and the counter of free values.
Absent time: a command is one whole step of the part (95_what_each_step_holds).
-/
namespace Sys2Proof.Machine

/-- Why a step stops. No meaning raises one: every command has an effect, or is not due and leaves the state (logs 2, 8). -/
inductive Fault where
  /-- The command names a unit that the configuration does not have. Raised by no meaning: such a command is not due (log 2). Safe. -/
  | noSuchUnit
  deriving DecidableEq, Repr

/-- Why a step is refused. -/
inductive Refusal where
  /-- The command has no meaning in the model. Raised by `exec` alone. Safe. -/
  | notModelled (mnemonic : String)
  deriving DecidableEq, Repr

/-- The engine. `pending` is the queue of waiting commands, first in first out, and `freeCtr` the counter that free values are applied to (log 3); both are
the model's own. `offered` at a hall is the number of logical rooms it offers, 16 where unlisted (08 R222, 17 R493). `defects` are the physical
faults of moulds and chutes that their checks meet (05 R154 to R159; no command sets them: an input of the initial state). -/
structure State where
  params  : Params
  pending : List Instr
  freeCtr : Nat
  store   : Store
  rooms   : Tab Room
  offered : Tab Nat
  defects : List Defect
  steward : Steward
  host    : HostPort
  side    : Sideband
  shell   : Shell
  fabric  : Fabric
  links   : Links
  time    : TimeUnit
  pace    : Pace
  power   : Power
  health  : Health
  seq     : Seq
  deriving DecidableEq, Repr

/-- The configuration of the model's reset state: the top configuration of 00_scope's worked example, its annex slots empty (log 1). -/
def paramsTop : Params := ⟨16, 5, 4, 1, 8, 32, 16, List.replicate 8 0⟩

/-- The state right after reset: every register at its reset value, nothing stored, VAUX not yet good (18 R510, R523). -/
def State.reset : State :=
  { params := paramsTop, pending := [], freeCtr := 0, store := storeReset, rooms := [], offered := [], defects := [],
    steward := stewardReset, host := hostReset, side := sidebandReset, shell := shellReset, fabric := fabricReset, links := linksReset,
    time := timeReset, pace := paceReset, power := powerReset, health := healthReset, seq := seqReset }

end Sys2Proof.Machine
end

