-- ==== Sys2Proof/Machine/Flags.lean ====
section
/-!
DEFINITION. Flags and notices: saturating counters (00 R16), the host port's outgoing messages and their credits (19 R530, R532), EVT messages (19
R535, 20 R566), INT_STATUS (20 R564), ENGINE_PHASE and HEALTH (10 R298), the trace pin (19 R549).
-/
namespace Sys2Proof.Machine

/-- The present fabric beat (00 R12, 15 R437). -/
def beatOf (s : State) : Nat := s.time.ticks / 1024

/-- The beat boundaries since the time unit started: durations in beats are counted in these, which no step of fabric time changes (15 R446, R447). -/
def upBeat (s : State) : Nat := s.time.up / 1024

/-- Add with saturation at `max`. -/
def satAdd (max x n : Nat) : Nat := min max (x + n)

/-- The bytes of a number, least significant first (00 R13). -/
def leB (n v : Nat) : List Byte := leBytes n v

/-- The 48-byte INLINE payload of an EVT sent in beat `b` (19 R535). -/
def evtBytes (b : Nat) (e : Evt) : List Byte :=
  leB 1 e.type ++ leB 1 0 ++ leB 2 e.index ++ leB 2 e.ctx ++ leB 2 0 ++ leB 4 e.seq ++ leB 4 e.task ++ leB 8 b ++ List.replicate 24 0

/-- The EVT message (19 R532). -/
def evtMsg (b : Nat) (e : Evt) : HostMsg := ⟨3, 0x40, 0, 0, 0, 0, 0, evtBytes b e⟩

/-- Send waiting EVTs against the credits of their network: those that still wait, the credit left, those sent. -/
def sendEvts (b : Nat) : List Evt → Nat → List Evt × Nat × List HostMsg
  | [], c => ([], c, [])
  | e :: es, 0 => (e :: es, 0, [])
  | e :: es, c + 1 =>
    let r := sendEvts b es c
    (r.1, r.2.1, evtMsg b e :: r.2.2)

/-- The flits of a message: its header and its data flits (19 R532). -/
def flits (m : HostMsg) : Nat := 1 + (if m.op = 0x01 ∨ m.op = 0x03 ∨ m.op = 0x04 then 0 else m.len)

/-- Send waiting messages, each network in order and against its own credits (19 R530); `stuck` lists the networks that wait. -/
def sendMsgs : List HostMsg → List Nat → Tab Nat → List HostMsg × Tab Nat × List HostMsg
  | [], _, c => ([], c, [])
  | m :: ms, stuck, c =>
    if m.vn ∈ stuck ∨ tabGet 0 c m.vn < flits m then
      let r := sendMsgs ms (m.vn :: stuck) c
      (m :: r.1, r.2.1, r.2.2)
    else
      let r := sendMsgs ms stuck (tabPut 0 c m.vn (tabGet 0 c m.vn - flits m))
      (r.1, r.2.1, m :: r.2.2)

/-- Send what the credits allow. -/
def pumpTx (s : State) : State :=
  let e := sendEvts (beatOf s) s.host.evts (tabGet 0 s.host.credit 3)
  let q := sendMsgs s.host.txq [] (tabPut 0 s.host.credit 3 e.2.1)
  { s with host := { s.host with evts := e.1, credit := q.2.1, txq := q.1, sent := s.host.sent ++ e.2.2 ++ q.2.2 } }

/-- Queue a message of the engine and send what the credits allow. -/
def sendMsg (m : HostMsg) (s : State) : State := pumpTx { s with host := { s.host with txq := s.host.txq ++ [m] } }

/-- Raise an EVT: an event of a source whose EVT still waits merges into it (20 R566). -/
def addEvt (e : Evt) (s : State) : State :=
  if e.src ≠ 0 ∧ s.host.evts.any (fun x => x.src == e.src) = true then s
  else pumpTx { s with host := { s.host with evts := s.host.evts ++ [e] } }

/-- Set bit `n` of INT_STATUS (20 R564); an enabled HEALTH (1) or THERMAL (2) bit that goes from 0 to 1 raises an EVT of TYPE 0x04 (R566). -/
def raiseInt (n : Nat) (s : State) : State :=
  let was := s.steward.intStatus.getLsbD n
  let t := { s with steward := { s.steward with intStatus := s.steward.intStatus ||| BitVec.ofNat 32 (2 ^ n) } }
  if was = false ∧ (n = 1 ∨ n = 2) ∧ s.steward.intEnable.getLsbD n = true then addEvt ⟨4, 0, 0, 0, 0, n⟩ t else t

/-- MBX_STATUS.ENGINE_PHASE becomes `p` (10 R298). -/
def setPhase (p : Nat) (s : State) : State :=
  if s.steward.phase = p then s
  else raiseInt 9 { s with steward := { s.steward with phase := p }, seq := { s.seq with phaseBeat := upBeat s } }

/-- MBX_STATUS.HEALTH becomes `h` (10 R298, 20 R564). -/
def setHealth (h : Nat) (s : State) : State :=
  if s.steward.healthSt = h then s else raiseInt 1 { s with steward := { s.steward with healthSt := h } }

/-- MBX_STATUS.FABRIC becomes `f`. -/
def setFabric (f : Nat) (s : State) : State :=
  if s.steward.fabricSt = f then s else raiseInt 8 { s with steward := { s.steward with fabricSt := f } }

/-- TIME_STATUS.STATE becomes `t` (15 R455). -/
def setTimeSt (t : Nat) (s : State) : State :=
  if s.time.st = t then s else raiseInt 7 { s with time := { s.time with st := t } }

/-- Draw the free bytes `n` at a time: a list that nothing constrains (log 3). -/
def freeBytes (c n : Nat) : List Byte := (List.range n).map fun i => Config.freeByte (c + i)

/-- Replace the ranges by free bytes (02 R60, log 3). -/
def scramble : List (Nat × Nat) → State → State
  | [], s => s
  | (a, n) :: rs, s =>
    scramble rs { s with store := memPut s.store a (freeBytes s.freeCtr n), freeCtr := s.freeCtr + n }

/-- The bytes of a trace message (19 R549). -/
def traceBytes (type code beat : Nat) : List Byte :=
  let b := leB 1 0x5A ++ leB 1 type ++ leB 2 code ++ leB 3 (beat % 2 ^ 24)
  b ++ [crc8 b]

/-- Queue a trace message on the trace pin: type 1 fault or refusal, 2 repair step, 3 commit. A full queue loses it (19 R549). -/
def trace (type code : Nat) (s : State) : State :=
  if s.side.pins.any (fun p => p.func == 5) = true then
    if s.side.traceQ.length < 64 then { s with side := { s.side with traceQ := s.side.traceQ ++ [traceBytes type code (beatOf s)] } }
    else { s with side := { s.side with traceLost := satInc 255 s.side.traceLost } }
  else s

/-- The engine stops its tasks for a power-down or a reset: launches and fetching rest (18 R516, R522). -/
def leaving (s : State) : Bool := s.steward.phase == 6 || s.seq.resetReq.isSome

/-- The engine is ready and takes up work (10 R310, 18 R516, R522). -/
def working (s : State) : Bool := s.steward.up && s.steward.phase == 5 && s.seq.resetReq.isNone

/-- The step answers `t` where its condition holds; a command that is not due leaves the state as it is (log 8). -/
def due (g : Bool) (s t : State) : Host.Outcome State Fault Refusal := .next (if g then t else s)

/-- The same for a command that names a unit: for a unit that the configuration does not have no such event can be due (log 2). -/
def dueAt (there g : Bool) (s t : State) : Host.Outcome State Fault Refusal := due (there && g) s t

end Sys2Proof.Machine
end

