-- ==== Sys2Proof/Machine/Ops.lean ====
section
/-!
DEFINITION. The shared operations of the engine: requests on the host port (19 R532, R534), responses of the steward (10 R302, R305, R306), the porch (19
R537, R539), fences and their mirrors (11 R337), context faults (11 R325), tasks, their records, halting and eligibility (11 R339 to R346), frames of
the fabric (13 R385, R387, R388) and the aborts of multi-engine tasks (13 R409).
-/
namespace Sys2Proof.Machine

/-! Words and bytes. -/

/-- A field of a 64-byte word: `size` bytes at byte offset `off` (10 R305). -/
def wfld (w : MsgWord) (off size : Nat) : Nat := w.toNat / 2 ^ (8 * off) % 2 ^ (8 * size)

/-- The bytes of a 64-byte word. -/
def wordBytes (w : MsgWord) : List Byte := leBytes 64 w.toNat

/-- The word of 64 bytes. -/
def bytesWord (bs : List Byte) : MsgWord := BitVec.ofNat 512 (leVal (bs.take 64))

/-- A number made of fields (offset, size, value) in bytes. -/
def packFields : List (Nat × Nat × Nat) → Nat
  | [] => 0
  | (o, n, v) :: fs => v % 2 ^ (8 * n) * 2 ^ (8 * o) + packFields fs

/-! Requests on the host port. -/

/-- The lowest tag that is neither outstanding nor held back (19 R534). The manual leaves the choice of a tag open (log 9). -/
def tagPick (h : HostPort) : Option Nat :=
  firstFrom (fun t => !(h.out.any fun r => r.tag == t) && !(h.late.any fun r => r.1 == t)) 4096 0

/-- Issue a request of the engine; with 1,024 outstanding it waits (19 R534). -/
def issueReq (p : Purpose) (m : HostMsg) (s : State) : State :=
  match tagPick s.host with
  | some t =>
    if s.host.out.length < 1024 then
      sendMsg { m with tag := t } { s with host := { s.host with out := s.host.out ++ [⟨t, p, m.addr, s.time.up⟩] } }
    else { s with host := { s.host with waitq := s.host.waitq ++ [(p, m)] } }
  | none => { s with host := { s.host with waitq := s.host.waitq ++ [(p, m)] } }

/-- Issue the oldest request that waits for a tag. -/
def pumpReq (s : State) : State :=
  match s.host.waitq with
  | [] => s
  | (p, m) :: r =>
    if s.host.out.length < 1024 then issueReq p m { s with host := { s.host with waitq := r } } else s

/-- A read of `len` 64-byte units (19 R532). -/
def readMsg (addr len : Nat) : HostMsg := ⟨0, 0x01, 0, 0, 0, addr, len, []⟩

/-- A write of whole 64-byte units (19 R532). -/
def writeMsg (addr : Nat) (data : List Byte) : HostMsg := ⟨0, 0x02, 0, 0, 0, addr, data.length / 64, data⟩

/-! The porch (19 R537 to R539). -/

/-- The porch line at a host address. -/
def porchLine (h : HostPort) (addr : Nat) : Option PorchLine := h.porch.find? fun l => l.addr == addr

/-- A fill or a write-back of the line is in flight or waits for a tag. -/
def porchBusy (h : HostPort) (addr : Nat) : Bool :=
  h.out.any (fun r => r.addr == addr && (r.purpose == .fill true || r.purpose == .fill false || r.purpose == .writeBack)) ||
    h.waitq.any (fun r => r.2.addr == addr && (r.1 == .fill true || r.1 == .fill false || r.1 == .writeBack))

/-- Put bytes at an offset of a list. -/
def splice (bs : List Byte) (o : Nat) (xs : List Byte) : List Byte := bs.take o ++ xs ++ bs.drop (o + xs.length)

/-- Ask for a line: OP 0x03 shared or OP 0x04 for ownership, unless a request for it is in flight (19 R537, R539). -/
def porchFill (own : Bool) (addr : Nat) (s : State) : State :=
  if porchBusy s.host addr then s
  else issueReq (.fill own) ⟨0, if own then 0x04 else 0x03, 0, 0, 0, addr, 1, []⟩ s

/-- Write into a status or mirror line: in the porch in one step when the line is modified, else when the line arrives (19 R537). -/
def porchPut (addr offset : Nat) (data : List Byte) (s : State) : State :=
  match porchLine s.host addr with
  | some l =>
    if l.modified ∧ s.host.held.any (fun w => w.addr == addr) = false then
      { s with host := { s.host with porch := s.host.porch.filter (fun x => x.addr != addr) ++ [{ l with data := splice l.data offset data }] } }
    else porchFill true addr { s with host := { s.host with held := s.host.held ++ [⟨addr, offset, data⟩] } }
  | none => porchFill true addr { s with host := { s.host with held := s.host.held ++ [⟨addr, offset, data⟩] } }

/-! Mailboxes (10). -/

/-- A mailbox. -/
def mbox (s : State) (m : Nat) : Mailbox := tabGet mboxZero s.steward.mboxes m

/-- Change a mailbox. -/
def modMbox (m : Nat) (f : Mailbox → Mailbox) (s : State) : State :=
  { s with steward := { s.steward with mboxes := tabMod mboxZero s.steward.mboxes m f } }

/-- PHASE of word number n of a ring of 2^size entries (10 R302). -/
def phaseOf (n size : Nat) : Bool := decide (n / 2 ^ size % 2 = 0)

/-- Set or clear PHASE (bit 511) and REPLAY (bit 510) of a response word. -/
def withTrailer (w : MsgWord) (phase replay : Bool) : MsgWord :=
  BitVec.ofNat 512 (w.toNat % 2 ^ 510 + (if phase then 2 ^ 511 else 0) + (if replay then 2 ^ 510 else 0))

/-- The response word to a request: SEQ and OPCODE of the request, STATUS, RESULT fields by their offset in the word (10 R305). -/
def rspWord (req : MsgWord) (status : Nat) (fs : List (Nat × Nat × Nat)) : MsgWord :=
  BitVec.ofNat 512 (wfld req 0 6 + status % 65536 * 2 ^ 48 + packFields fs)

/-- Write a response word to entry RSP_TAIL of the response ring (10 R302); the command no longer executes. -/
def writeRsp (m : Nat) (w : MsgWord) (replay notify : Bool) (s : State) : State :=
  let b := mbox s m
  let n := b.rspTail.toNat
  let w := withTrailer w (phaseOf n b.exSize) replay
  issueReq (.rspWrite m) (writeMsg (b.exRspBase.toNat + 64 * (n % 2 ^ b.exSize)) (wordBytes w))
    (modMbox m (fun b => { b with rsp := some w, rspNotify := notify, rspAcked := false, executing := none, awaits := false }) s)

/-- Complete the command that mailbox `m` executes: its response is kept, LAST advances (10 R306), and it is written. -/
def respond (m status : Nat) (fs : List (Nat × Nat × Nat)) (s : State) : State :=
  match (mbox s m).executing with
  | none => s
  | some req =>
    let w := rspWord req status fs
    let seq := BitVec.ofNat 32 (wfld req 0 4)
    writeRsp m w false (decide (wfld req 6 1 % 2 = 1))
      (modMbox m (fun b => { b with histValid := true, last := seq, hist := ((seq, w) :: b.hist).take 16 }) s)

/-! Contexts, queues and fences (11). -/

/-- A context; context 0 is always live (11 R324). -/
def ctxOf (s : State) (c : Nat) : Ctx :=
  if c = 0 then { ctxZero with state := 0, apLimit := 2 ^ 64 } else tabGet ctxZero s.steward.ctxs c

/-- Change a context other than 0. -/
def modCtx (c : Nat) (f : Ctx → Ctx) (s : State) : State :=
  if c = 0 then s else { s with steward := { s.steward with ctxs := tabMod ctxZero s.steward.ctxs c f } }

/-- [a, a + n) lies in the host aperture of the context (11 R327). -/
def inAperture (s : State) (c a n : Nat) : Bool :=
  c == 0 || (decide ((ctxOf s c).apBase ≤ a) && decide (a + n ≤ (ctxOf s c).apLimit))

/-- A queue. -/
def queueOf (s : State) (q : Nat) : Option Queue := s.steward.queues.find? fun x => x.id == q

/-- Change a queue. -/
def modQueue (q : Nat) (f : Queue → Queue) (s : State) : State :=
  { s with steward := { s.steward with queues := s.steward.queues.map fun x => if x.id = q then f x else x } }

/-- The status line of a queue (11 R332). -/
def statusBytes (q : Queue) : List Byte :=
  leBytes 4 q.consumed ++ leBytes 4 q.cplTail ++ leBytes 1 q.state ++ leBytes 1 0 ++ leBytes 2 q.fault ++ leBytes 8 q.faultAddr ++
    List.replicate 44 0

/-- Write a queue's status line, unless its context takes no further host access (11 R347). -/
def putStatus (q : Nat) (s : State) : State :=
  match queueOf s q with
  | some x => if (ctxOf s x.ctx).state = 2 then s else porchPut x.status 0 (statusBytes x) s
  | none => s

/-- Write the status lines of queues in turn. -/
def putStatusAll : List Nat → State → State
  | [], s => s
  | q :: qs, s => putStatusAll qs (putStatus q s)

/-- A context fault (11 R325, R332): an OK context becomes FAULTED and its queues stop. -/
def ctxFault (c code q addr : Nat) (s : State) : State :=
  if (ctxOf s c).state = 0 ∧ c ≠ 0 then
    let t := modCtx c (fun x => { x with state := 1, fault := code, faultQueue := q, faultAddr := addr }) s
    let u := { t with steward := { t.steward with queues := t.steward.queues.map fun x =>
      if x.ctx = c then (if x.id = q then { x with state := 1, fault := code, faultAddr := addr } else { x with state := 2 }) else x } }
    putStatusAll ((s.steward.queues.filter fun x => x.ctx == c).map (·.id)) u
  else s

/-- A fence. -/
def fenceOf (s : State) (f : Nat) : Fence := tabGet fenceZero s.steward.fences f

/-! Tasks (11 R339 to R346). -/

/-- A task. -/
def taskOf (s : State) (n : Nat) : Option Task := s.steward.tasks.find? fun t => t.num == n

/-- Change a task. -/
def modTask (n : Nat) (f : Task → Task) (s : State) : State :=
  { s with steward := { s.steward with tasks := s.steward.tasks.map fun t => if t.num = n then f t else t } }

/-- The image of a task. -/
def imageOf (s : State) (t : Task) : Option Image := s.steward.images.find? fun i => i.handle == t.image

/-- Is a task final (11 R339)? -/
def isFinal (t : Task) : Bool := t.state == .completed || t.state == .aborted || t.state == .refused

/-- Does a task hold its rooms (11 R341)? -/
def holdsRooms (t : Task) : Bool := t.state == .launched

/-- The variant of an image that a task runs. -/
def variantOf (i : Image) (t : Task) : Variant := if t.v15 then i.var15 else i.var16

/-- A room. -/
def roomOf (s : State) (r : Nat) : Room := tabGet roomZero s.rooms r

/-- Change a room. -/
def modRoom (r : Nat) (f : Room → Room) (s : State) : State := { s with rooms := tabMod roomZero s.rooms r f }

/-- The certified count that applies to a task (02 R52, 06 R197, 11 R343). -/
def certified (i : Image) (t : Task) : Nat :=
  if t.v15 then (if t.checked then i.c15chk else i.c15) else (if t.checked then i.c16chk else i.c16)

/-- A number of `n` bytes saturated. -/
def satN (n v : Nat) : Nat := min (2 ^ (8 * n) - 1) v

/-- The completion record of a task (11 R343), for a record at ring entry number `tail` of a ring of 2^log2 entries. -/
def recordBytes (t : Task) (tail log2 : Nat) : List Byte :=
  let fr := match t.fault with
    | some f => f
    | none => ⟨0, 0, 0, 0, 0, 0, 0⟩
  let done := t.state == .completed
  let late := match t.launch with
    | some _ => done && decide (t.launchUp + t.cert ≤ t.endBeat)
    | none => false
  let bit (b : Bool) (k : Nat) : Nat := if b then 2 ^ k else 0
  let flags := bit (phaseOf tail log2) 0 + bit late 1 + bit t.qsat 2 + bit t.checked 3 + bit t.v15 4 + bit t.restarted 5 +
    bit t.fault.isSome 6 + bit t.modeTrans 7 + bit t.qlost 8 + bit t.abortAfter 9
  let cnt (n : Nat) : Nat := if done then satN 4 n else 0
  leBytes 4 (if t.num < 2 ^ 32 then t.num else 2 ^ 32 - 1) ++ leBytes 4 t.seq.toNat ++ leBytes 2 t.status ++ leBytes 2 flags ++
    (match t.launch with
      | some l => leBytes 8 l ++ leBytes 4 (t.endBeat - t.launchUp)
      | none => leBytes 8 (2 ^ 64 - 1) ++ leBytes 4 0) ++
    leBytes 4 (cnt t.counts.nan) ++ leBytes 4 (cnt t.counts.ovf) ++ leBytes 4 (cnt t.counts.sat) ++ leBytes 4 (cnt t.counts.couch) ++
    leBytes 2 fr.code ++ leBytes 2 fr.room ++ leBytes 4 fr.iter ++ leBytes 8 fr.line ++ leBytes 2 fr.op ++ leBytes 1 fr.opc ++
    leBytes 1 (min 255 t.others) ++ leBytes 2 fr.member ++ leBytes 2 0

/-- Write the completion record of the oldest final task of a queue that waits for it, one record at a time and while the ring has a free
entry (11 R335, R342); none for a context that is being destroyed (R347). -/
def tryRecord (q : Nat) (s : State) : State :=
  match queueOf s q with
  | none => s
  | some x =>
    if (ctxOf s x.ctx).state = 2 ∨ s.steward.tasks.any (fun t => t.queue == q && (t.record == .writing || t.record == .acked)) = true ∨
        (x.cplTail + 2 ^ 32 - x.cplHead) % 2 ^ 32 = 2 ^ x.cplLog2 then s
    else match s.steward.tasks.find? (fun t => t.queue == q && t.record == .toWrite) with
      | none => s
      | some t =>
        issueReq (.recordWrite t.num) (writeMsg (x.cplRing + 64 * (x.cplTail % 2 ^ x.cplLog2)) (recordBytes t x.cplTail x.cplLog2))
          (modTask t.num (fun t => { t with record := .writing }) s)

/-- Write the records that wait, queue by queue. -/
def tryRecords : List Nat → State → State
  | [], s => s
  | q :: qs, s => tryRecords qs (tryRecord q s)

/-- No task is launched, and every record that will be written is written (18 R522); a context that is being destroyed has none to come (11 R347). -/
def tasksSettled (s : State) : Bool :=
  s.steward.tasks.all fun t => t.state != .launched &&
    ((ctxOf s t.ctx).state == 2 || (t.record != .toWrite && t.record != .writing && t.record != .acked))

/-- Answer the mailboxes of a list with status 0. -/
def respondAll (status : Nat) : List Nat → State → State
  | [], s => s
  | m :: ms, s => respondAll status ms (respond m status [] s)

/-- The response of a RESET_REQUEST of kind 0x0 or 0x1 follows the records of the tasks that it halted (18 R522). -/
def resetAnswer (s : State) : State :=
  match s.seq.resetReq with
  | some r =>
    if r.answered = false ∧ tasksSettled s = true then
      respondAll 0 r.boxes { s with seq := { s.seq with resetReq := some { r with answered := true } } }
    else s
  | none => s

/-- Take a work item off a queue. -/
def dropWork (q : Nat) (w : Work) (s : State) : State := modQueue q (fun x => { x with work := x.work.erase w }) s

/-- A task becomes final with a state and status, and its record waits to be written (11 R339). That of a completed task is written from the next beat boundary on
(log 94), any other at once. -/
def finishTask (n : Nat) (st : TState) (status : Nat) (s : State) : State :=
  match taskOf s n with
  | none => s
  | some t =>
    let u := dropWork t.queue (.task n) (modTask n (fun t => { t with
      state := st, status := status, endBeat := upBeat s, halting := false, parked := false, record := .toWrite }) s)
    if st = .completed then u else tryRecord t.queue u

/-! Frames of the fabric (13 R385 to R388). -/

/-- The bytes 0x00 to 0x1B of a header. -/
def hdrBytes (h : FrameHdr) : List Byte :=
  leBytes 2 h.dst.toNat ++ leBytes 2 h.src.toNat ++ leBytes 1 h.kind.toNat ++ leBytes 1 h.hops.toNat ++ leBytes 2 h.length.toNat ++
    leBytes 4 h.epoch.toNat ++ leBytes 4 h.tag.toNat ++ leBytes 8 h.task.toNat ++ leBytes 4 h.aux.toNat

/-- A header with its HCRC. -/
def sealHdr (h : FrameHdr) : FrameHdr := { h with hcrc := crc32 (hdrBytes h) }

/-- The SRC field of this engine (13 R385). -/
def srcField (s : State) : BitVec 16 :=
  match s.fabric.addr with
  | some a => BitVec.ofNat 16 a
  | none => 0x8000

/-- A frame of this engine. -/
def makeFrame (dst : BitVec 16) (kind tag task aux : Nat) (payload : List Byte) (s : State) : Frame :=
  ⟨sealHdr ⟨dst, srcField s, BitVec.ofNat 8 kind, 32, BitVec.ofNat 16 payload.length, BitVec.ofNat 32 s.fabric.epoch, BitVec.ofNat 32 tag,
    BitVec.ofNat 64 task, BitVec.ofNat 32 aux, 0⟩, payload⟩

/-- VALID, LOCAL and BUNDLE of a destination entry (13 R388). -/
def entValid (e : BitVec 32) : Bool := e.getLsbD 31

/-- LOCAL of a destination entry. -/
def entLocal (e : BitVec 32) : Bool := e.getLsbD 30

/-- BUNDLE of a destination entry. -/
def entBundle (e : BitVec 32) : Nat := e.toNat / 2 ^ 24 % 32

/-- Where a router keeps the entry of an address: those of management frames are computed apart from those of FLOW (13 R389). -/
def entryKey (kind : BitVec 8) (dst : Nat) : Nat := if kind = 0x20 then dst else 8192 + dst

/-- Put a frame on the bundle its destination entry names; one without a valid entry is discarded (13 R386, R388). -/
def emitFrame (dst : Nat) (f : Frame) (s : State) : State :=
  let e := tabGet 0 s.fabric.routes (entryKey f.hdr.kind dst)
  if entValid e = true ∧ entLocal e = false then { s with fabric := { s.fabric with out := s.fabric.out ++ [(entBundle e, f)] } }
  else if entValid e = true then { s with fabric := { s.fabric with inbox := s.fabric.inbox ++ [(32, f)] } }
  else { s with fabric := { s.fabric with drops := { s.fabric.drops with noRoute := satInc 255 s.fabric.drops.noRoute } } }

/-- Originate an acknowledged management message (13 R387). -/
def sendMgmt (dst kind tag task aux : Nat) (payload : List Byte) (s : State) : State :=
  let f := makeFrame (BitVec.ofNat 16 dst) kind tag task aux payload s
  emitFrame dst f { s with fabric := { s.fabric with unacked := s.fabric.unacked ++ [⟨dst, f, upBeat s, 0⟩] } }

/-- The up bundles. -/
def upBundles (s : State) : List Nat := (s.fabric.bundles.filter fun b => b.2.up).map (·.1)

/-- Send a frame on every up bundle but one. -/
def flood (except : Nat) (f : Frame) (s : State) : State :=
  { s with fabric := { s.fabric with out := s.fabric.out ++ ((upBundles s).filter (· ≠ except)).map fun b => (b, f) } }

/-- The payload of a FAULT frame: the member's fault record (13 R409). The manual does not lay it out (log 22). -/
def faultPayload (f : FaultRec) : List Byte :=
  leBytes 2 f.code ++ leBytes 2 f.room ++ leBytes 4 f.iter ++ leBytes 8 f.line ++ leBytes 2 f.op ++ leBytes 1 f.opc ++ leBytes 2 f.member ++ List.replicate 3 0

/-- Send a message of the task to every other member. -/
def tellMembers (t : Task) (kind aux : Nat) (payload : List Byte) : List MemberSt → State → State
  | [], s => s
  | m :: ms, s =>
    tellMembers t kind aux payload ms
      (if m.member = t.member then s else sendMgmt m.addr kind t.round t.gtask.toNat aux payload s)

/-- The address of the leader of a task (13 R405). -/
def leaderAddr (t : Task) : Nat :=
  match t.members.find? (fun m => m.member == 0) with
  | some m => m.addr
  | none => 0

/-- The fault record of a fault raised outside a room (11 R343). -/
def plainFault (code : Nat) : FaultRec := ⟨code, 0xFFFF, 0, 0, 0, 0, 0⟩

/-- The payload of an ABORT: the first fault the leader took, zeros where there is none (13 R409, log 22). -/
def abortPayload (fr : Option FaultRec) : List Byte := match fr with
  | some f => faultPayload f
  | none => List.replicate 24 0

/-- A launched task stops without telling other members: its rooms issue nothing more (11 R345). -/
def haltQuiet (n status : Nat) (fr : Option FaultRec) (repair : Bool) (s : State) : State :=
  modTask n (fun t => { t with halting := true, haltBeat := upBeat s, status := status, fault := fr.orElse (fun _ => t.fault), repair := repair }) s

/-- A launched task stops: its rooms issue nothing more (11 R345). A first fault or abort fixes its status; the first fault is recorded, a further one is counted (06
R199). A member of a multi-engine task tells its leader, the leader tells every member (13 R409). -/
def haltWith (n status : Nat) (fr : Option FaultRec) (repair : Bool) (s : State) : State :=
  match taskOf s n with
  | none => s
  | some t =>
    if t.state ≠ .launched then s
    else if t.halting then modTask n (fun t => { t with
      fault := t.fault.orElse (fun _ => fr), others := if fr.isSome && t.fault.isSome then satInc 255 t.others else t.others, repair := t.repair || repair }) s
    else
      let u := haltQuiet n status fr repair s
      if t.members.isEmpty then u
      else if t.member = 0 then tellMembers t 0x15 status (abortPayload fr) t.members u
      else
        let f := match fr with
          | some f => f
          | none => plainFault status
        sendMgmt (leaderAddr t) 0x17 t.round t.gtask.toNat status (faultPayload f) u

/-- The same for a fault that this engine records (11 R343: F_MEMBER). -/
def haltTask (n status : Nat) (fr : Option FaultRec) (repair : Bool) (s : State) : State :=
  match taskOf s n with
  | none => s
  | some t => haltWith n status (fr.map fun f => { f with member := t.member }) repair s

/-- Halt the tasks of a list with one code (a fault raised outside a room). -/
def haltAll (code : Nat) (repair : Bool) : List Nat → State → State
  | [], s => s
  | n :: ns, s => haltAll code repair ns (haltTask n code (some (plainFault code)) repair s)

/-- The launched tasks. -/
def launchedTasks (s : State) : List Nat := (s.steward.tasks.filter fun t => t.state == .launched).map (·.num)

/-- May a task of this queue become eligible: a completion entry is free, its context is OK, and the queue is not being destroyed (11 R339). -/
def queueOpen (s : State) (x : Queue) : Bool :=
  (ctxOf s x.ctx).state == 0 && x.closing.isNone && decide ((x.cplTail + 2 ^ 32 - x.cplHead) % 2 ^ 32 ≠ 2 ^ x.cplLog2)

/-- The task at the head of a queue becomes ELIGIBLE when its conditions hold (11 R339). -/
def promoteQueue (q : Nat) (s : State) : State :=
  match queueOf s q with
  | none => s
  | some x =>
    match x.work with
    | .task n :: _ =>
      (match taskOf s n with
        | some t =>
          let waits := match t.waitFence with
            | some f => !t.waitDone && !(fenceOf s f).signalled
            | none => false
          if t.state = .queued ∧ t.parked = false ∧ waits = false ∧ queueOpen s x = true then
            modTask n (fun t => { t with state := .eligible, eligBeat := upBeat s, order := s.steward.elig })
              { s with steward := { s.steward with elig := s.steward.elig + 1 } }
          else s
        | none => s)
    | _ => s

/-- Let every queue's head become eligible. -/
def promoteList : List Nat → State → State
  | [], s => s
  | q :: qs, s => promoteList qs (promoteQueue q s)

/-- Let the head of every queue become eligible where its conditions hold. -/
def promote (s : State) : State := promoteList (s.steward.queues.map (·.id)) s

/-- Write a fence's mirror line (11 R337). -/
def putMirror (f : Nat) (s : State) : State :=
  let x := fenceOf s f
  match x.ctx with
  | some c =>
    if x.mirror = 0 ∨ (ctxOf s c).state = 2 then s
    else porchPut x.mirror 0 (leBytes 4 (if x.signalled then 1 else 0) ++ leBytes 4 x.gen) s
  | none => s

/-- Everything earlier in the task's queue is final, so that the task waits for nothing before it there (11 R339). -/
def atHead (s : State) (t : Task) : Bool :=
  match queueOf s t.queue with
  | some x => x.work.head? == some (.task t.num)
  | none => false

/-- Change a fence to SIGNALLED or UNSIGNALLED: no effect when it is so already; the mirror follows in the same step, and the tasks at the heads of their
queues that wait on a fence that becomes SIGNALLED need not wait further (11 R337 to R339). -/
def setFence (f : Nat) (sig : Bool) (s : State) : State :=
  let x := fenceOf s f
  if x.ctx.isNone ∨ x.signalled = sig then s
  else
    let y := { x with signalled := sig, gen := if sig then (x.gen + 1) % 2 ^ 32 else x.gen }
    let t := { s with steward := { s.steward with
      fences := tabPut fenceZero s.steward.fences f y
      tasks := if sig then s.steward.tasks.map (fun t => if t.waitFence = some f ∧ atHead s t = true then { t with waitDone := true } else t) else s.steward.tasks } }
    promote (putMirror f t)

end Sys2Proof.Machine
end

