-- ==== Sys2Proof/Machine/FabricBase.lean ====
section
/-!
DEFINITION. What the fabric needs below the links: the identity of the engine (00 R8, R9, 10 R312, 13 R394), admission records, and the start of a roll call
(13 R382).
-/
namespace Sys2Proof.Machine

/-- CONFIG_CLASS (00 R8). -/
def configClass (P : Params) : Nat :=
  P.sbPins * 2 ^ 21 + P.hatchChannels * 2 ^ 15 + P.annexSlots * 2 ^ 11 + P.spareRoom * 2 ^ 10 + P.gatehouses * 2 ^ 7 + P.tiers * 2 ^ 4 + (P.halls - 1)

/-- VERSION (00 R9). -/
def versionReg : Nat := 0x00030200

/-- CLASS_HASH (13 R394): the first 8 bytes of SHA-384 over CONFIG_CLASS and VERSION. -/
def classHash (P : Params) : Nat := leVal ((sha384 (leBytes 4 (configClass P) ++ leBytes 4 versionReg)).take 8)

/-- Steward protocol 5 (10 R312). -/
def protocolNo : Nat := 5

/-- The rank that a roll call uses: a committed one takes effect now (13 R390). -/
def rankNow (s : State) : Nat := s.fabric.newRank.getD s.fabric.rank

/-- This engine's admission record (13 R394). -/
def selfRecord (s : State) : AdmRec :=
  ⟨s.steward.serial, versionReg, s.shell.keep.fwVersion, protocolNo, s.steward.fabricSt, rankNow s, s.fabric.addr.getD 0xFFFF, classHash s.params, s.fabric.epoch⟩

/-- The 64 bytes of an admission record (13 R394). -/
def admBytes (r : AdmRec) : List Byte :=
  leBytes 8 r.serial.toNat ++ leBytes 4 r.version ++ leBytes 4 r.fwVersion ++ leBytes 1 r.proto ++ leBytes 1 r.state ++ leBytes 2 r.rank ++
    leBytes 2 r.addr ++ leBytes 2 0 ++ leBytes 8 r.classHash ++ leBytes 4 r.epoch ++ List.replicate 28 0

/-- A field of a payload. -/
def pfld (bs : List Byte) (off n : Nat) : Nat := leVal ((bs.drop off).take n)

/-- The admission record of a ROLL payload. -/
def admOf (bs : List Byte) : AdmRec :=
  ⟨BitVec.ofNat 64 (pfld bs 0 8), pfld bs 8 4, pfld bs 0xC 4, pfld bs 0x10 1, pfld bs 0x11 1, pfld bs 0x12 2, pfld bs 0x14 2, pfld bs 0x18 8, pfld bs 0x20 4⟩

/-- The DST field of a broadcast (13 R385). -/
def bcastDst : BitVec 16 := 0x8000

/-- What stands for the destination of a broadcast among the messages that wait for an ACK: any engine's answers it (13 R387, log 37). -/
def anyAddr : Nat := 8192

/-- Broadcast a frame: it leaves on every up bundle, and waits for an acknowledgement (13 R382, R387). -/
def broadcast (kind tag : Nat) (payload : List Byte) (s : State) : State :=
  let f := makeFrame bcastDst kind tag 0 0 payload s
  let t : State := { s with fabric := { s.fabric with
    bcast := s.fabric.bcast ++ [(BitVec.ofNat 64 (pfld payload 0 8), tag, kind)],
    unacked := if (upBundles s).isEmpty then s.fabric.unacked else s.fabric.unacked ++ [⟨anyAddr, f, upBeat s, 0⟩] } }
  flood 32 f t

/-- Tell the members of a round that it is refused (13 R408). -/
def refuseRound (t : Task) (code : Nat) (s : State) : State :=
  let u := tellMembers t 0x12 code [] t.members s
  finishTask t.num .refused code ({ u with fabric := { u.fabric with refused := u.fabric.refused ++ [(t.gtask, t.round, code)] } })

/-- Take part in roll call `n`: the engine broadcasts its admission record (13 R382). -/
def joinRoll (n : Nat) (s : State) : State :=
  let t : State := { s with fabric := { s.fabric with
    rollSeen := n, rolling := true, lastRoll := upBeat s, rank := rankNow s, newRank := none, records := [selfRecord s], told := [] } }
  broadcast 2 n (admBytes (selfRecord s)) t

/-- Begin a roll call numbered one above the highest seen (13 R382). ROLL_START carries the serial in its first 8 payload bytes (log 37). -/
def startRoll (s : State) : State :=
  joinRoll (s.fabric.rollSeen + 1) (broadcast 1 (s.fabric.rollSeen + 1) (leBytes 8 s.steward.serial.toNat) s)

/-- Change the fabric state. -/
def modFabric (f : Fabric → Fabric) (s : State) : State := { s with fabric := f s.fabric }

/-- The frame has been delivered here and not yet acted on. -/
def inInbox (s : State) (b : Nat) (f : Frame) : Bool := s.fabric.inbox.contains (b, f)

/-- Take the frame out of the inbox. -/
def takeFrame (b : Nat) (f : Frame) (s : State) : State := modFabric (fun x => { x with inbox := x.inbox.erase (b, f) }) s

end Sys2Proof.Machine
end

