-- ==== Sys2Proof/Machine/LinkOps.lean ====
section
/-!
DEFINITION. The link layer (14_links): blocks and levels, the beat frame, bring-up, replay, lane moves, tests.
-/
namespace Sys2Proof.Machine

/-! Ports. -/

/-- The key of a port. -/
def portKey (g p : Nat) : Nat := 32 * g + p

/-- A lane port. -/
def portOf (s : State) (g p : Nat) : Port := tabGet portZero s.links.ports (portKey g p)

/-- Put a lane port. -/
def putPort (g p : Nat) (x : Port) (s : State) : State :=
  { s with links := { s.links with ports := tabPut portZero s.links.ports (portKey g p) x } }

/-- Change a lane port. -/
def modPort (g p : Nat) (f : Port → Port) (s : State) : State := putPort g p (f (portOf s g p)) s

/-- Change the ports of a list of a gatehouse. -/
def modPorts (g : Nat) (f : Nat → Port → Port) : List Nat → State → State
  | [], s => s
  | p :: ps, s => modPorts g f ps (modPort g p (f p) s)

/-- The port exists in the configuration (00 R5, 14 intro). -/
def portThere (s : State) (g p : Nat) : Bool := decide (g < s.params.gatehouses) && decide (p < 26)

/-- The port numbers of a gatehouse. -/
def portNums : List Nat := List.range 26

/-- The port enters a state of 14 R422. -/
def enter (s : State) (st : Nat) (x : Port) : Port := { x with st := st, since := upBeat s }

/-! Levels, precoding and FEC (14 R416 to R418). -/

/-- The 257 bits of a block, bit 0 the type (14 R419). -/
def blockBits : Block → Nat
  | .data bs => leVal (bs.take 32) * 2
  | .beatMark b e l => 1 + 2 * 0x01 + 2 ^ 9 * (b % 2 ^ 40 + e % 4 * 2 ^ 40 + l % 32 * 2 ^ 42)
  | .slotMark b sl bs => 1 + 2 * 0x02 + 2 ^ 9 * (b % 2 ^ 16 + sl % 64 * 2 ^ 16 + leVal (bs.take 24) * 2 ^ 56)
  | .filler => 1 + 2 * 0x03
  | .nak b p l => 1 + 2 * 0x04 + 2 ^ 9 * (b % 2 ^ 16 + p % 1024 * 2 ^ 16 + l % 32 * 2 ^ 26)
  | .replayHead b p l => 1 + 2 * 0x05 + 2 ^ 9 * (b % 2 ^ 16 + p % 1024 * 2 ^ 16 + l % 32 * 2 ^ 26)
  | .swap t l => 1 + 2 * 0x06 + 2 ^ 9 * (t % 2 ^ 40 + l % 32 * 2 ^ 40)
  | .train se g p r q st tx rx =>
    1 + 2 * 0x07 + 2 ^ 9 * (se.toNat + g % 4 * 2 ^ 64 + p % 32 * 2 ^ 66 + r % 8 * 2 ^ 71 + (if q then 2 ^ 74 else 0) + st % 16 * 2 ^ 75 +
      tx % 2 ^ 32 * 2 ^ 79 + rx % 2 ^ 32 * 2 ^ 111)
  | .loop start n => 1 + 2 * 0x08 + 2 ^ 9 * ((if start then 1 else 2) + n % 2 ^ 32 * 4)
  | .bad k => 1 + 2 * (k % 256)

/-- A field of a block's bits. -/
def bfld (v at' n : Nat) : Nat := v / 2 ^ at' % 2 ^ n

/-- Bytes of a block's bits. -/
def bbytes (v at' n : Nat) : List Byte := (List.range n).map fun i => BitVec.ofNat 8 (v / 2 ^ (at' + 8 * i))

/-- The block that 257 received bits are, by type and KIND (14 R419). -/
def readBlock (v : Nat) : Block :=
  if v % 2 = 0 then .data (bbytes v 1 32)
  else match bfld v 1 8 with
    | 0x01 => .beatMark (bfld v 9 40) (bfld v 49 2) (bfld v 51 5)
    | 0x02 => .slotMark (bfld v 9 16) (bfld v 25 6) (bbytes v 65 24)
    | 0x03 => .filler
    | 0x04 => .nak (bfld v 9 16) (bfld v 25 10) (bfld v 35 5)
    | 0x05 => .replayHead (bfld v 9 16) (bfld v 25 10) (bfld v 35 5)
    | 0x06 => .swap (bfld v 9 40) (bfld v 49 5)
    | 0x07 => .train (BitVec.ofNat 64 (v / 2 ^ 9)) (bfld v 73 2) (bfld v 75 5) (bfld v 80 3) (bfld v 83 1 == 1) (bfld v 84 4) (bfld v 88 32) (bfld v 120 32)
    | 0x08 => .loop (bfld v 9 2 == 1) (bfld v 11 32)
    | k => .bad k

/-- The line level of two bits, the earlier the more significant (14 R416). -/
def grayLevel (first second : Bool) : Nat :=
  match first, second with
  | false, false => 0
  | false, true => 1
  | true, true => 2
  | true, false => 3

/-- The precoder of 14 R417: the level sent, given the level before it. -/
def precode (on : Bool) (x y : Nat) : Nat := if on then (x + 4 - y % 4) % 4 else x

/-- The receiver's decoder of 14 R417. -/
def unprecode (on : Bool) (y y' : Nat) : Nat := if on then (y + y') % 4 else y

/-- The bits of a received level: the inverse of the Gray mapping (14 R416). -/
def grayBits (x : Nat) : Bool × Bool := (decide (x = 2 ∨ x = 3), decide (x = 1 ∨ x = 2))

/-- Product in GF(2^10) modulo x^10 + x^3 + 1 (14 R418 by IEEE 802.3, log 23). -/
def gfMul (a b : Nat) : Nat :=
  (List.range 10).foldl (fun acc i =>
    let d := acc * 2
    let d := if 1024 ≤ d then d ^^^ 0x409 else d
    if b.testBit (9 - i) then d ^^^ a else d) 0

/-- The generator polynomial, highest degree first, leading 1 left out: the product of (x + alpha^j) for j from 0 to 29. -/
def rsGen : List Nat :=
  ((List.range 30).foldl (fun (acc : List Nat × Nat) _ =>
    (List.zipWith (fun (a b : Nat) => a ^^^ gfMul acc.2 b) (acc.1 ++ [0]) (0 :: acc.1), gfMul acc.2 2)) ([1], 1)).1.drop 1

/-- The 30 parity symbols of the message symbols, highest degree first (14 R418). -/
def rsParity (msg : List Nat) : List Nat :=
  msg.foldl (fun r m =>
    let fb := m ^^^ r.headD 0
    List.zipWith (fun (a b : Nat) => a ^^^ gfMul fb b) (r.drop 1 ++ [0]) rsGen) (List.replicate 30 0)

/-- The 5,440 line bits of a codeword of 20 blocks, bit 0 first (14 R418, log 23). -/
def codeword (bs : List Block) : Nat :=
  let msg := (bs.zip (List.range 20)).foldl (fun n x => n + blockBits x.1 * 2 ^ (257 * x.2)) 0
  let par := rsParity ((List.range 514).map fun i => msg / 2 ^ (10 * i) % 1024)
  msg + (par.zip (List.range 30)).foldl (fun n x => n + x.1 * 2 ^ (5140 + 10 * x.2)) 0

/-- The levels of one block position of 272 line bits: the word sent to the SerDes, level 0 in bits [1:0], and the last level (19 R542). -/
def levelsOf (pre : Bool) (bits y : Nat) : Nat × Nat :=
  (List.range 136).foldl (fun acc i =>
    let x := precode pre (grayLevel (bits.testBit (2 * i)) (bits.testBit (2 * i + 1))) acc.2
    (acc.1 + x * 4 ^ i, x)) (0, y)

/-- The 20 words of a codeword. -/
def lineWords (pre : Bool) (cw y : Nat) : List (BitVec 272) × Nat :=
  (List.range 20).foldl (fun acc k =>
    let r := levelsOf pre (cw / 2 ^ (272 * k) % 2 ^ 272) acc.2
    (acc.1 ++ [BitVec.ofNat 272 r.1], r.2)) ([], y)

/-! The beat frame (14 R420, R421). Rate 0 is 112 GBd, 1 is 56, 2 is 28. -/

/-- Bnom. -/
def bNom : Nat → Nat
  | 0 => 843
  | 1 => 421
  | _ => 210

/-- Positions of a lane-slot. -/
def lsLen : Nat → Nat
  | 0 => 12
  | 1 => 6
  | _ => 3

/-- Frame bytes of a lane-slot (13 R398). -/
def lsBytes : Nat → Nat
  | 0 => 352
  | 1 => 176
  | _ => 88

/-- Q(s): the first position of lane-slot s. -/
def lsPos (rate sl : Nat) : Nat := 1 + sl * bNom rate / 64

/-- The lane-slot of a position and the offset in it; none for a spare position or position 0. -/
def slotAt (rate pos : Nat) : Option (Nat × Nat) :=
  match (List.range 64).find? (fun sl => decide (lsPos rate sl ≤ pos) && decide (pos < lsPos rate sl + lsLen rate)) with
  | some sl => some (sl, pos - lsPos rate sl)
  | none => none

/-- End of a position in 1/14 tick after its beat's start: one position lasts 272 line bits. -/
def posEnd (rate pos : Nat) : Nat := 17 * 2 ^ (min rate 2) * (pos + 1)

/-! Transmission (14 R420, R426). -/

/-- The port sends blocks: it trains, carries traffic, stands by, tests, or answers a LOOP. -/
def sends (x : Port) : Bool :=
  (x.st == 3 || x.st == 4 || x.st == 5 || x.st == 6 || x.st == 8 || x.test.isSome || !x.loopQ.isEmpty) && !x.idled

/-- The next position is position 0 of a beat. -/
def atBeatStart (s : State) (x : Port) : Bool := x.txPos == 0 || (decide (bNom x.rate ≤ x.txPos) && x.txBeat != beatOf s)

/-- This engine's time in ticks as a port meets it: the beat's start and the positions that the port has sent in the beat, 272 line bits each (14 R423, log 111). -/
def portTicks (s : State) (x : Port) : Nat := s.time.ticks / 1024 * 1024 + 17 * 2 ^ min x.rate 2 * min x.txPos (bNom x.rate) / 14

/-- One position in 1/65,536 tick, cut to whole ones. -/
def posStamp (x : Port) : Nat := 17 * 2 ^ min x.rate 2 * 65536 / 14

/-- When the mark of the present beat leaves: the beat's start and the offset δ, which the rule leaves anywhere within one position, and the transmitter measures (15 R443): a
free value within its bound (log 113). -/
def leaves (s : State) (x : Port) : Int := ((beatOf s * 1024 * 65536 + Config.freeNat s.freeCtr % (posStamp x + 1) : Nat) : Int)

/-- When a mark comes: this engine's time as the port meets it, anywhere within the position (15 R443): a free value within its bound (log 113). -/
def comes (s : State) (x : Port) : Int := ((portTicks s x * 65536 + Config.freeNat s.freeCtr % (posStamp x + 1) : Nat) : Int)

/-- A list of stamps with one more, of which the latest 64 are kept: four periods of STAMPs (log 113). -/
def noteMark (ms : List (Nat × Int)) (beat : Nat) (t : Int) : List (Nat × Int) := (ms ++ [(beat, t)]).drop (ms.length + 1 - 64)

/-- The TRAIN block of a port (14 R419, R423). -/
def trainBlock (s : State) (g p : Nat) (x : Port) : Block :=
  .train s.steward.serial g p x.rates x.preRx x.st (portTicks s x % 2 ^ 32) x.peerEcho

/-- PRBS31 of ITU-T O.150: `n` bits from a register of 31, each the inverse of the sum of the 31st and the 28th before it; the bits, the first lowest, and the register. The
order of the bits in a block is the line's (14 R432, log 24). -/
def prbs (n r : Nat) : Nat × Nat :=
  (List.range n).foldl (fun a i =>
    let b := (a.2 / 2 ^ 30 + a.2 / 2 ^ 27) % 2
    (a.1 + (1 - b) * 2 ^ i, (a.2 * 2 + b) % 2 ^ 31)) (0, r)

/-- The 32 bytes of the next data block of the pattern, and the register after it. -/
def prbsBytes (r : Nat) : List Byte × Nat := let x := prbs 256 r; (bbytes x.1 0 32, x.2)

/-- Bytes padded with zeros to `n`. -/
def padTo (n : Nat) (bs : List Byte) : List Byte := bs.take n ++ List.replicate (n - bs.length) 0

/-- The block of a spare position, by the priority of 14 R426, and the queues after it. -/
def spareBlock (s : State) (g p : Nat) (x : Port) : Block × Port :=
  match x.nakQ with
  | b :: bs => (b, { x with nakQ := bs })
  | [] =>
    match x.swapQ with
    | b :: bs => (b, { x with swapQ := bs })
    | [] =>
      match x.loopQ with
      | b :: bs => (b, { x with loopQ := bs })
      | [] =>
        match x.replayQ with
        | (b :: bs) :: rs =>
          (b, { x with replayQ := if bs.isEmpty then rs else bs :: rs,
                       replays := match b with
                         | .replayHead _ _ _ => satInc 15 x.replays
                         | _ => x.replays })
        | [] :: rs => (.filler, { x with replayQ := rs })
        | [] => if x.st = 6 ∨ x.st = 3 ∨ x.st = 4 then (trainBlock s g p x, x) else (.filler, x)

/-- The data block of a test (14 R432): the pattern, or at the far end the next block to return. -/
def testBlock (x : Port) : Block × Port :=
  match x.test with
  | some q =>
    if q.mbox.isSome then (.data (prbsBytes q.prbsTx).1, { x with test := some { q with prbsTx := (prbsBytes q.prbsTx).2 } })
    else match x.echoQ with
      | b :: bs => (b, { x with echoQ := bs })
      | [] => (.filler, x)
  | none => (.filler, x)

/-- The lane's traffic goes out on this port: it is UP and has sent the BEAT_MARK that names the lane (14 R429, R431). -/
def carries (x : Port) : Bool := x.st == 5 && !x.waitMark

/-- The frame bytes at offset `k` of a lane-slot (14 R419): those of its SLOT_MARK at 0, then 32 in each data block; zeros where no frame reaches. -/
def slotBytes (x : Port) (beat sl k : Nat) : List Byte :=
  let bs := ((x.txq.find? fun e => e.1 == 64 * beat + sl).map (·.2)).getD []
  let f := lsBytes x.rate % 32
  if k = 0 then padTo f bs else padTo 32 (bs.drop (f + 32 * (k - 1)))

/-- The frame bytes that the next position of a port carries; none where it is no position of a lane-slot, or carries no frame. -/
def nextBytes (s : State) (g p : Nat) : List Byte :=
  let x := portOf s g p
  if atBeatStart s x = true ∨ carries x = false then []
  else match slotAt x.rate x.txPos with
    | some (sl, k) => slotBytes x x.txBeat sl k
    | none => []

/-- The block of the next position and the port after choosing it; `bytes` are the frame bytes of the position. Training ports send TRAIN in
every position but position 0; a standby port sends markers and FILLER; a test sends its pattern (log 24). -/
def txBlock (s : State) (g p : Nat) (x : Port) (bytes : List Byte) : Block × Port × Bool :=
  if atBeatStart s x then
    (.beatMark (beatOf s) (if x.txPos = 0 then 0 else x.txPos - (lsPos x.rate 63 + lsLen x.rate)) (if x.st = 5 then x.logical else 0x1F),
      { x with txBeat := beatOf s, txPos := 0, waitMark := false, departs := noteMark x.departs (beatOf s) (leaves s x) }, false)
  else if x.st = 3 ∨ x.st = 4 then (trainBlock s g p x, x, false)
  else
    match slotAt x.rate x.txPos with
    | some (sl, 0) => (.slotMark (x.txBeat % 65536) sl (if carries x then bytes else List.replicate (lsBytes x.rate % 32) 0), x, true)
    | some (_, _) =>
      if carries x then (.data bytes, x, true)
      else if x.st = 8 then let r := testBlock x; (r.1, r.2, false)
      else (.filler, x, false)
    | none => let r := spareBlock s g p x; (r.1, r.2, false)

/-- Record the block sent: the copy kept for replays of the last two beats, and the codeword it fills (14 R418, R427). -/
def recordSent (x : Port) (b : Block) (again : Bool) : Port :=
  let cwB := if x.cwBlocks.isEmpty then x.txBeat else x.cwBeat
  let cwP := if x.cwBlocks.isEmpty then x.txPos else x.cwPos
  let kept := x.sent.filter (fun e => decide (x.txBeat ≤ e.beat + 2)) ++ [⟨x.txBeat, x.txPos, cwB, cwP, b, again⟩]
  let blocks := x.cwBlocks ++ [b]
  if blocks.length < 20 then { x with sent := kept, cwBeat := cwB, cwPos := cwP, cwBlocks := blocks, txPos := x.txPos + 1 }
  else
    let w := lineWords x.preTx (codeword blocks) x.txLevel
    { x with sent := kept, cwBeat := cwB, cwPos := cwP, cwBlocks := [], line := w.1, txLevel := w.2, txPos := x.txPos + 1 }

/-! What a slot carries (13 R388, R397, R398, R400). -/

/-- The UP ports of a gatehouse in a bundle. -/
def bundlePorts (s : State) (g b : Nat) : List Nat := portNums.filter fun p => (portOf s g p).st == 5 && (portOf s g p).bundle == b

/-- The bytes of a frame on a bundle. -/
def frameBytesOf (f : Frame) : List Byte := hdrBytes f.hdr ++ leBytes 4 f.hdr.hcrc.toNat ++ f.payload

/-- What a frame travels with: management traffic, or the claims of its task and flow. -/
def classOf (f : Frame) : BitVec 64 × Nat := if f.hdr.kind = 0x20 then (f.hdr.task, f.hdr.tag.toNat + 1) else (0, 0)

/-- The claim of a live task of this engine that holds a slot of a bundle in a beat, as its class; management traffic where none does, and in slots 15, 31, 47 and 63
(13 R397, R400). -/
def slotClass (s : State) (b beat sl : Nat) : BitVec 64 × Nat :=
  ((s.steward.tasks.filter fun t => t.state == .launched && !t.members.isEmpty && sl % 16 != 15).findSome? fun t =>
    match imageOf s t, t.launch with
    | some i, some l => (i.claims.find? fun c => c.member == t.member && c.bundle == b && decide (c.slot ≤ sl) && decide (sl < c.slot + c.count) &&
        decide (l + c.first ≤ beat) && decide (beat ≤ l + c.last)).map fun c => (t.gtask, c.flow + 1)
    | _, _ => none).getD (0, 0)

/-- The lanes that carry a frame on a bundle with lanes `all`: LANES of its destination entry; every lane for a broadcast and for DRAIN (13 R388). -/
def lanesOf (s : State) (b all : Nat) (f : Frame) : Nat :=
  let e := tabGet 0 s.fabric.routes (entryKey f.hdr.kind (f.hdr.dst.toNat % 2 ^ 13))
  let m := e.toNat % 2 ^ 24 &&& all
  if f.hdr.dst.getLsbD 15 = true ∨ f.hdr.kind = 6 ∨ entBundle e ≠ b ∨ m = 0 then all else m

/-- Frames begun when `n` bytes of a slot are left for them. -/
def begun : Nat → List Frame → Nat
  | _, [] => 0
  | 0, _ => 0
  | n + 1, f :: fs => 1 + begun (n + 1 - (frameBytesOf f).length) fs

/-- Remove the first `n` frames of a bundle and a class. -/
def dropFrames (b : Nat) (cl : BitVec 64 × Nat) : Nat → List (Nat × Frame) → List (Nat × Frame)
  | 0, es => es
  | _, [] => []
  | n + 1, e :: es => if e.1 = b ∧ classOf e.2 = cl then dropFrames b cl n es else e :: dropFrames b cl (n + 1) es

/-- Give the lane-slots of a slot to the ports of a list: each its part of the bytes, in ascending lane order. -/
def giveBytes (g n len : Nat) : List Nat → List Byte → State → State
  | [], _, s => s
  | p :: ps, bs, s => giveBytes g n len ps (bs.drop len) (modPort g p (fun x => { x with txq := x.txq ++ [(n, bs.take len)] }) s)

/-- Insert by ascending key. -/
def insBy {α : Type} (key : α → Nat) (x : α) : List α → List α
  | [] => [x]
  | y :: ys => if key x ≤ key y then x :: y :: ys else y :: insBy key x ys

/-- Sort by ascending key. -/
def sortBy {α : Type} (key : α → Nat) (xs : List α) : List α := xs.foldr (insBy key) []

/-- The mask of the logical lanes of a bundle's ports. -/
def laneMask (s : State) (g b : Nat) : Nat := ((bundlePorts s g b).map fun p => 2 ^ (portOf s g p).logical).sum

/-- Cut the frames that wait for a slot into its lane-slots (13 R398): what is left of the frame begun before goes first, then the frames of the slot's class that share its
lanes, lane after lane, and what does not fit waits for the next slot of the class. -/
def cutSlot (g b beat sl : Nat) (s : State) : State :=
  let cl := slotClass s b beat sl
  let all := laneMask s g b
  let old := s.fabric.tails.find? fun t => t.bundle == b && t.gtask == cl.1 && t.flow == cl.2
  let fs := (s.fabric.out.filter fun e => e.1 == b && classOf e.2 == cl).map (·.2)
  let lanes := match old with
    | some t => t.lanes
    | none => (fs.head?.map (lanesOf s b all)).getD all
  let ps := sortBy (fun p => (portOf s g p).logical) ((bundlePorts s g b).filter fun p => lanes.testBit (portOf s g p).logical)
  let len := match ps with
    | p :: _ => lsBytes (portOf s g p).rate
    | [] => 0
  let first := (old.map (·.bytes)).getD []
  let can := fs.takeWhile fun f => lanesOf s b all f == lanes
  let k := begun (ps.length * len - first.length) can
  let bs := first ++ (can.take k).flatMap frameBytesOf
  let rest := bs.drop (ps.length * len)
  giveBytes g (64 * beat + sl) len ps bs { s with fabric := { s.fabric with
    out := dropFrames b cl k s.fabric.out,
    tails := s.fabric.tails.filter (fun t => some t != old) ++ (if rest.isEmpty then [] else [⟨b, cl.1, cl.2, lanes, rest⟩]) } }

/-- A slot's bytes have been cut, for this port or another of the bundle. -/
def slotCut (s : State) (g b n : Nat) : Bool := (bundlePorts s g b).any fun p => (portOf s g p).txq.any fun e => decide (n ≤ e.1)

/-- The lane-slot that the port's next position begins, if the lane carries traffic. -/
def slotBegins (s : State) (x : Port) : Option Nat :=
  if atBeatStart s x = true ∨ carries x = false then none
  else match slotAt x.rate x.txPos with
    | some (sl, 0) => some sl
    | _ => none

/-- The first lane of a bundle to begin a slot has it cut; what the port held for earlier slots is gone. -/
def beginSlot (g p : Nat) (s : State) : State :=
  let x := portOf s g p
  match slotBegins s x with
  | none => s
  | some sl =>
    let n := 64 * x.txBeat + sl
    let t := if slotCut s g x.bundle n then s else cutSlot g x.bundle x.txBeat sl s
    modPort g p (fun x => { x with txq := x.txq.filter fun e => decide (n ≤ e.1) }) t

/-- BLOCK_TRANSMIT is due: the port sends, the beat that its next position needs has begun (14 R421), and `bytes` are the frame bytes of the position. -/
def blockTransmitReady (s : State) (g p : Nat) (bytes : List Byte) : Bool :=
  sends (portOf s g p) && (atBeatStart s (portOf s g p) || decide ((portOf s g p).txPos ≤ bNom (portOf s g p).rate)) && bytes == nextBytes (beginSlot g p s) g p

/-- The effect of BLOCK_TRANSMIT (14 R426). -/
def blockTransmitEff (s : State) (g p : Nat) (bytes : List Byte) : State :=
  let t := beginSlot g p s
  let r := txBlock t g p (portOf t g p) bytes
  putPort g p (recordSent r.2.1 r.1 r.2.2) { t with freeCtr := t.freeCtr + 1 }

/-- BLOCK_TRANSMIT (14 R426). -/
def execBlockTransmit (g p : Nat) (bytes : List Byte) (s : State) : Host.Outcome State Fault Refusal :=
  dueAt (portThere s g p) (blockTransmitReady s g p bytes) s (blockTransmitEff s g p bytes)

/-! Reception. -/

/-- A lane-slot is whole: every position of it has arrived good (14 R425). -/
def lsWhole (x : Port) (y : RxSlot) : Bool := (List.range (lsLen x.rate)).all fun k => y.got.any fun e => e.1 == k

/-- The bytes of a lane-slot. -/
def lsData (x : Port) (y : RxSlot) : List Byte := ((List.range (lsLen x.rate)).map fun k => tabGet [] y.got k).flatten

/-- The lane-slot numbered 64 × beat + slot. -/
def rxFind (x : Port) (n : Nat) : Option RxSlot := x.rxSlots.find? fun y => 64 * y.beat + y.slot == n

/-- Deliver lane-slots in order while the next one is whole (14 R425). -/
def deliver : Nat → Port → Port
  | 0, x => x
  | k + 1, x =>
    match x.nextLs with
    | none => x
    | some n =>
      match rxFind x n with
      | none => x
      | some y =>
        if lsWhole x y then
          deliver k { x with delivered := x.delivered ++ [(n, lsData x y)], rxSlots := x.rxSlots.filter (fun z => 64 * z.beat + z.slot != n), nextLs := some (n + 1) }
        else x

/-- Put the bytes of position offset `k` of a lane-slot, unless it is delivered or lost or the position is already good (14 R425, R428). -/
def rxPut (x : Port) (beat sl k : Nat) (bs : List Byte) : Port :=
  let n := 64 * beat + sl
  match x.nextLs with
  | none => x
  | some m =>
    if n < m then x
    else
      let y := match rxFind x n with
        | some y => y
        | none => ⟨beat, sl, []⟩
      if y.got.any (fun e => e.1 == k) then x
      else
        let z := { x with rxSlots := x.rxSlots.filter (fun z => 64 * z.beat + z.slot != n) ++ [{ y with got := tabPut [] y.got k bs }] }
        deliver (z.rxSlots.length) z

/-- Move past one block position; a lost position 0 is taken to be where the nominal count puts it (log 25). -/
def rxNext (x : Port) (markLost : Bool) : Port :=
  if markLost = true ∧ bNom x.rate ≤ x.rxPos then { x with rxBeat := x.rxBeat + 1, rxPos := 1 } else { x with rxPos := x.rxPos + 1 }

/-- The checker of a test passes over a data block that was damaged (14 R433). -/
def skipTest (x : Port) : Port :=
  match x.test, slotAt x.rate x.rxPos with
  | some q, some (_, _ + 1) => { x with test := some { q with prbsRx := (prbsBytes q.prbsRx).2 } }
  | _, _ => x

/-- A damaged block: at a spare position of a replay it is one of the replay's, which is not sent again (14 R427). -/
def rxDamaged (x : Port) : Port :=
  let y := if (slotAt x.rate x.rxPos).isNone then { x with replay := x.replay.map fun r => { r with left := r.left.drop 1 } } else skipTest x
  rxNext y true

/-- Act on the leading received blocks that need no step of their own: damaged blocks, FILLER, and blocks of a reserved kind, which are counted and
treated as damaged (14 R418, R419). -/
def rxSettle : List RxItem → Port → Port
  | [], x => { x with rxq := [] }
  | .damaged :: is, x => rxSettle is (rxDamaged x)
  | .good .filler :: is, x => rxSettle is (rxNext x false)
  | .good (.bad _) :: is, x => rxSettle is (rxDamaged { x with badBlocks := satInc 15 x.badBlocks })
  | .good b :: is, x => { x with rxq := .good b :: is }

/-- The first received block waiting is this one. -/
def rxHead (x : Port) (b : Block) : Bool :=
  match x.rxq with
  | .good c :: _ => c == b
  | _ => false

/-- Take the first received block off. -/
def rxPop (x : Port) : Port := rxSettle (x.rxq.drop 1) (rxNext x false)

/-- CODEWORD_DECODE is due: the port has acted on every block of the codeword before. A port receives in every state but ADAPT: in DISABLED, DETECT and FAILED a LOOP can
reach it (14 R432). -/
def codewordReady (s : State) (g p : Nat) (blocks : List Block) : Bool :=
  let x := portOf s g p
  x.st != 2 && x.rxq.isEmpty && blocks.length == 20

/-- A test counts a codeword: symbols corrected, or one that cannot be (14 R433). -/
def testCount (errors : Nat) (q : LinkTst) : LinkTst := if errors ≤ 15 then { q with fixed := q.fixed + errors } else { q with unc := q.unc + 1 }

/-- The codeword's name in a NAK: beat and position of its first block, a lost position 0 taken where the nominal count puts it (14 R426, log 25). -/
def nakName (x : Port) : Nat × Nat := if bNom x.rate ≤ x.rxPos then (x.rxBeat + 1, 0) else (x.rxBeat, x.rxPos)

/-- The effect of CODEWORD_DECODE. `blocks` are those of the codeword that was sent, and `errors` the symbols that differ in what the lane delivered: the code, of distance 31, gives
the blocks back for up to 15, which are corrected and counted, and the receiver parses their 257 bits. More damage every block, and two NAKs are queued for the reverse
direction (14 R418, R419, R426, log 23). -/
def codewordEff (s : State) (g p errors : Nat) (blocks : List Block) : State :=
  let x := { portOf s g p with test := (portOf s g p).test.map (testCount errors) }
  if errors ≤ 15 then
    putPort g p (rxSettle (blocks.map fun b => .good (readBlock (blockBits b))) { x with
      corrected := satAdd (2 ^ 32 - 1) x.corrected errors, consecBad := 0, locked := true }) s
  else
    let nak := Block.nak ((nakName x).1 % 65536) ((nakName x).2 % 1024) x.rxLane
    putPort g p (rxSettle (blocks.map fun _ => .damaged) { x with
      uncorr := satInc 65535 x.uncorr, consecBad := x.consecBad + 1, goodTrain := 0,
      nakQ := if x.st = 5 ∧ x.rxLane ≠ 0x1F then x.nakQ ++ [nak, nak] else x.nakQ }) s

/-- CODEWORD_DECODE (14 R418). -/
def execCodewordDecode (g p errors : Nat) (blocks : List Block) (s : State) : Host.Outcome State Fault Refusal :=
  dueAt (portThere s g p) (codewordReady s g p blocks) s (codewordEff s g p errors blocks)

/-- The lane-slots that a list of ports has delivered of slot `n`, in ascending lane order. -/
def slotChunks (s : State) (g n : Nat) (ps : List Nat) : List (Nat × List Byte) := ps.filterMap fun p => (portOf s g p).delivered.find? fun d => d.1 == n

/-- Lane-slots that the router still holds beside newer ones: those of the last two beats (14 R425, 13 R399). -/
def recent (cs : List (Nat × List Byte)) : List (Nat × List Byte) :=
  let top := (cs.map (·.1)).foldl max 0
  cs.filter fun c => decide (top < c.1 + 128)

/-- The router takes the slots of a bundle that every lane has delivered or lost, slot after slot, and their lane-slots in ascending lane order; a lost one is missing (14 R425,
R428). -/
def takeSlots (g b : Nat) (s : State) : State :=
  let ps := bundlePorts s g b
  let done (n : Nat) : Bool := ps.all fun p => (portOf s g p).delivered.any (fun d => d.1 == n) || (portOf s g p).lostLs.contains n
  let ns := sortBy (fun n => n) (((ps.flatMap fun p => (portOf s g p).delivered.map (·.1) ++ (portOf s g p).lostLs).eraseDups).filter done)
  let order := sortBy (fun p => (portOf s g p).rxLane) ps
  let new := ns.flatMap fun n => slotChunks s g n order
  modPorts g (fun _ x => { x with delivered := x.delivered.filter (fun d => !done d.1), lostLs := x.lostLs.filter (fun n => !done n) }) ps
    { s with fabric := { s.fabric with arrived := tabPut [] s.fabric.arrived b (recent (tabGet [] s.fabric.arrived b ++ new)) } }

/-- The peer of a port. -/
def peerOf (x : Port) : BitVec 64 × Nat := (x.peerSerial, x.peerGate)

/-- The port of the gatehouse that receives a lane of the peer of port `p` (14 R424: each end numbers its own lanes). -/
def rxPortOf (s : State) (g p lane : Nat) : Option Nat :=
  portNums.find? fun q => (portOf s g q).rxLane == lane && lane != 0x1F && peerOf (portOf s g q) == peerOf (portOf s g p)

/-- The effect of BEAT_MARK: the receiver's beat and position, and which port carries the lane; a lane that appears on another port brings its waiting
lane-slots along (14 R420, R421, R429). Where the peer announced the move, the old port's lane-slots of earlier beats still count there (R431). -/
def beatMarkEff (s : State) (g p beat prevEnd lane : Nat) : State :=
  let x := portOf s g p
  let old := match rxPortOf s g p lane with
    | some q => if q = p then none else some q
    | none => none
  let told := s.links.rxSwaps.any fun w => w.gate == g && w.lane == lane && decide (w.target ≤ beat)
  let t := match old with
    | some q =>
      let y := portOf s g q
      putPort g q { y with rxLane := 0x1F, rxSlots := [], nextLs := none, delivered := [], lostLs := [], rxVia := if told then some p else none }
        (putPort g p { x with rxSlots := y.rxSlots, nextLs := y.nextLs, delivered := y.delivered, lostLs := y.lostLs } s)
    | none => s
  let u := modPort g p (fun x => rxPop { x with
    rxBeat := beat, rxPos := 0, rxPrevEnd := prevEnd, rxLane := lane, markBeat := upBeat s, rxVia := none, replay := none, arrives := noteMark x.arrives beat (comes s x),
    nextLs := if lane = 0x1F then none else match x.nextLs with
      | some n => some n
      | none => some (64 * beat) }) t
  { u with
    freeCtr := u.freeCtr + 1
    links := { u.links with rxSwaps := u.links.rxSwaps.filter fun w => !(w.gate == g && w.lane == lane && decide (w.target ≤ beat)) } }

/-- BEAT_MARK (14 R420). -/
def execBeatMark (g p beat prevEnd lane : Nat) (s : State) : Host.Outcome State Fault Refusal :=
  dueAt (portThere s g p) (rxHead (portOf s g p) (.beatMark beat prevEnd lane)) s (beatMarkEff s g p beat prevEnd lane)

/-- The full beat number whose low 16 bits are `low`, nearest the receiver's. -/
def beatNear (x : Port) (low : Nat) : Nat :=
  let b := x.rxBeat / 65536 * 65536 + low
  if x.rxBeat + 32768 < b ∧ 65536 ≤ b then b - 65536 else if b + 32768 < x.rxBeat then b + 65536 else b

/-- Put the bytes of a lane-slot's position at the port that receives the lane of port `p` (14 R425, R431). -/
def putLane (g p beat sl k : Nat) (bytes : List Byte) (s : State) : State :=
  let q := (portOf s g p).rxVia.getD p
  takeSlots g (portOf s g q).bundle (modPort g q (fun x => rxPut x beat sl k bytes) s)

/-- A block of a replay comes at a spare position: it goes to the next position that the replay carries (14 R428); a position before the codeword's first lies in the next
beat. -/
def putReplay (g p : Nat) (bytes : List Byte) (s : State) : State :=
  match (portOf s g p).replay with
  | none => s
  | some r =>
    match r.left with
    | [] => s
    | q :: qs =>
      let t := modPort g p (fun x => { x with replay := some { r with left := qs } }) s
      match slotAt (portOf t g r.port).rate q with
      | some (sl, k) => takeSlots g (portOf t g r.port).bundle
          (modPort g r.port (fun x => rxPut x (if q < r.first then r.beat + 1 else r.beat) sl k bytes) t)
      | none => t

/-- The effect of SLOT_MARK: a lane-slot begins; one of an earlier lane-slot is part of a replay (14 R420, R428). -/
def slotMarkEff (s : State) (g p low sl : Nat) (bytes : List Byte) : State :=
  let x := portOf s g p
  let b := beatNear x low
  if b < x.rxBeat ∨ (b = x.rxBeat ∧ lsPos x.rate sl < x.rxPos) then putReplay g p bytes (modPort g p rxPop s)
  else putLane g p b sl 0 (bytes.take (lsBytes x.rate % 32)) (putPort g p (rxPop { x with rxBeat := b, rxPos := lsPos x.rate sl }) s)

/-- SLOT_MARK (14 R420). -/
def execSlotMark (g p beat slot : Nat) (bytes : List Byte) (s : State) : Host.Outcome State Fault Refusal :=
  dueAt (portThere s g p) (rxHead (portOf s g p) (.slotMark beat slot bytes)) s (slotMarkEff s g p beat slot bytes)

/-- A data block in a test (14 R432, R433): checked against the pattern, or at the far end kept to be returned. -/
def testData (bytes : List Byte) (x : Port) : Port :=
  match x.test with
  | some q =>
    if q.mbox.isSome then
      let r := prbsBytes q.prbsRx
      { x with test := some { q with prbsRx := r.2, blocks := q.blocks + 1, bad := if r.1 = bytes then q.bad else q.bad + 1 } }
    else { x with echoQ := x.echoQ ++ [.data bytes] }
  | none => x

/-- The effect of a data block: the frame bytes of its position; at a spare position it belongs to a replay (14 R419, R428). -/
def dataBlockEff (s : State) (g p : Nat) (bytes : List Byte) : State :=
  let x := portOf s g p
  if x.st = 8 then modPort g p (fun x => rxPop (testData bytes x)) s
  else match slotAt x.rate x.rxPos with
  | some (sl, k) => putLane g p x.rxBeat sl k bytes (modPort g p rxPop s)
  | none => putReplay g p bytes (modPort g p rxPop s)

/-- DATA_BLOCK (14 R419). -/
def execDataBlock (g p : Nat) (bytes : List Byte) (s : State) : Host.Outcome State Fault Refusal :=
  dueAt (portThere s g p) (rxHead (portOf s g p) (.data bytes)) s (dataBlockEff s g p bytes)

/-! Replay (14 R427, R428). -/

/-- The port that sends a logical lane. -/
def txPortOf (s : State) (g lane : Nat) : Option Nat := portNums.find? fun p => (portOf s g p).logical == lane && (portOf s g p).st == 5

/-- The spare positions of two beats from the transmitter's next position on. -/
def spareAhead (x : Port) : List Nat :=
  ((List.range (2 * bNom x.rate)).map (· + x.txPos)).filter fun q => q % bNom x.rate != 0 && (slotAt x.rate (q % bNom x.rate)).isNone

/-- The earliest deadline of the lane-slots that blocks touch, in 1/14 tick (14 R425). -/
def replayDeadline (x : Port) (es : List SentBlk) : Option Nat :=
  ((es.filterMap fun e => match slotAt x.rate e.pos with
    | some (sl, _) => some (14 * (1024 * e.beat + 16 * sl + 640))
    | none => none)).min?

/-- The replay of a codeword may be sent: its last block leaves by the deadline less L1 (14 R427). -/
def replayInTime (x : Port) (es : List SentBlk) : Bool :=
  let waiting := x.nakQ.length + x.swapQ.length + x.loopQ.length + (x.replayQ.map (·.length)).sum + es.length
  match (spareAhead x)[waiting]?, replayDeadline x es with
  | some q, some d => decide (14 * 1024 * x.txBeat + posEnd x.rate q + 14 * x.l1 ≤ d)
  | _, _ => false

/-- The effect of a NAK (a codeword of the last two beats is known by the NAK that named it): on the first one for a codeword of the lane its replay is queued, if it can arrive in time (14 R427). -/
def nakEff (s : State) (g p beat position lane : Nat) : State :=
  let t := modPort g p rxPop s
  match txPortOf t g lane with
  | none => t
  | some q =>
    let x := portOf t g q
    if x.nakSeen.contains (beat, position) then t
    else
      let live := x.nakSeen.filter fun n => x.sent.any fun e => e.cwBeat % 65536 == n.1 && e.cwPos == n.2
      let es := x.sent.filter fun e => e.cwBeat % 65536 == beat && e.cwPos == position && e.again
      let x := { x with nakSeen := (beat, position) :: live }
      if es.isEmpty = false ∧ replayInTime x es = true then
        putPort g q { x with replayQ := x.replayQ ++ [.replayHead beat position lane :: es.map (·.block)] } t
      else putPort g q x t

/-- NAK (14 R427). -/
def execNak (g p beat position lane : Nat) (s : State) : Host.Outcome State Fault Refusal :=
  dueAt (portThere s g p) (rxHead (portOf s g p) (.nak beat position lane)) s (nakEff s g p beat position lane)

/-- The effect of a REPLAY_HEAD: the blocks that follow it in the spare positions belong at the positions that `blocks` names, those of the codeword's SLOT_MARK and data blocks
(14 R427, R428). -/
def replayHeadEff (s : State) (g p beat position lane : Nat) (blocks : List (Nat × Block)) : State :=
  let t := modPort g p rxPop s
  match rxPortOf t g p lane with
  | none => t
  | some q => modPort g p (fun x => { x with replay := some ⟨q, beatNear x beat, position, blocks.map (·.1)⟩ }) t

/-- REPLAY_HEAD (14 R428). -/
def execReplayHead (g p beat position lane : Nat) (blocks : List (Nat × Block)) (s : State) : Host.Outcome State Fault Refusal :=
  dueAt (portThere s g p) (rxHead (portOf s g p) (.replayHead beat position lane)) s (replayHeadEff s g p beat position lane blocks)

/-- LANE_SLOT_DEADLINE is due: the lane-slot is the next of the lane and is not whole, and tick 16 × slot + 640 of its beat has come by this engine's time (14 R425,
log 69). -/
def deadlineReady (s : State) (g p beat slot : Nat) : Bool :=
  (portOf s g p).nextLs == some (64 * beat + slot) && decide (1024 * beat + 16 * slot + 640 ≤ s.time.ticks)

/-- The effect of LANE_SLOT_DEADLINE: the lane-slot is lost and counted, those behind it are released (14 R425, R436). -/
def deadlineEff (s : State) (g p beat slot : Nat) : State :=
  let n := 64 * beat + slot
  takeSlots g (portOf s g p).bundle (modPort g p (fun x =>
    deliver x.rxSlots.length { x with
      slotsLost := satInc 255 x.slotsLost, lostLs := x.lostLs ++ [n], nextLs := some (n + 1),
      rxSlots := x.rxSlots.filter fun z => 64 * z.beat + z.slot != n }) s)

/-- LANE_SLOT_DEADLINE (14 R425). -/
def execLaneSlotDeadline (g p beat slot : Nat) (s : State) : Host.Outcome State Fault Refusal :=
  dueAt (portThere s g p) (deadlineReady s g p beat slot) s (deadlineEff s g p beat slot)

/-- The latency of a bundle for 13 R399: the largest L1 of its lanes plus the lane-slot offset of 14 R420, at most 10 ticks (log 27). -/
def bundleLatency (s : State) (g b : Nat) : Nat := ((bundlePorts s g b).map fun p => (portOf s g p).l1).foldl max 0 + 10

/-! Lane moves without loss (14 R431). -/

/-- Begin a move of a lane to a standby port: SWAP on both ports, at least 8 beats ahead. -/
def startSwap (g lane old new : Nat) (s : State) : State :=
  let t := beatOf s + 8
  modPorts g (fun _ x => { x with swapQ := x.swapQ ++ [.swap t lane] }) [old, new]
    { s with links := { s.links with swaps := s.links.swaps ++ [⟨g, lane, old, new, t⟩] } }

/-- The effect of a SWAP block: the receiver knows that the lane moves (14 R431). -/
def swapEff (s : State) (g p target lane : Nat) : State :=
  let t := modPort g p rxPop s
  match rxPortOf t g p lane with
  | some q => if t.links.rxSwaps.any (fun w => w.gate == g && w.lane == lane && w.target == target) then t
    else { t with links := { t.links with rxSwaps := t.links.rxSwaps ++ [⟨g, lane, q, p, target⟩] } }
  | none => t

/-- SWAP (14 R431). -/
def execSwap (g p target lane : Nat) (s : State) : Host.Outcome State Fault Refusal :=
  dueAt (portThere s g p) (rxHead (portOf s g p) (.swap target lane)) s (swapEff s g p target lane)

/-- The move of a lane whose target beat has begun. -/
def swapDue (s : State) (g lane : Nat) : Option LaneSwap :=
  s.links.swaps.find? fun w => w.gate == g && w.lane == lane && decide (w.target ≤ beatOf s)

/-- Port `y` takes over what port `x` carried: the lane from its next BEAT_MARK on, the blocks kept of the lane and its replays (14 R427, R429, R431). -/
def takeLane (x y : Port) : Port :=
  { y with logical := x.logical, bundle := x.bundle, waitMark := true, sent := x.sent, replayQ := x.replayQ, nakSeen := x.nakSeen, txq := [] }

/-- LAT_EXCESS of the ports of a bundle follows from its latency (14 R435, 13 R399): those UP, and those that stand by for it. -/
def markLatency (g b : Nat) (lat : Nat) (s : State) : State :=
  modPorts g (fun _ y => { y with latExcess := decide (640 < lat) }) (portNums.filter fun p => ((portOf s g p).st == 5 || (portOf s g p).st == 6) && (portOf s g p).bundle == b) s

/-- A bundle's latency is measured anew after one of its lanes moved to another port (14 R415). -/
def moveLatency (g b : Nat) (s : State) : State :=
  let lat := bundleLatency s g b
  markLatency g b lat { s with fabric := { s.fabric with bundles := tabMod bundleZero s.fabric.bundles b fun y => { y with latency := lat } } }

/-- The effect of SWAP_TARGET: the standby port carries the lane, the old port stands by (14 R431). -/
def swapTargetEff (s : State) (g lane : Nat) : State :=
  match swapDue s g lane with
  | none => s
  | some w =>
    let b := (portOf s g w.old).bundle
    moveLatency g b (modPort g w.old (fun x => enter s 6 { x with logical := 0x1F, sent := [], replayQ := [], nakSeen := [], txq := [] })
      (modPort g w.new (fun y => enter s 5 (takeLane { portOf s g w.old with logical := lane } y))
        { s with links := { s.links with swaps := s.links.swaps.filter (· ≠ w) } }))

/-- SWAP_TARGET (14 R431). -/
def execSwapTarget (g lane : Nat) (s : State) : Host.Outcome State Fault Refusal :=
  dueAt (decide (g < s.params.gatehouses)) (swapDue s g lane).isSome s (swapTargetEff s g lane)

/-! Bring-up (14 R422 to R424). -/

/-- The peers of the measured ports, in the order of their lowest port, at most 8 (14 R424). -/
def peersOf (s : State) (g : Nat) : List (BitVec 64 × Nat) :=
  ((portNums.filter fun p => (portOf s g p).measured).map fun p => peerOf (portOf s g p)).eraseDups

/-- The measured ports of a peer. -/
def portsOfPeer (s : State) (g : Nat) (q : BitVec 64 × Nat) : List Nat :=
  portNums.filter fun p => (portOf s g p).measured && peerOf (portOf s g p) == q

/-- The rate of a bundle: that of most of its ports, the higher on a tie (14 R424). -/
def majorityRate (s : State) (g : Nat) (ps : List Nat) : Nat :=
  let n (r : Nat) : Nat := (ps.filter fun p => (portOf s g p).rate == r).length
  if n 1 ≤ n 0 ∧ n 2 ≤ n 0 then 0 else if n 2 ≤ n 1 then 1 else 2

/-- Ports of a bundle that run at another rate retrain at the bundle's. -/
def alignRates (g : Nat) : List (BitVec 64 × Nat) → State → State
  | [], s => s
  | q :: qs, s =>
    let ps := portsOfPeer s g q
    let r := majorityRate s g ps
    alignRates g qs (modPorts g (fun _ x => if x.rate = r then x else enter s 2 { x with rate := r, measured := false, logical := 0x1F, held := true }) ps s)

/-- The bundle of a measured port: 8 × g + k for the k-th of the formed peers (13 R380). -/
def bundleOf (s : State) (g p : Nat) : Option Nat :=
  match ((peersOf s g).take 8).findIdx? (fun q => q == peerOf (portOf s g p)) with
  | some k => some (8 * g + k)
  | none => none

/-- Give logical lanes 0 to 23 to the measured ports of formed bundles in ascending order; later ones stand by; ports of a ninth peer are disabled
(14 R424). -/
def giveLanes (g : Nat) (bund : Nat → Option Nat) : List Nat → Nat → State → State
  | [], _, s => s
  | p :: ps, n, s =>
    match bund p with
    | none => giveLanes g bund ps n (modPort g p (fun x => enter s 0 { x with logical := 0x1F, measured := false })
        { s with health := { s.health with bundleExcess := true } })
    | some b =>
      if n < 24 then giveLanes g bund ps (n + 1) (modPort g p (fun x => enter s 5 { x with logical := n, bundle := b }) s)
      else giveLanes g bund ps n (modPort g p (fun x => enter s 6 { x with logical := 0x1F, bundle := b }) s)

/-- A port of the gatehouse adapts, locks, or measures. -/
def stillTrains (s : State) (g : Nat) : Bool :=
  portNums.any fun p => (portOf s g p).st == 2 || (portOf s g p).st == 3 || ((portOf s g p).st == 4 && !(portOf s g p).measured)

/-- Give lanes to the measured ports of a gatehouse. -/
def placeAll (g : Nat) (s : State) : State := giveLanes g (bundleOf s g) (portNums.filter fun p => (portOf s g p).measured) 0 s

/-- While a gatehouse trains, its measured ports wait in MEASURE until every other has been measured or has failed, so that the peers and the rates of all are known; then ports at
another rate than their bundle's retrain, and with none left lanes are given (14 R424, log 112). -/
def settleTraining (g : Nat) (s : State) : State :=
  if (tabGet none s.links.training g).isSome = true ∧ stillTrains s g = false ∧ (portNums.any fun p => (portOf s g p).st == 4) = true then
    let t := alignRates g ((peersOf s g).take 8) s
    if stillTrains t g then t else placeAll g t
  else s

/-- The lowest logical lane that no port of the gatehouse carries. -/
def freeLane (s : State) (g : Nat) : Option Nat := (List.range 24).find? fun n => !(portNums.any fun p => (portOf s g p).logical == n)

/-- The rate of a bundle's ports that are up. -/
def bundleRate (s : State) (g b : Nat) : Option Nat := ((bundlePorts s g b).map fun p => (portOf s g p).rate).head?

/-- The bundle of a port that is measured after training: that of its peer's ports, or the lowest that no port has; none beyond the eighth (14 R424, log 26). -/
def lateBundle (s : State) (g p : Nat) : Option Nat :=
  let used (q : Nat) : Bool := q != p && ((portOf s g q).st == 5 || (portOf s g q).st == 6)
  match portNums.find? (fun q => used q && peerOf (portOf s g q) == peerOf (portOf s g p)) with
  | some q => some (portOf s g q).bundle
  | none => ((List.range 8).find? fun k => !(portNums.any fun q => used q && (portOf s g q).bundle == 8 * g + k)).map fun k => 8 * g + k

/-- Place a port that ends its measurement outside training: it takes a free lane of its peer's bundle, or stands by (log 26); at another rate than the bundle's
it retrains. -/
def placeLate (g p : Nat) (s : State) : State :=
  match lateBundle s g p with
  | none => modPort g p (fun x => enter s 0 { x with measured := false }) { s with health := { s.health with bundleExcess := true } }
  | some b =>
    let r := (bundleRate s g b).getD (portOf s g p).rate
    if r ≠ (portOf s g p).rate then modPort g p (fun x => enter s 2 { x with rate := r, measured := false, held := true }) s
    else match freeLane s g with
      | some n => modPort g p (fun x => enter s 5 { x with logical := n, bundle := b }) s
      | none => modPort g p (fun x => enter s 6 { x with bundle := b }) s

/-- The highest rate in both masks, none when they share none (14 R423). -/
def bestRate (a b : Nat) : Option Nat := (List.range 3).find? fun r => a.testBit r && b.testBit r

/-- The effect of a TRAIN block (14 R417, R423, R424): in LOCK 64 good blocks lead to MEASURE, or to a retraining at the best rate unless the port trains at its bundle's; in MEASURE 64
echoes give L1, the largest half round trip rounded up. Until the peer has an echo to return its ECHO_RX reads 0. -/
def trainEff (s : State) (g p : Nat) (serial : BitVec 64) (peerGate peerPort rates : Nat) (precodeReq : Bool) (echoTx echoRx : Nat) : State :=
  let x := rxPop (portOf s g p)
  let y := { x with peerSerial := serial, peerGate := peerGate, peerPort := peerPort, peerRates := rates }
  if x.st = 3 then
    let y := { y with preTx := precodeReq, goodTrain := y.goodTrain + 1 }
    if y.goodTrain < 64 then putPort g p y s
    else match bestRate y.rates rates with
      | some r => if r = y.rate ∨ y.held = true then putPort g p (enter s 4 { y with goodTrain := 0, echoes := 0, echoMax := 0 }) s
        else putPort g p (enter s 2 { y with rate := r, goodTrain := 0 }) s
      | none => putPort g p y s
  else if x.st = 4 ∧ x.measured = false then
    let half := ((portTicks s x % 2 ^ 32 + 2 ^ 32 - echoRx) % 2 ^ 32 + 1) / 2
    let z := if echoRx = 0 ∧ y.echoes = 0 then { y with peerEcho := echoTx } else { y with peerEcho := echoTx, echoes := y.echoes + 1, echoMax := max y.echoMax half }
    if z.echoes < 64 then putPort g p z s
    else
      let t := putPort g p { z with l1 := min 1023 z.echoMax, measured := true } s
      if (tabGet none s.links.training g).isSome then settleTraining g t else placeLate g p t
  else if x.st = 4 then putPort g p { y with peerEcho := echoTx } s
  else putPort g p y s

/-- TRAIN (14 R423). -/
def execTrain (g p : Nat) (serial : BitVec 64) (peerGate peerPort rates : Nat) (precodeReq : Bool) (state echoTx echoRx : Nat) (s : State) :
    Host.Outcome State Fault Refusal :=
  dueAt (portThere s g p) (rxHead (portOf s g p) (.train serial peerGate peerPort rates precodeReq state echoTx echoRx)) s
    (trainEff s g p serial peerGate peerPort rates precodeReq echoTx echoRx)

/-- SIGNAL_DETECT (14 R422): a port in DETECT goes to ADAPT at 112 GBd. -/
def execSignalDetect (g p : Nat) (s : State) : Host.Outcome State Fault Refusal :=
  dueAt (portThere s g p) ((portOf s g p).st == 1 && !(portOf s g p).idled) s (modPort g p (fun x => enter s 2 { x with rate := 0, rates := 0, held := false }) s)

/-- The streams of a port that begins to send and receive blocks: training restarts the precoder with level 0 (14 R417). -/
def freshStreams (x : Port) : Port :=
  { x with txPos := 0, cwBlocks := [], txLevel := 0, sent := [], nakQ := [], swapQ := [], loopQ := [], replayQ := [], nakSeen := [], rxPos := 0, rxLane := 0x1F,
           rxq := [], rxSlots := [], nextLs := none, delivered := [], lostLs := [], consecBad := 0, goodTrain := 0, echoes := 0, echoMax := 0, peerEcho := 0,
           locked := false, waitMark := false, txq := [], rxVia := none, replay := none, echoQ := [] }

/-- ADAPT_DONE (14 R422): success leads to LOCK, and whether the receiver asks for precoding is its own choice (R417, log 65); failure to the next lower rate, or to
FAILED after 28 GBd or at its bundle's rate (R424). That a receiver asks for precoding where its SerDes reports that burst errors dominate is one case of the free value. -/
def execAdaptDone (g p : Nat) (ok : Bool) (s : State) : Host.Outcome State Fault Refusal :=
  dueAt (portThere s g p) ((portOf s g p).st == 2) s
    (settleTraining g (modPort g p (fun x =>
      if ok then enter s 3 (freshStreams { x with rates := x.rates ||| 2 ^ x.rate, preRx := Config.freeBool s.freeCtr })
      else if x.rate < 2 ∧ x.held = false then enter s 2 { x with rate := x.rate + 1 } else enter s 7 { x with rate := 3, measured := false }) { s with freeCtr := s.freeCtr + 1 }))

/-- LOCK_TIMEOUT (14 R422): no codeword lock within 4,096 beats leads to FAILED. -/
def execLockTimeout (g p : Nat) (s : State) : Host.Outcome State Fault Refusal :=
  dueAt (portThere s g p) ((portOf s g p).st == 3 && !(portOf s g p).locked && decide ((portOf s g p).since + 4096 ≤ upBeat s)) s
    (settleTraining g (modPort g p (fun x => enter s 7 { x with rate := 3, measured := false }) s))

/-- FAILED_RETRY (14 R422): 65,536 beats in FAILED lead to DETECT; an idled port does not retry (16 R461), nor one of a failed gatehouse (17 R499). -/
def execFailedRetry (g p : Nat) (s : State) : Host.Outcome State Fault Refusal :=
  dueAt (portThere s g p) ((portOf s g p).st == 7 && !(portOf s g p).idled && !s.health.gatesOut.contains g && decide ((portOf s g p).since + 65536 ≤ upBeat s)) s
    (modPort g p (fun x => enter s 1 x) s)

/-- Training ends: no port adapts, locks or measures, or 262,144 beats have passed (14 R424). -/
def trainingEndReady (s : State) (g : Nat) : Bool :=
  match tabGet none s.links.training g with
  | none => false
  | some b => decide (b + 262144 ≤ upBeat s) || portNums.all fun p => !((portOf s g p).st == 2 || (portOf s g p).st == 3 || (portOf s g p).st == 4)

/-- Set up the router's view of a bundle from its ports: lanes, rate, latency and peer (13 R380, R399). -/
def refreshBundle (g b : Nat) (up : Bool) (s : State) : State :=
  match bundlePorts s g b with
  | [] => { s with fabric := { s.fabric with bundles := tabPut bundleZero s.fabric.bundles b bundleZero } }
  | p :: _ =>
    let x := portOf s g p
    let lat := bundleLatency s g b
    let old := tabGet bundleZero s.fabric.bundles b
    markLatency g b lat
      { s with fabric := { s.fabric with bundles := (tabPut bundleZero s.fabric.bundles b
        ⟨up, laneMask s g b, x.rate, lat, x.peerSerial, if old.peer = x.peerSerial then old.peerAddr else 0xFFFF⟩) } }

/-- Refresh bundles in turn. -/
def refreshAll (g : Nat) (up : Bool) : List Nat → State → State
  | [], s => s
  | b :: bs, s => refreshAll g up bs (refreshBundle g b up s)

/-- The effect of TRAINING_END: ports measured by the time limit take their lanes, the gatehouse's bundles come up; bundles that come up start a
roll call, and when every gatehouse has trained, the fabric join begins (13 R380, R382, R384, 18 R510). -/
def trainingEndEff (s : State) (g : Nat) : State :=
  let t := if portNums.any fun p => (portOf s g p).st == 4 && (portOf s g p).measured then placeAll g s else s
  let u : State := refreshAll g true ((List.range 8).map fun k => 8 * g + k)
    { t with links := { t.links with training := tabErase t.links.training g } }
  let r : State := if (((List.range 8).map fun k => 8 * g + k).any fun b => (tabGet bundleZero u.fabric.bundles b).up) then startRoll u else u
  if r.links.training.isEmpty then
    let v : State := { r with fabric := { r.fabric with trained := some (upBeat s) } }
    if v.steward.phase = 3 then setPhase 4 v else v
  else r

/-- TRAINING_END (14 R424). -/
def execTrainingEnd (g : Nat) (s : State) : Host.Outcome State Fault Refusal :=
  dueAt (decide (g < s.params.gatehouses)) (trainingEndReady s g) s (trainingEndEff s g)

/-- Begin training at the gatehouses of a list: their ports go to DETECT (14 R422, 18 R510). -/
def beginTraining : List Nat → State → State
  | [], s => s
  | g :: gs, s =>
    beginTraining gs (modPorts g (fun _ _ => enter s 1 portZero) portNums
      { s with links := { s.links with training := tabPut none s.links.training g (some (upBeat s)) } })

/-! Loss of a port (14 R429, R430). -/

/-- A standby port of the same peer that is not idled (14 R429, 16 R461). -/
def standbyFor (s : State) (g p : Nat) : Option Nat :=
  portNums.find? fun q => q != p && (portOf s g q).st == 6 && !(portOf s g q).idled && peerOf (portOf s g q) == peerOf (portOf s g p)

/-- The key of a unit of the health record (17 R482). -/
def unitKey (kind index : Nat) : Nat := 65536 * kind + index

/-- What the health record keeps of a unit. -/
def unitOf (s : State) (kind index : Nat) : UnitRec := tabGet unitZero s.health.map.units (unitKey kind index)

/-- Change a unit's record. -/
def modUnit (kind index : Nat) (f : UnitRec → UnitRec) (s : State) : State :=
  { s with health := { s.health with map := { s.health.map with units := tabMod unitZero s.health.map.units (unitKey kind index) f } } }

/-- Count a fault attributed to a unit (17 R487, R502). -/
def countFault (kind index code : Nat) (s : State) : State :=
  modUnit kind index (fun u => { u with faults := satInc 65535 u.faults, lastFault := code, lastBeat := some (beatOf s) }) s

/-- A spare was brought in (17 R506). -/
def markSpare (s : State) : State := raiseInt 1 { s with health := { s.health with spareUsed := true, spareOn := true } }

/-- A failure met an exhausted spare: HEALTH reads 0x2 until the next reset where `hold` (17 R499, R506). -/
def markExhausted (hold : Bool) (s : State) : State :=
  let t := raiseInt 1 { s with health := { s.health with exhausted := true, gone := s.health.gone || hold } }
  if hold then setHealth 2 t else t

/-- HEALTH follows from what stands: 0x2 after an exhausted spare or while a fault awaits repair, else 0x1 with a spare in use or a room retired (10 R298). -/
def settleHealth (s : State) : State :=
  if s.health.gone then setHealth 2 s
  else if s.health.repairs.isEmpty = false ∨ s.health.attribs.isEmpty = false then setHealth 2 s
  else if s.health.spareOn then setHealth 1 s
  else setHealth 0 s

/-- The effect of PORT_LOSS: LOST is set and the port fails; a standby of the same peer takes its lane from its next BEAT_MARK; a swap of the lane is
cancelled; the loss is attributed to the port (14 R429, R431, 17 R487, R495). A lane lost with no standby leaves its bundle to BUNDLE_CHANGE (14 R430). The code of
a lane loss is not stated: the record holds a free value (log 28). -/
def portLossEff (s : State) (g p : Nat) : State :=
  let x := portOf s g p
  let t := raiseInt 1 (modPort g p (fun x => enter s 7 { x with lost := true, logical := 0x1F, rate := 3, measured := false, latExcess := false }) s)
  let t := countFault 5 (26 * g + p) (Config.freeNat t.freeCtr % 65536) { t with freeCtr := t.freeCtr + 1 }
  let t := { t with links := { t.links with swaps := t.links.swaps.filter fun w => !(w.gate == g && (w.old == p || w.new == p)) } }
  if x.st = 5 then
    match standbyFor s g p with
    | some q => settleHealth (markSpare (moveLatency g x.bundle (modPort g q (fun y => enter s 5 (takeLane x y)) t)))
    | none => markExhausted true t
  else t

/-- PORT_LOSS (14 R429): a port in UP or STANDBY. -/
def execPortLoss (g p : Nat) (s : State) : Host.Outcome State Fault Refusal :=
  dueAt (portThere s g p) ((portOf s g p).st == 5 || (portOf s g p).st == 6) s (portLossEff s g p)

/-! Test loops (14 R432, R433). -/

/-- The port may be tested (14 R432). -/
def testable (x : Port) : Bool := (x.st == 0 || x.st == 1 || x.st == 7 || x.st == 6) && x.test.isNone

/-- Where a test's pattern begins is not stated: a free register that is not 0 (log 24). -/
def prbsSeed (s : State) : Nat := Config.freeNat s.freeCtr % (2 ^ 31 - 1) + 1

/-- Enter TEST. -/
def enterTest (s : State) (t : LinkTst) (x : Port) : Port :=
  enter s 8 (freshStreams { x with
    rate := t.rate, preTx := t.precode, logical := 0x1F, measured := false,
    test := some { t with running := true, since := upBeat s, prbsTx := prbsSeed s, prbsRx := prbsSeed s } })

/-- The effect of a LOOP block (14 R432). A port that asked takes a start as the peer's acceptance and a stop as its refusal; any other port takes a start
as a request, which it accepts or refuses by the same blocks, and a stop as the end of the test (log 29). -/
def loopEff (s : State) (g p : Nat) (start : Bool) (beats : Nat) : State :=
  let t := modPort g p rxPop s
  let x := portOf t g p
  match x.test with
  | some q =>
    if q.running then (if start then t else if q.mbox.isNone then modPort g p (fun x => enter s 1 { x with test := none }) t else t)
    else if start then putPort g p (enterTest s q x) { t with freeCtr := t.freeCtr + 1 }
    else
      match q.mbox with
      | some m => respond m 0x0A02 [] (putPort g p { x with test := none } t)
      | none => putPort g p { x with test := none } t
  | none =>
    if start = true ∧ testable x = true then
      putPort g p { enterTest s ⟨2, if x.rate < 3 then x.rate else 0, x.preTx, beats, none, upBeat s, true, 0, 0, 0, 0, 0, 0⟩ x with loopQ := [.loop true beats] } t
    else if start then putPort g p { x with loopQ := x.loopQ ++ [.loop false beats] } t
    else t

/-- LOOP (14 R432). -/
def execLoop (g p : Nat) (start : Bool) (beats : Nat) (s : State) : Host.Outcome State Fault Refusal :=
  dueAt (portThere s g p) (rxHead (portOf s g p) (.loop start beats)) s (loopEff s g p start beats)

/-- The test that runs on a port and has lasted its BEATS. -/
def testDone (s : State) (g p : Nat) : Option LinkTst :=
  match (portOf s g p).test with
  | some q => if q.running = true ∧ q.since + q.beats ≤ upBeat s then some q else none
  | none => none

/-- What the checker of a test counted (14 R433); whether codeword lock was lost the command says. -/
def testCounts (q : LinkTst) (lockLost : Bool) : LinkTestResult := ⟨q.blocks % 2 ^ 64, q.bad % 2 ^ 64, q.fixed % 2 ^ 64, q.unc % 2 ^ 32, lockLost⟩

/-- LINK_TEST_END is due: the test has lasted its BEATS, and the result names what its checker counted. -/
def testEndReady (s : State) (g p : Nat) (r : LinkTestResult) : Bool :=
  match testDone s g p with
  | some q => q.mbox.isNone || r == testCounts q r.lockLost
  | none => false

/-- The effect of LINK_TEST_END: the response, and the port returns to DETECT (14 R432, R433). -/
def linkTestEndEff (s : State) (g p : Nat) (r : LinkTestResult) : State :=
  match testDone s g p with
  | none => s
  | some q =>
    let t := modPort g p (fun x => enter s 1 { x with test := none, rate := 3 }) s
    match q.mbox with
    | some m => respond m 0 [(0x08, 8, r.blocks), (0x10, 8, r.badBlocks), (0x18, 8, r.corrected), (0x20, 4, r.uncorrectable), (0x24, 1, if r.lockLost then 1 else 0)] t
    | none => t

/-- LINK_TEST_END (14 R433). -/
def execLinkTestEnd (g p : Nat) (r : LinkTestResult) (s : State) : Host.Outcome State Fault Refusal :=
  dueAt (portThere s g p) (testEndReady s g p r) s (linkTestEndEff s g p r)

/-- A far-end test that waits for its peer 64 beats or more. -/
def noPeer (s : State) (g p : Nat) : Bool :=
  match (portOf s g p).test with
  | some q => !q.running && decide (q.since + 64 ≤ upBeat s)
  | none => false

/-- The effect of LINK_NO_PEER: the command is refused (14 R432). -/
def linkNoPeerEff (s : State) (g p : Nat) : State :=
  match (portOf s g p).test with
  | some q =>
    (match q.mbox with
      | some m => respond m 0x0A03 [] (modPort g p (fun x => { x with test := none }) s)
      | none => modPort g p (fun x => { x with test := none }) s)
  | none => s

/-- LINK_NO_PEER (14 R432). -/
def execLinkNoPeer (g p : Nat) (s : State) : Host.Outcome State Fault Refusal :=
  dueAt (portThere s g p) (noPeer s g p) s (linkNoPeerEff s g p)

/-- EYE_MARGIN_REPORT (17 R485): the lane's vertical eye margin in mV. -/
def execEyeMarginReport (g p mv : Nat) (s : State) : Host.Outcome State Fault Refusal :=
  dueAt (portThere s g p) true s (modPort g p (fun x => { x with eye := some mv }) s)

end Sys2Proof.Machine
end

