-- ==== Sys2Proof/Machine/Topology.lean ====
section
/-!
DEFINITION. Where the engine's units lie (01_engine_overview R20 to R26): the grid of halls, crossings and routes, the fixed latencies, the placement of engine-level
units and gatehouses, the banks of a cellar, and which halls' traffic a failed stage cuts (17 R499).
-/
namespace Sys2Proof.Machine

/-! The grid of halls (01 R22, R23). -/

/-- The row of a hall: the grid is four columns wide. -/
def hallRow (h : Nat) : Nat := h / 4

/-- The column of a hall. -/
def hallCol (h : Nat) : Nat := h % 4

/-- The distance of two numbers. -/
def apart (x y : Nat) : Nat := (x - y) + (y - x)

/-- Two halls are neighbours: adjacent in a row or in a column. They share one die crossing. -/
def neighbours (a b : Nat) : Bool :=
  (hallRow a == hallRow b && apart (hallCol a) (hallCol b) == 1) || (hallCol a == hallCol b && apart (hallRow a) (hallRow b) == 1)

/-- The numbers from `x` to `y`, both included, rising or falling. -/
def gridWalk (x y : Nat) : List Nat := if x ≤ y then (List.range (y - x + 1)).map (x + ·) else (List.range (x - y + 1)).map (x - ·)

/-- The route from a hall `p` to a hall `q` in the same or a later row: horizontal moves in the row of `p`, vertical ones in the column of `q`. -/
def routeDown (p q : Nat) : List Nat :=
  (gridWalk (hallCol p) (hallCol q)).map (fun c => 4 * hallRow p + c) ++ ((gridWalk (hallRow p) (hallRow q)).drop 1).map fun r => 4 * r + hallCol q

/-- The halls on the route between two halls (01 R22): horizontal moves in the lower-numbered row, vertical moves in the column of the other hall. -/
def route (a b : Nat) : List Nat := if hallRow a ≤ hallRow b then routeDown a b else (routeDown b a).reverse

/-- The die crossings that a route passes. -/
def routeCrossings (a b : Nat) : List (Nat × Nat) := (route a b).zip ((route a b).drop 1)

/-- The fixed latency in stages of an access from a room of hall `a` to the cellar of hall `b`, another hall (01 R23). -/
def hallLatency (a b : Nat) : Nat :=
  let dr := apart (hallRow a) (hallRow b)
  let dc := apart (hallCol a) (hallCol b)
  34 + 6 * (dr + dc) + (if dr ≠ 0 ∧ dc ≠ 0 then 2 else 0)

/-! Placements (01 R25, R26). -/

/-- The hall that gatehouse `g` attaches to (01 R26). -/
def gateHall (P : Params) (g : Nat) : Nat := g * P.halls / P.gatehouses

/-- The hall on whose base die an engine-level unit sits (01 R25). -/
def unitPlace (P : Params) (u : EngineUnit) : Nat := match u with
  | .standbyCore => P.halls - 1
  | .activeCore | .router | .timeUnit | .governor | .healthUnit | .porch => 0

/-- The configuration has the stage. -/
def stageBuilt (P : Params) (there : Nat → Nat → Bool) (st : Stage) : Bool := match st with
  | .unit k i => there k i
  | .ring h => decide (h < P.halls)
  | .crossing a b => decide (a < P.halls ∧ b < P.halls) && neighbours a b
  | .gateCrossing g => decide (g < P.gatehouses)
  | .gateDie g => decide (g < P.gatehouses)
  | .engine _ => true

/-! What a failed stage cuts (17 R499). -/

/-- The traffic of hall `a` with some other hall passes a test of the route. -/
def someRoute (P : Params) (a : Nat) (p : Nat → Bool) : Bool := (List.range P.halls).any fun b => b != a && p b

/-- The traffic between a hall and a gatehouse crosses the network between the hall and the one that the gatehouse attaches to (01 R26): its route. -/
def gateRoute (P : Params) (a g : Nat) : List Nat := route a (gateHall P g)

/-- The halls whose traffic passes a failed stage (17 R499): of a crossing, those with a route over it to some hall; of a ring, the hall itself and those with a route
through it to a further hall, or over it to a gatehouse; of a gatehouse's crossing, those with traffic to the gatehouse. `gates` lists the traffic with gatehouses, as hall and
gatehouse. What the rule counts as a hall's traffic is taken so (DESIGN CHOICE, log 89). -/
def hallsCut (P : Params) (gates : List (Nat × Nat)) (st : Stage) : List Nat := match st with
  | .ring h => (List.range P.halls).filter fun a =>
    a == h || (someRoute P a fun b => b != h && (route a b).contains h) || gates.any fun t => t.1 == a && (gateRoute P a t.2).contains h
  | .crossing x y =>
    (List.range P.halls).filter fun a => someRoute P a fun b => (routeCrossings a b).contains (x, y) || (routeCrossings a b).contains (y, x)
  | .gateCrossing g => (List.range P.halls).filter fun a => gates.contains (a, g)
  | .unit _ _ | .gateDie _ | .engine _ => []

/-! The banks of a cellar (01 R21, 17 R482). -/

/-- The unit index of a hall's bank of 1 MiB: successive MiB of the usable range and the reserve go to successive tiers (01 R21; the size of the interleave is not
given: DESIGN CHOICE, log 34). -/
def bankUnit (tiers hall bank : Nat) : Nat := 64 * (5 * hall + bank % tiers) + bank / tiers

/-- The hall of a bank unit. -/
def unitBankHall (index : Nat) : Nat := index / 320

/-- The bank of its hall that a unit index names. -/
def unitBank (tiers index : Nat) : Nat := index % 64 * tiers + index / 64 % 5

/-- The tier unit that a bank unit lies in. -/
def bankTier (index : Nat) : Nat := index / 64

end Sys2Proof.Machine
end

