-- ==== Sys2Proof/Machine/HealthOps.lean ====
section
/-!
DEFINITION. The health unit (17_health_and_spares): units, attributed faults, repairs, diagnosis, spares, requeue, wear, proactive replacement, the health
record, steward takeover.
-/
namespace Sys2Proof.Machine

/-- Change the health unit. -/
def modHealth (f : Health → Health) (s : State) : State := { s with health := f s.health }

/-- Change the mappings. -/
def modMap (f : Mapping → Mapping) (s : State) : State := modHealth (fun h => { h with map := f h.map }) s

/-- The unit exists in the configuration (17 R482). -/
def unitExists (s : State) (kind index : Nat) : Bool :=
  let P := s.params
  let room (i : Nat) : Bool := decide (i < 17 * P.halls) && (decide (i % 17 < 16) || P.spareRoom == 1)
  match kind with
  | 1 => room index
  | 2 => room (index / 4)
  | 3 => decide (index < 5 * P.halls) && decide (index % 5 < P.tiers)
  | 4 => decide (index / 64 < 5 * P.halls) && decide (index / 64 % 5 < P.tiers)
  | 5 => decide (index < 26 * P.gatehouses)
  | 6 => decide (index < 2)
  | 7 => room index
  | _ => false

/-- The hall whose repairs the unit queues with; lanes and steward cores queue with none (17 R496). -/
def unitHall (kind index : Nat) : Option Nat :=
  match kind with
  | 1 => some (index / 17)
  | 2 => some (index / 68)
  | 3 => some (index / 5)
  | 4 => some (index / 320)
  | 7 => some (index / 17)
  | _ => none

/-- The physical room (of its hall) that serves logical room `l` of hall `h`, none while it is unmapped (01 R19, 17 R492, R493). -/
def physOf (s : State) (h l : Nat) : Option Nat :=
  match tabGet 0 s.health.map.roomMap (16 * h + l) with
  | 0 => some l
  | n + 1 => if n < 17 then some n else none

/-- The logical room that a physical room of a hall serves. -/
def servedBy (s : State) (h p : Nat) : Option Nat := (List.range 16).find? fun l => physOf s h l == some p

/-- The engine room that a room, mould or chute unit serves, if any. -/
def unitRoom (s : State) (kind index : Nat) : Option Nat :=
  let i := if kind = 2 then index / 4 else index
  if kind = 1 ∨ kind = 2 ∨ kind = 7 then
    match servedBy s (i / 17) (i % 17) with
    | some l => some (16 * (i / 17) + l)
    | none => none
  else none

/-- The bank of its hall that a cellar line stands in: where its own bank is relocated, the reserve bank that holds the copy (08 R252). -/
def bankAt (s : State) (l : Nat) : Nat :=
  let b := saOffset (l * 64) / 2 ^ 20
  match s.store.relocs.find? (fun r => r.hall == saHall (l * 64) && r.bank == b) with
  | some r => r.base / 2 ^ 20
  | none => b

/-- The bank unit that holds a cellar line (17 R482). -/
def bankOfLine (s : State) (l : Nat) : Nat := bankUnit s.params.tiers (saHall (l * 64)) (bankAt s l)

/-- The hour of the time since start-up. -/
def hourOf (s : State) : Nat := s.time.up / 3600000000000

/-- Ask for the relocation of a bank (17 R494). -/
def wantRelocation (bank : Nat) (s : State) : State :=
  if s.health.replaceQ.contains (4, bank) then s else modHealth (fun h => { h with replaceQ := h.replaceQ ++ [(4, bank)] }) s

/-- Note an uncorrectable read of a cellar line: two distinct lines of a bank within 24 hours call for its relocation (17 R494). -/
def noteBad (l : Nat) (s : State) : State :=
  if saLevel (l * 64) ≠ 0 then s
  else
    let b := bankOfLine s l
    let recent := s.health.bankBad.filter fun x => decide (hourOf s ≤ x.2.2 + 24)
    let t := modHealth (fun h => { h with bankBad := recent ++ [(b, l, hourOf s)] }) s
    if recent.any (fun x => x.1 == b && x.2.1 != l) then wantRelocation b t else t

/-- Note a corrected read of a cellar line: more than 1,024 of a bank within one hour call for its relocation (17 R494). -/
def noteCorrected (l : Nat) (s : State) : State :=
  if saLevel (l * 64) ≠ 0 then s
  else
    let b := bankOfLine s l
    let n := match s.health.bankCorr.find? (fun x => x.1 == b && x.2.1 == hourOf s) with
      | some x => x.2.2 + 1
      | none => 1
    let t := modHealth (fun h => { h with bankCorr := (b, hourOf s, n) :: h.bankCorr.filter fun x => x.1 != b }) s
    if 1024 < n then wantRelocation b t else t

/-- Note corrected lines in turn. -/
def noteCorrectedAll : List Nat → State → State
  | [], s => s
  | l :: ls, s => noteCorrectedAll ls (noteCorrected l s)

/-- Take over a store after reads: a hall's STORE_ERR_LOG.VALID that becomes set raises HEALTH (20 R564), and corrected lines are noted. -/
def putStore (st : Store) (s : State) : State :=
  let newlog := (List.range s.params.halls).any fun h =>
    (tabGet errLogZero st.errLog h).valid && !(tabGet errLogZero s.store.errLog h).valid
  let lines := st.wbacks.filter fun l => !s.store.wbacks.contains l
  let t := noteCorrectedAll lines { s with store := st }
  if newlog then raiseInt 1 t else t

/-- A fault attributed to a unit waits for its repair, with the check that found it (17 R487); HEALTH reads 0x2 (10 R298). -/
def blame (kind index code : Nat) (room task : Option Nat) (check : Option Mismatch) (s : State) : State :=
  setHealth 2 (countFault kind index code (modHealth (fun h => { h with attribs := h.attribs ++ [⟨kind, index, code, room, task, check⟩] }) s))

/-- An uncorrectable read counts toward its bank, and is a fault of the bank (17 R487, R494). Where the read is an access of a room, its fault report attributes it. -/
def blameBank (code line : Nat) (s : State) : State :=
  if (code = 0x503 ∨ code = 0x504) ∧ saLevel (line * 64) = 0 then blame 4 (bankOfLine s line) code none none none (noteBad line s) else s

/-- The launched tasks that hold an engine room. -/
def tasksOnRoom (s : State) (r : Nat) : List Nat := (s.steward.tasks.filter fun t => t.state == .launched && t.rooms.contains r).map (·.num)

/-- The oldest attributed fault of the unit. -/
def attribOf (s : State) (kind index : Nat) : Option Attrib := s.health.attribs.find? fun a => a.kind == kind && a.index == index

/-- A repair of the unit's hall runs already (17 R496). -/
def hallRepairing (s : State) (kind index : Nat) : Bool :=
  match unitHall kind index with
  | some h => s.health.repairs.any fun r => r.hall == some h
  | none => false

/-- The attributed faults of the same hall are taken in order (17 R496): this unit's is the first. -/
def firstOfHall (s : State) (kind index : Nat) : Bool :=
  match s.health.attribs.find? (fun a => unitHall a.kind a.index == unitHall kind index) with
  | some a => a.kind == kind && a.index == index
  | none => false

/-- REPAIR is due: the oldest attributed fault of the hall is this unit's and no repair of the hall runs. -/
def repairReady (s : State) (kind index : Nat) : Bool := firstOfHall s kind index && !hallRepairing s kind index

/-- Halt tasks for a repair, each with the fault's code unless it stops already (17 R488, R489). -/
def haltForRepair (code : Nat) : List Nat → State → State
  | [], s => s
  | n :: ns, s => haltForRepair code ns (haltTask n code (some (plainFault code)) true s)

/-- Mark tasks as aborted by a repair. -/
def markRepair (ns : List Nat) (s : State) : State :=
  { s with steward := { s.steward with tasks := s.steward.tasks.map fun t => if ns.contains t.num then { t with repair := true } else t } }

/-- A freeze in effect ends at the next boundary (12 R377). -/
def endFreeze (s : State) : State :=
  if s.shell.snap.frozen = true ∧ s.shell.snap.ending.isNone = true then
    { s with shell := { s.shell with snap := { s.shell.snap with ending := some (upBeat s) } } }
  else s

/-- The effect of REPAIR: steps 1 and 2 (17 R488): HEALTH 0x2, the tasks that hold the unit halt. During a freeze it ends the freeze first (17 R488, 12 R377). -/
def repairEff (s : State) (kind index : Nat) : State :=
  match attribOf s kind index with
  | none => s
  | some a =>
    if s.shell.snap.frozen then endFreeze s
    else
      let onUnit := match unitRoom s kind index with
        | some r => tasksOnRoom s r
        | none => []
      let own := match a.task with
        | some n => [n]
        | none => []
      let ns := (own ++ onUnit).eraseDups
      let rooms := (match unitRoom s kind index with
        | some r => [r]
        | none => []) ++ (match a.room with
        | some r => [r]
        | none => [])
      let t := modHealth (fun h => { h with
        attribs := h.attribs.erase a,
        repairs := h.repairs ++ [⟨kind, index, unitHall kind index, a.code, upBeat s, 1, ns, rooms.eraseDups, a.check, []⟩] }) s
      trace 2 a.code (setHealth 2 (haltForRepair a.code ns (markRepair ns t)))

/-- REPAIR (17 R488). -/
def execRepair (kind index : Nat) (s : State) : Host.Outcome State Fault Refusal :=
  dueAt (unitExists s kind index) (repairReady s kind index) s (repairEff s kind index)

/-- The repair of a unit at a stage. -/
def repairAt (s : State) (kind index stage : Nat) : Option Repair :=
  s.health.repairs.find? fun r => r.kind == kind && r.index == index && r.stage == stage

/-- Every task of the repair has halted; of a task of several engines, this engine's rooms, whatever its leader does (17 R488). -/
def repairHalted (s : State) (r : Repair) : Bool :=
  r.tasks.all fun n => match taskOf s n with
    | some t => t.state != .launched || (t.halting && !t.members.isEmpty)
    | none => true

/-- The physical room index that a failed room, mould or chute lies in. -/
def roomIndexOf (kind index : Nat) : Nat := if kind = 2 then index / 4 else index

/-- The hall's spare room is free and has not failed (17 R492). -/
def spareFree (s : State) (h : Nat) : Bool :=
  s.params.spareRoom == 1 && (servedBy s h 16).isNone && (unitOf s 1 (17 * h + 16)).service == 0

/-- What a failed room calls for (17 R492, R493); a physical room that serves none is only given up. -/
def roomAct (s : State) (idx : Nat) : RepairAct :=
  match servedBy s (idx / 17) (idx % 17) with
  | none => .unused idx
  | some l => if spareFree s (idx / 17) then .spare l else .retire l

/-- The failures of one kind in a mould that concern it: the mapped kind's replaced index is out of use, and an unmapped spare replaces nothing yet (05 R126). `m` is the
table of the kind, `spare` the index of its spare. -/
def linesFailed (m : Tab Nat) (mould spare : Nat) (ks : List Nat) : List Nat :=
  (ks.filter fun k => decide (k ≤ spare) && (if tabGet 0 m mould = 0 then k != spare else k + 1 != tabGet 0 m mould)).eraseDups

/-- What the failures of one mould call for (17 R491, 05 R126): the spare of each kind for one row and one column; none when the mould fails: a second row or column,
or a spare that is mapped already. -/
def mouldActs (s : State) (mould : Nat) (rows cols : List Nat) : Option (List RepairAct) :=
  let r := linesFailed s.health.map.rowMap mould 129 rows
  let c := linesFailed s.health.map.colMap mould 33 cols
  if (r ≠ [] ∧ tabGet 0 s.health.map.rowMap mould ≠ 0) ∨ (c ≠ [] ∧ tabGet 0 s.health.map.colMap mould ≠ 0) ∨ 1 < r.length ∨ 1 < c.length then none
  else some (r.map (RepairAct.row mould) ++ c.map (RepairAct.col mould))

/-- The failed rows of a mould among what was found. -/
def rowsFound (m : Nat) (fs : List Finding) : List Nat := fs.filterMap fun f => match f with
  | .row n k => if n = m then some k else none
  | _ => none

/-- The failed columns of a mould among what was found. -/
def colsFound (m : Nat) (fs : List Finding) : List Nat := fs.filterMap fun f => match f with
  | .col n k => if n = m then some k else none
  | _ => none

/-- What findings in the physical room `idx` call for (17 R490, R491): the spares of its moulds, the chute by the policy, or the room's spare for all of them. -/
def roomActs (s : State) (idx : Nat) (fs : List Finding) : List RepairAct :=
  let moulds := (List.range 4).map fun m => mouldActs s (4 * idx + m) (rowsFound m fs) (colsFound m fs)
  let chute := fs.contains .chute && !s.health.map.chuteOff.contains idx
  if fs.contains .stage || moulds.contains none || (chute && !s.health.chutePolicy) then [roomAct s idx]
  else (moulds.map fun a => a.getD []).flatten ++ (if chute then [.chuteOff idx] else [])

/-- What the failures found in a unit call for (17 R490, R491): a bank and a tier call for relocation, which is no mapping of the repair; a port and a core have no
diagnosis, and the loss stays. -/
def findingActs (s : State) (kind index : Nat) (fs : List Finding) : List RepairAct :=
  match kind with
  | 1 | 2 | 7 => roomActs s (roomIndexOf kind index) fs
  | 5 | 6 => [.stays]
  | _ => []

/-- The transients of a unit in the last 24 hours (17 R490). -/
def transientsNow (s : State) (kind index : Nat) : List Nat := (unitOf s kind index).transients.filter fun h => decide (hourOf s ≤ h + 24)

/-- A transient that is treated as a failure: what it is a failure of (17 R490), the row or column of the check for a mould. -/
def defaultFinding (kind : Nat) (check : Option Mismatch) : List Finding :=
  match kind, check with
  | 2, some m => [if m.isRow then .row m.mould m.index else .col m.mould m.index]
  | 7, _ => [.chute]
  | _, _ => [.stage]

/-- The lines of a logical room's stores: pantry and shelves. -/
def inRoomStores (r l : Nat) : Bool :=
  let a := l * 64
  (saLevel a == 1 || saLevel a == 2) && saEngineRoom a == r

/-- A line in a copy that the hall makes (08 R252, 17 R492): corrected where it can be, poison carried over, poisoned where it cannot be read. -/
def copiedErr (st : Store) (l : Nat) (e : LineErr) : LineErr :=
  match e, lineCond st l with
  | .poisoned, _ => .poisoned
  | _, .uncorrectable => .poisoned
  | _, .poisoned => .poisoned
  | _, _ => .good

/-- The lines that a test accepts are copied; their write-backs are over. -/
def copyLinesOf (p : Nat → Bool) (st : Store) : Store :=
  { st with
    lines := st.lines.foldl (fun t e => if p e.1 then tabPut .good t e.1 (copiedErr st e.1 e.2) else t) st.lines
    wbacks := st.wbacks.filter fun l => !p l }

/-- The copy of a failed room's stores (17 R492). -/
def copyStores (r : Nat) (st : Store) : Store := copyLinesOf (inRoomStores r) st

/-- Change a repair. -/
def setRepair (r : Repair) (stage : Nat) (acts : List RepairAct) (s : State) : State :=
  modHealth (fun h => { h with repairs := h.repairs.map fun x => if x = r then { x with stage := stage, acts := acts } else x }) s

/-- Bring in what a decision names, short of the mapping (17 R488 step 4): the copy of the stores and the clear in-room state of the spare. -/
def bringIn (hall : Nat) (act : RepairAct) (s : State) : State :=
  match act with
  | .spare l => modRoom (16 * hall + l) (fun _ => roomZero) { s with store := copyStores (16 * hall + l) s.store }
  | .retire l => modRoom (16 * hall + l) (fun _ => roomZero) { s with store := copyStores (16 * hall + l) s.store }
  | _ => s

/-- Bring in what the decisions name. -/
def bringInAll (hall : Nat) : List RepairAct → State → State
  | [], s => s
  | a :: as, s => bringInAll hall as (bringIn hall a s)

/-- A bank holds something: it lies in the usable range and is not relocated, or in the reserve with a relocated bank or a rotated copy in it (08 R251, R252). -/
def bankHolds (s : State) (hall bank : Nat) : Bool :=
  let moved := s.store.relocs.any fun r => r.hall == hall && r.bank == bank
  (decide (bank * 2 ^ 20 < usableCellar s.params.tiers) && !moved) || (s.store.relocs.any fun r => r.hall == hall && r.base == bank * 2 ^ 20) ||
    (s.steward.images.flatMap (·.copies)).any fun c => c.present && saHall c.base == hall && decide (saOffset c.base / 2 ^ 20 ≤ bank) &&
      decide (bank * 2 ^ 20 < saOffset c.scales + (2 * c.nScales + 63) / 64 * 64)

/-- The banks of a failed tier, each given up, and relocated where it holds something (17 R494). -/
def failBanks : List Nat → State → State
  | [], s => s
  | i :: is, s =>
    let t := modUnit 4 i (fun u => { u with service := 3 }) s
    failBanks is (if bankHolds t (unitBankHall i) (unitBank t.params.tiers i) then wantRelocation i t else t)

/-- A tier fails: it is relocated bank by bank (17 R494). -/
def failTier (index : Nat) (s : State) : State :=
  failBanks ((List.range 64).map (64 * index + ·)) (modUnit 3 index (fun u => { u with service := 3 }) s)

/-- A transient was found (17 R490, R506). -/
def noteTransient (kind index : Nat) (s : State) : State :=
  raiseInt 1 (modUnit kind index (fun u => { u with transients := hourOf s :: transientsNow s kind index })
    (modHealth (fun h => { h with transient := true, evTrans := satInc 255 h.evTrans }) s))

/-- The steward core that serves (17 R495). -/
def activeCore (s : State) : Nat := if s.health.map.coreFail = some 0 then 1 else 0

/-- A failed bank is relocated, a failed tier bank by bank (17 R494); a failed standby core is not used again, the active one's end is the takeover (R495). -/
def relocateFailed (kind index : Nat) (s : State) : State :=
  match kind with
  | 3 => failTier index s
  | 4 => wantRelocation index (modUnit 4 index (fun u => { u with service := 3 }) s)
  | 6 => if index = activeCore s then s
    else modUnit 6 index (fun u => { u with service := 3 }) (modMap (fun m => { m with coreFail := some (m.coreFail.getD index) }) s)
  | _ => s

/-- The effect of DIAGNOSIS_COMPLETE (17 R490 to R494): `found` is what a test found, nothing for a transient. Tiers, ports and cores have no test: their loss is the
diagnosis (of a tier, log 35). -/
def diagnosisEff (s : State) (kind index : Nat) (found : List Finding) : State :=
  match repairAt s kind index 1 with
  | none => s
  | some r =>
    let tested := !(kind == 3 || kind == 5 || kind == 6)
    let none_ := found.isEmpty && tested
    let limit := decide (s.health.transLimit ≤ (transientsNow s kind index).length)
    let fs := if found.isEmpty ∧ (tested = false ∨ limit = true) then defaultFinding kind r.check else found
    let t := if none_ then noteTransient kind index s else s
    let acts := if fs.isEmpty then [] else findingActs t kind index fs
    let u := bringInAll (r.hall.getD 0) acts (setRepair r 3 acts t)
    trace 2 r.code (if fs.isEmpty then u else relocateFailed kind index u)

/-- DIAGNOSIS_COMPLETE (17 R490): the tasks of the repair have halted. -/
def execDiagnosisComplete (kind index : Nat) (found : List Finding) (s : State) : Host.Outcome State Fault Refusal :=
  dueAt (unitExists s kind index) (match repairAt s kind index 1 with
    | some r => repairHalted s r
    | none => false) s (diagnosisEff s kind index found)

/-- Map the spare room in for logical room `l` of hall `h` (17 R492). -/
def mapSpare (h l : Nat) (s : State) : State :=
  let p := (physOf s h l).getD l
  markSpare (modUnit 1 (17 * h + p) (fun u => { u with service := 3 }) (modMap (fun m => { m with roomMap := tabPut 0 m.roomMap (16 * h + l) 17 }) s))

/-- Retire the room of logical room `l` (17 R493): it takes the physical room of the hall's last logical room, which becomes unmapped; the hall offers one room
fewer. HEALTH stays at 0x1 for the first retirement of the hall (R499). -/
def retireRoom (h l : Nat) (s : State) : State :=
  let last := tabGet 16 s.offered h - 1
  let p := (physOf s h l).getD l
  let q := (physOf s h last).getD last
  let t := modUnit 1 (17 * h + p) (fun u => { u with service := 4 })
    (modMap (fun m => { m with roomMap := tabPut 0 (tabPut 0 m.roomMap (16 * h + l) (if q = l then 0 else q + 1)) (16 * h + last) 18 }) s)
  let u := modHealth (fun x => { x with spareOn := true }) { t with offered := tabPut 16 t.offered h last }
  markExhausted (decide (last < 15)) u

/-- Apply a decision (17 R488 step 5). -/
def applyAct (hall : Nat) (act : RepairAct) (s : State) : State :=
  match act with
  | .row m r => markSpare (modMap (fun x => { x with rowMap := tabPut 0 x.rowMap m (r + 1) }) s)
  | .col m c => markSpare (modMap (fun x => { x with colMap := tabPut 0 x.colMap m (c + 1) }) s)
  | .spare l => mapSpare hall l s
  | .retire l => retireRoom hall l s
  | .chuteOff i => markExhausted true (modUnit 7 i (fun u => { u with service := 5 }) (modMap (fun x => { x with chuteOff := i :: x.chuteOff }) s))
  | .unused i => modUnit 1 i (fun u => { u with service := if u.service = 0 then 3 else u.service }) s
  | .stays => markExhausted true s

/-- Apply the decisions of a repair. -/
def applyActs (hall : Nat) : List RepairAct → State → State
  | [], s => s
  | a :: as, s => applyActs hall as (applyAct hall a s)

/-- May the task be requeued (17 R498)? -/
def requeueable (s : State) (t : Task) : Bool :=
  let okCode (f : FaultRec) : Bool := [0x0309, 0x030A, 0x0D01, 0x0D02, 0x0D03, 0x0906].contains f.code ||
    (f.code == 0x0503 && (match imageOf s t with
      | some i => (variantOf i t).bufs.any fun b => (b.kind == 0x1 || b.kind == 0x3) && decide (b.base / 64 ≤ f.line) && decide (f.line * 64 < b.base + b.size)
      | none => false))
  (match imageOf s t with
    | some i => i.restartable
    | none => false) && decide (t.requeues < 3) && t.abortBy.isEmpty && (match t.fault with
    | some f => f.code == t.status && okCode f
    | none => false) && (ctxOf s t.ctx).state != 2

/-- A halted task returns to the head of its queue (11 R344). -/
def requeueTask (n : Nat) (s : State) : State :=
  promote (modTask n (fun t => { t with
    state := .queued, parked := false, restarted := true, requeues := t.requeues + 1, halting := false, repair := false, others := 0,
    fault := t.fault0.orElse (fun _ => t.fault), fault0 := t.fault0.orElse (fun _ => t.fault), launch := none, launchAt := none })
    (modHealth (fun h => { h with evRequeue := satInc 255 h.evRequeue }) s))

/-- Requeue the parked tasks of a list. -/
def requeueAll : List Nat → State → State
  | [], s => s
  | n :: ns, s =>
    requeueAll ns (match taskOf s n with
      | some t => if t.parked && t.state == .queued then requeueTask n s else s
      | none => s)

/-- Release rooms: a room's fault is cleared and it may be launched on (17 R488 step 5). -/
def releaseRooms : List Nat → State → State
  | [], s => s
  | r :: rs, s => releaseRooms rs (modRoom r (fun x => { x with fault := none, reported := false }) s)

/-- The effect of REPAIR_MAPPING_EFFECT (17 R488 steps 5 and 6): the mapping takes effect, the rooms are released, the health record is due, tasks are
requeued. -/
def mappingEff (s : State) (kind index : Nat) : State :=
  match repairAt s kind index 3 with
  | none => s
  | some r =>
    let t := applyActs (r.hall.getD 0) r.acts s
    let u := modHealth (fun h => { h with
      repairs := h.repairs.filter (fun x => !(x.kind == kind && x.index == index && x.stage == 3)), evRepairs := satInc 255 h.evRepairs, recDue := true }) t
    trace 2 r.code (requeueAll r.tasks (settleHealth (releaseRooms r.rooms u)))

/-- REPAIR_MAPPING_EFFECT (17 R488). -/
def execRepairMappingEffect (kind index : Nat) (s : State) : Host.Outcome State Fault Refusal :=
  dueAt (unitExists s kind index) (repairAt s kind index 3).isSome s (mappingEff s kind index)

/-! Wear (17 R484 to R486). -/

/-- The measure has reached its limit (17 R484): slowdown of 8.0 %, margin of 30 mV, bit error ratio of 2 × 10^−5 (4.69897 as −log10). -/
def wearOut (kind wear : Nat) : Bool :=
  if kind = 3 ∨ kind = 4 then decide (wear ≤ 30) else if kind = 5 then decide (wear ≤ 469) else decide (800 ≤ wear)

/-- The predicted hours as the health unit holds them, at most 2^20 − 1 (17 R486). The fit is the implementation's (log 32). -/
def lifeOf (kind index : Nat) (samples : List Nat) : Option Nat :=
  if samples.length < 24 then none
  else if wearOut kind (samples.headD 0) then some 0
  else match Config.predictedHours (unitKey kind index) samples with
    | some h => some (min h (2 ^ 20 - 1))
    | none => none

/-- Proactive replacement applies to the kind (17 R497). -/
def replaceable (kind : Nat) : Bool := kind == 1 || kind == 2 || kind == 4 || kind == 5

/-- Ask for a replacement. -/
def wantReplace (kind index : Nat) (s : State) : State :=
  if s.health.replaceQ.contains (kind, index) ∨ s.health.replacing.contains (kind, index) then s
  else modHealth (fun h => { h with replaceQ := h.replaceQ ++ [(kind, index)] }) s

/-- One unit's sample of the hourly fit; a prediction at or below EOL_HOURS asks for a replacement (17 R486, R497). -/
def wearSample (x : WearSample) (s : State) : State :=
  let ss := (x.wear :: (unitOf s x.kind x.index).samples).take 1000
  let life := lifeOf x.kind x.index ss
  let t := modUnit x.kind x.index (fun u => { u with wear := x.wear, samples := ss, life := life }) s
  match life with
  | some h => if h ≤ t.health.eolHours ∧ replaceable x.kind = true ∧ (unitOf t x.kind x.index).service = 0 then wantReplace x.kind x.index t else t
  | none => t

/-- The samples in turn; units that do not exist have none (17 R482). -/
def wearSamples : List WearSample → State → State
  | [], s => s
  | x :: xs, s => wearSamples xs (if unitExists s x.kind x.index then wearSample x s else s)

/-- WEAR_PREDICTION (17 R486). -/
def execWearPrediction (samples : List WearSample) (s : State) : Host.Outcome State Fault Refusal := due s.time.running s (wearSamples samples s)

/-- MARGIN_ROW_TEST (17 R484): the margin of a bank. -/
def execMarginRowTest (bank mv : Nat) (s : State) : Host.Outcome State Fault Refusal :=
  dueAt (unitExists s 4 bank) s.time.running s
    (modUnit 4 bank (fun u => { u with wear := mv }) (modHealth (fun h => { h with margins := tabPut 0 h.margins bank mv }) s))

/-! Proactive replacement (17 R497). -/

/-- No task holds the room of the unit (17 R497). -/
def roomIdle (s : State) (kind index : Nat) : Bool :=
  match unitRoom s kind index with
  | some r => (tasksOnRoom s r).isEmpty
  | none => true

/-- The port that the lane unit names, as gatehouse and port. -/
def laneUnit (index : Nat) : Nat × Nat := (index / 26, index % 26)

/-- A unit that waits for replacement, whose turn can come: banks have BANK_RELOCATION. -/
def replaceReady (s : State) (kind index : Nat) : Bool :=
  s.health.replaceQ.contains (kind, index) && (kind == 5 || ((kind == 1 || kind == 2) && roomIdle s kind index && !hallRepairing s kind index))

/-- A free spare of the unit's kind. -/
def hasSpare (s : State) (kind index : Nat) : Bool :=
  match kind with
  | 1 => spareFree s (index / 17) && (servedBy s (index / 17) (index % 17)).isSome
  | 2 => tabGet 0 s.health.map.rowMap index == 0 || tabGet 0 s.health.map.colMap index == 0
  | 5 => (portOf s (index / 26) (index % 26)).st == 5 && (standbyFor s (index / 26) (index % 26)).isSome
  | _ => false

/-- The effect of PROACTIVE_REPLACEMENT: with no free spare the unit stays; a lane moves without loss; a room or mould is kept free of launches until the
replacement ends (17 R497). -/
def proactiveEff (s : State) (kind index : Nat) : State :=
  let t := modHealth (fun h => { h with replaceQ := h.replaceQ.erase (kind, index) }) s
  if hasSpare s kind index then
    if kind = 5 then
      match standbyFor s (index / 26) (index % 26) with
      | some q => modHealth (fun h => { h with evProact := satInc 255 h.evProact })
          (markSpare (startSwap (index / 26) (portOf s (index / 26) (index % 26)).logical (index % 26) q t))
      | none => t
    else modHealth (fun h => { h with replacing := h.replacing ++ [(kind, index)] }) t
  else t

/-- PROACTIVE_REPLACEMENT (17 R497). -/
def execProactiveReplacement (kind index : Nat) (s : State) : Host.Outcome State Fault Refusal :=
  dueAt (unitExists s kind index) (replaceReady s kind index) s (proactiveEff s kind index)

/-- The row or column that a replaced mould gives up: the manual names no row, so it is free (log 35). -/
def replaceMould (index : Nat) (s : State) : State :=
  let n := Config.freeNat s.freeCtr
  let t := { s with freeCtr := s.freeCtr + 1 }
  if tabGet 0 s.health.map.rowMap index = 0 then applyAct 0 (.row index (n % 129)) t else applyAct 0 (.col index (n % 33)) t

/-- The effect of REPLACEMENT_END (17 R497). -/
def replacementEndEff (s : State) (kind index : Nat) : State :=
  let t := modHealth (fun h => { h with replacing := h.replacing.erase (kind, index), evProact := satInc 255 h.evProact, recDue := true }) s
  let u := if kind = 2 then replaceMould index t
    else match servedBy t (index / 17) (index % 17) with
      | some l => mapSpare (index / 17) l (bringIn (index / 17) (.spare l) t)
      | none => t
  settleHealth u

/-- REPLACEMENT_END (17 R497). -/
def execReplacementEnd (kind index : Nat) (s : State) : Host.Outcome State Fault Refusal :=
  dueAt (unitExists s kind index) (s.health.replacing.contains (kind, index)) s (replacementEndEff s kind index)

/-! The health record (17 R501) and the steward cores (17 R487, R495). -/

/-- Queue a keep item write (12 R369): its slot and generation are chosen when its turn comes. -/
def queueKeep (item : Nat) (payload : List Byte) (mb : Option Nat) (s : State) : State :=
  { s with shell := { s.shell with keep := { s.shell.keep with writes := s.shell.keep.writes ++ [⟨item, 0, payload, 0, 0, mb⟩] } } }

/-- The payload of the health record: the manual lists what it holds and does not lay it out, so its bytes are free (log 36). -/
def recordPayload (s : State) : List Byte := freeBytes s.freeCtr 64

/-- The effect of HEALTH_RECORD_WRITE (17 R501). -/
def recordWriteEff (s : State) : State :=
  queueKeep 4 (recordPayload s) none
    (modHealth (fun h => { h with saving := h.saving ++ [h.map], recDue := false, recTick := s.time.up }) { s with freeCtr := s.freeCtr + 64 })

/-- HEALTH_RECORD_WRITE is due: RECORD_MIN minutes have passed, or a repair or replacement calls for it (17 R501). -/
def recordReady (s : State) : Bool :=
  s.steward.up && (s.health.recDue || decide (s.health.recTick + s.health.recordMin * 60000000000 ≤ s.time.up))

/-- HEALTH_RECORD_WRITE (17 R501). -/
def execHealthRecordWrite (s : State) : Host.Outcome State Fault Refusal := due (recordReady s) s (recordWriteEff s)

/-- HEARTBEAT (17 R487): every 4 beats, while a standby core exists. -/
def execHeartbeat (s : State) : Host.Outcome State Fault Refusal :=
  due (s.steward.up && s.health.map.coreFail.isNone && decide (s.health.beatHb + 4 ≤ upBeat s)) s (modHealth (fun h => { h with beatHb := upBeat s }) s)

/-- A keep write that answers mailbox `m` has begun: the standby completes it (12 R373). -/
def keepAnswers (s : State) (m : Nat) : Bool := s.shell.keep.writes.any fun w => w.mbox == some m

end Sys2Proof.Machine
end

