-- ==== Sys2Proof/Machine/TimeOps.lean ====
section
/-!
DEFINITION. The time unit (15_time_reference): the keeper, the discipline, splits and steps, holdover, the reference input, and the latching read.
-/
namespace Sys2Proof.Machine

/-- Change the time unit. -/
def modTime (f : TimeUnit → TimeUnit) (s : State) : State := { s with time := f s.time }

/-- The class of this engine (15 R440). -/
def timeClass (s : State) : Nat :=
  if s.time.noKeeper then 3
  else if s.time.refEn = true ∧ s.time.refLock = true then 0
  else if s.time.refEn = true ∧ s.time.refGone = true then 1
  else 2

/-- (class, rank, serial) of the first is lower: the first engine is better (15 R440). -/
def betterTime (c1 r1 : Nat) (s1 : BitVec 64) (c2 r2 : Nat) (s2 : BitVec 64) : Bool :=
  decide (c1 < c2) || (c1 == c2 && (decide (r1 < r2) || (r1 == r2 && decide (s1.toNat < s2.toNat))))

/-- The address at which the fabric knows a serial, from the last roll call and what the registrar announced since. -/
def addrOfSerial (s : State) (serial : BitVec 64) : Option Nat :=
  match s.fabric.members.find? (fun r => r.serial == serial) with
  | some r => some r.addr
  | none => none

/-- The bundle to the parent: the next hop of the management route to the keeper (15 R442). -/
def parentBundle (s : State) : Option Nat :=
  match s.time.keeper with
  | none => none
  | some k =>
    match addrOfSerial s k.serial with
    | none => none
    | some a =>
      let e := tabGet 0 s.fabric.routes (entryKey 0x08 a)
      if entValid e = true ∧ entLocal e = false then some (entBundle e) else none

/-- The payload of a TIME frame (15 R443). -/
def timePayload (type cls rank : Nat) (keeper : BitVec 64) (txBeat txDelta rxBeat rxTicks rxFrac : Nat) : List Byte :=
  leBytes 1 type ++ leBytes 1 cls ++ leBytes 2 rank ++ leBytes 4 0 ++ leBytes 8 keeper.toNat ++ leBytes 8 txBeat ++ leBytes 4 txDelta ++ leBytes 4 0 ++
    leBytes 8 rxBeat ++ leBytes 8 rxTicks ++ leBytes 2 rxFrac ++ List.replicate 14 0

/-- Broadcast an ANNOUNCE that names this engine as keeper (15 R441); its TAG counts messages (log 77). -/
def sendAnnounce (s : State) : State :=
  let n := s.fabric.nextTag
  let f := makeFrame 0x8000 0x08 n 0 0 (timePayload 1 (timeClass s) s.fabric.rank s.steward.serial 0 0 0 0 0) s
  let t : State := { s with fabric := { s.fabric with nextTag := n + 1, bcast := s.fabric.bcast ++ [(s.steward.serial, n, 8)] } }
  flood 64 f (modTime (fun t => { t with lastAnn := upBeat s }) t)

/-- The type of a TIME frame (15 R443). -/
def timeType (f : Frame) : Nat := pfld f.payload 0 1

/-- The ANNOUNCE frame with these contents that has been delivered from bundle `b` (15 R443). -/
def announceFrame (s : State) (b cls rank : Nat) (serial : BitVec 64) (hops : Nat) : Option Frame :=
  (s.fabric.inbox.find? fun e => e.1 == b && e.2.hdr.kind == 8 && timeType e.2 == 1 && pfld e.2.payload 1 1 == cls && pfld e.2.payload 2 2 == rank &&
    pfld e.2.payload 8 8 == serial.toNat && e.2.hdr.hops.toNat == hops).map (·.2)

/-- How long this engine waits for an ANNOUNCE better than itself (15 R441). -/
def keeperWait (s : State) : Nat := if timeClass s = 3 ∨ s.time.st = 3 then 4096 else 256

/-- The effect of an ANNOUNCE (15 R441): one better than this engine and than the best it holds, or of the keeper it holds, is followed; what it holds it holds for its wait. A
keeper stops announcing. -/
def announceEff (s : State) (cls rank : Nat) (serial : BitVec 64) (hops : Nat) : State :=
  let mine := betterTime cls rank serial (timeClass s) s.fabric.rank s.steward.serial
  let takes := match s.time.keeper with
    | none => true
    | some k => k.serial == serial || betterTime cls rank serial k.cls k.rank k.serial || decide (k.beat + keeperWait s ≤ upBeat s)
  if mine = true ∧ takes = true then
    let fresh := s.time.announcing || s.time.keeper.isNone
    let t := modTime (fun t => { t with
      keeper := some ⟨cls, rank, serial, 32 - hops, upBeat s⟩, quiet := upBeat s, announcing := false,
      streak := if fresh then 0 else t.streak, lastUse := if fresh then upBeat s else t.lastUse }) s
    if s.time.announcing then setTimeSt 0 t else t
  else s

/-- Take a delivered TIME frame and act on it. -/
def takeTime (b : Nat) (f : Option Frame) (act : State → State) (s : State) : State :=
  match f with
  | some f => act (takeFrame b f s)
  | none => s

/-- ANNOUNCE (15 R441): the frame has been delivered from bundle `b`. -/
def execAnnounce (b cls rank : Nat) (serial : BitVec 64) (hops : Nat) (s : State) : Host.Outcome State Fault Refusal :=
  let f := announceFrame s b cls rank serial hops
  due f.isSome s (takeTime b f (fun t => announceEff t cls rank serial hops) s)

/-- ANNOUNCE_PERIOD (15 R441): a keeper announces every 64 beats; in the vestibule none does. -/
def execAnnouncePeriod (s : State) : Host.Outcome State Fault Refusal :=
  due (s.time.announcing && s.steward.fabricSt != 1 && decide (s.time.lastAnn + 64 ≤ upBeat s)) s (sendAnnounce s)

/-- KEEPER_TIMEOUT is due: no better ANNOUNCE for 256 beats, or 4,096 for class 0x3 and in holdover; never in the vestibule (15 R441). -/
def keeperTimeoutReady (s : State) : Bool :=
  s.time.running && !s.time.announcing && s.steward.fabricSt != 1 && decide (s.time.quiet + keeperWait s ≤ upBeat s)

/-- The engine keeps time itself: what it held of a keeper is forgotten, with a step that the parent called for (15 R441, R448); its own time goes on (R449). -/
def becomeKeeper (t : TimeUnit) : TimeUnit :=
  { t with announcing := true, keeper := none, holdFrom := none, streak := 0, step := t.step.filter (·.ref) }

/-- The effect of KEEPER_TIMEOUT: the engine keeps time itself and announces (15 R441). -/
def keeperTimeoutEff (s : State) : State := sendAnnounce (setTimeSt 1 (modTime becomeKeeper s))

/-- KEEPER_TIMEOUT (15 R441). -/
def execKeeperTimeout (s : State) : Host.Outcome State Fault Refusal := due (keeperTimeoutReady s) s (keeperTimeoutEff s)

/-- An engine in the vestibule never announces: one that kept time waits for a keeper to follow (15 R441). -/
def stopKeeping (s : State) : State :=
  if s.time.announcing then setTimeSt 0 (modTime (fun t => { t with announcing := false, quiet := upBeat s }) s) else s

/-- The port that carries the lowest logical lane of a bundle. -/
def lowestPort (s : State) (b : Nat) : Port :=
  let ps := (s.links.ports.filter fun e => e.1 / 32 == b / 8 && e.2.st == 5 && e.2.bundle == b).map (·.2)
  ps.foldl (fun a x => if x.logical < a.logical then x else a) { portZero with logical := 0x20 }

/-- The stamp of the mark of a beat. -/
def markOf (ms : List (Nat × Int)) (beat : Nat) : Option Int := (ms.find? fun m => m.1 == beat).map (·.2)

/-- The latest mark and its stamp. -/
def lastMark (ms : List (Nat × Int)) : Nat × Int := ms.getLast?.getD (0, 0)

/-- The payload of a STAMP (15 R443): the latest mark sent on the bundle's lowest logical lane with its δ, and the latest received there with its arrival. -/
def stampPayload (keeper : BitVec 64) (cls rank : Nat) (x : Port) : List Byte :=
  let d := lastMark x.departs
  let a := lastMark x.arrives
  timePayload 2 cls rank keeper d.1 ((d.2 % (1024 * 65536)).toNat) a.1 ((a.2 / 65536 % 2 ^ 64).toNat) ((a.2 % 65536).toNat)

/-- Send a STAMP on each bundle of a list (15 R443). -/
def sendStamps (keeper : BitVec 64) (cls rank : Nat) : List Nat → State → State
  | [], s => s
  | b :: bs, s =>
    let f := makeFrame (BitVec.ofNat 16 (tabGet bundleZero s.fabric.bundles b).peerAddr) 0x08 0 0 0 (stampPayload keeper cls rank (lowestPort s b)) s
    sendStamps keeper cls rank bs { s with fabric := { s.fabric with out := s.fabric.out ++ [(b, f)] } }

/-- The effect of STAMP_PERIOD (15 R443). -/
def stampPeriodEff (s : State) : State :=
  let t := modTime (fun t => { t with lastStamp := upBeat s }) s
  match s.time.keeper with
  | some k => sendStamps k.serial k.cls k.rank (upBundles s) t
  | none => sendStamps s.steward.serial (timeClass s) s.fabric.rank (upBundles s) t

/-- STAMP_PERIOD (15 R443): every 16 beats. -/
def execStampPeriod (s : State) : Host.Outcome State Fault Refusal :=
  due (s.time.running && decide (s.time.lastStamp + 16 ≤ upBeat s)) s (stampPeriodEff s)

/-! Splits (15 R446). -/

/-- The task waits at its rendezvous: it has sent READY and has not launched (13 R406). -/
def awaitsLaunch (t : Task) : Bool :=
  t.state == .eligible && t.members.any (fun m => m.member == t.member && m.ready)

/-- Withdraw the rounds of tasks for which READY was sent: they become REFUSED with TIME_UNSYNCED (15 R446, 13 R408). -/
def withdrawRounds : List Nat → State → State
  | [], s => s
  | n :: ns, s =>
    withdrawRounds ns
      (match taskOf s n with
        | none => s
        | some t =>
          if t.member = 0 then refuseRound t 0x0B02 s
          else finishTask n .refused 0x0B02 (sendMgmt (leaderAddr t) 0x18 t.round t.gtask.toNat 0x0B02 [] s))

/-- A split (15 R446, R449): SPLIT is set, launched multi-engine tasks fault with TIME_SPLIT, waiting rounds are withdrawn, READY is held. -/
def splitEff (s : State) : State :=
  let t := raiseInt 7 (modTime (fun t => { t with split := true, unsync := true, streak := 0 }) s)
  let u := haltAll 0x0B01 false ((t.steward.tasks.filter fun x => x.state == .launched && !x.members.isEmpty).map (·.num)) t
  promote (withdrawRounds ((u.steward.tasks.filter awaitsLaunch).map (·.num)) u)

/-- OFFSET of TIME_STATUS for twice the offset in 1/65,536 tick: 1/16 tick, saturated (15 R455). The rounding is not stated: toward zero (log 30). -/
def offsetOf (th2 : Int) : Int := max (-32767) (min 32767 (th2.tdiv 8192))

/-- k of 15 R446: the offset over 1,024 ticks, rounded to the nearest integer, halves away from zero; `th2` is twice the offset in 1/65,536 tick. -/
def stepBeats (th2 : Int) : Int :=
  let q : Int := 2 * 1024 * 65536
  if 0 ≤ th2 then (2 * th2 + q) / (2 * q) else -((2 * (-th2) + q) / (2 * q))

/-- The rate that removes an offset, in 1/1,000 ppm against the parent's: of the opposite sign and within 200 ppm; its value is not stated (15 R444, log 3). -/
def freeRate (th2 : Int) (s : State) : Int := -(th2.sign * ((Config.freeNat s.freeCtr % 200000 + 1 : Nat) : Int))

/-- The beats of the step that waits. -/
def waitingBeats (t : TimeUnit) : Int := (t.step.map (·.beats)).getD 0

/-- Discipline by an exchange with the parent, or by the reference, with offset th2 / 2 (15 R444, R446, R450): within 16 ticks the rate removes it and READY is released; beyond, a
split; beyond 512 ticks also a step at the next boundary. Only an exchange with a parent ends holdover and makes the engine a follower (R449, R455). -/
def applyTheta (ref : Bool) (th2 : Int) (s : State) : State :=
  let t := modTime (fun t => { t with
    offset := offsetOf th2, lastUse := if ref then t.lastUse else upBeat s, holdFrom := if ref then t.holdFrom else none }) s
  let mag := th2.natAbs
  if mag ≤ 2 * 16 * 65536 then
    let u := modTime (fun t => { t with
      unsync := false, rate := freeRate th2 s, streak := if ref then t.streak else if mag ≤ 2 * 2 * 65536 then t.streak + 1 else 0 }) { t with freeCtr := t.freeCtr + 1 }
    if ref then u else setTimeSt 2 u
  else
    let u := splitEff t
    if 2 * 512 * 65536 < mag then
      let k := stepBeats th2
      let v := modTime (fun t => { t with
        step := some ⟨waitingBeats t + k, th2 - 2 * 1024 * 65536 * k, (t.step.map (·.since)).getD (upBeat s), ref⟩ }) u
      if ref = true ∨ v.time.st ≠ 3 then v else setTimeSt 2 v
    else if ref then u else setTimeSt 2 u

/-- Twice the offset of the exchange, in 1/65,536 tick (15 R444). -/
def theta2 (x : Exchange) : Int := (x.t2 - x.t1) - (x.t4 - x.t3)

/-- Twice the delay of the exchange (15 R444). -/
def delay2 (x : Exchange) : Int := (x.t2 - x.t1) + (x.t4 - x.t3)

/-- The next STAMP frame that has been delivered from bundle `b`. -/
def stampFrame (s : State) (b : Nat) : Option Frame :=
  (s.fabric.inbox.find? fun e => e.1 == b && e.2.hdr.kind == 8 && timeType e.2 == 2).map (·.2)

/-- The exchange that a STAMP of bundle `b` completes (15 R444): P's mark by TX_BEAT and TX_DELTA, its arrival here, the departure of the mark of this engine that RX_BEAT
names, and its arrival at P. None where a mark it names is lost or damaged (R443). -/
def exchangeOf (s : State) (b : Nat) (f : Frame) : Option Exchange :=
  let x := lowestPort s b
  let p := f.payload
  match markOf x.arrives (pfld p 0x10 8), markOf x.departs (pfld p 0x20 8) with
  | some t2, some t3 => some ⟨((1024 * 65536 * pfld p 0x10 8 + pfld p 0x18 4 : Nat) : Int), t2, t3, ((65536 * pfld p 0x28 8 + pfld p 0x30 2 : Nat) : Int)⟩
  | _, _ => none

/-- STAMP is due: a STAMP has been delivered from bundle `b`, of class `cls`, `x` is the exchange it completes or `lost` says that it names a lost or damaged mark, and no step
waits. -/
def stampReady (s : State) (b cls : Nat) (x : Exchange) (lost : Bool) : Bool :=
  s.time.step.isNone && (match stampFrame s b with
    | some f => pfld f.payload 1 1 == cls && (match exchangeOf s b f with
      | some y => !lost && y == x
      | none => lost)
    | none => false)

/-- The effect of a STAMP: a follower disciplines by its parent's, and by no other; one that names a lost or damaged mark is discarded (15 R442 to R444, R448). -/
def stampEff (s : State) (b cls : Nat) (x : Exchange) (lost : Bool) : State :=
  if lost = true ∨ s.time.announcing = true ∨ parentBundle s ≠ some b then s
  else applyTheta false (theta2 x) (modTime (fun t => { t with keeper := t.keeper.map fun k => { k with cls := cls } }) s)

/-- STAMP (15 R444). -/
def execStamp (b cls : Nat) (x : Exchange) (lost : Bool) (s : State) : Host.Outcome State Fault Refusal :=
  due (stampReady s b cls x lost) s (takeTime b (stampFrame s b) (fun t => stampEff t b cls x lost) s)

/-- A beat `a` that waits, when the beat `now` is renumbered `new` (15 R447): one that is counted from a boundary, or has passed, keeps its boundaries, and a named one that the step
passes over is due at the first boundary after it. -/
def beatStepped (now new : Nat) (named : Bool) (a : Nat) : Nat :=
  if named = false ∨ a < now then a + new - now else if a < new then new + 1 else a

/-- A staged command when the beat is renumbered. -/
def stagedStepped (now new : Nat) (x : Staged) : Staged := { x with a := beatStepped now new (wfld x.word 0x0C 1 == 2) x.a }

/-- The stamps of a port's marks when `k` beats are subtracted from fabric time. -/
def marksStepped (k : Int) (x : Port) : Port :=
  { x with
    departs := x.departs.map fun m => (m.1, m.2 - 1024 * 65536 * k), arrives := x.arrives.map fun m => (m.1, m.2 - 1024 * 65536 * k) }

/-- `k` beats are subtracted from fabric time (15 R446): what waits for a beat is renumbered (R447), stamps taken before are moved with the time, and the annexes see it at the
same boundary (R454). -/
def subtractBeats (k : Int) (s : State) : State :=
  let ticks := (((s.time.ticks : Int) - 1024 * k) % 2 ^ 64).toNat
  let t := modTime (fun t => { t with
    ticks := ticks, atime := ticks, pulse := t.pulse.map fun p => (p.1 - 1024 * k, p.2) }) s
  { t with
    steward := { t.steward with staged := t.steward.staged.map (stagedStepped (beatOf s) (beatOf t)) }
    links := { t.links with ports := t.links.ports.map fun e => (e.1, marksStepped k e.2) }
    shell := { t.shell with snap := if t.shell.snap.pend then { t.shell.snap with beat := beatStepped (beatOf s) (beatOf t) t.shell.snap.named t.shell.snap.beat } else
      t.shell.snap } }

/-- The effect of TIME_STEP: the beats that wait are subtracted at the boundary, the remainder is left to the rate, and STEPPED is set (15 R446). -/
def timeStepEff (s : State) : State :=
  match s.time.step with
  | none => s
  | some k =>
    let t := modTime (fun t => { t with step := none, stepped := true, rate := freeRate k.left s }) (subtractBeats k.beats { s with freeCtr := s.freeCtr + 1 })
    if k.ref then raiseInt 7 t else setTimeSt 2 (raiseInt 7 t)

/-- A step waits and its boundary has come (15 R446). -/
def stepDue (s : State) : Bool :=
  match s.time.step with
  | some k => decide (k.since < upBeat s)
  | none => false

/-- TIME_STEP (15 R446): at the first beat boundary after the step was called for. -/
def execTimeStep (s : State) : Host.Outcome State Fault Refusal := due (stepDue s) s (timeStepEff s)

/-! Holdover (15 R449). -/

/-- HOLDOVER_ENTRY (15 R449): a follower, which has a keeper, has received no usable STAMP from any parent for 64 beats. -/
def execHoldoverEntry (s : State) : Host.Outcome State Fault Refusal :=
  due (s.time.keeper.isSome && !s.time.announcing && s.time.st != 3 && decide (s.time.lastUse + 64 ≤ upBeat s)) s
    (setTimeSt 3 (modTime (fun t => { t with holdFrom := some (t.up, decide (16 ≤ t.streak)) }) s))

/-- The holdover bound exceeds 16 ticks: 4 + t + 5 (t / 1,000)² ns after t ms that began from following; the manual gives no bound otherwise (15 R449). -/
def boundExceeded (s : State) : Bool :=
  match s.time.holdFrom with
  | none => false
  | some (u, following) =>
    let d := s.time.up - u
    s.time.st == 3 && (!following || decide (16 * 10 ^ 18 < 4 * 10 ^ 18 + d * 10 ^ 12 + 5 * d * d))

/-- HOLDOVER_BOUND_EXCEEDED (15 R449): as a split. -/
def execHoldoverBoundExceeded (s : State) : Host.Outcome State Fault Refusal := due (boundExceeded s && !s.time.unsync) s (splitEff s)

/-! The reference input (15 R450). -/

/-- A pin carries time-in and is not in a hold (19 R548, R552). -/
def timeInOn (s : State) : Bool := s.side.pins.any fun p => p.func == 1 && p.holdUntil.isNone

/-- The offset of a pulse from the nearest expected tick: a multiple of the period counted from the base (15 R450). -/
def pulseOffset (t : TimeUnit) (at' : Int) : Int :=
  let p : Int := if t.period = 0 then 1 else t.period
  let r := (at' - t.pulseBase) % p
  if 2 * r ≤ p then r else r - p

/-- Two pulses lie within 200 ppm of the expected spacing (15 R450). -/
def pulseSpaced (t : TimeUnit) (at' : Int) : Bool :=
  match t.pulse with
  | some (a, _) => decide (((at' - a - t.period).natAbs) * 1000000 ≤ 200 * t.period)
  | none => false

/-- The pin that carries time-in. -/
def timeInPin (s : State) : Option Pin := s.side.pins.find? fun p => p.func == 1

/-- The stamp of an edge that leaves the glitch filter at tick `edge`: the filter's delay of FILTER + 4 ns, one tick to the ns, and REF_DELAY removed (15 R450, 19
R547). -/
def pulseStamp (s : State) (edge : Nat) : Int :=
  (edge : Int) - s.time.refDelay - (match timeInPin s with
    | some p => ((p.filter + 4 : Nat) : Int)
    | none => 0)

/-- The effect of a reference pulse with stamp `at'`: SET_TIME is applied as an offset; two pulses in step lock the reference, and a locked engine is
disciplined by it (15 R450, 20 R563). The offset is that of the time with the step that waits already made. -/
def pulseEff (s : State) (at' : Int) : State :=
  let first := s.time.setOn
  let lock := s.time.refLock || pulseSpaced s.time at'
  let a := at' - 1024 * waitingBeats s.time
  let th : Int := if first then a - s.time.setTime else pulseOffset s.time a
  let t := modTime (fun t => { t with
    setOn := false, pulseBase := if first then t.setTime else t.pulseBase, pulse := some (at', t.up), refLock := lock, refGone := t.refGone && !lock }) s
  if first = true ∨ lock = true then applyTheta true (2 * 65536 * th) t else t

/-- REFERENCE_PULSE (15 R450): the reference is enabled on a pin. -/
def execReferencePulse (at' : Nat) (s : State) : Host.Outcome State Fault Refusal :=
  due (s.time.running && s.time.refEn && timeInOn s) s (pulseEff s (pulseStamp s at'))

/-- The tick count, by `up`, since which no pulse has come. -/
def pulseSince (t : TimeUnit) : Nat :=
  match t.pulse with
  | some (_, u) => u
  | none => t.refFrom

/-- REF_LOST (15 R450): no pulse within 1.5 periods. -/
def execRefLost (s : State) : Host.Outcome State Fault Refusal :=
  due (s.time.refEn && !s.time.refGone && decide (3 * s.time.period ≤ 2 * (s.time.up - pulseSince s.time))) s
    (raiseInt 7 (modTime (fun t => { t with refLock := false, refGone := true, refLost := true }) s))

/-! The latching read (15 R438). -/

/-- Answer a register access of the host (19 R532, R533). -/
def regReply (tag status : Nat) (data : List Byte) (s : State) : State := sendMsg ⟨1, 0x30, tag, status, 0, 0, 0, data⟩ s

/-- Fabric time `sub` ticks and `frac` / 65,536 into the beat; it never goes back (15 R437). -/
def timeAt (t : TimeUnit) (sub frac : Nat) : Nat × Nat :=
  let x := t.ticks / 1024 * 1024 + sub % 1024
  if t.ticks < x then (x, frac % 65536) else (t.ticks, if x = t.ticks then max t.frac (frac % 65536) else t.frac)

/-- The effect of a read of TIME_NOW_LO that reaches the time unit `sub` ticks and `frac` / 65,536 into the beat: fabric time stands there, and the upper half and the fraction
are latched (15 R438). The value read is exact: the rule allows it 2 ticks (log 3). -/
def timeNowEff (s : State) (tag sub frac : Nat) : State :=
  let t := timeAt s.time sub frac
  regReply tag 0 (leBytes 4 t.1) (modTime (fun x => { x with
    ticks := t.1, frac := t.2, up := x.up + (t.1 - x.ticks), atime := t.1, latchHi := t.1 / 2 ^ 32 % 2 ^ 32, latchFrac := t.2 }) s)

/-- TIME_NOW_LO (15 R438). Before the hard part leaves reset the read answers the reset value and latches nothing (20 R558). -/
def execTimeNowLo (tag sub frac : Nat) (s : State) : Host.Outcome State Fault Refusal :=
  .next (if s.time.running then timeNowEff s tag sub frac else regReply tag 0 (leBytes 4 0) s)

end Sys2Proof.Machine
end

