-- ==== Sys2Proof/Machine/FabricOps.lean ====
section
/-!
DEFINITION. The fabric router and the steward's part in the fabric (13_fabric R380 to R396): arriving frames, roll calls, the registrar, admission, routes,
acknowledgements, bundles.
-/
namespace Sys2Proof.Machine

/-- Bundle `b` of the configuration exists. -/
def bundleThere (s : State) (b : Nat) : Bool := decide (b < 8 * s.params.gatehouses)

/-! Arriving frames (13 R385, R386, R388, R392). -/

/-- The kinds of 13 R385 that are routed or delivered. -/
def kindKnown (k : Nat) : Bool :=
  [0x01, 0x02, 0x03, 0x04, 0x05, 0x06, 0x07, 0x08, 0x10, 0x11, 0x12, 0x13, 0x14, 0x15, 0x16, 0x17, 0x18, 0x20].contains k

/-- The header's fields hold no reserved encoding and its HCRC is right (13 R385, R386). -/
def hdrGood (h : FrameHdr) : Bool :=
  h.hcrc == crc32 (hdrBytes h) && kindKnown h.kind.toNat &&
    decide (h.dst.toNat / 2 ^ 13 % 4 = 0) && (!h.dst.getLsbD 15 || decide (h.dst.toNat % 2 ^ 13 = 0)) && decide (h.src.toNat / 2 ^ 13 % 4 = 0) &&
    decide (h.length.toNat ≤ 4096) && decide (h.length.toNat % 8 = 0)

/-- The live multi-engine task that a frame of image identifier `g` belongs to. -/
def liveTask (s : State) (g : BitVec 64) : Option Task :=
  s.steward.tasks.find? fun t => t.gtask == g && t.state == .launched && !t.members.isEmpty

/-- A FLOW frame meets a live claim: a launched task of its image, not halting, with that flow, at a member that is not in the vestibule (13 R386, R396). -/
def flowLive (s : State) (g : BitVec 64) (flow : Nat) : Bool :=
  s.steward.fabricSt != 1 && (match liveTask s g with
    | some t => !t.halting && (match imageOf s t with
      | some i => i.flows.any fun x => x.flow == flow
      | none => false)
    | none => false)

/-- The entries by which input bundle `b` routes (13 R391, R392). -/
def entriesFor (s : State) (b : Nat) : Tab (BitVec 32) :=
  match s.fabric.updates.find? (fun u => s.fabric.early.contains (b, u.epoch)) with
  | some u => u.entries
  | none => if s.fabric.onOld.contains b then s.fabric.old else s.fabric.routes

/-- Deliver a frame to this engine. -/
def deliverHere (b : Nat) (f : Frame) (s : State) : State := modFabric (fun x => { x with inbox := x.inbox ++ [(b, f)] }) s

/-- Count a discarded frame (13 R412). -/
def dropFrame (f : Drops → Drops) (s : State) : State := modFabric (fun x => { x with drops := f x.drops }) s

/-- One hop less, with the HCRC of the new header. -/
def hopDown (f : Frame) : Frame := { f with hdr := sealHdr { f.hdr with hops := f.hdr.hops - 1 } }

/-- A frame's HOPS reach 0 on decrement here (13 R386). -/
def hopsSpent (f : Frame) : Bool := decide (f.hdr.hops.toNat ≤ 1)

/-- Pass an ANNOUNCE on over the other up bundles, once for each keeper and TAG (13 R382, log 77); its hops count down (R386). -/
def forwardTime (b : Nat) (f : Frame) (s : State) : State :=
  let key := (BitVec.ofNat 64 (pfld f.payload 8 8), f.hdr.tag.toNat, 8)
  if s.fabric.bcast.contains key then s
  else
    let t := modFabric (fun x => { x with bcast := x.bcast ++ [key] }) s
    if hopsSpent f then dropFrame (fun d => { d with hopsOut := satInc 255 d.hopsOut }) t else flood b (hopDown f) t

/-- The effect of FRAME_ROUTE. A FLOW waits here for its claim's slot or its landing, so its hops count down when it is sent on (13 R403). What a TIME frame says reaches
the time unit as ANNOUNCE and STAMP. -/
def frameRouteEff (s : State) (b : Nat) (f : Frame) : State :=
  let h := f.hdr
  if hdrGood h = false then dropFrame (fun d => { d with badHeader := satInc 255 d.badHeader }) s
  else if h.kind = 6 then deliverHere b f s
  else if h.dst.getLsbD 15 then (if h.kind = 8 then deliverHere b f (forwardTime b f s) else deliverHere b f s)
  else
    let e := tabGet 0 (entriesFor s b) (entryKey h.kind (h.dst.toNat % 2 ^ 13))
    if entValid e = false then dropFrame (fun d => { d with noRoute := satInc 255 d.noRoute }) s
    else if h.kind = 0x20 then
      if flowLive s h.task h.tag.toNat then deliverHere b f s else dropFrame (fun d => { d with staleFlow := satInc 255 d.staleFlow }) s
    else if entLocal e then deliverHere b f s
    else if hopsSpent f then dropFrame (fun d => { d with hopsOut := satInc 255 d.hopsOut }) s
    else modFabric (fun x => { x with out := x.out ++ [(entBundle e, hopDown f)] }) s

/-- Read the rest of a frame from the lane-slots of a bundle, taking each whole or leaving it for other traffic; what is left of them. -/
def readOn : List Byte → List (Nat × List Byte) → Option (List (Nat × List Byte))
  | bs, [] => if bs.isEmpty then some [] else none
  | bs, c :: cs =>
    if bs.isEmpty then some (c :: cs)
    else
      let n := min bs.length c.2.length
      if n ≠ 0 ∧ c.2.take n = bs.take n then (readOn (bs.drop n) cs).map fun r => if n < c.2.length then (c.1, c.2.drop n) :: r else r
      else (readOn bs cs).map (c :: ·)

/-- Read a frame that begins in the first lane-slot of a list, at some byte of it. -/
def readAt (bs : List Byte) (c : Nat × List Byte) (cs : List (Nat × List Byte)) : Option (List (Nat × List Byte)) :=
  ((List.range c.2.length).filterMap fun k =>
    let n := min bs.length (c.2.length - k)
    if (c.2.drop k).take n = bs.take n then
      (readOn (bs.drop n) cs).map fun r => (if k = 0 then [] else [(c.1, c.2.take k)]) ++ (if k + n < c.2.length then [(c.1, c.2.drop (k + n))] else []) ++ r
    else none).head?

/-- Read a frame from the lane-slots of a bundle (13 R398, 14 R428): its bytes lie in them in order, and none of them in a lane-slot that was lost. How a lane-slot
shows where a frame begins is not stated: the frame named is looked for (log 105). -/
def readFrame (bs : List Byte) : List (Nat × List Byte) → Option (List (Nat × List Byte))
  | [] => none
  | c :: cs => match readAt bs c cs with
    | some r => some r
    | none => (readFrame bs cs).map (c :: ·)

/-- The lane-slots of a bundle without the frame, where it has arrived whole. -/
def frameIn (s : State) (b : Nat) (f : Frame) : Option (List (Nat × List Byte)) := readFrame (frameBytesOf f) (tabGet [] s.fabric.arrived b)

/-- Take a frame out of the lane-slots that the router has taken. -/
def takeArrived (b : Nat) (f : Frame) (s : State) : State :=
  match frameIn s b f with
  | some r => modFabric (fun x => { x with arrived := tabPut [] x.arrived b r }) s
  | none => s

/-- FRAME_ROUTE (13 R388): a frame has arrived on an up bundle. -/
def execFrameRoute (b : Nat) (f : Frame) (s : State) : Host.Outcome State Fault Refusal :=
  dueAt (bundleThere s b) ((tabGet bundleZero s.fabric.bundles b).up && (frameIn s b f).isSome) s (frameRouteEff (takeArrived b f s) b f)

/-! Frames taken from the inbox. -/

/-- The name under which a message is acted on once: its sender, with its kind and task, since TAG counts rounds for the messages of a task (13 R387, log 38). -/
def msgKey (f : Frame) : Nat × BitVec 32 := (f.hdr.src.toNat + 2 ^ 16 * f.hdr.kind.toNat + 2 ^ 24 * f.hdr.task.toNat, f.hdr.tag)

/-- Has the message been acted on? -/
def msgSeen (s : State) (f : Frame) : Bool := s.fabric.seen.contains (msgKey f)

/-- Acknowledge a message to the address it came from (13 R387). -/
def ackFrame (f : Frame) (s : State) : State :=
  if f.hdr.src.getLsbD 15 then s
  else emitFrame (f.hdr.src.toNat % 2 ^ 13)
    (makeFrame (BitVec.ofNat 16 (f.hdr.src.toNat % 2 ^ 13)) 7 f.hdr.tag.toNat f.hdr.task.toNat 0 [] s) s

/-- Take a message: every copy is acknowledged and the first one is acted on (13 R387). -/
def takeMsg (b : Nat) (f : Frame) (act : State → State) (s : State) : State :=
  let t := ackFrame f (takeFrame b f s)
  if msgSeen s f then t else act (modFabric (fun x => { x with seen := x.seen ++ [msgKey f] }) t)

/-- Forward a broadcast frame on the other up bundles, once for each serial and roll number (13 R382); its hops count down (R386). -/
def forwardBcast (b : Nat) (f : Frame) (s : State) : State :=
  let key := (BitVec.ofNat 64 (pfld f.payload 0 8), f.hdr.tag.toNat, f.hdr.kind.toNat)
  if s.fabric.bcast.contains key then s
  else
    let t := modFabric (fun x => { x with bcast := x.bcast ++ [key] }) s
    if hopsSpent f then dropFrame (fun d => { d with hopsOut := satInc 255 d.hopsOut }) t else flood b (hopDown f) t

/-! Roll calls (13 R382). -/

/-- The effect of ROLL_START: acknowledged (R387) and forwarded once; a number higher than any seen makes the engine broadcast its record. -/
def rollStartEff (s : State) (b : Nat) (f : Frame) : State :=
  let t := forwardBcast b f (ackFrame f (takeFrame b f s))
  if s.fabric.rollSeen < f.hdr.tag.toNat then joinRoll f.hdr.tag.toNat t else t

/-- ROLL_START (13 R382). -/
def execRollStart (b : Nat) (f : Frame) (s : State) : Host.Outcome State Fault Refusal := due (inInbox s b f) s (rollStartEff s b f)

/-- The ROLL is new to this engine: of the present roll call, from a serial not yet recorded. -/
def rollNew (s : State) (f : Frame) : Bool :=
  s.fabric.rolling && f.hdr.tag.toNat == s.fabric.rollSeen && !s.fabric.records.any fun r => r == admOf f.payload

/-- The bundles to an engine learn its address. -/
def learnPeer (serial : BitVec 64) (addr : Nat) (s : State) : State :=
  modFabric (fun x => { x with bundles := x.bundles.map fun e => if e.2.peer = serial then (e.1, { e.2 with peerAddr := addr }) else e }) s

/-- The effect of ROLL: acknowledged (R387) and forwarded once; a new record joins the roll call. A peer's bundle learns the peer's address. -/
def rollEff (s : State) (b : Nat) (f : Frame) : State :=
  let r := admOf f.payload
  let t := forwardBcast b f (ackFrame f (takeFrame b f s))
  if rollNew s f then
    learnPeer r.serial r.addr (modFabric (fun x => { x with records := x.records ++ [r], lastRoll := upBeat s }) t)
  else t

/-- ROLL (13 R382). -/
def execRoll (b : Nat) (f : Frame) (s : State) : Host.Outcome State Fault Refusal := due (inInbox s b f) s (rollEff s b f)

/-! The registrar (13 R383, R389, R395). -/

/-- Record `x` comes before `y` in the election order: lower rank, then lower serial (13 R383). -/
def electsBefore (x y : AdmRec) : Bool := decide (x.rank < y.rank) || (x.rank == y.rank && decide (x.serial.toNat ≤ y.serial.toNat))

/-- Insert a record in the election order. -/
def electIns (x : AdmRec) : List AdmRec → List AdmRec
  | [] => [x]
  | y :: ys => if electsBefore x y then x :: y :: ys else y :: electIns x ys

/-- The records in the election order. -/
def electOrder (rs : List AdmRec) : List AdmRec := rs.foldr electIns []

/-- The lowest address that no engine of the list uses. -/
def freeAddr (used : List Nat) : Nat := (firstFrom (fun a => !used.contains a) 8192 0).getD 0

/-- The engines that keep the address they hold: the first in the election order of each address (13 R383). -/
def keepAddrs : List AdmRec → List Nat → List (AdmRec × Option Nat)
  | [], _ => []
  | r :: rs, used =>
    if r.addr < 8192 ∧ used.contains r.addr = false then (r, some r.addr) :: keepAddrs rs (r.addr :: used) else (r, none) :: keepAddrs rs used

/-- Give every engine without an address the lowest free one, in order (13 R383). -/
def giveAddrs : List (AdmRec × Option Nat) → List Nat → List (AdmRec × Nat)
  | [], _ => []
  | (r, some a) :: rs, used => (r, a) :: giveAddrs rs used
  | (r, none) :: rs, used => (r, freeAddr used) :: giveAddrs rs (freeAddr used :: used)

/-- The addresses of the roll call (13 R383). -/
def addresses (rs : List AdmRec) : List (AdmRec × Nat) :=
  let k := keepAddrs (electOrder rs) []
  giveAddrs k (k.filterMap (·.2))

/-- State and reason of an engine by the registrar's record `me` of epoch `e` (13 R395); `before` are the admitted engines earlier in the election order. -/
def judge (me : AdmRec) (before : List AdmRec) (r : AdmRec) : Nat × Nat :=
  if r = me then (2, 0)
  else if before.any (fun x => x.serial == r.serial) = true then (1, 5)
  else if r.proto ≠ me.proto then (1, 3)
  else if r.version ≠ me.version then (1, 1)
  else if r.fwVersion ≠ me.fwVersion then (1, 2)
  else if r.epoch ≠ 0 ∧ r.epoch ≠ me.epoch then (1, 4)
  else (2, 0)

/-- The judgements of the engines in the election order. -/
def judgeAll (me : AdmRec) : List (AdmRec × Nat) → List AdmRec → List (AdmRec × Nat × Nat × Nat)
  | [], _ => []
  | (r, a) :: rs, before =>
    let j := judge me before r
    (r, a, j.1, j.2) :: judgeAll me rs (if j.1 = 2 then r :: before else before)

/-- Broadcast a message that names an engine by its serial and the address that it holds, since an engine without entries can be reached in no other way: serial, a
value, the address, then what else the message carries (log 39). -/
def sendNamed (kind aux : Nat) (serial : BitVec 64) (value at' : Nat) (payload : List Byte) (s : State) : State :=
  let n := s.fabric.nextTag
  flood 32 (makeFrame bcastDst kind n 0 aux (leBytes 8 serial.toNat ++ leBytes 4 value ++ leBytes 4 at' ++ payload) s)
    (modFabric (fun x => { x with nextTag := n + 1, bcast := x.bcast ++ [(serial, n, kind)] }) s)

/-- The same, to another engine: it waits for the acknowledgement of the engine at `dst` (13 R387). -/
def sendTo (dst kind aux : Nat) (serial : BitVec 64) (value at' : Nat) (payload : List Byte) (s : State) : State :=
  let f := makeFrame bcastDst kind s.fabric.nextTag 0 aux (leBytes 8 serial.toNat ++ leBytes 4 value ++ leBytes 4 at' ++ payload) s
  sendNamed kind aux serial value at' payload (modFabric (fun x => { x with unacked := x.unacked ++ [⟨dst, f, upBeat s, 0⟩] }) s)

/-- The message names this engine, and another one sent it. -/
def namedHere (s : State) (f : Frame) (serial : BitVec 64) : Bool :=
  serial == s.steward.serial && pfld f.payload 12 4 == s.fabric.addr.getD 0xFFFF && f.hdr.src != srcField s

/-- A record as the registrar's announcement to the engine of a serial and an address leaves it. -/
def toldOf (e : BitVec 64 × Nat × Nat × Nat) (r : AdmRec) : AdmRec :=
  if r.serial = e.1 ∧ r.addr = e.2.1 then (if e.2.2.1 = 3 then { r with addr := e.2.2.2 } else { r with state := e.2.2.2 }) else r

/-- The registrar has announced the address (kind 3) or state (kind 4) of the engine at an address (13 R383). -/
def noteTold (serial : BitVec 64) (at' kind v : Nat) (s : State) : State :=
  modFabric (fun x => { x with
    members := x.members.map (toldOf (serial, at', kind, v)), told := if x.rolling then x.told ++ [(serial, at', kind, v)] else [] })
    (if kind = 3 then modFabric (fun x => { x with
      bundles := x.bundles.map fun e => if e.2.peer = serial ∧ e.2.peerAddr = at' then (e.1, { e.2 with peerAddr := v }) else e }) s else s)

/-- A state as `members` holds it: 3 is the vestibule until adoption (13 R396). -/
def stateNoted (state reason : Nat) : Nat := if state = 1 ∧ reason = 4 then 3 else state

/-- This engine's address, admission state and reason as the registrar gives them (13 R395; 10 R298). An engine that is alone in the roll call stays alone; one that enters the
vestibule keeps time no more (15 R441). -/
def takeAdmission (alone : Bool) (state reason : Nat) (s : State) : State :=
  let t := setFabric (if alone then 0 else state) (modFabric (fun x => { x with admission := if alone then 0 else state, reason := reason }) s)
  if t.steward.fabricSt = 1 then stopKeeping t else t

/-- What an ADMIT says: the state in bits [15:0], the reason above. -/
def admitWord (st why : Nat) : Nat := st + 2 ^ 16 * why

/-- Announce addresses and states: ASSIGN to every engine whose address changes, ADMIT to every engine (13 R383). What it gives itself the registrar broadcasts too, so that
the others know its address and state. -/
def announceAll (me : AdmRec) (alone : Bool) : List (AdmRec × Nat × Nat × Nat) → State → State
  | [], s => s
  | (r, a, st, why) :: rs, s =>
    announceAll me alone rs
      (if r = me then
        let t := takeAdmission alone st why (modFabric (fun x => { x with addr := some a }) s)
        let u := if r.addr = a then t else noteTold r.serial r.addr 3 a (sendNamed 3 a r.serial a r.addr [] t)
        noteTold r.serial a 4 st (sendNamed 4 st r.serial (admitWord st why) a [] u)
      else
        let t := if r.addr = a then s else noteTold r.serial r.addr 3 a (sendTo a 3 a r.serial a r.addr [] s)
        noteTold r.serial a 4 (stateNoted st why) (sendTo a 4 st r.serial (admitWord st why) a [] t))

/-- The lanes of a bundle as a mask. -/
def bundleLanes (s : State) (b : Nat) : Nat := (tabGet bundleZero s.fabric.bundles b).lanes

/-- A destination entry (13 R388). -/
def mkEntry (isLocal : Bool) (b lanes : Nat) : BitVec 32 := BitVec.ofNat 32 (2 ^ 31 + (if isLocal then 2 ^ 30 else 0) + b % 32 * 2 ^ 24 + lanes % 2 ^ 24)

/-- A hop of the fabric: an engine's up bundle, the address it leads to, its trained lanes. -/
structure Hop where
  src    : Nat
  bundle : Nat
  dst    : Nat
  lanes  : Nat
  deriving DecidableEq, Repr

/-- The hops of this engine. -/
def ownHops (s : State) (js : List (AdmRec × Nat × Nat × Nat)) : List Hop :=
  (s.fabric.bundles.filter fun e => e.2.up).map fun e =>
    ⟨s.fabric.addr.getD 0, e.1, ((js.find? fun x => x.1.serial == e.2.peer).map (·.2.1)).getD anyAddr, e.2.lanes⟩

/-- The hops of the engine at `a`: no rule has a roll call carry them, so each of its bundles is up or not, and leads where it leads, as free values say; to this engine
only where this engine has a bundle to it (13 R389, log 40). -/
def farHops (own : List Hop) (ctr : Nat) (addrs : List Nat) (a : Nat) : List Hop :=
  (List.range 32).filterMap fun k =>
    let v := Config.freeNat (ctr + k)
    match addrs[v / 2 % addrs.length]? with
    | some d =>
      if v % 2 = 0 ∨ d = a ∨ ((own.any fun h => h.src == d) = true ∧ (own.any fun h => h.dst == a) = false) then none
      else some ⟨a, k, d, v / 2 ^ 20 % 2 ^ 24⟩
    | none => none

/-- The hops of the engines of a list but this one. -/
def farAll (me : Nat) (own : List Hop) (addrs : List Nat) : Nat → List Nat → List Hop
  | _, [] => []
  | c, a :: as => (if a = me then [] else farHops own c addrs a) ++ farAll me own addrs (c + 32) as

/-- Every hop that the registrar computes with. -/
def hopsOf (s : State) (js : List (AdmRec × Nat × Nat × Nat)) : List Hop :=
  let own := ownHops s js
  own ++ farAll (s.fabric.addr.getD 0) own (js.map (·.2.1)) s.freeCtr (js.map (·.2.1))

/-- A hop leads on to `d`: it ends there, or at an engine that paths may pass through. -/
def leadsOn (via : Nat → Bool) (d : Nat) (h : Hop) : Bool := h.dst == d || via h.dst

/-- The addresses from which `d` is at most so many hops away. -/
def withinHops (hs : List Hop) (via : Nat → Bool) (d : Nat) : Nat → List Nat
  | 0 => [d]
  | n + 1 =>
    let w := withinHops hs via d n
    w ++ ((hs.filter fun h => leadsOn via d h && w.contains h.dst && !w.contains h.src).map (·.src)).eraseDups

/-- The hop with the lowest next address, and then the lowest bundle. -/
def firstHop (hs : List Hop) : Option Hop :=
  hs.foldl (fun b h => match b with
    | some x => if h.dst < x.dst ∨ (h.dst = x.dst ∧ h.bundle < x.bundle) then some h else some x
    | none => some h) none

/-- The hop by which a path with the fewest hops leaves `x` for `d` (13 R389). -/
def wayOut (hs : List Hop) (via : Nat → Bool) (d x n : Nat) : Option Hop :=
  match firstFrom (fun k => (withinHops hs via d (k + 1)).contains x) n 0 with
  | some k => firstHop (hs.filter fun h => h.src == x && leadsOn via d h && (withinHops hs via d k).contains h.dst)
  | none => none

/-- The computed entry of the engine at `x` for `d` (13 R389). -/
def computedEntry (hs : List Hop) (via : Nat → Bool) (d x n : Nat) : BitVec 32 :=
  if d = x then mkEntry true 0 0
  else match wayOut hs via d x n with
    | some h => mkEntry false h.bundle h.lanes
    | none => 0

/-- The computed entries of the engine at `x`: those of scheduled frames pass through admitted engines only, those of management frames through every engine (13 R389). -/
def computedTable (hs : List Hop) (js : List (AdmRec × Nat × Nat × Nat)) (x : Nat) : Tab (BitVec 32) :=
  js.foldl (fun t j =>
    tabPut 0 (tabPut 0 t j.2.1 (computedEntry hs (fun a => js.any fun k => k.2.1 == a && k.2.2.1 == 2) j.2.1 x js.length))
      (8192 + j.2.1) (computedEntry hs (fun _ => true) j.2.1 x js.length)) []

/-- A supplied table of the engine at `x` names only bundles that are up and lanes of them (13 R390). -/
def tableOk (hs : List Hop) (x : Nat) (t : Tab (BitVec 32)) : Bool :=
  t.all fun e => !entValid e.2 || entLocal e.2 ||
    hs.any fun h => h.src == x && h.bundle == entBundle e.2 && decide (e.2.toNat % 2 ^ 24 &&& h.lanes = e.2.toNat % 2 ^ 24)

/-- The entries of a supplied table: they serve scheduled and management frames alike. -/
def tableOf (es : List (BitVec 32)) : Tab (BitVec 32) := tabPutList 0 (tabPutList 0 [] 0 es) 8192 es

/-- The destination addresses of the claims of live tasks for which the engine at `x` transmits (13 R392). -/
def claimedDsts (s : State) (x : Nat) : List Nat :=
  (s.steward.tasks.filter fun t => t.state == .launched).flatMap fun t => match imageOf s t with
    | some i => (i.claims.filter fun c => i.memberRecs.any fun m => m.member == c.member && m.addr == x).filterMap fun c =>
        match i.flows.find? (fun f => f.flow == c.flow) with
        | some f => (i.memberRecs.find? fun m => m.member == f.dstMember).map (·.addr)
        | none => none
    | none => []

/-- Keep the entries of an engine that live claims use while their bundle is up (13 R392). -/
def keepClaimed (hs : List Hop) (x : Nat) (was : Tab (BitVec 32)) : List Nat → Tab (BitVec 32) → Tab (BitVec 32)
  | [], t => t
  | a :: as, t =>
    let e := tabGet 0 was a
    keepClaimed hs x was as (if entValid e = true ∧ (hs.any fun h => h.src == x && h.bundle == entBundle e) = true then tabPut 0 t a e else t)

/-- The entries that the engine at `x` held last, as this registrar knows them. -/
def heldTable (s : State) (x : Nat) : Tab (BitVec 32) :=
  if s.fabric.addr = some x then s.fabric.routes else ((s.fabric.issued.find? fun e => e.1 == x).map (·.2)).getD []

/-- The table that an engine has supplied. -/
def suppliedBy (s : State) (serial : BitVec 64) : Option (Tab (BitVec 32)) :=
  if serial = s.steward.serial then s.fabric.supplied.map tableOf else (s.fabric.given.find? fun e => e.1 == serial).map (·.2)

/-- The entries of an engine in an update: its supplied table where one is in force and good, else the computed ones (13 R389 to R392). -/
def tableFor (s : State) (hs : List Hop) (js : List (AdmRec × Nat × Nat × Nat)) (serial : BitVec 64) (x : Nat) : Tab (BitVec 32) :=
  keepClaimed hs x (heldTable s x) (claimedDsts s x) (match suppliedBy s serial with
    | some t => if tableOk hs x t then t else computedTable hs js x
    | none => computedTable hs js x)

/-- Entries as bytes: the key of each, then its 32 bits (log 40). -/
def entryBytes (es : Tab (BitVec 32)) : List Byte := es.flatMap fun e => leBytes 4 e.1 ++ leBytes 4 e.2.toNat

/-- Send entries in frames of at most 500 of them; AUX is `aux` where it is given, else the number of frames that follow (13 R385, R391, log 40). -/
def sendEntries (dst : Nat) (aux : Option Nat) (serial : BitVec 64) (value at' : Nat) (es : Tab (BitVec 32)) : Nat → State → State
  | 0, s => s
  | n + 1, s =>
    sendEntries dst aux serial value at' (es.drop 500) n (sendTo dst 5 (aux.getD n) serial value at' (entryBytes (es.take 500)) s)

/-- Frames that entries take. -/
def entryFrames (es : Tab (BitVec 32)) : Nat := es.length / 500 + 1

/-- Send the route update to the other engines: its epoch, its beat in AUX, and the entries of each (13 R391). -/
def sendUpdates (hs : List Hop) (epoch beat : Nat) (all : List (AdmRec × Nat × Nat × Nat)) : List (AdmRec × Nat × Nat × Nat) → State → State
  | [], s => s
  | (r, a, _, _) :: rs, s =>
    sendUpdates hs epoch beat all rs
      (if s.fabric.addr = some a then s
      else
        let es := tableFor s hs all r.serial a
        sendEntries a (some beat) r.serial epoch a es (entryFrames es)
          (modFabric (fun x => { x with issued := x.issued.filter (fun e => e.1 != a) ++ [(a, es)] }) s))

/-- The highest epoch that is in force or waits. -/
def epochSoFar (s : State) : Nat := (s.fabric.updates.map (·.epoch)).foldl max s.fabric.epoch

/-- The epoch of the next route update (13 R393): one above the last that was issued, or one above the highest of the roll call for a registrar newly elected. -/
def nextEpoch (s : State) (newly : Bool) : Nat :=
  (if newly then (s.fabric.records.map (·.epoch)).foldl max (epochSoFar s) else epochSoFar s) + 1

/-- The effective beat of an update: at least 64 beats on and not before that of an update that waits; which one is free (13 R391, log 41). -/
def updateBeat (s : State) : Nat := (s.fabric.updates.map (·.beat)).foldl max (beatOf s + 64 + Config.freeNat s.freeCtr)

/-- Issue a route update to the engines of a list (13 R383, R391, R393). -/
def issueUpdate (newly : Bool) (js : List (AdmRec × Nat × Nat × Nat)) (s : State) : State :=
  let e := nextEpoch s newly
  let beat := updateBeat s
  let t : State := { s with freeCtr := s.freeCtr + 1 }
  let hs := hopsOf t js
  let u : State := { t with freeCtr := t.freeCtr + 32 * js.length }
  let me := s.fabric.addr.getD 0
  sendUpdates hs e beat js js (modFabric (fun x => { x with
    updates := x.updates ++ [⟨e, beat, tableFor u hs js s.steward.serial me⟩],
    tableRejected := match suppliedBy u s.steward.serial with
      | some es => !tableOk hs me es
      | none => false }) u)

/-- The registrar's actions at the close of a roll call (13 R383). -/
def registrarActs (me : AdmRec) (newly : Bool) (s : State) : State :=
  let js := judgeAll me (addresses s.fabric.records) []
  issueUpdate newly js (announceAll me (decide (s.fabric.records.length ≤ 1)) js s)

/-- A change of tables is followed by a route update (13 R393). -/
def reissue (s : State) : State := issueUpdate false (s.fabric.members.map fun r => (r, r.addr, r.state, 0)) s

/-- This engine's tables have changed (13 R390, R393): the registrar issues an update; another engine sends its table to the registrar, an empty one for computed routes. -/
def tableChanged (s : State) : State :=
  if s.fabric.registrar = some s.steward.serial then reissue s
  else match s.fabric.members.find? (fun r => s.fabric.registrar == some r.serial) with
    | some r =>
      let es := (s.fabric.supplied.map tableOf).getD []
      sendEntries r.addr none s.steward.serial (entryFrames es) (s.fabric.addr.getD 0xFFFF) es (entryFrames es) s
    | none => s

/-- The first record in the election order. -/
def elected (rs : List AdmRec) : Option AdmRec := (electOrder rs).head?

/-! Members that a roll call finds gone (13 R408, R411). -/

/-- The address is in the fabric, and its engine is admitted (13 R408). -/
def addrPresent (s : State) (a : Nat) : Bool :=
  s.fabric.addr == some a || s.fabric.members.any fun r => r.addr == a && r.state == 2

/-- What a closed roll call means for one task of several engines: the leader aborts a launched task with a member gone and refuses a round that waits; a member
whose leader is gone aborts alone (13 R408, R411). -/
def checkMembers (t : Task) (s : State) : State :=
  let ready := t.members.any fun m => m.member == t.member && m.ready
  let gone (m : MemberSt) : Bool := m.member != t.member && !s.fabric.members.any fun r => r.addr == m.addr
  let absent (m : MemberSt) : Bool := m.member != t.member && !addrPresent s m.addr
  if t.members.isEmpty ∨ isFinal t = true then s
  else if t.member = 0 then
    if t.state = .launched ∧ t.members.any gone = true then
      haltWith t.num 0x0905 (some { plainFault 0x0905 with member := ((t.members.find? gone).map (·.member)).getD 0 }) false s
    else if t.state = .eligible ∧ ready = true ∧ t.members.any absent = true then refuseRound t 0x0902 s
    else s
  else if (t.members.any fun m => m.member == 0 && gone m) = true then
    if t.state = .launched ∧ (t.members.any fun m => m.member == 0 && m.halted) = false then haltQuiet t.num 0x0905 (some { plainFault 0x0905 with member := t.member }) false s
    else if t.state = .eligible ∧ ready = true then finishTask t.num .aborted 0x0905 s
    else s
  else s

/-- Check the members of the tasks of a list. -/
def checkAll : List Task → State → State
  | [], s => s
  | t :: ts, s => checkAll ts (checkMembers t s)

/-- ROLL_CALL_CLOSE is due: 64 beats after the last ROLL that was new (13 R382). -/
def rollCloseReady (s : State) : Bool := s.fabric.rolling && decide (s.fabric.lastRoll + 64 ≤ upBeat s)

/-- The effect of ROLL_CALL_CLOSE (13 R383). -/
def rollCloseEff (s : State) : State :=
  match elected s.fabric.records with
  | none => modFabric (fun x => { x with rolling := false }) s
  | some r =>
    let t := modFabric (fun x => { x with
      rolling := false, registrar := some r.serial, members := x.told.foldl (fun ms e => ms.map (toldOf e)) x.records, told := [] }) s
    let u := if r.serial = s.steward.serial then registrarActs r (s.fabric.registrar != some r.serial) t else t
    promote (checkAll s.steward.tasks u)

/-- ROLL_CALL_CLOSE (13 R383). -/
def execRollCallClose (s : State) : Host.Outcome State Fault Refusal := due (rollCloseReady s) s (rollCloseEff s)

/-! Messages of the registrar. -/

/-- The effect of ASSIGN (13 R383): the engine named takes the address and acknowledges from it; others forward it and note it. -/
def assignEff (s : State) (b : Nat) (f : Frame) (serial : BitVec 64) (addr : Nat) : State :=
  let t := noteTold serial (pfld f.payload 12 4) 3 (addr % 2 ^ 13) (forwardBcast b f (takeFrame b f s))
  if namedHere s f serial then
    ackFrame f (if msgSeen s f then t else modFabric (fun x => { x with seen := x.seen ++ [msgKey f], addr := some (addr % 2 ^ 13) }) t)
  else if serial = s.steward.serial ∧ msgSeen s f = true then ackFrame f t
  else t

/-- ASSIGN (13 R383). -/
def execAssign (b : Nat) (f : Frame) (serial : BitVec 64) (addr : Nat) (s : State) : Host.Outcome State Fault Refusal :=
  due (inInbox s b f) s (assignEff s b f serial addr)

/-- The effect of ADMIT (13 R395): the engine named takes its admission state and reason; others forward it and note the state. -/
def admitEff (s : State) (b : Nat) (f : Frame) (serial : BitVec 64) (state reason : Nat) : State :=
  let t := noteTold serial (pfld f.payload 12 4) 4 (stateNoted state reason) (forwardBcast b f s)
  if namedHere s f serial then takeMsg b f (takeAdmission false state reason) t else takeFrame b f t

/-- ADMIT (13 R395). -/
def execAdmitFrame (b : Nat) (f : Frame) (serial : BitVec 64) (state reason : Nat) (s : State) : Host.Outcome State Fault Refusal :=
  due (inInbox s b f) s (admitEff s b f serial state reason)

/-! Route updates (13 R391, R392). -/

/-- Send DRAIN on the bundles of a list, before the frames that wait there: it carries in EPOCH the epoch that the engine has from now on (13 R391). -/
def drainOn : List Nat → State → State
  | [], s => s
  | b :: bs, s => drainOn bs (modFabric (fun x => { x with out := (b, makeFrame 0 6 0 0 0 [] s) :: x.out }) s)

/-- The update takes effect (13 R391): new entries, DRAIN on every up bundle, the new epoch; input ports keep the old entries until their DRAIN, those of bundles that are
down until 64 beats after T (R392). Reason 0x4 ends (R396). -/
def takeUpdate (u : RouteUpd) (s : State) : State :=
  let ports := (s.fabric.bundles.map (·.1)).filter fun b => !s.fabric.early.contains (b, u.epoch)
  let t := modFabric (fun x => { x with
    old := x.routes, routes := u.entries, onOld := ports, early := x.early.filter (fun e => e.2 != u.epoch), switchAt := upBeat s + 64 - (beatOf s - u.beat),
    epoch := u.epoch, updates := x.updates.filter (· ≠ u),
    members := x.members.map fun r => if r.state = 3 then { r with state := 2 } else r }) s
  let v := drainOn (upBundles t) (if u.epoch = s.fabric.epoch then t else raiseInt 8 t)
  if v.fabric.admission = 1 ∧ v.fabric.reason = 4 then takeAdmission false 2 0 v else v

/-- The entries of an update as a table. -/
def entryTable (es : List (Nat × BitVec 32)) : Tab (BitVec 32) := es.foldl (fun t e => tabPut 0 t (e.1 % 16384) e.2) []

/-- More entries of a table. -/
def addEntries (t : Tab (BitVec 32)) (es : List (Nat × BitVec 32)) : Tab (BitVec 32) := es.foldl (fun t e => tabPut 0 t (e.1 % 16384) e.2) t

/-- The beat whose low 32 bits are `aux`, nearest the present one (13 R385). -/
def fullBeat (now aux : Nat) : Nat :=
  let base := now / 2 ^ 32 * 2 ^ 32 + aux
  if now + 2 ^ 31 < base ∧ 2 ^ 32 ≤ base then base - 2 ^ 32 else if base + 2 ^ 31 < now then base + 2 ^ 32 else base

/-- A supplied table that the entries issued to this engine do not follow was rejected (13 R390). -/
def rejectedBy (f : Fabric) (es : Tab (BitVec 32)) : Bool := match f.supplied with
  | some x => decide (tableOf x ≠ es)
  | none => false

/-- An update for this engine waits for its beat; one received later takes effect at once (13 R391). A further frame of it adds its entries. -/
def gotUpdate (u : RouteUpd) (entries : List (Nat × BitVec 32)) (s : State) : State :=
  match s.fabric.updates.find? (fun x => x.epoch == u.epoch) with
  | some x =>
    let es := addEntries x.entries entries
    modFabric (fun z => { z with updates := z.updates.map (fun y => if y = x then { y with entries := es } else y), tableRejected := rejectedBy z es }) s
  | none =>
    if u.epoch = s.fabric.epoch ∧ s.fabric.epoch ≠ 0 then
      modFabric (fun z => { z with routes := addEntries z.routes entries, tableRejected := rejectedBy z (addEntries z.routes entries) }) s
    else
      let y := modFabric (fun z => { z with updates := z.updates ++ [u], tableRejected := rejectedBy z u.entries }) s
      if u.beat < beatOf s then takeUpdate u y else y

/-- The registrar takes the table that another engine supplies: an empty one returns it to computed routes; after the last frame of it an update follows (13 R390,
R393). -/
def gotTable (serial : BitVec 64) (first : Bool) (left : Nat) (entries : List (Nat × BitVec 32)) (s : State) : State :=
  let was := if first then [] else ((s.fabric.given.find? fun e => e.1 == serial).map (·.2)).getD []
  let t := addEntries was entries
  let u := modFabric (fun x => { x with given := x.given.filter (fun e => e.1 != serial) ++ (if t.isEmpty then [] else [(serial, t)]) }) s
  if left = 0 then reissue u else u

/-- The effect of ROUTE_UPDATE: the engine named takes the update; one that another engine sends to the registrar carries that engine's supplied table (13 R390, R391,
log 40). -/
def routeUpdateEff (s : State) (b : Nat) (f : Frame) (entries : List (Nat × BitVec 32)) : State :=
  let t := forwardBcast b f s
  let serial := BitVec.ofNat 64 (pfld f.payload 0 8)
  if namedHere s f serial then
    takeMsg b f (gotUpdate ⟨pfld f.payload 8 4, fullBeat (beatOf s) f.hdr.aux.toNat, entryTable entries⟩ entries) t
  else if s.fabric.registrar = some s.steward.serial ∧ f.hdr.src ≠ srcField s then
    takeMsg b f (gotTable serial (f.hdr.aux.toNat + 1 == pfld f.payload 8 4) f.hdr.aux.toNat entries) t
  else takeFrame b f t

/-- ROUTE_UPDATE (13 R391). -/
def execRouteUpdate (b : Nat) (f : Frame) (entries : List (Nat × BitVec 32)) (s : State) : Host.Outcome State Fault Refusal :=
  due (inInbox s b f) s (routeUpdateEff s b f entries)

/-- The update whose effective beat has begun. -/
def dueUpdate (s : State) : Option RouteUpd := s.fabric.updates.find? fun u => decide (u.beat ≤ beatOf s)

/-- ROUTE_EFFECTIVE (13 R391). -/
def execRouteEffective (s : State) : Host.Outcome State Fault Refusal :=
  due (dueUpdate s).isSome s (match dueUpdate s with
    | some u => takeUpdate u s
    | none => s)

/-- The effect of DRAIN: the input bundle routes by the new entries from the next header on (13 R392), also when this engine has yet to reach the beat. -/
def drainEff (s : State) (b : Nat) (f : Frame) : State :=
  let e := f.hdr.epoch.toNat
  let t := takeFrame b f s
  if e = s.fabric.epoch then modFabric (fun x => { x with onOld := x.onOld.erase b }) t
  else modFabric (fun x => { x with early := (b, e) :: x.early.filter (fun y => y.1 != b), onOld := x.onOld.erase b }) t

/-- DRAIN is due: of the epoch in force, or of an update that waits. -/
def drainReady (s : State) (b : Nat) (f : Frame) : Bool :=
  inInbox s b f && (f.hdr.epoch.toNat == s.fabric.epoch || s.fabric.updates.any fun u => u.epoch == f.hdr.epoch.toNat)

/-- DRAIN (13 R392). -/
def execDrain (b : Nat) (f : Frame) (s : State) : Host.Outcome State Fault Refusal := due (drainReady s b f) s (drainEff s b f)

/-- INPUT_PORT_SWITCH_TIMEOUT (13 R392): the input port of a bundle that is down switches 64 beats after the update. -/
def execInputPortSwitchTimeout (b : Nat) (s : State) : Host.Outcome State Fault Refusal :=
  dueAt (bundleThere s b)
    (s.fabric.onOld.contains b && !(tabGet bundleZero s.fabric.bundles b).up && decide (s.fabric.switchAt ≤ upBeat s)) s
    (modFabric (fun x => { x with onOld := x.onOld.erase b }) s)

/-! Acknowledgements (13 R387). -/

/-- Remove the oldest message that the ACK answers. -/
def ackOut (src : Nat) (h : FrameHdr) : List OutMsg → List OutMsg
  | [] => []
  | m :: ms => if (m.dst = src ∨ m.dst = anyAddr) ∧ m.frame.hdr.tag = h.tag ∧ m.frame.hdr.task = h.task then ms else m :: ackOut src h ms

/-- ACK (13 R387). -/
def execAck (b : Nat) (f : Frame) (s : State) : Host.Outcome State Fault Refusal :=
  due (inInbox s b f) s (modFabric (fun x => { x with unacked := ackOut (f.hdr.src.toNat % 2 ^ 13) f.hdr x.unacked }) (takeFrame b f s))

/-- The message to `dst` of TAG `tag` whose acknowledgement is 4 beats overdue. -/
def overdue (s : State) (dst : Nat) (tag : BitVec 32) : Option OutMsg :=
  s.fabric.unacked.find? fun m => m.dst == dst && m.frame.hdr.tag == tag && decide (m.sent + 4 ≤ upBeat s)

/-- The effect of MESSAGE_RESEND: sent again with the same TAG, up to 16 times; then it is lost. -/
def resendEff (s : State) (dst : Nat) (tag : BitVec 32) : State :=
  match overdue s dst tag with
  | none => s
  | some m =>
    if m.tries < 16 then
      (if m.frame.hdr.dst.getLsbD 15 then flood 32 m.frame else emitFrame dst m.frame) (modFabric (fun x => { x with
        unacked := x.unacked.map fun y => if y = m then { y with sent := upBeat s, tries := y.tries + 1 } else y }) s)
    else modFabric (fun x => { x with unacked := x.unacked.erase m, lost := x.lost ++ [(dst, tag)] }) s

/-- MESSAGE_RESEND (13 R387). -/
def execMessageResend (dst : Nat) (tag : BitVec 32) (s : State) : Host.Outcome State Fault Refusal :=
  due (overdue s dst tag).isSome s (resendEff s dst tag)

/-! A fabric of one (13 R384). -/

/-- FABRIC_OF_ONE is due: no bundle is up 4,096 beats after training ended. -/
def ofOneReady (s : State) : Bool :=
  (upBundles s).isEmpty && (match s.fabric.trained with
    | some t => decide (t + 4096 ≤ upBeat s)
    | none => false)

/-- The engine keeps its own time: it announces, and what it held of a keeper is forgotten (15 R441). -/
def keepOwn (s : State) : State :=
  setTimeSt 1 { s with time := { becomeKeeper s.time with unsync := false } }

/-- The engine is a fabric of one: address 0, epoch 0, its own registrar, alone, its own keeper (13 R384, 15 R441). -/
def ofOne (s : State) : State :=
  keepOwn (setFabric 0 (modFabric (fun x => { x with
    addr := some 0, epoch := 0, registrar := some s.steward.serial, admission := 0, reason := 0, rolling := false, trained := none,
    routes := tabPut 0 (tabPut 0 x.routes 0 (mkEntry true 0 0)) 8192 (mkEntry true 0 0) }) s))

/-- FABRIC_OF_ONE (13 R384). -/
def execFabricOfOne (s : State) : Host.Outcome State Fault Refusal := due (ofOneReady s) s (ofOne s)

/-! Bundles (13 R382, 14 R430, 17 R489). -/

/-- The launched tasks that hold a claim on bundle `b`. -/
def claimTasks (s : State) (b : Nat) : List Nat :=
  (s.steward.tasks.filter fun t => t.state == .launched && (match imageOf s t with
    | some i => i.claims.any fun c => c.member == t.member && c.bundle == b
    | none => false)).map (·.num)

/-- The lanes that the bundle's ports carry now differ from the recorded ones. -/
def lanesDiffer (s : State) (b : Nat) : Bool := laneMask s (b / 8) b != (tabGet bundleZero s.fabric.bundles b).lanes

/-- BUNDLE_CHANGE is due: an up bundle whose lanes changed goes down; a bundle that is down and has lanes comes up. -/
def bundleReady (s : State) (b : Nat) (up : Bool) : Bool :=
  let x := tabGet bundleZero s.fabric.bundles b
  if up then !x.up && laneMask s (b / 8) b != 0 && (tabGet none s.links.training (b / 8)).isNone else x.up && lanesDiffer s b

/-- The effect of BUNDLE_CHANGE: tasks with claims on a bundle that goes down abort with BUNDLE_LOST (17 R489); a roll call begins (13 R382). -/
def bundleEff (s : State) (b : Nat) (up : Bool) : State :=
  if up then startRoll (refreshBundle (b / 8) b true s)
  else
    let ns := claimTasks s b
    startRoll (haltForRepair 0x0D02 ns (markRepair ns
      (modFabric (fun x => { x with bundles := tabMod bundleZero x.bundles b fun y => { y with up := false } }) s)))

/-- BUNDLE_CHANGE (13 R382). -/
def execBundleChange (b : Nat) (up : Bool) (s : State) : Host.Outcome State Fault Refusal :=
  dueAt (bundleThere s b) (bundleReady s b up) s (bundleEff s b up)

end Sys2Proof.Machine
end

