-- ==== Sys2Proof/Machine/HostOps.lean ====
section
/-!
DEFINITION. The host port and the porch (19_ports_integration R529 to R539): answers to the engine's requests, timeouts, credits, snoops.
-/
namespace Sys2Proof.Machine

/-- Change the host port. -/
def modHost (f : HostPort → HostPort) (s : State) : State := { s with host := f s.host }

/-- The outstanding request of a tag. -/
def reqOf (s : State) (tag : Nat) : Option HostReq := s.host.out.find? fun r => r.tag == tag

/-! The porch (19 R537). -/

/-- The porch set of a host address. -/
def porchSet (addr : Nat) : Nat := addr / 64 % 128

/-- Evict the least recently used line of a full set: a modified line is written back (19 R537, R539). -/
def porchEvict (addr : Nat) (s : State) : State :=
  let ls := s.host.porch.filter fun l => porchSet l.addr == porchSet addr
  if ls.length < 16 then s
  else match ls with
    | [] => s
    | l :: _ =>
      let t := modHost (fun h => { h with porch := h.porch.filter fun x => x.addr != l.addr }) s
      if l.modified then issueReq .writeBack ⟨0, 0x05, 0, 0, 0, l.addr, 1, l.data⟩ t else t

/-- The writes held for a line, in order. -/
def heldData (addr : Nat) : List PorchWrite → List Byte → List Byte
  | [], bs => bs
  | w :: ws, bs => heldData addr ws (if w.addr = addr then splice bs w.offset w.data else bs)

/-- A line arrives: held writes go into a line taken for ownership (19 R537). -/
def porchInstall (addr : Nat) (own : Bool) (data : List Byte) (s : State) : State :=
  let t := porchEvict addr (modHost (fun h => { h with porch := h.porch.filter fun x => x.addr != addr }) s)
  let held := s.host.held.any fun w => w.addr == addr
  modHost (fun h => { h with
    porch := h.porch ++ [⟨addr, own && held, if own then heldData addr s.host.held data else data⟩],
    held := if own then h.held.filter (fun w => w.addr != addr) else h.held }) t

/-- Is the line the doorbell line of a queue whose context still takes host accesses (11 R347)? -/
def isDoor (s : State) (addr : Nat) : Bool := s.steward.queues.any fun q => q.door == addr && (ctxOf s q.ctx).state != 2

/-- What the porch still wants of a line once nothing of it is in flight: an owner's copy for held writes, or a doorbell line afresh (19 R537, R539). -/
def porchWant (addr : Nat) (s : State) : State :=
  if s.host.held.any (fun w => w.addr == addr) then porchFill true addr s
  else if isDoor s addr = true ∧ (porchLine s.host addr).isNone = true then porchFill false addr s
  else s

/-- A write of a status or mirror line failed: HOST_WRITE_ERROR in each context that the line belongs to (11 R335). -/
def lineError (addr : Nat) (s : State) : State :=
  let t := modHost (fun h => { h with held := h.held.filter fun w => w.addr != addr }) s
  let u := (s.steward.queues.filter fun q => q.status == addr).foldl (fun x q => ctxFault q.ctx 0x0225 q.id addr x) t
  (s.steward.fences.filter fun e => e.2.mirror == addr).foldl (fun x e => match e.2.ctx with
    | some c => ctxFault c 0x0225 0xFFFF addr x
    | none => x) u

/-- A doorbell line could not be read: CHAIN_FETCH_ERROR in its queue's context (11 R334). -/
def doorError (addr : Nat) (s : State) : State :=
  (s.steward.queues.filter fun q => q.door == addr).foldl (fun x q => ctxFault q.ctx 0x0222 q.id addr x) s

/-! Answers (19 R534). -/

/-- A request fetch is answered: the word arrives and REQ_HEAD advances, or the mailbox halts (10 R300, R303). -/
def gotReq (m status : Nat) (data : List Byte) (s : State) : State :=
  if status = 0 then modMbox m (fun b => { b with fetching := false, arrived := some (bytesWord data), reqHead := b.reqHead + 1 }) s
  else modMbox m (fun b => { b with fetching := false, st := 2, haltCause := 2 }) s

/-- A response write is answered: acknowledged, or the mailbox halts, or becomes disabled where it is being disabled (10 R302, R303, R304). -/
def gotRspAck (m status : Nat) (s : State) : State :=
  if status = 0 then modMbox m (fun b => { b with rspAcked := true }) s
  else modMbox m (fun b => if b.enable then { b with rsp := none, st := 2, haltCause := 3 } else { b with rsp := none, st := 0 }) s

/-- A descriptor fetch is answered: the word arrives, or CHAIN_FETCH_ERROR (11 R334). The word of a queue that has stopped is discarded. -/
def gotDesc (q status addr : Nat) (data : List Byte) (s : State) : State :=
  match queueOf s q with
  | none => s
  | some x =>
    let t := modQueue q (fun x => { x with fetching := none, arrived := if status = 0 ∧ x.state = 0 then some (bytesWord data) else none }) s
    if status ≠ 0 ∧ x.state = 0 then ctxFault x.ctx 0x0222 q addr t else t

/-- A queue's descriptor fetch in flight and the word that has arrived are discarded; the descriptor stays to be fetched. -/
def killDesc (q : Nat) (s : State) : State :=
  modQueue q (fun x => { x with fetching := none, arrived := none }) (modHost (fun h => { h with
    out := h.out.map (fun r => if r.purpose = .descFetch q then { r with purpose := .dead } else r),
    waitq := h.waitq.filter fun r => r.1 != .descFetch q }) s)

/-- Remove a queue: nothing of it is fetched or written any more. -/
def dropQueue (q : Nat) (s : State) : State :=
  let line := (queueOf s q).map (·.status)
  let t := modHost (fun h => { h with held := h.held.filter fun y => some y.addr != line }) (killDesc q s)
  { t with steward := { t.steward with queues := t.steward.queues.filter fun y => y.id != q } }

/-- Every task of the queue has its record written, or has none. -/
def queueSettled (s : State) (q : Nat) : Bool :=
  s.steward.tasks.all fun t => t.queue != q || !(t.record == .toWrite || t.record == .writing || t.record == .acked)

/-- A queue whose destruction waits is removed, and QUEUE_DESTROY answered, once its last record is written (11 R331, R342, log 93). -/
def endQueue (q : Nat) (s : State) : State :=
  match queueOf s q with
  | none => s
  | some x =>
    match x.closing with
    | none => s
    | some m => if queueSettled s q then respond m 0 [] (dropQueue q s) else s

/-- A record write is answered: acknowledged, or HOST_WRITE_ERROR; the task keeps its final state, and a completed task's fence is signalled all the same (11 R335,
R346). -/
def gotRecord (n status addr : Nat) (s : State) : State :=
  match taskOf s n with
  | none => s
  | some t =>
    if status = 0 then modTask n (fun t => { t with record := .acked }) s
    else
      let a := ctxFault t.ctx 0x0225 t.queue addr (modTask n (fun t => { t with record := .dropped }) s)
      let b := match t.state, t.sigFence with
        | .completed, some f => setFence f true a
        | _, _ => a
      resetAnswer (endQueue t.queue (tryRecord t.queue b))

/-- The queues whose creation waits for the status line at `addr` (11 R331): their commands are answered once the line holds the first status. -/
def answerCreates (addr : Nat) : List (Nat × Mailbox) → State → State
  | [], s => s
  | (m, b) :: bs, s =>
    answerCreates addr bs (match b.executing with
      | some w =>
        if b.awaits = true ∧ wfld w 4 2 = 0x13 ∧ wfld w 0x14 8 = addr then
          (match s.steward.queues.find? (fun q => q.status == addr) with
            | some q => respond m 0 [(8, 2, q.id)] s
            | none => s)
        else s
      | none => s)

/-- Answer the creations that wait for a line. -/
def createDone (addr : Nat) (s : State) : State := answerCreates addr s.steward.mboxes s

/-- The answer of a copy to the host whose writes are over: HOST_FAULT where one failed, STORE_READ_ERROR where a line stopped it, else OK (10 R314, R323). -/
def endCopy (c : HostCopy) (s : State) : State :=
  if c.failed then respond c.mbox 0x0109 [(8, 4, c.done)] s
  else match c.line with
    | some l => respond c.mbox 0x010C [(8, 4, c.done), (0x0C, 8, l * 64)] s
    | none => respond c.mbox 0 [(8, 4, c.done)] s

/-- A write of a copy to the host is answered (10 R311, R314). -/
def gotCopy (m n status : Nat) (s : State) : State :=
  match s.steward.copies.find? (fun c => c.mbox == m) with
  | none => s
  | some c =>
    let d : HostCopy := { c with left := c.left - 1, done := if status = 0 then c.done + n else c.done, failed := c.failed || status != 0 }
    let rest := s.steward.copies.filter fun x => x.mbox != m
    if d.left = 0 then endCopy d { s with steward := { s.steward with copies := rest } }
    else { s with steward := { s.steward with copies := rest ++ [d] } }

/-- Act on an answer by what the request was for. -/
def gotAnswer (r : HostReq) (status : Nat) (data : List Byte) (s : State) : State :=
  match r.purpose with
  | .reqFetch m => gotReq m status data s
  | .rspWrite m => gotRspAck m status s
  | .copyWrite m n => gotCopy m n status s
  | .descFetch q => gotDesc q status r.addr data s
  | .recordWrite n => gotRecord n status r.addr s
  | .fill own => if status = 0 then createDone r.addr (porchWant r.addr (porchInstall r.addr own data s)) else if own then createDone r.addr (lineError r.addr s) else doorError r.addr s
  | .writeBack => porchWant r.addr (if status = 0 then s else lineError r.addr s)
  | .dead => s

/-- Free the tag of a request and send what waits for one. -/
def freeReq (tag : Nat) (s : State) : State := pumpReq (modHost (fun h => { h with out := h.out.filter fun r => r.tag != tag }) s)

/-- The tag waits for its late response (19 R534). -/
def isLate (s : State) (tag : Nat) : Bool := s.host.late.any fun x => x.1 == tag

/-- The effect of HOST_RESPONSE. A response with a reserved STATUS is discarded and counted (19 R532); a late one is discarded and counted (R534). -/
def hostRspEff (s : State) (tag status : Nat) (data : List Byte) : State :=
  if 4 ≤ status then modHost (fun h => { h with ferr := satInc 255 h.ferr }) s
  else match reqOf s tag with
    | some r => gotAnswer r status data (freeReq tag s)
    | none =>
      if isLate s tag then modHost (fun h => { h with late := h.late.filter (fun x => x.1 != tag), lateRsp := satInc 255 h.lateRsp }) s else s

/-- HOST_RESPONSE (19 R534). -/
def execHostResponse (tag status : Nat) (data : List Byte) (s : State) : Host.Outcome State Fault Refusal := .next (hostRspEff s tag status data)

/-- REQUEST_TIMEOUT is due: TIMEOUT µs have passed since the request was issued. -/
def timeoutReady (s : State) (tag : Nat) : Bool :=
  match reqOf s tag with
  | some r => decide (r.issued + 1000 * s.host.timeout ≤ s.time.up)
  | none => false

/-- The effect of REQUEST_TIMEOUT: a response with STATUS 0x3 is synthesised and counted, and the tag is held back (19 R534). -/
def timeoutEff (s : State) (tag : Nat) : State :=
  match reqOf s tag with
  | none => s
  | some r =>
    gotAnswer r 3 [] (freeReq tag (modHost (fun h => { h with
      timeouts := satInc 65535 h.timeouts, late := h.late ++ [(tag, s.time.up + 4000 * h.timeout)] }) s))

/-- REQUEST_TIMEOUT (19 R534). -/
def execRequestTimeout (tag : Nat) (s : State) : Host.Outcome State Fault Refusal := due (timeoutReady s tag) s (timeoutEff s tag)

/-- TAG_RELEASE (19 R534): 4 × TIMEOUT has passed without the late response; the tag may be used again. -/
def execTagRelease (tag : Nat) (s : State) : Host.Outcome State Fault Refusal :=
  due (s.host.late.any fun x => x.1 == tag && decide (x.2 ≤ s.time.up)) s
    (pumpReq (modHost (fun h => { h with late := h.late.filter fun x => x.1 != tag }) s))

/-- FERR_DISCARD (19 R531): a damaged message is discarded whole and counted. -/
def execFerrDiscard (s : State) : Host.Outcome State Fault Refusal := .next (modHost (fun h => { h with ferr := satInc 255 h.ferr }) s)

/-- HP_TX_CREDIT (19 R530): credits return and what they allow is sent. -/
def execHpTxCredit (vn n : Nat) (s : State) : Host.Outcome State Fault Refusal :=
  .next (pumpTx (modHost (fun h => { h with credit := tabMod 0 h.credit (vn % 4) (· + n) }) s))

/-- RESERVED_HOST_MESSAGE (19 R532): a REQ of a reserved encoding is answered with STATUS 0x1, any other message is discarded and counted. -/
def execReservedHostMessage (isReq : Bool) (tag : Nat) (s : State) : Host.Outcome State Fault Refusal :=
  .next (if isReq then sendMsg ⟨1, 0x30, tag, 1, 0, 0, 0, []⟩ s else modHost (fun h => { h with ferr := satInc 255 h.ferr }) s)

/-! Snoops (19 R538, R539). -/

/-- A write-back of the line is in flight. -/
def backInFlight (s : State) (addr : Nat) : Bool :=
  s.host.out.any (fun r => r.purpose == .writeBack && r.addr == addr) || s.host.waitq.any (fun r => r.1 == .writeBack && r.2.addr == addr)

/-- The RESULT code and data of a snoop (19 R538). -/
def snoopResult (s : State) (addr : Nat) : Nat × List Byte :=
  match porchLine s.host addr with
  | some l => if l.modified then (2, l.data) else (1, [])
  | none => (if backInFlight s addr then 3 else 0, [])

/-- Answer a snoop. -/
def snoopReply (tag : Nat) (r : Nat × List Byte) (s : State) : State := sendMsg ⟨1, 0x30, tag, 0, r.1, 0, r.2.length / 64, r.2⟩ s

/-- The effect of SNOOP_INVALIDATE: the line leaves the porch; a doorbell line is read afresh at once (19 R537). -/
def snoopInvEff (s : State) (tag addr : Nat) : State :=
  porchWant addr (modHost (fun h => { h with porch := h.porch.filter fun l => l.addr != addr }) (snoopReply tag (snoopResult s addr) s))

/-- SNOOP_INVALIDATE (19 R538). -/
def execSnoopInvalidate (tag addr : Nat) (s : State) : Host.Outcome State Fault Refusal := .next (snoopInvEff s tag addr)

/-- SNOOP_SHARE (19 R538): a held line becomes shared. -/
def execSnoopShare (tag addr : Nat) (s : State) : Host.Outcome State Fault Refusal :=
  .next (modHost (fun h => { h with porch := h.porch.map fun l => if l.addr = addr then { l with modified := false } else l })
    (snoopReply tag (snoopResult s addr) s))

end Sys2Proof.Machine
end

