-- ==== Sys2Proof/Machine/MailOps.lean ====
section
/-!
DEFINITION. The mailbox hardware and the checks of a request word (10_steward_mailboxes R299 to R311).
-/
namespace Sys2Proof.Machine

/-- The hard part is out of reset: registers can be written (20 R558). -/
def hardUp (s : State) : Bool := s.seq.step == .run || (s.seq.step == .failed && s.time.running)

/-- Pointer arithmetic modulo 2^32 (10 R301). -/
def behind (a b : BitVec 32) : Nat := (a - b).toNat

/-- A write of MBX_DOORBELL (10 R299, R301): ignored while ENABLE is 0; an overrun halts the mailbox; the write replaces TAIL. -/
def doorbellWrite (m : Nat) (tail : BitVec 32) (s : State) : State :=
  let b := mbox s m
  if b.enable = false then s
  else modMbox m (fun b =>
    if 2 ^ b.sizeLog2 < behind tail b.reqHead ∧ b.st = 1 then { b with tail := tail, st := 2, haltCause := 1 } else { b with tail := tail }) s

/-- MBX_DOORBELL (10 R301). -/
def execMbxDoorbell (m : Nat) (tail : BitVec 32) (s : State) : Host.Outcome State Fault Refusal :=
  dueAt (decide (m < 64)) (hardUp s && (mbox s m).enable) s (doorbellWrite m tail s)

/-- Outstanding request fetches of a mailbox lose their meaning (10 R304). -/
def killFetch (m : Nat) (s : State) : State :=
  modHost (fun h => { h with
    out := h.out.map (fun r => if r.purpose = .reqFetch m then { r with purpose := .dead } else r),
    waitq := h.waitq.filter fun r => r.1 != .reqFetch m }) s

/-- SIZE_LOG2 and NOTIFY_EN of a write of MBX_CTRL: SIZE_LOG2 keeps its value while ENABLE is 1 and for an undefined encoding (10 R294, 00 R14). -/
def ctrlFields (v : BitVec 32) (b : Mailbox) : Mailbox :=
  let n := v.toNat / 2 ^ 8 % 16
  { b with notifyEn := v.getLsbD 1, sizeLog2 := if b.enable = false ∧ 2 ≤ n ∧ n ≤ 12 then n else b.sizeLog2 }

/-- ENABLE from 0 to 1 (10 R299). Where a command taken before still executes, the mailbox runs at once and that command's response goes to the ring address in effect when it began,
at the new RSP_TAIL: the manual does not say (DESIGN CHOICE, log 103). -/
def enableMbox (b : Mailbox) : Mailbox :=
  { b with enable := true, tail := 0, reqHead := 0, rspTail := 0, rspHead := 0, haltCause := 0, st := 1, fetching := false, arrived := none }

/-- ENABLE from 1 to 0 (10 R304): fetching stops; the mailbox is disabled once a command that executes has its response written. -/
def disableMbox (b : Mailbox) : Mailbox :=
  { b with enable := false, fetching := false, arrived := none, st := if b.executing.isSome ∨ b.rsp.isSome then b.st else 0 }

/-- A write of MBX_CTRL (10 R294, R299, R304). -/
def ctrlWrite (m : Nat) (v : BitVec 32) (s : State) : State :=
  let was := (mbox s m).enable
  let t := modMbox m (ctrlFields v) s
  if was = false ∧ v.getLsbD 0 = true then modMbox m enableMbox t
  else if was = true ∧ v.getLsbD 0 = false then killFetch m (modMbox m disableMbox t)
  else t

/-- MBX_ENABLE (10 R299): a write of MBX_CTRL that sets ENABLE from 0 to 1. -/
def execMbxEnable (m : Nat) (ctrl : BitVec 32) (s : State) : Host.Outcome State Fault Refusal :=
  dueAt (decide (m < 64)) (hardUp s && !(mbox s m).enable && ctrl.getLsbD 0) s (ctrlWrite m ctrl s)

/-- MBX_DISABLE (10 R304): a write of MBX_CTRL that clears ENABLE. -/
def execMbxDisable (m : Nat) (ctrl : BitVec 32) (s : State) : Host.Outcome State Fault Refusal :=
  dueAt (decide (m < 64)) (hardUp s && (mbox s m).enable && !ctrl.getLsbD 0) s (ctrlWrite m ctrl s)

/-- The mailbox may fetch request word REQ_HEAD (10 R300). -/
def fetchReady (s : State) (m : Nat) : Bool :=
  let b := mbox s m
  s.steward.up && b.enable && b.st == 1 && b.reqHead != b.tail && !b.fetching && b.arrived.isNone && b.executing.isNone && b.rsp.isNone &&
    decide (behind b.rspTail b.rspHead < 2 ^ b.sizeLog2)

/-- The host address of request word REQ_HEAD (10 R300). -/
def reqAddr (b : Mailbox) : Nat := b.reqBase.toNat + 64 * (b.reqHead.toNat % 2 ^ b.sizeLog2)

/-- The effect of MBX_REQUEST_FETCH: one 64-byte read. -/
def fetchEff (s : State) (m : Nat) : State :=
  issueReq (.reqFetch m) (readMsg (reqAddr (mbox s m)) 1) (modMbox m (fun b => { b with fetching := true }) s)

/-- MBX_REQUEST_FETCH (10 R300). -/
def execMbxRequestFetch (m : Nat) (s : State) : Host.Outcome State Fault Refusal :=
  dueAt (decide (m < 64)) (fetchReady s m) s (fetchEff s m)

/-! The checks of a new request (10 R309, R310). -/

/-- The opcodes of R309. -/
def opcodes : List Nat :=
  [0x01, 0x02, 0x03, 0x10, 0x11, 0x12, 0x13, 0x14, 0x15, 0x16, 0x17, 0x18, 0x19, 0x20, 0x21, 0x22, 0x28, 0x29, 0x2A, 0x2B, 0x2C, 0x30, 0x31, 0x32,
    0x33, 0x34, 0x35, 0x36, 0x37, 0x38, 0x39, 0x3A]

/-- The commands that a privileged mailbox alone may send (10 R309). -/
def privOps : List Nat := [0x03, 0x10, 0x11, 0x30, 0x31, 0x32, 0x33, 0x34, 0x35, 0x37, 0x38, 0x39, 0x3A]

/-- The commands that any mailbox may send (10 R309). -/
def anyOps : List Nat := [0x01, 0x02, 0x36]

/-- The commands taken before ENGINE_PHASE is ready (10 R310 step 7). -/
def earlyOps : List Nat := [0x01, 0x02, 0x03, 0x36, 0x38, 0x3A]

/-- The fields of ARGS by opcode, as offset and size (10 R312 to R317, 11 R326, R331, R336, R345, 12 R373, R374, 14 R432, 15 R451, 16 R476, 17 R502, R504, 18 R522,
19 R551). Every other byte of ARGS is reserved. -/
def argFields (op : Nat) : List (Nat × Nat) :=
  let staged (fs : List (Nat × Nat)) : List (Nat × Nat) := [(0x0C, 1), (0x0E, 2), (0x10, 8)] ++ fs
  match op with
  | 0x03 => [(0x0C, 1), (0x0D, 1), (0x0E, 2)]
  | 0x10 => [(0x0C, 2), (0x10, 8), (0x18, 8)]
  | 0x11 => [(0x0C, 2)]
  | 0x12 => [(0x0C, 1)]
  | 0x13 => [(0x0C, 8), (0x14, 8), (0x1C, 8), (0x24, 8), (0x2C, 1), (0x2E, 2), (0x30, 2)]
  | 0x14 => [(0x0C, 2)]
  | 0x15 => [(0x0C, 8), (0x14, 1)]
  | 0x16 => [(0x0C, 2)]
  | 0x17 => [(0x0C, 2), (0x0E, 1)]
  | 0x18 => [(0x0C, 4), (0x10, 2), (0x12, 2), (0x14, 4), (0x18, 4), (0x1C, 32)]
  | 0x19 => [(0x0C, 4)]
  | 0x20 => [(0x0C, 8), (0x14, 8)]
  | 0x21 => [(0x0C, 4)]
  | 0x22 => [(0x0C, 4), (0x10, 2)]
  | 0x28 => [(0x0C, 8), (0x14, 4), (0x18, 1)]
  | 0x29 => [(0x0C, 8), (0x14, 4)]
  | 0x2A => [(0x0C, 8), (0x14, 8), (0x1C, 2), (0x1E, 1)]
  | 0x2B => [(0x0C, 4)]
  | 0x2C => [(0x0C, 8), (0x14, 8), (0x1C, 4), (0x20, 1)]
  | 0x30 => staged [(0x18, 4)]
  | 0x31 => staged [(0x18, 1), (0x19, 1), (0x1A, 2), (0x1C, 2), (0x1E, 1), (0x1F, 1), (0x20, 2), (0x22, 1), (0x23, 1), (0x24, 2), (0x26, 2)]
  | 0x32 => staged [(0x18, 1), (0x19, 1), (0x1A, 1), (0x1B, 1), (0x1C, 1), (0x1D, 1), (0x1E, 1)]
  | 0x33 => staged [(0x18, 1), (0x1A, 2), (0x1C, 4), (0x20, 8)]
  | 0x34 => staged [(0x18, 2), (0x1A, 1), (0x20, 8)]
  | 0x35 => staged [(0x18, 1), (0x19, 1), (0x1A, 2), (0x1C, 4), (0x20, 2), (0x22, 1), (0x23, 1)]
  | 0x36 => [(0x0C, 1), (0x0E, 2)]
  | 0x37 => [(0x0C, 1), (0x0E, 2), (0x10, 8)]
  | 0x38 => [(0x0C, 1), (0x0D, 1), (0x0E, 1), (0x0F, 1), (0x10, 1), (0x14, 4)]
  | 0x39 => [(0x0C, 8), (0x14, 4)]
  | 0x3A => [(0x0C, 1)]
  | _ => []

/-- Every byte of ARGS outside the fields is zero. -/
def argsZero (w : MsgWord) (fs : List (Nat × Nat)) : Bool :=
  packFields (fs.map fun f => (f.1, f.2, wfld w f.1 f.2)) == w.toNat / 2 ^ 96 % 2 ^ 384 * 2 ^ 96

/-- The reserved fields of the word outside ARGS are zero (10 R305). -/
def headZero (w : MsgWord) : Bool :=
  wfld w 6 1 / 2 == 0 && decide (wfld w 8 2 < 4096) && wfld w 0xA 2 == 0 && wfld w 0x3C 4 == 0

/-- A value lies in a range. -/
def inRange (lo hi v : Nat) : Bool := decide (lo ≤ v) && decide (v ≤ hi)

/-- The staged header (10 R317, R319): a commit kind that the item admits, and AT_BEAT zero unless COMMIT is 0x2. -/
def stagedOk (op : Nat) (w : MsgWord) : Bool :=
  let c := wfld w 0x0C 1
  let kinds : List Nat := match op with
    | 0x30 => [0, 1, 2]
    | 0x31 => if wfld w 0x18 1 / 2 % 2 = 1 then [1] else [0, 2]
    | 0x34 => [1]
    | 0x35 => [0]
    | _ => [0, 2]
  kinds.contains c && (c == 2 || wfld w 0x10 8 == 0)

/-- A value for PACE_CTRL (02 R44): no reserved bit, MARGIN and PERMITS defined. -/
def paceOk (v : Nat) : Bool :=
  inRange 4 20 (v / 2 ^ 24 % 32) && inRange 732 1280 (v / 2 ^ 8 % 2 ^ 11) && v / 2 ^ 29 == 0 && v / 2 ^ 19 % 32 == 0 && v / 4 % 64 == 0

/-- A POWER_SET item (16 R476). -/
def powerOk (halls : Nat) (w : MsgWord) : Bool :=
  let what := wfld w 0x18 1
  inRange 1 3 what && decide (wfld w 0x19 1 ≤ (if what / 2 = 1 then 1 else 0)) &&
    (if what % 2 = 1 then
      inRange (25 * halls) (200 * halls) (wfld w 0x1A 2) && inRange 16 400 (wfld w 0x1C 2) && inRange 20 50 (wfld w 0x1E 1) && inRange 60 95 (wfld w 0x1F 1) &&
        inRange 256 16384 (wfld w 0x20 2) && inRange 70 105 (wfld w 0x23 1) && inRange 1 511 (wfld w 0x24 2) && inRange 1 255 (wfld w 0x26 2)
    else wfld w 0x1A 14 == 0)

/-- An SB_PIN_SET item (19 R551). -/
def pinOk (pins : Nat) (w : MsgWord) : Bool :=
  decide (wfld w 0x18 1 < pins) && decide (wfld w 0x19 1 ≤ 5) && decide (wfld w 0x1A 1 ≤ 2) && decide (wfld w 0x1B 1 ≤ 2) && decide (1 ≤ wfld w 0x1D 1) &&
    (wfld w 0x19 1 == 4 || wfld w 0x1E 1 == 0)

/-- A TIME_SET item (15 R451). -/
def timeOk (w : MsgWord) : Bool :=
  let f := wfld w 0x18 1
  decide (f < 16) && (if f % 2 = 1 then inRange 1000000 1000000000 (wfld w 0x1C 4) else wfld w 0x1C 4 == 0 && f / 2 % 2 == 0) &&
    (f / 2 % 2 == 1 || wfld w 0x20 8 == 0)

/-- A FABRIC_SET item (13 R390). -/
def fabricOk (w : MsgWord) : Bool :=
  let r := wfld w 0x1A 1
  decide (r ≤ 2) && wfld w 0x20 8 % 64 == 0 && (r == 1 || wfld w 0x20 8 == 0)

/-- A HEALTH_SET item (17 R504). -/
def healthOk (w : MsgWord) : Bool :=
  match wfld w 0x18 1 with
  | 0 => wfld w 0x19 3 == 0 && inRange 24 100000 (wfld w 0x1C 4) && inRange 1 1440 (wfld w 0x20 2) && decide (wfld w 0x22 1 ≤ 1) && decide (1 ≤ wfld w 0x23 1)
  | 1 => inRange 1 7 (wfld w 0x19 1) && wfld w 0x1C 8 == 0
  | _ => false

/-- A store address of 40 bits (10 R314). -/
def storeAddrOk (a : Nat) : Bool := decide (a < 2 ^ 40)

/-- The reserved encodings in ARGS by opcode (10 R310 step 3). A WINDOW that no descriptor of 08 R240 has is one: R314 names no code for it (DESIGN CHOICE, log 46). -/
def argsOk (P : Params) (op : Nat) (w : MsgWord) : Bool :=
  match op with
  | 0x03 => inRange 1 63 (wfld w 0x0C 1) && decide (wfld w 0x0D 1 ≤ 2) && (wfld w 0x0D 1 == 1 || wfld w 0x0E 2 == 0)
  | 0x10 => inRange 1 4095 (wfld w 0x0C 2) || wfld w 0x0C 2 == 0xFFFF
  | 0x11 => decide (wfld w 0x0C 2 < 4096)
  | 0x12 => decide (wfld w 0x0C 1 ≤ 1)
  | 0x13 => [0x0C, 0x14, 0x1C, 0x24].all (fun o => wfld w o 8 % 64 == 0) && inRange 2 12 (wfld w 0x2C 1) &&
      decide (wfld w 0x30 2 ≤ 1000)
  | 0x14 => decide (wfld w 0x0C 2 < 16384)
  | 0x15 => wfld w 0x0C 8 % 64 == 0 && decide (wfld w 0x14 1 ≤ 1)
  | 0x17 => decide (wfld w 0x0E 1 ≤ 1)
  | 0x18 => decide (wfld w 0x10 2 < 16384) && decide (wfld w 0x12 2 ≤ 1) && wfld w 0x16 2 % 2 ^ 15 == 0 && wfld w 0x1A 2 % 2 ^ 15 == 0
  | 0x28 => storeAddrOk (wfld w 0x0C 8) && wfld w 0x0C 8 % 65536 == 0 && inRange 1 2 (wfld w 0x18 1)
  | 0x29 => storeAddrOk (wfld w 0x0C 8) && wfld w 0x0C 8 % 65536 == 0
  | 0x2A => storeAddrOk (wfld w 0x0C 8) && storeAddrOk (wfld w 0x14 8) && decide (wfld w 0x1C 2 < 4096) && decide (wfld w 0x1E 1 < 16) &&
      (decide (wfld w 0x1E 1 < 8) || wfld w 0x1C 2 == 0)
  | 0x2B => decide (wfld w 0x0C 4 < 65536)
  | 0x2C => storeAddrOk (wfld w 0x0C 8) && wfld w 0x0C 8 % 64 == 0 && wfld w 0x1C 4 % 64 == 0 && decide (wfld w 0x20 1 ≤ 1)
  | 0x30 => stagedOk op w && paceOk (wfld w 0x18 4)
  | 0x31 => stagedOk op w && powerOk P.halls w
  | 0x32 => stagedOk op w && pinOk P.sbPins w
  | 0x33 => stagedOk op w && timeOk w
  | 0x34 => stagedOk op w && fabricOk w
  | 0x35 => stagedOk op w && healthOk w
  | 0x36 => decide (wfld w 0x0C 1 ≤ 7)
  | 0x37 => decide (wfld w 0x0C 1 ≤ 1)
  | 0x38 => decide (wfld w 0x0E 1 ≤ 2) && decide (wfld w 0x0F 1 ≤ 2) && decide (wfld w 0x10 1 ≤ 1) &&
      inRange 1 1048576 (wfld w 0x14 4)
  | 0x39 => wfld w 0x0C 8 % 64 == 0
  | 0x3A => decide (wfld w 0x0C 1 ≤ 3)
  | _ => true

/-- Steps 1 to 7 of 10 R310 for a request on a mailbox: the status of the first failure, none when all pass. -/
def requestCheck (P : Params) (phase : Nat) (b : Mailbox) (w : MsgWord) : Option Nat :=
  let op := wfld w 4 2
  let ctx := wfld w 8 2
  if wfld w 7 1 ≠ 5 then some 0x0101
  else if opcodes.contains op = false then some 0x0102
  else if (headZero w && argsZero w (argFields op) && argsOk P op w) = false then some 0x0103
  else if b.binding = 0 ∧ anyOps.contains op = false then some 0x0105
  else if privOps.contains op = true ∧ b.binding ≠ 2 then some 0x0106
  else if (b.binding = 1 ∧ ctx ≠ b.boundCtx) ∨ (privOps.contains op = true ∧ ctx ≠ 0) then some 0x0107
  else if phase ≠ 5 ∧ earlyOps.contains op = false then some 0x0108
  else none

/-- How a request's SEQ is classified (10 R306): new, a duplicate of a kept response, or invalid. -/
inductive SeqClass where
  | new | dup (kept : MsgWord) | invalid
  deriving DecidableEq, Repr

/-- The class of a sequence number (10 R306). -/
def classify (b : Mailbox) (q : BitVec 32) : SeqClass :=
  if b.histValid = false ∨ q = b.last + 1 then .new
  else if (b.last - q).toNat ≤ 15 then
    (match b.hist.find? (fun e => e.1 == q) with
      | some e => .dup e.2
      | none => .invalid)
  else .invalid

/-- A request word is taken: the ring, context and binding in effect are noted (10 R304, R313), and its place in the order of taking (R311). -/
def takeWord (m : Nat) (w : MsgWord) (s : State) : State :=
  modMbox m (fun b => { b with
    arrived := none, exRspBase := b.rspBase, exSize := b.sizeLog2, exCtx := wfld w 8 2, exBinding := b.binding, order := s.steward.taken })
    { s with steward := { s.steward with taken := s.steward.taken + 1 } }

/-- The effect of REQUEST_WORD (10 R306, R310): a new request that passes the checks executes; every other one is answered. -/
def requestEff (s : State) (m : Nat) (w : MsgWord) : State :=
  let t := takeWord m w s
  let notify := decide (wfld w 6 1 % 2 = 1)
  match classify (mbox s m) (BitVec.ofNat 32 (wfld w 0 4)) with
  | .dup kept => writeRsp m kept true notify t
  | .invalid => writeRsp m (rspWord w 0x0104 []) false notify t
  | .new =>
    let u := modMbox m (fun b => { b with executing := some w, awaits := false }) t
    match requestCheck s.params s.steward.phase (mbox s m) w with
    | some code => respond m code [] u
    | none => u

/-- REQUEST_WORD is due: the word has arrived at a running mailbox. A word that has arrived, or is being fetched, when an overrun halts the mailbox is not executed, though REQ_HEAD
has passed it: the manual does not say (DESIGN CHOICE, log 104). -/
def requestReady (s : State) (m : Nat) (w : MsgWord) : Bool := s.steward.up && (mbox s m).st == 1 && (mbox s m).arrived == some w

/-- REQUEST_WORD (10 R306). -/
def execRequestWord (m : Nat) (w : MsgWord) (s : State) : Host.Outcome State Fault Refusal :=
  dueAt (decide (m < 64)) (requestReady s m w) s (requestEff s m w)

/-- The effect of RESPONSE_WRITE_ACK (10 R302): RSP_TAIL advances, the EVT that is due is sent, a mailbox being disabled becomes so (R304). -/
def rspAckEff (s : State) (m : Nat) : State :=
  let b := mbox s m
  let seq := match b.rsp with
    | some w => wfld w 0 4
    | none => 0
  let t := modMbox m (fun b => { b with
    rsp := none, rspAcked := false, rspTail := b.rspTail + 1, st := if b.enable then b.st else 0 }) s
  if b.rspNotify = true ∧ b.notifyEn = true then addEvt ⟨1, m, b.exCtx, seq, 0, 0⟩ t else t

/-- RESPONSE_WRITE_ACK (10 R302): the host port has acknowledged the response write. -/
def execResponseWriteAck (m : Nat) (s : State) : Host.Outcome State Fault Refusal :=
  dueAt (decide (m < 64)) ((mbox s m).rsp.isSome && (mbox s m).rspAcked) s (rspAckEff s m)

/-! Commands: what they share. -/

/-- The kinds of object that commands act on (10 R311). -/
inductive ObjKind where
  | mailbox | context | queue | fence | image | store | window | task | item
  deriving DecidableEq, Repr

/-- An object or a run of objects of one kind: the first number and the one past the last. -/
structure Obj where
  kind : ObjKind
  lo   : Nat
  hi   : Nat
  deriving DecidableEq, Repr

/-- One object. -/
def obj (k : ObjKind) (n : Nat) : Obj := ⟨k, n, n + 1⟩

/-- The fence that a word of TASK_LAUNCH names where VALID (10 R316). -/
def fenceObj (v : Nat) : List Obj := if v / 2 ^ 31 = 1 then [obj .fence (v % 65536)] else []

/-- The objects that a command acts on, by its opcode and arguments; a command that takes the lowest free object, or whose objects its image names, acts on all of them (log 95). -/
def objects (w : MsgWord) : List Obj :=
  let a := wfld w 0x0C 8
  match wfld w 4 2 with
  | 0x03 => [obj .mailbox (wfld w 0x0C 1), obj .context (wfld w 0x0E 2)]
  | 0x10 => [if wfld w 0x0C 2 = 0xFFFF then ⟨.context, 0, 4096⟩ else obj .context (wfld w 0x0C 2)]
  | 0x11 => [obj .context (wfld w 0x0C 2)]
  | 0x12 => [obj .context (wfld w 8 2)]
  | 0x13 => [⟨.queue, 0, 16384⟩]
  | 0x14 => [obj .queue (wfld w 0x0C 2)]
  | 0x15 => [⟨.fence, 0, 65536⟩]
  | 0x16 => [obj .fence (wfld w 0x0C 2)]
  | 0x17 => [obj .fence (wfld w 0x0C 2)]
  | 0x18 => [obj .image (wfld w 0x0C 4), obj .queue (wfld w 0x10 2)] ++ fenceObj (wfld w 0x14 4) ++ fenceObj (wfld w 0x18 4)
  | 0x19 => [obj .task (wfld w 0x0C 4)]
  | 0x20 => [⟨.image, 0, 2 ^ 32⟩, ⟨.store, 0, 2 ^ 40⟩, ⟨.window, 0, 65536⟩]
  | 0x21 => [obj .image (wfld w 0x0C 4), ⟨.store, 0, 2 ^ 40⟩, ⟨.window, 0, 65536⟩]
  | 0x22 => [obj .image (wfld w 0x0C 4)]
  | 0x28 => [⟨.store, a, a + 65536 * wfld w 0x14 4⟩]
  | 0x29 => [⟨.store, a, a + 65536 * wfld w 0x14 4⟩, ⟨.window, 0, 65536⟩]
  | 0x2A => [⟨.store, a, wfld w 0x14 8⟩, ⟨.window, 0, 65536⟩]
  | 0x2B => [obj .window (wfld w 0x0C 4)]
  | 0x2C => [⟨.store, a, a + wfld w 0x1C 4⟩]
  | op => if 0x30 ≤ op ∧ op ≤ 0x35 then [obj .item op] else []

/-- The context whose state a command changes for every command of that context (11 R325). -/
def ctxChanged (w : MsgWord) : Option Nat :=
  match wfld w 4 2 with
  | 0x10 => some (wfld w 0x0C 2)
  | 0x11 => some (wfld w 0x0C 2)
  | 0x12 => if wfld w 0x0C 1 = 1 then some (wfld w 8 2) else none
  | _ => none

/-- Two runs of objects have one in common. -/
def meets (a b : Obj) : Bool := a.kind == b.kind && decide (a.lo < b.hi) && decide (b.lo < a.hi)

/-- CTX_QUERY reports on what every command of its context changes (11 R329). -/
def queries (a b : MsgWord) : Bool := wfld a 4 2 == 0x12 && wfld a 8 2 == wfld b 8 2

/-- Two commands act on the same object (10 R311). CTX_DESTROY, the later one, cuts the other short instead (11 R347). -/
def sameObject (a b : MsgWord) : Bool :=
  wfld b 4 2 != 0x11 && ((objects a).any (fun x => (objects b).any (meets x)) || ctxChanged a == some (wfld b 8 2))

/-- The commands that are applied only when they are answered: what waits for clearing, for accesses to land, for a queue's records. An abort, a copy to the host, the destruction of
a context and the staged commands have been applied, or noted, when they begin to wait (10 R311, R318, 11 R345, R347). -/
def appliedLate : List Nat := [0x13, 0x14, 0x20, 0x21, 0x28, 0x29, 0x2B]

/-- A command of another mailbox, taken earlier and not yet applied, acts on an object of this one: it comes first (10 R311). -/
def behindOther (s : State) (m : Nat) (w : MsgWord) : Bool :=
  s.steward.mboxes.any fun e => e.1 != m && decide (e.2.order < (mbox s m).order) && (match e.2.executing with
    | some v => if e.2.awaits then appliedLate.contains (wfld v 4 2) && wfld w 4 2 != 0x12 && sameObject v w
      else sameObject v w || queries v w || queries w v
    | none => false)

/-- The command row of word `w` is due at mailbox `m`: the steward executes the word there, it is not waiting for an event, the word is the command's, and its turn on
its objects has come. -/
def cmdReady (s : State) (m : Nat) (w : MsgWord) (op : Nat) : Bool :=
  s.steward.up && (mbox s m).executing == some w && !(mbox s m).awaits && wfld w 4 2 == op && !behindOther s m w

/-- A command row: its effect where it is due (10 R309). -/
def cmd (m : Nat) (w : MsgWord) (op : Nat) (s t : State) : Host.Outcome State Fault Refusal := dueAt (decide (m < 64)) (cmdReady s m w op) s t

/-- The response comes with a later event (10 R311, R318). -/
def await (m : Nat) (s : State) : State := modMbox m (fun b => { b with awaits := true }) s

/-- Why a command for context `c` is turned away by the state of the context, if it is: ABORTING (11 R347), or not live (log 42). -/
def ctxRefusal (s : State) (c : Nat) : Option Nat :=
  match (ctxOf s c).state with
  | 2 => some 0x0205
  | 3 => some 0x0203
  | _ => none

end Sys2Proof.Machine
end

