-- ==== Sys2Proof/Machine/StewardOps.lean ====
section
/-!
DEFINITION. The steward's commands on contexts, queues, fences and tasks, and the descriptor chain (11_contexts_queues_fences R324 to R345; 10 R312, R313,
R316).
-/
namespace Sys2Proof.Machine

/-- Change the steward. -/
def modSteward (f : Steward → Steward) (s : State) : State := { s with steward := f s.steward }

/-! NOP, IDENTIFY, MBX_BIND (10 R312, R313). -/

/-- NOP (10 R312): OK. -/
def execNop (m : Nat) (w : MsgWord) (s : State) : Host.Outcome State Fault Refusal := cmd m w 0x01 s (respond m 0 [] s)

/-- The result of IDENTIFY (10 R312). -/
def identity (s : State) : List (Nat × Nat × Nat) :=
  [(0x08, 4, versionReg), (0x0C, 4, configClass s.params), (0x10, 4, s.shell.keep.fwVersion), (0x14, 4, s.shell.keep.fwBuild), (0x18, 1, protocolNo),
    (0x19, 1, if s.shell.keep.pendingFw then 1 else 0), (0x1A, 2, s.fabric.addr.getD 0xFFFF), (0x1C, 8, s.steward.serial.toNat),
    (0x24, 8, classHash s.params), (0x2C, 4, s.fabric.epoch), (0x30, 2, rankNow s), (0x32, 1, s.fabric.admission)]

/-- IDENTIFY (10 R312). -/
def execIdentify (m : Nat) (w : MsgWord) (s : State) : Host.Outcome State Fault Refusal := cmd m w 0x02 s (respond m 0 (identity s) s)

/-- The effect of MBX_BIND (10 R313): the binding holds for the next request that the target mailbox takes. -/
def mbxBindEff (s : State) (m : Nat) (w : MsgWord) : State :=
  let target := wfld w 0x0C 1
  let mode := wfld w 0x0D 1
  let c := wfld w 0x0E 2
  if mode = 1 ∧ (c = 0 ∨ 2 ≤ (ctxOf s c).state) then respond m 0x0107 [] s
  else respond m 0 [] (modMbox target (fun b => { b with binding := mode, boundCtx := if mode = 1 then c else 0 }) s)

/-- MBX_BIND (10 R313). -/
def execMbxBind (m : Nat) (w : MsgWord) (s : State) : Host.Outcome State Fault Refusal := cmd m w 0x03 s (mbxBindEff s m w)

/-! Contexts (11 R324 to R329). -/

/-- The lowest DEAD context number. -/
def deadCtx (s : State) : Option Nat := firstFrom (fun c => c != 0 && (ctxOf s c).state == 3) 4096 0

/-- An aperture is sound (11 R327): 4 KiB multiples, BASE below LIMIT. -/
def apertureOk (lo hi : Nat) : Bool := lo % 4096 == 0 && hi % 4096 == 0 && decide (lo < hi)

/-- The effect of CTX_CREATE (11 R326). -/
def ctxCreateEff (s : State) (m : Nat) (w : MsgWord) : State :=
  let t := wfld w 0x0C 2
  let lo := wfld w 0x10 8
  let hi := wfld w 0x18 8
  match (if t = 0xFFFF then deadCtx s else some t) with
  | none => respond m 0x0201 [] s
  | some c =>
    if (ctxOf s c).state ≠ 3 then respond m 0x0202 [] s
    else if apertureOk lo hi = false then respond m 0x0206 [] s
    else respond m 0 [(8, 2, c)] (modCtx c (fun _ => { ctxZero with state := 0, apBase := lo, apLimit := hi }) s)

/-- CTX_CREATE (11 R326). -/
def execCtxCreate (m : Nat) (w : MsgWord) (s : State) : Host.Outcome State Fault Refusal := cmd m w 0x10 s (ctxCreateEff s m w)

/-- The granules that a context owns, all stores and classes (11 R329); context 0 owns the reserve (08 R238). -/
def granulesOwned (s : State) (c : Nat) : Nat :=
  let listed := (s.store.own.filter fun e => (ownClass e.2 == 1 || ownClass e.2 == 2) && ownCtx e.2 == c &&
    !(c == 0 && saLevel (e.1 * 65536) == 0 && decide (usableCellar s.params.tiers ≤ saOffset (e.1 * 65536)))).length
  if c = 0 then listed + s.params.halls * (reserveCellar s.params.tiers / 65536) else listed

/-- The result of CTX_QUERY (11 R329). -/
def ctxReport (s : State) (c : Nat) : List (Nat × Nat × Nat) :=
  let x := ctxOf s c
  let live := s.steward.tasks.filter fun t => t.ctx == c && !isFinal t
  [(0x08, 1, x.state), (0x0A, 2, x.fault), (0x0C, 2, x.faultQueue), (0x0E, 1, (s.steward.queues.filter fun q => q.ctx == c).length), (0x10, 8, x.faultAddr),
    (0x18, 4, (s.steward.fences.filter fun f => f.2.ctx == some c).length), (0x1C, 2, (s.steward.images.filter fun i => i.ctx == c).length),
    (0x1E, 2, (live.filter fun t => t.state == .launched).length), (0x20, 4, live.length), (0x24, 4, granulesOwned s c)]

/-- CLEAR of a FAULTED context (11 R328, R334): OK again; its queues resume at the descriptor at which they stopped, with a hop count of 0. -/
def clearCtx (c : Nat) (s : State) : State :=
  let t := modSteward (fun x => { x with queues := x.queues.map fun q =>
    if q.ctx = c then { q with state := 0, fault := 0, faultAddr := 0, hops := 0, arrived := none } else q })
    (modCtx c (fun x => { x with state := 0, fault := 0, faultQueue := 0xFFFF, faultAddr := 0 }) s)
  promote (putStatusAll ((s.steward.queues.filter fun q => q.ctx == c).map (·.id)) t)

/-- The effect of CTX_QUERY (11 R329): the report is of the state as it stood; a context that is being destroyed takes no command (R347). -/
def ctxQueryEff (s : State) (m : Nat) (w : MsgWord) : State :=
  let c := wfld w 8 2
  if (ctxOf s c).state = 2 then respond m 0x0205 [] s
  else respond m 0 (ctxReport s c) (if wfld w 0x0C 1 = 1 ∧ (ctxOf s c).state = 1 then clearCtx c s else s)

/-- CTX_QUERY (11 R329). -/
def execCtxQuery (m : Nat) (w : MsgWord) (s : State) : Host.Outcome State Fault Refusal := cmd m w 0x12 s (ctxQueryEff s m w)

/-! Queues (11 R330, R331). -/

/-- The lowest queue number in no use; the manual does not say which one is given (log 43). -/
def freeQueue (s : State) : Option Nat := firstFrom (fun q => (queueOf s q).isNone) 16384 0

/-- A new queue (11 R331, R332). -/
def newQueue (id c : Nat) (w : MsgWord) : Queue :=
  let hops := wfld w 0x2E 2
  let tmo := wfld w 0x30 2
  ⟨id, c, wfld w 0x0C 8, wfld w 0x14 8, wfld w 0x24 8, wfld w 0x2C 1, if hops = 0 then 4096 else hops, if tmo = 0 then 50 else tmo, wfld w 0x1C 8, 0, 0, 0, 0, 0,
    0, 0, 0, none, none, 0, [], none⟩

/-- The host ranges of a QUEUE_CREATE lie in the context's aperture (11 R327). -/
def queueInAperture (s : State) (c : Nat) (w : MsgWord) : Bool :=
  inAperture s c (wfld w 0x0C 8) 64 && inAperture s c (wfld w 0x14 8) 64 && inAperture s c (wfld w 0x1C 8) 64 &&
    inAperture s c (wfld w 0x24 8) (64 * 2 ^ wfld w 0x2C 1)

/-- Write the first status of a new queue and answer once the line holds it; read the doorbell line (11 R331, R332). -/
def openQueue (m : Nat) (q : Queue) (s : State) : State :=
  let t := putStatus q.id (modSteward (fun x => { x with queues := x.queues ++ [q] }) s)
  let u := if t.host.held.any (fun w => w.addr == q.status) then await m t else respond m 0 [(8, 2, q.id)] t
  porchFill false q.door u

/-- The effect of QUEUE_CREATE (11 R331). Context 0 has no queues (R324). -/
def queueCreateEff (s : State) (m : Nat) (w : MsgWord) : State :=
  let c := wfld w 8 2
  match ctxRefusal s c with
  | some code => respond m code [] s
  | none =>
    if queueInAperture s c w = false then respond m 0x0207 [] s
    else if c = 0 ∨ 8 ≤ (s.steward.queues.filter fun q => q.ctx == c).length then respond m 0x0208 [] s
    else match freeQueue s with
      | none => respond m 0x0208 [] s
      | some id => openQueue m (newQueue id c w) s

/-- QUEUE_CREATE (11 R331). -/
def execQueueCreate (m : Nat) (w : MsgWord) (s : State) : Host.Outcome State Fault Refusal := cmd m w 0x13 s (queueCreateEff s m w)

/-- The queue belongs to the context and is not being destroyed. -/
def queueMine (s : State) (c q : Nat) : Bool :=
  match queueOf s q with
  | some x => x.ctx == c && x.closing.isNone
  | none => false

/-- The effect of QUEUE_DESTROY (11 R331): the queue stops; its last records are still written, and then it is removed (R342, log 93). -/
def queueDestroyEff (s : State) (m : Nat) (w : MsgWord) : State :=
  let c := wfld w 8 2
  let q := wfld w 0x0C 2
  match ctxRefusal s c with
  | some code => respond m code [] s
  | none =>
    if queueMine s c q = false then respond m 0x0209 [] s
    else if s.steward.tasks.any (fun t => t.queue == q && t.ctx == c && !isFinal t) then respond m 0x020A [] s
    else endQueue q (await m (modQueue q (fun x => { x with closing := some m }) (killDesc q s)))

/-- QUEUE_DESTROY (11 R331). -/
def execQueueDestroy (m : Nat) (w : MsgWord) (s : State) : Host.Outcome State Fault Refusal := cmd m w 0x14 s (queueDestroyEff s m w)

/-! Fences (11 R336 to R338). -/

/-- The lowest free fence (11 R336). -/
def freeFence (s : State) : Option Nat := firstFrom (fun f => (fenceOf s f).ctx.isNone) 65536 0

/-- The effect of FENCE_ALLOC (11 R336). Context 0 has no fences (R324). -/
def fenceAllocEff (s : State) (m : Nat) (w : MsgWord) : State :=
  let c := wfld w 8 2
  let a := wfld w 0x0C 8
  match ctxRefusal s c with
  | some code => respond m code [] s
  | none =>
    if a ≠ 0 ∧ inAperture s c a 64 = false then respond m 0x0207 [] s
    else if c = 0 then respond m 0x020B [] s
    else match freeFence s with
      | none => respond m 0x020B [] s
      | some f =>
        respond m 0 [(8, 2, f)] (modSteward (fun x => { x with
          fences := tabPut fenceZero x.fences f ⟨some c, wfld w 0x14 1 == 1, a, 0⟩ }) s)

/-- FENCE_ALLOC (11 R336). -/
def execFenceAlloc (m : Nat) (w : MsgWord) (s : State) : Host.Outcome State Fault Refusal := cmd m w 0x15 s (fenceAllocEff s m w)

/-- The fence belongs to the context (11 R336). -/
def fenceMine (s : State) (c f : Nat) : Bool := (fenceOf s f).ctx == some c

/-- A task of the context that is not final names the fence (11 R336). -/
def fenceNamed (s : State) (c f : Nat) : Bool :=
  s.steward.tasks.any fun t => t.ctx == c && !isFinal t && (t.waitFence == some f || t.sigFence == some f)

/-- The effect of FENCE_FREE (11 R336): a final task that would still signal the fence signals none, so that no later holder of the number is touched (R348). -/
def fenceFreeEff (s : State) (m : Nat) (w : MsgWord) : State :=
  let c := wfld w 8 2
  let f := wfld w 0x0C 2
  match ctxRefusal s c with
  | some code => respond m code [] s
  | none =>
    if fenceMine s c f = false then respond m 0x020C [] s
    else if fenceNamed s c f then respond m 0x020D [] s
    else respond m 0 [] (modSteward (fun x => { x with
      fences := tabPut fenceZero x.fences f fenceZero, tasks := x.tasks.map fun t => if t.sigFence = some f then { t with sigFence := none } else t }) s)

/-- FENCE_FREE (11 R336). -/
def execFenceFree (m : Nat) (w : MsgWord) (s : State) : Host.Outcome State Fault Refusal := cmd m w 0x16 s (fenceFreeEff s m w)

/-- The effect of FENCE_SIGNAL (11 R336). -/
def fenceSignalEff (s : State) (m : Nat) (w : MsgWord) : State :=
  let c := wfld w 8 2
  let f := wfld w 0x0C 2
  match ctxRefusal s c with
  | some code => respond m code [] s
  | none => if fenceMine s c f = false then respond m 0x020C [] s else respond m 0 [] (setFence f (wfld w 0x0E 1 == 0) s)

/-- FENCE_SIGNAL (11 R336). -/
def execFenceSignal (m : Nat) (w : MsgWord) (s : State) : Host.Outcome State Fault Refusal := cmd m w 0x17 s (fenceSignalEff s m w)

/-! Launching (10 R316, 11 R339, R340). -/

/-- A fence word of TASK_LAUNCH: the fence where VALID (10 R316). -/
def fenceArg (v : Nat) : Option Nat := if v / 2 ^ 31 = 1 then some (v % 65536) else none

/-- An image of the context by its handle. -/
def imageIn (s : State) (c h : Nat) : Option Image := s.steward.images.find? fun i => i.ctx == c && i.handle == h

/-- The acceptance checks of 11 R340, in the table's order. -/
def acceptRefusal (s : State) (c : Nat) (w : MsgWord) : Option Nat :=
  let fenceOk (v : Nat) : Bool := match fenceArg v with
    | some f => fenceMine s c f
    | none => true
  if (ctxOf s c).state = 1 then some 0x0204
  else if (ctxOf s c).state = 2 then some 0x0205
  else if (ctxOf s c).state = 3 then some 0x0203
  else match imageIn s c (wfld w 0x0C 4) with
    | none => some 0x020E
    | some i =>
      if queueMine s c (wfld w 0x10 2) = false then some 0x0209
      else if (fenceOk (wfld w 0x14 4) && fenceOk (wfld w 0x18 4)) = false then some 0x020C
      else if wfld w 0x12 2 % 2 = 1 ∧ (i.c16chk = 0 ∧ i.c15chk = 0) then some 0x0312
      else none

/-- A new task (11 R339): its number, launch arguments and, for an image of several engines, its round (13 R406). -/
def newTask (s : State) (num c : Nat) (byDesc : Bool) (w : MsgWord) : Task :=
  let i := imageIn s c (wfld w 0x0C 4)
  let mems := match i with
    | some x => if x.multi then x.memberRecs.map fun r => (⟨r.member, r.addr, false, false, false⟩ : MemberSt) else []
    | none => []
  let me := match mems.find? (fun x => s.fabric.addr == some x.addr) with
    | some x => x.member
    | none => 0
  ⟨num, c, wfld w 0x0C 4, wfld w 0x10 2, byDesc, BitVec.ofNat 32 (wfld w 0 4), wfld w 6 1 % 2 == 1, (List.range 8).map fun k => BitVec.ofNat 32 (wfld w (0x1C + 4 * k) 4),
    wfld w 0x12 2 % 2 == 1, fenceArg (wfld w 0x14 4), fenceArg (wfld w 0x18 4), false, .queued, 0, 0, none, 0, 0, false, false, 0, none, none, 0, false, false,
    false, false, 0, false, 0, false, false, [], [], [], countsZero, [], [], 0, .none, me, BitVec.ofNat 64 ((i.map (·.imageId)).getD 0),
    (i.map (·.launches)).getD 0 + 1, mems, none⟩

/-- Count a launch of an image (13 R406). -/
def countLaunch (h : Nat) (s : State) : State :=
  modSteward (fun x => { x with images := x.images.map fun i => if i.handle = h then { i with launches := i.launches + 1 } else i }) s

/-- A round that the leader has refused already (13 R408): its code. -/
def refusedCode (s : State) (t : Task) : Option Nat :=
  match s.fabric.refused.find? (fun r => r.1 == t.gtask && r.2.1 == t.round && !t.members.isEmpty) with
  | some r => some r.2.2
  | none => none

/-- Accept a launch: the task is QUEUED at the end of its queue (11 R339). -/
def acceptTask (c : Nat) (byDesc : Bool) (w : MsgWord) (s : State) : State :=
  let n := s.steward.nextTask
  let t := newTask s n c byDesc w
  let u := countLaunch t.image (modQueue t.queue (fun q => { q with work := q.work ++ [.task n] })
    (modSteward (fun x => { x with nextTask := n + 1, tasks := x.tasks ++ [t] }) s))
  match refusedCode s t with
  | some code => finishTask n .refused code u
  | none => promote u

/-- The effect of TASK_LAUNCH (10 R316): the response reports acceptance (R311). -/
def taskLaunchEff (s : State) (m : Nat) (w : MsgWord) : State :=
  let c := wfld w 8 2
  match acceptRefusal s c w with
  | some code => respond m code [] s
  | none => respond m 0 [(8, 4, s.steward.nextTask)] (acceptTask c false w s)

/-- TASK_LAUNCH (10 R316). -/
def execTaskLaunch (m : Nat) (w : MsgWord) (s : State) : Host.Outcome State Fault Refusal := cmd m w 0x18 s (taskLaunchEff s m w)

/-! Aborting (11 R345, 13 R408 to R410). -/

/-- A member withdraws from a round before its launch: the leader refuses the round to the others, another member tells the leader (13 R408). -/
def withdrawRound (t : Task) (code : Nat) (s : State) : State :=
  if t.members.isEmpty then s
  else if t.member = 0 then
    tellMembers t 0x12 (if code = 0x0211 then 0x0903 else code) [] t.members
      (modFabric (fun x => { x with refused := x.refused ++ [(t.gtask, t.round, if code = 0x0211 then 0x0903 else code)] }) s)
  else sendMgmt (leaderAddr t) 0x18 t.round t.gtask.toNat code [] s

/-- Abort a launched task: it halts; a member of several engines that is not the leader forwards the abort (11 R345, 13 R410). -/
def abortLaunched (t : Task) (s : State) : State :=
  if t.members.isEmpty ∨ t.member = 0 then haltTask t.num 0x0211 none false s
  else sendMgmt (leaderAddr t) 0x17 t.round t.gtask.toNat 0x0211 (faultPayload (plainFault 0x0211)) s

/-- The effect of TASK_ABORT by the task's state (11 R345). -/
def taskAbortEff (s : State) (m : Nat) (w : MsgWord) : State :=
  let c := wfld w 8 2
  match ctxRefusal s c, taskOf s (wfld w 0x0C 4) with
  | some code, _ => respond m code [] s
  | none, none => respond m 0x020F [] s
  | none, some t =>
    if t.ctx ≠ c then respond m 0x020F [] s
    else match t.state with
      | .queued => respond m 0 [(8, 2, 0x0211)] (promote (finishTask t.num .aborted 0x0211 (withdrawRound t 0x0211 s)))
      | .eligible => respond m 0 [(8, 2, 0x0211)] (promote (finishTask t.num .aborted 0x0211 (withdrawRound t 0x0211 s)))
      | .launched => await m (modTask t.num (fun x => { x with abortBy := x.abortBy ++ [m] }) (abortLaunched t s))
      | _ =>
        respond m 0x0210 [(8, 2, t.status)]
          (modTask t.num (fun x => { x with abortAfter := x.abortAfter || (x.record == .none || x.record == .toWrite) }) s)

/-- TASK_ABORT (11 R345). -/
def execTaskAbort (m : Nat) (w : MsgWord) (s : State) : Host.Outcome State Fault Refusal := cmd m w 0x19 s (taskAbortEff s m w)

/-! The descriptor chain (11 R332 to R334). -/

/-- The fields of a doorbell line that the porch holds (11 R332). -/
def doorValues (s : State) (q : Queue) : Option (Nat × Nat) :=
  match porchLine s.host q.door with
  | some l => some (pfld l.data 0 4, pfld l.data 4 4)
  | none => none

/-- POSTED_OBSERVED is due: the porch holds the doorbell line with these values, and they are news. -/
def postedReady (s : State) (q : Nat) (posted head : BitVec 32) : Bool :=
  match queueOf s q with
  | some x => doorValues s x == some (posted.toNat, head.toNat) && (x.posted != posted.toNat || x.cplHead != head.toNat) && (ctxOf s x.ctx).state != 2
  | none => false

/-- The effect of POSTED_OBSERVED: a new POSTED sets the hop count to 0 (11 R334); a free completion entry lets records be written and tasks launch (R335). -/
def postedEff (s : State) (q : Nat) (posted head : BitVec 32) : State :=
  promote (tryRecord q (modQueue q (fun x => { x with
    hops := if x.posted = posted.toNat then x.hops else 0, posted := posted.toNat, cplHead := head.toNat }) s))

/-- POSTED_OBSERVED (11 R334). -/
def execPostedObserved (q : Nat) (posted cplHead : BitVec 32) (s : State) : Host.Outcome State Fault Refusal :=
  due (postedReady s q posted cplHead) s (postedEff s q posted cplHead)

/-- The work descriptors taken and not yet final (11 R334). -/
def workOpen (s : State) (x : Queue) : Nat :=
  (x.work.filter fun k => match k with
    | .task n => (match taskOf s n with
      | some t => t.byDesc
      | none => false)
    | .fence _ _ => true).length

/-- DESCRIPTOR_FETCH is due (11 R334, 18 R516). -/
def descFetchReady (s : State) (q : Nat) : Bool :=
  match queueOf s q with
  | some x => working s && x.state == 0 && x.closing.isNone && (ctxOf s x.ctx).state == 0 && x.posted != x.consumed && x.fetching.isNone &&
      x.arrived.isNone && decide (workOpen s x < 8)
  | none => false

/-- The effect of DESCRIPTOR_FETCH (11 R334): one hop, or a context fault in its place. -/
def descFetchEff (s : State) (q : Nat) : State :=
  match queueOf s q with
  | none => s
  | some x =>
    if x.hopLimit < x.hops + 1 then ctxFault x.ctx 0x0220 q x.nextDesc s
    else if inAperture s x.ctx x.nextDesc 64 = false then ctxFault x.ctx 0x0223 q x.nextDesc s
    else issueReq (.descFetch q) (readMsg x.nextDesc 1)
      (modQueue q (fun x => { x with hops := x.hops + 1, fetching := some x.nextDesc, issued := s.time.up }) s)

/-- DESCRIPTOR_FETCH (11 R334). -/
def execDescriptorFetch (q : Nat) (s : State) : Host.Outcome State Fault Refusal := due (descFetchReady s q) s (descFetchEff s q)

/-- A descriptor's format is sound (11 R333). -/
def descOk (P : Params) (x : Queue) (w : MsgWord) : Bool :=
  let op := wfld w 4 2
  wfld w 7 1 == 5 && headZero w && wfld w 8 2 == x.ctx && (match op with
    | 0x18 => argsZero w (argFields 0x18) && argsOk P 0x18 w && wfld w 0x10 2 == x.id
    | 0x17 => argsZero w (argFields 0x17) && argsOk P 0x17 w
    | 0x01 => argsZero w [(0x0C, 8)] && wfld w 0x0C 8 != 0 && wfld w 0x0C 8 % 64 == 0
    | _ => false)

/-- A work descriptor is taken: CONSUMED advances, the next one follows it (11 R333, R334). -/
def takeWork (q : Nat) (s : State) : State :=
  putStatus q (modQueue q (fun x => { x with arrived := none, consumed := (x.consumed + 1) % 2 ^ 32, nextDesc := x.nextDesc + 64 }) s)

/-- A launch descriptor that fails an acceptance check yields a record with that refusal and TASK 0xFFFF_FFFF (11 R333): a task of no number, final at once. -/
def refuseDesc (x : Queue) (code : Nat) (w : MsgWord) (s : State) : State :=
  let n := 2 ^ 32 + s.steward.nextTask
  let t : Task := { newTask s n x.ctx true w with
    state := .refused, status := code, record := .toWrite, members := [] }
  tryRecord x.id (modSteward (fun y => { y with nextTask := y.nextTask + 1, tasks := y.tasks ++ [t] }) s)

/-- The effect of DESCRIPTOR_ARRIVAL (11 R333). -/
def descArrivalEff (s : State) (q : Nat) (w : MsgWord) : State :=
  match queueOf s q with
  | none => s
  | some x =>
    if descOk s.params x w = false then ctxFault x.ctx 0x0224 q x.nextDesc (modQueue q (fun x => { x with arrived := none }) s)
    else if wfld w 4 2 = 0x01 then modQueue q (fun x => { x with arrived := none, nextDesc := wfld w 0x0C 8 }) s
    else if wfld w 4 2 = 0x17 then
      modQueue q (fun x => { x with work := x.work ++ [.fence (wfld w 0x0C 2) (wfld w 0x0E 1)] }) (takeWork q s)
    else match acceptRefusal s x.ctx w with
      | some code => refuseDesc x code w (takeWork q s)
      | none => acceptTask x.ctx true w (takeWork q s)

/-- DESCRIPTOR_ARRIVAL is due: the word has arrived and the queue runs. -/
def descArrivalReady (s : State) (q : Nat) (w : MsgWord) : Bool :=
  match queueOf s q with
  | some x => s.steward.up && x.arrived == some w && x.state == 0 && x.closing.isNone && (ctxOf s x.ctx).state == 0
  | none => false

/-- DESCRIPTOR_ARRIVAL (11 R333). -/
def execDescriptorArrival (q : Nat) (w : MsgWord) (s : State) : Host.Outcome State Fault Refusal := due (descArrivalReady s q w) s (descArrivalEff s q w)

/-- CHAIN_FETCH_TIMEOUT is due: FETCH_TIMEOUT µs since the issue (11 R334). -/
def chainTimeoutReady (s : State) (q : Nat) : Bool :=
  match queueOf s q with
  | some x => x.fetching.isSome && decide (x.issued + 1000 * x.timeout ≤ s.time.up)
  | none => false

/-- The effect of CHAIN_FETCH_TIMEOUT: a late answer is discarded; the context faults (11 R334). -/
def chainTimeoutEff (s : State) (q : Nat) : State :=
  match queueOf s q with
  | none => s
  | some x =>
    let t := killDesc q s
    if x.state = 0 then ctxFault x.ctx 0x0221 q x.nextDesc t else t

/-- CHAIN_FETCH_TIMEOUT (11 R334). -/
def execChainFetchTimeout (q : Nat) (s : State) : Host.Outcome State Fault Refusal := due (chainTimeoutReady s q) s (chainTimeoutEff s q)

/-- The fence action at the head of a queue. -/
def headFence (s : State) (q : Nat) : Option (Nat × Nat) :=
  match queueOf s q with
  | some x => (match x.work with
    | .fence f a :: _ => some (f, a)
    | _ => none)
  | none => none

/-- FENCE_ACTION is due: the head of the queue is a fence action and it is eligible (11 R339). -/
def fenceActionReady (s : State) (q : Nat) : Bool :=
  (headFence s q).isSome && (match queueOf s q with
    | some x => queueOpen s x
    | none => false)

/-- The effect of FENCE_ACTION: the fence is signalled or reset; one that is not of the context is refused without effect (11 R336, log 45). -/
def fenceActionEff (s : State) (q : Nat) : State :=
  match headFence s q, queueOf s q with
  | some (f, a), some x =>
    let t := modQueue q (fun y => { y with work := y.work.drop 1 }) s
    promote (if fenceMine s x.ctx f then setFence f (a == 0) t else t)
  | _, _ => s

/-- FENCE_ACTION (11 R339). -/
def execFenceAction (q : Nat) (s : State) : Host.Outcome State Fault Refusal := due (fenceActionReady s q) s (fenceActionEff s q)

end Sys2Proof.Machine
end

