-- ==== Sys2Proof/Machine/StoreCmds.lean ====
section
/-!
DEFINITION. The steward's commands on the store: granules, windows, copies (10 R314; 08 R238 to R242, R253).
-/
namespace Sys2Proof.Machine

/-- Change the store. -/
def modStore (f : Store → Store) (s : State) : State := { s with store := f s.store }

/-- A store range has an unmapped address (08 R222). -/
def rangeUnmapped (s : State) (a n : Nat) : Bool :=
  decide (2 ^ 40 < a + n) || (granulesOf a n).any fun g => unmapped s.params s.offered (max a (g * 65536)) || unmapped s.params s.offered (min (a + n) (g * 65536 + 65536) - 1)

/-- A granule of the cellar reserve, which always belongs to context 0 (08 R238). -/
def inReserve (P : Params) (g : Nat) : Bool := saLevel (g * 65536) == 0 && decide (usableCellar P.tiers ≤ saOffset (g * 65536))

/-! Clearing (08 R253). -/

/-- Granules go to clearing: CLASS 0x3, CTX 0. -/
def startClearing (gs : List Nat) (st : Store) : Store :=
  let t := gs.foldl (fun x g => setOwn x g (ownMake 3 0)) st
  { t with clearing := t.clearing ++ gs.filter fun g => !st.clearing.contains g }

/-- A granule reads as zeros with good lines, and is free (08 R253). -/
def clearGranule (g : Nat) (st : Store) : Store :=
  let inG (k : Nat) : Bool := decide (g * 65536 ≤ k) && decide (k < (g + 1) * 65536)
  let inL (l : Nat) : Bool := decide (g * 1024 ≤ l) && decide (l < (g + 1) * 1024)
  setOwn { st with
    mem := st.mem.filter (fun e => !inG e.1), lines := st.lines.filter (fun e => !inL e.1), wbacks := st.wbacks.filter (fun l => !inL l),
    clearing := st.clearing.filter fun x => x != g } g 0

/-! Granules (10 R314). -/

/-- The granules of a command's range. -/
def cmdGranules (w : MsgWord) : List Nat := granulesOf (wfld w 0x0C 8) (65536 * wfld w 0x14 4)

/-- What GRANULE_ALLOC finds now: a refusal, granules that clear (none), or OK (10 R314). -/
def allocCheck (s : State) (w : MsgWord) : Option Nat :=
  if rangeUnmapped s (wfld w 0x0C 8) (65536 * wfld w 0x14 4) then some 0x010A
  else
    let gs := cmdGranules w
    let cls (g : Nat) : Nat := ownClass (tabGet s.store.ownReset s.store.own g)
    if gs.any (fun g => inReserve s.params g || cls g == 1 || cls g == 2) then some 0x010B
    else if gs.any (fun g => cls g == 3) then none
    else some 0

/-- Give the granules to the context in the named class. -/
def giveGranules (c cls : Nat) (gs : List Nat) (st : Store) : Store := gs.foldl (fun x g => setOwn x g (ownMake cls c)) st

/-- Try a GRANULE_ALLOC: while granules clear, the response waits (10 R314). -/
def tryAlloc (m : Nat) (w : MsgWord) (s : State) : State :=
  match ctxRefusal s (wfld w 8 2) with
  | some code => respond m code [] s
  | none =>
    match allocCheck s w with
    | none => await m s
    | some 0 => respond m 0 [] (modStore (giveGranules (wfld w 8 2) (wfld w 0x18 1) (cmdGranules w)) s)
    | some code => respond m code [] s

/-- GRANULE_ALLOC (10 R314). -/
def execGranuleAlloc (m : Nat) (w : MsgWord) (s : State) : Host.Outcome State Fault Refusal := cmd m w 0x28 s (tryAlloc m w s)


/-! What is in flight toward the store (08 R242). -/

/-- A write of a room that has been admitted and waits for its service touches a byte of [a, a + n). -/
def writesIn (a n : Nat) (w : Option PendWrite) : Bool :=
  match w with
  | some p => overlap p.addr p.bytes.length a n
  | none => false

/-- A read of a room whose data has not been delivered touches a byte of [a, a + n). -/
def readsIn (a n : Nat) (r : Option PendRead) : Bool :=
  match r with
  | some p => overlap p.addr p.len a n
  | none => false

/-- The narrow accesses, by room and place, that wait for service on a byte of [a, a + n). -/
def narrowOn (s : State) (a n : Nat) : List (Nat × Nat) :=
  s.rooms.flatMap fun e => (e.2.narrow.filter fun x => !x.served && overlap (pantryAddr e.1 x.offset) 4 a n).map fun x => (e.1, x.seq)

/-- The store range of a hatch channel's burst, and whether the burst writes it (12 R359, R360). -/
def burstStore (h : Hatch) : Nat × Bool := if h.src.toNat / 2 ^ 62 = 1 then (h.dst.toNat % 2 ^ 48, true) else (h.src.toNat % 2 ^ 48, false)

/-- The length of the channel's next burst (12 R360). -/
def burstLen (h : Hatch) : Nat := if h.busy then h.flight else min (2 ^ h.burstLog) h.count

/-- The channel has a burst in flight on a byte of [a, a + n). -/
def burstIn (a n : Nat) (h : Hatch) : Bool := h.busy && overlap (burstStore h).1 (burstLen h) a n

/-- The descriptors of an image's rings. -/
def ringKeys (i : Image) : List Nat := (i.var16.rings ++ i.var15.rings).map fun r => 1024 * r.hall + r.desc

/-- An image's ring descriptors are freed (09 R289). -/
def dropImage (i : Image) (st : Store) : Store := { st with rings := st.rings.filter fun e => !(ringKeys i).contains e.1 }

/-- What is in flight toward the ranges, as a close of windows notes it, with what the close takes away. -/
def inFlightOn (s : State) (m : Nat) (img : Option Image) (gs : List Nat) (rs : List (Nat × Nat)) (ws : Tab Window) : Closing :=
  { mbox := m, hatch := (s.shell.hatch.filter fun e => rs.any fun r => burstIn r.1 r.2 e.2).map (·.1),
    lanes := s.store.lanes.filter fun u => rs.any fun r => writesIn r.1 r.2 u.write || readsIn r.1 r.2 u.read,
    remote := s.store.remote.filter fun u => rs.any fun r => writesIn r.1 r.2 u.write || readsIn r.1 r.2 u.read,
    narrow := rs.flatMap fun r => narrowOn s r.1 r.2, granules := gs, closed := ws, image := img,
    rings := match img with
      | some i => s.store.rings.filter fun e => (ringKeys i).contains e.1
      | none => [] }

/-- Something that a close waits for has not landed or returned. -/
def stillFlies (s : State) (c : Closing) : Bool :=
  c.hatch.any (fun k => (tabGet hatchZero s.shell.hatch k).busy) || c.remote.any s.store.remote.contains ||
    (c.lanes.any fun u => s.store.lanes.any fun v => v.hall == u.hall && v.lane == u.lane && v.seq == u.seq) ||
    c.narrow.any fun k => (roomOf s k.1).narrow.any fun x => x.seq == k.2 && !x.served

/-- End the closes whose accesses have all landed: their granules go to clearing, and the commands are answered (08 R242, 10 R314). -/
def endCloses : List Closing → State → State
  | [], s => s
  | c :: cs, s =>
    endCloses cs (if stillFlies s c then s
      else respond c.mbox 0 [] { s with
        store := startClearing c.granules s.store, steward := { s.steward with closes := s.steward.closes.filter fun x => x != c } })

/-- End the closes that nothing holds back any more. -/
def landCloses (s : State) : State := endCloses s.steward.closes s

/-- A close of the windows that a test names begins, over the ranges, with the image that it unloads if any: it is answered when what is in flight has landed or returned. -/
def beginClose (m : Nat) (img : Option Image) (gs : List Nat) (rs : List (Nat × Nat)) (p : Nat × Window → Bool) (s : State) : State :=
  let t := modStore (fun st =>
    let w : Store := { st with windows := st.windows.filter fun e => !p e }
    match img with
    | some i => dropImage i w
    | none => w) s
  landCloses (await m (modSteward (fun x => { x with
    closes := x.closes ++ [inFlightOn s m img gs rs (s.store.windows.filter p)], images := x.images.filter fun y => img.all fun i => y.handle != i.handle }) t))

/-- A close that is undone: its windows stand again, its granules are not freed, and the image that it unloads stands with its rings (10 R308). -/
def undoClose (m : Nat) (s : State) : State :=
  let mine := s.steward.closes.filter fun c => c.mbox == m
  modSteward (fun x => { x with closes := x.closes.filter (fun c => c.mbox != m), images := x.images ++ mine.filterMap (·.image) })
    (modStore (fun st => { st with
      windows := (mine.flatMap (·.closed)).foldl (fun w e => tabPut windowZero w e.1 e.2) st.windows
      rings := (mine.flatMap (·.rings)).foldl (fun w e => tabPut ringZero w e.1 e.2) st.rings }) s)

/-- The range of a window meets a granule. -/
def windowOn (w : Window) (g : Nat) : Bool := w.opened && decide (w.base < (g + 1) * 65536) && decide (g * 65536 < w.limit)

/-- Close every window that covers part of the granules (08 R241, R242). -/
def closeOn (gs : List Nat) (st : Store) : Store := { st with windows := st.windows.filter fun e => !gs.any (windowOn e.2) }

/-- A granule is occupied by a buffer of a loaded image (10 R314), claimed by a load under way, or being freed already. -/
def heldByImage (s : State) (g : Nat) : Bool :=
  s.steward.loads.any (fun l => l.granules.contains g) || s.steward.closes.any (fun c => c.granules.contains g) ||
    s.steward.images.any fun i => i.granules.contains g || (i.var16.bufs ++ i.var15.bufs).any fun b => (granulesOf b.base b.size).contains g

/-- The effect of GRANULE_FREE (10 R314): the windows close, and the granules go to clearing once the accesses admitted before have landed. -/
def granuleFreeEff (s : State) (m : Nat) (w : MsgWord) : State :=
  match ctxRefusal s (wfld w 8 2) with
  | some code => respond m code [] s
  | none =>
    if rangeUnmapped s (wfld w 0x0C 8) (65536 * wfld w 0x14 4) then respond m 0x010A [] s
    else
      let gs := cmdGranules w
      if gs.any (fun g => inReserve s.params g || !ownedBy s.store (wfld w 8 2) g || heldByImage s g) then respond m 0x010B [] s
      else beginClose m none gs (gs.map fun g => (g * 65536, 65536)) (fun e => gs.any (windowOn e.2)) s

/-- GRANULE_FREE (10 R314). -/
def execGranuleFree (m : Nat) (w : MsgWord) (s : State) : Host.Outcome State Fault Refusal := cmd m w 0x29 s (granuleFreeEff s m w)

/-! Windows (08 R240 to R242). -/

/-- The conditions of 08 R241 on a request to open a window. -/
def windowOk (s : State) (c : Nat) (w : MsgWord) : Bool :=
  let lo := wfld w 0x0C 8
  let hi := wfld w 0x14 8
  let last := hi - 1
  lo % 64 == 0 && hi % 64 == 0 && decide (lo < hi) && saHall lo == saHall last && saLevel lo == saLevel last &&
    (saLevel lo == 0 || saRoom lo == saRoom last) && (granulesOf lo (hi - lo)).all (ownedBy s.store c) && wfld w 0x1E 1 % 4 != 0

/-- The lowest free window descriptor; the manual does not say which one is taken (log 43). -/
def freeWindow (s : State) : Option Nat := firstFrom (fun k => !(tabGet windowZero s.store.windows k).opened) 65536 0

/-- The window of a request. -/
def newWindow (c : Nat) (w : MsgWord) : Window :=
  let p := wfld w 0x1E 1
  ⟨p / 8 % 2 == 1, true, p / 4 % 2 == 1, p / 2 % 2 == 1, p % 2 == 1, wfld w 0x1C 2, c, wfld w 0x14 8, wfld w 0x0C 8⟩

/-- The effect of WINDOW_OPEN (10 R314, 08 R241). -/
def windowOpenEff (s : State) (m : Nat) (w : MsgWord) : State :=
  let c := wfld w 8 2
  match ctxRefusal s c with
  | some code => respond m code [] s
  | none =>
    if windowOk s c w = false then respond m 0x0506 [] s
    else match freeWindow s with
      | none => respond m 0x010D [] s
      | some k => respond m 0 [(8, 4, k)] (modStore (fun st => { st with windows := tabPut windowZero st.windows k (newWindow c w) }) s)

/-- WINDOW_OPEN (08 R241). -/
def execWindowOpen (m : Nat) (w : MsgWord) (s : State) : Host.Outcome State Fault Refusal := cmd m w 0x2A s (windowOpenEff s m w)

/-- The effect of WINDOW_CLOSE: the owner or a mailbox that was privileged when it took the request closes an open window (10 R313); the answer waits for what was
admitted before (08 R242). For any other the manual gives no code, and STORE_DENIED is taken (10 R314,
log 46). -/
def windowCloseEff (s : State) (m : Nat) (w : MsgWord) : State :=
  let c := wfld w 8 2
  let k := wfld w 0x0C 4
  let x := tabGet windowZero s.store.windows k
  match ctxRefusal s c with
  | some code => respond m code [] s
  | none =>
    if x.opened = true ∧ (x.owner = c ∨ (mbox s m).exBinding = 2) then
      beginClose m none [] [(x.base, x.limit - x.base)] (fun e => e.1 == k) s
    else respond m 0x010B [] s

/-- WINDOW_CLOSE (08 R242). -/
def execWindowClose (m : Nat) (w : MsgWord) (s : State) : Host.Outcome State Fault Refusal := cmd m w 0x2B s (windowCloseEff s m w)

/-! STORE_COPY (10 R314). -/

/-- Every line of the range admits the context in the direction (10 R314). -/
def copyAdmitted (s : State) (c : Nat) (isWrite : Bool) (a n : Nat) : Bool := (linesOf a n).all fun l => admitted s.store c isWrite (l * 64) 64

/-- The parts of a range that the buffers of the context's launched tasks hold: undefined after a copy into them (10 R314). -/
def racing (s : State) (c a n : Nat) : List (Nat × Nat) :=
  (s.steward.tasks.filter fun t => t.ctx == c && t.state == .launched).flatMap fun t => match imageOf s t with
    | some i => ((variantOf i t).bufs.map fun b => (max a b.base, min (a + n) (b.base + b.size))).filterMap fun r =>
        if r.1 < r.2 then some (r.1, r.2 - r.1) else none
    | none => []

/-- Read a line for a copy: the bytes of a line that is being cleared are free and it raises no error (08 R253); else the line is read as 08 R247 gives. The result is
the state, the fault code and the bytes. -/
def copyLine (l : Nat) (s : State) : State × Nat × List Byte :=
  if ownClass (ownEntry s.store (l * 64)) = 3 then
    ({ s with freeCtr := s.freeCtr + 64 }, 0, freeBytes s.freeCtr 64)
  else
    let r := readLine s.store l false
    (putStore r.1 s, r.2, memBytes r.1 (l * 64) 64)

/-- Read lines up to the first that cannot be read: the state, the bytes, and the failing line. -/
def copyLines : List Nat → State → State × List Byte × Option Nat
  | [], s => (s, [], none)
  | l :: ls, s =>
    let r := copyLine l s
    if r.2.1 = 0 then
      let q := copyLines ls r.1
      (q.1, r.2.2 ++ q.2.1, q.2.2)
    else (blameBank r.2.1 l r.1, [], some l)

/-- Write bytes of a mailbox's copy to host memory in `k` requests of at most 64 flits. -/
def hostWrites (m : Nat) : Nat → Nat → List Byte → State → State
  | 0, _, _, s => s
  | k + 1, a, bs, s => hostWrites m k (a + 4096) (bs.drop 4096) (issueReq (.copyWrite m (bs.take 4096).length) (writeMsg a (bs.take 4096)) s)

/-- Copy bytes to the host: the answer follows the last acknowledgement (10 R311, R314); with nothing to write it comes at once. -/
def copyOut (m h : Nat) (bs : List Byte) (line : Option Nat) (s : State) : State :=
  let k := (bs.length + 4095) / 4096
  if k = 0 then endCopy ⟨m, 0, 0, false, line⟩ s
  else hostWrites m k h bs (await m { s with steward := { s.steward with copies := s.steward.copies ++ [⟨m, k, 0, false, line⟩] } })

/-- The effect of STORE_COPY. `bytes` is what the host's memory returned, none when a host access failed. -/
def storeCopyEff (s : State) (m : Nat) (w : MsgWord) (bytes : Option (List Byte)) : State :=
  let c := wfld w 8 2
  let a := wfld w 0x0C 8
  let h := wfld w 0x14 8
  let n := wfld w 0x1C 4
  let isWrite := wfld w 0x20 1 == 0
  match ctxRefusal s c with
  | some code => respond m code [] s
  | none =>
    if inAperture s c h n = false then respond m 0x0207 [] s
    else if rangeUnmapped s a n then respond m 0x010A [] s
    else if copyAdmitted s c isWrite a n = false then respond m 0x010B [] s
    else match bytes with
      | none => respond m 0x0109 [] s
      | some bs =>
        if isWrite then
          let race := if c = 0 then [] else racing s c a n
          respond m 0 [(8, 4, n)] (scramble race (modStore (fun st => writeWhole st a ((bs ++ List.replicate n 0).take n)) s))
        else
          let r := copyLines (linesOf a n) s
          copyOut m h r.2.1 r.2.2 r.1

/-- STORE_COPY (10 R314). -/
def execStoreCopy (m : Nat) (w : MsgWord) (bytes : Option (List Byte)) (s : State) : Host.Outcome State Fault Refusal :=
  cmd m w 0x2C s (storeCopyEff s m w bytes)

/-- A copy to the host that is cut short writes nothing further, and no answer of it counts (10 R314, 11 R347). -/
def dropCopy (m : Nat) (s : State) : State :=
  let mine (p : Purpose) : Bool := match p with
    | .copyWrite k _ => k == m
    | _ => false
  { s with
    host := { s.host with
      out := s.host.out.map (fun r => if mine r.purpose then { r with purpose := .dead } else r), waitq := s.host.waitq.filter fun r => !mine r.1 },
    steward := { s.steward with copies := s.steward.copies.filter fun c => c.mbox != m } }

/-- A copy into the store that is cut short leaves its target undefined (10 R314, 11 R347). -/
def cutCopy (w : MsgWord) (s : State) : State :=
  let c := wfld w 8 2
  if wfld w 4 2 = 0x2C ∧ wfld w 0x20 1 = 0 ∧ rangeUnmapped s (wfld w 0x0C 8) (wfld w 0x1C 4) = false ∧
      copyAdmitted s c true (wfld w 0x0C 8) (wfld w 0x1C 4) = true then scramble [(wfld w 0x0C 8, wfld w 0x1C 4)] s
  else s

end Sys2Proof.Machine
end

