-- ==== Sys2Proof/Machine/LoadForm.lean ====
section
/-!
DEFINITION. A task image as the loader reads it (09_sweeps_and_mapping R273 to R276, 13 R400): the header, the directory, the records of
the sections, the op lists, and the paths that a room takes through its list. Reading is total: what is malformed is caught by the checks.
-/
namespace Sys2Proof.Machine

/-- A rejection (10 R315): code, section, variant, record, room and op. -/
structure Reject where
  code    : Nat
  sec     : Nat
  variant : Nat
  record  : Nat
  room    : Nat
  op      : Nat
  deriving DecidableEq, Repr

/-- The first check of a list that fails (09 R288). -/
def firstBad : List (Bool × Reject) → Option Reject
  | [] => none
  | (b, r) :: xs => if b then some r else firstBad xs

/-- A rejection of the header. -/
def rejHead (code : Nat) : Reject := ⟨code, 0, 0, 0xFFFFFFFF, 0xFFFF, 0xFFFF⟩

/-- A rejection of a record. -/
def rejRec (t v k code : Nat) : Reject := ⟨code, t, v, k, 0xFFFF, 0xFFFF⟩

/-- A directory entry (09 R274). -/
structure Sect where
  type    : Nat
  variant : Nat
  rsv     : Nat
  count   : Nat
  off     : Nat
  deriving DecidableEq, Repr

/-- The entries of the directory. -/
def sectsOf (bs : List Byte) : List Sect :=
  (List.range (min 64 (pfld bs 6 2))).map fun k =>
    let o := 64 + 16 * k
    ⟨pfld bs o 1, pfld bs (o + 1) 1, pfld bs (o + 2) 2, pfld bs (o + 4) 4, pfld bs (o + 8) 8⟩

/-- Bytes of a record by section type (09 R275, 13 R400). -/
def recSize : Nat → Nat
  | 0x01 => 16 | 0x02 => 32 | 0x03 => 16 | 0x04 => 48 | 0x05 => 56 | 0x06 => 40 | 0x07 => 16 | 0x08 => 16 | 0x09 => 8 | 0x0A => 16 | 0x0B => 8
  | 0x0C => 16 | 0x0D => 16 | 0x0E => 24 | 0x0F => 8 | 0x10 => 16 | _ => 1

/-- The variants that a section type allows (09 R275). -/
def varAllowed (t v : Nat) : Bool :=
  if t = 2 then decide (v ≤ 2)
  else if [1, 3, 5, 7, 8, 9, 0xA, 0xB, 0xC, 0xF].contains t then v == 1 || v == 2 else v == 0

/-- The records of a section. -/
def recsOf (bs : List Byte) (t v : Nat) : List (List Byte) :=
  match (sectsOf bs).find? (fun s => s.type == t && s.variant == v) with
  | some s => (List.range s.count).map fun k => (bs.drop (s.off + k * recSize t)).take (recSize t)
  | none => []

/-- The bytes of the DATA section. -/
def dataOf (bs : List Byte) : List Byte :=
  match (sectsOf bs).find? (fun s => s.type == 0x11 && s.variant == 0) with
  | some s => (bs.drop s.off).take s.count
  | none => []

/-- FLAGS.V15, RESTARTABLE and MULTI. -/
def imgV15 (bs : List Byte) : Bool := (pfld bs 0x10 4).testBit 0

/-- FLAGS.RESTARTABLE. -/
def imgRestartable (bs : List Byte) : Bool := (pfld bs 0x10 4).testBit 1

/-- FLAGS.MULTI. -/
def imgMulti (bs : List Byte) : Bool := (pfld bs 0x10 4).testBit 2

/-- A ROOMS record. -/
def roomRecOf (b : List Byte) : RoomRec := ⟨pfld b 0 2, pfld b 2 2, pfld b 4 2⟩

/-- A buffer record (09 R276). -/
def bufRecOf (b : List Byte) : BufRec :=
  let a := pfld b 3 1
  ⟨pfld b 0 2, pfld b 2 1, a.testBit 0, a.testBit 1, a.testBit 2, a.testBit 3, pfld b 4 2, pfld b 8 8, pfld b 0x10 8,
    if pfld b 0x18 8 = 2 ^ 64 - 1 then none else some (pfld b 0x18 8)⟩

/-- A binding record (09 R280). -/
def bindRecOf (b : List Byte) : BindRec := ⟨pfld b 0 2, pfld b 2 2, pfld b 4 1, pfld b 6 2, signedOf 64 (pfld b 8 8)⟩

/-- A deckle record (09 R268). -/
def deckleRecOf (b : List Byte) : DeckleRec :=
  ⟨pfld b 0 2, pfld b 2 1, pfld b 3 1, (List.range 4).map fun a => ⟨pfld b (8 + 10 * a) 4, pfld b (12 + 10 * a) 4, pfld b (16 + 10 * a) 1, pfld b (17 + 10 * a) 1⟩⟩

/-- A level record of a sweep. -/
def levelRecOf (b : List Byte) (o : Nat) : LevelRec := ⟨pfld b o 1, pfld b (o + 2) 4, pfld b (o + 6) 4, pfld b (o + 10) 4⟩

/-- A sweep record (09 R256). -/
def sweepRecOf (b : List Byte) : SweepRec :=
  ⟨pfld b 0 2, pfld b 2 2, pfld b 4 2, pfld b 6 2, pfld b 8 2, levelRecOf b 0x0E, levelRecOf b 0x1C, levelRecOf b 0x2A⟩

/-- The eight sizes of a ream record (09 R271). -/
def reamSizes (b : List Byte) : List Nat := (List.range 8).map fun k => pfld b (8 + 4 * k) 4

/-- A ream record. -/
def reamRecOf (b : List Byte) : ReamRec := ⟨pfld b 0 1, (reamSizes b).take (pfld b 1 1)⟩

/-- A RINGS record; its descriptor is chosen at placement. -/
def ringRecOf (b : List Byte) : RingRec := ⟨pfld b 0 2, pfld b 2 1, pfld b 4 2, pfld b 6 2, 0⟩

/-- A pipe record (09 R265). -/
def pipeRecOf (b : List Byte) : PipeRec :=
  ⟨pfld b 0 2, pfld b 2 2, pfld b 4 2, pfld b 6 2, pfld b 8 4, pfld b 0xC 2, pfld b 0xE 1, pfld b 0xF 1⟩

/-- A CHAINS record. -/
def chainRecOf (b : List Byte) : ChainRec := ⟨pfld b 0 1, pfld b 2 2, pfld b 4 2⟩

/-- A QPOINTS record: AXIS counts as 0x0 for roles 0x1 and 0x2 (09 R275). -/
def qRecOf (b : List Byte) : QRec :=
  let role := pfld b 8 1
  ⟨pfld b 0 2, pfld b 2 2, pfld b 4 2, pfld b 6 2, role, if role = 1 ∨ role = 2 then 0 else pfld b 9 1, pfld b 0xA 2, pfld b 0xC 2, pfld b 0xE 2⟩

/-- A SYNCS record. -/
def syncRecOf (b : List Byte) : SyncRec := ⟨pfld b 0 1, pfld b 2 2⟩

/-- A traffic claim (09 R282). -/
def trafficRecOf (b : List Byte) : TrafficRec := ⟨pfld b 0 1, pfld b 1 1, pfld b 2 1, pfld b 3 1, pfld b 4 4, pfld b 8 4, pfld b 0xC 4⟩

/-- A TABLES record. -/
def tableRecOf (b : List Byte) : TableRec := ⟨pfld b 0 2, pfld b 2 1, pfld b 4 2⟩

/-- An ANNEXES record. -/
def annexRecOf (b : List Byte) : AnnexRec := ⟨pfld b 0 1, pfld b 4 4, pfld b 8 4, pfld b 0xC 4⟩

/-- A window descriptor of 08 R240 from its 128 bits. -/
def windowOfBits (n : Nat) : Window :=
  ⟨n.testBit 108, n.testBit 107, n.testBit 106, n.testBit 105, n.testBit 104, n / 2 ^ 92 % 2 ^ 12, n / 2 ^ 80 % 2 ^ 12, n / 2 ^ 40 % 2 ^ 40, n % 2 ^ 40⟩

/-- A member record of SLOTS (13 R400). -/
def memberRecOf (b : List Byte) : MemberRec := ⟨pfld b 2 2, pfld b 4 2⟩

/-- A flow record of SLOTS. -/
def flowRecOf (b : List Byte) : FlowRec :=
  ⟨pfld b 2 2, pfld b 1 1 == 1, pfld b 4 2, pfld b 6 2, pfld b 8 2, pfld b 0xA 2, pfld b 0xC 2, pfld b 0x10 8⟩

/-- A claim record of SLOTS. -/
def claimRecOf (b : List Byte) : ClaimRec := ⟨pfld b 1 1, pfld b 2 2, pfld b 4 2, pfld b 6 1, pfld b 7 1, pfld b 8 4, pfld b 0xC 4, pfld b 0x10 2⟩

/-- The SLOTS records of one kind. -/
def slotRecs (bs : List Byte) (kind : Nat) : List (List Byte) := (recsOf bs 0xE 0).filter fun b => pfld b 0 1 == kind

/-- One variant of the image (09 R275): 1 the 16-room variant, 2 the 15-room variant; shared buffers belong to both. -/
def variantIn (bs : List Byte) (v : Nat) : Variant :=
  { rooms := (recsOf bs 1 v).map roomRecOf, bufs := ((recsOf bs 2 0) ++ recsOf bs 2 v).map bufRecOf, binds := (recsOf bs 3 v).map bindRecOf,
    sweeps := (recsOf bs 5 v).map sweepRecOf, rings := (recsOf bs 7 v).map ringRecOf, pipes := (recsOf bs 8 v).map pipeRecOf,
    chains := (recsOf bs 9 v).map chainRecOf, qpoints := (recsOf bs 0xA v).map qRecOf, syncs := (recsOf bs 0xB v).map syncRecOf,
    traffic := (recsOf bs 0xC v).map trafficRecOf, tables := (recsOf bs 0xF v).map tableRecOf }

/-- A buffer of a variant by its ID. -/
def bufIn (V : Variant) (id : Nat) : Option BufRec := V.bufs.find? fun b => b.id == id

/-- The initial contents of a buffer, where DATA gives them. -/
def bufData (bs : List Byte) (b : BufRec) : List Byte :=
  match b.data with
  | some o => ((dataOf bs).drop o).take b.size
  | none => []

/-! Op lists (06 R162). -/

/-- The 32-byte words of a region. -/
def wordsOf : Nat → List Byte → List OpWord
  | 0, _ => []
  | n + 1, bs => BitVec.ofNat 256 (leVal (bs.take 32)) :: wordsOf n (bs.drop 32)

/-- Up to the last word that is not all zero. -/
def trimZeros : List OpWord → List OpWord
  | [] => []
  | w :: ws =>
    match trimZeros ws with
    | [] => if w = 0 then [] else [w]
    | t => w :: t

/-- The ops of a room's list. -/
def opsIn (bs : List Byte) (V : Variant) (r : RoomRec) : List OpWord :=
  match bufIn V r.oplist with
  | some b => trimZeros (wordsOf ((bufData bs b).length / 32) (bufData bs b))
  | none => []

/-- Opcode of a word. -/
def opcOf (w : OpWord) : Nat := w.toNat % 256

/-- The numbers of the second slots of pairs: the word after a `pair` that is itself no second slot. -/
def secondSlots : Nat → Bool → List OpWord → List Nat
  | _, _, [] => []
  | n, true, _ :: ws => n :: secondSlots (n + 1) false ws
  | n, false, w :: ws => secondSlots (n + 1) (opcOf w == 3) ws

/-! Bucket paths (09 R264, R267; 06 R190): one choice of bucket for each ream, the same in every room (log 47). -/

/-- Every choice of a bucket for every ream. -/
def bucketChoices : List ReamRec → List (List (Nat × Nat))
  | [] => [[]]
  | r :: rs => (List.range r.sizes.length).flatMap fun j => (bucketChoices rs).map fun c => (r.ream, j) :: c

/-- The target of a `bkt` under a choice. -/
def bktTarget (c : List (Nat × Nat)) (w : OpWord) : Nat :=
  match c.find? (fun e => e.1 == fld w 29 24) with
  | some (_, j) => w.toNat / 2 ^ (48 + 16 * j) % 65536
  | none => 0

/-- The ops that a room executes from op `n`, and whether they reach `end`: a path longer than the list repeats an op and does not. -/
def walk (ops : List OpWord) (c : List (Nat × Nat)) : Nat → Nat → List Nat × Bool
  | 0, _ => ([], false)
  | k + 1, n =>
    match ops[n]? with
    | none => ([], false)
    | some w =>
      if opcOf w = 0x14 then ([n], true)
      else
        let r := walk ops c k (if opcOf w = 0x11 then bktTarget c w else if opcOf w = 3 then n + 2 else n + 1)
        (n :: r.1, r.2)

/-- The path of a room under a choice. -/
def pathOf (ops : List OpWord) (entry : Nat) (c : List (Nat × Nat)) : List Nat × Bool := walk ops c ops.length entry

/-- The words on the path. -/
def pathWords (ops : List OpWord) (entry : Nat) (c : List (Nat × Nat)) : List OpWord := (pathOf ops entry c).1.filterMap fun n => ops[n]?

/-- The words that a room of a variant executes under a choice. -/
def roomPath (bs : List Byte) (V : Variant) (c : List (Nat × Nat)) (room : Nat) : List OpWord :=
  match V.rooms.find? (fun r => r.room == room) with
  | some r => pathWords (opsIn bs V r) r.entry c
  | none => []

/-- The reams of the image. -/
def reamsIn (bs : List Byte) : List ReamRec := (recsOf bs 6 0).map reamRecOf

/-- The deckles of the image. -/
def decklesIn (bs : List Byte) : List DeckleRec := (recsOf bs 4 0).map deckleRecOf

/-! Quantisation state blocks (04 R90). -/

/-- Round up to 64 bytes. -/
def up64 (n : Nat) : Nat := (n + 63) / 64 * 64

/-- Entries of the scale array: C when GRAIN is per channel, otherwise one. An invalid GRAIN gives the block no size of its own (log 68). -/
def blkN (b : List Byte) : Nat := if pfld b 6 1 = 1 then pfld b 0xC 2 else 1

/-- Offset of the normal history. -/
def blkHist (b : List Byte) : Nat := 64 + up64 (2 * blkN b)

/-- Offset of the beater history. -/
def blkBeat (b : List Byte) : Nat := blkHist b + up64 (64 * blkN b)

/-- Offset of the wide channel list. -/
def blkWide (b : List Byte) : Nat := blkBeat b + 64

/-- Bytes of the block. -/
def blkSize (b : List Byte) : Nat := blkWide b + 128

/-- The listed wide channels. -/
def blkList (b : List Byte) : List Nat := ((List.range 64).map fun k => pfld b (blkWide b + 2 * k) 2).takeWhile (· ≠ 0xFFFF)

/-- The signed zero point. -/
def blkZero (b : List Byte) : Int := signedOf 16 (pfld b 0xE 2)

/-- The state block that the image gives a point, by its QPOINTS record: the initial bytes of its state buffer. -/
def blockOfPoint (bs : List Byte) (V : Variant) (p : Nat) : List Byte :=
  match V.qpoints.find? (fun q => q.point == p) with
  | some q => (match bufIn V q.state with
    | some b => bufData bs b
    | none => [])
  | none => []

/-- The op number and second word that a QPOINTS record names. -/
def qOp (bs : List Byte) (V : Variant) (q : QRec) : Option (OpWord × OpWord) :=
  match V.rooms.find? (fun r => r.room == q.room) with
  | some r => ((opsIn bs V r)[q.op]?).map fun w => (w, (opsIn bs V r).getD (q.op + 1) 0)
  | none => none

/-- The ops of a list that are no second slot, by number. -/
def realOps (ops : List OpWord) : List (Nat × OpWord) :=
  let seconds := secondSlots 0 false ops
  (List.range ops.length).filterMap fun n => match ops[n]? with
    | some w => if seconds.contains n then none else some (n, w)
    | none => none

/-- The moulds of an op's gang as a mask. -/
def mouldMask (g : Nat) : Nat := ((gangUnits g).map fun m => 2 ^ m).sum

/-- The word engages the mould and has one of the opcodes. -/
def onMould (m : Nat) (opcs : List Nat) (w : OpWord) : Bool := opcs.contains (opcOf w) && (mouldMask (fld w 23 20)).testBit m

/-- The ops that a room executes before op `n`, latest first, on each bucket path that reaches it. -/
def beforeOn (reams : List ReamRec) (ops : List OpWord) (entry n : Nat) : List (List (Nat × OpWord)) :=
  (bucketChoices reams).filterMap fun ch =>
    let p := (pathOf ops entry ch).1
    if p.contains n then some (((p.takeWhile (· ≠ n)).filterMap fun k => (ops[k]?).map fun w => (k, w)).reverse) else none

/-- A matrix op exchanges the sets of a mould by itself: in output-stationary use, and between the iterations of LOADB (06 R175, R177). -/
def exchanges (m : Nat) (w : OpWord) : Bool :=
  onMould m [1, 2, 3] w && ((matFields w).stat == 2 || ((matFields w).loadb && decide (1 < (matFields w).iter)))

/-- The `lds` whose contents a mould has active after the ops given, latest first: the last before the latest `flip` (05 R135, R136), unless an op that exchanges the sets
by itself has brought other contents since. -/
def loadAt (m : Nat) (before : List (Nat × OpWord)) : Option (Nat × OpWord) :=
  if (before.takeWhile fun x => !onMould m [5] x.2).any (fun x => exchanges m x.2) then none
  else match ((before.dropWhile fun x => !onMould m [5] x.2).find? fun x => onMould m [4] x.2 || exchanges m x.2) with
    | some x => if opcOf x.2 = 4 then some x else none
    | none => none

/-- The `lds` ops that bring what the moulds of a gang hold when op `n` begins, over every bucket path: mould and op. -/
def gangLoads (reams : List ReamRec) (ops : List OpWord) (entry gang n : Nat) : List (Nat × Nat × OpWord) :=
  ((beforeOn reams ops entry n).flatMap fun b => (gangUnits gang).filterMap fun m => (loadAt m b).map fun x => (m, x)).eraseDups

end Sys2Proof.Machine
end

