-- ==== Sys2Proof/Machine/LoadUses.lean ====
section
/-!
DEFINITION. What the loader sees of an op (09_sweeps_and_mapping R280, R281, R577): the fields that name store addresses and shelf lines, which of them are bound in the
op's mode, and how far each reaches. The checks over them are LoadOps's.
-/
namespace Sys2Proof.Machine

/-- What an op's checks see: the engine's state, the image, the variant's number and records, the room's record and list, and the op's number and words. -/
structure OpCtx where
  s   : State
  bs  : List Byte
  v   : Nat
  V   : Variant
  r   : RoomRec
  ops : List OpWord
  n   : Nat
  w   : OpWord
  w2  : OpWord

/-- The tile bytes of `relay` and of `lds` with SRC = 1. -/
def relayTile (w : OpWord) : Nat :=
  if opcOf w = 0x0D then (let f := relayFields w; gangTileBytes f.shape f.fmt (fmtBits f.fmt == 4 && !f.half))
  else (let f := ldsFields w; gangTileBytes f.gang f.fmt (ldsPaired f))

/-! Address fields (09 R280, R281, R577). -/

/-- One address or shelf-line field of an op: its ordinal, whether it names shelf lines, whether it is bound, what it does, whether it moves 512 B units, its register,
whether its register, offset, strides and pitches are all zero, and the lowest and highest byte (from g[REG] × 256) or line that it reaches. -/
structure FieldUse where
  idx   : Nat
  line  : Bool
  bound : Bool
  rd    : Bool
  wr    : Bool
  big   : Bool
  zero  : Bool
  lo    : Int
  hi    : Int

/-- The least and greatest of i × stride for i below n. -/
def strideLo (n : Nat) (d : Int) : Int := min 0 (((n - 1 : Nat) : Int) * d)

/-- The greatest of i × stride. -/
def strideHi (n : Nat) (d : Int) : Int := max 0 (((n - 1 : Nat) : Int) * d)

/-- An address field that starts at `off` bytes, steps through counts and strides in bytes, and touches `len` bytes each time. -/
def reach (off : Int) (steps : List (Nat × Int)) (len : Nat) : Int × Int :=
  (steps.foldl (fun a x => a + strideLo x.1 x.2) off, steps.foldl (fun a x => a + strideHi x.1 x.2) off + (len : Int) - 1)

/-- An address field. -/
def addrUse (idx : Nat) (bound rd wr big zero : Bool) (r : Int × Int) : FieldUse := ⟨idx, false, bound, rd, wr, big, zero, r.1, r.2⟩

/-- A shelf-line field: one that is read calls for a wide buffer; the rows of `move` mode 0x1 may go to a narrow one (09 R277). -/
def lineUse (idx : Nat) (bound wr zero : Bool) (r : Int × Int) : FieldUse := ⟨idx, true, bound, !wr, wr, !wr, zero, r.1, r.2⟩

/-- The output width of a point in bits, 32 without one (04 R99). -/
def outBits (c : OpCtx) (opt : Nat) : Nat :=
  if opt = 0xFFF then 32 else ((fmtOfCode (pfld (blockOfPoint c.bs c.V opt) 0xA 1)).map fmtBits).getD 32

/-- Bytes of an output row in whole lines (08 R225). -/
def rowLines (bits n : Nat) : Nat := up64 ((n * bits + 7) / 8)

/-- The lines that a stream reaches from its base: count groups at the furthest skew (05 R138). -/
def streamLines (f : Fmt) (far lanes steps : Nat) : Nat := groupLines f * (far + steps + lanes - 1)

/-- The fields of a matrix op or of a pair's first slot. -/
def matUses (c : OpCtx) : List FieldUse :=
  let f := matFields c.w
  let pair := opcOf c.w == 3
  let p := pairFields c.w2
  let trans := if pair then p.transA else opcOf c.w == 2
  let os := f.stat == 2
  let paired := isPaired f.fmtS f.fmtT
  let parts := f.iter / f.q
  let left := streamLines f.fmtS (130 * (gangHigh f.gang - 1)) 128 f.steps
  let top (x : Fmt) : Nat := streamLines x (34 * (gangWide f.gang - 1)) 32 f.steps
  let aRange := if os then reach f.aLine [(f.iter, f.aQstride)] left
    else reach f.aLine [(parts, f.aStride), (f.q, f.aQstride)] (if trans then top f.fmtS else left)
  let tiles := if pair then [(f.iter, f.tStride * 512), (p.groups, p.gStride * 512)] else [(f.iter, f.tStride * 512)]
  let tZero := f.tReg == 0 && f.tOff == 0 && f.tStride == 0 && (!pair || p.gStride == 0)
  let tUse := if os then lineUse 1 true false true (reach ((f.tOff % 1024 : Nat) : Int) [(f.iter, sfld c.w 164 154)] (top f.fmtT))
    else addrUse 1 f.loadb true false true tZero (reach (512 * f.tOff : Nat) tiles (gangTileBytes f.gang f.fmtT paired))
  let oCols := if pair then outSpan p.gangB p.transB false else if os then gangCols f.gang else outSpan f.gang trans paired
  let oRows := if os then gangRows f.gang else f.steps
  let oTiles := if pair then p.qb else if os then f.iter else f.q
  [lineUse 0 true false true aRange, tUse,
   addrUse 2 true (f.seed == 1) true false true (reach (64 * f.oOff : Nat) [(oTiles, f.oStride * 64), (oRows, (64 * f.oPitch : Nat))] (rowLines (outBits c f.opt) oCols))]

/-- The fields of a pair's second slot. -/
def pairUses (c : OpCtx) : List FieldUse :=
  let f := matFields c.w
  let p := pairFields c.w2
  let nb := p.groups * f.q / p.ratio
  [addrUse 0 p.loadbB true false true (p.tbReg == 0 && p.tbOff == 0 && p.tbStride == 0)
    (reach (512 * p.tbOff : Nat) [(nb * p.qb, p.tbStride * 512)] (gangTileBytes p.gangB p.fmtB false)),
   addrUse 1 (p.twin != 15 && f.loadb) true false true (p.t2Reg == 0 && p.t2Off == 0)
    (reach (512 * p.t2Off : Nat) [(f.iter, f.tStride * 512), (p.groups, p.gStride * 512)] (gangTileBytes p.twin f.fmtT false))]

/-- The fields of the other ops. -/
def otherUses (c : OpCtx) : List FieldUse :=
  let w := c.w
  match opcOf w with
  | 0x04 =>
    let f := ldsFields w
    let len := if f.seeds then gangRows f.gang * gangCols f.gang * 4 else gangTileBytes f.gang f.fmt (ldsPaired f)
    [addrUse 0 (!f.relay) true false true (f.tReg == 0 && f.tOff == 0) (reach (512 * f.tOff : Nat) [] len)]
  | 0x06 =>
    let f := chuteFields w
    let row := rowBytes f.fmtW f.n
    let rows := if isPaired f.fmtV f.fmtW then 256 else 128
    let len := if f.tiled then (f.k + rows - 1) / rows * ((f.n + 31) / 32) * mouldTileBytes f.fmtW (isPaired f.fmtV f.fmtW) else (f.k - 1) * f.wPitch * 64 + row
    let bits := outBits c f.opt
    [addrUse 0 true true false true true (reach (512 * f.wOff : Nat) [(f.iter, f.wStride * 512)] len),
     addrUse 1 (!f.wide) (f.seed == 1) true false (f.oReg == 0 && f.oOff == 0 && f.oStride == 0)
      (reach (64 * f.oOff : Nat) [(f.iter, f.oStride * 64)] (f.batch * rowLines bits f.n))]
  | 0x07 =>
    let f := ewaFields w
    let out := up64 ((gangMoulds f.gang).length * f.lines * lineElems f.fmtA * fmtBits f.fmtO / 8)
    [lineUse 0 true false true (reach f.aLine [(f.iter, f.aStride)] f.lines),
     addrUse 1 true false true false true (reach (64 * f.oOff : Nat) [(f.iter, f.oStride * 64)] out)]
  | 0x08 =>
    let f := rowfFields w
    [addrUse 0 true true false true true (reach (64 * f.iOff : Nat) [(f.rows, f.iPitch * 64)] (rowBytes f.fmtI f.len)),
     addrUse 1 true false true false true (reach (64 * f.oOff : Nat) [(f.rows, f.oPitch * 64)] (up64 (rowBytes f.fmtO f.len)))]
  | 0x09 =>
    let f := directFields w
    let len := if f.mode = 4 then 8 * f.len else rowBytes f.fmtI f.len
    [addrUse 0 true true false false true (reach (64 * f.iOff : Nat) [(f.rows, f.iPitch * 64)] len),
     addrUse 1 (decide (2 ≤ f.mode)) false true false true (reach (64 * f.oOff : Nat) [(f.rows, f.oPitch * 64)] (up64 (8 * f.k)))]
  | 0x0A =>
    let f := directFields w
    let bits := if f.mode = 1 ∧ f.opt ≠ 0xFFF then outBits c f.opt else fmtBits f.fmtO
    [addrUse 0 true true false false true (reach (64 * f.iOff : Nat) [(f.rows, f.iPitch * 64)] (rowBytes f.fmtI f.len)),
     addrUse 1 true false true false true (reach (64 * f.oOff : Nat) [(f.rows, f.oPitch * 64)] (rowLines bits f.len))]
  | 0x0B =>
    let f := moveFields w
    let sZero := f.sReg == 0 && f.sOff == 0 && f.sPitch == 0
    let dZero := f.dReg == 0 && f.dOff == 0 && f.dPitch == 0
    let lanes := if f.edge then 32 else 128
    let skew := (if f.edge then 34 else 130) * f.pos
    let dRows := if f.mode = 2 then f.rb * 64 / max 1 (fmtBits f.fmt / 8) else f.rows
    let dLen := if f.mode = 2 then up64 (f.rows * (fmtBits f.fmt / 8)) else f.rb * 64
    [addrUse 0 (decide (f.mode ≤ 5)) true false false sZero (reach (64 * f.sOff : Nat) [(f.rows, f.sPitch * 64)] (f.rb * 64)),
     if f.mode = 1 then lineUse 1 true true true (reach ((f.dOff % 1024 + groupLines f.fmt * skew : Nat) : Int) [] (groupLines f.fmt * (f.rows + lanes - 1)))
     else addrUse 1 ([0, 2, 6, 7].contains f.mode) false true false (if f.mode = 3 ∨ f.mode = 4 then f.dReg == 0 && f.dPitch == 0 else dZero)
      (reach (64 * f.dOff : Nat) [(dRows, f.dPitch * 64)] dLen)]
  | 0x0C =>
    let f := haloFields w
    [addrUse 0 true (!f.recv) f.recv true true (reach (64 * f.lOff : Nat) [(f.rows, f.pitch * 64)] (f.rb * 64))]
  | 0x0D =>
    let f := relayFields w
    [addrUse 0 (!f.forward) true false true (f.tReg == 0 && f.tOff == 0 && f.tStride == 0)
      (reach (512 * f.tOff : Nat) [(f.tiles, f.tStride * 512)] (relayTile w))]
  | _ => []

/-- The scalar slot's narrow access (09 R280). -/
def slotUses (w : OpWord) : List FieldUse :=
  let f := slotFields w
  if slotNarrow f then [addrUse 0xFF true (f.sopc == 10) (f.sopc == 11) false true (4 * signedOf 20 f.imm, 4 * signedOf 20 f.imm + 3)] else []

/-- Every field of an op but those of a pair's second slot. -/
def opUses (c : OpCtx) : List FieldUse :=
  (if opcOf c.w = 1 ∨ opcOf c.w = 2 ∨ opcOf c.w = 3 then matUses c else otherUses c) ++ slotUses c.w

/-- The bindings of an op number. -/
def bindsOf (c : OpCtx) (n : Nat) : List BindRec := c.V.binds.filter fun b => b.room == c.r.room && b.op == n

/-- The deckle of the buffer that a field of an op binds. -/
def bindDeckle (V : Variant) (room op field : Nat) : Option Nat :=
  match V.binds.find? (fun b => b.room == room && b.op == op && b.field == field) with
  | some b => (bufIn V b.buffer).map (·.deckle)
  | none => none

/-- The deckles of the tiles that an `lds` brings: of the field that binds them or, where it takes from the relay port, those that the origin of the room's chain relays. -/
def ldsDeckles (bs : List Byte) (V : Variant) (room : Nat) (k : Nat × OpWord) : List Nat :=
  if (ldsFields k.2).relay then
    ((V.chains.filter fun m => m.room == room).flatMap fun m => (V.chains.filter fun o => o.chain == m.chain && o.pos == 0).flatMap fun o =>
      match V.rooms.find? (fun r => r.room == o.room) with
      | some r => (realOps (opsIn bs V r)).flatMap fun x => if opcOf x.2 = 0x0D ∧ fld x.2 23 20 = 0 then (bindDeckle V o.room x.1 0).toList else []
      | none => []).eraseDups
  else (bindDeckle V room k.1 0).toList

/-- The deckles of the tiles that a gang holds for op `n`: of the field that binds them, and of each `lds` that a bucket path brings into one of its moulds (06 R175). -/
def tileDeckles (c : OpCtx) (gang op field : Nat) : List Nat :=
  ((bindDeckle c.V c.r.room op field).toList ++ (gangLoads (reamsIn c.bs) c.ops c.r.entry gang c.n).flatMap fun x => ldsDeckles c.bs c.V c.r.room x.2).eraseDups

/-- What the loader sees of every op of a variant. -/
def variantOps (s : State) (bs : List Byte) (v : Nat) (V : Variant) : List OpCtx :=
  V.rooms.flatMap fun r =>
    let ops := opsIn bs V r
    (realOps ops).map fun x => ⟨s, bs, v, V, r, ops, x.1, x.2, ops.getD (x.1 + 1) 0⟩

/-- A task of the variant writes the buffer: through a field that its ops bind, as the target of wide writes, or as a ring. -/
def taskWrites (s : State) (bs : List Byte) (v : Nat) (V : Variant) (id : Nat) : Bool :=
  V.rings.any (fun r => r.buffer == id) || V.qpoints.any (fun q => q.role == 0 && q.wide == id && !(blkList (blockOfPoint bs V q.point)).isEmpty) ||
    (variantOps s bs v V).any fun c => (opUses c).any fun u => u.wr && (bindsOf c c.n).any fun b => b.field == u.idx && b.buffer == id

/-! The extents that gangs impose on the axes of their operands' deckles (09 R270). Axis 0 is innermost: K of an activation and N of a weight; K is axis 1 of a weight. The
tensor that stage A of a softmax pair holds is a key tensor, with K on axis 0 and the keys on axis 1 (log 48). -/

/-- How an axis is used: an output axis, a reduction axis, or a reduction axis whose padding a mask of 07 R216 excludes. -/
inductive AxisUse where
  | output | reduced | masked
  deriving DecidableEq, Repr

/-- An extent that a consumer imposes on an axis of a deckle. -/
structure AxisExt where
  deckle : Nat
  axis   : Nat
  mult   : Nat
  use    : AxisUse

/-- The extents of a held weight tensor: in transposed use the reduction runs along its axis 0. -/
def weightExts (trans : Bool) (red out : Nat) (u : AxisUse) (d : Nat) : List AxisExt :=
  if trans then [⟨d, 0, red, u⟩, ⟨d, 1, out, .output⟩] else [⟨d, 1, red, u⟩, ⟨d, 0, out, .output⟩]

/-- The extents that `mma` and `mmt` impose. -/
def matExts (c : OpCtx) : List AxisExt :=
  let f := matFields c.w
  let trans := opcOf c.w == 2
  let paired := isPaired f.fmtS f.fmtT
  let red := redSpan f.gang trans * (if paired && !trans then 2 else 1)
  let out := outSpan f.gang trans paired
  let line := (bindDeckle c.V c.r.room c.n 0).toList
  let held := tileDeckles c f.gang c.n 1
  if f.stat = 0 then line.map (fun d => ⟨d, 0, red, .reduced⟩) ++ held.flatMap (weightExts trans red out .reduced)
  else if f.stat = 1 then line.map (fun d => ⟨d, 1, red, .reduced⟩) ++ held.map (fun d => ⟨d, 0, red, .reduced⟩)
  else line.map (fun d => ⟨d, 0, 1, .reduced⟩) ++ (bindDeckle c.V c.r.room c.n 1).toList.flatMap (weightExts false 1 (gangCols f.gang) .reduced)

/-- The extents that a `pair` imposes: its stage A output axis is reduced in stage B, in whole couched rows. -/
def pairExts (c : OpCtx) : List AxisExt :=
  let f := matFields c.w
  let p := pairFields c.w2
  let soft := p.func == .softmax
  let keys : AxisUse := if soft && p.mask != 0 then .masked else .reduced
  let redA := redSpan f.gang p.transA
  let outA := outSpan f.gang p.transA false
  let stageA (d : Nat) : List AxisExt :=
    if soft then [⟨d, 0, redA, .reduced⟩, ⟨d, 1, p.ratio * outA, keys⟩] else weightExts p.transA redA outA .reduced d
  let twin := if p.twin = 15 then [] else tileDeckles c p.twin (c.n + 1) 1
  (bindDeckle c.V c.r.room c.n 0).toList.map (fun d => ⟨d, 0, redA, .reduced⟩) ++
    (tileDeckles c f.gang c.n 1 ++ twin).flatMap stageA ++
    (tileDeckles c p.gangB (c.n + 1) 0).flatMap (weightExts p.transB (redSpan p.gangB p.transB) (outSpan p.gangB p.transB false) keys)

/-- The axis of a chute's input vectors along which it reduces: the vector buffer holds the batch innermost (06 R180), so K is axis 0 of a single vector and axis 1 of several. -/
def vectorAxis (w : OpWord) : Nat := if (chuteFields w).batch = 1 then 0 else 1

/-- The extents on the vectors that a `move` of mode 0x4 brings for the `chute` ops of its room's list after it, up to the next such move and those that refill behind it. -/
def vectorExts (c : OpCtx) : List AxisExt :=
  if (moveFields c.w).mode = 4 then
    (bindDeckle c.V c.r.room c.n 0).toList.flatMap fun d =>
      match ((realOps c.ops).filter fun x => decide (c.n < x.1)).find? (fun x => opcOf x.2 == 6) with
      | some x => [⟨d, vectorAxis x.2, 1, .reduced⟩]
      | none => ((realOps c.ops).filter fun x => opcOf x.2 == 6).reverse.head?.toList.map fun x => ⟨d, vectorAxis x.2, 1, .reduced⟩
  else []

/-- The extents that an op imposes; the chute imposes none, but reduces along K of its weights and its vectors. -/
def opExts (c : OpCtx) : List AxisExt :=
  match opcOf c.w with
  | 0x01 | 0x02 => matExts c
  | 0x03 => pairExts c
  | 0x06 => (bindDeckle c.V c.r.room c.n 0).toList.map fun d => ⟨d, 1, 1, .reduced⟩
  | 0x0B => vectorExts c
  | _ => []

end Sys2Proof.Machine
end

