-- ==== Sys2Proof/Machine/CopyPlan.lean ====
section
/-!
DEFINITION. Which rotated weight copies an image calls for, what a build writes, and where the copies stand in the reserve (04_quantisation R112 to R115, 08 R251).
-/
namespace Sys2Proof.Machine

/-! Rotated weight copies (04 R112 to R115). -/

/-- Consecutive weights of a stored operand: the byte offset in the buffer, and the reduction index and output channel of each. -/
structure WUnit where
  off   : Nat
  elems : List (Nat × Nat)

/-- The elements of a gang's tile in layout order (05 R134): reduction index and output channel from `k0` and `c0`. -/
def tileElems (g : Nat) (trans paired : Bool) (k0 c0 : Nat) : List (Nat × Nat) :=
  let rows := if paired then 256 else 128
  (gangMoulds g).flatMap fun m => (List.range (rows * 32)).map fun e =>
    let row := m.2.1 * rows + e / 32
    let col := m.2.2 * 32 + e % 32
    if trans then (k0 + col, c0 + row) else (k0 + row, c0 + col)

/-- The weights of a consumer within its weight buffer; `w2` is the second word of a `pair`, whose stage A and twin hold the weights (07 R204). -/
def weightUnits (w w2 : OpWord) (twin : Bool) (delta : Int) : List WUnit :=
  if opcOf w = 6 then
    let f := chuteFields w
    let base (p : Nat) : Int := delta + 512 * (f.wOff : Nat) + (p : Int) * f.wStride * 512
    let paired := isPaired f.fmtV f.fmtW
    let rows := if paired then 256 else 128
    let tiles := (f.n + 31) / 32
    (List.range f.iter).flatMap fun p =>
      if f.tiled then (List.range ((f.k + rows - 1) / rows * tiles)).map fun t =>
        ⟨(base p).toNat + t * mouldTileBytes f.fmtW paired, (List.range (rows * 32)).map fun e => (t / tiles * rows + e / 32, p * f.n + t % tiles * 32 + e % 32)⟩
      else (List.range f.k).map fun k => ⟨(base p).toNat + k * f.wPitch * 64, (List.range f.n).map fun j => (k, p * f.n + j)⟩
  else
    let f := matFields w
    let p := pairFields w2
    let pair := opcOf w == 3
    let paired := isPaired f.fmtS f.fmtT && !pair
    let trans := if pair then p.transA else opcOf w == 2
    let gang := if twin then p.twin else f.gang
    let rows := if paired then 2 else 1
    let red := if trans then gangCols gang else gangRows gang * rows
    let out := if trans then gangRows gang * rows else gangCols gang
    (List.range (if pair then p.groups else 1)).flatMap fun (g : Nat) => (List.range f.iter).map fun (i : Nat) =>
      let off : Int := delta + 512 * ((if twin then p.t2Off else f.tOff : Nat) : Int) + (i : Int) * f.tStride * 512 + (if pair then (g : Int) * p.gStride * 512 else 0)
      (⟨off.toNat, tileElems gang trans paired (i / f.q * red) ((g * f.q + i % f.q) * out : Nat)⟩ : WUnit)

/-- The format of a consumer's weights. -/
def weightFmt (w : OpWord) : Fmt := if opcOf w = 6 then (chuteFields w).fmtW else (matFields w).fmtT

/-- A consumer that has a copy: its record, with the op number that binds the weights, their format and places, and their binding and buffer. -/
structure CopyJob where
  cons  : QRec
  fmt   : Fmt
  units : List WUnit
  buf   : BufRec
  buffer : Nat

/-- The copy of the weights that op `n` of a room binds with its field `field`. -/
def copyJob (V : Variant) (q : QRec) (n field : Nat) (w w2 : OpWord) (twin : Bool) : Option CopyJob :=
  match V.binds.find? (fun b => b.room == q.room && b.op == n && b.field == field) with
  | some b => (bufIn V b.buffer).map fun y => ⟨{ q with op := n }, weightFmt w, weightUnits w w2 twin b.delta, y, b.buffer⟩
  | none => none

/-- Where an op's list stands: the image's number, reams and variant, the list and its entry, and the 16 bits at an offset of a buffer that has DATA. -/
structure ListAt where
  imageId : Nat
  reams   : List ReamRec
  V       : Variant
  ops     : List OpWord
  entry   : Nat
  code    : BufRec → Nat → Nat

/-- The copy of a buffer that an op of the consumer's room binds with field 0. -/
def loadJob (L : ListAt) (q : QRec) (n : Nat) (fmt : Fmt) (units : Int → List WUnit) : Option CopyJob :=
  match L.V.binds.find? (fun b => b.room == q.room && b.op == n && b.field == 0) with
  | none => none
  | some b => (bufIn L.V b.buffer).map fun y => ⟨q, fmt, units b.delta, y, b.buffer⟩

/-- The weights of one mould tile of an `lds`, for the mould that stands at row `i` and column `j` of the consumer's gang. -/
def mouldUnit (l : OpWord) (m i j : Nat) (trans paired : Bool) (delta : Int) : WUnit :=
  let f := ldsFields l
  let rows := if paired then 256 else 128
  let t := ((gangUnits f.gang).findIdx? (· == m)).getD 0
  ⟨(delta + 512 * (f.tOff : Nat)).toNat + t * mouldTileBytes f.fmt (ldsPaired f), (List.range (rows * 32)).map fun e =>
    let row := i * rows + e / 32
    let col := j * 32 + e % 32
    if trans then (col, row) else (row, col)⟩

/-- The copies of the tiles that the `lds` ops of every bucket path bring into a consumer's gang before it (log 49). -/
def ldsJobs (L : ListAt) (q : QRec) (n gang : Nat) (trans : Bool) (fs : Fmt) : List CopyJob :=
  let loads := (gangLoads L.reams L.ops L.entry gang n).filter fun x => !(ldsFields x.2.2).seeds && !(ldsFields x.2.2).relay
  ((loads.map (·.2)).eraseDups).filterMap fun l =>
    loadJob L q l.1 (ldsFields l.2).fmt fun delta => (gangMoulds gang).filterMap fun m =>
      if loads.any fun x => x.1 == m.1 && x.2.1 == l.1 then some (mouldUnit l.2 m.1 m.2.1 m.2.2 trans (isPaired fs (ldsFields l.2).fmt) delta) else none

/-- The weights that a `move` of mode 0x1 brings to a shelf line from which a consumer streams them (06 R184, 05 R138): row r of the move is step r. Of an input-stationary
consumer a step is an output channel and its lanes are the reduction; of an output-stationary one a step is a reduction index, and its lanes are the channels. -/
def streamUnits (w mv : OpWord) (part tile : Nat) (delta : Int) : List WUnit :=
  let f := matFields w
  let m := moveFields mv
  let two := if isPaired f.fmtS f.fmtT then 2 else 1
  let lanes := min (if m.edge then 32 else 128 * two) (m.rb * 512 / fmtBits m.fmt)
  let red := if f.stat = 1 then redSpan f.gang (opcOf w == 2) * two else f.steps * two
  (List.range m.rows).map fun (r : Nat) => ⟨(delta + 64 * (m.sOff : Nat) + (r : Int) * m.sPitch * 64).toNat, (List.range lanes).map fun (e : Nat) =>
    if f.stat = 1 then ((part * red + m.pos * 128 * two + e : Nat), (tile * f.steps + r : Nat)) else ((r * two + e % two : Nat), (tile * gangCols f.gang + m.pos * 32 + e / two : Nat))⟩

/-- The copies of the weights that a consumer streams, of the moves before it that fill the lines of one of its iterations. -/
def streamJobs (L : ListAt) (q : QRec) (w : OpWord) : List CopyJob :=
  let f := matFields w
  let moves := ((beforeOn L.reams L.ops L.entry q.op).flatten.eraseDups).filter fun x => opcOf x.2 == 0x0B && (moveFields x.2).mode == 1
  let line (i : Nat) : Nat :=
    if f.stat = 1 then lineAdd (lineAdd f.aLine ((i / f.q : Nat) * f.aStride)) ((i % f.q : Nat) * f.aQstride)
    else lineAdd (f.tOff % 1024) ((i : Int) * signedOf 11 ((f.tStride % 2048).toNat))
  moves.filterMap fun x =>
    match (List.range f.iter).find? (fun i => line i == (moveFields x.2).dOff % 1024) with
    | some i => if (gangUnits f.gang).contains (moveFields x.2).mould ∧ (moveFields x.2).edge = decide (f.stat = 2 ∨ opcOf w = 2) then
        loadJob L q x.1 (moveFields x.2).fmt (streamUnits w x.2 (i / f.q) (if f.stat = 2 then i else i % f.q)) else none
    | none => none

/-- The copies that one activation consumer calls for: its weights, bound by an address field (weight-stationary with LOADB, or on the chute), loaded by the `lds` ops before
it, or brought by the moves before it to the lines from which it streams them; and those of a pair's twin, which its second slot binds. -/
def jobsOf (L : ListAt) (q : QRec) (w w2 : OpWord) : List CopyJob :=
  let f := matFields w
  let p := pairFields w2
  let pair := opcOf w == 3
  let trans := if pair then p.transA else opcOf w == 2
  let twin := pair && p.twin != 15
  let q2 : QRec := { q with op := q.op + 1 }
  if opcOf w = 6 then (copyJob L.V q q.op 0 w w2 false).toList
  else if !(opcOf w = 1 ∨ opcOf w = 2 ∨ opcOf w = 3) then []
  else if f.stat ≠ 0 then streamJobs L q w
  else if f.loadb then
    (copyJob L.V q q.op 1 w w2 false).toList ++ if twin then (copyJob L.V q (q.op + 1) 1 w w2 true).toList else []
  else ldsJobs L q q.op f.gang trans f.fmtS ++ if twin then ldsJobs L q2 q.op p.twin trans f.fmtS else []

/-- The list of a record's room. -/
def listAt (bs : List Byte) (V : Variant) (room : Nat) : ListAt :=
  match V.rooms.find? (fun r => r.room == room) with
  | some r => ⟨pfld bs 0x30 8, reamsIn bs, V, opsIn bs V r, r.entry, fun b o => leAt (bufData bs b) o 2⟩
  | none => ⟨pfld bs 0x30 8, reamsIn bs, V, [], 0, fun _ _ => 0⟩

/-- The copies that a record of a variant calls for: an activation consumer's. -/
def consumerJobs (bs : List Byte) (V : Variant) (q : QRec) : List CopyJob :=
  if q.role = 1 then
    (match qOp bs V q with
      | some (w, w2) => jobsOf (listAt bs V q.room) q w w2
      | none => [])
  else []

/-- The consumers of a variant that have a copy. -/
def copyConsumers (bs : List Byte) (V : Variant) : List CopyJob := V.qpoints.flatMap (consumerJobs bs V)

/-- The codes of a buffer's weights by output channel and reduction index. -/
def weightCodes (f : Fmt) (us : List WUnit) (bs : List Byte) : List (Nat × Nat × Nat) :=
  us.flatMap fun u => (List.range u.elems.length).filterMap fun e => match u.elems[e]? with
    | some (k, c) => some (c, k, elemCode f (bs.drop u.off) e)
    | none => none

/-- The rotated weights of one output channel (04 R113, R114), in ascending reduction index. -/
def rotatedColumn (f : Fmt) (log scale : Nat) (codes : List (Nat × Nat × Nat)) (c : Nat) : List Val :=
  let mine := codes.filter fun x => x.1 == c
  let n := (mine.map fun x => x.2.1 + 1).foldl max 0
  let b := 2 ^ log
  forList ((n + b - 1) / b) fun blk => rotateBlock log (log / 2) ((List.range b).map fun i =>
    match mine.find? (fun x => x.2.1 == blk * b + i) with
    | some x => dequant f x.2.2 scale 0
    | none => vZero)

/-- The scale that a channel's rotated weights take (04 R106, R114). -/
def copyScale (f : Fmt) (prev : Nat) (vs : List Val) : Nat :=
  (deriveScale (vs.foldl (fun m v => if vIsFin v then vMax m (vAbs v) else m) vZero) vOne (qmaxOf f 0) prev).1

/-- The place in DATA, in bits, of the first weight of output channel `c` (of a buffer without DATA, in the store). -/
def chanPlace (buf : BufRec) (f : Fmt) (us : List WUnit) (c : Nat) : Nat :=
  8 * buf.data.getD buf.base + ((us.findSome? fun u => (u.elems.findIdx? fun e => e.2 == c).map fun e => 8 * u.off + e * fmtBits f).getD 0)

/-- The SW16 scale that DATA gives a table entry by the last fill of it before op `n` in the list (04 R97, 06 R184). -/
def filledScale (L : ListAt) (room n entry : Nat) : Option Nat :=
  ((realOps (L.ops.take n)).reverse.findSome? fun x =>
    let m := moveFields x.2
    let row := 32 * m.rb
    if opcOf x.2 = 0x0B ∧ m.mode = 3 ∧ m.dOff ≤ entry ∧ entry < m.dOff + row * m.rows then
      match L.V.binds.find? (fun b => b.room == room && b.op == x.1 && b.field == 0) with
      | some b => (match bufIn L.V b.buffer with
        | some y => y.data.map fun _ =>
            L.code y (b.delta + 64 * (m.sOff : Nat) + ((entry - m.dOff) / row : Nat) * m.sPitch * 64 + (2 * ((entry - m.dOff) % row) : Nat)).toNat
        | none => none)
      | none => none
    else none)

/-- The stored weight scale of output channel `c` of a consumer (04 R114): what the image fills the table with for it, where it does so from DATA before an op that reads its
table (RESC, 04 R97); no record holds a scale that is folded or comes from elsewhere, and it is free (log 73). -/
def storedScale (L : ListAt) (x : CopyJob) (c : Nat) : Nat :=
  let w := L.ops.getD x.cons.op 0
  let resc := if opcOf w = 6 then (chuteFields w).resc else (matFields w).resc
  match (if resc then filledScale L x.cons.room x.cons.op (c % 8192) else none) with
  | some k => k
  | none => Config.weightScale L.imageId (chanPlace x.buf x.fmt x.units c) % 65536

/-- What a build writes, from the stored scale of each channel: the buffer's bytes with every weight replaced by its rotated code, and the scale tensor. -/
def buildCopy (scale : Nat → Nat) (log : Nat) (f : Fmt) (us : List WUnit) (bs : List Byte) : List Byte × List Nat :=
  let codes := weightCodes f us bs
  let chans := (codes.map fun x => x.1 + 1).foldl max 0
  let cols := (List.range chans).map fun c =>
    let prev := scale c
    let vs := rotatedColumn f log prev codes c
    (vs, copyScale f prev vs)
  let code (k c : Nat) : Nat := match cols[c]? with
    | some (vs, sc) => (quantise (vs.getD k vZero) (decodeFmt .sw16 sc) 0 f).1
    | none => 0
  (us.foldl (fun b u => splice b u.off (packRow f (u.elems.map fun e => code e.1 e.2))) bs, cols.map (·.2))

/-- A weight scale that a build would dequantise with is invalid (04 R114). -/
def jobScaleBad (bs : List Byte) (V : Variant) (x : CopyJob) : Bool :=
  ((x.units.flatMap fun u => u.elems.map (·.2)).eraseDups).any fun c => swInvalid (storedScale (listAt bs V x.cons.room) x c)

/-- The banks of a hall's reserve that are out of service and stand nowhere else. -/
def reserveOut (s : State) (hall : Nat) : List (Nat × Nat) :=
  (List.range (reserveCellar s.params.tiers / 2 ^ 20)).filterMap fun k =>
    let b := usableCellar s.params.tiers / 2 ^ 20 + k
    if (unitOf s 4 (bankUnit s.params.tiers hall b)).service ≠ 0 ∧ (s.store.relocs.any fun r => r.hall == hall && r.bank == b) = false then some (b * 2 ^ 20, 2 ^ 20)
    else none

/-- The parts of a hall's reserve in use, as offset and size: relocated banks, banks out of service, granules that clear, and copies. -/
def reserveUsed (s : State) (hall : Nat) (more : List CopyRec) : List (Nat × Nat) :=
  reserveOut s hall ++ ((s.store.relocs.filter fun r => r.hall == hall).map fun r => (r.base, 2 ^ 20)) ++
    ((s.store.clearing.filter fun g => saHall (g * 65536) == hall && saLevel (g * 65536) == 0).map fun g => (saOffset (g * 65536), 65536)) ++
    (((s.steward.images.flatMap (·.copies)) ++ (s.steward.closes.flatMap fun c => c.image.toList.flatMap (·.copies)) ++ more).filter fun c => c.present && saHall c.base == hall).map fun c => (saOffset c.base, c.scales + up64 (2 * c.nScales) - c.base)

/-- The lowest place of `n` bytes in a hall's reserve, at a granule boundary; the manual names no place (log 50). -/
def reservePlace (s : State) (hall n : Nat) (more : List CopyRec) : Option Nat :=
  let u := usableCellar s.params.tiers
  let used := reserveUsed s hall more
  ((List.range (reserveCellar s.params.tiers / 65536)).map fun g => u + g * 65536).find? fun o =>
    decide (o + n ≤ u + reserveCellar s.params.tiers) && !used.any fun r => overlap r.1 (max 1 r.2) o n

/-- Plan the copies of a list of consumers in turn: none when the reserve is too small (04 R115). -/
def planCopies (s : State) (bs : List Byte) (v : Nat) (V : Variant) : List CopyJob → List CopyRec → Option (List CopyRec)
  | [], acc => some acc
  | x :: xs, acc =>
    let chans := (x.units.flatMap fun u => u.elems.map fun e => e.2 + 1).foldl max 0
    match reservePlace s (x.cons.room / 16) (x.buf.size + up64 (2 * chans)) acc with
    | none => none
    | some o =>
      let a := cellarAddr (x.cons.room / 16) o
      planCopies s bs v V xs (acc ++ [⟨acc.length, v, x.cons.room, x.cons.op, x.cons.point, x.buffer, x.buf.base, a, x.buf.size, a + x.buf.size, chans, ((List.range 16).find? fun k => fmtOfCode k == some x.fmt).getD 0,
        pfld (blockOfPoint bs V x.cons.point) 0xB 1, 65536, true⟩])

/-- The copies that the image calls for, none when one does not fit. -/
def imageCopies (s : State) (bs : List Byte) : Option (List CopyRec) :=
  match planCopies s bs 1 (variantIn bs 1) (copyConsumers bs (variantIn bs 1)) [] with
  | none => none
  | some l => if imgV15 bs then planCopies s bs 2 (variantIn bs 2) (copyConsumers bs (variantIn bs 2)) l else some l

end Sys2Proof.Machine
end

