-- ==== Sys2Proof/Machine/LoadCheck.lean ====
section
/-!
DEFINITION. The loader's checks of the header, the directory and the records (09_sweeps_and_mapping R273 to R291 and the chapters they
refer to). Each check is a condition that fails and the rejection it causes; the first in the order of R288 is reported.
-/
namespace Sys2Proof.Machine

/-! Header (09 R273, R288). -/

/-- The CRC of the image with its own field taken as zero. -/
def imageCrc (bs : List Byte) : Nat := (crc32 (bs.take 0x3C ++ List.replicate 4 0 ++ bs.drop 0x40)).toNat

/-- The certified counts of a variant: a count of 0, or a checked count below the unchecked one. That the count lies above every target is a check of the `sync` ops (log 68). -/
def countsBad (c chk : Nat) : Bool := c == 0 || (chk != 0 && decide (chk < c))

/-- The checks of the header. -/
def headChecks (s : State) (bs : List Byte) (len : Nat) : List (Bool × Reject) :=
  let v15 := imgV15 bs
  [(pfld bs 0 4 != 0x4D494B43 || pfld bs 4 2 != 1, rejHead 0x0401),
   (pfld bs 0x28 8 != len || decide (len < 64), rejHead 0x0401),
   (decide (2 ^ 40 < len), rejHead 0x0407),
   (decide (8 ≤ pfld bs 0x10 4) || pfld bs 0x16 2 != 0 || pfld bs 0x38 4 != 0 || (!v15 && (pfld bs 0x20 4 != 0 || pfld bs 0x24 4 != 0)), rejHead 0x0401),
   (pfld bs 6 2 == 0 || decide (64 < pfld bs 6 2), rejHead 0x0401),
   (pfld bs 0x3C 4 != imageCrc bs, rejHead 0x0402),
   (pfld bs 8 4 != configClass s.params || pfld bs 0xC 4 != versionReg, rejHead 0x0403),
   (countsBad (pfld bs 0x18 4) (pfld bs 0x1C 4), rejHead 0x0430),
   (v15 && countsBad (pfld bs 0x20 4) (pfld bs 0x24 4), rejHead 0x0430),
   (pfld bs 0x14 2 == 0 || decide (8192 < pfld bs 0x14 2) || (!imgMulti bs && pfld bs 0x14 2 != 1) ||
     (imgMulti bs && decide (pfld bs 0x14 2 < 2)), rejHead 0x0401)]

/-! Directory (09 R274). -/

/-- Bytes of a section. -/
def sectBytes (x : Sect) : Nat := x.count * recSize x.type

/-- The checks of directory entry `k`. A section of the 15-room variant in an image with V15 clear is a malformed directory (DESIGN CHOICE, log 74). -/
def dirChecks (bs : List Byte) (len : Nat) (k : Nat) (x : Sect) : List (Bool × Reject) :=
  let before := (sectsOf bs).take k
  let dir := 64 + 16 * (sectsOf bs).length
  let rej (code : Nat) : Reject := rejRec 0xFF x.variant k code
  [(x.rsv != 0 || x.type == 0 || decide (0x11 < x.type) || !varAllowed x.type x.variant, rej 0x0401),
   (x.variant == 2 && !imgV15 bs, rej 0x0401),
   (x.off % 64 != 0 || decide (x.off < dir) || decide (len < x.off + sectBytes x) || decide (len < dir), rej 0x0401),
   (before.any (fun y => (y.type == x.type && y.variant == x.variant) || overlap y.off (sectBytes y) x.off (sectBytes x)), rej 0x0401),
   ((x.type == 2 && decide (65535 < ((sectsOf bs).filter fun y => y.type == 2).foldl (fun n y => n + y.count) 0)) || (x.type == 8 && decide (4096 < x.count)) ||
      (x.type == 6 && decide (64 < x.count)), rej 0x0407),
   (imgV15 bs && (x.variant == 1 || x.variant == 2) && !(sectsOf bs).any (fun y => y.type == x.type && y.variant == 3 - x.variant), rej 0x0405)]

/-! Records. Each function gives the checks of record `k` of its section and variant. -/

/-- The variant whose records a section of variant `v` belongs with. -/
def variantFor (bs : List Byte) (v : Nat) : Variant := variantIn bs (if v = 2 then 2 else 1)

/-- Logical rooms that a hall offers (08 R222). -/
def offers (s : State) (hall : Nat) : Nat := if hall < s.params.halls then tabGet 16 s.offered hall else 0

/-- The hall offers the room; room 15 of a hall that offers 15 may stand in the 16-room variant of an image that holds both, which does not run there (01 R19, 09 R286). -/
def roomOffered (s : State) (bs : List Byte) (v room : Nat) : Bool :=
  decide (15 ≤ offers s (room / 16)) && (decide (room % 16 < offers s (room / 16)) || (imgV15 bs && v == 1))

/-- ROOMS: a room not offered or a hall below 15 rooms, a 15-room variant that names room 15, an op list that is undeclared or too long, an entry outside the list. -/
def roomChecks (s : State) (bs : List Byte) (v k : Nat) (b : List Byte) : List (Bool × Reject) :=
  let r := roomRecOf b
  let V := variantIn bs v
  let ops := opsIn bs V r
  let rej := rejRec 1 v k
  [(pfld b 6 10 != 0 || ((V.rooms.take k).any fun x => x.room == r.room), rej 0x0401),
   (v == 2 && r.room % 16 == 15, rej 0x0405),
   (!roomOffered s bs v r.room, rej 0x0406),
   (decide (16384 < ops.length), rej 0x0407),
   (decide (ops.length ≤ r.entry), rej 0x0414),
   ((match bufIn V r.oplist with
      | some x => x.kind != 7
      | none => true), rej 0x0425)]

/-- The buffer lies in the stores of room 15 of a hall that offers 15 rooms, and belongs to a 16-room variant that does not run there (01 R19). -/
def retiredHome (s : State) (bs : List Byte) (v : Nat) (x : BufRec) : Bool :=
  imgV15 bs && v == 1 && saLevel x.base != 0 && saLevel x.base != 3 && saRoom x.base == 15 && offers s (saHall x.base) == 15 &&
    !rangeUnmapped s (x.base - 2 ^ 22) x.size

/-- The buffer has an unmapped address or a reserve offset, or crosses a hall, level or room (09 R278). -/
def bufOutside (s : State) (bs : List Byte) (v : Nat) (x : BufRec) : Bool :=
  let last := x.base + (x.size - 1)
  (rangeUnmapped s x.base x.size && !retiredHome s bs v x) || saHall x.base != saHall last || saLevel x.base != saLevel last ||
    (if saLevel x.base = 0 then decide (usableCellar s.params.tiers < saOffset x.base + x.size) else saRoom x.base != saRoom last)

/-- The buffers that the loader has met before record `k` of variant `v`: of any variant, and of the same variant or shared. -/
def bufsBefore (bs : List Byte) (v k : Nat) (all : Bool) : List BufRec :=
  let own := ((recsOf bs 2 v).take k).map bufRecOf
  if v = 0 then own
  else if v = 1 ∨ all = false then (recsOf bs 2 0).map bufRecOf ++ own
  else (recsOf bs 2 0).map bufRecOf ++ (recsOf bs 2 1).map bufRecOf ++ own

/-- A granule of the buffer is owned by another context (09 R279). A granule that is being cleared is owned by none: the load waits for it (08 R253, log 67). -/
def bufOwned (s : State) (c : Nat) (x : BufRec) : Bool :=
  (granulesOf x.base x.size).any fun g =>
    let e := tabGet s.store.ownReset s.store.own g
    (ownClass e == 1 || ownClass e == 2) && ownCtx e != c

/-- A granule of the buffer has the other class, by its owner's entry or by an earlier buffer (09 R279). -/
def bufClassBad (s : State) (c : Nat) (before : List BufRec) (x : BufRec) : Bool :=
  let cls := if x.wclass then 2 else 1
  (granulesOf x.base x.size).any fun g =>
    let e := tabGet s.store.ownReset s.store.own g
    ((ownClass e == 1 || ownClass e == 2) && ownCtx e == c && ownClass e != cls) || before.any fun y => y.wclass != x.wclass && (granulesOf y.base y.size).contains g

/-- The buffer breaks the rule of a restartable image: it is input and output, or an input that a task writes (09 R278). -/
def overwrites (s : State) (bs : List Byte) (v : Nat) (x : BufRec) : Bool :=
  x.kind == 2 || ((x.kind == 0 || x.kind == 4) && ((v != 2 && taskWrites s bs 1 (variantIn bs 1) x.id) || (v != 1 && taskWrites s bs 2 (variantIn bs 2) x.id)))

/-- BUFFERS (09 R276 to R279, R288). -/
def bufChecks (s : State) (c : Nat) (bs : List Byte) (v k : Nat) (b : List Byte) : List (Bool × Reject) :=
  let x := bufRecOf b
  let V := variantFor bs v
  let rej := rejRec 2 v k
  let same := bufsBefore bs v k false
  let al := if x.narrow then 64 else 512
  [(decide (7 < x.kind) || decide (16 ≤ pfld b 3 1) || pfld b 6 2 != 0 || decide (2 ^ 40 ≤ x.base) || x.id == 0xFFFF ||
      (bufsBefore bs v k false).any (fun y => y.id == x.id), rej 0x0401),
   (x.base % al != 0 || x.size % al != 0 || ((x.kind == 4 || x.kind == 7) && x.narrow) ||
      (x.kind == 7 && (saLevel x.base != 1 || V.rooms.any fun r => r.oplist == x.id && saEngineRoom x.base != r.room)), rej 0x0420),
   (bufOutside s bs v x || same.any (fun y => y.size != 0 && x.size != 0 && overlap y.base y.size x.base x.size) ||
      (imgV15 bs && ((v == 0 && saLevel x.base != 0) || (v != 0 && [0, 2, 4, 5].contains x.kind))) || (imgRestartable bs && overwrites s bs v x), rej 0x0421),
   (bufOwned s c x, rej 0x0422),
   (bufClassBad s c (bufsBefore bs v k true) x, rej 0x0423),
   ((x.kind == 4 && x.size != 512) || (x.kind == 6 && x.size != 2560) || (x.kind == 5 && decide (x.size < blkSize (bufData bs x))) ||
      (match x.data with
        | some o => decide ((dataOf bs).length < o + x.size)
        | none => false), rej 0x0424)]

/-- BINDINGS (09 R280): a record that names no room, op or buffer of the variant is surplus. The fields themselves are checked with the ops. -/
def bindChecks (bs : List Byte) (v k : Nat) (b : List Byte) : List (Bool × Reject) :=
  let x := bindRecOf b
  let V := variantIn bs v
  let ops := match V.rooms.find? (fun r => r.room == x.room) with
    | some r => opsIn bs V r
    | none => []
  [(pfld b 5 1 != 0, rejRec 3 v k 0x0401), (decide (ops.length ≤ x.op) || (bufIn V x.buffer).isNone, rejRec 3 v k 0x0425)]

/-- The extents that an image's consumers impose on a deckle: its ops in both variants, and its sweeps (09 R256, R270). -/
def deckleExts (s : State) (bs : List Byte) (d : Nat) : List AxisExt :=
  ([1, 2].flatMap fun v => (variantOps s bs v (variantIn bs v)).flatMap opExts).filter (fun e => e.deckle == d)

/-- The op is bound to the sweep: its output field binds a tensor of the OUT deckle, and one of its operands is a tensor of an operand deckle, through the field that binds
it or the `lds` that loads it (09 R258). Of a `pair`, this is stage B's product. -/
def boundTo (w : SweepRec) (c : OpCtx) : Bool :=
  let f := matFields c.w
  let held := if opcOf c.w = 3 then tileDeckles c (pairFields c.w2).gangB (c.n + 1) 0
    else (bindDeckle c.V c.r.room c.n 0).toList ++ (bindDeckle c.V c.r.room c.n 1).toList ++ (if f.stat = 2 then [] else tileDeckles c f.gang c.n 1)
  (opcOf c.w == 1 || opcOf c.w == 2 || opcOf c.w == 3) && bindDeckle c.V c.r.room c.n 2 == some w.out && held.any fun d => d == w.wgt || (opcOf c.w != 3 && d == w.act)

/-- The matrix ops of the variant that are bound to a sweep. -/
def sweepOps (s : State) (bs : List Byte) (v : Nat) (V : Variant) (w : SweepRec) : List OpCtx := (variantOps s bs v V).filter (boundTo w)

/-- The axis of WGT along which a sweep's product reduces: axis 0 when its ops use the weight transposed (03 R82), else axis 1. -/
def sweepK (mine : List OpCtx) : Nat :=
  if mine.any (fun c => opcOf c.w == 2 || (opcOf c.w == 3 && (pairFields c.w2).transB)) then 0 else 1

/-- The extents that the sweeps impose on a deckle's axes (log 48). -/
def sweepExts (s : State) (bs : List Byte) (d : Nat) : List AxisExt :=
  ([1, 2].flatMap fun v => (recsOf bs 5 v).map fun b => (v, sweepRecOf b)).flatMap fun x =>
    let w := x.2
    let k := sweepK (sweepOps s bs x.1 (variantIn bs x.1) w)
    (if w.act = d then [⟨d, 0, w.shelf.bk, .reduced⟩] else []) ++ (if w.wgt = d then [⟨d, k, w.shelf.bk, .reduced⟩, ⟨d, 1 - k, w.shelf.bn, .output⟩] else [])

/-- The padding rule of a reduction axis: zero, or finite where every reduction of the axis excludes it by a mask (09 R269, R270). A sweep's reduction is that of its ops,
where the image binds any. -/
def padBad (ops sweeps : List AxisExt) (ax pad : Nat) : Bool :=
  let o := ops.filter fun e => e.axis == ax && e.use != .output
  let w := sweeps.any fun e => e.axis == ax && e.use != .output
  match pad with
  | 0 => false
  | 1 => o.any fun e => e.use == .reduced
  | _ => !o.isEmpty || w

/-- The extents that an axis takes: its padded extent, or every size of its ream. -/
def axisSizes (bs : List Byte) (a : AxisRec) : List Nat :=
  if a.ream = 0xFF then [a.padded]
  else match (reamsIn bs).find? (fun r => r.ream == a.ream) with
    | some r => r.sizes
    | none => []

/-- DECKLES (09 R268 to R270). That an axis entry beyond AXES holds zeros and that FMT is a code of 03 R68 are checked as fields of the record, under IMAGE_FORMAT
(DESIGN CHOICE, log 74). -/
def deckleChecks (s : State) (bs : List Byte) (k : Nat) (b : List Byte) : List (Bool × Reject) :=
  let d := deckleRecOf b
  let rej := rejRec 4 0 k
  let axes := d.axes.take d.used
  let bits := ((fmtOfCode d.fmt).map fmtBits).getD 8
  let big := axes.map fun a => (axisSizes bs a).foldl max 0
  let ops := deckleExts s bs d.id
  let sweeps := sweepExts s bs d.id
  let bufs := ([0, 1, 2].flatMap fun v => (recsOf bs 2 v).map bufRecOf).filter fun x => x.deckle == d.id
  [(pfld b 4 4 != 0 || (fmtOfCode d.fmt).isNone || (decide (1 ≤ d.used ∧ d.used ≤ 4) && (d.axes.drop d.used).any (fun a => a.logical != 0 || a.padded != 0)), rej 0x0401),
   (d.used == 0 || decide (4 < d.used) || axes.any (fun a => decide (2 < a.pad) || decide (a.padded < a.logical) || (a.ream != 0xFF && (a.logical != 0 || a.padded != 0))) ||
      (ops ++ sweeps).any (fun e => match axes[e.axis]? with
        | some a => e.mult == 0 || (axisSizes bs a).any (fun n => n % e.mult != 0)
        | none => true) ||
      (List.range axes.length).any (fun i => padBad ops sweeps i ((axes[i]?.map (·.pad)).getD 0)) ||
      (match axes.head? with
        | some a => (bits == 6 && (axisSizes bs a).any (fun n => n % 4 != 0)) || (bits == 4 && (axisSizes bs a).any (fun n => n % 2 != 0))
        | none => false) ||
      bufs.any (fun x => decide (8 * x.size < big.foldl (· * ·) 1 * bits)), rej 0x0427),
   (axes.any (fun a => a.ream != 0xFF && !(reamsIn bs).any fun r => r.ream == a.ream), rej 0x0429)]

/-- One extent divides another. -/
def divides (a b : Nat) : Bool := a != 0 && b % a == 0

/-- The extents that a deckle gives an axis: its padded extent, or those of every bucket of its ream. -/
def deckleExtents (bs : List Byte) (d ax : Nat) : List Nat :=
  match (decklesIn bs).find? (fun x => x.id == d) with
  | some x => ((x.axes.take x.used)[ax]?.map (axisSizes bs)).getD []
  | none => []

/-- A block extent divides a deckle's axis at every size of it; an axis that the deckle lacks has none that it divides. -/
def dividesAxis (bs : List Byte) (n d ax : Nat) : Bool := !(deckleExtents bs d ax).isEmpty && (deckleExtents bs d ax).all (divides n)

/-- Bytes of a deckle's element, times eight. -/
def deckleBits (bs : List Byte) (d : Nat) : Nat :=
  match (decklesIn bs).find? (fun x => x.id == d) with
  | some x => ((fmtOfCode x.fmt).map fmtBits).getD 0
  | none => 0

/-- Bytes of the resident block of a level (09 R257). -/
def residentBytes (bs : List Byte) (w : SweepRec) (l : LevelRec) : Nat :=
  (if l.order ≤ 1 then l.bm * l.bn * deckleBits bs w.out else if l.order ≤ 3 then l.bm * l.bk * deckleBits bs w.act else l.bk * l.bn * deckleBits bs w.wgt) / 8

/-- The stationary code that a shelf order implies (09 R257). -/
def orderStat (o : Nat) : Nat := if o ≤ 1 then 2 else if o ≤ 3 then 1 else 0

/-- A matrix op agrees with the shelf level of its sweep (09 R256, R258). -/
def matSweepOk (w : SweepRec) (word : OpWord) : Bool :=
  let f := matFields word
  let trans := opcOf word == 2
  let paired := isPaired f.fmtS f.fmtT
  let two := if paired && !trans then 2 else 1
  let red := redSpan f.gang trans * two
  let out := outSpan f.gang trans paired
  f.stat == orderStat w.shelf.order &&
    (if f.stat = 0 then w.shelf.bk == red && w.shelf.bn == out && w.shelf.bm == f.steps
    else if f.stat = 1 then w.shelf.bk == red && w.shelf.bm == out && w.shelf.bn == f.steps
    else w.shelf.bm == gangRows f.gang && w.shelf.bn == gangCols f.gang && w.shelf.bk == f.steps * two)

/-- Stage B of a `pair`, whose product the output tensor holds, agrees with the shelf level of its sweep (log 48). -/
def pairSweepOk (w : SweepRec) (word word2 : OpWord) : Bool :=
  let p := pairFields word2
  orderStat w.shelf.order == 0 && w.shelf.bk == redSpan p.gangB p.transB && w.shelf.bn == outSpan p.gangB p.transB false && w.shelf.bm == (matFields word).steps

/-- The op list regions in a room's pantry. -/
def listBytes (bs : List Byte) (room : Nat) : Nat :=
  ((([0, 1, 2].flatMap fun v => (recsOf bs 2 v).map bufRecOf).filter fun x => x.kind == 7 && saEngineRoom x.base == room).map (·.size)).sum

/-- SWEEPS (09 R256 to R258). -/
def sweepChecks (s : State) (bs : List Byte) (v k : Nat) (b : List Byte) : List (Bool × Reject) :=
  let w := sweepRecOf b
  let V := variantIn bs v
  let rej := rejRec 5 v k
  let levels := [w.cellar, w.pantry, w.shelf]
  let mine := sweepOps s bs v V w
  let k' := sweepK mine
  let lists := (mine.map fun c => listBytes bs c.r.room).foldl max 0
  [(pfld b 0xA 4 != 0 || [0x0F, 0x1D, 0x2B].any (fun o => pfld b o 1 != 0), rej 0x0401),
   (levels.any (fun l => decide (5 < l.order)), rej 0x0410),
   (!(divides w.shelf.bm w.pantry.bm && divides w.shelf.bn w.pantry.bn && divides w.shelf.bk w.pantry.bk &&
      divides w.pantry.bm w.cellar.bm && divides w.pantry.bn w.cellar.bn && divides w.pantry.bk w.cellar.bk &&
      dividesAxis bs w.cellar.bk w.act 0 && dividesAxis bs w.cellar.bm w.act 1 && dividesAxis bs w.cellar.bn w.wgt (1 - k') && dividesAxis bs w.cellar.bk w.wgt k' &&
      decide (residentBytes bs w w.pantry + lists ≤ 2 ^ 22) && decide (residentBytes bs w w.cellar ≤ usableCellar s.params.tiers) &&
      (deckleExtents bs w.act 0).all (fun n => divides w.split (n / w.cellar.bk)) && decide (w.split ≤ 256) && mine.all fun c => if opcOf c.w = 3 then pairSweepOk w c.w c.w2 else matSweepOk w c.w), rej 0x0428)]

/-- The list rises strictly from above 0. -/
def rising : Nat → List Nat → Bool
  | _, [] => true
  | lo, x :: xs => decide (lo < x) && rising x xs

/-- REAMS (09 R271). -/
def reamChecks (bs : List Byte) (k : Nat) (b : List Byte) : List (Bool × Reject) :=
  let n := pfld b 1 1
  let sz := reamSizes b
  [(pfld b 2 6 != 0, rejRec 6 0 k 0x0401),
   (decide (63 < pfld b 0 1) || n == 0 || decide (8 < n) || !rising 0 (sz.take n) || (sz.drop n).any (· != 0) ||
      ((reamsIn bs).take k).any (fun r => r.ream == pfld b 0 1), rejRec 6 0 k 0x0429)]

/-- The ring descriptors of a hall that no loaded image holds (09 R283, R290). -/
def freeRings (s : State) (hall : Nat) : List Nat :=
  let held := (s.steward.images.flatMap fun i => i.var16.rings ++ i.var15.rings).filter fun r => r.hall == hall
  (List.range 1024).filter fun n => !held.any fun r => r.desc == n

/-- RINGS (09 R283): the descriptors of both variants are taken at load. A number used twice, a hall that is not built and a size that the descriptor cannot hold (08 R243)
break the ring's declaration (DESIGN CHOICE, log 74). -/
def ringChecks (s : State) (bs : List Byte) (v k : Nat) (b : List Byte) : List (Bool × Reject) :=
  let x := ringRecOf b
  let V := variantIn bs v
  let before := (if v = 2 then (variantIn bs 1).rings else []) ++ V.rings.take k
  let rej := rejRec 7 v k
  [(pfld b 3 1 != 0 || pfld b 8 8 != 0, rej 0x0401),
   (decide (s.params.halls ≤ x.hall) || (V.rings.take k).any (fun y => y.ring == x.ring) || (match bufIn V x.buffer with
      | some y => y.narrow || saHall y.base != x.hall || !inRange 1 1048575 (y.size / 512)
      | none => true), rej 0x042A),
   (decide ((freeRings s x.hall).length ≤ (before.filter fun y => y.hall == x.hall).length), rej 0x042B)]

/-- The endpoint names the stream port of an annex slot (12 R355). -/
def namesPort (e : Nat) : Bool := decide (0xFF00 ≤ e)

/-- Moves of a path on a ring, as sizes in bytes: `mode` 0x5 appends, 0x6 takes. -/
def ringMoves (ring mode : Nat) (ws : List OpWord) : List Nat :=
  ws.filterMap fun w => if opcOf w = 0x0B ∧ fld w 23 20 = mode ∧ fld w 153 144 = ring then some (fld w 123 108 * fld w 137 124 * 64) else none

/-- Signals of a path to a counter of a peer. -/
def signalsTo (ctr peer : Nat) (ws : List OpWord) : Nat := (ws.filter fun w => opcOf w == 0x13 && fld w 23 20 == ctr && fld w 31 24 == peer).length

/-- Counts waited on a counter. -/
def waitsOn (ctr : Nat) (ws : List OpWord) : Nat := (ws.map fun w => if opcOf w = 0x12 ∧ fld w 23 20 = ctr then fld w 47 32 else 0).sum

/-- Only the pipe's endpoints use its ring, and each move is SLOT bytes (09 R267). -/
def pipeUseOk (bs : List Byte) (V : Variant) (p : PipeRec) : Bool :=
  V.rooms.all fun r =>
    let ws := (realOps (opsIn bs V r)).map (·.2)
    let app := ringMoves p.ring 5 ws
    let take := ringMoves p.ring 6 ws
    (r.room == p.producer || app.isEmpty) && (r.room == p.consumer || take.isEmpty) && (app ++ take).all (· == p.slot)

/-- The member index of this engine. -/
def myMember (s : State) (bs : List Byte) : Option Nat :=
  (((slotRecs bs 0).map memberRecOf).find? fun r => s.fabric.addr == some r.addr).map (·.member)

/-- A flow of this engine's member appends to the ring or takes from it (13 R400, R403), which no pipe's ring admits (09 R267). -/
def flowUses (s : State) (bs : List Byte) (ring : Nat) : Bool :=
  ((slotRecs bs 1).map flowRecOf).any fun f =>
    (myMember s bs == some f.srcMember && f.srcRing == ring) || (myMember s bs == some f.dstMember && !f.window && f.dstRing == ring)

/-- The pipe on a bucket path (09 R267): appends equal takes, and the counts signalled to its counters, by every room and by a stream port once per hand-over (12 R355),
equal the counts waited on them. -/
def pipePathOk (bs : List Byte) (V : Variant) (p : PipeRec) (c : List (Nat × Nat)) : Bool :=
  let w (r : Nat) : List OpWord := roomPath bs V c r
  let app := (ringMoves p.ring 5 (w p.producer)).length
  let take := (ringMoves p.ring 6 (w p.consumer)).length
  let sent (ctr room : Nat) : Nat := (V.rooms.map fun r => signalsTo ctr room (w r.room)).sum
  (namesPort p.producer || namesPort p.consumer || app == take) &&
    (namesPort p.consumer || sent p.dataCtr p.consumer + (if namesPort p.producer then take else 0) == waitsOn p.dataCtr (w p.consumer)) &&
    (namesPort p.producer || sent p.creditCtr p.producer + (if namesPort p.consumer then app else 0) == waitsOn p.creditCtr (w p.producer))

/-- Where the ring of a pipe lies (09 R267): the consumer's pantry or the cellar of its hall; with a stream port, the pantry of the room at the other end. -/
def pipePlaceOk (p : PipeRec) (y : BufRec) : Bool :=
  if namesPort p.producer then saLevel y.base == 1 && saEngineRoom y.base == p.consumer
  else if namesPort p.consumer then saLevel y.base == 1 && saEngineRoom y.base == p.producer
  else (saLevel y.base == 1 && saEngineRoom y.base == p.consumer) || (saLevel y.base == 0 && saHall y.base == p.consumer / 16)

/-- LATENCY, RATE and FMIN of an ANNEX_DECL value, and its ROWF and STREAM bits (12 R352). -/
def annexDeclOf (P : Params) (slot : Nat) : Nat := if slot < P.annexSlots then P.annexDecl.getD slot 0 % 2 ^ 98 else 0

/-- The endpoint names a slot that does not serve as a stream stage (12 R352, R355). -/
def portAbsent (P : Params) (e : Nat) : Bool := namesPort e && !(annexDeclOf P (e - 0xFF00)).testBit 97

/-- PIPES (09 R265, R267; 12 R355). -/
def pipeChecks (s : State) (bs : List Byte) (v k : Nat) (b : List Byte) : List (Bool × Reject) :=
  let p := pipeRecOf b
  let V := variantIn bs v
  let endOk (e : Nat) : Bool := namesPort e || V.rooms.any fun r => r.room == e
  let ok := endOk p.producer && endOk p.consumer && !(namesPort p.producer && namesPort p.consumer) && decide (p.dataCtr < 16) && decide (p.creditCtr < 16) &&
    p.slot % 64 == 0 && p.slot != 0 && p.depth != 0 &&
    (match V.rings.find? (fun r => r.ring == p.ring) with
      | some r => (match bufIn V r.buffer with
        | some y => y.size == p.slot * p.depth && pipePlaceOk p y
        | none => false)
      | none => false) && pipeUseOk bs V p && !flowUses s bs p.ring && (bucketChoices (reamsIn bs)).all (pipePathOk bs V p)
  [(!ok, rejRec 8 v k 0x042C), (portAbsent s.params p.producer || portAbsent s.params p.consumer, rejRec 8 v k 0x0434)]

/-- The tiles that a path originates or forwards, and those it takes. -/
def relaySent (ws : List OpWord) (mode : Nat) : Nat := (ws.map fun w => if opcOf w = 0x0D ∧ fld w 23 20 = mode then fld w 47 32 else 0).sum

/-- The `lds` ops of a path that take from the relay port. -/
def relayTaken (ws : List OpWord) : Nat := (ws.filter fun w => opcOf w == 4 && fld w 25 25 == 1).length

/-- The chain on a bucket path (09 R264). -/
def chainPathOk (bs : List Byte) (V : Variant) (n : Nat) (ms : List ChainRec) (c : List (Nat × Nat)) : Bool :=
  let w (m : ChainRec) : List OpWord := roomPath bs V c m.room
  let origin := ms.foldl (fun t m => if m.pos = 0 then t + relaySent (w m) 0 else t) 0
  ms.all (fun m =>
    (m.pos == 0 || relayTaken (w m) == origin) && (m.pos != 0 || relaySent (w m) 1 == 0) && (m.pos == 0 || relaySent (w m) 0 == 0) &&
      (m.pos == 0 || (if m.pos + 1 = n then relaySent (w m) 1 == 0 else relaySent (w m) 1 == origin)))

/-- Every `relay` and every `lds` from the relay port, of every room of the chain, names the same tile size (09 R264). -/
def chainSizesOk (bs : List Byte) (V : Variant) (ms : List ChainRec) : Bool :=
  let words (m : ChainRec) : List OpWord := match V.rooms.find? (fun r => r.room == m.room) with
    | some r => (realOps (opsIn bs V r)).map (·.2)
    | none => []
  let sizes := ms.flatMap fun m => ((words m).filter fun x => opcOf x == 0x0D || (opcOf x == 4 && fld x 25 25 == 1)).map relayTile
  sizes.all fun z => z == sizes.headD 0

/-- CHAINS (09 R262, R264). -/
def chainChecks (bs : List Byte) (v k : Nat) (b : List Byte) : List (Bool × Reject) :=
  let x := chainRecOf b
  let V := variantIn bs v
  let ms := V.chains.filter fun m => m.chain == x.chain
  let ok := decide (2 ≤ ms.length) && (List.range ms.length).all (fun p => (ms.filter fun m => m.pos == p).length == 1) &&
    (V.chains.filter fun m => m.room == x.room).length == 1 && V.rooms.any (fun r => r.room == x.room) &&
    chainSizesOk bs V ms && (bucketChoices (reamsIn bs)).all (chainPathOk bs V ms.length ms)
  [(pfld b 1 1 != 0 || pfld b 6 2 != 0, rejRec 9 v k 0x0401), (decide (256 < ms.length), rejRec 9 v k 0x0407), (!ok, rejRec 9 v k 0x042D)]

/-- A format that a point may write (04 R90, R95). -/
def qfmtOk (c : Nat) : Bool := [1, 2, 3, 4, 5, 6, 7, 9, 0xA, 0xB].contains c

/-- The initial block of a point holds an invalid field (04 R90, R95, R106, R109). -/
def blockBad (b : List Byte) : Bool :=
  let f := (fmtOfCode (pfld b 0xA 1)).getD .fp32
  let wide := pfld b 0x1E 2
  let ls := blkList b
  decide (b.length < blkSize b) || decide (1 < pfld b 0 1) || decide (3 < pfld b 1 1) || !inRange 1 16 (pfld b 2 1) || decide (16 < pfld b 3 1) ||
    decide (16 < pfld b 4 1) || decide (15 < pfld b 5 1) || decide (1 < pfld b 6 1) || decide (15 < pfld b 7 1) || !inRange 0x7F00 0x8300 (pfld b 8 2) ||
    !qfmtOk (pfld b 0xA 1) || !inRange 6 12 (pfld b 0xB 1) || pfld b 0xC 2 == 0 || (!fmtIsInt f && blkZero b != 0) || swInvalid (pfld b 0x1C 2) ||
    pfld b 0x24 28 != 0 || ((List.range (blkN b)).any fun k => swInvalid (pfld b (64 + 2 * k) 2)) ||
    vCmp (qmaxOf f (blkZero b)) vOne < 0 || (fmtIsInt f && decide (blkZero b < -((2 ^ (fmtBits f - 1) : Nat) : Int))) || ((wide == 0) != ls.isEmpty) ||
    (wide != 0 && !(if fmtIsInt f then [9] else [1, 2]).contains wide) || !rising 0 (ls.map (· + 1)) || ls.any (fun n => decide (pfld b 0xC 2 ≤ n)) ||
    ((List.range 64).drop ls.length).any fun k => pfld b (blkWide b + 2 * k) 2 != 0xFFFF

/-- The channels that each tile or pass of a producer's op delivers for one row, as first channel and count, in the order of delivery (04 R574). -/
def rowTiles (q : QRec) (w w2 : OpWord) : List (Nat × Nat) :=
  let f := matFields w
  match opcOf w with
  | 1 | 2 =>
    let n := if f.stat = 1 then f.steps else if f.stat = 2 then gangCols f.gang else outSpan f.gang (opcOf w == 2) (isPaired f.fmtS f.fmtT)
    (List.range (if f.stat = 2 then f.iter else f.q)).map fun t => (q.chBase + t * q.chQstep, n)
  | 3 =>
    let p := pairFields w2
    (List.range p.qb).map fun t => (t * q.chQstep, outSpan p.gangB p.transB false)
  | 6 =>
    let c := chuteFields w
    (List.range c.iter).map fun t => (q.chBase + t * q.chQstep, c.n)
  | _ => [(0, (directFields w).len)]

/-- The rows of one tile whose values are gathered side by side. -/
def rowCount (w : OpWord) : Nat :=
  let f := matFields w
  match opcOf w with
  | 1 | 2 => if f.stat = 1 then outSpan f.gang (opcOf w == 2) (isPaired f.fmtS f.fmtT) else if f.stat = 2 then gangRows f.gang else f.steps
  | 3 => f.steps
  | 6 => (chuteFields w).batch
  | _ => 1

/-- The channels that a producer's op delivers. -/
def rowChannels (q : QRec) (w w2 : OpWord) : List Nat := (rowTiles q w w2).flatMap fun x => (List.range x.2).map (x.1 + ·)

/-- The values of a row reach the sizer one at a time: the steps of an input-stationary fill, and the elements of a stored row. -/
def oneByOne (w : OpWord) : Bool := !(opcOf w == 3 || opcOf w == 6 || ((opcOf w == 1 || opcOf w == 2) && (matFields w).stat != 1))

/-- A channel lies in one of the ranges. -/
def covered (ivs : List (Nat × Nat)) (n : Nat) : Bool := ivs.any fun x => decide (x.1 ≤ n) && decide (n < x.1 + x.2)

/-- The block of `b` channels that holds channel `n` has all its values. -/
def blockDone (b : Nat) (ivs : List (Nat × Nat)) (n : Nat) : Bool := (List.range b).all fun i => covered ivs (n / b * b + i)

/-- The blocks in which a range begins and ends: only these can be partial. -/
def edgeBlocks (b : Nat) (ivs : List (Nat × Nat)) : List Nat := (ivs.flatMap fun x => [x.1 / b, (x.1 + x.2 - 1) / b]).eraseDups

/-- The values of a row that await the completion of their blocks. -/
def awaiting (b : Nat) (ivs : List (Nat × Nat)) : Nat :=
  (((edgeBlocks b ivs).filter fun k => !blockDone b ivs (k * b)).map fun k => ((List.range b).filter fun i => covered ivs (k * b + i)).length).sum

/-- A range cut at the boundaries of blocks. -/
def cutBlocks (b : Nat) (x : Nat × Nat) : List (Nat × Nat) :=
  (List.range ((x.1 + x.2 - 1) / b + 1 - x.1 / b)).map fun i =>
    let k := x.1 / b + i
    (max x.1 (k * b), min (x.1 + x.2) ((k + 1) * b) - max x.1 (k * b))

/-- The rows that an op delivers do not cover whole blocks, or its gathering could hold more than 8,192 values at once (04 R576). Tiles over the same channels
(CH_QSTEP 0) deliver rows of their own. -/
def gatherBad (q : QRec) (w w2 : OpWord) (b : Nat) : Bool :=
  let tiles := rowTiles q w w2
  let row := if q.chQstep = 0 then tiles.take 1 else tiles
  let ivs := if oneByOne w then row.flatMap (cutBlocks b) else row
  let peak := ((List.range ivs.length).map fun t =>
    max (awaiting b (ivs.take (t + 1))) (if oneByOne w then awaiting b (ivs.take t) + (ivs.getD t (0, 0)).2 - 1 else 0)).foldl max 0
  ((edgeBlocks b row).any fun k => !blockDone b row (k * b)) || decide (8192 < rowCount w * peak)

/-- K of a consumer's reduction: parts times the reduction span, which 4-bit pairs double in normal use only (04 R112, 05 R137, 06 R173). -/
def consumerK (w w2 : OpWord) : Nat :=
  let f := matFields w
  match opcOf w with
  | 1 | 2 =>
    let trans := opcOf w == 2
    let two := if isPaired f.fmtS f.fmtT && !trans then 2 else 1
    if f.stat = 2 then f.steps * two else f.iter / f.q * redSpan f.gang trans * two
  | 3 => f.iter / f.q * redSpan f.gang (pairFields w2).transA
  | 6 => (chuteFields w).k
  | _ => 0

/-- The channels whose maxima a room gathers for a point by `stat` mode 0x1: the longest row of its ops (06 R183). -/
def statChannels (bs : List Byte) (V : Variant) (room p : Nat) : Nat :=
  match V.rooms.find? (fun r => r.room == room) with
  | some r => ((realOps (opsIn bs V r)).map fun x =>
      let d := directFields x.2
      if opcOf x.2 = 9 ∧ d.mode = 1 ∧ d.pt = p then d.len else 0).foldl max 0
  | none => 0

/-- The points that a room gathers: those it produces, and those of its `stat` ops. -/
def roomPoints (bs : List Byte) (V : Variant) (room : Nat) : List Nat :=
  (((V.qpoints.filter fun q => q.room == room && q.role == 0).map (·.point)) ++ match V.rooms.find? (fun r => r.room == room) with
    | some r => (realOps (opsIn bs V r)).filterMap fun x => if opcOf x.2 = 9 ∧ (directFields x.2).mode = 1 then some (directFields x.2).pt else none
    | none => []).eraseDups

/-- The per-channel maxima that a room holds (04 R103). -/
def roomChannels (bs : List Byte) (V : Variant) (room : Nat) : Nat :=
  ((roomPoints bs V room).map fun p =>
    let b := blockOfPoint bs V p
    if pfld b 6 1 = 1 then min (pfld b 0xC 2) (((V.qpoints.filter fun q => q.room == room && q.role == 0 && q.point == p).flatMap fun q => match qOp bs V q with
      | some w => rowChannels q w.1 w.2
      | none => []) ++ List.range (statChannels bs V room p)).eraseDups.length else 0).sum

/-- A producer record breaks R574, R575 or R576. -/
def producerBad (bs : List Byte) (V : Variant) (q : QRec) : Bool :=
  let b := blockOfPoint bs V q.point
  match qOp bs V q with
  | none => true
  | some (w, w2) =>
    let opt := match opcOf w with
      | 1 | 2 | 3 => (matFields w).opt
      | 6 => (chuteFields w).opt
      | 0x0A => (directFields w).opt
      | _ => 0xFFF
    opt != q.point || (opcOf w == 0x0A && (q.chBase != 0 || q.chQstep != 0)) ||
      (opcOf w == 3 && (q.chBase != 0 || q.chQstep != outSpan (pairFields w2).gangB (pairFields w2).transB false)) ||
      (pfld b 6 1 == 1 && (rowChannels q w w2).any (fun n => decide (pfld b 0xC 2 ≤ n))) || gatherBad q w w2 (2 ^ pfld b 0xB 1) ||
      ((blkList b).isEmpty != (q.wide == 0xFFFF)) || (q.wide != 0xFFFF && (bufIn V q.wide).isNone)

/-- The copies of the consumers up to record `k` do not fit in the reserve (04 R115). -/
def reserveShort (s : State) (bs : List Byte) (v k : Nat) : Bool :=
  let upTo (u n : Nat) : List CopyJob := ((variantIn bs u).qpoints.take n).flatMap (consumerJobs bs (variantIn bs u))
  match planCopies s bs 1 (variantIn bs 1) (if v = 2 then copyConsumers bs (variantIn bs 1) else upTo 1 (k + 1)) [] with
  | none => true
  | some l => v == 2 && (planCopies s bs 2 (variantIn bs 2) (upTo 2 (k + 1)) l).isNone

/-- QPOINTS (09 R275; 04 R89, R90, R95, R96, R103, R109, R112, R574 to R576). -/
def qpointChecks (s : State) (bs : List Byte) (v k : Nat) (b : List Byte) : List (Bool × Reject) :=
  let q := qRecOf b
  let V := variantIn bs v
  let blk := blockOfPoint bs V q.point
  let rej := rejRec 0xA v k
  let st := bufIn V q.state
  let other := variantIn bs (3 - v)
  [(decide (3 < q.role) || ((q.role == 0 || q.role == 3) && decide (1 < pfld b 9 1)) || (q.role != 0 && pfld b 0xA 6 != 0), rej 0x0401),
   (imgV15 bs && (match other.qpoints.find? (fun x => x.point == q.point) with
      | some x => x.state != q.state
      | none => false), rej 0x0405),
   (decide (0xFFF ≤ q.point), rej 0x0407),
   ((match st with
      | some y => y.kind != 5 || saLevel y.base != 0
      | none => true) || (V.qpoints.take k).any (fun x => x.point == q.point && x.state != q.state) || blockBad blk || (qOp bs V q).isNone ||
      (pfld blk 6 1 == 1 && q.role != 0 && q.axis == 0) || pfld blk 0xC 2 % 2 ^ pfld blk 0xB 1 != 0 ||
      ((q.role == 1 || q.role == 2) && (match qOp bs V q with
        | some w => consumerK w.1 w.2 % 2 ^ pfld blk 0xB 1 != 0
        | none => true)) ||
      decide (8192 < roomChannels bs V q.room) || (q.role == 0 && producerBad bs V q) || (consumerJobs bs V q).any (jobScaleBad bs V), rej 0x042E),
   (reserveShort s bs v k, rej 0x042F)]

/-- SYNCS (09 R275, R290). -/
def syncChecks (v k : Nat) (b : List Byte) : List (Bool × Reject) :=
  [(pfld b 1 1 != 0 || pfld b 4 4 != 0, rejRec 0xB v k 0x0401), (decide (63 < pfld b 0 1), rejRec 0xB v k 0x0407)]

/-- A traffic claim pushes a lane or a hall above its rate in some beat (09 R282). Sums change only at a claim's first beat. -/
def trafficOver (P : Params) (before : List TrafficRec) (x : TrafficRec) : Bool :=
  let all := before ++ [x]
  let at' (t : Nat) : List TrafficRec := all.filter fun y => y.hall == x.hall && decide (y.first ≤ t) && decide (t ≤ y.last)
  ((all.map (·.first)).filter fun t => decide (x.first ≤ t) && decide (t ≤ x.last)).any fun t =>
    decide (laneRate P.tiers < (((at' t).filter fun y => y.lane == x.lane).map (·.rate)).sum) || decide (portRate P.tiers < ((at' t).map (·.rate)).sum)

/-- TRAFFIC (09 R282). -/
def trafficChecks (s : State) (bs : List Byte) (v k : Nat) (b : List Byte) : List (Bool × Reject) :=
  let x := trafficRecOf b
  [(decide (1 < x.source), rejRec 0xC v k 0x0401),
   (decide (s.params.halls ≤ x.hall) || decide (15 < x.lane) || decide (s.params.halls ≤ x.srcHall) || (x.source == 0 && x.srcHall != x.hall) || decide (x.last < x.first) ||
      trafficOver s.params ((variantIn bs v).traffic.take k) x, rejRec 0xC v k 0x0431)]

/-- The granule is the loading context's, or becomes so at placement. -/
def willOwn (s : State) (c : Nat) (bs : List Byte) (g : Nat) : Bool :=
  ownedBy s.store c g || (([0, 1, 2].flatMap fun v => (recsOf bs 2 v).map bufRecOf).any fun y => (granulesOf y.base y.size).contains g)

/-- WINDOWS (09 R284, 08 R241): the rules of an open window, and enough free descriptors. -/
def windowChecks (s : State) (c : Nat) (bs : List Byte) (k : Nat) (b : List Byte) : List (Bool × Reject) :=
  let n := leVal b
  let w := windowOfBits n
  let last := w.limit - 1
  let ok := w.base % 64 == 0 && w.limit % 64 == 0 && decide (w.base < w.limit) && saHall w.base == saHall last && saLevel w.base == saLevel last &&
    (saLevel w.base == 0 || saRoom w.base == saRoom last) && (w.read || w.write) && (granulesOf w.base (w.limit - w.base)).all (willOwn s c bs)
  [(decide (2 ^ 109 ≤ n) || w.opened || w.owner != 0, rejRec 0xD 0 k 0x0401),
   (!ok || decide (65536 < (s.store.windows.filter fun e => e.2.opened).length + k + 1), rejRec 0xD 0 k 0x0432)]

/-! SLOTS (13 R400, R401). -/

/-- A management slot of a beat (13 R397). -/
def mgmtSlot (n : Nat) : Bool := n % 16 == 15

/-- A claim of this member stands (13 R401). -/
def claimOk (s : State) (bs : List Byte) (k : Nat) (c : ClaimRec) : Bool :=
  let fl := ((slotRecs bs 1).map flowRecOf).find? fun f => f.flow == c.flow
  let bn := tabGet bundleZero s.fabric.bundles c.bundle
  let lanes := ((List.range 24).filter fun i => bn.lanes.testBit i).length
  let mems : List MemberRec := (slotRecs bs 0).map memberRecOf
  let dst := match fl with
    | some f => (mems.find? fun (m : MemberRec) => m.member == f.dstMember).map (fun m : MemberRec => m.addr)
    | none => none
  let e := tabGet 0 s.fabric.routes (dst.getD 0xFFFF)
  let frame := (fl.map (·.frame)).getD 0
  let before := (((recsOf bs 0xE 0).take k).filter fun b => pfld b 0 1 == 2).map claimRecOf
  inRange 1 60 c.count && decide (c.slot + c.count ≤ 64) && !((List.range c.count).any fun i => mgmtSlot (c.slot + i)) &&
    bn.up && decide (bn.latency ≤ 640) && s.fabric.members.any (fun r => r.addr == bn.peerAddr && r.state == 2) &&
    entValid e && !entLocal e && entBundle e == c.bundle && decide (c.frames * (32 + frame) ≤ c.count * lanes * lsBytes bn.rate) &&
    !(before.any fun y => y.member == c.member && y.bundle == c.bundle && overlap y.slot y.count c.slot c.count && decide (y.first ≤ c.last) && decide (c.first ≤ y.last)) &&
    decide (c.last < pfld bs 0x18 4) && (!imgV15 bs || decide (c.last < pfld bs 0x20 4))

/-- Frames of a claim sent from its first beat to the end of beat `t`. -/
def claimSent (c : ClaimRec) (t : Nat) : Nat := if t < c.first then 0 else c.frames * (min t c.last - c.first + 1)

/-- The first beat in which a member sends a flow. -/
def firstSend (cs : List ClaimRec) (flow member : Nat) : Option Nat :=
  ((cs.filter fun y => y.flow == flow && y.member == member).map (·.first)).foldl (fun b n => some (match b with
    | some m => min m n
    | none => n)) none

/-- The hop before a member on a flow's path: of the members that begin to send the flow before it does, the last to begin (a frame goes on two beats after it is sent at the
earliest, 13 R399). -/
def hopBefore (cs : List ClaimRec) (flow member : Nat) : Option Nat :=
  match firstSend cs flow member with
  | none => none
  | some f =>
    ((cs.filter fun y => y.flow == flow).filterMap fun y => match firstSend cs flow y.member with
      | some g => if g < f then some (g, y.member) else none
      | none => none).foldl (fun (b : Option (Nat × Nat)) x => match b with
        | some z => if z.1 < x.1 then some x else some z
        | none => some x) none |>.map (·.2)

/-- The bytes of a flow that a transit member holds in a beat: what the hop before has sent by then and it has not yet forwarded. -/
def transitHeld (cs : List ClaimRec) (flow member frame t : Nat) : Nat :=
  match hopBefore cs flow member with
  | some h =>
    let inn := ((cs.filter fun y => y.flow == flow && y.member == h).map fun y => claimSent y t).sum
    let out := ((cs.filter fun y => y.flow == flow && y.member == member).map fun y => claimSent y (t - 1)).sum
    (inn - (if t = 0 then 0 else out)) * (32 + frame)
  | none => 0

/-- The flow buffer of the gatehouse that carries a transit member's claim would overflow: what it holds of all the flows that it passes on (13 R401). -/
def transitBad (bs : List Byte) (c : ClaimRec) : Bool :=
  let cs := (slotRecs bs 2).map claimRecOf
  let mine := ((slotRecs bs 1).map flowRecOf).filter fun f => f.srcMember != c.member && cs.any fun y => y.flow == f.flow && y.member == c.member && y.bundle / 8 == c.bundle / 8
  mine.any (fun f => f.flow == c.flow) &&
    (cs.flatMap fun y => [y.first, y.first + 1, y.last, y.last + 1]).any fun t => decide (524288 < (mine.map fun f => transitHeld cs f.flow c.member f.frame t).sum)

/-- SLOTS (13 R400, R401). -/
def slotChecks (s : State) (bs : List Byte) (k : Nat) (b : List Byte) : List (Bool × Reject) :=
  let kind := pfld b 0 1
  let rej := rejRec 0xE 0 k
  let mems := (slotRecs bs 0).map memberRecOf
  let n := pfld bs 0x14 2
  let has (v r : Nat) : Bool := (variantIn bs v).rings.any fun x => x.ring == r
  let ringOk (m r : Nat) : Bool := myMember s bs != some m || (has 1 r && (!imgV15 bs || has 2 r))
  let rsv := if kind = 0 then pfld b 1 1 != 0 || pfld b 6 18 != 0 else if kind = 1 then decide (1 < pfld b 1 1) || pfld b 0xE 2 != 0 else pfld b 0x12 6 != 0
  let bad := if kind = 0 then
      (let m := memberRecOf b
       decide (n ≤ m.member) || decide (8192 ≤ m.addr) || (mems.filter fun x => x.member == m.member).length != 1 ||
         (mems.filter fun x => x.addr == m.addr).length != 1 || mems.length != n || (myMember s bs).isNone)
    else if kind = 1 then
      (let f := flowRecOf b
       !(mems.any fun x => x.member == f.srcMember) || !(mems.any fun x => x.member == f.dstMember) || !inRange 64 4096 f.frame || f.frame % 64 != 0 ||
         !ringOk f.srcMember f.srcRing || (!f.window && !ringOk f.dstMember f.dstRing) || (f.window && (decide (2 ^ 40 ≤ f.dstBase) || f.dstBase % 64 != 0)) ||
         (f.window && pfld b 0xA 2 != 0) || (!f.window && f.dstBase != 0))
    else
      (let c := claimRecOf b
       !(mems.any fun x => x.member == c.member) || !(slotRecs bs 1).any (fun x => pfld x 2 2 == c.flow) || decide (c.last < c.first) ||
         !inRange 1 60 c.count || (myMember s bs == some c.member && (!claimOk s bs k c || transitBad bs c)))
  [(decide (2 < kind) || rsv, rej 0x0401), (bad, rej 0x0433)]

/-- The table breaks the limits of 07 R213. -/
def tableBad (b : List Byte) : Bool :=
  let lo := fp32 (pfld b 0 4)
  let we := signedOf 8 (pfld b 4 1)
  let top := vAdd lo (.fin false 256 we)
  !vIsFin lo || decide (we < -24) || decide (24 < we) || pfld b 5 11 != 0 || vCmp (rtzFp32 top) top != 0 || !vIsFin (rtzFp32 top) ||
    (List.range 512).any fun k => !vIsFin (fp32 (pfld b (16 + 4 * k) 4))

/-- TABLES (09 R275, 07 R212, R213). -/
def tableChecks (bs : List Byte) (v k : Nat) (b : List Byte) : List (Bool × Reject) :=
  let x := tableRecOf b
  let V := variantIn bs v
  [(pfld b 3 1 != 0 || pfld b 6 2 != 0 || decide (3 < x.slot), rejRec 0xF v k 0x0401),
   (!(V.rooms.any fun r => r.room == x.room) || (match bufIn V x.buffer with
      | some y => y.kind != 6 || tableBad (bufData bs y)
      | none => true), rejRec 0xF v k 0x041C)]

/-- The slot is present: it serves as something. -/
def annexPresent (P : Params) (slot : Nat) : Bool := (annexDeclOf P slot).testBit 96 || (annexDeclOf P slot).testBit 97

/-- ANNEXES (09 R284, 12 R352). -/
def annexChecks (s : State) (k : Nat) (b : List Byte) : List (Bool × Reject) :=
  let x := annexRecOf b
  let d := annexDeclOf s.params x.slot
  [(pfld b 1 3 != 0, rejRec 0x10 0 k 0x0401),
   (!annexPresent s.params x.slot || decide (x.latency < d % 2 ^ 32) || decide (d / 2 ^ 32 % 2 ^ 32 < x.rate) || decide (d / 2 ^ 64 % 2 ^ 32 < x.fmin),
      rejRec 0x10 0 k 0x0434)]

/-- The checks of one record. -/
def recChecks (s : State) (c : Nat) (bs : List Byte) (t v k : Nat) (b : List Byte) : List (Bool × Reject) :=
  match t with
  | 0x01 => roomChecks s bs v k b
  | 0x02 => bufChecks s c bs v k b
  | 0x03 => bindChecks bs v k b
  | 0x04 => deckleChecks s bs k b
  | 0x05 => sweepChecks s bs v k b
  | 0x06 => reamChecks bs k b
  | 0x07 => ringChecks s bs v k b
  | 0x08 => pipeChecks s bs v k b
  | 0x09 => chainChecks bs v k b
  | 0x0A => qpointChecks s bs v k b
  | 0x0B => syncChecks v k b
  | 0x0C => trafficChecks s bs v k b
  | 0x0D => windowChecks s c bs k b
  | 0x0E => slotChecks s bs k b
  | 0x0F => tableChecks bs v k b
  | 0x10 => annexChecks s k b
  | _ => []

/-- A rejected record that names a room, or a room and an op, reports them (09 R275, R288). -/
def atPlace (t : Nat) (b : List Byte) (r : Reject) : Reject :=
  match t with
  | 0x01 => { r with room := pfld b 0 2 }
  | 0x03 => { r with room := pfld b 0 2, op := pfld b 2 2 }
  | 0x09 => { r with room := pfld b 4 2 }
  | 0x0A => { r with room := pfld b 4 2, op := pfld b 6 2 }
  | 0x0B => { r with room := pfld b 2 2 }
  | 0x0F => { r with room := pfld b 0 2 }
  | _ => r

/-- A record of the 15-room variant names room 15 of a hall (09 R285). -/
def namesRoom15 (t v : Nat) (b : List Byte) : Bool :=
  v == 2 && (match t with
    | 0x02 => (saLevel (pfld b 8 8) == 1 || saLevel (pfld b 8 8) == 2) && saRoom (pfld b 8 8) == 15
    | 0x03 | 0x0F => pfld b 0 2 % 16 == 15
    | 0x08 => (!namesPort (pfld b 4 2) && pfld b 4 2 % 16 == 15) || (!namesPort (pfld b 6 2) && pfld b 6 2 % 16 == 15)
    | 0x09 | 0x0A => pfld b 4 2 % 16 == 15
    | 0x0B => pfld b 2 2 % 16 == 15
    | 0x0C => pfld b 1 1 == 15
    | _ => false)

/-- The checks of a record, VARIANT_MISMATCH after those of IMAGE_FORMAT and before the others, in ascending code (09 R288). -/
def allChecks (s : State) (c : Nat) (bs : List Byte) (t v k : Nat) (b : List Byte) : List (Bool × Reject) :=
  let l := recChecks s c bs t v k b
  l.filter (fun x => x.2.code == 0x0401) ++ (namesRoom15 t v b, rejRec t v k 0x0405) :: l.filter (fun x => x.2.code != 0x0401)

/-- The first failing check of the records of a section, in index order. -/
def firstRec (s : State) (c : Nat) (bs : List Byte) (t v : Nat) : Nat → List (List Byte) → Option Reject
  | _, [] => none
  | k, b :: rs =>
    match firstBad (allChecks s c bs t v k b) with
    | some r => some (atPlace t b r)
    | none => firstRec s c bs t v (k + 1) rs

/-- The first failing check of a list of sections. -/
def firstSect (s : State) (c : Nat) (bs : List Byte) : List (Nat × Nat) → Option Reject
  | [] => none
  | (t, v) :: xs =>
    match firstRec s c bs t v 0 (recsOf bs t v) with
    | some r => some r
    | none => firstSect s c bs xs

/-- The sections in the order of R288, short of DATA. -/
def sectOrder : List (Nat × Nat) := (List.range 16).flatMap fun t => [(t + 1, 0), (t + 1, 1), (t + 1, 2)]

/-- The first failing check of the directory. -/
def firstDir (bs : List Byte) (len : Nat) : Nat → List Sect → Option Reject
  | _, [] => none
  | k, x :: xs =>
    match firstBad (dirChecks bs len k x) with
    | some r => some r
    | none => firstDir bs len (k + 1) xs

end Sys2Proof.Machine
end

