-- ==== Sys2Proof/Machine/LoadOps.lean ====
section
/-!
DEFINITION. The loader's checks of the ops (09_sweeps_and_mapping R280, R281, R577, R283, R288, R291; 06 R162 to R191; 07 R201 to R213; 05 R127 to
R143): reserved encodings, field rules, the reach of every address field in its buffer, and the rules between ops.
-/
namespace Sys2Proof.Machine

/-! Reserved encodings (06 R165 to R187). -/

/-- The bit ranges above AFTER and below the scalar slot that an opcode defines, by its mode field where that matters. -/
def definedBits (w : OpWord) : List (Nat × Nat) :=
  match opcOf w with
  | 0x01 | 0x02 | 0x03 => [(29, 20), (223, 32)]
  | 0x04 => [(26, 20), (51, 28)]
  | 0x05 => [(23, 20)]
  | 0x06 => [(27, 20), (220, 32)]
  | 0x07 => [(26, 20), (162, 32)]
  | 0x08 => [(175, 20)]
  | 0x09 =>
    if fld w 23 20 ≤ 1 then [(23, 20), (31, 28), (83, 36), (155, 116), (207, 196)]
    else if fld w 23 20 ≤ 3 then [(31, 20), (195, 36)]
    else [(32, 20), (83, 36), (195, 116)]
  | 0x0A =>
    if fld w 23 20 = 0 then [(23, 20), (95, 28), (195, 116)]
    else if fld w 23 20 = 1 then [(24, 20), (107, 28), (195, 116)]
    else [(24, 20), (95, 28), (195, 116)]
  | 0x0B => [(137, 20), (158, 144)]
  | 0x0C => [(23, 20), (105, 24)]
  | 0x0D => [(88, 20)]
  | 0x0E => [(25, 20), (63, 32)]
  | 0x0F => [(51, 20)]
  | 0x10 => [(25, 20), (47, 32)]
  | 0x11 => [(29, 20), (35, 32), (175, 48)]
  | 0x12 => [(23, 20), (47, 32)]
  | 0x13 => [(31, 20)]
  | _ => []

/-- The bits of a word outside the ranges, within [hi:lo], are zero. -/
def zeroOutside (w : OpWord) (lo hi : Nat) (rs : List (Nat × Nat)) : Bool :=
  (List.range (hi + 1 - lo)).all fun i => !w.getLsbD (lo + i) || rs.any fun r => decide (r.2 ≤ lo + i) && decide (lo + i ≤ r.1)

/-- A format code is reserved. -/
def fmtRes (w : OpWord) (hi lo : Nat) : Bool := (fmtOfCode (fld w hi lo)).isNone

/-- A gang code is reserved. -/
def gangRes (g : Nat) : Bool := decide (10 < g)

/-- The scalar slot holds a reserved encoding (06 R170). -/
def slotRes (w : OpWord) : Bool :=
  let c := fld w 227 224
  decide (11 < c) || ([2, 3, 9].contains c && fld w 255 240 != 0)

/-- OP_RESERVED (09 R291). -/
def opReserved (w : OpWord) : Bool :=
  let o := opcOf w
  o == 0 || decide (0x14 < o) || w.getLsbD 19 || slotRes w || !zeroOutside w 20 223 (definedBits w) ||
    (match o with
      | 0x01 | 0x02 | 0x03 => gangRes (fld w 23 20) || fld w 25 24 == 3 || fld w 27 26 == 3 || fmtRes w 35 32 || fmtRes w 39 36
      | 0x04 => gangRes (fld w 23 20) || fmtRes w 31 28
      | 0x05 => gangRes (fld w 23 20)
      | 0x06 => decide (1 < fld w 25 24) || fmtRes w 35 32 || fmtRes w 39 36
      | 0x07 => gangRes (fld w 23 20) || fmtRes w 35 32 || fmtRes w 39 36 ||
          (List.range 4).any fun k => let f := ewaFields w
            (decide (k < f.nops) && decide (7 < f.ops / 2 ^ (4 * k) % 16)) || (decide (f.nops ≤ k) && f.ops / 2 ^ (4 * k) % 16 != 0) ||
            ((decide (f.nops ≤ k) || (k == 0 && !f.bsrc)) && f.opb / 2 ^ (4 * k) % 16 != 0)
      | 0x08 => fmtRes w 31 28 || fmtRes w 35 32 || decide (5 < fld w 27 20) || fld w 175 174 == 3
      | 0x09 => decide (4 < fld w 23 20) || fmtRes w 31 28
      | 0x0A => decide (2 < fld w 23 20) || fmtRes w 31 28 || fmtRes w 35 32
      | 0x0B => decide (7 < fld w 23 20) || fmtRes w 27 24
      | 0x0C => decide (1 < fld w 23 20)
      | 0x0D => decide (1 < fld w 23 20) || fmtRes w 27 24 || gangRes (fld w 31 28)
      | 0x0F => decide (3 < fld w 23 20)
      | 0x10 => gangRes (fld w 23 20) && fld w 23 20 != 0xF
      | _ => false)

/-! Bindings and spans (09 R280, R281, R577). -/

/-- BINDING (09 R280): exactly one binding for each bound field and no other, and no DELTA for shelf lines. -/
def bindingBad (bs : List BindRec) (us : List FieldUse) : Bool :=
  us.any (fun u => u.bound && (bs.filter fun b => b.field == u.idx).length != 1) || bs.any (fun b => !us.any fun u => u.bound && u.idx == b.field) ||
    us.any fun u => u.line && bs.any fun b => b.field == u.idx && b.delta != 0

/-- SPAN (09 R281): the reach of a bound field lies in its buffer and the buffer permits it. -/
def spanBad (V : Variant) (bs : List BindRec) (u : FieldUse) : Bool :=
  match bs.find? (fun b => b.field == u.idx) with
  | none => false
  | some b =>
    match bufIn V b.buffer with
    | none => true
    | some y =>
      (u.rd && !y.read) || (u.wr && !y.write) || (u.big && y.narrow) ||
        (if u.line then
          (List.range (min 1024 (u.hi - u.lo + 1).toNat)).any fun i =>
            let l := ((u.lo + (i : Int)) % 1024).toNat
            decide (l < y.base % 131072 / 128) || decide ((y.base + y.size - 1) % 131072 / 128 < l)
        else decide (b.delta + u.lo < 0) || decide ((y.size : Int) ≤ b.delta + u.hi))

/-- The drained output of a producer's op (06 R176, R180, R183; 07 R204): the offset of its first row from the output field's address, its tiles or passes with
their advance, the rows of one with their distance, all in bytes, and the elements of a row. -/
structure OutShape where
  off    : Nat
  tiles  : Nat
  stride : Int
  rows   : Nat
  pitch  : Int
  width  : Nat

/-- The output of the op, none where it writes none through the sizer's path. -/
def outShape (c : OpCtx) : Option OutShape :=
  let f := matFields c.w
  match opcOf c.w with
  | 1 | 2 =>
    some (if f.stat = 2 then ⟨64 * f.oOff, f.iter, f.oStride * 64, gangRows f.gang, (64 * f.oPitch : Nat), gangCols f.gang⟩
      else ⟨64 * f.oOff, f.q, f.oStride * 64, f.steps, (64 * f.oPitch : Nat), outSpan f.gang (opcOf c.w == 2) (isPaired f.fmtS f.fmtT)⟩)
  | 3 =>
    let p := pairFields c.w2
    some ⟨64 * f.oOff, p.qb, f.oStride * 64, f.steps, (64 * f.oPitch : Nat), outSpan p.gangB p.transB false⟩
  | 6 =>
    let h := chuteFields c.w
    if h.wide then none else some ⟨64 * h.oOff, h.iter, h.oStride * 64, h.batch, (rowLines (outBits c h.opt) h.n : Nat), h.n⟩
  | 0x0A =>
    let d := directFields c.w
    some ⟨64 * d.oOff, 1, 0, d.rows, d.oPitch * 64, d.len⟩
  | _ => none

/-- The wide line that mirrors an element of the output leaves a buffer of `size` bytes: `row` and `j` of tile `t`, elements of `bits` bits, the output field's
address `delta` bytes from B (04 R575). -/
def wideLineOut (o : OutShape) (delta : Int) (bits size t row j : Nat) : Bool :=
  let bit : Int := (delta + (o.off : Nat) + (t : Int) * o.stride + (row : Int) * o.pitch) * 8 + ((j * bits : Nat) : Int)
  let a : Int := (bit / 512 * 256 + 2 * (bit % 512 / (bits : Int))) / 64 * 64
  decide (a < 0) || decide ((size : Int) < a + 64)

/-- The reach of a producer's wide writes in its wide buffer (04 R575): for each listed channel of each tile, its elements in the tile's outermost rows; in
input-stationary use the channel is a row of its own, and its outermost elements count. -/
def wideSpanBad (c : OpCtx) : Bool :=
  c.V.qpoints.any fun q => q.room == c.r.room && q.op == c.n && q.role == 0 && q.wide != 0xFFFF &&
    (match outShape c, bufIn c.V q.wide with
      | some o, some y =>
        let byRow := (opcOf c.w == 1 || opcOf c.w == 2) && (matFields c.w).stat == 1
        let field := if opcOf c.w = 1 ∨ opcOf c.w = 2 ∨ opcOf c.w = 3 then 2 else 1
        let delta := match (bindsOf c c.n).find? (fun b => b.field == field) with
          | some b => b.delta
          | none => 0
        let blk := blockOfPoint c.bs c.V q.point
        !y.write || (List.range o.tiles).any fun t => (blkList blk).any fun n =>
          let first := q.chBase + t * q.chQstep
          decide (first ≤ n) && decide (n < first + (if byRow then o.rows else o.width)) &&
            (if byRow then [(n - first, 0), (n - first, o.width - 1)] else [(0, n - first), (o.rows - 1, n - first)]).any fun e =>
              wideLineOut o delta (outBits c q.point) y.size t e.1 e.2
      | none, _ => false
      | _, none => true)

/-! OP_FIELD (09 R291). -/

/-- The fields of a matrix op break a rule (06 R173 to R177, 04 R99). A pair has rules of its own for ITER, SEED and STAT (07 R202, R210; log 71). -/
def matFieldBad (w : OpWord) : Bool :=
  let f := matFields w
  let pair := opcOf w == 3
  let os := f.stat == 2 && !pair
  f.iter == 0 || (!pair && f.iter % f.q != 0) || f.oPitch == 0 || (!os && !f.loadb && (f.tReg != 0 || f.tOff != 0 || f.tStride != 0)) ||
    (!pair && f.seed == 1 && (f.opt != 0xFFF || (intPair f.fmtS f.fmtT && (f.resc || f.ipt != 0xFFF)))) || (!pair && f.seed == 2 && !(os && f.iter == 1)) ||
    (os && (f.q != 1 || f.aStride != 0 || f.loadb || f.tReg != 0 || decide (1023 < f.tOff) ||
      !(List.range 9).all fun i => w.getLsbD (165 + i) == w.getLsbD 164))

/-- A row of the output is wider than O_PITCH allows (06 R176). -/
def rowTooWide (c : OpCtx) : Bool :=
  let f := matFields c.w
  let n := if opcOf c.w = 3 then outSpan (pairFields c.w2).gangB (pairFields c.w2).transB false
    else if f.stat = 2 then gangCols f.gang else outSpan f.gang (opcOf c.w == 2) (isPaired f.fmtS f.fmtT)
  decide (512 * f.oPitch < n * outBits c f.opt)

/-- TARGETj of a `bkt` is not zero at or beyond the ream's bucket count (06 R190). -/
def bktBad (bs : List Byte) (w : OpWord) : Bool :=
  let n := match (reamsIn bs).find? (fun r => r.ream == fld w 29 24) with
    | some r => r.sizes.length
    | none => 8
  (List.range 8).any fun j => decide (n ≤ j) && w.toNat / 2 ^ (48 + 16 * j) % 65536 != 0

/-- OP_FIELD of an op. -/
def opFieldBad (c : OpCtx) : Bool :=
  let w := c.w
  (opUses c ++ (if opcOf w = 3 then pairUses c else [])).any (fun u => !u.bound && !u.zero) ||
    (match opcOf w with
      | 0x01 | 0x02 | 0x03 => matFieldBad w || rowTooWide c
      | 0x04 => let f := ldsFields w; f.half && fmtBits f.fmt != 4
      | 0x06 => let f := chuteFields w
        f.k == 0 || f.iter == 0 || decide (4096 < f.n * f.batch) || (f.tiled && f.wPitch != 0) ||
          (f.seed == 1 && (f.opt != 0xFFF || (intPair f.fmtV f.fmtW && (f.resc || f.ipt != 0xFFF))))
      | 0x07 => (ewaFields w).iter == 0
      | 0x08 => let f := rowfFields w; f.len == 0 || f.rows == 0
      | 0x09 => let f := directFields w; f.rows == 0 || (decide (f.mode ≤ 1) && f.pt == 0xFFF)
      | 0x0A => let f := directFields w
        f.rows == 0 || (f.mode == 2 && f.fmtO != .fp32) ||
          (f.mode == 1 && f.opt != 0xFFF && fmtOfCode (pfld (blockOfPoint c.bs c.V f.opt) 0xA 1) != some f.fmtO)
      | 0x0B => let f := moveFields w
        f.rows == 0 || f.rb == 0 || (f.mode == 1 && f.dReg != 0) || (f.mode == 3 && decide (8192 < f.dOff + 32 * f.rb * f.rows))
      | 0x0C => let f := haloFields w; f.rows == 0 || f.rb == 0
      | 0x0D => let f := relayFields w; f.tiles == 0 || (f.half && fmtBits f.fmt != 4)
      | 0x0E => fld w 63 32 == 0
      | 0x10 => fld w 47 32 == 0
      | 0x11 => bktBad c.bs w
      | 0x12 => fld w 47 32 == 0
      | 0x13 => !c.V.rooms.any fun r => r.room == fld w 31 24
      | _ => false)

/-! OP_FORMAT, OP_ORIENT, OP_SEQUENCE, SYNC_TARGET. -/

/-- A float is paired with an integer, or a format is no operand (03 R65, R72). -/
def pairBad (a b : Fmt) : Bool := !fmtIsOperand a || !fmtIsOperand b || fmtIsInt a != fmtIsInt b

/-- A zero point applies to a float operand (03 R74). -/
def zeroBad (c : OpCtx) (ipt : Nat) (f : Fmt) : Bool := ipt != 0xFFF && !fmtIsInt f && blkZero (blockOfPoint c.bs c.V ipt) != 0

/-- The seeds that an output-stationary op with SEED 0x2 meets in some mould of its gang on some bucket path, those of the `lds` before the latest `flip`, have not the op's
accumulator format (03 R83, 06 R177; log 97). -/
def seedFormatBad (c : OpCtx) : Bool :=
  let f := matFields c.w
  let want := if intPair f.fmtS f.fmtT then Fmt.int32 else Fmt.fp32
  opcOf c.w == 1 && f.stat == 2 && f.seed == 2 && (gangLoads (reamsIn c.bs) c.ops c.r.entry f.gang c.n).any fun x => (ldsFields x.2.2).seeds && (ldsFields x.2.2).fmt != want

/-- OP_FORMAT of an op. -/
def opFormatBad (c : OpCtx) : Bool :=
  let w := c.w
  match opcOf w with
  | 0x01 | 0x02 | 0x03 =>
    let f := matFields w
    pairBad f.fmtS f.fmtT || zeroBad c f.ipt (if f.stat = 1 then f.fmtT else f.fmtS) ||
      seedFormatBad c || (opcOf w == 3 && ((!fmtRes c.w2 31 28 && !fmtRes c.w2 35 32 && pairBad (pairFields c.w2).fmtC (pairFields c.w2).fmtB) ||
        ((pairFields c.w2).tpt != 0xFFF && blkZero (blockOfPoint c.bs c.V (pairFields c.w2).tpt) != 0)))
  | 0x04 => let f := ldsFields w; if f.seeds then f.fmt != .fp32 && f.fmt != .int32 else !fmtIsOperand f.fmt
  | 0x06 => let f := chuteFields w; pairBad f.fmtV f.fmtW || zeroBad c f.ipt f.fmtV
  | 0x07 => let f := ewaFields w; !fmtIsOperand f.fmtA || f.fmtO == .sw16
  | 0x08 => let f := rowfFields w; f.fmtI == .sw16 || f.fmtO == .sw16
  | 0x09 => let f := directFields w; f.fmtI == .sw16 || (f.mode == 4 && f.fmtI != .fp32 && f.fmtI != .int32)
  | 0x0A => let f := directFields w; f.fmtI == .sw16 || f.fmtO == .sw16 || (f.mode == 0 && zeroBad c f.ipt f.fmtI)
  | 0x0B => let f := moveFields w; (f.mode == 1 && !fmtIsOperand f.fmt) || (f.mode == 2 && (f.fmt == .sw16 || decide (fmtBits f.fmt < 8)))
  | 0x0D => !fmtIsOperand (relayFields w).fmt
  | _ => false

/-- An `lds` of seeds is not ordered after every output-stationary op and `flip` before it on its moulds (05 R136): of each such op, some op between the two carries the bits
of the moulds that they share in AFTER. -/
def seedsUnordered (ops : List OpWord) (n : Nat) (w : OpWord) : Bool :=
  let before := realOps (ops.take n)
  before.any fun k =>
    let need := mouldMask (fld k.2 23 20) &&& mouldMask (ldsFields w).gang
    ((opcOf k.2 == 1 && fld k.2 25 24 == 2) || opcOf k.2 == 5) && need != 0 && !before.any fun x => decide (k.1 < x.1) && fld x.2 19 8 &&& need == need

/-- The `sync` targets of a group on a path, in order. -/
def groupTargets (g : Nat) (ws : List OpWord) : List Nat := ws.filterMap fun w => if opcOf w = 0x0E ∧ fld w 25 20 = g then some (fld w 63 32) else none

/-- The rooms of a sync group meet different sequences, or the room is not of the group (06 R188). -/
def syncSeqBad (c : OpCtx) : Bool :=
  let g := fld c.w 25 20
  let rooms := (c.V.syncs.filter fun x => x.group == g).map (·.room)
  !rooms.contains c.r.room || (bucketChoices (reamsIn c.bs)).any fun ch =>
    rooms.any fun r => groupTargets g (roomPath c.bs c.V ch r) != groupTargets g (roomPath c.bs c.V ch c.r.room)

/-- OP_SEQUENCE of an op. -/
def opSequenceBad (c : OpCtx) : Bool :=
  (c.n == c.r.entry && (bucketChoices (reamsIn c.bs)).any fun ch => !(pathOf c.ops c.r.entry ch).2) ||
  match opcOf c.w with
  | 0x04 => (ldsFields c.w).seeds && seedsUnordered c.ops c.n c.w
  | 0x0E => syncSeqBad c
  | 0x11 =>
    let used := match (reamsIn c.bs).find? (fun r => r.ream == fld c.w 29 24) with
      | some r => r.sizes.length
      | none => 0
    (List.range used).any (fun j => (secondSlots 0 false c.ops).contains (c.w.toNat / 2 ^ (48 + 16 * j) % 65536)) ||
      (bucketChoices (reamsIn c.bs)).any fun ch =>
        let p := pathOf c.ops c.r.entry ch
        p.1.contains c.n && !p.2
  | _ => false

/-- The targets of a group on a path do not rise strictly, or the variant's certified count is not above the target (09 R291). -/
def syncTargetBad (c : OpCtx) : Bool :=
  opcOf c.w == 0x0E && (decide (pfld c.bs (if c.v = 2 then 0x20 else 0x18) 4 ≤ fld c.w 63 32) || (bucketChoices (reamsIn c.bs)).any fun ch =>
    let p := (pathOf c.ops c.r.entry ch).1
    let before := (p.takeWhile (· ≠ c.n)).filterMap fun n => c.ops[n]?
    p.contains c.n && (groupTargets (fld c.w 25 20) before).any fun t => decide (fld c.w 63 32 ≤ t))

/-! The codes of a pair (07 R210). -/

/-- PAIR_SHAPE. A reserved encoding of the second slot has no shape or span of its own: it is PAIR_FIELD's. -/
def pairShapeBad (c : OpCtx) : Bool :=
  let f := matFields c.w
  let p := pairFields c.w2
  let ms := mouldMask f.gang
  let mb := mouldMask p.gangB
  let mt := if p.twin = 15 then 0 else mouldMask p.twin
  let twinOk := gangRes p.twin || gangShape p.twin == gangShape f.gang
  let spanOk := gangRes p.gangB || fld c.w2 61 60 == 3 || redSpan p.gangB p.transB == p.ratio * outSpan f.gang p.transA false
  (ms &&& mb) != 0 || (ms &&& mt) != 0 || (mb &&& mt) != 0 || !twinOk || !spanOk || f.stat != 0 ||
    [f.fmtS, f.fmtT, p.fmtC, p.fmtB].any fun x => fmtBits x == 4

/-- PAIR_FIELD. -/
def pairFieldBad (c : OpCtx) : Bool :=
  let f := matFields c.w
  let w2 := c.w2
  f.seed != 0 || fld w2 19 0 != 0 || fld w2 255 224 != 0 || gangRes (fld w2 23 20) || (gangRes (fld w2 39 36) && fld w2 39 36 != 15) || fmtRes w2 31 28 || fmtRes w2 35 32 ||
    decide (5 < fld w2 47 40) || fld w2 59 58 == 3 || fld w2 61 60 == 3 || fld w2 63 62 == 3 || f.iter % f.q != 0 || f.q % (pairFields w2).ratio != 0 || decide (4096 < f.steps)

/-- PAIR_CAPACITY. -/
def pairCapacityBad (c : OpCtx) : Bool :=
  let f := matFields c.w
  let p := pairFields c.w2
  let oB := outSpan p.gangB p.transB false
  decide (8 * 32768 < f.steps * p.ratio * outSpan f.gang p.transA false * fmtBits p.fmtC) || decide (8192 * (gangMoulds p.gangB).length < f.steps * p.qb * oB) ||
    decide (2048 < p.qb * oB)

/-- PAIR_FUNC. -/
def pairFuncBad (w2 : OpWord) : Bool :=
  let fn := fld w2 47 40
  let p := pairFields w2
  ((fn == 3 || fn == 5) != (p.twin != 15)) || (fn == 1 && (fmtIsInt p.fmtC || fmtIsInt p.fmtB))

/-- The TABLE field does not fit the function (07 R210, R212): an empty slot, an annex slot that does not serve as a row function, or a table where none belongs. -/
def pressTableBad (c : OpCtx) (fn table : Nat) : Bool :=
  let kind := table / 2 ^ 10
  match fn with
  | 0 | 1 => table != 0
  | 2 | 3 => !(kind == 1 && decide (table % 1024 < 4) && c.V.tables.any fun t => t.room == c.r.room && t.slot == table % 4)
  | 4 | 5 => !(kind == 2 && decide (table % 1024 < 8) && (annexDeclOf c.s.params (table % 8)).testBit 96)
  | _ => false

/-! The remaining codes. -/

/-- SEED_CAPACITY (05 R143): the seeds in a gang's loop. -/
def seedCapacityBad (w w2 : OpWord) : Bool :=
  let f := matFields w
  let trans := if opcOf w = 3 then (pairFields w2).transA else opcOf w == 2
  (opcOf w == 1 || opcOf w == 2 || opcOf w == 3) && f.stat != 2 && decide (f.q < f.iter) &&
    decide (8192 * (gangMoulds f.gang).length < f.q * f.steps * outSpan f.gang trans (isPaired f.fmtS f.fmtT))

/-- The halo ops of a room in list order with a peer, a tag and a direction, as rows and bytes per row. -/
def haloList (ops : List OpWord) (recv : Bool) (peer tag : Nat) : List (Nat × Nat) :=
  let seconds := secondSlots 0 false ops
  (List.range ops.length).filterMap fun n => match ops[n]? with
    | some w =>
      let f := haloFields w
      if opcOf w = 0x0C ∧ seconds.contains n = false ∧ f.recv = recv ∧ f.peer = peer ∧ f.tag = tag then some (f.rows, f.rb) else none
    | none => none

/-- HALO_UNPAIRED (06 R185): the sends and receives between two rooms do not match by peer and tag in list order. -/
def haloBad (c : OpCtx) : Bool :=
  let f := haloFields c.w
  opcOf c.w == 0x0C && (match c.V.rooms.find? (fun r => r.room == f.peer) with
    | some r => haloList c.ops f.recv f.peer f.tag != haloList (opsIn c.bs c.V r) (!f.recv) c.r.room f.tag
    | none => true)

/-- The points that an op's fields name. -/
def opPoints (c : OpCtx) : List Nat :=
  let w := c.w
  (match opcOf w with
    | 0x01 | 0x02 => [(matFields w).ipt, (matFields w).opt]
    | 0x03 => [(matFields w).ipt, (matFields w).opt, (pairFields c.w2).tpt]
    | 0x06 => [(chuteFields w).ipt, (chuteFields w).opt]
    | 0x09 => if (directFields w).mode ≤ 1 then [(directFields w).pt] else []
    | 0x0A => (directFields w).ipt :: (if (directFields w).mode = 1 then [(directFields w).opt] else [])
    | _ => []).filter (· ≠ 0xFFF)

/-- The point that an op produces. -/
def opOut (w : OpWord) : Nat :=
  match opcOf w with
  | 0x01 | 0x02 | 0x03 => (matFields w).opt
  | 0x06 => (chuteFields w).opt
  | 0x0A => if (directFields w).mode = 1 then (directFields w).opt else 0xFFF
  | _ => 0xFFF

/-- GRAIN and CHANNELS of a point. -/
def pointGrain (c : OpCtx) (p : Nat) : Nat := pfld (blockOfPoint c.bs c.V p) 6 1

/-- QPOINT_DECL of an op (04 R89, R96, R574; 06 R183). -/
def qpointOpBad (c : OpCtx) : Bool :=
  let f := directFields c.w
  let chans (p : Nat) : Nat := pfld (blockOfPoint c.bs c.V p) 0xC 2
  (opPoints c).any (fun p => !c.V.qpoints.any fun q => q.point == p) ||
    (opOut c.w != 0xFFF && !c.V.qpoints.any fun q => q.point == opOut c.w && q.room == c.r.room && q.op == c.n && q.role == 0) ||
    (opcOf c.w == 9 && decide (f.mode ≤ 1) && (pointGrain c f.pt != f.mode || (f.mode == 1 && decide (chans f.pt < f.len)))) ||
    (opcOf c.w == 0x0A && ((f.mode == 0 && f.ipt != 0xFFF && pointGrain c f.ipt == 1 && decide (chans f.ipt < f.len)) ||
      (f.mode == 1 && f.opt != 0xFFF && pointGrain c f.opt == 1 && decide (chans f.opt < f.len)))) ||
    (opcOf c.w == 3 && (pairFields c.w2).tpt != 0xFFF && pointGrain c (pairFields c.w2).tpt == 1)

/-- The rejection of this op with a code. -/
def rejOp (c : OpCtx) (code : Nat) : Reject := ⟨code, 1, c.v, (c.V.rooms.takeWhile fun r => r.room != c.r.room).length, c.r.room, c.n⟩

/-- The checks of one op, in the order of R288. -/
def opChecks (c : OpCtx) : List (Bool × Reject) :=
  let w := c.w
  let pair := opcOf w == 3
  let us := opUses c
  let us2 := if pair then pairUses c else []
  [(opReserved w, rejOp c 0x0410), (opFieldBad c, rejOp c 0x0411), (opFormatBad c, rejOp c 0x0412),
   (opcOf w == 2 && fld w 25 24 == 2, rejOp c 0x0413), (opSequenceBad c, rejOp c 0x0414), (syncTargetBad c, rejOp c 0x0430),
   (pair && pairShapeBad c, rejOp c 0x0417), (pair && pairFieldBad c, rejOp c 0x0418), (pair && pairCapacityBad c, rejOp c 0x0419),
   (pair && pairFuncBad c.w2, rejOp c 0x041A),
   (pair && (matFields w).ipt != 0xFFF && !(blkList (blockOfPoint c.bs c.V (matFields w).ipt)).isEmpty, rejOp c 0x041B),
   (pair && pressTableBad c (fld c.w2 47 40) (fld c.w2 59 48), rejOp c 0x041C),
   (bindingBad (bindsOf c c.n) us || (pair && bindingBad (bindsOf c (c.n + 1)) us2), rejOp c 0x0425),
   (us.any (spanBad c.V (bindsOf c c.n)) || us2.any (spanBad c.V (bindsOf c (c.n + 1))) || wideSpanBad c, rejOp c 0x0426),
   (seedCapacityBad w c.w2, rejOp c 0x0415), (haloBad c, rejOp c 0x0416),
   (opcOf w == 8 && (fld w 27 20 == 3 || fld w 27 20 == 5), rejOp c 0x041A), (opcOf w == 8 && pressTableBad c (fld w 27 20) (fld w 175 164), rejOp c 0x041C),
   (opcOf w == 0x11 && !(reamsIn c.bs).any fun r => r.ream == fld w 29 24, rejOp c 0x0429),
   (opcOf w == 0x0B && (fld w 23 20 == 5 || fld w 23 20 == 6) && !c.V.rings.any fun r => r.ring == fld w 153 144 && r.hall == c.r.room / 16, rejOp c 0x042A),
   (qpointOpBad c, rejOp c 0x042E)]

/-- The first failing check of a room's list from op `n`; a pair's second slot is no op of its own. -/
def firstOp (s : State) (bs : List Byte) (v : Nat) (V : Variant) (r : RoomRec) (ops : List OpWord) : Nat → Bool → List OpWord → Option Reject
  | _, _, [] => none
  | n, true, _ :: ws => firstOp s bs v V r ops (n + 1) false ws
  | n, false, w :: ws =>
    match firstBad (opChecks ⟨s, bs, v, V, r, ops, n, w, ws.headD 0⟩) with
    | some x => some x
    | none => firstOp s bs v V r ops (n + 1) (opcOf w == 3) ws

/-- The first failing check of the ops of a variant's rooms, by room record order. -/
def firstRoomOps (s : State) (bs : List Byte) (v : Nat) (V : Variant) : List RoomRec → Option Reject
  | [] => none
  | r :: rs =>
    match firstOp s bs v V r (opsIn bs V r) 0 false (opsIn bs V r) with
    | some x => some x
    | none => firstRoomOps s bs v V rs

/-- The first check that fails, in the order of R288: header, directory, sections, ops. -/
def loadReject (s : State) (c : Nat) (bs : List Byte) (len : Nat) : Option Reject :=
  match firstBad (headChecks s bs len) with
  | some r => some r
  | none =>
    match firstDir bs len 0 (sectsOf bs) with
    | some r => some r
    | none =>
      match firstSect s c bs sectOrder with
      | some r => some r
      | none =>
        match firstRoomOps s bs 1 (variantIn bs 1) (variantIn bs 1).rooms with
        | some r => some r
        | none => firstRoomOps s bs 2 (variantIn bs 2) (variantIn bs 2).rooms

end Sys2Proof.Machine
end

