-- ==== Sys2Proof/Machine/ImageOps.lean ====
section
/-!
DEFINITION. Loading and unloading of task images (09_sweeps_and_mapping R287 to R291, 10 R314, R315), rotated weight copies (04 R114, R115), and
the reset of quantisation state (04 R578).
-/
namespace Sys2Proof.Machine

/-! Rotated weight copies (04 R112 to R115, 08 R251). -/

/-- A read window of context 0 over a copy for the task's context (08 R251). -/
def openCopyWindow (ctx : Nat) (c : CopyRec) (s : State) : State × Nat :=
  match freeWindow s with
  | some k =>
    let x : Window := ⟨false, true, false, false, true, ctx, 0, c.scales + up64 (2 * c.nScales), c.base⟩
    (modStore (fun st => { st with windows := tabPut windowZero st.windows k x }) s, k)
  | none => (s, 65536)

/-- The source of a copy is read as every read is (08 R247): the state, and the bytes unless a line cannot be read, which counts, is logged and is held against its bank. -/
def copySource (c : CopyRec) (s : State) : State × Option (List Byte) :=
  let r := readLines s.store false (linesOf c.src c.size)
  if r.2.1 = 0 then (putStore r.1 s, some (memBytes r.1 c.src c.size)) else (blameBank r.2.1 r.2.2 (putStore r.1 s), none)

/-- Write one copy, built from its source's bytes, with its scales. Its granules are W-class and context 0's (log 51). -/
def writeCopy (x : ListAt × CopyJob) (c : CopyRec) (bs : List Byte) (s : State) : State :=
  let b := buildCopy (storedScale x.1 x.2) c.blockLog x.2.fmt x.2.units bs
  let scales := b.2.flatMap fun x => leBytes 2 x
  modStore (fun st =>
    giveGranules 0 2 (granulesOf c.base (c.scales + up64 (2 * c.nScales) - c.base))
      (writeWhole (writeWhole st c.base b.1) c.scales (scales ++ List.replicate (up64 (2 * c.nScales) - scales.length) 0))) s

/-- Build one copy, with its window: the state, and the copy. One whose source cannot be read is absent: the manual names no answer of a load for it (DESIGN CHOICE, log 102). -/
def buildOne (ctx : Nat) (x : ListAt × CopyJob) (c : CopyRec) (s : State) : State × CopyRec :=
  match copySource c s with
  | (a, none) => (a, { c with present := false, window := 65536 })
  | (a, some bs) =>
    let o := openCopyWindow ctx c (writeCopy x c bs a)
    (o.1, { c with window := o.2 })

/-- Build the copies of an image in turn: the state and the copies with their windows. -/
def buildCopies (ctx : Nat) : List (CopyRec × ListAt × CopyJob) → State → State × List CopyRec
  | [], s => (s, [])
  | x :: xs, s =>
    let o := buildOne ctx x.2 x.1 s
    let r := buildCopies ctx xs o.1
    (r.1, o.2 :: r.2)

/-- The jobs of an image in the order in which its copies are planned. -/
def imageJobs (bs : List Byte) : List (ListAt × CopyJob) :=
  let jobs (v : Nat) := (copyConsumers bs (variantIn bs v)).map fun x => (listAt bs (variantIn bs v) x.cons.room, x)
  jobs 1 ++ if imgV15 bs then jobs 2 else []

/-! Placement (09 R287). -/

/-- Give descriptors to rings: the lowest free ones of each hall. -/
def giveRings (s : State) : List RingRec → List RingRec → List RingRec
  | [], _ => []
  | r :: rs, taken =>
    let d := ((freeRings s r.hall).find? fun n => !taken.any fun t => t.hall == r.hall && t.desc == n).getD 1024
    let x : RingRec := { r with desc := d }
    x :: giveRings s rs (x :: taken)

/-- Write the ring descriptors of an image: OWNER, SIZE and BASE; VALID is set at launch (08 R243). -/
def placeRings (ctx : Nat) (V : Variant) : List RingRec → Store → Store
  | [], st => st
  | r :: rs, st =>
    placeRings ctx V rs (match bufIn V r.buffer with
      | some b => { st with rings := tabPut ringZero st.rings (1024 * r.hall + r.desc) ⟨0, 0, false, ctx, b.size / 512, b.base⟩ }
      | none => st)

/-- Put a number into the RING field of a word. -/
def withRing (w : OpWord) (d : Nat) : OpWord := BitVec.ofNat 256 (w.toNat - fld w 153 144 * 2 ^ 144 + d % 1024 * 2 ^ 144)

/-- Patch the ring ops of a list with their descriptor numbers (09 R283). -/
def patchOps (rings : List RingRec) : Bool → List OpWord → List OpWord
  | _, [] => []
  | true, w :: ws => w :: patchOps rings false ws
  | false, w :: ws =>
    (if opcOf w = 0x0B ∧ (fld w 23 20 = 5 ∨ fld w 23 20 = 6) then
      (match rings.find? (fun r => r.ring == fld w 153 144) with
        | some r => withRing w r.desc
        | none => w)
    else w) :: patchOps rings (opcOf w == 3) ws

/-- The bytes of words. -/
def opBytes (ws : List OpWord) : List Byte := ws.flatMap fun w => leBytes 32 w.toNat

/-- The bytes that placement writes into a buffer: DATA, with the op lists patched. -/
def placedBytes (bs : List Byte) (V : Variant) (b : BufRec) : List Byte :=
  let d := bufData bs b
  if b.kind = 7 then opBytes (patchOps V.rings false (wordsOf (d.length / 32) d)) else d

/-- Write every buffer that has DATA. -/
def placeBufs (bs : List Byte) (V : Variant) : List BufRec → Store → Store
  | [], st => st
  | b :: xs, st => placeBufs bs V xs (if b.data.isSome then writeWhole st b.base (placedBytes bs V b) else st)

/-- The free granules that the buffers occupy, with their class (09 R255, R279). -/
def claimsOf (s : State) (bufs : List BufRec) : List (Nat × Nat) :=
  ((bufs.flatMap fun b => (granulesOf b.base b.size).map fun g => (g, if b.wclass then 2 else 1)).eraseDups).filter fun e =>
    ownClass (tabGet s.store.ownReset s.store.own e.1) == 0

/-- Open one window of the image's claims, where a window is free: the state, and its number. -/
def openClaim (ctx : Nat) (b : List Byte) (s : State) : State × List Nat :=
  match freeWindow s with
  | some k =>
    let x : Window := { windowOfBits (leVal b) with opened := true, owner := ctx }
    (modStore (fun st => { st with windows := tabPut windowZero st.windows k x }) s, [k])
  | none => (s, [])

/-- Open the windows of the image's claims (09 R284): the state and the descriptors' numbers. -/
def openWindows (ctx : Nat) : List (List Byte) → State → State × List Nat
  | [], s => (s, [])
  | b :: xs, s =>
    let o := openClaim ctx b s
    let r := openWindows ctx xs o.1
    (r.1, o.2 ++ r.2)

/-- What the steward keeps of the state blocks for QSTATE_RESET (04 R90). -/
def initBlocks (bs : List Byte) (V : Variant) : List InitBlock :=
  (V.qpoints.map (·.point)).eraseDups.filterMap fun p =>
    match V.qpoints.find? (fun q => q.point == p) with
    | some q => (bufIn V q.state).map fun b => ⟨p, b.base, (bufData bs b).take (blkSize (bufData bs b))⟩
    | none => none

/-- The blocks of both variants: those of the first, and of the second the points that the first does not declare. -/
def allBlocks (bs : List Byte) (v1 v2 : Variant) : List InitBlock :=
  let a := initBlocks bs v1
  a ++ (initBlocks bs v2).filter fun b => !a.any fun x => x.point == b.point

/-- The load's placement: the state, and the image with its handle; a buffer of the retired room 15 stands nowhere (08 R222); `prior` are the granules that the load has claimed before. The rounds of an image start anew when it
is loaded (13 R406). -/
def placeImage (c : Nat) (bs : List Byte) (plan : List CopyRec) (prior : List Nat) (s : State) : State :=
  let rings1 := giveRings s (variantIn bs 1).rings []
  let rings2 := if imgV15 bs then giveRings s (variantIn bs 2).rings rings1 else []
  let v1 : Variant := { variantIn bs 1 with rings := rings1 }
  let v2 : Variant := if imgV15 bs then { variantIn bs 2 with rings := rings2 } else variantNone
  let here (b : BufRec) : Bool := !rangeUnmapped s b.base b.size
  let claims := claimsOf s ((v1.bufs ++ v2.bufs).filter here)
  let a := modStore (fun st =>
    placeRings c v2 rings2 (placeRings c v1 rings1 (placeBufs bs v2 (v2.bufs.filter fun b => here b && !v1.bufs.contains b) (placeBufs bs v1 (v1.bufs.filter here)
      (claims.foldl (fun x e => setOwn x e.1 (ownMake e.2 c)) st))))) s
  let o := openWindows c (recsOf bs 0xD 0) a
  let k := buildCopies c (plan.zip (imageJobs bs)) o.1
  let h := s.steward.nextImage
  let img : Image :=
    { handle := h, ctx := c, imageId := pfld bs 0x30 8, restartable := imgRestartable bs, multi := imgMulti bs, v15 := imgV15 bs, members := pfld bs 0x14 2,
      c16 := pfld bs 0x18 4, c16chk := pfld bs 0x1C 4, c15 := pfld bs 0x20 4, c15chk := pfld bs 0x24 4, deckles := decklesIn bs, reams := reamsIn bs,
      var16 := v1, var15 := v2, memberRecs := (slotRecs bs 0).map memberRecOf, flows := (slotRecs bs 1).map flowRecOf, claims := (slotRecs bs 2).map claimRecOf,
      launches := 0, crc := pfld bs 0x3C 4, annexes := (recsOf bs 0x10 0).map annexRecOf, windows := o.2, granules := prior ++ claims.map (·.1), copies := k.2,
      blocks := allBlocks bs v1 v2 }
  modSteward (fun x => { x with images := x.images ++ [img], nextImage := h + 1 }) k.1

/-- Forget what the fabric noted of an image's rounds. -/
def forgetRounds (img : Nat) (s : State) : State :=
  let g := BitVec.ofNat 64 img
  modFabric (fun x => { x with
    readys := x.readys.filter (fun r => r.1 != g), refused := x.refused.filter (fun r => r.1 != g),
    seen := x.seen.filter fun k => k.1 / 2 ^ 24 != img }) s

/-- Answer a rejected load (10 R315). -/
def answerReject (m : Nat) (r : Reject) (s : State) : State :=
  respond m r.code [(0x0C, 1, r.sec), (0x0D, 1, r.variant), (0x10, 4, r.record), (0x14, 2, r.room), (0x16, 2, r.op)] s

/-- A granule that the image's buffers claim is still being cleared: it is not given before its clearing ends (08 R253). -/
def loadWaits (s : State) (bs : List Byte) : Bool :=
  let waits (g : Nat) : Bool := ownClass (tabGet s.store.ownReset s.store.own g) == 3
  ((variantIn bs 1).bufs ++ (if imgV15 bs then (variantIn bs 2).bufs else [])).any fun b => (granulesOf b.base b.size).any waits

/-- Claim what is free of the image's granules, and wait for those in clearing (08 R253, log 67). -/
def loadClaim (m c : Nat) (bs : List Byte) (prior : List Nat) (s : State) : State :=
  let claims := claimsOf s ((variantIn bs 1).bufs ++ if imgV15 bs then (variantIn bs 2).bufs else [])
  let t := await m (modStore (fun st => claims.foldl (fun x e => setOwn x e.1 (ownMake e.2 c)) st) s)
  modSteward (fun x => { x with loads := x.loads.filter (fun l => l.mbox != m) ++ [⟨m, bs, prior ++ claims.map (·.1)⟩] }) t

/-- The load of mailbox `m` is over: it is no longer kept. -/
def endLoad (m : Nat) (s : State) : State := modSteward (fun x => { x with loads := x.loads.filter fun l => l.mbox != m }) s

/-- A load is undone: the granules that it had claimed pass to clearing, and windows over them close (10 R314, 08 R241). -/
def undoLoad (m : Nat) (s : State) : State :=
  let gs := (s.steward.loads.filter fun l => l.mbox == m).flatMap (·.granules)
  endLoad m (modStore (fun st => startClearing gs (closeOn gs st)) s)

/-- The rejection of a sound host transfer, or the plan of its copies, which the checks of the QPOINTS records have found to fit (09 R288, 04 R115). -/
def loadPlan (s : State) (c : Nat) (bs : List Byte) (n : Nat) : Reject ⊕ List CopyRec :=
  match loadReject s c bs n with
  | some r => .inl r
  | none =>
    match imageCopies s bs with
    | none => .inl (rejRec 0xA 1 0xFFFFFFFF 0x042F)
    | some plan => .inr plan

/-- Load an image whose bytes are here (09 R287): checks, placement, response. A load that claims a granule in clearing claims the others and waits for it. -/
def tryLoad (m c n : Nat) (bs : List Byte) (s : State) : State :=
  let prior := (s.steward.loads.filter fun l => l.mbox == m).flatMap (·.granules)
  match loadPlan s c bs n with
  | .inl r => answerReject m r (undoLoad m s)
  | .inr plan =>
    if loadWaits s bs then loadClaim m c bs prior s
    else respond m 0 [(8, 4, s.steward.nextImage)] (endLoad m (forgetRounds (pfld bs 0x30 8) (placeImage c bs plan prior s)))

/-- Try the allocations and loads that wait for clearing. -/
def retryWaiting : List (Nat × Mailbox) → State → State
  | [], s => s
  | (m, b) :: bs, s =>
    retryWaiting bs (match b.executing with
      | some w =>
        if b.awaits = true ∧ wfld w 4 2 = 0x28 then tryAlloc m w s
        else if b.awaits = true ∧ wfld w 4 2 = 0x20 then
          (match s.steward.loads.find? (fun l => l.mbox == m) with
            | some l => tryLoad m (wfld w 8 2) (wfld w 0x14 8) l.bytes s
            | none => s)
        else s
      | none => s)

/-- Mailboxes in the order in which they took their words (10 R311). -/
def byOrder : List (Nat × Mailbox) → List (Nat × Mailbox)
  | [] => []
  | x :: xs =>
    let ys := byOrder xs
    ys.takeWhile (fun y => decide (y.2.order < x.2.order)) ++ x :: ys.dropWhile fun y => decide (y.2.order < x.2.order)

/-- Something admitted before still lands in the granule (08 R242). -/
def landsIn (s : State) (g : Nat) : Bool :=
  (s.shell.hatch.any fun e => burstIn (g * 65536) 65536 e.2 && (burstStore e.2).2) || (s.store.lanes.any fun u => writesIn (g * 65536) 65536 u.write) ||
    (s.store.remote.any fun u => writesIn (g * 65536) 65536 u.write) || !(narrowOn s (g * 65536) 65536).isEmpty

/-- GRANULE_CLEAR_DONE (08 R253): the granule is clear and free; what waited for it is tried, in the order of taking. What was admitted before lands before the clearing
ends. -/
def execGranuleClearDone (addr : Nat) (s : State) : Host.Outcome State Fault Refusal :=
  due (s.store.clearing.contains (addr / 65536) && !landsIn s (addr / 65536)) s (retryWaiting (byOrder s.steward.mboxes) (modStore (clearGranule (addr / 65536)) s))

/-- The effect of IMAGE_LOAD (10 R314). -/
def imageLoadEff (s : State) (m : Nat) (w : MsgWord) (bytes : Option (List Byte)) : State :=
  let c := wfld w 8 2
  let n := wfld w 0x14 8
  match ctxRefusal s c with
  | some code => respond m code [] s
  | none =>
    if inAperture s c (wfld w 0x0C 8) n = false then respond m 0x0207 [] s
    else match bytes with
      | none => respond m 0x0109 [] s
      | some raw => tryLoad m c n (raw.take n) s

/-- IMAGE_LOAD (09 R287). -/
def execImageLoad (m : Nat) (w : MsgWord) (bytes : Option (List Byte)) (s : State) : Host.Outcome State Fault Refusal :=
  cmd m w 0x20 s (imageLoadEff s m w bytes)

/-! Unloading (09 R289). -/

/-- The granules of a copy. -/
def copyGranules (c : CopyRec) : List Nat := if c.present then granulesOf c.base (c.scales + up64 (2 * c.nScales) - c.base) else []

/-- The window descriptors of an image: its claims' and its copies'. -/
def imageWindows (i : Image) : List Nat := i.windows ++ i.copies.map (·.window)

/-- The granules that unloading releases: those that the load claimed, and the copies'. -/
def imageGranules (i : Image) : List Nat := i.granules ++ i.copies.flatMap copyGranules

/-- Unload an image at once, where its context goes with it (11 R347): its windows close, its ring descriptors and copies are freed, and the granules it claimed go to
clearing. -/
def unloadImage (i : Image) (s : State) : State :=
  let st := dropImage i { s.store with windows := s.store.windows.filter fun e => !(imageWindows i).contains e.1 }
  forgetRounds i.imageId (modSteward (fun x => { x with images := x.images.filter fun y => y.handle != i.handle })
    { s with store := startClearing (imageGranules i) (closeOn (imageGranules i) st) })

/-- IMAGE_UNLOAD begins (09 R289): the image, its ring descriptors and its windows go; the granules follow, and the answer comes, when what the windows had admitted has landed
(R284, 08 R242). -/
def beginUnload (m : Nat) (i : Image) (s : State) : State :=
  let ws := s.store.windows.filter fun e => (imageWindows i).contains e.1
  beginClose m (some i) (imageGranules i) (((imageGranules i).map fun g => (g * 65536, 65536)) ++ ws.map fun e => (e.2.base, e.2.limit - e.2.base))
    (fun e => (imageWindows i).contains e.1 || (imageGranules i).any (windowOn e.2)) s

/-- A task of the image is not final. -/
def imageBusy (s : State) (i : Image) : Bool := s.steward.tasks.any fun t => t.image == i.handle && !isFinal t

/-- The effect of IMAGE_UNLOAD (09 R289). -/
def imageUnloadEff (s : State) (m : Nat) (w : MsgWord) : State :=
  let c := wfld w 8 2
  match ctxRefusal s c with
  | some code => respond m code [] s
  | none =>
    match imageIn s c (wfld w 0x0C 4) with
    | none => respond m 0x020E [] s
    | some i => if imageBusy s i then respond m 0x0408 [] s else beginUnload m i s

/-- IMAGE_UNLOAD (09 R289). -/
def execImageUnload (m : Nat) (w : MsgWord) (s : State) : Host.Outcome State Fault Refusal := cmd m w 0x21 s (imageUnloadEff s m w)

/-! QSTATE_RESET (04 R578). -/

/-- The block that a reset writes: header, scale array and list of the initial block; MODE and REASON 0x01; histories, counts and FLAGS zero. -/
def resetBlock (b : List Byte) : List Byte :=
  let head := splice (splice (splice (b.take 64) 0 [1, 1]) 3 [0, 0, 0]) 7 [0]
  let head := splice (splice head 0x14 (List.replicate 8 0)) 0x20 (List.replicate 4 0)
  splice (head ++ b.drop 64) (blkHist b) (List.replicate (blkWide b - blkHist b) 0)

/-- The state blocks that the points of a variant name. -/
def variantBlocks (V : Variant) : List Nat := (V.qpoints.filterMap fun q => (V.bufs.find? fun b => b.id == q.state).map (·.base)).eraseDups

/-- The state blocks that a task uses. -/
def taskBlocks (s : State) (t : Task) : List Nat :=
  match imageOf s t with
  | some i => variantBlocks (variantOf i t)
  | none => []

/-- A launched task uses the block at an address (04 R93). -/
def blockBusy (s : State) (a : Nat) : Bool := s.steward.tasks.any fun t => t.state == .launched && (taskBlocks s t).contains a

/-- Write the initial block of points anew. -/
def resetBlocks : List InitBlock → Store → Store
  | [], st => st
  | b :: xs, st => resetBlocks xs (writeWhole st b.addr (resetBlock b.bytes))

/-- The effect of QSTATE_RESET (04 R116, R578). A point that the image does not declare is answered as an unknown image; the manual gives no code for it (log 52). -/
def qstateResetEff (s : State) (m : Nat) (w : MsgWord) : State :=
  let c := wfld w 8 2
  let p := wfld w 0x10 2
  match ctxRefusal s c with
  | some code => respond m code [] s
  | none =>
    match imageIn s c (wfld w 0x0C 4) with
    | none => respond m 0x020E [] s
    | some i =>
      let bl := i.blocks.filter fun b => p == 0xFFFF || b.point == p
      if bl.isEmpty ∧ p ≠ 0xFFFF then respond m 0x020E [] s
      else if bl.any (fun b => blockBusy s b.addr) then respond m 0x0310 [] s
      else respond m 0 [] (modStore (resetBlocks bl) s)

/-- QSTATE_RESET (04 R578). -/
def execQstateReset (m : Nat) (w : MsgWord) (s : State) : Host.Outcome State Fault Refusal := cmd m w 0x22 s (qstateResetEff s m w)

end Sys2Proof.Machine
end

