-- ==== Sys2Proof/Machine/PowerOps.lean ====
section
/-!
DEFINITION. Pace permits (02 R41, R42) and the power governor (16_power): control intervals, the cap's steps, the setpoint, throttles, the phase table, gap
filling, holds and ramps. What the governor forecasts from its own characterisation is free (log 32); nothing it does changes a result (02 R56).
-/
namespace Sys2Proof.Machine

/-- Change the governor. -/
def modPower (f : Power → Power) (s : State) : State := { s with power := f s.power }

/-- Change pace. -/
def modPace (f : Pace → Pace) (s : State) : State := { s with pace := f s.pace }

/-- A hall of the governor. -/
def hallPow (s : State) (h : Nat) : HallPow := tabGet hallPowZero s.power.halls h

/-- Change a hall of the governor. -/
def modHall (h : Nat) (f : HallPow → HallPow) (s : State) : State :=
  modPower (fun p => { p with halls := tabMod hallPowZero p.halls h f }) s

/-- Change the halls of a list. -/
def modHalls (f : Nat → HallPow → HallPow) : List Nat → State → State
  | [], s => s
  | h :: hs, s => modHalls f hs (modHall h (f h) s)

/-- The halls of the configuration. -/
def hallNums (s : State) : List Nat := List.range s.params.halls

/-- The cap in W: 200 × HALLS until one is committed (16 R477). -/
def capOf (s : State) : Nat := s.power.cap.getD (200 * s.params.halls)

/-! Permits (02 R41, R42). -/

/-- The hall of a per-cycle unit. -/
def paceHall (u : PaceUnit) : Nat := match u with
  | .cellarPort h | .hallRing h => h
  | .mould r _ | .chute r | .shelf r _ | .pantryPort r | .mover r | .sizer r | .press r | .roomCore r => r / 16

/-- The place of a unit in its room, or of a unit of the hall itself. -/
def paceSlot (u : PaceUnit) : Nat := match u with
  | .mould _ m => m % 4
  | .chute _ => 4
  | .shelf _ m => 5 + m % 4
  | .pantryPort _ => 9
  | .mover _ => 10
  | .sizer _ => 11
  | .press _ => 12
  | .roomCore _ => 13
  | .cellarPort _ => 14
  | .hallRing _ => 15

/-- The number of a per-cycle unit in the table of permits: 512 × hall + 32 × room + its place. -/
def paceKey (u : PaceUnit) : Nat := match u with
  | .cellarPort h | .hallRing h => 512 * h + paceSlot u
  | .mould r _ | .chute r | .shelf r _ | .pantryPort r | .mover r | .sizer r | .press r | .roomCore r => 512 * (r / 16) + 32 * (r % 16) + paceSlot u

/-- The configuration has the unit. -/
def paceThere (P : Params) (u : PaceUnit) : Bool := decide (paceHall u < P.halls) && (match u with
  | .mould _ m | .shelf _ m => decide (m < 4)
  | _ => true)

/-- The permits a unit of the hall receives in a beat (02 R41, 16 R466). -/
def allowance (s : State) (hall : Nat) : Nat :=
  if s.pace.mode then min s.pace.permits (80 * (hallPow s hall).throttle) else 80 * (hallPow s hall).throttle

/-- The pace limiter issues permits to the hall: in fixed pace, and to a throttled hall in adaptive pace (02 R41, 16 R466). -/
def paced (s : State) (hall : Nat) : Bool := s.pace.mode || decide ((hallPow s hall).throttle < 16)

/-- A permit reaches a unit: its cycle begins; or it is banked, up to 16, and then lost; or it lapses. A unit begins a cycle with a banked one when it is ready again
(02 R42, log 31). -/
def usePermit (u : PermitUse) (x : Permits) : Permits :=
  match u with
  | .spend => { x with issued := x.issued + 1, begun := x.begun + 1 }
  | .notReady => if x.banked < 16 then { x with issued := x.issued + 1, banked := x.banked + 1 } else { x with issued := x.issued + 1, lost := x.lost + 1 }
  | .noWork => { x with issued := x.issued + 1 }
  | .banked => { x with banked := x.banked - 1, begun := x.begun + 1 }

/-- PACE_PERMIT is due: the beat still issues permits, or the unit has banked one (02 R41, R42). -/
def permitReady (s : State) (unit : PaceUnit) (use : PermitUse) : Bool :=
  let x := tabGet permitsZero s.pace.units (paceKey unit)
  paced s (paceHall unit) && (match use with
    | .banked => decide (0 < x.banked)
    | .spend | .notReady | .noWork => decide (x.issued < allowance s (paceHall unit)))

/-- PACE_PERMIT (02 R41). -/
def execPacePermit (unit : PaceUnit) (use : PermitUse) (s : State) : Host.Outcome State Fault Refusal :=
  dueAt (paceThere s.params unit) (permitReady s unit use) s
    (modPace (fun p => { p with units := tabMod permitsZero p.units (paceKey unit) (usePermit use) }) s)

/-- A paced unit has a permit to begin a cycle with (02 R41). -/
def mayCycle (s : State) (unit : PaceUnit) : Bool :=
  !paced s (paceHall unit) || decide (0 < (tabGet permitsZero s.pace.units (paceKey unit)).begun)

/-- A paced unit's cycle takes its permit. -/
def takeCycle (unit : PaceUnit) (s : State) : State :=
  if paced s (paceHall unit) then
    modPace (fun p => { p with units := tabMod permitsZero p.units (paceKey unit) fun x => { x with begun := x.begun - 1 } }) s
  else s

/-! The cap (16 R459 to R461). -/

/-- What a step of R461 does. -/
inductive CapAct where
  | stuff | pause | toFloor | throttle10 | toMin | throttle1 | idle
  deriving DecidableEq, Repr

/-- The steps of the mode in order (16 R461). -/
def capActs (mz6 : Bool) : List CapAct :=
  if mz6 then [.stuff, .idle, .pause, .throttle10, .toFloor, .throttle1, .toMin] else [.stuff, .pause, .toFloor, .throttle10, .toMin, .throttle1, .idle]

/-- The actions in force at a step. -/
def capInForce (s : State) : List CapAct := (capActs s.power.mode).take s.power.capStep

/-- The scrubber and hatch bursts are paused: by the governor (16 R459, R461) or in power-down (18 R516). -/
def paused (s : State) : Bool := (capInForce s).contains .pause || s.steward.phase == 6

/-- The lowest code that holds the floor with 30 mV taken away (16 R464); read from the reference pipelines. -/
def vFloorCode (s : State) : Nat := min 50 (Config.vFloor s.pace.cyclePs s.power.vcore)

/-- The setpoint that a fixed pace needs (16 R465). -/
def vFixed (s : State) (permits margin : Nat) : Nat :=
  min 50 (Config.fixedSetpoint s.pace.cyclePs s.power.vcore (1024 * 1000 / max 1 permits) margin)

/-- The staged PACE_SET that waits (10 R317). -/
def stagedPace (s : State) : Option Staged := s.steward.staged.find? fun x => wfld x.word 4 2 == 0x30

/-- The level that adaptive pace requires (02 R40, R47): V_floor, and VMAX in the priority mode (16 R464). -/
def adaptiveNeed (s : State) : Nat := if s.power.mode then s.power.cfg.vmax else min s.power.cfg.vmax (vFloorCode s)

/-- The setpoint that a pace change needs before it commits (02 R47): 0 when it makes the engine no faster. Adaptive pace lifts the limit of the permits. -/
def paceNeed (s : State) (x : Staged) : Nat :=
  let v := wfld x.word 0x18 4
  let permits := v / 2 ^ 8 % 2 ^ 11
  if v % 2 = 1 then (if s.pace.mode = false ∨ s.pace.permits < permits then min s.power.cfg.vmax (vFixed s permits (v / 2 ^ 24 % 32)) else 0)
  else if s.pace.mode then adaptiveNeed s
  else 0

/-- The steward raises VCORE for a waiting change (02 R47) only where it can then commit: in time for its deadline, for a named beat not before the codes need, for a
task boundary while no task runs. How early it raises is not given (DESIGN CHOICE, log 90). -/
def raiseTime (s : State) (x : Staged) (need : Nat) : Bool :=
  let codes := need - s.power.vcore
  match wfld x.word 0x0C 1 with
  | 1 => (launchedTasks s).isEmpty
  | 2 => decide (x.a ≤ beatOf s + codes + 1) && decide (beatOf s + codes ≤ x.a + wfld x.word 0x0E 2)
  | _ => decide (beatOf s + codes ≤ x.a + wfld x.word 0x0E 2)

/-- The setpoint that the waiting pace change asks for now. -/
def stagedNeed (s : State) : Nat :=
  match stagedPace s with
  | some x => if raiseTime s x (paceNeed s x) then paceNeed s x else 0
  | none => 0

/-- A change of pace is refused or discarded: VCORE is as it was before it was raised for it (02 R47, log 90). -/
def undoRaise (s : State) : State :=
  modPower (fun p => match p.vWas with
    | some v => { p with vcore := min v p.vcore, vWas := none }
    | none => p) s

/-- A staged item is discarded: nothing changes, and the shadow state is gone (10 R318). -/
def discardStaged (x : Staged) (s : State) : State :=
  let t := { s with steward := { s.steward with staged := s.steward.staged.filter fun z => z != x } }
  if wfld x.word 4 2 = 0x30 then undoRaise t else t

/-- The setpoint that the mode asks for (16 R460 to R465). -/
def vBase (s : State) : Nat :=
  if s.pace.mode then vFixed s s.pace.permits s.pace.margin
  else if s.power.mode then s.power.cfg.vmax
  else max (vFloorCode s) (Config.learnedSetpoint s.freeCtr s.pace.cyclePs)

/-- A setpoint within the steps of the cap in force and VMAX (16 R461, R464). -/
def capped (s : State) (v : Nat) : Nat :=
  let acts := capInForce s
  let v := if acts.contains .toFloor then min v (vFloorCode s) else v
  let v := if acts.contains .toMin then 0 else v
  min v s.power.cfg.vmax

/-- The setpoint the governor moves toward (16 R460 to R465, 02 R47). -/
def vTarget (s : State) : Nat := capped s (max (vBase s) (stagedNeed s))

/-- The step in force can do no more (16 R461). -/
def capExhausted (s : State) : Bool :=
  match (capInForce s).getLast? with
  | none => true
  | some .stuff => s.power.gaps.isEmpty
  | some .pause => true
  | some .toFloor => decide (s.power.vcore ≤ vFloorCode s)
  | some .throttle10 => (hallNums s).all fun h => decide ((hallPow s h).capLvl ≤ 10)
  | some .toMin => s.power.vcore == 0
  | some .throttle1 => (hallNums s).all fun h => decide ((hallPow s h).capLvl ≤ 1)
  | some .idle => true

/-- Idle or wake the STANDBY and FAILED ports (16 R461). -/
def applyIdle (s : State) : State :=
  let on := (capInForce s).contains .idle
  { s with links := { s.links with ports := s.links.ports.map fun e => (e.1, { e.2 with idled := on && (e.2.st == 6 || e.2.st == 7) }) } }

/-- The draw in 1/8 W that the governor forecasts for the phases its halls are in (16 R460, R462): by its own characterisation, which the manual does not give: a free value (log 115). -/
def forecastDraw (s : State) : Nat := Config.freeNat s.freeCtr

/-- The draw in 1/8 W over the last 63 beats and the present one, so far, together (16 R457). -/
def windowDraw (s : State) : Nat := s.power.draws.sum + s.power.wSum / max 1 s.power.ivCount

/-- The draw exceeds the cap: as measured over the interval, as forecast, or as the mean of the window of 64 beats (16 R457, R461). -/
def overCap (draw : Nat) (s : State) : Bool :=
  decide (8 * capOf s < draw) || decide (8 * capOf s < forecastDraw s) || decide (64 * (8 * capOf s) < windowDraw s)

/-- The cap's step in force: from step 5 on CAP_LIMITED is set (16 R461). -/
def capAt (k : Nat) (s : State) : State :=
  let t := applyIdle (modPower (fun p => { p with capStep := k }) s)
  if 5 ≤ k then raiseInt 5 (modPower (fun p => { p with capLimited := true, limNow := true }) t) else t

/-- Move along the steps of the cap for a measured draw in 1/8 W (16 R461). -/
def capMove (draw : Nat) (s : State) : State :=
  let tooHigh := overCap draw s
  let k := s.power.capStep
  capAt (if tooHigh then (if capExhausted s then min 7 (k + 1) else k) else k - 1)
    (modPower (fun p => { p with gaps := if tooHigh = true ∧ k = 1 then p.gaps.drop 1 else p.gaps }) { s with freeCtr := s.freeCtr + 1 })

/-- Steps of the cap while the one in force is exhausted. -/
def capFurther : Nat → State → State
  | 0, s => s
  | n + 1, s => if s.power.capStep < 7 ∧ capExhausted s = true then capFurther n (capAt (s.power.capStep + 1) s) else s

/-- From the boundary after a beat whose mean draw exceeded the cap the governor restores it (16 R457): it goes on to the first step that is not exhausted. -/
def restoreCap (mean : Nat) (s : State) : State := if 8 * capOf s < mean then capFurther 7 s else s

/-- The fixed-pace setpoint is overruled by the cap or the temperature: CAP_LIMITED (16 R465). -/
def marginLost (s : State) : Bool := s.pace.mode && decide (vTarget s < vFixed s s.pace.permits s.pace.margin)

/-- The setpoint moves by at most one code per beat (16 R464); where it rises for a waiting change of pace alone, it is noted from where (02 R47). -/
def moveVcore (s : State) : State :=
  let w := vTarget s
  let v := s.power.vcore
  let lim := marginLost s
  let forPace := !s.power.vMoved && decide (v < w) && decide (capped s (vBase s) ≤ v)
  let t := modPower (fun p => { p with
    vMoved := true, vWas := if forPace && p.vWas.isNone then some v else p.vWas,
    vcore := if p.vMoved then v else if v < w then v + 1 else if w < v then v - 1 else v,
    capLimited := p.capLimited || lim, limNow := p.limNow || lim }) { s with freeCtr := s.freeCtr + 1 }
  if lim then raiseInt 5 t else t

/-! Halls (16 R467, R473 to R475). -/

/-- An unprepared rise: more than 40 % of I_full above the interval before, with no ramp that reached the level first (16 R473). -/
def risen (x : HallPow) (amps : Nat) : Bool :=
  x.iFull != 0 && decide (2 * x.iFull < 5 * (amps - x.ivAmps)) && (match x.ramp with
    | .pre _ level _ _ => decide (level < amps)
    | .hold level _ => decide (level < amps)
    | _ => true)

/-- One hall's share of a control interval: current in 1/8 A and Tj. -/
def hallInterval (cfg : PowerCfg) (vs vl amps : Nat) (tj : Int) (x : HallPow) : HallPow :=
  { x with
    ivAmps := amps, sum := x.sum + amps, ivs := (amps :: x.ivs).take 16, tj := tj,
    overAmps := x.overAmps || decide (8 * cfg.hallAmps < amps),
    below := x.below && decide (10 * amps < 9 * (8 * cfg.hallAmps)),
    hot := if tj > (cfg.tjHot : Int) then true else if tj < (cfg.tjHot : Int) - 3 then false else x.hot,
    crit := if tj ≥ 112 then true else if tj < 108 then false else x.crit,
    phaseSum := x.phaseSum + amps, phaseIvs := x.phaseIvs + 1, phaseVs := x.phaseVs + vs, phaseVl := x.phaseVl + vl }

/-- The power of a rail in 1/8 W from 1/4 A and mV (16 R480). -/
def railW (amps mv : Nat) : Nat := 2 * amps * mv / 1000

/-- The mean of a value over the samples of a control interval (16 R458). -/
def sampleMean (f : TeleSample → Nat) (tele : Telemetry) : Nat := (tele.samples.map f).sum / max 1 tele.samples.length

/-- The VCORE current of a hall over the interval. -/
def teleHall (tele : Telemetry) (h : Nat) : Nat := sampleMean (fun x => x.hallAmps.getD h 0) tele

/-- The current of a rail over the interval. -/
def teleAmps (tele : Telemetry) (r : Nat) : Nat := sampleMean (fun x => x.railAmps.getD r 0) tele

/-- The power of a rail over the interval in 1/8 W. -/
def teleWatts (tele : Telemetry) (r : Nat) : Nat := sampleMean (fun x => railW (x.railAmps.getD r 0) (x.railMv.getD r 0)) tele

/-- The events of the halls in an interval (16 R467, R473, R475). -/
def hallEvents (tele : Telemetry) : List Nat → State → State
  | [], s => s
  | h :: hs, s =>
    let x := hallPow s h
    let amps := teleHall tele h
    let tj := tele.hallTj.getD h 0
    let s := if risen x amps then raiseInt 5 (modPower (fun p => { p with rise := true, rises := satInc 255 p.rises }) s) else s
    let s := if 8 * s.power.cfg.hallAmps < amps then raiseInt 5 (modPower (fun p => { p with hallLimited := true }) s) else s
    let s := if tj > (s.power.cfg.tjHot : Int) then raiseInt 2 (modPower (fun p => { p with thermHot := true }) s) else s
    let s := if tj ≥ 112 then raiseInt 2 (modPower (fun p => { p with thermCrit := true }) s) else s
    hallEvents tele hs s

/-- The telemetry of the rails: current and power sums of the beat. -/
def railSums (tele : Telemetry) (s : State) : State :=
  modPower (fun p => { p with rails := (List.range 4).foldl (fun t r =>
    tabMod railPowZero t r fun x => { x with aSum := x.aSum + teleAmps tele r, wSum := x.wSum + teleWatts tele r }) p.rails }) s

/-- The draw of all rails in an interval, in 1/8 W. -/
def drawOf (tele : Telemetry) : Nat := ((List.range 4).map (teleWatts tele)).sum

/-- A hall at or above 120 °C (16 R475). -/
def trips (s : State) (tele : Telemetry) : Bool := (hallNums s).any fun h => decide (tele.hallTj.getD h 0 ≥ 120)

/-- THERMAL_TRIP (16 R475): every launched task is aborted and a power-down is called for. -/
def thermalTrip (s : State) : State :=
  if s.power.tripped then s
  else haltAll 0x0C01 false (launchedTasks s)
    { s with power := { s.power with tripped := true }, seq := { s.seq with trips := s.seq.trips ++ [(2, upBeat s)] } }

/-- The effect of a control interval (16 R458 to R475). -/
def controlEff (s : State) (tele : Telemetry) : State :=
  let vs := teleWatts tele 1
  let vl := teleWatts tele 2
  let a := hallEvents tele (hallNums s) s
  let b := modHalls (fun h x => hallInterval s.power.cfg vs vl (teleHall tele h) (tele.hallTj.getD h 0) x) (hallNums s) a
  let c := railSums tele (modPower (fun p => { p with ivCount := p.ivCount + 1, wSum := p.wSum + drawOf tele }) b)
  let d := moveVcore (capMove (drawOf tele) c)
  if trips s tele then thermalTrip d else d

/-- CONTROL_INTERVAL (16 R458): 16 to each beat, while the hard part runs; the port refreshes its values at least every 16 of the interval's 64 ticks. -/
def execControlInterval (t : Telemetry) (s : State) : Host.Outcome State Fault Refusal :=
  due (s.time.running && decide (s.power.ivCount < 16) && decide (4 ≤ t.samples.length)) s (controlEff s t)

/-! The beat's end for the governor. -/

/-- The level that the cap's steps impose on the halls, one level a beat. -/
def capLevel (s : State) (x : HallPow) : Nat :=
  let goal := if (capInForce s).contains .throttle1 then 1 else if (capInForce s).contains .throttle10 then 10 else 16
  if goal < x.capLvl then x.capLvl - 1 else if x.capLvl < goal then x.capLvl + 1 else x.capLvl

/-- The throttle levels of a hall at a beat boundary (16 R466, R467, R475): HALL_AMPS and temperature each lower by one level, or raise by one after 16
beats; 112 °C sets level 4; the lowest of the three rules. -/
def hallBoundary (s : State) (beat : Nat) (x : HallPow) : HallPow :=
  let amp := if x.overAmps then max 1 (x.ampLvl - 1) else if x.below = true ∧ x.ampSince + 16 ≤ beat ∧ x.ampLvl < 16 then x.ampLvl + 1 else x.ampLvl
  let therm := if x.crit then min x.thermLvl 4 else if x.hot then max 1 (x.thermLvl - 1)
    else if x.thermSince + 16 ≤ beat ∧ x.thermLvl < 16 then x.thermLvl + 1 else x.thermLvl
  let cap := capLevel s x
  { x with
    ampLvl := amp, ampSince := if amp = x.ampLvl then x.ampSince else beat, below := if amp = x.ampLvl then x.below else true, overAmps := false,
    thermLvl := therm, thermSince := if therm = x.thermLvl ∧ x.hot = false ∧ x.crit = false then x.thermSince else beat, capLvl := cap,
    throttle := min amp (min therm cap) }

/-- The ramp of a hall at a beat boundary: a ramp down ends after RAMP_DOWN beats, a pre-ramp at its boundary unless a sync still waits (16 R470, R471). -/
def rampBoundary (cfg : PowerCfg) (beat : Nat) (waits : Bool) (x : HallPow) : HallPow :=
  match x.ramp with
  | .down _ start => if start + cfg.rampDown ≤ beat then { x with ramp := .none } else x
  | .pre _ _ _ target => if target ≤ beat ∧ waits = false then { x with ramp := .none } else x
  | _ => x

/-- The mean of a sum over the intervals of the beat. -/
def meanOf (sum n : Nat) : Nat := if n = 0 then 0 else sum / n

/-- The means of the beat that ends: POWER_W, POWER_RAILr and HALL_POWERh (16 R478, R480). -/
def beatMeans (s : State) : State :=
  let n := s.power.ivCount
  modHalls (fun _ x => { x with amps := meanOf x.sum n, sum := 0 }) (hallNums s)
    (modPower (fun p => { p with
      powerW := min 0xFFF (meanOf p.wSum n / 8), draws := (meanOf p.wSum n :: p.draws).take 63, wSum := 0, ivCount := 0, vMoved := false,
      rails := (List.range 4).foldl (fun t r => tabMod railPowZero t r fun x => ⟨meanOf x.aSum n, meanOf x.wSum n, 0, 0⟩) p.rails }) s)

/-- The beat counts of POWER_EVENTS (16 R479). -/
def powerBeatCounts (s : State) : State :=
  let hall := (hallNums s).any fun h => decide ((hallPow s h).ampLvl < 16)
  let therm := (hallNums s).any fun h => decide ((hallPow s h).thermLvl < 16)
  modPower (fun p => { p with
    capBeats := if p.limNow then satInc 255 p.capBeats else p.capBeats,
    hallBeats := if hall then satInc 255 p.hallBeats else p.hallBeats,
    thermBeats := if therm then satInc 255 p.thermBeats else p.thermBeats, limNow := false }) s

/-! The phase table (16 R462, R463). -/

/-- One eighth of the way from the old value to the new. -/
def eighth (old new : Nat) : Nat := (7 * old + new) / 8

/-- The phase of a hall ends: its entry takes the measurement, or moves one eighth toward it; tag 0 is never learned; the table holds 2,048 entries, least
recently used first (16 R462). -/
def phaseEnd (h : Nat) (s : State) : State :=
  let x := hallPow s h
  let t := modHall h (fun x => { x with phase := none, phaseSum := 0, phaseIvs := 0, phaseVs := 0, phaseVl := 0 }) s
  match x.phase with
  | none => t
  | some ph =>
    if ph.tag = 0 ∨ x.phaseIvs = 0 ∨ x.iFull = 0 then t
    else
      let act := x.phaseSum / x.phaseIvs * 65536 / x.iFull
      let vs := x.phaseVs / x.phaseIvs
      let vl := x.phaseVl / x.phaseIvs
      match s.power.phases.find? (fun e => e.ctx == ph.ctx && e.tag == ph.tag) with
      | some e =>
        let old := tabGet 0 e.halls h
        let e' : Phase := { e with halls := tabPut 0 e.halls h (if old = 0 then act else eighth old act), vsram := eighth e.vsram vs, vlink := eighth e.vlink vl }
        modPower (fun p => { p with phases := p.phases.filter (· ≠ e) ++ [e'] }) t
      | none =>
        let e' : Phase := ⟨ph.ctx, ph.tag, tabPut 0 [] h act, vs, vl⟩
        modPower (fun p => { p with phases := (if p.phases.length < 2048 then p.phases else p.phases.drop 1) ++ [e'] }) t

/-- A phase starts in a hall (16 R462, R463). -/
def phaseStart (h : Nat) (r : HintRec) (s : State) : State := modHall h (fun x => { x with phase := some r }) (phaseEnd h s)

/-- A `hint` acts on the hall of its room (16 R463): kind 0x1 starts a phase, 0x2 announces one, 0x3 announces a barrier. -/
def hintHall (h kind ctx tag level ahead : Nat) (s : State) : State :=
  let r : HintRec := ⟨kind, ctx, tag, level, upBeat s + ahead⟩
  match kind with
  | 1 => phaseStart h r s
  | 2 => modHall h (fun x => { x with ahead := some r }) s
  | 3 => modHall h (fun x => { x with barrier := some r }) s
  | _ => s

/-- Announced phases whose beat has come start (16 R463). -/
def aheadStarts : List Nat → State → State
  | [], s => s
  | h :: hs, s =>
    aheadStarts hs
      (match (hallPow s h).ahead with
        | some r => if r.beat ≤ upBeat s then phaseStart h r (modHall h (fun x => { x with ahead := none }) s) else s
        | none => s)

/-- The entries of a context leave the phase table when its destruction completes (16 R462). -/
def forgetPhases (c : Nat) (s : State) : State := modPower (fun p => { p with phases := p.phases.filter fun e => e.ctx != c }) s

/-! Gap filling, holds and ramps (16 R469 to R471). -/

/-- I_pre: the mean over the 16 intervals before the drop (16 R470). -/
def iPre (x : HallPow) : Nat := if x.ivs.isEmpty then 0 else x.ivs.sum / x.ivs.length

/-- FLOOR percent of I_pre. -/
def floorLevel (s : State) (h : Nat) : Nat := s.power.cfg.floor * iPre (hallPow s h) / 100

/-- Enter a barrier hold, counted from the next boundary (16 R470). -/
def enterHold (h : Nat) (s : State) : State :=
  let level := floorLevel s h
  modHall h (fun x => { x with
    ramp := .hold level (upBeat s + 1), barrier := x.barrier.map (fun r => { r with kind := 0 }), dropPre := some (iPre x) }) s

/-- A unit (mould 0 to 3, 4 the chute) of the room is no longer engaged (16 R469): stuff fills the gap, unless a barrier was announced, which holds the drop at once
(R463). The level follows the unit's activity, a free value. -/
def startGap (room unit : Nat) (s : State) : State :=
  if ((hallPow s (room / 16)).barrier).any (fun r => r.kind == 3) then enterHold (room / 16) s
  else modPower (fun p => { p with gaps := p.gaps.filter (fun g => !(g.room == room && g.unit == unit)) ++ [⟨room, unit, Config.freeNat s.freeCtr % 4, p.cfg.gap⟩] })
    { s with freeCtr := s.freeCtr + 1 }

/-- An op engages a unit again: its stuff ends (16 R469). -/
def endGap (room unit : Nat) (s : State) : State :=
  modPower (fun p => { p with gaps := p.gaps.filter fun g => !(g.room == room && g.unit == unit) }) s

/-- Do ops of the hall's rooms still engage moulds or chutes, or do other gaps fill? -/
def hallBusy (s : State) (h : Nat) : Bool :=
  (s.rooms.any fun e => e.1 / 16 == h && e.2.inflight.any fun f => decide (f.pos < f.total) && f.units.any fun u => decide (u ≤ 4)) || s.power.gaps.any fun g => g.room / 16 == h

/-- A gap fill of this unit runs. -/
def gapOn (s : State) (room unit : Nat) : Bool := s.power.gaps.any fun g => g.room == room && g.unit == unit

/-- The effect of GAP_FILL_END (16 R469, R470): the stuff ends; with nothing left to draw current in the hall a barrier hold begins. -/
def gapFillEndEff (s : State) (room unit : Nat) : State :=
  let t := endGap room unit s
  if hallBusy t (room / 16) = false ∧ (hallPow t (room / 16)).ramp = .none then enterHold (room / 16) t else t

/-- GAP_FILL_END (16 R469). -/
def execGapFillEnd (room unit : Nat) (s : State) : Host.Outcome State Fault Refusal :=
  dueAt (decide (room / 16 < s.params.halls)) (gapOn s room unit) s (gapFillEndEff s room unit)

/-- The hold of a hall has lasted HOLD beats. -/
def holdOver (s : State) (h : Nat) : Bool :=
  match (hallPow s h).ramp with
  | .hold _ start => decide (start + s.power.cfg.hold ≤ upBeat s)
  | _ => false

/-- The ramp that follows a hold. -/
def rampDownOf (beat : Nat) (x : HallPow) : HallPow :=
  match x.ramp with
  | .hold level _ => { x with ramp := .down level beat }
  | _ => x

/-- BARRIER_HOLD_END (16 R470): the stuff goes down over RAMP_DOWN beats. -/
def execBarrierHoldEnd (hall : Nat) (s : State) : Host.Outcome State Fault Refusal :=
  dueAt (decide (hall < s.params.halls)) (holdOver s hall) s (modHall hall (rampDownOf (upBeat s)) s)

/-- The boundary by which a room's task is to resume or start, in boundaries since start-up: the target of a `sync` it waits at, or a LAUNCH it holds (16 R471). -/
def roomTarget (s : State) (e : Nat × Room) : Option Nat :=
  match e.2.task with
  | none => none
  | some n =>
    match taskOf s n, e.2.hold with
    | some t, .sync _ _ target _ _ => some (t.launchUp + target)
    | _, _ => none

/-- The launch boundaries known for the hall's rooms (13 R407). -/
def launchTargets (s : State) (h : Nat) : List Nat :=
  (s.steward.tasks.filter fun t => t.state == .eligible && t.rooms.any (fun r => r / 16 == h)).filterMap fun t => match t.launchAt with
    | some l => some (upBeat s + (l - beatOf s))
    | none => none

/-- The launch boundaries of single-engine tasks that wait only for their 2 beats: L is known (11 R341). -/
def soonTargets (s : State) (h : Nat) : List Nat :=
  (s.steward.tasks.filter fun t => t.state == .eligible && t.members.isEmpty && decide (upBeat s < t.eligBeat + 2) && (match imageOf s t with
    | some i => i.var16.rooms.any (fun r => r.room / 16 == h) &&
        i.var16.rooms.all fun r => !(s.steward.tasks.any fun x => holdsRooms x && x.rooms.contains r.room)
    | none => false)).map (·.eligBeat + 2)

/-- FLOOR percent of I_pre of the hall's last drop (16 R470, R471). -/
def rampFloor (s : State) (h : Nat) : Nat := s.power.cfg.floor * (hallPow s h).dropPre.getD (iPre (hallPow s h)) / 100

/-- The next rise announced in a hall: its boundary and level in 1/8 A (16 R471). -/
def nextRise (s : State) (h : Nat) : Option (Nat × Nat) :=
  let x := hallPow s h
  let lvl := match x.barrier with
    | some r => r.level * x.iFull / 16
    | none => rampFloor s h
  let ts := (s.rooms.filter fun e => e.1 / 16 == h).filterMap (roomTarget s) ++ launchTargets s h ++ soonTargets s h
  match (ts.filter fun t => decide (upBeat s < t)).min? with
  | some t => some (t, lvl)
  | none =>
    match x.ahead with
    | some r =>
      let learned := if s.power.mode then none else (s.power.phases.find? fun e => e.ctx == r.ctx && e.tag == r.tag)
      some (r.beat, match learned with
        | some e => tabGet 0 e.halls h * x.iFull / 65536
        | none => r.level * x.iFull / 16)
    | none => none

/-- A pre-ramp of the hall is due: RAMP_UP beats or fewer before the rise, and none runs. -/
def preRampReady (s : State) (h : Nat) : Bool :=
  match nextRise s h with
  | some (t, _) => decide (upBeat s ≤ t) && decide (t ≤ upBeat s + s.power.cfg.rampUp) && (match (hallPow s h).ramp with
    | .pre _ _ _ _ => false
    | _ => true)
  | none => false

/-- The effect of PRE_RAMP_START (16 R471). -/
def preRampEff (s : State) (h : Nat) : State :=
  match nextRise s h with
  | some (t, level) => modHall h (fun x => { x with
      ramp := .pre x.ivAmps level (upBeat s) t, barrier := if x.ahead.any (fun r => r.beat == t) then x.barrier else none }) s
  | none => s

/-- PRE_RAMP_START (16 R471). -/
def execPreRampStart (hall : Nat) (s : State) : Host.Outcome State Fault Refusal :=
  dueAt (decide (hall < s.params.halls)) (preRampReady s hall) s (preRampEff s hall)

/-- The governor's part of a beat boundary, once the beat's number has advanced. -/
def powerBoundary (s : State) : State :=
  let waits (h : Nat) : Bool := s.rooms.any fun e => e.1 / 16 == h && (match e.2.hold with
    | .sync _ _ _ _ _ => true
    | _ => false)
  let t := powerBeatCounts (restoreCap (meanOf s.power.wSum s.power.ivCount) (beatMeans s))
  let u := modHalls (fun h x => rampBoundary s.power.cfg (upBeat s) (waits h) (hallBoundary s (upBeat s) x)) (hallNums s) t
  aheadStarts (hallNums s) u

end Sys2Proof.Machine
end

