-- ==== Sys2Proof/Machine/RoomOps.lean ====
section
/-!
DEFINITION. The room core's shared operations (06_tile_ops): when an op may issue (R192 to R194), what its issue engages, how its work enters the
state, faults of a room (R199), the scalar slot (R170, R171), arrival at a `sync` (02 R49).
-/
namespace Sys2Proof.Machine

/-- The room lies in a hall of the engine (01 R19). -/
def hasRoom (s : State) (room : Nat) : Bool := decide (room / 16 < s.params.halls)

/-- The task that holds a room, and its image. -/
def roomTask (s : State) (room : Nat) : Option (Task × Image) :=
  match (roomOf s room).task with
  | none => none
  | some n =>
    match taskOf s n with
    | none => none
    | some t => (imageOf s t).map fun i => (t, i)

/-- The op list regions of the task's rooms (06 R164). -/
def opRegions (V : Variant) : List (Nat × Nat) :=
  V.rooms.filterMap fun r => (V.bufs.find? fun b => b.id == r.oplist).map fun b => (b.base, b.size)

/-- The point is in beater mode at this launch (04 R116). -/
def beaterPoint (t : Task) (p : Nat) : Bool := t.points.any fun x => x.point == p && x.beater

/-- The rotated copy that an op reads in place of its weight buffer (04 R114): the copy of its consumer, or for an op that brings weights to where its consumer takes them (`lds`,
`relay`, a `move`) a copy of the buffer that its address field is bound to. -/
def copyOf (i : Image) (t : Task) (room op opc : Nat) : Option CopyRec :=
  let v := if t.v15 then 2 else 1
  let mine (c : CopyRec) : Bool := c.variant == v && c.room == room && beaterPoint t c.point
  if opc = 4 ∨ opc = 11 ∨ opc = 13 then
    match (variantOf i t).binds.find? (fun b => b.room == room && b.op == op && b.field == 0) with
    | some b => i.copies.find? fun c => mine c && c.buffer == b.buffer
    | none => none
  else i.copies.find? fun c => mine c && c.op == op

/-- The physical room that serves an engine room, as its index of 17 R482. -/
def physIndexOf (s : State) (room : Nat) : Nat := 17 * (room / 16) + (physOf s (room / 16) (room % 16)).getD (room % 16)

/-- A mapped spare's row or column: 0 for none. -/
def spareOf (m : Tab Nat) (k : Nat) : Option Nat := match tabGet 0 m k with
  | 0 => none
  | n + 1 => some n

/-- The moulds of a physical room as mapped, with the defects in use (05 R126, R154). -/
def mouldMap (s : State) (phys : Nat) : MouldMap :=
  let rows := (List.range 4).map fun m => spareOf s.health.map.rowMap (4 * phys + m)
  let cols := (List.range 4).map fun m => spareOf s.health.map.colMap (4 * phys + m)
  ⟨rows, cols, s.defects.filter fun d => d.room == phys && (d.mould == 4 || defectInUse (rows.getD d.mould none) (cols.getD d.mould none) d)⟩

/-- What the accesses of an op are checked against. -/
def envOf (s : State) (t : Task) (i : Image) (room op opc : Nat) : Env :=
  { P := s.params, offered := s.offered, ctx := t.ctx, checked := t.checked, room := room, op := op, opLists := opRegions (variantOf i t),
    var := variantOf i t, points := t.points, reams := i.reams, copy := copyOf i t room op opc,
    copy2 := if opc = 3 then copyOf i t room (op + 1) 3 else none, mould := mouldMap s (physIndexOf s room) }

/-- The part of the state that an op of the room changes. -/
def runOf (s : State) (x : Room) : Run := ⟨s.store, x.cells, x.act, x.counts, x.stats, x.wide, none, [], x.scale, x.vec, x.lanes, [], none, s.freeCtr⟩

/-- A fault of a room (06 R199): the first one stands. -/
def raiseFault (room op opc code iter line : Nat) (s : State) : State :=
  modRoom room (fun x => if x.fault.isSome then x else { x with fault := some ⟨code, room, op, opc, iter, line, 0⟩, reported := false }) s

/-- Keep the residue check that failed first, for the health unit (05 R158, R159). -/
def keepMismatch (m x : Option Mismatch) : Option Mismatch := match x with
  | some k => some k
  | none => m

/-- A store fault carries its address (08 R250). -/
def faultLine (code line : Nat) : Nat := if code / 256 = 5 then line else 0

/-- An uncorrectable read counts toward its bank (17 R494). -/
def noteRead (code line : Nat) (s : State) : State := if code = 0x503 ∨ code = 0x504 then noteBad line s else s

/-- What a run changed enters the state; a fault of the run is a fault of the room. -/
def commitRun (room op opc task : Nat) (r : Run) (s : State) : State :=
  let a := putStore r.st { s with freeCtr := r.free }
  let b := modTask task (fun t => { t with wrote := r.wrote ++ t.wrote }) a
  let c := modRoom room (fun x => { x with
    cells := r.cells, act := r.act, counts := r.counts, stats := r.stats, wide := r.wide, scale := r.scale, vec := r.vec, lanes := r.lanes,
    mismatch := keepMismatch r.mism x.mismatch }) b
  match r.fault with
  | none => c
  | some (code, iter, line) => noteRead code line (raiseFault room op opc code iter (faultLine code line) c)

/-- A room whose task runs: launched and not stopping, no fault of the room. -/
def roomRuns (s : State) (room : Nat) : Bool :=
  match roomTask s room with
  | some (t, _) => t.state == .launched && !t.halting && (roomOf s room).fault.isNone
  | none => false

/-! Issue (06 R192 to R194). -/

/-- The op number at the head of the op buffer, when the words there are these. -/
def headAt (x : Room) (w : OpWord) (w2 : Option OpWord) : Option Nat :=
  match x.opBuf, w2 with
  | (n, a) :: _, none => if a = w then some n else none
  | (n, a) :: (_, b) :: _, some c => if a = w ∧ b = c then some n else none
  | _, _ => none

/-- The OPC field (06 R165). -/
def opcAt (w : OpWord) : Nat := fld w 7 0

/-- Does a matrix op load its own later tiles (06 R175)? -/
def loadsTiles (w : OpWord) : Bool := (matFields w).loadb && (matFields w).stat != 2

/-- The gangs an op runs on; 15 stands for no gang. -/
def opGangs (w w2 : OpWord) : List Nat :=
  match opcAt w with
  | 1 | 2 | 4 | 5 | 7 => [fld w 23 20]
  | 3 => [fld w 23 20, fld w2 39 36, fld w2 23 20].filter (· != 15)
  | 16 => if fld w 23 20 = 15 then [] else [fld w 23 20]
  | _ => []

/-- The moulds of an op's gangs. -/
def opMoulds (w w2 : OpWord) : List Nat := (opGangs w w2).flatMap gangUnits

/-- The units an op engages (06 R193, 07 R208): bits of R167, and 16 + m for the load path of mould m. -/
def opUnits (w w2 : OpWord) : List Nat :=
  match opcAt w with
  | 1 | 2 => opMoulds w w2 ++ (if loadsTiles w then (opMoulds w w2).map (· + 16) else [])
  | 3 =>
    opMoulds w w2 ++ (if (matFields w).loadb then ((gangUnits (fld w 23 20)) ++ (if fld w2 39 36 = 15 then [] else gangUnits (fld w2 39 36))).map (· + 16) else []) ++
      (if fld w2 25 25 = 1 then (gangUnits (fld w2 23 20)).map (· + 16) else []) ++ [7]
  | 4 => (opMoulds w w2).map (· + 16)
  | 6 => [4]
  | 7 => opMoulds w w2
  | 8 => [7]
  | 9 | 10 => [6]
  | 11 => [5]
  | 12 => [9]
  | 13 => [8]
  | 16 => if fld w 23 20 = 15 then [4] else opMoulds w w2
  | _ => []

/-- The bits of AFTER that wait for an op: its units, the moulds of a `flip`, and bit 10 for a narrow access (06 R167, R193). R193 names bit 10 for an op that engages no unit;
the model lets it wait for the narrow access of every op (DESIGN CHOICE, log 100). -/
def opAfter (w w2 : OpWord) : List Nat :=
  ((opUnits w w2).map fun u => if 16 ≤ u then u - 16 else u) ++ (if opcAt w = 5 then opMoulds w w2 else []) ++
    (if slotNarrow (slotFields w) then [10] else [])

/-- The AFTER condition (06 R165). -/
def afterFree (x : Room) (w : OpWord) : Bool :=
  let m := fld w 19 8
  (x.inflight.all fun f => f.after.all fun b => !m.testBit b) && (!m.testBit 10 || x.narrow.isEmpty)

/-- The registers that an op's fields name. -/
def opRegs (w w2 : OpWord) : List Nat :=
  match opcAt w with
  | 1 | 2 => [fld w 137 134, fld w 177 174]
  | 3 => [fld w 137 134, fld w 177 174, fld w2 67 64, fld w2 147 144, fld w2 187 184]
  | 4 => [fld w 35 32]
  | 6 => [fld w 134 131, fld w 174 171]
  | 7 => [fld w 59 56, fld w 63 60, fld w 67 64, fld w 71 68, fld w 126 123]
  | 8 => [fld w 87 84, fld w 127 124]
  | 9 | 10 => [fld w 119 116, fld w 159 156]
  | 11 => [fld w 31 28, fld w 71 68]
  | 12 => [fld w 39 36]
  | 13 => [fld w 51 48]
  | 17 => [fld w 23 20, fld w 35 32]
  | _ => []

/-- The registers that a scalar slot reads or writes (06 R170). -/
def slotRegs (f : SlotF) : List Nat :=
  match f.sopc with
  | 0 => []
  | 2 | 3 | 9 => [f.d, f.a, f.imm % 16]
  | 8 => [f.d]
  | _ => [f.d, f.a]

/-- No register that the op or its slot names awaits a narrow load (06 R171). A load to g0, which discards what arrives, holds no later op that names g0 (DESIGN CHOICE,
log 86). -/
def regsFree (x : Room) (w w2 : OpWord) : Bool :=
  let rs := opRegs w w2 ++ slotRegs (slotFields w)
  x.narrow.all fun a => !a.load || a.reg == 0 || !rs.contains a.reg

/-- Does an op queue behind the running op of its gang (06 R194)? -/
def queues (opc : Nat) : Bool := opc == 1 || opc == 2 || opc == 3 || opc == 7 || opc == 16

/-- An issued op has work that has not entered its units (06 R193). -/
def opEngaged (f : InFlight) : Bool := decide (f.pos < f.total)

/-- The units of stage B of a pair and the press, with gang B's load paths where the op loads its tiles (07 R208). -/
def stageB (w2 : OpWord) : List Nat :=
  gangUnits (fld w2 23 20) ++ (if fld w2 25 25 = 1 then (gangUnits (fld w2 23 20)).map (· + 16) else []) ++ [7]

/-- The units that an issued op engages now (06 R193, 07 R208): gang A of a pair, its twin and their load paths until the last step of stage A has entered; the mover until the
last row of a `move` has been read; every other unit until the last work step has entered. -/
def engagedUnits (f : InFlight) : List Nat :=
  if opEngaged f then
    (match f.opc with
      | 3 => if pairIters (matFields f.word) (pairFields f.word2) ≤ f.pos - f.blk then stageB f.word2 else f.units
      | 11 => if 0 < moveReads (moveFields f.word) ∧ moveReads (moveFields f.word) ≤ f.pos then [] else f.units
      | _ => f.units)
  else []

/-- A gang can take one more op: it is free, or one op runs on exactly this gang (06 R194). -/
def gangFree (x : Room) (gang : Nat) : Bool :=
  let on := x.inflight.filter fun f => (engagedUnits f).any fun u => (gangUnits gang).contains u
  decide (on.length ≤ 1) && on.all fun f => f.gangs.contains gang

/-- Every unit that the op engages is free (06 R192 to R194). -/
def unitsFree (x : Room) (w w2 : OpWord) : Bool :=
  let opc := opcAt w
  let plain := (opUnits w w2).filter fun u => if queues opc then decide (4 ≤ u ∧ u < 16) else true
  (plain.all fun u => x.inflight.all fun f => !(engagedUnits f).contains u) && (!queues opc || (opGangs w w2).all (gangFree x))

/-- The paced unit of an engine room behind a bit of 06 R167: a mould that reads its shelf paces that too (02 R41). Load paths, halo and relay ports are no units of the rule. -/
def paceOf (room : Nat) (shelf : Bool) (u : Nat) : List PaceUnit :=
  if u < 4 then .mould room u :: (if shelf then [.shelf room u] else [])
  else match u with
    | 4 => [.chute room]
    | 5 => [.mover room]
    | 6 => [.sizer room]
    | 7 => [.press room]
    | _ => []

/-- The paced units of an op whose work is made as it issues (02 R41): the press of `rowf`, the sizer of `stat` and `resc`. -/
def wholePace (room : Nat) (w : OpWord) : List PaceUnit :=
  match opcAt w with
  | 8 => [.press room]
  | 9 | 10 => [.sizer room]
  | _ => []

/-- Every unit of a list may begin a cycle (02 R41). -/
def mayAll (s : State) (us : List PaceUnit) : Bool := us.all (mayCycle s)

/-- Every unit of a list takes a permit for a cycle (02 R41). -/
def takeAll : List PaceUnit → State → State
  | [], s => s
  | u :: us, s => takeAll us (takeCycle u s)

/-- The op may issue (06 R192), the snapshot not holding the halls (12 R375); the issue is a cycle of the room core, and takes its permit (02 R41). -/
def issueReady (s : State) (room opc : Nat) (w : OpWord) (w2 : Option OpWord) : Bool :=
  let x := roomOf s room
  match roomTask s room with
  | none => false
  | some (t, _) =>
    opcAt w == opc && (headAt x w w2).isSome && t.state == .launched && !t.halting && x.hold == .none && x.fault.isNone && !s.shell.snap.frozen &&
      afterFree x w && regsFree x w (w2.getD 0) && unitsFree x w (w2.getD 0) && mayAll s (.roomCore room :: wholePace room w)

/-- Take an op's words off the op buffer: the op has issued. -/
def popOps (room k : Nat) (s : State) : State := modRoom room (fun x => { x with opBuf := x.opBuf.drop k, issued := x.issued + 1 }) s

/-- Ends of gaps on the units that an op engages (16 R469). -/
def endGaps (room : Nat) : List Nat → State → State
  | [], s => s
  | u :: us, s => endGaps room us (if u ≤ 4 then endGap room u s else s)

/-- Does the op take its values from an annex (07 R211)? -/
def usesAnnex (w w2 : OpWord) : Bool :=
  match opcAt w with
  | 3 => fnUsesAnnex (pairFields w2).func
  | 8 => fnUsesAnnex (rowfFields w).func
  | _ => false

/-- The work steps of an op (log 55): those of the fills of a matrix op, the iterations of `ewa`, the steps of a pair's stages and of chute passes, the rows of a `move`, the words of
the tiles of a `relay` or of an `lds` that takes from the relay port; one for every other. -/
def opSteps (w w2 : OpWord) : Nat :=
  match opcAt w with
  | 1 | 2 => (matFields w).iter * matChunks (matFields w)
  | 3 => pairIters (matFields w) (pairFields w2) + pairBlocks (matFields w) (pairFields w2)
  | 6 => (chuteFields w).iter * chuteSteps (chuteFields w)
  | 7 => (ewaFields w).iter
  | 4 => if (ldsFields w).relay then tileWords (gangTileBytes (ldsFields w).gang (ldsFields w).fmt (ldsPaired (ldsFields w))) else 1
  | 11 => moveSteps (moveFields w)
  | 13 => (relayFields w).tiles * tileWords (relayBytes (relayFields w))
  | _ => 1

/-- An issued op engages its units, with `pos` of its work done. `x` is the room as it issued. -/
def engage (room n : Nat) (x : Room) (w w2 : OpWord) (pos : Nat) (s : State) : State :=
  endGaps room (opUnits w w2)
    (modRoom room (fun y => { y with inflight := y.inflight ++
      [⟨n, opcAt w, opUnits w w2, opAfter w w2, opGangs w w2, x.issued, w, w2, x.g, pos, opSteps w w2, [], [], [], [], [], 0, partNone⟩] }) s)

/-- The fault that a narrow access meets at issue (06 R171, R164, R196, 08 R239), 0 for none, and its line. -/
def slotFault (E : Env) (st : Store) (g : Tab (BitVec 32)) (w : OpWord) : Nat × Nat :=
  let f := slotFields w
  if slotNarrow f then
    if narrowOk (slotOffset g f) then
      (accessFault E st 255 (f.sopc == 11) (pantryAddr E.room (slotOffset g f)) 4, pantryAddr E.room (slotOffset g f) / 64)
    else (0x302, 0)
  else (0, 0)

/-- The scalar slot (06 R170): it sees the registers as the op does; a narrow access waits for its service. -/
def slotPart (room n : Nat) (x : Room) (w : OpWord) (s : State) : State :=
  let f := slotFields w
  let g := x.g
  if slotNarrow f then
    modRoom room (fun y => { y with narrow := y.narrow ++ [⟨x.issued, n, opcAt w, f.sopc == 10, f.d, slotOffset g f, tabGet 0 g f.d, false⟩] }) s
  else match slotValue g f with
    | some v => modRoom room (fun x => { x with g := setG x.g f.d v }) s
    | none => s

/-- Issue an op: its words leave the buffer, its effect is made, then its scalar slot. An op whose narrow access faults has no effect of its own (log 54). Where the slot of a
`bkt` names DREG as its own D, the slot's value, written last, stands: the manual does not say which (DESIGN CHOICE, log 86). -/
def issueWith (room opc k : Nat) (w : OpWord) (body : Env → Room → Task → Nat → State → State) (s : State) : State :=
  let x := roomOf s room
  match roomTask s room, x.opBuf with
  | some (t, i), (n, _) :: _ =>
    let E := envOf s t i room n opc
    let p := popOps room k (takeAll (.roomCore room :: wholePace room w) s)
    let sf := slotFault E s.store x.g w
    if sf.1 ≠ 0 then raiseFault room n opc sf.1 0 (faultLine sf.1 sf.2) p
    else slotPart room n x w (body E x t n p)
  | _, _ => s

/-- An op whose work enters its unit as a whole: it is made in the step of its issue. -/
def wholeBody (room : Nat) (w : OpWord) (run : Env → Room → Run → Run) (E : Env) (x : Room) (t : Task) (n : Nat) (s : State) : State :=
  commitRun room n (opcAt w) t.num (run E x (runOf s x)) (engage room n x w 0 1 s)

/-! Arrival at a sync (02 R49). -/

/-- A room that waits at a `sync` arrives once all its earlier ops have retired and its stores have landed. -/
def noteArrival (room : Nat) (s : State) : State :=
  let x := roomOf s room
  match x.hold with
  | .sync op gr target since none =>
    if x.inflight.isEmpty ∧ x.narrow.isEmpty then modRoom room (fun x => { x with hold := .sync op gr target since (some (upBeat s)) }) s else s
  | _ => s

end Sys2Proof.Machine
end

