-- ==== Sys2Proof/Machine/WorkOps.lean ====
section
/-!
DEFINITION. The work of issued ops (06 R193 to R195, log 55): an op whose work takes many cycles goes on one work step at a time (an iteration, a chute step, a tile), and
steps of different units interleave. Which steps are held back (05 R136, R140, 06 R180, R189, R194, 09 R263), what one step does, relay tiles, halo regions,
signals and annex elements on their way.
-/
namespace Sys2Proof.Machine

/-! Relay chains (06 R186, 09 R262, R263). -/

/-- The rooms after a room on its chain, by position (09 R262). -/
def chainAfter (V : Variant) (room : Nat) : List Nat :=
  match V.chains.find? (fun c => c.room == room) with
  | none => []
  | some c =>
    let mine := V.chains.filter fun d => d.chain == c.chain
    (List.range mine.length).filterMap fun k => if c.pos < k then (mine.find? fun d => d.pos == k).map (·.room) else none

/-- The bytes of a tile that stand in the relay buffer: arrived, and not yet both written and sent on. -/
def tileHeld (t : RelayTile) : Nat := t.bytes.length - min t.taken t.sent

/-- The bytes in a relay buffer. -/
def relayHeld (x : Room) : Nat := (x.relay.map tileHeld).sum

/-- The relay buffer of 16 KiB has room for a word (09 R263). -/
def relayRoom (x : Room) : Bool := decide (relayHeld x + relayWord ≤ 16384)

/-- A word joins the tile that is arriving, or begins the next one; what reaches the last of its chain goes nowhere further. -/
def relayPut (size : Nat) (last : Bool) (bs : List Byte) : List RelayTile → List RelayTile
  | [] => [⟨size, bs, 0, if last then size else 0⟩]
  | t :: ts => if t.bytes.length < t.size then { t with bytes := t.bytes ++ bs } :: ts else t :: relayPut size last bs ts

/-- A word of a tile of `size` bytes arrives at the relay port of a room. -/
def relayArrive (room size : Nat) (last : Bool) (bs : List Byte) (s : State) : State :=
  modRoom room (fun x => { x with relay := relayPut size last bs x.relay }) s

/-- Tiles that have been both written and sent on whole leave (09 R263). -/
def relayDone (ts : List RelayTile) : List RelayTile := ts.filter fun t => !(decide (t.size ≤ t.taken) && decide (t.size ≤ t.sent))

/-- The tile that the next `lds` word comes from, and the one that the next word sent on does. -/
def relayTaking (x : Room) : Option RelayTile := x.relay.find? fun t => decide (t.taken < t.size)

/-- The tile whose words go downstream next. -/
def relaySending (x : Room) : Option RelayTile := x.relay.find? fun t => decide (t.sent < t.size)

/-- Change the first tile that a test accepts. -/
def markFirst (p : RelayTile → Bool) (f : RelayTile → RelayTile) : List RelayTile → List RelayTile
  | [] => []
  | t :: ts => if p t then f t :: ts else t :: markFirst p f ts

/-- A word more of the tile being taken has been written. -/
def takeTileWord (ts : List RelayTile) : List RelayTile :=
  relayDone (markFirst (fun t => decide (t.taken < t.size)) (fun t => { t with taken := min t.size (t.taken + relayWord) }) ts)

/-- A word more of the tile being sent has gone downstream. -/
def sendTileWord (ts : List RelayTile) : List RelayTile :=
  relayDone (markFirst (fun t => decide (t.sent < t.size)) (fun t => { t with sent := min t.size (t.sent + relayWord) }) ts)

/-! What holds a step back. -/

/-- The units, and load paths as 16 + m, that the next step of an op touches: steps of ops that share one go in the order of issue (05 R128, R135, R136, 06 R194). -/
def touches (f : InFlight) : List Nat :=
  let moulds := f.gangs.flatMap gangUnits
  let paths := moulds.map (· + 16)
  match f.opc with
  | 1 | 2 => if f.pos = 0 then moulds else f.units
  | 3 => if f.pos = 0 then moulds else engagedUnits f
  | 4 => paths
  | 5 => moulds ++ paths
  | _ => f.units

/-- An earlier op that has not entered holds the step back. -/
def heldBack (x : Room) (f : InFlight) : Bool :=
  x.inflight.any fun g => opEngaged g && decide (g.seq < f.seq) && (touches g).any (touches f).contains

/-- A tile of a matrix op whose wide partial a `chute` with WIDE is still to leave in the drain set (06 R180). -/
def wideMissing (E : Env) (x : Room) (f : InFlight) : Bool :=
  let m := matFields f.word
  let trans := f.opc == 2
  let i := f.pos / matChunks m
  let k := f.pos % matChunks m
  mergesWide E m.ipt && lastPart m i && (m.stat != 2 || k + 1 == matChunks m) &&
    (x.inflight.any fun g => g.opc == 6 && opEngaged g && decide (g.seq < f.seq) && (chuteFields g.word).wide && (chuteFields g.word).opt == m.opt) &&
    (List.range (if m.stat = 2 then gangRows m.gang else chunkSteps m k)).any fun n =>
      let v := if m.stat = 2 then n else k * fillChunk + n
      (List.range (if m.stat = 2 then gangCols m.gang else outSpan m.gang trans (isPaired m.fmtS m.fmtT))).any fun j =>
        (wideAt E x.wide m.opt (i % m.q) (rowKey m.stat v j) (chanPos m.stat v j)).isNone

/-- No word of the tile has arrived beyond the first `n` bytes. -/
def wordMissing (n : RelayTile → Nat) (t : Option RelayTile) : Bool := match t with
  | some t => decide (t.bytes.length ≤ n t)
  | none => true

/-- The next step of an op waits for something beside its units: a partial of the chute, an annex, a word of the relay port, the drain set, room in the next relay
buffer, the other side of a halo, the ops before a `signal` (05 R140, 06 R180, R185, R189, 07 R218, 09 R263). The cycles of `stuff` end when it retires. -/
def stepWaits (s : State) (E : Env) (x : Room) (f : InFlight) : Bool :=
  match f.opc with
  | 1 | 2 => wideMissing E x f
  | 3 => x.annex.isSome
  | 4 => (ldsFields f.word).relay && wordMissing (·.taken) (relayTaking x)
  | 6 => (f.pos + 1) % chuteSteps (chuteFields f.word) == 0 && !x.wide.isEmpty
  | 8 | 12 | 16 => true
  | 13 => (match chainAfter E.var E.room with
    | [] => false
    | n :: _ => !relayRoom (roomOf s n)) || ((relayFields f.word).forward && wordMissing (·.sent) (relaySending x))
  | 19 => (match x.inflight with
    | g :: _ => g.seq != f.seq
    | [] => true) || x.narrow.any fun a => decide (a.seq < f.seq)
  | _ => false

/-- The op of this place in the order of issue. -/
def flightOf (x : Room) (seq : Nat) : Option InFlight := x.inflight.find? fun f => f.seq == seq

/-- The paced units whose cycles a step of an op begins (02 R41): a step stands for several cycles, and takes one permit of each (DESIGN CHOICE, log 101). -/
def stepPace (room : Nat) (f : InFlight) : List PaceUnit :=
  (engagedUnits f).flatMap (paceOf room (f.opc == 1 || f.opc == 2 || f.opc == 3 || f.opc == 7))

/-- The next step of an issued op can go. -/
def stepReady (s : State) (room : Nat) (f : InFlight) : Bool :=
  match roomTask s room with
  | none => false
  | some (t, i) =>
    roomRuns s room && !s.shell.snap.frozen && opEngaged f && mayAll s (stepPace room f) && !heldBack (roomOf s room) f &&
      !stepWaits s (envOf s t i room f.op f.opc) (roomOf s room) f

/-! What a step does. -/

/-- Begin gaps on moulds and the chute that no op engages any more (16 R469). -/
def startGaps (room : Nat) : List Nat → State → State
  | [], s => s
  | u :: us, s =>
    startGaps room us (if u ≤ 4 ∧ (roomOf s room).inflight.any (fun f => (engagedUnits f).contains u) = false then startGap room u s else s)

/-- Put an issued op back as a step leaves it; units whose work has all entered are free (06 R193). -/
def setFlight (room : Nat) (f : InFlight) (s : State) : State :=
  let a := modRoom room (fun x => { x with inflight := x.inflight.map fun g => if g.seq = f.seq then f else g }) s
  startGaps room (f.units.filter fun u => !(engagedUnits f).contains u) a

/-- A step's run and the op as it leaves it enter the state. -/
def commitStep (room task : Nat) (q : Run × InFlight) (s : State) : State := setFlight room q.2 (commitRun room q.2.op q.2.opc task q.1 s)

/-- The annex slot that a TABLE field names (07 R212). -/
def annexSlot (table : Nat) : Nat := table % 8

/-- Elements as transfers of the crossing: up to 64, and none past the end of a row (12 R353). -/
def cutTransfers : List AnnexElem → List AnnexElem → List (List AnnexElem)
  | [], [] => []
  | [], cur => [cur]
  | e :: es, cur =>
    if e.rowEnd ∨ cur.length = 63 then (cur ++ [e]) :: cutTransfers es [] else cutTransfers es (cur ++ [e])

/-- The transfers of a press's elements that stand in the crossing: sent and not answered. -/
def openTransfers (j : AnnexJob) : Nat := (cutTransfers ((j.sent.drop j.results.length).map (·.1)) []).length

/-- The entries of a slot's crossing that the presses of a hall but `room`'s have filled: a slot has one set of crossings in every hall (12 R351). -/
def crossingUsed (s : State) (room slot : Nat) : Nat :=
  (s.rooms.map fun e => if e.1 ≠ room ∧ e.1 / 16 = room / 16 then (match e.2.annex with
    | some j => if j.slot = slot then openTransfers j else 0
    | none => 0) else 0).sum

/-- The press sends while the crossing FIFO of 16 transfers has room, `used` of it being filled by other presses of the hall (02 R62, 12 R351); an entry is free again once its
elements are answered (log 87). -/
def fillCrossing (used now : Nat) (j : AnnexJob) : AnnexJob :=
  let es := ((cutTransfers j.toSend []).take (16 - used - openTransfers j)).flatten
  { j with toSend := j.toSend.drop es.length, sent := j.sent ++ es.map fun e => (e, now) }

/-- Elements set out for an annex (07 R218). -/
def startAnnex (room slot : Nat) (pairOp : Bool) (f : InFlight) (es : List AnnexElem) (s : State) : State :=
  modRoom room (fun x => { x with annex := some (fillCrossing (crossingUsed s room slot) (upBeat s) ⟨f.op, f.seq, slot, pairOp, es, [], []⟩) }) s

/-- Entries of a slot's crossing have come free: the press of a room sends on. -/
def sendOn (slot room : Nat) (s : State) : State :=
  modRoom room (fun x => { x with annex := x.annex.map fun j => if j.slot = slot then fillCrossing (crossingUsed s room slot) (upBeat s) j else j }) s

/-- The presses of a hall send on, in the order of their rooms; the manual names no order among them (DESIGN CHOICE, log 87). -/
def sendAllOn (slot hall : Nat) (s : State) : State := ((s.rooms.map (·.1)).filter fun r => r / 16 == hall).foldl (fun s r => sendOn slot r s) s

/-- One step of a pair: a couched block of an annex function is sent to its slot before it goes on (07 R204, R218). -/
def pairWork (room : Nat) (E : Env) (x : Room) (t : Task) (f : InFlight) (s : State) : State :=
  let m := matFields f.word
  let p := pairFields f.word2
  if fnUsesAnnex p.func && f.tiles.length == p.ratio then startAnnex room (annexSlot p.table) true f (pairAnnexElems E m p f (runOf s x)) s
  else commitStep room t.num (pairStep E m p x.press [] f (runOf s x)) s

/-- One step of `lds`: the whole tile of the store, or the next word of the relay port; the cells hold a relayed tile when its last word is written (06 R179, 05 R134). -/
def ldsWork (room : Nat) (E : Env) (x : Room) (t : Task) (f : InFlight) (s : State) : State :=
  let l := ldsFields f.word
  let next := { f with pos := f.pos + 1 }
  if l.relay then
    match relayTaking x with
    | some k => setFlight room next (modRoom room (fun y => { y with
        cells := if k.size ≤ k.taken + relayWord then loadGang y.cells y.act l.gang l.fmt (ldsPaired l) k.bytes else y.cells
        relay := takeTileWord y.relay }) s)
    | none => s
  else commitStep room t.num (runLds E f.regs l (runOf s x), next) s

/-- One word of `relay` goes downstream: read at position 0, of the relay buffer in the middle (06 R186, 09 R262, R263). -/
def relayWork (room : Nat) (E : Env) (x : Room) (t : Task) (f : InFlight) (s : State) : State :=
  let l := relayFields f.word
  let next := { f with pos := f.pos + 1 }
  let rest := chainAfter E.var room
  let send (bs : List Byte) (s : State) : State := match rest with
    | n :: ns => relayArrive n (relayBytes l) ns.isEmpty bs s
    | [] => s
  if l.forward then
    match relaySending x with
    | some k => send ((k.bytes.drop k.sent).take relayWord) (setFlight room next (modRoom room (fun y => { y with relay := sendTileWord y.relay }) s))
    | none => s
  else
    let q := wordToRelay E f.regs l f.pos (runOf s x)
    let c := commitStep room t.num (q.1, next) s
    if q.1.fault.isSome then c else send q.2 c

/-- Add 1 to a counter of a room; a `wait` that it satisfies is released (06 R189). -/
def addSignal (room c : Nat) (s : State) : State :=
  modRoom room (fun y =>
    let v := tabGet 0 y.ctr c + 1
    match y.hold with
    | .wait _ d k _ => if d = c ∧ k ≤ v then { y with hold := .none, ctr := tabPut 0 y.ctr c (v - k) } else { y with ctr := tabPut 0 y.ctr c v }
    | _ => { y with ctr := tabPut 0 y.ctr c v }) s

/-- A `signal` is sent: it retires, and a counter that would pass 65,535 keeps its value and the signalling room faults (06 R189). -/
def signalWork (room : Nat) (f : InFlight) (s : State) : State :=
  let peer := fld f.word 31 24
  let c := fld f.word 23 20
  if tabGet 0 (roomOf s peer).ctr c = 65535 then raiseFault room f.op 19 0x304 0 0 s
  else addSignal peer c (modRoom room (fun y => { y with inflight := y.inflight.filter fun g => g.seq != f.seq }) s)

/-- The check that a `stuff` fails (05 R152, R157): its operands are finite, and its products carry a defect's error. -/
def stuffMismatch (M : MouldMap) (f : InFlight) : Option Mismatch :=
  firstFound (M.defects.filter fun d => f.units.contains d.mould) fun d =>
    if d.mould = 4 then (if d.err % 4095 = 0 then none else some ⟨4, false, false, d.index⟩)
    else defectFound M false true 1 1 (fun err _ _ => err % 4095 != 0) (fun err _ _ => err % 4095 != 0) d

/-- The cycles of a `stuff` are over (06 R193): it wrote nothing, and its checks resolve. -/
def stuffWork (room : Nat) (E : Env) (x : Room) (t : Task) (f : InFlight) (s : State) : State :=
  commitStep room t.num (noteMismatch (runOf s x) 0 (stuffMismatch E.mould f), { f with pos := f.total }) s

/-- One step of an issued op. -/
def runStep (room : Nat) (f : InFlight) (s : State) : State :=
  match roomTask s room with
  | none => s
  | some (t, i) =>
    let x := roomOf s room
    let E := envOf s t i room f.op f.opc
    match f.opc with
    | 1 => commitStep room t.num (matStep E (matFields f.word) false f (runOf s x)) s
    | 2 => commitStep room t.num (matStep E (matFields f.word) true f (runOf s x)) s
    | 3 => pairWork room E x t f s
    | 4 => ldsWork room E x t f s
    | 5 => setFlight room { f with pos := f.pos + 1 } (modRoom room (fun y => { y with act := flipGang y.act (fld f.word 23 20) }) s)
    | 6 => commitStep room t.num (chuteStep E (chuteFields f.word) f (runOf s x)) s
    | 7 => commitStep room t.num (ewaIter E f.regs (ewaFields f.word) (runOf s x) f.pos, { f with pos := f.pos + 1 }) s
    | 11 => commitStep room t.num (moveStep E (moveFields f.word) f (runOf s x)) s
    | 13 => relayWork room E x t f s
    | 16 => stuffWork room E x t f s
    | 19 => signalWork room f s
    | _ => s

/-- One step of an issued op, which takes the permits of the cycles that it begins (02 R41). -/
def pacedStep (room : Nat) (f : InFlight) (s : State) : State := runStep room f (takeAll (stepPace room f) s)

/-- The next step of the op at this place, if it can go. -/
def stepOnce (room seq : Nat) (s : State) : State :=
  match flightOf (roomOf s room) seq with
  | some f => if stepReady s room f then pacedStep room f s else s
  | none => s

/-- Steps of the op at this place, one after another as long as they can go. -/
def stepMany (room seq : Nat) : Nat → State → State
  | 0, s => s
  | n + 1, s => match flightOf (roomOf s room) seq with
    | some f => if stepReady s room f then stepMany room seq n (pacedStep room f s) else s
    | none => s

/-- Signals whose earlier ops have all retired are sent (06 R189): each is at the head of the issued ops in its turn. -/
def sendSignals (room : Nat) : Nat → State → State
  | 0, s => s
  | n + 1, s => match (roomOf s room).inflight with
    | f :: _ => if f.opc = 19 ∧ stepReady s room f = true then sendSignals room n (pacedStep room f s) else s
    | [] => s

/-- After something of a room has ended: signals go out, and a `sync` finds its earlier ops retired (06 R189, 02 R49). -/
def settle (room : Nat) (s : State) : State := noteArrival room (sendSignals room (roomOf s room).inflight.length s)

/-- One step of every issued op of a room that can go, in the order of issue. -/
def advanceRoom (room : Nat) (s : State) : State :=
  settle room (((roomOf s room).inflight.map (·.seq)).foldl (fun s k => stepOnce room k s) s)

/-- Time passes: one step of every issued op of the engine that can go (log 55). -/
def advanceRooms (s : State) : State := (s.rooms.map (·.1)).foldl (fun s r => advanceRoom r s) s

/-- An op whose work goes on step by step: it engages its units, and its first step is made if it can go (06 R194). -/
def stepBody (room : Nat) (w w2 : OpWord) (_E : Env) (x : Room) (_t : Task) (n : Nat) (s : State) : State :=
  stepOnce room x.issued (engage room n x w w2 0 s)

end Sys2Proof.Machine
end

