-- ==== Sys2Proof/Machine/TileOps.lean ====
section
/-!
DEFINITION. The tile ops (06_tile_ops R165 to R191, 07 R200, 05 R135, R145, R152): one meaning per op. An op whose work takes many cycles makes its first work step as it
issues and goes on as time passes; every other makes its data effect as it issues (log 55).
-/
namespace Sys2Proof.Machine

/-- A tile op: its effect where it may issue (06 R192). -/
def tileOp (room opc : Nat) (w : OpWord) (s : State) (body : Env → Room → Task → Nat → State → State) : Host.Outcome State Fault Refusal :=
  dueAt (hasRoom s room) (issueReady s room opc w none) s (issueWith room opc 1 w body s)

/-- `mma` (06 R172 to R178). -/
def execMma (room : Nat) (w : OpWord) (s : State) : Host.Outcome State Fault Refusal := tileOp room 1 w s (stepBody room w 0)

/-- `mmt` (06 R172): transposed use. -/
def execMmt (room : Nat) (w : OpWord) (s : State) : Host.Outcome State Fault Refusal := tileOp room 2 w s (stepBody room w 0)

/-- `pair` (07 R200 to R208): two slots, one op. -/
def execPair (room : Nat) (w w2 : OpWord) (s : State) : Host.Outcome State Fault Refusal :=
  dueAt (hasRoom s room) (issueReady s room 3 w (some w2)) s (issueWith room 3 2 w (stepBody room w w2) s)

/-- `lds` (06 R179, 05 R134). -/
def execLds (room : Nat) (w : OpWord) (s : State) : Host.Outcome State Fault Refusal := tileOp room 4 w s (stepBody room w 0)

/-- `flip` (05 R135). -/
def execFlip (room : Nat) (w : OpWord) (s : State) : Host.Outcome State Fault Refusal := tileOp room 5 w s (stepBody room w 0)

/-- The body of `chute`: an op that does nothing in beater mode retires at issue (04 R110). -/
def chuteBody (room : Nat) (w : OpWord) (E : Env) (x : Room) (t : Task) (n : Nat) (s : State) : State :=
  if chuteSkips E (chuteFields w) then s else stepBody room w 0 E x t n s

/-- `chute` (06 R180, 05 R148 to R151). -/
def execChute (room : Nat) (w : OpWord) (s : State) : Host.Outcome State Fault Refusal := tileOp room 6 w s (chuteBody room w)

/-- `ewa` (06 R181, 05 R145). -/
def execEwa (room : Nat) (w : OpWord) (s : State) : Host.Outcome State Fault Refusal := tileOp room 7 w s (stepBody room w 0)

/-- The body of `rowf`: an annex function reads its rows and sends their elements, and the rows are written when the results have come (07 R217, R218). -/
def rowfBody (room : Nat) (w : OpWord) (E : Env) (x : Room) (t : Task) (n : Nat) (s : State) : State :=
  let f := rowfFields w
  if fnUsesAnnex f.func then
    let q := rowfElems E x.g f (runOf s x)
    let c := commitRun room n 8 t.num q.1 (engage room n x w 0 0 s)
    match q.1.fault, flightOf (roomOf c room) x.issued with
    | none, some fl => startAnnex room (annexSlot f.table) false fl q.2 c
    | _, _ => c
  else wholeBody room w (fun E x r => runRowf E x.g x.press f r) E x t n s

/-- `rowf` (06 R182, 07 R217). -/
def execRowf (room : Nat) (w : OpWord) (s : State) : Host.Outcome State Fault Refusal := tileOp room 8 w s (rowfBody room w)

/-- `stat` (06 R183, 04 R120 to R123). -/
def execStat (room : Nat) (w : OpWord) (s : State) : Host.Outcome State Fault Refusal :=
  tileOp room 9 w s (wholeBody room w fun E x r => runStat E x.g (directFields w) r)

/-- `resc` (06 R183, 04 R99, R101). -/
def execResc (room : Nat) (w : OpWord) (s : State) : Host.Outcome State Fault Refusal :=
  tileOp room 10 w s (wholeBody room w fun E x r => runResc E x.g (directFields w) r)

/-- `move` (06 R184). -/
def execMove (room : Nat) (w : OpWord) (s : State) : Host.Outcome State Fault Refusal :=
  tileOp room 11 w s (stepBody room w 0)

/-! `halo` (06 R185). -/

/-- The receive of a peer that waits for a send of this room with this tag. -/
def waitingReceive (x : Room) (room tag : Nat) : Option HaloSlot := x.halos.find? fun h => h.peer == room && h.tag == tag && !h.arrived

/-- The bytes of a send that arrived ahead of its receive. -/
def arrivedSend (x : Room) (peer tag : Nat) : Option HaloSlot := x.halos.find? fun h => h.peer == peer && h.tag == tag && h.arrived && decide (h.rows ≠ 0)

/-- Note at the sending room that its send has met receive `rop` of the peer (06 R193): a mark of no rows. -/
def markSent (room peer tag op rop : Nat) (s : State) : State :=
  modRoom room (fun x => { x with halos := x.halos ++ [⟨peer, tag, true, [], op, rop, 0, 0, 0⟩] }) s

/-- The receive of this number has landed: its engagement ends (06 R193). -/
def recvLanded (room op : Nat) (s : State) : State :=
  modRoom room (fun x => { x with inflight := x.inflight.map fun f => if f.op = op ∧ f.opc = 12 then { f with pos := f.total } else f }) s

/-- Land bytes in the local region of a receive of `room`. -/
def landHalo (room op : Nat) (h : HaloSlot) (bs : List Byte) (s : State) : State :=
  match roomTask s room with
  | some (t, i) =>
    let x := roomOf s room
    recvLanded room op (commitRun room op 12 t.num (haloWrite (envOf s t i room op 12) h.base h.pitch h.rows h.rb bs (runOf s x)) s)
  | none => s

/-- A send reads its region and streams it to the peer (06 R185); its engagement ends with the last read. -/
def haloSend (room : Nat) (f : HaloF) (E : Env) (x : Room) (t : Task) (n : Nat) (s : State) : State :=
  let q := haloRead E (opAddr x.g f.lReg f.lOff 64) f (runOf s x)
  let c := commitRun room n 12 t.num q.1 s
  if q.1.fault.isSome then c
  else match waitingReceive (roomOf c f.peer) room f.tag with
    | some h => landHalo f.peer h.op h q.2 (modRoom f.peer (fun y => { y with halos := y.halos.erase h }) (markSent room f.peer f.tag n h.op c))
    | none => modRoom f.peer (fun y => { y with halos := y.halos ++ [⟨room, f.tag, true, q.2, n, 0, 0, f.rows, f.rb⟩] }) c

/-- A receive lands what has arrived, or waits for its send. -/
def haloRecv (room : Nat) (f : HaloF) (x : Room) (n : Nat) (s : State) : State :=
  let h : HaloSlot := ⟨f.peer, f.tag, false, [], n, opAddr x.g f.lReg f.lOff 64, f.pitch, f.rows, f.rb⟩
  match arrivedSend x f.peer f.tag with
  | some a => landHalo room n h a.bytes (markSent f.peer room f.tag a.op n (modRoom room (fun y => { y with halos := y.halos.erase a }) s))
  | none => modRoom room (fun y => { y with halos := y.halos ++ [h] }) s

/-- The body of `halo`. -/
def haloBody (room : Nat) (w : OpWord) (E : Env) (x : Room) (t : Task) (n : Nat) (s : State) : State :=
  let f := haloFields w
  if f.recv then haloRecv room f x n (engage room n x w 0 0 s) else haloSend room f E x t n (engage room n x w 0 1 s)

/-- `halo` (06 R185). -/
def execHalo (room : Nat) (w : OpWord) (s : State) : Host.Outcome State Fault Refusal := tileOp room 12 w s (haloBody room w)

/-- `relay` (06 R186). -/
def execRelay (room : Nat) (w : OpWord) (s : State) : Host.Outcome State Fault Refusal := tileOp room 13 w s (stepBody room w 0)

/-- `sync` (06 R188, 02 R49): the room issues nothing further until the release. -/
def execSync (room : Nat) (w : OpWord) (s : State) : Host.Outcome State Fault Refusal :=
  tileOp room 14 w s fun _ _ _ n p =>
    noteArrival room (modRoom room (fun y => { y with hold := .sync n (fld w 25 20) (fld w 63 32) (upBeat s) none }) p)

/-- `hint` (06 R187, 16 R463): it acts on the governor alone. -/
def execHint (room : Nat) (w : OpWord) (s : State) : Host.Outcome State Fault Refusal :=
  tileOp room 15 w s fun _ _ t _ p => hintHall (room / 16) (fld w 23 20) t.ctx (fld w 31 24) (fld w 51 48) (fld w 47 32) p

/-- `stuff` (05 R152): it writes nothing; its residues are checked like any other's (05 R157, R158) by the time its cycles are over. -/
def execStuff (room : Nat) (w : OpWord) (s : State) : Host.Outcome State Fault Refusal :=
  tileOp room 16 w s fun _ x _ n p => engage room n x w 0 0 p

/-- The bucket of `bkt`: its size and target (06 R190). -/
def bucketOf (reams : List ReamRec) (w : OpWord) (len : Nat) : Option (Nat × Nat) :=
  match reams.find? (fun r => r.ream == fld w 29 24) with
  | none => none
  | some r => ((List.range 8).filterMap fun j => (r.sizes[j]?).map fun z => (z, fld w (63 + 16 * j) (48 + 16 * j))).find? fun p => decide (len ≤ p.1)

/-- `bkt` (06 R190): the op buffer is emptied, and the list goes on at the bucket's target. -/
def execBkt (room : Nat) (w : OpWord) (s : State) : Host.Outcome State Fault Refusal :=
  tileOp room 17 w s fun E x _ n p =>
    match bucketOf E.reams w (tabGet 0 x.g (fld w 23 20)).toNat with
    | some (size, target) =>
      modRoom room (fun y => { y with g := setG y.g (fld w 35 32) (BitVec.ofNat 32 size), opBuf := [], fetchNext := target }) p
    | none => raiseFault room n 17 0x303 0 0 p

/-- `wait` (06 R189): issue holds until the counter is at least COUNT, which is then subtracted. -/
def execWait (room : Nat) (w : OpWord) (s : State) : Host.Outcome State Fault Refusal :=
  tileOp room 18 w s fun _ x _ n p =>
    let c := fld w 23 20
    let k := fld w 47 32
    if k ≤ tabGet 0 x.ctr c then modRoom room (fun y => { y with ctr := tabPut 0 y.ctr c (tabGet 0 y.ctr c - k) }) p
    else modRoom room (fun y => { y with hold := .wait n c k (upBeat s) }) p

/-- `signal` (06 R189): it engages no unit, and it is sent once every op issued before it has retired and its stores have landed. -/
def execSignal (room : Nat) (w : OpWord) (s : State) : Host.Outcome State Fault Refusal := tileOp room 19 w s (stepBody room w 0)

/-- `end` (06 R191): nothing issues any more. -/
def execEndOp (room : Nat) (w : OpWord) (s : State) : Host.Outcome State Fault Refusal :=
  tileOp room 20 w s fun _ _ _ _ p => modRoom room (fun y => { y with hold := .ended }) p

end Sys2Proof.Machine
end

