-- ==== Sys2Proof/Machine/RoomEvents.lean ====
section
/-!
DEFINITION. The events of rooms: op fetch (06 R163), narrow accesses (06 R171, 08 R227), retirement (06 R193), releases of `sync` (02 R49, R50), the faults that
time brings (06 R198, 02 R39, 07 R218, 12 R356), results of annexes (12 R353), stream ports (12 R355).
-/
namespace Sys2Proof.Machine

/-- A fetch of op list words can start (06 R163). -/
def opFetchReady (s : State) (room : Nat) : Bool :=
  let x := roomOf s room
  roomRuns s room && !s.shell.snap.frozen && decide (x.opBuf.length ≤ 48) && decide (x.fetchNext < x.listOps)

/-- How many words of the list stand from the next one to the end of its line of 16. -/
def fetchCount (x : Room) : Nat := min x.listOps (x.fetchNext / 16 * 16 + 16) - x.fetchNext

/-- Those words. -/
def fetchWords (s : State) (x : Room) : List (Nat × OpWord) :=
  (List.range (fetchCount x)).map fun k =>
    (x.fetchNext + k, BitVec.ofNat 256 (leVal (memBytes s.store (x.listBase + 32 * (x.fetchNext + k)) 32)))

/-- The fault that a fetch meets before it is made, 0 for none (08 R222, R239). -/
def fetchFault (s : State) (x : Room) (ctx : Nat) : Nat :=
  let a := x.listBase + 32 * x.fetchNext
  let n := 32 * fetchCount x
  if spanUnmapped s.params s.offered a n then 0x501 else if admitted s.store ctx false a n then 0 else 0x502

/-- The effect of OP_FETCH: one line of 512 B enters the op buffer. A store error that the fetch meets is recorded with the number of the next op to fetch and opcode 0: no
op made the access (DESIGN CHOICE, log 88). -/
def opFetchEff (s : State) (room : Nat) : State :=
  let x := roomOf s room
  let ctx := ((roomTask s room).map fun q => q.1.ctx).getD 0
  let c := fetchFault s x ctx
  if c ≠ 0 then raiseFault room x.fetchNext 0 c 0 ((x.listBase + 32 * x.fetchNext) / 64) s
  else
    let r := readLines s.store false (linesOf (x.listBase + 512 * (x.fetchNext / 16)) 512)
    let a := putStore r.1 s
    if r.2.1 ≠ 0 then noteRead r.2.1 r.2.2 (raiseFault room x.fetchNext 0 r.2.1 0 (faultLine r.2.1 r.2.2) a)
    else
      let ws := fetchWords s x
      modRoom room (fun y => { y with opBuf := y.opBuf ++ ws, fetchNext := x.fetchNext + ws.length }) a

/-- OP_FETCH (06 R163). -/
def execOpFetch (room : Nat) (s : State) : Host.Outcome State Fault Refusal := dueAt (hasRoom s room) (opFetchReady s room) s (opFetchEff s room)

/-! Narrow accesses. -/

/-- Serve a narrow load: its word is read. -/
def serveLoad (s : State) (room : Nat) (a : Narrow) (rest : List Narrow) (k : Nat) : State :=
  let addr := pantryAddr room a.offset
  let r := readLine s.store (addr / 64) false
  let p := putStore r.1 s
  if r.2 ≠ 0 then
    noteRead r.2 (addr / 64) (raiseFault room a.op a.opc r.2 0 (faultLine r.2 (addr / 64)) (modRoom room (fun x => { x with narrow := x.narrow.take k ++ rest }) p))
  else modRoom room (fun x => { x with
    narrow := x.narrow.take k ++ { a with served := true, value := BitVec.ofNat 32 (leVal (memBytes s.store addr 4)) } :: rest }) p

/-- A narrow store rewrites the word of an A-class line that holds its target, or the whole of a W-class line, with its errors; a waiting write-back of the line is
cancelled (08 R227, R247). -/
def storeWord (st : Store) (addr : Nat) (v : BitVec 32) : Store :=
  let l := addr / 64
  let w := memPut st addr (leBytes 4 v.toNat)
  setLine { w with wbacks := w.wbacks.filter (· ≠ l) } l (narrowErr (lineClass st l) (addr % 64 / 16) (tabGet .good st.lines l))

/-- Serve a narrow store: it reads and rewrites. -/
def serveStore (s : State) (room : Nat) (a : Narrow) (rest : List Narrow) (k : Nat) : State :=
  let addr := pantryAddr room a.offset
  let r := readLine s.store (addr / 64) false
  let drop := modRoom room (fun x => { x with narrow := x.narrow.take k ++ rest })
  if r.2 ≠ 0 then noteRead r.2 (addr / 64) (raiseFault room a.op a.opc r.2 0 (faultLine r.2 (addr / 64)) (drop (putStore r.1 s)))
  else
    let p := drop (putStore (storeWord r.1 addr a.value) s)
    match (roomOf s room).task with
    | some n => modTask n (fun t => { t with wrote := (addr, 4) :: t.wrote }) p
    | none => p

/-- The effect of NARROW_ACCESS_SERVICE: the oldest access not yet served. -/
def narrowServiceEff (s : State) (room : Nat) : State :=
  let x := roomOf s room
  let k := (x.narrow.takeWhile (·.served)).length
  match x.narrow.drop k with
  | a :: rest => takeCycle (.pantryPort room) (landCloses (settle room (if a.load then serveLoad s room a rest k else serveStore s room a rest k)))
  | [] => s

/-- NARROW_ACCESS_SERVICE (08 R227): a cycle of the pantry port, which takes a permit of a paced one (02 R41). -/
def execNarrowAccessService (room : Nat) (s : State) : Host.Outcome State Fault Refusal :=
  dueAt (hasRoom s room) ((roomOf s room).narrow.any (fun a => !a.served) && !s.shell.snap.frozen && mayCycle s (.pantryPort room)) s (narrowServiceEff s room)

/-- The effect of NARROW_LOAD_COMPLETE: the oldest served load writes its register (06 R171). -/
def narrowLoadEff (s : State) (room : Nat) : State :=
  match (roomOf s room).narrow.find? (·.served) with
  | some a => settle room (modRoom room (fun x => { x with g := setG x.g a.reg a.value, narrow := x.narrow.erase a }) s)
  | none => s

/-- NARROW_LOAD_COMPLETE (06 R171). -/
def execNarrowLoadComplete (room : Nat) (s : State) : Host.Outcome State Fault Refusal :=
  dueAt (hasRoom s room) ((roomOf s room).narrow.any (·.served) && !s.shell.snap.frozen) s (narrowLoadEff s room)

/-! Retirement (06 R193). -/

/-- A send of `room` waits: its bytes are not taken, or the receive that took them has not retired. -/
def sendWaits (s : State) (room op : Nat) : Bool :=
  (s.rooms.any fun e => e.2.halos.any fun h => h.arrived && h.peer == room && h.op == op && decide (h.rows ≠ 0)) ||
    (roomOf s room).halos.any fun h =>
      h.arrived && h.op == op && h.rows == 0 && (roomOf s h.peer).inflight.any fun f => f.op == h.base && f.opc == 12

/-- Accesses of an op wait at a lane or a port, or its reads have not been delivered (08 R228, R230, R233). -/
def accessesWait (s : State) (room op : Nat) : Bool :=
  (s.store.lanes.any fun u => u.room == room && u.op == op) || s.store.remote.any fun r => r.room == room && r.op == op

/-- What keeps an op whose work has entered from retiring: the annex's results, a halo's other side, the merge of its wide partial, its accesses, or a
fault that it raised (06 R193, R199, 07 R218). -/
def opWaits (s : State) (room : Nat) (f : InFlight) : Bool :=
  let x := roomOf s room
  (match x.annex with
    | some j => j.seq == f.seq
    | none => false) ||
  (match x.fault with
    | some r => r.op == f.op && r.room == room
    | none => false) ||
  (f.opc == 12 && sendWaits s room f.op) || (f.opc == 6 && x.wide.any fun w => w.op == f.op) || accessesWait s room f.op

/-- The oldest issued op of this number. -/
def oldestOp (x : Room) (op : Nat) : Option InFlight := x.inflight.find? fun f => f.op == op

/-- OP_RETIRE can go: the op is issued, and no freeze holds the room. -/
def retireReady (s : State) (room op : Nat) : Bool := (oldestOp (roomOf s room) op).isSome && !s.shell.snap.frozen

/-- The steps that remain of an op are made as far as they can go; the cycles of a `stuff` come to their end. -/
def finishOp (room : Nat) (f : InFlight) (s : State) : State :=
  if f.opc = 16 then
    match roomTask s room with
    | some (t, i) =>
      if opEngaged f && roomRuns s room && mayAll s (stepPace room f) && !heldBack (roomOf s room) f then
        stuffWork room (envOf s t i room f.op 16) (roomOf s room) t f (takeAll (stepPace room f) s)
      else s
    | none => s
  else stepMany room f.seq (2 * f.total) s

/-- The effect of OP_RETIRE: the op's remaining work is done, and it retires unless something holds it (06 R193). -/
def retireEff (s : State) (room op : Nat) : State :=
  match oldestOp (roomOf s room) op with
  | none => s
  | some f =>
    let a := finishOp room f s
    match flightOf (roomOf a room) f.seq with
    | none => a
    | some g =>
      if opEngaged g || opWaits a room g then a
      else settle room (modRoom room (fun x => { x with
        inflight := x.inflight.filter fun h => h.seq != f.seq
        halos := x.halos.filter fun h => !(g.opc == 12 && h.arrived && h.op == op && h.rows == 0) }) a)

/-- OP_RETIRE (06 R193). -/
def execOpRetire (room op : Nat) (s : State) : Host.Outcome State Fault Refusal := dueAt (hasRoom s room) (retireReady s room op) s (retireEff s room op)

/-! Releases and time limits. -/

/-- The participants of a sync group of a task (06 R188). -/
def syncRooms (i : Image) (t : Task) (group : Nat) : List Nat := ((variantOf i t).syncs.filter fun y => y.group == group).map (·.room)

/-- When a participant arrived at the group's `sync`, and its target. -/
def syncArrival (s : State) (group room : Nat) : Option (Nat × Nat) :=
  match (roomOf s room).hold with
  | .sync _ gr target _ (some a) => if gr = group then some (a, target) else none
  | _ => none

/-- The release of a group (02 R49): the boundary, and whether it is late; none while a participant has not arrived. -/
def syncDue (s : State) (t : Task) (i : Image) (group : Nat) : Option (Nat × Bool) :=
  let rs := syncRooms i t group
  let as := rs.filterMap (syncArrival s group)
  if rs.isEmpty ∨ as.length ≠ rs.length then none
  else
    let a := (as.map (·.1)).foldl max 0
    let b := t.launchUp + (as.map (·.2)).foldl max 0
    some (if a < b then (b, false) else (a + 1, true))

/-- The task runs, and its image. -/
def runningTask (s : State) (n : Nat) : Option (Task × Image) :=
  match taskOf s n with
  | some t => if t.state = .launched ∧ t.halting = false then (imageOf s t).map fun i => (t, i) else none
  | none => none

/-- SYNC_RELEASE is due: the release boundary has come (02 R49), and no freeze holds the rooms. -/
def syncReady (s : State) (n group : Nat) : Bool :=
  match runningTask s n with
  | some (t, i) => (match syncDue s t i group with
    | some r => !s.shell.snap.frozen && decide (r.1 ≤ upBeat s)
    | none => false)
  | none => false

/-- Release the rooms of a list. -/
def releaseSync : List Nat → State → State
  | [], s => s
  | r :: rs, s => releaseSync rs (modRoom r (fun x => { x with hold := .none }) s)

/-- The schedule uses a slot of the fabric (02 R50). The rule names a task on one engine, which continues, and one that uses a slot, which is aborted; a task on several
engines whose image claims none continues as the first does (DESIGN CHOICE, log 92). -/
def usesFabric (i : Image) : Bool := !i.claims.isEmpty

/-- The effect of SYNC_RELEASE: all participants resume; a late release sets SYNC_LATE and aborts a task that uses a fabric slot (02 R49, R50). -/
def syncReleaseEff (s : State) (n group : Nat) : State :=
  match runningTask s n with
  | some (t, i) =>
    let r := releaseSync (syncRooms i t group) s
    (match syncDue s t i group with
      | some (_, true) =>
        let late := raiseInt 6 (modPace (fun p => { p with syncLate := true }) r)
        if usesFabric i then haltTask n 0x601 (some (plainFault 0x601)) false late else late
      | _ => r)
  | none => s

/-- SYNC_RELEASE (02 R49). -/
def execSyncRelease (task group : Nat) (s : State) : Host.Outcome State Fault Refusal := due (syncReady s task group) s (syncReleaseEff s task group)

/-- What a room waits at, its opcode, and the beat in which it began (06 R198). -/
def waitSince (x : Room) : Option (Nat × Nat × Nat) :=
  match x.hold with
  | .sync op _ _ since _ => some (op, 14, since)
  | .wait op _ _ since => some (op, 18, since)
  | _ => none

/-- WAIT_EXPIRED is due: 65,536 beats since the op issued. -/
def waitExpiredReady (s : State) (room : Nat) : Bool :=
  match waitSince (roomOf s room) with
  | some w => roomRuns s room && decide (w.2.2 + 65536 ≤ upBeat s)
  | none => false

/-- The effect of WAIT_EXPIRED. -/
def waitExpiredEff (s : State) (room : Nat) : State :=
  match waitSince (roomOf s room) with
  | some w => raiseFault room w.1 w.2.1 0x305 0 0 s
  | none => s

/-- WAIT_EXPIRED (06 R198). -/
def execWaitExpired (room : Nat) (s : State) : Host.Outcome State Fault Refusal :=
  dueAt (hasRoom s room) (waitExpiredReady s room) s (waitExpiredEff s room)

/-- The bundles of a list that are up go down. -/
def dropBundles : List Nat → State → State
  | [], s => s
  | b :: bs, s => dropBundles bs (if (upBundles s).contains b then bundleEff s b false else s)

/-- A gatehouse's die has failed: its ports are FAILED and its bundles go down (17 R499). -/
def gateDown (g : Nat) (s : State) : State :=
  dropBundles ((List.range 8).map (8 * g + ·))
    (modPorts g (fun _ x => { x with st := 7 }) portNums (modHealth (fun h => { h with gatesOut := g :: h.gatesOut }) s))

/-- The traffic between halls and gatehouses (01 R26): the halls of the rings that flows of loaded images take from and append to, with the gatehouses of their claims' bundles. -/
def gateTraffic (s : State) : List (Nat × Nat) :=
  s.steward.images.flatMap fun i => (i.var16.rings ++ i.var15.rings).flatMap fun r =>
    (i.flows.filter fun x => x.srcRing == r.ring || x.dstRing == r.ring).flatMap fun x => (i.claims.filter fun c => c.flow == x.flow).map fun c => (r.hall, c.bundle / 8)

/-- A stage outside rooms and tiers fails (17 R499): halls whose traffic passes it offer no rooms; of a gatehouse's die or its crossing, the bundles go down. -/
def failStage (st : Stage) (s : State) : State :=
  let cut := (hallsCut s.params (gateTraffic s) st).filter fun h => !s.health.hallsOut.contains h
  let t := markExhausted true (modHealth (fun x => { x with hallsOut := x.hallsOut ++ cut, recDue := true }) s)
  match st with
  | .gateCrossing g | .gateDie g => gateDown g t
  | _ => t

/-- The room whose task meets a failed stage: that which the unit serves, else the one whose access it holds up. -/
def stageRoom (s : State) (st : Stage) (room : Nat) : Nat := match st with
  | .unit k i => (unitRoom s k i).getD room
  | _ => room

/-- The effect of HANDSHAKE_TIMEOUT: a fault of the unit that failed to acknowledge (02 R39, 17 R487), and of the room that holds the stage. No op is known. -/
def handshakeEff (s : State) (room : Nat) (st : Stage) : State :=
  let r := stageRoom s st room
  let task := (roomOf s r).task
  let a := match st with
    | .unit k i => blame k i 0xD01 (some r) task none s
    | .engine .activeCore => blame 6 (activeCore s) 0xD01 none none none s
    | .engine .standbyCore => blame 6 (1 - activeCore s) 0xD01 none none none s
    | _ => failStage st s
  if task.isSome then raiseFault r 0 0 0xD01 0 0 a else a

/-- The room core offers no op to a unit: it holds at a `sync`, a `wait` or its end, or the op at the head of its buffer waits for its AFTER, its registers or its units. -/
def coreWaits (x : Room) : Bool :=
  (match x.hold with
    | .none => false
    | _ => true) || (match x.opBuf with
    | [] => true
    | (_, w) :: q => !(afterFree x w && regsFree x w ((q.head?.map (·.2)).getD 0) && unitsFree x w ((q.head?.map (·.2)).getD 0)))

/-- The count of an issued op's handshakes does not run (02 R39): its next step waits for input or room (06 R140, 02 R62), its accesses wait for service at a store port (08 R228), or
it has none left but waits for an annex, a halo's other side or a merge. -/
def opPauses (s : State) (room : Nat) (f : InFlight) : Bool :=
  accessesWait s room f.op || opWaits s room f || (opEngaged f && (heldBack (roomOf s room) f || (match roomTask s room with
    | some (t, i) => stepWaits s (envOf s t i room f.op f.opc) (roomOf s room) f
    | none => true)))

/-- Every stage of a room waits for input, or is held back with its count paused (02 R39): the core offers nothing, each issued op pauses, and each narrow access waits for
service. -/
def roomAwaits (s : State) (room : Nat) : Bool :=
  let x := roomOf s room
  coreWaits x && x.inflight.all (opPauses s room) && x.narrow.all fun a => !a.served

/-- HANDSHAKE_TIMEOUT is due (02 R39): the count has exceeded 256 ticks, with the hard part up; no count runs in a snapshot freeze, nor in a room whose stages all wait for input or
are held back. -/
def handshakeReady (s : State) (room : Nat) (st : Stage) (ticks : Nat) : Bool :=
  hardUp s && !s.shell.snap.frozen && decide (256 < ticks) && (match st with
    | .unit k i => match unitRoom s k i with
      | some r => !roomAwaits s r
      | none => true
    | _ => true) && decide (room / 16 < s.params.halls)

/-- HANDSHAKE_TIMEOUT (02 R39). -/
def execHandshakeTimeout (room : Nat) (stage : Stage) (ticks : Nat) (s : State) : Host.Outcome State Fault Refusal :=
  dueAt (stageBuilt s.params (unitExists s) stage) (handshakeReady s room stage ticks) s (handshakeEff s room stage)

/-! Annexes (12 R353 to R356, 07 R218). -/

/-- The op whose annex values have all come goes on with them (07 R204, R211, R217). -/
def finishAnnex (s : State) (room : Nat) (j : AnnexJob) : State :=
  let s0 := modRoom room (fun y => { y with annex := none }) s
  match roomTask s0 room, flightOf (roomOf s0 room) j.seq with
  | some (t, i), some f =>
    let x := roomOf s0 room
    let E := envOf s0 t i room f.op f.opc
    let ann := j.results.map (decodeFmt .fp32)
    if j.pairOp then commitStep room t.num (blockStep E (matFields f.word) (pairFields f.word2) x.press ann f (runOf s0 x)) s0
    else commitStep room t.num (rowfAnswer E f.regs (rowfFields f.word) ann (runOf s0 x), { f with pos := f.total }) s0
  | _, _ => s0

/-- The effect of ANNEX_RESULT: the results answer the elements of the press in order, and free the crossing for further ones of the hall's presses; the rest are discarded (12
R353, R351, 02 R62). -/
def annexResultEff (s : State) (slot tag : Nat) (results : List (BitVec 32)) : State :=
  match (roomOf s tag).annex with
  | some j =>
    if j.slot ≠ slot then s
    else
      let k : AnnexJob := { j with results := (j.results ++ results.map (·.toNat)).take j.sent.length }
      sendAllOn slot (tag / 16) (if k.toSend.isEmpty ∧ k.results.length = k.sent.length then settle tag (finishAnnex s tag k)
        else modRoom tag (fun y => { y with annex := some k }) s)
  | none => s

/-- ANNEX_RESULT (12 R353): one transfer carries 1 to 64 results; in a freeze it stays in the crossing (12 R375). -/
def execAnnexResult (slot tag : Nat) (results : List (BitVec 32)) (s : State) : Host.Outcome State Fault Refusal :=
  dueAt (hasRoom s tag && decide (slot < s.params.annexSlots)) (roomRuns s tag && !s.shell.snap.frozen && decide (1 ≤ results.length ∧ results.length ≤ 64)) s
    (annexResultEff s slot tag results)

/-- A pipe of the task. -/
def pipeOf (i : Image) (t : Task) (pipe : Nat) : Option PipeRec := (variantOf i t).pipes.find? fun p => p.pipe == pipe

/-- The room endpoint of a pipe with a stream port (12 R355). -/
def pipeRoom (p : PipeRec) : Nat := if 0xFF00 ≤ p.producer then p.consumer else p.producer

/-- A stream port of the room's task on a pipe of the room that has waited 1,024 beats (12 R356). -/
def silentPort (s : State) (room : Nat) : Option StreamPort :=
  match roomTask s room with
  | some (t, i) => s.shell.ports.find? fun p => p.task == t.num && (match pipeOf i t p.pipe with
      | some r => pipeRoom r == room
      | none => false) && !p.held.isEmpty && (match p.since with
        | some b => decide (b + 1024 ≤ upBeat s)
        | none => false)
  | none => none

/-- The oldest unanswered element of the press's op, 1,024 beats or more after it was sent (07 R218). -/
def silentPress (s : State) (room : Nat) : Option (AnnexJob × AnnexElem) :=
  match (roomOf s room).annex with
  | none => none
  | some j => match j.sent[j.results.length]? with
    | some (e, b) => if b + 1024 ≤ upBeat s then some (j, e) else none
    | none => none

/-- The effect of ANNEX_SILENT: a fault of the room's op in the iteration of the element, or of the task for a stream port. -/
def annexSilentEff (s : State) (room : Nat) : State :=
  match silentPress s room with
  | some (j, e) => raiseFault room j.op (if j.pairOp then 3 else 8) 0x30B e.iter 0 s
  | none => (match (roomOf s room).task with
    | some n => haltTask n 0x30B (some (plainFault 0x30B)) false s
    | none => s)

/-- ANNEX_SILENT (07 R218, 12 R356). -/
def execAnnexSilent (room : Nat) (s : State) : Host.Outcome State Fault Refusal :=
  dueAt (hasRoom s room) (roomRuns s room && ((silentPress s room).isSome || (silentPort s room).isSome)) s (annexSilentEff s room)

/-! Stream ports (12 R355). -/

/-- The port of a pipe of a running task, with the pipe and the descriptor of its ring. -/
def portAt (s : State) (n pipe : Nat) : Option (StreamPort × PipeRec × RingRec × Task × Image) :=
  match runningTask s n with
  | none => none
  | some (t, i) =>
    match s.shell.ports.find? (fun p => p.task == n && p.pipe == pipe), pipeOf i t pipe with
    | some p, some r => ((variantOf i t).rings.find? fun x => x.ring == r.ring).map fun x => (p, r, x, t, i)
    | _, _ => none

/-- Change a stream port. -/
def modPort' (n pipe : Nat) (f : StreamPort → StreamPort) (s : State) : State :=
  { s with shell := { s.shell with ports := s.shell.ports.map fun p => if p.task = n ∧ p.pipe = pipe then f p else p } }

/-- The bytes that a ring holds. -/
def ringFilled (x : Ring) : Nat := (x.tail + 2 ^ 32 - x.head) % 2 ^ 32

/-- The number that stands for the stream port of a slot (12 R355, 09 R265). -/
def portRoom (slot : Nat) : Nat := 0xFF00 + slot

/-- The last remote access of a list signals a room's counter when it has been served (12 R355). -/
def signalLast (room ctr : Nat) (rs : List RemoteAcc) : List RemoteAcc :=
  match rs.reverse with
  | r :: more => more.reverse ++ [{ r with sig := some (room, ctr) }]
  | [] => []

/-- The port's accesses enter the state: they wait at the room's port, and the last one's service signals `(room, ctr)`; a fault of them aborts the task. -/
def portRun (n : Nat) (sig : Nat × Nat) (r : Run) (s : State) : State :=
  let a := modTask n (fun t => { t with wrote := r.wrote ++ t.wrote }) (putStore r.st { s with freeCtr := r.free })
  match r.fault with
  | some (code, _, line) => blameBank code line (haltTask n code (some { plainFault code with line := faultLine code line }) false a)
  | none => { a with store := { a.store with remote := signalLast sig.1 sig.2 a.store.remote } }

/-- What the accesses of a stream port are checked against: those of the task, with the port as requester and the pipe as its op. -/
def portEnv (s : State) (t : Task) (i : Image) (q : StreamPort) (pipe : Nat) : Env :=
  envOf s t i (portRoom q.slot) pipe 0

/-- An access of the port waits for service. -/
def portBusy (s : State) (q : StreamPort) (pipe : Nat) : Bool := s.store.remote.any fun r => r.room == portRoom q.slot && r.op == pipe

/-- STREAM_PORT_TAKE is due: a consumer port, and the ring holds a hand-over (12 R355). -/
def portTakeReady (s : State) (n pipe : Nat) : Bool :=
  match portAt s n pipe with
  | some (_, p, x, _, _) => decide (0xFF00 ≤ p.consumer) && decide (p.slot ≤ ringFilled (ringOf s.store (pipeRoom p) x.desc)) && !s.shell.snap.frozen
  | none => false

/-- The effect of STREAM_PORT_TAKE: SLOT bytes go to the annex, and the producer's credit counter is signalled when the take has returned. -/
def portTakeEff (s : State) (n pipe : Nat) : State :=
  match portAt s n pipe with
  | none => s
  | some (q, p, x, t, i) =>
    let room := pipeRoom p
    let E := portEnv s t i q pipe
    let r := ringTake E room x.desc (runOf s (roomOf s room)) p.slot
    let a := portRun n (p.producer, p.creditCtr) r.1 s
    if r.1.fault.isSome then a
    else modPort' n pipe (fun q => { q with done := q.done + 1, taken := q.taken + 1, held := q.held ++ r.2, since := if q.held.isEmpty then some (upBeat s) else q.since }) a

/-- STREAM_PORT_TAKE (12 R355). -/
def execStreamPortTake (task pipe : Nat) (s : State) : Host.Outcome State Fault Refusal := due (portTakeReady s task pipe) s (portTakeEff s task pipe)

/-- STREAM_PORT_APPEND is due: a producer port with SLOT bytes, and the consumer has taken hand-over n − DEPTH (12 R355). -/
def portAppendReady (s : State) (n pipe : Nat) (bytes : List Byte) : Bool :=
  match portAt s n pipe with
  | some (q, p, x, _, _) =>
    decide (0xFF00 ≤ p.producer) && decide (bytes.length = p.slot) && !portBusy s q pipe &&
      decide (ringFilled (ringOf s.store (pipeRoom p) x.desc) + p.slot ≤ p.depth * p.slot) && !s.shell.snap.frozen
  | none => false

/-- The effect of STREAM_PORT_APPEND: the bytes join the ring, and the consumer's data counter is signalled, once the append has landed. -/
def portAppendEff (s : State) (n pipe : Nat) (bytes : List Byte) : State :=
  match portAt s n pipe with
  | none => s
  | some (q, p, x, t, i) =>
    let room := pipeRoom p
    let r := moveAppend (portEnv s t i q pipe) room x.desc (runOf s (roomOf s room)) bytes
    let a := portRun n (p.consumer, p.dataCtr) r s
    if r.fault.isSome then a else modPort' n pipe (fun q => { q with done := q.done + 1 }) a

/-- STREAM_PORT_APPEND (12 R355). -/
def execStreamPortAppend (task pipe : Nat) (bytes : List Byte) (s : State) : Host.Outcome State Fault Refusal :=
  due (portAppendReady s task pipe bytes) s (portAppendEff s task pipe bytes)

end Sys2Proof.Machine
end

