-- ==== Sys2Proof/Machine/StoreEvents.lean ====
section
/-!
DEFINITION. The events of the stores: cellar port cycles (08 R229 to R233), remote accesses (08 R228), corrected write-backs (08 R247), the scrubber (08 R248),
relocation of banks (08 R252, 17 R494) and rebuilt copies (04 R115).
-/
namespace Sys2Proof.Machine

/-- The columns of group `g` (08 R229). -/
def inGroup (tiers g column : Nat) : Bool := column / (cellarColumns tiers / 16) == g

/-- The lowest number among a lane's units that are still to be delivered. -/
def laneOldest (us : List LaneUnit) : Nat := match us with
  | [] => 0
  | u :: rest => rest.foldl (fun m v => min m v.seq) u.seq

/-- Age in a lane (08 R230): by arrival; of one port cycle the local units are older. -/
def olderUnit (v u : LaneUnit) : Bool :=
  decide (v.cycle < u.cycle) || (v.cycle == u.cycle && ((v.isLocal && !u.isLocal) || (v.isLocal == u.isLocal && decide (v.seq < u.seq))))

/-- A unit's turn in a lane: pending, within 128 of the oldest that is to be delivered (08 R233), and the oldest of its column, a local one before a remote one of the same
time (08 R230). -/
def unitServed (tiers g : Nat) (us : List LaneUnit) (u : LaneUnit) : Bool :=
  let able (v : LaneUnit) : Bool := !v.served && inGroup tiers g v.column && decide (v.seq ≤ laneOldest us + 128)
  able u && us.all fun v => !(able v && v.column == u.column && olderUnit v u)

/-- The units of a hall that a port cycle serves. -/
def cycleServed (s : State) (hall t : Nat) : List LaneUnit :=
  (List.range 16).flatMap fun l =>
    let us := s.store.lanes.filter fun u => u.hall == hall && u.lane == l
    us.filter (unitServed s.params.tiers ((l + t) % 16) us)

/-- Served units are marked; what one writes lands (08 R231). -/
def serveUnits : List LaneUnit → Store → Store
  | [], st => st
  | u :: us, st =>
    let t := { st with lanes := st.lanes.map fun v => if v = u then { v with served := true } else v }
    serveUnits us (match u.write with
      | some w => landWrite w (opWrites t u.room u.op) t
      | none => t)

/-- A served unit leaves its gather stage once no unit of the lane before it waits for service (08 R233). A write has nothing to deliver. -/
def unitLeaves (hall : Nat) (st : Store) (u : LaneUnit) : Bool :=
  u.hall == hall && u.served && (u.write.isSome || !(st.lanes.any fun v => v.hall == hall && v.lane == u.lane && !v.served && decide (v.seq < u.seq)))

/-- The takes, by room and op, whose data these units return. -/
def takesOf (us : List LaneUnit) : List (Nat × Nat × Option (Nat × Nat)) :=
  (us.filterMap fun u => match u.read with
    | some r => if r.head.isSome then some (u.room, u.op, r.head) else none
    | none => none).eraseDups

/-- Lanes deliver in request order (08 R233), and a take whose last byte has returned advances HEAD (08 R244). -/
def deliverUnits (hall : Nat) (st : Store) : Store :=
  let go := st.lanes.filter (unitLeaves hall st)
  (takesOf go).foldl (fun t k => returnTake k.1 k.2.1 k.2.2 t) { st with lanes := st.lanes.filter fun u => !unitLeaves hall st u }

/-- The effect of CELLAR_PORT_CYCLE: lane l meets group (l + t) mod 16; in a freeze the units of rooms wait (08 R230, 12 R375). -/
def portCycleEff (s : State) (hall : Nat) : State :=
  let t := tabGet 0 s.store.portCycle hall
  let served := if s.shell.snap.frozen then [] else cycleServed s hall t
  takeCycle (.cellarPort hall) (landCloses
    (modStore (fun st => deliverUnits hall (serveUnits served { st with portCycle := tabPut 0 st.portCycle hall (t + 1) })) s))

/-- CELLAR_PORT_CYCLE (08 R230): a cycle of a paced port takes a permit (02 R41). -/
def execCellarPortCycle (hall : Nat) (s : State) : Host.Outcome State Fault Refusal :=
  dueAt (decide (hall < s.params.halls)) (hardUp s && mayCycle s (.cellarPort hall)) s (portCycleEff s hall)

/-- The oldest remote access that waits at a room's ports. -/
def oldestRemote (s : State) (room : Nat) : Option RemoteAcc := s.store.remote.find? fun r => r.target == room

/-- The effect of REMOTE_ACCESS_SERVICE: what it writes lands, what it reads returns, and the last access of a stream port's take or append signals (08 R228, R231, 12 R355). -/
def remoteEff (s : State) (room : Nat) : State :=
  match oldestRemote s room with
  | none => s
  | some r =>
    takeCycle (.pantryPort room) <|
    let a := modStore (fun st =>
      let t := returnTake r.room r.op (match r.read with
        | some q => q.head
        | none => none) { st with remote := st.remote.erase r }
      match r.write with
      | some w => landWrite w (opWrites t r.room r.op) t
      | none => t) s
    match r.sig with
    | some (peer, c) => addSignal peer c (landCloses a)
    | none => landCloses a

/-- REMOTE_ACCESS_SERVICE (08 R228): a cycle that no requester of the room uses; a paced port takes a permit for it (02 R41). -/
def execRemoteAccessService (room : Nat) (s : State) : Host.Outcome State Fault Refusal :=
  dueAt (hasRoom s room) ((oldestRemote s room).isSome && !s.shell.snap.frozen && mayCycle s (.pantryPort room)) s (remoteEff s room)

/-- Write a corrected line back (08 R247). -/
def writeBackLine (l : Nat) (st : Store) : Store :=
  let c := { st with wbacks := st.wbacks.filter (· ≠ l) }
  match lineCond st l with
  | .correctable => setLine c l .good
  | .good | .uncorrectable | .poisoned => c

/-- CORRECTED_WRITE_BACK (08 R247). -/
def execCorrectedWriteBack (line : Nat) (s : State) : Host.Outcome State Fault Refusal :=
  due (s.store.wbacks.contains line) s (modStore (writeBackLine line) s)

/-! The scrubber (08 R248). -/

/-- The granules of a hall in CLASS 0x1 or 0x2, rising. -/
def scrubGranules (s : State) (hall : Nat) : List Nat :=
  (s.store.own.filter fun e => saHall (e.1 * 65536) == hall && (ownClass e.2 == 1 || ownClass e.2 == 2)).map (·.1)

/-- The next line of the scrubber's turn; `scrubPos` is the line from which it goes on. -/
def scrubNext (s : State) (hall : Nat) : Option Nat :=
  let pos := tabGet 0 s.store.scrubPos hall
  let gs := scrubGranules s hall
  match gs.find? (fun g => decide (pos < (g + 1) * 1024)) with
  | some g => some (max pos (g * 1024))
  | none => gs.head?.map (· * 1024)

/-- SCRUB_READ is due: the line is the next, and nothing pauses the scrubber (12 R375, 16 R459, 18 R516). -/
def scrubReady (s : State) (hall line : Nat) : Bool :=
  hardUp s && !paused s && !s.shell.snap.frozen && scrubNext s hall == some line && !s.store.clearing.contains (line / 1024)

/-- The effect of SCRUB_READ: it corrects, poisons, counts and logs, and faults no task (08 R248); an uncorrectable cellar line is a fault of its bank (17 R487). -/
def scrubEff (s : State) (hall line : Nat) : State :=
  let r := readLine s.store line true
  let a := putStore { r.1 with scrubPos := tabPut 0 r.1.scrubPos hall (line + 1) } s
  blameBank r.2 line a

/-- SCRUB_READ (08 R248). -/
def execScrubRead (hall line : Nat) (s : State) : Host.Outcome State Fault Refusal :=
  dueAt (decide (hall < s.params.halls)) (scrubReady s hall line) s (scrubEff s hall line)

/-! Relocation (08 R252, 17 R494) and copies (04 R115). -/

/-- The banks of a hall's reserve that can take another: in service, and not the one that is moved. -/
def reserveBanks (s : State) (hall bank : Nat) : List Nat :=
  (List.range (reserveCellar s.params.tiers / 2 ^ 20)).filterMap fun k =>
    let b := usableCellar s.params.tiers / 2 ^ 20 + k
    if b ≠ bank ∧ (unitOf s 4 (bankUnit s.params.tiers hall b)).service = 0 then some (b * 2 ^ 20) else none

/-- The place of 1 MiB in a hall's reserve that takes a bank: clear of relocated banks, and of copies when such a place exists (04 R115). -/
def relocPlace (s : State) (hall bank : Nat) : Option Nat :=
  let all := reserveBanks s hall bank
  let banks := (s.store.relocs.filter fun r => r.hall == hall).map (·.base)
  match all.find? (fun o => !(reserveUsed s hall []).any fun r => overlap r.1 (max 1 r.2) o (2 ^ 20)) with
  | some o => some o
  | none => all.find? fun o => !banks.contains o

/-- A copy that stands in a hall's reserve where a bank goes. -/
def copyHit (hall o : Nat) (c : CopyRec) : Bool :=
  c.present && saHall c.base == hall && overlap (saOffset c.base) (max 1 (c.scales + up64 (2 * c.nScales) - c.base)) o (2 ^ 20)

/-- Discard the copies that stand in the way: every window over their granules closes, and the granules are cleared (04 R115, 08 R241, R253). -/
def dropCopies (hall o : Nat) (s : State) : State :=
  let hit := (s.steward.images.flatMap (·.copies)).filter (copyHit hall o)
  let gs := hit.flatMap copyGranules
  modStore (fun st => startClearing gs (closeOn gs { st with windows := st.windows.filter fun e => !hit.any fun c => c.window == e.1 }))
    (modSteward (fun x => { x with images := x.images.map fun i =>
      { i with copies := i.copies.map fun c => if copyHit hall o c then { c with present := false, window := 65536 } else c } }) s)

/-- The bank of the hall's addresses that stands in a bank: another, where it holds a relocated one. -/
def heldBank (s : State) (hall bank : Nat) : Nat :=
  match s.store.relocs.find? (fun r => r.hall == hall && r.base == bank * 2 ^ 20) with
  | some r => r.bank
  | none => bank

/-- The lines of a bank of the hall's addresses. -/
def inBank (hall bank l : Nat) : Bool := saHall (l * 64) == hall && saLevel (l * 64) == 0 && saOffset (l * 64) / 2 ^ 20 == bank

/-- Every line of a bank that stays in place is poisoned (17 R499). -/
def poisonBank (hall bank : Nat) (st : Store) : Store :=
  let l := cellarAddr hall (bank * 2 ^ 20) / 64
  { st with lines := st.lines.filter (fun e => decide (e.1 < l)) ++ (List.range 16384).map (fun k => (l + k, LineErr.poisoned)) ++
      st.lines.filter fun e => decide (l + 16384 ≤ e.1) }

/-- A bank of the hall's addresses stands at a place of the reserve from now on. -/
def putReloc (hall bank o : Nat) (rs : List Reloc) : List Reloc := (rs.filter fun r => !(r.hall == hall && r.bank == bank)) ++ [⟨hall, bank, o⟩]

/-- The prediction called for the relocation (17 R497). -/
def byPrediction (s : State) (bank : Nat) : Bool := match (unitOf s 4 bank).life with
  | some h => decide (h ≤ s.health.eolHours)
  | none => false

/-- The effect of BANK_RELOCATION: the hall switches the bank's offsets to the copy; with no reserve left the bank stays and its lines are poisoned (08 R252, 17
R494, R499). A bank that holds nothing is given up. -/
def relocationEff (s : State) (hall bank : Nat) : State :=
  let idx := bankUnit s.params.tiers hall bank
  let t := modUnit 4 idx (fun u => { u with service := 3 })
    (modHealth (fun h => { h with replaceQ := h.replaceQ.erase (4, idx), recDue := true, evProact := if byPrediction s idx then satInc 255 h.evProact else h.evProact }) s)
  let b := heldBank s hall bank
  if bankHolds s hall bank then
    match relocPlace s hall bank with
    | some o =>
      markSpare (modMap (fun m => { m with relocs := putReloc hall b o m.relocs })
        (modStore (fun st => copyLinesOf (inBank hall b) { st with relocs := putReloc hall b o st.relocs }) (dropCopies hall o t)))
    | none => markExhausted true (modStore (poisonBank hall b) t)
  else t

/-- BANK_RELOCATION is due: the health unit wants it. -/
def relocationReady (s : State) (hall bank : Nat) : Bool := s.health.replaceQ.contains (4, bankUnit s.params.tiers hall bank)

/-- BANK_RELOCATION (08 R252). -/
def execBankRelocation (hall bank : Nat) (s : State) : Host.Outcome State Fault Refusal :=
  dueAt (decide (hall < s.params.halls) && decide (bank < cellarBanks s.params.tiers)) (relocationReady s hall bank) s (relocationEff s hall bank)

/-- A discarded copy of an image. -/
def lostCopy (s : State) (image copy : Nat) : Option (Image × CopyRec) :=
  match s.steward.images.find? (fun i => i.handle == image) with
  | some i => (i.copies.find? fun c => c.copy == copy && !c.present).map fun c => (i, c)
  | none => none

/-- The list of a room of a loaded image as it stands in the store. -/
def listStored (s : State) (i : Image) (V : Variant) (room : Nat) : ListAt :=
  let code (b : BufRec) (o : Nat) : Nat := leVal (memBytes s.store (b.base + o) 2)
  match V.rooms.find? (fun r => r.room == room) with
  | some r => (match V.bufs.find? (fun b => b.id == r.oplist) with
    | some b => ⟨i.imageId, i.reams, V, wordsOf (b.size / 32) (memBytes s.store b.base b.size), r.entry, code⟩
    | none => ⟨i.imageId, i.reams, V, [], r.entry, code⟩)
  | none => ⟨i.imageId, i.reams, V, [], 0, code⟩

/-- The jobs of a loaded image's variant, in the order in which its copies were planned. -/
def storedJobs (s : State) (i : Image) (V : Variant) : List (ListAt × CopyJob) :=
  (V.qpoints.filter fun q => q.role == 1).flatMap fun q =>
    let L := listStored s i V q.room
    (jobsOf L q (L.ops.getD q.op 0) (L.ops.getD (q.op + 1) 0)).map fun x => (L, x)

/-- The job that a copy of an image was built by: the one in its place among its variant's. -/
def copyOp (s : State) (i : Image) (c : CopyRec) : Option (ListAt × CopyJob) :=
  (storedJobs s i (if c.variant = 2 then i.var15 else i.var16))[(i.copies.filter fun d => d.variant == c.variant && decide (d.copy < c.copy)).length]?

/-- The place for a rebuilt copy in the remaining reserve. -/
def rebuildPlace (s : State) (c : CopyRec) : Option Nat := reservePlace s (saHall c.base) (c.size + up64 (2 * c.nScales)) []

/-- The effect of COPY_REBUILT (04 R115): the copy stands in the remaining reserve with a window over it, if its source could be read. -/
def copyRebuiltEff (s : State) (image copy : Nat) : State :=
  match lostCopy s image copy with
  | none => s
  | some (i, c) =>
    match rebuildPlace s c, copyOp s i c with
    | some o, some x =>
      let a := cellarAddr (saHall c.base) o
      let r := buildOne i.ctx x { c with base := a, scales := a + c.size, present := true } s
      modSteward (fun y => { y with images := y.images.map fun j =>
        if j.handle = image then { j with copies := j.copies.map fun d => if d.copy = copy then r.2 else d } else j }) r.1
    | _, _ => s

/-- COPY_REBUILT (04 R115): the copy is absent, and it fits. -/
def execCopyRebuilt (image copy : Nat) (s : State) : Host.Outcome State Fault Refusal :=
  due (match lostCopy s image copy with
    | some (_, c) => (rebuildPlace s c).isSome
    | none => false) s (copyRebuiltEff s image copy)

end Sys2Proof.Machine
end

