-- ==== Sys2Proof/Machine/ShellOps.lean ====
section
/-!
DEFINITION. The soft shell (12_annexes_hatch_keep): hatch DMA (R357 to R365), the keep and firmware (R366 to R373), the snapshot (R374 to R378).
-/
namespace Sys2Proof.Machine

/-- Change the soft shell. -/
def modShell (f : Shell → Shell) (s : State) : State := { s with shell := f s.shell }

/-! Hatch channels. -/

/-- A hatch channel. -/
def hatchOf (s : State) (c : Nat) : Hatch := tabGet hatchZero s.shell.hatch c

/-- Change a hatch channel. -/
def modHatch (c : Nat) (f : Hatch → Hatch) (s : State) : State := modShell (fun h => { h with hatch := tabMod hatchZero h.hatch c f }) s

/-- The channel exists. -/
def hasHatch (s : State) (c : Nat) : Bool := decide (c < s.params.hatchChannels)

/-- A channel with IRQ_EN set DONE or ERROR: the hatch interrupt and its EVT (20 R564, R566). -/
def hatchIrq (c : Nat) (s : State) : State :=
  if (hatchOf s c).irqEn then
    let t := raiseInt 0 s
    if t.steward.intEnable.getLsbD 0 then addEvt ⟨3, c, 0, 0, 0, 0x100 + c⟩ t else t
  else s

/-- The channel stops on an error (12 R362); the cause of one whose context was destroyed stays that (R365). -/
def hatchError (c err : Nat) (s : State) : State :=
  hatchIrq c (modHatch c (fun h => { h with
    start := false, stop := false, busy := false, error := true, err := if h.killed then 5 else err, killed := false }) s)

/-- SPACE of HATCH_SRC or HATCH_DST. -/
def spaceOf (v : BitVec 64) : Nat := v.toNat / 2 ^ 62

/-- SLOT of HATCH_SRC or HATCH_DST. -/
def slotOf (v : BitVec 64) : Nat := v.toNat / 2 ^ 48 % 8

/-- ADDR of HATCH_SRC or HATCH_DST. -/
def hatchAddr (v : BitVec 64) : Nat := v.toNat % 2 ^ 48

/-- A start is admitted (12 R359). -/
def startOk (s : State) (h : Hatch) : Bool :=
  let annex (v : BitVec 64) : Bool := spaceOf v == 1
  h.count != 0 && hatchAddr h.src % 64 == 0 && hatchAddr h.dst % 64 == 0 && (annex h.src != annex h.dst) &&
    decide ((if annex h.src then slotOf h.src else slotOf h.dst) < s.params.annexSlots)

/-- A write of 1 to START (12 R359, R364). -/
def hatchStart (c : Nat) (s : State) : State :=
  if s.shell.disable = true ∨ (hatchOf s c).start = true then s
  else if startOk s (hatchOf s c) then modHatch c (fun h => { h with start := true, beatDue := false }) s
  else hatchError c 6 s

/-- HATCH_START (12 R359). -/
def execHatchStart (c : Nat) (s : State) : Host.Outcome State Fault Refusal := dueAt (hasHatch s c) (hardUp s) s (hatchStart c s)

/-- A write of 1 to STOP (12 R363): the burst in progress lands first. -/
def hatchStop (c : Nat) (s : State) : State :=
  if (hatchOf s c).busy then modHatch c (fun h => { h with stop := true }) s
  else modHatch c (fun h => { h with start := false, stop := false }) s

/-- HATCH_STOP (12 R363). -/
def execHatchStop (c : Nat) (s : State) : Host.Outcome State Fault Refusal := dueAt (hasHatch s c) (hardUp s) s (hatchStop c s)

/-- The access check of a burst (12 R358, R362): 0 admitted, 1 not admitted, 2 unmapped. -/
def burstCheck (s : State) (h : Hatch) : Nat :=
  let a := burstStore h
  if rangeUnmapped s a.1 (burstLen h) then 2
  else if (linesOf a.1 (burstLen h)).all (fun l => admitted s.store h.ctx a.2 (l * 64) 64) then 0 else 1

/-- Each line of a list has landed whole or not at all, as a free value says, and what landed is what a peripheral delivered: free bytes (12 R364). -/
def landSome : List Nat → State → State
  | [], s => s
  | l :: ls, s =>
    landSome ls
      (if Config.freeBool s.freeCtr then
        { modStore (fun st => writeWhole st (l * 64) (freeBytes (s.freeCtr + 1) 64)) s with freeCtr := s.freeCtr + 65 }
      else { s with freeCtr := s.freeCtr + 1 })

/-- A channel stops at once under DISABLE (12 R364): of a burst into a store any lines have landed, and SRC, DST and COUNT of a channel that ran are undefined. -/
def disableChannel (c : Nat) (s : State) : State :=
  let h := hatchOf s c
  let t := if h.busy = true ∧ (burstStore h).2 = true then landSome (linesOf (burstStore h).1 (burstLen h)) s else s
  let k := t.freeCtr
  let off (h : Hatch) : Hatch := { h with start := false, stop := false, pending := 0, busy := false, beatDue := false, killed := false }
  if h.start then
    landCloses (modHatch c (fun h => { off h with
      src := BitVec.ofNat 64 (Config.freeNat k), dst := BitVec.ofNat 64 (Config.freeNat (k + 1)), count := Config.freeNat (k + 2) % 2 ^ 32 }) { t with freeCtr := k + 3 })
  else landCloses (modHatch c off t)

/-- Stop the channels of a list. -/
def disableAll : List Nat → State → State
  | [], s => s
  | c :: cs, s => disableAll cs (disableChannel c s)

/-- A write of HATCH_GLOBAL (12 R364). -/
def globalWrite (v : BitVec 32) (s : State) : State :=
  if v.getLsbD 0 then modShell (fun h => { h with disable := true }) (disableAll (List.range s.params.hatchChannels) s)
  else modShell (fun h => { h with disable := false }) s

/-- HATCH_DISABLE (12 R364): a write of HATCH_GLOBAL. -/
def execHatchDisable (v : BitVec 32) (s : State) : Host.Outcome State Fault Refusal := due (hardUp s) s (globalWrite v s)

/-- The effect of a pulse on a request line (12 R360, R364). -/
def requestPulse (c : Nat) (s : State) : State :=
  if s.shell.disable then s
  else modHatch c (fun h => if h.pending < 15 then { h with pending := h.pending + 1 } else { h with reqLost := true }) s

/-- HATCH_REQUEST (12 R360). -/
def execHatchRequest (c : Nat) (s : State) : Host.Outcome State Fault Refusal := dueAt (hasHatch s c) (hardUp s) s (requestPulse c s)

/-- A burst of the channel is due (12 R360). -/
def burstDue (h : Hatch) : Bool :=
  h.start && !h.busy && !h.stop && (match h.pace with
    | 0 => decide (0 < h.pending)
    | 1 => h.beatDue
    | _ => true)

/-- Is this channel the next in turn among those with a burst due (12 R361)? -/
def inTurn (s : State) (c : Nat) : Bool :=
  let cs := (List.range s.params.hatchChannels).filter fun k => burstDue (hatchOf s k)
  match cs.find? (fun k => decide (s.shell.turn ≤ k)) with
  | some k => k == c
  | none => cs.head? == some c

/-- HATCH_BURST_ISSUE is due: no burst is in flight, and nothing holds the hatch (12 R361, R375, 16 R459, 18 R516). -/
def burstReady (s : State) (c : Nat) : Bool :=
  !s.shell.disable && !paused s && !s.shell.snap.frozen && !(s.shell.hatch.any fun e => e.2.busy) && burstDue (hatchOf s c) && inTurn s c

/-- The effect of HATCH_BURST_ISSUE: an access that is not admitted stops the channel (12 R358, R362). -/
def burstEff (s : State) (c : Nat) : State :=
  let t := modShell (fun h => { h with turn := c + 1 }) (modHatch c (fun h => { h with
    busy := true, flight := burstLen h, beatDue := false, pending := if h.pace = 0 then h.pending - 1 else h.pending }) s)
  match burstCheck s (hatchOf s c) with
  | 0 => t
  | e => hatchError c e t

/-- HATCH_BURST_ISSUE (12 R360). -/
def execHatchBurstIssue (c : Nat) (s : State) : Host.Outcome State Fault Refusal := dueAt (hasHatch s c) (burstReady s c) s (burstEff s c)

/-- The last byte of the channel's burst has landed (12 R360, R363). -/
def burstDone (c : Nat) (s : State) : State :=
  let h := hatchOf s c
  let n := burstLen h
  let left := h.count - n
  let t := modHatch c (fun h => { h with
    src := h.src + BitVec.ofNat 64 n, dst := h.dst + BitVec.ofNat 64 n, count := left, busy := false, stop := false, killed := false,
    start := h.start && !h.stop && left != 0, done := h.done || left == 0 }) s
  if left = 0 then hatchIrq c t else t

/-- A burst that was admitted lands: `data` is what the peripheral delivered, none where its port signalled an error; a store line that cannot be read stops the
channel (12 R362). -/
def landBurst (s : State) (c : Nat) (data : Option (List Byte)) : State :=
  let h := hatchOf s c
  let a := burstStore h
  match data with
  | none => hatchError c 4 s
  | some bs =>
    if a.2 then burstDone c (modStore (fun st => writeWhole st a.1 bs) s)
    else
      let r := copyLines (linesOf a.1 (burstLen h)) s
      match r.2.2 with
      | some _ => hatchError c 3 r.1
      | none =>
        burstDone c (modShell (fun x => { x with sentTo := x.sentTo ++ [(slotOf h.dst, hatchAddr h.dst, r.2.1)] }) r.1)

/-- The effect of HATCH_BURST_LANDED: an access admitted at its issue completes (08 R242), and what waited for it goes on. -/
def landedEff (s : State) (c : Nat) (data : Option (List Byte)) : State := landCloses (landBurst s c data)

/-- HATCH_BURST_LANDED is due: a burst of the channel is in flight, and data for a store has its length. -/
def landedReady (s : State) (c : Nat) (data : Option (List Byte)) : Bool :=
  let h := hatchOf s c
  h.busy && (match data with
    | some bs => !(burstStore h).2 || bs.length == burstLen h
    | none => true)

/-- HATCH_BURST_LANDED (12 R360). -/
def execHatchBurstLanded (c : Nat) (data : Option (List Byte)) (s : State) : Host.Outcome State Fault Refusal :=
  dueAt (hasHatch s c) (landedReady s c data) s (landedEff s c data)

/-- Stop the channels of a list that name a context which is being destroyed: each sets ERROR with ERR 0x5, whether it ran or not (12 R365). -/
def stopContext (ctx : Nat) : List Nat → State → State
  | [], s => s
  | c :: cs, s =>
    stopContext ctx cs
      (if (hatchOf s c).ctx = ctx then
        hatchIrq c (modHatch c (fun h => { h with error := true, err := 5, killed := h.busy, ran := (hatchOf s c).start }) (hatchStop c s))
      else s)

/-- The channels of a context run again as they did, where its destruction has had no effect (10 R308). -/
def unStop (ctx : Nat) (s : State) : State :=
  modShell (fun x => { x with hatch := x.hatch.map fun e =>
    if e.2.ctx = ctx ∧ e.2.err = 5 ∧ e.2.error = true then
      (e.1, { e.2 with start := e.2.start || e.2.ran, stop := e.2.stop && !e.2.ran, error := false, err := 0, killed := false, ran := false })
    else e }) s

/-! The keep (12 R366 to R370). -/

/-- Change the keep. -/
def modKeep (f : Keep → Keep) (s : State) : State := modShell (fun h => { h with keep := f h.keep }) s

/-- Slot sizes (12 R367). -/
def keepSize : Nat → Nat
  | 1 => 0x800000
  | 2 => 0x40000
  | 3 => 0x10000
  | _ => 0x100000

/-- The offset of slot `k` of an item (12 R367). -/
def keepOff (item k : Nat) : Nat :=
  (match item with
    | 1 => 0
    | 2 => 0x1000000
    | 3 => 0x1080000
    | _ => 0x10A0000) + k * keepSize item

/-- The units of the keep (12 R367). -/
def keepUnits : Nat := 0x12A0000 / 64

/-- The item and slot that a unit lies in. -/
def slotOfUnit (u : Nat) : Nat × Nat :=
  ([(1, 0), (1, 1), (2, 0), (2, 1), (3, 0), (3, 1), (4, 0)].find? fun e => decide (u * 64 < keepOff e.1 e.2 + keepSize e.1)).getD (4, 1)

/-- Bytes of the keep. -/
def keepBytes (k : Keep) (off n : Nat) : List Byte := tabGetList 0 k.mem off n

/-- The header of a slot. -/
def slotHdr (k : Keep) (item slot : Nat) : List Byte := keepBytes k (keepOff item slot) 64

/-- LENGTH of a slot. -/
def slotLen (k : Keep) (item slot : Nat) : Nat := pfld (slotHdr k item slot) 0xC 4

/-- GENERATION of a slot. -/
def slotGen (k : Keep) (item slot : Nat) : Nat := pfld (slotHdr k item slot) 8 4

/-- The payload of a slot. -/
def slotPayload (k : Keep) (item slot : Nat) : List Byte := keepBytes k (keepOff item slot + 64) (slotLen k item slot)

/-- A slot is valid (12 R368). -/
def slotValid (k : Keep) (item slot : Nat) : Bool :=
  let h := slotHdr k item slot
  pfld h 0 4 == 0x5045454B && pfld h 4 1 == item && pfld h 5 3 == 0 && (h.drop 0x14).all (· == 0) && decide (slotLen k item slot ≤ keepSize item - 64) &&
    !k.bad.contains (item, slot) && crc32 (splice h 0x10 [0, 0, 0, 0] ++ slotPayload k item slot) == BitVec.ofNat 32 (pfld h 0x10 4)

/-- Generation g1 is newer than g2 (12 R368). -/
def newerGen (g1 g2 : Nat) : Bool :=
  let d := (g1 + 2 ^ 32 - g2) % 2 ^ 32
  decide (1 ≤ d) && decide (d < 2 ^ 31)

/-- The slot of the newest valid copy of an item (12 R368). -/
def newestSlot (k : Keep) (item : Nat) : Option Nat :=
  match slotValid k item 0, slotValid k item 1 with
  | true, true => some (if newerGen (slotGen k item 1) (slotGen k item 0) then 1 else 0)
  | true, false => some 0
  | false, true => some 1
  | false, false => none

/-- The target slot of a write (12 R369): slot A where the item is absent (log 57). -/
def targetSlot (k : Keep) (item : Nat) : Nat :=
  match (if item = 1 then some k.fwSlot else newestSlot k item) with
  | some n => 1 - n
  | none => 0

/-- The generation of a write (12 R369). -/
def nextGen (k : Keep) (item : Nat) : Nat :=
  match newestSlot k item with
  | some n => (slotGen k item n + 1) % 2 ^ 32
  | none => 1

/-- The header of a complete copy (12 R368). -/
def keepHdr (item gen : Nat) (payload : List Byte) : List Byte :=
  let h := leBytes 4 0x5045454B ++ leBytes 1 item ++ leBytes 3 0 ++ leBytes 4 gen ++ leBytes 4 payload.length ++ List.replicate 48 0
  splice h 0x10 (leBytes 4 (crc32 (h ++ payload)).toNat)

/-- Change the sequencer. -/
def modSeq (f : Seq → Seq) (s : State) : State := { s with seq := f s.seq }

/-- Write one unit. -/
def putUnit (off : Nat) (bs : List Byte) (k : Keep) : Keep := { k with mem := tabPutList 0 k.mem off (padLine bs) }

/-- What each slot of an item holds, with slot `n` new. -/
def putSlot {α : Type} (n : Nat) (x : Option α) (xs : List (Nat × α)) : List (Nat × α) :=
  xs.filter (fun e => e.1 != n) ++ (x.map fun y => (n, y)).toList

/-- What slot `n` of an item holds. -/
def slotHolds {α : Type} (n : Nat) (xs : List (Nat × α)) : Option α := (xs.find? fun e => e.1 == n).map (·.2)

/-- What the newest valid copy of an item holds (12 R368, R370). -/
def newestHolds {α : Type} (k : Keep) (item : Nat) (xs : List (Nat × α)) : Option α := (newestSlot k item).bind fun n => slotHolds n xs

/-- A copy is complete: its item's users learn of it (12 R373, 17 R501, 13 R381). -/
def keepComplete (w : KeepWrite) (s : State) : State :=
  match w.item with
  | 1 =>
    let t := modKeep (fun k => { k with pendingFw := newerGen (slotGen k 1 w.slot) (slotGen k 1 k.fwSlot) }) s
    (match w.mbox with
      | some m => respond m 0 [] t
      | none => t)
  | 3 => modKeep (fun k => { k with rankSaved := putSlot w.slot k.rankSaving.head? k.rankSaved, rankSaving := k.rankSaving.drop 1 }) s
  | 4 => modHealth (fun h => { h with saved := putSlot w.slot h.saving.head? h.saved, saving := h.saving.drop 1 }) s
  | _ => s

/-- The write in progress is acknowledged for its unit (12 R369): the zeroed header, a payload unit, or the header at the end. -/
def keepWrote (w : KeepWrite) (ws : List KeepWrite) (s : State) : State :=
  let n := (w.payload.length + 63) / 64
  let k := s.shell.keep
  if w.unit = 0 then
    let x : KeepWrite := { w with slot := targetSlot k w.item, gen := nextGen k w.item, unit := 1 }
    modKeep (fun k => { putUnit (keepOff w.item x.slot) (List.replicate 64 0) k with
      writes := x :: ws, bad := k.bad.filter (· ≠ (w.item, x.slot)), pendingFw := k.pendingFw && w.item != 1 }) s
  else if w.unit ≤ n then
    modKeep (fun k => { putUnit (keepOff w.item w.slot + 64 * w.unit) ((w.payload.drop (64 * (w.unit - 1))).take 64) k with
      writes := { w with unit := w.unit + 1 } :: ws }) s
  else keepComplete w (modKeep (fun k => { putUnit (keepOff w.item w.slot) (keepHdr w.item w.gen w.payload) k with writes := ws }) s)

/-- What a failed write would have left to the users of its item is forgotten; a final flush has not completed (18 R516). -/
def forgetWrite (item : Nat) (s : State) : State :=
  let t := modSeq (fun q => { q with pd := q.pd.map fun p => { p with spoilt := p.spoilt || p.past } }) s
  match item with
  | 3 => modKeep (fun k => { k with rankSaving := k.rankSaving.drop 1 }) t
  | 4 => modHealth (fun h => { h with saving := h.saving.drop 1 }) t
  | _ => t

/-- The keep port reports an error: the target slot is invalid, and the write ends (12 R373). -/
def keepFailed (w : KeepWrite) (ws : List KeepWrite) (s : State) : State :=
  let slot := if w.unit = 0 then targetSlot s.shell.keep w.item else w.slot
  let t := forgetWrite w.item (modKeep (fun k => { k with writes := ws, bad := (w.item, slot) :: k.bad, pendingFw := k.pendingFw && w.item != 1 }) s)
  match w.mbox with
  | some m => respond m 0x0705 [] t
  | none => t

/-- A unit is read at power-up (18 R512): its data, or a slot whose reads fail. -/
def keepRead (err : Bool) (data : List Byte) (s : State) : State :=
  modKeep (fun k =>
    let off := 64 * k.rdUnit
    if err then { k with rdUnit := k.rdUnit + 1, bad := slotOfUnit k.rdUnit :: k.bad.filter (· ≠ slotOfUnit k.rdUnit) }
    else { k with rdUnit := k.rdUnit + 1, mem := tabPutList 0 k.mem off (data.take 64) }) s

/-- KEEP_UNIT_ACK is due: a write is in progress, or the keep is being read at power-up. -/
def keepAckReady (s : State) : Bool := hardUp s && (!s.shell.keep.writes.isEmpty || (s.steward.phase == 1 && decide (s.shell.keep.rdUnit < keepUnits)))

/-- The final keep flush is complete once nothing is left to write: VLINK_REQ falls (18 R516). -/
def flushDone (s : State) : State :=
  match s.seq.pd with
  | some p =>
    if p.past = true ∧ s.shell.keep.writes.isEmpty = true then
      modSeq (fun q => { q with flushed := !p.spoilt, req := q.req &&& 3, step := .drop 3 }) s
    else s
  | none => s

/-- The effect of KEEP_UNIT_ACK. -/
def keepAckEff (s : State) (err : Bool) (data : List Byte) : State :=
  match s.shell.keep.writes with
  | w :: ws => flushDone (if err then keepFailed w ws s else keepWrote w ws s)
  | [] => keepRead err data s

/-- KEEP_UNIT_ACK (12 R366, R369). -/
def execKeepUnitAck (err : Bool) (data : List Byte) (s : State) : Host.Outcome State Fault Refusal := due (keepAckReady s) s (keepAckEff s err data)

/-! Firmware (12 R371 to R373). -/

/-- The number of bytes most significant first. -/
def beVal (bs : List Byte) : Nat := leVal bs.reverse

/-- A payload has the layout of a firmware of its length (12 R371, R373). -/
def fwFormat (p : List Byte) : Bool :=
  decide (0x100 ≤ p.length) && pfld p 0 4 == 0x4E454659 && pfld p 0x14 12 == 0 && pfld p 0x81 31 == 0 && 0x100 + pfld p 0x10 4 == p.length

/-- PUBKEY matches KEY_HASH, whose highest byte is the first of the digest (20 R562), and the signature holds (12 R371). -/
def fwSigned (keyHash : BitVec 384) (p : List Byte) : Bool :=
  let pub := (p.drop 0x20).take 97
  let d := sha384 (p.take 0xA0 ++ p.drop 0x100)
  beVal (sha384 pub) == keyHash.toNat && pfld pub 0 1 == 4 &&
    ecdsaVerify (beVal d) (beVal ((pub.drop 1).take 48)) (beVal (pub.drop 49)) (beVal ((p.drop 0xA0).take 48)) (beVal ((p.drop 0xD0).take 48))

/-- The firmware of a slot verifies (12 R371). -/
def fwVerifies (s : State) (slot : Nat) : Bool :=
  let p := slotPayload s.shell.keep 1 slot
  decide (0x100 ≤ p.length) && 0x100 + pfld p 0x10 4 == p.length && fwSigned s.steward.keyHash p

/-- The effect of FW_UPDATE (12 R373). -/
def fwUpdateEff (s : State) (m : Nat) (w : MsgWord) (bytes : Option (List Byte)) : State :=
  let n := wfld w 0x14 4
  if 0x800000 - 64 < n then respond m 0x0704 [] s
  else match bytes with
    | none => respond m 0x0109 [] s
    | some raw =>
      let p := raw.take n
      if p.length ≠ n ∨ fwFormat p = false then respond m 0x0701 [] s
      else if fwSigned s.steward.keyHash p = false then respond m 0x0702 [] s
      else if pfld p 0xC 4 < s.shell.keep.svn then respond m 0x0703 [] s
      else await m (queueKeep 1 p (some m) s)

/-- FW_UPDATE (12 R373). -/
def execFwUpdate (m : Nat) (w : MsgWord) (bytes : Option (List Byte)) (s : State) : Host.Outcome State Fault Refusal :=
  cmd m w 0x39 s (fwUpdateEff s m w bytes)

/-! Snapshot (12 R374 to R378). -/

/-- Change the snapshot. -/
def modSnap (f : Snap → Snap) (s : State) : State := modShell (fun h => { h with snap := f h.snap }) s

/-- A running task uses a slot of the fabric (12 R374). -/
def fabricTask (s : State) : Bool :=
  s.steward.tasks.any fun t => t.state == .launched && (match imageOf s t with
    | some i => usesFabric i
    | none => false)

/-- A freeze is in effect or pending, or the response of the last one is still to come (12 R374, log 59). -/
def snapBusy (s : State) : Bool := s.shell.snap.frozen || s.shell.snap.pend || s.shell.snap.mbox.isSome

/-- The effect of SNAPSHOT with ACTION 0x0 (12 R374). -/
def freezeEff (s : State) (m : Nat) (w : MsgWord) : State :=
  let hold := wfld w 0x0E 2
  let at' := wfld w 0x10 8
  if snapBusy s = true ∨ fabricTask s = true then respond m 0x0708 [] s
  else if hold = 0 ∨ (at' ≠ 0 ∧ at' ≤ beatOf s) then respond m 0x0709 [] s
  else await m (modSnap (fun x => { x with
    pend := true, beat := if at' = 0 then beatOf s + 1 else at', named := at' != 0, hold := hold, mbox := some m, noCapture := x.noCapture }) s)

/-- SNAPSHOT_FREEZE (12 R374). -/
def execSnapshotFreeze (m : Nat) (w : MsgWord) (s : State) : Host.Outcome State Fault Refusal :=
  dueAt (decide (m < 64)) (cmdReady s m w 0x37 && wfld w 0x0C 1 == 0) s (freezeEff s m w)

/-- The effect of SNAPSHOT with ACTION 0x1 (12 R374, R377). -/
def releaseEff (s : State) (m : Nat) : State :=
  if s.shell.snap.frozen then await m (modSnap (fun x => { x with relMbox := x.relMbox ++ [m] }) (endFreeze s))
  else respond m 0x070A [] s

/-- SNAPSHOT_RELEASE (12 R374). -/
def execSnapshotRelease (m : Nat) (w : MsgWord) (s : State) : Host.Outcome State Fault Refusal :=
  dueAt (decide (m < 64)) (cmdReady s m w 0x37 && wfld w 0x0C 1 == 1) s (releaseEff s m)

/-- FREEZE_TAKE_EFFECT (12 R375, R376): beat B has begun; SNAP_REQ rises. -/
def execFreezeTakeEffect (s : State) : Host.Outcome State Fault Refusal :=
  due (s.shell.snap.pend && decide (s.shell.snap.beat ≤ beatOf s)) s
    (modSnap (fun x => { x with pend := false, frozen := true, captured := false, req := true, waits := true, beat := beatOf s, since := upBeat s, ending := none }) s)

/-- Answer the freeze (12 R376). -/
def answerFreeze (capture : Nat) (s : State) : State :=
  match s.shell.snap.mbox with
  | some m => respond m 0 [(8, 8, s.shell.snap.beat), (0x10, 1, capture)] (modSnap (fun x => { x with mbox := none }) s)
  | none => s

/-- SNAP_ACK (12 R376): the capture is complete, be it after the wait; SNAP_REQ falls. -/
def execSnapAck (s : State) : Host.Outcome State Fault Refusal :=
  due s.shell.snap.req s
    (answerFreeze 0 (modSnap (fun x => { x with req := false, waits := false, captured := x.frozen }) (if s.shell.snap.frozen then raiseInt 11 s else s)))

/-- SNAP_ACK_TIMEOUT (12 R376): 1,024 beats without SNAP_ACK; SNAP_REQ stays high until it rises. -/
def execSnapAckTimeout (s : State) : Host.Outcome State Fault Refusal :=
  due (s.shell.snap.waits && decide (s.shell.snap.since + 1024 ≤ upBeat s)) s
    (answerFreeze 1 (raiseInt 11 (modSnap (fun x => { x with waits := false, noCapture := true }) s)))

/-- The freeze ends at this boundary (12 R377): HOLD beats have passed, or its end was called for in an earlier beat. -/
def freezeEndReady (s : State) : Bool :=
  s.shell.snap.frozen && (decide (s.shell.snap.since + s.shell.snap.hold ≤ upBeat s) || (match s.shell.snap.ending with
    | some b => decide (b < upBeat s)
    | none => false))

/-- Answer the releases that wait (12 R377). -/
def answerReleases : List Nat → State → State
  | [], s => s
  | m :: ms, s => answerReleases ms (respond m 0 [(8, 8, beatOf s)] s)

/-- The effect of FREEZE_END. -/
def freezeEndEff (s : State) : State :=
  answerReleases s.shell.snap.relMbox (raiseInt 11 (modSnap (fun x => { x with frozen := false, captured := false, ending := none, relMbox := [] }) s))

/-- FREEZE_END (12 R377). -/
def execFreezeEnd (s : State) : Host.Outcome State Fault Refusal := due (freezeEndReady s) s (freezeEndEff s)

end Sys2Proof.Machine
end

