-- ==== Sys2Proof/Machine/TaskOps.lean ====
section
/-!
DEFINITION. Tasks from launch to record (11 R340 to R347, 09 R286, 04 R91 to R93, R104 to R108, R116, R117): the launch boundary, reports of `end` and of faults,
the commit of quantisation state, aborts, completion records, destruction of contexts, the steward's takeover (17 R495).
-/
namespace Sys2Proof.Machine

/-! The variant, the rooms and the claims of a launch. -/

/-- The halls of a variant: of its rooms and of its buffers. -/
def variantHalls (V : Variant) : List Nat := (V.rooms.map (fun (r : RoomRec) => r.room / 16) ++ V.bufs.map fun (b : BufRec) => saHall b.base).eraseDups

/-- Logical rooms that a hall offers; none in a hall that is out of use (17 R499). -/
def roomsOffered (s : State) (h : Nat) : Nat := if s.health.hallsOut.contains h then 0 else tabGet 16 s.offered h

/-- The variant that a launch runs: its refusal, or whether it is the 15-room one (09 R286). -/
def pickVariant (s : State) (i : Image) : Nat × Bool :=
  let hs := variantHalls i.var16 ++ variantHalls i.var15
  if hs.any (fun h => decide (roomsOffered s h < 15)) then (0x0406, false)
  else if hs.all (fun h => decide (16 ≤ roomsOffered s h)) then (0, false)
  else if i.v15 then (0, true) else (0x0404, false)

/-- The variant by the flag. -/
def variantBy (i : Image) (v15 : Bool) : Variant := if v15 then i.var15 else i.var16

/-- The rooms that a launch of the task would use. -/
def roomsWanted (s : State) (i : Image) : List Nat := (variantBy i (pickVariant s i).2).rooms.map (·.room)

/-- Another task holds or has reserved the room (11 R341, 13 R406). -/
def roomTaken (s : State) (n r : Nat) : Bool :=
  s.steward.tasks.any fun t => t.num != n && (t.state == .launched || t.state == .eligible) && t.rooms.contains r

/-- A repair or replacement holds the room (17 R488, R497). -/
def roomHeld (s : State) (r : Nat) : Bool :=
  (s.health.repairs.any fun x => x.rooms.contains r) || s.health.replacing.any fun u => unitRoom s u.1 u.2 == some r

/-- The claims that this engine transmits for a task. -/
def myClaims (i : Image) (t : Task) : List ClaimRec := i.claims.filter fun c => c.member == t.member

/-- Two claims share a slot of a bundle. -/
def shareSlot (a b : ClaimRec) : Bool := a.bundle == b.bundle && overlap a.slot a.count b.slot b.count

/-- The task has sent READY, or taken its own: its rooms and claims are reserved (13 R406). -/
def reserved (x : Task) : Bool := x.members.any fun m => m.member == x.member && m.ready

/-- The first beat that L of a round can be, where it is not named yet: at least 24 beats after the READY that the task would send now (13 R407). -/
def earliestL (s : State) (t : Task) : Nat := t.launchAt.getD (beatOf s + 24)

/-- A claim of the task meets, in a slot and a beat, a claim of another live task, or may meet one of a task that is reserved and whose L is not known (13 R402, R406):
the later L, the fewer beats in common with a launched task, so that the earliest L decides. -/
def claimTaken (s : State) (t : Task) (i : Image) : Bool :=
  s.steward.tasks.any fun x => x.num != t.num && (x.state == .launched || (x.state == .eligible && reserved x)) && (match imageOf s x with
    | some j => (myClaims j x).any fun b => (myClaims i t).any fun a => shareSlot a b && (match x.launch with
        | some l => x.state == .eligible || decide (earliestL s t + a.first ≤ l + b.last)
        | none => true)
    | none => false)

/-- The task's queue may launch: its context is OK and its ring has a free entry (11 R328, R335). -/
def queueLaunches (s : State) (t : Task) : Bool :=
  match queueOf s t.queue with
  | some x => queueOpen s x
  | none => false

/-- A task that became eligible earlier, and whose queue may launch, waits for one of the rooms (11 R341). -/
def earlierWaits (s : State) (t : Task) (rooms : List Nat) : Bool :=
  s.steward.tasks.any fun x => x.num != t.num && x.state == .eligible && queueLaunches s x && decide (x.order < t.order) && (match imageOf s x with
    | some j => (roomsWanted s j).any rooms.contains
    | none => false)

/-- The rooms are free for the task. -/
def roomsFree (s : State) (t : Task) (rooms : List Nat) : Bool :=
  rooms.all (fun r => !roomTaken s t.num r && !roomHeld s r) && !earlierWaits s t rooms

/-! State blocks (04 R90, R116, R117). -/

/-- The bytes of the state block at an address. -/
def blockAt (st : Store) (a : Nat) : List Byte := memBytes st a (blkSize (memBytes st a 64))

/-- The points of a variant with the addresses of their blocks. -/
def pointBlocks (V : Variant) : List (Nat × Nat) :=
  (V.qpoints.map (·.point)).eraseDups.filterMap fun p =>
    match V.qpoints.find? (fun q => q.point == p) with
    | some q => (V.bufs.find? fun b => b.id == q.state).map fun b => (p, b.base)
    | none => none

/-- The chute of an engine room is disabled (17 R500). -/
def chuteDisabled (s : State) (room : Nat) : Bool := s.health.map.chuteOff.contains (physIndexOf s room)

/-- The wide path of a room that executes a consumer of the point is unavailable (04 R116). -/
def wideGone (s : State) (V : Variant) (p : Nat) : Bool := V.qpoints.any fun q => q.point == p && q.role != 0 && chuteDisabled s q.room

/-- MODE and REASON of a point after the transition that applies before launch (04 R116), and whether one applies. -/
def modeBefore (gone : Bool) (b : List Byte) : Nat × Nat × Bool :=
  let m := pfld b 0 1
  let r := pfld b 1 1
  if m = 0 ∧ gone = true ∧ (blkList b).isEmpty = false then (1, 3, true)
  else if m = 1 ∧ r = 3 ∧ gone = false then (0, 0, true)
  else (m, r, false)

/-- The mode of each point of the launch: point, block, mode, reason, changed. -/
def launchModes (s : State) (V : Variant) : List (Nat × Nat × Nat × Nat × Bool) :=
  (pointBlocks V).map fun e => (e.1, e.2, modeBefore (wideGone s V e.1) (blockAt s.store e.2))

/-- Write the transitions into the blocks (04 R117). -/
def putModes : List (Nat × Nat × Nat × Nat × Bool) → Store → Store
  | [], st => st
  | (_, a, m, r, c) :: xs, st => putModes xs (if c then memPut st a [BitVec.ofNat 8 m, BitVec.ofNat 8 r] else st)

/-- What a round reads of a block at launch (04 R91). A block that was changed after load is read as it stands: the model takes any MODE but 1 for normal, any GRAIN but 1
for per tensor, and an unknown format for FP32 (R90, log 107). -/
def readPoint (st : Store) (e : Nat × Nat) : PointL :=
  let b := blockAt st e.2
  ⟨e.1, e.2, pfld b 0 1 == 1, pfld b 6 1 == 1, pfld b 2 1, (fmtOfCode (pfld b 0xA 1)).getD .fp32, blkZero b, pfld b 0xB 1, pfld b 0xC 2, pfld b 0x1C 2,
    (List.range (blkN b)).map fun k => pfld b (64 + 2 * k) 2, blkList b, (fmtOfCode (pfld b 0x1E 2)).getD .fp32, pfld b 8 2, pfld b 0x10 4⟩

/-! Refusals at the launch beat (11 R340). -/

/-- A `chute` op of the list would run in a room whose chute is disabled (17 R500); a WIDE one on a point in beater mode does not. -/
def chuteOps (beater : List Nat) : Bool → List OpWord → Bool
  | _, [] => false
  | true, _ :: ws => chuteOps beater false ws
  | false, w :: ws =>
    (opcOf w == 6 && !((chuteFields w).wide && beater.contains (chuteFields w).ipt)) || chuteOps beater (opcOf w == 3) ws

/-- The words of a room's op list, as they stand. -/
def listWords (st : Store) (V : Variant) (r : RoomRec) : List OpWord :=
  match V.bufs.find? (fun b => b.id == r.oplist) with
  | some b => trimZeros (wordsOf (b.size / 32) (memBytes st b.base b.size))
  | none => []

/-- The claims of this member fit the bundle's present lanes and rate (13 R401, 17 R499). -/
def claimFits (s : State) (i : Image) (c : ClaimRec) : Bool :=
  let bn := tabGet bundleZero s.fabric.bundles c.bundle
  let lanes := ((List.range 24).filter fun k => bn.lanes.testBit k).length
  let frame := ((i.flows.find? fun f => f.flow == c.flow).map (·.frame)).getD 0
  bn.up && decide (c.frames * (32 + frame) ≤ c.count * lanes * lsBytes bn.rate)

/-- The refusal of a launch, 0 for none, in the order of R340. -/
def launchRefusal (s : State) (t : Task) (i : Image) : Nat :=
  let pv := pickVariant s i
  let V := variantBy i pv.2
  let ms := launchModes s V
  let beater := (ms.filter fun m => m.2.2.1 == 1).map (·.1)
  if (variantBlocks V).any (blockBusy s) then 0x0310
  else if i.copies.any (fun c => c.variant == (if pv.2 then 2 else 1) && beater.contains c.point && !c.present) then 0x0311
  else if pv.1 ≠ 0 then pv.1
  else if V.rooms.any (fun r => chuteDisabled s r.room && chuteOps beater false (listWords s.store V r)) then 0x0D04
  else if (myClaims i t).any (fun c => !claimFits s i c) then 0x0D05
  else 0

/-! The launch boundary (11 R341, 06 R161). -/

/-- The register file of a room at launch (06 R161). -/
def launchRegs (t : Task) (room : Nat) : Tab (BitVec 32) :=
  let g := (List.range 8).foldl (fun g k => tabPut 0 g (k + 1) (t.args.getD k 0)) []
  tabPut 0 (tabPut 0 g 14 (BitVec.ofNat 32 room)) 15 (BitVec.ofNat 32 t.member)

/-- The press tables of a room (07 R212, 09 R284). -/
def launchTables (st : Store) (V : Variant) (room : Nat) : Tab (List Byte) :=
  (V.tables.filter fun x => x.room == room).foldl (fun p x => match V.bufs.find? (fun b => b.id == x.buffer) with
    | some b => tabPut [] p x.slot (memBytes st b.base 2064)
    | none => p) []

/-- A room at launch: cleared, its registers set, its op pointer at the entry op (11 R341, 06 R161). -/
def launchRoom (st : Store) (V : Variant) (t : Task) (r : RoomRec) : Room :=
  let base := match V.bufs.find? (fun b => b.id == r.oplist) with
    | some b => b.base
    | none => 0
  { roomZero with
    task := some t.num, g := launchRegs t r.room, listBase := base, listOps := (listWords st V r).length, fetchNext := r.entry,
    press := launchTables st V r.room }

/-- Start the rooms. -/
def startRooms (V : Variant) (t : Task) : List RoomRec → State → State
  | [], s => s
  | r :: rs, s => startRooms V t rs { s with rooms := tabPut roomZero s.rooms r.room (launchRoom s.store V t r) }

/-- The descriptors of the variant's rings: HEAD and TAIL 0 and VALID as given (08 R243). -/
def setRings (valid : Bool) (V : Variant) (st : Store) : Store :=
  V.rings.foldl (fun st r => { st with rings := tabMod ringZero st.rings (1024 * r.hall + r.desc) fun x =>
    if valid then { x with head := 0, tail := 0, valid := true } else { x with valid := false } }) st

/-- The stream ports of the task's pipes (12 R355). -/
def openPorts (V : Variant) (n : Nat) : List StreamPort :=
  V.pipes.filterMap fun p =>
    if 0xFF00 ≤ p.producer then some ⟨n, p.pipe, p.producer - 0xFF00, 0, 0, [], none⟩
    else if 0xFF00 ≤ p.consumer then some ⟨n, p.pipe, p.consumer - 0xFF00, 0, 0, [], none⟩
    else none

/-- The argument buffers: the eight words, then zeros (06 R161). -/
def argBufs (V : Variant) (args : List (BitVec 32)) (st : Store) : Store :=
  V.bufs.foldl (fun st b => if b.kind = 4 then
    writeWhole st b.base ((((List.range 8).flatMap fun k => leBytes 4 (args.getD k 0).toNat) ++ List.replicate 480 0)) else st) st

/-- The lines that a launch reads: state blocks and press tables. -/
def launchLines (st : Store) (V : Variant) : List Nat :=
  (pointBlocks V).flatMap (fun e => linesOf e.2 (blkSize (memBytes st e.2 64))) ++
    V.tables.flatMap fun x => match V.bufs.find? (fun b => b.id == x.buffer) with
      | some b => linesOf b.base 2064
      | none => []

/-- A point whose headroom, beater scale or array holds what is not a scale faults the task that reads it at launch (04 R90, R91, 03 R71). -/
def launchScaleBad (ps : List PointL) : Bool := ps.any fun p => swInvalid p.headroom || swInvalid p.scaleB || p.scales.any swInvalid

/-- The task launches: it takes its rooms, and the room cores start. A line that cannot be read, or an invalid scale, halts it (08 R247, 04 R90).
A scratch buffer keeps the bytes that the store holds: 09 R276 calls its contents at launch undefined (log 106). -/
def launchTask (n : Nat) (t : Task) (i : Image) (s : State) : State :=
  let v15 := (pickVariant s i).2
  let V := variantBy i v15
  let ms := launchModes s V
  let a := modStore (fun st => setRings true V (argBufs V t.args (putModes ms st))) s
  let r := readLines a.store false (launchLines a.store V)
  let b := putStore r.1 a
  let c := startRooms V t V.rooms b
  let d := modShell (fun h => { h with ports := h.ports ++ openPorts V n }) c
  let ps := (pointBlocks V).map (readPoint a.store)
  let e := modTask n (fun t => { t with
    state := .launched, v15 := v15, launch := some (beatOf s), launchUp := upBeat s, rooms := V.rooms.map (·.room), ended := [], counts := countsZero,
    points := ps, modeTrans := ms.any (fun m => m.2.2.2.2), wrote := [], cert := certified i { t with v15 := v15 }, qsat := false, qlost := false, launchAt := none,
    members := t.members.map fun m => { m with ended := false, halted := false } }) d
  if r.2.1 ≠ 0 then blameBank r.2.1 r.2.2 (haltTask n r.2.1 (some { plainFault r.2.1 with line := faultLine r.2.1 r.2.2 }) false e)
  else if launchScaleBad ps then haltTask n 0x308 (some (plainFault 0x308)) false e else e

/-! When a staged item commits (10 R318). -/

/-- DEADLINE of a staged item. -/
def deadlineOf (x : Staged) : Nat := wfld x.word 0x0E 2

/-- A boundary is one at which a staged item commits (10 R317, R318): of its kind, within its deadline, and where the change of pace makes the engine faster with VCORE
raised for it (02 R47). -/
def stagedMet (s : State) (x : Staged) : Bool :=
  let kind := wfld x.word 0x0C 1
  decide ((if kind = 2 then x.a else x.a + 1) ≤ beatOf s) && decide (beatOf s ≤ x.a + deadlineOf x) && (kind != 1 || (launchedTasks s).isEmpty) &&
    (wfld x.word 4 2 != 0x30 || decide (paceNeed s x ≤ s.power.vcore))

/-- A staged item commits at the present boundary. -/
def stagedDue (_s : State) (x : Staged) : Bool := x.ready

/-- What a launch at this boundary needs beside the task's own turn: the engine is ready, no freeze holds the boundary (12 R375), and what commits at it has
committed (10 R320). -/
def launchesOn (s : State) : Bool :=
  !s.steward.staged.any (stagedDue s) && working s && !s.shell.snap.frozen && !(s.shell.snap.pend && decide (s.shell.snap.beat ≤ beatOf s))

/-- TASK_LAUNCH_BOUNDARY is due: 2 beats after the task became eligible with its rooms free, or at the L that the leader named (11 R341, 13 R407). -/
def launchReady (s : State) (n : Nat) : Bool :=
  match taskOf s n with
  | none => false
  | some t =>
    match imageOf s t with
    | none => false
    | some i =>
      t.state == .eligible && launchesOn s &&
        (if t.members.isEmpty then decide (t.eligBeat + 2 ≤ upBeat s) && queueLaunches s t && roomsFree s t (roomsWanted s i)
        else match t.launchAt with
          | some l => decide (l ≤ beatOf s)
          | none => false)

/-- A member's task counts as launched with no room: it cannot run and waits for its leader's ABORT. -/
def launchVoid (n : Nat) (s : State) : State :=
  modTask n (fun t => { t with state := .launched, launch := some (beatOf s), launchUp := upBeat s, rooms := [], ended := [], launchAt := none }) s

/-- A member misses L: its queue may not launch then, or beat L is over. -/
def missesLaunch (s : State) (t : Task) : Bool := !t.members.isEmpty && (!queueLaunches s t || t.launchAt != some (beatOf s))

/-! The commit of quantisation state (04 R92, R104 to R108, R116). -/

/-- The larger entry at each key. -/
def maxTab (a b : Tab Nat) : Tab Nat := b.foldl (fun t e => tabPut 0 t e.1 (max (tabGet 0 t e.1) e.2)) a

/-- The rooms' statistics of a point combined (04 R104). -/
def combine (s : State) (rooms : List Nat) (p : Nat) : PStat :=
  rooms.foldl (fun a r =>
    let x := tabGet pstatZero (roomOf s r).stats p
    ⟨maxTab a.norm x.norm, max a.beat x.beat, min (2 ^ 32 - 1) (a.sat + x.sat), min (2 ^ 32 - 1) (a.nonfin + x.nonfin)⟩) pstatZero

/-- The largest of the newest `n` entries of a history, from slot `head` down; `at'` reads a slot. -/
def newestMax (at' : Nat → Nat) (head n : Nat) : Nat := (List.range n).foldl (fun m k => max m (at' ((head + 16 - k) % 16))) 0

/-- The scales of a block as the round read its header at launch (04 R90, R91). -/
def pointN (p : PointL) : Nat := if p.grain then p.chans else 1

/-- Offset of its normal history. -/
def pointHist (p : PointL) : Nat := 64 + up64 (2 * pointN p)

/-- Offset of its beater history. -/
def pointBeat (p : PointL) : Nat := pointHist p + up64 (64 * pointN p)

/-- Its bytes. -/
def pointBytes (st : Store) (p : PointL) : List Byte := memBytes st p.block (pointBeat p + 64 + 128)

/-- The bytes of a committed block. What the round read at launch stands: a later change of the header has no part in it (04 R91). -/
def committed (p : PointL) (x : PStat) (b : List Byte) : List Byte :=
  let N := pointN p
  let head := (pfld b 5 1 + 1) % 16
  let b1 := splice (splice b (pointHist p + 4 * N * head) ((List.range N).flatMap fun k => leBytes 4 (tabGet 0 x.norm k))) (pointBeat p + 4 * head) (leBytes 4 x.beat)
  let hn := min 16 (pfld b 3 1 + 1)
  let hb := min 16 (pfld b 4 1 + 1)
  let clamps := decide (p.thresh < x.sat)
  let q := qmaxOf p.qfmt p.zero
  let room := decodeFmt .sw16 p.headroom
  let win := p.win
  let ofHist (at' : Nat → Nat) (cnt : Nat) (single : Bool) (prev : Nat) : Nat × Bool :=
    deriveScale (decodeFmt .fp32 (newestMax at' head (if single then 1 else min cnt win))) room q prev
  let sc := (List.range N).map fun k => ofHist (fun j => pfld b1 (pointHist p + 4 * N * j + 4 * k) 4) hn (clamps && !p.beater) (p.scales.getD k 0)
  let sb := ofHist (fun j => pfld b1 (pointBeat p + 4 * j) 4) hb (clamps && p.beater) p.scaleB
  let clamp := sb.2 || sc.any (·.2)
  let toNormal := p.beater && decide (pfld b 1 1 = 1 ∧ win ≤ hn)
  let flags := (if clamps then 3 else 0) + (if clamp then 4 else 0) + (if x.nonfin ≠ 0 then 8 else 0)
  let h := if toNormal then splice b1 0 [0, 0] else b1
  let h := splice (splice h 3 (leBytes 1 hn ++ leBytes 1 hb ++ leBytes 1 head)) 7 (leBytes 1 flags)
  let h := splice h 0x14 (leBytes 4 x.sat ++ leBytes 4 (min (2 ^ 32 - 1) (pfld b 0x18 4 + 1)) ++ leBytes 2 sb.1)
  splice (splice h 0x20 (leBytes 4 x.nonfin)) 64 (sc.flatMap fun c => leBytes 2 c.1)

/-- Commit one point; a block with a line that cannot be read is left as it is (11 R346). -/
def commitPoint (n : Nat) (rooms : List Nat) (p : PointL) (s : State) : State :=
  let b := pointBytes s.store p
  let r := readLines s.store false (linesOf p.block b.length)
  let a := putStore r.1 s
  if r.2.1 ≠ 0 then blameBank r.2.1 r.2.2 (modTask n (fun t => { t with qlost := true }) a)
  else
    let x := combine s rooms p.point
    modTask n (fun t => { t with qsat := t.qsat || decide (p.thresh < x.sat) }) (modStore (fun st => writeWhole st p.block (committed p x b)) a)

/-- Commit the points in turn. -/
def commitAll (n : Nat) (rooms : List Nat) : List PointL → State → State
  | [], s => s
  | p :: ps, s => commitAll n rooms ps (commitPoint n rooms p s)

/-! The end of a task. -/

/-- A room is released; a fault of it that has not been reported stays (11 R346). -/
def freeRoom (r : Nat) (s : State) : State :=
  modRoom r (fun x => { roomZero with fault := if x.reported then none else x.fault }) s

/-- Release rooms, and end the phases of their halls (16 R462). -/
def freeRooms : List Nat → State → State
  | [], s => s
  | r :: rs, s => freeRooms rs (phaseEnd (r / 16) (freeRoom r s))

/-- The task's stream ports discard what they hold, and the shell pulses FLUSH of each of their slots once (12 R356). -/
def flushPorts (n : Nat) (s : State) : State :=
  let mine := s.shell.ports.filter fun p => p.task == n
  modShell (fun h => { h with
    ports := h.ports.filter (fun p => p.task != n),
    flushes := (mine.map (·.slot)).eraseDups.foldl (fun t k => tabMod 0 t k (· + 1)) h.flushes }) s

/-- The requesters of a task: its rooms and its stream ports. -/
def requesters (s : State) (t : Task) : List Nat := t.rooms ++ (s.shell.ports.filter fun p => p.task == t.num).map fun p => portRoom p.slot

/-- What the requesters of a list still wait for at the lanes and ports is given up: their writes have landed. -/
def dropAccesses (rs : List Nat) (st : Store) : Store :=
  { st with lanes := st.lanes.filter (fun u => !rs.contains u.room), remote := st.remote.filter fun u => !rs.contains u.room }

/-- A task gives up its rooms, rings, ports and flows (08 R243, 11 R341, 13 R402). -/
def releaseTask (n : Nat) (s : State) : State :=
  match taskOf s n with
  | none => s
  | some t =>
    let V := match imageOf s t with
      | some i => variantOf i t
      | none => variantNone
    modFabric (fun x => { x with flows := x.flows.filter (fun f => f.task != n), flowBufs := x.flowBufs.filter fun b => b.gtask != t.gtask })
      (flushPorts n (freeRooms t.rooms (modStore (fun st => setRings false V (dropAccesses (requesters s t) st)) s)))

/-- Answer the TASK_ABORT commands that wait for a task (11 R345). -/
def answerAborts (status final : Nat) : List Nat → State → State
  | [], s => s
  | m :: ms, s => answerAborts status final ms (respond m status [(8, 2, final)] s)

/-- The completion point (11 R342, R346): the commit, then the task is COMPLETED. -/
def completePoint (n : Nat) (s : State) : State :=
  match taskOf s n with
  | none => s
  | some t =>
    let a := commitAll n t.rooms t.points s
    let total := t.rooms.foldl (fun c r => countsAdd c (roomOf s r).counts) countsZero
    let b := releaseTask n (modTask n (fun t => { t with counts := total, abortBy := [], fault := t.fault0, others := 0 }) a)
    promote (finishTask n .completed 0 (answerAborts 0x0210 0 t.abortBy b))

/-- Note that a member has ended. -/
def markEnded (n m : Nat) (s : State) : State :=
  modTask n (fun t => { t with members := t.members.map fun x => if x.member = m then { x with ended := true } else x }) s

/-- The leader's completion point once every member has ended (13 R410). -/
def leaderEnd (n : Nat) (s : State) : State :=
  match taskOf s n with
  | none => s
  | some t => if t.members.all (·.ended) then completePoint n (tellMembers t 0x14 0 [] t.members s) else s

/-- Every member room of this engine has ended (11 R346, 13 R410). -/
def allEnded (n : Nat) (s : State) : State :=
  match taskOf s n with
  | none => s
  | some t =>
    if t.members.isEmpty then completePoint n s
    else if t.member = 0 then leaderEnd n (markEnded n 0 s)
    else sendMgmt (leaderAddr t) 0x13 t.round t.gtask.toNat t.member [] (markEnded n t.member s)

/-- A member whose part of the image names no rooms has no `end` to wait for: it has ended as it launches (13 R400, R410). -/
def endBare (n : Nat) (s : State) : State :=
  match taskOf s n with
  | some t => if t.state = .launched ∧ t.halting = false ∧ t.rooms.isEmpty = true then allEnded n s else s
  | none => s

/-- The effect of TASK_LAUNCH_BOUNDARY. A member that cannot launch when its leader has launched the round faults with that refusal; one that misses L launches nothing
and faults with LAUNCH_LATE (13 R407, log 60). -/
def launchBoundaryEff (s : State) (n : Nat) : State :=
  match taskOf s n with
  | none => s
  | some t =>
    match imageOf s t with
    | none => s
    | some i =>
      if missesLaunch s t then haltTask n 0x0904 (some (plainFault 0x0904)) false (launchVoid n s)
      else match launchRefusal s t i with
      | 0 => endBare n (launchTask n t i s)
      | code =>
        if t.members.isEmpty then promote (finishTask n .refused code s)
        else haltTask n code (some (plainFault code)) false (launchVoid n s)

/-- TASK_LAUNCH_BOUNDARY (11 R341). -/
def execTaskLaunchBoundary (task : Nat) (s : State) : Host.Outcome State Fault Refusal := due (launchReady s task) s (launchBoundaryEff s task)

/-- The room has executed `end` and all it issued has retired (06 R191). -/
def endReady (s : State) (n room : Nat) : Bool :=
  match runningTask s n with
  | some (t, _) => t.rooms.contains room && !t.ended.contains room && (roomOf s room).hold == .ended && (roomOf s room).inflight.isEmpty &&
      (roomOf s room).narrow.isEmpty && (roomOf s room).fault.isNone && !s.shell.snap.frozen
  | none => false

/-- The effect of END_REPORT. -/
def endReportEff (s : State) (n room : Nat) : State :=
  let t := modTask n (fun t => { t with ended := t.ended ++ [room] }) s
  match taskOf t n with
  | some x => if x.rooms.all x.ended.contains then allEnded n t else t
  | none => t

/-- END_REPORT (11 R346). -/
def execEndReport (task room : Nat) (s : State) : Host.Outcome State Fault Refusal :=
  dueAt (hasRoom s room) (endReady s task room) s (endReportEff s task room)

/-! Faults and aborts (11 R345, 17 R487). -/

/-- The unit that a room's fault is attributed to (17 R487): the mould whose check failed, a chute, the bank of a cellar line. A line of a pantry or shelf lies in no bank
(log 61). -/
def faultUnit (s : State) (room : Nat) (f : FaultRec) : Option (Nat × Nat) :=
  match f.code with
  | 0x309 => (match (roomOf s room).mismatch with
    | some x => some (2, 4 * physIndexOf s room + x.mould)
    | none => some (1, physIndexOf s room))
  | 0x30A => some (7, physIndexOf s room)
  | 0x503 => if saLevel (f.line * 64) = 0 then some (4, bankOfLine s f.line) else none
  | 0x504 => if saLevel (f.line * 64) = 0 then some (4, bankOfLine s f.line) else none
  | _ => none

/-- FAULT_REPORT is due: the room holds a fault that it has not reported. -/
def faultReady (s : State) (room : Nat) : Bool := (roomOf s room).fault.isSome && !(roomOf s room).reported && hardUp s

/-- The effect of FAULT_REPORT: the unit is noted, and the task halts (06 R199, 11 R346). -/
def faultReportEff (s : State) (room : Nat) : State :=
  match (roomOf s room).fault with
  | none => s
  | some f =>
    let x := roomOf s room
    let a := modRoom room (fun x => { x with reported := true }) s
    let u := faultUnit s room f
    let b := match u with
      | some k => blame k.1 k.2 f.code (some room) x.task x.mismatch a
      | none => a
    match x.task with
    | some n => haltTask n f.code (some f) u.isSome b
    | none => b

/-- FAULT_REPORT (06 R199). -/
def execFaultReport (room : Nat) (s : State) : Host.Outcome State Fault Refusal := dueAt (hasRoom s room) (faultReady s room) s (faultReportEff s room)

/-- A repair that is going on or waits names the task (17 R488, R498). -/
def repairNames (s : State) (n : Nat) : Bool := (s.health.repairs.any fun r => r.tasks.contains n) || s.health.attribs.any fun a => a.task == some n

/-- Forget what the fabric noted of a round, so that the rerun repeats its rendezvous (13 R410). -/
def forgetRound (t : Task) (s : State) : State :=
  if t.members.isEmpty then s
  else modFabric (fun x => { x with
    readys := x.readys.filter (fun r => !(r.1 == t.gtask && r.2.1 == t.round)),
    seen := x.seen.filter fun k => !(k.1 / 2 ^ 24 == t.gtask.toNat && k.2.toNat == t.round) }) s

/-- A halted task goes back to its queue, at once or when its repair has ended (11 R344, 17 R498). -/
def sendBack (t : Task) (s : State) : State :=
  let a := forgetRound t (modTask t.num (fun t => { t with
    rooms := [], ended := [], wrote := [], points := [], members := t.members.map fun m => { m with ready := false, ended := false, halted := false } }) s)
  if repairNames s t.num then modTask t.num (fun t => { t with parked := true, state := .queued, halting := false }) a else requeueTask t.num a

/-- Every admitted write of the task has landed: no narrow store, and no write at a lane or port, is left (11 R345). -/
def storesLanded (s : State) (t : Task) : Bool :=
  let rs := requesters s t
  (t.rooms.all fun r => (roomOf s r).narrow.all fun a => a.load || a.served) &&
    !(s.store.lanes.any fun u => rs.contains u.room && u.write.isSome && !u.served) && !(s.store.remote.any fun u => rs.contains u.room && u.write.isSome)

/-- Every member has answered the leader, or the task has no other member (13 R409). -/
def peersHalted (t : Task) : Bool := t.members.isEmpty || t.members.all fun m => m.member == 0 || m.halted

/-- The task's end is its leader's to decide: a member, unless it found the leader gone (13 R409, R411). -/
def followsLeader (t : Task) : Bool := !t.members.isEmpty && t.member != 0 && t.status != 0x0905

/-- Note that a member has halted. -/
def markHalted (n m : Nat) (s : State) : State :=
  modTask n (fun t => { t with members := t.members.map fun x => if x.member = m then { x with halted := true } else x }) s

/-- A member has answered HALTED. -/
def saidHalted (t : Task) : Bool := t.members.any fun m => m.member == t.member && m.halted

/-- Answer the leader with HALTED, once (13 R409). -/
def sayHalted (t : Task) (s : State) : State :=
  if followsLeader t = true ∧ saidHalted t = false then
    sendMgmt (leaderAddr t) 0x16 t.round t.gtask.toNat t.member [] (markHalted t.num t.member s)
  else s

/-- A member whose rooms have halted, and whose leader's ABORT has come, has an answer to give (13 R409). -/
def haltAnswers (s : State) (t : Task) : Bool :=
  t.state == .launched && t.halting && followsLeader t && storesLanded s t && (t.members.any fun m => m.member == 0 && m.halted)

/-- At a beat boundary members answer HALTED for the tasks of a list. -/
def answerHalts : List Task → State → State
  | [], s => s
  | t :: ts, s => answerHalts ts (if haltAnswers s t then sayHalted t s else s)

/-- The leader has the HALTED of this member. -/
def haltAcked (s : State) (t : Task) : Bool :=
  !s.fabric.unacked.any fun m => m.frame.hdr.kind == 0x16 && m.frame.hdr.task == t.gtask && m.frame.hdr.tag == BitVec.ofNat 32 t.round

/-- TASK_HALTED is due (11 R345, 13 R409). The leader holds HALTED from every member. No frame tells a member so: its task can end once its own HALTED has been
acknowledged, as it does when the command comes, or 320 beats from ABORT (log 108); a member of an engine that powers down or resets does not wait for the leader
(18 R516). -/
def haltedReady (s : State) (n : Nat) : Bool :=
  match taskOf s n with
  | some t => t.state == .launched && t.halting && storesLanded s t &&
      (if followsLeader t then leaving s || (saidHalted t && haltAcked s t) || ((t.members.any fun m => m.member == 0 && m.halted) && decide (t.haltBeat + 320 ≤ upBeat s))
      else t.member != 0 || peersHalted t)
  | none => false

/-- The effect of TASK_HALTED: what the aborted run wrote is undefined (02 R60); the task is ABORTED, or goes back to its queue. The record of a rerun holds the fault
that caused the first requeue (11 R344). -/
def taskHaltedEff (s : State) (n : Nat) : State :=
  match taskOf s n with
  | none => s
  | some t =>
    let b := sayHalted t (releaseTask n (scramble t.wrote s))
    if requeueable s t then sendBack t b
    else resetAnswer (promote (finishTask n .aborted t.status (answerAborts 0 0x0211 t.abortBy (modTask n (fun t => { t with
      abortBy := [], fault := t.fault0.orElse (fun _ => t.fault) }) b))))

/-- TASK_HALTED (11 R345). -/
def execTaskHalted (task : Nat) (s : State) : Host.Outcome State Fault Refusal := due (haltedReady s task) s (taskHaltedEff s task)

/-! The completion record (11 R342, R343). -/

/-- The host port has acknowledged the record. -/
def recordAckReady (s : State) (n : Nat) : Bool :=
  match taskOf s n with
  | some t => t.record == .acked
  | none => false

/-- The effect of COMPLETION_RECORD_ACK: CPL_TAIL advances; a completed task's fence is signalled; the EVT follows (11 R342, R335). -/
def recordAckEff (s : State) (n : Nat) : State :=
  match taskOf s n with
  | none => s
  | some t =>
    let a := putStatus t.queue (modQueue t.queue (fun q => { q with cplTail := (q.cplTail + 1) % 2 ^ 32 }) (modTask n (fun t => { t with record := .written }) s))
    let b := match t.state, t.sigFence with
      | .completed, some f => setFence f true a
      | _, _ => a
    let c := if t.notify then addEvt ⟨2, t.queue, t.ctx, t.seq.toNat, if t.num < 2 ^ 32 then t.num else 2 ^ 32 - 1, 0⟩ b else b
    resetAnswer (promote (endQueue t.queue (tryRecord t.queue (if t.status = 0 then c else trace 1 t.status c))))

/-- COMPLETION_RECORD_ACK (11 R342). -/
def execCompletionRecordAck (task : Nat) (s : State) : Host.Outcome State Fault Refusal := due (recordAckReady s task) s (recordAckEff s task)

/-! Destruction of a context (11 R347). -/

/-- Abort the launched tasks of a context. -/
def haltCtx : List Nat → State → State
  | [], s => s
  | n :: ns, s => haltCtx ns (haltTask n 0x0211 none false s)

/-- A round of several engines that had begun for a task not yet launched is withdrawn (11 R347, 13 R408); its task is final, and nothing is written of it while the
context is being destroyed. The other tasks that wait go with the context. -/
def discardTasks : List Task → State → State
  | [], s => s
  | t :: ts, s => discardTasks ts (if t.members.isEmpty then s else finishTask t.num .aborted 0x0211 (withdrawRound t 0x0211 s))

/-- What a command under way has begun ends with it: its copy to the host, its load, its close, its destruction of a queue. -/
def cutWork (m : Nat) (w : MsgWord) (s : State) : State :=
  match wfld w 4 2 with
  | 0x14 => modQueue (wfld w 0x0C 2) (fun q => if q.closing = some m then { q with closing := none } else q) s
  | 0x20 => undoLoad m s
  | 0x21 => undoClose m s
  | 0x29 => undoClose m s
  | 0x2B => undoClose m s
  | 0x2C => cutCopy w (dropCopy m s)
  | _ => s

/-- The other commands of the context that still execute are cut short (11 R347, 10 R314); an abort of a launched task is answered when it halts. -/
def cutCommands (c : Nat) : List (Nat × Mailbox) → State → State
  | [], s => s
  | (m, b) :: bs, s =>
    cutCommands c bs (match b.executing with
      | some w =>
        if wfld w 8 2 = c ∧ c ≠ 0 ∧ !(wfld w 4 2 == 0x19 && b.awaits) = true then respond m 0x0205 [] (cutWork m w s) else s
      | none => s)

/-- The host requests of a context: descriptor fetches of its queues, records of its tasks. -/
def ofCtx (s : State) (c : Nat) (p : Purpose) : Bool :=
  match p with
  | .descFetch q => s.steward.queues.any fun x => x.id == q && x.ctx == c
  | .recordWrite n => (match taskOf s n with
    | some t => t.ctx == c
    | none => false)
  | _ => false

/-- The queues of a context stop fetching, and its host accesses end; a record not yet written stays unwritten while the context is being destroyed. -/
def muteCtx (c : Nat) (s : State) : State :=
  let lines := (s.steward.queues.filter fun q => q.ctx == c).map (·.status) ++ (s.steward.fences.filter fun f => f.2.ctx == some c).map (·.2.mirror)
  modSteward (fun x => { x with
    queues := x.queues.map (fun q => if q.ctx = c then { q with state := 2, fetching := none, arrived := none } else q),
    tasks := x.tasks.map fun t => if t.ctx = c ∧ (t.record = .writing ∨ t.record = .acked) then { t with record := .toWrite } else t })
    (modHost (fun h => { h with
      out := h.out.map (fun r => if ofCtx s c r.purpose then { r with purpose := .dead } else r),
      waitq := h.waitq.filter (fun r => !ofCtx s c r.1), held := h.held.filter fun w => !lines.contains w.addr }) s)

/-- The effect of CTX_DESTROY (11 R326, R347, 12 R365, R377). -/
def ctxDestroyEff (s : State) (m : Nat) (w : MsgWord) : State :=
  let c := wfld w 0x0C 2
  if c = 0 then respond m 0x0107 [] s
  else if 2 ≤ (ctxOf s c).state then respond m 0x0203 [] s
  else
    let a := await m (muteCtx c (modCtx c (fun x => { x with was := x.state, state := 2, destroyer := some m }) (endFreeze s)))
    let b := discardTasks (a.steward.tasks.filter fun t => t.ctx == c && (t.state == .queued || t.state == .eligible)) a
    let d := haltCtx ((b.steward.tasks.filter fun t => t.ctx == c && t.state == .launched).map (·.num)) b
    promote (cutCommands c d.steward.mboxes (stopContext c (List.range s.params.hatchChannels) d))

/-- CTX_DESTROY (11 R326). -/
def execCtxDestroy (m : Nat) (w : MsgWord) (s : State) : Host.Outcome State Fault Refusal := cmd m w 0x11 s (ctxDestroyEff s m w)

/-- CTX_DESTROY_COMPLETE is due: no task of the context is launched, no burst of the hatch is in flight for it, and what it owned is clear. -/
def destroyReady (s : State) (c : Nat) : Bool :=
  (ctxOf s c).state == 2 && !(s.steward.tasks.any fun t => t.ctx == c && t.state == .launched) &&
    !(s.shell.hatch.any fun e => e.2.ctx == c && e.2.busy) && !((ctxOf s c).granules.any s.store.clearing.contains)

/-- Windows of the context close: it owns them, or they name it as PEER with ANY_PEER 0 (11 R347). -/
def closeCtx (c : Nat) (st : Store) : Store :=
  { st with windows := st.windows.filter fun e => !(e.2.opened && (e.2.owner == c || (e.2.peer == c && !e.2.anyPeer))) }

/-- Unload the images of a list. -/
def unloadAll : List Image → State → State
  | [], s => s
  | i :: is, s => unloadAll is (unloadImage i s)

/-- The granules that the context owns. -/
def ctxGranules (st : Store) (c : Nat) : List Nat := (st.own.filter fun e => (ownClass e.2 == 1 || ownClass e.2 == 2) && ownCtx e.2 == c).map (·.1)

/-- Unbind the mailboxes of a list (10 R313). -/
def unbindAll (c : Nat) : List Nat → State → State
  | [], s => s
  | m :: ms, s => unbindAll c ms (modMbox m (fun b => { b with binding := 0, boundCtx := 0 }) s)

/-- Windows close; images, queues and fences go; the granules of the context begin to clear (11 R347). -/
def freeCtx (c : Nat) (s : State) : State :=
  let gs := ctxGranules s.store c
  let a := unloadAll (s.steward.images.filter fun i => i.ctx == c) (modStore (closeCtx c) s)
  modCtx c (fun x => { x with freed := true, granules := gs }) (modSteward (fun x => { x with
    queues := x.queues.filter (fun q => q.ctx != c),
    fences := x.fences.filter (fun f => f.2.ctx != some c),
    tasks := x.tasks.filter (fun t => t.ctx != c) }) (modStore (startClearing (ctxGranules a.store c)) a))

/-- The context is DEAD, its mailboxes are unbound, and its destruction is answered (11 R347, 10 R313). -/
def endCtx (c : Nat) (s : State) : State :=
  let e := unbindAll c ((s.steward.mboxes.filter fun e => e.2.binding == 1 && e.2.boundCtx == c).map (·.1)) (forgetPhases c (modCtx c (fun _ => ctxZero) s))
  match (ctxOf s c).destroyer with
  | some m => respond m 0 [] e
  | none => e

/-- The effect of CTX_DESTROY_COMPLETE (11 R347): first what the context holds is freed, and once its granules are clear it is DEAD. -/
def destroyDoneEff (s : State) (c : Nat) : State := if (ctxOf s c).freed then endCtx c s else freeCtx c s

/-- CTX_DESTROY_COMPLETE (11 R347). -/
def execCtxDestroyComplete (ctx : Nat) (s : State) : Host.Outcome State Fault Refusal := due (destroyReady s ctx) s (destroyDoneEff s ctx)

/-! Steward takeover (17 R495). -/

/-- Three heartbeats are missing (17 R487, R495). -/
def takeoverReady (s : State) : Bool := s.steward.up && s.health.map.coreFail.isNone && decide (s.health.beatHb + 12 ≤ upBeat s)

/-- The mailboxes that execute a command. -/
def executingBoxes (s : State) : List Nat := (s.steward.mboxes.filter fun e => e.2.executing.isSome).map (·.1)

/-- A halt that a command without effect ordered, with a status of its own, is undone: the task runs on, or stops for a fault that came since (10 R308). What other engines
were told stays told. -/
def unHalt (code : Nat) (t : Task) (s : State) : State :=
  if t.members.isEmpty = true ∧ t.halting = true ∧ t.status = code then
    (if (t.fault.map (·.code)).getD code = code ∨ t.fault = t.fault0 then modTask t.num (fun x => { x with halting := false, status := 0, fault := t.fault0 }) s
    else modTask t.num (fun x => { x with status := (t.fault.map (·.code)).getD 0 }) s)
  else s

/-- Undo the halts of tasks. -/
def unHalts (code : Nat) : List Task → State → State
  | [], s => s
  | t :: ts, s => unHalts code ts (unHalt code t s)

/-- Undo the aborts of tasks. -/
def unAborts (ts : List Task) (s : State) : State := unHalts 0x0211 ts s

/-- Write the mirror lines of fences. -/
def putMirrors : List Nat → State → State
  | [], s => s
  | f :: fs, s => putMirrors fs (putMirror f s)

/-- Read doorbell lines afresh. -/
def readDoors : List Nat → State → State
  | [], s => s
  | a :: as, s => readDoors as (porchWant a s)

/-- A destruction is undone: the context, its queues, its tasks and its hatch channels are as they were found (10 R308, log 33). -/
def unDestroy (c : Nat) (s : State) : State :=
  let st := (ctxOf s c).was
  let a := modSteward (fun x => { x with queues := x.queues.map fun q =>
    if q.ctx = c then { q with state := if st = 0 then 0 else if q.fault = 0 then 2 else 1 } else q }) (modCtx c (fun x => { x with state := st, destroyer := none }) s)
  let qs := a.steward.queues.filter fun q => q.ctx == c
  let b := unAborts (a.steward.tasks.filter fun t => t.ctx == c && t.state == .launched && t.abortBy.isEmpty) a
  promote (tryRecords (qs.map (·.id)) (readDoors (qs.map (·.door))
    (putMirrors ((b.steward.fences.filter fun f => f.2.ctx == some c).map (·.1)) (putStatusAll (qs.map (·.id)) (unStop c b)))))

/-- A test of a lane port that a mailbox waits for ends without an answer (14 R432). -/
def endTests (m : Nat) (s : State) : State :=
  { s with links := { s.links with ports := s.links.ports.map fun e => (e.1,
    match e.2.test with
    | some q => if q.mbox = some m then (if q.running then enter s 1 { e.2 with test := none, rate := 3 } else { e.2 with test := none }) else e.2
    | none => e.2) } }

/-- A freeze or release that a mailbox waits for is undone: a freeze to come does not come, one in effect ends (10 R308, 12 R377). -/
def unFreeze (m : Nat) (s : State) : State :=
  if s.shell.snap.mbox = some m then modSnap (fun x => { x with pend := false, mbox := none }) (endFreeze s)
  else modSnap (fun x => { x with relMbox := x.relMbox.filter (· ≠ m) }) s

/-- A reset that a mailbox asked for and that is not answered yet is not made for it; where no other asked, the tasks that it halted run on (10 R308). -/
def unReset (m : Nat) (s : State) : State :=
  match s.seq.resetReq with
  | none => s
  | some r =>
    if r.answered then s
    else if r.boxes.filter (· ≠ m) = [] then
      unHalts 0x0E02 (s.steward.tasks.filter fun t => t.state == .launched) (modSeq (fun q => { q with resetReq := none }) s)
    else modSeq (fun q => { q with resetReq := some { r with boxes := r.boxes.filter (· ≠ m) } }) s

/-- What a command under way has done is undone (10 R308, R314, log 33). -/
def undoCommand (m : Nat) (w : MsgWord) (s : State) : State :=
  match wfld w 4 2 with
  | 0x11 => if (ctxOf s (wfld w 0x0C 2)).destroyer = some m then unDestroy (wfld w 0x0C 2) s else s
  | 0x13 => if (mbox s m).awaits then ((s.steward.queues.filter fun q => q.status == wfld w 0x14 8).map (·.id)).foldl (fun s q => dropQueue q s) s else s
  | 0x19 =>
    let mine := s.steward.tasks.filter fun t => t.abortBy.contains m
    let a := modSteward (fun x => { x with tasks := x.tasks.map fun t => { t with abortBy := t.abortBy.filter (· ≠ m) } }) s
    unAborts (mine.filter fun t => t.abortBy == [m] && (ctxOf s t.ctx).state != 2) a
  | 0x37 => unFreeze m s
  | 0x38 => endTests m s
  | 0x3A => unReset m s
  | _ => cutWork m w s

/-- The last step of a command has been taken, and its response copied: the freeing of a context, after which only its granules are cleared (10 R308, log 33). -/
def lastStep (s : State) (m : Nat) : Bool := s.steward.ctxs.any fun e => e.2.freed && e.2.destroyer == some m

/-- Answer the commands that the failed core had not completed (10 R308, R320): stagings with DEFERRED_NOT_APPLIED, a firmware write and a command at its last step go
on, the rest with STEWARD_FAILOVER: they have had no effect (log 33). -/
def failOver : List Nat → State → State
  | [], s => s
  | m :: ms, s =>
    failOver ms
      (if s.steward.staged.any (fun x => x.mbox == m) then respond m 0x0110 [] s
      else if keepAnswers s m || lastStep s m then s
      else match (mbox s m).executing with
        | some w => respond m 0x0113 [] (undoCommand m w s)
        | none => s)

/-- The effect of STEWARD_TAKEOVER (17 R495): the standby serves; its commands, stagings and launched tasks are handled; no standby is left. -/
def takeoverEff (s : State) : State :=
  let core := 0
  let t := failOver (executingBoxes s) s
  let t := undoRaise { t with steward := { t.steward with staged := [], standby := true } }
  let t := countFault 6 core 0x0D03 (modMap (fun m => { m with coreFail := some core }) t)
  let t := modUnit 6 core (fun u => { u with service := 3 }) t
  settleHealth (markSpare (haltAll 0x0D03 true (launchedTasks t) (modHealth (fun h => { h with beatHb := upBeat s, recDue := true }) t)))

/-- STEWARD_TAKEOVER (17 R495). -/
def execStewardTakeover (s : State) : Host.Outcome State Fault Refusal := due (takeoverReady s) s (takeoverEff s)

end Sys2Proof.Machine
end

