-- ==== Sys2Proof/Machine/FabricTask.lean ====
section
/-!
DEFINITION. Tasks of several engines (13_fabric R402 to R411): rendezvous, refusals, ends and aborts, and the frames of flows.
-/
namespace Sys2Proof.Machine

/-- The task of an image identifier and round that this engine knows and that is not final. -/
def roundTask (s : State) (g : BitVec 64) (k : Nat) : Option Task :=
  s.steward.tasks.find? fun t => t.gtask == g && t.round == k && !t.members.isEmpty && !isFinal t

/-- The task and round that a frame names. -/
def frameTask (s : State) (f : Frame) : Option Task := roundTask s f.hdr.task f.hdr.tag.toNat

/-- The sender's address. -/
def frameSrc (f : Frame) : Nat := f.hdr.src.toNat % 2 ^ 13

/-! READY (13 R406 to R408). -/

/-- The task may send READY: it is eligible, its queue may launch, its rooms and claims are free, and time and the vestibule allow it (13 R396, R406, 15 R446). -/
def readyOk (s : State) (t : Task) (i : Image) : Bool :=
  t.state == .eligible && queueLaunches s t && !t.members.isEmpty && !reserved t && working s && !s.time.unsync && s.steward.fabricSt != 1 &&
    roomsFree s t (roomsWanted s i) && !claimTaken s t i

/-- The leader refuses a round, and its queue goes on (13 R408). -/
def leaderRefuse (t : Task) (code : Nat) (s : State) : State := promote (refuseRound t code s)

/-- A READY of the round was sent under another epoch (13 R408). -/
def epochDiffers (s : State) (t : Task) : Bool := s.fabric.readys.any fun r => r.1 == t.gtask && r.2.1 == t.round && r.2.2.2 != s.fabric.epoch

/-- READY has come from every member. -/
def allReady (s : State) (t : Task) : Bool :=
  t.members.all fun m => if m.member = 0 then m.ready else s.fabric.readys.any fun r => r.1 == t.gtask && r.2.1 == t.round && r.2.2.1 == m.addr

/-- The leader launches the round: LAUNCH carries L, 24 beats on (13 R407). -/
def sendLaunch (t : Task) (s : State) : State :=
  let l := beatOf s + 24
  tellMembers t 0x11 l [] t.members (modTask t.num (fun t => { t with launchAt := some l }) s)

/-- The leader looks at its round: refuses it, launches it, or waits (13 R407, R408). -/
def tryRound (t : Task) (s : State) : State :=
  if t.state ≠ .eligible ∨ t.launchAt.isSome then s
  else if epochDiffers s t then leaderRefuse t 0x0901 s
  else if allReady s t = false then s
  else match imageOf s t with
    | none => s
    | some i => (match launchRefusal s t i with
      | 0 => sendLaunch t s
      | code => leaderRefuse t code s)

/-- Send READY: the task's rooms are reserved from now on; the leader takes its own at once (13 R406, R408). -/
def sendReady (n : Nat) (s : State) : State :=
  match taskOf s n with
  | none => s
  | some t =>
    match imageOf s t with
    | none => s
    | some i =>
      if readyOk s t i then
        let t' : Task := { t with
          rooms := roomsWanted s i, members := t.members.map fun m => if m.member = t.member then { m with ready := true } else m }
        let a := modTask n (fun _ => t') s
        if t.member = 0 then
          if t.members.any (fun m => m.member != 0 && !addrPresent s m.addr) then leaderRefuse t' 0x0902 a else tryRound t' a
        else sendMgmt (leaderAddr t) 0x10 t.round t.gtask.toNat 0 [] a
      else s

/-- Send READY for every task of a list that may. -/
def sendReadys : List Nat → State → State
  | [], s => s
  | n :: ns, s => sendReadys ns (sendReady n s)

/-- At a beat boundary the tasks of several engines that can be ready become so, in the order in which they became eligible. -/
def readyBoundary (s : State) : State := sendReadys ((s.steward.tasks.filter fun t => t.state == .eligible && !t.members.isEmpty).map (·.num)) s

/-- The effect of READY at the leader (13 R407, R408). -/
def readyEff (f : Frame) (s : State) : State :=
  let a := modFabric (fun x => { x with readys := x.readys ++ [(f.hdr.task, f.hdr.tag.toNat, frameSrc f, f.hdr.epoch.toNat)] }) s
  match frameTask a f with
  | some t => if t.member = 0 ∧ t.state ≠ .launched then
      (if f.hdr.epoch.toNat ≠ s.fabric.epoch then leaderRefuse t 0x0901 a else if reserved t then tryRound t a else a) else a
  | none => a

/-- A frame row of a kind: the frame is in the inbox. -/
def frameRow (b : Nat) (f : Frame) (kind : Nat) (s : State) (act : State → State) : Host.Outcome State Fault Refusal :=
  due (inInbox s b f && f.hdr.kind.toNat == kind) s (takeMsg b f act s)

/-- READY (13 R407). -/
def execReady (b : Nat) (f : Frame) (s : State) : Host.Outcome State Fault Refusal := frameRow b f 0x10 s (readyEff f)

/-! LAUNCH, REFUSE, WITHDRAW (13 R407, R408). -/

/-- The effect of LAUNCH at a member: it will launch at L, or faults with LAUNCH_LATE when beat L has begun. -/
def launchFrameEff (f : Frame) (s : State) : State :=
  match frameTask s f with
  | some t =>
    if t.state = .eligible ∧ t.member ≠ 0 then
      let l := fullBeat (beatOf s) f.hdr.aux.toNat
      if l ≤ beatOf s then haltTask t.num 0x0904 (some (plainFault 0x0904)) false (launchVoid t.num s)
      else modTask t.num (fun t => { t with launchAt := some l }) s
    else s
  | none => s

/-- LAUNCH (13 R407). -/
def execLaunch (b : Nat) (f : Frame) (s : State) : Host.Outcome State Fault Refusal := frameRow b f 0x11 s (launchFrameEff f)

/-- The effect of REFUSE: the member's task of the round is REFUSED, or its launch will be (13 R408). -/
def refuseEff (f : Frame) (s : State) : State :=
  let code := f.hdr.aux.toNat
  let a := modFabric (fun x => { x with refused := x.refused ++ [(f.hdr.task, f.hdr.tag.toNat, code)] }) s
  match frameTask a f with
  | some t => if t.state = .launched then a else promote (finishTask t.num .refused code a)
  | none => a

/-- REFUSE (13 R408). -/
def execRefuse (b : Nat) (f : Frame) (s : State) : Host.Outcome State Fault Refusal := frameRow b f 0x12 s (refuseEff f)

/-- Send a refusal of a round to the members of an image but this engine and one more. -/
def refuseMembers (g : BitVec 64) (k code except : Nat) : List MemberRec → State → State
  | [], s => s
  | m :: ms, s =>
    refuseMembers g k code except ms
      (if m.addr = except ∨ s.fabric.addr = some m.addr then s else sendMgmt m.addr 0x12 k g.toNat code [] s)

/-- The effect of WITHDRAW at the leader: the round is refused in the members it names (13 R408). One that crosses LAUNCH aborts the round with its code (log 62). -/
def withdrawEff (f : Frame) (s : State) : State :=
  let aborted := f.hdr.aux == 0x0211
  let code := if aborted then 0x0903 else f.hdr.aux.toNat
  match frameTask s f with
  | some t =>
    if t.member ≠ 0 then s
    else if t.state = .launched then haltTask t.num f.hdr.aux.toNat none false s
    else
      let a := refuseMembers t.gtask t.round code (if aborted then frameSrc f else 0xFFFF) (t.members.map fun m => ⟨m.member, m.addr⟩) s
      let b := modFabric (fun x => { x with refused := x.refused ++ [(t.gtask, t.round, code)] }) a
      promote (finishTask t.num .refused code b)
  | none =>
    let mems := match s.steward.images.find? (fun i => i.multi && BitVec.ofNat 64 i.imageId == f.hdr.task) with
      | some i => i.memberRecs
      | none => []
    modFabric (fun x => { x with refused := x.refused ++ [(f.hdr.task, f.hdr.tag.toNat, code)] })
      (refuseMembers f.hdr.task f.hdr.tag.toNat code (if aborted then frameSrc f else 0xFFFF) mems s)

/-- WITHDRAW (13 R408). -/
def execWithdraw (b : Nat) (f : Frame) (s : State) : Host.Outcome State Fault Refusal := frameRow b f 0x18 s (withdrawEff f)

/-! END and DONE (13 R410). -/

/-- The effect of END at the leader: AUX is the member that has ended. -/
def endFrameEff (f : Frame) (s : State) : State :=
  match frameTask s f with
  | some t => if t.state = .launched ∧ t.halting = false ∧ t.member = 0 then leaderEnd t.num (markEnded t.num f.hdr.aux.toNat s) else s
  | none => s

/-- END_FRAME (13 R410). -/
def execEndFrame (b : Nat) (f : Frame) (s : State) : Host.Outcome State Fault Refusal := frameRow b f 0x13 s (endFrameEff f)

/-- The effect of DONE at a member: its task is COMPLETED. -/
def doneEff (f : Frame) (s : State) : State :=
  match frameTask s f with
  | some t => if t.state = .launched ∧ t.member ≠ 0 then completePoint t.num s else s
  | none => s

/-- DONE (13 R410). -/
def execDone (b : Nat) (f : Frame) (s : State) : Host.Outcome State Fault Refusal := frameRow b f 0x14 s (doneEff f)

/-! FAULT, ABORT, HALTED (13 R409). -/

/-- The record in the payload of a FAULT or ABORT, none where it holds no code (log 22). -/
def payloadRec (bs : List Byte) : Option FaultRec :=
  if pfld bs 0 2 = 0 then none
  else some ⟨pfld bs 0 2, pfld bs 2 2, pfld bs 0x10 2, pfld bs 0x12 1, pfld bs 4 4, pfld bs 8 8, pfld bs 0x13 2⟩

/-- A fault that a repair answers, so that a restartable task is requeued for it (17 R498). -/
def repairCode (code : Nat) : Bool := [0x0309, 0x030A, 0x0503, 0x0D01, 0x0D02, 0x0D03, 0x0906].contains code

/-- The effect of FAULT at the leader: the round aborts with the member's fault; an abort that a member forwards carries TASK_ABORTED and no fault (13 R409,
R410). -/
def faultFrameEff (f : Frame) (room op opcode : Nat) (s : State) : State :=
  match frameTask s f with
  | some t =>
    if t.member = 0 ∧ t.state = .launched then
      if f.hdr.aux = 0x0211 then haltWith t.num 0x0211 none false s
      else
        let r := (payloadRec f.payload).getD (plainFault f.hdr.aux.toNat)
        haltWith t.num f.hdr.aux.toNat (some { r with code := f.hdr.aux.toNat, room := room, op := op, opc := opcode }) (repairCode f.hdr.aux.toNat) s
    else s
  | none => s

/-- FAULT (13 R409). -/
def execFaultFrame (b : Nat) (f : Frame) (room op opcode : Nat) (s : State) : Host.Outcome State Fault Refusal :=
  frameRow b f 0x17 s (faultFrameEff f room op opcode)

/-- The member's own fault was not the first one. -/
def lostOut (t : Task) (r : Option FaultRec) : Bool := match t.fault with
  | some x => t.halting && r != some x
  | none => false

/-- The effect of ABORT at a member: it halts with the first fault that the leader took; a member with no such task running answers at once (13 R409). -/
def abortEff (f : Frame) (s : State) : State :=
  match frameTask s f with
  | some t =>
    let r := payloadRec f.payload
    let a := if t.state = .launched then s else launchVoid t.num s
    haltQuiet t.num f.hdr.aux.toNat none (t.repair || repairCode f.hdr.aux.toNat) (modTask t.num (fun t => { t with
      fault := r.orElse (fun _ => t.fault0), others := if lostOut t r then satInc 255 t.others else t.others,
      members := t.members.map fun m => if m.member = 0 then { m with halted := true } else m }) a)
  | none =>
    let me := match s.steward.images.find? (fun i => i.multi && BitVec.ofNat 64 i.imageId == f.hdr.task) with
      | some i => ((i.memberRecs.find? fun m => s.fabric.addr == some m.addr).map (·.member)).getD 0
      | none => 0
    sendMgmt (frameSrc f) 0x16 f.hdr.tag.toNat f.hdr.task.toNat me [] s

/-- ABORT (13 R409). -/
def execAbort (b : Nat) (f : Frame) (s : State) : Host.Outcome State Fault Refusal := frameRow b f 0x15 s (abortEff f)

/-- The effect of HALTED at the leader: AUX is the member. -/
def haltedFrameEff (f : Frame) (s : State) : State :=
  match frameTask s f with
  | some t => if t.member = 0 then markHalted t.num f.hdr.aux.toNat s else s
  | none => s

/-- HALTED (13 R409). -/
def execHalted (b : Nat) (f : Frame) (s : State) : Host.Outcome State Fault Refusal := frameRow b f 0x16 s (haltedFrameEff f)

/-- HALTED_TIMEOUT is due: 320 beats from ABORT, and a member has not answered (13 R409). -/
def haltedTimeoutReady (s : State) (n : Nat) : Bool :=
  match taskOf s n with
  | some t => t.state == .launched && t.halting && !t.members.isEmpty && t.member == 0 && decide (t.haltBeat + 320 ≤ upBeat s) && !peersHalted t
  | none => false

/-- The effect of HALTED_TIMEOUT: the members that have not answered are lost; each is a further fault (13 R409, R411). -/
def haltedTimeoutEff (s : State) (n : Nat) : State :=
  modTask n (fun t => { t with
    others := min 255 (t.others + (t.members.filter fun m => m.member != 0 && !m.halted).length),
    members := t.members.map fun m => { m with halted := true } }) s

/-- HALTED_TIMEOUT (13 R409). -/
def execHaltedTimeout (task : Nat) (s : State) : Host.Outcome State Fault Refusal := due (haltedTimeoutReady s task) s (haltedTimeoutEff s task)

/-! Flows (13 R402 to R404). -/

/-- A flow of an image. -/
def flowOf (i : Image) (k : Nat) : Option FlowRec := i.flows.find? fun x => x.flow == k

/-- The progress of a flow at this engine. -/
def flowSt (s : State) (n k : Nat) : FlowSt := (s.fabric.flows.find? fun x => x.task == n && x.flow == k).getD ⟨n, k, 0, 0⟩

/-- Change the progress of a flow. -/
def putFlow (x : FlowSt) (s : State) : State :=
  modFabric (fun y => { y with flows := y.flows.filter (fun z => !(z.task == x.task && z.flow == x.flow)) ++ [x] }) s

/-- The frames of a flow held here. -/
def heldFrames (s : State) (g : BitVec 64) (k : Nat) : List Frame :=
  match s.fabric.flowBufs.find? (fun b => b.gtask == g && b.flow == k) with
  | some b => b.frames
  | none => []

/-- Replace the frames of a flow held here. -/
def putHeld (g : BitVec 64) (k : Nat) (fs : List Frame) (s : State) : State :=
  modFabric (fun y => { y with flowBufs := y.flowBufs.filter (fun b => !(b.gtask == g && b.flow == k)) ++ [⟨g, k, fs⟩] }) s

/-- Frames that claims of a flow have sent by the end of beat `r` from L. -/
def sentBy (cs : List ClaimRec) (r : Nat) : Nat := (cs.map fun c => claimSent c r).sum

/-- This member's claims for a flow. -/
def flowClaims (i : Image) (t : Task) (k : Nat) : List ClaimRec := (myClaims i t).filter fun c => c.flow == k

/-- Insert a claim in ascending order of its first slot. -/
def slotIns (c : ClaimRec) : List ClaimRec → List ClaimRec
  | [] => [c]
  | d :: ds => if c.slot ≤ d.slot then c :: d :: ds else d :: slotIns c ds

/-- The first of the beat's claims whose frames have not been taken; `done` are the frames of the earlier ones. -/
def nextClaim (moved : Nat) : Nat → List ClaimRec → Option ClaimRec
  | _, [] => none
  | done, c :: cs => if moved < done + c.frames then some c else nextClaim moved (done + c.frames) cs

/-- The claim of a flow in the present beat, in slot order, whose frames for the beat have not been taken yet (13 R403). -/
def slotClaim (s : State) (t : Task) (i : Image) (k : Nat) : Option ClaimRec :=
  let r := upBeat s - t.launchUp
  let moved := (flowSt s t.num k).got - (heldFrames s t.gtask k).length
  let now := ((flowClaims i t k).filter fun c => decide (c.first ≤ r) && decide (r ≤ c.last)).foldr slotIns []
  nextClaim moved (sentBy (flowClaims i t k) r - (now.map (·.frames)).sum) now

/-- The payloads of `n` frames of `len` bytes. -/
def cutFrames (len : Nat) : Nat → List Byte → List (List Byte)
  | 0, _ => []
  | n + 1, bs => bs.take len :: cutFrames len n (bs.drop len)

/-- Send payloads of a flow as frames on the claim's bundle. -/
def sendFlow (t : Task) (dst : Nat) (c : ClaimRec) : List (List Byte) → State → State
  | [], s => s
  | p :: ps, s =>
    sendFlow t dst c ps
      (modFabric (fun x => { x with out := x.out ++ [(c.bundle, makeFrame (BitVec.ofNat 16 dst) 0x20 c.flow t.gtask.toNat 0 p s)] }) s)

/-- The address of a member of an image. -/
def memberAddr (i : Image) (m : Nat) : Nat := ((i.memberRecs.find? fun x => x.member == m).map (·.addr)).getD 0

/-- Land writes in turn. -/
def landAll : List PendWrite → Store → Store
  | [], st => st
  | w :: ws, st => landAll ws (landWrite w ws st)

/-- Advance the heads of rings. -/
def advanceAll (hs : List (Nat × Nat)) (st : Store) : Store := hs.foldl (fun st h => advanceHead h.1 h.2 st) st

/-- A gatehouse's accesses are made at once, with what follows from them: the bytes land and TAIL advances, or the data has returned and HEAD advances (08 R244, log
109). Those of rooms, which were there before, wait on. -/
def settleGate (before st : Store) : Store :=
  let ls := st.lanes.drop before.lanes.length
  let rs := st.remote.drop before.remote.length
  advanceAll ((ls.filterMap (·.read) ++ rs.filterMap (·.read)).filterMap (·.head)).eraseDups
    (landAll (ls.filterMap (·.write) ++ rs.filterMap (·.write)) { st with lanes := before.lanes, remote := before.remote })

/-- What a gatehouse's run changes: the store. -/
def gateRun (n : Nat) (r : Run) (s : State) : State :=
  let a := modTask n (fun t => { t with wrote := r.wrote ++ t.wrote }) (putStore (settleGate s.store r.st) { s with freeCtr := r.free })
  match r.fault with
  | some (code, _, line) => blameBank code line (haltTask n code (some { plainFault code with line := faultLine code line }) false a)
  | none => a

/-- The source member takes its frames from the ring, or faults with SLOT_MISSED (13 R403, 02 R51). -/
def sourceTake (t : Task) (i : Image) (fl : FlowRec) (c : ClaimRec) (s : State) : State :=
  match (variantOf i t).rings.find? (fun x => x.ring == fl.srcRing) with
  | none => s
  | some x =>
    let room := 16 * x.hall
    let n := c.frames * fl.frame
    if ringFilled (ringOf s.store room x.desc) < n then haltTask t.num 0x602 (some (plainFault 0x602)) false s
    else
      let r := ringTake (envOf s t i room 0 0) room x.desc (runOf s (roomOf s room)) n
      let a := gateRun t.num r.1 s
      if r.1.fault.isSome then a
      else
        let st := flowSt s t.num c.flow
        sendFlow t (memberAddr i fl.dstMember) c (cutFrames fl.frame c.frames r.2) (putFlow { st with got := st.got + c.frames } a)

/-- Forward held frames of a flow as they came, one hop less each; one whose hops are spent is discarded (13 R386, R403). -/
def forwardFlow (b : Nat) : List Frame → State → State
  | [], s => s
  | f :: fs, s =>
    forwardFlow b fs
      (if hopsSpent f then dropFrame (fun d => { d with hopsOut := satInc 255 d.hopsOut }) s
      else modFabric (fun x => { x with out := x.out ++ [(b, hopDown f)] }) s)

/-- A transit member forwards the frames of the beat in arrival order (13 R403). -/
def transitSend (t : Task) (c : ClaimRec) (s : State) : State :=
  let fs := heldFrames s t.gtask c.flow
  forwardFlow c.bundle (fs.take c.frames) (putHeld t.gtask c.flow (fs.drop c.frames) s)

/-- FLOW_SLOT_TAKE is due: the task runs, and a claim of the flow has its slot in this beat. -/
def slotReady (s : State) (n k : Nat) : Bool :=
  match runningTask s n with
  | some (t, i) => (slotClaim s t i k).isSome && (flowOf i k).isSome
  | none => false

/-- The effect of FLOW_SLOT_TAKE. -/
def slotEff (s : State) (n k : Nat) : State :=
  match runningTask s n with
  | none => s
  | some (t, i) =>
    match slotClaim s t i k, flowOf i k with
    | some c, some fl => if fl.srcMember = t.member then sourceTake t i fl c s else transitSend t c s
    | _, _ => s

/-- FLOW_SLOT_TAKE (13 R403). -/
def execFlowSlotTake (task flow : Nat) (s : State) : Host.Outcome State Fault Refusal := due (slotReady s task flow) s (slotEff s task flow)

/-- Bytes of the task's frames in the flow buffer of the gatehouse that forwards a flow. -/
def bufferBytes (s : State) (t : Task) (i : Image) (gate : Nat) : Nat :=
  ((s.fabric.flowBufs.filter fun b => b.gtask == t.gtask && (flowClaims i t b.flow).any fun c => c.bundle / 8 == gate).map fun b =>
    (b.frames.map fun f => 32 + f.payload.length).sum).sum

/-- A frame arrives at a transit member: held, or discarded when the task's frames fill the buffer (13 R403). -/
def transitTake (t : Task) (i : Image) (c : ClaimRec) (f : Frame) (s : State) : State :=
  if 512 * 1024 < bufferBytes s t i (c.bundle / 8) + 32 + f.payload.length then haltTask t.num 0x0908 (some (plainFault 0x0908)) false s
  else
    let st := flowSt s t.num c.flow
    putHeld t.gtask c.flow (heldFrames s t.gtask c.flow ++ [f]) (putFlow { st with got := st.got + 1 } s)

/-- A window admits a write from the fabric (13 R404). -/
def fabricAdmits (st : Store) (a n : Nat) : Bool :=
  st.windows.any fun e => e.2.opened && e.2.write && e.2.fabric && decide (e.2.base ≤ a) && decide (a + n ≤ e.2.limit)

/-- The frame's source is an admitted engine (13 R404). -/
def srcAdmitted (s : State) (f : Frame) : Bool := s.fabric.addr == some (frameSrc f) || s.fabric.members.any fun r => r.addr == frameSrc f && r.state == 2

/-- A frame lands at its destination: appended to the ring, or written to the window (13 R403, R404). -/
def landFlow (t : Task) (i : Image) (fl : FlowRec) (f : Frame) (s : State) : State :=
  let st := flowSt s t.num fl.flow
  let n := f.payload.length
  if fl.window then
    let a := fl.dstBase + st.wrote
    if fabricAdmits s.store a n = true ∧ srcAdmitted s f = true ∧ rangeUnmapped s a n = false then
      putFlow { st with got := st.got + 1, wrote := st.wrote + n }
        (modTask t.num (fun t => { t with wrote := (a, n) :: t.wrote }) (modStore (fun x => writeWhole x a f.payload) s))
    else haltTask t.num 0x0907 (some (plainFault 0x0907)) false s
  else match (variantOf i t).rings.find? (fun x => x.ring == fl.dstRing) with
    | none => s
    | some x =>
      let r := moveAppend (envOf s t i (16 * x.hall) 0 0) (16 * x.hall) x.desc (runOf s (roomOf s (16 * x.hall))) f.payload
      gateRun t.num r (putFlow { st with got := st.got + 1 } s)

/-- The effect of FLOW: it meets a live claim, or is discarded (13 R386, R403). -/
def flowEff (s : State) (b : Nat) (f : Frame) : State :=
  let a := takeFrame b f s
  let k := f.hdr.tag.toNat
  let stale := dropFrame (fun d => { d with staleFlow := satInc 255 d.staleFlow }) a
  match liveTask s f.hdr.task with
  | none => stale
  | some t =>
    match imageOf s t with
    | none => stale
    | some i =>
      if t.halting then stale
      else match flowOf i k, flowClaims i t k with
        | some fl, cs =>
          if fl.dstMember = t.member then landFlow t i fl f a
          else (match cs with
            | c :: _ => if fl.srcMember = t.member then stale else transitTake t i c f a
            | [] => stale)
        | none, _ => stale

/-- FLOW (13 R403). -/
def execFlow (b : Nat) (f : Frame) (s : State) : Host.Outcome State Fault Refusal := due (inInbox s b f && f.hdr.kind.toNat == 0x20) s (flowEff s b f)

/-- The member that transmits a flow last, whose frames reach its destination. -/
def lastHop (cs : List ClaimRec) (flow : Nat) : Option Nat :=
  ((cs.filter fun c => c.flow == flow).filterMap fun c => (firstSend cs flow c.member).map fun f => (f, c.member)).foldl
    (fun (b : Option (Nat × Nat)) x => match b with
      | some z => if z.1 < x.1 then some x else some z
      | none => some x) none |>.map (·.2)

/-- The claims of the hop before this member on a flow (13 R403). -/
def prevClaims (i : Image) (t : Task) (fl : FlowRec) : List ClaimRec :=
  match (if fl.dstMember = t.member then lastHop i.claims fl.flow else hopBefore i.claims fl.flow t.member) with
  | some m => i.claims.filter fun c => c.flow == fl.flow && c.member == m
  | none => []

/-- The member receives the flow, and a frame claimed two beats ago or earlier is missing at this boundary (13 R399, R403). -/
def flowLate (s : State) (t : Task) (i : Image) (fl : FlowRec) : Bool :=
  let r := upBeat s - t.launchUp
  fl.srcMember != t.member && (fl.dstMember == t.member || !(flowClaims i t fl.flow).isEmpty) && decide (2 ≤ r) &&
    decide ((flowSt s t.num fl.flow).got < sentBy (prevClaims i t fl) (r - 2))

/-- The check of FRAME_LATE for the launched tasks of a list. -/
def lateChecks : List Nat → State → State
  | [], s => s
  | n :: ns, s =>
    lateChecks ns (match runningTask s n with
      | some (t, i) => if i.flows.any (flowLate s t i) then haltTask n 0x0906 (some (plainFault 0x0906)) false s else s
      | none => s)

end Sys2Proof.Machine
end

