-- ==== Sys2Proof/Machine/StageOps.lean ====
section
/-!
DEFINITION. Staged changes (10_steward_mailboxes R317 to R320) and their items: PACE_SET (02 R44, R47), POWER_SET (16 R476), SB_PIN_SET (19 R551, R552), TIME_SET (15
R451), FABRIC_SET (13 R390), HEALTH_SET (17 R504); HEALTH_QUERY (17 R502, R503) and LINK_TEST (14 R432).
-/
namespace Sys2Proof.Machine

/-! Staging. -/

/-- Two request words stage the same item (10 R318): the pins of SB_PIN_SET, and the limits and the mode of POWER_SET, are items of their own (10 R319, 19
R551). -/
def sameItem (v w : MsgWord) : Bool :=
  wfld v 4 2 == wfld w 4 2 && (match wfld w 4 2 with
    | 0x31 => wfld v 0x18 1 &&& wfld w 0x18 1 != 0
    | 0x32 => wfld v 0x18 1 == wfld w 0x18 1
    | _ => true)

/-- AT_BEAT or DEADLINE is out of range (10 R318). -/
def deadlineBad (s : State) (w : MsgWord) : Bool := wfld w 0x0E 2 == 0 || (wfld w 0x0C 1 == 2 && decide (wfld w 0x10 8 ≤ beatOf s))

/-- Stage an item, or answer why not (10 R318). -/
def stage (m : Nat) (w : MsgWord) (table : List (BitVec 32)) (s : State) : State :=
  if deadlineBad s w then respond m 0x0112 [] s
  else if s.steward.staged.any (fun x => sameItem x.word w) then respond m 0x0111 [] s
  else await m (modSteward (fun x => { x with
    staged := x.staged ++ [⟨m, w, if wfld w 0x0C 1 = 2 then wfld w 0x10 8 else beatOf s, table, false⟩] }) s)

/-- PACE_SET (02 R44, 10 R317). -/
def execPaceSet (m : Nat) (w : MsgWord) (s : State) : Host.Outcome State Fault Refusal := cmd m w 0x30 s (stage m w [] s)

/-- POWER_SET (16 R476). -/
def execPowerSet (m : Nat) (w : MsgWord) (s : State) : Host.Outcome State Fault Refusal := cmd m w 0x31 s (stage m w [] s)

/-- The function that a pin will carry once what is staged has committed. -/
def stagedFunc (s : State) (p : Nat) : Nat :=
  match (s.steward.staged.filter fun x => wfld x.word 4 2 == 0x32 && wfld x.word 0x18 1 == p).getLast? with
  | some x => wfld x.word 0x19 1
  | none => match s.side.pins[p]? with
    | some x => x.func
    | none => 0

/-- The request would leave two pins with time-in, or takes time-in from a pin while the reference is enabled (19 R551). -/
def pinRefused (s : State) (w : MsgWord) : Bool :=
  let p := wfld w 0x18 1
  let f := wfld w 0x19 1
  (f == 1 && (List.range s.params.sbPins).any fun q => q != p && stagedFunc s q == 1) ||
    (f != 1 && s.time.refEn && (match s.side.pins[p]? with
      | some x => x.func == 1
      | none => false))

/-- The effect of SB_PIN_SET. -/
def sbPinSetEff (s : State) (m : Nat) (w : MsgWord) : State := if pinRefused s w then respond m 0x0103 [] s else stage m w [] s

/-- SB_PIN_SET (19 R551). -/
def execSbPinSet (m : Nat) (w : MsgWord) (s : State) : Host.Outcome State Fault Refusal := cmd m w 0x32 s (sbPinSetEff s m w)

/-- TIME_SET (15 R451). -/
def execTimeSet (m : Nat) (w : MsgWord) (s : State) : Host.Outcome State Fault Refusal := cmd m w 0x33 s (stage m w [] s)

/-- The effect of FABRIC_SET: a supplied table is read from host memory; `table` is what the host delivered, none for a failed read (13 R390). -/
def fabricSetEff (s : State) (m : Nat) (w : MsgWord) (table : Option (List (BitVec 32))) : State :=
  if wfld w 0x1A 1 = 1 then
    match table with
    | some es => stage m w (es.take 8192) s
    | none => respond m 0x0109 [] s
  else stage m w [] s

/-- FABRIC_SET (13 R390). -/
def execFabricSet (m : Nat) (w : MsgWord) (table : Option (List (BitVec 32))) (s : State) : Host.Outcome State Fault Refusal :=
  cmd m w 0x34 s (fabricSetEff s m w table)

/-- The effect of HEALTH_SET: a unit to replace must exist (17 R504). -/
def healthSetEff (s : State) (m : Nat) (w : MsgWord) : State :=
  if wfld w 0x18 1 = 1 ∧ unitExists s (wfld w 0x19 1) (wfld w 0x1A 2) = false then respond m 0x0D06 [] s else stage m w [] s

/-- HEALTH_SET (17 R504). -/
def execHealthSet (m : Nat) (w : MsgWord) (s : State) : Host.Outcome State Fault Refusal := cmd m w 0x35 s (healthSetEff s m w)

/-! Commits. -/

/-- PACE_CTRL takes the staged value (02 R44); VCORE stays where it was raised to (02 R47). -/
def commitPace (v : Nat) (s : State) : State :=
  modPower (fun p => { p with vWas := none }) <| modPace (fun p => { p with margin := v / 2 ^ 24 % 32, permits := v / 2 ^ 8 % 2 ^ 11, dither := v / 2 % 2 == 1, mode := v % 2 == 1 }) s

/-- The settings of POWER_SET (16 R476, R477). -/
def commitPower (w : MsgWord) (s : State) : State :=
  let what := wfld w 0x18 1
  let a := if what % 2 = 1 then
      modPower (fun p => { p with
        cap := some (wfld w 0x1A 2),
        cfg := ⟨wfld w 0x1C 2, wfld w 0x1E 1, wfld w 0x23 1, wfld w 0x22 1, wfld w 0x1F 1, wfld w 0x24 2, wfld w 0x26 2, wfld w 0x20 2⟩ }) s
    else s
  if what / 2 % 2 = 1 then modPower (fun p => { p with mode := wfld w 0x19 1 == 1 }) a else a

/-- Change a pin. -/
def modPin (p : Nat) (f : Pin → Pin) (s : State) : State :=
  { s with side := { s.side with pins := (s.side.pins.zipIdx).map fun e => if e.2 = p then f e.1 else e.1 } }

/-- A pin takes its settings; a change of function begins a hold and cuts off a message in progress (19 R552). -/
def commitPin (w : MsgWord) (s : State) : State :=
  let f := wfld w 0x19 1
  let p := wfld w 0x18 1
  let changed := match s.side.pins[p]? with
    | some x => x.func != f
    | none => false
  let t := modPin p (fun x => { x with
    func := f, park := wfld w 0x1A 1, edge := wfld w 0x1B 1, filter := wfld w 0x1C 1, hold := wfld w 0x1D 1, mask := wfld w 0x1E 1,
    holdUntil := if changed then some (upBeat s + wfld w 0x1D 1) else x.holdUntil }) s
  if changed then { t with side := { t.side with sending := t.side.sending.filter (fun m => m.1 != p), wave := t.side.wave.filter fun w => w.1 != p } } else t

/-- TIME_CFG takes the settings; with the reference newly enabled its pulses are awaited, and with it disabled it is forgotten (15 R450, R451). -/
def commitTime (w : MsgWord) (s : State) : State :=
  let f := wfld w 0x18 1
  let on := f % 2 == 1
  modTime (fun t => { t with
    refEn := on, setOn := f / 2 % 2 == 1, noKeeper := f / 4 % 2 == 1, spread := f / 8 % 2 == 1, refDelay := wfld w 0x1A 2, period := wfld w 0x1C 4,
    setTime := wfld w 0x20 8, refLock := on && t.refLock && t.refEn, refGone := on && t.refGone && t.refEn, pulse := if on && t.refEn then t.pulse else none,
    refFrom := if on && !t.refEn then t.up else t.refFrom }) s

/-- The rank waits for the next roll call and goes to the keep's link trims item, whose layout the manual does not give (13 R381, R390, log 36); routes are
supplied, computed or unchanged, and a change of them reaches the registrar. -/
def commitFabric (w : MsgWord) (table : List (BitVec 32)) (s : State) : State :=
  let rank := wfld w 0x18 2
  let a := modFabric (fun x => { x with
    newRank := some rank, supplied := if wfld w 0x1A 1 = 1 then some table else if wfld w 0x1A 1 = 0 then none else x.supplied }) s
  let b := if wfld w 0x1A 1 ≤ 1 then tableChanged a else a
  queueKeep 3 (freeBytes b.freeCtr 64) none
    { b with freeCtr := b.freeCtr + 64, shell := { b.shell with keep := { b.shell.keep with rankSaving := b.shell.keep.rankSaving ++ [rank] } } }

/-- HEALTH_CFG takes the settings, or the unit named is to be replaced (17 R497, R504). -/
def commitHealth (w : MsgWord) (s : State) : State :=
  if wfld w 0x18 1 = 0 then
    modHealth (fun h => { h with
      eolHours := wfld w 0x1C 4, recordMin := wfld w 0x20 2, chutePolicy := wfld w 0x22 1 == 1, transLimit := wfld w 0x23 1 }) s
  else if replaceable (wfld w 0x19 1) then wantReplace (wfld w 0x19 1) (wfld w 0x1A 2) s
  else s

/-- Every field of an item takes effect (10 R318). -/
def commitItem (x : Staged) (s : State) : State :=
  match wfld x.word 4 2 with
  | 0x30 => commitPace (wfld x.word 0x18 4) s
  | 0x31 => commitPower x.word s
  | 0x32 => commitPin x.word s
  | 0x33 => commitTime x.word s
  | 0x34 => commitFabric x.word x.table s
  | 0x35 => commitHealth x.word s
  | _ => s

/-- Commit the items that are due, in the order of acceptance (10 R320); the trace message carries the opcode (19 R549, log 63). -/
def commitDue : List Staged → State → State
  | [], s => s
  | x :: xs, s =>
    commitDue xs
      (if stagedDue s x then
        trace 3 (wfld x.word 4 2) (respond x.mbox 0 [(8, 8, beatOf s)]
          (commitItem x (modSteward (fun y => { y with staged := y.staged.filter fun z => z != x }) s)))
      else s)

/-- STAGED_COMMIT (10 R318). -/
def execStagedCommit (s : State) : Host.Outcome State Fault Refusal := due (s.steward.staged.any (stagedDue s)) s (commitDue s.steward.staged s)

/-- The item that a mailbox has staged. -/
def stagedBy (s : State) (m : Nat) : Option Staged := s.steward.staged.find? fun x => x.mbox == m

/-- The last boundary of the deadline has begun and the item does not commit at it (10 R318). -/
def notAppliedReady (s : State) (m : Nat) : Bool :=
  match stagedBy s m with
  | some x => decide (x.a + deadlineOf x ≤ beatOf s) && !stagedDue s x
  | none => false

/-- The effect of DEFERRED_NOT_APPLIED: the staging is discarded. -/
def notAppliedEff (s : State) (m : Nat) : State :=
  match stagedBy s m with
  | some x => respond m 0x0110 [] (discardStaged x s)
  | none => s

/-- DEFERRED_NOT_APPLIED (10 R318). -/
def execDeferredNotApplied (m : Nat) (s : State) : Host.Outcome State Fault Refusal := dueAt (decide (m < 64)) (notAppliedReady s m) s (notAppliedEff s m)

/-! HEALTH_QUERY (17 R502, R503). -/

/-- The 16-bit report of a predicted life (17 R486). -/
def lifeReport : Option Nat → Nat
  | some h => min h 65534
  | none => 0xFFFF

/-- STATE of a unit (17 R502). -/
def unitState (s : State) (kind index : Nat) : Nat :=
  let u := (unitOf s kind index).service
  match kind with
  | 1 => if u = 0 ∧ index % 17 = 16 then (if (servedBy s (index / 17) 16).isSome then 2 else 1) else u
  | 5 =>
    let st := (portOf s (index / 26) (index % 26)).st
    if st = 6 then 1 else if st = 7 then 3 else u
  | 6 => if s.health.map.coreFail = some index then 3 else if index = 0 then 0 else if s.health.map.coreFail.isSome then 2 else 1
  | _ => u

/-- SERVES of a unit (17 R502); all ones where the kind has none. -/
def unitServes (s : State) (kind index : Nat) : Nat :=
  match kind with
  | 1 => (match servedBy s (index / 17) (index % 17) with
    | some l => 16 * (index / 17) + l
    | none => 0xFFFF)
  | 4 => (match s.store.relocs.find? (fun r => bankUnit s.params.tiers r.hall r.bank == index) with
    | some r => bankUnit s.params.tiers r.hall (r.base / 2 ^ 20)
    | none => 0xFFFF)
  | 5 =>
    let l := (portOf s (index / 26) (index % 26)).logical
    if l = 0x1F then 0xFFFF else l
  | _ => 0xFFFF

/-- SPARES of a mould (17 R502). -/
def unitSpares (s : State) (kind index : Nat) : Nat :=
  if kind = 2 then (if tabGet 0 s.health.map.rowMap index = 0 then 0 else 1) + (if tabGet 0 s.health.map.colMap index = 0 then 0 else 2) else 0

/-- The RESULT for a unit (17 R502). -/
def unitReport (s : State) (kind index : Nat) : List (Nat × Nat × Nat) :=
  let u := unitOf s kind index
  [(0x08, 1, kind), (0x09, 1, unitState s kind index), (0x0A, 2, lifeReport u.life), (0x0C, 2, unitServes s kind index), (0x0E, 2, min 65535 u.faults),
    (0x10, 2, min 65535 (transientsNow s kind index).length), (0x12, 2, min 65535 u.wear), (0x14, 2, u.lastFault), (0x16, 2, unitSpares s kind index),
    (0x18, 8, u.lastBeat.getD (2 ^ 64 - 1))]

/-- MIN_LIFE: the least predicted life of any unit. -/
def minLife (s : State) : Nat := s.health.map.units.foldl (fun m e => min m (lifeReport e.2.life)) 0xFFFF

/-- ROOMS_RETIRED. -/
def roomsRetired (s : State) : Nat := (s.health.map.units.filter fun e => e.1 / 65536 == 1 && e.2.service == 4).length

/-- LANES_SPARE: the ports in STANDBY. -/
def lanesSpare (s : State) : Nat := (s.links.ports.filter fun e => e.2.st == 6).length

/-- Free reserve of a hall in MiB. -/
def freeReserve (s : State) (hall : Nat) : Nat :=
  let u := usableCellar s.params.tiers
  let used := ((reserveUsed s hall []).filter fun r => decide (u ≤ r.1)).map (·.2)
  (reserveCellar s.params.tiers - used.sum) / 2 ^ 20

/-- RESERVE_MIB: the least free reserve of any hall. -/
def reserveMib (s : State) : Nat := (hallNums s).foldl (fun m h => min m (freeReserve s h)) (reserveCellar s.params.tiers / 2 ^ 20)

/-- HALLS_OUT: the halls that offer no rooms. -/
def hallsOut (s : State) : Nat := ((hallNums s).filter fun h => roomsOffered s h == 0).foldl (fun m h => m + 2 ^ h) 0

/-- FLAGS of the summary (17 R503). -/
def healthFlags (s : State) : Nat :=
  let bit (b : Bool) (k : Nat) : Nat := if b then 2 ^ k else 0
  let h := s.health
  bit (s.params.halls == 1) 0 + bit s.steward.standby 1 + bit s.shell.keep.failedSlot.isSome 2 + bit (s.shell.keep.failedSlot == some 1) 3 + bit h.calDefault 4 +
    bit h.trimsDefault 5 + bit s.fabric.tableRejected 6 + (if s.fabric.admission = 1 then s.fabric.reason % 8 else 0) * 2 ^ 7 +
    bit (s.fabric.bundles.any fun b => b.2.up && decide (640 < b.2.latency)) 10 + bit h.recAbsent 11 + bit h.bundleExcess 12

/-- The summary RESULT (17 R503). -/
def summary (s : State) : List (Nat × Nat × Nat) :=
  [(0x08, 1, 0), (0x09, 1, s.steward.healthSt), (0x0A, 2, minLife s), (0x0C, 1, roomsRetired s), (0x0D, 1, ((hallNums s).filter (spareFree s)).length),
    (0x0E, 1, lanesSpare s), (0x0F, 1, reserveMib s), (0x10, 4, healthFlags s), (0x14, 2, hallsOut s)]

/-- The effect of HEALTH_QUERY. -/
def healthQueryEff (s : State) (m : Nat) (w : MsgWord) : State :=
  let kind := wfld w 0x0C 1
  let index := wfld w 0x0E 2
  if kind = 0 ∧ index = 0 then respond m 0 (summary s) s
  else if unitExists s kind index then respond m 0 (unitReport s kind index) s
  else respond m 0x0D06 [] s

/-- HEALTH_QUERY (17 R502). -/
def execHealthQuery (m : Nat) (w : MsgWord) (s : State) : Host.Outcome State Fault Refusal := cmd m w 0x36 s (healthQueryEff s m w)

/-! LINK_TEST (14 R432). -/

/-- The effect of LINK_TEST: a near-end test begins at once, a far-end test asks the peer by LOOP blocks. -/
def linkTestEff (s : State) (m : Nat) (w : MsgWord) : State :=
  let g := wfld w 0x0C 1
  let p := wfld w 0x0D 1
  let x := portOf s g p
  let t : LinkTst := ⟨wfld w 0x0E 1, wfld w 0x0F 1, wfld w 0x10 1 == 1, wfld w 0x14 4, some m, upBeat s, false, 0, 0, 0, 0, 0, 0⟩
  if portThere s g p = false ∨ testable x = false then respond m 0x0A01 [] s
  else if t.loop = 2 then await m (putPort g p { x with test := some t, loopQ := x.loopQ ++ [.loop true t.beats] } s)
  else await m (putPort g p (enterTest s t x) { s with freeCtr := s.freeCtr + 1 })

/-- LINK_TEST (14 R432). -/
def execLinkTest (m : Nat) (w : MsgWord) (s : State) : Host.Outcome State Fault Refusal := cmd m w 0x38 s (linkTestEff s m w)

end Sys2Proof.Machine
end

