-- ==== Sys2Proof/Machine/SeqOps.lean ====
section
/-!
DEFINITION. The sequencer (18_power_sequencing_reset): power-up (R510 to R514), power-down (R515 to R518), rail failure (R519, R520), what follows a power-down (R521)
and resets (R522, R523).
-/
namespace Sys2Proof.Machine

/-! Shared. -/

/-- The bit of a rail in the masks of SEQ_STATUS (18 R524): rail 1 VCORE, 2 VSRAM, 3 VLINK. -/
def railBit (rail : Nat) : Nat := 2 ^ (rail - 1)

/-- A rail's bit is set in a mask. -/
def railOn (mask rail : Nat) : Bool := mask / railBit rail % 2 == 1

/-- A mask without a rail's bit. -/
def railOff (mask rail : Nat) : Nat := if railOn mask rail then mask - railBit rail else mask

/-- A mask with a rail's bit. -/
def railSet (mask rail : Nat) : Nat := if railOn mask rail then mask else mask + railBit rail

/-- The rail exists. -/
def isRail (rail : Nat) : Bool := decide (1 ≤ rail) && decide (rail ≤ 3)

/-- The more restrictive of two pending actions: 0x3, then 0x1, then 0x2 (18 R521). -/
def worse (a b : Nat) : Nat :=
  let order (x : Nat) : Nat := match x with
    | 3 => 3
    | 1 => 2
    | 2 => 1
    | _ => 0
  if order a < order b then b else a

/-- The steward's rank at power-up: the committed one that the newest link trims item holds, else 0x8000 (13 R381). -/
def storedRank (s : State) : Nat := (newestHolds s.shell.keep 3 s.shell.keep.rankSaved).getD 0x8000

/-- The hard part loses its state (18 R508, R523). What stays: the configuration, the defects of its units, the keep and what its items hold, the sequencer, what the ports have sent. -/
def hardReset (s : State) : State :=
  { State.reset with
    params := s.params
    pending := s.pending
    freeCtr := s.freeCtr
    defects := s.defects
    seq := s.seq
    health := { healthReset with saved := s.health.saved, firstTest := s.health.firstTest }
    host := { hostReset with sent := s.host.sent }
    side := { sidebandReset with sentMsgs := s.side.sentMsgs, pulses := s.side.pulses, level := s.side.level }
    shell := { shellReset with flushes := s.shell.flushes, keep := { keepReset with mem := s.shell.keep.mem, rankSaved := s.shell.keep.rankSaved } } }

/-- The sequencer's registers and inputs stay; what it does begins afresh. -/
def seqStop (step : SeqStep) (q : Seq) : Seq := { q with step := step, req := 0, trips := [], pd := none, resetReq := none, stewardOnly := false, phaseBeat := 0, rising := false }

/-- A full power-up starts (18 R510, R521). -/
def powerUp (s : State) : State := modSeq (fun q => { q with step := .wait, pending := 0, cold := false, rising := true }) s

/-- A supply action that is pending starts a full power-up once SUPPLY_WARN has been low for 1 ms and SHELL_RST_N is high (18 R521). -/
def tryStart (s : State) : State :=
  if s.seq.step = .held ∧ s.seq.pending = 1 ∧ s.seq.lowMs = true ∧ s.seq.shellRst = false then powerUp s else s

/-- ENGINE_PHASE 0x7 (18 R513): the steward serves no longer, and the sequencer waits for WAKE (R521). -/
def failWith (fail : Nat) (s : State) : State :=
  setPhase 7 (modSeq (fun q => { q with step := .failed, fail := fail, pending := 3, trips := [], pd := none, resetReq := none, rising := false })
    { s with steward := { s.steward with up := false } })

/-! Power-up. -/

/-- VAUX_GOOD (18 R510): the sequencer leaves reset. -/
def execVauxGood (s : State) : Host.Outcome State Fault Refusal :=
  due (s.seq.step == .dead) s (modSeq (fun q => { q with step := .wait, cold := true, trigger := 0, rising := true }) s)

/-- The effect of VAUX_GOOD_FALL: every state ends; the inputs stand as they are (18 R509). -/
def vauxFallEff (s : State) : State :=
  modSeq (fun q => { seqReset with warn := q.warn, shellRst := q.shellRst }) (hardReset s)

/-- VAUX_GOOD_FALL (18 R509). -/
def execVauxGoodFall (s : State) : Host.Outcome State Fault Refusal := due (s.seq.step != .dead) s (vauxFallEff s)

/-- The rail that the sequencer requests next. -/
def nextRail (q : Seq) : Option Nat :=
  match q.step with
  | .wait => if q.warn then none else some 1
  | .gap 1 => some 2
  | .gap 2 => some 3
  | _ => none

/-- Request a rail; one that is good already needs no rise. -/
def requestRail (r : Nat) (q : Seq) : Seq := { q with req := railSet q.req r, step := if railOn q.good r then .gap r else .rise r }

/-- RAIL_REQUEST (18 R510): the wait before it has passed. -/
def execRailRequest (s : State) : Host.Outcome State Fault Refusal :=
  due (nextRail s.seq).isSome s (match nextRail s.seq with
    | some r => modSeq (requestRail r) s
    | none => s)

/-- A GOOD input rises. -/
def goodRise (r : Nat) (q : Seq) : Seq := { q with good := railSet q.good r, step := if q.step = .rise r then .gap r else q.step }

/-- RAIL_GOOD_RISE (18 R510). -/
def execRailGoodRise (rail : Nat) (s : State) : Host.Outcome State Fault Refusal :=
  dueAt (isRail rail) (s.seq.step != .dead && !railOn s.seq.good rail) s (modSeq (goodRise rail) s)

/-- The requested rail has not become good. -/
def awaitsGood (q : Seq) : Bool :=
  match q.step with
  | .rise _ => true
  | _ => false

/-- FAIL_COUNT after one more power-up that ended in a rail failure or timeout (18 R521, R524). -/
def failNext (s : State) : Nat := min 3 (s.seq.failCount + 1)

/-- The effect of RAIL_TIMEOUT (18 R510, R521): every request drops; the third such end in succession is the rail-failure limit. -/
def railTimeoutEff (s : State) : State :=
  failWith (if failNext s = 3 then 4 else 1) (modSeq (fun q => { q with req := 0, failCount := failNext s }) s)

/-- RAIL_TIMEOUT (18 R510): 20 ms without GOOD. -/
def execRailTimeout (s : State) : Host.Outcome State Fault Refusal := due (awaitsGood s.seq) s (railTimeoutEff s)

/-- The hard part begins at ENGINE_PHASE 0x1: fabric time starts at 0 (15 R439), the identity and the pins' levels are those sampled (19 R528, R550). -/
def startHard (serial : BitVec 64) (keyHash : BitVec 384) (pins : BitVec 16) (s : State) : State :=
  let t := hardReset s
  setPhase 1 { t with
    seq := { t.seq with step := .run, phaseBeat := 0 }
    time := { t.time with running := true }
    steward := { t.steward with serial := serial, keyHash := keyHash }
    side := { t.side with level := pins, strap := pins } }

/-- HARD_PART_RESET_RELEASE (18 R510): 100 µs after VLINK_GOOD. -/
def execHardPartResetRelease (serial : BitVec 64) (keyHash : BitVec 384) (pins : BitVec 16) (s : State) : Host.Outcome State Fault Refusal :=
  due (s.seq.step == .gap 3) s (startHard serial keyHash pins s)

/-- The slot whose firmware runs, and the slot that failed to verify (12 R372). -/
def chooseFw (s : State) : Option (Nat × Option Nat) :=
  match newestSlot s.shell.keep 1 with
  | none => none
  | some n =>
    if fwVerifies s n then some (n, none)
    else if slotValid s.shell.keep 1 (1 - n) = true ∧ fwVerifies s (1 - n) = true then some (1 - n, some n)
    else none

/-- The firmware of slot `n` runs (12 R371, R372, 10 R312); the other items of the keep are present or not (17 R503, 13 R381). -/
def runFirmware (n : Nat) (failed : Option Nat) (s : State) : State :=
  let p := slotPayload s.shell.keep 1 n
  let t := modKeep (fun k => { k with
    fwSlot := n, fwVersion := pfld p 4 4, fwBuild := pfld p 8 4, svn := pfld p 0xC 4, pendingFw := false, failedSlot := failed }) s
  let u := modHealth (fun h => { h with
    calDefault := (newestSlot s.shell.keep 2).isNone, trimsDefault := (newestSlot s.shell.keep 3).isNone, recAbsent := (newestSlot s.shell.keep 4).isNone,
    beatHb := upBeat s, recTick := s.time.up }) t
  { u with steward := { u.steward with up := true } }

/-- The effect of FIRMWARE_VERIFIED (12 R372, 18 R510, R513): self-test follows; after a steward reset a roll call carries the new identity (R523). -/
def firmwareEff (s : State) : State :=
  match chooseFw s with
  | none => failWith 2 s
  | some (n, failed) =>
    let t := runFirmware n failed s
    if t.seq.stewardOnly then (if (upBundles t).isEmpty then t else startRoll t)
    else setPhase 2 (modFabric (fun f => { f with rank := storedRank t }) t)

/-- FIRMWARE_VERIFIED is due: the keep has been read (12 R372). -/
def firmwareReady (s : State) : Bool := s.seq.step == .run && s.steward.phase == 1 && !s.steward.up && decide (keepUnits ≤ s.shell.keep.rdUnit)

/-- FIRMWARE_VERIFIED (12 R372). -/
def execFirmwareVerified (s : State) : Host.Outcome State Fault Refusal := due (firmwareReady s) s (firmwareEff s)

/-- The logical rooms that the mapping leaves a hall (17 R493). -/
def mappedRooms (m : Mapping) (h : Nat) : Nat := ((List.range 16).filter fun l => tabGet 0 m.roomMap (16 * h + l) != 18).length

/-- The numbers of logical rooms, for the halls that offer fewer than 16. -/
def offeredOf (m : Mapping) : List Nat → Tab Nat
  | [] => []
  | h :: hs => tabPut 16 (offeredOf m hs) h (mappedRooms m h)

/-- A spare is in use or a room retired by the mapping (10 R298). -/
def mapUsed (m : Mapping) : Bool :=
  !m.roomMap.isEmpty || !m.rowMap.isEmpty || !m.colMap.isEmpty || !m.relocs.isEmpty || m.coreFail.isSome || !m.chuteOff.isEmpty

/-- The health unit restores the mappings of the health record (17 R483, 18 R512 step 1). -/
def restoreMap (s : State) : State :=
  let m := (newestHolds s.shell.keep 4 s.health.saved).getD mappingZero
  { modHealth (fun h => { h with map := m, spareOn := mapUsed m }) s with
    offered := offeredOf m (hallNums s)
    store := { s.store with relocs := m.relocs }
    steward := { s.steward with standby := m.coreFail == some 0 } }

/-- The steward clears every store (08 R254, 18 R512 step 2): every byte reads 0, every granule is free. Port cycles are counted from reset (08 R230), and the error
registers are cleared by their reads and writes alone (R249). -/
def clearStores (s : State) : State :=
  modStore (fun st => { storeReset with
    ownReset := 0, relocs := st.relocs, portCycle := st.portCycle, laneNum := st.laneNum, errCount := st.errCount, errLog := st.errLog }) s

/-- A lane port that self-test fails: the spare ports of its gatehouse cover two (14 R424, 17 R499). -/
def portFails (index : Nat) (s : State) : State :=
  let t := modUnit 5 index (fun u => { u with service := 3 }) s
  if ((List.range 26).filter fun p => (unitOf t 5 (26 * (index / 26) + p)).service == 3).length ≤ 2 then markSpare t else markExhausted true t

/-- A unit that self-test fails is handled as a fault found with no task to abort (17 R483, R490 to R495); `found` is what failed in it, the whole unit where nothing is
named. -/
def selfTestFail (kind index : Nat) (found : List Finding) (s : State) : State :=
  let hall := (unitHall kind index).getD 0
  let t := modHealth (fun h => { h with recDue := true }) s
  let fs := if found.isEmpty then defaultFinding kind none else found
  match kind with
  | 5 => portFails index t
  | 6 => markExhausted false (relocateFailed 6 index t)
  | 3 => relocateFailed 3 index t
  | 4 => relocateFailed 4 index t
  | _ => applyActs hall (findingActs t kind index fs) t

/-- The stages that failed, in turn; one that the configuration does not have is not tested (log 66). -/
def selfTestFails : List (Stage × List Finding) → State → State
  | [], s => s
  | (st, fs) :: us, s =>
    selfTestFails us (if stageBuilt s.params (unitExists s) st = false then s
      else match st with
        | .unit k i => selfTestFail k i fs s
        | .engine .standbyCore => selfTestFail 6 (1 - activeCore s) fs s
        | _ => failStage st s)

/-- A failure that ends self-test (18 R512): in the steward core that runs it, or in an engine-level unit on hall 0's base die other than the standby core (01 R25). -/
def fatalStage (s : State) (st : Stage) : Bool := match st with
  | .unit k i => k == 6 && i == activeCore s
  | .engine .standbyCore => false
  | .engine .activeCore => true
  | .engine u => unitPlace s.params u == 0
  | _ => false

/-- Each hall's I_full is measured (18 R512 step 4, 16 R462). -/
def setIFull (iFull : List Nat) (s : State) : State := modHalls (fun h x => { x with iFull := iFull.getD h 0 }) (hallNums s) s

/-- Link training begins, or with no gatehouse the engine is a fabric of one at once (18 R510, 13 R384). -/
def leaveSelfTest (s : State) : State :=
  if s.params.gatehouses = 0 then setPhase 4 (ofOne s) else setPhase 3 (beginTraining ((List.range s.params.gatehouses).filter fun g => !s.health.gatesOut.contains g) s)

/-- The effect of SELF_TEST_COMPLETE (18 R512). -/
def selfTestEff (s : State) (failed : List (Stage × List Finding)) (iFull : List Nat) : State :=
  let a := clearStores (restoreMap s)
  if failed.any (fun f => fatalStage a f.1) then failWith 3 a
  else leaveSelfTest (modHealth (fun h => { h with firstTest := true }) (setIFull iFull (settleHealth (selfTestFails failed a))))

/-- The failures that self-test found: of units, with what was found in each, and of other stages. -/
def testFailures (units : List (Nat × Nat × List Finding)) (stages : List Stage) : List (Stage × List Finding) :=
  units.map (fun u => (.unit u.1 u.2.1, u.2.2)) ++ stages.map (·, [])

/-- SELF_TEST_COMPLETE (18 R512). -/
def execSelfTestComplete (units : List (Nat × Nat × List Finding)) (stages : List Stage) (iFull : List Nat) (s : State) : Host.Outcome State Fault Refusal :=
  due (s.seq.step == .run && s.steward.phase == 2) s (selfTestEff s (testFailures units stages) iFull)

/-- Fabric join has reached its end (18 R514): a roll call closed or a fabric of one, an address, an admission state, fabric time. -/
def joined (s : State) : Bool :=
  s.fabric.registrar.isSome && s.fabric.addr.isSome && (s.fabric.admission != 0 || s.fabric.registrar == some s.steward.serial) && s.time.st != 0

/-- ENGINE_READY is due (18 R514), or after a steward reset the steward runs (R523). -/
def engineReadyDue (s : State) : Bool :=
  s.seq.step == .run && s.steward.up &&
    (if s.seq.stewardOnly then s.steward.phase == 1
    else s.steward.phase == 4 && (joined s || decide (s.seq.phaseBeat + 65536 ≤ upBeat s)))

/-- The effect of ENGINE_READY: after a steward reset the stores are clear first (18 R523). -/
def engineReadyEff (s : State) : State :=
  setPhase 5 (modSeq (fun q => { q with failCount := 0, rising := false, stewardOnly := false }) (if s.seq.stewardOnly then clearStores s else s))

/-- ENGINE_READY (18 R514). -/
def execEngineReady (s : State) : Host.Outcome State Fault Refusal := due (engineReadyDue s) s (engineReadyEff s)

/-! SUPPLY_WARN and an abandoned power-up. -/

/-- The next request drops, from VLINK to VCORE, of those that are raised (18 R511, R516). With VCORE_REQ the hard part has lost its state. -/
def dropNext (s : State) : State :=
  let q := s.seq
  if railOn q.req 3 then modSeq (fun q => { q with req := railOff q.req 3, step := .drop 3 }) s
  else if railOn q.req 2 then modSeq (fun q => { q with req := railOff q.req 2, step := .drop 2 }) s
  else modSeq (seqStop .settle) (hardReset s)

/-- SUPPLY_WARN sampled high before the hard part leaves reset (18 R511): the wait starts again, or the power-up is abandoned. -/
def warnEarly (s : State) : State :=
  match s.seq.step with
  | .rise _ => dropNext (modSeq (fun q => { q with trigger := 1, pending := 1, rising := false }) s)
  | .gap _ => dropNext (modSeq (fun q => { q with trigger := 1, pending := 1, rising := false }) s)
  | _ => s

/-- The effect of SUPPLY_WARN (18 R511, R515, R518, R521): while the time unit runs, the sample is that of the coming boundary. -/
def supplyWarnEff (s : State) : State :=
  let t := modSeq (fun q => { q with warn := true, warnSeen := true, lowMs := false }) s
  if s.seq.step = .run then
    match s.seq.pd with
    | some _ => modSeq (fun q => { q with pending := worse q.pending 1 }) t
    | none => if s.seq.trips.any (fun x => x.1 == 1) then t else modSeq (fun q => { q with trips := q.trips ++ [(1, upBeat s)] }) t
  else warnEarly t

/-- SUPPLY_WARN (18 R515). -/
def execSupplyWarn (s : State) : Host.Outcome State Fault Refusal := .next (supplyWarnEff s)

/-- SUPPLY_WARN_LOW (18 R521): SUPPLY_WARN has been low for 1 ms. -/
def execSupplyWarnLow (s : State) : Host.Outcome State Fault Refusal :=
  .next (tryStart (modSeq (fun q => { q with warn := false, lowMs := true }) s))

/-! Power-down. -/

/-- The pending action that a trigger sets (18 R521). -/
def actionOf (code : Nat) : Nat :=
  match code with
  | 1 => 1
  | 5 => 2
  | _ => 3

/-- POWER_DOWN_START is due: a trigger has occurred before this boundary (18 R515). -/
def powerDownReady (s : State) : Bool :=
  s.seq.step == .run && s.seq.pd.isNone && s.seq.trips.any fun x => decide (x.2 < upBeat s)

/-- Answer every pending staging with DEFERRED_NOT_APPLIED (18 R516). -/
def refuseStaged : List Staged → State → State
  | [], s => s
  | x :: xs, s => refuseStaged xs (respond x.mbox 0x0110 [] (discardStaged x s))

/-- Stop the hatch channels of a list as STOP does (12 R363, 18 R516). -/
def stopChannels : List Nat → State → State
  | [], s => s
  | c :: cs, s => stopChannels cs (if (hatchOf s c).start then hatchStop c s else s)

/-- A reset that waits for its boundary is overtaken by the power-down: its mailboxes are answered POWERING_DOWN. -/
def overtakeReset (s : State) : State :=
  match s.seq.resetReq with
  | some r => if r.answered then modSeq (fun q => { q with resetReq := none }) s else respondAll 0x0E03 r.boxes (modSeq (fun q => { q with resetReq := none }) s)
  | none => s

/-- The effect of POWER_DOWN_START at P0 (18 R515, R516). -/
def powerDownEff (s : State) : State :=
  let codes := s.seq.trips.map (·.1)
  let halt := if codes.contains 2 then 0x0C01 else 0x0E01
  let a := modSeq (fun q => { q with
    trigger := codes.headD 1, pending := codes.foldl (fun p c => worse p (actionOf c)) 0, flushed := false, trips := [],
    pd := some ⟨upBeat s, codes.all (· == 1), 0, false, false⟩, rising := false }) (overtakeReset s)
  let b := stopChannels (List.range s.params.hatchChannels) (refuseStaged a.steward.staged a)
  setPhase 6 (haltAll halt false (launchedTasks b) b)

/-- POWER_DOWN_START (18 R516). -/
def execPowerDownStart (s : State) : Host.Outcome State Fault Refusal := due (powerDownReady s) s (powerDownEff s)

/-- POWER_DOWN_CANCEL is due (18 R518). -/
def cancelReady (s : State) : Bool :=
  match s.seq.pd with
  | some p => s.seq.step == .run && p.cancel && !p.past && decide (8 ≤ p.lows) && decide (upBeat s < p.p0 + 64)
  | none => false

/-- POWER_DOWN_CANCEL (18 R518): ENGINE_PHASE returns to 0x5. -/
def execPowerDownCancel (s : State) : Host.Outcome State Fault Refusal :=
  due (cancelReady s) s (promote (raiseInt 10 (setPhase 5 (modSeq (fun q => { q with pd := none, pending := 0, cancelled := true }) s))))

/-- POINT_OF_NO_RETURN is due: P0 + 64 (18 R516). -/
def noReturnReady (s : State) : Bool :=
  match s.seq.pd with
  | some p => s.seq.step == .run && !p.past && decide (p.p0 + 64 ≤ upBeat s)
  | none => false

/-- Whatever is unwritten is dropped, and the steward serves no longer (18 R516). -/
def dropUnwritten (s : State) : State :=
  { s with
    host := { s.host with
      out := s.host.out.map fun r => { r with purpose := .dead }
      txq := []
      evts := []
      held := []
      waitq := [] }
    steward := { s.steward with
      up := false
      mboxes := tabMap mboxZero (fun b => { b with fetching := false, arrived := none, executing := none, rsp := none, rspAcked := false, awaits := false }) s.steward.mboxes
      tasks := s.steward.tasks.map fun t => if t.record = .none ∨ t.record = .written then t else { t with record := .dropped } } }

/-- The rank to be kept is not yet in the link trims item (13 R381). -/
def rankUnsaved (s : State) : Bool := storedRank s != rankNow s

/-- The final keep flush begins (18 R516): the health record, and the link trims item when a rank has been committed since it was last written. -/
def startFlush (s : State) : State :=
  let a := modKeep (fun k => { k with writes := [], rankSaving := [] }) (modHealth (fun h => { h with saving := [] }) s)
  let b := recordWriteEff a
  if rankUnsaved b then
    queueKeep 3 (freeBytes b.freeCtr 64) none (modKeep (fun k => { k with rankSaving := [rankNow b] }) { b with freeCtr := b.freeCtr + 64 })
  else b

/-- The effect of POINT_OF_NO_RETURN. -/
def noReturnEff (s : State) : State :=
  startFlush (dropUnwritten (modSeq (fun q => { q with pd := q.pd.map fun p => { p with past := true } }) s))

/-- POINT_OF_NO_RETURN (18 R516). -/
def execPointOfNoReturn (s : State) : Host.Outcome State Fault Refusal := due (noReturnReady s) s (noReturnEff s)

/-- The request before it has been low long enough, or its GOOD has fallen: the next request drops (18 R511, R516). -/
def afterDrop (r : Nat) (s : State) : State := if s.seq.step = .drop r then dropNext s else s

/-- RAIL_GOOD_FALL (18 R516): a GOOD input falls while its request is low. -/
def execRailGoodFall (rail : Nat) (s : State) : Host.Outcome State Fault Refusal :=
  dueAt (isRail rail) (railOn s.seq.good rail && !railOn s.seq.req rail) s
    (afterDrop rail (modSeq (fun q => { q with good := railOff q.good rail }) s))

/-- The rail whose fall the sequencer awaits. -/
def dropping (q : Seq) : Option Nat :=
  match q.step with
  | .drop r => some r
  | _ => none

/-- RAIL_DROP_TIMEOUT (18 R511, R516): 1 ms after the request fell. -/
def execRailDropTimeout (s : State) : Host.Outcome State Fault Refusal := due (dropping s.seq).isSome s (dropNext s)

/-- POWER_DOWN_SETTLE (18 R521): the pending action. -/
def execPowerDownSettle (s : State) : Host.Outcome State Fault Refusal :=
  due (s.seq.step == .settle) s
    (if s.seq.pending = 2 then powerUp s else tryStart (modSeq (fun q => { q with step := .held }) s))

/-! Rail failure, shell reset, WAKE. -/

/-- Every request drops at once; nothing further is halted or written (18 R519, R520). A power-up that a rail failure ends counts, up to the limit (R521). In
ENGINE_PHASE 0x7 the phase stays (R513). -/
def collapse (trigger rail : Nat) (s : State) : State :=
  let n := if s.seq.rising = true ∧ rail ≠ 0 then failNext s else s.seq.failCount
  let t := modSeq (fun q => { seqStop .settle q with
    trigger := trigger, rail := if rail = 0 then q.rail else rail, abandoned := q.abandoned || q.pd.isSome, failCount := n, pending := worse q.pending 1 }) (hardReset s)
  if s.seq.step = .failed then { modSeq (fun q => { q with step := .failed, pending := 3 }) t with steward := { t.steward with phase := 7 } }
  else if s.seq.rising = true ∧ rail ≠ 0 ∧ n = 3 then failWith 4 t
  else t

/-- RAIL_FAILURE is due: the rail is requested and good. -/
def railFailReady (s : State) (rail : Nat) : Bool := railOn s.seq.req rail && railOn s.seq.good rail

/-- RAIL_FAILURE (18 R519). -/
def execRailFailure (rail : Nat) (s : State) : Host.Outcome State Fault Refusal :=
  dueAt (isRail rail) (railFailReady s rail) s (collapse 7 rail (modSeq (fun q => { q with good := railOff q.good rail }) s))

/-- SHELL_RESET (18 R520): SHELL_RST_N falls. -/
def execShellReset (s : State) : Host.Outcome State Fault Refusal :=
  .next (modSeq (fun q => { q with shellRst := true }) (if hardUp s then collapse 8 0 s else s))

/-- SHELL_RESET_RELEASE (18 R521): SHELL_RST_N rises. -/
def execShellResetRelease (s : State) : Host.Outcome State Fault Refusal := .next (tryStart (modSeq (fun q => { q with shellRst := false }) s))

/-- WAKE is due: the sequencer waits for it (18 R513, R521). -/
def wakeReady (s : State) : Bool := s.seq.step == .failed || (s.seq.step == .held && s.seq.pending == 3)

/-- The effect of WAKE: a full power-up; requests that still stand in ENGINE_PHASE 0x7 drop first, and the rails settle. -/
def wakeEff (s : State) : State :=
  let t := modSeq (fun q => { q with trigger := 9 }) s
  if s.seq.step = .failed ∧ s.seq.req ≠ 0 then modSeq (fun q => { seqStop .settle q with pending := 2 }) (hardReset t)
  else powerUp (modSeq (seqStop .wait) (hardReset t))

/-- WAKE (18 R521). -/
def execWake (s : State) : Host.Outcome State Fault Refusal := due (wakeReady s) s (wakeEff s)

/-! Resets. -/

/-- Halt every launched task for a steward or engine reset (18 R522); a freeze ends (12 R377). -/
def askReset (m kind : Nat) (s : State) : State :=
  let r : ResetReq := match s.seq.resetReq with
    | some r => { r with kind := max r.kind kind, boxes := r.boxes ++ [m], answered := false }
    | none => ⟨kind, upBeat s, [m], false⟩
  let t := modSeq (fun q => { q with resetReq := some r }) (await m s)
  resetAnswer (haltAll 0x0E02 false (launchedTasks t) t)

/-- The effect of RESET_REQUEST (18 R522). -/
def resetRequestEff (s : State) (m : Nat) (w : MsgWord) : State :=
  let kind := wfld w 0x0C 1
  if s.steward.phase = 6 then
    if kind = 3 then
      respond m 0 [] (endFreeze (modSeq (fun q => { q with pending := 3, pd := q.pd.map fun p => { p with cancel := false } }) s))
    else respond m 0x0E03 [] s
  else if kind ≤ 1 then askReset m kind (endFreeze s)
  else respond m 0 [] (endFreeze (modSeq (fun q => { q with trips := q.trips ++ [(if kind = 2 then 5 else 6, upBeat s)] }) s))

/-- RESET_REQUEST (18 R522). -/
def execResetRequest (m : Nat) (w : MsgWord) (s : State) : Host.Outcome State Fault Refusal := cmd m w 0x3A s (resetRequestEff s m w)

/-- The requests in flight whose answers nobody awaits after a steward reset. -/
def stewardPurpose (p : Purpose) : Purpose :=
  match p with
  | .fill own => .fill own
  | .writeBack => .writeBack
  | _ => .dead

/-- The running hatch channels stop with ERR 0x5 (18 R523, 12 R365). -/
def hatchReset : List Nat → State → State
  | [], s => s
  | c :: cs, s =>
    hatchReset cs (if (hatchOf s c).start then
      hatchIrq c (modHatch c (fun h => { h with start := false, stop := false, busy := false, error := true, err := 5 }) s) else s)

/-- A steward reset (18 R523): the rails, the links, the fabric router, the time unit, the mappings and the settings stay. -/
def stewardRestart (s : State) : State :=
  let t := hatchReset (List.range s.params.hatchChannels) s
  settleHealth { t with
    store := { storeReset with
      relocs := s.store.relocs, scrubPos := s.store.scrubPos, errCount := s.store.errCount, errLog := s.store.errLog, portCycle := s.store.portCycle
      laneNum := s.store.laneNum }
    rooms := []
    steward := { stewardReset with
      phase := s.steward.phase
      healthSt := s.steward.healthSt
      fabricSt := s.steward.fabricSt
      standby := s.steward.standby
      serial := s.steward.serial
      keyHash := s.steward.keyHash
      intStatus := t.steward.intStatus
      intEnable := s.steward.intEnable }
    host := { t.host with
      out := t.host.out.map fun r => { r with purpose := stewardPurpose r.purpose }
      held := []
      waitq := t.host.waitq.filter fun w => stewardPurpose w.1 == w.1 }
    shell := { t.shell with ports := [], keep := { s.shell.keep with rdUnit := 0, bad := [], writes := [], failedSlot := none, rankSaving := [] },
                            snap := { snapReset with noCapture := s.shell.snap.noCapture } }
    fabric := { s.fabric with unacked := [], flowBufs := [], flows := [], readys := [], refused := [] }
    power := { s.power with phases := [], gaps := [] }
    health := { s.health with attribs := [], repairs := [], replacing := [], saving := [], gone := false }
    seq := { s.seq with trigger := 3, resetReq := none, stewardOnly := true } }

/-- RESET_TAKE_EFFECT is due: the response is written, and a boundary has come (18 R522). -/
def takeEffectReady (s : State) : Bool :=
  match s.seq.resetReq with
  | some r => r.answered && decide (r.beat < upBeat s) && r.boxes.all fun m => (mbox s m).rsp.isNone
  | none => false

/-- The effect of RESET_TAKE_EFFECT (18 R522, R523). -/
def takeEffectEff (s : State) : State :=
  match s.seq.resetReq with
  | some r =>
    if r.kind = 0 then setPhase 1 (stewardRestart s)
    else startHard s.steward.serial s.steward.keyHash s.side.level (modSeq (fun q => { q with trigger := 4, resetReq := none, trips := [], stewardOnly := false }) s)
  | none => s

/-- RESET_TAKE_EFFECT (18 R522). -/
def execResetTakeEffect (s : State) : Host.Outcome State Fault Refusal := due (takeEffectReady s) s (takeEffectEff s)

end Sys2Proof.Machine
end

