-- ==== Sys2Proof/Machine/RegOps.lean ====
section
/-!
DEFINITION. Host register accesses that have an effect (19 R533, 20 R554 to R566): writes through the control aperture, and reads of registers that a read
clears.
-/
namespace Sys2Proof.Machine

/-! Writes. -/

/-- Set one half of a 64-bit register (20 R555). -/
def setHalf (x : BitVec 64) (hi : Bool) (v : BitVec 32) : BitVec 64 :=
  if hi then BitVec.ofNat 64 (x.toNat % 2 ^ 32 + 2 ^ 32 * v.toNat) else BitVec.ofNat 64 (x.toNat / 2 ^ 32 * 2 ^ 32 + v.toNat)

/-- ADDR of a ring base: bits [5:0] are reserved (10 R293). -/
def ringBase (x : BitVec 64) : BitVec 64 := BitVec.ofNat 64 (x.toNat / 64 * 64)

/-- A write of a mailbox page (10 R293 to R296, 20 R559); the bases keep their value while ENABLE is 1. -/
def mboxWord (m o : Nat) (v : BitVec 32) (s : State) : State :=
  let en := (mbox s m).enable
  match o with
  | 0x000 => if en then s else modMbox m (fun b => { b with reqBase := ringBase (setHalf b.reqBase false v) }) s
  | 0x004 => if en then s else modMbox m (fun b => { b with reqBase := setHalf b.reqBase true v }) s
  | 0x008 => if en then s else modMbox m (fun b => { b with rspBase := ringBase (setHalf b.rspBase false v) }) s
  | 0x00C => if en then s else modMbox m (fun b => { b with rspBase := setHalf b.rspBase true v }) s
  | 0x010 => ctrlWrite m v s
  | 0x014 => doorbellWrite m v s
  | 0x020 => modMbox m (fun b => { b with rspHead := v }) s
  | _ => s

/-- A write of INT_ENABLE (20 R565, R566): a bit that is newly enabled while its status bit is 1 sends an EVT. -/
def intEnableWrite (v : BitVec 32) (s : State) : State :=
  let was := s.steward.intEnable
  let now := BitVec.ofNat 32 (v.toNat % 8)
  let send (n : Nat) (t : State) : State :=
    if now.getLsbD n = true ∧ was.getLsbD n = false ∧ t.steward.intStatus.getLsbD n = true then addEvt ⟨4, 0, 0, 0, 0, n⟩ t else t
  send 2 (send 1 { s with steward := { s.steward with intEnable := now } })

/-- A W1C bit after a write (00 R15). -/
def w1c (v : BitVec 32) (n : Nat) (x : Bool) : Bool := x && !v.getLsbD n

/-- A write of HP_CFG (19 R536). -/
def hpCfgWrite (v : BitVec 32) (s : State) : State :=
  let n := v.toNat % 65536
  if 10 ≤ n ∧ n ≤ 10000 then modHost (fun h => { h with timeout := n }) s else s

/-- A write of the engine block (20 R560). -/
def engineWord (off : Nat) (v : BitVec 32) (s : State) : State :=
  match off with
  | 0x40104 => modPace (fun p => { p with syncLate := w1c v 18 p.syncLate, limitMiss := w1c v 17 p.limitMiss, belowFloor := w1c v 16 p.belowFloor }) s
  | 0x4020C => modTime (fun t => { t with stepped := w1c v 19 t.stepped, split := w1c v 18 t.split, refLost := w1c v 17 t.refLost }) s
  | 0x4030C => modPower (fun p => { p with
      capLimited := w1c v 17 p.capLimited, hallLimited := w1c v 16 p.hallLimited, thermHot := w1c v 15 p.thermHot, thermCrit := w1c v 14 p.thermCrit,
      rise := w1c v 13 p.rise }) s
  | 0x40408 => modHealth (fun h => { h with spareUsed := w1c v 2 h.spareUsed, transient := w1c v 1 h.transient, exhausted := w1c v 0 h.exhausted }) s
  | 0x40504 => modSeq (fun q => { q with abandoned := w1c v 3 q.abandoned, cancelled := w1c v 2 q.cancelled }) s
  | 0x40600 => modSnap (fun x => { x with noCapture := w1c v 3 x.noCapture }) s
  | 0x40700 => { s with steward := { s.steward with intStatus := s.steward.intStatus &&& ~~~v } }
  | 0x40704 => intEnableWrite v s
  | 0x40800 => hpCfgWrite v s
  | _ => s

/-- HATCH_SRC or HATCH_DST after a write of a half: a reserved SPACE keeps the field (12 R357, 00 R14). -/
def endWord (x : BitVec 64) (hi : Bool) (v : BitVec 32) : BitVec 64 :=
  if hi then
    let space := if v.toNat / 2 ^ 30 < 2 then v.toNat / 2 ^ 30 else x.toNat / 2 ^ 62
    setHalf x true (BitVec.ofNat 32 (space * 2 ^ 30 + v.toNat % 2 ^ 19))
  else setHalf x false v

/-- A write of HATCH_CTRL (12 R357, R359, R363): the fields, then START, then STOP. -/
def hatchCtrl (c : Nat) (v : BitVec 32) (s : State) : State :=
  let n := v.toNat
  let burst := n / 2 ^ 12 % 16
  let pace := n / 2 ^ 10 % 4
  let t := modHatch c (fun h => { h with
    ctx := n / 2 ^ 20, burstLog := if 6 ≤ burst ∧ burst ≤ 12 then burst else h.burstLog, pace := if pace = 3 then h.pace else pace, irqEn := v.getLsbD 2 }) s
  let u := if v.getLsbD 0 then hatchStart c t else t
  if v.getLsbD 1 then hatchStop c u else u

/-- A channel's register is written: while the channel runs, any register but HATCH_CTRL is undefined afterwards (12 R359). R357 calls COUNT a multiple
of 64 and does not say what a write of another value does: it is ignored, as an undefined encoding is (DESIGN CHOICE, log 96). -/
def hatchWord (c o : Nat) (v : BitVec 32) (s : State) : State :=
  let k := s.freeCtr
  let run := (hatchOf s c).start
  let free : State := { s with freeCtr := k + 3 }
  match o with
  | 0x00 => if run then modHatch c (fun h => { h with src := BitVec.ofNat 64 (Config.freeNat k) }) free else modHatch c (fun h => { h with src := endWord h.src false v }) s
  | 0x04 => if run then modHatch c (fun h => { h with src := BitVec.ofNat 64 (Config.freeNat k) }) free else modHatch c (fun h => { h with src := endWord h.src true v }) s
  | 0x08 => if run then modHatch c (fun h => { h with dst := BitVec.ofNat 64 (Config.freeNat k) }) free else modHatch c (fun h => { h with dst := endWord h.dst false v }) s
  | 0x0C => if run then modHatch c (fun h => { h with dst := BitVec.ofNat 64 (Config.freeNat k) }) free else modHatch c (fun h => { h with dst := endWord h.dst true v }) s
  | 0x10 =>
    if run then modHatch c (fun h => { h with count := Config.freeNat k % 2 ^ 32 }) free
    else if v.toNat % 64 = 0 then modHatch c (fun h => { h with count := v.toNat }) s
    else s
  | 0x14 => hatchCtrl c v s
  | 0x18 =>
    if run then modHatch c (fun h => { h with reqLost := Config.freeBool k, error := Config.freeBool (k + 1), done := Config.freeBool (k + 2) }) free
    else modHatch c (fun h => { h with reqLost := w1c v 3 h.reqLost, error := w1c v 2 h.error, done := w1c v 1 h.done }) s
  | _ => s

/-- A write of a hall block: VALID and OVERFLOW of the high half of STORE_ERR_LOG (08 R249). -/
def hallWord (h o : Nat) (v : BitVec 32) (s : State) : State :=
  if o = 0x00C then
    modStore (fun st => { st with errLog := tabMod errLogZero st.errLog h fun l => { l with valid := w1c v 18 l.valid, overflow := w1c v 17 l.overflow } }) s
  else s

/-- A write of a gatehouse block: LOST of LINK_PORT_STATUS (14 R435). -/
def gateWord (g o : Nat) (v : BitVec 32) (s : State) : State :=
  if o < 0x68 then modPort g (o / 4) (fun x => { x with lost := w1c v 2 x.lost }) s else s

/-- The registers that the steward alone writes (20 R557). -/
def stewardOnly (off : Nat) : Bool :=
  off == 0x40100 || (decide (0x40210 ≤ off) && decide (off < 0x40220)) || off == 0x40300 || off == 0x40304 || off == 0x40308 || off == 0x40400 || off == 0x40404

/-- The 4-byte words of the engine block that belong to a register (20 R560). -/
def engineReg (off : Nat) : Bool :=
  let within (lo hi : Nat) : Bool := decide (lo ≤ off) && decide (off < hi)
  within 0x40000 0x40040 || within 0x40100 0x4010C || within 0x40200 0x40220 || within 0x40300 0x40314 || within 0x40320 0x40330 || within 0x40380 0x40414 ||
    within 0x40500 0x40508 || off == 0x40600 || within 0x40700 0x40708 || within 0x40800 0x40808 || off == 0x40900 || within 0x40A00 0x40A48

/-- The 4-byte word at an aligned offset belongs to a register (20 R554, R555, R559 to R561). -/
def isReg (P : Params) (off : Nat) : Bool :=
  if off < 0x40000 then
    let o := off % 0x1000
    decide (o < 0x24) || o == 0x28 || o == 0x2C || o == 0x30
  else if off < 0x41000 then engineReg off
  else if off = 0x50000 then true
  else if off < 0x50500 then decide (0x50100 ≤ off) && decide ((off - 0x50100) / 0x20 < P.hatchChannels) && decide ((off - 0x50100) % 0x20 < 0x1C)
  else if 0x51000 ≤ off ∧ off < 0x51080 then true
  else if 0x80000 ≤ off ∧ off < 0x90000 then
    decide ((off - 0x80000) / 0x1000 < P.halls) && ((off % 0x1000 == 0) || off % 0x1000 == 8 || off % 0x1000 == 12)
  else if 0xC0000 ≤ off ∧ off < 0xC4000 then
    let o := off % 0x1000
    decide ((off - 0xC0000) / 0x1000 < P.gatehouses) && (decide (o < 0x68) || (decide (0x100 ≤ o) && decide (o < 0x1D0)))
  else false

/-- The effect of writing a 4-byte word (20 R557). -/
def regWord (off : Nat) (v : BitVec 32) (s : State) : State :=
  if isReg s.params off = false ∨ stewardOnly off = true then s
  else if off < 0x40000 then mboxWord (off / 0x1000) (off % 0x1000) v s
  else if off < 0x41000 then engineWord off v s
  else if off = 0x50000 then globalWrite v s
  else if off < 0x50500 then hatchWord ((off - 0x50100) / 0x20) ((off - 0x50100) % 0x20) v s
  else if off < 0x80000 then s
  else if off < 0x90000 then hallWord ((off - 0x80000) / 0x1000) (off % 0x1000) v s
  else gateWord ((off - 0xC0000) / 0x1000) (off % 0x1000) v s

/-- The words of an access: one or two (20 R555). -/
def accessWords (offset width : Nat) : List Nat := if width = 8 then [offset, offset + 4] else [offset]

/-- STATUS of a write: 0x1 where a word holds no register or is the steward's alone, which before the hard part leaves reset answers 0x0 (19 R533, 20 R557,
R558). -/
def writeStatus (s : State) (offset width : Nat) : Nat :=
  if (accessWords offset width).any fun o => !isReg s.params o || (hardUp s && stewardOnly o) then 1 else 0

/-- The effect of a host register write: before the hard part leaves reset only RESET_CAUSE takes one (20 R558). -/
def registerWriteEff (s : State) (tag offset width : Nat) (value : BitVec 64) : State :=
  let lo := BitVec.ofNat 32 value.toNat
  let hi := BitVec.ofNat 32 (value.toNat / 2 ^ 32)
  let word (o : Nat) (v : BitVec 32) (t : State) : State := if hardUp s = true ∨ o = 0x40504 then regWord o v t else t
  let t := word offset lo s
  let u := if width = 8 then word (offset + 4) hi t else t
  regReply tag (writeStatus s offset width) [] u

/-- A write that the host may issue: 4 or 8 bytes, naturally aligned (19 R533), to a part whose VAUX is good. -/
def writeReady (s : State) (offset width : Nat) : Bool := s.seq.step != .dead && (width == 4 || width == 8) && offset % width == 0

/-- HOST_REGISTER_WRITE (19 R533). -/
def execHostRegisterWrite (tag offset width : Nat) (value : BitVec 64) (s : State) : Host.Outcome State Fault Refusal :=
  due (writeReady s offset width) s (registerWriteEff s tag offset width value)

/-- INT_ENABLE (20 R565, R566): a 4-byte write of the register. -/
def execIntEnable (tag : Nat) (value : BitVec 32) (s : State) : Host.Outcome State Fault Refusal :=
  due (s.seq.step != .dead) s (regReply tag 0 [] (if hardUp s then intEnableWrite value s else s))

/-! Reads that clear (00 R15, R16). -/

/-- The state answers a read with a 32-bit value, where VAUX is good. -/
def read32 (tag v : Nat) (s t : State) : Host.Outcome State Fault Refusal := due (s.seq.step != .dead) s (regReply tag 0 (leBytes 4 v) t)

/-- The value of PACE_EVENTS (02 R46). -/
def paceEventsVal (p : Pace) : Nat := p.missBeats * 2 ^ 16 + p.floorBeats

/-- PACE_EVENTS (02 R46). -/
def execPaceEvents (tag : Nat) (s : State) : Host.Outcome State Fault Refusal :=
  read32 tag (paceEventsVal s.pace) s (modPace (fun p => { p with missBeats := 0, floorBeats := 0 }) s)

/-- The value of STORE_ERR_COUNT (08 R249). -/
def errCountVal (c : ErrCount) : Nat := c.corrected * 2 ^ 16 + c.uncorrectable * 2 ^ 8 + c.poisonHits

/-- STORE_ERR_COUNT (08 R249): of an absent hall the offset holds no register (20 R555). -/
def execStoreErrCount (tag hall : Nat) (s : State) : Host.Outcome State Fault Refusal :=
  due (s.seq.step != .dead) s
    (if hall < s.params.halls then
      regReply tag 0 (leBytes 4 (errCountVal (tabGet errCountZero s.store.errCount hall)))
        (modStore (fun st => { st with errCount := tabPut errCountZero st.errCount hall errCountZero }) s)
    else regReply tag 1 (leBytes 4 0) s)

/-- The value of FABRIC_DROPS (13 R412). -/
def dropsVal (d : Drops) : Nat := d.badHeader * 2 ^ 24 + d.hopsOut * 2 ^ 16 + d.noRoute * 2 ^ 8 + d.staleFlow

/-- FABRIC_DROPS (13 R412). -/
def execFabricDrops (tag : Nat) (s : State) : Host.Outcome State Fault Refusal :=
  read32 tag (dropsVal s.fabric.drops) s (modFabric (fun f => { f with drops := ⟨0, 0, 0, 0⟩ }) s)

/-- The value of LINK_PORT_COUNTS (14 R436). -/
def portCountsVal (x : Port) : Nat := x.corrected * 2 ^ 32 + x.uncorr * 2 ^ 16 + x.slotsLost * 2 ^ 8 + x.replays * 2 ^ 4 + x.badBlocks

/-- What a read of LINK_PORT_COUNTS clears: part 0 is the whole register, 1 its low word, 2 its high word; a read clears the fields that it covers (00 R15, 20 R555). -/
def clearCounts (part : Nat) (x : Port) : Port :=
  { x with
    corrected := if part = 1 then x.corrected else 0, uncorr := if 2 ≤ part then x.uncorr else 0, slotsLost := if 2 ≤ part then x.slotsLost else 0,
    replays := if 2 ≤ part then x.replays else 0, badBlocks := if 2 ≤ part then x.badBlocks else 0 }

/-- The bytes that a read of a part of LINK_PORT_COUNTS returns. -/
def countBytes (part v : Nat) : List Byte := if part = 0 then leBytes 8 v else if part = 1 then leBytes 4 (v % 2 ^ 32) else leBytes 4 (v / 2 ^ 32)

/-- LINK_PORT_COUNTS (14 R436) of port `p` mod 32: with `p` / 32 = 0 an 8-byte read, with 1 a read of its low word, with 2 of its high word (20 R555; log 116); of an absent port the
offset holds no register. -/
def execLinkPortCounts (tag g p : Nat) (s : State) : Host.Outcome State Fault Refusal :=
  due (s.seq.step != .dead) s
    (if portThere s g (p % 32) then
      regReply tag 0 (countBytes (p / 32) (portCountsVal (portOf s g (p % 32)))) (modPort g (p % 32) (clearCounts (p / 32)) s)
    else regReply tag 1 (countBytes (p / 32) 0) s)

/-- The value of POWER_EVENTS (16 R479). -/
def powerEventsVal (p : Power) : Nat := p.capBeats * 2 ^ 24 + p.hallBeats * 2 ^ 16 + p.thermBeats * 2 ^ 8 + p.rises

/-- POWER_EVENTS (16 R479). -/
def execPowerEvents (tag : Nat) (s : State) : Host.Outcome State Fault Refusal :=
  read32 tag (powerEventsVal s.power) s (modPower (fun p => { p with capBeats := 0, hallBeats := 0, thermBeats := 0, rises := 0 }) s)

/-- The value of HEALTH_EVENTS (17 R506). -/
def healthEventsVal (h : Health) : Nat := h.evRepairs * 2 ^ 24 + h.evTrans * 2 ^ 16 + h.evProact * 2 ^ 8 + h.evRequeue

/-- HEALTH_EVENTS (17 R506). -/
def execHealthEvents (tag : Nat) (s : State) : Host.Outcome State Fault Refusal :=
  read32 tag (healthEventsVal s.health) s (modHealth (fun h => { h with evRepairs := 0, evTrans := 0, evProact := 0, evRequeue := 0 }) s)

/-- The value of HP_ERRORS (19 R536). -/
def hpErrorsVal (h : HostPort) : Nat := h.timeouts * 2 ^ 16 + h.lateRsp * 2 ^ 8 + h.ferr

/-- HP_ERRORS (19 R536). -/
def execHpErrors (tag : Nat) (s : State) : Host.Outcome State Fault Refusal :=
  read32 tag (hpErrorsVal s.host) s (modHost (fun h => { h with timeouts := 0, lateRsp := 0, ferr := 0 }) s)

/-- The levels of the pins that exist (19 R553). -/
def pinLevels (s : State) (levels : BitVec 16) : BitVec 16 := BitVec.ofNat 16 (levels.toNat % 2 ^ s.params.sbPins)

/-- SB_STATUS (19 R553): before the hard part leaves reset it answers its reset value (20 R558). -/
def execSbStatus (tag : Nat) (levels : BitVec 16) (s : State) : Host.Outcome State Fault Refusal :=
  if hardUp s then
    read32 tag (s.side.traceLost * 2 ^ 24 + (pinLevels s levels).toNat) s { s with side := { s.side with level := pinLevels s levels, traceLost := 0 } }
  else read32 tag 0 s s

end Sys2Proof.Machine
end

