-- ==== Sys2Proof/Machine/BeatOps.lean ====
section
/-!
DEFINITION. The beat boundary (02 R37 to R48, 15 R452 to R454, 18 R509, R518, 19 R548 to R552): pace, fabric time, the governor's part, the pins, the hatch and the annexes.
-/
namespace Sys2Proof.Machine

/-! Pace (02 R37 to R46). -/

/-- The beat that ends was a limit miss: in fixed pace a permit was lost or is still banked, or a hall received fewer than PERMITS (02 R42, 16 R466). -/
def limitMissed (s : State) : Bool :=
  s.pace.mode && (s.pace.units.any (fun u => u.2.lost != 0 || u.2.banked != 0) || (hallNums s).any fun h => decide (allowance s h < s.pace.permits))

/-- The local pace in ps that a count of a reference pipeline's periods over a beat gives (02 R37). How it follows from the count the manual leaves open: a period of the ring is taken
as one cycle, and 1,024,000 / count is cut to whole ps, so that 731 periods read 1,400 ps; a pipeline that has not run counts as one period (DESIGN CHOICE, log 91). -/
def localPace (count : Nat) : Nat := 1024000 / max 1 count

/-- The local paces that the counts give (02 R37): of a hall's ring at 18 × hall + 17, of its physical room p at 18 × hall + p. -/
def localPaces (P : Params) (rings rooms : List Nat) : Tab Nat :=
  (List.range P.halls).foldl (fun t h => (List.range 18).foldl (fun t p =>
    tabPut 0 t (18 * h + p) (localPace (if p = 17 then rings.getD h 0 else rooms.getD (17 * h + p) 0))) t) []

/-- The keys of the pipelines that count: the hall rings and the active rooms, which serve logical rooms (02 R37). -/
def activePipes (s : State) : List Nat :=
  (hallNums s).flatMap fun h => (18 * h + 17) :: ((List.range 16).filterMap (physOf s h)).map (18 * h + ·)

/-- The engine pace of a beat: the slowest local pace of any active room or hall ring (02 R37). -/
def enginePace (s : State) (ps : Tab Nat) : Nat := ((activePipes s).map (tabGet 0 ps)).foldl max 0

/-- The permits that the units of each hall received in the beat that ends: in fixed pace their number is exact, those that no unit claimed having lapsed (02 R41). -/
def closeIssued (s : State) : Tab Nat :=
  (hallNums s).foldl (fun t h => tabPut 0 t h (if paced s h then allowance s h else 0)) []

/-- The pace accounts of the beat that ends, from the counts of the reference pipelines. An engine pace above 65,535 ps reads 65,535 in CYCLE_PS: the manual states no
saturation (DESIGN CHOICE, log 91). -/
def closePace (rings rooms : List Nat) (s : State) : State :=
  let ps := localPaces s.params rings rooms
  let cyclePs := enginePace s ps
  let slow := decide (1400 < cyclePs)
  let miss := limitMissed s
  let t := modPace (fun p => { p with
    modeActive := p.mode, cyclePs := min 65535 cyclePs, units := [], issuedLast := closeIssued s, localPs := ps,
    belowFloor := p.belowFloor || slow, floorBeats := if slow then satInc 65535 p.floorBeats else p.floorBeats,
    limitMiss := p.limitMiss || miss, missBeats := if miss then satInc 65535 p.missBeats else p.missBeats }) s
  if slow = true ∨ miss = true then raiseInt 6 t else t

/-! Fabric time. -/

/-- The next beat begins (15 R437): the annexes are shown its tick and strobe (R454). -/
def advance (s : State) : State :=
  let t := (s.time.ticks / 1024 + 1) * 1024 % 2 ^ 64
  modTime (fun x => { x with ticks := t, frac := 0, up := (x.up / 1024 + 1) * 1024, atime := t, strobes := x.strobes + 1 }) s

/-! Pins (15 R452, R453, 19 R548 to R552). -/

/-- The pin runs its function: it exists and is not in a hold at this boundary (19 R552). -/
def pinRuns (s : State) (p : Nat) (x : Pin) : Bool :=
  decide (p < s.params.sbPins) && (match x.holdUntil with
    | some b => decide (b ≤ upBeat s)
    | none => true)

/-- The pins that run a function now. -/
def pinsOf (s : State) (func : Nat) : List Nat := (s.side.pins.zipIdx.filter fun e => e.1.func == func && pinRuns s e.2 e.1).map (·.2)

/-- d(b) of R452. -/
def spreadOf (b : Nat) : Nat := (b % 2 ^ 32 * 0x9E3779B9) % 2 ^ 32 / 2 ^ 28

/-- d(b) of the present beat: 0 without SPREAD (15 R452). -/
def spreadNow (s : State) : Nat := if s.time.spread then spreadOf (beatOf s) else 0

/-- Drive pins to the levels of a list, each for its ticks, from a count of ticks on: what is put on a pin as (pin, from, to, high). -/
def drive (pins : List Nat) (start : Nat) (bits : List (Nat × Bool)) (s : State) : State :=
  let w := (bits.foldl (fun (a : Nat × List (Nat × Nat × Bool)) b => (a.1 + b.1, a.2 ++ [(a.1, a.1 + b.1, b.2)])) (start, [])).2
  { s with side := { s.side with wave := s.side.wave ++ pins.flatMap fun p => w.map fun x => (p, x.1, x.2.1, x.2.2) } }

/-- The beat-out pulse of the beat (15 R452): high for 256 ticks from its start, delayed by d(b). -/
def beatOut (s : State) : State :=
  let t := modTime (fun t => { t with beatDelay := spreadNow s }) s
  if (pinsOf s 2).isEmpty then t else drive (pinsOf s 2) (t.time.up + spreadNow s) [(256, true)] { t with side := { t.side with pulses := t.side.pulses + 1 } }

/-- Hops to the keeper: 0 when this engine is the keeper, 0xFF with none (15 R453, R455). -/
def keeperHops (s : State) : Nat :=
  if s.time.st = 1 then 0
  else match s.time.keeper with
    | some k => min 255 k.hops
    | none => 0xFF

/-- The class of the keeper followed (15 R455). -/
def keeperClass (s : State) : Nat :=
  if s.time.st = 1 then timeClass s
  else match s.time.keeper with
    | some k => k.cls
    | none => 2

/-- The time-of-day message of the boundary (15 R453). -/
def todBytes (s : State) : List Byte :=
  let b := leBytes 1 0xA5 ++ leBytes 1 (s.time.st % 4 + 4 * (keeperClass s % 4)) ++ leBytes 1 (keeperHops s) ++ leBytes 1 0 ++ leBytes 8 (beatOf s) ++ leBytes 3 0
  b ++ [crc8 b]

/-- The bits of some bytes on a line: a start bit, 8 data bits, least significant first, and a stop bit each (15 R453). The polarity is not stated: idle and stop are high, start
low (log 114). -/
def lineBits (bs : List Byte) : List Bool := bs.flatMap fun b => false :: (List.range 8).map (fun i => b.getLsbD i) ++ [true]

/-- How long bit `i` of a message lasts: 80 ticks; with SPREAD 78 to 81 (15 R453). -/
def bitTicks (spread : Bool) (i : Nat) : Nat := if spread then 78 + i * 0x9E3779B9 % 2 ^ 32 / 2 ^ 30 else 80

/-- The bits of a message with their ticks. -/
def msgBits (spread : Bool) (bs : List Byte) : List (Nat × Bool) := (lineBits bs).zipIdx.map fun b => (bitTicks spread b.2, b.1)

/-- Send a message on each of some pins, `delay` ticks from now. -/
def startMsg (pins : List Nat) (delay : Nat) (spread : Bool) (bytes : List Byte) (s : State) : State :=
  let bits := msgBits spread bytes
  let t := s.time.up + delay + (bits.map (·.1)).sum
  drive pins (s.time.up + delay) bits { s with side := { s.side with sending := s.side.sending ++ pins.map fun p => (p, t, bytes) } }

/-- The messages whose last bit has been sent; what pins have been driven to before is past. -/
def finishMsgs (s : State) : State :=
  let ended := s.side.sending.filter fun m => decide (m.2.1 ≤ s.time.up)
  { s with side := { s.side with
    sentMsgs := s.side.sentMsgs ++ ended.map (fun m => (m.1, m.2.2)), sending := s.side.sending.filter fun m => !decide (m.2.1 ≤ s.time.up),
    wave := s.side.wave.filter fun w => !decide (w.2.2.1 ≤ s.time.up) } }

/-- The time-of-day message after every boundary whose number is a multiple of 1,024 (15 R453). -/
def timeOfDay (s : State) : State :=
  if beatOf s % 1024 = 0 ∧ (pinsOf s 3).isEmpty = false then
    startMsg (pinsOf s 3) (spreadNow s) s.time.spread (todBytes s) (modTime (fun t => { t with tod := todBytes s }) s)
  else s

/-- The next trace message, where the trace pins are free (19 R549). -/
def traceOut (s : State) : State :=
  match s.side.traceQ with
  | [] => s
  | m :: ms =>
    let ps := pinsOf s 5
    if ps.isEmpty = true ∨ s.side.sending.any (fun x => ps.contains x.1) = true then s
    else startMsg ps 0 false m { s with side := { s.side with traceQ := ms } }

/-- A condition of ALERT_MASK (19 R548). -/
def alertCond (s : State) (n : Nat) : Bool :=
  match n with
  | 0 => s.steward.healthSt == 2
  | 1 => s.steward.healthSt == 1
  | 2 => s.power.halls.any fun h => h.2.hot
  | 3 => s.power.halls.any fun h => h.2.crit
  | 4 => s.steward.phase == 7
  | 5 => s.time.st == 0 || s.time.st == 3
  | 6 => s.steward.fabricSt == 1
  | _ => s.steward.phase == 6

/-- An alert pin drives low (19 R548). -/
def alertLow (s : State) (x : Pin) : Bool := (List.range 8).any fun n => x.mask / 2 ^ n % 2 == 1 && alertCond s n

/-- PIN_HOLD_END is due (19 R552). -/
def holdEndReady (s : State) (pin : Nat) : Bool :=
  match s.side.pins[pin]? with
  | some x => (match x.holdUntil with
    | some b => decide (b ≤ upBeat s)
    | none => false)
  | none => false

/-- PIN_HOLD_END (19 R552): the pin's new function runs. -/
def execPinHoldEnd (pin : Nat) (s : State) : Host.Outcome State Fault Refusal :=
  dueAt (decide (pin < s.params.sbPins)) (holdEndReady s pin) s (modPin pin (fun x => { x with holdUntil := none }) s)

/-! The rest of the boundary. -/

/-- A burst falls due in every running channel that is paced by beats (12 R360). -/
def hatchBeat : List Nat → State → State
  | [], s => s
  | c :: cs, s => hatchBeat cs (if (hatchOf s c).start = true ∧ (hatchOf s c).pace = 1 then modHatch c (fun h => { h with beatDue := true }) s else s)

/-- The annexes have accepted some of the words that stream ports offer, how many is theirs to say: free values (12 R355, R356, log 110). -/
def annexTakes : List StreamPort → State → State
  | [], s => s
  | p :: ps, s =>
    let k := Config.freeNat s.freeCtr % (p.held.length / 4 + 1)
    annexTakes ps (if p.held.isEmpty then s
      else modPort' p.task p.pipe (fun q => if k = 0 then q else { q with held := q.held.drop (4 * k), since := some (upBeat s) }) { s with freeCtr := s.freeCtr + 1 })

/-- SUPPLY_WARN as sampled at this boundary (18 R509, R518): high where SUPPLY_WARN was commanded for it. -/
def sampleWarn (s : State) : State :=
  modSeq (fun q => { q with
    warn := q.warnSeen, warnSeen := false, pd := q.pd.map fun p => { p with lows := if q.warnSeen then 0 else p.lows + 1 } }) s

/-- Write back the modified lines of a list. -/
def writeBackAll : List PorchLine → State → State
  | [], s => s
  | l :: ls, s =>
    writeBackAll ls (if l.modified then
      issueReq .writeBack ⟨0, 0x05, 0, 0, 0, l.addr, 1, l.data⟩ (modHost (fun h => { h with porch := h.porch.filter fun x => x.addr != l.addr }) s)
    else s)

/-- Between P0 + 16 and P0 + 64 dirty porch lines are written back (18 R516). -/
def powerDownPorch (s : State) : State :=
  match s.seq.pd with
  | some p => if p.past = false ∧ p.p0 + 16 ≤ upBeat s then writeBackAll s.host.porch s else s
  | none => s

/-- The staged items that commit at this boundary (10 R317, R318): each commit belongs to a boundary. -/
def noteStaged (s : State) : State :=
  modSteward (fun y => { y with staged := y.staged.map fun x => { x with ready := x.ready || stagedMet s x } }) s

/-- The records of completed tasks that wait are written from the boundary on (11 R342, log 94). -/
def recordBoundary (s : State) : State := tryRecords (s.steward.queues.map (·.id)) s

/-- What a boundary does once the beat has begun. -/
def boundaryEff (s : State) : State :=
  noteStaged <| recordBoundary <| powerDownPorch (sampleWarn (readyBoundary (answerHalts s.steward.tasks (lateChecks (launchedTasks s) (hatchBeat (List.range s.params.hatchChannels)
    (annexTakes s.shell.ports (traceOut (timeOfDay (beatOut (finishMsgs (powerBoundary s)))))))))))

/-- BEAT_BOUNDARY (02 R48): while the time unit runs, once a step that belongs to the present boundary has been made (15 R446); the counts are those of the reference pipelines over the beat that ends (R37). -/
def execBeatBoundary (measured : MeasuredPace) (s : State) : Host.Outcome State Fault Refusal :=
  due (s.time.running && !stepDue s) s (boundaryEff (advance (closePace measured.rings measured.rooms s)))

end Sys2Proof.Machine
end

