-- ==== Sys2Proof/Machine/Dispatch.lean ====
section
/-!
DEFINITION. What each command does, one arm per constructor of `Instr`, each a direct call of its meaning.
-/
namespace Sys2Proof.Machine

/-- The effect of one command on everything but the queue. -/
def exec (i : Instr) (s : State) : Host.Outcome State Fault Refusal :=
  match i with
  | .mma room w => Sys2Proof.Machine.execMma room w s
  | .mmt room w => Sys2Proof.Machine.execMmt room w s
  | .pair room w w2 => Sys2Proof.Machine.execPair room w w2 s
  | .lds room w => Sys2Proof.Machine.execLds room w s
  | .flip room w => Sys2Proof.Machine.execFlip room w s
  | .chute room w => Sys2Proof.Machine.execChute room w s
  | .ewa room w => Sys2Proof.Machine.execEwa room w s
  | .rowf room w => Sys2Proof.Machine.execRowf room w s
  | .stat room w => Sys2Proof.Machine.execStat room w s
  | .resc room w => Sys2Proof.Machine.execResc room w s
  | .move room w => Sys2Proof.Machine.execMove room w s
  | .halo room w => Sys2Proof.Machine.execHalo room w s
  | .relay room w => Sys2Proof.Machine.execRelay room w s
  | .sync room w => Sys2Proof.Machine.execSync room w s
  | .hint room w => Sys2Proof.Machine.execHint room w s
  | .stuff room w => Sys2Proof.Machine.execStuff room w s
  | .bkt room w => Sys2Proof.Machine.execBkt room w s
  | .wait room w => Sys2Proof.Machine.execWait room w s
  | .signal room w => Sys2Proof.Machine.execSignal room w s
  | .endOp room w => Sys2Proof.Machine.execEndOp room w s
  | .narrowAccessService room => Sys2Proof.Machine.execNarrowAccessService room s
  | .narrowLoadComplete room => Sys2Proof.Machine.execNarrowLoadComplete room s
  | .opFetch room => Sys2Proof.Machine.execOpFetch room s
  | .opRetire room op => Sys2Proof.Machine.execOpRetire room op s
  | .syncRelease task group => Sys2Proof.Machine.execSyncRelease task group s
  | .waitExpired room => Sys2Proof.Machine.execWaitExpired room s
  | .handshakeTimeout room stage ticks => Sys2Proof.Machine.execHandshakeTimeout room stage ticks s
  | .annexSilent room => Sys2Proof.Machine.execAnnexSilent room s
  | .beatBoundary measured => Sys2Proof.Machine.execBeatBoundary measured s
  | .pacePermit unit use => Sys2Proof.Machine.execPacePermit unit use s
  | .cellarPortCycle hall => Sys2Proof.Machine.execCellarPortCycle hall s
  | .remoteAccessService room => Sys2Proof.Machine.execRemoteAccessService room s
  | .correctedWriteBack line => Sys2Proof.Machine.execCorrectedWriteBack line s
  | .scrubRead hall line => Sys2Proof.Machine.execScrubRead hall line s
  | .granuleClearDone addr => Sys2Proof.Machine.execGranuleClearDone addr s
  | .bankRelocation hall bank => Sys2Proof.Machine.execBankRelocation hall bank s
  | .taskLaunchBoundary task => Sys2Proof.Machine.execTaskLaunchBoundary task s
  | .endReport task room => Sys2Proof.Machine.execEndReport task room s
  | .completionRecordAck task => Sys2Proof.Machine.execCompletionRecordAck task s
  | .faultReport room => Sys2Proof.Machine.execFaultReport room s
  | .taskHalted task => Sys2Proof.Machine.execTaskHalted task s
  | .nop m w => Sys2Proof.Machine.execNop m w s
  | .identify m w => Sys2Proof.Machine.execIdentify m w s
  | .mbxBind m w => Sys2Proof.Machine.execMbxBind m w s
  | .ctxCreate m w => Sys2Proof.Machine.execCtxCreate m w s
  | .ctxDestroy m w => Sys2Proof.Machine.execCtxDestroy m w s
  | .ctxDestroyComplete ctx => Sys2Proof.Machine.execCtxDestroyComplete ctx s
  | .ctxQuery m w => Sys2Proof.Machine.execCtxQuery m w s
  | .queueCreate m w => Sys2Proof.Machine.execQueueCreate m w s
  | .queueDestroy m w => Sys2Proof.Machine.execQueueDestroy m w s
  | .fenceAlloc m w => Sys2Proof.Machine.execFenceAlloc m w s
  | .fenceFree m w => Sys2Proof.Machine.execFenceFree m w s
  | .fenceSignal m w => Sys2Proof.Machine.execFenceSignal m w s
  | .taskLaunch m w => Sys2Proof.Machine.execTaskLaunch m w s
  | .taskAbort m w => Sys2Proof.Machine.execTaskAbort m w s
  | .imageLoad m w bytes => Sys2Proof.Machine.execImageLoad m w bytes s
  | .imageUnload m w => Sys2Proof.Machine.execImageUnload m w s
  | .qstateReset m w => Sys2Proof.Machine.execQstateReset m w s
  | .granuleAlloc m w => Sys2Proof.Machine.execGranuleAlloc m w s
  | .granuleFree m w => Sys2Proof.Machine.execGranuleFree m w s
  | .windowOpen m w => Sys2Proof.Machine.execWindowOpen m w s
  | .windowClose m w => Sys2Proof.Machine.execWindowClose m w s
  | .storeCopy m w bytes => Sys2Proof.Machine.execStoreCopy m w bytes s
  | .paceSet m w => Sys2Proof.Machine.execPaceSet m w s
  | .powerSet m w => Sys2Proof.Machine.execPowerSet m w s
  | .sbPinSet m w => Sys2Proof.Machine.execSbPinSet m w s
  | .timeSet m w => Sys2Proof.Machine.execTimeSet m w s
  | .fabricSet m w table => Sys2Proof.Machine.execFabricSet m w table s
  | .healthSet m w => Sys2Proof.Machine.execHealthSet m w s
  | .healthQuery m w => Sys2Proof.Machine.execHealthQuery m w s
  | .snapshotFreeze m w => Sys2Proof.Machine.execSnapshotFreeze m w s
  | .snapshotRelease m w => Sys2Proof.Machine.execSnapshotRelease m w s
  | .linkTest m w => Sys2Proof.Machine.execLinkTest m w s
  | .fwUpdate m w bytes => Sys2Proof.Machine.execFwUpdate m w bytes s
  | .resetRequest m w => Sys2Proof.Machine.execResetRequest m w s
  | .resetTakeEffect => Sys2Proof.Machine.execResetTakeEffect s
  | .stagedCommit => Sys2Proof.Machine.execStagedCommit s
  | .deferredNotApplied m => Sys2Proof.Machine.execDeferredNotApplied m s
  | .mbxDoorbell m tail => Sys2Proof.Machine.execMbxDoorbell m tail s
  | .mbxEnable m ctrl => Sys2Proof.Machine.execMbxEnable m ctrl s
  | .mbxDisable m ctrl => Sys2Proof.Machine.execMbxDisable m ctrl s
  | .mbxRequestFetch m => Sys2Proof.Machine.execMbxRequestFetch m s
  | .requestWord m w => Sys2Proof.Machine.execRequestWord m w s
  | .responseWriteAck m => Sys2Proof.Machine.execResponseWriteAck m s
  | .postedObserved q posted cplHead => Sys2Proof.Machine.execPostedObserved q posted cplHead s
  | .descriptorFetch q => Sys2Proof.Machine.execDescriptorFetch q s
  | .descriptorArrival q w => Sys2Proof.Machine.execDescriptorArrival q w s
  | .chainFetchTimeout q => Sys2Proof.Machine.execChainFetchTimeout q s
  | .fenceAction q => Sys2Proof.Machine.execFenceAction q s
  | .hatchStart c => Sys2Proof.Machine.execHatchStart c s
  | .hatchStop c => Sys2Proof.Machine.execHatchStop c s
  | .hatchDisable v => Sys2Proof.Machine.execHatchDisable v s
  | .hatchRequest c => Sys2Proof.Machine.execHatchRequest c s
  | .hatchBurstIssue c => Sys2Proof.Machine.execHatchBurstIssue c s
  | .hatchBurstLanded c data => Sys2Proof.Machine.execHatchBurstLanded c data s
  | .annexResult slot tag results => Sys2Proof.Machine.execAnnexResult slot tag results s
  | .streamPortTake task pipe => Sys2Proof.Machine.execStreamPortTake task pipe s
  | .streamPortAppend task pipe bytes => Sys2Proof.Machine.execStreamPortAppend task pipe bytes s
  | .keepUnitAck err data => Sys2Proof.Machine.execKeepUnitAck err data s
  | .healthRecordWrite => Sys2Proof.Machine.execHealthRecordWrite s
  | .freezeTakeEffect => Sys2Proof.Machine.execFreezeTakeEffect s
  | .snapAck => Sys2Proof.Machine.execSnapAck s
  | .snapAckTimeout => Sys2Proof.Machine.execSnapAckTimeout s
  | .freezeEnd => Sys2Proof.Machine.execFreezeEnd s
  | .frameRoute b f => Sys2Proof.Machine.execFrameRoute b f s
  | .rollStart b f => Sys2Proof.Machine.execRollStart b f s
  | .roll b f => Sys2Proof.Machine.execRoll b f s
  | .bundleChange b up => Sys2Proof.Machine.execBundleChange b up s
  | .rollCallClose => Sys2Proof.Machine.execRollCallClose s
  | .assign b f serial addr => Sys2Proof.Machine.execAssign b f serial addr s
  | .admitFrame b f serial state reason => Sys2Proof.Machine.execAdmitFrame b f serial state reason s
  | .routeUpdate b f entries => Sys2Proof.Machine.execRouteUpdate b f entries s
  | .routeEffective => Sys2Proof.Machine.execRouteEffective s
  | .drain b f => Sys2Proof.Machine.execDrain b f s
  | .inputPortSwitchTimeout b => Sys2Proof.Machine.execInputPortSwitchTimeout b s
  | .ack b f => Sys2Proof.Machine.execAck b f s
  | .messageResend dst tag => Sys2Proof.Machine.execMessageResend dst tag s
  | .fabricOfOne => Sys2Proof.Machine.execFabricOfOne s
  | .ready b f => Sys2Proof.Machine.execReady b f s
  | .launch b f => Sys2Proof.Machine.execLaunch b f s
  | .refuse b f => Sys2Proof.Machine.execRefuse b f s
  | .withdraw b f => Sys2Proof.Machine.execWithdraw b f s
  | .endFrame b f => Sys2Proof.Machine.execEndFrame b f s
  | .done b f => Sys2Proof.Machine.execDone b f s
  | .faultFrame b f room op opcode => Sys2Proof.Machine.execFaultFrame b f room op opcode s
  | .abort b f => Sys2Proof.Machine.execAbort b f s
  | .halted b f => Sys2Proof.Machine.execHalted b f s
  | .haltedTimeout task => Sys2Proof.Machine.execHaltedTimeout task s
  | .flowSlotTake task flow => Sys2Proof.Machine.execFlowSlotTake task flow s
  | .flow b f => Sys2Proof.Machine.execFlow b f s
  | .blockTransmit g p bytes => Sys2Proof.Machine.execBlockTransmit g p bytes s
  | .codewordDecode g p errors blocks => Sys2Proof.Machine.execCodewordDecode g p errors blocks s
  | .beatMark g p beat prevEnd lane => Sys2Proof.Machine.execBeatMark g p beat prevEnd lane s
  | .slotMark g p beat slot bytes => Sys2Proof.Machine.execSlotMark g p beat slot bytes s
  | .dataBlock g p bytes => Sys2Proof.Machine.execDataBlock g p bytes s
  | .nak g p beat position lane => Sys2Proof.Machine.execNak g p beat position lane s
  | .replayHead g p beat position lane blocks => Sys2Proof.Machine.execReplayHead g p beat position lane blocks s
  | .swap g p target lane => Sys2Proof.Machine.execSwap g p target lane s
  | .swapTarget g lane => Sys2Proof.Machine.execSwapTarget g lane s
  | .train g p serial peerGate peerPort rates precodeReq state echoTx echoRx => Sys2Proof.Machine.execTrain g p serial peerGate peerPort rates precodeReq state echoTx echoRx s
  | .loop g p start beats => Sys2Proof.Machine.execLoop g p start beats s
  | .laneSlotDeadline g p beat slot => Sys2Proof.Machine.execLaneSlotDeadline g p beat slot s
  | .signalDetect g p => Sys2Proof.Machine.execSignalDetect g p s
  | .adaptDone g p ok => Sys2Proof.Machine.execAdaptDone g p ok s
  | .lockTimeout g p => Sys2Proof.Machine.execLockTimeout g p s
  | .failedRetry g p => Sys2Proof.Machine.execFailedRetry g p s
  | .trainingEnd g => Sys2Proof.Machine.execTrainingEnd g s
  | .portLoss g p => Sys2Proof.Machine.execPortLoss g p s
  | .linkTestEnd g p r => Sys2Proof.Machine.execLinkTestEnd g p r s
  | .eyeMarginReport g p mv => Sys2Proof.Machine.execEyeMarginReport g p mv s
  | .announce b cls rank serial hops => Sys2Proof.Machine.execAnnounce b cls rank serial hops s
  | .announcePeriod => Sys2Proof.Machine.execAnnouncePeriod s
  | .keeperTimeout => Sys2Proof.Machine.execKeeperTimeout s
  | .stampPeriod => Sys2Proof.Machine.execStampPeriod s
  | .stamp b cls x lost => Sys2Proof.Machine.execStamp b cls x lost s
  | .timeStep => Sys2Proof.Machine.execTimeStep s
  | .holdoverEntry => Sys2Proof.Machine.execHoldoverEntry s
  | .referencePulse at' => Sys2Proof.Machine.execReferencePulse at' s
  | .refLost => Sys2Proof.Machine.execRefLost s
  | .timeNowLo tag sub frac => Sys2Proof.Machine.execTimeNowLo tag sub frac s
  | .controlInterval t => Sys2Proof.Machine.execControlInterval t s
  | .gapFillEnd room unit => Sys2Proof.Machine.execGapFillEnd room unit s
  | .barrierHoldEnd hall => Sys2Proof.Machine.execBarrierHoldEnd hall s
  | .preRampStart hall => Sys2Proof.Machine.execPreRampStart hall s
  | .heartbeat => Sys2Proof.Machine.execHeartbeat s
  | .stewardTakeover => Sys2Proof.Machine.execStewardTakeover s
  | .repair kind index => Sys2Proof.Machine.execRepair kind index s
  | .diagnosisComplete kind index found => Sys2Proof.Machine.execDiagnosisComplete kind index found s
  | .repairMappingEffect kind index => Sys2Proof.Machine.execRepairMappingEffect kind index s
  | .wearPrediction samples => Sys2Proof.Machine.execWearPrediction samples s
  | .marginRowTest bank mv => Sys2Proof.Machine.execMarginRowTest bank mv s
  | .proactiveReplacement kind index => Sys2Proof.Machine.execProactiveReplacement kind index s
  | .vauxGood => Sys2Proof.Machine.execVauxGood s
  | .railRequest => Sys2Proof.Machine.execRailRequest s
  | .railGoodRise rail => Sys2Proof.Machine.execRailGoodRise rail s
  | .railTimeout => Sys2Proof.Machine.execRailTimeout s
  | .hardPartResetRelease serial keyHash pins => Sys2Proof.Machine.execHardPartResetRelease serial keyHash pins s
  | .firmwareVerified => Sys2Proof.Machine.execFirmwareVerified s
  | .selfTestComplete units stages iFull => Sys2Proof.Machine.execSelfTestComplete units stages iFull s
  | .engineReady => Sys2Proof.Machine.execEngineReady s
  | .supplyWarn => Sys2Proof.Machine.execSupplyWarn s
  | .powerDownStart => Sys2Proof.Machine.execPowerDownStart s
  | .powerDownCancel => Sys2Proof.Machine.execPowerDownCancel s
  | .pointOfNoReturn => Sys2Proof.Machine.execPointOfNoReturn s
  | .railGoodFall rail => Sys2Proof.Machine.execRailGoodFall rail s
  | .railDropTimeout => Sys2Proof.Machine.execRailDropTimeout s
  | .railFailure rail => Sys2Proof.Machine.execRailFailure rail s
  | .shellReset => Sys2Proof.Machine.execShellReset s
  | .wake => Sys2Proof.Machine.execWake s
  | .powerDownSettle => Sys2Proof.Machine.execPowerDownSettle s
  | .hostResponse tag status data => Sys2Proof.Machine.execHostResponse tag status data s
  | .requestTimeout tag => Sys2Proof.Machine.execRequestTimeout tag s
  | .ferrDiscard => Sys2Proof.Machine.execFerrDiscard s
  | .hpTxCredit vn n => Sys2Proof.Machine.execHpTxCredit vn n s
  | .snoopInvalidate tag addr => Sys2Proof.Machine.execSnoopInvalidate tag addr s
  | .snoopShare tag addr => Sys2Proof.Machine.execSnoopShare tag addr s
  | .hostRegisterWrite tag offset width value => Sys2Proof.Machine.execHostRegisterWrite tag offset width value s
  | .intEnable tag value => Sys2Proof.Machine.execIntEnable tag value s
  | .paceEvents tag => Sys2Proof.Machine.execPaceEvents tag s
  | .storeErrCount tag hall => Sys2Proof.Machine.execStoreErrCount tag hall s
  | .fabricDrops tag => Sys2Proof.Machine.execFabricDrops tag s
  | .linkPortCounts tag g p => Sys2Proof.Machine.execLinkPortCounts tag g p s
  | .powerEvents tag => Sys2Proof.Machine.execPowerEvents tag s
  | .healthEvents tag => Sys2Proof.Machine.execHealthEvents tag s
  | .hpErrors tag => Sys2Proof.Machine.execHpErrors tag s
  | .sbStatus tag levels => Sys2Proof.Machine.execSbStatus tag levels s
  | .pinHoldEnd pin => Sys2Proof.Machine.execPinHoldEnd pin s
  | .supplyWarnLow => Sys2Proof.Machine.execSupplyWarnLow s
  | .shellResetRelease => Sys2Proof.Machine.execShellResetRelease s
  | .vauxGoodFall => Sys2Proof.Machine.execVauxGoodFall s
  | .linkNoPeer g p => Sys2Proof.Machine.execLinkNoPeer g p s
  | .holdoverBoundExceeded => Sys2Proof.Machine.execHoldoverBoundExceeded s
  | .tagRelease tag => Sys2Proof.Machine.execTagRelease tag s
  | .reservedHostMessage isReq tag => Sys2Proof.Machine.execReservedHostMessage isReq tag s
  | .replacementEnd kind index => Sys2Proof.Machine.execReplacementEnd kind index s
  | .copyRebuilt image copy => Sys2Proof.Machine.execCopyRebuilt image copy s

end Sys2Proof.Machine
end

