-- ==== Sys2Proof/Machine/Step.lean ====
section
/-!
DEFINITION. One step of the block: the command at the front of the queue takes effect (first in, first out); with no command waiting time passes
for the ops that rooms have issued (log 7, log 55).
-/
namespace Sys2Proof.Machine

/-- One step. On an empty queue every issued op that can go makes one step of its work; with none the block idles. -/
def step (s : State) : Host.Outcome State Fault Refusal :=
  match s.pending with
  | [] => .next (advanceRooms s)
  | c :: rest => exec c { s with pending := rest }

/-- The state with the command that the word spells in front of its queue: the state itself, since no word spells one. -/
def State.withFetchWord (s : State) (nbits w : Nat) : State :=
  match decodeTableWord nbits w with
  | some c => { s with pending := c :: s.pending }
  | none => s

end Sys2Proof.Machine
end

