-- ==== Sys2Proof/Machine/RegRead.lean ====
section
/-!
DEFINITION. What a host read of each register returns (20 R554 to R563), one 4-byte word at a time. A read of a register that it does not clear changes nothing but
the host port, so the opcode table gives it no row; these are the values that a host sees, and the layouts that the manual gives the state.
-/
namespace Sys2Proof.Machine

/-- A bit of a register. -/
def bitVal (b : Bool) (n : Nat) : Nat := if b then 2 ^ n else 0

/-- A half of a 64-bit value. -/
def half (hi : Bool) (v : Nat) : Nat := if hi then v / 2 ^ 32 % 2 ^ 32 else v % 2 ^ 32

/-- MBX_STATUS of mailbox m (10 R298). -/
def mbxStatusVal (s : State) (m : Nat) : Nat :=
  let b := mbox s m
  s.steward.phase * 2 ^ 28 + s.steward.healthSt * 2 ^ 26 + s.time.st * 2 ^ 24 + s.steward.fabricSt * 2 ^ 22 + bitVal s.steward.standby 21 + bitVal s.steward.up 20 +
    b.st * 2 ^ 18 + b.binding * 2 ^ 16 + b.haltCause * 2 ^ 12 + b.boundCtx

/-- A word of a mailbox page (10 R293 to R298, 20 R559). MBX_DOORBELL is write-only and reads zero (00 R15). -/
def mboxRead (s : State) (m o : Nat) : Nat :=
  let b := mbox s m
  match o with
  | 0x000 => half false b.reqBase.toNat
  | 0x004 => half true b.reqBase.toNat
  | 0x008 => half false b.rspBase.toNat
  | 0x00C => half true b.rspBase.toNat
  | 0x010 => b.sizeLog2 * 2 ^ 8 + bitVal b.notifyEn 1 + bitVal b.enable 0
  | 0x018 => b.reqHead.toNat
  | 0x01C => b.rspTail.toNat
  | 0x020 => b.rspHead.toNat
  | 0x028 => b.last.toNat
  | 0x02C => bitVal b.histValid 0
  | 0x030 => mbxStatusVal s m
  | _ => 0

/-- PACE_CTRL (02 R44). -/
def paceCtrlVal (p : Pace) : Nat := p.margin * 2 ^ 24 + p.permits * 2 ^ 8 + bitVal p.dither 1 + bitVal p.mode 0

/-- PACE_STATUS (02 R45). -/
def paceStatusVal (p : Pace) : Nat :=
  bitVal p.modeActive 19 + bitVal p.syncLate 18 + bitVal p.limitMiss 17 + bitVal p.belowFloor 16 + p.cyclePs

/-- TIME_STATUS (15 R455). -/
def timeStatusVal (s : State) : Nat :=
  keeperHops s * 2 ^ 24 + keeperClass s * 2 ^ 22 + s.time.st * 2 ^ 20 + bitVal s.time.stepped 19 + bitVal s.time.split 18 + bitVal s.time.refLost 17 +
    bitVal (timeClass s == 0) 16 + (s.time.offset % 65536).toNat

/-- TIME_CFG, 128 bits (20 R563). -/
def timeCfgVal (t : TimeUnit) : Nat :=
  t.setTime * 2 ^ 64 + t.period * 2 ^ 32 + t.refDelay * 2 ^ 16 + bitVal t.spread 3 + bitVal t.noKeeper 2 + bitVal t.setOn 1 + bitVal t.refEn 0

/-- POWER_CFG0 to POWER_CFG2 (16 R477). -/
def powerCfgVal (s : State) (n : Nat) : Nat :=
  let c := s.power.cfg
  match n with
  | 0 => bitVal s.power.mode 28 + capOf s * 2 ^ 16 + c.hallAmps * 2 ^ 7 + c.vmax
  | 1 => c.tjHot * 2 ^ 24 + c.hold * 2 ^ 16 + c.floor * 2 ^ 9 + c.rampDown
  | _ => c.rampUp * 2 ^ 22 + c.gap

/-- A hall is in a hold or ramp (16 R470, R471, R480). -/
def holding (x : HallPow) : Bool := x.ramp != .none

/-- POWER_STATUS (16 R478). -/
def powerStatusVal (s : State) : Nat :=
  let p := s.power
  let throttle := (hallNums s).foldl (fun m h => min m (hallPow s h).throttle) 16
  p.vcore * 2 ^ 24 + (throttle - 1) * 2 ^ 20 + bitVal (p.halls.any fun e => holding e.2) 19 + bitVal p.mode 18 + bitVal p.capLimited 17 + bitVal p.hallLimited 16 +
    bitVal p.thermHot 15 + bitVal p.thermCrit 14 + bitVal p.rise 13 + p.powerW

/-- POWER_RAILr (16 R480). -/
def powerRailVal (s : State) (r : Nat) : Nat :=
  let x := tabGet railPowZero s.power.rails r
  min 65535 x.amps * 2 ^ 16 + min 65535 x.watts

/-- HALL_POWERh (16 R480): zero of an absent hall. -/
def hallPowerVal (s : State) (h : Nat) : Nat :=
  let x := hallPow s h
  if h < s.params.halls then
    min 65535 x.iFull * 2 ^ 32 + (x.tj % 256).toNat * 2 ^ 24 + (x.throttle - 1) * 2 ^ 20 + bitVal (holding x) 19 + bitVal (decide ((s.power.cfg.tjHot : Int) < x.tj)) 18 + min 65535 x.amps
  else 0

/-- HEALTH_CFG (17 R505). -/
def healthCfgVal (h : Health) : Nat := bitVal h.chutePolicy 49 + h.transLimit * 2 ^ 41 + h.recordMin * 2 ^ 30 + h.eolHours

/-- HEALTH_SUMMARY (17 R506); before the hard part leaves reset its reset value, without the reserve's extent (20 R558). -/
def healthSummaryVal (s : State) : Nat :=
  minLife s * 2 ^ 48 + hallsOut s * 2 ^ 32 + roomsRetired s * 2 ^ 24 + lanesSpare s * 2 ^ 16 + (if hardUp s then reserveMib s else 0) * 2 ^ 8 + bitVal (!s.health.repairs.isEmpty) 3 +
    bitVal s.health.spareUsed 2 + bitVal s.health.transient 1 + bitVal s.health.exhausted 0

/-- SEQ_STATUS (18 R524). -/
def seqStatusVal (q : Seq) : Nat := q.pending * 2 ^ 16 + bitVal q.warn 11 + q.good * 2 ^ 8 + q.req * 2 ^ 5 + q.failCount

/-- RESET_CAUSE (18 R525). -/
def resetCauseVal (q : Seq) : Nat :=
  q.fail * 2 ^ 20 + q.rail * 2 ^ 16 + q.trigger * 2 ^ 8 + bitVal q.abandoned 3 + bitVal q.cancelled 2 + bitVal q.flushed 1 + bitVal q.cold 0

/-- SNAP_STATUS (12 R378). -/
def snapStatusVal (x : Snap) : Nat := bitVal x.noCapture 3 + bitVal x.captured 2 + bitVal x.frozen 1 + bitVal x.pend 0

/-- SB_CFGn (19 R553): zero of an absent pin. -/
def sbCfgVal (s : State) (n : Nat) : Nat :=
  match s.side.pins[n]? with
  | some p => if n < s.params.sbPins then p.mask * 2 ^ 24 + p.hold * 2 ^ 16 + p.filter * 2 ^ 8 + p.edge * 2 ^ 5 + p.park * 2 ^ 3 + p.func else 0
  | none => 0

/-- SB_STRAP (19 R553): the pins in a hold, and the levels latched. -/
def sbStrapVal (s : State) : Nat :=
  ((s.side.pins.zipIdx.filter fun e => e.1.holdUntil.isSome && decide (e.2 < s.params.sbPins)).map fun e => 2 ^ (16 + e.2)).sum + (pinLevels s s.side.strap).toNat

/-- A word of the engine block (20 R560, R562). -/
def engineRead (s : State) (off : Nat) : Nat :=
  let o := off - 0x40000
  let word (base v : Nat) : Nat := v / 2 ^ (8 * (o - base)) % 2 ^ 32
  if o = 0 then versionReg
  else if o = 4 then configClass s.params
  else if o < 0x10 then word 8 s.steward.serial.toNat
  else if o < 0x40 then half ((o - 0x10) % 8 == 4) (s.steward.keyHash.toNat / 2 ^ (320 - 64 * ((o - 0x10) / 8)) % 2 ^ 64)
  else if o = 0x100 then paceCtrlVal s.pace
  else if o = 0x104 then paceStatusVal s.pace
  else if o = 0x108 then paceEventsVal s.pace
  else if o = 0x200 then half false s.time.ticks
  else if o = 0x204 then s.time.latchHi
  else if o = 0x208 then s.time.latchFrac
  else if o = 0x20C then timeStatusVal s
  else if o < 0x220 then word 0x210 (timeCfgVal s.time)
  else if o < 0x30C then powerCfgVal s ((o - 0x300) / 4)
  else if o = 0x30C then powerStatusVal s
  else if o = 0x310 then powerEventsVal s.power
  else if o < 0x330 then powerRailVal s ((o - 0x320) / 4)
  else if o < 0x400 then half (o % 8 == 4) (hallPowerVal s ((o - 0x380) / 8))
  else if o < 0x408 then word 0x400 (healthCfgVal s.health)
  else if o < 0x410 then word 0x408 (healthSummaryVal s)
  else if o = 0x410 then healthEventsVal s.health
  else if o = 0x500 then seqStatusVal s.seq
  else if o = 0x504 then resetCauseVal s.seq
  else if o = 0x600 then snapStatusVal s.shell.snap
  else if o = 0x700 then s.steward.intStatus.toNat
  else if o = 0x704 then s.steward.intEnable.toNat
  else if o = 0x800 then s.host.timeout
  else if o = 0x804 then hpErrorsVal s.host
  else if o = 0x900 then dropsVal s.fabric.drops
  else if o < 0xA40 then sbCfgVal s ((o - 0xA00) / 4)
  else if o = 0xA40 then s.side.traceLost * 2 ^ 24 + (pinLevels s s.side.level).toNat
  else sbStrapVal s

/-- A word of a hatch channel (12 R357). -/
def hatchRead (s : State) (c o : Nat) : Nat :=
  let h := hatchOf s c
  match o with
  | 0x00 => half false h.src.toNat
  | 0x04 => half true h.src.toNat
  | 0x08 => half false h.dst.toNat
  | 0x0C => half true h.dst.toNat
  | 0x10 => h.count
  | 0x14 => h.ctx * 2 ^ 20 + h.burstLog * 2 ^ 12 + h.pace * 2 ^ 10 + bitVal h.irqEn 2 + bitVal h.stop 1 + bitVal h.start 0
  | _ => h.pending * 2 ^ 8 + h.err * 2 ^ 4 + bitVal h.reqLost 3 + bitVal h.error 2 + bitVal h.done 1 + bitVal h.busy 0

/-- STORE_ERR_LOG (08 R249). -/
def errLogVal (l : ErrLog) : Nat :=
  bitVal l.valid 50 + bitVal l.overflow 49 + bitVal l.scrub 48 + l.cls * 2 ^ 46 + l.ctx * 2 ^ 34 + l.line

/-- A word of a hall block. -/
def hallRead (s : State) (h o : Nat) : Nat :=
  if o = 0 then errCountVal (tabGet errCountZero s.store.errCount h) else half (o == 12) (errLogVal (tabGet errLogZero s.store.errLog h))

/-- LINK_PORT_STATUS (14 R435). -/
def portStatusVal (x : Port) : Nat :=
  x.st * 2 ^ 28 + x.rate * 2 ^ 26 + bitVal x.preTx 25 + bitVal x.preRx 24 + x.logical * 2 ^ 19 + x.bundle * 2 ^ 14 + min 0x3FF x.l1 * 2 ^ 4 +
    bitVal x.latExcess 3 + bitVal x.lost 2

/-- A word of a gatehouse block. -/
def gateRead (s : State) (g o : Nat) : Nat :=
  if o < 0x68 then portStatusVal (portOf s g (o / 4)) else half ((o - 0x100) % 8 == 4) (portCountsVal (portOf s g ((o - 0x100) / 8)))

/-- The word at an aligned offset of the control aperture; an offset that holds no register reads zero (19 R533). -/
def regRead (s : State) (off : Nat) : Nat :=
  if isReg s.params off = false then 0
  else if off < 0x40000 then mboxRead s (off / 0x1000) (off % 0x1000)
  else if off < 0x41000 then engineRead s off
  else if off = 0x50000 then bitVal s.shell.disable 0
  else if off < 0x50500 then hatchRead s ((off - 0x50100) / 0x20) ((off - 0x50100) % 0x20)
  else if off < 0x80000 then annexDeclOf s.params ((off - 0x51000) / 0x10) / 2 ^ (8 * ((off - 0x51000) % 0x10)) % 2 ^ 32
  else if off < 0x90000 then hallRead s ((off - 0x80000) / 0x1000) (off % 0x1000)
  else gateRead s ((off - 0xC0000) / 0x1000) (off % 0x1000)

end Sys2Proof.Machine
end

