-- ==== Sys2Proof/Safety.lean ====
section
/-!
DEFINITION. What claims may rely on: the canonical form of the store's bytes, the parts of State and what each command may change (the frame of every
row), the units that a command names, and the families of the command table.
-/
namespace Sys2Proof.Machine

/-- The bytes of a store in canonical form: addresses strictly rising, and no byte listed that equals what an unlisted address reads as (log 6). -/
def Memory.wf (m : Tab Byte) : Bool := tabWf 0 m

/-- The store's bytes are in canonical form. -/
def memWf (s : State) : Bool := Memory.wf s.store.mem

/-- The byte at a store address. -/
def storeByte (s : State) (a : Nat) : Byte := tabGet 0 s.store.mem a

/-- The engine has stopped in ENGINE_PHASE 0x7 (18 R513): no steward runs, and no reset or power-down is under way. -/
def stopped (s : State) : Prop := s.seq.step = .failed ∧ s.steward.phase = 7 ∧ s.steward.up = false ∧ s.seq.resetReq = none ∧ s.seq.pd = none

/-- g0 of every room holds zero (06 R160). -/
def scalarZero (s : State) : Prop := ∀ r, tabGet 0 (roomOf s r).g 0 = 0

/-- Every op issued in a room has its place in the order of issue before those to come (06 R192). -/
def issueOrder (s : State) : Prop := ∀ room, ∀ f ∈ (roomOf s room).inflight, f.seq < (roomOf s room).issued

/-- The requests outstanding (19 R534): at most 1,024, and no tag is held twice, by requests outstanding or by requests timed out whose tag is not free. -/
def tagsHeld (s : State) : Prop := s.host.out.length ≤ 1024 ∧ (s.host.out.map (·.tag) ++ s.host.late.map (·.1)).Nodup

/-- The address lies outside every range (address, bytes) of a list. -/
def outside (rs : List (Nat × Nat)) (a : Nat) : Prop := ∀ r ∈ rs, ¬ (r.1 ≤ a ∧ a < r.1 + r.2)

/-- The parts of State that a frame speaks of. -/
inductive Part where
  /-- The configuration. -/
  | params
  /-- The queue of waiting commands. -/
  | pending
  /-- The counter of free values. -/
  | freeCtr
  /-- The stores with their tables. -/
  | store
  /-- The rooms. -/
  | rooms
  /-- The rooms that each hall offers. -/
  | offered
  /-- The physical defects. -/
  | defects
  /-- ENGINE_PHASE. -/
  | phase
  /-- MBX_STATUS.HEALTH. -/
  | healthSt
  /-- MBX_STATUS.FABRIC. -/
  | fabricSt
  /-- Whether the steward serves, and its standby. -/
  | serving
  /-- The mailboxes, with the order of taking and the copies, closings and loads that their commands have under way. -/
  | mboxes
  /-- The staged settings. -/
  | staged
  /-- The contexts. -/
  | ctxs
  /-- The queues. -/
  | queues
  /-- The fences. -/
  | fences
  /-- The images and the next handle. -/
  | images
  /-- The tasks, the next task number and the order of eligibility. -/
  | tasks
  /-- The serial number and the key hash. -/
  | identity
  /-- INT_STATUS. -/
  | intStatus
  /-- INT_ENABLE. -/
  | intEnable
  /-- HP_CFG.TIMEOUT. -/
  | timeout
  /-- The counters of HP_ERRORS. -/
  | hostErrors
  /-- The requests outstanding, late and waiting. -/
  | requests
  /-- Messages and events waiting and sent, with the credits. -/
  | messages
  /-- The porch lines and the writes that wait for them. -/
  | porch
  /-- The sideband pins and the trace. -/
  | side
  /-- The hatch channels. -/
  | hatch
  /-- The stream ports. -/
  | ports
  /-- The keep. -/
  | keep
  /-- The snapshot. -/
  | snap
  /-- The fabric. -/
  | fabric
  /-- The links. -/
  | links
  /-- The time unit. -/
  | time
  /-- The pace. -/
  | pace
  /-- The power governor. -/
  | power
  /-- Health and spares. -/
  | health
  /-- The power sequencer. -/
  | seq
  deriving DecidableEq, Repr

/-- The part is the same in two states. -/
def Part.same (s t : State) : Part → Prop
  | .params => t.params = s.params
  | .pending => t.pending = s.pending
  | .freeCtr => t.freeCtr = s.freeCtr
  | .store => t.store = s.store
  | .rooms => t.rooms = s.rooms
  | .offered => t.offered = s.offered
  | .defects => t.defects = s.defects
  | .phase => t.steward.phase = s.steward.phase
  | .healthSt => t.steward.healthSt = s.steward.healthSt
  | .fabricSt => t.steward.fabricSt = s.steward.fabricSt
  | .serving => t.steward.standby = s.steward.standby ∧ t.steward.up = s.steward.up
  | .mboxes => t.steward.mboxes = s.steward.mboxes ∧ t.steward.taken = s.steward.taken ∧ t.steward.copies = s.steward.copies ∧ t.steward.closes = s.steward.closes ∧
      t.steward.loads = s.steward.loads
  | .staged => t.steward.staged = s.steward.staged
  | .ctxs => t.steward.ctxs = s.steward.ctxs
  | .queues => t.steward.queues = s.steward.queues
  | .fences => t.steward.fences = s.steward.fences
  | .images => t.steward.images = s.steward.images ∧ t.steward.nextImage = s.steward.nextImage
  | .tasks => t.steward.tasks = s.steward.tasks ∧ t.steward.nextTask = s.steward.nextTask ∧ t.steward.elig = s.steward.elig
  | .identity => t.steward.serial = s.steward.serial ∧ t.steward.keyHash = s.steward.keyHash
  | .intStatus => t.steward.intStatus = s.steward.intStatus
  | .intEnable => t.steward.intEnable = s.steward.intEnable
  | .timeout => t.host.timeout = s.host.timeout
  | .hostErrors => t.host.timeouts = s.host.timeouts ∧ t.host.lateRsp = s.host.lateRsp ∧ t.host.ferr = s.host.ferr
  | .requests => t.host.out = s.host.out ∧ t.host.late = s.host.late ∧ t.host.waitq = s.host.waitq
  | .messages => t.host.credit = s.host.credit ∧ t.host.txq = s.host.txq ∧ t.host.evts = s.host.evts ∧ t.host.sent = s.host.sent
  | .porch => t.host.porch = s.host.porch ∧ t.host.held = s.host.held
  | .side => t.side = s.side
  | .hatch => t.shell.hatch = s.shell.hatch ∧ t.shell.disable = s.shell.disable ∧ t.shell.turn = s.shell.turn ∧ t.shell.sentTo = s.shell.sentTo
  | .ports => t.shell.ports = s.shell.ports ∧ t.shell.flushes = s.shell.flushes
  | .keep => t.shell.keep = s.shell.keep
  | .snap => t.shell.snap = s.shell.snap
  | .fabric => t.fabric = s.fabric
  | .links => t.links = s.links
  | .time => t.time = s.time
  | .pace => t.pace = s.pace
  | .power => t.power = s.power
  | .health => t.health = s.health
  | .seq => t.seq = s.seq

/-- Every part outside `P` is the same in `t` as in `s`. -/
structure changesOnly (P : Part → Prop) (s t : State) : Prop where
  same : ∀ p, ¬ P p → p.same s t

/-- The parts that a command may change (the spec's rule of each row; a power-down or a reset may change all that the hard part holds). -/
def mayChange (c : Instr) : List Part :=
  match c with
  | .mma _ _ | .mmt _ _ | .pair _ _ _ | .lds _ _ | .flip _ _ | .chute _ _ | .ewa _ _ | .rowf _ _ | .stat _ _ | .resc _ _ | .move _ _ | .halo _ _ |
    .relay _ _ | .signal _ _ | .narrowLoadComplete _ | .opRetire _ _ | .annexResult _ _ _ => [.freeCtr, .store, .rooms, .tasks, .intStatus, .messages, .pace, .power, .health]
  | .sync _ _ | .bkt _ _ | .wait _ _ | .endOp _ _ => [.rooms, .pace]
  | .hint _ _ | .stuff _ _ => [.rooms, .pace, .power]
  | .narrowAccessService _ => [.freeCtr, .store, .rooms, .mboxes, .tasks, .intStatus, .requests, .messages, .pace, .power, .health]
  | .opFetch _ => [.store, .rooms, .intStatus, .messages, .health]
  | .syncRelease _ _ => [.rooms, .tasks, .intStatus, .messages, .fabric, .pace]
  | .waitExpired _ => [.rooms]
  | .handshakeTimeout _ _ _ => [.rooms, .healthSt, .tasks, .intStatus, .messages, .fabric, .links, .health]
  | .annexSilent _ => [.rooms, .tasks, .fabric]
  | .beatBoundary _ => [.freeCtr, .staged, .queues, .tasks, .intStatus, .requests, .messages, .porch, .side, .hatch, .ports, .fabric, .links, .time, .pace, .power, .seq]
  | .pacePermit _ _ => [.pace]
  | .cellarPortCycle _ => [.store, .mboxes, .requests, .messages, .pace]
  | .remoteAccessService _ => [.store, .rooms, .mboxes, .requests, .messages, .pace]
  | .correctedWriteBack _ => [.store]
  | .scrubRead _ _ => [.store, .healthSt, .intStatus, .messages, .health]
  | .granuleClearDone _ | .imageLoad _ _ _ => [.store, .healthSt, .mboxes, .images, .intStatus, .requests, .messages, .fabric, .health]
  | .bankRelocation _ _ | .copyRebuilt _ _ => [.store, .healthSt, .images, .intStatus, .messages, .health]
  | .taskLaunchBoundary _ | .endReport _ _ | .endFrame _ _ | .done _ _ => [.store, .rooms, .healthSt, .mboxes, .queues, .tasks, .intStatus, .requests, .messages, .ports, .fabric, .power, .health]
  | .completionRecordAck _ => [.mboxes, .queues, .fences, .tasks, .requests, .messages, .porch, .side, .seq]
  | .faultReport _ => [.rooms, .healthSt, .tasks, .intStatus, .messages, .fabric, .health]
  | .taskHalted _ => [.freeCtr, .store, .rooms, .mboxes, .queues, .tasks, .requests, .messages, .ports, .fabric, .power, .health, .seq]
  | .nop _ _ | .identify _ _ | .mbxBind _ _ | .healthQuery _ _ | .mbxRequestFetch _ | .requestWord _ _ => [.mboxes, .requests, .messages]
  | .ctxCreate _ _ => [.mboxes, .ctxs, .requests, .messages]
  | .ctxDestroy _ _ => [.freeCtr, .store, .mboxes, .ctxs, .queues, .images, .tasks, .intStatus, .requests, .messages, .porch, .hatch, .snap, .fabric]
  | .ctxDestroyComplete _ => [.store, .mboxes, .ctxs, .queues, .fences, .images, .tasks, .requests, .messages, .fabric, .power]
  | .ctxQuery _ _ => [.mboxes, .ctxs, .queues, .tasks, .requests, .messages, .porch]
  | .queueCreate _ _ | .queueDestroy _ _ => [.mboxes, .queues, .requests, .messages, .porch]
  | .fenceAlloc _ _ => [.mboxes, .fences, .requests, .messages]
  | .fenceFree _ _ => [.mboxes, .fences, .tasks, .requests, .messages]
  | .fenceSignal _ _ => [.mboxes, .fences, .tasks, .requests, .messages, .porch]
  | .taskLaunch _ _ => [.mboxes, .queues, .images, .tasks, .requests, .messages]
  | .taskAbort _ _ => [.mboxes, .queues, .tasks, .requests, .messages, .fabric]
  | .imageUnload _ _ | .granuleFree _ _ | .windowClose _ _ => [.store, .mboxes, .images, .requests, .messages]
  | .qstateReset _ _ | .granuleAlloc _ _ | .windowOpen _ _ => [.store, .mboxes, .requests, .messages]
  | .storeCopy _ _ _ => [.freeCtr, .store, .healthSt, .mboxes, .intStatus, .requests, .messages, .health]
  | .paceSet _ _ | .powerSet _ _ | .sbPinSet _ _ | .timeSet _ _ | .fabricSet _ _ _ | .healthSet _ _ => [.mboxes, .staged, .requests, .messages]
  | .snapshotFreeze _ _ | .snapshotRelease _ _ => [.mboxes, .requests, .messages, .snap]
  | .linkTest _ _ | .loop _ _ _ _ => [.freeCtr, .mboxes, .requests, .messages, .links]
  | .fwUpdate _ _ _ => [.mboxes, .requests, .messages, .keep]
  | .resetRequest _ _ => [.mboxes, .tasks, .requests, .messages, .snap, .fabric, .seq]
  | .resetTakeEffect | .hardPartResetRelease _ _ _ | .supplyWarn | .railGoodFall _ | .railDropTimeout | .railFailure _ | .shellReset | .wake |
    .vauxGoodFall => [.store, .rooms, .offered, .phase, .healthSt, .fabricSt, .serving, .mboxes, .staged, .ctxs, .queues, .fences, .images, .tasks, .identity, .intStatus, .intEnable, .timeout, .hostErrors, .requests, .messages, .porch, .side, .hatch, .ports, .keep, .snap, .fabric, .links, .time, .pace, .power, .health, .seq]
  | .stagedCommit => [.freeCtr, .mboxes, .staged, .requests, .messages, .side, .keep, .fabric, .time, .pace, .power, .health]
  | .deferredNotApplied _ => [.mboxes, .staged, .requests, .messages, .power]
  | .mbxDoorbell _ _ => [.mboxes]
  | .mbxEnable _ _ | .mbxDisable _ _ => [.mboxes, .requests]
  | .responseWriteAck _ => [.mboxes, .messages]
  | .postedObserved _ _ _ => [.queues, .tasks, .requests, .messages]
  | .descriptorFetch _ | .chainFetchTimeout _ => [.ctxs, .queues, .requests, .messages, .porch]
  | .descriptorArrival _ _ => [.ctxs, .queues, .images, .tasks, .requests, .messages, .porch]
  | .fenceAction _ => [.queues, .fences, .tasks, .requests, .messages, .porch]
  | .hatchStart _ | .hatchBurstIssue _ => [.intStatus, .messages, .hatch]
  | .hatchStop _ | .hatchRequest _ => [.hatch]
  | .hatchDisable _ => [.freeCtr, .store, .mboxes, .requests, .messages, .hatch]
  | .hatchBurstLanded _ _ => [.freeCtr, .store, .healthSt, .mboxes, .intStatus, .requests, .messages, .hatch, .health]
  | .streamPortTake _ _ | .streamPortAppend _ _ _ => [.freeCtr, .store, .healthSt, .tasks, .intStatus, .messages, .ports, .fabric, .health]
  | .keepUnitAck _ _ => [.mboxes, .requests, .messages, .keep, .health, .seq]
  | .healthRecordWrite => [.freeCtr, .keep, .health]
  | .freezeTakeEffect => [.snap]
  | .snapAck | .snapAckTimeout | .freezeEnd => [.mboxes, .intStatus, .requests, .messages, .snap]
  | .frameRoute _ _ | .rollStart _ _ | .roll _ _ | .assign _ _ _ _ | .drain _ _ | .inputPortSwitchTimeout _ | .ack _ _ | .messageResend _ _ => [.fabric]
  | .bundleChange _ _ => [.tasks, .fabric, .links]
  | .rollCallClose => [.freeCtr, .fabricSt, .queues, .tasks, .intStatus, .requests, .messages, .fabric, .time]
  | .admitFrame _ _ _ _ _ | .routeEffective | .fabricOfOne => [.fabricSt, .intStatus, .messages, .fabric, .time]
  | .routeUpdate _ _ _ => [.freeCtr, .fabricSt, .intStatus, .messages, .fabric, .time]
  | .ready _ _ | .refuse _ _ | .withdraw _ _ => [.queues, .tasks, .requests, .messages, .fabric]
  | .launch _ _ | .faultFrame _ _ _ _ _ | .abort _ _ | .halted _ _ => [.tasks, .fabric]
  | .haltedTimeout _ => [.tasks]
  | .flowSlotTake _ _ | .flow _ _ => [.freeCtr, .store, .healthSt, .tasks, .intStatus, .messages, .fabric, .health]
  | .blockTransmit _ _ _ => [.freeCtr, .fabric, .links]
  | .codewordDecode _ _ _ _ | .nak _ _ _ _ _ | .replayHead _ _ _ _ _ _ | .swap _ _ _ _ | .signalDetect _ _ | .failedRetry _ _ | .eyeMarginReport _ _ _ => [.links]
  | .beatMark _ _ _ _ _ => [.freeCtr, .links]
  | .slotMark _ _ _ _ _ | .dataBlock _ _ _ | .swapTarget _ _ | .laneSlotDeadline _ _ _ _ => [.fabric, .links]
  | .train _ _ _ _ _ _ _ _ _ _ | .lockTimeout _ _ => [.links, .health]
  | .adaptDone _ _ _ => [.freeCtr, .links, .health]
  | .trainingEnd _ => [.phase, .intStatus, .messages, .fabric, .links, .health, .seq]
  | .portLoss _ _ => [.freeCtr, .healthSt, .intStatus, .messages, .fabric, .links, .health]
  | .linkTestEnd _ _ _ | .linkNoPeer _ _ => [.mboxes, .requests, .messages, .links]
  | .announce _ _ _ _ _ | .keeperTimeout => [.intStatus, .messages, .fabric, .time]
  | .announcePeriod | .stampPeriod => [.fabric, .time]
  | .stamp _ _ _ _ | .referencePulse _ => [.freeCtr, .queues, .tasks, .intStatus, .requests, .messages, .fabric, .time]
  | .timeStep => [.freeCtr, .staged, .intStatus, .messages, .snap, .links, .time]
  | .holdoverEntry | .refLost => [.intStatus, .messages, .time]
  | .timeNowLo _ _ _ => [.messages, .time]
  | .controlInterval _ => [.freeCtr, .tasks, .intStatus, .messages, .fabric, .links, .power, .seq]
  | .gapFillEnd _ _ | .barrierHoldEnd _ | .preRampStart _ => [.power]
  | .heartbeat | .wearPrediction _ | .marginRowTest _ _ => [.health]
  | .stewardTakeover => [.freeCtr, .store, .healthSt, .serving, .mboxes, .staged, .ctxs, .queues, .images, .tasks, .intStatus, .requests, .messages, .porch, .hatch, .snap, .fabric, .links, .power, .health, .seq]
  | .repair _ _ => [.healthSt, .tasks, .intStatus, .messages, .side, .snap, .fabric, .health]
  | .diagnosisComplete _ _ _ => [.store, .rooms, .intStatus, .messages, .side, .health]
  | .repairMappingEffect _ _ => [.rooms, .offered, .healthSt, .tasks, .intStatus, .messages, .side, .health]
  | .proactiveReplacement _ _ => [.intStatus, .messages, .links, .health]
  | .vauxGood | .railRequest | .railGoodRise _ | .powerDownSettle | .supplyWarnLow | .shellResetRelease => [.seq]
  | .railTimeout => [.phase, .serving, .intStatus, .messages, .seq]
  | .firmwareVerified => [.phase, .serving, .intStatus, .messages, .keep, .fabric, .health, .seq]
  | .selfTestComplete _ _ _ => [.store, .offered, .phase, .healthSt, .fabricSt, .serving, .tasks, .intStatus, .messages, .fabric, .links, .time, .power, .health, .seq]
  | .engineReady => [.store, .phase, .intStatus, .messages, .seq]
  | .powerDownStart => [.phase, .mboxes, .staged, .tasks, .intStatus, .requests, .messages, .hatch, .fabric, .power, .seq]
  | .powerDownCancel => [.phase, .tasks, .intStatus, .messages, .seq]
  | .pointOfNoReturn => [.freeCtr, .serving, .mboxes, .tasks, .requests, .messages, .porch, .keep, .health, .seq]
  | .hostResponse _ _ _ | .requestTimeout _ => [.mboxes, .ctxs, .queues, .fences, .tasks, .hostErrors, .requests, .messages, .porch, .seq]
  | .ferrDiscard => [.hostErrors]
  | .hpTxCredit _ _ => [.messages]
  | .snoopInvalidate _ _ => [.requests, .messages, .porch]
  | .snoopShare _ _ => [.messages, .porch]
  | .hostRegisterWrite _ _ _ _ => [.freeCtr, .store, .mboxes, .intStatus, .intEnable, .timeout, .requests, .messages, .hatch, .snap, .links, .time, .pace, .power, .health, .seq]
  | .intEnable _ _ => [.intEnable, .messages]
  | .paceEvents _ => [.messages, .pace]
  | .storeErrCount _ _ => [.store, .messages]
  | .fabricDrops _ => [.messages, .fabric]
  | .linkPortCounts _ _ _ => [.messages, .links]
  | .powerEvents _ => [.messages, .power]
  | .healthEvents _ => [.messages, .health]
  | .hpErrors _ | .reservedHostMessage _ _ => [.hostErrors, .messages]
  | .sbStatus _ _ => [.messages, .side]
  | .pinHoldEnd _ => [.side]
  | .holdoverBoundExceeded => [.queues, .tasks, .intStatus, .requests, .messages, .fabric, .time]
  | .tagRelease _ => [.requests, .messages]
  | .replacementEnd _ _ => [.freeCtr, .store, .rooms, .offered, .healthSt, .intStatus, .messages, .health]

/-- The frame of a command: only what its row may change has changed. -/
def framed (c : Instr) (s t : State) : Prop := changesOnly (fun p => p ∈ mayChange c) s t

/-- The unit that a command names is one of the engine's: its configuration has it (00 R5), a mailbox is below 64 (10 R293). -/
def unitThere (s : State) (c : Instr) : Bool :=
  match c with
  | .mma room _ | .mmt room _ | .pair room _ _ | .lds room _ | .flip room _ | .chute room _ | .ewa room _ | .rowf room _ | .stat room _
  | .resc room _ | .move room _ | .halo room _ | .relay room _ | .sync room _ | .hint room _ | .stuff room _ | .bkt room _ | .wait room _
  | .signal room _ | .endOp room _ | .narrowAccessService room | .narrowLoadComplete room | .opFetch room | .opRetire room _ | .waitExpired room
  | .annexSilent room | .remoteAccessService room | .endReport _ room | .faultReport room => hasRoom s room
  | .syncRelease _ _ | .beatBoundary _ | .correctedWriteBack _ | .granuleClearDone _ | .taskLaunchBoundary _ | .completionRecordAck _ | .taskHalted _
  | .ctxDestroyComplete _ | .resetTakeEffect | .stagedCommit | .postedObserved _ _ _ | .descriptorFetch _ | .descriptorArrival _ _
  | .chainFetchTimeout _ | .fenceAction _ | .hatchDisable _ | .streamPortTake _ _ | .streamPortAppend _ _ _ | .keepUnitAck _ _ | .healthRecordWrite
  | .freezeTakeEffect | .snapAck | .snapAckTimeout | .freezeEnd | .rollStart _ _ | .roll _ _ | .rollCallClose | .assign _ _ _ _
  | .admitFrame _ _ _ _ _ | .routeUpdate _ _ _ | .routeEffective | .drain _ _ | .ack _ _ | .messageResend _ _ | .fabricOfOne | .ready _ _
  | .launch _ _ | .refuse _ _ | .withdraw _ _ | .endFrame _ _ | .done _ _ | .faultFrame _ _ _ _ _ | .abort _ _ | .halted _ _ | .haltedTimeout _
  | .flowSlotTake _ _ | .flow _ _ | .announce _ _ _ _ _ | .announcePeriod | .keeperTimeout | .stampPeriod | .stamp _ _ _ _ | .timeStep
  | .holdoverEntry | .referencePulse _ | .refLost | .timeNowLo _ _ _ | .controlInterval _ | .heartbeat | .stewardTakeover | .wearPrediction _
  | .vauxGood | .railRequest | .railTimeout | .hardPartResetRelease _ _ _ | .firmwareVerified | .selfTestComplete _ _ _ | .engineReady | .supplyWarn
  | .powerDownStart | .powerDownCancel | .pointOfNoReturn | .railDropTimeout | .shellReset | .wake | .powerDownSettle | .hostResponse _ _ _
  | .requestTimeout _ | .ferrDiscard | .hpTxCredit _ _ | .snoopInvalidate _ _ | .snoopShare _ _ | .hostRegisterWrite _ _ _ _ | .intEnable _ _
  | .paceEvents _ | .storeErrCount _ _ | .fabricDrops _ | .linkPortCounts _ _ _ | .powerEvents _ | .healthEvents _ | .hpErrors _ | .sbStatus _ _
  | .supplyWarnLow | .shellResetRelease | .vauxGoodFall | .holdoverBoundExceeded | .tagRelease _ | .reservedHostMessage _ _ | .copyRebuilt _ _ => true
  | .handshakeTimeout _ stage _ => stageBuilt s.params (unitExists s) stage
  | .pacePermit unit _ => paceThere s.params unit
  | .cellarPortCycle hall | .scrubRead hall _ | .barrierHoldEnd hall | .preRampStart hall => decide (hall < s.params.halls)
  | .bankRelocation hall bank => decide (hall < s.params.halls) && decide (bank < cellarBanks s.params.tiers)
  | .nop m _ | .identify m _ | .mbxBind m _ | .ctxCreate m _ | .ctxDestroy m _ | .ctxQuery m _ | .queueCreate m _ | .queueDestroy m _
  | .fenceAlloc m _ | .fenceFree m _ | .fenceSignal m _ | .taskLaunch m _ | .taskAbort m _ | .imageLoad m _ _ | .imageUnload m _ | .qstateReset m _
  | .granuleAlloc m _ | .granuleFree m _ | .windowOpen m _ | .windowClose m _ | .storeCopy m _ _ | .paceSet m _ | .powerSet m _ | .sbPinSet m _
  | .timeSet m _ | .fabricSet m _ _ | .healthSet m _ | .healthQuery m _ | .snapshotFreeze m _ | .snapshotRelease m _ | .linkTest m _
  | .fwUpdate m _ _ | .resetRequest m _ | .deferredNotApplied m | .mbxDoorbell m _ | .mbxEnable m _ | .mbxDisable m _ | .mbxRequestFetch m
  | .requestWord m _ | .responseWriteAck m => decide (m < 64)
  | .hatchStart c | .hatchStop c | .hatchRequest c | .hatchBurstIssue c | .hatchBurstLanded c _ => hasHatch s c
  | .annexResult slot tag _ => hasRoom s tag && decide (slot < s.params.annexSlots)
  | .frameRoute b _ | .bundleChange b _ | .inputPortSwitchTimeout b => bundleThere s b
  | .blockTransmit g p _ | .codewordDecode g p _ _ | .beatMark g p _ _ _ | .slotMark g p _ _ _ | .dataBlock g p _ | .nak g p _ _ _
  | .replayHead g p _ _ _ _ | .swap g p _ _ | .train g p _ _ _ _ _ _ _ _ | .loop g p _ _ | .laneSlotDeadline g p _ _ | .signalDetect g p
  | .adaptDone g p _ | .lockTimeout g p | .failedRetry g p | .portLoss g p | .linkTestEnd g p _ | .eyeMarginReport g p _ | .linkNoPeer g p => portThere s g p
  | .swapTarget g _ | .trainingEnd g => decide (g < s.params.gatehouses)
  | .gapFillEnd room _ => decide (room / 16 < s.params.halls)
  | .repair kind index | .diagnosisComplete kind index _ | .repairMappingEffect kind index | .proactiveReplacement kind index
  | .replacementEnd kind index => unitExists s kind index
  | .marginRowTest bank _ => unitExists s 4 bank
  | .railGoodRise rail | .railGoodFall rail | .railFailure rail => isRail rail
  | .pinHoldEnd pin => decide (pin < s.params.sbPins)

/-- The families of the command table. -/
inductive Family where
  /-- The tile ops of a room (05, 06, 07). -/
  | tileOp
  /-- Events of rooms, annexes and stream ports (06, 07, 12). -/
  | roomEvent
  /-- Beats and permits (02). -/
  | pace
  /-- Events of the stores (04, 08). -/
  | store
  /-- Events of tasks (11). -/
  | task
  /-- Requests of the host to the steward, and what ends them (10 to 20). -/
  | request
  /-- Mailboxes and queues (10, 11). -/
  | mailbox
  /-- Hatch, keep and snapshot (12). -/
  | shell
  /-- The fabric (13). -/
  | fabric
  /-- Links (14). -/
  | link
  /-- The time reference (15). -/
  | time
  /-- Power governance (16). -/
  | power
  /-- Health and spares (17). -/
  | health
  /-- Power sequencing and reset (18). -/
  | sequence
  /-- The host port, registers and sideband pins (19, 20). -/
  | host
  deriving DecidableEq, Repr

/-- The family of a command. -/
def familyOf (c : Instr) : Family :=
  match c with
  | .mma _ _ | .mmt _ _ | .pair _ _ _ | .lds _ _ | .flip _ _ | .chute _ _ | .ewa _ _ | .rowf _ _ | .stat _ _ | .resc _ _ | .move _ _ | .halo _ _
  | .relay _ _ | .sync _ _ | .hint _ _ | .stuff _ _ | .bkt _ _ | .wait _ _ | .signal _ _ | .endOp _ _ => .tileOp
  | .narrowAccessService _ | .narrowLoadComplete _ | .opFetch _ | .opRetire _ _ | .syncRelease _ _ | .waitExpired _ | .handshakeTimeout _ _ _
  | .annexSilent _ | .annexResult _ _ _ | .streamPortTake _ _ | .streamPortAppend _ _ _ => .roomEvent
  | .beatBoundary _ | .pacePermit _ _ | .paceEvents _ => .pace
  | .cellarPortCycle _ | .remoteAccessService _ | .correctedWriteBack _ | .scrubRead _ _ | .granuleClearDone _ | .bankRelocation _ _
  | .storeErrCount _ _ | .copyRebuilt _ _ => .store
  | .taskLaunchBoundary _ | .endReport _ _ | .completionRecordAck _ | .faultReport _ | .taskHalted _ => .task
  | .nop _ _ | .identify _ _ | .mbxBind _ _ | .ctxCreate _ _ | .ctxDestroy _ _ | .ctxDestroyComplete _ | .ctxQuery _ _ | .queueCreate _ _
  | .queueDestroy _ _ | .fenceAlloc _ _ | .fenceFree _ _ | .fenceSignal _ _ | .taskLaunch _ _ | .taskAbort _ _ | .imageLoad _ _ _ | .imageUnload _ _
  | .qstateReset _ _ | .granuleAlloc _ _ | .granuleFree _ _ | .windowOpen _ _ | .windowClose _ _ | .storeCopy _ _ _ | .paceSet _ _ | .powerSet _ _
  | .sbPinSet _ _ | .timeSet _ _ | .fabricSet _ _ _ | .healthSet _ _ | .healthQuery _ _ | .snapshotFreeze _ _ | .snapshotRelease _ _ | .linkTest _ _
  | .fwUpdate _ _ _ | .resetRequest _ _ | .resetTakeEffect | .stagedCommit | .deferredNotApplied _ => .request
  | .mbxDoorbell _ _ | .mbxEnable _ _ | .mbxDisable _ _ | .mbxRequestFetch _ | .requestWord _ _ | .responseWriteAck _ | .postedObserved _ _ _
  | .descriptorFetch _ | .descriptorArrival _ _ | .chainFetchTimeout _ | .fenceAction _ => .mailbox
  | .hatchStart _ | .hatchStop _ | .hatchDisable _ | .hatchRequest _ | .hatchBurstIssue _ | .hatchBurstLanded _ _ | .keepUnitAck _ _
  | .healthRecordWrite | .freezeTakeEffect | .snapAck | .snapAckTimeout | .freezeEnd => .shell
  | .frameRoute _ _ | .rollStart _ _ | .roll _ _ | .bundleChange _ _ | .rollCallClose | .assign _ _ _ _ | .admitFrame _ _ _ _ _ | .routeUpdate _ _ _
  | .routeEffective | .drain _ _ | .inputPortSwitchTimeout _ | .ack _ _ | .messageResend _ _ | .fabricOfOne | .ready _ _ | .launch _ _ | .refuse _ _
  | .withdraw _ _ | .endFrame _ _ | .done _ _ | .faultFrame _ _ _ _ _ | .abort _ _ | .halted _ _ | .haltedTimeout _ | .flowSlotTake _ _ | .flow _ _
  | .fabricDrops _ => .fabric
  | .blockTransmit _ _ _ | .codewordDecode _ _ _ _ | .beatMark _ _ _ _ _ | .slotMark _ _ _ _ _ | .dataBlock _ _ _ | .nak _ _ _ _ _
  | .replayHead _ _ _ _ _ _ | .swap _ _ _ _ | .swapTarget _ _ | .train _ _ _ _ _ _ _ _ _ _ | .loop _ _ _ _ | .laneSlotDeadline _ _ _ _
  | .signalDetect _ _ | .adaptDone _ _ _ | .lockTimeout _ _ | .failedRetry _ _ | .trainingEnd _ | .portLoss _ _ | .linkTestEnd _ _ _
  | .eyeMarginReport _ _ _ | .linkPortCounts _ _ _ | .linkNoPeer _ _ => .link
  | .announce _ _ _ _ _ | .announcePeriod | .keeperTimeout | .stampPeriod | .stamp _ _ _ _ | .timeStep | .holdoverEntry | .referencePulse _
  | .refLost | .timeNowLo _ _ _ | .holdoverBoundExceeded => .time
  | .controlInterval _ | .gapFillEnd _ _ | .barrierHoldEnd _ | .preRampStart _ | .powerEvents _ => .power
  | .heartbeat | .stewardTakeover | .repair _ _ | .diagnosisComplete _ _ _ | .repairMappingEffect _ _ | .wearPrediction _ | .marginRowTest _ _
  | .proactiveReplacement _ _ | .healthEvents _ | .replacementEnd _ _ => .health
  | .vauxGood | .railRequest | .railGoodRise _ | .railTimeout | .hardPartResetRelease _ _ _ | .firmwareVerified | .selfTestComplete _ _ _
  | .engineReady | .supplyWarn | .powerDownStart | .powerDownCancel | .pointOfNoReturn | .railGoodFall _ | .railDropTimeout | .railFailure _
  | .shellReset | .wake | .powerDownSettle | .supplyWarnLow | .shellResetRelease | .vauxGoodFall => .sequence
  | .hostResponse _ _ _ | .requestTimeout _ | .ferrDiscard | .hpTxCredit _ _ | .snoopInvalidate _ _ | .snoopShare _ _ | .hostRegisterWrite _ _ _ _
  | .intEnable _ _ | .hpErrors _ | .sbStatus _ _ | .pinHoldEnd _ | .tagRelease _ | .reservedHostMessage _ _ => .host

end Sys2Proof.Machine
end

