-- ==== Sys2Proof/Certificates/Slice0/Obligations.lean ====
section
/-!
DEFINITION. The statements for the provers. A completion statement says of a command that `exec` answers a next state (`answers`) and what holds there; its
hypotheses speak of the state and the operands alone. A guard named `…Ready` is the condition under which the manual says that the step takes place.
-/
namespace Sys2Proof.Machine

/-- The command's execution answers a next state, and `Q` holds of it. -/
def answers (c : Instr) (s : State) (Q : State → Prop) : Prop := ∃ t, exec c s = .next t ∧ Q t

/-- The mailbox executes the request word and nothing has answered it (10 R309). -/
def requested (s : State) (m : Nat) (w : MsgWord) (op : Nat) : Prop := m < 64 ∧ cmdReady s m w op = true

/-- The request is answered (10 R305, R306): the response word with this status and result is written in the ring's phase, the command no longer executes, and LAST
is its number. -/
def answered (s u : State) (m : Nat) (w : MsgWord) (status : Nat) (fs : List (Nat × Nat × Nat)) : Prop :=
  (mbox u m).rsp = some (withTrailer (rspWord w status fs) (phaseOf (mbox s m).rspTail.toNat (mbox s m).exSize) false) ∧ (mbox u m).executing = none ∧
    (mbox u m).last = BitVec.ofNat 32 (wfld w 0 4)

/-- A request of the host port is outstanding or waits for a tag (19 R534). -/
def asked (u : State) (p : Purpose) (addr : Nat) : Prop := (∃ r ∈ u.host.out, r.purpose = p ∧ r.addr = addr) ∨ ∃ x ∈ u.host.waitq, x.1 = p ∧ x.2.addr = addr

/-- The queue's context, where it was OK and is not context 0, has the fault with this code, the queue's number and its next descriptor (11 R325, R334). -/
def ctxFaulted (s u : State) (x : Queue) (code : Nat) : Prop :=
  (ctxOf s x.ctx).state = 0 → x.ctx ≠ 0 →
    (ctxOf u x.ctx).state = 1 ∧ (ctxOf u x.ctx).fault = code ∧ (ctxOf u x.ctx).faultQueue = x.id ∧ (ctxOf u x.ctx).faultAddr = x.nextDesc

/-- The request goes on executing and is answered by a later event (10 R311, R318). -/
def waits (u : State) (m : Nat) (w : MsgWord) : Prop := (mbox u m).executing = some w ∧ (mbox u m).awaits = true

/-- A frame has been delivered to this engine (13 R388). -/
def frameDelivered (s u : State) (b : Nat) (f : Frame) : Prop :=
  u.fabric.inbox = s.fabric.inbox ++ [(b, f)] ∧ u.fabric.out = s.fabric.out ∧ u.fabric.drops = s.fabric.drops

/-- A frame has been discarded, and the counts of discarded frames are these (13 R412). -/
def frameDropped (s u : State) (d : Drops) : Prop := u.fabric.inbox = s.fabric.inbox ∧ u.fabric.out = s.fabric.out ∧ u.fabric.drops = d

/-- A frame of a kind has been delivered here, and its message has not been acted on (13 R387). -/
def message (s : State) (b : Nat) (f : Frame) (kind : Nat) : Prop := inInbox s b f = true ∧ f.hdr.kind.toNat = kind ∧ msgSeen s f = false

/-- The task of the frame's image and round that this engine knows and that is not final (13 R405, R406). -/
def onTask (s : State) (f : Frame) (t : Task) : Prop := frameTask s f = some t ∧ taskOf s t.num = some t

/-- The task has this state and status. -/
def hasEnd (u : State) (n : Nat) (st : TState) (code : Nat) : Prop := ∃ v, taskOf u n = some v ∧ v.state = st ∧ v.status = code

/-- A message of the engine to the host is sent, or waits for credit (19 R530). -/
def told (u : State) (m : HostMsg) : Prop := m ∈ u.host.txq ∨ m ∈ u.host.sent

/-- A read or write of a register is answered with this status and these bytes (19 R532, R533). -/
def regAnswered (u : State) (tag status : Nat) (data : List Byte) : Prop := told u ⟨1, 0x30, tag, status, 0, 0, 0, data⟩

/-- The hard part has lost its state; the configuration, the keep and the sequencer's inputs are left (18 R508, R523). -/
def stateLost (s u : State) : Prop :=
  u.rooms = [] ∧ u.offered = [] ∧ u.store = storeReset ∧ u.fabric = fabricReset ∧ u.links = linksReset ∧ u.time = timeReset ∧ u.pace = paceReset ∧
    u.power = powerReset ∧ u.steward.tasks = [] ∧ u.steward.queues = [] ∧ u.steward.ctxs = [] ∧ u.steward.mboxes = stewardReset.mboxes ∧ u.steward.up = false ∧
    u.host.out = [] ∧ u.shell.hatch = [] ∧ u.shell.keep.mem = s.shell.keep.mem ∧ u.params = s.params

/-- The sequencer, whose requests and inputs are those of `q`, has dropped the next request from VLINK to VCORE (18 R511, R516). -/
def dropsNext (q : Seq) (s u : State) : Prop :=
  (railOn q.req 3 = true → u.seq.step = .drop 3 ∧ u.seq.req = railOff q.req 3) ∧
    (railOn q.req 3 = false → railOn q.req 2 = true → u.seq.step = .drop 2 ∧ u.seq.req = railOff q.req 2) ∧
    (railOn q.req 3 = false → railOn q.req 2 = false → u.seq.step = .settle ∧ u.seq.req = 0 ∧ u.steward.phase = 0 ∧ stateLost s u)

/-- Stores that the steward has cleared (08 R254, 18 R512): every byte reads 0, every granule is free; the relocations stand, port cycles are counted from reset
(R230), and the error registers keep what they hold (R249). -/
def clearedStore (st : Store) : Store :=
  { storeReset with ownReset := 0, relocs := st.relocs, portCycle := st.portCycle, laneNum := st.laneNum, errCount := st.errCount, errLog := st.errLog }

/-- The task is launched and halting with this status (11 R345). -/
def halts (u : State) (n code : Nat) : Prop := ∃ v, taskOf u n = some v ∧ v.state = .launched ∧ v.halting = true ∧ v.status = code

end Sys2Proof.Machine

open Sys2Proof Sys2Proof.Machine

/-- One step is one command: the front of the queue is executed on the state with the queue's rest. -/
def Obligations.StepRunsFrontCommand : Prop :=
  ∀ (s : State) (c : Instr) (rest : List Instr), step { s with pending := c :: rest } = exec c { s with pending := rest }

/-- The model's choice (log 7, log 55): with no command waiting time passes for the ops that rooms have issued; where none is issued and no room's arrival at a `sync` is
still to be noted, a step leaves the state. -/
def Obligations.StepIdlesOnEmptyQueue : Prop :=
  ∀ s : State, s.pending = [] →
    step s = .next (advanceRooms s) ∧
    ((∀ e ∈ s.rooms, (roomOf s e.1).inflight = [] ∧ ∀ op g k b, (roomOf s e.1).hold ≠ .sync op g k b none) → step s = .next s)

/-- The configuration is fixed when the block is built (00 R5); a command does not touch the queue from which it was taken. -/
def Obligations.QueueAndConfigurationStand : Prop :=
  ∀ (c : Instr) (s t : State), exec c s = .next t → t.params = s.params ∧ t.defects = s.defects ∧ t.pending = s.pending

/-- The model's choice (log 2): every command answers a next state, and one that names a unit the configuration does not have (17 R482: such units do not exist)
leaves the state as it is. -/
def Obligations.EveryCommandAnswersAndAnAbsentUnitDoesNothing : Prop :=
  ∀ (c : Instr) (s : State), ∃ t, exec c s = .next t ∧ (unitThere s c = false → t = s)

/-- What a command may change: every part of the state that the table of frames does not name for it stands (Safety lists the parts by command; each command's docstring in the syntax names its rules). -/
def Obligations.EveryCommandKeepsItsFrame : Prop := ∀ (c : Instr) (s t : State), exec c s = .next t → framed c s t

namespace Sys2Proof.Machine

/-- What the scalar slot of `w` makes of the registers `g'` (06 R170): it sees the registers `g`, as they stood when the op issued. -/
def slotInto (g g' : Tab (BitVec 32)) (w : OpWord) : Tab (BitVec 32) :=
  if slotNarrow (slotFields w) then g'
  else match slotValue g (slotFields w) with
    | some v => setG g' (slotFields w).d v
    | none => g'

/-- The narrow accesses after the scalar slot of op `n` (06 R171): a narrow load or store waits for its service. -/
def slotN (x : Room) (n : Nat) (w : OpWord) : List Narrow :=
  if slotNarrow (slotFields w) then
    x.narrow ++ [⟨x.issued, n, opcAt w, (slotFields w).sopc == 10, (slotFields w).d, slotOffset x.g (slotFields w), tabGet 0 x.g (slotFields w).d, false⟩]
  else x.narrow

/-- Op `n`, of task `t` with image `i`, stands at the head of the room's op buffer as word `w`, may issue (06 R192), and its narrow access, if it has one, meets no
fault (06 R171). -/
structure CanIssue (s : State) (room opc k : Nat) (w : OpWord) (w2 : Option OpWord) (t : Task) (i : Image) (n : Nat) : Prop where
  there : hasRoom s room = true
  ready : issueReady s room opc w w2 = true
  task  : roomTask s room = some (t, i)
  head  : ∃ q, (roomOf s room).opBuf = (n, w) :: q
  slot  : (slotFault (envOf s t i room n opc) s.store (roomOf s room).g w).1 = 0
  order : ∀ f ∈ (roomOf s room).inflight, f.seq < (roomOf s room).issued

/-- Every room outside the list stands. -/
def otherRooms (s u : State) (rs : List Nat) : Prop := ∀ r, r ∉ rs → roomOf u r = roomOf s r

/-- An op has issued: `k` words have left the op buffer, and its scalar slot has acted. -/
structure Popped (s u : State) (room k n : Nat) (w : OpWord) : Prop where
  buffer : (roomOf u room).opBuf = (roomOf s room).opBuf.drop k
  count  : (roomOf u room).issued = (roomOf s room).issued + 1
  regs   : (roomOf u room).g = slotInto (roomOf s room).g (roomOf s room).g w
  narrow : (roomOf u room).narrow = slotN (roomOf s room) n w

/-- An op has issued that concerns no other room. -/
def Issued (s u : State) (room k n : Nat) (w : OpWord) : Prop := Popped s u room k n w ∧ otherRooms s u [room]

/-- Op `n` as it stands when its units are engaged (06 R193), with `pos` of its work done. -/
def issuedOp (s : State) (room n : Nat) (w w2 : OpWord) (pos : Nat) : InFlight :=
  ⟨n, opcAt w, opUnits w w2, opAfter w w2, opGangs w w2, (roomOf s room).issued, w, w2, (roomOf s room).g, pos, opSteps w w2, [], [], [], [], [], 0, partNone⟩

/-- The state in which the op's words have left the buffer, the permits of its issue are taken (02 R41) and its units are engaged, none of its work done. -/
def issuedState (s : State) (room k n : Nat) (w w2 : OpWord) : State :=
  engage room n (roomOf s room) w w2 0 (popOps room k (takeAll (.roomCore room :: wholePace room w) s))

/-- The op is among those issued, as `f`, after all that were issued before. -/
def inFlight (s u : State) (room : Nat) (f : InFlight) : Prop := (roomOf u room).inflight = (roomOf s room).inflight ++ [f]

/-- No work has been done: the store and the room's data stand. -/
structure unworked (s u : State) (room : Nat) : Prop where
  store : u.store = s.store
  cells : (roomOf u room).cells = (roomOf s room).cells ∧ (roomOf u room).act = (roomOf s room).act
  vec   : (roomOf u room).vec = (roomOf s room).vec ∧ (roomOf u room).scale = (roomOf s room).scale ∧ (roomOf u room).wide = (roomOf s room).wide
  ports : (roomOf u room).relay = (roomOf s room).relay ∧ (roomOf u room).halos = (roomOf s room).halos ∧ (roomOf u room).annex = (roomOf s room).annex
  fault : (roomOf u room).fault = (roomOf s room).fault

/-- The results of a run stand in the state: the store, the room's cells, vector buffer, scales, lanes and wide partials, its counts and statistics. -/
structure ranInto (u : State) (room : Nat) (r : Run) : Prop where
  store  : u.store = r.st
  cells  : (roomOf u room).cells = r.cells ∧ (roomOf u room).act = r.act
  vec    : (roomOf u room).vec = r.vec ∧ (roomOf u room).scale = r.scale ∧ (roomOf u room).wide = r.wide ∧ (roomOf u room).lanes = r.lanes
  counts : (roomOf u room).counts = r.counts ∧ (roomOf u room).stats = r.stats

/-- The room's fault is this one (06 R199). -/
def roomFault (u : State) (room n opc code iter line : Nat) : Prop := (roomOf u room).fault = some ⟨code, room, n, opc, iter, faultLine code line, 0⟩

/-- The op `c` is made as a whole when it issues, as `run`; a fault of the run is a fault of the room. -/
def runsAs (c : Instr) (s : State) (room opc : Nat) (w : OpWord) (run : Env → Room → Run → Run) : Prop :=
  ∀ t i n, CanIssue s room opc 1 w none t i n → ∀ r, r = run (envOf s t i room n opc) (roomOf s room) (runOf s (roomOf s room)) →
    (r.fault = none → answers c s fun u => Issued s u room 1 n w ∧ inFlight s u room (issuedOp s room n w 0 1) ∧ ranInto u room r) ∧
    (∀ code iter line, r.fault = some (code, iter, line) → answers c s fun u => roomFault u room n opc code iter line ∧ otherRooms s u [room])

/-- The op `c` issues; its first work step, `run`, is made at once where it can go, and waits where it cannot (06 R194). A fault of the step is a fault of the room. -/
def stepsAs (c : Instr) (s : State) (room opc k : Nat) (w w2 : OpWord) (w2? : Option OpWord) (run : Env → Room → InFlight → Run → Run × InFlight) : Prop :=
  ∀ t i n, CanIssue s room opc k w w2? t i n → ∀ a f q, a = issuedState s room k n w w2 → f = issuedOp s room n w w2 0 →
    q = run (envOf s t i room n opc) (roomOf s room) f (runOf s (roomOf s room)) →
    (stepReady a room f = false → answers c s fun u => Issued s u room k n w ∧ inFlight s u room f ∧ unworked s u room) ∧
    (stepReady a room f = true → q.1.fault = none → answers c s fun u => Issued s u room k n w ∧ inFlight s u room q.2 ∧ ranInto u room q.1) ∧
    (stepReady a room f = true → ∀ code iter line, q.1.fault = some (code, iter, line) →
      answers c s fun u => roomFault u room n opc code iter line ∧ otherRooms s u [room])

end Sys2Proof.Machine

/-- The ops whose work goes on in steps, and those whose work is made as they issue (log 55). -/
def Obligations.TileRunsComplete : Prop :=
  ∀ (s : State) (room : Nat) (w w2 : OpWord),
    stepsAs (.mma room w) s room 1 1 w 0 none (fun E _ f r => matStep E (matFields w) false f r) ∧
    stepsAs (.mmt room w) s room 2 1 w 0 none (fun E _ f r => matStep E (matFields w) true f r) ∧
    stepsAs (.pair room w w2) s room 3 2 w w2 (some w2) (fun E x f r => pairStep E (matFields w) (pairFields w2) x.press [] f r) ∧
    ((ldsFields w).relay = false → stepsAs (.lds room w) s room 4 1 w 0 none (fun E _ f r => (runLds E f.regs (ldsFields w) r, { f with pos := f.pos + 1 }))) ∧
    ((∀ t i n, CanIssue s room 6 1 w none t i n → chuteSkips (envOf s t i room n 6) (chuteFields w) = false) →
      stepsAs (.chute room w) s room 6 1 w 0 none (fun E _ f r => chuteStep E (chuteFields w) f r)) ∧
    stepsAs (.ewa room w) s room 7 1 w 0 none (fun E _ f r => (ewaIter E f.regs (ewaFields w) r f.pos, { f with pos := f.pos + 1 })) ∧
    (fnUsesAnnex (rowfFields w).func = false → runsAs (.rowf room w) s room 8 w (fun E x r => runRowf E x.g x.press (rowfFields w) r)) ∧
    runsAs (.stat room w) s room 9 w (fun E x r => runStat E x.g (directFields w) r) ∧
    runsAs (.resc room w) s room 10 w (fun E x r => runResc E x.g (directFields w) r) ∧
    stepsAs (.move room w) s room 11 1 w 0 none (fun E _ f r => moveStep E (moveFields w) f r)

/-- The forms of those ops that take their data elsewhere, or do nothing: `rowf` with an annex function (07 R218), `lds` from the relay port, with a word of a tile there and without
(05 R140, 09 R263), and a `chute` that does nothing in beater mode (04 R110). -/
def Obligations.TileFormsThatWait : Prop :=
  ∀ (s : State) (room : Nat) (w : OpWord) (t : Task) (i : Image) (n : Nat) (x : Room), x = roomOf s room →
    (CanIssue s room 8 1 w none t i n → fnUsesAnnex (rowfFields w).func = true →
      ∀ q, q = rowfElems (envOf s t i room n 8) x.g (rowfFields w) (runOf s x) → q.1.fault = none →
      answers (.rowf room w) s fun u => Issued s u room 1 n w ∧ inFlight s u room (issuedOp s room n w 0 0) ∧ u.store = q.1.st ∧
        (roomOf u room).annex = some (fillCrossing (crossingUsed s room (annexSlot (rowfFields w).table)) (upBeat s) ⟨n, x.issued, annexSlot (rowfFields w).table, false, q.2, [], []⟩)) ∧
    (CanIssue s room 4 1 w none t i n → (ldsFields w).relay = true → stepReady (issuedState s room 1 n w 0) room (issuedOp s room n w 0 0) = true →
      ∀ k, relayTaking x = some k →
      answers (.lds room w) s fun u => Issued s u room 1 n w ∧ inFlight s u room (issuedOp s room n w 0 1) ∧ u.store = s.store ∧
        (roomOf u room).relay = takeTileWord x.relay ∧
        (k.taken + relayWord < k.size → (roomOf u room).cells = x.cells) ∧
        (k.size ≤ k.taken + relayWord →
          (roomOf u room).cells = loadGang x.cells x.act (ldsFields w).gang (ldsFields w).fmt (ldsPaired (ldsFields w)) k.bytes)) ∧
    (CanIssue s room 4 1 w none t i n → (ldsFields w).relay = true →
      ((∀ k ∈ x.relay, k.size ≤ k.taken) ∨ stepReady (issuedState s room 1 n w 0) room (issuedOp s room n w 0 0) = false) →
      answers (.lds room w) s fun u => Issued s u room 1 n w ∧ inFlight s u room (issuedOp s room n w 0 0) ∧ unworked s u room) ∧
    (CanIssue s room 6 1 w none t i n → chuteSkips (envOf s t i room n 6) (chuteFields w) = true →
      answers (.chute room w) s fun u => Issued s u room 1 n w ∧ (roomOf u room).inflight = x.inflight ∧ unworked s u room)

/-- The later work steps of issued ops (log 55): what one step of an op's work does to the room and the store, with the room's registers, op buffer and hold, and every other
room, as they were. -/
def Obligations.WorkStepsOfIssuedOps : Prop :=
  ∀ (s : State) (room : Nat) (f : InFlight) (t : Task) (i : Image), roomTask s room = some (t, i) →
    ∀ x E v, x = roomOf s room → E = envOf s t i room f.op f.opc → v = runStep room f s →
    (∀ q : Run × InFlight, q.1.fault = none →
      ((f.opc = 1 ∧ q = matStep E (matFields f.word) false f (runOf s x)) ∨ (f.opc = 2 ∧ q = matStep E (matFields f.word) true f (runOf s x)) ∨
        (f.opc = 3 ∧ (fnUsesAnnex (pairFields f.word2).func = false ∨ f.tiles.length ≠ (pairFields f.word2).ratio) ∧
          q = pairStep E (matFields f.word) (pairFields f.word2) x.press [] f (runOf s x)) ∨
        (f.opc = 6 ∧ q = chuteStep E (chuteFields f.word) f (runOf s x)) ∨
        (f.opc = 7 ∧ q = (ewaIter E f.regs (ewaFields f.word) (runOf s x) f.pos, { f with pos := f.pos + 1 })) ∨
        (f.opc = 11 ∧ q = moveStep E (moveFields f.word) f (runOf s x))) →
      ranInto v room q.1 ∧ (roomOf v room).inflight = x.inflight.map (fun g => if g.seq = q.2.seq then q.2 else g) ∧ (roomOf v room).g = x.g ∧
        (roomOf v room).opBuf = x.opBuf ∧ (roomOf v room).hold = x.hold ∧ (roomOf v room).fault = x.fault ∧ otherRooms s v [room]) ∧
    (f.opc = 3 → fnUsesAnnex (pairFields f.word2).func = true → f.tiles.length = (pairFields f.word2).ratio →
      (roomOf v room).annex = some (fillCrossing (crossingUsed s room (annexSlot (pairFields f.word2).table)) (upBeat s) ⟨f.op, f.seq, annexSlot (pairFields f.word2).table, true,
        pairAnnexElems E (matFields f.word) (pairFields f.word2) f (runOf s x), [], []⟩) ∧ (roomOf v room).inflight = x.inflight ∧ v.store = s.store ∧
        otherRooms s v [room]) ∧
    (f.opc = 5 → (roomOf v room).act = flipGang x.act (fld f.word 23 20) ∧ (roomOf v room).cells = x.cells ∧ v.store = s.store ∧ otherRooms s v [room])

/-- The ops that steer the room. `Issued` is said where the op leaves the rest of the op buffer and other rooms alone. -/
def Obligations.RoomControlOpsComplete : Prop :=
  ∀ (s : State) (room : Nat) (w : OpWord) (t : Task) (i : Image) (n : Nat) (x : Room) (a : State) (f : InFlight), x = roomOf s room →
    a = issuedState s room 1 n w 0 → f = issuedOp s room n w 0 0 →
    (CanIssue s room 5 1 w none t i n →
      (stepReady a room f = true → answers (.flip room w) s fun u => Issued s u room 1 n w ∧ inFlight s u room { f with pos := 1 } ∧
        (roomOf u room).act = flipGang x.act (fld w 23 20) ∧ (roomOf u room).cells = x.cells ∧ u.store = s.store) ∧
      (stepReady a room f = false → answers (.flip room w) s fun u => Issued s u room 1 n w ∧ inFlight s u room f ∧ unworked s u room)) ∧
    (CanIssue s room 14 1 w none t i n → answers (.sync room w) s fun u => Issued s u room 1 n w ∧ unworked s u room ∧ (roomOf u room).inflight = x.inflight ∧
      (roomOf u room).hold = .sync n (fld w 25 20) (fld w 63 32) (upBeat s) (if x.inflight = [] ∧ x.narrow = [] then some (upBeat s) else none)) ∧
    (CanIssue s room 15 1 w none t i n → answers (.hint room w) s fun u => Issued s u room 1 n w ∧ unworked s u room ∧ (roomOf u room).inflight = x.inflight ∧
      ∀ rec : HintRec, rec = ⟨fld w 23 20, t.ctx, fld w 31 24, fld w 51 48, upBeat s + fld w 47 32⟩ →
        (fld w 23 20 = 1 → (hallPow u (room / 16)).phase = some rec) ∧ (fld w 23 20 = 2 → (hallPow u (room / 16)).ahead = some rec) ∧
        (fld w 23 20 = 3 → (hallPow u (room / 16)).barrier = some rec)) ∧
    (CanIssue s room 16 1 w none t i n → answers (.stuff room w) s fun u => Issued s u room 1 n w ∧ inFlight s u room f ∧ unworked s u room) ∧
    (CanIssue s room 17 1 w none t i n → ∀ size target, bucketOf i.reams w (tabGet 0 x.g (fld w 23 20)).toNat = some (size, target) →
      answers (.bkt room w) s fun u => (roomOf u room).opBuf = [] ∧ (roomOf u room).fetchNext = target ∧
        (roomOf u room).g = slotInto x.g (setG x.g (fld w 35 32) (BitVec.ofNat 32 size)) w ∧ unworked s u room ∧ otherRooms s u [room]) ∧
    (CanIssue s room 18 1 w none t i n → answers (.wait room w) s fun u => Issued s u room 1 n w ∧ unworked s u room ∧ (roomOf u room).inflight = x.inflight ∧
      (fld w 47 32 ≤ tabGet 0 x.ctr (fld w 23 20) → (roomOf u room).hold = x.hold ∧
        tabGet 0 (roomOf u room).ctr (fld w 23 20) = tabGet 0 x.ctr (fld w 23 20) - fld w 47 32) ∧
      (tabGet 0 x.ctr (fld w 23 20) < fld w 47 32 → (roomOf u room).ctr = x.ctr ∧
        (roomOf u room).hold = .wait n (fld w 23 20) (fld w 47 32) (upBeat s))) ∧
    (CanIssue s room 19 1 w none t i n →
      (stepReady a room f = false → answers (.signal room w) s fun u => Issued s u room 1 n w ∧ inFlight s u room f ∧ unworked s u room) ∧
      (stepReady a room f = true → ∀ dst c, dst = fld w 31 24 → c = fld w 23 20 → tabGet 0 (roomOf s dst).ctr c ≠ 65535 →
        answers (.signal room w) s fun u => Popped s u room 1 n w ∧ (roomOf u room).inflight = x.inflight ∧ otherRooms s u [room, dst] ∧ u.store = s.store ∧
          ((roomOf s dst).hold = .none → (roomOf u dst).hold = .none ∧ tabGet 0 (roomOf u dst).ctr c = tabGet 0 (roomOf s dst).ctr c + 1) ∧
          (∀ op k b, (roomOf s dst).hold = .wait op c k b → k ≤ tabGet 0 (roomOf s dst).ctr c + 1 →
            (roomOf u dst).hold = .none ∧ tabGet 0 (roomOf u dst).ctr c = tabGet 0 (roomOf s dst).ctr c + 1 - k))) ∧
    (CanIssue s room 20 1 w none t i n → answers (.endOp room w) s fun u => Issued s u room 1 n w ∧ unworked s u room ∧ (roomOf u room).inflight = x.inflight ∧ (roomOf u room).hold = .ended)

/-- The ops that move bytes between rooms; the peer of a send is another room, and a room's successor on its chain is another room. -/
def Obligations.HaloAndRelayComplete : Prop :=
  ∀ (s : State) (room : Nat) (w : OpWord) (t : Task) (i : Image) (n : Nat) (x : Room), x = roomOf s room →
    (∀ f E landed, f = haloFields w → E = envOf s t i room n 12 →
      landed = (fun (op : Nat) (l : List InFlight) => l.map fun g => if g.op = op ∧ g.opc = 12 then { g with pos := g.total } else g) → CanIssue s room 12 1 w none t i n →
      (f.recv = true → arrivedSend x f.peer f.tag = none →
        answers (.halo room w) s fun u => Issued s u room 1 n w ∧ inFlight s u room (issuedOp s room n w 0 0) ∧ u.store = s.store ∧
          (roomOf u room).halos = x.halos ++ [⟨f.peer, f.tag, false, [], n, opAddr x.g f.lReg f.lOff 64, f.pitch, f.rows, f.rb⟩]) ∧
      (f.recv = true → ∀ a r, arrivedSend x f.peer f.tag = some a → f.peer ≠ room →
        r = haloWrite E (opAddr x.g f.lReg f.lOff 64) f.pitch f.rows f.rb a.bytes (runOf s x) → r.fault = none →
        answers (.halo room w) s fun u => Popped s u room 1 n w ∧ (roomOf u room).inflight = landed n (x.inflight ++ [issuedOp s room n w 0 0]) ∧
          otherRooms s u [room, f.peer] ∧ u.store = r.st ∧
          (roomOf u room).halos = x.halos.erase a ∧ (roomOf u f.peer).halos = (roomOf s f.peer).halos ++ [⟨room, f.tag, true, [], a.op, n, 0, 0, 0⟩]) ∧
      (f.recv = false → f.peer ≠ room → ∀ q, q = haloRead E (opAddr x.g f.lReg f.lOff 64) f (runOf s x) → q.1.fault = none →
        (waitingReceive (roomOf s f.peer) room f.tag = none →
          answers (.halo room w) s fun u => Popped s u room 1 n w ∧ inFlight s u room (issuedOp s room n w 0 1) ∧ otherRooms s u [room, f.peer] ∧ u.store = q.1.st ∧
            (roomOf u f.peer).halos = (roomOf s f.peer).halos ++ [⟨room, f.tag, true, q.2, n, 0, 0, f.rows, f.rb⟩]) ∧
        (∀ h tp ip r, waitingReceive (roomOf s f.peer) room f.tag = some h → roomTask s f.peer = some (tp, ip) →
          r = haloWrite (envOf s tp ip f.peer h.op 12) h.base h.pitch h.rows h.rb q.2 { runOf s (roomOf s f.peer) with st := q.1.st, free := q.1.free } →
          r.fault = none →
          answers (.halo room w) s fun u => Popped s u room 1 n w ∧ inFlight s u room (issuedOp s room n w 0 1) ∧ otherRooms s u [room, f.peer] ∧ u.store = r.st ∧
            (roomOf u f.peer).halos = (roomOf s f.peer).halos.erase h ∧ (roomOf u f.peer).inflight = landed h.op (roomOf s f.peer).inflight ∧
            (roomOf u room).halos = x.halos ++ [⟨f.peer, f.tag, true, [], n, h.op, 0, 0, 0⟩]))) ∧
    (∀ f a y, f = relayFields w → a = issuedState s room 1 n w 0 → y = issuedOp s room n w 0 0 → CanIssue s room 13 1 w none t i n →
      (stepReady a room y = false → answers (.relay room w) s fun u => Issued s u room 1 n w ∧ inFlight s u room y ∧ unworked s u room) ∧
      (stepReady a room y = true → chainAfter (variantOf i t) room = [] →
        (f.forward = true → ∀ k, relaySending x = some k →
          answers (.relay room w) s fun u => Issued s u room 1 n w ∧ inFlight s u room { y with pos := 1 } ∧ u.store = s.store ∧
            (roomOf u room).relay = sendTileWord x.relay) ∧
        (f.forward = false → ∀ q, q = wordToRelay (envOf s t i room n 13) x.g f 0 (runOf s x) → q.1.fault = none →
          answers (.relay room w) s fun u => Issued s u room 1 n w ∧ inFlight s u room { y with pos := 1 } ∧ u.store = q.1.st ∧ (roomOf u room).relay = x.relay)) ∧
      (stepReady a room y = true → ∀ next rest, chainAfter (variantOf i t) room = next :: rest → next ≠ room →
        (f.forward = true → ∀ k, relaySending x = some k →
          answers (.relay room w) s fun u => Popped s u room 1 n w ∧ inFlight s u room { y with pos := 1 } ∧ otherRooms s u [room, next] ∧ u.store = s.store ∧
            (roomOf u room).relay = sendTileWord x.relay ∧
            (roomOf u next).relay = relayPut (relayBytes f) rest.isEmpty ((k.bytes.drop k.sent).take relayWord) (roomOf s next).relay) ∧
        (f.forward = false → ∀ q, q = wordToRelay (envOf s t i room n 13) x.g f 0 (runOf s x) → q.1.fault = none →
          answers (.relay room w) s fun u => Popped s u room 1 n w ∧ inFlight s u room { y with pos := 1 } ∧ otherRooms s u [room, next] ∧ u.store = q.1.st ∧
            (roomOf u room).relay = x.relay ∧ (roomOf u next).relay = relayPut (relayBytes f) rest.isEmpty q.2 (roomOf s next).relay)))

/-- The first fault of a room stands in its record (06 R199); a room that may issue has none. A narrow access that faults keeps its op from acting (log 54). -/
def Obligations.TileFaultsAreRecorded : Prop :=
  ∀ (s : State) (room : Nat) (w w2 : OpWord) (t : Task) (i : Image) (n : Nat),
    (∀ c opc k w2?, (c, opc, k, w2?) ∈ ([(.mma room w, 1, 1, none), (.mmt room w, 2, 1, none), (.pair room w w2, 3, 2, some w2), (.lds room w, 4, 1, none), (.flip room w, 5, 1, none),
        (.chute room w, 6, 1, none), (.ewa room w, 7, 1, none), (.rowf room w, 8, 1, none), (.stat room w, 9, 1, none), (.resc room w, 10, 1, none), (.move room w, 11, 1, none),
        (.halo room w, 12, 1, none), (.relay room w, 13, 1, none), (.sync room w, 14, 1, none), (.hint room w, 15, 1, none), (.stuff room w, 16, 1, none),
        (.bkt room w, 17, 1, none), (.wait room w, 18, 1, none), (.signal room w, 19, 1, none), (.endOp room w, 20, 1, none)] : List (Instr × Nat × Nat × Option OpWord)) →
      hasRoom s room = true → issueReady s room opc w w2? = true → roomTask s room = some (t, i) → (∃ q, (roomOf s room).opBuf = (n, w) :: q) →
      ∀ sf, sf = slotFault (envOf s t i room n opc) s.store (roomOf s room).g w → sf.1 ≠ 0 →
      answers c s fun u => roomFault u room n opc sf.1 0 sf.2 ∧ (roomOf u room).g = (roomOf s room).g ∧ (roomOf u room).opBuf = (roomOf s room).opBuf.drop k ∧
        (roomOf u room).cells = (roomOf s room).cells ∧ (roomOf u room).inflight = (roomOf s room).inflight ∧ u.store = s.store ∧ otherRooms s u [room]) ∧
    (CanIssue s room 17 1 w none t i n → bucketOf i.reams w (tabGet 0 (roomOf s room).g (fld w 23 20)).toNat = none →
      answers (.bkt room w) s fun u => roomFault u room n 17 0x303 0 0 ∧ otherRooms s u [room]) ∧
    (CanIssue s room 19 1 w none t i n → stepReady (issuedState s room 1 n w 0) room (issuedOp s room n w 0 0) = true →
      tabGet 0 (roomOf s (fld w 31 24)).ctr (fld w 23 20) = 65535 →
      answers (.signal room w) s fun u => roomFault u room n 19 0x304 0 0 ∧ otherRooms s u [room] ∧
        tabGet 0 (roomOf u (fld w 31 24)).ctr (fld w 23 20) = 65535)


/-- What the room core does beside issuing. What an access or a retirement ends is followed by `settle`: signals go out whose earlier ops have all retired, and a `sync` finds its
earlier ops retired (06 R189, 02 R49). A narrow access is a cycle of the pantry port (02 R41), and what waited for it to land goes on (08 R242). The record of a store error that a fetch meets is the model's choice (log 88). -/
def Obligations.RoomEventsComplete : Prop :=
  ∀ (s : State) (room : Nat), hasRoom s room = true → ∀ x, x = roomOf s room →
    (∀ t i, opFetchReady s room = true → roomTask s room = some (t, i) →
      (fetchFault s x t.ctx = 0 → ∀ st line, readLines s.store false (linesOf (x.listBase + 512 * (x.fetchNext / 16)) 512) = (st, 0, line) →
        answers (.opFetch room) s fun u => u.store = st ∧ (roomOf u room).opBuf = x.opBuf ++ fetchWords s x ∧
          (roomOf u room).fetchNext = x.fetchNext + (fetchWords s x).length ∧ (roomOf u room).g = x.g ∧ otherRooms s u [room]) ∧
      (fetchFault s x t.ctx ≠ 0 →
        answers (.opFetch room) s fun u => (roomOf u room).fault = some ⟨fetchFault s x t.ctx, room, x.fetchNext, 0, 0, (x.listBase + 32 * x.fetchNext) / 64, 0⟩ ∧
          (roomOf u room).opBuf = x.opBuf ∧ u.store = s.store ∧ otherRooms s u [room])) ∧
    (s.shell.snap.frozen = false → mayCycle s (.pantryPort room) = true → ∀ pre a rest st, x.narrow = pre ++ a :: rest → (∀ b ∈ pre, b.served = true) → a.served = false →
      readLine s.store (pantryAddr room a.offset / 64) false = (st, 0) →
      answers (.narrowAccessService room) s fun u => ∃ v, u = takeCycle (.pantryPort room) (landCloses (settle room v)) ∧ (roomOf v room).g = x.g ∧ otherRooms s v [room] ∧
        (a.load = true → (roomOf v room).narrow = pre ++ { a with served := true, value := BitVec.ofNat 32 (leVal (memBytes s.store (pantryAddr room a.offset) 4)) } :: rest ∧
          ∀ b, storeByte v b = storeByte s b) ∧
        (a.load = false → (roomOf v room).narrow = pre ++ rest ∧ memBytes v.store (pantryAddr room a.offset) 4 = leBytes 4 a.value.toNat ∧
          ∀ b, outside [(pantryAddr room a.offset, 4)] b → storeByte v b = storeByte s b)) ∧
    (s.shell.snap.frozen = false → ∀ a, x.narrow.find? (·.served) = some a →
      answers (.narrowLoadComplete room) s fun u => ∃ v, u = settle room v ∧ (roomOf v room).g = setG x.g a.reg a.value ∧ (roomOf v room).narrow = x.narrow.erase a ∧
        (roomOf v room).inflight = x.inflight ∧ v.store = s.store ∧ otherRooms s v [room]) ∧
    (∀ op f a, oldestOp x op = some f → flightOf x f.seq = some f → s.shell.snap.frozen = false → a = finishOp room f s →
      (flightOf (roomOf a room) f.seq = none → answers (.opRetire room op) s fun u => u = a) ∧
      (∀ g, flightOf (roomOf a room) f.seq = some g →
        ((opEngaged g || opWaits a room g) = true → answers (.opRetire room op) s fun u => u = a) ∧
        ((opEngaged g || opWaits a room g) = false → answers (.opRetire room op) s fun u => ∃ v, u = settle room v ∧
          (roomOf v room).inflight = (roomOf a room).inflight.filter (fun h => h.seq != f.seq) ∧ (roomOf v room).g = (roomOf a room).g ∧
          (roomOf v room).opBuf = (roomOf a room).opBuf ∧ (roomOf v room).cells = (roomOf a room).cells ∧ v.store = a.store ∧ otherRooms a v [room])) ∧
      (f.opc ≠ 16 → opEngaged f = false → a = s)) ∧
    (∀ v, (∀ f rest, (roomOf v room).inflight = f :: rest → f.opc ≠ 19) → settle room v = noteArrival room v) ∧
    (∀ n group t i b, syncReady s n group = true → runningTask s n = some (t, i) → syncDue s t i group = some (b, false) →
      answers (.syncRelease n group) s fun u => (∀ r ∈ syncRooms i t group, (roomOf u r).hold = .none) ∧ otherRooms s u (syncRooms i t group) ∧ u.store = s.store)

/-- The faults that time brings to rooms, and the annexes' results. Which tasks a late release aborts where the manual is silent is the model's choice (log 92), and which halls a
failed ring or crossing cuts (log 89). A result frees the slot's crossing for further elements of the presses of the hall, in the order of their rooms (log 87). -/
def Obligations.RoomTimersComplete : Prop :=
  ∀ (s : State) (room : Nat), hasRoom s room = true → ∀ x, x = roomOf s room →
    (∀ n group t i b, syncReady s n group = true → runningTask s n = some (t, i) → syncDue s t i group = some (b, true) →
      answers (.syncRelease n group) s fun u => (∀ r ∈ syncRooms i t group, (roomOf u r).hold = .none) ∧ u.pace.syncLate = true ∧
        (usesFabric i = true → ∃ v, taskOf u n = some v ∧ v.halting = true ∧ v.status = 0x601)) ∧
    (waitExpiredReady s room = true → ∀ op opc b, waitSince x = some (op, opc, b) →
      answers (.waitExpired room) s fun u => roomFault u room op opc 0x305 0 0 ∧ u.store = s.store ∧ otherRooms s u [room]) ∧
    (∀ st ticks, stageBuilt s.params (unitExists s) st = true → handshakeReady s room st ticks = true →
      (∀ k i r, st = .unit k i → r = (unitRoom s k i).getD room → answers (.handshakeTimeout room st ticks) s fun u =>
        u.health.attribs = s.health.attribs ++ [⟨k, i, 0xD01, some r, (roomOf s r).task, none⟩] ∧ u.steward.healthSt = 2 ∧
        ((roomOf s r).task.isSome = true → (roomOf s r).fault = none → roomFault u r 0 0 0xD01 0 0) ∧ otherRooms s u [r]) ∧
      ((∀ k i, st ≠ .unit k i) → (∀ e, st ≠ .engine e) → answers (.handshakeTimeout room st ticks) s fun u =>
        (∀ h ∈ hallsCut s.params (gateTraffic s) st, h ∈ u.health.hallsOut) ∧ u.health.exhausted = true ∧
        (∀ g, st = .gateCrossing g ∨ st = .gateDie g → g ∈ u.health.gatesOut) ∧
        (x.task.isSome = true → x.fault = none → roomFault u room 0 0 0xD01 0 0) ∧ otherRooms s u [room])) ∧
    (∀ slot rs, slot < s.params.annexSlots → roomRuns s room = true → s.shell.snap.frozen = false → 1 ≤ rs.length → rs.length ≤ 64 →
      ((∀ j, x.annex = some j → j.slot ≠ slot) → answers (.annexResult slot room rs) s fun u => u = s) ∧
      (∀ j k, x.annex = some j → j.slot = slot → k = { j with results := (j.results ++ rs.map (·.toNat)).take j.sent.length } →
        ((k.toSend ≠ [] ∨ k.results.length ≠ k.sent.length) → answers (.annexResult slot room rs) s fun u => ∃ v, u = sendAllOn slot (room / 16) v ∧
          (roomOf v room).annex = some k ∧ v.store = s.store ∧ otherRooms s v [room]) ∧
        (k.toSend = [] → k.results.length = k.sent.length → ∀ t i f E ann r, roomTask s room = some (t, i) → flightOf x k.seq = some f → E = envOf s t i room f.op f.opc →
          ann = k.results.map (decodeFmt .fp32) →
          r = (if k.pairOp then blockStep E (matFields f.word) (pairFields f.word2) x.press ann f (runOf s x)
            else (rowfAnswer E f.regs (rowfFields f.word) ann (runOf s x), { f with pos := f.total })) → r.1.fault = none →
          answers (.annexResult slot room rs) s fun u => ∃ v, u = sendAllOn slot (room / 16) (settle room v) ∧ (roomOf v room).annex = none ∧
            ranInto v room r.1 ∧ otherRooms s v [room]))) ∧
    (roomRuns s room = true → ∀ j e, silentPress s room = some (j, e) →
      answers (.annexSilent room) s fun u => roomFault u room j.op (if j.pairOp then 3 else 8) 0x30B e.iter 0 ∧ otherRooms s u [room]) ∧
    (roomRuns s room = true → ∀ n p, silentPress s room = none → silentPort s room = some p → x.task = some n →
      answers (.annexSilent room) s fun u => ∃ v, taskOf u n = some v ∧ v.halting = true ∧ v.status = 0x30B)

/-- The hand-overs between an annex and a ring. The signal to the other end goes with the last access of the hand-over, when it is served. -/
def Obligations.StreamPortsComplete : Prop :=
  ∀ (s : State) (n pipe : Nat) (q : StreamPort) (p : PipeRec) (x : RingRec) (t : Task) (i : Image), portAt s n pipe = some (q, p, x, t, i) →
    ∀ room E y, room = pipeRoom p → E = portEnv s t i q pipe → y = runOf s (roomOf s room) →
    (portTakeReady s n pipe = true → ∀ r, r = ringTake E room x.desc y p.slot →
      (r.1.fault = none → answers (.streamPortTake n pipe) s fun u =>
        u.store = { r.1.st with remote := signalLast p.producer p.creditCtr r.1.st.remote } ∧
        u.shell.ports = s.shell.ports.map (fun z => if z.task = n ∧ z.pipe = pipe then
          { z with done := z.done + 1, taken := z.taken + 1, held := z.held ++ r.2, since := if z.held.isEmpty then some (upBeat s) else z.since } else z) ∧ u.rooms = s.rooms) ∧
      (∀ code iter line, r.1.fault = some (code, iter, line) → answers (.streamPortTake n pipe) s fun u => ∃ v, taskOf u n = some v ∧ v.halting = true ∧ v.status = code)) ∧
    (∀ bytes, portAppendReady s n pipe bytes = true → ∀ r, r = moveAppend E room x.desc y bytes →
      (r.fault = none → answers (.streamPortAppend n pipe bytes) s fun u =>
        u.store = { r.st with remote := signalLast p.consumer p.dataCtr r.st.remote } ∧
        u.shell.ports = s.shell.ports.map (fun z => if z.task = n ∧ z.pipe = pipe then { z with done := z.done + 1 } else z) ∧ u.rooms = s.rooms) ∧
      (∀ code iter line, r.fault = some (code, iter, line) → answers (.streamPortAppend n pipe bytes) s fun u => ∃ v, taskOf u n = some v ∧ v.halting = true ∧ v.status = code))

/-- Beats and permits. The value of CYCLE_PS for an engine pace above 65,535 ps is the model's choice (log 91). -/
def Obligations.BeatsAndPermitsComplete : Prop :=
  ∀ (s : State),
    (∀ m ps, s.time.running = true → stepDue s = false → ps = enginePace s (localPaces s.params m.rings m.rooms) → answers (.beatBoundary m) s fun u =>
      u.time.ticks = (s.time.ticks / 1024 + 1) * 1024 % 2 ^ 64 ∧ u.time.up = (s.time.up / 1024 + 1) * 1024 ∧ u.time.frac = 0 ∧
      u.pace.modeActive = s.pace.mode ∧ u.pace.cyclePs = min 65535 ps ∧ u.pace.units = [] ∧ u.pace.issuedLast = closeIssued s ∧
      u.pace.belowFloor = (s.pace.belowFloor || decide (1400 < ps)) ∧ u.pace.limitMiss = (s.pace.limitMiss || limitMissed s) ∧
      u.rooms = s.rooms ∧ u.store = s.store) ∧
    (∀ unit use x, paceThere s.params unit = true → paced s (paceHall unit) = true → x = tabGet permitsZero s.pace.units (paceKey unit) →
      (use ≠ .banked → x.issued < allowance s (paceHall unit)) → (use = .banked → 0 < x.banked) →
      answers (.pacePermit unit use) s fun u => (∀ y, y = tabGet permitsZero u.pace.units (paceKey unit) →
          (use = .spend → y = { x with issued := x.issued + 1, begun := x.begun + 1 }) ∧ (use = .noWork → y = { x with issued := x.issued + 1 }) ∧
          (use = .notReady → x.banked < 16 → y = { x with issued := x.issued + 1, banked := x.banked + 1 }) ∧
          (use = .notReady → 16 ≤ x.banked → y = { x with issued := x.issued + 1, lost := x.lost + 1 }) ∧
          (use = .banked → y = { x with banked := x.banked - 1, begun := x.begun + 1 })) ∧
        ∀ k, k ≠ paceKey unit → tabGet permitsZero u.pace.units k = tabGet permitsZero s.pace.units k)

/-- The stores' own events. -/
def Obligations.StorePortEventsComplete : Prop :=
  ∀ (s : State),
    (∀ hall, hall < s.params.halls → hardUp s = true → mayCycle s (.cellarPort hall) = true →
      ∀ t served st, t = tabGet 0 s.store.portCycle hall → served = (if s.shell.snap.frozen then [] else cycleServed s hall t) →
      st = deliverUnits hall (serveUnits served { s.store with portCycle := tabPut 0 s.store.portCycle hall (t + 1) }) →
      answers (.cellarPortCycle hall) s fun u => u.store.portCycle = tabPut 0 s.store.portCycle hall (t + 1) ∧ u.store.lanes = st.lanes ∧ u.store.mem = st.mem ∧
        (∀ b, outside (served.filterMap fun x => x.write.map fun w => (w.addr, w.bytes.length)) b → storeByte u b = storeByte s b) ∧
        (∀ x, x ∈ u.store.lanes → x.hall ≠ hall → x ∈ s.store.lanes) ∧ u.rooms = s.rooms ∧
        (paced s hall = false → u.pace = s.pace) ∧
        (paced s hall = true → ∀ k, k = paceKey (.cellarPort hall) →
          (tabGet permitsZero u.pace.units k).begun = (tabGet permitsZero s.pace.units k).begun - 1)) ∧
    (∀ room r, hasRoom s room = true → s.shell.snap.frozen = false → mayCycle s (.pantryPort room) = true → oldestRemote s room = some r →
      answers (.remoteAccessService room) s fun u => u.store.remote = s.store.remote.erase r ∧ u.store.lanes = s.store.lanes ∧
        (r.write = none → ∀ b, storeByte u b = storeByte s b) ∧
        (∀ w, r.write = some w → memBytes u.store w.addr w.bytes.length = w.bytes ∧ ∀ b, outside [(w.addr, w.bytes.length)] b → storeByte u b = storeByte s b) ∧
        (r.sig = none → u.rooms = s.rooms) ∧
        (∀ peer c, r.sig = some (peer, c) → otherRooms s u [peer] ∧
          ((roomOf s peer).hold = .none → tabGet 0 (roomOf u peer).ctr c = tabGet 0 (roomOf s peer).ctr c + 1))) ∧
    (∀ line, line ∈ s.store.wbacks → answers (.correctedWriteBack line) s fun u =>
      line ∉ u.store.wbacks ∧ u.store.mem = s.store.mem ∧ (∀ k, k ≠ line → lineCond u.store k = lineCond s.store k) ∧
      lineCond u.store line = (if lineCond s.store line = .correctable then .good else lineCond s.store line)) ∧
    (∀ hall line, hall < s.params.halls → scrubReady s hall line = true → answers (.scrubRead hall line) s fun u =>
      tabGet 0 u.store.scrubPos hall = line + 1 ∧ u.store.mem = s.store.mem ∧ u.steward.tasks = s.steward.tasks ∧
      (∀ k, k ≠ line → lineCond u.store k = lineCond s.store k) ∧
      ∀ h, h = saHall (line * 64) →
      (lineCond s.store line = .correctable → line ∈ u.store.wbacks ∧
        (tabGet errCountZero u.store.errCount h).corrected = satInc 65535 (tabGet errCountZero s.store.errCount h).corrected) ∧
      (lineCond s.store line = .uncorrectable → lineCond u.store line = .poisoned ∧ (tabGet errLogZero u.store.errLog h).valid = true ∧
        (tabGet errCountZero u.store.errCount h).uncorrectable = satInc 255 (tabGet errCountZero s.store.errCount h).uncorrectable) ∧
      (lineCond s.store line = .poisoned → lineCond u.store line = .poisoned ∧
        (tabGet errCountZero u.store.errCount h).poisonHits = satInc 255 (tabGet errCountZero s.store.errCount h).poisonHits))

/-- Clearing, relocation and copies. What waits for a granule's clearing is tried after it; which bank of the reserve a relocated one takes, and the interleave that numbers the
banks, are the model's choice (log 34). -/
def Obligations.ClearingAndRelocationComplete : Prop :=
  ∀ (s : State),
    (∀ addr g, g = addr / 65536 → g ∈ s.store.clearing → landsIn s g = false → answers (.granuleClearDone addr) s fun u => ∃ v,
      u = retryWaiting (byOrder s.steward.mboxes) v ∧ ((∀ e ∈ s.steward.mboxes, e.2.awaits = false) → u = v) ∧
      g ∉ v.store.clearing ∧ (∀ a, g * 65536 ≤ a → a < (g + 1) * 65536 → storeByte v a = 0 ∧ lineCond v.store (a / 64) = .good) ∧
      (∀ a, ¬ (g * 65536 ≤ a ∧ a < (g + 1) * 65536) → storeByte v a = storeByte s a ∧ lineCond v.store (a / 64) = lineCond s.store (a / 64)) ∧
      tabGet v.store.ownReset v.store.own g = 0 ∧ (∀ k, k ≠ g → tabGet v.store.ownReset v.store.own k = tabGet s.store.ownReset s.store.own k)) ∧
    (∀ hall bank, hall < s.params.halls → bank < cellarBanks s.params.tiers → relocationReady s hall bank = true →
      ∀ idx b, idx = bankUnit s.params.tiers hall bank → b = heldBank s hall bank →
      answers (.bankRelocation hall bank) s fun u => u.store.mem = s.store.mem ∧ u.health.replaceQ = s.health.replaceQ.erase (4, idx) ∧ (unitOf u 4 idx).service = 3 ∧
        (bankHolds s hall bank = false → u.store = s.store) ∧
        (bankHolds s hall bank = true → ∀ o, relocPlace s hall bank = some o → u.store.relocs = putReloc hall b o s.store.relocs ∧ u.health.spareUsed = true) ∧
        (bankHolds s hall bank = true → relocPlace s hall bank = none → u.store.relocs = s.store.relocs ∧ u.health.exhausted = true ∧ u.steward.healthSt = 2 ∧
          ∀ k, k < 16384 → lineCond u.store (cellarAddr hall (b * 2 ^ 20) / 64 + k) = .poisoned)) ∧
    (∀ image copy i c o, lostCopy s image copy = some (i, c) → rebuildPlace s c = some o → answers (.copyRebuilt image copy) s fun u =>
      (∀ b, b < cellarAddr (saHall c.base) o → storeByte u b = storeByte s b) ∧
      (∀ k a, freeWindow s = some k → a = cellarAddr (saHall c.base) o →
        tabGet windowZero u.store.windows k = ⟨false, true, false, false, true, i.ctx, 0, a + c.size + up64 (2 * c.nScales), a⟩) ∧
      ∀ j ∈ u.steward.images, j.handle = image → ∀ y ∈ j.copies, y.copy = copy → y.present = true ∧ y.base = cellarAddr (saHall c.base) o)

/-- Tasks from launch to record. A member whose part of the image has no room has ended as it launches. That a member which misses the leader's launch beat faults with LAUNCH_LATE and no room is the model's choice (log 60), as is the boundary
from which a completed task's record is written (log 94). -/
def Obligations.TasksLaunchAndEnd : Prop :=
  ∀ (s : State) (n : Nat) (t : Task) (i : Image), taskOf s n = some t → imageOf s t = some i →
    (launchReady s n = true → missesLaunch s t = false → launchRefusal s t i = 0 → ∀ V st, V = variantBy i (pickVariant s i).2 →
      st = setRings true V (argBufs V t.args (putModes (launchModes s V) s.store)) → (readLines st false (launchLines st V)).2.1 = 0 →
      ∀ bad, bad = launchScaleBad ((pointBlocks V).map (readPoint st)) →
      (bad = false → V.rooms ≠ [] → answers (.taskLaunchBoundary n) s fun u =>
        (∃ v, taskOf u n = some v ∧ v.state = .launched ∧ v.launch = some (beatOf s) ∧ v.launchUp = upBeat s ∧ v.rooms = V.rooms.map (·.room) ∧
          v.v15 = (pickVariant s i).2 ∧ v.ended = [] ∧ v.wrote = []) ∧
        (∀ r ∈ V.rooms, (roomOf u r.room).task = some t.num ∧ (roomOf u r.room).g = launchRegs t r.room ∧ (roomOf u r.room).ctr = [] ∧
          (roomOf u r.room).inflight = [] ∧ (roomOf u r.room).hold = .none ∧ (roomOf u r.room).fault = none) ∧
        ∀ k, k ∉ V.rooms.map (·.room) → roomOf u k = roomOf s k) ∧
      (bad = false → V.rooms = [] → t.members ≠ [] → t.member ≠ 0 → t.halting = false → answers (.taskLaunchBoundary n) s fun u =>
        ∃ v, taskOf u n = some v ∧ v.state = .launched ∧ ∀ m ∈ v.members, m.member = t.member → m.ended = true) ∧
      (bad = true → t.halting = false → answers (.taskLaunchBoundary n) s fun u => halts u n 0x308)) ∧
    (launchReady s n = true → missesLaunch s t = true → t.halting = false → answers (.taskLaunchBoundary n) s fun u => halts u n 0x0904 ∧ u.rooms = s.rooms ∧ u.store = s.store) ∧
    (launchReady s n = true → missesLaunch s t = false → launchRefusal s t i ≠ 0 → answers (.taskLaunchBoundary n) s fun u =>
      u.rooms = s.rooms ∧ u.store = s.store ∧ (t.members = [] → hasEnd u n .refused (launchRefusal s t i)) ∧ (t.members ≠ [] → t.halting = false → halts u n (launchRefusal s t i))) ∧
    (∀ room, hasRoom s room = true → endReady s n room = true →
      answers (.endReport n room) s fun u =>
        ((∃ r ∈ t.rooms, r ∉ t.ended ++ [room]) → (∃ v, taskOf u n = some v ∧ v.state = .launched ∧ v.ended = t.ended ++ [room]) ∧ u.rooms = s.rooms ∧ u.store = s.store) ∧
        ((∀ r ∈ t.rooms, r ∈ t.ended ++ [room]) → t.members = [] → (∃ v, taskOf u n = some v ∧ v.state = .completed ∧ v.status = 0 ∧ v.endBeat = upBeat s ∧ v.record = .toWrite) ∧
          ∀ r ∈ t.rooms, (roomOf u r).task = none)) ∧
    (recordAckReady s n = true → (∀ x, queueOf s t.queue = some x → x.closing = none) → answers (.completionRecordAck n) s fun u =>
      (∃ v, taskOf u n = some v ∧ v.record = .written) ∧
      (∀ x, queueOf s t.queue = some x → ∃ y, queueOf u t.queue = some y ∧ y.cplTail = (x.cplTail + 1) % 2 ^ 32) ∧
      (∀ f, t.state = .completed → t.sigFence = some f → (fenceOf s f).ctx ≠ none → (fenceOf u f).signalled = true))

/-- Tasks that stop. -/
def Obligations.TasksFaultAndHalt : Prop :=
  ∀ (s : State),
    (∀ room f, hasRoom s room = true → faultReady s room = true → (roomOf s room).fault = some f →
      answers (.faultReport room) s fun u => (roomOf u room).reported = true ∧ (roomOf u room).fault = some f ∧ u.store = s.store ∧
        (∀ k i, faultUnit s room f = some (k, i) → ⟨k, i, f.code, some room, (roomOf s room).task, (roomOf s room).mismatch⟩ ∈ u.health.attribs) ∧
        ∀ n t, (roomOf s room).task = some n → taskOf s n = some t → t.state = .launched → t.halting = false →
          ∃ v, taskOf u n = some v ∧ v.halting = true ∧ v.status = f.code) ∧
    (∀ n t, taskOf s n = some t → haltedReady s n = true →
      answers (.taskHalted n) s fun u => (∀ r ∈ t.rooms, (roomOf u r).task = none) ∧
        (∀ b, outside t.wrote b → storeByte u b = storeByte s b) ∧
        (requeueable s t = false → ∃ v, taskOf u n = some v ∧ v.state = .aborted ∧ v.status = t.status ∧ v.endBeat = upBeat s) ∧
        (requeueable s t = true → repairNames s n = false →
          ∃ v, taskOf u n = some v ∧ v.requeues = t.requeues + 1 ∧ v.rooms = [] ∧ v.halting = false ∧ v.restarted = true)) ∧
    (∀ c, destroyReady s c = true → (ctxOf s c).freed = false → answers (.ctxDestroyComplete c) s fun u =>
      (ctxOf u c).state = 2 ∧ (ctxOf u c).freed = true ∧ (∀ q ∈ u.steward.queues, q.ctx ≠ c) ∧ (∀ x ∈ u.steward.tasks, x.ctx ≠ c) ∧
      (∀ i ∈ u.steward.images, i.ctx ≠ c) ∧ ∀ g ∈ ctxGranules s.store c, g ∈ u.store.clearing) ∧
    (∀ c, destroyReady s c = true → (ctxOf s c).freed = true → answers (.ctxDestroyComplete c) s fun u => (ctxOf u c).state = 3 ∧
      ∀ m, (mbox s m).binding = 1 → (mbox s m).boundCtx = c → (mbox u m).binding = 0)

/-- Requests that ask, and the binding of mailboxes. -/
def Obligations.StewardQueriesComplete : Prop :=
  ∀ (s : State) (m : Nat) (w : MsgWord),
    (requested s m w 0x01 → answers (.nop m w) s fun u => answered s u m w 0 []) ∧
    (requested s m w 0x02 → answers (.identify m w) s fun u => answered s u m w 0 (identity s)) ∧
    (requested s m w 0x03 → ∀ k mode c, k = wfld w 0x0C 1 → mode = wfld w 0x0D 1 → c = wfld w 0x0E 2 → (mode = 1 → c ≠ 0 ∧ (ctxOf s c).state < 2) →
      answers (.mbxBind m w) s fun u => answered s u m w 0 [] ∧ (mbox u k).binding = mode ∧ (mbox u k).boundCtx = if mode = 1 then c else 0) ∧
    (requested s m w 0x12 → ∀ c, c = wfld w 8 2 → (ctxOf s c).state ≠ 2 →
      answers (.ctxQuery m w) s fun u => answered s u m w 0 (ctxReport s c) ∧
        (wfld w 0x0C 1 = 1 → (ctxOf s c).state = 1 → (ctxOf u c).state = 0 ∧ (ctxOf u c).fault = 0 ∧ (ctxOf u c).faultQueue = 0xFFFF)) ∧
    (requested s m w 0x36 → ∀ k i, k = wfld w 0x0C 1 → i = wfld w 0x0E 2 →
      answers (.healthQuery m w) s fun u => (k = 0 ∧ i = 0 → answered s u m w 0 (summary s)) ∧
        (¬ (k = 0 ∧ i = 0) → unitExists s k i = true → answered s u m w 0 (unitReport s k i)))

/-- Contexts and queues. -/
def Obligations.ContextsAndQueuesComplete : Prop :=
  ∀ (s : State) (m : Nat) (w : MsgWord),
    (requested s m w 0x10 → ∀ c, (if wfld w 0x0C 2 = 0xFFFF then deadCtx s else some (wfld w 0x0C 2)) = some c → (ctxOf s c).state = 3 →
      apertureOk (wfld w 0x10 8) (wfld w 0x18 8) = true →
      answers (.ctxCreate m w) s fun u => answered s u m w 0 [(8, 2, c)] ∧ (ctxOf u c).state = 0 ∧ (ctxOf u c).apBase = wfld w 0x10 8 ∧
        (ctxOf u c).apLimit = wfld w 0x18 8 ∧ ∀ k, k ≠ c → ctxOf u k = ctxOf s k) ∧
    (requested s m w 0x11 → ∀ c, c = wfld w 0x0C 2 → c ≠ 0 → (ctxOf s c).state < 2 →
      answers (.ctxDestroy m w) s fun u => (ctxOf u c).state = 2 ∧ (ctxOf u c).destroyer = some m ∧ (∀ q ∈ u.steward.queues, q.ctx = c → q.state = 2 ∧ q.fetching = none) ∧
        ∀ n t, taskOf s n = some t → t.ctx = c →
          (t.state = .queued ∨ t.state = .eligible → t.members ≠ [] → hasEnd u n .aborted 0x0211) ∧
          (t.state = .launched → t.halting = false → (∀ y ∈ s.steward.tasks, y.num = n → y = t) → halts u n 0x0211)) ∧
    (requested s m w 0x13 → ∀ c id, c = wfld w 8 2 → ctxRefusal s c = none → queueInAperture s c w = true → c ≠ 0 →
      (s.steward.queues.filter fun q => q.ctx == c).length < 8 → freeQueue s = some id →
      answers (.queueCreate m w) s fun u => queueOf u id = some (newQueue id c w) ∧
        (∀ l, porchLine s.host (wfld w 0x14 8) = some l → l.modified = true → s.host.held = [] → answered s u m w 0 [(8, 2, id)]) ∧
        (porchLine s.host (wfld w 0x14 8) = none → waits u m w)) ∧
    (requested s m w 0x14 → ∀ c q x, c = wfld w 8 2 → q = wfld w 0x0C 2 → ctxRefusal s c = none → queueOf s q = some x → x.ctx = c → x.closing = none →
      (∀ t ∈ s.steward.tasks, t.queue = q → t.ctx = c → isFinal t = true) →
      answers (.queueDestroy m w) s fun u => (∀ k, k ≠ q → queueOf u k = queueOf s k) ∧
        (queueSettled s q = true → answered s u m w 0 [] ∧ queueOf u q = none) ∧
        (queueSettled s q = false → waits u m w ∧ ∃ y, queueOf u q = some y ∧ y.closing = some m ∧ y.fetching = none))

/-- Fences and launches. -/
def Obligations.FencesAndLaunchesComplete : Prop :=
  ∀ (s : State) (m : Nat) (w : MsgWord) (c : Nat), c = wfld w 8 2 → 
    (requested s m w 0x15 → ∀ f, ctxRefusal s c = none → (wfld w 0x0C 8 ≠ 0 → inAperture s c (wfld w 0x0C 8) 64 = true) → c ≠ 0 → freeFence s = some f →
      answers (.fenceAlloc m w) s fun u => answered s u m w 0 [(8, 2, f)] ∧ fenceOf u f = ⟨some c, wfld w 0x14 1 == 1, wfld w 0x0C 8, 0⟩ ∧
        ∀ k, k ≠ f → fenceOf u k = fenceOf s k) ∧
    (∀ f, f = wfld w 0x0C 2 → ctxRefusal s c = none → fenceMine s c f = true →
      (requested s m w 0x16 → fenceNamed s c f = false →
        answers (.fenceFree m w) s fun u => answered s u m w 0 [] ∧ fenceOf u f = fenceZero ∧ ∀ k, k ≠ f → fenceOf u k = fenceOf s k) ∧
      (requested s m w 0x17 → ∀ on, on = (wfld w 0x0E 1 == 0) →
        answers (.fenceSignal m w) s fun u => answered s u m w 0 [] ∧ (fenceOf u f).signalled = on ∧ (fenceOf u f).ctx = some c ∧
          (fenceOf u f).gen = (if on = true ∧ (fenceOf s f).signalled = false then ((fenceOf s f).gen + 1) % 2 ^ 32 else (fenceOf s f).gen) ∧
          ∀ k, k ≠ f → fenceOf u k = fenceOf s k)) ∧
    (requested s m w 0x18 → acceptRefusal s c w = none → ∀ n, n = s.steward.nextTask →
      answers (.taskLaunch m w) s fun u => answered s u m w 0 [(8, 4, n)] ∧ u.steward.nextTask = n + 1 ∧
        ∃ v ∈ u.steward.tasks, v.num = n ∧ v.ctx = c ∧ v.image = wfld w 0x0C 4 ∧ v.queue = wfld w 0x10 2 ∧
          v.args = (List.range 8).map fun k => BitVec.ofNat 32 (wfld w (0x1C + 4 * k) 4)) ∧
    (requested s m w 0x19 → ctxRefusal s c = none → ∀ n t, n = wfld w 0x0C 4 → taskOf s n = some t → t.ctx = c →
      answers (.taskAbort m w) s fun u =>
        (t.state = .queued ∨ t.state = .eligible → answered s u m w 0 [(8, 2, 0x0211)] ∧ ∃ v, taskOf u n = some v ∧ v.state = .aborted ∧ v.status = 0x0211) ∧
        (t.state = .launched → t.members = [] → waits u m w ∧ (∃ v, taskOf u n = some v ∧ v.halting = true ∧ m ∈ v.abortBy ∧ (t.halting = false → v.status = 0x0211))) ∧
        (isFinal t = true → answered s u m w 0x0210 [(8, 2, t.status)] ∧ ∃ v, taskOf u n = some v ∧ v.state = t.state ∧ v.status = t.status ∧
          (t.record = .toWrite → v.abortAfter = true)))

/-- Images. An unload is answered when what its windows and granules had admitted has landed (09 R284, R289, 08 R242). -/
def Obligations.ImageRequestsComplete : Prop :=
  ∀ (s : State) (m : Nat) (w : MsgWord) (c : Nat), c = wfld w 8 2 → ctxRefusal s c = none →
    (requested s m w 0x20 → ∀ raw bs, bs = raw.take (wfld w 0x14 8) → inAperture s c (wfld w 0x0C 8) (wfld w 0x14 8) = true →
      (∀ plan, loadPlan s c bs (wfld w 0x14 8) = .inr plan →
        (loadWaits s bs = false → answers (.imageLoad m w (some raw)) s fun u => answered s u m w 0 [(8, 4, s.steward.nextImage)] ∧
          u.steward.nextImage = s.steward.nextImage + 1 ∧ ∃ i, u.steward.images = s.steward.images ++ [i] ∧ i.handle = s.steward.nextImage ∧ i.ctx = c ∧
            i.imageId = pfld bs 0x30 8 ∧ i.launches = 0) ∧
        (loadWaits s bs = true → answers (.imageLoad m w (some raw)) s fun u => waits u m w ∧ u.steward.images = s.steward.images ∧ u.store.mem = s.store.mem)) ∧
      (∀ r, loadPlan s c bs (wfld w 0x14 8) = .inl r → answers (.imageLoad m w (some raw)) s fun u =>
        answered s u m w r.code [(0x0C, 1, r.sec), (0x0D, 1, r.variant), (0x10, 4, r.record), (0x14, 2, r.room), (0x16, 2, r.op)] ∧
        u.steward.images = s.steward.images ∧ u.store.mem = s.store.mem)) ∧
    (requested s m w 0x21 → ∀ i, imageIn s c (wfld w 0x0C 4) = some i → imageBusy s i = false →
      ∀ ws k, ws = (s.store.windows.filter fun e => (imageWindows i).contains e.1) → k = inFlightOn s m (some i) (imageGranules i)
        (((imageGranules i).map fun g => (g * 65536, 65536)) ++ ws.map fun e => (e.2.base, e.2.limit - e.2.base)) [] → (∀ x ∈ s.steward.closes, x.mbox ≠ m) →
      answers (.imageUnload m w) s fun u => (∀ j ∈ u.steward.images, j.handle ≠ i.handle) ∧ (∀ e ∈ u.store.windows, e.1 ∉ imageWindows i) ∧ u.store.mem = s.store.mem ∧
        (stillFlies s k = false → answered s u m w 0 [] ∧ ∀ g ∈ i.granules, g ∈ u.store.clearing) ∧ (stillFlies s k = true → waits u m w)) ∧
    (requested s m w 0x22 → ∀ i p bl, imageIn s c (wfld w 0x0C 4) = some i → p = wfld w 0x10 2 → bl = i.blocks.filter (fun b => p == 0xFFFF || b.point == p) →
      bl ≠ [] → (∀ b ∈ bl, blockBusy s b.addr = false) →
      answers (.qstateReset m w) s fun u => answered s u m w 0 [] ∧
        (∀ a, outside (bl.map fun b => (b.addr, (resetBlock b.bytes).length)) a → storeByte u a = storeByte s a) ∧
        ∀ b, bl = [b] → memBytes u.store b.addr (resetBlock b.bytes).length = resetBlock b.bytes)

/-- Granules, windows and copies. -/
def Obligations.StoreRequestsComplete : Prop :=
  ∀ (s : State) (m : Nat) (w : MsgWord) (c a : Nat), c = wfld w 8 2 → a = wfld w 0x0C 8 → ctxRefusal s c = none →
    (requested s m w 0x28 →
      (allocCheck s w = some 0 → answers (.granuleAlloc m w) s fun u => answered s u m w 0 [] ∧ u.store.mem = s.store.mem ∧
        ∀ g ∈ cmdGranules w, tabGet u.store.ownReset u.store.own g = ownMake (wfld w 0x18 1) c) ∧
      (allocCheck s w = none → answers (.granuleAlloc m w) s fun u => waits u m w ∧ u.store = s.store)) ∧
    (requested s m w 0x29 → rangeUnmapped s a (65536 * wfld w 0x14 4) = false →
      (∀ g ∈ cmdGranules w, inReserve s.params g = false ∧ ownedBy s.store c g = true ∧ heldByImage s g = false) → (∀ x ∈ s.steward.closes, x.mbox ≠ m) →
      ∀ rs k, rs = (cmdGranules w).map (fun g => (g * 65536, 65536)) → k = inFlightOn s m none (cmdGranules w) rs [] →
      (stillFlies s k = false → answers (.granuleFree m w) s fun u => answered s u m w 0 [] ∧ u.store.mem = s.store.mem ∧
        ∀ g ∈ cmdGranules w, tabGet u.store.ownReset u.store.own g = ownMake 3 0 ∧ g ∈ u.store.clearing) ∧
      (stillFlies s k = true → answers (.granuleFree m w) s fun u => waits u m w ∧ u.store.mem = s.store.mem)) ∧
    (requested s m w 0x2A → windowOk s c w = true → ∀ k, freeWindow s = some k →
      answers (.windowOpen m w) s fun u => answered s u m w 0 [(8, 4, k)] ∧ tabGet windowZero u.store.windows k = newWindow c w ∧ u.store.mem = s.store.mem ∧
        ∀ j, j ≠ k → tabGet windowZero u.store.windows j = tabGet windowZero s.store.windows j) ∧
    (requested s m w 0x2B → ∀ k x y, k = wfld w 0x0C 4 → x = tabGet windowZero s.store.windows k → x.opened = true → x.owner = c ∨ (mbox s m).exBinding = 2 →
      (∀ x ∈ s.steward.closes, x.mbox ≠ m) → y = inFlightOn s m none [] [(x.base, x.limit - x.base)] [] →
      answers (.windowClose m w) s fun u => tabGet windowZero u.store.windows k = windowZero ∧ u.store.mem = s.store.mem ∧
        (∀ j, j ≠ k → tabGet windowZero u.store.windows j = tabGet windowZero s.store.windows j) ∧
        (stillFlies s y = false → answered s u m w 0 []) ∧ (stillFlies s y = true → waits u m w)) ∧
    (requested s m w 0x2C → ∀ bytes n toStore, n = wfld w 0x1C 4 → toStore = (wfld w 0x20 1 == 0) → inAperture s c (wfld w 0x14 8) n = true → rangeUnmapped s a n = false →
      copyAdmitted s c toStore a n = true →
      answers (.storeCopy m w (some bytes)) s fun u =>
        (toStore = true → (∀ t ∈ s.steward.tasks, t.ctx = c → t.state ≠ .launched) → answered s u m w 0 [(8, 4, n)] ∧
          memBytes u.store a n = (bytes ++ List.replicate n 0).take n ∧ ∀ b, outside [(a, n)] b → storeByte u b = storeByte s b) ∧
        (toStore = false → u.store.mem = s.store.mem ∧ ∀ r k, r = copyLines (linesOf a n) s → k = (r.2.1.length + 4095) / 4096 →
          (k ≠ 0 → waits u m w ∧ u.steward.copies = s.steward.copies ++ [⟨m, k, 0, false, r.2.2⟩]) ∧
          (k = 0 → r.2.2 = none → answered s u m w 0 [(8, 4, 0)]) ∧
          (k = 0 → ∀ l, r.2.2 = some l → answered s u m w 0x010C [(8, 4, 0), (0x0C, 8, l * 64)])))

/-- Staging. -/
def Obligations.SettingsAreStaged : Prop :=
  ∀ (s : State) (m : Nat) (w : MsgWord), deadlineBad s w = false → (∀ x ∈ s.steward.staged, sameItem x.word w = false) →
    ∀ (a : Nat) (done : List (BitVec 32) → State → Prop), a = (if wfld w 0x0C 1 = 2 then wfld w 0x10 8 else beatOf s) →
    (∀ table u, done table u ↔ (u.steward.staged = s.steward.staged ++ [⟨m, w, a, table, false⟩] ∧ waits u m w ∧ u.pace = s.pace ∧ u.power = s.power ∧ u.side = s.side ∧
      u.time = s.time ∧ u.fabric = s.fabric ∧ u.health = s.health)) →
    (requested s m w 0x30 → answers (.paceSet m w) s (done [])) ∧
    (requested s m w 0x31 → answers (.powerSet m w) s (done [])) ∧
    (requested s m w 0x32 → pinRefused s w = false → answers (.sbPinSet m w) s (done [])) ∧
    (requested s m w 0x33 → answers (.timeSet m w) s (done [])) ∧
    (requested s m w 0x34 → (wfld w 0x1A 1 ≠ 1 → ∀ table, answers (.fabricSet m w table) s (done [])) ∧
      (wfld w 0x1A 1 = 1 → ∀ es, answers (.fabricSet m w (some es)) s (done (es.take 8192)))) ∧
    (requested s m w 0x35 → (wfld w 0x18 1 = 1 → unitExists s (wfld w 0x19 1) (wfld w 0x1A 2) = true) → answers (.healthSet m w) s (done []))

/-- Commits. -/
def Obligations.StagedItemsCommit : Prop :=
  ∀ (s : State) (m : Nat) (w : MsgWord) (x : Staged), (mbox s m).executing = some w → x.mbox = m → x.word = w → s.steward.staged = [x] →
    (stagedDue s x = true →
      answers .stagedCommit s fun u => u.steward.staged = [] ∧ answered s u m w 0 [(8, 8, beatOf s)] ∧
        (wfld w 4 2 = 0x30 → ∀ v, v = wfld w 0x18 4 → u.pace.permits = v / 2 ^ 8 % 2 ^ 11 ∧ u.pace.margin = v / 2 ^ 24 % 32 ∧ u.pace.mode = (v % 2 == 1) ∧
          u.pace.dither = (v / 2 % 2 == 1)) ∧
        (wfld w 4 2 = 0x31 → (wfld w 0x18 1 % 2 = 1 → u.power.cap = some (wfld w 0x1A 2) ∧ u.power.cfg.hallAmps = wfld w 0x1C 2 ∧ u.power.cfg.vmax = wfld w 0x1E 1) ∧
          (wfld w 0x18 1 / 2 % 2 = 1 → u.power.mode = (wfld w 0x19 1 == 1))) ∧
        (wfld w 4 2 = 0x32 → ∀ p y, p = wfld w 0x18 1 → s.side.pins[p]? = some y → ∃ z, u.side.pins[p]? = some z ∧ z.func = wfld w 0x19 1 ∧ z.mask = wfld w 0x1E 1 ∧
          (y.func ≠ wfld w 0x19 1 → z.holdUntil = some (upBeat s + wfld w 0x1D 1))) ∧
        (wfld w 4 2 = 0x33 → u.time.refEn = (wfld w 0x18 1 % 2 == 1) ∧ u.time.refDelay = wfld w 0x1A 2 ∧ u.time.period = wfld w 0x1C 4 ∧ u.time.setTime = wfld w 0x20 8) ∧
        (wfld w 4 2 = 0x34 → u.fabric.newRank = some (wfld w 0x18 2)) ∧
        (wfld w 4 2 = 0x35 → wfld w 0x18 1 = 0 → u.health.eolHours = wfld w 0x1C 4 ∧ u.health.recordMin = wfld w 0x20 2 ∧ u.health.transLimit = wfld w 0x23 1)) ∧
    (m < 64 → notAppliedReady s m = true →
      answers (.deferredNotApplied m) s fun u => u.steward.staged = [] ∧ answered s u m w 0x0110 [])

/-- Requests that concern the engine as a whole. -/
def Obligations.EngineRequestsComplete : Prop :=
  ∀ (s : State) (m : Nat) (w : MsgWord),
    (requested s m w 0x37 →
      (wfld w 0x0C 1 = 0 → snapBusy s = false → fabricTask s = false → wfld w 0x0E 2 ≠ 0 → (wfld w 0x10 8 = 0 ∨ beatOf s < wfld w 0x10 8) →
        answers (.snapshotFreeze m w) s fun u => waits u m w ∧ u.shell.snap.pend = true ∧ u.shell.snap.hold = wfld w 0x0E 2 ∧ u.shell.snap.mbox = some m ∧
          u.shell.snap.beat = if wfld w 0x10 8 = 0 then beatOf s + 1 else wfld w 0x10 8) ∧
      (wfld w 0x0C 1 = 1 → s.shell.snap.frozen = true →
        answers (.snapshotRelease m w) s fun u => waits u m w ∧ m ∈ u.shell.snap.relMbox ∧ u.shell.snap.ending.isSome = true)) ∧
    (requested s m w 0x38 → ∀ g p, g = wfld w 0x0C 1 → p = wfld w 0x0D 1 → portThere s g p = true → testable (portOf s g p) = true →
      answers (.linkTest m w) s fun u => waits u m w ∧
        (wfld w 0x0E 1 = 2 → (portOf u g p).loopQ = (portOf s g p).loopQ ++ [.loop true (wfld w 0x14 4)] ∧ (portOf u g p).st = (portOf s g p).st) ∧
        (wfld w 0x0E 1 ≠ 2 → (portOf u g p).st = 8 ∧ (portOf u g p).rate = wfld w 0x0F 1)) ∧
    (requested s m w 0x39 → ∀ raw p, p = raw.take (wfld w 0x14 4) → wfld w 0x14 4 ≤ 0x800000 - 64 → p.length = wfld w 0x14 4 → fwFormat p = true →
      fwSigned s.steward.keyHash p = true → s.shell.keep.svn ≤ pfld p 0xC 4 →
      answers (.fwUpdate m w (some raw)) s fun u => waits u m w ∧ ∃ x ∈ u.shell.keep.writes, x.mbox = some m ∧ x.item = 1) ∧
    (requested s m w 0x3A → ∀ kind, kind = wfld w 0x0C 1 → s.steward.phase ≠ 6 →
      (kind ≤ 1 → answers (.resetRequest m w) s fun u => ∃ r, u.seq.resetReq = some r ∧ m ∈ r.boxes ∧ kind ≤ r.kind ∧ u.steward.phase = s.steward.phase) ∧
      (2 ≤ kind → answers (.resetRequest m w) s fun u => answered s u m w 0 [] ∧ u.seq.trips = s.seq.trips ++ [(if kind = 2 then 5 else 6, upBeat s)])) ∧
    (takeEffectReady s = true → ∀ r, s.seq.resetReq = some r →
      answers .resetTakeEffect s fun u => u.steward.phase = 1 ∧ u.rooms = [] ∧ u.steward.tasks = [] ∧ u.steward.queues = [] ∧ u.steward.images = [] ∧
        u.seq.resetReq = none ∧ (r.kind = 0 → u.seq.trigger = 3 ∧ u.links = s.links ∧ u.time = s.time) ∧
        (r.kind ≠ 0 → u.seq.trigger = 4 ∧ u.seq.step = .run ∧ u.links = linksReset ∧ u.steward.serial = s.steward.serial))

/-- Mailbox hardware. -/
def Obligations.MailboxHardwareActs : Prop :=
  ∀ (s : State) (m : Nat), m < 64 → ∀ (b : Mailbox), b = mbox s m →
    (hardUp s = true → b.enable = true → ∀ tail,
      answers (.mbxDoorbell m tail) s fun u => (mbox u m).tail = tail ∧ (mbox u m).reqHead = b.reqHead ∧ (∀ k, k ≠ m → mbox u k = mbox s k) ∧
        (2 ^ b.sizeLog2 < behind tail b.reqHead → b.st = 1 → (mbox u m).st = 2 ∧ (mbox u m).haltCause = 1) ∧
        (behind tail b.reqHead ≤ 2 ^ b.sizeLog2 → (mbox u m).st = b.st ∧ (mbox u m).haltCause = b.haltCause)) ∧
    (hardUp s = true → b.enable = false → ∀ ctrl : BitVec 32, ctrl.getLsbD 0 = true → ∀ n, n = ctrl.toNat / 2 ^ 8 % 16 →
      answers (.mbxEnable m ctrl) s fun u => (mbox u m).enable = true ∧ (mbox u m).st = 1 ∧ (mbox u m).haltCause = 0 ∧ (mbox u m).tail = 0 ∧ (mbox u m).reqHead = 0 ∧
        (mbox u m).rspTail = 0 ∧ (mbox u m).rspHead = 0 ∧ (mbox u m).notifyEn = ctrl.getLsbD 1 ∧
        (mbox u m).sizeLog2 = (if 2 ≤ n ∧ n ≤ 12 then n else b.sizeLog2) ∧ (mbox u m).binding = b.binding ∧ (∀ k, k ≠ m → mbox u k = mbox s k)) ∧
    (hardUp s = true → b.enable = true → ∀ ctrl : BitVec 32, ctrl.getLsbD 0 = false →
      answers (.mbxDisable m ctrl) s fun u => (mbox u m).enable = false ∧ (mbox u m).sizeLog2 = b.sizeLog2 ∧ (mbox u m).executing = b.executing ∧ (mbox u m).rsp = b.rsp ∧
        (b.executing = none → b.rsp = none → (mbox u m).st = 0) ∧ (∀ r ∈ u.host.out, r.purpose ≠ .reqFetch m) ∧ (∀ k, k ≠ m → mbox u k = mbox s k)) ∧
    (fetchReady s m = true →
      answers (.mbxRequestFetch m) s fun u => (mbox u m).fetching = true ∧ asked u (.reqFetch m) (b.reqBase.toNat + 64 * (b.reqHead.toNat % 2 ^ b.sizeLog2))) ∧
    (∀ w, requestReady s m w = true → ∀ q : BitVec 32, q = BitVec.ofNat 32 (wfld w 0 4) →
      answers (.requestWord m w) s fun u => (mbox u m).arrived = none ∧
        (classify b q = .new → requestCheck s.params s.steward.phase b w = none → (mbox u m).executing = some w ∧ (mbox u m).awaits = false ∧ (mbox u m).rsp = b.rsp) ∧
        (∀ code, classify b q = .new → requestCheck s.params s.steward.phase b w = some code →
          (mbox u m).executing = none ∧ (mbox u m).last = q ∧ (mbox u m).rsp = some (withTrailer (rspWord w code []) (phaseOf b.rspTail.toNat b.sizeLog2) false)) ∧
        (∀ kept, classify b q = .dup kept → (mbox u m).last = b.last ∧ (mbox u m).rsp = some (withTrailer kept (phaseOf b.rspTail.toNat b.sizeLog2) true)) ∧
        (classify b q = .invalid → (mbox u m).last = b.last ∧
          (mbox u m).rsp = some (withTrailer (rspWord w 0x0104 []) (phaseOf b.rspTail.toNat b.sizeLog2) false))) ∧
    (∀ w, b.rsp = some w → b.rspAcked = true →
      answers (.responseWriteAck m) s fun u => (mbox u m).rsp = none ∧ (mbox u m).rspTail = b.rspTail + 1 ∧ (mbox u m).enable = b.enable ∧
        (b.enable = false → (mbox u m).st = 0) ∧ (b.enable = true → (mbox u m).st = b.st))

/-- Descriptor chains. -/
def Obligations.DescriptorChainsRun : Prop :=
  ∀ (s : State) (q : Nat) (x : Queue), queueOf s q = some x →
    (∀ posted head : BitVec 32, postedReady s q posted head = true →
      answers (.postedObserved q posted head) s fun u => ∃ y, queueOf u q = some y ∧ y.posted = posted.toNat ∧ y.cplHead = head.toNat ∧ y.consumed = x.consumed ∧
        (x.posted ≠ posted.toNat → y.hops = 0) ∧ (x.posted = posted.toNat → y.hops = x.hops)) ∧
    (descFetchReady s q = true →
      answers (.descriptorFetch q) s fun u =>
        (x.hops < x.hopLimit → inAperture s x.ctx x.nextDesc 64 = true →
          (∃ y, queueOf u q = some y ∧ y.hops = x.hops + 1 ∧ y.fetching = some x.nextDesc ∧ y.consumed = x.consumed) ∧ asked u (.descFetch q) x.nextDesc) ∧
        (x.hopLimit ≤ x.hops → ctxFaulted s u x 0x0220) ∧
        (x.hops < x.hopLimit → inAperture s x.ctx x.nextDesc 64 = false → ctxFaulted s u x 0x0223)) ∧
    (∀ w, descArrivalReady s q w = true →
      answers (.descriptorArrival q w) s fun u =>
        (descOk s.params x w = false → ctxFaulted s u x 0x0224) ∧
        (descOk s.params x w = true → wfld w 4 2 = 0x01 → ∃ y, queueOf u q = some y ∧ y.nextDesc = wfld w 0x0C 8 ∧ y.consumed = x.consumed ∧ y.work = x.work ∧ y.arrived = none) ∧
        (descOk s.params x w = true → wfld w 4 2 = 0x17 → ∃ y, queueOf u q = some y ∧ y.nextDesc = x.nextDesc + 64 ∧ y.consumed = (x.consumed + 1) % 2 ^ 32 ∧
          y.work = x.work ++ [.fence (wfld w 0x0C 2) (wfld w 0x0E 1)] ∧ y.arrived = none) ∧
        (descOk s.params x w = true → wfld w 4 2 = 0x18 → acceptRefusal s x.ctx w = none → s.fabric.refused = [] →
          (∃ y, queueOf u q = some y ∧ y.nextDesc = x.nextDesc + 64 ∧ y.consumed = (x.consumed + 1) % 2 ^ 32 ∧ y.arrived = none) ∧
          u.steward.nextTask = s.steward.nextTask + 1 ∧ ∃ v ∈ u.steward.tasks, v.num = s.steward.nextTask ∧ v.queue = q ∧ v.ctx = x.ctx ∧ v.image = wfld w 0x0C 4)) ∧
    (chainTimeoutReady s q = true →
      answers (.chainFetchTimeout q) s fun u => (∃ y, queueOf u q = some y ∧ y.fetching = none ∧ y.consumed = x.consumed) ∧ (x.state = 0 → ctxFaulted s u x 0x0221)) ∧
    (∀ f a ws, x.work = .fence f a :: ws → queueOpen s x = true →
      answers (.fenceAction q) s fun u => (∃ y, queueOf u q = some y ∧ y.work = ws) ∧ (fenceMine s x.ctx f = true → (fenceOf u f).signalled = (a == 0)))

/-- Each hatch command completes with its own effect: a start, a stop with and without a burst in flight, a disable and its end, a request with room for it and without, the issue
of a burst that is admitted, and the landing of a burst in a store and at an annex. -/
def Obligations.HatchCommandsComplete : Prop :=
  ∀ (s : State) (c : Nat), hasHatch s c = true → ∀ h, h = hatchOf s c →
    (hardUp s = true → s.shell.disable = false → h.start = false → startOk s h = true →
      ∃ t, exec (.hatchStart c) s = .next t ∧ hatchOf t c = { h with start := true } ∧ (∀ k, k ≠ c → hatchOf t k = hatchOf s k) ∧ t.store = s.store) ∧
    (hardUp s = true → h.busy = false →
      ∃ t, exec (.hatchStop c) s = .next t ∧ hatchOf t c = { h with start := false, stop := false } ∧ (∀ k, k ≠ c → hatchOf t k = hatchOf s k) ∧ t.store = s.store) ∧
    (hardUp s = true → h.busy = true →
      ∃ t, exec (.hatchStop c) s = .next t ∧ hatchOf t c = { h with stop := true } ∧ (∀ k, k ≠ c → hatchOf t k = hatchOf s k) ∧ t.store = s.store) ∧
    (∀ v : BitVec 32, hardUp s = true → v.getLsbD 0 = true →
      ∃ t, exec (.hatchDisable v) s = .next t ∧ t.shell.disable = true ∧ (hatchOf t c).start = false ∧ (hatchOf t c).stop = false ∧ (hatchOf t c).busy = false ∧
        (hatchOf t c).pending = 0 ∧ t.rooms = s.rooms) ∧
    (∀ v : BitVec 32, hardUp s = true → v.getLsbD 0 = false →
      ∃ t, exec (.hatchDisable v) s = .next t ∧ t.shell.disable = false ∧ t.shell.hatch = s.shell.hatch ∧ t.store = s.store) ∧
    (hardUp s = true → s.shell.disable = false → h.pending < 15 →
      ∃ t, exec (.hatchRequest c) s = .next t ∧ hatchOf t c = { h with pending := h.pending + 1 } ∧ (∀ k, k ≠ c → hatchOf t k = hatchOf s k) ∧ t.store = s.store) ∧
    (hardUp s = true → s.shell.disable = false → 15 ≤ h.pending →
      ∃ t, exec (.hatchRequest c) s = .next t ∧ hatchOf t c = { h with reqLost := true } ∧ (∀ k, k ≠ c → hatchOf t k = hatchOf s k) ∧ t.store = s.store) ∧
    (burstReady s c = true → burstCheck s h = 0 →
      ∃ t, exec (.hatchBurstIssue c) s = .next t ∧ t.shell.turn = c + 1 ∧
        hatchOf t c = { h with busy := true, flight := burstLen h, beatDue := false, pending := if h.pace = 0 then h.pending - 1 else h.pending } ∧
        (∀ k, k ≠ c → hatchOf t k = hatchOf s k) ∧ t.store = s.store) ∧
    (∀ bs a n, h.busy = true → (burstStore h).2 = true → a = (burstStore h).1 → n = burstLen h → bs.length = n →
      ∃ t, exec (.hatchBurstLanded c (some bs)) s = .next t ∧ memBytes t.store a n = bs ∧ (∀ b, outside [(a, n)] b → storeByte t b = storeByte s b) ∧
        (hatchOf t c).busy = false ∧ (hatchOf t c).count = h.count - n ∧ (hatchOf t c).src = h.src + BitVec.ofNat 64 n ∧ (hatchOf t c).dst = h.dst + BitVec.ofNat 64 n ∧
        (hatchOf t c).start = (h.start && !h.stop && h.count - n != 0) ∧ (hatchOf t c).done = (h.done || h.count - n == 0)) ∧
    (∀ bs n, h.busy = true → (burstStore h).2 = false → n = burstLen h → (copyLines (linesOf (burstStore h).1 n) s).2.2 = none →
      ∃ t, exec (.hatchBurstLanded c (some bs)) s = .next t ∧ (∀ b, storeByte t b = storeByte s b) ∧
        t.shell.sentTo = s.shell.sentTo ++ [(slotOf h.dst, hatchAddr h.dst, (copyLines (linesOf (burstStore h).1 n) s).2.1)] ∧
        (hatchOf t c).busy = false ∧ (hatchOf t c).count = h.count - n ∧ (hatchOf t c).src = h.src + BitVec.ofNat 64 n ∧ (hatchOf t c).dst = h.dst + BitVec.ofNat 64 n ∧
        (hatchOf t c).start = (h.start && !h.stop && h.count - n != 0) ∧ (hatchOf t c).done = (h.done || h.count - n == 0))

/-- Where a hatch command has no effect of its own or stops the channel: a start while one runs or the hatch is disabled, a start that is not admitted (ERR 0x6), a request of a
disabled hatch, a burst that is not admitted (ERR 0x1, 0x2), a peripheral's error (0x4), and a store line that cannot be read (0x3); ERR 0x5 of a channel whose context is destroyed while a burst is in flight stands (12 R365). -/
def Obligations.HatchErrorsStopTheChannel : Prop :=
  ∀ (s : State) (c : Nat), hasHatch s c = true → ∀ h, h = hatchOf s c →
    ∀ stops : Nat → State → Prop, (∀ e u, stops e u ↔ ((hatchOf u c).start = false ∧ (hatchOf u c).busy = false ∧ (hatchOf u c).stop = false ∧ (hatchOf u c).error = true ∧
      (hatchOf u c).err = (if h.killed then 5 else e) ∧ (hatchOf u c).count = h.count ∧ ∀ k, k ≠ c → hatchOf u k = hatchOf s k)) →
    (hardUp s = true → s.shell.disable = true ∨ h.start = true → exec (.hatchStart c) s = .next s) ∧
    (hardUp s = true → s.shell.disable = false → h.start = false → startOk s h = false → answers (.hatchStart c) s (stops 6)) ∧
    (s.shell.disable = true → exec (.hatchRequest c) s = .next s) ∧
    (burstReady s c = true → burstCheck s h ≠ 0 → answers (.hatchBurstIssue c) s (stops (burstCheck s h))) ∧
    (h.busy = true → answers (.hatchBurstLanded c none) s fun u => stops 4 u ∧ u.store.mem = s.store.mem) ∧
    (∀ bs, h.busy = true → (burstStore h).2 = false → (copyLines (linesOf (burstStore h).1 (burstLen h)) s).2.2 ≠ none →
      answers (.hatchBurstLanded c (some bs)) s fun u => stops 3 u ∧ u.store.mem = s.store.mem)

/-- The keep and the snapshot. -/
def Obligations.KeepAndSnapshotAct : Prop :=
  ∀ (s : State),
    (∀ err data, keepAckReady s = true → answers (.keepUnitAck err data) s fun u =>
      (s.shell.keep.writes = [] → u.shell.keep.rdUnit = s.shell.keep.rdUnit + 1 ∧ (err = true → slotOfUnit s.shell.keep.rdUnit ∈ u.shell.keep.bad)) ∧
      (∀ w ws, s.shell.keep.writes = w :: ws → ∀ n, n = (w.payload.length + 63) / 64 →
        (err = true → u.shell.keep.writes = ws ∧ u.shell.keep.mem = s.shell.keep.mem ∧
          (w.item, if w.unit = 0 then targetSlot s.shell.keep w.item else w.slot) ∈ u.shell.keep.bad) ∧
        (err = false → w.unit = 0 →
          u.shell.keep.writes = { w with slot := targetSlot s.shell.keep w.item, gen := nextGen s.shell.keep w.item, unit := 1 } :: ws ∧
          keepBytes u.shell.keep (keepOff w.item (targetSlot s.shell.keep w.item)) 64 = List.replicate 64 0) ∧
        (err = false → 1 ≤ w.unit → w.unit ≤ n → u.shell.keep.writes = { w with unit := w.unit + 1 } :: ws ∧
          keepBytes u.shell.keep (keepOff w.item w.slot + 64 * w.unit) 64 = padLine ((w.payload.drop (64 * (w.unit - 1))).take 64)) ∧
        (err = false → 1 ≤ w.unit → n < w.unit → u.shell.keep.writes = ws ∧
          keepBytes u.shell.keep (keepOff w.item w.slot) 64 = keepHdr w.item w.gen w.payload))) ∧
    (recordReady s = true → answers .healthRecordWrite s fun u => u.health.recDue = false ∧ u.health.recTick = s.time.up ∧
      u.health.saving = s.health.saving ++ [s.health.map] ∧ ∃ x, u.shell.keep.writes = s.shell.keep.writes ++ [x] ∧ x.item = 4 ∧ x.unit = 0 ∧ x.mbox = none) ∧
    (s.shell.snap.pend = true → s.shell.snap.beat ≤ beatOf s → answers .freezeTakeEffect s fun u =>
      u.shell.snap.frozen = true ∧ u.shell.snap.pend = false ∧ u.shell.snap.req = true ∧ u.shell.snap.captured = false ∧ u.shell.snap.beat = beatOf s ∧
        u.shell.snap.hold = s.shell.snap.hold) ∧
    (s.shell.snap.req = true → ∀ m w, s.shell.snap.mbox = some m → (mbox s m).executing = some w →
      answers .snapAck s fun u => u.shell.snap.req = false ∧ u.shell.snap.captured = s.shell.snap.frozen ∧ u.shell.snap.mbox = none ∧
        answered s u m w 0 [(8, 8, s.shell.snap.beat), (0x10, 1, 0)]) ∧
    (s.shell.snap.waits = true → s.shell.snap.since + 1024 ≤ upBeat s → ∀ m w, s.shell.snap.mbox = some m → (mbox s m).executing = some w →
      answers .snapAckTimeout s fun u => u.shell.snap.req = s.shell.snap.req ∧ u.shell.snap.waits = false ∧ u.shell.snap.noCapture = true ∧ u.shell.snap.frozen = s.shell.snap.frozen ∧
        answered s u m w 0 [(8, 8, s.shell.snap.beat), (0x10, 1, 1)]) ∧
    (freezeEndReady s = true → answers .freezeEnd s fun u => u.shell.snap.frozen = false ∧ u.shell.snap.captured = false ∧ u.shell.snap.relMbox = [] ∧
      ∀ m w, s.shell.snap.relMbox = [m] → (mbox s m).executing = some w → answered s u m w 0 [(8, 8, beatOf s)])

/-- Routing. How a lane-slot shows where a frame begins is the model's choice (log 105), as is the layout of a route update (log 40). -/
def Obligations.FabricRoutesFrames : Prop :=
  ∀ (s : State) (b : Nat) (f : Frame), ∀ d, d = s.fabric.drops → ∀ e, e = tabGet 0 (entriesFor s b) (entryKey f.hdr.kind (f.hdr.dst.toNat % 2 ^ 13)) →
    ∀ unicast, unicast = (hdrGood f.hdr = true ∧ f.hdr.kind ≠ 6 ∧ f.hdr.dst.getLsbD 15 = false) →
    (bundleThere s b = true → (tabGet bundleZero s.fabric.bundles b).up = true → ∀ rest, frameIn s b f = some rest →
      answers (.frameRoute b f) s fun u => tabGet [] u.fabric.arrived b = rest ∧
        (hdrGood f.hdr = false → frameDropped s u { d with badHeader := satInc 255 d.badHeader }) ∧
        (hdrGood f.hdr = true → f.hdr.kind = 6 → frameDelivered s u b f) ∧
        (hdrGood f.hdr = true → f.hdr.kind ≠ 6 → f.hdr.kind ≠ 8 → f.hdr.dst.getLsbD 15 = true → frameDelivered s u b f) ∧
        (hdrGood f.hdr = true → f.hdr.kind = 8 → f.hdr.dst.getLsbD 15 = true → u.fabric.inbox = s.fabric.inbox ++ [(b, f)]) ∧
        (unicast → entValid e = false → frameDropped s u { d with noRoute := satInc 255 d.noRoute }) ∧
        (unicast → entValid e = true → f.hdr.kind = 0x20 → flowLive s f.hdr.task f.hdr.tag.toNat = true → frameDelivered s u b f) ∧
        (unicast → entValid e = true → f.hdr.kind = 0x20 → flowLive s f.hdr.task f.hdr.tag.toNat = false → frameDropped s u { d with staleFlow := satInc 255 d.staleFlow }) ∧
        (unicast → f.hdr.kind ≠ 0x20 → entValid e = true → entLocal e = true → frameDelivered s u b f) ∧
        (unicast → f.hdr.kind ≠ 0x20 → entValid e = true → entLocal e = false → f.hdr.hops.toNat ≤ 1 → frameDropped s u { d with hopsOut := satInc 255 d.hopsOut }) ∧
        (unicast → f.hdr.kind ≠ 0x20 → entValid e = true → entLocal e = false → 1 < f.hdr.hops.toNat → u.fabric.inbox = s.fabric.inbox ∧ u.fabric.drops = d ∧
          u.fabric.out = s.fabric.out ++ [(entBundle e, ⟨sealHdr { f.hdr with hops := f.hdr.hops - 1 }, f.payload⟩)])) ∧
    (inInbox s b f = true → answers (.ack b f) s fun u => u.fabric.inbox = s.fabric.inbox.erase (b, f) ∧
      u.fabric.unacked = ackOut (f.hdr.src.toNat % 2 ^ 13) f.hdr s.fabric.unacked ∧ u.fabric.out = s.fabric.out) ∧
    (∀ dst tag m, overdue s dst tag = some m → answers (.messageResend dst tag) s fun u =>
      (m.tries < 16 → { m with sent := upBeat s, tries := m.tries + 1 } ∈ u.fabric.unacked ∧ u.fabric.lost = s.fabric.lost) ∧
      (16 ≤ m.tries → u.fabric.unacked = s.fabric.unacked.erase m ∧ u.fabric.lost = s.fabric.lost ++ [(dst, tag)] ∧ u.fabric.out = s.fabric.out)) ∧
    (inInbox s b f = true → ∀ es serial r, serial = BitVec.ofNat 64 (pfld f.payload 0 8) → r = ⟨pfld f.payload 8 4, fullBeat (beatOf s) f.hdr.aux.toNat, entryTable es⟩ →
      answers (.routeUpdate b f es) s fun u =>
        (msgSeen s f = true ∨ (namedHere s f serial = false ∧ s.fabric.registrar ≠ some s.steward.serial) →
          u.fabric.updates = s.fabric.updates ∧ u.fabric.routes = s.fabric.routes ∧ u.fabric.epoch = s.fabric.epoch ∧ u.fabric.given = s.fabric.given) ∧
        (namedHere s f serial = true → msgSeen s f = false → (∀ x ∈ s.fabric.updates, x.epoch ≠ r.epoch) → r.epoch ≠ s.fabric.epoch ∨ s.fabric.epoch = 0 →
          (beatOf s ≤ r.beat → u.fabric.updates = s.fabric.updates ++ [r] ∧ u.fabric.routes = s.fabric.routes ∧ u.fabric.epoch = s.fabric.epoch) ∧
          (r.beat < beatOf s → u.fabric.updates = s.fabric.updates ∧ u.fabric.routes = r.entries ∧ u.fabric.epoch = r.epoch)) ∧
        (namedHere s f serial = true → msgSeen s f = false → ∀ x, s.fabric.updates.find? (fun x => x.epoch == r.epoch) = some x →
          { x with entries := addEntries x.entries es } ∈ u.fabric.updates ∧ u.fabric.routes = s.fabric.routes) ∧
        (namedHere s f serial = false → s.fabric.registrar = some s.steward.serial → f.hdr.src ≠ srcField s → msgSeen s f = false →
          f.hdr.aux.toNat + 1 = pfld f.payload 8 4 → entryTable es ≠ [] → (serial, entryTable es) ∈ u.fabric.given)) ∧
    (∀ r, dueUpdate s = some r → answers .routeEffective s fun u =>
      u.fabric.updates = s.fabric.updates.filter (· ≠ r) ∧ u.fabric.routes = r.entries ∧ u.fabric.old = s.fabric.routes ∧ u.fabric.epoch = r.epoch ∧
        u.fabric.early = s.fabric.early.filter (fun e => e.2 != r.epoch) ∧
        (s.fabric.admission = 1 → s.fabric.reason = 4 → u.fabric.admission = 2 ∧ u.fabric.reason = 0)) ∧
    (drainReady s b f = true → answers (.drain b f) s fun u => u.fabric.onOld = s.fabric.onOld.erase b ∧ u.fabric.inbox = s.fabric.inbox.erase (b, f) ∧
      (f.hdr.epoch.toNat ≠ s.fabric.epoch → (b, f.hdr.epoch.toNat) ∈ u.fabric.early)) ∧
    (bundleThere s b = true → b ∈ s.fabric.onOld → (tabGet bundleZero s.fabric.bundles b).up = false → s.fabric.switchAt ≤ upBeat s →
      answers (.inputPortSwitchTimeout b) s fun u => u.fabric.onOld = s.fabric.onOld.erase b ∧ u.fabric.routes = s.fabric.routes)

/-- Membership. -/
def Obligations.FabricMembershipActs : Prop :=
  ∀ (s : State) (b : Nat) (f : Frame),
    (inInbox s b f = true → answers (.rollStart b f) s fun u =>
      (s.fabric.rollSeen < f.hdr.tag.toNat → u.fabric.rollSeen = f.hdr.tag.toNat ∧ u.fabric.rolling = true ∧ u.fabric.lastRoll = upBeat s ∧ u.fabric.rank = rankNow s ∧
        u.fabric.newRank = none ∧ ∃ r, u.fabric.records = [r] ∧ r.serial = s.steward.serial ∧ r.rank = rankNow s ∧ r.epoch = s.fabric.epoch) ∧
      (f.hdr.tag.toNat ≤ s.fabric.rollSeen → u.fabric.rollSeen = s.fabric.rollSeen ∧ u.fabric.rolling = s.fabric.rolling ∧ u.fabric.records = s.fabric.records)) ∧
    (inInbox s b f = true → answers (.roll b f) s fun u =>
      (rollNew s f = true → u.fabric.records = s.fabric.records ++ [admOf f.payload] ∧ u.fabric.lastRoll = upBeat s) ∧
      (rollNew s f = false → u.fabric.records = s.fabric.records ∧ u.fabric.lastRoll = s.fabric.lastRoll)) ∧
    (rollCloseReady s = true → answers .rollCallClose s fun u => u.fabric.rolling = false ∧ (∀ r, elected s.fabric.records = some r → u.fabric.registrar = some r.serial ∧
      (r.serial = s.steward.serial → ∃ x, u.fabric.updates = s.fabric.updates ++ [x] ∧ beatOf s + 64 ≤ x.beat ∧ x.epoch = nextEpoch s (s.fabric.registrar != some r.serial)) ∧
      (r.serial ≠ s.steward.serial → u.fabric.updates = s.fabric.updates))) ∧
    (inInbox s b f = true → ∀ serial addr, answers (.assign b f serial addr) s fun u =>
      (namedHere s f serial = true → msgSeen s f = false → u.fabric.addr = some (addr % 2 ^ 13)) ∧ (namedHere s f serial = false → u.fabric.addr = s.fabric.addr)) ∧
    (inInbox s b f = true → ∀ serial st reason, answers (.admitFrame b f serial st reason) s fun u =>
      (namedHere s f serial = true → msgSeen s f = false → u.fabric.admission = st ∧ u.fabric.reason = reason ∧ u.steward.fabricSt = st) ∧
      (namedHere s f serial = false → u.fabric.admission = s.fabric.admission ∧ u.fabric.reason = s.fabric.reason ∧ u.steward.fabricSt = s.steward.fabricSt)) ∧
    (ofOneReady s = true → answers .fabricOfOne s fun u => u.fabric.addr = some 0 ∧ u.fabric.epoch = 0 ∧ u.fabric.registrar = some s.steward.serial ∧ u.fabric.admission = 0 ∧
      u.steward.fabricSt = 0 ∧ u.time.announcing = true ∧ u.time.keeper = none ∧ u.time.st = 1) ∧
    (∀ up, bundleThere s b = true → bundleReady s b up = true → answers (.bundleChange b up) s fun u => (tabGet bundleZero u.fabric.bundles b).up = up ∧
      (up = true → (tabGet bundleZero u.fabric.bundles b).lanes = laneMask s (b / 8) b) ∧ u.fabric.rollSeen = s.fabric.rollSeen + 1 ∧ u.fabric.rolling = true)

/-- Rounds. -/
def Obligations.RoundsLaunchAndEnd : Prop :=
  ∀ (s : State) (b : Nat) (f : Frame) (k : Nat), k = f.hdr.tag.toNat →
    (message s b f 0x10 → answers (.ready b f) s fun u => (f.hdr.task, k, frameSrc f, f.hdr.epoch.toNat) ∈ u.fabric.readys ∧
      ∀ t, onTask s f t → t.member = 0 → t.state ≠ .launched → f.hdr.epoch.toNat ≠ s.fabric.epoch → hasEnd u t.num .refused 0x0901) ∧
    (message s b f 0x11 → answers (.launch b f) s fun u => ∀ t, onTask s f t → t.member ≠ 0 → t.state = .eligible → ∀ l, l = fullBeat (beatOf s) f.hdr.aux.toNat →
      (beatOf s < l → ∃ v, taskOf u t.num = some v ∧ v.state = .eligible ∧ v.launchAt = some l) ∧ (l ≤ beatOf s → t.halting = false → halts u t.num 0x0904)) ∧
    (message s b f 0x12 → answers (.refuse b f) s fun u => (f.hdr.task, k, f.hdr.aux.toNat) ∈ u.fabric.refused ∧
      ∀ t, onTask s f t → (t.state ≠ .launched → hasEnd u t.num .refused f.hdr.aux.toNat) ∧ (t.state = .launched → taskOf u t.num = some t)) ∧
    (message s b f 0x18 → answers (.withdraw b f) s fun u => ∀ t, onTask s f t → t.member = 0 → t.state ≠ .launched →
      (f.hdr.aux = 0x0211 → hasEnd u t.num .refused 0x0903) ∧ (f.hdr.aux ≠ 0x0211 → hasEnd u t.num .refused f.hdr.aux.toNat)) ∧
    (message s b f 0x13 → answers (.endFrame b f) s fun u => ∀ t, onTask s f t → t.member = 0 → t.state = .launched → t.halting = false →
      hasEnd u t.num .completed 0 ∨ ∃ v, taskOf u t.num = some v ∧ v.state = .launched ∧ ∀ m ∈ v.members, m.member = f.hdr.aux.toNat → m.ended = true) ∧
    (message s b f 0x14 → answers (.done b f) s fun u => ∀ t, onTask s f t → t.member ≠ 0 → t.state = .launched → hasEnd u t.num .completed 0)

/-- Aborts and flows. -/
def Obligations.RoundsAbortAndFlowsMove : Prop :=
  ∀ (s : State) (b : Nat) (f : Frame),
    (∀ room op opc, message s b f 0x17 → answers (.faultFrame b f room op opc) s fun u => ∀ t, onTask s f t → t.member = 0 → t.state = .launched → t.halting = false →
      halts u t.num f.hdr.aux.toNat ∧ (f.hdr.aux ≠ 0x0211 → ∃ v r, taskOf u t.num = some v ∧ v.fault = some r ∧ r.code = f.hdr.aux.toNat ∧ r.room = room ∧ r.op = op ∧ r.opc = opc)) ∧
    (message s b f 0x15 → answers (.abort b f) s fun u => ∀ t, onTask s f t → halts u t.num f.hdr.aux.toNat) ∧
    (message s b f 0x16 → answers (.halted b f) s fun u => ∀ t, onTask s f t → t.member = 0 →
      ∃ v, taskOf u t.num = some v ∧ v.state = t.state ∧ ∀ m ∈ v.members, m.member = f.hdr.aux.toNat → m.halted = true) ∧
    (∀ n t, taskOf s n = some t → haltedTimeoutReady s n = true → answers (.haltedTimeout n) s fun u => ∃ v, taskOf u n = some v ∧ v.state = t.state ∧ v.status = t.status ∧
      (∀ m ∈ v.members, m.halted = true) ∧ v.others = min 255 (t.others + (t.members.filter fun m => m.member != 0 && !m.halted).length)) ∧
    (∀ n k t i c fl, runningTask s n = some (t, i) → slotClaim s t i k = some c → flowOf i k = some fl →
      answers (.flowSlotTake n k) s fun u =>
        (fl.srcMember = t.member → ∀ x, (variantOf i t).rings.find? (fun x => x.ring == fl.srcRing) = some x → ringFilled (ringOf s.store (16 * x.hall) x.desc) < c.frames * fl.frame →
          halts u n 0x0602 ∧ u.store = s.store) ∧
        (fl.srcMember ≠ t.member → heldFrames u t.gtask k = (heldFrames s t.gtask k).drop c.frames ∧ u.store = s.store)) ∧
    (inInbox s b f = true → f.hdr.kind.toNat = 0x20 → ∀ k, k = f.hdr.tag.toNat → answers (.flow b f) s fun u =>
      (liveTask s f.hdr.task = none → u.fabric.inbox = s.fabric.inbox.erase (b, f) ∧ u.fabric.drops = { s.fabric.drops with staleFlow := satInc 255 s.fabric.drops.staleFlow } ∧ u.store = s.store) ∧
      (∀ t i fl, liveTask s f.hdr.task = some t → taskOf s t.num = some t → imageOf s t = some i → t.halting = false → flowOf i k = some fl →
        (∀ c cs, fl.dstMember ≠ t.member → fl.srcMember ≠ t.member → flowClaims i t k = c :: cs →
          (bufferBytes s t i (c.bundle / 8) + 32 + f.payload.length ≤ 512 * 1024 → heldFrames u t.gtask k = heldFrames s t.gtask k ++ [f] ∧ u.store = s.store) ∧
          (512 * 1024 < bufferBytes s t i (c.bundle / 8) + 32 + f.payload.length → halts u t.num 0x0908)) ∧
        (fl.dstMember = t.member → fl.window = true → ∀ a, a = fl.dstBase + (flowSt s t.num k).wrote → ∀ ok,
          ok = (fabricAdmits s.store a f.payload.length && srcAdmitted s f && !rangeUnmapped s a f.payload.length) →
          (ok = true → memBytes u.store a f.payload.length = f.payload ∧ (flowSt u t.num k).got = (flowSt s t.num k).got + 1 ∧
            (flowSt u t.num k).wrote = (flowSt s t.num k).wrote + f.payload.length ∧ ∀ y, outside [(a, f.payload.length)] y → storeByte u y = storeByte s y) ∧
          (ok = false → halts u t.num 0x0907 ∧ u.store = s.store))))

/-- Blocks. A codeword whose first position is lost is named where the nominal count puts it (log 25); the stamp of a mark is free within its position (log 113). -/
def Obligations.LinkBlocksFlow : Prop :=
  ∀ (s : State) (g p : Nat) (x : Port), portThere s g p = true → x = portOf s g p →
    (∀ bytes, blockTransmitReady s g p bytes = true → answers (.blockTransmit g p bytes) s fun u =>
      (portOf u g p).txPos = (if atBeatStart s x then 1 else x.txPos + 1) ∧ (portOf u g p).st = x.st ∧
      (∃ e, (portOf u g p).sent.getLast? = some e ∧
        (atBeatStart s x = true → e.beat = beatOf s ∧ e.pos = 0 ∧ ∃ n, e.block = .beatMark (beatOf s) n (if x.st = 5 then x.logical else 0x1F)) ∧
        (atBeatStart s x = false → e.beat = x.txBeat ∧ e.pos = x.txPos ∧
          (∀ sl, carries x = true → slotAt x.rate x.txPos = some (sl, 0) → e.block = .slotMark (x.txBeat % 65536) sl bytes) ∧
          (∀ sl k, carries x = true → slotAt x.rate x.txPos = some (sl, k + 1) → e.block = .data bytes))) ∧
      (x.cwBlocks.length = 19 → (portOf u g p).cwBlocks = [] ∧ (portOf u g p).line.length = 20) ∧ (x.cwBlocks.length < 19 → (portOf u g p).cwBlocks.length = x.cwBlocks.length + 1)) ∧
    (∀ errors blocks, codewordReady s g p blocks = true → answers (.codewordDecode g p errors blocks) s fun u =>
      (errors ≤ 15 → (portOf u g p).corrected = min (2 ^ 32 - 1) (x.corrected + errors) ∧ (portOf u g p).consecBad = 0 ∧ (portOf u g p).uncorr = x.uncorr ∧
        (portOf u g p).nakQ = x.nakQ ∧ (portOf u g p).locked = true ∧ ∀ q, x.test = some q → ∃ r, (portOf u g p).test = some r ∧ r.fixed = q.fixed + errors) ∧
      (15 < errors → (portOf u g p).uncorr = satInc 65535 x.uncorr ∧ (portOf u g p).consecBad = x.consecBad + 1 ∧ (portOf u g p).corrected = x.corrected ∧
        (portOf u g p).goodTrain = 0 ∧ (∀ q, x.test = some q → ∃ r, (portOf u g p).test = some r ∧ r.unc = q.unc + 1) ∧
        (x.st = 5 → x.rxLane ≠ 0x1F → ∀ n, n = Block.nak ((nakName x).1 % 65536) ((nakName x).2 % 1024) x.rxLane → (portOf u g p).nakQ = x.nakQ ++ [n, n]))) ∧
    (∀ beat prevEnd lane, rxHead x (.beatMark beat prevEnd lane) = true → answers (.beatMark g p beat prevEnd lane) s fun u =>
      (portOf u g p).rxLane = lane ∧ (portOf u g p).markBeat = upBeat s ∧ (portOf u g p).rxPrevEnd = prevEnd ∧
        (portOf u g p).arrives = noteMark x.arrives beat (comes s x)) ∧
    (∀ low sl bytes, rxHead x (.slotMark low sl bytes) = true → ∀ b, b = beatNear x low → answers (.slotMark g p low sl bytes) s fun u =>
      (b < x.rxBeat ∨ (b = x.rxBeat ∧ lsPos x.rate sl < x.rxPos) → (x.replay = none → portOf u g p = rxPop x) ∧
        ∀ r q qs, (rxPop x).replay = some r → r.left = q :: qs → (portOf u g p).replay = some { r with left := qs }) ∧
      (x.rxBeat < b ∨ (b = x.rxBeat ∧ x.rxPos ≤ lsPos x.rate sl) →
        (x.rxVia = none → ∀ z, z = rxPut (rxPop { x with rxBeat := b, rxPos := lsPos x.rate sl }) b sl 0 (bytes.take (lsBytes x.rate % 32)) →
          (portOf u g p).rxq = z.rxq ∧ (portOf u g p).rxSlots = z.rxSlots ∧ (portOf u g p).nextLs = z.nextLs ∧ (portOf u g p).rxPos = z.rxPos) ∧
        (∀ q, x.rxVia = some q → q ≠ p → ∀ z, z = rxPut (portOf s g q) b sl 0 (bytes.take (lsBytes x.rate % 32)) →
          (portOf u g q).rxSlots = z.rxSlots ∧ (portOf u g q).nextLs = z.nextLs))) ∧
    (∀ bytes, rxHead x (.data bytes) = true → answers (.dataBlock g p bytes) s fun u => (x.st = 8 → portOf u g p = rxPop (testData bytes x)) ∧
      (x.st ≠ 8 → slotAt x.rate x.rxPos = none → (x.replay = none → portOf u g p = rxPop x) ∧
        ∀ r q qs, (rxPop x).replay = some r → r.left = q :: qs → (portOf u g p).replay = some { r with left := qs }) ∧
      (∀ sl k, x.st ≠ 8 → slotAt x.rate x.rxPos = some (sl, k) → x.rxVia = none → ∀ z, z = rxPut (rxPop x) x.rxBeat sl k bytes →
        (portOf u g p).rxq = z.rxq ∧ (portOf u g p).rxSlots = z.rxSlots ∧ (portOf u g p).nextLs = z.nextLs ∧ (portOf u g p).rxPos = z.rxPos)) ∧
    (∀ beat pos lane, rxHead x (.nak beat pos lane) = true → answers (.nak g p beat pos lane) s fun u =>
      (txPortOf (modPort g p rxPop s) g lane = none → portOf u g p = rxPop x) ∧
      ∀ q y, txPortOf (modPort g p rxPop s) g lane = some q → y = portOf (modPort g p rxPop s) g q →
        ∀ es, es = (y.sent.filter fun e => e.cwBeat % 65536 == beat && e.cwPos == pos && e.again) →
        (beat, pos) ∈ (portOf u g q).nakSeen ∧ ((beat, pos) ∈ y.nakSeen → portOf u g q = y) ∧
        ((beat, pos) ∉ y.nakSeen → es ≠ [] → replayInTime y es = true → (portOf u g q).replayQ = y.replayQ ++ [.replayHead beat pos lane :: es.map (·.block)]) ∧
        ((beat, pos) ∉ y.nakSeen → es = [] ∨ replayInTime y es = false → (portOf u g q).replayQ = y.replayQ)) ∧
    (∀ beat pos lane blocks, rxHead x (.replayHead beat pos lane) = true → answers (.replayHead g p beat pos lane blocks) s fun u =>
      (rxPortOf (modPort g p rxPop s) g p lane = none → portOf u g p = rxPop x) ∧
      ∀ q, rxPortOf (modPort g p rxPop s) g p lane = some q → (portOf u g p).replay = some ⟨q, beatNear (rxPop x) beat, pos, blocks.map (·.1)⟩) ∧
    (∀ beat slot, deadlineReady s g p beat slot = true → answers (.laneSlotDeadline g p beat slot) s fun u =>
      (portOf u g p).slotsLost = satInc 255 x.slotsLost ∧ ∃ m, (portOf u g p).nextLs = some m ∧ 64 * beat + slot < m)

/-- Training. While a gatehouse trains, a measured port waits for the others (log 112). -/
def Obligations.LinkPortsTrain : Prop :=
  ∀ (s : State) (g p : Nat) (x : Port), portThere s g p = true → x = portOf s g p →
    (x.st = 1 → x.idled = false → answers (.signalDetect g p) s fun u => (portOf u g p).st = 2 ∧ (portOf u g p).rate = 0 ∧ (portOf u g p).rates = 0 ∧
      (portOf u g p).since = upBeat s ∧ (portOf u g p).held = false) ∧
    (x.st = 2 → (answers (.adaptDone g p true) s fun u => (portOf u g p).st = 3 ∧ (portOf u g p).rate = x.rate ∧ (portOf u g p).rates = x.rates ||| 2 ^ x.rate ∧
        (portOf u g p).txPos = 0 ∧ (portOf u g p).txLevel = 0 ∧ (portOf u g p).goodTrain = 0 ∧ (portOf u g p).locked = false) ∧
      (answers (.adaptDone g p false) s fun u => (x.rate < 2 → x.held = false → (portOf u g p).st = 2 ∧ (portOf u g p).rate = x.rate + 1) ∧
        (2 ≤ x.rate ∨ x.held = true → (portOf u g p).st = 7))) ∧
    (∀ serial pg pp rates preq st etx erx, rxHead x (.train serial pg pp rates preq st etx erx) = true →
      answers (.train g p serial pg pp rates preq st etx erx) s fun u =>
        (x.st = 3 → (portOf u g p).peerSerial = serial ∧ (portOf u g p).peerGate = pg ∧ (portOf u g p).preTx = preq ∧
          (x.goodTrain < 63 → (portOf u g p).st = 3 ∧ (portOf u g p).goodTrain = x.goodTrain + 1) ∧
          (63 ≤ x.goodTrain → bestRate x.rates rates = none → (portOf u g p).st = 3) ∧
          (63 ≤ x.goodTrain → ∀ r, bestRate x.rates rates = some r →
            (r = x.rate ∨ x.held = true → (portOf u g p).st = 4 ∧ (portOf u g p).rate = x.rate ∧ (portOf u g p).echoes = 0) ∧
            (r ≠ x.rate → x.held = false → (portOf u g p).st = 2 ∧ (portOf u g p).rate = r))) ∧
        (x.st = 4 → x.measured = false → x.echoes < 63 → (portOf u g p).st = 4 ∧ (portOf u g p).peerEcho = etx ∧ (portOf u g p).peerSerial = serial ∧
          (portOf u g p).echoes = if erx = 0 ∧ x.echoes = 0 then x.echoes else x.echoes + 1) ∧
        (x.st = 4 → x.measured = false → x.echoes = 63 → (tabGet none s.links.training g).isSome = true → (∃ q, q < 26 ∧ q ≠ p ∧ (portOf s g q).st = 3) →
          (portOf u g p).st = 4 ∧ (portOf u g p).measured = true ∧
            (portOf u g p).l1 = min 1023 (max x.echoMax (((portTicks s (rxPop x) % 2 ^ 32 + 2 ^ 32 - erx) % 2 ^ 32 + 1) / 2))) ∧
        (x.st = 4 → x.measured = true → (portOf u g p).st = 4 ∧ (portOf u g p).peerEcho = etx) ∧
        (x.st ≠ 3 → x.st ≠ 4 → (portOf u g p).st = x.st ∧ (portOf u g p).peerSerial = serial)) ∧
    (x.st = 3 → x.locked = false → x.since + 4096 ≤ upBeat s → answers (.lockTimeout g p) s fun u => (portOf u g p).st = 7) ∧
    (x.st = 7 → x.idled = false → g ∉ s.health.gatesOut → x.since + 65536 ≤ upBeat s → answers (.failedRetry g p) s fun u => (portOf u g p).st = 1) ∧
    (x.st = 5 ∨ x.st = 6 → answers (.portLoss g p) s fun u => (portOf u g p).st = 7 ∧ (portOf u g p).lost = true ∧ (portOf u g p).logical = 0x1F ∧
      (x.st = 5 → ∀ q, standbyFor s g p = some q → (portOf u g q).st = 5 ∧ (portOf u g q).logical = x.logical ∧ (portOf u g q).bundle = x.bundle ∧
        (portOf u g q).waitMark = true ∧ u.health.spareUsed = true) ∧
      (x.st = 5 → standbyFor s g p = none → u.health.exhausted = true ∧ u.steward.healthSt = 2)) ∧
    (trainingEndReady s g = true → ∀ t, t = (if (portNums.any fun q => (portOf s g q).st == 4 && (portOf s g q).measured) then placeAll g s else s) →
      answers (.trainingEnd g) s fun u => tabGet none u.links.training g = none ∧
        ∀ b, 8 * g ≤ b → b < 8 * g + 8 → ((tabGet bundleZero u.fabric.bundles b).up = true ↔ bundlePorts t g b ≠ [])) ∧
    (∀ mv, answers (.eyeMarginReport g p mv) s fun u => portOf u g p = { x with eye := some mv })

/-- Moves and tests. How a start and a stop are told apart as request, acceptance and refusal is the model's choice (log 29). -/
def Obligations.LinkMovesAndTests : Prop :=
  ∀ (s : State) (g p : Nat) (x : Port), portThere s g p = true → x = portOf s g p →
    (∀ target lane, rxHead x (.swap target lane) = true → answers (.swap g p target lane) s fun u =>
      (rxPortOf (modPort g p rxPop s) g p lane = none → portOf u g p = rxPop x ∧ u.links.rxSwaps = s.links.rxSwaps) ∧
      ∀ q, rxPortOf (modPort g p rxPop s) g p lane = some q → ∃ w ∈ u.links.rxSwaps, w.gate = g ∧ w.lane = lane ∧ w.target = target) ∧
    (∀ lane w, swapDue s g lane = some w → w.new ≠ w.old → answers (.swapTarget g lane) s fun u => (portOf u g w.new).st = 5 ∧ (portOf u g w.new).logical = lane ∧
      (portOf u g w.new).bundle = (portOf s g w.old).bundle ∧ (portOf u g w.new).waitMark = true ∧ (portOf u g w.new).sent = (portOf s g w.old).sent ∧
      (portOf u g w.old).st = 6 ∧ (portOf u g w.old).logical = 0x1F ∧ w ∉ u.links.swaps) ∧
    (∀ start beats, rxHead x (.loop start beats) = true → ∀ y, y = rxPop x → answers (.loop g p start beats) s fun u =>
      (∀ q, y.test = some q → q.running = false → start = true → (portOf u g p).st = 8 ∧ (portOf u g p).rate = q.rate ∧ (portOf u g p).preTx = q.precode ∧
        ∃ r, (portOf u g p).test = some r ∧ r.running = true ∧ r.since = upBeat s ∧ r.mbox = q.mbox) ∧
      (∀ q m w, y.test = some q → q.running = false → start = false → q.mbox = some m → (mbox s m).executing = some w → (portOf u g p).test = none ∧ answered s u m w 0x0A02 []) ∧
      (∀ q, y.test = some q → q.running = true → start = true → portOf u g p = y) ∧
      (∀ q, y.test = some q → q.running = true → start = false → q.mbox = none → (portOf u g p).st = 1 ∧ (portOf u g p).test = none) ∧
      (y.test = none → start = true → testable y = true → (portOf u g p).st = 8 ∧ (portOf u g p).loopQ = [.loop true beats]) ∧
      (y.test = none → start = true → testable y = false → (portOf u g p).st = x.st ∧ (portOf u g p).loopQ = x.loopQ ++ [.loop false beats]) ∧
      (y.test = none → start = false → portOf u g p = y)) ∧
    (∀ r q m w, testEndReady s g p r = true → testDone s g p = some q → q.mbox = some m → (mbox s m).executing = some w →
      answers (.linkTestEnd g p r) s fun u => (portOf u g p).st = 1 ∧ (portOf u g p).test = none ∧ answered s u m w 0 [(0x08, 8, q.blocks % 2 ^ 64), (0x10, 8, q.bad % 2 ^ 64),
        (0x18, 8, q.fixed % 2 ^ 64), (0x20, 4, q.unc % 2 ^ 32), (0x24, 1, if r.lockLost then 1 else 0)]) ∧
    (∀ q m w, x.test = some q → q.running = false → q.since + 64 ≤ upBeat s → q.mbox = some m → (mbox s m).executing = some w →
      answers (.linkNoPeer g p) s fun u => (portOf u g p).test = none ∧ answered s u m w 0x0A03 [])

/-- Keepers, stamps, splits and steps. How fast the rate removes an offset, and with it the value of the rate, is the model's free value (log 3). -/
def Obligations.TimeFollowsAndKeeps : Prop :=
  ∀ (s : State) (cls : Nat),
    (∀ b rank serial hops f, announceFrame s b cls rank serial hops = some f → answers (.announce b cls rank serial hops) s fun u =>
      u.fabric = (takeFrame b f s).fabric ∧
      ∀ mine takes, mine = betterTime cls rank serial (timeClass s) s.fabric.rank s.steward.serial →
        (takes ↔ ∀ k, s.time.keeper = some k → k.serial = serial ∨ betterTime cls rank serial k.cls k.rank k.serial = true ∨
          k.beat + (if timeClass s = 3 ∨ s.time.st = 3 then 4096 else 256) ≤ upBeat s) →
        (mine = true → takes → u.time.keeper = some ⟨cls, rank, serial, 32 - hops, upBeat s⟩ ∧ u.time.announcing = false ∧ u.time.quiet = upBeat s ∧
          u.time.st = if s.time.announcing then 0 else s.time.st) ∧
        (mine = false ∨ ¬takes → u.time = s.time)) ∧
    (s.time.announcing = true → s.steward.fabricSt ≠ 1 → s.time.lastAnn + 64 ≤ upBeat s → answers .announcePeriod s fun u => u.time.lastAnn = upBeat s ∧
      ∃ f, f.hdr.kind = 8 ∧ f.hdr.dst = 0x8000 ∧ f.payload = timePayload 1 (timeClass s) s.fabric.rank s.steward.serial 0 0 0 0 0 ∧
        ∀ b ∈ upBundles s, b ≠ 64 → (b, f) ∈ u.fabric.out) ∧
    (keeperTimeoutReady s = true → answers .keeperTimeout s fun u => u.time.announcing = true ∧ u.time.keeper = none ∧ u.time.st = 1 ∧ u.time.holdFrom = none ∧
      u.time.step = s.time.step.filter (·.ref) ∧
      u.time.lastAnn = upBeat s ∧ ∃ f, f.hdr.kind = 8 ∧ f.payload = timePayload 1 (timeClass s) s.fabric.rank s.steward.serial 0 0 0 0 0 ∧
        ∀ b ∈ upBundles s, b ≠ 64 → (b, f) ∈ u.fabric.out) ∧
    (s.time.running = true → s.time.lastStamp + 16 ≤ upBeat s → answers .stampPeriod s fun u => u.time.lastStamp = upBeat s ∧
      ∀ b ∈ upBundles s, ∃ f, (b, f) ∈ u.fabric.out ∧ f.hdr.kind = 8 ∧ f.hdr.dst = BitVec.ofNat 16 (tabGet bundleZero s.fabric.bundles b).peerAddr ∧
        f.payload.head? = some 2 ∧ f.payload.length = 64 ∧ ∀ d a, d = lastMark (lowestPort s b).departs → a = lastMark (lowestPort s b).arrives →
          pfld f.payload 0x10 8 = d.1 % 2 ^ 64 ∧ (pfld f.payload 0x18 4 : Int) = d.2 % (1024 * 65536) ∧ pfld f.payload 0x20 8 = a.1 % 2 ^ 64 ∧
          (pfld f.payload 0x28 8 : Int) = a.2 / 65536 % 2 ^ 64 ∧ (pfld f.payload 0x30 2 : Int) = a.2 % 65536) ∧
    (∀ b x f, stampFrame s b = some f →
      (stampReady s b cls x true = true → answers (.stamp b cls x true) s fun u => u = takeFrame b f s) ∧
      (stampReady s b cls x false = true → s.time.announcing = true ∨ parentBundle s ≠ some b → answers (.stamp b cls x false) s fun u => u = takeFrame b f s) ∧
      (stampReady s b cls x false = true → s.time.announcing = false → parentBundle s = some b → answers (.stamp b cls x false) s fun u =>
        u.time.offset = offsetOf (theta2 x) ∧ u.time.lastUse = upBeat s ∧ u.time.holdFrom = none ∧
        (∀ k, s.time.keeper = some k → u.time.keeper = some { k with cls := cls }) ∧
        ((theta2 x).natAbs ≤ 2 * 16 * 65536 → u.time.st = 2 ∧ u.time.unsync = false ∧ u.time.split = s.time.split ∧ u.time.step = none ∧
          u.time.rate * (theta2 x).sign ≤ 0 ∧ u.time.rate.natAbs ≤ 200000 ∧
          u.time.streak = if (theta2 x).natAbs ≤ 2 * 2 * 65536 then s.time.streak + 1 else 0) ∧
        (2 * 16 * 65536 < (theta2 x).natAbs → u.time.split = true ∧ u.time.unsync = true ∧ u.time.streak = 0 ∧ u.steward.intStatus.getLsbD 7 = true) ∧
        (2 * 16 * 65536 < (theta2 x).natAbs → (theta2 x).natAbs ≤ 2 * 512 * 65536 → u.time.step = none ∧ u.time.st = 2) ∧
        (2 * 512 * 65536 < (theta2 x).natAbs →
          u.time.step = some ⟨stepBeats (theta2 x), theta2 x - 2 * 1024 * 65536 * stepBeats (theta2 x), upBeat s, false⟩))) ∧
    (∀ k, s.time.step = some k → k.since < upBeat s → answers .timeStep s fun u => u.time.ticks = (((s.time.ticks : Int) - 1024 * k.beats) % 2 ^ 64).toNat ∧
      u.time.atime = u.time.ticks ∧ u.time.step = none ∧ u.time.stepped = true ∧ u.time.up = s.time.up ∧ u.steward.intStatus.getLsbD 7 = true ∧
      u.time.rate * k.left.sign ≤ 0 ∧ u.time.rate.natAbs ≤ 200000 ∧
      (k.ref = false → u.time.st = 2) ∧ (k.ref = true → u.time.st = s.time.st))

/-- Holdover, the reference, and the latching read. -/
def Obligations.TimeHoldsAndLocks : Prop :=
  ∀ s : State,
    (s.time.keeper.isSome = true → s.time.announcing = false → s.time.st ≠ 3 → s.time.lastUse + 64 ≤ upBeat s → answers .holdoverEntry s fun u =>
      u.time.st = 3 ∧ u.time.holdFrom = some (s.time.up, decide (16 ≤ s.time.streak)) ∧ u.time.rate = s.time.rate ∧ u.time.ticks = s.time.ticks) ∧
    (boundExceeded s = true → s.time.unsync = false → answers .holdoverBoundExceeded s fun u => u.time.split = true ∧ u.time.unsync = true ∧ u.time.st = s.time.st ∧
      u.time.step = s.time.step ∧ u.steward.intStatus.getLsbD 7 = true) ∧
    (∀ edge stamp a, s.time.running = true → s.time.refEn = true → timeInOn s = true → stamp = pulseStamp s edge →
      a = stamp - (match s.time.step with | some k => 1024 * k.beats | none => 0) →
      answers (.referencePulse edge) s fun u => u.time.pulse = some (stamp, s.time.up) ∧ u.time.setOn = false ∧ u.time.st = s.time.st ∧
        u.time.lastUse = s.time.lastUse ∧ u.time.holdFrom = s.time.holdFrom ∧
        (s.time.refLock = true ∨ pulseSpaced s.time stamp = true → u.time.refLock = true ∧ u.time.refGone = false) ∧
        (s.time.refLock = false → pulseSpaced s.time stamp = false → u.time.refLock = false) ∧
        (s.time.setOn = true → u.time.pulseBase = s.time.setTime ∧ u.time.offset = offsetOf (2 * 65536 * (a - s.time.setTime))) ∧
        (s.time.setOn = false → u.time.pulseBase = s.time.pulseBase) ∧
        (s.time.setOn = false → s.time.refLock = true ∨ pulseSpaced s.time stamp = true → u.time.offset = offsetOf (2 * 65536 * pulseOffset s.time a)) ∧
        (s.time.setOn = false → s.time.refLock = false → pulseSpaced s.time stamp = false → u.time.offset = s.time.offset ∧ u.time.rate = s.time.rate)) ∧
    (s.time.refEn = true → s.time.refGone = false → 3 * s.time.period ≤ 2 * (s.time.up - pulseSince s.time) → answers .refLost s fun u =>
      u.time.refLock = false ∧ u.time.refGone = true ∧ u.time.refLost = true ∧ u.steward.intStatus.getLsbD 7 = true) ∧
    (∀ tag sub frac, (s.time.running = true → answers (.timeNowLo tag sub frac) s fun u => ∀ t, t = timeAt s.time sub frac →
        regAnswered u tag 0 (leBytes 4 t.1) ∧ u.time.latchHi = t.1 / 2 ^ 32 % 2 ^ 32 ∧ u.time.latchFrac = t.2 ∧
        u.time.ticks = t.1 ∧ u.time.frac = t.2 ∧ s.time.ticks ≤ u.time.ticks) ∧
      (s.time.running = false → answers (.timeNowLo tag sub frac) s fun u => regAnswered u tag 0 (leBytes 4 0) ∧ u.time = s.time))

/-- The governor. -/
def Obligations.GovernorActs : Prop :=
  ∀ s : State,
    (∀ tele, s.time.running = true → s.power.ivCount < 16 → 4 ≤ tele.samples.length → answers (.controlInterval tele) s fun u =>
      u.power.ivCount = s.power.ivCount + 1 ∧ u.power.wSum = s.power.wSum + drawOf tele ∧
      u.power.vcore ≤ s.power.vcore + 1 ∧ s.power.vcore ≤ u.power.vcore + 1 ∧ (s.power.vMoved = true → u.power.vcore = s.power.vcore) ∧ u.power.vMoved = true ∧
      (∀ high, high = (decide (8 * capOf s < drawOf tele) || decide (8 * capOf s < forecastDraw s) ||
          decide (64 * (8 * capOf s) < s.power.draws.sum + (s.power.wSum + drawOf tele) / (s.power.ivCount + 1))) →
        (high = false → u.power.capStep = s.power.capStep - 1) ∧
        (high = true → s.power.capStep ≤ 7 → s.power.capStep ≤ u.power.capStep ∧ u.power.capStep ≤ s.power.capStep + 1)) ∧
      (∀ h, h < s.params.halls → ∀ tj : Int, tj = tele.hallTj.getD h 0 → (hallPow u h).ivAmps = teleHall tele h ∧ (hallPow u h).tj = tj ∧
        (hallPow u h).throttle = (hallPow s h).throttle ∧
        (tj > (s.power.cfg.tjHot : Int) → (hallPow u h).hot = true) ∧ (tj < (s.power.cfg.tjHot : Int) - 3 → (hallPow u h).hot = false) ∧
        (112 ≤ tj → (hallPow u h).crit = true ∧ u.power.thermCrit = true) ∧ (tj < 108 → (hallPow u h).crit = false)) ∧
      ((∃ h, h < s.params.halls ∧ 120 ≤ tele.hallTj.getD h 0) → u.power.tripped = true ∧
        (s.power.tripped = false → u.seq.trips = s.seq.trips ++ [(2, upBeat s)] ∧
          ∀ t, taskOf s t.num = some t → t.state = .launched → t.halting = false → halts u t.num 0x0C01))) ∧
    (∀ room unit, room / 16 < s.params.halls → gapOn s room unit = true → answers (.gapFillEnd room unit) s fun u => gapOn u room unit = false ∧
      (hallBusy u (room / 16) = false → (hallPow s (room / 16)).ramp = .none →
        (hallPow u (room / 16)).ramp = .hold (s.power.cfg.floor * iPre (hallPow s (room / 16)) / 100) (upBeat s + 1)) ∧
      (hallBusy u (room / 16) = true → hallPow u (room / 16) = hallPow s (room / 16)) ∧
      ((hallPow s (room / 16)).ramp ≠ .none → hallPow u (room / 16) = hallPow s (room / 16))) ∧
    (∀ hall level start, hall < s.params.halls → (hallPow s hall).ramp = .hold level start → start + s.power.cfg.hold ≤ upBeat s →
      answers (.barrierHoldEnd hall) s fun u => (hallPow u hall).ramp = .down level (upBeat s)) ∧
    (∀ hall t level, hall < s.params.halls → preRampReady s hall = true → nextRise s hall = some (t, level) →
      answers (.preRampStart hall) s fun u => (hallPow u hall).ramp = .pre (hallPow s hall).ivAmps level (upBeat s) t)

/-- Repairs. -/
def Obligations.RepairsRun : Prop :=
  ∀ (s : State) (kind index : Nat),
    (unitExists s kind index = true → repairReady s kind index = true → ∀ a, attribOf s kind index = some a →
      answers (.repair kind index) s fun u =>
        (s.shell.snap.frozen = true → s.shell.snap.ending = none → u.shell.snap.ending = some (upBeat s) ∧ u.health = s.health ∧ u.steward = s.steward) ∧
        (s.shell.snap.frozen = false → u.health.attribs = s.health.attribs.erase a ∧ u.steward.healthSt = 2 ∧
          (∃ r ∈ u.health.repairs, r.kind = kind ∧ r.index = index ∧ r.stage = 1 ∧ r.code = a.code ∧ r.beat = upBeat s) ∧
          (∀ t, taskOf s t.num = some t → t.state = .launched → t.halting = false →
            (a.task = some t.num ∨ ∃ r, unitRoom s kind index = some r ∧ r ∈ t.rooms) → halts u t.num a.code))) ∧
    (unitExists s kind index = true → ∀ r found, repairAt s kind index 1 = some r → repairHalted s r = true →
      answers (.diagnosisComplete kind index found) s fun u =>
        (found ≠ [] → kind ∈ [1, 2, 7] → { r with stage := 3, acts := findingActs s kind index found } ∈ u.health.repairs ∧ u.health.map = s.health.map) ∧
        (found ≠ [] → kind = 4 → (unitOf u 4 index).service = 3) ∧
        (found = [] → kind ∉ [3, 5, 6] → (transientsNow s kind index).length < s.health.transLimit →
          { r with stage := 3, acts := [] } ∈ u.health.repairs ∧ u.health.transient = true ∧ u.health.evTrans = satInc 255 s.health.evTrans ∧
            (unitOf u kind index).transients = hourOf s :: transientsNow s kind index)) ∧
    (unitExists s kind index = true → ∀ r, repairAt s kind index 3 = some r → answers (.repairMappingEffect kind index) s fun u =>
      repairAt u kind index 3 = none ∧ u.health.evRepairs = satInc 255 s.health.evRepairs ∧ u.health.recDue = true ∧
      (∀ room ∈ r.rooms, (roomOf u room).fault = none) ∧
      (∀ m x, r.acts = [.row m x] → tabGet 0 u.health.map.rowMap m = x + 1 ∧ u.health.spareUsed = true) ∧
      (∀ m x, r.acts = [.col m x] → tabGet 0 u.health.map.colMap m = x + 1 ∧ u.health.spareUsed = true) ∧
      (∀ h l, r.hall = some h → r.acts = [.spare l] → tabGet 0 u.health.map.roomMap (16 * h + l) = 17 ∧ u.health.spareUsed = true) ∧
      (∀ h l, r.hall = some h → r.acts = [.retire l] → tabGet 16 u.offered h = tabGet 16 s.offered h - 1 ∧ u.health.exhausted = true) ∧
      (∀ i, r.acts = [.chuteOff i] → i ∈ u.health.map.chuteOff ∧ u.health.exhausted = true) ∧
      (∀ m x y, r.acts = [.row m x, .col m y] → tabGet 0 u.health.map.rowMap m = x + 1 ∧ tabGet 0 u.health.map.colMap m = y + 1) ∧
      (r.acts = [] → u.health.map = s.health.map)) ∧
    (s.steward.up = true → s.health.map.coreFail = none → s.health.beatHb + 4 ≤ upBeat s → answers .heartbeat s fun u => u.health.beatHb = upBeat s ∧
      u.health.map = s.health.map ∧ u.steward = s.steward) ∧
    (takeoverReady s = true → answers .stewardTakeover s fun u => u.health.map.coreFail = some 0 ∧ u.steward.standby = true ∧ u.steward.staged = [] ∧
      u.health.beatHb = upBeat s ∧ u.health.recDue = true ∧ u.health.spareUsed = true ∧
      (∀ m w, (mbox s m).executing = some w → (s.steward.staged.any (fun x => x.mbox == m) = true → answered s u m w 0x0110 []) ∧
        (s.steward.staged.any (fun x => x.mbox == m) = false → keepAnswers s m = false → answered s u m w 0x0113 [])) ∧
      (∀ t, taskOf s t.num = some t → t.state = .launched → t.halting = false → halts u t.num 0x0D03))

/-- Wear and replacement. -/
def Obligations.WearAndReplacement : Prop :=
  ∀ (s : State),
    (s.time.running = true → ∀ xs : List WearSample, answers (.wearPrediction xs) s fun u =>
      (∀ a x b, xs = a ++ x :: b → (∀ y ∈ a ++ b, unitKey y.kind y.index ≠ unitKey x.kind x.index) → unitExists s x.kind x.index = true →
        (unitOf u x.kind x.index).wear = x.wear ∧ (unitOf u x.kind x.index).samples = (x.wear :: (unitOf s x.kind x.index).samples).take 1000 ∧
          (unitOf u x.kind x.index).life = lifeOf x.kind x.index (unitOf u x.kind x.index).samples) ∧
      (∀ k i, (∀ y ∈ xs, unitKey y.kind y.index ≠ unitKey k i) → unitOf u k i = unitOf s k i)) ∧
    (∀ bank mv, s.time.running = true → unitExists s 4 bank = true → answers (.marginRowTest bank mv) s fun u => tabGet 0 u.health.margins bank = mv ∧
      (unitOf u 4 bank).wear = mv) ∧
    (∀ kind index, unitExists s kind index = true → replaceReady s kind index = true → answers (.proactiveReplacement kind index) s fun u =>
      u.health.replaceQ = s.health.replaceQ.erase (kind, index) ∧
      (hasSpare s kind index = false → u.health = { s.health with replaceQ := s.health.replaceQ.erase (kind, index) }) ∧
      (hasSpare s kind index = true → kind ≠ 5 → (kind, index) ∈ u.health.replacing) ∧
      (hasSpare s kind index = true → kind = 5 → u.health.evProact = satInc 255 s.health.evProact ∧ u.health.spareUsed = true ∧
        ∃ w ∈ u.links.swaps, w.gate = index / 26 ∧ w.old = index % 26 ∧ w.lane = (portOf s (index / 26) (index % 26)).logical)) ∧
    (∀ kind index, unitExists s kind index = true → (kind, index) ∈ s.health.replacing → answers (.replacementEnd kind index) s fun u =>
      u.health.replacing = s.health.replacing.erase (kind, index) ∧ u.health.evProact = satInc 255 s.health.evProact ∧ u.health.recDue = true ∧
      (kind ≠ 2 → ∀ l, servedBy s (index / 17) (index % 17) = some l → tabGet 0 u.health.map.roomMap (16 * (index / 17) + l) = 17 ∧ u.health.spareUsed = true) ∧
      (kind = 2 → tabGet 0 s.health.map.rowMap index = 0 → ∃ r, r < 129 ∧ tabGet 0 u.health.map.rowMap index = r + 1) ∧
      (kind = 2 → tabGet 0 s.health.map.rowMap index ≠ 0 → ∃ c, c < 33 ∧ tabGet 0 u.health.map.colMap index = c + 1))

/-- Power-up. -/
def Obligations.SequencerPowersUp : Prop :=
  ∀ s : State,
    (s.seq.step = .dead → answers .vauxGood s fun u => u.seq.step = .wait ∧ u.seq.cold = true ∧ u.seq.trigger = 0 ∧ u.seq.req = s.seq.req ∧ u.steward = s.steward) ∧
    (∀ r, nextRail s.seq = some r → answers .railRequest s fun u => u.seq.req = railSet s.seq.req r ∧
      (railOn s.seq.good r = false → u.seq.step = .rise r) ∧ (railOn s.seq.good r = true → u.seq.step = .gap r)) ∧
    (∀ r, isRail r = true → s.seq.step ≠ .dead → railOn s.seq.good r = false → answers (.railGoodRise r) s fun u => u.seq.good = railSet s.seq.good r ∧
      (s.seq.step = .rise r → u.seq.step = .gap r) ∧ (s.seq.step ≠ .rise r → u.seq.step = s.seq.step)) ∧
    (awaitsGood s.seq = true → answers .railTimeout s fun u => u.seq.req = 0 ∧ u.steward.phase = 7 ∧ u.seq.step = .failed ∧ u.steward.up = false ∧ u.seq.pending = 3 ∧
      u.seq.failCount = failNext s ∧ u.seq.fail = if failNext s = 3 then 4 else 1) ∧
    (∀ serial key pins, s.seq.step = .gap 3 → answers (.hardPartResetRelease serial key pins) s fun u => u.steward.phase = 1 ∧ u.seq.step = .run ∧
      u.time = { timeReset with running := true } ∧ u.steward.serial = serial ∧ u.steward.keyHash = key ∧ u.side.strap = pins ∧ u.seq.req = s.seq.req ∧
      u.store = storeReset ∧ u.steward.up = false) ∧
    (firmwareReady s = true → answers .firmwareVerified s fun u =>
      (chooseFw s = none → u.steward.phase = 7 ∧ u.seq.step = .failed ∧ u.seq.fail = 2 ∧ u.steward.up = false) ∧
      (∀ n f, chooseFw s = some (n, f) → u.steward.up = true ∧ u.shell.keep.fwSlot = n ∧ u.shell.keep.failedSlot = f ∧
        (s.seq.stewardOnly = false → u.steward.phase = 2 ∧ u.fabric.rank = storedRank s) ∧ (s.seq.stewardOnly = true → u.steward.phase = 1))) ∧
    (∀ units stages failed iFull, failed = testFailures units stages → s.seq.step = .run → s.steward.phase = 2 → ∀ fatal, fatal = failed.any (fun f => fatalStage (clearStores (restoreMap s)) f.1) →
      answers (.selfTestComplete units stages iFull) s fun u =>
      (fatal = true → u.steward.phase = 7 ∧ u.seq.fail = 3 ∧ u.seq.step = .failed) ∧
      (fatal = false → u.steward.phase = (if s.params.gatehouses = 0 then 4 else 3) ∧ u.health.firstTest = true ∧
        (failed = [] → u.store = clearedStore { s.store with relocs := u.health.map.relocs } ∧
          u.health.map = (if s.health.recAbsent then mappingZero else (newestHolds s.shell.keep 4 s.health.saved).getD mappingZero)))) ∧
    (engineReadyDue s = true → answers .engineReady s fun u => u.steward.phase = 5 ∧ u.seq.failCount = 0 ∧ u.seq.stewardOnly = false ∧ u.seq.step = s.seq.step ∧
      (s.seq.stewardOnly = true → u.store = clearedStore s.store) ∧ (s.seq.stewardOnly = false → u.store = s.store)) ∧
    (wakeReady s = true → answers .wake s fun u => u.seq.trigger = 9 ∧ stateLost s u ∧
      (s.seq.step = .failed → s.seq.req ≠ 0 → u.seq.step = .settle ∧ u.seq.req = 0 ∧ u.seq.pending = 2) ∧
      (s.seq.step = .held ∨ s.seq.req = 0 → u.seq.step = .wait ∧ u.seq.pending = 0 ∧ u.seq.cold = false))

/-- Power-down. -/
def Obligations.SequencerPowersDown : Prop :=
  ∀ s : State,
    (answers .supplyWarn s fun u => u.seq.warn = true ∧ u.seq.lowMs = false ∧
      (s.seq.step = .run → s.seq.pd = none → s.seq.trips.any (fun x => x.1 == 1) = false → u.seq.trips = s.seq.trips ++ [(1, upBeat s)]) ∧
      (s.seq.step = .run → s.seq.pd = none → s.seq.trips.any (fun x => x.1 == 1) = true → u.seq.trips = s.seq.trips) ∧
      (s.seq.step = .run → s.seq.pd ≠ none → u.seq.pending = worse s.seq.pending 1) ∧
      (∀ r, s.seq.step = .rise r ∨ s.seq.step = .gap r → u.seq.trigger = 1 ∧ u.seq.pending = 1 ∧ dropsNext s.seq s u) ∧
      (s.seq.step = .wait → u.seq.step = .wait ∧ u.seq.req = s.seq.req)) ∧
    (answers .supplyWarnLow s fun u => u.seq.warn = false ∧ u.seq.lowMs = true ∧
      (s.seq.step = .held → s.seq.pending = 1 → s.seq.shellRst = false → u.seq.step = .wait ∧ u.seq.pending = 0) ∧
      (s.seq.step ≠ .held → u.seq.step = s.seq.step ∧ u.seq.pending = s.seq.pending)) ∧
    (powerDownReady s = true → answers .powerDownStart s fun u => u.steward.phase = 6 ∧ u.seq.trips = [] ∧ u.seq.trigger = (s.seq.trips.map (·.1)).headD 1 ∧
      u.seq.pd = some ⟨upBeat s, (s.seq.trips.map (·.1)).all (· == 1), 0, false, false⟩ ∧ u.seq.flushed = false ∧ u.steward.staged = [] ∧
      u.seq.pending = (s.seq.trips.map (·.1)).foldl (fun p c => worse p (actionOf c)) 0 ∧
      ∀ t, taskOf s t.num = some t → t.state = .launched → t.halting = false → halts u t.num (if (s.seq.trips.map (·.1)).contains 2 then 0x0C01 else 0x0E01)) ∧
    (cancelReady s = true → answers .powerDownCancel s fun u => u.steward.phase = 5 ∧ u.seq.pd = none ∧ u.seq.pending = 0 ∧ u.seq.cancelled = true ∧
      u.steward.intStatus.getLsbD 10 = true) ∧
    (noReturnReady s = true → answers .pointOfNoReturn s fun u => (∀ p, s.seq.pd = some p → u.seq.pd = some { p with past := true }) ∧ u.steward.up = false ∧
      u.host.txq = [] ∧ u.host.evts = [] ∧ u.host.held = [] ∧ u.host.waitq = [] ∧
      (rankUnsaved s = false → u.shell.keep.writes.map (·.item) = [4]) ∧ (rankUnsaved s = true → u.shell.keep.writes.map (·.item) = [4, 3])) ∧
    (∀ r, isRail r = true → railOn s.seq.good r = true → railOn s.seq.req r = false → answers (.railGoodFall r) s fun u => u.seq.good = railOff s.seq.good r ∧
      (s.seq.step = .drop r → dropsNext s.seq s u) ∧ (s.seq.step ≠ .drop r → u.seq.step = s.seq.step ∧ u.seq.req = s.seq.req)) ∧
    (∀ r, s.seq.step = .drop r → answers .railDropTimeout s fun u => u.seq.good = s.seq.good ∧ dropsNext s.seq s u) ∧
    (s.seq.step = .settle → answers .powerDownSettle s fun u =>
      (s.seq.pending = 2 → u.seq.step = .wait ∧ u.seq.pending = 0) ∧ (s.seq.pending = 3 → u.seq.step = .held ∧ u.seq.pending = 3) ∧
      (s.seq.pending = 1 → s.seq.lowMs = true → s.seq.shellRst = false → u.seq.step = .wait ∧ u.seq.pending = 0) ∧
      (s.seq.pending = 1 → s.seq.lowMs = false ∨ s.seq.shellRst = true → u.seq.step = .held ∧ u.seq.pending = 1))

/-- Collapses. -/
def Obligations.FailuresCollapseTheRails : Prop :=
  ∀ s : State,
    (∀ r, isRail r = true → railFailReady s r = true → answers (.railFailure r) s fun u => u.seq.req = 0 ∧ stateLost s u ∧ u.seq.trigger = 7 ∧ u.seq.rail = r ∧
      u.seq.good = railOff s.seq.good r ∧ (s.seq.pd ≠ none → u.seq.abandoned = true) ∧
      (s.seq.rising = false → s.seq.step ≠ .failed → u.seq.step = .settle ∧ u.steward.phase = 0 ∧ u.seq.pending = worse s.seq.pending 1) ∧
      (s.seq.step = .failed → u.seq.step = .failed ∧ u.steward.phase = 7 ∧ u.seq.pending = 3)) ∧
    (answers .shellReset s fun u => u.seq.shellRst = true ∧
      (hardUp s = true → u.seq.req = 0 ∧ stateLost s u ∧ u.seq.trigger = 8 ∧ (s.seq.step = .run → u.seq.step = .settle ∧ u.steward.phase = 0)) ∧
      (hardUp s = false → u = { s with seq := { s.seq with shellRst := true } })) ∧
    (answers .shellResetRelease s fun u => u.seq.shellRst = false ∧
      (s.seq.step = .held → s.seq.pending = 1 → s.seq.lowMs = true → u.seq.step = .wait ∧ u.seq.pending = 0) ∧ (s.seq.step ≠ .held → u.seq.step = s.seq.step)) ∧
    (s.seq.step ≠ .dead → answers .vauxGoodFall s fun u => u.seq = { seqReset with warn := s.seq.warn, shellRst := s.seq.shellRst } ∧ stateLost s u ∧ u.steward.phase = 0)

/-- Host traffic. -/
def Obligations.HostTrafficActs : Prop :=
  ∀ s : State,
    (∀ tag status data, 4 ≤ status → answers (.hostResponse tag status data) s fun u => u = { s with host := { s.host with ferr := satInc 255 s.host.ferr } }) ∧
    (∀ tag status data r, status < 4 → reqOf s tag = some r → answers (.hostResponse tag status data) s fun u =>
      (∀ m, r.purpose = .reqFetch m → (mbox u m).fetching = false ∧
        (status = 0 → (mbox u m).arrived = some (bytesWord data) ∧ (mbox u m).reqHead = (mbox s m).reqHead + 1) ∧ (status ≠ 0 → (mbox u m).st = 2 ∧ (mbox u m).haltCause = 2)) ∧
      (∀ m, r.purpose = .rspWrite m → (status = 0 → (mbox u m).rspAcked = true) ∧
        (status ≠ 0 → (mbox s m).enable = true → (mbox u m).rsp = none ∧ (mbox u m).st = 2 ∧ (mbox u m).haltCause = 3) ∧
        (status ≠ 0 → (mbox s m).enable = false → (mbox u m).rsp = none ∧ (mbox u m).st = 0)) ∧
      (∀ q x, r.purpose = .descFetch q → queueOf s q = some x → x.state = 0 →
        (status = 0 → queueOf u q = some { x with fetching := none, arrived := some (bytesWord data) }) ∧
        (status ≠ 0 → (ctxOf s x.ctx).state = 0 → x.ctx ≠ 0 → (ctxOf u x.ctx).state = 1 ∧ (ctxOf u x.ctx).fault = 0x0222 ∧ (ctxOf u x.ctx).faultQueue = q)) ∧
      (∀ n t, r.purpose = .recordWrite n → taskOf s n = some t →
        (status = 0 → taskOf u n = some { t with record := .acked }) ∧
        (status ≠ 0 → (∃ v, taskOf u n = some v ∧ v.state = t.state ∧ v.status = t.status) ∧
          ((ctxOf s t.ctx).state = 0 → t.ctx ≠ 0 → (ctxOf u t.ctx).state = 1 ∧ (ctxOf u t.ctx).fault = 0x0225 ∧ (ctxOf u t.ctx).faultQueue = t.queue))) ∧
      (∀ own, r.purpose = .fill own → status = 0 → ∃ l ∈ u.host.porch, l.addr = r.addr ∧ (own = false → l.data = data ∧ l.modified = false) ∧
        (own = true → l.data = heldData r.addr s.host.held data))) ∧
    (∀ tag status data, status < 4 → reqOf s tag = none → isLate s tag = true → answers (.hostResponse tag status data) s fun u =>
      u.host.lateRsp = satInc 255 s.host.lateRsp ∧ isLate u tag = false ∧ u.host.out = s.host.out) ∧
    (∀ tag status data, status < 4 → reqOf s tag = none → isLate s tag = false → answers (.hostResponse tag status data) s fun u => u = s) ∧
    (∀ tag, timeoutReady s tag = true → answers (.requestTimeout tag) s fun u => u.host.timeouts = satInc 65535 s.host.timeouts ∧
      (tag, s.time.up + 4000 * s.host.timeout) ∈ u.host.late) ∧
    (∀ tag x, x ∈ s.host.late → x.1 = tag → x.2 ≤ s.time.up → answers (.tagRelease tag) s fun u => isLate u tag = false) ∧
    (answers .ferrDiscard s fun u => u = { s with host := { s.host with ferr := satInc 255 s.host.ferr } }) ∧
    (∀ vn n, answers (.hpTxCredit vn n) s fun u => (∀ m, told s m → told u m) ∧
      (s.host.txq = [] → s.host.evts = [] → tabGet 0 u.host.credit (vn % 4) = tabGet 0 s.host.credit (vn % 4) + n)) ∧
    (∀ tag, (answers (.reservedHostMessage true tag) s fun u => regAnswered u tag 1 []) ∧
      (answers (.reservedHostMessage false tag) s fun u => u = { s with host := { s.host with ferr := satInc 255 s.host.ferr } })) ∧
    (∀ tag addr c, c ∈ [Instr.snoopInvalidate tag addr, .snoopShare tag addr] → answers c s fun u =>
      (∀ l, porchLine s.host addr = some l → l.modified = true → told u ⟨1, 0x30, tag, 0, 2, 0, l.data.length / 64, l.data⟩) ∧
      (∀ l, porchLine s.host addr = some l → l.modified = false → told u ⟨1, 0x30, tag, 0, 1, 0, 0, []⟩) ∧
      (porchLine s.host addr = none → told u ⟨1, 0x30, tag, 0, if backInFlight s addr then 3 else 0, 0, 0, []⟩) ∧
      (c = .snoopInvalidate tag addr → ∀ l ∈ u.host.porch, l.addr ≠ addr) ∧ (c = .snoopShare tag addr → ∀ l ∈ u.host.porch, l.addr = addr → l.modified = false))

/-- Registers. -/
def Obligations.HostRegistersAct : Prop :=
  ∀ s : State, s.seq.step ≠ .dead →
    (∀ tag off v, off % 4 = 0 → ∀ lo, lo = BitVec.ofNat 32 (BitVec.toNat (w := 64) v) → answers (.hostRegisterWrite tag off 4 v) s fun u =>
      (isReg s.params off = true → stewardOnly off = false → regAnswered u tag 0 []) ∧
      (isReg s.params off = false → regAnswered u tag 1 []) ∧ (hardUp s = true → stewardOnly off = true → regAnswered u tag 1 []) ∧
      (isReg s.params off = false ∨ stewardOnly off = true → u.steward = s.steward ∧ u.store = s.store ∧ u.shell = s.shell ∧ u.time = s.time ∧ u.power = s.power ∧
        u.pace = s.pace ∧ u.health = s.health ∧ u.seq = s.seq ∧ u.links = s.links) ∧
      (hardUp s = false → u.steward = s.steward ∧ u.time = s.time ∧ u.power = s.power ∧ u.pace = s.pace ∧ u.health = s.health) ∧
      (off = 0x40504 → u.seq = { s.seq with abandoned := s.seq.abandoned && !lo.getLsbD 3, cancelled := s.seq.cancelled && !lo.getLsbD 2 }) ∧
      (hardUp s = true → off = 0x40104 → u.pace = { s.pace with
        syncLate := s.pace.syncLate && !lo.getLsbD 18, limitMiss := s.pace.limitMiss && !lo.getLsbD 17, belowFloor := s.pace.belowFloor && !lo.getLsbD 16 }) ∧
      (hardUp s = true → off = 0x4020C → u.time = { s.time with
        stepped := s.time.stepped && !lo.getLsbD 19, split := s.time.split && !lo.getLsbD 18, refLost := s.time.refLost && !lo.getLsbD 17 }) ∧
      (hardUp s = true → off = 0x4030C → u.power = { s.power with
        capLimited := s.power.capLimited && !lo.getLsbD 17, hallLimited := s.power.hallLimited && !lo.getLsbD 16, thermHot := s.power.thermHot && !lo.getLsbD 15,
        thermCrit := s.power.thermCrit && !lo.getLsbD 14, rise := s.power.rise && !lo.getLsbD 13 }) ∧
      (hardUp s = true → off = 0x40408 → u.health = { s.health with
        spareUsed := s.health.spareUsed && !lo.getLsbD 2, transient := s.health.transient && !lo.getLsbD 1, exhausted := s.health.exhausted && !lo.getLsbD 0 }) ∧
      (hardUp s = true → off = 0x40700 → u.steward = { s.steward with intStatus := s.steward.intStatus &&& ~~~lo }) ∧
      (hardUp s = true → off = 0x40800 → u.host.timeout = if 10 ≤ lo.toNat % 65536 ∧ lo.toNat % 65536 ≤ 10000 then lo.toNat % 65536 else s.host.timeout)) ∧
    (∀ tag v, answers (.intEnable tag v) s fun u => regAnswered u tag 0 [] ∧
      u.steward = if hardUp s then { s.steward with intEnable := BitVec.ofNat 32 (v.toNat % 8) } else s.steward) ∧
    (∀ tag, answers (.paceEvents tag) s fun u => regAnswered u tag 0 (leBytes 4 (s.pace.missBeats * 2 ^ 16 + s.pace.floorBeats)) ∧
      u.pace = { s.pace with missBeats := 0, floorBeats := 0 }) ∧
    (∀ tag h, answers (.storeErrCount tag h) s fun u =>
      (h < s.params.halls → ∀ c, c = tabGet errCountZero s.store.errCount h → regAnswered u tag 0 (leBytes 4 (c.corrected * 2 ^ 16 + c.uncorrectable * 2 ^ 8 + c.poisonHits)) ∧
        tabGet errCountZero u.store.errCount h = errCountZero ∧ ∀ k, k ≠ h → tabGet errCountZero u.store.errCount k = tabGet errCountZero s.store.errCount k) ∧
      (s.params.halls ≤ h → regAnswered u tag 1 (leBytes 4 0) ∧ u.store = s.store)) ∧
    (∀ tag, answers (.fabricDrops tag) s fun u => ∀ d, d = s.fabric.drops →
      regAnswered u tag 0 (leBytes 4 (d.badHeader * 2 ^ 24 + d.hopsOut * 2 ^ 16 + d.noRoute * 2 ^ 8 + d.staleFlow)) ∧ u.fabric = { s.fabric with drops := ⟨0, 0, 0, 0⟩ }) ∧
    (∀ tag g p, p < 32 →
      (portThere s g p = true → ∀ x v, x = portOf s g p → v = x.corrected * 2 ^ 32 + x.uncorr * 2 ^ 16 + x.slotsLost * 2 ^ 8 + x.replays * 2 ^ 4 + x.badBlocks →
        (answers (.linkPortCounts tag g p) s fun u => regAnswered u tag 0 (leBytes 8 v) ∧
          portOf u g p = { x with corrected := 0, uncorr := 0, slotsLost := 0, replays := 0, badBlocks := 0 }) ∧
        (answers (.linkPortCounts tag g (32 + p)) s fun u => regAnswered u tag 0 (leBytes 4 (v % 2 ^ 32)) ∧
          portOf u g p = { x with uncorr := 0, slotsLost := 0, replays := 0, badBlocks := 0 }) ∧
        (answers (.linkPortCounts tag g (64 + p)) s fun u => regAnswered u tag 0 (leBytes 4 (v / 2 ^ 32)) ∧ portOf u g p = { x with corrected := 0 })) ∧
      (portThere s g p = false →
        (answers (.linkPortCounts tag g p) s fun u => regAnswered u tag 1 (leBytes 8 0) ∧ u.links = s.links) ∧
        ∀ half, half = 1 ∨ half = 2 → answers (.linkPortCounts tag g (32 * half + p)) s fun u => regAnswered u tag 1 (leBytes 4 0) ∧ u.links = s.links)) ∧
    (∀ tag, answers (.powerEvents tag) s fun u =>
      regAnswered u tag 0 (leBytes 4 (s.power.capBeats * 2 ^ 24 + s.power.hallBeats * 2 ^ 16 + s.power.thermBeats * 2 ^ 8 + s.power.rises)) ∧
      u.power = { s.power with capBeats := 0, hallBeats := 0, thermBeats := 0, rises := 0 }) ∧
    (∀ tag, answers (.healthEvents tag) s fun u =>
      regAnswered u tag 0 (leBytes 4 (s.health.evRepairs * 2 ^ 24 + s.health.evTrans * 2 ^ 16 + s.health.evProact * 2 ^ 8 + s.health.evRequeue)) ∧
      u.health = { s.health with evRepairs := 0, evTrans := 0, evProact := 0, evRequeue := 0 }) ∧
    (∀ tag, answers (.hpErrors tag) s fun u => regAnswered u tag 0 (leBytes 4 (s.host.timeouts * 2 ^ 16 + s.host.lateRsp * 2 ^ 8 + s.host.ferr)) ∧
      u.host.timeouts = 0 ∧ u.host.lateRsp = 0 ∧ u.host.ferr = 0) ∧
    (∀ tag levels, answers (.sbStatus tag levels) s fun u =>
      (hardUp s = true → regAnswered u tag 0 (leBytes 4 (s.side.traceLost * 2 ^ 24 + levels.toNat % 2 ^ s.params.sbPins % 2 ^ 16)) ∧ u.side.traceLost = 0 ∧
        u.side.pins = s.side.pins) ∧
      (hardUp s = false → regAnswered u tag 0 (leBytes 4 0) ∧ u.side = s.side)) ∧
    (∀ pin, pin < s.params.sbPins → ∀ x b, s.side.pins[pin]? = some x → x.holdUntil = some b → b ≤ upBeat s → answers (.pinHoldEnd pin) s fun u =>
      u.side.pins[pin]? = some { x with holdUntil := none })

namespace Sys2Proof.Machine

/-- A record that a row's element gives (04 R122): its index is below 2^32, and its word is its value widened to INT32 or to FP32. -/
def realRecord (int : Bool) (x : Rank) : Prop :=
  x.index < 2 ^ 32 ∧
    if int then ∃ i : Int, -2 ^ 31 ≤ i ∧ i < 2 ^ 31 ∧ x.val = vOfInt i ∧ x.word = codeOfInt 32 i else x.word = fp32Code x.val

end Sys2Proof.Machine

/-- Reset. The number of halls is that of the model's reset configuration (log 1). -/
def Obligations.ResetLeaves : Prop :=
  ([0x40100, 0x40104, 0x40108, 0x40200, 0x40204, 0x40208, 0x4020C, 0x40210, 0x40214, 0x40218, 0x4021C, 0x40300, 0x40304, 0x40308, 0x4030C, 0x40310, 0x40400, 0x40404,
    0x40410, 0x40500, 0x40504, 0x40600, 0x40700, 0x40704, 0x40800, 0x40804, 0x40900].map fun off => regRead State.reset off) =
    [0x08040002, 0, 0, 0, 0, 0, 0xFF800000, 0, 0, 0, 0, (200 * 16) * 2 ^ 16 + 0x12C * 2 ^ 7 + 0x28, 0x64 * 2 ^ 24 + 0x10 * 2 ^ 16 + 0x3C * 2 ^ 9 + 0x020,
      0x10 * 2 ^ 22 + 0x0800, 0x14 * 2 ^ 24 + 0xF * 2 ^ 20, 0, 0x03C % 4 * 2 ^ 30 + 0x002D0, 0x03 * 2 ^ 9 + 0x03C / 4, 0, 0, 1, 0, 0, 0, 0x03E8, 0, 0] ∧
  (∀ m, m < 64 → (mbox State.reset m).sizeLog2 = 4 ∧ (mbox State.reset m).notifyEn = true ∧ (mbox State.reset m).enable = false) ∧
  State.reset.steward.phase = 0 ∧ (∀ a, ownEntry State.reset.store a = 0xC000) ∧ State.reset.pending = []

/-- The invariants below hold at reset. -/
def Obligations.ResetMeetsTheInvariants : Prop := memWf State.reset = true ∧ scalarZero State.reset ∧ tagsHeld State.reset ∧ issueOrder State.reset

/-- The canonical form is an invariant of every step. -/
def Obligations.StepKeepsTheStoreCanonical : Prop := ∀ s t : State, memWf s = true → step s = .next t → memWf t = true

/-- The rule of 19 R534 on tags is an invariant of every step. -/
def Obligations.StepKeepsTheTags : Prop := ∀ s t : State, tagsHeld s → step s = .next t → tagsHeld t

/-- Ops of a room start in list order (06 R193, R196) is an invariant of every step. -/
def Obligations.StepKeepsTheOrderOfIssue : Prop := ∀ s t : State, issueOrder s → step s = .next t → issueOrder t

/-- The scalar registers of a room (06 R160). -/
def Obligations.ScalarRegistersFollowTheirRule : Prop :=
  (∀ w : OpWord, (slotFields w).d < 16) ∧
  (∀ (g : Tab (BitVec 32)) (v : BitVec 32) (k : Nat), tabGet 0 (setG g 0 v) k = tabGet 0 g k) ∧
  (∀ (g : Tab (BitVec 32)) (v : BitVec 32) (d k : Nat), d ≠ 0 → tabGet 0 (setG g d v) k = if k = d then v else tabGet 0 g k) ∧
  (∀ (c : Instr) (s t : State), scalarZero s → exec c s = .next t → scalarZero t)

/-- Fabric time (15 R439). -/
def Obligations.FabricTimeMovesByItsRules : Prop :=
  (∀ serial keyHash pins (s : State), s.seq.step = .gap 3 →
    answers (.hardPartResetRelease serial keyHash pins) s fun u => u.time.running = true ∧ u.time.ticks = 0 ∧ u.time.frac = 0) ∧
  (∀ (c : Instr) (s t : State), exec c s = .next t → (t.time.ticks, t.time.frac) ≠ (s.time.ticks, s.time.frac) →
    (∃ m, c = .beatBoundary m) ∨ c = .timeStep ∨ (∃ tag sub frac, c = .timeNowLo tag sub frac) ∨ (t.time.ticks = 0 ∧ t.time.frac = 0))

/-- ENGINE_PHASE 0x7 (18 R513). -/
def Obligations.AStoppedEngineStaysStopped : Prop :=
  ∀ (c : Instr) (s t : State), stopped s → c ≠ .wake → c ≠ .vauxGoodFall → exec c s = .next t → stopped t ∧ t.seq.fail = s.seq.fail

/-- The split and the order of the lists do not show (04 R123). -/
def Obligations.MergedListsRankAsOneRow : Prop :=
  ∀ (int byMag : Bool) (k : Nat) (row : List Rank) (lists : List (List Rank)),
    (∀ x ∈ row, realRecord int x) → (row.map (·.index)).Nodup → row.Perm lists.flatten →
    topK int byMag k (lists.map (topK int byMag k)).flatten = topK int byMag k row

/-- Routes and gatehouses on the grid of halls (01 R22, R26): a route leads from hall to neighbouring hall, is as long as the rows and columns between its ends, and passes no
empty position of a partly filled row; gatehouses attach to halls that exist, no two to one. -/
def Obligations.RoutesStayOnTheGrid : Prop :=
  ∀ (P : Params),
    (∀ a b, a < P.halls → b < P.halls → (route a b).head? = some a ∧ (route a b).getLast? = some b ∧ (∀ h ∈ route a b, h < P.halls) ∧
      (∀ c ∈ routeCrossings a b, neighbours c.1 c.2 = true) ∧ (routeCrossings a b).length = apart (hallRow a) (hallRow b) + apart (hallCol a) (hallCol b)) ∧
    (P.gatehouses ≤ P.halls → ∀ g k, g < P.gatehouses → k < P.gatehouses → gateHall P g < P.halls ∧ (gateHall P g = gateHall P k → g = k))

namespace Sys2Proof.Machine

/-- The requests that change contexts, queues and the engine, each with the first of its effects. -/
def requestsComplete (s : State) (m : Nat) (w : MsgWord) : Prop :=
  (requested s m w 0x10 → ∀ c, (if wfld w 0x0C 2 = 0xFFFF then deadCtx s else some (wfld w 0x0C 2)) = some c → (ctxOf s c).state = 3 →
    apertureOk (wfld w 0x10 8) (wfld w 0x18 8) = true → answers (.ctxCreate m w) s fun u => (ctxOf u c).state = 0 ∧ (ctxOf u c).apBase = wfld w 0x10 8) ∧
  (requested s m w 0x11 → wfld w 0x0C 2 ≠ 0 → (ctxOf s (wfld w 0x0C 2)).state < 2 → answers (.ctxDestroy m w) s fun u => (ctxOf u (wfld w 0x0C 2)).state = 2) ∧
  (requested s m w 0x13 → ∀ c id, c = wfld w 8 2 → ctxRefusal s c = none → queueInAperture s c w = true → c ≠ 0 →
    (s.steward.queues.filter fun q => q.ctx == c).length < 8 → freeQueue s = some id →
    answers (.queueCreate m w) s fun u => queueOf u id = some (newQueue id c w)) ∧
  (requested s m w 0x14 → ∀ q x, q = wfld w 0x0C 2 → ctxRefusal s (wfld w 8 2) = none → queueOf s q = some x → x.ctx = wfld w 8 2 → x.closing = none →
    (∀ t ∈ s.steward.tasks, t.queue = q → t.ctx = wfld w 8 2 → isFinal t = true) → queueSettled s q = true →
    answers (.queueDestroy m w) s fun u => queueOf u q = none) ∧
  (requested s m w 0x37 → wfld w 0x0C 1 = 0 → snapBusy s = false → fabricTask s = false → wfld w 0x0E 2 ≠ 0 → (wfld w 0x10 8 = 0 ∨ beatOf s < wfld w 0x10 8) →
    answers (.snapshotFreeze m w) s fun u => u.shell.snap.pend = true ∧ u.shell.snap.hold = wfld w 0x0E 2) ∧
  (requested s m w 0x37 → wfld w 0x0C 1 = 1 → s.shell.snap.frozen = true → answers (.snapshotRelease m w) s fun u => m ∈ u.shell.snap.relMbox) ∧
  (requested s m w 0x38 → ∀ g p, g = wfld w 0x0C 1 → p = wfld w 0x0D 1 → portThere s g p = true → testable (portOf s g p) = true → wfld w 0x0E 1 ≠ 2 →
    answers (.linkTest m w) s fun u => (portOf u g p).st = 8) ∧
  (requested s m w 0x39 → ∀ raw p, p = raw.take (wfld w 0x14 4) → wfld w 0x14 4 ≤ 0x800000 - 64 → p.length = wfld w 0x14 4 → fwFormat p = true →
    fwSigned s.steward.keyHash p = true → s.shell.keep.svn ≤ pfld p 0xC 4 →
    answers (.fwUpdate m w (some raw)) s fun u => ∃ x ∈ u.shell.keep.writes, x.mbox = some m ∧ x.item = 1) ∧
  (requested s m w 0x3A → s.steward.phase ≠ 6 → wfld w 0x0C 1 ≤ 1 → answers (.resetRequest m w) s fun u => ∃ r, u.seq.resetReq = some r ∧ m ∈ r.boxes) ∧
  (takeEffectReady s = true → ∀ r, s.seq.resetReq = some r → answers .resetTakeEffect s fun u => u.steward.phase = 1 ∧ u.rooms = [] ∧ u.seq.resetReq = none)

/-- What comes and goes on the lane of a port. -/
def laneEventsComplete (s : State) (g p : Nat) : Prop :=
  portThere s g p = true → ∀ x, x = portOf s g p →
    (∀ bytes, blockTransmitReady s g p bytes = true → answers (.blockTransmit g p bytes) s fun u =>
      (portOf u g p).txPos = if atBeatStart s x then 1 else x.txPos + 1) ∧
    (∀ errors blocks, codewordReady s g p blocks = true → answers (.codewordDecode g p errors blocks) s fun u =>
      if errors ≤ 15 then (portOf u g p).corrected = min (2 ^ 32 - 1) (x.corrected + errors) else (portOf u g p).uncorr = satInc 65535 x.uncorr) ∧
    (∀ beat prevEnd lane, rxHead x (.beatMark beat prevEnd lane) = true → answers (.beatMark g p beat prevEnd lane) s fun u =>
      (portOf u g p).rxLane = lane ∧ (portOf u g p).markBeat = upBeat s) ∧
    (∀ low sl bytes, rxHead x (.slotMark low sl bytes) = true → x.rxVia = none → x.rxBeat < beatNear x low → answers (.slotMark g p low sl bytes) s fun u =>
      (portOf u g p).rxPos = (rxPop { x with rxBeat := beatNear x low, rxPos := lsPos x.rate sl }).rxPos) ∧
    (∀ bytes, rxHead x (.data bytes) = true → x.st = 8 → answers (.dataBlock g p bytes) s fun u => portOf u g p = rxPop (testData bytes x)) ∧
    (∀ beat pos lane q, rxHead x (.nak beat pos lane) = true → txPortOf (modPort g p rxPop s) g lane = some q → answers (.nak g p beat pos lane) s fun u =>
      (beat, pos) ∈ (portOf u g q).nakSeen) ∧
    (∀ beat pos lane blocks q, rxHead x (.replayHead beat pos lane) = true → rxPortOf (modPort g p rxPop s) g p lane = some q →
      answers (.replayHead g p beat pos lane blocks) s fun u => (portOf u g p).replay = some ⟨q, beatNear (rxPop x) beat, pos, blocks.map (·.1)⟩) ∧
    (∀ target lane q, rxHead x (.swap target lane) = true → rxPortOf (modPort g p rxPop s) g p lane = some q → answers (.swap g p target lane) s fun u =>
      ∃ w ∈ u.links.rxSwaps, w.gate = g ∧ w.lane = lane ∧ w.target = target) ∧
    (∀ lane w, swapDue s g lane = some w → w.new ≠ w.old → answers (.swapTarget g lane) s fun u => (portOf u g w.new).st = 5 ∧ (portOf u g w.new).logical = lane) ∧
    (∀ serial pg pp rates preq st etx erx, rxHead x (.train serial pg pp rates preq st etx erx) = true → x.st = 3 → x.goodTrain < 63 →
      answers (.train g p serial pg pp rates preq st etx erx) s fun u => (portOf u g p).goodTrain = x.goodTrain + 1 ∧ (portOf u g p).peerSerial = serial) ∧
    (∀ beats, rxHead x (.loop true beats) = true → (rxPop x).test = none → testable (rxPop x) = true → answers (.loop g p true beats) s fun u => (portOf u g p).st = 8) ∧
    (∀ beat slot, deadlineReady s g p beat slot = true → answers (.laneSlotDeadline g p beat slot) s fun u => (portOf u g p).slotsLost = satInc 255 x.slotsLost)

/-- What a port goes through in training, in tests and when it is lost. -/
def portEventsComplete (s : State) (g p : Nat) : Prop :=
  portThere s g p = true → ∀ x, x = portOf s g p →
    (x.st = 1 → x.idled = false → answers (.signalDetect g p) s fun u => (portOf u g p).st = 2 ∧ (portOf u g p).rate = 0) ∧
    (x.st = 2 → answers (.adaptDone g p true) s fun u => (portOf u g p).st = 3) ∧
    (x.st = 3 → x.locked = false → x.since + 4096 ≤ upBeat s → answers (.lockTimeout g p) s fun u => (portOf u g p).st = 7) ∧
    (x.st = 7 → x.idled = false → g ∉ s.health.gatesOut → x.since + 65536 ≤ upBeat s → answers (.failedRetry g p) s fun u => (portOf u g p).st = 1) ∧
    (x.st = 5 ∨ x.st = 6 → answers (.portLoss g p) s fun u => (portOf u g p).st = 7 ∧ (portOf u g p).lost = true) ∧
    (trainingEndReady s g = true → answers (.trainingEnd g) s fun u => tabGet none u.links.training g = none) ∧
    (∀ r q m w, testEndReady s g p r = true → testDone s g p = some q → q.mbox = some m → (mbox s m).executing = some w →
      answers (.linkTestEnd g p r) s fun u => (portOf u g p).st = 1 ∧ (portOf u g p).test = none) ∧
    (∀ q, x.test = some q → q.running = false → q.since + 64 ≤ upBeat s → answers (.linkNoPeer g p) s fun u => (portOf u g p).test = none) ∧
    (∀ mv, answers (.eyeMarginReport g p mv) s fun u => portOf u g p = { x with eye := some mv })

/-- The steps of the time unit. -/
def timeEventsComplete (s : State) : Prop :=
  (∀ b cls rank serial hops, (announceFrame s b cls rank serial hops).isSome = true →
    betterTime cls rank serial (timeClass s) s.fabric.rank s.steward.serial = true → s.time.keeper = none →
    answers (.announce b cls rank serial hops) s fun u => u.time.keeper = some ⟨cls, rank, serial, 32 - hops, upBeat s⟩) ∧
  (s.time.announcing = true → s.steward.fabricSt ≠ 1 → s.time.lastAnn + 64 ≤ upBeat s → answers .announcePeriod s fun u => u.time.lastAnn = upBeat s) ∧
  (keeperTimeoutReady s = true → answers .keeperTimeout s fun u => u.time.announcing = true ∧ u.time.keeper = none ∧ u.time.st = 1) ∧
  (s.time.running = true → s.time.lastStamp + 16 ≤ upBeat s → answers .stampPeriod s fun u => u.time.lastStamp = upBeat s) ∧
  (∀ b cls x, stampReady s b cls x false = true → s.time.announcing = false → parentBundle s = some b → answers (.stamp b cls x false) s fun u =>
    u.time.offset = offsetOf (theta2 x) ∧ u.time.lastUse = upBeat s) ∧
  (∀ k, s.time.step = some k → k.since < upBeat s → answers .timeStep s fun u => u.time.step = none ∧ u.time.stepped = true) ∧
  (s.time.keeper.isSome = true → s.time.announcing = false → s.time.st ≠ 3 → s.time.lastUse + 64 ≤ upBeat s → answers .holdoverEntry s fun u => u.time.st = 3) ∧
  (boundExceeded s = true → s.time.unsync = false → answers .holdoverBoundExceeded s fun u => u.time.split = true ∧ u.time.unsync = true) ∧
  (∀ edge, s.time.running = true → s.time.refEn = true → timeInOn s = true → answers (.referencePulse edge) s fun u =>
    u.time.pulse = some (pulseStamp s edge, s.time.up) ∧ u.time.setOn = false) ∧
  (s.time.refEn = true → s.time.refGone = false → 3 * s.time.period ≤ 2 * (s.time.up - pulseSince s.time) → answers .refLost s fun u =>
    u.time.refLost = true ∧ u.time.refLock = false) ∧
  (∀ tag sub frac, s.time.running = true → answers (.timeNowLo tag sub frac) s fun u => regAnswered u tag 0 (leBytes 4 (timeAt s.time sub frac).1))

/-- The steps of the governor and of health. -/
def healthEventsComplete (s : State) : Prop :=
  (∀ tele, s.time.running = true → s.power.ivCount < 16 → 4 ≤ tele.samples.length → answers (.controlInterval tele) s fun u => u.power.ivCount = s.power.ivCount + 1) ∧
  (∀ room unit, room / 16 < s.params.halls → gapOn s room unit = true → answers (.gapFillEnd room unit) s fun u => gapOn u room unit = false) ∧
  (∀ hall level start, hall < s.params.halls → (hallPow s hall).ramp = .hold level start → start + s.power.cfg.hold ≤ upBeat s →
    answers (.barrierHoldEnd hall) s fun u => (hallPow u hall).ramp = .down level (upBeat s)) ∧
  (∀ hall t level, hall < s.params.halls → preRampReady s hall = true → nextRise s hall = some (t, level) →
    answers (.preRampStart hall) s fun u => (hallPow u hall).ramp = .pre (hallPow s hall).ivAmps level (upBeat s) t) ∧
  (∀ kind index a, unitExists s kind index = true → repairReady s kind index = true → attribOf s kind index = some a → s.shell.snap.frozen = false →
    answers (.repair kind index) s fun u => u.health.attribs = s.health.attribs.erase a ∧ u.steward.healthSt = 2) ∧
  (∀ kind index r found, kind ∈ [1, 2, 7] → unitExists s kind index = true → repairAt s kind index 1 = some r → repairHalted s r = true → found ≠ [] →
    answers (.diagnosisComplete kind index found) s fun u => { r with stage := 3, acts := findingActs s kind index found } ∈ u.health.repairs) ∧
  (∀ kind index r, unitExists s kind index = true → repairAt s kind index 3 = some r → answers (.repairMappingEffect kind index) s fun u =>
    repairAt u kind index 3 = none ∧ u.health.evRepairs = satInc 255 s.health.evRepairs) ∧
  (s.steward.up = true → s.health.map.coreFail = none → s.health.beatHb + 4 ≤ upBeat s → answers .heartbeat s fun u => u.health.beatHb = upBeat s) ∧
  (takeoverReady s = true → answers .stewardTakeover s fun u => u.health.map.coreFail = some 0 ∧ u.steward.standby = true) ∧
  (∀ x : WearSample, s.time.running = true → unitExists s x.kind x.index = true → answers (.wearPrediction [x]) s fun u => (unitOf u x.kind x.index).wear = x.wear) ∧
  (∀ bank mv, s.time.running = true → unitExists s 4 bank = true → answers (.marginRowTest bank mv) s fun u => tabGet 0 u.health.margins bank = mv) ∧
  (∀ kind index, unitExists s kind index = true → replaceReady s kind index = true → answers (.proactiveReplacement kind index) s fun u =>
    u.health.replaceQ = s.health.replaceQ.erase (kind, index)) ∧
  (∀ kind index, unitExists s kind index = true → (kind, index) ∈ s.health.replacing → answers (.replacementEnd kind index) s fun u =>
    u.health.replacing = s.health.replacing.erase (kind, index))

/-- The steps of the sequencer. -/
def sequencerEventsComplete (s : State) : Prop :=
  (s.seq.step = .dead → answers .vauxGood s fun u => u.seq.step = .wait ∧ u.seq.cold = true) ∧
  (∀ r, nextRail s.seq = some r → answers .railRequest s fun u => u.seq.req = railSet s.seq.req r) ∧
  (∀ r, isRail r = true → s.seq.step ≠ .dead → railOn s.seq.good r = false → answers (.railGoodRise r) s fun u => u.seq.good = railSet s.seq.good r) ∧
  (awaitsGood s.seq = true → answers .railTimeout s fun u => u.seq.req = 0 ∧ u.steward.phase = 7 ∧ u.seq.step = .failed) ∧
  (∀ serial key pins, s.seq.step = .gap 3 → answers (.hardPartResetRelease serial key pins) s fun u => u.steward.phase = 1 ∧ u.seq.step = .run ∧ u.steward.serial = serial) ∧
  (∀ n f, firmwareReady s = true → chooseFw s = some (n, f) → answers .firmwareVerified s fun u => u.steward.up = true ∧ u.shell.keep.fwSlot = n) ∧
  (∀ iFull, s.seq.step = .run → s.steward.phase = 2 → answers (.selfTestComplete [] [] iFull) s fun u =>
    u.steward.phase = (if s.params.gatehouses = 0 then 4 else 3) ∧ u.health.firstTest = true) ∧
  (engineReadyDue s = true → answers .engineReady s fun u => u.steward.phase = 5 ∧ u.seq.failCount = 0) ∧
  (wakeReady s = true → answers .wake s fun u => u.seq.trigger = 9) ∧
  (answers .supplyWarn s fun u => u.seq.warn = true) ∧ (answers .supplyWarnLow s fun u => u.seq.warn = false) ∧
  (powerDownReady s = true → answers .powerDownStart s fun u => u.steward.phase = 6 ∧ u.seq.trips = []) ∧
  (cancelReady s = true → answers .powerDownCancel s fun u => u.steward.phase = 5 ∧ u.seq.pd = none ∧ u.seq.cancelled = true) ∧
  (∀ x, noReturnReady s = true → s.seq.pd = some x → answers .pointOfNoReturn s fun u => u.seq.pd = some { x with past := true } ∧ u.steward.up = false) ∧
  (∀ r, isRail r = true → railOn s.seq.good r = true → railOn s.seq.req r = false → answers (.railGoodFall r) s fun u => u.seq.good = railOff s.seq.good r) ∧
  (∀ r, s.seq.step = .drop r → answers .railDropTimeout s fun u => dropsNext s.seq s u) ∧
  (s.seq.step = .settle → s.seq.pending = 2 → answers .powerDownSettle s fun u => u.seq.step = .wait ∧ u.seq.pending = 0) ∧
  (∀ r, isRail r = true → railFailReady s r = true → answers (.railFailure r) s fun u => u.seq.req = 0 ∧ u.seq.trigger = 7 ∧ u.seq.rail = r) ∧
  (answers .shellReset s fun u => u.seq.shellRst = true) ∧ (answers .shellResetRelease s fun u => u.seq.shellRst = false) ∧
  (s.seq.step ≠ .dead → answers .vauxGoodFall s fun u => u.seq = { seqReset with warn := s.seq.warn, shellRst := s.seq.shellRst })

end Sys2Proof.Machine

/-- For every state and operands that meet the condition, each of these requests and events completes, with the first of its effects. -/
def Obligations.RequestsAndEventsComplete : Prop :=
  ∀ s : State, (∀ m w, requestsComplete s m w) ∧ (∀ g p, laneEventsComplete s g p ∧ portEventsComplete s g p) ∧ timeEventsComplete s ∧ healthEventsComplete s ∧
    sequencerEventsComplete s
end

