-- ==== Sys2Proof/Laws/FrameBase.lean ====
section
/-!
SUPPORT. How a claim of the form `changesOnly` is put together: from nothing changed, through a choice, a fold, and the record updates of the machine.
-/
namespace Sys2Proof.Machine

set_option linter.unusedTactic false
set_option linter.unreachableTactic false
set_option linter.unusedVariables false
variable {P : Part → Prop}

theorem only_refl {s : State} : changesOnly P s s := ⟨fun p _ => by cases p <;> simp [Part.same]⟩

theorem only_mono {Q : Part → Prop} {s t : State} (hPQ : ∀ p, P p → Q p) (h : changesOnly P s t) : changesOnly Q s t :=
  ⟨fun p hp => h.same p fun k => hp (hPQ p k)⟩

/-- A row that is due changes what its effect changes, one that is not due changes nothing. -/
theorem due_only {g : Bool} {s t u : State} (h : due g s t = .next u) (ht : changesOnly P s t) : changesOnly P s u := by
  cases g
  · cases h; exact only_refl
  · cases h; exact ht

theorem dueAt_only {b g : Bool} {s t u : State} (h : dueAt b g s t = .next u) (ht : changesOnly P s t) : changesOnly P s u := by
  exact due_only (g := b && g) h ht

theorem only_ite {s₀ s t : State} {c : Prop} [Decidable c] (h : changesOnly P s₀ s) (h' : changesOnly P s₀ t) : changesOnly P s₀ (if c then s else t) := by split <;> assumption
theorem only_foldl {s₀ : State} {α} (g : State → α → State) (hg : ∀ s x, changesOnly P s₀ s → changesOnly P s₀ (g s x)) : ∀ (l : List α) (s : State), changesOnly P s₀ s → changesOnly P s₀ (l.foldl g s)
  | [], _, h => h
  | x :: xs, s, h => only_foldl g hg xs _ (hg s x h)
theorem only_mk {s₀ s : State} (h : changesOnly P s₀ s) {xpending xfreeCtr xstore xrooms xoffered xdefects xsteward xhost xside xshell xfabric xlinks xtime xpace xpower xhealth xseq}
  (hpending : P .pending ∨ xpending = s.pending)
  (hfreeCtr : P .freeCtr ∨ xfreeCtr = s.freeCtr)
  (hstore : P .store ∨ xstore = s.store)
  (hrooms : P .rooms ∨ xrooms = s.rooms)
  (hoffered : P .offered ∨ xoffered = s.offered)
  (hdefects : P .defects ∨ xdefects = s.defects)
  (hphase : P .phase ∨ (xsteward.phase = s.steward.phase))
  (hhealthSt : P .healthSt ∨ (xsteward.healthSt = s.steward.healthSt))
  (hfabricSt : P .fabricSt ∨ (xsteward.fabricSt = s.steward.fabricSt))
  (hserving : P .serving ∨ (xsteward.standby = s.steward.standby ∧ xsteward.up = s.steward.up))
  (hmboxes : P .mboxes ∨ (xsteward.mboxes = s.steward.mboxes ∧ xsteward.taken = s.steward.taken ∧ xsteward.copies = s.steward.copies ∧ xsteward.closes = s.steward.closes ∧ xsteward.loads = s.steward.loads))
  (hstaged : P .staged ∨ (xsteward.staged = s.steward.staged))
  (hctxs : P .ctxs ∨ (xsteward.ctxs = s.steward.ctxs))
  (hqueues : P .queues ∨ (xsteward.queues = s.steward.queues))
  (hfences : P .fences ∨ (xsteward.fences = s.steward.fences))
  (himages : P .images ∨ (xsteward.images = s.steward.images ∧ xsteward.nextImage = s.steward.nextImage))
  (htasks : P .tasks ∨ (xsteward.tasks = s.steward.tasks ∧ xsteward.nextTask = s.steward.nextTask ∧ xsteward.elig = s.steward.elig))
  (hidentity : P .identity ∨ (xsteward.serial = s.steward.serial ∧ xsteward.keyHash = s.steward.keyHash))
  (hintStatus : P .intStatus ∨ (xsteward.intStatus = s.steward.intStatus))
  (hintEnable : P .intEnable ∨ (xsteward.intEnable = s.steward.intEnable))
  (htimeout : P .timeout ∨ (xhost.timeout = s.host.timeout))
  (hhostErrors : P .hostErrors ∨ (xhost.timeouts = s.host.timeouts ∧ xhost.lateRsp = s.host.lateRsp ∧ xhost.ferr = s.host.ferr))
  (hrequests : P .requests ∨ (xhost.out = s.host.out ∧ xhost.late = s.host.late ∧ xhost.waitq = s.host.waitq))
  (hmessages : P .messages ∨ (xhost.credit = s.host.credit ∧ xhost.txq = s.host.txq ∧ xhost.evts = s.host.evts ∧ xhost.sent = s.host.sent))
  (hporch : P .porch ∨ (xhost.porch = s.host.porch ∧ xhost.held = s.host.held))
  (hside : P .side ∨ xside = s.side)
  (hhatch : P .hatch ∨ (xshell.hatch = s.shell.hatch ∧ xshell.disable = s.shell.disable ∧ xshell.turn = s.shell.turn ∧ xshell.sentTo = s.shell.sentTo))
  (hports : P .ports ∨ (xshell.ports = s.shell.ports ∧ xshell.flushes = s.shell.flushes))
  (hkeep : P .keep ∨ (xshell.keep = s.shell.keep))
  (hsnap : P .snap ∨ (xshell.snap = s.shell.snap))
  (hfabric : P .fabric ∨ xfabric = s.fabric)
  (hlinks : P .links ∨ xlinks = s.links)
  (htime : P .time ∨ xtime = s.time)
  (hpace : P .pace ∨ xpace = s.pace)
  (hpower : P .power ∨ xpower = s.power)
  (hhealth : P .health ∨ xhealth = s.health)
  (hseq : P .seq ∨ xseq = s.seq)
  : changesOnly P s₀ ⟨s.params, xpending, xfreeCtr, xstore, xrooms, xoffered, xdefects, xsteward, xhost, xside, xshell, xfabric, xlinks, xtime, xpace, xpower, xhealth, xseq⟩ := by
  refine ⟨fun p hp => ?_⟩
  have := h.same p hp
  cases p
  · exact this
  · exact (hpending.resolve_left hp).trans this
  · exact (hfreeCtr.resolve_left hp).trans this
  · exact (hstore.resolve_left hp).trans this
  · exact (hrooms.resolve_left hp).trans this
  · exact (hoffered.resolve_left hp).trans this
  · exact (hdefects.resolve_left hp).trans this
  · exact (hphase.resolve_left hp).trans this
  · exact (hhealthSt.resolve_left hp).trans this
  · exact (hfabricSt.resolve_left hp).trans this
  · exact let ⟨a0, a1⟩ := hserving.resolve_left hp; let ⟨b0, b1⟩ := this; ⟨a0.trans b0, a1.trans b1⟩
  · exact let ⟨a0, a1, a2, a3, a4⟩ := hmboxes.resolve_left hp; let ⟨b0, b1, b2, b3, b4⟩ := this; ⟨a0.trans b0, a1.trans b1, a2.trans b2, a3.trans b3, a4.trans b4⟩
  · exact (hstaged.resolve_left hp).trans this
  · exact (hctxs.resolve_left hp).trans this
  · exact (hqueues.resolve_left hp).trans this
  · exact (hfences.resolve_left hp).trans this
  · exact let ⟨a0, a1⟩ := himages.resolve_left hp; let ⟨b0, b1⟩ := this; ⟨a0.trans b0, a1.trans b1⟩
  · exact let ⟨a0, a1, a2⟩ := htasks.resolve_left hp; let ⟨b0, b1, b2⟩ := this; ⟨a0.trans b0, a1.trans b1, a2.trans b2⟩
  · exact let ⟨a0, a1⟩ := hidentity.resolve_left hp; let ⟨b0, b1⟩ := this; ⟨a0.trans b0, a1.trans b1⟩
  · exact (hintStatus.resolve_left hp).trans this
  · exact (hintEnable.resolve_left hp).trans this
  · exact (htimeout.resolve_left hp).trans this
  · exact let ⟨a0, a1, a2⟩ := hhostErrors.resolve_left hp; let ⟨b0, b1, b2⟩ := this; ⟨a0.trans b0, a1.trans b1, a2.trans b2⟩
  · exact let ⟨a0, a1, a2⟩ := hrequests.resolve_left hp; let ⟨b0, b1, b2⟩ := this; ⟨a0.trans b0, a1.trans b1, a2.trans b2⟩
  · exact let ⟨a0, a1, a2, a3⟩ := hmessages.resolve_left hp; let ⟨b0, b1, b2, b3⟩ := this; ⟨a0.trans b0, a1.trans b1, a2.trans b2, a3.trans b3⟩
  · exact let ⟨a0, a1⟩ := hporch.resolve_left hp; let ⟨b0, b1⟩ := this; ⟨a0.trans b0, a1.trans b1⟩
  · exact (hside.resolve_left hp).trans this
  · exact let ⟨a0, a1, a2, a3⟩ := hhatch.resolve_left hp; let ⟨b0, b1, b2, b3⟩ := this; ⟨a0.trans b0, a1.trans b1, a2.trans b2, a3.trans b3⟩
  · exact let ⟨a0, a1⟩ := hports.resolve_left hp; let ⟨b0, b1⟩ := this; ⟨a0.trans b0, a1.trans b1⟩
  · exact (hkeep.resolve_left hp).trans this
  · exact (hsnap.resolve_left hp).trans this
  · exact (hfabric.resolve_left hp).trans this
  · exact (hlinks.resolve_left hp).trans this
  · exact (htime.resolve_left hp).trans this
  · exact (hpace.resolve_left hp).trans this
  · exact (hpower.resolve_left hp).trans this
  · exact (hhealth.resolve_left hp).trans this
  · exact (hseq.resolve_left hp).trans this
theorem modSteward_only (f) {s₀ s : State} (hphase : P .phase ∨ ((f s.steward).phase = s.steward.phase)) (hhealthSt : P .healthSt ∨ ((f s.steward).healthSt = s.steward.healthSt)) (hfabricSt : P .fabricSt ∨ ((f s.steward).fabricSt = s.steward.fabricSt)) (hserving : P .serving ∨ ((f s.steward).standby = s.steward.standby ∧ (f s.steward).up = s.steward.up)) (hmboxes : P .mboxes ∨ ((f s.steward).mboxes = s.steward.mboxes ∧ (f s.steward).taken = s.steward.taken ∧ (f s.steward).copies = s.steward.copies ∧ (f s.steward).closes = s.steward.closes ∧ (f s.steward).loads = s.steward.loads)) (hstaged : P .staged ∨ ((f s.steward).staged = s.steward.staged)) (hctxs : P .ctxs ∨ ((f s.steward).ctxs = s.steward.ctxs)) (hqueues : P .queues ∨ ((f s.steward).queues = s.steward.queues)) (hfences : P .fences ∨ ((f s.steward).fences = s.steward.fences)) (himages : P .images ∨ ((f s.steward).images = s.steward.images ∧ (f s.steward).nextImage = s.steward.nextImage)) (htasks : P .tasks ∨ ((f s.steward).tasks = s.steward.tasks ∧ (f s.steward).nextTask = s.steward.nextTask ∧ (f s.steward).elig = s.steward.elig)) (hidentity : P .identity ∨ ((f s.steward).serial = s.steward.serial ∧ (f s.steward).keyHash = s.steward.keyHash)) (hintStatus : P .intStatus ∨ ((f s.steward).intStatus = s.steward.intStatus)) (hintEnable : P .intEnable ∨ ((f s.steward).intEnable = s.steward.intEnable)) (h : changesOnly P s₀ s) : changesOnly P s₀ (modSteward f s) :=
  only_mk h (.inr rfl) (.inr rfl) (.inr rfl) (.inr rfl) (.inr rfl) (.inr rfl) hphase hhealthSt hfabricSt hserving hmboxes hstaged hctxs hqueues hfences himages htasks hidentity hintStatus hintEnable (.inr rfl) (.inr ⟨rfl, rfl, rfl⟩) (.inr ⟨rfl, rfl, rfl⟩) (.inr ⟨rfl, rfl, rfl, rfl⟩) (.inr ⟨rfl, rfl⟩) (.inr rfl) (.inr ⟨rfl, rfl, rfl, rfl⟩) (.inr ⟨rfl, rfl⟩) (.inr rfl) (.inr rfl) (.inr rfl) (.inr rfl) (.inr rfl) (.inr rfl) (.inr rfl) (.inr rfl) (.inr rfl)

theorem modHost_only (f) {s₀ s : State} (htimeout : P .timeout ∨ ((f s.host).timeout = s.host.timeout)) (hhostErrors : P .hostErrors ∨ ((f s.host).timeouts = s.host.timeouts ∧ (f s.host).lateRsp = s.host.lateRsp ∧ (f s.host).ferr = s.host.ferr)) (hrequests : P .requests ∨ ((f s.host).out = s.host.out ∧ (f s.host).late = s.host.late ∧ (f s.host).waitq = s.host.waitq)) (hmessages : P .messages ∨ ((f s.host).credit = s.host.credit ∧ (f s.host).txq = s.host.txq ∧ (f s.host).evts = s.host.evts ∧ (f s.host).sent = s.host.sent)) (hporch : P .porch ∨ ((f s.host).porch = s.host.porch ∧ (f s.host).held = s.host.held)) (h : changesOnly P s₀ s) : changesOnly P s₀ (modHost f s) :=
  only_mk h (.inr rfl) (.inr rfl) (.inr rfl) (.inr rfl) (.inr rfl) (.inr rfl) (.inr rfl) (.inr rfl) (.inr rfl) (.inr ⟨rfl, rfl⟩) (.inr ⟨rfl, rfl, rfl, rfl, rfl⟩) (.inr rfl) (.inr rfl) (.inr rfl) (.inr rfl) (.inr ⟨rfl, rfl⟩) (.inr ⟨rfl, rfl, rfl⟩) (.inr ⟨rfl, rfl⟩) (.inr rfl) (.inr rfl) htimeout hhostErrors hrequests hmessages hporch (.inr rfl) (.inr ⟨rfl, rfl, rfl, rfl⟩) (.inr ⟨rfl, rfl⟩) (.inr rfl) (.inr rfl) (.inr rfl) (.inr rfl) (.inr rfl) (.inr rfl) (.inr rfl) (.inr rfl) (.inr rfl)

theorem modShell_only (f) {s₀ s : State} (hhatch : P .hatch ∨ ((f s.shell).hatch = s.shell.hatch ∧ (f s.shell).disable = s.shell.disable ∧ (f s.shell).turn = s.shell.turn ∧ (f s.shell).sentTo = s.shell.sentTo)) (hports : P .ports ∨ ((f s.shell).ports = s.shell.ports ∧ (f s.shell).flushes = s.shell.flushes)) (hkeep : P .keep ∨ ((f s.shell).keep = s.shell.keep)) (hsnap : P .snap ∨ ((f s.shell).snap = s.shell.snap)) (h : changesOnly P s₀ s) : changesOnly P s₀ (modShell f s) :=
  only_mk h (.inr rfl) (.inr rfl) (.inr rfl) (.inr rfl) (.inr rfl) (.inr rfl) (.inr rfl) (.inr rfl) (.inr rfl) (.inr ⟨rfl, rfl⟩) (.inr ⟨rfl, rfl, rfl, rfl, rfl⟩) (.inr rfl) (.inr rfl) (.inr rfl) (.inr rfl) (.inr ⟨rfl, rfl⟩) (.inr ⟨rfl, rfl, rfl⟩) (.inr ⟨rfl, rfl⟩) (.inr rfl) (.inr rfl) (.inr rfl) (.inr ⟨rfl, rfl, rfl⟩) (.inr ⟨rfl, rfl, rfl⟩) (.inr ⟨rfl, rfl, rfl, rfl⟩) (.inr ⟨rfl, rfl⟩) (.inr rfl) hhatch hports hkeep hsnap (.inr rfl) (.inr rfl) (.inr rfl) (.inr rfl) (.inr rfl) (.inr rfl) (.inr rfl)


end Sys2Proof.Machine
end

