-- ==== Sys2Proof/Laws/Frame1.lean ====
section
/-!
SUPPORT. Frames, part 1 of 4: for each operation of the machine the parts of State that it may change, one lemma each. A part not named in the
hypotheses of a lemma stands as it was.
-/
namespace Sys2Proof.Machine

set_option linter.unusedTactic false
set_option linter.unreachableTactic false
set_option linter.unusedVariables false
set_option maxRecDepth 4000
variable {P : Part → Prop}

theorem modTask_only (htasks : P .tasks) (a0 : Nat) (a1 : Task → Task) {s₀ s : State} (h : changesOnly P s₀ s) : changesOnly P s₀ (modTask a0 a1 s) := by
  fun_cases modTask a0 a1 s
  all_goals (intros; repeat' first
      | with_reducible assumption | with_reducible apply only_ite | with_reducible apply only_mk | with_reducible exact .inl (by assumption)
      | with_reducible exact .inr rfl | with_reducible exact .inr ⟨rfl, rfl⟩ | with_reducible exact .inr ⟨rfl, rfl, rfl⟩
      | with_reducible exact .inr ⟨rfl, rfl, rfl, rfl⟩ | with_reducible exact .inr ⟨rfl, rfl, rfl, rfl, rfl⟩ | with_reducible apply only_foldl | intro _
      | (split))

theorem haltQuiet_only (htasks : P .tasks) (a0 : Nat) (a1 : Nat) (a2 : Option FaultRec) (a3 : Bool) {s₀ s : State} (h : changesOnly P s₀ s) : changesOnly P s₀
    (haltQuiet a0 a1 a2 a3 s) := by
  fun_cases haltQuiet a0 a1 a2 a3 s
  all_goals (intros; repeat' first
      | with_reducible assumption | with_reducible apply modTask_only | with_reducible apply only_ite | with_reducible apply only_mk
      | with_reducible exact .inl (by assumption) | with_reducible exact .inr rfl | with_reducible exact .inr ⟨rfl, rfl⟩
      | with_reducible exact .inr ⟨rfl, rfl, rfl⟩ | with_reducible exact .inr ⟨rfl, rfl, rfl, rfl⟩ | with_reducible exact .inr ⟨rfl, rfl, rfl, rfl, rfl⟩
      | with_reducible apply only_foldl | intro _ | (split))

theorem launchVoid_only (htasks : P .tasks) (a0 : Nat) {s₀ s : State} (h : changesOnly P s₀ s) : changesOnly P s₀ (launchVoid a0 s) := by
  fun_cases launchVoid a0 s
  all_goals (intros; repeat' first
      | with_reducible assumption | with_reducible apply modTask_only | with_reducible apply only_ite | with_reducible apply only_mk
      | with_reducible exact .inl (by assumption) | with_reducible exact .inr rfl | with_reducible exact .inr ⟨rfl, rfl⟩
      | with_reducible exact .inr ⟨rfl, rfl, rfl⟩ | with_reducible exact .inr ⟨rfl, rfl, rfl, rfl⟩ | with_reducible exact .inr ⟨rfl, rfl, rfl, rfl, rfl⟩
      | with_reducible apply only_foldl | intro _ | (split))

theorem emitFrame_only (hfabric : P .fabric) (a0 : Nat) (a1 : Frame) {s₀ s : State} (h : changesOnly P s₀ s) : changesOnly P s₀ (emitFrame a0 a1 s) := by
  fun_cases emitFrame a0 a1 s
  all_goals (intros; repeat' first
      | with_reducible assumption | with_reducible apply only_ite | with_reducible apply only_mk | with_reducible exact .inl (by assumption)
      | with_reducible exact .inr rfl | with_reducible exact .inr ⟨rfl, rfl⟩ | with_reducible exact .inr ⟨rfl, rfl, rfl⟩
      | with_reducible exact .inr ⟨rfl, rfl, rfl, rfl⟩ | with_reducible exact .inr ⟨rfl, rfl, rfl, rfl, rfl⟩ | with_reducible apply only_foldl | intro _
      | (split))

theorem sendMgmt_only (hfabric : P .fabric) (a0 : Nat) (a1 : Nat) (a2 : Nat) (a3 : Nat) (a4 : Nat) (a5 : List Byte) {s₀ s : State} (h : changesOnly P s₀ s) :
    changesOnly P s₀ (sendMgmt a0 a1 a2 a3 a4 a5 s) := by
  fun_cases sendMgmt a0 a1 a2 a3 a4 a5 s
  all_goals (intros; repeat' first
      | with_reducible assumption | with_reducible apply emitFrame_only | with_reducible apply only_ite | with_reducible apply only_mk
      | with_reducible exact .inl (by assumption) | with_reducible exact .inr rfl | with_reducible exact .inr ⟨rfl, rfl⟩
      | with_reducible exact .inr ⟨rfl, rfl, rfl⟩ | with_reducible exact .inr ⟨rfl, rfl, rfl, rfl⟩ | with_reducible exact .inr ⟨rfl, rfl, rfl, rfl, rfl⟩
      | with_reducible apply only_foldl | intro _ | (split))

theorem abortEff_only (htasks : P .tasks) (hfabric : P .fabric) (a0 : Frame) {s₀ s : State} (h : changesOnly P s₀ s) : changesOnly P s₀ (abortEff a0 s) := by
  fun_cases abortEff a0 s
  all_goals (intros; repeat' first
      | with_reducible assumption | with_reducible apply sendMgmt_only | with_reducible apply launchVoid_only | with_reducible apply haltQuiet_only
      | with_reducible apply modTask_only | with_reducible apply only_ite | with_reducible apply only_mk | with_reducible exact .inl (by assumption)
      | with_reducible exact .inr rfl | with_reducible exact .inr ⟨rfl, rfl⟩ | with_reducible exact .inr ⟨rfl, rfl, rfl⟩
      | with_reducible exact .inr ⟨rfl, rfl, rfl, rfl⟩ | with_reducible exact .inr ⟨rfl, rfl, rfl, rfl, rfl⟩ | with_reducible apply only_foldl | intro _
      | (split))

theorem tellMembers_only (hfabric : P .fabric) (a0 : Task) (a1 : Nat) (a2 : Nat) (a3 : List Byte) (a4 : List MemberSt) {s₀ s : State} (h : changesOnly P s₀ s) :
    changesOnly P s₀ (tellMembers a0 a1 a2 a3 a4 s) := by
  fun_induction tellMembers a0 a1 a2 a3 a4 s
  all_goals intros
  all_goals first | with_reducible assumption | skip
  all_goals repeat' first
      | with_reducible assumption | with_reducible apply_assumption | with_reducible apply sendMgmt_only | with_reducible apply only_ite
      | with_reducible apply only_mk | with_reducible exact .inl (by assumption) | with_reducible exact .inr rfl | with_reducible exact .inr ⟨rfl, rfl⟩
      | with_reducible exact .inr ⟨rfl, rfl, rfl⟩ | with_reducible exact .inr ⟨rfl, rfl, rfl, rfl⟩ | with_reducible exact .inr ⟨rfl, rfl, rfl, rfl, rfl⟩
      | with_reducible apply only_foldl | intro _ | (split)

theorem haltWith_only (htasks : P .tasks) (hfabric : P .fabric) (a0 : Nat) (a1 : Nat) (a2 : Option FaultRec) (a3 : Bool) {s₀ s : State} (h : changesOnly P s₀ s)
    : changesOnly P s₀ (haltWith a0 a1 a2 a3 s) := by
  fun_cases haltWith a0 a1 a2 a3 s
  all_goals (intros; repeat' first
      | with_reducible assumption | with_reducible apply tellMembers_only | with_reducible apply sendMgmt_only | with_reducible apply haltQuiet_only
      | with_reducible apply modTask_only | with_reducible apply only_ite | with_reducible apply only_mk | with_reducible exact .inl (by assumption)
      | with_reducible exact .inr rfl | with_reducible exact .inr ⟨rfl, rfl⟩ | with_reducible exact .inr ⟨rfl, rfl, rfl⟩
      | with_reducible exact .inr ⟨rfl, rfl, rfl, rfl⟩ | with_reducible exact .inr ⟨rfl, rfl, rfl, rfl, rfl⟩ | with_reducible apply only_foldl | intro _
      | (split))

theorem haltTask_only (htasks : P .tasks) (hfabric : P .fabric) (a0 : Nat) (a1 : Nat) (a2 : Option FaultRec) (a3 : Bool) {s₀ s : State} (h : changesOnly P s₀ s)
    : changesOnly P s₀ (haltTask a0 a1 a2 a3 s) := by
  fun_cases haltTask a0 a1 a2 a3 s
  all_goals (intros; repeat' first
      | with_reducible assumption | with_reducible apply haltWith_only | with_reducible apply only_ite | with_reducible apply only_mk
      | with_reducible exact .inl (by assumption) | with_reducible exact .inr rfl | with_reducible exact .inr ⟨rfl, rfl⟩
      | with_reducible exact .inr ⟨rfl, rfl, rfl⟩ | with_reducible exact .inr ⟨rfl, rfl, rfl, rfl⟩ | with_reducible exact .inr ⟨rfl, rfl, rfl, rfl, rfl⟩
      | with_reducible apply only_foldl | intro _ | (split))

theorem abortLaunched_only (htasks : P .tasks) (hfabric : P .fabric) (a0 : Task) {s₀ s : State} (h : changesOnly P s₀ s) : changesOnly P s₀ (abortLaunched a0 s) := by
  fun_cases abortLaunched a0 s
  all_goals (intros; repeat' first
      | with_reducible assumption | with_reducible apply haltTask_only | with_reducible apply sendMgmt_only | with_reducible apply only_ite
      | with_reducible apply only_mk | with_reducible exact .inl (by assumption) | with_reducible exact .inr rfl | with_reducible exact .inr ⟨rfl, rfl⟩
      | with_reducible exact .inr ⟨rfl, rfl, rfl⟩ | with_reducible exact .inr ⟨rfl, rfl, rfl, rfl⟩ | with_reducible exact .inr ⟨rfl, rfl, rfl, rfl, rfl⟩
      | with_reducible apply only_foldl | intro _ | (split))

theorem countLaunch_only (himages : P .images) (a0 : Nat) {s₀ s : State} (h : changesOnly P s₀ s) : changesOnly P s₀ (countLaunch a0 s) := by
  fun_cases countLaunch a0 s
  all_goals (intros; repeat' first
      | with_reducible assumption | with_reducible apply modSteward_only | with_reducible apply only_ite | with_reducible apply only_mk
      | with_reducible exact .inl (by assumption) | with_reducible exact .inr rfl | with_reducible exact .inr ⟨rfl, rfl⟩
      | with_reducible exact .inr ⟨rfl, rfl, rfl⟩ | with_reducible exact .inr ⟨rfl, rfl, rfl, rfl⟩ | with_reducible exact .inr ⟨rfl, rfl, rfl, rfl, rfl⟩
      | with_reducible apply only_foldl | intro _ | (split))

theorem modQueue_only (hqueues : P .queues) (a0 : Nat) (a1 : Queue → Queue) {s₀ s : State} (h : changesOnly P s₀ s) : changesOnly P s₀ (modQueue a0 a1 s) := by
  fun_cases modQueue a0 a1 s
  all_goals (intros; repeat' first
      | with_reducible assumption | with_reducible apply only_ite | with_reducible apply only_mk | with_reducible exact .inl (by assumption)
      | with_reducible exact .inr rfl | with_reducible exact .inr ⟨rfl, rfl⟩ | with_reducible exact .inr ⟨rfl, rfl, rfl⟩
      | with_reducible exact .inr ⟨rfl, rfl, rfl, rfl⟩ | with_reducible exact .inr ⟨rfl, rfl, rfl, rfl, rfl⟩ | with_reducible apply only_foldl | intro _
      | (split))

theorem dropWork_only (hqueues : P .queues) (a0 : Nat) (a1 : Work) {s₀ s : State} (h : changesOnly P s₀ s) : changesOnly P s₀ (dropWork a0 a1 s) := by
  fun_cases dropWork a0 a1 s
  all_goals (intros; repeat' first
      | with_reducible assumption | with_reducible apply modQueue_only | with_reducible apply only_ite | with_reducible apply only_mk
      | with_reducible exact .inl (by assumption) | with_reducible exact .inr rfl | with_reducible exact .inr ⟨rfl, rfl⟩
      | with_reducible exact .inr ⟨rfl, rfl, rfl⟩ | with_reducible exact .inr ⟨rfl, rfl, rfl, rfl⟩ | with_reducible exact .inr ⟨rfl, rfl, rfl, rfl, rfl⟩
      | with_reducible apply only_foldl | intro _ | (split))

theorem pumpTx_only (hmessages : P .messages) {s₀ s : State} (h : changesOnly P s₀ s) : changesOnly P s₀ (pumpTx s) := by
  fun_cases pumpTx s
  all_goals (intros; repeat' first
      | with_reducible assumption | with_reducible apply only_ite | with_reducible apply only_mk | with_reducible exact .inl (by assumption)
      | with_reducible exact .inr rfl | with_reducible exact .inr ⟨rfl, rfl⟩ | with_reducible exact .inr ⟨rfl, rfl, rfl⟩
      | with_reducible exact .inr ⟨rfl, rfl, rfl, rfl⟩ | with_reducible exact .inr ⟨rfl, rfl, rfl, rfl, rfl⟩ | with_reducible apply only_foldl | intro _
      | (split))

theorem sendMsg_only (hmessages : P .messages) (a0 : HostMsg) {s₀ s : State} (h : changesOnly P s₀ s) : changesOnly P s₀ (sendMsg a0 s) := by
  fun_cases sendMsg a0 s
  all_goals (intros; repeat' first
      | with_reducible assumption | with_reducible apply pumpTx_only | with_reducible apply only_ite | with_reducible apply only_mk
      | with_reducible exact .inl (by assumption) | with_reducible exact .inr rfl | with_reducible exact .inr ⟨rfl, rfl⟩
      | with_reducible exact .inr ⟨rfl, rfl, rfl⟩ | with_reducible exact .inr ⟨rfl, rfl, rfl, rfl⟩ | with_reducible exact .inr ⟨rfl, rfl, rfl, rfl, rfl⟩
      | with_reducible apply only_foldl | intro _ | (split))

theorem issueReq_only (hrequests : P .requests) (hmessages : P .messages) (a0 : Purpose) (a1 : HostMsg) {s₀ s : State} (h : changesOnly P s₀ s) : changesOnly P
    s₀ (issueReq a0 a1 s) := by
  fun_cases issueReq a0 a1 s
  all_goals (intros; repeat' first
      | with_reducible assumption | with_reducible apply sendMsg_only | with_reducible apply only_ite | with_reducible apply only_mk
      | with_reducible exact .inl (by assumption) | with_reducible exact .inr rfl | with_reducible exact .inr ⟨rfl, rfl⟩
      | with_reducible exact .inr ⟨rfl, rfl, rfl⟩ | with_reducible exact .inr ⟨rfl, rfl, rfl, rfl⟩ | with_reducible exact .inr ⟨rfl, rfl, rfl, rfl, rfl⟩
      | with_reducible apply only_foldl | intro _ | (split))

theorem tryRecord_only (htasks : P .tasks) (hrequests : P .requests) (hmessages : P .messages) (a0 : Nat) {s₀ s : State} (h : changesOnly P s₀ s) : changesOnly
    P s₀ (tryRecord a0 s) := by
  fun_cases tryRecord a0 s
  all_goals (intros; repeat' first
      | with_reducible assumption | with_reducible apply issueReq_only | with_reducible apply modTask_only | with_reducible apply only_ite
      | with_reducible apply only_mk | with_reducible exact .inl (by assumption) | with_reducible exact .inr rfl | with_reducible exact .inr ⟨rfl, rfl⟩
      | with_reducible exact .inr ⟨rfl, rfl, rfl⟩ | with_reducible exact .inr ⟨rfl, rfl, rfl, rfl⟩ | with_reducible exact .inr ⟨rfl, rfl, rfl, rfl, rfl⟩
      | with_reducible apply only_foldl | intro _ | (split))

theorem finishTask_only (hqueues : P .queues) (htasks : P .tasks) (hrequests : P .requests) (hmessages : P .messages) (a0 : Nat) (a1 : TState) (a2 : Nat) {s₀ s
    : State} (h : changesOnly P s₀ s) : changesOnly P s₀ (finishTask a0 a1 a2 s) := by
  fun_cases finishTask a0 a1 a2 s
  all_goals (intros; repeat' first
      | with_reducible assumption | with_reducible apply tryRecord_only | with_reducible apply dropWork_only | with_reducible apply modTask_only
      | with_reducible apply only_ite | with_reducible apply only_mk | with_reducible exact .inl (by assumption) | with_reducible exact .inr rfl
      | with_reducible exact .inr ⟨rfl, rfl⟩ | with_reducible exact .inr ⟨rfl, rfl, rfl⟩ | with_reducible exact .inr ⟨rfl, rfl, rfl, rfl⟩
      | with_reducible exact .inr ⟨rfl, rfl, rfl, rfl, rfl⟩ | with_reducible apply only_foldl | intro _ | (split))

theorem promoteQueue_only (htasks : P .tasks) (a0 : Nat) {s₀ s : State} (h : changesOnly P s₀ s) : changesOnly P s₀ (promoteQueue a0 s) := by
  fun_cases promoteQueue a0 s
  all_goals (intros; repeat' first
      | with_reducible assumption | with_reducible apply modTask_only | with_reducible apply only_ite | with_reducible apply only_mk
      | with_reducible exact .inl (by assumption) | with_reducible exact .inr rfl | with_reducible exact .inr ⟨rfl, rfl⟩
      | with_reducible exact .inr ⟨rfl, rfl, rfl⟩ | with_reducible exact .inr ⟨rfl, rfl, rfl, rfl⟩ | with_reducible exact .inr ⟨rfl, rfl, rfl, rfl, rfl⟩
      | with_reducible apply only_foldl | intro _ | (split))

theorem promoteList_only (htasks : P .tasks) (a0 : List Nat) {s₀ s : State} (h : changesOnly P s₀ s) : changesOnly P s₀ (promoteList a0 s) := by
  fun_induction promoteList a0 s
  all_goals intros
  all_goals first | with_reducible assumption | skip
  all_goals repeat' first
      | with_reducible assumption | with_reducible apply_assumption | with_reducible apply promoteQueue_only | with_reducible apply only_ite
      | with_reducible apply only_mk | with_reducible exact .inl (by assumption) | with_reducible exact .inr rfl | with_reducible exact .inr ⟨rfl, rfl⟩
      | with_reducible exact .inr ⟨rfl, rfl, rfl⟩ | with_reducible exact .inr ⟨rfl, rfl, rfl, rfl⟩ | with_reducible exact .inr ⟨rfl, rfl, rfl, rfl, rfl⟩
      | with_reducible apply only_foldl | intro _ | (split)

theorem promote_only (htasks : P .tasks) {s₀ s : State} (h : changesOnly P s₀ s) : changesOnly P s₀ (promote s) := by
  fun_cases promote s
  all_goals (intros; repeat' first
      | with_reducible assumption | with_reducible apply promoteList_only | with_reducible apply only_ite | with_reducible apply only_mk
      | with_reducible exact .inl (by assumption) | with_reducible exact .inr rfl | with_reducible exact .inr ⟨rfl, rfl⟩
      | with_reducible exact .inr ⟨rfl, rfl, rfl⟩ | with_reducible exact .inr ⟨rfl, rfl, rfl, rfl⟩ | with_reducible exact .inr ⟨rfl, rfl, rfl, rfl, rfl⟩
      | with_reducible apply only_foldl | intro _ | (split))

theorem acceptTask_only (hqueues : P .queues) (himages : P .images) (htasks : P .tasks) (hrequests : P .requests) (hmessages : P .messages) (a0 : Nat) (a1 :
    Bool) (a2 : MsgWord) {s₀ s : State} (h : changesOnly P s₀ s) : changesOnly P s₀ (acceptTask a0 a1 a2 s) := by
  fun_cases acceptTask a0 a1 a2 s
  all_goals (intros; repeat' first
      | with_reducible assumption | with_reducible apply promote_only | with_reducible apply finishTask_only | with_reducible apply modQueue_only
      | with_reducible apply countLaunch_only | with_reducible apply modSteward_only | with_reducible apply only_ite | with_reducible apply only_mk
      | with_reducible exact .inl (by assumption) | with_reducible exact .inr rfl | with_reducible exact .inr ⟨rfl, rfl⟩
      | with_reducible exact .inr ⟨rfl, rfl, rfl⟩ | with_reducible exact .inr ⟨rfl, rfl, rfl, rfl⟩ | with_reducible exact .inr ⟨rfl, rfl, rfl, rfl, rfl⟩
      | with_reducible apply only_foldl | intro _ | (split))

theorem ackFrame_only (hfabric : P .fabric) (a0 : Frame) {s₀ s : State} (h : changesOnly P s₀ s) : changesOnly P s₀ (ackFrame a0 s) := by
  fun_cases ackFrame a0 s
  all_goals (intros; repeat' first
      | with_reducible assumption | with_reducible apply emitFrame_only | with_reducible apply only_ite | with_reducible apply only_mk
      | with_reducible exact .inl (by assumption) | with_reducible exact .inr rfl | with_reducible exact .inr ⟨rfl, rfl⟩
      | with_reducible exact .inr ⟨rfl, rfl, rfl⟩ | with_reducible exact .inr ⟨rfl, rfl, rfl, rfl⟩ | with_reducible exact .inr ⟨rfl, rfl, rfl, rfl, rfl⟩
      | with_reducible apply only_foldl | intro _ | (split))

theorem addEvt_only (hmessages : P .messages) (a0 : Evt) {s₀ s : State} (h : changesOnly P s₀ s) : changesOnly P s₀ (addEvt a0 s) := by
  fun_cases addEvt a0 s
  all_goals (intros; repeat' first
      | with_reducible assumption | with_reducible apply pumpTx_only | with_reducible apply only_ite | with_reducible apply only_mk
      | with_reducible exact .inl (by assumption) | with_reducible exact .inr rfl | with_reducible exact .inr ⟨rfl, rfl⟩
      | with_reducible exact .inr ⟨rfl, rfl, rfl⟩ | with_reducible exact .inr ⟨rfl, rfl, rfl, rfl⟩ | with_reducible exact .inr ⟨rfl, rfl, rfl, rfl, rfl⟩
      | with_reducible apply only_foldl | intro _ | (split))

theorem modRoom_only (hrooms : P .rooms) (a0 : Nat) (a1 : Room → Room) {s₀ s : State} (h : changesOnly P s₀ s) : changesOnly P s₀ (modRoom a0 a1 s) := by
  fun_cases modRoom a0 a1 s
  all_goals (intros; repeat' first
      | with_reducible assumption | with_reducible apply only_ite | with_reducible apply only_mk | with_reducible exact .inl (by assumption)
      | with_reducible exact .inr rfl | with_reducible exact .inr ⟨rfl, rfl⟩ | with_reducible exact .inr ⟨rfl, rfl, rfl⟩
      | with_reducible exact .inr ⟨rfl, rfl, rfl, rfl⟩ | with_reducible exact .inr ⟨rfl, rfl, rfl, rfl, rfl⟩ | with_reducible apply only_foldl | intro _
      | (split))

theorem addSignal_only (hrooms : P .rooms) (a0 : Nat) (a1 : Nat) {s₀ s : State} (h : changesOnly P s₀ s) : changesOnly P s₀ (addSignal a0 a1 s) := by
  fun_cases addSignal a0 a1 s
  all_goals (intros; repeat' first
      | with_reducible assumption | with_reducible apply modRoom_only | with_reducible apply only_ite | with_reducible apply only_mk
      | with_reducible exact .inl (by assumption) | with_reducible exact .inr rfl | with_reducible exact .inr ⟨rfl, rfl⟩
      | with_reducible exact .inr ⟨rfl, rfl, rfl⟩ | with_reducible exact .inr ⟨rfl, rfl, rfl, rfl⟩ | with_reducible exact .inr ⟨rfl, rfl, rfl, rfl, rfl⟩
      | with_reducible apply only_foldl | intro _ | (split))

theorem modFabric_only (hfabric : P .fabric) (a0 : Fabric → Fabric) {s₀ s : State} (h : changesOnly P s₀ s) : changesOnly P s₀ (modFabric a0 s) := by
  fun_cases modFabric a0 s
  all_goals (intros; repeat' first
      | with_reducible assumption | with_reducible apply only_ite | with_reducible apply only_mk | with_reducible exact .inl (by assumption)
      | with_reducible exact .inr rfl | with_reducible exact .inr ⟨rfl, rfl⟩ | with_reducible exact .inr ⟨rfl, rfl, rfl⟩
      | with_reducible exact .inr ⟨rfl, rfl, rfl, rfl⟩ | with_reducible exact .inr ⟨rfl, rfl, rfl, rfl, rfl⟩ | with_reducible apply only_foldl | intro _
      | (split))

theorem dropFrame_only (hfabric : P .fabric) (a0 : Drops → Drops) {s₀ s : State} (h : changesOnly P s₀ s) : changesOnly P s₀ (dropFrame a0 s) := by
  fun_cases dropFrame a0 s
  all_goals (intros; repeat' first
      | with_reducible assumption | with_reducible apply modFabric_only | with_reducible apply only_ite | with_reducible apply only_mk
      | with_reducible exact .inl (by assumption) | with_reducible exact .inr rfl | with_reducible exact .inr ⟨rfl, rfl⟩
      | with_reducible exact .inr ⟨rfl, rfl, rfl⟩ | with_reducible exact .inr ⟨rfl, rfl, rfl, rfl⟩ | with_reducible exact .inr ⟨rfl, rfl, rfl, rfl, rfl⟩
      | with_reducible apply only_foldl | intro _ | (split))

theorem flood_only (hfabric : P .fabric) (a0 : Nat) (a1 : Frame) {s₀ s : State} (h : changesOnly P s₀ s) : changesOnly P s₀ (flood a0 a1 s) := by
  fun_cases flood a0 a1 s
  all_goals (intros; repeat' first
      | with_reducible assumption | with_reducible apply only_ite | with_reducible apply only_mk | with_reducible exact .inl (by assumption)
      | with_reducible exact .inr rfl | with_reducible exact .inr ⟨rfl, rfl⟩ | with_reducible exact .inr ⟨rfl, rfl, rfl⟩
      | with_reducible exact .inr ⟨rfl, rfl, rfl, rfl⟩ | with_reducible exact .inr ⟨rfl, rfl, rfl, rfl, rfl⟩ | with_reducible apply only_foldl | intro _
      | (split))

theorem forwardBcast_only (hfabric : P .fabric) (a0 : Nat) (a1 : Frame) {s₀ s : State} (h : changesOnly P s₀ s) : changesOnly P s₀ (forwardBcast a0 a1 s) := by
  fun_cases forwardBcast a0 a1 s
  all_goals (intros; repeat' first
      | with_reducible assumption | with_reducible apply flood_only | with_reducible apply dropFrame_only | with_reducible apply modFabric_only
      | with_reducible apply only_ite | with_reducible apply only_mk | with_reducible exact .inl (by assumption) | with_reducible exact .inr rfl
      | with_reducible exact .inr ⟨rfl, rfl⟩ | with_reducible exact .inr ⟨rfl, rfl, rfl⟩ | with_reducible exact .inr ⟨rfl, rfl, rfl, rfl⟩
      | with_reducible exact .inr ⟨rfl, rfl, rfl, rfl, rfl⟩ | with_reducible apply only_foldl | intro _ | (split))

theorem noteTold_only (hfabric : P .fabric) (a0 : BitVec 64) (a1 : Nat) (a2 : Nat) (a3 : Nat) {s₀ s : State} (h : changesOnly P s₀ s) : changesOnly P s₀
    (noteTold a0 a1 a2 a3 s) := by
  fun_cases noteTold a0 a1 a2 a3 s
  all_goals (intros; repeat' first
      | with_reducible assumption | with_reducible apply modFabric_only | with_reducible apply only_ite | with_reducible apply only_mk
      | with_reducible exact .inl (by assumption) | with_reducible exact .inr rfl | with_reducible exact .inr ⟨rfl, rfl⟩
      | with_reducible exact .inr ⟨rfl, rfl, rfl⟩ | with_reducible exact .inr ⟨rfl, rfl, rfl, rfl⟩ | with_reducible exact .inr ⟨rfl, rfl, rfl, rfl, rfl⟩
      | with_reducible apply only_foldl | intro _ | (split))

theorem raiseInt_only (hintStatus : P .intStatus) (hmessages : P .messages) (a0 : Nat) {s₀ s : State} (h : changesOnly P s₀ s) : changesOnly P s₀ (raiseInt a0
    s) := by
  fun_cases raiseInt a0 s
  all_goals (intros; repeat' first
      | with_reducible assumption | with_reducible apply addEvt_only | with_reducible apply only_ite | with_reducible apply only_mk
      | with_reducible exact .inl (by assumption) | with_reducible exact .inr rfl | with_reducible exact .inr ⟨rfl, rfl⟩
      | with_reducible exact .inr ⟨rfl, rfl, rfl⟩ | with_reducible exact .inr ⟨rfl, rfl, rfl, rfl⟩ | with_reducible exact .inr ⟨rfl, rfl, rfl, rfl, rfl⟩
      | with_reducible apply only_foldl | intro _ | (split))

theorem setFabric_only (hfabricSt : P .fabricSt) (hintStatus : P .intStatus) (hmessages : P .messages) (a0 : Nat) {s₀ s : State} (h : changesOnly P s₀ s) :
    changesOnly P s₀ (setFabric a0 s) := by
  fun_cases setFabric a0 s
  all_goals (intros; repeat' first
      | with_reducible assumption | with_reducible apply raiseInt_only | with_reducible apply only_ite | with_reducible apply only_mk
      | with_reducible exact .inl (by assumption) | with_reducible exact .inr rfl | with_reducible exact .inr ⟨rfl, rfl⟩
      | with_reducible exact .inr ⟨rfl, rfl, rfl⟩ | with_reducible exact .inr ⟨rfl, rfl, rfl, rfl⟩ | with_reducible exact .inr ⟨rfl, rfl, rfl, rfl, rfl⟩
      | with_reducible apply only_foldl | intro _ | (split))

theorem modTime_only (htime : P .time) (a0 : TimeUnit → TimeUnit) {s₀ s : State} (h : changesOnly P s₀ s) : changesOnly P s₀ (modTime a0 s) := by
  fun_cases modTime a0 s
  all_goals (intros; repeat' first
      | with_reducible assumption | with_reducible apply only_ite | with_reducible apply only_mk | with_reducible exact .inl (by assumption)
      | with_reducible exact .inr rfl | with_reducible exact .inr ⟨rfl, rfl⟩ | with_reducible exact .inr ⟨rfl, rfl, rfl⟩
      | with_reducible exact .inr ⟨rfl, rfl, rfl, rfl⟩ | with_reducible exact .inr ⟨rfl, rfl, rfl, rfl, rfl⟩ | with_reducible apply only_foldl | intro _
      | (split))

theorem setTimeSt_only (hintStatus : P .intStatus) (hmessages : P .messages) (htime : P .time) (a0 : Nat) {s₀ s : State} (h : changesOnly P s₀ s) : changesOnly
    P s₀ (setTimeSt a0 s) := by
  fun_cases setTimeSt a0 s
  all_goals (intros; repeat' first
      | with_reducible assumption | with_reducible apply raiseInt_only | with_reducible apply only_ite | with_reducible apply only_mk
      | with_reducible exact .inl (by assumption) | with_reducible exact .inr rfl | with_reducible exact .inr ⟨rfl, rfl⟩
      | with_reducible exact .inr ⟨rfl, rfl, rfl⟩ | with_reducible exact .inr ⟨rfl, rfl, rfl, rfl⟩ | with_reducible exact .inr ⟨rfl, rfl, rfl, rfl, rfl⟩
      | with_reducible apply only_foldl | intro _ | (split))

theorem stopKeeping_only (hintStatus : P .intStatus) (hmessages : P .messages) (htime : P .time) {s₀ s : State} (h : changesOnly P s₀ s) : changesOnly P s₀
    (stopKeeping s) := by
  fun_cases stopKeeping s
  all_goals (intros; repeat' first
      | with_reducible assumption | with_reducible apply setTimeSt_only | with_reducible apply modTime_only | with_reducible apply only_ite
      | with_reducible apply only_mk | with_reducible exact .inl (by assumption) | with_reducible exact .inr rfl | with_reducible exact .inr ⟨rfl, rfl⟩
      | with_reducible exact .inr ⟨rfl, rfl, rfl⟩ | with_reducible exact .inr ⟨rfl, rfl, rfl, rfl⟩ | with_reducible exact .inr ⟨rfl, rfl, rfl, rfl, rfl⟩
      | with_reducible apply only_foldl | intro _ | (split))

theorem takeAdmission_only (hfabricSt : P .fabricSt) (hintStatus : P .intStatus) (hmessages : P .messages) (hfabric : P .fabric) (htime : P .time) (a0 : Bool)
    (a1 : Nat) (a2 : Nat) {s₀ s : State} (h : changesOnly P s₀ s) : changesOnly P s₀ (takeAdmission a0 a1 a2 s) := by
  fun_cases takeAdmission a0 a1 a2 s
  all_goals (intros; repeat' first
      | with_reducible assumption | with_reducible apply stopKeeping_only | with_reducible apply setFabric_only | with_reducible apply modFabric_only
      | with_reducible apply only_ite | with_reducible apply only_mk | with_reducible exact .inl (by assumption) | with_reducible exact .inr rfl
      | with_reducible exact .inr ⟨rfl, rfl⟩ | with_reducible exact .inr ⟨rfl, rfl, rfl⟩ | with_reducible exact .inr ⟨rfl, rfl, rfl, rfl⟩
      | with_reducible exact .inr ⟨rfl, rfl, rfl, rfl, rfl⟩ | with_reducible apply only_foldl | intro _ | (split))

theorem takeFrame_only (hfabric : P .fabric) (a0 : Nat) (a1 : Frame) {s₀ s : State} (h : changesOnly P s₀ s) : changesOnly P s₀ (takeFrame a0 a1 s) := by
  fun_cases takeFrame a0 a1 s
  all_goals (intros; repeat' first
      | with_reducible assumption | with_reducible apply modFabric_only | with_reducible apply only_ite | with_reducible apply only_mk
      | with_reducible exact .inl (by assumption) | with_reducible exact .inr rfl | with_reducible exact .inr ⟨rfl, rfl⟩
      | with_reducible exact .inr ⟨rfl, rfl, rfl⟩ | with_reducible exact .inr ⟨rfl, rfl, rfl, rfl⟩ | with_reducible exact .inr ⟨rfl, rfl, rfl, rfl, rfl⟩
      | with_reducible apply only_foldl | intro _ | (split))

theorem takeMsg_only (hfabric : P .fabric) (a0 : Nat) (a1 : Frame) (a2 : State → State) {s₀ s : State} (hf2 : ∀ x0, changesOnly P s₀ x0 → changesOnly P s₀ (a2
    x0)) (h : changesOnly P s₀ s) : changesOnly P s₀ (takeMsg a0 a1 a2 s) := by
  unfold takeMsg
  try dsimp only
  repeat' first
      | with_reducible assumption | with_reducible apply_assumption | with_reducible apply takeFrame_only | with_reducible apply modFabric_only
      | with_reducible apply ackFrame_only | with_reducible apply only_ite | with_reducible apply only_foldl | intro _ | (split)
      | with_reducible apply only_mk | with_reducible exact .inl (by assumption) | with_reducible exact .inr rfl | with_reducible exact .inr ⟨rfl, rfl⟩
      | with_reducible exact .inr ⟨rfl, rfl, rfl⟩ | with_reducible exact .inr ⟨rfl, rfl, rfl, rfl⟩ | with_reducible exact .inr ⟨rfl, rfl, rfl, rfl, rfl⟩

theorem admitEff_only (hfabricSt : P .fabricSt) (hintStatus : P .intStatus) (hmessages : P .messages) (hfabric : P .fabric) (htime : P .time) (a1 : Nat) (a2 :
    Frame) (a3 : BitVec 64) (a4 : Nat) (a5 : Nat) {s₀ s : State} (h : changesOnly P s₀ s) : changesOnly P s₀ (admitEff s a1 a2 a3 a4 a5) := by
  fun_cases admitEff s a1 a2 a3 a4 a5
  all_goals (intros; repeat' first
      | with_reducible assumption | with_reducible apply takeMsg_only | with_reducible apply takeFrame_only | with_reducible apply takeAdmission_only
      | with_reducible apply noteTold_only | with_reducible apply forwardBcast_only | with_reducible apply only_ite | with_reducible apply only_mk
      | with_reducible exact .inl (by assumption) | with_reducible exact .inr rfl | with_reducible exact .inr ⟨rfl, rfl⟩
      | with_reducible exact .inr ⟨rfl, rfl, rfl⟩ | with_reducible exact .inr ⟨rfl, rfl, rfl, rfl⟩ | with_reducible exact .inr ⟨rfl, rfl, rfl, rfl, rfl⟩
      | with_reducible apply only_foldl | intro _ | (split))

theorem advance_only (htime : P .time) {s₀ s : State} (h : changesOnly P s₀ s) : changesOnly P s₀ (advance s) := by
  fun_cases advance s
  all_goals (intros; repeat' first
      | with_reducible assumption | with_reducible apply modTime_only | with_reducible apply only_ite | with_reducible apply only_mk
      | with_reducible exact .inl (by assumption) | with_reducible exact .inr rfl | with_reducible exact .inr ⟨rfl, rfl⟩
      | with_reducible exact .inr ⟨rfl, rfl, rfl⟩ | with_reducible exact .inr ⟨rfl, rfl, rfl, rfl⟩ | with_reducible exact .inr ⟨rfl, rfl, rfl, rfl, rfl⟩
      | with_reducible apply only_foldl | intro _ | (split))

theorem noteArrival_only (hrooms : P .rooms) (a0 : Nat) {s₀ s : State} (h : changesOnly P s₀ s) : changesOnly P s₀ (noteArrival a0 s) := by
  fun_cases noteArrival a0 s
  all_goals (intros; repeat' first
      | with_reducible assumption | with_reducible apply modRoom_only | with_reducible apply only_ite | with_reducible apply only_mk
      | with_reducible exact .inl (by assumption) | with_reducible exact .inr rfl | with_reducible exact .inr ⟨rfl, rfl⟩
      | with_reducible exact .inr ⟨rfl, rfl, rfl⟩ | with_reducible exact .inr ⟨rfl, rfl, rfl, rfl⟩ | with_reducible exact .inr ⟨rfl, rfl, rfl, rfl, rfl⟩
      | with_reducible apply only_foldl | intro _ | (split))

theorem modHealth_only (hhealth : P .health) (a0 : Health → Health) {s₀ s : State} (h : changesOnly P s₀ s) : changesOnly P s₀ (modHealth a0 s) := by
  fun_cases modHealth a0 s
  all_goals (intros; repeat' first
      | with_reducible assumption | with_reducible apply only_ite | with_reducible apply only_mk | with_reducible exact .inl (by assumption)
      | with_reducible exact .inr rfl | with_reducible exact .inr ⟨rfl, rfl⟩ | with_reducible exact .inr ⟨rfl, rfl, rfl⟩
      | with_reducible exact .inr ⟨rfl, rfl, rfl, rfl⟩ | with_reducible exact .inr ⟨rfl, rfl, rfl, rfl, rfl⟩ | with_reducible apply only_foldl | intro _
      | (split))

theorem wantRelocation_only (hhealth : P .health) (a0 : Nat) {s₀ s : State} (h : changesOnly P s₀ s) : changesOnly P s₀ (wantRelocation a0 s) := by
  fun_cases wantRelocation a0 s
  all_goals (intros; repeat' first
      | with_reducible assumption | with_reducible apply modHealth_only | with_reducible apply only_ite | with_reducible apply only_mk
      | with_reducible exact .inl (by assumption) | with_reducible exact .inr rfl | with_reducible exact .inr ⟨rfl, rfl⟩
      | with_reducible exact .inr ⟨rfl, rfl, rfl⟩ | with_reducible exact .inr ⟨rfl, rfl, rfl, rfl⟩ | with_reducible exact .inr ⟨rfl, rfl, rfl, rfl, rfl⟩
      | with_reducible apply only_foldl | intro _ | (split))

theorem noteBad_only (hhealth : P .health) (a0 : Nat) {s₀ s : State} (h : changesOnly P s₀ s) : changesOnly P s₀ (noteBad a0 s) := by
  fun_cases noteBad a0 s
  all_goals (intros; repeat' first
      | with_reducible assumption | with_reducible apply wantRelocation_only | with_reducible apply modHealth_only | with_reducible apply only_ite
      | with_reducible apply only_mk | with_reducible exact .inl (by assumption) | with_reducible exact .inr rfl | with_reducible exact .inr ⟨rfl, rfl⟩
      | with_reducible exact .inr ⟨rfl, rfl, rfl⟩ | with_reducible exact .inr ⟨rfl, rfl, rfl, rfl⟩ | with_reducible exact .inr ⟨rfl, rfl, rfl, rfl, rfl⟩
      | with_reducible apply only_foldl | intro _ | (split))

theorem noteRead_only (hhealth : P .health) (a0 : Nat) (a1 : Nat) {s₀ s : State} (h : changesOnly P s₀ s) : changesOnly P s₀ (noteRead a0 a1 s) := by
  fun_cases noteRead a0 a1 s
  all_goals (intros; repeat' first
      | with_reducible assumption | with_reducible apply noteBad_only | with_reducible apply only_ite | with_reducible apply only_mk
      | with_reducible exact .inl (by assumption) | with_reducible exact .inr rfl | with_reducible exact .inr ⟨rfl, rfl⟩
      | with_reducible exact .inr ⟨rfl, rfl, rfl⟩ | with_reducible exact .inr ⟨rfl, rfl, rfl, rfl⟩ | with_reducible exact .inr ⟨rfl, rfl, rfl, rfl, rfl⟩
      | with_reducible apply only_foldl | intro _ | (split))

theorem noteCorrected_only (hhealth : P .health) (a0 : Nat) {s₀ s : State} (h : changesOnly P s₀ s) : changesOnly P s₀ (noteCorrected a0 s) := by
  fun_cases noteCorrected a0 s
  all_goals (intros; repeat' first
      | with_reducible assumption | with_reducible apply wantRelocation_only | with_reducible apply modHealth_only | with_reducible apply only_ite
      | with_reducible apply only_mk | with_reducible exact .inl (by assumption) | with_reducible exact .inr rfl | with_reducible exact .inr ⟨rfl, rfl⟩
      | with_reducible exact .inr ⟨rfl, rfl, rfl⟩ | with_reducible exact .inr ⟨rfl, rfl, rfl, rfl⟩ | with_reducible exact .inr ⟨rfl, rfl, rfl, rfl, rfl⟩
      | with_reducible apply only_foldl | intro _ | (split))

theorem noteCorrectedAll_only (hhealth : P .health) (a0 : List Nat) {s₀ s : State} (h : changesOnly P s₀ s) : changesOnly P s₀ (noteCorrectedAll a0 s) := by
  fun_induction noteCorrectedAll a0 s
  all_goals intros
  all_goals first | with_reducible assumption | skip
  all_goals repeat' first
      | with_reducible assumption | with_reducible apply_assumption | with_reducible apply noteCorrected_only | with_reducible apply only_ite
      | with_reducible apply only_mk | with_reducible exact .inl (by assumption) | with_reducible exact .inr rfl | with_reducible exact .inr ⟨rfl, rfl⟩
      | with_reducible exact .inr ⟨rfl, rfl, rfl⟩ | with_reducible exact .inr ⟨rfl, rfl, rfl, rfl⟩ | with_reducible exact .inr ⟨rfl, rfl, rfl, rfl, rfl⟩
      | with_reducible apply only_foldl | intro _ | (split)

theorem putStore_only (hstore : P .store) (hintStatus : P .intStatus) (hmessages : P .messages) (hhealth : P .health) (a0 : Store) {s₀ s : State} (h :
    changesOnly P s₀ s) : changesOnly P s₀ (putStore a0 s) := by
  fun_cases putStore a0 s
  all_goals (intros; repeat' first
      | with_reducible assumption | with_reducible apply noteCorrectedAll_only | with_reducible apply raiseInt_only | with_reducible apply only_ite
      | with_reducible apply only_mk | with_reducible exact .inl (by assumption) | with_reducible exact .inr rfl | with_reducible exact .inr ⟨rfl, rfl⟩
      | with_reducible exact .inr ⟨rfl, rfl, rfl⟩ | with_reducible exact .inr ⟨rfl, rfl, rfl, rfl⟩ | with_reducible exact .inr ⟨rfl, rfl, rfl, rfl, rfl⟩
      | with_reducible apply only_foldl | intro _ | (split))

theorem raiseFault_only (hrooms : P .rooms) (a0 : Nat) (a1 : Nat) (a2 : Nat) (a3 : Nat) (a4 : Nat) (a5 : Nat) {s₀ s : State} (h : changesOnly P s₀ s) :
    changesOnly P s₀ (raiseFault a0 a1 a2 a3 a4 a5 s) := by
  fun_cases raiseFault a0 a1 a2 a3 a4 a5 s
  all_goals (intros; repeat' first
      | with_reducible assumption | with_reducible apply modRoom_only | with_reducible apply only_ite | with_reducible apply only_mk
      | with_reducible exact .inl (by assumption) | with_reducible exact .inr rfl | with_reducible exact .inr ⟨rfl, rfl⟩
      | with_reducible exact .inr ⟨rfl, rfl, rfl⟩ | with_reducible exact .inr ⟨rfl, rfl, rfl, rfl⟩ | with_reducible exact .inr ⟨rfl, rfl, rfl, rfl, rfl⟩
      | with_reducible apply only_foldl | intro _ | (split))

theorem commitRun_only (hfreeCtr : P .freeCtr) (hstore : P .store) (hrooms : P .rooms) (htasks : P .tasks) (hintStatus : P .intStatus) (hmessages : P .messages)
    (hhealth : P .health) (a0 : Nat) (a1 : Nat) (a2 : Nat) (a3 : Nat) (a4 : Run) {s₀ s : State} (h : changesOnly P s₀ s) : changesOnly P s₀ (commitRun a0 a1 a2
    a3 a4 s) := by
  fun_cases commitRun a0 a1 a2 a3 a4 s
  all_goals (intros; repeat' first
      | with_reducible assumption | with_reducible apply raiseFault_only | with_reducible apply putStore_only | with_reducible apply noteRead_only
      | with_reducible apply modRoom_only | with_reducible apply modTask_only | with_reducible apply only_ite | with_reducible apply only_mk
      | with_reducible exact .inl (by assumption) | with_reducible exact .inr rfl | with_reducible exact .inr ⟨rfl, rfl⟩
      | with_reducible exact .inr ⟨rfl, rfl, rfl⟩ | with_reducible exact .inr ⟨rfl, rfl, rfl, rfl⟩ | with_reducible exact .inr ⟨rfl, rfl, rfl, rfl, rfl⟩
      | with_reducible apply only_foldl | intro _ | (split))

theorem modPower_only (hpower : P .power) (a0 : Power → Power) {s₀ s : State} (h : changesOnly P s₀ s) : changesOnly P s₀ (modPower a0 s) := by
  fun_cases modPower a0 s
  all_goals (intros; repeat' first
      | with_reducible assumption | with_reducible apply only_ite | with_reducible apply only_mk | with_reducible exact .inl (by assumption)
      | with_reducible exact .inr rfl | with_reducible exact .inr ⟨rfl, rfl⟩ | with_reducible exact .inr ⟨rfl, rfl, rfl⟩
      | with_reducible exact .inr ⟨rfl, rfl, rfl, rfl⟩ | with_reducible exact .inr ⟨rfl, rfl, rfl, rfl, rfl⟩ | with_reducible apply only_foldl | intro _
      | (split))

theorem modHall_only (hpower : P .power) (a0 : Nat) (a1 : HallPow → HallPow) {s₀ s : State} (h : changesOnly P s₀ s) : changesOnly P s₀ (modHall a0 a1 s) := by
  fun_cases modHall a0 a1 s
  all_goals (intros; repeat' first
      | with_reducible assumption | with_reducible apply modPower_only | with_reducible apply only_ite | with_reducible apply only_mk
      | with_reducible exact .inl (by assumption) | with_reducible exact .inr rfl | with_reducible exact .inr ⟨rfl, rfl⟩
      | with_reducible exact .inr ⟨rfl, rfl, rfl⟩ | with_reducible exact .inr ⟨rfl, rfl, rfl, rfl⟩ | with_reducible exact .inr ⟨rfl, rfl, rfl, rfl, rfl⟩
      | with_reducible apply only_foldl | intro _ | (split))

theorem enterHold_only (hpower : P .power) (a0 : Nat) {s₀ s : State} (h : changesOnly P s₀ s) : changesOnly P s₀ (enterHold a0 s) := by
  fun_cases enterHold a0 s
  all_goals (intros; repeat' first
      | with_reducible assumption | with_reducible apply modHall_only | with_reducible apply only_ite | with_reducible apply only_mk
      | with_reducible exact .inl (by assumption) | with_reducible exact .inr rfl | with_reducible exact .inr ⟨rfl, rfl⟩
      | with_reducible exact .inr ⟨rfl, rfl, rfl⟩ | with_reducible exact .inr ⟨rfl, rfl, rfl, rfl⟩ | with_reducible exact .inr ⟨rfl, rfl, rfl, rfl, rfl⟩
      | with_reducible apply only_foldl | intro _ | (split))

theorem startGap_only (hfreeCtr : P .freeCtr) (hpower : P .power) (a0 : Nat) (a1 : Nat) {s₀ s : State} (h : changesOnly P s₀ s) : changesOnly P s₀ (startGap a0
    a1 s) := by
  fun_cases startGap a0 a1 s
  all_goals (intros; repeat' first
      | with_reducible assumption | with_reducible apply enterHold_only | with_reducible apply modPower_only | with_reducible apply only_ite
      | with_reducible apply only_mk | with_reducible exact .inl (by assumption) | with_reducible exact .inr rfl | with_reducible exact .inr ⟨rfl, rfl⟩
      | with_reducible exact .inr ⟨rfl, rfl, rfl⟩ | with_reducible exact .inr ⟨rfl, rfl, rfl, rfl⟩ | with_reducible exact .inr ⟨rfl, rfl, rfl, rfl, rfl⟩
      | with_reducible apply only_foldl | intro _ | (split))

theorem startGaps_only (hfreeCtr : P .freeCtr) (hpower : P .power) (a0 : Nat) (a1 : List Nat) {s₀ s : State} (h : changesOnly P s₀ s) : changesOnly P s₀
    (startGaps a0 a1 s) := by
  fun_induction startGaps a0 a1 s
  all_goals intros
  all_goals first | with_reducible assumption | skip
  all_goals repeat' first
      | with_reducible assumption | with_reducible apply_assumption | with_reducible apply startGap_only | with_reducible apply only_ite
      | with_reducible apply only_mk | with_reducible exact .inl (by assumption) | with_reducible exact .inr rfl | with_reducible exact .inr ⟨rfl, rfl⟩
      | with_reducible exact .inr ⟨rfl, rfl, rfl⟩ | with_reducible exact .inr ⟨rfl, rfl, rfl, rfl⟩ | with_reducible exact .inr ⟨rfl, rfl, rfl, rfl, rfl⟩
      | with_reducible apply only_foldl | intro _ | (split)

theorem setFlight_only (hfreeCtr : P .freeCtr) (hrooms : P .rooms) (hpower : P .power) (a0 : Nat) (a1 : InFlight) {s₀ s : State} (h : changesOnly P s₀ s) :
    changesOnly P s₀ (setFlight a0 a1 s) := by
  fun_cases setFlight a0 a1 s
  all_goals (intros; repeat' first
      | with_reducible assumption | with_reducible apply startGaps_only | with_reducible apply modRoom_only | with_reducible apply only_ite
      | with_reducible apply only_mk | with_reducible exact .inl (by assumption) | with_reducible exact .inr rfl | with_reducible exact .inr ⟨rfl, rfl⟩
      | with_reducible exact .inr ⟨rfl, rfl, rfl⟩ | with_reducible exact .inr ⟨rfl, rfl, rfl, rfl⟩ | with_reducible exact .inr ⟨rfl, rfl, rfl, rfl, rfl⟩
      | with_reducible apply only_foldl | intro _ | (split))

theorem commitStep_only (hfreeCtr : P .freeCtr) (hstore : P .store) (hrooms : P .rooms) (htasks : P .tasks) (hintStatus : P .intStatus) (hmessages : P
    .messages) (hpower : P .power) (hhealth : P .health) (a0 : Nat) (a1 : Nat) (a2 : Run × InFlight) {s₀ s : State} (h : changesOnly P s₀ s) : changesOnly P s₀
    (commitStep a0 a1 a2 s) := by
  fun_cases commitStep a0 a1 a2 s
  all_goals (intros; repeat' first
      | with_reducible assumption | with_reducible apply setFlight_only | with_reducible apply commitRun_only | with_reducible apply only_ite
      | with_reducible apply only_mk | with_reducible exact .inl (by assumption) | with_reducible exact .inr rfl | with_reducible exact .inr ⟨rfl, rfl⟩
      | with_reducible exact .inr ⟨rfl, rfl, rfl⟩ | with_reducible exact .inr ⟨rfl, rfl, rfl, rfl⟩ | with_reducible exact .inr ⟨rfl, rfl, rfl, rfl, rfl⟩
      | with_reducible apply only_foldl | intro _ | (split))

theorem ldsWork_only (hfreeCtr : P .freeCtr) (hstore : P .store) (hrooms : P .rooms) (htasks : P .tasks) (hintStatus : P .intStatus) (hmessages : P .messages)
    (hpower : P .power) (hhealth : P .health) (a0 : Nat) (a1 : Env) (a2 : Room) (a3 : Task) (a4 : InFlight) {s₀ s : State} (h : changesOnly P s₀ s) :
    changesOnly P s₀ (ldsWork a0 a1 a2 a3 a4 s) := by
  fun_cases ldsWork a0 a1 a2 a3 a4 s
  all_goals (intros; repeat' first
      | with_reducible assumption | with_reducible apply commitStep_only | with_reducible apply setFlight_only | with_reducible apply modRoom_only
      | with_reducible apply only_ite | with_reducible apply only_mk | with_reducible exact .inl (by assumption) | with_reducible exact .inr rfl
      | with_reducible exact .inr ⟨rfl, rfl⟩ | with_reducible exact .inr ⟨rfl, rfl, rfl⟩ | with_reducible exact .inr ⟨rfl, rfl, rfl, rfl⟩
      | with_reducible exact .inr ⟨rfl, rfl, rfl, rfl, rfl⟩ | with_reducible apply only_foldl | intro _ | (split))

theorem startAnnex_only (hrooms : P .rooms) (a0 : Nat) (a1 : Nat) (a2 : Bool) (a3 : InFlight) (a4 : List AnnexElem) {s₀ s : State} (h : changesOnly P s₀ s) :
    changesOnly P s₀ (startAnnex a0 a1 a2 a3 a4 s) := by
  fun_cases startAnnex a0 a1 a2 a3 a4 s
  all_goals (intros; repeat' first
      | with_reducible assumption | with_reducible apply modRoom_only | with_reducible apply only_ite | with_reducible apply only_mk
      | with_reducible exact .inl (by assumption) | with_reducible exact .inr rfl | with_reducible exact .inr ⟨rfl, rfl⟩
      | with_reducible exact .inr ⟨rfl, rfl, rfl⟩ | with_reducible exact .inr ⟨rfl, rfl, rfl, rfl⟩ | with_reducible exact .inr ⟨rfl, rfl, rfl, rfl, rfl⟩
      | with_reducible apply only_foldl | intro _ | (split))

theorem pairWork_only (hfreeCtr : P .freeCtr) (hstore : P .store) (hrooms : P .rooms) (htasks : P .tasks) (hintStatus : P .intStatus) (hmessages : P .messages)
    (hpower : P .power) (hhealth : P .health) (a0 : Nat) (a1 : Env) (a2 : Room) (a3 : Task) (a4 : InFlight) {s₀ s : State} (h : changesOnly P s₀ s) :
    changesOnly P s₀ (pairWork a0 a1 a2 a3 a4 s) := by
  fun_cases pairWork a0 a1 a2 a3 a4 s
  all_goals (intros; repeat' first
      | with_reducible assumption | with_reducible apply startAnnex_only | with_reducible apply commitStep_only | with_reducible apply only_ite
      | with_reducible apply only_mk | with_reducible exact .inl (by assumption) | with_reducible exact .inr rfl | with_reducible exact .inr ⟨rfl, rfl⟩
      | with_reducible exact .inr ⟨rfl, rfl, rfl⟩ | with_reducible exact .inr ⟨rfl, rfl, rfl, rfl⟩ | with_reducible exact .inr ⟨rfl, rfl, rfl, rfl, rfl⟩
      | with_reducible apply only_foldl | intro _ | (split))

theorem relayArrive_only (hrooms : P .rooms) (a0 : Nat) (a1 : Nat) (a2 : Bool) (a3 : List Byte) {s₀ s : State} (h : changesOnly P s₀ s) : changesOnly P s₀
    (relayArrive a0 a1 a2 a3 s) := by
  fun_cases relayArrive a0 a1 a2 a3 s
  all_goals (intros; repeat' first
      | with_reducible assumption | with_reducible apply modRoom_only | with_reducible apply only_ite | with_reducible apply only_mk
      | with_reducible exact .inl (by assumption) | with_reducible exact .inr rfl | with_reducible exact .inr ⟨rfl, rfl⟩
      | with_reducible exact .inr ⟨rfl, rfl, rfl⟩ | with_reducible exact .inr ⟨rfl, rfl, rfl, rfl⟩ | with_reducible exact .inr ⟨rfl, rfl, rfl, rfl, rfl⟩
      | with_reducible apply only_foldl | intro _ | (split))

theorem relayWork_only (hfreeCtr : P .freeCtr) (hstore : P .store) (hrooms : P .rooms) (htasks : P .tasks) (hintStatus : P .intStatus) (hmessages : P .messages)
    (hpower : P .power) (hhealth : P .health) (a0 : Nat) (a1 : Env) (a2 : Room) (a3 : Task) (a4 : InFlight) {s₀ s : State} (h : changesOnly P s₀ s) :
    changesOnly P s₀ (relayWork a0 a1 a2 a3 a4 s) := by
  unfold relayWork
  try dsimp only
  repeat' first
      | with_reducible assumption | with_reducible apply relayArrive_only | with_reducible apply commitStep_only | with_reducible apply setFlight_only
      | with_reducible apply modRoom_only | with_reducible apply only_ite | with_reducible apply only_foldl | intro _ | (split) | with_reducible apply only_mk
      | with_reducible exact .inl (by assumption) | with_reducible exact .inr rfl | with_reducible exact .inr ⟨rfl, rfl⟩
      | with_reducible exact .inr ⟨rfl, rfl, rfl⟩ | with_reducible exact .inr ⟨rfl, rfl, rfl, rfl⟩ | with_reducible exact .inr ⟨rfl, rfl, rfl, rfl, rfl⟩

theorem signalWork_only (hrooms : P .rooms) (a0 : Nat) (a1 : InFlight) {s₀ s : State} (h : changesOnly P s₀ s) : changesOnly P s₀ (signalWork a0 a1 s) := by
  fun_cases signalWork a0 a1 s
  all_goals (intros; repeat' first
      | with_reducible assumption | with_reducible apply raiseFault_only | with_reducible apply addSignal_only | with_reducible apply modRoom_only
      | with_reducible apply only_ite | with_reducible apply only_mk | with_reducible exact .inl (by assumption) | with_reducible exact .inr rfl
      | with_reducible exact .inr ⟨rfl, rfl⟩ | with_reducible exact .inr ⟨rfl, rfl, rfl⟩ | with_reducible exact .inr ⟨rfl, rfl, rfl, rfl⟩
      | with_reducible exact .inr ⟨rfl, rfl, rfl, rfl, rfl⟩ | with_reducible apply only_foldl | intro _ | (split))

theorem stuffWork_only (hfreeCtr : P .freeCtr) (hstore : P .store) (hrooms : P .rooms) (htasks : P .tasks) (hintStatus : P .intStatus) (hmessages : P .messages)
    (hpower : P .power) (hhealth : P .health) (a0 : Nat) (a1 : Env) (a2 : Room) (a3 : Task) (a4 : InFlight) {s₀ s : State} (h : changesOnly P s₀ s) :
    changesOnly P s₀ (stuffWork a0 a1 a2 a3 a4 s) := by
  fun_cases stuffWork a0 a1 a2 a3 a4 s
  all_goals (intros; repeat' first
      | with_reducible assumption | with_reducible apply commitStep_only | with_reducible apply only_ite | with_reducible apply only_mk
      | with_reducible exact .inl (by assumption) | with_reducible exact .inr rfl | with_reducible exact .inr ⟨rfl, rfl⟩
      | with_reducible exact .inr ⟨rfl, rfl, rfl⟩ | with_reducible exact .inr ⟨rfl, rfl, rfl, rfl⟩ | with_reducible exact .inr ⟨rfl, rfl, rfl, rfl, rfl⟩
      | with_reducible apply only_foldl | intro _ | (split))

theorem runStep_only (hfreeCtr : P .freeCtr) (hstore : P .store) (hrooms : P .rooms) (htasks : P .tasks) (hintStatus : P .intStatus) (hmessages : P .messages)
    (hpower : P .power) (hhealth : P .health) (a0 : Nat) (a1 : InFlight) {s₀ s : State} (h : changesOnly P s₀ s) : changesOnly P s₀ (runStep a0 a1 s) := by
  fun_cases runStep a0 a1 s
  all_goals (intros; repeat' first
      | with_reducible assumption | with_reducible apply stuffWork_only | with_reducible apply signalWork_only | with_reducible apply relayWork_only
      | with_reducible apply pairWork_only | with_reducible apply ldsWork_only | with_reducible apply commitStep_only | with_reducible apply setFlight_only
      | with_reducible apply modRoom_only | with_reducible apply only_ite | with_reducible apply only_mk | with_reducible exact .inl (by assumption)
      | with_reducible exact .inr rfl | with_reducible exact .inr ⟨rfl, rfl⟩ | with_reducible exact .inr ⟨rfl, rfl, rfl⟩
      | with_reducible exact .inr ⟨rfl, rfl, rfl, rfl⟩ | with_reducible exact .inr ⟨rfl, rfl, rfl, rfl, rfl⟩ | with_reducible apply only_foldl | intro _
      | (split))

theorem modPace_only (hpace : P .pace) (a0 : Pace → Pace) {s₀ s : State} (h : changesOnly P s₀ s) : changesOnly P s₀ (modPace a0 s) := by
  fun_cases modPace a0 s
  all_goals (intros; repeat' first
      | with_reducible assumption | with_reducible apply only_ite | with_reducible apply only_mk | with_reducible exact .inl (by assumption)
      | with_reducible exact .inr rfl | with_reducible exact .inr ⟨rfl, rfl⟩ | with_reducible exact .inr ⟨rfl, rfl, rfl⟩
      | with_reducible exact .inr ⟨rfl, rfl, rfl, rfl⟩ | with_reducible exact .inr ⟨rfl, rfl, rfl, rfl, rfl⟩ | with_reducible apply only_foldl | intro _
      | (split))

theorem takeCycle_only (hpace : P .pace) (a0 : PaceUnit) {s₀ s : State} (h : changesOnly P s₀ s) : changesOnly P s₀ (takeCycle a0 s) := by
  fun_cases takeCycle a0 s
  all_goals (intros; repeat' first
      | with_reducible assumption | with_reducible apply modPace_only | with_reducible apply only_ite | with_reducible apply only_mk
      | with_reducible exact .inl (by assumption) | with_reducible exact .inr rfl | with_reducible exact .inr ⟨rfl, rfl⟩
      | with_reducible exact .inr ⟨rfl, rfl, rfl⟩ | with_reducible exact .inr ⟨rfl, rfl, rfl, rfl⟩ | with_reducible exact .inr ⟨rfl, rfl, rfl, rfl, rfl⟩
      | with_reducible apply only_foldl | intro _ | (split))

theorem takeAll_only (hpace : P .pace) (a0 : List PaceUnit) {s₀ s : State} (h : changesOnly P s₀ s) : changesOnly P s₀ (takeAll a0 s) := by
  fun_induction takeAll a0 s
  all_goals intros
  all_goals first | with_reducible assumption | skip
  all_goals repeat' first
      | with_reducible assumption | with_reducible apply_assumption | with_reducible apply takeCycle_only | with_reducible apply only_ite
      | with_reducible apply only_mk | with_reducible exact .inl (by assumption) | with_reducible exact .inr rfl | with_reducible exact .inr ⟨rfl, rfl⟩
      | with_reducible exact .inr ⟨rfl, rfl, rfl⟩ | with_reducible exact .inr ⟨rfl, rfl, rfl, rfl⟩ | with_reducible exact .inr ⟨rfl, rfl, rfl, rfl, rfl⟩
      | with_reducible apply only_foldl | intro _ | (split)

theorem pacedStep_only (hfreeCtr : P .freeCtr) (hstore : P .store) (hrooms : P .rooms) (htasks : P .tasks) (hintStatus : P .intStatus) (hmessages : P .messages)
    (hpace : P .pace) (hpower : P .power) (hhealth : P .health) (a0 : Nat) (a1 : InFlight) {s₀ s : State} (h : changesOnly P s₀ s) : changesOnly P s₀ (pacedStep
    a0 a1 s) := by
  fun_cases pacedStep a0 a1 s
  all_goals (intros; repeat' first
      | with_reducible assumption | with_reducible apply takeAll_only | with_reducible apply runStep_only | with_reducible apply only_ite
      | with_reducible apply only_mk | with_reducible exact .inl (by assumption) | with_reducible exact .inr rfl | with_reducible exact .inr ⟨rfl, rfl⟩
      | with_reducible exact .inr ⟨rfl, rfl, rfl⟩ | with_reducible exact .inr ⟨rfl, rfl, rfl, rfl⟩ | with_reducible exact .inr ⟨rfl, rfl, rfl, rfl, rfl⟩
      | with_reducible apply only_foldl | intro _ | (split))

theorem sendSignals_only (hfreeCtr : P .freeCtr) (hstore : P .store) (hrooms : P .rooms) (htasks : P .tasks) (hintStatus : P .intStatus) (hmessages : P
    .messages) (hpace : P .pace) (hpower : P .power) (hhealth : P .health) (a0 : Nat) (a1 : Nat) {s₀ s : State} (h : changesOnly P s₀ s) : changesOnly P s₀
    (sendSignals a0 a1 s) := by
  fun_induction sendSignals a0 a1 s
  all_goals intros
  all_goals first | with_reducible assumption | skip
  all_goals repeat' first
      | with_reducible assumption | with_reducible apply_assumption | with_reducible apply pacedStep_only | with_reducible apply only_ite
      | with_reducible apply only_mk | with_reducible exact .inl (by assumption) | with_reducible exact .inr rfl | with_reducible exact .inr ⟨rfl, rfl⟩
      | with_reducible exact .inr ⟨rfl, rfl, rfl⟩ | with_reducible exact .inr ⟨rfl, rfl, rfl, rfl⟩ | with_reducible exact .inr ⟨rfl, rfl, rfl, rfl, rfl⟩
      | with_reducible apply only_foldl | intro _ | (split)

theorem settle_only (hfreeCtr : P .freeCtr) (hstore : P .store) (hrooms : P .rooms) (htasks : P .tasks) (hintStatus : P .intStatus) (hmessages : P .messages)
    (hpace : P .pace) (hpower : P .power) (hhealth : P .health) (a0 : Nat) {s₀ s : State} (h : changesOnly P s₀ s) : changesOnly P s₀ (settle a0 s) := by
  fun_cases settle a0 s
  all_goals (intros; repeat' first
      | with_reducible assumption | with_reducible apply sendSignals_only | with_reducible apply noteArrival_only | with_reducible apply only_ite
      | with_reducible apply only_mk | with_reducible exact .inl (by assumption) | with_reducible exact .inr rfl | with_reducible exact .inr ⟨rfl, rfl⟩
      | with_reducible exact .inr ⟨rfl, rfl, rfl⟩ | with_reducible exact .inr ⟨rfl, rfl, rfl, rfl⟩ | with_reducible exact .inr ⟨rfl, rfl, rfl, rfl, rfl⟩
      | with_reducible apply only_foldl | intro _ | (split))

theorem stepOnce_only (hfreeCtr : P .freeCtr) (hstore : P .store) (hrooms : P .rooms) (htasks : P .tasks) (hintStatus : P .intStatus) (hmessages : P .messages)
    (hpace : P .pace) (hpower : P .power) (hhealth : P .health) (a0 : Nat) (a1 : Nat) {s₀ s : State} (h : changesOnly P s₀ s) : changesOnly P s₀ (stepOnce a0 a1
    s) := by
  fun_cases stepOnce a0 a1 s
  all_goals (intros; repeat' first
      | with_reducible assumption | with_reducible apply pacedStep_only | with_reducible apply only_ite | with_reducible apply only_mk
      | with_reducible exact .inl (by assumption) | with_reducible exact .inr rfl | with_reducible exact .inr ⟨rfl, rfl⟩
      | with_reducible exact .inr ⟨rfl, rfl, rfl⟩ | with_reducible exact .inr ⟨rfl, rfl, rfl, rfl⟩ | with_reducible exact .inr ⟨rfl, rfl, rfl, rfl, rfl⟩
      | with_reducible apply only_foldl | intro _ | (split))

theorem advanceRoom_only (hfreeCtr : P .freeCtr) (hstore : P .store) (hrooms : P .rooms) (htasks : P .tasks) (hintStatus : P .intStatus) (hmessages : P
    .messages) (hpace : P .pace) (hpower : P .power) (hhealth : P .health) (a0 : Nat) {s₀ s : State} (h : changesOnly P s₀ s) : changesOnly P s₀ (advanceRoom a0
    s) := by
  unfold advanceRoom
  try dsimp only
  repeat' first
      | with_reducible assumption | with_reducible apply stepOnce_only | with_reducible apply settle_only | with_reducible apply only_ite
      | with_reducible apply only_foldl | intro _ | (split) | with_reducible apply only_mk | with_reducible exact .inl (by assumption)
      | with_reducible exact .inr rfl | with_reducible exact .inr ⟨rfl, rfl⟩ | with_reducible exact .inr ⟨rfl, rfl, rfl⟩
      | with_reducible exact .inr ⟨rfl, rfl, rfl, rfl⟩ | with_reducible exact .inr ⟨rfl, rfl, rfl, rfl, rfl⟩

theorem advanceRooms_only (hfreeCtr : P .freeCtr) (hstore : P .store) (hrooms : P .rooms) (htasks : P .tasks) (hintStatus : P .intStatus) (hmessages : P
    .messages) (hpace : P .pace) (hpower : P .power) (hhealth : P .health) {s₀ s : State} (h : changesOnly P s₀ s) : changesOnly P s₀ (advanceRooms s) := by
  unfold advanceRooms
  try dsimp only
  repeat' first
      | with_reducible assumption | with_reducible apply advanceRoom_only | with_reducible apply only_ite | with_reducible apply only_foldl | intro _
      | (split) | with_reducible apply only_mk | with_reducible exact .inl (by assumption) | with_reducible exact .inr rfl
      | with_reducible exact .inr ⟨rfl, rfl⟩ | with_reducible exact .inr ⟨rfl, rfl, rfl⟩ | with_reducible exact .inr ⟨rfl, rfl, rfl, rfl⟩
      | with_reducible exact .inr ⟨rfl, rfl, rfl, rfl, rfl⟩

theorem hardReset_only (hstore : P .store) (hrooms : P .rooms) (hoffered : P .offered) (hphase : P .phase) (hhealthSt : P .healthSt) (hfabricSt : P .fabricSt)
    (hserving : P .serving) (hmboxes : P .mboxes) (hstaged : P .staged) (hctxs : P .ctxs) (hqueues : P .queues) (hfences : P .fences) (himages : P .images)
    (htasks : P .tasks) (hidentity : P .identity) (hintStatus : P .intStatus) (hintEnable : P .intEnable) (htimeout : P .timeout) (hhostErrors : P .hostErrors)
    (hrequests : P .requests) (hmessages : P .messages) (hporch : P .porch) (hside : P .side) (hhatch : P .hatch) (hports : P .ports) (hkeep : P .keep) (hsnap :
    P .snap) (hfabric : P .fabric) (hlinks : P .links) (htime : P .time) (hpace : P .pace) (hpower : P .power) (hhealth : P .health) (hseq : P .seq) {s₀ s :
    State} (h : changesOnly P s₀ s) : changesOnly P s₀ (hardReset s) := by
  fun_cases hardReset s
  all_goals (intros; repeat' first
      | with_reducible assumption | with_reducible apply only_ite | with_reducible apply only_mk | with_reducible exact .inl (by assumption)
      | with_reducible exact .inr rfl | with_reducible exact .inr ⟨rfl, rfl⟩ | with_reducible exact .inr ⟨rfl, rfl, rfl⟩
      | with_reducible exact .inr ⟨rfl, rfl, rfl, rfl⟩ | with_reducible exact .inr ⟨rfl, rfl, rfl, rfl, rfl⟩ | with_reducible apply only_foldl | intro _
      | (split))

theorem modSeq_only (hseq : P .seq) (a0 : Seq → Seq) {s₀ s : State} (h : changesOnly P s₀ s) : changesOnly P s₀ (modSeq a0 s) := by
  fun_cases modSeq a0 s
  all_goals (intros; repeat' first
      | with_reducible assumption | with_reducible apply only_ite | with_reducible apply only_mk | with_reducible exact .inl (by assumption)
      | with_reducible exact .inr rfl | with_reducible exact .inr ⟨rfl, rfl⟩ | with_reducible exact .inr ⟨rfl, rfl, rfl⟩
      | with_reducible exact .inr ⟨rfl, rfl, rfl, rfl⟩ | with_reducible exact .inr ⟨rfl, rfl, rfl, rfl, rfl⟩ | with_reducible apply only_foldl | intro _
      | (split))

theorem dropNext_only (hstore : P .store) (hrooms : P .rooms) (hoffered : P .offered) (hphase : P .phase) (hhealthSt : P .healthSt) (hfabricSt : P .fabricSt)
    (hserving : P .serving) (hmboxes : P .mboxes) (hstaged : P .staged) (hctxs : P .ctxs) (hqueues : P .queues) (hfences : P .fences) (himages : P .images)
    (htasks : P .tasks) (hidentity : P .identity) (hintStatus : P .intStatus) (hintEnable : P .intEnable) (htimeout : P .timeout) (hhostErrors : P .hostErrors)
    (hrequests : P .requests) (hmessages : P .messages) (hporch : P .porch) (hside : P .side) (hhatch : P .hatch) (hports : P .ports) (hkeep : P .keep) (hsnap :
    P .snap) (hfabric : P .fabric) (hlinks : P .links) (htime : P .time) (hpace : P .pace) (hpower : P .power) (hhealth : P .health) (hseq : P .seq) {s₀ s :
    State} (h : changesOnly P s₀ s) : changesOnly P s₀ (dropNext s) := by
  fun_cases dropNext s
  all_goals (intros; repeat' first
      | with_reducible assumption | with_reducible apply modSeq_only | with_reducible apply hardReset_only | with_reducible apply only_ite
      | with_reducible apply only_mk | with_reducible exact .inl (by assumption) | with_reducible exact .inr rfl | with_reducible exact .inr ⟨rfl, rfl⟩
      | with_reducible exact .inr ⟨rfl, rfl, rfl⟩ | with_reducible exact .inr ⟨rfl, rfl, rfl, rfl⟩ | with_reducible exact .inr ⟨rfl, rfl, rfl, rfl, rfl⟩
      | with_reducible apply only_foldl | intro _ | (split))

theorem afterDrop_only (hstore : P .store) (hrooms : P .rooms) (hoffered : P .offered) (hphase : P .phase) (hhealthSt : P .healthSt) (hfabricSt : P .fabricSt)
    (hserving : P .serving) (hmboxes : P .mboxes) (hstaged : P .staged) (hctxs : P .ctxs) (hqueues : P .queues) (hfences : P .fences) (himages : P .images)
    (htasks : P .tasks) (hidentity : P .identity) (hintStatus : P .intStatus) (hintEnable : P .intEnable) (htimeout : P .timeout) (hhostErrors : P .hostErrors)
    (hrequests : P .requests) (hmessages : P .messages) (hporch : P .porch) (hside : P .side) (hhatch : P .hatch) (hports : P .ports) (hkeep : P .keep) (hsnap :
    P .snap) (hfabric : P .fabric) (hlinks : P .links) (htime : P .time) (hpace : P .pace) (hpower : P .power) (hhealth : P .health) (hseq : P .seq) (a0 : Nat)
    {s₀ s : State} (h : changesOnly P s₀ s) : changesOnly P s₀ (afterDrop a0 s) := by
  fun_cases afterDrop a0 s
  all_goals (intros; repeat' first
      | with_reducible assumption | with_reducible apply dropNext_only | with_reducible apply only_ite | with_reducible apply only_mk
      | with_reducible exact .inl (by assumption) | with_reducible exact .inr rfl | with_reducible exact .inr ⟨rfl, rfl⟩
      | with_reducible exact .inr ⟨rfl, rfl, rfl⟩ | with_reducible exact .inr ⟨rfl, rfl, rfl, rfl⟩ | with_reducible exact .inr ⟨rfl, rfl, rfl, rfl, rfl⟩
      | with_reducible apply only_foldl | intro _ | (split))

theorem phaseEnd_only (hpower : P .power) (a0 : Nat) {s₀ s : State} (h : changesOnly P s₀ s) : changesOnly P s₀ (phaseEnd a0 s) := by
  fun_cases phaseEnd a0 s
  all_goals (intros; repeat' first
      | with_reducible assumption | with_reducible apply modHall_only | with_reducible apply modPower_only | with_reducible apply only_ite
      | with_reducible apply only_mk | with_reducible exact .inl (by assumption) | with_reducible exact .inr rfl | with_reducible exact .inr ⟨rfl, rfl⟩
      | with_reducible exact .inr ⟨rfl, rfl, rfl⟩ | with_reducible exact .inr ⟨rfl, rfl, rfl, rfl⟩ | with_reducible exact .inr ⟨rfl, rfl, rfl, rfl, rfl⟩
      | with_reducible apply only_foldl | intro _ | (split))

theorem phaseStart_only (hpower : P .power) (a0 : Nat) (a1 : HintRec) {s₀ s : State} (h : changesOnly P s₀ s) : changesOnly P s₀ (phaseStart a0 a1 s) := by
  fun_cases phaseStart a0 a1 s
  all_goals (intros; repeat' first
      | with_reducible assumption | with_reducible apply phaseEnd_only | with_reducible apply modHall_only | with_reducible apply only_ite
      | with_reducible apply only_mk | with_reducible exact .inl (by assumption) | with_reducible exact .inr rfl | with_reducible exact .inr ⟨rfl, rfl⟩
      | with_reducible exact .inr ⟨rfl, rfl, rfl⟩ | with_reducible exact .inr ⟨rfl, rfl, rfl, rfl⟩ | with_reducible exact .inr ⟨rfl, rfl, rfl, rfl, rfl⟩
      | with_reducible apply only_foldl | intro _ | (split))

theorem aheadStarts_only (hpower : P .power) (a0 : List Nat) {s₀ s : State} (h : changesOnly P s₀ s) : changesOnly P s₀ (aheadStarts a0 s) := by
  induction a0 generalizing  s with
  | nil => exact h
  | cons x xs ih =>
    rw [aheadStarts]
    repeat' first
      | with_reducible apply ih
      | with_reducible assumption | with_reducible apply_assumption | with_reducible apply phaseStart_only | with_reducible apply modHall_only
      | with_reducible apply only_ite | with_reducible apply only_foldl | intro _ | (split) | with_reducible apply only_mk
      | with_reducible exact .inl (by assumption) | with_reducible exact .inr rfl | with_reducible exact .inr ⟨rfl, rfl⟩
      | with_reducible exact .inr ⟨rfl, rfl, rfl⟩ | with_reducible exact .inr ⟨rfl, rfl, rfl, rfl⟩ | with_reducible exact .inr ⟨rfl, rfl, rfl, rfl, rfl⟩

theorem putPort_only (hlinks : P .links) (a0 : Nat) (a1 : Nat) (a2 : Port) {s₀ s : State} (h : changesOnly P s₀ s) : changesOnly P s₀ (putPort a0 a1 a2 s) := by
  fun_cases putPort a0 a1 a2 s
  all_goals (intros; repeat' first
      | with_reducible assumption | with_reducible apply only_ite | with_reducible apply only_mk | with_reducible exact .inl (by assumption)
      | with_reducible exact .inr rfl | with_reducible exact .inr ⟨rfl, rfl⟩ | with_reducible exact .inr ⟨rfl, rfl, rfl⟩
      | with_reducible exact .inr ⟨rfl, rfl, rfl, rfl⟩ | with_reducible exact .inr ⟨rfl, rfl, rfl, rfl, rfl⟩ | with_reducible apply only_foldl | intro _
      | (split))

theorem modPort_only (hlinks : P .links) (a0 : Nat) (a1 : Nat) (a2 : Port → Port) {s₀ s : State} (h : changesOnly P s₀ s) : changesOnly P s₀ (modPort a0 a1 a2
    s) := by
  fun_cases modPort a0 a1 a2 s
  all_goals (intros; repeat' first
      | with_reducible assumption | with_reducible apply putPort_only | with_reducible apply only_ite | with_reducible apply only_mk
      | with_reducible exact .inl (by assumption) | with_reducible exact .inr rfl | with_reducible exact .inr ⟨rfl, rfl⟩
      | with_reducible exact .inr ⟨rfl, rfl, rfl⟩ | with_reducible exact .inr ⟨rfl, rfl, rfl, rfl⟩ | with_reducible exact .inr ⟨rfl, rfl, rfl, rfl, rfl⟩
      | with_reducible apply only_foldl | intro _ | (split))

theorem modPorts_only (hlinks : P .links) (a0 : Nat) (a1 : Nat → Port → Port) (a2 : List Nat) {s₀ s : State} (h : changesOnly P s₀ s) : changesOnly P s₀
    (modPorts a0 a1 a2 s) := by
  fun_induction modPorts a0 a1 a2 s
  all_goals intros
  all_goals first | with_reducible assumption | skip
  all_goals repeat' first
      | with_reducible assumption | with_reducible apply_assumption | with_reducible apply modPort_only | with_reducible apply only_ite
      | with_reducible apply only_mk | with_reducible exact .inl (by assumption) | with_reducible exact .inr rfl | with_reducible exact .inr ⟨rfl, rfl⟩
      | with_reducible exact .inr ⟨rfl, rfl, rfl⟩ | with_reducible exact .inr ⟨rfl, rfl, rfl, rfl⟩ | with_reducible exact .inr ⟨rfl, rfl, rfl, rfl, rfl⟩
      | with_reducible apply only_foldl | intro _ | (split)

theorem alignRates_only (hlinks : P .links) (a0 : Nat) (a1 : List (BitVec 64 × Nat)) {s₀ s : State} (h : changesOnly P s₀ s) : changesOnly P s₀ (alignRates a0
    a1 s) := by
  fun_induction alignRates a0 a1 s
  all_goals intros
  all_goals first | with_reducible assumption | skip
  all_goals repeat' first
      | with_reducible assumption | with_reducible apply_assumption | with_reducible apply modPorts_only | with_reducible apply only_ite
      | with_reducible apply only_mk | with_reducible exact .inl (by assumption) | with_reducible exact .inr rfl | with_reducible exact .inr ⟨rfl, rfl⟩
      | with_reducible exact .inr ⟨rfl, rfl, rfl⟩ | with_reducible exact .inr ⟨rfl, rfl, rfl, rfl⟩ | with_reducible exact .inr ⟨rfl, rfl, rfl, rfl, rfl⟩
      | with_reducible apply only_foldl | intro _ | (split)

theorem modMbox_only (hmboxes : P .mboxes) (a0 : Nat) (a1 : Mailbox → Mailbox) {s₀ s : State} (h : changesOnly P s₀ s) : changesOnly P s₀ (modMbox a0 a1 s) := by
  fun_cases modMbox a0 a1 s
  all_goals (intros; repeat' first
      | with_reducible assumption | with_reducible apply only_ite | with_reducible apply only_mk | with_reducible exact .inl (by assumption)
      | with_reducible exact .inr rfl | with_reducible exact .inr ⟨rfl, rfl⟩ | with_reducible exact .inr ⟨rfl, rfl, rfl⟩
      | with_reducible exact .inr ⟨rfl, rfl, rfl, rfl⟩ | with_reducible exact .inr ⟨rfl, rfl, rfl, rfl, rfl⟩ | with_reducible apply only_foldl | intro _
      | (split))

theorem writeRsp_only (hmboxes : P .mboxes) (hrequests : P .requests) (hmessages : P .messages) (a0 : Nat) (a1 : MsgWord) (a2 : Bool) (a3 : Bool) {s₀ s : State}
    (h : changesOnly P s₀ s) : changesOnly P s₀ (writeRsp a0 a1 a2 a3 s) := by
  fun_cases writeRsp a0 a1 a2 a3 s
  all_goals (intros; repeat' first
      | with_reducible assumption | with_reducible apply modMbox_only | with_reducible apply issueReq_only | with_reducible apply only_ite
      | with_reducible apply only_mk | with_reducible exact .inl (by assumption) | with_reducible exact .inr rfl | with_reducible exact .inr ⟨rfl, rfl⟩
      | with_reducible exact .inr ⟨rfl, rfl, rfl⟩ | with_reducible exact .inr ⟨rfl, rfl, rfl, rfl⟩ | with_reducible exact .inr ⟨rfl, rfl, rfl, rfl, rfl⟩
      | with_reducible apply only_foldl | intro _ | (split))

theorem respond_only (hmboxes : P .mboxes) (hrequests : P .requests) (hmessages : P .messages) (a0 : Nat) (a1 : Nat) (a2 : List (Nat × Nat × Nat)) {s₀ s :
    State} (h : changesOnly P s₀ s) : changesOnly P s₀ (respond a0 a1 a2 s) := by
  fun_cases respond a0 a1 a2 s
  all_goals (intros; repeat' first
      | with_reducible assumption | with_reducible apply writeRsp_only | with_reducible apply modMbox_only | with_reducible apply only_ite
      | with_reducible apply only_mk | with_reducible exact .inl (by assumption) | with_reducible exact .inr rfl | with_reducible exact .inr ⟨rfl, rfl⟩
      | with_reducible exact .inr ⟨rfl, rfl, rfl⟩ | with_reducible exact .inr ⟨rfl, rfl, rfl, rfl⟩ | with_reducible exact .inr ⟨rfl, rfl, rfl, rfl, rfl⟩
      | with_reducible apply only_foldl | intro _ | (split))

theorem answerAborts_only (hmboxes : P .mboxes) (hrequests : P .requests) (hmessages : P .messages) (a0 : Nat) (a1 : Nat) (a2 : List Nat) {s₀ s : State} (h :
    changesOnly P s₀ s) : changesOnly P s₀ (answerAborts a0 a1 a2 s) := by
  fun_induction answerAborts a0 a1 a2 s
  all_goals intros
  all_goals first | with_reducible assumption | skip
  all_goals repeat' first
      | with_reducible assumption | with_reducible apply_assumption | with_reducible apply respond_only | with_reducible apply only_ite
      | with_reducible apply only_mk | with_reducible exact .inl (by assumption) | with_reducible exact .inr rfl | with_reducible exact .inr ⟨rfl, rfl⟩
      | with_reducible exact .inr ⟨rfl, rfl, rfl⟩ | with_reducible exact .inr ⟨rfl, rfl, rfl, rfl⟩ | with_reducible exact .inr ⟨rfl, rfl, rfl, rfl, rfl⟩
      | with_reducible apply only_foldl | intro _ | (split)

theorem modUnit_only (hhealth : P .health) (a0 : Nat) (a1 : Nat) (a2 : UnitRec → UnitRec) {s₀ s : State} (h : changesOnly P s₀ s) : changesOnly P s₀ (modUnit a0
    a1 a2 s) := by
  fun_cases modUnit a0 a1 a2 s
  all_goals (intros; repeat' first
      | with_reducible assumption | with_reducible apply only_ite | with_reducible apply only_mk | with_reducible exact .inl (by assumption)
      | with_reducible exact .inr rfl | with_reducible exact .inr ⟨rfl, rfl⟩ | with_reducible exact .inr ⟨rfl, rfl, rfl⟩
      | with_reducible exact .inr ⟨rfl, rfl, rfl, rfl⟩ | with_reducible exact .inr ⟨rfl, rfl, rfl, rfl, rfl⟩ | with_reducible apply only_foldl | intro _
      | (split))

theorem countFault_only (hhealth : P .health) (a0 : Nat) (a1 : Nat) (a2 : Nat) {s₀ s : State} (h : changesOnly P s₀ s) : changesOnly P s₀ (countFault a0 a1 a2
    s) := by
  fun_cases countFault a0 a1 a2 s
  all_goals (intros; repeat' first
      | with_reducible assumption | with_reducible apply modUnit_only | with_reducible apply only_ite | with_reducible apply only_mk
      | with_reducible exact .inl (by assumption) | with_reducible exact .inr rfl | with_reducible exact .inr ⟨rfl, rfl⟩
      | with_reducible exact .inr ⟨rfl, rfl, rfl⟩ | with_reducible exact .inr ⟨rfl, rfl, rfl, rfl⟩ | with_reducible exact .inr ⟨rfl, rfl, rfl, rfl, rfl⟩
      | with_reducible apply only_foldl | intro _ | (split))

theorem setHealth_only (hhealthSt : P .healthSt) (hintStatus : P .intStatus) (hmessages : P .messages) (a0 : Nat) {s₀ s : State} (h : changesOnly P s₀ s) :
    changesOnly P s₀ (setHealth a0 s) := by
  fun_cases setHealth a0 s
  all_goals (intros; repeat' first
      | with_reducible assumption | with_reducible apply raiseInt_only | with_reducible apply only_ite | with_reducible apply only_mk
      | with_reducible exact .inl (by assumption) | with_reducible exact .inr rfl | with_reducible exact .inr ⟨rfl, rfl⟩
      | with_reducible exact .inr ⟨rfl, rfl, rfl⟩ | with_reducible exact .inr ⟨rfl, rfl, rfl, rfl⟩ | with_reducible exact .inr ⟨rfl, rfl, rfl, rfl, rfl⟩
      | with_reducible apply only_foldl | intro _ | (split))

theorem blame_only (hhealthSt : P .healthSt) (hintStatus : P .intStatus) (hmessages : P .messages) (hhealth : P .health) (a0 : Nat) (a1 : Nat) (a2 : Nat) (a3 :
    Option Nat) (a4 : Option Nat) (a5 : Option Mismatch) {s₀ s : State} (h : changesOnly P s₀ s) : changesOnly P s₀ (blame a0 a1 a2 a3 a4 a5 s) := by
  fun_cases blame a0 a1 a2 a3 a4 a5 s
  all_goals (intros; repeat' first
      | with_reducible assumption | with_reducible apply setHealth_only | with_reducible apply countFault_only | with_reducible apply modHealth_only
      | with_reducible apply only_ite | with_reducible apply only_mk | with_reducible exact .inl (by assumption) | with_reducible exact .inr rfl
      | with_reducible exact .inr ⟨rfl, rfl⟩ | with_reducible exact .inr ⟨rfl, rfl, rfl⟩ | with_reducible exact .inr ⟨rfl, rfl, rfl, rfl⟩
      | with_reducible exact .inr ⟨rfl, rfl, rfl, rfl, rfl⟩ | with_reducible apply only_foldl | intro _ | (split))

theorem blameBank_only (hhealthSt : P .healthSt) (hintStatus : P .intStatus) (hmessages : P .messages) (hhealth : P .health) (a0 : Nat) (a1 : Nat) {s₀ s :
    State} (h : changesOnly P s₀ s) : changesOnly P s₀ (blameBank a0 a1 s) := by
  fun_cases blameBank a0 a1 s
  all_goals (intros; repeat' first
      | with_reducible assumption | with_reducible apply blame_only | with_reducible apply noteBad_only | with_reducible apply only_ite
      | with_reducible apply only_mk | with_reducible exact .inl (by assumption) | with_reducible exact .inr rfl | with_reducible exact .inr ⟨rfl, rfl⟩
      | with_reducible exact .inr ⟨rfl, rfl, rfl⟩ | with_reducible exact .inr ⟨rfl, rfl, rfl, rfl⟩ | with_reducible exact .inr ⟨rfl, rfl, rfl, rfl, rfl⟩
      | with_reducible apply only_foldl | intro _ | (split))

theorem modStore_only (hstore : P .store) (a0 : Store → Store) {s₀ s : State} (h : changesOnly P s₀ s) : changesOnly P s₀ (modStore a0 s) := by
  fun_cases modStore a0 s
  all_goals (intros; repeat' first
      | with_reducible assumption | with_reducible apply only_ite | with_reducible apply only_mk | with_reducible exact .inl (by assumption)
      | with_reducible exact .inr rfl | with_reducible exact .inr ⟨rfl, rfl⟩ | with_reducible exact .inr ⟨rfl, rfl, rfl⟩
      | with_reducible exact .inr ⟨rfl, rfl, rfl, rfl⟩ | with_reducible exact .inr ⟨rfl, rfl, rfl, rfl, rfl⟩ | with_reducible apply only_foldl | intro _
      | (split))

theorem commitPoint_only (hstore : P .store) (hhealthSt : P .healthSt) (htasks : P .tasks) (hintStatus : P .intStatus) (hmessages : P .messages) (hhealth : P
    .health) (a0 : Nat) (a1 : List Nat) (a2 : PointL) {s₀ s : State} (h : changesOnly P s₀ s) : changesOnly P s₀ (commitPoint a0 a1 a2 s) := by
  fun_cases commitPoint a0 a1 a2 s
  all_goals (intros; repeat' first
      | with_reducible assumption | with_reducible apply modStore_only | with_reducible apply blameBank_only | with_reducible apply putStore_only
      | with_reducible apply modTask_only | with_reducible apply only_ite | with_reducible apply only_mk | with_reducible exact .inl (by assumption)
      | with_reducible exact .inr rfl | with_reducible exact .inr ⟨rfl, rfl⟩ | with_reducible exact .inr ⟨rfl, rfl, rfl⟩
      | with_reducible exact .inr ⟨rfl, rfl, rfl, rfl⟩ | with_reducible exact .inr ⟨rfl, rfl, rfl, rfl, rfl⟩ | with_reducible apply only_foldl | intro _
      | (split))

theorem commitAll_only (hstore : P .store) (hhealthSt : P .healthSt) (htasks : P .tasks) (hintStatus : P .intStatus) (hmessages : P .messages) (hhealth : P
    .health) (a0 : Nat) (a1 : List Nat) (a2 : List PointL) {s₀ s : State} (h : changesOnly P s₀ s) : changesOnly P s₀ (commitAll a0 a1 a2 s) := by
  fun_induction commitAll a0 a1 a2 s
  all_goals intros
  all_goals first | with_reducible assumption | skip
  all_goals repeat' first
      | with_reducible assumption | with_reducible apply_assumption | with_reducible apply commitPoint_only | with_reducible apply only_ite
      | with_reducible apply only_mk | with_reducible exact .inl (by assumption) | with_reducible exact .inr rfl | with_reducible exact .inr ⟨rfl, rfl⟩
      | with_reducible exact .inr ⟨rfl, rfl, rfl⟩ | with_reducible exact .inr ⟨rfl, rfl, rfl, rfl⟩ | with_reducible exact .inr ⟨rfl, rfl, rfl, rfl, rfl⟩
      | with_reducible apply only_foldl | intro _ | (split)

theorem flushPorts_only (hports : P .ports) (a0 : Nat) {s₀ s : State} (h : changesOnly P s₀ s) : changesOnly P s₀ (flushPorts a0 s) := by
  fun_cases flushPorts a0 s
  all_goals (intros; repeat' first
      | with_reducible assumption | with_reducible apply modShell_only | with_reducible apply only_ite | with_reducible apply only_mk
      | with_reducible exact .inl (by assumption) | with_reducible exact .inr rfl | with_reducible exact .inr ⟨rfl, rfl⟩
      | with_reducible exact .inr ⟨rfl, rfl, rfl⟩ | with_reducible exact .inr ⟨rfl, rfl, rfl, rfl⟩ | with_reducible exact .inr ⟨rfl, rfl, rfl, rfl, rfl⟩
      | with_reducible apply only_foldl | intro _ | (split))

theorem freeRoom_only (hrooms : P .rooms) (a0 : Nat) {s₀ s : State} (h : changesOnly P s₀ s) : changesOnly P s₀ (freeRoom a0 s) := by
  fun_cases freeRoom a0 s
  all_goals (intros; repeat' first
      | with_reducible assumption | with_reducible apply modRoom_only | with_reducible apply only_ite | with_reducible apply only_mk
      | with_reducible exact .inl (by assumption) | with_reducible exact .inr rfl | with_reducible exact .inr ⟨rfl, rfl⟩
      | with_reducible exact .inr ⟨rfl, rfl, rfl⟩ | with_reducible exact .inr ⟨rfl, rfl, rfl, rfl⟩ | with_reducible exact .inr ⟨rfl, rfl, rfl, rfl, rfl⟩
      | with_reducible apply only_foldl | intro _ | (split))

theorem freeRooms_only (hrooms : P .rooms) (hpower : P .power) (a0 : List Nat) {s₀ s : State} (h : changesOnly P s₀ s) : changesOnly P s₀ (freeRooms a0 s) := by
  fun_induction freeRooms a0 s
  all_goals intros
  all_goals first | with_reducible assumption | skip
  all_goals repeat' first
      | with_reducible assumption | with_reducible apply_assumption | with_reducible apply freeRoom_only | with_reducible apply phaseEnd_only
      | with_reducible apply only_ite | with_reducible apply only_mk | with_reducible exact .inl (by assumption) | with_reducible exact .inr rfl
      | with_reducible exact .inr ⟨rfl, rfl⟩ | with_reducible exact .inr ⟨rfl, rfl, rfl⟩ | with_reducible exact .inr ⟨rfl, rfl, rfl, rfl⟩
      | with_reducible exact .inr ⟨rfl, rfl, rfl, rfl, rfl⟩ | with_reducible apply only_foldl | intro _ | (split)

theorem releaseTask_only (hstore : P .store) (hrooms : P .rooms) (hports : P .ports) (hfabric : P .fabric) (hpower : P .power) (a0 : Nat) {s₀ s : State} (h :
    changesOnly P s₀ s) : changesOnly P s₀ (releaseTask a0 s) := by
  fun_cases releaseTask a0 s
  all_goals (intros; repeat' first
      | with_reducible assumption | with_reducible apply freeRooms_only | with_reducible apply flushPorts_only | with_reducible apply modStore_only
      | with_reducible apply modFabric_only | with_reducible apply only_ite | with_reducible apply only_mk | with_reducible exact .inl (by assumption)
      | with_reducible exact .inr rfl | with_reducible exact .inr ⟨rfl, rfl⟩ | with_reducible exact .inr ⟨rfl, rfl, rfl⟩
      | with_reducible exact .inr ⟨rfl, rfl, rfl, rfl⟩ | with_reducible exact .inr ⟨rfl, rfl, rfl, rfl, rfl⟩ | with_reducible apply only_foldl | intro _
      | (split))

theorem completePoint_only (hstore : P .store) (hrooms : P .rooms) (hhealthSt : P .healthSt) (hmboxes : P .mboxes) (hqueues : P .queues) (htasks : P .tasks)
    (hintStatus : P .intStatus) (hrequests : P .requests) (hmessages : P .messages) (hports : P .ports) (hfabric : P .fabric) (hpower : P .power) (hhealth : P
    .health) (a0 : Nat) {s₀ s : State} (h : changesOnly P s₀ s) : changesOnly P s₀ (completePoint a0 s) := by
  fun_cases completePoint a0 s
  all_goals (intros; repeat' first
      | with_reducible assumption | with_reducible apply releaseTask_only | with_reducible apply commitAll_only | with_reducible apply answerAborts_only
      | with_reducible apply promote_only | with_reducible apply finishTask_only | with_reducible apply modTask_only | with_reducible apply only_ite
      | with_reducible apply only_mk | with_reducible exact .inl (by assumption) | with_reducible exact .inr rfl | with_reducible exact .inr ⟨rfl, rfl⟩
      | with_reducible exact .inr ⟨rfl, rfl, rfl⟩ | with_reducible exact .inr ⟨rfl, rfl, rfl, rfl⟩ | with_reducible exact .inr ⟨rfl, rfl, rfl, rfl, rfl⟩
      | with_reducible apply only_foldl | intro _ | (split))

theorem leaderEnd_only (hstore : P .store) (hrooms : P .rooms) (hhealthSt : P .healthSt) (hmboxes : P .mboxes) (hqueues : P .queues) (htasks : P .tasks)
    (hintStatus : P .intStatus) (hrequests : P .requests) (hmessages : P .messages) (hports : P .ports) (hfabric : P .fabric) (hpower : P .power) (hhealth : P
    .health) (a0 : Nat) {s₀ s : State} (h : changesOnly P s₀ s) : changesOnly P s₀ (leaderEnd a0 s) := by
  fun_cases leaderEnd a0 s
  all_goals (intros; repeat' first
      | with_reducible assumption | with_reducible apply completePoint_only | with_reducible apply tellMembers_only | with_reducible apply only_ite
      | with_reducible apply only_mk | with_reducible exact .inl (by assumption) | with_reducible exact .inr rfl | with_reducible exact .inr ⟨rfl, rfl⟩
      | with_reducible exact .inr ⟨rfl, rfl, rfl⟩ | with_reducible exact .inr ⟨rfl, rfl, rfl, rfl⟩ | with_reducible exact .inr ⟨rfl, rfl, rfl, rfl, rfl⟩
      | with_reducible apply only_foldl | intro _ | (split))

theorem markEnded_only (htasks : P .tasks) (a0 : Nat) (a1 : Nat) {s₀ s : State} (h : changesOnly P s₀ s) : changesOnly P s₀ (markEnded a0 a1 s) := by
  fun_cases markEnded a0 a1 s
  all_goals (intros; repeat' first
      | with_reducible assumption | with_reducible apply modTask_only | with_reducible apply only_ite | with_reducible apply only_mk
      | with_reducible exact .inl (by assumption) | with_reducible exact .inr rfl | with_reducible exact .inr ⟨rfl, rfl⟩
      | with_reducible exact .inr ⟨rfl, rfl, rfl⟩ | with_reducible exact .inr ⟨rfl, rfl, rfl, rfl⟩ | with_reducible exact .inr ⟨rfl, rfl, rfl, rfl, rfl⟩
      | with_reducible apply only_foldl | intro _ | (split))

theorem allEnded_only (hstore : P .store) (hrooms : P .rooms) (hhealthSt : P .healthSt) (hmboxes : P .mboxes) (hqueues : P .queues) (htasks : P .tasks)
    (hintStatus : P .intStatus) (hrequests : P .requests) (hmessages : P .messages) (hports : P .ports) (hfabric : P .fabric) (hpower : P .power) (hhealth : P
    .health) (a0 : Nat) {s₀ s : State} (h : changesOnly P s₀ s) : changesOnly P s₀ (allEnded a0 s) := by
  fun_cases allEnded a0 s
  all_goals (intros; repeat' first
      | with_reducible assumption | with_reducible apply markEnded_only | with_reducible apply leaderEnd_only | with_reducible apply completePoint_only
      | with_reducible apply sendMgmt_only | with_reducible apply only_ite | with_reducible apply only_mk | with_reducible exact .inl (by assumption)
      | with_reducible exact .inr rfl | with_reducible exact .inr ⟨rfl, rfl⟩ | with_reducible exact .inr ⟨rfl, rfl, rfl⟩
      | with_reducible exact .inr ⟨rfl, rfl, rfl, rfl⟩ | with_reducible exact .inr ⟨rfl, rfl, rfl, rfl, rfl⟩ | with_reducible apply only_foldl | intro _
      | (split))

theorem finishAnnex_only (hfreeCtr : P .freeCtr) (hstore : P .store) (hrooms : P .rooms) (htasks : P .tasks) (hintStatus : P .intStatus) (hmessages : P
    .messages) (hpower : P .power) (hhealth : P .health) (a1 : Nat) (a2 : AnnexJob) {s₀ s : State} (h : changesOnly P s₀ s) : changesOnly P s₀ (finishAnnex s a1
    a2) := by
  fun_cases finishAnnex s a1 a2
  all_goals (intros; repeat' first
      | with_reducible assumption | with_reducible apply commitStep_only | with_reducible apply modRoom_only | with_reducible apply only_ite
      | with_reducible apply only_mk | with_reducible exact .inl (by assumption) | with_reducible exact .inr rfl | with_reducible exact .inr ⟨rfl, rfl⟩
      | with_reducible exact .inr ⟨rfl, rfl, rfl⟩ | with_reducible exact .inr ⟨rfl, rfl, rfl, rfl⟩ | with_reducible exact .inr ⟨rfl, rfl, rfl, rfl, rfl⟩
      | with_reducible apply only_foldl | intro _ | (split))

theorem sendOn_only (hrooms : P .rooms) (a0 : Nat) (a1 : Nat) {s₀ s : State} (h : changesOnly P s₀ s) : changesOnly P s₀ (sendOn a0 a1 s) := by
  fun_cases sendOn a0 a1 s
  all_goals (intros; repeat' first
      | with_reducible assumption | with_reducible apply modRoom_only | with_reducible apply only_ite | with_reducible apply only_mk
      | with_reducible exact .inl (by assumption) | with_reducible exact .inr rfl | with_reducible exact .inr ⟨rfl, rfl⟩
      | with_reducible exact .inr ⟨rfl, rfl, rfl⟩ | with_reducible exact .inr ⟨rfl, rfl, rfl, rfl⟩ | with_reducible exact .inr ⟨rfl, rfl, rfl, rfl, rfl⟩
      | with_reducible apply only_foldl | intro _ | (split))

theorem sendAllOn_only (hrooms : P .rooms) (a0 : Nat) (a1 : Nat) {s₀ s : State} (h : changesOnly P s₀ s) : changesOnly P s₀ (sendAllOn a0 a1 s) := by
  unfold sendAllOn
  exact only_foldl _ (fun s r h => by apply sendOn_only <;> with_reducible assumption) _ _ h

theorem annexResultEff_only (hfreeCtr : P .freeCtr) (hstore : P .store) (hrooms : P .rooms) (htasks : P .tasks) (hintStatus : P .intStatus) (hmessages : P
    .messages) (hpace : P .pace) (hpower : P .power) (hhealth : P .health) (a1 : Nat) (a2 : Nat) (a3 : List (BitVec 32)) {s₀ s : State} (h : changesOnly P s₀ s)
    : changesOnly P s₀ (annexResultEff s a1 a2 a3) := by
  fun_cases annexResultEff s a1 a2 a3
  all_goals (intros; repeat' first
      | with_reducible assumption | with_reducible apply sendAllOn_only | with_reducible apply finishAnnex_only | with_reducible apply settle_only
      | with_reducible apply modRoom_only | with_reducible apply only_ite | with_reducible apply only_mk | with_reducible exact .inl (by assumption)
      | with_reducible exact .inr rfl | with_reducible exact .inr ⟨rfl, rfl⟩ | with_reducible exact .inr ⟨rfl, rfl, rfl⟩
      | with_reducible exact .inr ⟨rfl, rfl, rfl, rfl⟩ | with_reducible exact .inr ⟨rfl, rfl, rfl, rfl, rfl⟩ | with_reducible apply only_foldl | intro _
      | (split))

theorem annexSilentEff_only (hrooms : P .rooms) (htasks : P .tasks) (hfabric : P .fabric) (a1 : Nat) {s₀ s : State} (h : changesOnly P s₀ s) : changesOnly P s₀
    (annexSilentEff s a1) := by
  fun_cases annexSilentEff s a1
  all_goals (intros; repeat' first
      | with_reducible assumption | with_reducible apply raiseFault_only | with_reducible apply haltTask_only | with_reducible apply only_ite
      | with_reducible apply only_mk | with_reducible exact .inl (by assumption) | with_reducible exact .inr rfl | with_reducible exact .inr ⟨rfl, rfl⟩
      | with_reducible exact .inr ⟨rfl, rfl, rfl⟩ | with_reducible exact .inr ⟨rfl, rfl, rfl, rfl⟩ | with_reducible exact .inr ⟨rfl, rfl, rfl, rfl, rfl⟩
      | with_reducible apply only_foldl | intro _ | (split))

theorem modPort'_only (hports : P .ports) (a0 : Nat) (a1 : Nat) (a2 : StreamPort → StreamPort) {s₀ s : State} (h : changesOnly P s₀ s) : changesOnly P s₀
    (modPort' a0 a1 a2 s) := by
  fun_cases modPort' a0 a1 a2 s
  all_goals (intros; repeat' first
      | with_reducible assumption | with_reducible apply only_ite | with_reducible apply only_mk | with_reducible exact .inl (by assumption)
      | with_reducible exact .inr rfl | with_reducible exact .inr ⟨rfl, rfl⟩ | with_reducible exact .inr ⟨rfl, rfl, rfl⟩
      | with_reducible exact .inr ⟨rfl, rfl, rfl, rfl⟩ | with_reducible exact .inr ⟨rfl, rfl, rfl, rfl, rfl⟩ | with_reducible apply only_foldl | intro _
      | (split))

theorem annexTakes_only (hfreeCtr : P .freeCtr) (hports : P .ports) (a0 : List StreamPort) {s₀ s : State} (h : changesOnly P s₀ s) : changesOnly P s₀
    (annexTakes a0 s) := by
  fun_induction annexTakes a0 s
  all_goals intros
  all_goals first | with_reducible assumption | skip
  all_goals repeat' first
      | with_reducible assumption | with_reducible apply_assumption | with_reducible apply modPort'_only | with_reducible apply only_ite
      | with_reducible apply only_mk | with_reducible exact .inl (by assumption) | with_reducible exact .inr rfl | with_reducible exact .inr ⟨rfl, rfl⟩
      | with_reducible exact .inr ⟨rfl, rfl, rfl⟩ | with_reducible exact .inr ⟨rfl, rfl, rfl, rfl⟩ | with_reducible exact .inr ⟨rfl, rfl, rfl, rfl, rfl⟩
      | with_reducible apply only_foldl | intro _ | (split)

theorem sendNamed_only (hfabric : P .fabric) (a0 : Nat) (a1 : Nat) (a2 : BitVec 64) (a3 : Nat) (a4 : Nat) (a5 : List Byte) {s₀ s : State} (h : changesOnly P s₀
    s) : changesOnly P s₀ (sendNamed a0 a1 a2 a3 a4 a5 s) := by
  fun_cases sendNamed a0 a1 a2 a3 a4 a5 s
  all_goals (intros; repeat' first
      | with_reducible assumption | with_reducible apply flood_only | with_reducible apply modFabric_only | with_reducible apply only_ite
      | with_reducible apply only_mk | with_reducible exact .inl (by assumption) | with_reducible exact .inr rfl | with_reducible exact .inr ⟨rfl, rfl⟩
      | with_reducible exact .inr ⟨rfl, rfl, rfl⟩ | with_reducible exact .inr ⟨rfl, rfl, rfl, rfl⟩ | with_reducible exact .inr ⟨rfl, rfl, rfl, rfl, rfl⟩
      | with_reducible apply only_foldl | intro _ | (split))

theorem sendTo_only (hfabric : P .fabric) (a0 : Nat) (a1 : Nat) (a2 : Nat) (a3 : BitVec 64) (a4 : Nat) (a5 : Nat) (a6 : List Byte) {s₀ s : State} (h :
    changesOnly P s₀ s) : changesOnly P s₀ (sendTo a0 a1 a2 a3 a4 a5 a6 s) := by
  fun_cases sendTo a0 a1 a2 a3 a4 a5 a6 s
  all_goals (intros; repeat' first
      | with_reducible assumption | with_reducible apply sendNamed_only | with_reducible apply modFabric_only | with_reducible apply only_ite
      | with_reducible apply only_mk | with_reducible exact .inl (by assumption) | with_reducible exact .inr rfl | with_reducible exact .inr ⟨rfl, rfl⟩
      | with_reducible exact .inr ⟨rfl, rfl, rfl⟩ | with_reducible exact .inr ⟨rfl, rfl, rfl, rfl⟩ | with_reducible exact .inr ⟨rfl, rfl, rfl, rfl, rfl⟩
      | with_reducible apply only_foldl | intro _ | (split))

theorem announceAll_only (hfabricSt : P .fabricSt) (hintStatus : P .intStatus) (hmessages : P .messages) (hfabric : P .fabric) (htime : P .time) (a0 : AdmRec)
    (a1 : Bool) (a2 : List (AdmRec × Nat × Nat × Nat)) {s₀ s : State} (h : changesOnly P s₀ s) : changesOnly P s₀ (announceAll a0 a1 a2 s) := by
  induction a2 generalizing s with
  | nil => exact h
  | cons x xs ih =>
    obtain ⟨r, a, st, why⟩ := x
    have n : ∀ (u : State), changesOnly P s₀ u → ∀ a b c d, changesOnly P s₀ (noteTold a b c d u) := fun u hu a b c d => by apply noteTold_only <;> with_reducible assumption
    have sn : ∀ (u : State), changesOnly P s₀ u → ∀ a b c d e l, changesOnly P s₀ (sendNamed a b c d e l u) := fun u hu a b c d e l => by
      apply sendNamed_only <;> with_reducible assumption
    have st : ∀ (u : State), changesOnly P s₀ u → ∀ k a b c d e l, changesOnly P s₀ (sendTo k a b c d e l u) := fun u hu k a b c d e l => by
      apply sendTo_only <;> with_reducible assumption
    have ta : ∀ (u : State), changesOnly P s₀ u → ∀ a b c, changesOnly P s₀ (takeAdmission a b c u) := fun u hu a b c => by
      apply takeAdmission_only <;> with_reducible assumption
    have mf : ∀ f, changesOnly P s₀ (modFabric f s) := fun f => by apply modFabric_only <;> with_reducible assumption
    rw [announceAll]
    apply ih
    split
    · exact n _ (sn _ (only_ite (ta _ (mf _) _ _ _) (n _ (sn _ (ta _ (mf _) _ _ _) _ _ _ _ _ _) _ _ _ _)) _ _ _ _ _ _) _ _ _ _
    · exact n _ (st _ (only_ite h (n _ (st _ h _ _ _ _ _ _ _) _ _ _ _)) _ _ _ _ _ _ _) _ _ _ _

theorem announceEff_only (hintStatus : P .intStatus) (hmessages : P .messages) (htime : P .time) (a1 : Nat) (a2 : Nat) (a3 : BitVec 64) (a4 : Nat) {s₀ s :
    State} (h : changesOnly P s₀ s) : changesOnly P s₀ (announceEff s a1 a2 a3 a4) := by
  fun_cases announceEff s a1 a2 a3 a4
  all_goals (intros; repeat' first
      | with_reducible assumption | with_reducible apply setTimeSt_only | with_reducible apply modTime_only | with_reducible apply only_ite
      | with_reducible apply only_mk | with_reducible exact .inl (by assumption) | with_reducible exact .inr rfl | with_reducible exact .inr ⟨rfl, rfl⟩
      | with_reducible exact .inr ⟨rfl, rfl, rfl⟩ | with_reducible exact .inr ⟨rfl, rfl, rfl, rfl⟩ | with_reducible exact .inr ⟨rfl, rfl, rfl, rfl, rfl⟩
      | with_reducible apply only_foldl | intro _ | (split))

theorem answerCreates_only (hmboxes : P .mboxes) (hrequests : P .requests) (hmessages : P .messages) (a0 : Nat) (a1 : List (Nat × Mailbox)) {s₀ s : State} (h :
    changesOnly P s₀ s) : changesOnly P s₀ (answerCreates a0 a1 s) := by
  induction a1 generalizing a0 s with
  | nil => exact h
  | cons x xs ih =>
    rw [answerCreates]
    repeat' first
      | with_reducible apply ih
      | with_reducible assumption | with_reducible apply_assumption | with_reducible apply respond_only | with_reducible apply only_ite
      | with_reducible apply only_foldl | intro _ | (split) | with_reducible apply only_mk | with_reducible exact .inl (by assumption)
      | with_reducible exact .inr rfl | with_reducible exact .inr ⟨rfl, rfl⟩ | with_reducible exact .inr ⟨rfl, rfl, rfl⟩
      | with_reducible exact .inr ⟨rfl, rfl, rfl, rfl⟩ | with_reducible exact .inr ⟨rfl, rfl, rfl, rfl, rfl⟩

theorem modSnap_only (hsnap : P .snap) (a0 : Snap → Snap) {s₀ s : State} (h : changesOnly P s₀ s) : changesOnly P s₀ (modSnap a0 s) := by
  fun_cases modSnap a0 s
  all_goals (intros; repeat' first
      | with_reducible assumption | with_reducible apply modShell_only | with_reducible apply only_ite | with_reducible apply only_mk
      | with_reducible exact .inl (by assumption) | with_reducible exact .inr rfl | with_reducible exact .inr ⟨rfl, rfl⟩
      | with_reducible exact .inr ⟨rfl, rfl, rfl⟩ | with_reducible exact .inr ⟨rfl, rfl, rfl, rfl⟩ | with_reducible exact .inr ⟨rfl, rfl, rfl, rfl, rfl⟩
      | with_reducible apply only_foldl | intro _ | (split))

theorem answerFreeze_only (hmboxes : P .mboxes) (hrequests : P .requests) (hmessages : P .messages) (hsnap : P .snap) (a0 : Nat) {s₀ s : State} (h : changesOnly
    P s₀ s) : changesOnly P s₀ (answerFreeze a0 s) := by
  fun_cases answerFreeze a0 s
  all_goals (intros; repeat' first
      | with_reducible assumption | with_reducible apply modSnap_only | with_reducible apply respond_only | with_reducible apply only_ite
      | with_reducible apply only_mk | with_reducible exact .inl (by assumption) | with_reducible exact .inr rfl | with_reducible exact .inr ⟨rfl, rfl⟩
      | with_reducible exact .inr ⟨rfl, rfl, rfl⟩ | with_reducible exact .inr ⟨rfl, rfl, rfl, rfl⟩ | with_reducible exact .inr ⟨rfl, rfl, rfl, rfl, rfl⟩
      | with_reducible apply only_foldl | intro _ | (split))

theorem markHalted_only (htasks : P .tasks) (a0 : Nat) (a1 : Nat) {s₀ s : State} (h : changesOnly P s₀ s) : changesOnly P s₀ (markHalted a0 a1 s) := by
  fun_cases markHalted a0 a1 s
  all_goals (intros; repeat' first
      | with_reducible assumption | with_reducible apply modTask_only | with_reducible apply only_ite | with_reducible apply only_mk
      | with_reducible exact .inl (by assumption) | with_reducible exact .inr rfl | with_reducible exact .inr ⟨rfl, rfl⟩
      | with_reducible exact .inr ⟨rfl, rfl, rfl⟩ | with_reducible exact .inr ⟨rfl, rfl, rfl, rfl⟩ | with_reducible exact .inr ⟨rfl, rfl, rfl, rfl, rfl⟩
      | with_reducible apply only_foldl | intro _ | (split))

theorem sayHalted_only (htasks : P .tasks) (hfabric : P .fabric) (a0 : Task) {s₀ s : State} (h : changesOnly P s₀ s) : changesOnly P s₀ (sayHalted a0 s) := by
  fun_cases sayHalted a0 s
  all_goals (intros; repeat' first
      | with_reducible assumption | with_reducible apply markHalted_only | with_reducible apply sendMgmt_only | with_reducible apply only_ite
      | with_reducible apply only_mk | with_reducible exact .inl (by assumption) | with_reducible exact .inr rfl | with_reducible exact .inr ⟨rfl, rfl⟩
      | with_reducible exact .inr ⟨rfl, rfl, rfl⟩ | with_reducible exact .inr ⟨rfl, rfl, rfl, rfl⟩ | with_reducible exact .inr ⟨rfl, rfl, rfl, rfl, rfl⟩
      | with_reducible apply only_foldl | intro _ | (split))

theorem answerHalts_only (htasks : P .tasks) (hfabric : P .fabric) (a0 : List Task) {s₀ s : State} (h : changesOnly P s₀ s) : changesOnly P s₀ (answerHalts a0
    s) := by
  fun_induction answerHalts a0 s
  all_goals intros
  all_goals first | with_reducible assumption | skip
  all_goals repeat' first
      | with_reducible assumption | with_reducible apply_assumption | with_reducible apply sayHalted_only | with_reducible apply only_ite
      | with_reducible apply only_mk | with_reducible exact .inl (by assumption) | with_reducible exact .inr rfl | with_reducible exact .inr ⟨rfl, rfl⟩
      | with_reducible exact .inr ⟨rfl, rfl, rfl⟩ | with_reducible exact .inr ⟨rfl, rfl, rfl, rfl⟩ | with_reducible exact .inr ⟨rfl, rfl, rfl, rfl, rfl⟩
      | with_reducible apply only_foldl | intro _ | (split)

theorem answerReject_only (hmboxes : P .mboxes) (hrequests : P .requests) (hmessages : P .messages) (a0 : Nat) (a1 : Reject) {s₀ s : State} (h : changesOnly P
    s₀ s) : changesOnly P s₀ (answerReject a0 a1 s) := by
  fun_cases answerReject a0 a1 s
  all_goals (intros; repeat' first
      | with_reducible assumption | with_reducible apply respond_only | with_reducible apply only_ite | with_reducible apply only_mk
      | with_reducible exact .inl (by assumption) | with_reducible exact .inr rfl | with_reducible exact .inr ⟨rfl, rfl⟩
      | with_reducible exact .inr ⟨rfl, rfl, rfl⟩ | with_reducible exact .inr ⟨rfl, rfl, rfl, rfl⟩ | with_reducible exact .inr ⟨rfl, rfl, rfl, rfl, rfl⟩
      | with_reducible apply only_foldl | intro _ | (split))

theorem answerReleases_only (hmboxes : P .mboxes) (hrequests : P .requests) (hmessages : P .messages) (a0 : List Nat) {s₀ s : State} (h : changesOnly P s₀ s) :
    changesOnly P s₀ (answerReleases a0 s) := by
  fun_induction answerReleases a0 s
  all_goals intros
  all_goals first | with_reducible assumption | skip
  all_goals repeat' first
      | with_reducible assumption | with_reducible apply_assumption | with_reducible apply respond_only | with_reducible apply only_ite
      | with_reducible apply only_mk | with_reducible exact .inl (by assumption) | with_reducible exact .inr rfl | with_reducible exact .inr ⟨rfl, rfl⟩
      | with_reducible exact .inr ⟨rfl, rfl, rfl⟩ | with_reducible exact .inr ⟨rfl, rfl, rfl, rfl⟩ | with_reducible exact .inr ⟨rfl, rfl, rfl, rfl, rfl⟩
      | with_reducible apply only_foldl | intro _ | (split)

theorem markSpare_only (hintStatus : P .intStatus) (hmessages : P .messages) (hhealth : P .health) {s₀ s : State} (h : changesOnly P s₀ s) : changesOnly P s₀
    (markSpare s) := by
  fun_cases markSpare s
  all_goals (intros; repeat' first
      | with_reducible assumption | with_reducible apply raiseInt_only | with_reducible apply only_ite | with_reducible apply only_mk
      | with_reducible exact .inl (by assumption) | with_reducible exact .inr rfl | with_reducible exact .inr ⟨rfl, rfl⟩
      | with_reducible exact .inr ⟨rfl, rfl, rfl⟩ | with_reducible exact .inr ⟨rfl, rfl, rfl, rfl⟩ | with_reducible exact .inr ⟨rfl, rfl, rfl, rfl, rfl⟩
      | with_reducible apply only_foldl | intro _ | (split))

theorem modMap_only (hhealth : P .health) (a0 : Mapping → Mapping) {s₀ s : State} (h : changesOnly P s₀ s) : changesOnly P s₀ (modMap a0 s) := by
  fun_cases modMap a0 s
  all_goals (intros; repeat' first
      | with_reducible assumption | with_reducible apply modHealth_only | with_reducible apply only_ite | with_reducible apply only_mk
      | with_reducible exact .inl (by assumption) | with_reducible exact .inr rfl | with_reducible exact .inr ⟨rfl, rfl⟩
      | with_reducible exact .inr ⟨rfl, rfl, rfl⟩ | with_reducible exact .inr ⟨rfl, rfl, rfl, rfl⟩ | with_reducible exact .inr ⟨rfl, rfl, rfl, rfl, rfl⟩
      | with_reducible apply only_foldl | intro _ | (split))

theorem mapSpare_only (hintStatus : P .intStatus) (hmessages : P .messages) (hhealth : P .health) (a0 : Nat) (a1 : Nat) {s₀ s : State} (h : changesOnly P s₀ s)
    : changesOnly P s₀ (mapSpare a0 a1 s) := by
  fun_cases mapSpare a0 a1 s
  all_goals (intros; repeat' first
      | with_reducible assumption | with_reducible apply modMap_only | with_reducible apply markSpare_only | with_reducible apply modUnit_only
      | with_reducible apply only_ite | with_reducible apply only_mk | with_reducible exact .inl (by assumption) | with_reducible exact .inr rfl
      | with_reducible exact .inr ⟨rfl, rfl⟩ | with_reducible exact .inr ⟨rfl, rfl, rfl⟩ | with_reducible exact .inr ⟨rfl, rfl, rfl, rfl⟩
      | with_reducible exact .inr ⟨rfl, rfl, rfl, rfl, rfl⟩ | with_reducible apply only_foldl | intro _ | (split))

theorem markExhausted_only (hhealthSt : P .healthSt) (hintStatus : P .intStatus) (hmessages : P .messages) (hhealth : P .health) (a0 : Bool) {s₀ s : State} (h :
    changesOnly P s₀ s) : changesOnly P s₀ (markExhausted a0 s) := by
  fun_cases markExhausted a0 s
  all_goals (intros; repeat' first
      | with_reducible assumption | with_reducible apply setHealth_only | with_reducible apply raiseInt_only | with_reducible apply only_ite
      | with_reducible apply only_mk | with_reducible exact .inl (by assumption) | with_reducible exact .inr rfl | with_reducible exact .inr ⟨rfl, rfl⟩
      | with_reducible exact .inr ⟨rfl, rfl, rfl⟩ | with_reducible exact .inr ⟨rfl, rfl, rfl, rfl⟩ | with_reducible exact .inr ⟨rfl, rfl, rfl, rfl, rfl⟩
      | with_reducible apply only_foldl | intro _ | (split))

theorem retireRoom_only (hoffered : P .offered) (hhealthSt : P .healthSt) (hintStatus : P .intStatus) (hmessages : P .messages) (hhealth : P .health) (a0 : Nat)
    (a1 : Nat) {s₀ s : State} (h : changesOnly P s₀ s) : changesOnly P s₀ (retireRoom a0 a1 s) := by
  fun_cases retireRoom a0 a1 s
  all_goals (intros; repeat' first
      | with_reducible assumption | with_reducible apply markExhausted_only | with_reducible apply modMap_only | with_reducible apply modUnit_only
      | with_reducible apply modHealth_only | with_reducible apply only_ite | with_reducible apply only_mk | with_reducible exact .inl (by assumption)
      | with_reducible exact .inr rfl | with_reducible exact .inr ⟨rfl, rfl⟩ | with_reducible exact .inr ⟨rfl, rfl, rfl⟩
      | with_reducible exact .inr ⟨rfl, rfl, rfl, rfl⟩ | with_reducible exact .inr ⟨rfl, rfl, rfl, rfl, rfl⟩ | with_reducible apply only_foldl | intro _
      | (split))

theorem applyAct_only (hoffered : P .offered) (hhealthSt : P .healthSt) (hintStatus : P .intStatus) (hmessages : P .messages) (hhealth : P .health) (a0 : Nat)
    (a1 : RepairAct) {s₀ s : State} (h : changesOnly P s₀ s) : changesOnly P s₀ (applyAct a0 a1 s) := by
  fun_cases applyAct a0 a1 s
  all_goals (intros; repeat' first
      | with_reducible assumption | with_reducible apply retireRoom_only | with_reducible apply markExhausted_only | with_reducible apply mapSpare_only
      | with_reducible apply modMap_only | with_reducible apply markSpare_only | with_reducible apply modUnit_only | with_reducible apply only_ite
      | with_reducible apply only_mk | with_reducible exact .inl (by assumption) | with_reducible exact .inr rfl | with_reducible exact .inr ⟨rfl, rfl⟩
      | with_reducible exact .inr ⟨rfl, rfl, rfl⟩ | with_reducible exact .inr ⟨rfl, rfl, rfl, rfl⟩ | with_reducible exact .inr ⟨rfl, rfl, rfl, rfl, rfl⟩
      | with_reducible apply only_foldl | intro _ | (split))

theorem applyActs_only (hoffered : P .offered) (hhealthSt : P .healthSt) (hintStatus : P .intStatus) (hmessages : P .messages) (hhealth : P .health) (a0 : Nat)
    (a1 : List RepairAct) {s₀ s : State} (h : changesOnly P s₀ s) : changesOnly P s₀ (applyActs a0 a1 s) := by
  fun_induction applyActs a0 a1 s
  all_goals intros
  all_goals first | with_reducible assumption | skip
  all_goals repeat' first
      | with_reducible assumption | with_reducible apply_assumption | with_reducible apply applyAct_only | with_reducible apply only_ite
      | with_reducible apply only_mk | with_reducible exact .inl (by assumption) | with_reducible exact .inr rfl | with_reducible exact .inr ⟨rfl, rfl⟩
      | with_reducible exact .inr ⟨rfl, rfl, rfl⟩ | with_reducible exact .inr ⟨rfl, rfl, rfl, rfl⟩ | with_reducible exact .inr ⟨rfl, rfl, rfl, rfl, rfl⟩
      | with_reducible apply only_foldl | intro _ | (split)

theorem applyIdle_only (hlinks : P .links) {s₀ s : State} (h : changesOnly P s₀ s) : changesOnly P s₀ (applyIdle s) := by
  fun_cases applyIdle s
  all_goals (intros; repeat' first
      | with_reducible assumption | with_reducible apply only_ite | with_reducible apply only_mk | with_reducible exact .inl (by assumption)
      | with_reducible exact .inr rfl | with_reducible exact .inr ⟨rfl, rfl⟩ | with_reducible exact .inr ⟨rfl, rfl, rfl⟩
      | with_reducible exact .inr ⟨rfl, rfl, rfl, rfl⟩ | with_reducible exact .inr ⟨rfl, rfl, rfl, rfl, rfl⟩ | with_reducible apply only_foldl | intro _
      | (split))

theorem haltAll_only (htasks : P .tasks) (hfabric : P .fabric) (a0 : Nat) (a1 : Bool) (a2 : List Nat) {s₀ s : State} (h : changesOnly P s₀ s) : changesOnly P s₀
    (haltAll a0 a1 a2 s) := by
  fun_induction haltAll a0 a1 a2 s
  all_goals intros
  all_goals first | with_reducible assumption | skip
  all_goals repeat' first
      | with_reducible assumption | with_reducible apply_assumption | with_reducible apply haltTask_only | with_reducible apply only_ite
      | with_reducible apply only_mk | with_reducible exact .inl (by assumption) | with_reducible exact .inr rfl | with_reducible exact .inr ⟨rfl, rfl⟩
      | with_reducible exact .inr ⟨rfl, rfl, rfl⟩ | with_reducible exact .inr ⟨rfl, rfl, rfl, rfl⟩ | with_reducible exact .inr ⟨rfl, rfl, rfl, rfl, rfl⟩
      | with_reducible apply only_foldl | intro _ | (split)

theorem refuseRound_only (hqueues : P .queues) (htasks : P .tasks) (hrequests : P .requests) (hmessages : P .messages) (hfabric : P .fabric) (a0 : Task) (a1 :
    Nat) {s₀ s : State} (h : changesOnly P s₀ s) : changesOnly P s₀ (refuseRound a0 a1 s) := by
  fun_cases refuseRound a0 a1 s
  all_goals (intros; repeat' first
      | with_reducible assumption | with_reducible apply finishTask_only | with_reducible apply tellMembers_only | with_reducible apply only_ite
      | with_reducible apply only_mk | with_reducible exact .inl (by assumption) | with_reducible exact .inr rfl | with_reducible exact .inr ⟨rfl, rfl⟩
      | with_reducible exact .inr ⟨rfl, rfl, rfl⟩ | with_reducible exact .inr ⟨rfl, rfl, rfl, rfl⟩ | with_reducible exact .inr ⟨rfl, rfl, rfl, rfl, rfl⟩
      | with_reducible apply only_foldl | intro _ | (split))

theorem withdrawRounds_only (hqueues : P .queues) (htasks : P .tasks) (hrequests : P .requests) (hmessages : P .messages) (hfabric : P .fabric) (a0 : List Nat)
    {s₀ s : State} (h : changesOnly P s₀ s) : changesOnly P s₀ (withdrawRounds a0 s) := by
  induction a0 generalizing  s with
  | nil => exact h
  | cons x xs ih =>
    rw [withdrawRounds]
    repeat' first
      | with_reducible apply ih
      | with_reducible assumption | with_reducible apply_assumption | with_reducible apply refuseRound_only | with_reducible apply finishTask_only
      | with_reducible apply sendMgmt_only | with_reducible apply only_ite | with_reducible apply only_foldl | intro _ | (split)
      | with_reducible apply only_mk | with_reducible exact .inl (by assumption) | with_reducible exact .inr rfl | with_reducible exact .inr ⟨rfl, rfl⟩
      | with_reducible exact .inr ⟨rfl, rfl, rfl⟩ | with_reducible exact .inr ⟨rfl, rfl, rfl, rfl⟩ | with_reducible exact .inr ⟨rfl, rfl, rfl, rfl, rfl⟩

theorem splitEff_only (hqueues : P .queues) (htasks : P .tasks) (hintStatus : P .intStatus) (hrequests : P .requests) (hmessages : P .messages) (hfabric : P
    .fabric) (htime : P .time) {s₀ s : State} (h : changesOnly P s₀ s) : changesOnly P s₀ (splitEff s) := by
  fun_cases splitEff s
  all_goals (intros; repeat' first
      | with_reducible assumption | with_reducible apply withdrawRounds_only | with_reducible apply haltAll_only | with_reducible apply modTime_only
      | with_reducible apply raiseInt_only | with_reducible apply promote_only | with_reducible apply only_ite | with_reducible apply only_mk
      | with_reducible exact .inl (by assumption) | with_reducible exact .inr rfl | with_reducible exact .inr ⟨rfl, rfl⟩
      | with_reducible exact .inr ⟨rfl, rfl, rfl⟩ | with_reducible exact .inr ⟨rfl, rfl, rfl, rfl⟩ | with_reducible exact .inr ⟨rfl, rfl, rfl, rfl, rfl⟩
      | with_reducible apply only_foldl | intro _ | (split))

theorem applyTheta_only (hfreeCtr : P .freeCtr) (hqueues : P .queues) (htasks : P .tasks) (hintStatus : P .intStatus) (hrequests : P .requests) (hmessages : P
    .messages) (hfabric : P .fabric) (htime : P .time) (a0 : Bool) (a1 : Int) {s₀ s : State} (h : changesOnly P s₀ s) : changesOnly P s₀ (applyTheta a0 a1 s) := by
  fun_cases applyTheta a0 a1 s
  all_goals (intros; repeat' first
      | with_reducible assumption | with_reducible apply splitEff_only | with_reducible apply setTimeSt_only | with_reducible apply modTime_only
      | with_reducible apply only_ite | with_reducible apply only_mk | with_reducible exact .inl (by assumption) | with_reducible exact .inr rfl
      | with_reducible exact .inr ⟨rfl, rfl⟩ | with_reducible exact .inr ⟨rfl, rfl, rfl⟩ | with_reducible exact .inr ⟨rfl, rfl, rfl, rfl⟩
      | with_reducible exact .inr ⟨rfl, rfl, rfl, rfl, rfl⟩ | with_reducible apply only_foldl | intro _ | (split))

theorem await_only (hmboxes : P .mboxes) (a0 : Nat) {s₀ s : State} (h : changesOnly P s₀ s) : changesOnly P s₀ (await a0 s) := by
  fun_cases await a0 s
  all_goals (intros; repeat' first
      | with_reducible assumption | with_reducible apply modMbox_only | with_reducible apply only_ite | with_reducible apply only_mk
      | with_reducible exact .inl (by assumption) | with_reducible exact .inr rfl | with_reducible exact .inr ⟨rfl, rfl⟩
      | with_reducible exact .inr ⟨rfl, rfl, rfl⟩ | with_reducible exact .inr ⟨rfl, rfl, rfl, rfl⟩ | with_reducible exact .inr ⟨rfl, rfl, rfl, rfl, rfl⟩
      | with_reducible apply only_foldl | intro _ | (split))

end Sys2Proof.Machine
end

