-- ==== Sys2Proof/Laws/Frame2.lean ====
section
/-!
SUPPORT. Frames, part 2 of 4: for each operation of the machine the parts of State that it may change, one lemma each. A part not named in the
hypotheses of a lemma stands as it was.
-/
namespace Sys2Proof.Machine

set_option linter.unusedTactic false
set_option linter.unreachableTactic false
set_option linter.unusedVariables false
set_option maxRecDepth 4000
variable {P : Part → Prop}

theorem respondAll_only (hmboxes : P .mboxes) (hrequests : P .requests) (hmessages : P .messages) (a0 : Nat) (a1 : List Nat) {s₀ s : State} (h : changesOnly P
    s₀ s) : changesOnly P s₀ (respondAll a0 a1 s) := by
  fun_induction respondAll a0 a1 s
  all_goals intros
  all_goals first | with_reducible assumption | skip
  all_goals repeat' first
      | with_reducible assumption | with_reducible apply_assumption | with_reducible apply respond_only | with_reducible apply only_ite
      | with_reducible apply only_mk | with_reducible exact .inl (by assumption) | with_reducible exact .inr rfl | with_reducible exact .inr ⟨rfl, rfl⟩
      | with_reducible exact .inr ⟨rfl, rfl, rfl⟩ | with_reducible exact .inr ⟨rfl, rfl, rfl, rfl⟩ | with_reducible exact .inr ⟨rfl, rfl, rfl, rfl, rfl⟩
      | with_reducible apply only_foldl | intro _ | (split)

theorem resetAnswer_only (hmboxes : P .mboxes) (hrequests : P .requests) (hmessages : P .messages) (hseq : P .seq) {s₀ s : State} (h : changesOnly P s₀ s) :
    changesOnly P s₀ (resetAnswer s) := by
  fun_cases resetAnswer s
  all_goals (intros; repeat' first
      | with_reducible assumption | with_reducible apply respondAll_only | with_reducible apply only_ite | with_reducible apply only_mk
      | with_reducible exact .inl (by assumption) | with_reducible exact .inr rfl | with_reducible exact .inr ⟨rfl, rfl⟩
      | with_reducible exact .inr ⟨rfl, rfl, rfl⟩ | with_reducible exact .inr ⟨rfl, rfl, rfl, rfl⟩ | with_reducible exact .inr ⟨rfl, rfl, rfl, rfl, rfl⟩
      | with_reducible apply only_foldl | intro _ | (split))

theorem askReset_only (hmboxes : P .mboxes) (htasks : P .tasks) (hrequests : P .requests) (hmessages : P .messages) (hfabric : P .fabric) (hseq : P .seq) (a0 :
    Nat) (a1 : Nat) {s₀ s : State} (h : changesOnly P s₀ s) : changesOnly P s₀ (askReset a0 a1 s) := by
  fun_cases askReset a0 a1 s
  all_goals (intros; repeat' first
      | with_reducible assumption | with_reducible apply resetAnswer_only | with_reducible apply await_only | with_reducible apply haltAll_only
      | with_reducible apply modSeq_only | with_reducible apply only_ite | with_reducible apply only_mk | with_reducible exact .inl (by assumption)
      | with_reducible exact .inr rfl | with_reducible exact .inr ⟨rfl, rfl⟩ | with_reducible exact .inr ⟨rfl, rfl, rfl⟩
      | with_reducible exact .inr ⟨rfl, rfl, rfl, rfl⟩ | with_reducible exact .inr ⟨rfl, rfl, rfl, rfl, rfl⟩ | with_reducible apply only_foldl | intro _
      | (split))

theorem assignEff_only (hfabric : P .fabric) (a1 : Nat) (a2 : Frame) (a3 : BitVec 64) (a4 : Nat) {s₀ s : State} (h : changesOnly P s₀ s) : changesOnly P s₀
    (assignEff s a1 a2 a3 a4) := by
  fun_cases assignEff s a1 a2 a3 a4
  all_goals (intros; repeat' first
      | with_reducible assumption | with_reducible apply takeFrame_only | with_reducible apply noteTold_only | with_reducible apply forwardBcast_only
      | with_reducible apply modFabric_only | with_reducible apply ackFrame_only | with_reducible apply only_ite | with_reducible apply only_mk
      | with_reducible exact .inl (by assumption) | with_reducible exact .inr rfl | with_reducible exact .inr ⟨rfl, rfl⟩
      | with_reducible exact .inr ⟨rfl, rfl, rfl⟩ | with_reducible exact .inr ⟨rfl, rfl, rfl, rfl⟩ | with_reducible exact .inr ⟨rfl, rfl, rfl, rfl, rfl⟩
      | with_reducible apply only_foldl | intro _ | (split))

theorem beatMarkEff_only (hfreeCtr : P .freeCtr) (hlinks : P .links) (a1 : Nat) (a2 : Nat) (a3 : Nat) (a4 : Nat) (a5 : Nat) {s₀ s : State} (h : changesOnly P s₀
    s) : changesOnly P s₀ (beatMarkEff s a1 a2 a3 a4 a5) := by
  unfold beatMarkEff
  try dsimp only
  repeat' first
      | with_reducible assumption | with_reducible apply modPort_only | with_reducible apply putPort_only | with_reducible apply only_ite
      | with_reducible apply only_foldl | intro _ | (split) | with_reducible apply only_mk | with_reducible exact .inl (by assumption)
      | with_reducible exact .inr rfl | with_reducible exact .inr ⟨rfl, rfl⟩ | with_reducible exact .inr ⟨rfl, rfl, rfl⟩
      | with_reducible exact .inr ⟨rfl, rfl, rfl, rfl⟩ | with_reducible exact .inr ⟨rfl, rfl, rfl, rfl, rfl⟩

theorem modHalls_only (hpower : P .power) (a0 : Nat → HallPow → HallPow) (a1 : List Nat) {s₀ s : State} (h : changesOnly P s₀ s) : changesOnly P s₀ (modHalls a0
    a1 s) := by
  fun_induction modHalls a0 a1 s
  all_goals intros
  all_goals first | with_reducible assumption | skip
  all_goals repeat' first
      | with_reducible assumption | with_reducible apply_assumption | with_reducible apply modHall_only | with_reducible apply only_ite
      | with_reducible apply only_mk | with_reducible exact .inl (by assumption) | with_reducible exact .inr rfl | with_reducible exact .inr ⟨rfl, rfl⟩
      | with_reducible exact .inr ⟨rfl, rfl, rfl⟩ | with_reducible exact .inr ⟨rfl, rfl, rfl, rfl⟩ | with_reducible exact .inr ⟨rfl, rfl, rfl, rfl, rfl⟩
      | with_reducible apply only_foldl | intro _ | (split)

theorem beatMeans_only (hpower : P .power) {s₀ s : State} (h : changesOnly P s₀ s) : changesOnly P s₀ (beatMeans s) := by
  fun_cases beatMeans s
  all_goals (intros; repeat' first
      | with_reducible assumption | with_reducible apply modHalls_only | with_reducible apply modPower_only | with_reducible apply only_ite
      | with_reducible apply only_mk | with_reducible exact .inl (by assumption) | with_reducible exact .inr rfl | with_reducible exact .inr ⟨rfl, rfl⟩
      | with_reducible exact .inr ⟨rfl, rfl, rfl⟩ | with_reducible exact .inr ⟨rfl, rfl, rfl, rfl⟩ | with_reducible exact .inr ⟨rfl, rfl, rfl, rfl, rfl⟩
      | with_reducible apply only_foldl | intro _ | (split))

theorem drive_only (hside : P .side) (a0 : List Nat) (a1 : Nat) (a2 : List (Nat × Bool)) {s₀ s : State} (h : changesOnly P s₀ s) : changesOnly P s₀ (drive a0 a1
    a2 s) := by
  fun_cases drive a0 a1 a2 s
  all_goals (intros; repeat' first
      | with_reducible assumption | with_reducible apply only_ite | with_reducible apply only_mk | with_reducible exact .inl (by assumption)
      | with_reducible exact .inr rfl | with_reducible exact .inr ⟨rfl, rfl⟩ | with_reducible exact .inr ⟨rfl, rfl, rfl⟩
      | with_reducible exact .inr ⟨rfl, rfl, rfl, rfl⟩ | with_reducible exact .inr ⟨rfl, rfl, rfl, rfl, rfl⟩ | with_reducible apply only_foldl | intro _
      | (split))

theorem beatOut_only (hside : P .side) (htime : P .time) {s₀ s : State} (h : changesOnly P s₀ s) : changesOnly P s₀ (beatOut s) := by
  fun_cases beatOut s
  all_goals (intros; repeat' first
      | with_reducible assumption | with_reducible apply drive_only | with_reducible apply modTime_only | with_reducible apply only_ite
      | with_reducible apply only_mk | with_reducible exact .inl (by assumption) | with_reducible exact .inr rfl | with_reducible exact .inr ⟨rfl, rfl⟩
      | with_reducible exact .inr ⟨rfl, rfl, rfl⟩ | with_reducible exact .inr ⟨rfl, rfl, rfl, rfl⟩ | with_reducible exact .inr ⟨rfl, rfl, rfl, rfl, rfl⟩
      | with_reducible apply only_foldl | intro _ | (split))

theorem endCloses_only (hstore : P .store) (hmboxes : P .mboxes) (hrequests : P .requests) (hmessages : P .messages) (a0 : List Closing) {s₀ s : State} (h :
    changesOnly P s₀ s) : changesOnly P s₀ (endCloses a0 s) := by
  fun_induction endCloses a0 s
  all_goals intros
  all_goals first | with_reducible assumption | skip
  all_goals repeat' first
      | with_reducible assumption | with_reducible apply_assumption | with_reducible apply respond_only | with_reducible apply only_ite
      | with_reducible apply only_mk | with_reducible exact .inl (by assumption) | with_reducible exact .inr rfl | with_reducible exact .inr ⟨rfl, rfl⟩
      | with_reducible exact .inr ⟨rfl, rfl, rfl⟩ | with_reducible exact .inr ⟨rfl, rfl, rfl, rfl⟩ | with_reducible exact .inr ⟨rfl, rfl, rfl, rfl, rfl⟩
      | with_reducible apply only_foldl | intro _ | (split)

theorem landCloses_only (hstore : P .store) (hmboxes : P .mboxes) (hrequests : P .requests) (hmessages : P .messages) {s₀ s : State} (h : changesOnly P s₀ s) :
    changesOnly P s₀ (landCloses s) := by
  fun_cases landCloses s
  all_goals (intros; repeat' first
      | with_reducible assumption | with_reducible apply endCloses_only | with_reducible apply only_ite | with_reducible apply only_mk
      | with_reducible exact .inl (by assumption) | with_reducible exact .inr rfl | with_reducible exact .inr ⟨rfl, rfl⟩
      | with_reducible exact .inr ⟨rfl, rfl, rfl⟩ | with_reducible exact .inr ⟨rfl, rfl, rfl, rfl⟩ | with_reducible exact .inr ⟨rfl, rfl, rfl, rfl, rfl⟩
      | with_reducible apply only_foldl | intro _ | (split))

theorem beginClose_only (hstore : P .store) (hmboxes : P .mboxes) (himages : P .images) (hrequests : P .requests) (hmessages : P .messages) (a0 : Nat) (a1 :
    Option Image) (a2 : List Nat) (a3 : List (Nat × Nat)) (a4 : Nat × Window → Bool) {s₀ s : State} (h : changesOnly P s₀ s) : changesOnly P s₀ (beginClose a0
    a1 a2 a3 a4 s) := by
  fun_cases beginClose a0 a1 a2 a3 a4 s
  all_goals (intros; repeat' first
      | with_reducible assumption | with_reducible apply landCloses_only | with_reducible apply await_only | with_reducible apply modStore_only
      | with_reducible apply modSteward_only | with_reducible apply only_ite | with_reducible apply only_mk | with_reducible exact .inl (by assumption)
      | with_reducible exact .inr rfl | with_reducible exact .inr ⟨rfl, rfl⟩ | with_reducible exact .inr ⟨rfl, rfl, rfl⟩
      | with_reducible exact .inr ⟨rfl, rfl, rfl, rfl⟩ | with_reducible exact .inr ⟨rfl, rfl, rfl, rfl, rfl⟩ | with_reducible apply only_foldl | intro _
      | (split))

theorem giveBytes_only (hlinks : P .links) (a0 : Nat) (a1 : Nat) (a2 : Nat) (a3 : List Nat) (a4 : List Byte) {s₀ s : State} (h : changesOnly P s₀ s) :
    changesOnly P s₀ (giveBytes a0 a1 a2 a3 a4 s) := by
  fun_induction giveBytes a0 a1 a2 a3 a4 s
  all_goals intros
  all_goals first | with_reducible assumption | skip
  all_goals repeat' first
      | with_reducible assumption | with_reducible apply_assumption | with_reducible apply modPort_only | with_reducible apply only_ite
      | with_reducible apply only_mk | with_reducible exact .inl (by assumption) | with_reducible exact .inr rfl | with_reducible exact .inr ⟨rfl, rfl⟩
      | with_reducible exact .inr ⟨rfl, rfl, rfl⟩ | with_reducible exact .inr ⟨rfl, rfl, rfl, rfl⟩ | with_reducible exact .inr ⟨rfl, rfl, rfl, rfl, rfl⟩
      | with_reducible apply only_foldl | intro _ | (split)

theorem cutSlot_only (hfabric : P .fabric) (hlinks : P .links) (a0 : Nat) (a1 : Nat) (a2 : Nat) (a3 : Nat) {s₀ s : State} (h : changesOnly P s₀ s) : changesOnly
    P s₀ (cutSlot a0 a1 a2 a3 s) := by
  fun_cases cutSlot a0 a1 a2 a3 s
  all_goals (intros; repeat' first
      | with_reducible assumption | with_reducible apply giveBytes_only | with_reducible apply only_ite | with_reducible apply only_mk
      | with_reducible exact .inl (by assumption) | with_reducible exact .inr rfl | with_reducible exact .inr ⟨rfl, rfl⟩
      | with_reducible exact .inr ⟨rfl, rfl, rfl⟩ | with_reducible exact .inr ⟨rfl, rfl, rfl, rfl⟩ | with_reducible exact .inr ⟨rfl, rfl, rfl, rfl, rfl⟩
      | with_reducible apply only_foldl | intro _ | (split))

theorem beginSlot_only (hfabric : P .fabric) (hlinks : P .links) (a0 : Nat) (a1 : Nat) {s₀ s : State} (h : changesOnly P s₀ s) : changesOnly P s₀ (beginSlot a0
    a1 s) := by
  fun_cases beginSlot a0 a1 s
  all_goals (intros; repeat' first
      | with_reducible assumption | with_reducible apply cutSlot_only | with_reducible apply modPort_only | with_reducible apply only_ite
      | with_reducible apply only_mk | with_reducible exact .inl (by assumption) | with_reducible exact .inr rfl | with_reducible exact .inr ⟨rfl, rfl⟩
      | with_reducible exact .inr ⟨rfl, rfl, rfl⟩ | with_reducible exact .inr ⟨rfl, rfl, rfl, rfl⟩ | with_reducible exact .inr ⟨rfl, rfl, rfl, rfl, rfl⟩
      | with_reducible apply only_foldl | intro _ | (split))

theorem beginTraining_only (hlinks : P .links) (a0 : List Nat) {s₀ s : State} (h : changesOnly P s₀ s) : changesOnly P s₀ (beginTraining a0 s) := by
  induction a0 generalizing s with
  | nil => exact h
  | cons p ps ih =>
    rw [beginTraining]
    apply ih
    apply modPorts_only ‹_›
    apply only_mk h <;> (first | with_reducible assumption | with_reducible exact .inl (by assumption) | with_reducible exact .inr rfl | with_reducible exact .inr ⟨rfl, rfl⟩ | with_reducible exact .inr ⟨rfl, rfl, rfl⟩ | with_reducible exact .inr ⟨rfl, rfl, rfl, rfl⟩ | with_reducible exact .inr ⟨rfl, rfl, rfl, rfl, rfl⟩)

theorem beginUnload_only (hstore : P .store) (hmboxes : P .mboxes) (himages : P .images) (hrequests : P .requests) (hmessages : P .messages) (a0 : Nat) (a1 :
    Image) {s₀ s : State} (h : changesOnly P s₀ s) : changesOnly P s₀ (beginUnload a0 a1 s) := by
  fun_cases beginUnload a0 a1 s
  all_goals (intros; repeat' first
      | with_reducible assumption | with_reducible apply beginClose_only | with_reducible apply only_ite | with_reducible apply only_mk
      | with_reducible exact .inl (by assumption) | with_reducible exact .inr rfl | with_reducible exact .inr ⟨rfl, rfl⟩
      | with_reducible exact .inr ⟨rfl, rfl, rfl⟩ | with_reducible exact .inr ⟨rfl, rfl, rfl, rfl⟩ | with_reducible exact .inr ⟨rfl, rfl, rfl, rfl, rfl⟩
      | with_reducible apply only_foldl | intro _ | (split))

theorem blockTransmitEff_only (hfreeCtr : P .freeCtr) (hfabric : P .fabric) (hlinks : P .links) (a1 : Nat) (a2 : Nat) (a3 : List Byte) {s₀ s : State} (h :
    changesOnly P s₀ s) : changesOnly P s₀ (blockTransmitEff s a1 a2 a3) := by
  fun_cases blockTransmitEff s a1 a2 a3
  all_goals (intros; repeat' first
      | with_reducible assumption | with_reducible apply beginSlot_only | with_reducible apply putPort_only | with_reducible apply only_ite
      | with_reducible apply only_mk | with_reducible exact .inl (by assumption) | with_reducible exact .inr rfl | with_reducible exact .inr ⟨rfl, rfl⟩
      | with_reducible exact .inr ⟨rfl, rfl, rfl⟩ | with_reducible exact .inr ⟨rfl, rfl, rfl, rfl⟩ | with_reducible exact .inr ⟨rfl, rfl, rfl, rfl, rfl⟩
      | with_reducible apply only_foldl | intro _ | (split))

theorem finishMsgs_only (hside : P .side) {s₀ s : State} (h : changesOnly P s₀ s) : changesOnly P s₀ (finishMsgs s) := by
  fun_cases finishMsgs s
  all_goals (intros; repeat' first
      | with_reducible assumption | with_reducible apply only_ite | with_reducible apply only_mk | with_reducible exact .inl (by assumption)
      | with_reducible exact .inr rfl | with_reducible exact .inr ⟨rfl, rfl⟩ | with_reducible exact .inr ⟨rfl, rfl, rfl⟩
      | with_reducible exact .inr ⟨rfl, rfl, rfl, rfl⟩ | with_reducible exact .inr ⟨rfl, rfl, rfl, rfl, rfl⟩ | with_reducible apply only_foldl | intro _
      | (split))

theorem modHatch_only (hhatch : P .hatch) (a0 : Nat) (a1 : Hatch → Hatch) {s₀ s : State} (h : changesOnly P s₀ s) : changesOnly P s₀ (modHatch a0 a1 s) := by
  fun_cases modHatch a0 a1 s
  all_goals (intros; repeat' first
      | with_reducible assumption | with_reducible apply modShell_only | with_reducible apply only_ite | with_reducible apply only_mk
      | with_reducible exact .inl (by assumption) | with_reducible exact .inr rfl | with_reducible exact .inr ⟨rfl, rfl⟩
      | with_reducible exact .inr ⟨rfl, rfl, rfl⟩ | with_reducible exact .inr ⟨rfl, rfl, rfl, rfl⟩ | with_reducible exact .inr ⟨rfl, rfl, rfl, rfl, rfl⟩
      | with_reducible apply only_foldl | intro _ | (split))

theorem hatchBeat_only (hhatch : P .hatch) (a0 : List Nat) {s₀ s : State} (h : changesOnly P s₀ s) : changesOnly P s₀ (hatchBeat a0 s) := by
  fun_induction hatchBeat a0 s
  all_goals intros
  all_goals first | with_reducible assumption | skip
  all_goals repeat' first
      | with_reducible assumption | with_reducible apply_assumption | with_reducible apply modHatch_only | with_reducible apply only_ite
      | with_reducible apply only_mk | with_reducible exact .inl (by assumption) | with_reducible exact .inr rfl | with_reducible exact .inr ⟨rfl, rfl⟩
      | with_reducible exact .inr ⟨rfl, rfl, rfl⟩ | with_reducible exact .inr ⟨rfl, rfl, rfl, rfl⟩ | with_reducible exact .inr ⟨rfl, rfl, rfl, rfl, rfl⟩
      | with_reducible apply only_foldl | intro _ | (split)

theorem lateChecks_only (htasks : P .tasks) (hfabric : P .fabric) (a0 : List Nat) {s₀ s : State} (h : changesOnly P s₀ s) : changesOnly P s₀ (lateChecks a0 s) := by
  induction a0 generalizing  s with
  | nil => exact h
  | cons x xs ih =>
    rw [lateChecks]
    repeat' first
      | with_reducible apply ih
      | with_reducible assumption | with_reducible apply_assumption | with_reducible apply haltTask_only | with_reducible apply only_ite
      | with_reducible apply only_foldl | intro _ | (split) | with_reducible apply only_mk | with_reducible exact .inl (by assumption)
      | with_reducible exact .inr rfl | with_reducible exact .inr ⟨rfl, rfl⟩ | with_reducible exact .inr ⟨rfl, rfl, rfl⟩
      | with_reducible exact .inr ⟨rfl, rfl, rfl, rfl⟩ | with_reducible exact .inr ⟨rfl, rfl, rfl, rfl, rfl⟩

theorem noteStaged_only (hstaged : P .staged) {s₀ s : State} (h : changesOnly P s₀ s) : changesOnly P s₀ (noteStaged s) := by
  fun_cases noteStaged s
  all_goals (intros; repeat' first
      | with_reducible assumption | with_reducible apply modSteward_only | with_reducible apply only_ite | with_reducible apply only_mk
      | with_reducible exact .inl (by assumption) | with_reducible exact .inr rfl | with_reducible exact .inr ⟨rfl, rfl⟩
      | with_reducible exact .inr ⟨rfl, rfl, rfl⟩ | with_reducible exact .inr ⟨rfl, rfl, rfl, rfl⟩ | with_reducible exact .inr ⟨rfl, rfl, rfl, rfl, rfl⟩
      | with_reducible apply only_foldl | intro _ | (split))

theorem powerBeatCounts_only (hpower : P .power) {s₀ s : State} (h : changesOnly P s₀ s) : changesOnly P s₀ (powerBeatCounts s) := by
  fun_cases powerBeatCounts s
  all_goals (intros; repeat' first
      | with_reducible assumption | with_reducible apply modPower_only | with_reducible apply only_ite | with_reducible apply only_mk
      | with_reducible exact .inl (by assumption) | with_reducible exact .inr rfl | with_reducible exact .inr ⟨rfl, rfl⟩
      | with_reducible exact .inr ⟨rfl, rfl, rfl⟩ | with_reducible exact .inr ⟨rfl, rfl, rfl, rfl⟩ | with_reducible exact .inr ⟨rfl, rfl, rfl, rfl, rfl⟩
      | with_reducible apply only_foldl | intro _ | (split))

theorem capAt_only (hintStatus : P .intStatus) (hmessages : P .messages) (hlinks : P .links) (hpower : P .power) (a0 : Nat) {s₀ s : State} (h : changesOnly P s₀
    s) : changesOnly P s₀ (capAt a0 s) := by
  fun_cases capAt a0 s
  all_goals (intros; repeat' first
      | with_reducible assumption | with_reducible apply applyIdle_only | with_reducible apply modPower_only | with_reducible apply raiseInt_only
      | with_reducible apply only_ite | with_reducible apply only_mk | with_reducible exact .inl (by assumption) | with_reducible exact .inr rfl
      | with_reducible exact .inr ⟨rfl, rfl⟩ | with_reducible exact .inr ⟨rfl, rfl, rfl⟩ | with_reducible exact .inr ⟨rfl, rfl, rfl, rfl⟩
      | with_reducible exact .inr ⟨rfl, rfl, rfl, rfl, rfl⟩ | with_reducible apply only_foldl | intro _ | (split))

theorem capFurther_only (hintStatus : P .intStatus) (hmessages : P .messages) (hlinks : P .links) (hpower : P .power) (a0 : Nat) {s₀ s : State} (h : changesOnly
    P s₀ s) : changesOnly P s₀ (capFurther a0 s) := by
  fun_induction capFurther a0 s
  all_goals intros
  all_goals first | with_reducible assumption | skip
  all_goals repeat' first
      | with_reducible assumption | with_reducible apply_assumption | with_reducible apply capAt_only | with_reducible apply only_ite
      | with_reducible apply only_mk | with_reducible exact .inl (by assumption) | with_reducible exact .inr rfl | with_reducible exact .inr ⟨rfl, rfl⟩
      | with_reducible exact .inr ⟨rfl, rfl, rfl⟩ | with_reducible exact .inr ⟨rfl, rfl, rfl, rfl⟩ | with_reducible exact .inr ⟨rfl, rfl, rfl, rfl, rfl⟩
      | with_reducible apply only_foldl | intro _ | (split)

theorem restoreCap_only (hintStatus : P .intStatus) (hmessages : P .messages) (hlinks : P .links) (hpower : P .power) (a0 : Nat) {s₀ s : State} (h : changesOnly
    P s₀ s) : changesOnly P s₀ (restoreCap a0 s) := by
  fun_cases restoreCap a0 s
  all_goals (intros; repeat' first
      | with_reducible assumption | with_reducible apply capFurther_only | with_reducible apply only_ite | with_reducible apply only_mk
      | with_reducible exact .inl (by assumption) | with_reducible exact .inr rfl | with_reducible exact .inr ⟨rfl, rfl⟩
      | with_reducible exact .inr ⟨rfl, rfl, rfl⟩ | with_reducible exact .inr ⟨rfl, rfl, rfl, rfl⟩ | with_reducible exact .inr ⟨rfl, rfl, rfl, rfl, rfl⟩
      | with_reducible apply only_foldl | intro _ | (split))

theorem powerBoundary_only (hintStatus : P .intStatus) (hmessages : P .messages) (hlinks : P .links) (hpower : P .power) {s₀ s : State} (h : changesOnly P s₀ s)
    : changesOnly P s₀ (powerBoundary s) := by
  fun_cases powerBoundary s
  all_goals (intros; repeat' first
      | with_reducible assumption | with_reducible apply restoreCap_only | with_reducible apply powerBeatCounts_only | with_reducible apply beatMeans_only
      | with_reducible apply modHalls_only | with_reducible apply aheadStarts_only | with_reducible apply only_ite | with_reducible apply only_mk
      | with_reducible exact .inl (by assumption) | with_reducible exact .inr rfl | with_reducible exact .inr ⟨rfl, rfl⟩
      | with_reducible exact .inr ⟨rfl, rfl, rfl⟩ | with_reducible exact .inr ⟨rfl, rfl, rfl, rfl⟩ | with_reducible exact .inr ⟨rfl, rfl, rfl, rfl, rfl⟩
      | with_reducible apply only_foldl | intro _ | (split))

theorem writeBackAll_only (hrequests : P .requests) (hmessages : P .messages) (hporch : P .porch) (a0 : List PorchLine) {s₀ s : State} (h : changesOnly P s₀ s)
    : changesOnly P s₀ (writeBackAll a0 s) := by
  fun_induction writeBackAll a0 s
  all_goals intros
  all_goals first | with_reducible assumption | skip
  all_goals repeat' first
      | with_reducible assumption | with_reducible apply_assumption | with_reducible apply issueReq_only | with_reducible apply modHost_only
      | with_reducible apply only_ite | with_reducible apply only_mk | with_reducible exact .inl (by assumption) | with_reducible exact .inr rfl
      | with_reducible exact .inr ⟨rfl, rfl⟩ | with_reducible exact .inr ⟨rfl, rfl, rfl⟩ | with_reducible exact .inr ⟨rfl, rfl, rfl, rfl⟩
      | with_reducible exact .inr ⟨rfl, rfl, rfl, rfl, rfl⟩ | with_reducible apply only_foldl | intro _ | (split)

theorem powerDownPorch_only (hrequests : P .requests) (hmessages : P .messages) (hporch : P .porch) {s₀ s : State} (h : changesOnly P s₀ s) : changesOnly P s₀
    (powerDownPorch s) := by
  fun_cases powerDownPorch s
  all_goals (intros; repeat' first
      | with_reducible assumption | with_reducible apply writeBackAll_only | with_reducible apply only_ite | with_reducible apply only_mk
      | with_reducible exact .inl (by assumption) | with_reducible exact .inr rfl | with_reducible exact .inr ⟨rfl, rfl⟩
      | with_reducible exact .inr ⟨rfl, rfl, rfl⟩ | with_reducible exact .inr ⟨rfl, rfl, rfl, rfl⟩ | with_reducible exact .inr ⟨rfl, rfl, rfl, rfl, rfl⟩
      | with_reducible apply only_foldl | intro _ | (split))

theorem leaderRefuse_only (hqueues : P .queues) (htasks : P .tasks) (hrequests : P .requests) (hmessages : P .messages) (hfabric : P .fabric) (a0 : Task) (a1 :
    Nat) {s₀ s : State} (h : changesOnly P s₀ s) : changesOnly P s₀ (leaderRefuse a0 a1 s) := by
  fun_cases leaderRefuse a0 a1 s
  all_goals (intros; repeat' first
      | with_reducible assumption | with_reducible apply refuseRound_only | with_reducible apply promote_only | with_reducible apply only_ite
      | with_reducible apply only_mk | with_reducible exact .inl (by assumption) | with_reducible exact .inr rfl | with_reducible exact .inr ⟨rfl, rfl⟩
      | with_reducible exact .inr ⟨rfl, rfl, rfl⟩ | with_reducible exact .inr ⟨rfl, rfl, rfl, rfl⟩ | with_reducible exact .inr ⟨rfl, rfl, rfl, rfl, rfl⟩
      | with_reducible apply only_foldl | intro _ | (split))

theorem sendLaunch_only (htasks : P .tasks) (hfabric : P .fabric) (a0 : Task) {s₀ s : State} (h : changesOnly P s₀ s) : changesOnly P s₀ (sendLaunch a0 s) := by
  fun_cases sendLaunch a0 s
  all_goals (intros; repeat' first
      | with_reducible assumption | with_reducible apply tellMembers_only | with_reducible apply modTask_only | with_reducible apply only_ite
      | with_reducible apply only_mk | with_reducible exact .inl (by assumption) | with_reducible exact .inr rfl | with_reducible exact .inr ⟨rfl, rfl⟩
      | with_reducible exact .inr ⟨rfl, rfl, rfl⟩ | with_reducible exact .inr ⟨rfl, rfl, rfl, rfl⟩ | with_reducible exact .inr ⟨rfl, rfl, rfl, rfl, rfl⟩
      | with_reducible apply only_foldl | intro _ | (split))

theorem tryRound_only (hqueues : P .queues) (htasks : P .tasks) (hrequests : P .requests) (hmessages : P .messages) (hfabric : P .fabric) (a0 : Task) {s₀ s :
    State} (h : changesOnly P s₀ s) : changesOnly P s₀ (tryRound a0 s) := by
  fun_cases tryRound a0 s
  all_goals (intros; repeat' first
      | with_reducible assumption | with_reducible apply sendLaunch_only | with_reducible apply leaderRefuse_only | with_reducible apply only_ite
      | with_reducible apply only_mk | with_reducible exact .inl (by assumption) | with_reducible exact .inr rfl | with_reducible exact .inr ⟨rfl, rfl⟩
      | with_reducible exact .inr ⟨rfl, rfl, rfl⟩ | with_reducible exact .inr ⟨rfl, rfl, rfl, rfl⟩ | with_reducible exact .inr ⟨rfl, rfl, rfl, rfl, rfl⟩
      | with_reducible apply only_foldl | intro _ | (split))

theorem sendReady_only (hqueues : P .queues) (htasks : P .tasks) (hrequests : P .requests) (hmessages : P .messages) (hfabric : P .fabric) (a0 : Nat) {s₀ s :
    State} (h : changesOnly P s₀ s) : changesOnly P s₀ (sendReady a0 s) := by
  fun_cases sendReady a0 s
  all_goals (intros; repeat' first
      | with_reducible assumption | with_reducible apply tryRound_only | with_reducible apply leaderRefuse_only | with_reducible apply sendMgmt_only
      | with_reducible apply modTask_only | with_reducible apply only_ite | with_reducible apply only_mk | with_reducible exact .inl (by assumption)
      | with_reducible exact .inr rfl | with_reducible exact .inr ⟨rfl, rfl⟩ | with_reducible exact .inr ⟨rfl, rfl, rfl⟩
      | with_reducible exact .inr ⟨rfl, rfl, rfl, rfl⟩ | with_reducible exact .inr ⟨rfl, rfl, rfl, rfl, rfl⟩ | with_reducible apply only_foldl | intro _
      | (split))

theorem sendReadys_only (hqueues : P .queues) (htasks : P .tasks) (hrequests : P .requests) (hmessages : P .messages) (hfabric : P .fabric) (a0 : List Nat) {s₀
    s : State} (h : changesOnly P s₀ s) : changesOnly P s₀ (sendReadys a0 s) := by
  fun_induction sendReadys a0 s
  all_goals intros
  all_goals first | with_reducible assumption | skip
  all_goals repeat' first
      | with_reducible assumption | with_reducible apply_assumption | with_reducible apply sendReady_only | with_reducible apply only_ite
      | with_reducible apply only_mk | with_reducible exact .inl (by assumption) | with_reducible exact .inr rfl | with_reducible exact .inr ⟨rfl, rfl⟩
      | with_reducible exact .inr ⟨rfl, rfl, rfl⟩ | with_reducible exact .inr ⟨rfl, rfl, rfl, rfl⟩ | with_reducible exact .inr ⟨rfl, rfl, rfl, rfl, rfl⟩
      | with_reducible apply only_foldl | intro _ | (split)

theorem readyBoundary_only (hqueues : P .queues) (htasks : P .tasks) (hrequests : P .requests) (hmessages : P .messages) (hfabric : P .fabric) {s₀ s : State} (h
    : changesOnly P s₀ s) : changesOnly P s₀ (readyBoundary s) := by
  fun_cases readyBoundary s
  all_goals (intros; repeat' first
      | with_reducible assumption | with_reducible apply sendReadys_only | with_reducible apply only_ite | with_reducible apply only_mk
      | with_reducible exact .inl (by assumption) | with_reducible exact .inr rfl | with_reducible exact .inr ⟨rfl, rfl⟩
      | with_reducible exact .inr ⟨rfl, rfl, rfl⟩ | with_reducible exact .inr ⟨rfl, rfl, rfl, rfl⟩ | with_reducible exact .inr ⟨rfl, rfl, rfl, rfl, rfl⟩
      | with_reducible apply only_foldl | intro _ | (split))

theorem tryRecords_only (htasks : P .tasks) (hrequests : P .requests) (hmessages : P .messages) (a0 : List Nat) {s₀ s : State} (h : changesOnly P s₀ s) :
    changesOnly P s₀ (tryRecords a0 s) := by
  fun_induction tryRecords a0 s
  all_goals intros
  all_goals first | with_reducible assumption | skip
  all_goals repeat' first
      | with_reducible assumption | with_reducible apply_assumption | with_reducible apply tryRecord_only | with_reducible apply only_ite
      | with_reducible apply only_mk | with_reducible exact .inl (by assumption) | with_reducible exact .inr rfl | with_reducible exact .inr ⟨rfl, rfl⟩
      | with_reducible exact .inr ⟨rfl, rfl, rfl⟩ | with_reducible exact .inr ⟨rfl, rfl, rfl, rfl⟩ | with_reducible exact .inr ⟨rfl, rfl, rfl, rfl, rfl⟩
      | with_reducible apply only_foldl | intro _ | (split)

theorem recordBoundary_only (htasks : P .tasks) (hrequests : P .requests) (hmessages : P .messages) {s₀ s : State} (h : changesOnly P s₀ s) : changesOnly P s₀
    (recordBoundary s) := by
  fun_cases recordBoundary s
  all_goals (intros; repeat' first
      | with_reducible assumption | with_reducible apply tryRecords_only | with_reducible apply only_ite | with_reducible apply only_mk
      | with_reducible exact .inl (by assumption) | with_reducible exact .inr rfl | with_reducible exact .inr ⟨rfl, rfl⟩
      | with_reducible exact .inr ⟨rfl, rfl, rfl⟩ | with_reducible exact .inr ⟨rfl, rfl, rfl, rfl⟩ | with_reducible exact .inr ⟨rfl, rfl, rfl, rfl, rfl⟩
      | with_reducible apply only_foldl | intro _ | (split))

theorem sampleWarn_only (hseq : P .seq) {s₀ s : State} (h : changesOnly P s₀ s) : changesOnly P s₀ (sampleWarn s) := by
  fun_cases sampleWarn s
  all_goals (intros; repeat' first
      | with_reducible assumption | with_reducible apply modSeq_only | with_reducible apply only_ite | with_reducible apply only_mk
      | with_reducible exact .inl (by assumption) | with_reducible exact .inr rfl | with_reducible exact .inr ⟨rfl, rfl⟩
      | with_reducible exact .inr ⟨rfl, rfl, rfl⟩ | with_reducible exact .inr ⟨rfl, rfl, rfl, rfl⟩ | with_reducible exact .inr ⟨rfl, rfl, rfl, rfl, rfl⟩
      | with_reducible apply only_foldl | intro _ | (split))

theorem startMsg_only (hside : P .side) (a0 : List Nat) (a1 : Nat) (a2 : Bool) (a3 : List Byte) {s₀ s : State} (h : changesOnly P s₀ s) : changesOnly P s₀
    (startMsg a0 a1 a2 a3 s) := by
  fun_cases startMsg a0 a1 a2 a3 s
  all_goals (intros; repeat' first
      | with_reducible assumption | with_reducible apply drive_only | with_reducible apply only_ite | with_reducible apply only_mk
      | with_reducible exact .inl (by assumption) | with_reducible exact .inr rfl | with_reducible exact .inr ⟨rfl, rfl⟩
      | with_reducible exact .inr ⟨rfl, rfl, rfl⟩ | with_reducible exact .inr ⟨rfl, rfl, rfl, rfl⟩ | with_reducible exact .inr ⟨rfl, rfl, rfl, rfl, rfl⟩
      | with_reducible apply only_foldl | intro _ | (split))

theorem timeOfDay_only (hside : P .side) (htime : P .time) {s₀ s : State} (h : changesOnly P s₀ s) : changesOnly P s₀ (timeOfDay s) := by
  fun_cases timeOfDay s
  all_goals (intros; repeat' first
      | with_reducible assumption | with_reducible apply startMsg_only | with_reducible apply modTime_only | with_reducible apply only_ite
      | with_reducible apply only_mk | with_reducible exact .inl (by assumption) | with_reducible exact .inr rfl | with_reducible exact .inr ⟨rfl, rfl⟩
      | with_reducible exact .inr ⟨rfl, rfl, rfl⟩ | with_reducible exact .inr ⟨rfl, rfl, rfl, rfl⟩ | with_reducible exact .inr ⟨rfl, rfl, rfl, rfl, rfl⟩
      | with_reducible apply only_foldl | intro _ | (split))

theorem traceOut_only (hside : P .side) {s₀ s : State} (h : changesOnly P s₀ s) : changesOnly P s₀ (traceOut s) := by
  fun_cases traceOut s
  all_goals (intros; repeat' first
      | with_reducible assumption | with_reducible apply startMsg_only | with_reducible apply only_ite | with_reducible apply only_mk
      | with_reducible exact .inl (by assumption) | with_reducible exact .inr rfl | with_reducible exact .inr ⟨rfl, rfl⟩
      | with_reducible exact .inr ⟨rfl, rfl, rfl⟩ | with_reducible exact .inr ⟨rfl, rfl, rfl, rfl⟩ | with_reducible exact .inr ⟨rfl, rfl, rfl, rfl, rfl⟩
      | with_reducible apply only_foldl | intro _ | (split))

theorem boundaryEff_only (hfreeCtr : P .freeCtr) (hstaged : P .staged) (hqueues : P .queues) (htasks : P .tasks) (hintStatus : P .intStatus) (hrequests : P
    .requests) (hmessages : P .messages) (hporch : P .porch) (hside : P .side) (hhatch : P .hatch) (hports : P .ports) (hfabric : P .fabric) (hlinks : P .links)
    (htime : P .time) (hpower : P .power) (hseq : P .seq) {s₀ s : State} (h : changesOnly P s₀ s) : changesOnly P s₀ (boundaryEff s) := by
  fun_cases boundaryEff s
  all_goals (intros; repeat' first
      | with_reducible assumption | with_reducible apply traceOut_only | with_reducible apply timeOfDay_only | with_reducible apply sampleWarn_only
      | with_reducible apply recordBoundary_only | with_reducible apply readyBoundary_only | with_reducible apply powerDownPorch_only
      | with_reducible apply powerBoundary_only | with_reducible apply noteStaged_only | with_reducible apply lateChecks_only
      | with_reducible apply hatchBeat_only | with_reducible apply finishMsgs_only | with_reducible apply beatOut_only | with_reducible apply answerHalts_only
      | with_reducible apply annexTakes_only | with_reducible apply only_ite | with_reducible apply only_mk | with_reducible exact .inl (by assumption)
      | with_reducible exact .inr rfl | with_reducible exact .inr ⟨rfl, rfl⟩ | with_reducible exact .inr ⟨rfl, rfl, rfl⟩
      | with_reducible exact .inr ⟨rfl, rfl, rfl, rfl⟩ | with_reducible exact .inr ⟨rfl, rfl, rfl, rfl, rfl⟩ | with_reducible apply only_foldl | intro _
      | (split))

theorem bringIn_only (hstore : P .store) (hrooms : P .rooms) (a0 : Nat) (a1 : RepairAct) {s₀ s : State} (h : changesOnly P s₀ s) : changesOnly P s₀ (bringIn a0
    a1 s) := by
  fun_cases bringIn a0 a1 s
  all_goals (intros; repeat' first
      | with_reducible assumption | with_reducible apply modRoom_only | with_reducible apply only_ite | with_reducible apply only_mk
      | with_reducible exact .inl (by assumption) | with_reducible exact .inr rfl | with_reducible exact .inr ⟨rfl, rfl⟩
      | with_reducible exact .inr ⟨rfl, rfl, rfl⟩ | with_reducible exact .inr ⟨rfl, rfl, rfl, rfl⟩ | with_reducible exact .inr ⟨rfl, rfl, rfl, rfl, rfl⟩
      | with_reducible apply only_foldl | intro _ | (split))

theorem bringInAll_only (hstore : P .store) (hrooms : P .rooms) (a0 : Nat) (a1 : List RepairAct) {s₀ s : State} (h : changesOnly P s₀ s) : changesOnly P s₀
    (bringInAll a0 a1 s) := by
  fun_induction bringInAll a0 a1 s
  all_goals intros
  all_goals first | with_reducible assumption | skip
  all_goals repeat' first
      | with_reducible assumption | with_reducible apply_assumption | with_reducible apply bringIn_only | with_reducible apply only_ite
      | with_reducible apply only_mk | with_reducible exact .inl (by assumption) | with_reducible exact .inr rfl | with_reducible exact .inr ⟨rfl, rfl⟩
      | with_reducible exact .inr ⟨rfl, rfl, rfl⟩ | with_reducible exact .inr ⟨rfl, rfl, rfl, rfl⟩ | with_reducible exact .inr ⟨rfl, rfl, rfl, rfl, rfl⟩
      | with_reducible apply only_foldl | intro _ | (split)

theorem broadcast_only (hfabric : P .fabric) (a0 : Nat) (a1 : Nat) (a2 : List Byte) {s₀ s : State} (h : changesOnly P s₀ s) : changesOnly P s₀ (broadcast a0 a1
    a2 s) := by
  fun_cases broadcast a0 a1 a2 s
  all_goals (intros; repeat' first
      | with_reducible assumption | with_reducible apply flood_only | with_reducible apply only_ite | with_reducible apply only_mk
      | with_reducible exact .inl (by assumption) | with_reducible exact .inr rfl | with_reducible exact .inr ⟨rfl, rfl⟩
      | with_reducible exact .inr ⟨rfl, rfl, rfl⟩ | with_reducible exact .inr ⟨rfl, rfl, rfl, rfl⟩ | with_reducible exact .inr ⟨rfl, rfl, rfl, rfl, rfl⟩
      | with_reducible apply only_foldl | intro _ | (split))

theorem copySource_only (hstore : P .store) (hhealthSt : P .healthSt) (hintStatus : P .intStatus) (hmessages : P .messages) (hhealth : P .health) (a0 : CopyRec)
    {s₀ s : State} (h : changesOnly P s₀ s) : changesOnly P s₀ (copySource a0 s).1 := by
  have hp : changesOnly P s₀ (putStore (readLines s.store false (linesOf a0.src a0.size)).1 s) := by apply putStore_only <;> with_reducible assumption
  unfold copySource
  extract_lets r
  split
  · exact hp
  · apply blameBank_only <;> first | with_reducible assumption | exact hp

theorem openCopyWindow_only (hstore : P .store) (a0 : Nat) (a1 : CopyRec) {s₀ s : State} (h : changesOnly P s₀ s) : changesOnly P s₀ (openCopyWindow a0 a1 s).1 := by
  unfold openCopyWindow
  try dsimp only
  repeat' first
      | with_reducible assumption | with_reducible apply modStore_only | with_reducible apply only_ite | with_reducible apply only_foldl | intro _ | (split)
      | with_reducible apply only_mk | with_reducible exact .inl (by assumption) | with_reducible exact .inr rfl | with_reducible exact .inr ⟨rfl, rfl⟩
      | with_reducible exact .inr ⟨rfl, rfl, rfl⟩ | with_reducible exact .inr ⟨rfl, rfl, rfl, rfl⟩ | with_reducible exact .inr ⟨rfl, rfl, rfl, rfl, rfl⟩

theorem writeCopy_only (hstore : P .store) (a0 : ListAt × CopyJob) (a1 : CopyRec) (a2 : List Byte) {s₀ s : State} (h : changesOnly P s₀ s) : changesOnly P s₀
    (writeCopy a0 a1 a2 s) := by
  fun_cases writeCopy a0 a1 a2 s
  all_goals (intros; repeat' first
      | with_reducible assumption | with_reducible apply modStore_only | with_reducible apply only_ite | with_reducible apply only_mk
      | with_reducible exact .inl (by assumption) | with_reducible exact .inr rfl | with_reducible exact .inr ⟨rfl, rfl⟩
      | with_reducible exact .inr ⟨rfl, rfl, rfl⟩ | with_reducible exact .inr ⟨rfl, rfl, rfl, rfl⟩ | with_reducible exact .inr ⟨rfl, rfl, rfl, rfl, rfl⟩
      | with_reducible apply only_foldl | intro _ | (split))

theorem buildOne_only (hstore : P .store) (hhealthSt : P .healthSt) (hintStatus : P .intStatus) (hmessages : P .messages) (hhealth : P .health) (a0 : Nat) (a1 :
    ListAt × CopyJob) (a2 : CopyRec) {s₀ s : State} (h : changesOnly P s₀ s) : changesOnly P s₀ (buildOne a0 a1 a2 s).1 := by
  have hc : changesOnly P s₀ (copySource a2 s).1 := by apply copySource_only <;> with_reducible assumption
  unfold buildOne
  split
  · rename_i e; rw [e] at hc; exact hc
  · rename_i e
    rw [e] at hc
    dsimp only
    apply openCopyWindow_only ‹_›
    apply writeCopy_only <;> with_reducible assumption

theorem buildCopies_only (hstore : P .store) (hhealthSt : P .healthSt) (hintStatus : P .intStatus) (hmessages : P .messages) (hhealth : P .health) (a0 : Nat)
    (a1 : List (CopyRec × ListAt × CopyJob)) {s₀ s : State} (h : changesOnly P s₀ s) : changesOnly P s₀ (buildCopies a0 a1 s).1 := by
  induction a1 generalizing a0 s with
  | nil => exact h
  | cons x xs ih =>
    rw [buildCopies]
    repeat' first
      | with_reducible apply ih
      | with_reducible assumption | with_reducible apply_assumption | with_reducible apply buildOne_only | with_reducible apply only_ite
      | with_reducible apply only_foldl | intro _ | (split) | with_reducible apply only_mk | with_reducible exact .inl (by assumption)
      | with_reducible exact .inr rfl | with_reducible exact .inr ⟨rfl, rfl⟩ | with_reducible exact .inr ⟨rfl, rfl, rfl⟩
      | with_reducible exact .inr ⟨rfl, rfl, rfl, rfl⟩ | with_reducible exact .inr ⟨rfl, rfl, rfl, rfl, rfl⟩

theorem haltForRepair_only (htasks : P .tasks) (hfabric : P .fabric) (a0 : Nat) (a1 : List Nat) {s₀ s : State} (h : changesOnly P s₀ s) : changesOnly P s₀
    (haltForRepair a0 a1 s) := by
  fun_induction haltForRepair a0 a1 s
  all_goals intros
  all_goals first | with_reducible assumption | skip
  all_goals repeat' first
      | with_reducible assumption | with_reducible apply_assumption | with_reducible apply haltTask_only | with_reducible apply only_ite
      | with_reducible apply only_mk | with_reducible exact .inl (by assumption) | with_reducible exact .inr rfl | with_reducible exact .inr ⟨rfl, rfl⟩
      | with_reducible exact .inr ⟨rfl, rfl, rfl⟩ | with_reducible exact .inr ⟨rfl, rfl, rfl, rfl⟩ | with_reducible exact .inr ⟨rfl, rfl, rfl, rfl, rfl⟩
      | with_reducible apply only_foldl | intro _ | (split)

theorem markRepair_only (htasks : P .tasks) (a0 : List Nat) {s₀ s : State} (h : changesOnly P s₀ s) : changesOnly P s₀ (markRepair a0 s) := by
  fun_cases markRepair a0 s
  all_goals (intros; repeat' first
      | with_reducible assumption | with_reducible apply only_ite | with_reducible apply only_mk | with_reducible exact .inl (by assumption)
      | with_reducible exact .inr rfl | with_reducible exact .inr ⟨rfl, rfl⟩ | with_reducible exact .inr ⟨rfl, rfl, rfl⟩
      | with_reducible exact .inr ⟨rfl, rfl, rfl, rfl⟩ | with_reducible exact .inr ⟨rfl, rfl, rfl, rfl, rfl⟩ | with_reducible apply only_foldl | intro _
      | (split))

theorem markLatency_only (hlinks : P .links) (a0 : Nat) (a1 : Nat) (a2 : Nat) {s₀ s : State} (h : changesOnly P s₀ s) : changesOnly P s₀ (markLatency a0 a1 a2
    s) := by
  fun_cases markLatency a0 a1 a2 s
  all_goals (intros; repeat' first
      | with_reducible assumption | with_reducible apply modPorts_only | with_reducible apply only_ite | with_reducible apply only_mk
      | with_reducible exact .inl (by assumption) | with_reducible exact .inr rfl | with_reducible exact .inr ⟨rfl, rfl⟩
      | with_reducible exact .inr ⟨rfl, rfl, rfl⟩ | with_reducible exact .inr ⟨rfl, rfl, rfl, rfl⟩ | with_reducible exact .inr ⟨rfl, rfl, rfl, rfl, rfl⟩
      | with_reducible apply only_foldl | intro _ | (split))

theorem refreshBundle_only (hfabric : P .fabric) (hlinks : P .links) (a0 : Nat) (a1 : Nat) (a2 : Bool) {s₀ s : State} (h : changesOnly P s₀ s) : changesOnly P
    s₀ (refreshBundle a0 a1 a2 s) := by
  fun_cases refreshBundle a0 a1 a2 s
  all_goals (intros; repeat' first
      | with_reducible assumption | with_reducible apply markLatency_only | with_reducible apply only_ite | with_reducible apply only_mk
      | with_reducible exact .inl (by assumption) | with_reducible exact .inr rfl | with_reducible exact .inr ⟨rfl, rfl⟩
      | with_reducible exact .inr ⟨rfl, rfl, rfl⟩ | with_reducible exact .inr ⟨rfl, rfl, rfl, rfl⟩ | with_reducible exact .inr ⟨rfl, rfl, rfl, rfl, rfl⟩
      | with_reducible apply only_foldl | intro _ | (split))

theorem joinRoll_only (hfabric : P .fabric) (a0 : Nat) {s₀ s : State} (h : changesOnly P s₀ s) : changesOnly P s₀ (joinRoll a0 s) := by
  fun_cases joinRoll a0 s
  all_goals (intros; repeat' first
      | with_reducible assumption | with_reducible apply broadcast_only | with_reducible apply only_ite | with_reducible apply only_mk
      | with_reducible exact .inl (by assumption) | with_reducible exact .inr rfl | with_reducible exact .inr ⟨rfl, rfl⟩
      | with_reducible exact .inr ⟨rfl, rfl, rfl⟩ | with_reducible exact .inr ⟨rfl, rfl, rfl, rfl⟩ | with_reducible exact .inr ⟨rfl, rfl, rfl, rfl, rfl⟩
      | with_reducible apply only_foldl | intro _ | (split))

theorem startRoll_only (hfabric : P .fabric) {s₀ s : State} (h : changesOnly P s₀ s) : changesOnly P s₀ (startRoll s) := by
  fun_cases startRoll s
  all_goals (intros; repeat' first
      | with_reducible assumption | with_reducible apply joinRoll_only | with_reducible apply broadcast_only | with_reducible apply only_ite
      | with_reducible apply only_mk | with_reducible exact .inl (by assumption) | with_reducible exact .inr rfl | with_reducible exact .inr ⟨rfl, rfl⟩
      | with_reducible exact .inr ⟨rfl, rfl, rfl⟩ | with_reducible exact .inr ⟨rfl, rfl, rfl, rfl⟩ | with_reducible exact .inr ⟨rfl, rfl, rfl, rfl, rfl⟩
      | with_reducible apply only_foldl | intro _ | (split))

theorem bundleEff_only (htasks : P .tasks) (hfabric : P .fabric) (hlinks : P .links) (a1 : Nat) (a2 : Bool) {s₀ s : State} (h : changesOnly P s₀ s) :
    changesOnly P s₀ (bundleEff s a1 a2) := by
  fun_cases bundleEff s a1 a2
  all_goals (intros; repeat' first
      | with_reducible assumption | with_reducible apply startRoll_only | with_reducible apply refreshBundle_only | with_reducible apply markRepair_only
      | with_reducible apply haltForRepair_only | with_reducible apply modFabric_only | with_reducible apply only_ite | with_reducible apply only_mk
      | with_reducible exact .inl (by assumption) | with_reducible exact .inr rfl | with_reducible exact .inr ⟨rfl, rfl⟩
      | with_reducible exact .inr ⟨rfl, rfl, rfl⟩ | with_reducible exact .inr ⟨rfl, rfl, rfl, rfl⟩ | with_reducible exact .inr ⟨rfl, rfl, rfl, rfl, rfl⟩
      | with_reducible apply only_foldl | intro _ | (split))

theorem hatchIrq_only (hintStatus : P .intStatus) (hmessages : P .messages) (a0 : Nat) {s₀ s : State} (h : changesOnly P s₀ s) : changesOnly P s₀ (hatchIrq a0
    s) := by
  fun_cases hatchIrq a0 s
  all_goals (intros; repeat' first
      | with_reducible assumption | with_reducible apply raiseInt_only | with_reducible apply addEvt_only | with_reducible apply only_ite
      | with_reducible apply only_mk | with_reducible exact .inl (by assumption) | with_reducible exact .inr rfl | with_reducible exact .inr ⟨rfl, rfl⟩
      | with_reducible exact .inr ⟨rfl, rfl, rfl⟩ | with_reducible exact .inr ⟨rfl, rfl, rfl, rfl⟩ | with_reducible exact .inr ⟨rfl, rfl, rfl, rfl, rfl⟩
      | with_reducible apply only_foldl | intro _ | (split))

theorem burstDone_only (hintStatus : P .intStatus) (hmessages : P .messages) (hhatch : P .hatch) (a0 : Nat) {s₀ s : State} (h : changesOnly P s₀ s) :
    changesOnly P s₀ (burstDone a0 s) := by
  fun_cases burstDone a0 s
  all_goals (intros; repeat' first
      | with_reducible assumption | with_reducible apply hatchIrq_only | with_reducible apply modHatch_only | with_reducible apply only_ite
      | with_reducible apply only_mk | with_reducible exact .inl (by assumption) | with_reducible exact .inr rfl | with_reducible exact .inr ⟨rfl, rfl⟩
      | with_reducible exact .inr ⟨rfl, rfl, rfl⟩ | with_reducible exact .inr ⟨rfl, rfl, rfl, rfl⟩ | with_reducible exact .inr ⟨rfl, rfl, rfl, rfl, rfl⟩
      | with_reducible apply only_foldl | intro _ | (split))

theorem hatchError_only (hintStatus : P .intStatus) (hmessages : P .messages) (hhatch : P .hatch) (a0 : Nat) (a1 : Nat) {s₀ s : State} (h : changesOnly P s₀ s)
    : changesOnly P s₀ (hatchError a0 a1 s) := by
  fun_cases hatchError a0 a1 s
  all_goals (intros; repeat' first
      | with_reducible assumption | with_reducible apply hatchIrq_only | with_reducible apply modHatch_only | with_reducible apply only_ite
      | with_reducible apply only_mk | with_reducible exact .inl (by assumption) | with_reducible exact .inr rfl | with_reducible exact .inr ⟨rfl, rfl⟩
      | with_reducible exact .inr ⟨rfl, rfl, rfl⟩ | with_reducible exact .inr ⟨rfl, rfl, rfl, rfl⟩ | with_reducible exact .inr ⟨rfl, rfl, rfl, rfl, rfl⟩
      | with_reducible apply only_foldl | intro _ | (split))

theorem burstEff_only (hintStatus : P .intStatus) (hmessages : P .messages) (hhatch : P .hatch) (a1 : Nat) {s₀ s : State} (h : changesOnly P s₀ s) : changesOnly
    P s₀ (burstEff s a1) := by
  fun_cases burstEff s a1
  all_goals (intros; repeat' first
      | with_reducible assumption | with_reducible apply hatchError_only | with_reducible apply modHatch_only | with_reducible apply modShell_only
      | with_reducible apply only_ite | with_reducible apply only_mk | with_reducible exact .inl (by assumption) | with_reducible exact .inr rfl
      | with_reducible exact .inr ⟨rfl, rfl⟩ | with_reducible exact .inr ⟨rfl, rfl, rfl⟩ | with_reducible exact .inr ⟨rfl, rfl, rfl, rfl⟩
      | with_reducible exact .inr ⟨rfl, rfl, rfl, rfl, rfl⟩ | with_reducible apply only_foldl | intro _ | (split))

theorem capMove_only (hfreeCtr : P .freeCtr) (hintStatus : P .intStatus) (hmessages : P .messages) (hlinks : P .links) (hpower : P .power) (a0 : Nat) {s₀ s :
    State} (h : changesOnly P s₀ s) : changesOnly P s₀ (capMove a0 s) := by
  fun_cases capMove a0 s
  all_goals (intros; repeat' first
      | with_reducible assumption | with_reducible apply capAt_only | with_reducible apply modPower_only | with_reducible apply only_ite
      | with_reducible apply only_mk | with_reducible exact .inl (by assumption) | with_reducible exact .inr rfl | with_reducible exact .inr ⟨rfl, rfl⟩
      | with_reducible exact .inr ⟨rfl, rfl, rfl⟩ | with_reducible exact .inr ⟨rfl, rfl, rfl, rfl⟩ | with_reducible exact .inr ⟨rfl, rfl, rfl, rfl, rfl⟩
      | with_reducible apply only_foldl | intro _ | (split))

theorem modCtx_only (hctxs : P .ctxs) (a0 : Nat) (a1 : Ctx → Ctx) {s₀ s : State} (h : changesOnly P s₀ s) : changesOnly P s₀ (modCtx a0 a1 s) := by
  fun_cases modCtx a0 a1 s
  all_goals (intros; repeat' first
      | with_reducible assumption | with_reducible apply only_ite | with_reducible apply only_mk | with_reducible exact .inl (by assumption)
      | with_reducible exact .inr rfl | with_reducible exact .inr ⟨rfl, rfl⟩ | with_reducible exact .inr ⟨rfl, rfl, rfl⟩
      | with_reducible exact .inr ⟨rfl, rfl, rfl, rfl⟩ | with_reducible exact .inr ⟨rfl, rfl, rfl, rfl, rfl⟩ | with_reducible apply only_foldl | intro _
      | (split))

theorem porchFill_only (hrequests : P .requests) (hmessages : P .messages) (a0 : Bool) (a1 : Nat) {s₀ s : State} (h : changesOnly P s₀ s) : changesOnly P s₀
    (porchFill a0 a1 s) := by
  fun_cases porchFill a0 a1 s
  all_goals (intros; repeat' first
      | with_reducible assumption | with_reducible apply issueReq_only | with_reducible apply only_ite | with_reducible apply only_mk
      | with_reducible exact .inl (by assumption) | with_reducible exact .inr rfl | with_reducible exact .inr ⟨rfl, rfl⟩
      | with_reducible exact .inr ⟨rfl, rfl, rfl⟩ | with_reducible exact .inr ⟨rfl, rfl, rfl, rfl⟩ | with_reducible exact .inr ⟨rfl, rfl, rfl, rfl, rfl⟩
      | with_reducible apply only_foldl | intro _ | (split))

theorem porchPut_only (hrequests : P .requests) (hmessages : P .messages) (hporch : P .porch) (a0 : Nat) (a1 : Nat) (a2 : List Byte) {s₀ s : State} (h :
    changesOnly P s₀ s) : changesOnly P s₀ (porchPut a0 a1 a2 s) := by
  fun_cases porchPut a0 a1 a2 s
  all_goals (intros; repeat' first
      | with_reducible assumption | with_reducible apply porchFill_only | with_reducible apply only_ite | with_reducible apply only_mk
      | with_reducible exact .inl (by assumption) | with_reducible exact .inr rfl | with_reducible exact .inr ⟨rfl, rfl⟩
      | with_reducible exact .inr ⟨rfl, rfl, rfl⟩ | with_reducible exact .inr ⟨rfl, rfl, rfl, rfl⟩ | with_reducible exact .inr ⟨rfl, rfl, rfl, rfl, rfl⟩
      | with_reducible apply only_foldl | intro _ | (split))

theorem putStatus_only (hrequests : P .requests) (hmessages : P .messages) (hporch : P .porch) (a0 : Nat) {s₀ s : State} (h : changesOnly P s₀ s) : changesOnly
    P s₀ (putStatus a0 s) := by
  fun_cases putStatus a0 s
  all_goals (intros; repeat' first
      | with_reducible assumption | with_reducible apply porchPut_only | with_reducible apply only_ite | with_reducible apply only_mk
      | with_reducible exact .inl (by assumption) | with_reducible exact .inr rfl | with_reducible exact .inr ⟨rfl, rfl⟩
      | with_reducible exact .inr ⟨rfl, rfl, rfl⟩ | with_reducible exact .inr ⟨rfl, rfl, rfl, rfl⟩ | with_reducible exact .inr ⟨rfl, rfl, rfl, rfl, rfl⟩
      | with_reducible apply only_foldl | intro _ | (split))

theorem putStatusAll_only (hrequests : P .requests) (hmessages : P .messages) (hporch : P .porch) (a0 : List Nat) {s₀ s : State} (h : changesOnly P s₀ s) :
    changesOnly P s₀ (putStatusAll a0 s) := by
  fun_induction putStatusAll a0 s
  all_goals intros
  all_goals first | with_reducible assumption | skip
  all_goals repeat' first
      | with_reducible assumption | with_reducible apply_assumption | with_reducible apply putStatus_only | with_reducible apply only_ite
      | with_reducible apply only_mk | with_reducible exact .inl (by assumption) | with_reducible exact .inr rfl | with_reducible exact .inr ⟨rfl, rfl⟩
      | with_reducible exact .inr ⟨rfl, rfl, rfl⟩ | with_reducible exact .inr ⟨rfl, rfl, rfl, rfl⟩ | with_reducible exact .inr ⟨rfl, rfl, rfl, rfl, rfl⟩
      | with_reducible apply only_foldl | intro _ | (split)

theorem ctxFault_only (hctxs : P .ctxs) (hqueues : P .queues) (hrequests : P .requests) (hmessages : P .messages) (hporch : P .porch) (a0 : Nat) (a1 : Nat) (a2
    : Nat) (a3 : Nat) {s₀ s : State} (h : changesOnly P s₀ s) : changesOnly P s₀ (ctxFault a0 a1 a2 a3 s) := by
  fun_cases ctxFault a0 a1 a2 a3 s
  all_goals (intros; repeat' first
      | with_reducible assumption | with_reducible apply putStatusAll_only | with_reducible apply modCtx_only | with_reducible apply only_ite
      | with_reducible apply only_mk | with_reducible exact .inl (by assumption) | with_reducible exact .inr rfl | with_reducible exact .inr ⟨rfl, rfl⟩
      | with_reducible exact .inr ⟨rfl, rfl, rfl⟩ | with_reducible exact .inr ⟨rfl, rfl, rfl, rfl⟩ | with_reducible exact .inr ⟨rfl, rfl, rfl, rfl, rfl⟩
      | with_reducible apply only_foldl | intro _ | (split))

theorem killDesc_only (hqueues : P .queues) (hrequests : P .requests) (a0 : Nat) {s₀ s : State} (h : changesOnly P s₀ s) : changesOnly P s₀ (killDesc a0 s) := by
  fun_cases killDesc a0 s
  all_goals (intros; repeat' first
      | with_reducible assumption | with_reducible apply modQueue_only | with_reducible apply modHost_only | with_reducible apply only_ite
      | with_reducible apply only_mk | with_reducible exact .inl (by assumption) | with_reducible exact .inr rfl | with_reducible exact .inr ⟨rfl, rfl⟩
      | with_reducible exact .inr ⟨rfl, rfl, rfl⟩ | with_reducible exact .inr ⟨rfl, rfl, rfl, rfl⟩ | with_reducible exact .inr ⟨rfl, rfl, rfl, rfl, rfl⟩
      | with_reducible apply only_foldl | intro _ | (split))

theorem chainTimeoutEff_only (hctxs : P .ctxs) (hqueues : P .queues) (hrequests : P .requests) (hmessages : P .messages) (hporch : P .porch) (a1 : Nat) {s₀ s :
    State} (h : changesOnly P s₀ s) : changesOnly P s₀ (chainTimeoutEff s a1) := by
  fun_cases chainTimeoutEff s a1
  all_goals (intros; repeat' first
      | with_reducible assumption | with_reducible apply killDesc_only | with_reducible apply ctxFault_only | with_reducible apply only_ite
      | with_reducible apply only_mk | with_reducible exact .inl (by assumption) | with_reducible exact .inr rfl | with_reducible exact .inr ⟨rfl, rfl⟩
      | with_reducible exact .inr ⟨rfl, rfl, rfl⟩ | with_reducible exact .inr ⟨rfl, rfl, rfl, rfl⟩ | with_reducible exact .inr ⟨rfl, rfl, rfl, rfl, rfl⟩
      | with_reducible apply only_foldl | intro _ | (split))

theorem checkMembers_only (hqueues : P .queues) (htasks : P .tasks) (hrequests : P .requests) (hmessages : P .messages) (hfabric : P .fabric) (a0 : Task) {s₀ s
    : State} (h : changesOnly P s₀ s) : changesOnly P s₀ (checkMembers a0 s) := by
  fun_cases checkMembers a0 s
  all_goals (intros; repeat' first
      | with_reducible assumption | with_reducible apply refuseRound_only | with_reducible apply finishTask_only | with_reducible apply haltWith_only
      | with_reducible apply haltQuiet_only | with_reducible apply only_ite | with_reducible apply only_mk | with_reducible exact .inl (by assumption)
      | with_reducible exact .inr rfl | with_reducible exact .inr ⟨rfl, rfl⟩ | with_reducible exact .inr ⟨rfl, rfl, rfl⟩
      | with_reducible exact .inr ⟨rfl, rfl, rfl, rfl⟩ | with_reducible exact .inr ⟨rfl, rfl, rfl, rfl, rfl⟩ | with_reducible apply only_foldl | intro _
      | (split))

theorem checkAll_only (hqueues : P .queues) (htasks : P .tasks) (hrequests : P .requests) (hmessages : P .messages) (hfabric : P .fabric) (a0 : List Task) {s₀ s
    : State} (h : changesOnly P s₀ s) : changesOnly P s₀ (checkAll a0 s) := by
  fun_induction checkAll a0 s
  all_goals intros
  all_goals first | with_reducible assumption | skip
  all_goals repeat' first
      | with_reducible assumption | with_reducible apply_assumption | with_reducible apply checkMembers_only | with_reducible apply only_ite
      | with_reducible apply only_mk | with_reducible exact .inl (by assumption) | with_reducible exact .inr rfl | with_reducible exact .inr ⟨rfl, rfl⟩
      | with_reducible exact .inr ⟨rfl, rfl, rfl⟩ | with_reducible exact .inr ⟨rfl, rfl, rfl, rfl⟩ | with_reducible exact .inr ⟨rfl, rfl, rfl, rfl, rfl⟩
      | with_reducible apply only_foldl | intro _ | (split)

theorem endGap_only (hpower : P .power) (a0 : Nat) (a1 : Nat) {s₀ s : State} (h : changesOnly P s₀ s) : changesOnly P s₀ (endGap a0 a1 s) := by
  fun_cases endGap a0 a1 s
  all_goals (intros; repeat' first
      | with_reducible assumption | with_reducible apply modPower_only | with_reducible apply only_ite | with_reducible apply only_mk
      | with_reducible exact .inl (by assumption) | with_reducible exact .inr rfl | with_reducible exact .inr ⟨rfl, rfl⟩
      | with_reducible exact .inr ⟨rfl, rfl, rfl⟩ | with_reducible exact .inr ⟨rfl, rfl, rfl, rfl⟩ | with_reducible exact .inr ⟨rfl, rfl, rfl, rfl, rfl⟩
      | with_reducible apply only_foldl | intro _ | (split))

theorem endGaps_only (hpower : P .power) (a0 : Nat) (a1 : List Nat) {s₀ s : State} (h : changesOnly P s₀ s) : changesOnly P s₀ (endGaps a0 a1 s) := by
  fun_induction endGaps a0 a1 s
  all_goals intros
  all_goals first | with_reducible assumption | skip
  all_goals repeat' first
      | with_reducible assumption | with_reducible apply_assumption | with_reducible apply endGap_only | with_reducible apply only_ite
      | with_reducible apply only_mk | with_reducible exact .inl (by assumption) | with_reducible exact .inr rfl | with_reducible exact .inr ⟨rfl, rfl⟩
      | with_reducible exact .inr ⟨rfl, rfl, rfl⟩ | with_reducible exact .inr ⟨rfl, rfl, rfl, rfl⟩ | with_reducible exact .inr ⟨rfl, rfl, rfl, rfl, rfl⟩
      | with_reducible apply only_foldl | intro _ | (split)

theorem engage_only (hrooms : P .rooms) (hpower : P .power) (a0 : Nat) (a1 : Nat) (a2 : Room) (a3 : OpWord) (a4 : OpWord) (a5 : Nat) {s₀ s : State} (h :
    changesOnly P s₀ s) : changesOnly P s₀ (engage a0 a1 a2 a3 a4 a5 s) := by
  fun_cases engage a0 a1 a2 a3 a4 a5 s
  all_goals (intros; repeat' first
      | with_reducible assumption | with_reducible apply endGaps_only | with_reducible apply modRoom_only | with_reducible apply only_ite
      | with_reducible apply only_mk | with_reducible exact .inl (by assumption) | with_reducible exact .inr rfl | with_reducible exact .inr ⟨rfl, rfl⟩
      | with_reducible exact .inr ⟨rfl, rfl, rfl⟩ | with_reducible exact .inr ⟨rfl, rfl, rfl, rfl⟩ | with_reducible exact .inr ⟨rfl, rfl, rfl, rfl, rfl⟩
      | with_reducible apply only_foldl | intro _ | (split))

theorem stepBody_only (hfreeCtr : P .freeCtr) (hstore : P .store) (hrooms : P .rooms) (htasks : P .tasks) (hintStatus : P .intStatus) (hmessages : P .messages)
    (hpace : P .pace) (hpower : P .power) (hhealth : P .health) (a0 : Nat) (a1 : OpWord) (a2 : OpWord) (a3 : Env) (a4 : Room) (a5 : Task) (a6 : Nat) {s₀ s :
    State} (h : changesOnly P s₀ s) : changesOnly P s₀ (stepBody a0 a1 a2 a3 a4 a5 a6 s) := by
  fun_cases stepBody a0 a1 a2 a3 a4 a5 a6 s
  all_goals (intros; repeat' first
      | with_reducible assumption | with_reducible apply engage_only | with_reducible apply stepOnce_only | with_reducible apply only_ite
      | with_reducible apply only_mk | with_reducible exact .inl (by assumption) | with_reducible exact .inr rfl | with_reducible exact .inr ⟨rfl, rfl⟩
      | with_reducible exact .inr ⟨rfl, rfl, rfl⟩ | with_reducible exact .inr ⟨rfl, rfl, rfl, rfl⟩ | with_reducible exact .inr ⟨rfl, rfl, rfl, rfl, rfl⟩
      | with_reducible apply only_foldl | intro _ | (split))

theorem chuteBody_only (hfreeCtr : P .freeCtr) (hstore : P .store) (hrooms : P .rooms) (htasks : P .tasks) (hintStatus : P .intStatus) (hmessages : P .messages)
    (hpace : P .pace) (hpower : P .power) (hhealth : P .health) (a0 : Nat) (a1 : OpWord) (a2 : Env) (a3 : Room) (a4 : Task) (a5 : Nat) {s₀ s : State} (h :
    changesOnly P s₀ s) : changesOnly P s₀ (chuteBody a0 a1 a2 a3 a4 a5 s) := by
  fun_cases chuteBody a0 a1 a2 a3 a4 a5 s
  all_goals (intros; repeat' first
      | with_reducible assumption | with_reducible apply stepBody_only | with_reducible apply only_ite | with_reducible apply only_mk
      | with_reducible exact .inl (by assumption) | with_reducible exact .inr rfl | with_reducible exact .inr ⟨rfl, rfl⟩
      | with_reducible exact .inr ⟨rfl, rfl, rfl⟩ | with_reducible exact .inr ⟨rfl, rfl, rfl, rfl⟩ | with_reducible exact .inr ⟨rfl, rfl, rfl, rfl, rfl⟩
      | with_reducible apply only_foldl | intro _ | (split))

theorem clearCtx_only (hctxs : P .ctxs) (hqueues : P .queues) (htasks : P .tasks) (hrequests : P .requests) (hmessages : P .messages) (hporch : P .porch) (a0 :
    Nat) {s₀ s : State} (h : changesOnly P s₀ s) : changesOnly P s₀ (clearCtx a0 s) := by
  fun_cases clearCtx a0 s
  all_goals (intros; repeat' first
      | with_reducible assumption | with_reducible apply putStatusAll_only | with_reducible apply modCtx_only | with_reducible apply promote_only
      | with_reducible apply modSteward_only | with_reducible apply only_ite | with_reducible apply only_mk | with_reducible exact .inl (by assumption)
      | with_reducible exact .inr rfl | with_reducible exact .inr ⟨rfl, rfl⟩ | with_reducible exact .inr ⟨rfl, rfl, rfl⟩
      | with_reducible exact .inr ⟨rfl, rfl, rfl, rfl⟩ | with_reducible exact .inr ⟨rfl, rfl, rfl, rfl, rfl⟩ | with_reducible apply only_foldl | intro _
      | (split))

theorem clearStores_only (hstore : P .store) {s₀ s : State} (h : changesOnly P s₀ s) : changesOnly P s₀ (clearStores s) := by
  fun_cases clearStores s
  all_goals (intros; repeat' first
      | with_reducible assumption | with_reducible apply modStore_only | with_reducible apply only_ite | with_reducible apply only_mk
      | with_reducible exact .inl (by assumption) | with_reducible exact .inr rfl | with_reducible exact .inr ⟨rfl, rfl⟩
      | with_reducible exact .inr ⟨rfl, rfl, rfl⟩ | with_reducible exact .inr ⟨rfl, rfl, rfl, rfl⟩ | with_reducible exact .inr ⟨rfl, rfl, rfl, rfl, rfl⟩
      | with_reducible apply only_foldl | intro _ | (split))

theorem closePace_only (hintStatus : P .intStatus) (hmessages : P .messages) (hpace : P .pace) (a0 : List Nat) (a1 : List Nat) {s₀ s : State} (h : changesOnly P
    s₀ s) : changesOnly P s₀ (closePace a0 a1 s) := by
  fun_cases closePace a0 a1 s
  all_goals (intros; repeat' first
      | with_reducible assumption | with_reducible apply modPace_only | with_reducible apply raiseInt_only | with_reducible apply only_ite
      | with_reducible apply only_mk | with_reducible exact .inl (by assumption) | with_reducible exact .inr rfl | with_reducible exact .inr ⟨rfl, rfl⟩
      | with_reducible exact .inr ⟨rfl, rfl, rfl⟩ | with_reducible exact .inr ⟨rfl, rfl, rfl, rfl⟩ | with_reducible exact .inr ⟨rfl, rfl, rfl, rfl, rfl⟩
      | with_reducible apply only_foldl | intro _ | (split))

theorem codewordEff_only (hlinks : P .links) (a1 : Nat) (a2 : Nat) (a3 : Nat) (a4 : List Block) {s₀ s : State} (h : changesOnly P s₀ s) : changesOnly P s₀
    (codewordEff s a1 a2 a3 a4) := by
  fun_cases codewordEff s a1 a2 a3 a4
  all_goals (intros; repeat' first
      | with_reducible assumption | with_reducible apply putPort_only | with_reducible apply only_ite | with_reducible apply only_mk
      | with_reducible exact .inl (by assumption) | with_reducible exact .inr rfl | with_reducible exact .inr ⟨rfl, rfl⟩
      | with_reducible exact .inr ⟨rfl, rfl, rfl⟩ | with_reducible exact .inr ⟨rfl, rfl, rfl, rfl⟩ | with_reducible exact .inr ⟨rfl, rfl, rfl, rfl, rfl⟩
      | with_reducible apply only_foldl | intro _ | (split))

theorem setPhase_only (hphase : P .phase) (hintStatus : P .intStatus) (hmessages : P .messages) (hseq : P .seq) (a0 : Nat) {s₀ s : State} (h : changesOnly P s₀
    s) : changesOnly P s₀ (setPhase a0 s) := by
  fun_cases setPhase a0 s
  all_goals (intros; repeat' first
      | with_reducible assumption | with_reducible apply raiseInt_only | with_reducible apply only_ite | with_reducible apply only_mk
      | with_reducible exact .inl (by assumption) | with_reducible exact .inr rfl | with_reducible exact .inr ⟨rfl, rfl⟩
      | with_reducible exact .inr ⟨rfl, rfl, rfl⟩ | with_reducible exact .inr ⟨rfl, rfl, rfl, rfl⟩ | with_reducible exact .inr ⟨rfl, rfl, rfl, rfl, rfl⟩
      | with_reducible apply only_foldl | intro _ | (split))

theorem failWith_only (hphase : P .phase) (hserving : P .serving) (hintStatus : P .intStatus) (hmessages : P .messages) (hseq : P .seq) (a0 : Nat) {s₀ s :
    State} (h : changesOnly P s₀ s) : changesOnly P s₀ (failWith a0 s) := by
  fun_cases failWith a0 s
  all_goals (intros; repeat' first
      | with_reducible assumption | with_reducible apply setPhase_only | with_reducible apply modSeq_only | with_reducible apply only_ite
      | with_reducible apply only_mk | with_reducible exact .inl (by assumption) | with_reducible exact .inr rfl | with_reducible exact .inr ⟨rfl, rfl⟩
      | with_reducible exact .inr ⟨rfl, rfl, rfl⟩ | with_reducible exact .inr ⟨rfl, rfl, rfl, rfl⟩ | with_reducible exact .inr ⟨rfl, rfl, rfl, rfl, rfl⟩
      | with_reducible apply only_foldl | intro _ | (split))

theorem collapse_only (hstore : P .store) (hrooms : P .rooms) (hoffered : P .offered) (hphase : P .phase) (hhealthSt : P .healthSt) (hfabricSt : P .fabricSt)
    (hserving : P .serving) (hmboxes : P .mboxes) (hstaged : P .staged) (hctxs : P .ctxs) (hqueues : P .queues) (hfences : P .fences) (himages : P .images)
    (htasks : P .tasks) (hidentity : P .identity) (hintStatus : P .intStatus) (hintEnable : P .intEnable) (htimeout : P .timeout) (hhostErrors : P .hostErrors)
    (hrequests : P .requests) (hmessages : P .messages) (hporch : P .porch) (hside : P .side) (hhatch : P .hatch) (hports : P .ports) (hkeep : P .keep) (hsnap :
    P .snap) (hfabric : P .fabric) (hlinks : P .links) (htime : P .time) (hpace : P .pace) (hpower : P .power) (hhealth : P .health) (hseq : P .seq) (a0 : Nat)
    (a1 : Nat) {s₀ s : State} (h : changesOnly P s₀ s) : changesOnly P s₀ (collapse a0 a1 s) := by
  fun_cases collapse a0 a1 s
  all_goals (intros; repeat' first
      | with_reducible assumption | with_reducible apply failWith_only | with_reducible apply modSeq_only | with_reducible apply hardReset_only
      | with_reducible apply only_ite | with_reducible apply only_mk | with_reducible exact .inl (by assumption) | with_reducible exact .inr rfl
      | with_reducible exact .inr ⟨rfl, rfl⟩ | with_reducible exact .inr ⟨rfl, rfl, rfl⟩ | with_reducible exact .inr ⟨rfl, rfl, rfl, rfl⟩
      | with_reducible exact .inr ⟨rfl, rfl, rfl, rfl, rfl⟩ | with_reducible apply only_foldl | intro _ | (split))

theorem queueKeep_only (hkeep : P .keep) (a0 : Nat) (a1 : List Byte) (a2 : Option Nat) {s₀ s : State} (h : changesOnly P s₀ s) : changesOnly P s₀ (queueKeep a0
    a1 a2 s) := by
  fun_cases queueKeep a0 a1 a2 s
  all_goals (intros; repeat' first
      | with_reducible assumption | with_reducible apply only_ite | with_reducible apply only_mk | with_reducible exact .inl (by assumption)
      | with_reducible exact .inr rfl | with_reducible exact .inr ⟨rfl, rfl⟩ | with_reducible exact .inr ⟨rfl, rfl, rfl⟩
      | with_reducible exact .inr ⟨rfl, rfl, rfl, rfl⟩ | with_reducible exact .inr ⟨rfl, rfl, rfl, rfl, rfl⟩ | with_reducible apply only_foldl | intro _
      | (split))

theorem sendEntries_only (hfabric : P .fabric) (a0 : Nat) (a1 : Option Nat) (a2 : BitVec 64) (a3 : Nat) (a4 : Nat) (a5 : Tab (BitVec 32)) (a6 : Nat) {s₀ s :
    State} (h : changesOnly P s₀ s) : changesOnly P s₀ (sendEntries a0 a1 a2 a3 a4 a5 a6 s) := by
  fun_induction sendEntries a0 a1 a2 a3 a4 a5 a6 s
  all_goals intros
  all_goals first | with_reducible assumption | skip
  all_goals repeat' first
      | with_reducible assumption | with_reducible apply_assumption | with_reducible apply sendTo_only | with_reducible apply only_ite
      | with_reducible apply only_mk | with_reducible exact .inl (by assumption) | with_reducible exact .inr rfl | with_reducible exact .inr ⟨rfl, rfl⟩
      | with_reducible exact .inr ⟨rfl, rfl, rfl⟩ | with_reducible exact .inr ⟨rfl, rfl, rfl, rfl⟩ | with_reducible exact .inr ⟨rfl, rfl, rfl, rfl, rfl⟩
      | with_reducible apply only_foldl | intro _ | (split)

theorem sendUpdates_only (hfabric : P .fabric) (a0 : List Hop) (a1 : Nat) (a2 : Nat) (a3 : List (AdmRec × Nat × Nat × Nat)) (a4 : List (AdmRec × Nat × Nat ×
    Nat)) {s₀ s : State} (h : changesOnly P s₀ s) : changesOnly P s₀ (sendUpdates a0 a1 a2 a3 a4 s) := by
  fun_induction sendUpdates a0 a1 a2 a3 a4 s
  all_goals intros
  all_goals first | with_reducible assumption | skip
  all_goals repeat' first
      | with_reducible assumption | with_reducible apply_assumption | with_reducible apply sendEntries_only | with_reducible apply modFabric_only
      | with_reducible apply only_ite | with_reducible apply only_mk | with_reducible exact .inl (by assumption) | with_reducible exact .inr rfl
      | with_reducible exact .inr ⟨rfl, rfl⟩ | with_reducible exact .inr ⟨rfl, rfl, rfl⟩ | with_reducible exact .inr ⟨rfl, rfl, rfl, rfl⟩
      | with_reducible exact .inr ⟨rfl, rfl, rfl, rfl, rfl⟩ | with_reducible apply only_foldl | intro _ | (split)

theorem issueUpdate_only (hfreeCtr : P .freeCtr) (hfabric : P .fabric) (a0 : Bool) (a1 : List (AdmRec × Nat × Nat × Nat)) {s₀ s : State} (h : changesOnly P s₀
    s) : changesOnly P s₀ (issueUpdate a0 a1 s) := by
  fun_cases issueUpdate a0 a1 s
  all_goals (intros; repeat' first
      | with_reducible assumption | with_reducible apply sendUpdates_only | with_reducible apply modFabric_only | with_reducible apply only_ite
      | with_reducible apply only_mk | with_reducible exact .inl (by assumption) | with_reducible exact .inr rfl | with_reducible exact .inr ⟨rfl, rfl⟩
      | with_reducible exact .inr ⟨rfl, rfl, rfl⟩ | with_reducible exact .inr ⟨rfl, rfl, rfl, rfl⟩ | with_reducible exact .inr ⟨rfl, rfl, rfl, rfl, rfl⟩
      | with_reducible apply only_foldl | intro _ | (split))

theorem reissue_only (hfreeCtr : P .freeCtr) (hfabric : P .fabric) {s₀ s : State} (h : changesOnly P s₀ s) : changesOnly P s₀ (reissue s) := by
  fun_cases reissue s
  all_goals (intros; repeat' first
      | with_reducible assumption | with_reducible apply issueUpdate_only | with_reducible apply only_ite | with_reducible apply only_mk
      | with_reducible exact .inl (by assumption) | with_reducible exact .inr rfl | with_reducible exact .inr ⟨rfl, rfl⟩
      | with_reducible exact .inr ⟨rfl, rfl, rfl⟩ | with_reducible exact .inr ⟨rfl, rfl, rfl, rfl⟩ | with_reducible exact .inr ⟨rfl, rfl, rfl, rfl, rfl⟩
      | with_reducible apply only_foldl | intro _ | (split))

theorem tableChanged_only (hfreeCtr : P .freeCtr) (hfabric : P .fabric) {s₀ s : State} (h : changesOnly P s₀ s) : changesOnly P s₀ (tableChanged s) := by
  fun_cases tableChanged s
  all_goals (intros; repeat' first
      | with_reducible assumption | with_reducible apply reissue_only | with_reducible apply sendEntries_only | with_reducible apply only_ite
      | with_reducible apply only_mk | with_reducible exact .inl (by assumption) | with_reducible exact .inr rfl | with_reducible exact .inr ⟨rfl, rfl⟩
      | with_reducible exact .inr ⟨rfl, rfl, rfl⟩ | with_reducible exact .inr ⟨rfl, rfl, rfl, rfl⟩ | with_reducible exact .inr ⟨rfl, rfl, rfl, rfl, rfl⟩
      | with_reducible apply only_foldl | intro _ | (split))

theorem commitFabric_only (hfreeCtr : P .freeCtr) (hkeep : P .keep) (hfabric : P .fabric) (a0 : MsgWord) (a1 : List (BitVec 32)) {s₀ s : State} (h : changesOnly
    P s₀ s) : changesOnly P s₀ (commitFabric a0 a1 s) := by
  fun_cases commitFabric a0 a1 s
  all_goals (intros; repeat' first
      | with_reducible assumption | with_reducible apply tableChanged_only | with_reducible apply queueKeep_only | with_reducible apply modFabric_only
      | with_reducible apply only_ite | with_reducible apply only_mk | with_reducible exact .inl (by assumption) | with_reducible exact .inr rfl
      | with_reducible exact .inr ⟨rfl, rfl⟩ | with_reducible exact .inr ⟨rfl, rfl, rfl⟩ | with_reducible exact .inr ⟨rfl, rfl, rfl, rfl⟩
      | with_reducible exact .inr ⟨rfl, rfl, rfl, rfl, rfl⟩ | with_reducible apply only_foldl | intro _ | (split))

theorem wantReplace_only (hhealth : P .health) (a0 : Nat) (a1 : Nat) {s₀ s : State} (h : changesOnly P s₀ s) : changesOnly P s₀ (wantReplace a0 a1 s) := by
  fun_cases wantReplace a0 a1 s
  all_goals (intros; repeat' first
      | with_reducible assumption | with_reducible apply modHealth_only | with_reducible apply only_ite | with_reducible apply only_mk
      | with_reducible exact .inl (by assumption) | with_reducible exact .inr rfl | with_reducible exact .inr ⟨rfl, rfl⟩
      | with_reducible exact .inr ⟨rfl, rfl, rfl⟩ | with_reducible exact .inr ⟨rfl, rfl, rfl, rfl⟩ | with_reducible exact .inr ⟨rfl, rfl, rfl, rfl, rfl⟩
      | with_reducible apply only_foldl | intro _ | (split))

theorem commitHealth_only (hhealth : P .health) (a0 : MsgWord) {s₀ s : State} (h : changesOnly P s₀ s) : changesOnly P s₀ (commitHealth a0 s) := by
  fun_cases commitHealth a0 s
  all_goals (intros; repeat' first
      | with_reducible assumption | with_reducible apply wantReplace_only | with_reducible apply modHealth_only | with_reducible apply only_ite
      | with_reducible apply only_mk | with_reducible exact .inl (by assumption) | with_reducible exact .inr rfl | with_reducible exact .inr ⟨rfl, rfl⟩
      | with_reducible exact .inr ⟨rfl, rfl, rfl⟩ | with_reducible exact .inr ⟨rfl, rfl, rfl, rfl⟩ | with_reducible exact .inr ⟨rfl, rfl, rfl, rfl, rfl⟩
      | with_reducible apply only_foldl | intro _ | (split))

theorem commitPace_only (hpace : P .pace) (hpower : P .power) (a0 : Nat) {s₀ s : State} (h : changesOnly P s₀ s) : changesOnly P s₀ (commitPace a0 s) := by
  fun_cases commitPace a0 s
  all_goals (intros; repeat' first
      | with_reducible assumption | with_reducible apply modPace_only | with_reducible apply modPower_only | with_reducible apply only_ite
      | with_reducible apply only_mk | with_reducible exact .inl (by assumption) | with_reducible exact .inr rfl | with_reducible exact .inr ⟨rfl, rfl⟩
      | with_reducible exact .inr ⟨rfl, rfl, rfl⟩ | with_reducible exact .inr ⟨rfl, rfl, rfl, rfl⟩ | with_reducible exact .inr ⟨rfl, rfl, rfl, rfl, rfl⟩
      | with_reducible apply only_foldl | intro _ | (split))

theorem modPin_only (hside : P .side) (a0 : Nat) (a1 : Pin → Pin) {s₀ s : State} (h : changesOnly P s₀ s) : changesOnly P s₀ (modPin a0 a1 s) := by
  fun_cases modPin a0 a1 s
  all_goals (intros; repeat' first
      | with_reducible assumption | with_reducible apply only_ite | with_reducible apply only_mk | with_reducible exact .inl (by assumption)
      | with_reducible exact .inr rfl | with_reducible exact .inr ⟨rfl, rfl⟩ | with_reducible exact .inr ⟨rfl, rfl, rfl⟩
      | with_reducible exact .inr ⟨rfl, rfl, rfl, rfl⟩ | with_reducible exact .inr ⟨rfl, rfl, rfl, rfl, rfl⟩ | with_reducible apply only_foldl | intro _
      | (split))

theorem commitPin_only (hside : P .side) (a0 : MsgWord) {s₀ s : State} (h : changesOnly P s₀ s) : changesOnly P s₀ (commitPin a0 s) := by
  fun_cases commitPin a0 s
  all_goals (intros; repeat' first
      | with_reducible assumption | with_reducible apply modPin_only | with_reducible apply only_ite | with_reducible apply only_mk
      | with_reducible exact .inl (by assumption) | with_reducible exact .inr rfl | with_reducible exact .inr ⟨rfl, rfl⟩
      | with_reducible exact .inr ⟨rfl, rfl, rfl⟩ | with_reducible exact .inr ⟨rfl, rfl, rfl, rfl⟩ | with_reducible exact .inr ⟨rfl, rfl, rfl, rfl, rfl⟩
      | with_reducible apply only_foldl | intro _ | (split))

theorem commitPower_only (hpower : P .power) (a0 : MsgWord) {s₀ s : State} (h : changesOnly P s₀ s) : changesOnly P s₀ (commitPower a0 s) := by
  fun_cases commitPower a0 s
  all_goals (intros; repeat' first
      | with_reducible assumption | with_reducible apply modPower_only | with_reducible apply only_ite | with_reducible apply only_mk
      | with_reducible exact .inl (by assumption) | with_reducible exact .inr rfl | with_reducible exact .inr ⟨rfl, rfl⟩
      | with_reducible exact .inr ⟨rfl, rfl, rfl⟩ | with_reducible exact .inr ⟨rfl, rfl, rfl, rfl⟩ | with_reducible exact .inr ⟨rfl, rfl, rfl, rfl, rfl⟩
      | with_reducible apply only_foldl | intro _ | (split))

theorem commitTime_only (htime : P .time) (a0 : MsgWord) {s₀ s : State} (h : changesOnly P s₀ s) : changesOnly P s₀ (commitTime a0 s) := by
  fun_cases commitTime a0 s
  all_goals (intros; repeat' first
      | with_reducible assumption | with_reducible apply modTime_only | with_reducible apply only_ite | with_reducible apply only_mk
      | with_reducible exact .inl (by assumption) | with_reducible exact .inr rfl | with_reducible exact .inr ⟨rfl, rfl⟩
      | with_reducible exact .inr ⟨rfl, rfl, rfl⟩ | with_reducible exact .inr ⟨rfl, rfl, rfl, rfl⟩ | with_reducible exact .inr ⟨rfl, rfl, rfl, rfl, rfl⟩
      | with_reducible apply only_foldl | intro _ | (split))

theorem commitItem_only (hfreeCtr : P .freeCtr) (hside : P .side) (hkeep : P .keep) (hfabric : P .fabric) (htime : P .time) (hpace : P .pace) (hpower : P
    .power) (hhealth : P .health) (a0 : Staged) {s₀ s : State} (h : changesOnly P s₀ s) : changesOnly P s₀ (commitItem a0 s) := by
  fun_cases commitItem a0 s
  all_goals (intros; repeat' first
      | with_reducible assumption | with_reducible apply commitTime_only | with_reducible apply commitPower_only | with_reducible apply commitPin_only
      | with_reducible apply commitPace_only | with_reducible apply commitHealth_only | with_reducible apply commitFabric_only | with_reducible apply only_ite
      | with_reducible apply only_mk | with_reducible exact .inl (by assumption) | with_reducible exact .inr rfl | with_reducible exact .inr ⟨rfl, rfl⟩
      | with_reducible exact .inr ⟨rfl, rfl, rfl⟩ | with_reducible exact .inr ⟨rfl, rfl, rfl, rfl⟩ | with_reducible exact .inr ⟨rfl, rfl, rfl, rfl, rfl⟩
      | with_reducible apply only_foldl | intro _ | (split))

theorem trace_only (hside : P .side) (a0 : Nat) (a1 : Nat) {s₀ s : State} (h : changesOnly P s₀ s) : changesOnly P s₀ (trace a0 a1 s) := by
  fun_cases trace a0 a1 s
  all_goals (intros; repeat' first
      | with_reducible assumption | with_reducible apply only_ite | with_reducible apply only_mk | with_reducible exact .inl (by assumption)
      | with_reducible exact .inr rfl | with_reducible exact .inr ⟨rfl, rfl⟩ | with_reducible exact .inr ⟨rfl, rfl, rfl⟩
      | with_reducible exact .inr ⟨rfl, rfl, rfl, rfl⟩ | with_reducible exact .inr ⟨rfl, rfl, rfl, rfl, rfl⟩ | with_reducible apply only_foldl | intro _
      | (split))

theorem commitDue_only (hfreeCtr : P .freeCtr) (hmboxes : P .mboxes) (hstaged : P .staged) (hrequests : P .requests) (hmessages : P .messages) (hside : P .side)
    (hkeep : P .keep) (hfabric : P .fabric) (htime : P .time) (hpace : P .pace) (hpower : P .power) (hhealth : P .health) (a0 : List Staged) {s₀ s : State} (h :
    changesOnly P s₀ s) : changesOnly P s₀ (commitDue a0 s) := by
  fun_induction commitDue a0 s
  all_goals intros
  all_goals first | with_reducible assumption | skip
  all_goals repeat' first
      | with_reducible assumption | with_reducible apply_assumption | with_reducible apply trace_only | with_reducible apply commitItem_only
      | with_reducible apply respond_only | with_reducible apply modSteward_only | with_reducible apply only_ite | with_reducible apply only_mk
      | with_reducible exact .inl (by assumption) | with_reducible exact .inr rfl | with_reducible exact .inr ⟨rfl, rfl⟩
      | with_reducible exact .inr ⟨rfl, rfl, rfl⟩ | with_reducible exact .inr ⟨rfl, rfl, rfl, rfl⟩ | with_reducible exact .inr ⟨rfl, rfl, rfl, rfl, rfl⟩
      | with_reducible apply only_foldl | intro _ | (split)

theorem hallEvents_only (hintStatus : P .intStatus) (hmessages : P .messages) (hpower : P .power) (a0 : Telemetry) (a1 : List Nat) {s₀ s : State} (h :
    changesOnly P s₀ s) : changesOnly P s₀ (hallEvents a0 a1 s) := by
  fun_induction hallEvents a0 a1 s
  all_goals intros
  all_goals first | with_reducible assumption | skip
  all_goals repeat' first
      | with_reducible assumption | with_reducible apply_assumption | with_reducible apply modPower_only | with_reducible apply raiseInt_only
      | with_reducible apply only_ite | with_reducible apply only_mk | with_reducible exact .inl (by assumption) | with_reducible exact .inr rfl
      | with_reducible exact .inr ⟨rfl, rfl⟩ | with_reducible exact .inr ⟨rfl, rfl, rfl⟩ | with_reducible exact .inr ⟨rfl, rfl, rfl, rfl⟩
      | with_reducible exact .inr ⟨rfl, rfl, rfl, rfl, rfl⟩ | with_reducible apply only_foldl | intro _ | (split)

theorem moveVcore_only (hfreeCtr : P .freeCtr) (hintStatus : P .intStatus) (hmessages : P .messages) (hpower : P .power) {s₀ s : State} (h : changesOnly P s₀ s)
    : changesOnly P s₀ (moveVcore s) := by
  fun_cases moveVcore s
  all_goals (intros; repeat' first
      | with_reducible assumption | with_reducible apply modPower_only | with_reducible apply raiseInt_only | with_reducible apply only_ite
      | with_reducible apply only_mk | with_reducible exact .inl (by assumption) | with_reducible exact .inr rfl | with_reducible exact .inr ⟨rfl, rfl⟩
      | with_reducible exact .inr ⟨rfl, rfl, rfl⟩ | with_reducible exact .inr ⟨rfl, rfl, rfl, rfl⟩ | with_reducible exact .inr ⟨rfl, rfl, rfl, rfl, rfl⟩
      | with_reducible apply only_foldl | intro _ | (split))

theorem railSums_only (hpower : P .power) (a0 : Telemetry) {s₀ s : State} (h : changesOnly P s₀ s) : changesOnly P s₀ (railSums a0 s) := by
  fun_cases railSums a0 s
  all_goals (intros; repeat' first
      | with_reducible assumption | with_reducible apply modPower_only | with_reducible apply only_ite | with_reducible apply only_mk
      | with_reducible exact .inl (by assumption) | with_reducible exact .inr rfl | with_reducible exact .inr ⟨rfl, rfl⟩
      | with_reducible exact .inr ⟨rfl, rfl, rfl⟩ | with_reducible exact .inr ⟨rfl, rfl, rfl, rfl⟩ | with_reducible exact .inr ⟨rfl, rfl, rfl, rfl, rfl⟩
      | with_reducible apply only_foldl | intro _ | (split))

theorem thermalTrip_only (htasks : P .tasks) (hfabric : P .fabric) (hpower : P .power) (hseq : P .seq) {s₀ s : State} (h : changesOnly P s₀ s) : changesOnly P
    s₀ (thermalTrip s) := by
  fun_cases thermalTrip s
  all_goals (intros; repeat' first
      | with_reducible assumption | with_reducible apply haltAll_only | with_reducible apply only_ite | with_reducible apply only_mk
      | with_reducible exact .inl (by assumption) | with_reducible exact .inr rfl | with_reducible exact .inr ⟨rfl, rfl⟩
      | with_reducible exact .inr ⟨rfl, rfl, rfl⟩ | with_reducible exact .inr ⟨rfl, rfl, rfl, rfl⟩ | with_reducible exact .inr ⟨rfl, rfl, rfl, rfl, rfl⟩
      | with_reducible apply only_foldl | intro _ | (split))

theorem controlEff_only (hfreeCtr : P .freeCtr) (htasks : P .tasks) (hintStatus : P .intStatus) (hmessages : P .messages) (hfabric : P .fabric) (hlinks : P
    .links) (hpower : P .power) (hseq : P .seq) (a1 : Telemetry) {s₀ s : State} (h : changesOnly P s₀ s) : changesOnly P s₀ (controlEff s a1) := by
  fun_cases controlEff s a1
  all_goals (intros; repeat' first
      | with_reducible assumption | with_reducible apply thermalTrip_only | with_reducible apply railSums_only | with_reducible apply moveVcore_only
      | with_reducible apply hallEvents_only | with_reducible apply capMove_only | with_reducible apply modHalls_only | with_reducible apply modPower_only
      | with_reducible apply only_ite | with_reducible apply only_mk | with_reducible exact .inl (by assumption) | with_reducible exact .inr rfl
      | with_reducible exact .inr ⟨rfl, rfl⟩ | with_reducible exact .inr ⟨rfl, rfl, rfl⟩ | with_reducible exact .inr ⟨rfl, rfl, rfl, rfl⟩
      | with_reducible exact .inr ⟨rfl, rfl, rfl, rfl, rfl⟩ | with_reducible apply only_foldl | intro _ | (split))

theorem copyLine_only (hfreeCtr : P .freeCtr) (hstore : P .store) (hintStatus : P .intStatus) (hmessages : P .messages) (hhealth : P .health) (a0 : Nat) {s₀ s :
    State} (h : changesOnly P s₀ s) : changesOnly P s₀ (copyLine a0 s).1 := by
  unfold copyLine
  try dsimp only
  repeat' first
      | with_reducible assumption | with_reducible apply putStore_only | with_reducible apply only_ite | with_reducible apply only_foldl | intro _ | (split)
      | with_reducible apply only_mk | with_reducible exact .inl (by assumption) | with_reducible exact .inr rfl | with_reducible exact .inr ⟨rfl, rfl⟩
      | with_reducible exact .inr ⟨rfl, rfl, rfl⟩ | with_reducible exact .inr ⟨rfl, rfl, rfl, rfl⟩ | with_reducible exact .inr ⟨rfl, rfl, rfl, rfl, rfl⟩

theorem copyLines_only (hfreeCtr : P .freeCtr) (hstore : P .store) (hhealthSt : P .healthSt) (hintStatus : P .intStatus) (hmessages : P .messages) (hhealth : P
    .health) (a0 : List Nat) {s₀ s : State} (h : changesOnly P s₀ s) : changesOnly P s₀ (copyLines a0 s).1 := by
  induction a0 generalizing s with
  | nil => exact h
  | cons x xs ih =>
    have hc : changesOnly P s₀ (copyLine x s).1 := by apply copyLine_only <;> with_reducible assumption
    rw [copyLines]
    split
    · exact ih hc
    · dsimp only
      apply blameBank_only <;> with_reducible assumption

theorem endCopy_only (hmboxes : P .mboxes) (hrequests : P .requests) (hmessages : P .messages) (a0 : HostCopy) {s₀ s : State} (h : changesOnly P s₀ s) :
    changesOnly P s₀ (endCopy a0 s) := by
  fun_cases endCopy a0 s
  all_goals (intros; repeat' first
      | with_reducible assumption | with_reducible apply respond_only | with_reducible apply only_ite | with_reducible apply only_mk
      | with_reducible exact .inl (by assumption) | with_reducible exact .inr rfl | with_reducible exact .inr ⟨rfl, rfl⟩
      | with_reducible exact .inr ⟨rfl, rfl, rfl⟩ | with_reducible exact .inr ⟨rfl, rfl, rfl, rfl⟩ | with_reducible exact .inr ⟨rfl, rfl, rfl, rfl, rfl⟩
      | with_reducible apply only_foldl | intro _ | (split))

theorem hostWrites_only (hrequests : P .requests) (hmessages : P .messages) (a0 : Nat) (a1 : Nat) (a2 : Nat) (a3 : List Byte) {s₀ s : State} (h : changesOnly P
    s₀ s) : changesOnly P s₀ (hostWrites a0 a1 a2 a3 s) := by
  fun_induction hostWrites a0 a1 a2 a3 s
  all_goals intros
  all_goals first | with_reducible assumption | skip
  all_goals repeat' first
      | with_reducible assumption | with_reducible apply_assumption | with_reducible apply issueReq_only | with_reducible apply only_ite
      | with_reducible apply only_mk | with_reducible exact .inl (by assumption) | with_reducible exact .inr rfl | with_reducible exact .inr ⟨rfl, rfl⟩
      | with_reducible exact .inr ⟨rfl, rfl, rfl⟩ | with_reducible exact .inr ⟨rfl, rfl, rfl, rfl⟩ | with_reducible exact .inr ⟨rfl, rfl, rfl, rfl, rfl⟩
      | with_reducible apply only_foldl | intro _ | (split)

theorem copyOut_only (hmboxes : P .mboxes) (hrequests : P .requests) (hmessages : P .messages) (a0 : Nat) (a1 : Nat) (a2 : List Byte) (a3 : Option Nat) {s₀ s :
    State} (h : changesOnly P s₀ s) : changesOnly P s₀ (copyOut a0 a1 a2 a3 s) := by
  fun_cases copyOut a0 a1 a2 a3 s
  all_goals (intros; repeat' first
      | with_reducible assumption | with_reducible apply hostWrites_only | with_reducible apply endCopy_only | with_reducible apply await_only
      | with_reducible apply only_ite | with_reducible apply only_mk | with_reducible exact .inl (by assumption) | with_reducible exact .inr rfl
      | with_reducible exact .inr ⟨rfl, rfl⟩ | with_reducible exact .inr ⟨rfl, rfl, rfl⟩ | with_reducible exact .inr ⟨rfl, rfl, rfl, rfl⟩
      | with_reducible exact .inr ⟨rfl, rfl, rfl, rfl, rfl⟩ | with_reducible apply only_foldl | intro _ | (split))

theorem copyRebuiltEff_only (hstore : P .store) (hhealthSt : P .healthSt) (himages : P .images) (hintStatus : P .intStatus) (hmessages : P .messages) (hhealth :
    P .health) (a1 : Nat) (a2 : Nat) {s₀ s : State} (h : changesOnly P s₀ s) : changesOnly P s₀ (copyRebuiltEff s a1 a2) := by
  unfold copyRebuiltEff
  split
  · exact h
  · split
    · extract_lets a r
      have hr : changesOnly P s₀ r.1 := by apply buildOne_only <;> with_reducible assumption
      clear_value r
      with_reducible apply modSteward_only <;> (first | with_reducible assumption | with_reducible exact .inl (by assumption) | with_reducible exact .inr rfl | with_reducible exact .inr ⟨rfl, rfl⟩ | with_reducible exact .inr ⟨rfl, rfl, rfl⟩ | with_reducible exact .inr ⟨rfl, rfl, rfl, rfl⟩ | with_reducible exact .inr ⟨rfl, rfl, rfl, rfl, rfl⟩)
    · exact h

theorem createDone_only (hmboxes : P .mboxes) (hrequests : P .requests) (hmessages : P .messages) (a0 : Nat) {s₀ s : State} (h : changesOnly P s₀ s) :
    changesOnly P s₀ (createDone a0 s) := by
  fun_cases createDone a0 s
  all_goals (intros; repeat' first
      | with_reducible assumption | with_reducible apply answerCreates_only | with_reducible apply only_ite | with_reducible apply only_mk
      | with_reducible exact .inl (by assumption) | with_reducible exact .inr rfl | with_reducible exact .inr ⟨rfl, rfl⟩
      | with_reducible exact .inr ⟨rfl, rfl, rfl⟩ | with_reducible exact .inr ⟨rfl, rfl, rfl, rfl⟩ | with_reducible exact .inr ⟨rfl, rfl, rfl, rfl, rfl⟩
      | with_reducible apply only_foldl | intro _ | (split))

theorem killFetch_only (hrequests : P .requests) (a0 : Nat) {s₀ s : State} (h : changesOnly P s₀ s) : changesOnly P s₀ (killFetch a0 s) := by
  fun_cases killFetch a0 s
  all_goals (intros; repeat' first
      | with_reducible assumption | with_reducible apply modHost_only | with_reducible apply only_ite | with_reducible apply only_mk
      | with_reducible exact .inl (by assumption) | with_reducible exact .inr rfl | with_reducible exact .inr ⟨rfl, rfl⟩
      | with_reducible exact .inr ⟨rfl, rfl, rfl⟩ | with_reducible exact .inr ⟨rfl, rfl, rfl, rfl⟩ | with_reducible exact .inr ⟨rfl, rfl, rfl, rfl, rfl⟩
      | with_reducible apply only_foldl | intro _ | (split))

theorem ctrlWrite_only (hmboxes : P .mboxes) (hrequests : P .requests) (a0 : Nat) (a1 : BitVec 32) {s₀ s : State} (h : changesOnly P s₀ s) : changesOnly P s₀
    (ctrlWrite a0 a1 s) := by
  fun_cases ctrlWrite a0 a1 s
  all_goals (intros; repeat' first
      | with_reducible assumption | with_reducible apply killFetch_only | with_reducible apply modMbox_only | with_reducible apply only_ite
      | with_reducible apply only_mk | with_reducible exact .inl (by assumption) | with_reducible exact .inr rfl | with_reducible exact .inr ⟨rfl, rfl⟩
      | with_reducible exact .inr ⟨rfl, rfl, rfl⟩ | with_reducible exact .inr ⟨rfl, rfl, rfl, rfl⟩ | with_reducible exact .inr ⟨rfl, rfl, rfl, rfl, rfl⟩
      | with_reducible apply only_foldl | intro _ | (split))

theorem ctxCreateEff_only (hmboxes : P .mboxes) (hctxs : P .ctxs) (hrequests : P .requests) (hmessages : P .messages) (a1 : Nat) (a2 : MsgWord) {s₀ s : State}
    (h : changesOnly P s₀ s) : changesOnly P s₀ (ctxCreateEff s a1 a2) := by
  fun_cases ctxCreateEff s a1 a2
  all_goals (intros; repeat' first
      | with_reducible assumption | with_reducible apply modCtx_only | with_reducible apply respond_only | with_reducible apply only_ite
      | with_reducible apply only_mk | with_reducible exact .inl (by assumption) | with_reducible exact .inr rfl | with_reducible exact .inr ⟨rfl, rfl⟩
      | with_reducible exact .inr ⟨rfl, rfl, rfl⟩ | with_reducible exact .inr ⟨rfl, rfl, rfl, rfl⟩ | with_reducible exact .inr ⟨rfl, rfl, rfl, rfl, rfl⟩
      | with_reducible apply only_foldl | intro _ | (split))

theorem scramble_only (hfreeCtr : P .freeCtr) (hstore : P .store) (a0 : List (Nat × Nat)) {s₀ s : State} (h : changesOnly P s₀ s) : changesOnly P s₀ (scramble
    a0 s) := by
  fun_induction scramble a0 s
  all_goals intros
  all_goals first | with_reducible assumption | skip
  all_goals repeat' first
      | with_reducible assumption | with_reducible apply_assumption | with_reducible apply only_ite | with_reducible apply only_mk
      | with_reducible exact .inl (by assumption) | with_reducible exact .inr rfl | with_reducible exact .inr ⟨rfl, rfl⟩
      | with_reducible exact .inr ⟨rfl, rfl, rfl⟩ | with_reducible exact .inr ⟨rfl, rfl, rfl, rfl⟩ | with_reducible exact .inr ⟨rfl, rfl, rfl, rfl, rfl⟩
      | with_reducible apply only_foldl | intro _ | (split)

theorem cutCopy_only (hfreeCtr : P .freeCtr) (hstore : P .store) (a0 : MsgWord) {s₀ s : State} (h : changesOnly P s₀ s) : changesOnly P s₀ (cutCopy a0 s) := by
  fun_cases cutCopy a0 s
  all_goals (intros; repeat' first
      | with_reducible assumption | with_reducible apply scramble_only | with_reducible apply only_ite | with_reducible apply only_mk
      | with_reducible exact .inl (by assumption) | with_reducible exact .inr rfl | with_reducible exact .inr ⟨rfl, rfl⟩
      | with_reducible exact .inr ⟨rfl, rfl, rfl⟩ | with_reducible exact .inr ⟨rfl, rfl, rfl, rfl⟩ | with_reducible exact .inr ⟨rfl, rfl, rfl, rfl, rfl⟩
      | with_reducible apply only_foldl | intro _ | (split))

theorem dropCopy_only (hmboxes : P .mboxes) (hrequests : P .requests) (a0 : Nat) {s₀ s : State} (h : changesOnly P s₀ s) : changesOnly P s₀ (dropCopy a0 s) := by
  fun_cases dropCopy a0 s
  all_goals (intros; repeat' first
      | with_reducible assumption | with_reducible apply only_ite | with_reducible apply only_mk | with_reducible exact .inl (by assumption)
      | with_reducible exact .inr rfl | with_reducible exact .inr ⟨rfl, rfl⟩ | with_reducible exact .inr ⟨rfl, rfl, rfl⟩
      | with_reducible exact .inr ⟨rfl, rfl, rfl, rfl⟩ | with_reducible exact .inr ⟨rfl, rfl, rfl, rfl, rfl⟩ | with_reducible apply only_foldl | intro _
      | (split))

theorem undoClose_only (hstore : P .store) (hmboxes : P .mboxes) (himages : P .images) (a0 : Nat) {s₀ s : State} (h : changesOnly P s₀ s) : changesOnly P s₀
    (undoClose a0 s) := by
  fun_cases undoClose a0 s
  all_goals (intros; repeat' first
      | with_reducible assumption | with_reducible apply modStore_only | with_reducible apply modSteward_only | with_reducible apply only_ite
      | with_reducible apply only_mk | with_reducible exact .inl (by assumption) | with_reducible exact .inr rfl | with_reducible exact .inr ⟨rfl, rfl⟩
      | with_reducible exact .inr ⟨rfl, rfl, rfl⟩ | with_reducible exact .inr ⟨rfl, rfl, rfl, rfl⟩ | with_reducible exact .inr ⟨rfl, rfl, rfl, rfl, rfl⟩
      | with_reducible apply only_foldl | intro _ | (split))

theorem endLoad_only (hmboxes : P .mboxes) (a0 : Nat) {s₀ s : State} (h : changesOnly P s₀ s) : changesOnly P s₀ (endLoad a0 s) := by
  fun_cases endLoad a0 s
  all_goals (intros; repeat' first
      | with_reducible assumption | with_reducible apply modSteward_only | with_reducible apply only_ite | with_reducible apply only_mk
      | with_reducible exact .inl (by assumption) | with_reducible exact .inr rfl | with_reducible exact .inr ⟨rfl, rfl⟩
      | with_reducible exact .inr ⟨rfl, rfl, rfl⟩ | with_reducible exact .inr ⟨rfl, rfl, rfl, rfl⟩ | with_reducible exact .inr ⟨rfl, rfl, rfl, rfl, rfl⟩
      | with_reducible apply only_foldl | intro _ | (split))

theorem undoLoad_only (hstore : P .store) (hmboxes : P .mboxes) (a0 : Nat) {s₀ s : State} (h : changesOnly P s₀ s) : changesOnly P s₀ (undoLoad a0 s) := by
  fun_cases undoLoad a0 s
  all_goals (intros; repeat' first
      | with_reducible assumption | with_reducible apply endLoad_only | with_reducible apply modStore_only | with_reducible apply only_ite
      | with_reducible apply only_mk | with_reducible exact .inl (by assumption) | with_reducible exact .inr rfl | with_reducible exact .inr ⟨rfl, rfl⟩
      | with_reducible exact .inr ⟨rfl, rfl, rfl⟩ | with_reducible exact .inr ⟨rfl, rfl, rfl, rfl⟩ | with_reducible exact .inr ⟨rfl, rfl, rfl, rfl, rfl⟩
      | with_reducible apply only_foldl | intro _ | (split))

theorem cutWork_only (hfreeCtr : P .freeCtr) (hstore : P .store) (hmboxes : P .mboxes) (hqueues : P .queues) (himages : P .images) (hrequests : P .requests) (a0
    : Nat) (a1 : MsgWord) {s₀ s : State} (h : changesOnly P s₀ s) : changesOnly P s₀ (cutWork a0 a1 s) := by
  fun_cases cutWork a0 a1 s
  all_goals (intros; repeat' first
      | with_reducible assumption | with_reducible apply undoLoad_only | with_reducible apply undoClose_only | with_reducible apply dropCopy_only
      | with_reducible apply cutCopy_only | with_reducible apply modQueue_only | with_reducible apply only_ite | with_reducible apply only_mk
      | with_reducible exact .inl (by assumption) | with_reducible exact .inr rfl | with_reducible exact .inr ⟨rfl, rfl⟩
      | with_reducible exact .inr ⟨rfl, rfl, rfl⟩ | with_reducible exact .inr ⟨rfl, rfl, rfl, rfl⟩ | with_reducible exact .inr ⟨rfl, rfl, rfl, rfl, rfl⟩
      | with_reducible apply only_foldl | intro _ | (split))

theorem cutCommands_only (hfreeCtr : P .freeCtr) (hstore : P .store) (hmboxes : P .mboxes) (hqueues : P .queues) (himages : P .images) (hrequests : P .requests)
    (hmessages : P .messages) (a0 : Nat) (a1 : List (Nat × Mailbox)) {s₀ s : State} (h : changesOnly P s₀ s) : changesOnly P s₀ (cutCommands a0 a1 s) := by
  induction a1 generalizing a0 s with
  | nil => exact h
  | cons x xs ih =>
    rw [cutCommands]
    repeat' first
      | with_reducible apply ih
      | with_reducible assumption | with_reducible apply_assumption | with_reducible apply cutWork_only | with_reducible apply respond_only
      | with_reducible apply only_ite | with_reducible apply only_foldl | intro _ | (split) | with_reducible apply only_mk
      | with_reducible exact .inl (by assumption) | with_reducible exact .inr rfl | with_reducible exact .inr ⟨rfl, rfl⟩
      | with_reducible exact .inr ⟨rfl, rfl, rfl⟩ | with_reducible exact .inr ⟨rfl, rfl, rfl, rfl⟩ | with_reducible exact .inr ⟨rfl, rfl, rfl, rfl, rfl⟩

theorem withdrawRound_only (hfabric : P .fabric) (a0 : Task) (a1 : Nat) {s₀ s : State} (h : changesOnly P s₀ s) : changesOnly P s₀ (withdrawRound a0 a1 s) := by
  fun_cases withdrawRound a0 a1 s
  all_goals (intros; repeat' first
      | with_reducible assumption | with_reducible apply modFabric_only | with_reducible apply tellMembers_only | with_reducible apply sendMgmt_only
      | with_reducible apply only_ite | with_reducible apply only_mk | with_reducible exact .inl (by assumption) | with_reducible exact .inr rfl
      | with_reducible exact .inr ⟨rfl, rfl⟩ | with_reducible exact .inr ⟨rfl, rfl, rfl⟩ | with_reducible exact .inr ⟨rfl, rfl, rfl, rfl⟩
      | with_reducible exact .inr ⟨rfl, rfl, rfl, rfl, rfl⟩ | with_reducible apply only_foldl | intro _ | (split))

theorem discardTasks_only (hqueues : P .queues) (htasks : P .tasks) (hrequests : P .requests) (hmessages : P .messages) (hfabric : P .fabric) (a0 : List Task)
    {s₀ s : State} (h : changesOnly P s₀ s) : changesOnly P s₀ (discardTasks a0 s) := by
  fun_induction discardTasks a0 s
  all_goals intros
  all_goals first | with_reducible assumption | skip
  all_goals repeat' first
      | with_reducible assumption | with_reducible apply_assumption | with_reducible apply withdrawRound_only | with_reducible apply finishTask_only
      | with_reducible apply only_ite | with_reducible apply only_mk | with_reducible exact .inl (by assumption) | with_reducible exact .inr rfl
      | with_reducible exact .inr ⟨rfl, rfl⟩ | with_reducible exact .inr ⟨rfl, rfl, rfl⟩ | with_reducible exact .inr ⟨rfl, rfl, rfl, rfl⟩
      | with_reducible exact .inr ⟨rfl, rfl, rfl, rfl, rfl⟩ | with_reducible apply only_foldl | intro _ | (split)

theorem endFreeze_only (hsnap : P .snap) {s₀ s : State} (h : changesOnly P s₀ s) : changesOnly P s₀ (endFreeze s) := by
  fun_cases endFreeze s
  all_goals (intros; repeat' first
      | with_reducible assumption | with_reducible apply only_ite | with_reducible apply only_mk | with_reducible exact .inl (by assumption)
      | with_reducible exact .inr rfl | with_reducible exact .inr ⟨rfl, rfl⟩ | with_reducible exact .inr ⟨rfl, rfl, rfl⟩
      | with_reducible exact .inr ⟨rfl, rfl, rfl, rfl⟩ | with_reducible exact .inr ⟨rfl, rfl, rfl, rfl, rfl⟩ | with_reducible apply only_foldl | intro _
      | (split))

theorem haltCtx_only (htasks : P .tasks) (hfabric : P .fabric) (a0 : List Nat) {s₀ s : State} (h : changesOnly P s₀ s) : changesOnly P s₀ (haltCtx a0 s) := by
  fun_induction haltCtx a0 s
  all_goals intros
  all_goals first | with_reducible assumption | skip
  all_goals repeat' first
      | with_reducible assumption | with_reducible apply_assumption | with_reducible apply haltTask_only | with_reducible apply only_ite
      | with_reducible apply only_mk | with_reducible exact .inl (by assumption) | with_reducible exact .inr rfl | with_reducible exact .inr ⟨rfl, rfl⟩
      | with_reducible exact .inr ⟨rfl, rfl, rfl⟩ | with_reducible exact .inr ⟨rfl, rfl, rfl, rfl⟩ | with_reducible exact .inr ⟨rfl, rfl, rfl, rfl, rfl⟩
      | with_reducible apply only_foldl | intro _ | (split)

theorem muteCtx_only (hqueues : P .queues) (htasks : P .tasks) (hrequests : P .requests) (hporch : P .porch) (a0 : Nat) {s₀ s : State} (h : changesOnly P s₀ s)
    : changesOnly P s₀ (muteCtx a0 s) := by
  fun_cases muteCtx a0 s
  all_goals (intros; repeat' first
      | with_reducible assumption | with_reducible apply modHost_only | with_reducible apply modSteward_only | with_reducible apply only_ite
      | with_reducible apply only_mk | with_reducible exact .inl (by assumption) | with_reducible exact .inr rfl | with_reducible exact .inr ⟨rfl, rfl⟩
      | with_reducible exact .inr ⟨rfl, rfl, rfl⟩ | with_reducible exact .inr ⟨rfl, rfl, rfl, rfl⟩ | with_reducible exact .inr ⟨rfl, rfl, rfl, rfl, rfl⟩
      | with_reducible apply only_foldl | intro _ | (split))

theorem hatchStop_only (hhatch : P .hatch) (a0 : Nat) {s₀ s : State} (h : changesOnly P s₀ s) : changesOnly P s₀ (hatchStop a0 s) := by
  fun_cases hatchStop a0 s
  all_goals (intros; repeat' first
      | with_reducible assumption | with_reducible apply modHatch_only | with_reducible apply only_ite | with_reducible apply only_mk
      | with_reducible exact .inl (by assumption) | with_reducible exact .inr rfl | with_reducible exact .inr ⟨rfl, rfl⟩
      | with_reducible exact .inr ⟨rfl, rfl, rfl⟩ | with_reducible exact .inr ⟨rfl, rfl, rfl, rfl⟩ | with_reducible exact .inr ⟨rfl, rfl, rfl, rfl, rfl⟩
      | with_reducible apply only_foldl | intro _ | (split))

theorem stopContext_only (hintStatus : P .intStatus) (hmessages : P .messages) (hhatch : P .hatch) (a0 : Nat) (a1 : List Nat) {s₀ s : State} (h : changesOnly P
    s₀ s) : changesOnly P s₀ (stopContext a0 a1 s) := by
  fun_induction stopContext a0 a1 s
  all_goals intros
  all_goals first | with_reducible assumption | skip
  all_goals repeat' first
      | with_reducible assumption | with_reducible apply_assumption | with_reducible apply hatchStop_only | with_reducible apply hatchIrq_only
      | with_reducible apply modHatch_only | with_reducible apply only_ite | with_reducible apply only_mk | with_reducible exact .inl (by assumption)
      | with_reducible exact .inr rfl | with_reducible exact .inr ⟨rfl, rfl⟩ | with_reducible exact .inr ⟨rfl, rfl, rfl⟩
      | with_reducible exact .inr ⟨rfl, rfl, rfl, rfl⟩ | with_reducible exact .inr ⟨rfl, rfl, rfl, rfl, rfl⟩ | with_reducible apply only_foldl | intro _
      | (split)

theorem ctxDestroyEff_only (hfreeCtr : P .freeCtr) (hstore : P .store) (hmboxes : P .mboxes) (hctxs : P .ctxs) (hqueues : P .queues) (himages : P .images)
    (htasks : P .tasks) (hintStatus : P .intStatus) (hrequests : P .requests) (hmessages : P .messages) (hporch : P .porch) (hhatch : P .hatch) (hsnap : P
    .snap) (hfabric : P .fabric) (a1 : Nat) (a2 : MsgWord) {s₀ s : State} (h : changesOnly P s₀ s) : changesOnly P s₀ (ctxDestroyEff s a1 a2) := by
  fun_cases ctxDestroyEff s a1 a2
  all_goals (intros; repeat' first
      | with_reducible assumption | with_reducible apply stopContext_only | with_reducible apply muteCtx_only | with_reducible apply haltCtx_only
      | with_reducible apply endFreeze_only | with_reducible apply discardTasks_only | with_reducible apply cutCommands_only
      | with_reducible apply modCtx_only | with_reducible apply await_only | with_reducible apply respond_only | with_reducible apply promote_only
      | with_reducible apply only_ite | with_reducible apply only_mk | with_reducible exact .inl (by assumption) | with_reducible exact .inr rfl
      | with_reducible exact .inr ⟨rfl, rfl⟩ | with_reducible exact .inr ⟨rfl, rfl, rfl⟩ | with_reducible exact .inr ⟨rfl, rfl, rfl, rfl⟩
      | with_reducible exact .inr ⟨rfl, rfl, rfl, rfl, rfl⟩ | with_reducible apply only_foldl | intro _ | (split))

theorem ctxQueryEff_only (hmboxes : P .mboxes) (hctxs : P .ctxs) (hqueues : P .queues) (htasks : P .tasks) (hrequests : P .requests) (hmessages : P .messages)
    (hporch : P .porch) (a1 : Nat) (a2 : MsgWord) {s₀ s : State} (h : changesOnly P s₀ s) : changesOnly P s₀ (ctxQueryEff s a1 a2) := by
  fun_cases ctxQueryEff s a1 a2
  all_goals (intros; repeat' first
      | with_reducible assumption | with_reducible apply clearCtx_only | with_reducible apply respond_only | with_reducible apply only_ite
      | with_reducible apply only_mk | with_reducible exact .inl (by assumption) | with_reducible exact .inr rfl | with_reducible exact .inr ⟨rfl, rfl⟩
      | with_reducible exact .inr ⟨rfl, rfl, rfl⟩ | with_reducible exact .inr ⟨rfl, rfl, rfl, rfl⟩ | with_reducible exact .inr ⟨rfl, rfl, rfl, rfl, rfl⟩
      | with_reducible apply only_foldl | intro _ | (split))

theorem takeSlots_only (hfabric : P .fabric) (hlinks : P .links) (a0 : Nat) (a1 : Nat) {s₀ s : State} (h : changesOnly P s₀ s) : changesOnly P s₀ (takeSlots a0
    a1 s) := by
  fun_cases takeSlots a0 a1 s
  all_goals (intros; repeat' first
      | with_reducible assumption | with_reducible apply modPorts_only | with_reducible apply only_ite | with_reducible apply only_mk
      | with_reducible exact .inl (by assumption) | with_reducible exact .inr rfl | with_reducible exact .inr ⟨rfl, rfl⟩
      | with_reducible exact .inr ⟨rfl, rfl, rfl⟩ | with_reducible exact .inr ⟨rfl, rfl, rfl, rfl⟩ | with_reducible exact .inr ⟨rfl, rfl, rfl, rfl, rfl⟩
      | with_reducible apply only_foldl | intro _ | (split))

theorem putLane_only (hfabric : P .fabric) (hlinks : P .links) (a0 : Nat) (a1 : Nat) (a2 : Nat) (a3 : Nat) (a4 : Nat) (a5 : List Byte) {s₀ s : State} (h :
    changesOnly P s₀ s) : changesOnly P s₀ (putLane a0 a1 a2 a3 a4 a5 s) := by
  fun_cases putLane a0 a1 a2 a3 a4 a5 s
  all_goals (intros; repeat' first
      | with_reducible assumption | with_reducible apply takeSlots_only | with_reducible apply modPort_only | with_reducible apply only_ite
      | with_reducible apply only_mk | with_reducible exact .inl (by assumption) | with_reducible exact .inr rfl | with_reducible exact .inr ⟨rfl, rfl⟩
      | with_reducible exact .inr ⟨rfl, rfl, rfl⟩ | with_reducible exact .inr ⟨rfl, rfl, rfl, rfl⟩ | with_reducible exact .inr ⟨rfl, rfl, rfl, rfl, rfl⟩
      | with_reducible apply only_foldl | intro _ | (split))

theorem putReplay_only (hfabric : P .fabric) (hlinks : P .links) (a0 : Nat) (a1 : Nat) (a2 : List Byte) {s₀ s : State} (h : changesOnly P s₀ s) : changesOnly P
    s₀ (putReplay a0 a1 a2 s) := by
  fun_cases putReplay a0 a1 a2 s
  all_goals (intros; repeat' first
      | with_reducible assumption | with_reducible apply takeSlots_only | with_reducible apply modPort_only | with_reducible apply only_ite
      | with_reducible apply only_mk | with_reducible exact .inl (by assumption) | with_reducible exact .inr rfl | with_reducible exact .inr ⟨rfl, rfl⟩
      | with_reducible exact .inr ⟨rfl, rfl, rfl⟩ | with_reducible exact .inr ⟨rfl, rfl, rfl, rfl⟩ | with_reducible exact .inr ⟨rfl, rfl, rfl, rfl, rfl⟩
      | with_reducible apply only_foldl | intro _ | (split))

theorem dataBlockEff_only (hfabric : P .fabric) (hlinks : P .links) (a1 : Nat) (a2 : Nat) (a3 : List Byte) {s₀ s : State} (h : changesOnly P s₀ s) : changesOnly
    P s₀ (dataBlockEff s a1 a2 a3) := by
  fun_cases dataBlockEff s a1 a2 a3
  all_goals (intros; repeat' first
      | with_reducible assumption | with_reducible apply putReplay_only | with_reducible apply putLane_only | with_reducible apply modPort_only
      | with_reducible apply only_ite | with_reducible apply only_mk | with_reducible exact .inl (by assumption) | with_reducible exact .inr rfl
      | with_reducible exact .inr ⟨rfl, rfl⟩ | with_reducible exact .inr ⟨rfl, rfl, rfl⟩ | with_reducible exact .inr ⟨rfl, rfl, rfl, rfl⟩
      | with_reducible exact .inr ⟨rfl, rfl, rfl, rfl, rfl⟩ | with_reducible apply only_foldl | intro _ | (split))

theorem deadlineEff_only (hfabric : P .fabric) (hlinks : P .links) (a1 : Nat) (a2 : Nat) (a3 : Nat) (a4 : Nat) {s₀ s : State} (h : changesOnly P s₀ s) :
    changesOnly P s₀ (deadlineEff s a1 a2 a3 a4) := by
  fun_cases deadlineEff s a1 a2 a3 a4
  all_goals (intros; repeat' first
      | with_reducible assumption | with_reducible apply takeSlots_only | with_reducible apply modPort_only | with_reducible apply only_ite
      | with_reducible apply only_mk | with_reducible exact .inl (by assumption) | with_reducible exact .inr rfl | with_reducible exact .inr ⟨rfl, rfl⟩
      | with_reducible exact .inr ⟨rfl, rfl, rfl⟩ | with_reducible exact .inr ⟨rfl, rfl, rfl, rfl⟩ | with_reducible exact .inr ⟨rfl, rfl, rfl, rfl, rfl⟩
      | with_reducible apply only_foldl | intro _ | (split))

end Sys2Proof.Machine
end

