-- ==== Sys2Proof/Laws/Frame3.lean ====
section
/-!
SUPPORT. Frames, part 3 of 4: for each operation of the machine the parts of State that it may change, one lemma each. A part not named in the
hypotheses of a lemma stands as it was.
-/
namespace Sys2Proof.Machine

set_option linter.unusedTactic false
set_option linter.unreachableTactic false
set_option linter.unusedVariables false
set_option maxRecDepth 4000
variable {P : Part → Prop}

theorem deliverHere_only (hfabric : P .fabric) (a0 : Nat) (a1 : Frame) {s₀ s : State} (h : changesOnly P s₀ s) : changesOnly P s₀ (deliverHere a0 a1 s) := by
  fun_cases deliverHere a0 a1 s
  all_goals (intros; repeat' first
      | with_reducible assumption | with_reducible apply modFabric_only | with_reducible apply only_ite | with_reducible apply only_mk
      | with_reducible exact .inl (by assumption) | with_reducible exact .inr rfl | with_reducible exact .inr ⟨rfl, rfl⟩
      | with_reducible exact .inr ⟨rfl, rfl, rfl⟩ | with_reducible exact .inr ⟨rfl, rfl, rfl, rfl⟩ | with_reducible exact .inr ⟨rfl, rfl, rfl, rfl, rfl⟩
      | with_reducible apply only_foldl | intro _ | (split))

theorem refuseDesc_only (htasks : P .tasks) (hrequests : P .requests) (hmessages : P .messages) (a0 : Queue) (a1 : Nat) (a2 : MsgWord) {s₀ s : State} (h :
    changesOnly P s₀ s) : changesOnly P s₀ (refuseDesc a0 a1 a2 s) := by
  fun_cases refuseDesc a0 a1 a2 s
  all_goals (intros; repeat' first
      | with_reducible assumption | with_reducible apply tryRecord_only | with_reducible apply modSteward_only | with_reducible apply only_ite
      | with_reducible apply only_mk | with_reducible exact .inl (by assumption) | with_reducible exact .inr rfl | with_reducible exact .inr ⟨rfl, rfl⟩
      | with_reducible exact .inr ⟨rfl, rfl, rfl⟩ | with_reducible exact .inr ⟨rfl, rfl, rfl, rfl⟩ | with_reducible exact .inr ⟨rfl, rfl, rfl, rfl, rfl⟩
      | with_reducible apply only_foldl | intro _ | (split))

theorem takeWork_only (hqueues : P .queues) (hrequests : P .requests) (hmessages : P .messages) (hporch : P .porch) (a0 : Nat) {s₀ s : State} (h : changesOnly P
    s₀ s) : changesOnly P s₀ (takeWork a0 s) := by
  fun_cases takeWork a0 s
  all_goals (intros; repeat' first
      | with_reducible assumption | with_reducible apply putStatus_only | with_reducible apply modQueue_only | with_reducible apply only_ite
      | with_reducible apply only_mk | with_reducible exact .inl (by assumption) | with_reducible exact .inr rfl | with_reducible exact .inr ⟨rfl, rfl⟩
      | with_reducible exact .inr ⟨rfl, rfl, rfl⟩ | with_reducible exact .inr ⟨rfl, rfl, rfl, rfl⟩ | with_reducible exact .inr ⟨rfl, rfl, rfl, rfl, rfl⟩
      | with_reducible apply only_foldl | intro _ | (split))

theorem descArrivalEff_only (hctxs : P .ctxs) (hqueues : P .queues) (himages : P .images) (htasks : P .tasks) (hrequests : P .requests) (hmessages : P
    .messages) (hporch : P .porch) (a1 : Nat) (a2 : MsgWord) {s₀ s : State} (h : changesOnly P s₀ s) : changesOnly P s₀ (descArrivalEff s a1 a2) := by
  fun_cases descArrivalEff s a1 a2
  all_goals (intros; repeat' first
      | with_reducible assumption | with_reducible apply takeWork_only | with_reducible apply refuseDesc_only | with_reducible apply ctxFault_only
      | with_reducible apply acceptTask_only | with_reducible apply modQueue_only | with_reducible apply only_ite | with_reducible apply only_mk
      | with_reducible exact .inl (by assumption) | with_reducible exact .inr rfl | with_reducible exact .inr ⟨rfl, rfl⟩
      | with_reducible exact .inr ⟨rfl, rfl, rfl⟩ | with_reducible exact .inr ⟨rfl, rfl, rfl, rfl⟩ | with_reducible exact .inr ⟨rfl, rfl, rfl, rfl, rfl⟩
      | with_reducible apply only_foldl | intro _ | (split))

theorem descFetchEff_only (hctxs : P .ctxs) (hqueues : P .queues) (hrequests : P .requests) (hmessages : P .messages) (hporch : P .porch) (a1 : Nat) {s₀ s :
    State} (h : changesOnly P s₀ s) : changesOnly P s₀ (descFetchEff s a1) := by
  fun_cases descFetchEff s a1
  all_goals (intros; repeat' first
      | with_reducible assumption | with_reducible apply ctxFault_only | with_reducible apply issueReq_only | with_reducible apply modQueue_only
      | with_reducible apply only_ite | with_reducible apply only_mk | with_reducible exact .inl (by assumption) | with_reducible exact .inr rfl
      | with_reducible exact .inr ⟨rfl, rfl⟩ | with_reducible exact .inr ⟨rfl, rfl, rfl⟩ | with_reducible exact .inr ⟨rfl, rfl, rfl, rfl⟩
      | with_reducible exact .inr ⟨rfl, rfl, rfl, rfl, rfl⟩ | with_reducible apply only_foldl | intro _ | (split))

theorem forgetPhases_only (hpower : P .power) (a0 : Nat) {s₀ s : State} (h : changesOnly P s₀ s) : changesOnly P s₀ (forgetPhases a0 s) := by
  fun_cases forgetPhases a0 s
  all_goals (intros; repeat' first
      | with_reducible assumption | with_reducible apply modPower_only | with_reducible apply only_ite | with_reducible apply only_mk
      | with_reducible exact .inl (by assumption) | with_reducible exact .inr rfl | with_reducible exact .inr ⟨rfl, rfl⟩
      | with_reducible exact .inr ⟨rfl, rfl, rfl⟩ | with_reducible exact .inr ⟨rfl, rfl, rfl, rfl⟩ | with_reducible exact .inr ⟨rfl, rfl, rfl, rfl, rfl⟩
      | with_reducible apply only_foldl | intro _ | (split))

theorem unbindAll_only (hmboxes : P .mboxes) (a0 : Nat) (a1 : List Nat) {s₀ s : State} (h : changesOnly P s₀ s) : changesOnly P s₀ (unbindAll a0 a1 s) := by
  fun_induction unbindAll a0 a1 s
  all_goals intros
  all_goals first | with_reducible assumption | skip
  all_goals repeat' first
      | with_reducible assumption | with_reducible apply_assumption | with_reducible apply modMbox_only | with_reducible apply only_ite
      | with_reducible apply only_mk | with_reducible exact .inl (by assumption) | with_reducible exact .inr rfl | with_reducible exact .inr ⟨rfl, rfl⟩
      | with_reducible exact .inr ⟨rfl, rfl, rfl⟩ | with_reducible exact .inr ⟨rfl, rfl, rfl, rfl⟩ | with_reducible exact .inr ⟨rfl, rfl, rfl, rfl, rfl⟩
      | with_reducible apply only_foldl | intro _ | (split)

theorem endCtx_only (hmboxes : P .mboxes) (hctxs : P .ctxs) (hrequests : P .requests) (hmessages : P .messages) (hpower : P .power) (a0 : Nat) {s₀ s : State} (h
    : changesOnly P s₀ s) : changesOnly P s₀ (endCtx a0 s) := by
  fun_cases endCtx a0 s
  all_goals (intros; repeat' first
      | with_reducible assumption | with_reducible apply unbindAll_only | with_reducible apply forgetPhases_only | with_reducible apply modCtx_only
      | with_reducible apply respond_only | with_reducible apply only_ite | with_reducible apply only_mk | with_reducible exact .inl (by assumption)
      | with_reducible exact .inr rfl | with_reducible exact .inr ⟨rfl, rfl⟩ | with_reducible exact .inr ⟨rfl, rfl, rfl⟩
      | with_reducible exact .inr ⟨rfl, rfl, rfl, rfl⟩ | with_reducible exact .inr ⟨rfl, rfl, rfl, rfl, rfl⟩ | with_reducible apply only_foldl | intro _
      | (split))

theorem forgetRounds_only (hfabric : P .fabric) (a0 : Nat) {s₀ s : State} (h : changesOnly P s₀ s) : changesOnly P s₀ (forgetRounds a0 s) := by
  fun_cases forgetRounds a0 s
  all_goals (intros; repeat' first
      | with_reducible assumption | with_reducible apply modFabric_only | with_reducible apply only_ite | with_reducible apply only_mk
      | with_reducible exact .inl (by assumption) | with_reducible exact .inr rfl | with_reducible exact .inr ⟨rfl, rfl⟩
      | with_reducible exact .inr ⟨rfl, rfl, rfl⟩ | with_reducible exact .inr ⟨rfl, rfl, rfl, rfl⟩ | with_reducible exact .inr ⟨rfl, rfl, rfl, rfl, rfl⟩
      | with_reducible apply only_foldl | intro _ | (split))

theorem unloadImage_only (hstore : P .store) (himages : P .images) (hfabric : P .fabric) (a0 : Image) {s₀ s : State} (h : changesOnly P s₀ s) : changesOnly P s₀
    (unloadImage a0 s) := by
  fun_cases unloadImage a0 s
  all_goals (intros; repeat' first
      | with_reducible assumption | with_reducible apply forgetRounds_only | with_reducible apply modSteward_only | with_reducible apply only_ite
      | with_reducible apply only_mk | with_reducible exact .inl (by assumption) | with_reducible exact .inr rfl | with_reducible exact .inr ⟨rfl, rfl⟩
      | with_reducible exact .inr ⟨rfl, rfl, rfl⟩ | with_reducible exact .inr ⟨rfl, rfl, rfl, rfl⟩ | with_reducible exact .inr ⟨rfl, rfl, rfl, rfl, rfl⟩
      | with_reducible apply only_foldl | intro _ | (split))

theorem unloadAll_only (hstore : P .store) (himages : P .images) (hfabric : P .fabric) (a0 : List Image) {s₀ s : State} (h : changesOnly P s₀ s) : changesOnly P
    s₀ (unloadAll a0 s) := by
  fun_induction unloadAll a0 s
  all_goals intros
  all_goals first | with_reducible assumption | skip
  all_goals repeat' first
      | with_reducible assumption | with_reducible apply_assumption | with_reducible apply unloadImage_only | with_reducible apply only_ite
      | with_reducible apply only_mk | with_reducible exact .inl (by assumption) | with_reducible exact .inr rfl | with_reducible exact .inr ⟨rfl, rfl⟩
      | with_reducible exact .inr ⟨rfl, rfl, rfl⟩ | with_reducible exact .inr ⟨rfl, rfl, rfl, rfl⟩ | with_reducible exact .inr ⟨rfl, rfl, rfl, rfl, rfl⟩
      | with_reducible apply only_foldl | intro _ | (split)

theorem freeCtx_only (hstore : P .store) (hctxs : P .ctxs) (hqueues : P .queues) (hfences : P .fences) (himages : P .images) (htasks : P .tasks) (hfabric : P
    .fabric) (a0 : Nat) {s₀ s : State} (h : changesOnly P s₀ s) : changesOnly P s₀ (freeCtx a0 s) := by
  fun_cases freeCtx a0 s
  all_goals (intros; repeat' first
      | with_reducible assumption | with_reducible apply unloadAll_only | with_reducible apply modCtx_only | with_reducible apply modStore_only
      | with_reducible apply modSteward_only | with_reducible apply only_ite | with_reducible apply only_mk | with_reducible exact .inl (by assumption)
      | with_reducible exact .inr rfl | with_reducible exact .inr ⟨rfl, rfl⟩ | with_reducible exact .inr ⟨rfl, rfl, rfl⟩
      | with_reducible exact .inr ⟨rfl, rfl, rfl, rfl⟩ | with_reducible exact .inr ⟨rfl, rfl, rfl, rfl, rfl⟩ | with_reducible apply only_foldl | intro _
      | (split))

theorem destroyDoneEff_only (hstore : P .store) (hmboxes : P .mboxes) (hctxs : P .ctxs) (hqueues : P .queues) (hfences : P .fences) (himages : P .images)
    (htasks : P .tasks) (hrequests : P .requests) (hmessages : P .messages) (hfabric : P .fabric) (hpower : P .power) (a1 : Nat) {s₀ s : State} (h : changesOnly
    P s₀ s) : changesOnly P s₀ (destroyDoneEff s a1) := by
  fun_cases destroyDoneEff s a1
  all_goals (intros; repeat' first
      | with_reducible assumption | with_reducible apply freeCtx_only | with_reducible apply endCtx_only | with_reducible apply only_ite
      | with_reducible apply only_mk | with_reducible exact .inl (by assumption) | with_reducible exact .inr rfl | with_reducible exact .inr ⟨rfl, rfl⟩
      | with_reducible exact .inr ⟨rfl, rfl, rfl⟩ | with_reducible exact .inr ⟨rfl, rfl, rfl, rfl⟩ | with_reducible exact .inr ⟨rfl, rfl, rfl, rfl, rfl⟩
      | with_reducible apply only_foldl | intro _ | (split))

theorem noteTransient_only (hintStatus : P .intStatus) (hmessages : P .messages) (hhealth : P .health) (a0 : Nat) (a1 : Nat) {s₀ s : State} (h : changesOnly P
    s₀ s) : changesOnly P s₀ (noteTransient a0 a1 s) := by
  fun_cases noteTransient a0 a1 s
  all_goals (intros; repeat' first
      | with_reducible assumption | with_reducible apply modUnit_only | with_reducible apply modHealth_only | with_reducible apply raiseInt_only
      | with_reducible apply only_ite | with_reducible apply only_mk | with_reducible exact .inl (by assumption) | with_reducible exact .inr rfl
      | with_reducible exact .inr ⟨rfl, rfl⟩ | with_reducible exact .inr ⟨rfl, rfl, rfl⟩ | with_reducible exact .inr ⟨rfl, rfl, rfl, rfl⟩
      | with_reducible exact .inr ⟨rfl, rfl, rfl, rfl, rfl⟩ | with_reducible apply only_foldl | intro _ | (split))

theorem failBanks_only (hhealth : P .health) (a0 : List Nat) {s₀ s : State} (h : changesOnly P s₀ s) : changesOnly P s₀ (failBanks a0 s) := by
  fun_induction failBanks a0 s
  all_goals intros
  all_goals first | with_reducible assumption | skip
  all_goals repeat' first
      | with_reducible assumption | with_reducible apply_assumption | with_reducible apply modUnit_only | with_reducible apply wantRelocation_only
      | with_reducible apply only_ite | with_reducible apply only_mk | with_reducible exact .inl (by assumption) | with_reducible exact .inr rfl
      | with_reducible exact .inr ⟨rfl, rfl⟩ | with_reducible exact .inr ⟨rfl, rfl, rfl⟩ | with_reducible exact .inr ⟨rfl, rfl, rfl, rfl⟩
      | with_reducible exact .inr ⟨rfl, rfl, rfl, rfl, rfl⟩ | with_reducible apply only_foldl | intro _ | (split)

theorem failTier_only (hhealth : P .health) (a0 : Nat) {s₀ s : State} (h : changesOnly P s₀ s) : changesOnly P s₀ (failTier a0 s) := by
  fun_cases failTier a0 s
  all_goals (intros; repeat' first
      | with_reducible assumption | with_reducible apply failBanks_only | with_reducible apply modUnit_only | with_reducible apply only_ite
      | with_reducible apply only_mk | with_reducible exact .inl (by assumption) | with_reducible exact .inr rfl | with_reducible exact .inr ⟨rfl, rfl⟩
      | with_reducible exact .inr ⟨rfl, rfl, rfl⟩ | with_reducible exact .inr ⟨rfl, rfl, rfl, rfl⟩ | with_reducible exact .inr ⟨rfl, rfl, rfl, rfl, rfl⟩
      | with_reducible apply only_foldl | intro _ | (split))

theorem relocateFailed_only (hhealth : P .health) (a0 : Nat) (a1 : Nat) {s₀ s : State} (h : changesOnly P s₀ s) : changesOnly P s₀ (relocateFailed a0 a1 s) := by
  fun_cases relocateFailed a0 a1 s
  all_goals (intros; repeat' first
      | with_reducible assumption | with_reducible apply failTier_only | with_reducible apply modMap_only | with_reducible apply modUnit_only
      | with_reducible apply wantRelocation_only | with_reducible apply only_ite | with_reducible apply only_mk | with_reducible exact .inl (by assumption)
      | with_reducible exact .inr rfl | with_reducible exact .inr ⟨rfl, rfl⟩ | with_reducible exact .inr ⟨rfl, rfl, rfl⟩
      | with_reducible exact .inr ⟨rfl, rfl, rfl, rfl⟩ | with_reducible exact .inr ⟨rfl, rfl, rfl, rfl, rfl⟩ | with_reducible apply only_foldl | intro _
      | (split))

theorem setRepair_only (hhealth : P .health) (a0 : Repair) (a1 : Nat) (a2 : List RepairAct) {s₀ s : State} (h : changesOnly P s₀ s) : changesOnly P s₀
    (setRepair a0 a1 a2 s) := by
  fun_cases setRepair a0 a1 a2 s
  all_goals (intros; repeat' first
      | with_reducible assumption | with_reducible apply modHealth_only | with_reducible apply only_ite | with_reducible apply only_mk
      | with_reducible exact .inl (by assumption) | with_reducible exact .inr rfl | with_reducible exact .inr ⟨rfl, rfl⟩
      | with_reducible exact .inr ⟨rfl, rfl, rfl⟩ | with_reducible exact .inr ⟨rfl, rfl, rfl, rfl⟩ | with_reducible exact .inr ⟨rfl, rfl, rfl, rfl, rfl⟩
      | with_reducible apply only_foldl | intro _ | (split))

theorem diagnosisEff_only (hstore : P .store) (hrooms : P .rooms) (hintStatus : P .intStatus) (hmessages : P .messages) (hside : P .side) (hhealth : P .health)
    (a1 : Nat) (a2 : Nat) (a3 : List Finding) {s₀ s : State} (h : changesOnly P s₀ s) : changesOnly P s₀ (diagnosisEff s a1 a2 a3) := by
  fun_cases diagnosisEff s a1 a2 a3
  all_goals (intros; repeat' first
      | with_reducible assumption | with_reducible apply setRepair_only | with_reducible apply relocateFailed_only | with_reducible apply noteTransient_only
      | with_reducible apply trace_only | with_reducible apply bringInAll_only | with_reducible apply only_ite | with_reducible apply only_mk
      | with_reducible exact .inl (by assumption) | with_reducible exact .inr rfl | with_reducible exact .inr ⟨rfl, rfl⟩
      | with_reducible exact .inr ⟨rfl, rfl, rfl⟩ | with_reducible exact .inr ⟨rfl, rfl, rfl, rfl⟩ | with_reducible exact .inr ⟨rfl, rfl, rfl, rfl, rfl⟩
      | with_reducible apply only_foldl | intro _ | (split))

theorem landSome_only (hfreeCtr : P .freeCtr) (hstore : P .store) (a0 : List Nat) {s₀ s : State} (h : changesOnly P s₀ s) : changesOnly P s₀ (landSome a0 s) := by
  fun_induction landSome a0 s
  all_goals intros
  all_goals first | with_reducible assumption | skip
  all_goals repeat' first
      | with_reducible assumption | with_reducible apply_assumption | with_reducible apply modStore_only | with_reducible apply only_ite
      | with_reducible apply only_mk | with_reducible exact .inl (by assumption) | with_reducible exact .inr rfl | with_reducible exact .inr ⟨rfl, rfl⟩
      | with_reducible exact .inr ⟨rfl, rfl, rfl⟩ | with_reducible exact .inr ⟨rfl, rfl, rfl, rfl⟩ | with_reducible exact .inr ⟨rfl, rfl, rfl, rfl, rfl⟩
      | with_reducible apply only_foldl | intro _ | (split)

theorem disableChannel_only (hfreeCtr : P .freeCtr) (hstore : P .store) (hmboxes : P .mboxes) (hrequests : P .requests) (hmessages : P .messages) (hhatch : P
    .hatch) (a0 : Nat) {s₀ s : State} (h : changesOnly P s₀ s) : changesOnly P s₀ (disableChannel a0 s) := by
  fun_cases disableChannel a0 s
  all_goals (intros; repeat' first
      | with_reducible assumption | with_reducible apply landSome_only | with_reducible apply modHatch_only | with_reducible apply landCloses_only
      | with_reducible apply only_ite | with_reducible apply only_mk | with_reducible exact .inl (by assumption) | with_reducible exact .inr rfl
      | with_reducible exact .inr ⟨rfl, rfl⟩ | with_reducible exact .inr ⟨rfl, rfl, rfl⟩ | with_reducible exact .inr ⟨rfl, rfl, rfl, rfl⟩
      | with_reducible exact .inr ⟨rfl, rfl, rfl, rfl, rfl⟩ | with_reducible apply only_foldl | intro _ | (split))

theorem disableAll_only (hfreeCtr : P .freeCtr) (hstore : P .store) (hmboxes : P .mboxes) (hrequests : P .requests) (hmessages : P .messages) (hhatch : P
    .hatch) (a0 : List Nat) {s₀ s : State} (h : changesOnly P s₀ s) : changesOnly P s₀ (disableAll a0 s) := by
  fun_induction disableAll a0 s
  all_goals intros
  all_goals first | with_reducible assumption | skip
  all_goals repeat' first
      | with_reducible assumption | with_reducible apply_assumption | with_reducible apply disableChannel_only | with_reducible apply only_ite
      | with_reducible apply only_mk | with_reducible exact .inl (by assumption) | with_reducible exact .inr rfl | with_reducible exact .inr ⟨rfl, rfl⟩
      | with_reducible exact .inr ⟨rfl, rfl, rfl⟩ | with_reducible exact .inr ⟨rfl, rfl, rfl, rfl⟩ | with_reducible exact .inr ⟨rfl, rfl, rfl, rfl, rfl⟩
      | with_reducible apply only_foldl | intro _ | (split)

theorem undoRaise_only (hpower : P .power) {s₀ s : State} (h : changesOnly P s₀ s) : changesOnly P s₀ (undoRaise s) := by
  fun_cases undoRaise s
  all_goals (intros; repeat' first
      | with_reducible assumption | with_reducible apply modPower_only | with_reducible apply only_ite | with_reducible apply only_mk
      | with_reducible exact .inl (by assumption) | with_reducible exact .inr rfl | with_reducible exact .inr ⟨rfl, rfl⟩
      | with_reducible exact .inr ⟨rfl, rfl, rfl⟩ | with_reducible exact .inr ⟨rfl, rfl, rfl, rfl⟩ | with_reducible exact .inr ⟨rfl, rfl, rfl, rfl, rfl⟩
      | with_reducible apply only_foldl | intro _ | (split))

theorem discardStaged_only (hstaged : P .staged) (hpower : P .power) (a0 : Staged) {s₀ s : State} (h : changesOnly P s₀ s) : changesOnly P s₀ (discardStaged a0
    s) := by
  fun_cases discardStaged a0 s
  all_goals (intros; repeat' first
      | with_reducible assumption | with_reducible apply undoRaise_only | with_reducible apply only_ite | with_reducible apply only_mk
      | with_reducible exact .inl (by assumption) | with_reducible exact .inr rfl | with_reducible exact .inr ⟨rfl, rfl⟩
      | with_reducible exact .inr ⟨rfl, rfl, rfl⟩ | with_reducible exact .inr ⟨rfl, rfl, rfl, rfl⟩ | with_reducible exact .inr ⟨rfl, rfl, rfl, rfl, rfl⟩
      | with_reducible apply only_foldl | intro _ | (split))

theorem doneEff_only (hstore : P .store) (hrooms : P .rooms) (hhealthSt : P .healthSt) (hmboxes : P .mboxes) (hqueues : P .queues) (htasks : P .tasks)
    (hintStatus : P .intStatus) (hrequests : P .requests) (hmessages : P .messages) (hports : P .ports) (hfabric : P .fabric) (hpower : P .power) (hhealth : P
    .health) (a0 : Frame) {s₀ s : State} (h : changesOnly P s₀ s) : changesOnly P s₀ (doneEff a0 s) := by
  fun_cases doneEff a0 s
  all_goals (intros; repeat' first
      | with_reducible assumption | with_reducible apply completePoint_only | with_reducible apply only_ite | with_reducible apply only_mk
      | with_reducible exact .inl (by assumption) | with_reducible exact .inr rfl | with_reducible exact .inr ⟨rfl, rfl⟩
      | with_reducible exact .inr ⟨rfl, rfl, rfl⟩ | with_reducible exact .inr ⟨rfl, rfl, rfl, rfl⟩ | with_reducible exact .inr ⟨rfl, rfl, rfl, rfl, rfl⟩
      | with_reducible apply only_foldl | intro _ | (split))

theorem doorError_only (hctxs : P .ctxs) (hqueues : P .queues) (hrequests : P .requests) (hmessages : P .messages) (hporch : P .porch) (a0 : Nat) {s₀ s : State}
    (h : changesOnly P s₀ s) : changesOnly P s₀ (doorError a0 s) := by
  unfold doorError
  try dsimp only
  repeat' first
      | with_reducible assumption | with_reducible apply ctxFault_only | with_reducible apply only_ite | with_reducible apply only_foldl | intro _ | (split)
      | with_reducible apply only_mk | with_reducible exact .inl (by assumption) | with_reducible exact .inr rfl | with_reducible exact .inr ⟨rfl, rfl⟩
      | with_reducible exact .inr ⟨rfl, rfl, rfl⟩ | with_reducible exact .inr ⟨rfl, rfl, rfl, rfl⟩ | with_reducible exact .inr ⟨rfl, rfl, rfl, rfl, rfl⟩

theorem doorbellWrite_only (hmboxes : P .mboxes) (a0 : Nat) (a1 : BitVec 32) {s₀ s : State} (h : changesOnly P s₀ s) : changesOnly P s₀ (doorbellWrite a0 a1 s) := by
  fun_cases doorbellWrite a0 a1 s
  all_goals (intros; repeat' first
      | with_reducible assumption | with_reducible apply modMbox_only | with_reducible apply only_ite | with_reducible apply only_mk
      | with_reducible exact .inl (by assumption) | with_reducible exact .inr rfl | with_reducible exact .inr ⟨rfl, rfl⟩
      | with_reducible exact .inr ⟨rfl, rfl, rfl⟩ | with_reducible exact .inr ⟨rfl, rfl, rfl, rfl⟩ | with_reducible exact .inr ⟨rfl, rfl, rfl, rfl, rfl⟩
      | with_reducible apply only_foldl | intro _ | (split))

theorem drainEff_only (hfabric : P .fabric) (a1 : Nat) (a2 : Frame) {s₀ s : State} (h : changesOnly P s₀ s) : changesOnly P s₀ (drainEff s a1 a2) := by
  fun_cases drainEff s a1 a2
  all_goals (intros; repeat' first
      | with_reducible assumption | with_reducible apply takeFrame_only | with_reducible apply modFabric_only | with_reducible apply only_ite
      | with_reducible apply only_mk | with_reducible exact .inl (by assumption) | with_reducible exact .inr rfl | with_reducible exact .inr ⟨rfl, rfl⟩
      | with_reducible exact .inr ⟨rfl, rfl, rfl⟩ | with_reducible exact .inr ⟨rfl, rfl, rfl, rfl⟩ | with_reducible exact .inr ⟨rfl, rfl, rfl, rfl, rfl⟩
      | with_reducible apply only_foldl | intro _ | (split))

theorem drainOn_only (hfabric : P .fabric) (a0 : List Nat) {s₀ s : State} (h : changesOnly P s₀ s) : changesOnly P s₀ (drainOn a0 s) := by
  fun_induction drainOn a0 s
  all_goals intros
  all_goals first | with_reducible assumption | skip
  all_goals repeat' first
      | with_reducible assumption | with_reducible apply_assumption | with_reducible apply modFabric_only | with_reducible apply only_ite
      | with_reducible apply only_mk | with_reducible exact .inl (by assumption) | with_reducible exact .inr rfl | with_reducible exact .inr ⟨rfl, rfl⟩
      | with_reducible exact .inr ⟨rfl, rfl, rfl⟩ | with_reducible exact .inr ⟨rfl, rfl, rfl, rfl⟩ | with_reducible exact .inr ⟨rfl, rfl, rfl, rfl, rfl⟩
      | with_reducible apply only_foldl | intro _ | (split)

theorem dropBundles_only (htasks : P .tasks) (hfabric : P .fabric) (hlinks : P .links) (a0 : List Nat) {s₀ s : State} (h : changesOnly P s₀ s) : changesOnly P
    s₀ (dropBundles a0 s) := by
  fun_induction dropBundles a0 s
  all_goals intros
  all_goals first | with_reducible assumption | skip
  all_goals repeat' first
      | with_reducible assumption | with_reducible apply_assumption | with_reducible apply bundleEff_only | with_reducible apply only_ite
      | with_reducible apply only_mk | with_reducible exact .inl (by assumption) | with_reducible exact .inr rfl | with_reducible exact .inr ⟨rfl, rfl⟩
      | with_reducible exact .inr ⟨rfl, rfl, rfl⟩ | with_reducible exact .inr ⟨rfl, rfl, rfl, rfl⟩ | with_reducible exact .inr ⟨rfl, rfl, rfl, rfl, rfl⟩
      | with_reducible apply only_foldl | intro _ | (split)

theorem dropCopies_only (hstore : P .store) (himages : P .images) (a0 : Nat) (a1 : Nat) {s₀ s : State} (h : changesOnly P s₀ s) : changesOnly P s₀ (dropCopies
    a0 a1 s) := by
  fun_cases dropCopies a0 a1 s
  all_goals (intros; repeat' first
      | with_reducible assumption | with_reducible apply modStore_only | with_reducible apply modSteward_only | with_reducible apply only_ite
      | with_reducible apply only_mk | with_reducible exact .inl (by assumption) | with_reducible exact .inr rfl | with_reducible exact .inr ⟨rfl, rfl⟩
      | with_reducible exact .inr ⟨rfl, rfl, rfl⟩ | with_reducible exact .inr ⟨rfl, rfl, rfl, rfl⟩ | with_reducible exact .inr ⟨rfl, rfl, rfl, rfl, rfl⟩
      | with_reducible apply only_foldl | intro _ | (split))

theorem dropQueue_only (hqueues : P .queues) (hrequests : P .requests) (hporch : P .porch) (a0 : Nat) {s₀ s : State} (h : changesOnly P s₀ s) : changesOnly P s₀
    (dropQueue a0 s) := by
  fun_cases dropQueue a0 s
  all_goals (intros; repeat' first
      | with_reducible assumption | with_reducible apply killDesc_only | with_reducible apply modHost_only | with_reducible apply only_ite
      | with_reducible apply only_mk | with_reducible exact .inl (by assumption) | with_reducible exact .inr rfl | with_reducible exact .inr ⟨rfl, rfl⟩
      | with_reducible exact .inr ⟨rfl, rfl, rfl⟩ | with_reducible exact .inr ⟨rfl, rfl, rfl, rfl⟩ | with_reducible exact .inr ⟨rfl, rfl, rfl, rfl, rfl⟩
      | with_reducible apply only_foldl | intro _ | (split))

theorem dropUnwritten_only (hserving : P .serving) (hmboxes : P .mboxes) (htasks : P .tasks) (hrequests : P .requests) (hmessages : P .messages) (hporch : P
    .porch) {s₀ s : State} (h : changesOnly P s₀ s) : changesOnly P s₀ (dropUnwritten s) := by
  fun_cases dropUnwritten s
  all_goals (intros; repeat' first
      | with_reducible assumption | with_reducible apply only_ite | with_reducible apply only_mk | with_reducible exact .inl (by assumption)
      | with_reducible exact .inr rfl | with_reducible exact .inr ⟨rfl, rfl⟩ | with_reducible exact .inr ⟨rfl, rfl, rfl⟩
      | with_reducible exact .inr ⟨rfl, rfl, rfl, rfl⟩ | with_reducible exact .inr ⟨rfl, rfl, rfl, rfl, rfl⟩ | with_reducible apply only_foldl | intro _
      | (split))

theorem endBare_only (hstore : P .store) (hrooms : P .rooms) (hhealthSt : P .healthSt) (hmboxes : P .mboxes) (hqueues : P .queues) (htasks : P .tasks)
    (hintStatus : P .intStatus) (hrequests : P .requests) (hmessages : P .messages) (hports : P .ports) (hfabric : P .fabric) (hpower : P .power) (hhealth : P
    .health) (a0 : Nat) {s₀ s : State} (h : changesOnly P s₀ s) : changesOnly P s₀ (endBare a0 s) := by
  fun_cases endBare a0 s
  all_goals (intros; repeat' first
      | with_reducible assumption | with_reducible apply allEnded_only | with_reducible apply only_ite | with_reducible apply only_mk
      | with_reducible exact .inl (by assumption) | with_reducible exact .inr rfl | with_reducible exact .inr ⟨rfl, rfl⟩
      | with_reducible exact .inr ⟨rfl, rfl, rfl⟩ | with_reducible exact .inr ⟨rfl, rfl, rfl, rfl⟩ | with_reducible exact .inr ⟨rfl, rfl, rfl, rfl, rfl⟩
      | with_reducible apply only_foldl | intro _ | (split))

theorem endFrameEff_only (hstore : P .store) (hrooms : P .rooms) (hhealthSt : P .healthSt) (hmboxes : P .mboxes) (hqueues : P .queues) (htasks : P .tasks)
    (hintStatus : P .intStatus) (hrequests : P .requests) (hmessages : P .messages) (hports : P .ports) (hfabric : P .fabric) (hpower : P .power) (hhealth : P
    .health) (a0 : Frame) {s₀ s : State} (h : changesOnly P s₀ s) : changesOnly P s₀ (endFrameEff a0 s) := by
  fun_cases endFrameEff a0 s
  all_goals (intros; repeat' first
      | with_reducible assumption | with_reducible apply markEnded_only | with_reducible apply leaderEnd_only | with_reducible apply only_ite
      | with_reducible apply only_mk | with_reducible exact .inl (by assumption) | with_reducible exact .inr rfl | with_reducible exact .inr ⟨rfl, rfl⟩
      | with_reducible exact .inr ⟨rfl, rfl, rfl⟩ | with_reducible exact .inr ⟨rfl, rfl, rfl, rfl⟩ | with_reducible exact .inr ⟨rfl, rfl, rfl, rfl, rfl⟩
      | with_reducible apply only_foldl | intro _ | (split))

theorem endQueue_only (hmboxes : P .mboxes) (hqueues : P .queues) (hrequests : P .requests) (hmessages : P .messages) (hporch : P .porch) (a0 : Nat) {s₀ s :
    State} (h : changesOnly P s₀ s) : changesOnly P s₀ (endQueue a0 s) := by
  fun_cases endQueue a0 s
  all_goals (intros; repeat' first
      | with_reducible assumption | with_reducible apply dropQueue_only | with_reducible apply respond_only | with_reducible apply only_ite
      | with_reducible apply only_mk | with_reducible exact .inl (by assumption) | with_reducible exact .inr rfl | with_reducible exact .inr ⟨rfl, rfl⟩
      | with_reducible exact .inr ⟨rfl, rfl, rfl⟩ | with_reducible exact .inr ⟨rfl, rfl, rfl, rfl⟩ | with_reducible exact .inr ⟨rfl, rfl, rfl, rfl, rfl⟩
      | with_reducible apply only_foldl | intro _ | (split))

theorem endReportEff_only (hstore : P .store) (hrooms : P .rooms) (hhealthSt : P .healthSt) (hmboxes : P .mboxes) (hqueues : P .queues) (htasks : P .tasks)
    (hintStatus : P .intStatus) (hrequests : P .requests) (hmessages : P .messages) (hports : P .ports) (hfabric : P .fabric) (hpower : P .power) (hhealth : P
    .health) (a1 : Nat) (a2 : Nat) {s₀ s : State} (h : changesOnly P s₀ s) : changesOnly P s₀ (endReportEff s a1 a2) := by
  fun_cases endReportEff s a1 a2
  all_goals (intros; repeat' first
      | with_reducible assumption | with_reducible apply allEnded_only | with_reducible apply modTask_only | with_reducible apply only_ite
      | with_reducible apply only_mk | with_reducible exact .inl (by assumption) | with_reducible exact .inr rfl | with_reducible exact .inr ⟨rfl, rfl⟩
      | with_reducible exact .inr ⟨rfl, rfl, rfl⟩ | with_reducible exact .inr ⟨rfl, rfl, rfl, rfl⟩ | with_reducible exact .inr ⟨rfl, rfl, rfl, rfl, rfl⟩
      | with_reducible apply only_foldl | intro _ | (split))

theorem endTests_only (hlinks : P .links) (a0 : Nat) {s₀ s : State} (h : changesOnly P s₀ s) : changesOnly P s₀ (endTests a0 s) := by
  fun_cases endTests a0 s
  all_goals (intros; repeat' first
      | with_reducible assumption | with_reducible apply only_ite | with_reducible apply only_mk | with_reducible exact .inl (by assumption)
      | with_reducible exact .inr rfl | with_reducible exact .inr ⟨rfl, rfl⟩ | with_reducible exact .inr ⟨rfl, rfl, rfl⟩
      | with_reducible exact .inr ⟨rfl, rfl, rfl, rfl⟩ | with_reducible exact .inr ⟨rfl, rfl, rfl, rfl, rfl⟩ | with_reducible apply only_foldl | intro _
      | (split))

theorem engineReadyEff_only (hstore : P .store) (hphase : P .phase) (hintStatus : P .intStatus) (hmessages : P .messages) (hseq : P .seq) {s₀ s : State} (h :
    changesOnly P s₀ s) : changesOnly P s₀ (engineReadyEff s) := by
  fun_cases engineReadyEff s
  all_goals (intros; repeat' first
      | with_reducible assumption | with_reducible apply setPhase_only | with_reducible apply clearStores_only | with_reducible apply modSeq_only
      | with_reducible apply only_ite | with_reducible apply only_mk | with_reducible exact .inl (by assumption) | with_reducible exact .inr rfl
      | with_reducible exact .inr ⟨rfl, rfl⟩ | with_reducible exact .inr ⟨rfl, rfl, rfl⟩ | with_reducible exact .inr ⟨rfl, rfl, rfl, rfl⟩
      | with_reducible exact .inr ⟨rfl, rfl, rfl, rfl, rfl⟩ | with_reducible apply only_foldl | intro _ | (split))

theorem hpCfgWrite_only (htimeout : P .timeout) (a0 : BitVec 32) {s₀ s : State} (h : changesOnly P s₀ s) : changesOnly P s₀ (hpCfgWrite a0 s) := by
  fun_cases hpCfgWrite a0 s
  all_goals (intros; repeat' first
      | with_reducible assumption | with_reducible apply modHost_only | with_reducible apply only_ite | with_reducible apply only_mk
      | with_reducible exact .inl (by assumption) | with_reducible exact .inr rfl | with_reducible exact .inr ⟨rfl, rfl⟩
      | with_reducible exact .inr ⟨rfl, rfl, rfl⟩ | with_reducible exact .inr ⟨rfl, rfl, rfl, rfl⟩ | with_reducible exact .inr ⟨rfl, rfl, rfl, rfl, rfl⟩
      | with_reducible apply only_foldl | intro _ | (split))

theorem intEnableWrite_only (hintEnable : P .intEnable) (hmessages : P .messages) (a0 : BitVec 32) {s₀ s : State} (h : changesOnly P s₀ s) : changesOnly P s₀
    (intEnableWrite a0 s) := by
  fun_cases intEnableWrite a0 s
  all_goals (intros; repeat' first
      | with_reducible assumption | with_reducible apply addEvt_only | with_reducible apply only_ite | with_reducible apply only_mk
      | with_reducible exact .inl (by assumption) | with_reducible exact .inr rfl | with_reducible exact .inr ⟨rfl, rfl⟩
      | with_reducible exact .inr ⟨rfl, rfl, rfl⟩ | with_reducible exact .inr ⟨rfl, rfl, rfl, rfl⟩ | with_reducible exact .inr ⟨rfl, rfl, rfl, rfl, rfl⟩
      | with_reducible apply only_foldl | intro _ | (split))

theorem engineWord_only (hintStatus : P .intStatus) (hintEnable : P .intEnable) (htimeout : P .timeout) (hmessages : P .messages) (hsnap : P .snap) (htime : P
    .time) (hpace : P .pace) (hpower : P .power) (hhealth : P .health) (hseq : P .seq) (a0 : Nat) (a1 : BitVec 32) {s₀ s : State} (h : changesOnly P s₀ s) :
    changesOnly P s₀ (engineWord a0 a1 s) := by
  fun_cases engineWord a0 a1 s
  all_goals (intros; repeat' first
      | with_reducible assumption | with_reducible apply intEnableWrite_only | with_reducible apply hpCfgWrite_only | with_reducible apply modSnap_only
      | with_reducible apply modSeq_only | with_reducible apply modPace_only | with_reducible apply modPower_only | with_reducible apply modHealth_only
      | with_reducible apply modTime_only | with_reducible apply only_ite | with_reducible apply only_mk | with_reducible exact .inl (by assumption)
      | with_reducible exact .inr rfl | with_reducible exact .inr ⟨rfl, rfl⟩ | with_reducible exact .inr ⟨rfl, rfl, rfl⟩
      | with_reducible exact .inr ⟨rfl, rfl, rfl, rfl⟩ | with_reducible exact .inr ⟨rfl, rfl, rfl, rfl, rfl⟩ | with_reducible apply only_foldl | intro _
      | (split))

theorem stage_only (hmboxes : P .mboxes) (hstaged : P .staged) (hrequests : P .requests) (hmessages : P .messages) (a0 : Nat) (a1 : MsgWord) (a2 : List (BitVec
    32)) {s₀ s : State} (h : changesOnly P s₀ s) : changesOnly P s₀ (stage a0 a1 a2 s) := by
  fun_cases stage a0 a1 a2 s
  all_goals (intros; repeat' first
      | with_reducible assumption | with_reducible apply await_only | with_reducible apply respond_only | with_reducible apply modSteward_only
      | with_reducible apply only_ite | with_reducible apply only_mk | with_reducible exact .inl (by assumption) | with_reducible exact .inr rfl
      | with_reducible exact .inr ⟨rfl, rfl⟩ | with_reducible exact .inr ⟨rfl, rfl, rfl⟩ | with_reducible exact .inr ⟨rfl, rfl, rfl, rfl⟩
      | with_reducible exact .inr ⟨rfl, rfl, rfl, rfl, rfl⟩ | with_reducible apply only_foldl | intro _ | (split))

theorem fabricSetEff_only (hmboxes : P .mboxes) (hstaged : P .staged) (hrequests : P .requests) (hmessages : P .messages) (a1 : Nat) (a2 : MsgWord) (a3 : Option
    (List (BitVec 32))) {s₀ s : State} (h : changesOnly P s₀ s) : changesOnly P s₀ (fabricSetEff s a1 a2 a3) := by
  fun_cases fabricSetEff s a1 a2 a3
  all_goals (intros; repeat' first
      | with_reducible assumption | with_reducible apply stage_only | with_reducible apply respond_only | with_reducible apply only_ite
      | with_reducible apply only_mk | with_reducible exact .inl (by assumption) | with_reducible exact .inr rfl | with_reducible exact .inr ⟨rfl, rfl⟩
      | with_reducible exact .inr ⟨rfl, rfl, rfl⟩ | with_reducible exact .inr ⟨rfl, rfl, rfl, rfl⟩ | with_reducible exact .inr ⟨rfl, rfl, rfl, rfl, rfl⟩
      | with_reducible apply only_foldl | intro _ | (split))

theorem unHalt_only (htasks : P .tasks) (a0 : Nat) (a1 : Task) {s₀ s : State} (h : changesOnly P s₀ s) : changesOnly P s₀ (unHalt a0 a1 s) := by
  fun_cases unHalt a0 a1 s
  all_goals (intros; repeat' first
      | with_reducible assumption | with_reducible apply modTask_only | with_reducible apply only_ite | with_reducible apply only_mk
      | with_reducible exact .inl (by assumption) | with_reducible exact .inr rfl | with_reducible exact .inr ⟨rfl, rfl⟩
      | with_reducible exact .inr ⟨rfl, rfl, rfl⟩ | with_reducible exact .inr ⟨rfl, rfl, rfl, rfl⟩ | with_reducible exact .inr ⟨rfl, rfl, rfl, rfl, rfl⟩
      | with_reducible apply only_foldl | intro _ | (split))

theorem unHalts_only (htasks : P .tasks) (a0 : Nat) (a1 : List Task) {s₀ s : State} (h : changesOnly P s₀ s) : changesOnly P s₀ (unHalts a0 a1 s) := by
  fun_induction unHalts a0 a1 s
  all_goals intros
  all_goals first | with_reducible assumption | skip
  all_goals repeat' first
      | with_reducible assumption | with_reducible apply_assumption | with_reducible apply unHalt_only | with_reducible apply only_ite
      | with_reducible apply only_mk | with_reducible exact .inl (by assumption) | with_reducible exact .inr rfl | with_reducible exact .inr ⟨rfl, rfl⟩
      | with_reducible exact .inr ⟨rfl, rfl, rfl⟩ | with_reducible exact .inr ⟨rfl, rfl, rfl, rfl⟩ | with_reducible exact .inr ⟨rfl, rfl, rfl, rfl, rfl⟩
      | with_reducible apply only_foldl | intro _ | (split)

theorem unAborts_only (htasks : P .tasks) (a0 : List Task) {s₀ s : State} (h : changesOnly P s₀ s) : changesOnly P s₀ (unAborts a0 s) := by
  fun_cases unAborts a0 s
  all_goals (intros; repeat' first
      | with_reducible assumption | with_reducible apply unHalts_only | with_reducible apply only_ite | with_reducible apply only_mk
      | with_reducible exact .inl (by assumption) | with_reducible exact .inr rfl | with_reducible exact .inr ⟨rfl, rfl⟩
      | with_reducible exact .inr ⟨rfl, rfl, rfl⟩ | with_reducible exact .inr ⟨rfl, rfl, rfl, rfl⟩ | with_reducible exact .inr ⟨rfl, rfl, rfl, rfl, rfl⟩
      | with_reducible apply only_foldl | intro _ | (split))

theorem putMirror_only (hrequests : P .requests) (hmessages : P .messages) (hporch : P .porch) (a0 : Nat) {s₀ s : State} (h : changesOnly P s₀ s) : changesOnly
    P s₀ (putMirror a0 s) := by
  fun_cases putMirror a0 s
  all_goals (intros; repeat' first
      | with_reducible assumption | with_reducible apply porchPut_only | with_reducible apply only_ite | with_reducible apply only_mk
      | with_reducible exact .inl (by assumption) | with_reducible exact .inr rfl | with_reducible exact .inr ⟨rfl, rfl⟩
      | with_reducible exact .inr ⟨rfl, rfl, rfl⟩ | with_reducible exact .inr ⟨rfl, rfl, rfl, rfl⟩ | with_reducible exact .inr ⟨rfl, rfl, rfl, rfl, rfl⟩
      | with_reducible apply only_foldl | intro _ | (split))

theorem putMirrors_only (hrequests : P .requests) (hmessages : P .messages) (hporch : P .porch) (a0 : List Nat) {s₀ s : State} (h : changesOnly P s₀ s) :
    changesOnly P s₀ (putMirrors a0 s) := by
  fun_induction putMirrors a0 s
  all_goals intros
  all_goals first | with_reducible assumption | skip
  all_goals repeat' first
      | with_reducible assumption | with_reducible apply_assumption | with_reducible apply putMirror_only | with_reducible apply only_ite
      | with_reducible apply only_mk | with_reducible exact .inl (by assumption) | with_reducible exact .inr rfl | with_reducible exact .inr ⟨rfl, rfl⟩
      | with_reducible exact .inr ⟨rfl, rfl, rfl⟩ | with_reducible exact .inr ⟨rfl, rfl, rfl, rfl⟩ | with_reducible exact .inr ⟨rfl, rfl, rfl, rfl, rfl⟩
      | with_reducible apply only_foldl | intro _ | (split)

theorem porchWant_only (hrequests : P .requests) (hmessages : P .messages) (a0 : Nat) {s₀ s : State} (h : changesOnly P s₀ s) : changesOnly P s₀ (porchWant a0
    s) := by
  fun_cases porchWant a0 s
  all_goals (intros; repeat' first
      | with_reducible assumption | with_reducible apply porchFill_only | with_reducible apply only_ite | with_reducible apply only_mk
      | with_reducible exact .inl (by assumption) | with_reducible exact .inr rfl | with_reducible exact .inr ⟨rfl, rfl⟩
      | with_reducible exact .inr ⟨rfl, rfl, rfl⟩ | with_reducible exact .inr ⟨rfl, rfl, rfl, rfl⟩ | with_reducible exact .inr ⟨rfl, rfl, rfl, rfl, rfl⟩
      | with_reducible apply only_foldl | intro _ | (split))

theorem readDoors_only (hrequests : P .requests) (hmessages : P .messages) (a0 : List Nat) {s₀ s : State} (h : changesOnly P s₀ s) : changesOnly P s₀ (readDoors
    a0 s) := by
  fun_induction readDoors a0 s
  all_goals intros
  all_goals first | with_reducible assumption | skip
  all_goals repeat' first
      | with_reducible assumption | with_reducible apply_assumption | with_reducible apply porchWant_only | with_reducible apply only_ite
      | with_reducible apply only_mk | with_reducible exact .inl (by assumption) | with_reducible exact .inr rfl | with_reducible exact .inr ⟨rfl, rfl⟩
      | with_reducible exact .inr ⟨rfl, rfl, rfl⟩ | with_reducible exact .inr ⟨rfl, rfl, rfl, rfl⟩ | with_reducible exact .inr ⟨rfl, rfl, rfl, rfl, rfl⟩
      | with_reducible apply only_foldl | intro _ | (split)

theorem unStop_only (hhatch : P .hatch) (a0 : Nat) {s₀ s : State} (h : changesOnly P s₀ s) : changesOnly P s₀ (unStop a0 s) := by
  fun_cases unStop a0 s
  all_goals (intros; repeat' first
      | with_reducible assumption | with_reducible apply modShell_only | with_reducible apply only_ite | with_reducible apply only_mk
      | with_reducible exact .inl (by assumption) | with_reducible exact .inr rfl | with_reducible exact .inr ⟨rfl, rfl⟩
      | with_reducible exact .inr ⟨rfl, rfl, rfl⟩ | with_reducible exact .inr ⟨rfl, rfl, rfl, rfl⟩ | with_reducible exact .inr ⟨rfl, rfl, rfl, rfl, rfl⟩
      | with_reducible apply only_foldl | intro _ | (split))

theorem unDestroy_only (hctxs : P .ctxs) (hqueues : P .queues) (htasks : P .tasks) (hrequests : P .requests) (hmessages : P .messages) (hporch : P .porch)
    (hhatch : P .hatch) (a0 : Nat) {s₀ s : State} (h : changesOnly P s₀ s) : changesOnly P s₀ (unDestroy a0 s) := by
  fun_cases unDestroy a0 s
  all_goals (intros; repeat' first
      | with_reducible assumption | with_reducible apply unStop_only | with_reducible apply readDoors_only | with_reducible apply putMirrors_only
      | with_reducible apply unAborts_only | with_reducible apply putStatusAll_only | with_reducible apply modCtx_only | with_reducible apply tryRecords_only
      | with_reducible apply promote_only | with_reducible apply modSteward_only | with_reducible apply only_ite | with_reducible apply only_mk
      | with_reducible exact .inl (by assumption) | with_reducible exact .inr rfl | with_reducible exact .inr ⟨rfl, rfl⟩
      | with_reducible exact .inr ⟨rfl, rfl, rfl⟩ | with_reducible exact .inr ⟨rfl, rfl, rfl, rfl⟩ | with_reducible exact .inr ⟨rfl, rfl, rfl, rfl, rfl⟩
      | with_reducible apply only_foldl | intro _ | (split))

theorem unFreeze_only (hsnap : P .snap) (a0 : Nat) {s₀ s : State} (h : changesOnly P s₀ s) : changesOnly P s₀ (unFreeze a0 s) := by
  fun_cases unFreeze a0 s
  all_goals (intros; repeat' first
      | with_reducible assumption | with_reducible apply endFreeze_only | with_reducible apply modSnap_only | with_reducible apply only_ite
      | with_reducible apply only_mk | with_reducible exact .inl (by assumption) | with_reducible exact .inr rfl | with_reducible exact .inr ⟨rfl, rfl⟩
      | with_reducible exact .inr ⟨rfl, rfl, rfl⟩ | with_reducible exact .inr ⟨rfl, rfl, rfl, rfl⟩ | with_reducible exact .inr ⟨rfl, rfl, rfl, rfl, rfl⟩
      | with_reducible apply only_foldl | intro _ | (split))

theorem unReset_only (htasks : P .tasks) (hseq : P .seq) (a0 : Nat) {s₀ s : State} (h : changesOnly P s₀ s) : changesOnly P s₀ (unReset a0 s) := by
  fun_cases unReset a0 s
  all_goals (intros; repeat' first
      | with_reducible assumption | with_reducible apply unHalts_only | with_reducible apply modSeq_only | with_reducible apply only_ite
      | with_reducible apply only_mk | with_reducible exact .inl (by assumption) | with_reducible exact .inr rfl | with_reducible exact .inr ⟨rfl, rfl⟩
      | with_reducible exact .inr ⟨rfl, rfl, rfl⟩ | with_reducible exact .inr ⟨rfl, rfl, rfl, rfl⟩ | with_reducible exact .inr ⟨rfl, rfl, rfl, rfl, rfl⟩
      | with_reducible apply only_foldl | intro _ | (split))

theorem undoCommand_only (hfreeCtr : P .freeCtr) (hstore : P .store) (hmboxes : P .mboxes) (hctxs : P .ctxs) (hqueues : P .queues) (himages : P .images) (htasks
    : P .tasks) (hrequests : P .requests) (hmessages : P .messages) (hporch : P .porch) (hhatch : P .hatch) (hsnap : P .snap) (hlinks : P .links) (hseq : P
    .seq) (a0 : Nat) (a1 : MsgWord) {s₀ s : State} (h : changesOnly P s₀ s) : changesOnly P s₀ (undoCommand a0 a1 s) := by
  unfold undoCommand
  try dsimp only
  repeat' first
      | with_reducible assumption | with_reducible apply unReset_only | with_reducible apply unFreeze_only | with_reducible apply unDestroy_only
      | with_reducible apply unAborts_only | with_reducible apply endTests_only | with_reducible apply dropQueue_only | with_reducible apply cutWork_only
      | with_reducible apply modSteward_only | with_reducible apply only_ite | with_reducible apply only_foldl | intro _ | (split)
      | with_reducible apply only_mk | with_reducible exact .inl (by assumption) | with_reducible exact .inr rfl | with_reducible exact .inr ⟨rfl, rfl⟩
      | with_reducible exact .inr ⟨rfl, rfl, rfl⟩ | with_reducible exact .inr ⟨rfl, rfl, rfl, rfl⟩ | with_reducible exact .inr ⟨rfl, rfl, rfl, rfl, rfl⟩

theorem failOver_only (hfreeCtr : P .freeCtr) (hstore : P .store) (hmboxes : P .mboxes) (hctxs : P .ctxs) (hqueues : P .queues) (himages : P .images) (htasks :
    P .tasks) (hrequests : P .requests) (hmessages : P .messages) (hporch : P .porch) (hhatch : P .hatch) (hsnap : P .snap) (hlinks : P .links) (hseq : P .seq)
    (a0 : List Nat) {s₀ s : State} (h : changesOnly P s₀ s) : changesOnly P s₀ (failOver a0 s) := by
  induction a0 generalizing  s with
  | nil => exact h
  | cons x xs ih =>
    rw [failOver]
    repeat' first
      | with_reducible apply ih
      | with_reducible assumption | with_reducible apply_assumption | with_reducible apply undoCommand_only | with_reducible apply respond_only
      | with_reducible apply only_ite | with_reducible apply only_foldl | intro _ | (split) | with_reducible apply only_mk
      | with_reducible exact .inl (by assumption) | with_reducible exact .inr rfl | with_reducible exact .inr ⟨rfl, rfl⟩
      | with_reducible exact .inr ⟨rfl, rfl, rfl⟩ | with_reducible exact .inr ⟨rfl, rfl, rfl, rfl⟩ | with_reducible exact .inr ⟨rfl, rfl, rfl, rfl, rfl⟩

theorem gateDown_only (htasks : P .tasks) (hfabric : P .fabric) (hlinks : P .links) (hhealth : P .health) (a0 : Nat) {s₀ s : State} (h : changesOnly P s₀ s) :
    changesOnly P s₀ (gateDown a0 s) := by
  fun_cases gateDown a0 s
  all_goals (intros; repeat' first
      | with_reducible assumption | with_reducible apply dropBundles_only | with_reducible apply modPorts_only | with_reducible apply modHealth_only
      | with_reducible apply only_ite | with_reducible apply only_mk | with_reducible exact .inl (by assumption) | with_reducible exact .inr rfl
      | with_reducible exact .inr ⟨rfl, rfl⟩ | with_reducible exact .inr ⟨rfl, rfl, rfl⟩ | with_reducible exact .inr ⟨rfl, rfl, rfl, rfl⟩
      | with_reducible exact .inr ⟨rfl, rfl, rfl, rfl, rfl⟩ | with_reducible apply only_foldl | intro _ | (split))

theorem failStage_only (hhealthSt : P .healthSt) (htasks : P .tasks) (hintStatus : P .intStatus) (hmessages : P .messages) (hfabric : P .fabric) (hlinks : P
    .links) (hhealth : P .health) (a0 : Stage) {s₀ s : State} (h : changesOnly P s₀ s) : changesOnly P s₀ (failStage a0 s) := by
  fun_cases failStage a0 s
  all_goals (intros; repeat' first
      | with_reducible assumption | with_reducible apply gateDown_only | with_reducible apply markExhausted_only | with_reducible apply modHealth_only
      | with_reducible apply only_ite | with_reducible apply only_mk | with_reducible exact .inl (by assumption) | with_reducible exact .inr rfl
      | with_reducible exact .inr ⟨rfl, rfl⟩ | with_reducible exact .inr ⟨rfl, rfl, rfl⟩ | with_reducible exact .inr ⟨rfl, rfl, rfl, rfl⟩
      | with_reducible exact .inr ⟨rfl, rfl, rfl, rfl, rfl⟩ | with_reducible apply only_foldl | intro _ | (split))

theorem faultFrameEff_only (htasks : P .tasks) (hfabric : P .fabric) (a0 : Frame) (a1 : Nat) (a2 : Nat) (a3 : Nat) {s₀ s : State} (h : changesOnly P s₀ s) :
    changesOnly P s₀ (faultFrameEff a0 a1 a2 a3 s) := by
  fun_cases faultFrameEff a0 a1 a2 a3 s
  all_goals (intros; repeat' first
      | with_reducible assumption | with_reducible apply haltWith_only | with_reducible apply only_ite | with_reducible apply only_mk
      | with_reducible exact .inl (by assumption) | with_reducible exact .inr rfl | with_reducible exact .inr ⟨rfl, rfl⟩
      | with_reducible exact .inr ⟨rfl, rfl, rfl⟩ | with_reducible exact .inr ⟨rfl, rfl, rfl, rfl⟩ | with_reducible exact .inr ⟨rfl, rfl, rfl, rfl, rfl⟩
      | with_reducible apply only_foldl | intro _ | (split))

theorem faultReportEff_only (hrooms : P .rooms) (hhealthSt : P .healthSt) (htasks : P .tasks) (hintStatus : P .intStatus) (hmessages : P .messages) (hfabric : P
    .fabric) (hhealth : P .health) (a1 : Nat) {s₀ s : State} (h : changesOnly P s₀ s) : changesOnly P s₀ (faultReportEff s a1) := by
  unfold faultReportEff
  try dsimp only
  repeat' first
      | with_reducible assumption | with_reducible apply blame_only | with_reducible apply modRoom_only | with_reducible apply haltTask_only
      | with_reducible apply only_ite | with_reducible apply only_foldl | intro _ | (split) | with_reducible apply only_mk
      | with_reducible exact .inl (by assumption) | with_reducible exact .inr rfl | with_reducible exact .inr ⟨rfl, rfl⟩
      | with_reducible exact .inr ⟨rfl, rfl, rfl⟩ | with_reducible exact .inr ⟨rfl, rfl, rfl, rfl⟩ | with_reducible exact .inr ⟨rfl, rfl, rfl, rfl, rfl⟩

theorem setFence_only (hfences : P .fences) (htasks : P .tasks) (hrequests : P .requests) (hmessages : P .messages) (hporch : P .porch) (a0 : Nat) (a1 : Bool)
    {s₀ s : State} (h : changesOnly P s₀ s) : changesOnly P s₀ (setFence a0 a1 s) := by
  fun_cases setFence a0 a1 s
  all_goals (intros; repeat' first
      | with_reducible assumption | with_reducible apply putMirror_only | with_reducible apply promote_only | with_reducible apply only_ite
      | with_reducible apply only_mk | with_reducible exact .inl (by assumption) | with_reducible exact .inr rfl | with_reducible exact .inr ⟨rfl, rfl⟩
      | with_reducible exact .inr ⟨rfl, rfl, rfl⟩ | with_reducible exact .inr ⟨rfl, rfl, rfl, rfl⟩ | with_reducible exact .inr ⟨rfl, rfl, rfl, rfl, rfl⟩
      | with_reducible apply only_foldl | intro _ | (split))

theorem fenceActionEff_only (hqueues : P .queues) (hfences : P .fences) (htasks : P .tasks) (hrequests : P .requests) (hmessages : P .messages) (hporch : P
    .porch) (a1 : Nat) {s₀ s : State} (h : changesOnly P s₀ s) : changesOnly P s₀ (fenceActionEff s a1) := by
  fun_cases fenceActionEff s a1
  all_goals (intros; repeat' first
      | with_reducible assumption | with_reducible apply setFence_only | with_reducible apply promote_only | with_reducible apply modQueue_only
      | with_reducible apply only_ite | with_reducible apply only_mk | with_reducible exact .inl (by assumption) | with_reducible exact .inr rfl
      | with_reducible exact .inr ⟨rfl, rfl⟩ | with_reducible exact .inr ⟨rfl, rfl, rfl⟩ | with_reducible exact .inr ⟨rfl, rfl, rfl, rfl⟩
      | with_reducible exact .inr ⟨rfl, rfl, rfl, rfl, rfl⟩ | with_reducible apply only_foldl | intro _ | (split))

theorem fenceAllocEff_only (hmboxes : P .mboxes) (hfences : P .fences) (hrequests : P .requests) (hmessages : P .messages) (a1 : Nat) (a2 : MsgWord) {s₀ s :
    State} (h : changesOnly P s₀ s) : changesOnly P s₀ (fenceAllocEff s a1 a2) := by
  fun_cases fenceAllocEff s a1 a2
  all_goals (intros; repeat' first
      | with_reducible assumption | with_reducible apply respond_only | with_reducible apply modSteward_only | with_reducible apply only_ite
      | with_reducible apply only_mk | with_reducible exact .inl (by assumption) | with_reducible exact .inr rfl | with_reducible exact .inr ⟨rfl, rfl⟩
      | with_reducible exact .inr ⟨rfl, rfl, rfl⟩ | with_reducible exact .inr ⟨rfl, rfl, rfl, rfl⟩ | with_reducible exact .inr ⟨rfl, rfl, rfl, rfl, rfl⟩
      | with_reducible apply only_foldl | intro _ | (split))

theorem fenceFreeEff_only (hmboxes : P .mboxes) (hfences : P .fences) (htasks : P .tasks) (hrequests : P .requests) (hmessages : P .messages) (a1 : Nat) (a2 :
    MsgWord) {s₀ s : State} (h : changesOnly P s₀ s) : changesOnly P s₀ (fenceFreeEff s a1 a2) := by
  fun_cases fenceFreeEff s a1 a2
  all_goals (intros; repeat' first
      | with_reducible assumption | with_reducible apply respond_only | with_reducible apply modSteward_only | with_reducible apply only_ite
      | with_reducible apply only_mk | with_reducible exact .inl (by assumption) | with_reducible exact .inr rfl | with_reducible exact .inr ⟨rfl, rfl⟩
      | with_reducible exact .inr ⟨rfl, rfl, rfl⟩ | with_reducible exact .inr ⟨rfl, rfl, rfl, rfl⟩ | with_reducible exact .inr ⟨rfl, rfl, rfl, rfl, rfl⟩
      | with_reducible apply only_foldl | intro _ | (split))

theorem fenceSignalEff_only (hmboxes : P .mboxes) (hfences : P .fences) (htasks : P .tasks) (hrequests : P .requests) (hmessages : P .messages) (hporch : P
    .porch) (a1 : Nat) (a2 : MsgWord) {s₀ s : State} (h : changesOnly P s₀ s) : changesOnly P s₀ (fenceSignalEff s a1 a2) := by
  fun_cases fenceSignalEff s a1 a2
  all_goals (intros; repeat' first
      | with_reducible assumption | with_reducible apply setFence_only | with_reducible apply respond_only | with_reducible apply only_ite
      | with_reducible apply only_mk | with_reducible exact .inl (by assumption) | with_reducible exact .inr rfl | with_reducible exact .inr ⟨rfl, rfl⟩
      | with_reducible exact .inr ⟨rfl, rfl, rfl⟩ | with_reducible exact .inr ⟨rfl, rfl, rfl, rfl⟩ | with_reducible exact .inr ⟨rfl, rfl, rfl, rfl, rfl⟩
      | with_reducible apply only_foldl | intro _ | (split))

theorem fetchEff_only (hmboxes : P .mboxes) (hrequests : P .requests) (hmessages : P .messages) (a1 : Nat) {s₀ s : State} (h : changesOnly P s₀ s) : changesOnly
    P s₀ (fetchEff s a1) := by
  fun_cases fetchEff s a1
  all_goals (intros; repeat' first
      | with_reducible assumption | with_reducible apply modMbox_only | with_reducible apply issueReq_only | with_reducible apply only_ite
      | with_reducible apply only_mk | with_reducible exact .inl (by assumption) | with_reducible exact .inr rfl | with_reducible exact .inr ⟨rfl, rfl⟩
      | with_reducible exact .inr ⟨rfl, rfl, rfl⟩ | with_reducible exact .inr ⟨rfl, rfl, rfl, rfl⟩ | with_reducible exact .inr ⟨rfl, rfl, rfl, rfl, rfl⟩
      | with_reducible apply only_foldl | intro _ | (split))

theorem stepMany_only (hfreeCtr : P .freeCtr) (hstore : P .store) (hrooms : P .rooms) (htasks : P .tasks) (hintStatus : P .intStatus) (hmessages : P .messages)
    (hpace : P .pace) (hpower : P .power) (hhealth : P .health) (a0 : Nat) (a1 : Nat) (a2 : Nat) {s₀ s : State} (h : changesOnly P s₀ s) : changesOnly P s₀
    (stepMany a0 a1 a2 s) := by
  fun_induction stepMany a0 a1 a2 s
  all_goals intros
  all_goals first | with_reducible assumption | skip
  all_goals repeat' first
      | with_reducible assumption | with_reducible apply_assumption | with_reducible apply pacedStep_only | with_reducible apply only_ite
      | with_reducible apply only_mk | with_reducible exact .inl (by assumption) | with_reducible exact .inr rfl | with_reducible exact .inr ⟨rfl, rfl⟩
      | with_reducible exact .inr ⟨rfl, rfl, rfl⟩ | with_reducible exact .inr ⟨rfl, rfl, rfl, rfl⟩ | with_reducible exact .inr ⟨rfl, rfl, rfl, rfl, rfl⟩
      | with_reducible apply only_foldl | intro _ | (split)

theorem finishOp_only (hfreeCtr : P .freeCtr) (hstore : P .store) (hrooms : P .rooms) (htasks : P .tasks) (hintStatus : P .intStatus) (hmessages : P .messages)
    (hpace : P .pace) (hpower : P .power) (hhealth : P .health) (a0 : Nat) (a1 : InFlight) {s₀ s : State} (h : changesOnly P s₀ s) : changesOnly P s₀ (finishOp
    a0 a1 s) := by
  fun_cases finishOp a0 a1 s
  all_goals (intros; repeat' first
      | with_reducible assumption | with_reducible apply stepMany_only | with_reducible apply takeAll_only | with_reducible apply stuffWork_only
      | with_reducible apply only_ite | with_reducible apply only_mk | with_reducible exact .inl (by assumption) | with_reducible exact .inr rfl
      | with_reducible exact .inr ⟨rfl, rfl⟩ | with_reducible exact .inr ⟨rfl, rfl, rfl⟩ | with_reducible exact .inr ⟨rfl, rfl, rfl, rfl⟩
      | with_reducible exact .inr ⟨rfl, rfl, rfl, rfl, rfl⟩ | with_reducible apply only_foldl | intro _ | (split))

theorem modKeep_only (hkeep : P .keep) (a0 : Keep → Keep) {s₀ s : State} (h : changesOnly P s₀ s) : changesOnly P s₀ (modKeep a0 s) := by
  fun_cases modKeep a0 s
  all_goals (intros; repeat' first
      | with_reducible assumption | with_reducible apply modShell_only | with_reducible apply only_ite | with_reducible apply only_mk
      | with_reducible exact .inl (by assumption) | with_reducible exact .inr rfl | with_reducible exact .inr ⟨rfl, rfl⟩
      | with_reducible exact .inr ⟨rfl, rfl, rfl⟩ | with_reducible exact .inr ⟨rfl, rfl, rfl, rfl⟩ | with_reducible exact .inr ⟨rfl, rfl, rfl, rfl, rfl⟩
      | with_reducible apply only_foldl | intro _ | (split))

theorem runFirmware_only (hserving : P .serving) (hkeep : P .keep) (hhealth : P .health) (a0 : Nat) (a1 : Option Nat) {s₀ s : State} (h : changesOnly P s₀ s) :
    changesOnly P s₀ (runFirmware a0 a1 s) := by
  fun_cases runFirmware a0 a1 s
  all_goals (intros; repeat' first
      | with_reducible assumption | with_reducible apply modKeep_only | with_reducible apply modHealth_only | with_reducible apply only_ite
      | with_reducible apply only_mk | with_reducible exact .inl (by assumption) | with_reducible exact .inr rfl | with_reducible exact .inr ⟨rfl, rfl⟩
      | with_reducible exact .inr ⟨rfl, rfl, rfl⟩ | with_reducible exact .inr ⟨rfl, rfl, rfl, rfl⟩ | with_reducible exact .inr ⟨rfl, rfl, rfl, rfl, rfl⟩
      | with_reducible apply only_foldl | intro _ | (split))

theorem firmwareEff_only (hphase : P .phase) (hserving : P .serving) (hintStatus : P .intStatus) (hmessages : P .messages) (hkeep : P .keep) (hfabric : P
    .fabric) (hhealth : P .health) (hseq : P .seq) {s₀ s : State} (h : changesOnly P s₀ s) : changesOnly P s₀ (firmwareEff s) := by
  fun_cases firmwareEff s
  all_goals (intros; repeat' first
      | with_reducible assumption | with_reducible apply runFirmware_only | with_reducible apply failWith_only | with_reducible apply setPhase_only
      | with_reducible apply startRoll_only | with_reducible apply modFabric_only | with_reducible apply only_ite | with_reducible apply only_mk
      | with_reducible exact .inl (by assumption) | with_reducible exact .inr rfl | with_reducible exact .inr ⟨rfl, rfl⟩
      | with_reducible exact .inr ⟨rfl, rfl, rfl⟩ | with_reducible exact .inr ⟨rfl, rfl, rfl, rfl⟩ | with_reducible exact .inr ⟨rfl, rfl, rfl, rfl, rfl⟩
      | with_reducible apply only_foldl | intro _ | (split))

theorem gateRun_only (hfreeCtr : P .freeCtr) (hstore : P .store) (hhealthSt : P .healthSt) (htasks : P .tasks) (hintStatus : P .intStatus) (hmessages : P
    .messages) (hfabric : P .fabric) (hhealth : P .health) (a0 : Nat) (a1 : Run) {s₀ s : State} (h : changesOnly P s₀ s) : changesOnly P s₀ (gateRun a0 a1 s) := by
  fun_cases gateRun a0 a1 s
  all_goals (intros; repeat' first
      | with_reducible assumption | with_reducible apply blameBank_only | with_reducible apply putStore_only | with_reducible apply haltTask_only
      | with_reducible apply modTask_only | with_reducible apply only_ite | with_reducible apply only_mk | with_reducible exact .inl (by assumption)
      | with_reducible exact .inr rfl | with_reducible exact .inr ⟨rfl, rfl⟩ | with_reducible exact .inr ⟨rfl, rfl, rfl⟩
      | with_reducible exact .inr ⟨rfl, rfl, rfl, rfl⟩ | with_reducible exact .inr ⟨rfl, rfl, rfl, rfl, rfl⟩ | with_reducible apply only_foldl | intro _
      | (split))

theorem putFlow_only (hfabric : P .fabric) (a0 : FlowSt) {s₀ s : State} (h : changesOnly P s₀ s) : changesOnly P s₀ (putFlow a0 s) := by
  fun_cases putFlow a0 s
  all_goals (intros; repeat' first
      | with_reducible assumption | with_reducible apply modFabric_only | with_reducible apply only_ite | with_reducible apply only_mk
      | with_reducible exact .inl (by assumption) | with_reducible exact .inr rfl | with_reducible exact .inr ⟨rfl, rfl⟩
      | with_reducible exact .inr ⟨rfl, rfl, rfl⟩ | with_reducible exact .inr ⟨rfl, rfl, rfl, rfl⟩ | with_reducible exact .inr ⟨rfl, rfl, rfl, rfl, rfl⟩
      | with_reducible apply only_foldl | intro _ | (split))

theorem landFlow_only (hfreeCtr : P .freeCtr) (hstore : P .store) (hhealthSt : P .healthSt) (htasks : P .tasks) (hintStatus : P .intStatus) (hmessages : P
    .messages) (hfabric : P .fabric) (hhealth : P .health) (a0 : Task) (a1 : Image) (a2 : FlowRec) (a3 : Frame) {s₀ s : State} (h : changesOnly P s₀ s) :
    changesOnly P s₀ (landFlow a0 a1 a2 a3 s) := by
  fun_cases landFlow a0 a1 a2 a3 s
  all_goals (intros; repeat' first
      | with_reducible assumption | with_reducible apply putFlow_only | with_reducible apply gateRun_only | with_reducible apply modStore_only
      | with_reducible apply haltTask_only | with_reducible apply modTask_only | with_reducible apply only_ite | with_reducible apply only_mk
      | with_reducible exact .inl (by assumption) | with_reducible exact .inr rfl | with_reducible exact .inr ⟨rfl, rfl⟩
      | with_reducible exact .inr ⟨rfl, rfl, rfl⟩ | with_reducible exact .inr ⟨rfl, rfl, rfl, rfl⟩ | with_reducible exact .inr ⟨rfl, rfl, rfl, rfl, rfl⟩
      | with_reducible apply only_foldl | intro _ | (split))

theorem putHeld_only (hfabric : P .fabric) (a0 : BitVec 64) (a1 : Nat) (a2 : List Frame) {s₀ s : State} (h : changesOnly P s₀ s) : changesOnly P s₀ (putHeld a0
    a1 a2 s) := by
  fun_cases putHeld a0 a1 a2 s
  all_goals (intros; repeat' first
      | with_reducible assumption | with_reducible apply modFabric_only | with_reducible apply only_ite | with_reducible apply only_mk
      | with_reducible exact .inl (by assumption) | with_reducible exact .inr rfl | with_reducible exact .inr ⟨rfl, rfl⟩
      | with_reducible exact .inr ⟨rfl, rfl, rfl⟩ | with_reducible exact .inr ⟨rfl, rfl, rfl, rfl⟩ | with_reducible exact .inr ⟨rfl, rfl, rfl, rfl, rfl⟩
      | with_reducible apply only_foldl | intro _ | (split))

theorem transitTake_only (htasks : P .tasks) (hfabric : P .fabric) (a0 : Task) (a1 : Image) (a2 : ClaimRec) (a3 : Frame) {s₀ s : State} (h : changesOnly P s₀ s)
    : changesOnly P s₀ (transitTake a0 a1 a2 a3 s) := by
  fun_cases transitTake a0 a1 a2 a3 s
  all_goals (intros; repeat' first
      | with_reducible assumption | with_reducible apply putHeld_only | with_reducible apply putFlow_only | with_reducible apply haltTask_only
      | with_reducible apply only_ite | with_reducible apply only_mk | with_reducible exact .inl (by assumption) | with_reducible exact .inr rfl
      | with_reducible exact .inr ⟨rfl, rfl⟩ | with_reducible exact .inr ⟨rfl, rfl, rfl⟩ | with_reducible exact .inr ⟨rfl, rfl, rfl, rfl⟩
      | with_reducible exact .inr ⟨rfl, rfl, rfl, rfl, rfl⟩ | with_reducible apply only_foldl | intro _ | (split))

theorem flowEff_only (hfreeCtr : P .freeCtr) (hstore : P .store) (hhealthSt : P .healthSt) (htasks : P .tasks) (hintStatus : P .intStatus) (hmessages : P
    .messages) (hfabric : P .fabric) (hhealth : P .health) (a1 : Nat) (a2 : Frame) {s₀ s : State} (h : changesOnly P s₀ s) : changesOnly P s₀ (flowEff s a1 a2) := by
  fun_cases flowEff s a1 a2
  all_goals (intros; repeat' first
      | with_reducible assumption | with_reducible apply transitTake_only | with_reducible apply landFlow_only | with_reducible apply takeFrame_only
      | with_reducible apply dropFrame_only | with_reducible apply only_ite | with_reducible apply only_mk | with_reducible exact .inl (by assumption)
      | with_reducible exact .inr rfl | with_reducible exact .inr ⟨rfl, rfl⟩ | with_reducible exact .inr ⟨rfl, rfl, rfl⟩
      | with_reducible exact .inr ⟨rfl, rfl, rfl, rfl⟩ | with_reducible exact .inr ⟨rfl, rfl, rfl, rfl, rfl⟩ | with_reducible apply only_foldl | intro _
      | (split))

theorem flushDone_only (hseq : P .seq) {s₀ s : State} (h : changesOnly P s₀ s) : changesOnly P s₀ (flushDone s) := by
  fun_cases flushDone s
  all_goals (intros; repeat' first
      | with_reducible assumption | with_reducible apply modSeq_only | with_reducible apply only_ite | with_reducible apply only_mk
      | with_reducible exact .inl (by assumption) | with_reducible exact .inr rfl | with_reducible exact .inr ⟨rfl, rfl⟩
      | with_reducible exact .inr ⟨rfl, rfl, rfl⟩ | with_reducible exact .inr ⟨rfl, rfl, rfl, rfl⟩ | with_reducible exact .inr ⟨rfl, rfl, rfl, rfl, rfl⟩
      | with_reducible apply only_foldl | intro _ | (split))

theorem forgetRound_only (hfabric : P .fabric) (a0 : Task) {s₀ s : State} (h : changesOnly P s₀ s) : changesOnly P s₀ (forgetRound a0 s) := by
  fun_cases forgetRound a0 s
  all_goals (intros; repeat' first
      | with_reducible assumption | with_reducible apply modFabric_only | with_reducible apply only_ite | with_reducible apply only_mk
      | with_reducible exact .inl (by assumption) | with_reducible exact .inr rfl | with_reducible exact .inr ⟨rfl, rfl⟩
      | with_reducible exact .inr ⟨rfl, rfl, rfl⟩ | with_reducible exact .inr ⟨rfl, rfl, rfl, rfl⟩ | with_reducible exact .inr ⟨rfl, rfl, rfl, rfl, rfl⟩
      | with_reducible apply only_foldl | intro _ | (split))

theorem forgetWrite_only (hkeep : P .keep) (hhealth : P .health) (hseq : P .seq) (a0 : Nat) {s₀ s : State} (h : changesOnly P s₀ s) : changesOnly P s₀
    (forgetWrite a0 s) := by
  fun_cases forgetWrite a0 s
  all_goals (intros; repeat' first
      | with_reducible assumption | with_reducible apply modKeep_only | with_reducible apply modSeq_only | with_reducible apply modHealth_only
      | with_reducible apply only_ite | with_reducible apply only_mk | with_reducible exact .inl (by assumption) | with_reducible exact .inr rfl
      | with_reducible exact .inr ⟨rfl, rfl⟩ | with_reducible exact .inr ⟨rfl, rfl, rfl⟩ | with_reducible exact .inr ⟨rfl, rfl, rfl, rfl⟩
      | with_reducible exact .inr ⟨rfl, rfl, rfl, rfl, rfl⟩ | with_reducible apply only_foldl | intro _ | (split))

theorem forwardFlow_only (hfabric : P .fabric) (a0 : Nat) (a1 : List Frame) {s₀ s : State} (h : changesOnly P s₀ s) : changesOnly P s₀ (forwardFlow a0 a1 s) := by
  fun_induction forwardFlow a0 a1 s
  all_goals intros
  all_goals first | with_reducible assumption | skip
  all_goals repeat' first
      | with_reducible assumption | with_reducible apply_assumption | with_reducible apply dropFrame_only | with_reducible apply modFabric_only
      | with_reducible apply only_ite | with_reducible apply only_mk | with_reducible exact .inl (by assumption) | with_reducible exact .inr rfl
      | with_reducible exact .inr ⟨rfl, rfl⟩ | with_reducible exact .inr ⟨rfl, rfl, rfl⟩ | with_reducible exact .inr ⟨rfl, rfl, rfl, rfl⟩
      | with_reducible exact .inr ⟨rfl, rfl, rfl, rfl, rfl⟩ | with_reducible apply only_foldl | intro _ | (split)

theorem forwardTime_only (hfabric : P .fabric) (a0 : Nat) (a1 : Frame) {s₀ s : State} (h : changesOnly P s₀ s) : changesOnly P s₀ (forwardTime a0 a1 s) := by
  fun_cases forwardTime a0 a1 s
  all_goals (intros; repeat' first
      | with_reducible assumption | with_reducible apply flood_only | with_reducible apply dropFrame_only | with_reducible apply modFabric_only
      | with_reducible apply only_ite | with_reducible apply only_mk | with_reducible exact .inl (by assumption) | with_reducible exact .inr rfl
      | with_reducible exact .inr ⟨rfl, rfl⟩ | with_reducible exact .inr ⟨rfl, rfl, rfl⟩ | with_reducible exact .inr ⟨rfl, rfl, rfl, rfl⟩
      | with_reducible exact .inr ⟨rfl, rfl, rfl, rfl, rfl⟩ | with_reducible apply only_foldl | intro _ | (split))

theorem frameRouteEff_only (hfabric : P .fabric) (a1 : Nat) (a2 : Frame) {s₀ s : State} (h : changesOnly P s₀ s) : changesOnly P s₀ (frameRouteEff s a1 a2) := by
  fun_cases frameRouteEff s a1 a2
  all_goals (intros; repeat' first
      | with_reducible assumption | with_reducible apply forwardTime_only | with_reducible apply deliverHere_only | with_reducible apply dropFrame_only
      | with_reducible apply modFabric_only | with_reducible apply only_ite | with_reducible apply only_mk | with_reducible exact .inl (by assumption)
      | with_reducible exact .inr rfl | with_reducible exact .inr ⟨rfl, rfl⟩ | with_reducible exact .inr ⟨rfl, rfl, rfl⟩
      | with_reducible exact .inr ⟨rfl, rfl, rfl, rfl⟩ | with_reducible exact .inr ⟨rfl, rfl, rfl, rfl, rfl⟩ | with_reducible apply only_foldl | intro _
      | (split))

theorem pumpReq_only (hrequests : P .requests) (hmessages : P .messages) {s₀ s : State} (h : changesOnly P s₀ s) : changesOnly P s₀ (pumpReq s) := by
  fun_cases pumpReq s
  all_goals (intros; repeat' first
      | with_reducible assumption | with_reducible apply issueReq_only | with_reducible apply only_ite | with_reducible apply only_mk
      | with_reducible exact .inl (by assumption) | with_reducible exact .inr rfl | with_reducible exact .inr ⟨rfl, rfl⟩
      | with_reducible exact .inr ⟨rfl, rfl, rfl⟩ | with_reducible exact .inr ⟨rfl, rfl, rfl, rfl⟩ | with_reducible exact .inr ⟨rfl, rfl, rfl, rfl, rfl⟩
      | with_reducible apply only_foldl | intro _ | (split))

theorem freeReq_only (hrequests : P .requests) (hmessages : P .messages) (a0 : Nat) {s₀ s : State} (h : changesOnly P s₀ s) : changesOnly P s₀ (freeReq a0 s) := by
  fun_cases freeReq a0 s
  all_goals (intros; repeat' first
      | with_reducible assumption | with_reducible apply pumpReq_only | with_reducible apply modHost_only | with_reducible apply only_ite
      | with_reducible apply only_mk | with_reducible exact .inl (by assumption) | with_reducible exact .inr rfl | with_reducible exact .inr ⟨rfl, rfl⟩
      | with_reducible exact .inr ⟨rfl, rfl, rfl⟩ | with_reducible exact .inr ⟨rfl, rfl, rfl, rfl⟩ | with_reducible exact .inr ⟨rfl, rfl, rfl, rfl, rfl⟩
      | with_reducible apply only_foldl | intro _ | (split))

theorem freezeEff_only (hmboxes : P .mboxes) (hrequests : P .requests) (hmessages : P .messages) (hsnap : P .snap) (a1 : Nat) (a2 : MsgWord) {s₀ s : State} (h :
    changesOnly P s₀ s) : changesOnly P s₀ (freezeEff s a1 a2) := by
  fun_cases freezeEff s a1 a2
  all_goals (intros; repeat' first
      | with_reducible assumption | with_reducible apply await_only | with_reducible apply modSnap_only | with_reducible apply respond_only
      | with_reducible apply only_ite | with_reducible apply only_mk | with_reducible exact .inl (by assumption) | with_reducible exact .inr rfl
      | with_reducible exact .inr ⟨rfl, rfl⟩ | with_reducible exact .inr ⟨rfl, rfl, rfl⟩ | with_reducible exact .inr ⟨rfl, rfl, rfl, rfl⟩
      | with_reducible exact .inr ⟨rfl, rfl, rfl, rfl, rfl⟩ | with_reducible apply only_foldl | intro _ | (split))

theorem freezeEndEff_only (hmboxes : P .mboxes) (hintStatus : P .intStatus) (hrequests : P .requests) (hmessages : P .messages) (hsnap : P .snap) {s₀ s : State}
    (h : changesOnly P s₀ s) : changesOnly P s₀ (freezeEndEff s) := by
  fun_cases freezeEndEff s
  all_goals (intros; repeat' first
      | with_reducible assumption | with_reducible apply answerReleases_only | with_reducible apply modSnap_only | with_reducible apply raiseInt_only
      | with_reducible apply only_ite | with_reducible apply only_mk | with_reducible exact .inl (by assumption) | with_reducible exact .inr rfl
      | with_reducible exact .inr ⟨rfl, rfl⟩ | with_reducible exact .inr ⟨rfl, rfl, rfl⟩ | with_reducible exact .inr ⟨rfl, rfl, rfl, rfl⟩
      | with_reducible exact .inr ⟨rfl, rfl, rfl, rfl, rfl⟩ | with_reducible apply only_foldl | intro _ | (split))

theorem fwUpdateEff_only (hmboxes : P .mboxes) (hrequests : P .requests) (hmessages : P .messages) (hkeep : P .keep) (a1 : Nat) (a2 : MsgWord) (a3 : Option
    (List Byte)) {s₀ s : State} (h : changesOnly P s₀ s) : changesOnly P s₀ (fwUpdateEff s a1 a2 a3) := by
  fun_cases fwUpdateEff s a1 a2 a3
  all_goals (intros; repeat' first
      | with_reducible assumption | with_reducible apply queueKeep_only | with_reducible apply await_only | with_reducible apply respond_only
      | with_reducible apply only_ite | with_reducible apply only_mk | with_reducible exact .inl (by assumption) | with_reducible exact .inr rfl
      | with_reducible exact .inr ⟨rfl, rfl⟩ | with_reducible exact .inr ⟨rfl, rfl, rfl⟩ | with_reducible exact .inr ⟨rfl, rfl, rfl, rfl⟩
      | with_reducible exact .inr ⟨rfl, rfl, rfl, rfl, rfl⟩ | with_reducible apply only_foldl | intro _ | (split))

theorem gapFillEndEff_only (hpower : P .power) (a1 : Nat) (a2 : Nat) {s₀ s : State} (h : changesOnly P s₀ s) : changesOnly P s₀ (gapFillEndEff s a1 a2) := by
  fun_cases gapFillEndEff s a1 a2
  all_goals (intros; repeat' first
      | with_reducible assumption | with_reducible apply endGap_only | with_reducible apply enterHold_only | with_reducible apply only_ite
      | with_reducible apply only_mk | with_reducible exact .inl (by assumption) | with_reducible exact .inr rfl | with_reducible exact .inr ⟨rfl, rfl⟩
      | with_reducible exact .inr ⟨rfl, rfl, rfl⟩ | with_reducible exact .inr ⟨rfl, rfl, rfl, rfl⟩ | with_reducible exact .inr ⟨rfl, rfl, rfl, rfl, rfl⟩
      | with_reducible apply only_foldl | intro _ | (split))

theorem gateWord_only (hlinks : P .links) (a0 : Nat) (a1 : Nat) (a2 : BitVec 32) {s₀ s : State} (h : changesOnly P s₀ s) : changesOnly P s₀ (gateWord a0 a1 a2
    s) := by
  fun_cases gateWord a0 a1 a2 s
  all_goals (intros; repeat' first
      | with_reducible assumption | with_reducible apply modPort_only | with_reducible apply only_ite | with_reducible apply only_mk
      | with_reducible exact .inl (by assumption) | with_reducible exact .inr rfl | with_reducible exact .inr ⟨rfl, rfl⟩
      | with_reducible exact .inr ⟨rfl, rfl, rfl⟩ | with_reducible exact .inr ⟨rfl, rfl, rfl, rfl⟩ | with_reducible exact .inr ⟨rfl, rfl, rfl, rfl, rfl⟩
      | with_reducible apply only_foldl | intro _ | (split))

theorem giveLanes_only (hlinks : P .links) (hhealth : P .health) (a0 : Nat) (a1 : Nat → Option Nat) (a2 : List Nat) (a3 : Nat) {s₀ s : State} (h : changesOnly P
    s₀ s) : changesOnly P s₀ (giveLanes a0 a1 a2 a3 s) := by
  induction a2 generalizing a0 a3 s with
  | nil => exact h
  | cons x xs ih =>
    rw [giveLanes]
    repeat' first
      | with_reducible apply ih
      | with_reducible assumption | with_reducible apply_assumption | with_reducible apply modPort_only | with_reducible apply only_ite
      | with_reducible apply only_foldl | intro _ | (split) | with_reducible apply only_mk | with_reducible exact .inl (by assumption)
      | with_reducible exact .inr rfl | with_reducible exact .inr ⟨rfl, rfl⟩ | with_reducible exact .inr ⟨rfl, rfl, rfl⟩
      | with_reducible exact .inr ⟨rfl, rfl, rfl, rfl⟩ | with_reducible exact .inr ⟨rfl, rfl, rfl, rfl, rfl⟩

theorem globalWrite_only (hfreeCtr : P .freeCtr) (hstore : P .store) (hmboxes : P .mboxes) (hrequests : P .requests) (hmessages : P .messages) (hhatch : P
    .hatch) (a0 : BitVec 32) {s₀ s : State} (h : changesOnly P s₀ s) : changesOnly P s₀ (globalWrite a0 s) := by
  fun_cases globalWrite a0 s
  all_goals (intros; repeat' first
      | with_reducible assumption | with_reducible apply disableAll_only | with_reducible apply modShell_only | with_reducible apply only_ite
      | with_reducible apply only_mk | with_reducible exact .inl (by assumption) | with_reducible exact .inr rfl | with_reducible exact .inr ⟨rfl, rfl⟩
      | with_reducible exact .inr ⟨rfl, rfl, rfl⟩ | with_reducible exact .inr ⟨rfl, rfl, rfl, rfl⟩ | with_reducible exact .inr ⟨rfl, rfl, rfl, rfl, rfl⟩
      | with_reducible apply only_foldl | intro _ | (split))

theorem gotCopy_only (hmboxes : P .mboxes) (hrequests : P .requests) (hmessages : P .messages) (a0 : Nat) (a1 : Nat) (a2 : Nat) {s₀ s : State} (h : changesOnly
    P s₀ s) : changesOnly P s₀ (gotCopy a0 a1 a2 s) := by
  fun_cases gotCopy a0 a1 a2 s
  all_goals (intros; repeat' first
      | with_reducible assumption | with_reducible apply endCopy_only | with_reducible apply only_ite | with_reducible apply only_mk
      | with_reducible exact .inl (by assumption) | with_reducible exact .inr rfl | with_reducible exact .inr ⟨rfl, rfl⟩
      | with_reducible exact .inr ⟨rfl, rfl, rfl⟩ | with_reducible exact .inr ⟨rfl, rfl, rfl, rfl⟩ | with_reducible exact .inr ⟨rfl, rfl, rfl, rfl, rfl⟩
      | with_reducible apply only_foldl | intro _ | (split))

theorem gotDesc_only (hctxs : P .ctxs) (hqueues : P .queues) (hrequests : P .requests) (hmessages : P .messages) (hporch : P .porch) (a0 : Nat) (a1 : Nat) (a2 :
    Nat) (a3 : List Byte) {s₀ s : State} (h : changesOnly P s₀ s) : changesOnly P s₀ (gotDesc a0 a1 a2 a3 s) := by
  fun_cases gotDesc a0 a1 a2 a3 s
  all_goals (intros; repeat' first
      | with_reducible assumption | with_reducible apply ctxFault_only | with_reducible apply modQueue_only | with_reducible apply only_ite
      | with_reducible apply only_mk | with_reducible exact .inl (by assumption) | with_reducible exact .inr rfl | with_reducible exact .inr ⟨rfl, rfl⟩
      | with_reducible exact .inr ⟨rfl, rfl, rfl⟩ | with_reducible exact .inr ⟨rfl, rfl, rfl, rfl⟩ | with_reducible exact .inr ⟨rfl, rfl, rfl, rfl, rfl⟩
      | with_reducible apply only_foldl | intro _ | (split))

theorem gotRecord_only (hmboxes : P .mboxes) (hctxs : P .ctxs) (hqueues : P .queues) (hfences : P .fences) (htasks : P .tasks) (hrequests : P .requests)
    (hmessages : P .messages) (hporch : P .porch) (hseq : P .seq) (a0 : Nat) (a1 : Nat) (a2 : Nat) {s₀ s : State} (h : changesOnly P s₀ s) : changesOnly P s₀
    (gotRecord a0 a1 a2 s) := by
  unfold gotRecord
  try dsimp only
  repeat' first
      | with_reducible assumption | with_reducible apply setFence_only | with_reducible apply endQueue_only | with_reducible apply ctxFault_only
      | with_reducible apply resetAnswer_only | with_reducible apply tryRecord_only | with_reducible apply modTask_only | with_reducible apply only_ite
      | with_reducible apply only_foldl | intro _ | (split) | with_reducible apply only_mk | with_reducible exact .inl (by assumption)
      | with_reducible exact .inr rfl | with_reducible exact .inr ⟨rfl, rfl⟩ | with_reducible exact .inr ⟨rfl, rfl, rfl⟩
      | with_reducible exact .inr ⟨rfl, rfl, rfl, rfl⟩ | with_reducible exact .inr ⟨rfl, rfl, rfl, rfl, rfl⟩

theorem gotReq_only (hmboxes : P .mboxes) (a0 : Nat) (a1 : Nat) (a2 : List Byte) {s₀ s : State} (h : changesOnly P s₀ s) : changesOnly P s₀ (gotReq a0 a1 a2 s) := by
  fun_cases gotReq a0 a1 a2 s
  all_goals (intros; repeat' first
      | with_reducible assumption | with_reducible apply modMbox_only | with_reducible apply only_ite | with_reducible apply only_mk
      | with_reducible exact .inl (by assumption) | with_reducible exact .inr rfl | with_reducible exact .inr ⟨rfl, rfl⟩
      | with_reducible exact .inr ⟨rfl, rfl, rfl⟩ | with_reducible exact .inr ⟨rfl, rfl, rfl, rfl⟩ | with_reducible exact .inr ⟨rfl, rfl, rfl, rfl, rfl⟩
      | with_reducible apply only_foldl | intro _ | (split))

theorem gotRspAck_only (hmboxes : P .mboxes) (a0 : Nat) (a1 : Nat) {s₀ s : State} (h : changesOnly P s₀ s) : changesOnly P s₀ (gotRspAck a0 a1 s) := by
  fun_cases gotRspAck a0 a1 s
  all_goals (intros; repeat' first
      | with_reducible assumption | with_reducible apply modMbox_only | with_reducible apply only_ite | with_reducible apply only_mk
      | with_reducible exact .inl (by assumption) | with_reducible exact .inr rfl | with_reducible exact .inr ⟨rfl, rfl⟩
      | with_reducible exact .inr ⟨rfl, rfl, rfl⟩ | with_reducible exact .inr ⟨rfl, rfl, rfl, rfl⟩ | with_reducible exact .inr ⟨rfl, rfl, rfl, rfl, rfl⟩
      | with_reducible apply only_foldl | intro _ | (split))

theorem lineError_only (hctxs : P .ctxs) (hqueues : P .queues) (hrequests : P .requests) (hmessages : P .messages) (hporch : P .porch) (a0 : Nat) {s₀ s : State}
    (h : changesOnly P s₀ s) : changesOnly P s₀ (lineError a0 s) := by
  unfold lineError
  try dsimp only
  repeat' first
      | with_reducible assumption | with_reducible apply ctxFault_only | with_reducible apply modHost_only | with_reducible apply only_ite
      | with_reducible apply only_foldl | intro _ | (split) | with_reducible apply only_mk | with_reducible exact .inl (by assumption)
      | with_reducible exact .inr rfl | with_reducible exact .inr ⟨rfl, rfl⟩ | with_reducible exact .inr ⟨rfl, rfl, rfl⟩
      | with_reducible exact .inr ⟨rfl, rfl, rfl, rfl⟩ | with_reducible exact .inr ⟨rfl, rfl, rfl, rfl, rfl⟩

theorem porchEvict_only (hrequests : P .requests) (hmessages : P .messages) (hporch : P .porch) (a0 : Nat) {s₀ s : State} (h : changesOnly P s₀ s) : changesOnly
    P s₀ (porchEvict a0 s) := by
  fun_cases porchEvict a0 s
  all_goals (intros; repeat' first
      | with_reducible assumption | with_reducible apply issueReq_only | with_reducible apply modHost_only | with_reducible apply only_ite
      | with_reducible apply only_mk | with_reducible exact .inl (by assumption) | with_reducible exact .inr rfl | with_reducible exact .inr ⟨rfl, rfl⟩
      | with_reducible exact .inr ⟨rfl, rfl, rfl⟩ | with_reducible exact .inr ⟨rfl, rfl, rfl, rfl⟩ | with_reducible exact .inr ⟨rfl, rfl, rfl, rfl, rfl⟩
      | with_reducible apply only_foldl | intro _ | (split))

theorem porchInstall_only (hrequests : P .requests) (hmessages : P .messages) (hporch : P .porch) (a0 : Nat) (a1 : Bool) (a2 : List Byte) {s₀ s : State} (h :
    changesOnly P s₀ s) : changesOnly P s₀ (porchInstall a0 a1 a2 s) := by
  fun_cases porchInstall a0 a1 a2 s
  all_goals (intros; repeat' first
      | with_reducible assumption | with_reducible apply porchEvict_only | with_reducible apply modHost_only | with_reducible apply only_ite
      | with_reducible apply only_mk | with_reducible exact .inl (by assumption) | with_reducible exact .inr rfl | with_reducible exact .inr ⟨rfl, rfl⟩
      | with_reducible exact .inr ⟨rfl, rfl, rfl⟩ | with_reducible exact .inr ⟨rfl, rfl, rfl, rfl⟩ | with_reducible exact .inr ⟨rfl, rfl, rfl, rfl, rfl⟩
      | with_reducible apply only_foldl | intro _ | (split))

theorem gotAnswer_only (hmboxes : P .mboxes) (hctxs : P .ctxs) (hqueues : P .queues) (hfences : P .fences) (htasks : P .tasks) (hrequests : P .requests)
    (hmessages : P .messages) (hporch : P .porch) (hseq : P .seq) (a0 : HostReq) (a1 : Nat) (a2 : List Byte) {s₀ s : State} (h : changesOnly P s₀ s) :
    changesOnly P s₀ (gotAnswer a0 a1 a2 s) := by
  fun_cases gotAnswer a0 a1 a2 s
  all_goals (intros; repeat' first
      | with_reducible assumption | with_reducible apply porchInstall_only | with_reducible apply lineError_only | with_reducible apply gotRspAck_only
      | with_reducible apply gotReq_only | with_reducible apply gotRecord_only | with_reducible apply gotDesc_only | with_reducible apply gotCopy_only
      | with_reducible apply porchWant_only | with_reducible apply doorError_only | with_reducible apply createDone_only | with_reducible apply only_ite
      | with_reducible apply only_mk | with_reducible exact .inl (by assumption) | with_reducible exact .inr rfl | with_reducible exact .inr ⟨rfl, rfl⟩
      | with_reducible exact .inr ⟨rfl, rfl, rfl⟩ | with_reducible exact .inr ⟨rfl, rfl, rfl, rfl⟩ | with_reducible exact .inr ⟨rfl, rfl, rfl, rfl, rfl⟩
      | with_reducible apply only_foldl | intro _ | (split))

theorem gotTable_only (hfreeCtr : P .freeCtr) (hfabric : P .fabric) (a0 : BitVec 64) (a1 : Bool) (a2 : Nat) (a3 : List (Nat × BitVec 32)) {s₀ s : State} (h :
    changesOnly P s₀ s) : changesOnly P s₀ (gotTable a0 a1 a2 a3 s) := by
  fun_cases gotTable a0 a1 a2 a3 s
  all_goals (intros; repeat' first
      | with_reducible assumption | with_reducible apply reissue_only | with_reducible apply modFabric_only | with_reducible apply only_ite
      | with_reducible apply only_mk | with_reducible exact .inl (by assumption) | with_reducible exact .inr rfl | with_reducible exact .inr ⟨rfl, rfl⟩
      | with_reducible exact .inr ⟨rfl, rfl, rfl⟩ | with_reducible exact .inr ⟨rfl, rfl, rfl, rfl⟩ | with_reducible exact .inr ⟨rfl, rfl, rfl, rfl, rfl⟩
      | with_reducible apply only_foldl | intro _ | (split))

theorem takeUpdate_only (hfabricSt : P .fabricSt) (hintStatus : P .intStatus) (hmessages : P .messages) (hfabric : P .fabric) (htime : P .time) (a0 : RouteUpd)
    {s₀ s : State} (h : changesOnly P s₀ s) : changesOnly P s₀ (takeUpdate a0 s) := by
  fun_cases takeUpdate a0 s
  all_goals (intros; repeat' first
      | with_reducible assumption | with_reducible apply drainOn_only | with_reducible apply takeAdmission_only | with_reducible apply raiseInt_only
      | with_reducible apply modFabric_only | with_reducible apply only_ite | with_reducible apply only_mk | with_reducible exact .inl (by assumption)
      | with_reducible exact .inr rfl | with_reducible exact .inr ⟨rfl, rfl⟩ | with_reducible exact .inr ⟨rfl, rfl, rfl⟩
      | with_reducible exact .inr ⟨rfl, rfl, rfl, rfl⟩ | with_reducible exact .inr ⟨rfl, rfl, rfl, rfl, rfl⟩ | with_reducible apply only_foldl | intro _
      | (split))

theorem gotUpdate_only (hfabricSt : P .fabricSt) (hintStatus : P .intStatus) (hmessages : P .messages) (hfabric : P .fabric) (htime : P .time) (a0 : RouteUpd)
    (a1 : List (Nat × BitVec 32)) {s₀ s : State} (h : changesOnly P s₀ s) : changesOnly P s₀ (gotUpdate a0 a1 s) := by
  fun_cases gotUpdate a0 a1 s
  all_goals (intros; repeat' first
      | with_reducible assumption | with_reducible apply takeUpdate_only | with_reducible apply modFabric_only | with_reducible apply only_ite
      | with_reducible apply only_mk | with_reducible exact .inl (by assumption) | with_reducible exact .inr rfl | with_reducible exact .inr ⟨rfl, rfl⟩
      | with_reducible exact .inr ⟨rfl, rfl, rfl⟩ | with_reducible exact .inr ⟨rfl, rfl, rfl, rfl⟩ | with_reducible exact .inr ⟨rfl, rfl, rfl, rfl, rfl⟩
      | with_reducible apply only_foldl | intro _ | (split))

theorem granuleFreeEff_only (hstore : P .store) (hmboxes : P .mboxes) (himages : P .images) (hrequests : P .requests) (hmessages : P .messages) (a1 : Nat) (a2 :
    MsgWord) {s₀ s : State} (h : changesOnly P s₀ s) : changesOnly P s₀ (granuleFreeEff s a1 a2) := by
  fun_cases granuleFreeEff s a1 a2
  all_goals (intros; repeat' first
      | with_reducible assumption | with_reducible apply beginClose_only | with_reducible apply respond_only | with_reducible apply only_ite
      | with_reducible apply only_mk | with_reducible exact .inl (by assumption) | with_reducible exact .inr rfl | with_reducible exact .inr ⟨rfl, rfl⟩
      | with_reducible exact .inr ⟨rfl, rfl, rfl⟩ | with_reducible exact .inr ⟨rfl, rfl, rfl, rfl⟩ | with_reducible exact .inr ⟨rfl, rfl, rfl, rfl, rfl⟩
      | with_reducible apply only_foldl | intro _ | (split))

theorem hallWord_only (hstore : P .store) (a0 : Nat) (a1 : Nat) (a2 : BitVec 32) {s₀ s : State} (h : changesOnly P s₀ s) : changesOnly P s₀ (hallWord a0 a1 a2
    s) := by
  fun_cases hallWord a0 a1 a2 s
  all_goals (intros; repeat' first
      | with_reducible assumption | with_reducible apply modStore_only | with_reducible apply only_ite | with_reducible apply only_mk
      | with_reducible exact .inl (by assumption) | with_reducible exact .inr rfl | with_reducible exact .inr ⟨rfl, rfl⟩
      | with_reducible exact .inr ⟨rfl, rfl, rfl⟩ | with_reducible exact .inr ⟨rfl, rfl, rfl, rfl⟩ | with_reducible exact .inr ⟨rfl, rfl, rfl, rfl, rfl⟩
      | with_reducible apply only_foldl | intro _ | (split))

theorem recvLanded_only (hrooms : P .rooms) (a0 : Nat) (a1 : Nat) {s₀ s : State} (h : changesOnly P s₀ s) : changesOnly P s₀ (recvLanded a0 a1 s) := by
  fun_cases recvLanded a0 a1 s
  all_goals (intros; repeat' first
      | with_reducible assumption | with_reducible apply modRoom_only | with_reducible apply only_ite | with_reducible apply only_mk
      | with_reducible exact .inl (by assumption) | with_reducible exact .inr rfl | with_reducible exact .inr ⟨rfl, rfl⟩
      | with_reducible exact .inr ⟨rfl, rfl, rfl⟩ | with_reducible exact .inr ⟨rfl, rfl, rfl, rfl⟩ | with_reducible exact .inr ⟨rfl, rfl, rfl, rfl, rfl⟩
      | with_reducible apply only_foldl | intro _ | (split))

theorem landHalo_only (hfreeCtr : P .freeCtr) (hstore : P .store) (hrooms : P .rooms) (htasks : P .tasks) (hintStatus : P .intStatus) (hmessages : P .messages)
    (hhealth : P .health) (a0 : Nat) (a1 : Nat) (a2 : HaloSlot) (a3 : List Byte) {s₀ s : State} (h : changesOnly P s₀ s) : changesOnly P s₀ (landHalo a0 a1 a2
    a3 s) := by
  fun_cases landHalo a0 a1 a2 a3 s
  all_goals (intros; repeat' first
      | with_reducible assumption | with_reducible apply recvLanded_only | with_reducible apply commitRun_only | with_reducible apply only_ite
      | with_reducible apply only_mk | with_reducible exact .inl (by assumption) | with_reducible exact .inr rfl | with_reducible exact .inr ⟨rfl, rfl⟩
      | with_reducible exact .inr ⟨rfl, rfl, rfl⟩ | with_reducible exact .inr ⟨rfl, rfl, rfl, rfl⟩ | with_reducible exact .inr ⟨rfl, rfl, rfl, rfl, rfl⟩
      | with_reducible apply only_foldl | intro _ | (split))

theorem markSent_only (hrooms : P .rooms) (a0 : Nat) (a1 : Nat) (a2 : Nat) (a3 : Nat) (a4 : Nat) {s₀ s : State} (h : changesOnly P s₀ s) : changesOnly P s₀
    (markSent a0 a1 a2 a3 a4 s) := by
  fun_cases markSent a0 a1 a2 a3 a4 s
  all_goals (intros; repeat' first
      | with_reducible assumption | with_reducible apply modRoom_only | with_reducible apply only_ite | with_reducible apply only_mk
      | with_reducible exact .inl (by assumption) | with_reducible exact .inr rfl | with_reducible exact .inr ⟨rfl, rfl⟩
      | with_reducible exact .inr ⟨rfl, rfl, rfl⟩ | with_reducible exact .inr ⟨rfl, rfl, rfl, rfl⟩ | with_reducible exact .inr ⟨rfl, rfl, rfl, rfl, rfl⟩
      | with_reducible apply only_foldl | intro _ | (split))

theorem haloRecv_only (hfreeCtr : P .freeCtr) (hstore : P .store) (hrooms : P .rooms) (htasks : P .tasks) (hintStatus : P .intStatus) (hmessages : P .messages)
    (hhealth : P .health) (a0 : Nat) (a1 : HaloF) (a2 : Room) (a3 : Nat) {s₀ s : State} (h : changesOnly P s₀ s) : changesOnly P s₀ (haloRecv a0 a1 a2 a3 s) := by
  fun_cases haloRecv a0 a1 a2 a3 s
  all_goals (intros; repeat' first
      | with_reducible assumption | with_reducible apply markSent_only | with_reducible apply landHalo_only | with_reducible apply modRoom_only
      | with_reducible apply only_ite | with_reducible apply only_mk | with_reducible exact .inl (by assumption) | with_reducible exact .inr rfl
      | with_reducible exact .inr ⟨rfl, rfl⟩ | with_reducible exact .inr ⟨rfl, rfl, rfl⟩ | with_reducible exact .inr ⟨rfl, rfl, rfl, rfl⟩
      | with_reducible exact .inr ⟨rfl, rfl, rfl, rfl, rfl⟩ | with_reducible apply only_foldl | intro _ | (split))

theorem haloSend_only (hfreeCtr : P .freeCtr) (hstore : P .store) (hrooms : P .rooms) (htasks : P .tasks) (hintStatus : P .intStatus) (hmessages : P .messages)
    (hhealth : P .health) (a0 : Nat) (a1 : HaloF) (a2 : Env) (a3 : Room) (a4 : Task) (a5 : Nat) {s₀ s : State} (h : changesOnly P s₀ s) : changesOnly P s₀
    (haloSend a0 a1 a2 a3 a4 a5 s) := by
  fun_cases haloSend a0 a1 a2 a3 a4 a5 s
  all_goals (intros; repeat' first
      | with_reducible assumption | with_reducible apply markSent_only | with_reducible apply landHalo_only | with_reducible apply commitRun_only
      | with_reducible apply modRoom_only | with_reducible apply only_ite | with_reducible apply only_mk | with_reducible exact .inl (by assumption)
      | with_reducible exact .inr rfl | with_reducible exact .inr ⟨rfl, rfl⟩ | with_reducible exact .inr ⟨rfl, rfl, rfl⟩
      | with_reducible exact .inr ⟨rfl, rfl, rfl, rfl⟩ | with_reducible exact .inr ⟨rfl, rfl, rfl, rfl, rfl⟩ | with_reducible apply only_foldl | intro _
      | (split))

theorem haloBody_only (hfreeCtr : P .freeCtr) (hstore : P .store) (hrooms : P .rooms) (htasks : P .tasks) (hintStatus : P .intStatus) (hmessages : P .messages)
    (hpower : P .power) (hhealth : P .health) (a0 : Nat) (a1 : OpWord) (a2 : Env) (a3 : Room) (a4 : Task) (a5 : Nat) {s₀ s : State} (h : changesOnly P s₀ s) :
    changesOnly P s₀ (haloBody a0 a1 a2 a3 a4 a5 s) := by
  fun_cases haloBody a0 a1 a2 a3 a4 a5 s
  all_goals (intros; repeat' first
      | with_reducible assumption | with_reducible apply haloSend_only | with_reducible apply haloRecv_only | with_reducible apply engage_only
      | with_reducible apply only_ite | with_reducible apply only_mk | with_reducible exact .inl (by assumption) | with_reducible exact .inr rfl
      | with_reducible exact .inr ⟨rfl, rfl⟩ | with_reducible exact .inr ⟨rfl, rfl, rfl⟩ | with_reducible exact .inr ⟨rfl, rfl, rfl, rfl⟩
      | with_reducible exact .inr ⟨rfl, rfl, rfl, rfl, rfl⟩ | with_reducible apply only_foldl | intro _ | (split))

theorem haltedFrameEff_only (htasks : P .tasks) (a0 : Frame) {s₀ s : State} (h : changesOnly P s₀ s) : changesOnly P s₀ (haltedFrameEff a0 s) := by
  fun_cases haltedFrameEff a0 s
  all_goals (intros; repeat' first
      | with_reducible assumption | with_reducible apply markHalted_only | with_reducible apply only_ite | with_reducible apply only_mk
      | with_reducible exact .inl (by assumption) | with_reducible exact .inr rfl | with_reducible exact .inr ⟨rfl, rfl⟩
      | with_reducible exact .inr ⟨rfl, rfl, rfl⟩ | with_reducible exact .inr ⟨rfl, rfl, rfl, rfl⟩ | with_reducible exact .inr ⟨rfl, rfl, rfl, rfl, rfl⟩
      | with_reducible apply only_foldl | intro _ | (split))

theorem haltedTimeoutEff_only (htasks : P .tasks) (a1 : Nat) {s₀ s : State} (h : changesOnly P s₀ s) : changesOnly P s₀ (haltedTimeoutEff s a1) := by
  fun_cases haltedTimeoutEff s a1
  all_goals (intros; repeat' first
      | with_reducible assumption | with_reducible apply modTask_only | with_reducible apply only_ite | with_reducible apply only_mk
      | with_reducible exact .inl (by assumption) | with_reducible exact .inr rfl | with_reducible exact .inr ⟨rfl, rfl⟩
      | with_reducible exact .inr ⟨rfl, rfl, rfl⟩ | with_reducible exact .inr ⟨rfl, rfl, rfl, rfl⟩ | with_reducible exact .inr ⟨rfl, rfl, rfl, rfl, rfl⟩
      | with_reducible apply only_foldl | intro _ | (split))

theorem handshakeEff_only (hrooms : P .rooms) (hhealthSt : P .healthSt) (htasks : P .tasks) (hintStatus : P .intStatus) (hmessages : P .messages) (hfabric : P
    .fabric) (hlinks : P .links) (hhealth : P .health) (a1 : Nat) (a2 : Stage) {s₀ s : State} (h : changesOnly P s₀ s) : changesOnly P s₀ (handshakeEff s a1 a2) := by
  unfold handshakeEff
  try dsimp only
  repeat' first
      | with_reducible assumption | with_reducible apply failStage_only | with_reducible apply blame_only | with_reducible apply raiseFault_only
      | with_reducible apply only_ite | with_reducible apply only_foldl | intro _ | (split) | with_reducible apply only_mk
      | with_reducible exact .inl (by assumption) | with_reducible exact .inr rfl | with_reducible exact .inr ⟨rfl, rfl⟩
      | with_reducible exact .inr ⟨rfl, rfl, rfl⟩ | with_reducible exact .inr ⟨rfl, rfl, rfl, rfl⟩ | with_reducible exact .inr ⟨rfl, rfl, rfl, rfl, rfl⟩

theorem hatchStart_only (hintStatus : P .intStatus) (hmessages : P .messages) (hhatch : P .hatch) (a0 : Nat) {s₀ s : State} (h : changesOnly P s₀ s) :
    changesOnly P s₀ (hatchStart a0 s) := by
  fun_cases hatchStart a0 s
  all_goals (intros; repeat' first
      | with_reducible assumption | with_reducible apply hatchError_only | with_reducible apply modHatch_only | with_reducible apply only_ite
      | with_reducible apply only_mk | with_reducible exact .inl (by assumption) | with_reducible exact .inr rfl | with_reducible exact .inr ⟨rfl, rfl⟩
      | with_reducible exact .inr ⟨rfl, rfl, rfl⟩ | with_reducible exact .inr ⟨rfl, rfl, rfl, rfl⟩ | with_reducible exact .inr ⟨rfl, rfl, rfl, rfl, rfl⟩
      | with_reducible apply only_foldl | intro _ | (split))

theorem hatchCtrl_only (hintStatus : P .intStatus) (hmessages : P .messages) (hhatch : P .hatch) (a0 : Nat) (a1 : BitVec 32) {s₀ s : State} (h : changesOnly P
    s₀ s) : changesOnly P s₀ (hatchCtrl a0 a1 s) := by
  fun_cases hatchCtrl a0 a1 s
  all_goals (intros; repeat' first
      | with_reducible assumption | with_reducible apply hatchStart_only | with_reducible apply hatchStop_only | with_reducible apply modHatch_only
      | with_reducible apply only_ite | with_reducible apply only_mk | with_reducible exact .inl (by assumption) | with_reducible exact .inr rfl
      | with_reducible exact .inr ⟨rfl, rfl⟩ | with_reducible exact .inr ⟨rfl, rfl, rfl⟩ | with_reducible exact .inr ⟨rfl, rfl, rfl, rfl⟩
      | with_reducible exact .inr ⟨rfl, rfl, rfl, rfl, rfl⟩ | with_reducible apply only_foldl | intro _ | (split))

theorem hatchReset_only (hintStatus : P .intStatus) (hmessages : P .messages) (hhatch : P .hatch) (a0 : List Nat) {s₀ s : State} (h : changesOnly P s₀ s) :
    changesOnly P s₀ (hatchReset a0 s) := by
  fun_induction hatchReset a0 s
  all_goals intros
  all_goals first | with_reducible assumption | skip
  all_goals repeat' first
      | with_reducible assumption | with_reducible apply_assumption | with_reducible apply hatchIrq_only | with_reducible apply modHatch_only
      | with_reducible apply only_ite | with_reducible apply only_mk | with_reducible exact .inl (by assumption) | with_reducible exact .inr rfl
      | with_reducible exact .inr ⟨rfl, rfl⟩ | with_reducible exact .inr ⟨rfl, rfl, rfl⟩ | with_reducible exact .inr ⟨rfl, rfl, rfl, rfl⟩
      | with_reducible exact .inr ⟨rfl, rfl, rfl, rfl, rfl⟩ | with_reducible apply only_foldl | intro _ | (split)

theorem hatchWord_only (hfreeCtr : P .freeCtr) (hintStatus : P .intStatus) (hmessages : P .messages) (hhatch : P .hatch) (a0 : Nat) (a1 : Nat) (a2 : BitVec 32)
    {s₀ s : State} (h : changesOnly P s₀ s) : changesOnly P s₀ (hatchWord a0 a1 a2 s) := by
  fun_cases hatchWord a0 a1 a2 s
  all_goals (intros; repeat' first
      | with_reducible assumption | with_reducible apply hatchCtrl_only | with_reducible apply modHatch_only | with_reducible apply only_ite
      | with_reducible apply only_mk | with_reducible exact .inl (by assumption) | with_reducible exact .inr rfl | with_reducible exact .inr ⟨rfl, rfl⟩
      | with_reducible exact .inr ⟨rfl, rfl, rfl⟩ | with_reducible exact .inr ⟨rfl, rfl, rfl, rfl⟩ | with_reducible exact .inr ⟨rfl, rfl, rfl, rfl, rfl⟩
      | with_reducible apply only_foldl | intro _ | (split))

theorem healthQueryEff_only (hmboxes : P .mboxes) (hrequests : P .requests) (hmessages : P .messages) (a1 : Nat) (a2 : MsgWord) {s₀ s : State} (h : changesOnly
    P s₀ s) : changesOnly P s₀ (healthQueryEff s a1 a2) := by
  fun_cases healthQueryEff s a1 a2
  all_goals (intros; repeat' first
      | with_reducible assumption | with_reducible apply respond_only | with_reducible apply only_ite | with_reducible apply only_mk
      | with_reducible exact .inl (by assumption) | with_reducible exact .inr rfl | with_reducible exact .inr ⟨rfl, rfl⟩
      | with_reducible exact .inr ⟨rfl, rfl, rfl⟩ | with_reducible exact .inr ⟨rfl, rfl, rfl, rfl⟩ | with_reducible exact .inr ⟨rfl, rfl, rfl, rfl, rfl⟩
      | with_reducible apply only_foldl | intro _ | (split))

theorem healthSetEff_only (hmboxes : P .mboxes) (hstaged : P .staged) (hrequests : P .requests) (hmessages : P .messages) (a1 : Nat) (a2 : MsgWord) {s₀ s :
    State} (h : changesOnly P s₀ s) : changesOnly P s₀ (healthSetEff s a1 a2) := by
  fun_cases healthSetEff s a1 a2
  all_goals (intros; repeat' first
      | with_reducible assumption | with_reducible apply stage_only | with_reducible apply respond_only | with_reducible apply only_ite
      | with_reducible apply only_mk | with_reducible exact .inl (by assumption) | with_reducible exact .inr rfl | with_reducible exact .inr ⟨rfl, rfl⟩
      | with_reducible exact .inr ⟨rfl, rfl, rfl⟩ | with_reducible exact .inr ⟨rfl, rfl, rfl, rfl⟩ | with_reducible exact .inr ⟨rfl, rfl, rfl, rfl, rfl⟩
      | with_reducible apply only_foldl | intro _ | (split))

theorem hintHall_only (hpower : P .power) (a0 : Nat) (a1 : Nat) (a2 : Nat) (a3 : Nat) (a4 : Nat) (a5 : Nat) {s₀ s : State} (h : changesOnly P s₀ s) :
    changesOnly P s₀ (hintHall a0 a1 a2 a3 a4 a5 s) := by
  fun_cases hintHall a0 a1 a2 a3 a4 a5 s
  all_goals (intros; repeat' first
      | with_reducible assumption | with_reducible apply phaseStart_only | with_reducible apply modHall_only | with_reducible apply only_ite
      | with_reducible apply only_mk | with_reducible exact .inl (by assumption) | with_reducible exact .inr rfl | with_reducible exact .inr ⟨rfl, rfl⟩
      | with_reducible exact .inr ⟨rfl, rfl, rfl⟩ | with_reducible exact .inr ⟨rfl, rfl, rfl, rfl⟩ | with_reducible exact .inr ⟨rfl, rfl, rfl, rfl, rfl⟩
      | with_reducible apply only_foldl | intro _ | (split))

theorem hostRspEff_only (hmboxes : P .mboxes) (hctxs : P .ctxs) (hqueues : P .queues) (hfences : P .fences) (htasks : P .tasks) (hhostErrors : P .hostErrors)
    (hrequests : P .requests) (hmessages : P .messages) (hporch : P .porch) (hseq : P .seq) (a1 : Nat) (a2 : Nat) (a3 : List Byte) {s₀ s : State} (h :
    changesOnly P s₀ s) : changesOnly P s₀ (hostRspEff s a1 a2 a3) := by
  fun_cases hostRspEff s a1 a2 a3
  all_goals (intros; repeat' first
      | with_reducible assumption | with_reducible apply gotAnswer_only | with_reducible apply freeReq_only | with_reducible apply modHost_only
      | with_reducible apply only_ite | with_reducible apply only_mk | with_reducible exact .inl (by assumption) | with_reducible exact .inr rfl
      | with_reducible exact .inr ⟨rfl, rfl⟩ | with_reducible exact .inr ⟨rfl, rfl, rfl⟩ | with_reducible exact .inr ⟨rfl, rfl, rfl, rfl⟩
      | with_reducible exact .inr ⟨rfl, rfl, rfl, rfl, rfl⟩ | with_reducible apply only_foldl | intro _ | (split))

theorem loadClaim_only (hstore : P .store) (hmboxes : P .mboxes) (a0 : Nat) (a1 : Nat) (a2 : List Byte) (a3 : List Nat) {s₀ s : State} (h : changesOnly P s₀ s)
    : changesOnly P s₀ (loadClaim a0 a1 a2 a3 s) := by
  fun_cases loadClaim a0 a1 a2 a3 s
  all_goals (intros; repeat' first
      | with_reducible assumption | with_reducible apply await_only | with_reducible apply modStore_only | with_reducible apply modSteward_only
      | with_reducible apply only_ite | with_reducible apply only_mk | with_reducible exact .inl (by assumption) | with_reducible exact .inr rfl
      | with_reducible exact .inr ⟨rfl, rfl⟩ | with_reducible exact .inr ⟨rfl, rfl, rfl⟩ | with_reducible exact .inr ⟨rfl, rfl, rfl, rfl⟩
      | with_reducible exact .inr ⟨rfl, rfl, rfl, rfl, rfl⟩ | with_reducible apply only_foldl | intro _ | (split))

theorem openClaim_only (hstore : P .store) (a0 : Nat) (a1 : List Byte) {s₀ s : State} (h : changesOnly P s₀ s) : changesOnly P s₀ (openClaim a0 a1 s).1 := by
  unfold openClaim
  try dsimp only
  repeat' first
      | with_reducible assumption | with_reducible apply modStore_only | with_reducible apply only_ite | with_reducible apply only_foldl | intro _ | (split)
      | with_reducible apply only_mk | with_reducible exact .inl (by assumption) | with_reducible exact .inr rfl | with_reducible exact .inr ⟨rfl, rfl⟩
      | with_reducible exact .inr ⟨rfl, rfl, rfl⟩ | with_reducible exact .inr ⟨rfl, rfl, rfl, rfl⟩ | with_reducible exact .inr ⟨rfl, rfl, rfl, rfl, rfl⟩

theorem openWindows_only (hstore : P .store) (a0 : Nat) (a1 : List (List Byte)) {s₀ s : State} (h : changesOnly P s₀ s) : changesOnly P s₀ (openWindows a0 a1
    s).1 := by
  induction a1 generalizing a0 s with
  | nil => exact h
  | cons x xs ih =>
    rw [openWindows]
    repeat' first
      | with_reducible apply ih
      | with_reducible assumption | with_reducible apply_assumption | with_reducible apply openClaim_only | with_reducible apply only_ite
      | with_reducible apply only_foldl | intro _ | (split) | with_reducible apply only_mk | with_reducible exact .inl (by assumption)
      | with_reducible exact .inr rfl | with_reducible exact .inr ⟨rfl, rfl⟩ | with_reducible exact .inr ⟨rfl, rfl, rfl⟩
      | with_reducible exact .inr ⟨rfl, rfl, rfl, rfl⟩ | with_reducible exact .inr ⟨rfl, rfl, rfl, rfl, rfl⟩

theorem placeImage_only (hstore : P .store) (hhealthSt : P .healthSt) (himages : P .images) (hintStatus : P .intStatus) (hmessages : P .messages) (hhealth : P
    .health) (a0 : Nat) (a1 : List Byte) (a2 : List CopyRec) (a3 : List Nat) {s₀ s : State} (h : changesOnly P s₀ s) : changesOnly P s₀ (placeImage a0 a1 a2 a3
    s) := by
  fun_cases placeImage a0 a1 a2 a3 s
  all_goals (intros; repeat' first
      | with_reducible assumption | with_reducible apply openWindows_only | with_reducible apply buildCopies_only | with_reducible apply modStore_only
      | with_reducible apply modSteward_only | with_reducible apply only_ite | with_reducible apply only_mk | with_reducible exact .inl (by assumption)
      | with_reducible exact .inr rfl | with_reducible exact .inr ⟨rfl, rfl⟩ | with_reducible exact .inr ⟨rfl, rfl, rfl⟩
      | with_reducible exact .inr ⟨rfl, rfl, rfl, rfl⟩ | with_reducible exact .inr ⟨rfl, rfl, rfl, rfl, rfl⟩ | with_reducible apply only_foldl | intro _
      | (split))

theorem tryLoad_only (hstore : P .store) (hhealthSt : P .healthSt) (hmboxes : P .mboxes) (himages : P .images) (hintStatus : P .intStatus) (hrequests : P
    .requests) (hmessages : P .messages) (hfabric : P .fabric) (hhealth : P .health) (a0 : Nat) (a1 : Nat) (a2 : Nat) (a3 : List Byte) {s₀ s : State} (h :
    changesOnly P s₀ s) : changesOnly P s₀ (tryLoad a0 a1 a2 a3 s) := by
  fun_cases tryLoad a0 a1 a2 a3 s
  all_goals (intros; repeat' first
      | with_reducible assumption | with_reducible apply placeImage_only | with_reducible apply loadClaim_only | with_reducible apply forgetRounds_only
      | with_reducible apply undoLoad_only | with_reducible apply endLoad_only | with_reducible apply answerReject_only | with_reducible apply respond_only
      | with_reducible apply only_ite | with_reducible apply only_mk | with_reducible exact .inl (by assumption) | with_reducible exact .inr rfl
      | with_reducible exact .inr ⟨rfl, rfl⟩ | with_reducible exact .inr ⟨rfl, rfl, rfl⟩ | with_reducible exact .inr ⟨rfl, rfl, rfl, rfl⟩
      | with_reducible exact .inr ⟨rfl, rfl, rfl, rfl, rfl⟩ | with_reducible apply only_foldl | intro _ | (split))

theorem imageLoadEff_only (hstore : P .store) (hhealthSt : P .healthSt) (hmboxes : P .mboxes) (himages : P .images) (hintStatus : P .intStatus) (hrequests : P
    .requests) (hmessages : P .messages) (hfabric : P .fabric) (hhealth : P .health) (a1 : Nat) (a2 : MsgWord) (a3 : Option (List Byte)) {s₀ s : State} (h :
    changesOnly P s₀ s) : changesOnly P s₀ (imageLoadEff s a1 a2 a3) := by
  fun_cases imageLoadEff s a1 a2 a3
  all_goals (intros; repeat' first
      | with_reducible assumption | with_reducible apply tryLoad_only | with_reducible apply respond_only | with_reducible apply only_ite
      | with_reducible apply only_mk | with_reducible exact .inl (by assumption) | with_reducible exact .inr rfl | with_reducible exact .inr ⟨rfl, rfl⟩
      | with_reducible exact .inr ⟨rfl, rfl, rfl⟩ | with_reducible exact .inr ⟨rfl, rfl, rfl, rfl⟩ | with_reducible exact .inr ⟨rfl, rfl, rfl, rfl, rfl⟩
      | with_reducible apply only_foldl | intro _ | (split))

theorem imageUnloadEff_only (hstore : P .store) (hmboxes : P .mboxes) (himages : P .images) (hrequests : P .requests) (hmessages : P .messages) (a1 : Nat) (a2 :
    MsgWord) {s₀ s : State} (h : changesOnly P s₀ s) : changesOnly P s₀ (imageUnloadEff s a1 a2) := by
  fun_cases imageUnloadEff s a1 a2
  all_goals (intros; repeat' first
      | with_reducible assumption | with_reducible apply beginUnload_only | with_reducible apply respond_only | with_reducible apply only_ite
      | with_reducible apply only_mk | with_reducible exact .inl (by assumption) | with_reducible exact .inr rfl | with_reducible exact .inr ⟨rfl, rfl⟩
      | with_reducible exact .inr ⟨rfl, rfl, rfl⟩ | with_reducible exact .inr ⟨rfl, rfl, rfl, rfl⟩ | with_reducible exact .inr ⟨rfl, rfl, rfl, rfl, rfl⟩
      | with_reducible apply only_foldl | intro _ | (split))

theorem popOps_only (hrooms : P .rooms) (a0 : Nat) (a1 : Nat) {s₀ s : State} (h : changesOnly P s₀ s) : changesOnly P s₀ (popOps a0 a1 s) := by
  fun_cases popOps a0 a1 s
  all_goals (intros; repeat' first
      | with_reducible assumption | with_reducible apply modRoom_only | with_reducible apply only_ite | with_reducible apply only_mk
      | with_reducible exact .inl (by assumption) | with_reducible exact .inr rfl | with_reducible exact .inr ⟨rfl, rfl⟩
      | with_reducible exact .inr ⟨rfl, rfl, rfl⟩ | with_reducible exact .inr ⟨rfl, rfl, rfl, rfl⟩ | with_reducible exact .inr ⟨rfl, rfl, rfl, rfl, rfl⟩
      | with_reducible apply only_foldl | intro _ | (split))

theorem slotPart_only (hrooms : P .rooms) (a0 : Nat) (a1 : Nat) (a2 : Room) (a3 : OpWord) {s₀ s : State} (h : changesOnly P s₀ s) : changesOnly P s₀ (slotPart
    a0 a1 a2 a3 s) := by
  fun_cases slotPart a0 a1 a2 a3 s
  all_goals (intros; repeat' first
      | with_reducible assumption | with_reducible apply modRoom_only | with_reducible apply only_ite | with_reducible apply only_mk
      | with_reducible exact .inl (by assumption) | with_reducible exact .inr rfl | with_reducible exact .inr ⟨rfl, rfl⟩
      | with_reducible exact .inr ⟨rfl, rfl, rfl⟩ | with_reducible exact .inr ⟨rfl, rfl, rfl, rfl⟩ | with_reducible exact .inr ⟨rfl, rfl, rfl, rfl, rfl⟩
      | with_reducible apply only_foldl | intro _ | (split))

theorem issueWith_only (hrooms : P .rooms) (hpace : P .pace) (a0 : Nat) (a1 : Nat) (a2 : Nat) (a3 : OpWord) (a4 : Env → Room → Task → Nat → State → State) {s₀ s
    : State} (hf4 : ∀ x0 x1 x2 x3 x4, changesOnly P s₀ x4 → changesOnly P s₀ (a4 x0 x1 x2 x3 x4)) (h : changesOnly P s₀ s) : changesOnly P s₀ (issueWith a0 a1
    a2 a3 a4 s) := by
  unfold issueWith
  try dsimp only
  repeat' first
      | with_reducible assumption | with_reducible apply_assumption | with_reducible apply slotPart_only | with_reducible apply popOps_only
      | with_reducible apply takeAll_only | with_reducible apply raiseFault_only | with_reducible apply only_ite | with_reducible apply only_foldl | intro _
      | (split) | with_reducible apply only_mk | with_reducible exact .inl (by assumption) | with_reducible exact .inr rfl
      | with_reducible exact .inr ⟨rfl, rfl⟩ | with_reducible exact .inr ⟨rfl, rfl, rfl⟩ | with_reducible exact .inr ⟨rfl, rfl, rfl, rfl⟩
      | with_reducible exact .inr ⟨rfl, rfl, rfl, rfl, rfl⟩

theorem keepFailed_only (hmboxes : P .mboxes) (hrequests : P .requests) (hmessages : P .messages) (hkeep : P .keep) (hhealth : P .health) (hseq : P .seq) (a0 :
    KeepWrite) (a1 : List KeepWrite) {s₀ s : State} (h : changesOnly P s₀ s) : changesOnly P s₀ (keepFailed a0 a1 s) := by
  fun_cases keepFailed a0 a1 s
  all_goals (intros; repeat' first
      | with_reducible assumption | with_reducible apply forgetWrite_only | with_reducible apply modKeep_only | with_reducible apply respond_only
      | with_reducible apply only_ite | with_reducible apply only_mk | with_reducible exact .inl (by assumption) | with_reducible exact .inr rfl
      | with_reducible exact .inr ⟨rfl, rfl⟩ | with_reducible exact .inr ⟨rfl, rfl, rfl⟩ | with_reducible exact .inr ⟨rfl, rfl, rfl, rfl⟩
      | with_reducible exact .inr ⟨rfl, rfl, rfl, rfl, rfl⟩ | with_reducible apply only_foldl | intro _ | (split))

theorem keepRead_only (hkeep : P .keep) (a0 : Bool) (a1 : List Byte) {s₀ s : State} (h : changesOnly P s₀ s) : changesOnly P s₀ (keepRead a0 a1 s) := by
  fun_cases keepRead a0 a1 s
  all_goals (intros; repeat' first
      | with_reducible assumption | with_reducible apply modKeep_only | with_reducible apply only_ite | with_reducible apply only_mk
      | with_reducible exact .inl (by assumption) | with_reducible exact .inr rfl | with_reducible exact .inr ⟨rfl, rfl⟩
      | with_reducible exact .inr ⟨rfl, rfl, rfl⟩ | with_reducible exact .inr ⟨rfl, rfl, rfl, rfl⟩ | with_reducible exact .inr ⟨rfl, rfl, rfl, rfl, rfl⟩
      | with_reducible apply only_foldl | intro _ | (split))

theorem keepComplete_only (hmboxes : P .mboxes) (hrequests : P .requests) (hmessages : P .messages) (hkeep : P .keep) (hhealth : P .health) (a0 : KeepWrite) {s₀
    s : State} (h : changesOnly P s₀ s) : changesOnly P s₀ (keepComplete a0 s) := by
  fun_cases keepComplete a0 s
  all_goals (intros; repeat' first
      | with_reducible assumption | with_reducible apply modKeep_only | with_reducible apply respond_only | with_reducible apply modHealth_only
      | with_reducible apply only_ite | with_reducible apply only_mk | with_reducible exact .inl (by assumption) | with_reducible exact .inr rfl
      | with_reducible exact .inr ⟨rfl, rfl⟩ | with_reducible exact .inr ⟨rfl, rfl, rfl⟩ | with_reducible exact .inr ⟨rfl, rfl, rfl, rfl⟩
      | with_reducible exact .inr ⟨rfl, rfl, rfl, rfl, rfl⟩ | with_reducible apply only_foldl | intro _ | (split))

theorem keepWrote_only (hmboxes : P .mboxes) (hrequests : P .requests) (hmessages : P .messages) (hkeep : P .keep) (hhealth : P .health) (a0 : KeepWrite) (a1 :
    List KeepWrite) {s₀ s : State} (h : changesOnly P s₀ s) : changesOnly P s₀ (keepWrote a0 a1 s) := by
  fun_cases keepWrote a0 a1 s
  all_goals (intros; repeat' first
      | with_reducible assumption | with_reducible apply keepComplete_only | with_reducible apply modKeep_only | with_reducible apply only_ite
      | with_reducible apply only_mk | with_reducible exact .inl (by assumption) | with_reducible exact .inr rfl | with_reducible exact .inr ⟨rfl, rfl⟩
      | with_reducible exact .inr ⟨rfl, rfl, rfl⟩ | with_reducible exact .inr ⟨rfl, rfl, rfl, rfl⟩ | with_reducible exact .inr ⟨rfl, rfl, rfl, rfl, rfl⟩
      | with_reducible apply only_foldl | intro _ | (split))

theorem keepAckEff_only (hmboxes : P .mboxes) (hrequests : P .requests) (hmessages : P .messages) (hkeep : P .keep) (hhealth : P .health) (hseq : P .seq) (a1 :
    Bool) (a2 : List Byte) {s₀ s : State} (h : changesOnly P s₀ s) : changesOnly P s₀ (keepAckEff s a1 a2) := by
  fun_cases keepAckEff s a1 a2
  all_goals (intros; repeat' first
      | with_reducible assumption | with_reducible apply keepWrote_only | with_reducible apply keepRead_only | with_reducible apply keepFailed_only
      | with_reducible apply flushDone_only | with_reducible apply only_ite | with_reducible apply only_mk | with_reducible exact .inl (by assumption)
      | with_reducible exact .inr rfl | with_reducible exact .inr ⟨rfl, rfl⟩ | with_reducible exact .inr ⟨rfl, rfl, rfl⟩
      | with_reducible exact .inr ⟨rfl, rfl, rfl, rfl⟩ | with_reducible exact .inr ⟨rfl, rfl, rfl, rfl, rfl⟩ | with_reducible apply only_foldl | intro _
      | (split))

end Sys2Proof.Machine
end

