-- ==== Sys2Proof/Laws/Frame4.lean ====
section
/-!
SUPPORT. Frames, part 4 of 4: for each operation of the machine the parts of State that it may change, one lemma each. A part not named in the
hypotheses of a lemma stands as it was.
-/
namespace Sys2Proof.Machine

set_option linter.unusedTactic false
set_option linter.unreachableTactic false
set_option linter.unusedVariables false
set_option maxRecDepth 4000
variable {P : Part → Prop}

theorem keepOwn_only (hintStatus : P .intStatus) (hmessages : P .messages) (htime : P .time) {s₀ s : State} (h : changesOnly P s₀ s) : changesOnly P s₀ (keepOwn
    s) := by
  fun_cases keepOwn s
  all_goals (intros; repeat' first
      | with_reducible assumption | with_reducible apply setTimeSt_only | with_reducible apply only_ite | with_reducible apply only_mk
      | with_reducible exact .inl (by assumption) | with_reducible exact .inr rfl | with_reducible exact .inr ⟨rfl, rfl⟩
      | with_reducible exact .inr ⟨rfl, rfl, rfl⟩ | with_reducible exact .inr ⟨rfl, rfl, rfl, rfl⟩ | with_reducible exact .inr ⟨rfl, rfl, rfl, rfl, rfl⟩
      | with_reducible apply only_foldl | intro _ | (split))

theorem sendAnnounce_only (hfabric : P .fabric) (htime : P .time) {s₀ s : State} (h : changesOnly P s₀ s) : changesOnly P s₀ (sendAnnounce s) := by
  fun_cases sendAnnounce s
  all_goals (intros; repeat' first
      | with_reducible assumption | with_reducible apply modTime_only | with_reducible apply flood_only | with_reducible apply only_ite
      | with_reducible apply only_mk | with_reducible exact .inl (by assumption) | with_reducible exact .inr rfl | with_reducible exact .inr ⟨rfl, rfl⟩
      | with_reducible exact .inr ⟨rfl, rfl, rfl⟩ | with_reducible exact .inr ⟨rfl, rfl, rfl, rfl⟩ | with_reducible exact .inr ⟨rfl, rfl, rfl, rfl, rfl⟩
      | with_reducible apply only_foldl | intro _ | (split))

theorem keeperTimeoutEff_only (hintStatus : P .intStatus) (hmessages : P .messages) (hfabric : P .fabric) (htime : P .time) {s₀ s : State} (h : changesOnly P s₀
    s) : changesOnly P s₀ (keeperTimeoutEff s) := by
  fun_cases keeperTimeoutEff s
  all_goals (intros; repeat' first
      | with_reducible assumption | with_reducible apply sendAnnounce_only | with_reducible apply setTimeSt_only | with_reducible apply modTime_only
      | with_reducible apply only_ite | with_reducible apply only_mk | with_reducible exact .inl (by assumption) | with_reducible exact .inr rfl
      | with_reducible exact .inr ⟨rfl, rfl⟩ | with_reducible exact .inr ⟨rfl, rfl, rfl⟩ | with_reducible exact .inr ⟨rfl, rfl, rfl, rfl⟩
      | with_reducible exact .inr ⟨rfl, rfl, rfl, rfl, rfl⟩ | with_reducible apply only_foldl | intro _ | (split))

theorem landBurst_only (hfreeCtr : P .freeCtr) (hstore : P .store) (hhealthSt : P .healthSt) (hintStatus : P .intStatus) (hmessages : P .messages) (hhatch : P
    .hatch) (hhealth : P .health) (a1 : Nat) (a2 : Option (List Byte)) {s₀ s : State} (h : changesOnly P s₀ s) : changesOnly P s₀ (landBurst s a1 a2) := by
  fun_cases landBurst s a1 a2
  all_goals (intros; repeat' first
      | with_reducible assumption | with_reducible apply copyLines_only | with_reducible apply hatchError_only | with_reducible apply burstDone_only
      | with_reducible apply modStore_only | with_reducible apply modShell_only | with_reducible apply only_ite | with_reducible apply only_mk
      | with_reducible exact .inl (by assumption) | with_reducible exact .inr rfl | with_reducible exact .inr ⟨rfl, rfl⟩
      | with_reducible exact .inr ⟨rfl, rfl, rfl⟩ | with_reducible exact .inr ⟨rfl, rfl, rfl, rfl⟩ | with_reducible exact .inr ⟨rfl, rfl, rfl, rfl, rfl⟩
      | with_reducible apply only_foldl | intro _ | (split))

theorem landedEff_only (hfreeCtr : P .freeCtr) (hstore : P .store) (hhealthSt : P .healthSt) (hmboxes : P .mboxes) (hintStatus : P .intStatus) (hrequests : P
    .requests) (hmessages : P .messages) (hhatch : P .hatch) (hhealth : P .health) (a1 : Nat) (a2 : Option (List Byte)) {s₀ s : State} (h : changesOnly P s₀ s)
    : changesOnly P s₀ (landedEff s a1 a2) := by
  fun_cases landedEff s a1 a2
  all_goals (intros; repeat' first
      | with_reducible assumption | with_reducible apply landBurst_only | with_reducible apply landCloses_only | with_reducible apply only_ite
      | with_reducible apply only_mk | with_reducible exact .inl (by assumption) | with_reducible exact .inr rfl | with_reducible exact .inr ⟨rfl, rfl⟩
      | with_reducible exact .inr ⟨rfl, rfl, rfl⟩ | with_reducible exact .inr ⟨rfl, rfl, rfl, rfl⟩ | with_reducible exact .inr ⟨rfl, rfl, rfl, rfl, rfl⟩
      | with_reducible apply only_foldl | intro _ | (split))

theorem startRooms_only (hrooms : P .rooms) (a0 : Variant) (a1 : Task) (a2 : List RoomRec) {s₀ s : State} (h : changesOnly P s₀ s) : changesOnly P s₀
    (startRooms a0 a1 a2 s) := by
  fun_induction startRooms a0 a1 a2 s
  all_goals intros
  all_goals first | with_reducible assumption | skip
  all_goals repeat' first
      | with_reducible assumption | with_reducible apply_assumption | with_reducible apply only_ite | with_reducible apply only_mk
      | with_reducible exact .inl (by assumption) | with_reducible exact .inr rfl | with_reducible exact .inr ⟨rfl, rfl⟩
      | with_reducible exact .inr ⟨rfl, rfl, rfl⟩ | with_reducible exact .inr ⟨rfl, rfl, rfl, rfl⟩ | with_reducible exact .inr ⟨rfl, rfl, rfl, rfl, rfl⟩
      | with_reducible apply only_foldl | intro _ | (split)

theorem launchTask_only (hstore : P .store) (hrooms : P .rooms) (hhealthSt : P .healthSt) (htasks : P .tasks) (hintStatus : P .intStatus) (hmessages : P
    .messages) (hports : P .ports) (hfabric : P .fabric) (hhealth : P .health) (a0 : Nat) (a1 : Task) (a2 : Image) {s₀ s : State} (h : changesOnly P s₀ s) :
    changesOnly P s₀ (launchTask a0 a1 a2 s) := by
  fun_cases launchTask a0 a1 a2 s
  all_goals (intros; repeat' first
      | with_reducible assumption | with_reducible apply startRooms_only | with_reducible apply modStore_only | with_reducible apply blameBank_only
      | with_reducible apply putStore_only | with_reducible apply haltTask_only | with_reducible apply modTask_only | with_reducible apply modShell_only
      | with_reducible apply only_ite | with_reducible apply only_mk | with_reducible exact .inl (by assumption) | with_reducible exact .inr rfl
      | with_reducible exact .inr ⟨rfl, rfl⟩ | with_reducible exact .inr ⟨rfl, rfl, rfl⟩ | with_reducible exact .inr ⟨rfl, rfl, rfl, rfl⟩
      | with_reducible exact .inr ⟨rfl, rfl, rfl, rfl, rfl⟩ | with_reducible apply only_foldl | intro _ | (split))

theorem launchBoundaryEff_only (hstore : P .store) (hrooms : P .rooms) (hhealthSt : P .healthSt) (hmboxes : P .mboxes) (hqueues : P .queues) (htasks : P .tasks)
    (hintStatus : P .intStatus) (hrequests : P .requests) (hmessages : P .messages) (hports : P .ports) (hfabric : P .fabric) (hpower : P .power) (hhealth : P
    .health) (a1 : Nat) {s₀ s : State} (h : changesOnly P s₀ s) : changesOnly P s₀ (launchBoundaryEff s a1) := by
  fun_cases launchBoundaryEff s a1
  all_goals (intros; repeat' first
      | with_reducible assumption | with_reducible apply launchTask_only | with_reducible apply endBare_only | with_reducible apply promote_only
      | with_reducible apply finishTask_only | with_reducible apply haltTask_only | with_reducible apply launchVoid_only | with_reducible apply only_ite
      | with_reducible apply only_mk | with_reducible exact .inl (by assumption) | with_reducible exact .inr rfl | with_reducible exact .inr ⟨rfl, rfl⟩
      | with_reducible exact .inr ⟨rfl, rfl, rfl⟩ | with_reducible exact .inr ⟨rfl, rfl, rfl, rfl⟩ | with_reducible exact .inr ⟨rfl, rfl, rfl, rfl, rfl⟩
      | with_reducible apply only_foldl | intro _ | (split))

theorem launchFrameEff_only (htasks : P .tasks) (hfabric : P .fabric) (a0 : Frame) {s₀ s : State} (h : changesOnly P s₀ s) : changesOnly P s₀ (launchFrameEff a0
    s) := by
  fun_cases launchFrameEff a0 s
  all_goals (intros; repeat' first
      | with_reducible assumption | with_reducible apply haltTask_only | with_reducible apply launchVoid_only | with_reducible apply modTask_only
      | with_reducible apply only_ite | with_reducible apply only_mk | with_reducible exact .inl (by assumption) | with_reducible exact .inr rfl
      | with_reducible exact .inr ⟨rfl, rfl⟩ | with_reducible exact .inr ⟨rfl, rfl, rfl⟩ | with_reducible exact .inr ⟨rfl, rfl, rfl, rfl⟩
      | with_reducible exact .inr ⟨rfl, rfl, rfl, rfl, rfl⟩ | with_reducible apply only_foldl | intro _ | (split))

theorem learnPeer_only (hfabric : P .fabric) (a0 : BitVec 64) (a1 : Nat) {s₀ s : State} (h : changesOnly P s₀ s) : changesOnly P s₀ (learnPeer a0 a1 s) := by
  fun_cases learnPeer a0 a1 s
  all_goals (intros; repeat' first
      | with_reducible assumption | with_reducible apply modFabric_only | with_reducible apply only_ite | with_reducible apply only_mk
      | with_reducible exact .inl (by assumption) | with_reducible exact .inr rfl | with_reducible exact .inr ⟨rfl, rfl⟩
      | with_reducible exact .inr ⟨rfl, rfl, rfl⟩ | with_reducible exact .inr ⟨rfl, rfl, rfl, rfl⟩ | with_reducible exact .inr ⟨rfl, rfl, rfl, rfl, rfl⟩
      | with_reducible apply only_foldl | intro _ | (split))

theorem ofOne_only (hfabricSt : P .fabricSt) (hintStatus : P .intStatus) (hmessages : P .messages) (hfabric : P .fabric) (htime : P .time) {s₀ s : State} (h :
    changesOnly P s₀ s) : changesOnly P s₀ (ofOne s) := by
  fun_cases ofOne s
  all_goals (intros; repeat' first
      | with_reducible assumption | with_reducible apply keepOwn_only | with_reducible apply setFabric_only | with_reducible apply modFabric_only
      | with_reducible apply only_ite | with_reducible apply only_mk | with_reducible exact .inl (by assumption) | with_reducible exact .inr rfl
      | with_reducible exact .inr ⟨rfl, rfl⟩ | with_reducible exact .inr ⟨rfl, rfl, rfl⟩ | with_reducible exact .inr ⟨rfl, rfl, rfl, rfl⟩
      | with_reducible exact .inr ⟨rfl, rfl, rfl, rfl, rfl⟩ | with_reducible apply only_foldl | intro _ | (split))

theorem leaveSelfTest_only (hphase : P .phase) (hfabricSt : P .fabricSt) (hintStatus : P .intStatus) (hmessages : P .messages) (hfabric : P .fabric) (hlinks : P
    .links) (htime : P .time) (hseq : P .seq) {s₀ s : State} (h : changesOnly P s₀ s) : changesOnly P s₀ (leaveSelfTest s) := by
  fun_cases leaveSelfTest s
  all_goals (intros; repeat' first
      | with_reducible assumption | with_reducible apply ofOne_only | with_reducible apply setPhase_only | with_reducible apply beginTraining_only
      | with_reducible apply only_ite | with_reducible apply only_mk | with_reducible exact .inl (by assumption) | with_reducible exact .inr rfl
      | with_reducible exact .inr ⟨rfl, rfl⟩ | with_reducible exact .inr ⟨rfl, rfl, rfl⟩ | with_reducible exact .inr ⟨rfl, rfl, rfl, rfl⟩
      | with_reducible exact .inr ⟨rfl, rfl, rfl, rfl, rfl⟩ | with_reducible apply only_foldl | intro _ | (split))

theorem linkNoPeerEff_only (hmboxes : P .mboxes) (hrequests : P .requests) (hmessages : P .messages) (hlinks : P .links) (a1 : Nat) (a2 : Nat) {s₀ s : State} (h
    : changesOnly P s₀ s) : changesOnly P s₀ (linkNoPeerEff s a1 a2) := by
  fun_cases linkNoPeerEff s a1 a2
  all_goals (intros; repeat' first
      | with_reducible assumption | with_reducible apply respond_only | with_reducible apply modPort_only | with_reducible apply only_ite
      | with_reducible apply only_mk | with_reducible exact .inl (by assumption) | with_reducible exact .inr rfl | with_reducible exact .inr ⟨rfl, rfl⟩
      | with_reducible exact .inr ⟨rfl, rfl, rfl⟩ | with_reducible exact .inr ⟨rfl, rfl, rfl, rfl⟩ | with_reducible exact .inr ⟨rfl, rfl, rfl, rfl, rfl⟩
      | with_reducible apply only_foldl | intro _ | (split))

theorem linkTestEff_only (hfreeCtr : P .freeCtr) (hmboxes : P .mboxes) (hrequests : P .requests) (hmessages : P .messages) (hlinks : P .links) (a1 : Nat) (a2 :
    MsgWord) {s₀ s : State} (h : changesOnly P s₀ s) : changesOnly P s₀ (linkTestEff s a1 a2) := by
  fun_cases linkTestEff s a1 a2
  all_goals (intros; repeat' first
      | with_reducible assumption | with_reducible apply await_only | with_reducible apply respond_only | with_reducible apply putPort_only
      | with_reducible apply only_ite | with_reducible apply only_mk | with_reducible exact .inl (by assumption) | with_reducible exact .inr rfl
      | with_reducible exact .inr ⟨rfl, rfl⟩ | with_reducible exact .inr ⟨rfl, rfl, rfl⟩ | with_reducible exact .inr ⟨rfl, rfl, rfl, rfl⟩
      | with_reducible exact .inr ⟨rfl, rfl, rfl, rfl, rfl⟩ | with_reducible apply only_foldl | intro _ | (split))

theorem linkTestEndEff_only (hmboxes : P .mboxes) (hrequests : P .requests) (hmessages : P .messages) (hlinks : P .links) (a1 : Nat) (a2 : Nat) (a3 :
    LinkTestResult) {s₀ s : State} (h : changesOnly P s₀ s) : changesOnly P s₀ (linkTestEndEff s a1 a2 a3) := by
  fun_cases linkTestEndEff s a1 a2 a3
  all_goals (intros; repeat' first
      | with_reducible assumption | with_reducible apply respond_only | with_reducible apply modPort_only | with_reducible apply only_ite
      | with_reducible apply only_mk | with_reducible exact .inl (by assumption) | with_reducible exact .inr rfl | with_reducible exact .inr ⟨rfl, rfl⟩
      | with_reducible exact .inr ⟨rfl, rfl, rfl⟩ | with_reducible exact .inr ⟨rfl, rfl, rfl, rfl⟩ | with_reducible exact .inr ⟨rfl, rfl, rfl, rfl, rfl⟩
      | with_reducible apply only_foldl | intro _ | (split))

theorem loopEff_only (hfreeCtr : P .freeCtr) (hmboxes : P .mboxes) (hrequests : P .requests) (hmessages : P .messages) (hlinks : P .links) (a1 : Nat) (a2 : Nat)
    (a3 : Bool) (a4 : Nat) {s₀ s : State} (h : changesOnly P s₀ s) : changesOnly P s₀ (loopEff s a1 a2 a3 a4) := by
  fun_cases loopEff s a1 a2 a3 a4
  all_goals (intros; repeat' first
      | with_reducible assumption | with_reducible apply respond_only | with_reducible apply modPort_only | with_reducible apply putPort_only
      | with_reducible apply only_ite | with_reducible apply only_mk | with_reducible exact .inl (by assumption) | with_reducible exact .inr rfl
      | with_reducible exact .inr ⟨rfl, rfl⟩ | with_reducible exact .inr ⟨rfl, rfl, rfl⟩ | with_reducible exact .inr ⟨rfl, rfl, rfl, rfl⟩
      | with_reducible exact .inr ⟨rfl, rfl, rfl, rfl, rfl⟩ | with_reducible apply only_foldl | intro _ | (split))

theorem releaseRooms_only (hrooms : P .rooms) (a0 : List Nat) {s₀ s : State} (h : changesOnly P s₀ s) : changesOnly P s₀ (releaseRooms a0 s) := by
  fun_induction releaseRooms a0 s
  all_goals intros
  all_goals first | with_reducible assumption | skip
  all_goals repeat' first
      | with_reducible assumption | with_reducible apply_assumption | with_reducible apply modRoom_only | with_reducible apply only_ite
      | with_reducible apply only_mk | with_reducible exact .inl (by assumption) | with_reducible exact .inr rfl | with_reducible exact .inr ⟨rfl, rfl⟩
      | with_reducible exact .inr ⟨rfl, rfl, rfl⟩ | with_reducible exact .inr ⟨rfl, rfl, rfl, rfl⟩ | with_reducible exact .inr ⟨rfl, rfl, rfl, rfl, rfl⟩
      | with_reducible apply only_foldl | intro _ | (split)

theorem requeueTask_only (htasks : P .tasks) (hhealth : P .health) (a0 : Nat) {s₀ s : State} (h : changesOnly P s₀ s) : changesOnly P s₀ (requeueTask a0 s) := by
  fun_cases requeueTask a0 s
  all_goals (intros; repeat' first
      | with_reducible assumption | with_reducible apply modHealth_only | with_reducible apply promote_only | with_reducible apply modTask_only
      | with_reducible apply only_ite | with_reducible apply only_mk | with_reducible exact .inl (by assumption) | with_reducible exact .inr rfl
      | with_reducible exact .inr ⟨rfl, rfl⟩ | with_reducible exact .inr ⟨rfl, rfl, rfl⟩ | with_reducible exact .inr ⟨rfl, rfl, rfl, rfl⟩
      | with_reducible exact .inr ⟨rfl, rfl, rfl, rfl, rfl⟩ | with_reducible apply only_foldl | intro _ | (split))

theorem requeueAll_only (htasks : P .tasks) (hhealth : P .health) (a0 : List Nat) {s₀ s : State} (h : changesOnly P s₀ s) : changesOnly P s₀ (requeueAll a0 s) := by
  induction a0 generalizing  s with
  | nil => exact h
  | cons x xs ih =>
    rw [requeueAll]
    repeat' first
      | with_reducible apply ih
      | with_reducible assumption | with_reducible apply_assumption | with_reducible apply requeueTask_only | with_reducible apply only_ite
      | with_reducible apply only_foldl | intro _ | (split) | with_reducible apply only_mk | with_reducible exact .inl (by assumption)
      | with_reducible exact .inr rfl | with_reducible exact .inr ⟨rfl, rfl⟩ | with_reducible exact .inr ⟨rfl, rfl, rfl⟩
      | with_reducible exact .inr ⟨rfl, rfl, rfl, rfl⟩ | with_reducible exact .inr ⟨rfl, rfl, rfl, rfl, rfl⟩

theorem settleHealth_only (hhealthSt : P .healthSt) (hintStatus : P .intStatus) (hmessages : P .messages) {s₀ s : State} (h : changesOnly P s₀ s) : changesOnly
    P s₀ (settleHealth s) := by
  fun_cases settleHealth s
  all_goals (intros; repeat' first
      | with_reducible assumption | with_reducible apply setHealth_only | with_reducible apply only_ite | with_reducible apply only_mk
      | with_reducible exact .inl (by assumption) | with_reducible exact .inr rfl | with_reducible exact .inr ⟨rfl, rfl⟩
      | with_reducible exact .inr ⟨rfl, rfl, rfl⟩ | with_reducible exact .inr ⟨rfl, rfl, rfl, rfl⟩ | with_reducible exact .inr ⟨rfl, rfl, rfl, rfl, rfl⟩
      | with_reducible apply only_foldl | intro _ | (split))

theorem mappingEff_only (hrooms : P .rooms) (hoffered : P .offered) (hhealthSt : P .healthSt) (htasks : P .tasks) (hintStatus : P .intStatus) (hmessages : P
    .messages) (hside : P .side) (hhealth : P .health) (a1 : Nat) (a2 : Nat) {s₀ s : State} (h : changesOnly P s₀ s) : changesOnly P s₀ (mappingEff s a1 a2) := by
  fun_cases mappingEff s a1 a2
  all_goals (intros; repeat' first
      | with_reducible assumption | with_reducible apply settleHealth_only | with_reducible apply requeueAll_only | with_reducible apply releaseRooms_only
      | with_reducible apply trace_only | with_reducible apply applyActs_only | with_reducible apply modHealth_only | with_reducible apply only_ite
      | with_reducible apply only_mk | with_reducible exact .inl (by assumption) | with_reducible exact .inr rfl | with_reducible exact .inr ⟨rfl, rfl⟩
      | with_reducible exact .inr ⟨rfl, rfl, rfl⟩ | with_reducible exact .inr ⟨rfl, rfl, rfl, rfl⟩ | with_reducible exact .inr ⟨rfl, rfl, rfl, rfl, rfl⟩
      | with_reducible apply only_foldl | intro _ | (split))

theorem mboxWord_only (hmboxes : P .mboxes) (hrequests : P .requests) (a0 : Nat) (a1 : Nat) (a2 : BitVec 32) {s₀ s : State} (h : changesOnly P s₀ s) :
    changesOnly P s₀ (mboxWord a0 a1 a2 s) := by
  fun_cases mboxWord a0 a1 a2 s
  all_goals (intros; repeat' first
      | with_reducible assumption | with_reducible apply doorbellWrite_only | with_reducible apply ctrlWrite_only | with_reducible apply modMbox_only
      | with_reducible apply only_ite | with_reducible apply only_mk | with_reducible exact .inl (by assumption) | with_reducible exact .inr rfl
      | with_reducible exact .inr ⟨rfl, rfl⟩ | with_reducible exact .inr ⟨rfl, rfl, rfl⟩ | with_reducible exact .inr ⟨rfl, rfl, rfl, rfl⟩
      | with_reducible exact .inr ⟨rfl, rfl, rfl, rfl, rfl⟩ | with_reducible apply only_foldl | intro _ | (split))

theorem mbxBindEff_only (hmboxes : P .mboxes) (hrequests : P .requests) (hmessages : P .messages) (a1 : Nat) (a2 : MsgWord) {s₀ s : State} (h : changesOnly P s₀
    s) : changesOnly P s₀ (mbxBindEff s a1 a2) := by
  fun_cases mbxBindEff s a1 a2
  all_goals (intros; repeat' first
      | with_reducible assumption | with_reducible apply respond_only | with_reducible apply modMbox_only | with_reducible apply only_ite
      | with_reducible apply only_mk | with_reducible exact .inl (by assumption) | with_reducible exact .inr rfl | with_reducible exact .inr ⟨rfl, rfl⟩
      | with_reducible exact .inr ⟨rfl, rfl, rfl⟩ | with_reducible exact .inr ⟨rfl, rfl, rfl, rfl⟩ | with_reducible exact .inr ⟨rfl, rfl, rfl, rfl, rfl⟩
      | with_reducible apply only_foldl | intro _ | (split))

theorem moveLatency_only (hfabric : P .fabric) (hlinks : P .links) (a0 : Nat) (a1 : Nat) {s₀ s : State} (h : changesOnly P s₀ s) : changesOnly P s₀ (moveLatency
    a0 a1 s) := by
  fun_cases moveLatency a0 a1 s
  all_goals (intros; repeat' first
      | with_reducible assumption | with_reducible apply markLatency_only | with_reducible apply only_ite | with_reducible apply only_mk
      | with_reducible exact .inl (by assumption) | with_reducible exact .inr rfl | with_reducible exact .inr ⟨rfl, rfl⟩
      | with_reducible exact .inr ⟨rfl, rfl, rfl⟩ | with_reducible exact .inr ⟨rfl, rfl, rfl, rfl⟩ | with_reducible exact .inr ⟨rfl, rfl, rfl, rfl, rfl⟩
      | with_reducible apply only_foldl | intro _ | (split))

theorem nakEff_only (hlinks : P .links) (a1 : Nat) (a2 : Nat) (a3 : Nat) (a4 : Nat) (a5 : Nat) {s₀ s : State} (h : changesOnly P s₀ s) : changesOnly P s₀
    (nakEff s a1 a2 a3 a4 a5) := by
  fun_cases nakEff s a1 a2 a3 a4 a5
  all_goals (intros; repeat' first
      | with_reducible assumption | with_reducible apply modPort_only | with_reducible apply putPort_only | with_reducible apply only_ite
      | with_reducible apply only_mk | with_reducible exact .inl (by assumption) | with_reducible exact .inr rfl | with_reducible exact .inr ⟨rfl, rfl⟩
      | with_reducible exact .inr ⟨rfl, rfl, rfl⟩ | with_reducible exact .inr ⟨rfl, rfl, rfl, rfl⟩ | with_reducible exact .inr ⟨rfl, rfl, rfl, rfl, rfl⟩
      | with_reducible apply only_foldl | intro _ | (split))

theorem narrowLoadEff_only (hfreeCtr : P .freeCtr) (hstore : P .store) (hrooms : P .rooms) (htasks : P .tasks) (hintStatus : P .intStatus) (hmessages : P
    .messages) (hpace : P .pace) (hpower : P .power) (hhealth : P .health) (a1 : Nat) {s₀ s : State} (h : changesOnly P s₀ s) : changesOnly P s₀ (narrowLoadEff
    s a1) := by
  fun_cases narrowLoadEff s a1
  all_goals (intros; repeat' first
      | with_reducible assumption | with_reducible apply settle_only | with_reducible apply modRoom_only | with_reducible apply only_ite
      | with_reducible apply only_mk | with_reducible exact .inl (by assumption) | with_reducible exact .inr rfl | with_reducible exact .inr ⟨rfl, rfl⟩
      | with_reducible exact .inr ⟨rfl, rfl, rfl⟩ | with_reducible exact .inr ⟨rfl, rfl, rfl, rfl⟩ | with_reducible exact .inr ⟨rfl, rfl, rfl, rfl, rfl⟩
      | with_reducible apply only_foldl | intro _ | (split))

theorem serveLoad_only (hstore : P .store) (hrooms : P .rooms) (hintStatus : P .intStatus) (hmessages : P .messages) (hhealth : P .health) (a1 : Nat) (a2 :
    Narrow) (a3 : List Narrow) (a4 : Nat) {s₀ s : State} (h : changesOnly P s₀ s) : changesOnly P s₀ (serveLoad s a1 a2 a3 a4) := by
  fun_cases serveLoad s a1 a2 a3 a4
  all_goals (intros; repeat' first
      | with_reducible assumption | with_reducible apply raiseFault_only | with_reducible apply putStore_only | with_reducible apply noteRead_only
      | with_reducible apply modRoom_only | with_reducible apply only_ite | with_reducible apply only_mk | with_reducible exact .inl (by assumption)
      | with_reducible exact .inr rfl | with_reducible exact .inr ⟨rfl, rfl⟩ | with_reducible exact .inr ⟨rfl, rfl, rfl⟩
      | with_reducible exact .inr ⟨rfl, rfl, rfl, rfl⟩ | with_reducible exact .inr ⟨rfl, rfl, rfl, rfl, rfl⟩ | with_reducible apply only_foldl | intro _
      | (split))

theorem serveStore_only (hstore : P .store) (hrooms : P .rooms) (htasks : P .tasks) (hintStatus : P .intStatus) (hmessages : P .messages) (hhealth : P .health)
    (a1 : Nat) (a2 : Narrow) (a3 : List Narrow) (a4 : Nat) {s₀ s : State} (h : changesOnly P s₀ s) : changesOnly P s₀ (serveStore s a1 a2 a3 a4) := by
  fun_cases serveStore s a1 a2 a3 a4
  all_goals (intros; repeat' first
      | with_reducible assumption | with_reducible apply raiseFault_only | with_reducible apply putStore_only | with_reducible apply noteRead_only
      | with_reducible apply modRoom_only | with_reducible apply modTask_only | with_reducible apply only_ite | with_reducible apply only_mk
      | with_reducible exact .inl (by assumption) | with_reducible exact .inr rfl | with_reducible exact .inr ⟨rfl, rfl⟩
      | with_reducible exact .inr ⟨rfl, rfl, rfl⟩ | with_reducible exact .inr ⟨rfl, rfl, rfl, rfl⟩ | with_reducible exact .inr ⟨rfl, rfl, rfl, rfl, rfl⟩
      | with_reducible apply only_foldl | intro _ | (split))

theorem narrowServiceEff_only (hfreeCtr : P .freeCtr) (hstore : P .store) (hrooms : P .rooms) (hmboxes : P .mboxes) (htasks : P .tasks) (hintStatus : P
    .intStatus) (hrequests : P .requests) (hmessages : P .messages) (hpace : P .pace) (hpower : P .power) (hhealth : P .health) (a1 : Nat) {s₀ s : State} (h :
    changesOnly P s₀ s) : changesOnly P s₀ (narrowServiceEff s a1) := by
  fun_cases narrowServiceEff s a1
  all_goals (intros; repeat' first
      | with_reducible assumption | with_reducible apply serveStore_only | with_reducible apply serveLoad_only | with_reducible apply landCloses_only
      | with_reducible apply settle_only | with_reducible apply takeCycle_only | with_reducible apply only_ite | with_reducible apply only_mk
      | with_reducible exact .inl (by assumption) | with_reducible exact .inr rfl | with_reducible exact .inr ⟨rfl, rfl⟩
      | with_reducible exact .inr ⟨rfl, rfl, rfl⟩ | with_reducible exact .inr ⟨rfl, rfl, rfl, rfl⟩ | with_reducible exact .inr ⟨rfl, rfl, rfl, rfl, rfl⟩
      | with_reducible apply only_foldl | intro _ | (split))

theorem recordWriteEff_only (hfreeCtr : P .freeCtr) (hkeep : P .keep) (hhealth : P .health) {s₀ s : State} (h : changesOnly P s₀ s) : changesOnly P s₀
    (recordWriteEff s) := by
  fun_cases recordWriteEff s
  all_goals (intros; repeat' first
      | with_reducible assumption | with_reducible apply queueKeep_only | with_reducible apply modHealth_only | with_reducible apply only_ite
      | with_reducible apply only_mk | with_reducible exact .inl (by assumption) | with_reducible exact .inr rfl | with_reducible exact .inr ⟨rfl, rfl⟩
      | with_reducible exact .inr ⟨rfl, rfl, rfl⟩ | with_reducible exact .inr ⟨rfl, rfl, rfl, rfl⟩ | with_reducible exact .inr ⟨rfl, rfl, rfl, rfl, rfl⟩
      | with_reducible apply only_foldl | intro _ | (split))

theorem startFlush_only (hfreeCtr : P .freeCtr) (hkeep : P .keep) (hhealth : P .health) {s₀ s : State} (h : changesOnly P s₀ s) : changesOnly P s₀ (startFlush
    s) := by
  fun_cases startFlush s
  all_goals (intros; repeat' first
      | with_reducible assumption | with_reducible apply recordWriteEff_only | with_reducible apply modKeep_only | with_reducible apply queueKeep_only
      | with_reducible apply modHealth_only | with_reducible apply only_ite | with_reducible apply only_mk | with_reducible exact .inl (by assumption)
      | with_reducible exact .inr rfl | with_reducible exact .inr ⟨rfl, rfl⟩ | with_reducible exact .inr ⟨rfl, rfl, rfl⟩
      | with_reducible exact .inr ⟨rfl, rfl, rfl, rfl⟩ | with_reducible exact .inr ⟨rfl, rfl, rfl, rfl, rfl⟩ | with_reducible apply only_foldl | intro _
      | (split))

theorem noReturnEff_only (hfreeCtr : P .freeCtr) (hserving : P .serving) (hmboxes : P .mboxes) (htasks : P .tasks) (hrequests : P .requests) (hmessages : P
    .messages) (hporch : P .porch) (hkeep : P .keep) (hhealth : P .health) (hseq : P .seq) {s₀ s : State} (h : changesOnly P s₀ s) : changesOnly P s₀
    (noReturnEff s) := by
  fun_cases noReturnEff s
  all_goals (intros; repeat' first
      | with_reducible assumption | with_reducible apply startFlush_only | with_reducible apply dropUnwritten_only | with_reducible apply modSeq_only
      | with_reducible apply only_ite | with_reducible apply only_mk | with_reducible exact .inl (by assumption) | with_reducible exact .inr rfl
      | with_reducible exact .inr ⟨rfl, rfl⟩ | with_reducible exact .inr ⟨rfl, rfl, rfl⟩ | with_reducible exact .inr ⟨rfl, rfl, rfl, rfl⟩
      | with_reducible exact .inr ⟨rfl, rfl, rfl, rfl, rfl⟩ | with_reducible apply only_foldl | intro _ | (split))

theorem notAppliedEff_only (hmboxes : P .mboxes) (hstaged : P .staged) (hrequests : P .requests) (hmessages : P .messages) (hpower : P .power) (a1 : Nat) {s₀ s
    : State} (h : changesOnly P s₀ s) : changesOnly P s₀ (notAppliedEff s a1) := by
  fun_cases notAppliedEff s a1
  all_goals (intros; repeat' first
      | with_reducible assumption | with_reducible apply discardStaged_only | with_reducible apply respond_only | with_reducible apply only_ite
      | with_reducible apply only_mk | with_reducible exact .inl (by assumption) | with_reducible exact .inr rfl | with_reducible exact .inr ⟨rfl, rfl⟩
      | with_reducible exact .inr ⟨rfl, rfl, rfl⟩ | with_reducible exact .inr ⟨rfl, rfl, rfl, rfl⟩ | with_reducible exact .inr ⟨rfl, rfl, rfl, rfl, rfl⟩
      | with_reducible apply only_foldl | intro _ | (split))

theorem opFetchEff_only (hstore : P .store) (hrooms : P .rooms) (hintStatus : P .intStatus) (hmessages : P .messages) (hhealth : P .health) (a1 : Nat) {s₀ s :
    State} (h : changesOnly P s₀ s) : changesOnly P s₀ (opFetchEff s a1) := by
  fun_cases opFetchEff s a1
  all_goals (intros; repeat' first
      | with_reducible assumption | with_reducible apply raiseFault_only | with_reducible apply putStore_only | with_reducible apply noteRead_only
      | with_reducible apply modRoom_only | with_reducible apply only_ite | with_reducible apply only_mk | with_reducible exact .inl (by assumption)
      | with_reducible exact .inr rfl | with_reducible exact .inr ⟨rfl, rfl⟩ | with_reducible exact .inr ⟨rfl, rfl, rfl⟩
      | with_reducible exact .inr ⟨rfl, rfl, rfl, rfl⟩ | with_reducible exact .inr ⟨rfl, rfl, rfl, rfl, rfl⟩ | with_reducible apply only_foldl | intro _
      | (split))

theorem openQueue_only (hmboxes : P .mboxes) (hqueues : P .queues) (hrequests : P .requests) (hmessages : P .messages) (hporch : P .porch) (a0 : Nat) (a1 :
    Queue) {s₀ s : State} (h : changesOnly P s₀ s) : changesOnly P s₀ (openQueue a0 a1 s) := by
  fun_cases openQueue a0 a1 s
  all_goals (intros; repeat' first
      | with_reducible assumption | with_reducible apply putStatus_only | with_reducible apply porchFill_only | with_reducible apply await_only
      | with_reducible apply respond_only | with_reducible apply modSteward_only | with_reducible apply only_ite | with_reducible apply only_mk
      | with_reducible exact .inl (by assumption) | with_reducible exact .inr rfl | with_reducible exact .inr ⟨rfl, rfl⟩
      | with_reducible exact .inr ⟨rfl, rfl, rfl⟩ | with_reducible exact .inr ⟨rfl, rfl, rfl, rfl⟩ | with_reducible exact .inr ⟨rfl, rfl, rfl, rfl, rfl⟩
      | with_reducible apply only_foldl | intro _ | (split))

theorem overtakeReset_only (hmboxes : P .mboxes) (hrequests : P .requests) (hmessages : P .messages) (hseq : P .seq) {s₀ s : State} (h : changesOnly P s₀ s) :
    changesOnly P s₀ (overtakeReset s) := by
  fun_cases overtakeReset s
  all_goals (intros; repeat' first
      | with_reducible assumption | with_reducible apply respondAll_only | with_reducible apply modSeq_only | with_reducible apply only_ite
      | with_reducible apply only_mk | with_reducible exact .inl (by assumption) | with_reducible exact .inr rfl | with_reducible exact .inr ⟨rfl, rfl⟩
      | with_reducible exact .inr ⟨rfl, rfl, rfl⟩ | with_reducible exact .inr ⟨rfl, rfl, rfl, rfl⟩ | with_reducible exact .inr ⟨rfl, rfl, rfl, rfl, rfl⟩
      | with_reducible apply only_foldl | intro _ | (split))

theorem placeAll_only (hlinks : P .links) (hhealth : P .health) (a0 : Nat) {s₀ s : State} (h : changesOnly P s₀ s) : changesOnly P s₀ (placeAll a0 s) := by
  fun_cases placeAll a0 s
  all_goals (intros; repeat' first
      | with_reducible assumption | with_reducible apply giveLanes_only | with_reducible apply only_ite | with_reducible apply only_mk
      | with_reducible exact .inl (by assumption) | with_reducible exact .inr rfl | with_reducible exact .inr ⟨rfl, rfl⟩
      | with_reducible exact .inr ⟨rfl, rfl, rfl⟩ | with_reducible exact .inr ⟨rfl, rfl, rfl, rfl⟩ | with_reducible exact .inr ⟨rfl, rfl, rfl, rfl, rfl⟩
      | with_reducible apply only_foldl | intro _ | (split))

theorem placeLate_only (hlinks : P .links) (hhealth : P .health) (a0 : Nat) (a1 : Nat) {s₀ s : State} (h : changesOnly P s₀ s) : changesOnly P s₀ (placeLate a0
    a1 s) := by
  fun_cases placeLate a0 a1 s
  all_goals (intros; repeat' first
      | with_reducible assumption | with_reducible apply modPort_only | with_reducible apply only_ite | with_reducible apply only_mk
      | with_reducible exact .inl (by assumption) | with_reducible exact .inr rfl | with_reducible exact .inr ⟨rfl, rfl⟩
      | with_reducible exact .inr ⟨rfl, rfl, rfl⟩ | with_reducible exact .inr ⟨rfl, rfl, rfl, rfl⟩ | with_reducible exact .inr ⟨rfl, rfl, rfl, rfl, rfl⟩
      | with_reducible apply only_foldl | intro _ | (split))

theorem portRun_only (hfreeCtr : P .freeCtr) (hstore : P .store) (hhealthSt : P .healthSt) (htasks : P .tasks) (hintStatus : P .intStatus) (hmessages : P
    .messages) (hfabric : P .fabric) (hhealth : P .health) (a0 : Nat) (a1 : Nat × Nat) (a2 : Run) {s₀ s : State} (h : changesOnly P s₀ s) : changesOnly P s₀
    (portRun a0 a1 a2 s) := by
  fun_cases portRun a0 a1 a2 s
  all_goals (intros; repeat' first
      | with_reducible assumption | with_reducible apply blameBank_only | with_reducible apply putStore_only | with_reducible apply haltTask_only
      | with_reducible apply modTask_only | with_reducible apply only_ite | with_reducible apply only_mk | with_reducible exact .inl (by assumption)
      | with_reducible exact .inr rfl | with_reducible exact .inr ⟨rfl, rfl⟩ | with_reducible exact .inr ⟨rfl, rfl, rfl⟩
      | with_reducible exact .inr ⟨rfl, rfl, rfl, rfl⟩ | with_reducible exact .inr ⟨rfl, rfl, rfl, rfl, rfl⟩ | with_reducible apply only_foldl | intro _
      | (split))

theorem portAppendEff_only (hfreeCtr : P .freeCtr) (hstore : P .store) (hhealthSt : P .healthSt) (htasks : P .tasks) (hintStatus : P .intStatus) (hmessages : P
    .messages) (hports : P .ports) (hfabric : P .fabric) (hhealth : P .health) (a1 : Nat) (a2 : Nat) (a3 : List Byte) {s₀ s : State} (h : changesOnly P s₀ s) :
    changesOnly P s₀ (portAppendEff s a1 a2 a3) := by
  fun_cases portAppendEff s a1 a2 a3
  all_goals (intros; repeat' first
      | with_reducible assumption | with_reducible apply portRun_only | with_reducible apply modPort'_only | with_reducible apply only_ite
      | with_reducible apply only_mk | with_reducible exact .inl (by assumption) | with_reducible exact .inr rfl | with_reducible exact .inr ⟨rfl, rfl⟩
      | with_reducible exact .inr ⟨rfl, rfl, rfl⟩ | with_reducible exact .inr ⟨rfl, rfl, rfl, rfl⟩ | with_reducible exact .inr ⟨rfl, rfl, rfl, rfl, rfl⟩
      | with_reducible apply only_foldl | intro _ | (split))

theorem portCycleEff_only (hstore : P .store) (hmboxes : P .mboxes) (hrequests : P .requests) (hmessages : P .messages) (hpace : P .pace) (a1 : Nat) {s₀ s :
    State} (h : changesOnly P s₀ s) : changesOnly P s₀ (portCycleEff s a1) := by
  fun_cases portCycleEff s a1
  all_goals (intros; repeat' first
      | with_reducible assumption | with_reducible apply landCloses_only | with_reducible apply modStore_only | with_reducible apply takeCycle_only
      | with_reducible apply only_ite | with_reducible apply only_mk | with_reducible exact .inl (by assumption) | with_reducible exact .inr rfl
      | with_reducible exact .inr ⟨rfl, rfl⟩ | with_reducible exact .inr ⟨rfl, rfl, rfl⟩ | with_reducible exact .inr ⟨rfl, rfl, rfl, rfl⟩
      | with_reducible exact .inr ⟨rfl, rfl, rfl, rfl, rfl⟩ | with_reducible apply only_foldl | intro _ | (split))

theorem portFails_only (hhealthSt : P .healthSt) (hintStatus : P .intStatus) (hmessages : P .messages) (hhealth : P .health) (a0 : Nat) {s₀ s : State} (h :
    changesOnly P s₀ s) : changesOnly P s₀ (portFails a0 s) := by
  fun_cases portFails a0 s
  all_goals (intros; repeat' first
      | with_reducible assumption | with_reducible apply markExhausted_only | with_reducible apply markSpare_only | with_reducible apply modUnit_only
      | with_reducible apply only_ite | with_reducible apply only_mk | with_reducible exact .inl (by assumption) | with_reducible exact .inr rfl
      | with_reducible exact .inr ⟨rfl, rfl⟩ | with_reducible exact .inr ⟨rfl, rfl, rfl⟩ | with_reducible exact .inr ⟨rfl, rfl, rfl, rfl⟩
      | with_reducible exact .inr ⟨rfl, rfl, rfl, rfl, rfl⟩ | with_reducible apply only_foldl | intro _ | (split))

theorem portLossEff_only (hfreeCtr : P .freeCtr) (hhealthSt : P .healthSt) (hintStatus : P .intStatus) (hmessages : P .messages) (hfabric : P .fabric) (hlinks :
    P .links) (hhealth : P .health) (a1 : Nat) (a2 : Nat) {s₀ s : State} (h : changesOnly P s₀ s) : changesOnly P s₀ (portLossEff s a1 a2) := by
  fun_cases portLossEff s a1 a2
  all_goals (intros; repeat' first
      | with_reducible assumption | with_reducible apply moveLatency_only | with_reducible apply settleHealth_only | with_reducible apply markExhausted_only
      | with_reducible apply markSpare_only | with_reducible apply countFault_only | with_reducible apply modPort_only | with_reducible apply raiseInt_only
      | with_reducible apply only_ite | with_reducible apply only_mk | with_reducible exact .inl (by assumption) | with_reducible exact .inr rfl
      | with_reducible exact .inr ⟨rfl, rfl⟩ | with_reducible exact .inr ⟨rfl, rfl, rfl⟩ | with_reducible exact .inr ⟨rfl, rfl, rfl, rfl⟩
      | with_reducible exact .inr ⟨rfl, rfl, rfl, rfl, rfl⟩ | with_reducible apply only_foldl | intro _ | (split))

theorem portTakeEff_only (hfreeCtr : P .freeCtr) (hstore : P .store) (hhealthSt : P .healthSt) (htasks : P .tasks) (hintStatus : P .intStatus) (hmessages : P
    .messages) (hports : P .ports) (hfabric : P .fabric) (hhealth : P .health) (a1 : Nat) (a2 : Nat) {s₀ s : State} (h : changesOnly P s₀ s) : changesOnly P s₀
    (portTakeEff s a1 a2) := by
  fun_cases portTakeEff s a1 a2
  all_goals (intros; repeat' first
      | with_reducible assumption | with_reducible apply portRun_only | with_reducible apply modPort'_only | with_reducible apply only_ite
      | with_reducible apply only_mk | with_reducible exact .inl (by assumption) | with_reducible exact .inr rfl | with_reducible exact .inr ⟨rfl, rfl⟩
      | with_reducible exact .inr ⟨rfl, rfl, rfl⟩ | with_reducible exact .inr ⟨rfl, rfl, rfl, rfl⟩ | with_reducible exact .inr ⟨rfl, rfl, rfl, rfl, rfl⟩
      | with_reducible apply only_foldl | intro _ | (split))

theorem postedEff_only (hqueues : P .queues) (htasks : P .tasks) (hrequests : P .requests) (hmessages : P .messages) (a1 : Nat) (a2 : BitVec 32) (a3 : BitVec
    32) {s₀ s : State} (h : changesOnly P s₀ s) : changesOnly P s₀ (postedEff s a1 a2 a3) := by
  fun_cases postedEff s a1 a2 a3
  all_goals (intros; repeat' first
      | with_reducible assumption | with_reducible apply promote_only | with_reducible apply tryRecord_only | with_reducible apply modQueue_only
      | with_reducible apply only_ite | with_reducible apply only_mk | with_reducible exact .inl (by assumption) | with_reducible exact .inr rfl
      | with_reducible exact .inr ⟨rfl, rfl⟩ | with_reducible exact .inr ⟨rfl, rfl, rfl⟩ | with_reducible exact .inr ⟨rfl, rfl, rfl, rfl⟩
      | with_reducible exact .inr ⟨rfl, rfl, rfl, rfl, rfl⟩ | with_reducible apply only_foldl | intro _ | (split))

theorem refuseStaged_only (hmboxes : P .mboxes) (hstaged : P .staged) (hrequests : P .requests) (hmessages : P .messages) (hpower : P .power) (a0 : List Staged)
    {s₀ s : State} (h : changesOnly P s₀ s) : changesOnly P s₀ (refuseStaged a0 s) := by
  fun_induction refuseStaged a0 s
  all_goals intros
  all_goals first | with_reducible assumption | skip
  all_goals repeat' first
      | with_reducible assumption | with_reducible apply_assumption | with_reducible apply discardStaged_only | with_reducible apply respond_only
      | with_reducible apply only_ite | with_reducible apply only_mk | with_reducible exact .inl (by assumption) | with_reducible exact .inr rfl
      | with_reducible exact .inr ⟨rfl, rfl⟩ | with_reducible exact .inr ⟨rfl, rfl, rfl⟩ | with_reducible exact .inr ⟨rfl, rfl, rfl, rfl⟩
      | with_reducible exact .inr ⟨rfl, rfl, rfl, rfl, rfl⟩ | with_reducible apply only_foldl | intro _ | (split)

theorem stopChannels_only (hhatch : P .hatch) (a0 : List Nat) {s₀ s : State} (h : changesOnly P s₀ s) : changesOnly P s₀ (stopChannels a0 s) := by
  fun_induction stopChannels a0 s
  all_goals intros
  all_goals first | with_reducible assumption | skip
  all_goals repeat' first
      | with_reducible assumption | with_reducible apply_assumption | with_reducible apply hatchStop_only | with_reducible apply only_ite
      | with_reducible apply only_mk | with_reducible exact .inl (by assumption) | with_reducible exact .inr rfl | with_reducible exact .inr ⟨rfl, rfl⟩
      | with_reducible exact .inr ⟨rfl, rfl, rfl⟩ | with_reducible exact .inr ⟨rfl, rfl, rfl, rfl⟩ | with_reducible exact .inr ⟨rfl, rfl, rfl, rfl, rfl⟩
      | with_reducible apply only_foldl | intro _ | (split)

theorem powerDownEff_only (hphase : P .phase) (hmboxes : P .mboxes) (hstaged : P .staged) (htasks : P .tasks) (hintStatus : P .intStatus) (hrequests : P
    .requests) (hmessages : P .messages) (hhatch : P .hatch) (hfabric : P .fabric) (hpower : P .power) (hseq : P .seq) {s₀ s : State} (h : changesOnly P s₀ s) :
    changesOnly P s₀ (powerDownEff s) := by
  fun_cases powerDownEff s
  all_goals (intros; repeat' first
      | with_reducible assumption | with_reducible apply stopChannels_only | with_reducible apply refuseStaged_only | with_reducible apply overtakeReset_only
      | with_reducible apply setPhase_only | with_reducible apply haltAll_only | with_reducible apply modSeq_only | with_reducible apply only_ite
      | with_reducible apply only_mk | with_reducible exact .inl (by assumption) | with_reducible exact .inr rfl | with_reducible exact .inr ⟨rfl, rfl⟩
      | with_reducible exact .inr ⟨rfl, rfl, rfl⟩ | with_reducible exact .inr ⟨rfl, rfl, rfl, rfl⟩ | with_reducible exact .inr ⟨rfl, rfl, rfl, rfl, rfl⟩
      | with_reducible apply only_foldl | intro _ | (split))

theorem powerUp_only (hseq : P .seq) {s₀ s : State} (h : changesOnly P s₀ s) : changesOnly P s₀ (powerUp s) := by
  fun_cases powerUp s
  all_goals (intros; repeat' first
      | with_reducible assumption | with_reducible apply modSeq_only | with_reducible apply only_ite | with_reducible apply only_mk
      | with_reducible exact .inl (by assumption) | with_reducible exact .inr rfl | with_reducible exact .inr ⟨rfl, rfl⟩
      | with_reducible exact .inr ⟨rfl, rfl, rfl⟩ | with_reducible exact .inr ⟨rfl, rfl, rfl, rfl⟩ | with_reducible exact .inr ⟨rfl, rfl, rfl, rfl, rfl⟩
      | with_reducible apply only_foldl | intro _ | (split))

theorem preRampEff_only (hpower : P .power) (a1 : Nat) {s₀ s : State} (h : changesOnly P s₀ s) : changesOnly P s₀ (preRampEff s a1) := by
  fun_cases preRampEff s a1
  all_goals (intros; repeat' first
      | with_reducible assumption | with_reducible apply modHall_only | with_reducible apply only_ite | with_reducible apply only_mk
      | with_reducible exact .inl (by assumption) | with_reducible exact .inr rfl | with_reducible exact .inr ⟨rfl, rfl⟩
      | with_reducible exact .inr ⟨rfl, rfl, rfl⟩ | with_reducible exact .inr ⟨rfl, rfl, rfl, rfl⟩ | with_reducible exact .inr ⟨rfl, rfl, rfl, rfl, rfl⟩
      | with_reducible apply only_foldl | intro _ | (split))

theorem startSwap_only (hlinks : P .links) (a0 : Nat) (a1 : Nat) (a2 : Nat) (a3 : Nat) {s₀ s : State} (h : changesOnly P s₀ s) : changesOnly P s₀ (startSwap a0
    a1 a2 a3 s) := by
  fun_cases startSwap a0 a1 a2 a3 s
  all_goals (intros; repeat' first
      | with_reducible assumption | with_reducible apply modPorts_only | with_reducible apply only_ite | with_reducible apply only_mk
      | with_reducible exact .inl (by assumption) | with_reducible exact .inr rfl | with_reducible exact .inr ⟨rfl, rfl⟩
      | with_reducible exact .inr ⟨rfl, rfl, rfl⟩ | with_reducible exact .inr ⟨rfl, rfl, rfl, rfl⟩ | with_reducible exact .inr ⟨rfl, rfl, rfl, rfl, rfl⟩
      | with_reducible apply only_foldl | intro _ | (split))

theorem proactiveEff_only (hintStatus : P .intStatus) (hmessages : P .messages) (hlinks : P .links) (hhealth : P .health) (a1 : Nat) (a2 : Nat) {s₀ s : State}
    (h : changesOnly P s₀ s) : changesOnly P s₀ (proactiveEff s a1 a2) := by
  fun_cases proactiveEff s a1 a2
  all_goals (intros; repeat' first
      | with_reducible assumption | with_reducible apply startSwap_only | with_reducible apply markSpare_only | with_reducible apply modHealth_only
      | with_reducible apply only_ite | with_reducible apply only_mk | with_reducible exact .inl (by assumption) | with_reducible exact .inr rfl
      | with_reducible exact .inr ⟨rfl, rfl⟩ | with_reducible exact .inr ⟨rfl, rfl, rfl⟩ | with_reducible exact .inr ⟨rfl, rfl, rfl, rfl⟩
      | with_reducible exact .inr ⟨rfl, rfl, rfl, rfl, rfl⟩ | with_reducible apply only_foldl | intro _ | (split))

theorem pulseEff_only (hfreeCtr : P .freeCtr) (hqueues : P .queues) (htasks : P .tasks) (hintStatus : P .intStatus) (hrequests : P .requests) (hmessages : P
    .messages) (hfabric : P .fabric) (htime : P .time) (a1 : Int) {s₀ s : State} (h : changesOnly P s₀ s) : changesOnly P s₀ (pulseEff s a1) := by
  fun_cases pulseEff s a1
  all_goals (intros; repeat' first
      | with_reducible assumption | with_reducible apply applyTheta_only | with_reducible apply modTime_only | with_reducible apply only_ite
      | with_reducible apply only_mk | with_reducible exact .inl (by assumption) | with_reducible exact .inr rfl | with_reducible exact .inr ⟨rfl, rfl⟩
      | with_reducible exact .inr ⟨rfl, rfl, rfl⟩ | with_reducible exact .inr ⟨rfl, rfl, rfl, rfl⟩ | with_reducible exact .inr ⟨rfl, rfl, rfl, rfl, rfl⟩
      | with_reducible apply only_foldl | intro _ | (split))

theorem qstateResetEff_only (hstore : P .store) (hmboxes : P .mboxes) (hrequests : P .requests) (hmessages : P .messages) (a1 : Nat) (a2 : MsgWord) {s₀ s :
    State} (h : changesOnly P s₀ s) : changesOnly P s₀ (qstateResetEff s a1 a2) := by
  fun_cases qstateResetEff s a1 a2
  all_goals (intros; repeat' first
      | with_reducible assumption | with_reducible apply modStore_only | with_reducible apply respond_only | with_reducible apply only_ite
      | with_reducible apply only_mk | with_reducible exact .inl (by assumption) | with_reducible exact .inr rfl | with_reducible exact .inr ⟨rfl, rfl⟩
      | with_reducible exact .inr ⟨rfl, rfl, rfl⟩ | with_reducible exact .inr ⟨rfl, rfl, rfl, rfl⟩ | with_reducible exact .inr ⟨rfl, rfl, rfl, rfl, rfl⟩
      | with_reducible apply only_foldl | intro _ | (split))

theorem queueCreateEff_only (hmboxes : P .mboxes) (hqueues : P .queues) (hrequests : P .requests) (hmessages : P .messages) (hporch : P .porch) (a1 : Nat) (a2 :
    MsgWord) {s₀ s : State} (h : changesOnly P s₀ s) : changesOnly P s₀ (queueCreateEff s a1 a2) := by
  fun_cases queueCreateEff s a1 a2
  all_goals (intros; repeat' first
      | with_reducible assumption | with_reducible apply openQueue_only | with_reducible apply respond_only | with_reducible apply only_ite
      | with_reducible apply only_mk | with_reducible exact .inl (by assumption) | with_reducible exact .inr rfl | with_reducible exact .inr ⟨rfl, rfl⟩
      | with_reducible exact .inr ⟨rfl, rfl, rfl⟩ | with_reducible exact .inr ⟨rfl, rfl, rfl, rfl⟩ | with_reducible exact .inr ⟨rfl, rfl, rfl, rfl, rfl⟩
      | with_reducible apply only_foldl | intro _ | (split))

theorem queueDestroyEff_only (hmboxes : P .mboxes) (hqueues : P .queues) (hrequests : P .requests) (hmessages : P .messages) (hporch : P .porch) (a1 : Nat) (a2
    : MsgWord) {s₀ s : State} (h : changesOnly P s₀ s) : changesOnly P s₀ (queueDestroyEff s a1 a2) := by
  fun_cases queueDestroyEff s a1 a2
  all_goals (intros; repeat' first
      | with_reducible assumption | with_reducible apply endQueue_only | with_reducible apply killDesc_only | with_reducible apply await_only
      | with_reducible apply respond_only | with_reducible apply modQueue_only | with_reducible apply only_ite | with_reducible apply only_mk
      | with_reducible exact .inl (by assumption) | with_reducible exact .inr rfl | with_reducible exact .inr ⟨rfl, rfl⟩
      | with_reducible exact .inr ⟨rfl, rfl, rfl⟩ | with_reducible exact .inr ⟨rfl, rfl, rfl, rfl⟩ | with_reducible exact .inr ⟨rfl, rfl, rfl, rfl, rfl⟩
      | with_reducible apply only_foldl | intro _ | (split))

theorem railTimeoutEff_only (hphase : P .phase) (hserving : P .serving) (hintStatus : P .intStatus) (hmessages : P .messages) (hseq : P .seq) {s₀ s : State} (h
    : changesOnly P s₀ s) : changesOnly P s₀ (railTimeoutEff s) := by
  fun_cases railTimeoutEff s
  all_goals (intros; repeat' first
      | with_reducible assumption | with_reducible apply failWith_only | with_reducible apply modSeq_only | with_reducible apply only_ite
      | with_reducible apply only_mk | with_reducible exact .inl (by assumption) | with_reducible exact .inr rfl | with_reducible exact .inr ⟨rfl, rfl⟩
      | with_reducible exact .inr ⟨rfl, rfl, rfl⟩ | with_reducible exact .inr ⟨rfl, rfl, rfl, rfl⟩ | with_reducible exact .inr ⟨rfl, rfl, rfl, rfl, rfl⟩
      | with_reducible apply only_foldl | intro _ | (split))

theorem readyEff_only (hqueues : P .queues) (htasks : P .tasks) (hrequests : P .requests) (hmessages : P .messages) (hfabric : P .fabric) (a0 : Frame) {s₀ s :
    State} (h : changesOnly P s₀ s) : changesOnly P s₀ (readyEff a0 s) := by
  fun_cases readyEff a0 s
  all_goals (intros; repeat' first
      | with_reducible assumption | with_reducible apply tryRound_only | with_reducible apply leaderRefuse_only | with_reducible apply modFabric_only
      | with_reducible apply only_ite | with_reducible apply only_mk | with_reducible exact .inl (by assumption) | with_reducible exact .inr rfl
      | with_reducible exact .inr ⟨rfl, rfl⟩ | with_reducible exact .inr ⟨rfl, rfl, rfl⟩ | with_reducible exact .inr ⟨rfl, rfl, rfl, rfl⟩
      | with_reducible exact .inr ⟨rfl, rfl, rfl, rfl, rfl⟩ | with_reducible apply only_foldl | intro _ | (split))

theorem recordAckEff_only (hmboxes : P .mboxes) (hqueues : P .queues) (hfences : P .fences) (htasks : P .tasks) (hrequests : P .requests) (hmessages : P
    .messages) (hporch : P .porch) (hside : P .side) (hseq : P .seq) (a1 : Nat) {s₀ s : State} (h : changesOnly P s₀ s) : changesOnly P s₀ (recordAckEff s a1) := by
  unfold recordAckEff
  try dsimp only
  repeat' first
      | with_reducible assumption | with_reducible apply setFence_only | with_reducible apply endQueue_only | with_reducible apply trace_only
      | with_reducible apply putStatus_only | with_reducible apply resetAnswer_only | with_reducible apply addEvt_only | with_reducible apply promote_only
      | with_reducible apply tryRecord_only | with_reducible apply modQueue_only | with_reducible apply modTask_only | with_reducible apply only_ite
      | with_reducible apply only_foldl | intro _ | (split) | with_reducible apply only_mk | with_reducible exact .inl (by assumption)
      | with_reducible exact .inr rfl | with_reducible exact .inr ⟨rfl, rfl⟩ | with_reducible exact .inr ⟨rfl, rfl, rfl⟩
      | with_reducible exact .inr ⟨rfl, rfl, rfl, rfl⟩ | with_reducible exact .inr ⟨rfl, rfl, rfl, rfl, rfl⟩

theorem refreshAll_only (hfabric : P .fabric) (hlinks : P .links) (a0 : Nat) (a1 : Bool) (a2 : List Nat) {s₀ s : State} (h : changesOnly P s₀ s) : changesOnly P
    s₀ (refreshAll a0 a1 a2 s) := by
  fun_induction refreshAll a0 a1 a2 s
  all_goals intros
  all_goals first | with_reducible assumption | skip
  all_goals repeat' first
      | with_reducible assumption | with_reducible apply_assumption | with_reducible apply refreshBundle_only | with_reducible apply only_ite
      | with_reducible apply only_mk | with_reducible exact .inl (by assumption) | with_reducible exact .inr rfl | with_reducible exact .inr ⟨rfl, rfl⟩
      | with_reducible exact .inr ⟨rfl, rfl, rfl⟩ | with_reducible exact .inr ⟨rfl, rfl, rfl, rfl⟩ | with_reducible exact .inr ⟨rfl, rfl, rfl, rfl, rfl⟩
      | with_reducible apply only_foldl | intro _ | (split)

theorem refuseEff_only (hqueues : P .queues) (htasks : P .tasks) (hrequests : P .requests) (hmessages : P .messages) (hfabric : P .fabric) (a0 : Frame) {s₀ s :
    State} (h : changesOnly P s₀ s) : changesOnly P s₀ (refuseEff a0 s) := by
  fun_cases refuseEff a0 s
  all_goals (intros; repeat' first
      | with_reducible assumption | with_reducible apply modFabric_only | with_reducible apply promote_only | with_reducible apply finishTask_only
      | with_reducible apply only_ite | with_reducible apply only_mk | with_reducible exact .inl (by assumption) | with_reducible exact .inr rfl
      | with_reducible exact .inr ⟨rfl, rfl⟩ | with_reducible exact .inr ⟨rfl, rfl, rfl⟩ | with_reducible exact .inr ⟨rfl, rfl, rfl, rfl⟩
      | with_reducible exact .inr ⟨rfl, rfl, rfl, rfl, rfl⟩ | with_reducible apply only_foldl | intro _ | (split))

theorem refuseMembers_only (hfabric : P .fabric) (a0 : BitVec 64) (a1 : Nat) (a2 : Nat) (a3 : Nat) (a4 : List MemberRec) {s₀ s : State} (h : changesOnly P s₀ s)
    : changesOnly P s₀ (refuseMembers a0 a1 a2 a3 a4 s) := by
  fun_induction refuseMembers a0 a1 a2 a3 a4 s
  all_goals intros
  all_goals first | with_reducible assumption | skip
  all_goals repeat' first
      | with_reducible assumption | with_reducible apply_assumption | with_reducible apply sendMgmt_only | with_reducible apply only_ite
      | with_reducible apply only_mk | with_reducible exact .inl (by assumption) | with_reducible exact .inr rfl | with_reducible exact .inr ⟨rfl, rfl⟩
      | with_reducible exact .inr ⟨rfl, rfl, rfl⟩ | with_reducible exact .inr ⟨rfl, rfl, rfl, rfl⟩ | with_reducible exact .inr ⟨rfl, rfl, rfl, rfl, rfl⟩
      | with_reducible apply only_foldl | intro _ | (split)

theorem regReply_only (hmessages : P .messages) (a0 : Nat) (a1 : Nat) (a2 : List Byte) {s₀ s : State} (h : changesOnly P s₀ s) : changesOnly P s₀ (regReply a0
    a1 a2 s) := by
  fun_cases regReply a0 a1 a2 s
  all_goals (intros; repeat' first
      | with_reducible assumption | with_reducible apply sendMsg_only | with_reducible apply only_ite | with_reducible apply only_mk
      | with_reducible exact .inl (by assumption) | with_reducible exact .inr rfl | with_reducible exact .inr ⟨rfl, rfl⟩
      | with_reducible exact .inr ⟨rfl, rfl, rfl⟩ | with_reducible exact .inr ⟨rfl, rfl, rfl, rfl⟩ | with_reducible exact .inr ⟨rfl, rfl, rfl, rfl, rfl⟩
      | with_reducible apply only_foldl | intro _ | (split))

theorem regWord_only (hfreeCtr : P .freeCtr) (hstore : P .store) (hmboxes : P .mboxes) (hintStatus : P .intStatus) (hintEnable : P .intEnable) (htimeout : P
    .timeout) (hrequests : P .requests) (hmessages : P .messages) (hhatch : P .hatch) (hsnap : P .snap) (hlinks : P .links) (htime : P .time) (hpace : P .pace)
    (hpower : P .power) (hhealth : P .health) (hseq : P .seq) (a0 : Nat) (a1 : BitVec 32) {s₀ s : State} (h : changesOnly P s₀ s) : changesOnly P s₀ (regWord a0
    a1 s) := by
  fun_cases regWord a0 a1 s
  all_goals (intros; repeat' first
      | with_reducible assumption | with_reducible apply mboxWord_only | with_reducible apply hatchWord_only | with_reducible apply hallWord_only
      | with_reducible apply globalWrite_only | with_reducible apply gateWord_only | with_reducible apply engineWord_only | with_reducible apply only_ite
      | with_reducible apply only_mk | with_reducible exact .inl (by assumption) | with_reducible exact .inr rfl | with_reducible exact .inr ⟨rfl, rfl⟩
      | with_reducible exact .inr ⟨rfl, rfl, rfl⟩ | with_reducible exact .inr ⟨rfl, rfl, rfl, rfl⟩ | with_reducible exact .inr ⟨rfl, rfl, rfl, rfl, rfl⟩
      | with_reducible apply only_foldl | intro _ | (split))

theorem registerWriteEff_only (hfreeCtr : P .freeCtr) (hstore : P .store) (hmboxes : P .mboxes) (hintStatus : P .intStatus) (hintEnable : P .intEnable)
    (htimeout : P .timeout) (hrequests : P .requests) (hmessages : P .messages) (hhatch : P .hatch) (hsnap : P .snap) (hlinks : P .links) (htime : P .time)
    (hpace : P .pace) (hpower : P .power) (hhealth : P .health) (hseq : P .seq) (a1 : Nat) (a2 : Nat) (a3 : Nat) (a4 : BitVec 64) {s₀ s : State} (h :
    changesOnly P s₀ s) : changesOnly P s₀ (registerWriteEff s a1 a2 a3 a4) := by
  fun_cases registerWriteEff s a1 a2 a3 a4
  all_goals (intros; repeat' first
      | with_reducible assumption | with_reducible apply regWord_only | with_reducible apply regReply_only | with_reducible apply only_ite
      | with_reducible apply only_mk | with_reducible exact .inl (by assumption) | with_reducible exact .inr rfl | with_reducible exact .inr ⟨rfl, rfl⟩
      | with_reducible exact .inr ⟨rfl, rfl, rfl⟩ | with_reducible exact .inr ⟨rfl, rfl, rfl, rfl⟩ | with_reducible exact .inr ⟨rfl, rfl, rfl, rfl, rfl⟩
      | with_reducible apply only_foldl | intro _ | (split))

theorem registrarActs_only (hfreeCtr : P .freeCtr) (hfabricSt : P .fabricSt) (hintStatus : P .intStatus) (hmessages : P .messages) (hfabric : P .fabric) (htime
    : P .time) (a0 : AdmRec) (a1 : Bool) {s₀ s : State} (h : changesOnly P s₀ s) : changesOnly P s₀ (registrarActs a0 a1 s) := by
  fun_cases registrarActs a0 a1 s
  all_goals (intros; repeat' first
      | with_reducible assumption | with_reducible apply issueUpdate_only | with_reducible apply announceAll_only | with_reducible apply only_ite
      | with_reducible apply only_mk | with_reducible exact .inl (by assumption) | with_reducible exact .inr rfl | with_reducible exact .inr ⟨rfl, rfl⟩
      | with_reducible exact .inr ⟨rfl, rfl, rfl⟩ | with_reducible exact .inr ⟨rfl, rfl, rfl, rfl⟩ | with_reducible exact .inr ⟨rfl, rfl, rfl, rfl, rfl⟩
      | with_reducible apply only_foldl | intro _ | (split))

theorem releaseEff_only (hmboxes : P .mboxes) (hrequests : P .requests) (hmessages : P .messages) (hsnap : P .snap) (a1 : Nat) {s₀ s : State} (h : changesOnly P
    s₀ s) : changesOnly P s₀ (releaseEff s a1) := by
  fun_cases releaseEff s a1
  all_goals (intros; repeat' first
      | with_reducible assumption | with_reducible apply endFreeze_only | with_reducible apply await_only | with_reducible apply modSnap_only
      | with_reducible apply respond_only | with_reducible apply only_ite | with_reducible apply only_mk | with_reducible exact .inl (by assumption)
      | with_reducible exact .inr rfl | with_reducible exact .inr ⟨rfl, rfl⟩ | with_reducible exact .inr ⟨rfl, rfl, rfl⟩
      | with_reducible exact .inr ⟨rfl, rfl, rfl, rfl⟩ | with_reducible exact .inr ⟨rfl, rfl, rfl, rfl, rfl⟩ | with_reducible apply only_foldl | intro _
      | (split))

theorem releaseSync_only (hrooms : P .rooms) (a0 : List Nat) {s₀ s : State} (h : changesOnly P s₀ s) : changesOnly P s₀ (releaseSync a0 s) := by
  fun_induction releaseSync a0 s
  all_goals intros
  all_goals first | with_reducible assumption | skip
  all_goals repeat' first
      | with_reducible assumption | with_reducible apply_assumption | with_reducible apply modRoom_only | with_reducible apply only_ite
      | with_reducible apply only_mk | with_reducible exact .inl (by assumption) | with_reducible exact .inr rfl | with_reducible exact .inr ⟨rfl, rfl⟩
      | with_reducible exact .inr ⟨rfl, rfl, rfl⟩ | with_reducible exact .inr ⟨rfl, rfl, rfl, rfl⟩ | with_reducible exact .inr ⟨rfl, rfl, rfl, rfl, rfl⟩
      | with_reducible apply only_foldl | intro _ | (split)

theorem relocationEff_only (hstore : P .store) (hhealthSt : P .healthSt) (himages : P .images) (hintStatus : P .intStatus) (hmessages : P .messages) (hhealth :
    P .health) (a1 : Nat) (a2 : Nat) {s₀ s : State} (h : changesOnly P s₀ s) : changesOnly P s₀ (relocationEff s a1 a2) := by
  fun_cases relocationEff s a1 a2
  all_goals (intros; repeat' first
      | with_reducible assumption | with_reducible apply dropCopies_only | with_reducible apply markExhausted_only | with_reducible apply modMap_only
      | with_reducible apply markSpare_only | with_reducible apply modStore_only | with_reducible apply modUnit_only | with_reducible apply modHealth_only
      | with_reducible apply only_ite | with_reducible apply only_mk | with_reducible exact .inl (by assumption) | with_reducible exact .inr rfl
      | with_reducible exact .inr ⟨rfl, rfl⟩ | with_reducible exact .inr ⟨rfl, rfl, rfl⟩ | with_reducible exact .inr ⟨rfl, rfl, rfl, rfl⟩
      | with_reducible exact .inr ⟨rfl, rfl, rfl, rfl, rfl⟩ | with_reducible apply only_foldl | intro _ | (split))

theorem remoteEff_only (hstore : P .store) (hrooms : P .rooms) (hmboxes : P .mboxes) (hrequests : P .requests) (hmessages : P .messages) (hpace : P .pace) (a1 :
    Nat) {s₀ s : State} (h : changesOnly P s₀ s) : changesOnly P s₀ (remoteEff s a1) := by
  have k : ∀ f : Store → Store, changesOnly P s₀ (landCloses (modStore f s)) := fun f => by
    apply landCloses_only <;> first | with_reducible assumption | (apply modStore_only <;> with_reducible assumption)
  unfold remoteEff
  split
  · exact h
  · extract_lets a
    apply takeCycle_only ‹_›
    split
    · apply addSignal_only ‹_›; exact k _
    · exact k _

theorem repairEff_only (hhealthSt : P .healthSt) (htasks : P .tasks) (hintStatus : P .intStatus) (hmessages : P .messages) (hside : P .side) (hsnap : P .snap)
    (hfabric : P .fabric) (hhealth : P .health) (a1 : Nat) (a2 : Nat) {s₀ s : State} (h : changesOnly P s₀ s) : changesOnly P s₀ (repairEff s a1 a2) := by
  fun_cases repairEff s a1 a2
  all_goals (intros; repeat' first
      | with_reducible assumption | with_reducible apply endFreeze_only | with_reducible apply trace_only | with_reducible apply markRepair_only
      | with_reducible apply haltForRepair_only | with_reducible apply setHealth_only | with_reducible apply modHealth_only | with_reducible apply only_ite
      | with_reducible apply only_mk | with_reducible exact .inl (by assumption) | with_reducible exact .inr rfl | with_reducible exact .inr ⟨rfl, rfl⟩
      | with_reducible exact .inr ⟨rfl, rfl, rfl⟩ | with_reducible exact .inr ⟨rfl, rfl, rfl, rfl⟩ | with_reducible exact .inr ⟨rfl, rfl, rfl, rfl, rfl⟩
      | with_reducible apply only_foldl | intro _ | (split))

theorem replaceMould_only (hfreeCtr : P .freeCtr) (hoffered : P .offered) (hhealthSt : P .healthSt) (hintStatus : P .intStatus) (hmessages : P .messages)
    (hhealth : P .health) (a0 : Nat) {s₀ s : State} (h : changesOnly P s₀ s) : changesOnly P s₀ (replaceMould a0 s) := by
  fun_cases replaceMould a0 s
  all_goals (intros; repeat' first
      | with_reducible assumption | with_reducible apply applyAct_only | with_reducible apply only_ite | with_reducible apply only_mk
      | with_reducible exact .inl (by assumption) | with_reducible exact .inr rfl | with_reducible exact .inr ⟨rfl, rfl⟩
      | with_reducible exact .inr ⟨rfl, rfl, rfl⟩ | with_reducible exact .inr ⟨rfl, rfl, rfl, rfl⟩ | with_reducible exact .inr ⟨rfl, rfl, rfl, rfl, rfl⟩
      | with_reducible apply only_foldl | intro _ | (split))

theorem replacementEndEff_only (hfreeCtr : P .freeCtr) (hstore : P .store) (hrooms : P .rooms) (hoffered : P .offered) (hhealthSt : P .healthSt) (hintStatus : P
    .intStatus) (hmessages : P .messages) (hhealth : P .health) (a1 : Nat) (a2 : Nat) {s₀ s : State} (h : changesOnly P s₀ s) : changesOnly P s₀
    (replacementEndEff s a1 a2) := by
  unfold replacementEndEff
  try dsimp only
  repeat' first
      | with_reducible assumption | with_reducible apply replaceMould_only | with_reducible apply settleHealth_only | with_reducible apply bringIn_only
      | with_reducible apply mapSpare_only | with_reducible apply modHealth_only | with_reducible apply only_ite | with_reducible apply only_foldl | intro _
      | (split) | with_reducible apply only_mk | with_reducible exact .inl (by assumption) | with_reducible exact .inr rfl
      | with_reducible exact .inr ⟨rfl, rfl⟩ | with_reducible exact .inr ⟨rfl, rfl, rfl⟩ | with_reducible exact .inr ⟨rfl, rfl, rfl, rfl⟩
      | with_reducible exact .inr ⟨rfl, rfl, rfl, rfl, rfl⟩

theorem replayHeadEff_only (hlinks : P .links) (a1 : Nat) (a2 : Nat) (a3 : Nat) (a4 : Nat) (a5 : Nat) (a6 : List (Nat × Block)) {s₀ s : State} (h : changesOnly
    P s₀ s) : changesOnly P s₀ (replayHeadEff s a1 a2 a3 a4 a5 a6) := by
  fun_cases replayHeadEff s a1 a2 a3 a4 a5 a6
  all_goals (intros; repeat' first
      | with_reducible assumption | with_reducible apply modPort_only | with_reducible apply only_ite | with_reducible apply only_mk
      | with_reducible exact .inl (by assumption) | with_reducible exact .inr rfl | with_reducible exact .inr ⟨rfl, rfl⟩
      | with_reducible exact .inr ⟨rfl, rfl, rfl⟩ | with_reducible exact .inr ⟨rfl, rfl, rfl, rfl⟩ | with_reducible exact .inr ⟨rfl, rfl, rfl, rfl, rfl⟩
      | with_reducible apply only_foldl | intro _ | (split))

theorem takeWord_only (hmboxes : P .mboxes) (a0 : Nat) (a1 : MsgWord) {s₀ s : State} (h : changesOnly P s₀ s) : changesOnly P s₀ (takeWord a0 a1 s) := by
  fun_cases takeWord a0 a1 s
  all_goals (intros; repeat' first
      | with_reducible assumption | with_reducible apply modMbox_only | with_reducible apply only_ite | with_reducible apply only_mk
      | with_reducible exact .inl (by assumption) | with_reducible exact .inr rfl | with_reducible exact .inr ⟨rfl, rfl⟩
      | with_reducible exact .inr ⟨rfl, rfl, rfl⟩ | with_reducible exact .inr ⟨rfl, rfl, rfl, rfl⟩ | with_reducible exact .inr ⟨rfl, rfl, rfl, rfl, rfl⟩
      | with_reducible apply only_foldl | intro _ | (split))

theorem requestEff_only (hmboxes : P .mboxes) (hrequests : P .requests) (hmessages : P .messages) (a1 : Nat) (a2 : MsgWord) {s₀ s : State} (h : changesOnly P s₀
    s) : changesOnly P s₀ (requestEff s a1 a2) := by
  fun_cases requestEff s a1 a2
  all_goals (intros; repeat' first
      | with_reducible assumption | with_reducible apply takeWord_only | with_reducible apply respond_only | with_reducible apply writeRsp_only
      | with_reducible apply modMbox_only | with_reducible apply only_ite | with_reducible apply only_mk | with_reducible exact .inl (by assumption)
      | with_reducible exact .inr rfl | with_reducible exact .inr ⟨rfl, rfl⟩ | with_reducible exact .inr ⟨rfl, rfl, rfl⟩
      | with_reducible exact .inr ⟨rfl, rfl, rfl, rfl⟩ | with_reducible exact .inr ⟨rfl, rfl, rfl, rfl, rfl⟩ | with_reducible apply only_foldl | intro _
      | (split))

theorem requestPulse_only (hhatch : P .hatch) (a0 : Nat) {s₀ s : State} (h : changesOnly P s₀ s) : changesOnly P s₀ (requestPulse a0 s) := by
  fun_cases requestPulse a0 s
  all_goals (intros; repeat' first
      | with_reducible assumption | with_reducible apply modHatch_only | with_reducible apply only_ite | with_reducible apply only_mk
      | with_reducible exact .inl (by assumption) | with_reducible exact .inr rfl | with_reducible exact .inr ⟨rfl, rfl⟩
      | with_reducible exact .inr ⟨rfl, rfl, rfl⟩ | with_reducible exact .inr ⟨rfl, rfl, rfl, rfl⟩ | with_reducible exact .inr ⟨rfl, rfl, rfl, rfl, rfl⟩
      | with_reducible apply only_foldl | intro _ | (split))

theorem resendEff_only (hfabric : P .fabric) (a1 : Nat) (a2 : BitVec 32) {s₀ s : State} (h : changesOnly P s₀ s) : changesOnly P s₀ (resendEff s a1 a2) := by
  unfold resendEff
  try dsimp only
  repeat' first
      | with_reducible assumption | with_reducible apply flood_only | with_reducible apply modFabric_only | with_reducible apply emitFrame_only
      | with_reducible apply only_ite | with_reducible apply only_foldl | intro _ | (split) | with_reducible apply only_mk
      | with_reducible exact .inl (by assumption) | with_reducible exact .inr rfl | with_reducible exact .inr ⟨rfl, rfl⟩
      | with_reducible exact .inr ⟨rfl, rfl, rfl⟩ | with_reducible exact .inr ⟨rfl, rfl, rfl, rfl⟩ | with_reducible exact .inr ⟨rfl, rfl, rfl, rfl, rfl⟩

theorem resetRequestEff_only (hmboxes : P .mboxes) (htasks : P .tasks) (hrequests : P .requests) (hmessages : P .messages) (hsnap : P .snap) (hfabric : P
    .fabric) (hseq : P .seq) (a1 : Nat) (a2 : MsgWord) {s₀ s : State} (h : changesOnly P s₀ s) : changesOnly P s₀ (resetRequestEff s a1 a2) := by
  fun_cases resetRequestEff s a1 a2
  all_goals (intros; repeat' first
      | with_reducible assumption | with_reducible apply endFreeze_only | with_reducible apply askReset_only | with_reducible apply respond_only
      | with_reducible apply modSeq_only | with_reducible apply only_ite | with_reducible apply only_mk | with_reducible exact .inl (by assumption)
      | with_reducible exact .inr rfl | with_reducible exact .inr ⟨rfl, rfl⟩ | with_reducible exact .inr ⟨rfl, rfl, rfl⟩
      | with_reducible exact .inr ⟨rfl, rfl, rfl, rfl⟩ | with_reducible exact .inr ⟨rfl, rfl, rfl, rfl, rfl⟩ | with_reducible apply only_foldl | intro _
      | (split))

theorem restoreMap_only (hstore : P .store) (hoffered : P .offered) (hserving : P .serving) (hhealth : P .health) {s₀ s : State} (h : changesOnly P s₀ s) :
    changesOnly P s₀ (restoreMap s) := by
  fun_cases restoreMap s
  all_goals (intros; repeat' first
      | with_reducible assumption | with_reducible apply modHealth_only | with_reducible apply only_ite | with_reducible apply only_mk
      | with_reducible exact .inl (by assumption) | with_reducible exact .inr rfl | with_reducible exact .inr ⟨rfl, rfl⟩
      | with_reducible exact .inr ⟨rfl, rfl, rfl⟩ | with_reducible exact .inr ⟨rfl, rfl, rfl, rfl⟩ | with_reducible exact .inr ⟨rfl, rfl, rfl, rfl, rfl⟩
      | with_reducible apply only_foldl | intro _ | (split))

theorem retireEff_only (hfreeCtr : P .freeCtr) (hstore : P .store) (hrooms : P .rooms) (htasks : P .tasks) (hintStatus : P .intStatus) (hmessages : P .messages)
    (hpace : P .pace) (hpower : P .power) (hhealth : P .health) (a1 : Nat) (a2 : Nat) {s₀ s : State} (h : changesOnly P s₀ s) : changesOnly P s₀ (retireEff s a1
    a2) := by
  fun_cases retireEff s a1 a2
  all_goals (intros; repeat' first
      | with_reducible assumption | with_reducible apply finishOp_only | with_reducible apply settle_only | with_reducible apply modRoom_only
      | with_reducible apply only_ite | with_reducible apply only_mk | with_reducible exact .inl (by assumption) | with_reducible exact .inr rfl
      | with_reducible exact .inr ⟨rfl, rfl⟩ | with_reducible exact .inr ⟨rfl, rfl, rfl⟩ | with_reducible exact .inr ⟨rfl, rfl, rfl, rfl⟩
      | with_reducible exact .inr ⟨rfl, rfl, rfl, rfl, rfl⟩ | with_reducible apply only_foldl | intro _ | (split))

theorem tryAlloc_only (hstore : P .store) (hmboxes : P .mboxes) (hrequests : P .requests) (hmessages : P .messages) (a0 : Nat) (a1 : MsgWord) {s₀ s : State} (h
    : changesOnly P s₀ s) : changesOnly P s₀ (tryAlloc a0 a1 s) := by
  fun_cases tryAlloc a0 a1 s
  all_goals (intros; repeat' first
      | with_reducible assumption | with_reducible apply await_only | with_reducible apply modStore_only | with_reducible apply respond_only
      | with_reducible apply only_ite | with_reducible apply only_mk | with_reducible exact .inl (by assumption) | with_reducible exact .inr rfl
      | with_reducible exact .inr ⟨rfl, rfl⟩ | with_reducible exact .inr ⟨rfl, rfl, rfl⟩ | with_reducible exact .inr ⟨rfl, rfl, rfl, rfl⟩
      | with_reducible exact .inr ⟨rfl, rfl, rfl, rfl, rfl⟩ | with_reducible apply only_foldl | intro _ | (split))

theorem retryWaiting_only (hstore : P .store) (hhealthSt : P .healthSt) (hmboxes : P .mboxes) (himages : P .images) (hintStatus : P .intStatus) (hrequests : P
    .requests) (hmessages : P .messages) (hfabric : P .fabric) (hhealth : P .health) (a0 : List (Nat × Mailbox)) {s₀ s : State} (h : changesOnly P s₀ s) :
    changesOnly P s₀ (retryWaiting a0 s) := by
  induction a0 generalizing  s with
  | nil => exact h
  | cons x xs ih =>
    rw [retryWaiting]
    repeat' first
      | with_reducible apply ih
      | with_reducible assumption | with_reducible apply_assumption | with_reducible apply tryAlloc_only | with_reducible apply tryLoad_only
      | with_reducible apply only_ite | with_reducible apply only_foldl | intro _ | (split) | with_reducible apply only_mk
      | with_reducible exact .inl (by assumption) | with_reducible exact .inr rfl | with_reducible exact .inr ⟨rfl, rfl⟩
      | with_reducible exact .inr ⟨rfl, rfl, rfl⟩ | with_reducible exact .inr ⟨rfl, rfl, rfl, rfl⟩ | with_reducible exact .inr ⟨rfl, rfl, rfl, rfl, rfl⟩

theorem rollCloseEff_only (hfreeCtr : P .freeCtr) (hfabricSt : P .fabricSt) (hqueues : P .queues) (htasks : P .tasks) (hintStatus : P .intStatus) (hrequests : P
    .requests) (hmessages : P .messages) (hfabric : P .fabric) (htime : P .time) {s₀ s : State} (h : changesOnly P s₀ s) : changesOnly P s₀ (rollCloseEff s) := by
  fun_cases rollCloseEff s
  all_goals (intros; repeat' first
      | with_reducible assumption | with_reducible apply registrarActs_only | with_reducible apply checkAll_only | with_reducible apply modFabric_only
      | with_reducible apply promote_only | with_reducible apply only_ite | with_reducible apply only_mk | with_reducible exact .inl (by assumption)
      | with_reducible exact .inr rfl | with_reducible exact .inr ⟨rfl, rfl⟩ | with_reducible exact .inr ⟨rfl, rfl, rfl⟩
      | with_reducible exact .inr ⟨rfl, rfl, rfl, rfl⟩ | with_reducible exact .inr ⟨rfl, rfl, rfl, rfl, rfl⟩ | with_reducible apply only_foldl | intro _
      | (split))

theorem rollEff_only (hfabric : P .fabric) (a1 : Nat) (a2 : Frame) {s₀ s : State} (h : changesOnly P s₀ s) : changesOnly P s₀ (rollEff s a1 a2) := by
  fun_cases rollEff s a1 a2
  all_goals (intros; repeat' first
      | with_reducible assumption | with_reducible apply learnPeer_only | with_reducible apply takeFrame_only | with_reducible apply forwardBcast_only
      | with_reducible apply modFabric_only | with_reducible apply ackFrame_only | with_reducible apply only_ite | with_reducible apply only_mk
      | with_reducible exact .inl (by assumption) | with_reducible exact .inr rfl | with_reducible exact .inr ⟨rfl, rfl⟩
      | with_reducible exact .inr ⟨rfl, rfl, rfl⟩ | with_reducible exact .inr ⟨rfl, rfl, rfl, rfl⟩ | with_reducible exact .inr ⟨rfl, rfl, rfl, rfl, rfl⟩
      | with_reducible apply only_foldl | intro _ | (split))

theorem rollStartEff_only (hfabric : P .fabric) (a1 : Nat) (a2 : Frame) {s₀ s : State} (h : changesOnly P s₀ s) : changesOnly P s₀ (rollStartEff s a1 a2) := by
  fun_cases rollStartEff s a1 a2
  all_goals (intros; repeat' first
      | with_reducible assumption | with_reducible apply joinRoll_only | with_reducible apply takeFrame_only | with_reducible apply forwardBcast_only
      | with_reducible apply ackFrame_only | with_reducible apply only_ite | with_reducible apply only_mk | with_reducible exact .inl (by assumption)
      | with_reducible exact .inr rfl | with_reducible exact .inr ⟨rfl, rfl⟩ | with_reducible exact .inr ⟨rfl, rfl, rfl⟩
      | with_reducible exact .inr ⟨rfl, rfl, rfl, rfl⟩ | with_reducible exact .inr ⟨rfl, rfl, rfl, rfl, rfl⟩ | with_reducible apply only_foldl | intro _
      | (split))

theorem routeUpdateEff_only (hfreeCtr : P .freeCtr) (hfabricSt : P .fabricSt) (hintStatus : P .intStatus) (hmessages : P .messages) (hfabric : P .fabric) (htime
    : P .time) (a1 : Nat) (a2 : Frame) (a3 : List (Nat × BitVec 32)) {s₀ s : State} (h : changesOnly P s₀ s) : changesOnly P s₀ (routeUpdateEff s a1 a2 a3) := by
  fun_cases routeUpdateEff s a1 a2 a3
  all_goals (intros; repeat' first
      | with_reducible assumption | with_reducible apply gotUpdate_only | with_reducible apply gotTable_only | with_reducible apply takeMsg_only
      | with_reducible apply takeFrame_only | with_reducible apply forwardBcast_only | with_reducible apply only_ite | with_reducible apply only_mk
      | with_reducible exact .inl (by assumption) | with_reducible exact .inr rfl | with_reducible exact .inr ⟨rfl, rfl⟩
      | with_reducible exact .inr ⟨rfl, rfl, rfl⟩ | with_reducible exact .inr ⟨rfl, rfl, rfl, rfl⟩ | with_reducible exact .inr ⟨rfl, rfl, rfl, rfl, rfl⟩
      | with_reducible apply only_foldl | intro _ | (split))

theorem wholeBody_only (hfreeCtr : P .freeCtr) (hstore : P .store) (hrooms : P .rooms) (htasks : P .tasks) (hintStatus : P .intStatus) (hmessages : P .messages)
    (hpower : P .power) (hhealth : P .health) (a0 : Nat) (a1 : OpWord) (a2 : Env → Room → Run → Run) (a3 : Env) (a4 : Room) (a5 : Task) (a6 : Nat) {s₀ s :
    State} (h : changesOnly P s₀ s) : changesOnly P s₀ (wholeBody a0 a1 a2 a3 a4 a5 a6 s) := by
  fun_cases wholeBody a0 a1 a2 a3 a4 a5 a6 s
  all_goals (intros; repeat' first
      | with_reducible assumption | with_reducible apply engage_only | with_reducible apply commitRun_only | with_reducible apply only_ite
      | with_reducible apply only_mk | with_reducible exact .inl (by assumption) | with_reducible exact .inr rfl | with_reducible exact .inr ⟨rfl, rfl⟩
      | with_reducible exact .inr ⟨rfl, rfl, rfl⟩ | with_reducible exact .inr ⟨rfl, rfl, rfl, rfl⟩ | with_reducible exact .inr ⟨rfl, rfl, rfl, rfl, rfl⟩
      | with_reducible apply only_foldl | intro _ | (split))

theorem rowfBody_only (hfreeCtr : P .freeCtr) (hstore : P .store) (hrooms : P .rooms) (htasks : P .tasks) (hintStatus : P .intStatus) (hmessages : P .messages)
    (hpower : P .power) (hhealth : P .health) (a0 : Nat) (a1 : OpWord) (a2 : Env) (a3 : Room) (a4 : Task) (a5 : Nat) {s₀ s : State} (h : changesOnly P s₀ s) :
    changesOnly P s₀ (rowfBody a0 a1 a2 a3 a4 a5 s) := by
  fun_cases rowfBody a0 a1 a2 a3 a4 a5 s
  all_goals (intros; repeat' first
      | with_reducible assumption | with_reducible apply wholeBody_only | with_reducible apply engage_only | with_reducible apply startAnnex_only
      | with_reducible apply commitRun_only | with_reducible apply only_ite | with_reducible apply only_mk | with_reducible exact .inl (by assumption)
      | with_reducible exact .inr rfl | with_reducible exact .inr ⟨rfl, rfl⟩ | with_reducible exact .inr ⟨rfl, rfl, rfl⟩
      | with_reducible exact .inr ⟨rfl, rfl, rfl, rfl⟩ | with_reducible exact .inr ⟨rfl, rfl, rfl, rfl, rfl⟩ | with_reducible apply only_foldl | intro _
      | (split))

theorem rspAckEff_only (hmboxes : P .mboxes) (hmessages : P .messages) (a1 : Nat) {s₀ s : State} (h : changesOnly P s₀ s) : changesOnly P s₀ (rspAckEff s a1) := by
  fun_cases rspAckEff s a1
  all_goals (intros; repeat' first
      | with_reducible assumption | with_reducible apply modMbox_only | with_reducible apply addEvt_only | with_reducible apply only_ite
      | with_reducible apply only_mk | with_reducible exact .inl (by assumption) | with_reducible exact .inr rfl | with_reducible exact .inr ⟨rfl, rfl⟩
      | with_reducible exact .inr ⟨rfl, rfl, rfl⟩ | with_reducible exact .inr ⟨rfl, rfl, rfl, rfl⟩ | with_reducible exact .inr ⟨rfl, rfl, rfl, rfl, rfl⟩
      | with_reducible apply only_foldl | intro _ | (split))

theorem sbPinSetEff_only (hmboxes : P .mboxes) (hstaged : P .staged) (hrequests : P .requests) (hmessages : P .messages) (a1 : Nat) (a2 : MsgWord) {s₀ s :
    State} (h : changesOnly P s₀ s) : changesOnly P s₀ (sbPinSetEff s a1 a2) := by
  fun_cases sbPinSetEff s a1 a2
  all_goals (intros; repeat' first
      | with_reducible assumption | with_reducible apply stage_only | with_reducible apply respond_only | with_reducible apply only_ite
      | with_reducible apply only_mk | with_reducible exact .inl (by assumption) | with_reducible exact .inr rfl | with_reducible exact .inr ⟨rfl, rfl⟩
      | with_reducible exact .inr ⟨rfl, rfl, rfl⟩ | with_reducible exact .inr ⟨rfl, rfl, rfl, rfl⟩ | with_reducible exact .inr ⟨rfl, rfl, rfl, rfl, rfl⟩
      | with_reducible apply only_foldl | intro _ | (split))

theorem scrubEff_only (hstore : P .store) (hhealthSt : P .healthSt) (hintStatus : P .intStatus) (hmessages : P .messages) (hhealth : P .health) (a1 : Nat) (a2 :
    Nat) {s₀ s : State} (h : changesOnly P s₀ s) : changesOnly P s₀ (scrubEff s a1 a2) := by
  fun_cases scrubEff s a1 a2
  all_goals (intros; repeat' first
      | with_reducible assumption | with_reducible apply blameBank_only | with_reducible apply putStore_only | with_reducible apply only_ite
      | with_reducible apply only_mk | with_reducible exact .inl (by assumption) | with_reducible exact .inr rfl | with_reducible exact .inr ⟨rfl, rfl⟩
      | with_reducible exact .inr ⟨rfl, rfl, rfl⟩ | with_reducible exact .inr ⟨rfl, rfl, rfl, rfl⟩ | with_reducible exact .inr ⟨rfl, rfl, rfl, rfl, rfl⟩
      | with_reducible apply only_foldl | intro _ | (split))

theorem selfTestFail_only (hoffered : P .offered) (hhealthSt : P .healthSt) (hintStatus : P .intStatus) (hmessages : P .messages) (hhealth : P .health) (a0 :
    Nat) (a1 : Nat) (a2 : List Finding) {s₀ s : State} (h : changesOnly P s₀ s) : changesOnly P s₀ (selfTestFail a0 a1 a2 s) := by
  fun_cases selfTestFail a0 a1 a2 s
  all_goals (intros; repeat' first
      | with_reducible assumption | with_reducible apply portFails_only | with_reducible apply relocateFailed_only | with_reducible apply applyActs_only
      | with_reducible apply markExhausted_only | with_reducible apply modHealth_only | with_reducible apply only_ite | with_reducible apply only_mk
      | with_reducible exact .inl (by assumption) | with_reducible exact .inr rfl | with_reducible exact .inr ⟨rfl, rfl⟩
      | with_reducible exact .inr ⟨rfl, rfl, rfl⟩ | with_reducible exact .inr ⟨rfl, rfl, rfl, rfl⟩ | with_reducible exact .inr ⟨rfl, rfl, rfl, rfl, rfl⟩
      | with_reducible apply only_foldl | intro _ | (split))

theorem selfTestFails_only (hoffered : P .offered) (hhealthSt : P .healthSt) (htasks : P .tasks) (hintStatus : P .intStatus) (hmessages : P .messages) (hfabric
    : P .fabric) (hlinks : P .links) (hhealth : P .health) (a0 : List (Stage × List Finding)) {s₀ s : State} (h : changesOnly P s₀ s) : changesOnly P s₀
    (selfTestFails a0 s) := by
  induction a0 generalizing s with
  | nil => exact h
  | cons x xs ih =>
    obtain ⟨st, fs⟩ := x
    have w : ∀ k i, changesOnly P s₀ (selfTestFail k i fs s) := fun k i => by apply selfTestFail_only <;> with_reducible assumption
    have v : ∀ st, changesOnly P s₀ (failStage st s) := fun st => by apply failStage_only <;> with_reducible assumption
    cases st with
    | unit k i => rw [selfTestFails]; exact ih (only_ite h (w _ _))
    | engine u =>
      cases u
      case standbyCore => rw [selfTestFails]; exact ih (only_ite h (w _ _))
      all_goals (rw [selfTestFails] <;> first | (intro _ _ e; exact Stage.noConfusion e) | (intro e; injection e with e; exact EngineUnit.noConfusion e) | exact ih (only_ite h (v _)))
    | _ => rw [selfTestFails] <;> first | (intro _ _ e; exact Stage.noConfusion e) | (intro e; exact Stage.noConfusion e) | exact ih (only_ite h (v _))

theorem setIFull_only (hpower : P .power) (a0 : List Nat) {s₀ s : State} (h : changesOnly P s₀ s) : changesOnly P s₀ (setIFull a0 s) := by
  fun_cases setIFull a0 s
  all_goals (intros; repeat' first
      | with_reducible assumption | with_reducible apply modHalls_only | with_reducible apply only_ite | with_reducible apply only_mk
      | with_reducible exact .inl (by assumption) | with_reducible exact .inr rfl | with_reducible exact .inr ⟨rfl, rfl⟩
      | with_reducible exact .inr ⟨rfl, rfl, rfl⟩ | with_reducible exact .inr ⟨rfl, rfl, rfl, rfl⟩ | with_reducible exact .inr ⟨rfl, rfl, rfl, rfl, rfl⟩
      | with_reducible apply only_foldl | intro _ | (split))

theorem selfTestEff_only (hstore : P .store) (hoffered : P .offered) (hphase : P .phase) (hhealthSt : P .healthSt) (hfabricSt : P .fabricSt) (hserving : P
    .serving) (htasks : P .tasks) (hintStatus : P .intStatus) (hmessages : P .messages) (hfabric : P .fabric) (hlinks : P .links) (htime : P .time) (hpower : P
    .power) (hhealth : P .health) (hseq : P .seq) (a1 : List (Stage × List Finding)) (a2 : List Nat) {s₀ s : State} (h : changesOnly P s₀ s) : changesOnly P s₀
    (selfTestEff s a1 a2) := by
  fun_cases selfTestEff s a1 a2
  all_goals (intros; repeat' first
      | with_reducible assumption | with_reducible apply setIFull_only | with_reducible apply selfTestFails_only | with_reducible apply restoreMap_only
      | with_reducible apply settleHealth_only | with_reducible apply leaveSelfTest_only | with_reducible apply failWith_only
      | with_reducible apply clearStores_only | with_reducible apply modHealth_only | with_reducible apply only_ite | with_reducible apply only_mk
      | with_reducible exact .inl (by assumption) | with_reducible exact .inr rfl | with_reducible exact .inr ⟨rfl, rfl⟩
      | with_reducible exact .inr ⟨rfl, rfl, rfl⟩ | with_reducible exact .inr ⟨rfl, rfl, rfl, rfl⟩ | with_reducible exact .inr ⟨rfl, rfl, rfl, rfl, rfl⟩
      | with_reducible apply only_foldl | intro _ | (split))

theorem sendBack_only (htasks : P .tasks) (hfabric : P .fabric) (hhealth : P .health) (a0 : Task) {s₀ s : State} (h : changesOnly P s₀ s) : changesOnly P s₀
    (sendBack a0 s) := by
  fun_cases sendBack a0 s
  all_goals (intros; repeat' first
      | with_reducible assumption | with_reducible apply requeueTask_only | with_reducible apply forgetRound_only | with_reducible apply modTask_only
      | with_reducible apply only_ite | with_reducible apply only_mk | with_reducible exact .inl (by assumption) | with_reducible exact .inr rfl
      | with_reducible exact .inr ⟨rfl, rfl⟩ | with_reducible exact .inr ⟨rfl, rfl, rfl⟩ | with_reducible exact .inr ⟨rfl, rfl, rfl, rfl⟩
      | with_reducible exact .inr ⟨rfl, rfl, rfl, rfl, rfl⟩ | with_reducible apply only_foldl | intro _ | (split))

theorem sendFlow_only (hfabric : P .fabric) (a0 : Task) (a1 : Nat) (a2 : ClaimRec) (a3 : List (List Byte)) {s₀ s : State} (h : changesOnly P s₀ s) : changesOnly
    P s₀ (sendFlow a0 a1 a2 a3 s) := by
  fun_induction sendFlow a0 a1 a2 a3 s
  all_goals intros
  all_goals first | with_reducible assumption | skip
  all_goals repeat' first
      | with_reducible assumption | with_reducible apply_assumption | with_reducible apply modFabric_only | with_reducible apply only_ite
      | with_reducible apply only_mk | with_reducible exact .inl (by assumption) | with_reducible exact .inr rfl | with_reducible exact .inr ⟨rfl, rfl⟩
      | with_reducible exact .inr ⟨rfl, rfl, rfl⟩ | with_reducible exact .inr ⟨rfl, rfl, rfl, rfl⟩ | with_reducible exact .inr ⟨rfl, rfl, rfl, rfl, rfl⟩
      | with_reducible apply only_foldl | intro _ | (split)

theorem sendStamps_only (hfabric : P .fabric) (a0 : BitVec 64) (a1 : Nat) (a2 : Nat) (a3 : List Nat) {s₀ s : State} (h : changesOnly P s₀ s) : changesOnly P s₀
    (sendStamps a0 a1 a2 a3 s) := by
  fun_induction sendStamps a0 a1 a2 a3 s
  all_goals intros
  all_goals first | with_reducible assumption | skip
  all_goals repeat' first
      | with_reducible assumption | with_reducible apply_assumption | with_reducible apply only_ite | with_reducible apply only_mk
      | with_reducible exact .inl (by assumption) | with_reducible exact .inr rfl | with_reducible exact .inr ⟨rfl, rfl⟩
      | with_reducible exact .inr ⟨rfl, rfl, rfl⟩ | with_reducible exact .inr ⟨rfl, rfl, rfl, rfl⟩ | with_reducible exact .inr ⟨rfl, rfl, rfl, rfl, rfl⟩
      | with_reducible apply only_foldl | intro _ | (split)

theorem settleTraining_only (hlinks : P .links) (hhealth : P .health) (a0 : Nat) {s₀ s : State} (h : changesOnly P s₀ s) : changesOnly P s₀ (settleTraining a0
    s) := by
  fun_cases settleTraining a0 s
  all_goals (intros; repeat' first
      | with_reducible assumption | with_reducible apply placeAll_only | with_reducible apply alignRates_only | with_reducible apply only_ite
      | with_reducible apply only_mk | with_reducible exact .inl (by assumption) | with_reducible exact .inr rfl | with_reducible exact .inr ⟨rfl, rfl⟩
      | with_reducible exact .inr ⟨rfl, rfl, rfl⟩ | with_reducible exact .inr ⟨rfl, rfl, rfl, rfl⟩ | with_reducible exact .inr ⟨rfl, rfl, rfl, rfl, rfl⟩
      | with_reducible apply only_foldl | intro _ | (split))

theorem sourceTake_only (hfreeCtr : P .freeCtr) (hstore : P .store) (hhealthSt : P .healthSt) (htasks : P .tasks) (hintStatus : P .intStatus) (hmessages : P
    .messages) (hfabric : P .fabric) (hhealth : P .health) (a0 : Task) (a1 : Image) (a2 : FlowRec) (a3 : ClaimRec) {s₀ s : State} (h : changesOnly P s₀ s) :
    changesOnly P s₀ (sourceTake a0 a1 a2 a3 s) := by
  fun_cases sourceTake a0 a1 a2 a3 s
  all_goals (intros; repeat' first
      | with_reducible assumption | with_reducible apply sendFlow_only | with_reducible apply putFlow_only | with_reducible apply gateRun_only
      | with_reducible apply haltTask_only | with_reducible apply only_ite | with_reducible apply only_mk | with_reducible exact .inl (by assumption)
      | with_reducible exact .inr rfl | with_reducible exact .inr ⟨rfl, rfl⟩ | with_reducible exact .inr ⟨rfl, rfl, rfl⟩
      | with_reducible exact .inr ⟨rfl, rfl, rfl, rfl⟩ | with_reducible exact .inr ⟨rfl, rfl, rfl, rfl, rfl⟩ | with_reducible apply only_foldl | intro _
      | (split))

theorem transitSend_only (hfabric : P .fabric) (a0 : Task) (a1 : ClaimRec) {s₀ s : State} (h : changesOnly P s₀ s) : changesOnly P s₀ (transitSend a0 a1 s) := by
  fun_cases transitSend a0 a1 s
  all_goals (intros; repeat' first
      | with_reducible assumption | with_reducible apply forwardFlow_only | with_reducible apply putHeld_only | with_reducible apply only_ite
      | with_reducible apply only_mk | with_reducible exact .inl (by assumption) | with_reducible exact .inr rfl | with_reducible exact .inr ⟨rfl, rfl⟩
      | with_reducible exact .inr ⟨rfl, rfl, rfl⟩ | with_reducible exact .inr ⟨rfl, rfl, rfl, rfl⟩ | with_reducible exact .inr ⟨rfl, rfl, rfl, rfl, rfl⟩
      | with_reducible apply only_foldl | intro _ | (split))

theorem slotEff_only (hfreeCtr : P .freeCtr) (hstore : P .store) (hhealthSt : P .healthSt) (htasks : P .tasks) (hintStatus : P .intStatus) (hmessages : P
    .messages) (hfabric : P .fabric) (hhealth : P .health) (a1 : Nat) (a2 : Nat) {s₀ s : State} (h : changesOnly P s₀ s) : changesOnly P s₀ (slotEff s a1 a2) := by
  fun_cases slotEff s a1 a2
  all_goals (intros; repeat' first
      | with_reducible assumption | with_reducible apply transitSend_only | with_reducible apply sourceTake_only | with_reducible apply only_ite
      | with_reducible apply only_mk | with_reducible exact .inl (by assumption) | with_reducible exact .inr rfl | with_reducible exact .inr ⟨rfl, rfl⟩
      | with_reducible exact .inr ⟨rfl, rfl, rfl⟩ | with_reducible exact .inr ⟨rfl, rfl, rfl, rfl⟩ | with_reducible exact .inr ⟨rfl, rfl, rfl, rfl, rfl⟩
      | with_reducible apply only_foldl | intro _ | (split))

theorem slotMarkEff_only (hfabric : P .fabric) (hlinks : P .links) (a1 : Nat) (a2 : Nat) (a3 : Nat) (a4 : Nat) (a5 : List Byte) {s₀ s : State} (h : changesOnly
    P s₀ s) : changesOnly P s₀ (slotMarkEff s a1 a2 a3 a4 a5) := by
  fun_cases slotMarkEff s a1 a2 a3 a4 a5
  all_goals (intros; repeat' first
      | with_reducible assumption | with_reducible apply putReplay_only | with_reducible apply putLane_only | with_reducible apply modPort_only
      | with_reducible apply putPort_only | with_reducible apply only_ite | with_reducible apply only_mk | with_reducible exact .inl (by assumption)
      | with_reducible exact .inr rfl | with_reducible exact .inr ⟨rfl, rfl⟩ | with_reducible exact .inr ⟨rfl, rfl, rfl⟩
      | with_reducible exact .inr ⟨rfl, rfl, rfl, rfl⟩ | with_reducible exact .inr ⟨rfl, rfl, rfl, rfl, rfl⟩ | with_reducible apply only_foldl | intro _
      | (split))

theorem snoopReply_only (hmessages : P .messages) (a0 : Nat) (a1 : Nat × List Byte) {s₀ s : State} (h : changesOnly P s₀ s) : changesOnly P s₀ (snoopReply a0 a1
    s) := by
  fun_cases snoopReply a0 a1 s
  all_goals (intros; repeat' first
      | with_reducible assumption | with_reducible apply sendMsg_only | with_reducible apply only_ite | with_reducible apply only_mk
      | with_reducible exact .inl (by assumption) | with_reducible exact .inr rfl | with_reducible exact .inr ⟨rfl, rfl⟩
      | with_reducible exact .inr ⟨rfl, rfl, rfl⟩ | with_reducible exact .inr ⟨rfl, rfl, rfl, rfl⟩ | with_reducible exact .inr ⟨rfl, rfl, rfl, rfl, rfl⟩
      | with_reducible apply only_foldl | intro _ | (split))

theorem snoopInvEff_only (hrequests : P .requests) (hmessages : P .messages) (hporch : P .porch) (a1 : Nat) (a2 : Nat) {s₀ s : State} (h : changesOnly P s₀ s) :
    changesOnly P s₀ (snoopInvEff s a1 a2) := by
  fun_cases snoopInvEff s a1 a2
  all_goals (intros; repeat' first
      | with_reducible assumption | with_reducible apply snoopReply_only | with_reducible apply porchWant_only | with_reducible apply modHost_only
      | with_reducible apply only_ite | with_reducible apply only_mk | with_reducible exact .inl (by assumption) | with_reducible exact .inr rfl
      | with_reducible exact .inr ⟨rfl, rfl⟩ | with_reducible exact .inr ⟨rfl, rfl, rfl⟩ | with_reducible exact .inr ⟨rfl, rfl, rfl, rfl⟩
      | with_reducible exact .inr ⟨rfl, rfl, rfl, rfl, rfl⟩ | with_reducible apply only_foldl | intro _ | (split))

theorem stampEff_only (hfreeCtr : P .freeCtr) (hqueues : P .queues) (htasks : P .tasks) (hintStatus : P .intStatus) (hrequests : P .requests) (hmessages : P
    .messages) (hfabric : P .fabric) (htime : P .time) (a1 : Nat) (a2 : Nat) (a3 : Exchange) (a4 : Bool) {s₀ s : State} (h : changesOnly P s₀ s) : changesOnly P
    s₀ (stampEff s a1 a2 a3 a4) := by
  fun_cases stampEff s a1 a2 a3 a4
  all_goals (intros; repeat' first
      | with_reducible assumption | with_reducible apply applyTheta_only | with_reducible apply modTime_only | with_reducible apply only_ite
      | with_reducible apply only_mk | with_reducible exact .inl (by assumption) | with_reducible exact .inr rfl | with_reducible exact .inr ⟨rfl, rfl⟩
      | with_reducible exact .inr ⟨rfl, rfl, rfl⟩ | with_reducible exact .inr ⟨rfl, rfl, rfl, rfl⟩ | with_reducible exact .inr ⟨rfl, rfl, rfl, rfl, rfl⟩
      | with_reducible apply only_foldl | intro _ | (split))

theorem stampPeriodEff_only (hfabric : P .fabric) (htime : P .time) {s₀ s : State} (h : changesOnly P s₀ s) : changesOnly P s₀ (stampPeriodEff s) := by
  fun_cases stampPeriodEff s
  all_goals (intros; repeat' first
      | with_reducible assumption | with_reducible apply sendStamps_only | with_reducible apply modTime_only | with_reducible apply only_ite
      | with_reducible apply only_mk | with_reducible exact .inl (by assumption) | with_reducible exact .inr rfl | with_reducible exact .inr ⟨rfl, rfl⟩
      | with_reducible exact .inr ⟨rfl, rfl, rfl⟩ | with_reducible exact .inr ⟨rfl, rfl, rfl, rfl⟩ | with_reducible exact .inr ⟨rfl, rfl, rfl, rfl, rfl⟩
      | with_reducible apply only_foldl | intro _ | (split))

theorem startHard_only (hstore : P .store) (hrooms : P .rooms) (hoffered : P .offered) (hphase : P .phase) (hhealthSt : P .healthSt) (hfabricSt : P .fabricSt)
    (hserving : P .serving) (hmboxes : P .mboxes) (hstaged : P .staged) (hctxs : P .ctxs) (hqueues : P .queues) (hfences : P .fences) (himages : P .images)
    (htasks : P .tasks) (hidentity : P .identity) (hintStatus : P .intStatus) (hintEnable : P .intEnable) (htimeout : P .timeout) (hhostErrors : P .hostErrors)
    (hrequests : P .requests) (hmessages : P .messages) (hporch : P .porch) (hside : P .side) (hhatch : P .hatch) (hports : P .ports) (hkeep : P .keep) (hsnap :
    P .snap) (hfabric : P .fabric) (hlinks : P .links) (htime : P .time) (hpace : P .pace) (hpower : P .power) (hhealth : P .health) (hseq : P .seq) (a0 :
    BitVec 64) (a1 : BitVec 384) (a2 : BitVec 16) {s₀ s : State} (h : changesOnly P s₀ s) : changesOnly P s₀ (startHard a0 a1 a2 s) := by
  fun_cases startHard a0 a1 a2 s
  all_goals (intros; repeat' first
      | with_reducible assumption | with_reducible apply setPhase_only | with_reducible apply hardReset_only | with_reducible apply only_ite
      | with_reducible apply only_mk | with_reducible exact .inl (by assumption) | with_reducible exact .inr rfl | with_reducible exact .inr ⟨rfl, rfl⟩
      | with_reducible exact .inr ⟨rfl, rfl, rfl⟩ | with_reducible exact .inr ⟨rfl, rfl, rfl, rfl⟩ | with_reducible exact .inr ⟨rfl, rfl, rfl, rfl, rfl⟩
      | with_reducible apply only_foldl | intro _ | (split))

theorem stewardRestart_only (hstore : P .store) (hrooms : P .rooms) (hphase : P .phase) (hhealthSt : P .healthSt) (hfabricSt : P .fabricSt) (hserving : P
    .serving) (hmboxes : P .mboxes) (hstaged : P .staged) (hctxs : P .ctxs) (hqueues : P .queues) (hfences : P .fences) (himages : P .images) (htasks : P
    .tasks) (hidentity : P .identity) (hintStatus : P .intStatus) (hintEnable : P .intEnable) (hrequests : P .requests) (hmessages : P .messages) (hporch : P
    .porch) (hhatch : P .hatch) (hports : P .ports) (hkeep : P .keep) (hsnap : P .snap) (hfabric : P .fabric) (hpower : P .power) (hhealth : P .health) (hseq :
    P .seq) {s₀ s : State} (h : changesOnly P s₀ s) : changesOnly P s₀ (stewardRestart s) := by
  fun_cases stewardRestart s
  all_goals (intros; repeat' first
      | with_reducible assumption | with_reducible apply settleHealth_only | with_reducible apply hatchReset_only | with_reducible apply only_ite
      | with_reducible apply only_mk | with_reducible exact .inl (by assumption) | with_reducible exact .inr rfl | with_reducible exact .inr ⟨rfl, rfl⟩
      | with_reducible exact .inr ⟨rfl, rfl, rfl⟩ | with_reducible exact .inr ⟨rfl, rfl, rfl, rfl⟩ | with_reducible exact .inr ⟨rfl, rfl, rfl, rfl, rfl⟩
      | with_reducible apply only_foldl | intro _ | (split))

theorem storeCopyEff_only (hfreeCtr : P .freeCtr) (hstore : P .store) (hhealthSt : P .healthSt) (hmboxes : P .mboxes) (hintStatus : P .intStatus) (hrequests : P
    .requests) (hmessages : P .messages) (hhealth : P .health) (a1 : Nat) (a2 : MsgWord) (a3 : Option (List Byte)) {s₀ s : State} (h : changesOnly P s₀ s) :
    changesOnly P s₀ (storeCopyEff s a1 a2 a3) := by
  fun_cases storeCopyEff s a1 a2 a3
  all_goals (intros; repeat' first
      | with_reducible assumption | with_reducible apply scramble_only | with_reducible apply copyOut_only | with_reducible apply copyLines_only
      | with_reducible apply modStore_only | with_reducible apply respond_only | with_reducible apply only_ite | with_reducible apply only_mk
      | with_reducible exact .inl (by assumption) | with_reducible exact .inr rfl | with_reducible exact .inr ⟨rfl, rfl⟩
      | with_reducible exact .inr ⟨rfl, rfl, rfl⟩ | with_reducible exact .inr ⟨rfl, rfl, rfl, rfl⟩ | with_reducible exact .inr ⟨rfl, rfl, rfl, rfl, rfl⟩
      | with_reducible apply only_foldl | intro _ | (split))

theorem subtractBeats_only (hstaged : P .staged) (hsnap : P .snap) (hlinks : P .links) (htime : P .time) (a0 : Int) {s₀ s : State} (h : changesOnly P s₀ s) :
    changesOnly P s₀ (subtractBeats a0 s) := by
  fun_cases subtractBeats a0 s
  all_goals (intros; repeat' first
      | with_reducible assumption | with_reducible apply modTime_only | with_reducible apply only_ite | with_reducible apply only_mk
      | with_reducible exact .inl (by assumption) | with_reducible exact .inr rfl | with_reducible exact .inr ⟨rfl, rfl⟩
      | with_reducible exact .inr ⟨rfl, rfl, rfl⟩ | with_reducible exact .inr ⟨rfl, rfl, rfl, rfl⟩ | with_reducible exact .inr ⟨rfl, rfl, rfl, rfl, rfl⟩
      | with_reducible apply only_foldl | intro _ | (split))

theorem warnEarly_only (hstore : P .store) (hrooms : P .rooms) (hoffered : P .offered) (hphase : P .phase) (hhealthSt : P .healthSt) (hfabricSt : P .fabricSt)
    (hserving : P .serving) (hmboxes : P .mboxes) (hstaged : P .staged) (hctxs : P .ctxs) (hqueues : P .queues) (hfences : P .fences) (himages : P .images)
    (htasks : P .tasks) (hidentity : P .identity) (hintStatus : P .intStatus) (hintEnable : P .intEnable) (htimeout : P .timeout) (hhostErrors : P .hostErrors)
    (hrequests : P .requests) (hmessages : P .messages) (hporch : P .porch) (hside : P .side) (hhatch : P .hatch) (hports : P .ports) (hkeep : P .keep) (hsnap :
    P .snap) (hfabric : P .fabric) (hlinks : P .links) (htime : P .time) (hpace : P .pace) (hpower : P .power) (hhealth : P .health) (hseq : P .seq) {s₀ s :
    State} (h : changesOnly P s₀ s) : changesOnly P s₀ (warnEarly s) := by
  fun_cases warnEarly s
  all_goals (intros; repeat' first
      | with_reducible assumption | with_reducible apply dropNext_only | with_reducible apply modSeq_only | with_reducible apply only_ite
      | with_reducible apply only_mk | with_reducible exact .inl (by assumption) | with_reducible exact .inr rfl | with_reducible exact .inr ⟨rfl, rfl⟩
      | with_reducible exact .inr ⟨rfl, rfl, rfl⟩ | with_reducible exact .inr ⟨rfl, rfl, rfl, rfl⟩ | with_reducible exact .inr ⟨rfl, rfl, rfl, rfl, rfl⟩
      | with_reducible apply only_foldl | intro _ | (split))

theorem supplyWarnEff_only (hstore : P .store) (hrooms : P .rooms) (hoffered : P .offered) (hphase : P .phase) (hhealthSt : P .healthSt) (hfabricSt : P
    .fabricSt) (hserving : P .serving) (hmboxes : P .mboxes) (hstaged : P .staged) (hctxs : P .ctxs) (hqueues : P .queues) (hfences : P .fences) (himages : P
    .images) (htasks : P .tasks) (hidentity : P .identity) (hintStatus : P .intStatus) (hintEnable : P .intEnable) (htimeout : P .timeout) (hhostErrors : P
    .hostErrors) (hrequests : P .requests) (hmessages : P .messages) (hporch : P .porch) (hside : P .side) (hhatch : P .hatch) (hports : P .ports) (hkeep : P
    .keep) (hsnap : P .snap) (hfabric : P .fabric) (hlinks : P .links) (htime : P .time) (hpace : P .pace) (hpower : P .power) (hhealth : P .health) (hseq : P
    .seq) {s₀ s : State} (h : changesOnly P s₀ s) : changesOnly P s₀ (supplyWarnEff s) := by
  fun_cases supplyWarnEff s
  all_goals (intros; repeat' first
      | with_reducible assumption | with_reducible apply warnEarly_only | with_reducible apply modSeq_only | with_reducible apply only_ite
      | with_reducible apply only_mk | with_reducible exact .inl (by assumption) | with_reducible exact .inr rfl | with_reducible exact .inr ⟨rfl, rfl⟩
      | with_reducible exact .inr ⟨rfl, rfl, rfl⟩ | with_reducible exact .inr ⟨rfl, rfl, rfl, rfl⟩ | with_reducible exact .inr ⟨rfl, rfl, rfl, rfl, rfl⟩
      | with_reducible apply only_foldl | intro _ | (split))

theorem swapEff_only (hlinks : P .links) (a1 : Nat) (a2 : Nat) (a3 : Nat) (a4 : Nat) {s₀ s : State} (h : changesOnly P s₀ s) : changesOnly P s₀ (swapEff s a1 a2
    a3 a4) := by
  fun_cases swapEff s a1 a2 a3 a4
  all_goals (intros; repeat' first
      | with_reducible assumption | with_reducible apply modPort_only | with_reducible apply only_ite | with_reducible apply only_mk
      | with_reducible exact .inl (by assumption) | with_reducible exact .inr rfl | with_reducible exact .inr ⟨rfl, rfl⟩
      | with_reducible exact .inr ⟨rfl, rfl, rfl⟩ | with_reducible exact .inr ⟨rfl, rfl, rfl, rfl⟩ | with_reducible exact .inr ⟨rfl, rfl, rfl, rfl, rfl⟩
      | with_reducible apply only_foldl | intro _ | (split))

theorem swapTargetEff_only (hfabric : P .fabric) (hlinks : P .links) (a1 : Nat) (a2 : Nat) {s₀ s : State} (h : changesOnly P s₀ s) : changesOnly P s₀
    (swapTargetEff s a1 a2) := by
  fun_cases swapTargetEff s a1 a2
  all_goals (intros; repeat' first
      | with_reducible assumption | with_reducible apply moveLatency_only | with_reducible apply modPort_only | with_reducible apply only_ite
      | with_reducible apply only_mk | with_reducible exact .inl (by assumption) | with_reducible exact .inr rfl | with_reducible exact .inr ⟨rfl, rfl⟩
      | with_reducible exact .inr ⟨rfl, rfl, rfl⟩ | with_reducible exact .inr ⟨rfl, rfl, rfl, rfl⟩ | with_reducible exact .inr ⟨rfl, rfl, rfl, rfl, rfl⟩
      | with_reducible apply only_foldl | intro _ | (split))

theorem syncReleaseEff_only (hrooms : P .rooms) (htasks : P .tasks) (hintStatus : P .intStatus) (hmessages : P .messages) (hfabric : P .fabric) (hpace : P
    .pace) (a1 : Nat) (a2 : Nat) {s₀ s : State} (h : changesOnly P s₀ s) : changesOnly P s₀ (syncReleaseEff s a1 a2) := by
  fun_cases syncReleaseEff s a1 a2
  all_goals (intros; repeat' first
      | with_reducible assumption | with_reducible apply releaseSync_only | with_reducible apply modPace_only | with_reducible apply raiseInt_only
      | with_reducible apply haltTask_only | with_reducible apply only_ite | with_reducible apply only_mk | with_reducible exact .inl (by assumption)
      | with_reducible exact .inr rfl | with_reducible exact .inr ⟨rfl, rfl⟩ | with_reducible exact .inr ⟨rfl, rfl, rfl⟩
      | with_reducible exact .inr ⟨rfl, rfl, rfl, rfl⟩ | with_reducible exact .inr ⟨rfl, rfl, rfl, rfl, rfl⟩ | with_reducible apply only_foldl | intro _
      | (split))

theorem takeArrived_only (hfabric : P .fabric) (a0 : Nat) (a1 : Frame) {s₀ s : State} (h : changesOnly P s₀ s) : changesOnly P s₀ (takeArrived a0 a1 s) := by
  fun_cases takeArrived a0 a1 s
  all_goals (intros; repeat' first
      | with_reducible assumption | with_reducible apply modFabric_only | with_reducible apply only_ite | with_reducible apply only_mk
      | with_reducible exact .inl (by assumption) | with_reducible exact .inr rfl | with_reducible exact .inr ⟨rfl, rfl⟩
      | with_reducible exact .inr ⟨rfl, rfl, rfl⟩ | with_reducible exact .inr ⟨rfl, rfl, rfl, rfl⟩ | with_reducible exact .inr ⟨rfl, rfl, rfl, rfl, rfl⟩
      | with_reducible apply only_foldl | intro _ | (split))

theorem takeEffectEff_only (hstore : P .store) (hrooms : P .rooms) (hoffered : P .offered) (hphase : P .phase) (hhealthSt : P .healthSt) (hfabricSt : P
    .fabricSt) (hserving : P .serving) (hmboxes : P .mboxes) (hstaged : P .staged) (hctxs : P .ctxs) (hqueues : P .queues) (hfences : P .fences) (himages : P
    .images) (htasks : P .tasks) (hidentity : P .identity) (hintStatus : P .intStatus) (hintEnable : P .intEnable) (htimeout : P .timeout) (hhostErrors : P
    .hostErrors) (hrequests : P .requests) (hmessages : P .messages) (hporch : P .porch) (hside : P .side) (hhatch : P .hatch) (hports : P .ports) (hkeep : P
    .keep) (hsnap : P .snap) (hfabric : P .fabric) (hlinks : P .links) (htime : P .time) (hpace : P .pace) (hpower : P .power) (hhealth : P .health) (hseq : P
    .seq) {s₀ s : State} (h : changesOnly P s₀ s) : changesOnly P s₀ (takeEffectEff s) := by
  fun_cases takeEffectEff s
  all_goals (intros; repeat' first
      | with_reducible assumption | with_reducible apply stewardRestart_only | with_reducible apply startHard_only | with_reducible apply setPhase_only
      | with_reducible apply modSeq_only | with_reducible apply only_ite | with_reducible apply only_mk | with_reducible exact .inl (by assumption)
      | with_reducible exact .inr rfl | with_reducible exact .inr ⟨rfl, rfl⟩ | with_reducible exact .inr ⟨rfl, rfl, rfl⟩
      | with_reducible exact .inr ⟨rfl, rfl, rfl, rfl⟩ | with_reducible exact .inr ⟨rfl, rfl, rfl, rfl, rfl⟩ | with_reducible apply only_foldl | intro _
      | (split))

theorem takeTime_only (hfabric : P .fabric) (a0 : Nat) (a1 : Option Frame) (a2 : State → State) {s₀ s : State} (hf2 : ∀ x0, changesOnly P s₀ x0 → changesOnly P
    s₀ (a2 x0)) (h : changesOnly P s₀ s) : changesOnly P s₀ (takeTime a0 a1 a2 s) := by
  fun_cases takeTime a0 a1 a2 s
  all_goals (intros; repeat' first
      | with_reducible assumption | with_reducible apply_assumption | with_reducible apply takeFrame_only | with_reducible apply only_ite
      | with_reducible apply only_mk | with_reducible exact .inl (by assumption) | with_reducible exact .inr rfl | with_reducible exact .inr ⟨rfl, rfl⟩
      | with_reducible exact .inr ⟨rfl, rfl, rfl⟩ | with_reducible exact .inr ⟨rfl, rfl, rfl, rfl⟩ | with_reducible exact .inr ⟨rfl, rfl, rfl, rfl, rfl⟩
      | with_reducible apply only_foldl | intro _ | (split))

theorem takeoverEff_only (hfreeCtr : P .freeCtr) (hstore : P .store) (hhealthSt : P .healthSt) (hserving : P .serving) (hmboxes : P .mboxes) (hstaged : P
    .staged) (hctxs : P .ctxs) (hqueues : P .queues) (himages : P .images) (htasks : P .tasks) (hintStatus : P .intStatus) (hrequests : P .requests) (hmessages
    : P .messages) (hporch : P .porch) (hhatch : P .hatch) (hsnap : P .snap) (hfabric : P .fabric) (hlinks : P .links) (hpower : P .power) (hhealth : P .health)
    (hseq : P .seq) {s₀ s : State} (h : changesOnly P s₀ s) : changesOnly P s₀ (takeoverEff s) := by
  fun_cases takeoverEff s
  all_goals (intros; repeat' first
      | with_reducible assumption | with_reducible apply settleHealth_only | with_reducible apply failOver_only | with_reducible apply undoRaise_only
      | with_reducible apply haltAll_only | with_reducible apply modMap_only | with_reducible apply markSpare_only | with_reducible apply countFault_only
      | with_reducible apply modUnit_only | with_reducible apply modHealth_only | with_reducible apply only_ite | with_reducible apply only_mk
      | with_reducible exact .inl (by assumption) | with_reducible exact .inr rfl | with_reducible exact .inr ⟨rfl, rfl⟩
      | with_reducible exact .inr ⟨rfl, rfl, rfl⟩ | with_reducible exact .inr ⟨rfl, rfl, rfl, rfl⟩ | with_reducible exact .inr ⟨rfl, rfl, rfl, rfl, rfl⟩
      | with_reducible apply only_foldl | intro _ | (split))

theorem taskAbortEff_only (hmboxes : P .mboxes) (hqueues : P .queues) (htasks : P .tasks) (hrequests : P .requests) (hmessages : P .messages) (hfabric : P
    .fabric) (a1 : Nat) (a2 : MsgWord) {s₀ s : State} (h : changesOnly P s₀ s) : changesOnly P s₀ (taskAbortEff s a1 a2) := by
  fun_cases taskAbortEff s a1 a2
  all_goals (intros; repeat' first
      | with_reducible assumption | with_reducible apply withdrawRound_only | with_reducible apply await_only | with_reducible apply respond_only
      | with_reducible apply promote_only | with_reducible apply finishTask_only | with_reducible apply abortLaunched_only | with_reducible apply modTask_only
      | with_reducible apply only_ite | with_reducible apply only_mk | with_reducible exact .inl (by assumption) | with_reducible exact .inr rfl
      | with_reducible exact .inr ⟨rfl, rfl⟩ | with_reducible exact .inr ⟨rfl, rfl, rfl⟩ | with_reducible exact .inr ⟨rfl, rfl, rfl, rfl⟩
      | with_reducible exact .inr ⟨rfl, rfl, rfl, rfl, rfl⟩ | with_reducible apply only_foldl | intro _ | (split))

theorem taskHaltedEff_only (hfreeCtr : P .freeCtr) (hstore : P .store) (hrooms : P .rooms) (hmboxes : P .mboxes) (hqueues : P .queues) (htasks : P .tasks)
    (hrequests : P .requests) (hmessages : P .messages) (hports : P .ports) (hfabric : P .fabric) (hpower : P .power) (hhealth : P .health) (hseq : P .seq) (a1
    : Nat) {s₀ s : State} (h : changesOnly P s₀ s) : changesOnly P s₀ (taskHaltedEff s a1) := by
  fun_cases taskHaltedEff s a1
  all_goals (intros; repeat' first
      | with_reducible assumption | with_reducible apply sendBack_only | with_reducible apply scramble_only | with_reducible apply resetAnswer_only
      | with_reducible apply sayHalted_only | with_reducible apply releaseTask_only | with_reducible apply answerAborts_only
      | with_reducible apply promote_only | with_reducible apply finishTask_only | with_reducible apply modTask_only | with_reducible apply only_ite
      | with_reducible apply only_mk | with_reducible exact .inl (by assumption) | with_reducible exact .inr rfl | with_reducible exact .inr ⟨rfl, rfl⟩
      | with_reducible exact .inr ⟨rfl, rfl, rfl⟩ | with_reducible exact .inr ⟨rfl, rfl, rfl, rfl⟩ | with_reducible exact .inr ⟨rfl, rfl, rfl, rfl, rfl⟩
      | with_reducible apply only_foldl | intro _ | (split))

theorem taskLaunchEff_only (hmboxes : P .mboxes) (hqueues : P .queues) (himages : P .images) (htasks : P .tasks) (hrequests : P .requests) (hmessages : P
    .messages) (a1 : Nat) (a2 : MsgWord) {s₀ s : State} (h : changesOnly P s₀ s) : changesOnly P s₀ (taskLaunchEff s a1 a2) := by
  fun_cases taskLaunchEff s a1 a2
  all_goals (intros; repeat' first
      | with_reducible assumption | with_reducible apply respond_only | with_reducible apply acceptTask_only | with_reducible apply only_ite
      | with_reducible apply only_mk | with_reducible exact .inl (by assumption) | with_reducible exact .inr rfl | with_reducible exact .inr ⟨rfl, rfl⟩
      | with_reducible exact .inr ⟨rfl, rfl, rfl⟩ | with_reducible exact .inr ⟨rfl, rfl, rfl, rfl⟩ | with_reducible exact .inr ⟨rfl, rfl, rfl, rfl, rfl⟩
      | with_reducible apply only_foldl | intro _ | (split))

theorem timeNowEff_only (hmessages : P .messages) (htime : P .time) (a1 : Nat) (a2 : Nat) (a3 : Nat) {s₀ s : State} (h : changesOnly P s₀ s) : changesOnly P s₀
    (timeNowEff s a1 a2 a3) := by
  fun_cases timeNowEff s a1 a2 a3
  all_goals (intros; repeat' first
      | with_reducible assumption | with_reducible apply regReply_only | with_reducible apply modTime_only | with_reducible apply only_ite
      | with_reducible apply only_mk | with_reducible exact .inl (by assumption) | with_reducible exact .inr rfl | with_reducible exact .inr ⟨rfl, rfl⟩
      | with_reducible exact .inr ⟨rfl, rfl, rfl⟩ | with_reducible exact .inr ⟨rfl, rfl, rfl, rfl⟩ | with_reducible exact .inr ⟨rfl, rfl, rfl, rfl, rfl⟩
      | with_reducible apply only_foldl | intro _ | (split))

theorem timeStepEff_only (hfreeCtr : P .freeCtr) (hstaged : P .staged) (hintStatus : P .intStatus) (hmessages : P .messages) (hsnap : P .snap) (hlinks : P
    .links) (htime : P .time) {s₀ s : State} (h : changesOnly P s₀ s) : changesOnly P s₀ (timeStepEff s) := by
  fun_cases timeStepEff s
  all_goals (intros; repeat' first
      | with_reducible assumption | with_reducible apply subtractBeats_only | with_reducible apply setTimeSt_only | with_reducible apply modTime_only
      | with_reducible apply raiseInt_only | with_reducible apply only_ite | with_reducible apply only_mk | with_reducible exact .inl (by assumption)
      | with_reducible exact .inr rfl | with_reducible exact .inr ⟨rfl, rfl⟩ | with_reducible exact .inr ⟨rfl, rfl, rfl⟩
      | with_reducible exact .inr ⟨rfl, rfl, rfl, rfl⟩ | with_reducible exact .inr ⟨rfl, rfl, rfl, rfl, rfl⟩ | with_reducible apply only_foldl | intro _
      | (split))

theorem timeoutEff_only (hmboxes : P .mboxes) (hctxs : P .ctxs) (hqueues : P .queues) (hfences : P .fences) (htasks : P .tasks) (hhostErrors : P .hostErrors)
    (hrequests : P .requests) (hmessages : P .messages) (hporch : P .porch) (hseq : P .seq) (a1 : Nat) {s₀ s : State} (h : changesOnly P s₀ s) : changesOnly P
    s₀ (timeoutEff s a1) := by
  fun_cases timeoutEff s a1
  all_goals (intros; repeat' first
      | with_reducible assumption | with_reducible apply gotAnswer_only | with_reducible apply freeReq_only | with_reducible apply modHost_only
      | with_reducible apply only_ite | with_reducible apply only_mk | with_reducible exact .inl (by assumption) | with_reducible exact .inr rfl
      | with_reducible exact .inr ⟨rfl, rfl⟩ | with_reducible exact .inr ⟨rfl, rfl, rfl⟩ | with_reducible exact .inr ⟨rfl, rfl, rfl, rfl⟩
      | with_reducible exact .inr ⟨rfl, rfl, rfl, rfl, rfl⟩ | with_reducible apply only_foldl | intro _ | (split))

theorem trainEff_only (hlinks : P .links) (hhealth : P .health) (a1 : Nat) (a2 : Nat) (a3 : BitVec 64) (a4 : Nat) (a5 : Nat) (a6 : Nat) (a7 : Bool) (a8 : Nat)
    (a9 : Nat) {s₀ s : State} (h : changesOnly P s₀ s) : changesOnly P s₀ (trainEff s a1 a2 a3 a4 a5 a6 a7 a8 a9) := by
  fun_cases trainEff s a1 a2 a3 a4 a5 a6 a7 a8 a9
  all_goals (intros; repeat' first
      | with_reducible assumption | with_reducible apply settleTraining_only | with_reducible apply placeLate_only | with_reducible apply putPort_only
      | with_reducible apply only_ite | with_reducible apply only_mk | with_reducible exact .inl (by assumption) | with_reducible exact .inr rfl
      | with_reducible exact .inr ⟨rfl, rfl⟩ | with_reducible exact .inr ⟨rfl, rfl, rfl⟩ | with_reducible exact .inr ⟨rfl, rfl, rfl, rfl⟩
      | with_reducible exact .inr ⟨rfl, rfl, rfl, rfl, rfl⟩ | with_reducible apply only_foldl | intro _ | (split))

theorem trainingEndEff_only (hphase : P .phase) (hintStatus : P .intStatus) (hmessages : P .messages) (hfabric : P .fabric) (hlinks : P .links) (hhealth : P
    .health) (hseq : P .seq) (a1 : Nat) {s₀ s : State} (h : changesOnly P s₀ s) : changesOnly P s₀ (trainingEndEff s a1) := by
  fun_cases trainingEndEff s a1
  all_goals (intros; repeat' first
      | with_reducible assumption | with_reducible apply refreshAll_only | with_reducible apply placeAll_only | with_reducible apply setPhase_only
      | with_reducible apply startRoll_only | with_reducible apply only_ite | with_reducible apply only_mk | with_reducible exact .inl (by assumption)
      | with_reducible exact .inr rfl | with_reducible exact .inr ⟨rfl, rfl⟩ | with_reducible exact .inr ⟨rfl, rfl, rfl⟩
      | with_reducible exact .inr ⟨rfl, rfl, rfl, rfl⟩ | with_reducible exact .inr ⟨rfl, rfl, rfl, rfl, rfl⟩ | with_reducible apply only_foldl | intro _
      | (split))

theorem tryStart_only (hseq : P .seq) {s₀ s : State} (h : changesOnly P s₀ s) : changesOnly P s₀ (tryStart s) := by
  fun_cases tryStart s
  all_goals (intros; repeat' first
      | with_reducible assumption | with_reducible apply powerUp_only | with_reducible apply only_ite | with_reducible apply only_mk
      | with_reducible exact .inl (by assumption) | with_reducible exact .inr rfl | with_reducible exact .inr ⟨rfl, rfl⟩
      | with_reducible exact .inr ⟨rfl, rfl, rfl⟩ | with_reducible exact .inr ⟨rfl, rfl, rfl, rfl⟩ | with_reducible exact .inr ⟨rfl, rfl, rfl, rfl, rfl⟩
      | with_reducible apply only_foldl | intro _ | (split))

theorem vauxFallEff_only (hstore : P .store) (hrooms : P .rooms) (hoffered : P .offered) (hphase : P .phase) (hhealthSt : P .healthSt) (hfabricSt : P .fabricSt)
    (hserving : P .serving) (hmboxes : P .mboxes) (hstaged : P .staged) (hctxs : P .ctxs) (hqueues : P .queues) (hfences : P .fences) (himages : P .images)
    (htasks : P .tasks) (hidentity : P .identity) (hintStatus : P .intStatus) (hintEnable : P .intEnable) (htimeout : P .timeout) (hhostErrors : P .hostErrors)
    (hrequests : P .requests) (hmessages : P .messages) (hporch : P .porch) (hside : P .side) (hhatch : P .hatch) (hports : P .ports) (hkeep : P .keep) (hsnap :
    P .snap) (hfabric : P .fabric) (hlinks : P .links) (htime : P .time) (hpace : P .pace) (hpower : P .power) (hhealth : P .health) (hseq : P .seq) {s₀ s :
    State} (h : changesOnly P s₀ s) : changesOnly P s₀ (vauxFallEff s) := by
  fun_cases vauxFallEff s
  all_goals (intros; repeat' first
      | with_reducible assumption | with_reducible apply modSeq_only | with_reducible apply hardReset_only | with_reducible apply only_ite
      | with_reducible apply only_mk | with_reducible exact .inl (by assumption) | with_reducible exact .inr rfl | with_reducible exact .inr ⟨rfl, rfl⟩
      | with_reducible exact .inr ⟨rfl, rfl, rfl⟩ | with_reducible exact .inr ⟨rfl, rfl, rfl, rfl⟩ | with_reducible exact .inr ⟨rfl, rfl, rfl, rfl, rfl⟩
      | with_reducible apply only_foldl | intro _ | (split))

theorem waitExpiredEff_only (hrooms : P .rooms) (a1 : Nat) {s₀ s : State} (h : changesOnly P s₀ s) : changesOnly P s₀ (waitExpiredEff s a1) := by
  fun_cases waitExpiredEff s a1
  all_goals (intros; repeat' first
      | with_reducible assumption | with_reducible apply raiseFault_only | with_reducible apply only_ite | with_reducible apply only_mk
      | with_reducible exact .inl (by assumption) | with_reducible exact .inr rfl | with_reducible exact .inr ⟨rfl, rfl⟩
      | with_reducible exact .inr ⟨rfl, rfl, rfl⟩ | with_reducible exact .inr ⟨rfl, rfl, rfl, rfl⟩ | with_reducible exact .inr ⟨rfl, rfl, rfl, rfl, rfl⟩
      | with_reducible apply only_foldl | intro _ | (split))

theorem wakeEff_only (hstore : P .store) (hrooms : P .rooms) (hoffered : P .offered) (hphase : P .phase) (hhealthSt : P .healthSt) (hfabricSt : P .fabricSt)
    (hserving : P .serving) (hmboxes : P .mboxes) (hstaged : P .staged) (hctxs : P .ctxs) (hqueues : P .queues) (hfences : P .fences) (himages : P .images)
    (htasks : P .tasks) (hidentity : P .identity) (hintStatus : P .intStatus) (hintEnable : P .intEnable) (htimeout : P .timeout) (hhostErrors : P .hostErrors)
    (hrequests : P .requests) (hmessages : P .messages) (hporch : P .porch) (hside : P .side) (hhatch : P .hatch) (hports : P .ports) (hkeep : P .keep) (hsnap :
    P .snap) (hfabric : P .fabric) (hlinks : P .links) (htime : P .time) (hpace : P .pace) (hpower : P .power) (hhealth : P .health) (hseq : P .seq) {s₀ s :
    State} (h : changesOnly P s₀ s) : changesOnly P s₀ (wakeEff s) := by
  fun_cases wakeEff s
  all_goals (intros; repeat' first
      | with_reducible assumption | with_reducible apply powerUp_only | with_reducible apply modSeq_only | with_reducible apply hardReset_only
      | with_reducible apply only_ite | with_reducible apply only_mk | with_reducible exact .inl (by assumption) | with_reducible exact .inr rfl
      | with_reducible exact .inr ⟨rfl, rfl⟩ | with_reducible exact .inr ⟨rfl, rfl, rfl⟩ | with_reducible exact .inr ⟨rfl, rfl, rfl, rfl⟩
      | with_reducible exact .inr ⟨rfl, rfl, rfl, rfl, rfl⟩ | with_reducible apply only_foldl | intro _ | (split))

theorem wearSample_only (hhealth : P .health) (a0 : WearSample) {s₀ s : State} (h : changesOnly P s₀ s) : changesOnly P s₀ (wearSample a0 s) := by
  fun_cases wearSample a0 s
  all_goals (intros; repeat' first
      | with_reducible assumption | with_reducible apply wantReplace_only | with_reducible apply modUnit_only | with_reducible apply only_ite
      | with_reducible apply only_mk | with_reducible exact .inl (by assumption) | with_reducible exact .inr rfl | with_reducible exact .inr ⟨rfl, rfl⟩
      | with_reducible exact .inr ⟨rfl, rfl, rfl⟩ | with_reducible exact .inr ⟨rfl, rfl, rfl, rfl⟩ | with_reducible exact .inr ⟨rfl, rfl, rfl, rfl, rfl⟩
      | with_reducible apply only_foldl | intro _ | (split))

theorem wearSamples_only (hhealth : P .health) (a0 : List WearSample) {s₀ s : State} (h : changesOnly P s₀ s) : changesOnly P s₀ (wearSamples a0 s) := by
  fun_induction wearSamples a0 s
  all_goals intros
  all_goals first | with_reducible assumption | skip
  all_goals repeat' first
      | with_reducible assumption | with_reducible apply_assumption | with_reducible apply wearSample_only | with_reducible apply only_ite
      | with_reducible apply only_mk | with_reducible exact .inl (by assumption) | with_reducible exact .inr rfl | with_reducible exact .inr ⟨rfl, rfl⟩
      | with_reducible exact .inr ⟨rfl, rfl, rfl⟩ | with_reducible exact .inr ⟨rfl, rfl, rfl, rfl⟩ | with_reducible exact .inr ⟨rfl, rfl, rfl, rfl, rfl⟩
      | with_reducible apply only_foldl | intro _ | (split)

theorem windowCloseEff_only (hstore : P .store) (hmboxes : P .mboxes) (himages : P .images) (hrequests : P .requests) (hmessages : P .messages) (a1 : Nat) (a2 :
    MsgWord) {s₀ s : State} (h : changesOnly P s₀ s) : changesOnly P s₀ (windowCloseEff s a1 a2) := by
  fun_cases windowCloseEff s a1 a2
  all_goals (intros; repeat' first
      | with_reducible assumption | with_reducible apply beginClose_only | with_reducible apply respond_only | with_reducible apply only_ite
      | with_reducible apply only_mk | with_reducible exact .inl (by assumption) | with_reducible exact .inr rfl | with_reducible exact .inr ⟨rfl, rfl⟩
      | with_reducible exact .inr ⟨rfl, rfl, rfl⟩ | with_reducible exact .inr ⟨rfl, rfl, rfl, rfl⟩ | with_reducible exact .inr ⟨rfl, rfl, rfl, rfl, rfl⟩
      | with_reducible apply only_foldl | intro _ | (split))

theorem windowOpenEff_only (hstore : P .store) (hmboxes : P .mboxes) (hrequests : P .requests) (hmessages : P .messages) (a1 : Nat) (a2 : MsgWord) {s₀ s :
    State} (h : changesOnly P s₀ s) : changesOnly P s₀ (windowOpenEff s a1 a2) := by
  fun_cases windowOpenEff s a1 a2
  all_goals (intros; repeat' first
      | with_reducible assumption | with_reducible apply modStore_only | with_reducible apply respond_only | with_reducible apply only_ite
      | with_reducible apply only_mk | with_reducible exact .inl (by assumption) | with_reducible exact .inr rfl | with_reducible exact .inr ⟨rfl, rfl⟩
      | with_reducible exact .inr ⟨rfl, rfl, rfl⟩ | with_reducible exact .inr ⟨rfl, rfl, rfl, rfl⟩ | with_reducible exact .inr ⟨rfl, rfl, rfl, rfl, rfl⟩
      | with_reducible apply only_foldl | intro _ | (split))

theorem withdrawEff_only (hqueues : P .queues) (htasks : P .tasks) (hrequests : P .requests) (hmessages : P .messages) (hfabric : P .fabric) (a0 : Frame) {s₀ s
    : State} (h : changesOnly P s₀ s) : changesOnly P s₀ (withdrawEff a0 s) := by
  fun_cases withdrawEff a0 s
  all_goals (intros; repeat' first
      | with_reducible assumption | with_reducible apply refuseMembers_only | with_reducible apply modFabric_only | with_reducible apply promote_only
      | with_reducible apply finishTask_only | with_reducible apply haltTask_only | with_reducible apply only_ite | with_reducible apply only_mk
      | with_reducible exact .inl (by assumption) | with_reducible exact .inr rfl | with_reducible exact .inr ⟨rfl, rfl⟩
      | with_reducible exact .inr ⟨rfl, rfl, rfl⟩ | with_reducible exact .inr ⟨rfl, rfl, rfl, rfl⟩ | with_reducible exact .inr ⟨rfl, rfl, rfl, rfl, rfl⟩
      | with_reducible apply only_foldl | intro _ | (split))

end Sys2Proof.Machine
end

