-- ==== Sys2Proof/Laws/Tab.lean ====
section
/-!
SUPPORT. Tables: reading after writing, and the canonical form that every table operation keeps.
-/
namespace Sys2Proof.Machine

variable {α : Type}

theorem tabGet_erase (d : α) (t : Tab α) (a b : Nat) : tabGet d (tabErase t a) b = if a = b then d else tabGet d t b := by
  induction t with
  | nil => simp [tabErase, tabGet]
  | cons e t ih =>
    obtain ⟨k, v⟩ := e
    by_cases hk : k = a
    · subst hk
      by_cases hb : k = b
      · subst hb; simp [tabErase, ih]
      · simp [tabErase, ih, hb, tabGet]
    · by_cases hb : k = b
      · subst hb
        simp [tabErase, tabGet, hk, Ne.symm hk]
      · simp [tabErase, tabGet, hk, hb, ih]

theorem tabGet_ins (d : α) (t : Tab α) (a : Nat) (x : α) (b : Nat) : tabGet d (tabIns t a x) b = if a = b then x else tabGet d t b := by
  induction t with
  | nil => simp [tabIns, tabGet]
  | cons e t ih =>
    obtain ⟨k, v⟩ := e
    unfold tabIns
    split
    · simp [tabGet]
    · split
      · subst_vars
        by_cases hb : k = b <;> simp [tabGet, hb]
      · by_cases hb : k = b
        · subst hb
          simp_all [tabGet]
        · simp [tabGet, hb, ih]

/-- A read after a write gives the value written, and the old value everywhere else. -/
@[simp] theorem tabGet_put [DecidableEq α] (d : α) (t : Tab α) (a : Nat) (x : α) (b : Nat) :
    tabGet d (tabPut d t a x) b = if a = b then x else tabGet d t b := by
  unfold tabPut
  split
  · subst_vars; exact tabGet_erase ..
  · exact tabGet_ins ..

@[simp] theorem tabGet_mod [DecidableEq α] (d : α) (t : Tab α) (a : Nat) (f : α → α) (b : Nat) :
    tabGet d (tabMod d t a f) b = if a = b then f (tabGet d t a) else tabGet d t b := tabGet_put ..

/-- Writing a list leaves every key outside it alone. -/
theorem tabGet_putList [DecidableEq α] (d : α) (t : Tab α) (a : Nat) (xs : List α) (b : Nat) (h : ¬ (a ≤ b ∧ b < a + xs.length)) :
    tabGet d (tabPutList d t a xs) b = tabGet d t b := by
  induction xs generalizing t a with
  | nil => rfl
  | cons x xs ih =>
    simp only [List.length_cons] at h
    rw [tabPutList, ih _ _ (by omega), tabGet_put, if_neg (by omega)]

theorem tabGet_putList_at [DecidableEq α] (d : α) (t : Tab α) (a : Nat) (xs : List α) (k : Nat) (h : k < xs.length) :
    tabGet d (tabPutList d t a xs) (a + k) = xs[k] := by
  induction xs generalizing t a k with
  | nil => simp at h
  | cons x xs ih =>
    cases k with
    | zero => rw [tabPutList, tabGet_putList _ _ _ _ _ (by omega)]; simp
    | succ k =>
      have := ih (tabPut d t a x) (a + 1) k (by simpa using h)
      rw [tabPutList]
      simpa [Nat.add_assoc, Nat.add_comm 1 k] using this

theorem tabWfAbove_mono [DecidableEq α] {d : α} {t : Tab α} {lo lo' : Nat} (hl : lo' ≤ lo) (h : tabWfAbove d lo t = true) : tabWfAbove d lo' t = true := by
  cases t with
  | nil => rfl
  | cons e t =>
    simp only [tabWfAbove, Bool.and_eq_true, decide_eq_true_eq] at h ⊢
    exact ⟨⟨by omega, h.1.2⟩, h.2⟩

theorem tabErase_wfAbove [DecidableEq α] {d : α} {t : Tab α} {lo : Nat} (a : Nat) (h : tabWfAbove d lo t = true) : tabWfAbove d lo (tabErase t a) = true := by
  induction t generalizing lo with
  | nil => rfl
  | cons e t ih =>
    simp only [tabWfAbove, Bool.and_eq_true, decide_eq_true_eq] at h
    unfold tabErase
    split
    · exact ih (tabWfAbove_mono (by omega) h.2)
    · simp only [tabWfAbove, Bool.and_eq_true, decide_eq_true_eq]
      exact ⟨h.1, ih h.2⟩

theorem tabIns_wfAbove [DecidableEq α] {d : α} {t : Tab α} {lo a : Nat} {x : α} (hx : x ≠ d) (ha : lo ≤ a) (h : tabWfAbove d lo t = true) :
    tabWfAbove d lo (tabIns t a x) = true := by
  induction t generalizing lo with
  | nil => simp [tabIns, tabWfAbove, hx, ha]
  | cons e t ih =>
    simp only [tabWfAbove, Bool.and_eq_true, decide_eq_true_eq] at h
    unfold tabIns
    split
    · simp only [tabWfAbove, Bool.and_eq_true, decide_eq_true_eq]
      exact ⟨⟨ha, hx⟩, ⟨⟨by omega, h.1.2⟩, h.2⟩⟩
    · split
      · simp only [tabWfAbove, Bool.and_eq_true, decide_eq_true_eq]
        exact ⟨⟨ha, hx⟩, tabWfAbove_mono (by omega) h.2⟩
      · simp only [tabWfAbove, Bool.and_eq_true, decide_eq_true_eq]
        exact ⟨h.1, ih (by omega) h.2⟩

/-- A write keeps the canonical form. -/
theorem tabPut_wf [DecidableEq α] {d : α} {t : Tab α} (a : Nat) (x : α) (h : tabWf d t = true) : tabWf d (tabPut d t a x) = true := by
  unfold tabPut
  split
  · exact tabErase_wfAbove a h
  · exact tabIns_wfAbove (by assumption) (Nat.zero_le _) h

theorem tabMod_wf [DecidableEq α] {d : α} {t : Tab α} (a : Nat) (f : α → α) (h : tabWf d t = true) : tabWf d (tabMod d t a f) = true := tabPut_wf a _ h

theorem tabPutList_wf [DecidableEq α] {d : α} {t : Tab α} (a : Nat) (xs : List α) (h : tabWf d t = true) : tabWf d (tabPutList d t a xs) = true := by
  induction xs generalizing t a with
  | nil => exact h
  | cons x xs ih => exact ih (a + 1) (tabPut_wf a x h)

theorem tabFilter_wfAbove [DecidableEq α] {d : α} {t : Tab α} {lo : Nat} (p : Nat × α → Bool) (h : tabWfAbove d lo t = true) :
    tabWfAbove d lo (t.filter p) = true := by
  induction t generalizing lo with
  | nil => rfl
  | cons e t ih =>
    simp only [tabWfAbove, Bool.and_eq_true, decide_eq_true_eq] at h
    rw [List.filter_cons]
    split
    · simp only [tabWfAbove, Bool.and_eq_true, decide_eq_true_eq]
      exact ⟨h.1, ih h.2⟩
    · exact ih (tabWfAbove_mono (by omega) h.2)

/-- Dropping entries keeps the canonical form. -/
theorem tabFilter_wf [DecidableEq α] {d : α} {t : Tab α} (p : Nat × α → Bool) (h : tabWf d t = true) : tabWf d (t.filter p) = true := tabFilter_wfAbove p h

theorem tabGet_filter_of (d : α) (t : Tab α) (p : Nat × α → Bool) (a : Nat) (h : ∀ v, p (a, v) = true) : tabGet d (t.filter p) a = tabGet d t a := by
  induction t with
  | nil => rfl
  | cons e t ih =>
    obtain ⟨k, v⟩ := e
    by_cases hk : k = a
    · subst hk
      simp [h v, tabGet]
    · rw [List.filter_cons]
      split <;> simp [tabGet, hk, ih]

theorem tabGet_filter_out (d : α) (t : Tab α) (p : Nat × α → Bool) (a : Nat) (h : ∀ v, p (a, v) = false) : tabGet d (t.filter p) a = d := by
  induction t with
  | nil => rfl
  | cons e t ih =>
    obtain ⟨k, v⟩ := e
    rw [List.filter_cons]
    split
    · rename_i hp
      by_cases hk : k = a
      · subst hk; simp [h v] at hp
      · simp [tabGet, hk, ih]
    · exact ih

end Sys2Proof.Machine
end

