-- ==== Sys2Proof/Laws/Store.lean ====
section
/-!
SUPPORT. What the store's operations do to its bytes: every one keeps the canonical form, and each writes only the bytes it names.
-/
namespace Sys2Proof.Machine

set_option linter.unusedTactic false
set_option linter.unreachableTactic false

/-- The bytes outside `rs` stand, and the canonical form is kept. -/
structure keepsBytes (rs : List (Nat × Nat)) (st st' : Store) : Prop where
  wf    : Memory.wf st.mem = true → Memory.wf st'.mem = true
  bytes : ∀ a, outside rs a → tabGet 0 st'.mem a = tabGet 0 st.mem a

theorem keepsBytes.of_mem {st st' : Store} (h : st'.mem = st.mem) : keepsBytes [] st st' := ⟨fun w => h ▸ w, fun _ _ => by rw [h]⟩

theorem outside_append {l l' : List (Nat × Nat)} {a : Nat} (h : outside (l ++ l') a) : outside l a ∧ outside l' a :=
  ⟨fun r hr => h r (List.mem_append_left _ hr), fun r hr => h r (List.mem_append_right _ hr)⟩

theorem keepsBytes.trans {rs rs' : List (Nat × Nat)} {a b c : Store} (h : keepsBytes rs a b) (h' : keepsBytes rs' b c) : keepsBytes (rs' ++ rs) a c :=
  ⟨fun w => h'.wf (h.wf w), fun x hx => (h'.bytes x (outside_append hx).1).trans (h.bytes x (outside_append hx).2)⟩

@[simp] theorem setOwn_mem (st : Store) (g : Nat) (e : BitVec 16) : (setOwn st g e).mem = st.mem := rfl
@[simp] theorem setLine_mem (st : Store) (l : Nat) (c : LineErr) : (setLine st l c).mem = st.mem := rfl
@[simp] theorem modErr_mem (st : Store) (h : Nat) (f : ErrCount → ErrCount) : (modErr st h f).mem = st.mem := rfl
@[simp] theorem setRing_mem (st : Store) (room ring : Nat) (x : Ring) : (setRing st room ring x).mem = st.mem := rfl

@[simp] theorem logUncorrectable_mem (st : Store) (l : Nat) (b : Bool) : (logUncorrectable st l b).mem = st.mem := by
  unfold logUncorrectable; rfl

@[simp] theorem readLine_mem (st : Store) (l : Nat) (b : Bool) : (readLine st l b).1.mem = st.mem := by
  unfold readLine; split <;> simp

@[simp] theorem readLines_mem (st : Store) (b : Bool) (ls : List Nat) : (readLines st b ls).1.mem = st.mem := by
  induction ls generalizing st with
  | nil => rfl
  | cons l ls ih =>
    rw [readLines]
    split <;> simp [ih]

@[simp] theorem cleanLines_mem (st : Store) (ls : List Nat) : (cleanLines st ls).mem = st.mem := by
  unfold cleanLines
  induction ls generalizing st with
  | nil => rfl
  | cons l ls ih => rw [List.foldl_cons, ih]; rfl

@[simp] theorem giveGranules_mem (c k : Nat) (gs : List Nat) (st : Store) : (giveGranules c k gs st).mem = st.mem := by
  unfold giveGranules
  induction gs generalizing st with
  | nil => rfl
  | cons g gs ih => rw [List.foldl_cons, ih]; rfl

@[simp] theorem addUnit_mem (P : Params) (room op u : Nat) (w : Option PendWrite) (q : Option PendRead) (st : Store) : (addUnit P room op u w q st).mem = st.mem := by
  rfl

@[simp] theorem addUnits_mem (P : Params) (room op : Nat) (f : Nat → Option PendWrite) (g : Nat → Option PendRead) (us : List Nat) (st : Store) :
    (us.foldl (fun x u => addUnit P room op u (f u) (g u) x) st).mem = st.mem := by
  induction us generalizing st with
  | nil => rfl
  | cons u us ih => rw [List.foldl_cons, ih, addUnit_mem]

@[simp] theorem readTraffic_mem (P : Params) (st : Store) (room op : Nat) (g : List Nat) (d : Option (Nat × Nat)) (a n : Nat) : (readTraffic P st room op g d a n).mem =
    st.mem := by
  unfold readTraffic
  repeat' split
  all_goals simp

@[simp] theorem advanceTail_mem (key n : Nat) (st : Store) : (advanceTail key n st).mem = st.mem := rfl

theorem memPut_keeps (st : Store) (a : Nat) (bs : List Byte) : keepsBytes [(a, bs.length)] st (memPut st a bs) :=
  ⟨fun w => tabPutList_wf a bs w, fun _ hx => tabGet_putList _ _ _ _ _ (hx (a, bs.length) (List.mem_singleton.mpr rfl))⟩

theorem writeWhole_keeps (st : Store) (a : Nat) (bs : List Byte) : keepsBytes [(a, bs.length)] st (writeWhole st a bs) := by
  have h := memPut_keeps st a bs
  exact ⟨fun w => by unfold writeWhole; rw [cleanLines_mem]; exact h.wf w, fun y hy => by unfold writeWhole; rw [cleanLines_mem]; exact h.bytes y hy⟩

/-- The write of an op changes its own bytes only, whether it lands at once or waits for service. -/
theorem writeTraffic_keeps (P : Params) (st : Store) (room op : Nat) (t : Option (Nat × Nat)) (a : Nat) (bs : List Byte) :
    keepsBytes [(a, bs.length)] st (writeTraffic P st room op t a bs) := by
  have e {u : Store} (h : u.mem = st.mem) : keepsBytes [(a, bs.length)] st u := ⟨fun w => h ▸ w, fun _ _ => by rw [h]⟩
  unfold writeTraffic
  split
  · exact e (addUnits_mem _ _ _ _ _ _ _)
  · split
    · exact writeWhole_keeps _ _ _
    · exact e rfl

/-- A write that lands at its service changes its own bytes only. -/
theorem landWrite_keeps (w : PendWrite) (rest : List PendWrite) (st : Store) : keepsBytes [(w.addr, w.bytes.length)] st (landWrite w rest st) := by
  have h := writeWhole_keeps st w.addr w.bytes
  unfold landWrite
  repeat' split
  all_goals first | exact h | exact ⟨h.wf, h.bytes⟩

/-- The bytes written stand. -/
theorem memPut_at (st : Store) (a : Nat) (bs : List Byte) (k : Nat) (h : k < bs.length) : tabGet 0 (memPut st a bs).mem (a + k) = bs[k] :=
  tabGet_putList_at _ _ _ _ _ h

theorem storeWord_keeps (st : Store) (a : Nat) (v : BitVec 32) : keepsBytes [(a, 4)] st (storeWord st a v) := by
  have h := memPut_keeps st a (leBytes 4 v.toNat)
  have hl : (leBytes 4 v.toNat).length = 4 := by simp [leBytes]
  rw [hl] at h
  exact ⟨h.wf, h.bytes⟩

@[simp] theorem setOwns_mem (e : BitVec 16) (gs : List Nat) (st : Store) : (gs.foldl (fun x g => setOwn x g e) st).mem = st.mem := by
  induction gs generalizing st with
  | nil => rfl
  | cons g gs ih => rw [List.foldl_cons, ih]; rfl

@[simp] theorem setOwnsBy_mem {α : Type} (f : α → Nat) (g : α → BitVec 16) (l : List α) (st : Store) : (l.foldl (fun x e => setOwn x (f e) (g e)) st).mem = st.mem := by
  induction l generalizing st with
  | nil => rfl
  | cons e l ih => rw [List.foldl_cons, ih]; rfl

@[simp] theorem startClearing_mem (gs : List Nat) (st : Store) : (startClearing gs st).mem = st.mem := by simp [startClearing]
@[simp] theorem closeOn_mem (gs : List Nat) (st : Store) : (closeOn gs st).mem = st.mem := rfl
@[simp] theorem closeCtx_mem (c : Nat) (st : Store) : (closeCtx c st).mem = st.mem := rfl
@[simp] theorem copyLinesOf_mem (p : Nat → Bool) (st : Store) : (copyLinesOf p st).mem = st.mem := rfl
@[simp] theorem copyStores_mem (r : Nat) (st : Store) : (copyStores r st).mem = st.mem := rfl
theorem withLines_mem (st : Store) (x : Tab LineErr) : ({ st with lines := x } : Store).mem = st.mem := rfl
@[simp] theorem poisonBank_mem (h b : Nat) (st : Store) : (poisonBank h b st).mem = st.mem := withLines_mem st _

@[simp] theorem writeBackLine_mem (l : Nat) (st : Store) : (writeBackLine l st).mem = st.mem := by
  unfold writeBackLine; split <;> rfl

@[simp] theorem setRings_mem (v : Bool) (V : Variant) (st : Store) : (setRings v V st).mem = st.mem := by
  unfold setRings
  induction V.rings generalizing st with
  | nil => rfl
  | cons r rs ih => rw [List.foldl_cons, ih]

@[simp] theorem placeRings_mem (c : Nat) (V : Variant) (rs : List RingRec) (st : Store) : (placeRings c V rs st).mem = st.mem := by
  induction rs generalizing st with
  | nil => rfl
  | cons r rs ih => rw [placeRings, ih]; split <;> rfl

theorem memPut_wf {st : Store} (a : Nat) (bs : List Byte) (h : Memory.wf st.mem = true) : Memory.wf (memPut st a bs).mem = true := (memPut_keeps st a bs).wf h
theorem writeWhole_wf {st : Store} (a : Nat) (bs : List Byte) (h : Memory.wf st.mem = true) : Memory.wf (writeWhole st a bs).mem = true :=
  (writeWhole_keeps st a bs).wf h

theorem placeBufs_wf {st : Store} (bs : List Byte) (V : Variant) (xs : List BufRec) (h : Memory.wf st.mem = true) : Memory.wf (placeBufs bs V xs st).mem = true := by
  induction xs generalizing st with
  | nil => exact h
  | cons b xs ih =>
    rw [placeBufs]
    apply ih
    split
    · exact writeWhole_wf _ _ h
    · exact h

theorem putModes_wf {st : Store} (ms : List (Nat × Nat × Nat × Nat × Bool)) (h : Memory.wf st.mem = true) : Memory.wf (putModes ms st).mem = true := by
  induction ms generalizing st with
  | nil => exact h
  | cons m ms ih =>
    obtain ⟨i, a, m, r, c⟩ := m
    rw [putModes]
    apply ih
    split
    · exact memPut_wf _ _ h
    · exact h

theorem resetBlocks_wf {st : Store} (bl : List InitBlock) (h : Memory.wf st.mem = true) : Memory.wf (resetBlocks bl st).mem = true := by
  induction bl generalizing st with
  | nil => exact h
  | cons b xs ih => exact ih (writeWhole_wf _ _ h)

theorem argBufs_wf {st : Store} (V : Variant) (args : List (BitVec 32)) (h : Memory.wf st.mem = true) : Memory.wf (argBufs V args st).mem = true := by
  unfold argBufs
  induction V.bufs generalizing st with
  | nil => exact h
  | cons b xs ih =>
    rw [List.foldl_cons]
    apply ih
    split
    · exact writeWhole_wf _ _ h
    · exact h

/-- A cleared granule reads as zeros, and every other byte stands (08 R253). -/
theorem clearGranule_byte (g : Nat) (st : Store) (a : Nat) : tabGet 0 (clearGranule g st).mem a = if g * 65536 ≤ a ∧ a < (g + 1) * 65536 then 0 else tabGet 0 st.mem a := by
  show tabGet 0 (st.mem.filter _) a = _
  split
  · rename_i h
    exact tabGet_filter_out _ _ _ _ fun v => by simp [h.1, h.2]
  · rename_i h
    refine tabGet_filter_of _ _ _ _ fun v => ?_
    simp only [Bool.not_eq_true', Bool.and_eq_false_iff, decide_eq_false_iff_not]
    omega

theorem clearGranule_wf {st : Store} (g : Nat) (h : Memory.wf st.mem = true) : Memory.wf (clearGranule g st).mem = true := tabFilter_wf _ h

theorem landWrite_wf {st : Store} (w : PendWrite) (rest : List PendWrite) (h : Memory.wf st.mem = true) : Memory.wf (landWrite w rest st).mem = true :=
  (landWrite_keeps w rest st).wf h
theorem writeTraffic_wf {st : Store} (P : Params) (room op : Nat) (t : Option (Nat × Nat)) (a : Nat) (bs : List Byte) (h : Memory.wf st.mem = true) :
    Memory.wf (writeTraffic P st room op t a bs).mem = true := (writeTraffic_keeps P st room op t a bs).wf h
theorem storeWord_wf {st : Store} (a : Nat) (v : BitVec 32) (h : Memory.wf st.mem = true) : Memory.wf (storeWord st a v).mem = true := (storeWord_keeps st a v).wf h

theorem serveUnits_wf {st : Store} (us : List LaneUnit) (h : Memory.wf st.mem = true) : Memory.wf (serveUnits us st).mem = true := by
  induction us generalizing st with
  | nil => exact h
  | cons u us ih =>
    rw [serveUnits]
    apply ih
    split
    · exact landWrite_wf _ _ h
    · exact h

@[simp] theorem advanceHead_mem (key n : Nat) (st : Store) : (advanceHead key n st).mem = st.mem := rfl

@[simp] theorem returnTake_mem (room op : Nat) (d : Option (Nat × Nat)) (st : Store) : (returnTake room op d st).mem = st.mem := by
  unfold returnTake
  repeat' split
  all_goals simp

@[simp] theorem deliverUnits_mem (hall : Nat) (st : Store) : (deliverUnits hall st).mem = st.mem := by
  unfold deliverUnits
  have k : ∀ (l : List (Nat × Nat × Option (Nat × Nat))) (t : Store), (l.foldl (fun t k => returnTake k.1 k.2.1 k.2.2 t) t).mem = t.mem := fun l => by
    induction l with
    | nil => exact fun _ => rfl
    | cons x xs ih => intro t; rw [List.foldl_cons, ih, returnTake_mem]
  exact k _ _
@[simp] theorem dropAccesses_mem (rs : List Nat) (st : Store) : (dropAccesses rs st).mem = st.mem := rfl

@[simp] theorem dropImage_mem (i : Image) (st : Store) : (dropImage i st).mem = st.mem := rfl

theorem landAll_wf (ws : List PendWrite) {st : Store} (h : Memory.wf st.mem = true) : Memory.wf (landAll ws st).mem = true := by
  induction ws generalizing st with
  | nil => exact h
  | cons w ws ih => exact ih (landWrite_wf _ _ h)

@[simp] theorem advanceAll_mem (hs : List (Nat × Nat)) (st : Store) : (advanceAll hs st).mem = st.mem := by
  unfold advanceAll
  induction hs generalizing st with
  | nil => rfl
  | cons x xs ih => rw [List.foldl_cons, ih, advanceHead_mem]

theorem settleGate_wf (before : Store) {st : Store} (h : Memory.wf st.mem = true) : Memory.wf (settleGate before st).mem = true := by
  unfold settleGate
  rw [advanceAll_mem]
  exact landAll_wf _ h

end Sys2Proof.Machine
end

