-- ==== Sys2Proof/Laws/Runs.lean ====
section
/-!
SUPPORT. What the run of an op does to the store's bytes: it writes only inside the ranges it notes in `wrote`, and keeps the canonical form.
-/
namespace Sys2Proof.Machine

set_option linter.unusedTactic false
set_option linter.unreachableTactic false
set_option linter.unusedVariables false

/-- From `r₀` on, a run has written only in the ranges it has noted since. -/
structure runGrows (r₀ r : Run) : Prop where
  intro ::
  ranges : ∃ l, r.wrote = l ++ r₀.wrote ∧ keepsBytes l r₀.st r.st

variable {r₀ : Run}

theorem grows_refl (r : Run) : runGrows r r := ⟨[], rfl, fun w => w, fun _ _ => rfl⟩

/-- A change that writes no byte and notes no range. -/
theorem grows_same {r r' : Run} (h : runGrows r₀ r) (hw : r'.wrote = r.wrote) (hm : r'.st.mem = r.st.mem) : runGrows r₀ r' := by
  obtain ⟨l, e, k⟩ := h
  exact ⟨l, hw.trans e, fun w => hm ▸ k.wf w, fun a ha => by rw [hm]; exact k.bytes a ha⟩

/-- A change of the operands, counters and tables of a run only. -/
theorem grows_mk {r : Run} (h : runGrows r₀ r) {a b c d e f g i j k l m} : runGrows r₀ ⟨r.st, a, b, c, d, e, f, r.wrote, g, i, j, k, l, m⟩ := grows_same h rfl rfl

theorem grows_ite {c : Prop} [Decidable c] {r r' : Run} (h : runGrows r₀ r) (h' : runGrows r₀ r') : runGrows r₀ (if c then r else r') := by
  split <;> assumption

theorem grows_foldl {α : Type} (g : Run → α → Run) (hg : ∀ r x, runGrows r₀ r → runGrows r₀ (g r x)) (l : List α) {r : Run} (h : runGrows r₀ r) :
    runGrows r₀ (l.foldl g r) := by
  induction l generalizing r with
  | nil => exact h
  | cons x xs ih => exact ih (hg _ _ h)

theorem grows_foldl_fst {α β : Type} (g : Run × β → α → Run × β) (hg : ∀ p x, runGrows r₀ p.1 → runGrows r₀ (g p x).1) (l : List α) {p : Run × β}
    (h : runGrows r₀ p.1) : runGrows r₀ (l.foldl g p).1 := by
  induction l generalizing p with
  | nil => exact h
  | cons x xs ih => exact ih (hg _ _ h)

theorem grows_foldl_mat {α : Type} (g : MatLoop → α → MatLoop) (hg : ∀ m x, runGrows r₀ m.run → runGrows r₀ (g m x).run) (l : List α) {m : MatLoop}
    (h : runGrows r₀ m.run) : runGrows r₀ (l.foldl g m).run := by
  induction l generalizing m with
  | nil => exact h
  | cons x xs ih => exact ih (hg _ _ h)

theorem grows_foldl_pair {α : Type} (g : PairLoop → α → PairLoop) (hg : ∀ m x, runGrows r₀ m.run → runGrows r₀ (g m x).run) (l : List α)
    {m : PairLoop} (h : runGrows r₀ m.run) : runGrows r₀ (l.foldl g m).run := by
  induction l generalizing m with
  | nil => exact h
  | cons x xs ih => exact ih (hg _ _ h)

theorem runFault_grows (c i l : Nat) {r : Run} (h : runGrows r₀ r) : runGrows r₀ (runFault r c i l) := by
  unfold runFault; split
  · exact h
  · exact grows_mk h



theorem grows_ite_fst {β : Type} {c : Prop} [Decidable c] {x y : Run × β} (h : runGrows r₀ x.1) (h' : runGrows r₀ y.1) : runGrows r₀ (if c then x else y).1 := by
  split <;> assumption

theorem grows_ite_mat {c : Prop} [Decidable c] {x y : MatLoop} (h : runGrows r₀ x.run) (h' : runGrows r₀ y.run) : runGrows r₀ (if c then x else y).run := by
  split <;> assumption

theorem grows_ite_pair {c : Prop} [Decidable c] {x y : PairLoop} (h : runGrows r₀ x.run) (h' : runGrows r₀ y.run) : runGrows r₀ (if c then x else y).run := by
  split <;> assumption

theorem grows_st {r : Run} (h : runGrows r₀ r) {st : Store} (hm : st.mem = r.st.mem) : runGrows r₀ { r with st := st } := grows_same h rfl hm

theorem grows_ring {r : Run} (h : runGrows r₀ r) (room ring : Nat) (x : Ring) : runGrows r₀ { r with st := setRing r.st room ring x } := grows_st h rfl

/-- A write notes its range. -/
theorem grows_write {r r' : Run} (h : runGrows r₀ r) (a n : Nat) (hw : r'.wrote = (a, n) :: r.wrote) (hm : keepsBytes [(a, n)] r.st r'.st) : runGrows r₀ r' := by
  obtain ⟨l, e, k⟩ := h
  refine ⟨(a, n) :: l, by rw [hw, e]; rfl, fun w => hm.wf (k.wf w), fun x hx => ?_⟩
  rw [hm.bytes x fun q hq => hx q (by simp at hq; simp [hq])]
  exact k.bytes x fun q hq => hx q (List.mem_cons_of_mem _ hq)

theorem addCounts_grows (a1 : Counts) {r : Run} (h : runGrows r₀ r) : runGrows r₀ (addCounts r a1) := grows_mk h

theorem opReadT_grows (a0 : Env) (a1 a2 : Nat) (a3 : Option (Nat × Nat)) (a5 a6 : Nat) {r : Run} (h : runGrows r₀ r) : runGrows r₀ (opReadT a0 a1 a2 a3 r a5 a6).1 := by
  unfold opReadT
  split
  · exact h
  · dsimp only
    split
    · exact runFault_grows _ _ _ h
    · split
      · exact runFault_grows _ _ _ (grows_same h rfl (by simp))
      · exact grows_same h rfl (by simp)

theorem opRead_grows (a0 : Env) (a1 a2 a4 a5 : Nat) {r : Run} (h : runGrows r₀ r) : runGrows r₀ (opRead a0 a1 a2 r a4 a5).1 := opReadT_grows _ _ _ _ _ _ h

theorem loadTile_grows (a0 : Env) (a1 a2 a4 : Nat) (a5 : Fmt) (a6 : Bool) (a7 : Nat) {r : Run} (h : runGrows r₀ r) : runGrows r₀ (loadTile a0 a1 a2 r a4 a5 a6
    a7) := by
  fun_cases loadTile a0 a1 a2 r a4 a5 a6 a7
  all_goals (intros; (try dsimp only); repeat' first
      | with_reducible assumption | with_reducible apply grows_refl | with_reducible apply opRead_grows | with_reducible apply grows_ite
      | with_reducible apply grows_ite_fst | with_reducible apply grows_ite_mat | with_reducible apply grows_ite_pair | with_reducible apply grows_foldl_fst
      | with_reducible apply grows_foldl_mat | with_reducible apply grows_foldl_pair | with_reducible apply grows_foldl | intro _ | (split)
      | with_reducible apply grows_mk)

theorem noteMismatch_grows (a1 : Nat) (a2 : Option Mismatch) {r : Run} (h : runGrows r₀ r) : runGrows r₀ (noteMismatch r a1 a2) := by
  fun_cases noteMismatch r a1 a2
  all_goals (intros; (try dsimp only); repeat' first
      | with_reducible assumption | with_reducible apply grows_refl | with_reducible apply runFault_grows | with_reducible apply grows_ite
      | with_reducible apply grows_ite_fst | with_reducible apply grows_ite_mat | with_reducible apply grows_ite_pair | with_reducible apply grows_foldl_fst
      | with_reducible apply grows_foldl_mat | with_reducible apply grows_foldl_pair | with_reducible apply grows_foldl | intro _ | (split)
      | with_reducible apply grows_mk)

theorem pairFill_grows (a0 : Env) (a1 : Tab (BitVec 32)) (a2 : PairF) (a3 a4 a5 a6 : Nat) (a7 : PressOut) {r : PairLoop} (h : runGrows r₀ r.run) : runGrows r₀
    (pairFill a0 a1 a2 a3 a4 a5 a6 a7 r).run := by
  fun_cases pairFill a0 a1 a2 a3 a4 a5 a6 a7 r
  all_goals (intros; (try dsimp only); repeat' first
      | with_reducible assumption | with_reducible apply grows_refl | with_reducible apply noteMismatch_grows | with_reducible apply loadTile_grows
      | with_reducible apply addCounts_grows | with_reducible apply grows_ite | with_reducible apply grows_ite_fst | with_reducible apply grows_ite_mat
      | with_reducible apply grows_ite_pair | with_reducible apply grows_foldl_fst | with_reducible apply grows_foldl_mat
      | with_reducible apply grows_foldl_pair | with_reducible apply grows_foldl | intro _ | (split) | with_reducible apply grows_mk)

theorem opWriteT_grows (a0 : Env) (a1 a2 : Nat) (a3 : Option (Nat × Nat)) (a5 : Nat) (a6 : List Byte) {r : Run} (h : runGrows r₀ r) :
    runGrows r₀ (opWriteT a0 a1 a2 a3 r a5 a6) := by
  unfold opWriteT
  split
  · exact h
  · dsimp only
    split
    · exact h
    · split
      · exact runFault_grows _ _ _ h
      · exact grows_write h _ _ rfl (writeTraffic_keeps _ _ _ _ _ _ _)

theorem opWrite_grows (a0 : Env) (a1 a2 a4 : Nat) (a5 : List Byte) {r : Run} (h : runGrows r₀ r) : runGrows r₀ (opWrite a0 a1 a2 r a4 a5) := by
  fun_cases opWrite a0 a1 a2 r a4 a5
  all_goals (intros; (try dsimp only); repeat' first
      | with_reducible assumption | with_reducible apply grows_refl | with_reducible apply opWriteT_grows | with_reducible apply grows_ite
      | with_reducible apply grows_ite_fst | with_reducible apply grows_ite_mat | with_reducible apply grows_ite_pair | with_reducible apply grows_foldl_fst
      | with_reducible apply grows_foldl_mat | with_reducible apply grows_foldl_pair | with_reducible apply grows_foldl | intro _ | (split)
      | with_reducible apply grows_mk)

theorem writePlain_grows (a0 : Env) (a1 : SizerCfg) (a3 : OutRow) (a4 : List Val) {r : Run} (h : runGrows r₀ r) : runGrows r₀ (writePlain a0 a1 r a3 a4) := by
  fun_cases writePlain a0 a1 r a3 a4
  all_goals (intros; (try dsimp only); repeat' first
      | with_reducible assumption | with_reducible apply grows_refl | with_reducible apply opWrite_grows | with_reducible apply grows_ite
      | with_reducible apply grows_ite_fst | with_reducible apply grows_ite_mat | with_reducible apply grows_ite_pair | with_reducible apply grows_foldl_fst
      | with_reducible apply grows_foldl_mat | with_reducible apply grows_foldl_pair | with_reducible apply grows_foldl | intro _ | (split)
      | with_reducible apply grows_mk)

theorem modStat_grows (a1 : Nat) (a2 : PStat → PStat) {r : Run} (h : runGrows r₀ r) : runGrows r₀ (modStat r a1 a2) := grows_mk h

theorem writeNarrow_grows (a0 : Env) (a1 : SizerCfg) (a2 : PointL) (a4 : OutRow) (a5 : List (Nat × Bool)) {r : Run} (h : runGrows r₀ r) : runGrows r₀
    (writeNarrow a0 a1 a2 r a4 a5) := by
  fun_cases writeNarrow a0 a1 a2 r a4 a5
  all_goals (intros; (try dsimp only); repeat' first
      | with_reducible assumption | with_reducible apply grows_refl | with_reducible apply modStat_grows | with_reducible apply opWrite_grows
      | with_reducible apply grows_ite | with_reducible apply grows_ite_fst | with_reducible apply grows_ite_mat | with_reducible apply grows_ite_pair
      | with_reducible apply grows_foldl_fst | with_reducible apply grows_foldl_mat | with_reducible apply grows_foldl_pair | with_reducible apply grows_foldl
      | intro _ | (split) | with_reducible apply grows_mk)

theorem writeNormal_grows (a0 : Env) (a1 : SizerCfg) (a2 : PointL) (a4 : OutRow) {r : Run} (h : runGrows r₀ r) : runGrows r₀ (writeNormal a0 a1 a2 r a4) := by
  fun_cases writeNormal a0 a1 a2 r a4
  all_goals (intros; (try dsimp only); repeat' first
      | with_reducible assumption | with_reducible apply grows_refl | with_reducible apply writeNarrow_grows | with_reducible apply modStat_grows
      | with_reducible apply opWrite_grows | with_reducible apply grows_ite | with_reducible apply grows_ite_fst | with_reducible apply grows_ite_mat
      | with_reducible apply grows_ite_pair | with_reducible apply grows_foldl_fst | with_reducible apply grows_foldl_mat
      | with_reducible apply grows_foldl_pair | with_reducible apply grows_foldl | intro _ | (split) | with_reducible apply grows_mk)

theorem sizerDrain_grows (a0 : Env) (a1 : SizerCfg) (a3 : List OutRow) {r : Run} (h : runGrows r₀ r) : runGrows r₀ (sizerDrain a0 a1 r a3).1 := by
  fun_cases sizerDrain a0 a1 r a3
  all_goals (intros; (try dsimp only); repeat' first
      | with_reducible assumption | with_reducible apply grows_refl | with_reducible apply writeNormal_grows | with_reducible apply modStat_grows
      | with_reducible apply writePlain_grows | with_reducible apply runFault_grows | with_reducible apply addCounts_grows | with_reducible apply grows_ite
      | with_reducible apply grows_ite_fst | with_reducible apply grows_ite_mat | with_reducible apply grows_ite_pair | with_reducible apply grows_foldl_fst
      | with_reducible apply grows_foldl_mat | with_reducible apply grows_foldl_pair | with_reducible apply grows_foldl | intro _ | (split)
      | with_reducible apply grows_mk)

theorem sizerBlocks_grows (a0 : Env) (a1 : SizerCfg) (a3 : List OutRow) {r : Run} (h : runGrows r₀ r) : runGrows r₀ (sizerBlocks a0 a1 r a3) := by
  fun_cases sizerBlocks a0 a1 r a3
  all_goals (intros; (try dsimp only); repeat' first
      | with_reducible assumption | with_reducible apply grows_refl | with_reducible apply writeNarrow_grows | with_reducible apply modStat_grows
      | with_reducible apply addCounts_grows | with_reducible apply grows_ite | with_reducible apply grows_ite_fst | with_reducible apply grows_ite_mat
      | with_reducible apply grows_ite_pair | with_reducible apply grows_foldl_fst | with_reducible apply grows_foldl_mat
      | with_reducible apply grows_foldl_pair | with_reducible apply grows_foldl | intro _ | (split) | with_reducible apply grows_mk)

theorem sizerRows_grows (a0 : Env) (a1 : SizerCfg) (a3 : List OutRow) {r : Run} (h : runGrows r₀ r) : runGrows r₀ (sizerRows a0 a1 r a3) := by
  fun_cases sizerRows a0 a1 r a3
  all_goals (intros; (try dsimp only); repeat' first
      | with_reducible assumption | with_reducible apply grows_refl | with_reducible apply sizerBlocks_grows | with_reducible apply sizerDrain_grows
      | with_reducible apply grows_ite | with_reducible apply grows_ite_fst | with_reducible apply grows_ite_mat | with_reducible apply grows_ite_pair
      | with_reducible apply grows_foldl_fst | with_reducible apply grows_foldl_mat | with_reducible apply grows_foldl_pair | with_reducible apply grows_foldl
      | intro _ | (split) | with_reducible apply grows_mk)

theorem blockStep_grows (a0 : Env) (a1 : MatF) (a2 : PairF) (a3 : Tab (List Byte)) (a4 : List Val) (a5 : InFlight) {r : Run} (h : runGrows r₀ r) : runGrows r₀
    (blockStep a0 a1 a2 a3 a4 a5 r).1 := by
  fun_cases blockStep a0 a1 a2 a3 a4 a5 r
  all_goals (intros; (try dsimp only); repeat' first
      | with_reducible assumption | with_reducible apply grows_refl | with_reducible apply sizerRows_grows | with_reducible apply pairFill_grows
      | with_reducible apply runFault_grows | with_reducible apply addCounts_grows | with_reducible apply grows_ite | with_reducible apply grows_ite_fst
      | with_reducible apply grows_ite_mat | with_reducible apply grows_ite_pair | with_reducible apply grows_foldl_fst | with_reducible apply grows_foldl_mat
      | with_reducible apply grows_foldl_pair | with_reducible apply grows_foldl | intro _ | (split) | with_reducible apply grows_mk)

theorem shelfLine_grows (a0 : Env) (a1 a2 a4 a5 : Nat) {r : Run} (h : runGrows r₀ r) : runGrows r₀ (shelfLine a0 a1 a2 r a4 a5).1 := by
  have hq (st : Store) (ls : List Nat) (e : st = r.st) : runGrows r₀ { r with st := (readLines st false ls).1 } := by
    subst e; exact grows_st h (readLines_mem _ _ _)
  unfold shelfLine
  split
  · exact h
  · dsimp only
    with_reducible refine grows_ite_fst (runFault_grows _ _ _ h) (grows_ite_fst (runFault_grows _ _ _ h) (grows_ite_fst (runFault_grows _ _ _ h)
      (grows_ite_fst (runFault_grows _ _ _ ?_) ?_)))
    · with_reducible exact hq _ _ rfl
    · with_reducible exact hq _ _ rfl

theorem readGroups_grows (a0 : Env) (a1 a2 a4 a5 a6 : Nat) (a7 : Fmt) (a8 : Nat) {r : Run} (h : runGrows r₀ r) : runGrows r₀ (readGroups a0 a1 a2 r a4 a5 a6
    a7 a8).1 := by
  fun_cases readGroups a0 a1 a2 r a4 a5 a6 a7 a8
  all_goals (intros; (try dsimp only); repeat' first
      | with_reducible assumption | with_reducible apply grows_refl | with_reducible apply shelfLine_grows | with_reducible apply grows_ite
      | with_reducible apply grows_ite_fst | with_reducible apply grows_ite_mat | with_reducible apply grows_ite_pair | with_reducible apply grows_foldl_fst
      | with_reducible apply grows_foldl_mat | with_reducible apply grows_foldl_pair | with_reducible apply grows_foldl | intro _ | (split)
      | with_reducible apply grows_mk)

theorem moreGroups_grows (a0 : Env) (a1 a2 a4 : Nat) (a5 : Bool) (a6 a7 a8 : Nat) (a9 : Fmt) (a10 : List (List (List Byte))) {r : Run} (h : runGrows r₀ r) :
    runGrows r₀ (moreGroups a0 a1 a2 r a4 a5 a6 a7 a8 a9 a10).1 := by
  fun_cases moreGroups a0 a1 a2 r a4 a5 a6 a7 a8 a9 a10
  all_goals (intros; (try dsimp only); repeat' first
      | with_reducible assumption | with_reducible apply grows_refl | with_reducible apply readGroups_grows | with_reducible apply grows_ite
      | with_reducible apply grows_ite_fst | with_reducible apply grows_ite_mat | with_reducible apply grows_ite_pair | with_reducible apply grows_foldl_fst
      | with_reducible apply grows_foldl_mat | with_reducible apply grows_foldl_pair | with_reducible apply grows_foldl | intro _ | (split)
      | with_reducible apply grows_mk)

theorem chunkGroups_grows (a0 : Env) (a1 a2 : Nat) (a4 : MatF) (a5 : Bool) (a6 : Nat) (a7 : Fmt) (a8 : Nat) (a9 : List (List (List Byte))) {r : Run} (h :
    runGrows r₀ r) : runGrows r₀ (chunkGroups a0 a1 a2 r a4 a5 a6 a7 a8 a9).1 := by
  fun_cases chunkGroups a0 a1 a2 r a4 a5 a6 a7 a8 a9
  all_goals (intros; (try dsimp only); repeat' first
      | with_reducible assumption | with_reducible apply grows_refl | with_reducible apply moreGroups_grows | with_reducible apply grows_ite
      | with_reducible apply grows_ite_fst | with_reducible apply grows_ite_mat | with_reducible apply grows_ite_pair | with_reducible apply grows_foldl_fst
      | with_reducible apply grows_foldl_mat | with_reducible apply grows_foldl_pair | with_reducible apply grows_foldl | intro _ | (split)
      | with_reducible apply grows_mk)

theorem chuteRow_grows (a0 : Env) (a1 : ChuteF) (a2 a4 a5 : Nat) {r : Run} (h : runGrows r₀ r) : runGrows r₀ (chuteRow a0 a1 a2 r a4 a5).1 := by
  fun_cases chuteRow a0 a1 a2 r a4 a5
  all_goals (intros; (try dsimp only); repeat' first
      | with_reducible assumption | with_reducible apply grows_refl | with_reducible apply opRead_grows | with_reducible apply grows_ite
      | with_reducible apply grows_ite_fst | with_reducible apply grows_ite_mat | with_reducible apply grows_ite_pair | with_reducible apply grows_foldl_fst
      | with_reducible apply grows_foldl_mat | with_reducible apply grows_foldl_pair | with_reducible apply grows_foldl | intro _ | (split)
      | with_reducible apply grows_mk)

theorem readSeedRow_grows (a0 : Env) (a1 a2 : Nat) (a3 : Bool) (a5 a6 : Nat) {r : Run} (h : runGrows r₀ r) : runGrows r₀ (readSeedRow a0 a1 a2 a3 r a5 a6).1 := by
  fun_cases readSeedRow a0 a1 a2 a3 r a5 a6
  all_goals (intros; (try dsimp only); repeat' first
      | with_reducible assumption | with_reducible apply grows_refl | with_reducible apply opRead_grows | with_reducible apply grows_ite
      | with_reducible apply grows_ite_fst | with_reducible apply grows_ite_mat | with_reducible apply grows_ite_pair | with_reducible apply grows_foldl_fst
      | with_reducible apply grows_foldl_mat | with_reducible apply grows_foldl_pair | with_reducible apply grows_foldl | intro _ | (split)
      | with_reducible apply grows_mk)

theorem chuteChunk_grows (a0 : Env) (a1 : Tab (BitVec 32)) (a2 : ChuteF) (a4 a5 : Nat) {r : Run} (h : runGrows r₀ r) : runGrows r₀ (chuteChunk a0 a1 a2 r a4
    a5).1 := by
  fun_cases chuteChunk a0 a1 a2 r a4 a5
  all_goals (intros; (try dsimp only); repeat' first
      | with_reducible assumption | with_reducible apply grows_refl | with_reducible apply readSeedRow_grows | with_reducible apply chuteRow_grows
      | with_reducible apply noteMismatch_grows | with_reducible apply addCounts_grows | with_reducible apply grows_ite | with_reducible apply grows_ite_fst
      | with_reducible apply grows_ite_mat | with_reducible apply grows_ite_pair | with_reducible apply grows_foldl_fst | with_reducible apply grows_foldl_mat
      | with_reducible apply grows_foldl_pair | with_reducible apply grows_foldl | intro _ | (split) | with_reducible apply grows_mk)

theorem drainRows_grows (a0 : Env) (a1 : SizerCfg) (a2 : Bool) (a3 a4 : List OutRow) {r : Run} (h : runGrows r₀ r) : runGrows r₀ (drainRows a0 a1 a2 a3 a4
    r).1 := by
  fun_cases drainRows a0 a1 a2 a3 a4 r
  all_goals (intros; (try dsimp only); repeat' first
      | with_reducible assumption | with_reducible apply grows_refl | with_reducible apply sizerBlocks_grows | with_reducible apply sizerDrain_grows
      | with_reducible apply grows_ite | with_reducible apply grows_ite_fst | with_reducible apply grows_ite_mat | with_reducible apply grows_ite_pair
      | with_reducible apply grows_foldl_fst | with_reducible apply grows_foldl_mat | with_reducible apply grows_foldl_pair | with_reducible apply grows_foldl
      | intro _ | (split) | with_reducible apply grows_mk)

theorem chuteStep_grows (a0 : Env) (a1 : ChuteF) (a2 : InFlight) {r : Run} (h : runGrows r₀ r) : runGrows r₀ (chuteStep a0 a1 a2 r).1 := by
  fun_cases chuteStep a0 a1 a2 r
  all_goals (intros; (try dsimp only); repeat' first
      | with_reducible assumption | with_reducible apply grows_refl | with_reducible apply drainRows_grows | with_reducible apply chuteChunk_grows
      | with_reducible apply grows_ite | with_reducible apply grows_ite_fst | with_reducible apply grows_ite_mat | with_reducible apply grows_ite_pair
      | with_reducible apply grows_foldl_fst | with_reducible apply grows_foldl_mat | with_reducible apply grows_foldl_pair | with_reducible apply grows_foldl
      | intro _ | (split) | with_reducible apply grows_mk)

theorem directRow_grows (a0 : Env) (a1 : Tab (BitVec 32)) (a2 : DirectF) (a4 a5 : Nat) {r : Run} (h : runGrows r₀ r) : runGrows r₀ (directRow a0 a1 a2 r a4
    a5).1 := by
  fun_cases directRow a0 a1 a2 r a4 a5
  all_goals (intros; (try dsimp only); repeat' first
      | with_reducible assumption | with_reducible apply grows_refl | with_reducible apply opRead_grows | with_reducible apply grows_ite
      | with_reducible apply grows_ite_fst | with_reducible apply grows_ite_mat | with_reducible apply grows_ite_pair | with_reducible apply grows_foldl_fst
      | with_reducible apply grows_foldl_mat | with_reducible apply grows_foldl_pair | with_reducible apply grows_foldl | intro _ | (split)
      | with_reducible apply grows_mk)

theorem dequantRow_grows (a0 : Env) (a1 : Tab (BitVec 32)) (a2 : DirectF) (a4 : Nat) {r : Run} (h : runGrows r₀ r) : runGrows r₀ (dequantRow a0 a1 a2 r a4) := by
  fun_cases dequantRow a0 a1 a2 r a4
  all_goals (intros; (try dsimp only); repeat' first
      | with_reducible assumption | with_reducible apply grows_refl | with_reducible apply directRow_grows | with_reducible apply opWrite_grows
      | with_reducible apply runFault_grows | with_reducible apply grows_ite | with_reducible apply grows_ite_fst | with_reducible apply grows_ite_mat
      | with_reducible apply grows_ite_pair | with_reducible apply grows_foldl_fst | with_reducible apply grows_foldl_mat
      | with_reducible apply grows_foldl_pair | with_reducible apply grows_foldl | intro _ | (split) | with_reducible apply grows_mk)

theorem ewaIter_grows (a0 : Env) (a1 : Tab (BitVec 32)) (a2 : EwaF) (a4 : Nat) {r : Run} (h : runGrows r₀ r) : runGrows r₀ (ewaIter a0 a1 a2 r a4) := by
  fun_cases ewaIter a0 a1 a2 r a4
  all_goals (intros; (try dsimp only); repeat' first
      | with_reducible assumption | with_reducible apply grows_refl | with_reducible apply shelfLine_grows | with_reducible apply opWrite_grows
      | with_reducible apply noteMismatch_grows | with_reducible apply addCounts_grows | with_reducible apply grows_ite | with_reducible apply grows_ite_fst
      | with_reducible apply grows_ite_mat | with_reducible apply grows_ite_pair | with_reducible apply grows_foldl_fst | with_reducible apply grows_foldl_mat
      | with_reducible apply grows_foldl_pair | with_reducible apply grows_foldl | intro _ | (split) | with_reducible apply grows_mk)

theorem haloRead_grows (a0 : Env) (a1 : Nat) (a2 : HaloF) {r : Run} (h : runGrows r₀ r) : runGrows r₀ (haloRead a0 a1 a2 r).1 := by
  fun_cases haloRead a0 a1 a2 r
  all_goals (intros; (try dsimp only); repeat' first
      | with_reducible assumption | with_reducible apply grows_refl | with_reducible apply opRead_grows | with_reducible apply grows_ite
      | with_reducible apply grows_ite_fst | with_reducible apply grows_ite_mat | with_reducible apply grows_ite_pair | with_reducible apply grows_foldl_fst
      | with_reducible apply grows_foldl_mat | with_reducible apply grows_foldl_pair | with_reducible apply grows_foldl | intro _ | (split)
      | with_reducible apply grows_mk)

theorem haloWrite_grows (a0 : Env) (a1 : Nat) (a2 : Int) (a3 a4 : Nat) (a5 : List Byte) {r : Run} (h : runGrows r₀ r) : runGrows r₀ (haloWrite a0 a1 a2 a3 a4
    a5 r) := by
  fun_cases haloWrite a0 a1 a2 a3 a4 a5 r
  all_goals (intros; (try dsimp only); repeat' first
      | with_reducible assumption | with_reducible apply grows_refl | with_reducible apply opWrite_grows | with_reducible apply grows_ite
      | with_reducible apply grows_ite_fst | with_reducible apply grows_ite_mat | with_reducible apply grows_ite_pair | with_reducible apply grows_foldl_fst
      | with_reducible apply grows_foldl_mat | with_reducible apply grows_foldl_pair | with_reducible apply grows_foldl | intro _ | (split)
      | with_reducible apply grows_mk)

theorem leftStream_grows (a0 : Env) (a1 a2 a4 a5 a6 : Nat) (a7 : Fmt) (a8 : Bool) (a9 : Int) {r : Run} (h : runGrows r₀ r) : runGrows r₀ (leftStream a0 a1 a2
    r a4 a5 a6 a7 a8 a9).1 := by
  fun_cases leftStream a0 a1 a2 r a4 a5 a6 a7 a8 a9
  all_goals (intros; (try dsimp only); repeat' first
      | with_reducible assumption | with_reducible apply grows_refl | with_reducible apply readGroups_grows | with_reducible apply grows_ite
      | with_reducible apply grows_ite_fst | with_reducible apply grows_ite_mat | with_reducible apply grows_ite_pair | with_reducible apply grows_foldl_fst
      | with_reducible apply grows_foldl_mat | with_reducible apply grows_foldl_pair | with_reducible apply grows_foldl | intro _ | (split)
      | with_reducible apply grows_mk)

theorem readSeedRows_grows (a0 : Env) (a1 a2 : Nat) (a3 : Bool) (a5 : Nat → Nat) (a6 a7 : Nat) {r : Run} (h : runGrows r₀ r) : runGrows r₀ (readSeedRows a0 a1
    a2 a3 r a5 a6 a7).1 := by
  unfold readSeedRows
  refine grows_foldl_fst _ (fun p k hp => ?_) _ h
  exact readSeedRow_grows a0 a1 a2 a3 (a5 k) a7 hp

theorem matIter_grows (a0 : Env) (a1 : Tab (BitVec 32)) (a2 : MatF) (a3 : Bool) (a4 : List WidePart) (a6 a7 : Nat) {r : MatLoop} (h : runGrows r₀ r.run) :
    runGrows r₀ (matIter a0 a1 a2 a3 a4 r a6 a7).run := by
  fun_cases matIter a0 a1 a2 a3 a4 r a6 a7
  all_goals (intros; (try dsimp only); repeat' first
      | with_reducible assumption | with_reducible apply grows_refl | with_reducible apply readSeedRows_grows | with_reducible apply chunkGroups_grows
      | with_reducible apply noteMismatch_grows | with_reducible apply loadTile_grows | with_reducible apply addCounts_grows | with_reducible apply grows_ite
      | with_reducible apply grows_ite_fst | with_reducible apply grows_ite_mat | with_reducible apply grows_ite_pair | with_reducible apply grows_foldl_fst
      | with_reducible apply grows_foldl_mat | with_reducible apply grows_foldl_pair | with_reducible apply grows_foldl | intro _ | (split)
      | with_reducible apply grows_mk)

theorem outIter_grows (a0 : Env) (a1 : Tab (BitVec 32)) (a2 : MatF) (a3 : List WidePart) (a5 a6 : Nat) {r : MatLoop} (h : runGrows r₀ r.run) : runGrows r₀
    (outIter a0 a1 a2 a3 r a5 a6).run := by
  fun_cases outIter a0 a1 a2 a3 r a5 a6
  all_goals (intros; (try dsimp only); repeat' first
      | with_reducible assumption | with_reducible apply grows_refl | with_reducible apply readSeedRows_grows | with_reducible apply chunkGroups_grows
      | with_reducible apply noteMismatch_grows | with_reducible apply addCounts_grows | with_reducible apply grows_ite | with_reducible apply grows_ite_fst
      | with_reducible apply grows_ite_mat | with_reducible apply grows_ite_pair | with_reducible apply grows_foldl_fst | with_reducible apply grows_foldl_mat
      | with_reducible apply grows_foldl_pair | with_reducible apply grows_foldl | intro _ | (split) | with_reducible apply grows_mk)

theorem matStep_grows (a0 : Env) (a1 : MatF) (a2 : Bool) (a3 : InFlight) {r : Run} (h : runGrows r₀ r) : runGrows r₀ (matStep a0 a1 a2 a3 r).1 := by
  fun_cases matStep a0 a1 a2 a3 r
  all_goals (intros; (try dsimp only); repeat' first
      | with_reducible assumption | with_reducible apply grows_refl | with_reducible apply outIter_grows | with_reducible apply matIter_grows
      | with_reducible apply drainRows_grows | with_reducible apply grows_ite | with_reducible apply grows_ite_fst | with_reducible apply grows_ite_mat
      | with_reducible apply grows_ite_pair | with_reducible apply grows_foldl_fst | with_reducible apply grows_foldl_mat
      | with_reducible apply grows_foldl_pair | with_reducible apply grows_foldl | intro _ | (split) | with_reducible apply grows_mk)

theorem writePieces_grows (a0 : Env) (a1 : Option (Nat × Nat)) (a2 : List (Nat × Nat)) (a3 : List Byte) {r : Run} (h : runGrows r₀ r) : runGrows r₀
    (writePieces a0 a1 a2 a3 r) := by
  fun_induction writePieces a0 a1 a2 a3 r
  all_goals intros
  all_goals repeat' first
      | with_reducible assumption | with_reducible apply grows_refl | with_reducible apply_assumption | with_reducible apply opWriteT_grows
      | with_reducible apply grows_ite | with_reducible apply grows_ite_fst | with_reducible apply grows_ite_mat | with_reducible apply grows_ite_pair
      | with_reducible apply grows_foldl_fst | with_reducible apply grows_foldl_mat | with_reducible apply grows_foldl_pair | with_reducible apply grows_foldl
      | intro _ | (split) | with_reducible apply grows_mk

theorem moveAppend_grows (a0 : Env) (a1 a2 : Nat) (a4 : List Byte) {r : Run} (h : runGrows r₀ r) : runGrows r₀ (moveAppend a0 a1 a2 r a4) := by
  unfold moveAppend
  split
  · exact h
  · extract_lets x key r'
    have hq : runGrows r₀ r' := writePieces_grows _ _ _ _ h
    clear_value r'
    refine grows_ite (runFault_grows _ _ _ h) ?_
    split
    · exact hq
    · exact grows_ite hq (grows_st hq rfl)

theorem moveRead_grows (a0 : Env) (a1 : Tab (BitVec 32)) (a2 : MoveF) (a3 : Nat) {r : Run} (h : runGrows r₀ r) : runGrows r₀ (moveRead a0 a1 a2 a3 r).1 := by
  fun_cases moveRead a0 a1 a2 a3 r
  all_goals (intros; (try dsimp only); repeat' first
      | with_reducible assumption | with_reducible apply grows_refl | with_reducible apply opRead_grows | with_reducible apply grows_ite
      | with_reducible apply grows_ite_fst | with_reducible apply grows_ite_mat | with_reducible apply grows_ite_pair | with_reducible apply grows_foldl_fst
      | with_reducible apply grows_foldl_mat | with_reducible apply grows_foldl_pair | with_reducible apply grows_foldl | intro _ | (split)
      | with_reducible apply grows_mk)

theorem moveWrite_grows (a0 : Env) (a1 : Tab (BitVec 32)) (a2 : MoveF) (a3 : Nat) (a4 : List Byte) {r : Run} (h : runGrows r₀ r) : runGrows r₀ (moveWrite a0
    a1 a2 a3 a4 r) := by
  fun_cases moveWrite a0 a1 a2 a3 a4 r
  all_goals (intros; (try dsimp only); repeat' first
      | with_reducible assumption | with_reducible apply grows_refl | with_reducible apply opWrite_grows | with_reducible apply grows_ite
      | with_reducible apply grows_ite_fst | with_reducible apply grows_ite_mat | with_reducible apply grows_ite_pair | with_reducible apply grows_foldl_fst
      | with_reducible apply grows_foldl_mat | with_reducible apply grows_foldl_pair | with_reducible apply grows_foldl | intro _ | (split)
      | with_reducible apply grows_mk)

theorem shelfWrite_grows (a0 : Env) (a1 a2 a4 a5 : Nat) (a6 : List Byte) {r : Run} (h : runGrows r₀ r) : runGrows r₀ (shelfWrite a0 a1 a2 r a4 a5 a6) := by
  unfold shelfWrite
  split
  · exact h
  · extract_lets a reg
    exact grows_ite (runFault_grows _ _ _ h) (grows_ite (runFault_grows _ _ _ h) (grows_ite (runFault_grows _ _ _ h) (grows_write h _ _ rfl (writeWhole_keeps _ _ _))))

theorem moveSkew_grows (a0 : Env) (a1 : MoveF) (a3 : List (List Byte)) (a4 : Nat) {r : Run} (h : runGrows r₀ r) : runGrows r₀ (moveSkew a0 a1 r a3 a4) := by
  fun_cases moveSkew a0 a1 r a3 a4
  all_goals (intros; (try dsimp only); repeat' first
      | with_reducible assumption | with_reducible apply grows_refl | with_reducible apply shelfWrite_grows | with_reducible apply grows_ite
      | with_reducible apply grows_ite_fst | with_reducible apply grows_ite_mat | with_reducible apply grows_ite_pair | with_reducible apply grows_foldl_fst
      | with_reducible apply grows_foldl_mat | with_reducible apply grows_foldl_pair | with_reducible apply grows_foldl | intro _ | (split)
      | with_reducible apply grows_mk)

theorem moveTranspose_grows (a0 : Env) (a1 : Tab (BitVec 32)) (a2 : MoveF) (a4 : List (List Byte)) (a5 : Nat) {r : Run} (h : runGrows r₀ r) : runGrows r₀
    (moveTranspose a0 a1 a2 r a4 a5) := by
  fun_cases moveTranspose a0 a1 a2 r a4 a5
  all_goals (intros; (try dsimp only); repeat' first
      | with_reducible assumption | with_reducible apply grows_refl | with_reducible apply opWrite_grows | with_reducible apply grows_ite
      | with_reducible apply grows_ite_fst | with_reducible apply grows_ite_mat | with_reducible apply grows_ite_pair | with_reducible apply grows_foldl_fst
      | with_reducible apply grows_foldl_mat | with_reducible apply grows_foldl_pair | with_reducible apply grows_foldl | intro _ | (split)
      | with_reducible apply grows_mk)

theorem ringPart_grows (a0 : Env) (a1 a2 a4 a5 a6 : Nat) {r : Run} (h : runGrows r₀ r) : runGrows r₀ (ringPart a0 a1 a2 r a4 a5 a6).1 := by
  unfold ringPart
  split
  · exact h
  · extract_lets x d q
    have hq : runGrows r₀ q.1 := grows_foldl_fst _ (fun p k hp => opReadT_grows a0 256 0 d k.1 k.2 hp) _ h
    clear_value q
    refine grows_ite_fst (runFault_grows _ _ _ h) ?_
    split
    · exact hq
    · exact grows_st hq (by simp)

theorem moveRow_grows (a0 : Env) (a1 : Tab (BitVec 32)) (a2 : MoveF) (a3 : Nat) (a4 : List (List Byte)) {r : Run} (h : runGrows r₀ r) : runGrows r₀ (moveRow
    a0 a1 a2 a3 a4 r).1 := by
  fun_cases moveRow a0 a1 a2 a3 a4 r
  all_goals (intros; (try dsimp only); repeat' first
      | with_reducible assumption | with_reducible apply grows_refl | with_reducible apply ringPart_grows | with_reducible apply moveTranspose_grows
      | with_reducible apply moveSkew_grows | with_reducible apply moveWrite_grows | with_reducible apply moveRead_grows
      | with_reducible apply moveAppend_grows | with_reducible apply grows_ite | with_reducible apply grows_ite_fst | with_reducible apply grows_ite_mat
      | with_reducible apply grows_ite_pair | with_reducible apply grows_foldl_fst | with_reducible apply grows_foldl_mat
      | with_reducible apply grows_foldl_pair | with_reducible apply grows_foldl | intro _ | (split) | with_reducible apply grows_mk)

theorem moveStep_grows (a0 : Env) (a1 : MoveF) (a2 : InFlight) {r : Run} (h : runGrows r₀ r) : runGrows r₀ (moveStep a0 a1 a2 r).1 := by
  fun_cases moveStep a0 a1 a2 r
  all_goals (intros; (try dsimp only); repeat' first
      | with_reducible assumption | with_reducible apply grows_refl | with_reducible apply moveRow_grows | with_reducible apply grows_ite
      | with_reducible apply grows_ite_fst | with_reducible apply grows_ite_mat | with_reducible apply grows_ite_pair | with_reducible apply grows_foldl_fst
      | with_reducible apply grows_foldl_mat | with_reducible apply grows_foldl_pair | with_reducible apply grows_foldl | intro _ | (split)
      | with_reducible apply grows_mk)

theorem topStream_grows (a0 : Env) (a1 a2 a4 a5 a6 : Nat) (a7 : Fmt) (a8 : Bool) (a9 : Int) {r : Run} (h : runGrows r₀ r) : runGrows r₀ (topStream a0 a1 a2 r
    a4 a5 a6 a7 a8 a9).1 := by
  fun_cases topStream a0 a1 a2 r a4 a5 a6 a7 a8 a9
  all_goals (intros; (try dsimp only); repeat' first
      | with_reducible assumption | with_reducible apply grows_refl | with_reducible apply readGroups_grows | with_reducible apply grows_ite
      | with_reducible apply grows_ite_fst | with_reducible apply grows_ite_mat | with_reducible apply grows_ite_pair | with_reducible apply grows_foldl_fst
      | with_reducible apply grows_foldl_mat | with_reducible apply grows_foldl_pair | with_reducible apply grows_foldl | intro _ | (split)
      | with_reducible apply grows_mk)

theorem stageFill_grows (a0 : Env) (a1 : MatF) (a2 : PairF) (a3 a4 : Nat) (a5 : Stream) (a6 : Nat) (a7 : List (List Val)) {r : Run} (h : runGrows r₀ r) :
    runGrows r₀ (stageFill a0 a1 a2 a3 a4 a5 a6 a7 r).1 := by
  fun_cases stageFill a0 a1 a2 a3 a4 a5 a6 a7 r
  all_goals (intros; (try dsimp only); repeat' first
      | with_reducible assumption | with_reducible apply grows_refl | with_reducible apply noteMismatch_grows | with_reducible apply loadTile_grows
      | with_reducible apply addCounts_grows | with_reducible apply grows_ite | with_reducible apply grows_ite_fst | with_reducible apply grows_ite_mat
      | with_reducible apply grows_ite_pair | with_reducible apply grows_foldl_fst | with_reducible apply grows_foldl_mat
      | with_reducible apply grows_foldl_pair | with_reducible apply grows_foldl | intro _ | (split) | with_reducible apply grows_mk)

theorem stageStep_grows (a0 : Env) (a1 : MatF) (a2 : PairF) (a3 : InFlight) {r : Run} (h : runGrows r₀ r) : runGrows r₀ (stageStep a0 a1 a2 a3 r).1 := by
  fun_cases stageStep a0 a1 a2 a3 r
  all_goals (intros; (try dsimp only); repeat' first
      | with_reducible assumption | with_reducible apply grows_refl | with_reducible apply stageFill_grows | with_reducible apply topStream_grows
      | with_reducible apply leftStream_grows | with_reducible apply grows_ite | with_reducible apply grows_ite_fst | with_reducible apply grows_ite_mat
      | with_reducible apply grows_ite_pair | with_reducible apply grows_foldl_fst | with_reducible apply grows_foldl_mat
      | with_reducible apply grows_foldl_pair | with_reducible apply grows_foldl | intro _ | (split) | with_reducible apply grows_mk)

theorem pairStep_grows (a0 : Env) (a1 : MatF) (a2 : PairF) (a3 : Tab (List Byte)) (a4 : List Val) (a5 : InFlight) {r : Run} (h : runGrows r₀ r) : runGrows r₀
    (pairStep a0 a1 a2 a3 a4 a5 r).1 := by
  fun_cases pairStep a0 a1 a2 a3 a4 a5 r
  all_goals (intros; (try dsimp only); repeat' first
      | with_reducible assumption | with_reducible apply grows_refl | with_reducible apply stageStep_grows | with_reducible apply blockStep_grows
      | with_reducible apply grows_ite | with_reducible apply grows_ite_fst | with_reducible apply grows_ite_mat | with_reducible apply grows_ite_pair
      | with_reducible apply grows_foldl_fst | with_reducible apply grows_foldl_mat | with_reducible apply grows_foldl_pair | with_reducible apply grows_foldl
      | intro _ | (split) | with_reducible apply grows_mk)

theorem rescRows_grows (a0 : Env) (a1 : Tab (BitVec 32)) (a2 : DirectF) {r : Run} (h : runGrows r₀ r) : runGrows r₀ (rescRows a0 a1 a2 r).1 := by
  fun_cases rescRows a0 a1 a2 r
  all_goals (intros; (try dsimp only); repeat' first
      | with_reducible assumption | with_reducible apply grows_refl | with_reducible apply directRow_grows | with_reducible apply grows_ite
      | with_reducible apply grows_ite_fst | with_reducible apply grows_ite_mat | with_reducible apply grows_ite_pair | with_reducible apply grows_foldl_fst
      | with_reducible apply grows_foldl_mat | with_reducible apply grows_foldl_pair | with_reducible apply grows_foldl | intro _ | (split)
      | with_reducible apply grows_mk)

theorem ringTake_grows (a0 : Env) (a1 a2 a4 : Nat) {r : Run} (h : runGrows r₀ r) : runGrows r₀ (ringTake a0 a1 a2 r a4).1 := ringPart_grows _ _ _ _ _ _ h

theorem rowfWrite_grows (a0 : Env) (a1 : Tab (BitVec 32)) (a2 : RowfF) (a3 : Nat) (a4 : List Val) {r : Run} (h : runGrows r₀ r) : runGrows r₀ (rowfWrite a0 a1
    a2 a3 a4 r) := by
  fun_cases rowfWrite a0 a1 a2 a3 a4 r
  all_goals (intros; (try dsimp only); repeat' first
      | with_reducible assumption | with_reducible apply grows_refl | with_reducible apply opWrite_grows | with_reducible apply grows_ite
      | with_reducible apply grows_ite_fst | with_reducible apply grows_ite_mat | with_reducible apply grows_ite_pair | with_reducible apply grows_foldl_fst
      | with_reducible apply grows_foldl_mat | with_reducible apply grows_foldl_pair | with_reducible apply grows_foldl | intro _ | (split)
      | with_reducible apply grows_mk)

theorem rowfAnswer_grows (a0 : Env) (a1 : Tab (BitVec 32)) (a2 : RowfF) (a3 : List Val) {r : Run} (h : runGrows r₀ r) : runGrows r₀ (rowfAnswer a0 a1 a2 a3 r) := by
  fun_cases rowfAnswer a0 a1 a2 a3 r
  all_goals (intros; (try dsimp only); repeat' first
      | with_reducible assumption | with_reducible apply grows_refl | with_reducible apply rowfWrite_grows | with_reducible apply grows_ite
      | with_reducible apply grows_ite_fst | with_reducible apply grows_ite_mat | with_reducible apply grows_ite_pair | with_reducible apply grows_foldl_fst
      | with_reducible apply grows_foldl_mat | with_reducible apply grows_foldl_pair | with_reducible apply grows_foldl | intro _ | (split)
      | with_reducible apply grows_mk)

theorem rowfRead_grows (a0 : Env) (a1 : Tab (BitVec 32)) (a2 : RowfF) (a3 : Nat) {r : Run} (h : runGrows r₀ r) : runGrows r₀ (rowfRead a0 a1 a2 a3 r).1 := by
  fun_cases rowfRead a0 a1 a2 a3 r
  all_goals (intros; (try dsimp only); repeat' first
      | with_reducible assumption | with_reducible apply grows_refl | with_reducible apply opRead_grows | with_reducible apply grows_ite
      | with_reducible apply grows_ite_fst | with_reducible apply grows_ite_mat | with_reducible apply grows_ite_pair | with_reducible apply grows_foldl_fst
      | with_reducible apply grows_foldl_mat | with_reducible apply grows_foldl_pair | with_reducible apply grows_foldl | intro _ | (split)
      | with_reducible apply grows_mk)

theorem rowfElems_grows (a0 : Env) (a1 : Tab (BitVec 32)) (a2 : RowfF) {r : Run} (h : runGrows r₀ r) : runGrows r₀ (rowfElems a0 a1 a2 r).1 := by
  fun_cases rowfElems a0 a1 a2 r
  all_goals (intros; (try dsimp only); repeat' first
      | with_reducible assumption | with_reducible apply grows_refl | with_reducible apply rowfRead_grows | with_reducible apply grows_ite
      | with_reducible apply grows_ite_fst | with_reducible apply grows_ite_mat | with_reducible apply grows_ite_pair | with_reducible apply grows_foldl_fst
      | with_reducible apply grows_foldl_mat | with_reducible apply grows_foldl_pair | with_reducible apply grows_foldl | intro _ | (split)
      | with_reducible apply grows_mk)

theorem runLds_grows (a0 : Env) (a1 : Tab (BitVec 32)) (a2 : LdsF) {r : Run} (h : runGrows r₀ r) : runGrows r₀ (runLds a0 a1 a2 r) := by
  fun_cases runLds a0 a1 a2 r
  all_goals (intros; (try dsimp only); repeat' first
      | with_reducible assumption | with_reducible apply grows_refl | with_reducible apply opRead_grows | with_reducible apply grows_ite
      | with_reducible apply grows_ite_fst | with_reducible apply grows_ite_mat | with_reducible apply grows_ite_pair | with_reducible apply grows_foldl_fst
      | with_reducible apply grows_foldl_mat | with_reducible apply grows_foldl_pair | with_reducible apply grows_foldl | intro _ | (split)
      | with_reducible apply grows_mk)

theorem runResc_grows (a0 : Env) (a1 : Tab (BitVec 32)) (a2 : DirectF) {r : Run} (h : runGrows r₀ r) : runGrows r₀ (runResc a0 a1 a2 r) := by
  fun_cases runResc a0 a1 a2 r
  all_goals (intros; (try dsimp only); repeat' first
      | with_reducible assumption | with_reducible apply grows_refl | with_reducible apply rescRows_grows | with_reducible apply dequantRow_grows
      | with_reducible apply sizerRows_grows | with_reducible apply grows_ite | with_reducible apply grows_ite_fst | with_reducible apply grows_ite_mat
      | with_reducible apply grows_ite_pair | with_reducible apply grows_foldl_fst | with_reducible apply grows_foldl_mat
      | with_reducible apply grows_foldl_pair | with_reducible apply grows_foldl | intro _ | (split) | with_reducible apply grows_mk)

theorem runRowf_grows (a0 : Env) (a1 : Tab (BitVec 32)) (a2 : Tab (List Byte)) (a3 : RowfF) {r : Run} (h : runGrows r₀ r) : runGrows r₀ (runRowf a0 a1 a2 a3
    r) := by
  fun_cases runRowf a0 a1 a2 a3 r
  all_goals (intros; (try dsimp only); repeat' first
      | with_reducible assumption | with_reducible apply grows_refl | with_reducible apply rowfRead_grows | with_reducible apply rowfWrite_grows
      | with_reducible apply addCounts_grows | with_reducible apply grows_ite | with_reducible apply grows_ite_fst | with_reducible apply grows_ite_mat
      | with_reducible apply grows_ite_pair | with_reducible apply grows_foldl_fst | with_reducible apply grows_foldl_mat
      | with_reducible apply grows_foldl_pair | with_reducible apply grows_foldl | intro _ | (split) | with_reducible apply grows_mk)

theorem statRow_grows (a0 : Env) (a1 : Tab (BitVec 32)) (a2 : DirectF) (a4 : Nat) {r : Run} (h : runGrows r₀ r) : runGrows r₀ (statRow a0 a1 a2 r a4) := by
  fun_cases statRow a0 a1 a2 r a4
  all_goals (intros; (try dsimp only); repeat' first
      | with_reducible assumption | with_reducible apply grows_refl | with_reducible apply directRow_grows | with_reducible apply modStat_grows
      | with_reducible apply opWrite_grows | with_reducible apply grows_ite | with_reducible apply grows_ite_fst | with_reducible apply grows_ite_mat
      | with_reducible apply grows_ite_pair | with_reducible apply grows_foldl_fst | with_reducible apply grows_foldl_mat
      | with_reducible apply grows_foldl_pair | with_reducible apply grows_foldl | intro _ | (split) | with_reducible apply grows_mk)

theorem runStat_grows (a0 : Env) (a1 : Tab (BitVec 32)) (a2 : DirectF) {r : Run} (h : runGrows r₀ r) : runGrows r₀ (runStat a0 a1 a2 r) := by
  fun_cases runStat a0 a1 a2 r
  all_goals (intros; (try dsimp only); repeat' first
      | with_reducible assumption | with_reducible apply grows_refl | with_reducible apply statRow_grows | with_reducible apply grows_ite
      | with_reducible apply grows_ite_fst | with_reducible apply grows_ite_mat | with_reducible apply grows_ite_pair | with_reducible apply grows_foldl_fst
      | with_reducible apply grows_foldl_mat | with_reducible apply grows_foldl_pair | with_reducible apply grows_foldl | intro _ | (split)
      | with_reducible apply grows_mk)

theorem wordToRelay_grows (a0 : Env) (a1 : Tab (BitVec 32)) (a2 : RelayF) (a3 : Nat) {r : Run} (h : runGrows r₀ r) : runGrows r₀ (wordToRelay a0 a1 a2 a3 r).1 := by
  fun_cases wordToRelay a0 a1 a2 a3 r
  all_goals (intros; (try dsimp only); repeat' first
      | with_reducible assumption | with_reducible apply grows_refl | with_reducible apply opRead_grows | with_reducible apply grows_ite
      | with_reducible apply grows_ite_fst | with_reducible apply grows_ite_mat | with_reducible apply grows_ite_pair | with_reducible apply grows_foldl_fst
      | with_reducible apply grows_foldl_mat | with_reducible apply grows_foldl_pair | with_reducible apply grows_foldl | intro _ | (split)
      | with_reducible apply grows_mk)

end Sys2Proof.Machine
end

