-- ==== Sys2Proof/Laws/State.lean ====
section
/-!
SUPPORT. Updates of State and of its parts: one lemma for each field that an update leaves, what is read back after it, and what a frame says of each
field. Every later proof cites these and unfolds no record update.
-/
namespace Sys2Proof.Machine

set_option linter.unusedTactic false
set_option linter.unreachableTactic false
set_option linter.unusedVariables false

/-! Updates of one part. -/

@[simp] theorem modStore_store (f : Store → Store) (s : State) : (modStore f s).store = f s.store := rfl
@[simp] theorem modStore_params (f : Store → Store) (s : State) : (modStore f s).params = s.params := rfl
@[simp] theorem modStore_pending (f : Store → Store) (s : State) : (modStore f s).pending = s.pending := rfl
@[simp] theorem modStore_freeCtr (f : Store → Store) (s : State) : (modStore f s).freeCtr = s.freeCtr := rfl
@[simp] theorem modStore_rooms (f : Store → Store) (s : State) : (modStore f s).rooms = s.rooms := rfl
@[simp] theorem modStore_offered (f : Store → Store) (s : State) : (modStore f s).offered = s.offered := rfl
@[simp] theorem modStore_defects (f : Store → Store) (s : State) : (modStore f s).defects = s.defects := rfl
@[simp] theorem modStore_steward (f : Store → Store) (s : State) : (modStore f s).steward = s.steward := rfl
@[simp] theorem modStore_host (f : Store → Store) (s : State) : (modStore f s).host = s.host := rfl
@[simp] theorem modStore_side (f : Store → Store) (s : State) : (modStore f s).side = s.side := rfl
@[simp] theorem modStore_shell (f : Store → Store) (s : State) : (modStore f s).shell = s.shell := rfl
@[simp] theorem modStore_fabric (f : Store → Store) (s : State) : (modStore f s).fabric = s.fabric := rfl
@[simp] theorem modStore_links (f : Store → Store) (s : State) : (modStore f s).links = s.links := rfl
@[simp] theorem modStore_time (f : Store → Store) (s : State) : (modStore f s).time = s.time := rfl
@[simp] theorem modStore_pace (f : Store → Store) (s : State) : (modStore f s).pace = s.pace := rfl
@[simp] theorem modStore_power (f : Store → Store) (s : State) : (modStore f s).power = s.power := rfl
@[simp] theorem modStore_health (f : Store → Store) (s : State) : (modStore f s).health = s.health := rfl
@[simp] theorem modStore_seq (f : Store → Store) (s : State) : (modStore f s).seq = s.seq := rfl
@[simp] theorem modSteward_steward (f : Steward → Steward) (s : State) : (modSteward f s).steward = f s.steward := rfl
@[simp] theorem modSteward_params (f : Steward → Steward) (s : State) : (modSteward f s).params = s.params := rfl
@[simp] theorem modSteward_pending (f : Steward → Steward) (s : State) : (modSteward f s).pending = s.pending := rfl
@[simp] theorem modSteward_freeCtr (f : Steward → Steward) (s : State) : (modSteward f s).freeCtr = s.freeCtr := rfl
@[simp] theorem modSteward_store (f : Steward → Steward) (s : State) : (modSteward f s).store = s.store := rfl
@[simp] theorem modSteward_rooms (f : Steward → Steward) (s : State) : (modSteward f s).rooms = s.rooms := rfl
@[simp] theorem modSteward_offered (f : Steward → Steward) (s : State) : (modSteward f s).offered = s.offered := rfl
@[simp] theorem modSteward_defects (f : Steward → Steward) (s : State) : (modSteward f s).defects = s.defects := rfl
@[simp] theorem modSteward_host (f : Steward → Steward) (s : State) : (modSteward f s).host = s.host := rfl
@[simp] theorem modSteward_side (f : Steward → Steward) (s : State) : (modSteward f s).side = s.side := rfl
@[simp] theorem modSteward_shell (f : Steward → Steward) (s : State) : (modSteward f s).shell = s.shell := rfl
@[simp] theorem modSteward_fabric (f : Steward → Steward) (s : State) : (modSteward f s).fabric = s.fabric := rfl
@[simp] theorem modSteward_links (f : Steward → Steward) (s : State) : (modSteward f s).links = s.links := rfl
@[simp] theorem modSteward_time (f : Steward → Steward) (s : State) : (modSteward f s).time = s.time := rfl
@[simp] theorem modSteward_pace (f : Steward → Steward) (s : State) : (modSteward f s).pace = s.pace := rfl
@[simp] theorem modSteward_power (f : Steward → Steward) (s : State) : (modSteward f s).power = s.power := rfl
@[simp] theorem modSteward_health (f : Steward → Steward) (s : State) : (modSteward f s).health = s.health := rfl
@[simp] theorem modSteward_seq (f : Steward → Steward) (s : State) : (modSteward f s).seq = s.seq := rfl
@[simp] theorem modHost_host (f : HostPort → HostPort) (s : State) : (modHost f s).host = f s.host := rfl
@[simp] theorem modHost_params (f : HostPort → HostPort) (s : State) : (modHost f s).params = s.params := rfl
@[simp] theorem modHost_pending (f : HostPort → HostPort) (s : State) : (modHost f s).pending = s.pending := rfl
@[simp] theorem modHost_freeCtr (f : HostPort → HostPort) (s : State) : (modHost f s).freeCtr = s.freeCtr := rfl
@[simp] theorem modHost_store (f : HostPort → HostPort) (s : State) : (modHost f s).store = s.store := rfl
@[simp] theorem modHost_rooms (f : HostPort → HostPort) (s : State) : (modHost f s).rooms = s.rooms := rfl
@[simp] theorem modHost_offered (f : HostPort → HostPort) (s : State) : (modHost f s).offered = s.offered := rfl
@[simp] theorem modHost_defects (f : HostPort → HostPort) (s : State) : (modHost f s).defects = s.defects := rfl
@[simp] theorem modHost_steward (f : HostPort → HostPort) (s : State) : (modHost f s).steward = s.steward := rfl
@[simp] theorem modHost_side (f : HostPort → HostPort) (s : State) : (modHost f s).side = s.side := rfl
@[simp] theorem modHost_shell (f : HostPort → HostPort) (s : State) : (modHost f s).shell = s.shell := rfl
@[simp] theorem modHost_fabric (f : HostPort → HostPort) (s : State) : (modHost f s).fabric = s.fabric := rfl
@[simp] theorem modHost_links (f : HostPort → HostPort) (s : State) : (modHost f s).links = s.links := rfl
@[simp] theorem modHost_time (f : HostPort → HostPort) (s : State) : (modHost f s).time = s.time := rfl
@[simp] theorem modHost_pace (f : HostPort → HostPort) (s : State) : (modHost f s).pace = s.pace := rfl
@[simp] theorem modHost_power (f : HostPort → HostPort) (s : State) : (modHost f s).power = s.power := rfl
@[simp] theorem modHost_health (f : HostPort → HostPort) (s : State) : (modHost f s).health = s.health := rfl
@[simp] theorem modHost_seq (f : HostPort → HostPort) (s : State) : (modHost f s).seq = s.seq := rfl
@[simp] theorem modShell_shell (f : Shell → Shell) (s : State) : (modShell f s).shell = f s.shell := rfl
@[simp] theorem modShell_params (f : Shell → Shell) (s : State) : (modShell f s).params = s.params := rfl
@[simp] theorem modShell_pending (f : Shell → Shell) (s : State) : (modShell f s).pending = s.pending := rfl
@[simp] theorem modShell_freeCtr (f : Shell → Shell) (s : State) : (modShell f s).freeCtr = s.freeCtr := rfl
@[simp] theorem modShell_store (f : Shell → Shell) (s : State) : (modShell f s).store = s.store := rfl
@[simp] theorem modShell_rooms (f : Shell → Shell) (s : State) : (modShell f s).rooms = s.rooms := rfl
@[simp] theorem modShell_offered (f : Shell → Shell) (s : State) : (modShell f s).offered = s.offered := rfl
@[simp] theorem modShell_defects (f : Shell → Shell) (s : State) : (modShell f s).defects = s.defects := rfl
@[simp] theorem modShell_steward (f : Shell → Shell) (s : State) : (modShell f s).steward = s.steward := rfl
@[simp] theorem modShell_host (f : Shell → Shell) (s : State) : (modShell f s).host = s.host := rfl
@[simp] theorem modShell_side (f : Shell → Shell) (s : State) : (modShell f s).side = s.side := rfl
@[simp] theorem modShell_fabric (f : Shell → Shell) (s : State) : (modShell f s).fabric = s.fabric := rfl
@[simp] theorem modShell_links (f : Shell → Shell) (s : State) : (modShell f s).links = s.links := rfl
@[simp] theorem modShell_time (f : Shell → Shell) (s : State) : (modShell f s).time = s.time := rfl
@[simp] theorem modShell_pace (f : Shell → Shell) (s : State) : (modShell f s).pace = s.pace := rfl
@[simp] theorem modShell_power (f : Shell → Shell) (s : State) : (modShell f s).power = s.power := rfl
@[simp] theorem modShell_health (f : Shell → Shell) (s : State) : (modShell f s).health = s.health := rfl
@[simp] theorem modShell_seq (f : Shell → Shell) (s : State) : (modShell f s).seq = s.seq := rfl
@[simp] theorem modFabric_fabric (f : Fabric → Fabric) (s : State) : (modFabric f s).fabric = f s.fabric := rfl
@[simp] theorem modFabric_params (f : Fabric → Fabric) (s : State) : (modFabric f s).params = s.params := rfl
@[simp] theorem modFabric_pending (f : Fabric → Fabric) (s : State) : (modFabric f s).pending = s.pending := rfl
@[simp] theorem modFabric_freeCtr (f : Fabric → Fabric) (s : State) : (modFabric f s).freeCtr = s.freeCtr := rfl
@[simp] theorem modFabric_store (f : Fabric → Fabric) (s : State) : (modFabric f s).store = s.store := rfl
@[simp] theorem modFabric_rooms (f : Fabric → Fabric) (s : State) : (modFabric f s).rooms = s.rooms := rfl
@[simp] theorem modFabric_offered (f : Fabric → Fabric) (s : State) : (modFabric f s).offered = s.offered := rfl
@[simp] theorem modFabric_defects (f : Fabric → Fabric) (s : State) : (modFabric f s).defects = s.defects := rfl
@[simp] theorem modFabric_steward (f : Fabric → Fabric) (s : State) : (modFabric f s).steward = s.steward := rfl
@[simp] theorem modFabric_host (f : Fabric → Fabric) (s : State) : (modFabric f s).host = s.host := rfl
@[simp] theorem modFabric_side (f : Fabric → Fabric) (s : State) : (modFabric f s).side = s.side := rfl
@[simp] theorem modFabric_shell (f : Fabric → Fabric) (s : State) : (modFabric f s).shell = s.shell := rfl
@[simp] theorem modFabric_links (f : Fabric → Fabric) (s : State) : (modFabric f s).links = s.links := rfl
@[simp] theorem modFabric_time (f : Fabric → Fabric) (s : State) : (modFabric f s).time = s.time := rfl
@[simp] theorem modFabric_pace (f : Fabric → Fabric) (s : State) : (modFabric f s).pace = s.pace := rfl
@[simp] theorem modFabric_power (f : Fabric → Fabric) (s : State) : (modFabric f s).power = s.power := rfl
@[simp] theorem modFabric_health (f : Fabric → Fabric) (s : State) : (modFabric f s).health = s.health := rfl
@[simp] theorem modFabric_seq (f : Fabric → Fabric) (s : State) : (modFabric f s).seq = s.seq := rfl
@[simp] theorem modTime_time (f : TimeUnit → TimeUnit) (s : State) : (modTime f s).time = f s.time := rfl
@[simp] theorem modTime_params (f : TimeUnit → TimeUnit) (s : State) : (modTime f s).params = s.params := rfl
@[simp] theorem modTime_pending (f : TimeUnit → TimeUnit) (s : State) : (modTime f s).pending = s.pending := rfl
@[simp] theorem modTime_freeCtr (f : TimeUnit → TimeUnit) (s : State) : (modTime f s).freeCtr = s.freeCtr := rfl
@[simp] theorem modTime_store (f : TimeUnit → TimeUnit) (s : State) : (modTime f s).store = s.store := rfl
@[simp] theorem modTime_rooms (f : TimeUnit → TimeUnit) (s : State) : (modTime f s).rooms = s.rooms := rfl
@[simp] theorem modTime_offered (f : TimeUnit → TimeUnit) (s : State) : (modTime f s).offered = s.offered := rfl
@[simp] theorem modTime_defects (f : TimeUnit → TimeUnit) (s : State) : (modTime f s).defects = s.defects := rfl
@[simp] theorem modTime_steward (f : TimeUnit → TimeUnit) (s : State) : (modTime f s).steward = s.steward := rfl
@[simp] theorem modTime_host (f : TimeUnit → TimeUnit) (s : State) : (modTime f s).host = s.host := rfl
@[simp] theorem modTime_side (f : TimeUnit → TimeUnit) (s : State) : (modTime f s).side = s.side := rfl
@[simp] theorem modTime_shell (f : TimeUnit → TimeUnit) (s : State) : (modTime f s).shell = s.shell := rfl
@[simp] theorem modTime_fabric (f : TimeUnit → TimeUnit) (s : State) : (modTime f s).fabric = s.fabric := rfl
@[simp] theorem modTime_links (f : TimeUnit → TimeUnit) (s : State) : (modTime f s).links = s.links := rfl
@[simp] theorem modTime_pace (f : TimeUnit → TimeUnit) (s : State) : (modTime f s).pace = s.pace := rfl
@[simp] theorem modTime_power (f : TimeUnit → TimeUnit) (s : State) : (modTime f s).power = s.power := rfl
@[simp] theorem modTime_health (f : TimeUnit → TimeUnit) (s : State) : (modTime f s).health = s.health := rfl
@[simp] theorem modTime_seq (f : TimeUnit → TimeUnit) (s : State) : (modTime f s).seq = s.seq := rfl
@[simp] theorem modPace_pace (f : Pace → Pace) (s : State) : (modPace f s).pace = f s.pace := rfl
@[simp] theorem modPace_params (f : Pace → Pace) (s : State) : (modPace f s).params = s.params := rfl
@[simp] theorem modPace_pending (f : Pace → Pace) (s : State) : (modPace f s).pending = s.pending := rfl
@[simp] theorem modPace_freeCtr (f : Pace → Pace) (s : State) : (modPace f s).freeCtr = s.freeCtr := rfl
@[simp] theorem modPace_store (f : Pace → Pace) (s : State) : (modPace f s).store = s.store := rfl
@[simp] theorem modPace_rooms (f : Pace → Pace) (s : State) : (modPace f s).rooms = s.rooms := rfl
@[simp] theorem modPace_offered (f : Pace → Pace) (s : State) : (modPace f s).offered = s.offered := rfl
@[simp] theorem modPace_defects (f : Pace → Pace) (s : State) : (modPace f s).defects = s.defects := rfl
@[simp] theorem modPace_steward (f : Pace → Pace) (s : State) : (modPace f s).steward = s.steward := rfl
@[simp] theorem modPace_host (f : Pace → Pace) (s : State) : (modPace f s).host = s.host := rfl
@[simp] theorem modPace_side (f : Pace → Pace) (s : State) : (modPace f s).side = s.side := rfl
@[simp] theorem modPace_shell (f : Pace → Pace) (s : State) : (modPace f s).shell = s.shell := rfl
@[simp] theorem modPace_fabric (f : Pace → Pace) (s : State) : (modPace f s).fabric = s.fabric := rfl
@[simp] theorem modPace_links (f : Pace → Pace) (s : State) : (modPace f s).links = s.links := rfl
@[simp] theorem modPace_time (f : Pace → Pace) (s : State) : (modPace f s).time = s.time := rfl
@[simp] theorem modPace_power (f : Pace → Pace) (s : State) : (modPace f s).power = s.power := rfl
@[simp] theorem modPace_health (f : Pace → Pace) (s : State) : (modPace f s).health = s.health := rfl
@[simp] theorem modPace_seq (f : Pace → Pace) (s : State) : (modPace f s).seq = s.seq := rfl
@[simp] theorem modPower_power (f : Power → Power) (s : State) : (modPower f s).power = f s.power := rfl
@[simp] theorem modPower_params (f : Power → Power) (s : State) : (modPower f s).params = s.params := rfl
@[simp] theorem modPower_pending (f : Power → Power) (s : State) : (modPower f s).pending = s.pending := rfl
@[simp] theorem modPower_freeCtr (f : Power → Power) (s : State) : (modPower f s).freeCtr = s.freeCtr := rfl
@[simp] theorem modPower_store (f : Power → Power) (s : State) : (modPower f s).store = s.store := rfl
@[simp] theorem modPower_rooms (f : Power → Power) (s : State) : (modPower f s).rooms = s.rooms := rfl
@[simp] theorem modPower_offered (f : Power → Power) (s : State) : (modPower f s).offered = s.offered := rfl
@[simp] theorem modPower_defects (f : Power → Power) (s : State) : (modPower f s).defects = s.defects := rfl
@[simp] theorem modPower_steward (f : Power → Power) (s : State) : (modPower f s).steward = s.steward := rfl
@[simp] theorem modPower_host (f : Power → Power) (s : State) : (modPower f s).host = s.host := rfl
@[simp] theorem modPower_side (f : Power → Power) (s : State) : (modPower f s).side = s.side := rfl
@[simp] theorem modPower_shell (f : Power → Power) (s : State) : (modPower f s).shell = s.shell := rfl
@[simp] theorem modPower_fabric (f : Power → Power) (s : State) : (modPower f s).fabric = s.fabric := rfl
@[simp] theorem modPower_links (f : Power → Power) (s : State) : (modPower f s).links = s.links := rfl
@[simp] theorem modPower_time (f : Power → Power) (s : State) : (modPower f s).time = s.time := rfl
@[simp] theorem modPower_pace (f : Power → Power) (s : State) : (modPower f s).pace = s.pace := rfl
@[simp] theorem modPower_health (f : Power → Power) (s : State) : (modPower f s).health = s.health := rfl
@[simp] theorem modPower_seq (f : Power → Power) (s : State) : (modPower f s).seq = s.seq := rfl
@[simp] theorem modHealth_health (f : Health → Health) (s : State) : (modHealth f s).health = f s.health := rfl
@[simp] theorem modHealth_params (f : Health → Health) (s : State) : (modHealth f s).params = s.params := rfl
@[simp] theorem modHealth_pending (f : Health → Health) (s : State) : (modHealth f s).pending = s.pending := rfl
@[simp] theorem modHealth_freeCtr (f : Health → Health) (s : State) : (modHealth f s).freeCtr = s.freeCtr := rfl
@[simp] theorem modHealth_store (f : Health → Health) (s : State) : (modHealth f s).store = s.store := rfl
@[simp] theorem modHealth_rooms (f : Health → Health) (s : State) : (modHealth f s).rooms = s.rooms := rfl
@[simp] theorem modHealth_offered (f : Health → Health) (s : State) : (modHealth f s).offered = s.offered := rfl
@[simp] theorem modHealth_defects (f : Health → Health) (s : State) : (modHealth f s).defects = s.defects := rfl
@[simp] theorem modHealth_steward (f : Health → Health) (s : State) : (modHealth f s).steward = s.steward := rfl
@[simp] theorem modHealth_host (f : Health → Health) (s : State) : (modHealth f s).host = s.host := rfl
@[simp] theorem modHealth_side (f : Health → Health) (s : State) : (modHealth f s).side = s.side := rfl
@[simp] theorem modHealth_shell (f : Health → Health) (s : State) : (modHealth f s).shell = s.shell := rfl
@[simp] theorem modHealth_fabric (f : Health → Health) (s : State) : (modHealth f s).fabric = s.fabric := rfl
@[simp] theorem modHealth_links (f : Health → Health) (s : State) : (modHealth f s).links = s.links := rfl
@[simp] theorem modHealth_time (f : Health → Health) (s : State) : (modHealth f s).time = s.time := rfl
@[simp] theorem modHealth_pace (f : Health → Health) (s : State) : (modHealth f s).pace = s.pace := rfl
@[simp] theorem modHealth_power (f : Health → Health) (s : State) : (modHealth f s).power = s.power := rfl
@[simp] theorem modHealth_seq (f : Health → Health) (s : State) : (modHealth f s).seq = s.seq := rfl
@[simp] theorem modSeq_seq (f : Seq → Seq) (s : State) : (modSeq f s).seq = f s.seq := rfl
@[simp] theorem modSeq_params (f : Seq → Seq) (s : State) : (modSeq f s).params = s.params := rfl
@[simp] theorem modSeq_pending (f : Seq → Seq) (s : State) : (modSeq f s).pending = s.pending := rfl
@[simp] theorem modSeq_freeCtr (f : Seq → Seq) (s : State) : (modSeq f s).freeCtr = s.freeCtr := rfl
@[simp] theorem modSeq_store (f : Seq → Seq) (s : State) : (modSeq f s).store = s.store := rfl
@[simp] theorem modSeq_rooms (f : Seq → Seq) (s : State) : (modSeq f s).rooms = s.rooms := rfl
@[simp] theorem modSeq_offered (f : Seq → Seq) (s : State) : (modSeq f s).offered = s.offered := rfl
@[simp] theorem modSeq_defects (f : Seq → Seq) (s : State) : (modSeq f s).defects = s.defects := rfl
@[simp] theorem modSeq_steward (f : Seq → Seq) (s : State) : (modSeq f s).steward = s.steward := rfl
@[simp] theorem modSeq_host (f : Seq → Seq) (s : State) : (modSeq f s).host = s.host := rfl
@[simp] theorem modSeq_side (f : Seq → Seq) (s : State) : (modSeq f s).side = s.side := rfl
@[simp] theorem modSeq_shell (f : Seq → Seq) (s : State) : (modSeq f s).shell = s.shell := rfl
@[simp] theorem modSeq_fabric (f : Seq → Seq) (s : State) : (modSeq f s).fabric = s.fabric := rfl
@[simp] theorem modSeq_links (f : Seq → Seq) (s : State) : (modSeq f s).links = s.links := rfl
@[simp] theorem modSeq_time (f : Seq → Seq) (s : State) : (modSeq f s).time = s.time := rfl
@[simp] theorem modSeq_pace (f : Seq → Seq) (s : State) : (modSeq f s).pace = s.pace := rfl
@[simp] theorem modSeq_power (f : Seq → Seq) (s : State) : (modSeq f s).power = s.power := rfl
@[simp] theorem modSeq_health (f : Seq → Seq) (s : State) : (modSeq f s).health = s.health := rfl

/-! Updates inside one part. -/

@[simp] theorem modRoom_params (r : Nat) (f : Room → Room) (s : State) : (modRoom r f s).params = s.params := rfl
@[simp] theorem modRoom_pending (r : Nat) (f : Room → Room) (s : State) : (modRoom r f s).pending = s.pending := rfl
@[simp] theorem modRoom_freeCtr (r : Nat) (f : Room → Room) (s : State) : (modRoom r f s).freeCtr = s.freeCtr := rfl
@[simp] theorem modRoom_store (r : Nat) (f : Room → Room) (s : State) : (modRoom r f s).store = s.store := rfl
@[simp] theorem modRoom_offered (r : Nat) (f : Room → Room) (s : State) : (modRoom r f s).offered = s.offered := rfl
@[simp] theorem modRoom_defects (r : Nat) (f : Room → Room) (s : State) : (modRoom r f s).defects = s.defects := rfl
@[simp] theorem modRoom_steward (r : Nat) (f : Room → Room) (s : State) : (modRoom r f s).steward = s.steward := rfl
@[simp] theorem modRoom_host (r : Nat) (f : Room → Room) (s : State) : (modRoom r f s).host = s.host := rfl
@[simp] theorem modRoom_side (r : Nat) (f : Room → Room) (s : State) : (modRoom r f s).side = s.side := rfl
@[simp] theorem modRoom_shell (r : Nat) (f : Room → Room) (s : State) : (modRoom r f s).shell = s.shell := rfl
@[simp] theorem modRoom_fabric (r : Nat) (f : Room → Room) (s : State) : (modRoom r f s).fabric = s.fabric := rfl
@[simp] theorem modRoom_links (r : Nat) (f : Room → Room) (s : State) : (modRoom r f s).links = s.links := rfl
@[simp] theorem modRoom_time (r : Nat) (f : Room → Room) (s : State) : (modRoom r f s).time = s.time := rfl
@[simp] theorem modRoom_pace (r : Nat) (f : Room → Room) (s : State) : (modRoom r f s).pace = s.pace := rfl
@[simp] theorem modRoom_power (r : Nat) (f : Room → Room) (s : State) : (modRoom r f s).power = s.power := rfl
@[simp] theorem modRoom_health (r : Nat) (f : Room → Room) (s : State) : (modRoom r f s).health = s.health := rfl
@[simp] theorem modRoom_seq (r : Nat) (f : Room → Room) (s : State) : (modRoom r f s).seq = s.seq := rfl
@[simp] theorem modMbox_params (m : Nat) (f : Mailbox → Mailbox) (s : State) : (modMbox m f s).params = s.params := rfl
@[simp] theorem modMbox_pending (m : Nat) (f : Mailbox → Mailbox) (s : State) : (modMbox m f s).pending = s.pending := rfl
@[simp] theorem modMbox_freeCtr (m : Nat) (f : Mailbox → Mailbox) (s : State) : (modMbox m f s).freeCtr = s.freeCtr := rfl
@[simp] theorem modMbox_store (m : Nat) (f : Mailbox → Mailbox) (s : State) : (modMbox m f s).store = s.store := rfl
@[simp] theorem modMbox_rooms (m : Nat) (f : Mailbox → Mailbox) (s : State) : (modMbox m f s).rooms = s.rooms := rfl
@[simp] theorem modMbox_offered (m : Nat) (f : Mailbox → Mailbox) (s : State) : (modMbox m f s).offered = s.offered := rfl
@[simp] theorem modMbox_defects (m : Nat) (f : Mailbox → Mailbox) (s : State) : (modMbox m f s).defects = s.defects := rfl
@[simp] theorem modMbox_host (m : Nat) (f : Mailbox → Mailbox) (s : State) : (modMbox m f s).host = s.host := rfl
@[simp] theorem modMbox_side (m : Nat) (f : Mailbox → Mailbox) (s : State) : (modMbox m f s).side = s.side := rfl
@[simp] theorem modMbox_shell (m : Nat) (f : Mailbox → Mailbox) (s : State) : (modMbox m f s).shell = s.shell := rfl
@[simp] theorem modMbox_fabric (m : Nat) (f : Mailbox → Mailbox) (s : State) : (modMbox m f s).fabric = s.fabric := rfl
@[simp] theorem modMbox_links (m : Nat) (f : Mailbox → Mailbox) (s : State) : (modMbox m f s).links = s.links := rfl
@[simp] theorem modMbox_time (m : Nat) (f : Mailbox → Mailbox) (s : State) : (modMbox m f s).time = s.time := rfl
@[simp] theorem modMbox_pace (m : Nat) (f : Mailbox → Mailbox) (s : State) : (modMbox m f s).pace = s.pace := rfl
@[simp] theorem modMbox_power (m : Nat) (f : Mailbox → Mailbox) (s : State) : (modMbox m f s).power = s.power := rfl
@[simp] theorem modMbox_health (m : Nat) (f : Mailbox → Mailbox) (s : State) : (modMbox m f s).health = s.health := rfl
@[simp] theorem modMbox_seq (m : Nat) (f : Mailbox → Mailbox) (s : State) : (modMbox m f s).seq = s.seq := rfl
@[simp] theorem modMbox_steward_phase (m : Nat) (f : Mailbox → Mailbox) (s : State) : (modMbox m f s).steward.phase = s.steward.phase := rfl
@[simp] theorem modMbox_steward_healthSt (m : Nat) (f : Mailbox → Mailbox) (s : State) : (modMbox m f s).steward.healthSt = s.steward.healthSt := rfl
@[simp] theorem modMbox_steward_fabricSt (m : Nat) (f : Mailbox → Mailbox) (s : State) : (modMbox m f s).steward.fabricSt = s.steward.fabricSt := rfl
@[simp] theorem modMbox_steward_standby (m : Nat) (f : Mailbox → Mailbox) (s : State) : (modMbox m f s).steward.standby = s.steward.standby := rfl
@[simp] theorem modMbox_steward_up (m : Nat) (f : Mailbox → Mailbox) (s : State) : (modMbox m f s).steward.up = s.steward.up := rfl
@[simp] theorem modMbox_steward_staged (m : Nat) (f : Mailbox → Mailbox) (s : State) : (modMbox m f s).steward.staged = s.steward.staged := rfl
@[simp] theorem modMbox_steward_taken (m : Nat) (f : Mailbox → Mailbox) (s : State) : (modMbox m f s).steward.taken = s.steward.taken := rfl
@[simp] theorem modMbox_steward_copies (m : Nat) (f : Mailbox → Mailbox) (s : State) : (modMbox m f s).steward.copies = s.steward.copies := rfl
@[simp] theorem modMbox_steward_closes (m : Nat) (f : Mailbox → Mailbox) (s : State) : (modMbox m f s).steward.closes = s.steward.closes := rfl
@[simp] theorem modMbox_steward_loads (m : Nat) (f : Mailbox → Mailbox) (s : State) : (modMbox m f s).steward.loads = s.steward.loads := rfl
@[simp] theorem modMbox_steward_ctxs (m : Nat) (f : Mailbox → Mailbox) (s : State) : (modMbox m f s).steward.ctxs = s.steward.ctxs := rfl
@[simp] theorem modMbox_steward_queues (m : Nat) (f : Mailbox → Mailbox) (s : State) : (modMbox m f s).steward.queues = s.steward.queues := rfl
@[simp] theorem modMbox_steward_fences (m : Nat) (f : Mailbox → Mailbox) (s : State) : (modMbox m f s).steward.fences = s.steward.fences := rfl
@[simp] theorem modMbox_steward_images (m : Nat) (f : Mailbox → Mailbox) (s : State) : (modMbox m f s).steward.images = s.steward.images := rfl
@[simp] theorem modMbox_steward_tasks (m : Nat) (f : Mailbox → Mailbox) (s : State) : (modMbox m f s).steward.tasks = s.steward.tasks := rfl
@[simp] theorem modMbox_steward_nextTask (m : Nat) (f : Mailbox → Mailbox) (s : State) : (modMbox m f s).steward.nextTask = s.steward.nextTask := rfl
@[simp] theorem modMbox_steward_nextImage (m : Nat) (f : Mailbox → Mailbox) (s : State) : (modMbox m f s).steward.nextImage = s.steward.nextImage := rfl
@[simp] theorem modMbox_steward_elig (m : Nat) (f : Mailbox → Mailbox) (s : State) : (modMbox m f s).steward.elig = s.steward.elig := rfl
@[simp] theorem modMbox_steward_serial (m : Nat) (f : Mailbox → Mailbox) (s : State) : (modMbox m f s).steward.serial = s.steward.serial := rfl
@[simp] theorem modMbox_steward_keyHash (m : Nat) (f : Mailbox → Mailbox) (s : State) : (modMbox m f s).steward.keyHash = s.steward.keyHash := rfl
@[simp] theorem modMbox_steward_intStatus (m : Nat) (f : Mailbox → Mailbox) (s : State) : (modMbox m f s).steward.intStatus = s.steward.intStatus := rfl
@[simp] theorem modMbox_steward_intEnable (m : Nat) (f : Mailbox → Mailbox) (s : State) : (modMbox m f s).steward.intEnable = s.steward.intEnable := rfl
@[simp] theorem modQueue_params (q : Nat) (f : Queue → Queue) (s : State) : (modQueue q f s).params = s.params := rfl
@[simp] theorem modQueue_pending (q : Nat) (f : Queue → Queue) (s : State) : (modQueue q f s).pending = s.pending := rfl
@[simp] theorem modQueue_freeCtr (q : Nat) (f : Queue → Queue) (s : State) : (modQueue q f s).freeCtr = s.freeCtr := rfl
@[simp] theorem modQueue_store (q : Nat) (f : Queue → Queue) (s : State) : (modQueue q f s).store = s.store := rfl
@[simp] theorem modQueue_rooms (q : Nat) (f : Queue → Queue) (s : State) : (modQueue q f s).rooms = s.rooms := rfl
@[simp] theorem modQueue_offered (q : Nat) (f : Queue → Queue) (s : State) : (modQueue q f s).offered = s.offered := rfl
@[simp] theorem modQueue_defects (q : Nat) (f : Queue → Queue) (s : State) : (modQueue q f s).defects = s.defects := rfl
@[simp] theorem modQueue_host (q : Nat) (f : Queue → Queue) (s : State) : (modQueue q f s).host = s.host := rfl
@[simp] theorem modQueue_side (q : Nat) (f : Queue → Queue) (s : State) : (modQueue q f s).side = s.side := rfl
@[simp] theorem modQueue_shell (q : Nat) (f : Queue → Queue) (s : State) : (modQueue q f s).shell = s.shell := rfl
@[simp] theorem modQueue_fabric (q : Nat) (f : Queue → Queue) (s : State) : (modQueue q f s).fabric = s.fabric := rfl
@[simp] theorem modQueue_links (q : Nat) (f : Queue → Queue) (s : State) : (modQueue q f s).links = s.links := rfl
@[simp] theorem modQueue_time (q : Nat) (f : Queue → Queue) (s : State) : (modQueue q f s).time = s.time := rfl
@[simp] theorem modQueue_pace (q : Nat) (f : Queue → Queue) (s : State) : (modQueue q f s).pace = s.pace := rfl
@[simp] theorem modQueue_power (q : Nat) (f : Queue → Queue) (s : State) : (modQueue q f s).power = s.power := rfl
@[simp] theorem modQueue_health (q : Nat) (f : Queue → Queue) (s : State) : (modQueue q f s).health = s.health := rfl
@[simp] theorem modQueue_seq (q : Nat) (f : Queue → Queue) (s : State) : (modQueue q f s).seq = s.seq := rfl
@[simp] theorem modQueue_steward_phase (q : Nat) (f : Queue → Queue) (s : State) : (modQueue q f s).steward.phase = s.steward.phase := rfl
@[simp] theorem modQueue_steward_healthSt (q : Nat) (f : Queue → Queue) (s : State) : (modQueue q f s).steward.healthSt = s.steward.healthSt := rfl
@[simp] theorem modQueue_steward_fabricSt (q : Nat) (f : Queue → Queue) (s : State) : (modQueue q f s).steward.fabricSt = s.steward.fabricSt := rfl
@[simp] theorem modQueue_steward_standby (q : Nat) (f : Queue → Queue) (s : State) : (modQueue q f s).steward.standby = s.steward.standby := rfl
@[simp] theorem modQueue_steward_up (q : Nat) (f : Queue → Queue) (s : State) : (modQueue q f s).steward.up = s.steward.up := rfl
@[simp] theorem modQueue_steward_mboxes (q : Nat) (f : Queue → Queue) (s : State) : (modQueue q f s).steward.mboxes = s.steward.mboxes := rfl
@[simp] theorem modQueue_steward_staged (q : Nat) (f : Queue → Queue) (s : State) : (modQueue q f s).steward.staged = s.steward.staged := rfl
@[simp] theorem modQueue_steward_taken (q : Nat) (f : Queue → Queue) (s : State) : (modQueue q f s).steward.taken = s.steward.taken := rfl
@[simp] theorem modQueue_steward_copies (q : Nat) (f : Queue → Queue) (s : State) : (modQueue q f s).steward.copies = s.steward.copies := rfl
@[simp] theorem modQueue_steward_closes (q : Nat) (f : Queue → Queue) (s : State) : (modQueue q f s).steward.closes = s.steward.closes := rfl
@[simp] theorem modQueue_steward_loads (q : Nat) (f : Queue → Queue) (s : State) : (modQueue q f s).steward.loads = s.steward.loads := rfl
@[simp] theorem modQueue_steward_ctxs (q : Nat) (f : Queue → Queue) (s : State) : (modQueue q f s).steward.ctxs = s.steward.ctxs := rfl
@[simp] theorem modQueue_steward_fences (q : Nat) (f : Queue → Queue) (s : State) : (modQueue q f s).steward.fences = s.steward.fences := rfl
@[simp] theorem modQueue_steward_images (q : Nat) (f : Queue → Queue) (s : State) : (modQueue q f s).steward.images = s.steward.images := rfl
@[simp] theorem modQueue_steward_tasks (q : Nat) (f : Queue → Queue) (s : State) : (modQueue q f s).steward.tasks = s.steward.tasks := rfl
@[simp] theorem modQueue_steward_nextTask (q : Nat) (f : Queue → Queue) (s : State) : (modQueue q f s).steward.nextTask = s.steward.nextTask := rfl
@[simp] theorem modQueue_steward_nextImage (q : Nat) (f : Queue → Queue) (s : State) : (modQueue q f s).steward.nextImage = s.steward.nextImage := rfl
@[simp] theorem modQueue_steward_elig (q : Nat) (f : Queue → Queue) (s : State) : (modQueue q f s).steward.elig = s.steward.elig := rfl
@[simp] theorem modQueue_steward_serial (q : Nat) (f : Queue → Queue) (s : State) : (modQueue q f s).steward.serial = s.steward.serial := rfl
@[simp] theorem modQueue_steward_keyHash (q : Nat) (f : Queue → Queue) (s : State) : (modQueue q f s).steward.keyHash = s.steward.keyHash := rfl
@[simp] theorem modQueue_steward_intStatus (q : Nat) (f : Queue → Queue) (s : State) : (modQueue q f s).steward.intStatus = s.steward.intStatus := rfl
@[simp] theorem modQueue_steward_intEnable (q : Nat) (f : Queue → Queue) (s : State) : (modQueue q f s).steward.intEnable = s.steward.intEnable := rfl
@[simp] theorem modTask_params (n : Nat) (f : Task → Task) (s : State) : (modTask n f s).params = s.params := rfl
@[simp] theorem modTask_pending (n : Nat) (f : Task → Task) (s : State) : (modTask n f s).pending = s.pending := rfl
@[simp] theorem modTask_freeCtr (n : Nat) (f : Task → Task) (s : State) : (modTask n f s).freeCtr = s.freeCtr := rfl
@[simp] theorem modTask_store (n : Nat) (f : Task → Task) (s : State) : (modTask n f s).store = s.store := rfl
@[simp] theorem modTask_rooms (n : Nat) (f : Task → Task) (s : State) : (modTask n f s).rooms = s.rooms := rfl
@[simp] theorem modTask_offered (n : Nat) (f : Task → Task) (s : State) : (modTask n f s).offered = s.offered := rfl
@[simp] theorem modTask_defects (n : Nat) (f : Task → Task) (s : State) : (modTask n f s).defects = s.defects := rfl
@[simp] theorem modTask_host (n : Nat) (f : Task → Task) (s : State) : (modTask n f s).host = s.host := rfl
@[simp] theorem modTask_side (n : Nat) (f : Task → Task) (s : State) : (modTask n f s).side = s.side := rfl
@[simp] theorem modTask_shell (n : Nat) (f : Task → Task) (s : State) : (modTask n f s).shell = s.shell := rfl
@[simp] theorem modTask_fabric (n : Nat) (f : Task → Task) (s : State) : (modTask n f s).fabric = s.fabric := rfl
@[simp] theorem modTask_links (n : Nat) (f : Task → Task) (s : State) : (modTask n f s).links = s.links := rfl
@[simp] theorem modTask_time (n : Nat) (f : Task → Task) (s : State) : (modTask n f s).time = s.time := rfl
@[simp] theorem modTask_pace (n : Nat) (f : Task → Task) (s : State) : (modTask n f s).pace = s.pace := rfl
@[simp] theorem modTask_power (n : Nat) (f : Task → Task) (s : State) : (modTask n f s).power = s.power := rfl
@[simp] theorem modTask_health (n : Nat) (f : Task → Task) (s : State) : (modTask n f s).health = s.health := rfl
@[simp] theorem modTask_seq (n : Nat) (f : Task → Task) (s : State) : (modTask n f s).seq = s.seq := rfl
@[simp] theorem modTask_steward_phase (n : Nat) (f : Task → Task) (s : State) : (modTask n f s).steward.phase = s.steward.phase := rfl
@[simp] theorem modTask_steward_healthSt (n : Nat) (f : Task → Task) (s : State) : (modTask n f s).steward.healthSt = s.steward.healthSt := rfl
@[simp] theorem modTask_steward_fabricSt (n : Nat) (f : Task → Task) (s : State) : (modTask n f s).steward.fabricSt = s.steward.fabricSt := rfl
@[simp] theorem modTask_steward_standby (n : Nat) (f : Task → Task) (s : State) : (modTask n f s).steward.standby = s.steward.standby := rfl
@[simp] theorem modTask_steward_up (n : Nat) (f : Task → Task) (s : State) : (modTask n f s).steward.up = s.steward.up := rfl
@[simp] theorem modTask_steward_mboxes (n : Nat) (f : Task → Task) (s : State) : (modTask n f s).steward.mboxes = s.steward.mboxes := rfl
@[simp] theorem modTask_steward_staged (n : Nat) (f : Task → Task) (s : State) : (modTask n f s).steward.staged = s.steward.staged := rfl
@[simp] theorem modTask_steward_taken (n : Nat) (f : Task → Task) (s : State) : (modTask n f s).steward.taken = s.steward.taken := rfl
@[simp] theorem modTask_steward_copies (n : Nat) (f : Task → Task) (s : State) : (modTask n f s).steward.copies = s.steward.copies := rfl
@[simp] theorem modTask_steward_closes (n : Nat) (f : Task → Task) (s : State) : (modTask n f s).steward.closes = s.steward.closes := rfl
@[simp] theorem modTask_steward_loads (n : Nat) (f : Task → Task) (s : State) : (modTask n f s).steward.loads = s.steward.loads := rfl
@[simp] theorem modTask_steward_ctxs (n : Nat) (f : Task → Task) (s : State) : (modTask n f s).steward.ctxs = s.steward.ctxs := rfl
@[simp] theorem modTask_steward_queues (n : Nat) (f : Task → Task) (s : State) : (modTask n f s).steward.queues = s.steward.queues := rfl
@[simp] theorem modTask_steward_fences (n : Nat) (f : Task → Task) (s : State) : (modTask n f s).steward.fences = s.steward.fences := rfl
@[simp] theorem modTask_steward_images (n : Nat) (f : Task → Task) (s : State) : (modTask n f s).steward.images = s.steward.images := rfl
@[simp] theorem modTask_steward_nextTask (n : Nat) (f : Task → Task) (s : State) : (modTask n f s).steward.nextTask = s.steward.nextTask := rfl
@[simp] theorem modTask_steward_nextImage (n : Nat) (f : Task → Task) (s : State) : (modTask n f s).steward.nextImage = s.steward.nextImage := rfl
@[simp] theorem modTask_steward_elig (n : Nat) (f : Task → Task) (s : State) : (modTask n f s).steward.elig = s.steward.elig := rfl
@[simp] theorem modTask_steward_serial (n : Nat) (f : Task → Task) (s : State) : (modTask n f s).steward.serial = s.steward.serial := rfl
@[simp] theorem modTask_steward_keyHash (n : Nat) (f : Task → Task) (s : State) : (modTask n f s).steward.keyHash = s.steward.keyHash := rfl
@[simp] theorem modTask_steward_intStatus (n : Nat) (f : Task → Task) (s : State) : (modTask n f s).steward.intStatus = s.steward.intStatus := rfl
@[simp] theorem modTask_steward_intEnable (n : Nat) (f : Task → Task) (s : State) : (modTask n f s).steward.intEnable = s.steward.intEnable := rfl
@[simp] theorem modHatch_params (c : Nat) (f : Hatch → Hatch) (s : State) : (modHatch c f s).params = s.params := rfl
@[simp] theorem modHatch_pending (c : Nat) (f : Hatch → Hatch) (s : State) : (modHatch c f s).pending = s.pending := rfl
@[simp] theorem modHatch_freeCtr (c : Nat) (f : Hatch → Hatch) (s : State) : (modHatch c f s).freeCtr = s.freeCtr := rfl
@[simp] theorem modHatch_store (c : Nat) (f : Hatch → Hatch) (s : State) : (modHatch c f s).store = s.store := rfl
@[simp] theorem modHatch_rooms (c : Nat) (f : Hatch → Hatch) (s : State) : (modHatch c f s).rooms = s.rooms := rfl
@[simp] theorem modHatch_offered (c : Nat) (f : Hatch → Hatch) (s : State) : (modHatch c f s).offered = s.offered := rfl
@[simp] theorem modHatch_defects (c : Nat) (f : Hatch → Hatch) (s : State) : (modHatch c f s).defects = s.defects := rfl
@[simp] theorem modHatch_steward (c : Nat) (f : Hatch → Hatch) (s : State) : (modHatch c f s).steward = s.steward := rfl
@[simp] theorem modHatch_host (c : Nat) (f : Hatch → Hatch) (s : State) : (modHatch c f s).host = s.host := rfl
@[simp] theorem modHatch_side (c : Nat) (f : Hatch → Hatch) (s : State) : (modHatch c f s).side = s.side := rfl
@[simp] theorem modHatch_fabric (c : Nat) (f : Hatch → Hatch) (s : State) : (modHatch c f s).fabric = s.fabric := rfl
@[simp] theorem modHatch_links (c : Nat) (f : Hatch → Hatch) (s : State) : (modHatch c f s).links = s.links := rfl
@[simp] theorem modHatch_time (c : Nat) (f : Hatch → Hatch) (s : State) : (modHatch c f s).time = s.time := rfl
@[simp] theorem modHatch_pace (c : Nat) (f : Hatch → Hatch) (s : State) : (modHatch c f s).pace = s.pace := rfl
@[simp] theorem modHatch_power (c : Nat) (f : Hatch → Hatch) (s : State) : (modHatch c f s).power = s.power := rfl
@[simp] theorem modHatch_health (c : Nat) (f : Hatch → Hatch) (s : State) : (modHatch c f s).health = s.health := rfl
@[simp] theorem modHatch_seq (c : Nat) (f : Hatch → Hatch) (s : State) : (modHatch c f s).seq = s.seq := rfl
@[simp] theorem modHatch_shell_disable (c : Nat) (f : Hatch → Hatch) (s : State) : (modHatch c f s).shell.disable = s.shell.disable := rfl
@[simp] theorem modHatch_shell_turn (c : Nat) (f : Hatch → Hatch) (s : State) : (modHatch c f s).shell.turn = s.shell.turn := rfl
@[simp] theorem modHatch_shell_ports (c : Nat) (f : Hatch → Hatch) (s : State) : (modHatch c f s).shell.ports = s.shell.ports := rfl
@[simp] theorem modHatch_shell_flushes (c : Nat) (f : Hatch → Hatch) (s : State) : (modHatch c f s).shell.flushes = s.shell.flushes := rfl
@[simp] theorem modHatch_shell_keep (c : Nat) (f : Hatch → Hatch) (s : State) : (modHatch c f s).shell.keep = s.shell.keep := rfl
@[simp] theorem modHatch_shell_snap (c : Nat) (f : Hatch → Hatch) (s : State) : (modHatch c f s).shell.snap = s.shell.snap := rfl
@[simp] theorem modKeep_params (f : Keep → Keep) (s : State) : (modKeep f s).params = s.params := rfl
@[simp] theorem modKeep_pending (f : Keep → Keep) (s : State) : (modKeep f s).pending = s.pending := rfl
@[simp] theorem modKeep_freeCtr (f : Keep → Keep) (s : State) : (modKeep f s).freeCtr = s.freeCtr := rfl
@[simp] theorem modKeep_store (f : Keep → Keep) (s : State) : (modKeep f s).store = s.store := rfl
@[simp] theorem modKeep_rooms (f : Keep → Keep) (s : State) : (modKeep f s).rooms = s.rooms := rfl
@[simp] theorem modKeep_offered (f : Keep → Keep) (s : State) : (modKeep f s).offered = s.offered := rfl
@[simp] theorem modKeep_defects (f : Keep → Keep) (s : State) : (modKeep f s).defects = s.defects := rfl
@[simp] theorem modKeep_steward (f : Keep → Keep) (s : State) : (modKeep f s).steward = s.steward := rfl
@[simp] theorem modKeep_host (f : Keep → Keep) (s : State) : (modKeep f s).host = s.host := rfl
@[simp] theorem modKeep_side (f : Keep → Keep) (s : State) : (modKeep f s).side = s.side := rfl
@[simp] theorem modKeep_fabric (f : Keep → Keep) (s : State) : (modKeep f s).fabric = s.fabric := rfl
@[simp] theorem modKeep_links (f : Keep → Keep) (s : State) : (modKeep f s).links = s.links := rfl
@[simp] theorem modKeep_time (f : Keep → Keep) (s : State) : (modKeep f s).time = s.time := rfl
@[simp] theorem modKeep_pace (f : Keep → Keep) (s : State) : (modKeep f s).pace = s.pace := rfl
@[simp] theorem modKeep_power (f : Keep → Keep) (s : State) : (modKeep f s).power = s.power := rfl
@[simp] theorem modKeep_health (f : Keep → Keep) (s : State) : (modKeep f s).health = s.health := rfl
@[simp] theorem modKeep_seq (f : Keep → Keep) (s : State) : (modKeep f s).seq = s.seq := rfl
@[simp] theorem modKeep_shell_hatch (f : Keep → Keep) (s : State) : (modKeep f s).shell.hatch = s.shell.hatch := rfl
@[simp] theorem modKeep_shell_disable (f : Keep → Keep) (s : State) : (modKeep f s).shell.disable = s.shell.disable := rfl
@[simp] theorem modKeep_shell_turn (f : Keep → Keep) (s : State) : (modKeep f s).shell.turn = s.shell.turn := rfl
@[simp] theorem modKeep_shell_ports (f : Keep → Keep) (s : State) : (modKeep f s).shell.ports = s.shell.ports := rfl
@[simp] theorem modKeep_shell_flushes (f : Keep → Keep) (s : State) : (modKeep f s).shell.flushes = s.shell.flushes := rfl
@[simp] theorem modKeep_shell_snap (f : Keep → Keep) (s : State) : (modKeep f s).shell.snap = s.shell.snap := rfl
@[simp] theorem modSnap_params (f : Snap → Snap) (s : State) : (modSnap f s).params = s.params := rfl
@[simp] theorem modSnap_pending (f : Snap → Snap) (s : State) : (modSnap f s).pending = s.pending := rfl
@[simp] theorem modSnap_freeCtr (f : Snap → Snap) (s : State) : (modSnap f s).freeCtr = s.freeCtr := rfl
@[simp] theorem modSnap_store (f : Snap → Snap) (s : State) : (modSnap f s).store = s.store := rfl
@[simp] theorem modSnap_rooms (f : Snap → Snap) (s : State) : (modSnap f s).rooms = s.rooms := rfl
@[simp] theorem modSnap_offered (f : Snap → Snap) (s : State) : (modSnap f s).offered = s.offered := rfl
@[simp] theorem modSnap_defects (f : Snap → Snap) (s : State) : (modSnap f s).defects = s.defects := rfl
@[simp] theorem modSnap_steward (f : Snap → Snap) (s : State) : (modSnap f s).steward = s.steward := rfl
@[simp] theorem modSnap_host (f : Snap → Snap) (s : State) : (modSnap f s).host = s.host := rfl
@[simp] theorem modSnap_side (f : Snap → Snap) (s : State) : (modSnap f s).side = s.side := rfl
@[simp] theorem modSnap_fabric (f : Snap → Snap) (s : State) : (modSnap f s).fabric = s.fabric := rfl
@[simp] theorem modSnap_links (f : Snap → Snap) (s : State) : (modSnap f s).links = s.links := rfl
@[simp] theorem modSnap_time (f : Snap → Snap) (s : State) : (modSnap f s).time = s.time := rfl
@[simp] theorem modSnap_pace (f : Snap → Snap) (s : State) : (modSnap f s).pace = s.pace := rfl
@[simp] theorem modSnap_power (f : Snap → Snap) (s : State) : (modSnap f s).power = s.power := rfl
@[simp] theorem modSnap_health (f : Snap → Snap) (s : State) : (modSnap f s).health = s.health := rfl
@[simp] theorem modSnap_seq (f : Snap → Snap) (s : State) : (modSnap f s).seq = s.seq := rfl
@[simp] theorem modSnap_shell_hatch (f : Snap → Snap) (s : State) : (modSnap f s).shell.hatch = s.shell.hatch := rfl
@[simp] theorem modSnap_shell_disable (f : Snap → Snap) (s : State) : (modSnap f s).shell.disable = s.shell.disable := rfl
@[simp] theorem modSnap_shell_turn (f : Snap → Snap) (s : State) : (modSnap f s).shell.turn = s.shell.turn := rfl
@[simp] theorem modSnap_shell_ports (f : Snap → Snap) (s : State) : (modSnap f s).shell.ports = s.shell.ports := rfl
@[simp] theorem modSnap_shell_flushes (f : Snap → Snap) (s : State) : (modSnap f s).shell.flushes = s.shell.flushes := rfl
@[simp] theorem modSnap_shell_keep (f : Snap → Snap) (s : State) : (modSnap f s).shell.keep = s.shell.keep := rfl
@[simp] theorem putPort_params (g p : Nat) (x : Port) (s : State) : (putPort g p x s).params = s.params := rfl
@[simp] theorem putPort_pending (g p : Nat) (x : Port) (s : State) : (putPort g p x s).pending = s.pending := rfl
@[simp] theorem putPort_freeCtr (g p : Nat) (x : Port) (s : State) : (putPort g p x s).freeCtr = s.freeCtr := rfl
@[simp] theorem putPort_store (g p : Nat) (x : Port) (s : State) : (putPort g p x s).store = s.store := rfl
@[simp] theorem putPort_rooms (g p : Nat) (x : Port) (s : State) : (putPort g p x s).rooms = s.rooms := rfl
@[simp] theorem putPort_offered (g p : Nat) (x : Port) (s : State) : (putPort g p x s).offered = s.offered := rfl
@[simp] theorem putPort_defects (g p : Nat) (x : Port) (s : State) : (putPort g p x s).defects = s.defects := rfl
@[simp] theorem putPort_steward (g p : Nat) (x : Port) (s : State) : (putPort g p x s).steward = s.steward := rfl
@[simp] theorem putPort_host (g p : Nat) (x : Port) (s : State) : (putPort g p x s).host = s.host := rfl
@[simp] theorem putPort_side (g p : Nat) (x : Port) (s : State) : (putPort g p x s).side = s.side := rfl
@[simp] theorem putPort_shell (g p : Nat) (x : Port) (s : State) : (putPort g p x s).shell = s.shell := rfl
@[simp] theorem putPort_fabric (g p : Nat) (x : Port) (s : State) : (putPort g p x s).fabric = s.fabric := rfl
@[simp] theorem putPort_time (g p : Nat) (x : Port) (s : State) : (putPort g p x s).time = s.time := rfl
@[simp] theorem putPort_pace (g p : Nat) (x : Port) (s : State) : (putPort g p x s).pace = s.pace := rfl
@[simp] theorem putPort_power (g p : Nat) (x : Port) (s : State) : (putPort g p x s).power = s.power := rfl
@[simp] theorem putPort_health (g p : Nat) (x : Port) (s : State) : (putPort g p x s).health = s.health := rfl
@[simp] theorem putPort_seq (g p : Nat) (x : Port) (s : State) : (putPort g p x s).seq = s.seq := rfl
@[simp] theorem modPort_params (g p : Nat) (f : Port → Port) (s : State) : (modPort g p f s).params = s.params := rfl
@[simp] theorem modPort_pending (g p : Nat) (f : Port → Port) (s : State) : (modPort g p f s).pending = s.pending := rfl
@[simp] theorem modPort_freeCtr (g p : Nat) (f : Port → Port) (s : State) : (modPort g p f s).freeCtr = s.freeCtr := rfl
@[simp] theorem modPort_store (g p : Nat) (f : Port → Port) (s : State) : (modPort g p f s).store = s.store := rfl
@[simp] theorem modPort_rooms (g p : Nat) (f : Port → Port) (s : State) : (modPort g p f s).rooms = s.rooms := rfl
@[simp] theorem modPort_offered (g p : Nat) (f : Port → Port) (s : State) : (modPort g p f s).offered = s.offered := rfl
@[simp] theorem modPort_defects (g p : Nat) (f : Port → Port) (s : State) : (modPort g p f s).defects = s.defects := rfl
@[simp] theorem modPort_steward (g p : Nat) (f : Port → Port) (s : State) : (modPort g p f s).steward = s.steward := rfl
@[simp] theorem modPort_host (g p : Nat) (f : Port → Port) (s : State) : (modPort g p f s).host = s.host := rfl
@[simp] theorem modPort_side (g p : Nat) (f : Port → Port) (s : State) : (modPort g p f s).side = s.side := rfl
@[simp] theorem modPort_shell (g p : Nat) (f : Port → Port) (s : State) : (modPort g p f s).shell = s.shell := rfl
@[simp] theorem modPort_fabric (g p : Nat) (f : Port → Port) (s : State) : (modPort g p f s).fabric = s.fabric := rfl
@[simp] theorem modPort_time (g p : Nat) (f : Port → Port) (s : State) : (modPort g p f s).time = s.time := rfl
@[simp] theorem modPort_pace (g p : Nat) (f : Port → Port) (s : State) : (modPort g p f s).pace = s.pace := rfl
@[simp] theorem modPort_power (g p : Nat) (f : Port → Port) (s : State) : (modPort g p f s).power = s.power := rfl
@[simp] theorem modPort_health (g p : Nat) (f : Port → Port) (s : State) : (modPort g p f s).health = s.health := rfl
@[simp] theorem modPort_seq (g p : Nat) (f : Port → Port) (s : State) : (modPort g p f s).seq = s.seq := rfl
@[simp] theorem modHall_params (h : Nat) (f : HallPow → HallPow) (s : State) : (modHall h f s).params = s.params := rfl
@[simp] theorem modHall_pending (h : Nat) (f : HallPow → HallPow) (s : State) : (modHall h f s).pending = s.pending := rfl
@[simp] theorem modHall_freeCtr (h : Nat) (f : HallPow → HallPow) (s : State) : (modHall h f s).freeCtr = s.freeCtr := rfl
@[simp] theorem modHall_store (h : Nat) (f : HallPow → HallPow) (s : State) : (modHall h f s).store = s.store := rfl
@[simp] theorem modHall_rooms (h : Nat) (f : HallPow → HallPow) (s : State) : (modHall h f s).rooms = s.rooms := rfl
@[simp] theorem modHall_offered (h : Nat) (f : HallPow → HallPow) (s : State) : (modHall h f s).offered = s.offered := rfl
@[simp] theorem modHall_defects (h : Nat) (f : HallPow → HallPow) (s : State) : (modHall h f s).defects = s.defects := rfl
@[simp] theorem modHall_steward (h : Nat) (f : HallPow → HallPow) (s : State) : (modHall h f s).steward = s.steward := rfl
@[simp] theorem modHall_host (h : Nat) (f : HallPow → HallPow) (s : State) : (modHall h f s).host = s.host := rfl
@[simp] theorem modHall_side (h : Nat) (f : HallPow → HallPow) (s : State) : (modHall h f s).side = s.side := rfl
@[simp] theorem modHall_shell (h : Nat) (f : HallPow → HallPow) (s : State) : (modHall h f s).shell = s.shell := rfl
@[simp] theorem modHall_fabric (h : Nat) (f : HallPow → HallPow) (s : State) : (modHall h f s).fabric = s.fabric := rfl
@[simp] theorem modHall_links (h : Nat) (f : HallPow → HallPow) (s : State) : (modHall h f s).links = s.links := rfl
@[simp] theorem modHall_time (h : Nat) (f : HallPow → HallPow) (s : State) : (modHall h f s).time = s.time := rfl
@[simp] theorem modHall_pace (h : Nat) (f : HallPow → HallPow) (s : State) : (modHall h f s).pace = s.pace := rfl
@[simp] theorem modHall_health (h : Nat) (f : HallPow → HallPow) (s : State) : (modHall h f s).health = s.health := rfl
@[simp] theorem modHall_seq (h : Nat) (f : HallPow → HallPow) (s : State) : (modHall h f s).seq = s.seq := rfl
@[simp] theorem modMap_params (f : Mapping → Mapping) (s : State) : (modMap f s).params = s.params := rfl
@[simp] theorem modMap_pending (f : Mapping → Mapping) (s : State) : (modMap f s).pending = s.pending := rfl
@[simp] theorem modMap_freeCtr (f : Mapping → Mapping) (s : State) : (modMap f s).freeCtr = s.freeCtr := rfl
@[simp] theorem modMap_store (f : Mapping → Mapping) (s : State) : (modMap f s).store = s.store := rfl
@[simp] theorem modMap_rooms (f : Mapping → Mapping) (s : State) : (modMap f s).rooms = s.rooms := rfl
@[simp] theorem modMap_offered (f : Mapping → Mapping) (s : State) : (modMap f s).offered = s.offered := rfl
@[simp] theorem modMap_defects (f : Mapping → Mapping) (s : State) : (modMap f s).defects = s.defects := rfl
@[simp] theorem modMap_steward (f : Mapping → Mapping) (s : State) : (modMap f s).steward = s.steward := rfl
@[simp] theorem modMap_host (f : Mapping → Mapping) (s : State) : (modMap f s).host = s.host := rfl
@[simp] theorem modMap_side (f : Mapping → Mapping) (s : State) : (modMap f s).side = s.side := rfl
@[simp] theorem modMap_shell (f : Mapping → Mapping) (s : State) : (modMap f s).shell = s.shell := rfl
@[simp] theorem modMap_fabric (f : Mapping → Mapping) (s : State) : (modMap f s).fabric = s.fabric := rfl
@[simp] theorem modMap_links (f : Mapping → Mapping) (s : State) : (modMap f s).links = s.links := rfl
@[simp] theorem modMap_time (f : Mapping → Mapping) (s : State) : (modMap f s).time = s.time := rfl
@[simp] theorem modMap_pace (f : Mapping → Mapping) (s : State) : (modMap f s).pace = s.pace := rfl
@[simp] theorem modMap_power (f : Mapping → Mapping) (s : State) : (modMap f s).power = s.power := rfl
@[simp] theorem modMap_seq (f : Mapping → Mapping) (s : State) : (modMap f s).seq = s.seq := rfl
@[simp] theorem modUnit_params (k i : Nat) (f : UnitRec → UnitRec) (s : State) : (modUnit k i f s).params = s.params := rfl
@[simp] theorem modUnit_pending (k i : Nat) (f : UnitRec → UnitRec) (s : State) : (modUnit k i f s).pending = s.pending := rfl
@[simp] theorem modUnit_freeCtr (k i : Nat) (f : UnitRec → UnitRec) (s : State) : (modUnit k i f s).freeCtr = s.freeCtr := rfl
@[simp] theorem modUnit_store (k i : Nat) (f : UnitRec → UnitRec) (s : State) : (modUnit k i f s).store = s.store := rfl
@[simp] theorem modUnit_rooms (k i : Nat) (f : UnitRec → UnitRec) (s : State) : (modUnit k i f s).rooms = s.rooms := rfl
@[simp] theorem modUnit_offered (k i : Nat) (f : UnitRec → UnitRec) (s : State) : (modUnit k i f s).offered = s.offered := rfl
@[simp] theorem modUnit_defects (k i : Nat) (f : UnitRec → UnitRec) (s : State) : (modUnit k i f s).defects = s.defects := rfl
@[simp] theorem modUnit_steward (k i : Nat) (f : UnitRec → UnitRec) (s : State) : (modUnit k i f s).steward = s.steward := rfl
@[simp] theorem modUnit_host (k i : Nat) (f : UnitRec → UnitRec) (s : State) : (modUnit k i f s).host = s.host := rfl
@[simp] theorem modUnit_side (k i : Nat) (f : UnitRec → UnitRec) (s : State) : (modUnit k i f s).side = s.side := rfl
@[simp] theorem modUnit_shell (k i : Nat) (f : UnitRec → UnitRec) (s : State) : (modUnit k i f s).shell = s.shell := rfl
@[simp] theorem modUnit_fabric (k i : Nat) (f : UnitRec → UnitRec) (s : State) : (modUnit k i f s).fabric = s.fabric := rfl
@[simp] theorem modUnit_links (k i : Nat) (f : UnitRec → UnitRec) (s : State) : (modUnit k i f s).links = s.links := rfl
@[simp] theorem modUnit_time (k i : Nat) (f : UnitRec → UnitRec) (s : State) : (modUnit k i f s).time = s.time := rfl
@[simp] theorem modUnit_pace (k i : Nat) (f : UnitRec → UnitRec) (s : State) : (modUnit k i f s).pace = s.pace := rfl
@[simp] theorem modUnit_power (k i : Nat) (f : UnitRec → UnitRec) (s : State) : (modUnit k i f s).power = s.power := rfl
@[simp] theorem modUnit_seq (k i : Nat) (f : UnitRec → UnitRec) (s : State) : (modUnit k i f s).seq = s.seq := rfl
@[simp] theorem modPin_params (p : Nat) (f : Pin → Pin) (s : State) : (modPin p f s).params = s.params := rfl
@[simp] theorem modPin_pending (p : Nat) (f : Pin → Pin) (s : State) : (modPin p f s).pending = s.pending := rfl
@[simp] theorem modPin_freeCtr (p : Nat) (f : Pin → Pin) (s : State) : (modPin p f s).freeCtr = s.freeCtr := rfl
@[simp] theorem modPin_store (p : Nat) (f : Pin → Pin) (s : State) : (modPin p f s).store = s.store := rfl
@[simp] theorem modPin_rooms (p : Nat) (f : Pin → Pin) (s : State) : (modPin p f s).rooms = s.rooms := rfl
@[simp] theorem modPin_offered (p : Nat) (f : Pin → Pin) (s : State) : (modPin p f s).offered = s.offered := rfl
@[simp] theorem modPin_defects (p : Nat) (f : Pin → Pin) (s : State) : (modPin p f s).defects = s.defects := rfl
@[simp] theorem modPin_steward (p : Nat) (f : Pin → Pin) (s : State) : (modPin p f s).steward = s.steward := rfl
@[simp] theorem modPin_host (p : Nat) (f : Pin → Pin) (s : State) : (modPin p f s).host = s.host := rfl
@[simp] theorem modPin_shell (p : Nat) (f : Pin → Pin) (s : State) : (modPin p f s).shell = s.shell := rfl
@[simp] theorem modPin_fabric (p : Nat) (f : Pin → Pin) (s : State) : (modPin p f s).fabric = s.fabric := rfl
@[simp] theorem modPin_links (p : Nat) (f : Pin → Pin) (s : State) : (modPin p f s).links = s.links := rfl
@[simp] theorem modPin_time (p : Nat) (f : Pin → Pin) (s : State) : (modPin p f s).time = s.time := rfl
@[simp] theorem modPin_pace (p : Nat) (f : Pin → Pin) (s : State) : (modPin p f s).pace = s.pace := rfl
@[simp] theorem modPin_power (p : Nat) (f : Pin → Pin) (s : State) : (modPin p f s).power = s.power := rfl
@[simp] theorem modPin_health (p : Nat) (f : Pin → Pin) (s : State) : (modPin p f s).health = s.health := rfl
@[simp] theorem modPin_seq (p : Nat) (f : Pin → Pin) (s : State) : (modPin p f s).seq = s.seq := rfl
@[simp] theorem modCtx_params (c : Nat) (f : Ctx → Ctx) (s : State) : (modCtx c f s).params = s.params := by unfold modCtx; split <;> rfl
@[simp] theorem modCtx_pending (c : Nat) (f : Ctx → Ctx) (s : State) : (modCtx c f s).pending = s.pending := by unfold modCtx; split <;> rfl
@[simp] theorem modCtx_freeCtr (c : Nat) (f : Ctx → Ctx) (s : State) : (modCtx c f s).freeCtr = s.freeCtr := by unfold modCtx; split <;> rfl
@[simp] theorem modCtx_store (c : Nat) (f : Ctx → Ctx) (s : State) : (modCtx c f s).store = s.store := by unfold modCtx; split <;> rfl
@[simp] theorem modCtx_rooms (c : Nat) (f : Ctx → Ctx) (s : State) : (modCtx c f s).rooms = s.rooms := by unfold modCtx; split <;> rfl
@[simp] theorem modCtx_offered (c : Nat) (f : Ctx → Ctx) (s : State) : (modCtx c f s).offered = s.offered := by unfold modCtx; split <;> rfl
@[simp] theorem modCtx_defects (c : Nat) (f : Ctx → Ctx) (s : State) : (modCtx c f s).defects = s.defects := by unfold modCtx; split <;> rfl
@[simp] theorem modCtx_host (c : Nat) (f : Ctx → Ctx) (s : State) : (modCtx c f s).host = s.host := by unfold modCtx; split <;> rfl
@[simp] theorem modCtx_side (c : Nat) (f : Ctx → Ctx) (s : State) : (modCtx c f s).side = s.side := by unfold modCtx; split <;> rfl
@[simp] theorem modCtx_shell (c : Nat) (f : Ctx → Ctx) (s : State) : (modCtx c f s).shell = s.shell := by unfold modCtx; split <;> rfl
@[simp] theorem modCtx_fabric (c : Nat) (f : Ctx → Ctx) (s : State) : (modCtx c f s).fabric = s.fabric := by unfold modCtx; split <;> rfl
@[simp] theorem modCtx_links (c : Nat) (f : Ctx → Ctx) (s : State) : (modCtx c f s).links = s.links := by unfold modCtx; split <;> rfl
@[simp] theorem modCtx_time (c : Nat) (f : Ctx → Ctx) (s : State) : (modCtx c f s).time = s.time := by unfold modCtx; split <;> rfl
@[simp] theorem modCtx_pace (c : Nat) (f : Ctx → Ctx) (s : State) : (modCtx c f s).pace = s.pace := by unfold modCtx; split <;> rfl
@[simp] theorem modCtx_power (c : Nat) (f : Ctx → Ctx) (s : State) : (modCtx c f s).power = s.power := by unfold modCtx; split <;> rfl
@[simp] theorem modCtx_health (c : Nat) (f : Ctx → Ctx) (s : State) : (modCtx c f s).health = s.health := by unfold modCtx; split <;> rfl
@[simp] theorem modCtx_seq (c : Nat) (f : Ctx → Ctx) (s : State) : (modCtx c f s).seq = s.seq := by unfold modCtx; split <;> rfl
@[simp] theorem modCtx_steward_phase (c : Nat) (f : Ctx → Ctx) (s : State) : (modCtx c f s).steward.phase = s.steward.phase := by unfold modCtx; split <;> rfl
@[simp] theorem modCtx_steward_healthSt (c : Nat) (f : Ctx → Ctx) (s : State) : (modCtx c f s).steward.healthSt = s.steward.healthSt := by unfold modCtx; split <;> rfl
@[simp] theorem modCtx_steward_fabricSt (c : Nat) (f : Ctx → Ctx) (s : State) : (modCtx c f s).steward.fabricSt = s.steward.fabricSt := by unfold modCtx; split <;> rfl
@[simp] theorem modCtx_steward_standby (c : Nat) (f : Ctx → Ctx) (s : State) : (modCtx c f s).steward.standby = s.steward.standby := by unfold modCtx; split <;> rfl
@[simp] theorem modCtx_steward_up (c : Nat) (f : Ctx → Ctx) (s : State) : (modCtx c f s).steward.up = s.steward.up := by unfold modCtx; split <;> rfl
@[simp] theorem modCtx_steward_mboxes (c : Nat) (f : Ctx → Ctx) (s : State) : (modCtx c f s).steward.mboxes = s.steward.mboxes := by unfold modCtx; split <;> rfl
@[simp] theorem modCtx_steward_staged (c : Nat) (f : Ctx → Ctx) (s : State) : (modCtx c f s).steward.staged = s.steward.staged := by unfold modCtx; split <;> rfl
@[simp] theorem modCtx_steward_queues (c : Nat) (f : Ctx → Ctx) (s : State) : (modCtx c f s).steward.queues = s.steward.queues := by unfold modCtx; split <;> rfl
@[simp] theorem modCtx_steward_fences (c : Nat) (f : Ctx → Ctx) (s : State) : (modCtx c f s).steward.fences = s.steward.fences := by unfold modCtx; split <;> rfl
@[simp] theorem modCtx_steward_images (c : Nat) (f : Ctx → Ctx) (s : State) : (modCtx c f s).steward.images = s.steward.images := by unfold modCtx; split <;> rfl
@[simp] theorem modCtx_steward_tasks (c : Nat) (f : Ctx → Ctx) (s : State) : (modCtx c f s).steward.tasks = s.steward.tasks := by unfold modCtx; split <;> rfl
@[simp] theorem modCtx_steward_nextTask (c : Nat) (f : Ctx → Ctx) (s : State) : (modCtx c f s).steward.nextTask = s.steward.nextTask := by unfold modCtx; split <;> rfl
@[simp] theorem modCtx_steward_nextImage (c : Nat) (f : Ctx → Ctx) (s : State) : (modCtx c f s).steward.nextImage = s.steward.nextImage := by unfold modCtx; split <;> rfl
@[simp] theorem modCtx_steward_elig (c : Nat) (f : Ctx → Ctx) (s : State) : (modCtx c f s).steward.elig = s.steward.elig := by unfold modCtx; split <;> rfl
@[simp] theorem modCtx_steward_serial (c : Nat) (f : Ctx → Ctx) (s : State) : (modCtx c f s).steward.serial = s.steward.serial := by unfold modCtx; split <;> rfl
@[simp] theorem modCtx_steward_keyHash (c : Nat) (f : Ctx → Ctx) (s : State) : (modCtx c f s).steward.keyHash = s.steward.keyHash := by unfold modCtx; split <;> rfl
@[simp] theorem modCtx_steward_intStatus (c : Nat) (f : Ctx → Ctx) (s : State) : (modCtx c f s).steward.intStatus = s.steward.intStatus := by unfold modCtx; split <;> rfl
@[simp] theorem modCtx_steward_intEnable (c : Nat) (f : Ctx → Ctx) (s : State) : (modCtx c f s).steward.intEnable = s.steward.intEnable := by unfold modCtx; split <;> rfl

/-! What is read back. -/

@[simp] theorem roomOf_modRoom (r : Nat) (f : Room → Room) (s : State) : roomOf (modRoom r f s) r = f (roomOf s r) := by
  simp [roomOf, modRoom, tabGet_mod]

theorem roomOf_modRoom_ne {r k : Nat} (h : k ≠ r) (f : Room → Room) (s : State) : roomOf (modRoom r f s) k = roomOf s k := by
  simp [roomOf, modRoom, tabGet_mod, Ne.symm h]

@[simp] theorem mbox_modMbox (m : Nat) (f : Mailbox → Mailbox) (s : State) : mbox (modMbox m f s) m = f (mbox s m) := by
  simp [mbox, modMbox, tabGet_mod]

theorem mbox_modMbox_ne {m k : Nat} (h : k ≠ m) (f : Mailbox → Mailbox) (s : State) : mbox (modMbox m f s) k = mbox s k := by
  simp [mbox, modMbox, tabGet_mod, Ne.symm h]

@[simp] theorem hatchOf_modHatch (c : Nat) (f : Hatch → Hatch) (s : State) : hatchOf (modHatch c f s) c = f (hatchOf s c) := by
  simp [hatchOf, modHatch, modShell, tabGet_mod]

@[simp] theorem portOf_putPort (g p : Nat) (x : Port) (s : State) : portOf (putPort g p x s) g p = x := by
  simp [portOf, putPort, tabGet_put]

@[simp] theorem portOf_modPort (g p : Nat) (f : Port → Port) (s : State) : portOf (modPort g p f s) g p = f (portOf s g p) := by
  simp [modPort]

@[simp] theorem ctxOf_modCtx {c : Nat} (h : c ≠ 0) (f : Ctx → Ctx) (s : State) : ctxOf (modCtx c f s) c = f (ctxOf s c) := by
  simp [ctxOf, modCtx, h, tabGet_mod]

theorem roomOf_of_rooms {s t : State} (h : t.rooms = s.rooms) (r : Nat) : roomOf t r = roomOf s r := by simp [roomOf, h]
theorem mbox_of_mboxes {s t : State} (h : t.steward.mboxes = s.steward.mboxes) (m : Nat) : mbox t m = mbox s m := by simp [mbox, h]

/-! What a frame says of each field. -/

variable {P : Part → Prop} {s t : State}

theorem changesOnly.params (h : changesOnly P s t) (hp : ¬ P .params) : t.params = s.params := h.same _ hp
theorem changesOnly.pending (h : changesOnly P s t) (hp : ¬ P .pending) : t.pending = s.pending := h.same _ hp
theorem changesOnly.freeCtr (h : changesOnly P s t) (hp : ¬ P .freeCtr) : t.freeCtr = s.freeCtr := h.same _ hp
theorem changesOnly.store (h : changesOnly P s t) (hp : ¬ P .store) : t.store = s.store := h.same _ hp
theorem changesOnly.rooms (h : changesOnly P s t) (hp : ¬ P .rooms) : t.rooms = s.rooms := h.same _ hp
theorem changesOnly.offered (h : changesOnly P s t) (hp : ¬ P .offered) : t.offered = s.offered := h.same _ hp
theorem changesOnly.defects (h : changesOnly P s t) (hp : ¬ P .defects) : t.defects = s.defects := h.same _ hp
theorem changesOnly.steward_phase (h : changesOnly P s t) (hp : ¬ P .phase) : t.steward.phase = s.steward.phase := h.same _ hp
theorem changesOnly.steward_healthSt (h : changesOnly P s t) (hp : ¬ P .healthSt) : t.steward.healthSt = s.steward.healthSt := h.same _ hp
theorem changesOnly.steward_fabricSt (h : changesOnly P s t) (hp : ¬ P .fabricSt) : t.steward.fabricSt = s.steward.fabricSt := h.same _ hp
theorem changesOnly.steward_standby (h : changesOnly P s t) (hp : ¬ P .serving) : t.steward.standby = s.steward.standby := (h.same _ hp).1
theorem changesOnly.steward_up (h : changesOnly P s t) (hp : ¬ P .serving) : t.steward.up = s.steward.up := (h.same _ hp).2
theorem changesOnly.steward_mboxes (h : changesOnly P s t) (hp : ¬ P .mboxes) : t.steward.mboxes = s.steward.mboxes := (h.same _ hp).1
theorem changesOnly.steward_taken (h : changesOnly P s t) (hp : ¬ P .mboxes) : t.steward.taken = s.steward.taken := (h.same _ hp).2.1
theorem changesOnly.steward_copies (h : changesOnly P s t) (hp : ¬ P .mboxes) : t.steward.copies = s.steward.copies := (h.same _ hp).2.2.1
theorem changesOnly.steward_closes (h : changesOnly P s t) (hp : ¬ P .mboxes) : t.steward.closes = s.steward.closes := (h.same _ hp).2.2.2.1
theorem changesOnly.steward_loads (h : changesOnly P s t) (hp : ¬ P .mboxes) : t.steward.loads = s.steward.loads := (h.same _ hp).2.2.2.2
theorem changesOnly.steward_staged (h : changesOnly P s t) (hp : ¬ P .staged) : t.steward.staged = s.steward.staged := h.same _ hp
theorem changesOnly.steward_ctxs (h : changesOnly P s t) (hp : ¬ P .ctxs) : t.steward.ctxs = s.steward.ctxs := h.same _ hp
theorem changesOnly.steward_queues (h : changesOnly P s t) (hp : ¬ P .queues) : t.steward.queues = s.steward.queues := h.same _ hp
theorem changesOnly.steward_fences (h : changesOnly P s t) (hp : ¬ P .fences) : t.steward.fences = s.steward.fences := h.same _ hp
theorem changesOnly.steward_images (h : changesOnly P s t) (hp : ¬ P .images) : t.steward.images = s.steward.images := (h.same _ hp).1
theorem changesOnly.steward_nextImage (h : changesOnly P s t) (hp : ¬ P .images) : t.steward.nextImage = s.steward.nextImage := (h.same _ hp).2
theorem changesOnly.steward_tasks (h : changesOnly P s t) (hp : ¬ P .tasks) : t.steward.tasks = s.steward.tasks := (h.same _ hp).1
theorem changesOnly.steward_nextTask (h : changesOnly P s t) (hp : ¬ P .tasks) : t.steward.nextTask = s.steward.nextTask := (h.same _ hp).2.1
theorem changesOnly.steward_elig (h : changesOnly P s t) (hp : ¬ P .tasks) : t.steward.elig = s.steward.elig := (h.same _ hp).2.2
theorem changesOnly.steward_serial (h : changesOnly P s t) (hp : ¬ P .identity) : t.steward.serial = s.steward.serial := (h.same _ hp).1
theorem changesOnly.steward_keyHash (h : changesOnly P s t) (hp : ¬ P .identity) : t.steward.keyHash = s.steward.keyHash := (h.same _ hp).2
theorem changesOnly.steward_intStatus (h : changesOnly P s t) (hp : ¬ P .intStatus) : t.steward.intStatus = s.steward.intStatus := h.same _ hp
theorem changesOnly.steward_intEnable (h : changesOnly P s t) (hp : ¬ P .intEnable) : t.steward.intEnable = s.steward.intEnable := h.same _ hp
theorem changesOnly.host_timeout (h : changesOnly P s t) (hp : ¬ P .timeout) : t.host.timeout = s.host.timeout := h.same _ hp
theorem changesOnly.host_timeouts (h : changesOnly P s t) (hp : ¬ P .hostErrors) : t.host.timeouts = s.host.timeouts := (h.same _ hp).1
theorem changesOnly.host_lateRsp (h : changesOnly P s t) (hp : ¬ P .hostErrors) : t.host.lateRsp = s.host.lateRsp := (h.same _ hp).2.1
theorem changesOnly.host_ferr (h : changesOnly P s t) (hp : ¬ P .hostErrors) : t.host.ferr = s.host.ferr := (h.same _ hp).2.2
theorem changesOnly.host_out (h : changesOnly P s t) (hp : ¬ P .requests) : t.host.out = s.host.out := (h.same _ hp).1
theorem changesOnly.host_late (h : changesOnly P s t) (hp : ¬ P .requests) : t.host.late = s.host.late := (h.same _ hp).2.1
theorem changesOnly.host_waitq (h : changesOnly P s t) (hp : ¬ P .requests) : t.host.waitq = s.host.waitq := (h.same _ hp).2.2
theorem changesOnly.host_credit (h : changesOnly P s t) (hp : ¬ P .messages) : t.host.credit = s.host.credit := (h.same _ hp).1
theorem changesOnly.host_txq (h : changesOnly P s t) (hp : ¬ P .messages) : t.host.txq = s.host.txq := (h.same _ hp).2.1
theorem changesOnly.host_evts (h : changesOnly P s t) (hp : ¬ P .messages) : t.host.evts = s.host.evts := (h.same _ hp).2.2.1
theorem changesOnly.host_sent (h : changesOnly P s t) (hp : ¬ P .messages) : t.host.sent = s.host.sent := (h.same _ hp).2.2.2
theorem changesOnly.host_porch (h : changesOnly P s t) (hp : ¬ P .porch) : t.host.porch = s.host.porch := (h.same _ hp).1
theorem changesOnly.host_held (h : changesOnly P s t) (hp : ¬ P .porch) : t.host.held = s.host.held := (h.same _ hp).2
theorem changesOnly.side (h : changesOnly P s t) (hp : ¬ P .side) : t.side = s.side := h.same _ hp
theorem changesOnly.shell_hatch (h : changesOnly P s t) (hp : ¬ P .hatch) : t.shell.hatch = s.shell.hatch := (h.same _ hp).1
theorem changesOnly.shell_disable (h : changesOnly P s t) (hp : ¬ P .hatch) : t.shell.disable = s.shell.disable := (h.same _ hp).2.1
theorem changesOnly.shell_turn (h : changesOnly P s t) (hp : ¬ P .hatch) : t.shell.turn = s.shell.turn := (h.same _ hp).2.2.1
theorem changesOnly.shell_sentTo (h : changesOnly P s t) (hp : ¬ P .hatch) : t.shell.sentTo = s.shell.sentTo := (h.same _ hp).2.2.2
theorem changesOnly.shell_ports (h : changesOnly P s t) (hp : ¬ P .ports) : t.shell.ports = s.shell.ports := (h.same _ hp).1
theorem changesOnly.shell_flushes (h : changesOnly P s t) (hp : ¬ P .ports) : t.shell.flushes = s.shell.flushes := (h.same _ hp).2
theorem changesOnly.shell_keep (h : changesOnly P s t) (hp : ¬ P .keep) : t.shell.keep = s.shell.keep := h.same _ hp
theorem changesOnly.shell_snap (h : changesOnly P s t) (hp : ¬ P .snap) : t.shell.snap = s.shell.snap := h.same _ hp
theorem changesOnly.fabric (h : changesOnly P s t) (hp : ¬ P .fabric) : t.fabric = s.fabric := h.same _ hp
theorem changesOnly.links (h : changesOnly P s t) (hp : ¬ P .links) : t.links = s.links := h.same _ hp
theorem changesOnly.time (h : changesOnly P s t) (hp : ¬ P .time) : t.time = s.time := h.same _ hp
theorem changesOnly.pace (h : changesOnly P s t) (hp : ¬ P .pace) : t.pace = s.pace := h.same _ hp
theorem changesOnly.power (h : changesOnly P s t) (hp : ¬ P .power) : t.power = s.power := h.same _ hp
theorem changesOnly.health (h : changesOnly P s t) (hp : ¬ P .health) : t.health = s.health := h.same _ hp
theorem changesOnly.seq (h : changesOnly P s t) (hp : ¬ P .seq) : t.seq = s.seq := h.same _ hp

/-! The shared operations: the fields they leave. -/

theorem sendMsg_leaves (a0 : HostMsg) (s : State) : changesOnly (· ∈ ([.messages] : List Part)) s (sendMsg a0 s) :=
  sendMsg_only (by decide) a0 only_refl
@[simp] theorem sendMsg_params (a0 : HostMsg) (s : State) : (sendMsg a0 s).params = s.params := (sendMsg_leaves a0 s).params (by decide)
@[simp] theorem sendMsg_offered (a0 : HostMsg) (s : State) : (sendMsg a0 s).offered = s.offered := (sendMsg_leaves a0 s).offered (by decide)
@[simp] theorem sendMsg_freeCtr (a0 : HostMsg) (s : State) : (sendMsg a0 s).freeCtr = s.freeCtr := (sendMsg_leaves a0 s).freeCtr (by decide)
@[simp] theorem sendMsg_store (a0 : HostMsg) (s : State) : (sendMsg a0 s).store = s.store := (sendMsg_leaves a0 s).store (by decide)
@[simp] theorem sendMsg_rooms (a0 : HostMsg) (s : State) : (sendMsg a0 s).rooms = s.rooms := (sendMsg_leaves a0 s).rooms (by decide)
@[simp] theorem sendMsg_side (a0 : HostMsg) (s : State) : (sendMsg a0 s).side = s.side := (sendMsg_leaves a0 s).side (by decide)
@[simp] theorem sendMsg_fabric (a0 : HostMsg) (s : State) : (sendMsg a0 s).fabric = s.fabric := (sendMsg_leaves a0 s).fabric (by decide)
@[simp] theorem sendMsg_links (a0 : HostMsg) (s : State) : (sendMsg a0 s).links = s.links := (sendMsg_leaves a0 s).links (by decide)
@[simp] theorem sendMsg_time (a0 : HostMsg) (s : State) : (sendMsg a0 s).time = s.time := (sendMsg_leaves a0 s).time (by decide)
@[simp] theorem sendMsg_pace (a0 : HostMsg) (s : State) : (sendMsg a0 s).pace = s.pace := (sendMsg_leaves a0 s).pace (by decide)
@[simp] theorem sendMsg_power (a0 : HostMsg) (s : State) : (sendMsg a0 s).power = s.power := (sendMsg_leaves a0 s).power (by decide)
@[simp] theorem sendMsg_health (a0 : HostMsg) (s : State) : (sendMsg a0 s).health = s.health := (sendMsg_leaves a0 s).health (by decide)
@[simp] theorem sendMsg_seq (a0 : HostMsg) (s : State) : (sendMsg a0 s).seq = s.seq := (sendMsg_leaves a0 s).seq (by decide)
@[simp] theorem sendMsg_steward_mboxes (a0 : HostMsg) (s : State) : (sendMsg a0 s).steward.mboxes = s.steward.mboxes := (sendMsg_leaves a0 s).steward_mboxes (by decide)
@[simp] theorem sendMsg_steward_ctxs (a0 : HostMsg) (s : State) : (sendMsg a0 s).steward.ctxs = s.steward.ctxs := (sendMsg_leaves a0 s).steward_ctxs (by decide)
@[simp] theorem sendMsg_steward_queues (a0 : HostMsg) (s : State) : (sendMsg a0 s).steward.queues = s.steward.queues := (sendMsg_leaves a0 s).steward_queues (by decide)
@[simp] theorem sendMsg_steward_images (a0 : HostMsg) (s : State) : (sendMsg a0 s).steward.images = s.steward.images := (sendMsg_leaves a0 s).steward_images (by decide)
@[simp] theorem sendMsg_steward_tasks (a0 : HostMsg) (s : State) : (sendMsg a0 s).steward.tasks = s.steward.tasks := (sendMsg_leaves a0 s).steward_tasks (by decide)
@[simp] theorem sendMsg_shell_hatch (a0 : HostMsg) (s : State) : (sendMsg a0 s).shell.hatch = s.shell.hatch := (sendMsg_leaves a0 s).shell_hatch (by decide)
@[simp] theorem sendMsg_shell_keep (a0 : HostMsg) (s : State) : (sendMsg a0 s).shell.keep = s.shell.keep := (sendMsg_leaves a0 s).shell_keep (by decide)
@[simp] theorem sendMsg_shell_snap (a0 : HostMsg) (s : State) : (sendMsg a0 s).shell.snap = s.shell.snap := (sendMsg_leaves a0 s).shell_snap (by decide)
theorem addEvt_leaves (a0 : Evt) (s : State) : changesOnly (· ∈ ([.messages] : List Part)) s (addEvt a0 s) :=
  addEvt_only (by decide) a0 only_refl
@[simp] theorem addEvt_params (a0 : Evt) (s : State) : (addEvt a0 s).params = s.params := (addEvt_leaves a0 s).params (by decide)
@[simp] theorem addEvt_offered (a0 : Evt) (s : State) : (addEvt a0 s).offered = s.offered := (addEvt_leaves a0 s).offered (by decide)
@[simp] theorem addEvt_freeCtr (a0 : Evt) (s : State) : (addEvt a0 s).freeCtr = s.freeCtr := (addEvt_leaves a0 s).freeCtr (by decide)
@[simp] theorem addEvt_store (a0 : Evt) (s : State) : (addEvt a0 s).store = s.store := (addEvt_leaves a0 s).store (by decide)
@[simp] theorem addEvt_rooms (a0 : Evt) (s : State) : (addEvt a0 s).rooms = s.rooms := (addEvt_leaves a0 s).rooms (by decide)
@[simp] theorem addEvt_side (a0 : Evt) (s : State) : (addEvt a0 s).side = s.side := (addEvt_leaves a0 s).side (by decide)
@[simp] theorem addEvt_fabric (a0 : Evt) (s : State) : (addEvt a0 s).fabric = s.fabric := (addEvt_leaves a0 s).fabric (by decide)
@[simp] theorem addEvt_links (a0 : Evt) (s : State) : (addEvt a0 s).links = s.links := (addEvt_leaves a0 s).links (by decide)
@[simp] theorem addEvt_time (a0 : Evt) (s : State) : (addEvt a0 s).time = s.time := (addEvt_leaves a0 s).time (by decide)
@[simp] theorem addEvt_pace (a0 : Evt) (s : State) : (addEvt a0 s).pace = s.pace := (addEvt_leaves a0 s).pace (by decide)
@[simp] theorem addEvt_power (a0 : Evt) (s : State) : (addEvt a0 s).power = s.power := (addEvt_leaves a0 s).power (by decide)
@[simp] theorem addEvt_health (a0 : Evt) (s : State) : (addEvt a0 s).health = s.health := (addEvt_leaves a0 s).health (by decide)
@[simp] theorem addEvt_seq (a0 : Evt) (s : State) : (addEvt a0 s).seq = s.seq := (addEvt_leaves a0 s).seq (by decide)
@[simp] theorem addEvt_steward_mboxes (a0 : Evt) (s : State) : (addEvt a0 s).steward.mboxes = s.steward.mboxes := (addEvt_leaves a0 s).steward_mboxes (by decide)
@[simp] theorem addEvt_steward_ctxs (a0 : Evt) (s : State) : (addEvt a0 s).steward.ctxs = s.steward.ctxs := (addEvt_leaves a0 s).steward_ctxs (by decide)
@[simp] theorem addEvt_steward_queues (a0 : Evt) (s : State) : (addEvt a0 s).steward.queues = s.steward.queues := (addEvt_leaves a0 s).steward_queues (by decide)
@[simp] theorem addEvt_steward_images (a0 : Evt) (s : State) : (addEvt a0 s).steward.images = s.steward.images := (addEvt_leaves a0 s).steward_images (by decide)
@[simp] theorem addEvt_steward_tasks (a0 : Evt) (s : State) : (addEvt a0 s).steward.tasks = s.steward.tasks := (addEvt_leaves a0 s).steward_tasks (by decide)
@[simp] theorem addEvt_shell_hatch (a0 : Evt) (s : State) : (addEvt a0 s).shell.hatch = s.shell.hatch := (addEvt_leaves a0 s).shell_hatch (by decide)
@[simp] theorem addEvt_shell_keep (a0 : Evt) (s : State) : (addEvt a0 s).shell.keep = s.shell.keep := (addEvt_leaves a0 s).shell_keep (by decide)
@[simp] theorem addEvt_shell_snap (a0 : Evt) (s : State) : (addEvt a0 s).shell.snap = s.shell.snap := (addEvt_leaves a0 s).shell_snap (by decide)
theorem raiseInt_leaves (a0 : Nat) (s : State) : changesOnly (· ∈ ([.intStatus, .messages] : List Part)) s (raiseInt a0 s) :=
  raiseInt_only (by decide) (by decide) a0 only_refl
@[simp] theorem raiseInt_params (a0 : Nat) (s : State) : (raiseInt a0 s).params = s.params := (raiseInt_leaves a0 s).params (by decide)
@[simp] theorem raiseInt_offered (a0 : Nat) (s : State) : (raiseInt a0 s).offered = s.offered := (raiseInt_leaves a0 s).offered (by decide)
@[simp] theorem raiseInt_freeCtr (a0 : Nat) (s : State) : (raiseInt a0 s).freeCtr = s.freeCtr := (raiseInt_leaves a0 s).freeCtr (by decide)
@[simp] theorem raiseInt_store (a0 : Nat) (s : State) : (raiseInt a0 s).store = s.store := (raiseInt_leaves a0 s).store (by decide)
@[simp] theorem raiseInt_rooms (a0 : Nat) (s : State) : (raiseInt a0 s).rooms = s.rooms := (raiseInt_leaves a0 s).rooms (by decide)
@[simp] theorem raiseInt_side (a0 : Nat) (s : State) : (raiseInt a0 s).side = s.side := (raiseInt_leaves a0 s).side (by decide)
@[simp] theorem raiseInt_fabric (a0 : Nat) (s : State) : (raiseInt a0 s).fabric = s.fabric := (raiseInt_leaves a0 s).fabric (by decide)
@[simp] theorem raiseInt_links (a0 : Nat) (s : State) : (raiseInt a0 s).links = s.links := (raiseInt_leaves a0 s).links (by decide)
@[simp] theorem raiseInt_time (a0 : Nat) (s : State) : (raiseInt a0 s).time = s.time := (raiseInt_leaves a0 s).time (by decide)
@[simp] theorem raiseInt_pace (a0 : Nat) (s : State) : (raiseInt a0 s).pace = s.pace := (raiseInt_leaves a0 s).pace (by decide)
@[simp] theorem raiseInt_power (a0 : Nat) (s : State) : (raiseInt a0 s).power = s.power := (raiseInt_leaves a0 s).power (by decide)
@[simp] theorem raiseInt_health (a0 : Nat) (s : State) : (raiseInt a0 s).health = s.health := (raiseInt_leaves a0 s).health (by decide)
@[simp] theorem raiseInt_seq (a0 : Nat) (s : State) : (raiseInt a0 s).seq = s.seq := (raiseInt_leaves a0 s).seq (by decide)
@[simp] theorem raiseInt_steward_mboxes (a0 : Nat) (s : State) : (raiseInt a0 s).steward.mboxes = s.steward.mboxes := (raiseInt_leaves a0 s).steward_mboxes (by decide)
@[simp] theorem raiseInt_steward_ctxs (a0 : Nat) (s : State) : (raiseInt a0 s).steward.ctxs = s.steward.ctxs := (raiseInt_leaves a0 s).steward_ctxs (by decide)
@[simp] theorem raiseInt_steward_queues (a0 : Nat) (s : State) : (raiseInt a0 s).steward.queues = s.steward.queues := (raiseInt_leaves a0 s).steward_queues (by decide)
@[simp] theorem raiseInt_steward_images (a0 : Nat) (s : State) : (raiseInt a0 s).steward.images = s.steward.images := (raiseInt_leaves a0 s).steward_images (by decide)
@[simp] theorem raiseInt_steward_tasks (a0 : Nat) (s : State) : (raiseInt a0 s).steward.tasks = s.steward.tasks := (raiseInt_leaves a0 s).steward_tasks (by decide)
@[simp] theorem raiseInt_shell_hatch (a0 : Nat) (s : State) : (raiseInt a0 s).shell.hatch = s.shell.hatch := (raiseInt_leaves a0 s).shell_hatch (by decide)
@[simp] theorem raiseInt_shell_keep (a0 : Nat) (s : State) : (raiseInt a0 s).shell.keep = s.shell.keep := (raiseInt_leaves a0 s).shell_keep (by decide)
@[simp] theorem raiseInt_shell_snap (a0 : Nat) (s : State) : (raiseInt a0 s).shell.snap = s.shell.snap := (raiseInt_leaves a0 s).shell_snap (by decide)
theorem issueReq_leaves (a0 : Purpose) (a1 : HostMsg) (s : State) : changesOnly (· ∈ ([.requests, .messages] : List Part)) s (issueReq a0 a1 s) :=
  issueReq_only (by decide) (by decide) a0 a1 only_refl
@[simp] theorem issueReq_params (a0 : Purpose) (a1 : HostMsg) (s : State) : (issueReq a0 a1 s).params = s.params := (issueReq_leaves a0 a1 s).params (by decide)
@[simp] theorem issueReq_offered (a0 : Purpose) (a1 : HostMsg) (s : State) : (issueReq a0 a1 s).offered = s.offered := (issueReq_leaves a0 a1 s).offered (by decide)
@[simp] theorem issueReq_freeCtr (a0 : Purpose) (a1 : HostMsg) (s : State) : (issueReq a0 a1 s).freeCtr = s.freeCtr := (issueReq_leaves a0 a1 s).freeCtr (by decide)
@[simp] theorem issueReq_store (a0 : Purpose) (a1 : HostMsg) (s : State) : (issueReq a0 a1 s).store = s.store := (issueReq_leaves a0 a1 s).store (by decide)
@[simp] theorem issueReq_rooms (a0 : Purpose) (a1 : HostMsg) (s : State) : (issueReq a0 a1 s).rooms = s.rooms := (issueReq_leaves a0 a1 s).rooms (by decide)
@[simp] theorem issueReq_side (a0 : Purpose) (a1 : HostMsg) (s : State) : (issueReq a0 a1 s).side = s.side := (issueReq_leaves a0 a1 s).side (by decide)
@[simp] theorem issueReq_fabric (a0 : Purpose) (a1 : HostMsg) (s : State) : (issueReq a0 a1 s).fabric = s.fabric := (issueReq_leaves a0 a1 s).fabric (by decide)
@[simp] theorem issueReq_links (a0 : Purpose) (a1 : HostMsg) (s : State) : (issueReq a0 a1 s).links = s.links := (issueReq_leaves a0 a1 s).links (by decide)
@[simp] theorem issueReq_time (a0 : Purpose) (a1 : HostMsg) (s : State) : (issueReq a0 a1 s).time = s.time := (issueReq_leaves a0 a1 s).time (by decide)
@[simp] theorem issueReq_pace (a0 : Purpose) (a1 : HostMsg) (s : State) : (issueReq a0 a1 s).pace = s.pace := (issueReq_leaves a0 a1 s).pace (by decide)
@[simp] theorem issueReq_power (a0 : Purpose) (a1 : HostMsg) (s : State) : (issueReq a0 a1 s).power = s.power := (issueReq_leaves a0 a1 s).power (by decide)
@[simp] theorem issueReq_health (a0 : Purpose) (a1 : HostMsg) (s : State) : (issueReq a0 a1 s).health = s.health := (issueReq_leaves a0 a1 s).health (by decide)
@[simp] theorem issueReq_seq (a0 : Purpose) (a1 : HostMsg) (s : State) : (issueReq a0 a1 s).seq = s.seq := (issueReq_leaves a0 a1 s).seq (by decide)
@[simp] theorem issueReq_steward_mboxes (a0 : Purpose) (a1 : HostMsg) (s : State) : (issueReq a0 a1 s).steward.mboxes = s.steward.mboxes := (issueReq_leaves a0 a1 s).steward_mboxes (by decide)
@[simp] theorem issueReq_steward_ctxs (a0 : Purpose) (a1 : HostMsg) (s : State) : (issueReq a0 a1 s).steward.ctxs = s.steward.ctxs := (issueReq_leaves a0 a1 s).steward_ctxs (by decide)
@[simp] theorem issueReq_steward_queues (a0 : Purpose) (a1 : HostMsg) (s : State) : (issueReq a0 a1 s).steward.queues = s.steward.queues := (issueReq_leaves a0 a1 s).steward_queues (by decide)
@[simp] theorem issueReq_steward_images (a0 : Purpose) (a1 : HostMsg) (s : State) : (issueReq a0 a1 s).steward.images = s.steward.images := (issueReq_leaves a0 a1 s).steward_images (by decide)
@[simp] theorem issueReq_steward_tasks (a0 : Purpose) (a1 : HostMsg) (s : State) : (issueReq a0 a1 s).steward.tasks = s.steward.tasks := (issueReq_leaves a0 a1 s).steward_tasks (by decide)
@[simp] theorem issueReq_shell_hatch (a0 : Purpose) (a1 : HostMsg) (s : State) : (issueReq a0 a1 s).shell.hatch = s.shell.hatch := (issueReq_leaves a0 a1 s).shell_hatch (by decide)
@[simp] theorem issueReq_shell_keep (a0 : Purpose) (a1 : HostMsg) (s : State) : (issueReq a0 a1 s).shell.keep = s.shell.keep := (issueReq_leaves a0 a1 s).shell_keep (by decide)
@[simp] theorem issueReq_shell_snap (a0 : Purpose) (a1 : HostMsg) (s : State) : (issueReq a0 a1 s).shell.snap = s.shell.snap := (issueReq_leaves a0 a1 s).shell_snap (by decide)
theorem writeRsp_leaves (a0 : Nat) (a1 : MsgWord) (a2 : Bool) (a3 : Bool) (s : State) : changesOnly (· ∈ ([.mboxes, .requests, .messages] : List Part)) s (writeRsp a0 a1 a2 a3 s) :=
  writeRsp_only (by decide) (by decide) (by decide) a0 a1 a2 a3 only_refl
@[simp] theorem writeRsp_params (a0 : Nat) (a1 : MsgWord) (a2 : Bool) (a3 : Bool) (s : State) : (writeRsp a0 a1 a2 a3 s).params = s.params := (writeRsp_leaves a0 a1 a2 a3 s).params (by decide)
@[simp] theorem writeRsp_offered (a0 : Nat) (a1 : MsgWord) (a2 : Bool) (a3 : Bool) (s : State) : (writeRsp a0 a1 a2 a3 s).offered = s.offered := (writeRsp_leaves a0 a1 a2 a3 s).offered (by decide)
@[simp] theorem writeRsp_freeCtr (a0 : Nat) (a1 : MsgWord) (a2 : Bool) (a3 : Bool) (s : State) : (writeRsp a0 a1 a2 a3 s).freeCtr = s.freeCtr := (writeRsp_leaves a0 a1 a2 a3 s).freeCtr (by decide)
@[simp] theorem writeRsp_store (a0 : Nat) (a1 : MsgWord) (a2 : Bool) (a3 : Bool) (s : State) : (writeRsp a0 a1 a2 a3 s).store = s.store := (writeRsp_leaves a0 a1 a2 a3 s).store (by decide)
@[simp] theorem writeRsp_rooms (a0 : Nat) (a1 : MsgWord) (a2 : Bool) (a3 : Bool) (s : State) : (writeRsp a0 a1 a2 a3 s).rooms = s.rooms := (writeRsp_leaves a0 a1 a2 a3 s).rooms (by decide)
@[simp] theorem writeRsp_side (a0 : Nat) (a1 : MsgWord) (a2 : Bool) (a3 : Bool) (s : State) : (writeRsp a0 a1 a2 a3 s).side = s.side := (writeRsp_leaves a0 a1 a2 a3 s).side (by decide)
@[simp] theorem writeRsp_fabric (a0 : Nat) (a1 : MsgWord) (a2 : Bool) (a3 : Bool) (s : State) : (writeRsp a0 a1 a2 a3 s).fabric = s.fabric := (writeRsp_leaves a0 a1 a2 a3 s).fabric (by decide)
@[simp] theorem writeRsp_links (a0 : Nat) (a1 : MsgWord) (a2 : Bool) (a3 : Bool) (s : State) : (writeRsp a0 a1 a2 a3 s).links = s.links := (writeRsp_leaves a0 a1 a2 a3 s).links (by decide)
@[simp] theorem writeRsp_time (a0 : Nat) (a1 : MsgWord) (a2 : Bool) (a3 : Bool) (s : State) : (writeRsp a0 a1 a2 a3 s).time = s.time := (writeRsp_leaves a0 a1 a2 a3 s).time (by decide)
@[simp] theorem writeRsp_pace (a0 : Nat) (a1 : MsgWord) (a2 : Bool) (a3 : Bool) (s : State) : (writeRsp a0 a1 a2 a3 s).pace = s.pace := (writeRsp_leaves a0 a1 a2 a3 s).pace (by decide)
@[simp] theorem writeRsp_power (a0 : Nat) (a1 : MsgWord) (a2 : Bool) (a3 : Bool) (s : State) : (writeRsp a0 a1 a2 a3 s).power = s.power := (writeRsp_leaves a0 a1 a2 a3 s).power (by decide)
@[simp] theorem writeRsp_health (a0 : Nat) (a1 : MsgWord) (a2 : Bool) (a3 : Bool) (s : State) : (writeRsp a0 a1 a2 a3 s).health = s.health := (writeRsp_leaves a0 a1 a2 a3 s).health (by decide)
@[simp] theorem writeRsp_seq (a0 : Nat) (a1 : MsgWord) (a2 : Bool) (a3 : Bool) (s : State) : (writeRsp a0 a1 a2 a3 s).seq = s.seq := (writeRsp_leaves a0 a1 a2 a3 s).seq (by decide)
@[simp] theorem writeRsp_steward_ctxs (a0 : Nat) (a1 : MsgWord) (a2 : Bool) (a3 : Bool) (s : State) : (writeRsp a0 a1 a2 a3 s).steward.ctxs = s.steward.ctxs := (writeRsp_leaves a0 a1 a2 a3 s).steward_ctxs (by decide)
@[simp] theorem writeRsp_steward_queues (a0 : Nat) (a1 : MsgWord) (a2 : Bool) (a3 : Bool) (s : State) : (writeRsp a0 a1 a2 a3 s).steward.queues = s.steward.queues := (writeRsp_leaves a0 a1 a2 a3 s).steward_queues (by decide)
@[simp] theorem writeRsp_steward_images (a0 : Nat) (a1 : MsgWord) (a2 : Bool) (a3 : Bool) (s : State) : (writeRsp a0 a1 a2 a3 s).steward.images = s.steward.images := (writeRsp_leaves a0 a1 a2 a3 s).steward_images (by decide)
@[simp] theorem writeRsp_steward_tasks (a0 : Nat) (a1 : MsgWord) (a2 : Bool) (a3 : Bool) (s : State) : (writeRsp a0 a1 a2 a3 s).steward.tasks = s.steward.tasks := (writeRsp_leaves a0 a1 a2 a3 s).steward_tasks (by decide)
@[simp] theorem writeRsp_shell_hatch (a0 : Nat) (a1 : MsgWord) (a2 : Bool) (a3 : Bool) (s : State) : (writeRsp a0 a1 a2 a3 s).shell.hatch = s.shell.hatch := (writeRsp_leaves a0 a1 a2 a3 s).shell_hatch (by decide)
@[simp] theorem writeRsp_shell_keep (a0 : Nat) (a1 : MsgWord) (a2 : Bool) (a3 : Bool) (s : State) : (writeRsp a0 a1 a2 a3 s).shell.keep = s.shell.keep := (writeRsp_leaves a0 a1 a2 a3 s).shell_keep (by decide)
@[simp] theorem writeRsp_shell_snap (a0 : Nat) (a1 : MsgWord) (a2 : Bool) (a3 : Bool) (s : State) : (writeRsp a0 a1 a2 a3 s).shell.snap = s.shell.snap := (writeRsp_leaves a0 a1 a2 a3 s).shell_snap (by decide)
theorem respond_leaves (a0 : Nat) (a1 : Nat) (a2 : List (Nat × Nat × Nat)) (s : State) : changesOnly (· ∈ ([.mboxes, .requests, .messages] : List Part)) s (respond a0 a1 a2 s) :=
  respond_only (by decide) (by decide) (by decide) a0 a1 a2 only_refl
@[simp] theorem respond_params (a0 : Nat) (a1 : Nat) (a2 : List (Nat × Nat × Nat)) (s : State) : (respond a0 a1 a2 s).params = s.params := (respond_leaves a0 a1 a2 s).params (by decide)
@[simp] theorem respond_offered (a0 : Nat) (a1 : Nat) (a2 : List (Nat × Nat × Nat)) (s : State) : (respond a0 a1 a2 s).offered = s.offered := (respond_leaves a0 a1 a2 s).offered (by decide)
@[simp] theorem respond_freeCtr (a0 : Nat) (a1 : Nat) (a2 : List (Nat × Nat × Nat)) (s : State) : (respond a0 a1 a2 s).freeCtr = s.freeCtr := (respond_leaves a0 a1 a2 s).freeCtr (by decide)
@[simp] theorem respond_store (a0 : Nat) (a1 : Nat) (a2 : List (Nat × Nat × Nat)) (s : State) : (respond a0 a1 a2 s).store = s.store := (respond_leaves a0 a1 a2 s).store (by decide)
@[simp] theorem respond_rooms (a0 : Nat) (a1 : Nat) (a2 : List (Nat × Nat × Nat)) (s : State) : (respond a0 a1 a2 s).rooms = s.rooms := (respond_leaves a0 a1 a2 s).rooms (by decide)
@[simp] theorem respond_side (a0 : Nat) (a1 : Nat) (a2 : List (Nat × Nat × Nat)) (s : State) : (respond a0 a1 a2 s).side = s.side := (respond_leaves a0 a1 a2 s).side (by decide)
@[simp] theorem respond_fabric (a0 : Nat) (a1 : Nat) (a2 : List (Nat × Nat × Nat)) (s : State) : (respond a0 a1 a2 s).fabric = s.fabric := (respond_leaves a0 a1 a2 s).fabric (by decide)
@[simp] theorem respond_links (a0 : Nat) (a1 : Nat) (a2 : List (Nat × Nat × Nat)) (s : State) : (respond a0 a1 a2 s).links = s.links := (respond_leaves a0 a1 a2 s).links (by decide)
@[simp] theorem respond_time (a0 : Nat) (a1 : Nat) (a2 : List (Nat × Nat × Nat)) (s : State) : (respond a0 a1 a2 s).time = s.time := (respond_leaves a0 a1 a2 s).time (by decide)
@[simp] theorem respond_pace (a0 : Nat) (a1 : Nat) (a2 : List (Nat × Nat × Nat)) (s : State) : (respond a0 a1 a2 s).pace = s.pace := (respond_leaves a0 a1 a2 s).pace (by decide)
@[simp] theorem respond_power (a0 : Nat) (a1 : Nat) (a2 : List (Nat × Nat × Nat)) (s : State) : (respond a0 a1 a2 s).power = s.power := (respond_leaves a0 a1 a2 s).power (by decide)
@[simp] theorem respond_health (a0 : Nat) (a1 : Nat) (a2 : List (Nat × Nat × Nat)) (s : State) : (respond a0 a1 a2 s).health = s.health := (respond_leaves a0 a1 a2 s).health (by decide)
@[simp] theorem respond_seq (a0 : Nat) (a1 : Nat) (a2 : List (Nat × Nat × Nat)) (s : State) : (respond a0 a1 a2 s).seq = s.seq := (respond_leaves a0 a1 a2 s).seq (by decide)
@[simp] theorem respond_steward_ctxs (a0 : Nat) (a1 : Nat) (a2 : List (Nat × Nat × Nat)) (s : State) : (respond a0 a1 a2 s).steward.ctxs = s.steward.ctxs := (respond_leaves a0 a1 a2 s).steward_ctxs (by decide)
@[simp] theorem respond_steward_queues (a0 : Nat) (a1 : Nat) (a2 : List (Nat × Nat × Nat)) (s : State) : (respond a0 a1 a2 s).steward.queues = s.steward.queues := (respond_leaves a0 a1 a2 s).steward_queues (by decide)
@[simp] theorem respond_steward_images (a0 : Nat) (a1 : Nat) (a2 : List (Nat × Nat × Nat)) (s : State) : (respond a0 a1 a2 s).steward.images = s.steward.images := (respond_leaves a0 a1 a2 s).steward_images (by decide)
@[simp] theorem respond_steward_tasks (a0 : Nat) (a1 : Nat) (a2 : List (Nat × Nat × Nat)) (s : State) : (respond a0 a1 a2 s).steward.tasks = s.steward.tasks := (respond_leaves a0 a1 a2 s).steward_tasks (by decide)
@[simp] theorem respond_shell_hatch (a0 : Nat) (a1 : Nat) (a2 : List (Nat × Nat × Nat)) (s : State) : (respond a0 a1 a2 s).shell.hatch = s.shell.hatch := (respond_leaves a0 a1 a2 s).shell_hatch (by decide)
@[simp] theorem respond_shell_keep (a0 : Nat) (a1 : Nat) (a2 : List (Nat × Nat × Nat)) (s : State) : (respond a0 a1 a2 s).shell.keep = s.shell.keep := (respond_leaves a0 a1 a2 s).shell_keep (by decide)
@[simp] theorem respond_shell_snap (a0 : Nat) (a1 : Nat) (a2 : List (Nat × Nat × Nat)) (s : State) : (respond a0 a1 a2 s).shell.snap = s.shell.snap := (respond_leaves a0 a1 a2 s).shell_snap (by decide)
theorem await_leaves (a0 : Nat) (s : State) : changesOnly (· ∈ ([.mboxes] : List Part)) s (await a0 s) :=
  await_only (by decide) a0 only_refl
@[simp] theorem await_params (a0 : Nat) (s : State) : (await a0 s).params = s.params := (await_leaves a0 s).params (by decide)
@[simp] theorem await_offered (a0 : Nat) (s : State) : (await a0 s).offered = s.offered := (await_leaves a0 s).offered (by decide)
@[simp] theorem await_freeCtr (a0 : Nat) (s : State) : (await a0 s).freeCtr = s.freeCtr := (await_leaves a0 s).freeCtr (by decide)
@[simp] theorem await_store (a0 : Nat) (s : State) : (await a0 s).store = s.store := (await_leaves a0 s).store (by decide)
@[simp] theorem await_rooms (a0 : Nat) (s : State) : (await a0 s).rooms = s.rooms := (await_leaves a0 s).rooms (by decide)
@[simp] theorem await_side (a0 : Nat) (s : State) : (await a0 s).side = s.side := (await_leaves a0 s).side (by decide)
@[simp] theorem await_fabric (a0 : Nat) (s : State) : (await a0 s).fabric = s.fabric := (await_leaves a0 s).fabric (by decide)
@[simp] theorem await_links (a0 : Nat) (s : State) : (await a0 s).links = s.links := (await_leaves a0 s).links (by decide)
@[simp] theorem await_time (a0 : Nat) (s : State) : (await a0 s).time = s.time := (await_leaves a0 s).time (by decide)
@[simp] theorem await_pace (a0 : Nat) (s : State) : (await a0 s).pace = s.pace := (await_leaves a0 s).pace (by decide)
@[simp] theorem await_power (a0 : Nat) (s : State) : (await a0 s).power = s.power := (await_leaves a0 s).power (by decide)
@[simp] theorem await_health (a0 : Nat) (s : State) : (await a0 s).health = s.health := (await_leaves a0 s).health (by decide)
@[simp] theorem await_seq (a0 : Nat) (s : State) : (await a0 s).seq = s.seq := (await_leaves a0 s).seq (by decide)
@[simp] theorem await_steward_ctxs (a0 : Nat) (s : State) : (await a0 s).steward.ctxs = s.steward.ctxs := (await_leaves a0 s).steward_ctxs (by decide)
@[simp] theorem await_steward_queues (a0 : Nat) (s : State) : (await a0 s).steward.queues = s.steward.queues := (await_leaves a0 s).steward_queues (by decide)
@[simp] theorem await_steward_images (a0 : Nat) (s : State) : (await a0 s).steward.images = s.steward.images := (await_leaves a0 s).steward_images (by decide)
@[simp] theorem await_steward_tasks (a0 : Nat) (s : State) : (await a0 s).steward.tasks = s.steward.tasks := (await_leaves a0 s).steward_tasks (by decide)
@[simp] theorem await_shell_hatch (a0 : Nat) (s : State) : (await a0 s).shell.hatch = s.shell.hatch := (await_leaves a0 s).shell_hatch (by decide)
@[simp] theorem await_shell_keep (a0 : Nat) (s : State) : (await a0 s).shell.keep = s.shell.keep := (await_leaves a0 s).shell_keep (by decide)
@[simp] theorem await_shell_snap (a0 : Nat) (s : State) : (await a0 s).shell.snap = s.shell.snap := (await_leaves a0 s).shell_snap (by decide)
theorem putStatus_leaves (a0 : Nat) (s : State) : changesOnly (· ∈ ([.requests, .messages, .porch] : List Part)) s (putStatus a0 s) :=
  putStatus_only (by decide) (by decide) (by decide) a0 only_refl
@[simp] theorem putStatus_params (a0 : Nat) (s : State) : (putStatus a0 s).params = s.params := (putStatus_leaves a0 s).params (by decide)
@[simp] theorem putStatus_offered (a0 : Nat) (s : State) : (putStatus a0 s).offered = s.offered := (putStatus_leaves a0 s).offered (by decide)
@[simp] theorem putStatus_freeCtr (a0 : Nat) (s : State) : (putStatus a0 s).freeCtr = s.freeCtr := (putStatus_leaves a0 s).freeCtr (by decide)
@[simp] theorem putStatus_store (a0 : Nat) (s : State) : (putStatus a0 s).store = s.store := (putStatus_leaves a0 s).store (by decide)
@[simp] theorem putStatus_rooms (a0 : Nat) (s : State) : (putStatus a0 s).rooms = s.rooms := (putStatus_leaves a0 s).rooms (by decide)
@[simp] theorem putStatus_side (a0 : Nat) (s : State) : (putStatus a0 s).side = s.side := (putStatus_leaves a0 s).side (by decide)
@[simp] theorem putStatus_fabric (a0 : Nat) (s : State) : (putStatus a0 s).fabric = s.fabric := (putStatus_leaves a0 s).fabric (by decide)
@[simp] theorem putStatus_links (a0 : Nat) (s : State) : (putStatus a0 s).links = s.links := (putStatus_leaves a0 s).links (by decide)
@[simp] theorem putStatus_time (a0 : Nat) (s : State) : (putStatus a0 s).time = s.time := (putStatus_leaves a0 s).time (by decide)
@[simp] theorem putStatus_pace (a0 : Nat) (s : State) : (putStatus a0 s).pace = s.pace := (putStatus_leaves a0 s).pace (by decide)
@[simp] theorem putStatus_power (a0 : Nat) (s : State) : (putStatus a0 s).power = s.power := (putStatus_leaves a0 s).power (by decide)
@[simp] theorem putStatus_health (a0 : Nat) (s : State) : (putStatus a0 s).health = s.health := (putStatus_leaves a0 s).health (by decide)
@[simp] theorem putStatus_seq (a0 : Nat) (s : State) : (putStatus a0 s).seq = s.seq := (putStatus_leaves a0 s).seq (by decide)
@[simp] theorem putStatus_steward_mboxes (a0 : Nat) (s : State) : (putStatus a0 s).steward.mboxes = s.steward.mboxes := (putStatus_leaves a0 s).steward_mboxes (by decide)
@[simp] theorem putStatus_steward_ctxs (a0 : Nat) (s : State) : (putStatus a0 s).steward.ctxs = s.steward.ctxs := (putStatus_leaves a0 s).steward_ctxs (by decide)
@[simp] theorem putStatus_steward_queues (a0 : Nat) (s : State) : (putStatus a0 s).steward.queues = s.steward.queues := (putStatus_leaves a0 s).steward_queues (by decide)
@[simp] theorem putStatus_steward_images (a0 : Nat) (s : State) : (putStatus a0 s).steward.images = s.steward.images := (putStatus_leaves a0 s).steward_images (by decide)
@[simp] theorem putStatus_steward_tasks (a0 : Nat) (s : State) : (putStatus a0 s).steward.tasks = s.steward.tasks := (putStatus_leaves a0 s).steward_tasks (by decide)
@[simp] theorem putStatus_shell_hatch (a0 : Nat) (s : State) : (putStatus a0 s).shell.hatch = s.shell.hatch := (putStatus_leaves a0 s).shell_hatch (by decide)
@[simp] theorem putStatus_shell_keep (a0 : Nat) (s : State) : (putStatus a0 s).shell.keep = s.shell.keep := (putStatus_leaves a0 s).shell_keep (by decide)
@[simp] theorem putStatus_shell_snap (a0 : Nat) (s : State) : (putStatus a0 s).shell.snap = s.shell.snap := (putStatus_leaves a0 s).shell_snap (by decide)
theorem porchPut_leaves (a0 : Nat) (a1 : Nat) (a2 : List Byte) (s : State) : changesOnly (· ∈ ([.requests, .messages, .porch] : List Part)) s (porchPut a0 a1 a2 s) :=
  porchPut_only (by decide) (by decide) (by decide) a0 a1 a2 only_refl
@[simp] theorem porchPut_params (a0 : Nat) (a1 : Nat) (a2 : List Byte) (s : State) : (porchPut a0 a1 a2 s).params = s.params := (porchPut_leaves a0 a1 a2 s).params (by decide)
@[simp] theorem porchPut_offered (a0 : Nat) (a1 : Nat) (a2 : List Byte) (s : State) : (porchPut a0 a1 a2 s).offered = s.offered := (porchPut_leaves a0 a1 a2 s).offered (by decide)
@[simp] theorem porchPut_freeCtr (a0 : Nat) (a1 : Nat) (a2 : List Byte) (s : State) : (porchPut a0 a1 a2 s).freeCtr = s.freeCtr := (porchPut_leaves a0 a1 a2 s).freeCtr (by decide)
@[simp] theorem porchPut_store (a0 : Nat) (a1 : Nat) (a2 : List Byte) (s : State) : (porchPut a0 a1 a2 s).store = s.store := (porchPut_leaves a0 a1 a2 s).store (by decide)
@[simp] theorem porchPut_rooms (a0 : Nat) (a1 : Nat) (a2 : List Byte) (s : State) : (porchPut a0 a1 a2 s).rooms = s.rooms := (porchPut_leaves a0 a1 a2 s).rooms (by decide)
@[simp] theorem porchPut_side (a0 : Nat) (a1 : Nat) (a2 : List Byte) (s : State) : (porchPut a0 a1 a2 s).side = s.side := (porchPut_leaves a0 a1 a2 s).side (by decide)
@[simp] theorem porchPut_fabric (a0 : Nat) (a1 : Nat) (a2 : List Byte) (s : State) : (porchPut a0 a1 a2 s).fabric = s.fabric := (porchPut_leaves a0 a1 a2 s).fabric (by decide)
@[simp] theorem porchPut_links (a0 : Nat) (a1 : Nat) (a2 : List Byte) (s : State) : (porchPut a0 a1 a2 s).links = s.links := (porchPut_leaves a0 a1 a2 s).links (by decide)
@[simp] theorem porchPut_time (a0 : Nat) (a1 : Nat) (a2 : List Byte) (s : State) : (porchPut a0 a1 a2 s).time = s.time := (porchPut_leaves a0 a1 a2 s).time (by decide)
@[simp] theorem porchPut_pace (a0 : Nat) (a1 : Nat) (a2 : List Byte) (s : State) : (porchPut a0 a1 a2 s).pace = s.pace := (porchPut_leaves a0 a1 a2 s).pace (by decide)
@[simp] theorem porchPut_power (a0 : Nat) (a1 : Nat) (a2 : List Byte) (s : State) : (porchPut a0 a1 a2 s).power = s.power := (porchPut_leaves a0 a1 a2 s).power (by decide)
@[simp] theorem porchPut_health (a0 : Nat) (a1 : Nat) (a2 : List Byte) (s : State) : (porchPut a0 a1 a2 s).health = s.health := (porchPut_leaves a0 a1 a2 s).health (by decide)
@[simp] theorem porchPut_seq (a0 : Nat) (a1 : Nat) (a2 : List Byte) (s : State) : (porchPut a0 a1 a2 s).seq = s.seq := (porchPut_leaves a0 a1 a2 s).seq (by decide)
@[simp] theorem porchPut_steward_mboxes (a0 : Nat) (a1 : Nat) (a2 : List Byte) (s : State) : (porchPut a0 a1 a2 s).steward.mboxes = s.steward.mboxes := (porchPut_leaves a0 a1 a2 s).steward_mboxes (by decide)
@[simp] theorem porchPut_steward_ctxs (a0 : Nat) (a1 : Nat) (a2 : List Byte) (s : State) : (porchPut a0 a1 a2 s).steward.ctxs = s.steward.ctxs := (porchPut_leaves a0 a1 a2 s).steward_ctxs (by decide)
@[simp] theorem porchPut_steward_queues (a0 : Nat) (a1 : Nat) (a2 : List Byte) (s : State) : (porchPut a0 a1 a2 s).steward.queues = s.steward.queues := (porchPut_leaves a0 a1 a2 s).steward_queues (by decide)
@[simp] theorem porchPut_steward_images (a0 : Nat) (a1 : Nat) (a2 : List Byte) (s : State) : (porchPut a0 a1 a2 s).steward.images = s.steward.images := (porchPut_leaves a0 a1 a2 s).steward_images (by decide)
@[simp] theorem porchPut_steward_tasks (a0 : Nat) (a1 : Nat) (a2 : List Byte) (s : State) : (porchPut a0 a1 a2 s).steward.tasks = s.steward.tasks := (porchPut_leaves a0 a1 a2 s).steward_tasks (by decide)
@[simp] theorem porchPut_shell_hatch (a0 : Nat) (a1 : Nat) (a2 : List Byte) (s : State) : (porchPut a0 a1 a2 s).shell.hatch = s.shell.hatch := (porchPut_leaves a0 a1 a2 s).shell_hatch (by decide)
@[simp] theorem porchPut_shell_keep (a0 : Nat) (a1 : Nat) (a2 : List Byte) (s : State) : (porchPut a0 a1 a2 s).shell.keep = s.shell.keep := (porchPut_leaves a0 a1 a2 s).shell_keep (by decide)
@[simp] theorem porchPut_shell_snap (a0 : Nat) (a1 : Nat) (a2 : List Byte) (s : State) : (porchPut a0 a1 a2 s).shell.snap = s.shell.snap := (porchPut_leaves a0 a1 a2 s).shell_snap (by decide)
theorem porchFill_leaves (a0 : Bool) (a1 : Nat) (s : State) : changesOnly (· ∈ ([.requests, .messages] : List Part)) s (porchFill a0 a1 s) :=
  porchFill_only (by decide) (by decide) a0 a1 only_refl
@[simp] theorem porchFill_params (a0 : Bool) (a1 : Nat) (s : State) : (porchFill a0 a1 s).params = s.params := (porchFill_leaves a0 a1 s).params (by decide)
@[simp] theorem porchFill_offered (a0 : Bool) (a1 : Nat) (s : State) : (porchFill a0 a1 s).offered = s.offered := (porchFill_leaves a0 a1 s).offered (by decide)
@[simp] theorem porchFill_freeCtr (a0 : Bool) (a1 : Nat) (s : State) : (porchFill a0 a1 s).freeCtr = s.freeCtr := (porchFill_leaves a0 a1 s).freeCtr (by decide)
@[simp] theorem porchFill_store (a0 : Bool) (a1 : Nat) (s : State) : (porchFill a0 a1 s).store = s.store := (porchFill_leaves a0 a1 s).store (by decide)
@[simp] theorem porchFill_rooms (a0 : Bool) (a1 : Nat) (s : State) : (porchFill a0 a1 s).rooms = s.rooms := (porchFill_leaves a0 a1 s).rooms (by decide)
@[simp] theorem porchFill_side (a0 : Bool) (a1 : Nat) (s : State) : (porchFill a0 a1 s).side = s.side := (porchFill_leaves a0 a1 s).side (by decide)
@[simp] theorem porchFill_fabric (a0 : Bool) (a1 : Nat) (s : State) : (porchFill a0 a1 s).fabric = s.fabric := (porchFill_leaves a0 a1 s).fabric (by decide)
@[simp] theorem porchFill_links (a0 : Bool) (a1 : Nat) (s : State) : (porchFill a0 a1 s).links = s.links := (porchFill_leaves a0 a1 s).links (by decide)
@[simp] theorem porchFill_time (a0 : Bool) (a1 : Nat) (s : State) : (porchFill a0 a1 s).time = s.time := (porchFill_leaves a0 a1 s).time (by decide)
@[simp] theorem porchFill_pace (a0 : Bool) (a1 : Nat) (s : State) : (porchFill a0 a1 s).pace = s.pace := (porchFill_leaves a0 a1 s).pace (by decide)
@[simp] theorem porchFill_power (a0 : Bool) (a1 : Nat) (s : State) : (porchFill a0 a1 s).power = s.power := (porchFill_leaves a0 a1 s).power (by decide)
@[simp] theorem porchFill_health (a0 : Bool) (a1 : Nat) (s : State) : (porchFill a0 a1 s).health = s.health := (porchFill_leaves a0 a1 s).health (by decide)
@[simp] theorem porchFill_seq (a0 : Bool) (a1 : Nat) (s : State) : (porchFill a0 a1 s).seq = s.seq := (porchFill_leaves a0 a1 s).seq (by decide)
@[simp] theorem porchFill_steward_mboxes (a0 : Bool) (a1 : Nat) (s : State) : (porchFill a0 a1 s).steward.mboxes = s.steward.mboxes := (porchFill_leaves a0 a1 s).steward_mboxes (by decide)
@[simp] theorem porchFill_steward_ctxs (a0 : Bool) (a1 : Nat) (s : State) : (porchFill a0 a1 s).steward.ctxs = s.steward.ctxs := (porchFill_leaves a0 a1 s).steward_ctxs (by decide)
@[simp] theorem porchFill_steward_queues (a0 : Bool) (a1 : Nat) (s : State) : (porchFill a0 a1 s).steward.queues = s.steward.queues := (porchFill_leaves a0 a1 s).steward_queues (by decide)
@[simp] theorem porchFill_steward_images (a0 : Bool) (a1 : Nat) (s : State) : (porchFill a0 a1 s).steward.images = s.steward.images := (porchFill_leaves a0 a1 s).steward_images (by decide)
@[simp] theorem porchFill_steward_tasks (a0 : Bool) (a1 : Nat) (s : State) : (porchFill a0 a1 s).steward.tasks = s.steward.tasks := (porchFill_leaves a0 a1 s).steward_tasks (by decide)
@[simp] theorem porchFill_shell_hatch (a0 : Bool) (a1 : Nat) (s : State) : (porchFill a0 a1 s).shell.hatch = s.shell.hatch := (porchFill_leaves a0 a1 s).shell_hatch (by decide)
@[simp] theorem porchFill_shell_keep (a0 : Bool) (a1 : Nat) (s : State) : (porchFill a0 a1 s).shell.keep = s.shell.keep := (porchFill_leaves a0 a1 s).shell_keep (by decide)
@[simp] theorem porchFill_shell_snap (a0 : Bool) (a1 : Nat) (s : State) : (porchFill a0 a1 s).shell.snap = s.shell.snap := (porchFill_leaves a0 a1 s).shell_snap (by decide)
theorem endGap_leaves (a0 : Nat) (a1 : Nat) (s : State) : changesOnly (· ∈ ([.power] : List Part)) s (endGap a0 a1 s) :=
  endGap_only (by decide) a0 a1 only_refl
@[simp] theorem endGap_params (a0 : Nat) (a1 : Nat) (s : State) : (endGap a0 a1 s).params = s.params := (endGap_leaves a0 a1 s).params (by decide)
@[simp] theorem endGap_offered (a0 : Nat) (a1 : Nat) (s : State) : (endGap a0 a1 s).offered = s.offered := (endGap_leaves a0 a1 s).offered (by decide)
@[simp] theorem endGap_freeCtr (a0 : Nat) (a1 : Nat) (s : State) : (endGap a0 a1 s).freeCtr = s.freeCtr := (endGap_leaves a0 a1 s).freeCtr (by decide)
@[simp] theorem endGap_store (a0 : Nat) (a1 : Nat) (s : State) : (endGap a0 a1 s).store = s.store := (endGap_leaves a0 a1 s).store (by decide)
@[simp] theorem endGap_rooms (a0 : Nat) (a1 : Nat) (s : State) : (endGap a0 a1 s).rooms = s.rooms := (endGap_leaves a0 a1 s).rooms (by decide)
@[simp] theorem endGap_side (a0 : Nat) (a1 : Nat) (s : State) : (endGap a0 a1 s).side = s.side := (endGap_leaves a0 a1 s).side (by decide)
@[simp] theorem endGap_fabric (a0 : Nat) (a1 : Nat) (s : State) : (endGap a0 a1 s).fabric = s.fabric := (endGap_leaves a0 a1 s).fabric (by decide)
@[simp] theorem endGap_links (a0 : Nat) (a1 : Nat) (s : State) : (endGap a0 a1 s).links = s.links := (endGap_leaves a0 a1 s).links (by decide)
@[simp] theorem endGap_time (a0 : Nat) (a1 : Nat) (s : State) : (endGap a0 a1 s).time = s.time := (endGap_leaves a0 a1 s).time (by decide)
@[simp] theorem endGap_pace (a0 : Nat) (a1 : Nat) (s : State) : (endGap a0 a1 s).pace = s.pace := (endGap_leaves a0 a1 s).pace (by decide)
@[simp] theorem endGap_health (a0 : Nat) (a1 : Nat) (s : State) : (endGap a0 a1 s).health = s.health := (endGap_leaves a0 a1 s).health (by decide)
@[simp] theorem endGap_seq (a0 : Nat) (a1 : Nat) (s : State) : (endGap a0 a1 s).seq = s.seq := (endGap_leaves a0 a1 s).seq (by decide)
@[simp] theorem endGap_steward_mboxes (a0 : Nat) (a1 : Nat) (s : State) : (endGap a0 a1 s).steward.mboxes = s.steward.mboxes := (endGap_leaves a0 a1 s).steward_mboxes (by decide)
@[simp] theorem endGap_steward_ctxs (a0 : Nat) (a1 : Nat) (s : State) : (endGap a0 a1 s).steward.ctxs = s.steward.ctxs := (endGap_leaves a0 a1 s).steward_ctxs (by decide)
@[simp] theorem endGap_steward_queues (a0 : Nat) (a1 : Nat) (s : State) : (endGap a0 a1 s).steward.queues = s.steward.queues := (endGap_leaves a0 a1 s).steward_queues (by decide)
@[simp] theorem endGap_steward_images (a0 : Nat) (a1 : Nat) (s : State) : (endGap a0 a1 s).steward.images = s.steward.images := (endGap_leaves a0 a1 s).steward_images (by decide)
@[simp] theorem endGap_steward_tasks (a0 : Nat) (a1 : Nat) (s : State) : (endGap a0 a1 s).steward.tasks = s.steward.tasks := (endGap_leaves a0 a1 s).steward_tasks (by decide)
@[simp] theorem endGap_shell_hatch (a0 : Nat) (a1 : Nat) (s : State) : (endGap a0 a1 s).shell.hatch = s.shell.hatch := (endGap_leaves a0 a1 s).shell_hatch (by decide)
@[simp] theorem endGap_shell_keep (a0 : Nat) (a1 : Nat) (s : State) : (endGap a0 a1 s).shell.keep = s.shell.keep := (endGap_leaves a0 a1 s).shell_keep (by decide)
@[simp] theorem endGap_shell_snap (a0 : Nat) (a1 : Nat) (s : State) : (endGap a0 a1 s).shell.snap = s.shell.snap := (endGap_leaves a0 a1 s).shell_snap (by decide)
theorem trace_leaves (a0 : Nat) (a1 : Nat) (s : State) : changesOnly (· ∈ ([.side] : List Part)) s (trace a0 a1 s) :=
  trace_only (by decide) a0 a1 only_refl
@[simp] theorem trace_params (a0 : Nat) (a1 : Nat) (s : State) : (trace a0 a1 s).params = s.params := (trace_leaves a0 a1 s).params (by decide)
@[simp] theorem trace_offered (a0 : Nat) (a1 : Nat) (s : State) : (trace a0 a1 s).offered = s.offered := (trace_leaves a0 a1 s).offered (by decide)
@[simp] theorem trace_freeCtr (a0 : Nat) (a1 : Nat) (s : State) : (trace a0 a1 s).freeCtr = s.freeCtr := (trace_leaves a0 a1 s).freeCtr (by decide)
@[simp] theorem trace_store (a0 : Nat) (a1 : Nat) (s : State) : (trace a0 a1 s).store = s.store := (trace_leaves a0 a1 s).store (by decide)
@[simp] theorem trace_rooms (a0 : Nat) (a1 : Nat) (s : State) : (trace a0 a1 s).rooms = s.rooms := (trace_leaves a0 a1 s).rooms (by decide)
@[simp] theorem trace_fabric (a0 : Nat) (a1 : Nat) (s : State) : (trace a0 a1 s).fabric = s.fabric := (trace_leaves a0 a1 s).fabric (by decide)
@[simp] theorem trace_links (a0 : Nat) (a1 : Nat) (s : State) : (trace a0 a1 s).links = s.links := (trace_leaves a0 a1 s).links (by decide)
@[simp] theorem trace_time (a0 : Nat) (a1 : Nat) (s : State) : (trace a0 a1 s).time = s.time := (trace_leaves a0 a1 s).time (by decide)
@[simp] theorem trace_pace (a0 : Nat) (a1 : Nat) (s : State) : (trace a0 a1 s).pace = s.pace := (trace_leaves a0 a1 s).pace (by decide)
@[simp] theorem trace_power (a0 : Nat) (a1 : Nat) (s : State) : (trace a0 a1 s).power = s.power := (trace_leaves a0 a1 s).power (by decide)
@[simp] theorem trace_health (a0 : Nat) (a1 : Nat) (s : State) : (trace a0 a1 s).health = s.health := (trace_leaves a0 a1 s).health (by decide)
@[simp] theorem trace_seq (a0 : Nat) (a1 : Nat) (s : State) : (trace a0 a1 s).seq = s.seq := (trace_leaves a0 a1 s).seq (by decide)
@[simp] theorem trace_steward_mboxes (a0 : Nat) (a1 : Nat) (s : State) : (trace a0 a1 s).steward.mboxes = s.steward.mboxes := (trace_leaves a0 a1 s).steward_mboxes (by decide)
@[simp] theorem trace_steward_ctxs (a0 : Nat) (a1 : Nat) (s : State) : (trace a0 a1 s).steward.ctxs = s.steward.ctxs := (trace_leaves a0 a1 s).steward_ctxs (by decide)
@[simp] theorem trace_steward_queues (a0 : Nat) (a1 : Nat) (s : State) : (trace a0 a1 s).steward.queues = s.steward.queues := (trace_leaves a0 a1 s).steward_queues (by decide)
@[simp] theorem trace_steward_images (a0 : Nat) (a1 : Nat) (s : State) : (trace a0 a1 s).steward.images = s.steward.images := (trace_leaves a0 a1 s).steward_images (by decide)
@[simp] theorem trace_steward_tasks (a0 : Nat) (a1 : Nat) (s : State) : (trace a0 a1 s).steward.tasks = s.steward.tasks := (trace_leaves a0 a1 s).steward_tasks (by decide)
@[simp] theorem trace_shell_hatch (a0 : Nat) (a1 : Nat) (s : State) : (trace a0 a1 s).shell.hatch = s.shell.hatch := (trace_leaves a0 a1 s).shell_hatch (by decide)
@[simp] theorem trace_shell_keep (a0 : Nat) (a1 : Nat) (s : State) : (trace a0 a1 s).shell.keep = s.shell.keep := (trace_leaves a0 a1 s).shell_keep (by decide)
@[simp] theorem trace_shell_snap (a0 : Nat) (a1 : Nat) (s : State) : (trace a0 a1 s).shell.snap = s.shell.snap := (trace_leaves a0 a1 s).shell_snap (by decide)
theorem setPhase_leaves (a0 : Nat) (s : State) : changesOnly (· ∈ ([.phase, .intStatus, .messages, .seq] : List Part)) s (setPhase a0 s) :=
  setPhase_only (by decide) (by decide) (by decide) (by decide) a0 only_refl
@[simp] theorem setPhase_params (a0 : Nat) (s : State) : (setPhase a0 s).params = s.params := (setPhase_leaves a0 s).params (by decide)
@[simp] theorem setPhase_offered (a0 : Nat) (s : State) : (setPhase a0 s).offered = s.offered := (setPhase_leaves a0 s).offered (by decide)
@[simp] theorem setPhase_freeCtr (a0 : Nat) (s : State) : (setPhase a0 s).freeCtr = s.freeCtr := (setPhase_leaves a0 s).freeCtr (by decide)
@[simp] theorem setPhase_store (a0 : Nat) (s : State) : (setPhase a0 s).store = s.store := (setPhase_leaves a0 s).store (by decide)
@[simp] theorem setPhase_rooms (a0 : Nat) (s : State) : (setPhase a0 s).rooms = s.rooms := (setPhase_leaves a0 s).rooms (by decide)
@[simp] theorem setPhase_side (a0 : Nat) (s : State) : (setPhase a0 s).side = s.side := (setPhase_leaves a0 s).side (by decide)
@[simp] theorem setPhase_fabric (a0 : Nat) (s : State) : (setPhase a0 s).fabric = s.fabric := (setPhase_leaves a0 s).fabric (by decide)
@[simp] theorem setPhase_links (a0 : Nat) (s : State) : (setPhase a0 s).links = s.links := (setPhase_leaves a0 s).links (by decide)
@[simp] theorem setPhase_time (a0 : Nat) (s : State) : (setPhase a0 s).time = s.time := (setPhase_leaves a0 s).time (by decide)
@[simp] theorem setPhase_pace (a0 : Nat) (s : State) : (setPhase a0 s).pace = s.pace := (setPhase_leaves a0 s).pace (by decide)
@[simp] theorem setPhase_power (a0 : Nat) (s : State) : (setPhase a0 s).power = s.power := (setPhase_leaves a0 s).power (by decide)
@[simp] theorem setPhase_health (a0 : Nat) (s : State) : (setPhase a0 s).health = s.health := (setPhase_leaves a0 s).health (by decide)
@[simp] theorem setPhase_steward_mboxes (a0 : Nat) (s : State) : (setPhase a0 s).steward.mboxes = s.steward.mboxes := (setPhase_leaves a0 s).steward_mboxes (by decide)
@[simp] theorem setPhase_steward_ctxs (a0 : Nat) (s : State) : (setPhase a0 s).steward.ctxs = s.steward.ctxs := (setPhase_leaves a0 s).steward_ctxs (by decide)
@[simp] theorem setPhase_steward_queues (a0 : Nat) (s : State) : (setPhase a0 s).steward.queues = s.steward.queues := (setPhase_leaves a0 s).steward_queues (by decide)
@[simp] theorem setPhase_steward_images (a0 : Nat) (s : State) : (setPhase a0 s).steward.images = s.steward.images := (setPhase_leaves a0 s).steward_images (by decide)
@[simp] theorem setPhase_steward_tasks (a0 : Nat) (s : State) : (setPhase a0 s).steward.tasks = s.steward.tasks := (setPhase_leaves a0 s).steward_tasks (by decide)
@[simp] theorem setPhase_shell_hatch (a0 : Nat) (s : State) : (setPhase a0 s).shell.hatch = s.shell.hatch := (setPhase_leaves a0 s).shell_hatch (by decide)
@[simp] theorem setPhase_shell_keep (a0 : Nat) (s : State) : (setPhase a0 s).shell.keep = s.shell.keep := (setPhase_leaves a0 s).shell_keep (by decide)
@[simp] theorem setPhase_shell_snap (a0 : Nat) (s : State) : (setPhase a0 s).shell.snap = s.shell.snap := (setPhase_leaves a0 s).shell_snap (by decide)
theorem setHealth_leaves (a0 : Nat) (s : State) : changesOnly (· ∈ ([.healthSt, .intStatus, .messages] : List Part)) s (setHealth a0 s) :=
  setHealth_only (by decide) (by decide) (by decide) a0 only_refl
@[simp] theorem setHealth_params (a0 : Nat) (s : State) : (setHealth a0 s).params = s.params := (setHealth_leaves a0 s).params (by decide)
@[simp] theorem setHealth_offered (a0 : Nat) (s : State) : (setHealth a0 s).offered = s.offered := (setHealth_leaves a0 s).offered (by decide)
@[simp] theorem setHealth_freeCtr (a0 : Nat) (s : State) : (setHealth a0 s).freeCtr = s.freeCtr := (setHealth_leaves a0 s).freeCtr (by decide)
@[simp] theorem setHealth_store (a0 : Nat) (s : State) : (setHealth a0 s).store = s.store := (setHealth_leaves a0 s).store (by decide)
@[simp] theorem setHealth_rooms (a0 : Nat) (s : State) : (setHealth a0 s).rooms = s.rooms := (setHealth_leaves a0 s).rooms (by decide)
@[simp] theorem setHealth_side (a0 : Nat) (s : State) : (setHealth a0 s).side = s.side := (setHealth_leaves a0 s).side (by decide)
@[simp] theorem setHealth_fabric (a0 : Nat) (s : State) : (setHealth a0 s).fabric = s.fabric := (setHealth_leaves a0 s).fabric (by decide)
@[simp] theorem setHealth_links (a0 : Nat) (s : State) : (setHealth a0 s).links = s.links := (setHealth_leaves a0 s).links (by decide)
@[simp] theorem setHealth_time (a0 : Nat) (s : State) : (setHealth a0 s).time = s.time := (setHealth_leaves a0 s).time (by decide)
@[simp] theorem setHealth_pace (a0 : Nat) (s : State) : (setHealth a0 s).pace = s.pace := (setHealth_leaves a0 s).pace (by decide)
@[simp] theorem setHealth_power (a0 : Nat) (s : State) : (setHealth a0 s).power = s.power := (setHealth_leaves a0 s).power (by decide)
@[simp] theorem setHealth_health (a0 : Nat) (s : State) : (setHealth a0 s).health = s.health := (setHealth_leaves a0 s).health (by decide)
@[simp] theorem setHealth_seq (a0 : Nat) (s : State) : (setHealth a0 s).seq = s.seq := (setHealth_leaves a0 s).seq (by decide)
@[simp] theorem setHealth_steward_mboxes (a0 : Nat) (s : State) : (setHealth a0 s).steward.mboxes = s.steward.mboxes := (setHealth_leaves a0 s).steward_mboxes (by decide)
@[simp] theorem setHealth_steward_ctxs (a0 : Nat) (s : State) : (setHealth a0 s).steward.ctxs = s.steward.ctxs := (setHealth_leaves a0 s).steward_ctxs (by decide)
@[simp] theorem setHealth_steward_queues (a0 : Nat) (s : State) : (setHealth a0 s).steward.queues = s.steward.queues := (setHealth_leaves a0 s).steward_queues (by decide)
@[simp] theorem setHealth_steward_images (a0 : Nat) (s : State) : (setHealth a0 s).steward.images = s.steward.images := (setHealth_leaves a0 s).steward_images (by decide)
@[simp] theorem setHealth_steward_tasks (a0 : Nat) (s : State) : (setHealth a0 s).steward.tasks = s.steward.tasks := (setHealth_leaves a0 s).steward_tasks (by decide)
@[simp] theorem setHealth_shell_hatch (a0 : Nat) (s : State) : (setHealth a0 s).shell.hatch = s.shell.hatch := (setHealth_leaves a0 s).shell_hatch (by decide)
@[simp] theorem setHealth_shell_keep (a0 : Nat) (s : State) : (setHealth a0 s).shell.keep = s.shell.keep := (setHealth_leaves a0 s).shell_keep (by decide)
@[simp] theorem setHealth_shell_snap (a0 : Nat) (s : State) : (setHealth a0 s).shell.snap = s.shell.snap := (setHealth_leaves a0 s).shell_snap (by decide)
theorem setFabric_leaves (a0 : Nat) (s : State) : changesOnly (· ∈ ([.fabricSt, .intStatus, .messages] : List Part)) s (setFabric a0 s) :=
  setFabric_only (by decide) (by decide) (by decide) a0 only_refl
@[simp] theorem setFabric_params (a0 : Nat) (s : State) : (setFabric a0 s).params = s.params := (setFabric_leaves a0 s).params (by decide)
@[simp] theorem setFabric_offered (a0 : Nat) (s : State) : (setFabric a0 s).offered = s.offered := (setFabric_leaves a0 s).offered (by decide)
@[simp] theorem setFabric_freeCtr (a0 : Nat) (s : State) : (setFabric a0 s).freeCtr = s.freeCtr := (setFabric_leaves a0 s).freeCtr (by decide)
@[simp] theorem setFabric_store (a0 : Nat) (s : State) : (setFabric a0 s).store = s.store := (setFabric_leaves a0 s).store (by decide)
@[simp] theorem setFabric_rooms (a0 : Nat) (s : State) : (setFabric a0 s).rooms = s.rooms := (setFabric_leaves a0 s).rooms (by decide)
@[simp] theorem setFabric_side (a0 : Nat) (s : State) : (setFabric a0 s).side = s.side := (setFabric_leaves a0 s).side (by decide)
@[simp] theorem setFabric_fabric (a0 : Nat) (s : State) : (setFabric a0 s).fabric = s.fabric := (setFabric_leaves a0 s).fabric (by decide)
@[simp] theorem setFabric_links (a0 : Nat) (s : State) : (setFabric a0 s).links = s.links := (setFabric_leaves a0 s).links (by decide)
@[simp] theorem setFabric_time (a0 : Nat) (s : State) : (setFabric a0 s).time = s.time := (setFabric_leaves a0 s).time (by decide)
@[simp] theorem setFabric_pace (a0 : Nat) (s : State) : (setFabric a0 s).pace = s.pace := (setFabric_leaves a0 s).pace (by decide)
@[simp] theorem setFabric_power (a0 : Nat) (s : State) : (setFabric a0 s).power = s.power := (setFabric_leaves a0 s).power (by decide)
@[simp] theorem setFabric_health (a0 : Nat) (s : State) : (setFabric a0 s).health = s.health := (setFabric_leaves a0 s).health (by decide)
@[simp] theorem setFabric_seq (a0 : Nat) (s : State) : (setFabric a0 s).seq = s.seq := (setFabric_leaves a0 s).seq (by decide)
@[simp] theorem setFabric_steward_mboxes (a0 : Nat) (s : State) : (setFabric a0 s).steward.mboxes = s.steward.mboxes := (setFabric_leaves a0 s).steward_mboxes (by decide)
@[simp] theorem setFabric_steward_ctxs (a0 : Nat) (s : State) : (setFabric a0 s).steward.ctxs = s.steward.ctxs := (setFabric_leaves a0 s).steward_ctxs (by decide)
@[simp] theorem setFabric_steward_queues (a0 : Nat) (s : State) : (setFabric a0 s).steward.queues = s.steward.queues := (setFabric_leaves a0 s).steward_queues (by decide)
@[simp] theorem setFabric_steward_images (a0 : Nat) (s : State) : (setFabric a0 s).steward.images = s.steward.images := (setFabric_leaves a0 s).steward_images (by decide)
@[simp] theorem setFabric_steward_tasks (a0 : Nat) (s : State) : (setFabric a0 s).steward.tasks = s.steward.tasks := (setFabric_leaves a0 s).steward_tasks (by decide)
@[simp] theorem setFabric_shell_hatch (a0 : Nat) (s : State) : (setFabric a0 s).shell.hatch = s.shell.hatch := (setFabric_leaves a0 s).shell_hatch (by decide)
@[simp] theorem setFabric_shell_keep (a0 : Nat) (s : State) : (setFabric a0 s).shell.keep = s.shell.keep := (setFabric_leaves a0 s).shell_keep (by decide)
@[simp] theorem setFabric_shell_snap (a0 : Nat) (s : State) : (setFabric a0 s).shell.snap = s.shell.snap := (setFabric_leaves a0 s).shell_snap (by decide)
theorem setTimeSt_leaves (a0 : Nat) (s : State) : changesOnly (· ∈ ([.intStatus, .messages, .time] : List Part)) s (setTimeSt a0 s) :=
  setTimeSt_only (by decide) (by decide) (by decide) a0 only_refl
@[simp] theorem setTimeSt_params (a0 : Nat) (s : State) : (setTimeSt a0 s).params = s.params := (setTimeSt_leaves a0 s).params (by decide)
@[simp] theorem setTimeSt_offered (a0 : Nat) (s : State) : (setTimeSt a0 s).offered = s.offered := (setTimeSt_leaves a0 s).offered (by decide)
@[simp] theorem setTimeSt_freeCtr (a0 : Nat) (s : State) : (setTimeSt a0 s).freeCtr = s.freeCtr := (setTimeSt_leaves a0 s).freeCtr (by decide)
@[simp] theorem setTimeSt_store (a0 : Nat) (s : State) : (setTimeSt a0 s).store = s.store := (setTimeSt_leaves a0 s).store (by decide)
@[simp] theorem setTimeSt_rooms (a0 : Nat) (s : State) : (setTimeSt a0 s).rooms = s.rooms := (setTimeSt_leaves a0 s).rooms (by decide)
@[simp] theorem setTimeSt_side (a0 : Nat) (s : State) : (setTimeSt a0 s).side = s.side := (setTimeSt_leaves a0 s).side (by decide)
@[simp] theorem setTimeSt_fabric (a0 : Nat) (s : State) : (setTimeSt a0 s).fabric = s.fabric := (setTimeSt_leaves a0 s).fabric (by decide)
@[simp] theorem setTimeSt_links (a0 : Nat) (s : State) : (setTimeSt a0 s).links = s.links := (setTimeSt_leaves a0 s).links (by decide)
@[simp] theorem setTimeSt_pace (a0 : Nat) (s : State) : (setTimeSt a0 s).pace = s.pace := (setTimeSt_leaves a0 s).pace (by decide)
@[simp] theorem setTimeSt_power (a0 : Nat) (s : State) : (setTimeSt a0 s).power = s.power := (setTimeSt_leaves a0 s).power (by decide)
@[simp] theorem setTimeSt_health (a0 : Nat) (s : State) : (setTimeSt a0 s).health = s.health := (setTimeSt_leaves a0 s).health (by decide)
@[simp] theorem setTimeSt_seq (a0 : Nat) (s : State) : (setTimeSt a0 s).seq = s.seq := (setTimeSt_leaves a0 s).seq (by decide)
@[simp] theorem setTimeSt_steward_mboxes (a0 : Nat) (s : State) : (setTimeSt a0 s).steward.mboxes = s.steward.mboxes := (setTimeSt_leaves a0 s).steward_mboxes (by decide)
@[simp] theorem setTimeSt_steward_ctxs (a0 : Nat) (s : State) : (setTimeSt a0 s).steward.ctxs = s.steward.ctxs := (setTimeSt_leaves a0 s).steward_ctxs (by decide)
@[simp] theorem setTimeSt_steward_queues (a0 : Nat) (s : State) : (setTimeSt a0 s).steward.queues = s.steward.queues := (setTimeSt_leaves a0 s).steward_queues (by decide)
@[simp] theorem setTimeSt_steward_images (a0 : Nat) (s : State) : (setTimeSt a0 s).steward.images = s.steward.images := (setTimeSt_leaves a0 s).steward_images (by decide)
@[simp] theorem setTimeSt_steward_tasks (a0 : Nat) (s : State) : (setTimeSt a0 s).steward.tasks = s.steward.tasks := (setTimeSt_leaves a0 s).steward_tasks (by decide)
@[simp] theorem setTimeSt_shell_hatch (a0 : Nat) (s : State) : (setTimeSt a0 s).shell.hatch = s.shell.hatch := (setTimeSt_leaves a0 s).shell_hatch (by decide)
@[simp] theorem setTimeSt_shell_keep (a0 : Nat) (s : State) : (setTimeSt a0 s).shell.keep = s.shell.keep := (setTimeSt_leaves a0 s).shell_keep (by decide)
@[simp] theorem setTimeSt_shell_snap (a0 : Nat) (s : State) : (setTimeSt a0 s).shell.snap = s.shell.snap := (setTimeSt_leaves a0 s).shell_snap (by decide)
theorem regReply_leaves (a0 : Nat) (a1 : Nat) (a2 : List Byte) (s : State) : changesOnly (· ∈ ([.messages] : List Part)) s (regReply a0 a1 a2 s) :=
  regReply_only (by decide) a0 a1 a2 only_refl
@[simp] theorem regReply_params (a0 : Nat) (a1 : Nat) (a2 : List Byte) (s : State) : (regReply a0 a1 a2 s).params = s.params := (regReply_leaves a0 a1 a2 s).params (by decide)
@[simp] theorem regReply_offered (a0 : Nat) (a1 : Nat) (a2 : List Byte) (s : State) : (regReply a0 a1 a2 s).offered = s.offered := (regReply_leaves a0 a1 a2 s).offered (by decide)
@[simp] theorem regReply_freeCtr (a0 : Nat) (a1 : Nat) (a2 : List Byte) (s : State) : (regReply a0 a1 a2 s).freeCtr = s.freeCtr := (regReply_leaves a0 a1 a2 s).freeCtr (by decide)
@[simp] theorem regReply_store (a0 : Nat) (a1 : Nat) (a2 : List Byte) (s : State) : (regReply a0 a1 a2 s).store = s.store := (regReply_leaves a0 a1 a2 s).store (by decide)
@[simp] theorem regReply_rooms (a0 : Nat) (a1 : Nat) (a2 : List Byte) (s : State) : (regReply a0 a1 a2 s).rooms = s.rooms := (regReply_leaves a0 a1 a2 s).rooms (by decide)
@[simp] theorem regReply_side (a0 : Nat) (a1 : Nat) (a2 : List Byte) (s : State) : (regReply a0 a1 a2 s).side = s.side := (regReply_leaves a0 a1 a2 s).side (by decide)
@[simp] theorem regReply_fabric (a0 : Nat) (a1 : Nat) (a2 : List Byte) (s : State) : (regReply a0 a1 a2 s).fabric = s.fabric := (regReply_leaves a0 a1 a2 s).fabric (by decide)
@[simp] theorem regReply_links (a0 : Nat) (a1 : Nat) (a2 : List Byte) (s : State) : (regReply a0 a1 a2 s).links = s.links := (regReply_leaves a0 a1 a2 s).links (by decide)
@[simp] theorem regReply_time (a0 : Nat) (a1 : Nat) (a2 : List Byte) (s : State) : (regReply a0 a1 a2 s).time = s.time := (regReply_leaves a0 a1 a2 s).time (by decide)
@[simp] theorem regReply_pace (a0 : Nat) (a1 : Nat) (a2 : List Byte) (s : State) : (regReply a0 a1 a2 s).pace = s.pace := (regReply_leaves a0 a1 a2 s).pace (by decide)
@[simp] theorem regReply_power (a0 : Nat) (a1 : Nat) (a2 : List Byte) (s : State) : (regReply a0 a1 a2 s).power = s.power := (regReply_leaves a0 a1 a2 s).power (by decide)
@[simp] theorem regReply_health (a0 : Nat) (a1 : Nat) (a2 : List Byte) (s : State) : (regReply a0 a1 a2 s).health = s.health := (regReply_leaves a0 a1 a2 s).health (by decide)
@[simp] theorem regReply_seq (a0 : Nat) (a1 : Nat) (a2 : List Byte) (s : State) : (regReply a0 a1 a2 s).seq = s.seq := (regReply_leaves a0 a1 a2 s).seq (by decide)
@[simp] theorem regReply_steward_mboxes (a0 : Nat) (a1 : Nat) (a2 : List Byte) (s : State) : (regReply a0 a1 a2 s).steward.mboxes = s.steward.mboxes := (regReply_leaves a0 a1 a2 s).steward_mboxes (by decide)
@[simp] theorem regReply_steward_ctxs (a0 : Nat) (a1 : Nat) (a2 : List Byte) (s : State) : (regReply a0 a1 a2 s).steward.ctxs = s.steward.ctxs := (regReply_leaves a0 a1 a2 s).steward_ctxs (by decide)
@[simp] theorem regReply_steward_queues (a0 : Nat) (a1 : Nat) (a2 : List Byte) (s : State) : (regReply a0 a1 a2 s).steward.queues = s.steward.queues := (regReply_leaves a0 a1 a2 s).steward_queues (by decide)
@[simp] theorem regReply_steward_images (a0 : Nat) (a1 : Nat) (a2 : List Byte) (s : State) : (regReply a0 a1 a2 s).steward.images = s.steward.images := (regReply_leaves a0 a1 a2 s).steward_images (by decide)
@[simp] theorem regReply_steward_tasks (a0 : Nat) (a1 : Nat) (a2 : List Byte) (s : State) : (regReply a0 a1 a2 s).steward.tasks = s.steward.tasks := (regReply_leaves a0 a1 a2 s).steward_tasks (by decide)
@[simp] theorem regReply_shell_hatch (a0 : Nat) (a1 : Nat) (a2 : List Byte) (s : State) : (regReply a0 a1 a2 s).shell.hatch = s.shell.hatch := (regReply_leaves a0 a1 a2 s).shell_hatch (by decide)
@[simp] theorem regReply_shell_keep (a0 : Nat) (a1 : Nat) (a2 : List Byte) (s : State) : (regReply a0 a1 a2 s).shell.keep = s.shell.keep := (regReply_leaves a0 a1 a2 s).shell_keep (by decide)
@[simp] theorem regReply_shell_snap (a0 : Nat) (a1 : Nat) (a2 : List Byte) (s : State) : (regReply a0 a1 a2 s).shell.snap = s.shell.snap := (regReply_leaves a0 a1 a2 s).shell_snap (by decide)
theorem noteRead_leaves (a0 : Nat) (a1 : Nat) (s : State) : changesOnly (· ∈ ([.health] : List Part)) s (noteRead a0 a1 s) :=
  noteRead_only (by decide) a0 a1 only_refl
@[simp] theorem noteRead_params (a0 : Nat) (a1 : Nat) (s : State) : (noteRead a0 a1 s).params = s.params := (noteRead_leaves a0 a1 s).params (by decide)
@[simp] theorem noteRead_offered (a0 : Nat) (a1 : Nat) (s : State) : (noteRead a0 a1 s).offered = s.offered := (noteRead_leaves a0 a1 s).offered (by decide)
@[simp] theorem noteRead_freeCtr (a0 : Nat) (a1 : Nat) (s : State) : (noteRead a0 a1 s).freeCtr = s.freeCtr := (noteRead_leaves a0 a1 s).freeCtr (by decide)
@[simp] theorem noteRead_store (a0 : Nat) (a1 : Nat) (s : State) : (noteRead a0 a1 s).store = s.store := (noteRead_leaves a0 a1 s).store (by decide)
@[simp] theorem noteRead_rooms (a0 : Nat) (a1 : Nat) (s : State) : (noteRead a0 a1 s).rooms = s.rooms := (noteRead_leaves a0 a1 s).rooms (by decide)
@[simp] theorem noteRead_side (a0 : Nat) (a1 : Nat) (s : State) : (noteRead a0 a1 s).side = s.side := (noteRead_leaves a0 a1 s).side (by decide)
@[simp] theorem noteRead_fabric (a0 : Nat) (a1 : Nat) (s : State) : (noteRead a0 a1 s).fabric = s.fabric := (noteRead_leaves a0 a1 s).fabric (by decide)
@[simp] theorem noteRead_links (a0 : Nat) (a1 : Nat) (s : State) : (noteRead a0 a1 s).links = s.links := (noteRead_leaves a0 a1 s).links (by decide)
@[simp] theorem noteRead_time (a0 : Nat) (a1 : Nat) (s : State) : (noteRead a0 a1 s).time = s.time := (noteRead_leaves a0 a1 s).time (by decide)
@[simp] theorem noteRead_pace (a0 : Nat) (a1 : Nat) (s : State) : (noteRead a0 a1 s).pace = s.pace := (noteRead_leaves a0 a1 s).pace (by decide)
@[simp] theorem noteRead_power (a0 : Nat) (a1 : Nat) (s : State) : (noteRead a0 a1 s).power = s.power := (noteRead_leaves a0 a1 s).power (by decide)
@[simp] theorem noteRead_seq (a0 : Nat) (a1 : Nat) (s : State) : (noteRead a0 a1 s).seq = s.seq := (noteRead_leaves a0 a1 s).seq (by decide)
@[simp] theorem noteRead_steward_mboxes (a0 : Nat) (a1 : Nat) (s : State) : (noteRead a0 a1 s).steward.mboxes = s.steward.mboxes := (noteRead_leaves a0 a1 s).steward_mboxes (by decide)
@[simp] theorem noteRead_steward_ctxs (a0 : Nat) (a1 : Nat) (s : State) : (noteRead a0 a1 s).steward.ctxs = s.steward.ctxs := (noteRead_leaves a0 a1 s).steward_ctxs (by decide)
@[simp] theorem noteRead_steward_queues (a0 : Nat) (a1 : Nat) (s : State) : (noteRead a0 a1 s).steward.queues = s.steward.queues := (noteRead_leaves a0 a1 s).steward_queues (by decide)
@[simp] theorem noteRead_steward_images (a0 : Nat) (a1 : Nat) (s : State) : (noteRead a0 a1 s).steward.images = s.steward.images := (noteRead_leaves a0 a1 s).steward_images (by decide)
@[simp] theorem noteRead_steward_tasks (a0 : Nat) (a1 : Nat) (s : State) : (noteRead a0 a1 s).steward.tasks = s.steward.tasks := (noteRead_leaves a0 a1 s).steward_tasks (by decide)
@[simp] theorem noteRead_shell_hatch (a0 : Nat) (a1 : Nat) (s : State) : (noteRead a0 a1 s).shell.hatch = s.shell.hatch := (noteRead_leaves a0 a1 s).shell_hatch (by decide)
@[simp] theorem noteRead_shell_keep (a0 : Nat) (a1 : Nat) (s : State) : (noteRead a0 a1 s).shell.keep = s.shell.keep := (noteRead_leaves a0 a1 s).shell_keep (by decide)
@[simp] theorem noteRead_shell_snap (a0 : Nat) (a1 : Nat) (s : State) : (noteRead a0 a1 s).shell.snap = s.shell.snap := (noteRead_leaves a0 a1 s).shell_snap (by decide)
theorem tryRecord_leaves (a0 : Nat) (s : State) : changesOnly (· ∈ ([.tasks, .requests, .messages] : List Part)) s (tryRecord a0 s) :=
  tryRecord_only (by decide) (by decide) (by decide) a0 only_refl
@[simp] theorem tryRecord_params (a0 : Nat) (s : State) : (tryRecord a0 s).params = s.params := (tryRecord_leaves a0 s).params (by decide)
@[simp] theorem tryRecord_offered (a0 : Nat) (s : State) : (tryRecord a0 s).offered = s.offered := (tryRecord_leaves a0 s).offered (by decide)
@[simp] theorem tryRecord_freeCtr (a0 : Nat) (s : State) : (tryRecord a0 s).freeCtr = s.freeCtr := (tryRecord_leaves a0 s).freeCtr (by decide)
@[simp] theorem tryRecord_store (a0 : Nat) (s : State) : (tryRecord a0 s).store = s.store := (tryRecord_leaves a0 s).store (by decide)
@[simp] theorem tryRecord_rooms (a0 : Nat) (s : State) : (tryRecord a0 s).rooms = s.rooms := (tryRecord_leaves a0 s).rooms (by decide)
@[simp] theorem tryRecord_side (a0 : Nat) (s : State) : (tryRecord a0 s).side = s.side := (tryRecord_leaves a0 s).side (by decide)
@[simp] theorem tryRecord_fabric (a0 : Nat) (s : State) : (tryRecord a0 s).fabric = s.fabric := (tryRecord_leaves a0 s).fabric (by decide)
@[simp] theorem tryRecord_links (a0 : Nat) (s : State) : (tryRecord a0 s).links = s.links := (tryRecord_leaves a0 s).links (by decide)
@[simp] theorem tryRecord_time (a0 : Nat) (s : State) : (tryRecord a0 s).time = s.time := (tryRecord_leaves a0 s).time (by decide)
@[simp] theorem tryRecord_pace (a0 : Nat) (s : State) : (tryRecord a0 s).pace = s.pace := (tryRecord_leaves a0 s).pace (by decide)
@[simp] theorem tryRecord_power (a0 : Nat) (s : State) : (tryRecord a0 s).power = s.power := (tryRecord_leaves a0 s).power (by decide)
@[simp] theorem tryRecord_health (a0 : Nat) (s : State) : (tryRecord a0 s).health = s.health := (tryRecord_leaves a0 s).health (by decide)
@[simp] theorem tryRecord_seq (a0 : Nat) (s : State) : (tryRecord a0 s).seq = s.seq := (tryRecord_leaves a0 s).seq (by decide)
@[simp] theorem tryRecord_steward_mboxes (a0 : Nat) (s : State) : (tryRecord a0 s).steward.mboxes = s.steward.mboxes := (tryRecord_leaves a0 s).steward_mboxes (by decide)
@[simp] theorem tryRecord_steward_ctxs (a0 : Nat) (s : State) : (tryRecord a0 s).steward.ctxs = s.steward.ctxs := (tryRecord_leaves a0 s).steward_ctxs (by decide)
@[simp] theorem tryRecord_steward_queues (a0 : Nat) (s : State) : (tryRecord a0 s).steward.queues = s.steward.queues := (tryRecord_leaves a0 s).steward_queues (by decide)
@[simp] theorem tryRecord_steward_images (a0 : Nat) (s : State) : (tryRecord a0 s).steward.images = s.steward.images := (tryRecord_leaves a0 s).steward_images (by decide)
@[simp] theorem tryRecord_shell_hatch (a0 : Nat) (s : State) : (tryRecord a0 s).shell.hatch = s.shell.hatch := (tryRecord_leaves a0 s).shell_hatch (by decide)
@[simp] theorem tryRecord_shell_keep (a0 : Nat) (s : State) : (tryRecord a0 s).shell.keep = s.shell.keep := (tryRecord_leaves a0 s).shell_keep (by decide)
@[simp] theorem tryRecord_shell_snap (a0 : Nat) (s : State) : (tryRecord a0 s).shell.snap = s.shell.snap := (tryRecord_leaves a0 s).shell_snap (by decide)
theorem finishTask_leaves (a0 : Nat) (a1 : TState) (a2 : Nat) (s : State) : changesOnly (· ∈ ([.queues, .tasks, .requests, .messages] : List Part)) s (finishTask a0 a1 a2 s) :=
  finishTask_only (by decide) (by decide) (by decide) (by decide) a0 a1 a2 only_refl
@[simp] theorem finishTask_params (a0 : Nat) (a1 : TState) (a2 : Nat) (s : State) : (finishTask a0 a1 a2 s).params = s.params := (finishTask_leaves a0 a1 a2 s).params (by decide)
@[simp] theorem finishTask_offered (a0 : Nat) (a1 : TState) (a2 : Nat) (s : State) : (finishTask a0 a1 a2 s).offered = s.offered := (finishTask_leaves a0 a1 a2 s).offered (by decide)
@[simp] theorem finishTask_freeCtr (a0 : Nat) (a1 : TState) (a2 : Nat) (s : State) : (finishTask a0 a1 a2 s).freeCtr = s.freeCtr := (finishTask_leaves a0 a1 a2 s).freeCtr (by decide)
@[simp] theorem finishTask_store (a0 : Nat) (a1 : TState) (a2 : Nat) (s : State) : (finishTask a0 a1 a2 s).store = s.store := (finishTask_leaves a0 a1 a2 s).store (by decide)
@[simp] theorem finishTask_rooms (a0 : Nat) (a1 : TState) (a2 : Nat) (s : State) : (finishTask a0 a1 a2 s).rooms = s.rooms := (finishTask_leaves a0 a1 a2 s).rooms (by decide)
@[simp] theorem finishTask_side (a0 : Nat) (a1 : TState) (a2 : Nat) (s : State) : (finishTask a0 a1 a2 s).side = s.side := (finishTask_leaves a0 a1 a2 s).side (by decide)
@[simp] theorem finishTask_fabric (a0 : Nat) (a1 : TState) (a2 : Nat) (s : State) : (finishTask a0 a1 a2 s).fabric = s.fabric := (finishTask_leaves a0 a1 a2 s).fabric (by decide)
@[simp] theorem finishTask_links (a0 : Nat) (a1 : TState) (a2 : Nat) (s : State) : (finishTask a0 a1 a2 s).links = s.links := (finishTask_leaves a0 a1 a2 s).links (by decide)
@[simp] theorem finishTask_time (a0 : Nat) (a1 : TState) (a2 : Nat) (s : State) : (finishTask a0 a1 a2 s).time = s.time := (finishTask_leaves a0 a1 a2 s).time (by decide)
@[simp] theorem finishTask_pace (a0 : Nat) (a1 : TState) (a2 : Nat) (s : State) : (finishTask a0 a1 a2 s).pace = s.pace := (finishTask_leaves a0 a1 a2 s).pace (by decide)
@[simp] theorem finishTask_power (a0 : Nat) (a1 : TState) (a2 : Nat) (s : State) : (finishTask a0 a1 a2 s).power = s.power := (finishTask_leaves a0 a1 a2 s).power (by decide)
@[simp] theorem finishTask_health (a0 : Nat) (a1 : TState) (a2 : Nat) (s : State) : (finishTask a0 a1 a2 s).health = s.health := (finishTask_leaves a0 a1 a2 s).health (by decide)
@[simp] theorem finishTask_seq (a0 : Nat) (a1 : TState) (a2 : Nat) (s : State) : (finishTask a0 a1 a2 s).seq = s.seq := (finishTask_leaves a0 a1 a2 s).seq (by decide)
@[simp] theorem finishTask_steward_mboxes (a0 : Nat) (a1 : TState) (a2 : Nat) (s : State) : (finishTask a0 a1 a2 s).steward.mboxes = s.steward.mboxes := (finishTask_leaves a0 a1 a2 s).steward_mboxes (by decide)
@[simp] theorem finishTask_steward_ctxs (a0 : Nat) (a1 : TState) (a2 : Nat) (s : State) : (finishTask a0 a1 a2 s).steward.ctxs = s.steward.ctxs := (finishTask_leaves a0 a1 a2 s).steward_ctxs (by decide)
@[simp] theorem finishTask_steward_images (a0 : Nat) (a1 : TState) (a2 : Nat) (s : State) : (finishTask a0 a1 a2 s).steward.images = s.steward.images := (finishTask_leaves a0 a1 a2 s).steward_images (by decide)
@[simp] theorem finishTask_shell_hatch (a0 : Nat) (a1 : TState) (a2 : Nat) (s : State) : (finishTask a0 a1 a2 s).shell.hatch = s.shell.hatch := (finishTask_leaves a0 a1 a2 s).shell_hatch (by decide)
@[simp] theorem finishTask_shell_keep (a0 : Nat) (a1 : TState) (a2 : Nat) (s : State) : (finishTask a0 a1 a2 s).shell.keep = s.shell.keep := (finishTask_leaves a0 a1 a2 s).shell_keep (by decide)
@[simp] theorem finishTask_shell_snap (a0 : Nat) (a1 : TState) (a2 : Nat) (s : State) : (finishTask a0 a1 a2 s).shell.snap = s.shell.snap := (finishTask_leaves a0 a1 a2 s).shell_snap (by decide)
theorem promote_leaves  (s : State) : changesOnly (· ∈ ([.tasks] : List Part)) s (promote  s) :=
  promote_only (by decide)  only_refl
@[simp] theorem promote_params  (s : State) : (promote  s).params = s.params := (promote_leaves  s).params (by decide)
@[simp] theorem promote_offered  (s : State) : (promote  s).offered = s.offered := (promote_leaves  s).offered (by decide)
@[simp] theorem promote_freeCtr  (s : State) : (promote  s).freeCtr = s.freeCtr := (promote_leaves  s).freeCtr (by decide)
@[simp] theorem promote_store  (s : State) : (promote  s).store = s.store := (promote_leaves  s).store (by decide)
@[simp] theorem promote_rooms  (s : State) : (promote  s).rooms = s.rooms := (promote_leaves  s).rooms (by decide)
@[simp] theorem promote_side  (s : State) : (promote  s).side = s.side := (promote_leaves  s).side (by decide)
@[simp] theorem promote_fabric  (s : State) : (promote  s).fabric = s.fabric := (promote_leaves  s).fabric (by decide)
@[simp] theorem promote_links  (s : State) : (promote  s).links = s.links := (promote_leaves  s).links (by decide)
@[simp] theorem promote_time  (s : State) : (promote  s).time = s.time := (promote_leaves  s).time (by decide)
@[simp] theorem promote_pace  (s : State) : (promote  s).pace = s.pace := (promote_leaves  s).pace (by decide)
@[simp] theorem promote_power  (s : State) : (promote  s).power = s.power := (promote_leaves  s).power (by decide)
@[simp] theorem promote_health  (s : State) : (promote  s).health = s.health := (promote_leaves  s).health (by decide)
@[simp] theorem promote_seq  (s : State) : (promote  s).seq = s.seq := (promote_leaves  s).seq (by decide)
@[simp] theorem promote_steward_mboxes  (s : State) : (promote  s).steward.mboxes = s.steward.mboxes := (promote_leaves  s).steward_mboxes (by decide)
@[simp] theorem promote_steward_ctxs  (s : State) : (promote  s).steward.ctxs = s.steward.ctxs := (promote_leaves  s).steward_ctxs (by decide)
@[simp] theorem promote_steward_queues  (s : State) : (promote  s).steward.queues = s.steward.queues := (promote_leaves  s).steward_queues (by decide)
@[simp] theorem promote_steward_images  (s : State) : (promote  s).steward.images = s.steward.images := (promote_leaves  s).steward_images (by decide)
@[simp] theorem promote_shell_hatch  (s : State) : (promote  s).shell.hatch = s.shell.hatch := (promote_leaves  s).shell_hatch (by decide)
@[simp] theorem promote_shell_keep  (s : State) : (promote  s).shell.keep = s.shell.keep := (promote_leaves  s).shell_keep (by decide)
@[simp] theorem promote_shell_snap  (s : State) : (promote  s).shell.snap = s.shell.snap := (promote_leaves  s).shell_snap (by decide)
theorem setFence_leaves (a0 : Nat) (a1 : Bool) (s : State) : changesOnly (· ∈ ([.fences, .tasks, .requests, .messages, .porch] : List Part)) s (setFence a0 a1 s) :=
  setFence_only (by decide) (by decide) (by decide) (by decide) (by decide) a0 a1 only_refl
@[simp] theorem setFence_params (a0 : Nat) (a1 : Bool) (s : State) : (setFence a0 a1 s).params = s.params := (setFence_leaves a0 a1 s).params (by decide)
@[simp] theorem setFence_offered (a0 : Nat) (a1 : Bool) (s : State) : (setFence a0 a1 s).offered = s.offered := (setFence_leaves a0 a1 s).offered (by decide)
@[simp] theorem setFence_freeCtr (a0 : Nat) (a1 : Bool) (s : State) : (setFence a0 a1 s).freeCtr = s.freeCtr := (setFence_leaves a0 a1 s).freeCtr (by decide)
@[simp] theorem setFence_store (a0 : Nat) (a1 : Bool) (s : State) : (setFence a0 a1 s).store = s.store := (setFence_leaves a0 a1 s).store (by decide)
@[simp] theorem setFence_rooms (a0 : Nat) (a1 : Bool) (s : State) : (setFence a0 a1 s).rooms = s.rooms := (setFence_leaves a0 a1 s).rooms (by decide)
@[simp] theorem setFence_side (a0 : Nat) (a1 : Bool) (s : State) : (setFence a0 a1 s).side = s.side := (setFence_leaves a0 a1 s).side (by decide)
@[simp] theorem setFence_fabric (a0 : Nat) (a1 : Bool) (s : State) : (setFence a0 a1 s).fabric = s.fabric := (setFence_leaves a0 a1 s).fabric (by decide)
@[simp] theorem setFence_links (a0 : Nat) (a1 : Bool) (s : State) : (setFence a0 a1 s).links = s.links := (setFence_leaves a0 a1 s).links (by decide)
@[simp] theorem setFence_time (a0 : Nat) (a1 : Bool) (s : State) : (setFence a0 a1 s).time = s.time := (setFence_leaves a0 a1 s).time (by decide)
@[simp] theorem setFence_pace (a0 : Nat) (a1 : Bool) (s : State) : (setFence a0 a1 s).pace = s.pace := (setFence_leaves a0 a1 s).pace (by decide)
@[simp] theorem setFence_power (a0 : Nat) (a1 : Bool) (s : State) : (setFence a0 a1 s).power = s.power := (setFence_leaves a0 a1 s).power (by decide)
@[simp] theorem setFence_health (a0 : Nat) (a1 : Bool) (s : State) : (setFence a0 a1 s).health = s.health := (setFence_leaves a0 a1 s).health (by decide)
@[simp] theorem setFence_seq (a0 : Nat) (a1 : Bool) (s : State) : (setFence a0 a1 s).seq = s.seq := (setFence_leaves a0 a1 s).seq (by decide)
@[simp] theorem setFence_steward_mboxes (a0 : Nat) (a1 : Bool) (s : State) : (setFence a0 a1 s).steward.mboxes = s.steward.mboxes := (setFence_leaves a0 a1 s).steward_mboxes (by decide)
@[simp] theorem setFence_steward_ctxs (a0 : Nat) (a1 : Bool) (s : State) : (setFence a0 a1 s).steward.ctxs = s.steward.ctxs := (setFence_leaves a0 a1 s).steward_ctxs (by decide)
@[simp] theorem setFence_steward_queues (a0 : Nat) (a1 : Bool) (s : State) : (setFence a0 a1 s).steward.queues = s.steward.queues := (setFence_leaves a0 a1 s).steward_queues (by decide)
@[simp] theorem setFence_steward_images (a0 : Nat) (a1 : Bool) (s : State) : (setFence a0 a1 s).steward.images = s.steward.images := (setFence_leaves a0 a1 s).steward_images (by decide)
@[simp] theorem setFence_shell_hatch (a0 : Nat) (a1 : Bool) (s : State) : (setFence a0 a1 s).shell.hatch = s.shell.hatch := (setFence_leaves a0 a1 s).shell_hatch (by decide)
@[simp] theorem setFence_shell_keep (a0 : Nat) (a1 : Bool) (s : State) : (setFence a0 a1 s).shell.keep = s.shell.keep := (setFence_leaves a0 a1 s).shell_keep (by decide)
@[simp] theorem setFence_shell_snap (a0 : Nat) (a1 : Bool) (s : State) : (setFence a0 a1 s).shell.snap = s.shell.snap := (setFence_leaves a0 a1 s).shell_snap (by decide)
theorem haltTask_leaves (a0 : Nat) (a1 : Nat) (a2 : Option FaultRec) (a3 : Bool) (s : State) : changesOnly (· ∈ ([.tasks, .fabric] : List Part)) s (haltTask a0 a1 a2 a3 s) :=
  haltTask_only (by decide) (by decide) a0 a1 a2 a3 only_refl
@[simp] theorem haltTask_params (a0 : Nat) (a1 : Nat) (a2 : Option FaultRec) (a3 : Bool) (s : State) : (haltTask a0 a1 a2 a3 s).params = s.params := (haltTask_leaves a0 a1 a2 a3 s).params (by decide)
@[simp] theorem haltTask_offered (a0 : Nat) (a1 : Nat) (a2 : Option FaultRec) (a3 : Bool) (s : State) : (haltTask a0 a1 a2 a3 s).offered = s.offered := (haltTask_leaves a0 a1 a2 a3 s).offered (by decide)
@[simp] theorem haltTask_freeCtr (a0 : Nat) (a1 : Nat) (a2 : Option FaultRec) (a3 : Bool) (s : State) : (haltTask a0 a1 a2 a3 s).freeCtr = s.freeCtr := (haltTask_leaves a0 a1 a2 a3 s).freeCtr (by decide)
@[simp] theorem haltTask_store (a0 : Nat) (a1 : Nat) (a2 : Option FaultRec) (a3 : Bool) (s : State) : (haltTask a0 a1 a2 a3 s).store = s.store := (haltTask_leaves a0 a1 a2 a3 s).store (by decide)
@[simp] theorem haltTask_rooms (a0 : Nat) (a1 : Nat) (a2 : Option FaultRec) (a3 : Bool) (s : State) : (haltTask a0 a1 a2 a3 s).rooms = s.rooms := (haltTask_leaves a0 a1 a2 a3 s).rooms (by decide)
@[simp] theorem haltTask_side (a0 : Nat) (a1 : Nat) (a2 : Option FaultRec) (a3 : Bool) (s : State) : (haltTask a0 a1 a2 a3 s).side = s.side := (haltTask_leaves a0 a1 a2 a3 s).side (by decide)
@[simp] theorem haltTask_links (a0 : Nat) (a1 : Nat) (a2 : Option FaultRec) (a3 : Bool) (s : State) : (haltTask a0 a1 a2 a3 s).links = s.links := (haltTask_leaves a0 a1 a2 a3 s).links (by decide)
@[simp] theorem haltTask_time (a0 : Nat) (a1 : Nat) (a2 : Option FaultRec) (a3 : Bool) (s : State) : (haltTask a0 a1 a2 a3 s).time = s.time := (haltTask_leaves a0 a1 a2 a3 s).time (by decide)
@[simp] theorem haltTask_pace (a0 : Nat) (a1 : Nat) (a2 : Option FaultRec) (a3 : Bool) (s : State) : (haltTask a0 a1 a2 a3 s).pace = s.pace := (haltTask_leaves a0 a1 a2 a3 s).pace (by decide)
@[simp] theorem haltTask_power (a0 : Nat) (a1 : Nat) (a2 : Option FaultRec) (a3 : Bool) (s : State) : (haltTask a0 a1 a2 a3 s).power = s.power := (haltTask_leaves a0 a1 a2 a3 s).power (by decide)
@[simp] theorem haltTask_health (a0 : Nat) (a1 : Nat) (a2 : Option FaultRec) (a3 : Bool) (s : State) : (haltTask a0 a1 a2 a3 s).health = s.health := (haltTask_leaves a0 a1 a2 a3 s).health (by decide)
@[simp] theorem haltTask_seq (a0 : Nat) (a1 : Nat) (a2 : Option FaultRec) (a3 : Bool) (s : State) : (haltTask a0 a1 a2 a3 s).seq = s.seq := (haltTask_leaves a0 a1 a2 a3 s).seq (by decide)
@[simp] theorem haltTask_steward_mboxes (a0 : Nat) (a1 : Nat) (a2 : Option FaultRec) (a3 : Bool) (s : State) : (haltTask a0 a1 a2 a3 s).steward.mboxes = s.steward.mboxes := (haltTask_leaves a0 a1 a2 a3 s).steward_mboxes (by decide)
@[simp] theorem haltTask_steward_ctxs (a0 : Nat) (a1 : Nat) (a2 : Option FaultRec) (a3 : Bool) (s : State) : (haltTask a0 a1 a2 a3 s).steward.ctxs = s.steward.ctxs := (haltTask_leaves a0 a1 a2 a3 s).steward_ctxs (by decide)
@[simp] theorem haltTask_steward_queues (a0 : Nat) (a1 : Nat) (a2 : Option FaultRec) (a3 : Bool) (s : State) : (haltTask a0 a1 a2 a3 s).steward.queues = s.steward.queues := (haltTask_leaves a0 a1 a2 a3 s).steward_queues (by decide)
@[simp] theorem haltTask_steward_images (a0 : Nat) (a1 : Nat) (a2 : Option FaultRec) (a3 : Bool) (s : State) : (haltTask a0 a1 a2 a3 s).steward.images = s.steward.images := (haltTask_leaves a0 a1 a2 a3 s).steward_images (by decide)
@[simp] theorem haltTask_shell_hatch (a0 : Nat) (a1 : Nat) (a2 : Option FaultRec) (a3 : Bool) (s : State) : (haltTask a0 a1 a2 a3 s).shell.hatch = s.shell.hatch := (haltTask_leaves a0 a1 a2 a3 s).shell_hatch (by decide)
@[simp] theorem haltTask_shell_keep (a0 : Nat) (a1 : Nat) (a2 : Option FaultRec) (a3 : Bool) (s : State) : (haltTask a0 a1 a2 a3 s).shell.keep = s.shell.keep := (haltTask_leaves a0 a1 a2 a3 s).shell_keep (by decide)
@[simp] theorem haltTask_shell_snap (a0 : Nat) (a1 : Nat) (a2 : Option FaultRec) (a3 : Bool) (s : State) : (haltTask a0 a1 a2 a3 s).shell.snap = s.shell.snap := (haltTask_leaves a0 a1 a2 a3 s).shell_snap (by decide)
theorem emitFrame_leaves (a0 : Nat) (a1 : Frame) (s : State) : changesOnly (· ∈ ([.fabric] : List Part)) s (emitFrame a0 a1 s) :=
  emitFrame_only (by decide) a0 a1 only_refl
@[simp] theorem emitFrame_params (a0 : Nat) (a1 : Frame) (s : State) : (emitFrame a0 a1 s).params = s.params := (emitFrame_leaves a0 a1 s).params (by decide)
@[simp] theorem emitFrame_offered (a0 : Nat) (a1 : Frame) (s : State) : (emitFrame a0 a1 s).offered = s.offered := (emitFrame_leaves a0 a1 s).offered (by decide)
@[simp] theorem emitFrame_freeCtr (a0 : Nat) (a1 : Frame) (s : State) : (emitFrame a0 a1 s).freeCtr = s.freeCtr := (emitFrame_leaves a0 a1 s).freeCtr (by decide)
@[simp] theorem emitFrame_store (a0 : Nat) (a1 : Frame) (s : State) : (emitFrame a0 a1 s).store = s.store := (emitFrame_leaves a0 a1 s).store (by decide)
@[simp] theorem emitFrame_rooms (a0 : Nat) (a1 : Frame) (s : State) : (emitFrame a0 a1 s).rooms = s.rooms := (emitFrame_leaves a0 a1 s).rooms (by decide)
@[simp] theorem emitFrame_side (a0 : Nat) (a1 : Frame) (s : State) : (emitFrame a0 a1 s).side = s.side := (emitFrame_leaves a0 a1 s).side (by decide)
@[simp] theorem emitFrame_links (a0 : Nat) (a1 : Frame) (s : State) : (emitFrame a0 a1 s).links = s.links := (emitFrame_leaves a0 a1 s).links (by decide)
@[simp] theorem emitFrame_time (a0 : Nat) (a1 : Frame) (s : State) : (emitFrame a0 a1 s).time = s.time := (emitFrame_leaves a0 a1 s).time (by decide)
@[simp] theorem emitFrame_pace (a0 : Nat) (a1 : Frame) (s : State) : (emitFrame a0 a1 s).pace = s.pace := (emitFrame_leaves a0 a1 s).pace (by decide)
@[simp] theorem emitFrame_power (a0 : Nat) (a1 : Frame) (s : State) : (emitFrame a0 a1 s).power = s.power := (emitFrame_leaves a0 a1 s).power (by decide)
@[simp] theorem emitFrame_health (a0 : Nat) (a1 : Frame) (s : State) : (emitFrame a0 a1 s).health = s.health := (emitFrame_leaves a0 a1 s).health (by decide)
@[simp] theorem emitFrame_seq (a0 : Nat) (a1 : Frame) (s : State) : (emitFrame a0 a1 s).seq = s.seq := (emitFrame_leaves a0 a1 s).seq (by decide)
@[simp] theorem emitFrame_steward_mboxes (a0 : Nat) (a1 : Frame) (s : State) : (emitFrame a0 a1 s).steward.mboxes = s.steward.mboxes := (emitFrame_leaves a0 a1 s).steward_mboxes (by decide)
@[simp] theorem emitFrame_steward_ctxs (a0 : Nat) (a1 : Frame) (s : State) : (emitFrame a0 a1 s).steward.ctxs = s.steward.ctxs := (emitFrame_leaves a0 a1 s).steward_ctxs (by decide)
@[simp] theorem emitFrame_steward_queues (a0 : Nat) (a1 : Frame) (s : State) : (emitFrame a0 a1 s).steward.queues = s.steward.queues := (emitFrame_leaves a0 a1 s).steward_queues (by decide)
@[simp] theorem emitFrame_steward_images (a0 : Nat) (a1 : Frame) (s : State) : (emitFrame a0 a1 s).steward.images = s.steward.images := (emitFrame_leaves a0 a1 s).steward_images (by decide)
@[simp] theorem emitFrame_steward_tasks (a0 : Nat) (a1 : Frame) (s : State) : (emitFrame a0 a1 s).steward.tasks = s.steward.tasks := (emitFrame_leaves a0 a1 s).steward_tasks (by decide)
@[simp] theorem emitFrame_shell_hatch (a0 : Nat) (a1 : Frame) (s : State) : (emitFrame a0 a1 s).shell.hatch = s.shell.hatch := (emitFrame_leaves a0 a1 s).shell_hatch (by decide)
@[simp] theorem emitFrame_shell_keep (a0 : Nat) (a1 : Frame) (s : State) : (emitFrame a0 a1 s).shell.keep = s.shell.keep := (emitFrame_leaves a0 a1 s).shell_keep (by decide)
@[simp] theorem emitFrame_shell_snap (a0 : Nat) (a1 : Frame) (s : State) : (emitFrame a0 a1 s).shell.snap = s.shell.snap := (emitFrame_leaves a0 a1 s).shell_snap (by decide)
theorem sendMgmt_leaves (a0 : Nat) (a1 : Nat) (a2 : Nat) (a3 : Nat) (a4 : Nat) (a5 : List Byte) (s : State) : changesOnly (· ∈ ([.fabric] : List Part)) s (sendMgmt a0 a1 a2 a3 a4 a5 s) :=
  sendMgmt_only (by decide) a0 a1 a2 a3 a4 a5 only_refl
@[simp] theorem sendMgmt_params (a0 : Nat) (a1 : Nat) (a2 : Nat) (a3 : Nat) (a4 : Nat) (a5 : List Byte) (s : State) : (sendMgmt a0 a1 a2 a3 a4 a5 s).params = s.params := (sendMgmt_leaves a0 a1 a2 a3 a4 a5 s).params (by decide)
@[simp] theorem sendMgmt_offered (a0 : Nat) (a1 : Nat) (a2 : Nat) (a3 : Nat) (a4 : Nat) (a5 : List Byte) (s : State) : (sendMgmt a0 a1 a2 a3 a4 a5 s).offered = s.offered := (sendMgmt_leaves a0 a1 a2 a3 a4 a5 s).offered (by decide)
@[simp] theorem sendMgmt_freeCtr (a0 : Nat) (a1 : Nat) (a2 : Nat) (a3 : Nat) (a4 : Nat) (a5 : List Byte) (s : State) : (sendMgmt a0 a1 a2 a3 a4 a5 s).freeCtr = s.freeCtr := (sendMgmt_leaves a0 a1 a2 a3 a4 a5 s).freeCtr (by decide)
@[simp] theorem sendMgmt_store (a0 : Nat) (a1 : Nat) (a2 : Nat) (a3 : Nat) (a4 : Nat) (a5 : List Byte) (s : State) : (sendMgmt a0 a1 a2 a3 a4 a5 s).store = s.store := (sendMgmt_leaves a0 a1 a2 a3 a4 a5 s).store (by decide)
@[simp] theorem sendMgmt_rooms (a0 : Nat) (a1 : Nat) (a2 : Nat) (a3 : Nat) (a4 : Nat) (a5 : List Byte) (s : State) : (sendMgmt a0 a1 a2 a3 a4 a5 s).rooms = s.rooms := (sendMgmt_leaves a0 a1 a2 a3 a4 a5 s).rooms (by decide)
@[simp] theorem sendMgmt_side (a0 : Nat) (a1 : Nat) (a2 : Nat) (a3 : Nat) (a4 : Nat) (a5 : List Byte) (s : State) : (sendMgmt a0 a1 a2 a3 a4 a5 s).side = s.side := (sendMgmt_leaves a0 a1 a2 a3 a4 a5 s).side (by decide)
@[simp] theorem sendMgmt_links (a0 : Nat) (a1 : Nat) (a2 : Nat) (a3 : Nat) (a4 : Nat) (a5 : List Byte) (s : State) : (sendMgmt a0 a1 a2 a3 a4 a5 s).links = s.links := (sendMgmt_leaves a0 a1 a2 a3 a4 a5 s).links (by decide)
@[simp] theorem sendMgmt_time (a0 : Nat) (a1 : Nat) (a2 : Nat) (a3 : Nat) (a4 : Nat) (a5 : List Byte) (s : State) : (sendMgmt a0 a1 a2 a3 a4 a5 s).time = s.time := (sendMgmt_leaves a0 a1 a2 a3 a4 a5 s).time (by decide)
@[simp] theorem sendMgmt_pace (a0 : Nat) (a1 : Nat) (a2 : Nat) (a3 : Nat) (a4 : Nat) (a5 : List Byte) (s : State) : (sendMgmt a0 a1 a2 a3 a4 a5 s).pace = s.pace := (sendMgmt_leaves a0 a1 a2 a3 a4 a5 s).pace (by decide)
@[simp] theorem sendMgmt_power (a0 : Nat) (a1 : Nat) (a2 : Nat) (a3 : Nat) (a4 : Nat) (a5 : List Byte) (s : State) : (sendMgmt a0 a1 a2 a3 a4 a5 s).power = s.power := (sendMgmt_leaves a0 a1 a2 a3 a4 a5 s).power (by decide)
@[simp] theorem sendMgmt_health (a0 : Nat) (a1 : Nat) (a2 : Nat) (a3 : Nat) (a4 : Nat) (a5 : List Byte) (s : State) : (sendMgmt a0 a1 a2 a3 a4 a5 s).health = s.health := (sendMgmt_leaves a0 a1 a2 a3 a4 a5 s).health (by decide)
@[simp] theorem sendMgmt_seq (a0 : Nat) (a1 : Nat) (a2 : Nat) (a3 : Nat) (a4 : Nat) (a5 : List Byte) (s : State) : (sendMgmt a0 a1 a2 a3 a4 a5 s).seq = s.seq := (sendMgmt_leaves a0 a1 a2 a3 a4 a5 s).seq (by decide)
@[simp] theorem sendMgmt_steward_mboxes (a0 : Nat) (a1 : Nat) (a2 : Nat) (a3 : Nat) (a4 : Nat) (a5 : List Byte) (s : State) : (sendMgmt a0 a1 a2 a3 a4 a5 s).steward.mboxes = s.steward.mboxes := (sendMgmt_leaves a0 a1 a2 a3 a4 a5 s).steward_mboxes (by decide)
@[simp] theorem sendMgmt_steward_ctxs (a0 : Nat) (a1 : Nat) (a2 : Nat) (a3 : Nat) (a4 : Nat) (a5 : List Byte) (s : State) : (sendMgmt a0 a1 a2 a3 a4 a5 s).steward.ctxs = s.steward.ctxs := (sendMgmt_leaves a0 a1 a2 a3 a4 a5 s).steward_ctxs (by decide)
@[simp] theorem sendMgmt_steward_queues (a0 : Nat) (a1 : Nat) (a2 : Nat) (a3 : Nat) (a4 : Nat) (a5 : List Byte) (s : State) : (sendMgmt a0 a1 a2 a3 a4 a5 s).steward.queues = s.steward.queues := (sendMgmt_leaves a0 a1 a2 a3 a4 a5 s).steward_queues (by decide)
@[simp] theorem sendMgmt_steward_images (a0 : Nat) (a1 : Nat) (a2 : Nat) (a3 : Nat) (a4 : Nat) (a5 : List Byte) (s : State) : (sendMgmt a0 a1 a2 a3 a4 a5 s).steward.images = s.steward.images := (sendMgmt_leaves a0 a1 a2 a3 a4 a5 s).steward_images (by decide)
@[simp] theorem sendMgmt_steward_tasks (a0 : Nat) (a1 : Nat) (a2 : Nat) (a3 : Nat) (a4 : Nat) (a5 : List Byte) (s : State) : (sendMgmt a0 a1 a2 a3 a4 a5 s).steward.tasks = s.steward.tasks := (sendMgmt_leaves a0 a1 a2 a3 a4 a5 s).steward_tasks (by decide)
@[simp] theorem sendMgmt_shell_hatch (a0 : Nat) (a1 : Nat) (a2 : Nat) (a3 : Nat) (a4 : Nat) (a5 : List Byte) (s : State) : (sendMgmt a0 a1 a2 a3 a4 a5 s).shell.hatch = s.shell.hatch := (sendMgmt_leaves a0 a1 a2 a3 a4 a5 s).shell_hatch (by decide)
@[simp] theorem sendMgmt_shell_keep (a0 : Nat) (a1 : Nat) (a2 : Nat) (a3 : Nat) (a4 : Nat) (a5 : List Byte) (s : State) : (sendMgmt a0 a1 a2 a3 a4 a5 s).shell.keep = s.shell.keep := (sendMgmt_leaves a0 a1 a2 a3 a4 a5 s).shell_keep (by decide)
@[simp] theorem sendMgmt_shell_snap (a0 : Nat) (a1 : Nat) (a2 : Nat) (a3 : Nat) (a4 : Nat) (a5 : List Byte) (s : State) : (sendMgmt a0 a1 a2 a3 a4 a5 s).shell.snap = s.shell.snap := (sendMgmt_leaves a0 a1 a2 a3 a4 a5 s).shell_snap (by decide)
theorem flood_leaves (a0 : Nat) (a1 : Frame) (s : State) : changesOnly (· ∈ ([.fabric] : List Part)) s (flood a0 a1 s) :=
  flood_only (by decide) a0 a1 only_refl
@[simp] theorem flood_params (a0 : Nat) (a1 : Frame) (s : State) : (flood a0 a1 s).params = s.params := (flood_leaves a0 a1 s).params (by decide)
@[simp] theorem flood_offered (a0 : Nat) (a1 : Frame) (s : State) : (flood a0 a1 s).offered = s.offered := (flood_leaves a0 a1 s).offered (by decide)
@[simp] theorem flood_freeCtr (a0 : Nat) (a1 : Frame) (s : State) : (flood a0 a1 s).freeCtr = s.freeCtr := (flood_leaves a0 a1 s).freeCtr (by decide)
@[simp] theorem flood_store (a0 : Nat) (a1 : Frame) (s : State) : (flood a0 a1 s).store = s.store := (flood_leaves a0 a1 s).store (by decide)
@[simp] theorem flood_rooms (a0 : Nat) (a1 : Frame) (s : State) : (flood a0 a1 s).rooms = s.rooms := (flood_leaves a0 a1 s).rooms (by decide)
@[simp] theorem flood_side (a0 : Nat) (a1 : Frame) (s : State) : (flood a0 a1 s).side = s.side := (flood_leaves a0 a1 s).side (by decide)
@[simp] theorem flood_links (a0 : Nat) (a1 : Frame) (s : State) : (flood a0 a1 s).links = s.links := (flood_leaves a0 a1 s).links (by decide)
@[simp] theorem flood_time (a0 : Nat) (a1 : Frame) (s : State) : (flood a0 a1 s).time = s.time := (flood_leaves a0 a1 s).time (by decide)
@[simp] theorem flood_pace (a0 : Nat) (a1 : Frame) (s : State) : (flood a0 a1 s).pace = s.pace := (flood_leaves a0 a1 s).pace (by decide)
@[simp] theorem flood_power (a0 : Nat) (a1 : Frame) (s : State) : (flood a0 a1 s).power = s.power := (flood_leaves a0 a1 s).power (by decide)
@[simp] theorem flood_health (a0 : Nat) (a1 : Frame) (s : State) : (flood a0 a1 s).health = s.health := (flood_leaves a0 a1 s).health (by decide)
@[simp] theorem flood_seq (a0 : Nat) (a1 : Frame) (s : State) : (flood a0 a1 s).seq = s.seq := (flood_leaves a0 a1 s).seq (by decide)
@[simp] theorem flood_steward_mboxes (a0 : Nat) (a1 : Frame) (s : State) : (flood a0 a1 s).steward.mboxes = s.steward.mboxes := (flood_leaves a0 a1 s).steward_mboxes (by decide)
@[simp] theorem flood_steward_ctxs (a0 : Nat) (a1 : Frame) (s : State) : (flood a0 a1 s).steward.ctxs = s.steward.ctxs := (flood_leaves a0 a1 s).steward_ctxs (by decide)
@[simp] theorem flood_steward_queues (a0 : Nat) (a1 : Frame) (s : State) : (flood a0 a1 s).steward.queues = s.steward.queues := (flood_leaves a0 a1 s).steward_queues (by decide)
@[simp] theorem flood_steward_images (a0 : Nat) (a1 : Frame) (s : State) : (flood a0 a1 s).steward.images = s.steward.images := (flood_leaves a0 a1 s).steward_images (by decide)
@[simp] theorem flood_steward_tasks (a0 : Nat) (a1 : Frame) (s : State) : (flood a0 a1 s).steward.tasks = s.steward.tasks := (flood_leaves a0 a1 s).steward_tasks (by decide)
@[simp] theorem flood_shell_hatch (a0 : Nat) (a1 : Frame) (s : State) : (flood a0 a1 s).shell.hatch = s.shell.hatch := (flood_leaves a0 a1 s).shell_hatch (by decide)
@[simp] theorem flood_shell_keep (a0 : Nat) (a1 : Frame) (s : State) : (flood a0 a1 s).shell.keep = s.shell.keep := (flood_leaves a0 a1 s).shell_keep (by decide)
@[simp] theorem flood_shell_snap (a0 : Nat) (a1 : Frame) (s : State) : (flood a0 a1 s).shell.snap = s.shell.snap := (flood_leaves a0 a1 s).shell_snap (by decide)
theorem noteArrival_leaves (a0 : Nat) (s : State) : changesOnly (· ∈ ([.rooms] : List Part)) s (noteArrival a0 s) :=
  noteArrival_only (by decide) a0 only_refl
@[simp] theorem noteArrival_params (a0 : Nat) (s : State) : (noteArrival a0 s).params = s.params := (noteArrival_leaves a0 s).params (by decide)
@[simp] theorem noteArrival_offered (a0 : Nat) (s : State) : (noteArrival a0 s).offered = s.offered := (noteArrival_leaves a0 s).offered (by decide)
@[simp] theorem noteArrival_freeCtr (a0 : Nat) (s : State) : (noteArrival a0 s).freeCtr = s.freeCtr := (noteArrival_leaves a0 s).freeCtr (by decide)
@[simp] theorem noteArrival_store (a0 : Nat) (s : State) : (noteArrival a0 s).store = s.store := (noteArrival_leaves a0 s).store (by decide)
@[simp] theorem noteArrival_side (a0 : Nat) (s : State) : (noteArrival a0 s).side = s.side := (noteArrival_leaves a0 s).side (by decide)
@[simp] theorem noteArrival_fabric (a0 : Nat) (s : State) : (noteArrival a0 s).fabric = s.fabric := (noteArrival_leaves a0 s).fabric (by decide)
@[simp] theorem noteArrival_links (a0 : Nat) (s : State) : (noteArrival a0 s).links = s.links := (noteArrival_leaves a0 s).links (by decide)
@[simp] theorem noteArrival_time (a0 : Nat) (s : State) : (noteArrival a0 s).time = s.time := (noteArrival_leaves a0 s).time (by decide)
@[simp] theorem noteArrival_pace (a0 : Nat) (s : State) : (noteArrival a0 s).pace = s.pace := (noteArrival_leaves a0 s).pace (by decide)
@[simp] theorem noteArrival_power (a0 : Nat) (s : State) : (noteArrival a0 s).power = s.power := (noteArrival_leaves a0 s).power (by decide)
@[simp] theorem noteArrival_health (a0 : Nat) (s : State) : (noteArrival a0 s).health = s.health := (noteArrival_leaves a0 s).health (by decide)
@[simp] theorem noteArrival_seq (a0 : Nat) (s : State) : (noteArrival a0 s).seq = s.seq := (noteArrival_leaves a0 s).seq (by decide)
@[simp] theorem noteArrival_steward_mboxes (a0 : Nat) (s : State) : (noteArrival a0 s).steward.mboxes = s.steward.mboxes := (noteArrival_leaves a0 s).steward_mboxes (by decide)
@[simp] theorem noteArrival_steward_ctxs (a0 : Nat) (s : State) : (noteArrival a0 s).steward.ctxs = s.steward.ctxs := (noteArrival_leaves a0 s).steward_ctxs (by decide)
@[simp] theorem noteArrival_steward_queues (a0 : Nat) (s : State) : (noteArrival a0 s).steward.queues = s.steward.queues := (noteArrival_leaves a0 s).steward_queues (by decide)
@[simp] theorem noteArrival_steward_images (a0 : Nat) (s : State) : (noteArrival a0 s).steward.images = s.steward.images := (noteArrival_leaves a0 s).steward_images (by decide)
@[simp] theorem noteArrival_steward_tasks (a0 : Nat) (s : State) : (noteArrival a0 s).steward.tasks = s.steward.tasks := (noteArrival_leaves a0 s).steward_tasks (by decide)
@[simp] theorem noteArrival_shell_hatch (a0 : Nat) (s : State) : (noteArrival a0 s).shell.hatch = s.shell.hatch := (noteArrival_leaves a0 s).shell_hatch (by decide)
@[simp] theorem noteArrival_shell_keep (a0 : Nat) (s : State) : (noteArrival a0 s).shell.keep = s.shell.keep := (noteArrival_leaves a0 s).shell_keep (by decide)
@[simp] theorem noteArrival_shell_snap (a0 : Nat) (s : State) : (noteArrival a0 s).shell.snap = s.shell.snap := (noteArrival_leaves a0 s).shell_snap (by decide)
theorem putMirror_leaves (a0 : Nat) (s : State) : changesOnly (· ∈ ([.requests, .messages, .porch] : List Part)) s (putMirror a0 s) :=
  putMirror_only (by decide) (by decide) (by decide) a0 only_refl
@[simp] theorem putMirror_params (a0 : Nat) (s : State) : (putMirror a0 s).params = s.params := (putMirror_leaves a0 s).params (by decide)
@[simp] theorem putMirror_offered (a0 : Nat) (s : State) : (putMirror a0 s).offered = s.offered := (putMirror_leaves a0 s).offered (by decide)
@[simp] theorem putMirror_freeCtr (a0 : Nat) (s : State) : (putMirror a0 s).freeCtr = s.freeCtr := (putMirror_leaves a0 s).freeCtr (by decide)
@[simp] theorem putMirror_store (a0 : Nat) (s : State) : (putMirror a0 s).store = s.store := (putMirror_leaves a0 s).store (by decide)
@[simp] theorem putMirror_rooms (a0 : Nat) (s : State) : (putMirror a0 s).rooms = s.rooms := (putMirror_leaves a0 s).rooms (by decide)
@[simp] theorem putMirror_side (a0 : Nat) (s : State) : (putMirror a0 s).side = s.side := (putMirror_leaves a0 s).side (by decide)
@[simp] theorem putMirror_fabric (a0 : Nat) (s : State) : (putMirror a0 s).fabric = s.fabric := (putMirror_leaves a0 s).fabric (by decide)
@[simp] theorem putMirror_links (a0 : Nat) (s : State) : (putMirror a0 s).links = s.links := (putMirror_leaves a0 s).links (by decide)
@[simp] theorem putMirror_time (a0 : Nat) (s : State) : (putMirror a0 s).time = s.time := (putMirror_leaves a0 s).time (by decide)
@[simp] theorem putMirror_pace (a0 : Nat) (s : State) : (putMirror a0 s).pace = s.pace := (putMirror_leaves a0 s).pace (by decide)
@[simp] theorem putMirror_power (a0 : Nat) (s : State) : (putMirror a0 s).power = s.power := (putMirror_leaves a0 s).power (by decide)
@[simp] theorem putMirror_health (a0 : Nat) (s : State) : (putMirror a0 s).health = s.health := (putMirror_leaves a0 s).health (by decide)
@[simp] theorem putMirror_seq (a0 : Nat) (s : State) : (putMirror a0 s).seq = s.seq := (putMirror_leaves a0 s).seq (by decide)
@[simp] theorem putMirror_steward_mboxes (a0 : Nat) (s : State) : (putMirror a0 s).steward.mboxes = s.steward.mboxes := (putMirror_leaves a0 s).steward_mboxes (by decide)
@[simp] theorem putMirror_steward_ctxs (a0 : Nat) (s : State) : (putMirror a0 s).steward.ctxs = s.steward.ctxs := (putMirror_leaves a0 s).steward_ctxs (by decide)
@[simp] theorem putMirror_steward_queues (a0 : Nat) (s : State) : (putMirror a0 s).steward.queues = s.steward.queues := (putMirror_leaves a0 s).steward_queues (by decide)
@[simp] theorem putMirror_steward_images (a0 : Nat) (s : State) : (putMirror a0 s).steward.images = s.steward.images := (putMirror_leaves a0 s).steward_images (by decide)
@[simp] theorem putMirror_steward_tasks (a0 : Nat) (s : State) : (putMirror a0 s).steward.tasks = s.steward.tasks := (putMirror_leaves a0 s).steward_tasks (by decide)
@[simp] theorem putMirror_shell_hatch (a0 : Nat) (s : State) : (putMirror a0 s).shell.hatch = s.shell.hatch := (putMirror_leaves a0 s).shell_hatch (by decide)
@[simp] theorem putMirror_shell_keep (a0 : Nat) (s : State) : (putMirror a0 s).shell.keep = s.shell.keep := (putMirror_leaves a0 s).shell_keep (by decide)
@[simp] theorem putMirror_shell_snap (a0 : Nat) (s : State) : (putMirror a0 s).shell.snap = s.shell.snap := (putMirror_leaves a0 s).shell_snap (by decide)
theorem noteBad_leaves (a0 : Nat) (s : State) : changesOnly (· ∈ ([.health] : List Part)) s (noteBad a0 s) :=
  noteBad_only (by decide) a0 only_refl
@[simp] theorem noteBad_params (a0 : Nat) (s : State) : (noteBad a0 s).params = s.params := (noteBad_leaves a0 s).params (by decide)
@[simp] theorem noteBad_offered (a0 : Nat) (s : State) : (noteBad a0 s).offered = s.offered := (noteBad_leaves a0 s).offered (by decide)
@[simp] theorem noteBad_freeCtr (a0 : Nat) (s : State) : (noteBad a0 s).freeCtr = s.freeCtr := (noteBad_leaves a0 s).freeCtr (by decide)
@[simp] theorem noteBad_store (a0 : Nat) (s : State) : (noteBad a0 s).store = s.store := (noteBad_leaves a0 s).store (by decide)
@[simp] theorem noteBad_rooms (a0 : Nat) (s : State) : (noteBad a0 s).rooms = s.rooms := (noteBad_leaves a0 s).rooms (by decide)
@[simp] theorem noteBad_side (a0 : Nat) (s : State) : (noteBad a0 s).side = s.side := (noteBad_leaves a0 s).side (by decide)
@[simp] theorem noteBad_fabric (a0 : Nat) (s : State) : (noteBad a0 s).fabric = s.fabric := (noteBad_leaves a0 s).fabric (by decide)
@[simp] theorem noteBad_links (a0 : Nat) (s : State) : (noteBad a0 s).links = s.links := (noteBad_leaves a0 s).links (by decide)
@[simp] theorem noteBad_time (a0 : Nat) (s : State) : (noteBad a0 s).time = s.time := (noteBad_leaves a0 s).time (by decide)
@[simp] theorem noteBad_pace (a0 : Nat) (s : State) : (noteBad a0 s).pace = s.pace := (noteBad_leaves a0 s).pace (by decide)
@[simp] theorem noteBad_power (a0 : Nat) (s : State) : (noteBad a0 s).power = s.power := (noteBad_leaves a0 s).power (by decide)
@[simp] theorem noteBad_seq (a0 : Nat) (s : State) : (noteBad a0 s).seq = s.seq := (noteBad_leaves a0 s).seq (by decide)
@[simp] theorem noteBad_steward_mboxes (a0 : Nat) (s : State) : (noteBad a0 s).steward.mboxes = s.steward.mboxes := (noteBad_leaves a0 s).steward_mboxes (by decide)
@[simp] theorem noteBad_steward_ctxs (a0 : Nat) (s : State) : (noteBad a0 s).steward.ctxs = s.steward.ctxs := (noteBad_leaves a0 s).steward_ctxs (by decide)
@[simp] theorem noteBad_steward_queues (a0 : Nat) (s : State) : (noteBad a0 s).steward.queues = s.steward.queues := (noteBad_leaves a0 s).steward_queues (by decide)
@[simp] theorem noteBad_steward_images (a0 : Nat) (s : State) : (noteBad a0 s).steward.images = s.steward.images := (noteBad_leaves a0 s).steward_images (by decide)
@[simp] theorem noteBad_steward_tasks (a0 : Nat) (s : State) : (noteBad a0 s).steward.tasks = s.steward.tasks := (noteBad_leaves a0 s).steward_tasks (by decide)
@[simp] theorem noteBad_shell_hatch (a0 : Nat) (s : State) : (noteBad a0 s).shell.hatch = s.shell.hatch := (noteBad_leaves a0 s).shell_hatch (by decide)
@[simp] theorem noteBad_shell_keep (a0 : Nat) (s : State) : (noteBad a0 s).shell.keep = s.shell.keep := (noteBad_leaves a0 s).shell_keep (by decide)
@[simp] theorem noteBad_shell_snap (a0 : Nat) (s : State) : (noteBad a0 s).shell.snap = s.shell.snap := (noteBad_leaves a0 s).shell_snap (by decide)
theorem putStore_leaves (a0 : Store) (s : State) : changesOnly (· ∈ ([.store, .intStatus, .messages, .health] : List Part)) s (putStore a0 s) :=
  putStore_only (by decide) (by decide) (by decide) (by decide) a0 only_refl
@[simp] theorem putStore_params (a0 : Store) (s : State) : (putStore a0 s).params = s.params := (putStore_leaves a0 s).params (by decide)
@[simp] theorem putStore_offered (a0 : Store) (s : State) : (putStore a0 s).offered = s.offered := (putStore_leaves a0 s).offered (by decide)
@[simp] theorem putStore_freeCtr (a0 : Store) (s : State) : (putStore a0 s).freeCtr = s.freeCtr := (putStore_leaves a0 s).freeCtr (by decide)
@[simp] theorem putStore_rooms (a0 : Store) (s : State) : (putStore a0 s).rooms = s.rooms := (putStore_leaves a0 s).rooms (by decide)
@[simp] theorem putStore_side (a0 : Store) (s : State) : (putStore a0 s).side = s.side := (putStore_leaves a0 s).side (by decide)
@[simp] theorem putStore_fabric (a0 : Store) (s : State) : (putStore a0 s).fabric = s.fabric := (putStore_leaves a0 s).fabric (by decide)
@[simp] theorem putStore_links (a0 : Store) (s : State) : (putStore a0 s).links = s.links := (putStore_leaves a0 s).links (by decide)
@[simp] theorem putStore_time (a0 : Store) (s : State) : (putStore a0 s).time = s.time := (putStore_leaves a0 s).time (by decide)
@[simp] theorem putStore_pace (a0 : Store) (s : State) : (putStore a0 s).pace = s.pace := (putStore_leaves a0 s).pace (by decide)
@[simp] theorem putStore_power (a0 : Store) (s : State) : (putStore a0 s).power = s.power := (putStore_leaves a0 s).power (by decide)
@[simp] theorem putStore_seq (a0 : Store) (s : State) : (putStore a0 s).seq = s.seq := (putStore_leaves a0 s).seq (by decide)
@[simp] theorem putStore_steward_mboxes (a0 : Store) (s : State) : (putStore a0 s).steward.mboxes = s.steward.mboxes := (putStore_leaves a0 s).steward_mboxes (by decide)
@[simp] theorem putStore_steward_ctxs (a0 : Store) (s : State) : (putStore a0 s).steward.ctxs = s.steward.ctxs := (putStore_leaves a0 s).steward_ctxs (by decide)
@[simp] theorem putStore_steward_queues (a0 : Store) (s : State) : (putStore a0 s).steward.queues = s.steward.queues := (putStore_leaves a0 s).steward_queues (by decide)
@[simp] theorem putStore_steward_images (a0 : Store) (s : State) : (putStore a0 s).steward.images = s.steward.images := (putStore_leaves a0 s).steward_images (by decide)
@[simp] theorem putStore_steward_tasks (a0 : Store) (s : State) : (putStore a0 s).steward.tasks = s.steward.tasks := (putStore_leaves a0 s).steward_tasks (by decide)
@[simp] theorem putStore_shell_hatch (a0 : Store) (s : State) : (putStore a0 s).shell.hatch = s.shell.hatch := (putStore_leaves a0 s).shell_hatch (by decide)
@[simp] theorem putStore_shell_keep (a0 : Store) (s : State) : (putStore a0 s).shell.keep = s.shell.keep := (putStore_leaves a0 s).shell_keep (by decide)
@[simp] theorem putStore_shell_snap (a0 : Store) (s : State) : (putStore a0 s).shell.snap = s.shell.snap := (putStore_leaves a0 s).shell_snap (by decide)
theorem raiseFault_leaves (a0 : Nat) (a1 : Nat) (a2 : Nat) (a3 : Nat) (a4 : Nat) (a5 : Nat) (s : State) : changesOnly (· ∈ ([.rooms] : List Part)) s (raiseFault a0 a1 a2 a3 a4 a5 s) :=
  raiseFault_only (by decide) a0 a1 a2 a3 a4 a5 only_refl
@[simp] theorem raiseFault_params (a0 : Nat) (a1 : Nat) (a2 : Nat) (a3 : Nat) (a4 : Nat) (a5 : Nat) (s : State) : (raiseFault a0 a1 a2 a3 a4 a5 s).params = s.params := (raiseFault_leaves a0 a1 a2 a3 a4 a5 s).params (by decide)
@[simp] theorem raiseFault_offered (a0 : Nat) (a1 : Nat) (a2 : Nat) (a3 : Nat) (a4 : Nat) (a5 : Nat) (s : State) : (raiseFault a0 a1 a2 a3 a4 a5 s).offered = s.offered := (raiseFault_leaves a0 a1 a2 a3 a4 a5 s).offered (by decide)
@[simp] theorem raiseFault_freeCtr (a0 : Nat) (a1 : Nat) (a2 : Nat) (a3 : Nat) (a4 : Nat) (a5 : Nat) (s : State) : (raiseFault a0 a1 a2 a3 a4 a5 s).freeCtr = s.freeCtr := (raiseFault_leaves a0 a1 a2 a3 a4 a5 s).freeCtr (by decide)
@[simp] theorem raiseFault_store (a0 : Nat) (a1 : Nat) (a2 : Nat) (a3 : Nat) (a4 : Nat) (a5 : Nat) (s : State) : (raiseFault a0 a1 a2 a3 a4 a5 s).store = s.store := (raiseFault_leaves a0 a1 a2 a3 a4 a5 s).store (by decide)
@[simp] theorem raiseFault_side (a0 : Nat) (a1 : Nat) (a2 : Nat) (a3 : Nat) (a4 : Nat) (a5 : Nat) (s : State) : (raiseFault a0 a1 a2 a3 a4 a5 s).side = s.side := (raiseFault_leaves a0 a1 a2 a3 a4 a5 s).side (by decide)
@[simp] theorem raiseFault_fabric (a0 : Nat) (a1 : Nat) (a2 : Nat) (a3 : Nat) (a4 : Nat) (a5 : Nat) (s : State) : (raiseFault a0 a1 a2 a3 a4 a5 s).fabric = s.fabric := (raiseFault_leaves a0 a1 a2 a3 a4 a5 s).fabric (by decide)
@[simp] theorem raiseFault_links (a0 : Nat) (a1 : Nat) (a2 : Nat) (a3 : Nat) (a4 : Nat) (a5 : Nat) (s : State) : (raiseFault a0 a1 a2 a3 a4 a5 s).links = s.links := (raiseFault_leaves a0 a1 a2 a3 a4 a5 s).links (by decide)
@[simp] theorem raiseFault_time (a0 : Nat) (a1 : Nat) (a2 : Nat) (a3 : Nat) (a4 : Nat) (a5 : Nat) (s : State) : (raiseFault a0 a1 a2 a3 a4 a5 s).time = s.time := (raiseFault_leaves a0 a1 a2 a3 a4 a5 s).time (by decide)
@[simp] theorem raiseFault_pace (a0 : Nat) (a1 : Nat) (a2 : Nat) (a3 : Nat) (a4 : Nat) (a5 : Nat) (s : State) : (raiseFault a0 a1 a2 a3 a4 a5 s).pace = s.pace := (raiseFault_leaves a0 a1 a2 a3 a4 a5 s).pace (by decide)
@[simp] theorem raiseFault_power (a0 : Nat) (a1 : Nat) (a2 : Nat) (a3 : Nat) (a4 : Nat) (a5 : Nat) (s : State) : (raiseFault a0 a1 a2 a3 a4 a5 s).power = s.power := (raiseFault_leaves a0 a1 a2 a3 a4 a5 s).power (by decide)
@[simp] theorem raiseFault_health (a0 : Nat) (a1 : Nat) (a2 : Nat) (a3 : Nat) (a4 : Nat) (a5 : Nat) (s : State) : (raiseFault a0 a1 a2 a3 a4 a5 s).health = s.health := (raiseFault_leaves a0 a1 a2 a3 a4 a5 s).health (by decide)
@[simp] theorem raiseFault_seq (a0 : Nat) (a1 : Nat) (a2 : Nat) (a3 : Nat) (a4 : Nat) (a5 : Nat) (s : State) : (raiseFault a0 a1 a2 a3 a4 a5 s).seq = s.seq := (raiseFault_leaves a0 a1 a2 a3 a4 a5 s).seq (by decide)
@[simp] theorem raiseFault_steward_mboxes (a0 : Nat) (a1 : Nat) (a2 : Nat) (a3 : Nat) (a4 : Nat) (a5 : Nat) (s : State) : (raiseFault a0 a1 a2 a3 a4 a5 s).steward.mboxes = s.steward.mboxes := (raiseFault_leaves a0 a1 a2 a3 a4 a5 s).steward_mboxes (by decide)
@[simp] theorem raiseFault_steward_ctxs (a0 : Nat) (a1 : Nat) (a2 : Nat) (a3 : Nat) (a4 : Nat) (a5 : Nat) (s : State) : (raiseFault a0 a1 a2 a3 a4 a5 s).steward.ctxs = s.steward.ctxs := (raiseFault_leaves a0 a1 a2 a3 a4 a5 s).steward_ctxs (by decide)
@[simp] theorem raiseFault_steward_queues (a0 : Nat) (a1 : Nat) (a2 : Nat) (a3 : Nat) (a4 : Nat) (a5 : Nat) (s : State) : (raiseFault a0 a1 a2 a3 a4 a5 s).steward.queues = s.steward.queues := (raiseFault_leaves a0 a1 a2 a3 a4 a5 s).steward_queues (by decide)
@[simp] theorem raiseFault_steward_images (a0 : Nat) (a1 : Nat) (a2 : Nat) (a3 : Nat) (a4 : Nat) (a5 : Nat) (s : State) : (raiseFault a0 a1 a2 a3 a4 a5 s).steward.images = s.steward.images := (raiseFault_leaves a0 a1 a2 a3 a4 a5 s).steward_images (by decide)
@[simp] theorem raiseFault_steward_tasks (a0 : Nat) (a1 : Nat) (a2 : Nat) (a3 : Nat) (a4 : Nat) (a5 : Nat) (s : State) : (raiseFault a0 a1 a2 a3 a4 a5 s).steward.tasks = s.steward.tasks := (raiseFault_leaves a0 a1 a2 a3 a4 a5 s).steward_tasks (by decide)
@[simp] theorem raiseFault_shell_hatch (a0 : Nat) (a1 : Nat) (a2 : Nat) (a3 : Nat) (a4 : Nat) (a5 : Nat) (s : State) : (raiseFault a0 a1 a2 a3 a4 a5 s).shell.hatch = s.shell.hatch := (raiseFault_leaves a0 a1 a2 a3 a4 a5 s).shell_hatch (by decide)
@[simp] theorem raiseFault_shell_keep (a0 : Nat) (a1 : Nat) (a2 : Nat) (a3 : Nat) (a4 : Nat) (a5 : Nat) (s : State) : (raiseFault a0 a1 a2 a3 a4 a5 s).shell.keep = s.shell.keep := (raiseFault_leaves a0 a1 a2 a3 a4 a5 s).shell_keep (by decide)
@[simp] theorem raiseFault_shell_snap (a0 : Nat) (a1 : Nat) (a2 : Nat) (a3 : Nat) (a4 : Nat) (a5 : Nat) (s : State) : (raiseFault a0 a1 a2 a3 a4 a5 s).shell.snap = s.shell.snap := (raiseFault_leaves a0 a1 a2 a3 a4 a5 s).shell_snap (by decide)

@[simp] theorem putStore_store (st : Store) (s : State) : (putStore st s).store = st := by
  have e : ∀ (ls : List Nat) (u : State), (noteCorrectedAll ls u).store = u.store := fun ls u =>
    (noteCorrectedAll_only (P := (· ∈ ([.health] : List Part))) (by decide) ls only_refl).store (by decide)
  dsimp only [putStore]
  split <;> simp [e]

/-- The state of a task's run after a change that it does not name. -/
theorem taskOf_of_tasks {s t : State} (h : t.steward.tasks = s.steward.tasks) (n : Nat) : taskOf t n = taskOf s n := by simp [taskOf, h]

end Sys2Proof.Machine
end

