-- ==== Sys2Proof/Laws/Issue.lean ====
section
/-!
SUPPORT. What an issued op leaves of its room, of the other rooms and of the store; and small lemmas of the operations that the statements speak of.
-/
namespace Sys2Proof.Machine
open Sys2Proof

set_option linter.unusedVariables false
set_option linter.unusedSimpArgs false
set_option linter.unnecessarySeqFocus false

@[simp] theorem endGaps_fields (room : Nat) : ∀ (us : List Nat) (s : State), (endGaps room us s).rooms = s.rooms ∧ (endGaps room us s).store = s.store ∧ (endGaps room us s).steward = s.steward ∧
   (endGaps room us s).health = s.health ∧ (endGaps room us s).defects = s.defects ∧ (endGaps room us s).freeCtr = s.freeCtr ∧ (endGaps room us s).params = s.params ∧ (endGaps room us s).offered = s.offered ∧ (endGaps room us s).time = s.time
  | [], s => by simp [endGaps]
  | u :: us, s => by
    have := endGaps_fields room us (if u ≤ 4 then endGap room u s else s)
    simp only [endGaps]
    refine ⟨this.1.trans ?_, this.2.1.trans ?_, this.2.2.1.trans ?_, this.2.2.2.1.trans ?_, this.2.2.2.2.1.trans ?_, this.2.2.2.2.2.1.trans ?_, this.2.2.2.2.2.2.1.trans ?_, this.2.2.2.2.2.2.2.1.trans ?_, this.2.2.2.2.2.2.2.2.trans ?_⟩ <;> split <;> rfl

@[simp] theorem roomOf_endGaps (room : Nat) (us : List Nat) (s : State) (r : Nat) : roomOf (endGaps room us s) r = roomOf s r := roomOf_of_rooms (endGaps_fields room us s).1 r

/-! Issue (06 R192, R193). -/

/-- The permits that an issue takes concern the pace alone (02 R41). -/
theorem takeAll_pace : ∀ (us : List PaceUnit) (s : State), takeAll us s = { s with pace := (takeAll us s).pace }
  | [], s => rfl
  | u :: us, s => by
    have h : takeCycle u s = { s with pace := (takeCycle u s).pace } := by unfold takeCycle modPace; split <;> rfl
    rw [takeAll]
    refine (takeAll_pace us _).trans ?_
    rw [h]

theorem roomOf_takeAll (us : List PaceUnit) (s : State) (r : Nat) : roomOf (takeAll us s) r = roomOf s r := by rw [takeAll_pace]; rfl

@[simp] theorem takeAll_store (us : List PaceUnit) (s : State) : (takeAll us s).store = s.store := by rw [takeAll_pace]

@[simp] theorem takeAll_steward (us : List PaceUnit) (s : State) : (takeAll us s).steward = s.steward := by rw [takeAll_pace]

@[simp] theorem roomOf_popOps (room k : Nat) (s : State) :
    roomOf (popOps room k s) room = { roomOf s room with opBuf := (roomOf s room).opBuf.drop k, issued := (roomOf s room).issued + 1 } := by
  unfold popOps; rw [roomOf_modRoom]

@[simp] theorem roomOf_engage (room n : Nat) (x : Room) (w w2 : OpWord) (pos : Nat) (s : State) : roomOf (engage room n x w w2 pos s) room =
    { roomOf s room with inflight := (roomOf s room).inflight ++
        [⟨n, opcAt w, opUnits w w2, opAfter w w2, opGangs w w2, x.issued, w, w2, x.g, pos, opSteps w w2, [], [], [], [], [], 0, partNone⟩] } := by
  unfold engage; rw [roomOf_endGaps, roomOf_modRoom]

theorem roomOf_engage_ne (room n : Nat) (x : Room) (w w2 : OpWord) (pos : Nat) (s : State) (r : Nat) (h : r ≠ room) :
    roomOf (engage room n x w w2 pos s) r = roomOf s r := by
  unfold engage; rw [roomOf_endGaps, roomOf_modRoom_ne h]

@[simp] theorem engage_store (room n : Nat) (x : Room) (w w2 : OpWord) (pos : Nat) (s : State) : (engage room n x w w2 pos s).store = s.store := by
  unfold engage; rw [(endGaps_fields room _ _).2.1]; rfl

/-- The room after the run of an op without a fault. -/
theorem roomOf_commit (room op opc task : Nat) (r : Run) (s : State) (h : r.fault = none) : roomOf (commitRun room op opc task r s) room =
    { roomOf s room with
      cells := r.cells, act := r.act, counts := r.counts, stats := r.stats, wide := r.wide, scale := r.scale, vec := r.vec, lanes := r.lanes,
      mismatch := keepMismatch r.mism (roomOf s room).mismatch } := by
  have e : roomOf (modTask task (fun t => { t with wrote := r.wrote ++ t.wrote }) (putStore r.st { s with freeCtr := r.free })) room = roomOf s room :=
    roomOf_of_rooms (by simp) _
  unfold commitRun
  rw [h]
  dsimp only
  rw [roomOf_modRoom, e]

/-- The room after the scalar slot of an op (06 R170, R171). -/
theorem slotPart_room (room n : Nat) (x : Room) (w : OpWord) (s : State) : roomOf (slotPart room n x w s) room =
    { roomOf s room with g := slotInto x.g (roomOf s room).g w, narrow := if slotNarrow (slotFields w) then (roomOf s room).narrow ++
        [⟨x.issued, n, opcAt w, (slotFields w).sopc == 10, (slotFields w).d, slotOffset x.g (slotFields w), tabGet 0 x.g (slotFields w).d, false⟩]
        else (roomOf s room).narrow } := by
  unfold slotPart slotInto
  dsimp only
  split
  · rw [roomOf_modRoom]
  · split <;> simp [*]

theorem slotPart_room_ne (room n : Nat) (x : Room) (w : OpWord) (s : State) (k : Nat) (hk : k ≠ room) : roomOf (slotPart room n x w s) k = roomOf s k := by
  unfold slotPart
  dsimp only
  split
  · rw [roomOf_modRoom_ne hk]
  · split
    · rw [roomOf_modRoom_ne hk]
    · rfl

@[simp] theorem slotPart_store (room n : Nat) (x : Room) (w : OpWord) (s : State) : (slotPart room n x w s).store = s.store := by
  unfold slotPart
  dsimp only
  split
  · rfl
  · split <;> rfl

/-- What an op that may issue does (06 R192): its words leave the buffer, its body runs, its slot acts. -/
theorem tile_next {s : State} {room opc k : Nat} {w : OpWord} {w2 : Option OpWord} {t : Task} {i : Image} {n : Nat} (h : CanIssue s room opc k w w2 t i n)
    (body : Env → Room → Task → Nat → State → State) : issueWith room opc k w body s =
      slotPart room n (roomOf s room) w (body (envOf s t i room n opc) (roomOf s room) t n (popOps room k (takeAll (.roomCore room :: wholePace room w) s))) := by
  obtain ⟨q, hq⟩ := h.head
  unfold issueWith
  dsimp only
  rw [h.task, hq]
  dsimp only
  rw [if_neg (by rw [h.slot]; simp)]

/-- An op whose body leaves the buffer, the count, the registers and the other rooms as they stand after its words have left has issued. -/
theorem issued_of {s b : State} {room k n : Nat} {w : OpWord} (hb : (roomOf b room).opBuf = (roomOf s room).opBuf.drop k)
    (hi : (roomOf b room).issued = (roomOf s room).issued + 1) (hg : (roomOf b room).g = (roomOf s room).g) (hn : (roomOf b room).narrow = (roomOf s room).narrow)
    (ho : otherRooms s b [room]) : Issued s (slotPart room n (roomOf s room) w b) room k n w := by
  refine ⟨⟨?_, ?_, ?_, ?_⟩, fun r hr => ?_⟩
  · rw [slotPart_room]; exact hb
  · rw [slotPart_room]; exact hi
  · rw [slotPart_room]; dsimp only; rw [hg]
  · rw [slotPart_room]; dsimp only; rw [hn]; rfl
  · rw [slotPart_room_ne _ _ _ _ _ _ (by simpa using hr)]; exact ho r hr

theorem roomOf_commit_ne (room op opc task : Nat) (r : Run) (s : State) (k : Nat) (hk : k ≠ room) : roomOf (commitRun room op opc task r s) k = roomOf s k := by
  have : roomOf (modTask task (fun t => { t with wrote := r.wrote ++ t.wrote }) (putStore r.st { s with freeCtr := r.free })) k = roomOf s k := roomOf_of_rooms (by simp) _
  simp only [commitRun]
  split
  · rw [roomOf_modRoom_ne hk, this]
  · rw [roomOf_of_rooms (noteRead_rooms _ _ _), raiseFault, roomOf_modRoom_ne hk, roomOf_modRoom_ne hk, this]

theorem commit_store (room op opc task : Nat) (r : Run) (s : State) : (commitRun room op opc task r s).store = r.st := by
  dsimp only [commitRun]
  split
  · simp
  · simp [raiseFault]

theorem noteCorrectedAll_map (ls : List Nat) (s : State) : (noteCorrectedAll ls s).health.map = s.health.map := by
  induction ls generalizing s with
  | nil => rfl
  | cons l ls ih => rw [noteCorrectedAll, ih]; unfold noteCorrected; dsimp only; (repeat' first | rfl | split); unfold wantRelocation; split <;> rfl

theorem putStore_map (st : Store) (s : State) : (putStore st s).health.map = s.health.map := by
  dsimp only [putStore]; split <;> simp [noteCorrectedAll_map]

theorem commit_map (room op opc task : Nat) (r : Run) (s : State) (h : r.fault = none) : (commitRun room op opc task r s).health.map = s.health.map := by
  simp [commitRun, h, putStore_map]

theorem popOps_room_ne (room k : Nat) (s : State) (r : Nat) (h : r ≠ room) : roomOf (popOps room k s) r = roomOf s r := by simp [popOps, roomOf_modRoom_ne h]

@[simp] theorem popOps_store (room k : Nat) (s : State) : (popOps room k s).store = s.store := rfl

@[simp] theorem popOps_time (room k : Nat) (s : State) : (popOps room k s).time = s.time := rfl

@[simp] theorem popOps_steward (room k : Nat) (s : State) : (popOps room k s).steward = s.steward := rfl

theorem hallPow_modHall (h : Nat) (f) (s : State) : hallPow (modHall h f s) h = f (hallPow s h) := by simp [hallPow, modHall, modPower]

theorem noteArrival_room (room : Nat) (s : State) : roomOf (noteArrival room s) room = match (roomOf s room).hold with
   | .sync op gr target since none => if (roomOf s room).inflight.isEmpty ∧ (roomOf s room).narrow.isEmpty then { roomOf s room with hold := .sync op gr target since (some (upBeat s)) } else roomOf s room
   | _ => roomOf s room := by
  unfold noteArrival
  rcases h : (roomOf s room).hold with _ | ⟨op, gr, target, since, _ | a⟩ | _ | _ <;> dsimp only <;> rw [h] <;> dsimp only
  split
  · rw [roomOf_modRoom]
  · rfl

theorem noteArrival_room_ne (room : Nat) (s : State) (r : Nat) (h : r ≠ room) : roomOf (noteArrival room s) r = roomOf s r := by
  dsimp only [noteArrival]
  split
  · split
    · rw [roomOf_modRoom_ne h]
    · rfl
  · rfl

theorem hintHall_rooms (h kind ctx tag level ahead : Nat) (s : State) : (hintHall h kind ctx tag level ahead s).rooms = s.rooms :=
  (hintHall_only (P := fun p => p ≠ .rooms) (by simp) _ _ _ _ _ _ only_refl).rooms (by simp)

theorem roomTask_congr {s u : State} (h1 : (roomOf u room).task = (roomOf s room).task) (h2 : u.steward = s.steward) : roomTask u room = roomTask s room := by
  simp only [roomTask, h1, taskOf, h2, imageOf]

@[simp] theorem popOps_freeCtr (room k : Nat) (s : State) : (popOps room k s).freeCtr = s.freeCtr := rfl

@[simp] theorem popOps_params (room k : Nat) (s : State) : (popOps room k s).params = s.params ∧ (popOps room k s).offered = s.offered := ⟨rfl, rfl⟩

theorem raiseFault_room {room op opc code iter line : Nat} {s : State} (h : (roomOf s room).fault = none) : roomOf (raiseFault room op opc code iter line s) room = { roomOf s room with fault := some ⟨code, room, op, opc, iter, line, 0⟩, reported := false } := by
  simp [raiseFault, h]

theorem raiseFault_room_ne {room op opc code iter line : Nat} {s : State} (r : Nat) (h : r ≠ room) : roomOf (raiseFault room op opc code iter line s) r = roomOf s r := by
  simp [raiseFault, roomOf_modRoom_ne h]

theorem ready_fault {s : State} {room opc : Nat} {w w2} (h : issueReady s room opc w w2 = true) : (roomOf s room).fault = none := by
  simp only [issueReady] at h
  split at h
  · simp at h
  · simp only [Bool.and_eq_true, Option.isNone_iff_eq_none] at h
    exact h.1.1.1.1.1.2

theorem fault_commit {room n opc task : Nat} {r : Run} {s : State} {code iter line} (h : r.fault = some (code, iter, line)) (hf : (roomOf s room).fault = none) :
   (roomOf (commitRun room n opc task r s) room).fault = some ⟨code, room, n, opc, iter, faultLine code line, 0⟩ := by
  simp only [commitRun, h]
  rw [roomOf_of_rooms (noteRead_rooms _ _ _), raiseFault_room]
  rw [roomOf_modRoom]
  have : roomOf (modTask task (fun t => { t with wrote := r.wrote ++ t.wrote }) (putStore r.st { s with freeCtr := r.free })) room = roomOf s room := roomOf_of_rooms (by simp) _
  rw [this]; exact hf

theorem answers_dueAt {c : Instr} {s t : State} {b g : Bool} (hc : exec c s = dueAt b g s t) (hb : b = true) (hg : g = true) {Q : State → Prop} (hq : Q t) : answers c s Q :=
  ⟨t, by rw [hc, hb, hg]; rfl, hq⟩

theorem answers_due {c : Instr} {s t : State} {g : Bool} (hc : exec c s = due g s t) (hg : g = true) {Q : State → Prop} (hq : Q t) : answers c s Q :=
  ⟨t, by rw [hc, hg]; rfl, hq⟩

@[simp] theorem noteArrival_store' (room : Nat) (s : State) : (noteArrival room s).store = s.store := by
  dsimp only [noteArrival]; split <;> (try split) <;> rfl

theorem room_noteArrival_g (room : Nat) (s : State) : (roomOf (noteArrival room s) room).g = (roomOf s room).g ∧ (roomOf (noteArrival room s) room).narrow = (roomOf s room).narrow ∧ (roomOf (noteArrival room s) room).inflight = (roomOf s room).inflight := by
  rw [noteArrival_room]; split <;> (try split) <;> simp

theorem takeWhile_pre {α} (p : α → Bool) (pre : List α) (a : α) (rest : List α) (h : ∀ b ∈ pre, p b = true) (ha : p a = false) : (pre ++ a :: rest).takeWhile p = pre := by
  induction pre with
  | nil => simp [ha]
  | cons b pre ih =>
    have h1 : p b = true := h b (by simp)
    have h2 : ∀ b ∈ pre, p b = true := fun c hc => h c (by simp [hc])
    simp [h1, ih h2]

theorem storeByte_of {s u : State} (h : u.store.mem = s.store.mem) (b : Nat) : storeByte u b = storeByte s b := by simp [storeByte, h]

theorem releaseSync_room : ∀ (rs : List Nat) (s : State) (k : Nat), roomOf (releaseSync rs s) k = if k ∈ rs then { roomOf s k with hold := .none } else roomOf s k
  | [], s, k => by simp [releaseSync]
  | r :: rs, s, k => by
    rw [releaseSync, releaseSync_room rs]
    by_cases h : k = r
    · subst h; rw [roomOf_modRoom]; simp
    · simp [h, roomOf_modRoom_ne h]

theorem releaseSync_store : ∀ (rs : List Nat) (s : State), (releaseSync rs s).store = s.store
  | [], s => rfl
  | r :: rs, s => by rw [releaseSync, releaseSync_store rs]; rfl

theorem startGap_fields (room u : Nat) (s : State) : (startGap room u s).rooms = s.rooms ∧ (startGap room u s).store = s.store :=
  have h := startGap_only (P := fun p => p ≠ .rooms ∧ p ≠ .store) (by simp) (by simp) room u (only_refl (s := s))
  ⟨h.rooms (by simp), h.store (by simp)⟩

theorem startGaps_fields (room : Nat) : ∀ (us : List Nat) (s : State), (startGaps room us s).rooms = s.rooms ∧ (startGaps room us s).store = s.store
  | [], s => ⟨rfl, rfl⟩
  | u :: us, s => by
    rw [startGaps]
    split
    · exact ⟨(startGaps_fields room us _).1.trans (startGap_fields ..).1, (startGaps_fields room us _).2.trans (startGap_fields ..).2⟩
    · exact startGaps_fields room us _

theorem taskOf_modTask_same (n : Nat) (f : Task → Task) (hf : ∀ t, (f t).num = t.num) (s : State) (t : Task) (h : taskOf s n = some t) : taskOf (modTask n f s) n = some (f t) := by
  simp only [taskOf, modTask] at *
  rw [List.find?_map]
  have e : (fun t_1 : Task => t_1.num == n) ∘ (fun x => if x.num = n then f x else x) = fun x => x.num == n := by
    funext x; simp only [Function.comp]; split <;> simp [hf]
  rw [e, h]
  have := List.find?_some h
  simp at this
  simp [this]

theorem tellMembers_steward (t : Task) (k a : Nat) (p : List Byte) : ∀ (ms : List MemberSt) (s : State), (tellMembers t k a p ms s).steward.tasks = s.steward.tasks
  | [], s => rfl
  | m :: ms, s => by
    rw [tellMembers, tellMembers_steward t k a p ms]
    split
    · rfl
    · exact sendMgmt_steward_tasks ..

theorem haltWith_task {s : State} {n code : Nat} {fr : Option FaultRec} {rp : Bool} {t : Task} (h : taskOf s n = some t) (hl : t.state = .launched) (hh : t.halting = false) :
   ∃ v, taskOf (haltWith n code fr rp s) n = some v ∧ v.halting = true ∧ v.status = code := by
  have hq : ∃ v, taskOf (haltQuiet n code fr rp s) n = some v ∧ v.halting = true ∧ v.status = code := by
    exact ⟨_, taskOf_modTask_same n (fun t => { t with halting := true, haltBeat := upBeat s, status := code, fault := fr.orElse (fun _ => t.fault), repair := rp }) (fun _ => rfl) s t h, rfl, rfl⟩
  simp only [haltWith, h, hl, hh]
  simp only [ne_eq, not_true, if_false, Bool.false_eq_true]
  split
  · exact hq
  · split
    · rw [taskOf_of_tasks (tellMembers_steward ..)]; exact hq
    · rw [taskOf_of_tasks (sendMgmt_steward_tasks ..)]; exact hq

theorem haltTask_task {s : State} {n code : Nat} {fr : Option FaultRec} {rp : Bool} {t : Task} (h : taskOf s n = some t) (hl : t.state = .launched) (hh : t.halting = false) :
   ∃ v, taskOf (haltTask n code fr rp s) n = some v ∧ v.halting = true ∧ v.status = code := by
  simp only [haltTask, h]; exact haltWith_task h hl hh

theorem runningTask_some {s : State} {n : Nat} {t : Task} {i : Image} (h : runningTask s n = some (t, i)) : taskOf s n = some t ∧ t.state = .launched ∧ t.halting = false := by
  simp only [runningTask] at h
  split at h
  · rename_i x hx
    split at h
    · rename_i hc
      simp only [Option.map_eq_some_iff] at h
      obtain ⟨a, ha, hb⟩ := h
      obtain ⟨rfl, rfl⟩ := by simpa using hb
      exact ⟨hx, hc⟩
    · simp at h
  · simp at h

theorem releaseSync_steward : ∀ (rs : List Nat) (s : State), (releaseSync rs s).steward = s.steward ∧ (releaseSync rs s).pace = s.pace
  | [], s => ⟨rfl, rfl⟩
  | r :: rs, s => by rw [releaseSync]; exact releaseSync_steward rs _

theorem roomRuns_some {s : State} {room : Nat} (h : roomRuns s room = true) : ∃ t i n, roomTask s room = some (t, i) ∧ (roomOf s room).task = some n ∧ taskOf s n = some t ∧ t.state = .launched ∧ t.halting = false ∧ (roomOf s room).fault = none := by
  simp only [roomRuns] at h
  split at h
  · rename_i t i hrt
    simp only [Bool.and_eq_true, beq_iff_eq, Bool.not_eq_true', Option.isNone_iff_eq_none] at h
    have hrt' := hrt
    simp only [roomTask] at hrt
    split at hrt
    · simp at hrt
    · rename_i n hn
      split at hrt
      · simp at hrt
      · rename_i x hx
        simp only [Option.map_eq_some_iff] at hrt
        obtain ⟨a, ha, hb⟩ := hrt
        obtain ⟨rfl, rfl⟩ := by simpa using hb
        exact ⟨x, a, n, hrt', hn, hx, h.1.1, h.1.2, h.2⟩
  · simp at h

end Sys2Proof.Machine
end

