-- ==== Sys2Proof/Laws/Mem.lean ====
section
/-!
SUPPORT. Every operation of the machine keeps the store's bytes in canonical form: one lemma for each that touches a store, and for those that do not, their frame.
-/
namespace Sys2Proof.Machine

set_option linter.unusedTactic false
set_option linter.unreachableTactic false
set_option maxRecDepth 4000
set_option linter.unusedVariables false
set_option linter.unusedSimpArgs false

/-- An operation that leaves the stores alone keeps the form. -/
theorem mem_of_frame {s t : State} (h : changesOnly (fun p => p ≠ .store) s t) (hs : memWf s = true) : memWf t = true := by
  have e : t.store = s.store := h.same .store (fun k => k rfl)
  unfold memWf at hs ⊢
  rw [e]; exact hs

theorem mem_ite {s t : State} {c : Prop} [Decidable c] (h : memWf s = true) (h' : memWf t = true) : memWf (if c then s else t) = true := by
  split <;> assumption

theorem mem_mk {s : State} (h : memWf s = true) {a b c d e f g i j k l m n o p q u} : memWf ⟨a, b, c, s.store, d, e, f, g, i, j, k, l, m, n, o, p, q, u⟩ = true := h

theorem mem_store {st : Store} (h : Memory.wf st.mem = true) {a b c d e f g i j k l m n o p q u} : memWf ⟨a, b, c, st, d, e, f, g, i, j, k, l, m, n, o, p, q, u⟩ =
    true := h

theorem modStore_mem (f : Store → Store) {s : State} (hf : ∀ st, Memory.wf st.mem = true → Memory.wf (f st).mem = true) (h : memWf s = true) :
    memWf (modStore f s) = true := hf _ h

theorem putStore_mem {st : Store} {s : State} (h : Memory.wf st.mem = true) : memWf (putStore st s) = true := by
  unfold putStore
  extract_lets a b c
  have hc : memWf c = true := mem_of_frame (noteCorrectedAll_only (by simp) _ only_refl) (mem_store h)
  clear_value c
  exact mem_ite (mem_of_frame (by apply raiseInt_only <;> first | exact only_refl | simp | exact only_refl) hc) hc

theorem runWf {r₀ r : Run} (h : runGrows r₀ r) (w : Memory.wf r₀.st.mem = true) : Memory.wf r.st.mem = true := by
  obtain ⟨_, _, k⟩ := h.ranges
  exact k.wf w

theorem modSteward_mem (f) {s : State} (h : memWf s = true) : memWf (modSteward f s) = true := h
theorem modHost_mem (f) {s : State} (h : memWf s = true) : memWf (modHost f s) = true := h
theorem modShell_mem (f) {s : State} (h : memWf s = true) : memWf (modShell f s) = true := h

theorem hardReset_mem {s : State} (h : memWf s = true) : memWf (hardReset s) = true := by
  have e : (hardReset s).store = storeReset := by simp only [hardReset, State.reset]
  unfold memWf; rw [e]; decide

theorem runOf_wf {s : State} (x : Room) (h : memWf s = true) : Memory.wf (runOf s x).st.mem = true := h

theorem mem_foldl {α : Type} (g : State → α → State) (hg : ∀ s x, memWf s = true → memWf (g s x) = true) (l : List α) {s : State} (h : memWf s = true) :
    memWf (l.foldl g s) = true := by
  induction l generalizing s with
  | nil => exact h
  | cons x xs ih => exact ih (hg _ _ h)

theorem commitRun_mem (a0 a1 a2 a3 : Nat) (a4 : Run) {s : State} (hr : Memory.wf a4.st.mem = true) : memWf (commitRun a0 a1 a2 a3 a4 s) = true := by
  unfold commitRun
  extract_lets a b c
  have hb : memWf b = true := mem_of_frame (modTask_only (by simp) _ _ only_refl) (putStore_mem hr)
  have hc : memWf c = true := mem_of_frame (modRoom_only (by simp) _ _ only_refl) hb
  clear_value c
  split
  · exact hc
  · exact mem_of_frame (noteRead_only (by simp) _ _ only_refl) (mem_of_frame (by apply raiseFault_only <;> first | exact only_refl | simp) hc)

theorem commitStep_mem (a0 a1 : Nat) (a2 : Run × InFlight) {s : State} (hr : Memory.wf a2.1.st.mem = true) : memWf (commitStep a0 a1 a2 s) = true :=
  mem_of_frame (by apply setFlight_only <;> first | exact only_refl | simp) (commitRun_mem _ _ _ _ _ hr)

theorem mem_wf {s : State} (h : memWf s = true) : Memory.wf s.store.mem = true := h

theorem ldsWork_mem (a0 : Nat) (a1 : Env) (a2 : Room) (a3 : Task) (a4 : InFlight) {s : State} (h : memWf s = true) : memWf (ldsWork a0 a1 a2 a3 a4 s) = true := by
  fun_cases ldsWork a0 a1 a2 a3 a4 s
  all_goals (intros; (try dsimp only); repeat' first
      | with_reducible assumption | with_reducible apply commitStep_mem
      | with_reducible refine mem_of_frame (setFlight_only (by simp) (by simp) (by simp) _ _ only_refl) ?_
      | with_reducible refine mem_of_frame (modRoom_only (by simp) _ _ only_refl) ?_ | with_reducible refine runWf (runLds_grows _ _ _ (grows_refl _)) ?_
      | with_reducible apply mem_ite | with_reducible apply runOf_wf | with_reducible apply memPut_wf | with_reducible apply writeWhole_wf
      | with_reducible apply placeBufs_wf | with_reducible apply putModes_wf | with_reducible apply resetBlocks_wf | with_reducible apply argBufs_wf
      | with_reducible apply clearGranule_wf | with_reducible apply landWrite_wf | with_reducible apply storeWord_wf | with_reducible apply serveUnits_wf
      | (simp +zetaDelta only [readLines_mem, readLine_mem, cleanLines_mem, setOwn_mem, setLine_mem, modErr_mem, setRing_mem, logUncorrectable_mem, giveGranules_mem, addUnit_mem, readTraffic_mem, advanceTail_mem, setOwns_mem, setOwnsBy_mem, startClearing_mem, closeOn_mem, closeCtx_mem, copyStores_mem, poisonBank_mem, writeBackLine_mem, setRings_mem, placeRings_mem, deliverUnits_mem, dropAccesses_mem, dropImage_mem, returnTake_mem, advanceHead_mem])
      | with_reducible apply mem_wf | with_reducible apply mem_foldl | intro _ | (split))

theorem pairWork_mem (a0 : Nat) (a1 : Env) (a2 : Room) (a3 : Task) (a4 : InFlight) {s : State} (h : memWf s = true) : memWf (pairWork a0 a1 a2 a3 a4 s) = true := by
  fun_cases pairWork a0 a1 a2 a3 a4 s
  all_goals (intros; (try dsimp only); repeat' first
      | with_reducible assumption | with_reducible refine mem_of_frame (startAnnex_only (by simp) _ _ _ _ _ only_refl) ?_
      | with_reducible apply commitStep_mem | with_reducible refine runWf (pairStep_grows _ _ _ _ _ _ (grows_refl _)) ?_ | with_reducible apply mem_ite
      | with_reducible apply runOf_wf | with_reducible apply memPut_wf | with_reducible apply writeWhole_wf | with_reducible apply placeBufs_wf
      | with_reducible apply putModes_wf | with_reducible apply resetBlocks_wf | with_reducible apply argBufs_wf | with_reducible apply clearGranule_wf
      | with_reducible apply landWrite_wf | with_reducible apply storeWord_wf | with_reducible apply serveUnits_wf
      | (simp +zetaDelta only [readLines_mem, readLine_mem, cleanLines_mem, setOwn_mem, setLine_mem, modErr_mem, setRing_mem, logUncorrectable_mem, giveGranules_mem, addUnit_mem, readTraffic_mem, advanceTail_mem, setOwns_mem, setOwnsBy_mem, startClearing_mem, closeOn_mem, closeCtx_mem, copyStores_mem, poisonBank_mem, writeBackLine_mem, setRings_mem, placeRings_mem, deliverUnits_mem, dropAccesses_mem, dropImage_mem, returnTake_mem, advanceHead_mem])
      | with_reducible apply mem_wf | with_reducible apply mem_foldl | intro _ | (split))

theorem relayWork_mem (a0 : Nat) (a1 : Env) (a2 : Room) (a3 : Task) (a4 : InFlight) {s : State} (h : memWf s = true) : memWf (relayWork a0 a1 a2 a3 a4 s) = true := by
  fun_cases relayWork a0 a1 a2 a3 a4 s
  all_goals (intros; (try dsimp only); repeat' first
      | with_reducible assumption | with_reducible refine mem_of_frame (relayArrive_only (by simp) _ _ _ _ only_refl) ?_ | with_reducible apply commitStep_mem
      | with_reducible refine mem_of_frame (setFlight_only (by simp) (by simp) (by simp) _ _ only_refl) ?_
      | with_reducible refine mem_of_frame (modRoom_only (by simp) _ _ only_refl) ?_
      | with_reducible refine runWf (wordToRelay_grows _ _ _ _ (grows_refl _)) ?_ | with_reducible apply mem_ite | with_reducible apply runOf_wf
      | with_reducible apply memPut_wf | with_reducible apply writeWhole_wf | with_reducible apply placeBufs_wf | with_reducible apply putModes_wf
      | with_reducible apply resetBlocks_wf | with_reducible apply argBufs_wf | with_reducible apply clearGranule_wf | with_reducible apply landWrite_wf
      | with_reducible apply storeWord_wf | with_reducible apply serveUnits_wf
      | (simp +zetaDelta only [readLines_mem, readLine_mem, cleanLines_mem, setOwn_mem, setLine_mem, modErr_mem, setRing_mem, logUncorrectable_mem, giveGranules_mem, addUnit_mem, readTraffic_mem, advanceTail_mem, setOwns_mem, setOwnsBy_mem, startClearing_mem, closeOn_mem, closeCtx_mem, copyStores_mem, poisonBank_mem, writeBackLine_mem, setRings_mem, placeRings_mem, deliverUnits_mem, dropAccesses_mem, dropImage_mem, returnTake_mem, advanceHead_mem])
      | with_reducible apply mem_wf | with_reducible apply mem_foldl | intro _ | (split))

theorem stuffWork_mem (a0 : Nat) (a1 : Env) (a2 : Room) (a3 : Task) (a4 : InFlight) {s : State} (h : memWf s = true) : memWf (stuffWork a0 a1 a2 a3 a4 s) = true := by
  fun_cases stuffWork a0 a1 a2 a3 a4 s
  all_goals (intros; (try dsimp only); repeat' first
      | with_reducible assumption | with_reducible apply commitStep_mem | with_reducible refine runWf (noteMismatch_grows _ _ (grows_refl _)) ?_
      | with_reducible apply mem_ite | with_reducible apply runOf_wf | with_reducible apply memPut_wf | with_reducible apply writeWhole_wf
      | with_reducible apply placeBufs_wf | with_reducible apply putModes_wf | with_reducible apply resetBlocks_wf | with_reducible apply argBufs_wf
      | with_reducible apply clearGranule_wf | with_reducible apply landWrite_wf | with_reducible apply storeWord_wf | with_reducible apply serveUnits_wf
      | (simp +zetaDelta only [readLines_mem, readLine_mem, cleanLines_mem, setOwn_mem, setLine_mem, modErr_mem, setRing_mem, logUncorrectable_mem, giveGranules_mem, addUnit_mem, readTraffic_mem, advanceTail_mem, setOwns_mem, setOwnsBy_mem, startClearing_mem, closeOn_mem, closeCtx_mem, copyStores_mem, poisonBank_mem, writeBackLine_mem, setRings_mem, placeRings_mem, deliverUnits_mem, dropAccesses_mem, dropImage_mem, returnTake_mem, advanceHead_mem])
      | with_reducible apply mem_wf | with_reducible apply mem_foldl | intro _ | (split))

theorem runStep_mem (a0 : Nat) (a1 : InFlight) {s : State} (h : memWf s = true) : memWf (runStep a0 a1 s) = true := by
  fun_cases runStep a0 a1 s
  all_goals (intros; (try dsimp only); repeat' first
      | with_reducible assumption | with_reducible apply stuffWork_mem | with_reducible refine mem_of_frame (signalWork_only (by simp) _ _ only_refl) ?_
      | with_reducible apply relayWork_mem | with_reducible apply pairWork_mem | with_reducible apply ldsWork_mem | with_reducible apply commitStep_mem
      | with_reducible refine mem_of_frame (setFlight_only (by simp) (by simp) (by simp) _ _ only_refl) ?_
      | with_reducible refine mem_of_frame (modRoom_only (by simp) _ _ only_refl) ?_ | with_reducible refine runWf (matStep_grows _ _ _ _ (grows_refl _)) ?_
      | with_reducible refine runWf (chuteStep_grows _ _ _ (grows_refl _)) ?_ | with_reducible refine runWf (ewaIter_grows _ _ _ _ (grows_refl _)) ?_
      | with_reducible refine runWf (moveStep_grows _ _ _ (grows_refl _)) ?_ | with_reducible apply mem_ite | with_reducible apply runOf_wf
      | with_reducible apply memPut_wf | with_reducible apply writeWhole_wf | with_reducible apply placeBufs_wf | with_reducible apply putModes_wf
      | with_reducible apply resetBlocks_wf | with_reducible apply argBufs_wf | with_reducible apply clearGranule_wf | with_reducible apply landWrite_wf
      | with_reducible apply storeWord_wf | with_reducible apply serveUnits_wf
      | (simp +zetaDelta only [readLines_mem, readLine_mem, cleanLines_mem, setOwn_mem, setLine_mem, modErr_mem, setRing_mem, logUncorrectable_mem, giveGranules_mem, addUnit_mem, readTraffic_mem, advanceTail_mem, setOwns_mem, setOwnsBy_mem, startClearing_mem, closeOn_mem, closeCtx_mem, copyStores_mem, poisonBank_mem, writeBackLine_mem, setRings_mem, placeRings_mem, deliverUnits_mem, dropAccesses_mem, dropImage_mem, returnTake_mem, advanceHead_mem])
      | with_reducible apply mem_wf | with_reducible apply mem_foldl | intro _ | (split))

theorem pacedStep_mem (a0 : Nat) (a1 : InFlight) {s : State} (h : memWf s = true) : memWf (pacedStep a0 a1 s) = true := by
  fun_cases pacedStep a0 a1 s
  all_goals (intros; (try dsimp only); repeat' first
      | with_reducible assumption | with_reducible refine mem_of_frame (takeAll_only (by simp) _ only_refl) ?_ | with_reducible apply runStep_mem
      | with_reducible apply mem_ite | with_reducible apply runOf_wf | with_reducible apply memPut_wf | with_reducible apply writeWhole_wf
      | with_reducible apply placeBufs_wf | with_reducible apply putModes_wf | with_reducible apply resetBlocks_wf | with_reducible apply argBufs_wf
      | with_reducible apply clearGranule_wf | with_reducible apply landWrite_wf | with_reducible apply storeWord_wf | with_reducible apply serveUnits_wf
      | (simp +zetaDelta only [readLines_mem, readLine_mem, cleanLines_mem, setOwn_mem, setLine_mem, modErr_mem, setRing_mem, logUncorrectable_mem, giveGranules_mem, addUnit_mem, readTraffic_mem, advanceTail_mem, setOwns_mem, setOwnsBy_mem, startClearing_mem, closeOn_mem, closeCtx_mem, copyStores_mem, poisonBank_mem, writeBackLine_mem, setRings_mem, placeRings_mem, deliverUnits_mem, dropAccesses_mem, dropImage_mem, returnTake_mem, advanceHead_mem])
      | with_reducible apply mem_wf | with_reducible apply mem_foldl | intro _ | (split))

theorem sendSignals_mem (a0 a1 : Nat) {s : State} (h : memWf s = true) : memWf (sendSignals a0 a1 s) = true := by
  fun_induction sendSignals a0 a1 s
  all_goals intros
  all_goals repeat' first
      | with_reducible assumption | with_reducible apply_assumption | with_reducible apply pacedStep_mem | with_reducible apply mem_ite
      | with_reducible apply runOf_wf | with_reducible apply memPut_wf | with_reducible apply writeWhole_wf | with_reducible apply placeBufs_wf
      | with_reducible apply putModes_wf | with_reducible apply resetBlocks_wf | with_reducible apply argBufs_wf | with_reducible apply clearGranule_wf
      | with_reducible apply landWrite_wf | with_reducible apply storeWord_wf | with_reducible apply serveUnits_wf
      | (simp +zetaDelta only [readLines_mem, readLine_mem, cleanLines_mem, setOwn_mem, setLine_mem, modErr_mem, setRing_mem, logUncorrectable_mem, giveGranules_mem, addUnit_mem, readTraffic_mem, advanceTail_mem, setOwns_mem, setOwnsBy_mem, startClearing_mem, closeOn_mem, closeCtx_mem, copyStores_mem, poisonBank_mem, writeBackLine_mem, setRings_mem, placeRings_mem, deliverUnits_mem, dropAccesses_mem, dropImage_mem, returnTake_mem, advanceHead_mem])
      | with_reducible apply mem_wf | with_reducible apply mem_foldl | intro _ | (split)

theorem settle_mem (a0 : Nat) {s : State} (h : memWf s = true) : memWf (settle a0 s) = true := by
  fun_cases settle a0 s
  all_goals (intros; (try dsimp only); repeat' first
      | with_reducible assumption | with_reducible apply sendSignals_mem | with_reducible refine mem_of_frame (noteArrival_only (by simp) _ only_refl) ?_
      | with_reducible apply mem_ite | with_reducible apply runOf_wf | with_reducible apply memPut_wf | with_reducible apply writeWhole_wf
      | with_reducible apply placeBufs_wf | with_reducible apply putModes_wf | with_reducible apply resetBlocks_wf | with_reducible apply argBufs_wf
      | with_reducible apply clearGranule_wf | with_reducible apply landWrite_wf | with_reducible apply storeWord_wf | with_reducible apply serveUnits_wf
      | (simp +zetaDelta only [readLines_mem, readLine_mem, cleanLines_mem, setOwn_mem, setLine_mem, modErr_mem, setRing_mem, logUncorrectable_mem, giveGranules_mem, addUnit_mem, readTraffic_mem, advanceTail_mem, setOwns_mem, setOwnsBy_mem, startClearing_mem, closeOn_mem, closeCtx_mem, copyStores_mem, poisonBank_mem, writeBackLine_mem, setRings_mem, placeRings_mem, deliverUnits_mem, dropAccesses_mem, dropImage_mem, returnTake_mem, advanceHead_mem])
      | with_reducible apply mem_wf | with_reducible apply mem_foldl | intro _ | (split))

theorem stepOnce_mem (a0 a1 : Nat) {s : State} (h : memWf s = true) : memWf (stepOnce a0 a1 s) = true := by
  fun_cases stepOnce a0 a1 s
  all_goals (intros; (try dsimp only); repeat' first
      | with_reducible assumption | with_reducible apply pacedStep_mem | with_reducible apply mem_ite | with_reducible apply runOf_wf
      | with_reducible apply memPut_wf | with_reducible apply writeWhole_wf | with_reducible apply placeBufs_wf | with_reducible apply putModes_wf
      | with_reducible apply resetBlocks_wf | with_reducible apply argBufs_wf | with_reducible apply clearGranule_wf | with_reducible apply landWrite_wf
      | with_reducible apply storeWord_wf | with_reducible apply serveUnits_wf
      | (simp +zetaDelta only [readLines_mem, readLine_mem, cleanLines_mem, setOwn_mem, setLine_mem, modErr_mem, setRing_mem, logUncorrectable_mem, giveGranules_mem, addUnit_mem, readTraffic_mem, advanceTail_mem, setOwns_mem, setOwnsBy_mem, startClearing_mem, closeOn_mem, closeCtx_mem, copyStores_mem, poisonBank_mem, writeBackLine_mem, setRings_mem, placeRings_mem, deliverUnits_mem, dropAccesses_mem, dropImage_mem, returnTake_mem, advanceHead_mem])
      | with_reducible apply mem_wf | with_reducible apply mem_foldl | intro _ | (split))

theorem advanceRoom_mem (a0 : Nat) {s : State} (h : memWf s = true) : memWf (advanceRoom a0 s) = true := by
  fun_cases advanceRoom a0 s
  all_goals (intros; (try dsimp only); repeat' first
      | with_reducible assumption | with_reducible apply stepOnce_mem | with_reducible apply settle_mem | with_reducible apply mem_ite
      | with_reducible apply runOf_wf | with_reducible apply memPut_wf | with_reducible apply writeWhole_wf | with_reducible apply placeBufs_wf
      | with_reducible apply putModes_wf | with_reducible apply resetBlocks_wf | with_reducible apply argBufs_wf | with_reducible apply clearGranule_wf
      | with_reducible apply landWrite_wf | with_reducible apply storeWord_wf | with_reducible apply serveUnits_wf
      | (simp +zetaDelta only [readLines_mem, readLine_mem, cleanLines_mem, setOwn_mem, setLine_mem, modErr_mem, setRing_mem, logUncorrectable_mem, giveGranules_mem, addUnit_mem, readTraffic_mem, advanceTail_mem, setOwns_mem, setOwnsBy_mem, startClearing_mem, closeOn_mem, closeCtx_mem, copyStores_mem, poisonBank_mem, writeBackLine_mem, setRings_mem, placeRings_mem, deliverUnits_mem, dropAccesses_mem, dropImage_mem, returnTake_mem, advanceHead_mem])
      | with_reducible apply mem_wf | with_reducible apply mem_foldl | intro _ | (split))

theorem advanceRooms_mem {s : State} (h : memWf s = true) : memWf (advanceRooms s) = true := by
  fun_cases advanceRooms s
  all_goals (intros; (try dsimp only); repeat' first
      | with_reducible assumption | with_reducible apply advanceRoom_mem | with_reducible apply mem_ite | with_reducible apply runOf_wf
      | with_reducible apply memPut_wf | with_reducible apply writeWhole_wf | with_reducible apply placeBufs_wf | with_reducible apply putModes_wf
      | with_reducible apply resetBlocks_wf | with_reducible apply argBufs_wf | with_reducible apply clearGranule_wf | with_reducible apply landWrite_wf
      | with_reducible apply storeWord_wf | with_reducible apply serveUnits_wf
      | (simp +zetaDelta only [readLines_mem, readLine_mem, cleanLines_mem, setOwn_mem, setLine_mem, modErr_mem, setRing_mem, logUncorrectable_mem, giveGranules_mem, addUnit_mem, readTraffic_mem, advanceTail_mem, setOwns_mem, setOwnsBy_mem, startClearing_mem, closeOn_mem, closeCtx_mem, copyStores_mem, poisonBank_mem, writeBackLine_mem, setRings_mem, placeRings_mem, deliverUnits_mem, dropAccesses_mem, dropImage_mem, returnTake_mem, advanceHead_mem])
      | with_reducible apply mem_wf | with_reducible apply mem_foldl | intro _ | (split))

theorem dropNext_mem {s : State} (h : memWf s = true) : memWf (dropNext s) = true := by
  fun_cases dropNext s
  all_goals (intros; (try dsimp only); repeat' first
      | with_reducible assumption | with_reducible refine mem_of_frame (modSeq_only (by simp) _ only_refl) ?_ | with_reducible apply hardReset_mem
      | with_reducible apply mem_ite | with_reducible apply runOf_wf | with_reducible apply memPut_wf | with_reducible apply writeWhole_wf
      | with_reducible apply placeBufs_wf | with_reducible apply putModes_wf | with_reducible apply resetBlocks_wf | with_reducible apply argBufs_wf
      | with_reducible apply clearGranule_wf | with_reducible apply landWrite_wf | with_reducible apply storeWord_wf | with_reducible apply serveUnits_wf
      | (simp +zetaDelta only [readLines_mem, readLine_mem, cleanLines_mem, setOwn_mem, setLine_mem, modErr_mem, setRing_mem, logUncorrectable_mem, giveGranules_mem, addUnit_mem, readTraffic_mem, advanceTail_mem, setOwns_mem, setOwnsBy_mem, startClearing_mem, closeOn_mem, closeCtx_mem, copyStores_mem, poisonBank_mem, writeBackLine_mem, setRings_mem, placeRings_mem, deliverUnits_mem, dropAccesses_mem, dropImage_mem, returnTake_mem, advanceHead_mem])
      | with_reducible apply mem_wf | with_reducible apply mem_foldl | intro _ | (split))

theorem afterDrop_mem (a0 : Nat) {s : State} (h : memWf s = true) : memWf (afterDrop a0 s) = true := by
  fun_cases afterDrop a0 s
  all_goals (intros; (try dsimp only); repeat' first
      | with_reducible assumption | with_reducible apply dropNext_mem | with_reducible apply mem_ite | with_reducible apply runOf_wf
      | with_reducible apply memPut_wf | with_reducible apply writeWhole_wf | with_reducible apply placeBufs_wf | with_reducible apply putModes_wf
      | with_reducible apply resetBlocks_wf | with_reducible apply argBufs_wf | with_reducible apply clearGranule_wf | with_reducible apply landWrite_wf
      | with_reducible apply storeWord_wf | with_reducible apply serveUnits_wf
      | (simp +zetaDelta only [readLines_mem, readLine_mem, cleanLines_mem, setOwn_mem, setLine_mem, modErr_mem, setRing_mem, logUncorrectable_mem, giveGranules_mem, addUnit_mem, readTraffic_mem, advanceTail_mem, setOwns_mem, setOwnsBy_mem, startClearing_mem, closeOn_mem, closeCtx_mem, copyStores_mem, poisonBank_mem, writeBackLine_mem, setRings_mem, placeRings_mem, deliverUnits_mem, dropAccesses_mem, dropImage_mem, returnTake_mem, advanceHead_mem])
      | with_reducible apply mem_wf | with_reducible apply mem_foldl | intro _ | (split))

theorem commitPoint_mem (a0 : Nat) (a1 : List Nat) (a2 : PointL) {s : State} (h : memWf s = true) : memWf (commitPoint a0 a1 a2 s) = true := by
  fun_cases commitPoint a0 a1 a2 s
  all_goals (intros; (try dsimp only); repeat' first
      | with_reducible assumption | (with_reducible refine modStore_mem _ (fun _ _ => ?_) ?_)
      | with_reducible refine mem_of_frame (blameBank_only (by simp) (by simp) (by simp) (by simp) _ _ only_refl) ?_ | with_reducible apply putStore_mem
      | with_reducible refine mem_of_frame (modTask_only (by simp) _ _ only_refl) ?_ | with_reducible apply mem_ite | with_reducible apply runOf_wf
      | with_reducible apply memPut_wf | with_reducible apply writeWhole_wf | with_reducible apply placeBufs_wf | with_reducible apply putModes_wf
      | with_reducible apply resetBlocks_wf | with_reducible apply argBufs_wf | with_reducible apply clearGranule_wf | with_reducible apply landWrite_wf
      | with_reducible apply storeWord_wf | with_reducible apply serveUnits_wf
      | (simp +zetaDelta only [readLines_mem, readLine_mem, cleanLines_mem, setOwn_mem, setLine_mem, modErr_mem, setRing_mem, logUncorrectable_mem, giveGranules_mem, addUnit_mem, readTraffic_mem, advanceTail_mem, setOwns_mem, setOwnsBy_mem, startClearing_mem, closeOn_mem, closeCtx_mem, copyStores_mem, poisonBank_mem, writeBackLine_mem, setRings_mem, placeRings_mem, deliverUnits_mem, dropAccesses_mem, dropImage_mem, returnTake_mem, advanceHead_mem])
      | with_reducible apply mem_wf | with_reducible apply mem_foldl | intro _ | (split))

theorem commitAll_mem (a0 : Nat) (a1 : List Nat) (a2 : List PointL) {s : State} (h : memWf s = true) : memWf (commitAll a0 a1 a2 s) = true := by
  induction a2 generalizing s with
  | nil => exact h
  | cons x xs ih => exact ih (commitPoint_mem _ _ x h)

theorem releaseTask_mem (a0 : Nat) {s : State} (h : memWf s = true) : memWf (releaseTask a0 s) = true := by
  fun_cases releaseTask a0 s
  all_goals (intros; (try dsimp only); repeat' first
      | with_reducible assumption | with_reducible refine mem_of_frame (freeRooms_only (by simp) (by simp) _ only_refl) ?_
      | with_reducible refine mem_of_frame (flushPorts_only (by simp) _ only_refl) ?_ | (with_reducible refine modStore_mem _ (fun _ _ => ?_) ?_)
      | with_reducible refine mem_of_frame (modFabric_only (by simp) _ only_refl) ?_ | with_reducible apply mem_ite | with_reducible apply runOf_wf
      | with_reducible apply memPut_wf | with_reducible apply writeWhole_wf | with_reducible apply placeBufs_wf | with_reducible apply putModes_wf
      | with_reducible apply resetBlocks_wf | with_reducible apply argBufs_wf | with_reducible apply clearGranule_wf | with_reducible apply landWrite_wf
      | with_reducible apply storeWord_wf | with_reducible apply serveUnits_wf
      | (simp +zetaDelta only [readLines_mem, readLine_mem, cleanLines_mem, setOwn_mem, setLine_mem, modErr_mem, setRing_mem, logUncorrectable_mem, giveGranules_mem, addUnit_mem, readTraffic_mem, advanceTail_mem, setOwns_mem, setOwnsBy_mem, startClearing_mem, closeOn_mem, closeCtx_mem, copyStores_mem, poisonBank_mem, writeBackLine_mem, setRings_mem, placeRings_mem, deliverUnits_mem, dropAccesses_mem, dropImage_mem, returnTake_mem, advanceHead_mem])
      | with_reducible apply mem_wf | with_reducible apply mem_foldl | intro _ | (split))

theorem completePoint_mem (a0 : Nat) {s : State} (h : memWf s = true) : memWf (completePoint a0 s) = true := by
  fun_cases completePoint a0 s
  all_goals (intros; (try dsimp only); repeat' first
      | with_reducible assumption | with_reducible apply releaseTask_mem | with_reducible apply commitAll_mem
      | with_reducible refine mem_of_frame (answerAborts_only (by simp) (by simp) (by simp) _ _ _ only_refl) ?_
      | with_reducible refine mem_of_frame (promote_only (by simp) only_refl) ?_
      | with_reducible refine mem_of_frame (finishTask_only (by simp) (by simp) (by simp) (by simp) _ _ _ only_refl) ?_
      | with_reducible refine mem_of_frame (modTask_only (by simp) _ _ only_refl) ?_ | with_reducible apply mem_ite | with_reducible apply runOf_wf
      | with_reducible apply memPut_wf | with_reducible apply writeWhole_wf | with_reducible apply placeBufs_wf | with_reducible apply putModes_wf
      | with_reducible apply resetBlocks_wf | with_reducible apply argBufs_wf | with_reducible apply clearGranule_wf | with_reducible apply landWrite_wf
      | with_reducible apply storeWord_wf | with_reducible apply serveUnits_wf
      | (simp +zetaDelta only [readLines_mem, readLine_mem, cleanLines_mem, setOwn_mem, setLine_mem, modErr_mem, setRing_mem, logUncorrectable_mem, giveGranules_mem, addUnit_mem, readTraffic_mem, advanceTail_mem, setOwns_mem, setOwnsBy_mem, startClearing_mem, closeOn_mem, closeCtx_mem, copyStores_mem, poisonBank_mem, writeBackLine_mem, setRings_mem, placeRings_mem, deliverUnits_mem, dropAccesses_mem, dropImage_mem, returnTake_mem, advanceHead_mem])
      | with_reducible apply mem_wf | with_reducible apply mem_foldl | intro _ | (split))

theorem leaderEnd_mem (a0 : Nat) {s : State} (h : memWf s = true) : memWf (leaderEnd a0 s) = true := by
  fun_cases leaderEnd a0 s
  all_goals (intros; (try dsimp only); repeat' first
      | with_reducible assumption | with_reducible apply completePoint_mem
      | with_reducible refine mem_of_frame (tellMembers_only (by simp) _ _ _ _ _ only_refl) ?_ | with_reducible apply mem_ite | with_reducible apply runOf_wf
      | with_reducible apply memPut_wf | with_reducible apply writeWhole_wf | with_reducible apply placeBufs_wf | with_reducible apply putModes_wf
      | with_reducible apply resetBlocks_wf | with_reducible apply argBufs_wf | with_reducible apply clearGranule_wf | with_reducible apply landWrite_wf
      | with_reducible apply storeWord_wf | with_reducible apply serveUnits_wf
      | (simp +zetaDelta only [readLines_mem, readLine_mem, cleanLines_mem, setOwn_mem, setLine_mem, modErr_mem, setRing_mem, logUncorrectable_mem, giveGranules_mem, addUnit_mem, readTraffic_mem, advanceTail_mem, setOwns_mem, setOwnsBy_mem, startClearing_mem, closeOn_mem, closeCtx_mem, copyStores_mem, poisonBank_mem, writeBackLine_mem, setRings_mem, placeRings_mem, deliverUnits_mem, dropAccesses_mem, dropImage_mem, returnTake_mem, advanceHead_mem])
      | with_reducible apply mem_wf | with_reducible apply mem_foldl | intro _ | (split))

theorem allEnded_mem (a0 : Nat) {s : State} (h : memWf s = true) : memWf (allEnded a0 s) = true := by
  fun_cases allEnded a0 s
  all_goals (intros; (try dsimp only); repeat' first
      | with_reducible assumption | with_reducible refine mem_of_frame (markEnded_only (by simp) _ _ only_refl) ?_ | with_reducible apply leaderEnd_mem
      | with_reducible apply completePoint_mem | with_reducible refine mem_of_frame (sendMgmt_only (by simp) _ _ _ _ _ _ only_refl) ?_
      | with_reducible apply mem_ite | with_reducible apply runOf_wf | with_reducible apply memPut_wf | with_reducible apply writeWhole_wf
      | with_reducible apply placeBufs_wf | with_reducible apply putModes_wf | with_reducible apply resetBlocks_wf | with_reducible apply argBufs_wf
      | with_reducible apply clearGranule_wf | with_reducible apply landWrite_wf | with_reducible apply storeWord_wf | with_reducible apply serveUnits_wf
      | (simp +zetaDelta only [readLines_mem, readLine_mem, cleanLines_mem, setOwn_mem, setLine_mem, modErr_mem, setRing_mem, logUncorrectable_mem, giveGranules_mem, addUnit_mem, readTraffic_mem, advanceTail_mem, setOwns_mem, setOwnsBy_mem, startClearing_mem, closeOn_mem, closeCtx_mem, copyStores_mem, poisonBank_mem, writeBackLine_mem, setRings_mem, placeRings_mem, deliverUnits_mem, dropAccesses_mem, dropImage_mem, returnTake_mem, advanceHead_mem])
      | with_reducible apply mem_wf | with_reducible apply mem_foldl | intro _ | (split))

theorem finishAnnex_mem (a1 : Nat) (a2 : AnnexJob) {s : State} (h : memWf s = true) : memWf (finishAnnex s a1 a2) = true := by
  fun_cases finishAnnex s a1 a2
  all_goals (intros; (try dsimp only); repeat' first
      | with_reducible assumption | with_reducible apply commitStep_mem | with_reducible refine mem_of_frame (modRoom_only (by simp) _ _ only_refl) ?_
      | with_reducible refine runWf (blockStep_grows _ _ _ _ _ _ (grows_refl _)) ?_ | with_reducible refine runWf (rowfAnswer_grows _ _ _ _ (grows_refl _)) ?_
      | with_reducible apply mem_ite | with_reducible apply runOf_wf | with_reducible apply memPut_wf | with_reducible apply writeWhole_wf
      | with_reducible apply placeBufs_wf | with_reducible apply putModes_wf | with_reducible apply resetBlocks_wf | with_reducible apply argBufs_wf
      | with_reducible apply clearGranule_wf | with_reducible apply landWrite_wf | with_reducible apply storeWord_wf | with_reducible apply serveUnits_wf
      | (simp +zetaDelta only [readLines_mem, readLine_mem, cleanLines_mem, setOwn_mem, setLine_mem, modErr_mem, setRing_mem, logUncorrectable_mem, giveGranules_mem, addUnit_mem, readTraffic_mem, advanceTail_mem, setOwns_mem, setOwnsBy_mem, startClearing_mem, closeOn_mem, closeCtx_mem, copyStores_mem, poisonBank_mem, writeBackLine_mem, setRings_mem, placeRings_mem, deliverUnits_mem, dropAccesses_mem, dropImage_mem, returnTake_mem, advanceHead_mem])
      | with_reducible apply mem_wf | with_reducible apply mem_foldl | intro _ | (split))

theorem annexResultEff_mem (a1 a2 : Nat) (a3 : List (BitVec 32)) {s : State} (h : memWf s = true) : memWf (annexResultEff s a1 a2 a3) = true := by
  fun_cases annexResultEff s a1 a2 a3
  all_goals (intros; (try dsimp only); repeat' first
      | with_reducible assumption | with_reducible refine mem_of_frame (sendAllOn_only (by simp) _ _ only_refl) ?_ | with_reducible apply finishAnnex_mem
      | with_reducible apply settle_mem | with_reducible refine mem_of_frame (modRoom_only (by simp) _ _ only_refl) ?_ | with_reducible apply mem_ite
      | with_reducible apply runOf_wf | with_reducible apply memPut_wf | with_reducible apply writeWhole_wf | with_reducible apply placeBufs_wf
      | with_reducible apply putModes_wf | with_reducible apply resetBlocks_wf | with_reducible apply argBufs_wf | with_reducible apply clearGranule_wf
      | with_reducible apply landWrite_wf | with_reducible apply storeWord_wf | with_reducible apply serveUnits_wf
      | (simp +zetaDelta only [readLines_mem, readLine_mem, cleanLines_mem, setOwn_mem, setLine_mem, modErr_mem, setRing_mem, logUncorrectable_mem, giveGranules_mem, addUnit_mem, readTraffic_mem, advanceTail_mem, setOwns_mem, setOwnsBy_mem, startClearing_mem, closeOn_mem, closeCtx_mem, copyStores_mem, poisonBank_mem, writeBackLine_mem, setRings_mem, placeRings_mem, deliverUnits_mem, dropAccesses_mem, dropImage_mem, returnTake_mem, advanceHead_mem])
      | with_reducible apply mem_wf | with_reducible apply mem_foldl | intro _ | (split))

theorem endCloses_mem (a0 : List Closing) {s : State} (h : memWf s = true) : memWf (endCloses a0 s) = true := by
  fun_induction endCloses a0 s
  all_goals intros
  all_goals repeat' first
      | with_reducible assumption | with_reducible apply_assumption
      | with_reducible refine mem_of_frame (respond_only (by simp) (by simp) (by simp) _ _ _ only_refl) ?_ | with_reducible apply mem_ite
      | with_reducible apply runOf_wf | with_reducible apply memPut_wf | with_reducible apply writeWhole_wf | with_reducible apply placeBufs_wf
      | with_reducible apply putModes_wf | with_reducible apply resetBlocks_wf | with_reducible apply argBufs_wf | with_reducible apply clearGranule_wf
      | with_reducible apply landWrite_wf | with_reducible apply storeWord_wf | with_reducible apply serveUnits_wf
      | (simp +zetaDelta only [readLines_mem, readLine_mem, cleanLines_mem, setOwn_mem, setLine_mem, modErr_mem, setRing_mem, logUncorrectable_mem, giveGranules_mem, addUnit_mem, readTraffic_mem, advanceTail_mem, setOwns_mem, setOwnsBy_mem, startClearing_mem, closeOn_mem, closeCtx_mem, copyStores_mem, poisonBank_mem, writeBackLine_mem, setRings_mem, placeRings_mem, deliverUnits_mem, dropAccesses_mem, dropImage_mem, returnTake_mem, advanceHead_mem])
      | with_reducible apply mem_wf | with_reducible apply mem_foldl | intro _ | (split) | with_reducible apply mem_mk | with_reducible apply mem_store

theorem landCloses_mem {s : State} (h : memWf s = true) : memWf (landCloses s) = true := by
  fun_cases landCloses s
  all_goals (intros; (try dsimp only); repeat' first
      | with_reducible assumption | with_reducible apply endCloses_mem | with_reducible apply mem_ite | with_reducible apply runOf_wf
      | with_reducible apply memPut_wf | with_reducible apply writeWhole_wf | with_reducible apply placeBufs_wf | with_reducible apply putModes_wf
      | with_reducible apply resetBlocks_wf | with_reducible apply argBufs_wf | with_reducible apply clearGranule_wf | with_reducible apply landWrite_wf
      | with_reducible apply storeWord_wf | with_reducible apply serveUnits_wf
      | (simp +zetaDelta only [readLines_mem, readLine_mem, cleanLines_mem, setOwn_mem, setLine_mem, modErr_mem, setRing_mem, logUncorrectable_mem, giveGranules_mem, addUnit_mem, readTraffic_mem, advanceTail_mem, setOwns_mem, setOwnsBy_mem, startClearing_mem, closeOn_mem, closeCtx_mem, copyStores_mem, poisonBank_mem, writeBackLine_mem, setRings_mem, placeRings_mem, deliverUnits_mem, dropAccesses_mem, dropImage_mem, returnTake_mem, advanceHead_mem])
      | with_reducible apply mem_wf | with_reducible apply mem_foldl | intro _ | (split))

theorem beginClose_mem (a0 : Nat) (a1 : Option Image) (a2 : List Nat) (a3 : List (Nat × Nat)) (a4 : Nat × Window → Bool) {s : State} (h : memWf s = true) :
    memWf (beginClose a0 a1 a2 a3 a4 s) = true := by
  fun_cases beginClose a0 a1 a2 a3 a4 s
  all_goals (intros; (try dsimp only); repeat' first
      | with_reducible assumption | with_reducible apply landCloses_mem | with_reducible refine mem_of_frame (await_only (by simp) _ only_refl) ?_
      | (with_reducible refine modStore_mem _ (fun _ _ => ?_) ?_) | with_reducible apply modSteward_mem | with_reducible apply mem_ite
      | with_reducible apply runOf_wf | with_reducible apply memPut_wf | with_reducible apply writeWhole_wf | with_reducible apply placeBufs_wf
      | with_reducible apply putModes_wf | with_reducible apply resetBlocks_wf | with_reducible apply argBufs_wf | with_reducible apply clearGranule_wf
      | with_reducible apply landWrite_wf | with_reducible apply storeWord_wf | with_reducible apply serveUnits_wf
      | (simp +zetaDelta only [readLines_mem, readLine_mem, cleanLines_mem, setOwn_mem, setLine_mem, modErr_mem, setRing_mem, logUncorrectable_mem, giveGranules_mem, addUnit_mem, readTraffic_mem, advanceTail_mem, setOwns_mem, setOwnsBy_mem, startClearing_mem, closeOn_mem, closeCtx_mem, copyStores_mem, poisonBank_mem, writeBackLine_mem, setRings_mem, placeRings_mem, deliverUnits_mem, dropAccesses_mem, dropImage_mem, returnTake_mem, advanceHead_mem])
      | with_reducible apply mem_wf | with_reducible apply mem_foldl | intro _ | (split))

theorem beginUnload_mem (a0 : Nat) (a1 : Image) {s : State} (h : memWf s = true) : memWf (beginUnload a0 a1 s) = true := by
  fun_cases beginUnload a0 a1 s
  all_goals (intros; (try dsimp only); repeat' first
      | with_reducible assumption | with_reducible apply beginClose_mem | with_reducible apply mem_ite | with_reducible apply runOf_wf
      | with_reducible apply memPut_wf | with_reducible apply writeWhole_wf | with_reducible apply placeBufs_wf | with_reducible apply putModes_wf
      | with_reducible apply resetBlocks_wf | with_reducible apply argBufs_wf | with_reducible apply clearGranule_wf | with_reducible apply landWrite_wf
      | with_reducible apply storeWord_wf | with_reducible apply serveUnits_wf
      | (simp +zetaDelta only [readLines_mem, readLine_mem, cleanLines_mem, setOwn_mem, setLine_mem, modErr_mem, setRing_mem, logUncorrectable_mem, giveGranules_mem, addUnit_mem, readTraffic_mem, advanceTail_mem, setOwns_mem, setOwnsBy_mem, startClearing_mem, closeOn_mem, closeCtx_mem, copyStores_mem, poisonBank_mem, writeBackLine_mem, setRings_mem, placeRings_mem, deliverUnits_mem, dropAccesses_mem, dropImage_mem, returnTake_mem, advanceHead_mem])
      | with_reducible apply mem_wf | with_reducible apply mem_foldl | intro _ | (split))

theorem bringIn_mem (a0 : Nat) (a1 : RepairAct) {s : State} (h : memWf s = true) : memWf (bringIn a0 a1 s) = true := by
  fun_cases bringIn a0 a1 s
  all_goals (intros; (try dsimp only); repeat' first
      | with_reducible assumption | with_reducible refine mem_of_frame (modRoom_only (by simp) _ _ only_refl) ?_ | with_reducible apply mem_ite
      | with_reducible apply runOf_wf | with_reducible apply memPut_wf | with_reducible apply writeWhole_wf | with_reducible apply placeBufs_wf
      | with_reducible apply putModes_wf | with_reducible apply resetBlocks_wf | with_reducible apply argBufs_wf | with_reducible apply clearGranule_wf
      | with_reducible apply landWrite_wf | with_reducible apply storeWord_wf | with_reducible apply serveUnits_wf
      | (simp +zetaDelta only [readLines_mem, readLine_mem, cleanLines_mem, setOwn_mem, setLine_mem, modErr_mem, setRing_mem, logUncorrectable_mem, giveGranules_mem, addUnit_mem, readTraffic_mem, advanceTail_mem, setOwns_mem, setOwnsBy_mem, startClearing_mem, closeOn_mem, closeCtx_mem, copyStores_mem, poisonBank_mem, writeBackLine_mem, setRings_mem, placeRings_mem, deliverUnits_mem, dropAccesses_mem, dropImage_mem, returnTake_mem, advanceHead_mem])
      | with_reducible apply mem_wf | with_reducible apply mem_foldl | intro _ | (split) | with_reducible apply mem_mk | with_reducible apply mem_store)

theorem bringInAll_mem (a0 : Nat) (a1 : List RepairAct) {s : State} (h : memWf s = true) : memWf (bringInAll a0 a1 s) = true := by
  fun_induction bringInAll a0 a1 s
  all_goals intros
  all_goals repeat' first
      | with_reducible assumption | with_reducible apply_assumption | with_reducible apply bringIn_mem | with_reducible apply mem_ite
      | with_reducible apply runOf_wf | with_reducible apply memPut_wf | with_reducible apply writeWhole_wf | with_reducible apply placeBufs_wf
      | with_reducible apply putModes_wf | with_reducible apply resetBlocks_wf | with_reducible apply argBufs_wf | with_reducible apply clearGranule_wf
      | with_reducible apply landWrite_wf | with_reducible apply storeWord_wf | with_reducible apply serveUnits_wf
      | (simp +zetaDelta only [readLines_mem, readLine_mem, cleanLines_mem, setOwn_mem, setLine_mem, modErr_mem, setRing_mem, logUncorrectable_mem, giveGranules_mem, addUnit_mem, readTraffic_mem, advanceTail_mem, setOwns_mem, setOwnsBy_mem, startClearing_mem, closeOn_mem, closeCtx_mem, copyStores_mem, poisonBank_mem, writeBackLine_mem, setRings_mem, placeRings_mem, deliverUnits_mem, dropAccesses_mem, dropImage_mem, returnTake_mem, advanceHead_mem])
      | with_reducible apply mem_wf | with_reducible apply mem_foldl | intro _ | (split)

theorem copySource_mem (a0 : CopyRec) {s : State} (h : memWf s = true) : memWf (copySource a0 s).1 = true := by
  have hp : memWf (putStore (readLines s.store false (linesOf a0.src a0.size)).1 s) = true := putStore_mem (by rw [readLines_mem]; exact h)
  unfold copySource
  extract_lets r
  split
  · exact hp
  · exact mem_of_frame (by apply blameBank_only <;> first | exact only_refl | simp) hp

theorem openCopyWindow_mem (a0 : Nat) (a1 : CopyRec) {s : State} (h : memWf s = true) : memWf (openCopyWindow a0 a1 s).1 = true := by
  fun_cases openCopyWindow a0 a1 s
  all_goals (intros; (try dsimp only); repeat' first
      | with_reducible assumption | (with_reducible refine modStore_mem _ (fun _ _ => ?_) ?_) | with_reducible apply mem_ite | with_reducible apply runOf_wf
      | with_reducible apply memPut_wf | with_reducible apply writeWhole_wf | with_reducible apply placeBufs_wf | with_reducible apply putModes_wf
      | with_reducible apply resetBlocks_wf | with_reducible apply argBufs_wf | with_reducible apply clearGranule_wf | with_reducible apply landWrite_wf
      | with_reducible apply storeWord_wf | with_reducible apply serveUnits_wf
      | (simp +zetaDelta only [readLines_mem, readLine_mem, cleanLines_mem, setOwn_mem, setLine_mem, modErr_mem, setRing_mem, logUncorrectable_mem, giveGranules_mem, addUnit_mem, readTraffic_mem, advanceTail_mem, setOwns_mem, setOwnsBy_mem, startClearing_mem, closeOn_mem, closeCtx_mem, copyStores_mem, poisonBank_mem, writeBackLine_mem, setRings_mem, placeRings_mem, deliverUnits_mem, dropAccesses_mem, dropImage_mem, returnTake_mem, advanceHead_mem])
      | with_reducible apply mem_wf | with_reducible apply mem_foldl | intro _ | (split))

theorem writeCopy_mem (a0 : ListAt × CopyJob) (a1 : CopyRec) (a2 : List Byte) {s : State} (h : memWf s = true) : memWf (writeCopy a0 a1 a2 s) = true := by
  fun_cases writeCopy a0 a1 a2 s
  all_goals (intros; (try dsimp only); repeat' first
      | with_reducible assumption | (with_reducible refine modStore_mem _ (fun _ _ => ?_) ?_) | with_reducible apply mem_ite | with_reducible apply runOf_wf
      | with_reducible apply memPut_wf | with_reducible apply writeWhole_wf | with_reducible apply placeBufs_wf | with_reducible apply putModes_wf
      | with_reducible apply resetBlocks_wf | with_reducible apply argBufs_wf | with_reducible apply clearGranule_wf | with_reducible apply landWrite_wf
      | with_reducible apply storeWord_wf | with_reducible apply serveUnits_wf
      | (simp +zetaDelta only [readLines_mem, readLine_mem, cleanLines_mem, setOwn_mem, setLine_mem, modErr_mem, setRing_mem, logUncorrectable_mem, giveGranules_mem, addUnit_mem, readTraffic_mem, advanceTail_mem, setOwns_mem, setOwnsBy_mem, startClearing_mem, closeOn_mem, closeCtx_mem, copyStores_mem, poisonBank_mem, writeBackLine_mem, setRings_mem, placeRings_mem, deliverUnits_mem, dropAccesses_mem, dropImage_mem, returnTake_mem, advanceHead_mem])
      | with_reducible apply mem_wf | with_reducible apply mem_foldl | intro _ | (split))

theorem buildOne_mem (a0 : Nat) (a1 : ListAt × CopyJob) (a2 : CopyRec) {s : State} (h : memWf s = true) : memWf (buildOne a0 a1 a2 s).1 = true := by
  have hc : memWf (copySource a2 s).1 = true := copySource_mem _ h
  unfold buildOne
  split
  · rename_i e; rw [e] at hc; exact hc
  · rename_i e
    rw [e] at hc
    dsimp only
    exact openCopyWindow_mem _ _ (writeCopy_mem _ _ _ hc)

theorem buildCopies_mem (a0 : Nat) (a1 : List (CopyRec × ListAt × CopyJob)) {s : State} (h : memWf s = true) : memWf (buildCopies a0 a1 s).1 = true := by
  induction a1 generalizing s with
  | nil => exact h
  | cons c cs ih => exact ih (buildOne_mem _ _ _ h)

theorem stepBody_mem (a0 : Nat) (a1 a2 : OpWord) (a3 : Env) (a4 : Room) (a5 : Task) (a6 : Nat) {s : State} (h : memWf s = true) : memWf (stepBody a0 a1 a2 a3 a4
    a5 a6 s) = true := by
  fun_cases stepBody a0 a1 a2 a3 a4 a5 a6 s
  all_goals (intros; (try dsimp only); repeat' first
      | with_reducible assumption | with_reducible refine mem_of_frame (engage_only (by simp) (by simp) _ _ _ _ _ _ only_refl) ?_
      | with_reducible apply stepOnce_mem | with_reducible apply mem_ite | with_reducible apply runOf_wf | with_reducible apply memPut_wf
      | with_reducible apply writeWhole_wf | with_reducible apply placeBufs_wf | with_reducible apply putModes_wf | with_reducible apply resetBlocks_wf
      | with_reducible apply argBufs_wf | with_reducible apply clearGranule_wf | with_reducible apply landWrite_wf | with_reducible apply storeWord_wf
      | with_reducible apply serveUnits_wf
      | (simp +zetaDelta only [readLines_mem, readLine_mem, cleanLines_mem, setOwn_mem, setLine_mem, modErr_mem, setRing_mem, logUncorrectable_mem, giveGranules_mem, addUnit_mem, readTraffic_mem, advanceTail_mem, setOwns_mem, setOwnsBy_mem, startClearing_mem, closeOn_mem, closeCtx_mem, copyStores_mem, poisonBank_mem, writeBackLine_mem, setRings_mem, placeRings_mem, deliverUnits_mem, dropAccesses_mem, dropImage_mem, returnTake_mem, advanceHead_mem])
      | with_reducible apply mem_wf | with_reducible apply mem_foldl | intro _ | (split))

theorem chuteBody_mem (a0 : Nat) (a1 : OpWord) (a2 : Env) (a3 : Room) (a4 : Task) (a5 : Nat) {s : State} (h : memWf s = true) : memWf (chuteBody a0 a1 a2 a3 a4
    a5 s) = true := by
  fun_cases chuteBody a0 a1 a2 a3 a4 a5 s
  all_goals (intros; (try dsimp only); repeat' first
      | with_reducible assumption | with_reducible apply stepBody_mem | with_reducible apply mem_ite | with_reducible apply runOf_wf
      | with_reducible apply memPut_wf | with_reducible apply writeWhole_wf | with_reducible apply placeBufs_wf | with_reducible apply putModes_wf
      | with_reducible apply resetBlocks_wf | with_reducible apply argBufs_wf | with_reducible apply clearGranule_wf | with_reducible apply landWrite_wf
      | with_reducible apply storeWord_wf | with_reducible apply serveUnits_wf
      | (simp +zetaDelta only [readLines_mem, readLine_mem, cleanLines_mem, setOwn_mem, setLine_mem, modErr_mem, setRing_mem, logUncorrectable_mem, giveGranules_mem, addUnit_mem, readTraffic_mem, advanceTail_mem, setOwns_mem, setOwnsBy_mem, startClearing_mem, closeOn_mem, closeCtx_mem, copyStores_mem, poisonBank_mem, writeBackLine_mem, setRings_mem, placeRings_mem, deliverUnits_mem, dropAccesses_mem, dropImage_mem, returnTake_mem, advanceHead_mem])
      | with_reducible apply mem_wf | with_reducible apply mem_foldl | intro _ | (split))

theorem clearStores_mem {s : State} (h : memWf s = true) : memWf (clearStores s) = true := by
  unfold clearStores
  exact modStore_mem _ (fun _ _ => by show Memory.wf storeReset.mem = true; decide) h

theorem collapse_mem (a0 a1 : Nat) {s : State} (h : memWf s = true) : memWf (collapse a0 a1 s) = true := by
  fun_cases collapse a0 a1 s
  all_goals (intros; (try dsimp only); repeat' first
      | with_reducible assumption | with_reducible refine mem_of_frame (failWith_only (by simp) (by simp) (by simp) (by simp) (by simp) _ only_refl) ?_
      | with_reducible refine mem_of_frame (modSeq_only (by simp) _ only_refl) ?_ | with_reducible apply hardReset_mem | with_reducible apply mem_ite
      | with_reducible apply runOf_wf | with_reducible apply memPut_wf | with_reducible apply writeWhole_wf | with_reducible apply placeBufs_wf
      | with_reducible apply putModes_wf | with_reducible apply resetBlocks_wf | with_reducible apply argBufs_wf | with_reducible apply clearGranule_wf
      | with_reducible apply landWrite_wf | with_reducible apply storeWord_wf | with_reducible apply serveUnits_wf
      | (simp +zetaDelta only [readLines_mem, readLine_mem, cleanLines_mem, setOwn_mem, setLine_mem, modErr_mem, setRing_mem, logUncorrectable_mem, giveGranules_mem, addUnit_mem, readTraffic_mem, advanceTail_mem, setOwns_mem, setOwnsBy_mem, startClearing_mem, closeOn_mem, closeCtx_mem, copyStores_mem, poisonBank_mem, writeBackLine_mem, setRings_mem, placeRings_mem, deliverUnits_mem, dropAccesses_mem, dropImage_mem, returnTake_mem, advanceHead_mem])
      | with_reducible apply mem_wf | with_reducible apply mem_foldl | intro _ | (split) | with_reducible apply mem_mk)

theorem copyLine_mem (a0 : Nat) {s : State} (h : memWf s = true) : memWf (copyLine a0 s).1 = true := by
  fun_cases copyLine a0 s
  all_goals (intros; (try dsimp only); repeat' first
      | with_reducible assumption | with_reducible apply putStore_mem | with_reducible apply mem_ite | with_reducible apply runOf_wf
      | with_reducible apply memPut_wf | with_reducible apply writeWhole_wf | with_reducible apply placeBufs_wf | with_reducible apply putModes_wf
      | with_reducible apply resetBlocks_wf | with_reducible apply argBufs_wf | with_reducible apply clearGranule_wf | with_reducible apply landWrite_wf
      | with_reducible apply storeWord_wf | with_reducible apply serveUnits_wf
      | (simp +zetaDelta only [readLines_mem, readLine_mem, cleanLines_mem, setOwn_mem, setLine_mem, modErr_mem, setRing_mem, logUncorrectable_mem, giveGranules_mem, addUnit_mem, readTraffic_mem, advanceTail_mem, setOwns_mem, setOwnsBy_mem, startClearing_mem, closeOn_mem, closeCtx_mem, copyStores_mem, poisonBank_mem, writeBackLine_mem, setRings_mem, placeRings_mem, deliverUnits_mem, dropAccesses_mem, dropImage_mem, returnTake_mem, advanceHead_mem])
      | with_reducible apply mem_wf | with_reducible apply mem_foldl | intro _ | (split) | with_reducible apply mem_mk)

theorem copyLines_mem (a0 : List Nat) {s : State} (h : memWf s = true) : memWf (copyLines a0 s).1 = true := by
  induction a0 generalizing s with
  | nil => exact h
  | cons x xs ih =>
    have hc : memWf (copyLine x s).1 = true := copyLine_mem x h
    rw [copyLines]
    split
    · exact ih hc
    · exact mem_of_frame (by apply blameBank_only <;> first | exact only_refl | simp) hc

theorem copyRebuiltEff_mem (a1 a2 : Nat) {s : State} (h : memWf s = true) : memWf (copyRebuiltEff s a1 a2) = true := by
  fun_cases copyRebuiltEff s a1 a2
  all_goals (intros; (try dsimp only); repeat' first
      | with_reducible assumption | with_reducible apply buildOne_mem | with_reducible apply modSteward_mem | with_reducible apply mem_ite
      | with_reducible apply runOf_wf | with_reducible apply memPut_wf | with_reducible apply writeWhole_wf | with_reducible apply placeBufs_wf
      | with_reducible apply putModes_wf | with_reducible apply resetBlocks_wf | with_reducible apply argBufs_wf | with_reducible apply clearGranule_wf
      | with_reducible apply landWrite_wf | with_reducible apply storeWord_wf | with_reducible apply serveUnits_wf
      | (simp +zetaDelta only [readLines_mem, readLine_mem, cleanLines_mem, setOwn_mem, setLine_mem, modErr_mem, setRing_mem, logUncorrectable_mem, giveGranules_mem, addUnit_mem, readTraffic_mem, advanceTail_mem, setOwns_mem, setOwnsBy_mem, startClearing_mem, closeOn_mem, closeCtx_mem, copyStores_mem, poisonBank_mem, writeBackLine_mem, setRings_mem, placeRings_mem, deliverUnits_mem, dropAccesses_mem, dropImage_mem, returnTake_mem, advanceHead_mem])
      | with_reducible apply mem_wf | with_reducible apply mem_foldl | intro _ | (split))

theorem scramble_mem (a0 : List (Nat × Nat)) {s : State} (h : memWf s = true) : memWf (scramble a0 s) = true := by
  fun_induction scramble a0 s
  all_goals intros
  all_goals repeat' first
      | with_reducible assumption | with_reducible apply_assumption | with_reducible apply mem_ite | with_reducible apply runOf_wf
      | with_reducible apply memPut_wf | with_reducible apply writeWhole_wf | with_reducible apply placeBufs_wf | with_reducible apply putModes_wf
      | with_reducible apply resetBlocks_wf | with_reducible apply argBufs_wf | with_reducible apply clearGranule_wf | with_reducible apply landWrite_wf
      | with_reducible apply storeWord_wf | with_reducible apply serveUnits_wf
      | (simp +zetaDelta only [readLines_mem, readLine_mem, cleanLines_mem, setOwn_mem, setLine_mem, modErr_mem, setRing_mem, logUncorrectable_mem, giveGranules_mem, addUnit_mem, readTraffic_mem, advanceTail_mem, setOwns_mem, setOwnsBy_mem, startClearing_mem, closeOn_mem, closeCtx_mem, copyStores_mem, poisonBank_mem, writeBackLine_mem, setRings_mem, placeRings_mem, deliverUnits_mem, dropAccesses_mem, dropImage_mem, returnTake_mem, advanceHead_mem])
      | with_reducible apply mem_wf | with_reducible apply mem_foldl | intro _ | (split) | with_reducible apply mem_mk | with_reducible apply mem_store

theorem cutCopy_mem (a0 : MsgWord) {s : State} (h : memWf s = true) : memWf (cutCopy a0 s) = true := by
  fun_cases cutCopy a0 s
  all_goals (intros; (try dsimp only); repeat' first
      | with_reducible assumption | with_reducible apply scramble_mem | with_reducible apply mem_ite | with_reducible apply runOf_wf
      | with_reducible apply memPut_wf | with_reducible apply writeWhole_wf | with_reducible apply placeBufs_wf | with_reducible apply putModes_wf
      | with_reducible apply resetBlocks_wf | with_reducible apply argBufs_wf | with_reducible apply clearGranule_wf | with_reducible apply landWrite_wf
      | with_reducible apply storeWord_wf | with_reducible apply serveUnits_wf
      | (simp +zetaDelta only [readLines_mem, readLine_mem, cleanLines_mem, setOwn_mem, setLine_mem, modErr_mem, setRing_mem, logUncorrectable_mem, giveGranules_mem, addUnit_mem, readTraffic_mem, advanceTail_mem, setOwns_mem, setOwnsBy_mem, startClearing_mem, closeOn_mem, closeCtx_mem, copyStores_mem, poisonBank_mem, writeBackLine_mem, setRings_mem, placeRings_mem, deliverUnits_mem, dropAccesses_mem, dropImage_mem, returnTake_mem, advanceHead_mem])
      | with_reducible apply mem_wf | with_reducible apply mem_foldl | intro _ | (split))

theorem undoClose_mem (a0 : Nat) {s : State} (h : memWf s = true) : memWf (undoClose a0 s) = true := by
  fun_cases undoClose a0 s
  all_goals (intros; (try dsimp only); repeat' first
      | with_reducible assumption | (with_reducible refine modStore_mem _ (fun _ _ => ?_) ?_) | with_reducible apply modSteward_mem
      | with_reducible apply mem_ite | with_reducible apply runOf_wf | with_reducible apply memPut_wf | with_reducible apply writeWhole_wf
      | with_reducible apply placeBufs_wf | with_reducible apply putModes_wf | with_reducible apply resetBlocks_wf | with_reducible apply argBufs_wf
      | with_reducible apply clearGranule_wf | with_reducible apply landWrite_wf | with_reducible apply storeWord_wf | with_reducible apply serveUnits_wf
      | (simp +zetaDelta only [readLines_mem, readLine_mem, cleanLines_mem, setOwn_mem, setLine_mem, modErr_mem, setRing_mem, logUncorrectable_mem, giveGranules_mem, addUnit_mem, readTraffic_mem, advanceTail_mem, setOwns_mem, setOwnsBy_mem, startClearing_mem, closeOn_mem, closeCtx_mem, copyStores_mem, poisonBank_mem, writeBackLine_mem, setRings_mem, placeRings_mem, deliverUnits_mem, dropAccesses_mem, dropImage_mem, returnTake_mem, advanceHead_mem])
      | with_reducible apply mem_wf | with_reducible apply mem_foldl | intro _ | (split))

theorem undoLoad_mem (a0 : Nat) {s : State} (h : memWf s = true) : memWf (undoLoad a0 s) = true := by
  fun_cases undoLoad a0 s
  all_goals (intros; (try dsimp only); repeat' first
      | with_reducible assumption | with_reducible refine mem_of_frame (endLoad_only (by simp) _ only_refl) ?_
      | (with_reducible refine modStore_mem _ (fun _ _ => ?_) ?_) | with_reducible apply mem_ite | with_reducible apply runOf_wf
      | with_reducible apply memPut_wf | with_reducible apply writeWhole_wf | with_reducible apply placeBufs_wf | with_reducible apply putModes_wf
      | with_reducible apply resetBlocks_wf | with_reducible apply argBufs_wf | with_reducible apply clearGranule_wf | with_reducible apply landWrite_wf
      | with_reducible apply storeWord_wf | with_reducible apply serveUnits_wf
      | (simp +zetaDelta only [readLines_mem, readLine_mem, cleanLines_mem, setOwn_mem, setLine_mem, modErr_mem, setRing_mem, logUncorrectable_mem, giveGranules_mem, addUnit_mem, readTraffic_mem, advanceTail_mem, setOwns_mem, setOwnsBy_mem, startClearing_mem, closeOn_mem, closeCtx_mem, copyStores_mem, poisonBank_mem, writeBackLine_mem, setRings_mem, placeRings_mem, deliverUnits_mem, dropAccesses_mem, dropImage_mem, returnTake_mem, advanceHead_mem])
      | with_reducible apply mem_wf | with_reducible apply mem_foldl | intro _ | (split))

theorem cutWork_mem (a0 : Nat) (a1 : MsgWord) {s : State} (h : memWf s = true) : memWf (cutWork a0 a1 s) = true := by
  fun_cases cutWork a0 a1 s
  all_goals (intros; (try dsimp only); repeat' first
      | with_reducible assumption | with_reducible apply undoLoad_mem | with_reducible apply undoClose_mem
      | with_reducible refine mem_of_frame (dropCopy_only (by simp) (by simp) _ only_refl) ?_ | with_reducible apply cutCopy_mem
      | with_reducible refine mem_of_frame (modQueue_only (by simp) _ _ only_refl) ?_ | with_reducible apply mem_ite | with_reducible apply runOf_wf
      | with_reducible apply memPut_wf | with_reducible apply writeWhole_wf | with_reducible apply placeBufs_wf | with_reducible apply putModes_wf
      | with_reducible apply resetBlocks_wf | with_reducible apply argBufs_wf | with_reducible apply clearGranule_wf | with_reducible apply landWrite_wf
      | with_reducible apply storeWord_wf | with_reducible apply serveUnits_wf
      | (simp +zetaDelta only [readLines_mem, readLine_mem, cleanLines_mem, setOwn_mem, setLine_mem, modErr_mem, setRing_mem, logUncorrectable_mem, giveGranules_mem, addUnit_mem, readTraffic_mem, advanceTail_mem, setOwns_mem, setOwnsBy_mem, startClearing_mem, closeOn_mem, closeCtx_mem, copyStores_mem, poisonBank_mem, writeBackLine_mem, setRings_mem, placeRings_mem, deliverUnits_mem, dropAccesses_mem, dropImage_mem, returnTake_mem, advanceHead_mem])
      | with_reducible apply mem_wf | with_reducible apply mem_foldl | intro _ | (split))

theorem cutCommands_mem (a0 : Nat) (a1 : List (Nat × Mailbox)) {s : State} (h : memWf s = true) : memWf (cutCommands a0 a1 s) = true := by
  fun_induction cutCommands a0 a1 s
  all_goals intros
  all_goals repeat' first
      | with_reducible assumption | with_reducible apply_assumption | with_reducible apply cutWork_mem
      | with_reducible refine mem_of_frame (respond_only (by simp) (by simp) (by simp) _ _ _ only_refl) ?_ | with_reducible apply mem_ite
      | with_reducible apply runOf_wf | with_reducible apply memPut_wf | with_reducible apply writeWhole_wf | with_reducible apply placeBufs_wf
      | with_reducible apply putModes_wf | with_reducible apply resetBlocks_wf | with_reducible apply argBufs_wf | with_reducible apply clearGranule_wf
      | with_reducible apply landWrite_wf | with_reducible apply storeWord_wf | with_reducible apply serveUnits_wf
      | (simp +zetaDelta only [readLines_mem, readLine_mem, cleanLines_mem, setOwn_mem, setLine_mem, modErr_mem, setRing_mem, logUncorrectable_mem, giveGranules_mem, addUnit_mem, readTraffic_mem, advanceTail_mem, setOwns_mem, setOwnsBy_mem, startClearing_mem, closeOn_mem, closeCtx_mem, copyStores_mem, poisonBank_mem, writeBackLine_mem, setRings_mem, placeRings_mem, deliverUnits_mem, dropAccesses_mem, dropImage_mem, returnTake_mem, advanceHead_mem])
      | with_reducible apply mem_wf | with_reducible apply mem_foldl | intro _ | (split)

theorem ctxDestroyEff_mem (a1 : Nat) (a2 : MsgWord) {s : State} (h : memWf s = true) : memWf (ctxDestroyEff s a1 a2) = true := by
  unfold ctxDestroyEff
  extract_lets c a b d
  have ha : memWf a = true := by
    refine mem_of_frame (by apply await_only <;> first | exact only_refl | simp) ?_
    refine mem_of_frame (by apply muteCtx_only <;> first | exact only_refl | simp) ?_
    refine mem_of_frame (by apply modCtx_only <;> first | exact only_refl | simp) ?_
    exact mem_of_frame (by apply endFreeze_only <;> first | exact only_refl | simp) h
  have hb : memWf b = true := mem_of_frame (by apply discardTasks_only <;> first | exact only_refl | simp) ha
  have hd : memWf d = true := mem_of_frame (by apply haltCtx_only <;> first | exact only_refl | simp) hb
  have hr : ∀ code, memWf (respond a1 code [] s) = true := fun code => mem_of_frame (by apply respond_only <;> first | exact only_refl | simp) h
  clear_value d
  refine mem_ite (hr _) (mem_ite (hr _) ?_)
  refine mem_of_frame (by apply promote_only <;> first | exact only_refl | simp) ?_
  refine cutCommands_mem _ _ ?_
  exact mem_of_frame (by apply stopContext_only <;> first | exact only_refl | simp) hd

theorem unloadImage_mem (a0 : Image) {s : State} (h : memWf s = true) : memWf (unloadImage a0 s) = true := by
  fun_cases unloadImage a0 s
  all_goals (intros; (try dsimp only); repeat' first
      | with_reducible assumption | with_reducible refine mem_of_frame (forgetRounds_only (by simp) _ only_refl) ?_ | with_reducible apply modSteward_mem
      | with_reducible apply mem_ite | with_reducible apply runOf_wf | with_reducible apply memPut_wf | with_reducible apply writeWhole_wf
      | with_reducible apply placeBufs_wf | with_reducible apply putModes_wf | with_reducible apply resetBlocks_wf | with_reducible apply argBufs_wf
      | with_reducible apply clearGranule_wf | with_reducible apply landWrite_wf | with_reducible apply storeWord_wf | with_reducible apply serveUnits_wf
      | (simp +zetaDelta only [readLines_mem, readLine_mem, cleanLines_mem, setOwn_mem, setLine_mem, modErr_mem, setRing_mem, logUncorrectable_mem, giveGranules_mem, addUnit_mem, readTraffic_mem, advanceTail_mem, setOwns_mem, setOwnsBy_mem, startClearing_mem, closeOn_mem, closeCtx_mem, copyStores_mem, poisonBank_mem, writeBackLine_mem, setRings_mem, placeRings_mem, deliverUnits_mem, dropAccesses_mem, dropImage_mem, returnTake_mem, advanceHead_mem])
      | with_reducible apply mem_wf | with_reducible apply mem_foldl | intro _ | (split) | with_reducible apply mem_mk | with_reducible apply mem_store)

theorem unloadAll_mem (a0 : List Image) {s : State} (h : memWf s = true) : memWf (unloadAll a0 s) = true := by
  fun_induction unloadAll a0 s
  all_goals intros
  all_goals repeat' first
      | with_reducible assumption | with_reducible apply_assumption | with_reducible apply unloadImage_mem | with_reducible apply mem_ite
      | with_reducible apply runOf_wf | with_reducible apply memPut_wf | with_reducible apply writeWhole_wf | with_reducible apply placeBufs_wf
      | with_reducible apply putModes_wf | with_reducible apply resetBlocks_wf | with_reducible apply argBufs_wf | with_reducible apply clearGranule_wf
      | with_reducible apply landWrite_wf | with_reducible apply storeWord_wf | with_reducible apply serveUnits_wf
      | (simp +zetaDelta only [readLines_mem, readLine_mem, cleanLines_mem, setOwn_mem, setLine_mem, modErr_mem, setRing_mem, logUncorrectable_mem, giveGranules_mem, addUnit_mem, readTraffic_mem, advanceTail_mem, setOwns_mem, setOwnsBy_mem, startClearing_mem, closeOn_mem, closeCtx_mem, copyStores_mem, poisonBank_mem, writeBackLine_mem, setRings_mem, placeRings_mem, deliverUnits_mem, dropAccesses_mem, dropImage_mem, returnTake_mem, advanceHead_mem])
      | with_reducible apply mem_wf | with_reducible apply mem_foldl | intro _ | (split)

theorem freeCtx_mem (a0 : Nat) {s : State} (h : memWf s = true) : memWf (freeCtx a0 s) = true := by
  fun_cases freeCtx a0 s
  all_goals (intros; (try dsimp only); repeat' first
      | with_reducible assumption | with_reducible apply unloadAll_mem | with_reducible refine mem_of_frame (modCtx_only (by simp) _ _ only_refl) ?_
      | (with_reducible refine modStore_mem _ (fun _ _ => ?_) ?_) | with_reducible apply modSteward_mem | with_reducible apply mem_ite
      | with_reducible apply runOf_wf | with_reducible apply memPut_wf | with_reducible apply writeWhole_wf | with_reducible apply placeBufs_wf
      | with_reducible apply putModes_wf | with_reducible apply resetBlocks_wf | with_reducible apply argBufs_wf | with_reducible apply clearGranule_wf
      | with_reducible apply landWrite_wf | with_reducible apply storeWord_wf | with_reducible apply serveUnits_wf
      | (simp +zetaDelta only [readLines_mem, readLine_mem, cleanLines_mem, setOwn_mem, setLine_mem, modErr_mem, setRing_mem, logUncorrectable_mem, giveGranules_mem, addUnit_mem, readTraffic_mem, advanceTail_mem, setOwns_mem, setOwnsBy_mem, startClearing_mem, closeOn_mem, closeCtx_mem, copyStores_mem, poisonBank_mem, writeBackLine_mem, setRings_mem, placeRings_mem, deliverUnits_mem, dropAccesses_mem, dropImage_mem, returnTake_mem, advanceHead_mem])
      | with_reducible apply mem_wf | with_reducible apply mem_foldl | intro _ | (split))

theorem destroyDoneEff_mem (a1 : Nat) {s : State} (h : memWf s = true) : memWf (destroyDoneEff s a1) = true := by
  fun_cases destroyDoneEff s a1
  all_goals (intros; (try dsimp only); repeat' first
      | with_reducible assumption | with_reducible apply freeCtx_mem
      | with_reducible refine mem_of_frame (endCtx_only (by simp) (by simp) (by simp) (by simp) (by simp) _ only_refl) ?_ | with_reducible apply mem_ite
      | with_reducible apply runOf_wf | with_reducible apply memPut_wf | with_reducible apply writeWhole_wf | with_reducible apply placeBufs_wf
      | with_reducible apply putModes_wf | with_reducible apply resetBlocks_wf | with_reducible apply argBufs_wf | with_reducible apply clearGranule_wf
      | with_reducible apply landWrite_wf | with_reducible apply storeWord_wf | with_reducible apply serveUnits_wf
      | (simp +zetaDelta only [readLines_mem, readLine_mem, cleanLines_mem, setOwn_mem, setLine_mem, modErr_mem, setRing_mem, logUncorrectable_mem, giveGranules_mem, addUnit_mem, readTraffic_mem, advanceTail_mem, setOwns_mem, setOwnsBy_mem, startClearing_mem, closeOn_mem, closeCtx_mem, copyStores_mem, poisonBank_mem, writeBackLine_mem, setRings_mem, placeRings_mem, deliverUnits_mem, dropAccesses_mem, dropImage_mem, returnTake_mem, advanceHead_mem])
      | with_reducible apply mem_wf | with_reducible apply mem_foldl | intro _ | (split))

theorem diagnosisEff_mem (a1 a2 : Nat) (a3 : List Finding) {s : State} (h : memWf s = true) : memWf (diagnosisEff s a1 a2 a3) = true := by
  fun_cases diagnosisEff s a1 a2 a3
  all_goals (intros; (try dsimp only); repeat' first
      | with_reducible assumption | with_reducible refine mem_of_frame (setRepair_only (by simp) _ _ _ only_refl) ?_
      | with_reducible refine mem_of_frame (relocateFailed_only (by simp) _ _ only_refl) ?_
      | with_reducible refine mem_of_frame (noteTransient_only (by simp) (by simp) (by simp) _ _ only_refl) ?_
      | with_reducible refine mem_of_frame (trace_only (by simp) _ _ only_refl) ?_ | with_reducible apply bringInAll_mem | with_reducible apply mem_ite
      | with_reducible apply runOf_wf | with_reducible apply memPut_wf | with_reducible apply writeWhole_wf | with_reducible apply placeBufs_wf
      | with_reducible apply putModes_wf | with_reducible apply resetBlocks_wf | with_reducible apply argBufs_wf | with_reducible apply clearGranule_wf
      | with_reducible apply landWrite_wf | with_reducible apply storeWord_wf | with_reducible apply serveUnits_wf
      | (simp +zetaDelta only [readLines_mem, readLine_mem, cleanLines_mem, setOwn_mem, setLine_mem, modErr_mem, setRing_mem, logUncorrectable_mem, giveGranules_mem, addUnit_mem, readTraffic_mem, advanceTail_mem, setOwns_mem, setOwnsBy_mem, startClearing_mem, closeOn_mem, closeCtx_mem, copyStores_mem, poisonBank_mem, writeBackLine_mem, setRings_mem, placeRings_mem, deliverUnits_mem, dropAccesses_mem, dropImage_mem, returnTake_mem, advanceHead_mem])
      | with_reducible apply mem_wf | with_reducible apply mem_foldl | intro _ | (split))

theorem landSome_mem (a0 : List Nat) {s : State} (h : memWf s = true) : memWf (landSome a0 s) = true := by
  fun_induction landSome a0 s
  all_goals intros
  all_goals repeat' first
      | with_reducible assumption | with_reducible apply_assumption | (with_reducible refine modStore_mem _ (fun _ _ => ?_) ?_) | with_reducible apply mem_ite
      | with_reducible apply runOf_wf | with_reducible apply memPut_wf | with_reducible apply writeWhole_wf | with_reducible apply placeBufs_wf
      | with_reducible apply putModes_wf | with_reducible apply resetBlocks_wf | with_reducible apply argBufs_wf | with_reducible apply clearGranule_wf
      | with_reducible apply landWrite_wf | with_reducible apply storeWord_wf | with_reducible apply serveUnits_wf
      | (simp +zetaDelta only [readLines_mem, readLine_mem, cleanLines_mem, setOwn_mem, setLine_mem, modErr_mem, setRing_mem, logUncorrectable_mem, giveGranules_mem, addUnit_mem, readTraffic_mem, advanceTail_mem, setOwns_mem, setOwnsBy_mem, startClearing_mem, closeOn_mem, closeCtx_mem, copyStores_mem, poisonBank_mem, writeBackLine_mem, setRings_mem, placeRings_mem, deliverUnits_mem, dropAccesses_mem, dropImage_mem, returnTake_mem, advanceHead_mem])
      | with_reducible apply mem_wf | with_reducible apply mem_foldl | intro _ | (split) | with_reducible apply mem_mk

theorem disableChannel_mem (a0 : Nat) {s : State} (h : memWf s = true) : memWf (disableChannel a0 s) = true := by
  fun_cases disableChannel a0 s
  all_goals (intros; (try dsimp only); repeat' first
      | with_reducible assumption | with_reducible apply landSome_mem | with_reducible refine mem_of_frame (modHatch_only (by simp) _ _ only_refl) ?_
      | with_reducible apply landCloses_mem | with_reducible apply mem_ite | with_reducible apply runOf_wf | with_reducible apply memPut_wf
      | with_reducible apply writeWhole_wf | with_reducible apply placeBufs_wf | with_reducible apply putModes_wf | with_reducible apply resetBlocks_wf
      | with_reducible apply argBufs_wf | with_reducible apply clearGranule_wf | with_reducible apply landWrite_wf | with_reducible apply storeWord_wf
      | with_reducible apply serveUnits_wf
      | (simp +zetaDelta only [readLines_mem, readLine_mem, cleanLines_mem, setOwn_mem, setLine_mem, modErr_mem, setRing_mem, logUncorrectable_mem, giveGranules_mem, addUnit_mem, readTraffic_mem, advanceTail_mem, setOwns_mem, setOwnsBy_mem, startClearing_mem, closeOn_mem, closeCtx_mem, copyStores_mem, poisonBank_mem, writeBackLine_mem, setRings_mem, placeRings_mem, deliverUnits_mem, dropAccesses_mem, dropImage_mem, returnTake_mem, advanceHead_mem])
      | with_reducible apply mem_wf | with_reducible apply mem_foldl | intro _ | (split) | with_reducible apply mem_mk)

theorem disableAll_mem (a0 : List Nat) {s : State} (h : memWf s = true) : memWf (disableAll a0 s) = true := by
  fun_induction disableAll a0 s
  all_goals intros
  all_goals repeat' first
      | with_reducible assumption | with_reducible apply_assumption | with_reducible apply disableChannel_mem | with_reducible apply mem_ite
      | with_reducible apply runOf_wf | with_reducible apply memPut_wf | with_reducible apply writeWhole_wf | with_reducible apply placeBufs_wf
      | with_reducible apply putModes_wf | with_reducible apply resetBlocks_wf | with_reducible apply argBufs_wf | with_reducible apply clearGranule_wf
      | with_reducible apply landWrite_wf | with_reducible apply storeWord_wf | with_reducible apply serveUnits_wf
      | (simp +zetaDelta only [readLines_mem, readLine_mem, cleanLines_mem, setOwn_mem, setLine_mem, modErr_mem, setRing_mem, logUncorrectable_mem, giveGranules_mem, addUnit_mem, readTraffic_mem, advanceTail_mem, setOwns_mem, setOwnsBy_mem, startClearing_mem, closeOn_mem, closeCtx_mem, copyStores_mem, poisonBank_mem, writeBackLine_mem, setRings_mem, placeRings_mem, deliverUnits_mem, dropAccesses_mem, dropImage_mem, returnTake_mem, advanceHead_mem])
      | with_reducible apply mem_wf | with_reducible apply mem_foldl | intro _ | (split)

theorem doneEff_mem (a0 : Frame) {s : State} (h : memWf s = true) : memWf (doneEff a0 s) = true := by
  fun_cases doneEff a0 s
  all_goals (intros; (try dsimp only); repeat' first
      | with_reducible assumption | with_reducible apply completePoint_mem | with_reducible apply mem_ite | with_reducible apply runOf_wf
      | with_reducible apply memPut_wf | with_reducible apply writeWhole_wf | with_reducible apply placeBufs_wf | with_reducible apply putModes_wf
      | with_reducible apply resetBlocks_wf | with_reducible apply argBufs_wf | with_reducible apply clearGranule_wf | with_reducible apply landWrite_wf
      | with_reducible apply storeWord_wf | with_reducible apply serveUnits_wf
      | (simp +zetaDelta only [readLines_mem, readLine_mem, cleanLines_mem, setOwn_mem, setLine_mem, modErr_mem, setRing_mem, logUncorrectable_mem, giveGranules_mem, addUnit_mem, readTraffic_mem, advanceTail_mem, setOwns_mem, setOwnsBy_mem, startClearing_mem, closeOn_mem, closeCtx_mem, copyStores_mem, poisonBank_mem, writeBackLine_mem, setRings_mem, placeRings_mem, deliverUnits_mem, dropAccesses_mem, dropImage_mem, returnTake_mem, advanceHead_mem])
      | with_reducible apply mem_wf | with_reducible apply mem_foldl | intro _ | (split))

theorem dropCopies_mem (a0 a1 : Nat) {s : State} (h : memWf s = true) : memWf (dropCopies a0 a1 s) = true := by
  fun_cases dropCopies a0 a1 s
  all_goals (intros; (try dsimp only); repeat' first
      | with_reducible assumption | (with_reducible refine modStore_mem _ (fun _ _ => ?_) ?_) | with_reducible apply modSteward_mem
      | with_reducible apply mem_ite | with_reducible apply runOf_wf | with_reducible apply memPut_wf | with_reducible apply writeWhole_wf
      | with_reducible apply placeBufs_wf | with_reducible apply putModes_wf | with_reducible apply resetBlocks_wf | with_reducible apply argBufs_wf
      | with_reducible apply clearGranule_wf | with_reducible apply landWrite_wf | with_reducible apply storeWord_wf | with_reducible apply serveUnits_wf
      | (simp +zetaDelta only [readLines_mem, readLine_mem, cleanLines_mem, setOwn_mem, setLine_mem, modErr_mem, setRing_mem, logUncorrectable_mem, giveGranules_mem, addUnit_mem, readTraffic_mem, advanceTail_mem, setOwns_mem, setOwnsBy_mem, startClearing_mem, closeOn_mem, closeCtx_mem, copyStores_mem, poisonBank_mem, writeBackLine_mem, setRings_mem, placeRings_mem, deliverUnits_mem, dropAccesses_mem, dropImage_mem, returnTake_mem, advanceHead_mem])
      | with_reducible apply mem_wf | with_reducible apply mem_foldl | intro _ | (split))

theorem endBare_mem (a0 : Nat) {s : State} (h : memWf s = true) : memWf (endBare a0 s) = true := by
  fun_cases endBare a0 s
  all_goals (intros; (try dsimp only); repeat' first
      | with_reducible assumption | with_reducible apply allEnded_mem | with_reducible apply mem_ite | with_reducible apply runOf_wf
      | with_reducible apply memPut_wf | with_reducible apply writeWhole_wf | with_reducible apply placeBufs_wf | with_reducible apply putModes_wf
      | with_reducible apply resetBlocks_wf | with_reducible apply argBufs_wf | with_reducible apply clearGranule_wf | with_reducible apply landWrite_wf
      | with_reducible apply storeWord_wf | with_reducible apply serveUnits_wf
      | (simp +zetaDelta only [readLines_mem, readLine_mem, cleanLines_mem, setOwn_mem, setLine_mem, modErr_mem, setRing_mem, logUncorrectable_mem, giveGranules_mem, addUnit_mem, readTraffic_mem, advanceTail_mem, setOwns_mem, setOwnsBy_mem, startClearing_mem, closeOn_mem, closeCtx_mem, copyStores_mem, poisonBank_mem, writeBackLine_mem, setRings_mem, placeRings_mem, deliverUnits_mem, dropAccesses_mem, dropImage_mem, returnTake_mem, advanceHead_mem])
      | with_reducible apply mem_wf | with_reducible apply mem_foldl | intro _ | (split))

theorem endFrameEff_mem (a0 : Frame) {s : State} (h : memWf s = true) : memWf (endFrameEff a0 s) = true := by
  fun_cases endFrameEff a0 s
  all_goals (intros; (try dsimp only); repeat' first
      | with_reducible assumption | with_reducible refine mem_of_frame (markEnded_only (by simp) _ _ only_refl) ?_ | with_reducible apply leaderEnd_mem
      | with_reducible apply mem_ite | with_reducible apply runOf_wf | with_reducible apply memPut_wf | with_reducible apply writeWhole_wf
      | with_reducible apply placeBufs_wf | with_reducible apply putModes_wf | with_reducible apply resetBlocks_wf | with_reducible apply argBufs_wf
      | with_reducible apply clearGranule_wf | with_reducible apply landWrite_wf | with_reducible apply storeWord_wf | with_reducible apply serveUnits_wf
      | (simp +zetaDelta only [readLines_mem, readLine_mem, cleanLines_mem, setOwn_mem, setLine_mem, modErr_mem, setRing_mem, logUncorrectable_mem, giveGranules_mem, addUnit_mem, readTraffic_mem, advanceTail_mem, setOwns_mem, setOwnsBy_mem, startClearing_mem, closeOn_mem, closeCtx_mem, copyStores_mem, poisonBank_mem, writeBackLine_mem, setRings_mem, placeRings_mem, deliverUnits_mem, dropAccesses_mem, dropImage_mem, returnTake_mem, advanceHead_mem])
      | with_reducible apply mem_wf | with_reducible apply mem_foldl | intro _ | (split))

theorem endReportEff_mem (a1 a2 : Nat) {s : State} (h : memWf s = true) : memWf (endReportEff s a1 a2) = true := by
  fun_cases endReportEff s a1 a2
  all_goals (intros; (try dsimp only); repeat' first
      | with_reducible assumption | with_reducible apply allEnded_mem | with_reducible refine mem_of_frame (modTask_only (by simp) _ _ only_refl) ?_
      | with_reducible apply mem_ite | with_reducible apply runOf_wf | with_reducible apply memPut_wf | with_reducible apply writeWhole_wf
      | with_reducible apply placeBufs_wf | with_reducible apply putModes_wf | with_reducible apply resetBlocks_wf | with_reducible apply argBufs_wf
      | with_reducible apply clearGranule_wf | with_reducible apply landWrite_wf | with_reducible apply storeWord_wf | with_reducible apply serveUnits_wf
      | (simp +zetaDelta only [readLines_mem, readLine_mem, cleanLines_mem, setOwn_mem, setLine_mem, modErr_mem, setRing_mem, logUncorrectable_mem, giveGranules_mem, addUnit_mem, readTraffic_mem, advanceTail_mem, setOwns_mem, setOwnsBy_mem, startClearing_mem, closeOn_mem, closeCtx_mem, copyStores_mem, poisonBank_mem, writeBackLine_mem, setRings_mem, placeRings_mem, deliverUnits_mem, dropAccesses_mem, dropImage_mem, returnTake_mem, advanceHead_mem])
      | with_reducible apply mem_wf | with_reducible apply mem_foldl | intro _ | (split))

theorem engineReadyEff_mem {s : State} (h : memWf s = true) : memWf (engineReadyEff s) = true := by
  fun_cases engineReadyEff s
  all_goals (intros; (try dsimp only); repeat' first
      | with_reducible assumption | with_reducible refine mem_of_frame (setPhase_only (by simp) (by simp) (by simp) (by simp) _ only_refl) ?_
      | with_reducible apply clearStores_mem | with_reducible refine mem_of_frame (modSeq_only (by simp) _ only_refl) ?_ | with_reducible apply mem_ite
      | with_reducible apply runOf_wf | with_reducible apply memPut_wf | with_reducible apply writeWhole_wf | with_reducible apply placeBufs_wf
      | with_reducible apply putModes_wf | with_reducible apply resetBlocks_wf | with_reducible apply argBufs_wf | with_reducible apply clearGranule_wf
      | with_reducible apply landWrite_wf | with_reducible apply storeWord_wf | with_reducible apply serveUnits_wf
      | (simp +zetaDelta only [readLines_mem, readLine_mem, cleanLines_mem, setOwn_mem, setLine_mem, modErr_mem, setRing_mem, logUncorrectable_mem, giveGranules_mem, addUnit_mem, readTraffic_mem, advanceTail_mem, setOwns_mem, setOwnsBy_mem, startClearing_mem, closeOn_mem, closeCtx_mem, copyStores_mem, poisonBank_mem, writeBackLine_mem, setRings_mem, placeRings_mem, deliverUnits_mem, dropAccesses_mem, dropImage_mem, returnTake_mem, advanceHead_mem])
      | with_reducible apply mem_wf | with_reducible apply mem_foldl | intro _ | (split))

theorem undoCommand_mem (a0 : Nat) (a1 : MsgWord) {s : State} (h : memWf s = true) : memWf (undoCommand a0 a1 s) = true := by
  unfold undoCommand
  split
  · exact mem_ite (mem_of_frame (by apply unDestroy_only <;> first | exact only_refl | simp) h) h
  · refine mem_ite ?_ h
    exact mem_foldl _ (fun u q hu => mem_of_frame (by apply dropQueue_only <;> first | exact only_refl | simp) hu) _ h
  · refine mem_of_frame (by apply unAborts_only <;> first | exact only_refl | simp) ?_
    exact mem_of_frame (by apply modSteward_only <;> first | exact only_refl | simp) h
  · exact mem_of_frame (by apply unFreeze_only <;> first | exact only_refl | simp) h
  · exact mem_of_frame (by apply endTests_only <;> first | exact only_refl | simp) h
  · exact mem_of_frame (by apply unReset_only <;> first | exact only_refl | simp) h
  · exact cutWork_mem _ _ h

theorem failOver_mem (a0 : List Nat) {s : State} (h : memWf s = true) : memWf (failOver a0 s) = true := by
  fun_induction failOver a0 s
  all_goals intros
  all_goals repeat' first
      | with_reducible assumption | with_reducible apply_assumption | with_reducible apply undoCommand_mem
      | with_reducible refine mem_of_frame (respond_only (by simp) (by simp) (by simp) _ _ _ only_refl) ?_ | with_reducible apply mem_ite
      | with_reducible apply runOf_wf | with_reducible apply memPut_wf | with_reducible apply writeWhole_wf | with_reducible apply placeBufs_wf
      | with_reducible apply putModes_wf | with_reducible apply resetBlocks_wf | with_reducible apply argBufs_wf | with_reducible apply clearGranule_wf
      | with_reducible apply landWrite_wf | with_reducible apply storeWord_wf | with_reducible apply serveUnits_wf
      | (simp +zetaDelta only [readLines_mem, readLine_mem, cleanLines_mem, setOwn_mem, setLine_mem, modErr_mem, setRing_mem, logUncorrectable_mem, giveGranules_mem, addUnit_mem, readTraffic_mem, advanceTail_mem, setOwns_mem, setOwnsBy_mem, startClearing_mem, closeOn_mem, closeCtx_mem, copyStores_mem, poisonBank_mem, writeBackLine_mem, setRings_mem, placeRings_mem, deliverUnits_mem, dropAccesses_mem, dropImage_mem, returnTake_mem, advanceHead_mem])
      | with_reducible apply mem_wf | with_reducible apply mem_foldl | intro _ | (split)

theorem stepMany_mem (a0 a1 a2 : Nat) {s : State} (h : memWf s = true) : memWf (stepMany a0 a1 a2 s) = true := by
  fun_induction stepMany a0 a1 a2 s
  all_goals intros
  all_goals repeat' first
      | with_reducible assumption | with_reducible apply_assumption | with_reducible apply pacedStep_mem | with_reducible apply mem_ite
      | with_reducible apply runOf_wf | with_reducible apply memPut_wf | with_reducible apply writeWhole_wf | with_reducible apply placeBufs_wf
      | with_reducible apply putModes_wf | with_reducible apply resetBlocks_wf | with_reducible apply argBufs_wf | with_reducible apply clearGranule_wf
      | with_reducible apply landWrite_wf | with_reducible apply storeWord_wf | with_reducible apply serveUnits_wf
      | (simp +zetaDelta only [readLines_mem, readLine_mem, cleanLines_mem, setOwn_mem, setLine_mem, modErr_mem, setRing_mem, logUncorrectable_mem, giveGranules_mem, addUnit_mem, readTraffic_mem, advanceTail_mem, setOwns_mem, setOwnsBy_mem, startClearing_mem, closeOn_mem, closeCtx_mem, copyStores_mem, poisonBank_mem, writeBackLine_mem, setRings_mem, placeRings_mem, deliverUnits_mem, dropAccesses_mem, dropImage_mem, returnTake_mem, advanceHead_mem])
      | with_reducible apply mem_wf | with_reducible apply mem_foldl | intro _ | (split)

theorem finishOp_mem (a0 : Nat) (a1 : InFlight) {s : State} (h : memWf s = true) : memWf (finishOp a0 a1 s) = true := by
  fun_cases finishOp a0 a1 s
  all_goals (intros; (try dsimp only); repeat' first
      | with_reducible assumption | with_reducible apply stepMany_mem | with_reducible refine mem_of_frame (takeAll_only (by simp) _ only_refl) ?_
      | with_reducible apply stuffWork_mem | with_reducible apply mem_ite | with_reducible apply runOf_wf | with_reducible apply memPut_wf
      | with_reducible apply writeWhole_wf | with_reducible apply placeBufs_wf | with_reducible apply putModes_wf | with_reducible apply resetBlocks_wf
      | with_reducible apply argBufs_wf | with_reducible apply clearGranule_wf | with_reducible apply landWrite_wf | with_reducible apply storeWord_wf
      | with_reducible apply serveUnits_wf
      | (simp +zetaDelta only [readLines_mem, readLine_mem, cleanLines_mem, setOwn_mem, setLine_mem, modErr_mem, setRing_mem, logUncorrectable_mem, giveGranules_mem, addUnit_mem, readTraffic_mem, advanceTail_mem, setOwns_mem, setOwnsBy_mem, startClearing_mem, closeOn_mem, closeCtx_mem, copyStores_mem, poisonBank_mem, writeBackLine_mem, setRings_mem, placeRings_mem, deliverUnits_mem, dropAccesses_mem, dropImage_mem, returnTake_mem, advanceHead_mem])
      | with_reducible apply mem_wf | with_reducible apply mem_foldl | intro _ | (split))

theorem gateRun_mem (a0 : Nat) (a1 : Run) {s : State} (hr : Memory.wf a1.st.mem = true) : memWf (gateRun a0 a1 s) = true := by
  unfold gateRun
  extract_lets a
  have ha : memWf a = true := mem_of_frame (by apply modTask_only <;> first | exact only_refl | simp) (putStore_mem (settleGate_wf s.store hr))
  clear_value a
  split
  · refine mem_of_frame (by apply blameBank_only <;> first | exact only_refl | simp) ?_
    exact mem_of_frame (by apply haltTask_only <;> first | exact only_refl | simp) ha
  · exact ha

theorem landFlow_mem (a0 : Task) (a1 : Image) (a2 : FlowRec) (a3 : Frame) {s : State} (h : memWf s = true) : memWf (landFlow a0 a1 a2 a3 s) = true := by
  fun_cases landFlow a0 a1 a2 a3 s
  all_goals (intros; (try dsimp only); repeat' first
      | with_reducible assumption | with_reducible refine mem_of_frame (putFlow_only (by simp) _ only_refl) ?_ | with_reducible apply gateRun_mem
      | (with_reducible refine modStore_mem _ (fun _ _ => ?_) ?_)
      | with_reducible refine mem_of_frame (haltTask_only (by simp) (by simp) _ _ _ _ only_refl) ?_
      | with_reducible refine mem_of_frame (modTask_only (by simp) _ _ only_refl) ?_
      | with_reducible refine runWf (moveAppend_grows _ _ _ _ (grows_refl _)) ?_ | with_reducible apply mem_ite | with_reducible apply runOf_wf
      | with_reducible apply memPut_wf | with_reducible apply writeWhole_wf | with_reducible apply placeBufs_wf | with_reducible apply putModes_wf
      | with_reducible apply resetBlocks_wf | with_reducible apply argBufs_wf | with_reducible apply clearGranule_wf | with_reducible apply landWrite_wf
      | with_reducible apply storeWord_wf | with_reducible apply serveUnits_wf
      | (simp +zetaDelta only [readLines_mem, readLine_mem, cleanLines_mem, setOwn_mem, setLine_mem, modErr_mem, setRing_mem, logUncorrectable_mem, giveGranules_mem, addUnit_mem, readTraffic_mem, advanceTail_mem, setOwns_mem, setOwnsBy_mem, startClearing_mem, closeOn_mem, closeCtx_mem, copyStores_mem, poisonBank_mem, writeBackLine_mem, setRings_mem, placeRings_mem, deliverUnits_mem, dropAccesses_mem, dropImage_mem, returnTake_mem, advanceHead_mem])
      | with_reducible apply mem_wf | with_reducible apply mem_foldl | intro _ | (split))

theorem flowEff_mem (a1 : Nat) (a2 : Frame) {s : State} (h : memWf s = true) : memWf (flowEff s a1 a2) = true := by
  fun_cases flowEff s a1 a2
  all_goals (intros; (try dsimp only); repeat' first
      | with_reducible assumption | with_reducible refine mem_of_frame (transitTake_only (by simp) (by simp) _ _ _ _ only_refl) ?_
      | with_reducible apply landFlow_mem | with_reducible refine mem_of_frame (takeFrame_only (by simp) _ _ only_refl) ?_
      | with_reducible refine mem_of_frame (dropFrame_only (by simp) _ only_refl) ?_ | with_reducible apply mem_ite | with_reducible apply runOf_wf
      | with_reducible apply memPut_wf | with_reducible apply writeWhole_wf | with_reducible apply placeBufs_wf | with_reducible apply putModes_wf
      | with_reducible apply resetBlocks_wf | with_reducible apply argBufs_wf | with_reducible apply clearGranule_wf | with_reducible apply landWrite_wf
      | with_reducible apply storeWord_wf | with_reducible apply serveUnits_wf
      | (simp +zetaDelta only [readLines_mem, readLine_mem, cleanLines_mem, setOwn_mem, setLine_mem, modErr_mem, setRing_mem, logUncorrectable_mem, giveGranules_mem, addUnit_mem, readTraffic_mem, advanceTail_mem, setOwns_mem, setOwnsBy_mem, startClearing_mem, closeOn_mem, closeCtx_mem, copyStores_mem, poisonBank_mem, writeBackLine_mem, setRings_mem, placeRings_mem, deliverUnits_mem, dropAccesses_mem, dropImage_mem, returnTake_mem, advanceHead_mem])
      | with_reducible apply mem_wf | with_reducible apply mem_foldl | intro _ | (split))

theorem globalWrite_mem (a0 : BitVec 32) {s : State} (h : memWf s = true) : memWf (globalWrite a0 s) = true := by
  fun_cases globalWrite a0 s
  all_goals (intros; (try dsimp only); repeat' first
      | with_reducible assumption | with_reducible apply disableAll_mem | with_reducible apply modShell_mem | with_reducible apply mem_ite
      | with_reducible apply runOf_wf | with_reducible apply memPut_wf | with_reducible apply writeWhole_wf | with_reducible apply placeBufs_wf
      | with_reducible apply putModes_wf | with_reducible apply resetBlocks_wf | with_reducible apply argBufs_wf | with_reducible apply clearGranule_wf
      | with_reducible apply landWrite_wf | with_reducible apply storeWord_wf | with_reducible apply serveUnits_wf
      | (simp +zetaDelta only [readLines_mem, readLine_mem, cleanLines_mem, setOwn_mem, setLine_mem, modErr_mem, setRing_mem, logUncorrectable_mem, giveGranules_mem, addUnit_mem, readTraffic_mem, advanceTail_mem, setOwns_mem, setOwnsBy_mem, startClearing_mem, closeOn_mem, closeCtx_mem, copyStores_mem, poisonBank_mem, writeBackLine_mem, setRings_mem, placeRings_mem, deliverUnits_mem, dropAccesses_mem, dropImage_mem, returnTake_mem, advanceHead_mem])
      | with_reducible apply mem_wf | with_reducible apply mem_foldl | intro _ | (split))

theorem granuleFreeEff_mem (a1 : Nat) (a2 : MsgWord) {s : State} (h : memWf s = true) : memWf (granuleFreeEff s a1 a2) = true := by
  fun_cases granuleFreeEff s a1 a2
  all_goals (intros; (try dsimp only); repeat' first
      | with_reducible assumption | with_reducible apply beginClose_mem
      | with_reducible refine mem_of_frame (respond_only (by simp) (by simp) (by simp) _ _ _ only_refl) ?_ | with_reducible apply mem_ite
      | with_reducible apply runOf_wf | with_reducible apply memPut_wf | with_reducible apply writeWhole_wf | with_reducible apply placeBufs_wf
      | with_reducible apply putModes_wf | with_reducible apply resetBlocks_wf | with_reducible apply argBufs_wf | with_reducible apply clearGranule_wf
      | with_reducible apply landWrite_wf | with_reducible apply storeWord_wf | with_reducible apply serveUnits_wf
      | (simp +zetaDelta only [readLines_mem, readLine_mem, cleanLines_mem, setOwn_mem, setLine_mem, modErr_mem, setRing_mem, logUncorrectable_mem, giveGranules_mem, addUnit_mem, readTraffic_mem, advanceTail_mem, setOwns_mem, setOwnsBy_mem, startClearing_mem, closeOn_mem, closeCtx_mem, copyStores_mem, poisonBank_mem, writeBackLine_mem, setRings_mem, placeRings_mem, deliverUnits_mem, dropAccesses_mem, dropImage_mem, returnTake_mem, advanceHead_mem])
      | with_reducible apply mem_wf | with_reducible apply mem_foldl | intro _ | (split))

theorem hallWord_mem (a0 a1 : Nat) (a2 : BitVec 32) {s : State} (h : memWf s = true) : memWf (hallWord a0 a1 a2 s) = true := by
  fun_cases hallWord a0 a1 a2 s
  all_goals (intros; (try dsimp only); repeat' first
      | with_reducible assumption | (with_reducible refine modStore_mem _ (fun _ _ => ?_) ?_) | with_reducible apply mem_ite | with_reducible apply runOf_wf
      | with_reducible apply memPut_wf | with_reducible apply writeWhole_wf | with_reducible apply placeBufs_wf | with_reducible apply putModes_wf
      | with_reducible apply resetBlocks_wf | with_reducible apply argBufs_wf | with_reducible apply clearGranule_wf | with_reducible apply landWrite_wf
      | with_reducible apply storeWord_wf | with_reducible apply serveUnits_wf
      | (simp +zetaDelta only [readLines_mem, readLine_mem, cleanLines_mem, setOwn_mem, setLine_mem, modErr_mem, setRing_mem, logUncorrectable_mem, giveGranules_mem, addUnit_mem, readTraffic_mem, advanceTail_mem, setOwns_mem, setOwnsBy_mem, startClearing_mem, closeOn_mem, closeCtx_mem, copyStores_mem, poisonBank_mem, writeBackLine_mem, setRings_mem, placeRings_mem, deliverUnits_mem, dropAccesses_mem, dropImage_mem, returnTake_mem, advanceHead_mem])
      | with_reducible apply mem_wf | with_reducible apply mem_foldl | intro _ | (split))

theorem landHalo_mem (a0 a1 : Nat) (a2 : HaloSlot) (a3 : List Byte) {s : State} (h : memWf s = true) : memWf (landHalo a0 a1 a2 a3 s) = true := by
  fun_cases landHalo a0 a1 a2 a3 s
  all_goals (intros; (try dsimp only); repeat' first
      | with_reducible assumption | with_reducible refine mem_of_frame (recvLanded_only (by simp) _ _ only_refl) ?_ | with_reducible apply commitRun_mem
      | with_reducible refine runWf (haloWrite_grows _ _ _ _ _ _ (grows_refl _)) ?_ | with_reducible apply mem_ite | with_reducible apply runOf_wf
      | with_reducible apply memPut_wf | with_reducible apply writeWhole_wf | with_reducible apply placeBufs_wf | with_reducible apply putModes_wf
      | with_reducible apply resetBlocks_wf | with_reducible apply argBufs_wf | with_reducible apply clearGranule_wf | with_reducible apply landWrite_wf
      | with_reducible apply storeWord_wf | with_reducible apply serveUnits_wf
      | (simp +zetaDelta only [readLines_mem, readLine_mem, cleanLines_mem, setOwn_mem, setLine_mem, modErr_mem, setRing_mem, logUncorrectable_mem, giveGranules_mem, addUnit_mem, readTraffic_mem, advanceTail_mem, setOwns_mem, setOwnsBy_mem, startClearing_mem, closeOn_mem, closeCtx_mem, copyStores_mem, poisonBank_mem, writeBackLine_mem, setRings_mem, placeRings_mem, deliverUnits_mem, dropAccesses_mem, dropImage_mem, returnTake_mem, advanceHead_mem])
      | with_reducible apply mem_wf | with_reducible apply mem_foldl | intro _ | (split))

theorem haloRecv_mem (a0 : Nat) (a1 : HaloF) (a2 : Room) (a3 : Nat) {s : State} (h : memWf s = true) : memWf (haloRecv a0 a1 a2 a3 s) = true := by
  fun_cases haloRecv a0 a1 a2 a3 s
  all_goals (intros; (try dsimp only); repeat' first
      | with_reducible assumption | with_reducible refine mem_of_frame (markSent_only (by simp) _ _ _ _ _ only_refl) ?_ | with_reducible apply landHalo_mem
      | with_reducible refine mem_of_frame (modRoom_only (by simp) _ _ only_refl) ?_ | with_reducible apply mem_ite | with_reducible apply runOf_wf
      | with_reducible apply memPut_wf | with_reducible apply writeWhole_wf | with_reducible apply placeBufs_wf | with_reducible apply putModes_wf
      | with_reducible apply resetBlocks_wf | with_reducible apply argBufs_wf | with_reducible apply clearGranule_wf | with_reducible apply landWrite_wf
      | with_reducible apply storeWord_wf | with_reducible apply serveUnits_wf
      | (simp +zetaDelta only [readLines_mem, readLine_mem, cleanLines_mem, setOwn_mem, setLine_mem, modErr_mem, setRing_mem, logUncorrectable_mem, giveGranules_mem, addUnit_mem, readTraffic_mem, advanceTail_mem, setOwns_mem, setOwnsBy_mem, startClearing_mem, closeOn_mem, closeCtx_mem, copyStores_mem, poisonBank_mem, writeBackLine_mem, setRings_mem, placeRings_mem, deliverUnits_mem, dropAccesses_mem, dropImage_mem, returnTake_mem, advanceHead_mem])
      | with_reducible apply mem_wf | with_reducible apply mem_foldl | intro _ | (split))

theorem haloSend_mem (a0 : Nat) (a1 : HaloF) (a2 : Env) (a3 : Room) (a4 : Task) (a5 : Nat) {s : State} (h : memWf s = true) : memWf (haloSend a0 a1 a2 a3 a4 a5
    s) = true := by
  fun_cases haloSend a0 a1 a2 a3 a4 a5 s
  all_goals (intros; (try dsimp only); repeat' first
      | with_reducible assumption | with_reducible refine mem_of_frame (markSent_only (by simp) _ _ _ _ _ only_refl) ?_ | with_reducible apply landHalo_mem
      | with_reducible apply commitRun_mem | with_reducible refine mem_of_frame (modRoom_only (by simp) _ _ only_refl) ?_
      | with_reducible refine runWf (haloRead_grows _ _ _ (grows_refl _)) ?_ | with_reducible apply mem_ite | with_reducible apply runOf_wf
      | with_reducible apply memPut_wf | with_reducible apply writeWhole_wf | with_reducible apply placeBufs_wf | with_reducible apply putModes_wf
      | with_reducible apply resetBlocks_wf | with_reducible apply argBufs_wf | with_reducible apply clearGranule_wf | with_reducible apply landWrite_wf
      | with_reducible apply storeWord_wf | with_reducible apply serveUnits_wf
      | (simp +zetaDelta only [readLines_mem, readLine_mem, cleanLines_mem, setOwn_mem, setLine_mem, modErr_mem, setRing_mem, logUncorrectable_mem, giveGranules_mem, addUnit_mem, readTraffic_mem, advanceTail_mem, setOwns_mem, setOwnsBy_mem, startClearing_mem, closeOn_mem, closeCtx_mem, copyStores_mem, poisonBank_mem, writeBackLine_mem, setRings_mem, placeRings_mem, deliverUnits_mem, dropAccesses_mem, dropImage_mem, returnTake_mem, advanceHead_mem])
      | with_reducible apply mem_wf | with_reducible apply mem_foldl | intro _ | (split))

theorem haloBody_mem (a0 : Nat) (a1 : OpWord) (a2 : Env) (a3 : Room) (a4 : Task) (a5 : Nat) {s : State} (h : memWf s = true) : memWf (haloBody a0 a1 a2 a3 a4 a5
    s) = true := by
  fun_cases haloBody a0 a1 a2 a3 a4 a5 s
  all_goals (intros; (try dsimp only); repeat' first
      | with_reducible assumption | with_reducible apply haloSend_mem | with_reducible apply haloRecv_mem
      | with_reducible refine mem_of_frame (engage_only (by simp) (by simp) _ _ _ _ _ _ only_refl) ?_ | with_reducible apply mem_ite
      | with_reducible apply runOf_wf | with_reducible apply memPut_wf | with_reducible apply writeWhole_wf | with_reducible apply placeBufs_wf
      | with_reducible apply putModes_wf | with_reducible apply resetBlocks_wf | with_reducible apply argBufs_wf | with_reducible apply clearGranule_wf
      | with_reducible apply landWrite_wf | with_reducible apply storeWord_wf | with_reducible apply serveUnits_wf
      | (simp +zetaDelta only [readLines_mem, readLine_mem, cleanLines_mem, setOwn_mem, setLine_mem, modErr_mem, setRing_mem, logUncorrectable_mem, giveGranules_mem, addUnit_mem, readTraffic_mem, advanceTail_mem, setOwns_mem, setOwnsBy_mem, startClearing_mem, closeOn_mem, closeCtx_mem, copyStores_mem, poisonBank_mem, writeBackLine_mem, setRings_mem, placeRings_mem, deliverUnits_mem, dropAccesses_mem, dropImage_mem, returnTake_mem, advanceHead_mem])
      | with_reducible apply mem_wf | with_reducible apply mem_foldl | intro _ | (split))

theorem loadClaim_mem (a0 a1 : Nat) (a2 : List Byte) (a3 : List Nat) {s : State} (h : memWf s = true) : memWf (loadClaim a0 a1 a2 a3 s) = true := by
  fun_cases loadClaim a0 a1 a2 a3 s
  all_goals (intros; (try dsimp only); repeat' first
      | with_reducible assumption | with_reducible refine mem_of_frame (await_only (by simp) _ only_refl) ?_
      | (with_reducible refine modStore_mem _ (fun _ _ => ?_) ?_) | with_reducible apply modSteward_mem | with_reducible apply mem_ite
      | with_reducible apply runOf_wf | with_reducible apply memPut_wf | with_reducible apply writeWhole_wf | with_reducible apply placeBufs_wf
      | with_reducible apply putModes_wf | with_reducible apply resetBlocks_wf | with_reducible apply argBufs_wf | with_reducible apply clearGranule_wf
      | with_reducible apply landWrite_wf | with_reducible apply storeWord_wf | with_reducible apply serveUnits_wf
      | (simp +zetaDelta only [readLines_mem, readLine_mem, cleanLines_mem, setOwn_mem, setLine_mem, modErr_mem, setRing_mem, logUncorrectable_mem, giveGranules_mem, addUnit_mem, readTraffic_mem, advanceTail_mem, setOwns_mem, setOwnsBy_mem, startClearing_mem, closeOn_mem, closeCtx_mem, copyStores_mem, poisonBank_mem, writeBackLine_mem, setRings_mem, placeRings_mem, deliverUnits_mem, dropAccesses_mem, dropImage_mem, returnTake_mem, advanceHead_mem])
      | with_reducible apply mem_wf | with_reducible apply mem_foldl | intro _ | (split))

theorem openClaim_mem (a0 : Nat) (a1 : List Byte) {s : State} (h : memWf s = true) : memWf (openClaim a0 a1 s).1 = true := by
  fun_cases openClaim a0 a1 s
  all_goals (intros; (try dsimp only); repeat' first
      | with_reducible assumption | (with_reducible refine modStore_mem _ (fun _ _ => ?_) ?_) | with_reducible apply mem_ite | with_reducible apply runOf_wf
      | with_reducible apply memPut_wf | with_reducible apply writeWhole_wf | with_reducible apply placeBufs_wf | with_reducible apply putModes_wf
      | with_reducible apply resetBlocks_wf | with_reducible apply argBufs_wf | with_reducible apply clearGranule_wf | with_reducible apply landWrite_wf
      | with_reducible apply storeWord_wf | with_reducible apply serveUnits_wf
      | (simp +zetaDelta only [readLines_mem, readLine_mem, cleanLines_mem, setOwn_mem, setLine_mem, modErr_mem, setRing_mem, logUncorrectable_mem, giveGranules_mem, addUnit_mem, readTraffic_mem, advanceTail_mem, setOwns_mem, setOwnsBy_mem, startClearing_mem, closeOn_mem, closeCtx_mem, copyStores_mem, poisonBank_mem, writeBackLine_mem, setRings_mem, placeRings_mem, deliverUnits_mem, dropAccesses_mem, dropImage_mem, returnTake_mem, advanceHead_mem])
      | with_reducible apply mem_wf | with_reducible apply mem_foldl | intro _ | (split))

theorem openWindows_mem (a0 : Nat) (a1 : List (List Byte)) {s : State} (h : memWf s = true) : memWf (openWindows a0 a1 s).1 = true := by
  fun_induction openWindows a0 a1 s
  all_goals intros
  all_goals repeat' first
      | with_reducible assumption | with_reducible apply_assumption | with_reducible apply openClaim_mem | with_reducible apply mem_ite
      | with_reducible apply runOf_wf | with_reducible apply memPut_wf | with_reducible apply writeWhole_wf | with_reducible apply placeBufs_wf
      | with_reducible apply putModes_wf | with_reducible apply resetBlocks_wf | with_reducible apply argBufs_wf | with_reducible apply clearGranule_wf
      | with_reducible apply landWrite_wf | with_reducible apply storeWord_wf | with_reducible apply serveUnits_wf
      | (simp +zetaDelta only [readLines_mem, readLine_mem, cleanLines_mem, setOwn_mem, setLine_mem, modErr_mem, setRing_mem, logUncorrectable_mem, giveGranules_mem, addUnit_mem, readTraffic_mem, advanceTail_mem, setOwns_mem, setOwnsBy_mem, startClearing_mem, closeOn_mem, closeCtx_mem, copyStores_mem, poisonBank_mem, writeBackLine_mem, setRings_mem, placeRings_mem, deliverUnits_mem, dropAccesses_mem, dropImage_mem, returnTake_mem, advanceHead_mem])
      | with_reducible apply mem_wf | with_reducible apply mem_foldl | intro _ | (split)

theorem placeImage_mem (a0 : Nat) (a1 : List Byte) (a2 : List CopyRec) (a3 : List Nat) {s : State} (h : memWf s = true) : memWf (placeImage a0 a1 a2 a3 s) =
    true := by
  fun_cases placeImage a0 a1 a2 a3 s
  all_goals (intros; (try dsimp only); repeat' first
      | with_reducible assumption | with_reducible apply openWindows_mem | with_reducible apply buildCopies_mem
      | (with_reducible refine modStore_mem _ (fun _ _ => ?_) ?_) | with_reducible apply modSteward_mem | with_reducible apply mem_ite
      | with_reducible apply runOf_wf | with_reducible apply memPut_wf | with_reducible apply writeWhole_wf | with_reducible apply placeBufs_wf
      | with_reducible apply putModes_wf | with_reducible apply resetBlocks_wf | with_reducible apply argBufs_wf | with_reducible apply clearGranule_wf
      | with_reducible apply landWrite_wf | with_reducible apply storeWord_wf | with_reducible apply serveUnits_wf
      | (simp +zetaDelta only [readLines_mem, readLine_mem, cleanLines_mem, setOwn_mem, setLine_mem, modErr_mem, setRing_mem, logUncorrectable_mem, giveGranules_mem, addUnit_mem, readTraffic_mem, advanceTail_mem, setOwns_mem, setOwnsBy_mem, startClearing_mem, closeOn_mem, closeCtx_mem, copyStores_mem, poisonBank_mem, writeBackLine_mem, setRings_mem, placeRings_mem, deliverUnits_mem, dropAccesses_mem, dropImage_mem, returnTake_mem, advanceHead_mem])
      | with_reducible apply mem_wf | with_reducible apply mem_foldl | intro _ | (split))

theorem tryLoad_mem (a0 a1 a2 : Nat) (a3 : List Byte) {s : State} (h : memWf s = true) : memWf (tryLoad a0 a1 a2 a3 s) = true := by
  unfold tryLoad
  extract_lets prior
  clear_value prior
  split
  · refine mem_of_frame (by apply answerReject_only <;> first | exact only_refl | simp) ?_
    exact undoLoad_mem _ h
  · refine mem_ite (loadClaim_mem _ _ _ _ h) ?_
    refine mem_of_frame (by apply respond_only <;> first | exact only_refl | simp) ?_
    refine mem_of_frame (by apply endLoad_only <;> first | exact only_refl | simp) ?_
    refine mem_of_frame (by apply forgetRounds_only <;> first | exact only_refl | simp) ?_
    exact placeImage_mem _ _ _ _ h

theorem imageLoadEff_mem (a1 : Nat) (a2 : MsgWord) (a3 : Option (List Byte)) {s : State} (h : memWf s = true) : memWf (imageLoadEff s a1 a2 a3) = true := by
  fun_cases imageLoadEff s a1 a2 a3
  all_goals (intros; (try dsimp only); repeat' first
      | with_reducible assumption | with_reducible apply tryLoad_mem
      | with_reducible refine mem_of_frame (respond_only (by simp) (by simp) (by simp) _ _ _ only_refl) ?_ | with_reducible apply mem_ite
      | with_reducible apply runOf_wf | with_reducible apply memPut_wf | with_reducible apply writeWhole_wf | with_reducible apply placeBufs_wf
      | with_reducible apply putModes_wf | with_reducible apply resetBlocks_wf | with_reducible apply argBufs_wf | with_reducible apply clearGranule_wf
      | with_reducible apply landWrite_wf | with_reducible apply storeWord_wf | with_reducible apply serveUnits_wf
      | (simp +zetaDelta only [readLines_mem, readLine_mem, cleanLines_mem, setOwn_mem, setLine_mem, modErr_mem, setRing_mem, logUncorrectable_mem, giveGranules_mem, addUnit_mem, readTraffic_mem, advanceTail_mem, setOwns_mem, setOwnsBy_mem, startClearing_mem, closeOn_mem, closeCtx_mem, copyStores_mem, poisonBank_mem, writeBackLine_mem, setRings_mem, placeRings_mem, deliverUnits_mem, dropAccesses_mem, dropImage_mem, returnTake_mem, advanceHead_mem])
      | with_reducible apply mem_wf | with_reducible apply mem_foldl | intro _ | (split))

theorem imageUnloadEff_mem (a1 : Nat) (a2 : MsgWord) {s : State} (h : memWf s = true) : memWf (imageUnloadEff s a1 a2) = true := by
  fun_cases imageUnloadEff s a1 a2
  all_goals (intros; (try dsimp only); repeat' first
      | with_reducible assumption | with_reducible apply beginUnload_mem
      | with_reducible refine mem_of_frame (respond_only (by simp) (by simp) (by simp) _ _ _ only_refl) ?_ | with_reducible apply mem_ite
      | with_reducible apply runOf_wf | with_reducible apply memPut_wf | with_reducible apply writeWhole_wf | with_reducible apply placeBufs_wf
      | with_reducible apply putModes_wf | with_reducible apply resetBlocks_wf | with_reducible apply argBufs_wf | with_reducible apply clearGranule_wf
      | with_reducible apply landWrite_wf | with_reducible apply storeWord_wf | with_reducible apply serveUnits_wf
      | (simp +zetaDelta only [readLines_mem, readLine_mem, cleanLines_mem, setOwn_mem, setLine_mem, modErr_mem, setRing_mem, logUncorrectable_mem, giveGranules_mem, addUnit_mem, readTraffic_mem, advanceTail_mem, setOwns_mem, setOwnsBy_mem, startClearing_mem, closeOn_mem, closeCtx_mem, copyStores_mem, poisonBank_mem, writeBackLine_mem, setRings_mem, placeRings_mem, deliverUnits_mem, dropAccesses_mem, dropImage_mem, returnTake_mem, advanceHead_mem])
      | with_reducible apply mem_wf | with_reducible apply mem_foldl | intro _ | (split))

theorem landBurst_mem (a1 : Nat) (a2 : Option (List Byte)) {s : State} (h : memWf s = true) : memWf (landBurst s a1 a2) = true := by
  fun_cases landBurst s a1 a2
  all_goals (intros; (try dsimp only); repeat' first
      | with_reducible assumption | with_reducible apply copyLines_mem
      | with_reducible refine mem_of_frame (hatchError_only (by simp) (by simp) (by simp) _ _ only_refl) ?_
      | with_reducible refine mem_of_frame (burstDone_only (by simp) (by simp) (by simp) _ only_refl) ?_
      | (with_reducible refine modStore_mem _ (fun _ _ => ?_) ?_) | with_reducible apply modShell_mem | with_reducible apply mem_ite
      | with_reducible apply runOf_wf | with_reducible apply memPut_wf | with_reducible apply writeWhole_wf | with_reducible apply placeBufs_wf
      | with_reducible apply putModes_wf | with_reducible apply resetBlocks_wf | with_reducible apply argBufs_wf | with_reducible apply clearGranule_wf
      | with_reducible apply landWrite_wf | with_reducible apply storeWord_wf | with_reducible apply serveUnits_wf
      | (simp +zetaDelta only [readLines_mem, readLine_mem, cleanLines_mem, setOwn_mem, setLine_mem, modErr_mem, setRing_mem, logUncorrectable_mem, giveGranules_mem, addUnit_mem, readTraffic_mem, advanceTail_mem, setOwns_mem, setOwnsBy_mem, startClearing_mem, closeOn_mem, closeCtx_mem, copyStores_mem, poisonBank_mem, writeBackLine_mem, setRings_mem, placeRings_mem, deliverUnits_mem, dropAccesses_mem, dropImage_mem, returnTake_mem, advanceHead_mem])
      | with_reducible apply mem_wf | with_reducible apply mem_foldl | intro _ | (split))

theorem landedEff_mem (a1 : Nat) (a2 : Option (List Byte)) {s : State} (h : memWf s = true) : memWf (landedEff s a1 a2) = true := by
  fun_cases landedEff s a1 a2
  all_goals (intros; (try dsimp only); repeat' first
      | with_reducible assumption | with_reducible apply landBurst_mem | with_reducible apply landCloses_mem | with_reducible apply mem_ite
      | with_reducible apply runOf_wf | with_reducible apply memPut_wf | with_reducible apply writeWhole_wf | with_reducible apply placeBufs_wf
      | with_reducible apply putModes_wf | with_reducible apply resetBlocks_wf | with_reducible apply argBufs_wf | with_reducible apply clearGranule_wf
      | with_reducible apply landWrite_wf | with_reducible apply storeWord_wf | with_reducible apply serveUnits_wf
      | (simp +zetaDelta only [readLines_mem, readLine_mem, cleanLines_mem, setOwn_mem, setLine_mem, modErr_mem, setRing_mem, logUncorrectable_mem, giveGranules_mem, addUnit_mem, readTraffic_mem, advanceTail_mem, setOwns_mem, setOwnsBy_mem, startClearing_mem, closeOn_mem, closeCtx_mem, copyStores_mem, poisonBank_mem, writeBackLine_mem, setRings_mem, placeRings_mem, deliverUnits_mem, dropAccesses_mem, dropImage_mem, returnTake_mem, advanceHead_mem])
      | with_reducible apply mem_wf | with_reducible apply mem_foldl | intro _ | (split))

theorem launchTask_mem (a0 : Nat) (a1 : Task) (a2 : Image) {s : State} (h : memWf s = true) : memWf (launchTask a0 a1 a2 s) = true := by
  unfold launchTask
  extract_lets v15 V ms a r b c d ps e
  have ha : memWf a = true := modStore_mem _ (fun st hst => by rw [setRings_mem]; exact argBufs_wf _ _ (putModes_wf _ hst)) h
  have hb : memWf b = true := putStore_mem (by rw [show r.1.mem = a.store.mem from readLines_mem _ _ _]; exact ha)
  have hc : memWf c = true := mem_of_frame (by apply startRooms_only <;> first | exact only_refl | simp) hb
  have he : memWf e = true := mem_of_frame (modTask_only (by simp) _ _ only_refl) (modShell_mem _ hc)
  clear_value e r
  refine mem_ite ?_ (mem_ite ?_ he)
  · refine mem_of_frame (by apply blameBank_only <;> first | exact only_refl | simp) ?_
    exact mem_of_frame (by apply haltTask_only <;> first | exact only_refl | simp) he
  · exact mem_of_frame (by apply haltTask_only <;> first | exact only_refl | simp) he

theorem launchBoundaryEff_mem (a1 : Nat) {s : State} (h : memWf s = true) : memWf (launchBoundaryEff s a1) = true := by
  fun_cases launchBoundaryEff s a1
  all_goals (intros; (try dsimp only); repeat' first
      | with_reducible assumption | with_reducible apply launchTask_mem | with_reducible apply endBare_mem
      | with_reducible refine mem_of_frame (promote_only (by simp) only_refl) ?_
      | with_reducible refine mem_of_frame (finishTask_only (by simp) (by simp) (by simp) (by simp) _ _ _ only_refl) ?_
      | with_reducible refine mem_of_frame (haltTask_only (by simp) (by simp) _ _ _ _ only_refl) ?_
      | with_reducible refine mem_of_frame (launchVoid_only (by simp) _ only_refl) ?_ | with_reducible apply mem_ite | with_reducible apply runOf_wf
      | with_reducible apply memPut_wf | with_reducible apply writeWhole_wf | with_reducible apply placeBufs_wf | with_reducible apply putModes_wf
      | with_reducible apply resetBlocks_wf | with_reducible apply argBufs_wf | with_reducible apply clearGranule_wf | with_reducible apply landWrite_wf
      | with_reducible apply storeWord_wf | with_reducible apply serveUnits_wf
      | (simp +zetaDelta only [readLines_mem, readLine_mem, cleanLines_mem, setOwn_mem, setLine_mem, modErr_mem, setRing_mem, logUncorrectable_mem, giveGranules_mem, addUnit_mem, readTraffic_mem, advanceTail_mem, setOwns_mem, setOwnsBy_mem, startClearing_mem, closeOn_mem, closeCtx_mem, copyStores_mem, poisonBank_mem, writeBackLine_mem, setRings_mem, placeRings_mem, deliverUnits_mem, dropAccesses_mem, dropImage_mem, returnTake_mem, advanceHead_mem])
      | with_reducible apply mem_wf | with_reducible apply mem_foldl | intro _ | (split))

theorem narrowLoadEff_mem (a1 : Nat) {s : State} (h : memWf s = true) : memWf (narrowLoadEff s a1) = true := by
  fun_cases narrowLoadEff s a1
  all_goals (intros; (try dsimp only); repeat' first
      | with_reducible assumption | with_reducible apply settle_mem | with_reducible refine mem_of_frame (modRoom_only (by simp) _ _ only_refl) ?_
      | with_reducible apply mem_ite | with_reducible apply runOf_wf | with_reducible apply memPut_wf | with_reducible apply writeWhole_wf
      | with_reducible apply placeBufs_wf | with_reducible apply putModes_wf | with_reducible apply resetBlocks_wf | with_reducible apply argBufs_wf
      | with_reducible apply clearGranule_wf | with_reducible apply landWrite_wf | with_reducible apply storeWord_wf | with_reducible apply serveUnits_wf
      | (simp +zetaDelta only [readLines_mem, readLine_mem, cleanLines_mem, setOwn_mem, setLine_mem, modErr_mem, setRing_mem, logUncorrectable_mem, giveGranules_mem, addUnit_mem, readTraffic_mem, advanceTail_mem, setOwns_mem, setOwnsBy_mem, startClearing_mem, closeOn_mem, closeCtx_mem, copyStores_mem, poisonBank_mem, writeBackLine_mem, setRings_mem, placeRings_mem, deliverUnits_mem, dropAccesses_mem, dropImage_mem, returnTake_mem, advanceHead_mem])
      | with_reducible apply mem_wf | with_reducible apply mem_foldl | intro _ | (split))

theorem serveLoad_mem (a1 : Nat) (a2 : Narrow) (a3 : List Narrow) (a4 : Nat) {s : State} (h : memWf s = true) : memWf (serveLoad s a1 a2 a3 a4) = true := by
  fun_cases serveLoad s a1 a2 a3 a4
  all_goals (intros; (try dsimp only); repeat' first
      | with_reducible assumption | with_reducible refine mem_of_frame (raiseFault_only (by simp) _ _ _ _ _ _ only_refl) ?_
      | with_reducible apply putStore_mem | with_reducible refine mem_of_frame (noteRead_only (by simp) _ _ only_refl) ?_
      | with_reducible refine mem_of_frame (modRoom_only (by simp) _ _ only_refl) ?_ | with_reducible apply mem_ite | with_reducible apply runOf_wf
      | with_reducible apply memPut_wf | with_reducible apply writeWhole_wf | with_reducible apply placeBufs_wf | with_reducible apply putModes_wf
      | with_reducible apply resetBlocks_wf | with_reducible apply argBufs_wf | with_reducible apply clearGranule_wf | with_reducible apply landWrite_wf
      | with_reducible apply storeWord_wf | with_reducible apply serveUnits_wf
      | (simp +zetaDelta only [readLines_mem, readLine_mem, cleanLines_mem, setOwn_mem, setLine_mem, modErr_mem, setRing_mem, logUncorrectable_mem, giveGranules_mem, addUnit_mem, readTraffic_mem, advanceTail_mem, setOwns_mem, setOwnsBy_mem, startClearing_mem, closeOn_mem, closeCtx_mem, copyStores_mem, poisonBank_mem, writeBackLine_mem, setRings_mem, placeRings_mem, deliverUnits_mem, dropAccesses_mem, dropImage_mem, returnTake_mem, advanceHead_mem])
      | with_reducible apply mem_wf | with_reducible apply mem_foldl | intro _ | (split))

theorem serveStore_mem (a1 : Nat) (a2 : Narrow) (a3 : List Narrow) (a4 : Nat) {s : State} (h : memWf s = true) : memWf (serveStore s a1 a2 a3 a4) = true := by
  fun_cases serveStore s a1 a2 a3 a4
  all_goals (intros; (try dsimp only); repeat' first
      | with_reducible assumption | with_reducible refine mem_of_frame (raiseFault_only (by simp) _ _ _ _ _ _ only_refl) ?_
      | with_reducible apply putStore_mem | with_reducible refine mem_of_frame (noteRead_only (by simp) _ _ only_refl) ?_
      | with_reducible refine mem_of_frame (modRoom_only (by simp) _ _ only_refl) ?_
      | with_reducible refine mem_of_frame (modTask_only (by simp) _ _ only_refl) ?_ | with_reducible apply mem_ite | with_reducible apply runOf_wf
      | with_reducible apply memPut_wf | with_reducible apply writeWhole_wf | with_reducible apply placeBufs_wf | with_reducible apply putModes_wf
      | with_reducible apply resetBlocks_wf | with_reducible apply argBufs_wf | with_reducible apply clearGranule_wf | with_reducible apply landWrite_wf
      | with_reducible apply storeWord_wf | with_reducible apply serveUnits_wf
      | (simp +zetaDelta only [readLines_mem, readLine_mem, cleanLines_mem, setOwn_mem, setLine_mem, modErr_mem, setRing_mem, logUncorrectable_mem, giveGranules_mem, addUnit_mem, readTraffic_mem, advanceTail_mem, setOwns_mem, setOwnsBy_mem, startClearing_mem, closeOn_mem, closeCtx_mem, copyStores_mem, poisonBank_mem, writeBackLine_mem, setRings_mem, placeRings_mem, deliverUnits_mem, dropAccesses_mem, dropImage_mem, returnTake_mem, advanceHead_mem])
      | with_reducible apply mem_wf | with_reducible apply mem_foldl | intro _ | (split))

theorem narrowServiceEff_mem (a1 : Nat) {s : State} (h : memWf s = true) : memWf (narrowServiceEff s a1) = true := by
  fun_cases narrowServiceEff s a1
  all_goals (intros; (try dsimp only); repeat' first
      | with_reducible assumption | with_reducible apply serveStore_mem | with_reducible apply serveLoad_mem | with_reducible apply landCloses_mem
      | with_reducible apply settle_mem | with_reducible refine mem_of_frame (takeCycle_only (by simp) _ only_refl) ?_ | with_reducible apply mem_ite
      | with_reducible apply runOf_wf | with_reducible apply memPut_wf | with_reducible apply writeWhole_wf | with_reducible apply placeBufs_wf
      | with_reducible apply putModes_wf | with_reducible apply resetBlocks_wf | with_reducible apply argBufs_wf | with_reducible apply clearGranule_wf
      | with_reducible apply landWrite_wf | with_reducible apply storeWord_wf | with_reducible apply serveUnits_wf
      | (simp +zetaDelta only [readLines_mem, readLine_mem, cleanLines_mem, setOwn_mem, setLine_mem, modErr_mem, setRing_mem, logUncorrectable_mem, giveGranules_mem, addUnit_mem, readTraffic_mem, advanceTail_mem, setOwns_mem, setOwnsBy_mem, startClearing_mem, closeOn_mem, closeCtx_mem, copyStores_mem, poisonBank_mem, writeBackLine_mem, setRings_mem, placeRings_mem, deliverUnits_mem, dropAccesses_mem, dropImage_mem, returnTake_mem, advanceHead_mem])
      | with_reducible apply mem_wf | with_reducible apply mem_foldl | intro _ | (split))

theorem opFetchEff_mem (a1 : Nat) {s : State} (h : memWf s = true) : memWf (opFetchEff s a1) = true := by
  fun_cases opFetchEff s a1
  all_goals (intros; (try dsimp only); repeat' first
      | with_reducible assumption | with_reducible refine mem_of_frame (raiseFault_only (by simp) _ _ _ _ _ _ only_refl) ?_
      | with_reducible apply putStore_mem | with_reducible refine mem_of_frame (noteRead_only (by simp) _ _ only_refl) ?_
      | with_reducible refine mem_of_frame (modRoom_only (by simp) _ _ only_refl) ?_ | with_reducible apply mem_ite | with_reducible apply runOf_wf
      | with_reducible apply memPut_wf | with_reducible apply writeWhole_wf | with_reducible apply placeBufs_wf | with_reducible apply putModes_wf
      | with_reducible apply resetBlocks_wf | with_reducible apply argBufs_wf | with_reducible apply clearGranule_wf | with_reducible apply landWrite_wf
      | with_reducible apply storeWord_wf | with_reducible apply serveUnits_wf
      | (simp +zetaDelta only [readLines_mem, readLine_mem, cleanLines_mem, setOwn_mem, setLine_mem, modErr_mem, setRing_mem, logUncorrectable_mem, giveGranules_mem, addUnit_mem, readTraffic_mem, advanceTail_mem, setOwns_mem, setOwnsBy_mem, startClearing_mem, closeOn_mem, closeCtx_mem, copyStores_mem, poisonBank_mem, writeBackLine_mem, setRings_mem, placeRings_mem, deliverUnits_mem, dropAccesses_mem, dropImage_mem, returnTake_mem, advanceHead_mem])
      | with_reducible apply mem_wf | with_reducible apply mem_foldl | intro _ | (split))

theorem portRun_mem (a0 : Nat) (a1 : Nat × Nat) (a2 : Run) {s : State} (hr : Memory.wf a2.st.mem = true) : memWf (portRun a0 a1 a2 s) = true := by
  unfold portRun
  extract_lets a
  have ha : memWf a = true := mem_of_frame (by apply modTask_only <;> first | exact only_refl | simp) (putStore_mem hr)
  clear_value a
  split
  · refine mem_of_frame (by apply blameBank_only <;> first | exact only_refl | simp) ?_
    exact mem_of_frame (by apply haltTask_only <;> first | exact only_refl | simp) ha
  · exact mem_store ha

theorem portAppendEff_mem (a1 a2 : Nat) (a3 : List Byte) {s : State} (h : memWf s = true) : memWf (portAppendEff s a1 a2 a3) = true := by
  fun_cases portAppendEff s a1 a2 a3
  all_goals (intros; (try dsimp only); repeat' first
      | with_reducible assumption | with_reducible apply portRun_mem | with_reducible refine mem_of_frame (modPort'_only (by simp) _ _ _ only_refl) ?_
      | with_reducible refine runWf (moveAppend_grows _ _ _ _ (grows_refl _)) ?_ | with_reducible apply mem_ite | with_reducible apply runOf_wf
      | with_reducible apply memPut_wf | with_reducible apply writeWhole_wf | with_reducible apply placeBufs_wf | with_reducible apply putModes_wf
      | with_reducible apply resetBlocks_wf | with_reducible apply argBufs_wf | with_reducible apply clearGranule_wf | with_reducible apply landWrite_wf
      | with_reducible apply storeWord_wf | with_reducible apply serveUnits_wf
      | (simp +zetaDelta only [readLines_mem, readLine_mem, cleanLines_mem, setOwn_mem, setLine_mem, modErr_mem, setRing_mem, logUncorrectable_mem, giveGranules_mem, addUnit_mem, readTraffic_mem, advanceTail_mem, setOwns_mem, setOwnsBy_mem, startClearing_mem, closeOn_mem, closeCtx_mem, copyStores_mem, poisonBank_mem, writeBackLine_mem, setRings_mem, placeRings_mem, deliverUnits_mem, dropAccesses_mem, dropImage_mem, returnTake_mem, advanceHead_mem])
      | with_reducible apply mem_wf | with_reducible apply mem_foldl | intro _ | (split))

theorem portCycleEff_mem (a1 : Nat) {s : State} (h : memWf s = true) : memWf (portCycleEff s a1) = true := by
  fun_cases portCycleEff s a1
  all_goals (intros; (try dsimp only); repeat' first
      | with_reducible assumption | with_reducible apply landCloses_mem | (with_reducible refine modStore_mem _ (fun _ _ => ?_) ?_)
      | with_reducible refine mem_of_frame (takeCycle_only (by simp) _ only_refl) ?_ | with_reducible apply mem_ite | with_reducible apply runOf_wf
      | with_reducible apply memPut_wf | with_reducible apply writeWhole_wf | with_reducible apply placeBufs_wf | with_reducible apply putModes_wf
      | with_reducible apply resetBlocks_wf | with_reducible apply argBufs_wf | with_reducible apply clearGranule_wf | with_reducible apply landWrite_wf
      | with_reducible apply storeWord_wf | with_reducible apply serveUnits_wf
      | (simp +zetaDelta only [readLines_mem, readLine_mem, cleanLines_mem, setOwn_mem, setLine_mem, modErr_mem, setRing_mem, logUncorrectable_mem, giveGranules_mem, addUnit_mem, readTraffic_mem, advanceTail_mem, setOwns_mem, setOwnsBy_mem, startClearing_mem, closeOn_mem, closeCtx_mem, copyStores_mem, poisonBank_mem, writeBackLine_mem, setRings_mem, placeRings_mem, deliverUnits_mem, dropAccesses_mem, dropImage_mem, returnTake_mem, advanceHead_mem])
      | with_reducible apply mem_wf | with_reducible apply mem_foldl | intro _ | (split))

theorem portTakeEff_mem (a1 a2 : Nat) {s : State} (h : memWf s = true) : memWf (portTakeEff s a1 a2) = true := by
  fun_cases portTakeEff s a1 a2
  all_goals (intros; (try dsimp only); repeat' first
      | with_reducible assumption | with_reducible apply portRun_mem | with_reducible refine mem_of_frame (modPort'_only (by simp) _ _ _ only_refl) ?_
      | with_reducible refine runWf (ringTake_grows _ _ _ _ (grows_refl _)) ?_ | with_reducible apply mem_ite | with_reducible apply runOf_wf
      | with_reducible apply memPut_wf | with_reducible apply writeWhole_wf | with_reducible apply placeBufs_wf | with_reducible apply putModes_wf
      | with_reducible apply resetBlocks_wf | with_reducible apply argBufs_wf | with_reducible apply clearGranule_wf | with_reducible apply landWrite_wf
      | with_reducible apply storeWord_wf | with_reducible apply serveUnits_wf
      | (simp +zetaDelta only [readLines_mem, readLine_mem, cleanLines_mem, setOwn_mem, setLine_mem, modErr_mem, setRing_mem, logUncorrectable_mem, giveGranules_mem, addUnit_mem, readTraffic_mem, advanceTail_mem, setOwns_mem, setOwnsBy_mem, startClearing_mem, closeOn_mem, closeCtx_mem, copyStores_mem, poisonBank_mem, writeBackLine_mem, setRings_mem, placeRings_mem, deliverUnits_mem, dropAccesses_mem, dropImage_mem, returnTake_mem, advanceHead_mem])
      | with_reducible apply mem_wf | with_reducible apply mem_foldl | intro _ | (split))

theorem qstateResetEff_mem (a1 : Nat) (a2 : MsgWord) {s : State} (h : memWf s = true) : memWf (qstateResetEff s a1 a2) = true := by
  fun_cases qstateResetEff s a1 a2
  all_goals (intros; (try dsimp only); repeat' first
      | with_reducible assumption | (with_reducible refine modStore_mem _ (fun _ _ => ?_) ?_)
      | with_reducible refine mem_of_frame (respond_only (by simp) (by simp) (by simp) _ _ _ only_refl) ?_ | with_reducible apply mem_ite
      | with_reducible apply runOf_wf | with_reducible apply memPut_wf | with_reducible apply writeWhole_wf | with_reducible apply placeBufs_wf
      | with_reducible apply putModes_wf | with_reducible apply resetBlocks_wf | with_reducible apply argBufs_wf | with_reducible apply clearGranule_wf
      | with_reducible apply landWrite_wf | with_reducible apply storeWord_wf | with_reducible apply serveUnits_wf
      | (simp +zetaDelta only [readLines_mem, readLine_mem, cleanLines_mem, setOwn_mem, setLine_mem, modErr_mem, setRing_mem, logUncorrectable_mem, giveGranules_mem, addUnit_mem, readTraffic_mem, advanceTail_mem, setOwns_mem, setOwnsBy_mem, startClearing_mem, closeOn_mem, closeCtx_mem, copyStores_mem, poisonBank_mem, writeBackLine_mem, setRings_mem, placeRings_mem, deliverUnits_mem, dropAccesses_mem, dropImage_mem, returnTake_mem, advanceHead_mem])
      | with_reducible apply mem_wf | with_reducible apply mem_foldl | intro _ | (split))

theorem regWord_mem (a0 : Nat) (a1 : BitVec 32) {s : State} (h : memWf s = true) : memWf (regWord a0 a1 s) = true := by
  unfold regWord
  have e : memWf (engineWord a0 a1 s) = true := mem_of_frame (by apply engineWord_only <;> first | exact only_refl | simp) h
  have m : memWf (mboxWord (a0 / 0x1000) (a0 % 0x1000) a1 s) = true := mem_of_frame (by apply mboxWord_only <;> first | exact only_refl | simp) h
  have g : memWf (globalWrite a1 s) = true := globalWrite_mem a1 h
  have hh : memWf (hatchWord ((a0 - 0x50100) / 0x20) ((a0 - 0x50100) % 0x20) a1 s) = true := mem_of_frame (by apply hatchWord_only <;> first | exact only_refl | simp) h
  have hw : memWf (hallWord ((a0 - 0x80000) / 0x1000) (a0 % 0x1000) a1 s) = true := hallWord_mem _ _ a1 h
  have gw : memWf (gateWord ((a0 - 0xC0000) / 0x1000) (a0 % 0x1000) a1 s) = true := mem_of_frame (by apply gateWord_only <;> first | exact only_refl | simp) h
  exact mem_ite h (mem_ite m (mem_ite e (mem_ite g (mem_ite hh (mem_ite h (mem_ite hw gw))))))

theorem registerWriteEff_mem (a1 a2 a3 : Nat) (a4 : BitVec 64) {s : State} (h : memWf s = true) : memWf (registerWriteEff s a1 a2 a3 a4) = true := by
  fun_cases registerWriteEff s a1 a2 a3 a4
  all_goals (intros; (try dsimp only); repeat' first
      | with_reducible assumption | with_reducible apply regWord_mem | with_reducible refine mem_of_frame (regReply_only (by simp) _ _ _ only_refl) ?_
      | with_reducible apply mem_ite | with_reducible apply runOf_wf | with_reducible apply memPut_wf | with_reducible apply writeWhole_wf
      | with_reducible apply placeBufs_wf | with_reducible apply putModes_wf | with_reducible apply resetBlocks_wf | with_reducible apply argBufs_wf
      | with_reducible apply clearGranule_wf | with_reducible apply landWrite_wf | with_reducible apply storeWord_wf | with_reducible apply serveUnits_wf
      | (simp +zetaDelta only [readLines_mem, readLine_mem, cleanLines_mem, setOwn_mem, setLine_mem, modErr_mem, setRing_mem, logUncorrectable_mem, giveGranules_mem, addUnit_mem, readTraffic_mem, advanceTail_mem, setOwns_mem, setOwnsBy_mem, startClearing_mem, closeOn_mem, closeCtx_mem, copyStores_mem, poisonBank_mem, writeBackLine_mem, setRings_mem, placeRings_mem, deliverUnits_mem, dropAccesses_mem, dropImage_mem, returnTake_mem, advanceHead_mem])
      | with_reducible apply mem_wf | with_reducible apply mem_foldl | intro _ | (split))

theorem relocationEff_mem (a1 a2 : Nat) {s : State} (h : memWf s = true) : memWf (relocationEff s a1 a2) = true := by
  unfold relocationEff
  extract_lets idx t b
  have ht : memWf t = true := mem_of_frame (by apply modUnit_only <;> first | exact only_refl | simp) (mem_of_frame (by apply modHealth_only <;> first | exact only_refl | simp) h)
  clear_value t
  refine mem_ite ?_ ht
  split
  · refine mem_of_frame (by apply markSpare_only <;> first | exact only_refl | simp) ?_
    refine mem_of_frame (by apply modMap_only <;> first | exact only_refl | simp) ?_
    exact modStore_mem _ (fun st hst => hst) (dropCopies_mem _ _ ht)
  · refine mem_of_frame (by apply markExhausted_only <;> first | exact only_refl | simp) ?_
    exact modStore_mem _ (fun st hst => by rw [poisonBank_mem]; exact hst) ht

theorem remoteEff_mem (a1 : Nat) {s : State} (h : memWf s = true) : memWf (remoteEff s a1) = true := by
  unfold remoteEff
  split
  · exact h
  · extract_lets a
    have hl : memWf (landCloses a) = true := landCloses_mem (modStore_mem _ (fun st hst => by
      extract_lets t
      have ht : Memory.wf t.mem = true := by rw [returnTake_mem]; exact hst
      clear_value t
      split
      · exact landWrite_wf _ _ ht
      · exact ht) h)
    clear_value a
    refine mem_of_frame (by apply takeCycle_only <;> first | exact only_refl | simp) ?_
    split
    · exact mem_of_frame (by apply addSignal_only <;> first | exact only_refl | simp) hl
    · exact hl

theorem replacementEndEff_mem (a1 a2 : Nat) {s : State} (h : memWf s = true) : memWf (replacementEndEff s a1 a2) = true := by
  fun_cases replacementEndEff s a1 a2
  all_goals (intros; (try dsimp only); repeat' first
      | with_reducible assumption
      | with_reducible refine mem_of_frame (replaceMould_only (by simp) (by simp) (by simp) (by simp) (by simp) (by simp) _ only_refl) ?_
      | with_reducible refine mem_of_frame (settleHealth_only (by simp) (by simp) (by simp) only_refl) ?_ | with_reducible apply bringIn_mem
      | with_reducible refine mem_of_frame (mapSpare_only (by simp) (by simp) (by simp) _ _ only_refl) ?_
      | with_reducible refine mem_of_frame (modHealth_only (by simp) _ only_refl) ?_ | with_reducible apply mem_ite | with_reducible apply runOf_wf
      | with_reducible apply memPut_wf | with_reducible apply writeWhole_wf | with_reducible apply placeBufs_wf | with_reducible apply putModes_wf
      | with_reducible apply resetBlocks_wf | with_reducible apply argBufs_wf | with_reducible apply clearGranule_wf | with_reducible apply landWrite_wf
      | with_reducible apply storeWord_wf | with_reducible apply serveUnits_wf
      | (simp +zetaDelta only [readLines_mem, readLine_mem, cleanLines_mem, setOwn_mem, setLine_mem, modErr_mem, setRing_mem, logUncorrectable_mem, giveGranules_mem, addUnit_mem, readTraffic_mem, advanceTail_mem, setOwns_mem, setOwnsBy_mem, startClearing_mem, closeOn_mem, closeCtx_mem, copyStores_mem, poisonBank_mem, writeBackLine_mem, setRings_mem, placeRings_mem, deliverUnits_mem, dropAccesses_mem, dropImage_mem, returnTake_mem, advanceHead_mem])
      | with_reducible apply mem_wf | with_reducible apply mem_foldl | intro _ | (split))

theorem restoreMap_mem {s : State} (h : memWf s = true) : memWf (restoreMap s) = true := by
  fun_cases restoreMap s
  all_goals (intros; (try dsimp only); repeat' first
      | with_reducible assumption | with_reducible refine mem_of_frame (modHealth_only (by simp) _ only_refl) ?_ | with_reducible apply mem_ite
      | with_reducible apply runOf_wf | with_reducible apply memPut_wf | with_reducible apply writeWhole_wf | with_reducible apply placeBufs_wf
      | with_reducible apply putModes_wf | with_reducible apply resetBlocks_wf | with_reducible apply argBufs_wf | with_reducible apply clearGranule_wf
      | with_reducible apply landWrite_wf | with_reducible apply storeWord_wf | with_reducible apply serveUnits_wf
      | (simp +zetaDelta only [readLines_mem, readLine_mem, cleanLines_mem, setOwn_mem, setLine_mem, modErr_mem, setRing_mem, logUncorrectable_mem, giveGranules_mem, addUnit_mem, readTraffic_mem, advanceTail_mem, setOwns_mem, setOwnsBy_mem, startClearing_mem, closeOn_mem, closeCtx_mem, copyStores_mem, poisonBank_mem, writeBackLine_mem, setRings_mem, placeRings_mem, deliverUnits_mem, dropAccesses_mem, dropImage_mem, returnTake_mem, advanceHead_mem])
      | with_reducible apply mem_wf | with_reducible apply mem_foldl | intro _ | (split) | with_reducible apply mem_mk | with_reducible apply mem_store)

theorem retireEff_mem (a1 a2 : Nat) {s : State} (h : memWf s = true) : memWf (retireEff s a1 a2) = true := by
  fun_cases retireEff s a1 a2
  all_goals (intros; (try dsimp only); repeat' first
      | with_reducible assumption | with_reducible apply finishOp_mem | with_reducible apply settle_mem
      | with_reducible refine mem_of_frame (modRoom_only (by simp) _ _ only_refl) ?_ | with_reducible apply mem_ite | with_reducible apply runOf_wf
      | with_reducible apply memPut_wf | with_reducible apply writeWhole_wf | with_reducible apply placeBufs_wf | with_reducible apply putModes_wf
      | with_reducible apply resetBlocks_wf | with_reducible apply argBufs_wf | with_reducible apply clearGranule_wf | with_reducible apply landWrite_wf
      | with_reducible apply storeWord_wf | with_reducible apply serveUnits_wf
      | (simp +zetaDelta only [readLines_mem, readLine_mem, cleanLines_mem, setOwn_mem, setLine_mem, modErr_mem, setRing_mem, logUncorrectable_mem, giveGranules_mem, addUnit_mem, readTraffic_mem, advanceTail_mem, setOwns_mem, setOwnsBy_mem, startClearing_mem, closeOn_mem, closeCtx_mem, copyStores_mem, poisonBank_mem, writeBackLine_mem, setRings_mem, placeRings_mem, deliverUnits_mem, dropAccesses_mem, dropImage_mem, returnTake_mem, advanceHead_mem])
      | with_reducible apply mem_wf | with_reducible apply mem_foldl | intro _ | (split))

theorem tryAlloc_mem (a0 : Nat) (a1 : MsgWord) {s : State} (h : memWf s = true) : memWf (tryAlloc a0 a1 s) = true := by
  fun_cases tryAlloc a0 a1 s
  all_goals (intros; (try dsimp only); repeat' first
      | with_reducible assumption | with_reducible refine mem_of_frame (await_only (by simp) _ only_refl) ?_
      | (with_reducible refine modStore_mem _ (fun _ _ => ?_) ?_)
      | with_reducible refine mem_of_frame (respond_only (by simp) (by simp) (by simp) _ _ _ only_refl) ?_ | with_reducible apply mem_ite
      | with_reducible apply runOf_wf | with_reducible apply memPut_wf | with_reducible apply writeWhole_wf | with_reducible apply placeBufs_wf
      | with_reducible apply putModes_wf | with_reducible apply resetBlocks_wf | with_reducible apply argBufs_wf | with_reducible apply clearGranule_wf
      | with_reducible apply landWrite_wf | with_reducible apply storeWord_wf | with_reducible apply serveUnits_wf
      | (simp +zetaDelta only [readLines_mem, readLine_mem, cleanLines_mem, setOwn_mem, setLine_mem, modErr_mem, setRing_mem, logUncorrectable_mem, giveGranules_mem, addUnit_mem, readTraffic_mem, advanceTail_mem, setOwns_mem, setOwnsBy_mem, startClearing_mem, closeOn_mem, closeCtx_mem, copyStores_mem, poisonBank_mem, writeBackLine_mem, setRings_mem, placeRings_mem, deliverUnits_mem, dropAccesses_mem, dropImage_mem, returnTake_mem, advanceHead_mem])
      | with_reducible apply mem_wf | with_reducible apply mem_foldl | intro _ | (split))

theorem retryWaiting_mem (a0 : List (Nat × Mailbox)) {s : State} (h : memWf s = true) : memWf (retryWaiting a0 s) = true := by
  fun_induction retryWaiting a0 s
  all_goals intros
  all_goals repeat' first
      | with_reducible assumption | with_reducible apply_assumption | with_reducible apply tryAlloc_mem | with_reducible apply tryLoad_mem
      | with_reducible apply mem_ite | with_reducible apply runOf_wf | with_reducible apply memPut_wf | with_reducible apply writeWhole_wf
      | with_reducible apply placeBufs_wf | with_reducible apply putModes_wf | with_reducible apply resetBlocks_wf | with_reducible apply argBufs_wf
      | with_reducible apply clearGranule_wf | with_reducible apply landWrite_wf | with_reducible apply storeWord_wf | with_reducible apply serveUnits_wf
      | (simp +zetaDelta only [readLines_mem, readLine_mem, cleanLines_mem, setOwn_mem, setLine_mem, modErr_mem, setRing_mem, logUncorrectable_mem, giveGranules_mem, addUnit_mem, readTraffic_mem, advanceTail_mem, setOwns_mem, setOwnsBy_mem, startClearing_mem, closeOn_mem, closeCtx_mem, copyStores_mem, poisonBank_mem, writeBackLine_mem, setRings_mem, placeRings_mem, deliverUnits_mem, dropAccesses_mem, dropImage_mem, returnTake_mem, advanceHead_mem])
      | with_reducible apply mem_wf | with_reducible apply mem_foldl | intro _ | (split)

theorem wholeBody_mem (a0 : Nat) (a1 : OpWord) (a2 : Env → Room → Run → Run) (a3 : Env) (a4 : Room) (a5 : Task) (a6 : Nat) {s : State}
    (hr : ∀ E x r, Memory.wf r.st.mem = true → Memory.wf (a2 E x r).st.mem = true) (h : memWf s = true) : memWf (wholeBody a0 a1 a2 a3 a4 a5 a6 s) = true :=
  commitRun_mem _ _ _ _ _ (hr _ _ _ h)

theorem rowfBody_mem (a0 : Nat) (a1 : OpWord) (a2 : Env) (a3 : Room) (a4 : Task) (a5 : Nat) {s : State} (h : memWf s = true) : memWf (rowfBody a0 a1 a2 a3 a4 a5
    s) = true := by
  fun_cases rowfBody a0 a1 a2 a3 a4 a5 s
  all_goals (intros; (try dsimp only); repeat' first
      | with_reducible assumption | with_reducible apply wholeBody_mem
      | with_reducible refine mem_of_frame (engage_only (by simp) (by simp) _ _ _ _ _ _ only_refl) ?_
      | with_reducible refine mem_of_frame (startAnnex_only (by simp) _ _ _ _ _ only_refl) ?_ | with_reducible apply commitRun_mem
      | with_reducible refine runWf (rowfElems_grows _ _ _ (grows_refl _)) ?_ | with_reducible refine runWf (runRowf_grows _ _ _ _ (grows_refl _)) ?_
      | with_reducible apply mem_ite | with_reducible apply runOf_wf | with_reducible apply memPut_wf | with_reducible apply writeWhole_wf
      | with_reducible apply placeBufs_wf | with_reducible apply putModes_wf | with_reducible apply resetBlocks_wf | with_reducible apply argBufs_wf
      | with_reducible apply clearGranule_wf | with_reducible apply landWrite_wf | with_reducible apply storeWord_wf | with_reducible apply serveUnits_wf
      | (simp +zetaDelta only [readLines_mem, readLine_mem, cleanLines_mem, setOwn_mem, setLine_mem, modErr_mem, setRing_mem, logUncorrectable_mem, giveGranules_mem, addUnit_mem, readTraffic_mem, advanceTail_mem, setOwns_mem, setOwnsBy_mem, startClearing_mem, closeOn_mem, closeCtx_mem, copyStores_mem, poisonBank_mem, writeBackLine_mem, setRings_mem, placeRings_mem, deliverUnits_mem, dropAccesses_mem, dropImage_mem, returnTake_mem, advanceHead_mem])
      | with_reducible apply mem_wf | with_reducible apply mem_foldl | intro _ | (split))

theorem scrubEff_mem (a1 a2 : Nat) {s : State} (h : memWf s = true) : memWf (scrubEff s a1 a2) = true := by
  fun_cases scrubEff s a1 a2
  all_goals (intros; (try dsimp only); repeat' first
      | with_reducible assumption | with_reducible refine mem_of_frame (blameBank_only (by simp) (by simp) (by simp) (by simp) _ _ only_refl) ?_
      | with_reducible apply putStore_mem | with_reducible apply mem_ite | with_reducible apply runOf_wf | with_reducible apply memPut_wf
      | with_reducible apply writeWhole_wf | with_reducible apply placeBufs_wf | with_reducible apply putModes_wf | with_reducible apply resetBlocks_wf
      | with_reducible apply argBufs_wf | with_reducible apply clearGranule_wf | with_reducible apply landWrite_wf | with_reducible apply storeWord_wf
      | with_reducible apply serveUnits_wf
      | (simp +zetaDelta only [readLines_mem, readLine_mem, cleanLines_mem, setOwn_mem, setLine_mem, modErr_mem, setRing_mem, logUncorrectable_mem, giveGranules_mem, addUnit_mem, readTraffic_mem, advanceTail_mem, setOwns_mem, setOwnsBy_mem, startClearing_mem, closeOn_mem, closeCtx_mem, copyStores_mem, poisonBank_mem, writeBackLine_mem, setRings_mem, placeRings_mem, deliverUnits_mem, dropAccesses_mem, dropImage_mem, returnTake_mem, advanceHead_mem])
      | with_reducible apply mem_wf | with_reducible apply mem_foldl | intro _ | (split))

theorem selfTestEff_mem (a1 : List (Stage × List Finding)) (a2 : List Nat) {s : State} (h : memWf s = true) : memWf (selfTestEff s a1 a2) = true := by
  fun_cases selfTestEff s a1 a2
  all_goals (intros; (try dsimp only); repeat' first
      | with_reducible assumption | with_reducible refine mem_of_frame (setIFull_only (by simp) _ only_refl) ?_
      | with_reducible refine mem_of_frame (selfTestFails_only (by simp) (by simp) (by simp) (by simp) (by simp) (by simp) (by simp) (by simp) _ only_refl) ?_
      | with_reducible apply restoreMap_mem | with_reducible refine mem_of_frame (settleHealth_only (by simp) (by simp) (by simp) only_refl) ?_
      | with_reducible refine mem_of_frame (leaveSelfTest_only (by simp) (by simp) (by simp) (by simp) (by simp) (by simp) (by simp) (by simp) only_refl) ?_
      | with_reducible refine mem_of_frame (failWith_only (by simp) (by simp) (by simp) (by simp) (by simp) _ only_refl) ?_
      | with_reducible apply clearStores_mem | with_reducible refine mem_of_frame (modHealth_only (by simp) _ only_refl) ?_ | with_reducible apply mem_ite
      | with_reducible apply runOf_wf | with_reducible apply memPut_wf | with_reducible apply writeWhole_wf | with_reducible apply placeBufs_wf
      | with_reducible apply putModes_wf | with_reducible apply resetBlocks_wf | with_reducible apply argBufs_wf | with_reducible apply clearGranule_wf
      | with_reducible apply landWrite_wf | with_reducible apply storeWord_wf | with_reducible apply serveUnits_wf
      | (simp +zetaDelta only [readLines_mem, readLine_mem, cleanLines_mem, setOwn_mem, setLine_mem, modErr_mem, setRing_mem, logUncorrectable_mem, giveGranules_mem, addUnit_mem, readTraffic_mem, advanceTail_mem, setOwns_mem, setOwnsBy_mem, startClearing_mem, closeOn_mem, closeCtx_mem, copyStores_mem, poisonBank_mem, writeBackLine_mem, setRings_mem, placeRings_mem, deliverUnits_mem, dropAccesses_mem, dropImage_mem, returnTake_mem, advanceHead_mem])
      | with_reducible apply mem_wf | with_reducible apply mem_foldl | intro _ | (split))

theorem sourceTake_mem (a0 : Task) (a1 : Image) (a2 : FlowRec) (a3 : ClaimRec) {s : State} (h : memWf s = true) : memWf (sourceTake a0 a1 a2 a3 s) = true := by
  fun_cases sourceTake a0 a1 a2 a3 s
  all_goals (intros; (try dsimp only); repeat' first
      | with_reducible assumption | with_reducible refine mem_of_frame (sendFlow_only (by simp) _ _ _ _ only_refl) ?_
      | with_reducible refine mem_of_frame (putFlow_only (by simp) _ only_refl) ?_ | with_reducible apply gateRun_mem
      | with_reducible refine mem_of_frame (haltTask_only (by simp) (by simp) _ _ _ _ only_refl) ?_
      | with_reducible refine runWf (ringTake_grows _ _ _ _ (grows_refl _)) ?_ | with_reducible apply mem_ite | with_reducible apply runOf_wf
      | with_reducible apply memPut_wf | with_reducible apply writeWhole_wf | with_reducible apply placeBufs_wf | with_reducible apply putModes_wf
      | with_reducible apply resetBlocks_wf | with_reducible apply argBufs_wf | with_reducible apply clearGranule_wf | with_reducible apply landWrite_wf
      | with_reducible apply storeWord_wf | with_reducible apply serveUnits_wf
      | (simp +zetaDelta only [readLines_mem, readLine_mem, cleanLines_mem, setOwn_mem, setLine_mem, modErr_mem, setRing_mem, logUncorrectable_mem, giveGranules_mem, addUnit_mem, readTraffic_mem, advanceTail_mem, setOwns_mem, setOwnsBy_mem, startClearing_mem, closeOn_mem, closeCtx_mem, copyStores_mem, poisonBank_mem, writeBackLine_mem, setRings_mem, placeRings_mem, deliverUnits_mem, dropAccesses_mem, dropImage_mem, returnTake_mem, advanceHead_mem])
      | with_reducible apply mem_wf | with_reducible apply mem_foldl | intro _ | (split))

theorem slotEff_mem (a1 a2 : Nat) {s : State} (h : memWf s = true) : memWf (slotEff s a1 a2) = true := by
  fun_cases slotEff s a1 a2
  all_goals (intros; (try dsimp only); repeat' first
      | with_reducible assumption | with_reducible refine mem_of_frame (transitSend_only (by simp) _ _ only_refl) ?_ | with_reducible apply sourceTake_mem
      | with_reducible apply mem_ite | with_reducible apply runOf_wf | with_reducible apply memPut_wf | with_reducible apply writeWhole_wf
      | with_reducible apply placeBufs_wf | with_reducible apply putModes_wf | with_reducible apply resetBlocks_wf | with_reducible apply argBufs_wf
      | with_reducible apply clearGranule_wf | with_reducible apply landWrite_wf | with_reducible apply storeWord_wf | with_reducible apply serveUnits_wf
      | (simp +zetaDelta only [readLines_mem, readLine_mem, cleanLines_mem, setOwn_mem, setLine_mem, modErr_mem, setRing_mem, logUncorrectable_mem, giveGranules_mem, addUnit_mem, readTraffic_mem, advanceTail_mem, setOwns_mem, setOwnsBy_mem, startClearing_mem, closeOn_mem, closeCtx_mem, copyStores_mem, poisonBank_mem, writeBackLine_mem, setRings_mem, placeRings_mem, deliverUnits_mem, dropAccesses_mem, dropImage_mem, returnTake_mem, advanceHead_mem])
      | with_reducible apply mem_wf | with_reducible apply mem_foldl | intro _ | (split))

theorem startHard_mem (a0 : BitVec 64) (a1 : BitVec 384) (a2 : BitVec 16) {s : State} (h : memWf s = true) : memWf (startHard a0 a1 a2 s) = true := by
  fun_cases startHard a0 a1 a2 s
  all_goals (intros; (try dsimp only); repeat' first
      | with_reducible assumption | with_reducible refine mem_of_frame (setPhase_only (by simp) (by simp) (by simp) (by simp) _ only_refl) ?_
      | with_reducible apply hardReset_mem | with_reducible apply mem_ite | with_reducible apply runOf_wf | with_reducible apply memPut_wf
      | with_reducible apply writeWhole_wf | with_reducible apply placeBufs_wf | with_reducible apply putModes_wf | with_reducible apply resetBlocks_wf
      | with_reducible apply argBufs_wf | with_reducible apply clearGranule_wf | with_reducible apply landWrite_wf | with_reducible apply storeWord_wf
      | with_reducible apply serveUnits_wf
      | (simp +zetaDelta only [readLines_mem, readLine_mem, cleanLines_mem, setOwn_mem, setLine_mem, modErr_mem, setRing_mem, logUncorrectable_mem, giveGranules_mem, addUnit_mem, readTraffic_mem, advanceTail_mem, setOwns_mem, setOwnsBy_mem, startClearing_mem, closeOn_mem, closeCtx_mem, copyStores_mem, poisonBank_mem, writeBackLine_mem, setRings_mem, placeRings_mem, deliverUnits_mem, dropAccesses_mem, dropImage_mem, returnTake_mem, advanceHead_mem])
      | with_reducible apply mem_wf | with_reducible apply mem_foldl | intro _ | (split) | with_reducible apply mem_mk)

theorem stewardRestart_mem {s : State} (h : memWf s = true) : memWf (stewardRestart s) = true := by
  unfold stewardRestart
  dsimp only
  refine mem_of_frame (by apply settleHealth_only <;> first | exact only_refl | simp) (mem_store ?_)
  show Memory.wf storeReset.mem = true
  decide

theorem storeCopyEff_mem (a1 : Nat) (a2 : MsgWord) (a3 : Option (List Byte)) {s : State} (h : memWf s = true) : memWf (storeCopyEff s a1 a2 a3) = true := by
  fun_cases storeCopyEff s a1 a2 a3
  all_goals (intros; (try dsimp only); repeat' first
      | with_reducible assumption | with_reducible apply scramble_mem
      | with_reducible refine mem_of_frame (copyOut_only (by simp) (by simp) (by simp) _ _ _ _ only_refl) ?_ | with_reducible apply copyLines_mem
      | (with_reducible refine modStore_mem _ (fun _ _ => ?_) ?_)
      | with_reducible refine mem_of_frame (respond_only (by simp) (by simp) (by simp) _ _ _ only_refl) ?_ | with_reducible apply mem_ite
      | with_reducible apply runOf_wf | with_reducible apply memPut_wf | with_reducible apply writeWhole_wf | with_reducible apply placeBufs_wf
      | with_reducible apply putModes_wf | with_reducible apply resetBlocks_wf | with_reducible apply argBufs_wf | with_reducible apply clearGranule_wf
      | with_reducible apply landWrite_wf | with_reducible apply storeWord_wf | with_reducible apply serveUnits_wf
      | (simp +zetaDelta only [readLines_mem, readLine_mem, cleanLines_mem, setOwn_mem, setLine_mem, modErr_mem, setRing_mem, logUncorrectable_mem, giveGranules_mem, addUnit_mem, readTraffic_mem, advanceTail_mem, setOwns_mem, setOwnsBy_mem, startClearing_mem, closeOn_mem, closeCtx_mem, copyStores_mem, poisonBank_mem, writeBackLine_mem, setRings_mem, placeRings_mem, deliverUnits_mem, dropAccesses_mem, dropImage_mem, returnTake_mem, advanceHead_mem])
      | with_reducible apply mem_wf | with_reducible apply mem_foldl | intro _ | (split))

theorem warnEarly_mem {s : State} (h : memWf s = true) : memWf (warnEarly s) = true := by
  fun_cases warnEarly s
  all_goals (intros; (try dsimp only); repeat' first
      | with_reducible assumption | with_reducible apply dropNext_mem | with_reducible refine mem_of_frame (modSeq_only (by simp) _ only_refl) ?_
      | with_reducible apply mem_ite | with_reducible apply runOf_wf | with_reducible apply memPut_wf | with_reducible apply writeWhole_wf
      | with_reducible apply placeBufs_wf | with_reducible apply putModes_wf | with_reducible apply resetBlocks_wf | with_reducible apply argBufs_wf
      | with_reducible apply clearGranule_wf | with_reducible apply landWrite_wf | with_reducible apply storeWord_wf | with_reducible apply serveUnits_wf
      | (simp +zetaDelta only [readLines_mem, readLine_mem, cleanLines_mem, setOwn_mem, setLine_mem, modErr_mem, setRing_mem, logUncorrectable_mem, giveGranules_mem, addUnit_mem, readTraffic_mem, advanceTail_mem, setOwns_mem, setOwnsBy_mem, startClearing_mem, closeOn_mem, closeCtx_mem, copyStores_mem, poisonBank_mem, writeBackLine_mem, setRings_mem, placeRings_mem, deliverUnits_mem, dropAccesses_mem, dropImage_mem, returnTake_mem, advanceHead_mem])
      | with_reducible apply mem_wf | with_reducible apply mem_foldl | intro _ | (split))

theorem supplyWarnEff_mem {s : State} (h : memWf s = true) : memWf (supplyWarnEff s) = true := by
  fun_cases supplyWarnEff s
  all_goals (intros; (try dsimp only); repeat' first
      | with_reducible assumption | with_reducible apply warnEarly_mem | with_reducible refine mem_of_frame (modSeq_only (by simp) _ only_refl) ?_
      | with_reducible apply mem_ite | with_reducible apply runOf_wf | with_reducible apply memPut_wf | with_reducible apply writeWhole_wf
      | with_reducible apply placeBufs_wf | with_reducible apply putModes_wf | with_reducible apply resetBlocks_wf | with_reducible apply argBufs_wf
      | with_reducible apply clearGranule_wf | with_reducible apply landWrite_wf | with_reducible apply storeWord_wf | with_reducible apply serveUnits_wf
      | (simp +zetaDelta only [readLines_mem, readLine_mem, cleanLines_mem, setOwn_mem, setLine_mem, modErr_mem, setRing_mem, logUncorrectable_mem, giveGranules_mem, addUnit_mem, readTraffic_mem, advanceTail_mem, setOwns_mem, setOwnsBy_mem, startClearing_mem, closeOn_mem, closeCtx_mem, copyStores_mem, poisonBank_mem, writeBackLine_mem, setRings_mem, placeRings_mem, deliverUnits_mem, dropAccesses_mem, dropImage_mem, returnTake_mem, advanceHead_mem])
      | with_reducible apply mem_wf | with_reducible apply mem_foldl | intro _ | (split))

theorem takeEffectEff_mem {s : State} (h : memWf s = true) : memWf (takeEffectEff s) = true := by
  fun_cases takeEffectEff s
  all_goals (intros; (try dsimp only); repeat' first
      | with_reducible assumption | with_reducible apply stewardRestart_mem | with_reducible apply startHard_mem
      | with_reducible refine mem_of_frame (setPhase_only (by simp) (by simp) (by simp) (by simp) _ only_refl) ?_
      | with_reducible refine mem_of_frame (modSeq_only (by simp) _ only_refl) ?_ | with_reducible apply mem_ite | with_reducible apply runOf_wf
      | with_reducible apply memPut_wf | with_reducible apply writeWhole_wf | with_reducible apply placeBufs_wf | with_reducible apply putModes_wf
      | with_reducible apply resetBlocks_wf | with_reducible apply argBufs_wf | with_reducible apply clearGranule_wf | with_reducible apply landWrite_wf
      | with_reducible apply storeWord_wf | with_reducible apply serveUnits_wf
      | (simp +zetaDelta only [readLines_mem, readLine_mem, cleanLines_mem, setOwn_mem, setLine_mem, modErr_mem, setRing_mem, logUncorrectable_mem, giveGranules_mem, addUnit_mem, readTraffic_mem, advanceTail_mem, setOwns_mem, setOwnsBy_mem, startClearing_mem, closeOn_mem, closeCtx_mem, copyStores_mem, poisonBank_mem, writeBackLine_mem, setRings_mem, placeRings_mem, deliverUnits_mem, dropAccesses_mem, dropImage_mem, returnTake_mem, advanceHead_mem])
      | with_reducible apply mem_wf | with_reducible apply mem_foldl | intro _ | (split))

theorem takeoverEff_mem {s : State} (h : memWf s = true) : memWf (takeoverEff s) = true := by
  have h0 : memWf (failOver (executingBoxes s) s) = true := failOver_mem _ h
  unfold takeoverEff
  generalize failOver (executingBoxes s) s = t at h0 ⊢
  dsimp only
  refine mem_of_frame (by apply settleHealth_only <;> first | exact only_refl | simp) ?_
  refine mem_of_frame (by apply markSpare_only <;> first | exact only_refl | simp) ?_
  refine mem_of_frame (by apply haltAll_only <;> first | exact only_refl | simp) ?_
  refine mem_of_frame (by apply modHealth_only <;> first | exact only_refl | simp) ?_
  refine mem_of_frame (by apply modUnit_only <;> first | exact only_refl | simp) ?_
  refine mem_of_frame (by apply countFault_only <;> first | exact only_refl | simp) ?_
  refine mem_of_frame (by apply modMap_only <;> first | exact only_refl | simp) ?_
  refine mem_of_frame (by apply undoRaise_only <;> first | exact only_refl | simp) ?_
  exact mem_mk h0

theorem taskHaltedEff_mem (a1 : Nat) {s : State} (h : memWf s = true) : memWf (taskHaltedEff s a1) = true := by
  fun_cases taskHaltedEff s a1
  all_goals (intros; (try dsimp only); repeat' first
      | with_reducible assumption | with_reducible refine mem_of_frame (sendBack_only (by simp) (by simp) (by simp) _ only_refl) ?_
      | with_reducible apply scramble_mem | with_reducible refine mem_of_frame (resetAnswer_only (by simp) (by simp) (by simp) (by simp) only_refl) ?_
      | with_reducible refine mem_of_frame (sayHalted_only (by simp) (by simp) _ only_refl) ?_ | with_reducible apply releaseTask_mem
      | with_reducible refine mem_of_frame (answerAborts_only (by simp) (by simp) (by simp) _ _ _ only_refl) ?_
      | with_reducible refine mem_of_frame (promote_only (by simp) only_refl) ?_
      | with_reducible refine mem_of_frame (finishTask_only (by simp) (by simp) (by simp) (by simp) _ _ _ only_refl) ?_
      | with_reducible refine mem_of_frame (modTask_only (by simp) _ _ only_refl) ?_ | with_reducible apply mem_ite | with_reducible apply runOf_wf
      | with_reducible apply memPut_wf | with_reducible apply writeWhole_wf | with_reducible apply placeBufs_wf | with_reducible apply putModes_wf
      | with_reducible apply resetBlocks_wf | with_reducible apply argBufs_wf | with_reducible apply clearGranule_wf | with_reducible apply landWrite_wf
      | with_reducible apply storeWord_wf | with_reducible apply serveUnits_wf
      | (simp +zetaDelta only [readLines_mem, readLine_mem, cleanLines_mem, setOwn_mem, setLine_mem, modErr_mem, setRing_mem, logUncorrectable_mem, giveGranules_mem, addUnit_mem, readTraffic_mem, advanceTail_mem, setOwns_mem, setOwnsBy_mem, startClearing_mem, closeOn_mem, closeCtx_mem, copyStores_mem, poisonBank_mem, writeBackLine_mem, setRings_mem, placeRings_mem, deliverUnits_mem, dropAccesses_mem, dropImage_mem, returnTake_mem, advanceHead_mem])
      | with_reducible apply mem_wf | with_reducible apply mem_foldl | intro _ | (split))

theorem vauxFallEff_mem {s : State} (h : memWf s = true) : memWf (vauxFallEff s) = true := by
  fun_cases vauxFallEff s
  all_goals (intros; (try dsimp only); repeat' first
      | with_reducible assumption | with_reducible refine mem_of_frame (modSeq_only (by simp) _ only_refl) ?_ | with_reducible apply hardReset_mem
      | with_reducible apply mem_ite | with_reducible apply runOf_wf | with_reducible apply memPut_wf | with_reducible apply writeWhole_wf
      | with_reducible apply placeBufs_wf | with_reducible apply putModes_wf | with_reducible apply resetBlocks_wf | with_reducible apply argBufs_wf
      | with_reducible apply clearGranule_wf | with_reducible apply landWrite_wf | with_reducible apply storeWord_wf | with_reducible apply serveUnits_wf
      | (simp +zetaDelta only [readLines_mem, readLine_mem, cleanLines_mem, setOwn_mem, setLine_mem, modErr_mem, setRing_mem, logUncorrectable_mem, giveGranules_mem, addUnit_mem, readTraffic_mem, advanceTail_mem, setOwns_mem, setOwnsBy_mem, startClearing_mem, closeOn_mem, closeCtx_mem, copyStores_mem, poisonBank_mem, writeBackLine_mem, setRings_mem, placeRings_mem, deliverUnits_mem, dropAccesses_mem, dropImage_mem, returnTake_mem, advanceHead_mem])
      | with_reducible apply mem_wf | with_reducible apply mem_foldl | intro _ | (split))

theorem wakeEff_mem {s : State} (h : memWf s = true) : memWf (wakeEff s) = true := by
  fun_cases wakeEff s
  all_goals (intros; (try dsimp only); repeat' first
      | with_reducible assumption | with_reducible refine mem_of_frame (powerUp_only (by simp) only_refl) ?_
      | with_reducible refine mem_of_frame (modSeq_only (by simp) _ only_refl) ?_ | with_reducible apply hardReset_mem | with_reducible apply mem_ite
      | with_reducible apply runOf_wf | with_reducible apply memPut_wf | with_reducible apply writeWhole_wf | with_reducible apply placeBufs_wf
      | with_reducible apply putModes_wf | with_reducible apply resetBlocks_wf | with_reducible apply argBufs_wf | with_reducible apply clearGranule_wf
      | with_reducible apply landWrite_wf | with_reducible apply storeWord_wf | with_reducible apply serveUnits_wf
      | (simp +zetaDelta only [readLines_mem, readLine_mem, cleanLines_mem, setOwn_mem, setLine_mem, modErr_mem, setRing_mem, logUncorrectable_mem, giveGranules_mem, addUnit_mem, readTraffic_mem, advanceTail_mem, setOwns_mem, setOwnsBy_mem, startClearing_mem, closeOn_mem, closeCtx_mem, copyStores_mem, poisonBank_mem, writeBackLine_mem, setRings_mem, placeRings_mem, deliverUnits_mem, dropAccesses_mem, dropImage_mem, returnTake_mem, advanceHead_mem])
      | with_reducible apply mem_wf | with_reducible apply mem_foldl | intro _ | (split))

theorem windowCloseEff_mem (a1 : Nat) (a2 : MsgWord) {s : State} (h : memWf s = true) : memWf (windowCloseEff s a1 a2) = true := by
  fun_cases windowCloseEff s a1 a2
  all_goals (intros; (try dsimp only); repeat' first
      | with_reducible assumption | with_reducible apply beginClose_mem
      | with_reducible refine mem_of_frame (respond_only (by simp) (by simp) (by simp) _ _ _ only_refl) ?_ | with_reducible apply mem_ite
      | with_reducible apply runOf_wf | with_reducible apply memPut_wf | with_reducible apply writeWhole_wf | with_reducible apply placeBufs_wf
      | with_reducible apply putModes_wf | with_reducible apply resetBlocks_wf | with_reducible apply argBufs_wf | with_reducible apply clearGranule_wf
      | with_reducible apply landWrite_wf | with_reducible apply storeWord_wf | with_reducible apply serveUnits_wf
      | (simp +zetaDelta only [readLines_mem, readLine_mem, cleanLines_mem, setOwn_mem, setLine_mem, modErr_mem, setRing_mem, logUncorrectable_mem, giveGranules_mem, addUnit_mem, readTraffic_mem, advanceTail_mem, setOwns_mem, setOwnsBy_mem, startClearing_mem, closeOn_mem, closeCtx_mem, copyStores_mem, poisonBank_mem, writeBackLine_mem, setRings_mem, placeRings_mem, deliverUnits_mem, dropAccesses_mem, dropImage_mem, returnTake_mem, advanceHead_mem])
      | with_reducible apply mem_wf | with_reducible apply mem_foldl | intro _ | (split))

theorem windowOpenEff_mem (a1 : Nat) (a2 : MsgWord) {s : State} (h : memWf s = true) : memWf (windowOpenEff s a1 a2) = true := by
  fun_cases windowOpenEff s a1 a2
  all_goals (intros; (try dsimp only); repeat' first
      | with_reducible assumption | (with_reducible refine modStore_mem _ (fun _ _ => ?_) ?_)
      | with_reducible refine mem_of_frame (respond_only (by simp) (by simp) (by simp) _ _ _ only_refl) ?_ | with_reducible apply mem_ite
      | with_reducible apply runOf_wf | with_reducible apply memPut_wf | with_reducible apply writeWhole_wf | with_reducible apply placeBufs_wf
      | with_reducible apply putModes_wf | with_reducible apply resetBlocks_wf | with_reducible apply argBufs_wf | with_reducible apply clearGranule_wf
      | with_reducible apply landWrite_wf | with_reducible apply storeWord_wf | with_reducible apply serveUnits_wf
      | (simp +zetaDelta only [readLines_mem, readLine_mem, cleanLines_mem, setOwn_mem, setLine_mem, modErr_mem, setRing_mem, logUncorrectable_mem, giveGranules_mem, addUnit_mem, readTraffic_mem, advanceTail_mem, setOwns_mem, setOwnsBy_mem, startClearing_mem, closeOn_mem, closeCtx_mem, copyStores_mem, poisonBank_mem, writeBackLine_mem, setRings_mem, placeRings_mem, deliverUnits_mem, dropAccesses_mem, dropImage_mem, returnTake_mem, advanceHead_mem])
      | with_reducible apply mem_wf | with_reducible apply mem_foldl | intro _ | (split))

end Sys2Proof.Machine
end

