-- ==== Sys2Proof/Laws/Rooms.lean ====
section
/-!
SUPPORT. Every operation of the machine keeps what holds of each room: g0 is zero (06 R160), and the ops in flight have their places in the order of issue (06 R192). One
lemma for each operation that touches a room.
-/
namespace Sys2Proof.Machine

set_option linter.unusedTactic false
set_option linter.unreachableTactic false
set_option maxRecDepth 4000
set_option linter.unusedVariables false
set_option linter.unusedSimpArgs false

/-- What holds of a room: g0 is zero, and each op in flight was issued before those to come. -/
def roomOk (x : Room) : Prop := tabGet 0 x.g 0 = 0 ∧ ∀ f ∈ x.inflight, f.seq < x.issued

/-- It holds of every room. -/
structure roomsHeld (s : State) : Prop where
  room : ∀ r, roomOk (roomOf s r)

theorem roomsHeld_iff (s : State) : roomsHeld s ↔ scalarZero s ∧ issueOrder s :=
  ⟨fun h => ⟨fun r => (h.room r).1, fun r => (h.room r).2⟩, fun h => ⟨fun r => ⟨h.1 r, h.2 r⟩⟩⟩

theorem roomZero_ok : roomOk roomZero := ⟨rfl, by intro f hf; cases hf⟩

theorem rooms_of_eq {s t : State} (h : t.rooms = s.rooms) (hs : roomsHeld s) : roomsHeld t := by
  refine ⟨fun r => ?_⟩
  have : roomOf t r = roomOf s r := by unfold roomOf; rw [h]
  rw [this]; exact hs.room r

/-- An operation that leaves the rooms alone keeps it. -/
theorem rooms_of_frame {s t : State} (h : changesOnly (fun p => p ≠ .rooms) s t) (hs : roomsHeld s) : roomsHeld t :=
  rooms_of_eq (h.same .rooms (fun k => k rfl)) hs

theorem rooms_ite {s t : State} {c : Prop} [Decidable c] (h : roomsHeld s) (h' : roomsHeld t) : roomsHeld (if c then s else t) := by
  split <;> assumption

theorem rooms_foldl {α : Type} (g : State → α → State) (hg : ∀ s x, roomsHeld s → roomsHeld (g s x)) (l : List α) {s : State} (h : roomsHeld s) :
    roomsHeld (l.foldl g s) := by
  induction l generalizing s with
  | nil => exact h
  | cons x xs ih => exact ih (hg _ _ h)

/-- A change of a room that keeps the rule for that room. -/
theorem modRoom_held (k : Nat) (f : Room → Room) {s : State} (hf : ∀ x, roomOk x → roomOk (f x)) (h : roomsHeld s) : roomsHeld (modRoom k f s) := by
  refine ⟨fun r => ?_⟩
  by_cases e : r = k
  · subst e; rw [roomOf_modRoom]; exact hf _ (h.room r)
  · rw [roomOf_modRoom_ne e]; exact h.room r

theorem modSteward_held (f) {s : State} (h : roomsHeld s) : roomsHeld (modSteward f s) := ⟨h.room⟩
theorem modShell_held (f) {s : State} (h : roomsHeld s) : roomsHeld (modShell f s) := ⟨h.room⟩
theorem modHost_held (f) {s : State} (h : roomsHeld s) : roomsHeld (modHost f s) := ⟨h.room⟩

/-- The values written to a register file leave g0 at zero. -/
theorem setG_zero (g : Tab (BitVec 32)) (d : Nat) (v : BitVec 32) (h : tabGet 0 g 0 = 0) : tabGet 0 (setG g d v) 0 = 0 := by
  unfold setG
  split
  · exact h
  · next hd => rw [tabGet_put, if_neg hd]; exact h

/-- An op in flight put back keeps its place. -/
theorem flight_ok (x : Room) (f : InFlight) (h : roomOk x) : roomOk { x with inflight := x.inflight.map fun g => if g.seq = f.seq then f else g } := by
  refine ⟨h.1, ?_⟩
  intro k hk
  obtain ⟨g, hg, rfl⟩ := List.mem_map.mp hk
  have := h.2 g hg
  split
  · next e => rw [← e]; exact this
  · exact this

/-- Fewer ops in flight. -/
theorem flight_filter_ok (x : Room) (p : InFlight → Bool) (h : roomOk x) : roomOk { x with inflight := x.inflight.filter p } :=
  ⟨h.1, fun f hf => h.2 f (List.mem_of_mem_filter hf)⟩

theorem popOps_held (room k : Nat) {s : State} (h : roomsHeld s) : roomsHeld (popOps room k s) :=
  modRoom_held _ _ (fun x hx => ⟨hx.1, fun f hf => Nat.lt_succ_of_lt (hx.2 f hf)⟩) h

/-- An op engages its units in the order of issue. -/
theorem engage_held (room n : Nat) (x : Room) (w w2 : OpWord) (pos : Nat) {s : State} (hx : x.issued < (roomOf s room).issued) (h : roomsHeld s) :
    roomsHeld (engage room n x w w2 pos s) := by
  unfold engage
  refine rooms_of_frame (by apply endGaps_only <;> first | exact only_refl | simp) ?_
  refine ⟨fun r => ?_⟩
  by_cases e : r = room
  · subst e
    rw [roomOf_modRoom]
    refine ⟨(h.room r).1, ?_⟩
    intro f hf
    rcases List.mem_append.mp hf with hf | hf
    · exact (h.room r).2 f hf
    · simp only [List.mem_singleton] at hf
      subst hf; exact hx
  · rw [roomOf_modRoom_ne e]; exact h.room r

theorem slotPart_held (room n : Nat) (x : Room) (w : OpWord) {s : State} (h : roomsHeld s) : roomsHeld (slotPart room n x w s) := by
  unfold slotPart
  dsimp only
  split
  · exact modRoom_held _ _ (fun _ h => h) h
  · split
    · exact modRoom_held _ _ (fun y hy => ⟨setG_zero _ _ _ hy.1, hy.2⟩) h
    · exact h

/-- g0 of the register file at launch. -/
theorem launchRegs_zero (t : Task) (room : Nat) : tabGet 0 (launchRegs t room) 0 = 0 := by
  have key : ∀ (l : List Nat) (g : Tab (BitVec 32)), tabGet 0 g 0 = 0 →
      tabGet 0 (l.foldl (fun g k => tabPut 0 g (k + 1) (t.args.getD k 0)) g) 0 = 0 := by
    intro l
    induction l with
    | nil => intro g h; exact h
    | cons k l ih => intro g h; exact ih _ (by rw [tabGet_put, if_neg (Nat.succ_ne_zero k)]; exact h)
  unfold launchRegs
  dsimp only
  rw [tabGet_put, if_neg (by decide), tabGet_put, if_neg (by decide)]
  exact key _ _ rfl

theorem startRooms_held (V : Variant) (t : Task) (rs : List RoomRec) {s : State} (h : roomsHeld s) : roomsHeld (startRooms V t rs s) := by
  induction rs generalizing s with
  | nil => exact h
  | cons r rs ih =>
    refine ih ?_
    refine ⟨fun k => ?_⟩
    unfold roomOf
    by_cases e : k = r.room
    · subst e
      rw [tabGet_put, if_pos rfl]
      exact ⟨launchRegs_zero t r.room, by intro f hf; cases hf⟩
    · rw [tabGet_put, if_neg (Ne.symm e)]; exact h.room k

theorem rooms_mk {s : State} (h : roomsHeld s) {a b c d f g i j k l m n o p q u v} : roomsHeld ⟨a, b, c, d, s.rooms, f, g, i, j, k, l, m, n, o, p, q, u, v⟩ := ⟨h.room⟩

theorem addSignal_held (a0 a1 : Nat) {s : State} (h : roomsHeld s) : roomsHeld (addSignal a0 a1 s) :=
  modRoom_held _ _ (fun y hy => by
    dsimp only
    split
    · split <;> exact ⟨hy.1, hy.2⟩
    · exact ⟨hy.1, hy.2⟩) h

theorem noteArrival_held (a0 : Nat) {s : State} (h : roomsHeld s) : roomsHeld (noteArrival a0 s) := by
  fun_cases noteArrival a0 s
  all_goals (intros; (try dsimp only); repeat' first
      | with_reducible assumption | (exact fun _ h => ⟨h.1, h.2⟩) | (exact fun _ _ => roomZero_ok) | with_reducible apply modRoom_held
      | with_reducible apply modRoom_held | with_reducible apply rooms_ite | with_reducible apply rooms_foldl | intro _ | (split))

theorem raiseFault_held (a0 a1 a2 a3 a4 a5 : Nat) {s : State} (h : roomsHeld s) : roomsHeld (raiseFault a0 a1 a2 a3 a4 a5 s) :=
  modRoom_held _ _ (fun x hx => by split <;> exact hx) h

theorem commitRun_held (a0 a1 a2 a3 : Nat) (a4 : Run) {s : State} (h : roomsHeld s) : roomsHeld (commitRun a0 a1 a2 a3 a4 s) := by
  fun_cases commitRun a0 a1 a2 a3 a4 s
  all_goals (intros; (try dsimp only); repeat' first
      | with_reducible assumption | (exact fun _ h => ⟨h.1, h.2⟩) | (exact fun _ _ => roomZero_ok) | with_reducible apply modRoom_held
      | with_reducible apply raiseFault_held | with_reducible refine rooms_of_frame (putStore_only (by simp) (by simp) (by simp) (by simp) _ only_refl) ?_
      | with_reducible refine rooms_of_frame (noteRead_only (by simp) _ _ only_refl) ?_ | with_reducible apply modRoom_held
      | with_reducible refine rooms_of_frame (modTask_only (by simp) _ _ only_refl) ?_ | with_reducible apply rooms_ite | with_reducible apply rooms_foldl
      | intro _ | (split) | with_reducible apply rooms_mk)

theorem setFlight_held (a0 : Nat) (a1 : InFlight) {s : State} (h : roomsHeld s) : roomsHeld (setFlight a0 a1 s) := by
  unfold setFlight
  exact rooms_of_frame (by apply startGaps_only <;> first | exact only_refl | simp) (modRoom_held a0 _ (flight_ok · a1) h)

theorem commitStep_held (a0 a1 : Nat) (a2 : Run × InFlight) {s : State} (h : roomsHeld s) : roomsHeld (commitStep a0 a1 a2 s) := by
  fun_cases commitStep a0 a1 a2 s
  all_goals (intros; (try dsimp only); repeat' first
      | with_reducible assumption | (exact fun _ h => ⟨h.1, h.2⟩) | (exact fun _ _ => roomZero_ok) | with_reducible apply modRoom_held
      | with_reducible apply setFlight_held | with_reducible apply commitRun_held | with_reducible apply rooms_ite | with_reducible apply rooms_foldl
      | intro _ | (split))

theorem ldsWork_held (a0 : Nat) (a1 : Env) (a2 : Room) (a3 : Task) (a4 : InFlight) {s : State} (h : roomsHeld s) : roomsHeld (ldsWork a0 a1 a2 a3 a4 s) := by
  fun_cases ldsWork a0 a1 a2 a3 a4 s
  all_goals (intros; (try dsimp only); repeat' first
      | with_reducible assumption | (exact fun _ h => ⟨h.1, h.2⟩) | (exact fun _ _ => roomZero_ok) | with_reducible apply modRoom_held
      | with_reducible apply commitStep_held | with_reducible apply setFlight_held | with_reducible apply modRoom_held | with_reducible apply rooms_ite
      | with_reducible apply rooms_foldl | intro _ | (split))

theorem startAnnex_held (a0 a1 : Nat) (a2 : Bool) (a3 : InFlight) (a4 : List AnnexElem) {s : State} (h : roomsHeld s) : roomsHeld (startAnnex a0 a1 a2 a3 a4 s) := by
  fun_cases startAnnex a0 a1 a2 a3 a4 s
  all_goals (intros; (try dsimp only); repeat' first
      | with_reducible assumption | (exact fun _ h => ⟨h.1, h.2⟩) | (exact fun _ _ => roomZero_ok) | with_reducible apply modRoom_held
      | with_reducible apply modRoom_held | with_reducible apply rooms_ite | with_reducible apply rooms_foldl | intro _ | (split))

theorem pairWork_held (a0 : Nat) (a1 : Env) (a2 : Room) (a3 : Task) (a4 : InFlight) {s : State} (h : roomsHeld s) : roomsHeld (pairWork a0 a1 a2 a3 a4 s) := by
  fun_cases pairWork a0 a1 a2 a3 a4 s
  all_goals (intros; (try dsimp only); repeat' first
      | with_reducible assumption | (exact fun _ h => ⟨h.1, h.2⟩) | (exact fun _ _ => roomZero_ok) | with_reducible apply modRoom_held
      | with_reducible apply startAnnex_held | with_reducible apply commitStep_held | with_reducible apply rooms_ite | with_reducible apply rooms_foldl
      | intro _ | (split))

theorem relayArrive_held (a0 a1 : Nat) (a2 : Bool) (a3 : List Byte) {s : State} (h : roomsHeld s) : roomsHeld (relayArrive a0 a1 a2 a3 s) := by
  fun_cases relayArrive a0 a1 a2 a3 s
  all_goals (intros; (try dsimp only); repeat' first
      | with_reducible assumption | (exact fun _ h => ⟨h.1, h.2⟩) | (exact fun _ _ => roomZero_ok) | with_reducible apply modRoom_held
      | with_reducible apply modRoom_held | with_reducible apply rooms_ite | with_reducible apply rooms_foldl | intro _ | (split))

theorem relayWork_held (a0 : Nat) (a1 : Env) (a2 : Room) (a3 : Task) (a4 : InFlight) {s : State} (h : roomsHeld s) : roomsHeld (relayWork a0 a1 a2 a3 a4 s) := by
  unfold relayWork
  extract_lets l next rest send q c
  have hs : ∀ bs t, roomsHeld t → roomsHeld (send bs t) := by
    intro bs t ht
    show roomsHeld (match chainAfter a1.var a0 with
    | n :: ns => relayArrive n (relayBytes l) ns.isEmpty bs t
    | [] => t)
    split
    · exact relayArrive_held _ _ _ _ ht
    · exact ht
  refine rooms_ite ?_ ?_
  · split
    · exact hs _ _ (setFlight_held _ _ (modRoom_held _ _ (fun _ h => ⟨h.1, h.2⟩) h))
    · exact h
  · have hc : roomsHeld c := commitStep_held _ _ _ h
    exact rooms_ite hc (hs _ _ hc)

theorem signalWork_held (a0 : Nat) (a1 : InFlight) {s : State} (h : roomsHeld s) : roomsHeld (signalWork a0 a1 s) := by
  unfold signalWork
  dsimp only
  exact rooms_ite (raiseFault_held _ _ _ _ _ _ h) (addSignal_held _ _ (modRoom_held _ _ (fun x hx => flight_filter_ok x _ hx) h))

theorem stuffWork_held (a0 : Nat) (a1 : Env) (a2 : Room) (a3 : Task) (a4 : InFlight) {s : State} (h : roomsHeld s) : roomsHeld (stuffWork a0 a1 a2 a3 a4 s) := by
  fun_cases stuffWork a0 a1 a2 a3 a4 s
  all_goals (intros; (try dsimp only); repeat' first
      | with_reducible assumption | (exact fun _ h => ⟨h.1, h.2⟩) | (exact fun _ _ => roomZero_ok) | with_reducible apply modRoom_held
      | with_reducible apply commitStep_held | with_reducible apply rooms_ite | with_reducible apply rooms_foldl | intro _ | (split))

theorem runStep_held (a0 : Nat) (a1 : InFlight) {s : State} (h : roomsHeld s) : roomsHeld (runStep a0 a1 s) := by
  fun_cases runStep a0 a1 s
  all_goals (intros; (try dsimp only); repeat' first
      | with_reducible assumption | (exact fun _ h => ⟨h.1, h.2⟩) | (exact fun _ _ => roomZero_ok) | with_reducible apply modRoom_held
      | with_reducible apply stuffWork_held | with_reducible apply signalWork_held | with_reducible apply relayWork_held | with_reducible apply pairWork_held
      | with_reducible apply ldsWork_held | with_reducible apply commitStep_held | with_reducible apply setFlight_held | with_reducible apply modRoom_held
      | with_reducible apply rooms_ite | with_reducible apply rooms_foldl | intro _ | (split))

theorem pacedStep_held (a0 : Nat) (a1 : InFlight) {s : State} (h : roomsHeld s) : roomsHeld (pacedStep a0 a1 s) := by
  fun_cases pacedStep a0 a1 s
  all_goals (intros; (try dsimp only); repeat' first
      | with_reducible assumption | (exact fun _ h => ⟨h.1, h.2⟩) | (exact fun _ _ => roomZero_ok) | with_reducible apply modRoom_held
      | with_reducible refine rooms_of_frame (takeAll_only (by simp) _ only_refl) ?_ | with_reducible apply runStep_held | with_reducible apply rooms_ite
      | with_reducible apply rooms_foldl | intro _ | (split))

theorem sendSignals_held (a0 a1 : Nat) {s : State} (h : roomsHeld s) : roomsHeld (sendSignals a0 a1 s) := by
  fun_induction sendSignals a0 a1 s
  all_goals intros
  all_goals repeat' first
      | with_reducible assumption | (exact fun _ h => ⟨h.1, h.2⟩) | (exact fun _ _ => roomZero_ok) | with_reducible apply modRoom_held
      | with_reducible apply_assumption | with_reducible apply pacedStep_held | with_reducible apply rooms_ite | with_reducible apply rooms_foldl | intro _
      | (split)

theorem settle_held (a0 : Nat) {s : State} (h : roomsHeld s) : roomsHeld (settle a0 s) := by
  fun_cases settle a0 s
  all_goals (intros; (try dsimp only); repeat' first
      | with_reducible assumption | (exact fun _ h => ⟨h.1, h.2⟩) | (exact fun _ _ => roomZero_ok) | with_reducible apply modRoom_held
      | with_reducible apply sendSignals_held | with_reducible apply noteArrival_held | with_reducible apply rooms_ite | with_reducible apply rooms_foldl
      | intro _ | (split))

theorem stepOnce_held (a0 a1 : Nat) {s : State} (h : roomsHeld s) : roomsHeld (stepOnce a0 a1 s) := by
  fun_cases stepOnce a0 a1 s
  all_goals (intros; (try dsimp only); repeat' first
      | with_reducible assumption | (exact fun _ h => ⟨h.1, h.2⟩) | (exact fun _ _ => roomZero_ok) | with_reducible apply modRoom_held
      | with_reducible apply pacedStep_held | with_reducible apply rooms_ite | with_reducible apply rooms_foldl | intro _ | (split))

theorem advanceRoom_held (a0 : Nat) {s : State} (h : roomsHeld s) : roomsHeld (advanceRoom a0 s) := by
  fun_cases advanceRoom a0 s
  all_goals (intros; (try dsimp only); repeat' first
      | with_reducible assumption | (exact fun _ h => ⟨h.1, h.2⟩) | (exact fun _ _ => roomZero_ok) | with_reducible apply modRoom_held
      | with_reducible apply stepOnce_held | with_reducible apply settle_held | with_reducible apply rooms_ite | with_reducible apply rooms_foldl | intro _
      | (split))

theorem advanceRooms_held {s : State} (h : roomsHeld s) : roomsHeld (advanceRooms s) := by
  fun_cases advanceRooms s
  all_goals (intros; (try dsimp only); repeat' first
      | with_reducible assumption | (exact fun _ h => ⟨h.1, h.2⟩) | (exact fun _ _ => roomZero_ok) | with_reducible apply modRoom_held
      | with_reducible apply advanceRoom_held | with_reducible apply rooms_ite | with_reducible apply rooms_foldl | intro _ | (split))

theorem hardReset_held {s : State} (h : roomsHeld s) : roomsHeld (hardReset s) := ⟨fun _ => roomZero_ok⟩

theorem dropNext_held {s : State} (h : roomsHeld s) : roomsHeld (dropNext s) := by
  fun_cases dropNext s
  all_goals (intros; (try dsimp only); repeat' first
      | with_reducible assumption | (exact fun _ h => ⟨h.1, h.2⟩) | (exact fun _ _ => roomZero_ok) | with_reducible apply modRoom_held
      | with_reducible refine rooms_of_frame (modSeq_only (by simp) _ only_refl) ?_ | with_reducible apply hardReset_held | with_reducible apply rooms_ite
      | with_reducible apply rooms_foldl | intro _ | (split))

theorem afterDrop_held (a0 : Nat) {s : State} (h : roomsHeld s) : roomsHeld (afterDrop a0 s) := by
  fun_cases afterDrop a0 s
  all_goals (intros; (try dsimp only); repeat' first
      | with_reducible assumption | (exact fun _ h => ⟨h.1, h.2⟩) | (exact fun _ _ => roomZero_ok) | with_reducible apply modRoom_held
      | with_reducible apply dropNext_held | with_reducible apply rooms_ite | with_reducible apply rooms_foldl | intro _ | (split))

theorem freeRoom_held (a0 : Nat) {s : State} (h : roomsHeld s) : roomsHeld (freeRoom a0 s) := by
  fun_cases freeRoom a0 s
  all_goals (intros; (try dsimp only); repeat' first
      | with_reducible assumption | (exact fun _ h => ⟨h.1, h.2⟩) | (exact fun _ _ => roomZero_ok) | with_reducible apply modRoom_held
      | with_reducible apply modRoom_held | with_reducible apply rooms_ite | with_reducible apply rooms_foldl | intro _ | (split))

theorem freeRooms_held (a0 : List Nat) {s : State} (h : roomsHeld s) : roomsHeld (freeRooms a0 s) := by
  fun_induction freeRooms a0 s
  all_goals intros
  all_goals repeat' first
      | with_reducible assumption | (exact fun _ h => ⟨h.1, h.2⟩) | (exact fun _ _ => roomZero_ok) | with_reducible apply modRoom_held
      | with_reducible apply_assumption | with_reducible apply freeRoom_held | with_reducible refine rooms_of_frame (phaseEnd_only (by simp) _ only_refl) ?_
      | with_reducible apply rooms_ite | with_reducible apply rooms_foldl | intro _ | (split)

theorem releaseTask_held (a0 : Nat) {s : State} (h : roomsHeld s) : roomsHeld (releaseTask a0 s) := by
  fun_cases releaseTask a0 s
  all_goals (intros; (try dsimp only); repeat' first
      | with_reducible assumption | (exact fun _ h => ⟨h.1, h.2⟩) | (exact fun _ _ => roomZero_ok) | with_reducible apply modRoom_held
      | with_reducible apply freeRooms_held | with_reducible refine rooms_of_frame (flushPorts_only (by simp) _ only_refl) ?_
      | with_reducible refine rooms_of_frame (modStore_only (by simp) _ only_refl) ?_
      | with_reducible refine rooms_of_frame (modFabric_only (by simp) _ only_refl) ?_ | with_reducible apply rooms_ite | with_reducible apply rooms_foldl
      | intro _ | (split))

theorem completePoint_held (a0 : Nat) {s : State} (h : roomsHeld s) : roomsHeld (completePoint a0 s) := by
  fun_cases completePoint a0 s
  all_goals (intros; (try dsimp only); repeat' first
      | with_reducible assumption | (exact fun _ h => ⟨h.1, h.2⟩) | (exact fun _ _ => roomZero_ok) | with_reducible apply modRoom_held
      | with_reducible apply releaseTask_held
      | with_reducible refine rooms_of_frame (commitAll_only (by simp) (by simp) (by simp) (by simp) (by simp) (by simp) _ _ _ only_refl) ?_
      | with_reducible refine rooms_of_frame (answerAborts_only (by simp) (by simp) (by simp) _ _ _ only_refl) ?_
      | with_reducible refine rooms_of_frame (promote_only (by simp) only_refl) ?_
      | with_reducible refine rooms_of_frame (finishTask_only (by simp) (by simp) (by simp) (by simp) _ _ _ only_refl) ?_
      | with_reducible refine rooms_of_frame (modTask_only (by simp) _ _ only_refl) ?_ | with_reducible apply rooms_ite | with_reducible apply rooms_foldl
      | intro _ | (split))

theorem leaderEnd_held (a0 : Nat) {s : State} (h : roomsHeld s) : roomsHeld (leaderEnd a0 s) := by
  fun_cases leaderEnd a0 s
  all_goals (intros; (try dsimp only); repeat' first
      | with_reducible assumption | (exact fun _ h => ⟨h.1, h.2⟩) | (exact fun _ _ => roomZero_ok) | with_reducible apply modRoom_held
      | with_reducible apply completePoint_held | with_reducible refine rooms_of_frame (tellMembers_only (by simp) _ _ _ _ _ only_refl) ?_
      | with_reducible apply rooms_ite | with_reducible apply rooms_foldl | intro _ | (split))

theorem allEnded_held (a0 : Nat) {s : State} (h : roomsHeld s) : roomsHeld (allEnded a0 s) := by
  fun_cases allEnded a0 s
  all_goals (intros; (try dsimp only); repeat' first
      | with_reducible assumption | (exact fun _ h => ⟨h.1, h.2⟩) | (exact fun _ _ => roomZero_ok) | with_reducible apply modRoom_held
      | with_reducible refine rooms_of_frame (markEnded_only (by simp) _ _ only_refl) ?_ | with_reducible apply leaderEnd_held
      | with_reducible apply completePoint_held | with_reducible refine rooms_of_frame (sendMgmt_only (by simp) _ _ _ _ _ _ only_refl) ?_
      | with_reducible apply rooms_ite | with_reducible apply rooms_foldl | intro _ | (split))

theorem finishAnnex_held (a1 : Nat) (a2 : AnnexJob) {s : State} (h : roomsHeld s) : roomsHeld (finishAnnex s a1 a2) := by
  fun_cases finishAnnex s a1 a2
  all_goals (intros; (try dsimp only); repeat' first
      | with_reducible assumption | (exact fun _ h => ⟨h.1, h.2⟩) | (exact fun _ _ => roomZero_ok) | with_reducible apply modRoom_held
      | with_reducible apply commitStep_held | with_reducible apply modRoom_held | with_reducible apply rooms_ite | with_reducible apply rooms_foldl | intro _
      | (split))

theorem sendOn_held (a0 a1 : Nat) {s : State} (h : roomsHeld s) : roomsHeld (sendOn a0 a1 s) := by
  fun_cases sendOn a0 a1 s
  all_goals (intros; (try dsimp only); repeat' first
      | with_reducible assumption | (exact fun _ h => ⟨h.1, h.2⟩) | (exact fun _ _ => roomZero_ok) | with_reducible apply modRoom_held
      | with_reducible apply modRoom_held | with_reducible apply rooms_ite | with_reducible apply rooms_foldl | intro _ | (split))

theorem sendAllOn_held (a0 a1 : Nat) {s : State} (h : roomsHeld s) : roomsHeld (sendAllOn a0 a1 s) := by
  fun_cases sendAllOn a0 a1 s
  all_goals (intros; (try dsimp only); repeat' first
      | with_reducible assumption | (exact fun _ h => ⟨h.1, h.2⟩) | (exact fun _ _ => roomZero_ok) | with_reducible apply modRoom_held
      | with_reducible apply sendOn_held | with_reducible apply rooms_ite | with_reducible apply rooms_foldl | intro _ | (split))

theorem annexResultEff_held (a1 a2 : Nat) (a3 : List (BitVec 32)) {s : State} (h : roomsHeld s) : roomsHeld (annexResultEff s a1 a2 a3) := by
  fun_cases annexResultEff s a1 a2 a3
  all_goals (intros; (try dsimp only); repeat' first
      | with_reducible assumption | (exact fun _ h => ⟨h.1, h.2⟩) | (exact fun _ _ => roomZero_ok) | with_reducible apply modRoom_held
      | with_reducible apply sendAllOn_held | with_reducible apply finishAnnex_held | with_reducible apply settle_held | with_reducible apply modRoom_held
      | with_reducible apply rooms_ite | with_reducible apply rooms_foldl | intro _ | (split))

theorem annexSilentEff_held (a1 : Nat) {s : State} (h : roomsHeld s) : roomsHeld (annexSilentEff s a1) := by
  fun_cases annexSilentEff s a1
  all_goals (intros; (try dsimp only); repeat' first
      | with_reducible assumption | (exact fun _ h => ⟨h.1, h.2⟩) | (exact fun _ _ => roomZero_ok) | with_reducible apply modRoom_held
      | with_reducible apply raiseFault_held | with_reducible refine rooms_of_frame (haltTask_only (by simp) (by simp) _ _ _ _ only_refl) ?_
      | with_reducible apply rooms_ite | with_reducible apply rooms_foldl | intro _ | (split))

theorem bringIn_held (a0 : Nat) (a1 : RepairAct) {s : State} (h : roomsHeld s) : roomsHeld (bringIn a0 a1 s) := by
  fun_cases bringIn a0 a1 s
  all_goals (intros; (try dsimp only); repeat' first
      | with_reducible assumption | (exact fun _ h => ⟨h.1, h.2⟩) | (exact fun _ _ => roomZero_ok) | with_reducible apply modRoom_held
      | with_reducible apply modRoom_held | with_reducible apply rooms_ite | with_reducible apply rooms_foldl | intro _ | (split)
      | with_reducible apply rooms_mk)

theorem bringInAll_held (a0 : Nat) (a1 : List RepairAct) {s : State} (h : roomsHeld s) : roomsHeld (bringInAll a0 a1 s) := by
  fun_induction bringInAll a0 a1 s
  all_goals intros
  all_goals repeat' first
      | with_reducible assumption | (exact fun _ h => ⟨h.1, h.2⟩) | (exact fun _ _ => roomZero_ok) | with_reducible apply modRoom_held
      | with_reducible apply_assumption | with_reducible apply bringIn_held | with_reducible apply rooms_ite | with_reducible apply rooms_foldl | intro _
      | (split)

/-- An op made in work steps engages its units and takes its first step. -/
theorem stepBody_held (room : Nat) (w w2 : OpWord) (E : Env) (x : Room) (t : Task) (n : Nat) {s : State} (hx : x.issued < (roomOf s room).issued)
    (h : roomsHeld s) : roomsHeld (stepBody room w w2 E x t n s) :=
  stepOnce_held _ _ (engage_held _ _ _ _ _ _ hx h)

theorem chuteBody_held (room : Nat) (w : OpWord) (E : Env) (x : Room) (t : Task) (n : Nat) {s : State} (hx : x.issued < (roomOf s room).issued)
    (h : roomsHeld s) : roomsHeld (chuteBody room w E x t n s) :=
  rooms_ite h (stepBody_held _ _ _ _ _ _ _ hx h)

theorem collapse_held (a0 a1 : Nat) {s : State} (h : roomsHeld s) : roomsHeld (collapse a0 a1 s) := by
  fun_cases collapse a0 a1 s
  all_goals (intros; (try dsimp only); repeat' first
      | with_reducible assumption | (exact fun _ h => ⟨h.1, h.2⟩) | (exact fun _ _ => roomZero_ok) | with_reducible apply modRoom_held
      | with_reducible refine rooms_of_frame (failWith_only (by simp) (by simp) (by simp) (by simp) (by simp) _ only_refl) ?_
      | with_reducible refine rooms_of_frame (modSeq_only (by simp) _ only_refl) ?_ | with_reducible apply hardReset_held | with_reducible apply rooms_ite
      | with_reducible apply rooms_foldl | intro _ | (split) | with_reducible apply rooms_mk)

theorem diagnosisEff_held (a1 a2 : Nat) (a3 : List Finding) {s : State} (h : roomsHeld s) : roomsHeld (diagnosisEff s a1 a2 a3) := by
  fun_cases diagnosisEff s a1 a2 a3
  all_goals (intros; (try dsimp only); repeat' first
      | with_reducible assumption | (exact fun _ h => ⟨h.1, h.2⟩) | (exact fun _ _ => roomZero_ok) | with_reducible apply modRoom_held
      | with_reducible refine rooms_of_frame (setRepair_only (by simp) _ _ _ only_refl) ?_
      | with_reducible refine rooms_of_frame (relocateFailed_only (by simp) _ _ only_refl) ?_
      | with_reducible refine rooms_of_frame (noteTransient_only (by simp) (by simp) (by simp) _ _ only_refl) ?_
      | with_reducible refine rooms_of_frame (trace_only (by simp) _ _ only_refl) ?_ | with_reducible apply bringInAll_held | with_reducible apply rooms_ite
      | with_reducible apply rooms_foldl | intro _ | (split))

theorem doneEff_held (a0 : Frame) {s : State} (h : roomsHeld s) : roomsHeld (doneEff a0 s) := by
  fun_cases doneEff a0 s
  all_goals (intros; (try dsimp only); repeat' first
      | with_reducible assumption | (exact fun _ h => ⟨h.1, h.2⟩) | (exact fun _ _ => roomZero_ok) | with_reducible apply modRoom_held
      | with_reducible apply completePoint_held | with_reducible apply rooms_ite | with_reducible apply rooms_foldl | intro _ | (split))

theorem endBare_held (a0 : Nat) {s : State} (h : roomsHeld s) : roomsHeld (endBare a0 s) := by
  fun_cases endBare a0 s
  all_goals (intros; (try dsimp only); repeat' first
      | with_reducible assumption | (exact fun _ h => ⟨h.1, h.2⟩) | (exact fun _ _ => roomZero_ok) | with_reducible apply modRoom_held
      | with_reducible apply allEnded_held | with_reducible apply rooms_ite | with_reducible apply rooms_foldl | intro _ | (split))

theorem endFrameEff_held (a0 : Frame) {s : State} (h : roomsHeld s) : roomsHeld (endFrameEff a0 s) := by
  fun_cases endFrameEff a0 s
  all_goals (intros; (try dsimp only); repeat' first
      | with_reducible assumption | (exact fun _ h => ⟨h.1, h.2⟩) | (exact fun _ _ => roomZero_ok) | with_reducible apply modRoom_held
      | with_reducible refine rooms_of_frame (markEnded_only (by simp) _ _ only_refl) ?_ | with_reducible apply leaderEnd_held
      | with_reducible apply rooms_ite | with_reducible apply rooms_foldl | intro _ | (split))

theorem endReportEff_held (a1 a2 : Nat) {s : State} (h : roomsHeld s) : roomsHeld (endReportEff s a1 a2) := by
  fun_cases endReportEff s a1 a2
  all_goals (intros; (try dsimp only); repeat' first
      | with_reducible assumption | (exact fun _ h => ⟨h.1, h.2⟩) | (exact fun _ _ => roomZero_ok) | with_reducible apply modRoom_held
      | with_reducible apply allEnded_held | with_reducible refine rooms_of_frame (modTask_only (by simp) _ _ only_refl) ?_ | with_reducible apply rooms_ite
      | with_reducible apply rooms_foldl | intro _ | (split))

theorem faultReportEff_held (a1 : Nat) {s : State} (h : roomsHeld s) : roomsHeld (faultReportEff s a1) := by
  unfold faultReportEff
  split
  · exact h
  · extract_lets x a u b
    have ha : roomsHeld a := modRoom_held _ _ (fun _ h => ⟨h.1, h.2⟩) h
    have hb : roomsHeld b := by
      unfold b
      cases u
      · exact ha
      · exact rooms_of_frame (by apply blame_only <;> first | exact only_refl | simp) ha
    clear_value b
    split
    · exact rooms_of_frame (by apply haltTask_only <;> first | exact only_refl | simp) hb
    · exact hb

theorem stepMany_held (a0 a1 a2 : Nat) {s : State} (h : roomsHeld s) : roomsHeld (stepMany a0 a1 a2 s) := by
  fun_induction stepMany a0 a1 a2 s
  all_goals intros
  all_goals repeat' first
      | with_reducible assumption | (exact fun _ h => ⟨h.1, h.2⟩) | (exact fun _ _ => roomZero_ok) | with_reducible apply modRoom_held
      | with_reducible apply_assumption | with_reducible apply pacedStep_held | with_reducible apply rooms_ite | with_reducible apply rooms_foldl | intro _
      | (split)

theorem finishOp_held (a0 : Nat) (a1 : InFlight) {s : State} (h : roomsHeld s) : roomsHeld (finishOp a0 a1 s) := by
  fun_cases finishOp a0 a1 s
  all_goals (intros; (try dsimp only); repeat' first
      | with_reducible assumption | (exact fun _ h => ⟨h.1, h.2⟩) | (exact fun _ _ => roomZero_ok) | with_reducible apply modRoom_held
      | with_reducible apply stepMany_held | with_reducible refine rooms_of_frame (takeAll_only (by simp) _ only_refl) ?_
      | with_reducible apply stuffWork_held | with_reducible apply rooms_ite | with_reducible apply rooms_foldl | intro _ | (split))

theorem recvLanded_held (a0 a1 : Nat) {s : State} (h : roomsHeld s) : roomsHeld (recvLanded a0 a1 s) := by
  unfold recvLanded
  refine modRoom_held _ _ (fun x hx => ⟨hx.1, ?_⟩) h
  intro f hf
  obtain ⟨g, hg, rfl⟩ := List.mem_map.mp hf
  have := hx.2 g hg
  split <;> exact this

theorem landHalo_held (a0 a1 : Nat) (a2 : HaloSlot) (a3 : List Byte) {s : State} (h : roomsHeld s) : roomsHeld (landHalo a0 a1 a2 a3 s) := by
  fun_cases landHalo a0 a1 a2 a3 s
  all_goals (intros; (try dsimp only); repeat' first
      | with_reducible assumption | (exact fun _ h => ⟨h.1, h.2⟩) | (exact fun _ _ => roomZero_ok) | with_reducible apply modRoom_held
      | with_reducible apply recvLanded_held | with_reducible apply commitRun_held | with_reducible apply rooms_ite | with_reducible apply rooms_foldl
      | intro _ | (split))

theorem markSent_held (a0 a1 a2 a3 a4 : Nat) {s : State} (h : roomsHeld s) : roomsHeld (markSent a0 a1 a2 a3 a4 s) := by
  fun_cases markSent a0 a1 a2 a3 a4 s
  all_goals (intros; (try dsimp only); repeat' first
      | with_reducible assumption | (exact fun _ h => ⟨h.1, h.2⟩) | (exact fun _ _ => roomZero_ok) | with_reducible apply modRoom_held
      | with_reducible apply modRoom_held | with_reducible apply rooms_ite | with_reducible apply rooms_foldl | intro _ | (split))

theorem haloRecv_held (a0 : Nat) (a1 : HaloF) (a2 : Room) (a3 : Nat) {s : State} (h : roomsHeld s) : roomsHeld (haloRecv a0 a1 a2 a3 s) := by
  fun_cases haloRecv a0 a1 a2 a3 s
  all_goals (intros; (try dsimp only); repeat' first
      | with_reducible assumption | (exact fun _ h => ⟨h.1, h.2⟩) | (exact fun _ _ => roomZero_ok) | with_reducible apply modRoom_held
      | with_reducible apply markSent_held | with_reducible apply landHalo_held | with_reducible apply modRoom_held | with_reducible apply rooms_ite
      | with_reducible apply rooms_foldl | intro _ | (split))

theorem haloSend_held (a0 : Nat) (a1 : HaloF) (a2 : Env) (a3 : Room) (a4 : Task) (a5 : Nat) {s : State} (h : roomsHeld s) : roomsHeld (haloSend a0 a1 a2 a3 a4
    a5 s) := by
  fun_cases haloSend a0 a1 a2 a3 a4 a5 s
  all_goals (intros; (try dsimp only); repeat' first
      | with_reducible assumption | (exact fun _ h => ⟨h.1, h.2⟩) | (exact fun _ _ => roomZero_ok) | with_reducible apply modRoom_held
      | with_reducible apply markSent_held | with_reducible apply landHalo_held | with_reducible apply commitRun_held | with_reducible apply modRoom_held
      | with_reducible apply rooms_ite | with_reducible apply rooms_foldl | intro _ | (split))

theorem haloBody_held (room : Nat) (w : OpWord) (E : Env) (x : Room) (t : Task) (n : Nat) {s : State} (hx : x.issued < (roomOf s room).issued)
    (h : roomsHeld s) : roomsHeld (haloBody room w E x t n s) :=
  rooms_ite (haloRecv_held _ _ _ _ (engage_held _ _ _ _ _ _ hx h)) (haloSend_held _ _ _ _ _ _ (engage_held _ _ _ _ _ _ hx h))

theorem handshakeEff_held (a1 : Nat) (a2 : Stage) {s : State} (h : roomsHeld s) : roomsHeld (handshakeEff s a1 a2) := by
  unfold handshakeEff
  extract_lets r task a
  have ha : roomsHeld a := by
    unfold a
    split
    · exact rooms_of_frame (by apply blame_only <;> first | exact only_refl | simp) h
    · exact rooms_of_frame (by apply blame_only <;> first | exact only_refl | simp) h
    · exact rooms_of_frame (by apply blame_only <;> first | exact only_refl | simp) h
    · exact rooms_of_frame (by apply failStage_only <;> first | exact only_refl | simp) h
  clear_value a
  exact rooms_ite (raiseFault_held _ _ _ _ _ _ ha) ha

/-- Issue: the body runs on the room as it stands once the op has left the buffer, with the room as it issued. -/
theorem issueWith_held (room opc k : Nat) (w : OpWord) (body : Env → Room → Task → Nat → State → State) {s : State}
    (hb : ∀ E t n p, (roomOf s room).issued < (roomOf p room).issued → roomsHeld p → roomsHeld (body E (roomOf s room) t n p)) (h : roomsHeld s) :
    roomsHeld (issueWith room opc k w body s) := by
  unfold issueWith
  dsimp only
  split
  · have ha : changesOnly (fun p => p = .pace) s (takeAll (.roomCore room :: wholePace room w) s) := by apply takeAll_only <;> first | exact only_refl | simp
    have hr : (takeAll (.roomCore room :: wholePace room w) s).rooms = s.rooms := ha.same .rooms (by simp)
    have hs : roomsHeld (takeAll (.roomCore room :: wholePace room w) s) := rooms_of_eq hr h
    have hp : roomsHeld (popOps room k (takeAll (.roomCore room :: wholePace room w) s)) := popOps_held _ _ hs
    refine rooms_ite (raiseFault_held _ _ _ _ _ _ hp) (slotPart_held _ _ _ _ (hb _ _ _ _ ?_ hp))
    unfold popOps
    rw [roomOf_modRoom]
    unfold roomOf
    rw [hr]
    exact Nat.lt_succ_self _
  · exact h

theorem launchTask_held (a0 : Nat) (a1 : Task) (a2 : Image) {s : State} (h : roomsHeld s) : roomsHeld (launchTask a0 a1 a2 s) := by
  unfold launchTask
  extract_lets v15 V ms a r b c d ps e
  have hb : roomsHeld b := by
    refine rooms_of_frame (by apply putStore_only <;> first | exact only_refl | simp) ?_
    exact rooms_of_frame (by apply modStore_only <;> first | exact only_refl | simp) h
  clear_value b
  have hc : roomsHeld c := startRooms_held _ _ _ hb
  clear_value c
  have he : roomsHeld e := by
    refine rooms_of_frame (by apply modTask_only <;> first | exact only_refl | simp) ?_
    exact modShell_held _ hc
  clear_value e
  refine rooms_ite ?_ (rooms_ite ?_ he)
  · refine rooms_of_frame (by apply blameBank_only <;> first | exact only_refl | simp) ?_
    exact rooms_of_frame (by apply haltTask_only <;> first | exact only_refl | simp) he
  · exact rooms_of_frame (by apply haltTask_only <;> first | exact only_refl | simp) he

theorem launchBoundaryEff_held (a1 : Nat) {s : State} (h : roomsHeld s) : roomsHeld (launchBoundaryEff s a1) := by
  fun_cases launchBoundaryEff s a1
  all_goals (intros; (try dsimp only); repeat' first
      | with_reducible assumption | (exact fun _ h => ⟨h.1, h.2⟩) | (exact fun _ _ => roomZero_ok) | with_reducible apply modRoom_held
      | with_reducible apply launchTask_held | with_reducible apply endBare_held | with_reducible refine rooms_of_frame (promote_only (by simp) only_refl) ?_
      | with_reducible refine rooms_of_frame (finishTask_only (by simp) (by simp) (by simp) (by simp) _ _ _ only_refl) ?_
      | with_reducible refine rooms_of_frame (haltTask_only (by simp) (by simp) _ _ _ _ only_refl) ?_
      | with_reducible refine rooms_of_frame (launchVoid_only (by simp) _ only_refl) ?_ | with_reducible apply rooms_ite | with_reducible apply rooms_foldl
      | intro _ | (split))

theorem releaseRooms_held (a0 : List Nat) {s : State} (h : roomsHeld s) : roomsHeld (releaseRooms a0 s) := by
  fun_induction releaseRooms a0 s
  all_goals intros
  all_goals repeat' first
      | with_reducible assumption | (exact fun _ h => ⟨h.1, h.2⟩) | (exact fun _ _ => roomZero_ok) | with_reducible apply modRoom_held
      | with_reducible apply_assumption | with_reducible apply modRoom_held | with_reducible apply rooms_ite | with_reducible apply rooms_foldl | intro _
      | (split)

theorem mappingEff_held (a1 a2 : Nat) {s : State} (h : roomsHeld s) : roomsHeld (mappingEff s a1 a2) := by
  fun_cases mappingEff s a1 a2
  all_goals (intros; (try dsimp only); repeat' first
      | with_reducible assumption | (exact fun _ h => ⟨h.1, h.2⟩) | (exact fun _ _ => roomZero_ok) | with_reducible apply modRoom_held
      | with_reducible refine rooms_of_frame (settleHealth_only (by simp) (by simp) (by simp) only_refl) ?_
      | with_reducible refine rooms_of_frame (requeueAll_only (by simp) (by simp) _ only_refl) ?_ | with_reducible apply releaseRooms_held
      | with_reducible refine rooms_of_frame (trace_only (by simp) _ _ only_refl) ?_
      | with_reducible refine rooms_of_frame (applyActs_only (by simp) (by simp) (by simp) (by simp) (by simp) _ _ only_refl) ?_
      | with_reducible refine rooms_of_frame (modHealth_only (by simp) _ only_refl) ?_ | with_reducible apply rooms_ite | with_reducible apply rooms_foldl
      | intro _ | (split))

theorem narrowLoadEff_held (a1 : Nat) {s : State} (h : roomsHeld s) : roomsHeld (narrowLoadEff s a1) := by
  unfold narrowLoadEff
  split
  · exact settle_held _ (modRoom_held _ _ (fun x hx => ⟨setG_zero _ _ _ hx.1, hx.2⟩) h)
  · exact h

theorem serveLoad_held (a1 : Nat) (a2 : Narrow) (a3 : List Narrow) (a4 : Nat) {s : State} (h : roomsHeld s) : roomsHeld (serveLoad s a1 a2 a3 a4) := by
  fun_cases serveLoad s a1 a2 a3 a4
  all_goals (intros; (try dsimp only); repeat' first
      | with_reducible assumption | (exact fun _ h => ⟨h.1, h.2⟩) | (exact fun _ _ => roomZero_ok) | with_reducible apply modRoom_held
      | with_reducible apply raiseFault_held | with_reducible refine rooms_of_frame (putStore_only (by simp) (by simp) (by simp) (by simp) _ only_refl) ?_
      | with_reducible refine rooms_of_frame (noteRead_only (by simp) _ _ only_refl) ?_ | with_reducible apply modRoom_held | with_reducible apply rooms_ite
      | with_reducible apply rooms_foldl | intro _ | (split))

theorem serveStore_held (a1 : Nat) (a2 : Narrow) (a3 : List Narrow) (a4 : Nat) {s : State} (h : roomsHeld s) : roomsHeld (serveStore s a1 a2 a3 a4) := by
  fun_cases serveStore s a1 a2 a3 a4
  all_goals (intros; (try dsimp only); repeat' first
      | with_reducible assumption | (exact fun _ h => ⟨h.1, h.2⟩) | (exact fun _ _ => roomZero_ok) | with_reducible apply modRoom_held
      | with_reducible apply raiseFault_held | with_reducible refine rooms_of_frame (putStore_only (by simp) (by simp) (by simp) (by simp) _ only_refl) ?_
      | with_reducible refine rooms_of_frame (noteRead_only (by simp) _ _ only_refl) ?_ | with_reducible apply modRoom_held
      | with_reducible refine rooms_of_frame (modTask_only (by simp) _ _ only_refl) ?_ | with_reducible apply rooms_ite | with_reducible apply rooms_foldl
      | intro _ | (split))

theorem narrowServiceEff_held (a1 : Nat) {s : State} (h : roomsHeld s) : roomsHeld (narrowServiceEff s a1) := by
  fun_cases narrowServiceEff s a1
  all_goals (intros; (try dsimp only); repeat' first
      | with_reducible assumption | (exact fun _ h => ⟨h.1, h.2⟩) | (exact fun _ _ => roomZero_ok) | with_reducible apply modRoom_held
      | with_reducible apply serveStore_held | with_reducible apply serveLoad_held
      | with_reducible refine rooms_of_frame (landCloses_only (by simp) (by simp) (by simp) (by simp) only_refl) ?_ | with_reducible apply settle_held
      | with_reducible refine rooms_of_frame (takeCycle_only (by simp) _ only_refl) ?_ | with_reducible apply rooms_ite | with_reducible apply rooms_foldl
      | intro _ | (split))

theorem opFetchEff_held (a1 : Nat) {s : State} (h : roomsHeld s) : roomsHeld (opFetchEff s a1) := by
  fun_cases opFetchEff s a1
  all_goals (intros; (try dsimp only); repeat' first
      | with_reducible assumption | (exact fun _ h => ⟨h.1, h.2⟩) | (exact fun _ _ => roomZero_ok) | with_reducible apply modRoom_held
      | with_reducible apply raiseFault_held | with_reducible refine rooms_of_frame (putStore_only (by simp) (by simp) (by simp) (by simp) _ only_refl) ?_
      | with_reducible refine rooms_of_frame (noteRead_only (by simp) _ _ only_refl) ?_ | with_reducible apply modRoom_held | with_reducible apply rooms_ite
      | with_reducible apply rooms_foldl | intro _ | (split))

theorem releaseSync_held (a0 : List Nat) {s : State} (h : roomsHeld s) : roomsHeld (releaseSync a0 s) := by
  fun_induction releaseSync a0 s
  all_goals intros
  all_goals repeat' first
      | with_reducible assumption | (exact fun _ h => ⟨h.1, h.2⟩) | (exact fun _ _ => roomZero_ok) | with_reducible apply modRoom_held
      | with_reducible apply_assumption | with_reducible apply modRoom_held | with_reducible apply rooms_ite | with_reducible apply rooms_foldl | intro _
      | (split)

theorem remoteEff_held (a1 : Nat) {s : State} (h : roomsHeld s) : roomsHeld (remoteEff s a1) := by
  fun_cases remoteEff s a1
  all_goals (intros; (try dsimp only); repeat' first
      | with_reducible assumption | (exact fun _ h => ⟨h.1, h.2⟩) | (exact fun _ _ => roomZero_ok) | with_reducible apply modRoom_held
      | with_reducible refine rooms_of_frame (landCloses_only (by simp) (by simp) (by simp) (by simp) only_refl) ?_
      | with_reducible refine rooms_of_frame (modStore_only (by simp) _ only_refl) ?_
      | with_reducible refine rooms_of_frame (takeCycle_only (by simp) _ only_refl) ?_ | with_reducible apply addSignal_held | with_reducible apply rooms_ite
      | with_reducible apply rooms_foldl | intro _ | (split))

theorem replacementEndEff_held (a1 a2 : Nat) {s : State} (h : roomsHeld s) : roomsHeld (replacementEndEff s a1 a2) := by
  fun_cases replacementEndEff s a1 a2
  all_goals (intros; (try dsimp only); repeat' first
      | with_reducible assumption | (exact fun _ h => ⟨h.1, h.2⟩) | (exact fun _ _ => roomZero_ok) | with_reducible apply modRoom_held
      | with_reducible refine rooms_of_frame (replaceMould_only (by simp) (by simp) (by simp) (by simp) (by simp) (by simp) _ only_refl) ?_
      | with_reducible refine rooms_of_frame (settleHealth_only (by simp) (by simp) (by simp) only_refl) ?_ | with_reducible apply bringIn_held
      | with_reducible refine rooms_of_frame (mapSpare_only (by simp) (by simp) (by simp) _ _ only_refl) ?_
      | with_reducible refine rooms_of_frame (modHealth_only (by simp) _ only_refl) ?_ | with_reducible apply rooms_ite | with_reducible apply rooms_foldl
      | intro _ | (split))

theorem retireEff_held (a1 a2 : Nat) {s : State} (h : roomsHeld s) : roomsHeld (retireEff s a1 a2) := by
  unfold retireEff
  split
  · exact h
  · extract_lets a
    have ha : roomsHeld a := finishOp_held _ _ h
    clear_value a
    split
    · exact ha
    · exact rooms_ite ha (settle_held _ (modRoom_held _ _ (fun x hx => flight_filter_ok x _ hx) ha))

/-- An op made whole engages its units and commits its run. -/
theorem wholeBody_held (room : Nat) (w : OpWord) (run : Env → Room → Run → Run) (E : Env) (x : Room) (t : Task) (n : Nat) {s : State}
    (hx : x.issued < (roomOf s room).issued) (h : roomsHeld s) : roomsHeld (wholeBody room w run E x t n s) :=
  commitRun_held _ _ _ _ _ (engage_held _ _ _ _ _ _ hx h)

theorem rowfBody_held (room : Nat) (w : OpWord) (E : Env) (x : Room) (t : Task) (n : Nat) {s : State} (hx : x.issued < (roomOf s room).issued)
    (h : roomsHeld s) : roomsHeld (rowfBody room w E x t n s) := by
  have he : roomsHeld (engage room n x w 0 0 s) := engage_held _ _ _ _ _ _ hx h
  unfold rowfBody
  dsimp only
  split
  · split
    · exact startAnnex_held _ _ _ _ _ (commitRun_held _ _ _ _ _ he)
    · exact commitRun_held _ _ _ _ _ he
  · exact wholeBody_held _ _ _ _ _ _ _ hx h

theorem startHard_held (a0 : BitVec 64) (a1 : BitVec 384) (a2 : BitVec 16) {s : State} (h : roomsHeld s) : roomsHeld (startHard a0 a1 a2 s) := by
  fun_cases startHard a0 a1 a2 s
  all_goals (intros; (try dsimp only); repeat' first
      | with_reducible assumption | (exact fun _ h => ⟨h.1, h.2⟩) | (exact fun _ _ => roomZero_ok) | with_reducible apply modRoom_held
      | with_reducible refine rooms_of_frame (setPhase_only (by simp) (by simp) (by simp) (by simp) _ only_refl) ?_ | with_reducible apply hardReset_held
      | with_reducible apply rooms_ite | with_reducible apply rooms_foldl | intro _ | (split) | with_reducible apply rooms_mk)

theorem stewardRestart_held {s : State} (h : roomsHeld s) : roomsHeld (stewardRestart s) := by
  unfold stewardRestart
  extract_lets t
  clear_value t
  refine rooms_of_frame (by apply settleHealth_only <;> first | exact only_refl | simp) ?_
  exact ⟨fun _ => roomZero_ok⟩

theorem warnEarly_held {s : State} (h : roomsHeld s) : roomsHeld (warnEarly s) := by
  fun_cases warnEarly s
  all_goals (intros; (try dsimp only); repeat' first
      | with_reducible assumption | (exact fun _ h => ⟨h.1, h.2⟩) | (exact fun _ _ => roomZero_ok) | with_reducible apply modRoom_held
      | with_reducible apply dropNext_held | with_reducible refine rooms_of_frame (modSeq_only (by simp) _ only_refl) ?_ | with_reducible apply rooms_ite
      | with_reducible apply rooms_foldl | intro _ | (split))

theorem supplyWarnEff_held {s : State} (h : roomsHeld s) : roomsHeld (supplyWarnEff s) := by
  fun_cases supplyWarnEff s
  all_goals (intros; (try dsimp only); repeat' first
      | with_reducible assumption | (exact fun _ h => ⟨h.1, h.2⟩) | (exact fun _ _ => roomZero_ok) | with_reducible apply modRoom_held
      | with_reducible apply warnEarly_held | with_reducible refine rooms_of_frame (modSeq_only (by simp) _ only_refl) ?_ | with_reducible apply rooms_ite
      | with_reducible apply rooms_foldl | intro _ | (split))

theorem syncReleaseEff_held (a1 a2 : Nat) {s : State} (h : roomsHeld s) : roomsHeld (syncReleaseEff s a1 a2) := by
  fun_cases syncReleaseEff s a1 a2
  all_goals (intros; (try dsimp only); repeat' first
      | with_reducible assumption | (exact fun _ h => ⟨h.1, h.2⟩) | (exact fun _ _ => roomZero_ok) | with_reducible apply modRoom_held
      | with_reducible apply releaseSync_held | with_reducible refine rooms_of_frame (modPace_only (by simp) _ only_refl) ?_
      | with_reducible refine rooms_of_frame (raiseInt_only (by simp) (by simp) _ only_refl) ?_
      | with_reducible refine rooms_of_frame (haltTask_only (by simp) (by simp) _ _ _ _ only_refl) ?_ | with_reducible apply rooms_ite
      | with_reducible apply rooms_foldl | intro _ | (split))

theorem takeEffectEff_held {s : State} (h : roomsHeld s) : roomsHeld (takeEffectEff s) := by
  fun_cases takeEffectEff s
  all_goals (intros; (try dsimp only); repeat' first
      | with_reducible assumption | (exact fun _ h => ⟨h.1, h.2⟩) | (exact fun _ _ => roomZero_ok) | with_reducible apply modRoom_held
      | with_reducible apply stewardRestart_held | with_reducible apply startHard_held
      | with_reducible refine rooms_of_frame (setPhase_only (by simp) (by simp) (by simp) (by simp) _ only_refl) ?_
      | with_reducible refine rooms_of_frame (modSeq_only (by simp) _ only_refl) ?_ | with_reducible apply rooms_ite | with_reducible apply rooms_foldl
      | intro _ | (split))

theorem taskHaltedEff_held (a1 : Nat) {s : State} (h : roomsHeld s) : roomsHeld (taskHaltedEff s a1) := by
  fun_cases taskHaltedEff s a1
  all_goals (intros; (try dsimp only); repeat' first
      | with_reducible assumption | (exact fun _ h => ⟨h.1, h.2⟩) | (exact fun _ _ => roomZero_ok) | with_reducible apply modRoom_held
      | with_reducible refine rooms_of_frame (sendBack_only (by simp) (by simp) (by simp) _ only_refl) ?_
      | with_reducible refine rooms_of_frame (scramble_only (by simp) (by simp) _ only_refl) ?_
      | with_reducible refine rooms_of_frame (resetAnswer_only (by simp) (by simp) (by simp) (by simp) only_refl) ?_
      | with_reducible refine rooms_of_frame (sayHalted_only (by simp) (by simp) _ only_refl) ?_ | with_reducible apply releaseTask_held
      | with_reducible refine rooms_of_frame (answerAborts_only (by simp) (by simp) (by simp) _ _ _ only_refl) ?_
      | with_reducible refine rooms_of_frame (promote_only (by simp) only_refl) ?_
      | with_reducible refine rooms_of_frame (finishTask_only (by simp) (by simp) (by simp) (by simp) _ _ _ only_refl) ?_
      | with_reducible refine rooms_of_frame (modTask_only (by simp) _ _ only_refl) ?_ | with_reducible apply rooms_ite | with_reducible apply rooms_foldl
      | intro _ | (split))

theorem vauxFallEff_held {s : State} (h : roomsHeld s) : roomsHeld (vauxFallEff s) := by
  fun_cases vauxFallEff s
  all_goals (intros; (try dsimp only); repeat' first
      | with_reducible assumption | (exact fun _ h => ⟨h.1, h.2⟩) | (exact fun _ _ => roomZero_ok) | with_reducible apply modRoom_held
      | with_reducible refine rooms_of_frame (modSeq_only (by simp) _ only_refl) ?_ | with_reducible apply hardReset_held | with_reducible apply rooms_ite
      | with_reducible apply rooms_foldl | intro _ | (split))

theorem waitExpiredEff_held (a1 : Nat) {s : State} (h : roomsHeld s) : roomsHeld (waitExpiredEff s a1) := by
  fun_cases waitExpiredEff s a1
  all_goals (intros; (try dsimp only); repeat' first
      | with_reducible assumption | (exact fun _ h => ⟨h.1, h.2⟩) | (exact fun _ _ => roomZero_ok) | with_reducible apply modRoom_held
      | with_reducible apply raiseFault_held | with_reducible apply rooms_ite | with_reducible apply rooms_foldl | intro _ | (split))

theorem wakeEff_held {s : State} (h : roomsHeld s) : roomsHeld (wakeEff s) := by
  fun_cases wakeEff s
  all_goals (intros; (try dsimp only); repeat' first
      | with_reducible assumption | (exact fun _ h => ⟨h.1, h.2⟩) | (exact fun _ _ => roomZero_ok) | with_reducible apply modRoom_held
      | with_reducible refine rooms_of_frame (powerUp_only (by simp) only_refl) ?_
      | with_reducible refine rooms_of_frame (modSeq_only (by simp) _ only_refl) ?_ | with_reducible apply hardReset_held | with_reducible apply rooms_ite
      | with_reducible apply rooms_foldl | intro _ | (split))

end Sys2Proof.Machine
end

