-- ==== Sys2Proof/Laws/Tags.lean ====
section
/-!
SUPPORT. Every operation of the machine keeps the rule of the host port's tags (19 R534): one lemma for each that touches the requests, and for those that do not,
their frame.
-/
namespace Sys2Proof.Machine

set_option linter.unusedTactic false
set_option linter.unreachableTactic false
set_option maxRecDepth 4000
set_option linter.unusedVariables false
set_option linter.unusedSimpArgs false

/-- An operation that leaves the requests alone keeps the rule. -/
theorem tags_of_frame {s t : State} (h : changesOnly (fun p => p ≠ .requests) s t) (hs : tagsHeld s) : tagsHeld t := by
  have e := h.same .requests (fun k => k rfl)
  obtain ⟨e1, e2, _⟩ := e
  unfold tagsHeld at hs ⊢
  rw [e1, e2]; exact hs

theorem tags_of_eq {s t : State} (h1 : t.host.out = s.host.out) (h2 : t.host.late = s.host.late) (hs : tagsHeld s) : tagsHeld t := by
  unfold tagsHeld at hs ⊢
  rw [h1, h2]; exact hs

theorem tags_ite {s t : State} {c : Prop} [Decidable c] (h : tagsHeld s) (h' : tagsHeld t) : tagsHeld (if c then s else t) := by
  split <;> assumption

/-- Requests whose purpose alone changes keep their tags. -/
theorem tags_map {s t : State} (f : HostReq → HostReq) (hf : ∀ r, (f r).tag = r.tag) (h1 : t.host.out = s.host.out.map f) (h2 : t.host.late = s.host.late)
    (hs : tagsHeld s) : tagsHeld t := by
  obtain ⟨a, b⟩ := hs
  refine ⟨by rw [h1, List.length_map]; exact a, ?_⟩
  have e : (s.host.out.map f).map (·.tag) = s.host.out.map (·.tag) := by rw [List.map_map]; exact List.map_congr_left fun r _ => hf r
  rw [h1, h2, e]; exact b

/-- Fewer requests, or fewer tags held back. -/
theorem tags_sub {s t : State} (h1 : t.host.out.Sublist s.host.out) (h2 : t.host.late.Sublist s.host.late) (hs : tagsHeld s) : tagsHeld t := by
  obtain ⟨a, b⟩ := hs
  refine ⟨Nat.le_trans h1.length_le a, ?_⟩
  exact List.Nodup.sublist (List.Sublist.append (h1.map _) (h2.map _)) b

theorem firstFrom_of (p : Nat → Bool) : ∀ (n k t : Nat), firstFrom p n k = some t → p t = true := by
  intro n
  induction n with
  | zero => intro k t h; simp [firstFrom] at h
  | succ n ih =>
    intro k t h
    rw [firstFrom] at h
    split at h
    · cases h; assumption
    · exact ih _ _ h

/-- A tag that is picked is held by no other request. -/
theorem tagPick_free {h : HostPort} {t : Nat} (e : tagPick h = some t) : t ∉ h.out.map (·.tag) ++ h.late.map (·.1) := by
  have := firstFrom_of _ _ _ _ e
  simp only [Bool.and_eq_true, Bool.not_eq_true', List.any_eq_false, beq_iff_eq] at this
  simp only [List.mem_append, List.mem_map, not_or, not_exists, not_and]
  exact ⟨fun r hr => this.1 r hr, fun r hr => this.2 r hr⟩

theorem issueReq_tags (p : Purpose) (m : HostMsg) {s : State} (h : tagsHeld s) : tagsHeld (issueReq p m s) := by
  unfold issueReq
  split
  · next t e =>
    split
    · next hl =>
      refine tags_of_frame (by apply sendMsg_only <;> first | exact only_refl | simp) ?_
      obtain ⟨a, b⟩ := h
      refine ⟨by simp only [List.length_append, List.length_cons, List.length_nil]; omega, ?_⟩
      have hf := tagPick_free e
      simp only [List.map_append, List.map_cons, List.map_nil, List.append_assoc]
      simp only [List.mem_append, not_or] at hf
      rw [List.nodup_append] at b ⊢
      obtain ⟨b1, b2, b3⟩ := b
      refine ⟨b1, ?_, ?_⟩
      · rw [List.singleton_append, List.nodup_cons]; exact ⟨hf.2, b2⟩
      · intro x hx y hy
        rw [List.singleton_append, List.mem_cons] at hy
        rcases hy with rfl | hy
        · intro e; subst e; exact hf.1 hx
        · exact b3 x hx y hy
    · exact tags_of_eq (s := s) rfl rfl h
  · exact tags_of_eq (s := s) rfl rfl h

theorem takeMsg_tags (b : Nat) (f : Frame) (act : State → State) {s : State} (hact : ∀ t, tagsHeld t → tagsHeld (act t)) (h : tagsHeld s) :
    tagsHeld (takeMsg b f act s) := by
  have ht : tagsHeld (ackFrame f (takeFrame b f s)) :=
    tags_of_frame (ackFrame_only (by simp) _ (takeFrame_only (by simp) _ _ only_refl)) h
  unfold takeMsg
  extract_lets t
  exact tags_ite ht (hact _ (tags_of_frame (modFabric_only (by simp) _ only_refl) ht))

theorem modHost_map_tags (f : HostPort → HostPort) (g : HostReq → HostReq) (hg : ∀ r, (g r).tag = r.tag) {s : State} (h1 : (f s.host).out = s.host.out.map g)
    (h2 : (f s.host).late = s.host.late) (h : tagsHeld s) : tagsHeld (modHost f s) := tags_map g hg h1 h2 h

theorem tags_ite_fun (c : Prop) [Decidable c] (p : Purpose) (r : HostReq) : (if c then { r with purpose := p } else r : HostReq).tag = r.tag := by
  split <;> rfl

theorem tags_foldl {α : Type} (g : State → α → State) (hg : ∀ s x, tagsHeld s → tagsHeld (g s x)) (l : List α) {s : State} (h : tagsHeld s) : tagsHeld (l.foldl g s)
    := by
  induction l generalizing s with
  | nil => exact h
  | cons x xs ih => exact ih (hg _ _ h)

theorem modHost_sub_tags (f : HostPort → HostPort) {s : State} (h1 : (f s.host).out.Sublist s.host.out) (h2 : (f s.host).late.Sublist s.host.late) (h : tagsHeld s) :
    tagsHeld (modHost f s) := tags_sub h1 h2 h

/-- A request that times out gives its tag to those held back. -/
theorem timedOut_tags (tag up : Nat) {s u : State} (h : tagsHeld s) (hin : ∃ r ∈ s.host.out, r.tag = tag) (h1 : u.host.out = s.host.out.filter fun r => r.tag != tag)
    (h2 : u.host.late = s.host.late ++ [(tag, up)]) : tagsHeld u := by
  obtain ⟨a, b⟩ := h
  refine ⟨by rw [h1]; exact Nat.le_trans (List.length_filter_le _ _) a, ?_⟩
  rw [h1, h2]
  rw [List.nodup_append] at b
  obtain ⟨b1, b2, b3⟩ := b
  obtain ⟨r, hr, rfl⟩ := hin
  have hn : r.tag ∉ s.host.late.map (·.1) := fun hm => b3 r.tag (List.mem_map_of_mem hr) r.tag hm rfl
  rw [List.map_append, List.nodup_append]
  refine ⟨List.Nodup.sublist (List.filter_sublist.map _) b1, ?_, ?_⟩
  · rw [List.nodup_append]
    refine ⟨b2, by simp, ?_⟩
    intro x hx y hy e
    simp only [List.map_cons, List.map_nil, List.mem_singleton] at hy
    subst hy; subst e; exact hn hx
  · intro x hx y hy e
    subst e
    rw [List.mem_append] at hy
    obtain ⟨z, hz, rfl⟩ := List.mem_map.mp hx
    rw [List.mem_filter] at hz
    rcases hy with hy | hy
    · exact b3 _ (List.mem_map_of_mem hz.1) _ hy rfl
    · simp only [List.map_cons, List.map_nil, List.mem_singleton] at hy
      simp [hy] at hz

theorem modSteward_tags (f) {s : State} (h : tagsHeld s) : tagsHeld (modSteward f s) := tags_of_eq (s := s) rfl rfl h
theorem modShell_tags (f) {s : State} (h : tagsHeld s) : tagsHeld (modShell f s) := tags_of_eq (s := s) rfl rfl h
theorem modHost_tags (f) {s : State} (h1 : (f s.host).out = s.host.out) (h2 : (f s.host).late = s.host.late) (h : tagsHeld s) : tagsHeld (modHost f s) := tags_of_eq
    h1 h2 h

theorem tags_mk {s : State} (h : tagsHeld s) {a b c d e f g i j k l m n o p q u} : tagsHeld ⟨a, b, c, d, e, f, g, i, s.host, j, k, l, m, n, o, p, q, u⟩ := h

theorem tryRecord_tags (a0 : Nat) {s : State} (h : tagsHeld s) : tagsHeld (tryRecord a0 s) := by
  fun_cases tryRecord a0 s
  all_goals (intros; (try dsimp only); repeat' first
      | with_reducible assumption | with_reducible apply issueReq_tags | with_reducible refine tags_of_frame (modTask_only (by simp) _ _ only_refl) ?_
      | with_reducible apply tags_ite | with_reducible apply tags_foldl | intro _ | (split))

theorem finishTask_tags (a0 : Nat) (a1 : TState) (a2 : Nat) {s : State} (h : tagsHeld s) : tagsHeld (finishTask a0 a1 a2 s) := by
  fun_cases finishTask a0 a1 a2 s
  all_goals (intros; (try dsimp only); repeat' first
      | with_reducible assumption | with_reducible apply tryRecord_tags | with_reducible refine tags_of_frame (dropWork_only (by simp) _ _ only_refl) ?_
      | with_reducible refine tags_of_frame (modTask_only (by simp) _ _ only_refl) ?_ | with_reducible apply tags_ite | with_reducible apply tags_foldl
      | intro _ | (split))

theorem acceptTask_tags (a0 : Nat) (a1 : Bool) (a2 : MsgWord) {s : State} (h : tagsHeld s) : tagsHeld (acceptTask a0 a1 a2 s) := by
  fun_cases acceptTask a0 a1 a2 s
  all_goals (intros; (try dsimp only); repeat' first
      | with_reducible assumption | with_reducible refine tags_of_frame (promote_only (by simp) only_refl) ?_ | with_reducible apply finishTask_tags
      | with_reducible refine tags_of_frame (modQueue_only (by simp) _ _ only_refl) ?_
      | with_reducible refine tags_of_frame (countLaunch_only (by simp) _ only_refl) ?_ | (with_reducible refine modSteward_tags _ ?_)
      | with_reducible apply tags_ite | with_reducible apply tags_foldl | intro _ | (split))

theorem hardReset_tags {s : State} (h : tagsHeld s) : tagsHeld (hardReset s) :=
  ⟨by show hostReset.out.length ≤ 1024; decide, by show (hostReset.out.map (·.tag) ++ hostReset.late.map (·.1)).Nodup; decide⟩

theorem dropNext_tags {s : State} (h : tagsHeld s) : tagsHeld (dropNext s) := by
  fun_cases dropNext s
  all_goals (intros; (try dsimp only); repeat' first
      | with_reducible assumption | with_reducible refine tags_of_frame (modSeq_only (by simp) _ only_refl) ?_ | with_reducible apply hardReset_tags
      | with_reducible apply tags_ite | with_reducible apply tags_foldl | intro _ | (split))

theorem afterDrop_tags (a0 : Nat) {s : State} (h : tagsHeld s) : tagsHeld (afterDrop a0 s) := by
  fun_cases afterDrop a0 s
  all_goals (intros; (try dsimp only); repeat' first
      | with_reducible assumption | with_reducible apply dropNext_tags | with_reducible apply tags_ite | with_reducible apply tags_foldl | intro _ | (split))

theorem writeRsp_tags (a0 : Nat) (a1 : MsgWord) (a2 a3 : Bool) {s : State} (h : tagsHeld s) : tagsHeld (writeRsp a0 a1 a2 a3 s) := by
  fun_cases writeRsp a0 a1 a2 a3 s
  all_goals (intros; (try dsimp only); repeat' first
      | with_reducible assumption | with_reducible refine tags_of_frame (modMbox_only (by simp) _ _ only_refl) ?_ | with_reducible apply issueReq_tags
      | with_reducible apply tags_ite | with_reducible apply tags_foldl | intro _ | (split))

theorem respond_tags (a0 a1 : Nat) (a2 : List (Nat × Nat × Nat)) {s : State} (h : tagsHeld s) : tagsHeld (respond a0 a1 a2 s) := by
  fun_cases respond a0 a1 a2 s
  all_goals (intros; (try dsimp only); repeat' first
      | with_reducible assumption | with_reducible apply writeRsp_tags | with_reducible refine tags_of_frame (modMbox_only (by simp) _ _ only_refl) ?_
      | with_reducible apply tags_ite | with_reducible apply tags_foldl | intro _ | (split))

theorem answerAborts_tags (a0 a1 : Nat) (a2 : List Nat) {s : State} (h : tagsHeld s) : tagsHeld (answerAborts a0 a1 a2 s) := by
  fun_induction answerAborts a0 a1 a2 s
  all_goals intros
  all_goals repeat' first
      | with_reducible assumption | with_reducible apply_assumption | with_reducible apply respond_tags | with_reducible apply tags_ite
      | with_reducible apply tags_foldl | intro _ | (split)

theorem completePoint_tags (a0 : Nat) {s : State} (h : tagsHeld s) : tagsHeld (completePoint a0 s) := by
  fun_cases completePoint a0 s
  all_goals (intros; (try dsimp only); repeat' first
      | with_reducible assumption | with_reducible refine tags_of_frame (releaseTask_only (by simp) (by simp) (by simp) (by simp) (by simp) _ only_refl) ?_
      | with_reducible refine tags_of_frame (commitAll_only (by simp) (by simp) (by simp) (by simp) (by simp) (by simp) _ _ _ only_refl) ?_
      | with_reducible apply answerAborts_tags | with_reducible refine tags_of_frame (promote_only (by simp) only_refl) ?_
      | with_reducible apply finishTask_tags | with_reducible refine tags_of_frame (modTask_only (by simp) _ _ only_refl) ?_ | with_reducible apply tags_ite
      | with_reducible apply tags_foldl | intro _ | (split))

theorem leaderEnd_tags (a0 : Nat) {s : State} (h : tagsHeld s) : tagsHeld (leaderEnd a0 s) := by
  fun_cases leaderEnd a0 s
  all_goals (intros; (try dsimp only); repeat' first
      | with_reducible assumption | with_reducible apply completePoint_tags
      | with_reducible refine tags_of_frame (tellMembers_only (by simp) _ _ _ _ _ only_refl) ?_ | with_reducible apply tags_ite
      | with_reducible apply tags_foldl | intro _ | (split))

theorem allEnded_tags (a0 : Nat) {s : State} (h : tagsHeld s) : tagsHeld (allEnded a0 s) := by
  fun_cases allEnded a0 s
  all_goals (intros; (try dsimp only); repeat' first
      | with_reducible assumption | with_reducible refine tags_of_frame (markEnded_only (by simp) _ _ only_refl) ?_ | with_reducible apply leaderEnd_tags
      | with_reducible apply completePoint_tags | with_reducible refine tags_of_frame (sendMgmt_only (by simp) _ _ _ _ _ _ only_refl) ?_
      | with_reducible apply tags_ite | with_reducible apply tags_foldl | intro _ | (split))

theorem answerCreates_tags (a0 : Nat) (a1 : List (Nat × Mailbox)) {s : State} (h : tagsHeld s) : tagsHeld (answerCreates a0 a1 s) := by
  fun_induction answerCreates a0 a1 s
  all_goals intros
  all_goals repeat' first
      | with_reducible assumption | with_reducible apply_assumption | with_reducible apply respond_tags | with_reducible apply tags_ite
      | with_reducible apply tags_foldl | intro _ | (split)

theorem answerFreeze_tags (a0 : Nat) {s : State} (h : tagsHeld s) : tagsHeld (answerFreeze a0 s) := by
  fun_cases answerFreeze a0 s
  all_goals (intros; (try dsimp only); repeat' first
      | with_reducible assumption | with_reducible refine tags_of_frame (modSnap_only (by simp) _ only_refl) ?_ | with_reducible apply respond_tags
      | with_reducible apply tags_ite | with_reducible apply tags_foldl | intro _ | (split))

theorem answerReject_tags (a0 : Nat) (a1 : Reject) {s : State} (h : tagsHeld s) : tagsHeld (answerReject a0 a1 s) := by
  fun_cases answerReject a0 a1 s
  all_goals (intros; (try dsimp only); repeat' first
      | with_reducible assumption | with_reducible apply respond_tags | with_reducible apply tags_ite | with_reducible apply tags_foldl | intro _ | (split))

theorem answerReleases_tags (a0 : List Nat) {s : State} (h : tagsHeld s) : tagsHeld (answerReleases a0 s) := by
  fun_induction answerReleases a0 s
  all_goals intros
  all_goals repeat' first
      | with_reducible assumption | with_reducible apply_assumption | with_reducible apply respond_tags | with_reducible apply tags_ite
      | with_reducible apply tags_foldl | intro _ | (split)

theorem refuseRound_tags (a0 : Task) (a1 : Nat) {s : State} (h : tagsHeld s) : tagsHeld (refuseRound a0 a1 s) := by
  fun_cases refuseRound a0 a1 s
  all_goals (intros; (try dsimp only); repeat' first
      | with_reducible assumption | with_reducible apply finishTask_tags
      | with_reducible refine tags_of_frame (tellMembers_only (by simp) _ _ _ _ _ only_refl) ?_ | with_reducible apply tags_ite
      | with_reducible apply tags_foldl | intro _ | (split) | with_reducible apply tags_mk)

theorem withdrawRounds_tags (a0 : List Nat) {s : State} (h : tagsHeld s) : tagsHeld (withdrawRounds a0 s) := by
  fun_induction withdrawRounds a0 s
  all_goals intros
  all_goals repeat' first
      | with_reducible assumption | with_reducible apply_assumption | with_reducible apply refuseRound_tags | with_reducible apply finishTask_tags
      | with_reducible refine tags_of_frame (sendMgmt_only (by simp) _ _ _ _ _ _ only_refl) ?_ | with_reducible apply tags_ite
      | with_reducible apply tags_foldl | intro _ | (split)

theorem splitEff_tags {s : State} (h : tagsHeld s) : tagsHeld (splitEff s) := by
  fun_cases splitEff s
  all_goals (intros; (try dsimp only); repeat' first
      | with_reducible assumption | with_reducible apply withdrawRounds_tags
      | with_reducible refine tags_of_frame (haltAll_only (by simp) (by simp) _ _ _ only_refl) ?_
      | with_reducible refine tags_of_frame (modTime_only (by simp) _ only_refl) ?_
      | with_reducible refine tags_of_frame (raiseInt_only (by simp) (by simp) _ only_refl) ?_
      | with_reducible refine tags_of_frame (promote_only (by simp) only_refl) ?_ | with_reducible apply tags_ite | with_reducible apply tags_foldl | intro _
      | (split))

theorem applyTheta_tags (a0 : Bool) (a1 : Int) {s : State} (h : tagsHeld s) : tagsHeld (applyTheta a0 a1 s) := by
  fun_cases applyTheta a0 a1 s
  all_goals (intros; (try dsimp only); repeat' first
      | with_reducible assumption | with_reducible apply splitEff_tags
      | with_reducible refine tags_of_frame (setTimeSt_only (by simp) (by simp) (by simp) _ only_refl) ?_
      | with_reducible refine tags_of_frame (modTime_only (by simp) _ only_refl) ?_ | with_reducible apply tags_ite | with_reducible apply tags_foldl
      | intro _ | (split) | with_reducible apply tags_mk)

theorem respondAll_tags (a0 : Nat) (a1 : List Nat) {s : State} (h : tagsHeld s) : tagsHeld (respondAll a0 a1 s) := by
  fun_induction respondAll a0 a1 s
  all_goals intros
  all_goals repeat' first
      | with_reducible assumption | with_reducible apply_assumption | with_reducible apply respond_tags | with_reducible apply tags_ite
      | with_reducible apply tags_foldl | intro _ | (split)

theorem resetAnswer_tags {s : State} (h : tagsHeld s) : tagsHeld (resetAnswer s) := by
  fun_cases resetAnswer s
  all_goals (intros; (try dsimp only); repeat' first
      | with_reducible assumption | with_reducible apply respondAll_tags | with_reducible apply tags_ite | with_reducible apply tags_foldl | intro _ | (split)
      | with_reducible apply tags_mk)

theorem askReset_tags (a0 a1 : Nat) {s : State} (h : tagsHeld s) : tagsHeld (askReset a0 a1 s) := by
  fun_cases askReset a0 a1 s
  all_goals (intros; (try dsimp only); repeat' first
      | with_reducible assumption | with_reducible apply resetAnswer_tags | with_reducible refine tags_of_frame (await_only (by simp) _ only_refl) ?_
      | with_reducible refine tags_of_frame (haltAll_only (by simp) (by simp) _ _ _ only_refl) ?_
      | with_reducible refine tags_of_frame (modSeq_only (by simp) _ only_refl) ?_ | with_reducible apply tags_ite | with_reducible apply tags_foldl | intro _
      | (split))

theorem endCloses_tags (a0 : List Closing) {s : State} (h : tagsHeld s) : tagsHeld (endCloses a0 s) := by
  fun_induction endCloses a0 s
  all_goals intros
  all_goals repeat' first
      | with_reducible assumption | with_reducible apply_assumption | with_reducible apply respond_tags | with_reducible apply tags_ite
      | with_reducible apply tags_foldl | intro _ | (split) | with_reducible apply tags_mk

theorem landCloses_tags {s : State} (h : tagsHeld s) : tagsHeld (landCloses s) := by
  fun_cases landCloses s
  all_goals (intros; (try dsimp only); repeat' first
      | with_reducible assumption | with_reducible apply endCloses_tags | with_reducible apply tags_ite | with_reducible apply tags_foldl | intro _ | (split))

theorem beginClose_tags (a0 : Nat) (a1 : Option Image) (a2 : List Nat) (a3 : List (Nat × Nat)) (a4 : Nat × Window → Bool) {s : State} (h : tagsHeld s) :
    tagsHeld (beginClose a0 a1 a2 a3 a4 s) := by
  fun_cases beginClose a0 a1 a2 a3 a4 s
  all_goals (intros; (try dsimp only); repeat' first
      | with_reducible assumption | with_reducible apply landCloses_tags | with_reducible refine tags_of_frame (await_only (by simp) _ only_refl) ?_
      | with_reducible refine tags_of_frame (modStore_only (by simp) _ only_refl) ?_ | (with_reducible refine modSteward_tags _ ?_)
      | with_reducible apply tags_ite | with_reducible apply tags_foldl | intro _ | (split))

theorem beginUnload_tags (a0 : Nat) (a1 : Image) {s : State} (h : tagsHeld s) : tagsHeld (beginUnload a0 a1 s) := by
  fun_cases beginUnload a0 a1 s
  all_goals (intros; (try dsimp only); repeat' first
      | with_reducible assumption | with_reducible apply beginClose_tags | with_reducible apply tags_ite | with_reducible apply tags_foldl | intro _ | (split))

theorem writeBackAll_tags (a0 : List PorchLine) {s : State} (h : tagsHeld s) : tagsHeld (writeBackAll a0 s) := by
  fun_induction writeBackAll a0 s
  all_goals intros
  all_goals repeat' first
      | with_reducible assumption | with_reducible apply_assumption | with_reducible apply issueReq_tags | (with_reducible refine modHost_tags _ rfl rfl ?_)
      | with_reducible apply tags_ite | with_reducible apply tags_foldl | intro _ | (split)

theorem powerDownPorch_tags {s : State} (h : tagsHeld s) : tagsHeld (powerDownPorch s) := by
  fun_cases powerDownPorch s
  all_goals (intros; (try dsimp only); repeat' first
      | with_reducible assumption | with_reducible apply writeBackAll_tags | with_reducible apply tags_ite | with_reducible apply tags_foldl | intro _
      | (split))

theorem leaderRefuse_tags (a0 : Task) (a1 : Nat) {s : State} (h : tagsHeld s) : tagsHeld (leaderRefuse a0 a1 s) := by
  fun_cases leaderRefuse a0 a1 s
  all_goals (intros; (try dsimp only); repeat' first
      | with_reducible assumption | with_reducible apply refuseRound_tags | with_reducible refine tags_of_frame (promote_only (by simp) only_refl) ?_
      | with_reducible apply tags_ite | with_reducible apply tags_foldl | intro _ | (split))

theorem tryRound_tags (a0 : Task) {s : State} (h : tagsHeld s) : tagsHeld (tryRound a0 s) := by
  fun_cases tryRound a0 s
  all_goals (intros; (try dsimp only); repeat' first
      | with_reducible assumption | with_reducible refine tags_of_frame (sendLaunch_only (by simp) (by simp) _ only_refl) ?_
      | with_reducible apply leaderRefuse_tags | with_reducible apply tags_ite | with_reducible apply tags_foldl | intro _ | (split))

theorem sendReady_tags (a0 : Nat) {s : State} (h : tagsHeld s) : tagsHeld (sendReady a0 s) := by
  fun_cases sendReady a0 s
  all_goals (intros; (try dsimp only); repeat' first
      | with_reducible assumption | with_reducible apply tryRound_tags | with_reducible apply leaderRefuse_tags
      | with_reducible refine tags_of_frame (sendMgmt_only (by simp) _ _ _ _ _ _ only_refl) ?_
      | with_reducible refine tags_of_frame (modTask_only (by simp) _ _ only_refl) ?_ | with_reducible apply tags_ite | with_reducible apply tags_foldl
      | intro _ | (split))

theorem sendReadys_tags (a0 : List Nat) {s : State} (h : tagsHeld s) : tagsHeld (sendReadys a0 s) := by
  fun_induction sendReadys a0 s
  all_goals intros
  all_goals repeat' first
      | with_reducible assumption | with_reducible apply_assumption | with_reducible apply sendReady_tags | with_reducible apply tags_ite
      | with_reducible apply tags_foldl | intro _ | (split)

theorem readyBoundary_tags {s : State} (h : tagsHeld s) : tagsHeld (readyBoundary s) := by
  fun_cases readyBoundary s
  all_goals (intros; (try dsimp only); repeat' first
      | with_reducible assumption | with_reducible apply sendReadys_tags | with_reducible apply tags_ite | with_reducible apply tags_foldl | intro _ | (split))

theorem tryRecords_tags (a0 : List Nat) {s : State} (h : tagsHeld s) : tagsHeld (tryRecords a0 s) := by
  fun_induction tryRecords a0 s
  all_goals intros
  all_goals repeat' first
      | with_reducible assumption | with_reducible apply_assumption | with_reducible apply tryRecord_tags | with_reducible apply tags_ite
      | with_reducible apply tags_foldl | intro _ | (split)

theorem recordBoundary_tags {s : State} (h : tagsHeld s) : tagsHeld (recordBoundary s) := by
  fun_cases recordBoundary s
  all_goals (intros; (try dsimp only); repeat' first
      | with_reducible assumption | with_reducible apply tryRecords_tags | with_reducible apply tags_ite | with_reducible apply tags_foldl | intro _ | (split))

theorem boundaryEff_tags {s : State} (h : tagsHeld s) : tagsHeld (boundaryEff s) := by
  fun_cases boundaryEff s
  all_goals (intros; (try dsimp only); repeat' first
      | with_reducible assumption | with_reducible refine tags_of_frame (traceOut_only (by simp) only_refl) ?_
      | with_reducible refine tags_of_frame (timeOfDay_only (by simp) (by simp) only_refl) ?_
      | with_reducible refine tags_of_frame (sampleWarn_only (by simp) only_refl) ?_ | with_reducible apply recordBoundary_tags
      | with_reducible apply readyBoundary_tags | with_reducible apply powerDownPorch_tags
      | with_reducible refine tags_of_frame (powerBoundary_only (by simp) (by simp) (by simp) (by simp) only_refl) ?_
      | with_reducible refine tags_of_frame (noteStaged_only (by simp) only_refl) ?_
      | with_reducible refine tags_of_frame (lateChecks_only (by simp) (by simp) _ only_refl) ?_
      | with_reducible refine tags_of_frame (hatchBeat_only (by simp) _ only_refl) ?_
      | with_reducible refine tags_of_frame (finishMsgs_only (by simp) only_refl) ?_
      | with_reducible refine tags_of_frame (beatOut_only (by simp) (by simp) only_refl) ?_
      | with_reducible refine tags_of_frame (answerHalts_only (by simp) (by simp) _ only_refl) ?_
      | with_reducible refine tags_of_frame (annexTakes_only (by simp) (by simp) _ only_refl) ?_ | with_reducible apply tags_ite
      | with_reducible apply tags_foldl | intro _ | (split))

theorem porchFill_tags (a0 : Bool) (a1 : Nat) {s : State} (h : tagsHeld s) : tagsHeld (porchFill a0 a1 s) := by
  fun_cases porchFill a0 a1 s
  all_goals (intros; (try dsimp only); repeat' first
      | with_reducible assumption | with_reducible apply issueReq_tags | with_reducible apply tags_ite | with_reducible apply tags_foldl | intro _ | (split))

theorem porchPut_tags (a0 a1 : Nat) (a2 : List Byte) {s : State} (h : tagsHeld s) : tagsHeld (porchPut a0 a1 a2 s) := by
  fun_cases porchPut a0 a1 a2 s
  all_goals (intros; (try dsimp only); repeat' first
      | with_reducible assumption | with_reducible apply porchFill_tags | with_reducible apply tags_ite | with_reducible apply tags_foldl | intro _ | (split)
      | with_reducible apply tags_mk | (refine tags_of_eq (s := s) rfl rfl ?_))

theorem putStatus_tags (a0 : Nat) {s : State} (h : tagsHeld s) : tagsHeld (putStatus a0 s) := by
  fun_cases putStatus a0 s
  all_goals (intros; (try dsimp only); repeat' first
      | with_reducible assumption | with_reducible apply porchPut_tags | with_reducible apply tags_ite | with_reducible apply tags_foldl | intro _ | (split))

theorem putStatusAll_tags (a0 : List Nat) {s : State} (h : tagsHeld s) : tagsHeld (putStatusAll a0 s) := by
  fun_induction putStatusAll a0 s
  all_goals intros
  all_goals repeat' first
      | with_reducible assumption | with_reducible apply_assumption | with_reducible apply putStatus_tags | with_reducible apply tags_ite
      | with_reducible apply tags_foldl | intro _ | (split)

theorem ctxFault_tags (a0 a1 a2 a3 : Nat) {s : State} (h : tagsHeld s) : tagsHeld (ctxFault a0 a1 a2 a3 s) := by
  fun_cases ctxFault a0 a1 a2 a3 s
  all_goals (intros; (try dsimp only); repeat' first
      | with_reducible assumption | with_reducible apply putStatusAll_tags | with_reducible refine tags_of_frame (modCtx_only (by simp) _ _ only_refl) ?_
      | with_reducible apply tags_ite | with_reducible apply tags_foldl | intro _ | (split) | with_reducible apply tags_mk)

theorem killDesc_tags (a0 : Nat) {s : State} (h : tagsHeld s) : tagsHeld (killDesc a0 s) := by
  unfold killDesc
  exact tags_of_frame (by apply modQueue_only <;> first | exact only_refl | simp) (modHost_map_tags _ _ (fun r => tags_ite_fun _ _ r) rfl rfl h)

theorem chainTimeoutEff_tags (a1 : Nat) {s : State} (h : tagsHeld s) : tagsHeld (chainTimeoutEff s a1) := by
  fun_cases chainTimeoutEff s a1
  all_goals (intros; (try dsimp only); repeat' first
      | with_reducible assumption | with_reducible apply killDesc_tags | with_reducible apply ctxFault_tags | with_reducible apply tags_ite
      | with_reducible apply tags_foldl | intro _ | (split))

theorem checkMembers_tags (a0 : Task) {s : State} (h : tagsHeld s) : tagsHeld (checkMembers a0 s) := by
  fun_cases checkMembers a0 s
  all_goals (intros; (try dsimp only); repeat' first
      | with_reducible assumption | with_reducible apply refuseRound_tags | with_reducible apply finishTask_tags
      | with_reducible refine tags_of_frame (haltWith_only (by simp) (by simp) _ _ _ _ only_refl) ?_
      | with_reducible refine tags_of_frame (haltQuiet_only (by simp) _ _ _ _ only_refl) ?_ | with_reducible apply tags_ite | with_reducible apply tags_foldl
      | intro _ | (split))

theorem checkAll_tags (a0 : List Task) {s : State} (h : tagsHeld s) : tagsHeld (checkAll a0 s) := by
  fun_induction checkAll a0 s
  all_goals intros
  all_goals repeat' first
      | with_reducible assumption | with_reducible apply_assumption | with_reducible apply checkMembers_tags | with_reducible apply tags_ite
      | with_reducible apply tags_foldl | intro _ | (split)

theorem clearCtx_tags (a0 : Nat) {s : State} (h : tagsHeld s) : tagsHeld (clearCtx a0 s) := by
  fun_cases clearCtx a0 s
  all_goals (intros; (try dsimp only); repeat' first
      | with_reducible assumption | with_reducible apply putStatusAll_tags | with_reducible refine tags_of_frame (modCtx_only (by simp) _ _ only_refl) ?_
      | with_reducible refine tags_of_frame (promote_only (by simp) only_refl) ?_ | (with_reducible refine modSteward_tags _ ?_)
      | with_reducible apply tags_ite | with_reducible apply tags_foldl | intro _ | (split))

theorem collapse_tags (a0 a1 : Nat) {s : State} (h : tagsHeld s) : tagsHeld (collapse a0 a1 s) := by
  fun_cases collapse a0 a1 s
  all_goals (intros; (try dsimp only); repeat' first
      | with_reducible assumption | with_reducible refine tags_of_frame (failWith_only (by simp) (by simp) (by simp) (by simp) (by simp) _ only_refl) ?_
      | with_reducible refine tags_of_frame (modSeq_only (by simp) _ only_refl) ?_ | with_reducible apply hardReset_tags | with_reducible apply tags_ite
      | with_reducible apply tags_foldl | intro _ | (split) | with_reducible apply tags_mk)

theorem commitDue_tags (a0 : List Staged) {s : State} (h : tagsHeld s) : tagsHeld (commitDue a0 s) := by
  fun_induction commitDue a0 s
  all_goals intros
  all_goals repeat' first
      | with_reducible assumption | with_reducible apply_assumption | with_reducible refine tags_of_frame (trace_only (by simp) _ _ only_refl) ?_
      | with_reducible refine tags_of_frame (commitItem_only (by simp) (by simp) (by simp) (by simp) (by simp) (by simp) (by simp) (by simp) _ only_refl) ?_
      | with_reducible apply respond_tags | (with_reducible refine modSteward_tags _ ?_) | with_reducible apply tags_ite | with_reducible apply tags_foldl
      | intro _ | (split)

theorem endCopy_tags (a0 : HostCopy) {s : State} (h : tagsHeld s) : tagsHeld (endCopy a0 s) := by
  fun_cases endCopy a0 s
  all_goals (intros; (try dsimp only); repeat' first
      | with_reducible assumption | with_reducible apply respond_tags | with_reducible apply tags_ite | with_reducible apply tags_foldl | intro _ | (split))

theorem hostWrites_tags (a0 a1 a2 : Nat) (a3 : List Byte) {s : State} (h : tagsHeld s) : tagsHeld (hostWrites a0 a1 a2 a3 s) := by
  fun_induction hostWrites a0 a1 a2 a3 s
  all_goals intros
  all_goals repeat' first
      | with_reducible assumption | with_reducible apply_assumption | with_reducible apply issueReq_tags | with_reducible apply tags_ite
      | with_reducible apply tags_foldl | intro _ | (split)

theorem copyOut_tags (a0 a1 : Nat) (a2 : List Byte) (a3 : Option Nat) {s : State} (h : tagsHeld s) : tagsHeld (copyOut a0 a1 a2 a3 s) := by
  fun_cases copyOut a0 a1 a2 a3 s
  all_goals (intros; (try dsimp only); repeat' first
      | with_reducible assumption | with_reducible apply hostWrites_tags | with_reducible apply endCopy_tags
      | with_reducible refine tags_of_frame (await_only (by simp) _ only_refl) ?_ | with_reducible apply tags_ite | with_reducible apply tags_foldl | intro _
      | (split) | with_reducible apply tags_mk)

theorem createDone_tags (a0 : Nat) {s : State} (h : tagsHeld s) : tagsHeld (createDone a0 s) := by
  fun_cases createDone a0 s
  all_goals (intros; (try dsimp only); repeat' first
      | with_reducible assumption | with_reducible apply answerCreates_tags | with_reducible apply tags_ite | with_reducible apply tags_foldl | intro _
      | (split))

theorem killFetch_tags (a0 : Nat) {s : State} (h : tagsHeld s) : tagsHeld (killFetch a0 s) := by
  unfold killFetch
  exact modHost_map_tags _ _ (fun r => tags_ite_fun _ _ r) rfl rfl h

theorem ctrlWrite_tags (a0 : Nat) (a1 : BitVec 32) {s : State} (h : tagsHeld s) : tagsHeld (ctrlWrite a0 a1 s) := by
  fun_cases ctrlWrite a0 a1 s
  all_goals (intros; (try dsimp only); repeat' first
      | with_reducible assumption | with_reducible apply killFetch_tags | with_reducible refine tags_of_frame (modMbox_only (by simp) _ _ only_refl) ?_
      | with_reducible apply tags_ite | with_reducible apply tags_foldl | intro _ | (split))

theorem ctxCreateEff_tags (a1 : Nat) (a2 : MsgWord) {s : State} (h : tagsHeld s) : tagsHeld (ctxCreateEff s a1 a2) := by
  fun_cases ctxCreateEff s a1 a2
  all_goals (intros; (try dsimp only); repeat' first
      | with_reducible assumption | with_reducible refine tags_of_frame (modCtx_only (by simp) _ _ only_refl) ?_ | with_reducible apply respond_tags
      | with_reducible apply tags_ite | with_reducible apply tags_foldl | intro _ | (split))

theorem dropCopy_tags (a0 : Nat) {s : State} (h : tagsHeld s) : tagsHeld (dropCopy a0 s) := by
  unfold dropCopy
  extract_lets mine
  exact tags_map (s := s) (fun r => if mine r.purpose then { r with purpose := .dead } else r) (fun r => tags_ite_fun _ _ r) rfl rfl h

theorem cutWork_tags (a0 : Nat) (a1 : MsgWord) {s : State} (h : tagsHeld s) : tagsHeld (cutWork a0 a1 s) := by
  fun_cases cutWork a0 a1 s
  all_goals (intros; (try dsimp only); repeat' first
      | with_reducible assumption | with_reducible refine tags_of_frame (undoLoad_only (by simp) (by simp) _ only_refl) ?_
      | with_reducible refine tags_of_frame (undoClose_only (by simp) (by simp) (by simp) _ only_refl) ?_ | with_reducible apply dropCopy_tags
      | with_reducible refine tags_of_frame (cutCopy_only (by simp) (by simp) _ only_refl) ?_
      | with_reducible refine tags_of_frame (modQueue_only (by simp) _ _ only_refl) ?_ | with_reducible apply tags_ite | with_reducible apply tags_foldl
      | intro _ | (split))

theorem cutCommands_tags (a0 : Nat) (a1 : List (Nat × Mailbox)) {s : State} (h : tagsHeld s) : tagsHeld (cutCommands a0 a1 s) := by
  fun_induction cutCommands a0 a1 s
  all_goals intros
  all_goals repeat' first
      | with_reducible assumption | with_reducible apply_assumption | with_reducible apply cutWork_tags | with_reducible apply respond_tags
      | with_reducible apply tags_ite | with_reducible apply tags_foldl | intro _ | (split)

theorem discardTasks_tags (a0 : List Task) {s : State} (h : tagsHeld s) : tagsHeld (discardTasks a0 s) := by
  fun_induction discardTasks a0 s
  all_goals intros
  all_goals repeat' first
      | with_reducible assumption | with_reducible apply_assumption | with_reducible refine tags_of_frame (withdrawRound_only (by simp) _ _ only_refl) ?_
      | with_reducible apply finishTask_tags | with_reducible apply tags_ite | with_reducible apply tags_foldl | intro _ | (split)

theorem muteCtx_tags (a0 : Nat) {s : State} (h : tagsHeld s) : tagsHeld (muteCtx a0 s) := by
  unfold muteCtx
  dsimp only
  exact modSteward_tags _ (modHost_map_tags _ _ (fun r => tags_ite_fun _ _ r) rfl rfl h)

theorem ctxDestroyEff_tags (a1 : Nat) (a2 : MsgWord) {s : State} (h : tagsHeld s) : tagsHeld (ctxDestroyEff s a1 a2) := by
  unfold ctxDestroyEff
  extract_lets c a b d
  have ha : tagsHeld a := by
    refine tags_of_frame (by apply await_only <;> first | exact only_refl | simp) (muteCtx_tags _ ?_)
    refine tags_of_frame (by apply modCtx_only <;> first | exact only_refl | simp) ?_
    exact tags_of_frame (by apply endFreeze_only <;> first | exact only_refl | simp) h
  clear_value a
  have hb : tagsHeld b := discardTasks_tags _ ha
  have hd : tagsHeld d := tags_of_frame (by apply haltCtx_only <;> first | exact only_refl | simp) hb
  clear_value d
  refine tags_ite (respond_tags _ _ _ h) (tags_ite (respond_tags _ _ _ h) (tags_of_frame (by apply promote_only <;> first | exact only_refl | simp) (cutCommands_tags _ _ ?_)))
  exact tags_of_frame (by apply stopContext_only <;> first | exact only_refl | simp) hd

theorem ctxQueryEff_tags (a1 : Nat) (a2 : MsgWord) {s : State} (h : tagsHeld s) : tagsHeld (ctxQueryEff s a1 a2) := by
  fun_cases ctxQueryEff s a1 a2
  all_goals (intros; (try dsimp only); repeat' first
      | with_reducible assumption | with_reducible apply clearCtx_tags | with_reducible apply respond_tags | with_reducible apply tags_ite
      | with_reducible apply tags_foldl | intro _ | (split))

theorem refuseDesc_tags (a0 : Queue) (a1 : Nat) (a2 : MsgWord) {s : State} (h : tagsHeld s) : tagsHeld (refuseDesc a0 a1 a2 s) := by
  fun_cases refuseDesc a0 a1 a2 s
  all_goals (intros; (try dsimp only); repeat' first
      | with_reducible assumption | with_reducible apply tryRecord_tags | (with_reducible refine modSteward_tags _ ?_) | with_reducible apply tags_ite
      | with_reducible apply tags_foldl | intro _ | (split))

theorem takeWork_tags (a0 : Nat) {s : State} (h : tagsHeld s) : tagsHeld (takeWork a0 s) := by
  fun_cases takeWork a0 s
  all_goals (intros; (try dsimp only); repeat' first
      | with_reducible assumption | with_reducible apply putStatus_tags | with_reducible refine tags_of_frame (modQueue_only (by simp) _ _ only_refl) ?_
      | with_reducible apply tags_ite | with_reducible apply tags_foldl | intro _ | (split))

theorem descArrivalEff_tags (a1 : Nat) (a2 : MsgWord) {s : State} (h : tagsHeld s) : tagsHeld (descArrivalEff s a1 a2) := by
  fun_cases descArrivalEff s a1 a2
  all_goals (intros; (try dsimp only); repeat' first
      | with_reducible assumption | with_reducible apply takeWork_tags | with_reducible apply refuseDesc_tags | with_reducible apply ctxFault_tags
      | with_reducible apply acceptTask_tags | with_reducible refine tags_of_frame (modQueue_only (by simp) _ _ only_refl) ?_ | with_reducible apply tags_ite
      | with_reducible apply tags_foldl | intro _ | (split))

theorem descFetchEff_tags (a1 : Nat) {s : State} (h : tagsHeld s) : tagsHeld (descFetchEff s a1) := by
  fun_cases descFetchEff s a1
  all_goals (intros; (try dsimp only); repeat' first
      | with_reducible assumption | with_reducible apply ctxFault_tags | with_reducible apply issueReq_tags
      | with_reducible refine tags_of_frame (modQueue_only (by simp) _ _ only_refl) ?_ | with_reducible apply tags_ite | with_reducible apply tags_foldl
      | intro _ | (split))

theorem endCtx_tags (a0 : Nat) {s : State} (h : tagsHeld s) : tagsHeld (endCtx a0 s) := by
  fun_cases endCtx a0 s
  all_goals (intros; (try dsimp only); repeat' first
      | with_reducible assumption | with_reducible refine tags_of_frame (unbindAll_only (by simp) _ _ only_refl) ?_
      | with_reducible refine tags_of_frame (forgetPhases_only (by simp) _ only_refl) ?_
      | with_reducible refine tags_of_frame (modCtx_only (by simp) _ _ only_refl) ?_ | with_reducible apply respond_tags | with_reducible apply tags_ite
      | with_reducible apply tags_foldl | intro _ | (split))

theorem destroyDoneEff_tags (a1 : Nat) {s : State} (h : tagsHeld s) : tagsHeld (destroyDoneEff s a1) := by
  fun_cases destroyDoneEff s a1
  all_goals (intros; (try dsimp only); repeat' first
      | with_reducible assumption
      | with_reducible refine tags_of_frame (freeCtx_only (by simp) (by simp) (by simp) (by simp) (by simp) (by simp) (by simp) _ only_refl) ?_
      | with_reducible apply endCtx_tags | with_reducible apply tags_ite | with_reducible apply tags_foldl | intro _ | (split))

theorem disableChannel_tags (a0 : Nat) {s : State} (h : tagsHeld s) : tagsHeld (disableChannel a0 s) := by
  fun_cases disableChannel a0 s
  all_goals (intros; (try dsimp only); repeat' first
      | with_reducible assumption | with_reducible refine tags_of_frame (landSome_only (by simp) (by simp) _ only_refl) ?_
      | with_reducible refine tags_of_frame (modHatch_only (by simp) _ _ only_refl) ?_ | with_reducible apply landCloses_tags | with_reducible apply tags_ite
      | with_reducible apply tags_foldl | intro _ | (split) | with_reducible apply tags_mk)

theorem disableAll_tags (a0 : List Nat) {s : State} (h : tagsHeld s) : tagsHeld (disableAll a0 s) := by
  fun_induction disableAll a0 s
  all_goals intros
  all_goals repeat' first
      | with_reducible assumption | with_reducible apply_assumption | with_reducible apply disableChannel_tags | with_reducible apply tags_ite
      | with_reducible apply tags_foldl | intro _ | (split)

theorem doneEff_tags (a0 : Frame) {s : State} (h : tagsHeld s) : tagsHeld (doneEff a0 s) := by
  fun_cases doneEff a0 s
  all_goals (intros; (try dsimp only); repeat' first
      | with_reducible assumption | with_reducible apply completePoint_tags | with_reducible apply tags_ite | with_reducible apply tags_foldl | intro _
      | (split))

theorem doorError_tags (a0 : Nat) {s : State} (h : tagsHeld s) : tagsHeld (doorError a0 s) := by
  fun_cases doorError a0 s
  all_goals (intros; (try dsimp only); repeat' first
      | with_reducible assumption | with_reducible apply ctxFault_tags | with_reducible apply tags_ite | with_reducible apply tags_foldl | intro _ | (split))

theorem dropQueue_tags (a0 : Nat) {s : State} (h : tagsHeld s) : tagsHeld (dropQueue a0 s) := by
  unfold dropQueue
  extract_lets line t
  have ht : tagsHeld t := modHost_tags _ rfl rfl (killDesc_tags _ h)
  exact ht

theorem dropUnwritten_tags {s : State} (h : tagsHeld s) : tagsHeld (dropUnwritten s) :=
  tags_map (fun r => { r with purpose := .dead }) (fun _ => rfl) rfl rfl h

theorem endBare_tags (a0 : Nat) {s : State} (h : tagsHeld s) : tagsHeld (endBare a0 s) := by
  fun_cases endBare a0 s
  all_goals (intros; (try dsimp only); repeat' first
      | with_reducible assumption | with_reducible apply allEnded_tags | with_reducible apply tags_ite | with_reducible apply tags_foldl | intro _ | (split))

theorem endFrameEff_tags (a0 : Frame) {s : State} (h : tagsHeld s) : tagsHeld (endFrameEff a0 s) := by
  fun_cases endFrameEff a0 s
  all_goals (intros; (try dsimp only); repeat' first
      | with_reducible assumption | with_reducible refine tags_of_frame (markEnded_only (by simp) _ _ only_refl) ?_ | with_reducible apply leaderEnd_tags
      | with_reducible apply tags_ite | with_reducible apply tags_foldl | intro _ | (split))

theorem endQueue_tags (a0 : Nat) {s : State} (h : tagsHeld s) : tagsHeld (endQueue a0 s) := by
  fun_cases endQueue a0 s
  all_goals (intros; (try dsimp only); repeat' first
      | with_reducible assumption | with_reducible apply dropQueue_tags | with_reducible apply respond_tags | with_reducible apply tags_ite
      | with_reducible apply tags_foldl | intro _ | (split))

theorem endReportEff_tags (a1 a2 : Nat) {s : State} (h : tagsHeld s) : tagsHeld (endReportEff s a1 a2) := by
  fun_cases endReportEff s a1 a2
  all_goals (intros; (try dsimp only); repeat' first
      | with_reducible assumption | with_reducible apply allEnded_tags | with_reducible refine tags_of_frame (modTask_only (by simp) _ _ only_refl) ?_
      | with_reducible apply tags_ite | with_reducible apply tags_foldl | intro _ | (split))

theorem stage_tags (a0 : Nat) (a1 : MsgWord) (a2 : List (BitVec 32)) {s : State} (h : tagsHeld s) : tagsHeld (stage a0 a1 a2 s) := by
  fun_cases stage a0 a1 a2 s
  all_goals (intros; (try dsimp only); repeat' first
      | with_reducible assumption | with_reducible refine tags_of_frame (await_only (by simp) _ only_refl) ?_ | with_reducible apply respond_tags
      | (with_reducible refine modSteward_tags _ ?_) | with_reducible apply tags_ite | with_reducible apply tags_foldl | intro _ | (split))

theorem fabricSetEff_tags (a1 : Nat) (a2 : MsgWord) (a3 : Option (List (BitVec 32))) {s : State} (h : tagsHeld s) : tagsHeld (fabricSetEff s a1 a2 a3) := by
  fun_cases fabricSetEff s a1 a2 a3
  all_goals (intros; (try dsimp only); repeat' first
      | with_reducible assumption | with_reducible apply stage_tags | with_reducible apply respond_tags | with_reducible apply tags_ite
      | with_reducible apply tags_foldl | intro _ | (split))

theorem putMirror_tags (a0 : Nat) {s : State} (h : tagsHeld s) : tagsHeld (putMirror a0 s) := by
  fun_cases putMirror a0 s
  all_goals (intros; (try dsimp only); repeat' first
      | with_reducible assumption | with_reducible apply porchPut_tags | with_reducible apply tags_ite | with_reducible apply tags_foldl | intro _ | (split))

theorem putMirrors_tags (a0 : List Nat) {s : State} (h : tagsHeld s) : tagsHeld (putMirrors a0 s) := by
  fun_induction putMirrors a0 s
  all_goals intros
  all_goals repeat' first
      | with_reducible assumption | with_reducible apply_assumption | with_reducible apply putMirror_tags | with_reducible apply tags_ite
      | with_reducible apply tags_foldl | intro _ | (split)

theorem porchWant_tags (a0 : Nat) {s : State} (h : tagsHeld s) : tagsHeld (porchWant a0 s) := by
  fun_cases porchWant a0 s
  all_goals (intros; (try dsimp only); repeat' first
      | with_reducible assumption | with_reducible apply porchFill_tags | with_reducible apply tags_ite | with_reducible apply tags_foldl | intro _ | (split))

theorem readDoors_tags (a0 : List Nat) {s : State} (h : tagsHeld s) : tagsHeld (readDoors a0 s) := by
  fun_induction readDoors a0 s
  all_goals intros
  all_goals repeat' first
      | with_reducible assumption | with_reducible apply_assumption | with_reducible apply porchWant_tags | with_reducible apply tags_ite
      | with_reducible apply tags_foldl | intro _ | (split)

theorem unDestroy_tags (a0 : Nat) {s : State} (h : tagsHeld s) : tagsHeld (unDestroy a0 s) := by
  fun_cases unDestroy a0 s
  all_goals (intros; (try dsimp only); repeat' first
      | with_reducible assumption | with_reducible refine tags_of_frame (unStop_only (by simp) _ only_refl) ?_ | with_reducible apply readDoors_tags
      | with_reducible apply putMirrors_tags | with_reducible refine tags_of_frame (unAborts_only (by simp) _ only_refl) ?_
      | with_reducible apply putStatusAll_tags | with_reducible refine tags_of_frame (modCtx_only (by simp) _ _ only_refl) ?_
      | with_reducible apply tryRecords_tags | with_reducible refine tags_of_frame (promote_only (by simp) only_refl) ?_
      | (with_reducible refine modSteward_tags _ ?_) | with_reducible apply tags_ite | with_reducible apply tags_foldl | intro _ | (split))

theorem undoCommand_tags (a0 : Nat) (a1 : MsgWord) {s : State} (h : tagsHeld s) : tagsHeld (undoCommand a0 a1 s) := by
  fun_cases undoCommand a0 a1 s
  all_goals (intros; (try dsimp only); repeat' first
      | with_reducible assumption | with_reducible refine tags_of_frame (unReset_only (by simp) (by simp) _ only_refl) ?_
      | with_reducible refine tags_of_frame (unFreeze_only (by simp) _ only_refl) ?_ | with_reducible apply unDestroy_tags
      | with_reducible refine tags_of_frame (unAborts_only (by simp) _ only_refl) ?_
      | with_reducible refine tags_of_frame (endTests_only (by simp) _ only_refl) ?_ | with_reducible apply dropQueue_tags | with_reducible apply cutWork_tags
      | (with_reducible refine modSteward_tags _ ?_) | with_reducible apply tags_ite | with_reducible apply tags_foldl | intro _ | (split))

theorem failOver_tags (a0 : List Nat) {s : State} (h : tagsHeld s) : tagsHeld (failOver a0 s) := by
  fun_induction failOver a0 s
  all_goals intros
  all_goals repeat' first
      | with_reducible assumption | with_reducible apply_assumption | with_reducible apply undoCommand_tags | with_reducible apply respond_tags
      | with_reducible apply tags_ite | with_reducible apply tags_foldl | intro _ | (split)

theorem setFence_tags (a0 : Nat) (a1 : Bool) {s : State} (h : tagsHeld s) : tagsHeld (setFence a0 a1 s) := by
  fun_cases setFence a0 a1 s
  all_goals (intros; (try dsimp only); repeat' first
      | with_reducible assumption | with_reducible apply putMirror_tags | with_reducible refine tags_of_frame (promote_only (by simp) only_refl) ?_
      | with_reducible apply tags_ite | with_reducible apply tags_foldl | intro _ | (split) | with_reducible apply tags_mk)

theorem fenceActionEff_tags (a1 : Nat) {s : State} (h : tagsHeld s) : tagsHeld (fenceActionEff s a1) := by
  fun_cases fenceActionEff s a1
  all_goals (intros; (try dsimp only); repeat' first
      | with_reducible assumption | with_reducible apply setFence_tags | with_reducible refine tags_of_frame (promote_only (by simp) only_refl) ?_
      | with_reducible refine tags_of_frame (modQueue_only (by simp) _ _ only_refl) ?_ | with_reducible apply tags_ite | with_reducible apply tags_foldl
      | intro _ | (split))

theorem fenceAllocEff_tags (a1 : Nat) (a2 : MsgWord) {s : State} (h : tagsHeld s) : tagsHeld (fenceAllocEff s a1 a2) := by
  fun_cases fenceAllocEff s a1 a2
  all_goals (intros; (try dsimp only); repeat' first
      | with_reducible assumption | with_reducible apply respond_tags | (with_reducible refine modSteward_tags _ ?_) | with_reducible apply tags_ite
      | with_reducible apply tags_foldl | intro _ | (split))

theorem fenceFreeEff_tags (a1 : Nat) (a2 : MsgWord) {s : State} (h : tagsHeld s) : tagsHeld (fenceFreeEff s a1 a2) := by
  fun_cases fenceFreeEff s a1 a2
  all_goals (intros; (try dsimp only); repeat' first
      | with_reducible assumption | with_reducible apply respond_tags | (with_reducible refine modSteward_tags _ ?_) | with_reducible apply tags_ite
      | with_reducible apply tags_foldl | intro _ | (split))

theorem fenceSignalEff_tags (a1 : Nat) (a2 : MsgWord) {s : State} (h : tagsHeld s) : tagsHeld (fenceSignalEff s a1 a2) := by
  fun_cases fenceSignalEff s a1 a2
  all_goals (intros; (try dsimp only); repeat' first
      | with_reducible assumption | with_reducible apply setFence_tags | with_reducible apply respond_tags | with_reducible apply tags_ite
      | with_reducible apply tags_foldl | intro _ | (split))

theorem fetchEff_tags (a1 : Nat) {s : State} (h : tagsHeld s) : tagsHeld (fetchEff s a1) := by
  fun_cases fetchEff s a1
  all_goals (intros; (try dsimp only); repeat' first
      | with_reducible assumption | with_reducible refine tags_of_frame (modMbox_only (by simp) _ _ only_refl) ?_ | with_reducible apply issueReq_tags
      | with_reducible apply tags_ite | with_reducible apply tags_foldl | intro _ | (split))

theorem pumpReq_tags {s : State} (h : tagsHeld s) : tagsHeld (pumpReq s) := by
  fun_cases pumpReq s
  all_goals (intros; (try dsimp only); repeat' first
      | with_reducible assumption | with_reducible apply issueReq_tags | with_reducible apply tags_ite | with_reducible apply tags_foldl | intro _ | (split)
      | with_reducible apply tags_mk | (refine tags_of_eq (s := s) rfl rfl ?_))

theorem freeReq_tags (a0 : Nat) {s : State} (h : tagsHeld s) : tagsHeld (freeReq a0 s) := by
  unfold freeReq
  exact pumpReq_tags (modHost_sub_tags _ List.filter_sublist (List.Sublist.refl _) h)

theorem freezeEff_tags (a1 : Nat) (a2 : MsgWord) {s : State} (h : tagsHeld s) : tagsHeld (freezeEff s a1 a2) := by
  fun_cases freezeEff s a1 a2
  all_goals (intros; (try dsimp only); repeat' first
      | with_reducible assumption | with_reducible refine tags_of_frame (await_only (by simp) _ only_refl) ?_
      | with_reducible refine tags_of_frame (modSnap_only (by simp) _ only_refl) ?_ | with_reducible apply respond_tags | with_reducible apply tags_ite
      | with_reducible apply tags_foldl | intro _ | (split))

theorem freezeEndEff_tags {s : State} (h : tagsHeld s) : tagsHeld (freezeEndEff s) := by
  fun_cases freezeEndEff s
  all_goals (intros; (try dsimp only); repeat' first
      | with_reducible assumption | with_reducible apply answerReleases_tags | with_reducible refine tags_of_frame (modSnap_only (by simp) _ only_refl) ?_
      | with_reducible refine tags_of_frame (raiseInt_only (by simp) (by simp) _ only_refl) ?_ | with_reducible apply tags_ite
      | with_reducible apply tags_foldl | intro _ | (split))

theorem fwUpdateEff_tags (a1 : Nat) (a2 : MsgWord) (a3 : Option (List Byte)) {s : State} (h : tagsHeld s) : tagsHeld (fwUpdateEff s a1 a2 a3) := by
  fun_cases fwUpdateEff s a1 a2 a3
  all_goals (intros; (try dsimp only); repeat' first
      | with_reducible assumption | with_reducible refine tags_of_frame (queueKeep_only (by simp) _ _ _ only_refl) ?_
      | with_reducible refine tags_of_frame (await_only (by simp) _ only_refl) ?_ | with_reducible apply respond_tags | with_reducible apply tags_ite
      | with_reducible apply tags_foldl | intro _ | (split))

theorem globalWrite_tags (a0 : BitVec 32) {s : State} (h : tagsHeld s) : tagsHeld (globalWrite a0 s) := by
  fun_cases globalWrite a0 s
  all_goals (intros; (try dsimp only); repeat' first
      | with_reducible assumption | with_reducible apply disableAll_tags | (with_reducible refine modShell_tags _ ?_) | with_reducible apply tags_ite
      | with_reducible apply tags_foldl | intro _ | (split))

theorem gotCopy_tags (a0 a1 a2 : Nat) {s : State} (h : tagsHeld s) : tagsHeld (gotCopy a0 a1 a2 s) := by
  fun_cases gotCopy a0 a1 a2 s
  all_goals (intros; (try dsimp only); repeat' first
      | with_reducible assumption | with_reducible apply endCopy_tags | with_reducible apply tags_ite | with_reducible apply tags_foldl | intro _ | (split)
      | with_reducible apply tags_mk)

theorem gotDesc_tags (a0 a1 a2 : Nat) (a3 : List Byte) {s : State} (h : tagsHeld s) : tagsHeld (gotDesc a0 a1 a2 a3 s) := by
  fun_cases gotDesc a0 a1 a2 a3 s
  all_goals (intros; (try dsimp only); repeat' first
      | with_reducible assumption | with_reducible apply ctxFault_tags | with_reducible refine tags_of_frame (modQueue_only (by simp) _ _ only_refl) ?_
      | with_reducible apply tags_ite | with_reducible apply tags_foldl | intro _ | (split))

theorem gotRecord_tags (a0 a1 a2 : Nat) {s : State} (h : tagsHeld s) : tagsHeld (gotRecord a0 a1 a2 s) := by
  unfold gotRecord
  split
  · exact h
  · next t _ =>
    extract_lets a b
    have ha : tagsHeld a := ctxFault_tags _ _ _ _ (tags_of_frame (by apply modTask_only <;> first | exact only_refl | simp) h)
    have hb : tagsHeld b := by
      unfold b
      split
      · exact setFence_tags _ _ ha
      · exact ha
    clear_value b
    exact tags_ite (tags_of_frame (by apply modTask_only <;> first | exact only_refl | simp) h) (resetAnswer_tags (endQueue_tags _ (tryRecord_tags _ hb)))

theorem lineError_tags (a0 : Nat) {s : State} (h : tagsHeld s) : tagsHeld (lineError a0 s) := by
  fun_cases lineError a0 s
  all_goals (intros; (try dsimp only); repeat' first
      | with_reducible assumption | with_reducible apply ctxFault_tags | (with_reducible refine modHost_tags _ rfl rfl ?_) | with_reducible apply tags_ite
      | with_reducible apply tags_foldl | intro _ | (split))

theorem porchEvict_tags (a0 : Nat) {s : State} (h : tagsHeld s) : tagsHeld (porchEvict a0 s) := by
  fun_cases porchEvict a0 s
  all_goals (intros; (try dsimp only); repeat' first
      | with_reducible assumption | with_reducible apply issueReq_tags | (with_reducible refine modHost_tags _ rfl rfl ?_) | with_reducible apply tags_ite
      | with_reducible apply tags_foldl | intro _ | (split))

theorem porchInstall_tags (a0 : Nat) (a1 : Bool) (a2 : List Byte) {s : State} (h : tagsHeld s) : tagsHeld (porchInstall a0 a1 a2 s) := by
  fun_cases porchInstall a0 a1 a2 s
  all_goals (intros; (try dsimp only); repeat' first
      | with_reducible assumption | with_reducible apply porchEvict_tags | (with_reducible refine modHost_tags _ rfl rfl ?_) | with_reducible apply tags_ite
      | with_reducible apply tags_foldl | intro _ | (split))

theorem gotAnswer_tags (a0 : HostReq) (a1 : Nat) (a2 : List Byte) {s : State} (h : tagsHeld s) : tagsHeld (gotAnswer a0 a1 a2 s) := by
  fun_cases gotAnswer a0 a1 a2 s
  all_goals (intros; (try dsimp only); repeat' first
      | with_reducible assumption | with_reducible apply porchInstall_tags | with_reducible apply lineError_tags
      | with_reducible refine tags_of_frame (gotRspAck_only (by simp) _ _ only_refl) ?_
      | with_reducible refine tags_of_frame (gotReq_only (by simp) _ _ _ only_refl) ?_ | with_reducible apply gotRecord_tags
      | with_reducible apply gotDesc_tags | with_reducible apply gotCopy_tags | with_reducible apply porchWant_tags | with_reducible apply doorError_tags
      | with_reducible apply createDone_tags | with_reducible apply tags_ite | with_reducible apply tags_foldl | intro _ | (split))

theorem granuleFreeEff_tags (a1 : Nat) (a2 : MsgWord) {s : State} (h : tagsHeld s) : tagsHeld (granuleFreeEff s a1 a2) := by
  fun_cases granuleFreeEff s a1 a2
  all_goals (intros; (try dsimp only); repeat' first
      | with_reducible assumption | with_reducible apply beginClose_tags | with_reducible apply respond_tags | with_reducible apply tags_ite
      | with_reducible apply tags_foldl | intro _ | (split))

theorem healthQueryEff_tags (a1 : Nat) (a2 : MsgWord) {s : State} (h : tagsHeld s) : tagsHeld (healthQueryEff s a1 a2) := by
  fun_cases healthQueryEff s a1 a2
  all_goals (intros; (try dsimp only); repeat' first
      | with_reducible assumption | with_reducible apply respond_tags | with_reducible apply tags_ite | with_reducible apply tags_foldl | intro _ | (split))

theorem healthSetEff_tags (a1 : Nat) (a2 : MsgWord) {s : State} (h : tagsHeld s) : tagsHeld (healthSetEff s a1 a2) := by
  fun_cases healthSetEff s a1 a2
  all_goals (intros; (try dsimp only); repeat' first
      | with_reducible assumption | with_reducible apply stage_tags | with_reducible apply respond_tags | with_reducible apply tags_ite
      | with_reducible apply tags_foldl | intro _ | (split))

theorem hostRspEff_tags (a1 a2 : Nat) (a3 : List Byte) {s : State} (h : tagsHeld s) : tagsHeld (hostRspEff s a1 a2 a3) := by
  unfold hostRspEff
  refine tags_ite (modHost_tags _ rfl rfl h) ?_
  split
  · exact gotAnswer_tags _ _ _ (freeReq_tags _ h)
  · exact tags_ite (modHost_sub_tags _ (List.Sublist.refl _) List.filter_sublist h) h

theorem tryLoad_tags (a0 a1 a2 : Nat) (a3 : List Byte) {s : State} (h : tagsHeld s) : tagsHeld (tryLoad a0 a1 a2 a3 s) := by
  unfold tryLoad
  extract_lets prior
  clear_value prior
  split
  · refine answerReject_tags _ _ ?_
    exact tags_of_frame (by apply undoLoad_only <;> first | exact only_refl | simp) h
  · refine tags_ite (tags_of_frame (by apply loadClaim_only <;> first | exact only_refl | simp) h) (respond_tags _ _ _ ?_)
    refine tags_of_frame (by apply endLoad_only <;> first | exact only_refl | simp) ?_
    refine tags_of_frame (by apply forgetRounds_only <;> first | exact only_refl | simp) ?_
    exact tags_of_frame (by apply placeImage_only <;> first | exact only_refl | simp) h

theorem imageLoadEff_tags (a1 : Nat) (a2 : MsgWord) (a3 : Option (List Byte)) {s : State} (h : tagsHeld s) : tagsHeld (imageLoadEff s a1 a2 a3) := by
  fun_cases imageLoadEff s a1 a2 a3
  all_goals (intros; (try dsimp only); repeat' first
      | with_reducible assumption | with_reducible apply tryLoad_tags | with_reducible apply respond_tags | with_reducible apply tags_ite
      | with_reducible apply tags_foldl | intro _ | (split))

theorem imageUnloadEff_tags (a1 : Nat) (a2 : MsgWord) {s : State} (h : tagsHeld s) : tagsHeld (imageUnloadEff s a1 a2) := by
  fun_cases imageUnloadEff s a1 a2
  all_goals (intros; (try dsimp only); repeat' first
      | with_reducible assumption | with_reducible apply beginUnload_tags | with_reducible apply respond_tags | with_reducible apply tags_ite
      | with_reducible apply tags_foldl | intro _ | (split))

theorem keepFailed_tags (a0 : KeepWrite) (a1 : List KeepWrite) {s : State} (h : tagsHeld s) : tagsHeld (keepFailed a0 a1 s) := by
  fun_cases keepFailed a0 a1 s
  all_goals (intros; (try dsimp only); repeat' first
      | with_reducible assumption | with_reducible refine tags_of_frame (forgetWrite_only (by simp) (by simp) (by simp) _ only_refl) ?_
      | with_reducible refine tags_of_frame (modKeep_only (by simp) _ only_refl) ?_ | with_reducible apply respond_tags | with_reducible apply tags_ite
      | with_reducible apply tags_foldl | intro _ | (split))

theorem keepComplete_tags (a0 : KeepWrite) {s : State} (h : tagsHeld s) : tagsHeld (keepComplete a0 s) := by
  fun_cases keepComplete a0 s
  all_goals (intros; (try dsimp only); repeat' first
      | with_reducible assumption | with_reducible refine tags_of_frame (modKeep_only (by simp) _ only_refl) ?_ | with_reducible apply respond_tags
      | with_reducible refine tags_of_frame (modHealth_only (by simp) _ only_refl) ?_ | with_reducible apply tags_ite | with_reducible apply tags_foldl
      | intro _ | (split))

theorem keepWrote_tags (a0 : KeepWrite) (a1 : List KeepWrite) {s : State} (h : tagsHeld s) : tagsHeld (keepWrote a0 a1 s) := by
  fun_cases keepWrote a0 a1 s
  all_goals (intros; (try dsimp only); repeat' first
      | with_reducible assumption | with_reducible apply keepComplete_tags | with_reducible refine tags_of_frame (modKeep_only (by simp) _ only_refl) ?_
      | with_reducible apply tags_ite | with_reducible apply tags_foldl | intro _ | (split))

theorem keepAckEff_tags (a1 : Bool) (a2 : List Byte) {s : State} (h : tagsHeld s) : tagsHeld (keepAckEff s a1 a2) := by
  fun_cases keepAckEff s a1 a2
  all_goals (intros; (try dsimp only); repeat' first
      | with_reducible assumption | with_reducible apply keepWrote_tags | with_reducible refine tags_of_frame (keepRead_only (by simp) _ _ only_refl) ?_
      | with_reducible apply keepFailed_tags | with_reducible refine tags_of_frame (flushDone_only (by simp) only_refl) ?_ | with_reducible apply tags_ite
      | with_reducible apply tags_foldl | intro _ | (split))

theorem landedEff_tags (a1 : Nat) (a2 : Option (List Byte)) {s : State} (h : tagsHeld s) : tagsHeld (landedEff s a1 a2) := by
  fun_cases landedEff s a1 a2
  all_goals (intros; (try dsimp only); repeat' first
      | with_reducible assumption
      | with_reducible refine tags_of_frame (landBurst_only (by simp) (by simp) (by simp) (by simp) (by simp) (by simp) (by simp) _ _ only_refl) ?_
      | with_reducible apply landCloses_tags | with_reducible apply tags_ite | with_reducible apply tags_foldl | intro _ | (split))

theorem launchBoundaryEff_tags (a1 : Nat) {s : State} (h : tagsHeld s) : tagsHeld (launchBoundaryEff s a1) := by
  unfold launchBoundaryEff
  split
  · exact h
  · split
    · exact h
    · refine tags_ite ?_ ?_
      · refine tags_of_frame (by apply haltTask_only <;> first | exact only_refl | simp) ?_
        exact tags_of_frame (by apply launchVoid_only <;> first | exact only_refl | simp) h
      · split
        · exact endBare_tags _ (tags_of_frame (by apply launchTask_only <;> first | exact only_refl | simp) h)
        · refine tags_ite (tags_of_frame (by apply promote_only <;> first | exact only_refl | simp) (finishTask_tags _ _ _ h)) ?_
          refine tags_of_frame (by apply haltTask_only <;> first | exact only_refl | simp) ?_
          exact tags_of_frame (by apply launchVoid_only <;> first | exact only_refl | simp) h

theorem linkNoPeerEff_tags (a1 a2 : Nat) {s : State} (h : tagsHeld s) : tagsHeld (linkNoPeerEff s a1 a2) := by
  fun_cases linkNoPeerEff s a1 a2
  all_goals (intros; (try dsimp only); repeat' first
      | with_reducible assumption | with_reducible apply respond_tags | with_reducible refine tags_of_frame (modPort_only (by simp) _ _ _ only_refl) ?_
      | with_reducible apply tags_ite | with_reducible apply tags_foldl | intro _ | (split))

theorem linkTestEff_tags (a1 : Nat) (a2 : MsgWord) {s : State} (h : tagsHeld s) : tagsHeld (linkTestEff s a1 a2) := by
  fun_cases linkTestEff s a1 a2
  all_goals (intros; (try dsimp only); repeat' first
      | with_reducible assumption | with_reducible refine tags_of_frame (await_only (by simp) _ only_refl) ?_ | with_reducible apply respond_tags
      | with_reducible refine tags_of_frame (putPort_only (by simp) _ _ _ only_refl) ?_ | with_reducible apply tags_ite | with_reducible apply tags_foldl
      | intro _ | (split) | with_reducible apply tags_mk)

theorem linkTestEndEff_tags (a1 a2 : Nat) (a3 : LinkTestResult) {s : State} (h : tagsHeld s) : tagsHeld (linkTestEndEff s a1 a2 a3) := by
  fun_cases linkTestEndEff s a1 a2 a3
  all_goals (intros; (try dsimp only); repeat' first
      | with_reducible assumption | with_reducible apply respond_tags | with_reducible refine tags_of_frame (modPort_only (by simp) _ _ _ only_refl) ?_
      | with_reducible apply tags_ite | with_reducible apply tags_foldl | intro _ | (split))

theorem loopEff_tags (a1 a2 : Nat) (a3 : Bool) (a4 : Nat) {s : State} (h : tagsHeld s) : tagsHeld (loopEff s a1 a2 a3 a4) := by
  fun_cases loopEff s a1 a2 a3 a4
  all_goals (intros; (try dsimp only); repeat' first
      | with_reducible assumption | with_reducible apply respond_tags | with_reducible refine tags_of_frame (modPort_only (by simp) _ _ _ only_refl) ?_
      | with_reducible refine tags_of_frame (putPort_only (by simp) _ _ _ only_refl) ?_ | with_reducible apply tags_ite | with_reducible apply tags_foldl
      | intro _ | (split) | with_reducible apply tags_mk)

theorem mboxWord_tags (a0 a1 : Nat) (a2 : BitVec 32) {s : State} (h : tagsHeld s) : tagsHeld (mboxWord a0 a1 a2 s) := by
  fun_cases mboxWord a0 a1 a2 s
  all_goals (intros; (try dsimp only); repeat' first
      | with_reducible assumption | with_reducible refine tags_of_frame (doorbellWrite_only (by simp) _ _ only_refl) ?_ | with_reducible apply ctrlWrite_tags
      | with_reducible refine tags_of_frame (modMbox_only (by simp) _ _ only_refl) ?_ | with_reducible apply tags_ite | with_reducible apply tags_foldl
      | intro _ | (split))

theorem mbxBindEff_tags (a1 : Nat) (a2 : MsgWord) {s : State} (h : tagsHeld s) : tagsHeld (mbxBindEff s a1 a2) := by
  fun_cases mbxBindEff s a1 a2
  all_goals (intros; (try dsimp only); repeat' first
      | with_reducible assumption | with_reducible apply respond_tags | with_reducible refine tags_of_frame (modMbox_only (by simp) _ _ only_refl) ?_
      | with_reducible apply tags_ite | with_reducible apply tags_foldl | intro _ | (split))

theorem narrowServiceEff_tags (a1 : Nat) {s : State} (h : tagsHeld s) : tagsHeld (narrowServiceEff s a1) := by
  fun_cases narrowServiceEff s a1
  all_goals (intros; (try dsimp only); repeat' first
      | with_reducible assumption
      | with_reducible refine tags_of_frame (serveStore_only (by simp) (by simp) (by simp) (by simp) (by simp) (by simp) _ _ _ _ only_refl) ?_
      | with_reducible refine tags_of_frame (serveLoad_only (by simp) (by simp) (by simp) (by simp) (by simp) _ _ _ _ only_refl) ?_
      | with_reducible apply landCloses_tags
      | with_reducible refine tags_of_frame (settle_only (by simp) (by simp) (by simp) (by simp) (by simp) (by simp) (by simp) (by simp) (by simp) _ only_refl) ?_
      | with_reducible refine tags_of_frame (takeCycle_only (by simp) _ only_refl) ?_ | with_reducible apply tags_ite | with_reducible apply tags_foldl
      | intro _ | (split))

theorem noReturnEff_tags {s : State} (h : tagsHeld s) : tagsHeld (noReturnEff s) := by
  unfold noReturnEff
  refine tags_of_frame (by apply startFlush_only <;> first | exact only_refl | simp) (dropUnwritten_tags ?_)
  exact tags_of_frame (by apply modSeq_only <;> first | exact only_refl | simp) h

theorem notAppliedEff_tags (a1 : Nat) {s : State} (h : tagsHeld s) : tagsHeld (notAppliedEff s a1) := by
  fun_cases notAppliedEff s a1
  all_goals (intros; (try dsimp only); repeat' first
      | with_reducible assumption | with_reducible refine tags_of_frame (discardStaged_only (by simp) (by simp) _ only_refl) ?_
      | with_reducible apply respond_tags | with_reducible apply tags_ite | with_reducible apply tags_foldl | intro _ | (split))

theorem openQueue_tags (a0 : Nat) (a1 : Queue) {s : State} (h : tagsHeld s) : tagsHeld (openQueue a0 a1 s) := by
  fun_cases openQueue a0 a1 s
  all_goals (intros; (try dsimp only); repeat' first
      | with_reducible assumption | with_reducible apply putStatus_tags | with_reducible apply porchFill_tags
      | with_reducible refine tags_of_frame (await_only (by simp) _ only_refl) ?_ | with_reducible apply respond_tags
      | (with_reducible refine modSteward_tags _ ?_) | with_reducible apply tags_ite | with_reducible apply tags_foldl | intro _ | (split))

theorem overtakeReset_tags {s : State} (h : tagsHeld s) : tagsHeld (overtakeReset s) := by
  fun_cases overtakeReset s
  all_goals (intros; (try dsimp only); repeat' first
      | with_reducible assumption | with_reducible apply respondAll_tags | with_reducible refine tags_of_frame (modSeq_only (by simp) _ only_refl) ?_
      | with_reducible apply tags_ite | with_reducible apply tags_foldl | intro _ | (split))

theorem portCycleEff_tags (a1 : Nat) {s : State} (h : tagsHeld s) : tagsHeld (portCycleEff s a1) := by
  fun_cases portCycleEff s a1
  all_goals (intros; (try dsimp only); repeat' first
      | with_reducible assumption | with_reducible apply landCloses_tags | with_reducible refine tags_of_frame (modStore_only (by simp) _ only_refl) ?_
      | with_reducible refine tags_of_frame (takeCycle_only (by simp) _ only_refl) ?_ | with_reducible apply tags_ite | with_reducible apply tags_foldl
      | intro _ | (split))

theorem postedEff_tags (a1 : Nat) (a2 a3 : BitVec 32) {s : State} (h : tagsHeld s) : tagsHeld (postedEff s a1 a2 a3) := by
  fun_cases postedEff s a1 a2 a3
  all_goals (intros; (try dsimp only); repeat' first
      | with_reducible assumption | with_reducible refine tags_of_frame (promote_only (by simp) only_refl) ?_ | with_reducible apply tryRecord_tags
      | with_reducible refine tags_of_frame (modQueue_only (by simp) _ _ only_refl) ?_ | with_reducible apply tags_ite | with_reducible apply tags_foldl
      | intro _ | (split))

theorem refuseStaged_tags (a0 : List Staged) {s : State} (h : tagsHeld s) : tagsHeld (refuseStaged a0 s) := by
  fun_induction refuseStaged a0 s
  all_goals intros
  all_goals repeat' first
      | with_reducible assumption | with_reducible apply_assumption
      | with_reducible refine tags_of_frame (discardStaged_only (by simp) (by simp) _ only_refl) ?_ | with_reducible apply respond_tags
      | with_reducible apply tags_ite | with_reducible apply tags_foldl | intro _ | (split)

theorem powerDownEff_tags {s : State} (h : tagsHeld s) : tagsHeld (powerDownEff s) := by
  fun_cases powerDownEff s
  all_goals (intros; (try dsimp only); repeat' first
      | with_reducible assumption | with_reducible refine tags_of_frame (stopChannels_only (by simp) _ only_refl) ?_ | with_reducible apply refuseStaged_tags
      | with_reducible apply overtakeReset_tags | with_reducible refine tags_of_frame (setPhase_only (by simp) (by simp) (by simp) (by simp) _ only_refl) ?_
      | with_reducible refine tags_of_frame (haltAll_only (by simp) (by simp) _ _ _ only_refl) ?_
      | with_reducible refine tags_of_frame (modSeq_only (by simp) _ only_refl) ?_ | with_reducible apply tags_ite | with_reducible apply tags_foldl | intro _
      | (split))

theorem pulseEff_tags (a1 : Int) {s : State} (h : tagsHeld s) : tagsHeld (pulseEff s a1) := by
  fun_cases pulseEff s a1
  all_goals (intros; (try dsimp only); repeat' first
      | with_reducible assumption | with_reducible apply applyTheta_tags | with_reducible refine tags_of_frame (modTime_only (by simp) _ only_refl) ?_
      | with_reducible apply tags_ite | with_reducible apply tags_foldl | intro _ | (split))

theorem qstateResetEff_tags (a1 : Nat) (a2 : MsgWord) {s : State} (h : tagsHeld s) : tagsHeld (qstateResetEff s a1 a2) := by
  fun_cases qstateResetEff s a1 a2
  all_goals (intros; (try dsimp only); repeat' first
      | with_reducible assumption | with_reducible refine tags_of_frame (modStore_only (by simp) _ only_refl) ?_ | with_reducible apply respond_tags
      | with_reducible apply tags_ite | with_reducible apply tags_foldl | intro _ | (split))

theorem queueCreateEff_tags (a1 : Nat) (a2 : MsgWord) {s : State} (h : tagsHeld s) : tagsHeld (queueCreateEff s a1 a2) := by
  fun_cases queueCreateEff s a1 a2
  all_goals (intros; (try dsimp only); repeat' first
      | with_reducible assumption | with_reducible apply openQueue_tags | with_reducible apply respond_tags | with_reducible apply tags_ite
      | with_reducible apply tags_foldl | intro _ | (split))

theorem queueDestroyEff_tags (a1 : Nat) (a2 : MsgWord) {s : State} (h : tagsHeld s) : tagsHeld (queueDestroyEff s a1 a2) := by
  fun_cases queueDestroyEff s a1 a2
  all_goals (intros; (try dsimp only); repeat' first
      | with_reducible assumption | with_reducible apply endQueue_tags | with_reducible apply killDesc_tags
      | with_reducible refine tags_of_frame (await_only (by simp) _ only_refl) ?_ | with_reducible apply respond_tags
      | with_reducible refine tags_of_frame (modQueue_only (by simp) _ _ only_refl) ?_ | with_reducible apply tags_ite | with_reducible apply tags_foldl
      | intro _ | (split))

theorem readyEff_tags (a0 : Frame) {s : State} (h : tagsHeld s) : tagsHeld (readyEff a0 s) := by
  fun_cases readyEff a0 s
  all_goals (intros; (try dsimp only); repeat' first
      | with_reducible assumption | with_reducible apply tryRound_tags | with_reducible apply leaderRefuse_tags
      | with_reducible refine tags_of_frame (modFabric_only (by simp) _ only_refl) ?_ | with_reducible apply tags_ite | with_reducible apply tags_foldl
      | intro _ | (split))

theorem recordAckEff_tags (a1 : Nat) {s : State} (h : tagsHeld s) : tagsHeld (recordAckEff s a1) := by
  unfold recordAckEff
  split
  · exact h
  · next t _ =>
    extract_lets a b c
    have ha : tagsHeld a := putStatus_tags _ (tags_of_frame (by apply modQueue_only <;> first | exact only_refl | simp) (tags_of_frame (by apply modTask_only <;> first | exact only_refl | simp) h))
    have hb : tagsHeld b := by
      unfold b
      split
      · exact setFence_tags _ _ ha
      · exact ha
    clear_value b
    have hc : tagsHeld c := tags_ite (tags_of_frame (by apply addEvt_only <;> first | exact only_refl | simp) hb) hb
    clear_value c
    refine resetAnswer_tags (tags_of_frame (by apply promote_only <;> first | exact only_refl | simp) (endQueue_tags _ (tryRecord_tags _ (tags_ite hc ?_))))
    exact tags_of_frame (by apply trace_only <;> first | exact only_refl | simp) hc

theorem refuseEff_tags (a0 : Frame) {s : State} (h : tagsHeld s) : tagsHeld (refuseEff a0 s) := by
  fun_cases refuseEff a0 s
  all_goals (intros; (try dsimp only); repeat' first
      | with_reducible assumption | with_reducible refine tags_of_frame (modFabric_only (by simp) _ only_refl) ?_
      | with_reducible refine tags_of_frame (promote_only (by simp) only_refl) ?_ | with_reducible apply finishTask_tags | with_reducible apply tags_ite
      | with_reducible apply tags_foldl | intro _ | (split))

theorem regWord_tags (a0 : Nat) (a1 : BitVec 32) {s : State} (h : tagsHeld s) : tagsHeld (regWord a0 a1 s) := by
  fun_cases regWord a0 a1 s
  all_goals (intros; (try dsimp only); repeat' first
      | with_reducible assumption | with_reducible apply mboxWord_tags
      | with_reducible refine tags_of_frame (hatchWord_only (by simp) (by simp) (by simp) (by simp) _ _ _ only_refl) ?_
      | with_reducible refine tags_of_frame (hallWord_only (by simp) _ _ _ only_refl) ?_ | with_reducible apply globalWrite_tags
      | with_reducible refine tags_of_frame (gateWord_only (by simp) _ _ _ only_refl) ?_
      | with_reducible refine tags_of_frame (engineWord_only (by simp) (by simp) (by simp) (by simp) (by simp) (by simp) (by simp) (by simp) (by simp) (by simp) _ _ only_refl) ?_
      | with_reducible apply tags_ite | with_reducible apply tags_foldl | intro _ | (split))

theorem registerWriteEff_tags (a1 a2 a3 : Nat) (a4 : BitVec 64) {s : State} (h : tagsHeld s) : tagsHeld (registerWriteEff s a1 a2 a3 a4) := by
  fun_cases registerWriteEff s a1 a2 a3 a4
  all_goals (intros; (try dsimp only); repeat' first
      | with_reducible assumption | with_reducible apply regWord_tags | with_reducible refine tags_of_frame (regReply_only (by simp) _ _ _ only_refl) ?_
      | with_reducible apply tags_ite | with_reducible apply tags_foldl | intro _ | (split))

theorem releaseEff_tags (a1 : Nat) {s : State} (h : tagsHeld s) : tagsHeld (releaseEff s a1) := by
  fun_cases releaseEff s a1
  all_goals (intros; (try dsimp only); repeat' first
      | with_reducible assumption | with_reducible refine tags_of_frame (endFreeze_only (by simp) only_refl) ?_
      | with_reducible refine tags_of_frame (await_only (by simp) _ only_refl) ?_
      | with_reducible refine tags_of_frame (modSnap_only (by simp) _ only_refl) ?_ | with_reducible apply respond_tags | with_reducible apply tags_ite
      | with_reducible apply tags_foldl | intro _ | (split))

theorem remoteEff_tags (a1 : Nat) {s : State} (h : tagsHeld s) : tagsHeld (remoteEff s a1) := by
  fun_cases remoteEff s a1
  all_goals (intros; (try dsimp only); repeat' first
      | with_reducible assumption | with_reducible apply landCloses_tags | with_reducible refine tags_of_frame (modStore_only (by simp) _ only_refl) ?_
      | with_reducible refine tags_of_frame (takeCycle_only (by simp) _ only_refl) ?_
      | with_reducible refine tags_of_frame (addSignal_only (by simp) _ _ only_refl) ?_ | with_reducible apply tags_ite | with_reducible apply tags_foldl
      | intro _ | (split))

theorem requestEff_tags (a1 : Nat) (a2 : MsgWord) {s : State} (h : tagsHeld s) : tagsHeld (requestEff s a1 a2) := by
  have ht : tagsHeld (takeWord a1 a2 s) := tags_of_frame (by apply takeWord_only <;> first | exact only_refl | simp) h
  have hu : tagsHeld (modMbox a1 (fun b => { b with executing := some a2, awaits := false }) (takeWord a1 a2 s)) := tags_of_frame (by apply modMbox_only <;> first | exact only_refl | simp) ht
  unfold requestEff
  dsimp only
  split
  · exact writeRsp_tags _ _ _ _ ht
  · exact writeRsp_tags _ _ _ _ ht
  · split
    · exact respond_tags _ _ _ hu
    · exact hu

theorem resetRequestEff_tags (a1 : Nat) (a2 : MsgWord) {s : State} (h : tagsHeld s) : tagsHeld (resetRequestEff s a1 a2) := by
  fun_cases resetRequestEff s a1 a2
  all_goals (intros; (try dsimp only); repeat' first
      | with_reducible assumption | with_reducible refine tags_of_frame (endFreeze_only (by simp) only_refl) ?_ | with_reducible apply askReset_tags
      | with_reducible apply respond_tags | with_reducible refine tags_of_frame (modSeq_only (by simp) _ only_refl) ?_ | with_reducible apply tags_ite
      | with_reducible apply tags_foldl | intro _ | (split))

theorem tryAlloc_tags (a0 : Nat) (a1 : MsgWord) {s : State} (h : tagsHeld s) : tagsHeld (tryAlloc a0 a1 s) := by
  fun_cases tryAlloc a0 a1 s
  all_goals (intros; (try dsimp only); repeat' first
      | with_reducible assumption | with_reducible refine tags_of_frame (await_only (by simp) _ only_refl) ?_
      | with_reducible refine tags_of_frame (modStore_only (by simp) _ only_refl) ?_ | with_reducible apply respond_tags | with_reducible apply tags_ite
      | with_reducible apply tags_foldl | intro _ | (split))

theorem retryWaiting_tags (a0 : List (Nat × Mailbox)) {s : State} (h : tagsHeld s) : tagsHeld (retryWaiting a0 s) := by
  fun_induction retryWaiting a0 s
  all_goals intros
  all_goals repeat' first
      | with_reducible assumption | with_reducible apply_assumption | with_reducible apply tryAlloc_tags | with_reducible apply tryLoad_tags
      | with_reducible apply tags_ite | with_reducible apply tags_foldl | intro _ | (split)

theorem rollCloseEff_tags {s : State} (h : tagsHeld s) : tagsHeld (rollCloseEff s) := by
  fun_cases rollCloseEff s
  all_goals (intros; (try dsimp only); repeat' first
      | with_reducible assumption
      | with_reducible refine tags_of_frame (registrarActs_only (by simp) (by simp) (by simp) (by simp) (by simp) (by simp) _ _ only_refl) ?_
      | with_reducible apply checkAll_tags | with_reducible refine tags_of_frame (modFabric_only (by simp) _ only_refl) ?_
      | with_reducible refine tags_of_frame (promote_only (by simp) only_refl) ?_ | with_reducible apply tags_ite | with_reducible apply tags_foldl | intro _
      | (split))

theorem sbPinSetEff_tags (a1 : Nat) (a2 : MsgWord) {s : State} (h : tagsHeld s) : tagsHeld (sbPinSetEff s a1 a2) := by
  fun_cases sbPinSetEff s a1 a2
  all_goals (intros; (try dsimp only); repeat' first
      | with_reducible assumption | with_reducible apply stage_tags | with_reducible apply respond_tags | with_reducible apply tags_ite
      | with_reducible apply tags_foldl | intro _ | (split))

theorem snoopInvEff_tags (a1 a2 : Nat) {s : State} (h : tagsHeld s) : tagsHeld (snoopInvEff s a1 a2) := by
  fun_cases snoopInvEff s a1 a2
  all_goals (intros; (try dsimp only); repeat' first
      | with_reducible assumption | with_reducible refine tags_of_frame (snoopReply_only (by simp) _ _ only_refl) ?_ | with_reducible apply porchWant_tags
      | (with_reducible refine modHost_tags _ rfl rfl ?_) | with_reducible apply tags_ite | with_reducible apply tags_foldl | intro _ | (split))

theorem stampEff_tags (a1 a2 : Nat) (a3 : Exchange) (a4 : Bool) {s : State} (h : tagsHeld s) : tagsHeld (stampEff s a1 a2 a3 a4) := by
  fun_cases stampEff s a1 a2 a3 a4
  all_goals (intros; (try dsimp only); repeat' first
      | with_reducible assumption | with_reducible apply applyTheta_tags | with_reducible refine tags_of_frame (modTime_only (by simp) _ only_refl) ?_
      | with_reducible apply tags_ite | with_reducible apply tags_foldl | intro _ | (split))

theorem startHard_tags (a0 : BitVec 64) (a1 : BitVec 384) (a2 : BitVec 16) {s : State} (h : tagsHeld s) : tagsHeld (startHard a0 a1 a2 s) := by
  fun_cases startHard a0 a1 a2 s
  all_goals (intros; (try dsimp only); repeat' first
      | with_reducible assumption | with_reducible refine tags_of_frame (setPhase_only (by simp) (by simp) (by simp) (by simp) _ only_refl) ?_
      | with_reducible apply hardReset_tags | with_reducible apply tags_ite | with_reducible apply tags_foldl | intro _ | (split)
      | with_reducible apply tags_mk)

theorem stewardRestart_tags {s : State} (h : tagsHeld s) : tagsHeld (stewardRestart s) := by
  have ht : tagsHeld (hatchReset (List.range s.params.hatchChannels) s) := tags_of_frame (by apply hatchReset_only <;> first | exact only_refl | simp) h
  unfold stewardRestart
  generalize hatchReset (List.range s.params.hatchChannels) s = t at ht ⊢
  dsimp only
  refine tags_of_frame (by apply settleHealth_only <;> first | exact only_refl | simp) ?_
  exact tags_map (s := t) (fun r => { r with purpose := stewardPurpose r.purpose }) (fun _ => rfl) rfl rfl ht

theorem storeCopyEff_tags (a1 : Nat) (a2 : MsgWord) (a3 : Option (List Byte)) {s : State} (h : tagsHeld s) : tagsHeld (storeCopyEff s a1 a2 a3) := by
  fun_cases storeCopyEff s a1 a2 a3
  all_goals (intros; (try dsimp only); repeat' first
      | with_reducible assumption | with_reducible refine tags_of_frame (scramble_only (by simp) (by simp) _ only_refl) ?_ | with_reducible apply copyOut_tags
      | with_reducible refine tags_of_frame (copyLines_only (by simp) (by simp) (by simp) (by simp) (by simp) (by simp) _ only_refl) ?_
      | with_reducible refine tags_of_frame (modStore_only (by simp) _ only_refl) ?_ | with_reducible apply respond_tags | with_reducible apply tags_ite
      | with_reducible apply tags_foldl | intro _ | (split))

theorem warnEarly_tags {s : State} (h : tagsHeld s) : tagsHeld (warnEarly s) := by
  fun_cases warnEarly s
  all_goals (intros; (try dsimp only); repeat' first
      | with_reducible assumption | with_reducible apply dropNext_tags | with_reducible refine tags_of_frame (modSeq_only (by simp) _ only_refl) ?_
      | with_reducible apply tags_ite | with_reducible apply tags_foldl | intro _ | (split))

theorem supplyWarnEff_tags {s : State} (h : tagsHeld s) : tagsHeld (supplyWarnEff s) := by
  fun_cases supplyWarnEff s
  all_goals (intros; (try dsimp only); repeat' first
      | with_reducible assumption | with_reducible apply warnEarly_tags | with_reducible refine tags_of_frame (modSeq_only (by simp) _ only_refl) ?_
      | with_reducible apply tags_ite | with_reducible apply tags_foldl | intro _ | (split))

theorem takeEffectEff_tags {s : State} (h : tagsHeld s) : tagsHeld (takeEffectEff s) := by
  fun_cases takeEffectEff s
  all_goals (intros; (try dsimp only); repeat' first
      | with_reducible assumption | with_reducible apply stewardRestart_tags | with_reducible apply startHard_tags
      | with_reducible refine tags_of_frame (setPhase_only (by simp) (by simp) (by simp) (by simp) _ only_refl) ?_
      | with_reducible refine tags_of_frame (modSeq_only (by simp) _ only_refl) ?_ | with_reducible apply tags_ite | with_reducible apply tags_foldl | intro _
      | (split))

theorem takeoverEff_tags {s : State} (h : tagsHeld s) : tagsHeld (takeoverEff s) := by
  have h0 : tagsHeld (failOver (executingBoxes s) s) := failOver_tags _ h
  unfold takeoverEff
  generalize failOver (executingBoxes s) s = t at h0 ⊢
  dsimp only
  refine tags_of_frame (by apply settleHealth_only <;> first | exact only_refl | simp) ?_
  refine tags_of_frame (by apply markSpare_only <;> first | exact only_refl | simp) ?_
  refine tags_of_frame (by apply haltAll_only <;> first | exact only_refl | simp) ?_
  refine tags_of_frame (by apply modHealth_only <;> first | exact only_refl | simp) ?_
  refine tags_of_frame (by apply modUnit_only <;> first | exact only_refl | simp) ?_
  refine tags_of_frame (by apply countFault_only <;> first | exact only_refl | simp) ?_
  refine tags_of_frame (by apply modMap_only <;> first | exact only_refl | simp) ?_
  refine tags_of_frame (by apply undoRaise_only <;> first | exact only_refl | simp) ?_
  exact tags_mk h0

theorem taskAbortEff_tags (a1 : Nat) (a2 : MsgWord) {s : State} (h : tagsHeld s) : tagsHeld (taskAbortEff s a1 a2) := by
  fun_cases taskAbortEff s a1 a2
  all_goals (intros; (try dsimp only); repeat' first
      | with_reducible assumption | with_reducible refine tags_of_frame (withdrawRound_only (by simp) _ _ only_refl) ?_
      | with_reducible refine tags_of_frame (await_only (by simp) _ only_refl) ?_ | with_reducible apply respond_tags
      | with_reducible refine tags_of_frame (promote_only (by simp) only_refl) ?_ | with_reducible apply finishTask_tags
      | with_reducible refine tags_of_frame (abortLaunched_only (by simp) (by simp) _ only_refl) ?_
      | with_reducible refine tags_of_frame (modTask_only (by simp) _ _ only_refl) ?_ | with_reducible apply tags_ite | with_reducible apply tags_foldl
      | intro _ | (split))

theorem taskHaltedEff_tags (a1 : Nat) {s : State} (h : tagsHeld s) : tagsHeld (taskHaltedEff s a1) := by
  fun_cases taskHaltedEff s a1
  all_goals (intros; (try dsimp only); repeat' first
      | with_reducible assumption | with_reducible refine tags_of_frame (sendBack_only (by simp) (by simp) (by simp) _ only_refl) ?_
      | with_reducible refine tags_of_frame (scramble_only (by simp) (by simp) _ only_refl) ?_ | with_reducible apply resetAnswer_tags
      | with_reducible refine tags_of_frame (sayHalted_only (by simp) (by simp) _ only_refl) ?_
      | with_reducible refine tags_of_frame (releaseTask_only (by simp) (by simp) (by simp) (by simp) (by simp) _ only_refl) ?_
      | with_reducible apply answerAborts_tags | with_reducible refine tags_of_frame (promote_only (by simp) only_refl) ?_
      | with_reducible apply finishTask_tags | with_reducible refine tags_of_frame (modTask_only (by simp) _ _ only_refl) ?_ | with_reducible apply tags_ite
      | with_reducible apply tags_foldl | intro _ | (split))

theorem taskLaunchEff_tags (a1 : Nat) (a2 : MsgWord) {s : State} (h : tagsHeld s) : tagsHeld (taskLaunchEff s a1 a2) := by
  fun_cases taskLaunchEff s a1 a2
  all_goals (intros; (try dsimp only); repeat' first
      | with_reducible assumption | with_reducible apply respond_tags | with_reducible apply acceptTask_tags | with_reducible apply tags_ite
      | with_reducible apply tags_foldl | intro _ | (split))

theorem timeoutEff_tags (a1 : Nat) {s : State} (h : tagsHeld s) : tagsHeld (timeoutEff s a1) := by
  unfold timeoutEff
  split
  · exact h
  · next r e =>
    have hm : r ∈ s.host.out ∧ r.tag = a1 := by
      unfold reqOf at e
      refine ⟨List.mem_of_find?_eq_some e, ?_⟩
      simpa using List.find?_some e
    refine gotAnswer_tags _ _ _ ?_
    unfold freeReq
    refine pumpReq_tags ?_
    exact timedOut_tags a1 _ h ⟨r, hm.1, hm.2⟩ rfl rfl

theorem vauxFallEff_tags {s : State} (h : tagsHeld s) : tagsHeld (vauxFallEff s) := by
  fun_cases vauxFallEff s
  all_goals (intros; (try dsimp only); repeat' first
      | with_reducible assumption | with_reducible refine tags_of_frame (modSeq_only (by simp) _ only_refl) ?_ | with_reducible apply hardReset_tags
      | with_reducible apply tags_ite | with_reducible apply tags_foldl | intro _ | (split))

theorem wakeEff_tags {s : State} (h : tagsHeld s) : tagsHeld (wakeEff s) := by
  fun_cases wakeEff s
  all_goals (intros; (try dsimp only); repeat' first
      | with_reducible assumption | with_reducible refine tags_of_frame (powerUp_only (by simp) only_refl) ?_
      | with_reducible refine tags_of_frame (modSeq_only (by simp) _ only_refl) ?_ | with_reducible apply hardReset_tags | with_reducible apply tags_ite
      | with_reducible apply tags_foldl | intro _ | (split))

theorem windowCloseEff_tags (a1 : Nat) (a2 : MsgWord) {s : State} (h : tagsHeld s) : tagsHeld (windowCloseEff s a1 a2) := by
  fun_cases windowCloseEff s a1 a2
  all_goals (intros; (try dsimp only); repeat' first
      | with_reducible assumption | with_reducible apply beginClose_tags | with_reducible apply respond_tags | with_reducible apply tags_ite
      | with_reducible apply tags_foldl | intro _ | (split))

theorem windowOpenEff_tags (a1 : Nat) (a2 : MsgWord) {s : State} (h : tagsHeld s) : tagsHeld (windowOpenEff s a1 a2) := by
  fun_cases windowOpenEff s a1 a2
  all_goals (intros; (try dsimp only); repeat' first
      | with_reducible assumption | with_reducible refine tags_of_frame (modStore_only (by simp) _ only_refl) ?_ | with_reducible apply respond_tags
      | with_reducible apply tags_ite | with_reducible apply tags_foldl | intro _ | (split))

theorem withdrawEff_tags (a0 : Frame) {s : State} (h : tagsHeld s) : tagsHeld (withdrawEff a0 s) := by
  fun_cases withdrawEff a0 s
  all_goals (intros; (try dsimp only); repeat' first
      | with_reducible assumption | with_reducible refine tags_of_frame (refuseMembers_only (by simp) _ _ _ _ _ only_refl) ?_
      | with_reducible refine tags_of_frame (modFabric_only (by simp) _ only_refl) ?_
      | with_reducible refine tags_of_frame (promote_only (by simp) only_refl) ?_ | with_reducible apply finishTask_tags
      | with_reducible refine tags_of_frame (haltTask_only (by simp) (by simp) _ _ _ _ only_refl) ?_ | with_reducible apply tags_ite
      | with_reducible apply tags_foldl | intro _ | (split))

end Sys2Proof.Machine
end

