-- ==== Sys2Proof/WellFormed.lean ====
section
/-!
DEFINITION. Which commands are well-formed: numbers inside the ranges of the part's largest configuration (00 R5, 10 R292, 14 intro), an op
word of the op it names (06 R165, R166), a request word of the command it names (10 R305, R309), and byte lists of the lengths the formats give
(13 R385, 14 R419).
-/
namespace Sys2Proof

/-- A room number of the engine: 16 × hall + logical room (01 R19). -/
def okRoom (room : Nat) : Bool := decide (room < 256)

/-- A hall number. -/
def okHall (hall : Nat) : Bool := decide (hall < 16)

/-- A gatehouse and a lane port of it. -/
def okPort (g p : Nat) : Bool := decide (g < 4) && decide (p < 26)

/-- A bundle number: gatehouse and bundle of it (13 R380, 14 R424). -/
def okBundle (b : Nat) : Bool := decide (b < 32)

/-- An op word whose OPC is `opc` (06 R165). -/
def okOp (room : Nat) (w : OpWord) (opc : Nat) : Bool := okRoom room && decide ((w.extractLsb' 0 8).toNat = opc)

/-- A request word whose OPCODE is `code`, for an existing mailbox (10 R292, R305). -/
def okCmd (m : Nat) (w : MsgWord) (code : Nat) : Bool := decide (m < 64) && decide ((w.extractLsb' 32 16).toNat = code)

/-- A host-port tag: 12 bits (19 R532). -/
def okTag (tag : Nat) : Bool := decide (tag < 4096)

/-- A frame whose payload has the length its header gives (13 R385), on an existing bundle. -/
def okFrame (b : Nat) (f : Frame) : Bool := okBundle b && decide (f.payload.length = f.hdr.length.toNat)

/-- A frame of kind `kind` (13 R385). -/
def okKind (b : Nat) (f : Frame) (kind : Nat) : Bool := okFrame b f && decide (f.hdr.kind.toNat = kind)

/-- A beat position of a lane: at most 844 positions (14 R420, R421). -/
def okPos (position : Nat) : Bool := decide (position < 845)

/-- The commands whose operands the formats of the manual can carry. -/
def wf : Instr → Bool
  | .mma room w => okOp room w 1
  | .mmt room w => okOp room w 2
  | .pair room w _ => okOp room w 3
  | .lds room w => okOp room w 4
  | .flip room w => okOp room w 5
  | .chute room w => okOp room w 6
  | .ewa room w => okOp room w 7
  | .rowf room w => okOp room w 8
  | .stat room w => okOp room w 9
  | .resc room w => okOp room w 10
  | .move room w => okOp room w 11
  | .halo room w => okOp room w 12
  | .relay room w => okOp room w 13
  | .sync room w => okOp room w 14
  | .hint room w => okOp room w 15
  | .stuff room w => okOp room w 16
  | .bkt room w => okOp room w 17
  | .wait room w => okOp room w 18
  | .signal room w => okOp room w 19
  | .endOp room w => okOp room w 20
  | .narrowAccessService room => okRoom room
  | .narrowLoadComplete room => okRoom room
  | .opFetch room => okRoom room
  | .opRetire room op => okRoom room && decide (op < 16384)
  | .syncRelease _ _ => true
  | .waitExpired room => okRoom room
  | .handshakeTimeout room _ _ => okRoom room
  | .annexSilent room => okRoom room
  | .beatBoundary _ => true
  | .pacePermit _ _ => true
  | .cellarPortCycle hall => okHall hall
  | .remoteAccessService room => okRoom room
  | .correctedWriteBack _ => true
  | .scrubRead hall _ => okHall hall
  | .granuleClearDone _ => true
  | .bankRelocation hall _ => okHall hall
  | .taskLaunchBoundary _ => true
  | .endReport _ room => okRoom room
  | .completionRecordAck _ => true
  | .faultReport room => okRoom room
  | .taskHalted _ => true
  | .nop m w => okCmd m w 1
  | .identify m w => okCmd m w 2
  | .mbxBind m w => okCmd m w 3
  | .ctxCreate m w => okCmd m w 16
  | .ctxDestroy m w => okCmd m w 17
  | .ctxDestroyComplete ctx => decide (ctx < 4096)
  | .ctxQuery m w => okCmd m w 18
  | .queueCreate m w => okCmd m w 19
  | .queueDestroy m w => okCmd m w 20
  | .fenceAlloc m w => okCmd m w 21
  | .fenceFree m w => okCmd m w 22
  | .fenceSignal m w => okCmd m w 23
  | .taskLaunch m w => okCmd m w 24
  | .taskAbort m w => okCmd m w 25
  | .imageLoad m w _ => okCmd m w 32
  | .imageUnload m w => okCmd m w 33
  | .qstateReset m w => okCmd m w 34
  | .granuleAlloc m w => okCmd m w 40
  | .granuleFree m w => okCmd m w 41
  | .windowOpen m w => okCmd m w 42
  | .windowClose m w => okCmd m w 43
  | .storeCopy m w _ => okCmd m w 44
  | .paceSet m w => okCmd m w 48
  | .powerSet m w => okCmd m w 49
  | .sbPinSet m w => okCmd m w 50
  | .timeSet m w => okCmd m w 51
  | .fabricSet m w _ => okCmd m w 52
  | .healthSet m w => okCmd m w 53
  | .healthQuery m w => okCmd m w 54
  | .snapshotFreeze m w => okCmd m w 55
  | .snapshotRelease m w => okCmd m w 55
  | .linkTest m w => okCmd m w 56
  | .fwUpdate m w _ => okCmd m w 57
  | .resetRequest m w => okCmd m w 58
  | .resetTakeEffect => true
  | .stagedCommit => true
  | .deferredNotApplied m => decide (m < 64)
  | .mbxDoorbell m _ => decide (m < 64)
  | .mbxEnable m _ => decide (m < 64)
  | .mbxDisable m _ => decide (m < 64)
  | .mbxRequestFetch m => decide (m < 64)
  | .requestWord m _ => decide (m < 64)
  | .responseWriteAck m => decide (m < 64)
  | .postedObserved q _ _ => decide (q < 16384)
  | .descriptorFetch q => decide (q < 16384)
  | .descriptorArrival q _ => decide (q < 16384)
  | .chainFetchTimeout q => decide (q < 16384)
  | .fenceAction q => decide (q < 16384)
  | .hatchStart c => decide (c < 32)
  | .hatchStop c => decide (c < 32)
  | .hatchDisable _ => true
  | .hatchRequest c => decide (c < 32)
  | .hatchBurstIssue c => decide (c < 32)
  | .hatchBurstLanded c _ => decide (c < 32)
  | .annexResult slot tag _ => decide (slot < 8) && okRoom tag
  | .streamPortTake _ _ => true
  | .streamPortAppend _ _ _ => true
  | .keepUnitAck _ _ => true
  | .healthRecordWrite => true
  | .freezeTakeEffect => true
  | .snapAck => true
  | .snapAckTimeout => true
  | .freezeEnd => true
  | .frameRoute b f => okFrame b f
  | .rollStart b f => okKind b f 1
  | .roll b f => okKind b f 2
  | .bundleChange b _ => okBundle b
  | .rollCallClose => true
  | .assign b f _ _ => okKind b f 3
  | .admitFrame b f _ _ _ => okKind b f 4
  | .routeUpdate b f _ => okKind b f 5
  | .routeEffective => true
  | .drain b f => okKind b f 6
  | .inputPortSwitchTimeout b => okBundle b
  | .ack b f => okKind b f 7
  | .messageResend _ _ => true
  | .fabricOfOne => true
  | .ready b f => okKind b f 16
  | .launch b f => okKind b f 17
  | .refuse b f => okKind b f 18
  | .withdraw b f => okKind b f 24
  | .endFrame b f => okKind b f 19
  | .done b f => okKind b f 20
  | .faultFrame b f _ _ _ => okKind b f 23
  | .abort b f => okKind b f 21
  | .halted b f => okKind b f 22
  | .haltedTimeout _ => true
  | .flowSlotTake _ _ => true
  | .flow b f => okKind b f 32
  | .blockTransmit g p bytes => okPort g p && decide (bytes.length ≤ 32)
  | .codewordDecode g p _ blocks => okPort g p && decide (blocks.length = 20)
  | .beatMark g p _ _ lane => okPort g p && decide (lane < 32)
  | .slotMark g p _ slot bytes => okPort g p && decide (slot < 64) && decide (bytes.length ≤ 24)
  | .dataBlock g p bytes => okPort g p && decide (bytes.length = 32)
  | .nak g p _ position lane => okPort g p && okPos position && decide (lane < 32)
  | .replayHead g p _ position lane _ => okPort g p && okPos position && decide (lane < 32)
  | .swap g p _ lane => okPort g p && decide (lane < 32)
  | .swapTarget g lane => decide (g < 4) && decide (lane < 32)
  | .train g p _ _ _ _ _ _ _ _ => okPort g p
  | .loop g p _ _ => okPort g p
  | .laneSlotDeadline g p _ slot => okPort g p && decide (slot < 64)
  | .signalDetect g p => okPort g p
  | .adaptDone g p _ => okPort g p
  | .lockTimeout g p => okPort g p
  | .failedRetry g p => okPort g p
  | .trainingEnd g => decide (g < 4)
  | .portLoss g p => okPort g p
  | .linkTestEnd g p _ => okPort g p
  | .eyeMarginReport g p _ => okPort g p
  | .announce b _ _ _ _ => okBundle b
  | .announcePeriod => true
  | .keeperTimeout => true
  | .stampPeriod => true
  | .stamp b _ _ _ => okBundle b
  | .timeStep => true
  | .holdoverEntry => true
  | .referencePulse _ => true
  | .refLost => true
  | .timeNowLo tag sub frac => okTag tag && decide (sub < 1024) && decide (frac < 65536)
  | .controlInterval _ => true
  | .gapFillEnd room unit => okRoom room && decide (unit ≤ 4)
  | .barrierHoldEnd hall => okHall hall
  | .preRampStart hall => okHall hall
  | .heartbeat => true
  | .stewardTakeover => true
  | .repair _ _ => true
  | .diagnosisComplete _ _ _ => true
  | .repairMappingEffect _ _ => true
  | .wearPrediction _ => true
  | .marginRowTest _ _ => true
  | .proactiveReplacement _ _ => true
  | .vauxGood => true
  | .railRequest => true
  | .railGoodRise rail => decide (1 ≤ rail) && decide (rail ≤ 3)
  | .railTimeout => true
  | .hardPartResetRelease _ _ _ => true
  | .firmwareVerified => true
  | .selfTestComplete _ _ _ => true
  | .engineReady => true
  | .supplyWarn => true
  | .powerDownStart => true
  | .powerDownCancel => true
  | .pointOfNoReturn => true
  | .railGoodFall rail => decide (1 ≤ rail) && decide (rail ≤ 3)
  | .railDropTimeout => true
  | .railFailure rail => decide (1 ≤ rail) && decide (rail ≤ 3)
  | .shellReset => true
  | .wake => true
  | .powerDownSettle => true
  | .hostResponse tag _ _ => okTag tag
  | .requestTimeout tag => okTag tag
  | .ferrDiscard => true
  | .hpTxCredit _ _ => true
  | .snoopInvalidate tag _ => okTag tag
  | .snoopShare tag _ => okTag tag
  | .hostRegisterWrite tag offset width _ => okTag tag && (decide (width = 4) || decide (width = 8)) && decide (offset < 1048576)
  | .intEnable tag _ => okTag tag
  | .paceEvents tag => okTag tag
  | .storeErrCount tag hall => okHall hall && okTag tag
  | .fabricDrops tag => okTag tag
  | .linkPortCounts tag g p => okPort g (p % 32) && decide (p / 32 < 3) && okTag tag
  | .powerEvents tag => okTag tag
  | .healthEvents tag => okTag tag
  | .hpErrors tag => okTag tag
  | .sbStatus tag _ => okTag tag
  | .pinHoldEnd pin => decide (pin < 16)
  | .supplyWarnLow => true
  | .shellResetRelease => true
  | .vauxGoodFall => true
  | .linkNoPeer g p => okPort g p
  | .holdoverBoundExceeded => true
  | .tagRelease tag => okTag tag
  | .reservedHostMessage _ tag => okTag tag
  | .replacementEnd _ _ => true
  | .copyRebuilt _ _ => true

end Sys2Proof
end

