-- ==== Sys2Proof/Tests/Slice0.lean ====
section
/-!
SUPPORT. Own tests: a well-formedness smoke, worked numbers of the manual, and for each statement of Certificates/Slice0/Obligations.lean that has
hypotheses a concrete state and operands that meet them. A state here is a small change of `up`, an engine that runs.
-/
namespace Sys2Proof.Tests
set_option Elab.async false
open Sys2Proof.Machine

/-- An engine whose hard part runs and whose steward is up, in fabric beat 100; every granule is of context 1, class A. -/
def up : State := { State.reset with
  seq := { seqReset with step := .run, good := 7, req := 7 }
  time := { timeReset with running := true, st := 1, ticks := 102400, up := 102400 }
  store := { storeReset with ownReset := 0x4001 }
  steward := { stewardReset with phase := 5, up := true } }

/-- A word of fields (bit, value). -/
def ofFields (fs : List (Nat × Nat)) : Nat := fs.foldl (fun a x => a + x.2 * 2 ^ x.1) 0

/-- An op word of fields (bit, value). -/
def opw (fs : List (Nat × Nat)) : OpWord := BitVec.ofNat 256 (ofFields fs)

/-- A request word: SEQ 1, opcode, and fields (byte offset, value). -/
def req (op : Nat) (fs : List (Nat × Nat)) : MsgWord := BitVec.ofNat 512 (1 + op * 2 ^ 32 + ofFields (fs.map fun x => (8 * x.1, x.2)))

/-- A launched task of context 1 in room 0. -/
def task1 : Task := {
  num := 1, ctx := 1, image := 1, queue := 1, byDesc := false, seq := 0, notify := false, args := [], checked := false, waitFence := none, sigFence := none
  waitDone := true, state := .launched, eligBeat := 0, order := 0, launch := some 100, launchUp := 100, endBeat := 0, v15 := false, restarted := false
  requeues := 0, fault := none, fault0 := none, others := 0, modeTrans := false, qsat := false, qlost := false, abortAfter := false, status := 0
  halting := false, haltBeat := 0, repair := false, parked := false, abortBy := [], rooms := [0], ended := [], counts := countsZero, points := [], wrote := [], cert := 0
  record := .none, member := 0, gtask := 7, round := 0, members := [], launchAt := none }

/-- Room 0 alone, its op list in buffer 1. -/
def variant1 : Variant := { variantNone with
  rooms := [⟨0, 1, 0⟩]
  bufs := [⟨1, 0, false, false, true, false, 0, 0x100000, 512, none⟩]
  syncs := [⟨3, 0⟩]
  rings := [⟨2, 0, 1, 5, 4⟩]
  pipes := [⟨5, 2, 0, 0xFF00, 64, 2, 0, 1⟩]
  chains := [⟨0, 0, 0⟩, ⟨0, 1, 1⟩] }

/-- The image of that task. -/
def image1 : Image := {
  handle := 1, ctx := 1, imageId := 7, restartable := true, multi := false, v15 := false, members := 0, c16 := 0, c16chk := 0, c15 := 0, c15chk := 0
  deckles := [], reams := [⟨2, [16, 64]⟩], var16 := variant1, var15 := variantNone, memberRecs := [], flows := [], claims := [], launches := 1, crc := 0
  annexes := [], windows := [], granules := [], copies := [], blocks := [] }

/-- Room 0 with op words at the head of its buffer. -/
def room1 (ws : List OpWord) : Room := { roomZero with task := some 1, listBase := 0x100000, listOps := 16, opBuf := (List.range ws.length).zip ws }

/-- The task runs in room 0. -/
def withRoom (x : Room) : State := { up with rooms := [(0, x)], steward := { up.steward with tasks := [task1], images := [image1], ctxs := [(1, { ctxZero with state := 0 })] } }

/-- The task runs in room 0, whose next ops are these. -/
def ops (ws : List OpWord) : State := withRoom (room1 ws)

/-! Tile ops: every op may issue somewhere, and its run meets no fault there. -/

/-- `mma`: one step of one iteration on mould M0. -/
def mmaW : OpWord := opw [(0, 1), (32, 4), (36, 4), (64, 1), (110, 0xFFF), (122, 0xFFF), (138, 0), (178, 16), (214, 2)]
def mmtW : OpWord := opw [(0, 2), (32, 4), (36, 4), (64, 1), (110, 0xFFF), (122, 0xFFF), (178, 16), (214, 8)]
def pairW : OpWord := opw [(0, 3), (32, 4), (36, 4), (64, 1), (110, 0xFFF), (122, 0xFFF), (178, 16), (214, 2)]
def pairV : OpWord := opw [(20, 1), (28, 4), (32, 4), (36, 15), (72, 0x7800), (88, 0x3F800000), (120, 0xFFF)]
def pairAnnexV : OpWord := opw [(20, 1), (28, 4), (32, 4), (36, 15), (40, 4), (72, 0x7800), (88, 0x3F800000), (120, 0xFFF)]
def ldsW : OpWord := opw [(0, 4), (28, 4), (36, 32)]
def ldsRelayW : OpWord := opw [(0, 4), (25, 1), (28, 4)]
def flipW : OpWord := opw [(0, 5), (20, 1)]
def chuteW : OpWord := opw [(0, 6), (32, 4), (36, 4), (52, 1), (91, 1), (107, 0xFFF), (119, 0xFFF), (175, 16), (211, 1)]
def ewaW : OpWord := opw [(0, 7), (32, 4), (36, 4), (96, 1), (127, 16)]
def rowfW : OpWord := opw [(0, 8), (28, 4), (32, 4), (36, 4), (68, 1), (128, 16)]
def rowfAnnexW : OpWord := opw [(0, 8), (20, 4), (28, 4), (32, 4), (36, 4), (68, 1), (128, 16)]
def statW : OpWord := opw [(0, 9), (20, 2), (28, 4), (36, 4), (68, 1), (160, 16), (196, 0xFFF)]
def rescW : OpWord := opw [(0, 10), (28, 4), (36, 4), (68, 1), (84, 0xFFF), (160, 16)]
def moveW : OpWord := opw [(0, 11), (72, 64), (108, 1), (124, 1)]
def haloSendW : OpWord := opw [(0, 12), (24, 1), (76, 1), (92, 1)]
def haloRecvW : OpWord := opw [(0, 12), (20, 1), (24, 1), (76, 1), (92, 1)]
def relayW : OpWord := opw [(0, 13), (24, 4), (32, 1)]
def relayFwdW : OpWord := opw [(0, 13), (20, 1), (24, 4), (32, 1)]
def syncW : OpWord := opw [(0, 14), (20, 3), (32, 1)]
def hintW : OpWord := opw [(0, 15), (20, 1), (24, 9), (32, 4), (48, 8)]
def stuffW : OpWord := opw [(0, 16), (32, 1)]
def bktW : OpWord := opw [(0, 17), (20, 1), (24, 2), (32, 3), (48, 5), (64, 9)]
def waitW : OpWord := opw [(0, 18), (20, 1), (32, 1)]
def signalW : OpWord := opw [(0, 19), (20, 1), (24, 1)]
def endW : OpWord := opw [(0, 20)]
def endNarrowW : OpWord := opw [(0, 20), (224, 10), (228, 1), (236, 0xFFFFF)]

/-- The ops of one slot, with their opcodes. -/
def singleOps : List (Nat × OpWord) :=
  [(1, mmaW), (2, mmtW), (4, ldsW), (4, ldsRelayW), (5, flipW), (6, chuteW), (7, ewaW), (8, rowfW), (8, rowfAnnexW), (9, statW), (10, rescW), (11, moveW), (12, haloSendW),
    (12, haloRecvW), (13, relayW), (13, relayFwdW), (14, syncW), (15, hintW), (16, stuffW), (17, bktW), (18, waitW), (19, signalW), (20, endW)]

/-- What `CanIssue` asks, as one check. -/
def mayIssue (ws : List OpWord) (opc : Nat) (w : OpWord) (w2 : Option OpWord) : Bool :=
  hasRoom (ops ws) 0 && issueReady (ops ws) 0 opc w w2 && decide (roomTask (ops ws) 0 = some (task1, image1)) &&
    (slotFault (envOf (ops ws) task1 image1 0 0 opc) (ops ws).store (roomOf (ops ws) 0).g w).1 == 0

theorem canIssue_of_mayIssue (ws : List OpWord) (opc k : Nat) (w : OpWord) (w2 : Option OpWord) (h : mayIssue (w :: ws) opc w w2 = true) :
    CanIssue (ops (w :: ws)) 0 opc k w w2 task1 image1 0 := by
  simp only [mayIssue, Bool.and_eq_true, decide_eq_true_eq, beq_iff_eq] at h
  refine ⟨h.1.1.1, h.1.1.2, h.1.2, ⟨(((List.range ws.length).map Nat.succ).zip ws), ?_⟩, h.2, fun f hf => by cases hf⟩
  show (List.range (ws.length + 1)).zip (w :: ws) = _
  rw [List.range_succ_eq_map]
  rfl

theorem single_ops_issue : singleOps.all (fun p => mayIssue [p.2] p.1 p.2 none) = true := by decide +kernel

theorem pairs_issue : [pairV, pairAnnexV].all (fun v => mayIssue [pairW, v] 3 pairW (some v)) = true := by decide +kernel

theorem witness_single_ops_may_issue (p : Nat × OpWord) (hp : p ∈ singleOps) : CanIssue (ops [p.2]) 0 p.1 1 p.2 none task1 image1 0 :=
  canIssue_of_mayIssue [] p.1 1 p.2 none (List.all_eq_true.1 single_ops_issue p hp)

theorem witness_pairs_may_issue (v : OpWord) (hv : v ∈ [pairV, pairAnnexV]) : CanIssue (ops [pairW, v]) 0 3 2 pairW (some v) task1 image1 0 :=
  canIssue_of_mayIssue [v] 3 2 pairW (some v) (List.all_eq_true.1 pairs_issue v hv)

/-- The run of an op at the head of room 0 meets no fault. -/
def runsClean (ws : List OpWord) (opc : Nat) (run : Env → Room → Run → Run) : Bool :=
  (run (envOf (ops ws) task1 image1 0 0 opc) (room1 ws) (runOf (ops ws) (room1 ws))).fault.isNone

/-- The first work step of the op at the head of room 0 can go. -/
def stepGoes (s : State) (k : Nat) (w w2 : OpWord) : Bool := stepReady (issuedState s 0 k 0 w w2) 0 (issuedOp s 0 0 w w2 0)

/-- That step meets no fault. -/
def stepClean (ws : List OpWord) (opc : Nat) (w w2 : OpWord) (run : Env → Room → InFlight → Run → Run × InFlight) : Bool :=
  stepGoes (ops ws) ws.length w w2 &&
    (run (envOf (ops ws) task1 image1 0 0 opc) (room1 ws) (issuedOp (ops ws) 0 0 w w2 0) (runOf (ops ws) (room1 ws))).1.fault.isNone

theorem witness_mma_steps : stepClean [mmaW] 1 mmaW 0 (fun E _ f r => matStep E (matFields mmaW) false f r) = true := by decide +kernel
theorem witness_mmt_steps : stepClean [mmtW] 2 mmtW 0 (fun E _ f r => matStep E (matFields mmtW) true f r) = true := by decide +kernel
theorem witness_pair_steps : stepClean [pairW, pairV] 3 pairW pairV (fun E x f r => pairStep E (matFields pairW) (pairFields pairV) x.press [] f r) = true := by
  decide +kernel
theorem witness_lds_steps : stepClean [ldsW] 4 ldsW 0 (fun E _ f r => (runLds E f.regs (ldsFields ldsW) r, { f with pos := f.pos + 1 })) = true ∧
    (ldsFields ldsW).relay = false := by decide +kernel
theorem witness_chute_steps : stepClean [chuteW] 6 chuteW 0 (fun E _ f r => chuteStep E (chuteFields chuteW) f r) = true ∧
    chuteSkips (envOf (ops [chuteW]) task1 image1 0 0 6) (chuteFields chuteW) = false := by decide +kernel
theorem witness_ewa_steps : stepClean [ewaW] 7 ewaW 0 (fun E _ f r => (ewaIter E f.regs (ewaFields ewaW) r f.pos, { f with pos := f.pos + 1 })) = true := by
  decide +kernel
theorem witness_rowf_runs : runsClean [rowfW] 8 (fun E x r => runRowf E x.g x.press (rowfFields rowfW) r) = true ∧ fnUsesAnnex (rowfFields rowfW).func = false := by
  decide +kernel
theorem witness_stat_runs : runsClean [statW] 9 (fun E x r => runStat E x.g (directFields statW) r) = true := by decide +kernel
theorem witness_resc_runs : runsClean [rescW] 10 (fun E x r => runResc E x.g (directFields rescW) r) = true := by decide +kernel
theorem witness_move_steps : stepClean [moveW] 11 moveW 0 (fun E _ f r => moveStep E (moveFields moveW) f r) = true := by decide +kernel
theorem witness_rowf_annex : (rowfElems (envOf (ops [rowfAnnexW]) task1 image1 0 0 8) [] (rowfFields rowfAnnexW) (runOf (ops []) (room1 []))).1.fault = none ∧
    fnUsesAnnex (rowfFields rowfAnnexW).func = true := by decide +kernel

/-- Room 0 with one op in flight that has not entered, and these ops. -/
def behind1 (first : OpWord) (ws : List OpWord) : State :=
  withRoom { room1 ws with issued := 1, inflight := [issuedOp (ops []) 0 9 first 0 0] }

def flip4W : OpWord := opw [(0, 5), (20, 4)]

/-- An op that shares the moulds or the load path of an earlier one issues, and its step waits. -/
theorem witness_steps_wait : [(mmaW, mmaW), (mmtW, mmaW), (mmaW, flip4W), (flip4W, ldsW)].all (fun p =>
    issueReady (behind1 p.1 [p.2]) 0 (opcAt p.2) p.2 none && !stepGoes (behind1 p.1 [p.2]) 1 p.2 0) = true := by decide +kernel

/-- A run and a step that meet a fault: the task's context owns no granule. -/
theorem witness_step_faults : (moveStep (envOf (ops [moveW]) { task1 with ctx := 2 } image1 0 0 11) (moveFields moveW) (issuedOp (ops [moveW]) 0 0 moveW 0 0)
      (runOf (ops []) (room1 []))).1.fault = some (0x502, 0, 0) ∧
    (matStep (envOf (ops [mmaW]) { task1 with ctx := 2 } image1 0 0 1) (matFields mmaW) false (issuedOp (ops [mmaW]) 0 0 mmaW 0 0)
      (runOf (ops []) (room1 []))).1.fault.isSome = true := by decide +kernel

/-- Ops in flight whose later steps go on: a pair short of its block's end, and one whose block an annex computes. -/
theorem witness_work_steps : roomTask (ops []) 0 = some (task1, image1) ∧ fnUsesAnnex (pairFields pairV).func = false ∧
    fnUsesAnnex (pairFields pairAnnexV).func = true ∧ (issuedOp (ops []) 0 0 pairW pairAnnexV 0).tiles.length ≠ (pairFields pairAnnexV).ratio ∧
    ({ issuedOp (ops []) 0 0 pairW pairAnnexV 1 with tiles := List.replicate (pairFields pairAnnexV).ratio [] }).tiles.length = (pairFields pairAnnexV).ratio := by
  decide +kernel
/-! The forms that wait, the ops that steer the room, `halo` and `relay`. -/

/-- Two rooms run the task: room 0 with these ops and this change, and room 1. -/
def two (ws : List OpWord) (f : Room → Room) (y : Room) : State :=
  { ops ws with rooms := [(0, f (room1 ws)), (1, { y with task := some 1 })] }

/-- A tile of two words of the relay port, its first and its last word to be taken, none, and one that is taken already. -/
theorem witness_lds_relay : (ldsFields ldsRelayW).relay = true ∧
    [0, 1024].all (fun k => stepGoes (two [ldsRelayW] (fun x => { x with relay := [⟨2048, List.replicate 2048 1, k, 0⟩] }) roomZero) 1 ldsRelayW 0) = true ∧
    stepGoes (two [ldsRelayW] id roomZero) 1 ldsRelayW 0 = false ∧ (∀ k ∈ ([⟨2048, List.replicate 2048 1, 2048, 0⟩] : List RelayTile), k.size ≤ k.taken) ∧
    issueReady (two [ldsRelayW] id roomZero) 0 4 ldsRelayW none = true := by decide +kernel

/-- A wide pass whose activation point is in beater mode. -/
def chuteWideW : OpWord := opw [(0, 6), (23, 1), (32, 4), (36, 4), (52, 1), (91, 1), (107, 5), (119, 6)]

/-- The task with point 5 in beater mode. -/
def beaterTask : Task := { task1 with points := [⟨5, 0, true, false, 0, .e5m2, 0, 0, 0, 0, [], [], .fp32, 0, 0⟩] }

theorem witness_chute_skips : chuteSkips (envOf (ops [chuteWideW]) beaterTask image1 0 0 6) (chuteFields chuteWideW) = true ∧
    issueReady { ops [chuteWideW] with steward := { (ops []).steward with tasks := [beaterTask] } } 0 6 chuteWideW none = true := by decide +kernel

theorem witness_flip_steps : stepGoes (ops [flipW]) 1 flipW 0 = true := by decide +kernel

/-- A bucket is chosen at its own size, the next one above it, and none above the largest. -/
theorem witness_bkt : bucketOf image1.reams bktW 16 = some (16, 5) ∧ bucketOf image1.reams bktW 17 = some (64, 9) ∧ bucketOf image1.reams bktW 65 = none := by
  decide +kernel

/-- A counter at COUNT and one below it. -/
theorem witness_wait : issueReady (two [waitW] (fun x => { x with ctr := [(1, 1)] }) roomZero) 0 18 waitW none = true ∧ issueReady (ops [waitW]) 0 18 waitW none = true := by
  decide +kernel

/-- A peer that runs, one that a signal releases, and a counter at 65,535. -/
theorem witness_signal : ∀ y ∈ [roomZero, { roomZero with hold := .wait 0 1 1 100 }, { roomZero with ctr := [(1, 65535)] }],
    issueReady (two [signalW] id y) 0 19 signalW none = true ∧ stepGoes (two [signalW] id y) 1 signalW 0 = true := by decide +kernel

/-- A signal behind an op in flight waits. -/
theorem witness_signal_waits : issueReady (behind1 mmaW [signalW]) 0 19 signalW none = true ∧ stepGoes (behind1 mmaW [signalW]) 1 signalW 0 = false := by decide +kernel

/-- A receive before its send, and after it. -/
theorem witness_halo_receive : issueReady (two [haloRecvW] id roomZero) 0 12 haloRecvW none = true ∧ arrivedSend (room1 []) 1 0 = none ∧
    arrivedSend { room1 [] with halos := [⟨1, 0, true, List.replicate 64 3, 0, 0, 0, 1, 1⟩] } 1 0 = some ⟨1, 0, true, List.replicate 64 3, 0, 0, 0, 1, 1⟩ ∧
    (haloWrite (envOf (ops [haloRecvW]) task1 image1 0 0 12) 0 0 1 1 (List.replicate 64 3) (runOf (ops []) (room1 []))).fault = none := by decide +kernel

/-- A send before its receive, and after it. -/
theorem witness_halo_send : issueReady (two [haloSendW] id { roomZero with halos := [⟨0, 0, false, [], 2, 64, 0, 1, 1⟩] }) 0 12 haloSendW none = true ∧
    (haloRead (envOf (ops [haloSendW]) task1 image1 0 0 12) 0 (haloFields haloSendW) (runOf (ops []) (room1 []))).1.fault = none ∧
    waitingReceive roomZero 0 0 = none ∧ waitingReceive { roomZero with halos := [⟨0, 0, false, [], 2, 64, 0, 1, 1⟩] } 0 0 = some ⟨0, 0, false, [], 2, 64, 0, 1, 1⟩ := by
  decide +kernel

/-- A room of a chain with a next one, and its last; a relay that forwards, with a tile to send and without, and one that reads its tiles. -/
theorem witness_relay : chainAfter variant1 0 = [1] ∧ chainAfter { variant1 with chains := [] } 0 = [] ∧ (relayFields relayFwdW).forward = true ∧
    (relayFields relayW).forward = false ∧ stepGoes (two [relayFwdW] (fun x => { x with relay := [⟨2048, List.replicate 2048 1, 0, 0⟩] }) roomZero) 1 relayFwdW 0 = true ∧
    stepGoes (two [relayFwdW] id roomZero) 1 relayFwdW 0 = false ∧ stepGoes (two [relayW] id roomZero) 1 relayW 0 = true ∧
    (wordToRelay (envOf (ops [relayW]) task1 image1 0 0 13) [] (relayFields relayW) 0 (runOf (ops []) (room1 []))).1.fault = none := by decide +kernel

/-- A narrow load outside the window meets NARROW_RANGE. -/
theorem witness_tile_faults : (slotFault (envOf (ops [endNarrowW]) task1 image1 0 0 20) (ops []).store [] endNarrowW).1 = 0x302 ∧
    issueReady (ops [endNarrowW]) 0 20 endNarrowW none = true := by decide +kernel

/-! Rooms beside issue. -/

/-- The task in room 0, its room changed. -/
def atRoom (f : Room → Room) : State := withRoom (f (room1 []))

/-- A fetch of an admitted line, and of one in no granule of the context. -/
theorem witness_op_fetch : opFetchReady (atRoom id) 0 = true ∧ (readLines (atRoom id).store false (linesOf 0x100000 512)).2.1 = 0 ∧
    fetchFault (atRoom id) (room1 []) 1 = 0 ∧ fetchFault (atRoom id) (room1 []) 2 ≠ 0 := by decide +kernel

/-- A room with one narrow access that waits: a load, or a store. -/
def narrowS (load : Bool) : State := atRoom fun x => { x with narrow := [⟨0, 0, 20, load, 1, 64, 5, false⟩] }

theorem witness_narrow_service : ∀ load ∈ [true, false], (narrowS load).shell.snap.frozen = false ∧ (readLine (narrowS load).store (pantryAddr 0 64 / 64) false).2 = 0 ∧
    (roomOf (narrowS load) 0).narrow.length = 1 := by decide +kernel

theorem witness_narrow_complete : ([⟨0, 0, 20, true, 1, 64, 5, true⟩] : List Narrow).find? (·.served) = some ⟨0, 0, 20, true, 1, 64, 5, true⟩ := by decide

/-- An op in flight whose work has all entered, and one with work left. -/
def flightS (pos : Nat) : State := atRoom fun x => { x with issued := 1, inflight := [{ issuedOp (ops []) 0 3 mmaW 0 pos with total := 1 }] }

theorem witness_retire : [0, 1].all (fun p => retireReady (flightS p) 0 3 && (oldestOp (roomOf (flightS p) 0) 3).isSome) = true ∧
    (flightOf (roomOf (flightS 1) 0) 0).any (fun f => !opEngaged f && !opWaits (flightS 1) 0 f) = true := by decide +kernel

/-- Room 0 waits at a `sync` of group 3 with target beat 101, its arrival in beat `a`. -/
def syncS (a : Nat) : State :=
  let s := atRoom fun x => { x with hold := .sync 0 3 1 99 (some a) }
  { s with time := { s.time with up := 1024 * 102 } }

/-- A release in time and a late one: the arrival before the target beat, and in it. -/
theorem witness_sync_release : syncReady (syncS 100) 1 3 = true ∧ syncReady (syncS 101) 1 3 = true ∧ (runningTask (syncS 100) 1).isSome = true ∧
    syncDue (syncS 100) task1 image1 3 = some (101, false) ∧ syncDue (syncS 101) task1 image1 3 = some (102, true) := by decide +kernel

/-- Long after `up`. -/
def later (s : State) : State := { s with time := { s.time with ticks := 1024 * 70000, up := 1024 * 70000 } }

theorem witness_wait_expired : waitExpiredReady (later (atRoom fun x => { x with hold := .wait 4 1 1 100 })) 0 = true ∧
    waitExpiredReady (later (atRoom fun x => { x with hold := .sync 4 3 1 100 none })) 0 = true := by decide +kernel

/-- A mould, the last room and a crossing that time out. -/
theorem witness_handshake : [Stage.unit 2 0, .unit 1 271, .crossing 0 1, .gateCrossing 3].all (fun st => stageBuilt up.params (unitExists up) st) = true ∧
    handshakeReady (ops [mmaW]) 0 (.unit 2 0) 257 = true ∧ handshakeReady (atRoom id) 0 (.unit 2 0) 257 = false ∧
    handshakeReady (atRoom id) 0 (.crossing 0 1) 257 = true := by decide +kernel

/-- A press that waits for an annex; results that leave words open, and results that do not. -/
def annexS : State :=
  let s := atRoom fun x => { x with issued := 1, inflight := [issuedOp (ops []) 0 0 rowfAnnexW 0 0], annex := some ⟨0, 0, 1, false, [], [(⟨0, false, 0⟩, 100), (⟨0, true, 0⟩, 100)], []⟩ }
  { s with params := { s.params with annexSlots := 2 } }

theorem witness_annex_result : 1 < annexS.params.annexSlots ∧ roomRuns annexS 0 = true ∧ silentPress (later annexS) 0 ≠ none ∧ roomRuns (later annexS) 0 = true ∧
    (flightOf (roomOf annexS 0) 0).isSome = true := by
  decide +kernel

/-- A consumer stream port of the task's pipe, its ring holding a slot. -/
def portS (producer consumer tail : Nat) (held : List Byte) : State :=
  let s := atRoom id
  let i := { image1 with var16 := { variant1 with pipes := [⟨5, 2, producer, consumer, 64, 2, 0, 1⟩] } }
  { s with
    steward := { s.steward with images := [i] }
    store := { s.store with rings := [(4, ⟨BitVec.toNat (w := 32) (BitVec.ofNat 32 tail), 0, true, 1, 1, 0x200000⟩)] }
    shell := { s.shell with ports := [⟨1, 5, 0, 0, 0, held, some 100⟩] } }

theorem witness_stream_ports : (portAt (portS 0 0xFF00 64 []) 1 5).isSome = true ∧ portTakeReady (portS 0 0xFF00 64 []) 1 5 = true ∧
    portAppendReady (portS 0xFF00 0 0 []) 1 5 (List.replicate 64 9) = true ∧ (silentPort (later (portS 0 0xFF00 0 [1])) 0).isSome = true := by decide +kernel
/-! Beats, permits, stores. -/

/-- Fixed pace in force; mould 0 of room 5 has banked a permit. -/
def fixedS : State := { up with pace := { paceReset with mode := true, units := [(paceKey (.mould 5 0), { permitsZero with banked := 1 })] } }

theorem witness_pace : up.time.running = true ∧ paceThere up.params (.mould 5 0) = true ∧ Machine.paced fixedS 0 = true ∧ 0 < allowance fixedS 0 ∧
    0 < (tabGet permitsZero fixedS.pace.units (paceKey (.mould 5 0))).banked := by decide +kernel

/-- A store with pending work. -/
def storeS : State := { up with store := { up.store with
  lanes := [⟨0, 3, 2, true, 0, 0, 0, 0, none, none, false⟩], remote := [⟨1, 0, 0, some ⟨64, [7], none⟩, none, some (2, 3)⟩, ⟨0, 0, 0, none, none, none⟩]
  lines := [(0, .flipped [3] false), (1, .flipped [0, 1, 2, 3, 4, 5, 6, 7] false), (2, .poisoned)], wbacks := [0], clearing := [9] } }

theorem witness_store_events : hardUp storeS = true ∧ 15 < storeS.params.halls ∧ hasRoom storeS 0 = true ∧ (oldestRemote storeS 0).isSome = true ∧ mayCycle storeS (.cellarPort 15) = true ∧ 0 ∈ storeS.store.wbacks ∧
    9 ∈ storeS.store.clearing := by decide +kernel

/-- The scrubber of hall 0 at a line. -/
def scrubS (line : Nat) : State := { storeS with store := { storeS.store with scrubPos := tabPut 0 [] 0 line, clearing := [], ownReset := 0, own := [(0, 0x4001)] } }

theorem witness_scrub : ∀ l ∈ [0, 1, 2], scrubReady (scrubS l) 0 l = true := by decide +kernel

/-- A bank of the usable range and one of the reserve whose relocation waits, with a place left for it. -/
theorem witness_relocation : [3, 300].all (fun b => relocationReady { up with health := { healthReset with replaceQ := [(4, bankUnit 5 0 b)] } } 0 b &&
    decide (b < cellarBanks up.params.tiers)) = true ∧ bankHolds up 0 3 = true ∧ (relocPlace up 0 3).isSome = true ∧ bankHolds up 0 300 = false := by decide +kernel

/-- A rotated copy that a relocation lost. -/
def lostS : State :=
  { up with steward := { up.steward with images := [{ image1 with copies := [⟨0, 1, 0, 0, 5, 2, 0x10000, 0x800000000, 65536, 0x800010000, 32, 4, 0, 0, false⟩] }] } }

theorem witness_copy_rebuilt : (lostCopy lostS 1 0).any (fun p => (rebuildPlace lostS p.2).isSome) = true ∧ (freeWindow lostS).isSome = true := by decide +kernel
/-! Tasks. -/

/-- A task that waits for its launch boundary, and its room free. -/
def eligS : State :=
  let t := { task1 with state := .eligible, eligBeat := 98, rooms := [], launch := none }
  { up with steward := { up.steward with tasks := [t], images := [image1], ctxs := [(1, { ctxZero with state := 0 })], queues := [newQueue 1 1 (BitVec.ofNat 512 0)] } }

theorem witness_launch : launchReady eligS 1 = true ∧ launchRefusal eligS { task1 with state := .eligible, eligBeat := 98, rooms := [], launch := none } image1 = 0 ∧
    (readLines eligS.store false (launchLines eligS.store variant1)).2.1 = 0 := by decide +kernel

/-- The one room has ended; the first of two has. -/
def endS (rooms : List Nat) : State :=
  let s := atRoom fun x => { x with hold := .ended }
  { s with steward := { s.steward with tasks := [{ task1 with rooms := rooms }] } }

theorem witness_end_report : endReady (endS [0]) 1 0 = true ∧ endReady (endS [0, 1]) 1 0 = true := by decide +kernel

/-- The task of `up`, changed. -/
def taskS (f : Task → Task) : State := { atRoom id with steward := { (atRoom id).steward with tasks := [f task1] } }

theorem witness_record_ack : recordAckReady (taskS fun t => { t with state := .completed, record := .acked, sigFence := some 3 }) 1 = true := by decide +kernel

theorem witness_fault_report : faultReady (atRoom fun x => { x with fault := some ⟨0x309, 0, 0, 1, 0, 0, 0⟩ }) 0 = true ∧
    (faultUnit (atRoom id) 0 ⟨0x309, 0, 0, 1, 0, 0, 0⟩).isSome = true := by decide +kernel

/-- A task that halts: one that its image lets run again, and one that it does not. -/
theorem witness_halted : haltedReady (taskS fun t => { t with halting := true, status := 0x211 }) 1 = true ∧
    requeueable (taskS fun t => { t with halting := true, status := 0x211 }) { task1 with halting := true, status := 0x211 } = false ∧
    haltedReady (taskS fun t => { t with halting := true, status := 0xD01, fault := some ⟨0xD01, 0, 0, 0, 0, 0, 0⟩ }) 1 = true ∧
    requeueable (atRoom id) { task1 with status := 0xD01, fault := some ⟨0xD01, 0, 0, 0, 0, 0, 0⟩ } = true ∧ repairNames (atRoom id) 1 = false := by decide +kernel

theorem witness_ctx_destroyed : destroyReady { up with steward := { up.steward with ctxs := [(1, { ctxZero with state := 2 })] } } 1 = true := by decide +kernel

/-! Requests. -/

/-- Mailbox 0 executes a request word. -/
def reqS (s : State) (w : MsgWord) : State :=
  { s with steward := { s.steward with mboxes := [(0, { mboxZero with binding := 2, enable := true, st := 1, executing := some w })] } }

/-- Contexts: 1 is OK, 2 faulted. -/
def ctxS : State := { atRoom id with steward := { (atRoom id).steward with
  ctxs := [(1, { ctxZero with state := 0, apBase := 0x10000, apLimit := 0x90000 }), (2, { ctxZero with state := 1, fault := 0x222 })]
  queues := [newQueue 1 1 (req 0x13 [(8, 1), (0x2C, 4)])]
  fences := [(4, ⟨some 1, false, 0, 0⟩), (5, ⟨some 1, true, 0, 1⟩)] } }

theorem witness_queries : ∀ p ∈ [(0x01, req 0x01 []), (0x02, req 0x02 []), (0x03, req 0x03 [(0x0C, 5), (0x0D, 1), (0x0E, 1)]), (0x12, req 0x12 [(8, 2), (0x0C, 1)]),
    (0x36, req 0x36 []), (0x36, req 0x36 [(0x0C, 2), (0x0E, 3)])], requested (reqS ctxS p.2) 0 p.2 p.1 := by unfold requested; decide +kernel

theorem witness_query_operands : (ctxOf ctxS 1).state < 2 ∧ (ctxOf ctxS 2).state = 1 ∧ unitExists ctxS 2 3 = true := by decide +kernel

def ctxCreateW : MsgWord := req 0x10 [(0x0C, 0xFFFF), (0x10, 0x1000), (0x18, 0x5000)]
def queueCreateW : MsgWord := req 0x13 [(8, 1), (0x0C, 0x10000), (0x14, 0x10040), (0x1C, 0x10080), (0x24, 0x11000), (0x2C, 4)]

theorem witness_contexts_and_queues : requested (reqS ctxS ctxCreateW) 0 ctxCreateW 0x10 ∧ deadCtx ctxS = some 3 ∧ (ctxOf ctxS 3).state = 3 ∧ apertureOk 0x1000 0x5000 = true ∧
    requested (reqS ctxS (req 0x11 [(0x0C, 1)])) 0 (req 0x11 [(0x0C, 1)]) 0x11 ∧
    requested (reqS ctxS queueCreateW) 0 queueCreateW 0x13 ∧ ctxRefusal ctxS 1 = none ∧ queueInAperture ctxS 1 queueCreateW = true ∧ freeQueue ctxS = some 0 ∧
    porchLine ctxS.host 0x10040 = none ∧ (queueOf ctxS 1).isSome = true ∧ (∀ t ∈ (ctxS.steward.tasks.filter fun t => t.queue == 0), isFinal t = true) := by
  unfold requested; decide +kernel

def launchW : MsgWord := req 0x18 [(8, 1), (0x0C, 1), (0x10, 1)]

theorem witness_fences_and_launches : freeFence ctxS = some 0 ∧ fenceMine ctxS 1 4 = true ∧ fenceNamed ctxS 1 4 = false ∧
    requested (reqS ctxS (req 0x15 [(8, 1)])) 0 (req 0x15 [(8, 1)]) 0x15 ∧ requested (reqS ctxS (req 0x16 [(8, 1), (0x0C, 4)])) 0 (req 0x16 [(8, 1), (0x0C, 4)]) 0x16 ∧
    (∀ on ∈ [0, 1], requested (reqS ctxS (req 0x17 [(8, 1), (0x0C, 4), (0x0E, on)])) 0 (req 0x17 [(8, 1), (0x0C, 4), (0x0E, on)]) 0x17) ∧
    requested (reqS ctxS launchW) 0 launchW 0x18 ∧ acceptRefusal ctxS 1 launchW = none ∧
    requested (reqS ctxS (req 0x19 [(8, 1), (0x0C, 1)])) 0 (req 0x19 [(8, 1), (0x0C, 1)]) 0x19 ∧ (taskOf ctxS 1).isSome = true := by
  unfold requested; decide +kernel
/-- The smallest image: one room whose op list is one `end`. Its header holds the CRC of its bytes (09 R273). -/
def imageBytes : List Byte := leBytes 768 (ofFields ([
  (0x00, 0x4D494B43), (0x04, 1), (0x06, 3), (0x08, 0x0210465F), (0x0C, 0x00030200), (0x14, 1), (0x18, 1000), (0x1C, 1000), (0x28, 768), (0x30, 7), (0x3C, 2467259609),
  (0x40, 1), (0x41, 1), (0x44, 1), (0x48, 128), (0x50, 2), (0x54, 1), (0x58, 192), (0x60, 0x11), (0x64, 512), (0x68, 256),
  (128, 0), (130, 1), (192, 1), (194, 7), (195, 4), (196, 0xFFFF), (200, pantryAddr 0 0), (208, 512), (216, 0), (256, 0x14)].map fun x => (8 * x.1, x.2)))

def loadW : MsgWord := req 0x20 [(8, 1), (0x0C, 0x10000), (0x14, 768)]

/-- That state's loader: context 1 may claim the granule; the image is accepted, needs no copies and waits for nothing. -/
def loadS : State := { ctxS with store := { ctxS.store with ownReset := 0 } }

/-- The bytes that the CRC covers, and the register of CRC-32 after each 64 of them. -/
def crcBytes : List Byte := imageBytes.take 0x3C ++ List.replicate 4 0 ++ imageBytes.drop 0x40
def crcAfter (k : Nat) : BitVec 32 :=
  [0xFFFFFFFF, 2622688661, 1796227077, 835825440, 3257702423, 2182499699, 3771885193, 3292774333, 1671748484, 1123015685, 2092248916, 1569827856, 1827707686].getD k 0

theorem foldl_chunks (l : List Byte) (n : Nat) (h : ∀ k < n, ((l.drop (64 * k)).take 64).foldl crc32Byte (crcAfter k) = crcAfter (k + 1)) :
    (l.take (64 * n)).foldl crc32Byte (crcAfter 0) = crcAfter n := by
  induction n with
  | zero => rfl
  | succ n ih => rw [Nat.mul_succ, List.take_add, List.foldl_append, ih fun k hk => h k (by omega), h n (by omega)]

theorem crcBytes_chunks : ∀ k < 12, ((crcBytes.drop (64 * k)).take 64).foldl crc32Byte (crcAfter k) = crcAfter (k + 1) := by decide +kernel

theorem imageBytes_crc : imageCrc imageBytes = 2467259609 := by
  have h := foldl_chunks crcBytes 12 crcBytes_chunks
  rw [show crcBytes.take (64 * 12) = crcBytes from by decide +kernel] at h
  show (crcBytes.foldl crc32Byte (crcAfter 0) ^^^ 0xFFFFFFFF).toNat = _
  rw [h]
  decide

theorem imageBytes_head : firstBad (headChecks loadS imageBytes 768) = none := by
  simp only [headChecks, imageBytes_crc]
  decide +kernel
theorem imageBytes_dir : firstDir imageBytes 768 0 (sectsOf imageBytes) = none := by decide +kernel
theorem imageBytes_sects : firstSect loadS 1 imageBytes sectOrder = none := by decide +kernel
theorem imageBytes_ops : firstRoomOps loadS imageBytes 1 (variantIn imageBytes 1) (variantIn imageBytes 1).rooms = none ∧
    firstRoomOps loadS imageBytes 2 (variantIn imageBytes 2) (variantIn imageBytes 2).rooms = none := by decide +kernel

theorem loadReject_none (s : State) (c : Nat) (bs : List Byte) (len : Nat) (h1 : firstBad (headChecks s bs len) = none)
    (h2 : firstDir bs len 0 (sectsOf bs) = none) (h3 : firstSect s c bs sectOrder = none)
    (h4 : firstRoomOps s bs 1 (variantIn bs 1) (variantIn bs 1).rooms = none ∧ firstRoomOps s bs 2 (variantIn bs 2) (variantIn bs 2).rooms = none) :
    loadReject s c bs len = none := by
  simp only [loadReject, h1, h2, h3, h4.1, h4.2]

theorem witness_image_accepted : loadReject loadS 1 imageBytes 768 = none :=
  loadReject_none loadS 1 imageBytes 768 imageBytes_head imageBytes_dir imageBytes_sects imageBytes_ops

theorem imageBytes_points : (variantIn imageBytes 1).qpoints = [] ∧ imgV15 imageBytes = false := by decide +kernel
theorem imageBytes_copies : imageCopies loadS imageBytes = some [] := by
  unfold imageCopies copyConsumers
  rw [imageBytes_points.1, imageBytes_points.2]
  rfl

theorem loadPlan_ok (s : State) (c : Nat) (bs : List Byte) (len : Nat) (l : List CopyRec) (h1 : loadReject s c bs len = none)
    (h2 : imageCopies s bs = some l) : loadPlan s c bs len = .inr l := by
  simp only [loadPlan, h1, h2]

theorem imageBytes_plan : loadPlan loadS 1 imageBytes 768 = .inr [] := loadPlan_ok loadS 1 imageBytes 768 [] witness_image_accepted imageBytes_copies

theorem imageBytes_waits : loadWaits loadS imageBytes = false := by decide +kernel
theorem imageBytes_waits_clear : loadWaits { loadS with store := { loadS.store with ownReset := 0xC000 } } imageBytes = true := by decide +kernel
theorem loadW_requested : requested (reqS loadS loadW) 0 loadW 0x20 ∧ inAperture loadS 1 0x10000 768 = true := by unfold requested; decide +kernel

theorem witness_image_load : requested (reqS loadS loadW) 0 loadW 0x20 ∧ inAperture loadS 1 0x10000 768 = true ∧ loadPlan loadS 1 imageBytes 768 = .inr [] ∧
    loadWaits loadS imageBytes = false ∧ loadWaits { loadS with store := { loadS.store with ownReset := 0xC000 } } imageBytes = true :=
  ⟨loadW_requested.1, loadW_requested.2, imageBytes_plan, imageBytes_waits, imageBytes_waits_clear⟩

/-- An image of no bytes is rejected. -/
theorem witness_image_rejected : (match loadPlan loadS 1 [] 768 with
    | .inl _ => true
    | .inr _ => false) = true := by decide +kernel

/-- A copy of the state whose image has one point's block, of 768 bytes, and no task. -/
def idleS : State := { ctxS with steward := { ctxS.steward with tasks := [], images := [{ image1 with blocks := [⟨5, 0x20000, leBytes 576 0⟩] }] } }

theorem witness_image_requests : requested (reqS idleS (req 0x21 [(8, 1), (0x0C, 1)])) 0 (req 0x21 [(8, 1), (0x0C, 1)]) 0x21 ∧ (imageIn idleS 1 1).isSome = true ∧
    imageBusy idleS image1 = false ∧ requested (reqS idleS (req 0x22 [(8, 1), (0x0C, 1), (0x10, 5)])) 0 (req 0x22 [(8, 1), (0x0C, 1), (0x10, 5)]) 0x22 ∧
    blockBusy idleS 0x20000 = false := by unfold requested; decide +kernel

/-! Requests to the store: granule 5 of hall 0's cellar. -/

def allocW : MsgWord := req 0x28 [(8, 1), (0x0C, 0x50000), (0x14, 1), (0x18, 1)]
def freeW : MsgWord := req 0x29 [(8, 1), (0x0C, 0x50000), (0x14, 1)]
def windowOpenW : MsgWord := req 0x2A [(8, 1), (0x0C, 0x50000), (0x14, 0x50040), (0x1C, 2), (0x1E, 1)]
def copyW (dir : Nat) : MsgWord := req 0x2C [(8, 1), (0x0C, 0x50000), (0x14, 0x10000), (0x1C, 64), (0x20, dir)]

/-- The idle state with an open window 3. -/
def windowS : State := { idleS with store := { idleS.store with windows := [(3, ⟨false, true, false, false, true, 2, 1, 0x50040, 0x50000⟩)] } }

theorem witness_granules : requested (reqS loadS allocW) 0 allocW 0x28 ∧ allocCheck loadS allocW = some 0 ∧
    allocCheck { loadS with store := { loadS.store with ownReset := 0xC000 } } allocW = none ∧ requested (reqS idleS freeW) 0 freeW 0x29 ∧
    rangeUnmapped idleS 0x50000 65536 = false ∧ cmdGranules freeW = [5] ∧ inReserve idleS.params 5 = false ∧ ownedBy idleS.store 1 5 = true ∧ heldByImage idleS 5 = false := by
  unfold requested; decide +kernel

theorem witness_windows : requested (reqS idleS windowOpenW) 0 windowOpenW 0x2A ∧ windowOk idleS 1 windowOpenW = true ∧ freeWindow idleS = some 0 ∧
    requested (reqS windowS (req 0x2B [(8, 1), (0x0C, 3)])) 0 (req 0x2B [(8, 1), (0x0C, 3)]) 0x2B ∧ (tabGet windowZero windowS.store.windows 3).opened = true ∧
    (tabGet windowZero windowS.store.windows 3).owner = 1 := by unfold requested; decide +kernel

theorem witness_store_copy : (∀ d ∈ [0, 1], requested (reqS idleS (copyW d)) 0 (copyW d) 0x2C) ∧ inAperture idleS 1 0x10000 64 = true ∧
    (∀ w ∈ [true, false], copyAdmitted idleS 1 w 0x50000 64 = true) ∧ (copyLines (linesOf 0x50000 64) idleS).2.2 = none := by unfold requested; decide +kernel

/-! Staging. -/

def paceW : MsgWord := req 0x30 [(0x0C, 0), (0x0E, 8), (0x18, 0x08040002)]
def powerW : MsgWord := req 0x31 [(0x0C, 2), (0x0E, 8), (0x10, 101), (0x18, 3), (0x1A, 3000), (0x1C, 200), (0x1E, 40)]
def pinW : MsgWord := req 0x32 [(0x0C, 1), (0x0E, 8), (0x18, 2), (0x19, 5), (0x1D, 4)]
def timeW : MsgWord := req 0x33 [(0x0E, 8), (0x18, 0), (0x1C, 1024)]
def fabricW (k : Nat) : MsgWord := req 0x34 [(0x0E, 8), (0x18, 0x9000), (0x1A, k)]
def healthW : MsgWord := req 0x35 [(0x0E, 8), (0x18, 1), (0x19, 5), (0x1A, 103)]
def healthCfgW : MsgWord := req 0x35 [(0x0E, 8), (0x1C, 720), (0x20, 60), (0x23, 3)]

theorem witness_staged : ∀ p ∈ [(0x30, paceW), (0x31, powerW), (0x32, pinW), (0x33, timeW), (0x34, fabricW 0), (0x34, fabricW 1), (0x35, healthW), (0x35, healthCfgW)],
    requested (reqS up p.2) 0 p.2 p.1 ∧ deadlineBad up p.2 = false := by unfold requested; decide +kernel

theorem witness_staged_operands : pinRefused up pinW = false ∧ unitExists up 5 103 = true := by decide +kernel

/-- One staged item of mailbox 0, in beat 101, with the highest setpoint in force. -/
def stagedS (w : MsgWord) (a : Nat) (ready : Bool) : State :=
  let s := reqS up w
  { s with
    steward := { s.steward with staged := [⟨0, w, a, [], ready⟩] }
    time := { s.time with ticks := 1024 * 101, up := 1024 * 101 }
    power := { powerReset with vcore := 50 } }

theorem witness_commit : stagedDue (stagedS (paceW) 100 true) ⟨0, paceW, 100, [], true⟩ = true ∧
    stagedDue (stagedS (powerW) 101 true) ⟨0, powerW, 101, [], true⟩ = true ∧
    stagedDue (stagedS (pinW) 100 true) ⟨0, pinW, 100, [], true⟩ = true ∧
    stagedDue (stagedS (timeW) 100 true) ⟨0, timeW, 100, [], true⟩ = true ∧
    stagedDue (stagedS (fabricW 0) 100 true) ⟨0, fabricW 0, 100, [], true⟩ = true ∧
    stagedDue (stagedS (healthW) 100 true) ⟨0, healthW, 100, [], true⟩ = true ∧
    stagedDue (stagedS (healthCfgW) 100 true) ⟨0, healthCfgW, 100, [], true⟩ = true := by
  decide +kernel

theorem witness_not_applied : notAppliedReady (stagedS pinW 90 false) 0 = true := by decide +kernel
/-! Requests that concern the engine as a whole. -/

def freezeW (beat : Nat) : MsgWord := req 0x37 [(0x0E, 4), (0x10, beat)]
def releaseW : MsgWord := req 0x37 [(0x0C, 1)]
def testW (loop : Nat) : MsgWord := req 0x38 [(0x0C, 0), (0x0D, 25), (0x0E, loop), (0x14, 8)]
def resetW (kind : Nat) : MsgWord := req 0x3A [(0x0C, kind)]

/-- A frozen engine, in beat 100 since beat 90. -/
def frozen : State := { up with shell := { shellReset with snap := { snapReset with frozen := true, captured := true, beat := 90, hold := 10, since := 90 } } }

theorem witness_snapshot_requests : (∀ b ∈ [0, 101], requested (reqS up (freezeW b)) 0 (freezeW b) 0x37 ∧ (b = 0 ∨ beatOf up < b)) ∧ snapBusy up = false ∧ fabricTask up = false ∧
    requested (reqS frozen releaseW) 0 releaseW 0x37 ∧ frozen.shell.snap.frozen = true := by unfold requested; decide +kernel

theorem witness_link_test : (∀ k ∈ [0, 2], requested (reqS up (testW k)) 0 (testW k) 0x38) ∧ portThere up 3 25 = true ∧ testable (portOf up 0 25) = true := by
  unfold requested; decide +kernel

theorem witness_reset_request : (∀ k ∈ [0, 1, 2, 3], requested (reqS up (resetW k)) 0 (resetW k) 0x3A) ∧ up.steward.phase ≠ 6 ∧
    (∀ k ∈ [0, 1], takeEffectReady { up with seq := { up.seq with resetReq := some ⟨k, 99, [0], true⟩ } } = true) := by unfold requested; decide +kernel

/-! Mailboxes and queues. -/

/-- Mailbox 63 enabled, of 16 words, and changed. -/
def boxS (f : Mailbox → Mailbox) : State := { up with steward := { up.steward with mboxes := [(63, f { mboxZero with enable := true, st := 1 })] } }

/-- TAIL at the ring's size ahead of REQ_HEAD, and one past it. -/
theorem witness_mailbox : hardUp (boxS id) = true ∧ (mbox (boxS id) 63).enable = true ∧ (mbox (boxS id) 62).enable = false ∧ behind 16 0 = 16 ∧ behind 17 0 = 17 ∧
    fetchReady (boxS fun b => { b with tail := 1 }) 63 = true ∧ (mbox (boxS fun b => { b with rsp := some 5, rspAcked := true }) 63).rspAcked = true := by decide +kernel

/-- A new number with a request that is taken and one that is not, a duplicate, and a number that is neither. -/
theorem witness_request_word : [req 1 [], req 0x99 []].all (fun w => requestReady (boxS fun b => { b with arrived := some w }) 63 w) = true ∧ classify mboxZero 1 = .new ∧
    requestCheck up.params 5 { mboxZero with binding := 2 } (req 1 [(7, 5)]) = none ∧ (requestCheck up.params 5 { mboxZero with binding := 2 } (req 0x99 [])).isSome = true ∧
    classify { mboxZero with histValid := true, last := 1, hist := [(1, 7)] } 1 = .dup 7 ∧ classify { mboxZero with histValid := true, last := 100 } 1 = .invalid := by
  decide +kernel

/-- Queue 1 of context 1, changed. -/
def queueS (f : Queue → Queue) : State := { ctxS with steward := { ctxS.steward with queues := [f { newQueue 1 1 queueCreateW with id := 1 }] } }

def nextW : MsgWord := req 0x01 [(7, 5), (8, 1), (0x0C, 0x10400)]
def fenceW : MsgWord := req 0x17 [(7, 5), (8, 1), (0x0C, 4), (0x0E, 1)]
def descW : MsgWord := req 0x18 [(7, 5), (8, 1), (0x0C, 1), (0x10, 1)]

theorem witness_posted : postedReady { queueS id with host := { hostReset with porch := [⟨0x10000, false, leBytes 64 2⟩] } } 1 2 0 = true := by decide +kernel

/-- A fetch, one past the hop limit, and one outside the aperture. -/
theorem witness_desc_fetch : descFetchReady (queueS fun q => { q with posted := 1 }) 1 = true ∧ inAperture ctxS 1 0x10080 64 = true ∧
    descFetchReady (queueS fun q => { q with posted := 1, hops := 4096 }) 1 = true ∧ descFetchReady (queueS fun q => { q with posted := 1, nextDesc := 0x90000 }) 1 = true ∧
    inAperture ctxS 1 0x90000 64 = false := by decide +kernel

theorem witness_desc_arrival : [nextW, fenceW, descW, 0].all (fun w => descArrivalReady (queueS fun q => { q with arrived := some w }) 1 w) = true := by decide +kernel

theorem witness_desc_kinds : [nextW, fenceW, descW].all (fun w => descOk ctxS.params { newQueue 1 1 queueCreateW with id := 1 } w) = true ∧
    descOk ctxS.params { newQueue 1 1 queueCreateW with id := 1 } 0 = false ∧ acceptRefusal (queueS id) 1 descW = none := by decide +kernel

theorem witness_chain_timeout : chainTimeoutReady (queueS fun q => { q with fetching := some 0x10080, issued := 0 }) 1 = true ∧
    queueOpen (queueS fun q => { q with work := [.fence 4 0] }) { newQueue 1 1 queueCreateW with work := [.fence 4 0] } = true := by decide +kernel

/-! The hatch, the keep and the snapshot. -/

/-- Channel 15 with these settings; annex slot 0 is there. -/
def hatchS (h : Hatch) : State := { up with params := { up.params with annexSlots := 1 }, shell := { shellReset with hatch := [(15, h)], turn := 15 } }

/-- A burst of 4,096 bytes from the annex into the store's granule 0, and one out of it. -/
def hatchIn : Hatch := { hatchZero with src := 0x4000000000000000, dst := 0, count := 0x1000, ctx := 1, pace := 1 }
def hatchOut : Hatch := { hatchIn with src := 0, dst := 0x4000000000000000 }

theorem witness_hatch : hasHatch (hatchS hatchIn) 15 = true ∧ startOk (hatchS hatchIn) hatchIn = true ∧ startOk (hatchS hatchIn) { hatchIn with count := 0 } = false ∧
    burstReady (hatchS { hatchIn with start := true, beatDue := true }) 15 = true ∧ burstCheck (hatchS hatchIn) hatchIn = 0 ∧
    burstCheck (hatchS hatchIn) { hatchIn with ctx := 2 } = 1 := by decide +kernel

theorem witness_hatch_landed : landedReady (hatchS { hatchIn with start := true, busy := true, flight := burstLen hatchIn }) 15 none = true ∧
    landedReady (hatchS { hatchIn with start := true, busy := true, flight := burstLen hatchIn }) 15 (some (List.replicate (burstLen hatchIn) 1)) = true ∧ (burstStore hatchIn).2 = true ∧
    landedReady (hatchS { hatchOut with start := true, busy := true, flight := burstLen hatchOut }) 15 (some []) = true ∧ (burstStore hatchOut).2 = false ∧ burstCheck (hatchS hatchOut) hatchOut = 0 ∧
    (copyLines (linesOf (burstStore hatchOut).1 (burstLen hatchOut)) (hatchS hatchOut)).2.2 = none := by decide +kernel

/-- The keep: reading at power-up, and an item write at its first, a payload and its last unit. -/
theorem witness_keep : keepAckReady { up with steward := { up.steward with phase := 1 } } = true ∧
    (∀ u ∈ [0, 1, 2], keepAckReady { up with shell := { shellReset with keep := { keepReset with writes := [⟨4, 0, [1], u, 1, none⟩] } } } = true) ∧
    recordReady { up with health := { healthReset with recDue := true } } = true ∧ recordReady up = false := by decide +kernel

/-- A freeze that is due, its response that waits, and its end. -/
theorem witness_snapshot : beatOf up = 100 ∧ freezeEndReady frozen = true ∧
    (reqS { frozen with shell := { frozen.shell with snap := { frozen.shell.snap with req := true, mbox := some 0 } } } (freezeW 0)).shell.snap.req = true ∧
    (mbox (reqS frozen (freezeW 0)) 0).executing = some (freezeW 0) ∧ ¬ frozen.shell.snap.since + 1024 ≤ upBeat frozen ∧
    frozen.shell.snap.since + 1024 ≤ upBeat (later frozen) := by decide +kernel

/-! The fabric. -/

/-- A frame to address 5 of kind and payload, its header's CRC right. -/
def frameTo (dst kind tag : Nat) (aux : BitVec 32) (payload : List Byte) : Frame :=
  ⟨sealHdr ⟨BitVec.ofNat 16 dst, 9, BitVec.ofNat 8 kind, 32, BitVec.ofNat 16 payload.length, 1, BitVec.ofNat 32 tag, 7, aux, 0⟩, payload⟩

/-- An engine of the fabric with bundles 0 and 1 up and this frame delivered from bundle 0. -/
def fabS (f : Frame) : State := { up with fabric := { fabricReset with
  addr := some 5, epoch := 1, bundles := [(0, ⟨true, 3, 0, 100, 8, 9⟩), (1, ⟨true, 3, 0, 100, 9, 10⟩)], inbox := [(0, f)]
  routes := [(5, 0xC0000000), (6, 0x81000000), (9, 0x80000000)], onOld := [2] } }
/-- A frame for this engine, one to pass on, one whose hops run out, one without a route, one of a bad header, a broadcast, a DRAIN and a FLOW frame. -/
theorem witness_routing : (tabGet bundleZero (fabS (frameTo 5 7 1 0 [])).fabric.bundles 0).up = true ∧ bundleThere up 31 = true ∧
    hdrGood (frameTo 5 0x10 1 0 []).hdr = true ∧ entLocal (tabGet 0 (entriesFor (fabS (frameTo 5 7 1 0 [])) 0) 5) = true ∧
    entValid (tabGet 0 (entriesFor (fabS (frameTo 5 7 1 0 [])) 0) 6) = true ∧ entLocal (tabGet 0 (entriesFor (fabS (frameTo 5 7 1 0 [])) 0) 6) = false ∧
    entValid (tabGet 0 (entriesFor (fabS (frameTo 5 7 1 0 [])) 0) 7) = false ∧ hdrGood { (frameTo 5 0x10 1 0 []).hdr with hcrc := 0 } = false ∧
    hdrGood (frameTo 0x8000 1 1 0 []).hdr = true ∧ hdrGood (frameTo 5 6 1 0 []).hdr = true ∧ hdrGood (frameTo 5 0x20 1 0 []).hdr = true ∧
    hdrGood (sealHdr { (frameTo 6 0x10 1 0 []).hdr with hops := 1 }) = true := by decide +kernel

/-- A message that nobody acknowledged: one resend left to make, and none. -/
def unackedS (tries : Nat) : State := { fabS (frameTo 5 7 1 0 []) with fabric := { (fabS (frameTo 5 7 1 0 [])).fabric with
  unacked := [⟨6, frameTo 6 0x10 1 0 [], 96, tries⟩], updates := [⟨2, 100, []⟩], switchAt := 100, rolling := true, rollSeen := 3, lastRoll := 36 } }

theorem witness_management : inInbox (fabS (frameTo 5 7 1 0 [])) 0 (frameTo 5 7 1 0 []) = true ∧ (overdue (unackedS 15) 6 1).isSome = true ∧ (overdue (unackedS 16) 6 1).isSome = true ∧
    drainReady (fabS (frameTo 5 6 1 0 [])) 0 (frameTo 5 6 1 0 []) = true ∧ 2 ∈ (unackedS 0).fabric.onOld ∧
    (tabGet bundleZero (unackedS 0).fabric.bundles 2).up = false ∧ (unackedS 0).fabric.switchAt ≤ upBeat (unackedS 0) ∧ rollCloseReady (unackedS 0) = true ∧
    beatOf (unackedS 0) = 100 := by decide +kernel

/-- A frame that lies in the lane-slots taken from bundle 0, behind 8 bytes of another; a ROUTE_UPDATE that names this engine, and one that gives its registrar a table. -/
theorem witness_frame_in :
    (frameIn { fabS (frameTo 5 7 1 0 []) with fabric := { (fabS (frameTo 5 7 1 0 [])).fabric with
      arrived := [(0, [(6400, leBytes 8 1 ++ (frameBytesOf (frameTo 5 7 1 0 [])).take 24), (6401, (frameBytesOf (frameTo 5 7 1 0 [])).drop 24)])] } } 0 (frameTo 5 7 1 0 [])).isSome = true ∧
    namedHere (fabS (frameTo 5 5 1 0 [])) (frameTo 5 5 1 110 (leBytes 8 0 ++ leBytes 4 2 ++ leBytes 4 5)) 0 = true ∧
    namedHere (fabS (frameTo 5 5 1 0 [])) (frameTo 5 5 1 1 (leBytes 8 9 ++ leBytes 4 2 ++ leBytes 4 9)) 9 = false ∧
    (frameTo 5 5 1 1 (leBytes 8 9 ++ leBytes 4 2 ++ leBytes 4 9)).hdr.aux.toNat + 1 = pfld (frameTo 5 5 1 1 (leBytes 8 9 ++ leBytes 4 2 ++ leBytes 4 9)).payload 8 4 ∧
    (frameTo 5 5 1 1 []).hdr.src ≠ srcField (fabS (frameTo 5 5 1 0 [])) ∧ entryTable [(7, 0x80000000)] ≠ [] ∧ (dueUpdate (unackedS 0)).isSome = true := by decide +kernel

/-- A roll record of a known roll call, new here. -/
theorem witness_roll : rollNew { fabS (frameTo 0x8000 2 3 0 (leBytes 96 1)) with fabric := { (fabS (frameTo 0x8000 2 3 0 (leBytes 96 1))).fabric with rolling := true, rollSeen := 3 } }
    (frameTo 0x8000 2 3 0 (leBytes 96 1)) = true ∧
    ofOneReady { later up with fabric := { fabricReset with trained := some 0 } } = true := by decide +kernel

/-- Lane port 25 of gatehouse 3, changed. -/
def portS3 (f : Port → Port) : State := { up with links := { linksReset with ports := [(32 * 3 + 25, f portZero)] } }

/-- A bundle that has a lane and is down, and one that is up without. -/
theorem witness_bundles : bundleReady (portS3 fun x => { x with st := 5, logical := 4, bundle := 26 }) 26 true = true ∧ bundleReady (fabS (frameTo 5 7 1 0 [])) 0 false = true ∧
    bundleThere up 26 = true := by decide +kernel

/-- A round of two members: this engine is the leader, or a member. -/
def roundTaskOf (member : Nat) (st : TState) (halting : Bool) : Task := { task1 with
  member := member, state := st, halting := halting, round := 1, members := [⟨0, 9, true, false, false⟩, ⟨1, 10, true, false, false⟩], launchAt := none }

/-- The engine with that round and a frame of it. -/
def roundS (member : Nat) (st : TState) (halting : Bool) (f : Frame) : State :=
  let s := fabS f
  { s with steward := { s.steward with
    tasks := [roundTaskOf member st halting]
    images := [{ image1 with flows := [⟨1, true, 1, 2, 0, 0, 64, 0x20000⟩, ⟨2, false, 1, 2, 2, 2, 64, 0⟩], claims := [⟨1, 0, 2, 0, 1, 0, 5, 1⟩] }] } }

/-- READY, LAUNCH, REFUSE, WITHDRAW, END and DONE reach a task that is not final. -/
theorem witness_rounds : [0x10, 0x11, 0x12, 0x18, 0x13, 0x14, 0x17, 0x15, 0x16].all (fun kind =>
      inInbox (roundS 0 .eligible false (frameTo 5 kind 1 101 [])) 0 (frameTo 5 kind 1 101 []) && !msgSeen (roundS 0 .eligible false (frameTo 5 kind 1 101 [])) (frameTo 5 kind 1 101 []) &&
        (frameTask (roundS 0 .eligible false (frameTo 5 kind 1 101 [])) (frameTo 5 kind 1 101 [])).isSome &&
        (frameTask (roundS 1 .launched false (frameTo 5 kind 1 101 [])) (frameTo 5 kind 1 101 [])).isSome) = true := by decide +kernel

theorem witness_halted_timeout : haltedTimeoutReady (later (roundS 0 .launched true (frameTo 5 7 1 0 []))) 1 = true := by decide +kernel

/-- A FLOW frame for a window here, and one in transit that a claim forwards. -/
theorem witness_flows : (liveTask (roundS 0 .launched false (frameTo 5 0x20 1 0 (leBytes 64 3))) 7).isSome = true ∧
    (runningTask (roundS 0 .launched false (frameTo 5 7 1 0 [])) 1).isSome = true ∧ (flowOf ({ image1 with flows := [⟨2, false, 1, 2, 2, 2, 64, 0⟩] }) 2).isSome = true ∧
    (match runningTask (roundS 0 .launched false (frameTo 5 7 1 0 [])) 1 with
      | some (t, i) => (slotClaim (roundS 0 .launched false (frameTo 5 7 1 0 [])) t i 2).isSome
      | none => false) = true := by decide +kernel

/-! Links. -/

/-- Both ends of a beat's positions: the first block of a beat, the last nominal one, and a codeword's last. -/
theorem witness_block_transmit : [portS3 fun x => { x with st := 5, rate := 0 }, portS3 fun x => { x with st := 5, rate := 0, txPos := 843, txBeat := 100 }].all (fun s =>
      blockTransmitReady s 3 25 (nextBytes (beginSlot 3 25 s) 3 25)) = true ∧
    codewordReady (portS3 fun x => { x with st := 5, rate := 0 }) 3 25 (List.replicate 20 .filler) = true ∧ portThere up 3 25 = true := by decide +kernel

theorem witness_received : [Block.beatMark 100 843 4, .slotMark 36 0 [], .data (List.replicate 32 0), .nak 100 0 4, .replayHead 100 0 4, .swap 128 4, .loop true 8,
      .train 1 0 0 7 false 3 0 0].all (fun b => rxHead (portOf (portS3 fun x => { x with st := 5, rxq := [.good b] }) 3 25) b) = true ∧
    deadlineReady (portS3 fun x => { x with nextLs := some (64 * 99) }) 3 25 99 0 = true := by decide +kernel

theorem witness_training : (portOf (portS3 fun x => { x with st := 1 }) 3 25).st = 1 ∧ (portOf (later (portS3 fun x => { x with st := 3 })) 3 25).since + 4096 ≤ upBeat (later up) ∧
    (portOf (later (portS3 fun x => { x with st := 7 })) 3 25).since + 65536 ≤ upBeat (later up) ∧
    trainingEndReady { portS3 id with links := { (portS3 id).links with training := [(3, some 90)] } } 3 = true := by decide +kernel

/-- A port that sends and receives lane 4, these blocks received: a SLOT_MARK of a later lane-slot, and blocks that name the lane. -/
theorem witness_lane_blocks : [Block.slotMark 36 0 [], .nak 100 0 4, .replayHead 100 0 4, .swap 128 4].all (fun b =>
      let s := portS3 fun x => { x with st := 5, logical := 4, rxLane := 4, rxq := [.good b] }
      rxHead (portOf s 3 25) b && (portOf s 3 25).rxVia.isNone && decide ((portOf s 3 25).rxBeat < beatNear (portOf s 3 25) 36) &&
        txPortOf (modPort 3 25 rxPop s) 3 4 == some 25 && rxPortOf (modPort 3 25 rxPop s) 3 25 4 == some 25) = true ∧
    rxHead (portOf (portS3 fun x => { x with st := 8, rxq := [.good (.data [1])] }) 3 25) (.data [1]) = true := by decide +kernel

/-- An active port with a standby of the same peer. -/
def standbyS : State := { up with links := { linksReset with
  ports := [(0, { portZero with st := 5, logical := 4, rxLane := 4 }), (1, { portZero with st := 6 })], swaps := [⟨0, 4, 0, 1, 100⟩] } }

theorem witness_moves : standbyFor standbyS 0 0 = some 1 ∧ standbyFor (portS3 fun x => { x with st := 5 }) 3 25 = none ∧ (swapDue standbyS 0 4).isSome = true ∧
    rxPortOf standbyS 0 0 4 = some 0 ∧ txPortOf standbyS 0 4 = some 0 := by decide +kernel

/-- A test that runs to its end, and one that no peer joins. -/
theorem witness_link_tests : (testDone (portS3 fun x => { x with st := 8, test := some ⟨0, 0, false, 8, some 0, 92, true, 1, 1, 7, 1, 2, 0⟩ }) 3 25).isSome = true ∧
    (92 - 56) + 64 ≤ upBeat up := by decide +kernel

/-! Time. -/

/-- Bundle 0 leads to the keeper of serial 2; its STAMP exchanges. -/
def keptS (f : TimeUnit → TimeUnit) : State :=
  let s := fabS (frameTo 5 7 1 0 [])
  { s with
    fabric := { s.fabric with members := [⟨2, 0, 0, 0, 0, 0, 9, 0, 0⟩] }
    time := f { s.time with keeper := some ⟨2, 0x8000, 2, 1, 90⟩, st := 2 } }

/-- That engine with a TIME frame delivered from bundle 0: an ANNOUNCE, or a STAMP whose exchange is complete or names a mark that was lost. -/
def timeS (type cls rank : Nat) (mark : Nat) : State :=
  let s := keptS id
  { s with
    fabric := { s.fabric with
      inbox := [(0, frameTo 0x8000 8 1 0 (timePayload type cls rank 5 mark 20 mark 100 7))]
      routes := [(8192 + 9, 0x80000000)] }
    links := { linksReset with ports := [(0, { portZero with st := 5, logical := 0, bundle := 0, arrives := [(99, 70)], departs := [(99, 40)] })] } }

/-- The exchange of mark 99. -/
def exchange99 : Exchange := ⟨1024 * 65536 * 99 + 20, 70, 40, 65536 * 100 + 7⟩

theorem witness_time : (announceFrame (timeS 1 2 0x7000 0) 0 2 0x7000 5 32).isSome = true ∧ (announceFrame (timeS 1 2 0x9000 0) 0 2 0x9000 5 32).isSome = true ∧
    betterTime 2 0x7000 5 (timeClass (keptS id)) 0x8000 0 = true ∧ betterTime 2 0x9000 5 (timeClass (keptS id)) 0x8000 0 = false ∧
    keeperTimeoutReady (later (keptS id)) = true ∧ (stampFrame (timeS 2 2 0 99) 0).isSome = true ∧ stampReady (timeS 2 2 0 99) 0 2 exchange99 false = true ∧
    stampReady (timeS 2 2 0 98) 0 2 exchange99 true = true ∧ parentBundle (timeS 2 2 0 99) = some 0 ∧ parentBundle (keptS fun t => { t with keeper := none }) ≠ some 0 ∧
    stepDue (keptS fun t => { t with step := some ⟨2, 5, 99, true⟩ }) = true ∧ stepDue (keptS fun t => { t with step := some ⟨-2, -5, 99, false⟩ }) = true := by decide +kernel

/-- Exchanges whose offset is at 16 ticks and at 512 ticks, and just past each. -/
theorem witness_stamp_bounds : [16 * 65536, 16 * 65536 + 1, 512 * 65536, 512 * 65536 + 1].map (fun d : Int => (theta2 ⟨0, d, d, 0⟩).natAbs) =
    [2 * 16 * 65536, 2 * (16 * 65536 + 1), 2 * 512 * 65536, 2 * (512 * 65536 + 1)] := by decide +kernel

theorem witness_holdover : (keptS id).time.lastUse + 64 ≤ upBeat (keptS id) ∧ boundExceeded (keptS fun t => { t with st := 3, holdFrom := some (0, false) }) = true := by decide +kernel

/-- The reference on pin 15, its pulse found and lost. -/
def refS : State := { up with
  side := { sidebandReset with pins := pinsReset.take 15 ++ [⟨1, 2, 0, 20, 1, 0, none⟩] }
  time := { up.time with refEn := true, period := 1024 } }

theorem witness_reference : timeInOn refS = true ∧ refS.time.refGone = false ∧ 3 * refS.time.period ≤ 2 * (refS.time.up - pulseSince refS.time) ∧
    pulseSpaced { refS.time with pulse := some (1024, 1024), pulseBase := 1024 } 2048 = true ∧ pulseSpaced refS.time 2048 = false := by decide +kernel

/-! Power, health, sequencing. -/

def powS : State := { up with power := { powerReset with
  gaps := [⟨5, 4, 8, 100⟩]
  halls := [(0, { hallPowZero with ramp := .hold 100 80 }), (1, { hallPowZero with iFull := 1600, ahead := some ⟨2, 1, 3, 8, 110⟩ })] } }

theorem witness_power : powS.power.ivCount < 16 ∧ gapOn powS 5 4 = true ∧ 80 + powS.power.cfg.hold ≤ upBeat powS ∧ preRampReady powS 1 = true := by decide +kernel

/-- The first room's mould 0 at each stage of a repair. -/
def repairS (attrib : Bool) (stage : Nat) : State := { up with health := { healthReset with
  attribs := if attrib then [⟨2, 0, 0x309, some 0, none, none⟩] else []
  repairs := if attrib then [] else [⟨2, 0, some 0, 0x309, 90, stage, [], [0], none, [.row 0 5]⟩]
  replaceQ := [(2, 0), (5, 0)], replacing := [(1, 3)] } }

theorem witness_repairs : repairReady (repairS true 0) 2 0 = true ∧ (repairAt (repairS false 1) 2 0 1).isSome = true ∧ repairHalted (repairS false 1) ⟨2, 0, some 0, 0x309, 90, 1, [], [0], none, []⟩ = true ∧
    (repairAt (repairS false 3) 2 0 3).isSome = true ∧ up.health.beatHb + 4 ≤ upBeat up ∧ takeoverReady up = true := by decide +kernel

theorem witness_replacement : unitExists up 4 5119 = true ∧ replaceReady (repairS true 0) 2 0 = true ∧ hasSpare (repairS true 0) 2 0 = true ∧
    replaceReady { standbyS with health := { healthReset with replaceQ := [(5, 0)] } } 5 0 = true ∧ hasSpare standbyS 5 0 = true ∧
    (servedBy up 0 3).isSome = true := by decide +kernel

/-- The sequencer at a step. -/
def seqS (q : SeqStep) : State := { up with seq := { up.seq with step := q } }

theorem witness_power_up : State.reset.seq.step = .dead ∧ nextRail (seqS .wait).seq = some 1 ∧ nextRail (seqS (.gap 2)).seq = some 3 ∧ isRail 1 = true ∧ isRail 3 = true ∧
    awaitsGood (seqS (.rise 2)).seq = true ∧
    firmwareReady { up with steward := stewardReset, shell := { shellReset with keep := { keepReset with rdUnit := keepUnits } }, seq := { up.seq with step := .run } } = false ∧
    firmwareReady { up with steward := { stewardReset with phase := 1 }, shell := { shellReset with keep := { keepReset with rdUnit := keepUnits } } } = true ∧
    engineReadyDue (later { up with steward := { up.steward with phase := 4 } }) = true ∧ wakeReady (seqS .failed) = true := by decide +kernel

theorem witness_settle : (seqS .settle).seq.step = .settle ∧ ({ (seqS .settle).seq with pending := 2 } : Seq).pending = 2 ∧ dropping (seqS (.drop 3)).seq = some 3 ∧
    (seqS (.gap 3)).seq.step = .gap 3 ∧ (seqS .run).steward.phase ≠ 2 ∧ ({ (seqS .run).steward with phase := 2 } : Steward).phase = 2 := by decide +kernel

theorem witness_power_down : powerDownReady { up with seq := { up.seq with trips := [(1, 99)] } } = true ∧
    cancelReady { up with seq := { up.seq with pd := some ⟨50, true, 8, false, false⟩ } } = true ∧
    noReturnReady { up with seq := { up.seq with pd := some ⟨36, true, 0, false, false⟩ } } = true ∧ railOn 3 1 = true ∧ railOn 3 3 = false ∧
    railFailReady up 3 = true := by decide +kernel

/-! The host port and registers. -/

/-- A request that is out since tick 0, and a tag that is late. -/
def hostS (p : Purpose) : State := { later up with host := { hostReset with out := [⟨5, p, 0x1000, 0⟩], late := [(6, 10)] } }

theorem witness_host : [Purpose.reqFetch 0, .rspWrite 0, .descFetch 1, .recordWrite 1, .fill true, .fill false].all (fun p => (reqOf (hostS p) 5).isSome) = true ∧
    timeoutReady (hostS .dead) 5 = true ∧ isLate (hostS .dead) 6 = true ∧ isLate (hostS .dead) 7 = false ∧ reqOf (hostS .dead) 6 = none := by decide +kernel

theorem witness_registers : up.seq.step ≠ .dead ∧ isReg up.params 0x40504 = true ∧ isReg up.params 0x44444 = false ∧ stewardOnly 0x40504 = false ∧
    15 < up.params.halls ∧ portThere up 0 0 = true ∧ up.params.sbPins = 16 := by decide +kernel

/-! Invariants and whole-machine statements. -/

theorem witness_store_canonical : memWf up = true := by decide +kernel
theorem witness_idle : State.reset.pending = [] ∧ step State.reset = .next State.reset := ⟨rfl, rfl⟩
theorem witness_tags : tagsHeld up ∧ scalarZero up ∧ issueOrder up := ⟨⟨by decide, by decide⟩, fun _ => rfl, fun _ _ h => by cases h⟩

theorem witness_stopped : stopped { up with seq := { seqReset with step := .failed }, steward := { stewardReset with phase := 7 } } ∧
    (seqS (.gap 3)).seq.step = .gap 3 := by
  unfold stopped; decide

/-- Records of a row of two values, split in two lists. -/
theorem witness_ranks : realRecord true ⟨vOfInt 3, 0, codeOfInt 32 3⟩ ∧ realRecord true ⟨vOfInt (-2), 1, codeOfInt 32 (-2)⟩ ∧ ([0, 1] : List Nat).Nodup :=
  ⟨⟨by decide, 3, by decide, by decide, rfl, rfl⟩, ⟨by decide, -2, by decide, by decide, rfl, rfl⟩, by decide⟩
/-! Clauses at their other ends: launches refused and missed, records, contexts, queues, closes that wait. -/

/-- A member of a round whose L is over, and one whose queue is gone; a task whose room does not exist. -/
def memberT (l : Nat) : Task := { task1 with state := .eligible, eligBeat := 98, rooms := [], launch := none, members := [⟨0, 9, true, true, false⟩], launchAt := some l }
def memberS (l : Nat) : State := { eligS with steward := { eligS.steward with tasks := [memberT l] } }
def shortS : State :=
  { eligS with steward := { eligS.steward with images := [{ image1 with var16 := { variant1 with rooms := [⟨15, 1, 0⟩] } }] }, offered := [(0, 15)] }

theorem witness_launch_missed : launchReady (memberS 99) 1 = true ∧ missesLaunch (memberS 99) (memberT 99) = true ∧ launchReady (memberS 100) 1 = true ∧
    missesLaunch (memberS 100) (memberT 100) = false ∧ missesLaunch eligS { task1 with state := .eligible, eligBeat := 98, rooms := [], launch := none } = false := by decide +kernel

/-- A member whose part of the image has no room, and a point whose HEADROOM is invalid. -/
theorem witness_launch_bare : variantNone.rooms = [] ∧ launchScaleBad ((pointBlocks variantNone).map (readPoint eligS.store)) = false ∧
    launchReady { memberS 100 with steward := { (memberS 100).steward with tasks := [{ memberT 100 with member := 1 }], images := [{ image1 with var16 := variantNone }] } } 1 = true ∧
    [0x0D, 0x1D].any (fun k => launchScaleBad [readPoint { eligS.store with mem := [(k, 0xFF)] } (5, 0)]) = true := by decide +kernel

theorem witness_launch_refused : launchReady shortS 1 = true ∧
    (imageOf shortS task1).any (fun i => launchRefusal shortS { task1 with state := .eligible, eligBeat := 98, rooms := [], launch := none } i == 0x404) = true ∧
    launchScaleBad ((pointBlocks variant1).map (readPoint eligS.store)) = false := by decide +kernel

theorem witness_record_fence : (queueOf { eligS with steward := { eligS.steward with queues := [{ newQueue 1 1 0 with id := 1 }] } } 1).any (·.closing.isNone) = true ∧
    (fenceOf ctxS 4).ctx = some 1 := by decide +kernel

theorem witness_ctx_clear : destroyReady { up with steward := { up.steward with ctxs := [(1, { ctxZero with state := 2, freed := true, granules := [5] })] } } 1 = true ∧
    destroyReady { up with
      store := { up.store with clearing := [5] }
      steward := { up.steward with ctxs := [(1, { ctxZero with state := 2, freed := true, granules := [5] })] } } 1 = false := by decide +kernel

/-- A queue whose tasks are final, with every record written, and with one to write. -/
def finalS (r : RecState) : State :=
  { ctxS with steward := { ctxS.steward with tasks := [{ task1 with state := .completed, record := r }], queues := [{ newQueue 1 1 queueCreateW with id := 1 }] } }

theorem witness_queue_destroy : requested (reqS (finalS .toWrite) (req 0x14 [(8, 1), (0x0C, 1)])) 0 (req 0x14 [(8, 1), (0x0C, 1)]) 0x14 ∧
    (queueOf (finalS .toWrite) 1).any (fun x => x.ctx == 1 && x.closing.isNone) = true ∧ queueSettled (finalS .toWrite) 1 = false ∧ queueSettled (finalS .written) 1 = true ∧
    (finalS .toWrite).steward.tasks.all isFinal = true := by unfold requested; decide +kernel

/-- TASK_ABORT of a task that is queued, launched and final. -/
theorem witness_task_abort : [TState.queued, .eligible, .launched, .completed].all (fun st =>
    (taskOf { ctxS with steward := { ctxS.steward with tasks := [{ task1 with state := st, record := .toWrite }] } } 1).any fun t => t.ctx == 1 && t.members.isEmpty) = true := by
  decide +kernel

/-- A burst in flight toward granule 5 and window 3. -/
def flyS : State :=
  { windowS with shell := { shellReset with hatch := [(15, { hatchIn with dst := 0x50000, start := true, busy := true, flight := burstLen hatchIn })] } }

theorem witness_closes : stillFlies idleS (inFlightOn idleS 0 none [5] [(0x50000, 65536)] []) = false ∧
    stillFlies flyS (inFlightOn flyS 0 none [5] [(0x50000, 65536)] []) = true ∧ stillFlies flyS (inFlightOn flyS 0 (some image1) [] [(0x50000, 64)] []) = true ∧ idleS.steward.closes = [] ∧ flyS.steward.closes = [] := by decide +kernel

/-- A copy whose first line cannot be corrected, and one of no bytes. -/
theorem witness_copy_ends : (copyLines (linesOf 0x50000 64) { idleS with store := { idleS.store with lines := [(0x1400, .poisoned)] } }).2 = ([], some 0x1400) ∧
    (copyLines (linesOf 0x50000 0) idleS).2 = ([], none) := by decide +kernel

/-! The hatch's requests at both ends of PENDING, and its disable. -/

theorem witness_hatch_requests : hardUp (hatchS hatchIn) = true ∧ (hatchS hatchIn).shell.disable = false ∧ (hatchOf (hatchS { hatchIn with pending := 14 }) 15).pending < 15 ∧
    15 ≤ (hatchOf (hatchS { hatchIn with pending := 15 }) 15).pending ∧ (hatchOf (hatchS { hatchIn with start := true, busy := true }) 15).busy = true ∧
    (1 : BitVec 32).getLsbD 0 = true ∧ (2 : BitVec 32).getLsbD 0 = false := by decide +kernel

/-- A burst in flight whose channel's context has been destroyed. -/
theorem witness_hatch_killed : landedReady (hatchS { hatchIn with busy := true, flight := burstLen hatchIn, error := true, err := 5, killed := true }) 15 none = true := by decide +kernel

theorem witness_hatch_errors : burstReady (hatchS { hatchIn with start := true, beatDue := true, ctx := 2 }) 15 = true ∧
    burstReady (hatchS { hatchIn with start := true, pace := 0, pending := 1 }) 15 = true ∧
    (copyLines (linesOf (burstStore hatchOut).1 (burstLen hatchOut)) { hatchS hatchOut with store := { up.store with lines := [(0, .poisoned)] } }).2.2 ≠ none := by
  decide +kernel

/-! Self-test, training, time and the invariants of rooms. -/

/-- An active steward core and a unit of hall 0's die end self-test; the standby core, a mould and a crossing do not. -/
theorem witness_self_test : (testFailures [(6, 0, [])] []).any (fun f => fatalStage up f.1) = true ∧ (testFailures [] [.engine .router]).any (fun f => fatalStage up f.1) = true ∧
    (testFailures [(6, 1, []), (2, 3, [.row 3 128])] [.engine .standbyCore, .crossing 0 1]).any (fun f => fatalStage up f.1) = false := by decide +kernel

theorem witness_retry : (portOf (portS3 fun x => { x with st := 7, idled := false }) 3 25).idled = false ∧ 3 ∉ up.health.gatesOut ∧ (portOf (portS3 fun x => { x with st := 2, rate := 2 }) 3 25).rate = 2 ∧
    (portOf (portS3 fun x => { x with st := 2, rate := 1, held := true }) 3 25).held = true ∧ bestRate 7 7 = some 0 ∧ bestRate 4 7 = some 2 := by decide +kernel

theorem witness_tested_ports : [true, false].all (fun run => (portOf (portS3 fun x => { x with st := 8, test := some ⟨0, 0, false, 8, some 0, 0, run, 1, 1, 0, 0, 0, 0⟩, rxq := [.good (.loop (!run) 8)] }) 3 25).test.isSome) = true ∧
    testable (rxPop (portOf (portS3 fun x => { x with st := 5, rxq := [.good (.loop true 8)] }) 3 25)) = false ∧
    testable (rxPop (portOf (portS3 fun x => { x with st := 7, rxq := [.good (.loop true 8)] }) 3 25)) = true := by decide +kernel

/-- One op in flight, the next not yet issued. -/
theorem witness_issue_order : (roomOf (flightS 0) 0).inflight.all (fun f => decide (f.seq < (roomOf (flightS 0) 0).issued)) = true ∧ (roomOf (flightS 0) 0).inflight ≠ [] := by
  decide +kernel

/-! Where units lie (01 R20 to R26). -/

/-- 01's routes between halls of the 4 × 4 grid, by their fixed latencies, and where the four gatehouses attach. -/
theorem test_grid : [(5, 6), (0, 5), (3, 12)].map (fun e => hallLatency e.1 e.2) = [40, 48, 72] ∧ (List.range 4).map (gateHall paramsTop) = [0, 4, 8, 12] ∧
    route 3 12 = [3, 2, 1, 0, 4, 8, 12] := by decide +kernel
theorem witness_grid : paramsTop.gatehouses ≤ paramsTop.halls ∧ 15 < paramsTop.halls := by decide

/-! A firmware of no code, signed with the private key 3 under a nonce of 7 (FIPS 186-5), for FW_UPDATE. -/

/-- Its payload. -/
def fwP : List Byte := leBytes 256
  0x8A802123CFB752A551F35CED1B8839C5FEFA6A8C6788F045926D20DE5AD2FDE311B4E5A4E817E5B01706FCD67EC3C1CCE1D0B68FB4050F04B2EBB9556F52058B501C7BFA9DCC582DFA5FEAFB97E96FADFEDF4E23BF8E9FF28847CE65731D3C2800000000000000000000000000000000000000000000000000000000000000F11D2F0A60285FB698D2B5E46BBD4AC2AC1E11DC0E4C68F7A55A11851CB4208599FCA90296BE0B7D83420C0BCAF795C931C80005C7E5D7020D582650AEBB08B4A66D56D340F2A4BE06CD2D2010399DCB987DDC5F7E3C796414FA6F60D4417A0704000000000000000000000000000000000000000500000001010000004E454659

/-- The digest of its public key. -/
def fwKey : BitVec 384 :=
  0x724B9957582F0A755FA67E1FEBC163DF570EE375B3C866FE2AA156994BD692F9C3425BD40DD1059A7921B8A27DAE21E2

/-- Its public key and signature, the digest, and the inverse of s modulo the order. -/
def fwX : Nat := 0x77A41D4606FFA1464793C7E5FDC7D98CB9D3910202DCD06BEA4F240D3566DA6B408BBAE5026580D02D7E5C70500C831
def fwY : Nat := 0xC995F7CA0B0C42837D0BBE9602A9FC998520B41C85115AA5F7684C0EDC111EACC24ABD6BE4B5D298B65F28600A2F1DF1
def fwR : Nat := 0x283C1D7365CE4788F29F8EBF234EDFFEAD6FE997FBEA5FFA2D58CC9DFA7B1C508B05526F55B9EBB2040F05B48FB6D0E1
def fwS : Nat := 0xCCC1C37ED6FC0617B0E517E8A4E5B411E3FDD25ADE206D9245F088678C6AFAFEC539881BED5CF351A552B7CF2321808A
def fwH : Nat := 0x2098001DAF79540AFE64FB1F185B4C8133A103B41F23DF127C98D1712267A2A90B007CFA10E99EBED879767646EC41E4
def fwW : Nat := 0x87DBE97CD06446B022D30149D54617DAC6608FACFF3CB596C3FAB7F66C56B6FAF9EC960EB612C59E33FFE739D0423275

theorem ecMul_split (k : Nat) (p : EcPt) (i j : Nat) (acc : EcPt) : ecMul k p (i + j) acc = ecMul k p j (ecMul (k >>> j) p i acc) := by
  induction i generalizing acc with
  | zero => rw [Nat.zero_add]; rfl
  | succ i ih =>
    rw [Nat.succ_add]
    simp only [ecMul, ih, Nat.testBit_shiftRight, Nat.add_comm j i]

/-! Inversion by digits in base 64, which evaluates faster, and equals the model's. -/

theorem powMod_lt (b e m k acc : Nat) (hm : 0 < m) (h : acc < m) : powMod b e m k acc < m := by
  induction k generalizing acc with
  | zero => exact h
  | succ k ih =>
    refine ih _ ?_
    split
    · exact Nat.mod_lt _ hm
    · exact Nat.mod_lt _ hm

theorem powMod_mod (b e m k acc : Nat) : powMod b e m k acc % m = acc ^ 2 ^ k * b ^ (e % 2 ^ k) % m := by
  induction k generalizing acc with
  | zero => simp [powMod, Nat.mod_one]
  | succ k ih =>
    have ha : acc ^ 2 ^ (k + 1) = (acc * acc) ^ 2 ^ k := by rw [Nat.pow_succ, Nat.mul_comm, Nat.pow_mul, Nat.pow_two]
    show powMod b e m k _ % m = _
    rw [ih, Nat.mod_pow_succ, ha, Nat.testBit_eq_decide_div_mod_eq]
    by_cases h : e / 2 ^ k % 2 = 1
    · simp only [h, decide_true, if_true, Nat.mul_one]
      have key : (acc * acc % m * b % m) ^ 2 ^ k % m = (acc * acc * b) ^ 2 ^ k % m := by rw [← Nat.pow_mod, Nat.pow_mod, Nat.mod_mul_mod, ← Nat.pow_mod]
      rw [Nat.mul_mod, key, ← Nat.mul_mod, Nat.mul_pow, Nat.pow_add, Nat.mul_assoc, Nat.mul_comm (b ^ 2 ^ k)]
    · have z : e / 2 ^ k % 2 = 0 := by omega
      simp only [z, Nat.mul_zero, Nat.add_zero, Nat.zero_ne_one, decide_false, Bool.false_eq_true, if_false]
      rw [Nat.mul_mod, ← Nat.pow_mod, ← Nat.mul_mod]

theorem powMod_split (b e m i j acc : Nat) : powMod b e m (i + j) acc = powMod b e m j (powMod b (e >>> j) m i acc) := by
  induction i generalizing acc with
  | zero => rw [Nat.zero_add]; rfl
  | succ i ih =>
    rw [Nat.succ_add]
    simp only [powMod, ih, Nat.testBit_shiftRight, Nat.add_comm j i]

/-- Digits of a number in base 64, the highest of `n` first. -/
def digits64 (e : Nat) : Nat → List Nat
  | 0 => []
  | n + 1 => e / 64 ^ n % 64 :: digits64 e n

/-- `powMod` over those digits. -/
def powDigits (b m : Nat) : List Nat → Nat → Nat
  | [], acc => acc
  | d :: ds, acc => powDigits b m ds (acc ^ 64 * b ^ d % m)

theorem powMod_digits (b e m n acc : Nat) (hm : 0 < m) (h : acc < m) : powMod b e m (6 * n) acc = powDigits b m (digits64 e n) acc := by
  induction n generalizing acc with
  | zero => rfl
  | succ n ih =>
    rw [Nat.mul_succ, Nat.add_comm, powMod_split, ← Nat.mod_eq_of_lt (powMod_lt b (e >>> (6 * n)) m 6 acc hm h), powMod_mod, ih _ (Nat.mod_lt _ hm),
      Nat.shiftRight_eq_div_pow, Nat.pow_mul]
    rfl

/-- The digits of the exponents that inversion takes. -/
def expP : List Nat := digits64 (ecP - 2) 64

theorem invMod_fast (a : Nat) : invMod a ecP = powDigits (a % ecP) ecP expP 1 := powMod_digits _ _ _ 64 _ (by decide) (by decide)

/-- The sum of two points over those digits. -/
def ecAddFast (x y : EcPt) : EcPt :=
  match x, y with
  | none, q => q
  | p, none => p
  | some (x1, y1), some (x2, y2) =>
    if x1 = x2 ∧ (y1 + y2) % ecP = 0 then none
    else
      let l := if x1 = x2 then (3 * x1 * x1 + (ecP - 3)) * powDigits (2 * y1 % ecP) ecP expP 1 % ecP
        else (y2 + ecP - y1) * powDigits ((x2 + ecP - x1) % ecP) ecP expP 1 % ecP
      let x3 := (l * l + 2 * ecP - x1 - x2) % ecP
      some (x3, (l * (x1 + ecP - x3) + ecP - y1) % ecP)

theorem ecAdd_fast : ecAdd = ecAddFast := by
  funext x y
  cases x <;> cases y <;> simp only [ecAdd, ecAddFast, invMod_fast]

/-- `ecMul` with it. -/
def ecMulFast (k : Nat) (p : EcPt) : Nat → EcPt → EcPt
  | 0, acc => acc
  | i + 1, acc =>
    let d := ecAddFast acc acc
    ecMulFast k p i (if k.testBit i then ecAddFast d p else d)

theorem ecMul_fast (k : Nat) (p : EcPt) (n : Nat) (acc : EcPt) : ecMul k p n acc = ecMulFast k p n acc := by
  induction n generalizing acc with
  | zero => rfl
  | succ n ih => simp only [ecMul, ecMulFast, ecAdd_fast, ih]

/-- A multiple, after each quarter of its bits. -/
def fwGK : Nat := 0x4F5865AD029F13A48428496F996D9D59CE1443B7E7632DF6EE7466704F31CF617E8249A0380312BF3A5B4E964B290EEB
def fwGAt (j : Nat) : EcPt := ([none,
    some (0xD987078580C8511B6BCDFEC88A41D70183F5CFAB501113F0EA2199D7C22D969F9373DD9556B45852085758D2620250D0, 0x3426FC4A0A261D610EF25112E2066D6DB1D2C857CE4892747E794C544EAB0A6C8BA47472D2296F50244EB7EC75803BF1),
    some (0x591328BFBC5E218B9A101B47778A74A41B71F480CEF237AD6B9A0401E5C388456EF5D611E97021C7DD9055F1CFFF3CDC, 0xC7715CD4110C559252D5D678F4AC8527B53B43695A8F66E63C8EDE492067B171C7D5761599FD9083A4966E8242A73074),
    some (0x13871B7111496B7A93CCF07826D7026FA677DF90C978EE0A57740D315DB6C1A90BD9C1C516A0F251FDBEE21B736B0F6C, 0xE5B4B5BD7D67B24DCAF1F912EC4530CFB828D287311181D1EF8ABC5C14F565295D1813A57A38F73089FE6FA316D8E075),
    some (0xBEE3A2F83B0EDC6D3FBADB1FA44E7903AF015BF5327C05D80EB0F76F9E17E5D0C957A7F5AEA17929AB5FF54812E47284, 0x321E145ACA91A2B1B6B45961CC384642209D8606EB3564E1C2A0601707F83CE46DDF156BD10CF77019FE469C9BE65883)] : List EcPt).getD j none

/-- A multiple, after each quarter of its bits. -/
def fwQK : Nat := 0xE58D3370FF204EC92947E785778620E210A3E96D5D899B582291D6072F2693698343F5278B5A4BE5D978548E090CCF27
def fwQAt (j : Nat) : EcPt := ([none,
    some (0xD704ECB7C0F623945BF72EA5C0FE3DB9922DFA9F99A28E0DC5CF22C3E1DB4180B98F74CB56E93F8818142DB2223AF01A, 0xC0DE32ED19C6248356C43AE055329B08D5B9142CF10C4E329C1CE7ACA6B659676A52964462D7FB8EDA8D659194D4D9F9),
    some (0xCE69DC107B9D23E12B5C6AF080A52C6F6E7EB47D5F8F1DC70B725231582E79F5449E5F0941D6ED7BC6ED8CD1A4FCCAA, 0xD1A057F1D40D1283630D323CDDAAAA9AF7A443B931D0DC873FC80C75C1E7E4BC7504FBFADFFE92CD6FEB610E33F54126),
    some (0x94FC670115589301901B296D0B7DE7D9FFA194A7573B5B7D691B016DC32C828178760433B742F2E20E3A95DC1E6FB974, 0x80B45B3995B9791C0F54830CC2428AF7BAA8BDE90F6130B048DBC7B245A55B6B21362142F09D5AC4EFD9744BB3B2B384),
    some (0x887D8190AD6D628ABE737148E14FB4DCB0795758C5EF39DCE45AAB3AAD5808FB60D7323A3ACBE5AA13F3B2962B149EE, 0x7C4C4EEE253A7C75F845476099373A44C83A2E5D1E27356921C29FC0BE0D59DD39FE61AA3A332230942C2842B8594167)] : List EcPt).getD j none

theorem fwG_1 : ecMul (fwGK >>> 288) (some (ecGx, ecGy)) 96 (fwGAt 0) = fwGAt 1 := by rw [ecMul_fast]; decide +kernel
theorem fwG_2 : ecMul (fwGK >>> 192) (some (ecGx, ecGy)) 96 (fwGAt 1) = fwGAt 2 := by rw [ecMul_fast]; decide +kernel
theorem fwG_3 : ecMul (fwGK >>> 96) (some (ecGx, ecGy)) 96 (fwGAt 2) = fwGAt 3 := by rw [ecMul_fast]; decide +kernel
theorem fwG_4 : ecMul (fwGK >>> 0) (some (ecGx, ecGy)) 96 (fwGAt 3) = fwGAt 4 := by rw [ecMul_fast]; decide +kernel
theorem fwQ_1 : ecMul (fwQK >>> 288) (some (fwX, fwY)) 96 (fwQAt 0) = fwQAt 1 := by rw [ecMul_fast]; decide +kernel
theorem fwQ_2 : ecMul (fwQK >>> 192) (some (fwX, fwY)) 96 (fwQAt 1) = fwQAt 2 := by rw [ecMul_fast]; decide +kernel
theorem fwQ_3 : ecMul (fwQK >>> 96) (some (fwX, fwY)) 96 (fwQAt 2) = fwQAt 3 := by rw [ecMul_fast]; decide +kernel
theorem fwQ_4 : ecMul (fwQK >>> 0) (some (fwX, fwY)) 96 (fwQAt 3) = fwQAt 4 := by rw [ecMul_fast]; decide +kernel
theorem fwG_all : ecMul fwGK (some (ecGx, ecGy)) 384 none = fwGAt 4 := by
  have e : ecMul fwGK (some (ecGx, ecGy)) (96 + (96 + (96 + 96))) none = fwGAt 4 := by
    rw [ecMul_split]
    refine (congrArg (ecMul _ _ _) fwG_1).trans ?_
    rw [ecMul_split]
    refine (congrArg (ecMul _ _ _) fwG_2).trans ?_
    rw [ecMul_split]
    refine (congrArg (ecMul _ _ _) fwG_3).trans ?_
    exact fwG_4
  exact e

theorem fwQ_all : ecMul fwQK (some (fwX, fwY)) 384 none = fwQAt 4 := by
  have e : ecMul fwQK (some (fwX, fwY)) (96 + (96 + (96 + 96))) none = fwQAt 4 := by
    rw [ecMul_split]
    refine (congrArg (ecMul _ _ _) fwQ_1).trans ?_
    rw [ecMul_split]
    refine (congrArg (ecMul _ _ _) fwQ_2).trans ?_
    rw [ecMul_split]
    refine (congrArg (ecMul _ _ _) fwQ_3).trans ?_
    exact fwQ_4
  exact e

theorem fw_numbers : invMod fwS ecN = fwW ∧ fwH * fwW % ecN = fwGK ∧ fwR * fwW % ecN = fwQK ∧ (0 < fwR ∧ fwR < ecN ∧ 0 < fwS ∧ fwS < ecN ∧ ecOn fwX fwY = true) := by decide +kernel
theorem fw_sum : (match ecAdd (fwGAt 4) (fwQAt 4) with
    | none => false
    | some (x, _) => decide (x % ecN = fwR)) = true := by decide +kernel

theorem fw_verified : ecdsaVerify fwH fwX fwY fwR fwS = true := by
  simp only [ecdsaVerify, fw_numbers.1, fw_numbers.2.1, fw_numbers.2.2.1, fwG_all, fwQ_all]
  rw [if_pos fw_numbers.2.2.2]
  exact fw_sum

theorem fw_digests : beVal (sha384 ((fwP.drop 0x20).take 97)) = fwKey.toNat ∧ pfld ((fwP.drop 0x20).take 97) 0 1 = 4 ∧ beVal (sha384 (fwP.take 0xA0 ++ fwP.drop 0x100)) = fwH := by
  decide +kernel
theorem fw_fields : beVal ((((fwP.drop 0x20).take 97).drop 1).take 48) = fwX ∧ beVal (((fwP.drop 0x20).take 97).drop 49) = fwY ∧ beVal ((fwP.drop 0xA0).take 48) = fwR ∧
    beVal ((fwP.drop 0xD0).take 48) = fwS := by decide +kernel

theorem fw_signed : fwSigned fwKey fwP = true := by
  simp only [fwSigned, fw_digests.1, fw_digests.2.1, fw_digests.2.2, fw_fields.1, fw_fields.2.1, fw_fields.2.2.1, fw_fields.2.2.2, fw_verified]
  decide

def fwUpdateW : MsgWord := req 0x39 [(0x0C, 0x10000), (0x14, 256)]

theorem witness_fw_update : requested (reqS up fwUpdateW) 0 fwUpdateW 0x39 ∧ fwP.take (wfld fwUpdateW 0x14 4) = fwP ∧ fwP.length = wfld fwUpdateW 0x14 4 ∧ fwFormat fwP = true ∧
    up.shell.keep.svn ≤ pfld fwP 0xC 4 := by unfold requested; decide +kernel

/-! Worked numbers of the manual. -/

/-- 00's worked example: CONFIG_CLASS of the top configuration. -/
theorem test_config_class : configClass paramsTop = 0x0210465F := by decide

/-- 03's examples: E4M3 0x5A is 20; four FP6 codes make the bytes 08 FA 01. -/
theorem test_e4m3_and_fp6 : vCmp (decodeFmt .e4m3 0x5A) (vOfInt 20) = 0 ∧ pack6 [0x08, 0x28, 0x1F, 0x00] = [0x08, 0xFA, 0x01] := by decide

/-- 03's worked example of requantising to E4M3 at scale 1.0: 300.7, 500.0 and −0.0009 by their FP32 codes. -/
theorem test_requantise : [0x4396599A, 0x43FA0000, 0xBA6BEDFA].map (fun c => quantise (fp32 c) vOne 0 .e4m3) = [(0x79, false), (0x7E, true), (0x80, false)] := by decide +kernel

/-- 03's worked example of the fixed order: the chain of an E5M2 reduction ends at +0. -/
theorem test_chain_order : accChain false vZero [vPow2 24, vOne, vOne, vNeg (vPow2 24)] = vZero ∧
    vCmp (decodeFmt .e5m2 0x6C) (vOfInt 4096) = 0 := by decide +kernel

/-- 04's worked example of an INT8 point: the scales of the maxima 3.2, 5.1 and 9.0 at headroom 1.0; 4.0 quantised with the second. -/
theorem test_scales : [0x404CCCCD, 0x40A33333, 0x41100000].map (fun m => (deriveScale (fp32 m) vOne (vOfInt 127) 0).1) = [0x799D, 0x7A49, 0x7B23] ∧
    (quantise (vOfInt 4) (decodeFmt .sw16 0x7A49) 0 .int8).1 = 99 := by decide +kernel

/-- 04's worked example of routing: token 0's ties go to the lower index, token 1's NaN ranks last and its zeros by index. -/
theorem test_routing : (topK false false 2 [⟨fp32 0x40300000, 5, 0x40300000⟩, ⟨fp32 0x40600000, 17, 0x40600000⟩, ⟨fp32 0x40300000, 40, 0x40300000⟩]).map (·.index) = [17, 5] ∧
    (topK false false 2 [⟨fp32 0x7FC00000, 9, 0x7FC00000⟩, ⟨fp32 0x80000000, 22, 0x80000000⟩, ⟨fp32 0, 31, 0⟩]).map (fun x => (x.word, x.index)) = [(0x80000000, 22), (0, 31)] := by
  decide +kernel

/-- 08's example: byte 0x1000 of the pantry of logical room 5 in hall 3, and the op address that reaches it. -/
theorem test_store_address : pantryAddr (16 * 3 + 5) 0x1000 = 0x3401401000 ∧ opAddr [(1, 0x34014010)] 1 0 64 = 0x3401401000 := by decide +kernel

/-- 14's worked example: lane-slots 20 and 21 of 112 GBd begin at positions 264 and 277; 276 is spare. -/
theorem test_slot_positions : lsPos 0 20 = 264 ∧ lsPos 0 21 = 277 ∧ slotAt 0 276 = none ∧ slotAt 0 275 = some (20, 11) := by decide +kernel

/-- 15's worked example: an offset of 3 ticks, in units of 1/131,072 tick. -/
theorem test_exchange : theta2 ⟨(512000040 * 65536 + 50) / 100, (512013190 * 65536 + 50) / 100, (512000110 * 65536 + 50) / 100, (512012660 * 65536 + 50) / 100⟩ = 2 * 3 * 65536 := by
  decide +kernel

/-! Well-formed commands, and an ill-formed one for each check. -/

theorem test_wf_accepts : [Instr.mma 255 mmaW, .nop 63 (req 1 []), .opRetire 0 16383, .ctxDestroyComplete 4095, .cellarPortCycle 15, .pinHoldEnd 15, .hatchStart 31, .railFailure 3,
    .snoopShare 4095 0, .dataBlock 3 25 (List.replicate 32 0), .ack 31 (frameTo 5 7 1 0 []), .timeNowLo 0 1023 65535, .hostRegisterWrite 0 0xFFFFC 8 0].all wf = true := by
  decide +kernel

/-- A room, a hall, a mailbox, a tag, a port, a bundle, a channel, a queue, a context, a pin or a rail that no configuration has. -/
theorem test_wf_refuses_units : [Instr.mma 256 mmaW, .opFetch 256, .cellarPortCycle 16, .nop 64 (req 1 []), .mbxDoorbell 64 0, .deferredNotApplied 64, .requestTimeout 4096,
    .portLoss 4 0, .portLoss 0 26, .inputPortSwitchTimeout 32, .announce 32 0 0 0 0, .hatchStart 32, .hatchBurstLanded 32 none, .descriptorFetch 16384, .ctxDestroyComplete 4096,
    .pinHoldEnd 16, .railGoodRise 0, .railGoodRise 4, .railGoodFall 0, .railFailure 4, .annexResult 8 0 [], .annexResult 0 256 [], .trainingEnd 4, .swapTarget 0 32,
    .gapFillEnd 0 5, .storeErrCount 4096 0, .opRetire 0 16384].any wf = false := by decide +kernel

/-- An op word of another op, for each op. -/
theorem test_wf_refuses_ops : [Instr.mma 0 mmtW, .mmt 0 mmaW, .pair 0 mmaW 0, .lds 0 mmaW, .flip 0 mmaW, .chute 0 mmaW, .ewa 0 mmaW, .rowf 0 mmaW, .stat 0 mmaW, .resc 0 mmaW, .move 0 mmaW,
    .halo 0 mmaW, .relay 0 mmaW, .sync 0 mmaW, .hint 0 mmaW, .stuff 0 mmaW, .bkt 0 mmaW, .wait 0 mmaW, .signal 0 mmaW, .endOp 0 mmaW].any wf = false := by decide +kernel

/-- A request word of another command, for each command. -/
theorem test_wf_refuses_requests : [Instr.nop 0 0, .identify 0 0, .mbxBind 0 0, .ctxCreate 0 0, .ctxDestroy 0 0, .ctxQuery 0 0, .queueCreate 0 0, .queueDestroy 0 0, .fenceAlloc 0 0,
    .fenceFree 0 0, .fenceSignal 0 0, .taskLaunch 0 0, .taskAbort 0 0, .imageLoad 0 0 none, .imageUnload 0 0, .qstateReset 0 0, .granuleAlloc 0 0, .granuleFree 0 0, .windowOpen 0 0,
    .windowClose 0 0, .storeCopy 0 0 none, .paceSet 0 0, .powerSet 0 0, .sbPinSet 0 0, .timeSet 0 0, .fabricSet 0 0 none, .healthSet 0 0, .healthQuery 0 0, .snapshotFreeze 0 0,
    .snapshotRelease 0 0, .linkTest 0 0, .fwUpdate 0 0 none, .resetRequest 0 0].any wf = false := by decide +kernel

/-- A frame of another kind or with a payload of another length, for each kind; a block out of its format; a register access of no width or outside the aperture. -/
theorem test_wf_refuses_formats : [Instr.rollStart 0 (frameTo 5 7 1 0 []), .roll 0 (frameTo 5 7 1 0 []), .assign 0 (frameTo 5 7 1 0 []) 0 0, .admitFrame 0 (frameTo 5 7 1 0 []) 0 0 0,
    .routeUpdate 0 (frameTo 5 7 1 0 []) [], .drain 0 (frameTo 5 7 1 0 []), .ack 0 (frameTo 5 6 1 0 []), .ready 0 (frameTo 5 7 1 0 []), .launch 0 (frameTo 5 7 1 0 []),
    .refuse 0 (frameTo 5 7 1 0 []), .withdraw 0 (frameTo 5 7 1 0 []), .endFrame 0 (frameTo 5 7 1 0 []), .done 0 (frameTo 5 7 1 0 []), .faultFrame 0 (frameTo 5 7 1 0 []) 0 0 0,
    .abort 0 (frameTo 5 7 1 0 []), .halted 0 (frameTo 5 7 1 0 []), .flow 0 (frameTo 5 7 1 0 []), .frameRoute 0 ⟨(frameTo 5 7 1 0 []).hdr, [0]⟩, .frameRoute 32 (frameTo 5 7 1 0 []),
    .blockTransmit 0 0 (List.replicate 33 0), .codewordDecode 0 0 0 [], .beatMark 0 0 0 0 32, .slotMark 0 0 0 64 [], .slotMark 0 0 0 0 (List.replicate 25 0), .dataBlock 0 0 [],
    .nak 0 0 0 845 0, .nak 0 0 0 0 32, .replayHead 0 0 0 845 0 [], .replayHead 0 0 0 0 32 [], .swap 0 0 0 32, .laneSlotDeadline 0 0 0 64, .timeNowLo 0 1024 0, .timeNowLo 0 0 65536,
    .hostRegisterWrite 0 0 2 0, .hostRegisterWrite 0 0x100000 4 0].any wf = false := by decide +kernel

/-! One step. -/

/-- The front command is executed, and the rest of the queue stands: auxiliary power good leads from reset to the wait of power-up (18 R510). -/
theorem test_step_front : (match step { State.reset with pending := [.vauxGood, .supplyWarn] } with
    | .next t => t.seq.step == .wait && t.pending == [.supplyWarn]
    | _ => false) = true := by decide +kernel

/-- `wait` on a counter at COUNT subtracts it (06 R189). -/
theorem test_step_wait : (match exec (.wait 0 waitW) (two [waitW] (fun x => { x with ctr := [(1, 3)] }) roomZero) with
    | .next t => tabGet 0 (roomOf t 0).ctr 1 == 2 && (roomOf t 0).opBuf == []
    | _ => false) = true := by decide +kernel

/-- `move` in mode 0x7 sends zeros for its destination line to the store's port, where they land when they are served (06 R184, 08 R231). -/
def zeroW : OpWord := opw [(0, 11), (20, 7), (72, 1), (88, 1), (108, 1), (124, 1)]
theorem test_step_move_zero : (match exec (.move 0 zeroW) { ops [zeroW] with store := { up.store with mem := [(64, 7), (127, 8), (128, 9)] } } with
    | .next t => t.store.mem == [(64, 7), (127, 8), (128, 9)] && (t.store.lanes.filterMap (·.write)).map (fun w => (w.addr, w.bytes)) == [(64, List.replicate 64 0)]
    | _ => false) = true := by decide +kernel

/-- A room of an absent hall, and a mailbox above 63, leave the state (log 2). -/
theorem test_step_no_such_unit : [Instr.opFetch 256, .mbxDoorbell 64 0].all (fun c => match exec c up with
    | .next t => unitThere up c == false && t == up
    | _ => false) = true := by decide +kernel

end Sys2Proof.Tests
end

/-!
The frame of every command (Safety's table `mayChange`): a row that is due changes what its effect changes, and what an effect changes is a lemma of
Laws/Frame1 to Frame4; one lemma for each family of the command table puts them together.
-/
namespace Sys2Proof.Machine

section
variable {P : Part → Prop} {c : Instr} {s t u : State}

/-- The table names the part for the command: the premise is a closed computation. -/
theorem inFrame {p : Part} (h : (mayChange c).elem p = true) : p ∈ mayChange c := List.mem_of_elem_eq_true h

theorem next_only (h : (Host.Outcome.next t : Host.Outcome State Fault Refusal) = .next u) (ht : changesOnly P s t) : changesOnly P s u := by
  cases h; exact ht

/-- A tile op changes its room, the pace, and what its body changes. -/
theorem issue_only {room opc k : Nat} {w : OpWord} {w2 : Option OpWord} {body : Env → Room → Task → Nat → State → State}
    (h : dueAt (hasRoom s room) (issueReady s room opc w w2) s (issueWith room opc k w body s) = .next u)
    (hrooms : P .rooms) (hpace : P .pace) (hbody : ∀ E x t n p, changesOnly P s p → changesOnly P s (body E x t n p)) : changesOnly P s u :=
  dueAt_only h (issueWith_only hrooms hpace room opc k w body hbody only_refl)

/-- A message of the fabric changes the fabric and what acting on it changes. -/
theorem frameRow_only {b kind : Nat} {f : Frame} {act : State → State} (h : frameRow b f kind s act = .next u) (hfabric : P .fabric)
    (hact : ∀ p, changesOnly P s p → changesOnly P s (act p)) : changesOnly P s u :=
  due_only h (takeMsg_only hfabric b f act hact only_refl)

theorem read32_only {tag v : Nat} (h : read32 tag v s t = .next u) (hmessages : P .messages) (ht : changesOnly P s t) : changesOnly P s u :=
  due_only h (regReply_only hmessages tag 0 _ ht)

theorem setFreeCtr_only (n : Nat) (hfreeCtr : P .freeCtr) : changesOnly P s { s with freeCtr := n } :=
  ⟨fun p hp => by cases p <;> simp_all [Part.same]⟩

theorem setSide_only (x : Sideband) (hside : P .side) : changesOnly P s { s with side := x } :=
  ⟨fun p hp => by cases p <;> simp_all [Part.same]⟩

/-- An update of the host port that leaves all but the counters of HP_ERRORS. -/
theorem setErrors_only (f : HostPort → HostPort) (herrors : P .hostErrors)
    (hf : ∀ x, f x = { x with timeouts := (f x).timeouts, lateRsp := (f x).lateRsp, ferr := (f x).ferr }) : changesOnly P s (modHost f s) := by
  apply modHost_only (h := only_refl) <;> rw [hf]
  · exact .inr rfl
  · exact .inl herrors
  · exact .inr ⟨rfl, rfl, rfl⟩
  · exact .inr ⟨rfl, rfl, rfl, rfl⟩
  · exact .inr ⟨rfl, rfl⟩

theorem ite_next {g : Bool} {a b : Host.Outcome State Fault Refusal} (h : (if g then a else b) = .next u) : a = .next u ∨ b = .next u := by
  cases g
  · exact .inr h
  · exact .inl h

theorem tileOp_framed (hf : familyOf c = .tileOp) (h : exec c s = .next u) : framed c s u := by
  cases c with
  | mma | mmt | pair | lds | flip | ewa | move | relay | signal =>
    exact issue_only h (inFrame rfl) (inFrame rfl) fun _ _ _ _ _ hp => by apply stepBody_only (h := hp) <;> exact inFrame rfl
  | chute => exact issue_only h (inFrame rfl) (inFrame rfl) fun _ _ _ _ _ hp => by apply chuteBody_only (h := hp) <;> exact inFrame rfl
  | rowf => exact issue_only h (inFrame rfl) (inFrame rfl) fun _ _ _ _ _ hp => by apply rowfBody_only (h := hp) <;> exact inFrame rfl
  | stat | resc => exact issue_only h (inFrame rfl) (inFrame rfl) fun _ _ _ _ _ hp => by apply wholeBody_only (h := hp) <;> exact inFrame rfl
  | halo => exact issue_only h (inFrame rfl) (inFrame rfl) fun _ _ _ _ _ hp => by apply haloBody_only (h := hp) <;> exact inFrame rfl
  | sync => exact issue_only h (inFrame rfl) (inFrame rfl) fun _ _ _ _ _ hp => noteArrival_only (inFrame rfl) _ (modRoom_only (inFrame rfl) _ _ hp)
  | hint => exact issue_only h (inFrame rfl) (inFrame rfl) fun _ _ _ _ _ hp => hintHall_only (inFrame rfl) _ _ _ _ _ _ hp
  | stuff => exact issue_only h (inFrame rfl) (inFrame rfl) fun _ _ _ _ _ hp => engage_only (inFrame rfl) (inFrame rfl) _ _ _ _ _ _ hp
  | bkt =>
    refine issue_only h (inFrame rfl) (inFrame rfl) fun _ _ _ _ _ hp => ?_
    split
    · exact modRoom_only (inFrame rfl) _ _ hp
    · exact raiseFault_only (inFrame rfl) _ _ _ _ _ _ hp
  | wait => exact issue_only h (inFrame rfl) (inFrame rfl) fun _ _ _ _ _ hp => only_ite (modRoom_only (inFrame rfl) _ _ hp) (modRoom_only (inFrame rfl) _ _ hp)
  | endOp => exact issue_only h (inFrame rfl) (inFrame rfl) fun _ _ _ _ _ hp => modRoom_only (inFrame rfl) _ _ hp
  | _ => cases hf

theorem roomEvent_framed (hf : familyOf c = .roomEvent) (h : exec c s = .next u) : framed c s u := by
  cases c with
  | narrowAccessService => exact dueAt_only h (by apply narrowServiceEff_only (h := only_refl) <;> exact inFrame rfl)
  | narrowLoadComplete => exact dueAt_only h (by apply narrowLoadEff_only (h := only_refl) <;> exact inFrame rfl)
  | opFetch => exact dueAt_only h (by apply opFetchEff_only (h := only_refl) <;> exact inFrame rfl)
  | opRetire => exact dueAt_only h (by apply retireEff_only (h := only_refl) <;> exact inFrame rfl)
  | syncRelease => exact due_only h (by apply syncReleaseEff_only (h := only_refl) <;> exact inFrame rfl)
  | waitExpired => exact dueAt_only h (waitExpiredEff_only (inFrame rfl) _ only_refl)
  | handshakeTimeout => exact dueAt_only h (by apply handshakeEff_only (h := only_refl) <;> exact inFrame rfl)
  | annexSilent => exact dueAt_only h (annexSilentEff_only (inFrame rfl) (inFrame rfl) (inFrame rfl) _ only_refl)
  | annexResult => exact dueAt_only h (by apply annexResultEff_only (h := only_refl) <;> exact inFrame rfl)
  | streamPortTake => exact due_only h (by apply portTakeEff_only (h := only_refl) <;> exact inFrame rfl)
  | streamPortAppend => exact due_only h (by apply portAppendEff_only (h := only_refl) <;> exact inFrame rfl)
  | _ => cases hf

theorem pace_framed (hf : familyOf c = .pace) (h : exec c s = .next u) : framed c s u := by
  cases c with
  | beatBoundary =>
    exact due_only h (by
      apply boundaryEff_only (h := advance_only (inFrame rfl) (closePace_only (inFrame rfl) (inFrame rfl) (inFrame rfl) _ _ only_refl)) <;> exact inFrame rfl)
  | pacePermit => exact dueAt_only h (modPace_only (inFrame rfl) _ only_refl)
  | paceEvents => exact read32_only h (inFrame rfl) (modPace_only (inFrame rfl) _ only_refl)
  | _ => cases hf

theorem store_framed (hf : familyOf c = .store) (h : exec c s = .next u) : framed c s u := by
  cases c with
  | cellarPortCycle => exact dueAt_only h (by apply portCycleEff_only (h := only_refl) <;> exact inFrame rfl)
  | remoteAccessService => exact dueAt_only h (by apply remoteEff_only (h := only_refl) <;> exact inFrame rfl)
  | correctedWriteBack => exact due_only h (modStore_only (inFrame rfl) _ only_refl)
  | scrubRead => exact dueAt_only h (by apply scrubEff_only (h := only_refl) <;> exact inFrame rfl)
  | granuleClearDone => exact due_only h (by apply retryWaiting_only (h := modStore_only (inFrame rfl) _ only_refl) <;> exact inFrame rfl)
  | bankRelocation => exact dueAt_only h (by apply relocationEff_only (h := only_refl) <;> exact inFrame rfl)
  | storeErrCount =>
    exact due_only h (only_ite (regReply_only (inFrame rfl) _ _ _ (modStore_only (inFrame rfl) _ only_refl)) (regReply_only (inFrame rfl) _ _ _ only_refl))
  | copyRebuilt => exact due_only h (by apply copyRebuiltEff_only (h := only_refl) <;> exact inFrame rfl)
  | _ => cases hf

theorem task_framed (hf : familyOf c = .task) (h : exec c s = .next u) : framed c s u := by
  cases c with
  | taskLaunchBoundary => exact due_only h (by apply launchBoundaryEff_only (h := only_refl) <;> exact inFrame rfl)
  | endReport => exact dueAt_only h (by apply endReportEff_only (h := only_refl) <;> exact inFrame rfl)
  | completionRecordAck => exact due_only h (by apply recordAckEff_only (h := only_refl) <;> exact inFrame rfl)
  | faultReport => exact dueAt_only h (by apply faultReportEff_only (h := only_refl) <;> exact inFrame rfl)
  | taskHalted => exact due_only h (by apply taskHaltedEff_only (h := only_refl) <;> exact inFrame rfl)
  | _ => cases hf

theorem request_framed (hf : familyOf c = .request) (h : exec c s = .next u) : framed c s u := by
  cases c with
  | nop | identify => exact dueAt_only h (respond_only (inFrame rfl) (inFrame rfl) (inFrame rfl) _ _ _ only_refl)
  | mbxBind => exact dueAt_only h (mbxBindEff_only (inFrame rfl) (inFrame rfl) (inFrame rfl) _ _ only_refl)
  | ctxCreate => exact dueAt_only h (by apply ctxCreateEff_only (h := only_refl) <;> exact inFrame rfl)
  | ctxDestroy => exact dueAt_only h (by apply ctxDestroyEff_only (h := only_refl) <;> exact inFrame rfl)
  | ctxDestroyComplete => exact due_only h (by apply destroyDoneEff_only (h := only_refl) <;> exact inFrame rfl)
  | ctxQuery => exact dueAt_only h (by apply ctxQueryEff_only (h := only_refl) <;> exact inFrame rfl)
  | queueCreate => exact dueAt_only h (by apply queueCreateEff_only (h := only_refl) <;> exact inFrame rfl)
  | queueDestroy => exact dueAt_only h (by apply queueDestroyEff_only (h := only_refl) <;> exact inFrame rfl)
  | fenceAlloc => exact dueAt_only h (by apply fenceAllocEff_only (h := only_refl) <;> exact inFrame rfl)
  | fenceFree => exact dueAt_only h (by apply fenceFreeEff_only (h := only_refl) <;> exact inFrame rfl)
  | fenceSignal => exact dueAt_only h (by apply fenceSignalEff_only (h := only_refl) <;> exact inFrame rfl)
  | taskLaunch => exact dueAt_only h (by apply taskLaunchEff_only (h := only_refl) <;> exact inFrame rfl)
  | taskAbort => exact dueAt_only h (by apply taskAbortEff_only (h := only_refl) <;> exact inFrame rfl)
  | imageLoad => exact dueAt_only h (by apply imageLoadEff_only (h := only_refl) <;> exact inFrame rfl)
  | imageUnload => exact dueAt_only h (by apply imageUnloadEff_only (h := only_refl) <;> exact inFrame rfl)
  | qstateReset => exact dueAt_only h (by apply qstateResetEff_only (h := only_refl) <;> exact inFrame rfl)
  | granuleAlloc => exact dueAt_only h (by apply tryAlloc_only (h := only_refl) <;> exact inFrame rfl)
  | granuleFree => exact dueAt_only h (by apply granuleFreeEff_only (h := only_refl) <;> exact inFrame rfl)
  | windowOpen => exact dueAt_only h (by apply windowOpenEff_only (h := only_refl) <;> exact inFrame rfl)
  | windowClose => exact dueAt_only h (by apply windowCloseEff_only (h := only_refl) <;> exact inFrame rfl)
  | storeCopy => exact dueAt_only h (by apply storeCopyEff_only (h := only_refl) <;> exact inFrame rfl)
  | paceSet | powerSet | timeSet => exact dueAt_only h (by apply stage_only (h := only_refl) <;> exact inFrame rfl)
  | sbPinSet => exact dueAt_only h (by apply sbPinSetEff_only (h := only_refl) <;> exact inFrame rfl)
  | fabricSet => exact dueAt_only h (by apply fabricSetEff_only (h := only_refl) <;> exact inFrame rfl)
  | healthSet => exact dueAt_only h (by apply healthSetEff_only (h := only_refl) <;> exact inFrame rfl)
  | healthQuery => exact dueAt_only h (healthQueryEff_only (inFrame rfl) (inFrame rfl) (inFrame rfl) _ _ only_refl)
  | snapshotFreeze => exact dueAt_only h (by apply freezeEff_only (h := only_refl) <;> exact inFrame rfl)
  | snapshotRelease => exact dueAt_only h (by apply releaseEff_only (h := only_refl) <;> exact inFrame rfl)
  | linkTest => exact dueAt_only h (by apply linkTestEff_only (h := only_refl) <;> exact inFrame rfl)
  | fwUpdate => exact dueAt_only h (by apply fwUpdateEff_only (h := only_refl) <;> exact inFrame rfl)
  | resetRequest => exact dueAt_only h (by apply resetRequestEff_only (h := only_refl) <;> exact inFrame rfl)
  | resetTakeEffect => exact due_only h (by apply takeEffectEff_only (h := only_refl) <;> exact inFrame rfl)
  | stagedCommit => exact due_only h (by apply commitDue_only (h := only_refl) <;> exact inFrame rfl)
  | deferredNotApplied => exact dueAt_only h (by apply notAppliedEff_only (h := only_refl) <;> exact inFrame rfl)
  | _ => cases hf

theorem mailbox_framed (hf : familyOf c = .mailbox) (h : exec c s = .next u) : framed c s u := by
  cases c with
  | mbxDoorbell => exact dueAt_only h (doorbellWrite_only (inFrame rfl) _ _ only_refl)
  | mbxEnable | mbxDisable => exact dueAt_only h (ctrlWrite_only (inFrame rfl) (inFrame rfl) _ _ only_refl)
  | mbxRequestFetch => exact dueAt_only h (fetchEff_only (inFrame rfl) (inFrame rfl) (inFrame rfl) _ only_refl)
  | requestWord => exact dueAt_only h (requestEff_only (inFrame rfl) (inFrame rfl) (inFrame rfl) _ _ only_refl)
  | responseWriteAck => exact dueAt_only h (rspAckEff_only (inFrame rfl) (inFrame rfl) _ only_refl)
  | postedObserved => exact due_only h (by apply postedEff_only (h := only_refl) <;> exact inFrame rfl)
  | descriptorFetch => exact due_only h (by apply descFetchEff_only (h := only_refl) <;> exact inFrame rfl)
  | descriptorArrival => exact due_only h (by apply descArrivalEff_only (h := only_refl) <;> exact inFrame rfl)
  | chainFetchTimeout => exact due_only h (by apply chainTimeoutEff_only (h := only_refl) <;> exact inFrame rfl)
  | fenceAction => exact due_only h (by apply fenceActionEff_only (h := only_refl) <;> exact inFrame rfl)
  | _ => cases hf

theorem shell_framed (hf : familyOf c = .shell) (h : exec c s = .next u) : framed c s u := by
  cases c with
  | hatchStart => exact dueAt_only h (hatchStart_only (inFrame rfl) (inFrame rfl) (inFrame rfl) _ only_refl)
  | hatchStop => exact dueAt_only h (hatchStop_only (inFrame rfl) _ only_refl)
  | hatchDisable => exact due_only h (by apply globalWrite_only (h := only_refl) <;> exact inFrame rfl)
  | hatchRequest => exact dueAt_only h (requestPulse_only (inFrame rfl) _ only_refl)
  | hatchBurstIssue => exact dueAt_only h (burstEff_only (inFrame rfl) (inFrame rfl) (inFrame rfl) _ only_refl)
  | hatchBurstLanded => exact dueAt_only h (by apply landedEff_only (h := only_refl) <;> exact inFrame rfl)
  | keepUnitAck => exact due_only h (by apply keepAckEff_only (h := only_refl) <;> exact inFrame rfl)
  | healthRecordWrite => exact due_only h (recordWriteEff_only (inFrame rfl) (inFrame rfl) (inFrame rfl) only_refl)
  | freezeTakeEffect => exact due_only h (modSnap_only (inFrame rfl) _ only_refl)
  | snapAck =>
    exact due_only h (answerFreeze_only (inFrame rfl) (inFrame rfl) (inFrame rfl) (inFrame rfl) _
      (modSnap_only (inFrame rfl) _ (only_ite (raiseInt_only (inFrame rfl) (inFrame rfl) _ only_refl) only_refl)))
  | snapAckTimeout =>
    exact due_only h (answerFreeze_only (inFrame rfl) (inFrame rfl) (inFrame rfl) (inFrame rfl) _
      (raiseInt_only (inFrame rfl) (inFrame rfl) _ (modSnap_only (inFrame rfl) _ only_refl)))
  | freezeEnd => exact due_only h (by apply freezeEndEff_only (h := only_refl) <;> exact inFrame rfl)
  | _ => cases hf

theorem fabric_framed (hf : familyOf c = .fabric) (h : exec c s = .next u) : framed c s u := by
  cases c with
  | frameRoute => exact dueAt_only h (frameRouteEff_only (inFrame rfl) _ _ (takeArrived_only (inFrame rfl) _ _ only_refl))
  | rollStart => exact due_only h (rollStartEff_only (inFrame rfl) _ _ only_refl)
  | roll => exact due_only h (rollEff_only (inFrame rfl) _ _ only_refl)
  | bundleChange => exact dueAt_only h (bundleEff_only (inFrame rfl) (inFrame rfl) (inFrame rfl) _ _ only_refl)
  | rollCallClose => exact due_only h (by apply rollCloseEff_only (h := only_refl) <;> exact inFrame rfl)
  | assign => exact due_only h (assignEff_only (inFrame rfl) _ _ _ _ only_refl)
  | admitFrame => exact due_only h (by apply admitEff_only (h := only_refl) <;> exact inFrame rfl)
  | routeUpdate => exact due_only h (by apply routeUpdateEff_only (h := only_refl) <;> exact inFrame rfl)
  | routeEffective =>
    refine due_only h ?_
    split
    · apply takeUpdate_only (h := only_refl) <;> exact inFrame rfl
    · exact only_refl
  | drain => exact due_only h (drainEff_only (inFrame rfl) _ _ only_refl)
  | inputPortSwitchTimeout => exact dueAt_only h (modFabric_only (inFrame rfl) _ only_refl)
  | ack => exact due_only h (modFabric_only (inFrame rfl) _ (takeFrame_only (inFrame rfl) _ _ only_refl))
  | messageResend => exact due_only h (resendEff_only (inFrame rfl) _ _ only_refl)
  | fabricOfOne => exact due_only h (by apply ofOne_only (h := only_refl) <;> exact inFrame rfl)
  | ready => exact frameRow_only h (inFrame rfl) fun _ hp => by apply readyEff_only (h := hp) <;> exact inFrame rfl
  | launch => exact frameRow_only h (inFrame rfl) fun _ hp => launchFrameEff_only (inFrame rfl) (inFrame rfl) _ hp
  | refuse => exact frameRow_only h (inFrame rfl) fun _ hp => by apply refuseEff_only (h := hp) <;> exact inFrame rfl
  | withdraw => exact frameRow_only h (inFrame rfl) fun _ hp => by apply withdrawEff_only (h := hp) <;> exact inFrame rfl
  | endFrame => exact frameRow_only h (inFrame rfl) fun _ hp => by apply endFrameEff_only (h := hp) <;> exact inFrame rfl
  | done => exact frameRow_only h (inFrame rfl) fun _ hp => by apply doneEff_only (h := hp) <;> exact inFrame rfl
  | faultFrame => exact frameRow_only h (inFrame rfl) fun _ hp => faultFrameEff_only (inFrame rfl) (inFrame rfl) _ _ _ _ hp
  | abort => exact frameRow_only h (inFrame rfl) fun _ hp => abortEff_only (inFrame rfl) (inFrame rfl) _ hp
  | halted => exact frameRow_only h (inFrame rfl) fun _ hp => haltedFrameEff_only (inFrame rfl) _ hp
  | haltedTimeout => exact due_only h (haltedTimeoutEff_only (inFrame rfl) _ only_refl)
  | flowSlotTake => exact due_only h (by apply slotEff_only (h := only_refl) <;> exact inFrame rfl)
  | flow => exact due_only h (by apply flowEff_only (h := only_refl) <;> exact inFrame rfl)
  | fabricDrops => exact read32_only h (inFrame rfl) (modFabric_only (inFrame rfl) _ only_refl)
  | _ => cases hf

theorem link_framed (hf : familyOf c = .link) (h : exec c s = .next u) : framed c s u := by
  cases c with
  | blockTransmit => exact dueAt_only h (blockTransmitEff_only (inFrame rfl) (inFrame rfl) (inFrame rfl) _ _ _ only_refl)
  | codewordDecode => exact dueAt_only h (codewordEff_only (inFrame rfl) _ _ _ _ only_refl)
  | beatMark => exact dueAt_only h (beatMarkEff_only (inFrame rfl) (inFrame rfl) _ _ _ _ _ only_refl)
  | slotMark => exact dueAt_only h (slotMarkEff_only (inFrame rfl) (inFrame rfl) _ _ _ _ _ only_refl)
  | dataBlock => exact dueAt_only h (dataBlockEff_only (inFrame rfl) (inFrame rfl) _ _ _ only_refl)
  | nak => exact dueAt_only h (nakEff_only (inFrame rfl) _ _ _ _ _ only_refl)
  | replayHead => exact dueAt_only h (replayHeadEff_only (inFrame rfl) _ _ _ _ _ _ only_refl)
  | swap => exact dueAt_only h (swapEff_only (inFrame rfl) _ _ _ _ only_refl)
  | swapTarget => exact dueAt_only h (swapTargetEff_only (inFrame rfl) (inFrame rfl) _ _ only_refl)
  | train => exact dueAt_only h (trainEff_only (inFrame rfl) (inFrame rfl) _ _ _ _ _ _ _ _ _ only_refl)
  | loop => exact dueAt_only h (by apply loopEff_only (h := only_refl) <;> exact inFrame rfl)
  | laneSlotDeadline => exact dueAt_only h (deadlineEff_only (inFrame rfl) (inFrame rfl) _ _ _ _ only_refl)
  | signalDetect | failedRetry | eyeMarginReport => exact dueAt_only h (modPort_only (inFrame rfl) _ _ _ only_refl)
  | adaptDone => exact dueAt_only h (settleTraining_only (inFrame rfl) (inFrame rfl) _ (modPort_only (inFrame rfl) _ _ _ (setFreeCtr_only _ (inFrame rfl))))
  | lockTimeout => exact dueAt_only h (settleTraining_only (inFrame rfl) (inFrame rfl) _ (modPort_only (inFrame rfl) _ _ _ only_refl))
  | trainingEnd => exact dueAt_only h (by apply trainingEndEff_only (h := only_refl) <;> exact inFrame rfl)
  | portLoss => exact dueAt_only h (by apply portLossEff_only (h := only_refl) <;> exact inFrame rfl)
  | linkTestEnd => exact dueAt_only h (by apply linkTestEndEff_only (h := only_refl) <;> exact inFrame rfl)
  | linkPortCounts =>
    exact due_only h (only_ite (regReply_only (inFrame rfl) _ _ _ (modPort_only (inFrame rfl) _ _ _ only_refl)) (regReply_only (inFrame rfl) _ _ _ only_refl))
  | linkNoPeer => exact dueAt_only h (by apply linkNoPeerEff_only (h := only_refl) <;> exact inFrame rfl)
  | _ => cases hf

theorem time_framed (hf : familyOf c = .time) (h : exec c s = .next u) : framed c s u := by
  cases c with
  | announce =>
    exact due_only h (takeTime_only (inFrame rfl) _ _ _ (fun _ hp => announceEff_only (inFrame rfl) (inFrame rfl) (inFrame rfl) _ _ _ _ hp) only_refl)
  | announcePeriod => exact due_only h (sendAnnounce_only (inFrame rfl) (inFrame rfl) only_refl)
  | keeperTimeout => exact due_only h (by apply keeperTimeoutEff_only (h := only_refl) <;> exact inFrame rfl)
  | stampPeriod => exact due_only h (stampPeriodEff_only (inFrame rfl) (inFrame rfl) only_refl)
  | stamp =>
    exact due_only h (takeTime_only (inFrame rfl) _ _ _ (fun _ hp => by apply stampEff_only (h := hp) <;> exact inFrame rfl) only_refl)
  | timeStep => exact due_only h (by apply timeStepEff_only (h := only_refl) <;> exact inFrame rfl)
  | holdoverEntry => exact due_only h (setTimeSt_only (inFrame rfl) (inFrame rfl) (inFrame rfl) _ (modTime_only (inFrame rfl) _ only_refl))
  | referencePulse => exact due_only h (by apply pulseEff_only (h := only_refl) <;> exact inFrame rfl)
  | refLost => exact due_only h (raiseInt_only (inFrame rfl) (inFrame rfl) _ (modTime_only (inFrame rfl) _ only_refl))
  | timeNowLo => exact next_only h (only_ite (timeNowEff_only (inFrame rfl) (inFrame rfl) _ _ _ only_refl) (regReply_only (inFrame rfl) _ _ _ only_refl))
  | holdoverBoundExceeded => exact due_only h (by apply splitEff_only (h := only_refl) <;> exact inFrame rfl)
  | _ => cases hf

theorem power_framed (hf : familyOf c = .power) (h : exec c s = .next u) : framed c s u := by
  cases c with
  | controlInterval => exact due_only h (by apply controlEff_only (h := only_refl) <;> exact inFrame rfl)
  | gapFillEnd => exact dueAt_only h (gapFillEndEff_only (inFrame rfl) _ _ only_refl)
  | barrierHoldEnd => exact dueAt_only h (modHall_only (inFrame rfl) _ _ only_refl)
  | preRampStart => exact dueAt_only h (preRampEff_only (inFrame rfl) _ only_refl)
  | powerEvents => exact read32_only h (inFrame rfl) (modPower_only (inFrame rfl) _ only_refl)
  | _ => cases hf

theorem health_framed (hf : familyOf c = .health) (h : exec c s = .next u) : framed c s u := by
  cases c with
  | heartbeat => exact due_only h (modHealth_only (inFrame rfl) _ only_refl)
  | stewardTakeover => exact due_only h (by apply takeoverEff_only (h := only_refl) <;> exact inFrame rfl)
  | repair => exact dueAt_only h (by apply repairEff_only (h := only_refl) <;> exact inFrame rfl)
  | diagnosisComplete => exact dueAt_only h (by apply diagnosisEff_only (h := only_refl) <;> exact inFrame rfl)
  | repairMappingEffect => exact dueAt_only h (by apply mappingEff_only (h := only_refl) <;> exact inFrame rfl)
  | wearPrediction => exact due_only h (wearSamples_only (inFrame rfl) _ only_refl)
  | marginRowTest => exact dueAt_only h (modUnit_only (inFrame rfl) _ _ _ (modHealth_only (inFrame rfl) _ only_refl))
  | proactiveReplacement => exact dueAt_only h (by apply proactiveEff_only (h := only_refl) <;> exact inFrame rfl)
  | healthEvents => exact read32_only h (inFrame rfl) (modHealth_only (inFrame rfl) _ only_refl)
  | replacementEnd => exact dueAt_only h (by apply replacementEndEff_only (h := only_refl) <;> exact inFrame rfl)
  | _ => cases hf

theorem sequence_framed (hf : familyOf c = .sequence) (h : exec c s = .next u) : framed c s u := by
  cases c with
  | vauxGood => exact due_only h (modSeq_only (inFrame rfl) _ only_refl)
  | railRequest =>
    refine due_only h ?_
    split
    · exact modSeq_only (inFrame rfl) _ only_refl
    · exact only_refl
  | railGoodRise => exact dueAt_only h (modSeq_only (inFrame rfl) _ only_refl)
  | railTimeout => exact due_only h (by apply railTimeoutEff_only (h := only_refl) <;> exact inFrame rfl)
  | hardPartResetRelease => exact due_only h (by apply startHard_only (h := only_refl) <;> exact inFrame rfl)
  | firmwareVerified => exact due_only h (by apply firmwareEff_only (h := only_refl) <;> exact inFrame rfl)
  | selfTestComplete => exact due_only h (by apply selfTestEff_only (h := only_refl) <;> exact inFrame rfl)
  | engineReady => exact due_only h (by apply engineReadyEff_only (h := only_refl) <;> exact inFrame rfl)
  | supplyWarn => exact next_only h (by apply supplyWarnEff_only (h := only_refl) <;> exact inFrame rfl)
  | powerDownStart => exact due_only h (by apply powerDownEff_only (h := only_refl) <;> exact inFrame rfl)
  | powerDownCancel =>
    exact due_only h (promote_only (inFrame rfl) (raiseInt_only (inFrame rfl) (inFrame rfl) _
      (setPhase_only (inFrame rfl) (inFrame rfl) (inFrame rfl) (inFrame rfl) _ (modSeq_only (inFrame rfl) _ only_refl))))
  | pointOfNoReturn => exact due_only h (by apply noReturnEff_only (h := only_refl) <;> exact inFrame rfl)
  | railGoodFall => exact dueAt_only h (by apply afterDrop_only (h := modSeq_only (inFrame rfl) _ only_refl) <;> exact inFrame rfl)
  | railDropTimeout => exact due_only h (by apply dropNext_only (h := only_refl) <;> exact inFrame rfl)
  | railFailure => exact dueAt_only h (by apply collapse_only (h := modSeq_only (inFrame rfl) _ only_refl) <;> exact inFrame rfl)
  | shellReset =>
    refine next_only h (modSeq_only (inFrame rfl) _ (only_ite ?_ only_refl))
    apply collapse_only (h := only_refl) <;> exact inFrame rfl
  | wake => exact due_only h (by apply wakeEff_only (h := only_refl) <;> exact inFrame rfl)
  | powerDownSettle =>
    exact due_only h (only_ite (powerUp_only (inFrame rfl) only_refl) (tryStart_only (inFrame rfl) (modSeq_only (inFrame rfl) _ only_refl)))
  | supplyWarnLow | shellResetRelease => exact next_only h (tryStart_only (inFrame rfl) (modSeq_only (inFrame rfl) _ only_refl))
  | vauxGoodFall => exact due_only h (by apply vauxFallEff_only (h := only_refl) <;> exact inFrame rfl)
  | _ => cases hf

theorem host_framed (hf : familyOf c = .host) (h : exec c s = .next u) : framed c s u := by
  cases c with
  | hostResponse => exact next_only h (by apply hostRspEff_only (h := only_refl) <;> exact inFrame rfl)
  | requestTimeout => exact due_only h (by apply timeoutEff_only (h := only_refl) <;> exact inFrame rfl)
  | ferrDiscard => exact next_only h (setErrors_only _ (inFrame rfl) (fun _ => rfl))
  | hpTxCredit =>
    exact next_only h (pumpTx_only (inFrame rfl)
      (modHost_only _ (.inr rfl) (.inr ⟨rfl, rfl, rfl⟩) (.inr ⟨rfl, rfl, rfl⟩) (.inl (inFrame rfl)) (.inr ⟨rfl, rfl⟩) only_refl))
  | snoopInvalidate => exact next_only h (snoopInvEff_only (inFrame rfl) (inFrame rfl) (inFrame rfl) _ _ only_refl)
  | snoopShare =>
    exact next_only h (modHost_only _ (.inr rfl) (.inr ⟨rfl, rfl, rfl⟩) (.inr ⟨rfl, rfl, rfl⟩) (.inr ⟨rfl, rfl, rfl, rfl⟩) (.inl (inFrame rfl))
      (snoopReply_only (inFrame rfl) _ _ only_refl))
  | hostRegisterWrite => exact due_only h (by apply registerWriteEff_only (h := only_refl) <;> exact inFrame rfl)
  | intEnable => exact due_only h (regReply_only (inFrame rfl) _ _ _ (only_ite (intEnableWrite_only (inFrame rfl) (inFrame rfl) _ only_refl) only_refl))
  | hpErrors => exact read32_only h (inFrame rfl) (setErrors_only _ (inFrame rfl) (fun _ => rfl))
  | sbStatus =>
    rcases ite_next h with h | h
    · exact read32_only h (inFrame rfl) (setSide_only _ (inFrame rfl))
    · exact read32_only h (inFrame rfl) only_refl
  | pinHoldEnd => exact dueAt_only h (modPin_only (inFrame rfl) _ _ only_refl)
  | tagRelease =>
    exact due_only h (pumpReq_only (inFrame rfl) (inFrame rfl)
      (modHost_only _ (.inr rfl) (.inr ⟨rfl, rfl, rfl⟩) (.inl (inFrame rfl)) (.inr ⟨rfl, rfl, rfl, rfl⟩) (.inr ⟨rfl, rfl⟩) only_refl))
  | reservedHostMessage => exact next_only h (only_ite (sendMsg_only (inFrame rfl) _ only_refl) (setErrors_only _ (inFrame rfl) (fun _ => rfl)))
  | _ => cases hf

/-- Every command changes only the parts that the table of frames names for it. -/
theorem exec_framed (h : exec c s = .next u) : framed c s u := by
  cases hf : familyOf c with
  | tileOp => exact tileOp_framed hf h
  | roomEvent => exact roomEvent_framed hf h
  | pace => exact pace_framed hf h
  | store => exact store_framed hf h
  | task => exact task_framed hf h
  | request => exact request_framed hf h
  | mailbox => exact mailbox_framed hf h
  | shell => exact shell_framed hf h
  | fabric => exact fabric_framed hf h
  | link => exact link_framed hf h
  | time => exact time_framed hf h
  | power => exact power_framed hf h
  | health => exact health_framed hf h
  | sequence => exact sequence_framed hf h
  | host => exact host_framed hf h

/-- The table of frames names neither the configuration nor the physical defects nor the queue for any command (00 R5, logs 7 and 58). -/
theorem inputs_not_mem_mayChange (c : Instr) : Part.params ∉ mayChange c ∧ Part.defects ∉ mayChange c ∧ Part.pending ∉ mayChange c := by
  have houtside : ([Part.params, .defects, .pending].any fun p => (mayChange c).elem p) = false := by cases c <;> rfl
  simpa using houtside

end

/-- Settles O55: what a command may change, family by family of the command table. -/
theorem everyCommandKeepsItsFrame : Obligations.EveryCommandKeepsItsFrame := fun _ _ _ h => exec_framed h

/-- Settles O3: the table of frames names none of the three for any command. -/
theorem queueAndConfigurationStand : Obligations.QueueAndConfigurationStand := by
  intro c s t h
  obtain ⟨hparams, hdefects, hpending⟩ := inputs_not_mem_mayChange c
  have hframe := exec_framed h
  exact ⟨hframe.params hparams, hframe.defects hdefects, hframe.pending hpending⟩

end Sys2Proof.Machine

/-!
Every command answers a next state; a row for a unit that the configuration does not have is not due (log 2).
-/
namespace Sys2Proof.Machine

section
variable {s t : State} {there g : Bool}

/-- The answer is a next state, which is `s` where the unit is not there. -/
def QuietUnless (there : Bool) (s : State) (o : Host.Outcome State Fault Refusal) : Prop := ∃ t, o = .next t ∧ (there = false → t = s)

theorem dueAt_quiet : QuietUnless there s (dueAt there g s t) := ⟨_, rfl, by rintro rfl; rfl⟩

theorem next_quiet : QuietUnless true s (.next t) := ⟨t, rfl, nofun⟩

theorem exec_quiet (c : Instr) (s : State) : QuietUnless (unitThere s c) s (exec c s) := by
  cases c with
  | mma | mmt | pair | lds | flip | chute | ewa | rowf | stat | resc | move | halo | relay | sync | hint | stuff | bkt | wait | signal | endOp
  | narrowAccessService | narrowLoadComplete | opFetch | opRetire | waitExpired | handshakeTimeout | annexSilent | annexResult | pacePermit | cellarPortCycle
  | remoteAccessService | scrubRead | bankRelocation | endReport | faultReport | nop | identify | mbxBind | ctxCreate | ctxDestroy | ctxQuery | queueCreate
  | queueDestroy | fenceAlloc | fenceFree | fenceSignal | taskLaunch | taskAbort | imageLoad | imageUnload | qstateReset | granuleAlloc | granuleFree
  | windowOpen | windowClose | storeCopy | paceSet | powerSet | sbPinSet | timeSet | fabricSet | healthSet | healthQuery | snapshotFreeze | snapshotRelease
  | linkTest | fwUpdate | resetRequest | deferredNotApplied | mbxDoorbell | mbxEnable | mbxDisable | mbxRequestFetch | requestWord | responseWriteAck
  | hatchStart | hatchStop | hatchRequest | hatchBurstIssue | hatchBurstLanded | frameRoute | bundleChange | inputPortSwitchTimeout | blockTransmit
  | codewordDecode | beatMark | slotMark | dataBlock | nak | replayHead | swap | swapTarget | train | loop | laneSlotDeadline | signalDetect | adaptDone
  | lockTimeout | failedRetry | trainingEnd | portLoss | linkTestEnd | eyeMarginReport | linkNoPeer | gapFillEnd | barrierHoldEnd | preRampStart | repair
  | diagnosisComplete | repairMappingEffect | marginRowTest | proactiveReplacement | replacementEnd | railGoodRise | railGoodFall | railFailure | pinHoldEnd =>
    exact dueAt_quiet
  | sbStatus tag levels =>
    dsimp only [exec, execSbStatus]
    split <;> exact next_quiet
  | _ => exact next_quiet

end

/-- Settles O4: a row that names a unit is due only where the unit is there, and every other row answers its next state. -/
theorem everyCommandAnswersAndAnAbsentUnitDoesNothing : Obligations.EveryCommandAnswersAndAnAbsentUnitDoesNothing := exec_quiet

end Sys2Proof.Machine

/-!
Host registers (19 R533, 20 R554 to R566): what is answered and what a write of one word changes.
-/
namespace Sys2Proof.Machine

section
variable {s : State}

/-! The answer. -/

/-- Every message that waits is sent or waits on. -/
theorem mem_sendMsgs {m : HostMsg} : ∀ {ms : List HostMsg} (stuck : List Nat) (credit : Tab Nat), m ∈ ms →
    m ∈ (sendMsgs ms stuck credit).1 ∨ m ∈ (sendMsgs ms stuck credit).2.2
  | x :: xs, stuck, credit, h => by
    unfold sendMsgs
    split <;> rcases List.mem_cons.1 h with rfl | h
    · exact .inl (List.mem_cons_self ..)
    · exact (mem_sendMsgs _ _ h).imp_left (List.mem_cons_of_mem _)
    · exact .inr (List.mem_cons_self ..)
    · exact (mem_sendMsgs _ _ h).imp_right (List.mem_cons_of_mem _)

theorem told_sendMsg (m : HostMsg) (s : State) : told (sendMsg m s) m :=
  (mem_sendMsgs _ _ (List.mem_append_right _ (List.mem_singleton.2 rfl))).imp_right (List.mem_append_right _)

theorem regReply_answers (tag status : Nat) (data : List Byte) (s : State) : regAnswered (regReply tag status data s) tag status data := told_sendMsg ..

@[simp] theorem regReply_steward (tag status : Nat) (data : List Byte) (s : State) : (regReply tag status data s).steward = s.steward := rfl
@[simp] theorem portOf_regReply (tag status : Nat) (data : List Byte) (s : State) (g p : Nat) : portOf (regReply tag status data s) g p = portOf s g p := rfl

/-! Rows that answer where VAUX is good. -/

theorem answers_reply {c : Instr} {tag status : Nat} {data : List Byte} {t : State} {Q : State → Prop} (hstep : s.seq.step ≠ .dead)
    (hc : exec c s = due (s.seq.step != .dead) s (regReply tag status data t)) (hq : Q (regReply tag status data t)) : answers c s Q :=
  answers_due hc (bne_iff_ne.2 hstep) hq

/-! Writes. -/

theorem ite_addEvt_steward (p : Prop) [Decidable p] (e : Evt) (s : State) : (if p then addEvt e s else s).steward = s.steward := by
  unfold addEvt
  split
  · split <;> rfl
  · rfl

theorem intEnableWrite_steward (v : BitVec 32) (s : State) :
    (intEnableWrite v s).steward = { s.steward with intEnable := BitVec.ofNat 32 (v.toNat % 8) } :=
  (ite_addEvt_steward ..).trans (ite_addEvt_steward ..)

theorem writeStatus_word (s : State) (off : Nat) : writeStatus s off 4 = if !isReg s.params off || (hardUp s && stewardOnly off) then 1 else 0 := by
  simp [writeStatus, accessWords]

/-- What a write of the word does: before the hard part leaves reset only RESET_CAUSE takes one (20 R558). -/
def wordWritten (off : Nat) (v : BitVec 32) (s : State) : State := if hardUp s = true ∨ off = 0x40504 then regWord off v s else s

theorem exec_hostRegisterWrite_word (tag off : Nat) (v : BitVec 64) (hoff : off % 4 = 0) :
    exec (.hostRegisterWrite tag off 4 v) s = due (s.seq.step != .dead) s (regReply tag (writeStatus s off 4) [] (wordWritten off (BitVec.ofNat 32 v.toNat) s)) := by
  have hready : writeReady s off 4 = (s.seq.step != .dead) := by simp [writeReady, hoff]
  simp only [exec, execHostRegisterWrite, hready]
  rfl

/-- A word that holds no register, or is the steward's alone, takes no write (20 R557). -/
theorem wordWritten_refused {off : Nat} (v : BitVec 32) (h : isReg s.params off = false ∨ stewardOnly off = true) : wordWritten off v s = s := by
  unfold wordWritten regWord
  rw [if_pos h, ite_self]

/-- A word of the engine block that the host may write. -/
theorem regWord_engine {off : Nat} (v : BitVec 32) (hlo : 0x40000 ≤ off) (hhi : off < 0x41000) (hreg : engineReg off = true) (hhost : stewardOnly off = false) :
    regWord off v s = engineWord off v s := by
  have hisReg : isReg s.params off = true := by simp [isReg, hreg, hhi, Nat.not_lt.2 hlo]
  simp [regWord, hisReg, hhost, hhi, Nat.not_lt.2 hlo]

theorem wordWritten_resetCause (v : BitVec 32) : wordWritten 0x40504 v s = engineWord 0x40504 v s := by
  unfold wordWritten
  rw [if_pos (.inr rfl), regWord_engine v (by decide) (by decide) (by decide) (by decide)]

theorem wordWritten_engine {off : Nat} (v : BitVec 32) (hup : hardUp s = true) (hlo : 0x40000 ≤ off) (hhi : off < 0x41000) (hreg : engineReg off = true)
    (hhost : stewardOnly off = false) : wordWritten off v s = engineWord off v s := by
  unfold wordWritten
  rw [if_pos (.inl hup), regWord_engine v hlo hhi hreg hhost]

/-- Before the hard part leaves reset a write leaves all but the sequencer (20 R558). -/
theorem wordWritten_down {off : Nat} (v : BitVec 32) (hdown : hardUp s = false) : ∃ q, wordWritten off v s = { s with seq := q } := by
  by_cases hoff : off = 0x40504
  · subst hoff; rw [wordWritten_resetCause]; exact ⟨_, rfl⟩
  · exact ⟨s.seq, by simp [wordWritten, hdown, hoff]⟩

theorem hpCfgWrite_timeout (v : BitVec 32) (s : State) :
    (hpCfgWrite v s).host.timeout = if 10 ≤ v.toNat % 65536 ∧ v.toNat % 65536 ≤ 10000 then v.toNat % 65536 else s.host.timeout := by
  dsimp only [hpCfgWrite]
  split <;> rfl

/-! LINK_PORT_COUNTS, whole or by halves (14 R436, 20 R555, log 116), and the pins. -/

theorem answers_linkPortCounts {g p : Nat} (tag q part : Nat) (hstep : s.seq.step ≠ .dead) (hpart : q / 32 = part) (hport : q % 32 = p)
    (hthere : portThere s g p = true) : answers (.linkPortCounts tag g q) s fun u =>
      regAnswered u tag 0 (countBytes part (portCountsVal (portOf s g p))) ∧ portOf u g p = clearCounts part (portOf s g p) := by
  subst hpart hport
  refine answers_due rfl (bne_iff_ne.2 hstep) ?_
  rw [if_pos hthere]
  exact ⟨regReply_answers .., by simp⟩

theorem answers_linkPortCounts_absent {g p : Nat} (tag q part : Nat) (hstep : s.seq.step ≠ .dead) (hpart : q / 32 = part) (hport : q % 32 = p)
    (habsent : portThere s g p = false) : answers (.linkPortCounts tag g q) s fun u => regAnswered u tag 1 (countBytes part 0) ∧ u.links = s.links := by
  subst hpart hport
  refine answers_due rfl (bne_iff_ne.2 hstep) ?_
  rw [if_neg (by simp [habsent])]
  exact ⟨regReply_answers .., rfl⟩

theorem pins_modPin (pin : Nat) (f : Pin → Pin) (s : State) : (modPin pin f s).side.pins[pin]? = s.side.pins[pin]?.map f := by
  simp [modPin, List.getElem?_zipIdx, Function.comp_def]

end

/-- Settles O46: a write of a word is the write of that register or no write at all, and a clearing read answers the count before it is cleared. -/
theorem hostRegistersAct : Obligations.HostRegistersAct := by
  intro s hstep
  refine ⟨?_, ?_, ?_, ?_, ?_, ?_, ?_, ?_, ?_, ?_, ?_⟩
  -- HOST_REGISTER_WRITE (19 R533, 20 R557, R558).
  · rintro tag off v hoff lo rfl
    have hanswer := regReply_answers tag (writeStatus s off 4) [] (wordWritten off (BitVec.ofNat 32 v.toNat) s)
    refine answers_reply hstep (exec_hostRegisterWrite_word tag off v hoff) ⟨?_, ?_, ?_, ?_, ?_, ?_, ?_, ?_, ?_, ?_, ?_, ?_⟩
    · intro hreg hhost
      simpa [writeStatus_word, hreg, hhost] using hanswer
    · intro hreg
      simpa [writeStatus_word, hreg] using hanswer
    · intro hup honly
      simpa [writeStatus_word, hup, honly] using hanswer
    · intro h
      rw [wordWritten_refused _ h]
      exact ⟨rfl, rfl, rfl, rfl, rfl, rfl, rfl, rfl, rfl⟩
    · intro hdown
      obtain ⟨q, hq⟩ := wordWritten_down (off := off) (BitVec.ofNat 32 v.toNat) hdown
      rw [hq]
      exact ⟨rfl, rfl, rfl, rfl, rfl⟩
    · rintro rfl
      rw [wordWritten_resetCause]; rfl
    all_goals
      rintro hup rfl
      rw [wordWritten_engine _ hup (by decide) (by decide) (by decide) (by decide)]
    · rfl
    · rfl
    · rfl
    · rfl
    · rfl
    · exact hpCfgWrite_timeout ..
  -- INT_ENABLE (20 R565).
  · intro tag v
    refine answers_reply hstep rfl ⟨regReply_answers .., ?_⟩
    rw [regReply_steward]
    split
    · exact intEnableWrite_steward v s
    · rfl
  -- PACE_EVENTS (02 R46), then STORE_ERR_COUNT (08 R249).
  · exact fun tag => answers_reply hstep rfl ⟨regReply_answers .., by simp⟩
  · intro tag h
    refine answers_due rfl (bne_iff_ne.2 hstep) ?_
    by_cases hh : h < s.params.halls
    · rw [if_pos hh]
      refine ⟨?_, fun hle => absurd hh (Nat.not_lt.2 hle)⟩
      rintro - c rfl
      exact ⟨regReply_answers .., by simp, fun k hk => by simp [Ne.symm hk]⟩
    · rw [if_neg hh]
      exact ⟨fun h' => absurd h' hh, fun _ => ⟨regReply_answers .., rfl⟩⟩
  -- FABRIC_DROPS (13 R412).
  · intro tag
    refine answers_reply hstep rfl ?_
    rintro d rfl
    exact ⟨regReply_answers .., by simp⟩
  -- LINK_PORT_COUNTS (14 R436).
  · intro tag g p hp
    refine ⟨?_, fun habsent => ⟨?_, ?_⟩⟩
    · rintro hthere x v rfl rfl
      exact ⟨answers_linkPortCounts tag p 0 hstep (by omega) (by omega) hthere, answers_linkPortCounts tag (32 + p) 1 hstep (by omega) (by omega) hthere,
        answers_linkPortCounts tag (64 + p) 2 hstep (by omega) (by omega) hthere⟩
    · exact answers_linkPortCounts_absent tag p 0 hstep (by omega) (by omega) habsent
    · rintro half (rfl | rfl)
      · exact answers_linkPortCounts_absent tag (32 * 1 + p) 1 hstep (by omega) (by omega) habsent
      · exact answers_linkPortCounts_absent tag (32 * 2 + p) 2 hstep (by omega) (by omega) habsent
  -- POWER_EVENTS (16 R479), HEALTH_EVENTS (17 R506), HP_ERRORS (19 R536).
  · exact fun tag => answers_reply hstep rfl ⟨regReply_answers .., by simp⟩
  · exact fun tag => answers_reply hstep rfl ⟨regReply_answers .., by simp⟩
  · exact fun tag => answers_reply hstep rfl ⟨regReply_answers .., rfl, rfl, rfl⟩
  -- SB_STATUS (19 R553).
  · intro tag levels
    cases hup : hardUp s
    · exact answers_reply hstep (if_neg (by simp [hup])) ⟨nofun, fun _ => ⟨regReply_answers .., rfl⟩⟩
    · refine answers_reply hstep (if_pos hup) ⟨fun _ => ⟨?_, rfl, rfl⟩, nofun⟩
      exact regReply_answers ..
  -- PIN_HOLD_END (19 R552).
  · intro pin hpin x b hx hb hle
    refine answers_dueAt rfl (decide_eq_true hpin) (by simp [holdEndReady, hx, hb, hle]) ?_
    rw [pins_modPin, hx, Option.map_some]

end Sys2Proof.Machine

/-! The network of halls (01 R22, R26): a route is a path of neighbours, put together from two straight walks that meet at a corner. -/

namespace Sys2Proof.Machine

/-- The list `l` leads from `a` to `b` by `n` moves, each of which `R` allows. -/
structure Leads {α : Type} (R : α → α → Prop) (l : List α) (a b : α) (n : Nat) : Prop where
  head : l.head? = some a
  last : l.getLast? = some b
  moves : l.IsChain R
  length : l.length = n + 1

namespace Leads

variable {α β : Type} {R : α → α → Prop} {l l' : List α} {a b c : α} {m n : Nat}

theorem map {S : β → β → Prop} (f : α → β) (h : Leads R l a b n) (hf : ∀ x y, x ∈ l → y ∈ l → R x y → S (f x) (f y)) :
    Leads S (l.map f) (f a) (f b) n where
  head := by simp [h.head]
  last := by simp [h.last]
  moves := (List.isChain_map f).2 (h.moves.imp_of_mem_imp hf)
  length := by simp [h.length]

theorem reverse (hR : ∀ x y, R x y → R y x) (h : Leads R l a b n) : Leads R l.reverse b a n where
  head := by simp [h.last]
  last := by simp [h.head]
  moves := List.isChain_reverse.2 (h.moves.imp hR)
  length := by simp [h.length]

/-- A second path goes on where the first one ends, and their common point is listed once. -/
theorem append (h : Leads R l a b m) (h' : Leads R l' b c n) : Leads R (l ++ l'.drop 1) a c (m + n) := by
  obtain ⟨t, rfl⟩ : ∃ t, l' = b :: t := List.head?_eq_some_iff.1 h'.head
  obtain ⟨hb, ht⟩ := List.isChain_cons.1 h'.moves
  have hlen : t.length = n := by simpa using h'.length
  refine ⟨by simp [h.head], ?_, h.moves.append ht ?_, by simp [h.length, hlen]; omega⟩
  · have hc := h'.last
    rw [List.getLast?_cons] at hc
    rw [List.drop_succ_cons, List.drop_zero, List.getLast?_append, h.last]
    cases ht' : t.getLast? <;> simpa [ht'] using hc
  · intro x hx y hy
    obtain rfl : b = x := by simpa [h.last] using hx
    exact hb y hy

/-- Each two consecutive points of a path are a move. -/
theorem moves_zip (h : Leads R l a b n) (p : α × α) (hp : p ∈ l.zip (l.drop 1)) : R p.1 p.2 := by
  obtain ⟨i, hi, rfl⟩ := List.mem_iff_getElem.1 hp
  have hi' : i + 1 < l.length := by simp at hi; omega
  simpa [Nat.add_comm 1 i] using List.isChain_iff_getElem.1 h.moves i hi'

theorem length_zip (h : Leads R l a b n) : (l.zip (l.drop 1)).length = n := by
  simp [h.length]

end Leads

theorem apart_comm (x y : Nat) : apart x y = apart y x := Nat.add_comm ..

theorem neighbours_comm (a b : Nat) : neighbours a b = neighbours b a := by
  unfold neighbours
  rw [apart_comm (hallCol a), apart_comm (hallRow a), Bool.beq_comm (a := hallRow a), Bool.beq_comm (a := hallCol a)]

/-! Walks along a row or a column. -/

theorem leads_map_range {R : Nat → Nat → Prop} (f : Nat → Nat) (n : Nat) (hf : ∀ i < n, R (f i) (f (i + 1))) :
    Leads R ((List.range (n + 1)).map f) (f 0) (f n) n where
  head := by simp [List.head?_range]
  last := by simp [List.getLast?_range]
  moves := (List.isChain_map f).2 ((List.isChain_range_succ _ n).2 hf)
  length := by simp

theorem gridWalk_leads (x y : Nat) : Leads (fun i j => apart i j = 1) (gridWalk x y) x y (apart x y) := by
  unfold gridWalk
  split
  case isTrue h =>
    have hw := leads_map_range (R := fun i j => apart i j = 1) (x + ·) (y - x) (fun i _ => by unfold apart; omega)
    simpa [apart, Nat.add_sub_of_le h, Nat.sub_eq_zero_of_le h] using hw
  case isFalse h =>
    have hle : y ≤ x := Nat.le_of_not_le h
    have hw := leads_map_range (R := fun i j => apart i j = 1) (x - ·) (x - y) (fun i _ => by unfold apart; omega)
    simpa [apart, Nat.sub_sub_self hle, Nat.sub_eq_zero_of_le hle] using hw

theorem le_max_of_mem_gridWalk {x y z : Nat} (h : z ∈ gridWalk x y) : z ≤ max x y := by
  unfold gridWalk at h
  split at h <;> obtain ⟨i, hi, rfl⟩ := List.mem_map.1 h <;> rw [List.mem_range] at hi <;> omega

/-! Positions of the grid by row and column. -/

theorem hallCol_lt (h : Nat) : hallCol h < 4 := Nat.mod_lt _ (by decide)

theorem four_mul_hallRow_add_hallCol (h : Nat) : 4 * hallRow h + hallCol h = h := Nat.div_add_mod h 4

theorem hallRow_position {r c : Nat} (hc : c < 4) : hallRow (4 * r + c) = r := by unfold hallRow; omega

theorem hallCol_position {r c : Nat} (hc : c < 4) : hallCol (4 * r + c) = c := by unfold hallCol; omega

theorem neighbours_in_row {r c c' : Nat} (hc : c < 4) (hc' : c' < 4) (h : apart c c' = 1) : neighbours (4 * r + c) (4 * r + c') = true := by
  simp [neighbours, hallRow_position hc, hallRow_position hc', hallCol_position hc, hallCol_position hc', h]

theorem neighbours_in_column {r r' c : Nat} (hc : c < 4) (h : apart r r' = 1) : neighbours (4 * r + c) (4 * r' + c) = true := by
  simp [neighbours, hallRow_position hc, hallCol_position hc, h]

/-! Routes. -/

/-- The list of halls leads from `a` to `b` over `n` die crossings. -/
abbrev HallPath (l : List Nat) (a b n : Nat) : Prop := Leads (fun x y => neighbours x y = true) l a b n

theorem rowWalk_hallPath (p q : Nat) :
    HallPath ((gridWalk (hallCol p) (hallCol q)).map (4 * hallRow p + ·)) p (4 * hallRow p + hallCol q) (apart (hallCol p) (hallCol q)) := by
  have hcol (c : Nat) (h : c ∈ gridWalk (hallCol p) (hallCol q)) : c < 4 :=
    (le_max_of_mem_gridWalk h).trans_lt (max_lt (hallCol_lt p) (hallCol_lt q))
  have hwalk : HallPath .. := (gridWalk_leads (hallCol p) (hallCol q)).map (4 * hallRow p + ·) fun c c' hc hc' => neighbours_in_row (hcol c hc) (hcol c' hc')
  rwa [four_mul_hallRow_add_hallCol] at hwalk

theorem columnWalk_hallPath (p q : Nat) :
    HallPath ((gridWalk (hallRow p) (hallRow q)).map (4 * · + hallCol q)) (4 * hallRow p + hallCol q) q (apart (hallRow p) (hallRow q)) := by
  have hwalk : HallPath .. := (gridWalk_leads (hallRow p) (hallRow q)).map (4 * · + hallCol q) fun _ _ _ _ => neighbours_in_column (hallCol_lt q)
  rwa [four_mul_hallRow_add_hallCol] at hwalk

theorem routeDown_hallPath (p q : Nat) : HallPath (routeDown p q) p q (apart (hallCol p) (hallCol q) + apart (hallRow p) (hallRow q)) := by
  rw [routeDown, List.map_drop]
  exact (rowWalk_hallPath p q).append (columnWalk_hallPath p q)

/-- Where the rows differ, each position in the row of `p` is numbered below `q`; this is why 01 R22 turns in the lower-numbered row. -/
theorem le_max_of_mem_routeDown {p q h : Nat} (hrow : hallRow p ≤ hallRow q) (hh : h ∈ routeDown p q) : h ≤ max p q := by
  have hp := four_mul_hallRow_add_hallCol p
  have hq := four_mul_hallRow_add_hallCol q
  rcases List.mem_append.1 hh with hh | hh
  · obtain ⟨c, hc, rfl⟩ := List.mem_map.1 hh
    have hle := le_max_of_mem_gridWalk hc
    have hlt := hallCol_lt p
    omega
  · obtain ⟨r, hr, rfl⟩ := List.mem_map.1 hh
    have hle := le_max_of_mem_gridWalk (List.mem_of_mem_drop hr)
    omega

theorem route_hallPath (a b : Nat) : HallPath (route a b) a b (apart (hallRow a) (hallRow b) + apart (hallCol a) (hallCol b)) := by
  unfold route
  split
  · rw [Nat.add_comm]
    exact routeDown_hallPath a b
  · rw [Nat.add_comm, apart_comm (hallRow a), apart_comm (hallCol a)]
    exact (routeDown_hallPath b a).reverse fun x y h => neighbours_comm x y ▸ h

theorem le_max_of_mem_route {a b h : Nat} (hh : h ∈ route a b) : h ≤ max a b := by
  unfold route at hh
  split at hh
  case isTrue hrow => exact le_max_of_mem_routeDown hrow hh
  case isFalse hrow =>
    rw [max_comm]
    exact le_max_of_mem_routeDown (Nat.le_of_not_le hrow) (List.mem_reverse.1 hh)

/-! Where gatehouses attach. -/

theorem gateHall_lt_halls {P : Params} {g : Nat} (hP : P.gatehouses ≤ P.halls) (hg : g < P.gatehouses) : gateHall P g < P.halls :=
  Nat.div_lt_of_lt_mul (Nat.mul_lt_mul_of_pos_right hg (by omega))

/-- From one gatehouse to the next the dividend grows by the halls, at least the divisor. -/
theorem gateHall_strictMono {P : Params} (hP : P.gatehouses ≤ P.halls) (hpos : 0 < P.gatehouses) : StrictMono (gateHall P) := by
  refine strictMono_nat_of_lt_succ fun g => ?_
  calc gateHall P g < g * P.halls / P.gatehouses + 1 := Nat.lt_succ_self _
    _ = (g * P.halls + P.gatehouses) / P.gatehouses := (Nat.add_div_right _ hpos).symm
    _ ≤ gateHall P (g + 1) := Nat.div_le_div_right (by rw [Nat.succ_mul]; omega)

/-- Settles O59: a route is a row walk and a column walk that meet at a corner, no hall on it is numbered above both ends, and the attached halls rise with the gatehouse. -/
theorem routesStayOnTheGrid : Obligations.RoutesStayOnTheGrid := by
  refine fun P => ⟨fun a b ha hb => ?_, fun hP g k hg _ => ⟨gateHall_lt_halls hP hg, fun h => ?_⟩⟩
  · have hroute := route_hallPath a b
    exact ⟨hroute.head, hroute.last, fun h hh => (le_max_of_mem_route hh).trans_lt (max_lt ha hb), hroute.moves_zip, hroute.length_zip⟩
  · exact (gateHall_strictMono hP (by omega)).injective h

end Sys2Proof.Machine

/-!
What reset leaves (20 R557 to R563): the words of the engine page, and what stands in tables that list nothing.
-/
namespace Sys2Proof.Machine

/-- MBX_CTRL of every mailbox at reset (10 R294): the binding of mailbox 0 is all that the table lists. -/
theorem mbox_reset (m : Nat) : mbox State.reset m = if 0 = m then { mboxZero with binding := 2 } else mboxZero := by
  simp [mbox, State.reset, stewardReset, tabGet]

theorem mboxCtrl_reset (m : Nat) : (mbox State.reset m).sizeLog2 = 4 ∧ (mbox State.reset m).notifyEn = true ∧ (mbox State.reset m).enable = false := by
  rw [mbox_reset]
  split <;> exact ⟨rfl, rfl, rfl⟩

/-- Every granule is in clearing (08 R254): an ownership table that lists nothing reads its reset entry. -/
theorem ownEntry_reset (a : Nat) : ownEntry State.reset.store a = 0xC000 := rfl

/-- Settles O47: the words of the engine page are closed computations, and every mailbox and granule reads what its table holds at reset. -/
theorem resetLeaves : Obligations.ResetLeaves :=
  ⟨by decide +kernel, fun m _ => mboxCtrl_reset m, rfl, ownEntry_reset, rfl⟩

end Sys2Proof.Machine

/-!
Beats and permits (02 R37 to R48, 15 R437).
-/
namespace Sys2Proof.Machine

section
variable {s t : State}

/-! Fabric time through the rest of a boundary. -/

/-- Fabric time, the ticks since start-up and the fraction (15 R437). -/
def clock (s : State) : Nat × Nat × Nat := (s.time.ticks, s.time.up, s.time.frac)

theorem clock_of_time (h : t.time = s.time) : clock t = clock s := by
  unfold clock
  rw [h]

theorem clock_beatOut (s : State) : clock (beatOut s) = clock s := by
  unfold beatOut
  split <;> rfl

theorem clock_timeOfDay (s : State) : clock (timeOfDay s) = clock s := by
  unfold timeOfDay
  split <;> rfl

/-- What a boundary does once the beat has begun leaves fabric time: pins show it, and nothing else of the boundary concerns the time unit. -/
theorem clock_boundaryEff (s : State) : clock (boundaryEff s) = clock s := by
  have hlater : changesOnly (· ≠ .time) (timeOfDay (beatOut (finishMsgs (powerBoundary s)))) (boundaryEff s) := by
    unfold boundaryEff
    apply_rules [noteStaged_only, recordBoundary_only, powerDownPorch_only, sampleWarn_only, readyBoundary_only, answerHalts_only, lateChecks_only, hatchBeat_only,
      annexTakes_only, traceOut_only, only_refl] <;> simp
  have hbefore : changesOnly (· ≠ .time) s (finishMsgs (powerBoundary s)) := by
    apply_rules [finishMsgs_only, powerBoundary_only, only_refl] <;> simp
  calc clock (boundaryEff s) = clock (timeOfDay (beatOut (finishMsgs (powerBoundary s)))) := clock_of_time (hlater.time (by simp))
    _ = clock (finishMsgs (powerBoundary s)) := (clock_timeOfDay _).trans (clock_beatOut _)
    _ = clock s := clock_of_time (hbefore.time (by simp))

/-- A boundary, once the beat has begun, leaves the pace, the rooms and the stores. -/
theorem boundaryEff_leaves (s : State) : (boundaryEff s).pace = s.pace ∧ (boundaryEff s).rooms = s.rooms ∧ (boundaryEff s).store = s.store := by
  have h : changesOnly (fun p => p ≠ .pace ∧ p ≠ .rooms ∧ p ≠ .store) s (boundaryEff s) := by
    apply boundaryEff_only (h := only_refl) <;> simp
  exact ⟨h.pace (by simp), h.rooms (by simp), h.store (by simp)⟩

/-! The account of the beat that ends. -/

theorem closePace_pace (rings rooms : List Nat) (s : State) :
    (closePace rings rooms s).pace = { s.pace with
      modeActive := s.pace.mode, cyclePs := min 65535 (enginePace s (localPaces s.params rings rooms)), units := [], issuedLast := closeIssued s,
      localPs := localPaces s.params rings rooms,
      belowFloor := s.pace.belowFloor || decide (1400 < enginePace s (localPaces s.params rings rooms)),
      floorBeats := if decide (1400 < enginePace s (localPaces s.params rings rooms)) then satInc 65535 s.pace.floorBeats else s.pace.floorBeats,
      limitMiss := s.pace.limitMiss || limitMissed s,
      missBeats := if limitMissed s then satInc 65535 s.pace.missBeats else s.pace.missBeats } := by
  dsimp only [closePace]
  split <;> simp

theorem closePace_leaves (rings rooms : List Nat) (s : State) :
    (closePace rings rooms s).time = s.time ∧ (closePace rings rooms s).rooms = s.rooms ∧ (closePace rings rooms s).store = s.store := by
  have h : changesOnly (fun p => p ≠ .time ∧ p ≠ .rooms ∧ p ≠ .store) s (closePace rings rooms s) := by
    apply closePace_only (h := only_refl) <;> simp
  exact ⟨h.time (by simp), h.rooms (by simp), h.store (by simp)⟩

end

/-- Settles O13: the account closes, the beat begins, and nothing that the boundary then does reaches fabric time or the pace; a permit is an update of one unit's account. -/
theorem beatsAndPermitsComplete : Obligations.BeatsAndPermitsComplete := by
  refine fun s => ⟨?_, ?_⟩
  · rintro m ps hrun hstep rfl
    obtain ⟨htime, hrooms, hstore⟩ := closePace_leaves m.rings m.rooms s
    obtain ⟨hpace', hrooms', hstore'⟩ := boundaryEff_leaves (advance (closePace m.rings m.rooms s))
    have hclock := clock_boundaryEff (advance (closePace m.rings m.rooms s))
    simp only [clock, Prod.mk.injEq] at hclock
    obtain ⟨hticks, hup, hfrac⟩ := hclock
    have hpace : (boundaryEff (advance (closePace m.rings m.rooms s))).pace = _ := hpace'.trans (closePace_pace m.rings m.rooms s)
    refine answers_due rfl (by simp [hrun, hstep]) ⟨?_, ?_, hfrac, ?_, ?_, ?_, ?_, ?_, ?_, hrooms'.trans hrooms, hstore'.trans hstore⟩
    · rw [hticks, ← htime]; rfl
    · rw [hup, ← htime]; rfl
    all_goals rw [hpace]
  · rintro unit use x hthere hpaced rfl hleft hbanked
    have hready : permitReady s unit use = true := by
      cases use with
      | banked => simpa [permitReady, hpaced] using hbanked rfl
      | spend | notReady | noWork => simpa [permitReady, hpaced] using hleft (by decide)
    refine answers_dueAt rfl hthere hready ⟨?_, fun k hk => ?_⟩
    · rintro y rfl
      simp only [modPace_pace, tabGet_mod, if_true]
      refine ⟨?_, ?_, ?_, ?_, ?_⟩
      · rintro rfl; rfl
      · rintro rfl; rfl
      · rintro rfl hroom; exact if_pos hroom
      · rintro rfl hfull; exact if_neg (Nat.not_lt.2 hfull)
      · rintro rfl; rfl
    · rw [modPace_pace, tabGet_mod, if_neg (Ne.symm hk)]

end Sys2Proof.Machine

/-!
The ops that steer the room (05 R135, R152, 06 R187 to R191, 02 R49): the state that an issue leaves, what a body makes of it, and the slot after it.
-/
namespace Sys2Proof.Machine

section
variable {s b u : State} {room opc k n : Nat} {w w2 : OpWord} {w2? : Option OpWord} {t : Task} {i : Image}

/-! The state in which an op's body starts (06 R192, 02 R41). -/

/-- The op's words have left the buffer, and the permits of its issue are taken. -/
def poppedState (s : State) (room k : Nat) (w : OpWord) : State := popOps room k (takeAll (.roomCore room :: wholePace room w) s)

@[simp] theorem roomOf_poppedState : roomOf (poppedState s room k w) room =
    { roomOf s room with opBuf := (roomOf s room).opBuf.drop k, issued := (roomOf s room).issued + 1 } := by
  rw [poppedState, roomOf_popOps, roomOf_takeAll]

theorem roomOf_poppedState_ne {r : Nat} (hr : r ≠ room) : roomOf (poppedState s room k w) r = roomOf s r := by
  rw [poppedState, popOps_room_ne _ _ _ _ hr, roomOf_takeAll]

@[simp] theorem poppedState_store : (poppedState s room k w).store = s.store := by simp [poppedState]

@[simp] theorem poppedState_steward : (poppedState s room k w).steward = s.steward := by simp [poppedState]

@[simp] theorem upBeat_poppedState : upBeat (poppedState s room k w) = upBeat s := by
  rw [upBeat, poppedState, popOps_time, takeAll_pace, upBeat]

/-- An op that may issue answers the state that its body and its slot leave. -/
theorem answers_tile {c : Instr} {body : Env → Room → Task → Nat → State → State} {Q : State → Prop} (h : CanIssue s room opc k w w2? t i n)
    (hc : exec c s = dueAt (hasRoom s room) (issueReady s room opc w w2?) s (issueWith room opc k w body s))
    (hq : Q (slotPart room n (roomOf s room) w (body (envOf s t i room n opc) (roomOf s room) t n (poppedState s room k w)))) : answers c s Q :=
  answers_dueAt hc h.there h.ready (by rw [tile_next h]; exact hq)

/-! Bodies that change how the room goes on, and none of its data. -/

/-- An op has issued, and of its room have changed beside that only the hold, the counters and the ops in flight, which are now these. -/
structure Steered (s u : State) (room k n : Nat) (w : OpWord) (hold : Hold) (ctr : Tab Nat) (fs : List InFlight) : Prop where
  issued   : Issued s u room k n w
  unworked : unworked s u room
  hold     : (roomOf u room).hold = hold
  ctr      : (roomOf u room).ctr = ctr
  inflight : (roomOf u room).inflight = fs

theorem steered_slotPart {hold : Hold} {ctr : Tab Nat} {fs : List InFlight} (hroom : roomOf b room = { roomOf (poppedState s room k w) room with
      hold := hold, ctr := ctr, inflight := fs }) (hothers : otherRooms s b [room]) (hstore : b.store = s.store) :
    Steered s (slotPart room n (roomOf s room) w b) room k n w hold ctr fs := by
  rw [roomOf_poppedState] at hroom
  refine ⟨issued_of ?_ ?_ ?_ ?_ hothers, ⟨by rw [slotPart_store, hstore], ?_, ?_, ?_, ?_⟩, ?_, ?_, ?_⟩
  all_goals simp [slotPart_room, hroom]

theorem otherRooms_modRoom (f : Room → Room) (h : otherRooms s b [room]) : otherRooms s (modRoom room f b) [room] :=
  fun r hr => (roomOf_modRoom_ne (by simpa using hr) f b).trans (h r hr)

theorem otherRooms_poppedState : otherRooms s (poppedState s room k w) [room] := fun _ hr => roomOf_poppedState_ne (by simpa using hr)

theorem otherRooms_of_rooms (h : u.rooms = b.rooms) (hb : otherRooms s b [room]) : otherRooms s u [room] :=
  fun r hr => (roomOf_of_rooms h r).trans (hb r hr)

theorem otherRooms_slotPart {rs : List Nat} {x : Room} (hroom : room ∈ rs) (h : otherRooms s b rs) : otherRooms s (slotPart room n x w b) rs :=
  fun r hr => (slotPart_room_ne _ _ _ _ _ _ fun hr' => hr (by rw [hr']; exact hroom)).trans (h r hr)

/-! The op among those issued, none of its work done (06 R193). -/

theorem roomOf_issuedState : roomOf (issuedState s room k n w w2) room = { roomOf (poppedState s room k w) room with
    inflight := (roomOf s room).inflight ++ [issuedOp s room n w w2 0] } := by
  rw [issuedState, roomOf_engage, ← poppedState, roomOf_poppedState]
  rfl

theorem otherRooms_issuedState : otherRooms s (issuedState s room k n w w2) [room] := fun r hr => by
  have hr : r ≠ room := by simpa using hr
  rw [issuedState, roomOf_engage_ne _ _ _ _ _ _ _ _ hr, ← poppedState, roomOf_poppedState_ne hr]

@[simp] theorem issuedState_store : (issuedState s room k n w w2).store = s.store := by
  rw [issuedState, engage_store, ← poppedState, poppedState_store]

@[simp] theorem issuedState_steward : (issuedState s room k n w w2).steward = s.steward := by
  rw [issuedState, engage, (endGaps_fields room _ _).2.2.1]
  exact poppedState_steward (k := k)

theorem steered_issuedState : Steered s (slotPart room n (roomOf s room) w (issuedState s room k n w w2)) room k n w (roomOf s room).hold (roomOf s room).ctr
    ((roomOf s room).inflight ++ [issuedOp s room n w w2 0]) :=
  steered_slotPart (by rw [roomOf_issuedState, roomOf_poppedState]) otherRooms_issuedState issuedState_store

/-! The first work step of an op that has issued (06 R194): its place is after all others. -/

theorem flightOf_append_last {x : Room} {fs : List InFlight} {f : InFlight} (hx : x.inflight = fs ++ [f]) (hlast : ∀ g ∈ fs, g.seq < f.seq) :
    flightOf x f.seq = some f := by
  have hnone : fs.find? (fun g => g.seq == f.seq) = none := List.find?_eq_none.2 fun g hg => by simpa using (hlast g hg).ne
  simp [flightOf, hx, List.find?_append, hnone]

theorem map_replace_last {fs : List InFlight} {f g : InFlight} (hseq : g.seq = f.seq) (hlast : ∀ h ∈ fs, h.seq < f.seq) :
    (fs ++ [f]).map (fun h => if h.seq = g.seq then g else h) = fs ++ [g] := by
  have hfs : fs.map (fun h => if h.seq = f.seq then g else h) = fs :=
    (List.map_congr_left fun h hh => if_neg (hlast h hh).ne).trans (List.map_id fs)
  simp [hseq, hfs]

theorem filter_drop_last {fs : List InFlight} {f : InFlight} (hlast : ∀ g ∈ fs, g.seq < f.seq) : (fs ++ [f]).filter (fun g => g.seq != f.seq) = fs := by
  have hfs : fs.filter (fun g => g.seq != f.seq) = fs := List.filter_eq_self.2 fun g hg => by simpa using (hlast g hg).ne
  simp [hfs]

/-- The body of an op whose work goes on in steps: the first step where it can go. -/
theorem stepBody_poppedState (h : CanIssue s room opc k w w2? t i n) (E : Env) (t' : Task) : stepBody room w w2 E (roomOf s room) t' n (poppedState s room k w) =
    if stepReady (issuedState s room k n w w2) room (issuedOp s room n w w2 0) = true then
      pacedStep room (issuedOp s room n w w2 0) (issuedState s room k n w w2) else issuedState s room k n w w2 := by
  have hflight : flightOf (roomOf (issuedState s room k n w w2) room) (roomOf s room).issued = some (issuedOp s room n w w2 0) :=
    flightOf_append_last (f := issuedOp s room n w w2 0) (by rw [roomOf_issuedState]) h.order
  change stepOnce room (roomOf s room).issued (issuedState s room k n w w2) = _
  rw [stepOnce, hflight]

theorem issueReady_opcode (h : issueReady s room opc w w2? = true) : opcAt w = opc := by
  unfold issueReady at h
  split at h
  · cases h
  · simp only [Bool.and_eq_true, beq_iff_eq] at h
    exact h.1.1.1.1.1.1.1.1.1.1

/-! The steps of `flip` and of `signal`. -/

theorem roomOf_setFlight (f : InFlight) (s : State) : roomOf (setFlight room f s) room =
    { roomOf s room with inflight := (roomOf s room).inflight.map fun g => if g.seq = f.seq then f else g } := by
  rw [setFlight, roomOf_of_rooms (startGaps_fields ..).1, roomOf_modRoom]

theorem otherRooms_setFlight {f : InFlight} (h : otherRooms s b [room]) : otherRooms s (setFlight room f b) [room] :=
  otherRooms_of_rooms (startGaps_fields ..).1 (otherRooms_modRoom _ h)

theorem setFlight_store (f : InFlight) (s : State) : (setFlight room f s).store = s.store := (startGaps_fields ..).2

theorem runStep_flip {f : InFlight} (htask : roomTask s room = some (t, i)) (hopc : f.opc = 5) : runStep room f s =
    setFlight room { f with pos := f.pos + 1 } (modRoom room (fun y => { y with act := flipGang y.act (fld f.word 23 20) }) s) := by
  unfold runStep
  rw [htask]
  dsimp only
  rw [hopc]
  rfl

theorem runStep_signal {f : InFlight} (htask : roomTask s room = some (t, i)) (hopc : f.opc = 19) : runStep room f s = signalWork room f s := by
  unfold runStep
  rw [htask]
  dsimp only
  rw [hopc]
  rfl

/-- Paying the permits of a step leaves the op's task where it is. -/
theorem roomTask_paced (us : List PaceUnit) (h : CanIssue s room opc k w w2? t i n) : roomTask (takeAll us (issuedState s room k n w w2)) room = some (t, i) := by
  rw [← h.task]
  refine roomTask_congr ?_ ?_
  · rw [roomOf_takeAll, roomOf_issuedState, roomOf_poppedState]
  · rw [takeAll_steward, issuedState_steward]

/-! Signals at a room (06 R189). -/

theorem addSignal_room_ne {c r dst : Nat} (h : r ≠ dst) (s : State) : roomOf (addSignal dst c s) r = roomOf s r := roomOf_modRoom_ne h ..

/-- A signal concerns the counters of its room and the `wait` that holds it. -/
theorem addSignal_room (dst c r : Nat) : ∃ hold ctr, roomOf (addSignal dst c s) r = { roomOf s r with hold := hold, ctr := ctr } := by
  by_cases hr : r = dst
  · subst hr
    rw [addSignal, roomOf_modRoom]
    dsimp only
    split
    · split
      · exact ⟨_, _, rfl⟩
      · exact ⟨(roomOf s r).hold, _, rfl⟩
    · exact ⟨(roomOf s r).hold, _, rfl⟩
  · exact ⟨_, _, addSignal_room_ne hr s⟩

theorem addSignal_store (dst c : Nat) (s : State) : (addSignal dst c s).store = s.store := rfl

theorem slotPart_hold_ctr (x : Room) (r : Nat) : (roomOf (slotPart room n x w s) r).hold = (roomOf s r).hold ∧ (roomOf (slotPart room n x w s) r).ctr = (roomOf s r).ctr := by
  by_cases hr : r = room
  · rw [hr, slotPart_room]
    exact ⟨rfl, rfl⟩
  · rw [slotPart_room_ne _ _ _ _ _ _ hr]
    exact ⟨rfl, rfl⟩

theorem addSignal_free {c dst : Nat} (h : (roomOf s dst).hold = .none) : (roomOf (addSignal dst c s) dst).hold = .none ∧
    tabGet 0 (roomOf (addSignal dst c s) dst).ctr c = tabGet 0 (roomOf s dst).ctr c + 1 := by
  simp [addSignal, h]

theorem addSignal_waiting {op c k b dst : Nat} (h : (roomOf s dst).hold = .wait op c k b) (hk : k ≤ tabGet 0 (roomOf s dst).ctr c + 1) :
    (roomOf (addSignal dst c s) dst).hold = .none ∧ tabGet 0 (roomOf (addSignal dst c s) dst).ctr c = tabGet 0 (roomOf s dst).ctr c + 1 - k := by
  simp [addSignal, h, hk]

/-! Records of `hint` (16 R463). -/

theorem hintHall_store (h kind ctx tag level ahead : Nat) (s : State) : (hintHall h kind ctx tag level ahead s).store = s.store :=
  (hintHall_only (P := (· = .power)) rfl h kind ctx tag level ahead only_refl).store (by simp)

theorem hallPow_phaseStart (h : Nat) (r : HintRec) (s : State) : (hallPow (phaseStart h r s) h).phase = some r := by rw [phaseStart, hallPow_modHall]

theorem hallPow_slotPart {x : Room} (h : Nat) : hallPow (slotPart room n x w s) h = hallPow s h := by
  unfold slotPart
  dsimp only
  split
  · rfl
  · split <;> rfl

end

section
variable {s : State} {room n : Nat} {w : OpWord} {t : Task} {i : Image}

theorem flip_issues (h : CanIssue s room 5 1 w none t i n) (hready : stepReady (issuedState s room 1 n w 0) room (issuedOp s room n w 0 0) = true) :
    answers (.flip room w) s fun u => Issued s u room 1 n w ∧ inFlight s u room (issuedOp s room n w 0 1) ∧
      (roomOf u room).act = flipGang (roomOf s room).act (fld w 23 20) ∧ (roomOf u room).cells = (roomOf s room).cells ∧ u.store = s.store := by
  refine answers_tile h rfl ?_
  have hstep : pacedStep room (issuedOp s room n w 0 0) (issuedState s room 1 n w 0) = setFlight room (issuedOp s room n w 0 1)
      (modRoom room (fun y => { y with act := flipGang y.act (fld w 23 20) }) (takeAll (stepPace room (issuedOp s room n w 0 0)) (issuedState s room 1 n w 0))) :=
    runStep_flip (roomTask_paced _ h) (issueReady_opcode h.ready)
  rw [stepBody_poppedState h, if_pos hready, hstep]
  generalize hb : setFlight room _ _ = b
  have hroom : roomOf b room = { roomOf (poppedState s room 1 w) room with
      act := flipGang (roomOf s room).act (fld w 23 20), inflight := (roomOf s room).inflight ++ [issuedOp s room n w 0 1] } := by
    rw [← hb, roomOf_setFlight, roomOf_modRoom, roomOf_takeAll, roomOf_issuedState]
    dsimp only
    rw [map_replace_last (f := issuedOp s room n w 0 0) (g := issuedOp s room n w 0 1) rfl h.order, roomOf_poppedState]
  have hothers : otherRooms s b [room] := by
    rw [← hb]
    exact otherRooms_setFlight (otherRooms_modRoom _ fun r hr => (roomOf_takeAll ..).trans (otherRooms_issuedState r hr))
  have hstore : b.store = s.store := by rw [← hb, setFlight_store, modRoom_store, takeAll_store, issuedState_store]
  rw [roomOf_poppedState] at hroom
  refine ⟨issued_of ?_ ?_ ?_ ?_ hothers, ?_, ?_, ?_, by rw [slotPart_store, hstore]⟩
  all_goals simp [inFlight, slotPart_room, hroom]

/-- An op whose first step waits is in flight, and has done nothing. -/
theorem waits_issued {c : Instr} {opc : Nat} (h : CanIssue s room opc 1 w none t i n)
    (hc : exec c s = dueAt (hasRoom s room) (issueReady s room opc w none) s (issueWith room opc 1 w (stepBody room w 0) s))
    (hwait : stepReady (issuedState s room 1 n w 0) room (issuedOp s room n w 0 0) = false) :
    answers c s fun u => Issued s u room 1 n w ∧ inFlight s u room (issuedOp s room n w 0 0) ∧ unworked s u room := by
  refine answers_tile h hc ?_
  rw [stepBody_poppedState h, if_neg (Bool.eq_false_iff.1 hwait)]
  exact ⟨steered_issuedState.issued, steered_issuedState.inflight, steered_issuedState.unworked⟩

theorem sync_issues (h : CanIssue s room 14 1 w none t i n) : answers (.sync room w) s fun u => Issued s u room 1 n w ∧ unworked s u room ∧
    (roomOf u room).inflight = (roomOf s room).inflight ∧ (roomOf u room).hold = .sync n (fld w 25 20) (fld w 63 32) (upBeat s)
      (if (roomOf s room).inflight = [] ∧ (roomOf s room).narrow = [] then some (upBeat s) else none) := by
  refine answers_tile h rfl ?_
  generalize hp : modRoom room _ (poppedState s room 1 w) = p
  have hproom : roomOf p room = { roomOf (poppedState s room 1 w) room with hold := .sync n (fld w 25 20) (fld w 63 32) (upBeat s) none } := by
    rw [← hp, roomOf_modRoom]
  have hpbeat : upBeat p = upBeat s := by rw [← hp]; exact upBeat_poppedState (k := 1)
  have hpothers : otherRooms s p [room] := by rw [← hp]; exact otherRooms_modRoom _ otherRooms_poppedState
  have hpstore : p.store = s.store := by rw [← hp]; exact poppedState_store (k := 1)
  have hroom : roomOf (noteArrival room p) room = { roomOf (poppedState s room 1 w) room with
      hold := .sync n (fld w 25 20) (fld w 63 32) (upBeat s) (if (roomOf s room).inflight = [] ∧ (roomOf s room).narrow = [] then some (upBeat s) else none)
      ctr := (roomOf s room).ctr, inflight := (roomOf s room).inflight } := by
    rw [noteArrival_room, hproom, hpbeat, roomOf_poppedState]
    simp only [List.isEmpty_iff]
    split <;> rfl
  have hsteered := steered_slotPart (n := n) hroom (fun r hr => (noteArrival_room_ne room p r (by simpa using hr)).trans (hpothers r hr))
    (by rw [noteArrival_store', hpstore])
  exact ⟨hsteered.issued, hsteered.unworked, hsteered.inflight, hsteered.hold⟩

theorem hint_issues (h : CanIssue s room 15 1 w none t i n) : answers (.hint room w) s fun u => Issued s u room 1 n w ∧ unworked s u room ∧
    (roomOf u room).inflight = (roomOf s room).inflight ∧ ∀ rec : HintRec, rec = ⟨fld w 23 20, t.ctx, fld w 31 24, fld w 51 48, upBeat s + fld w 47 32⟩ →
      (fld w 23 20 = 1 → (hallPow u (room / 16)).phase = some rec) ∧ (fld w 23 20 = 2 → (hallPow u (room / 16)).ahead = some rec) ∧
      (fld w 23 20 = 3 → (hallPow u (room / 16)).barrier = some rec) := by
  refine answers_tile h rfl ?_
  have hsteered := steered_slotPart (n := n) (b := hintHall (room / 16) (fld w 23 20) t.ctx (fld w 31 24) (fld w 51 48) (fld w 47 32) (poppedState s room 1 w))
    (hold := (roomOf s room).hold) (ctr := (roomOf s room).ctr) (fs := (roomOf s room).inflight)
    (by rw [roomOf_of_rooms (hintHall_rooms ..), roomOf_poppedState]) (otherRooms_of_rooms (hintHall_rooms ..) otherRooms_poppedState)
    (by rw [hintHall_store, poppedState_store])
  refine ⟨hsteered.issued, hsteered.unworked, hsteered.inflight, ?_⟩
  rintro rec rfl
  rw [hallPow_slotPart]
  refine ⟨fun hkind => ?_, fun hkind => ?_, fun hkind => ?_⟩ <;> rw [hkind, hintHall, upBeat_poppedState]
  · exact hallPow_phaseStart ..
  · rw [hallPow_modHall]
  · rw [hallPow_modHall]

theorem stuff_issues (h : CanIssue s room 16 1 w none t i n) : answers (.stuff room w) s fun u =>
    Issued s u room 1 n w ∧ inFlight s u room (issuedOp s room n w 0 0) ∧ unworked s u room :=
  answers_tile h rfl ⟨steered_issuedState.issued, steered_issuedState.inflight, steered_issuedState.unworked⟩

theorem bkt_issues (h : CanIssue s room 17 1 w none t i n) {size target : Nat}
    (hbucket : bucketOf i.reams w (tabGet 0 (roomOf s room).g (fld w 23 20)).toNat = some (size, target)) :
    answers (.bkt room w) s fun u => (roomOf u room).opBuf = [] ∧ (roomOf u room).fetchNext = target ∧
      (roomOf u room).g = slotInto (roomOf s room).g (setG (roomOf s room).g (fld w 35 32) (BitVec.ofNat 32 size)) w ∧ unworked s u room ∧ otherRooms s u [room] := by
  refine answers_tile h rfl ?_
  rw [show bucketOf (envOf s t i room n 17).reams w (tabGet 0 (roomOf s room).g (fld w 23 20)).toNat = some (size, target) from hbucket]
  dsimp only
  refine ⟨?_, ?_, ?_, ⟨by simp, ?_, ?_, ?_, ?_⟩, otherRooms_slotPart (by simp) (otherRooms_modRoom _ otherRooms_poppedState)⟩
  all_goals simp [slotPart_room]

theorem wait_issues (h : CanIssue s room 18 1 w none t i n) : answers (.wait room w) s fun u => Issued s u room 1 n w ∧ unworked s u room ∧
    (roomOf u room).inflight = (roomOf s room).inflight ∧
    (fld w 47 32 ≤ tabGet 0 (roomOf s room).ctr (fld w 23 20) → (roomOf u room).hold = (roomOf s room).hold ∧
      tabGet 0 (roomOf u room).ctr (fld w 23 20) = tabGet 0 (roomOf s room).ctr (fld w 23 20) - fld w 47 32) ∧
    (tabGet 0 (roomOf s room).ctr (fld w 23 20) < fld w 47 32 → (roomOf u room).ctr = (roomOf s room).ctr ∧
      (roomOf u room).hold = .wait n (fld w 23 20) (fld w 47 32) (upBeat s)) := by
  refine answers_tile h rfl ?_
  dsimp only
  split
  case isTrue hcount =>
    have hsteered := steered_slotPart (n := n) (hold := (roomOf s room).hold) (fs := (roomOf s room).inflight)
      (ctr := tabPut 0 (roomOf s room).ctr (fld w 23 20) (tabGet 0 (roomOf s room).ctr (fld w 23 20) - fld w 47 32))
      (b := modRoom room (fun y => { y with ctr := tabPut 0 y.ctr (fld w 23 20) (tabGet 0 y.ctr (fld w 23 20) - fld w 47 32) }) (poppedState s room 1 w))
      (by rw [roomOf_modRoom, roomOf_poppedState]) (otherRooms_modRoom _ otherRooms_poppedState) (poppedState_store (k := 1))
    refine ⟨hsteered.issued, hsteered.unworked, hsteered.inflight, fun _ => ⟨hsteered.hold, ?_⟩, fun hless => absurd hcount (Nat.not_le.2 hless)⟩
    rw [hsteered.ctr, tabGet_put, if_pos rfl]
  case isFalse hcount =>
    have hsteered := steered_slotPart (n := n) (hold := .wait n (fld w 23 20) (fld w 47 32) (upBeat s)) (fs := (roomOf s room).inflight) (ctr := (roomOf s room).ctr)
      (b := modRoom room (fun y => { y with hold := .wait n (fld w 23 20) (fld w 47 32) (upBeat s) }) (poppedState s room 1 w))
      (by rw [roomOf_modRoom, roomOf_poppedState]) (otherRooms_modRoom _ otherRooms_poppedState) (poppedState_store (k := 1))
    exact ⟨hsteered.issued, hsteered.unworked, hsteered.inflight, fun hle => absurd hle hcount, fun _ => ⟨hsteered.ctr, hsteered.hold⟩⟩

theorem endOp_issues (h : CanIssue s room 20 1 w none t i n) : answers (.endOp room w) s fun u => Issued s u room 1 n w ∧ unworked s u room ∧
    (roomOf u room).inflight = (roomOf s room).inflight ∧ (roomOf u room).hold = .ended := by
  have hsteered := steered_slotPart (n := n) (hold := .ended) (fs := (roomOf s room).inflight) (ctr := (roomOf s room).ctr)
    (b := modRoom room (fun y => { y with hold := .ended }) (poppedState s room 1 w))
    (by rw [roomOf_modRoom, roomOf_poppedState]) (otherRooms_modRoom _ otherRooms_poppedState) (poppedState_store (k := 1))
  exact answers_tile h rfl ⟨hsteered.issued, hsteered.unworked, hsteered.inflight, hsteered.hold⟩

/-- A `signal` that has issued and is sent leaves the ops in flight; what it does to its peer is `addSignal`. -/
theorem signalWork_issued (h : CanIssue s room 19 1 w none t i n) (us : List PaceUnit) (hcount : tabGet 0 (roomOf s (fld w 31 24)).ctr (fld w 23 20) ≠ 65535) :
    ∃ p, signalWork room (issuedOp s room n w 0 0) (takeAll us (issuedState s room 1 n w 0)) = addSignal (fld w 31 24) (fld w 23 20) p ∧
      roomOf p room = roomOf (poppedState s room 1 w) room ∧ otherRooms s p [room] ∧ p.store = s.store := by
  have hothers : otherRooms s (takeAll us (issuedState s room 1 n w 0)) [room] := fun r hr => (roomOf_takeAll ..).trans (otherRooms_issuedState r hr)
  have hctr : (roomOf (takeAll us (issuedState s room 1 n w 0)) (fld w 31 24)).ctr = (roomOf s (fld w 31 24)).ctr := by
    by_cases hself : fld w 31 24 = room
    · rw [hself, roomOf_takeAll, roomOf_issuedState, roomOf_poppedState]
    · rw [hothers _ (by simpa using hself)]
  refine ⟨_, if_neg (by rw [show (issuedOp s room n w 0 0).word = w from rfl, hctr]; exact hcount), ?_, otherRooms_modRoom _ hothers, ?_⟩
  · rw [roomOf_modRoom, roomOf_takeAll, roomOf_issuedState, roomOf_poppedState]
    dsimp only
    rw [filter_drop_last (f := issuedOp s room n w 0 0) h.order]
  · rw [modRoom_store, takeAll_store, issuedState_store]

theorem signal_sends (h : CanIssue s room 19 1 w none t i n) (hready : stepReady (issuedState s room 1 n w 0) room (issuedOp s room n w 0 0) = true)
    {dst c : Nat} (hdst : dst = fld w 31 24) (hc : c = fld w 23 20) (hcount : tabGet 0 (roomOf s dst).ctr c ≠ 65535) :
    answers (.signal room w) s fun u => Popped s u room 1 n w ∧ (roomOf u room).inflight = (roomOf s room).inflight ∧ otherRooms s u [room, dst] ∧ u.store = s.store ∧
      ((roomOf s dst).hold = .none → (roomOf u dst).hold = .none ∧ tabGet 0 (roomOf u dst).ctr c = tabGet 0 (roomOf s dst).ctr c + 1) ∧
      (∀ op k b, (roomOf s dst).hold = .wait op c k b → k ≤ tabGet 0 (roomOf s dst).ctr c + 1 →
        (roomOf u dst).hold = .none ∧ tabGet 0 (roomOf u dst).ctr c = tabGet 0 (roomOf s dst).ctr c + 1 - k) := by
  subst hdst hc
  refine answers_tile h rfl ?_
  rw [stepBody_poppedState h, if_pos hready, pacedStep, runStep_signal (roomTask_paced _ h) (issueReady_opcode h.ready)]
  obtain ⟨p, hp, hroom, hothers, hstore⟩ := signalWork_issued h (stepPace room (issuedOp s room n w 0 0)) hcount
  rw [hp]
  have hpeer : (roomOf p (fld w 31 24)).hold = (roomOf s (fld w 31 24)).hold ∧ (roomOf p (fld w 31 24)).ctr = (roomOf s (fld w 31 24)).ctr := by
    by_cases hself : fld w 31 24 = room
    · rw [hself, hroom, roomOf_poppedState]
      exact ⟨rfl, rfl⟩
    · rw [hothers _ (by simpa using hself)]
      exact ⟨rfl, rfl⟩
  obtain ⟨hold, ctr, hsent⟩ := addSignal_room (s := p) (fld w 31 24) (fld w 23 20) room
  rw [hroom, roomOf_poppedState] at hsent
  refine ⟨⟨?_, ?_, ?_, ?_⟩, ?_, otherRooms_slotPart (by simp) fun r hr => ?_, ?_, fun hfree => ?_, fun op k b hwait hk => ?_⟩
  · rw [slotPart_room, hsent]
  · rw [slotPart_room, hsent]
  · rw [slotPart_room, hsent]
  · rw [slotPart_room, hsent]; rfl
  · rw [slotPart_room, hsent]
  · simp only [List.mem_cons, List.not_mem_nil, or_false, not_or] at hr
    rw [addSignal_room_ne hr.2, hothers r (by simpa using hr.1)]
  · rw [slotPart_store, addSignal_store, hstore]
  · rw [(slotPart_hold_ctr ..).1, (slotPart_hold_ctr ..).2, ← hpeer.2]
    exact addSignal_free (hpeer.1.trans hfree)
  · rw [(slotPart_hold_ctr ..).1, (slotPart_hold_ctr ..).2, ← hpeer.2]
    exact addSignal_waiting (hpeer.1.trans hwait) (hpeer.2 ▸ hk)

end

/-- Settles O7: each op is its body between the words leaving the buffer and the scalar slot, and each clause reads that body's room. -/
theorem roomControlOpsComplete : Obligations.RoomControlOpsComplete := by
  rintro s room w t i n x a f rfl rfl rfl
  exact ⟨fun h => ⟨flip_issues h, waits_issued h rfl⟩, sync_issues, hint_issues, stuff_issues, fun h _ _ => bkt_issues h, wait_issues,
    fun h => ⟨waits_issued h rfl, fun hready _ _ => signal_sends h hready⟩, endOp_issues⟩

end Sys2Proof.Machine

/-!
What time brings to rooms: late releases (02 R49, R50), waits that expire (06 R198), handshakes that are not acknowledged (02 R39, 17 R487, R499), and what annexes answer or fail
to answer (07 R218, 12 R353, R356).
-/
namespace Sys2Proof.Machine

section
variable {s a b u : State} {room n : Nat} {t : Task} {i : Image}

/-! A fault of a room without one (06 R199). -/

theorem raiseFault_roomFault {op opc code iter line : Nat} (hnone : (roomOf s room).fault = none) (hline : faultLine code line = line) :
    roomFault (raiseFault room op opc code iter line s) room op opc code iter line := by
  rw [roomFault, raiseFault_room hnone, hline]

theorem otherRooms_raiseFault {op opc code iter line : Nat} (h : a.rooms = s.rooms) : otherRooms s (raiseFault room op opc code iter line a) [room] :=
  fun r hr => (raiseFault_room_ne r (by simpa using hr)).trans (roomOf_of_rooms h r)

/-! A late release. -/

/-- The rooms go on, SYNC_LATE is set, and the interrupt is raised (02 R49, R50). -/
def lateRelease (rs : List Nat) (s : State) : State := raiseInt 6 (modPace (fun p => { p with syncLate := true }) (releaseSync rs s))

@[simp] theorem lateRelease_pace (rs : List Nat) (s : State) : (lateRelease rs s).pace.syncLate = true := by simp [lateRelease]

theorem lateRelease_hold {rs : List Nat} {r : Nat} (hr : r ∈ rs) : (roomOf (lateRelease rs s) r).hold = .none := by
  have hrooms : (lateRelease rs s).rooms = (releaseSync rs s).rooms := by simp [lateRelease]
  rw [roomOf_of_rooms hrooms, releaseSync_room, if_pos hr]

theorem taskOf_lateRelease (rs : List Nat) (n : Nat) : taskOf (lateRelease rs s) n = taskOf s n :=
  taskOf_of_tasks (by simp [lateRelease, (releaseSync_steward rs s).1]) n

theorem syncReleaseEff_late {group due : Nat} (hrun : runningTask s n = some (t, i)) (hdue : syncDue s t i group = some (due, true)) : syncReleaseEff s n group =
    if usesFabric i then haltTask n 0x601 (some (plainFault 0x601)) false (lateRelease (syncRooms i t group) s) else lateRelease (syncRooms i t group) s := by
  unfold syncReleaseEff
  rw [hrun]
  dsimp only
  rw [hdue]
  rfl

theorem syncRelease_late {group due : Nat} (hready : syncReady s n group = true) (hrun : runningTask s n = some (t, i))
    (hdue : syncDue s t i group = some (due, true)) : answers (.syncRelease n group) s fun u =>
      (∀ r ∈ syncRooms i t group, (roomOf u r).hold = .none) ∧ u.pace.syncLate = true ∧
      (usesFabric i = true → ∃ v, taskOf u n = some v ∧ v.halting = true ∧ v.status = 0x601) := by
  refine answers_due rfl hready ?_
  rw [syncReleaseEff_late hrun hdue]
  split
  case isTrue huses =>
    obtain ⟨htask, hlaunched, hgoing⟩ := runningTask_some hrun
    refine ⟨fun r hr => ?_, by rw [haltTask_pace, lateRelease_pace], fun _ => haltTask_task ((taskOf_lateRelease _ n).trans htask) hlaunched hgoing⟩
    rw [roomOf_of_rooms (haltTask_rooms ..)]
    exact lateRelease_hold hr
  case isFalse huses => exact ⟨fun r hr => lateRelease_hold hr, lateRelease_pace .., fun h => absurd h huses⟩

/-! A wait that has lasted 65,536 beats. -/

theorem waitExpired_faults {op opc since : Nat} (hroom : hasRoom s room = true) (hready : waitExpiredReady s room = true)
    (hwait : waitSince (roomOf s room) = some (op, opc, since)) :
    answers (.waitExpired room) s fun u => roomFault u room op opc 0x305 0 0 ∧ u.store = s.store ∧ otherRooms s u [room] := by
  have hruns : roomRuns s room = true := by
    simp only [waitExpiredReady, hwait, Bool.and_eq_true] at hready
    exact hready.1
  obtain ⟨-, -, -, -, -, -, -, -, hnone⟩ := roomRuns_some hruns
  refine answers_dueAt rfl hroom hready ?_
  rw [waitExpiredEff, hwait]
  exact ⟨raiseFault_roomFault hnone rfl, raiseFault_store .., otherRooms_raiseFault rfl⟩

/-! A handshake that is not acknowledged. -/

/-- The room whose task meets the stage has the fault, where it holds a task; `a` is the state in which the unit has been blamed or the stage cut off. -/
def handshakeFault (s : State) (r : Nat) (a : State) : State := if (roomOf s r).task.isSome then raiseFault r 0 0 0xD01 0 0 a else a

theorem handshakeFault_leaves (s : State) (r : Nat) (a : State) :
    (handshakeFault s r a).health = a.health ∧ (handshakeFault s r a).steward.healthSt = a.steward.healthSt := by
  unfold handshakeFault
  split
  · exact ⟨raiseFault_health .., (raiseFault_leaves ..).steward_healthSt (by decide)⟩
  · exact ⟨rfl, rfl⟩

theorem handshakeFault_roomFault {r : Nat} (hrooms : a.rooms = s.rooms) (htask : (roomOf s r).task.isSome = true) (hnone : (roomOf s r).fault = none) :
    roomFault (handshakeFault s r a) r 0 0 0xD01 0 0 := by
  rw [handshakeFault, if_pos htask]
  exact raiseFault_roomFault ((congrArg Room.fault (roomOf_of_rooms hrooms r)).trans hnone) rfl

theorem otherRooms_handshakeFault {r : Nat} (hrooms : a.rooms = s.rooms) : otherRooms s (handshakeFault s r a) [r] := by
  unfold handshakeFault
  split
  · exact otherRooms_raiseFault hrooms
  · exact fun k _ => roomOf_of_rooms hrooms k

theorem setHealth_healthSt (h : Nat) (s : State) : (setHealth h s).steward.healthSt = h := by
  unfold setHealth
  split
  · assumption
  · exact (raiseInt_leaves ..).steward_healthSt (by decide)

theorem blame_recorded (k i code : Nat) (room task : Option Nat) (check : Option Mismatch) (s : State) :
    (blame k i code room task check s).health.attribs = s.health.attribs ++ [⟨k, i, code, room, task, check⟩] ∧
      (blame k i code room task check s).steward.healthSt = 2 := by
  refine ⟨?_, setHealth_healthSt ..⟩
  rw [blame, setHealth_health]
  rfl

theorem blame_rooms (k i code : Nat) (room task : Option Nat) (check : Option Mismatch) (s : State) : (blame k i code room task check s).rooms = s.rooms :=
  (blame_only (P := (· ≠ .rooms)) (by simp) (by simp) (by simp) (by simp) k i code room task check only_refl).rooms (by simp)

theorem handshakeEff_unit {k i r : Nat} (hr : r = (unitRoom s k i).getD room) :
    handshakeEff s room (.unit k i) = handshakeFault s r (blame k i 0xD01 (some r) (roomOf s r).task none s) := by
  rw [hr]
  rfl

theorem handshake_unit {ticks k i r : Nat} (hbuilt : stageBuilt s.params (unitExists s) (.unit k i) = true) (hready : handshakeReady s room (.unit k i) ticks = true)
    (hr : r = (unitRoom s k i).getD room) : answers (.handshakeTimeout room (.unit k i) ticks) s fun u =>
      u.health.attribs = s.health.attribs ++ [⟨k, i, 0xD01, some r, (roomOf s r).task, none⟩] ∧ u.steward.healthSt = 2 ∧
      ((roomOf s r).task.isSome = true → (roomOf s r).fault = none → roomFault u r 0 0 0xD01 0 0) ∧ otherRooms s u [r] := by
  refine answers_dueAt rfl hbuilt hready ?_
  rw [handshakeEff_unit hr, (handshakeFault_leaves ..).1, (handshakeFault_leaves ..).2, (blame_recorded ..).1, (blame_recorded ..).2]
  exact ⟨rfl, rfl, handshakeFault_roomFault (blame_rooms ..), otherRooms_handshakeFault (blame_rooms ..)⟩

/-! A failed stage outside the units. -/

theorem markExhausted_health (hold : Bool) (s : State) :
    (markExhausted hold s).health = { s.health with exhausted := true, gone := s.health.gone || hold } := by
  dsimp only [markExhausted]
  split <;> simp

theorem dropBundles_health (bs : List Nat) (s : State) : (dropBundles bs s).health = s.health :=
  (dropBundles_only (P := (· ≠ .health)) (by simp) (by simp) (by simp) bs only_refl).health (by simp)

theorem modPorts_health (g : Nat) (f : Nat → Port → Port) (ps : List Nat) (s : State) : (modPorts g f ps s).health = s.health :=
  (modPorts_only (P := (· = .links)) rfl g f ps only_refl).health (by simp)

theorem gateDown_health (g : Nat) (s : State) : (gateDown g s).health = { s.health with gatesOut := g :: s.health.gatesOut } := by
  rw [gateDown, dropBundles_health, modPorts_health]
  rfl

theorem failStage_health (st : Stage) (s : State) : (∀ h ∈ hallsCut s.params (gateTraffic s) st, h ∈ (failStage st s).health.hallsOut) ∧
    (failStage st s).health.exhausted = true ∧ ∀ g, st = .gateCrossing g ∨ st = .gateDie g → g ∈ (failStage st s).health.gatesOut := by
  have hcut : ∀ h ∈ hallsCut s.params (gateTraffic s) st, h ∈ s.health.hallsOut ++ (hallsCut s.params (gateTraffic s) st).filter (!s.health.hallsOut.contains ·) := by
    intro h hh
    by_cases hout : h ∈ s.health.hallsOut <;> simp [hh, hout]
  refine ⟨?_, ?_, ?_⟩
  · cases st <;> simpa only [failStage, gateDown_health, markExhausted_health, modHealth_health] using hcut
  · cases st <;> simp only [failStage, gateDown_health, markExhausted_health]
  · rintro g (rfl | rfl) <;> simp [failStage, gateDown_health]

theorem failStage_rooms (st : Stage) (s : State) : (failStage st s).rooms = s.rooms :=
  (failStage_only (P := (· ≠ .rooms)) (by simp) (by simp) (by simp) (by simp) (by simp) (by simp) (by simp) st only_refl).rooms (by simp)

theorem handshakeEff_stage {st : Stage} (hunit : ∀ k i, st ≠ .unit k i) (hengine : ∀ e, st ≠ .engine e) :
    handshakeEff s room st = handshakeFault s room (failStage st s) := by
  cases st with
  | unit k i => exact absurd rfl (hunit k i)
  | engine e => exact absurd rfl (hengine e)
  | _ => rfl

theorem handshake_stage {st : Stage} {ticks : Nat} (hbuilt : stageBuilt s.params (unitExists s) st = true) (hready : handshakeReady s room st ticks = true)
    (hunit : ∀ k i, st ≠ .unit k i) (hengine : ∀ e, st ≠ .engine e) : answers (.handshakeTimeout room st ticks) s fun u =>
      (∀ h ∈ hallsCut s.params (gateTraffic s) st, h ∈ u.health.hallsOut) ∧ u.health.exhausted = true ∧
      (∀ g, st = .gateCrossing g ∨ st = .gateDie g → g ∈ u.health.gatesOut) ∧
      ((roomOf s room).task.isSome = true → (roomOf s room).fault = none → roomFault u room 0 0 0xD01 0 0) ∧ otherRooms s u [room] := by
  refine answers_dueAt rfl hbuilt hready ?_
  rw [handshakeEff_stage hunit hengine, (handshakeFault_leaves ..).1]
  obtain ⟨hcut, hexhausted, hgates⟩ := failStage_health st s
  exact ⟨hcut, hexhausted, hgates, handshakeFault_roomFault (failStage_rooms ..), otherRooms_handshakeFault (failStage_rooms ..)⟩

/-! Results of an annex. -/

theorem answers_annexResult {slot : Nat} {rs : List (BitVec 32)} {Q : State → Prop} (hroom : hasRoom s room = true) (hslot : slot < s.params.annexSlots)
    (hruns : roomRuns s room = true) (hthawed : s.shell.snap.frozen = false) (hsome : 1 ≤ rs.length) (hfew : rs.length ≤ 64) (hq : Q (annexResultEff s slot room rs)) :
    answers (.annexResult slot room rs) s Q :=
  answers_dueAt rfl (by simp [hroom, hslot]) (by simp [hruns, hthawed, hsome, hfew]) hq

/-- Results for which no press waits are discarded (12 R353). -/
theorem annexResultEff_discarded {slot : Nat} {rs : List (BitVec 32)} (h : ∀ j, (roomOf s room).annex = some j → j.slot ≠ slot) : annexResultEff s slot room rs = s := by
  unfold annexResultEff
  split
  case h_1 j hj => exact if_pos (h j hj)
  case h_2 => rfl

/-- The job of a press with further results, in order (12 R353). -/
def moreResults (j : AnnexJob) (rs : List (BitVec 32)) : AnnexJob := { j with results := (j.results ++ rs.map (·.toNat)).take j.sent.length }

theorem annexResultEff_joined {slot : Nat} {rs : List (BitVec 32)} {j : AnnexJob} (hj : (roomOf s room).annex = some j) (hslot : j.slot = slot) :
    annexResultEff s slot room rs = sendAllOn slot (room / 16)
      (if (moreResults j rs).toSend.isEmpty ∧ (moreResults j rs).results.length = (moreResults j rs).sent.length then settle room (finishAnnex s room (moreResults j rs))
        else modRoom room (fun y => { y with annex := some (moreResults j rs) }) s) := by
  unfold annexResultEff
  rw [hj]
  exact if_neg (not_not.2 hslot)

/-! A step's run enters the state. -/

theorem commitStep_ranInto {task : Nat} {q : Run × InFlight} (hfault : q.1.fault = none) : ranInto (commitStep room task q s) room q.1 := by
  have hroom : roomOf (commitStep room task q s) room = _ := (roomOf_setFlight ..).trans (by rw [roomOf_commit _ _ _ _ _ _ hfault])
  refine ⟨(setFlight_store ..).trans (commit_store ..), ?_, ?_, ?_⟩ <;> rw [hroom] <;> simp

theorem commitStep_annex {task : Nat} {q : Run × InFlight} (hfault : q.1.fault = none) :
    (roomOf (commitStep room task q s) room).annex = (roomOf s room).annex := by
  rw [commitStep, roomOf_setFlight, roomOf_commit _ _ _ _ _ _ hfault]

theorem otherRooms_commitStep {task : Nat} {q : Run × InFlight} (h : otherRooms s b [room]) : otherRooms s (commitStep room task q b) [room] :=
  otherRooms_setFlight fun r hr => (roomOf_commit_ne _ _ _ _ _ _ _ (by simpa using hr)).trans (h r hr)

/-- The step of the op whose results have all come: of a pair its block, of `rowf` its rows (07 R204, R217). -/
def annexStep (E : Env) (x : Room) (j : AnnexJob) (f : InFlight) (r : Run) : Run × InFlight :=
  if j.pairOp then blockStep E (matFields f.word) (pairFields f.word2) x.press (j.results.map (decodeFmt .fp32)) f r
  else (rowfAnswer E f.regs (rowfFields f.word) (j.results.map (decodeFmt .fp32)) r, { f with pos := f.total })

theorem finishAnnex_step {j : AnnexJob} {f : InFlight} (htask : roomTask s room = some (t, i)) (hflight : flightOf (roomOf s room) j.seq = some f) :
    finishAnnex s room j = commitStep room t.num (annexStep (envOf s t i room f.op f.opc) (roomOf s room) j f (runOf s (roomOf s room)))
      (modRoom room (fun y => { y with annex := none }) s) := by
  have htask' : roomTask (modRoom room (fun y => { y with annex := none }) s) room = some (t, i) := by
    rw [← htask]
    exact roomTask_congr (by rw [roomOf_modRoom]) rfl
  have hflight' : flightOf (roomOf (modRoom room (fun y => { y with annex := none }) s) room) j.seq = some f := by
    rw [roomOf_modRoom]
    exact hflight
  unfold finishAnnex annexStep
  dsimp only
  rw [htask', hflight', roomOf_modRoom]
  dsimp only
  split <;> rfl

/-! An annex that does not answer. -/

theorem annexSilent_press {j : AnnexJob} {e : AnnexElem} (hroom : hasRoom s room = true) (hruns : roomRuns s room = true)
    (hpress : silentPress s room = some (j, e)) :
    answers (.annexSilent room) s fun u => roomFault u room j.op (if j.pairOp then 3 else 8) 0x30B e.iter 0 ∧ otherRooms s u [room] := by
  obtain ⟨-, -, -, -, -, -, -, -, hnone⟩ := roomRuns_some hruns
  refine answers_dueAt rfl hroom (by simp [hruns, hpress]) ?_
  rw [annexSilentEff, hpress]
  exact ⟨raiseFault_roomFault hnone rfl, otherRooms_raiseFault rfl⟩

theorem annexSilent_port {p : StreamPort} (hroom : hasRoom s room = true) (hruns : roomRuns s room = true) (hpress : silentPress s room = none)
    (hport : silentPort s room = some p) (htask : (roomOf s room).task = some n) :
    answers (.annexSilent room) s fun u => ∃ v, taskOf u n = some v ∧ v.halting = true ∧ v.status = 0x30B := by
  obtain ⟨t, i, n', -, htask', hn, hlaunched, hgoing, -⟩ := roomRuns_some hruns
  obtain rfl : n' = n := Option.some.inj (htask'.symm.trans htask)
  refine answers_dueAt rfl hroom (by simp [hruns, hport]) ?_
  rw [annexSilentEff, hpress]
  dsimp only
  rw [htask]
  exact haltTask_task hn hlaunched hgoing

end

/-- Settles O11: each event is one effect on the room, its unit or its task, once its step is due. -/
theorem roomTimersComplete : Obligations.RoomTimersComplete := by
  rintro s room hroom x rfl
  refine ⟨fun n group t i b => syncRelease_late, fun hready op opc b => waitExpired_faults hroom hready, fun st ticks hbuilt hready => ⟨?_, handshake_stage hbuilt hready⟩,
    fun slot rs hslot hruns hthawed hsome hfew => ?_, fun hruns j e => annexSilent_press hroom hruns, fun hruns n p => annexSilent_port hroom hruns⟩
  · rintro k i r rfl hr
    exact handshake_unit hbuilt hready hr
  · have hanswers {Q : State → Prop} := answers_annexResult (Q := Q) hroom hslot hruns hthawed hsome hfew
    refine ⟨fun hnone => hanswers (annexResultEff_discarded hnone), fun j k hj hjob hk => ?_⟩
    obtain rfl : k = moreResults j rs := hk
    refine ⟨fun hopen => hanswers ?_, fun hsent hcomplete t i f E ann r htask hflight hE hann hr hfault => hanswers ?_⟩
    · rw [annexResultEff_joined hj hjob, if_neg (by simpa [List.isEmpty_iff, or_iff_not_imp_left] using hopen)]
      exact ⟨_, rfl, by rw [roomOf_modRoom], rfl, fun r hr => roomOf_modRoom_ne (by simpa using hr) ..⟩
    · subst hE hann
      obtain rfl : r = annexStep (envOf s t i room f.op f.opc) (roomOf s room) (moreResults j rs) f (runOf s (roomOf s room)) := hr
      rw [annexResultEff_joined hj hjob, if_pos ⟨List.isEmpty_iff.2 hsent, hcomplete⟩, finishAnnex_step htask hflight]
      exact ⟨_, rfl, by rw [commitStep_annex hfault, roomOf_modRoom], commitStep_ranInto hfault,
        otherRooms_commitStep fun r hr => roomOf_modRoom_ne (by simpa using hr) ..⟩

end Sys2Proof.Machine

/-!
Ranking (04 R121 to R123): the order of R121 is the linear order of a key, the k best records are those of one insertion pass that keeps k, and that pass forgets nothing by being
made list by list.
-/
namespace Sys2Proof.Machine

/-! The key of a record: its value's place, the best first, then its index (04 R121). -/

/-- The number that a finite value is. -/
def finRat (neg : Bool) (m : Nat) (e : Int) : ℚ := (if neg then -(m : ℚ) else m) * 2 ^ e

/-- The place of a value among all values: NaN below −∞ below the numbers below +∞, the numbers by what they are. -/
def valPlace : Val → ℤ ×ₗ ℚ
  | .nan => toLex (-2, 0)
  | .inf neg => toLex (if neg then -1 else 1, 0)
  | .fin neg m e => toLex (0, finRat neg m e)

/-- What R121 compares first: the value, or its magnitude. -/
def rankedVal (byMag : Bool) (v : Val) : Val := if byMag then vAbs v else v

/-- The key of a record: the lower key ranks first. -/
def rankKey (byMag : Bool) (x : Rank) : (ℤ ×ₗ ℚ)ᵒᵈ ×ₗ ℕ := toLex (OrderDual.toDual (valPlace (rankedVal byMag x.val)), x.index)

section
variable {byMag int : Bool} {k : Nat} {x y : Rank} {xs ys acc row : List Rank}

theorem rankKey_lt_iff : rankKey byMag x < rankKey byMag y ↔ valPlace (rankedVal byMag y.val) < valPlace (rankedVal byMag x.val) ∨
    valPlace (rankedVal byMag x.val) = valPlace (rankedVal byMag y.val) ∧ x.index < y.index := by
  simp [rankKey, Prod.Lex.toLex_lt_toLex]

theorem rankKey_eq_iff : rankKey byMag x = rankKey byMag y ↔ valPlace (rankedVal byMag x.val) = valPlace (rankedVal byMag y.val) ∧ x.index = y.index := by
  simp [rankKey]

/-- A significand scaled to a lower exponent stands for the same number. -/
theorem vScaled_mul_zpow (neg : Bool) (m : Nat) {e lo : Int} (h : lo ≤ e) : (vScaled neg m e lo : ℚ) * 2 ^ lo = finRat neg m e := by
  obtain ⟨d, rfl⟩ := Int.le.dest h
  have hscaled : (vScaled neg m (lo + d) lo : ℚ) = (if neg then -(m : ℚ) else m) * 2 ^ d := by
    cases neg <;> simp [vScaled, Nat.shiftLeft_eq]
  rw [finRat, hscaled, zpow_add₀ two_ne_zero, zpow_natCast]
  ring

/-- The comparison of two values that are no NaN is that of their places. -/
theorem vCmp_eq_ite {v w : Val} (hv : v ≠ .nan) (hw : w ≠ .nan) :
    vCmp v w = if valPlace v < valPlace w then -1 else if valPlace v = valPlace w then 0 else 1 := by
  match v, w with
  | .fin a m e, .fin b m' e' =>
    simp only [vCmp, valPlace]
    generalize hlo : (if e ≤ e' then e else e') = lo
    have hle : lo ≤ e ∧ lo ≤ e' := by split at hlo <;> omega
    have hpos : (0 : ℚ) < 2 ^ lo := by positivity
    simp only [Prod.Lex.toLex_lt_toLex, EmbeddingLike.apply_eq_iff_eq, Prod.mk.injEq, lt_irrefl, true_and, false_or, ← vScaled_mul_zpow a m hle.1,
      ← vScaled_mul_zpow b m' hle.2, mul_lt_mul_iff_left₀ hpos, mul_left_inj' hpos.ne', Int.cast_lt, Int.cast_inj, sub_neg, sub_eq_zero]
  | .inf a, .inf b => cases a <;> cases b <;> simp [vCmp, valPlace, Prod.Lex.toLex_lt_toLex]
  | .inf a, .fin b m e => cases a <;> simp [vCmp, valPlace, Prod.Lex.toLex_lt_toLex]
  | .fin a m e, .inf b => cases b <;> simp [vCmp, valPlace, Prod.Lex.toLex_lt_toLex]
  | .nan, _ => exact absurd rfl hv
  | _, .nan => exact absurd rfl hw

theorem rankedVal_eq_nan_iff {v : Val} : rankedVal byMag v = .nan ↔ v = .nan := by
  cases byMag <;> cases v <;> simp [rankedVal, vAbs]

theorem valPlace_nan_lt {v : Val} (h : v ≠ .nan) : valPlace .nan < valPlace v := by
  cases v with
  | nan => exact absurd rfl h
  | inf neg => cases neg <;> simp [valPlace, Prod.Lex.toLex_lt_toLex]
  | fin neg m e => simp [valPlace, Prod.Lex.toLex_lt_toLex]

theorem rankedVal_nan : rankedVal byMag .nan = .nan := rankedVal_eq_nan_iff.2 rfl

theorem ranksBefore_of_ne_nan (hx : x.val ≠ .nan) (hy : y.val ≠ .nan) : ranksBefore byMag x y =
    if vCmp (rankedVal byMag x.val) (rankedVal byMag y.val) = 1 then true
    else if vCmp (rankedVal byMag x.val) (rankedVal byMag y.val) = 0 then decide (x.index < y.index) else false := by
  unfold ranksBefore
  split
  · contradiction
  · contradiction
  · contradiction
  · cases byMag <;> rfl

/-- The order of R121 is that of the keys. -/
theorem ranksBefore_iff : ranksBefore byMag x y = true ↔ rankKey byMag x < rankKey byMag y := by
  rw [rankKey_lt_iff]
  by_cases hx : x.val = .nan <;> by_cases hy : y.val = .nan
  · simp [ranksBefore, hx, hy]
  · have hlt := valPlace_nan_lt (mt rankedVal_eq_nan_iff.1 hy : rankedVal byMag y.val ≠ .nan)
    simp [ranksBefore, hx, rankedVal_nan, hlt.not_gt, hlt.ne]
  · have hlt := valPlace_nan_lt (mt rankedVal_eq_nan_iff.1 hx : rankedVal byMag x.val ≠ .nan)
    simp [ranksBefore, hy, rankedVal_nan, hlt]
  · rw [ranksBefore_of_ne_nan hx hy, vCmp_eq_ite (mt rankedVal_eq_nan_iff.1 hx) (mt rankedVal_eq_nan_iff.1 hy)]
    rcases lt_trichotomy (valPlace (rankedVal byMag x.val)) (valPlace (rankedVal byMag y.val)) with h | h | h
    · simp [h, h.not_gt, h.ne]
    · simp [h]
    · simp [h, h.not_gt, h.ne']

/-! One insertion pass. -/

theorem rankInsert_cons : rankInsert byMag x (y :: ys) = if rankKey byMag x < rankKey byMag y then x :: y :: ys else y :: rankInsert byMag x ys := by
  simp only [rankInsert, ranksBefore_iff]

theorem rankInsert_comm_of_lt (hlt : rankKey byMag x < rankKey byMag y) (acc : List Rank) :
    rankInsert byMag y (rankInsert byMag x acc) = rankInsert byMag x (rankInsert byMag y acc) := by
  induction acc with
  | nil => simp [rankInsert, ranksBefore_iff, hlt, hlt.not_gt]
  | cons z zs ih =>
    by_cases hy : rankKey byMag y < rankKey byMag z
    · simp [rankInsert_cons, hy, hlt.trans hy, hlt, hlt.not_gt]
    · by_cases hx : rankKey byMag x < rankKey byMag z
      · simp [rankInsert_cons, hy, hx, hlt.not_gt]
      · simp [rankInsert_cons, hy, hx, ih]

theorem rankInsert_comm (h : rankKey byMag x = rankKey byMag y → x = y) (acc : List Rank) :
    rankInsert byMag y (rankInsert byMag x acc) = rankInsert byMag x (rankInsert byMag y acc) := by
  rcases lt_trichotomy (rankKey byMag x) (rankKey byMag y) with hlt | heq | hgt
  · exact rankInsert_comm_of_lt hlt acc
  · rw [h heq]
  · exact (rankInsert_comm_of_lt hgt acc).symm

/-- What ranks beyond the k best is never asked for again. -/
theorem take_rankInsert_take (x : Rank) (acc : List Rank) (k : Nat) : (rankInsert byMag x (acc.take k)).take k = (rankInsert byMag x acc).take k := by
  induction acc generalizing k with
  | nil => simp
  | cons z zs ih =>
    cases k with
    | zero => simp
    | succ k =>
      rw [List.take_succ_cons, rankInsert_cons, rankInsert_cons]
      split
      · cases k <;> simp [List.take_take]
      · simp [ih]

theorem rankInsert_of_le (h : ∀ z ∈ acc, rankKey byMag z ≤ rankKey byMag x) : rankInsert byMag x acc = acc ++ [x] := by
  induction acc with
  | nil => rfl
  | cons z zs ih =>
    rw [List.forall_mem_cons] at h
    rw [rankInsert_cons, if_neg h.1.not_gt, ih h.2, List.cons_append]

/-- The pass of `topK`, begun with the records `acc`. -/
def bestFrom (byMag : Bool) (k : Nat) (acc xs : List Rank) : List Rank := xs.foldl (fun acc x => (rankInsert byMag x acc).take k) acc

/-- The records are in the order of R121. -/
def ranked (byMag : Bool) (xs : List Rank) : Prop := xs.Pairwise fun x y => rankKey byMag x ≤ rankKey byMag y

/-- Only a record itself has its place in the order. -/
def placesDiffer (byMag : Bool) (xs : List Rank) : Prop := ∀ x ∈ xs, ∀ y ∈ xs, rankKey byMag x = rankKey byMag y → x = y

theorem bestFrom_append : bestFrom byMag k acc (xs ++ ys) = bestFrom byMag k (bestFrom byMag k acc xs) ys := List.foldl_append

theorem bestFrom_perm (h : placesDiffer byMag xs) (hp : xs.Perm ys) (acc : List Rank) : bestFrom byMag k acc xs = bestFrom byMag k acc ys :=
  hp.foldl_eq' (fun x hx y hy z => by rw [take_rankInsert_take, take_rankInsert_take, rankInsert_comm (h x hx y hy)]) acc

/-- Records that come in order are kept as they come. -/
theorem bestFrom_ranked (h : ranked byMag (acc ++ xs)) : bestFrom byMag k (acc.take k) xs = (acc ++ xs).take k := by
  induction xs generalizing acc with
  | nil => simp [bestFrom]
  | cons x xs ih =>
    have hlast : ∀ z ∈ acc, rankKey byMag z ≤ rankKey byMag x := fun z hz => (List.pairwise_append.1 h).2.2 z hz x (by simp)
    calc bestFrom byMag k (acc.take k) (x :: xs)
      _ = bestFrom byMag k ((rankInsert byMag x (acc.take k)).take k) xs := rfl
      _ = bestFrom byMag k ((acc ++ [x]).take k) xs := by rw [take_rankInsert_take, rankInsert_of_le hlast]
      _ = (acc ++ x :: xs).take k := by rw [ih (by simpa using h)]; simp

theorem mem_rankInsert {z : Rank} : z ∈ rankInsert byMag x acc ↔ z = x ∨ z ∈ acc := by
  induction acc with
  | nil => simp [rankInsert]
  | cons y ys ih =>
    rw [rankInsert_cons]
    split
    · simp
    · simp [ih, or_left_comm]

theorem ranked_rankInsert (h : ranked byMag acc) : ranked byMag (rankInsert byMag x acc) := by
  induction acc with
  | nil => simp [ranked, rankInsert]
  | cons y ys ih =>
    obtain ⟨hy, hys⟩ := List.pairwise_cons.1 h
    rw [rankInsert_cons]
    split
    case isTrue hlt => exact List.pairwise_cons.2 ⟨List.forall_mem_cons.2 ⟨hlt.le, fun z hz => hlt.le.trans (hy z hz)⟩, h⟩
    case isFalse hge =>
      refine List.pairwise_cons.2 ⟨fun z hz => ?_, ih hys⟩
      rcases mem_rankInsert.1 hz with rfl | hz
      · exact not_lt.1 hge
      · exact hy z hz

theorem ranked_bestFrom (h : ranked byMag acc) : ranked byMag (bestFrom byMag k acc xs) := by
  induction xs generalizing acc with
  | nil => exact h
  | cons x xs ih => exact ih ((ranked_rankInsert h).sublist (List.take_sublist ..))

theorem bestFrom_subset : bestFrom byMag k acc xs ⊆ acc ++ xs := by
  induction xs generalizing acc with
  | nil => simp [bestFrom]
  | cons x xs ih =>
    intro z hz
    rcases List.mem_append.1 (ih hz) with hz | hz
    · rcases mem_rankInsert.1 (List.mem_of_mem_take hz) with rfl | hz <;> simp [*]
    · simp [hz]

theorem length_bestFrom_le (h : acc.length ≤ k) : (bestFrom byMag k acc xs).length ≤ k := by
  induction xs generalizing acc with
  | nil => exact h
  | cons x xs ih => exact ih (List.length_take_le ..)

/-! The k best, with fillers after them (04 R122). -/

/-- The k best records of a row, short of k where the row is. -/
def best (byMag : Bool) (k : Nat) (xs : List Rank) : List Rank := bestFrom byMag k [] xs

/-- Filler records. -/
def fillers (int byMag : Bool) (n : Nat) : List Rank := List.replicate n (fillerRank int byMag)

theorem topK_eq : topK int byMag k xs = best byMag k xs ++ fillers int byMag (k - (best byMag k xs).length) := rfl

theorem best_append : best byMag k (xs ++ ys) = bestFrom byMag k (best byMag k xs) ys := bestFrom_append

theorem best_append_congr (h : best byMag k xs = best byMag k ys) (zs : List Rank) : best byMag k (xs ++ zs) = best byMag k (ys ++ zs) := by
  rw [best_append, best_append, h]

theorem best_perm (h : placesDiffer byMag xs) (hp : xs.Perm ys) : best byMag k xs = best byMag k ys := bestFrom_perm h hp []

theorem best_subset : best byMag k xs ⊆ xs := bestFrom_subset

theorem take_best : (best byMag k xs).take k = best byMag k xs := List.take_of_length_le (length_bestFrom_le (Nat.zero_le k))

theorem ranked_best : ranked byMag (best byMag k xs) := ranked_bestFrom List.Pairwise.nil

/-- The pass over its own result changes nothing. -/
theorem best_best : best byMag k (best byMag k xs) = best byMag k xs := by
  have h := bestFrom_ranked (k := k) (acc := []) (xs := best byMag k xs) ranked_best
  rwa [List.take_nil, List.nil_append, take_best] at h

theorem ranked_append_fillers (h : ranked byMag xs) (hlast : ∀ x ∈ xs, rankKey byMag x ≤ rankKey byMag (fillerRank int byMag)) (n : Nat) :
    ranked byMag (xs ++ fillers int byMag n) :=
  List.pairwise_append.2 ⟨h, List.pairwise_replicate.2 (.inr le_rfl), fun x hx y hy => by rw [List.eq_of_mem_replicate hy]; exact hlast x hx⟩

/-- A row and fillers enough rank as `topK` says. -/
theorem best_append_fillers {n : Nat} (hn : k ≤ n) (hlast : ∀ x ∈ xs, rankKey byMag x ≤ rankKey byMag (fillerRank int byMag)) :
    best byMag k (xs ++ fillers int byMag n) = topK int byMag k xs := by
  have hranked := ranked_append_fillers (ranked_best (k := k)) (fun x hx => hlast x (best_subset hx)) n
  rw [best_append, ← take_best, bestFrom_ranked hranked, List.take_append, take_best, fillers, List.take_replicate, min_eq_left (by omega), topK_eq, fillers]

/-! Lists merged. -/

/-- Records among which rows and fillers can be merged: no two share a place, and the filler, one of them, has the last one. -/
structure Mergeable (int byMag : Bool) (all : List Rank) : Prop where
  differ : placesDiffer byMag all
  last   : ∀ x ∈ all, rankKey byMag x ≤ rankKey byMag (fillerRank int byMag)
  filler : fillerRank int byMag ∈ all

namespace Mergeable

variable {all : List Rank} {lists : List (List Rank)}

theorem fillers_append_subset (h : Mergeable int byMag all) (hxs : xs ⊆ all) (n : Nat) : fillers int byMag n ++ xs ⊆ all :=
  List.append_subset.2 ⟨List.replicate_subset.2 (.inr h.filler), hxs⟩

theorem topK_subset (h : Mergeable int byMag all) (hxs : xs ⊆ all) : topK int byMag k xs ⊆ all := by
  rw [topK_eq]
  exact List.Subset.trans List.perm_append_comm.subset (h.fillers_append_subset (List.Subset.trans best_subset hxs) _)

theorem merged_subset (h : Mergeable int byMag all) (hlists : lists.flatten ⊆ all) : (lists.map (topK int byMag k)).flatten ⊆ all := by
  intro z hz
  obtain ⟨l', hl', hz⟩ := List.mem_flatten.1 hz
  obtain ⟨l, hl, rfl⟩ := List.mem_map.1 hl'
  exact h.topK_subset (fun x hx => hlists (List.mem_flatten_of_mem hl hx)) hz

/-- Among such records the order in which they come does not show. -/
theorem best_perm (h : Mergeable int byMag all) (hxs : xs ⊆ all) (hp : xs.Perm ys) : best byMag k xs = best byMag k ys :=
  Machine.best_perm (fun x hx y hy => h.differ x (hxs hx) y (hxs hy)) hp

theorem topK_eq_best (h : Mergeable int byMag all) (hxs : xs ⊆ all) : topK int byMag k xs = best byMag k (fillers int byMag k ++ xs) := by
  rw [← best_append_fillers le_rfl fun x hx => h.last x (hxs hx)]
  exact (h.best_perm (h.fillers_append_subset hxs k) List.perm_append_comm).symm

theorem topK_topK (h : Mergeable int byMag all) (hxs : xs ⊆ all) : topK int byMag k (topK int byMag k xs) = topK int byMag k xs := by
  calc topK int byMag k (topK int byMag k xs)
    _ = best byMag k (topK int byMag k xs ++ fillers int byMag k) := (best_append_fillers le_rfl fun x hx => h.last x (h.topK_subset hxs hx)).symm
    _ = best byMag k (best byMag k xs ++ fillers int byMag (k - (best byMag k xs).length + k)) := by
      rw [topK_eq, List.append_assoc, fillers, fillers, fillers, List.replicate_add]
    _ = best byMag k (xs ++ fillers int byMag (k - (best byMag k xs).length + k)) := best_append_congr best_best _
    _ = topK int byMag k xs := best_append_fillers (by omega) fun x hx => h.last x (hxs hx)

/-- Beside fillers, the k best of each list stand for the lists. -/
theorem best_merged (h : Mergeable int byMag all) (hlists : lists.flatten ⊆ all) :
    best byMag k (fillers int byMag k ++ (lists.map (topK int byMag k)).flatten) = best byMag k (fillers int byMag k ++ lists.flatten) := by
  induction lists with
  | nil => rfl
  | cons l ls ih =>
    obtain ⟨hl, hls⟩ := List.append_subset.1 hlists
    have htop : best byMag k (fillers int byMag k ++ topK int byMag k l) = best byMag k (fillers int byMag k ++ l) := by
      rw [← h.topK_eq_best (h.topK_subset hl), h.topK_topK hl, h.topK_eq_best hl]
    have hcomm {as bs : List Rank} (has : as ⊆ all) (hbs : bs ⊆ all) :
        best byMag k (fillers int byMag k ++ (as ++ bs)) = best byMag k (fillers int byMag k ++ (bs ++ as)) :=
      h.best_perm (h.fillers_append_subset (List.append_subset.2 ⟨has, hbs⟩) k) (List.perm_append_comm.append_left _)
    have hmerged : (ls.map (topK int byMag k)).flatten ⊆ all := h.merged_subset hls
    rw [List.map_cons, List.flatten_cons, List.flatten_cons]
    calc best byMag k (fillers int byMag k ++ (topK int byMag k l ++ (ls.map (topK int byMag k)).flatten))
      _ = best byMag k (fillers int byMag k ++ (l ++ (ls.map (topK int byMag k)).flatten)) := by simpa using best_append_congr htop _
      _ = best byMag k (fillers int byMag k ++ ((ls.map (topK int byMag k)).flatten ++ l)) := hcomm hl hmerged
      _ = best byMag k (fillers int byMag k ++ (ls.flatten ++ l)) := by simpa using best_append_congr (ih hls) l
      _ = best byMag k (fillers int byMag k ++ (l ++ ls.flatten)) := hcomm hls hl

theorem topK_merged (h : Mergeable int byMag all) (hrow : row ⊆ all) (hsplit : row.Perm lists.flatten) :
    topK int byMag k (lists.map (topK int byMag k)).flatten = topK int byMag k row := by
  have hlists : lists.flatten ⊆ all := List.Subset.trans hsplit.symm.subset hrow
  rw [h.topK_eq_best (h.merged_subset hlists), h.best_merged hlists, h.topK_eq_best hrow]
  exact h.best_perm (h.fillers_append_subset hlists k) (hsplit.symm.append_left _)

end Mergeable

/-! Real records and fillers (04 R122). -/

theorem valPlace_vOfInt (i : Int) : valPlace (vOfInt i) = toLex (0, (i : ℚ)) := by
  rcases lt_or_ge i 0 with h | h
  · simp [valPlace, finRat, vOfInt, h, abs_of_neg]
  · simp [valPlace, finRat, vOfInt, h.not_gt, abs_of_nonneg h]

theorem valPlace_vAbs_vOfInt (i : Int) : valPlace (vAbs (vOfInt i)) = toLex (0, (|i| : ℚ)) := by
  simp [valPlace, finRat, vOfInt, vAbs]

theorem valPlace_vZero : valPlace vZero = toLex (0, 0) := by simp [valPlace, finRat, vZero]

theorem valPlace_nan_le (v : Val) : valPlace .nan ≤ valPlace v := by
  rcases eq_or_ne v .nan with rfl | h
  · exact le_rfl
  · exact (valPlace_nan_lt h).le

/-- No value ranks after a filler's, and a record whose value ranks as a filler's has its value and word. -/
def fillerIsLast (int byMag : Bool) (x : Rank) : Prop :=
  valPlace (rankedVal byMag (fillerRank int byMag).val) ≤ valPlace (rankedVal byMag x.val) ∧
    (valPlace (rankedVal byMag x.val) = valPlace (rankedVal byMag (fillerRank int byMag).val) → x.val = (fillerRank int byMag).val ∧ x.word = (fillerRank int byMag).word)

theorem fillerIsLast_float (hword : x.word = fp32Code x.val) : fillerIsLast false byMag x := by
  have hfiller : (fillerRank false byMag).val = .nan := rfl
  rw [fillerIsLast, hfiller, rankedVal_nan]
  refine ⟨valPlace_nan_le _, fun h => ?_⟩
  have hnan : x.val = .nan := by
    by_contra hne
    exact (valPlace_nan_lt (mt rankedVal_eq_nan_iff.1 hne)).ne' h
  rw [hword, hnan]
  exact ⟨rfl, rfl⟩

theorem fillerIsLast_int {i : Int} (hlow : -2 ^ 31 ≤ i) (hval : x.val = vOfInt i) (hword : x.word = codeOfInt 32 i) : fillerIsLast true false x := by
  have hfiller : valPlace (rankedVal false (fillerRank true false).val) = toLex (0, (int32Min : ℚ)) := valPlace_vOfInt int32Min
  have hx : valPlace (rankedVal false x.val) = toLex (0, (i : ℚ)) := (congrArg valPlace hval).trans (valPlace_vOfInt i)
  rw [fillerIsLast, hfiller, hx, hval, hword]
  have hmin : int32Min ≤ i := hlow
  refine ⟨by simpa [Prod.Lex.toLex_le_toLex] using hmin, fun h => ?_⟩
  obtain rfl : i = int32Min := by simpa using h
  exact ⟨rfl, by decide⟩

theorem fillerIsLast_magnitude {i : Int} (hval : x.val = vOfInt i) (hword : x.word = codeOfInt 32 i) : fillerIsLast true true x := by
  have hfiller : valPlace (rankedVal true (fillerRank true true).val) = toLex (0, 0) := valPlace_vZero
  have hx : valPlace (rankedVal true x.val) = toLex (0, (|i| : ℚ)) := (congrArg (valPlace ∘ vAbs) hval).trans (valPlace_vAbs_vOfInt i)
  rw [fillerIsLast, hfiller, hx, hval, hword]
  refine ⟨by simp [Prod.Lex.toLex_le_toLex], fun h => ?_⟩
  obtain rfl : i = 0 := by simpa using h
  exact ⟨rfl, by decide⟩

theorem fillerIsLast_of_realRecord (hx : realRecord int x) : fillerIsLast int byMag x := by
  obtain ⟨-, hx⟩ := hx
  cases int with
  | false => exact fillerIsLast_float hx
  | true =>
    obtain ⟨i, hlow, -, hval, hword⟩ := hx
    cases byMag with
    | false => exact fillerIsLast_int hlow hval hword
    | true => exact fillerIsLast_magnitude hval hword

theorem fillerRank_index : (fillerRank int byMag).index = 0xFFFFFFFF := by cases int <;> cases byMag <;> rfl

theorem rankKey_le_filler (hx : realRecord int x) : rankKey byMag x ≤ rankKey byMag (fillerRank int byMag) := by
  have hindex := hx.1
  rw [← not_lt, rankKey_lt_iff, fillerRank_index]
  rintro (h | ⟨-, h⟩)
  · exact h.not_ge (fillerIsLast_of_realRecord hx).1
  · omega

theorem eq_filler_of_rankKey_eq (hx : realRecord int x) (h : rankKey byMag x = rankKey byMag (fillerRank int byMag)) : x = fillerRank int byMag := by
  obtain ⟨hplace, hindex⟩ := rankKey_eq_iff.1 h
  obtain ⟨hval, hword⟩ := (fillerIsLast_of_realRecord hx).2 hplace
  calc x
    _ = ⟨x.val, x.index, x.word⟩ := rfl
    _ = fillerRank int byMag := by rw [hval, hindex, hword]

theorem mergeable_of_row (hreal : ∀ x ∈ row, realRecord int x) (hindex : (row.map (·.index)).Nodup) : Mergeable int byMag (fillerRank int byMag :: row) where
  differ x hx y hy h := by
    rcases List.mem_cons.1 hx with rfl | hx <;> rcases List.mem_cons.1 hy with rfl | hy
    · rfl
    · exact (eq_filler_of_rankKey_eq (hreal y hy) h.symm).symm
    · exact eq_filler_of_rankKey_eq (hreal x hx) h
    · exact List.inj_on_of_nodup_map hindex hx hy (rankKey_eq_iff.1 h).2
  last := List.forall_mem_cons.2 ⟨le_rfl, fun x hx => rankKey_le_filler (hreal x hx)⟩
  filler := List.mem_cons_self

end

/-- Settles O54: a filler and the row's records have each its own place in the order of R121, so the pass over the lists' k best keeps what the pass over the row keeps. -/
theorem mergedListsRankAsOneRow : Obligations.MergedListsRankAsOneRow := fun _ _ _ _ _ hreal hindex hsplit =>
  (mergeable_of_row hreal hindex).topK_merged (List.subset_cons_self _ _) hsplit

end Sys2Proof.Machine

/-!
The tile ops that take their data elsewhere or do nothing: `rowf` with an annex function (07 R218), `lds` from the relay port (05 R140, 06 R179, 09 R263), and a `chute` that does
nothing in beater mode (04 R110).
-/
namespace Sys2Proof.Machine

section
variable {s u : State} {room opc k n : Nat} {w w2 : OpWord} {t : Task} {i : Image}

/-! What the other presses of a hall have in a slot's crossing (02 R62). -/

theorem sum_map_tabErase {α : Type} {F : Nat × α → Nat} {key : Nat} (hF : ∀ y, F (key, y) = 0) (t : Tab α) : ((tabErase t key).map F).sum = (t.map F).sum := by
  induction t with
  | nil => rfl
  | cons e t ih =>
    obtain ⟨k, v⟩ := e
    unfold tabErase
    split
    case isTrue h => subst h; simp [ih, hF]
    case isFalse h => simp [ih]

theorem sum_map_tabIns {α : Type} {F : Nat × α → Nat} {key : Nat} (hF : ∀ y, F (key, y) = 0) (t : Tab α) (x : α) :
    ((tabIns t key x).map F).sum = (t.map F).sum := by
  induction t with
  | nil => simp [tabIns, hF]
  | cons e t ih =>
    obtain ⟨k, v⟩ := e
    unfold tabIns
    split
    · simp [hF]
    · split
      case isTrue h => subst h; simp [hF]
      case isFalse h => simp [ih]

theorem crossingUsed_of_rooms (h : u.rooms = s.rooms) (slot : Nat) : crossingUsed u room slot = crossingUsed s room slot := by rw [crossingUsed, h, crossingUsed]

/-- A change of the room itself is none of the other presses. -/
theorem crossingUsed_modRoom (f : Room → Room) (s : State) (slot : Nat) : crossingUsed (modRoom room f s) room slot = crossingUsed s room slot := by
  unfold crossingUsed modRoom tabMod tabPut
  dsimp only
  split
  · exact sum_map_tabErase (by simp) _
  · exact sum_map_tabIns (by simp) _ _

theorem crossingUsed_issuedState (slot : Nat) : crossingUsed (issuedState s room k n w w2) room slot = crossingUsed s room slot := by
  have htaken : (takeAll (.roomCore room :: wholePace room w) s).rooms = s.rooms := by rw [takeAll_pace]
  rw [issuedState, engage, crossingUsed_of_rooms (endGaps_fields ..).1, crossingUsed_modRoom, popOps, crossingUsed_modRoom, crossingUsed_of_rooms htaken]

theorem crossingUsed_commitRun {op task : Nat} {r : Run} (hfault : r.fault = none) (slot : Nat) :
    crossingUsed (commitRun room op opc task r s) room slot = crossingUsed s room slot := by
  unfold commitRun
  rw [hfault]
  exact (crossingUsed_modRoom ..).trans (crossingUsed_of_rooms (by simp) slot)

/-! The beat stands while an op issues and its run enters the state. -/

theorem upBeat_issuedState : upBeat (issuedState s room k n w w2) = upBeat s := by
  rw [upBeat, issuedState, engage, (endGaps_fields ..).2.2.2.2.2.2.2.2, modRoom_time]
  exact upBeat_poppedState (k := k)

theorem commitRun_time (room op opc task : Nat) (r : Run) (s : State) : (commitRun room op opc task r s).time = s.time :=
  (commitRun_only (P := (· ≠ .time)) (by simp) (by simp) (by simp) (by simp) (by simp) (by simp) (by simp) room op opc task r only_refl).time (by simp)

/-! `rowf` with an annex function. -/

theorem runOf_poppedState (x : Room) : runOf (poppedState s room k w) x = runOf s x := by
  rw [poppedState, popOps, takeAll_pace]
  rfl

/-- The run of `rowf` has entered the state, and its elements are set out for the annex. -/
theorem rowfBody_annex (h : CanIssue s room 8 1 w none t i n) (hannex : fnUsesAnnex (rowfFields w).func = true) {q : Run × List AnnexElem}
    (hq : q = rowfElems (envOf s t i room n 8) (roomOf s room).g (rowfFields w) (runOf s (roomOf s room))) (hfault : q.1.fault = none) :
    rowfBody room w (envOf s t i room n 8) (roomOf s room) t n (poppedState s room 1 w) =
      startAnnex room (annexSlot (rowfFields w).table) false (issuedOp s room n w 0 0) q.2 (commitRun room n 8 t.num q.1 (issuedState s room 1 n w 0)) := by
  have hflight : flightOf (roomOf (commitRun room n 8 t.num q.1 (issuedState s room 1 n w 0)) room) (roomOf s room).issued = some (issuedOp s room n w 0 0) := by
    rw [roomOf_commit _ _ _ _ _ _ hfault]
    exact flightOf_append_last (f := issuedOp s room n w 0 0) (by rw [roomOf_issuedState]) h.order
  have hstate : engage room n (roomOf s room) w 0 0 (poppedState s room 1 w) = issuedState s room 1 n w 0 := rfl
  unfold rowfBody
  dsimp only
  rw [if_pos hannex, runOf_poppedState, ← hq, hstate, hfault, hflight]

theorem rowf_annex_issues (h : CanIssue s room 8 1 w none t i n) (hannex : fnUsesAnnex (rowfFields w).func = true) {q : Run × List AnnexElem}
    (hq : q = rowfElems (envOf s t i room n 8) (roomOf s room).g (rowfFields w) (runOf s (roomOf s room))) (hfault : q.1.fault = none) :
    answers (.rowf room w) s fun u => Issued s u room 1 n w ∧ inFlight s u room (issuedOp s room n w 0 0) ∧ u.store = q.1.st ∧
      (roomOf u room).annex = some (fillCrossing (crossingUsed s room (annexSlot (rowfFields w).table)) (upBeat s)
        ⟨n, (roomOf s room).issued, annexSlot (rowfFields w).table, false, q.2, [], []⟩) := by
  refine answers_tile h rfl ?_
  rw [rowfBody_annex h hannex hq hfault]
  generalize hc : commitRun room n 8 t.num q.1 (issuedState s room 1 n w 0) = c
  have hroom : roomOf c room = { roomOf (issuedState s room 1 n w 0) room with
      cells := q.1.cells, act := q.1.act, counts := q.1.counts, stats := q.1.stats, wide := q.1.wide, scale := q.1.scale, vec := q.1.vec, lanes := q.1.lanes,
      mismatch := keepMismatch q.1.mism (roomOf (issuedState s room 1 n w 0) room).mismatch } := by rw [← hc, roomOf_commit _ _ _ _ _ _ hfault]
  rw [roomOf_issuedState, roomOf_poppedState] at hroom
  have hothers : otherRooms s c [room] := by
    rw [← hc]
    exact fun r hr => (roomOf_commit_ne _ _ _ _ _ _ _ (by simpa using hr)).trans (otherRooms_issuedState r hr)
  have hstore : c.store = q.1.st := by rw [← hc, commit_store]
  have hused : crossingUsed c room (annexSlot (rowfFields w).table) = crossingUsed s room (annexSlot (rowfFields w).table) := by
    rw [← hc, crossingUsed_commitRun hfault, crossingUsed_issuedState]
  have hbeat : upBeat c = upBeat s := by rw [upBeat, ← hc, commitRun_time, ← upBeat, upBeat_issuedState]
  rw [startAnnex, hused, hbeat]
  refine ⟨issued_of ?_ ?_ ?_ ?_ (otherRooms_modRoom _ hothers), ?_, by rw [slotPart_store, modRoom_store, hstore], ?_⟩
  all_goals simp [inFlight, slotPart_room, hroom, issuedOp]

/-! `lds` from the relay port. -/

theorem runStep_lds {f : InFlight} (htask : roomTask s room = some (t, i)) (hopc : f.opc = 4) :
    runStep room f s = ldsWork room (envOf s t i room f.op f.opc) (roomOf s room) t f s := by
  unfold runStep
  rw [htask]
  dsimp only
  rw [hopc]
  rfl

/-- The cells of a room whose `lds` has written a word of tile `j`: with the tile's last word they hold the tile. -/
def relayedCells (l : LdsF) (j : RelayTile) (x : Room) : Tab Val :=
  if j.size ≤ j.taken + relayWord then loadGang x.cells x.act l.gang l.fmt (ldsPaired l) j.bytes else x.cells

theorem ldsWork_relay {f : InFlight} {j : RelayTile} (hrelay : (ldsFields f.word).relay = true) (hj : relayTaking (roomOf s room) = some j) (E : Env) :
    ldsWork room E (roomOf s room) t f s = setFlight room { f with pos := f.pos + 1 }
      (modRoom room (fun y => { y with cells := relayedCells (ldsFields f.word) j y, relay := takeTileWord y.relay }) s) := by
  unfold ldsWork
  dsimp only
  rw [if_pos hrelay, hj]
  rfl

theorem lds_relay_issues (h : CanIssue s room 4 1 w none t i n) (hrelay : (ldsFields w).relay = true)
    (hready : stepReady (issuedState s room 1 n w 0) room (issuedOp s room n w 0 0) = true) {j : RelayTile} (hj : relayTaking (roomOf s room) = some j) :
    answers (.lds room w) s fun u => Issued s u room 1 n w ∧ inFlight s u room (issuedOp s room n w 0 1) ∧ u.store = s.store ∧
      (roomOf u room).relay = takeTileWord (roomOf s room).relay ∧ (roomOf u room).cells = relayedCells (ldsFields w) j (roomOf s room) := by
  refine answers_tile h rfl ?_
  have htaken : roomOf (takeAll (stepPace room (issuedOp s room n w 0 0)) (issuedState s room 1 n w 0)) room = { roomOf (poppedState s room 1 w) room with
      inflight := (roomOf s room).inflight ++ [issuedOp s room n w 0 0] } := by rw [roomOf_takeAll, roomOf_issuedState]
  have hj' : relayTaking (roomOf (takeAll (stepPace room (issuedOp s room n w 0 0)) (issuedState s room 1 n w 0)) room) = some j := by
    rw [htaken, roomOf_poppedState]
    exact hj
  have hstep : pacedStep room (issuedOp s room n w 0 0) (issuedState s room 1 n w 0) = setFlight room (issuedOp s room n w 0 1)
      (modRoom room (fun y => { y with cells := relayedCells (ldsFields w) j y, relay := takeTileWord y.relay })
        (takeAll (stepPace room (issuedOp s room n w 0 0)) (issuedState s room 1 n w 0))) :=
    (runStep_lds (roomTask_paced _ h) (issueReady_opcode h.ready)).trans (ldsWork_relay (f := issuedOp s room n w 0 0) hrelay hj' _)
  rw [stepBody_poppedState h, if_pos hready, hstep]
  generalize hb : setFlight room _ _ = b
  have hroom : roomOf b room = { roomOf (poppedState s room 1 w) room with
      cells := relayedCells (ldsFields w) j (roomOf s room), relay := takeTileWord (roomOf s room).relay
      inflight := (roomOf s room).inflight ++ [issuedOp s room n w 0 1] } := by
    rw [← hb, roomOf_setFlight, roomOf_modRoom, htaken]
    dsimp only
    rw [map_replace_last (f := issuedOp s room n w 0 0) (g := issuedOp s room n w 0 1) rfl h.order, roomOf_poppedState]
    rfl
  have hothers : otherRooms s b [room] := by
    rw [← hb]
    exact otherRooms_setFlight (otherRooms_modRoom _ fun r hr => (roomOf_takeAll ..).trans (otherRooms_issuedState r hr))
  have hstore : b.store = s.store := by rw [← hb, setFlight_store, modRoom_store, takeAll_store, issuedState_store]
  rw [roomOf_poppedState] at hroom
  refine ⟨issued_of ?_ ?_ ?_ ?_ hothers, ?_, by rw [slotPart_store, hstore], ?_, ?_⟩
  all_goals simp [inFlight, slotPart_room, hroom]

/-- With every tile of the relay buffer wholly taken, no step of an `lds` from the relay port can go (05 R140). -/
theorem stepReady_relay_taken {f : InFlight} (hopc : f.opc = 4) (hrelay : (ldsFields f.word).relay = true)
    (htaken : ∀ j ∈ (roomOf s room).relay, j.size ≤ j.taken) : stepReady s room f = false := by
  have hnone : relayTaking (roomOf s room) = none := List.find?_eq_none.2 fun j hj => by simpa using htaken j hj
  have hwaits (E : Env) : stepWaits s E (roomOf s room) f = true := by
    unfold stepWaits
    rw [hopc]
    simp [hrelay, hnone, wordMissing]
  unfold stepReady
  split
  · rfl
  · simp [hwaits]

theorem lds_relay_waits (h : CanIssue s room 4 1 w none t i n) (hrelay : (ldsFields w).relay = true)
    (hwait : (∀ j ∈ (roomOf s room).relay, j.size ≤ j.taken) ∨ stepReady (issuedState s room 1 n w 0) room (issuedOp s room n w 0 0) = false) :
    answers (.lds room w) s fun u => Issued s u room 1 n w ∧ inFlight s u room (issuedOp s room n w 0 0) ∧ unworked s u room := by
  refine waits_issued h rfl ?_
  rcases hwait with htaken | hwait
  · refine stepReady_relay_taken (issueReady_opcode h.ready) hrelay ?_
    rw [roomOf_issuedState, roomOf_poppedState]
    exact htaken
  · exact hwait

/-! A `chute` that does nothing. -/

theorem chute_skip_issues (h : CanIssue s room 6 1 w none t i n) (hskip : chuteSkips (envOf s t i room n 6) (chuteFields w) = true) :
    answers (.chute room w) s fun u => Issued s u room 1 n w ∧ (roomOf u room).inflight = (roomOf s room).inflight ∧ unworked s u room := by
  refine answers_tile h rfl ?_
  rw [chuteBody, if_pos hskip]
  have hsteered := steered_slotPart (n := n) (b := poppedState s room 1 w) (hold := (roomOf s room).hold) (ctr := (roomOf s room).ctr)
    (fs := (roomOf s room).inflight) (by rw [roomOf_poppedState]) otherRooms_poppedState (poppedState_store (k := 1))
  exact ⟨hsteered.issued, hsteered.inflight, hsteered.unworked⟩

end

/-- Settles O6: the body of each form, between the op's words leaving the buffer and its scalar slot. -/
theorem tileFormsThatWait : Obligations.TileFormsThatWait := by
  rintro s room w t i n x rfl
  refine ⟨fun h hannex _ => rowf_annex_issues h hannex, fun h hrelay hready j hj => ?_, lds_relay_waits, chute_skip_issues⟩
  obtain ⟨u, hnext, hissued, hflight, hstore, hrelayed, hcells⟩ := lds_relay_issues h hrelay hready hj
  exact ⟨u, hnext, hissued, hflight, hstore, hrelayed, fun hmore => hcells.trans (if_neg (Nat.not_le.2 hmore)), fun hlast => hcells.trans (if_pos hlast)⟩

end Sys2Proof.Machine

/-!
What no step takes from a room: that g0 is zero (06 R160), and that its ops in flight have their places before those to come (06 R192). Each is kept without the other, so
one relation between a room and what becomes of it says both.
-/
namespace Sys2Proof.Machine

/-- What is kept from room `x` to room `y`: that g0 is zero, and, apart from it, the order of issue. -/
structure RoomKeeps (x y : Room) : Prop where
  zero  : tabGet 0 x.g 0 = 0 → tabGet 0 y.g 0 = 0
  order : (∀ f ∈ x.inflight, f.seq < x.issued) → ∀ f ∈ y.inflight, f.seq < y.issued

/-- It is kept from each room of a table to the same room of another. -/
def roomsKeep (a b : Tab Room) : Prop := ∀ r, RoomKeeps (tabGet roomZero a r) (tabGet roomZero b r)

section
variable {R : Tab Room} {s t u : State} {x y z : Room} {room n : Nat}

/-! One room. -/

theorem RoomKeeps.rfl : RoomKeeps x x := ⟨id, id⟩

theorem RoomKeeps.trans (h : RoomKeeps x y) (h' : RoomKeeps y z) : RoomKeeps x z := ⟨h'.zero ∘ h.zero, h'.order ∘ h.order⟩

/-- A change that leaves the registers, the ops in flight and their count. -/
theorem RoomKeeps.quiet (hg : y.g = x.g) (hflight : y.inflight = x.inflight) (hissued : y.issued = x.issued) : RoomKeeps x y :=
  ⟨by rw [hg]; exact id, by rw [hflight, hissued]; exact id⟩

theorem RoomKeeps.empty (hg : tabGet 0 y.g 0 = 0) (hflight : y.inflight = []) : RoomKeeps x y :=
  ⟨fun _ => hg, fun _ => by simp [hflight]⟩

/-- Ops leave, or are put back as their work goes on: each that is in flight has the place of one that was. -/
theorem RoomKeeps.flights (hg : y.g = x.g) (hissued : y.issued = x.issued) (hflight : ∀ f ∈ y.inflight, ∃ g ∈ x.inflight, f.seq = g.seq) : RoomKeeps x y := by
  refine ⟨by rw [hg]; exact id, fun h f hf => ?_⟩
  obtain ⟨g, hgx, hseq⟩ := hflight f hf
  rw [hseq, hissued]
  exact h g hgx

theorem RoomKeeps.write (d : Nat) (v : BitVec 32) (hg : y.g = setG x.g d v) (hflight : y.inflight = x.inflight) (hissued : y.issued = x.issued) : RoomKeeps x y :=
  ⟨fun h => by rw [hg]; exact setG_zero _ _ _ h, by rw [hflight, hissued]; exact id⟩

/-! All rooms, through the operations that the steps are made of. -/

theorem keeps_refl : roomsKeep R R := fun _ => .rfl

theorem keeps_ite {c : Prop} [Decidable c] (ht : roomsKeep R t.rooms) (hu : roomsKeep R u.rooms) : roomsKeep R (if c then t else u).rooms := by
  split <;> assumption

theorem keeps_foldl {α : Type} {g : State → α → State} (hg : ∀ s a, roomsKeep R s.rooms → roomsKeep R (g s a).rooms) (l : List α) (h : roomsKeep R s.rooms) :
    roomsKeep R (l.foldl g s).rooms := by
  induction l generalizing s with
  | nil => exact h
  | cons a l ih => exact ih (hg s a h)

theorem modRoom_keeps {f : Room → Room} (hf : RoomKeeps (roomOf s room) (f (roomOf s room))) (h : roomsKeep R s.rooms) : roomsKeep R (modRoom room f s).rooms := by
  intro r
  change RoomKeeps _ (roomOf (modRoom room f s) r)
  by_cases hr : r = room
  · subst hr
    rw [roomOf_modRoom]
    exact (h r).trans hf
  · rw [roomOf_modRoom_ne hr]
    exact h r

theorem modRoom_quiet {f : Room → Room} (h : roomsKeep R s.rooms) (hg : (f (roomOf s room)).g = (roomOf s room).g := by rfl)
    (hflight : (f (roomOf s room)).inflight = (roomOf s room).inflight := by rfl) (hissued : (f (roomOf s room)).issued = (roomOf s room).issued := by rfl) :
    roomsKeep R (modRoom room f s).rooms := modRoom_keeps (.quiet hg hflight hissued) h

theorem rooms_eq (h : changesOnly (· ≠ .rooms) s t) : t.rooms = s.rooms := h.rooms (by simp)

@[simp] theorem takeAll_rooms (us : List PaceUnit) (s : State) : (takeAll us s).rooms = s.rooms := by rw [takeAll_pace]
@[simp] theorem takeCycle_rooms (u : PaceUnit) (s : State) : (takeCycle u s).rooms = s.rooms := rooms_eq (takeCycle_only (by simp) u only_refl)
@[simp] theorem endGaps_rooms (room : Nat) (us : List Nat) (s : State) : (endGaps room us s).rooms = s.rooms := (endGaps_fields room us s).1
@[simp] theorem startGaps_rooms (room : Nat) (us : List Nat) (s : State) : (startGaps room us s).rooms = s.rooms := (startGaps_fields room us s).1
@[simp] theorem landCloses_rooms (s : State) : (landCloses s).rooms = s.rooms := rooms_eq (landCloses_only (by simp) (by simp) (by simp) (by simp) only_refl)
@[simp] theorem phaseEnd_rooms (h : Nat) (s : State) : (phaseEnd h s).rooms = s.rooms := rooms_eq (phaseEnd_only (by simp) h only_refl)
@[simp] theorem flushPorts_rooms (n : Nat) (s : State) : (flushPorts n s).rooms = s.rooms := rooms_eq (flushPorts_only (by simp) n only_refl)
@[simp] theorem commitAll_rooms (n : Nat) (rs : List Nat) (ps : List PointL) (s : State) : (commitAll n rs ps s).rooms = s.rooms :=
  rooms_eq (by apply commitAll_only (h := only_refl) <;> simp)
@[simp] theorem answerAborts_rooms (st code : Nat) (ms : List Nat) (s : State) : (answerAborts st code ms s).rooms = s.rooms :=
  rooms_eq (answerAborts_only (by simp) (by simp) (by simp) st code ms only_refl)
@[simp] theorem markEnded_rooms (n m : Nat) (s : State) : (markEnded n m s).rooms = s.rooms := rooms_eq (markEnded_only (by simp) n m only_refl)
@[simp] theorem tellMembers_rooms (t : Task) (k a : Nat) (p : List Byte) (ms : List MemberSt) (s : State) : (tellMembers t k a p ms s).rooms = s.rooms :=
  rooms_eq (tellMembers_only (by simp) t k a p ms only_refl)
@[simp] theorem sayHalted_rooms (t : Task) (s : State) : (sayHalted t s).rooms = s.rooms := rooms_eq (sayHalted_only (by simp) (by simp) t only_refl)
@[simp] theorem sendBack_rooms (t : Task) (s : State) : (sendBack t s).rooms = s.rooms := rooms_eq (sendBack_only (by simp) (by simp) (by simp) t only_refl)
@[simp] theorem resetAnswer_rooms (s : State) : (resetAnswer s).rooms = s.rooms := rooms_eq (resetAnswer_only (by simp) (by simp) (by simp) (by simp) only_refl)
@[simp] theorem scramble_rooms (rs : List (Nat × Nat)) (s : State) : (scramble rs s).rooms = s.rooms := rooms_eq (scramble_only (by simp) (by simp) rs only_refl)
@[simp] theorem launchVoid_rooms (n : Nat) (s : State) : (launchVoid n s).rooms = s.rooms := rooms_eq (launchVoid_only (by simp) n only_refl)
@[simp] theorem blameBank_rooms (code line : Nat) (s : State) : (blameBank code line s).rooms = s.rooms :=
  rooms_eq (blameBank_only (by simp) (by simp) (by simp) (by simp) code line only_refl)
@[simp] theorem setRepair_rooms (r : Repair) (st : Nat) (acts : List RepairAct) (s : State) : (setRepair r st acts s).rooms = s.rooms :=
  rooms_eq (setRepair_only (by simp) r st acts only_refl)
@[simp] theorem relocateFailed_rooms (k i : Nat) (s : State) : (relocateFailed k i s).rooms = s.rooms := rooms_eq (relocateFailed_only (by simp) k i only_refl)
@[simp] theorem noteTransient_rooms (k i : Nat) (s : State) : (noteTransient k i s).rooms = s.rooms :=
  rooms_eq (noteTransient_only (by simp) (by simp) (by simp) k i only_refl)
@[simp] theorem requeueAll_rooms (ns : List Nat) (s : State) : (requeueAll ns s).rooms = s.rooms := rooms_eq (requeueAll_only (by simp) (by simp) ns only_refl)
@[simp] theorem settleHealth_rooms (s : State) : (settleHealth s).rooms = s.rooms := rooms_eq (settleHealth_only (by simp) (by simp) (by simp) only_refl)
@[simp] theorem applyActs_rooms (h : Nat) (acts : List RepairAct) (s : State) : (applyActs h acts s).rooms = s.rooms :=
  rooms_eq (by apply applyActs_only (h := only_refl) <;> simp)
@[simp] theorem replaceMould_rooms (i : Nat) (s : State) : (replaceMould i s).rooms = s.rooms := rooms_eq (by apply replaceMould_only (h := only_refl) <;> simp)
@[simp] theorem mapSpare_rooms (h l : Nat) (s : State) : (mapSpare h l s).rooms = s.rooms := rooms_eq (mapSpare_only (by simp) (by simp) (by simp) h l only_refl)
@[simp] theorem powerUp_rooms (s : State) : (powerUp s).rooms = s.rooms := rooms_eq (powerUp_only (by simp) only_refl)
@[simp] theorem failWith_rooms (k : Nat) (s : State) : (failWith k s).rooms = s.rooms := rooms_eq (by apply failWith_only (h := only_refl) <;> simp)


/-! The work of a room. -/

theorem popOps_keeps (k : Nat) (h : roomsKeep R s.rooms) : roomsKeep R (popOps room k s).rooms :=
  modRoom_keeps ⟨id, fun hx f hf => Nat.lt_succ_of_lt (hx f hf)⟩ h

/-- An op that issues takes its place after the ops in flight, where its place is below the count of issues. -/
theorem engage_keeps {w w2 : OpWord} {pos : Nat} (hx : x.issued < (roomOf s room).issued) (h : roomsKeep R s.rooms) :
    roomsKeep R (engage room n x w w2 pos s).rooms := by
  unfold engage
  rw [endGaps_rooms]
  refine modRoom_keeps ⟨id, fun ho f hf => ?_⟩ h
  rcases List.mem_append.1 hf with hf | hf
  · exact ho f hf
  · rw [List.mem_singleton.1 hf]
    exact hx

theorem slotPart_keeps {w : OpWord} (h : roomsKeep R s.rooms) : roomsKeep R (slotPart room n x w s).rooms := by
  unfold slotPart
  dsimp only
  split
  · exact modRoom_quiet h
  · split
    · exact modRoom_keeps (.write _ _ rfl rfl rfl) h
    · exact h

theorem raiseFault_keeps {op opc code iter line : Nat} (h : roomsKeep R s.rooms) : roomsKeep R (raiseFault room op opc code iter line s).rooms := by
  unfold raiseFault
  refine modRoom_keeps ?_ h
  split
  · exact .rfl
  · exact .quiet rfl rfl rfl

theorem addSignal_keeps {c : Nat} (h : roomsKeep R s.rooms) : roomsKeep R (addSignal room c s).rooms := by
  unfold addSignal
  refine modRoom_keeps ?_ h
  dsimp only
  split
  · split <;> exact .quiet rfl rfl rfl
  · exact .quiet rfl rfl rfl

theorem noteArrival_keeps (h : roomsKeep R s.rooms) : roomsKeep R (noteArrival room s).rooms := by
  unfold noteArrival
  dsimp only
  split
  · exact keeps_ite (modRoom_quiet h) h
  · exact h

theorem commitRun_keeps {op opc task : Nat} {r : Run} (h : roomsKeep R s.rooms) : roomsKeep R (commitRun room op opc task r s).rooms := by
  unfold commitRun
  extract_lets a b c
  have hc : roomsKeep R c.rooms := modRoom_quiet (by simpa [a, b] using h)
  cases r.fault with
  | none => exact hc
  | some f =>
    dsimp only
    rw [noteRead_rooms]
    exact raiseFault_keeps hc

theorem setFlight_keeps {f : InFlight} (h : roomsKeep R s.rooms) : roomsKeep R (setFlight room f s).rooms := by
  unfold setFlight
  rw [startGaps_rooms]
  refine modRoom_keeps (.flights rfl rfl fun g hg => ?_) h
  obtain ⟨k, hk, rfl⟩ := List.mem_map.1 hg
  refine ⟨k, hk, ?_⟩
  split
  case isTrue hseq => exact hseq.symm
  case isFalse => rfl

theorem filter_keeps {y : Room} {p : InFlight → Bool} (hg : y.g = x.g) (hissued : y.issued = x.issued) (hflight : y.inflight = x.inflight.filter p) : RoomKeeps x y :=
  .flights hg hissued fun f hf => ⟨f, List.mem_of_mem_filter (hflight ▸ hf), rfl⟩

theorem commitStep_keeps {task : Nat} {q : Run × InFlight} (h : roomsKeep R s.rooms) : roomsKeep R (commitStep room task q s).rooms :=
  setFlight_keeps (commitRun_keeps h)

theorem startAnnex_keeps {slot : Nat} {b : Bool} {f : InFlight} {es : List AnnexElem} (h : roomsKeep R s.rooms) : roomsKeep R (startAnnex room slot b f es s).rooms :=
  modRoom_quiet h

theorem relayArrive_keeps {size : Nat} {last : Bool} {bs : List Byte} (h : roomsKeep R s.rooms) : roomsKeep R (relayArrive room size last bs s).rooms :=
  modRoom_quiet h

/-- The work of one kind of op keeps what is kept of rooms. -/
structure WorkKeeps (R : Tab Room) (work : Env → Room → Task → InFlight → State → State) : Prop where
  keeps : ∀ {E x t f s}, roomsKeep R s.rooms → roomsKeep R (work E x t f s).rooms

theorem ldsWork_keeps : WorkKeeps R (ldsWork room) := by
  refine ⟨fun {E x t f s} h => ?_⟩
  unfold ldsWork
  dsimp only
  refine keeps_ite ?_ (commitStep_keeps h)
  cases relayTaking x with
  | none => exact h
  | some k => exact setFlight_keeps (modRoom_quiet h)

theorem pairWork_keeps : WorkKeeps R (pairWork room) := ⟨fun h => keeps_ite (startAnnex_keeps h) (commitStep_keeps h)⟩

theorem relayWork_keeps : WorkKeeps R (relayWork room) := by
  refine ⟨fun {E x t f s} h => ?_⟩
  unfold relayWork
  extract_lets l next rest send q c
  have hsend : ∀ bs t, roomsKeep R t.rooms → roomsKeep R (send bs t).rooms := by
    intro bs t ht
    cases hrest : rest with
    | nil => simpa only [send, hrest] using ht
    | cons n ns => simpa only [send, hrest] using relayArrive_keeps ht
  have hc : roomsKeep R c.rooms := commitStep_keeps h
  refine keeps_ite ?_ (keeps_ite hc (hsend _ _ hc))
  cases relaySending x with
  | none => exact h
  | some k => exact hsend _ _ (setFlight_keeps (modRoom_quiet h))

theorem signalWork_keeps {f : InFlight} (h : roomsKeep R s.rooms) : roomsKeep R (signalWork room f s).rooms :=
  keeps_ite (raiseFault_keeps h) (addSignal_keeps (modRoom_keeps (filter_keeps rfl rfl rfl) h))

theorem stuffWork_keeps : WorkKeeps R (stuffWork room) := ⟨commitStep_keeps⟩

theorem runStep_keeps {f : InFlight} (h : roomsKeep R s.rooms) : roomsKeep R (runStep room f s).rooms := by
  unfold runStep
  split
  · exact h
  · dsimp only
    split
    · exact commitStep_keeps h
    · exact commitStep_keeps h
    · exact pairWork_keeps.keeps h
    · exact ldsWork_keeps.keeps h
    · exact setFlight_keeps (modRoom_quiet h)
    · exact commitStep_keeps h
    · exact commitStep_keeps h
    · exact commitStep_keeps h
    · exact relayWork_keeps.keeps h
    · exact stuffWork_keeps.keeps h
    · exact signalWork_keeps h
    · exact h

theorem pacedStep_keeps {f : InFlight} (h : roomsKeep R s.rooms) : roomsKeep R (pacedStep room f s).rooms := runStep_keeps (by rwa [takeAll_rooms])

theorem stepOnce_keeps {seq : Nat} (h : roomsKeep R s.rooms) : roomsKeep R (stepOnce room seq s).rooms := by
  unfold stepOnce
  cases flightOf (roomOf s room) seq with
  | none => exact h
  | some f => exact keeps_ite (pacedStep_keeps h) h

theorem stepMany_keeps (seq : Nat) : ∀ (k : Nat) {s : State}, roomsKeep R s.rooms → roomsKeep R (stepMany room seq k s).rooms
  | 0, _, h => h
  | k + 1, s, h => by
    unfold stepMany
    cases flightOf (roomOf s room) seq with
    | none => exact h
    | some f => exact keeps_ite (stepMany_keeps seq k (pacedStep_keeps h)) h

theorem sendSignals_keeps : ∀ (k : Nat) {s : State}, roomsKeep R s.rooms → roomsKeep R (sendSignals room k s).rooms
  | 0, _, h => h
  | k + 1, s, h => by
    unfold sendSignals
    cases (roomOf s room).inflight with
    | nil => exact h
    | cons f fs => exact keeps_ite (sendSignals_keeps k (pacedStep_keeps h)) h

theorem settle_keeps (h : roomsKeep R s.rooms) : roomsKeep R (settle room s).rooms := noteArrival_keeps (sendSignals_keeps _ h)

theorem advanceRooms_keeps (h : roomsKeep R s.rooms) : roomsKeep R (advanceRooms s).rooms :=
  keeps_foldl (fun _ _ h => settle_keeps (keeps_foldl (fun _ _ h => stepOnce_keeps h) _ h)) _ h

/-! The bodies of the tile ops. -/

/-- A body keeps what is kept of rooms when it runs with the room as it issued, whose count of issues has risen since. -/
structure BodyKeeps (R : Tab Room) (x : Room) (room : Nat) (body : Env → Room → Task → Nat → State → State) : Prop where
  keeps : ∀ {E t n p}, x.issued < (roomOf p room).issued → roomsKeep R p.rooms → roomsKeep R (body E x t n p).rooms

theorem stepBody_keeps {w w2 : OpWord} {E : Env} {t : Task} (hx : x.issued < (roomOf s room).issued) (h : roomsKeep R s.rooms) :
    roomsKeep R (stepBody room w w2 E x t n s).rooms := stepOnce_keeps (engage_keeps hx h)

theorem wholeBody_keeps {w : OpWord} {run : Env → Room → Run → Run} {E : Env} {t : Task} (hx : x.issued < (roomOf s room).issued) (h : roomsKeep R s.rooms) :
    roomsKeep R (wholeBody room w run E x t n s).rooms := commitRun_keeps (engage_keeps hx h)

theorem rowfBody_keeps {w : OpWord} {E : Env} {t : Task} (hx : x.issued < (roomOf s room).issued) (h : roomsKeep R s.rooms) :
    roomsKeep R (rowfBody room w E x t n s).rooms := by
  have hrun {r : Run} : roomsKeep R (commitRun room n 8 t.num r (engage room n x w 0 0 s)).rooms := commitRun_keeps (engage_keeps hx h)
  refine keeps_ite ?_ (wholeBody_keeps hx h)
  split
  · exact startAnnex_keeps hrun
  · exact hrun

theorem recvLanded_keeps {op : Nat} (h : roomsKeep R s.rooms) : roomsKeep R (recvLanded room op s).rooms := by
  refine modRoom_keeps (.flights rfl rfl fun f hf => ?_) h
  obtain ⟨g, hg, rfl⟩ := List.mem_map.1 hf
  exact ⟨g, hg, by split <;> rfl⟩

theorem landHalo_keeps {op : Nat} {hs : HaloSlot} {bs : List Byte} (h : roomsKeep R s.rooms) : roomsKeep R (landHalo room op hs bs s).rooms := by
  unfold landHalo
  cases roomTask s room with
  | none => exact h
  | some q => exact recvLanded_keeps (commitRun_keeps h)

theorem markSent_keeps {peer tag op rop : Nat} (h : roomsKeep R s.rooms) : roomsKeep R (markSent room peer tag op rop s).rooms := modRoom_quiet h

theorem haloRecv_keeps {f : HaloF} (h : roomsKeep R s.rooms) : roomsKeep R (haloRecv room f x n s).rooms := by
  unfold haloRecv
  dsimp only
  cases arrivedSend x f.peer f.tag with
  | none => exact modRoom_quiet h
  | some a => exact landHalo_keeps (markSent_keeps (modRoom_quiet h))

theorem haloSend_keeps {f : HaloF} {E : Env} {t : Task} (h : roomsKeep R s.rooms) : roomsKeep R (haloSend room f E x t n s).rooms := by
  refine keeps_ite (commitRun_keeps h) ?_
  split
  · exact landHalo_keeps (modRoom_quiet (markSent_keeps (commitRun_keeps h)))
  · exact modRoom_quiet (commitRun_keeps h)

/-- An op that issues: its body runs on the room whose count of issues has risen, with the room as it issued. -/
theorem issueWith_keeps {opc k : Nat} {w : OpWord} {body : Env → Room → Task → Nat → State → State}
    (hbody : BodyKeeps R (roomOf s room) room body) (h : roomsKeep R s.rooms) : roomsKeep R (issueWith room opc k w body s).rooms := by
  unfold issueWith
  dsimp only
  split
  · have hp : roomsKeep R (poppedState s room k w).rooms := popOps_keeps _ (by rwa [takeAll_rooms])
    have hissued : (roomOf s room).issued < (roomOf (poppedState s room k w) room).issued := by rw [roomOf_poppedState]; exact Nat.lt_succ_self _
    exact keeps_ite (raiseFault_keeps hp) (slotPart_keeps (hbody.keeps hissued hp))
  · exact h

/-! Events of rooms. -/

theorem serveLoad_keeps {a : Narrow} {rest : List Narrow} {k : Nat} (h : roomsKeep R s.rooms) : roomsKeep R (serveLoad s room a rest k).rooms := by
  refine keeps_ite ?_ (modRoom_quiet (by rwa [putStore_rooms]))
  rw [noteRead_rooms]
  exact raiseFault_keeps (modRoom_quiet (by rwa [putStore_rooms]))

theorem serveStore_keeps {a : Narrow} {rest : List Narrow} {k : Nat} (h : roomsKeep R s.rooms) : roomsKeep R (serveStore s room a rest k).rooms := by
  have hdrop {st : Store} : roomsKeep R (modRoom room (fun x => { x with narrow := x.narrow.take k ++ rest }) (putStore st s)).rooms :=
    modRoom_quiet (by rwa [putStore_rooms])
  refine keeps_ite ?_ ?_
  · rw [noteRead_rooms]
    exact raiseFault_keeps hdrop
  · cases (roomOf s room).task with
    | none => exact hdrop
    | some n => exact hdrop

theorem narrowServiceEff_keeps (h : roomsKeep R s.rooms) : roomsKeep R (narrowServiceEff s room).rooms := by
  unfold narrowServiceEff
  dsimp only
  generalize ((roomOf s room).narrow.takeWhile (·.served)).length = k
  cases (roomOf s room).narrow.drop k with
  | nil => exact h
  | cons a rest =>
    dsimp only
    rw [takeCycle_rooms, landCloses_rooms]
    exact settle_keeps (keeps_ite (serveLoad_keeps h) (serveStore_keeps h))

theorem narrowLoadEff_keeps (h : roomsKeep R s.rooms) : roomsKeep R (narrowLoadEff s room).rooms := by
  unfold narrowLoadEff
  cases (roomOf s room).narrow.find? (·.served) with
  | none => exact h
  | some a => exact settle_keeps (modRoom_keeps (.write _ _ rfl rfl rfl) h)

theorem opFetchEff_keeps (h : roomsKeep R s.rooms) : roomsKeep R (opFetchEff s room).rooms := by
  refine keeps_ite (raiseFault_keeps h) (keeps_ite ?_ (modRoom_quiet (by rwa [putStore_rooms])))
  rw [noteRead_rooms]
  exact raiseFault_keeps (by rwa [putStore_rooms])

theorem finishOp_keeps {f : InFlight} (h : roomsKeep R s.rooms) : roomsKeep R (finishOp room f s).rooms := by
  refine keeps_ite ?_ (stepMany_keeps _ _ h)
  cases roomTask s room with
  | none => exact h
  | some q => exact keeps_ite (stuffWork_keeps.keeps (by rwa [takeAll_rooms])) h

theorem retireEff_keeps {op : Nat} (h : roomsKeep R s.rooms) : roomsKeep R (retireEff s room op).rooms := by
  unfold retireEff
  cases oldestOp (roomOf s room) op with
  | none => exact h
  | some f =>
    dsimp only
    cases flightOf (roomOf (finishOp room f s) room) f.seq with
    | none => exact finishOp_keeps h
    | some g => exact keeps_ite (finishOp_keeps h) (settle_keeps (modRoom_keeps (filter_keeps rfl rfl rfl) (finishOp_keeps h)))

theorem releaseSync_keeps : ∀ (rs : List Nat) {s : State}, roomsKeep R s.rooms → roomsKeep R (releaseSync rs s).rooms
  | [], _, h => h
  | _ :: rs, _, h => releaseSync_keeps rs (modRoom_quiet h)

theorem syncReleaseEff_keeps {group : Nat} (h : roomsKeep R s.rooms) : roomsKeep R (syncReleaseEff s n group).rooms := by
  unfold syncReleaseEff
  split
  · dsimp only
    split
    · refine keeps_ite ?_ ?_
      · simpa using releaseSync_keeps _ h
      · simpa using releaseSync_keeps _ h
    · exact releaseSync_keeps _ h
  · exact h

/-! What time brings to rooms, and what they report. -/

/-- What an event makes of the state keeps what is kept of rooms, whichever room it concerns. -/
structure EventKeeps (R : Tab Room) (eff : State → Nat → State) : Prop where
  keeps : ∀ {s room}, roomsKeep R s.rooms → roomsKeep R (eff s room).rooms

theorem waitExpiredEff_keeps : EventKeeps R waitExpiredEff := by
  refine ⟨fun {s room} h => ?_⟩
  unfold waitExpiredEff
  cases waitSince (roomOf s room) with
  | none => exact h
  | some w => exact raiseFault_keeps h

theorem handshakeEff_keeps {st : Stage} (h : roomsKeep R s.rooms) : roomsKeep R (handshakeEff s room st).rooms := by
  unfold handshakeEff
  extract_lets r task a
  have ha : roomsKeep R a.rooms := by
    unfold a
    split <;> simpa [blame_rooms, failStage_rooms] using h
  exact keeps_ite (raiseFault_keeps ha) ha

theorem finishAnnex_keeps {j : AnnexJob} (h : roomsKeep R s.rooms) : roomsKeep R (finishAnnex s room j).rooms := by
  unfold finishAnnex
  dsimp only
  split
  · exact keeps_ite (commitStep_keeps (modRoom_quiet h)) (commitStep_keeps (modRoom_quiet h))
  · exact modRoom_quiet h

theorem annexResultEff_keeps {slot : Nat} {rs : List (BitVec 32)} (h : roomsKeep R s.rooms) : roomsKeep R (annexResultEff s slot room rs).rooms := by
  unfold annexResultEff
  cases (roomOf s room).annex with
  | none => exact h
  | some j => exact keeps_ite h (keeps_foldl (fun _ _ h => modRoom_quiet h) _ (keeps_ite (settle_keeps (finishAnnex_keeps h)) (modRoom_quiet h)))

theorem annexSilentEff_keeps : EventKeeps R annexSilentEff := by
  refine ⟨fun {s room} h => ?_⟩
  unfold annexSilentEff
  cases silentPress s room with
  | some q => exact raiseFault_keeps h
  | none =>
    cases (roomOf s room).task with
    | none => exact h
    | some m => exact (congrArg (roomsKeep R) (haltTask_rooms ..)).mpr h

theorem remoteEff_keeps : EventKeeps R remoteEff := by
  refine ⟨fun {s room} h => ?_⟩
  unfold remoteEff
  split
  · exact h
  · rw [takeCycle_rooms]
    dsimp only
    split
    · exact addSignal_keeps (by rwa [landCloses_rooms])
    · rwa [landCloses_rooms]

theorem faultReportEff_keeps : EventKeeps R faultReportEff := by
  refine ⟨fun {s room} h => ?_⟩
  unfold faultReportEff
  cases (roomOf s room).fault with
  | none => exact h
  | some f =>
    dsimp -zeta only
    extract_lets x a u b
    have hb : roomsKeep R b.rooms := by
      cases hu : u with
      | none => simpa only [b, hu] using modRoom_quiet h
      | some k => simpa only [b, hu, blame_rooms] using modRoom_quiet h
    clear_value b
    cases x.task with
    | none => exact hb
    | some m => exact (congrArg (roomsKeep R) (haltTask_rooms ..)).mpr hb

/-! Tasks that start and end. -/

/-- An action keeps what is kept of rooms, whatever the state in which it is taken. -/
structure ActKeeps (R : Tab Room) (act : State → State) : Prop where
  keeps : ∀ {p}, roomsKeep R p.rooms → roomsKeep R (act p).rooms

theorem startRooms_keeps (V : Variant) (t : Task) : ∀ (rs : List RoomRec) {s : State}, roomsKeep R s.rooms → roomsKeep R (startRooms V t rs s).rooms
  | [], _, h => h
  | r :: rs, s, h => startRooms_keeps V t rs fun k => by
    rw [tabGet_put]
    split
    · exact .empty (launchRegs_zero t r.room) rfl
    · exact h k

theorem freeRooms_keeps : ∀ (rs : List Nat) {s : State}, roomsKeep R s.rooms → roomsKeep R (freeRooms rs s).rooms
  | [], _, h => h
  | r :: rs, s, h => freeRooms_keeps rs (by rw [phaseEnd_rooms]; exact modRoom_keeps (.empty rfl rfl) h)

theorem releaseTask_keeps (h : roomsKeep R s.rooms) : roomsKeep R (releaseTask n s).rooms := by
  unfold releaseTask
  cases taskOf s n with
  | none => exact h
  | some t =>
    dsimp only
    rw [modFabric_rooms, flushPorts_rooms]
    exact freeRooms_keeps _ h

theorem completePoint_keeps (h : roomsKeep R s.rooms) : roomsKeep R (completePoint n s).rooms := by
  unfold completePoint
  cases taskOf s n with
  | none => exact h
  | some t =>
    dsimp only
    rw [promote_rooms, finishTask_rooms, answerAborts_rooms]
    exact releaseTask_keeps (by simpa using h)

theorem leaderEnd_keeps (h : roomsKeep R s.rooms) : roomsKeep R (leaderEnd n s).rooms := by
  unfold leaderEnd
  cases taskOf s n with
  | none => exact h
  | some t => exact keeps_ite (completePoint_keeps (by rwa [tellMembers_rooms])) h

theorem allEnded_keeps (h : roomsKeep R s.rooms) : roomsKeep R (allEnded n s).rooms := by
  unfold allEnded
  cases taskOf s n with
  | none => exact h
  | some t => exact keeps_ite (completePoint_keeps h) (keeps_ite (leaderEnd_keeps (by rwa [markEnded_rooms])) (by simpa using h))

theorem endBare_keeps (h : roomsKeep R s.rooms) : roomsKeep R (endBare n s).rooms := by
  unfold endBare
  cases taskOf s n with
  | none => exact h
  | some t => exact keeps_ite (allEnded_keeps h) h

theorem endReportEff_keeps (h : roomsKeep R s.rooms) : roomsKeep R (endReportEff s n room).rooms := by
  unfold endReportEff
  dsimp only
  split
  · exact keeps_ite (allEnded_keeps h) h
  · exact h

theorem endFrameEff_keeps {f : Frame} (h : roomsKeep R s.rooms) : roomsKeep R (endFrameEff f s).rooms := by
  unfold endFrameEff
  cases frameTask s f with
  | none => exact h
  | some t => exact keeps_ite (leaderEnd_keeps (by rwa [markEnded_rooms])) h

theorem doneEff_keeps {f : Frame} (h : roomsKeep R s.rooms) : roomsKeep R (doneEff f s).rooms := by
  unfold doneEff
  cases frameTask s f with
  | none => exact h
  | some t => exact keeps_ite (completePoint_keeps h) h

theorem launchTask_keeps {t : Task} {i : Image} (h : roomsKeep R s.rooms) : roomsKeep R (launchTask n t i s).rooms := by
  unfold launchTask
  extract_lets v15 V ms a r b c d ps e
  have he : roomsKeep R e.rooms := startRooms_keeps V t V.rooms (s := b) (by simpa [b, a] using h)
  clear_value e
  exact keeps_ite (by simpa using he) (keeps_ite (by simpa using he) he)

theorem launchBoundaryEff_keeps (h : roomsKeep R s.rooms) : roomsKeep R (launchBoundaryEff s n).rooms := by
  unfold launchBoundaryEff
  split
  · exact h
  · split
    · exact h
    · refine keeps_ite (by simpa using h) ?_
      split
      · exact endBare_keeps (launchTask_keeps h)
      · exact keeps_ite (by simpa using h) (by simpa using h)

theorem taskHaltedEff_keeps (h : roomsKeep R s.rooms) : roomsKeep R (taskHaltedEff s n).rooms := by
  unfold taskHaltedEff
  cases taskOf s n with
  | none => exact h
  | some t =>
    dsimp -zeta only
    extract_lets b
    have hb : roomsKeep R b.rooms := by
      simp only [b, sayHalted_rooms]
      exact releaseTask_keeps (by simpa using h)
    clear_value b
    exact keeps_ite (by simpa using hb) (by simpa using hb)

/-! Repairs (17 R492 to R498). -/

theorem bringIn_keeps {hall : Nat} {act : RepairAct} (h : roomsKeep R s.rooms) : roomsKeep R (bringIn hall act s).rooms := by
  unfold bringIn
  split
  · exact modRoom_keeps (.empty rfl rfl) h
  · exact modRoom_keeps (.empty rfl rfl) h
  · exact h

theorem bringInAll_keeps (hall : Nat) : ∀ (acts : List RepairAct) {s : State}, roomsKeep R s.rooms → roomsKeep R (bringInAll hall acts s).rooms
  | [], _, h => h
  | _ :: acts, _, h => bringInAll_keeps hall acts (bringIn_keeps h)

theorem diagnosisEff_keeps {k i : Nat} {fs : List Finding} (h : roomsKeep R s.rooms) : roomsKeep R (diagnosisEff s k i fs).rooms := by
  unfold diagnosisEff
  cases repairAt s k i 1 with
  | none => exact h
  | some r =>
    dsimp -zeta only
    extract_lets tested none_ limit fs t acts u
    have hu : roomsKeep R u.rooms := by
      refine bringInAll_keeps _ _ ?_
      rw [setRepair_rooms]
      exact keeps_ite (by simpa using h) h
    rw [trace_rooms]
    exact keeps_ite hu (by simpa using hu)

theorem releaseRooms_keeps : ∀ (rs : List Nat) {s : State}, roomsKeep R s.rooms → roomsKeep R (releaseRooms rs s).rooms
  | [], _, h => h
  | _ :: rs, _, h => releaseRooms_keeps rs (modRoom_quiet h)

theorem mappingEff_keeps {k i : Nat} (h : roomsKeep R s.rooms) : roomsKeep R (mappingEff s k i).rooms := by
  unfold mappingEff
  cases repairAt s k i 3 with
  | none => exact h
  | some r =>
    dsimp only
    rw [trace_rooms, requeueAll_rooms, settleHealth_rooms]
    exact releaseRooms_keeps _ (by simpa using h)

theorem replacementEndEff_keeps {k i : Nat} (h : roomsKeep R s.rooms) : roomsKeep R (replacementEndEff s k i).rooms := by
  unfold replacementEndEff
  dsimp only
  rw [settleHealth_rooms]
  refine keeps_ite (by simpa using h) ?_
  split
  · rw [mapSpare_rooms]
    exact bringIn_keeps h
  · exact h

/-! The sequencer (18): the hard part loses every room. -/

theorem keeps_noRooms (h : t.rooms = []) : roomsKeep R t.rooms := fun _ => by rw [h]; exact .empty rfl rfl

theorem dropNext_keeps (h : roomsKeep R s.rooms) : roomsKeep R (dropNext s).rooms := keeps_ite h (keeps_ite h (keeps_noRooms rfl))

theorem afterDrop_keeps {r : Nat} (h : roomsKeep R s.rooms) : roomsKeep R (afterDrop r s).rooms := keeps_ite (dropNext_keeps h) h

theorem collapse_noRooms (trigger rail : Nat) (s : State) : (collapse trigger rail s).rooms = [] := by
  unfold collapse
  extract_lets n t
  split
  · rfl
  · split
    · rw [failWith_rooms]; rfl
    · rfl

theorem startHard_noRooms (serial : BitVec 64) (keyHash : BitVec 384) (pins : BitVec 16) (s : State) : (startHard serial keyHash pins s).rooms = [] := by
  unfold startHard
  rw [setPhase_rooms]
  rfl

theorem stewardRestart_noRooms (s : State) : (stewardRestart s).rooms = [] := by
  unfold stewardRestart
  rw [settleHealth_rooms]

theorem supplyWarnEff_keeps (h : roomsKeep R s.rooms) : roomsKeep R (supplyWarnEff s).rooms := by
  unfold supplyWarnEff
  dsimp only
  refine keeps_ite ?_ ?_
  · cases s.seq.pd with
    | some d => exact h
    | none => exact keeps_ite h h
  · unfold warnEarly
    split
    · exact dropNext_keeps h
    · exact dropNext_keeps h
    · exact h

theorem takeEffectEff_keeps (h : roomsKeep R s.rooms) : roomsKeep R (takeEffectEff s).rooms := by
  unfold takeEffectEff
  cases s.seq.resetReq with
  | none => exact h
  | some r => exact keeps_ite (keeps_noRooms (by rw [setPhase_rooms, stewardRestart_noRooms])) (keeps_noRooms (startHard_noRooms ..))

theorem wakeEff_noRooms (s : State) : (wakeEff s).rooms = [] := by
  unfold wakeEff
  dsimp only
  split
  · rfl
  · rw [powerUp_rooms]; rfl

end

section
variable {R : Tab Room} {s t u : State} {c : Instr}

/-! Every command. -/

theorem due_keeps {g : Bool} (h : due g s t = .next u) (ht : roomsKeep s.rooms t.rooms) : roomsKeep s.rooms u.rooms := by
  cases g
  · cases h; exact keeps_refl
  · cases h; exact ht

theorem dueAt_keeps {b g : Bool} (h : dueAt b g s t = .next u) (ht : roomsKeep s.rooms t.rooms) : roomsKeep s.rooms u.rooms := due_keeps h ht

theorem next_keeps (h : (Host.Outcome.next t : Host.Outcome State Fault Refusal) = .next u) (ht : roomsKeep s.rooms t.rooms) : roomsKeep s.rooms u.rooms := by
  cases h; exact ht

theorem issue_keeps {room opc k : Nat} {w : OpWord} {w2 : Option OpWord} {body : Env → Room → Task → Nat → State → State}
    (h : dueAt (hasRoom s room) (issueReady s room opc w w2) s (issueWith room opc k w body s) = .next u)
    (hbody : BodyKeeps s.rooms (roomOf s room) room body) : roomsKeep s.rooms u.rooms := dueAt_keeps h (issueWith_keeps hbody keeps_refl)

/-- What acting on a message of the fabric makes of the rooms: taking the message concerns the fabric alone. -/
theorem frameRow_keeps {b kind : Nat} {f : Frame} {act : State → State} (h : frameRow b f kind s act = .next u)
    (hact : ActKeeps s.rooms act) : roomsKeep s.rooms u.rooms := by
  refine due_keeps h ?_
  have htaken : (ackFrame f (takeFrame b f s)).rooms = s.rooms :=
    rooms_eq (by apply_rules [ackFrame_only, takeFrame_only, only_refl] <;> simp)
  have hkept : roomsKeep s.rooms (ackFrame f (takeFrame b f s)).rooms := htaken ▸ keeps_refl
  exact keeps_ite hkept (hact.keeps hkept)

/-- A command that may change no room by the table of frames keeps what is kept of rooms. -/
theorem keeps_of_frame (h : exec c s = .next u) (hc : (mayChange c).elem .rooms = false) : roomsKeep s.rooms u.rooms := by
  rw [(exec_framed h).rooms (by simpa using hc)]
  exact keeps_refl

theorem tileOp_keeps (hf : familyOf c = .tileOp) (h : exec c s = .next u) : roomsKeep s.rooms u.rooms := by
  cases c with
  | mma | mmt | pair | lds | flip | ewa | move | relay | signal => exact issue_keeps h ⟨fun hx hp => stepBody_keeps hx hp⟩
  | chute => exact issue_keeps h ⟨fun hx hp => keeps_ite hp (stepBody_keeps hx hp)⟩
  | rowf => exact issue_keeps h ⟨fun hx hp => rowfBody_keeps hx hp⟩
  | stat | resc => exact issue_keeps h ⟨fun hx hp => wholeBody_keeps hx hp⟩
  | halo => exact issue_keeps h ⟨fun hx hp => keeps_ite (haloRecv_keeps (engage_keeps hx hp)) (haloSend_keeps (engage_keeps hx hp))⟩
  | sync => exact issue_keeps h ⟨fun _ hp => noteArrival_keeps (modRoom_quiet hp)⟩
  | hint => exact issue_keeps h ⟨fun _ hp => by rwa [hintHall_rooms]⟩
  | stuff => exact issue_keeps h ⟨fun hx hp => engage_keeps hx hp⟩
  | bkt =>
    refine issue_keeps h ⟨fun _ hp => ?_⟩
    split
    · exact modRoom_keeps (.write _ _ rfl rfl rfl) hp
    · exact raiseFault_keeps hp
  | wait => exact issue_keeps h ⟨fun _ hp => keeps_ite (modRoom_quiet hp) (modRoom_quiet hp)⟩
  | endOp => exact issue_keeps h ⟨fun _ hp => modRoom_quiet hp⟩
  | _ => cases hf

/-- Every command keeps of each room that g0 is zero, and that its ops in flight were issued before those to come. -/
theorem exec_keeps (h : exec c s = .next u) : roomsKeep s.rooms u.rooms := by
  cases c with
  | mma | mmt | pair | lds | flip | chute | ewa | rowf | stat | resc | move | halo | relay | sync | hint | stuff | bkt | wait | signal | endOp =>
    exact tileOp_keeps rfl h
  | narrowAccessService => exact dueAt_keeps h (narrowServiceEff_keeps keeps_refl)
  | narrowLoadComplete => exact dueAt_keeps h (narrowLoadEff_keeps keeps_refl)
  | opFetch => exact dueAt_keeps h (opFetchEff_keeps keeps_refl)
  | opRetire => exact dueAt_keeps h (retireEff_keeps keeps_refl)
  | syncRelease => exact due_keeps h (syncReleaseEff_keeps keeps_refl)
  | waitExpired => exact dueAt_keeps h (waitExpiredEff_keeps.keeps keeps_refl)
  | handshakeTimeout => exact dueAt_keeps h (handshakeEff_keeps keeps_refl)
  | annexSilent => exact dueAt_keeps h (annexSilentEff_keeps.keeps keeps_refl)
  | annexResult => exact dueAt_keeps h (annexResultEff_keeps keeps_refl)
  | remoteAccessService => exact dueAt_keeps h (remoteEff_keeps.keeps keeps_refl)
  | taskLaunchBoundary => exact due_keeps h (launchBoundaryEff_keeps keeps_refl)
  | endReport => exact dueAt_keeps h (endReportEff_keeps keeps_refl)
  | endFrame => exact frameRow_keeps h ⟨endFrameEff_keeps⟩
  | done => exact frameRow_keeps h ⟨doneEff_keeps⟩
  | faultReport => exact dueAt_keeps h (faultReportEff_keeps.keeps keeps_refl)
  | taskHalted => exact due_keeps h (taskHaltedEff_keeps keeps_refl)
  | diagnosisComplete => exact dueAt_keeps h (diagnosisEff_keeps keeps_refl)
  | repairMappingEffect => exact dueAt_keeps h (mappingEff_keeps keeps_refl)
  | replacementEnd => exact dueAt_keeps h (replacementEndEff_keeps keeps_refl)
  | resetTakeEffect => exact due_keeps h (takeEffectEff_keeps keeps_refl)
  | hardPartResetRelease => exact due_keeps h (keeps_noRooms (startHard_noRooms ..))
  | supplyWarn => exact next_keeps h (supplyWarnEff_keeps keeps_refl)
  | railGoodFall => exact dueAt_keeps h (afterDrop_keeps keeps_refl)
  | railDropTimeout => exact due_keeps h (dropNext_keeps keeps_refl)
  | railFailure => exact dueAt_keeps h (keeps_noRooms (collapse_noRooms ..))
  | shellReset => exact next_keeps h (keeps_ite (keeps_noRooms (collapse_noRooms ..)) keeps_refl)
  | wake => exact due_keeps h (keeps_noRooms (wakeEff_noRooms s))
  | vauxGoodFall => exact due_keeps h (keeps_noRooms rfl)
  | _ => exact keeps_of_frame h rfl

/-- An empty queue lets time pass for the ops in flight, and a command in front is executed: either keeps what is kept of rooms. -/
theorem step_keeps (h : step s = .next t) : roomsKeep s.rooms t.rooms := by
  unfold step at h
  split at h
  case h_1 => exact next_keeps h (advanceRooms_keeps keeps_refl)
  case h_2 c rest _ => exact exec_keeps (s := { s with pending := rest }) h

theorem slotFields_d_lt (w : OpWord) : (slotFields w).d < 16 := Nat.mod_lt _ (by decide)

end

/-- Settles O58: whatever a step makes of a room keeps the order of its issue, also where the registers do not follow their rule. -/
theorem stepKeepsTheOrderOfIssue : Obligations.StepKeepsTheOrderOfIssue := fun _ _ horder hstep room => (step_keeps hstep room).order (horder room)

/-- Settles O51: the table of registers never lists a write to g0, and no command brings a room another g0. -/
theorem scalarRegistersFollowTheirRule : Obligations.ScalarRegistersFollowTheirRule := by
  refine ⟨slotFields_d_lt, fun g v k => rfl, fun g v d k hd => ?_, fun c s t hzero hnext room => (exec_keeps hnext room).zero (hzero room)⟩
  rw [setG, if_neg hd, tabGet_put]
  exact if_congr eq_comm rfl rfl

/-- Settles O48: reset lists no byte, no room and no request. -/
theorem resetMeetsTheInvariants : Obligations.ResetMeetsTheInvariants := by
  refine ⟨rfl, fun _ => rfl, ⟨Nat.zero_le _, List.nodup_nil⟩, fun _ f hf => ?_⟩
  exact absurd hf (List.not_mem_nil)

end Sys2Proof.Machine


/-!
Faults of an op as it issues (06 R199): of its narrow access (06 R171), of a `bkt` without a fitting bucket (06 R190), and of a `signal` whose counter is full (06 R189).
-/
namespace Sys2Proof.Machine

section
variable {s : State} {room opc k n : Nat} {w w2 : OpWord} {w2? : Option OpWord} {t : Task} {i : Image}

/-- The tile ops with word `w`, and `w2` for the second of a pair, each with its opcode, its words and its second word. -/
def opForms (room : Nat) (w w2 : OpWord) : List (Instr × Nat × Nat × Option OpWord) :=
  [(.mma room w, 1, 1, none), (.mmt room w, 2, 1, none), (.pair room w w2, 3, 2, some w2), (.lds room w, 4, 1, none), (.flip room w, 5, 1, none),
    (.chute room w, 6, 1, none), (.ewa room w, 7, 1, none), (.rowf room w, 8, 1, none), (.stat room w, 9, 1, none), (.resc room w, 10, 1, none), (.move room w, 11, 1, none),
    (.halo room w, 12, 1, none), (.relay room w, 13, 1, none), (.sync room w, 14, 1, none), (.hint room w, 15, 1, none), (.stuff room w, 16, 1, none),
    (.bkt room w, 17, 1, none), (.wait room w, 18, 1, none), (.signal room w, 19, 1, none), (.endOp room w, 20, 1, none)]

/-- Every tile op is an issue with a body of its own (06 R192). -/
theorem opForms_issue (s : State) : ∀ r ∈ opForms room w w2,
    ∃ body, exec r.1 s = dueAt (hasRoom s room) (issueReady s room r.2.1 w r.2.2.2) s (issueWith room r.2.1 r.2.2.1 w body s) := by
  simp only [opForms, List.forall_mem_cons]
  exact ⟨⟨_, rfl⟩, ⟨_, rfl⟩, ⟨_, rfl⟩, ⟨_, rfl⟩, ⟨_, rfl⟩, ⟨_, rfl⟩, ⟨_, rfl⟩, ⟨_, rfl⟩, ⟨_, rfl⟩, ⟨_, rfl⟩, ⟨_, rfl⟩, ⟨_, rfl⟩, ⟨_, rfl⟩, ⟨_, rfl⟩, ⟨_, rfl⟩, ⟨_, rfl⟩, ⟨_, rfl⟩,
    ⟨_, rfl⟩, ⟨_, rfl⟩, ⟨_, rfl⟩, List.forall_mem_nil _⟩

/-- An op whose narrow access meets a fault does not act (log 54). -/
theorem issueWith_slotFault {body : Env → Room → Task → Nat → State → State} (htask : roomTask s room = some (t, i)) (hhead : ∃ q, (roomOf s room).opBuf = (n, w) :: q)
    {sf : Nat × Nat} (hsf : sf = slotFault (envOf s t i room n opc) s.store (roomOf s room).g w) (hfault : sf.1 ≠ 0) :
    issueWith room opc k w body s = raiseFault room n opc sf.1 0 (faultLine sf.1 sf.2) (poppedState s room k w) := by
  obtain ⟨q, hq⟩ := hhead
  unfold issueWith
  dsimp only
  rw [htask, hq]
  dsimp only
  rw [← hsf, if_pos hfault]
  rfl

theorem slotFault_recorded {c : Instr} {body : Env → Room → Task → Nat → State → State}
    (hc : exec c s = dueAt (hasRoom s room) (issueReady s room opc w w2?) s (issueWith room opc k w body s)) (hroom : hasRoom s room = true)
    (hready : issueReady s room opc w w2? = true) (htask : roomTask s room = some (t, i)) (hhead : ∃ q, (roomOf s room).opBuf = (n, w) :: q)
    {sf : Nat × Nat} (hsf : sf = slotFault (envOf s t i room n opc) s.store (roomOf s room).g w) (hfault : sf.1 ≠ 0) :
    answers c s fun u => roomFault u room n opc sf.1 0 sf.2 ∧ (roomOf u room).g = (roomOf s room).g ∧ (roomOf u room).opBuf = (roomOf s room).opBuf.drop k ∧
      (roomOf u room).cells = (roomOf s room).cells ∧ (roomOf u room).inflight = (roomOf s room).inflight ∧ u.store = s.store ∧ otherRooms s u [room] := by
  refine answers_dueAt hc hroom hready ?_
  rw [issueWith_slotFault htask hhead hsf hfault]
  have hnone : (roomOf (poppedState s room k w) room).fault = none := by rw [roomOf_poppedState]; exact ready_fault hready
  rw [roomFault, raiseFault_room hnone, roomOf_poppedState]
  exact ⟨rfl, rfl, rfl, rfl, rfl, by rw [raiseFault_store, poppedState_store], fun r hr =>
    (raiseFault_room_ne r (by simpa using hr)).trans (otherRooms_poppedState r hr)⟩

/-- A fault that an op's body raises stands after the op's scalar slot. -/
theorem roomFault_slotPart {u : State} {code iter line : Nat} {x : Room} (h : roomFault u room n opc code iter line) :
    roomFault (slotPart room n x w u) room n opc code iter line := by
  rw [roomFault, slotPart_room]
  exact h

theorem bkt_faults (h : CanIssue s room 17 1 w none t i n) (hbucket : bucketOf i.reams w (tabGet 0 (roomOf s room).g (fld w 23 20)).toNat = none) :
    answers (.bkt room w) s fun u => roomFault u room n 17 0x303 0 0 ∧ otherRooms s u [room] := by
  refine answers_tile h rfl ?_
  rw [show bucketOf (envOf s t i room n 17).reams w (tabGet 0 (roomOf s room).g (fld w 23 20)).toNat = none from hbucket]
  have hnone : (roomOf (poppedState s room 1 w) room).fault = none := by rw [roomOf_poppedState]; exact ready_fault h.ready
  exact ⟨roomFault_slotPart (raiseFault_roomFault hnone rfl), otherRooms_slotPart (by simp) fun r hr =>
    (raiseFault_room_ne r (by simpa using hr)).trans (otherRooms_poppedState r hr)⟩

theorem signal_faults (h : CanIssue s room 19 1 w none t i n) (hready : stepReady (issuedState s room 1 n w 0) room (issuedOp s room n w 0 0) = true)
    (hfull : tabGet 0 (roomOf s (fld w 31 24)).ctr (fld w 23 20) = 65535) : answers (.signal room w) s fun u =>
      roomFault u room n 19 0x304 0 0 ∧ otherRooms s u [room] ∧ tabGet 0 (roomOf u (fld w 31 24)).ctr (fld w 23 20) = 65535 := by
  refine answers_tile h rfl ?_
  rw [stepBody_poppedState h, if_pos hready, pacedStep, runStep_signal (roomTask_paced _ h) (issueReady_opcode h.ready)]
  generalize hp : takeAll (stepPace room (issuedOp s room n w 0 0)) (issuedState s room 1 n w 0) = p
  have hroom : roomOf p room = { roomOf (poppedState s room 1 w) room with inflight := (roomOf s room).inflight ++ [issuedOp s room n w 0 0] } := by
    rw [← hp, roomOf_takeAll, roomOf_issuedState]
  have hothers : otherRooms s p [room] := by
    rw [← hp]
    exact fun r hr => (roomOf_takeAll ..).trans (otherRooms_issuedState r hr)
  have hctr (r : Nat) : (roomOf p r).ctr = (roomOf s r).ctr := by
    by_cases hr : r = room
    · rw [hr, hroom, roomOf_poppedState]
    · rw [hothers r (by simpa using hr)]
  have hfault : signalWork room (issuedOp s room n w 0 0) p = raiseFault room n 19 0x304 0 0 p := if_pos (by rw [hctr]; exact hfull)
  have hnone : (roomOf p room).fault = none := by rw [hroom, roomOf_poppedState]; exact ready_fault h.ready
  have hraised (r : Nat) : (roomOf (raiseFault room n 19 0x304 0 0 p) r).ctr = (roomOf p r).ctr := by
    by_cases hr : r = room
    · rw [hr, raiseFault_room hnone]
    · rw [raiseFault_room_ne r hr]
  rw [hfault]
  refine ⟨roomFault_slotPart (raiseFault_roomFault hnone rfl), otherRooms_slotPart (by simp) fun r hr =>
    (raiseFault_room_ne r (by simpa using hr)).trans (hothers r hr), ?_⟩
  rw [(slotPart_hold_ctr ..).2, hraised, hctr, hfull]

end

/-- Settles O9: whatever the op, a faulting narrow access ends its issue before its body. -/
theorem tileFaultsAreRecorded : Obligations.TileFaultsAreRecorded := by
  refine fun s room w w2 t i n => ⟨fun c opc k w2? hrow hroom hready htask hhead sf hsf hfault => ?_, bkt_faults, signal_faults⟩
  obtain ⟨body, hc⟩ := opForms_issue (w := w) (w2 := w2) s _ hrow
  exact slotFault_recorded hc hroom hready htask hhead hsf hfault

end Sys2Proof.Machine


/-!
The work of issued ops (06 R193, R194, log 55): what a step's run leaves in the room, the first step as the op issues, and the later ones.
-/
namespace Sys2Proof.Machine

section
variable {s a b u : State} {room opc k n : Nat} {w w2 : OpWord} {w2? : Option OpWord} {t : Task} {i : Image} {f : InFlight} {c : Instr}

/-! The op that a step leaves. -/

/-- The op is the same one, whatever of its work is done: its number, its opcode and its place in the order of issue. -/
structure SameOp (f g : InFlight) : Prop where
  op  : g.op = f.op
  opc : g.opc = f.opc
  seq : g.seq = f.seq

theorem matStep_sameOp (E : Env) (m : MatF) (trans : Bool) (f : InFlight) (r : Run) : SameOp f (matStep E m trans f r).2 := ⟨rfl, rfl, rfl⟩

theorem pairStep_sameOp (E : Env) (m : MatF) (p : PairF) (press : Tab (List Byte)) (ann : List Val) (f : InFlight) (r : Run) :
    SameOp f (pairStep E m p press ann f r).2 := by
  unfold pairStep
  split
  · unfold blockStep
    dsimp only
    split <;> exact ⟨rfl, rfl, rfl⟩
  · exact ⟨rfl, rfl, rfl⟩

theorem chuteStep_sameOp (E : Env) (h : ChuteF) (f : InFlight) (r : Run) : SameOp f (chuteStep E h f r).2 := by
  unfold chuteStep
  dsimp only
  split
  · exact ⟨rfl, rfl, rfl⟩
  · split
    · exact ⟨rfl, rfl, rfl⟩
    · split <;> exact ⟨rfl, rfl, rfl⟩

theorem moveStep_sameOp (E : Env) (m : MoveF) (f : InFlight) (r : Run) : SameOp f (moveStep E m f r).2 := ⟨rfl, rfl, rfl⟩

/-! What a step's run leaves in the room. -/

/-- The room after a step whose run meets no fault: the run's data, and the op as the step leaves it. -/
theorem roomOf_commitStep {task : Nat} {q : Run × InFlight} (hfault : q.1.fault = none) : roomOf (commitStep room task q s) room =
    { roomOf s room with
      cells := q.1.cells, act := q.1.act, counts := q.1.counts, stats := q.1.stats, wide := q.1.wide, scale := q.1.scale, vec := q.1.vec, lanes := q.1.lanes
      mismatch := keepMismatch q.1.mism (roomOf s room).mismatch
      inflight := (roomOf s room).inflight.map fun g => if g.seq = q.2.seq then q.2 else g } := by
  rw [commitStep, roomOf_setFlight, roomOf_commit _ _ _ _ _ _ hfault]

theorem commitStep_store {task : Nat} {q : Run × InFlight} : (commitStep room task q s).store = q.1.st := (setFlight_store ..).trans (commit_store ..)

/-- A fault of a step's run is a fault of its room, where the room had none. -/
theorem commitStep_roomFault {task : Nat} {q : Run × InFlight} {code iter line : Nat} (hfault : q.1.fault = some (code, iter, line))
    (hnone : (roomOf s room).fault = none) : roomFault (commitStep room task q s) room q.2.op q.2.opc code iter line := by
  rw [roomFault, commitStep, roomOf_setFlight]
  exact fault_commit hfault hnone

theorem ranInto_slotPart {x : Room} {r : Run} (h : ranInto b room r) : ranInto (slotPart room n x w b) room r := by
  refine ⟨(slotPart_store ..).trans h.store, ?_, ?_, ?_⟩ <;> rw [slotPart_room]
  · exact h.cells
  · exact h.vec
  · exact h.counts

/-! An op whose units are engaged, with `pos` of its work done (06 R193). -/

/-- The state in which the op's words have left the buffer and its units are engaged. -/
def engagedState (s : State) (room k n : Nat) (w w2 : OpWord) (pos : Nat) : State := engage room n (roomOf s room) w w2 pos (poppedState s room k w)

theorem issuedState_eq_engagedState : issuedState s room k n w w2 = engagedState s room k n w w2 0 := rfl

theorem roomOf_engagedState {pos : Nat} : roomOf (engagedState s room k n w w2 pos) room =
    { roomOf (poppedState s room k w) room with inflight := (roomOf s room).inflight ++ [issuedOp s room n w w2 pos] } := by
  rw [engagedState, roomOf_engage, roomOf_poppedState]
  rfl

theorem otherRooms_engagedState {pos : Nat} : otherRooms s (engagedState s room k n w w2 pos) [room] := fun r hr => by
  have hr : r ≠ room := by simpa using hr
  rw [engagedState, roomOf_engage_ne _ _ _ _ _ _ _ _ hr, roomOf_poppedState_ne hr]

@[simp] theorem engagedState_store {pos : Nat} : (engagedState s room k n w w2 pos).store = s.store := by rw [engagedState, engage_store, poppedState_store]

@[simp] theorem engagedState_steward {pos : Nat} : (engagedState s room k n w w2 pos).steward = s.steward := by
  rw [engagedState, engage, (endGaps_fields room _ _).2.2.1]
  exact poppedState_steward (k := k)

/-- The parts of the engine that a run reads beside its room, its task and the store. -/
structure RunParts (s u : State) : Prop where
  params  : u.params = s.params
  offered : u.offered = s.offered
  map     : u.health.map = s.health.map
  defects : u.defects = s.defects

theorem RunParts.trans (h : RunParts s a) (h' : RunParts a b) : RunParts s b :=
  ⟨h'.params.trans h.params, h'.offered.trans h.offered, h'.map.trans h.map, h'.defects.trans h.defects⟩

theorem runParts_engagedState {pos : Nat} : RunParts s (engagedState s room k n w w2 pos) ∧ (engagedState s room k n w w2 pos).freeCtr = s.freeCtr := by
  obtain ⟨-, -, -, hhealth, hdefects, hfree, hparams, hoffered, -⟩ :=
    endGaps_fields room (opUnits w w2) (modRoom room (fun y => { y with inflight := y.inflight ++ [issuedOp s room n w w2 pos] }) (poppedState s room k w))
  refine ⟨⟨hparams.trans ?_, hoffered.trans ?_, (congrArg Health.map hhealth).trans ?_, hdefects.trans ?_⟩, hfree.trans ?_⟩
  all_goals rw [poppedState, popOps, takeAll_pace]; rfl

theorem envOf_congr (h : RunParts s u) (op : Nat) : envOf u t i room op opc = envOf s t i room op opc := by
  obtain ⟨hparams, hoffered, hmap, hdefects⟩ := h
  simp only [envOf, mouldMap, physIndexOf, physOf, hparams, hoffered, hmap, hdefects]

/-! The first step of an op, as it issues. -/

/-- The state in which the first step of an issued op is made: its permits are taken. -/
def firstStepState (s : State) (room k n : Nat) (w w2 : OpWord) : State :=
  takeAll (stepPace room (issuedOp s room n w w2 0)) (issuedState s room k n w w2)

theorem roomOf_firstStepState : roomOf (firstStepState s room k n w w2) room =
    { roomOf (poppedState s room k w) room with inflight := (roomOf s room).inflight ++ [issuedOp s room n w w2 0] } := by
  rw [firstStepState, roomOf_takeAll, roomOf_issuedState]

theorem otherRooms_firstStepState : otherRooms s (firstStepState s room k n w w2) [room] := fun r hr => (roomOf_takeAll ..).trans (otherRooms_issuedState r hr)

theorem firstStepState_store : (firstStepState s room k n w w2).store = s.store := by rw [firstStepState, takeAll_store, issuedState_store]

theorem envOf_firstStepState (op : Nat) : envOf (firstStepState s room k n w w2) t i room op opc = envOf s t i room op opc := by
  obtain ⟨hparts, -⟩ := runParts_engagedState (s := s) (room := room) (k := k) (n := n) (w := w) (w2 := w2) (pos := 0)
  rw [firstStepState, takeAll_pace]
  exact envOf_congr ⟨hparts.params, hparts.offered, hparts.map, hparts.defects⟩ op

theorem runOf_firstStepState : runOf (firstStepState s room k n w w2) (roomOf (firstStepState s room k n w w2) room) = runOf s (roomOf s room) := by
  obtain ⟨-, hfree⟩ := runParts_engagedState (s := s) (room := room) (k := k) (n := n) (w := w) (w2 := w2) (pos := 0)
  rw [runOf, roomOf_firstStepState, roomOf_poppedState, firstStepState_store, firstStepState, takeAll_pace]
  dsimp only
  rw [issuedState_eq_engagedState, hfree]
  rfl

/-- A step that has the press's table of its room and keeps its op. -/
structure RoomStepRun (run : Env → Room → InFlight → Run → Run × InFlight) : Prop where
  press : ∀ E x y f r, x.press = y.press → run E x f r = run E y f r
  same  : ∀ E x f r, SameOp f (run E x f r).2

/-- An op with body `body` that issues as `stepBody`, and whose step is the run `run`, issues and takes its first step. -/
theorem stepsAs_of_runStep {body : Env → Room → Task → Nat → State → State} {run : Env → Room → InFlight → Run → Run × InFlight}
    (hc : exec c s = dueAt (hasRoom s room) (issueReady s room opc w w2?) s (issueWith room opc k w body s))
    (hbody : ∀ t i n p, CanIssue s room opc k w w2? t i n → body (envOf s t i room n opc) (roomOf s room) t n p = stepBody room w w2 (envOf s t i room n opc) (roomOf s room) t n p)
    (hstep : ∀ t i n p, opcAt w = opc → roomTask p room = some (t, i) → runStep room (issuedOp s room n w w2 0) p =
      commitStep room t.num (run (envOf p t i room n opc) (roomOf p room) (issuedOp s room n w w2 0) (runOf p (roomOf p room))) p)
    (hrun : RoomStepRun run) : stepsAs c s room opc k w w2 w2? run := by
  rintro t i n h a f q rfl rfl hq
  have hopc := issueReady_opcode h.ready
  have hanswers {Q : State → Prop} (hQ : Q (slotPart room n (roomOf s room) w (stepBody room w w2 (envOf s t i room n opc) (roomOf s room) t n (poppedState s room k w)))) :
      answers c s Q := answers_tile h hc (by rw [hbody t i n _ h]; exact hQ)
  have hpaced : pacedStep room (issuedOp s room n w w2 0) (issuedState s room k n w w2) = commitStep room t.num q (firstStepState s room k n w w2) := by
    have hstep := hstep t i n (firstStepState s room k n w w2) hopc (roomTask_paced _ h)
    rw [envOf_firstStepState, runOf_firstStepState, hrun.press _ _ (roomOf s room) _ _ (by rw [roomOf_firstStepState, roomOf_poppedState]), ← hq] at hstep
    exact hstep
  have hsame : SameOp (issuedOp s room n w w2 0) q.2 := by rw [hq]; exact hrun.same ..
  have hothers : otherRooms s (commitStep room t.num q (firstStepState s room k n w w2)) [room] := otherRooms_commitStep otherRooms_firstStepState
  rw [stepBody_poppedState h] at hanswers
  refine ⟨fun hwait => hanswers ?_, fun hready hnone => hanswers ?_, fun hready code iter line hfault => hanswers ?_⟩
  · rw [if_neg (Bool.eq_false_iff.1 hwait)]
    exact ⟨steered_issuedState.issued, steered_issuedState.inflight, steered_issuedState.unworked⟩
  · rw [if_pos hready, hpaced]
    have hroom := roomOf_commitStep (s := firstStepState s room k n w w2) (room := room) (task := t.num) hnone
    rw [roomOf_firstStepState, roomOf_poppedState] at hroom
    dsimp only at hroom
    rw [map_replace_last (f := issuedOp s room n w w2 0) hsame.seq h.order] at hroom
    refine ⟨issued_of ?_ ?_ ?_ ?_ hothers, ?_, ranInto_slotPart (commitStep_ranInto hnone)⟩
    all_goals simp [inFlight, slotPart_room, hroom]
  · rw [if_pos hready, hpaced]
    have hfree : (roomOf (firstStepState s room k n w w2) room).fault = none := by rw [roomOf_firstStepState, roomOf_poppedState]; exact ready_fault h.ready
    have hrecorded := commitStep_roomFault (task := t.num) hfault hfree
    rw [show q.2.op = n from hsame.op, show q.2.opc = opc from hsame.opc.trans hopc] at hrecorded
    refine ⟨?_, otherRooms_slotPart (by simp) hothers⟩
    rw [roomFault, slotPart_room]
    exact hrecorded

/-- An op that is made as a whole: its run enters the state as it issues. -/
theorem runsAs_of_wholeBody {body : Env → Room → Task → Nat → State → State} {run : Env → Room → Run → Run}
    (hc : exec c s = dueAt (hasRoom s room) (issueReady s room opc w none) s (issueWith room opc 1 w body s))
    (hbody : ∀ E x t n p, body E x t n p = wholeBody room w run E x t n p) : runsAs c s room opc w run := by
  rintro t i n h r rfl
  have hopc := issueReady_opcode h.ready
  generalize hr : run (envOf s t i room n opc) (roomOf s room) (runOf s (roomOf s room)) = r
  have hanswers {Q : State → Prop} (hQ : Q (slotPart room n (roomOf s room) w
      (commitRun room n opc t.num r (engagedState s room 1 n w 0 1)))) : answers c s Q := by
    refine answers_tile h hc ?_
    rwa [hbody, wholeBody, runOf_poppedState, hr, hopc, ← engagedState]
  have hothers : otherRooms s (commitRun room n opc t.num r (engagedState s room 1 n w 0 1)) [room] := fun k hk =>
    (roomOf_commit_ne _ _ _ _ _ _ _ (by simpa using hk)).trans (otherRooms_engagedState k hk)
  refine ⟨fun hnone => hanswers ?_, fun code iter line hfault => hanswers ?_⟩
  · have hroom := roomOf_commit room n opc t.num r (engagedState s room 1 n w 0 1) hnone
    rw [roomOf_engagedState, roomOf_poppedState] at hroom
    have hstore := commit_store room n opc t.num r (engagedState s room 1 n w 0 1)
    generalize commitRun room n opc t.num r (engagedState s room 1 n w 0 1) = u at *
    refine ⟨issued_of ?_ ?_ ?_ ?_ hothers, ?_, ranInto_slotPart ⟨hstore, ?_, ?_, ?_⟩⟩
    all_goals simp [inFlight, slotPart_room, hroom]
  · have hfree : (roomOf (engagedState s room 1 n w 0 1) room).fault = none := by rw [roomOf_engagedState, roomOf_poppedState]; exact ready_fault h.ready
    exact ⟨roomFault_slotPart (fault_commit hfault hfree), otherRooms_slotPart (by simp) hothers⟩

/-! One step of each op whose step is a run. -/

theorem runStep_mma (htask : roomTask s room = some (t, i)) (hopc : f.opc = 1) : runStep room f s =
    commitStep room t.num (matStep (envOf s t i room f.op f.opc) (matFields f.word) false f (runOf s (roomOf s room))) s := by simp [runStep, htask, hopc]

theorem runStep_mmt (htask : roomTask s room = some (t, i)) (hopc : f.opc = 2) : runStep room f s =
    commitStep room t.num (matStep (envOf s t i room f.op f.opc) (matFields f.word) true f (runOf s (roomOf s room))) s := by simp [runStep, htask, hopc]

theorem runStep_pair (htask : roomTask s room = some (t, i)) (hopc : f.opc = 3) : runStep room f s =
    pairWork room (envOf s t i room f.op f.opc) (roomOf s room) t f s := by simp [runStep, htask, hopc]

theorem runStep_chute (htask : roomTask s room = some (t, i)) (hopc : f.opc = 6) : runStep room f s =
    commitStep room t.num (chuteStep (envOf s t i room f.op f.opc) (chuteFields f.word) f (runOf s (roomOf s room))) s := by simp [runStep, htask, hopc]

theorem runStep_ewa (htask : roomTask s room = some (t, i)) (hopc : f.opc = 7) : runStep room f s =
    commitStep room t.num (ewaIter (envOf s t i room f.op f.opc) f.regs (ewaFields f.word) (runOf s (roomOf s room)) f.pos, { f with pos := f.pos + 1 }) s := by
  simp [runStep, htask, hopc]

theorem runStep_move (htask : roomTask s room = some (t, i)) (hopc : f.opc = 11) : runStep room f s =
    commitStep room t.num (moveStep (envOf s t i room f.op f.opc) (moveFields f.word) f (runOf s (roomOf s room))) s := by simp [runStep, htask, hopc]

/-- A pair that has no annex to ask, or whose block is not complete, makes its step. -/
theorem pairWork_steps (E : Env) (x : Room) (h : fnUsesAnnex (pairFields f.word2).func = false ∨ f.tiles.length ≠ (pairFields f.word2).ratio) :
    pairWork room E x t f s = commitStep room t.num (pairStep E (matFields f.word) (pairFields f.word2) x.press [] f (runOf s x)) s := by
  refine if_neg ?_
  rcases h with h | h <;> simp [h]

/-- A pair whose block is complete sends it to its annex (07 R218). -/
theorem pairWork_asks (E : Env) (x : Room) (hannex : fnUsesAnnex (pairFields f.word2).func = true) (hblock : f.tiles.length = (pairFields f.word2).ratio) :
    pairWork room E x t f s = startAnnex room (annexSlot (pairFields f.word2).table) true f (pairAnnexElems E (matFields f.word) (pairFields f.word2) f (runOf s x)) s :=
  if_pos (by simp [hannex, hblock])


/-- The ratio of a pair is a power of two, so a pair that has issued has no complete block (07 R203). -/
theorem no_block_at_issue : (issuedOp s room n w w2 0).tiles.length ≠ (pairFields w2).ratio := (Nat.two_pow_pos _).ne

/-- The ops whose work step is a run, with that run. -/
def stepRun (f : InFlight) (q : Run × InFlight) (E : Env) (x : Room) (r : Run) : Prop :=
  (f.opc = 1 ∧ q = matStep E (matFields f.word) false f r) ∨ (f.opc = 2 ∧ q = matStep E (matFields f.word) true f r) ∨
    (f.opc = 3 ∧ (fnUsesAnnex (pairFields f.word2).func = false ∨ f.tiles.length ≠ (pairFields f.word2).ratio) ∧
      q = pairStep E (matFields f.word) (pairFields f.word2) x.press [] f r) ∨
    (f.opc = 6 ∧ q = chuteStep E (chuteFields f.word) f r) ∨ (f.opc = 7 ∧ q = (ewaIter E f.regs (ewaFields f.word) r f.pos, { f with pos := f.pos + 1 })) ∨
    (f.opc = 11 ∧ q = moveStep E (moveFields f.word) f r)

theorem runStep_run (htask : roomTask s room = some (t, i)) {q : Run × InFlight}
    (hq : stepRun f q (envOf s t i room f.op f.opc) (roomOf s room) (runOf s (roomOf s room))) : runStep room f s = commitStep room t.num q s := by
  rcases hq with ⟨hopc, rfl⟩ | ⟨hopc, rfl⟩ | ⟨hopc, hpair, rfl⟩ | ⟨hopc, rfl⟩ | ⟨hopc, rfl⟩ | ⟨hopc, rfl⟩
  · exact runStep_mma htask hopc
  · exact runStep_mmt htask hopc
  · exact (runStep_pair htask hopc).trans (pairWork_steps _ _ hpair)
  · exact runStep_chute htask hopc
  · exact runStep_ewa htask hopc
  · exact runStep_move htask hopc

theorem otherRooms_refl {rs : List Nat} : otherRooms s s rs := fun _ _ => rfl

end

/-- Settles O5: an op that goes on in steps issues and makes its first step where it can go, and one that is made as a whole commits its run. -/
theorem tileRunsComplete : Obligations.TileRunsComplete := by
  intro s room w w2
  refine ⟨?_, ?_, ?_, fun hrelay => ?_, fun hskips => ?_, ?_, fun hannex => ?_, ?_, ?_, ?_⟩
  · exact stepsAs_of_runStep rfl (fun _ _ _ _ _ => rfl) (fun t i n p hopc htask => by rw [← hopc]; exact runStep_mma htask hopc)
      ⟨fun _ _ _ _ _ _ => rfl, fun _ _ _ _ => matStep_sameOp ..⟩
  · exact stepsAs_of_runStep rfl (fun _ _ _ _ _ => rfl) (fun t i n p hopc htask => by rw [← hopc]; exact runStep_mmt htask hopc)
      ⟨fun _ _ _ _ _ _ => rfl, fun _ _ _ _ => matStep_sameOp ..⟩
  · refine stepsAs_of_runStep rfl (fun _ _ _ _ _ => rfl) (fun t i n p hopc htask => ?_) ⟨fun _ _ _ _ _ h => by rw [h], fun _ _ _ _ => pairStep_sameOp ..⟩
    rw [← hopc]
    exact (runStep_pair htask hopc).trans (pairWork_steps _ _ (.inr no_block_at_issue))
  · refine stepsAs_of_runStep rfl (fun _ _ _ _ _ => rfl) (fun t i n p hopc htask => ?_) ⟨fun _ _ _ _ _ _ => rfl, fun _ _ _ _ => ⟨rfl, rfl, rfl⟩⟩
    rw [← hopc]
    exact (runStep_lds htask hopc).trans (if_neg (by rw [show (issuedOp s room n w 0 0).word = w from rfl, hrelay]; exact Bool.false_ne_true))
  · refine stepsAs_of_runStep rfl (fun t i n p h => if_neg (Bool.eq_false_iff.1 (hskips t i n h))) (fun t i n p hopc htask => ?_)
      ⟨fun _ _ _ _ _ _ => rfl, fun _ _ _ _ => chuteStep_sameOp ..⟩
    rw [← hopc]
    exact runStep_chute htask hopc
  · exact stepsAs_of_runStep rfl (fun _ _ _ _ _ => rfl) (fun t i n p hopc htask => by rw [← hopc]; exact runStep_ewa htask hopc)
      ⟨fun _ _ _ _ _ _ => rfl, fun _ _ _ _ => ⟨rfl, rfl, rfl⟩⟩
  · exact runsAs_of_wholeBody rfl fun _ _ _ _ _ => if_neg (by rw [hannex]; exact Bool.false_ne_true)
  · exact runsAs_of_wholeBody rfl fun _ _ _ _ _ => rfl
  · exact runsAs_of_wholeBody rfl fun _ _ _ _ _ => rfl
  · exact stepsAs_of_runStep rfl (fun _ _ _ _ _ => rfl) (fun t i n p hopc htask => by rw [← hopc]; exact runStep_move htask hopc)
      ⟨fun _ _ _ _ _ _ => rfl, fun _ _ _ _ => moveStep_sameOp ..⟩

/-- Settles O56: a step commits its run and the op it leaves, a pair with its block complete sets it out for its annex, and a flip exchanges the sets of its gang. -/
theorem workStepsOfIssuedOps : Obligations.WorkStepsOfIssuedOps := by
  rintro s room f t i htask x E v rfl rfl rfl
  refine ⟨fun q hnone hq => ?_, fun hopc hannex hblock => ?_, fun hopc => ?_⟩
  · rw [runStep_run htask hq]
    have hroom := roomOf_commitStep (s := s) (room := room) (task := t.num) hnone
    exact ⟨commitStep_ranInto hnone, by rw [hroom], by rw [hroom], by rw [hroom], by rw [hroom], by rw [hroom], otherRooms_commitStep otherRooms_refl⟩
  · rw [runStep_pair htask hopc, pairWork_asks _ _ hannex hblock, startAnnex]
    exact ⟨by rw [roomOf_modRoom], by rw [roomOf_modRoom], rfl, otherRooms_modRoom _ otherRooms_refl⟩
  · rw [runStep_flip htask hopc]
    refine ⟨?_, ?_, by rw [setFlight_store, modRoom_store], otherRooms_setFlight (otherRooms_modRoom _ otherRooms_refl)⟩
    all_goals rw [roomOf_setFlight, roomOf_modRoom]

end Sys2Proof.Machine


/-!
The ops that move bytes between rooms: `halo` (06 R185) and `relay` (06 R186, 09 R262, R263).
-/
namespace Sys2Proof.Machine

section
variable {s a b u : State} {room opc k n : Nat} {w w2 : OpWord} {w2? : Option OpWord} {t : Task} {i : Image}

/-! Issues that reach another room. -/

theorem popped_of (hbuf : (roomOf b room).opBuf = (roomOf s room).opBuf.drop k) (hissued : (roomOf b room).issued = (roomOf s room).issued + 1)
    (hg : (roomOf b room).g = (roomOf s room).g) (hnarrow : (roomOf b room).narrow = (roomOf s room).narrow) :
    Popped s (slotPart room n (roomOf s room) w b) room k n w := by
  refine ⟨?_, ?_, ?_, ?_⟩ <;> rw [slotPart_room] <;> dsimp only
  · exact hbuf
  · exact hissued
  · rw [hg]
  · rw [hnarrow, slotN]

theorem otherRooms_mono {rs rs' : List Nat} (h : otherRooms s u rs) (hsub : rs ⊆ rs') : otherRooms s u rs' := fun r hr => h r fun hr' => hr (hsub hr')

theorem otherRooms_modRoom_mem {rs : List Nat} {r : Nat} (f : Room → Room) (hr : r ∈ rs) (h : otherRooms s b rs) : otherRooms s (modRoom r f b) rs :=
  fun j hj => (roomOf_modRoom_ne (fun hj' => hj (by rw [hj']; exact hr)) f b).trans (h j hj)

/-- What a body has left of a room other than its own stands after its slot. -/
theorem roomOf_slotPart_ne {x : Room} {r : Nat} (hr : r ≠ room) : roomOf (slotPart room n x w b) r = roomOf b r := slotPart_room_ne _ _ _ _ _ _ hr

/-! A room's task and a run's parts through the entry of another run. -/

theorem commitRun_runParts {op task : Nat} {r : Run} (hnone : r.fault = none) : RunParts s (commitRun room op opc task r s) ∧
    (commitRun room op opc task r s).freeCtr = r.free ∧ (commitRun room op opc task r s).steward.images = s.steward.images := by
  unfold commitRun
  rw [hnone]
  exact ⟨⟨(putStore_leaves ..).params (by decide), (putStore_leaves ..).offered (by decide), putStore_map .., (putStore_leaves ..).defects (by decide)⟩,
    (putStore_leaves ..).freeCtr (by decide), (putStore_leaves ..).steward_images (by decide)⟩

/-- What a change of task `m` that keeps its number leaves of task `n`. -/
theorem taskOf_modTask {m : Nat} {f : Task → Task} (hf : ∀ t, (f t).num = t.num) : taskOf (modTask m f s) n = (taskOf s n).map fun t => if t.num = m then f t else t := by
  have hnum : (fun t : Task => t.num == n) ∘ (fun t => if t.num = m then f t else t) = fun t => t.num == n := by
    funext t
    simp only [Function.comp]
    split
    · rw [hf]
    · rfl
  simp only [taskOf, modTask, List.find?_map, hnum]

/-- What a run has written is noted at its task (11 R344), and a task is otherwise as it was. -/
theorem taskOf_commitRun {op task m : Nat} {r : Run} (hnone : r.fault = none) : taskOf (commitRun room op opc task r s) m =
    (taskOf s m).map fun t => if t.num = task then { t with wrote := r.wrote ++ t.wrote } else t := by
  have htasks : (commitRun room op opc task r s).steward.tasks = (modTask task (fun t => { t with wrote := r.wrote ++ t.wrote }) s).steward.tasks := by
    unfold commitRun
    rw [hnone]
    simp only [modRoom_steward, modTask, putStore_steward_tasks]
  exact (taskOf_of_tasks htasks m).trans (taskOf_modTask fun _ => rfl)

/-- The task of a room after a run, of this room or another, has entered the state: its run differs in what has been written alone. -/
theorem roomTask_commitRun {op task peer : Nat} {r : Run} {tp : Task} {ip : Image} (hnone : r.fault = none)
    (hsame : (roomOf b peer).task = (roomOf s peer).task) (hsteward : b.steward = (commitRun room op opc task r s).steward) (htask : roomTask s peer = some (tp, ip)) :
    ∃ wrote, roomTask b peer = some ({ tp with wrote := wrote }, ip) := by
  unfold roomTask at htask ⊢
  rw [hsame]
  split at htask
  case h_1 => cases htask
  case h_2 m hm =>
    have htaskOf : taskOf b m = (taskOf s m).map fun t => if t.num = task then { t with wrote := r.wrote ++ t.wrote } else t := by
      rw [← taskOf_commitRun hnone, taskOf, hsteward, taskOf]
    have himages (t : Task) (wr : List (Nat × Nat)) : imageOf b { t with wrote := wr } = imageOf s t := by
      rw [imageOf, hsteward, (commitRun_runParts hnone).2.2, imageOf]
    split at htask
    case h_1 => cases htask
    case h_2 t ht =>
      obtain ⟨i, hi, hti⟩ := Option.map_eq_some_iff.1 htask
      obtain ⟨rfl, rfl⟩ := Prod.mk.inj hti
      rw [htaskOf, ht]
      refine ⟨if t.num = task then r.wrote ++ t.wrote else t.wrote, ?_⟩
      have hwrote : (if t.num = task then { t with wrote := r.wrote ++ t.wrote } else t) = { t with wrote := if t.num = task then r.wrote ++ t.wrote else t.wrote } := by
        split <;> rfl
      simp only [Option.map_some, hwrote, himages, hi]

/-! A receive that lands (06 R185). -/

/-- The ops in flight when receive `op` has landed: its engagement has ended (06 R193). -/
def landedOps (op : Nat) (fs : List InFlight) : List InFlight := fs.map fun g => if g.op = op ∧ g.opc = 12 then { g with pos := g.total } else g

theorem landHalo_runs {op : Nat} {h : HaloSlot} {bs : List Byte} {r : Run} (htask : roomTask b room = some (t, i))
    (hr : r = haloWrite (envOf b t i room op 12) h.base h.pitch h.rows h.rb bs (runOf b (roomOf b room))) (hnone : r.fault = none) :
    roomOf (landHalo room op h bs b) room = { roomOf b room with
        cells := r.cells, act := r.act, counts := r.counts, stats := r.stats, wide := r.wide, scale := r.scale, vec := r.vec, lanes := r.lanes
        mismatch := keepMismatch r.mism (roomOf b room).mismatch, inflight := landedOps op (roomOf b room).inflight } ∧
      (∀ k, k ≠ room → roomOf (landHalo room op h bs b) k = roomOf b k) ∧ (landHalo room op h bs b).store = r.st := by
  have hland : landHalo room op h bs b = recvLanded room op (commitRun room op 12 t.num r b) := by
    rw [hr]
    unfold landHalo
    rw [htask]
  rw [hland]
  refine ⟨?_, fun k hk => ?_, ?_⟩
  · rw [recvLanded, roomOf_modRoom, roomOf_commit _ _ _ _ _ _ hnone]
    rfl
  · rw [recvLanded, roomOf_modRoom_ne hk, roomOf_commit_ne _ _ _ _ _ _ _ hk]
  · rw [recvLanded, modRoom_store, commit_store]

theorem halo_waits (h : CanIssue s room 12 1 w none t i n) (hrecv : (haloFields w).recv = true)
    (harrived : arrivedSend (roomOf s room) (haloFields w).peer (haloFields w).tag = none) :
    answers (.halo room w) s fun u => Issued s u room 1 n w ∧ inFlight s u room (issuedOp s room n w 0 0) ∧ u.store = s.store ∧
      (roomOf u room).halos = (roomOf s room).halos ++ [⟨(haloFields w).peer, (haloFields w).tag, false, [], n,
        opAddr (roomOf s room).g (haloFields w).lReg (haloFields w).lOff 64, (haloFields w).pitch, (haloFields w).rows, (haloFields w).rb⟩] := by
  refine answers_tile h rfl ?_
  have hbody : haloBody room w (envOf s t i room n 12) (roomOf s room) t n (poppedState s room 1 w) =
      haloRecv room (haloFields w) (roomOf s room) n (engagedState s room 1 n w 0 0) := if_pos hrecv
  rw [hbody, haloRecv, harrived]
  dsimp only
  generalize hb : modRoom room _ (engagedState s room 1 n w 0 0) = b
  have hroom : roomOf b room = { roomOf (engagedState s room 1 n w 0 0) room with halos := (roomOf s room).halos ++ [⟨(haloFields w).peer, (haloFields w).tag, false, [], n,
      opAddr (roomOf s room).g (haloFields w).lReg (haloFields w).lOff 64, (haloFields w).pitch, (haloFields w).rows, (haloFields w).rb⟩] } := by
    rw [← hb, roomOf_modRoom, roomOf_engagedState, roomOf_poppedState]
  rw [roomOf_engagedState, roomOf_poppedState] at hroom
  have hothers : otherRooms s b [room] := by rw [← hb]; exact otherRooms_modRoom _ otherRooms_engagedState
  have hstore : b.store = s.store := by rw [← hb, modRoom_store, engagedState_store]
  refine ⟨issued_of ?_ ?_ ?_ ?_ hothers, ?_, by rw [slotPart_store, hstore], ?_⟩
  all_goals simp [inFlight, slotPart_room, hroom]

/-- A receive whose send has come lands its bytes, and the sender learns of it. -/
theorem halo_lands (h : CanIssue s room 12 1 w none t i n) (hrecv : (haloFields w).recv = true) {a : HaloSlot} {r : Run}
    (harrived : arrivedSend (roomOf s room) (haloFields w).peer (haloFields w).tag = some a) (hpeer : (haloFields w).peer ≠ room)
    (hr : r = haloWrite (envOf s t i room n 12) (opAddr (roomOf s room).g (haloFields w).lReg (haloFields w).lOff 64) (haloFields w).pitch (haloFields w).rows
      (haloFields w).rb a.bytes (runOf s (roomOf s room))) (hnone : r.fault = none) :
    answers (.halo room w) s fun u => Popped s u room 1 n w ∧ (roomOf u room).inflight = landedOps n ((roomOf s room).inflight ++ [issuedOp s room n w 0 0]) ∧
      otherRooms s u [room, (haloFields w).peer] ∧ u.store = r.st ∧ (roomOf u room).halos = (roomOf s room).halos.erase a ∧
      (roomOf u (haloFields w).peer).halos = (roomOf s (haloFields w).peer).halos ++ [⟨room, (haloFields w).tag, true, [], a.op, n, 0, 0, 0⟩] := by
  refine answers_tile h rfl ?_
  have hbody : haloBody room w (envOf s t i room n 12) (roomOf s room) t n (poppedState s room 1 w) =
      haloRecv room (haloFields w) (roomOf s room) n (engagedState s room 1 n w 0 0) := if_pos hrecv
  rw [hbody, haloRecv, harrived]
  dsimp only
  generalize hb : markSent (haloFields w).peer room (haloFields w).tag a.op n _ = b
  have hroom : roomOf b room = { roomOf (engagedState s room 1 n w 0 0) room with halos := (roomOf s room).halos.erase a } := by
    rw [← hb, markSent, roomOf_modRoom_ne hpeer.symm, roomOf_modRoom, roomOf_engagedState, roomOf_poppedState]
  have hpeerRoom : roomOf b (haloFields w).peer = { roomOf s (haloFields w).peer with
      halos := (roomOf s (haloFields w).peer).halos ++ [⟨room, (haloFields w).tag, true, [], a.op, n, 0, 0, 0⟩] } := by
    rw [← hb, markSent, roomOf_modRoom, roomOf_modRoom_ne hpeer, otherRooms_engagedState _ (by simpa using hpeer)]
  have hothers : otherRooms s b [room, (haloFields w).peer] := by
    rw [← hb]
    exact otherRooms_modRoom_mem _ (by simp) (otherRooms_modRoom_mem _ (by simp) (otherRooms_mono otherRooms_engagedState (by simp)))
  obtain ⟨hparts, hfree⟩ := runParts_engagedState (s := s) (room := room) (k := 1) (n := n) (w := w) (w2 := 0) (pos := 0)
  have hstore : b.store = s.store := by rw [← hb]; exact engagedState_store (k := 1) (pos := 0)
  have hbtask : roomTask b room = some (t, i) := by
    rw [← h.task]
    refine roomTask_congr ?_ ?_
    · rw [hroom, roomOf_engagedState, roomOf_poppedState]
    · rw [← hb]; exact engagedState_steward (k := 1) (pos := 0)
  have henv : envOf b t i room n 12 = envOf s t i room n 12 := by rw [← hb]; exact envOf_congr ⟨hparts.params, hparts.offered, hparts.map, hparts.defects⟩ n
  have hrunOf : runOf b (roomOf b room) = runOf s (roomOf s room) := by
    have hbfree : b.freeCtr = s.freeCtr := by rw [← hb]; exact hfree
    rw [runOf, hbfree, hstore, hroom, roomOf_engagedState, roomOf_poppedState]
    rfl
  obtain ⟨hlanded, hrest, hlandedStore⟩ := landHalo_runs (op := n) (h := ⟨(haloFields w).peer, (haloFields w).tag, false, [], n,
    opAddr (roomOf s room).g (haloFields w).lReg (haloFields w).lOff 64, (haloFields w).pitch, (haloFields w).rows, (haloFields w).rb⟩) (bs := a.bytes) hbtask
    (by rw [henv, hrunOf]; exact hr) hnone
  generalize landHalo room n _ a.bytes b = v at *
  rw [hroom, roomOf_engagedState, roomOf_poppedState] at hlanded
  refine ⟨popped_of ?_ ?_ ?_ ?_, ?_, otherRooms_slotPart (by simp) fun k hk => ?_, by rw [slotPart_store, hlandedStore], ?_, ?_⟩
  case refine_6 => exact (hrest k fun hk' => hk (by simp [hk'])).trans (hothers k hk)
  case refine_8 => rw [roomOf_slotPart_ne hpeer, hrest _ hpeer, hpeerRoom]
  all_goals simp [slotPart_room, hlanded]


/-! A send (06 R185): it reads its region, and with a receive that waits at its peer it lands what it read. -/

theorem runOf_engagedState {pos : Nat} (x : Room) : runOf (engagedState s room k n w w2 pos) x = runOf s x := by
  rw [runOf, runParts_engagedState.2, engagedState_store, runOf]

/-- The state in which a send's bytes have been read. -/
def readState (s : State) (room n task : Nat) (w : OpWord) (r : Run) : State := commitRun room n 12 task r (engagedState s room 1 n w 0 1)

theorem roomOf_readState {task : Nat} {r : Run} (hnone : r.fault = none) : roomOf (readState s room n task w r) room =
    { roomOf (poppedState s room 1 w) room with
      cells := r.cells, act := r.act, counts := r.counts, stats := r.stats, wide := r.wide, scale := r.scale, vec := r.vec, lanes := r.lanes
      mismatch := keepMismatch r.mism (roomOf s room).mismatch, inflight := (roomOf s room).inflight ++ [issuedOp s room n w 0 1] } := by
  rw [readState, roomOf_commit _ _ _ _ _ _ hnone, roomOf_engagedState, roomOf_poppedState]

theorem otherRooms_readState {task : Nat} {r : Run} : otherRooms s (readState s room n task w r) [room] := fun k hk =>
  (roomOf_commit_ne _ _ _ _ _ _ _ (by simpa using hk)).trans (otherRooms_engagedState k hk)

/-- A send whose bytes have been read, with a receive that waits for them or with none. -/
theorem haloBody_sends (hsend : (haloFields w).recv = false) {q : Run × List Byte}
    (hq : q = haloRead (envOf s t i room n 12) (opAddr (roomOf s room).g (haloFields w).lReg (haloFields w).lOff 64) (haloFields w) (runOf s (roomOf s room)))
    (hnone : q.1.fault = none) (hpeer : (haloFields w).peer ≠ room) :
    (waitingReceive (roomOf s (haloFields w).peer) room (haloFields w).tag = none →
      haloBody room w (envOf s t i room n 12) (roomOf s room) t n (poppedState s room 1 w) = modRoom (haloFields w).peer
        (fun y => { y with halos := y.halos ++ [⟨room, (haloFields w).tag, true, q.2, n, 0, 0, (haloFields w).rows, (haloFields w).rb⟩] })
        (readState s room n t.num w q.1)) ∧
    (∀ h, waitingReceive (roomOf s (haloFields w).peer) room (haloFields w).tag = some h →
      haloBody room w (envOf s t i room n 12) (roomOf s room) t n (poppedState s room 1 w) = landHalo (haloFields w).peer h.op h q.2 (modRoom (haloFields w).peer
        (fun y => { y with halos := y.halos.erase h }) (markSent room (haloFields w).peer (haloFields w).tag n h.op (readState s room n t.num w q.1)))) := by
  have hbody : haloBody room w (envOf s t i room n 12) (roomOf s room) t n (poppedState s room 1 w) =
      haloSend room (haloFields w) (envOf s t i room n 12) (roomOf s room) t n (engagedState s room 1 n w 0 1) := if_neg (by rw [hsend]; exact Bool.false_ne_true)
  rw [hbody, haloSend, runOf_engagedState, ← hq]
  rw [hnone, if_neg (by simp), ← readState, otherRooms_readState _ (by simpa using hpeer)]
  exact ⟨fun hwaiting => by simp only [hwaiting], fun h hwaiting => by simp only [hwaiting]⟩

theorem halo_leaves (h : CanIssue s room 12 1 w none t i n) (hsend : (haloFields w).recv = false) (hpeer : (haloFields w).peer ≠ room) {q : Run × List Byte}
    (hq : q = haloRead (envOf s t i room n 12) (opAddr (roomOf s room).g (haloFields w).lReg (haloFields w).lOff 64) (haloFields w) (runOf s (roomOf s room)))
    (hnone : q.1.fault = none) (hwaiting : waitingReceive (roomOf s (haloFields w).peer) room (haloFields w).tag = none) :
    answers (.halo room w) s fun u => Popped s u room 1 n w ∧ inFlight s u room (issuedOp s room n w 0 1) ∧ otherRooms s u [room, (haloFields w).peer] ∧
      u.store = q.1.st ∧ (roomOf u (haloFields w).peer).halos = (roomOf s (haloFields w).peer).halos ++
        [⟨room, (haloFields w).tag, true, q.2, n, 0, 0, (haloFields w).rows, (haloFields w).rb⟩] := by
  refine answers_tile h rfl ?_
  rw [(haloBody_sends hsend hq hnone hpeer).1 hwaiting]
  generalize hb : modRoom (haloFields w).peer _ (readState s room n t.num w q.1) = b
  have hroom : roomOf b room = roomOf (readState s room n t.num w q.1) room := by rw [← hb, roomOf_modRoom_ne hpeer.symm]
  rw [roomOf_readState hnone, roomOf_poppedState] at hroom
  have hothers : otherRooms s b [room, (haloFields w).peer] := by
    rw [← hb]
    exact otherRooms_modRoom_mem _ (by simp) (otherRooms_mono otherRooms_readState (by simp))
  have hstore : b.store = q.1.st := by rw [← hb, modRoom_store, readState, commit_store]
  refine ⟨popped_of ?_ ?_ ?_ ?_, ?_, otherRooms_slotPart (by simp) hothers, by rw [slotPart_store, hstore], ?_⟩
  case refine_6 => rw [roomOf_slotPart_ne hpeer, ← hb, roomOf_modRoom, otherRooms_readState _ (by simpa using hpeer)]
  all_goals simp [inFlight, slotPart_room, hroom]

theorem halo_meets (h : CanIssue s room 12 1 w none t i n) (hsend : (haloFields w).recv = false) (hpeer : (haloFields w).peer ≠ room) {q : Run × List Byte}
    (hq : q = haloRead (envOf s t i room n 12) (opAddr (roomOf s room).g (haloFields w).lReg (haloFields w).lOff 64) (haloFields w) (runOf s (roomOf s room)))
    (hnone : q.1.fault = none) {hs : HaloSlot} {tp : Task} {ip : Image} {r : Run}
    (hwaiting : waitingReceive (roomOf s (haloFields w).peer) room (haloFields w).tag = some hs) (htask : roomTask s (haloFields w).peer = some (tp, ip))
    (hr : r = haloWrite (envOf s tp ip (haloFields w).peer hs.op 12) hs.base hs.pitch hs.rows hs.rb q.2
      { runOf s (roomOf s (haloFields w).peer) with st := q.1.st, free := q.1.free }) (hclean : r.fault = none) :
    answers (.halo room w) s fun u => Popped s u room 1 n w ∧ inFlight s u room (issuedOp s room n w 0 1) ∧ otherRooms s u [room, (haloFields w).peer] ∧ u.store = r.st ∧
      (roomOf u (haloFields w).peer).halos = (roomOf s (haloFields w).peer).halos.erase hs ∧
      (roomOf u (haloFields w).peer).inflight = landedOps hs.op (roomOf s (haloFields w).peer).inflight ∧
      (roomOf u room).halos = (roomOf s room).halos ++ [⟨(haloFields w).peer, (haloFields w).tag, true, [], n, hs.op, 0, 0, 0⟩] := by
  refine answers_tile h rfl ?_
  rw [(haloBody_sends hsend hq hnone hpeer).2 hs hwaiting]
  generalize hb : modRoom (haloFields w).peer _ (markSent room _ _ _ _ _) = b
  have hroom : roomOf b room = { roomOf (readState s room n t.num w q.1) room with
      halos := (roomOf s room).halos ++ [⟨(haloFields w).peer, (haloFields w).tag, true, [], n, hs.op, 0, 0, 0⟩] } := by
    rw [← hb, roomOf_modRoom_ne hpeer.symm, markSent, roomOf_modRoom, roomOf_readState hnone, roomOf_poppedState]
  have hpeerRoom : roomOf b (haloFields w).peer = { roomOf s (haloFields w).peer with halos := (roomOf s (haloFields w).peer).halos.erase hs } := by
    rw [← hb, roomOf_modRoom, markSent, roomOf_modRoom_ne hpeer, otherRooms_readState _ (by simpa using hpeer)]
  have hothers : otherRooms s b [room, (haloFields w).peer] := by
    rw [← hb]
    exact otherRooms_modRoom_mem _ (by simp) (otherRooms_modRoom_mem _ (by simp) (otherRooms_mono otherRooms_readState (by simp)))
  obtain ⟨hentered, hfree, -⟩ := commitRun_runParts (s := engagedState s room 1 n w 0 1) (room := room) (op := n) (opc := 12) (task := t.num) hnone
  have hstore : b.store = q.1.st := by rw [← hb]; exact commit_store ..
  have henv (wr : List (Nat × Nat)) : envOf b { tp with wrote := wr } ip (haloFields w).peer hs.op 12 = envOf s tp ip (haloFields w).peer hs.op 12 := by
    obtain ⟨hparams, hoffered, hmap, hdefects⟩ := runParts_engagedState.1.trans hentered
    rw [← hb]
    exact envOf_congr ⟨hparams, hoffered, hmap, hdefects⟩ hs.op
  have hrunOf : runOf b (roomOf b (haloFields w).peer) = { runOf s (roomOf s (haloFields w).peer) with st := q.1.st, free := q.1.free } := by
    have hbfree : b.freeCtr = q.1.free := by rw [← hb]; exact hfree
    rw [runOf, hbfree, hstore, hpeerRoom, runOf]
  obtain ⟨wr, hbtask⟩ : ∃ wr, roomTask b (haloFields w).peer = some ({ tp with wrote := wr }, ip) := by
    refine roomTask_commitRun (s := engagedState s room 1 n w 0 1) (room := room) (op := n) (opc := 12) (task := t.num) hnone ?_ ?_ ?_
    · rw [hpeerRoom, otherRooms_engagedState _ (by simpa using hpeer)]
    · rw [← hb]; rfl
    · rw [← htask]
      exact roomTask_congr (by rw [otherRooms_engagedState _ (by simpa using hpeer)]) engagedState_steward
  obtain ⟨hlanded, hrest, hlandedStore⟩ := landHalo_runs (op := hs.op) (h := hs) (bs := q.2) hbtask (by rw [henv, hrunOf]; exact hr) hclean
  generalize landHalo (haloFields w).peer hs.op hs q.2 b = v at *
  rw [roomOf_readState hnone, roomOf_poppedState, ← hrest room hpeer.symm] at hroom
  refine ⟨popped_of ?_ ?_ ?_ ?_, ?_, otherRooms_slotPart (by simp) fun k hk => ?_, by rw [slotPart_store, hlandedStore], ?_, ?_, ?_⟩
  case refine_6 => exact (hrest k fun hk' => hk (by simp [hk'])).trans (hothers k hk)
  case refine_7 => rw [roomOf_slotPart_ne hpeer, hlanded, hpeerRoom]
  case refine_8 => rw [roomOf_slotPart_ne hpeer, hlanded, hpeerRoom]
  all_goals simp [inFlight, slotPart_room, hroom]

/-! A relay (06 R186): a word a step, to the next room of its chain where there is one. -/

/-- The state in which a word of `bs` has gone on to the rooms `rest` of a chain. -/
def sentDown (rest : List Nat) (size : Nat) (bs : List Byte) (s : State) : State :=
  match rest with
  | next :: after => relayArrive next size after.isEmpty bs s
  | [] => s

theorem runStep_relay {f : InFlight} (htask : roomTask s room = some (t, i)) (hopc : f.opc = 13) : runStep room f s =
    relayWork room (envOf s t i room f.op f.opc) (roomOf s room) t f s := by simp [runStep, htask, hopc]

theorem relayWork_forwards {E : Env} {x : Room} {f : InFlight} {tile : RelayTile} (hforward : (relayFields f.word).forward = true) (hsending : relaySending x = some tile) :
    relayWork room E x t f s = sentDown (chainAfter E.var room) (relayBytes (relayFields f.word)) ((tile.bytes.drop tile.sent).take relayWord)
      (setFlight room { f with pos := f.pos + 1 } (modRoom room (fun y => { y with relay := sendTileWord y.relay }) s)) := by
  unfold relayWork
  simp only [hforward, hsending, if_true]
  rfl

theorem relayWork_reads {E : Env} {x : Room} {f : InFlight} {q : Run × List Byte} (hforward : (relayFields f.word).forward = false)
    (hq : q = wordToRelay E f.regs (relayFields f.word) f.pos (runOf s x)) (hnone : q.1.fault = none) :
    relayWork room E x t f s = sentDown (chainAfter E.var room) (relayBytes (relayFields f.word)) q.2 (commitStep room t.num (q.1, { f with pos := f.pos + 1 }) s) := by
  unfold relayWork
  simp only [hforward, ← hq, hnone, Option.isSome_none, Bool.false_eq_true, if_false]
  rfl

/-- A relay's first step is made in `c`, but for what goes on to another room; `tiles` is then in its relay buffer. -/
structure WordTaken (s c : State) (room n : Nat) (w : OpWord) (tiles : List RelayTile) : Prop where
  buf      : (roomOf c room).opBuf = (roomOf s room).opBuf.drop 1
  issued   : (roomOf c room).issued = (roomOf s room).issued + 1
  regs     : (roomOf c room).g = (roomOf s room).g
  narrow   : (roomOf c room).narrow = (roomOf s room).narrow
  inflight : (roomOf c room).inflight = (roomOf s room).inflight ++ [issuedOp s room n w 0 1]
  relay    : (roomOf c room).relay = tiles
  others   : otherRooms s c [room]

theorem wordTaken_forwards (h : CanIssue s room 13 1 w none t i n) : WordTaken s
    (setFlight room (issuedOp s room n w 0 1) (modRoom room (fun y => { y with relay := sendTileWord y.relay }) (firstStepState s room 1 n w 0)))
    room n w (sendTileWord (roomOf s room).relay) := by
  generalize hc : setFlight room _ _ = c
  have hroom : roomOf c room = { roomOf (poppedState s room 1 w) room with
      relay := sendTileWord (roomOf s room).relay, inflight := (roomOf s room).inflight ++ [issuedOp s room n w 0 1] } := by
    rw [← hc, roomOf_setFlight, roomOf_modRoom, roomOf_firstStepState]
    dsimp only
    rw [map_replace_last (f := issuedOp s room n w 0 0) (g := issuedOp s room n w 0 1) rfl h.order, roomOf_poppedState]
  rw [roomOf_poppedState] at hroom
  refine ⟨?_, ?_, ?_, ?_, ?_, ?_, by rw [← hc]; exact otherRooms_setFlight (otherRooms_modRoom _ otherRooms_firstStepState)⟩
  all_goals rw [hroom]

theorem wordTaken_reads (h : CanIssue s room 13 1 w none t i n) {r : Run} (hnone : r.fault = none) : WordTaken s
    (commitStep room t.num (r, issuedOp s room n w 0 1) (firstStepState s room 1 n w 0)) room n w (roomOf s room).relay := by
  have hroom := roomOf_commitStep (s := firstStepState s room 1 n w 0) (room := room) (task := t.num) (q := (r, issuedOp s room n w 0 1)) hnone
  rw [roomOf_firstStepState, roomOf_poppedState] at hroom
  dsimp only at hroom
  rw [map_replace_last (f := issuedOp s room n w 0 0) (g := issuedOp s room n w 0 1) rfl h.order] at hroom
  refine ⟨?_, ?_, ?_, ?_, ?_, ?_, otherRooms_commitStep otherRooms_firstStepState⟩
  all_goals rw [hroom]

theorem answers_relay (h : CanIssue s room 13 1 w none t i n) (hready : stepReady (issuedState s room 1 n w 0) room (issuedOp s room n w 0 0) = true) {Q : State → Prop}
    (hQ : Q (slotPart room n (roomOf s room) w (relayWork room (envOf s t i room n 13) (roomOf (firstStepState s room 1 n w 0) room) t (issuedOp s room n w 0 0)
      (firstStepState s room 1 n w 0)))) : answers (.relay room w) s Q := by
  have hopc : (issuedOp s room n w 0 0).opc = 13 := issueReady_opcode h.ready
  refine answers_tile h rfl ?_
  have hstep := runStep_relay (s := firstStepState s room 1 n w 0) (roomTask_paced _ h) hopc
  rw [envOf_firstStepState, hopc] at hstep
  rw [stepBody_poppedState h, if_pos hready]
  exact (congrArg (fun p => Q (slotPart room n (roomOf s room) w p)) hstep).mpr hQ

/-- The last room of a chain has no successor, so its word goes nowhere. -/
theorem relay_ends {c : State} {tiles : List RelayTile} {size : Nat} {bs : List Byte} (hc : WordTaken s c room n w tiles) : ∀ u,
    u = slotPart room n (roomOf s room) w (sentDown [] size bs c) →
    Issued s u room 1 n w ∧ inFlight s u room (issuedOp s room n w 0 1) ∧ u.store = c.store ∧ (roomOf u room).relay = tiles := by
  rintro u rfl
  refine ⟨issued_of hc.buf hc.issued hc.regs hc.narrow hc.others, ?_, slotPart_store .., ?_⟩
  all_goals simp [inFlight, slotPart_room, sentDown, hc.inflight, hc.relay]

/-- Elsewhere the word reaches the relay port of the next room. -/
theorem relay_reaches {c : State} {tiles : List RelayTile} {size next : Nat} {rest : List Nat} {bs : List Byte} (hc : WordTaken s c room n w tiles)
    (hnext : next ≠ room) : ∀ u, u = slotPart room n (roomOf s room) w (sentDown (next :: rest) size bs c) →
    Popped s u room 1 n w ∧ inFlight s u room (issuedOp s room n w 0 1) ∧ otherRooms s u [room, next] ∧ u.store = c.store ∧ (roomOf u room).relay = tiles ∧
      (roomOf u next).relay = relayPut size rest.isEmpty bs (roomOf s next).relay := by
  rintro u rfl
  have hroom : roomOf (sentDown (next :: rest) size bs c) room = roomOf c room := roomOf_modRoom_ne hnext.symm ..
  refine ⟨popped_of ?_ ?_ ?_ ?_, ?_, otherRooms_slotPart (by simp) (otherRooms_modRoom_mem _ (by simp) (otherRooms_mono hc.others (by simp))), slotPart_store .., ?_, ?_⟩
  case refine_7 =>
    rw [roomOf_slotPart_ne hnext, sentDown, relayArrive, roomOf_modRoom, hc.others _ (by simpa using hnext)]
  all_goals simp [inFlight, slotPart_room, hroom, hc.inflight, hc.relay, hc.buf, hc.issued, hc.regs, hc.narrow]

end

/-- Settles O8: a halo meets the other side of its crossing or waits for it, and a relay's word goes to the next room of its chain. -/
theorem haloAndRelayComplete : Obligations.HaloAndRelayComplete := by
  rintro s room w t i n x rfl
  refine ⟨?_, ?_⟩
  · rintro f E landed rfl rfl rfl h
    refine ⟨halo_waits h, fun hrecv a r harrived hpeer hr hnone => halo_lands h hrecv harrived hpeer hr hnone, fun hsend hpeer q hq hnone => ⟨?_, ?_⟩⟩
    · exact halo_leaves h hsend hpeer hq hnone
    · exact fun hs tp ip r hwaiting htask hr hclean => halo_meets h hsend hpeer hq hnone hwaiting htask hr hclean
  · rintro f a y rfl rfl rfl h
    have hrelay : (roomOf (firstStepState s room 1 n w 0) room).relay = (roomOf s room).relay := by rw [roomOf_firstStepState, roomOf_poppedState]
    have hforwards (hready : stepReady (issuedState s room 1 n w 0) room (issuedOp s room n w 0 0) = true) (hforward : (relayFields w).forward = true) (tile : RelayTile)
        (hsending : relaySending (roomOf s room) = some tile) {Q : State → Prop} {rest : List Nat} (hrest : chainAfter (variantOf i t) room = rest)
        (hQ : ∀ c, c.store = s.store → WordTaken s c room n w (sendTileWord (roomOf s room).relay) → Q (slotPart room n (roomOf s room) w
          (sentDown rest (relayBytes (relayFields w)) ((tile.bytes.drop tile.sent).take relayWord) c))) : answers (.relay room w) s Q := by
      refine answers_relay h hready ?_
      rw [relayWork_forwards hforward (by rw [relaySending, hrelay]; exact hsending), show (envOf s t i room n 13).var = variantOf i t from rfl, hrest]
      exact hQ _ (by rw [setFlight_store, modRoom_store, firstStepState_store]) (wordTaken_forwards h)
    have hreads (hready : stepReady (issuedState s room 1 n w 0) room (issuedOp s room n w 0 0) = true) (hforward : (relayFields w).forward = false) (q : Run × List Byte)
        (hq : q = wordToRelay (envOf s t i room n 13) (roomOf s room).g (relayFields w) 0 (runOf s (roomOf s room))) (hnone : q.1.fault = none) {Q : State → Prop}
        {rest : List Nat} (hrest : chainAfter (variantOf i t) room = rest)
        (hQ : ∀ c, c.store = q.1.st → WordTaken s c room n w (roomOf s room).relay → Q (slotPart room n (roomOf s room) w
          (sentDown rest (relayBytes (relayFields w)) q.2 c))) : answers (.relay room w) s Q := by
      refine answers_relay h hready ?_
      rw [relayWork_reads hforward (by rw [runOf_firstStepState]; exact hq) hnone, show (envOf s t i room n 13).var = variantOf i t from rfl, hrest]
      exact hQ _ commitStep_store (wordTaken_reads h hnone)
    refine ⟨waits_issued h rfl, fun hready hchain => ⟨fun hforward tile hsending => ?_, fun hforward q hq hnone => ?_⟩,
      fun hready next rest hchain hnext => ⟨fun hforward tile hsending => ?_, fun hforward q hq hnone => ?_⟩⟩
    · exact hforwards hready hforward tile hsending hchain fun c hstore hc => hstore ▸ relay_ends hc _ rfl
    · exact hreads hready hforward q hq hnone hchain fun c hstore hc => hstore ▸ relay_ends hc _ rfl
    · exact hforwards hready hforward tile hsending hchain fun c hstore hc => hstore ▸ relay_reaches hc hnext _ rfl
    · exact hreads hready hforward q hq hnone hchain fun c hstore hc => hstore ▸ relay_reaches hc hnext _ rfl

end Sys2Proof.Machine


/-!
What the room core does beside issuing: op fetch (06 R163), narrow accesses (06 R171, 08 R227), retirement (06 R193), and releases of `sync` in time (02 R49).
-/
namespace Sys2Proof.Machine

section
variable {s a b u : State} {room : Nat} {t : Task} {i : Image}

/-! Op fetch. -/

/-- A fetch is due in a room that runs, and such a room has no fault. -/
theorem opFetchReady_fault (h : opFetchReady s room = true) : (roomOf s room).fault = none := by
  simp only [opFetchReady, Bool.and_eq_true] at h
  obtain ⟨⟨⟨hruns, -⟩, -⟩, -⟩ := h
  obtain ⟨-, -, -, -, -, -, -, -, hfault⟩ := roomRuns_some hruns
  exact hfault

/-- A fetch whose lines are read without a fault. -/
theorem opFetchEff_reads {st : Store} {line : Nat} (htask : roomTask s room = some (t, i)) (hadmitted : fetchFault s (roomOf s room) t.ctx = 0)
    (hread : readLines s.store false (linesOf ((roomOf s room).listBase + 512 * ((roomOf s room).fetchNext / 16)) 512) = (st, 0, line)) :
    opFetchEff s room = modRoom room (fun y => { y with
      opBuf := y.opBuf ++ fetchWords s (roomOf s room), fetchNext := (roomOf s room).fetchNext + (fetchWords s (roomOf s room)).length }) (putStore st s) := by
  simp [opFetchEff, htask, hadmitted, hread]

/-- A fetch that may not be made: its context may not read the line, or the line is not there. -/
theorem opFetchEff_faults (htask : roomTask s room = some (t, i)) (hfault : fetchFault s (roomOf s room) t.ctx ≠ 0) : opFetchEff s room =
    raiseFault room (roomOf s room).fetchNext 0 (fetchFault s (roomOf s room) t.ctx) 0 (((roomOf s room).listBase + 32 * (roomOf s room).fetchNext) / 64) s := by
  simp [opFetchEff, htask, hfault]

theorem opFetch_reads (hroom : hasRoom s room = true) (hready : opFetchReady s room = true) (htask : roomTask s room = some (t, i))
    (hadmitted : fetchFault s (roomOf s room) t.ctx = 0) {st : Store} {line : Nat}
    (hread : readLines s.store false (linesOf ((roomOf s room).listBase + 512 * ((roomOf s room).fetchNext / 16)) 512) = (st, 0, line)) :
    answers (.opFetch room) s fun u => u.store = st ∧ (roomOf u room).opBuf = (roomOf s room).opBuf ++ fetchWords s (roomOf s room) ∧
      (roomOf u room).fetchNext = (roomOf s room).fetchNext + (fetchWords s (roomOf s room)).length ∧ (roomOf u room).g = (roomOf s room).g ∧ otherRooms s u [room] := by
  refine answers_dueAt rfl hroom hready ?_
  rw [opFetchEff_reads htask hadmitted hread, roomOf_modRoom, roomOf_of_rooms (putStore_rooms ..)]
  exact ⟨putStore_store .., rfl, rfl, rfl, otherRooms_modRoom _ fun r _ => roomOf_of_rooms (putStore_rooms ..) r⟩

theorem opFetch_faults (hroom : hasRoom s room = true) (hready : opFetchReady s room = true) (htask : roomTask s room = some (t, i))
    (hfault : fetchFault s (roomOf s room) t.ctx ≠ 0) :
    answers (.opFetch room) s fun u => (roomOf u room).fault =
        some ⟨fetchFault s (roomOf s room) t.ctx, room, (roomOf s room).fetchNext, 0, 0, ((roomOf s room).listBase + 32 * (roomOf s room).fetchNext) / 64, 0⟩ ∧
      (roomOf u room).opBuf = (roomOf s room).opBuf ∧ u.store = s.store ∧ otherRooms s u [room] := by
  refine answers_dueAt rfl hroom hready ?_
  rw [opFetchEff_faults htask hfault, raiseFault_room (opFetchReady_fault hready)]
  exact ⟨rfl, rfl, raiseFault_store .., otherRooms_raiseFault rfl⟩

/-! Narrow accesses. -/

theorem length_leBytes (v : Nat) : ∀ n, (leBytes n v).length = n := by
  intro n
  induction n generalizing v with
  | zero => rfl
  | succ n ih => rw [leBytes, List.length_cons, ih]

/-- What has been written reads back. -/
theorem memBytes_memPut (st : Store) (addr : Nat) (bs : List Byte) : memBytes (memPut st addr bs) addr bs.length = bs := by
  refine List.ext_getElem (by simp [memBytes, tabGetList]) fun k hk hk' => ?_
  simp only [memBytes, tabGetList, List.getElem_map, List.getElem_range]
  exact memPut_at st addr bs k hk'

/-- The word that a narrow store rewrites reads back (08 R227). -/
theorem memBytes_storeWord (st : Store) (addr : Nat) (v : BitVec 32) : memBytes (storeWord st addr v) addr 4 = leBytes 4 v.toNat := by
  have h := memBytes_memPut st addr (leBytes 4 v.toNat)
  rw [length_leBytes] at h
  exact h

/-- The oldest access not yet served is served, and what waited for it goes on. -/
theorem narrowServiceEff_serves {pre rest : List Narrow} {c : Narrow} (hnarrow : (roomOf s room).narrow = pre ++ c :: rest) (hserved : ∀ d ∈ pre, d.served = true)
    (hunserved : c.served = false) : narrowServiceEff s room =
      takeCycle (.pantryPort room) (landCloses (settle room (if c.load then serveLoad s room c rest pre.length else serveStore s room c rest pre.length))) := by
  unfold narrowServiceEff
  simp only [hnarrow, takeWhile_pre Narrow.served pre c rest hserved hunserved, List.drop_left]

/-- What serving an access leaves: its room differs in its narrow accesses alone, and the store is `st`. -/
structure NarrowServed (s v : State) (room : Nat) (narrow : List Narrow) (st : Store) : Prop where
  inRoom : roomOf v room = { roomOf s room with narrow := narrow }
  others : otherRooms s v [room]
  store  : v.store = st

theorem narrowServed_modRoom {narrow : List Narrow} {st : Store} {f : Room → Room} (hf : f (roomOf s room) = { roomOf s room with narrow := narrow }) :
    NarrowServed s (modRoom room f (putStore st s)) room narrow st := by
  have hrooms (r : Nat) : roomOf (putStore st s) r = roomOf s r := roomOf_of_rooms (putStore_rooms ..) r
  exact ⟨by rw [roomOf_modRoom, hrooms, hf], otherRooms_modRoom _ fun r _ => hrooms r, by rw [modRoom_store, putStore_store]⟩

/-- A load that is served holds the word of its address, and is still to write its register. -/
theorem serveLoad_serves {pre rest : List Narrow} {c : Narrow} {st : Store} (hnarrow : (roomOf s room).narrow = pre ++ c :: rest)
    (hread : readLine s.store (pantryAddr room c.offset / 64) false = (st, 0)) : NarrowServed s (serveLoad s room c rest pre.length) room
      (pre ++ { c with served := true, value := BitVec.ofNat 32 (leVal (memBytes s.store (pantryAddr room c.offset) 4)) } :: rest) st := by
  unfold serveLoad
  simp only [hread, ne_eq, not_true_eq_false, if_false]
  exact narrowServed_modRoom (by simp [hnarrow])

/-- A store that is served puts its word at its address, and is done; its task notes what it wrote. -/
theorem serveStore_serves {pre rest : List Narrow} {c : Narrow} {st : Store} (hnarrow : (roomOf s room).narrow = pre ++ c :: rest)
    (hread : readLine s.store (pantryAddr room c.offset / 64) false = (st, 0)) : NarrowServed s (serveStore s room c rest pre.length) room
      (pre ++ rest) (storeWord st (pantryAddr room c.offset) c.value) := by
  unfold serveStore
  simp only [hread, ne_eq, not_true_eq_false, if_false]
  have hserved := narrowServed_modRoom (s := s) (room := room) (narrow := pre ++ rest) (st := storeWord st (pantryAddr room c.offset) c.value)
    (f := fun x => { x with narrow := x.narrow.take pre.length ++ rest }) (by simp [hnarrow])
  split
  · exact ⟨hserved.inRoom, hserved.others, hserved.store⟩
  · exact hserved

theorem narrowAccess_serves (hroom : hasRoom s room = true) (hfrozen : s.shell.snap.frozen = false) (hcycle : mayCycle s (.pantryPort room) = true)
    {pre rest : List Narrow} {c : Narrow} {st : Store} (hnarrow : (roomOf s room).narrow = pre ++ c :: rest) (hpre : ∀ d ∈ pre, d.served = true)
    (hunserved : c.served = false) (hread : readLine s.store (pantryAddr room c.offset / 64) false = (st, 0)) :
    answers (.narrowAccessService room) s fun u => ∃ v, u = takeCycle (.pantryPort room) (landCloses (settle room v)) ∧ (roomOf v room).g = (roomOf s room).g ∧
      otherRooms s v [room] ∧
      (c.load = true → (roomOf v room).narrow =
          pre ++ { c with served := true, value := BitVec.ofNat 32 (leVal (memBytes s.store (pantryAddr room c.offset) 4)) } :: rest ∧
        ∀ d, storeByte v d = storeByte s d) ∧
      (c.load = false → (roomOf v room).narrow = pre ++ rest ∧ memBytes v.store (pantryAddr room c.offset) 4 = leBytes 4 c.value.toNat ∧
        ∀ d, outside [(pantryAddr room c.offset, 4)] d → storeByte v d = storeByte s d) := by
  have hmem : st.mem = s.store.mem := by simpa [hread] using readLine_mem s.store (pantryAddr room c.offset / 64) false
  refine answers_dueAt rfl hroom ?_ ?_
  · simp [hnarrow, hunserved, hfrozen, hcycle]
  rw [narrowServiceEff_serves hnarrow hpre hunserved]
  refine ⟨_, rfl, ?_⟩
  split
  case isTrue hload =>
    have hserved := serveLoad_serves hnarrow hread
    refine ⟨by rw [hserved.inRoom], hserved.others, fun _ => ⟨by rw [hserved.inRoom], fun d => storeByte_of (by rw [hserved.store, hmem]) d⟩, fun hstore => ?_⟩
    rw [hload] at hstore
    cases hstore
  case isFalse hload =>
    have hserved := serveStore_serves hnarrow hread
    refine ⟨by rw [hserved.inRoom], hserved.others, fun h => absurd h hload, fun _ => ⟨by rw [hserved.inRoom], ?_, fun d hd => ?_⟩⟩
    · rw [hserved.store, memBytes_storeWord]
    · rw [storeByte, hserved.store, (storeWord_keeps ..).bytes d hd, hmem, storeByte]

theorem narrowLoad_completes (hroom : hasRoom s room = true) (hfrozen : s.shell.snap.frozen = false) {c : Narrow}
    (holdest : (roomOf s room).narrow.find? (·.served) = some c) :
    answers (.narrowLoadComplete room) s fun u => ∃ v, u = settle room v ∧ (roomOf v room).g = setG (roomOf s room).g c.reg c.value ∧
      (roomOf v room).narrow = (roomOf s room).narrow.erase c ∧ (roomOf v room).inflight = (roomOf s room).inflight ∧ v.store = s.store ∧ otherRooms s v [room] := by
  refine answers_dueAt rfl hroom ?_ ?_
  · simp only [hfrozen, Bool.not_false, Bool.and_true, List.any_eq_true]
    exact ⟨c, List.mem_of_find?_eq_some holdest, List.find?_some holdest⟩
  rw [narrowLoadEff, holdest]
  refine ⟨_, rfl, ?_, ?_, ?_, modRoom_store .., otherRooms_modRoom _ otherRooms_refl⟩
  all_goals rw [roomOf_modRoom]

/-! Retirement. -/

/-- An op whose work has all entered has no step to make. -/
theorem finishOp_done {f : InFlight} (hflight : flightOf (roomOf s room) f.seq = some f) (hopc : f.opc ≠ 16) (hdone : opEngaged f = false) : finishOp room f s = s := by
  have hwaits : stepReady s room f = false := by
    unfold stepReady
    split
    · rfl
    · simp [hdone]
  rw [finishOp, if_neg hopc]
  cases 2 * f.total with
  | zero => rfl
  | succ k =>
    rw [stepMany, hflight]
    exact if_neg (by rw [hwaits]; exact Bool.false_ne_true)

/-- The state in which a retired op has left, with what it was told of its own sends. -/
def retiredState (a : State) (room op : Nat) (f g : InFlight) : State := modRoom room (fun x => { x with
  inflight := x.inflight.filter fun h => h.seq != f.seq
  halos := x.halos.filter fun h => !(g.opc == 12 && h.arrived && h.op == op && h.rows == 0) }) a

/-- A retirement leaves what `e` is, where the op's number is in flight. -/
theorem answers_opRetire {op : Nat} {f : InFlight} {e : State} {Q : State → Prop} (hroom : hasRoom s room = true) (hold : oldestOp (roomOf s room) op = some f)
    (hfrozen : s.shell.snap.frozen = false) (heff : retireEff s room op = e) (hQ : Q e) : answers (.opRetire room op) s Q :=
  answers_dueAt rfl hroom (by simp [retireReady, hold, hfrozen]) (heff ▸ hQ)

theorem retireEff_gone {op : Nat} {f : InFlight} (hold : oldestOp (roomOf s room) op = some f) (hgone : flightOf (roomOf (finishOp room f s) room) f.seq = none) :
    retireEff s room op = finishOp room f s := by
  unfold retireEff
  rw [hold]
  dsimp only
  rw [hgone]

theorem retireEff_left {op : Nat} {f g : InFlight} (hold : oldestOp (roomOf s room) op = some f)
    (hleft : flightOf (roomOf (finishOp room f s) room) f.seq = some g) : retireEff s room op =
      if (opEngaged g || opWaits (finishOp room f s) room g) = true then finishOp room f s else settle room (retiredState (finishOp room f s) room op f g) := by
  unfold retireEff
  rw [hold]
  dsimp only
  rw [hleft]
  rfl

/-- With no signal at the head, an end is noted by a `sync` alone (02 R49). -/
theorem settle_noSignal {v : State} (hhead : ∀ f rest, (roomOf v room).inflight = f :: rest → f.opc ≠ 19) : settle room v = noteArrival room v := by
  unfold settle
  generalize (roomOf v room).inflight.length = k
  cases k with
  | zero => rfl
  | succ k =>
    rw [sendSignals]
    split
    case h_1 f rest hf => rw [if_neg fun h => hhead f rest hf h.1]
    case h_2 => rfl

/-! A release in time. -/

theorem syncReleaseEff_inTime {n group due : Nat} (hrun : runningTask s n = some (t, i)) (hdue : syncDue s t i group = some (due, false)) :
    syncReleaseEff s n group = releaseSync (syncRooms i t group) s := by
  unfold syncReleaseEff
  rw [hrun]
  dsimp only
  rw [hdue]

theorem syncRelease_inTime {n group due : Nat} (hready : syncReady s n group = true) (hrun : runningTask s n = some (t, i))
    (hdue : syncDue s t i group = some (due, false)) : answers (.syncRelease n group) s fun u =>
      (∀ r ∈ syncRooms i t group, (roomOf u r).hold = .none) ∧ otherRooms s u (syncRooms i t group) ∧ u.store = s.store := by
  refine answers_due rfl hready ?_
  rw [syncReleaseEff_inTime hrun hdue]
  exact ⟨fun r hr => by rw [releaseSync_room, if_pos hr], fun r hr => by rw [releaseSync_room, if_neg hr], releaseSync_store ..⟩

end

/-- Settles O10: each event's effect is read at its room; what an access or a retirement ends is left to `settle`. -/
theorem roomEventsComplete : Obligations.RoomEventsComplete := by
  rintro s room hroom x rfl
  refine ⟨fun t i hready htask => ⟨fun hadmitted st line hread => opFetch_reads hroom hready htask hadmitted hread, opFetch_faults hroom hready htask⟩,
    fun hfrozen hcycle pre c rest st hnarrow hpre hunserved hread => narrowAccess_serves hroom hfrozen hcycle hnarrow hpre hunserved hread,
    fun hfrozen c holdest => narrowLoad_completes hroom hfrozen holdest, ?_, fun v => settle_noSignal,
    fun n group t i due hready hrun hdue => syncRelease_inTime hready hrun hdue⟩
  rintro op f a hold hflight hfrozen rfl
  refine ⟨fun hgone => answers_opRetire hroom hold hfrozen (retireEff_gone hold hgone) rfl, fun g hleft => ⟨fun hheld => ?_, fun hfree => ?_⟩, finishOp_done hflight⟩
  · exact answers_opRetire hroom hold hfrozen ((retireEff_left hold hleft).trans (if_pos hheld)) rfl
  · refine answers_opRetire hroom hold hfrozen ((retireEff_left hold hleft).trans (if_neg (by rw [hfree]; exact Bool.false_ne_true))) ⟨_, rfl, ?_⟩
    refine ⟨?_, ?_, ?_, ?_, modRoom_store .., otherRooms_modRoom _ otherRooms_refl⟩
    all_goals rw [retiredState, roomOf_modRoom]

end Sys2Proof.Machine


/-!
Tasks that stop: the report of a room's fault (06 R199, 17 R487), the halt of a task (11 R344, R345, 02 R60), and the end of a context's destruction (11 R347, 10 R313).
-/
namespace Sys2Proof.Machine

section
variable {s a b u : State} {room n c : Nat} {t : Task}

/-! A fault's report. -/

/-- A room reports its fault, and the unit that it names is to blame (17 R487). -/
def reportedState (s : State) (room : Nat) (f : FaultRec) : State :=
  (faultUnit s room f).elim (modRoom room (fun x => { x with reported := true }) s) fun k =>
    blame k.1 k.2 f.code (some room) (roomOf s room).task (roomOf s room).mismatch (modRoom room (fun x => { x with reported := true }) s)

theorem faultReportEff_halts {f : FaultRec} {m : Nat} (hfault : (roomOf s room).fault = some f) (htask : (roomOf s room).task = some m) :
    faultReportEff s room = haltTask m f.code (some f) (faultUnit s room f).isSome (reportedState s room f) := by
  unfold faultReportEff reportedState
  simp only [hfault, htask]
  cases faultUnit s room f with
  | none => rfl
  | some k => rfl

theorem faultReportEff_alone {f : FaultRec} (hfault : (roomOf s room).fault = some f) (htask : (roomOf s room).task = none) :
    faultReportEff s room = reportedState s room f := by
  unfold faultReportEff reportedState
  simp only [hfault, htask]
  cases faultUnit s room f with
  | none => rfl
  | some k => rfl

theorem reportedState_leaves {f : FaultRec} : changesOnly (· ∈ ([.rooms, .healthSt, .intStatus, .messages, .health] : List Part)) s (reportedState s room f) := by
  unfold reportedState
  cases faultUnit s room f with
  | none => exact modRoom_only (by decide) _ _ only_refl
  | some k => exact blame_only (by decide) (by decide) (by decide) (by decide) _ _ _ _ _ _ (modRoom_only (by decide) _ _ only_refl)

theorem roomOf_reportedState {f : FaultRec} : roomOf (reportedState s room f) room = { roomOf s room with reported := true } := by
  unfold reportedState
  cases faultUnit s room f with
  | none => rw [Option.elim_none, roomOf_modRoom]
  | some k => rw [Option.elim_some, roomOf_of_rooms (blame_rooms ..), roomOf_modRoom]

theorem reportedState_blames {f : FaultRec} {k i : Nat} (hunit : faultUnit s room f = some (k, i)) :
    ⟨k, i, f.code, some room, (roomOf s room).task, (roomOf s room).mismatch⟩ ∈ (reportedState s room f).health.attribs := by
  rw [reportedState, hunit, Option.elim_some, (blame_recorded ..).1]
  simp

theorem faultReport_halts {f : FaultRec} (hroom : hasRoom s room = true) (hready : faultReady s room = true) (hfault : (roomOf s room).fault = some f) :
    answers (.faultReport room) s fun u => (roomOf u room).reported = true ∧ (roomOf u room).fault = some f ∧ u.store = s.store ∧
      (∀ k i, faultUnit s room f = some (k, i) → ⟨k, i, f.code, some room, (roomOf s room).task, (roomOf s room).mismatch⟩ ∈ u.health.attribs) ∧
      ∀ n t, (roomOf s room).task = some n → taskOf s n = some t → t.state = .launched → t.halting = false →
        ∃ v, taskOf u n = some v ∧ v.halting = true ∧ v.status = f.code := by
  refine answers_dueAt rfl hroom hready ?_
  have hreported := roomOf_reportedState (s := s) (room := room) (f := f)
  have hstore : (reportedState s room f).store = s.store := reportedState_leaves.store (by decide)
  rcases Option.eq_none_or_eq_some (roomOf s room).task with hnone | ⟨m, hm⟩
  · rw [faultReportEff_alone hfault hnone, hreported]
    refine ⟨rfl, hfault, hstore, fun k i hunit => reportedState_blames hunit, fun n t htask => ?_⟩
    rw [hnone] at htask
    cases htask
  · rw [faultReportEff_halts hfault hm, roomOf_of_rooms (haltTask_rooms ..), hreported, haltTask_store, haltTask_health]
    refine ⟨rfl, hfault, hstore, fun k i hunit => reportedState_blames hunit, fun n t htask ht hlaunched hgoing => ?_⟩
    cases Option.some.inj (hm.symm.trans htask)
    exact haltTask_task ((taskOf_of_tasks (reportedState_leaves.steward_tasks (by decide)) m).trans ht) hlaunched hgoing

/-! A task's rooms are released, and what it wrote is undefined. -/

theorem freeRooms_task : ∀ {rs : List Nat} {s : State} {r : Nat}, r ∈ rs ∨ (roomOf s r).task = none → (roomOf (freeRooms rs s) r).task = none
  | [], _, _, h => h.resolve_left (by simp)
  | q :: rs, s, r, h => by
    rw [freeRooms]
    refine freeRooms_task ?_
    rw [roomOf_of_rooms (phaseEnd_rooms ..), freeRoom]
    by_cases hr : r = q
    · subst hr
      exact .inr (by rw [roomOf_modRoom]; rfl)
    · rw [roomOf_modRoom_ne hr]
      exact h.imp_left fun hmem => (List.mem_cons.1 hmem).resolve_left hr

theorem releaseTask_task (ht : taskOf s n = some t) {r : Nat} (hr : r ∈ t.rooms) : (roomOf (releaseTask n s) r).task = none := by
  unfold releaseTask
  rw [ht]
  dsimp only
  rw [roomOf_of_rooms (modFabric_rooms ..), roomOf_of_rooms (flushPorts_rooms ..)]
  exact freeRooms_task (.inl hr)

theorem length_freeBytes (k m : Nat) : (freeBytes k m).length = m := by simp [freeBytes]

/-- Bytes outside the ranges stand. -/
theorem storeByte_scramble : ∀ {rs : List (Nat × Nat)} {s : State} {d : Nat}, outside rs d → storeByte (scramble rs s) d = storeByte s d
  | [], _, _, _ => rfl
  | (addr, m) :: rs, s, d, h => by
    obtain ⟨hhead, htail⟩ := List.forall_mem_cons.1 h
    rw [scramble, storeByte_scramble htail]
    refine (memPut_keeps s.store addr (freeBytes s.freeCtr m)).bytes d ?_
    rw [length_freeBytes]
    exact fun r hr => by rw [List.mem_singleton.1 hr]; exact hhead

theorem releaseTask_storeByte (d : Nat) : storeByte (releaseTask n s) d = storeByte s d := by
  unfold releaseTask
  split
  · rfl
  · refine storeByte_of ?_ d
    rw [modFabric, (flushPorts_only (P := (· ≠ .store)) (by simp) _ only_refl).store (by simp),
      (freeRooms_only (P := (· ≠ .store)) (by simp) (by simp) _ only_refl).store (by simp), modStore, setRings_mem]
    rfl

/-! Tasks through the operations of an end. -/

/-- What a promotion leaves of a task: at most it has become eligible (11 R339). -/
structure Promoted (t v : Task) : Prop where
  stays     : t.state ≠ .queued → v = t
  requeues  : v.requeues = t.requeues
  rooms     : v.rooms = t.rooms
  halting   : v.halting = t.halting
  restarted : v.restarted = t.restarted

theorem Promoted.refl : Promoted t t := ⟨fun _ => rfl, rfl, rfl, rfl, rfl⟩

theorem Promoted.trans {v w : Task} (h : Promoted t v) (h' : Promoted v w) : Promoted t w :=
  ⟨fun hstate => by have hv := h.stays hstate; rw [h'.stays (by rw [hv]; exact hstate), hv], h'.requeues.trans h.requeues, h'.rooms.trans h.rooms,
    h'.halting.trans h.halting, h'.restarted.trans h.restarted⟩

theorem taskOf_modTask_ne {m : Nat} {f : Task → Task} (hm : m ≠ n) (hf : ∀ t, (f t).num = t.num) : taskOf (modTask m f s) n = taskOf s n := by
  rw [taskOf_modTask hf]
  rcases ht : taskOf s n with _ | t
  · rfl
  · have hnum : t.num = n := by simpa using List.find?_some ht
    rw [Option.map_some, if_neg fun h => hm (h.symm.trans hnum)]

theorem taskOf_promoteQueue (q : Nat) (ht : taskOf s n = some t) : ∃ v, taskOf (promoteQueue q s) n = some v ∧ Promoted t v := by
  have hsame : ∃ v, taskOf s n = some v ∧ Promoted t v := ⟨t, ht, .refl⟩
  unfold promoteQueue
  split
  case h_1 => exact hsame
  case h_2 =>
    split
    case h_2 => exact hsame
    case h_1 m _ _ =>
      split
      case h_2 => exact hsame
      case h_1 tm htm =>
        dsimp only
        split_ifs with hqueued
        · obtain ⟨hstate, -⟩ := hqueued
          by_cases hm : m = n
          · rw [hm, ht] at htm
            cases htm
            rw [hm]
            exact ⟨_, taskOf_modTask_same n _ (by exact fun _ => rfl) _ t ht, fun hother => absurd hstate hother, rfl, rfl, rfl, rfl⟩
          · exact ⟨t, (taskOf_modTask_ne hm (by exact fun _ => rfl)).trans ht, .refl⟩
        · exact hsame

theorem taskOf_promoteList : ∀ (qs : List Nat) {s : State} {t : Task}, taskOf s n = some t → ∃ v, taskOf (promoteList qs s) n = some v ∧ Promoted t v
  | [], _, t, ht => ⟨t, ht, .refl⟩
  | q :: qs, _, _, ht => by
    obtain ⟨v, hv, htv⟩ := taskOf_promoteQueue q ht
    obtain ⟨w, hw, hvw⟩ := taskOf_promoteList qs hv
    exact ⟨w, hw, htv.trans hvw⟩

theorem taskOf_promote (ht : taskOf s n = some t) : ∃ v, taskOf (promote s) n = some v ∧ Promoted t v := taskOf_promoteList _ ht

/-- A record that is begun is noted at its task alone. -/
theorem taskOf_tryRecord (q : Nat) (ht : taskOf s n = some t) : ∃ r, taskOf (tryRecord q s) n = some { t with record := r } := by
  have hsame : ∃ r, taskOf s n = some { t with record := r } := ⟨t.record, ht⟩
  unfold tryRecord
  split
  case h_1 => exact hsame
  case h_2 =>
    split
    case isTrue => exact hsame
    case isFalse =>
      split
      case h_1 => exact hsame
      case h_2 w _ =>
        rw [taskOf_of_tasks (issueReq_steward_tasks ..)]
        by_cases hw : w.num = n
        · rw [hw]
          exact ⟨.writing, taskOf_modTask_same n _ (by exact fun _ => rfl) s t ht⟩
        · exact ⟨t.record, (taskOf_modTask_ne hw (by exact fun _ => rfl)).trans ht⟩

/-- The end of a task that has not completed (11 R339). -/
theorem taskOf_finishTask {st : TState} {status : Nat} (ht : taskOf s n = some t) (hst : st ≠ .completed) :
    ∃ v, taskOf (finishTask n st status s) n = some v ∧ v.state = st ∧ v.status = status ∧ v.endBeat = upBeat s := by
  unfold finishTask
  rw [ht]
  dsimp only
  rw [if_neg hst]
  obtain ⟨r, hr⟩ := taskOf_tryRecord (n := n) t.queue (s := dropWork t.queue (.task n) (modTask n (fun t => { t with
    state := st, status := status, endBeat := upBeat s, halting := false, parked := false, record := .toWrite }) s))
    (taskOf_modTask_same n (fun t => { t with
      state := st, status := status, endBeat := upBeat s, halting := false, parked := false, record := .toWrite }) (fun _ => rfl) s t ht)
  exact ⟨_, hr, rfl, rfl, rfl⟩

/-- A member that answers HALTED is otherwise as it was. -/
theorem taskOf_sayHalted (t' : Task) (ht : taskOf s n = some t) : ∃ ms, taskOf (sayHalted t' s) n = some { t with members := ms } := by
  unfold sayHalted
  split
  · rw [taskOf_of_tasks (sendMgmt_steward_tasks ..)]
    by_cases hn : t'.num = n
    · rw [hn]
      exact ⟨_, taskOf_modTask_same n _ (by exact fun _ => rfl) s t ht⟩
    · exact ⟨t.members, (taskOf_modTask_ne hn (by exact fun _ => rfl)).trans ht⟩
  · exact ⟨t.members, ht⟩

/-! A task halts. -/

/-- The state in which a halted task has given up its rooms, and what it wrote is undefined (02 R60). -/
def haltedState (s : State) (n : Nat) (t : Task) : State := sayHalted t (releaseTask n (scramble t.wrote s))

theorem haltedState_leaves : changesOnly (· ∈ ([.freeCtr, .store, .rooms, .ports, .fabric, .power, .tasks] : List Part)) s (haltedState s n t) :=
  sayHalted_only (by decide) (by decide) _ (releaseTask_only (by decide) (by decide) (by decide) (by decide) (by decide) _
    (scramble_only (by decide) (by decide) _ only_refl))

theorem scramble_tasks (rs : List (Nat × Nat)) : (scramble rs s).steward.tasks = s.steward.tasks :=
  (scramble_only (P := (· ≠ .tasks)) (by simp) (by simp) rs only_refl).steward_tasks (by simp)

theorem taskOf_haltedState (ht : taskOf s n = some t) : ∃ ms, taskOf (haltedState s n t) n = some { t with members := ms } := by
  refine taskOf_sayHalted t ?_
  rw [taskOf_of_tasks ((releaseTask_only (P := (· ≠ .tasks)) (by simp) (by simp) (by simp) (by simp) (by simp) n only_refl).steward_tasks (by simp)),
    taskOf_of_tasks (scramble_tasks _), ht]

theorem haltedState_task (ht : taskOf s n = some t) {r : Nat} (hr : r ∈ t.rooms) : (roomOf (haltedState s n t) r).task = none := by
  rw [haltedState, roomOf_of_rooms (sayHalted_rooms ..)]
  exact releaseTask_task ((taskOf_of_tasks (scramble_tasks _) n).trans ht) hr

theorem haltedState_storeByte {d : Nat} (hd : outside t.wrote d) : storeByte (haltedState s n t) d = storeByte s d := by
  rw [haltedState, storeByte_of (congrArg Store.mem ((sayHalted_only (P := (· ≠ .store)) (by simp) (by simp) _ only_refl).store (by simp))),
    releaseTask_storeByte, storeByte_scramble hd]

/-- The end of a halted task that does not go back to its queue. -/
def abortedState (n : Nat) (t : Task) (b : State) : State :=
  resetAnswer (promote (finishTask n .aborted t.status (answerAborts 0 0x0211 t.abortBy (modTask n (fun t => { t with
    abortBy := [], fault := t.fault0.orElse (fun _ => t.fault) }) b))))

theorem taskHaltedEff_ends (ht : taskOf s n = some t) :
    taskHaltedEff s n = if requeueable s t then sendBack t (haltedState s n t) else abortedState n t (haltedState s n t) := by
  unfold taskHaltedEff
  rw [ht]
  rfl

theorem abortedState_leaves : changesOnly (· ∈ ([.mboxes, .requests, .messages, .seq, .tasks, .queues] : List Part)) b (abortedState n t b) :=
  resetAnswer_only (by decide) (by decide) (by decide) (by decide) (promote_only (by decide) (finishTask_only (by decide) (by decide) (by decide) (by decide) _ _ _
    (answerAborts_only (by decide) (by decide) (by decide) _ _ _ (modTask_only (by decide) _ _ only_refl))))

theorem taskOf_abortedState {x : Task} (hx : taskOf b n = some x) :
    ∃ v, taskOf (abortedState n t b) n = some v ∧ v.state = .aborted ∧ v.status = t.status ∧ v.endBeat = upBeat b := by
  unfold abortedState
  generalize ha : answerAborts 0 0x0211 t.abortBy _ = a
  have hleaves : changesOnly (· ∈ ([.mboxes, .requests, .messages] : List Part)) (modTask n (fun t => { t with
      abortBy := [], fault := t.fault0.orElse (fun _ => t.fault) }) b) a := by
    rw [← ha]
    exact answerAborts_only (by decide) (by decide) (by decide) _ _ _ only_refl
  have hbeat : upBeat a = upBeat b := by rw [upBeat, hleaves.time (by decide)]; rfl
  obtain ⟨v, hv, hstate, hstatus, hend⟩ := taskOf_finishTask (st := .aborted) (status := t.status)
    ((taskOf_of_tasks (hleaves.steward_tasks (by decide)) n).trans (taskOf_modTask_same n _ (by exact fun _ => rfl) b x hx)) (by decide)
  obtain ⟨z, hz, hpromoted⟩ := taskOf_promote hv
  have hzv : z = v := hpromoted.stays (by rw [hstate]; decide)
  rw [taskOf_of_tasks ((resetAnswer_only (P := (· ≠ .tasks)) (by simp) (by simp) (by simp) (by simp) only_refl).steward_tasks (by simp)), hz, hzv]
  exact ⟨v, rfl, hstate, hstatus, hend.trans hbeat⟩

/-- A task that no repair names goes back to its queue at once (11 R344). -/
theorem taskOf_sendBack {x : Task} (hnum : t.num = n) (hx : taskOf b n = some x) (hfree : repairNames b n = false) :
    ∃ v, taskOf (sendBack t b) n = some v ∧ v.requeues = x.requeues + 1 ∧ v.rooms = [] ∧ v.halting = false ∧ v.restarted = true := by
  subst hnum
  unfold sendBack
  dsimp only
  rw [if_neg (by rw [hfree]; exact Bool.false_ne_true)]
  have hforgot : taskOf (forgetRound t _) t.num = _ :=
    (taskOf_of_tasks ((forgetRound_only (P := (· ≠ .tasks)) (by simp) t only_refl).steward_tasks (by simp)) t.num).trans
      (taskOf_modTask_same t.num (fun t => { t with
        rooms := [], ended := [], wrote := [], points := [], members := t.members.map fun m => { m with ready := false, ended := false, halted := false } })
        (fun _ => rfl) b x hx)
  obtain ⟨v, hv, hpromoted⟩ := taskOf_promote (taskOf_modTask_same t.num (fun t => { t with
    state := .queued, parked := false, restarted := true, requeues := t.requeues + 1, halting := false, repair := false, others := 0,
    fault := t.fault0.orElse (fun _ => t.fault), fault0 := t.fault0.orElse (fun _ => t.fault), launch := none, launchAt := none }) (fun _ => rfl)
    (modHealth (fun h => { h with evRequeue := satInc 255 h.evRequeue }) _) _ hforgot)
  exact ⟨v, hv, hpromoted.requeues, hpromoted.rooms, hpromoted.halting, hpromoted.restarted⟩

theorem taskHalted_ends (ht : taskOf s n = some t) (hready : haltedReady s n = true) : answers (.taskHalted n) s fun u =>
    (∀ r ∈ t.rooms, (roomOf u r).task = none) ∧ (∀ d, outside t.wrote d → storeByte u d = storeByte s d) ∧
    (requeueable s t = false → ∃ v, taskOf u n = some v ∧ v.state = .aborted ∧ v.status = t.status ∧ v.endBeat = upBeat s) ∧
    (requeueable s t = true → repairNames s n = false →
      ∃ v, taskOf u n = some v ∧ v.requeues = t.requeues + 1 ∧ v.rooms = [] ∧ v.halting = false ∧ v.restarted = true) := by
  refine answers_due rfl hready ?_
  have hnum : t.num = n := by simpa using List.find?_some ht
  obtain ⟨ms, hms⟩ := taskOf_haltedState ht
  rw [taskHaltedEff_ends ht]
  split
  case isTrue hrequeue =>
    have hleaves : changesOnly (· ∈ ([.tasks, .fabric, .health] : List Part)) (haltedState s n t) (sendBack t (haltedState s n t)) :=
      sendBack_only (by decide) (by decide) (by decide) _ only_refl
    refine ⟨fun r hr => ?_, fun d hd => ?_, fun hnot => ?_, fun _ hfree => ?_⟩
    · rw [roomOf_of_rooms (hleaves.rooms (by decide)), haltedState_task ht hr]
    · rw [storeByte_of (congrArg Store.mem (hleaves.store (by decide))), haltedState_storeByte hd]
    · rw [hrequeue] at hnot
      cases hnot
    · have hunnamed : repairNames (haltedState s n t) n = false := by
        rw [repairNames, haltedState_leaves.health (by decide)]
        exact hfree
      have hback := taskOf_sendBack hnum hms hunnamed
      exact hback
  case isFalse hnot =>
    refine ⟨fun r hr => ?_, fun d hd => ?_, fun _ => ?_, fun hrequeue => absurd hrequeue hnot⟩
    · rw [roomOf_of_rooms (abortedState_leaves.rooms (by decide)), haltedState_task ht hr]
    · rw [storeByte_of (congrArg Store.mem (abortedState_leaves.store (by decide))), haltedState_storeByte hd]
    · obtain ⟨v, hv, hstate, hstatus, hend⟩ := taskOf_abortedState (t := t) hms
      exact ⟨v, hv, hstate, hstatus, by rw [hend, upBeat, haltedState_leaves.time (by decide), upBeat]⟩

/-! What is listed in a table. -/

theorem mem_of_tabGet_ne {α : Type} {d : α} : ∀ {l : Tab α} {k : Nat}, tabGet d l k ≠ d → (k, tabGet d l k) ∈ l
  | [], _, h => absurd rfl h
  | (j, v) :: l, k, h => by
    unfold tabGet at h ⊢
    split
    case isTrue hj => rw [hj]; exact List.mem_cons_self ..
    case isFalse hj =>
      rw [if_neg hj] at h
      exact List.mem_cons_of_mem _ (mem_of_tabGet_ne h)

theorem mem_tabErase_of_ne {α : Type} {e : Nat × α} {k : Nat} (hk : e.1 ≠ k) : ∀ {l : Tab α}, e ∈ l → e ∈ tabErase l k
  | (j, v) :: l, h => by
    unfold tabErase
    rcases List.mem_cons.1 h with rfl | h
    · rw [if_neg hk]
      exact List.mem_cons_self ..
    · split
      · exact mem_tabErase_of_ne hk h
      · exact List.mem_cons_of_mem _ (mem_tabErase_of_ne hk h)

theorem mem_tabIns_of_ne {α : Type} {e : Nat × α} {k : Nat} {x : α} (hk : e.1 ≠ k) : ∀ {l : Tab α}, e ∈ l → e ∈ tabIns l k x
  | (j, v) :: l, h => by
    unfold tabIns
    split_ifs with hlt heq
    · exact List.mem_cons_of_mem _ h
    · refine List.mem_cons_of_mem _ ((List.mem_cons.1 h).resolve_left ?_)
      rintro rfl
      exact hk heq.symm
    · rcases List.mem_cons.1 h with rfl | h
      · exact List.mem_cons_self ..
      · exact List.mem_cons_of_mem _ (mem_tabIns_of_ne hk h)

/-- A write at one key leaves what is listed at another. -/
theorem mem_tabPut_of_ne {α : Type} [DecidableEq α] {d : α} {e : Nat × α} {l : Tab α} {k : Nat} {x : α} (hk : e.1 ≠ k) (h : e ∈ l) : e ∈ tabPut d l k x := by
  unfold tabPut
  split
  · exact mem_tabErase_of_ne hk h
  · exact mem_tabIns_of_ne hk h

/-! Granules that go to clearing (08 R253). -/

theorem setOwns_clearing (e : BitVec 16) (gs : List Nat) (st : Store) : (gs.foldl (fun x g => setOwn x g e) st).clearing = st.clearing := by
  induction gs generalizing st with
  | nil => rfl
  | cons g gs ih => rw [List.foldl_cons, ih]; rfl

/-- An entry of a granule that is not among those written stands. -/
theorem mem_setOwns_own {x : Nat × BitVec 16} (e : BitVec 16) {gs : List Nat} (hx : x.1 ∉ gs) {st : Store} (h : x ∈ st.own) :
    x ∈ (gs.foldl (fun x g => setOwn x g e) st).own := by
  induction gs generalizing st with
  | nil => exact h
  | cons g gs ih =>
    obtain ⟨hg, hgs⟩ := not_or.1 (mt List.mem_cons.2 hx)
    exact ih hgs (mem_tabPut_of_ne hg h)

theorem startClearing_clearing (gs : List Nat) (st : Store) : (startClearing gs st).clearing = st.clearing ++ gs.filter fun g => !st.clearing.contains g := by
  simp [startClearing, setOwns_clearing]

theorem mem_startClearing {gs : List Nat} {g : Nat} {st : Store} (h : g ∈ st.clearing ∨ g ∈ gs) : g ∈ (startClearing gs st).clearing := by
  rw [startClearing_clearing]
  by_cases hg : g ∈ st.clearing
  · exact List.mem_append_left _ hg
  · exact List.mem_append_right _ (List.mem_filter.2 ⟨h.resolve_left hg, by simpa using hg⟩)

/-- The granule is clearing, or the context owns it. -/
def clearingOrOwned (c g : Nat) (st : Store) : Prop := g ∈ st.clearing ∨ g ∈ ctxGranules st c

theorem clearingOrOwned_startClearing {g : Nat} (gs : List Nat) {st : Store} (h : clearingOrOwned c g st) : clearingOrOwned c g (startClearing gs st) := by
  by_cases hgs : g ∈ st.clearing ∨ g ∈ gs
  · exact .inl (mem_startClearing hgs)
  · obtain ⟨hclearing, hgs⟩ := not_or.1 hgs
    obtain ⟨e, he, rfl⟩ := List.mem_map.1 (h.resolve_left hclearing)
    obtain ⟨hown, hclass⟩ := List.mem_filter.1 he
    exact .inr (List.mem_map.2 ⟨e, List.mem_filter.2 ⟨mem_setOwns_own _ hgs hown, hclass⟩, rfl⟩)

/-! Images are unloaded. -/

theorem unloadImage_store (i : Image) (s : State) : (unloadImage i s).store = startClearing (imageGranules i) (closeOn (imageGranules i)
    (dropImage i { s.store with windows := s.store.windows.filter fun e => !(imageWindows i).contains e.1 })) :=
  (forgetRounds_only (P := (· ≠ .store)) (by simp) i.imageId only_refl).store (by simp)

theorem unloadImage_images (i : Image) (s : State) : (unloadImage i s).steward.images = s.steward.images.filter fun y => y.handle != i.handle :=
  (forgetRounds_only (P := (· ≠ .images)) (by simp) i.imageId only_refl).steward_images (by simp)

theorem clearingOrOwned_unloadAll {g : Nat} : ∀ (is : List Image) {s : State}, clearingOrOwned c g s.store → clearingOrOwned c g (unloadAll is s).store
  | [], _, h => h
  | i :: is, s, h => clearingOrOwned_unloadAll is (by rw [unloadImage_store]; exact clearingOrOwned_startClearing _ h)

/-- The images that are unloaded are gone. -/
theorem unloadAll_images : ∀ (is : List Image) (s : State), ∀ y ∈ (unloadAll is s).steward.images, y ∈ s.steward.images ∧ ∀ i ∈ is, y.handle ≠ i.handle
  | [], _, _, hy => ⟨hy, by simp⟩
  | i :: is, s, y, hy => by
    obtain ⟨hmem, hothers⟩ := unloadAll_images is (unloadImage i s) y hy
    rw [unloadImage_images] at hmem
    obtain ⟨hmem, hne⟩ := List.mem_filter.1 hmem
    exact ⟨hmem, List.forall_mem_cons.2 ⟨by simpa using hne, hothers⟩⟩

/-! A context's destruction completes. -/

theorem destroyReady_state (h : destroyReady s c = true) : (ctxOf s c).state = 2 := by
  simp only [destroyReady, Bool.and_eq_true, beq_iff_eq] at h
  obtain ⟨⟨⟨hstate, -⟩, -⟩, -⟩ := h
  exact hstate

/-- Context 0 is always live (11 R324). -/
theorem ne_zero_of_aborting (h : (ctxOf s c).state = 2) : c ≠ 0 := by
  rintro rfl
  simp [ctxOf] at h

theorem ctxDestroy_frees (hready : destroyReady s c = true) (hfreed : (ctxOf s c).freed = false) : answers (.ctxDestroyComplete c) s fun u =>
    (ctxOf u c).state = 2 ∧ (ctxOf u c).freed = true ∧ (∀ q ∈ u.steward.queues, q.ctx ≠ c) ∧ (∀ x ∈ u.steward.tasks, x.ctx ≠ c) ∧
    (∀ i ∈ u.steward.images, i.ctx ≠ c) ∧ ∀ g ∈ ctxGranules s.store c, g ∈ u.store.clearing := by
  refine answers_due rfl hready ?_
  have hstate := destroyReady_state hready
  have hc := ne_zero_of_aborting hstate
  rw [destroyDoneEff, if_neg (by rw [hfreed]; exact Bool.false_ne_true), freeCtx]
  generalize ha : unloadAll _ _ = a
  have hctxs : a.steward.ctxs = s.steward.ctxs := by
    rw [← ha, (unloadAll_only (P := (· ≠ .ctxs)) (by simp) (by simp) (by simp) _ only_refl).steward_ctxs (by simp)]
    rfl
  rw [ctxOf_modCtx hc]
  refine ⟨?_, rfl, fun q hq => ?_, fun x hx => ?_, fun i hi => ?_, fun g hg => ?_⟩
  · change (ctxOf a c).state = 2
    rw [ctxOf, hctxs, ← ctxOf, hstate]
  · rw [modCtx_steward_queues] at hq
    simpa using (List.mem_filter.1 hq).2
  · rw [modCtx_steward_tasks] at hx
    simpa using (List.mem_filter.1 hx).2
  · rw [modCtx_steward_images] at hi
    change i ∈ a.steward.images at hi
    rw [← ha] at hi
    obtain ⟨hmem, hothers⟩ := unloadAll_images _ _ i hi
    exact fun hic => hothers i (List.mem_filter.2 ⟨hmem, by simpa using hic⟩) rfl
  · rw [modCtx_store]
    refine mem_startClearing ?_
    rw [← ha]
    exact clearingOrOwned_unloadAll _ (.inr hg)

theorem mbox_unbindAll_binding : ∀ (ms : List Nat) (s : State) (m : Nat), m ∈ ms ∨ (mbox s m).binding = 0 → (mbox (unbindAll c ms s) m).binding = 0
  | [], _, _, h => h.resolve_left (by simp)
  | k :: ms, s, m, h => by
    rw [unbindAll]
    refine mbox_unbindAll_binding ms _ m ?_
    by_cases hm : m = k
    · rw [hm]
      exact .inr (by rw [mbox_modMbox])
    · rw [mbox_modMbox_ne hm]
      exact h.imp_left fun hmem => (List.mem_cons.1 hmem).resolve_left hm

/-- An answer leaves every mailbox bound as it was. -/
theorem mbox_respond_binding (k status : Nat) (fs : List (Nat × Nat × Nat)) (m : Nat) : (mbox (respond k status fs s) m).binding = (mbox s m).binding := by
  have hmod (f : Mailbox → Mailbox) (hf : ∀ b, (f b).binding = b.binding) (s : State) : (mbox (modMbox k f s) m).binding = (mbox s m).binding := by
    by_cases hm : m = k
    · rw [hm, mbox_modMbox, hf]
    · rw [mbox_modMbox_ne hm]
  unfold respond
  split
  · rfl
  · rw [writeRsp, mbox_of_mboxes (issueReq_steward_mboxes ..)]
    exact (hmod _ (by exact fun _ => rfl) _).trans (hmod _ (by exact fun _ => rfl) s)

/-- A mailbox that is bound to the context is one of those to be unbound. -/
theorem mem_boundBoxes {m : Nat} (hbound : (mbox s m).binding = 1) (hctx : (mbox s m).boundCtx = c) :
    m ∈ (s.steward.mboxes.filter fun e => e.2.binding == 1 && e.2.boundCtx == c).map (·.1) := by
  have hlisted : tabGet mboxZero s.steward.mboxes m ≠ mboxZero := fun h => by
    rw [mbox, h] at hbound
    cases hbound
  exact List.mem_map.2 ⟨_, List.mem_filter.2 ⟨mem_of_tabGet_ne hlisted, by simpa using ⟨hbound, hctx⟩⟩, rfl⟩

theorem ctxDestroy_ends (hready : destroyReady s c = true) (hfreed : (ctxOf s c).freed = true) : answers (.ctxDestroyComplete c) s fun u =>
    (ctxOf u c).state = 3 ∧ ∀ m, (mbox s m).binding = 1 → (mbox s m).boundCtx = c → (mbox u m).binding = 0 := by
  refine answers_due rfl hready ?_
  have hc := ne_zero_of_aborting (destroyReady_state hready)
  rw [destroyDoneEff, if_pos hfreed, endCtx]
  generalize he : unbindAll c _ _ = e
  have hdead : (ctxOf e c).state = 3 := by
    have hctxs : e.steward.ctxs = (modCtx c (fun _ => ctxZero) s).steward.ctxs := by
      rw [← he]
      exact (unbindAll_only (P := (· ∈ ([.mboxes, .power] : List Part))) (by decide) c _ (forgetPhases_only (by decide) c only_refl)).steward_ctxs (by decide)
    rw [ctxOf, hctxs, ← ctxOf, ctxOf_modCtx hc]
    rfl
  have hunbound (m : Nat) (hbound : (mbox s m).binding = 1) (hctx : (mbox s m).boundCtx = c) : (mbox e m).binding = 0 := by
    rw [← he]
    exact mbox_unbindAll_binding _ _ m (.inl (mem_boundBoxes hbound hctx))
  split
  · refine ⟨?_, fun m hbound hctx => (mbox_respond_binding ..).trans (hunbound m hbound hctx)⟩
    rw [ctxOf, (respond_leaves ..).steward_ctxs (by decide), ← ctxOf]
    exact hdead
  · exact ⟨hdead, hunbound⟩

end

/-- Settles O17: a room's fault halts its task, a halted task is aborted or goes back to its queue, and a context is first freed and then dead. -/
theorem tasksFaultAndHalt : Obligations.TasksFaultAndHalt := fun _ =>
  ⟨fun _ _ hroom hready hfault => faultReport_halts hroom hready hfault, fun _ _ ht hready => taskHalted_ends ht hready,
    fun _ hready hfreed => ctxDestroy_frees hready hfreed, fun _ hready hfreed => ctxDestroy_ends hready hfreed⟩

end Sys2Proof.Machine

/-!
The canonical form of the store's bytes (log 6, 08 R253) through every step: the effects of the commands keep it one by one, and a command whose row names no store leaves
it alone.
-/
namespace Sys2Proof.Machine

section
variable {c : Instr} {s t u : State}

theorem due_mem {g : Bool} (h : due g s t = .next u) (hs : memWf s = true) (ht : memWf t = true) : memWf u = true := by
  cases g
  · cases h; exact hs
  · cases h; exact ht

theorem dueAt_mem {b g : Bool} (h : dueAt b g s t = .next u) (hs : memWf s = true) (ht : memWf t = true) : memWf u = true := due_mem h hs ht

theorem next_mem (h : (Host.Outcome.next t : Host.Outcome State Fault Refusal) = .next u) (ht : memWf t = true) : memWf u = true := by
  cases h; exact ht

theorem mem_of_store (h : t.store = s.store) (hs : memWf s = true) : memWf t = true := by
  rwa [memWf, h]

/-- A command that may change no store by the table of frames keeps the form. -/
theorem mem_of_mayChange (h : exec c s = .next u) (hc : (mayChange c).elem .store = false) (hs : memWf s = true) : memWf u = true :=
  mem_of_store ((exec_framed h).store (by simpa using hc)) hs

/-- Neither the words that leave the buffer nor the scalar slot concern a store: the form is left to the op's body. -/
theorem issueWith_mem (room opc k : Nat) (w : OpWord) {body : Env → Room → Task → Nat → State → State}
    (hbody : ∀ E x t n p, memWf p = true → memWf (body E x t n p) = true) (hs : memWf s = true) : memWf (issueWith room opc k w body s) = true := by
  have hpop : memWf (popOps room k (takeAll (.roomCore room :: wholePace room w) s)) = true := mem_of_store (by simp) hs
  unfold issueWith
  dsimp only
  split
  · exact mem_ite (mem_of_store (raiseFault_store ..) hpop) (mem_of_store (slotPart_store ..) (hbody _ _ _ _ _ hpop))
  · exact hs

theorem issue_mem {room opc k : Nat} {w : OpWord} {w2 : Option OpWord} {body : Env → Room → Task → Nat → State → State}
    (h : dueAt (hasRoom s room) (issueReady s room opc w w2) s (issueWith room opc k w body s) = .next u)
    (hs : memWf s = true) (hbody : ∀ E x t n p, memWf p = true → memWf (body E x t n p) = true) : memWf u = true :=
  dueAt_mem h hs (issueWith_mem room opc k w hbody hs)

/-- Taking a message of the fabric concerns the fabric alone, so the form is left to the action on it. -/
theorem frameRow_mem {b kind : Nat} {f : Frame} {act : State → State} (h : frameRow b f kind s act = .next u) (hs : memWf s = true)
    (hact : ∀ p, memWf p = true → memWf (act p) = true) : memWf u = true := by
  have htaken : memWf (ackFrame f (takeFrame b f s)) = true :=
    mem_of_frame (by apply_rules [ackFrame_only, takeFrame_only, only_refl] <;> simp) hs
  exact due_mem h hs (mem_ite htaken (hact _ htaken))

theorem tileOp_mem (hf : familyOf c = .tileOp) (h : exec c s = .next u) (hs : memWf s = true) : memWf u = true := by
  cases c with
  | mma | mmt | pair | lds | flip | ewa | move | relay | signal => exact issue_mem h hs fun _ _ _ _ _ => stepBody_mem _ _ _ _ _ _ _
  | chute => exact issue_mem h hs fun _ _ _ _ _ => chuteBody_mem _ _ _ _ _ _
  | rowf => exact issue_mem h hs fun _ _ _ _ _ => rowfBody_mem _ _ _ _ _ _
  | stat => exact issue_mem h hs fun _ _ _ _ _ => wholeBody_mem _ _ _ _ _ _ _ fun _ _ _ => runWf (runStat_grows _ _ _ (grows_refl _))
  | resc => exact issue_mem h hs fun _ _ _ _ _ => wholeBody_mem _ _ _ _ _ _ _ fun _ _ _ => runWf (runResc_grows _ _ _ (grows_refl _))
  | halo => exact issue_mem h hs fun _ _ _ _ _ => haloBody_mem _ _ _ _ _ _
  | sync | hint | stuff | bkt | wait | endOp => exact mem_of_mayChange h rfl hs
  | _ => cases hf

/-- Every command keeps the form: one that may change a store, by what its effect makes of the bytes. -/
theorem exec_mem (h : exec c s = .next u) (hs : memWf s = true) : memWf u = true := by
  cases c with
  | mma | mmt | pair | lds | flip | chute | ewa | rowf | stat | resc | move | halo | relay | signal => exact tileOp_mem rfl h hs
  | narrowAccessService => exact dueAt_mem h hs (narrowServiceEff_mem _ hs)
  | narrowLoadComplete => exact dueAt_mem h hs (narrowLoadEff_mem _ hs)
  | opFetch => exact dueAt_mem h hs (opFetchEff_mem _ hs)
  | opRetire => exact dueAt_mem h hs (retireEff_mem _ _ hs)
  | annexResult => exact dueAt_mem h hs (annexResultEff_mem _ _ _ hs)
  | streamPortTake => exact due_mem h hs (portTakeEff_mem _ _ hs)
  | streamPortAppend => exact due_mem h hs (portAppendEff_mem _ _ _ hs)
  | cellarPortCycle => exact dueAt_mem h hs (portCycleEff_mem _ hs)
  | remoteAccessService => exact dueAt_mem h hs (remoteEff_mem _ hs)
  | correctedWriteBack => exact due_mem h hs (modStore_mem _ (fun st hst => by rwa [writeBackLine_mem]) hs)
  | scrubRead => exact dueAt_mem h hs (scrubEff_mem _ _ hs)
  | granuleClearDone => exact due_mem h hs (retryWaiting_mem _ (modStore_mem _ (fun _ => clearGranule_wf _) hs))
  | bankRelocation => exact dueAt_mem h hs (relocationEff_mem _ _ hs)
  | copyRebuilt => exact due_mem h hs (copyRebuiltEff_mem _ _ hs)
  | storeErrCount => exact due_mem h hs (mem_ite hs hs)
  | taskLaunchBoundary => exact due_mem h hs (launchBoundaryEff_mem _ hs)
  | endReport => exact dueAt_mem h hs (endReportEff_mem _ _ hs)
  | endFrame => exact frameRow_mem h hs fun _ => endFrameEff_mem _
  | done => exact frameRow_mem h hs fun _ => doneEff_mem _
  | taskHalted => exact due_mem h hs (taskHaltedEff_mem _ hs)
  | ctxDestroy => exact dueAt_mem h hs (ctxDestroyEff_mem _ _ hs)
  | ctxDestroyComplete => exact due_mem h hs (destroyDoneEff_mem _ hs)
  | imageLoad => exact dueAt_mem h hs (imageLoadEff_mem _ _ _ hs)
  | imageUnload => exact dueAt_mem h hs (imageUnloadEff_mem _ _ hs)
  | qstateReset => exact dueAt_mem h hs (qstateResetEff_mem _ _ hs)
  | granuleAlloc => exact dueAt_mem h hs (tryAlloc_mem _ _ hs)
  | granuleFree => exact dueAt_mem h hs (granuleFreeEff_mem _ _ hs)
  | windowOpen => exact dueAt_mem h hs (windowOpenEff_mem _ _ hs)
  | windowClose => exact dueAt_mem h hs (windowCloseEff_mem _ _ hs)
  | storeCopy => exact dueAt_mem h hs (storeCopyEff_mem _ _ _ hs)
  | resetTakeEffect => exact due_mem h hs (takeEffectEff_mem hs)
  | hatchDisable => exact due_mem h hs (globalWrite_mem _ hs)
  | hatchBurstLanded => exact dueAt_mem h hs (landedEff_mem _ _ hs)
  | flowSlotTake => exact due_mem h hs (slotEff_mem _ _ hs)
  | flow => exact due_mem h hs (flowEff_mem _ _ hs)
  | stewardTakeover => exact due_mem h hs (takeoverEff_mem hs)
  | diagnosisComplete => exact dueAt_mem h hs (diagnosisEff_mem _ _ _ hs)
  | replacementEnd => exact dueAt_mem h hs (replacementEndEff_mem _ _ hs)
  | hardPartResetRelease => exact due_mem h hs (startHard_mem _ _ _ hs)
  | selfTestComplete => exact due_mem h hs (selfTestEff_mem _ _ hs)
  | engineReady => exact due_mem h hs (engineReadyEff_mem hs)
  | supplyWarn => exact next_mem h (supplyWarnEff_mem hs)
  | railGoodFall => exact dueAt_mem h hs (afterDrop_mem _ hs)
  | railDropTimeout => exact due_mem h hs (dropNext_mem hs)
  | railFailure => exact dueAt_mem h hs (collapse_mem _ _ hs)
  | shellReset => exact next_mem h (mem_ite (collapse_mem _ _ hs) hs)
  | wake => exact due_mem h hs (wakeEff_mem hs)
  | vauxGoodFall => exact due_mem h hs (vauxFallEff_mem hs)
  | hostRegisterWrite => exact due_mem h hs (registerWriteEff_mem _ _ _ _ hs)
  | _ => exact mem_of_mayChange h rfl hs

/-- On an empty queue the ops in flight go on, and a command in front is executed: either keeps the form. -/
theorem step_mem (hs : memWf s = true) (h : step s = .next t) : memWf t = true := by
  unfold step at h
  split at h
  case h_1 => exact next_mem h (advanceRooms_mem hs)
  case h_2 c rest _ => exact exec_mem (s := { s with pending := rest }) h hs

end

/-- Settles O49: what a command may change of a store keeps the form of its bytes, effect by effect. -/
theorem stepKeepsTheStoreCanonical : Obligations.StepKeepsTheStoreCanonical := fun _ _ => step_mem

end Sys2Proof.Machine

/-!
The stores' own events: cycles of the cellar ports (08 R230 to R233), remote accesses (08 R228), write-backs of corrected lines (08 R247) and the scrubber (08 R248).
-/
namespace Sys2Proof.Machine

section
variable {s v : State} {st st' : Store} {hall room line : Nat}

/-! What lands leaves the traffic at the ports. -/

/-- What waits at the lanes and the ports, and the port cycles counted, are the same. -/
structure SamePorts (st st' : Store) : Prop where
  lanes     : st'.lanes = st.lanes
  remote    : st'.remote = st.remote
  portCycle : st'.portCycle = st.portCycle

theorem SamePorts.rfl : SamePorts st st := ⟨.refl _, .refl _, .refl _⟩

theorem SamePorts.trans {st'' : Store} (h : SamePorts st st') (h' : SamePorts st' st'') : SamePorts st st'' :=
  ⟨h'.lanes.trans h.lanes, h'.remote.trans h.remote, h'.portCycle.trans h.portCycle⟩

theorem samePorts_foldl {α : Type} {g : Store → α → Store} (hg : ∀ st a, SamePorts st (g st a)) : ∀ (l : List α) (st : Store), SamePorts st (l.foldl g st)
  | [], _ => .rfl
  | a :: l, st => (hg st a).trans (samePorts_foldl hg l _)

theorem samePorts_writeWhole (st : Store) (a : Nat) (bs : List Byte) : SamePorts st (writeWhole st a bs) := by
  unfold writeWhole cleanLines
  refine SamePorts.trans (st' := memPut st a bs) ⟨rfl, rfl, rfl⟩ (samePorts_foldl ?_ _ _)
  exact fun _ _ => ⟨rfl, rfl, rfl⟩

theorem samePorts_landWrite (w : PendWrite) (rest : List PendWrite) (st : Store) : SamePorts st (landWrite w rest st) := by
  have hwhole := samePorts_writeWhole st w.addr w.bytes
  unfold landWrite
  split
  · split
    · exact hwhole
    · exact hwhole.trans ⟨rfl, rfl, rfl⟩
  · exact hwhole

theorem samePorts_returnTake (room op : Nat) (head : Option (Nat × Nat)) (st : Store) : SamePorts st (returnTake room op head st) := by
  unfold returnTake
  split
  · split
    · exact .rfl
    · exact ⟨rfl, rfl, rfl⟩
  · exact .rfl

theorem memBytes_congr (h : st'.mem = st.mem) (a n : Nat) : memBytes st' a n = memBytes st a n := by rw [memBytes, h, memBytes]

/-- A write that has landed reads back. -/
theorem memBytes_landWrite (w : PendWrite) (rest : List PendWrite) (st : Store) : memBytes (landWrite w rest st) w.addr w.bytes.length = w.bytes := by
  have hmem : (landWrite w rest st).mem = (memPut st w.addr w.bytes).mem := by
    unfold landWrite
    dsimp only
    split
    · split <;> simp [writeWhole]
    · simp [writeWhole]
  rw [memBytes_congr hmem, memBytes_memPut]

/-! Closes that end once all has landed (08 R242): they concern the ownership of granules. -/

theorem startClearing_store (gs : List Nat) (st : Store) : ∃ own clearing, startClearing gs st = { st with own := own, clearing := clearing } := by
  have howns (l : List Nat) : ∀ st : Store, ∃ own, l.foldl (fun x g => setOwn x g (ownMake 3 0)) st = { st with own := own } := by
    induction l with
    | nil => exact fun st => ⟨st.own, rfl⟩
    | cons g l ih =>
      intro st
      obtain ⟨own, h⟩ := ih (setOwn st g (ownMake 3 0))
      exact ⟨own, h⟩
  obtain ⟨own, h⟩ := howns gs st
  exact ⟨own, _, by rw [startClearing, h]⟩

theorem endCloses_store : ∀ (cs : List Closing) (s : State), ∃ own clearing, (endCloses cs s).store = { s.store with own := own, clearing := clearing }
  | [], s => ⟨s.store.own, s.store.clearing, rfl⟩
  | c :: cs, s => by
    rw [endCloses]
    obtain ⟨own, clearing, h⟩ := endCloses_store cs (if stillFlies s c then s
      else respond c.mbox 0 [] { s with
        store := startClearing c.granules s.store, steward := { s.steward with closes := s.steward.closes.filter fun x => x != c } })
    refine ⟨own, clearing, h.trans ?_⟩
    split
    · rfl
    · obtain ⟨own', clearing', h'⟩ := startClearing_store c.granules s.store
      rw [(respond_leaves ..).store (by decide), h']

theorem landCloses_store (s : State) : ∃ own clearing, (landCloses s).store = { s.store with own := own, clearing := clearing } := endCloses_store ..

theorem samePorts_landCloses (s : State) : SamePorts s.store (landCloses s).store := by
  obtain ⟨own, clearing, h⟩ := landCloses_store s
  rw [h]
  exact ⟨rfl, rfl, rfl⟩

@[simp] theorem landCloses_bytes (s : State) : (landCloses s).store.mem = s.store.mem := by
  obtain ⟨own, clearing, h⟩ := landCloses_store s
  rw [h]

theorem landCloses_leaves (s : State) : (landCloses s).pace = s.pace ∧ (landCloses s).power = s.power := by
  have h : changesOnly (· ∈ ([.store, .mboxes, .requests, .messages] : List Part)) s (landCloses s) :=
    landCloses_only (by decide) (by decide) (by decide) (by decide) only_refl
  exact ⟨h.pace (by decide), h.power (by decide)⟩

/-! Cycles of paced units (02 R41). -/

@[simp] theorem takeCycle_store (unit : PaceUnit) (s : State) : (takeCycle unit s).store = s.store := (takeCycle_only (P := (· = .pace)) rfl unit only_refl).store (by simp)

theorem paced_congr (hpace : v.pace = s.pace) (hpower : v.power = s.power) (h : Nat) : paced v h = paced s h := by
  unfold paced hallPow
  rw [hpace, hpower]

theorem takeCycle_unpaced {unit : PaceUnit} (h : paced s (paceHall unit) = false) : takeCycle unit s = s := by
  rw [takeCycle, h]
  exact if_neg Bool.false_ne_true

theorem takeCycle_paced {unit : PaceUnit} (h : paced s (paceHall unit) = true) :
    (tabGet permitsZero (takeCycle unit s).pace.units (paceKey unit)).begun = (tabGet permitsZero s.pace.units (paceKey unit)).begun - 1 := by
  rw [takeCycle, if_pos h, modPace_pace]
  simp

/-! CELLAR_PORT_CYCLE. -/

theorem serveUnits_portCycle : ∀ (us : List LaneUnit) (st : Store), (serveUnits us st).portCycle = st.portCycle
  | [], _ => rfl
  | u :: us, st => by
    rw [serveUnits, serveUnits_portCycle us]
    split
    · exact (samePorts_landWrite ..).portCycle
    · rfl

/-- Serving units of a hall concerns no unit of another hall's lanes. -/
theorem mem_serveUnits_lanes {x : LaneUnit} (hx : x.hall ≠ hall) : ∀ {us : List LaneUnit} {st : Store}, (∀ u ∈ us, u.hall = hall) →
    x ∈ (serveUnits us st).lanes → x ∈ st.lanes
  | [], _, _, h => h
  | u :: us, st, hus, h => by
    rw [serveUnits] at h
    have hmarked := mem_serveUnits_lanes hx (fun w hw => hus w (List.mem_cons_of_mem _ hw)) h
    have hmem : x ∈ st.lanes.map fun w => if w = u then { w with served := true } else w := by
      split at hmarked
      · rwa [(samePorts_landWrite ..).lanes] at hmarked
      · exact hmarked
    obtain ⟨w, hw, rfl⟩ := List.mem_map.1 hmem
    by_cases hwu : w = u
    · exact absurd (by simp [hwu, hus]) hx
    · rwa [if_neg hwu]

/-- Of the bytes, the writes served change their own. -/
theorem serveUnits_byte {b : Nat} : ∀ {us : List LaneUnit} {st : Store}, outside (us.filterMap fun x => x.write.map fun w => (w.addr, w.bytes.length)) b →
    tabGet 0 (serveUnits us st).mem b = tabGet 0 st.mem b
  | [], _, _ => rfl
  | u :: us, st, h => by
    rw [serveUnits]
    cases hw : u.write with
    | none =>
      rw [List.filterMap_cons_none (by simp [hw])] at h
      exact serveUnits_byte h
    | some w =>
      rw [List.filterMap_cons_some (b := (w.addr, w.bytes.length)) (by simp [hw])] at h
      rw [serveUnits_byte fun r hr => h r (List.mem_cons_of_mem _ hr)]
      exact (landWrite_keeps ..).bytes b fun r hr => h r (List.mem_cons.2 (.inl (List.mem_singleton.1 hr)))

theorem hall_of_mem_cycleServed {n : Nat} {u : LaneUnit} (h : u ∈ cycleServed s hall n) : u.hall = hall := by
  simp only [cycleServed, List.mem_flatMap, List.mem_filter, Bool.and_eq_true, beq_iff_eq] at h
  obtain ⟨-, -, ⟨-, hhall, -⟩, -⟩ := h
  exact hhall

/-- What leaves a hall's lanes is delivered; the port cycles stand. -/
theorem samePorts_deliverUnits (hall : Nat) (st : Store) : SamePorts { st with lanes := st.lanes.filter fun u => !unitLeaves hall st u } (deliverUnits hall st) :=
  samePorts_foldl (fun _ _ => samePorts_returnTake ..) _ _

/-- The units that the hall's port serves in its next cycle: none in a freeze (12 R375). -/
def servedNext (s : State) (hall : Nat) : List LaneUnit := if s.shell.snap.frozen then [] else cycleServed s hall (tabGet 0 s.store.portCycle hall)

/-- The stores after a port cycle. -/
def afterCycle (s : State) (hall : Nat) : Store :=
  deliverUnits hall (serveUnits (servedNext s hall) { s.store with portCycle := tabPut 0 s.store.portCycle hall (tabGet 0 s.store.portCycle hall + 1) })

theorem hall_of_mem_servedNext {u : LaneUnit} (h : u ∈ servedNext s hall) : u.hall = hall := by
  unfold servedNext at h
  split at h
  · cases h
  · exact hall_of_mem_cycleServed h

theorem portCycleEff_eq (s : State) (hall : Nat) : portCycleEff s hall = takeCycle (.cellarPort hall) (landCloses { s with store := afterCycle s hall }) := rfl

theorem cellarPort_cycles (hhall : hall < s.params.halls) (hup : hardUp s = true) (hcycle : mayCycle s (.cellarPort hall) = true) :
    answers (.cellarPortCycle hall) s fun u =>
      u.store.portCycle = tabPut 0 s.store.portCycle hall (tabGet 0 s.store.portCycle hall + 1) ∧ u.store.lanes = (afterCycle s hall).lanes ∧
      u.store.mem = (afterCycle s hall).mem ∧
      (∀ b, outside ((servedNext s hall).filterMap fun x => x.write.map fun w => (w.addr, w.bytes.length)) b → storeByte u b = storeByte s b) ∧
      (∀ x, x ∈ u.store.lanes → x.hall ≠ hall → x ∈ s.store.lanes) ∧ u.rooms = s.rooms ∧
      (paced s hall = false → u.pace = s.pace) ∧
      (paced s hall = true → ∀ k, k = paceKey (.cellarPort hall) →
        (tabGet permitsZero u.pace.units k).begun = (tabGet permitsZero s.pace.units k).begun - 1) := by
  refine answers_dueAt rfl (decide_eq_true hhall) (by rw [hup, hcycle]; rfl) ?_
  rw [portCycleEff_eq]
  have hports := samePorts_landCloses { s with store := afterCycle s hall }
  have hdelivered := samePorts_deliverUnits hall
    (serveUnits (servedNext s hall) { s.store with portCycle := tabPut 0 s.store.portCycle hall (tabGet 0 s.store.portCycle hall + 1) })
  obtain ⟨hpace, hpower⟩ := landCloses_leaves { s with store := afterCycle s hall }
  have hpaced := paced_congr (s := s) hpace hpower hall
  refine ⟨?_, ?_, ?_, fun b hb => ?_, fun x hx hxhall => ?_, ?_, fun hfree => ?_, ?_⟩
  · rw [takeCycle_store, hports.portCycle]
    exact hdelivered.portCycle.trans (serveUnits_portCycle ..)
  · rw [takeCycle_store, hports.lanes]
  · rw [takeCycle_store, landCloses_bytes]
  · have hmem : (afterCycle s hall).mem = _ := deliverUnits_mem ..
    rw [storeByte, takeCycle_store, landCloses_bytes, hmem, serveUnits_byte hb, storeByte]
  · rw [takeCycle_store, hports.lanes, afterCycle, hdelivered.lanes] at hx
    exact (mem_serveUnits_lanes hxhall (fun _ => hall_of_mem_servedNext) (List.mem_filter.1 hx).1 :)
  · rw [takeCycle_rooms, landCloses_rooms]
  · rw [takeCycle_unpaced (hpaced.trans hfree), hpace]
  · rintro hheld _ rfl
    rw [takeCycle_paced (hpaced.trans hheld), hpace]

/-! REMOTE_ACCESS_SERVICE. -/

/-- The stores after a remote access: what it reads has returned, and what it writes has landed. -/
def afterAccess (r : RemoteAcc) (st : Store) : Store :=
  let t := returnTake r.room r.op (r.read.bind (·.head)) { st with remote := st.remote.erase r }
  match r.write with
  | some w => landWrite w (opWrites t r.room r.op) t
  | none => t

/-- The signal that goes with an access. -/
def signalOf (r : RemoteAcc) (s : State) : State :=
  match r.sig with
  | some (peer, c) => addSignal peer c s
  | none => s

theorem remoteEff_eq {r : RemoteAcc} (h : oldestRemote s room = some r) :
    remoteEff s room = takeCycle (.pantryPort room) (signalOf r (landCloses { s with store := afterAccess r s.store })) := by
  unfold remoteEff
  rw [h]
  obtain ⟨target, reader, op, write, read, sig⟩ := r
  cases read <;> rfl

theorem signalOf_store (r : RemoteAcc) (s : State) : (signalOf r s).store = s.store := by
  unfold signalOf
  split <;> rfl

theorem samePorts_afterAccess (r : RemoteAcc) (st : Store) : SamePorts { st with remote := st.remote.erase r } (afterAccess r st) := by
  have hreturned := samePorts_returnTake r.room r.op (r.read.bind (·.head)) { st with remote := st.remote.erase r }
  unfold afterAccess
  dsimp only
  split
  · exact hreturned.trans (samePorts_landWrite ..)
  · exact hreturned

theorem afterAccess_read {r : RemoteAcc} (h : r.write = none) (st : Store) : (afterAccess r st).mem = st.mem := by
  simp [afterAccess, h]

theorem afterAccess_write {r : RemoteAcc} {w : PendWrite} (h : r.write = some w) (st : Store) :
    memBytes (afterAccess r st) w.addr w.bytes.length = w.bytes ∧ ∀ b, outside [(w.addr, w.bytes.length)] b → tabGet 0 (afterAccess r st).mem b = tabGet 0 st.mem b := by
  simp only [afterAccess, h]
  refine ⟨memBytes_landWrite .., fun b hb => ?_⟩
  rw [(landWrite_keeps ..).bytes b hb, returnTake_mem]

theorem remoteAccess_serves {r : RemoteAcc} (hroom : hasRoom s room = true) (hfrozen : s.shell.snap.frozen = false)
    (hcycle : mayCycle s (.pantryPort room) = true) (hold : oldestRemote s room = some r) :
    answers (.remoteAccessService room) s fun u => u.store.remote = s.store.remote.erase r ∧ u.store.lanes = s.store.lanes ∧
      (r.write = none → ∀ b, storeByte u b = storeByte s b) ∧
      (∀ w, r.write = some w → memBytes u.store w.addr w.bytes.length = w.bytes ∧ ∀ b, outside [(w.addr, w.bytes.length)] b → storeByte u b = storeByte s b) ∧
      (r.sig = none → u.rooms = s.rooms) ∧
      (∀ peer c, r.sig = some (peer, c) → otherRooms s u [peer] ∧
        ((roomOf s peer).hold = .none → tabGet 0 (roomOf u peer).ctr c = tabGet 0 (roomOf s peer).ctr c + 1)) := by
  refine answers_dueAt rfl hroom (by rw [hold, hfrozen, hcycle]; rfl) ?_
  rw [remoteEff_eq hold]
  have hports := (samePorts_afterAccess r s.store).trans (samePorts_landCloses { s with store := afterAccess r s.store })
  have hmem : (landCloses { s with store := afterAccess r s.store }).store.mem = (afterAccess r s.store).mem := landCloses_bytes _
  have hrooms : (landCloses { s with store := afterAccess r s.store }).rooms = s.rooms := landCloses_rooms _
  refine ⟨?_, ?_, fun hread b => ?_, fun w hwrite => ⟨?_, fun b hb => ?_⟩, fun hsig => ?_, fun peer c hsig => ⟨fun k hk => ?_, fun hhold => ?_⟩⟩
  · rw [takeCycle_store, signalOf_store, hports.remote]
  · rw [takeCycle_store, signalOf_store, hports.lanes]
  · rw [storeByte, takeCycle_store, signalOf_store, hmem, afterAccess_read hread, storeByte]
  · rw [takeCycle_store, signalOf_store, memBytes_congr hmem, (afterAccess_write hwrite _).1]
  · rw [storeByte, takeCycle_store, signalOf_store, hmem, (afterAccess_write hwrite _).2 b hb, storeByte]
  · rw [takeCycle_rooms, signalOf, hsig, hrooms]
  · rw [roomOf_of_rooms (takeCycle_rooms ..), signalOf, hsig]
    exact (addSignal_room_ne (by simpa using hk) _).trans (roomOf_of_rooms hrooms k)
  · rw [roomOf_of_rooms (takeCycle_rooms ..), signalOf, hsig, ← roomOf_of_rooms hrooms peer]
    exact (addSignal_free (by rwa [roomOf_of_rooms hrooms])).2

/-! What lines hold. -/

theorem lineCond_congr {k : Nat} (hline : tabGet .good st'.lines k = tabGet .good st.lines k) (hown : ownEntry st' (k * 64) = ownEntry st (k * 64)) :
    lineCond st' k = lineCond st k := by
  unfold lineCond lineClass
  rw [hline, hown]

theorem lineCond_setLine_ne {k : Nat} (h : k ≠ line) (e : LineErr) (st : Store) : lineCond (setLine st line e) k = lineCond st k :=
  lineCond_congr (by rw [setLine, tabGet_put, if_neg (Ne.symm h)]) rfl

theorem lineCond_setLine_good (line : Nat) (st : Store) : lineCond (setLine st line .good) line = .good := by simp [lineCond, setLine]

theorem lineCond_setLine_poisoned (line : Nat) (st : Store) : lineCond (setLine st line .poisoned) line = .poisoned := by simp [lineCond, setLine]

/-! CORRECTED_WRITE_BACK. -/

theorem writeBackLine_wbacks (line : Nat) (st : Store) : (writeBackLine line st).wbacks = st.wbacks.filter (· ≠ line) := by
  unfold writeBackLine
  split <;> rfl

theorem lineCond_writeBackLine_ne {k : Nat} (h : k ≠ line) (st : Store) : lineCond (writeBackLine line st) k = lineCond st k := by
  unfold writeBackLine
  split
  · exact lineCond_setLine_ne h _ _
  all_goals rfl

theorem lineCond_writeBackLine (line : Nat) (st : Store) :
    lineCond (writeBackLine line st) line = if lineCond st line = .correctable then .good else lineCond st line := by
  unfold writeBackLine
  cases h : lineCond st line with
  | correctable => exact lineCond_setLine_good ..
  | good | uncorrectable | poisoned => exact h

theorem corrected_writesBack (h : line ∈ s.store.wbacks) : answers (.correctedWriteBack line) s fun u =>
    line ∉ u.store.wbacks ∧ u.store.mem = s.store.mem ∧ (∀ k, k ≠ line → lineCond u.store k = lineCond s.store k) ∧
    lineCond u.store line = (if lineCond s.store line = .correctable then .good else lineCond s.store line) := by
  refine answers_due rfl (by simpa using h) ?_
  rw [modStore_store]
  exact ⟨by simp [writeBackLine_wbacks], writeBackLine_mem .., fun _ hk => lineCond_writeBackLine_ne hk _, lineCond_writeBackLine ..⟩

/-! SCRUB_READ: the outcomes of a read (08 R247), one by one. -/

theorem readLine_correctable {b : Bool} (h : lineCond st line = .correctable) : line ∈ (readLine st line b).1.wbacks ∧
    tabGet errCountZero (readLine st line b).1.errCount (saHall (line * 64)) =
      { tabGet errCountZero st.errCount (saHall (line * 64)) with
        corrected := satInc 65535 (tabGet errCountZero st.errCount (saHall (line * 64))).corrected } := by
  simp only [readLine, h]
  refine ⟨?_, by simp [modErr]⟩
  split
  · assumption
  · exact List.mem_append_right _ (List.mem_singleton.2 rfl)

theorem readLine_uncorrectable {b : Bool} (h : lineCond st line = .uncorrectable) : lineCond (readLine st line b).1 line = .poisoned ∧
    (tabGet errLogZero (readLine st line b).1.errLog (saHall (line * 64))).valid = true ∧
    tabGet errCountZero (readLine st line b).1.errCount (saHall (line * 64)) =
      { tabGet errCountZero st.errCount (saHall (line * 64)) with
        uncorrectable := satInc 255 (tabGet errCountZero st.errCount (saHall (line * 64))).uncorrectable } := by
  simp only [readLine, h]
  refine ⟨lineCond_setLine_poisoned .., ?_, by simp [setLine, logUncorrectable, modErr]⟩
  by_cases hvalid : (tabGet errLogZero st.errLog (saHall (line * 64))).valid = true <;> simp [setLine, logUncorrectable, modErr, hvalid]

theorem readLine_poisoned {b : Bool} (h : lineCond st line = .poisoned) : lineCond (readLine st line b).1 line = .poisoned ∧
    tabGet errCountZero (readLine st line b).1.errCount (saHall (line * 64)) =
      { tabGet errCountZero st.errCount (saHall (line * 64)) with
        poisonHits := satInc 255 (tabGet errCountZero st.errCount (saHall (line * 64))).poisonHits } := by
  simp only [readLine, h]
  exact ⟨h, by simp [modErr]⟩

theorem lineCond_readLine_ne {k : Nat} {b : Bool} (h : k ≠ line) (st : Store) : lineCond (readLine st line b).1 k = lineCond st k := by
  unfold readLine
  split
  case h_3 => exact lineCond_setLine_ne h _ _
  all_goals rfl

theorem scrubEff_store (s : State) (hall line : Nat) :
    (scrubEff s hall line).store = { (readLine s.store line true).1 with scrubPos := tabPut 0 (readLine s.store line true).1.scrubPos hall (line + 1) } := by
  have hblame : changesOnly (· ≠ .store) (putStore { (readLine s.store line true).1 with scrubPos := tabPut 0 (readLine s.store line true).1.scrubPos hall (line + 1) } s)
      (scrubEff s hall line) := blameBank_only (by simp) (by simp) (by simp) (by simp) _ _ only_refl
  rw [hblame.store (by simp), putStore_store]

theorem scrubEff_tasks (s : State) (hall line : Nat) : (scrubEff s hall line).steward.tasks = s.steward.tasks := by
  have hscrub : changesOnly (· ≠ .tasks) s (scrubEff s hall line) := by apply scrubEff_only (h := only_refl) <;> simp
  exact hscrub.steward_tasks (by simp)

theorem scrub_reads (hhall : hall < s.params.halls) (hready : scrubReady s hall line = true) : answers (.scrubRead hall line) s fun u =>
    tabGet 0 u.store.scrubPos hall = line + 1 ∧ u.store.mem = s.store.mem ∧ u.steward.tasks = s.steward.tasks ∧
    (∀ k, k ≠ line → lineCond u.store k = lineCond s.store k) ∧
    ∀ h, h = saHall (line * 64) →
    (lineCond s.store line = .correctable → line ∈ u.store.wbacks ∧
      (tabGet errCountZero u.store.errCount h).corrected = satInc 65535 (tabGet errCountZero s.store.errCount h).corrected) ∧
    (lineCond s.store line = .uncorrectable → lineCond u.store line = .poisoned ∧ (tabGet errLogZero u.store.errLog h).valid = true ∧
      (tabGet errCountZero u.store.errCount h).uncorrectable = satInc 255 (tabGet errCountZero s.store.errCount h).uncorrectable) ∧
    (lineCond s.store line = .poisoned → lineCond u.store line = .poisoned ∧
      (tabGet errCountZero u.store.errCount h).poisonHits = satInc 255 (tabGet errCountZero s.store.errCount h).poisonHits) := by
  refine answers_dueAt rfl (decide_eq_true hhall) hready ?_
  rw [scrubEff_store, scrubEff_tasks]
  refine ⟨by simp, readLine_mem .., rfl, fun k hk => lineCond_readLine_ne hk s.store, ?_⟩
  rintro _ rfl
  refine ⟨fun h => ?_, fun h => ?_, fun h => ?_⟩
  · obtain ⟨hwaits, hcount⟩ := readLine_correctable (b := true) h
    exact ⟨hwaits, by rw [hcount]⟩
  · obtain ⟨hline, hlog, hcount⟩ := readLine_uncorrectable (b := true) h
    exact ⟨hline, hlog, by rw [hcount]⟩
  · obtain ⟨hline, hcount⟩ := readLine_poisoned (b := true) h
    exact ⟨hline, by rw [hcount]⟩

end

/-- Settles O14: each event is read at the stores it leaves; what lands changes its own bytes, and the closes that it ends concern the ownership of granules alone. -/
theorem storePortEventsComplete : Obligations.StorePortEventsComplete := by
  refine fun s => ⟨?_, fun room r => remoteAccess_serves, fun line => corrected_writesBack, fun hall line => scrub_reads⟩
  rintro hall hhall hup hcycle _ _ _ rfl rfl rfl
  exact cellarPort_cycles hhall hup hcycle

end Sys2Proof.Machine

/-!
COPY_REBUILT of a copy whose source cannot be read (04 R115, 08 R247): the build gives the copy up, so that it stays absent.
-/
namespace Sys2Proof.Machine

section
variable {s : State} {image copy o : Nat} {i : Image} {c : CopyRec} {x : ListAt × CopyJob}

/-- A rebuild that is due answers its effect. -/
theorem copyRebuiltEff_of_answers {Q : State → Prop} (hlost : lostCopy s image copy = some (i, c)) (hplace : rebuildPlace s c = some o)
    (h : answers (.copyRebuilt image copy) s Q) : Q (copyRebuiltEff s image copy) := by
  obtain ⟨u, hnext, hQ⟩ := h
  change due _ _ _ = _ at hnext
  rw [hlost] at hnext
  dsimp only at hnext
  rw [hplace] at hnext
  cases hnext
  exact hQ

/-- A build gives the copy up where its source cannot be read. -/
theorem buildOne_unreadable (ctx : Nat) (x : ListAt × CopyJob) (h : (copySource c s).2 = none) :
    (buildOne ctx x c s).2 = { c with present := false, window := 65536 } := by
  unfold buildOne
  revert h
  rcases copySource c s with ⟨a, _ | bs⟩
  · exact fun _ => rfl
  · exact nofun

theorem buildOne_images (ctx : Nat) (x : ListAt × CopyJob) (c : CopyRec) (s : State) : (buildOne ctx x c s).1.steward.images = s.steward.images := by
  have h : changesOnly (· ≠ .images) s (buildOne ctx x c s).1 := by apply buildOne_only (h := only_refl) <;> simp
  exact h.steward_images (by simp)

/-- The image still lists the copy that was to be rebuilt, and lists it as absent. -/
theorem copyRebuiltEff_unreadable (hlost : lostCopy s image copy = some (i, c)) (hplace : rebuildPlace s c = some o) (hjob : copyOp s i c = some x)
    (hread : (copySource c s).2 = none) (hi : i ∈ s.steward.images) (hhandle : i.handle = image) (hc : c ∈ i.copies) (hcopy : c.copy = copy) :
    ∃ j ∈ (copyRebuiltEff s image copy).steward.images, j.handle = image ∧ ∃ y ∈ j.copies, y.copy = copy ∧ y.present = false := by
  unfold copyRebuiltEff
  rw [hlost]
  dsimp only
  rw [hplace, hjob]
  dsimp only [modSteward]
  rw [buildOne_images, buildOne_unreadable (c := { c with base := _, scales := _, present := true }) _ _ hread]
  refine ⟨_, List.mem_map.2 ⟨i, hi, rfl⟩, ?_⟩
  rw [if_pos hhandle]
  refine ⟨hhandle, _, List.mem_map.2 ⟨c, hc, rfl⟩, ?_⟩
  rw [if_pos hcopy]
  exact ⟨hcopy, rfl⟩

end

/-! An engine in which such a copy is due to be rebuilt. -/

/-- The rotated copy of a weight buffer of 512 bytes, which a relocation has discarded; its place was at the start of the reserve of hall 0. -/
def lostWeights : CopyRec := ⟨0, 1, 0, 0, 5, 2, 0x10000, 0x10000000, 512, 0x10000200, 1, 4, 0, 65536, false⟩

/-- An image whose op 0, in room 0, consumes point 5 with the weights of buffer 2. -/
def imageOfLostWeights : Image := {
  handle := 1, ctx := 1, imageId := 7, restartable := true, multi := false, v15 := false, members := 0, c16 := 0, c16chk := 0, c15 := 0, c15chk := 0
  deckles := [], reams := [], var15 := variantNone, memberRecs := [], flows := [], claims := [], launches := 0, crc := 0, annexes := [], windows := [], granules := []
  copies := [lostWeights], blocks := []
  var16 := { variantNone with
    rooms := [⟨0, 1, 0⟩]
    bufs := [⟨1, 7, false, false, true, false, 0xFFFF, 0x400000000, 512, none⟩, ⟨2, 0, true, false, true, false, 0xFFFF, 0x10000, 512, none⟩]
    binds := [⟨0, 0, 0, 2, 0⟩]
    qpoints := [⟨5, 3, 0, 0, 1, 0, 0, 0, 0⟩] } }

/-- One pass of the chute of one by one, FP8 E5M2, with IPT 5 (06 R180). -/
def chuteOfPointFive : OpWord := BitVec.ofNat 256 (0x06 + 4 * 2 ^ 32 + 4 * 2 ^ 36 + 2 ^ 52 + 2 ^ 91 + 5 * 2 ^ 107 + 0xFFF * 2 ^ 119 + 16 * 2 ^ 175 + 2 ^ 211)

/-- An engine that runs and holds the image, its op list in the pantry of room 0; the first line of the weights is poisoned. -/
def unreadableWeights : State := { State.reset with
  seq := { seqReset with step := .run, good := 7, req := 7 }
  time := { timeReset with running := true }
  store := { storeReset with
    ownReset := 0x4001, mem := tabPutList 0 [] 0x400000000 (leBytes 32 chuteOfPointFive.toNat ++ [0x14]), lines := [(0x400, .poisoned)] }
  steward := { stewardReset with phase := 5, up := true, images := [imageOfLostWeights] } }

theorem unreadableWeights_lost : lostCopy unreadableWeights 1 0 = some (imageOfLostWeights, lostWeights) := rfl

theorem unreadableWeights_place : rebuildPlace unreadableWeights lostWeights = some 0x10000000 := by decide +kernel

theorem unreadableWeights_job : (copyOp unreadableWeights imageOfLostWeights lostWeights).isSome = true := by decide +kernel

theorem unreadableWeights_source : (copySource lostWeights unreadableWeights).2 = none := by decide +kernel

/-- Refutes O15: COPY_REBUILT is due where the copy is absent and fits, whether or not its source can be read; with a poisoned line in the source, the copy that the
statement says is present is still absent. -/
theorem not_clearingAndRelocationComplete : ¬ Obligations.ClearingAndRelocationComplete := by
  intro h
  obtain ⟨-, -, hrebuilt⟩ := h unreadableWeights
  obtain ⟨-, -, hpresent⟩ := copyRebuiltEff_of_answers unreadableWeights_lost unreadableWeights_place
    (hrebuilt 1 0 imageOfLostWeights lostWeights 0x10000000 unreadableWeights_lost unreadableWeights_place)
  obtain ⟨x, hjob⟩ := Option.isSome_iff_exists.1 unreadableWeights_job
  obtain ⟨j, hj, hhandle, y, hy, hcopy, habsent⟩ := copyRebuiltEff_unreadable unreadableWeights_lost unreadableWeights_place hjob unreadableWeights_source
    (List.mem_singleton.2 rfl) rfl (List.mem_singleton.2 rfl) rfl
  obtain ⟨hstands, -⟩ := hpresent j hj hhandle y hy hcopy
  exact Bool.false_ne_true (habsent.symm.trans hstands)

end Sys2Proof.Machine

/-!
Mailboxes (10 R299 to R313): the rule of an answer and of a wait, from which every later request is read; the mailbox hardware; the requests that ask.
-/
namespace Sys2Proof.Machine

section
variable {s t u : State} {m op status : Nat} {w : MsgWord} {fs : List (Nat × Nat × Nat)}

/-! What an answer makes of the mailboxes (10 R302, R305, R306). -/

theorem mbox_writeRsp (m : Nat) (w : MsgWord) (replay notify : Bool) (s : State) : mbox (writeRsp m w replay notify s) m = { mbox s m with
    rsp := some (withTrailer w (phaseOf (mbox s m).rspTail.toNat (mbox s m).exSize) replay)
    rspNotify := notify, rspAcked := false, executing := none, awaits := false } := by
  rw [writeRsp, mbox_of_mboxes (issueReq_steward_mboxes ..), mbox_modMbox]

theorem mbox_writeRsp_ne {k : Nat} (hk : k ≠ m) (w : MsgWord) (replay notify : Bool) (s : State) : mbox (writeRsp m w replay notify s) k = mbox s k := by
  rw [writeRsp, mbox_of_mboxes (issueReq_steward_mboxes ..), mbox_modMbox_ne hk]

theorem mbox_respond (hex : (mbox s m).executing = some w) : mbox (respond m status fs s) m = { mbox s m with
    histValid := true, last := BitVec.ofNat 32 (wfld w 0 4)
    hist := ((BitVec.ofNat 32 (wfld w 0 4), rspWord w status fs) :: (mbox s m).hist).take 16
    rsp := some (withTrailer (rspWord w status fs) (phaseOf (mbox s m).rspTail.toNat (mbox s m).exSize) false)
    rspNotify := decide (wfld w 6 1 % 2 = 1), rspAcked := false, executing := none, awaits := false } := by
  rw [respond, hex]
  dsimp only
  rw [mbox_writeRsp, mbox_modMbox]

theorem mbox_respond_ne {k : Nat} (hk : k ≠ m) (status : Nat) (fs : List (Nat × Nat × Nat)) (s : State) : mbox (respond m status fs s) k = mbox s k := by
  unfold respond
  split
  · rfl
  · rw [mbox_writeRsp_ne hk, mbox_modMbox_ne hk]

/-! A command that executes is answered, or waits for a later event (10 R309, R311). -/

/-- In `t` mailbox `m` executes the word, and its response goes to the ring entry that is next in `s`. -/
structure Executes (s t : State) (m : Nat) (w : MsgWord) : Prop where
  word : (mbox t m).executing = some w
  tail : (mbox t m).rspTail = (mbox s m).rspTail
  size : (mbox t m).exSize = (mbox s m).exSize

theorem Executes.of_mbox (h : Executes s t m w) (hbox : mbox u m = mbox t m) : Executes s u m w :=
  ⟨by rw [hbox, h.word], by rw [hbox, h.tail], by rw [hbox, h.size]⟩

theorem Executes.of_mboxes (h : Executes s t m w) (hboxes : u.steward.mboxes = t.steward.mboxes) : Executes s u m w := h.of_mbox (mbox_of_mboxes hboxes m)

/-- A command whose mailbox has changed only in other fields still executes. -/
theorem Executes.modMbox (h : Executes s t m w) (k : Nat) (f : Mailbox → Mailbox)
    (hf : ∀ b, (f b).executing = b.executing ∧ (f b).rspTail = b.rspTail ∧ (f b).exSize = b.exSize) : Executes s (modMbox k f t) m w := by
  by_cases hk : m = k
  · subst hk
    obtain ⟨hword, htail, hsize⟩ := hf (mbox t m)
    rw [← mbox_modMbox m f t] at hword htail hsize
    exact ⟨hword.trans h.word, htail.trans h.tail, hsize.trans h.size⟩
  · exact h.of_mbox (mbox_modMbox_ne hk f t)

theorem Executes.await (h : Executes s t m w) : Executes s (await m t) m w := h.modMbox m _ fun _ => ⟨rfl, rfl, rfl⟩

theorem Executes.answered (h : Executes s t m w) (status : Nat) (fs : List (Nat × Nat × Nat)) : answered s (respond m status fs t) m w status fs := by
  obtain ⟨hword, htail, hsize⟩ := h
  rw [Machine.answered, mbox_respond hword, htail, hsize]
  exact ⟨rfl, rfl, rfl⟩

/-- The answer of a command that still executes, after a change outside the mailboxes. -/
theorem Executes.answered_of_mboxes (h : Executes s t m w) (hboxes : u.steward.mboxes = t.steward.mboxes) :
    Machine.answered s (respond m status fs u) m w status fs := (h.of_mboxes hboxes).answered status fs

theorem Executes.waits (h : Executes s t m w) : waits (Machine.await m t) m w := ⟨h.await.word, by rw [Machine.await, mbox_modMbox]⟩

theorem executes_of_requested (h : requested s m w op) : Executes s s m w := by
  obtain ⟨-, hready⟩ := h
  simp only [cmdReady, Bool.and_eq_true, beq_iff_eq] at hready
  obtain ⟨⟨⟨⟨-, hword⟩, -⟩, -⟩, -⟩ := hready
  exact ⟨hword, rfl, rfl⟩

/-- The row of a request that is executed has its effect. -/
theorem answers_request {c : Instr} {Q : State → Prop} (h : requested s m w op) (hc : exec c s = cmd m w op s t) (hQ : Q t) : answers c s Q :=
  answers_dueAt hc (decide_eq_true h.1) h.2 hQ

/-! MBX_DOORBELL (10 R301). -/

/-- What a doorbell makes of an enabled mailbox: TAIL is replaced, and an overrun halts a mailbox that runs. -/
def rung (tail : BitVec 32) (b : Mailbox) : Mailbox :=
  if 2 ^ b.sizeLog2 < behind tail b.reqHead ∧ b.st = 1 then { b with tail := tail, st := 2, haltCause := 1 } else { b with tail := tail }

theorem doorbellWrite_enabled (tail : BitVec 32) (hen : (mbox s m).enable = true) : doorbellWrite m tail s = modMbox m (rung tail) s := by
  unfold doorbellWrite
  dsimp only
  rw [hen, if_neg (by simp)]
  rfl

theorem rung_pointers (tail : BitVec 32) (b : Mailbox) : (rung tail b).tail = tail ∧ (rung tail b).reqHead = b.reqHead := by
  unfold rung
  split <;> exact ⟨rfl, rfl⟩

theorem rung_overrun {tail : BitVec 32} {b : Mailbox} (hover : 2 ^ b.sizeLog2 < behind tail b.reqHead) (hrun : b.st = 1) :
    (rung tail b).st = 2 ∧ (rung tail b).haltCause = 1 := by
  rw [rung, if_pos ⟨hover, hrun⟩]
  exact ⟨rfl, rfl⟩

theorem rung_fits {tail : BitVec 32} {b : Mailbox} (hfits : behind tail b.reqHead ≤ 2 ^ b.sizeLog2) :
    (rung tail b).st = b.st ∧ (rung tail b).haltCause = b.haltCause := by
  rw [rung, if_neg fun h => Nat.not_lt.2 hfits h.1]
  exact ⟨rfl, rfl⟩

theorem mbxDoorbell_rings (hm : m < 64) (hup : hardUp s = true) (hen : (mbox s m).enable = true) (tail : BitVec 32) :
    answers (.mbxDoorbell m tail) s fun u => (mbox u m).tail = tail ∧ (mbox u m).reqHead = (mbox s m).reqHead ∧ (∀ k, k ≠ m → mbox u k = mbox s k) ∧
      (2 ^ (mbox s m).sizeLog2 < behind tail (mbox s m).reqHead → (mbox s m).st = 1 → (mbox u m).st = 2 ∧ (mbox u m).haltCause = 1) ∧
      (behind tail (mbox s m).reqHead ≤ 2 ^ (mbox s m).sizeLog2 → (mbox u m).st = (mbox s m).st ∧ (mbox u m).haltCause = (mbox s m).haltCause) := by
  refine answers_dueAt rfl (decide_eq_true hm) (by rw [hup, hen]; rfl) ?_
  rw [doorbellWrite_enabled tail hen, mbox_modMbox]
  obtain ⟨htail, hhead⟩ := rung_pointers tail (mbox s m)
  exact ⟨htail, hhead, fun k hk => mbox_modMbox_ne hk _ _, rung_overrun, rung_fits⟩

/-! MBX_ENABLE and MBX_DISABLE (10 R294, R299, R304). -/

theorem ctrlWrite_enables {ctrl : BitVec 32} (hen : (mbox s m).enable = false) (hset : ctrl.getLsbD 0 = true) :
    ctrlWrite m ctrl s = modMbox m enableMbox (modMbox m (ctrlFields ctrl) s) := by
  unfold ctrlWrite
  exact if_pos ⟨hen, hset⟩

theorem ctrlWrite_disables {ctrl : BitVec 32} (hen : (mbox s m).enable = true) (hclear : ctrl.getLsbD 0 = false) :
    ctrlWrite m ctrl s = killFetch m (modMbox m disableMbox (modMbox m (ctrlFields ctrl) s)) := by
  unfold ctrlWrite
  exact (if_neg (by rw [hen]; nofun)).trans (if_pos ⟨hen, hclear⟩)

theorem ctrlFields_sizeLog2 (ctrl : BitVec 32) (b : Mailbox) : (ctrlFields ctrl b).sizeLog2 =
    if b.enable = false ∧ 2 ≤ ctrl.toNat / 2 ^ 8 % 16 ∧ ctrl.toNat / 2 ^ 8 % 16 ≤ 12 then ctrl.toNat / 2 ^ 8 % 16 else b.sizeLog2 := rfl

theorem mbxEnable_starts (hm : m < 64) (hup : hardUp s = true) (hen : (mbox s m).enable = false) {ctrl : BitVec 32} (hset : ctrl.getLsbD 0 = true) :
    answers (.mbxEnable m ctrl) s fun u => (mbox u m).enable = true ∧ (mbox u m).st = 1 ∧ (mbox u m).haltCause = 0 ∧ (mbox u m).tail = 0 ∧
      (mbox u m).reqHead = 0 ∧ (mbox u m).rspTail = 0 ∧ (mbox u m).rspHead = 0 ∧ (mbox u m).notifyEn = ctrl.getLsbD 1 ∧
      (mbox u m).sizeLog2 = (if 2 ≤ ctrl.toNat / 2 ^ 8 % 16 ∧ ctrl.toNat / 2 ^ 8 % 16 ≤ 12 then ctrl.toNat / 2 ^ 8 % 16 else (mbox s m).sizeLog2) ∧
      (mbox u m).binding = (mbox s m).binding ∧ ∀ k, k ≠ m → mbox u k = mbox s k := by
  refine answers_dueAt rfl (decide_eq_true hm) (by rw [hup, hen, hset]; rfl) ?_
  have hsize := ctrlFields_sizeLog2 ctrl (mbox s m)
  simp only [hen, true_and] at hsize
  rw [ctrlWrite_enables hen hset, mbox_modMbox, mbox_modMbox]
  exact ⟨rfl, rfl, rfl, rfl, rfl, rfl, rfl, rfl, hsize, rfl, fun k hk => (mbox_modMbox_ne hk _ _).trans (mbox_modMbox_ne hk _ _)⟩

theorem disableMbox_idle {b : Mailbox} (hidle : b.executing = none) (hwritten : b.rsp = none) : (disableMbox b).st = 0 := by
  simp [disableMbox, hidle, hwritten]

/-- No request fetch of the mailbox is outstanding any more. -/
theorem killFetch_out (m : Nat) (s : State) : ∀ r ∈ (killFetch m s).host.out, r.purpose ≠ .reqFetch m := by
  intro r hr
  obtain ⟨q, -, rfl⟩ := List.mem_map.1 hr
  split
  · exact nofun
  · assumption

theorem mbxDisable_stops (hm : m < 64) (hup : hardUp s = true) (hen : (mbox s m).enable = true) {ctrl : BitVec 32} (hclear : ctrl.getLsbD 0 = false) :
    answers (.mbxDisable m ctrl) s fun u => (mbox u m).enable = false ∧ (mbox u m).sizeLog2 = (mbox s m).sizeLog2 ∧
      (mbox u m).executing = (mbox s m).executing ∧ (mbox u m).rsp = (mbox s m).rsp ∧
      ((mbox s m).executing = none → (mbox s m).rsp = none → (mbox u m).st = 0) ∧ (∀ r ∈ u.host.out, r.purpose ≠ .reqFetch m) ∧
      ∀ k, k ≠ m → mbox u k = mbox s k := by
  refine answers_dueAt rfl (decide_eq_true hm) (by rw [hup, hen, hclear]; rfl) ?_
  have hsize := ctrlFields_sizeLog2 ctrl (mbox s m)
  simp only [hen, Bool.true_eq_false, false_and, if_false] at hsize
  have hbox (k : Nat) : mbox (killFetch m (modMbox m disableMbox (modMbox m (ctrlFields ctrl) s))) k =
      mbox (modMbox m disableMbox (modMbox m (ctrlFields ctrl) s)) k := mbox_of_mboxes rfl k
  rw [ctrlWrite_disables hen hclear]
  refine ⟨?_, ?_, ?_, ?_, fun hidle hwritten => ?_, killFetch_out _ _, fun k hk => (hbox k).trans ((mbox_modMbox_ne hk _ _).trans (mbox_modMbox_ne hk _ _))⟩ <;>
    rw [hbox, mbox_modMbox, mbox_modMbox]
  · rfl
  · exact hsize
  · rfl
  · rfl
  · exact disableMbox_idle hidle hwritten

/-! MBX_REQUEST_FETCH (10 R300). -/

/-- A request of the engine is outstanding, or waits for a tag (19 R534). -/
theorem asked_issueReq (p : Purpose) (x : HostMsg) (s : State) : asked (issueReq p x s) p x.addr := by
  unfold issueReq
  split
  next tag _ =>
    split
    · refine .inl ⟨⟨tag, p, x.addr, s.time.up⟩, ?_, rfl, rfl⟩
      rw [(sendMsg_leaves ..).host_out (by decide)]
      exact List.mem_append_right _ (List.mem_singleton.2 rfl)
    · exact .inr ⟨(p, x), List.mem_append_right _ (List.mem_singleton.2 rfl), rfl, rfl⟩
  next => exact .inr ⟨(p, x), List.mem_append_right _ (List.mem_singleton.2 rfl), rfl, rfl⟩

theorem mbxRequestFetch_asks (hm : m < 64) (hready : fetchReady s m = true) :
    answers (.mbxRequestFetch m) s fun u => (mbox u m).fetching = true ∧
      asked u (.reqFetch m) ((mbox s m).reqBase.toNat + 64 * ((mbox s m).reqHead.toNat % 2 ^ (mbox s m).sizeLog2)) := by
  refine answers_dueAt rfl (decide_eq_true hm) hready ⟨?_, asked_issueReq ..⟩
  rw [fetchEff, mbox_of_mboxes (issueReq_steward_mboxes ..), mbox_modMbox]

/-! REQUEST_WORD (10 R306, R310). -/

theorem mbox_takeWord (m : Nat) (w : MsgWord) (s : State) : mbox (takeWord m w s) m = { mbox s m with
    arrived := none, exRspBase := (mbox s m).rspBase, exSize := (mbox s m).sizeLog2, exCtx := wfld w 8 2, exBinding := (mbox s m).binding
    order := s.steward.taken } := by
  rw [takeWord, mbox_modMbox]
  rfl

/-- A new request is taken: it executes. -/
def takenNew (m : Nat) (w : MsgWord) (s : State) : State := modMbox m (fun b => { b with executing := some w, awaits := false }) (takeWord m w s)

theorem requestEff_new (hnew : classify (mbox s m) (BitVec.ofNat 32 (wfld w 0 4)) = .new)
    (hcheck : requestCheck s.params s.steward.phase (mbox s m) w = none) : requestEff s m w = takenNew m w s := by
  simp only [requestEff, hnew, hcheck, takenNew]

theorem requestEff_failed {code : Nat} (hnew : classify (mbox s m) (BitVec.ofNat 32 (wfld w 0 4)) = .new)
    (hcheck : requestCheck s.params s.steward.phase (mbox s m) w = some code) : requestEff s m w = respond m code [] (takenNew m w s) := by
  simp only [requestEff, hnew, hcheck, takenNew]

theorem requestEff_dup {kept : MsgWord} (hdup : classify (mbox s m) (BitVec.ofNat 32 (wfld w 0 4)) = .dup kept) :
    requestEff s m w = writeRsp m kept true (decide (wfld w 6 1 % 2 = 1)) (takeWord m w s) := by
  simp only [requestEff, hdup]

theorem requestEff_invalid (hinvalid : classify (mbox s m) (BitVec.ofNat 32 (wfld w 0 4)) = .invalid) :
    requestEff s m w = writeRsp m (rspWord w 0x0104 []) false (decide (wfld w 6 1 % 2 = 1)) (takeWord m w s) := by
  simp only [requestEff, hinvalid]

theorem mbox_takenNew (m : Nat) (w : MsgWord) (s : State) : mbox (takenNew m w s) m = { mbox (takeWord m w s) m with executing := some w, awaits := false } := by
  rw [takenNew, mbox_modMbox]

/-- Whatever becomes of the request, its word no longer waits. -/
theorem requestEff_arrived (s : State) (m : Nat) (w : MsgWord) : (mbox (requestEff s m w) m).arrived = none := by
  cases hclass : classify (mbox s m) (BitVec.ofNat 32 (wfld w 0 4)) with
  | new =>
    cases hcheck : requestCheck s.params s.steward.phase (mbox s m) w with
    | none => rw [requestEff_new hclass hcheck, mbox_takenNew, mbox_takeWord]
    | some code => rw [requestEff_failed hclass hcheck, mbox_respond (by rw [mbox_takenNew]), mbox_takenNew, mbox_takeWord]
  | dup kept => rw [requestEff_dup hclass, mbox_writeRsp, mbox_takeWord]
  | invalid => rw [requestEff_invalid hclass, mbox_writeRsp, mbox_takeWord]

theorem requestWord_taken (hm : m < 64) (hready : requestReady s m w = true) {q : BitVec 32} (hq : q = BitVec.ofNat 32 (wfld w 0 4)) :
    answers (.requestWord m w) s fun u => (mbox u m).arrived = none ∧
      (classify (mbox s m) q = .new → requestCheck s.params s.steward.phase (mbox s m) w = none →
        (mbox u m).executing = some w ∧ (mbox u m).awaits = false ∧ (mbox u m).rsp = (mbox s m).rsp) ∧
      (∀ code, classify (mbox s m) q = .new → requestCheck s.params s.steward.phase (mbox s m) w = some code →
        (mbox u m).executing = none ∧ (mbox u m).last = q ∧
          (mbox u m).rsp = some (withTrailer (rspWord w code []) (phaseOf (mbox s m).rspTail.toNat (mbox s m).sizeLog2) false)) ∧
      (∀ kept, classify (mbox s m) q = .dup kept → (mbox u m).last = (mbox s m).last ∧
        (mbox u m).rsp = some (withTrailer kept (phaseOf (mbox s m).rspTail.toNat (mbox s m).sizeLog2) true)) ∧
      (classify (mbox s m) q = .invalid → (mbox u m).last = (mbox s m).last ∧
        (mbox u m).rsp = some (withTrailer (rspWord w 0x0104 []) (phaseOf (mbox s m).rspTail.toNat (mbox s m).sizeLog2) false)) := by
  subst hq
  refine answers_dueAt rfl (decide_eq_true hm) hready
    ⟨requestEff_arrived s m w, fun hnew hcheck => ?_, fun code hnew hcheck => ?_, fun kept hdup => ?_, fun hinvalid => ?_⟩
  · rw [requestEff_new hnew hcheck, mbox_takenNew, mbox_takeWord]
    exact ⟨rfl, rfl, rfl⟩
  · rw [requestEff_failed hnew hcheck, mbox_respond (by rw [mbox_takenNew]), mbox_takenNew, mbox_takeWord]
    exact ⟨rfl, rfl, rfl⟩
  · rw [requestEff_dup hdup, mbox_writeRsp, mbox_takeWord]
    exact ⟨rfl, rfl⟩
  · rw [requestEff_invalid hinvalid, mbox_writeRsp, mbox_takeWord]
    exact ⟨rfl, rfl⟩

/-! RESPONSE_WRITE_ACK (10 R302, R304). -/

theorem mbox_rspAckEff (s : State) (m : Nat) : mbox (rspAckEff s m) m = { mbox s m with
    rsp := none, rspAcked := false, rspTail := (mbox s m).rspTail + 1, st := if (mbox s m).enable then (mbox s m).st else 0 } := by
  unfold rspAckEff
  dsimp only
  split
  · rw [mbox_of_mboxes (addEvt_steward_mboxes ..), mbox_modMbox]
  · rw [mbox_modMbox]

theorem responseWriteAck_advances (hm : m < 64) (hrsp : (mbox s m).rsp = some w) (hacked : (mbox s m).rspAcked = true) :
    answers (.responseWriteAck m) s fun u => (mbox u m).rsp = none ∧ (mbox u m).rspTail = (mbox s m).rspTail + 1 ∧ (mbox u m).enable = (mbox s m).enable ∧
      ((mbox s m).enable = false → (mbox u m).st = 0) ∧ ((mbox s m).enable = true → (mbox u m).st = (mbox s m).st) := by
  refine answers_dueAt rfl (decide_eq_true hm) (by rw [hrsp, hacked]; rfl) ?_
  rw [mbox_rspAckEff]
  exact ⟨rfl, rfl, rfl, fun hen => by rw [hen]; rfl, fun hen => by rw [hen]; rfl⟩

/-! Requests that ask, and the binding of mailboxes (10 R312, R313, 11 R329). -/

theorem mbxBindEff_binds (h : (wfld w 0x0D 1 = 1 → wfld w 0x0E 2 ≠ 0 ∧ (ctxOf s (wfld w 0x0E 2)).state < 2)) : mbxBindEff s m w =
    respond m 0 [] (modMbox (wfld w 0x0C 1) (fun b => { b with binding := wfld w 0x0D 1, boundCtx := if wfld w 0x0D 1 = 1 then wfld w 0x0E 2 else 0 }) s) := by
  refine if_neg fun ⟨hmode, hbad⟩ => ?_
  obtain ⟨hc, hlive⟩ := h hmode
  exact hbad.elim hc (Nat.not_le.2 hlive)

/-- An answer leaves what every mailbox is bound to. -/
theorem mbox_respond_boundCtx (h : Executes s t m w) (k : Nat) : (mbox (respond m status fs t) k).boundCtx = (mbox t k).boundCtx := by
  by_cases hk : k = m
  · rw [hk, mbox_respond h.word]
  · rw [mbox_respond_ne hk]

theorem mbxBind_binds (hreq : requested s m w 0x03) (h : (wfld w 0x0D 1 = 1 → wfld w 0x0E 2 ≠ 0 ∧ (ctxOf s (wfld w 0x0E 2)).state < 2)) :
    answers (.mbxBind m w) s fun u => answered s u m w 0 [] ∧ (mbox u (wfld w 0x0C 1)).binding = wfld w 0x0D 1 ∧
      (mbox u (wfld w 0x0C 1)).boundCtx = if wfld w 0x0D 1 = 1 then wfld w 0x0E 2 else 0 := by
  refine answers_request hreq rfl ?_
  rw [mbxBindEff_binds h]
  have hex := (executes_of_requested hreq).modMbox (wfld w 0x0C 1)
    (fun b => { b with binding := wfld w 0x0D 1, boundCtx := if wfld w 0x0D 1 = 1 then wfld w 0x0E 2 else 0 }) fun _ => ⟨rfl, rfl, rfl⟩
  refine ⟨hex.answered 0 [], ?_, ?_⟩
  · rw [mbox_respond_binding, mbox_modMbox]
  · rw [mbox_respond_boundCtx hex, mbox_modMbox]

theorem clearCtx_leaves (c : Nat) (s : State) : changesOnly (· ∈ ([.ctxs, .queues, .tasks, .requests, .messages, .porch] : List Part)) s (clearCtx c s) := by
  apply clearCtx_only (h := only_refl) <;> decide

/-- CLEAR leaves the context OK (11 R328): the queues that resume after it concern no context. -/
theorem ctxOf_clearCtx {c : Nat} (hc : c ≠ 0) (s : State) :
    ctxOf (clearCtx c s) c = { ctxOf s c with state := 0, fault := 0, faultQueue := 0xFFFF, faultAddr := 0 } := by
  have hctxs : (clearCtx c s).steward.ctxs =
      (modCtx c (fun x => { x with state := 0, fault := 0, faultQueue := 0xFFFF, faultAddr := 0 }) s).steward.ctxs := by
    unfold clearCtx
    dsimp only
    refine changesOnly.steward_ctxs (P := (· ≠ .ctxs)) ?_ (by simp)
    apply promote_only (htasks := by simp)
    apply putStatusAll_only <;> try simp
    apply modSteward_only (h := only_refl) <;> simp
  rw [ctxOf, hctxs, ← ctxOf, ctxOf_modCtx hc]

theorem ctxQueryEff_reports (hstate : (ctxOf s (wfld w 8 2)).state ≠ 2) : ctxQueryEff s m w =
    respond m 0 (ctxReport s (wfld w 8 2)) (if wfld w 0x0C 1 = 1 ∧ (ctxOf s (wfld w 8 2)).state = 1 then clearCtx (wfld w 8 2) s else s) := if_neg hstate

theorem ctxQuery_reports (hreq : requested s m w 0x12) (hstate : (ctxOf s (wfld w 8 2)).state ≠ 2) :
    answers (.ctxQuery m w) s fun u => answered s u m w 0 (ctxReport s (wfld w 8 2)) ∧
      (wfld w 0x0C 1 = 1 → (ctxOf s (wfld w 8 2)).state = 1 →
        (ctxOf u (wfld w 8 2)).state = 0 ∧ (ctxOf u (wfld w 8 2)).fault = 0 ∧ (ctxOf u (wfld w 8 2)).faultQueue = 0xFFFF) := by
  refine answers_request hreq rfl ?_
  have hex := executes_of_requested hreq
  rw [ctxQueryEff_reports hstate]
  split
  · refine ⟨hex.answered_of_mboxes ((clearCtx_leaves ..).steward_mboxes (by decide)), fun _ hfaulted => ?_⟩
    have hc : wfld w 8 2 ≠ 0 := fun hzero => by
      rw [hzero] at hfaulted
      cases hfaulted
    rw [ctxOf, (respond_leaves ..).steward_ctxs (by decide), ← ctxOf, ctxOf_clearCtx hc]
    exact ⟨rfl, rfl, rfl⟩
  next hkeep => exact ⟨hex.answered .., fun hclear hfaulted => absurd ⟨hclear, hfaulted⟩ hkeep⟩

theorem healthQueryEff_summary (h : wfld w 0x0C 1 = 0 ∧ wfld w 0x0E 2 = 0) : healthQueryEff s m w = respond m 0 (summary s) s := if_pos h

theorem healthQueryEff_unit (h : ¬ (wfld w 0x0C 1 = 0 ∧ wfld w 0x0E 2 = 0)) (hunit : unitExists s (wfld w 0x0C 1) (wfld w 0x0E 2) = true) :
    healthQueryEff s m w = respond m 0 (unitReport s (wfld w 0x0C 1) (wfld w 0x0E 2)) s := (if_neg h).trans (if_pos hunit)

end

/-- Settles O26: each event is one change of its mailbox, read field by field. -/
theorem mailboxHardwareActs : Obligations.MailboxHardwareActs := by
  rintro s m hm _ rfl
  refine ⟨fun hup hen tail => mbxDoorbell_rings hm hup hen tail, fun hup hen ctrl hset n hn => ?_, fun hup hen ctrl hclear => mbxDisable_stops hm hup hen hclear,
    mbxRequestFetch_asks hm, fun w hready q hq => requestWord_taken hm hready hq, fun w hrsp hacked => responseWriteAck_advances hm hrsp hacked⟩
  subst hn
  exact mbxEnable_starts hm hup hen hset

/-- Settles O18: each request is answered with what the state held; a binding and CLEAR are read beside the answer. -/
theorem stewardQueriesComplete : Obligations.StewardQueriesComplete := by
  refine fun s m w => ⟨fun hreq => ?_, fun hreq => ?_, fun hreq k mode c hk hmode hc hlive => ?_, fun hreq c hc hstate => ?_, fun hreq k i hk hi => ?_⟩
  · exact answers_request hreq rfl ((executes_of_requested hreq).answered ..)
  · exact answers_request hreq rfl ((executes_of_requested hreq).answered ..)
  · subst hk hmode hc
    exact mbxBind_binds hreq hlive
  · subst hc
    exact ctxQuery_reports hreq hstate
  · subst hk hi
    refine answers_request hreq rfl ⟨fun hall => ?_, fun hone hunit => ?_⟩
    · rw [healthQueryEff_summary hall]
      exact (executes_of_requested hreq).answered ..
    · rw [healthQueryEff_unit hone hunit]
      exact (executes_of_requested hreq).answered ..

end Sys2Proof.Machine

/-!
Staged settings (10 R317 to R320): a setting is staged and waits; an item that is due commits whole and is answered, one that misses its deadline is discarded.
-/
namespace Sys2Proof.Machine

section
variable {s t : State} {m : Nat} {w : MsgWord} {x : Staged}

/-! Staging. -/

/-- The item that a request stages, with its beat A (10 R318). -/
def itemOf (s : State) (m : Nat) (w : MsgWord) (table : List (BitVec 32)) : Staged :=
  ⟨m, w, if wfld w 0x0C 1 = 2 then wfld w 0x10 8 else beatOf s, table, false⟩

theorem stage_accepts (hdeadline : deadlineBad s w = false) (hnew : ∀ x ∈ s.steward.staged, sameItem x.word w = false) (table : List (BitVec 32)) :
    stage m w table s = await m (modSteward (fun x => { x with staged := x.staged ++ [itemOf s m w table] }) s) := by
  have hany : (s.steward.staged.any fun x => sameItem x.word w) = false := by simpa using hnew
  rw [stage, hdeadline, hany]
  rfl

theorem stage_waits (hex : Executes s s m w) (hdeadline : deadlineBad s w = false) (hnew : ∀ x ∈ s.steward.staged, sameItem x.word w = false)
    (table : List (BitVec 32)) : (stage m w table s).steward.staged = s.steward.staged ++ [itemOf s m w table] ∧ waits (stage m w table s) m w ∧
      (stage m w table s).pace = s.pace ∧ (stage m w table s).power = s.power ∧ (stage m w table s).side = s.side ∧
      (stage m w table s).time = s.time ∧ (stage m w table s).fabric = s.fabric ∧ (stage m w table s).health = s.health := by
  rw [stage_accepts hdeadline hnew]
  exact ⟨rfl, (hex.of_mboxes rfl).waits, rfl, rfl, rfl, rfl, rfl, rfl⟩

theorem sbPinSetEff_stages (h : pinRefused s w = false) : sbPinSetEff s m w = stage m w [] s := if_neg (by rw [h]; exact Bool.false_ne_true)

theorem fabricSetEff_computed (h : wfld w 0x1A 1 ≠ 1) (table : Option (List (BitVec 32))) : fabricSetEff s m w table = stage m w [] s := if_neg h

theorem fabricSetEff_supplied (h : wfld w 0x1A 1 = 1) (es : List (BitVec 32)) : fabricSetEff s m w (some es) = stage m w (es.take 8192) s := if_pos h

theorem healthSetEff_stages (h : wfld w 0x18 1 = 1 → unitExists s (wfld w 0x19 1) (wfld w 0x1A 2) = true) : healthSetEff s m w = stage m w [] s :=
  if_neg fun ⟨hreplace, hnone⟩ => Bool.false_ne_true (hnone.symm.trans (h hreplace))

/-! The settings that an item leaves when it commits. -/

theorem commitItem_leaves (x : Staged) (s : State) :
    changesOnly (· ∈ ([.freeCtr, .side, .keep, .fabric, .time, .pace, .power, .health] : List Part)) s (commitItem x s) := by
  apply commitItem_only (h := only_refl) <;> decide

theorem commitItem_pace (hop : wfld x.word 4 2 = 0x30) : commitItem x s = commitPace (wfld x.word 0x18 4) s := by
  rw [commitItem, hop]
  rfl
theorem commitItem_power (hop : wfld x.word 4 2 = 0x31) : commitItem x s = commitPower x.word s := by
  rw [commitItem, hop]
  rfl
theorem commitItem_pin (hop : wfld x.word 4 2 = 0x32) : commitItem x s = commitPin x.word s := by
  rw [commitItem, hop]
  rfl
theorem commitItem_time (hop : wfld x.word 4 2 = 0x33) : commitItem x s = commitTime x.word s := by
  rw [commitItem, hop]
  rfl
theorem commitItem_fabric (hop : wfld x.word 4 2 = 0x34) : commitItem x s = commitFabric x.word x.table s := by
  rw [commitItem, hop]
  rfl
theorem commitItem_health (hop : wfld x.word 4 2 = 0x35) : commitItem x s = commitHealth x.word s := by
  rw [commitItem, hop]
  rfl

theorem commitPower_limits (h : wfld w 0x18 1 % 2 = 1) (s : State) : (commitPower w s).power.cap = some (wfld w 0x1A 2) ∧
    (commitPower w s).power.cfg.hallAmps = wfld w 0x1C 2 ∧ (commitPower w s).power.cfg.vmax = wfld w 0x1E 1 := by
  unfold commitPower
  simp only [if_pos h]
  split <;> exact ⟨rfl, rfl, rfl⟩

theorem commitPower_mode (h : wfld w 0x18 1 / 2 % 2 = 1) (s : State) : (commitPower w s).power.mode = (wfld w 0x19 1 == 1) := by
  unfold commitPower
  simp only [if_pos h]
  rfl

theorem modPin_pins {p : Nat} {y : Pin} (h : s.side.pins[p]? = some y) (f : Pin → Pin) : (modPin p f s).side.pins[p]? = some (f y) := by
  simp [modPin, List.getElem?_zipIdx, h]

/-- A pin takes its settings, and a change of its function begins a hold (19 R551, R552). -/
def pinTaken (w : MsgWord) (s : State) (changed : Bool) (x : Pin) : Pin := { x with
  func := wfld w 0x19 1, park := wfld w 0x1A 1, edge := wfld w 0x1B 1, filter := wfld w 0x1C 1, hold := wfld w 0x1D 1, mask := wfld w 0x1E 1
  holdUntil := if changed then some (upBeat s + wfld w 0x1D 1) else x.holdUntil }

theorem commitPin_pins {y : Pin} (h : s.side.pins[wfld w 0x18 1]? = some y) :
    (commitPin w s).side.pins = (modPin (wfld w 0x18 1) (pinTaken w s (y.func != wfld w 0x19 1)) s).side.pins := by
  unfold commitPin
  simp only [h]
  cases y.func != wfld w 0x19 1 <;> rfl

theorem commitPin_takes {y : Pin} (h : s.side.pins[wfld w 0x18 1]? = some y) : ∃ z, (commitPin w s).side.pins[wfld w 0x18 1]? = some z ∧
    z.func = wfld w 0x19 1 ∧ z.mask = wfld w 0x1E 1 ∧ (y.func ≠ wfld w 0x19 1 → z.holdUntil = some (upBeat s + wfld w 0x1D 1)) := by
  rw [commitPin_pins h]
  exact ⟨_, modPin_pins h _, rfl, rfl, fun hne => if_pos (bne_iff_ne.2 hne)⟩

theorem commitHealth_settings (h : wfld w 0x18 1 = 0) (s : State) : (commitHealth w s).health.eolHours = wfld w 0x1C 4 ∧
    (commitHealth w s).health.recordMin = wfld w 0x20 2 ∧ (commitHealth w s).health.transLimit = wfld w 0x23 1 := by
  rw [commitHealth, if_pos h]
  exact ⟨rfl, rfl, rfl⟩

/-! A change of tables reaches the registrar or the other engines, and leaves the rank that waits (13 R381, R390). -/

theorem sendEntries_newRank (dst : Nat) (aux : Option Nat) (serial : BitVec 64) (value at' : Nat) : ∀ (n : Nat) (es : Tab (BitVec 32)) (s : State),
    (sendEntries dst aux serial value at' es n s).fabric.newRank = s.fabric.newRank
  | 0, _, _ => rfl
  | n + 1, _, _ => by
    rw [sendEntries, sendEntries_newRank _ _ _ _ _ n]
    rfl

theorem sendUpdates_newRank (hs : List Hop) (epoch beat : Nat) (all : List (AdmRec × Nat × Nat × Nat)) : ∀ (rs : List (AdmRec × Nat × Nat × Nat)) (s : State),
    (sendUpdates hs epoch beat all rs s).fabric.newRank = s.fabric.newRank
  | [], _ => rfl
  | (r, a, _, _) :: rs, s => by
    rw [sendUpdates, sendUpdates_newRank hs epoch beat all rs]
    split
    · rfl
    · exact sendEntries_newRank ..

theorem tableChanged_newRank (s : State) : (tableChanged s).fabric.newRank = s.fabric.newRank := by
  unfold tableChanged
  split
  · exact sendUpdates_newRank ..
  · split
    · exact sendEntries_newRank ..
    · rfl

theorem commitFabric_newRank (w : MsgWord) (table : List (BitVec 32)) (s : State) : (commitFabric w table s).fabric.newRank = some (wfld w 0x18 2) := by
  unfold commitFabric
  dsimp only [queueKeep]
  split
  · exact tableChanged_newRank _
  · rfl

/-! The commit of the one item that is due. -/

/-- The item leaves the list and takes effect. -/
def takenEffect (x : Staged) (s : State) : State := commitItem x (modSteward (fun y => { y with staged := y.staged.filter fun z => z != x }) s)

theorem commitDue_one (hdue : stagedDue s x = true) : commitDue [x] s = trace 3 (wfld x.word 4 2) (respond x.mbox 0 [(8, 8, beatOf s)] (takenEffect x s)) :=
  if_pos hdue

theorem trace_pins (type code : Nat) (s : State) : (trace type code s).side.pins = s.side.pins := by
  unfold trace
  split
  · split <;> rfl
  · rfl

theorem takenEffect_leaves (x : Staged) (s : State) :
    changesOnly (· ∈ ([.staged, .freeCtr, .side, .keep, .fabric, .time, .pace, .power, .health] : List Part)) s (takenEffect x s) := by
  apply commitItem_only
  case h => apply modSteward_only (h := only_refl) <;> simp
  all_goals decide

theorem takenEffect_staged (hstaged : s.steward.staged = [x]) : (takenEffect x s).steward.staged = [] := by
  rw [takenEffect, (commitItem_leaves ..).steward_staged (by decide), modSteward_steward, hstaged]
  simp

/-- The parts of the state after the commit's answer and its trace are those that the effect leaves. -/
theorem commit_parts (n : Nat) (s : State) (m : Nat) (fs : List (Nat × Nat × Nat)) (t : State) (ht : t = trace 3 n (respond m 0 fs s)) :
    t.pace = s.pace ∧ t.power = s.power ∧ t.side.pins = s.side.pins ∧ t.time = s.time ∧ t.fabric = s.fabric ∧ t.health = s.health := by
  rw [ht, trace_pins]
  exact ⟨by simp, by simp, by simp, by simp, by simp, by simp⟩

theorem stagedCommit_commits (hword : (mbox s x.mbox).executing = some x.word) (hstaged : s.steward.staged = [x]) (hdue : stagedDue s x = true) :
    answers .stagedCommit s fun u => u.steward.staged = [] ∧ answered s u x.mbox x.word 0 [(8, 8, beatOf s)] ∧ u.pace = (takenEffect x s).pace ∧
      u.power = (takenEffect x s).power ∧ u.side.pins = (takenEffect x s).side.pins ∧ u.time = (takenEffect x s).time ∧
      u.fabric = (takenEffect x s).fabric ∧ u.health = (takenEffect x s).health := by
  refine answers_due rfl (by rw [hstaged]; simp [hdue]) ?_
  have hex : Executes s s x.mbox x.word := ⟨hword, rfl, rfl⟩
  rw [hstaged, commitDue_one hdue]
  refine ⟨?_, ?_, commit_parts _ _ _ _ _ rfl⟩
  · rw [(trace_leaves ..).steward_staged (by decide), (respond_leaves ..).steward_staged (by decide), takenEffect_staged hstaged]
  · have hanswered := (hex.of_mboxes ((takenEffect_leaves x s).steward_mboxes (by decide))).answered 0 [(8, 8, beatOf s)]
    rwa [answered, ← mbox_of_mboxes (trace_steward_mboxes 3 (wfld x.word 4 2) _)] at hanswered

/-! An item that misses its deadline (10 R318, R320). -/

theorem stagedBy_one (hstaged : s.steward.staged = [x]) : stagedBy s x.mbox = some x := by
  rw [stagedBy, hstaged]
  simp

theorem discardStaged_staged (hstaged : s.steward.staged = [x]) : (discardStaged x s).steward.staged = [] := by
  have hout : (s.steward.staged.filter fun z => z != x) = [] := by simp [hstaged]
  unfold discardStaged
  dsimp only
  split <;> exact hout

theorem deferredNotApplied_discards (hm : x.mbox < 64) (hword : (mbox s x.mbox).executing = some x.word) (hstaged : s.steward.staged = [x])
    (hready : notAppliedReady s x.mbox = true) :
    answers (.deferredNotApplied x.mbox) s fun u => u.steward.staged = [] ∧ answered s u x.mbox x.word 0x0110 [] := by
  refine answers_dueAt rfl (decide_eq_true hm) hready ?_
  have hex : Executes s s x.mbox x.word := ⟨hword, rfl, rfl⟩
  have hboxes : (discardStaged x s).steward.mboxes = s.steward.mboxes :=
    (discardStaged_only (P := (· ∈ ([.staged, .power] : List Part))) (by decide) (by decide) x only_refl).steward_mboxes (by decide)
  rw [notAppliedEff, stagedBy_one hstaged]
  exact ⟨by rw [(respond_leaves ..).steward_staged (by decide), discardStaged_staged hstaged], (hex.of_mboxes hboxes).answered ..⟩

end

/-- Settles O23: under its own condition each request is `stage`, which adds the item and waits. -/
theorem settingsAreStaged : Obligations.SettingsAreStaged := by
  rintro s m w hdeadline hnew _ done rfl hdone
  have hstaged {op : Nat} (hreq : requested s m w op) (table : List (BitVec 32)) : done table (stage m w table s) :=
    (hdone ..).2 (stage_waits (executes_of_requested hreq) hdeadline hnew table)
  refine ⟨fun hreq => ?_, fun hreq => ?_, fun hreq hpin => ?_, fun hreq => ?_, fun hreq => ⟨fun hroutes table => ?_, fun hroutes es => ?_⟩, fun hreq hunit => ?_⟩ <;>
    refine answers_request hreq rfl ?_
  · exact hstaged hreq []
  · exact hstaged hreq []
  · rw [sbPinSetEff_stages hpin]
    exact hstaged hreq []
  · exact hstaged hreq []
  · rw [fabricSetEff_computed hroutes]
    exact hstaged hreq []
  · rw [fabricSetEff_supplied hroutes]
    exact hstaged hreq _
  · rw [healthSetEff_stages hunit]
    exact hstaged hreq []

/-- Settles O24: the commit leaves each part as the item's effect leaves it, and the effect is read by the kind of the item. -/
theorem stagedItemsCommit : Obligations.StagedItemsCommit := by
  rintro s _ _ x hword rfl rfl hstaged
  refine ⟨fun hdue => ?_, fun hm hready => deferredNotApplied_discards hm hword hstaged hready⟩
  obtain ⟨u, hnext, hnone, hanswered, hpace, hpower, hpins, htime, hfabric, hhealth⟩ := stagedCommit_commits hword hstaged hdue
  refine ⟨u, hnext, hnone, hanswered, fun hop v hv => ?_, fun hop => ?_, fun hop p y hp hy => ?_, fun hop => ?_, fun hop => ?_, fun hop hcfg => ?_⟩
  · rw [hpace, takenEffect, commitItem_pace hop, hv]
    exact ⟨rfl, rfl, rfl, rfl⟩
  · rw [hpower, takenEffect, commitItem_power hop]
    exact ⟨fun hlimits => commitPower_limits hlimits _, fun hmode => commitPower_mode hmode _⟩
  · rw [hpins, takenEffect, commitItem_pin hop, hp]
    exact commitPin_takes (by rwa [hp] at hy)
  · rw [htime, takenEffect, commitItem_time hop]
    exact ⟨rfl, rfl, rfl, rfl⟩
  · rw [hfabric, takenEffect, commitItem_fabric hop]
    exact commitFabric_newRank ..
  · rw [hhealth, takenEffect, commitItem_health hop]
    exact commitHealth_settings hcfg _

end Sys2Proof.Machine

/-!
Requests on the store (10 R314, 08 R238 to R242): granules, windows, copies, and how a close of windows ends.
-/
namespace Sys2Proof.Machine

section
variable {s t : State} {m : Nat} {w : MsgWord}

/-! The entry of a granule (08 R238). -/

theorem setOwns_own (e : BitVec 16) (g : Nat) : ∀ (gs : List Nat) (st : Store), tabGet (gs.foldl (fun x g => setOwn x g e) st).ownReset
    (gs.foldl (fun x g => setOwn x g e) st).own g = if g ∈ gs then e else tabGet st.ownReset st.own g
  | [], st => by simp
  | k :: gs, st => by
    rw [List.foldl_cons, setOwns_own e g gs, setOwn, tabGet_put]
    by_cases hk : k = g
    · subst hk; simp
    · simp [hk, Ne.symm hk]

theorem giveGranules_own {g : Nat} {gs : List Nat} (hg : g ∈ gs) (c cls : Nat) (st : Store) :
    tabGet (giveGranules c cls gs st).ownReset (giveGranules c cls gs st).own g = ownMake cls c := (setOwns_own ..).trans (if_pos hg)

theorem startClearing_own {g : Nat} {gs : List Nat} (hg : g ∈ gs) (st : Store) :
    tabGet (startClearing gs st).ownReset (startClearing gs st).own g = ownMake 3 0 := (setOwns_own ..).trans (if_pos hg)

/-! Bytes written by whole lines. -/

theorem memBytes_writeWhole (st : Store) (a : Nat) (bs : List Byte) : memBytes (writeWhole st a bs) a bs.length = bs := by
  rw [writeWhole, memBytes_congr (cleanLines_mem ..), memBytes_memPut]

/-! A close of windows (08 R242). -/

theorem stillFlies_congr (c : Closing) (hlanes : t.store.lanes = s.store.lanes) (hremote : t.store.remote = s.store.remote) (hrooms : t.rooms = s.rooms)
    (hhatch : t.shell.hatch = s.shell.hatch) : stillFlies t c = stillFlies s c := by
  unfold stillFlies roomOf
  rw [hlanes, hremote, hrooms, hhatch]

theorem endCloses_append : ∀ (cs ds : List Closing) (s : State), endCloses (cs ++ ds) s = endCloses ds (endCloses cs s)
  | [], _, _ => rfl
  | _ :: cs, ds, _ => endCloses_append cs ds _

/-- The ends of other mailboxes' closes leave this one. -/
theorem mbox_endCloses : ∀ {cs : List Closing}, (∀ x ∈ cs, x.mbox ≠ m) → ∀ s : State, mbox (endCloses cs s) m = mbox s m
  | [], _, _ => rfl
  | c :: cs, h, s => by
    rw [endCloses, mbox_endCloses (fun x hx => h x (List.mem_cons_of_mem _ hx))]
    split
    · rfl
    · exact mbox_respond_ne (h c (List.mem_cons_self ..)).symm ..

theorem stillFlies_endCloses (cs : List Closing) (c : Closing) (s : State) : stillFlies (endCloses cs s) c = stillFlies s c := by
  have hleaves : changesOnly (· ∈ ([.store, .mboxes, .requests, .messages] : List Part)) s (endCloses cs s) := by
    apply endCloses_only (h := only_refl) <;> decide
  obtain ⟨own, clearing, hstore⟩ := endCloses_store cs s
  exact stillFlies_congr c (by rw [hstore]) (by rw [hstore]) (hleaves.rooms (by decide)) (hleaves.shell_hatch (by decide))

theorem endCloses_flies {c : Closing} (h : stillFlies s c = true) : endCloses [c] s = s := if_pos h

/-- A close whose accesses have all landed is answered, and its granules go to clearing. -/
theorem endCloses_lands {c : Closing} (h : stillFlies s c = false) : endCloses [c] s = respond c.mbox 0 [] { s with
    store := startClearing c.granules s.store, steward := { s.steward with closes := s.steward.closes.filter fun x => x != c } } :=
  if_neg (by rw [h]; exact Bool.false_ne_true)

section
variable {img : Option Image} {gs : List Nat} {rs : List (Nat × Nat)} {p : Nat × Window → Bool}

/-- The state in which a close has begun and nothing has been waited for. -/
def begunClose (m : Nat) (img : Option Image) (gs : List Nat) (rs : List (Nat × Nat)) (p : Nat × Window → Bool) (s : State) : State :=
  await m (modSteward (fun x => { x with
      closes := x.closes ++ [inFlightOn s m img gs rs (s.store.windows.filter p)], images := x.images.filter fun y => img.all fun i => y.handle != i.handle })
    (modStore (fun st =>
      let w : Store := { st with windows := st.windows.filter fun e => !p e }
      match img with
      | some i => dropImage i w
      | none => w) s))

theorem beginClose_eq : beginClose m img gs rs p s = landCloses (begunClose m img gs rs p s) := rfl

theorem begunClose_store : (begunClose m img gs rs p s).store.windows = (s.store.windows.filter fun e => !p e) ∧
    (begunClose m img gs rs p s).store.mem = s.store.mem ∧ (begunClose m img gs rs p s).store.lanes = s.store.lanes ∧
    (begunClose m img gs rs p s).store.remote = s.store.remote := by
  cases img <;> exact ⟨rfl, rfl, rfl, rfl⟩

/-- What the close waits for is still in flight after the closes before it have ended just where it was when the close began. -/
theorem stillFlies_begunClose : stillFlies (endCloses s.steward.closes (begunClose m img gs rs p s)) (inFlightOn s m img gs rs (s.store.windows.filter p)) =
    stillFlies s (inFlightOn s m img gs rs []) := by
  obtain ⟨-, -, hlanes, hremote⟩ := begunClose_store (m := m) (img := img) (gs := gs) (rs := rs) (p := p) (s := s)
  rw [stillFlies_endCloses, stillFlies_congr _ hlanes hremote rfl rfl]
  rfl

theorem beginClose_last : beginClose m img gs rs p s =
    endCloses [inFlightOn s m img gs rs (s.store.windows.filter p)] (endCloses s.steward.closes (begunClose m img gs rs p s)) := by
  rw [beginClose_eq, landCloses, ← endCloses_append]
  rfl

@[simp] theorem beginClose_bytes : (beginClose m img gs rs p s).store.mem = s.store.mem := by
  obtain ⟨-, hmem, -⟩ := begunClose_store (m := m) (img := img) (gs := gs) (rs := rs) (p := p) (s := s)
  rw [beginClose_eq, landCloses_bytes, hmem]

theorem beginClose_windows : (beginClose m img gs rs p s).store.windows = s.store.windows.filter fun e => !p e := by
  obtain ⟨own, clearing, hstore⟩ := landCloses_store (begunClose m img gs rs p s)
  obtain ⟨hwindows, -⟩ := begunClose_store (m := m) (img := img) (gs := gs) (rs := rs) (p := p) (s := s)
  rw [beginClose_eq, hstore, hwindows]

theorem beginClose_images : (beginClose m img gs rs p s).steward.images = s.steward.images.filter fun y => img.all fun i => y.handle != i.handle := by
  have hleaves : changesOnly (· ∈ ([.store, .mboxes, .requests, .messages] : List Part)) (begunClose m img gs rs p s) (beginClose m img gs rs p s) :=
    landCloses_only (by decide) (by decide) (by decide) (by decide) only_refl
  exact hleaves.steward_images (by decide)

section
variable (hex : Executes s s m w) (hothers : ∀ x ∈ s.steward.closes, x.mbox ≠ m)
include hex hothers

theorem beginClose_waits (hflies : stillFlies s (inFlightOn s m img gs rs []) = true) : waits (beginClose m img gs rs p s) m w := by
  rw [beginClose_last, endCloses_flies (stillFlies_begunClose.trans hflies), waits, mbox_endCloses hothers]
  exact (hex.of_mboxes rfl).waits

theorem beginClose_answers (hlanded : stillFlies s (inFlightOn s m img gs rs []) = false) : answered s (beginClose m img gs rs p s) m w 0 [] ∧
    ∀ g ∈ gs, tabGet (beginClose m img gs rs p s).store.ownReset (beginClose m img gs rs p s).store.own g = ownMake 3 0 ∧
      g ∈ (beginClose m img gs rs p s).store.clearing := by
  rw [beginClose_last, endCloses_lands (stillFlies_begunClose.trans hlanded)]
  have hbegun : Executes s (begunClose m img gs rs p s) m w := Executes.await (hex.of_mboxes rfl)
  refine ⟨(hbegun.of_mbox (mbox_endCloses hothers _)).answered_of_mboxes rfl, fun g hg => ?_⟩
  · rw [respond_store]
    exact ⟨startClearing_own hg _, mem_startClearing (.inr hg)⟩

end

end

/-! GRANULE_ALLOC and GRANULE_FREE. -/

theorem tryAlloc_gives (hctx : ctxRefusal s (wfld w 8 2) = none) (hcheck : allocCheck s w = some 0) :
    tryAlloc m w s = respond m 0 [] (modStore (giveGranules (wfld w 8 2) (wfld w 0x18 1) (cmdGranules w)) s) := by
  simp only [tryAlloc, hctx, hcheck]

theorem tryAlloc_waits (hctx : ctxRefusal s (wfld w 8 2) = none) (hcheck : allocCheck s w = none) : tryAlloc m w s = await m s := by
  simp only [tryAlloc, hctx, hcheck]

theorem granuleAlloc_gives (hreq : requested s m w 0x28) (hctx : ctxRefusal s (wfld w 8 2) = none) (hcheck : allocCheck s w = some 0) :
    answers (.granuleAlloc m w) s fun u => answered s u m w 0 [] ∧ u.store.mem = s.store.mem ∧
      ∀ g ∈ cmdGranules w, tabGet u.store.ownReset u.store.own g = ownMake (wfld w 0x18 1) (wfld w 8 2) := by
  refine answers_request hreq rfl ?_
  rw [tryAlloc_gives hctx hcheck]
  refine ⟨(executes_of_requested hreq).answered_of_mboxes rfl, ?_, fun g hg => ?_⟩ <;> rw [respond_store, modStore_store]
  · exact giveGranules_mem ..
  · exact giveGranules_own hg ..

theorem granuleAlloc_waits (hreq : requested s m w 0x28) (hctx : ctxRefusal s (wfld w 8 2) = none) (hcheck : allocCheck s w = none) :
    answers (.granuleAlloc m w) s fun u => waits u m w ∧ u.store = s.store := by
  refine answers_request hreq rfl ?_
  rw [tryAlloc_waits hctx hcheck]
  exact ⟨(executes_of_requested hreq).waits, rfl⟩

/-- What GRANULE_FREE closes: every window over one of the granules. -/
theorem granuleFreeEff_closes (hctx : ctxRefusal s (wfld w 8 2) = none) (hmapped : rangeUnmapped s (wfld w 0x0C 8) (65536 * wfld w 0x14 4) = false)
    (hfree : ∀ g ∈ cmdGranules w, inReserve s.params g = false ∧ ownedBy s.store (wfld w 8 2) g = true ∧ heldByImage s g = false) :
    granuleFreeEff s m w =
      beginClose m none (cmdGranules w) ((cmdGranules w).map fun g => (g * 65536, 65536)) (fun e => (cmdGranules w).any (windowOn e.2)) s := by
  have hany : ((cmdGranules w).any fun g => inReserve s.params g || !ownedBy s.store (wfld w 8 2) g || heldByImage s g) = false := by
    refine List.any_eq_false.2 fun g hg => ?_
    obtain ⟨hreserve, howned, hheld⟩ := hfree g hg
    simp [hreserve, howned, hheld]
  simp only [granuleFreeEff, hctx, hmapped, hany]
  rfl

/-! WINDOW_OPEN and WINDOW_CLOSE. -/

theorem windowOpenEff_opens {k : Nat} (hctx : ctxRefusal s (wfld w 8 2) = none) (hok : windowOk s (wfld w 8 2) w = true) (hfree : freeWindow s = some k) :
    windowOpenEff s m w =
      respond m 0 [(8, 4, k)] (modStore (fun st => { st with windows := tabPut windowZero st.windows k (newWindow (wfld w 8 2) w) }) s) := by
  simp only [windowOpenEff, hctx, hok, hfree]
  rfl

theorem windowOpen_opens {k : Nat} (hreq : requested s m w 0x2A) (hctx : ctxRefusal s (wfld w 8 2) = none) (hok : windowOk s (wfld w 8 2) w = true)
    (hfree : freeWindow s = some k) : answers (.windowOpen m w) s fun u => answered s u m w 0 [(8, 4, k)] ∧
      tabGet windowZero u.store.windows k = newWindow (wfld w 8 2) w ∧ u.store.mem = s.store.mem ∧
      ∀ j, j ≠ k → tabGet windowZero u.store.windows j = tabGet windowZero s.store.windows j := by
  refine answers_request hreq rfl ?_
  rw [windowOpenEff_opens hctx hok hfree]
  refine ⟨(executes_of_requested hreq).answered_of_mboxes rfl, ?_, ?_, fun j hj => ?_⟩ <;> rw [respond_store, modStore_store]
  · rw [tabGet_put, if_pos rfl]
  · rw [tabGet_put, if_neg hj.symm]

theorem windowCloseEff_closes {x : Window} (hctx : ctxRefusal s (wfld w 8 2) = none) (hx : x = tabGet windowZero s.store.windows (wfld w 0x0C 4))
    (hopened : x.opened = true) (howner : x.owner = wfld w 8 2 ∨ (mbox s m).exBinding = 2) :
    windowCloseEff s m w = beginClose m none [] [(x.base, x.limit - x.base)] (fun e => e.1 == wfld w 0x0C 4) s := by
  subst hx
  simp only [windowCloseEff, hctx]
  exact if_pos ⟨hopened, howner⟩

/-! STORE_COPY. -/

section
variable {bytes : List Byte} (hctx : ctxRefusal s (wfld w 8 2) = none) (haperture : inAperture s (wfld w 8 2) (wfld w 0x14 8) (wfld w 0x1C 4) = true)
  (hmapped : rangeUnmapped s (wfld w 0x0C 8) (wfld w 0x1C 4) = false)
  (hadmitted : copyAdmitted s (wfld w 8 2) (wfld w 0x20 1 == 0) (wfld w 0x0C 8) (wfld w 0x1C 4) = true)
include hctx haperture hmapped hadmitted

theorem storeCopyEff_writes (hdir : (wfld w 0x20 1 == 0) = true) : storeCopyEff s m w (some bytes) = respond m 0 [(8, 4, wfld w 0x1C 4)]
    (scramble (if wfld w 8 2 = 0 then [] else racing s (wfld w 8 2) (wfld w 0x0C 8) (wfld w 0x1C 4))
      (modStore (fun st => writeWhole st (wfld w 0x0C 8) ((bytes ++ List.replicate (wfld w 0x1C 4) 0).take (wfld w 0x1C 4))) s)) := by
  rw [hdir] at hadmitted
  simp only [storeCopyEff, hctx, haperture, hmapped, hdir, hadmitted]
  rfl

theorem storeCopyEff_reads (hdir : (wfld w 0x20 1 == 0) = false) : storeCopyEff s m w (some bytes) =
    copyOut m (wfld w 0x14 8) (copyLines (linesOf (wfld w 0x0C 8) (wfld w 0x1C 4)) s).2.1 (copyLines (linesOf (wfld w 0x0C 8) (wfld w 0x1C 4)) s).2.2
      (copyLines (linesOf (wfld w 0x0C 8) (wfld w 0x1C 4)) s).1 := by
  rw [hdir] at hadmitted
  simp only [storeCopyEff, hctx, haperture, hmapped, hdir, hadmitted]
  rfl

end

/-- With no task of the context launched, no copy into the store races with one. -/
theorem racing_idle {c : Nat} (h : ∀ t ∈ s.steward.tasks, t.ctx = c → t.state ≠ .launched) (a n : Nat) : racing s c a n = [] := by
  have hnone : (s.steward.tasks.filter fun t => t.ctx == c && t.state == .launched) = [] :=
    List.filter_eq_nil_iff.2 fun t ht => by simpa using h t ht
  rw [racing, hnone]
  rfl

theorem copyLine_bytes (l : Nat) (s : State) : (copyLine l s).1.store.mem = s.store.mem := by
  unfold copyLine
  split
  · rfl
  · exact (congrArg Store.mem (putStore_store ..)).trans (readLine_mem ..)

theorem blameBank_store (code line : Nat) (s : State) : (blameBank code line s).store = s.store :=
  (blameBank_only (P := (· ∈ ([.healthSt, .intStatus, .messages, .health] : List Part))) (by decide) (by decide) (by decide) (by decide) code line
    only_refl).store (by decide)

/-- A copy out of the store changes no byte of it. -/
theorem copyLines_bytes : ∀ (ls : List Nat) (s : State), (copyLines ls s).1.store.mem = s.store.mem
  | [], _ => rfl
  | l :: ls, s => by
    rw [copyLines]
    dsimp only
    split
    · exact (copyLines_bytes ls _).trans (copyLine_bytes l s)
    · rw [blameBank_store, copyLine_bytes]

theorem copyLines_leaves (ls : List Nat) (s : State) :
    changesOnly (· ∈ ([.freeCtr, .store, .healthSt, .intStatus, .messages, .health] : List Part)) s (copyLines ls s).1 := by
  apply copyLines_only (h := only_refl) <;> decide

/-- The state in which a copy to the host waits for the writes of its bytes. -/
def copyBegun (m k : Nat) (line : Option Nat) (s : State) : State :=
  await m { s with steward := { s.steward with copies := s.steward.copies ++ [⟨m, k, 0, false, line⟩] } }

theorem copyOut_writes {bs : List Byte} (hk : (bs.length + 4095) / 4096 ≠ 0) (h : Nat) (line : Option Nat) (s : State) :
    copyOut m h bs line s = hostWrites m ((bs.length + 4095) / 4096) h bs (copyBegun m ((bs.length + 4095) / 4096) line s) := if_neg hk

theorem copyOut_empty {bs : List Byte} (hk : (bs.length + 4095) / 4096 = 0) (h : Nat) (line : Option Nat) (s : State) :
    copyOut m h bs line s = endCopy ⟨m, 0, 0, false, line⟩ s := if_pos hk

theorem hostWrites_leaves (m k a : Nat) (bs : List Byte) (s : State) : changesOnly (· ∈ ([.requests, .messages] : List Part)) s (hostWrites m k a bs s) := by
  apply hostWrites_only (h := only_refl) <;> decide

theorem endCopy_whole (m : Nat) (s : State) : endCopy ⟨m, 0, 0, false, none⟩ s = respond m 0 [(8, 4, 0)] s := rfl

theorem endCopy_stopped (m l : Nat) (s : State) : endCopy ⟨m, 0, 0, false, some l⟩ s = respond m 0x010C [(8, 4, 0), (0x0C, 8, l * 64)] s := rfl

theorem copyOut_bytes (m h : Nat) (bs : List Byte) (line : Option Nat) (s : State) : (copyOut m h bs line s).store.mem = s.store.mem := by
  by_cases hk : (bs.length + 4095) / 4096 = 0
  · rw [copyOut_empty hk]
    cases line with
    | none => rw [endCopy_whole, respond_store]
    | some l => rw [endCopy_stopped, respond_store]
  · rw [copyOut_writes hk, (hostWrites_leaves ..).store (by decide)]
    rfl

/-- What a copy to the host makes of its mailbox and of the copies under way. -/
theorem copyOut_goesOn (hex : Executes s t m w) (h : Nat) (bs : List Byte) (line : Option Nat) :
    ((bs.length + 4095) / 4096 ≠ 0 → waits (copyOut m h bs line t) m w ∧
      (copyOut m h bs line t).steward.copies = t.steward.copies ++ [⟨m, (bs.length + 4095) / 4096, 0, false, line⟩]) ∧
    ((bs.length + 4095) / 4096 = 0 → line = none → answered s (copyOut m h bs line t) m w 0 [(8, 4, 0)]) ∧
    ((bs.length + 4095) / 4096 = 0 → ∀ l, line = some l → answered s (copyOut m h bs line t) m w 0x010C [(8, 4, 0), (0x0C, 8, l * 64)]) := by
  refine ⟨fun hk => ?_, fun hk hline => ?_, fun hk l hline => ?_⟩
  · have hleaves := hostWrites_leaves m ((bs.length + 4095) / 4096) h bs (copyBegun m ((bs.length + 4095) / 4096) line t)
    rw [copyOut_writes hk, waits, mbox_of_mboxes (hleaves.steward_mboxes (by decide)), hleaves.steward_copies (by decide)]
    exact ⟨(hex.of_mboxes rfl).waits, rfl⟩
  · rw [copyOut_empty hk, hline, endCopy_whole]
    exact hex.answered ..
  · rw [copyOut_empty hk, hline, endCopy_stopped]
    exact hex.answered ..

end

/-- Settles O22: an allocation, an opening and a copy are read at the store they leave; a free and a close are one close of windows. -/
theorem storeRequestsComplete : Obligations.StoreRequestsComplete := by
  rintro s m w _ _ rfl rfl hctx
  refine ⟨fun hreq => ⟨granuleAlloc_gives hreq hctx, granuleAlloc_waits hreq hctx⟩, fun hreq hmapped hfree hothers rs k hrs hk => ?_,
    fun hreq hok k hfree => windowOpen_opens hreq hctx hok hfree, fun hreq k x y hk hx hopened howner hothers hy => ?_,
    fun hreq bytes n toStore hn hdir haperture hmapped hadmitted => ?_⟩
  · subst hrs hk
    have hex := executes_of_requested hreq
    refine ⟨fun hlanded => answers_request hreq rfl ?_, fun hflies => answers_request hreq rfl ?_⟩ <;> rw [granuleFreeEff_closes hctx hmapped hfree]
    · obtain ⟨hanswered, hcleared⟩ := beginClose_answers (p := fun e => (cmdGranules w).any (windowOn e.2)) hex hothers hlanded
      exact ⟨hanswered, beginClose_bytes, hcleared⟩
    · exact ⟨beginClose_waits hex hothers hflies, beginClose_bytes⟩
  · subst hk hy
    have hex := executes_of_requested hreq
    refine answers_request hreq rfl ?_
    rw [windowCloseEff_closes hctx hx hopened howner, beginClose_windows]
    refine ⟨tabGet_filter_out _ _ _ _ fun v => by simp, beginClose_bytes, fun j hj => tabGet_filter_of _ _ _ _ fun v => by simp [hj],
      fun hlanded => (beginClose_answers hex hothers hlanded).1, beginClose_waits hex hothers⟩
  · subst hn hdir
    have hex := executes_of_requested hreq
    refine answers_request hreq rfl ⟨fun hdir hidle => ?_, fun hdir => ?_⟩
    · rw [storeCopyEff_writes hctx haperture hmapped hadmitted hdir, racing_idle hidle, ite_self]
      generalize hbs : (bytes ++ List.replicate (wfld w 0x1C 4) 0).take (wfld w 0x1C 4) = bs
      have hlen : bs.length = wfld w 0x1C 4 := by simp [← hbs]
      refine ⟨hex.answered_of_mboxes rfl, ?_, fun b hb => ?_⟩
      · rw [respond_store, ← hlen]
        exact memBytes_writeWhole ..
      · rw [storeByte, respond_store]
        exact (writeWhole_keeps ..).bytes b (by rwa [hlen])
    · have hleaves := copyLines_leaves (linesOf (wfld w 0x0C 8) (wfld w 0x1C 4)) s
      rw [storeCopyEff_reads hctx haperture hmapped hadmitted hdir, copyOut_bytes, copyLines_bytes]
      refine ⟨rfl, ?_⟩
      rintro _ _ rfl rfl
      rw [← hleaves.steward_copies (by decide)]
      exact copyOut_goesOn (hex.of_mboxes (hleaves.steward_mboxes (by decide))) ..

end Sys2Proof.Machine

/-!
Requests on images (10 R314, 09 R287 to R289, 04 R578): a load, its rejection and its wait; an unload; the state blocks of points set anew.
-/
namespace Sys2Proof.Machine

section
variable {s : State} {m : Nat} {w : MsgWord} {bs : List Byte}

/-! IMAGE_LOAD. -/

/-- The placement of a load adds one image, with the next handle and no launch yet (13 R406). -/
theorem placeImage_adds (c : Nat) (bs : List Byte) (plan : List CopyRec) (prior : List Nat) (s : State) :
    ∃ i, (placeImage c bs plan prior s).steward.images = s.steward.images ++ [i] ∧ i.handle = s.steward.nextImage ∧ i.ctx = c ∧
      i.imageId = pfld bs 0x30 8 ∧ i.launches = 0 := by
  unfold placeImage
  dsimp only [modSteward]
  refine ⟨_, congrArg (· ++ [_]) (changesOnly.steward_images (P := (· ≠ .images)) ?_ (by simp)), rfl, rfl, rfl, rfl⟩
  apply buildCopies_only
  case h =>
    apply openWindows_only (by simp)
    exact modStore_only (by simp) _ only_refl
  all_goals simp

theorem placeImage_leaves (c : Nat) (bs : List Byte) (plan : List CopyRec) (prior : List Nat) (s : State) :
    changesOnly (· ∈ ([.store, .healthSt, .images, .intStatus, .messages, .health] : List Part)) s (placeImage c bs plan prior s) := by
  apply placeImage_only (h := only_refl) <;> decide

/-- The granules that the mailbox's load has claimed before. -/
def claimedBefore (s : State) (m : Nat) : List Nat := (s.steward.loads.filter fun l => l.mbox == m).flatMap (·.granules)

theorem imageLoadEff_tries {raw : List Byte} (hctx : ctxRefusal s (wfld w 8 2) = none) (haperture : inAperture s (wfld w 8 2) (wfld w 0x0C 8) (wfld w 0x14 8) = true) :
    imageLoadEff s m w (some raw) = tryLoad m (wfld w 8 2) (wfld w 0x14 8) (raw.take (wfld w 0x14 8)) s := by
  simp only [imageLoadEff, hctx, haperture]
  rfl

section
variable {c n : Nat}

theorem loadClaim_mboxes (m c : Nat) (bs : List Byte) (prior : List Nat) (s : State) :
    (loadClaim m c bs prior s).steward.mboxes = (await m s).steward.mboxes := rfl

theorem tryLoad_places {plan : List CopyRec} (hplan : loadPlan s c bs n = .inr plan) (hclear : loadWaits s bs = false) : tryLoad m c n bs s =
    respond m 0 [(8, 4, s.steward.nextImage)] (endLoad m (forgetRounds (pfld bs 0x30 8) (placeImage c bs plan (claimedBefore s m) s))) := by
  simp only [tryLoad, hplan, hclear]
  rfl

theorem tryLoad_waits {plan : List CopyRec} (hplan : loadPlan s c bs n = .inr plan) (hclearing : loadWaits s bs = true) :
    tryLoad m c n bs s = loadClaim m c bs (claimedBefore s m) s := by
  simp only [tryLoad, hplan, hclearing]
  rfl

theorem tryLoad_rejects {r : Reject} (hplan : loadPlan s c bs n = .inl r) : tryLoad m c n bs s = answerReject m r (undoLoad m s) := by
  simp only [tryLoad, hplan]

theorem tryLoad_answers {plan : List CopyRec} (hex : Executes s s m w) (hplan : loadPlan s c bs n = .inr plan) (hclear : loadWaits s bs = false) :
    answered s (tryLoad m c n bs s) m w 0 [(8, 4, s.steward.nextImage)] ∧ (tryLoad m c n bs s).steward.nextImage = s.steward.nextImage + 1 ∧
      ∃ i, (tryLoad m c n bs s).steward.images = s.steward.images ++ [i] ∧ i.handle = s.steward.nextImage ∧ i.ctx = c ∧
        i.imageId = pfld bs 0x30 8 ∧ i.launches = 0 := by
  rw [tryLoad_places hplan hclear, (respond_leaves ..).steward_nextImage (by decide), (respond_leaves ..).steward_images (by decide)]
  refine ⟨hex.answered_of_mboxes ?_, rfl, placeImage_adds ..⟩
  exact (placeImage_leaves c bs plan (claimedBefore s m) s).steward_mboxes (by decide)

theorem tryLoad_claims {plan : List CopyRec} (hex : Executes s s m w) (hplan : loadPlan s c bs n = .inr plan) (hclearing : loadWaits s bs = true) :
    waits (tryLoad m c n bs s) m w ∧ (tryLoad m c n bs s).steward.images = s.steward.images ∧ (tryLoad m c n bs s).store.mem = s.store.mem := by
  rw [tryLoad_waits hplan hclearing]
  refine ⟨?_, rfl, setOwnsBy_mem ..⟩
  rw [waits, mbox_of_mboxes (loadClaim_mboxes ..)]
  exact hex.waits

theorem tryLoad_refuses {r : Reject} (hex : Executes s s m w) (hplan : loadPlan s c bs n = .inl r) :
    answered s (tryLoad m c n bs s) m w r.code [(0x0C, 1, r.sec), (0x0D, 1, r.variant), (0x10, 4, r.record), (0x14, 2, r.room), (0x16, 2, r.op)] ∧
      (tryLoad m c n bs s).steward.images = s.steward.images ∧ (tryLoad m c n bs s).store.mem = s.store.mem := by
  rw [tryLoad_rejects hplan, answerReject, respond_steward_images, respond_store]
  exact ⟨hex.answered_of_mboxes rfl, rfl, startClearing_mem ..⟩

end

/-! IMAGE_UNLOAD. -/

theorem imageUnloadEff_begins {i : Image} (hctx : ctxRefusal s (wfld w 8 2) = none) (himage : imageIn s (wfld w 8 2) (wfld w 0x0C 4) = some i)
    (hidle : imageBusy s i = false) : imageUnloadEff s m w = beginUnload m i s := by
  simp only [imageUnloadEff, hctx, himage, hidle]
  rfl

/-- The image is gone, and so are its windows. -/
theorem beginUnload_removes (m : Nat) (i : Image) (s : State) : (∀ j ∈ (beginUnload m i s).steward.images, j.handle ≠ i.handle) ∧
    (∀ e ∈ (beginUnload m i s).store.windows, e.1 ∉ imageWindows i) ∧ (beginUnload m i s).store.mem = s.store.mem := by
  rw [beginUnload, beginClose_images, beginClose_windows]
  refine ⟨fun j hj => ?_, fun e he => ?_, beginClose_bytes⟩
  · simpa using List.of_mem_filter hj
  · have hout := List.of_mem_filter he
    simp only [Bool.not_eq_true', Bool.or_eq_false_iff] at hout
    simpa using hout.1

/-! QSTATE_RESET. -/

theorem qstateResetEff_resets {i : Image} {bl : List InitBlock} (hctx : ctxRefusal s (wfld w 8 2) = none)
    (himage : imageIn s (wfld w 8 2) (wfld w 0x0C 4) = some i) (hbl : bl = i.blocks.filter fun b => wfld w 0x10 2 == 0xFFFF || b.point == wfld w 0x10 2)
    (hsome : bl ≠ []) (hidle : ∀ b ∈ bl, blockBusy s b.addr = false) : qstateResetEff s m w = respond m 0 [] (modStore (resetBlocks bl) s) := by
  have hbusy : (bl.any fun b => blockBusy s b.addr) = false := by simpa using hidle
  simp only [qstateResetEff, hctx, himage, ← hbl, hbusy]
  simp [hsome]

/-- Bytes outside the blocks stand. -/
theorem resetBlocks_byte : ∀ (bl : List InitBlock) (st : Store) (a : Nat), outside (bl.map fun b => (b.addr, (resetBlock b.bytes).length)) a →
    tabGet 0 (resetBlocks bl st).mem a = tabGet 0 st.mem a
  | [], _, _, _ => rfl
  | b :: bl, st, a, h => by
    have hrest : outside (bl.map fun b => (b.addr, (resetBlock b.bytes).length)) a := fun r hr => h r (List.mem_cons_of_mem _ hr)
    have hblock : outside [(b.addr, (resetBlock b.bytes).length)] a := fun r hr => h r (by rw [List.mem_singleton.1 hr]; exact List.mem_cons_self ..)
    rw [resetBlocks, resetBlocks_byte bl _ a hrest]
    exact (writeWhole_keeps ..).bytes a hblock

end

/-- Settles O21: a load is placed, waits or is rejected as its checks say; an unload is a close of the image's windows; a reset writes its blocks alone. -/
theorem imageRequestsComplete : Obligations.ImageRequestsComplete := by
  rintro s m w _ rfl hctx
  refine ⟨fun hreq raw bs hbs haperture => ?_, fun hreq i himage hidle ws k hws hk hothers => ?_, fun hreq i p bl himage hp hbl hsome hidle => ?_⟩
  · subst hbs
    have hex := executes_of_requested hreq
    refine ⟨fun plan hplan => ⟨fun hclear => ?_, fun hclearing => ?_⟩, fun r hplan => ?_⟩ <;>
      refine answers_request hreq rfl ?_ <;> rw [imageLoadEff_tries hctx haperture]
    · exact tryLoad_answers hex hplan hclear
    · exact tryLoad_claims hex hplan hclearing
    · exact tryLoad_refuses hex hplan
  · subst hws hk
    have hex := executes_of_requested hreq
    obtain ⟨himages, hwindows, hmem⟩ := beginUnload_removes m i s
    refine answers_request hreq rfl ?_
    rw [imageUnloadEff_begins hctx himage hidle]
    refine ⟨himages, hwindows, hmem, fun hlanded => ?_, beginClose_waits hex hothers⟩
    obtain ⟨hanswered, hcleared⟩ := beginClose_answers (p := fun e => (imageWindows i).contains e.1 || (imageGranules i).any (windowOn e.2)) hex hothers hlanded
    exact ⟨hanswered, fun g hg => (hcleared g (List.mem_append_left _ hg)).2⟩
  · subst hp
    refine answers_request hreq rfl ?_
    rw [qstateResetEff_resets hctx himage hbl hsome hidle]
    refine ⟨(executes_of_requested hreq).answered_of_mboxes rfl, fun a ha => ?_, fun b hb => ?_⟩
    · rw [storeByte, respond_store]
      exact resetBlocks_byte bl _ a ha
    · rw [respond_store, hb]
      exact memBytes_writeWhole ..

end Sys2Proof.Machine

/-!
What contexts, queues, fences and tasks read after the shared operations of the steward (11 R324 to R345).
-/
namespace Sys2Proof.Machine

section
variable {s t u v : State} {c d f k m n q : Nat} {x : Queue} {P : Part → Prop}

/-! Reads of the steward's tables. -/

theorem ctxOf_of_ctxs (h : u.steward.ctxs = s.steward.ctxs) (c : Nat) : ctxOf u c = ctxOf s c := by rw [ctxOf, h, ctxOf]

theorem queueOf_of_queues (h : u.steward.queues = s.steward.queues) (q : Nat) : queueOf u q = queueOf s q := by rw [queueOf, h, queueOf]

theorem fenceOf_of_fences (h : u.steward.fences = s.steward.fences) (f : Nat) : fenceOf u f = fenceOf s f := by rw [fenceOf, h, fenceOf]

theorem taskOf_num {t : Task} (h : taskOf s n = some t) : t.num = n := by simpa using List.find?_some h

theorem queueOf_id (h : queueOf s q = some x) : x.id = q := by simpa using List.find?_some h

/-- What a change of queue `m` that keeps its number leaves of queue `q`. -/
theorem queueOf_modQueue {g : Queue → Queue} (hg : ∀ x, (g x).id = x.id) : queueOf (modQueue m g s) q = (queueOf s q).map fun x => if x.id = m then g x else x := by
  have hid : (fun x : Queue => x.id == q) ∘ (fun x => if x.id = m then g x else x) = fun x => x.id == q := by
    funext x
    simp only [Function.comp]
    split
    · rw [hg]
    · rfl
  simp only [queueOf, modQueue, List.find?_map, hid]

theorem queueOf_modQueue_same {g : Queue → Queue} (hg : ∀ x, (g x).id = x.id) (h : queueOf s q = some x) : queueOf (modQueue q g s) q = some (g x) := by
  rw [queueOf_modQueue hg, h, Option.map_some, if_pos (queueOf_id h)]

theorem queueOf_modQueue_ne {g : Queue → Queue} (hg : ∀ x, (g x).id = x.id) (hq : q ≠ m) : queueOf (modQueue m g s) q = queueOf s q := by
  rw [queueOf_modQueue hg]
  rcases h : queueOf s q with _ | x
  · rfl
  · rw [Option.map_some, if_neg fun hm => hq ((queueOf_id h).symm.trans hm)]

theorem ctxOf_modCtx_ne {g : Ctx → Ctx} (hk : k ≠ c) : ctxOf (modCtx c g s) k = ctxOf s k := by
  unfold modCtx
  split
  · rfl
  · simp only [ctxOf, tabGet_mod, if_neg (Ne.symm hk)]

/-! A context fault (11 R325). -/

/-- A status line that is written changes no context and no queue. -/
theorem putStatusAll_leaves (qs : List Nat) (s : State) : changesOnly (· ∈ ([.requests, .messages, .porch] : List Part)) s (putStatusAll qs s) :=
  putStatusAll_only (by decide) (by decide) (by decide) qs only_refl

theorem ctxFault_raises {code addr : Nat} (hok : (ctxOf s c).state = 0) (hc : c ≠ 0) :
    ctxOf (ctxFault c code q addr s) c = { ctxOf s c with state := 1, fault := code, faultQueue := q, faultAddr := addr } := by
  rw [ctxFault, if_pos ⟨hok, hc⟩, ctxOf_of_ctxs ((putStatusAll_leaves ..).steward_ctxs (by decide))]
  exact ctxOf_modCtx hc _ s

/-- A fault of a queue's context at its next descriptor, after a change outside the contexts (11 R334). -/
theorem ctxFaulted_ctxFault {code : Nat} (hx : queueOf s q = some x) (hctxs : v.steward.ctxs = s.steward.ctxs) :
    ctxFaulted s (ctxFault x.ctx code q x.nextDesc v) x code := by
  intro hok hc
  rw [← ctxOf_of_ctxs hctxs] at hok
  rw [ctxFault_raises hok hc]
  exact ⟨rfl, rfl, (queueOf_id hx).symm, rfl⟩

/-- What a context fault leaves of a queue: it may stop, with the fault. -/
structure Stopped (x y : Queue) : Prop where
  fetching : y.fetching = x.fetching
  consumed : y.consumed = x.consumed

theorem queueOf_ctxFault {code addr : Nat} (p : Nat) (h : queueOf s q = some x) : ∃ y, queueOf (ctxFault c code p addr s) q = some y ∧ Stopped x y := by
  unfold ctxFault
  split
  · rw [queueOf_of_queues ((putStatusAll_leaves ..).steward_queues (by decide))]
    have hid : (fun x : Queue => x.id == q) ∘ (fun x => if x.ctx = c then (if x.id = p then { x with state := 1, fault := code, faultAddr := addr } else
        { x with state := 2 }) else x) = fun x => x.id == q := by
      funext x
      simp only [Function.comp]
      split_ifs <;> rfl
    rw [queueOf] at h
    simp only [queueOf, modCtx_steward_queues, List.find?_map, hid, h, Option.map_some]
    refine ⟨_, rfl, ?_⟩
    split_ifs <;> exact ⟨rfl, rfl⟩
  · exact ⟨x, h, rfl, rfl⟩

/-! Fences (11 R336, R337). -/

theorem setFence_unchanged {sig : Bool} (h : (fenceOf s f).ctx = none ∨ (fenceOf s f).signalled = sig) : setFence f sig s = s :=
  if_pos (by simpa using h)

/-- A change of a fence is in its entry alone: the mirror and the tasks that follow it are no fences. -/
theorem setFence_fences {sig : Bool} (hctx : (fenceOf s f).ctx ≠ none) (hsig : (fenceOf s f).signalled ≠ sig) : (setFence f sig s).steward.fences =
    tabPut fenceZero s.steward.fences f { fenceOf s f with signalled := sig, gen := if sig then ((fenceOf s f).gen + 1) % 2 ^ 32 else (fenceOf s f).gen } := by
  rw [setFence, if_neg (by simpa using not_or.2 ⟨hctx, hsig⟩)]
  dsimp only
  rw [(promote_leaves ..).steward_fences (by decide), (putMirror_leaves ..).steward_fences (by decide)]

theorem fenceOf_setFence_same (sig : Bool) (hctx : (fenceOf s f).ctx ≠ none) : fenceOf (setFence f sig s) f = { fenceOf s f with
    signalled := sig, gen := if sig = true ∧ (fenceOf s f).signalled = false then ((fenceOf s f).gen + 1) % 2 ^ 32 else (fenceOf s f).gen } := by
  by_cases hsig : (fenceOf s f).signalled = sig
  · rw [setFence_unchanged (.inr hsig), ← hsig, if_neg (by simp)]
  · rw [fenceOf, setFence_fences hctx hsig, tabGet_put, if_pos rfl]
    have hgen : (sig = true ∧ (fenceOf s f).signalled = false) ↔ sig = true := and_iff_left_of_imp fun hon => by simpa [hon] using hsig
    simp only [hgen]

theorem fenceOf_setFence_ne (sig : Bool) (hk : k ≠ f) : fenceOf (setFence f sig s) k = fenceOf s k := by
  by_cases h : (fenceOf s f).ctx = none ∨ (fenceOf s f).signalled = sig
  · rw [setFence_unchanged h]
  · obtain ⟨hctx, hsig⟩ := not_or.1 h
    rw [fenceOf, setFence_fences hctx hsig, tabGet_put, if_neg (Ne.symm hk), fenceOf]

/-! Which tasks there are. -/

/-- What names each task and says what it runs (11 R339, R343): number, context, image, queue and arguments. -/
def taskNames (s : State) : List (Nat × Nat × Nat × Nat × List (BitVec 32)) := s.steward.tasks.map fun t => (t.num, t.ctx, t.image, t.queue, t.args)

/-- The tasks of `u` are those of `s`, whatever has become of them, and so is the number of the next. -/
structure SameTasks (s u : State) : Prop where
  names : taskNames u = taskNames s
  next  : u.steward.nextTask = s.steward.nextTask

theorem SameTasks.trans (h : SameTasks s t) (h' : SameTasks t u) : SameTasks s u := ⟨h'.names.trans h.names, h'.next.trans h.next⟩

theorem SameTasks.of_only (h : changesOnly P s u) (hp : ¬ P .tasks) : SameTasks s u := ⟨by rw [taskNames, h.steward_tasks hp, taskNames], h.steward_nextTask hp⟩

theorem sameTasks_modTask {g : Task → Task} (hg : ∀ t, ((g t).num, (g t).ctx, (g t).image, (g t).queue, (g t).args) = (t.num, t.ctx, t.image, t.queue, t.args)) :
    SameTasks s (modTask n g s) := by
  refine ⟨?_, rfl⟩
  simp only [taskNames, modTask, List.map_map]
  refine List.map_congr_left fun t _ => ?_
  simp only [Function.comp]
  split
  · exact hg t
  · rfl

theorem sameTasks_promoteQueue (q : Nat) (s : State) : SameTasks s (promoteQueue q s) := by
  fun_cases promoteQueue q s
  case case2 =>
    exact (SameTasks.mk rfl rfl : SameTasks s { s with steward := { s.steward with elig := s.steward.elig + 1 } }).trans (sameTasks_modTask (by exact fun _ => rfl))
  all_goals exact ⟨rfl, rfl⟩

theorem sameTasks_promoteList : ∀ (qs : List Nat) (s : State), SameTasks s (promoteList qs s)
  | [], _ => ⟨rfl, rfl⟩
  | q :: qs, s => (sameTasks_promoteQueue q s).trans (sameTasks_promoteList qs _)

theorem sameTasks_promote (s : State) : SameTasks s (promote s) := sameTasks_promoteList _ s

theorem sameTasks_tryRecord (q : Nat) (s : State) : SameTasks s (tryRecord q s) := by
  fun_cases tryRecord q s
  case case4 =>
    exact (sameTasks_modTask (by exact fun _ => rfl)).trans (.of_only (issueReq_leaves ..) (by decide))
  all_goals exact ⟨rfl, rfl⟩

theorem sameTasks_finishTask (n : Nat) (st : TState) (status : Nat) (s : State) : SameTasks s (finishTask n st status s) := by
  unfold finishTask
  split
  case h_1 => exact ⟨rfl, rfl⟩
  case h_2 t _ =>
    have hdone : SameTasks s (dropWork t.queue (.task n) (modTask n (fun t => { t with
        state := st, status := status, endBeat := upBeat s, halting := false, parked := false, record := .toWrite }) s)) :=
      (sameTasks_modTask (by exact fun _ => rfl)).trans ⟨rfl, rfl⟩
    dsimp only
    split
    · exact hdone
    · exact hdone.trans (sameTasks_tryRecord ..)

end

section
variable {s : State} {m n code : Nat} {x : Task} {fr : Option FaultRec} {repair : Bool}

/-! What a halt makes of tasks. -/

/-- A launched task that does not halt yet is marked, and messages to other members concern the fabric. -/
theorem haltWith_marks (hx : taskOf s n = some x) (hlaunched : x.state = .launched) (hruns : x.halting = false) :
    (haltWith n code fr repair s).steward.tasks = (haltQuiet n code fr repair s).steward.tasks := by
  simp only [haltWith, hx, hlaunched, ne_eq, not_true, if_false, hruns, Bool.false_eq_true]
  split_ifs
  · rfl
  · exact tellMembers_steward ..
  · exact sendMgmt_steward_tasks ..

theorem haltWith_counts (hx : taskOf s n = some x) (hlaunched : x.state = .launched) (hhalting : x.halting = true) : haltWith n code fr repair s =
    modTask n (fun t => { t with
      fault := t.fault.orElse (fun _ => fr), others := if fr.isSome && t.fault.isSome then satInc 255 t.others else t.others, repair := t.repair || repair }) s := by
  simp only [haltWith, hx, hlaunched, ne_eq, not_true, if_false, hhalting, if_true]

theorem haltWith_idle (hx : taskOf s n = some x) (hidle : x.state ≠ .launched) : haltWith n code fr repair s = s := by
  simp only [haltWith, hx, if_pos hidle]

theorem haltWith_unknown (hx : taskOf s n = none) : haltWith n code fr repair s = s := by
  simp only [haltWith, hx]

/-- Another task stands. -/
theorem taskOf_haltWith_ne (hm : m ≠ n) : taskOf (haltWith m code fr repair s) n = taskOf s n := by
  rcases hx : taskOf s m with _ | x
  · rw [haltWith_unknown hx]
  · by_cases hlaunched : x.state = .launched
    · rcases hhalting : x.halting
      · rw [taskOf_of_tasks (haltWith_marks hx hlaunched hhalting)]
        exact taskOf_modTask_ne hm (by exact fun _ => rfl)
      · rw [haltWith_counts hx hlaunched hhalting]
        exact taskOf_modTask_ne hm (by exact fun _ => rfl)
    · rw [haltWith_idle hx hlaunched]

theorem halts_haltWith (hx : taskOf s n = some x) (hlaunched : x.state = .launched) (hruns : x.halting = false) : halts (haltWith n code fr repair s) n code := by
  rw [halts, taskOf_of_tasks (haltWith_marks hx hlaunched hruns)]
  exact ⟨_, taskOf_modTask_same n _ (by exact fun _ => rfl) s x hx, hlaunched, rfl, rfl⟩

/-- The first fault or abort has fixed the status (11 R345). -/
theorem halts_haltWith_again {status : Nat} (m : Nat) (h : halts s n code) : halts (haltWith m status fr repair s) n code := by
  obtain ⟨v, hv, hlaunched, hhalting, hstatus⟩ := h
  by_cases hm : m = n
  · subst hm
    rw [haltWith_counts hv hlaunched hhalting]
    exact ⟨_, taskOf_modTask_same m _ (by exact fun _ => rfl) s v hv, hlaunched, hhalting, hstatus⟩
  · exact ⟨v, (taskOf_haltWith_ne hm).trans hv, hlaunched, hhalting, hstatus⟩

/-- A task that is not launched stands, whichever task is halted. -/
theorem taskOf_haltWith_idle (m : Nat) (hx : taskOf s n = some x) (hidle : x.state ≠ .launched) : taskOf (haltWith m code fr repair s) n = some x := by
  by_cases hm : m = n
  · rw [hm, haltWith_idle hx hidle, hx]
  · rw [taskOf_haltWith_ne hm, hx]

/-- A fault that this engine records halts a task like any other. -/
theorem haltTask_eq_haltWith (n code : Nat) (fr : Option FaultRec) (repair : Bool) (s : State) :
    ∃ fr', haltTask n code fr repair s = haltWith n code fr' repair s := by
  rcases hx : taskOf s n with _ | x
  · exact ⟨none, by simp only [haltTask, hx, haltWith]⟩
  · exact ⟨_, by simp only [haltTask, hx]; rfl⟩

theorem halts_haltTask (hx : taskOf s n = some x) (hlaunched : x.state = .launched) (hruns : x.halting = false) : halts (haltTask n code fr repair s) n code := by
  obtain ⟨fr', h⟩ := haltTask_eq_haltWith n code fr repair s
  rw [h]
  exact halts_haltWith hx hlaunched hruns

end

end Sys2Proof.Machine

/-!
Fences, launches and aborts as requests ask for them (11 R336 to R345).
-/
namespace Sys2Proof.Machine

section
variable {s t u v : State} {c d f k m n q : Nat} {w : MsgWord} {byDesc : Bool}

/-! FENCE_ALLOC, FENCE_FREE and FENCE_SIGNAL. -/

theorem fenceAllocEff_gives (hctx : ctxRefusal s (wfld w 8 2) = none) (hmirror : wfld w 0x0C 8 ≠ 0 → inAperture s (wfld w 8 2) (wfld w 0x0C 8) 64 = true)
    (hc : wfld w 8 2 ≠ 0) (hfree : freeFence s = some f) : fenceAllocEff s m w = respond m 0 [(8, 2, f)] (modSteward (fun x => { x with
      fences := tabPut fenceZero x.fences f ⟨some (wfld w 8 2), wfld w 0x14 1 == 1, wfld w 0x0C 8, 0⟩ }) s) := by
  have hinside : ¬ (wfld w 0x0C 8 ≠ 0 ∧ inAperture s (wfld w 8 2) (wfld w 0x0C 8) 64 = false) := fun ⟨ha, hout⟩ => by
    rw [hmirror ha] at hout
    cases hout
  simp only [fenceAllocEff, hctx, if_neg hinside, if_neg hc, hfree]

theorem fenceFreeEff_frees (hctx : ctxRefusal s (wfld w 8 2) = none) (hmine : fenceMine s (wfld w 8 2) (wfld w 0x0C 2) = true)
    (hidle : fenceNamed s (wfld w 8 2) (wfld w 0x0C 2) = false) : fenceFreeEff s m w = respond m 0 [] (modSteward (fun x => { x with
      fences := tabPut fenceZero x.fences (wfld w 0x0C 2) fenceZero
      tasks := x.tasks.map fun t => if t.sigFence = some (wfld w 0x0C 2) then { t with sigFence := none } else t }) s) := by
  simp [fenceFreeEff, hctx, hmine, hidle]

theorem fenceSignalEff_sets (hctx : ctxRefusal s (wfld w 8 2) = none) (hmine : fenceMine s (wfld w 8 2) (wfld w 0x0C 2) = true) :
    fenceSignalEff s m w = respond m 0 [] (setFence (wfld w 0x0C 2) (wfld w 0x0E 1 == 0) s) := by
  simp [fenceSignalEff, hctx, hmine]

/-- A fence of a context is as its entry says after an answer. -/
theorem fenceOf_respond (m status : Nat) (fs : List (Nat × Nat × Nat)) (s : State) (k : Nat) : fenceOf (respond m status fs s) k = fenceOf s k :=
  fenceOf_of_fences ((respond_leaves ..).steward_fences (by decide)) k

theorem fenceMine_iff : fenceMine s c f = true ↔ (fenceOf s f).ctx = some c := beq_iff_eq

/-! TASK_LAUNCH (10 R316, 11 R339). -/

/-- An accepted launch adds the task of the next number. -/
theorem acceptTask_adds (c : Nat) (byDesc : Bool) (w : MsgWord) (s : State) : (acceptTask c byDesc w s).steward.nextTask = s.steward.nextTask + 1 ∧
    (s.steward.nextTask, c, wfld w 0x0C 4, wfld w 0x10 2, (List.range 8).map fun k => BitVec.ofNat 32 (wfld w (0x1C + 4 * k) 4)) ∈
      taskNames (acceptTask c byDesc w s) := by
  have hsame : ∃ u, SameTasks u (acceptTask c byDesc w s) ∧ u.steward.nextTask = s.steward.nextTask + 1 ∧
      u.steward.tasks = s.steward.tasks ++ [newTask s s.steward.nextTask c byDesc w] := by
    unfold acceptTask
    dsimp only
    split
    · exact ⟨_, sameTasks_finishTask .., rfl, rfl⟩
    · exact ⟨_, sameTasks_promote _, rfl, rfl⟩
  obtain ⟨u, hu, hnext, htasks⟩ := hsame
  rw [hu.names, hu.next]
  refine ⟨hnext, ?_⟩
  rw [taskNames, htasks, List.map_append]
  exact List.mem_append_right _ (List.mem_singleton.2 rfl)

theorem mem_taskNames {x : Nat × Nat × Nat × Nat × List (BitVec 32)} (h : x ∈ taskNames s) :
    ∃ t ∈ s.steward.tasks, t.num = x.1 ∧ t.ctx = x.2.1 ∧ t.image = x.2.2.1 ∧ t.queue = x.2.2.2.1 ∧ t.args = x.2.2.2.2 := by
  obtain ⟨t, ht, rfl⟩ := List.mem_map.1 h
  exact ⟨t, ht, rfl, rfl, rfl, rfl, rfl⟩

theorem acceptTask_leaves (c : Nat) (byDesc : Bool) (w : MsgWord) (s : State) :
    changesOnly (· ∈ ([.queues, .images, .tasks, .requests, .messages] : List Part)) s (acceptTask c byDesc w s) := by
  apply acceptTask_only (h := only_refl) <;> decide

theorem taskLaunchEff_accepts (h : acceptRefusal s (wfld w 8 2) w = none) :
    taskLaunchEff s m w = respond m 0 [(8, 4, s.steward.nextTask)] (acceptTask (wfld w 8 2) false w s) := by
  simp only [taskLaunchEff, h]

/-! TASK_ABORT (11 R345). -/

section
variable {x : Task}

/-- A withdrawn round concerns the fabric alone. -/
theorem withdrawRound_leaves (x : Task) (code : Nat) (s : State) : changesOnly (· ∈ ([.fabric] : List Part)) s (withdrawRound x code s) :=
  withdrawRound_only (by decide) x code only_refl

/-- The state in which a task that has not been launched is aborted. -/
def abortedEarly (x : Task) (s : State) : State := promote (finishTask x.num .aborted 0x0211 (withdrawRound x 0x0211 s))

theorem abortedEarly_leaves : changesOnly (· ∈ ([.fabric, .queues, .tasks, .requests, .messages] : List Part)) s (abortedEarly x s) :=
  promote_only (by decide) (finishTask_only (by decide) (by decide) (by decide) (by decide) _ _ _ (withdrawRound_only (by decide) _ _ only_refl))

theorem abortedEarly_ends (hx : taskOf s n = some x) : hasEnd (abortedEarly x s) n .aborted 0x0211 := by
  have hrest : taskOf (withdrawRound x 0x0211 s) x.num = some x := by
    rw [taskOf_num hx, taskOf_of_tasks ((withdrawRound_leaves ..).steward_tasks (by decide)), hx]
  obtain ⟨y, hy, hstate, hstatus, -⟩ := taskOf_finishTask (st := .aborted) (status := 0x0211) hrest (by decide)
  obtain ⟨z, hz, hpromoted⟩ := taskOf_promote hy
  rw [hpromoted.stays (by rw [hstate]; decide), taskOf_num hx] at hz
  exact ⟨y, by rw [abortedEarly, taskOf_num hx, hz], hstate, hstatus⟩

/-- What TASK_ABORT does, by the task's state. -/
theorem taskAbortEff_early (hctx : ctxRefusal s (wfld w 8 2) = none) (hx : taskOf s (wfld w 0x0C 4) = some x) (hmine : x.ctx = wfld w 8 2)
    (hstate : x.state = .queued ∨ x.state = .eligible) : taskAbortEff s m w = respond m 0 [(8, 2, 0x0211)] (abortedEarly x s) := by
  rcases hstate with hstate | hstate <;> simp only [taskAbortEff, hctx, hx, hmine, hstate, ne_eq, not_true, if_false, abortedEarly]

theorem taskAbortEff_launched (hctx : ctxRefusal s (wfld w 8 2) = none) (hx : taskOf s (wfld w 0x0C 4) = some x) (hmine : x.ctx = wfld w 8 2)
    (hstate : x.state = .launched) (halone : x.members = []) : taskAbortEff s m w =
      await m (modTask x.num (fun y => { y with abortBy := y.abortBy ++ [m] }) (haltTask x.num 0x0211 none false s)) := by
  simp only [taskAbortEff, hctx, hx, hmine, hstate, ne_eq, not_true, if_false, abortLaunched, halone, List.isEmpty_nil, true_or, if_true]

theorem taskAbortEff_final (hctx : ctxRefusal s (wfld w 8 2) = none) (hx : taskOf s (wfld w 0x0C 4) = some x) (hmine : x.ctx = wfld w 8 2)
    (hfinal : isFinal x = true) : taskAbortEff s m w = respond m 0x0210 [(8, 2, x.status)]
      (modTask x.num (fun y => { y with abortAfter := y.abortAfter || (y.record == .none || y.record == .toWrite) }) s) := by
  rcases hstate : x.state <;> simp [isFinal, hstate] at hfinal <;>
    simp only [taskAbortEff, hctx, hx, hmine, hstate, ne_eq, not_true, if_false]

/-- A halting task goes on halting when it is halted again; one that does not halts with the status given. -/
theorem haltTask_halting {code : Nat} {fr : Option FaultRec} {repair : Bool} (hx : taskOf s n = some x) (hlaunched : x.state = .launched) :
    ∃ y, taskOf (haltTask n code fr repair s) n = some y ∧ y.halting = true ∧ (x.halting = false → y.status = code) := by
  rcases hhalting : x.halting
  · obtain ⟨y, hy, -, hyhalting, hystatus⟩ := halts_haltTask (code := code) (fr := fr) (repair := repair) hx hlaunched hhalting
    exact ⟨y, hy, hyhalting, fun _ => hystatus⟩
  · obtain ⟨fr', h⟩ := haltTask_eq_haltWith n code fr repair s
    rw [h, haltWith_counts hx hlaunched hhalting]
    exact ⟨_, taskOf_modTask_same n _ (by exact fun _ => rfl) s x hx, hhalting, fun hruns => by cases hruns⟩

end

end

/-- Settles O20: each request has the one effect its conditions leave, and the answer changes neither fences nor tasks. -/
theorem fencesAndLaunchesComplete : Obligations.FencesAndLaunchesComplete := by
  rintro s m w _ rfl
  refine ⟨fun hreq f hctx hmirror hc hfree => ?_, fun f hf hctx hmine => ?_, fun hreq haccept n hn => ?_, fun hreq hctx n t hn ht hmine => ?_⟩
  · have hex := executes_of_requested hreq
    refine answers_request hreq rfl ?_
    rw [fenceAllocEff_gives hctx hmirror hc hfree]
    refine ⟨hex.answered_of_mboxes rfl, ?_, fun k hk => ?_⟩ <;> rw [fenceOf_respond, fenceOf, modSteward, tabGet_put]
    · rw [if_pos rfl]
    · rw [if_neg (Ne.symm hk), fenceOf]
  · subst hf
    refine ⟨fun hreq hidle => ?_, fun hreq on hon => ?_⟩ <;> have hex := executes_of_requested hreq <;> refine answers_request hreq rfl ?_
    · rw [fenceFreeEff_frees hctx hmine hidle]
      refine ⟨hex.answered_of_mboxes rfl, ?_, fun k hk => ?_⟩ <;> rw [fenceOf_respond, fenceOf, modSteward, tabGet_put]
      · rw [if_pos rfl]
      · rw [if_neg (Ne.symm hk), fenceOf]
    · have hctx' := fenceMine_iff.1 hmine
      rw [fenceSignalEff_sets hctx hmine, ← hon]
      refine ⟨hex.answered_of_mboxes ((setFence_leaves ..).steward_mboxes (by decide)), ?_⟩
      simp only [fenceOf_respond]
      rw [fenceOf_setFence_same _ (by rw [hctx']; simp)]
      exact ⟨rfl, hctx', rfl, fun k hk => fenceOf_setFence_ne _ hk⟩
  · subst hn
    have hex := executes_of_requested hreq
    obtain ⟨hnext, hadded⟩ := acceptTask_adds (wfld w 8 2) false w s
    refine answers_request hreq rfl ?_
    rw [taskLaunchEff_accepts haccept, (respond_leaves ..).steward_nextTask (by decide), (respond_leaves ..).steward_tasks (by decide)]
    exact ⟨hex.answered_of_mboxes ((acceptTask_leaves ..).steward_mboxes (by decide)), hnext, mem_taskNames hadded⟩
  · subst hn
    have hex := executes_of_requested hreq
    refine answers_request hreq rfl ⟨fun hearly => ?_, fun hlaunched halone => ?_, fun hfinal => ?_⟩
    · rw [taskAbortEff_early hctx ht hmine hearly, taskOf_of_tasks ((respond_leaves ..).steward_tasks (by decide))]
      exact ⟨hex.answered_of_mboxes (abortedEarly_leaves.steward_mboxes (by decide)), abortedEarly_ends ht⟩
    · rw [taskAbortEff_launched hctx ht hmine hlaunched halone, taskOf_num ht]
      obtain ⟨y, hy, hhalting, hstatus⟩ := haltTask_halting (code := 0x0211) (fr := none) (repair := false) ht hlaunched
      refine ⟨(hex.of_mboxes ((haltTask_leaves ..).steward_mboxes (by decide))).waits, _,
        taskOf_modTask_same _ (fun y => { y with abortBy := y.abortBy ++ [m] }) (by exact fun _ => rfl) _ y hy, hhalting, ?_, hstatus⟩
      exact List.mem_append_right _ (List.mem_singleton.2 rfl)
    · rw [taskAbortEff_final hctx ht hmine hfinal, taskOf_num ht, taskOf_of_tasks ((respond_leaves ..).steward_tasks (by decide))]
      refine ⟨hex.answered_of_mboxes rfl, _, taskOf_modTask_same _ _ (by exact fun _ => rfl) s t ht, rfl, rfl, fun hrecord => ?_⟩
      simp [hrecord]

end Sys2Proof.Machine

/-!
The descriptor chain of a queue (11 R332 to R339).
-/
namespace Sys2Proof.Machine

section
variable {s t u : State} {c f n q : Nat} {w : MsgWord} {x y : Queue}

/-! POSTED_OBSERVED. -/

theorem postedEff_queues (posted head : BitVec 32) : (postedEff s q posted head).steward.queues = (modQueue q (fun x => { x with
    hops := if x.posted = posted.toNat then x.hops else 0, posted := posted.toNat, cplHead := head.toNat }) s).steward.queues := by
  rw [postedEff, (promote_leaves ..).steward_queues (by decide), (tryRecord_leaves ..).steward_queues (by decide)]

theorem postedObserved_holds {posted head : BitVec 32} (hx : queueOf s q = some x) (hready : postedReady s q posted head = true) :
    answers (.postedObserved q posted head) s fun u => ∃ y, queueOf u q = some y ∧ y.posted = posted.toNat ∧ y.cplHead = head.toNat ∧ y.consumed = x.consumed ∧
      (x.posted ≠ posted.toNat → y.hops = 0) ∧ (x.posted = posted.toNat → y.hops = x.hops) := by
  refine answers_due rfl hready ⟨_, (queueOf_of_queues (postedEff_queues ..) q).trans (queueOf_modQueue_same (by exact fun _ => rfl) hx), rfl, rfl, rfl, ?_, ?_⟩
  · exact fun hnew => if_neg hnew
  · exact fun hold => if_pos hold

/-! DESCRIPTOR_FETCH. -/

theorem descFetchEff_asks (hx : queueOf s q = some x) (hhops : x.hops < x.hopLimit) (hinside : inAperture s x.ctx x.nextDesc 64 = true) : descFetchEff s q =
    issueReq (.descFetch q) (readMsg x.nextDesc 1) (modQueue q (fun x => { x with hops := x.hops + 1, fetching := some x.nextDesc, issued := s.time.up }) s) := by
  simp only [descFetchEff, hx, if_neg (Nat.not_lt.2 (Nat.succ_le_of_lt hhops)), hinside, Bool.true_eq_false, if_false]

theorem descFetchEff_pastHops (hx : queueOf s q = some x) (hhops : x.hopLimit ≤ x.hops) : descFetchEff s q = ctxFault x.ctx 0x0220 q x.nextDesc s := by
  simp only [descFetchEff, hx, if_pos (Nat.lt_succ_of_le hhops)]

theorem descFetchEff_outside (hx : queueOf s q = some x) (hhops : x.hops < x.hopLimit) (houtside : inAperture s x.ctx x.nextDesc 64 = false) :
    descFetchEff s q = ctxFault x.ctx 0x0223 q x.nextDesc s := by
  simp only [descFetchEff, hx, if_neg (Nat.not_lt.2 (Nat.succ_le_of_lt hhops)), houtside, if_true]

theorem descriptorFetch_asks (hx : queueOf s q = some x) (hready : descFetchReady s q = true) :
    answers (.descriptorFetch q) s fun u =>
      (x.hops < x.hopLimit → inAperture s x.ctx x.nextDesc 64 = true →
        (∃ y, queueOf u q = some y ∧ y.hops = x.hops + 1 ∧ y.fetching = some x.nextDesc ∧ y.consumed = x.consumed) ∧ asked u (.descFetch q) x.nextDesc) ∧
      (x.hopLimit ≤ x.hops → ctxFaulted s u x 0x0220) ∧
      (x.hops < x.hopLimit → inAperture s x.ctx x.nextDesc 64 = false → ctxFaulted s u x 0x0223) := by
  refine answers_due rfl hready ⟨fun hhops hinside => ?_, fun hhops => ?_, fun hhops houtside => ?_⟩
  · rw [descFetchEff_asks hx hhops hinside]
    refine ⟨⟨_, (queueOf_of_queues (issueReq_steward_queues ..) q).trans (queueOf_modQueue_same (by exact fun _ => rfl) hx), rfl, rfl, rfl⟩, asked_issueReq ..⟩
  · rw [descFetchEff_pastHops hx hhops]
    exact ctxFaulted_ctxFault hx rfl
  · rw [descFetchEff_outside hx hhops houtside]
    exact ctxFaulted_ctxFault hx rfl

/-! DESCRIPTOR_ARRIVAL. -/

theorem descArrivalEff_malformed (hx : queueOf s q = some x) (hbad : descOk s.params x w = false) :
    descArrivalEff s q w = ctxFault x.ctx 0x0224 q x.nextDesc (modQueue q (fun x => { x with arrived := none }) s) := by
  simp only [descArrivalEff, hx, hbad, if_true]

theorem descArrivalEff_jumps (hx : queueOf s q = some x) (hok : descOk s.params x w = true) (hop : wfld w 4 2 = 0x01) :
    descArrivalEff s q w = modQueue q (fun x => { x with arrived := none, nextDesc := wfld w 0x0C 8 }) s := by
  simp only [descArrivalEff, hx, hok, Bool.true_eq_false, if_false, hop, if_true]

theorem descArrivalEff_fence (hx : queueOf s q = some x) (hok : descOk s.params x w = true) (hop : wfld w 4 2 = 0x17) :
    descArrivalEff s q w = modQueue q (fun x => { x with work := x.work ++ [.fence (wfld w 0x0C 2) (wfld w 0x0E 1)] }) (takeWork q s) := by
  simp [descArrivalEff, hx, hok, hop]

theorem descArrivalEff_launch (hx : queueOf s q = some x) (hok : descOk s.params x w = true) (hop : wfld w 4 2 = 0x18)
    (haccept : acceptRefusal s x.ctx w = none) : descArrivalEff s q w = acceptTask x.ctx true w (takeWork q s) := by
  simp [descArrivalEff, hx, hok, hop, haccept]

/-- A launch descriptor of a queue names that queue. -/
theorem descOk_queue {P : Params} (hok : descOk P x w = true) (hop : wfld w 4 2 = 0x18) : wfld w 0x10 2 = x.id := by
  simp only [descOk, hop, Bool.and_eq_true, beq_iff_eq] at hok
  exact hok.2.2

/-- A descriptor taken is consumed, and the one after it is next. -/
theorem queueOf_takeWork (hx : queueOf s q = some x) :
    queueOf (takeWork q s) q = some { x with arrived := none, consumed := (x.consumed + 1) % 2 ^ 32, nextDesc := x.nextDesc + 64 } :=
  (queueOf_of_queues ((putStatus_leaves ..).steward_queues (by decide)) q).trans (queueOf_modQueue_same (by exact fun _ => rfl) hx)

theorem takeWork_leaves (q : Nat) (s : State) : changesOnly (· ∈ ([.queues, .requests, .messages, .porch] : List Part)) s (takeWork q s) := by
  apply takeWork_only (h := only_refl) <;> decide

/-- A launch accepted where no round stands refused joins the work of its queue. -/
theorem queueOf_acceptTask {byDesc : Bool} (hx : queueOf s q = some x) (hq : wfld w 0x10 2 = q) (hrefused : s.fabric.refused = []) :
    queueOf (acceptTask c byDesc w s) q = some { x with work := x.work ++ [.task s.steward.nextTask] } := by
  have hnone : refusedCode s (newTask s s.steward.nextTask c byDesc w) = none := by rw [refusedCode, hrefused]; rfl
  subst hq
  simp only [acceptTask, hnone]
  refine (queueOf_of_queues ((promote_leaves ..).steward_queues (by decide)) _).trans ?_
  exact queueOf_modQueue_same (s := modSteward _ s) (g := fun y => { y with work := y.work ++ [.task s.steward.nextTask] }) (fun _ => rfl) hx

theorem descriptorArrival_takes (hx : queueOf s q = some x) (hready : descArrivalReady s q w = true) :
    answers (.descriptorArrival q w) s fun u =>
      (descOk s.params x w = false → ctxFaulted s u x 0x0224) ∧
      (descOk s.params x w = true → wfld w 4 2 = 0x01 → ∃ y, queueOf u q = some y ∧ y.nextDesc = wfld w 0x0C 8 ∧ y.consumed = x.consumed ∧ y.work = x.work ∧ y.arrived = none) ∧
      (descOk s.params x w = true → wfld w 4 2 = 0x17 → ∃ y, queueOf u q = some y ∧ y.nextDesc = x.nextDesc + 64 ∧ y.consumed = (x.consumed + 1) % 2 ^ 32 ∧
        y.work = x.work ++ [.fence (wfld w 0x0C 2) (wfld w 0x0E 1)] ∧ y.arrived = none) ∧
      (descOk s.params x w = true → wfld w 4 2 = 0x18 → acceptRefusal s x.ctx w = none → s.fabric.refused = [] →
        (∃ y, queueOf u q = some y ∧ y.nextDesc = x.nextDesc + 64 ∧ y.consumed = (x.consumed + 1) % 2 ^ 32 ∧ y.arrived = none) ∧
        u.steward.nextTask = s.steward.nextTask + 1 ∧ ∃ v ∈ u.steward.tasks, v.num = s.steward.nextTask ∧ v.queue = q ∧ v.ctx = x.ctx ∧ v.image = wfld w 0x0C 4) := by
  refine answers_due rfl hready ⟨fun hbad => ?_, fun hok hop => ?_, fun hok hop => ?_, fun hok hop haccept hrefused => ?_⟩
  · rw [descArrivalEff_malformed hx hbad]
    exact ctxFaulted_ctxFault hx rfl
  · rw [descArrivalEff_jumps hx hok hop]
    exact ⟨_, queueOf_modQueue_same (by exact fun _ => rfl) hx, rfl, rfl, rfl, rfl⟩
  · rw [descArrivalEff_fence hx hok hop]
    exact ⟨_, queueOf_modQueue_same (by exact fun _ => rfl) (queueOf_takeWork hx), rfl, rfl, rfl, rfl⟩
  · have hq : wfld w 0x10 2 = q := (descOk_queue hok hop).trans (queueOf_id hx)
    obtain ⟨hnext, hadded⟩ := acceptTask_adds x.ctx true w (takeWork q s)
    rw [(takeWork_leaves ..).steward_nextTask (by decide)] at hnext hadded
    obtain ⟨v, hv, hnum, hctx, himage, hqueue, -⟩ := mem_taskNames hadded
    rw [descArrivalEff_launch hx hok hop haccept]
    refine ⟨⟨_, queueOf_acceptTask (queueOf_takeWork hx) hq ?_, rfl, rfl, rfl⟩, hnext, v, hv, hnum, hqueue.trans hq, hctx, himage⟩
    rw [(takeWork_leaves ..).fabric (by decide), hrefused]

/-! CHAIN_FETCH_TIMEOUT. -/

theorem queueOf_killDesc (hx : queueOf s q = some x) : queueOf (killDesc q s) q = some { x with fetching := none, arrived := none } :=
  queueOf_modQueue_same (s := modHost _ s) (fun _ => rfl) hx

theorem chainTimeoutEff_stops (hx : queueOf s q = some x) :
    chainTimeoutEff s q = if x.state = 0 then ctxFault x.ctx 0x0221 q x.nextDesc (killDesc q s) else killDesc q s := by
  simp only [chainTimeoutEff, hx]

theorem chainFetchTimeout_stops (hx : queueOf s q = some x) (hready : chainTimeoutReady s q = true) :
    answers (.chainFetchTimeout q) s fun u => (∃ y, queueOf u q = some y ∧ y.fetching = none ∧ y.consumed = x.consumed) ∧ (x.state = 0 → ctxFaulted s u x 0x0221) := by
  refine answers_due rfl hready ?_
  rw [chainTimeoutEff_stops hx]
  split
  next hruns =>
    obtain ⟨y, hy, hstopped⟩ := queueOf_ctxFault (c := x.ctx) (code := 0x0221) (addr := x.nextDesc) q (queueOf_killDesc hx)
    exact ⟨⟨y, hy, hstopped.fetching, hstopped.consumed⟩, fun _ => ctxFaulted_ctxFault hx rfl⟩
  next hstands => exact ⟨⟨_, queueOf_killDesc hx, rfl, rfl⟩, fun hruns => absurd hruns hstands⟩

/-! FENCE_ACTION. -/

theorem headFence_eq {a : Nat} {ws : List Work} (hx : queueOf s q = some x) (hwork : x.work = .fence f a :: ws) : headFence s q = some (f, a) := by
  simp only [headFence, hx, hwork]

theorem fenceActionEff_acts {a : Nat} {ws : List Work} (hx : queueOf s q = some x) (hwork : x.work = .fence f a :: ws) : fenceActionEff s q =
    promote (if fenceMine s x.ctx f then setFence f (a == 0) (modQueue q (fun y => { y with work := y.work.drop 1 }) s)
      else modQueue q (fun y => { y with work := y.work.drop 1 }) s) := by
  simp only [fenceActionEff, headFence_eq hx hwork, hx]

theorem fenceAction_acts {a : Nat} {ws : List Work} (hx : queueOf s q = some x) (hwork : x.work = .fence f a :: ws) (hopen : queueOpen s x = true) :
    answers (.fenceAction q) s fun u => (∃ y, queueOf u q = some y ∧ y.work = ws) ∧ (fenceMine s x.ctx f = true → (fenceOf u f).signalled = (a == 0)) := by
  have hready : fenceActionReady s q = true := by simp only [fenceActionReady, headFence_eq hx hwork, hx, hopen]; rfl
  have hdropped := queueOf_modQueue_same (g := fun y => { y with work := y.work.drop 1 }) (fun _ => rfl) hx
  refine answers_due rfl hready ?_
  rw [fenceActionEff_acts hx hwork, queueOf_of_queues ((promote_leaves ..).steward_queues (by decide)),
    fenceOf_of_fences ((promote_leaves ..).steward_fences (by decide))]
  split
  next hmine =>
    refine ⟨⟨_, (queueOf_of_queues ((setFence_leaves ..).steward_queues (by decide)) q).trans hdropped, by rw [hwork]; rfl⟩, fun _ => ?_⟩
    rw [fenceOf_setFence_same]
    intro hfree
    exact Option.some_ne_none _ ((fenceMine_iff.1 hmine).symm.trans hfree)
  next hother => exact ⟨⟨_, hdropped, by rw [hwork]; rfl⟩, fun hmine => absurd hmine hother⟩

end

/-- Settles O27: every step of the chain changes its own queue, and a fault of the chain is one of the queue's context. -/
theorem descriptorChainsRun : Obligations.DescriptorChainsRun := by
  rintro s q x hx
  exact ⟨fun _ _ hready => postedObserved_holds hx hready, fun hready => descriptorFetch_asks hx hready, fun _ hready => descriptorArrival_takes hx hready,
    fun hready => chainFetchTimeout_stops hx hready, fun _ _ _ hwork hopen => fenceAction_acts hx hwork hopen⟩

end Sys2Proof.Machine

/-!
Contexts and queues are created and destroyed (11 R324 to R331, R347).
-/
namespace Sys2Proof.Machine

section
variable {s t u : State} {c k m n q id status code : Nat} {w : MsgWord} {x : Queue}

/-! CTX_CREATE (11 R326). -/

theorem ctxCreateEff_creates (hc : (if wfld w 0x0C 2 = 0xFFFF then deadCtx s else some (wfld w 0x0C 2)) = some c) (hdead : (ctxOf s c).state = 3)
    (haperture : apertureOk (wfld w 0x10 8) (wfld w 0x18 8) = true) : ctxCreateEff s m w =
      respond m 0 [(8, 2, c)] (modCtx c (fun _ => { ctxZero with state := 0, apBase := wfld w 0x10 8, apLimit := wfld w 0x18 8 }) s) := by
  simp only [ctxCreateEff, hc, hdead, haperture, ne_eq, not_true, Bool.true_eq_false, if_false]

theorem ctxCreate_creates (hreq : requested s m w 0x10) (hc : (if wfld w 0x0C 2 = 0xFFFF then deadCtx s else some (wfld w 0x0C 2)) = some c)
    (hdead : (ctxOf s c).state = 3) (haperture : apertureOk (wfld w 0x10 8) (wfld w 0x18 8) = true) :
    answers (.ctxCreate m w) s fun u => answered s u m w 0 [(8, 2, c)] ∧ (ctxOf u c).state = 0 ∧ (ctxOf u c).apBase = wfld w 0x10 8 ∧
      (ctxOf u c).apLimit = wfld w 0x18 8 ∧ ∀ k, k ≠ c → ctxOf u k = ctxOf s k := by
  have hzero : c ≠ 0 := fun h => by
    rw [h] at hdead
    cases hdead
  refine answers_request hreq rfl ?_
  simp only [ctxCreateEff_creates hc hdead haperture, ctxOf_of_ctxs ((respond_leaves ..).steward_ctxs (by decide)), ctxOf_modCtx hzero]
  exact ⟨(executes_of_requested hreq).answered_of_mboxes (modCtx_steward_mboxes ..), trivial, trivial, trivial, fun k hk => ctxOf_modCtx_ne hk⟩

/-! QUEUE_CREATE (11 R331). -/

theorem queueCreateEff_opens (hctx : ctxRefusal s (wfld w 8 2) = none) (haperture : queueInAperture s (wfld w 8 2) w = true) (hzero : wfld w 8 2 ≠ 0)
    (hfew : (s.steward.queues.filter fun q => q.ctx == wfld w 8 2).length < 8) (hfree : freeQueue s = some id) :
    queueCreateEff s m w = openQueue m (newQueue id (wfld w 8 2) w) s := by
  have hroom : ¬ (wfld w 8 2 = 0 ∨ 8 ≤ (s.steward.queues.filter fun q => q.ctx == wfld w 8 2).length) := not_or.2 ⟨hzero, Nat.not_le.2 hfew⟩
  simp only [queueCreateEff, hctx, haperture, Bool.true_eq_false, if_false, if_neg hroom, hfree]

/-- The state in which a queue stands and its status line is being written. -/
def queueAdded (x : Queue) (s : State) : State := modSteward (fun y => { y with queues := y.queues ++ [x] }) s

theorem queueOf_queueAdded (hnew : queueOf s x.id = none) : queueOf (queueAdded x s) x.id = some x := by
  rw [queueOf] at hnew
  simp [queueOf, queueAdded, modSteward, List.find?_append, hnew]

theorem openQueue_queues (m : Nat) (x : Queue) (s : State) : (openQueue m x s).steward.queues = (queueAdded x s).steward.queues := by
  unfold openQueue
  dsimp only
  rw [(porchFill_leaves ..).steward_queues (by decide)]
  split
  · exact (putStatus_leaves ..).steward_queues (by decide)
  · rw [(respond_leaves ..).steward_queues (by decide)]
    exact (putStatus_leaves ..).steward_queues (by decide)

/-- The status of a queue whose context takes host accesses goes to its line. -/
theorem putStatus_live (hx : queueOf s q = some x) (hlive : (ctxOf s x.ctx).state ≠ 2) : putStatus q s = porchPut x.status 0 (statusBytes x) s := by
  simp only [putStatus, hx, if_neg hlive]

theorem openQueue_of_held (held : Bool) (hnew : queueOf s x.id = none) (hlive : (ctxOf s x.ctx).state ≠ 2)
    (hheld : ((porchPut x.status 0 (statusBytes x) (queueAdded x s)).host.held.any fun w => w.addr == x.status) = held) :
    openQueue m x s = porchFill false x.door (if held then await m (porchPut x.status 0 (statusBytes x) (queueAdded x s))
      else respond m 0 [(8, 2, x.id)] (porchPut x.status 0 (statusBytes x) (queueAdded x s))) := by
  have hput : putStatus x.id (queueAdded x s) = porchPut x.status 0 (statusBytes x) (queueAdded x s) := putStatus_live (queueOf_queueAdded hnew) hlive
  rw [queueAdded] at hput hheld
  simp only [openQueue, hput, hheld]
  rfl

/-- A line that the porch has modified takes the status in the same step (19 R537). -/
theorem openQueue_answers {l : PorchLine} (hex : Executes s s m w) (hnew : queueOf s x.id = none) (hlive : (ctxOf s x.ctx).state ≠ 2)
    (hline : porchLine s.host x.status = some l) (hmodified : l.modified = true) (hheld : s.host.held = []) :
    answered s (openQueue m x s) m w 0 [(8, 2, x.id)] := by
  have hnone : ((porchPut x.status 0 (statusBytes x) (queueAdded x s)).host.held.any fun w => w.addr == x.status) = false := by
    simp only [porchPut, queueAdded, modSteward, hline, hmodified, hheld, List.any_nil, and_self, if_true]
  rw [openQueue_of_held false hnew hlive hnone, answered, mbox_of_mboxes ((porchFill_leaves ..).steward_mboxes (by decide))]
  exact hex.answered_of_mboxes ((porchPut_leaves ..).steward_mboxes (by decide))

/-- A line that the porch does not hold is fetched first. -/
theorem openQueue_waits (hex : Executes s s m w) (hnew : queueOf s x.id = none) (hlive : (ctxOf s x.ctx).state ≠ 2)
    (hline : porchLine s.host x.status = none) : waits (openQueue m x s) m w := by
  have hsome : ((porchPut x.status 0 (statusBytes x) (queueAdded x s)).host.held.any fun w => w.addr == x.status) = true := by
    simp only [porchPut, queueAdded, modSteward, hline, (porchFill_leaves ..).host_held (by decide : ¬ Part.porch ∈ [Part.requests, Part.messages]),
      List.any_append, List.any_cons, beq_self_eq_true, Bool.true_or, Bool.or_true]
  have hmboxes : (porchPut x.status 0 (statusBytes x) (queueAdded x s)).steward.mboxes = s.steward.mboxes := (porchPut_leaves ..).steward_mboxes (by decide)
  rw [openQueue_of_held true hnew hlive hsome, waits, mbox_of_mboxes ((porchFill_leaves ..).steward_mboxes (by decide)), if_pos rfl]
  exact (hex.of_mboxes hmboxes).waits

theorem ctxRefusal_live (h : ctxRefusal s c = none) : (ctxOf s c).state ≠ 2 := fun hdying => by simp [ctxRefusal, hdying] at h

theorem queueCreate_creates (hreq : requested s m w 0x13) (hctx : ctxRefusal s (wfld w 8 2) = none) (haperture : queueInAperture s (wfld w 8 2) w = true)
    (hzero : wfld w 8 2 ≠ 0) (hfew : (s.steward.queues.filter fun q => q.ctx == wfld w 8 2).length < 8) (hfree : freeQueue s = some id) :
    answers (.queueCreate m w) s fun u => queueOf u id = some (newQueue id (wfld w 8 2) w) ∧
      (∀ l, porchLine s.host (wfld w 0x14 8) = some l → l.modified = true → s.host.held = [] → answered s u m w 0 [(8, 2, id)]) ∧
      (porchLine s.host (wfld w 0x14 8) = none → waits u m w) := by
  have hex := executes_of_requested hreq
  have hnew : queueOf s (newQueue id (wfld w 8 2) w).id = none := Option.isNone_iff_eq_none.1 (firstFrom_of _ _ _ _ hfree)
  refine answers_request hreq rfl ?_
  rw [queueCreateEff_opens hctx haperture hzero hfew hfree]
  refine ⟨?_, fun l hline hmodified hheld => openQueue_answers hex hnew (ctxRefusal_live hctx) hline hmodified hheld, openQueue_waits hex hnew (ctxRefusal_live hctx)⟩
  rw [queueOf_of_queues (openQueue_queues ..)]
  exact queueOf_queueAdded hnew

/-! QUEUE_DESTROY (11 R331). -/

/-- The state in which a queue is being destroyed by the command of mailbox `m`. -/
def queueClosing (m q : Nat) (s : State) : State := await m (modQueue q (fun x => { x with closing := some m }) (killDesc q s))

theorem queueDestroyEff_closes (hctx : ctxRefusal s (wfld w 8 2) = none) (hx : queueOf s (wfld w 0x0C 2) = some x) (hmine : x.ctx = wfld w 8 2)
    (hopen : x.closing = none) (hfinal : ∀ t ∈ s.steward.tasks, t.queue = wfld w 0x0C 2 → t.ctx = wfld w 8 2 → isFinal t = true) :
    queueDestroyEff s m w = endQueue (wfld w 0x0C 2) (queueClosing m (wfld w 0x0C 2) s) := by
  have hq : queueMine s (wfld w 8 2) (wfld w 0x0C 2) = true := by simp [queueMine, hx, hmine, hopen]
  have hnone : (s.steward.tasks.any fun t => t.queue == wfld w 0x0C 2 && t.ctx == wfld w 8 2 && !isFinal t) = false := by
    simpa using hfinal
  simp only [queueDestroyEff, hctx, hq, hnone, Bool.true_eq_false, Bool.false_eq_true, if_false, queueClosing]

theorem queueOf_queueClosing (hx : queueOf s q = some x) :
    queueOf (queueClosing m q s) q = some { x with fetching := none, arrived := none, closing := some m } :=
  queueOf_modQueue_same (s := killDesc q s) (g := fun x => { x with closing := some m }) (fun _ => rfl) (queueOf_killDesc hx)

theorem queueOf_killDesc_ne (hk : k ≠ q) : queueOf (killDesc q s) k = queueOf s k := queueOf_modQueue_ne (s := modHost _ s) (fun _ => rfl) hk

theorem queueOf_queueClosing_ne (hk : k ≠ q) : queueOf (queueClosing m q s) k = queueOf s k :=
  (queueOf_modQueue_ne (s := killDesc q s) (g := fun x => { x with closing := some m }) (fun _ => rfl) hk).trans (queueOf_killDesc_ne hk)

theorem endQueue_closing (hx : queueOf s q = some x) (hclosing : x.closing = some m) :
    endQueue q s = if queueSettled s q then respond m 0 [] (dropQueue q s) else s := by
  simp only [endQueue, hx, hclosing]

theorem queueOf_dropQueue (q k : Nat) (s : State) : queueOf (dropQueue q s) k = if k = q then none else queueOf s k := by
  have hrest : queueOf (dropQueue q s) k = (killDesc q s).steward.queues.find? fun y => decide (y.id ≠ q ∧ y.id = k) := by
    simp only [queueOf, dropQueue, modHost, List.find?_filter, bne_iff_ne, beq_iff_eq]
  rw [hrest]
  split
  next h => simp [h]
  next h =>
    rw [← queueOf_killDesc_ne h, queueOf]
    congr 1
    funext y
    rw [Bool.eq_iff_iff, decide_eq_true_iff, beq_iff_eq]
    exact ⟨fun hy => hy.2, fun hy => ⟨fun hq => h (hy.symm.trans hq), hy⟩⟩

theorem queueDestroy_destroys (hreq : requested s m w 0x14) (hctx : ctxRefusal s (wfld w 8 2) = none) (hx : queueOf s (wfld w 0x0C 2) = some x)
    (hmine : x.ctx = wfld w 8 2) (hopen : x.closing = none)
    (hfinal : ∀ t ∈ s.steward.tasks, t.queue = wfld w 0x0C 2 → t.ctx = wfld w 8 2 → isFinal t = true) :
    answers (.queueDestroy m w) s fun u => (∀ k, k ≠ wfld w 0x0C 2 → queueOf u k = queueOf s k) ∧
      (queueSettled s (wfld w 0x0C 2) = true → answered s u m w 0 [] ∧ queueOf u (wfld w 0x0C 2) = none) ∧
      (queueSettled s (wfld w 0x0C 2) = false → waits u m w ∧ ∃ y, queueOf u (wfld w 0x0C 2) = some y ∧ y.closing = some m ∧ y.fetching = none) := by
  have hex := executes_of_requested hreq
  have hclosing := queueOf_queueClosing (m := m) hx
  have hsettled : queueSettled (queueClosing m (wfld w 0x0C 2) s) (wfld w 0x0C 2) = queueSettled s (wfld w 0x0C 2) := rfl
  refine answers_request hreq rfl ?_
  rw [queueDestroyEff_closes hctx hx hmine hopen hfinal, endQueue_closing hclosing rfl, hsettled]
  split
  next hdone =>
    refine ⟨fun k hk => ?_, fun _ => ⟨hex.await.answered_of_mboxes ?_, ?_⟩, fun hnot => absurd (hdone.symm.trans hnot) (by decide)⟩
    · rw [queueOf_of_queues ((respond_leaves ..).steward_queues (by decide)), queueOf_dropQueue, if_neg hk, queueOf_queueClosing_ne hk]
    · rfl
    · rw [queueOf_of_queues ((respond_leaves ..).steward_queues (by decide)), queueOf_dropQueue, if_pos rfl]
  next hnot =>
    exact ⟨fun k hk => queueOf_queueClosing_ne hk, fun hdone => absurd hdone hnot, fun _ => ⟨(hex.of_mboxes rfl).waits, _, hclosing, rfl, rfl⟩⟩

end

end Sys2Proof.Machine

/-!
The destruction of a context (11 R347).
-/
namespace Sys2Proof.Machine

section
variable {s t u : State} {c k m n q status code : Nat} {w : MsgWord} {x y : Task}

/-! What becomes of the tasks of a context that is being destroyed. -/

/-- The end of another task concerns at most the record of this one. -/
theorem taskOf_finishTask_ne {st : TState} (hm : m ≠ n) (hx : taskOf s n = some x) : ∃ r, taskOf (finishTask m st status s) n = some { x with record := r } := by
  unfold finishTask
  split
  case h_1 => exact ⟨x.record, hx⟩
  case h_2 y _ =>
    have hrest : taskOf (dropWork y.queue (.task m) (modTask m (fun t => { t with
        state := st, status := status, endBeat := upBeat s, halting := false, parked := false, record := .toWrite }) s)) n = some x :=
      (taskOf_modTask_ne hm (by exact fun _ => rfl)).trans hx
    dsimp only
    split
    · exact ⟨x.record, hrest⟩
    · exact taskOf_tryRecord y.queue hrest

/-- One step of the discarding of tasks. -/
def discardTask (x : Task) (s : State) : State := if x.members.isEmpty then s else finishTask x.num .aborted 0x0211 (withdrawRound x 0x0211 s)

theorem taskOf_discardTask_ne (hx : taskOf s n = some x) (hy : y.num ≠ n) : ∃ r, taskOf (discardTask y s) n = some { x with record := r } := by
  unfold discardTask
  split
  · exact ⟨x.record, hx⟩
  · exact taskOf_finishTask_ne hy ((taskOf_of_tasks ((withdrawRound_leaves ..).steward_tasks (by decide)) n).trans hx)

theorem hasEnd_discardTask (hx : taskOf s y.num = some x) (hmembers : y.members ≠ []) : hasEnd (discardTask y s) y.num .aborted 0x0211 := by
  rw [discardTask, if_neg (by simpa using hmembers)]
  obtain ⟨v, hv, hstate, hstatus, -⟩ := taskOf_finishTask (st := .aborted) (status := 0x0211)
    ((taskOf_of_tasks ((withdrawRound_leaves y 0x0211 s).steward_tasks (by decide)) y.num).trans hx) (by decide)
  exact ⟨v, hv, hstate, hstatus⟩

/-- A task that has ended so keeps its end. -/
theorem hasEnd_discardTask_again (y : Task) (h : hasEnd s n .aborted 0x0211) : hasEnd (discardTask y s) n .aborted 0x0211 := by
  obtain ⟨v, hv, hstate, hstatus⟩ := h
  by_cases hmembers : y.members = []
  · rw [discardTask, if_pos (by simpa using hmembers)]
    exact ⟨v, hv, hstate, hstatus⟩
  · by_cases hn : y.num = n
    · subst hn
      exact hasEnd_discardTask hv hmembers
    · obtain ⟨r, hr⟩ := taskOf_discardTask_ne hv hn
      exact ⟨_, hr, hstate, hstatus⟩

theorem hasEnd_discardTasks_again : ∀ (ys : List Task) {s : State}, hasEnd s n .aborted 0x0211 → hasEnd (discardTasks ys s) n .aborted 0x0211
  | [], _, h => h
  | y :: ys, _, h => hasEnd_discardTasks_again ys (hasEnd_discardTask_again y h)

/-- Every task discarded with a round begun has ended. -/
theorem hasEnd_discardTasks : ∀ (ys : List Task) {s : State} {x : Task}, taskOf s n = some x → (∃ y ∈ ys, y.num = n ∧ y.members ≠ []) →
    hasEnd (discardTasks ys s) n .aborted 0x0211
  | [], _, _, _, h => by simp at h
  | y :: ys, s, x, hx, hin => by
    rw [discardTasks]
    by_cases hy : y.num = n ∧ y.members ≠ []
    · obtain ⟨rfl, hmembers⟩ := hy
      exact hasEnd_discardTasks_again ys (hasEnd_discardTask hx hmembers)
    · have hrest : ∃ z ∈ ys, z.num = n ∧ z.members ≠ [] := by
        obtain ⟨z, hz, hzn⟩ := hin
        exact ⟨z, (List.mem_cons.1 hz).resolve_left fun h => hy (h ▸ hzn), hzn⟩
      have hstep : ∃ v, taskOf (discardTask y s) n = some v := by
        by_cases hmembers : y.members = []
        · exact ⟨x, by rw [discardTask, if_pos (by simpa using hmembers), hx]⟩
        · obtain ⟨r, hr⟩ := taskOf_discardTask_ne hx fun hn => hy ⟨hn, hmembers⟩
          exact ⟨_, hr⟩
      obtain ⟨v, hv⟩ := hstep
      exact hasEnd_discardTasks ys hv hrest

theorem taskOf_discardTasks_ne : ∀ (ys : List Task) {s : State} {x : Task}, taskOf s n = some x → (∀ y ∈ ys, y.num ≠ n) →
    ∃ r, taskOf (discardTasks ys s) n = some { x with record := r }
  | [], _, x, hx, _ => ⟨x.record, hx⟩
  | y :: ys, s, x, hx, hys => by
    obtain ⟨r, hr⟩ := taskOf_discardTask_ne hx (hys y (List.mem_cons_self ..))
    obtain ⟨r', hr'⟩ := taskOf_discardTasks_ne ys hr fun z hz => hys z (List.mem_cons_of_mem _ hz)
    exact ⟨r', hr'⟩

theorem haltTask_keepsHalts (m : Nat) (h : halts s n code) : halts (haltTask m 0x0211 none false s) n code := by
  obtain ⟨fr', hm⟩ := haltTask_eq_haltWith m 0x0211 none false s
  rw [hm]
  exact halts_haltWith_again m h

theorem haltCtx_keepsHalts : ∀ (ns : List Nat) {s : State}, halts s n code → halts (haltCtx ns s) n code
  | [], _, h => h
  | m :: ns, _, h => haltCtx_keepsHalts ns (haltTask_keepsHalts m h)

theorem halts_haltCtx : ∀ (ns : List Nat) {s : State} {x : Task}, taskOf s n = some x → x.state = .launched → x.halting = false → n ∈ ns →
    halts (haltCtx ns s) n 0x0211
  | [], _, _, _, _, _, h => by cases h
  | m :: ns, s, x, hx, hlaunched, hruns, hin => by
    rw [haltCtx]
    by_cases hm : m = n
    · rw [hm]
      exact haltCtx_keepsHalts ns (halts_haltTask hx hlaunched hruns)
    · obtain ⟨fr', hother⟩ := haltTask_eq_haltWith m 0x0211 none false s
      refine halts_haltCtx ns (x := x) ?_ hlaunched hruns ((List.mem_cons.1 hin).resolve_left (Ne.symm hm))
      rw [hother, taskOf_haltWith_ne hm, hx]

theorem taskOf_haltCtx_idle : ∀ (ns : List Nat) {s : State}, taskOf s n = some x → x.state ≠ .launched → taskOf (haltCtx ns s) n = some x
  | [], _, hx, _ => hx
  | m :: ns, s, hx, hidle => by
    obtain ⟨fr', hm⟩ := haltTask_eq_haltWith m 0x0211 none false s
    refine taskOf_haltCtx_idle ns ?_ hidle
    rw [hm]
    exact taskOf_haltWith_idle m hx hidle

/-! CTX_DESTROY (11 R347): the context is ABORTING and mute, its waiting tasks are discarded, its launched tasks halt, and the rest is cut short. -/

def ctxAborting (c m : Nat) (s : State) : State := modCtx c (fun x => { x with was := x.state, state := 2, destroyer := some m }) (endFreeze s)

def ctxMuted (c m : Nat) (s : State) : State := await m (muteCtx c (ctxAborting c m s))

def waitingTasks (c : Nat) (s : State) : List Task := s.steward.tasks.filter fun t => t.ctx == c && (t.state == .queued || t.state == .eligible)

def runningTasks (c : Nat) (s : State) : List Nat := (s.steward.tasks.filter fun t => t.ctx == c && t.state == .launched).map (·.num)

def ctxDiscarded (c m : Nat) (s : State) : State := discardTasks (waitingTasks c (ctxMuted c m s)) (ctxMuted c m s)

def ctxHalted (c m : Nat) (s : State) : State := haltCtx (runningTasks c (ctxDiscarded c m s)) (ctxDiscarded c m s)

def ctxCut (c m : Nat) (s : State) : State :=
  promote (cutCommands c (ctxHalted c m s).steward.mboxes (stopContext c (List.range s.params.hatchChannels) (ctxHalted c m s)))

theorem ctxDestroyEff_cuts (hc : wfld w 0x0C 2 ≠ 0) (hlive : (ctxOf s (wfld w 0x0C 2)).state < 2) : ctxDestroyEff s m w = ctxCut (wfld w 0x0C 2) m s := by
  rw [ctxDestroyEff]
  dsimp only
  rw [if_neg hc, if_neg (Nat.not_le.2 hlive)]
  rfl

/-! The context. -/

theorem ctxAborting_leaves : changesOnly (· ∈ ([.snap, .ctxs] : List Part)) s (ctxAborting c m s) :=
  modCtx_only (by decide) _ _ (endFreeze_only (by decide) only_refl)

theorem ctxCut_ctxs : (ctxCut c m s).steward.ctxs = (ctxAborting c m s).steward.ctxs := by
  refine changesOnly.steward_ctxs (P := (· ≠ .ctxs)) ?_ (by simp)
  refine promote_only (by simp) (cutCommands_only (by simp) (by simp) (by simp) (by simp) (by simp) (by simp) (by simp) _ _
    (stopContext_only (by simp) (by simp) (by simp) _ _ (haltCtx_only (by simp) (by simp) _
    (discardTasks_only (by simp) (by simp) (by simp) (by simp) (by simp) _ (await_only (by simp) _
    (muteCtx_only (by simp) (by simp) (by simp) (by simp) _ only_refl))))))

theorem ctxOf_ctxCut (hc : c ≠ 0) : ctxOf (ctxCut c m s) c = { ctxOf s c with was := (ctxOf s c).state, state := 2, destroyer := some m } := by
  rw [ctxOf_of_ctxs ctxCut_ctxs, ctxAborting, ctxOf_modCtx hc, ctxOf_of_ctxs ((endFreeze_only (P := (· ≠ .ctxs)) (by simp) only_refl).steward_ctxs (by simp))]

/-! Its queues. -/

/-- Whose each queue is, how it runs, and what it fetches (11 R332, R334). -/
def queueRuns (s : State) : List (Nat × Nat × Option Nat) := s.steward.queues.map fun x => (x.ctx, x.state, x.fetching)

theorem queueRuns_of_queues (h : u.steward.queues = s.steward.queues) : queueRuns u = queueRuns s := by rw [queueRuns, h, queueRuns]

theorem queueRuns_modQueue {g : Queue → Queue} (hg : ∀ x, ((g x).ctx, (g x).state, (g x).fetching) = (x.ctx, x.state, x.fetching)) :
    queueRuns (modQueue q g s) = queueRuns s := by
  simp only [queueRuns, modQueue, List.map_map]
  refine List.map_congr_left fun x _ => ?_
  simp only [Function.comp]
  split
  · exact hg x
  · rfl

theorem queueRuns_finishTask (n : Nat) (st : TState) (status : Nat) (s : State) : queueRuns (finishTask n st status s) = queueRuns s := by
  unfold finishTask
  split
  case h_1 => rfl
  case h_2 x _ =>
    have hdone : queueRuns (dropWork x.queue (.task n) (modTask n (fun t => { t with
        state := st, status := status, endBeat := upBeat s, halting := false, parked := false, record := .toWrite }) s)) = queueRuns s :=
      queueRuns_modQueue (by exact fun _ => rfl)
    dsimp only
    split
    · exact hdone
    · rw [queueRuns_of_queues ((tryRecord_leaves ..).steward_queues (by decide)), hdone]

theorem queueRuns_discardTasks : ∀ (ys : List Task) (s : State), queueRuns (discardTasks ys s) = queueRuns s
  | [], _ => rfl
  | y :: ys, s => by
    rw [discardTasks, queueRuns_discardTasks ys]
    split
    · rfl
    · rw [queueRuns_finishTask, queueRuns_of_queues ((withdrawRound_leaves ..).steward_queues (by decide))]

/-- Work that is cut short was no fetch of a queue: at most a destruction that waited ends. -/
theorem queueRuns_cutWork (m : Nat) (w : MsgWord) (s : State) : queueRuns (cutWork m w s) = queueRuns s := by
  fun_cases cutWork m w s
  case case1 =>
    refine queueRuns_modQueue fun x => ?_
    split <;> rfl
  case case2 => exact queueRuns_of_queues ((undoLoad_only (P := (· ≠ .queues)) (by simp) (by simp) _ only_refl).steward_queues (by simp))
  case case6 =>
    exact queueRuns_of_queues ((cutCopy_only (P := (· ≠ .queues)) (by simp) (by simp) _ (dropCopy_only (by simp) (by simp) _ only_refl)).steward_queues (by simp))
  case case7 => rfl
  all_goals exact queueRuns_of_queues ((undoClose_only (P := (· ≠ .queues)) (by simp) (by simp) (by simp) _ only_refl).steward_queues (by simp))

theorem queueRuns_cutCommands : ∀ (bs : List (Nat × Mailbox)) (s : State), queueRuns (cutCommands c bs s) = queueRuns s
  | [], _ => rfl
  | (m, b) :: bs, s => by
    rw [cutCommands, queueRuns_cutCommands bs]
    split
    · split
      · rw [queueRuns_of_queues ((respond_leaves ..).steward_queues (by decide)), queueRuns_cutWork]
      · rfl
    · rfl

theorem queueRuns_ctxCut : queueRuns (ctxCut c m s) = queueRuns (ctxMuted c m s) := by
  rw [ctxCut, queueRuns_of_queues ((promote_leaves ..).steward_queues (by decide)), queueRuns_cutCommands,
    queueRuns_of_queues ((stopContext_only (P := (· ≠ .queues)) (by simp) (by simp) (by simp) _ _ only_refl).steward_queues (by simp)), ctxHalted,
    queueRuns_of_queues ((haltCtx_only (P := (· ≠ .queues)) (by simp) (by simp) _ only_refl).steward_queues (by simp)), ctxDiscarded, queueRuns_discardTasks]

theorem ctxCut_stopsQueues : ∀ x ∈ (ctxCut c m s).steward.queues, x.ctx = c → x.state = 2 ∧ x.fetching = none := by
  intro x hx hctx
  have hin : (x.ctx, x.state, x.fetching) ∈ queueRuns (ctxMuted c m s) := queueRuns_ctxCut (s := s) (c := c) (m := m) ▸ List.mem_map_of_mem hx
  obtain ⟨y, hy, heq⟩ := List.mem_map.1 hin
  obtain ⟨z, -, rfl⟩ := List.mem_map.1 hy
  simp only [Prod.mk.injEq] at heq
  obtain ⟨hyctx, hystate, hyfetching⟩ := heq
  rw [← hystate, ← hyfetching]
  have hz : z.ctx = c := by
    rw [← hctx, ← hyctx]
    split <;> rfl
  rw [if_pos hz]
  exact ⟨rfl, rfl⟩

/-! Its tasks. -/

/-- What silences a task's record. -/
def muteTask (c : Nat) (x : Task) : Task := if x.ctx = c ∧ (x.record = .writing ∨ x.record = .acked) then { x with record := .toWrite } else x

theorem muteTask_record (c : Nat) (x : Task) : ∃ r, muteTask c x = { x with record := r } := by
  unfold muteTask
  split
  · exact ⟨_, rfl⟩
  · exact ⟨x.record, rfl⟩

theorem ctxMuted_tasks : (ctxMuted c m s).steward.tasks = s.steward.tasks.map (muteTask c) :=
  congrArg (List.map (muteTask c)) (ctxAborting_leaves.steward_tasks (by decide))

theorem taskOf_ctxMuted (hx : taskOf s n = some x) : taskOf (ctxMuted c m s) n = some (muteTask c x) := by
  have hnum : (fun x : Task => x.num == n) ∘ muteTask c = fun x => x.num == n := by
    funext y
    obtain ⟨r, hr⟩ := muteTask_record c y
    simp only [Function.comp, hr]
  rw [taskOf] at hx
  rw [taskOf, ctxMuted_tasks, List.find?_map, hnum, hx, Option.map_some]

theorem taskOf_mem (hx : taskOf s n = some x) : x ∈ s.steward.tasks := List.mem_of_find?_eq_some hx

/-- What is cut short after the tasks have stopped concerns none of them. -/
theorem taskOf_ctxCut (hx : taskOf (ctxHalted c m s) n = some x) (hstarted : x.state ≠ .queued) : taskOf (ctxCut c m s) n = some x := by
  have hrest : taskOf (cutCommands c (ctxHalted c m s).steward.mboxes (stopContext c (List.range s.params.hatchChannels) (ctxHalted c m s))) n = some x := by
    refine (taskOf_of_tasks ?_ n).trans hx
    exact (cutCommands_only (P := (· ≠ .tasks)) (by simp) (by simp) (by simp) (by simp) (by simp) (by simp) (by simp) _ _
      (stopContext_only (by simp) (by simp) (by simp) _ _ only_refl)).steward_tasks (by simp)
  obtain ⟨v, hv, hpromoted⟩ := taskOf_promote hrest
  rw [ctxCut, hv, hpromoted.stays hstarted]

theorem ctxCut_endsWaiting (hx : taskOf s n = some x) (hctx : x.ctx = c) (hwaits : x.state = .queued ∨ x.state = .eligible) (hmembers : x.members ≠ []) :
    hasEnd (ctxCut c m s) n .aborted 0x0211 := by
  have hmuted := taskOf_ctxMuted (c := c) (m := m) hx
  obtain ⟨r, hr⟩ := muteTask_record c x
  rw [hr] at hmuted
  have hin : { x with record := r } ∈ waitingTasks c (ctxMuted c m s) :=
    List.mem_filter.2 ⟨taskOf_mem hmuted, by rcases hwaits with h | h <;> simp [hctx, h]⟩
  obtain ⟨v, hv, hstate, hstatus⟩ := hasEnd_discardTasks (waitingTasks c (ctxMuted c m s)) hmuted ⟨_, hin, taskOf_num hmuted, hmembers⟩
  have hhalted : taskOf (ctxHalted c m s) n = some v := taskOf_haltCtx_idle _ hv (by rw [hstate]; decide)
  exact ⟨v, taskOf_ctxCut hhalted (by rw [hstate]; decide), hstate, hstatus⟩

theorem ctxCut_haltsRunning (hx : taskOf s n = some x) (hctx : x.ctx = c) (hlaunched : x.state = .launched) (hruns : x.halting = false)
    (hone : ∀ y ∈ s.steward.tasks, y.num = n → y = x) : halts (ctxCut c m s) n 0x0211 := by
  have hmuted := taskOf_ctxMuted (c := c) (m := m) hx
  obtain ⟨r, hr⟩ := muteTask_record c x
  rw [hr] at hmuted
  have hothers : ∀ y ∈ waitingTasks c (ctxMuted c m s), y.num ≠ n := by
    intro y hy hnum
    obtain ⟨hmem, hstate⟩ := List.mem_filter.1 hy
    rw [ctxMuted_tasks] at hmem
    obtain ⟨z, hz, rfl⟩ := List.mem_map.1 hmem
    obtain ⟨r', hr'⟩ := muteTask_record c z
    rw [hr'] at hnum hstate
    rw [hone z hz hnum] at hstate
    simp [hlaunched] at hstate
  obtain ⟨r', hdiscarded⟩ := taskOf_discardTasks_ne _ hmuted hothers
  have hin : n ∈ runningTasks c (ctxDiscarded c m s) :=
    List.mem_map.2 ⟨_, List.mem_filter.2 ⟨taskOf_mem hdiscarded, by simp [hctx, hlaunched]⟩, taskOf_num hdiscarded⟩
  obtain ⟨v, hv, hstate, hend⟩ := halts_haltCtx (runningTasks c (ctxDiscarded c m s)) hdiscarded hlaunched hruns hin
  exact ⟨v, taskOf_ctxCut hv (by rw [hstate]; decide), hstate, hend⟩

theorem ctxDestroy_aborts (hreq : requested s m w 0x11) (hc : wfld w 0x0C 2 ≠ 0) (hlive : (ctxOf s (wfld w 0x0C 2)).state < 2) :
    answers (.ctxDestroy m w) s fun u => (ctxOf u (wfld w 0x0C 2)).state = 2 ∧ (ctxOf u (wfld w 0x0C 2)).destroyer = some m ∧
      (∀ x ∈ u.steward.queues, x.ctx = wfld w 0x0C 2 → x.state = 2 ∧ x.fetching = none) ∧
      ∀ n x, taskOf s n = some x → x.ctx = wfld w 0x0C 2 →
        (x.state = .queued ∨ x.state = .eligible → x.members ≠ [] → hasEnd u n .aborted 0x0211) ∧
        (x.state = .launched → x.halting = false → (∀ y ∈ s.steward.tasks, y.num = n → y = x) → halts u n 0x0211) := by
  refine answers_request hreq rfl ?_
  rw [ctxDestroyEff_cuts hc hlive, ctxOf_ctxCut hc]
  exact ⟨rfl, rfl, ctxCut_stopsQueues, fun n x hx hctx => ⟨fun hwaits hmembers => ctxCut_endsWaiting hx hctx hwaits hmembers,
    fun hlaunched hruns hone => ctxCut_haltsRunning hx hctx hlaunched hruns hone⟩⟩

end

/-- Settles O19: each request leaves the tables as it asks, and what it began in another unit changes none of them. -/
theorem contextsAndQueuesComplete : Obligations.ContextsAndQueuesComplete := by
  intro s m w
  refine ⟨fun hreq c hc hdead haperture => ctxCreate_creates hreq hc hdead haperture, ?_, ?_, ?_⟩
  · rintro hreq _ rfl hc hlive
    exact ctxDestroy_aborts hreq hc hlive
  · rintro hreq _ id rfl hctx haperture hzero hfew hfree
    exact queueCreate_creates hreq hctx haperture hzero hfew hfree
  · rintro hreq _ _ x rfl rfl hctx hx hmine hopen hfinal
    exact queueDestroy_destroys hreq hctx hx hmine hopen hfinal

end Sys2Proof.Machine

/-!
A task launches, or does not (11 R340, R341, 13 R407, R408).
-/
namespace Sys2Proof.Machine

section
variable {s u : State} {n k code : Nat} {t v : Task} {i : Image} {V : Variant}

/-! The rooms that start (06 R161). -/

/-- What a room is as it starts for task `t`. -/
def started (t : Task) (k : Nat) (x : Room) : Prop :=
  x.task = some t.num ∧ x.g = launchRegs t k ∧ x.ctr = [] ∧ x.inflight = [] ∧ x.hold = .none ∧ x.fault = none

theorem started_startRooms (V : Variant) (t : Task) : ∀ (rs : List RoomRec) {s : State}, k ∈ rs.map (·.room) ∨ started t k (roomOf s k) →
    started t k (roomOf (startRooms V t rs s) k)
  | [], _, h => h.resolve_left (by simp)
  | r :: rs, s, h => by
    refine started_startRooms V t rs ?_
    rw [roomOf, tabGet_put]
    by_cases hr : r.room = k
    · rw [if_pos hr, ← hr]
      exact .inr ⟨rfl, rfl, rfl, rfl, rfl, rfl⟩
    · rw [if_neg hr]
      exact h.imp_left fun hin => (List.mem_cons.1 hin).resolve_left (Ne.symm hr)

theorem roomOf_startRooms_ne (V : Variant) (t : Task) : ∀ (rs : List RoomRec) (s : State), k ∉ rs.map (·.room) → roomOf (startRooms V t rs s) k = roomOf s k
  | [], _, _ => rfl
  | r :: rs, s, h => by
    obtain ⟨hr, hrest⟩ := not_or.1 fun hin => h (List.mem_cons.2 hin)
    rw [startRooms, roomOf_startRooms_ne V t rs _ hrest, roomOf, tabGet_put, if_neg (Ne.symm hr), roomOf]

/-! The launch (11 R341). -/

/-- The stores as the launch reads its state blocks: modes, arguments and rings are set (04 R117, 06 R161, 08 R243). -/
def launchStore (V : Variant) (t : Task) (s : State) : Store := setRings true V (argBufs V t.args (putModes (launchModes s V) s.store))

/-- The state in which the rooms have started. -/
def roomsStarted (V : Variant) (n : Nat) (t : Task) (s : State) : State :=
  modShell (fun h => { h with ports := h.ports ++ openPorts V n }) (startRooms V t V.rooms
    (putStore (readLines (launchStore V t s) false (launchLines (launchStore V t s) V)).1 { s with store := launchStore V t s }))

/-- What a launch makes of its task. -/
def launchedTask (s : State) (V : Variant) (t : Task) (i : Image) (x : Task) : Task :=
  { x with
    state := .launched, v15 := (pickVariant s i).2, launch := some (beatOf s), launchUp := upBeat s, rooms := V.rooms.map (·.room), ended := [],
    counts := countsZero, points := (pointBlocks V).map (readPoint (launchStore V t s)), modeTrans := (launchModes s V).any (fun m => m.2.2.2.2), wrote := []
    cert := certified i { x with v15 := (pickVariant s i).2 }, qsat := false, qlost := false, launchAt := none
    members := x.members.map fun m => { m with ended := false, halted := false } }

def launchedState (V : Variant) (n : Nat) (t : Task) (i : Image) (s : State) : State := modTask n (launchedTask s V t i) (roomsStarted V n t s)

theorem launchTask_launches (hV : V = variantBy i (pickVariant s i).2) (hreads : (readLines (launchStore V t s) false (launchLines (launchStore V t s) V)).2.1 = 0) :
    launchTask n t i s = if launchScaleBad ((pointBlocks V).map (readPoint (launchStore V t s))) then
      haltTask n 0x308 (some (plainFault 0x308)) false (launchedState V n t i s) else launchedState V n t i s := by
  subst hV
  exact if_neg (not_not.2 hreads)

theorem roomsStarted_tasks : (roomsStarted V n t s).steward.tasks = s.steward.tasks := by
  rw [roomsStarted, modShell, (startRooms_only (P := (· ≠ .tasks)) (by simp) V t V.rooms only_refl).steward_tasks (by simp), putStore_steward_tasks]

theorem taskOf_launchedState (ht : taskOf s n = some v) : taskOf (launchedState V n t i s) n = some (launchedTask s V t i v) :=
  taskOf_modTask_same n _ (by exact fun _ => rfl) _ v ((taskOf_of_tasks roomsStarted_tasks n).trans ht)

theorem launchedState_starts (hk : k ∈ V.rooms.map (·.room)) : started t k (roomOf (launchedState V n t i s) k) := started_startRooms V t V.rooms (.inl hk)

theorem launchedState_room_ne (hk : k ∉ V.rooms.map (·.room)) : roomOf (launchedState V n t i s) k = roomOf s k :=
  (roomOf_startRooms_ne V t V.rooms _ hk).trans (roomOf_of_rooms (putStore_rooms ..) k)

/-! A member that names no rooms has ended as it launches (13 R400, R410). -/

theorem endBare_rooms (hv : taskOf s n = some v) (hrooms : v.rooms ≠ []) : endBare n s = s := by
  have hsome : v.rooms.isEmpty = false := by simpa using hrooms
  simp [endBare, hv, hsome]

theorem endBare_halting (h : halts s n code) : endBare n s = s := by
  obtain ⟨v, hv, -, hhalting, -⟩ := h
  simp [endBare, hv, hhalting]

theorem endBare_member (hv : taskOf s n = some v) (hlaunched : v.state = .launched) (hruns : v.halting = false) (hrooms : v.rooms = [])
    (hmembers : v.members ≠ []) (hmember : v.member ≠ 0) :
    endBare n s = sendMgmt (leaderAddr v) 0x13 v.round v.gtask.toNat v.member [] (markEnded n v.member s) := by
  have hsome : v.members.isEmpty = false := by simpa using hmembers
  simp [endBare, hv, hlaunched, hruns, hrooms, allEnded, hsome, hmember]

theorem markEnded_marks (hv : taskOf s n = some v) : ∃ x, taskOf (markEnded n k s) n = some x ∧ x.state = v.state ∧ ∀ m ∈ x.members, m.member = k → m.ended = true := by
  refine ⟨_, taskOf_modTask_same n (fun t => { t with members := t.members.map fun x => if x.member = k then { x with ended := true } else x })
    (by exact fun _ => rfl) s v hv, rfl, fun m hm hmember => ?_⟩
  obtain ⟨y, -, rfl⟩ := List.mem_map.1 hm
  split
  next => rfl
  next hother => exact absurd (by rwa [if_neg hother] at hmember) hother

/-! The launch boundary. -/

theorem launchBoundaryEff_late (ht : taskOf s n = some t) (hi : imageOf s t = some i) (hlate : missesLaunch s t = true) :
    launchBoundaryEff s n = haltTask n 0x0904 (some (plainFault 0x0904)) false (launchVoid n s) := by
  simp only [launchBoundaryEff, ht, hi, hlate, if_true]

theorem launchBoundaryEff_launches (ht : taskOf s n = some t) (hi : imageOf s t = some i) (hdue : missesLaunch s t = false) (hok : launchRefusal s t i = 0) :
    launchBoundaryEff s n = endBare n (launchTask n t i s) := by
  simp only [launchBoundaryEff, ht, hi, hdue, Bool.false_eq_true, if_false, hok]

theorem launchBoundaryEff_refused (ht : taskOf s n = some t) (hi : imageOf s t = some i) (hdue : missesLaunch s t = false) (hbad : launchRefusal s t i ≠ 0) :
    launchBoundaryEff s n = if t.members.isEmpty then promote (finishTask n .refused (launchRefusal s t i) s)
      else haltTask n (launchRefusal s t i) (some (plainFault (launchRefusal s t i))) false (launchVoid n s) := by
  simp only [launchBoundaryEff, ht, hi, hdue, Bool.false_eq_true, if_false]

/-- A task that counts as launched with no room halts with the code (13 R407, log 60). -/
theorem halts_launchVoid {fr : Option FaultRec} (ht : taskOf s n = some t) (hruns : t.halting = false) : halts (haltTask n code fr false (launchVoid n s)) n code :=
  halts_haltTask (taskOf_modTask_same n (fun t => { t with
    state := .launched, launch := some (beatOf s), launchUp := upBeat s, rooms := [], ended := [], launchAt := none }) (fun _ => rfl) s t ht) rfl hruns

theorem launchVoid_halt_leaves {fr : Option FaultRec} : changesOnly (· ∈ ([.tasks, .fabric] : List Part)) s (haltTask n code fr false (launchVoid n s)) :=
  haltTask_only (by decide) (by decide) _ _ _ _ (launchVoid_only (by decide) _ only_refl)

theorem taskLaunchBoundary_late (ht : taskOf s n = some t) (hi : imageOf s t = some i) (hready : launchReady s n = true) (hlate : missesLaunch s t = true)
    (hruns : t.halting = false) : answers (.taskLaunchBoundary n) s fun u => halts u n 0x0904 ∧ u.rooms = s.rooms ∧ u.store = s.store := by
  refine answers_due rfl hready ?_
  rw [launchBoundaryEff_late ht hi hlate]
  exact ⟨halts_launchVoid ht hruns, launchVoid_halt_leaves.rooms (by decide), launchVoid_halt_leaves.store (by decide)⟩

/-- A task that has not completed has ended, and the promotion that follows leaves it. -/
theorem hasEnd_promote_finishTask {st : TState} (ht : taskOf s n = some t) (hst : st ≠ .completed) (hqueued : st ≠ .queued) :
    hasEnd (promote (finishTask n st code s)) n st code := by
  obtain ⟨x, hx, hstate, hstatus, -⟩ := taskOf_finishTask (status := code) ht hst
  obtain ⟨y, hy, hpromoted⟩ := taskOf_promote hx
  rw [hpromoted.stays (by rwa [hstate])] at hy
  exact ⟨x, hy, hstate, hstatus⟩

theorem taskLaunchBoundary_refused (ht : taskOf s n = some t) (hi : imageOf s t = some i) (hready : launchReady s n = true) (hdue : missesLaunch s t = false)
    (hbad : launchRefusal s t i ≠ 0) : answers (.taskLaunchBoundary n) s fun u => u.rooms = s.rooms ∧ u.store = s.store ∧
      (t.members = [] → hasEnd u n .refused (launchRefusal s t i)) ∧ (t.members ≠ [] → t.halting = false → halts u n (launchRefusal s t i)) := by
  refine answers_due rfl hready ?_
  rw [launchBoundaryEff_refused ht hi hdue hbad]
  split
  next hnone =>
    have hleaves : changesOnly (· ∈ ([.queues, .tasks, .requests, .messages] : List Part)) s (promote (finishTask n .refused (launchRefusal s t i) s)) :=
      promote_only (by decide) (finishTask_leaves ..)
    exact ⟨hleaves.rooms (by decide), hleaves.store (by decide), fun _ => hasEnd_promote_finishTask ht (by decide) (by decide),
      fun hmembers => absurd (List.isEmpty_iff.1 hnone) hmembers⟩
  next hsome =>
    exact ⟨launchVoid_halt_leaves.rooms (by decide), launchVoid_halt_leaves.store (by decide), fun hnone => absurd (List.isEmpty_iff.2 hnone) hsome,
      fun _ hruns => halts_launchVoid ht hruns⟩

section
variable (ht : taskOf s n = some t) (hi : imageOf s t = some i) (hready : launchReady s n = true) (hdue : missesLaunch s t = false)
  (hok : launchRefusal s t i = 0) (hV : V = variantBy i (pickVariant s i).2)
  (hreads : (readLines (launchStore V t s) false (launchLines (launchStore V t s) V)).2.1 = 0)

include ht hi hready hdue hok hV hreads

theorem taskLaunchBoundary_starts (hsound : launchScaleBad ((pointBlocks V).map (readPoint (launchStore V t s))) = false) (hrooms : V.rooms ≠ []) :
    answers (.taskLaunchBoundary n) s fun u =>
      (∃ v, taskOf u n = some v ∧ v.state = .launched ∧ v.launch = some (beatOf s) ∧ v.launchUp = upBeat s ∧ v.rooms = V.rooms.map (·.room) ∧
        v.v15 = (pickVariant s i).2 ∧ v.ended = [] ∧ v.wrote = []) ∧
      (∀ r ∈ V.rooms, (roomOf u r.room).task = some t.num ∧ (roomOf u r.room).g = launchRegs t r.room ∧ (roomOf u r.room).ctr = [] ∧
        (roomOf u r.room).inflight = [] ∧ (roomOf u r.room).hold = .none ∧ (roomOf u r.room).fault = none) ∧
      ∀ k, k ∉ V.rooms.map (·.room) → roomOf u k = roomOf s k := by
  have hlaunched := taskOf_launchedState (V := V) (t := t) (i := i) ht
  refine answers_due rfl hready ?_
  rw [launchBoundaryEff_launches ht hi hdue hok, launchTask_launches hV hreads, hsound, if_neg Bool.false_ne_true,
    endBare_rooms hlaunched (by simpa [launchedTask] using hrooms)]
  exact ⟨⟨_, hlaunched, rfl, rfl, rfl, rfl, rfl, rfl, rfl⟩, fun r hr => launchedState_starts (List.mem_map_of_mem hr), fun k hk => launchedState_room_ne hk⟩

theorem taskLaunchBoundary_bare (hsound : launchScaleBad ((pointBlocks V).map (readPoint (launchStore V t s))) = false) (hrooms : V.rooms = [])
    (hmembers : t.members ≠ []) (hmember : t.member ≠ 0) (hruns : t.halting = false) : answers (.taskLaunchBoundary n) s fun u =>
      ∃ v, taskOf u n = some v ∧ v.state = .launched ∧ ∀ m ∈ v.members, m.member = t.member → m.ended = true := by
  have hlaunched := taskOf_launchedState (V := V) (t := t) (i := i) ht
  refine answers_due rfl hready ?_
  rw [launchBoundaryEff_launches ht hi hdue hok, launchTask_launches hV hreads, hsound, if_neg Bool.false_ne_true,
    endBare_member hlaunched rfl hruns (by simp [launchedTask, hrooms]) (by simpa [launchedTask] using hmembers) hmember,
    taskOf_of_tasks (sendMgmt_steward_tasks ..)]
  exact markEnded_marks hlaunched

theorem taskLaunchBoundary_scale (hbad : launchScaleBad ((pointBlocks V).map (readPoint (launchStore V t s))) = true) (hruns : t.halting = false) :
    answers (.taskLaunchBoundary n) s fun u => halts u n 0x308 := by
  have hhalts : halts (haltTask n 0x308 (some (plainFault 0x308)) false (launchedState V n t i s)) n 0x308 := halts_haltTask (taskOf_launchedState ht) rfl hruns
  refine answers_due rfl hready ?_
  rw [launchBoundaryEff_launches ht hi hdue hok, launchTask_launches hV hreads, hbad, if_pos rfl, endBare_halting hhalts]
  exact hhalts

end

end

end Sys2Proof.Machine

/-!
The rooms of a task report their end, it completes, and its record is acknowledged (11 R335, R342, R346).
-/
namespace Sys2Proof.Machine

section
variable {s u : State} {n k q room code : Nat} {t v : Task} {i : Image} {x : Queue}

/-! The commit of a task's points (04 R92). -/

/-- A point that commits is noted at its task at most by what was lost or saturated. -/
theorem taskOf_commitPoint (rooms : List Nat) (p : PointL) (hv : taskOf s n = some v) :
    ∃ lost sat, taskOf (commitPoint n rooms p s) n = some { v with qlost := lost, qsat := sat } := by
  have hput : ∀ st, taskOf (putStore st s) n = some v := fun st => (taskOf_of_tasks (putStore_steward_tasks ..) n).trans hv
  have hstored : ∀ f st, taskOf (modStore f (putStore st s)) n = some v := fun _ st => hput st
  unfold commitPoint
  dsimp only
  split
  · rw [taskOf_of_tasks ((blameBank_only (P := (· ≠ .tasks)) (by simp) (by simp) (by simp) (by simp) _ _ only_refl).steward_tasks (by simp)),
      taskOf_modTask (by exact fun _ => rfl), hput, Option.map_some, if_pos (taskOf_num hv)]
    exact ⟨true, v.qsat, rfl⟩
  · rw [taskOf_modTask (by exact fun _ => rfl), hstored, Option.map_some, if_pos (taskOf_num hv)]
    exact ⟨v.qlost, _, rfl⟩

theorem taskOf_commitAll (rooms : List Nat) : ∀ (ps : List PointL) {s : State} {v : Task}, taskOf s n = some v →
    ∃ lost sat, taskOf (commitAll n rooms ps s) n = some { v with qlost := lost, qsat := sat }
  | [], _, v, hv => ⟨v.qlost, v.qsat, hv⟩
  | p :: ps, _, _, hv => by
    obtain ⟨lost, sat, hp⟩ := taskOf_commitPoint rooms p hv
    obtain ⟨lost', sat', hps⟩ := taskOf_commitAll rooms ps hp
    exact ⟨lost', sat', hps⟩

/-! The completion point (11 R342, R346). -/

/-- The task as its counters have been taken. -/
def countedTask (s : State) (v x : Task) : Task :=
  { x with counts := v.rooms.foldl (fun c r => countsAdd c (roomOf s r).counts) countsZero, abortBy := [], fault := x.fault0, others := 0 }

/-- The state in which a task that completes has committed its points and given up its rooms, and its aborts are answered. -/
def releasedState (n : Nat) (v : Task) (s : State) : State :=
  answerAborts 0x0210 0 v.abortBy (releaseTask n (modTask n (countedTask s v) (commitAll n v.rooms v.points s)))

theorem completePoint_completes (hv : taskOf s n = some v) : completePoint n s = promote (finishTask n .completed 0 (releasedState n v s)) := by
  simp only [completePoint, hv]
  rfl

theorem taskOf_counted (hv : taskOf s n = some v) : ∃ x, taskOf (modTask n (countedTask s v) (commitAll n v.rooms v.points s)) n = some x ∧ x.rooms = v.rooms := by
  obtain ⟨lost, sat, hcommitted⟩ := taskOf_commitAll v.rooms v.points hv
  exact ⟨_, taskOf_modTask_same n _ (by exact fun _ => rfl) _ _ hcommitted, rfl⟩

theorem taskOf_releasedState (hv : taskOf s n = some v) : ∃ x, taskOf (releasedState n v s) n = some x := by
  obtain ⟨x, hx, -⟩ := taskOf_counted hv
  refine ⟨x, (taskOf_of_tasks ?_ n).trans hx⟩
  exact (answerAborts_only (P := (· ≠ .tasks)) (by simp) (by simp) (by simp) _ _ _
    (releaseTask_only (by simp) (by simp) (by simp) (by simp) (by simp) _ only_refl)).steward_tasks (by simp)

theorem releasedState_room {r : Nat} (hv : taskOf s n = some v) (hr : r ∈ v.rooms) : (roomOf (releasedState n v s) r).task = none := by
  obtain ⟨x, hx, hrooms⟩ := taskOf_counted hv
  rw [releasedState, roomOf_of_rooms (answerAborts_rooms ..)]
  exact releaseTask_task hx (hrooms ▸ hr)

theorem upBeat_releasedState : upBeat (releasedState n v s) = upBeat s := by
  have htime : (releasedState n v s).time = s.time := by
    refine changesOnly.time (P := (· ≠ .time)) ?_ (by simp)
    exact answerAborts_only (by simp) (by simp) (by simp) _ _ _ (releaseTask_only (by simp) (by simp) (by simp) (by simp) (by simp) _
      (modTask_only (by simp) _ _ (commitAll_only (by simp) (by simp) (by simp) (by simp) (by simp) (by simp) _ _ _ only_refl)))
  rw [upBeat, htime, upBeat]

/-- A completed task's record is written from the next boundary on (log 94). -/
theorem taskOf_finishTask_completed (hv : taskOf s n = some v) : taskOf (finishTask n .completed code s) n = some { v with
    state := .completed, status := code, endBeat := upBeat s, halting := false, parked := false, record := .toWrite } := by
  simp only [finishTask, hv, if_true]
  exact taskOf_modTask_same n _ (by exact fun _ => rfl) s v hv

theorem completePoint_task (hv : taskOf s n = some v) :
    ∃ x, taskOf (completePoint n s) n = some x ∧ x.state = .completed ∧ x.status = 0 ∧ x.endBeat = upBeat s ∧ x.record = .toWrite := by
  obtain ⟨x, hx⟩ := taskOf_releasedState hv
  obtain ⟨y, hy, hpromoted⟩ := taskOf_promote (taskOf_finishTask_completed (code := 0) hx)
  rw [hpromoted.stays (by decide : TState.completed ≠ TState.queued)] at hy
  rw [completePoint_completes hv]
  exact ⟨_, hy, rfl, rfl, upBeat_releasedState, rfl⟩

theorem completePoint_room {r : Nat} (hv : taskOf s n = some v) (hr : r ∈ v.rooms) : (roomOf (completePoint n s) r).task = none := by
  rw [completePoint_completes hv, roomOf_of_rooms ((promote_leaves ..).rooms (by decide)), roomOf_of_rooms ((finishTask_leaves ..).rooms (by decide))]
  exact releasedState_room hv hr

/-! END_REPORT. -/

theorem endReady_running (h : endReady s n room = true) : ∃ t i, runningTask s n = some (t, i) := by
  unfold endReady at h
  split at h
  next t i hrunning => exact ⟨t, i, hrunning⟩
  next => cases h

/-- The state in which the room's report is noted. -/
def reportNoted (n room : Nat) (s : State) : State := modTask n (fun t => { t with ended := t.ended ++ [room] }) s

theorem taskOf_reportNoted (ht : taskOf s n = some t) : taskOf (reportNoted n room s) n = some { t with ended := t.ended ++ [room] } :=
  taskOf_modTask_same n _ (by exact fun _ => rfl) s t ht

theorem endReportEff_ends (ht : taskOf s n = some t) :
    endReportEff s n room = if t.rooms.all (t.ended ++ [room]).contains then allEnded n (reportNoted n room s) else reportNoted n room s := by
  have hnoted := taskOf_reportNoted (room := room) ht
  rw [reportNoted] at hnoted
  simp only [endReportEff, hnoted]
  rfl

theorem allEnded_alone (hv : taskOf s n = some v) (halone : v.members = []) : allEnded n s = completePoint n s := by
  simp [allEnded, hv, halone]

theorem endReport_reports (ht : taskOf s n = some t) (hroom : hasRoom s room = true) (hready : endReady s n room = true) :
    answers (.endReport n room) s fun u =>
      ((∃ r ∈ t.rooms, r ∉ t.ended ++ [room]) → (∃ v, taskOf u n = some v ∧ v.state = .launched ∧ v.ended = t.ended ++ [room]) ∧ u.rooms = s.rooms ∧ u.store = s.store) ∧
      ((∀ r ∈ t.rooms, r ∈ t.ended ++ [room]) → t.members = [] → (∃ v, taskOf u n = some v ∧ v.state = .completed ∧ v.status = 0 ∧ v.endBeat = upBeat s ∧ v.record = .toWrite) ∧
        ∀ r ∈ t.rooms, (roomOf u r).task = none) := by
  obtain ⟨t', i, hrunning⟩ := endReady_running hready
  obtain ⟨ht', hlaunched, -⟩ := runningTask_some hrunning
  cases Option.some.inj (ht'.symm.trans ht)
  have hall : t.rooms.all (t.ended ++ [room]).contains = true ↔ ∀ r ∈ t.rooms, r ∈ t.ended ++ [room] := by simp only [List.all_eq_true, List.contains_iff_mem]
  refine answers_dueAt rfl hroom hready ?_
  rw [endReportEff_ends ht]
  split
  next hdone =>
    refine ⟨fun ⟨r, hr, hnot⟩ => absurd (hall.1 hdone r hr) hnot, fun _ halone => ?_⟩
    have hnoted := taskOf_reportNoted (room := room) ht
    rw [allEnded_alone hnoted halone]
    exact ⟨completePoint_task hnoted, fun r hr => completePoint_room hnoted hr⟩
  next hnot => exact ⟨fun _ => ⟨⟨_, taskOf_reportNoted ht, hlaunched, rfl⟩, rfl, rfl⟩, fun hdone => absurd (hall.2 hdone) hnot⟩

/-! COMPLETION_RECORD_ACK (11 R342). -/

/-- Where the record of each task stands. -/
def taskRecords (s : State) : List (Nat × RecState) := s.steward.tasks.map fun t => (t.num, t.record)

/-- There is a task of the number, and the record of it is written. -/
def recordWritten (n : Nat) (s : State) : Prop := (∃ x ∈ taskRecords s, x.1 = n) ∧ ∀ x ∈ taskRecords s, x.1 = n → x.2 = .written

theorem recordWritten_of_records (h : recordWritten n s) (hu : taskRecords u = taskRecords s) : recordWritten n u := by rwa [recordWritten, hu]

theorem recordWritten_of_tasks (h : recordWritten n s) (hu : u.steward.tasks = s.steward.tasks) : recordWritten n u :=
  recordWritten_of_records h (by rw [taskRecords, hu, taskRecords])

theorem recordWritten_task (h : recordWritten n s) : ∃ v, taskOf s n = some v ∧ v.record = .written := by
  obtain ⟨⟨_, hin, hnum⟩, hall⟩ := h
  obtain ⟨t, ht, rfl⟩ := List.mem_map.1 hin
  have hsome : (taskOf s n).isSome := List.find?_isSome.2 ⟨t, ht, by simpa using hnum⟩
  obtain ⟨v, hv⟩ := Option.isSome_iff_exists.1 hsome
  exact ⟨v, hv, hall _ (List.mem_map_of_mem (taskOf_mem hv)) (taskOf_num hv)⟩

theorem recordWritten_modTask (ht : taskOf s n = some t) : recordWritten n (modTask n (fun t => { t with record := .written }) s) := by
  refine ⟨⟨_, List.mem_map_of_mem (taskOf_mem (taskOf_modTask_same n (fun t => { t with record := .written }) (fun _ => rfl) s t ht)), taskOf_num ht⟩, ?_⟩
  intro x hx hnum
  obtain ⟨y, hy, rfl⟩ := List.mem_map.1 hx
  obtain ⟨z, -, rfl⟩ := List.mem_map.1 hy
  by_cases hz : z.num = n
  · simp [hz]
  · simp [hz] at hnum

theorem taskRecords_modTask {g : Task → Task} (hg : ∀ t, (g t).num = t.num ∧ (g t).record = t.record) : taskRecords (modTask k g s) = taskRecords s := by
  simp only [taskRecords, modTask, List.map_map]
  refine List.map_congr_left fun t _ => ?_
  obtain ⟨hnum, hrecord⟩ := hg t
  simp only [Function.comp]
  split
  · rw [hnum, hrecord]
  · rfl

theorem taskRecords_promoteQueue (q : Nat) (s : State) : taskRecords (promoteQueue q s) = taskRecords s := by
  fun_cases promoteQueue q s
  case case2 => exact taskRecords_modTask (s := { s with steward := { s.steward with elig := s.steward.elig + 1 } }) fun _ => ⟨rfl, rfl⟩
  all_goals rfl

theorem taskRecords_promoteList : ∀ (qs : List Nat) (s : State), taskRecords (promoteList qs s) = taskRecords s
  | [], _ => rfl
  | q :: qs, s => (taskRecords_promoteList qs _).trans (taskRecords_promoteQueue q s)

theorem taskRecords_promote (s : State) : taskRecords (promote s) = taskRecords s := taskRecords_promoteList _ s

theorem taskRecords_setFence (f : Nat) (sig : Bool) (s : State) : taskRecords (setFence f sig s) = taskRecords s := by
  unfold setFence
  dsimp only
  split
  · rfl
  · rw [taskRecords_promote, taskRecords, (putMirror_leaves ..).steward_tasks (by decide)]
    dsimp only
    split
    · rw [List.map_map, taskRecords]
      refine List.map_congr_left fun t _ => ?_
      simp only [Function.comp]
      split <;> rfl
    · rfl

/-- A record that is begun is one that was still to be written. -/
theorem recordWritten_tryRecord (q : Nat) (h : recordWritten n s) : recordWritten n (tryRecord q s) := by
  fun_cases tryRecord q s
  case case4 y _ _ t hfound =>
    refine recordWritten_of_tasks ?_ (issueReq_steward_tasks ..)
    have hother : t.num ≠ n := fun hnum => by
      have hwaits : t.record = .toWrite := by
        have := List.find?_some hfound
        simp only [Bool.and_eq_true, beq_iff_eq] at this
        exact this.2
      have hwritten := h.2 _ (List.mem_map_of_mem (List.mem_of_find?_eq_some hfound)) hnum
      exact absurd (hwaits.symm.trans hwritten) (by decide)
    have hstands : ∀ z : Task, z.num = n → (if z.num = t.num then { z with record := .writing } else z) = z := fun z hz =>
      if_neg fun heq => hother (heq.symm.trans hz)
    obtain ⟨⟨w, hw, hwn⟩, hall⟩ := h
    obtain ⟨z, hz, rfl⟩ := List.mem_map.1 hw
    refine ⟨⟨_, List.mem_map_of_mem (List.mem_map_of_mem hz), by dsimp only; rw [hstands z hwn]; exact hwn⟩, fun y hy hyn => ?_⟩
    obtain ⟨a, ha, rfl⟩ := List.mem_map.1 hy
    obtain ⟨b, hb, rfl⟩ := List.mem_map.1 ha
    have hbn : b.num = n := by
      rw [← hyn]
      dsimp only
      split <;> rfl
    dsimp only
    rw [hstands b hbn]
    exact hall _ (List.mem_map_of_mem hb) hbn
  all_goals exact h

/-- The state in which the record is written and the ring's tail has moved. -/
def recordNoted (n : Nat) (t : Task) (s : State) : State :=
  putStatus t.queue (modQueue t.queue (fun q => { q with cplTail := (q.cplTail + 1) % 2 ^ 32 }) (modTask n (fun t => { t with record := .written }) s))

/-- The fence of a completed task is signalled (11 R342). -/
def fenceTold (t : Task) (s : State) : State :=
  match t.state, t.sigFence with
  | .completed, some f => setFence f true s
  | _, _ => s

/-- The host is told, and a status that is not OK is traced (11 R335). -/
def hostTold (t : Task) (s : State) : State :=
  let c := if t.notify then addEvt ⟨2, t.queue, t.ctx, t.seq.toNat, if t.num < 2 ^ 32 then t.num else 2 ^ 32 - 1, 0⟩ s else s
  if t.status = 0 then c else trace 1 t.status c

theorem recordAckEff_acks (ht : taskOf s n = some t) :
    recordAckEff s n = resetAnswer (promote (endQueue t.queue (tryRecord t.queue (hostTold t (fenceTold t (recordNoted n t s)))))) := by
  simp only [recordAckEff, ht]
  rfl

theorem hostTold_leaves (t : Task) (s : State) : changesOnly (· ∈ ([.messages, .side] : List Part)) s (hostTold t s) := by
  have htold : ∀ e, changesOnly (· ∈ ([.messages, .side] : List Part)) s (if t.notify then addEvt e s else s) := fun e => by
    split
    · exact addEvt_only (by decide) e only_refl
    · exact only_refl
  unfold hostTold
  dsimp only
  split
  · exact htold _
  · exact trace_only (by decide) _ _ (htold _)

theorem fenceTold_leaves (t : Task) (s : State) : changesOnly (· ∈ ([.fences, .tasks, .requests, .messages, .porch] : List Part)) s (fenceTold t s) := by
  unfold fenceTold
  split
  · exact setFence_leaves ..
  · exact only_refl

theorem recordWritten_fenceTold (h : recordWritten n s) : recordWritten n (fenceTold t s) := by
  unfold fenceTold
  split
  · exact recordWritten_of_records h (taskRecords_setFence ..)
  · exact h

/-- The state before a destruction of the queue that waits is looked at. -/
def recordsMoved (n : Nat) (t : Task) (s : State) : State := tryRecord t.queue (hostTold t (fenceTold t (recordNoted n t s)))

theorem recordsMoved_queues : (recordsMoved n t s).steward.queues =
    (modQueue t.queue (fun q => { q with cplTail := (q.cplTail + 1) % 2 ^ 32 }) s).steward.queues := by
  rw [recordsMoved, (tryRecord_leaves ..).steward_queues (by decide), (hostTold_leaves ..).steward_queues (by decide),
    (fenceTold_leaves ..).steward_queues (by decide), recordNoted, (putStatus_leaves ..).steward_queues (by decide)]
  rfl

theorem recordsMoved_written (ht : taskOf s n = some t) : recordWritten n (recordsMoved n t s) := by
  have hnoted : recordWritten n (recordNoted n t s) :=
    recordWritten_of_tasks (recordWritten_modTask ht) ((putStatus_leaves ..).steward_tasks (by decide))
  exact recordWritten_tryRecord _ (recordWritten_of_tasks (recordWritten_fenceTold hnoted) ((hostTold_leaves ..).steward_tasks (by decide)))

theorem queueOf_recordsMoved (hx : queueOf s t.queue = some x) :
    queueOf (recordsMoved n t s) t.queue = some { x with cplTail := (x.cplTail + 1) % 2 ^ 32 } :=
  (queueOf_of_queues recordsMoved_queues _).trans (queueOf_modQueue_same (by exact fun _ => rfl) hx)

/-- A queue that is not being destroyed goes on. -/
theorem endQueue_open (hopen : ∀ x, queueOf s q = some x → x.closing = none) : endQueue q s = s := by
  rcases hx : queueOf s q with _ | x
  · simp only [endQueue, hx]
  · simp only [endQueue, hx, hopen x hx]

theorem recordAckEff_open (ht : taskOf s n = some t) (hopen : ∀ x, queueOf s t.queue = some x → x.closing = none) :
    recordAckEff s n = resetAnswer (promote (recordsMoved n t s)) := by
  have hstill : ∀ x, queueOf (recordsMoved n t s) t.queue = some x → x.closing = none := by
    intro x hx
    rw [queueOf_of_queues recordsMoved_queues, queueOf_modQueue (by exact fun _ => rfl)] at hx
    obtain ⟨y, hy, rfl⟩ := Option.map_eq_some_iff.1 hx
    rw [apply_ite Queue.closing]
    exact (ite_self _).trans (hopen y hy)
  rw [recordAckEff_acks ht, ← recordsMoved, endQueue_open hstill]

theorem resetAnswer_leaves (s : State) : changesOnly (· ∈ ([.mboxes, .requests, .messages, .seq] : List Part)) s (resetAnswer s) :=
  resetAnswer_only (by decide) (by decide) (by decide) (by decide) only_refl

theorem recordsMoved_fence {f : Nat} (hdone : t.state = .completed) (hf : t.sigFence = some f) (hctx : (fenceOf s f).ctx ≠ none) :
    (fenceOf (recordsMoved n t s) f).signalled = true := by
  have hkept : fenceOf (recordNoted n t s) f = fenceOf s f := fenceOf_of_fences ((putStatus_leaves ..).steward_fences (by decide)) f
  rw [recordsMoved, fenceOf_of_fences ((tryRecord_leaves ..).steward_fences (by decide)), fenceOf_of_fences ((hostTold_leaves ..).steward_fences (by decide)),
    fenceTold]
  simp only [hdone, hf]
  rw [fenceOf_setFence_same true (by rwa [hkept])]

theorem completionRecordAck_acks (ht : taskOf s n = some t) (hready : recordAckReady s n = true) (hopen : ∀ x, queueOf s t.queue = some x → x.closing = none) :
    answers (.completionRecordAck n) s fun u => (∃ v, taskOf u n = some v ∧ v.record = .written) ∧
      (∀ x, queueOf s t.queue = some x → ∃ y, queueOf u t.queue = some y ∧ y.cplTail = (x.cplTail + 1) % 2 ^ 32) ∧
      (∀ f, t.state = .completed → t.sigFence = some f → (fenceOf s f).ctx ≠ none → (fenceOf u f).signalled = true) := by
  refine answers_due rfl hready ?_
  rw [recordAckEff_open ht hopen]
  refine ⟨?_, fun x hx => ?_, fun f hdone hf hctx => ?_⟩
  · exact recordWritten_task (recordWritten_of_tasks (recordWritten_of_records (recordsMoved_written ht) (taskRecords_promote _))
      ((resetAnswer_leaves ..).steward_tasks (by decide)))
  · rw [queueOf_of_queues ((resetAnswer_leaves ..).steward_queues (by decide)), queueOf_of_queues ((promote_leaves ..).steward_queues (by decide))]
    exact ⟨_, queueOf_recordsMoved hx, rfl⟩
  · rw [fenceOf_of_fences ((resetAnswer_leaves ..).steward_fences (by decide)), fenceOf_of_fences ((promote_leaves ..).steward_fences (by decide))]
    exact recordsMoved_fence hdone hf hctx

end

/-- Settles O16: the launch by its checks, the report by the rooms still to end, and the record by what may still write it. -/
theorem tasksLaunchAndEnd : Obligations.TasksLaunchAndEnd := by
  intro s n t i ht hi
  refine ⟨?_, fun hready hlate hruns => taskLaunchBoundary_late ht hi hready hlate hruns,
    fun hready hdue hbad => taskLaunchBoundary_refused ht hi hready hdue hbad, fun room hroom hready => endReport_reports ht hroom hready,
    fun hready hopen => completionRecordAck_acks ht hready hopen⟩
  rintro hready hdue hok V _ hV rfl hreads _ rfl
  exact ⟨fun hsound hrooms => taskLaunchBoundary_starts ht hi hready hdue hok hV hreads hsound hrooms,
    fun hsound hrooms hmembers hmember hruns => taskLaunchBoundary_bare ht hi hready hdue hok hV hreads hsound hrooms hmembers hmember hruns,
    fun hbad hruns => taskLaunchBoundary_scale ht hi hready hdue hok hV hreads hbad hruns⟩

end Sys2Proof.Machine

/-!
What a lane port keeps, and what comes and goes on its lane (14 R418 to R431).
-/
namespace Sys2Proof.Machine

section
variable {α : Type} {s t u : State} {g p q r k n b sl lane beat pos low : Nat} {x y : Port} {bytes : List Byte}

/-! Ports of one gatehouse: a change of a port is in its entry alone. -/

theorem portOf_of_links (h : u.links = s.links) (g p : Nat) : portOf u g p = portOf s g p := by rw [portOf, h, portOf]

theorem portOf_of_ports (h : u.links.ports = s.links.ports) (g p : Nat) : portOf u g p = portOf s g p := by rw [portOf, h, portOf]

theorem portOf_putPort_ne (hq : q ≠ p) : portOf (putPort g q x s) g p = portOf s g p := by
  have hkey : portKey g q ≠ portKey g p := fun h => hq (Nat.add_left_cancel h)
  rw [portOf, putPort, tabGet_put, if_neg hkey, portOf]

theorem portOf_modPort_ne {f : Port → Port} (hq : q ≠ p) : portOf (modPort g q f s) g p = portOf s g p := portOf_putPort_ne hq

/-- What a change of any port leaves as it is in each. -/
theorem field_modPort (field : Port → α) {f : Port → Port} (hf : ∀ x, field (f x) = field x) (q : Nat) (s : State) :
    field (portOf (modPort g q f s) g p) = field (portOf s g p) := by
  by_cases hq : q = p
  · rw [hq, portOf_modPort, hf]
  · rw [portOf_modPort_ne hq]

theorem field_modPorts (field : Port → α) {f : Nat → Port → Port} (hf : ∀ q x, field (f q x) = field x) : ∀ (ps : List Nat) (s : State),
    field (portOf (modPorts g f ps s) g p) = field (portOf s g p)
  | [], _ => rfl
  | q :: ps, s => (field_modPorts field hf ps _).trans (field_modPort field (hf q) q s)

theorem portOf_modPorts_notMem {f : Nat → Port → Port} : ∀ (ps : List Nat) (s : State), p ∉ ps → portOf (modPorts g f ps s) g p = portOf s g p
  | [], _, _ => rfl
  | q :: ps, s, hp => by
    obtain ⟨hq, hps⟩ := not_or.1 fun h => hp (List.mem_cons.2 h)
    rw [modPorts, portOf_modPorts_notMem ps _ hps, portOf_modPort_ne (Ne.symm hq)]

/-- A bundle's slots that are taken concern what a port has delivered and lost alone. -/
theorem field_takeSlots (field : Port → α) (hf : ∀ x ds ls, field { x with delivered := ds, lostLs := ls } = field x) (b : Nat) (s : State) :
    field (portOf (takeSlots g b s) g p) = field (portOf s g p) := by
  unfold takeSlots
  exact (field_modPorts field (fun _ x => hf x _ _) _ _).trans (congrArg field (portOf_of_links rfl g p))

theorem field_markLatency (field : Port → α) (hf : ∀ x l, field { x with latExcess := l } = field x) (b lat : Nat) (s : State) :
    field (portOf (markLatency g b lat s) g p) = field (portOf s g p) := field_modPorts field (fun _ x => hf x _) _ _

theorem field_moveLatency (field : Port → α) (hf : ∀ x l, field { x with latExcess := l } = field x) (b : Nat) (s : State) :
    field (portOf (moveLatency g b s) g p) = field (portOf s g p) :=
  (field_markLatency field hf b _ _).trans (congrArg field (portOf_of_links rfl g p))

/-! Received blocks that need no step of their own (14 R418, R419). -/

/-- What passing over received blocks may change of a port. -/
structure Passed (x y : Port) : Prop where
  same : ∃ rxq replay test rxBeat rxPos badBlocks, y = { x with
    rxq := rxq, replay := replay, test := test, rxBeat := rxBeat, rxPos := rxPos, badBlocks := badBlocks }

theorem Passed.refl : Passed x x := ⟨x.rxq, x.replay, x.test, x.rxBeat, x.rxPos, x.badBlocks, rfl⟩

theorem Passed.trans {z : Port} (h : Passed x y) (h' : Passed y z) : Passed x z := by
  obtain ⟨a, b, c, d, e, f, rfl⟩ := h
  obtain ⟨a', b', c', d', e', f', rfl⟩ := h'
  exact ⟨a', b', c', d', e', f', rfl⟩

/-- Whatever does not speak of those fields is the same. -/
theorem Passed.field (h : Passed x y) (field : Port → α)
    (hf : ∀ x rxq replay test rxBeat rxPos badBlocks, field { x with
      rxq := rxq, replay := replay, test := test, rxBeat := rxBeat, rxPos := rxPos, badBlocks := badBlocks } = field x) : field y = field x := by
  obtain ⟨a, b, c, d, e, f, rfl⟩ := h
  exact hf x a b c d e f

theorem passed_rxNext (x : Port) (lost : Bool) : Passed x (rxNext x lost) := by
  unfold rxNext
  split
  · exact ⟨x.rxq, x.replay, x.test, _, _, x.badBlocks, rfl⟩
  · exact ⟨x.rxq, x.replay, x.test, x.rxBeat, _, x.badBlocks, rfl⟩

theorem passed_skipTest (x : Port) : Passed x (skipTest x) := by
  unfold skipTest
  split
  · exact ⟨x.rxq, x.replay, _, x.rxBeat, x.rxPos, x.badBlocks, rfl⟩
  · exact .refl

theorem passed_rxDamaged (x : Port) : Passed x (rxDamaged x) := by
  unfold rxDamaged
  dsimp only
  split
  · exact Passed.trans ⟨x.rxq, _, x.test, x.rxBeat, x.rxPos, x.badBlocks, rfl⟩ (passed_rxNext ..)
  · exact (passed_skipTest x).trans (passed_rxNext ..)

theorem passed_rxSettle (is : List RxItem) (x : Port) : Passed x (rxSettle is x) := by
  fun_induction rxSettle is x
  case case1 x => exact ⟨_, x.replay, x.test, x.rxBeat, x.rxPos, x.badBlocks, rfl⟩
  case case2 ih => exact (passed_rxDamaged _).trans ih
  case case3 ih => exact (passed_rxNext ..).trans ih
  case case4 x ih =>
    exact (Passed.mk ⟨x.rxq, x.replay, x.test, x.rxBeat, x.rxPos, _, rfl⟩ : Passed x { x with badBlocks := satInc 15 x.badBlocks }).trans
      ((passed_rxDamaged _).trans ih)
  case case5 x _ _ => exact ⟨_, x.replay, x.test, x.rxBeat, x.rxPos, x.badBlocks, rfl⟩

theorem passed_rxPop (x : Port) : Passed x (rxPop x) := (passed_rxNext x false).trans (passed_rxSettle ..)

/-! Lane-slots received (14 R425). -/

/-- Lane-slots that are put and delivered leave the rest of the port. -/
theorem field_deliver (field : Port → α) (hf : ∀ x ds ss nl, field { x with delivered := ds, rxSlots := ss, nextLs := nl } = field x) : ∀ (n : Nat) (x : Port),
    field (deliver n x) = field x
  | 0, _ => rfl
  | n + 1, x => by
    rw [deliver]
    split
    · rfl
    · split
      · rfl
      · split
        · exact (field_deliver field hf n _).trans (hf x _ _ _)
        · rfl

theorem field_rxPut (field : Port → α) (hf : ∀ x ds ss nl, field { x with delivered := ds, rxSlots := ss, nextLs := nl } = field x) (x : Port) (beat sl k : Nat)
    (bs : List Byte) : field (rxPut x beat sl k bs) = field x := by
  fun_cases rxPut x beat sl k bs
  case case4 => exact (field_deliver field hf _ _).trans (hf x x.delivered _ x.nextLs)
  all_goals rfl

/-! BLOCK_TRANSMIT (14 R420, R426). -/

theorem field_giveBytes (field : Port → α) (hf : ∀ x q, field { x with txq := q } = field x) (n len : Nat) : ∀ (ps : List Nat) (bs : List Byte) (s : State),
    field (portOf (giveBytes g n len ps bs s) g p) = field (portOf s g p)
  | [], _, _ => rfl
  | q :: ps, _, s => (field_giveBytes field hf n len ps _ _).trans (field_modPort field (fun x => hf x _) q s)

theorem field_cutSlot (field : Port → α) (hf : ∀ x q, field { x with txq := q } = field x) (b beat sl : Nat) (s : State) :
    field (portOf (cutSlot g b beat sl s) g p) = field (portOf s g p) := by
  unfold cutSlot
  exact (field_giveBytes field hf _ _ _ _ _).trans (congrArg field (portOf_of_links rfl g p))

/-- The cut of a slot leaves of a port all but the bytes that it sends. -/
theorem field_beginSlot (field : Port → α) (hf : ∀ x q, field { x with txq := q } = field x) (p : Nat) (s : State) :
    field (portOf (beginSlot g p s) g p) = field (portOf s g p) := by
  unfold beginSlot
  dsimp only
  split
  · rfl
  · refine (field_modPort field (fun x => hf x _) p _).trans ?_
    split
    · rfl
    · exact field_cutSlot field hf _ _ _ s

theorem atBeatStart_beginSlot : atBeatStart (beginSlot g p s) (portOf (beginSlot g p s) g p) = atBeatStart s (portOf s g p) := by
  have hfields := field_beginSlot (g := g) (fun x => (x.txPos, x.rate, x.txBeat)) (fun _ _ => rfl) p s
  simp only [Prod.mk.injEq] at hfields
  obtain ⟨hpos, hrate, hbeat⟩ := hfields
  have htime : beatOf (beginSlot g p s) = beatOf s := by
    rw [beatOf, (beginSlot_only (P := (· ≠ .time)) (by simp) (by simp) g p only_refl).time (by simp), beatOf]
  rw [atBeatStart, hpos, hrate, hbeat, htime, atBeatStart]

theorem recordSent_txPos (x : Port) (b : Block) (again : Bool) : (recordSent x b again).txPos = x.txPos + 1 := by
  unfold recordSent
  dsimp only
  split <;> rfl

theorem spareBlock_txPos (s : State) (g p : Nat) (x : Port) : (spareBlock s g p x).2.txPos = x.txPos := by
  fun_cases spareBlock s g p x <;> rfl

theorem testBlock_txPos (x : Port) : (testBlock x).2.txPos = x.txPos := by
  fun_cases testBlock x <;> rfl

/-- The block chosen is at position 0 where a beat starts, and else where the port stands. -/
theorem txBlock_txPos (s : State) (g p : Nat) (x : Port) (bytes : List Byte) : (txBlock s g p x bytes).2.1.txPos = if atBeatStart s x then 0 else x.txPos := by
  unfold txBlock
  split
  · rfl
  · split
    · rfl
    · split
      · rfl
      · split
        · rfl
        · split
          · exact testBlock_txPos x
          · rfl
      · exact spareBlock_txPos s g p x

theorem blockTransmit_moves (hthere : portThere s g p = true) (hready : blockTransmitReady s g p bytes = true) :
    answers (.blockTransmit g p bytes) s fun u => (portOf u g p).txPos = if atBeatStart s (portOf s g p) then 1 else (portOf s g p).txPos + 1 := by
  refine answers_dueAt rfl hthere hready ?_
  rw [blockTransmitEff]
  rw [portOf_putPort, recordSent_txPos, txBlock_txPos, atBeatStart_beginSlot, field_beginSlot Port.txPos fun _ _ => rfl]
  split <;> rfl

/-! CODEWORD_DECODE (14 R418). -/

theorem codewordDecode_counts {errors : Nat} {blocks : List Block} (hthere : portThere s g p = true) (hready : codewordReady s g p blocks = true) :
    answers (.codewordDecode g p errors blocks) s fun u => if errors ≤ 15 then
      (portOf u g p).corrected = min (2 ^ 32 - 1) ((portOf s g p).corrected + errors) else (portOf u g p).uncorr = satInc 65535 (portOf s g p).uncorr := by
  refine answers_dueAt rfl hthere hready ?_
  rw [codewordEff]
  dsimp only
  split
  · rw [portOf_putPort, (passed_rxSettle ..).field Port.corrected fun _ _ _ _ _ _ _ => rfl]
    rfl
  · rw [portOf_putPort, (passed_rxSettle ..).field Port.uncorr fun _ _ _ _ _ _ _ => rfl]

/-! The blocks that name a place: BEAT_MARK and SLOT_MARK (14 R420, R421). -/

/-- What the mark itself makes of the port that has it. -/
def markedPort (s : State) (beat prevEnd lane : Nat) (x : Port) : Port :=
  { x with
    rxBeat := beat, rxPos := 0, rxPrevEnd := prevEnd, rxLane := lane, markBeat := upBeat s, rxVia := none, replay := none, arrives := noteMark x.arrives beat (comes s x),
    nextLs := if lane = 0x1F then none else match x.nextLs with
      | some n => some n
      | none => some (64 * beat) }

theorem beatMarkEff_ports (s : State) (g p beat prevEnd lane : Nat) : ∃ t, (beatMarkEff s g p beat prevEnd lane).links.ports =
    (modPort g p (fun x => rxPop (markedPort s beat prevEnd lane x)) t).links.ports := ⟨_, rfl⟩

theorem beatMark_marks {prevEnd : Nat} (hthere : portThere s g p = true) (hhead : rxHead (portOf s g p) (.beatMark beat prevEnd lane) = true) :
    answers (.beatMark g p beat prevEnd lane) s fun u => (portOf u g p).rxLane = lane ∧ (portOf u g p).markBeat = upBeat s := by
  obtain ⟨t, hports⟩ := beatMarkEff_ports s g p beat prevEnd lane
  refine answers_dueAt rfl hthere hhead ?_
  rw [portOf_of_ports hports, portOf_modPort, (passed_rxPop _).field Port.rxLane fun _ _ _ _ _ _ _ => rfl,
    (passed_rxPop _).field Port.markBeat fun _ _ _ _ _ _ _ => rfl]
  exact ⟨rfl, rfl⟩

theorem slotMark_begins (hthere : portThere s g p = true) (hhead : rxHead (portOf s g p) (.slotMark low sl bytes) = true)
    (hvia : (portOf s g p).rxVia = none) (hlater : (portOf s g p).rxBeat < beatNear (portOf s g p) low) :
    answers (.slotMark g p low sl bytes) s fun u => (portOf u g p).rxPos =
      (rxPop { portOf s g p with rxBeat := beatNear (portOf s g p) low, rxPos := lsPos (portOf s g p).rate sl }).rxPos := by
  have hown : (portOf (putPort g p (rxPop { portOf s g p with rxBeat := beatNear (portOf s g p) low, rxPos := lsPos (portOf s g p).rate sl }) s) g p).rxVia = none := by
    rw [portOf_putPort, (passed_rxPop _).field Port.rxVia fun _ _ _ _ _ _ _ => rfl]
    exact hvia
  refine answers_dueAt rfl hthere hhead ?_
  rw [slotMarkEff]
  dsimp only
  rw [if_neg fun hearlier => by omega, putLane]
  rw [hown, Option.getD_none, field_takeSlots Port.rxPos fun _ _ _ => rfl, portOf_modPort, field_rxPut Port.rxPos fun _ _ _ _ => rfl, portOf_putPort]

theorem dataBlock_tests (hthere : portThere s g p = true) (hhead : rxHead (portOf s g p) (.data bytes) = true) (htest : (portOf s g p).st = 8) :
    answers (.dataBlock g p bytes) s fun u => portOf u g p = rxPop (testData bytes (portOf s g p)) := by
  refine answers_dueAt rfl hthere hhead ?_
  rw [dataBlockEff]
  rw [if_pos htest, portOf_modPort]

/-! NAK and REPLAY_HEAD (14 R427, R428). -/

theorem nak_noted (hthere : portThere s g p = true) (hhead : rxHead (portOf s g p) (.nak beat pos lane) = true)
    (hq : txPortOf (modPort g p rxPop s) g lane = some q) : answers (.nak g p beat pos lane) s fun u => (beat, pos) ∈ (portOf u g q).nakSeen := by
  refine answers_dueAt rfl hthere hhead ?_
  simp only [nakEff, hq]
  split
  next hseen => exact List.contains_iff_mem.1 hseen
  next =>
    split <;> rw [portOf_putPort] <;> exact List.mem_cons_self ..

theorem replayHead_begins {blocks : List (Nat × Block)} (hthere : portThere s g p = true) (hhead : rxHead (portOf s g p) (.replayHead beat pos lane) = true)
    (hq : rxPortOf (modPort g p rxPop s) g p lane = some q) : answers (.replayHead g p beat pos lane blocks) s fun u =>
      (portOf u g p).replay = some ⟨q, beatNear (rxPop (portOf s g p)) beat, pos, blocks.map (·.1)⟩ := by
  refine answers_dueAt rfl hthere hhead ?_
  simp only [replayHeadEff, hq, portOf_modPort]

/-! Moves of a lane (14 R431). -/

theorem swap_noted {target : Nat} (hthere : portThere s g p = true) (hhead : rxHead (portOf s g p) (.swap target lane) = true)
    (hq : rxPortOf (modPort g p rxPop s) g p lane = some q) : answers (.swap g p target lane) s fun u =>
      ∃ w ∈ u.links.rxSwaps, w.gate = g ∧ w.lane = lane ∧ w.target = target := by
  refine answers_dueAt rfl hthere hhead ?_
  simp only [swapEff, hq]
  split
  next hknown =>
    obtain ⟨w, hw, hsame⟩ := List.any_eq_true.1 hknown
    simp only [Bool.and_eq_true, beq_iff_eq] at hsame
    obtain ⟨⟨hgate, hlane⟩, htarget⟩ := hsame
    exact ⟨w, hw, hgate, hlane, htarget⟩
  next => exact ⟨_, List.mem_append_right _ (List.mem_singleton.2 rfl), rfl, rfl, rfl⟩

theorem swapTargetEff_moves {w : LaneSwap} (hw : swapDue s g lane = some w) (hnew : w.new ≠ w.old) :
    (portOf (swapTargetEff s g lane) g w.new).st = 5 ∧ (portOf (swapTargetEff s g lane) g w.new).logical = lane := by
  simp only [swapTargetEff, hw]
  rw [field_moveLatency Port.st fun _ _ => rfl, field_moveLatency Port.logical fun _ _ => rfl, portOf_modPort_ne (Ne.symm hnew), portOf_modPort]
  exact ⟨rfl, rfl⟩

theorem swapTarget_moves {w : LaneSwap} (hthere : portThere s g p = true) (hw : swapDue s g lane = some w) (hnew : w.new ≠ w.old) :
    answers (.swapTarget g lane) s fun u => (portOf u g w.new).st = 5 ∧ (portOf u g w.new).logical = lane := by
  have hgate : decide (g < s.params.gatehouses) = true := (Bool.and_eq_true_iff.1 hthere).1
  exact answers_dueAt rfl hgate (by rw [hw]; rfl) (swapTargetEff_moves hw hnew)

/-! TRAIN and LOOP (14 R423, R432). -/

theorem train_counts {serial : BitVec 64} {pg pp rates st etx erx : Nat} {preq : Bool} (hthere : portThere s g p = true)
    (hhead : rxHead (portOf s g p) (.train serial pg pp rates preq st etx erx) = true) (hlock : (portOf s g p).st = 3) (hfew : (portOf s g p).goodTrain < 63) :
    answers (.train g p serial pg pp rates preq st etx erx) s fun u => (portOf u g p).goodTrain = (portOf s g p).goodTrain + 1 ∧ (portOf u g p).peerSerial = serial := by
  have hst : (rxPop (portOf s g p)).st = 3 := ((passed_rxPop _).field Port.st fun _ _ _ _ _ _ _ => rfl).trans hlock
  have hgood : (rxPop (portOf s g p)).goodTrain = (portOf s g p).goodTrain := (passed_rxPop _).field Port.goodTrain fun _ _ _ _ _ _ _ => rfl
  refine answers_dueAt rfl hthere hhead ?_
  rw [trainEff]
  dsimp only
  rw [if_pos hst, hgood, if_pos (by omega), portOf_putPort]
  exact ⟨rfl, rfl⟩

theorem loop_tests {beats : Nat} (hthere : portThere s g p = true) (hhead : rxHead (portOf s g p) (.loop true beats) = true)
    (hnone : (rxPop (portOf s g p)).test = none) (htestable : testable (rxPop (portOf s g p)) = true) :
    answers (.loop g p true beats) s fun u => (portOf u g p).st = 8 := by
  refine answers_dueAt rfl hthere hhead ?_
  simp only [loopEff, portOf_modPort, hnone, htestable, and_self, if_true, portOf_putPort]
  rfl

/-! LANE_SLOT_DEADLINE (14 R425, R436). -/

theorem laneSlotDeadline_counts {slot : Nat} (hthere : portThere s g p = true) (hready : deadlineReady s g p beat slot = true) :
    answers (.laneSlotDeadline g p beat slot) s fun u => (portOf u g p).slotsLost = satInc 255 (portOf s g p).slotsLost := by
  refine answers_dueAt rfl hthere hready ?_
  rw [deadlineEff]
  rw [field_takeSlots Port.slotsLost fun _ _ _ => rfl, portOf_modPort, field_deliver Port.slotsLost fun _ _ _ _ => rfl]

theorem laneEventsComplete_holds (s : State) (g p : Nat) : laneEventsComplete s g p := by
  rintro hthere _ rfl
  exact ⟨fun _ hready => blockTransmit_moves hthere hready, fun _ _ hready => codewordDecode_counts hthere hready, fun _ _ _ hhead => beatMark_marks hthere hhead,
    fun _ _ _ hhead hvia hlater => slotMark_begins hthere hhead hvia hlater, fun _ hhead htest => dataBlock_tests hthere hhead htest,
    fun _ _ _ _ hhead hq => nak_noted hthere hhead hq, fun _ _ _ _ _ hhead hq => replayHead_begins hthere hhead hq, fun _ _ _ hhead hq => swap_noted hthere hhead hq,
    fun _ _ hw hnew => swapTarget_moves hthere hw hnew, fun _ _ _ _ _ _ _ _ hhead hlock hfew => train_counts hthere hhead hlock hfew,
    fun _ hhead hnone htestable => loop_tests hthere hhead hnone htestable, fun _ _ hready => laneSlotDeadline_counts hthere hready⟩

end

end Sys2Proof.Machine

/-!
A port in training, in tests and when it is lost (14 R422 to R433).
-/
namespace Sys2Proof.Machine

section
variable {s t u : State} {g p q b : Nat} {x : Port}

/-! Training (14 R422, R424). -/

theorem portThere_lt (h : portThere s g p = true) : p < 26 := of_decide_eq_true (Bool.and_eq_true_iff.1 h).2

theorem stillTrains_of_lock (hp : p < 26) (hlock : (portOf s g p).st = 3) : stillTrains s g = true :=
  List.any_eq_true.2 ⟨p, List.mem_range.2 hp, by simp [hlock]⟩

/-- While a port still trains, no lanes are given. -/
theorem settleTraining_waits (h : stillTrains s g = true) : settleTraining g s = s :=
  if_neg fun ⟨_, hnone, _⟩ => by
    rw [h] at hnone
    cases hnone

theorem measured_of_mem_portsOfPeer {w : BitVec 64 × Nat} (hp : p ∈ portsOfPeer s g w) : (portOf s g p).measured = true := by
  have hmem := List.of_mem_filter hp
  exact (Bool.and_eq_true_iff.1 hmem).1

/-- Rates and lanes are a matter of measured ports. -/
theorem portOf_alignRates_unmeasured : ∀ (qs : List (BitVec 64 × Nat)) {s : State}, (portOf s g p).measured = false →
    portOf (alignRates g qs s) g p = portOf s g p
  | [], _, _ => rfl
  | w :: qs, s, hnot => by
    have hout : p ∉ portsOfPeer s g w := fun hp => by
      rw [measured_of_mem_portsOfPeer hp] at hnot
      cases hnot
    have hstep := portOf_modPorts_notMem (g := g) (f := fun _ x => if x.rate = majorityRate s g (portsOfPeer s g w) then x else
      enter s 2 { x with rate := majorityRate s g (portsOfPeer s g w), measured := false, logical := 0x1F, held := true }) _ s hout
    exact (portOf_alignRates_unmeasured qs (by rw [hstep]; exact hnot)).trans hstep

theorem portOf_giveLanes_notMem (bund : Nat → Option Nat) : ∀ (ps : List Nat) (n : Nat) (s : State), p ∉ ps → portOf (giveLanes g bund ps n s) g p = portOf s g p
  | [], _, _, _ => rfl
  | q :: ps, n, s, hp => by
    obtain ⟨hq, hps⟩ := not_or.1 fun h => hp (List.mem_cons.2 h)
    rw [giveLanes]
    split
    · rw [portOf_giveLanes_notMem bund ps _ _ hps, portOf_modPort_ne (Ne.symm hq)]
      exact portOf_of_links rfl g p
    · split <;> rw [portOf_giveLanes_notMem bund ps _ _ hps, portOf_modPort_ne (Ne.symm hq)]

theorem portOf_placeAll_unmeasured (hnot : (portOf s g p).measured = false) : portOf (placeAll g s) g p = portOf s g p :=
  portOf_giveLanes_notMem _ _ _ s fun hp => by
    have hmeasured := List.of_mem_filter hp
    rw [hnot] at hmeasured
    cases hmeasured

theorem portOf_settleTraining_unmeasured (hnot : (portOf s g p).measured = false) : portOf (settleTraining g s) g p = portOf s g p := by
  have haligned := portOf_alignRates_unmeasured ((peersOf s g).take 8) hnot
  unfold settleTraining
  split
  · dsimp only
    split
    · exact haligned
    · exact (portOf_placeAll_unmeasured (by rw [haligned]; exact hnot)).trans haligned
  · rfl

theorem signalDetect_adapts (hthere : portThere s g p = true) (hst : (portOf s g p).st = 1) (hidled : (portOf s g p).idled = false) :
    answers (.signalDetect g p) s fun u => (portOf u g p).st = 2 ∧ (portOf u g p).rate = 0 := by
  refine answers_dueAt rfl hthere (by rw [hst, hidled]; rfl) ?_
  rw [portOf_modPort]
  exact ⟨rfl, rfl⟩

theorem adaptDone_locks (hthere : portThere s g p = true) (hst : (portOf s g p).st = 2) : answers (.adaptDone g p true) s fun u => (portOf u g p).st = 3 := by
  refine answers_dueAt rfl hthere (by rw [hst]; rfl) ?_
  rw [settleTraining_waits (stillTrains_of_lock (portThere_lt hthere) (by rw [portOf_modPort]; rfl)), portOf_modPort]
  rfl

theorem lockTimeout_fails (hthere : portThere s g p = true) (hst : (portOf s g p).st = 3) (hunlocked : (portOf s g p).locked = false)
    (hlong : (portOf s g p).since + 4096 ≤ upBeat s) : answers (.lockTimeout g p) s fun u => (portOf u g p).st = 7 := by
  refine answers_dueAt rfl hthere (by rw [hst, hunlocked]; exact decide_eq_true hlong) ?_
  rw [portOf_settleTraining_unmeasured (by rw [portOf_modPort]; rfl), portOf_modPort]
  rfl

theorem failedRetry_detects (hthere : portThere s g p = true) (hst : (portOf s g p).st = 7) (hidled : (portOf s g p).idled = false)
    (hgate : g ∉ s.health.gatesOut) (hlong : (portOf s g p).since + 65536 ≤ upBeat s) : answers (.failedRetry g p) s fun u => (portOf u g p).st = 1 := by
  refine answers_dueAt rfl hthere (by simp [hst, hidled, hgate, hlong]) ?_
  rw [portOf_modPort]
  rfl

/-! TRAINING_END (14 R424). -/

/-- Bundles and their ports leave which gatehouses train. -/
theorem modPorts_training (f : Nat → Port → Port) : ∀ (ps : List Nat) (s : State), (modPorts g f ps s).links.training = s.links.training
  | [], _ => rfl
  | _ :: ps, _ => (modPorts_training f ps _).trans rfl

theorem refreshBundle_training (b : Nat) (up : Bool) (s : State) : (refreshBundle g b up s).links.training = s.links.training := by
  unfold refreshBundle
  split
  · rfl
  · exact (modPorts_training _ _ _).trans rfl

theorem refreshAll_training (up : Bool) : ∀ (bs : List Nat) (s : State), (refreshAll g up bs s).links.training = s.links.training
  | [], _ => rfl
  | b :: bs, s => (refreshAll_training up bs _).trans (refreshBundle_training b up s)

theorem startRoll_links (s : State) : (startRoll s).links = s.links := (startRoll_only (P := (· ≠ .links)) (by simp) only_refl).links (by simp)

/-- The state in which the bundles of a gatehouse that has trained come up. -/
def bundlesRaised (g : Nat) (s : State) : State :=
  let t := if portNums.any fun p => (portOf s g p).st == 4 && (portOf s g p).measured then placeAll g s else s
  refreshAll g true ((List.range 8).map fun k => 8 * g + k) { t with links := { t.links with training := tabErase t.links.training g } }

/-- Bundles that come up start a roll call. -/
def rollCalled (g : Nat) (u : State) : State :=
  if (((List.range 8).map fun k => 8 * g + k).any fun b => (tabGet bundleZero u.fabric.bundles b).up) then startRoll u else u

/-- With every gatehouse trained, the fabric join begins. -/
def joinBegun (s r : State) : State :=
  if r.links.training.isEmpty then
    let v : State := { r with fabric := { r.fabric with trained := some (upBeat s) } }
    if v.steward.phase = 3 then setPhase 4 v else v
  else r

theorem trainingEndEff_eq (s : State) (g : Nat) : trainingEndEff s g = joinBegun s (rollCalled g (bundlesRaised g s)) := by
  dsimp only [trainingEndEff, joinBegun, rollCalled, bundlesRaised]

theorem bundlesRaised_training : tabGet none (bundlesRaised g s).links.training g = none := by
  rw [bundlesRaised, refreshAll_training, tabGet_erase, if_pos rfl]

theorem rollCalled_links (u : State) : (rollCalled g u).links = u.links := by
  unfold rollCalled
  split
  · exact startRoll_links u
  · rfl

theorem joinBegun_links (s r : State) : (joinBegun s r).links = r.links := by
  unfold joinBegun
  dsimp only
  split_ifs
  · exact setPhase_links ..
  · rfl
  · rfl

theorem trainingEnd_ends (hthere : portThere s g p = true) (hready : trainingEndReady s g = true) :
    answers (.trainingEnd g) s fun u => tabGet none u.links.training g = none :=
  answers_dueAt rfl (Bool.and_eq_true_iff.1 hthere).1 hready (by rw [trainingEndEff_eq, joinBegun_links, rollCalled_links, bundlesRaised_training])

/-! PORT_LOSS (14 R429). -/

/-- The state in which the port has failed and the loss is noted. -/
def portFailed (g p : Nat) (s : State) : State :=
  let t := raiseInt 1 (modPort g p (fun x => enter s 7 { x with lost := true, logical := 0x1F, rate := 3, measured := false, latExcess := false }) s)
  let t := countFault 5 (26 * g + p) (Config.freeNat t.freeCtr % 65536) { t with freeCtr := t.freeCtr + 1 }
  { t with links := { t.links with swaps := t.links.swaps.filter fun w => !(w.gate == g && (w.old == p || w.new == p)) } }

theorem portOf_portFailed : portOf (portFailed g p s) g p = enter s 7 { portOf s g p with
    lost := true, logical := 0x1F, rate := 3, measured := false, latExcess := false } := by
  refine Eq.trans ?_ (portOf_modPort g p (fun x => enter s 7 { x with lost := true, logical := 0x1F, rate := 3, measured := false, latExcess := false }) s)
  exact portOf_of_ports (congrArg Links.ports (raiseInt_links ..)) g p

theorem portLossEff_replaced (hst : (portOf s g p).st = 5) (hq : standbyFor s g p = some q) : portLossEff s g p =
    settleHealth (markSpare (moveLatency g (portOf s g p).bundle (modPort g q (fun y => enter s 5 (takeLane (portOf s g p) y)) (portFailed g p s)))) := by
  simp only [portLossEff, portFailed, if_pos hst, hq]

theorem portLossEff_exhausted (hst : (portOf s g p).st = 5) (hnone : standbyFor s g p = none) : portLossEff s g p = markExhausted true (portFailed g p s) := by
  simp only [portLossEff, portFailed, if_pos hst, hnone]

theorem portLossEff_standby (hst : (portOf s g p).st ≠ 5) : portLossEff s g p = portFailed g p s := by
  simp only [portLossEff, portFailed, if_neg hst]

theorem standbyFor_ne (h : standbyFor s g p = some q) : q ≠ p := by
  have hfound := List.find?_some h
  simp only [Bool.and_eq_true, bne_iff_ne] at hfound
  exact hfound.1.1.1

/-- What a standby port takes over changes nothing at the port lost. -/
theorem portLossEff_fails : (portOf (portLossEff s g p) g p).st = 7 ∧ (portOf (portLossEff s g p) g p).lost = true := by
  have hfailed : ((portOf (portFailed g p s) g p).st, (portOf (portFailed g p s) g p).lost) = (7, true) := by
    rw [portOf_portFailed]
    rfl
  suffices h : ((portOf (portLossEff s g p) g p).st, (portOf (portLossEff s g p) g p).lost) = (7, true) from Prod.mk.inj h
  by_cases hst : (portOf s g p).st = 5
  · rcases hq : standbyFor s g p with _ | q
    · rw [portLossEff_exhausted hst hq,
        portOf_of_links ((markExhausted_only (P := (· ≠ .links)) (by simp) (by simp) (by simp) (by simp) _ only_refl).links (by simp)), hfailed]
    · rw [portLossEff_replaced hst hq,
        portOf_of_links ((settleHealth_only (P := (· ≠ .links)) (by simp) (by simp) (by simp) (markSpare_only (by simp) (by simp) (by simp) only_refl)).links (by simp)),
        field_moveLatency (fun x => (x.st, x.lost)) (fun _ _ => rfl), portOf_modPort_ne (standbyFor_ne hq), hfailed]
  · rw [portLossEff_standby hst, hfailed]

theorem portLoss_fails (hthere : portThere s g p = true) (hst : (portOf s g p).st = 5 ∨ (portOf s g p).st = 6) :
    answers (.portLoss g p) s fun u => (portOf u g p).st = 7 ∧ (portOf u g p).lost = true :=
  answers_dueAt rfl hthere (by simpa using hst) portLossEff_fails

/-! Tests (14 R432, R433). -/

theorem portOf_respond (m status : Nat) (fs : List (Nat × Nat × Nat)) (s : State) (g p : Nat) : portOf (respond m status fs s) g p = portOf s g p :=
  portOf_of_links ((respond_leaves ..).links (by decide)) g p

theorem linkTestEnd_ends {r : LinkTestResult} {y : LinkTst} (hthere : portThere s g p = true) (hready : testEndReady s g p r = true)
    (hdone : testDone s g p = some y) : answers (.linkTestEnd g p r) s fun u => (portOf u g p).st = 1 ∧ (portOf u g p).test = none := by
  refine answers_dueAt rfl hthere hready ?_
  simp only [linkTestEndEff, hdone]
  split
  · rw [portOf_respond, portOf_modPort]
    exact ⟨rfl, rfl⟩
  · rw [portOf_modPort]
    exact ⟨rfl, rfl⟩

theorem linkNoPeer_ends {y : LinkTst} (hthere : portThere s g p = true) (htest : (portOf s g p).test = some y) (hwaits : y.running = false)
    (hlong : y.since + 64 ≤ upBeat s) : answers (.linkNoPeer g p) s fun u => (portOf u g p).test = none := by
  refine answers_dueAt rfl hthere (by simp [noPeer, htest, hwaits, hlong]) ?_
  simp only [linkNoPeerEff, htest]
  split
  · rw [portOf_respond, portOf_modPort]
  · rw [portOf_modPort]

theorem eyeMarginReport_notes (hthere : portThere s g p = true) (mv : Nat) :
    answers (.eyeMarginReport g p mv) s fun u => portOf u g p = { portOf s g p with eye := some mv } :=
  answers_dueAt rfl hthere rfl (portOf_modPort ..)

theorem portEventsComplete_holds (s : State) (g p : Nat) : portEventsComplete s g p := by
  rintro hthere _ rfl
  exact ⟨fun hst hidled => signalDetect_adapts hthere hst hidled, fun hst => adaptDone_locks hthere hst,
    fun hst hunlocked hlong => lockTimeout_fails hthere hst hunlocked hlong, fun hst hidled hgate hlong => failedRetry_detects hthere hst hidled hgate hlong,
    fun hst => portLoss_fails hthere hst, fun hready => trainingEnd_ends hthere hready, fun _ _ _ _ hready hdone _ _ => linkTestEnd_ends hthere hready hdone,
    fun _ htest hwaits hlong => linkNoPeer_ends hthere htest hwaits hlong, fun mv => eyeMarginReport_notes hthere mv⟩

end

end Sys2Proof.Machine

/-!
Requests that freeze, test, update and reset (12 R373, R374, 14 R432, 18 R522), and the reset that takes effect.
-/
namespace Sys2Proof.Machine

section
variable {s t u : State} {m g p : Nat} {w : MsgWord}

/-! SNAPSHOT (12 R374). -/

theorem snapshotFreeze_pends (hreq : requested s m w 0x37) (haction : wfld w 0x0C 1 = 0) (hidle : snapBusy s = false) (hfabric : fabricTask s = false)
    (hhold : wfld w 0x0E 2 ≠ 0) (hbeat : wfld w 0x10 8 = 0 ∨ beatOf s < wfld w 0x10 8) :
    answers (.snapshotFreeze m w) s fun u => u.shell.snap.pend = true ∧ u.shell.snap.hold = wfld w 0x0E 2 := by
  have hfree : ¬ (snapBusy s = true ∨ fabricTask s = true) := by simp [hidle, hfabric]
  have hahead : ¬ (wfld w 0x0E 2 = 0 ∨ (wfld w 0x10 8 ≠ 0 ∧ wfld w 0x10 8 ≤ beatOf s)) := by omega
  obtain ⟨hm, hready⟩ := hreq
  refine answers_dueAt rfl (decide_eq_true hm) (by rw [hready, haction]; rfl) ?_
  simp only [freezeEff, if_neg hfree, if_neg hahead]
  exact ⟨rfl, rfl⟩

theorem snapshotRelease_waits (hreq : requested s m w 0x37) (haction : wfld w 0x0C 1 = 1) (hfrozen : s.shell.snap.frozen = true) :
    answers (.snapshotRelease m w) s fun u => m ∈ u.shell.snap.relMbox := by
  obtain ⟨hm, hready⟩ := hreq
  refine answers_dueAt rfl (decide_eq_true hm) (by rw [hready, haction]; rfl) ?_
  simp only [releaseEff, hfrozen, if_true]
  exact List.mem_append_right _ (List.mem_singleton.2 rfl)

/-! LINK_TEST at the near end (14 R432). -/

theorem linkTest_begins (hreq : requested s m w 0x38) (hthere : portThere s (wfld w 0x0C 1) (wfld w 0x0D 1) = true)
    (htestable : testable (portOf s (wfld w 0x0C 1) (wfld w 0x0D 1)) = true) (hnear : wfld w 0x0E 1 ≠ 2) :
    answers (.linkTest m w) s fun u => (portOf u (wfld w 0x0C 1) (wfld w 0x0D 1)).st = 8 := by
  refine answers_request hreq rfl ?_
  simp only [linkTestEff, hthere, htestable, Bool.true_eq_false, or_self, if_false, if_neg hnear]
  exact congrArg Port.st (portOf_putPort _ _ _ _)

/-! FW_UPDATE (12 R373). -/

theorem fwUpdate_queues {raw : List Byte} (hreq : requested s m w 0x39) (hsize : wfld w 0x14 4 ≤ 0x800000 - 64)
    (hlength : (raw.take (wfld w 0x14 4)).length = wfld w 0x14 4) (hformat : fwFormat (raw.take (wfld w 0x14 4)) = true)
    (hsigned : fwSigned s.steward.keyHash (raw.take (wfld w 0x14 4)) = true) (hsvn : s.shell.keep.svn ≤ pfld (raw.take (wfld w 0x14 4)) 0xC 4) :
    answers (.fwUpdate m w (some raw)) s fun u => ∃ x ∈ u.shell.keep.writes, x.mbox = some m ∧ x.item = 1 := by
  refine answers_request hreq rfl ?_
  simp only [fwUpdateEff, if_neg (Nat.not_lt.2 hsize), hlength, hformat, hsigned, ne_eq, not_true, Bool.true_eq_false, or_self, if_false, if_neg (Nat.not_lt.2 hsvn)]
  exact ⟨_, List.mem_append_right _ (List.mem_singleton.2 rfl), rfl, rfl⟩

/-! RESET_REQUEST (18 R522). -/

/-- The answer of a reset leaves which mailboxes asked for it. -/
theorem resetAnswer_boxes {r : ResetReq} (h : s.seq.resetReq = some r) : ∃ r', (resetAnswer s).seq.resetReq = some r' ∧ r'.boxes = r.boxes := by
  unfold resetAnswer
  rw [h]
  dsimp only
  split
  · rw [(respondAll_only (P := (· ≠ .seq)) (by simp) (by simp) (by simp) _ _ only_refl).seq (by simp)]
    exact ⟨_, rfl, rfl⟩
  · exact ⟨r, h, rfl⟩

/-- The reset that a request makes, or joins. -/
def resetAsked (m kind : Nat) (s : State) : ResetReq :=
  match s.seq.resetReq with
  | some r => { r with kind := max r.kind kind, boxes := r.boxes ++ [m], answered := false }
  | none => ⟨kind, upBeat s, [m], false⟩

theorem mem_resetAsked_boxes (m kind : Nat) (s : State) : m ∈ (resetAsked m kind s).boxes := by
  unfold resetAsked
  split
  · exact List.mem_append_right _ (List.mem_singleton.2 rfl)
  · exact List.mem_singleton.2 rfl

theorem askReset_asks (m kind : Nat) (s : State) : ∃ r, (askReset m kind s).seq.resetReq = some r ∧ m ∈ r.boxes := by
  have hasked : (haltAll 0x0E02 false (launchedTasks (modSeq (fun q => { q with resetReq := some (resetAsked m kind s) }) (await m s)))
      (modSeq (fun q => { q with resetReq := some (resetAsked m kind s) }) (await m s))).seq.resetReq = some (resetAsked m kind s) := by
    rw [(haltAll_only (P := (· ≠ .seq)) (by simp) (by simp) _ _ _ only_refl).seq (by simp)]
    rfl
  obtain ⟨r, hr, hboxes⟩ := resetAnswer_boxes hasked
  exact ⟨r, hr, hboxes ▸ mem_resetAsked_boxes m kind s⟩

theorem resetRequest_asks (hreq : requested s m w 0x3A) (hphase : s.steward.phase ≠ 6) (hkind : wfld w 0x0C 1 ≤ 1) :
    answers (.resetRequest m w) s fun u => ∃ r, u.seq.resetReq = some r ∧ m ∈ r.boxes := by
  refine answers_request hreq rfl ?_
  simp only [resetRequestEff, if_neg hphase, if_pos hkind]
  exact askReset_asks ..

/-! RESET_TAKE_EFFECT (18 R522, R523). -/

theorem setPhase_phase (k : Nat) (s : State) : (setPhase k s).steward.phase = k := by
  unfold setPhase
  split
  next h => exact h
  next => exact (raiseInt_leaves ..).steward_phase (by decide)

/-- A change of phase is noted in the sequencer by its beat alone. -/
theorem setPhase_seq (k : Nat) (s : State) : ∃ b, (setPhase k s).seq = { s.seq with phaseBeat := b } := by
  unfold setPhase
  split
  · exact ⟨s.seq.phaseBeat, rfl⟩
  · exact ⟨upBeat s, raiseInt_seq ..⟩

theorem startHard_begins (serial : BitVec 64) (keyHash : BitVec 384) (pins : BitVec 16) (s : State) :
    (startHard serial keyHash pins s).steward.phase = 1 ∧ (startHard serial keyHash pins s).rooms = [] ∧
      ∃ b, (startHard serial keyHash pins s).seq = { s.seq with step := .run, phaseBeat := b } := by
  refine ⟨setPhase_phase .., startHard_noRooms .., ?_⟩
  obtain ⟨b, hb⟩ := setPhase_seq 1 { hardReset s with
    seq := { (hardReset s).seq with step := .run, phaseBeat := 0 }
    time := { (hardReset s).time with running := true }
    steward := { (hardReset s).steward with serial := serial, keyHash := keyHash }
    side := { (hardReset s).side with level := pins, strap := pins } }
  exact ⟨b, hb⟩

theorem stewardRestart_resets (s : State) : (stewardRestart s).rooms = [] ∧ (stewardRestart s).seq.resetReq = none := by
  refine ⟨stewardRestart_noRooms s, ?_⟩
  unfold stewardRestart
  dsimp only
  rw [(settleHealth_only (P := (· ≠ .seq)) (by simp) (by simp) (by simp) only_refl).seq (by simp)]

theorem resetTakeEffect_restarts {r : ResetReq} (hready : takeEffectReady s = true) (hr : s.seq.resetReq = some r) :
    answers .resetTakeEffect s fun u => u.steward.phase = 1 ∧ u.rooms = [] ∧ u.seq.resetReq = none := by
  refine answers_due rfl hready ?_
  simp only [takeEffectEff, hr]
  split
  · obtain ⟨hrooms, hreset⟩ := stewardRestart_resets s
    obtain ⟨b, hseq⟩ := setPhase_seq 1 (stewardRestart s)
    refine ⟨setPhase_phase .., ?_, ?_⟩
    · rw [setPhase_rooms, hrooms]
    · rw [hseq]
      exact hreset
  · obtain ⟨hphase, hrooms, b, hseq⟩ := startHard_begins s.steward.serial s.steward.keyHash s.side.level
      (modSeq (fun q => { q with trigger := 4, resetReq := none, trips := [], stewardOnly := false }) s)
    refine ⟨hphase, hrooms, ?_⟩
    rw [hseq]
    rfl

theorem requestsComplete_holds (s : State) (m : Nat) (w : MsgWord) : requestsComplete s m w := by
  refine ⟨fun hreq c hc hdead haperture => ?_, fun hreq hc hlive => ?_, ?_, ?_, fun hreq haction hidle hfabric hhold hbeat => ?_,
    fun hreq haction hfrozen => snapshotRelease_waits hreq haction hfrozen, ?_, ?_, fun hreq hphase hkind => resetRequest_asks hreq hphase hkind,
    fun hready r hr => resetTakeEffect_restarts hready hr⟩
  · obtain ⟨u, hu, -, hstate, hbase, -⟩ := ctxCreate_creates hreq hc hdead haperture
    exact ⟨u, hu, hstate, hbase⟩
  · obtain ⟨u, hu, hstate, -⟩ := ctxDestroy_aborts hreq hc hlive
    exact ⟨u, hu, hstate⟩
  · rintro hreq _ id rfl hctx haperture hzero hfew hfree
    obtain ⟨u, hu, hqueue, -⟩ := queueCreate_creates hreq hctx haperture hzero hfew hfree
    exact ⟨u, hu, hqueue⟩
  · rintro hreq _ x rfl hctx hx hmine hopen hfinal hsettled
    obtain ⟨u, hu, -, hdone, -⟩ := queueDestroy_destroys hreq hctx hx hmine hopen hfinal
    exact ⟨u, hu, (hdone hsettled).2⟩
  · exact snapshotFreeze_pends hreq haction hidle hfabric hhold hbeat
  · rintro hreq _ _ rfl rfl hthere htestable hnear
    exact linkTest_begins hreq hthere htestable hnear
  · rintro hreq raw _ rfl hsize hlength hformat hsigned hsvn
    exact fwUpdate_queues hreq hsize hlength hformat hsigned hsvn

end

end Sys2Proof.Machine

/-!
The steps of the time unit (15 R438 to R450).
-/
namespace Sys2Proof.Machine

section
variable {s : State} {b cls rank hops edge : Nat} {serial : BitVec 64}

/-! What a state of the unit, a split and a disciplining change of its record. -/

theorem setTimeSt_record (k : Nat) (s : State) : (setTimeSt k s).time = { s.time with st := k } := by
  unfold setTimeSt
  split
  next h => rw [← h]
  next => exact raiseInt_time ..

theorem splitEff_record (s : State) : (splitEff s).time = { s.time with split := true, unsync := true, streak := 0 } := by
  unfold splitEff
  dsimp only
  rw [promote_time, (withdrawRounds_only (P := (· ≠ .time)) (by simp) (by simp) (by simp) (by simp) (by simp) _ only_refl).time (by simp),
    (haltAll_only (P := (· ≠ .time)) (by simp) (by simp) _ _ _ only_refl).time (by simp), raiseInt_time, modTime_time]

/-- The record says of an offset found in `s` what it is, and of a parent's that it is used; the last pulse and a time to set are those of `s`. -/
structure NotesTheta (ref : Bool) (th2 : Int) (s : State) (t : TimeUnit) : Prop where
  offset : t.offset = offsetOf th2
  lastUse : t.lastUse = if ref then s.time.lastUse else upBeat s
  pulse : t.pulse = s.time.pulse
  setOn : t.setOn = s.time.setOn

theorem NotesTheta.setTimeSt {ref : Bool} {th2 : Int} {u : State} (h : NotesTheta ref th2 s u.time) (k : Nat) : NotesTheta ref th2 s (setTimeSt k u).time := by
  rw [setTimeSt_record]
  exact ⟨h.offset, h.lastUse, h.pulse, h.setOn⟩

theorem NotesTheta.splitEff {ref : Bool} {th2 : Int} {u : State} (h : NotesTheta ref th2 s u.time) : NotesTheta ref th2 s (splitEff u).time := by
  rw [splitEff_record]
  exact ⟨h.offset, h.lastUse, h.pulse, h.setOn⟩

theorem NotesTheta.step {ref : Bool} {th2 : Int} {u : State} (h : NotesTheta ref th2 s u.time) (f : TimeUnit → Option TimeStep) :
    NotesTheta ref th2 s (modTime (fun t => { t with step := f t }) u).time :=
  ⟨h.offset, h.lastUse, h.pulse, h.setOn⟩

/-- A rate, a split, a step and a state may follow an offset. -/
theorem applyTheta_notes (ref : Bool) (th2 : Int) (s : State) : NotesTheta ref th2 s (applyTheta ref th2 s).time := by
  fun_cases applyTheta ref th2 s
  case case1 => exact ⟨rfl, rfl, rfl, rfl⟩
  case case2 =>
    refine .setTimeSt ?_ 2
    exact ⟨rfl, rfl, rfl, rfl⟩
  case case3 =>
    refine .step (.splitEff ?_) _
    exact ⟨rfl, rfl, rfl, rfl⟩
  case case4 =>
    refine .setTimeSt (.step (.splitEff ?_) _) 2
    exact ⟨rfl, rfl, rfl, rfl⟩
  case case5 =>
    refine .splitEff ?_
    exact ⟨rfl, rfl, rfl, rfl⟩
  case case6 =>
    refine .setTimeSt (.splitEff ?_) 2
    exact ⟨rfl, rfl, rfl, rfl⟩

/-! The keeper (15 R441). -/

theorem announceEff_keeper (hbetter : betterTime cls rank serial (timeClass s) s.fabric.rank s.steward.serial = true) (hfree : s.time.keeper = none) :
    (announceEff s cls rank serial hops).time.keeper = some ⟨cls, rank, serial, 32 - hops, upBeat s⟩ := by
  simp only [announceEff, hbetter, hfree, and_self, if_true]
  split
  · rw [setTimeSt_record]
    rfl
  · rfl

theorem announce_follows (hframe : (announceFrame s b cls rank serial hops).isSome = true)
    (hbetter : betterTime cls rank serial (timeClass s) s.fabric.rank s.steward.serial = true) (hfree : s.time.keeper = none) :
    answers (.announce b cls rank serial hops) s fun u => u.time.keeper = some ⟨cls, rank, serial, 32 - hops, upBeat s⟩ := by
  refine answers_due rfl hframe ?_
  obtain ⟨f, hf⟩ := Option.isSome_iff_exists.1 hframe
  rw [hf]
  exact announceEff_keeper (s := takeFrame b f s) hbetter hfree

theorem sendAnnounce_record (s : State) : (sendAnnounce s).time = { s.time with lastAnn := upBeat s } := flood_time ..

theorem keeperTimeoutEff_record (s : State) : (keeperTimeoutEff s).time = { becomeKeeper s.time with st := 1, lastAnn := upBeat s } := by
  rw [keeperTimeoutEff, sendAnnounce_record, setTimeSt_record]
  simp only [upBeat, setTimeSt_record]
  rfl

/-! The discipline (15 R443 to R446). -/

theorem sendStamps_record (keeper : BitVec 64) (cls rank : Nat) (bs : List Nat) (s : State) : (sendStamps keeper cls rank bs s).time = s.time :=
  (sendStamps_only (P := (· ≠ .time)) (by simp) keeper cls rank bs only_refl).time (by simp)

theorem stampPeriodEff_record (s : State) : (stampPeriodEff s).time = { s.time with lastStamp := upBeat s } := by
  unfold stampPeriodEff
  dsimp only
  split <;> exact sendStamps_record ..

theorem stampEff_disciplines {x : Exchange} (hfollows : s.time.announcing = false) (hparent : parentBundle s = some b) :
    (stampEff s b cls x false).time.offset = offsetOf (theta2 x) ∧ (stampEff s b cls x false).time.lastUse = upBeat s := by
  simp only [stampEff, hfollows, hparent, Bool.false_eq_true, ne_eq, not_true, or_self, if_false]
  exact ⟨(applyTheta_notes ..).offset, (applyTheta_notes ..).lastUse⟩

theorem stamp_disciplines {x : Exchange} (hready : stampReady s b cls x false = true) (hfollows : s.time.announcing = false) (hparent : parentBundle s = some b) :
    answers (.stamp b cls x false) s fun u => u.time.offset = offsetOf (theta2 x) ∧ u.time.lastUse = upBeat s := by
  refine answers_due rfl hready ?_
  cases hf : stampFrame s b with
  | none => simp [stampReady, hf] at hready
  | some f => exact stampEff_disciplines (s := takeFrame b f s) hfollows hparent

theorem timeStepEff_steps {k : TimeStep} (hk : s.time.step = some k) : (timeStepEff s).time.step = none ∧ (timeStepEff s).time.stepped = true := by
  simp only [timeStepEff, hk]
  split
  · rw [raiseInt_time]
    exact ⟨rfl, rfl⟩
  · rw [setTimeSt_record, raiseInt_time]
    exact ⟨rfl, rfl⟩

/-! The reference input (15 R450). -/

theorem pulseEff_notes (s : State) (at' : Int) : (pulseEff s at').time.pulse = some (at', s.time.up) ∧ (pulseEff s at').time.setOn = false := by
  unfold pulseEff
  dsimp only
  split
  · exact ⟨(applyTheta_notes ..).pulse, (applyTheta_notes ..).setOn⟩
  · exact ⟨rfl, rfl⟩

theorem timeEventsComplete_holds (s : State) : timeEventsComplete s := by
  refine ⟨fun b cls rank serial hops hframe hbetter hfree => announce_follows hframe hbetter hfree, fun hkeeps hfabric hdue => ?_, fun hready => ?_,
    fun hruns hdue => ?_, fun b cls x hready hfollows hparent => stamp_disciplines hready hfollows hparent, fun k hk hsince => ?_,
    fun hkeeper hfollows hst huse => ?_, fun hbound hsync => ?_, fun edge hruns henabled hpin => ?_, fun henabled hthere hlate => ?_,
    fun tag sub frac hruns => ?_⟩
  · exact answers_due rfl (by simp [hkeeps, hfabric, hdue]) (congrArg TimeUnit.lastAnn (sendAnnounce_record s))
  · refine answers_due rfl hready ?_
    rw [keeperTimeoutEff_record]
    exact ⟨rfl, rfl, rfl⟩
  · exact answers_due rfl (by simp [hruns, hdue]) (congrArg TimeUnit.lastStamp (stampPeriodEff_record s))
  · exact answers_due rfl (by simp [stepDue, hk, hsince]) (timeStepEff_steps hk)
  · exact answers_due rfl (by simp [hkeeper, hfollows, hst, huse]) (congrArg TimeUnit.st (setTimeSt_record ..))
  · refine answers_due rfl (by simp [hbound, hsync]) ?_
    rw [splitEff_record]
    exact ⟨rfl, rfl⟩
  · exact answers_due rfl (by simp [hruns, henabled, hpin]) (pulseEff_notes s (pulseStamp s edge))
  · refine answers_due rfl (by simp [henabled, hthere, hlate]) ?_
    rw [raiseInt_time]
    exact ⟨rfl, rfl⟩
  · refine ⟨_, congrArg Host.Outcome.next (if_pos hruns), ?_⟩
    exact regReply_answers ..

end

end Sys2Proof.Machine

/-!
The steps of the governor (16 R458 to R471).
-/
namespace Sys2Proof.Machine

section
variable {s : State} {room unit hall level start t : Nat}

/-! A control interval counts as one, whatever the governor does in it (16 R458). -/

theorem hallEvents_ivCount (tele : Telemetry) : ∀ (hs : List Nat) (s : State), (hallEvents tele hs s).power.ivCount = s.power.ivCount
  | [], _ => rfl
  | h :: hs, s => by
    rw [hallEvents, hallEvents_ivCount tele hs]
    have hraise (b : Prop) [Decidable b] (n : Nat) (f : Power → Power) (hf : ∀ p, (f p).ivCount = p.ivCount) (s : State) :
        (if b then raiseInt n (modPower f s) else s).power.ivCount = s.power.ivCount := by
      split
      · rw [raiseInt_power]
        exact hf s.power
      · rfl
    rw [hraise, hraise, hraise, hraise] <;> exact fun _ => rfl

theorem modHalls_ivCount (f : Nat → HallPow → HallPow) : ∀ (hs : List Nat) (s : State), (modHalls f hs s).power.ivCount = s.power.ivCount
  | [], _ => rfl
  | _ :: hs, _ => (modHalls_ivCount f hs _).trans rfl

theorem capAt_ivCount (k : Nat) (s : State) : (capAt k s).power.ivCount = s.power.ivCount := by
  unfold capAt
  dsimp only
  split
  · rw [raiseInt_power]
    rfl
  · rfl

theorem capMove_ivCount (draw : Nat) (s : State) : (capMove draw s).power.ivCount = s.power.ivCount := capAt_ivCount ..

theorem moveVcore_ivCount (s : State) : (moveVcore s).power.ivCount = s.power.ivCount := by
  unfold moveVcore
  dsimp only
  split
  · rw [raiseInt_power]
    rfl
  · rfl

theorem thermalTrip_ivCount (s : State) : (thermalTrip s).power.ivCount = s.power.ivCount := by
  unfold thermalTrip
  split
  · rfl
  · rw [(haltAll_only (P := (· ≠ .power)) (by simp) (by simp) _ _ _ only_refl).power (by simp)]

theorem controlEff_ivCount (tele : Telemetry) (s : State) : (controlEff s tele).power.ivCount = s.power.ivCount + 1 := by
  have hcount (u : State) (hu : u.power.ivCount = s.power.ivCount) : (moveVcore (capMove (drawOf tele) (railSums tele
      (modPower (fun p => { p with ivCount := p.ivCount + 1, wSum := p.wSum + drawOf tele }) u)))).power.ivCount = s.power.ivCount + 1 := by
    rw [moveVcore_ivCount, capMove_ivCount, ← hu]
    rfl
  unfold controlEff
  dsimp only
  split
  · rw [thermalTrip_ivCount]
    exact hcount _ (by rw [modHalls_ivCount, hallEvents_ivCount])
  · exact hcount _ (by rw [modHalls_ivCount, hallEvents_ivCount])

/-! Gaps, holds and ramps (16 R469 to R471). -/

theorem gapOn_endGap (room unit : Nat) (s : State) : gapOn (endGap room unit s) room unit = false :=
  List.any_eq_false.2 fun g hg => by simpa only [Bool.not_eq_true, Bool.not_eq_true'] using (List.mem_filter.1 hg).2

theorem gapFillEndEff_ended (s : State) (room unit : Nat) : gapOn (gapFillEndEff s room unit) room unit = false := by
  unfold gapFillEndEff
  dsimp only
  split
  · exact gapOn_endGap room unit s
  · exact gapOn_endGap room unit s

theorem barrierHoldEnd_descends (hhall : hall < s.params.halls) (hramp : (hallPow s hall).ramp = .hold level start) (hover : start + s.power.cfg.hold ≤ upBeat s) :
    answers (.barrierHoldEnd hall) s fun u => (hallPow u hall).ramp = .down level (upBeat s) := by
  refine answers_dueAt rfl (by simp [hhall]) (by simp [holdOver, hramp, hover]) ?_
  rw [hallPow_modHall, rampDownOf, hramp]

theorem preRampStart_ramps (hhall : hall < s.params.halls) (hready : preRampReady s hall = true) (hrise : nextRise s hall = some (t, level)) :
    answers (.preRampStart hall) s fun u => (hallPow u hall).ramp = .pre (hallPow s hall).ivAmps level (upBeat s) t := by
  refine answers_dueAt rfl (by simp [hhall]) hready ?_
  rw [preRampEff, hrise]
  dsimp only
  rw [hallPow_modHall]

end

end Sys2Proof.Machine

/-!
Repairs, wear, replacement and the takeover of the steward (17 R484 to R497).
-/
namespace Sys2Proof.Machine

section
variable {s : State} {kind index : Nat} {r : Repair}

/-! What decisions change of health: the mappings and the marks of spares. -/

/-- The record differs in the mappings and in the marks of spares used and exhausted alone. -/
structure Remapped (h h' : Health) : Prop where
  same : ∃ map spareUsed spareOn exhausted gone, h' = { h with map := map, spareUsed := spareUsed, spareOn := spareOn, exhausted := exhausted, gone := gone }

theorem Remapped.refl (h : Health) : Remapped h h := ⟨h.map, h.spareUsed, h.spareOn, h.exhausted, h.gone, rfl⟩

theorem Remapped.trans {h h' h'' : Health} (k : Remapped h h') (k' : Remapped h' h'') : Remapped h h'' := by
  obtain ⟨_, _, _, _, _, rfl⟩ := k
  obtain ⟨_, _, _, _, _, rfl⟩ := k'
  exact ⟨_, _, _, _, _, rfl⟩

theorem Remapped.field {α : Type} {h h' : Health} (k : Remapped h h') (field : Health → α)
    (hf : ∀ h map spareUsed spareOn exhausted gone,
      field { h with map := map, spareUsed := spareUsed, spareOn := spareOn, exhausted := exhausted, gone := gone } = field h) : field h' = field h := by
  obtain ⟨_, _, _, _, _, rfl⟩ := k
  exact hf ..

theorem markSpare_health (s : State) : (markSpare s).health = { s.health with spareUsed := true, spareOn := true } := raiseInt_health ..

theorem markSpare_remapped {h : Health} (hs : Remapped h s.health) : Remapped h (markSpare s).health := by
  rw [markSpare_health]
  exact hs.trans ⟨_, _, _, _, _, rfl⟩

theorem markExhausted_remapped {h : Health} (hold : Bool) (hs : Remapped h s.health) : Remapped h (markExhausted hold s).health := by
  rw [markExhausted_health]
  exact hs.trans ⟨_, _, _, _, _, rfl⟩

theorem modMap_remapped (f : Mapping → Mapping) (s : State) : Remapped s.health (modMap f s).health := ⟨_, _, _, _, _, rfl⟩

theorem modUnit_remapped {h : Health} (k i : Nat) (f : UnitRec → UnitRec) (hs : Remapped h s.health) : Remapped h (modUnit k i f s).health :=
  hs.trans ⟨_, _, _, _, _, rfl⟩

theorem mapSpare_remapped (h l : Nat) (s : State) : Remapped s.health (mapSpare h l s).health := markSpare_remapped (modUnit_remapped _ _ _ (modMap_remapped ..))

theorem retireRoom_remapped (h l : Nat) (s : State) : Remapped s.health (retireRoom h l s).health := markExhausted_remapped _ ⟨_, _, _, _, _, rfl⟩

theorem applyAct_remapped (hall : Nat) (act : RepairAct) (s : State) : Remapped s.health (applyAct hall act s).health := by
  cases act with
  | row m k => exact markSpare_remapped (modMap_remapped ..)
  | col m k => exact markSpare_remapped (modMap_remapped ..)
  | spare l => exact mapSpare_remapped ..
  | retire l => exact retireRoom_remapped ..
  | chuteOff i => exact markExhausted_remapped _ (modUnit_remapped _ _ _ (modMap_remapped ..))
  | unused i => exact modUnit_remapped _ _ _ (.refl _)
  | stays => exact markExhausted_remapped _ (.refl _)

theorem applyActs_remapped (hall : Nat) : ∀ (acts : List RepairAct) (s : State), Remapped s.health (applyActs hall acts s).health
  | [], _ => .refl _
  | act :: acts, s => (applyAct_remapped hall act s).trans (applyActs_remapped hall acts _)

/-! HEALTH is settled, rooms released and tasks requeued without the record of repairs. -/

theorem settleHealth_health (s : State) : (settleHealth s).health = s.health :=
  (settleHealth_only (P := (· ≠ .health)) (by simp) (by simp) (by simp) only_refl).health (by simp)

theorem releaseRooms_health (rs : List Nat) (s : State) : (releaseRooms rs s).health = s.health :=
  (releaseRooms_only (P := (· ≠ .health)) (by simp) rs only_refl).health (by simp)

theorem requeueTask_health (n : Nat) (s : State) : (requeueTask n s).health = { s.health with evRequeue := satInc 255 s.health.evRequeue } := promote_health ..

theorem requeueAll_health : ∀ (ns : List Nat) (s : State), ∃ k, (requeueAll ns s).health = { s.health with evRequeue := k }
  | [], s => ⟨s.health.evRequeue, rfl⟩
  | n :: ns, s => by
    rw [requeueAll]
    split
    next t ht =>
      split
      · obtain ⟨k, hk⟩ := requeueAll_health ns (requeueTask n s)
        exact ⟨k, by rw [hk, requeueTask_health]⟩
      · exact requeueAll_health ns s
    next => exact requeueAll_health ns s

/-! REPAIR (17 R488). -/

theorem haltForRepair_health (code : Nat) (ns : List Nat) (s : State) : (haltForRepair code ns s).health = s.health :=
  (haltForRepair_only (P := (· ≠ .health)) (by simp) (by simp) code ns only_refl).health (by simp)

theorem repair_begins {a : Attrib} (hthere : unitExists s kind index = true) (hready : repairReady s kind index = true) (ha : attribOf s kind index = some a)
    (hthawed : s.shell.snap.frozen = false) :
    answers (.repair kind index) s fun u => u.health.attribs = s.health.attribs.erase a ∧ u.steward.healthSt = 2 := by
  refine answers_dueAt rfl hthere hready ?_
  simp only [repairEff, ha, hthawed, Bool.false_eq_true, if_false]
  constructor
  · rw [trace_health, setHealth_health, haltForRepair_health]
    rfl
  · rw [(trace_leaves ..).steward_healthSt (by decide), setHealth_healthSt]

/-! DIAGNOSIS_COMPLETE (17 R490). -/

theorem bringInAll_health (hall : Nat) (acts : List RepairAct) (s : State) : (bringInAll hall acts s).health = s.health :=
  (bringInAll_only (P := (· ≠ .health)) (by simp) (by simp) hall acts only_refl).health (by simp)

/-- A room, a mould and a chute have no failure of their own to relocate. -/
theorem relocateFailed_room (hkind : kind ∈ [1, 2, 7]) (index : Nat) (s : State) : relocateFailed kind index s = s := by
  simp only [List.mem_cons, List.not_mem_nil, or_false] at hkind
  obtain rfl | rfl | rfl := hkind <;> rfl

/-- What is found decides the acts of the repair. -/
theorem diagnosisEff_found {found : List Finding} (hkind : kind ∈ [1, 2, 7]) (hr : repairAt s kind index 1 = some r) (hfound : found ≠ []) :
    diagnosisEff s kind index found =
      trace 2 r.code (bringInAll (r.hall.getD 0) (findingActs s kind index found) (setRepair r 3 (findingActs s kind index found) s)) := by
  have hsome : found.isEmpty = false := by simpa using hfound
  simp only [diagnosisEff, hr, hsome, relocateFailed_room hkind, Bool.false_and, Bool.false_eq_true, false_and, if_false]

theorem diagnosisComplete_decides {found : List Finding} (hkind : kind ∈ [1, 2, 7]) (hthere : unitExists s kind index = true) (hr : repairAt s kind index 1 = some r)
    (hhalted : repairHalted s r = true) (hfound : found ≠ []) : answers (.diagnosisComplete kind index found) s fun u =>
      { r with stage := 3, acts := findingActs s kind index found } ∈ u.health.repairs := by
  refine answers_dueAt rfl hthere (by rw [hr]; exact hhalted) ?_
  rw [diagnosisEff_found hkind hr hfound, trace_health, bringInAll_health]
  exact List.mem_map.2 ⟨r, List.mem_of_find?_eq_some hr, if_pos rfl⟩

/-! REPAIR_MAPPING_EFFECT (17 R488). -/

theorem repairMappingEffect_ends (hthere : unitExists s kind index = true) (hr : repairAt s kind index 3 = some r) :
    answers (.repairMappingEffect kind index) s fun u => repairAt u kind index 3 = none ∧ u.health.evRepairs = satInc 255 s.health.evRepairs := by
  refine answers_dueAt rfl hthere (by rw [hr]; rfl) ?_
  simp only [mappingEff, hr]
  obtain ⟨k, hk⟩ := requeueAll_health r.tasks (settleHealth (releaseRooms r.rooms (modHealth (fun h => { h with
    repairs := h.repairs.filter (fun x => !(x.kind == kind && x.index == index && x.stage == 3)), evRepairs := satInc 255 h.evRepairs, recDue := true })
      (applyActs (r.hall.getD 0) r.acts s))))
  rw [settleHealth_health, releaseRooms_health, modHealth_health] at hk
  constructor
  · rw [repairAt, trace_health, hk, List.find?_eq_none]
    exact fun x hx => by simpa only [Bool.not_eq_true, Bool.not_eq_true'] using (List.mem_filter.1 hx).2
  · rw [trace_health, hk]
    exact congrArg (satInc 255) ((applyActs_remapped ..).field Health.evRepairs fun _ _ _ _ _ _ => rfl)

/-! The steward cores (17 R487, R495). -/

theorem takeoverEff_core (s : State) : (takeoverEff s).health.map.coreFail = some 0 := by
  rw [takeoverEff, settleHealth_health, markSpare_health]
  dsimp only
  rw [(haltAll_only (P := (· ≠ .health)) (by simp) (by simp) _ _ _ only_refl).health (by simp)]
  rfl

theorem takeoverEff_standby (s : State) : (takeoverEff s).steward.standby = true := by
  rw [takeoverEff]
  exact ((settleHealth_only (P := (· ≠ .serving)) (by simp) (by simp) (by simp) (markSpare_only (by simp) (by simp) (by simp)
    (haltAll_only (by simp) (by simp) _ _ _ only_refl))).same .serving (by simp)).1.trans rfl

/-! Wear and margins (17 R484, R486). -/

theorem unitOf_modUnit (k i : Nat) (f : UnitRec → UnitRec) (s : State) : unitOf (modUnit k i f s) k i = f (unitOf s k i) := by
  rw [unitOf, modUnit, tabMod, tabGet_put, if_pos rfl, unitOf]

theorem unitOf_wantReplace (k i k' i' : Nat) (s : State) : unitOf (wantReplace k i s) k' i' = unitOf s k' i' := by
  unfold wantReplace
  split
  · rfl
  · rfl

theorem wearSample_wear (x : WearSample) (s : State) : (unitOf (wearSample x s) x.kind x.index).wear = x.wear := by
  unfold wearSample
  dsimp only
  split
  · split
    · rw [unitOf_wantReplace, unitOf_modUnit]
    · rw [unitOf_modUnit]
  · rw [unitOf_modUnit]

/-! Proactive replacement (17 R497). -/

theorem startSwap_health (g lane old new : Nat) (s : State) : (startSwap g lane old new s).health = s.health :=
  (startSwap_only (P := (· ≠ .health)) (by simp) g lane old new only_refl).health (by simp)

theorem proactiveEff_unqueued (s : State) (kind index : Nat) : (proactiveEff s kind index).health.replaceQ = s.health.replaceQ.erase (kind, index) := by
  fun_cases proactiveEff s kind index
  case case1 => rw [modHealth_health, markSpare_health, startSwap_health]; rfl
  all_goals rfl

theorem replaceMould_remapped (index : Nat) (s : State) : Remapped s.health (replaceMould index s).health := by
  unfold replaceMould
  dsimp only
  split
  · exact applyAct_remapped 0 _ { s with freeCtr := s.freeCtr + 1 }
  · exact applyAct_remapped 0 _ { s with freeCtr := s.freeCtr + 1 }

theorem replacementEndEff_ended (s : State) (kind index : Nat) : (replacementEndEff s kind index).health.replacing = s.health.replacing.erase (kind, index) := by
  have hkept {t u : State} (h : Remapped t.health u.health) : u.health.replacing = t.health.replacing := h.field Health.replacing fun _ _ _ _ _ _ => rfl
  rw [replacementEndEff, settleHealth_health]
  split
  · exact hkept (replaceMould_remapped ..)
  · split
    · exact hkept (mapSpare_remapped ..)
    · rfl

theorem healthEventsComplete_holds (s : State) : healthEventsComplete s := by
  refine ⟨fun tele hruns hfew hsamples => ?_, fun room unit hhall hgap => ?_, fun hall level start hhall hramp hover => barrierHoldEnd_descends hhall hramp hover,
    fun hall t level hhall hready hrise => preRampStart_ramps hhall hready hrise,
    fun kind index a hthere hready ha hthawed => repair_begins hthere hready ha hthawed,
    fun kind index r found hkind hthere hr hhalted hfound => diagnosisComplete_decides hkind hthere hr hhalted hfound,
    fun kind index r hthere hr => repairMappingEffect_ends hthere hr, fun hup hcore hbeat => ?_, fun hready => ?_, fun x hruns hthere => ?_,
    fun bank mv hruns hthere => ?_, fun kind index hthere hready => ?_, fun kind index hthere hmem => ?_⟩
  · exact answers_due rfl (by simp [hruns, hfew, hsamples]) (controlEff_ivCount tele s)
  · exact answers_dueAt rfl (by simp [hhall]) hgap (gapFillEndEff_ended s room unit)
  · exact answers_due rfl (by simp [hup, hcore, hbeat]) rfl
  · exact answers_due rfl hready ⟨takeoverEff_core s, takeoverEff_standby s⟩
  · refine answers_due rfl hruns ?_
    rw [wearSamples, if_pos hthere]
    exact wearSample_wear x s
  · refine answers_dueAt rfl hthere hruns ?_
    exact (tabGet_put ..).trans (if_pos rfl)
  · exact answers_dueAt rfl hthere hready (proactiveEff_unqueued s kind index)
  · exact answers_dueAt rfl hthere (by simpa using hmem) (replacementEndEff_ended s kind index)

end

end Sys2Proof.Machine

/-!
The steps of the power sequencer (18 R509 to R523).
-/
namespace Sys2Proof.Machine

section
variable {s : State} {r n : Nat}

/-! Power-up (18 R510 to R514). -/

theorem railRequest_requests (hr : nextRail s.seq = some r) : answers .railRequest s fun u => u.seq.req = railSet s.seq.req r := by
  refine answers_due rfl (by rw [hr]; rfl) ?_
  rw [hr]
  rfl

/-- A failed power-up is in ENGINE_PHASE 0x7; of the sequencer the requests and the causes stand. -/
theorem failWith_fails (fail : Nat) (s : State) : (failWith fail s).steward.phase = 7 ∧ ∃ b, (failWith fail s).seq =
    { s.seq with step := .failed, fail := fail, pending := 3, trips := [], pd := none, resetReq := none, rising := false, phaseBeat := b } := by
  obtain ⟨b, hb⟩ := setPhase_seq 7 (modSeq (fun q => { q with
    step := .failed, fail := fail, pending := 3, trips := [], pd := none, resetReq := none, rising := false }) { s with steward := { s.steward with up := false } })
  exact ⟨setPhase_phase .., b, hb⟩

theorem failWith_req (fail : Nat) (s : State) : (failWith fail s).seq.req = s.seq.req := by
  obtain ⟨-, b, hseq⟩ := failWith_fails fail s
  rw [hseq]

theorem failWith_trigger (fail : Nat) (s : State) : (failWith fail s).seq.trigger = s.seq.trigger := by
  obtain ⟨-, b, hseq⟩ := failWith_fails fail s
  rw [hseq]

theorem failWith_rail (fail : Nat) (s : State) : (failWith fail s).seq.rail = s.seq.rail := by
  obtain ⟨-, b, hseq⟩ := failWith_fails fail s
  rw [hseq]

theorem railTimeoutEff_fails (s : State) : (railTimeoutEff s).seq.req = 0 ∧ (railTimeoutEff s).steward.phase = 7 ∧ (railTimeoutEff s).seq.step = .failed := by
  obtain ⟨hphase, b, hseq⟩ := failWith_fails (if failNext s = 3 then 4 else 1) (modSeq (fun q => { q with req := 0, failCount := failNext s }) s)
  rw [railTimeoutEff, hphase, hseq]
  exact ⟨rfl, rfl, rfl⟩

theorem hardPartResetRelease_starts (serial : BitVec 64) (key : BitVec 384) (pins : BitVec 16) (hstep : s.seq.step = .gap 3) :
    answers (.hardPartResetRelease serial key pins) s fun u => u.steward.phase = 1 ∧ u.seq.step = .run ∧ u.steward.serial = serial := by
  refine answers_due rfl (beq_iff_eq.2 hstep) ?_
  obtain ⟨hphase, -, b, hseq⟩ := startHard_begins serial key pins s
  refine ⟨hphase, by rw [hseq], ?_⟩
  unfold startHard
  dsimp only
  exact ((setPhase_only (P := (· ≠ .identity)) (by simp) (by simp) (by simp) (by simp) 1 only_refl).same .identity (by simp)).1.trans rfl

theorem firmwareVerified_runs {f : Option Nat} (hready : firmwareReady s = true) (hchoose : chooseFw s = some (n, f)) :
    answers .firmwareVerified s fun u => u.steward.up = true ∧ u.shell.keep.fwSlot = n := by
  have hkept {u : State} (h : changesOnly (fun p => p ≠ .serving ∧ p ≠ .keep) (runFirmware n f s) u) : u.steward.up = true ∧ u.shell.keep.fwSlot = n :=
    ⟨(h.same .serving (by simp)).2, congrArg Keep.fwSlot (h.same .keep (by simp))⟩
  refine answers_due rfl hready ?_
  simp only [firmwareEff, hchoose]
  split
  · split
    · exact hkept only_refl
    · exact hkept (startRoll_only (by simp) only_refl)
  · exact hkept (setPhase_only (by simp) (by simp) (by simp) (by simp) 2 (modFabric_only (by simp) _ only_refl))

theorem leaveSelfTest_phase (s : State) : (leaveSelfTest s).steward.phase = if s.params.gatehouses = 0 then 4 else 3 := by
  unfold leaveSelfTest
  split
  · exact setPhase_phase ..
  · exact setPhase_phase ..

theorem leaveSelfTest_health (s : State) : (leaveSelfTest s).health = s.health :=
  (leaveSelfTest_only (P := (· ≠ .health)) (by simp) (by simp) (by simp) (by simp) (by simp) (by simp) (by simp) (by simp) only_refl).health (by simp)

theorem setIFull_params (iFull : List Nat) (s : State) : (setIFull iFull s).params = s.params :=
  (setIFull_only (P := (· = .power)) rfl iFull only_refl).params (by simp)

theorem settleHealth_params (s : State) : (settleHealth s).params = s.params :=
  (settleHealth_only (P := (· ≠ .params)) (by simp) (by simp) (by simp) only_refl).params (by simp)

/-- A self-test that finds nothing leaves self-test. -/
theorem selfTestComplete_leaves (iFull : List Nat) (hstep : s.seq.step = .run) (hphase : s.steward.phase = 2) :
    answers (.selfTestComplete [] [] iFull) s fun u => u.steward.phase = (if s.params.gatehouses = 0 then 4 else 3) ∧ u.health.firstTest = true := by
  have hparams : (modHealth (fun h => { h with firstTest := true }) (setIFull iFull (settleHealth (clearStores (restoreMap s))))).params = s.params :=
    (setIFull_params ..).trans (settleHealth_params _)
  refine answers_due rfl (by simp [hstep, hphase]) ?_
  show (leaveSelfTest _).steward.phase = _ ∧ (leaveSelfTest _).health.firstTest = true
  rw [leaveSelfTest_phase, leaveSelfTest_health]
  exact ⟨by rw [← hparams]; rfl, rfl⟩

theorem engineReadyEff_ready (s : State) : (engineReadyEff s).steward.phase = 5 ∧ (engineReadyEff s).seq.failCount = 0 := by
  unfold engineReadyEff
  refine ⟨setPhase_phase .., ?_⟩
  obtain ⟨b, hb⟩ := setPhase_seq 5 (modSeq (fun q => { q with failCount := 0, rising := false, stewardOnly := false })
    (if s.seq.stewardOnly then clearStores s else s))
  rw [hb]
  rfl

theorem wakeEff_trigger (s : State) : (wakeEff s).seq.trigger = 9 := by
  unfold wakeEff
  dsimp only
  split
  · rfl
  · rfl

/-! SUPPLY_WARN (18 R511, R515, R521). -/

/-- The drop of the next request leaves the inputs as they are. -/
theorem dropNext_inputs (s : State) : (dropNext s).seq.warn = s.seq.warn ∧ (dropNext s).seq.good = s.seq.good := by
  unfold dropNext
  dsimp only
  split
  · exact ⟨rfl, rfl⟩
  · split
    · exact ⟨rfl, rfl⟩
    · exact ⟨rfl, rfl⟩

theorem warnEarly_warn (s : State) : (warnEarly s).seq.warn = s.seq.warn := by
  unfold warnEarly
  split
  · exact (dropNext_inputs _).1
  · exact (dropNext_inputs _).1
  · rfl

theorem supplyWarnEff_warn (s : State) : (supplyWarnEff s).seq.warn = true := by
  unfold supplyWarnEff
  dsimp only
  split
  · split
    · rfl
    · split
      · rfl
      · rfl
  · exact warnEarly_warn ..

theorem tryStart_inputs (s : State) : (tryStart s).seq.warn = s.seq.warn ∧ (tryStart s).seq.shellRst = s.seq.shellRst := by
  unfold tryStart
  split
  · exact ⟨rfl, rfl⟩
  · exact ⟨rfl, rfl⟩

/-! Power-down (18 R515 to R518). -/

theorem setPhase_trips (k : Nat) (s : State) : (setPhase k s).seq.trips = s.seq.trips := by
  obtain ⟨b, hb⟩ := setPhase_seq k s
  rw [hb]

/-- The sequencer records the triggers and begins at P0. -/
theorem powerDownEff_starts (s : State) : (powerDownEff s).steward.phase = 6 ∧ (powerDownEff s).seq.trips = [] := by
  refine ⟨setPhase_phase .., ?_⟩
  unfold powerDownEff
  dsimp only
  rw [setPhase_trips, (haltAll_only (P := (· ≠ .seq)) (by simp) (by simp) _ _ _ only_refl).seq (by simp),
    (stopChannels_only (P := (· ≠ .seq)) (by simp) _ only_refl).seq (by simp),
    (refuseStaged_only (P := (· ≠ .seq)) (by simp) (by simp) (by simp) (by simp) (by simp) _ only_refl).seq (by simp)]
  rfl

theorem powerDownCancel_returns (hready : cancelReady s = true) :
    answers .powerDownCancel s fun u => u.steward.phase = 5 ∧ u.seq.pd = none ∧ u.seq.cancelled = true := by
  refine answers_due rfl hready ?_
  obtain ⟨b, hb⟩ := setPhase_seq 5 (modSeq (fun q => { q with pd := none, pending := 0, cancelled := true }) s)
  refine ⟨?_, ?_⟩
  · rw [(promote_leaves _).steward_phase (by decide), (raiseInt_leaves ..).steward_phase (by decide), setPhase_phase]
  · rw [promote_seq, raiseInt_seq, hb]
    exact ⟨rfl, rfl⟩

theorem pointOfNoReturn_passes {x : PowerDown} (hready : noReturnReady s = true) (hx : s.seq.pd = some x) :
    answers .pointOfNoReturn s fun u => u.seq.pd = some { x with past := true } ∧ u.steward.up = false := by
  have hflush (t : State) : changesOnly (fun p => p ≠ .seq ∧ p ≠ .serving) t (startFlush t) := startFlush_only (by simp) (by simp) (by simp) only_refl
  refine answers_due rfl hready ⟨?_, ?_⟩
  · rw [noReturnEff, (hflush _).seq (by simp)]
    exact congrArg (Option.map fun p : PowerDown => { p with past := true }) hx
  · exact ((hflush _).same .serving (by simp)).2

theorem railGoodFall_falls (hrail : isRail r = true) (hgood : railOn s.seq.good r = true) (hreq : railOn s.seq.req r = false) :
    answers (.railGoodFall r) s fun u => u.seq.good = railOff s.seq.good r := by
  refine answers_dueAt rfl hrail (by simp [hgood, hreq]) ?_
  unfold afterDrop
  split
  · exact (dropNext_inputs _).2
  · rfl

theorem dropNext_dropsNext (s : State) : dropsNext s.seq s (dropNext s) := by
  refine ⟨fun h3 => ?_, fun h3 h2 => ?_, fun h3 h2 => ?_⟩
  · simp only [dropNext, h3, if_true]
    exact ⟨rfl, rfl⟩
  · simp only [dropNext, h3, h2, Bool.false_eq_true, if_true, if_false]
    exact ⟨rfl, rfl⟩
  · simp only [dropNext, h3, h2, Bool.false_eq_true, if_false]
    exact ⟨rfl, rfl, rfl, rfl, rfl, rfl, rfl, rfl, rfl, rfl, rfl, rfl, rfl, rfl, rfl, rfl, rfl, rfl, rfl, rfl⟩

theorem powerDownSettle_rises (hstep : s.seq.step = .settle) (hpending : s.seq.pending = 2) :
    answers .powerDownSettle s fun u => u.seq.step = .wait ∧ u.seq.pending = 0 := by
  refine answers_due rfl (beq_iff_eq.2 hstep) ?_
  rw [if_pos hpending]
  exact ⟨rfl, rfl⟩

/-! Rail failure and the resets of the shell (18 R519, R520). -/

theorem collapse_rail (trigger : Nat) (hr : r ≠ 0) (s : State) :
    (collapse trigger r s).seq.req = 0 ∧ (collapse trigger r s).seq.trigger = trigger ∧ (collapse trigger r s).seq.rail = r := by
  fun_cases collapse trigger r s
  case case1 => exact ⟨rfl, rfl, if_neg hr⟩
  case case2 => exact ⟨failWith_req .., failWith_trigger .., (failWith_rail ..).trans (if_neg hr)⟩
  case case3 => exact ⟨rfl, rfl, if_neg hr⟩

theorem sequencerEventsComplete_holds (s : State) : sequencerEventsComplete s := by
  refine ⟨fun hdead => answers_due rfl (beq_iff_eq.2 hdead) ⟨rfl, rfl⟩, fun r hr => railRequest_requests hr, fun r hrail hlive hlow => ?_, fun hawaits => ?_,
    fun serial key pins hstep => hardPartResetRelease_starts serial key pins hstep, fun n f hready hchoose => firmwareVerified_runs hready hchoose,
    fun iFull hstep hphase => selfTestComplete_leaves iFull hstep hphase, fun hready => answers_due rfl hready (engineReadyEff_ready s),
    fun hready => answers_due rfl hready (wakeEff_trigger s), ⟨_, rfl, supplyWarnEff_warn s⟩, ⟨_, rfl, (tryStart_inputs _).1⟩,
    fun hready => answers_due rfl hready (powerDownEff_starts s), fun hready => powerDownCancel_returns hready, fun x hready hx => pointOfNoReturn_passes hready hx,
    fun r hrail hgood hreq => railGoodFall_falls hrail hgood hreq, fun r hstep => ?_, fun hstep hpending => powerDownSettle_rises hstep hpending,
    fun r hrail hready => ?_, ⟨_, rfl, rfl⟩, ⟨_, rfl, (tryStart_inputs _).2⟩, fun hlive => ?_⟩
  · exact answers_dueAt rfl hrail (by simp [hlive, hlow]) rfl
  · exact answers_due rfl hawaits (railTimeoutEff_fails s)
  · exact answers_due rfl (by rw [dropping, hstep]; rfl) (dropNext_dropsNext s)
  · have hr : r ≠ 0 := by
      rintro rfl
      exact absurd hrail (by decide)
    exact answers_dueAt rfl hrail hready (collapse_rail 7 hr _)
  · exact answers_due rfl (bne_iff_ne.2 hlive) rfl

end

/-- Settles O60: each request or event is one effect on the part that it names, and the first of its effects is read there. -/
theorem requestsAndEventsComplete : Obligations.RequestsAndEventsComplete := by
  intro s
  exact ⟨requestsComplete_holds s, fun g p => ⟨laneEventsComplete_holds s g p, portEventsComplete_holds s g p⟩, timeEventsComplete_holds s,
    healthEventsComplete_holds s, sequencerEventsComplete_holds s⟩

end Sys2Proof.Machine

/-!
Hatch channels (12 R357 to R365): where a command leaves a channel alone, the stop of a channel on an error, and a start.
-/
namespace Sys2Proof.Machine

section
variable {s t u : State} {c k e : Nat}

theorem hatchOf_of_hatch (h : t.shell.hatch = s.shell.hatch) (k : Nat) : hatchOf t k = hatchOf s k := by rw [hatchOf, h, hatchOf]

theorem hatchOf_modHatch_ne (hk : k ≠ c) (f : Hatch → Hatch) (s : State) : hatchOf (modHatch c f s) k = hatchOf s k := by
  simp [hatchOf, modHatch, modShell, tabGet_mod, Ne.symm hk]

@[simp] theorem hatchOf_hatchIrq (c k : Nat) (s : State) : hatchOf (hatchIrq c s) k = hatchOf s k :=
  hatchOf_of_hatch ((hatchIrq_only (P := (· ≠ .hatch)) (by simp) (by simp) c only_refl).shell_hatch (by simp)) k

@[simp] theorem hatchOf_landCloses (s : State) (k : Nat) : hatchOf (landCloses s) k = hatchOf s k :=
  hatchOf_of_hatch ((landCloses_only (P := (· ≠ .hatch)) (by simp) (by simp) (by simp) (by simp) only_refl).shell_hatch (by simp)) k

theorem hatchOf_copyLines (ls : List Nat) (s : State) (k : Nat) : hatchOf (copyLines ls s).1 k = hatchOf s k :=
  hatchOf_of_hatch ((copyLines_leaves ls s).shell_hatch (by decide)) k

theorem hatchOf_hatchError (c e : Nat) (s : State) : hatchOf (hatchError c e s) c = { hatchOf s c with
    start := false, stop := false, busy := false, error := true, err := if (hatchOf s c).killed then 5 else e, killed := false } := by
  rw [hatchError, hatchOf_hatchIrq, hatchOf_modHatch]

theorem hatchOf_hatchError_ne (hk : k ≠ c) (e : Nat) (s : State) : hatchOf (hatchError c e s) k = hatchOf s k := by
  rw [hatchError, hatchOf_hatchIrq, hatchOf_modHatch_ne hk]

theorem hatchError_bytes (c e : Nat) (s : State) : (hatchError c e s).store.mem = s.store.mem :=
  congrArg Store.mem ((hatchError_only (P := (· ≠ .store)) (by simp) (by simp) (by simp) c e only_refl).store (by simp))

/-! A channel stops on an error (12 R362). -/

/-- In `u` channel `c` has stopped on the error `e`, or stays stopped for its context's destruction (12 R365); its COUNT and the other channels are those of `s`. -/
def stoppedOn (s : State) (c e : Nat) (u : State) : Prop :=
  (hatchOf u c).start = false ∧ (hatchOf u c).busy = false ∧ (hatchOf u c).stop = false ∧ (hatchOf u c).error = true ∧
    (hatchOf u c).err = (if (hatchOf s c).killed then 5 else e) ∧ (hatchOf u c).count = (hatchOf s c).count ∧ ∀ k, k ≠ c → hatchOf u k = hatchOf s k

/-- An error stops a channel whose marks of a burst alone have changed. -/
theorem hatchError_stops (hkilled : (hatchOf t c).killed = (hatchOf s c).killed) (hcount : (hatchOf t c).count = (hatchOf s c).count)
    (hothers : ∀ k, k ≠ c → hatchOf t k = hatchOf s k) : stoppedOn s c e (hatchError c e t) := by
  rw [stoppedOn, hatchOf_hatchError, hkilled, hcount]
  exact ⟨rfl, rfl, rfl, rfl, rfl, rfl, fun k hk => (hatchOf_hatchError_ne hk e t).trans (hothers k hk)⟩

theorem hatchError_stops_of_hatch (h : ∀ k, hatchOf t k = hatchOf s k) : stoppedOn s c e (hatchError c e t) :=
  hatchError_stops (by rw [h]) (by rw [h]) fun k _ => h k

theorem stoppedOn.landCloses (h : stoppedOn s c e u) : stoppedOn s c e (landCloses u) := by
  simpa only [stoppedOn, hatchOf_landCloses] using h

/-! HATCH_START and HATCH_REQUEST (12 R359, R360). -/

theorem exec_hatchStart (hc : hasHatch s c = true) (hup : hardUp s = true) : exec (.hatchStart c) s = .next (hatchStart c s) := by
  change dueAt (hasHatch s c) (hardUp s) s (hatchStart c s) = _
  rw [hc, hup]
  rfl

theorem hatchStart_ignored (h : s.shell.disable = true ∨ (hatchOf s c).start = true) : hatchStart c s = s := if_pos h

/-- A start that is admitted also drops the burst that an earlier beat has made due. -/
theorem hatchStart_starts (henabled : s.shell.disable = false) (hidle : (hatchOf s c).start = false) (hok : startOk s (hatchOf s c) = true) :
    hatchStart c s = modHatch c (fun h => { h with start := true, beatDue := false }) s := by
  simp [hatchStart, henabled, hidle, hok]

theorem hatchStart_refused (henabled : s.shell.disable = false) (hidle : (hatchOf s c).start = false) (hok : startOk s (hatchOf s c) = false) :
    hatchStart c s = hatchError c 6 s := by
  simp [hatchStart, henabled, hidle, hok]

theorem hatchRequest_ignored (h : s.shell.disable = true) : exec (.hatchRequest c) s = .next s := by
  change due (hasHatch s c && hardUp s) s (requestPulse c s) = _
  rw [requestPulse, if_pos h, due, ite_self]

/-! HATCH_BURST_ISSUE and HATCH_BURST_LANDED (12 R358, R362). -/

theorem hatchOf_turn (n : Nat) (s : State) (k : Nat) : hatchOf (modShell (fun h => { h with turn := n }) s) k = hatchOf s k := rfl

/-- The state in which a burst of the channel is in flight and the next turn starts after it (12 R360, R361). -/
def burstIssued (s : State) (c : Nat) : State :=
  modShell (fun h => { h with turn := c + 1 }) (modHatch c (fun h => { h with
    busy := true, flight := burstLen h, beatDue := false, pending := if h.pace = 0 then h.pending - 1 else h.pending }) s)

theorem hatchOf_burstIssued (s : State) (c : Nat) : hatchOf (burstIssued s c) c = { hatchOf s c with
    busy := true, flight := burstLen (hatchOf s c), beatDue := false
    pending := if (hatchOf s c).pace = 0 then (hatchOf s c).pending - 1 else (hatchOf s c).pending } := by
  rw [burstIssued, hatchOf_turn, hatchOf_modHatch]

theorem hatchOf_burstIssued_ne (hk : k ≠ c) : hatchOf (burstIssued s c) k = hatchOf s k := by
  rw [burstIssued, hatchOf_turn, hatchOf_modHatch_ne hk]

theorem burstEff_refused (hcheck : burstCheck s (hatchOf s c) ≠ 0) : burstEff s c = hatchError c (burstCheck s (hatchOf s c)) (burstIssued s c) := by
  rw [burstEff]
  split
  next h => exact absurd h hcheck
  next => rfl

theorem burstEff_stops (hcheck : burstCheck s (hatchOf s c) ≠ 0) : stoppedOn s c (burstCheck s (hatchOf s c)) (burstEff s c) := by
  rw [burstEff_refused hcheck]
  refine hatchError_stops ?_ ?_ fun k hk => hatchOf_burstIssued_ne hk
  · rw [hatchOf_burstIssued]
  · rw [hatchOf_burstIssued]

theorem landedEff_failed : stoppedOn s c 4 (landedEff s c none) ∧ (landedEff s c none).store.mem = s.store.mem :=
  ⟨(hatchError_stops_of_hatch fun _ => rfl).landCloses, (landCloses_bytes _).trans (hatchError_bytes ..)⟩

theorem landedEff_unreadable {bs : List Byte} (hout : (burstStore (hatchOf s c)).2 = false)
    (hline : (copyLines (linesOf (burstStore (hatchOf s c)).1 (burstLen (hatchOf s c))) s).2.2 ≠ none) :
    stoppedOn s c 3 (landedEff s c (some bs)) ∧ (landedEff s c (some bs)).store.mem = s.store.mem := by
  obtain ⟨l, hl⟩ := Option.ne_none_iff_exists'.1 hline
  have heff : landedEff s c (some bs) = landCloses (hatchError c 3 (copyLines (linesOf (burstStore (hatchOf s c)).1 (burstLen (hatchOf s c))) s).1) := by
    simp only [landedEff, landBurst, hout, hl, Bool.false_eq_true, if_false]
  rw [heff]
  exact ⟨(hatchError_stops_of_hatch (hatchOf_copyLines _ s)).landCloses, (landCloses_bytes _).trans ((hatchError_bytes ..).trans (copyLines_bytes ..))⟩

end

/-- Settles O57: a command that the hatch ignores leaves the state, and each error is one stop of the channel. -/
theorem hatchErrorsStopTheChannel : Obligations.HatchErrorsStopTheChannel := by
  rintro s c hc _ rfl stops hstops
  obtain rfl : stops = stoppedOn s c := funext₂ fun e u => propext (hstops e u)
  refine ⟨fun hup hignored => ?_, fun hup henabled hidle hok => ?_, hatchRequest_ignored, fun hready hcheck => answers_dueAt rfl hc hready (burstEff_stops hcheck),
    fun hbusy => answers_dueAt rfl hc ?_ landedEff_failed, fun bs hbusy hout hline => answers_dueAt rfl hc ?_ (landedEff_unreadable hout hline)⟩
  · rw [exec_hatchStart hc hup, hatchStart_ignored hignored]
  · exact ⟨_, exec_hatchStart hc hup, hatchStart_refused henabled hidle hok ▸ hatchError_stops_of_hatch fun _ => rfl⟩
  · simp [landedReady, hbusy]
  · simp [landedReady, hbusy, hout]

/-! A start that finds a burst due. -/

/-- A channel paced by beats, from annex slot 0 into the store, which was stopped after a beat had made a burst due. -/
def stoppedAfterBeat : Hatch := { hatchZero with src := 0x4000000000000000, count := 0x1000, ctx := 1, pace := 1, beatDue := true }

/-- An engine that runs, with an annex in slot 0 and that channel. -/
def hatchAfterBeat : State := { State.reset with
  params := { paramsTop with annexSlots := 1 }
  seq := { seqReset with step := .run, good := 7, req := 7 }
  time := { timeReset with running := true }
  shell := { shellReset with hatch := [(0, stoppedAfterBeat)] } }

/-- Refutes O28: the statement says that a start sets START and nothing else of the channel, but it also forgets the burst that a beat before it has made due. -/
theorem not_hatchCommandsComplete : ¬ Obligations.HatchCommandsComplete := by
  intro h
  obtain ⟨hstart, -⟩ := h hatchAfterBeat 0 rfl stoppedAfterBeat rfl
  obtain ⟨t, ht, hchannel, -⟩ := hstart rfl rfl rfl (by decide)
  rw [exec_hatchStart rfl rfl, hatchStart_starts rfl rfl (by decide)] at ht
  obtain rfl : modHatch 0 _ hatchAfterBeat = t := Host.Outcome.next.inj ht
  rw [hatchOf_modHatch] at hchannel
  exact Bool.false_ne_true (congrArg Hatch.beatDue hchannel)

end Sys2Proof.Machine

/-!
Stream ports (12 R355): what the accesses of a hand-over leave, whether they are served or one of them faults.
-/
namespace Sys2Proof.Machine

section
variable {s : State} {n pipe : Nat} {q : StreamPort} {p : PipeRec} {x : RingRec} {t : Task} {i : Image} {r : Run} {sig : Nat × Nat} {code iter line : Nat}

/-- A port serves a task that runs and does not halt. -/
theorem portAt_runs (h : portAt s n pipe = some (q, p, x, t, i)) : taskOf s n = some t ∧ t.state = .launched ∧ t.halting = false := by
  unfold portAt at h
  split at h
  case h_1 => cases h
  case h_2 t' i' hrun =>
    split at h
    case h_1 =>
      obtain ⟨y, -, hy⟩ := Option.map_eq_some_iff.1 h
      cases hy
      exact runningTask_some hrun
    case h_2 => cases h

/-! The accesses of a hand-over. -/

theorem portRun_served (h : r.fault = none) : (portRun n sig r s).store = { r.st with remote := signalLast sig.1 sig.2 r.st.remote } ∧
    (portRun n sig r s).shell.ports = s.shell.ports ∧ (portRun n sig r s).rooms = s.rooms := by
  have hports := (putStore_leaves r.st { s with freeCtr := r.free }).shell_ports (by decide)
  simp [portRun, h, hports]

theorem portRun_halts (ht : taskOf s n = some t) (hlaunched : t.state = .launched) (hruns : t.halting = false) (h : r.fault = some (code, iter, line)) :
    ∃ v, taskOf (portRun n sig r s) n = some v ∧ v.halting = true ∧ v.status = code := by
  have hwrote := taskOf_modTask_same n (fun t => { t with wrote := r.wrote ++ t.wrote }) (fun _ => rfl) (putStore r.st { s with freeCtr := r.free }) t
    ((taskOf_of_tasks (putStore_steward_tasks ..) n).trans ht)
  have hhalts := haltTask_task (code := code) (fr := some { plainFault code with line := faultLine code line }) (rp := false) hwrote hlaunched hruns
  simp only [portRun, h]
  rwa [taskOf_of_tasks ((blameBank_only (P := (· ≠ .tasks)) (by simp) (by simp) (by simp) (by simp) code line only_refl).steward_tasks (by simp))]

/-! STREAM_PORT_TAKE and STREAM_PORT_APPEND. -/

section
variable (hat : portAt s n pipe = some (q, p, x, t, i))
include hat

theorem portTake_served (hready : portTakeReady s n pipe = true) {r : Run × List Byte}
    (hr : r = ringTake (portEnv s t i q pipe) (pipeRoom p) x.desc (runOf s (roomOf s (pipeRoom p))) p.slot) (hfault : r.1.fault = none) :
    answers (.streamPortTake n pipe) s fun u => u.store = { r.1.st with remote := signalLast p.producer p.creditCtr r.1.st.remote } ∧
      u.shell.ports = s.shell.ports.map (fun z => if z.task = n ∧ z.pipe = pipe then
        { z with done := z.done + 1, taken := z.taken + 1, held := z.held ++ r.2, since := if z.held.isEmpty then some (upBeat s) else z.since } else z) ∧
      u.rooms = s.rooms := by
  obtain ⟨hstore, hports, hrooms⟩ := portRun_served (s := s) (n := n) (sig := (p.producer, p.creditCtr)) hfault
  subst hr
  refine answers_due rfl hready ?_
  simp only [portTakeEff, hat, hfault, Option.isSome_none, Bool.false_eq_true, if_false]
  exact ⟨hstore, by rw [modPort', hports], hrooms⟩

theorem portTake_faults (hready : portTakeReady s n pipe = true) {r : Run × List Byte}
    (hr : r = ringTake (portEnv s t i q pipe) (pipeRoom p) x.desc (runOf s (roomOf s (pipeRoom p))) p.slot) (hfault : r.1.fault = some (code, iter, line)) :
    answers (.streamPortTake n pipe) s fun u => ∃ v, taskOf u n = some v ∧ v.halting = true ∧ v.status = code := by
  obtain ⟨ht, hlaunched, hruns⟩ := portAt_runs hat
  subst hr
  refine answers_due rfl hready ?_
  simp only [portTakeEff, hat, hfault, Option.isSome_some, if_true]
  exact portRun_halts ht hlaunched hruns hfault

theorem portAppend_served {bytes : List Byte} (hready : portAppendReady s n pipe bytes = true)
    (hr : r = moveAppend (portEnv s t i q pipe) (pipeRoom p) x.desc (runOf s (roomOf s (pipeRoom p))) bytes) (hfault : r.fault = none) :
    answers (.streamPortAppend n pipe bytes) s fun u => u.store = { r.st with remote := signalLast p.consumer p.dataCtr r.st.remote } ∧
      u.shell.ports = s.shell.ports.map (fun z => if z.task = n ∧ z.pipe = pipe then { z with done := z.done + 1 } else z) ∧ u.rooms = s.rooms := by
  obtain ⟨hstore, hports, hrooms⟩ := portRun_served (s := s) (n := n) (sig := (p.consumer, p.dataCtr)) hfault
  subst hr
  refine answers_due rfl hready ?_
  simp only [portAppendEff, hat, hfault, Option.isSome_none, Bool.false_eq_true, if_false]
  exact ⟨hstore, by rw [modPort', hports], hrooms⟩

theorem portAppend_faults {bytes : List Byte} (hready : portAppendReady s n pipe bytes = true)
    (hr : r = moveAppend (portEnv s t i q pipe) (pipeRoom p) x.desc (runOf s (roomOf s (pipeRoom p))) bytes) (hfault : r.fault = some (code, iter, line)) :
    answers (.streamPortAppend n pipe bytes) s fun u => ∃ v, taskOf u n = some v ∧ v.halting = true ∧ v.status = code := by
  obtain ⟨ht, hlaunched, hruns⟩ := portAt_runs hat
  subst hr
  refine answers_due rfl hready ?_
  simp only [portAppendEff, hat, hfault, Option.isSome_some, if_true]
  exact portRun_halts ht hlaunched hruns hfault

end

end

/-- Settles O12: a hand-over is one run of accesses, and the port counts it where none of them faults. -/
theorem streamPortsComplete : Obligations.StreamPortsComplete := by
  rintro s n pipe q p x t i hat _ _ _ rfl rfl rfl
  exact ⟨fun hready r hr => ⟨portTake_served hat hready hr, fun _ _ _ => portTake_faults hat hready hr⟩,
    fun bytes hready r hr => ⟨portAppend_served hat hready hr, fun _ _ _ => portAppend_faults hat hready hr⟩⟩

end Sys2Proof.Machine

/-!
The requests on the engine as a whole (12 R373, R374, 14 R432, 18 R522), with all that each leaves, and the resets that take effect (18 R523).
-/
namespace Sys2Proof.Machine

section
variable {s : State} {m : Nat} {w : MsgWord} {r : ResetReq}

/-! SNAPSHOT (12 R374). -/

theorem freezeEff_pends (hidle : snapBusy s = false) (hfabric : fabricTask s = false) (hhold : wfld w 0x0E 2 ≠ 0)
    (hbeat : wfld w 0x10 8 = 0 ∨ beatOf s < wfld w 0x10 8) : freezeEff s m w = await m (modSnap (fun x => { x with
      pend := true, beat := if wfld w 0x10 8 = 0 then beatOf s + 1 else wfld w 0x10 8, named := wfld w 0x10 8 != 0, hold := wfld w 0x0E 2, mbox := some m
      noCapture := x.noCapture }) s) := by
  have hfree : ¬ (snapBusy s = true ∨ fabricTask s = true) := by simp [hidle, hfabric]
  have hahead : ¬ (wfld w 0x0E 2 = 0 ∨ (wfld w 0x10 8 ≠ 0 ∧ wfld w 0x10 8 ≤ beatOf s)) := by omega
  exact (if_neg hfree).trans (if_neg hahead)

theorem snapshotFreeze_accepts (hreq : requested s m w 0x37) (haction : wfld w 0x0C 1 = 0) (hidle : snapBusy s = false) (hfabric : fabricTask s = false)
    (hhold : wfld w 0x0E 2 ≠ 0) (hbeat : wfld w 0x10 8 = 0 ∨ beatOf s < wfld w 0x10 8) : answers (.snapshotFreeze m w) s fun u => waits u m w ∧
      u.shell.snap.pend = true ∧ u.shell.snap.hold = wfld w 0x0E 2 ∧ u.shell.snap.mbox = some m ∧
      u.shell.snap.beat = if wfld w 0x10 8 = 0 then beatOf s + 1 else wfld w 0x10 8 := by
  have hex := executes_of_requested hreq
  obtain ⟨hm, hready⟩ := hreq
  refine answers_dueAt rfl (decide_eq_true hm) (by rw [hready, haction]; rfl) ?_
  rw [freezeEff_pends hidle hfabric hhold hbeat]
  exact ⟨(hex.of_mboxes rfl).waits, rfl, rfl, rfl, rfl⟩

theorem endFreeze_leaves (s : State) : changesOnly (· ∈ ([.snap] : List Part)) s (endFreeze s) := endFreeze_only (by decide) only_refl

theorem endFreeze_ending (hfrozen : s.shell.snap.frozen = true) : (endFreeze s).shell.snap.ending.isSome = true := by
  cases hending : s.shell.snap.ending <;> simp [endFreeze, hfrozen, hending]

theorem snapshotRelease_accepts (hreq : requested s m w 0x37) (haction : wfld w 0x0C 1 = 1) (hfrozen : s.shell.snap.frozen = true) :
    answers (.snapshotRelease m w) s fun u => waits u m w ∧ m ∈ u.shell.snap.relMbox ∧ u.shell.snap.ending.isSome = true := by
  have hex := (executes_of_requested hreq).of_mboxes ((endFreeze_leaves s).steward_mboxes (by decide))
  obtain ⟨hm, hready⟩ := hreq
  refine answers_dueAt rfl (decide_eq_true hm) (by rw [hready, haction]; rfl) ?_
  rw [releaseEff, if_pos hfrozen]
  exact ⟨(hex.of_mboxes rfl).waits, List.mem_append_right _ (List.mem_singleton.2 rfl), endFreeze_ending hfrozen⟩

/-! LINK_TEST (14 R432). -/

/-- The test that a request asks for, before it begins. -/
def testAsked (s : State) (m : Nat) (w : MsgWord) : LinkTst :=
  ⟨wfld w 0x0E 1, wfld w 0x0F 1, wfld w 0x10 1 == 1, wfld w 0x14 4, some m, upBeat s, false, 0, 0, 0, 0, 0, 0⟩

section
variable (hthere : portThere s (wfld w 0x0C 1) (wfld w 0x0D 1) = true) (htestable : testable (portOf s (wfld w 0x0C 1) (wfld w 0x0D 1)) = true)
include hthere htestable

theorem linkTestEff_far (hfar : wfld w 0x0E 1 = 2) : linkTestEff s m w = await m (putPort (wfld w 0x0C 1) (wfld w 0x0D 1)
    { portOf s (wfld w 0x0C 1) (wfld w 0x0D 1) with
      test := some (testAsked s m w), loopQ := (portOf s (wfld w 0x0C 1) (wfld w 0x0D 1)).loopQ ++ [.loop true (wfld w 0x14 4)] } s) := by
  simp only [linkTestEff, hthere, htestable, Bool.true_eq_false, or_self, if_false, if_pos hfar]
  rfl

theorem linkTestEff_near (hnear : wfld w 0x0E 1 ≠ 2) : linkTestEff s m w = await m (putPort (wfld w 0x0C 1) (wfld w 0x0D 1)
    (enterTest s (testAsked s m w) (portOf s (wfld w 0x0C 1) (wfld w 0x0D 1))) { s with freeCtr := s.freeCtr + 1 }) := by
  simp only [linkTestEff, hthere, htestable, Bool.true_eq_false, or_self, if_false, if_neg hnear]
  rfl

theorem linkTest_accepts (hreq : requested s m w 0x38) : answers (.linkTest m w) s fun u => waits u m w ∧
    (wfld w 0x0E 1 = 2 → (portOf u (wfld w 0x0C 1) (wfld w 0x0D 1)).loopQ = (portOf s (wfld w 0x0C 1) (wfld w 0x0D 1)).loopQ ++ [.loop true (wfld w 0x14 4)] ∧
      (portOf u (wfld w 0x0C 1) (wfld w 0x0D 1)).st = (portOf s (wfld w 0x0C 1) (wfld w 0x0D 1)).st) ∧
    (wfld w 0x0E 1 ≠ 2 → (portOf u (wfld w 0x0C 1) (wfld w 0x0D 1)).st = 8 ∧ (portOf u (wfld w 0x0C 1) (wfld w 0x0D 1)).rate = wfld w 0x0F 1) := by
  have hex := executes_of_requested hreq
  refine answers_request hreq rfl ?_
  by_cases hloop : wfld w 0x0E 1 = 2
  · rw [linkTestEff_far hthere htestable hloop, portOf_of_links (await_links ..), portOf_putPort]
    exact ⟨(hex.of_mboxes rfl).waits, fun _ => ⟨rfl, rfl⟩, fun hnear => absurd hloop hnear⟩
  · rw [linkTestEff_near hthere htestable hloop, portOf_of_links (await_links ..), portOf_putPort]
    exact ⟨(hex.of_mboxes rfl).waits, fun hfar => absurd hfar hloop, fun _ => ⟨rfl, rfl⟩⟩

end

/-! FW_UPDATE (12 R373). -/

theorem fwUpdateEff_queues {raw : List Byte} (hsize : wfld w 0x14 4 ≤ 0x800000 - 64) (hlength : (raw.take (wfld w 0x14 4)).length = wfld w 0x14 4)
    (hformat : fwFormat (raw.take (wfld w 0x14 4)) = true) (hsigned : fwSigned s.steward.keyHash (raw.take (wfld w 0x14 4)) = true)
    (hsvn : s.shell.keep.svn ≤ pfld (raw.take (wfld w 0x14 4)) 0xC 4) :
    fwUpdateEff s m w (some raw) = await m (queueKeep 1 (raw.take (wfld w 0x14 4)) (some m) s) := by
  simp only [fwUpdateEff, if_neg (Nat.not_lt.2 hsize), hlength, hformat, hsigned, ne_eq, not_true, Bool.true_eq_false, or_self, if_false, if_neg (Nat.not_lt.2 hsvn)]

theorem fwUpdate_accepts {raw : List Byte} (hreq : requested s m w 0x39) (hsize : wfld w 0x14 4 ≤ 0x800000 - 64)
    (hlength : (raw.take (wfld w 0x14 4)).length = wfld w 0x14 4) (hformat : fwFormat (raw.take (wfld w 0x14 4)) = true)
    (hsigned : fwSigned s.steward.keyHash (raw.take (wfld w 0x14 4)) = true) (hsvn : s.shell.keep.svn ≤ pfld (raw.take (wfld w 0x14 4)) 0xC 4) :
    answers (.fwUpdate m w (some raw)) s fun u => waits u m w ∧ ∃ x ∈ u.shell.keep.writes, x.mbox = some m ∧ x.item = 1 := by
  refine answers_request hreq rfl ?_
  rw [fwUpdateEff_queues hsize hlength hformat hsigned hsvn]
  exact ⟨((executes_of_requested hreq).of_mboxes rfl).waits, _, List.mem_append_right _ (List.mem_singleton.2 rfl), rfl, rfl⟩

/-! RESET_REQUEST (18 R522). -/

/-- The answer of a reset notes in the request only that it is given. -/
theorem resetAnswer_resetReq (h : s.seq.resetReq = some r) : ∃ a, (resetAnswer s).seq.resetReq = some { r with answered := a } := by
  unfold resetAnswer
  rw [h]
  dsimp only
  split
  · rw [(respondAll_only (P := (· ≠ .seq)) (by simp) (by simp) (by simp) _ _ only_refl).seq (by simp)]
    exact ⟨true, rfl⟩
  · exact ⟨r.answered, h⟩

theorem le_resetAsked_kind (m kind : Nat) (s : State) : kind ≤ (resetAsked m kind s).kind := by
  unfold resetAsked
  split
  · exact le_max_right ..
  · exact le_rfl

theorem askReset_joins (m kind : Nat) (s : State) : ∃ a, (askReset m kind s).seq.resetReq = some { resetAsked m kind s with answered := a } := by
  refine resetAnswer_resetReq ?_
  rw [(haltAll_only (P := (· ≠ .seq)) (by simp) (by simp) _ _ _ only_refl).seq (by simp)]
  rfl

theorem askReset_phase (m kind : Nat) (s : State) : (askReset m kind s).steward.phase = s.steward.phase :=
  (askReset_only (P := (· ≠ .phase)) (by simp) (by simp) (by simp) (by simp) (by simp) (by simp) m kind only_refl).steward_phase (by simp)

theorem resetRequest_accepts (hreq : requested s m w 0x3A) (hphase : s.steward.phase ≠ 6) (hkind : wfld w 0x0C 1 ≤ 1) : answers (.resetRequest m w) s fun u =>
    ∃ r, u.seq.resetReq = some r ∧ m ∈ r.boxes ∧ wfld w 0x0C 1 ≤ r.kind ∧ u.steward.phase = s.steward.phase := by
  refine answers_request hreq rfl ?_
  simp only [resetRequestEff, if_neg hphase, if_pos hkind]
  obtain ⟨a, ha⟩ := askReset_joins m (wfld w 0x0C 1) (endFreeze s)
  exact ⟨_, ha, mem_resetAsked_boxes .., le_resetAsked_kind .., (askReset_phase ..).trans ((endFreeze_leaves s).steward_phase (by decide))⟩

/-- The request of a power-down is answered at once, and its trigger waits. -/
theorem resetRequest_trips (hreq : requested s m w 0x3A) (hphase : s.steward.phase ≠ 6) (hkind : 2 ≤ wfld w 0x0C 1) : answers (.resetRequest m w) s fun u =>
    answered s u m w 0 [] ∧ u.seq.trips = s.seq.trips ++ [(if wfld w 0x0C 1 = 2 then 5 else 6, upBeat s)] := by
  have hex := executes_of_requested hreq
  refine answers_request hreq rfl ?_
  simp only [resetRequestEff, if_neg hphase, if_neg (Nat.not_le.2 hkind)]
  refine ⟨hex.answered_of_mboxes ((endFreeze_leaves _).steward_mboxes (by decide)), ?_⟩
  rw [respond_seq, (endFreeze_leaves _).seq (by decide)]
  rfl

/-! RESET_TAKE_EFFECT (18 R523). -/

/-- The steward keeps no task, queue or image. -/
def stewardEmpty (s : State) : Prop := s.steward.tasks = [] ∧ s.steward.queues = [] ∧ s.steward.images = []

theorem stewardEmpty_setPhase (h : stewardEmpty s) (k : Nat) : stewardEmpty (setPhase k s) := by
  rw [stewardEmpty, setPhase_steward_tasks, setPhase_steward_queues, setPhase_steward_images]
  exact h

theorem hatchReset_leaves (cs : List Nat) (s : State) : changesOnly (· ∈ ([.intStatus, .messages, .hatch] : List Part)) s (hatchReset cs s) :=
  hatchReset_only (by decide) (by decide) (by decide) cs only_refl

theorem settleHealth_leaves (s : State) : changesOnly (· ∈ ([.healthSt, .intStatus, .messages] : List Part)) s (settleHealth s) :=
  settleHealth_only (by decide) (by decide) (by decide) only_refl

theorem stewardRestart_empty (s : State) : stewardEmpty (stewardRestart s) := by
  unfold stewardRestart
  dsimp only
  rw [stewardEmpty, (settleHealth_leaves _).steward_tasks (by decide), (settleHealth_leaves _).steward_queues (by decide),
    (settleHealth_leaves _).steward_images (by decide)]
  exact ⟨rfl, rfl, rfl⟩

/-- A steward reset keeps links and time. -/
theorem stewardRestart_keeps (s : State) : (stewardRestart s).seq.trigger = 3 ∧ (stewardRestart s).links = s.links ∧ (stewardRestart s).time = s.time := by
  have hhatch := hatchReset_leaves (List.range s.params.hatchChannels) s
  unfold stewardRestart
  dsimp only
  rw [(settleHealth_leaves _).seq (by decide), (settleHealth_leaves _).links (by decide), (settleHealth_leaves _).time (by decide)]
  exact ⟨rfl, hhatch.links (by decide), hhatch.time (by decide)⟩

theorem startHard_empty (serial : BitVec 64) (keyHash : BitVec 384) (pins : BitVec 16) (s : State) : stewardEmpty (startHard serial keyHash pins s) :=
  stewardEmpty_setPhase ⟨rfl, rfl, rfl⟩ 1

theorem startHard_renews (serial : BitVec 64) (keyHash : BitVec 384) (pins : BitVec 16) (s : State) :
    (startHard serial keyHash pins s).links = linksReset ∧ (startHard serial keyHash pins s).steward.serial = serial :=
  ⟨setPhase_links .., (setPhase_leaves ..).steward_serial (by decide)⟩

theorem exec_resetTakeEffect (hready : takeEffectReady s = true) : exec .resetTakeEffect s = .next (takeEffectEff s) := by
  change due (takeEffectReady s) s (takeEffectEff s) = _
  rw [hready]
  rfl

theorem takeEffectEff_steward (hr : s.seq.resetReq = some r) (hkind : r.kind = 0) : takeEffectEff s = setPhase 1 (stewardRestart s) := by
  simp only [takeEffectEff, hr, if_pos hkind]

theorem takeEffectEff_engine (hr : s.seq.resetReq = some r) (hkind : r.kind ≠ 0) : takeEffectEff s = startHard s.steward.serial s.steward.keyHash s.side.level
    (modSeq (fun q => { q with trigger := 4, resetReq := none, trips := [], stewardOnly := false }) s) := by
  simp only [takeEffectEff, hr, if_neg hkind]

theorem takeEffectEff_empty (hr : s.seq.resetReq = some r) : stewardEmpty (takeEffectEff s) := by
  by_cases hkind : r.kind = 0
  · rw [takeEffectEff_steward hr hkind]
    exact stewardEmpty_setPhase (stewardRestart_empty s) 1
  · rw [takeEffectEff_engine hr hkind]
    exact startHard_empty ..

theorem takeEffectEff_keepsLinks (hr : s.seq.resetReq = some r) (hkind : r.kind = 0) :
    (takeEffectEff s).seq.trigger = 3 ∧ (takeEffectEff s).links = s.links ∧ (takeEffectEff s).time = s.time := by
  obtain ⟨b, hseq⟩ := setPhase_seq 1 (stewardRestart s)
  rw [takeEffectEff_steward hr hkind, hseq, setPhase_links, setPhase_time]
  exact stewardRestart_keeps s

theorem takeEffectEff_renewsLinks (hr : s.seq.resetReq = some r) (hkind : r.kind ≠ 0) : (takeEffectEff s).seq.trigger = 4 ∧ (takeEffectEff s).seq.step = .run ∧
    (takeEffectEff s).links = linksReset ∧ (takeEffectEff s).steward.serial = s.steward.serial := by
  rw [takeEffectEff_engine hr hkind]
  generalize hasked : modSeq _ s = a
  obtain ⟨-, -, b, hseq⟩ := startHard_begins s.steward.serial s.steward.keyHash s.side.level a
  rw [hseq, ← hasked]
  exact ⟨rfl, rfl, startHard_renews ..⟩

end

/-- Settles O25: a request that is taken up leaves what its event will find and waits, or is answered, and a reset begins its part of the engine anew. -/
theorem engineRequestsComplete : Obligations.EngineRequestsComplete := by
  intro s m w
  refine ⟨fun hreq => ⟨snapshotFreeze_accepts hreq, snapshotRelease_accepts hreq⟩, ?_, ?_, ?_, fun hready r hr => ?_⟩
  · rintro hreq _ _ rfl rfl hthere htestable
    exact linkTest_accepts hthere htestable hreq
  · rintro hreq raw _ rfl hsize hlength hformat hsigned hsvn
    exact fwUpdate_accepts hreq hsize hlength hformat hsigned hsvn
  · rintro hreq _ rfl hphase
    exact ⟨resetRequest_accepts hreq hphase, resetRequest_trips hreq hphase⟩
  · obtain ⟨u, hu, hphase, hrooms, hreset⟩ := resetTakeEffect_restarts hready hr
    obtain rfl : takeEffectEff s = u := Host.Outcome.next.inj ((exec_resetTakeEffect hready).symm.trans hu)
    obtain ⟨htasks, hqueues, himages⟩ := takeEffectEff_empty hr
    exact ⟨_, hu, hphase, hrooms, htasks, hqueues, himages, hreset, takeEffectEff_keepsLinks hr, takeEffectEff_renewsLinks hr⟩

end Sys2Proof.Machine

/-!
The keep (12 R366 to R373), the health record (17 R501) and the snapshot (12 R374 to R378).
-/
namespace Sys2Proof.Machine

section
variable {s : State} {w : KeepWrite} {ws : List KeepWrite} {k : Keep}

/-! What has been written reads back. -/

theorem tabGetList_putList {α : Type} [DecidableEq α] (d : α) (t : Tab α) (a : Nat) (xs : List α) : tabGetList d (tabPutList d t a xs) a xs.length = xs := by
  refine List.ext_getElem (by simp [tabGetList]) fun i hi hi' => ?_
  simp only [tabGetList, List.getElem_map, List.getElem_range]
  exact tabGet_putList_at d t a xs i hi'

theorem padLine_line {bs : List Byte} (h : bs.length = 64) : padLine bs = bs := by
  simp [padLine, h]

theorem length_padLine_of_unit {bs : List Byte} (hsome : 0 < bs.length) (hfits : bs.length ≤ 64) : (padLine bs).length = 64 := by
  rw [padLine, List.length_append, List.length_replicate]
  omega

theorem keepBytes_putUnit (off : Nat) {bs : List Byte} (hsome : 0 < bs.length) (hfits : bs.length ≤ 64) (k : Keep) :
    keepBytes (putUnit off bs k) off 64 = padLine bs := by
  have h := tabGetList_putList 0 k.mem off (padLine bs)
  rwa [length_padLine_of_unit hsome hfits] at h

theorem length_splice {bs xs : List Byte} {o : Nat} (h : o + xs.length ≤ bs.length) : (splice bs o xs).length = bs.length := by
  simp only [splice, List.length_append, List.length_take, List.length_drop]
  omega

theorem length_keepHdr (item gen : Nat) (payload : List Byte) : (keepHdr item gen payload).length = 64 := by
  rw [keepHdr, length_splice]
  all_goals simp [length_leBytes]

/-! What the ends of a write leave of the keep. -/

@[simp] theorem flushDone_keep (s : State) : (flushDone s).shell.keep = s.shell.keep :=
  (flushDone_only (P := (· ≠ .keep)) (by simp) only_refl).shell_keep (by simp)

/-- The same bytes, queue of writes and bad slots in both keeps. -/
structure SameWrites (k k' : Keep) : Prop where
  mem    : k'.mem = k.mem
  writes : k'.writes = k.writes
  bad    : k'.bad = k.bad

theorem sameWrites_modKeep {f : Keep → Keep} (hf : SameWrites s.shell.keep (f s.shell.keep)) : SameWrites s.shell.keep (modKeep f s).shell.keep := hf

theorem keepComplete_sameWrites (w : KeepWrite) (s : State) : SameWrites s.shell.keep (keepComplete w s).shell.keep := by
  unfold keepComplete
  split
  · dsimp only
    split
    · rw [respond_shell_keep]
      exact sameWrites_modKeep ⟨rfl, rfl, rfl⟩
    · exact sameWrites_modKeep ⟨rfl, rfl, rfl⟩
  · exact sameWrites_modKeep ⟨rfl, rfl, rfl⟩
  · exact ⟨rfl, rfl, rfl⟩
  · exact ⟨rfl, rfl, rfl⟩

theorem forgetWrite_sameWrites (item : Nat) (s : State) : SameWrites s.shell.keep (forgetWrite item s).shell.keep := by
  unfold forgetWrite
  dsimp only
  split <;> exact ⟨rfl, rfl, rfl⟩

theorem keepFailed_keep (w : KeepWrite) (ws : List KeepWrite) (s : State) : (keepFailed w ws s).shell.keep.writes = ws ∧
    (keepFailed w ws s).shell.keep.mem = s.shell.keep.mem ∧
    (w.item, if w.unit = 0 then targetSlot s.shell.keep w.item else w.slot) ∈ (keepFailed w ws s).shell.keep.bad := by
  unfold keepFailed
  dsimp only
  generalize ha : modKeep _ s = a
  have hsame := forgetWrite_sameWrites w.item a
  split
  · rw [respond_shell_keep, hsame.writes, hsame.mem, hsame.bad, ← ha]
    exact ⟨rfl, rfl, List.mem_cons_self⟩
  · rw [hsame.writes, hsame.mem, hsame.bad, ← ha]
    exact ⟨rfl, rfl, List.mem_cons_self⟩

/-! KEEP_UNIT_ACK (12 R369): the zeroed header, the payload unit by unit, and the header. -/

theorem keepBytes_of_mem {k' : Keep} (h : k'.mem = k.mem) (off n : Nat) : keepBytes k' off n = keepBytes k off n := by rw [keepBytes, h, keepBytes]

/-- The unit that a keep's bytes have been given reads back. -/
theorem keepBytes_of_putUnit {k' : Keep} {off : Nat} {bs : List Byte} (h : k'.mem = (putUnit off bs k).mem) (hsome : 0 < bs.length) (hfits : bs.length ≤ 64) :
    keepBytes k' off 64 = padLine bs := by
  rw [keepBytes_of_mem h, keepBytes_putUnit off hsome hfits]

theorem modKeep_keep (f : Keep → Keep) (s : State) : (modKeep f s).shell.keep = f s.shell.keep := rfl

theorem keepWrote_begins (hunit : w.unit = 0) : (keepWrote w ws s).shell.keep.writes =
      { w with slot := targetSlot s.shell.keep w.item, gen := nextGen s.shell.keep w.item, unit := 1 } :: ws ∧
    keepBytes (keepWrote w ws s).shell.keep (keepOff w.item (targetSlot s.shell.keep w.item)) 64 = List.replicate 64 0 := by
  have hlength : (List.replicate 64 (0 : Byte)).length = 64 := List.length_replicate
  have hmem : (keepWrote w ws s).shell.keep.mem =
      (putUnit (keepOff w.item (targetSlot s.shell.keep w.item)) (List.replicate 64 0) s.shell.keep).mem := by
    rw [keepWrote, if_pos hunit, modKeep_keep]
  rw [keepBytes_of_putUnit hmem (by omega) (by omega), padLine_line hlength, keepWrote, if_pos hunit, modKeep_keep]
  exact ⟨rfl, rfl⟩

theorem keepWrote_continues (hbegun : 1 ≤ w.unit) (hmore : w.unit ≤ (w.payload.length + 63) / 64) :
    (keepWrote w ws s).shell.keep.writes = { w with unit := w.unit + 1 } :: ws ∧
    keepBytes (keepWrote w ws s).shell.keep (keepOff w.item w.slot + 64 * w.unit) 64 = padLine ((w.payload.drop (64 * (w.unit - 1))).take 64) := by
  have hmem : (keepWrote w ws s).shell.keep.mem =
      (putUnit (keepOff w.item w.slot + 64 * w.unit) ((w.payload.drop (64 * (w.unit - 1))).take 64) s.shell.keep).mem := by
    rw [keepWrote, if_neg (Nat.one_le_iff_ne_zero.1 hbegun), if_pos hmore, modKeep_keep]
  have hsome : 0 < ((w.payload.drop (64 * (w.unit - 1))).take 64).length := by
    rw [List.length_take, List.length_drop]
    omega
  rw [keepBytes_of_putUnit hmem hsome (List.length_take_le ..), keepWrote, if_neg (Nat.one_le_iff_ne_zero.1 hbegun), if_pos hmore, modKeep_keep]
  exact ⟨rfl, rfl⟩

theorem keepWrote_completes (hbegun : 1 ≤ w.unit) (hlast : (w.payload.length + 63) / 64 < w.unit) : (keepWrote w ws s).shell.keep.writes = ws ∧
    keepBytes (keepWrote w ws s).shell.keep (keepOff w.item w.slot) 64 = keepHdr w.item w.gen w.payload := by
  have hlength := length_keepHdr w.item w.gen w.payload
  have hsame := keepComplete_sameWrites w (modKeep (fun k => { putUnit (keepOff w.item w.slot) (keepHdr w.item w.gen w.payload) k with writes := ws }) s)
  rw [modKeep_keep] at hsame
  have hmem : (keepWrote w ws s).shell.keep.mem = (putUnit (keepOff w.item w.slot) (keepHdr w.item w.gen w.payload) s.shell.keep).mem := by
    rw [keepWrote, if_neg (Nat.one_le_iff_ne_zero.1 hbegun), if_neg (Nat.not_le.2 hlast), hsame.mem]
  rw [keepBytes_of_putUnit hmem (by omega) (by omega), padLine_line hlength, keepWrote, if_neg (Nat.one_le_iff_ne_zero.1 hbegun), if_neg (Nat.not_le.2 hlast),
    hsame.writes]
  exact ⟨rfl, rfl⟩

theorem keepRead_reads (err : Bool) (data : List Byte) (s : State) : (keepRead err data s).shell.keep.rdUnit = s.shell.keep.rdUnit + 1 ∧
    (err = true → slotOfUnit s.shell.keep.rdUnit ∈ (keepRead err data s).shell.keep.bad) := by
  cases err
  · exact ⟨rfl, fun h => Bool.noConfusion h⟩
  · exact ⟨rfl, fun _ => List.mem_cons_self⟩

theorem keepAckEff_reads {err : Bool} {data : List Byte} (h : s.shell.keep.writes = []) : keepAckEff s err data = keepRead err data s := by
  rw [keepAckEff, h]

theorem keepAckEff_keep {err : Bool} {data : List Byte} (h : s.shell.keep.writes = w :: ws) :
    (keepAckEff s err data).shell.keep = (if err then keepFailed w ws s else keepWrote w ws s).shell.keep := by
  rw [keepAckEff, h]
  exact flushDone_keep _

end

/-! The snapshot (12 R375 to R377). -/

section
variable {s t : State} {m : Nat} {w : MsgWord}

theorem freezeTakeEffect_freezes (hpend : s.shell.snap.pend = true) (hdue : s.shell.snap.beat ≤ beatOf s) : answers .freezeTakeEffect s fun u =>
    u.shell.snap.frozen = true ∧ u.shell.snap.pend = false ∧ u.shell.snap.req = true ∧ u.shell.snap.captured = false ∧ u.shell.snap.beat = beatOf s ∧
      u.shell.snap.hold = s.shell.snap.hold := by
  refine answers_due rfl (by simp [hpend, hdue]) ?_
  exact ⟨rfl, rfl, rfl, rfl, rfl, rfl⟩

/-- The answer of a freeze changes of the snapshot only that none waits any more. -/
theorem answerFreeze_answers (hex : Executes s t m w) (hbox : t.shell.snap.mbox = some m) (capture : Nat) :
    (answerFreeze capture t).shell.snap = { t.shell.snap with mbox := none } ∧
      answered s (answerFreeze capture t) m w 0 [(8, 8, t.shell.snap.beat), (0x10, 1, capture)] := by
  simp only [answerFreeze, hbox]
  exact ⟨respond_shell_snap .., hex.answered_of_mboxes rfl⟩

theorem answerReleases_snap (ms : List Nat) (s : State) : (answerReleases ms s).shell.snap = s.shell.snap :=
  (answerReleases_only (P := (· ≠ .snap)) (by simp) (by simp) (by simp) ms only_refl).shell_snap (by simp)

section
variable (hword : (mbox s m).executing = some w)
include hword

theorem snapAck_answers (hreq : s.shell.snap.req = true) (hbox : s.shell.snap.mbox = some m) : answers .snapAck s fun u => u.shell.snap.req = false ∧
    u.shell.snap.captured = s.shell.snap.frozen ∧ u.shell.snap.mbox = none ∧ answered s u m w 0 [(8, 8, s.shell.snap.beat), (0x10, 1, 0)] := by
  refine answers_due rfl hreq ?_
  obtain ⟨hsnap, hmboxes⟩ : (if s.shell.snap.frozen then raiseInt 11 s else s).shell.snap = s.shell.snap ∧
      (if s.shell.snap.frozen then raiseInt 11 s else s).steward.mboxes = s.steward.mboxes := by
    split
    · exact ⟨raiseInt_shell_snap .., raiseInt_steward_mboxes ..⟩
    · exact ⟨rfl, rfl⟩
  generalize (if s.shell.snap.frozen then raiseInt 11 s else s) = a at hsnap hmboxes ⊢
  have hex : Executes s (modSnap (fun x => { x with req := false, waits := false, captured := x.frozen }) a) m w :=
    Executes.of_mboxes ⟨hword, rfl, rfl⟩ hmboxes
  obtain ⟨hu, hanswered⟩ := answerFreeze_answers hex (by rw [← hbox, ← hsnap]; rfl) 0
  rw [hu]
  refine ⟨rfl, congrArg Snap.frozen hsnap, rfl, ?_⟩
  rw [← hsnap]
  exact hanswered

theorem snapAckTimeout_answers (hwaits : s.shell.snap.waits = true) (hlong : s.shell.snap.since + 1024 ≤ upBeat s) (hbox : s.shell.snap.mbox = some m) :
    answers .snapAckTimeout s fun u => u.shell.snap.req = s.shell.snap.req ∧ u.shell.snap.waits = false ∧ u.shell.snap.noCapture = true ∧
      u.shell.snap.frozen = s.shell.snap.frozen ∧ answered s u m w 0 [(8, 8, s.shell.snap.beat), (0x10, 1, 1)] := by
  refine answers_due rfl (by simp [hwaits, hlong]) ?_
  generalize hnoted : modSnap (fun x => { x with waits := false, noCapture := true }) s = a
  have hsnap : (raiseInt 11 a).shell.snap = { s.shell.snap with waits := false, noCapture := true } := by
    rw [raiseInt_shell_snap, ← hnoted]
    rfl
  have hex : Executes s (raiseInt 11 a) m w := Executes.of_mboxes ⟨hword, rfl, rfl⟩ (by rw [raiseInt_steward_mboxes, ← hnoted]; rfl)
  obtain ⟨hu, hanswered⟩ := answerFreeze_answers hex (by rw [hsnap]; exact hbox) 1
  rw [hsnap] at hu hanswered
  rw [hu]
  exact ⟨rfl, rfl, rfl, rfl, hanswered⟩

end

theorem freezeEndEff_snap (s : State) : (freezeEndEff s).shell.snap = { s.shell.snap with frozen := false, captured := false, ending := none, relMbox := [] } := by
  rw [freezeEndEff, answerReleases_snap, raiseInt_shell_snap]
  rfl

theorem freezeEndEff_answers (hbox : s.shell.snap.relMbox = [m]) (hword : (mbox s m).executing = some w) :
    answered s (freezeEndEff s) m w 0 [(8, 8, beatOf s)] := by
  rw [freezeEndEff, hbox]
  generalize hended : modSnap _ s = a
  have hbeat : beatOf (raiseInt 11 a) = beatOf s := by rw [beatOf, raiseInt_time, ← hended]; rfl
  have hex : Executes s (raiseInt 11 a) m w := Executes.of_mboxes ⟨hword, rfl, rfl⟩ (by rw [raiseInt_steward_mboxes, ← hended]; rfl)
  rw [answerReleases, answerReleases, hbeat]
  exact hex.answered ..

end

/-- Settles O29: each acknowledgement is one unit of one write, and each event of the snapshot one change of its record and one answer. -/
theorem keepAndSnapshotAct : Obligations.KeepAndSnapshotAct := by
  intro s
  refine ⟨fun err data hready => answers_due rfl hready ⟨fun hnone => ?_, ?_⟩, fun hready => answers_due rfl hready ⟨rfl, rfl, rfl, _, rfl, rfl, rfl, rfl⟩,
    freezeTakeEffect_freezes, fun hreq m w hbox hword => snapAck_answers hword hreq hbox,
    fun hwaits hlong m w hbox hword => snapAckTimeout_answers hword hwaits hlong hbox, fun hready => answers_due rfl hready ?_⟩
  · rw [keepAckEff_reads hnone]
    exact keepRead_reads ..
  · rintro w ws hwrites _ rfl
    rw [keepAckEff_keep hwrites]
    refine ⟨?_, ?_, ?_, ?_⟩
    · rintro rfl
      exact keepFailed_keep w ws s
    · rintro rfl hunit
      exact keepWrote_begins hunit
    · rintro rfl hbegun hmore
      exact keepWrote_continues hbegun hmore
    · rintro rfl hbegun hlast
      exact keepWrote_completes hbegun hlast
  · rw [freezeEndEff_snap]
    exact ⟨rfl, rfl, rfl, fun m w hbox hword => freezeEndEff_answers hbox hword⟩

end Sys2Proof.Machine

/-!
What the messages of the engine leave of the fabric, and a message taken from the inbox (13 R386 to R388).
-/
namespace Sys2Proof.Machine

section
variable {s u : State} {b code kind n : Nat} {f : Frame} {t : Task} {c : Instr} {act : State → State} {Q : State → Prop}

/-! What sending leaves. -/

/-- The fabric without its messages: those on their way, those that wait for an acknowledgement, the names of those acted on or passed on, and the refusals noted. -/
def unsent (x : Fabric) : Fabric :=
  { x with bcast := [], nextTag := 0, unacked := [], seen := [], inbox := [], out := [], drops := fabricReset.drops, refused := [] }

/-- A field that is no message is the same. -/
theorem field_of_unsent {α : Type} {x y : Fabric} (field : Fabric → α) (h : unsent y = unsent x) (hf : ∀ z, field (unsent z) = field z := by exact fun _ => rfl) :
    field y = field x := by rw [← hf y, h, hf x]

theorem emitFrame_changes (dst : Nat) (f : Frame) (s : State) :
    ∃ out inbox drops, emitFrame dst f s = modFabric (fun x => { x with out := out, inbox := inbox, drops := drops }) s := by
  unfold emitFrame
  dsimp only
  split
  · exact ⟨_, _, _, rfl⟩
  · split <;> exact ⟨_, _, _, rfl⟩

theorem emitFrame_unsent (dst : Nat) (f : Frame) (s : State) : unsent (emitFrame dst f s).fabric = unsent s.fabric := by
  obtain ⟨_, _, _, h⟩ := emitFrame_changes dst f s
  rw [h]
  rfl

theorem emitFrame_unacked (dst : Nat) (f : Frame) (s : State) : (emitFrame dst f s).fabric.unacked = s.fabric.unacked := by
  obtain ⟨_, _, _, h⟩ := emitFrame_changes dst f s
  rw [h]
  rfl

theorem emitFrame_steward (dst : Nat) (f : Frame) (s : State) : (emitFrame dst f s).steward = s.steward := by
  obtain ⟨_, _, _, h⟩ := emitFrame_changes dst f s
  rw [h]
  rfl

theorem sendMgmt_unsent (dst kind tag task aux : Nat) (p : List Byte) (s : State) : unsent (sendMgmt dst kind tag task aux p s).fabric = unsent s.fabric :=
  emitFrame_unsent ..

theorem tellMembers_unsent (t : Task) (kind aux : Nat) (p : List Byte) : ∀ (ms : List MemberSt) (s : State),
    unsent (tellMembers t kind aux p ms s).fabric = unsent s.fabric
  | [], _ => rfl
  | m :: ms, s => by
    rw [tellMembers, tellMembers_unsent t kind aux p ms]
    split
    · rfl
    · exact sendMgmt_unsent ..

theorem ackFrame_unsent (f : Frame) (s : State) : unsent (ackFrame f s).fabric = unsent s.fabric := by
  unfold ackFrame
  split
  · rfl
  · exact emitFrame_unsent ..

theorem ackFrame_steward (f : Frame) (s : State) : (ackFrame f s).steward = s.steward := by
  unfold ackFrame
  split
  · rfl
  · exact emitFrame_steward ..

theorem ackFrame_leaves (f : Frame) (s : State) : changesOnly (· ∈ ([.fabric] : List Part)) s (ackFrame f s) := ackFrame_only (by decide) f only_refl

theorem beatOf_of_time (h : u.time = s.time) : beatOf u = beatOf s := by rw [beatOf, h, beatOf]

/-! A message that is taken (13 R387). -/

/-- The state in which a message is acted on: it is taken, acknowledged and its name noted. -/
def messageTaken (b : Nat) (f : Frame) (s : State) : State :=
  modFabric (fun x => { x with seen := x.seen ++ [msgKey f] }) (ackFrame f (takeFrame b f s))

theorem takeMsg_first (hnew : msgSeen s f = false) : takeMsg b f act s = act (messageTaken b f s) := by
  rw [takeMsg, hnew]
  rfl

theorem takeMsg_again (hseen : msgSeen s f = true) : takeMsg b f act s = ackFrame f (takeFrame b f s) := by
  rw [takeMsg, hseen]
  rfl

theorem messageTaken_unsent (b : Nat) (f : Frame) (s : State) : unsent (messageTaken b f s).fabric = unsent s.fabric :=
  ackFrame_unsent f (takeFrame b f s)

theorem messageTaken_steward (b : Nat) (f : Frame) (s : State) : (messageTaken b f s).steward = s.steward := ackFrame_steward f (takeFrame b f s)

theorem messageTaken_time (b : Nat) (f : Frame) (s : State) : (messageTaken b f s).time = s.time := (ackFrame_leaves f (takeFrame b f s)).time (by decide)

/-- A message row acts on a message once it is taken. -/
theorem answers_message (hc : exec c s = frameRow b f kind s act) (h : message s b f kind) (hq : Q (act (messageTaken b f s))) : answers c s Q := by
  obtain ⟨hin, hkind, hnew⟩ := h
  refine answers_due hc (by rw [hin, hkind, beq_self_eq_true, Bool.and_self]) ?_
  rwa [takeMsg_first hnew]

/-- The task of a frame is found alike where the steward stands. -/
theorem onTask_of_steward (hu : u.steward = s.steward) (h : onTask s f t) : onTask u f t := by
  obtain ⟨hround, htask⟩ := h
  exact ⟨by rw [frameTask, roundTask, hu]; exact hround, by rw [taskOf, hu]; exact htask⟩

theorem onTask_messageTaken (h : onTask s f t) : onTask (messageTaken b f s) f t := onTask_of_steward (messageTaken_steward ..) h

end

end Sys2Proof.Machine

/-!
READY, LAUNCH, REFUSE, WITHDRAW, END and DONE act on the task of their round (13 R406 to R410).
-/
namespace Sys2Proof.Machine

section
variable {s u : State} {b code n : Nat} {f : Frame} {t v : Task}

/-! Refusals (13 R408). -/

theorem promote_finishTask_fabric (n : Nat) (st : TState) (status : Nat) (s : State) : (promote (finishTask n st status s)).fabric = s.fabric :=
  ((promote_leaves _).fabric (by decide)).trans (finishTask_fabric ..)

theorem refuseRound_unsent (t : Task) (code : Nat) (s : State) : unsent (refuseRound t code s).fabric = unsent s.fabric := by
  rw [refuseRound, finishTask_fabric]
  exact tellMembers_unsent t 0x12 code [] t.members s

theorem leaderRefuse_unsent (t : Task) (code : Nat) (s : State) : unsent (leaderRefuse t code s).fabric = unsent s.fabric := by
  rw [leaderRefuse, (promote_leaves _).fabric (by decide), refuseRound_unsent]

/-- The leader's own task ends REFUSED with the round. -/
theorem leaderRefuse_refuses (ht : taskOf s t.num = some v) : hasEnd (leaderRefuse t code s) t.num .refused code :=
  hasEnd_promote_finishTask ((taskOf_of_tasks (tellMembers_steward t 0x12 code [] t.members s) t.num).trans ht) (by decide) (by decide)

theorem refuseMembers_tasks (g : BitVec 64) (k code except : Nat) : ∀ (ms : List MemberRec) (s : State),
    (refuseMembers g k code except ms s).steward.tasks = s.steward.tasks
  | [], _ => rfl
  | m :: ms, s => by
    rw [refuseMembers, refuseMembers_tasks g k code except ms]
    split
    · rfl
    · exact sendMgmt_steward_tasks ..

/-! READY (13 R407, R408). -/

/-- The state in which a READY is noted. -/
def readyNoted (f : Frame) (s : State) : State :=
  modFabric (fun x => { x with readys := x.readys ++ [(f.hdr.task, f.hdr.tag.toNat, frameSrc f, f.hdr.epoch.toNat)] }) s

theorem tryRound_unsent (t : Task) (s : State) : unsent (tryRound t s).fabric = unsent s.fabric := by
  unfold tryRound
  split
  · rfl
  split
  · exact leaderRefuse_unsent ..
  split
  · rfl
  split
  · rfl
  split
  · exact tellMembers_unsent ..
  · exact leaderRefuse_unsent ..

theorem readyEff_unsent (f : Frame) (s : State) : unsent (readyEff f s).fabric = unsent (readyNoted f s).fabric := by
  unfold readyEff
  dsimp only
  split
  · split
    · split
      · exact leaderRefuse_unsent ..
      · split
        · exact tryRound_unsent ..
        · rfl
    · rfl
  · rfl

theorem mem_readyEff_readys (f : Frame) (s : State) :
    (f.hdr.task, f.hdr.tag.toNat, frameSrc f, f.hdr.epoch.toNat) ∈ (readyEff f s).fabric.readys := by
  have hnoted : (readyEff f s).fabric.readys = (readyNoted f s).fabric.readys := field_of_unsent Fabric.readys (readyEff_unsent f s)
  rw [hnoted]
  exact List.mem_append_right _ (List.mem_singleton_self _)

theorem readyEff_refuses (ht : onTask s f t) (hleader : t.member = 0) (hwaits : t.state ≠ .launched) (hepoch : f.hdr.epoch.toNat ≠ s.fabric.epoch) :
    hasEnd (readyEff f s) t.num .refused 0x0901 := by
  obtain ⟨hround, htask⟩ := onTask_of_steward (u := readyNoted f s) rfl ht
  have heff : readyEff f s = leaderRefuse t 0x0901 (readyNoted f s) := by
    rw [readyNoted] at hround ⊢
    simp only [readyEff, hround, if_pos (And.intro hleader hwaits), if_pos hepoch]
  rw [heff]
  exact leaderRefuse_refuses htask

theorem ready_acts (h : message s b f 0x10) : answers (.ready b f) s fun u =>
    (f.hdr.task, f.hdr.tag.toNat, frameSrc f, f.hdr.epoch.toNat) ∈ u.fabric.readys ∧
    ∀ t, onTask s f t → t.member = 0 → t.state ≠ .launched → f.hdr.epoch.toNat ≠ s.fabric.epoch → hasEnd u t.num .refused 0x0901 := by
  refine answers_message rfl h ⟨mem_readyEff_readys .., fun t ht hleader hwaits hepoch => readyEff_refuses (onTask_messageTaken ht) hleader hwaits ?_⟩
  have hkept : (messageTaken b f s).fabric.epoch = s.fabric.epoch := field_of_unsent Fabric.epoch (messageTaken_unsent b f s)
  rwa [hkept]

/-! LAUNCH (13 R407). -/

theorem launchFrameEff_member (ht : onTask s f t) (hmember : t.member ≠ 0) (heligible : t.state = .eligible) : launchFrameEff f s =
    if fullBeat (beatOf s) f.hdr.aux.toNat ≤ beatOf s then haltTask t.num 0x0904 (some (plainFault 0x0904)) false (launchVoid t.num s)
    else modTask t.num (fun t => { t with launchAt := some (fullBeat (beatOf s) f.hdr.aux.toNat) }) s := by
  obtain ⟨hround, -⟩ := ht
  simp only [launchFrameEff, hround, if_pos (And.intro heligible hmember)]

theorem launch_acts (h : message s b f 0x11) : answers (.launch b f) s fun u => ∀ t, onTask s f t → t.member ≠ 0 → t.state = .eligible →
    ∀ l, l = fullBeat (beatOf s) f.hdr.aux.toNat →
      (beatOf s < l → ∃ v, taskOf u t.num = some v ∧ v.state = .eligible ∧ v.launchAt = some l) ∧ (l ≤ beatOf s → t.halting = false → halts u t.num 0x0904) := by
  refine answers_message rfl h fun t ht hmember heligible l hl => ?_
  have htaken := onTask_messageTaken (b := b) ht
  have hbeat : beatOf (messageTaken b f s) = beatOf s := beatOf_of_time (messageTaken_time b f s)
  rw [launchFrameEff_member htaken hmember heligible, hbeat, ← hl]
  obtain ⟨-, htask⟩ := htaken
  refine ⟨fun hahead => ?_, fun hbegun hruns => ?_⟩
  · rw [if_neg (Nat.not_le.2 hahead)]
    exact ⟨_, taskOf_modTask_same _ _ (by exact fun _ => rfl) _ t htask, heligible, rfl⟩
  · rw [if_pos hbegun]
    exact halts_launchVoid htask hruns

/-! REFUSE (13 R408). -/

/-- The state in which a REFUSE is noted. -/
def refuseNoted (f : Frame) (s : State) : State :=
  modFabric (fun x => { x with refused := x.refused ++ [(f.hdr.task, f.hdr.tag.toNat, f.hdr.aux.toNat)] }) s

theorem refuseEff_fabric (f : Frame) (s : State) : (refuseEff f s).fabric = (refuseNoted f s).fabric := by
  unfold refuseEff
  dsimp only
  split
  · split
    · rfl
    · exact promote_finishTask_fabric ..
  · rfl

theorem refuseEff_task (ht : onTask s f t) :
    refuseEff f s = if t.state = .launched then refuseNoted f s else promote (finishTask t.num .refused f.hdr.aux.toNat (refuseNoted f s)) := by
  obtain ⟨hround, -⟩ := onTask_of_steward (u := refuseNoted f s) rfl ht
  rw [refuseNoted] at hround ⊢
  simp only [refuseEff, hround]

theorem refuse_acts (h : message s b f 0x12) : answers (.refuse b f) s fun u => (f.hdr.task, f.hdr.tag.toNat, f.hdr.aux.toNat) ∈ u.fabric.refused ∧
    ∀ t, onTask s f t → (t.state ≠ .launched → hasEnd u t.num .refused f.hdr.aux.toNat) ∧ (t.state = .launched → taskOf u t.num = some t) := by
  refine answers_message rfl h ⟨?_, fun t ht => ?_⟩
  · rw [refuseEff_fabric]
    exact List.mem_append_right _ (List.mem_singleton_self _)
  · have htaken := onTask_messageTaken (b := b) ht
    rw [refuseEff_task htaken]
    obtain ⟨-, htask⟩ := htaken
    refine ⟨fun hwaits => ?_, fun hlaunched => ?_⟩
    · rw [if_neg hwaits]
      exact hasEnd_promote_finishTask htask (by decide) (by decide)
    · rw [if_pos hlaunched]
      exact htask

/-! WITHDRAW (13 R408). -/

theorem withdrawEff_refuses (ht : onTask s f t) (hleader : t.member = 0) (hwaits : t.state ≠ .launched) :
    hasEnd (withdrawEff f s) t.num .refused (if f.hdr.aux == 0x0211 then 0x0903 else f.hdr.aux.toNat) := by
  obtain ⟨hround, htask⟩ := ht
  simp only [withdrawEff, hround, hleader, ne_eq, not_true, if_false, if_neg hwaits]
  exact hasEnd_promote_finishTask ((taskOf_of_tasks (refuseMembers_tasks ..) t.num).trans htask) (by decide) (by decide)

theorem withdraw_acts (h : message s b f 0x18) : answers (.withdraw b f) s fun u => ∀ t, onTask s f t → t.member = 0 → t.state ≠ .launched →
    (f.hdr.aux = 0x0211 → hasEnd u t.num .refused 0x0903) ∧ (f.hdr.aux ≠ 0x0211 → hasEnd u t.num .refused f.hdr.aux.toNat) := by
  refine answers_message rfl h fun t ht hleader hwaits => ?_
  have hrefused := withdrawEff_refuses (onTask_messageTaken (b := b) ht) hleader hwaits
  refine ⟨fun haborted => ?_, fun hother => ?_⟩
  · rwa [if_pos (beq_iff_eq.2 haborted)] at hrefused
  · rwa [if_neg (mt beq_iff_eq.1 hother)] at hrefused

/-! END and DONE (13 R410). -/

theorem hasEnd_completePoint (hv : taskOf s n = some v) : hasEnd (completePoint n s) n .completed 0 := by
  obtain ⟨x, hx, hstate, hstatus, -⟩ := completePoint_task hv
  exact ⟨x, hx, hstate, hstatus⟩

/-- With every member ended the leader completes its task; else it waits. -/
theorem leaderEnd_ends (hv : taskOf s n = some v) : hasEnd (leaderEnd n s) n .completed 0 ∨ leaderEnd n s = s := by
  simp only [leaderEnd, hv]
  split
  · exact .inl (hasEnd_completePoint ((taskOf_of_tasks (tellMembers_steward ..) n).trans hv))
  · exact .inr rfl

theorem endFrameEff_leader (ht : onTask s f t) (hleader : t.member = 0) (hlaunched : t.state = .launched) (hruns : t.halting = false) :
    endFrameEff f s = leaderEnd t.num (markEnded t.num f.hdr.aux.toNat s) := by
  obtain ⟨hround, -⟩ := ht
  simp only [endFrameEff, hround, if_pos (And.intro hlaunched (And.intro hruns hleader))]

theorem endFrame_acts (h : message s b f 0x13) : answers (.endFrame b f) s fun u => ∀ t, onTask s f t → t.member = 0 → t.state = .launched → t.halting = false →
    hasEnd u t.num .completed 0 ∨ ∃ v, taskOf u t.num = some v ∧ v.state = .launched ∧ ∀ m ∈ v.members, m.member = f.hdr.aux.toNat → m.ended = true := by
  refine answers_message rfl h fun t ht hleader hlaunched hruns => ?_
  have htaken := onTask_messageTaken (b := b) ht
  rw [endFrameEff_leader htaken hleader hlaunched hruns]
  obtain ⟨-, htask⟩ := htaken
  obtain ⟨v, hv, hstate, hmarked⟩ := markEnded_marks (k := f.hdr.aux.toNat) htask
  refine (leaderEnd_ends hv).imp_right fun hstands => ?_
  rw [hstands]
  exact ⟨v, hv, hstate.trans hlaunched, hmarked⟩

theorem doneEff_member (ht : onTask s f t) (hmember : t.member ≠ 0) (hlaunched : t.state = .launched) : doneEff f s = completePoint t.num s := by
  obtain ⟨hround, -⟩ := ht
  simp only [doneEff, hround, if_pos (And.intro hlaunched hmember)]

theorem done_acts (h : message s b f 0x14) : answers (.done b f) s fun u => ∀ t, onTask s f t → t.member ≠ 0 → t.state = .launched → hasEnd u t.num .completed 0 := by
  refine answers_message rfl h fun t ht hmember hlaunched => ?_
  have htaken := onTask_messageTaken (b := b) ht
  rw [doneEff_member htaken hmember hlaunched]
  obtain ⟨-, htask⟩ := htaken
  exact hasEnd_completePoint htask

end

/-- Settles O32: each message acts on the task of its round once it is taken, by its place in the round and the state of the task. -/
theorem roundsLaunchAndEnd : Obligations.RoundsLaunchAndEnd := by
  rintro s b f _ rfl
  exact ⟨ready_acts, launch_acts, refuse_acts, withdraw_acts, endFrame_acts, done_acts⟩

end Sys2Proof.Machine

/-!
FAULT, ABORT and HALTED act on their round, and the frames of flows are taken, held, forwarded and landed (13 R386, R403, R404, R409, R411).
-/
namespace Sys2Proof.Machine

section
variable {s u : State} {b n k code room op opc : Nat} {f : Frame} {t v : Task} {i : Image} {fl : FlowRec} {c : ClaimRec} {fr : FaultRec} {repair : Bool}

/-! FAULT at the leader (13 R409). -/

/-- The first fault is recorded (11 R345). -/
theorem haltWith_records (hv : taskOf s n = some v) (hlaunched : v.state = .launched) (hruns : v.halting = false) :
    ∃ x, taskOf (haltWith n code (some fr) repair s) n = some x ∧ x.fault = some fr := by
  rw [taskOf_of_tasks (haltWith_marks hv hlaunched hruns)]
  exact ⟨_, taskOf_modTask_same n _ (by exact fun _ => rfl) s v hv, rfl⟩

/-- The fault that the leader takes over from a member. -/
def memberFault (f : Frame) (room op opc : Nat) : FaultRec :=
  { (payloadRec f.payload).getD (plainFault f.hdr.aux.toNat) with code := f.hdr.aux.toNat, room := room, op := op, opc := opc }

theorem faultFrameEff_leader (ht : onTask s f t) (hleader : t.member = 0) (hlaunched : t.state = .launched) : faultFrameEff f room op opc s =
    if f.hdr.aux = 0x0211 then haltWith t.num 0x0211 none false s
    else haltWith t.num f.hdr.aux.toNat (some (memberFault f room op opc)) (repairCode f.hdr.aux.toNat) s := by
  obtain ⟨hround, -⟩ := ht
  simp only [faultFrameEff, hround, if_pos (And.intro hleader hlaunched)]
  rfl

theorem faultFrame_acts (h : message s b f 0x17) : answers (.faultFrame b f room op opc) s fun u => ∀ t, onTask s f t → t.member = 0 → t.state = .launched →
    t.halting = false → halts u t.num f.hdr.aux.toNat ∧ (f.hdr.aux ≠ 0x0211 →
      ∃ v r, taskOf u t.num = some v ∧ v.fault = some r ∧ r.code = f.hdr.aux.toNat ∧ r.room = room ∧ r.op = op ∧ r.opc = opc) := by
  refine answers_message rfl h fun t ht hleader hlaunched hruns => ?_
  have htaken := onTask_messageTaken (b := b) ht
  rw [faultFrameEff_leader htaken hleader hlaunched]
  obtain ⟨-, htask⟩ := htaken
  split
  next hforwarded =>
    refine ⟨?_, fun hother => absurd hforwarded hother⟩
    rw [hforwarded]
    exact halts_haltWith htask hlaunched hruns
  next =>
    obtain ⟨x, hx, hfault⟩ := haltWith_records htask hlaunched hruns
    exact ⟨halts_haltWith htask hlaunched hruns, fun _ => ⟨x, _, hx, hfault, rfl, rfl, rfl, rfl⟩⟩

/-! ABORT at a member (13 R409). -/

theorem halts_haltQuiet {fr : Option FaultRec} (hv : taskOf s n = some v) (hlaunched : v.state = .launched) : halts (haltQuiet n code fr repair s) n code :=
  ⟨_, taskOf_modTask_same n _ (by exact fun _ => rfl) s v hv, hlaunched, rfl, rfl⟩

/-- The state in which the aborted task counts as launched, and the leader's fault is noted. -/
def abortNoted (f : Frame) (t : Task) (s : State) : State :=
  modTask t.num (fun t => { t with
    fault := (payloadRec f.payload).orElse (fun _ => t.fault0), others := if lostOut t (payloadRec f.payload) then satInc 255 t.others else t.others,
    members := t.members.map fun m => if m.member = 0 then { m with halted := true } else m }) (if t.state = .launched then s else launchVoid t.num s)

theorem abortEff_task (ht : onTask s f t) :
    abortEff f s = haltQuiet t.num f.hdr.aux.toNat none (t.repair || repairCode f.hdr.aux.toNat) (abortNoted f t s) := by
  obtain ⟨hround, -⟩ := ht
  simp only [abortEff, hround, abortNoted]

theorem taskOf_abortNoted (ht : taskOf s t.num = some t) : ∃ v, taskOf (abortNoted f t s) t.num = some v ∧ v.state = .launched := by
  have hlaunched : ∃ v, taskOf (if t.state = .launched then s else launchVoid t.num s) t.num = some v ∧ v.state = .launched := by
    split
    next h => exact ⟨t, ht, h⟩
    next => exact ⟨_, taskOf_modTask_same t.num _ (by exact fun _ => rfl) s t ht, rfl⟩
  obtain ⟨v, hv, hstate⟩ := hlaunched
  exact ⟨_, taskOf_modTask_same t.num _ (by exact fun _ => rfl) _ v hv, hstate⟩

theorem abort_acts (h : message s b f 0x15) : answers (.abort b f) s fun u => ∀ t, onTask s f t → halts u t.num f.hdr.aux.toNat := by
  refine answers_message rfl h fun t ht => ?_
  have htaken := onTask_messageTaken (b := b) ht
  rw [abortEff_task htaken]
  obtain ⟨-, htask⟩ := htaken
  obtain ⟨v, hv, hlaunched⟩ := taskOf_abortNoted (f := f) htask
  exact halts_haltQuiet hv hlaunched

/-! HALTED at the leader, and its time limit (13 R409, R411). -/

theorem markHalted_marks (hv : taskOf s n = some v) :
    ∃ x, taskOf (markHalted n k s) n = some x ∧ x.state = v.state ∧ ∀ m ∈ x.members, m.member = k → m.halted = true := by
  refine ⟨_, taskOf_modTask_same n _ (by exact fun _ => rfl) s v hv, rfl, List.forall_mem_map.2 fun y _ hmember => ?_⟩
  by_cases hy : y.member = k
  · rw [if_pos hy]
  · rw [if_neg hy] at hmember
    exact absurd hmember hy

theorem haltedFrameEff_leader (ht : onTask s f t) (hleader : t.member = 0) : haltedFrameEff f s = markHalted t.num f.hdr.aux.toNat s := by
  obtain ⟨hround, -⟩ := ht
  simp only [haltedFrameEff, hround, if_pos hleader]

theorem halted_acts (h : message s b f 0x16) : answers (.halted b f) s fun u => ∀ t, onTask s f t → t.member = 0 →
    ∃ v, taskOf u t.num = some v ∧ v.state = t.state ∧ ∀ m ∈ v.members, m.member = f.hdr.aux.toNat → m.halted = true := by
  refine answers_message rfl h fun t ht hleader => ?_
  have htaken := onTask_messageTaken (b := b) ht
  rw [haltedFrameEff_leader htaken hleader]
  obtain ⟨-, htask⟩ := htaken
  exact markHalted_marks htask

theorem haltedTimeout_marks (ht : taskOf s n = some t) (hready : haltedTimeoutReady s n = true) : answers (.haltedTimeout n) s fun u =>
    ∃ v, taskOf u n = some v ∧ v.state = t.state ∧ v.status = t.status ∧ (∀ m ∈ v.members, m.halted = true) ∧
      v.others = min 255 (t.others + (t.members.filter fun m => m.member != 0 && !m.halted).length) := by
  refine answers_due rfl hready ⟨_, taskOf_modTask_same n _ (by exact fun _ => rfl) s t ht, rfl, rfl, List.forall_mem_map.2 ?_, rfl⟩
  exact fun _ _ => rfl

/-! The frames of a flow that are held here. -/

theorem heldFrames_of_fabric (h : unsent u.fabric = unsent s.fabric) (g : BitVec 64) (k : Nat) : heldFrames u g k = heldFrames s g k := by
  have hbufs : u.fabric.flowBufs = s.fabric.flowBufs := field_of_unsent Fabric.flowBufs h
  rw [heldFrames, hbufs, heldFrames]

theorem find?_filter_not {α : Type} (p : α → Bool) (l : List α) : (l.filter fun x => !p x).find? p = none := by
  refine List.find?_eq_none.2 fun x hx => ?_
  obtain ⟨-, hnot⟩ := List.mem_filter.1 hx
  simpa using hnot

theorem heldFrames_putHeld (g : BitVec 64) (k : Nat) (fs : List Frame) (s : State) : heldFrames (putHeld g k fs s) g k = fs := by
  have hgone := find?_filter_not (fun b : FlowBuf => b.gtask == g && b.flow == k) s.fabric.flowBufs
  simp only [heldFrames, putHeld, modFabric_fabric, List.find?_append, hgone, Option.none_or, List.find?_singleton, beq_self_eq_true, Bool.and_self, if_true]

theorem flowSt_putFlow {x : FlowSt} (htask : x.task = n) (hflow : x.flow = k) : flowSt (putFlow x s) n k = x := by
  subst htask hflow
  have hgone := find?_filter_not (fun z : FlowSt => z.task == x.task && z.flow == x.flow) s.fabric.flows
  simp only [flowSt, putFlow, modFabric_fabric, List.find?_append, hgone, Option.none_or, List.find?_singleton, beq_self_eq_true, Bool.and_self, if_true,
    Option.getD_some]

theorem forwardFlow_unsent (b : Nat) : ∀ (fs : List Frame) (s : State), unsent (forwardFlow b fs s).fabric = unsent s.fabric
  | [], _ => rfl
  | f :: fs, s => by
    rw [forwardFlow, forwardFlow_unsent b fs]
    split <;> rfl

/-! The claim of a beat (13 R403). -/

theorem mem_of_nextClaim {moved : Nat} : ∀ {cs : List ClaimRec} {done : Nat}, nextClaim moved done cs = some c → c ∈ cs
  | [], _, h => by cases h
  | d :: cs, done, h => by
    rw [nextClaim] at h
    split at h
    · cases h
      exact List.mem_cons_self
    · exact List.mem_cons_of_mem _ (mem_of_nextClaim h)

theorem mem_slotIns {d : ClaimRec} : ∀ {ds : List ClaimRec}, c ∈ slotIns d ds → c = d ∨ c ∈ ds
  | [], h => .inl (List.mem_singleton.1 h)
  | e :: ds, h => by
    rw [slotIns] at h
    split at h
    · exact List.mem_cons.1 h
    · obtain rfl | hin := List.mem_cons.1 h
      · exact .inr List.mem_cons_self
      · exact (mem_slotIns hin).imp_right (List.mem_cons_of_mem _)

theorem mem_of_mem_slotOrder : ∀ {cs : List ClaimRec}, c ∈ cs.foldr slotIns [] → c ∈ cs
  | [], h => h
  | _ :: _, h => List.mem_cons.2 ((mem_slotIns h).imp_right mem_of_mem_slotOrder)

theorem flow_of_mem_flowClaims (h : c ∈ flowClaims i t k) : c.flow = k := by
  obtain ⟨-, hflow⟩ := List.mem_filter.1 h
  exact beq_iff_eq.1 hflow

theorem slotClaim_flow (h : slotClaim s t i k = some c) : c.flow = k :=
  flow_of_mem_flowClaims (List.mem_of_mem_filter (mem_of_mem_slotOrder (mem_of_nextClaim h)))

/-! FLOW_SLOT_TAKE (13 R403, 02 R51). -/

theorem slotEff_takes (hrun : runningTask s n = some (t, i)) (hclaim : slotClaim s t i k = some c) (hflow : flowOf i k = some fl) :
    slotEff s n k = if fl.srcMember = t.member then sourceTake t i fl c s else transitSend t c s := by
  simp only [slotEff, hrun, hclaim, hflow]

theorem sourceTake_missed {x : RingRec} (hx : (variantOf i t).rings.find? (fun x => x.ring == fl.srcRing) = some x)
    (hfew : ringFilled (ringOf s.store (16 * x.hall) x.desc) < c.frames * fl.frame) :
    sourceTake t i fl c s = haltTask t.num 0x0602 (some (plainFault 0x0602)) false s := by
  simp only [sourceTake, hx, if_pos hfew]

theorem heldFrames_transitSend : heldFrames (transitSend t c s) t.gtask c.flow = (heldFrames s t.gtask c.flow).drop c.frames :=
  (heldFrames_of_fabric (forwardFlow_unsent ..) t.gtask c.flow).trans (heldFrames_putHeld ..)

theorem transitSend_store : (transitSend t c s).store = s.store :=
  (forwardFlow_only (P := (· ≠ .store)) (by simp) _ _ (putHeld_only (by simp) _ _ _ only_refl)).store (by simp)

theorem flowSlotTake_acts (hrun : runningTask s n = some (t, i)) (hclaim : slotClaim s t i k = some c) (hflow : flowOf i k = some fl) :
    answers (.flowSlotTake n k) s fun u =>
      (fl.srcMember = t.member → ∀ x, (variantOf i t).rings.find? (fun x => x.ring == fl.srcRing) = some x →
        ringFilled (ringOf s.store (16 * x.hall) x.desc) < c.frames * fl.frame → halts u n 0x0602 ∧ u.store = s.store) ∧
      (fl.srcMember ≠ t.member → heldFrames u t.gtask k = (heldFrames s t.gtask k).drop c.frames ∧ u.store = s.store) := by
  obtain ⟨htask, hlaunched, hruns⟩ := runningTask_some hrun
  refine answers_due rfl (by simp only [slotReady, hrun, hclaim, hflow, Option.isSome_some, Bool.and_self]) ?_
  rw [slotEff_takes hrun hclaim hflow]
  refine ⟨fun hsource x hx hfew => ?_, fun htransit => ?_⟩
  · rw [if_pos hsource, sourceTake_missed hx hfew, taskOf_num htask]
    exact ⟨halts_haltTask htask hlaunched hruns, haltTask_store ..⟩
  · rw [if_neg htransit, ← slotClaim_flow hclaim]
    exact ⟨heldFrames_transitSend, transitSend_store⟩

/-! FLOW (13 R386, R403, R404). -/

theorem flowEff_stale (hnone : liveTask s f.hdr.task = none) :
    flowEff s b f = dropFrame (fun d => { d with staleFlow := satInc 255 d.staleFlow }) (takeFrame b f s) := by
  simp only [flowEff, hnone]

section
variable (hlive : liveTask s f.hdr.task = some t) (himage : imageOf s t = some i) (hruns : t.halting = false) (hflow : flowOf i f.hdr.tag.toNat = some fl)

include hlive himage hruns hflow

theorem flowEff_transits {cs : List ClaimRec} (hdst : fl.dstMember ≠ t.member) (hsrc : fl.srcMember ≠ t.member)
    (hclaims : flowClaims i t f.hdr.tag.toNat = c :: cs) : flowEff s b f = transitTake t i c f (takeFrame b f s) := by
  simp only [flowEff, hlive, himage, hruns, hflow, hclaims, Bool.false_eq_true, if_false, if_neg hdst, if_neg hsrc]

theorem flowEff_lands (hdst : fl.dstMember = t.member) : flowEff s b f = landFlow t i fl f (takeFrame b f s) := by
  simp only [flowEff, hlive, himage, hruns, hflow, Bool.false_eq_true, if_false, if_pos hdst]

end

theorem liveTask_launched (h : liveTask s f.hdr.task = some t) : t.state = .launched := by
  have hfound := List.find?_some h
  simp only [Bool.and_eq_true, beq_iff_eq] at hfound
  exact hfound.1.2

theorem flowOf_flow (h : flowOf i k = some fl) : fl.flow = k := by simpa using List.find?_some h

/-- A transit member holds the frame at the end of its flow. -/
theorem transitTake_holds (hfits : bufferBytes s t i (c.bundle / 8) + 32 + f.payload.length ≤ 512 * 1024) :
    heldFrames (transitTake t i c f s) t.gtask c.flow = heldFrames s t.gtask c.flow ++ [f] ∧ (transitTake t i c f s).store = s.store := by
  rw [transitTake, if_neg (Nat.not_lt.2 hfits)]
  exact ⟨heldFrames_putHeld .., rfl⟩

theorem transitTake_full (hfull : 512 * 1024 < bufferBytes s t i (c.bundle / 8) + 32 + f.payload.length) :
    transitTake t i c f s = haltTask t.num 0x0908 (some (plainFault 0x0908)) false s := if_pos hfull

/-- The window and the sender are admitted, and the bytes lie in the store (13 R404). -/
def windowTakes (s : State) (a : Nat) (f : Frame) : Bool :=
  fabricAdmits s.store a f.payload.length && srcAdmitted s f && !rangeUnmapped s a f.payload.length

theorem landFlow_window (hwindow : fl.window = true) : landFlow t i fl f s =
    if windowTakes s (fl.dstBase + (flowSt s t.num fl.flow).wrote) f = true then
      putFlow { flowSt s t.num fl.flow with got := (flowSt s t.num fl.flow).got + 1, wrote := (flowSt s t.num fl.flow).wrote + f.payload.length }
        (modTask t.num (fun x => { x with wrote := (fl.dstBase + (flowSt s t.num fl.flow).wrote, f.payload.length) :: x.wrote })
          (modStore (fun x => writeWhole x (fl.dstBase + (flowSt s t.num fl.flow).wrote) f.payload) s))
    else haltTask t.num 0x0907 (some (plainFault 0x0907)) false s := by
  simp only [landFlow, hwindow, if_true, windowTakes, Bool.and_eq_true, Bool.not_eq_true', and_assoc]

/-- The progress that is held of a flow names its task and flow. -/
theorem flowSt_names (s : State) (n k : Nat) : (flowSt s n k).task = n ∧ (flowSt s n k).flow = k := by
  rcases h : s.fabric.flows.find? (fun x => x.task == n && x.flow == k) with _ | x
  · rw [flowSt, h]
    exact ⟨rfl, rfl⟩
  · rw [flowSt, h]
    simpa using List.find?_some h

theorem landFlow_lands {a : Nat} (hwindow : fl.window = true) (ha : a = fl.dstBase + (flowSt s t.num fl.flow).wrote) (hok : windowTakes s a f = true) :
    memBytes (landFlow t i fl f s).store a f.payload.length = f.payload ∧
    (flowSt (landFlow t i fl f s) t.num fl.flow).got = (flowSt s t.num fl.flow).got + 1 ∧
    (flowSt (landFlow t i fl f s) t.num fl.flow).wrote = (flowSt s t.num fl.flow).wrote + f.payload.length ∧
    ∀ y, outside [(a, f.payload.length)] y → storeByte (landFlow t i fl f s) y = storeByte s y := by
  obtain ⟨htask, hflow⟩ := flowSt_names s t.num fl.flow
  rw [landFlow_window hwindow, ← ha, if_pos hok]
  rw [flowSt_putFlow]
  · exact ⟨memBytes_writeWhole .., rfl, rfl, fun y hy => (writeWhole_keeps s.store a f.payload).bytes y hy⟩
  · exact htask
  · exact hflow

theorem flow_acts (hin : inInbox s b f = true) (hkind : f.hdr.kind.toNat = 0x20) : answers (.flow b f) s fun u =>
    (liveTask s f.hdr.task = none → u.fabric.inbox = s.fabric.inbox.erase (b, f) ∧
      u.fabric.drops = { s.fabric.drops with staleFlow := satInc 255 s.fabric.drops.staleFlow } ∧ u.store = s.store) ∧
    (∀ t i fl, liveTask s f.hdr.task = some t → taskOf s t.num = some t → imageOf s t = some i → t.halting = false → flowOf i f.hdr.tag.toNat = some fl →
      (∀ c cs, fl.dstMember ≠ t.member → fl.srcMember ≠ t.member → flowClaims i t f.hdr.tag.toNat = c :: cs →
        (bufferBytes s t i (c.bundle / 8) + 32 + f.payload.length ≤ 512 * 1024 →
          heldFrames u t.gtask f.hdr.tag.toNat = heldFrames s t.gtask f.hdr.tag.toNat ++ [f] ∧ u.store = s.store) ∧
        (512 * 1024 < bufferBytes s t i (c.bundle / 8) + 32 + f.payload.length → halts u t.num 0x0908)) ∧
      (fl.dstMember = t.member → fl.window = true → ∀ a, a = fl.dstBase + (flowSt s t.num f.hdr.tag.toNat).wrote →
        (windowTakes s a f = true → memBytes u.store a f.payload.length = f.payload ∧
          (flowSt u t.num f.hdr.tag.toNat).got = (flowSt s t.num f.hdr.tag.toNat).got + 1 ∧
          (flowSt u t.num f.hdr.tag.toNat).wrote = (flowSt s t.num f.hdr.tag.toNat).wrote + f.payload.length ∧
          ∀ y, outside [(a, f.payload.length)] y → storeByte u y = storeByte s y) ∧
        (windowTakes s a f = false → halts u t.num 0x0907 ∧ u.store = s.store))) := by
  refine answers_due rfl (by rw [hin, hkind]; rfl) ⟨fun hnone => ?_, fun t i fl hlive htask himage hruns hflow => ⟨fun c cs hdst hsrc hclaims => ?_, ?_⟩⟩
  · rw [flowEff_stale hnone]
    exact ⟨rfl, rfl, rfl⟩
  · have hmine : c.flow = f.hdr.tag.toNat := flow_of_mem_flowClaims (i := i) (t := t) (by rw [hclaims]; exact List.mem_cons_self)
    rw [flowEff_transits hlive himage hruns hflow hdst hsrc hclaims, ← hmine]
    refine ⟨fun hfits => transitTake_holds (s := takeFrame b f s) hfits, fun hfull => ?_⟩
    rw [transitTake_full (s := takeFrame b f s) hfull]
    exact halts_haltTask htask (liveTask_launched hlive) hruns
  · rintro hdst hwindow a ha
    rw [flowEff_lands hlive himage hruns hflow hdst]
    rw [← flowOf_flow hflow] at ha ⊢
    refine ⟨fun hok => landFlow_lands (s := takeFrame b f s) hwindow ha hok, fun hbad => ?_⟩
    have hnot : ¬ windowTakes (takeFrame b f s) (fl.dstBase + (flowSt (takeFrame b f s) t.num fl.flow).wrote) f = true :=
      Bool.not_eq_true _ ▸ ha ▸ hbad
    rw [landFlow_window hwindow, if_neg hnot]
    exact ⟨halts_haltTask htask (liveTask_launched hlive) hruns, haltTask_store ..⟩

end

/-- Settles O33: a message of an abort acts on the task of its round, and a frame of a flow is held, forwarded or landed by its member's place in the flow. -/
theorem roundsAbortAndFlowsMove : Obligations.RoundsAbortAndFlowsMove := by
  intro s b f
  refine ⟨fun room op opc => faultFrame_acts, abort_acts, halted_acts, fun n t ht hready => haltedTimeout_marks ht hready,
    fun n k t i c fl hrun hclaim hflow => flowSlotTake_acts hrun hclaim hflow, ?_⟩
  rintro hin hkind _ rfl
  obtain ⟨u, hu, hstale, hacts⟩ := flow_acts hin hkind
  refine ⟨u, hu, hstale, fun t i fl hlive htask himage hruns hflow => ?_⟩
  obtain ⟨htransit, hlands⟩ := hacts t i fl hlive htask himage hruns hflow
  refine ⟨htransit, ?_⟩
  rintro hdst hwindow a ha _ rfl
  exact hlands hdst hwindow a ha

end Sys2Proof.Machine

/-!
The router delivers, forwards or discards the frames that arrive (13 R385, R386, R388), and messages are acknowledged and sent again (13 R387).
-/
namespace Sys2Proof.Machine

section
variable {s : State} {b dst : Nat} {f : Frame} {e : BitVec 32} {tag : BitVec 32} {m : OutMsg} {rest : List (Nat × List Byte)}

/-! FRAME_ROUTE. -/

/-- What the router makes of a frame for one engine, by its entry. -/
def routedBy (b : Nat) (f : Frame) (e : BitVec 32) (s : State) : State :=
  if entValid e = false then dropFrame (fun d => { d with noRoute := satInc 255 d.noRoute }) s
  else if f.hdr.kind = 0x20 then
    if flowLive s f.hdr.task f.hdr.tag.toNat then deliverHere b f s else dropFrame (fun d => { d with staleFlow := satInc 255 d.staleFlow }) s
  else if entLocal e then deliverHere b f s
  else if hopsSpent f then dropFrame (fun d => { d with hopsOut := satInc 255 d.hopsOut }) s
  else modFabric (fun x => { x with out := x.out ++ [(entBundle e, hopDown f)] }) s

theorem frameRouteEff_unicast (hgood : hdrGood f.hdr = true) (hdrain : f.hdr.kind ≠ 6) (hone : f.hdr.dst.getLsbD 15 = false) :
    frameRouteEff s b f = routedBy b f (tabGet 0 (entriesFor s b) (entryKey f.hdr.kind (f.hdr.dst.toNat % 2 ^ 13))) s := by
  simp only [frameRouteEff, hgood, Bool.true_eq_false, if_false, if_neg hdrain, hone, Bool.false_eq_true]
  rfl

theorem frameRouteEff_bad (hbad : hdrGood f.hdr = false) :
    frameRouteEff s b f = dropFrame (fun d => { d with badHeader := satInc 255 d.badHeader }) s := if_pos hbad

theorem frameRouteEff_drain (hgood : hdrGood f.hdr = true) (hdrain : f.hdr.kind = 6) : frameRouteEff s b f = deliverHere b f s := by
  simp only [frameRouteEff, hgood, Bool.true_eq_false, if_false, if_pos hdrain]

theorem frameRouteEff_broadcast (hgood : hdrGood f.hdr = true) (hdrain : f.hdr.kind ≠ 6) (hall : f.hdr.dst.getLsbD 15 = true) :
    frameRouteEff s b f = if f.hdr.kind = 8 then deliverHere b f (forwardTime b f s) else deliverHere b f s := by
  simp only [frameRouteEff, hgood, Bool.true_eq_false, if_false, if_neg hdrain, hall, if_true]

/-- What passing an ANNOUNCE on may change. -/
theorem forwardTime_changes (b : Nat) (f : Frame) (s : State) :
    ∃ bcast out drops, forwardTime b f s = modFabric (fun x => { x with bcast := bcast, out := out, drops := drops }) s := by
  unfold forwardTime
  dsimp only
  split
  · exact ⟨_, _, _, rfl⟩
  · split
    · exact ⟨_, _, _, rfl⟩
    · exact ⟨_, _, _, rfl⟩

theorem routedBy_unsent (b : Nat) (f : Frame) (e : BitVec 32) (s : State) : unsent (routedBy b f e s).fabric = unsent s.fabric := by
  unfold routedBy
  split
  · rfl
  split
  · split <;> rfl
  split
  · rfl
  split <;> rfl

theorem frameRouteEff_unsent (s : State) (b : Nat) (f : Frame) : unsent (frameRouteEff s b f).fabric = unsent s.fabric := by
  rcases hgood : hdrGood f.hdr
  · rw [frameRouteEff_bad hgood]
    rfl
  by_cases hdrain : f.hdr.kind = 6
  · rw [frameRouteEff_drain hgood hdrain]
    rfl
  rcases hall : f.hdr.dst.getLsbD 15
  · rw [frameRouteEff_unicast hgood hdrain hall, routedBy_unsent]
  · rw [frameRouteEff_broadcast hgood hdrain hall]
    split
    · obtain ⟨_, _, _, h⟩ := forwardTime_changes b f s
      rw [h]
      rfl
    · rfl

theorem routedBy_noRoute (hnone : entValid e = false) : routedBy b f e s = dropFrame (fun d => { d with noRoute := satInc 255 d.noRoute }) s := if_pos hnone

section
variable (hvalid : entValid e = true)

include hvalid

theorem routedBy_flow (hflow : f.hdr.kind = 0x20) : routedBy b f e s =
    if flowLive s f.hdr.task f.hdr.tag.toNat then deliverHere b f s else dropFrame (fun d => { d with staleFlow := satInc 255 d.staleFlow }) s := by
  simp only [routedBy, hvalid, Bool.true_eq_false, if_false, if_pos hflow]

theorem routedBy_local (hother : f.hdr.kind ≠ 0x20) (hlocal : entLocal e = true) : routedBy b f e s = deliverHere b f s := by
  simp only [routedBy, hvalid, Bool.true_eq_false, if_false, if_neg hother, hlocal, if_true]

theorem routedBy_transit (hother : f.hdr.kind ≠ 0x20) (htransit : entLocal e = false) : routedBy b f e s =
    if hopsSpent f then dropFrame (fun d => { d with hopsOut := satInc 255 d.hopsOut }) s
    else modFabric (fun x => { x with out := x.out ++ [(entBundle e, hopDown f)] }) s := by
  simp only [routedBy, hvalid, Bool.true_eq_false, if_false, if_neg hother, htransit, Bool.false_eq_true]

end

/-- The state in which the router has used up the lane-slots of a frame. -/
def slotsUsed (b : Nat) (rest : List (Nat × List Byte)) (s : State) : State := modFabric (fun x => { x with arrived := tabPut [] x.arrived b rest }) s

theorem takeArrived_uses (hin : frameIn s b f = some rest) : takeArrived b f s = slotsUsed b rest s := by
  rw [takeArrived, hin]
  rfl

theorem slotsUsed_arrived : tabGet [] (slotsUsed b rest s).fabric.arrived b = rest := by
  rw [slotsUsed, modFabric_fabric, tabGet_put, if_pos rfl]

theorem flowLive_slotsUsed (g : BitVec 64) (k : Nat) : flowLive (slotsUsed b rest s) g k = flowLive s g k := rfl

theorem frameRoute_routes (hthere : bundleThere s b = true) (hup : (tabGet bundleZero s.fabric.bundles b).up = true) (hin : frameIn s b f = some rest) :
    ∀ d, d = s.fabric.drops → ∀ e, e = tabGet 0 (entriesFor s b) (entryKey f.hdr.kind (f.hdr.dst.toNat % 2 ^ 13)) →
    ∀ unicast, unicast = (hdrGood f.hdr = true ∧ f.hdr.kind ≠ 6 ∧ f.hdr.dst.getLsbD 15 = false) →
    answers (.frameRoute b f) s fun u => tabGet [] u.fabric.arrived b = rest ∧
      (hdrGood f.hdr = false → frameDropped s u { d with badHeader := satInc 255 d.badHeader }) ∧
      (hdrGood f.hdr = true → f.hdr.kind = 6 → frameDelivered s u b f) ∧
      (hdrGood f.hdr = true → f.hdr.kind ≠ 6 → f.hdr.kind ≠ 8 → f.hdr.dst.getLsbD 15 = true → frameDelivered s u b f) ∧
      (hdrGood f.hdr = true → f.hdr.kind = 8 → f.hdr.dst.getLsbD 15 = true → u.fabric.inbox = s.fabric.inbox ++ [(b, f)]) ∧
      (unicast → entValid e = false → frameDropped s u { d with noRoute := satInc 255 d.noRoute }) ∧
      (unicast → entValid e = true → f.hdr.kind = 0x20 → flowLive s f.hdr.task f.hdr.tag.toNat = true → frameDelivered s u b f) ∧
      (unicast → entValid e = true → f.hdr.kind = 0x20 → flowLive s f.hdr.task f.hdr.tag.toNat = false → frameDropped s u { d with staleFlow := satInc 255 d.staleFlow }) ∧
      (unicast → f.hdr.kind ≠ 0x20 → entValid e = true → entLocal e = true → frameDelivered s u b f) ∧
      (unicast → f.hdr.kind ≠ 0x20 → entValid e = true → entLocal e = false → f.hdr.hops.toNat ≤ 1 → frameDropped s u { d with hopsOut := satInc 255 d.hopsOut }) ∧
      (unicast → f.hdr.kind ≠ 0x20 → entValid e = true → entLocal e = false → 1 < f.hdr.hops.toNat → u.fabric.inbox = s.fabric.inbox ∧ u.fabric.drops = d ∧
        u.fabric.out = s.fabric.out ++ [(entBundle e, ⟨sealHdr { f.hdr with hops := f.hdr.hops - 1 }, f.payload⟩)]) := by
  rintro _ rfl e he _ rfl
  have hone : hdrGood f.hdr = true ∧ f.hdr.kind ≠ 6 ∧ f.hdr.dst.getLsbD 15 = false → frameRouteEff (slotsUsed b rest s) b f = routedBy b f e (slotsUsed b rest s) :=
    fun ⟨hgood, hdrain, hone⟩ => he ▸ frameRouteEff_unicast hgood hdrain hone
  refine answers_dueAt rfl hthere (by rw [hup, hin]; rfl) ?_
  rw [takeArrived_uses hin]
  refine ⟨?_, fun hbad => ?_, fun hgood hdrain => ?_, fun hgood hdrain htime hall => ?_, fun hgood htime hall => ?_, fun h hnone => ?_, fun h hvalid hflow hlive => ?_,
    fun h hvalid hflow hstale => ?_, fun h hother hvalid hlocal => ?_, fun h hother hvalid htransit hspent => ?_, fun h hother hvalid htransit hleft => ?_⟩
  · have hkept : (frameRouteEff (slotsUsed b rest s) b f).fabric.arrived = (slotsUsed b rest s).fabric.arrived := field_of_unsent Fabric.arrived (frameRouteEff_unsent ..)
    rw [hkept, slotsUsed_arrived]
  · rw [frameRouteEff_bad hbad]
    exact ⟨rfl, rfl, rfl⟩
  · rw [frameRouteEff_drain hgood hdrain]
    exact ⟨rfl, rfl, rfl⟩
  · rw [frameRouteEff_broadcast hgood hdrain hall, if_neg htime]
    exact ⟨rfl, rfl, rfl⟩
  · rw [frameRouteEff_broadcast hgood (by rw [htime]; decide) hall, if_pos htime]
    obtain ⟨_, _, _, hpassed⟩ := forwardTime_changes b f (slotsUsed b rest s)
    rw [hpassed]
    rfl
  · rw [hone h, routedBy_noRoute hnone]
    exact ⟨rfl, rfl, rfl⟩
  · rw [hone h, routedBy_flow hvalid hflow, flowLive_slotsUsed, if_pos hlive]
    exact ⟨rfl, rfl, rfl⟩
  · rw [hone h, routedBy_flow hvalid hflow, flowLive_slotsUsed, if_neg (Bool.eq_false_iff.1 hstale)]
    exact ⟨rfl, rfl, rfl⟩
  · rw [hone h, routedBy_local hvalid hother hlocal]
    exact ⟨rfl, rfl, rfl⟩
  · have hout : hopsSpent f = true := decide_eq_true hspent
    rw [hone h, routedBy_transit hvalid hother htransit, if_pos hout]
    exact ⟨rfl, rfl, rfl⟩
  · have hgoes : ¬ hopsSpent f = true := fun hout => absurd (of_decide_eq_true hout) (Nat.not_le.2 hleft)
    rw [hone h, routedBy_transit hvalid hother htransit, if_neg hgoes]
    exact ⟨rfl, rfl, rfl⟩

/-! ACK and MESSAGE_RESEND (13 R387). -/

theorem ack_answers (hin : inInbox s b f = true) : answers (.ack b f) s fun u => u.fabric.inbox = s.fabric.inbox.erase (b, f) ∧
    u.fabric.unacked = ackOut (f.hdr.src.toNat % 2 ^ 13) f.hdr s.fabric.unacked ∧ u.fabric.out = s.fabric.out := by
  refine answers_due rfl hin ?_
  exact ⟨rfl, rfl, rfl⟩

/-- The state in which a message's sending is noted once more. -/
def resendNoted (m : OutMsg) (s : State) : State := modFabric (fun x => { x with
  unacked := x.unacked.map fun y => if y = m then { y with sent := upBeat s, tries := y.tries + 1 } else y }) s

theorem resendEff_again (hm : overdue s dst tag = some m) (htries : m.tries < 16) :
    (resendEff s dst tag).fabric.unacked = (resendNoted m s).fabric.unacked ∧ (resendEff s dst tag).fabric.lost = s.fabric.lost := by
  simp only [resendEff, hm, if_pos htries]
  split
  · exact ⟨rfl, rfl⟩
  · exact ⟨emitFrame_unacked dst m.frame (resendNoted m s), field_of_unsent Fabric.lost (emitFrame_unsent dst m.frame (resendNoted m s))⟩

theorem resendEff_lost (hm : overdue s dst tag = some m) (htries : 16 ≤ m.tries) :
    resendEff s dst tag = modFabric (fun x => { x with unacked := x.unacked.erase m, lost := x.lost ++ [(dst, tag)] }) s := by
  simp only [resendEff, hm, if_neg (Nat.not_lt.2 htries)]

theorem messageResend_acts (hm : overdue s dst tag = some m) : answers (.messageResend dst tag) s fun u =>
    (m.tries < 16 → { m with sent := upBeat s, tries := m.tries + 1 } ∈ u.fabric.unacked ∧ u.fabric.lost = s.fabric.lost) ∧
    (16 ≤ m.tries → u.fabric.unacked = s.fabric.unacked.erase m ∧ u.fabric.lost = s.fabric.lost ++ [(dst, tag)] ∧ u.fabric.out = s.fabric.out) := by
  refine answers_due rfl (by rw [hm]; rfl) ⟨fun htries => ?_, fun htries => ?_⟩
  · obtain ⟨hunacked, hlost⟩ := resendEff_again hm htries
    rw [hunacked]
    exact ⟨List.mem_map.2 ⟨m, List.mem_of_find?_eq_some hm, if_pos rfl⟩, hlost⟩
  · rw [resendEff_lost hm htries]
    exact ⟨rfl, rfl, rfl⟩

end

end Sys2Proof.Machine

/-!
Broadcasts passed on (13 R382, R386), announcements of the registrar (13 R383, R395), and route updates (13 R391 to R393).
-/
namespace Sys2Proof.Machine

section
variable {s : State} {b : Nat} {f : Frame} {r x : RouteUpd} {es : List (Nat × BitVec 32)} {serial : BitVec 64}

/-! A broadcast is passed on. -/

theorem forwardBcast_changes (b : Nat) (f : Frame) (s : State) :
    ∃ bcast out drops, forwardBcast b f s = modFabric (fun x => { x with bcast := bcast, out := out, drops := drops }) s := by
  unfold forwardBcast
  dsimp only
  split
  · exact ⟨_, _, _, rfl⟩
  · split
    · exact ⟨_, _, _, rfl⟩
    · exact ⟨_, _, _, rfl⟩

theorem forwardBcast_unsent (b : Nat) (f : Frame) (s : State) : unsent (forwardBcast b f s).fabric = unsent s.fabric := by
  obtain ⟨_, _, _, h⟩ := forwardBcast_changes b f s
  rw [h]
  rfl

theorem msgSeen_forwardBcast (b : Nat) (f : Frame) (s : State) : msgSeen (forwardBcast b f s) f = msgSeen s f := by
  obtain ⟨_, _, _, h⟩ := forwardBcast_changes b f s
  rw [h]
  rfl

theorem forwardBcast_steward (b : Nat) (f : Frame) (s : State) : (forwardBcast b f s).steward = s.steward := by
  obtain ⟨_, _, _, h⟩ := forwardBcast_changes b f s
  rw [h]
  rfl

theorem forwardBcast_time (b : Nat) (f : Frame) (s : State) : (forwardBcast b f s).time = s.time := by
  obtain ⟨_, _, _, h⟩ := forwardBcast_changes b f s
  rw [h]
  rfl

/-! Admission is taken (13 R395, 15 R441). -/

theorem takeAdmission_fabric (alone : Bool) (st why : Nat) (s : State) :
    (takeAdmission alone st why s).fabric = { s.fabric with admission := if alone then 0 else st, reason := why } := by
  unfold takeAdmission
  dsimp only
  generalize (if alone = true then 0 else st) = admitted
  split
  · rw [(stopKeeping_only (P := (· ≠ .fabric)) (by simp) (by simp) (by simp) only_refl).fabric (by simp), setFabric_fabric, modFabric_fabric]
  · rw [setFabric_fabric, modFabric_fabric]

/-! What is sent to other engines leaves the updates and what routes. -/

/-- The fabric without its messages, and without what is noted of addresses, states and tables that are announced. -/
def unannounced (x : Fabric) : Fabric :=
  { unsent x with addr := none, admission := 0, reason := 0, bundles := [], issued := [], members := [], told := [] }

theorem unannounced_of_unsent {x y : Fabric} (h : unsent y = unsent x) : unannounced y = unannounced x :=
  (congrArg unannounced h :)

theorem field_of_unannounced {α : Type} {x y : Fabric} (field : Fabric → α) (h : unannounced y = unannounced x)
    (hf : ∀ z, field (unannounced z) = field z := by exact fun _ => rfl) : field y = field x := by rw [← hf y, h, hf x]

theorem sendNamed_unsent (kind aux : Nat) (serial : BitVec 64) (value at' : Nat) (p : List Byte) (s : State) :
    unsent (sendNamed kind aux serial value at' p s).fabric = unsent s.fabric := by
  rw [sendNamed, flood, modFabric_fabric]
  rfl

theorem sendTo_unsent (dst kind aux : Nat) (serial : BitVec 64) (value at' : Nat) (p : List Byte) (s : State) :
    unsent (sendTo dst kind aux serial value at' p s).fabric = unsent s.fabric := by
  rw [sendTo, sendNamed_unsent, modFabric_fabric]
  rfl

theorem sendEntries_unsent (dst : Nat) (aux : Option Nat) (serial : BitVec 64) (value at' : Nat) : ∀ (n : Nat) (es : Tab (BitVec 32)) (s : State),
    unsent (sendEntries dst aux serial value at' es n s).fabric = unsent s.fabric
  | 0, _, _ => rfl
  | n + 1, _, _ => (sendEntries_unsent dst aux serial value at' n _ _).trans (sendTo_unsent ..)

theorem sendUpdates_unannounced (hs : List Hop) (epoch beat : Nat) (all : List (AdmRec × Nat × Nat × Nat)) : ∀ (rs : List (AdmRec × Nat × Nat × Nat)) (s : State),
    unannounced (sendUpdates hs epoch beat all rs s).fabric = unannounced s.fabric
  | [], _ => rfl
  | (r, a, _, _) :: rs, s => by
    rw [sendUpdates, sendUpdates_unannounced hs epoch beat all rs]
    split
    · rfl
    · exact (unannounced_of_unsent (sendEntries_unsent ..)).trans rfl

theorem reissue_given (s : State) : (reissue s).fabric.given = s.fabric.given := (field_of_unannounced Fabric.given (sendUpdates_unannounced ..)).trans rfl

/-! An update takes effect (13 R391, R392). -/

theorem drainOn_unsent : ∀ (bs : List Nat) (s : State), unsent (drainOn bs s).fabric = unsent s.fabric
  | [], _ => rfl
  | _ :: bs, _ => drainOn_unsent bs _

/-- The state in which the entries and the epoch are the update's, before DRAIN is sent. -/
def updateTaken (r : RouteUpd) (s : State) : State :=
  modFabric (fun x => { x with
    old := x.routes, routes := r.entries, onOld := (s.fabric.bundles.map (·.1)).filter fun b => !s.fabric.early.contains (b, r.epoch),
    early := x.early.filter (fun e => e.2 != r.epoch), switchAt := upBeat s + 64 - (beatOf s - r.beat), epoch := r.epoch, updates := x.updates.filter (· ≠ r),
    members := x.members.map fun r => if r.state = 3 then { r with state := 2 } else r }) s

theorem takeUpdate_unsent (r : RouteUpd) (s : State) : ∃ st why, unsent (takeUpdate r s).fabric = { unsent (updateTaken r s).fabric with admission := st, reason := why } ∧
    (s.fabric.admission = 1 → s.fabric.reason = 4 → st = 2 ∧ why = 0) := by
  unfold takeUpdate
  dsimp only
  rw [← updateTaken]
  generalize hdrained : drainOn _ _ = v
  have hv : unsent v.fabric = unsent (updateTaken r s).fabric := by
    rw [← hdrained, drainOn_unsent]
    split
    · rfl
    · rw [raiseInt_fabric]
  have hadmission : v.fabric.admission = s.fabric.admission := (field_of_unsent Fabric.admission hv :)
  have hreason : v.fabric.reason = s.fabric.reason := (field_of_unsent Fabric.reason hv :)
  split
  next =>
    refine ⟨2, 0, ?_, fun _ _ => ⟨rfl, rfl⟩⟩
    rw [takeAdmission_fabric, ← hv]
    rfl
  next hother =>
    refine ⟨s.fabric.admission, s.fabric.reason, hv, fun hone hfour => absurd ⟨hadmission.trans hone, hreason.trans hfour⟩ hother⟩

theorem takeUpdate_takes (r : RouteUpd) (s : State) : (takeUpdate r s).fabric.updates = s.fabric.updates.filter (· ≠ r) ∧
    (takeUpdate r s).fabric.routes = r.entries ∧ (takeUpdate r s).fabric.old = s.fabric.routes ∧ (takeUpdate r s).fabric.epoch = r.epoch ∧
    (takeUpdate r s).fabric.early = s.fabric.early.filter (fun e => e.2 != r.epoch) ∧
    (s.fabric.admission = 1 → s.fabric.reason = 4 → (takeUpdate r s).fabric.admission = 2 ∧ (takeUpdate r s).fabric.reason = 0) := by
  obtain ⟨st, why, h, hentered⟩ := takeUpdate_unsent r s
  generalize (takeUpdate r s).fabric = x at h ⊢
  refine ⟨(congrArg Fabric.updates h :), (congrArg Fabric.routes h :), (congrArg Fabric.old h :), (congrArg Fabric.epoch h :), (congrArg Fabric.early h :),
    fun hone hfour => ?_⟩
  obtain ⟨rfl, rfl⟩ := hentered hone hfour
  exact ⟨(congrArg Fabric.admission h :), (congrArg Fabric.reason h :)⟩

theorem routeEffective_takes (hdue : dueUpdate s = some r) : answers .routeEffective s fun u =>
    u.fabric.updates = s.fabric.updates.filter (· ≠ r) ∧ u.fabric.routes = r.entries ∧ u.fabric.old = s.fabric.routes ∧ u.fabric.epoch = r.epoch ∧
      u.fabric.early = s.fabric.early.filter (fun e => e.2 != r.epoch) ∧ (s.fabric.admission = 1 → s.fabric.reason = 4 → u.fabric.admission = 2 ∧ u.fabric.reason = 0) := by
  refine answers_due rfl (by rw [hdue]; rfl) ?_
  rw [hdue]
  exact takeUpdate_takes r s

/-! ROUTE_UPDATE (13 R390, R391). -/

/-- The state in which a message that was passed on is acted on. -/
def broadcastTaken (b : Nat) (f : Frame) (s : State) : State := messageTaken b f (forwardBcast b f s)

theorem broadcastTaken_unsent (b : Nat) (f : Frame) (s : State) : unsent (broadcastTaken b f s).fabric = unsent s.fabric :=
  (messageTaken_unsent ..).trans (forwardBcast_unsent ..)

theorem broadcastTaken_beat (b : Nat) (f : Frame) (s : State) : beatOf (broadcastTaken b f s) = beatOf s :=
  beatOf_of_time ((messageTaken_time ..).trans (forwardBcast_time ..))

/-- A message passed on is acted on where it is new. -/
theorem takeMsg_forwarded {act : State → State} (hnew : msgSeen s f = false) : takeMsg b f act (forwardBcast b f s) = act (broadcastTaken b f s) :=
  takeMsg_first ((msgSeen_forwardBcast ..).trans hnew)

/-- One that was acted on before changes nothing but messages. -/
theorem takeMsg_forwarded_unsent {act : State → State} (hseen : msgSeen s f = true) : unsent (takeMsg b f act (forwardBcast b f s)).fabric = unsent s.fabric := by
  rw [takeMsg_again ((msgSeen_forwardBcast ..).trans hseen), ackFrame_unsent]
  exact forwardBcast_unsent ..

/-- The update that a ROUTE_UPDATE carries. -/
def updateOf (s : State) (f : Frame) (es : List (Nat × BitVec 32)) : RouteUpd := ⟨pfld f.payload 8 4, fullBeat (beatOf s) f.hdr.aux.toNat, entryTable es⟩

theorem routeUpdateEff_named (h : namedHere s f (BitVec.ofNat 64 (pfld f.payload 0 8)) = true) :
    routeUpdateEff s b f es = takeMsg b f (gotUpdate (updateOf s f es) es) (forwardBcast b f s) := if_pos h

theorem routeUpdateEff_registrar (h : namedHere s f (BitVec.ofNat 64 (pfld f.payload 0 8)) = false) (hself : s.fabric.registrar = some s.steward.serial)
    (hfrom : f.hdr.src ≠ srcField s) : routeUpdateEff s b f es =
      takeMsg b f (gotTable (BitVec.ofNat 64 (pfld f.payload 0 8)) (f.hdr.aux.toNat + 1 == pfld f.payload 8 4) f.hdr.aux.toNat es) (forwardBcast b f s) := by
  rw [routeUpdateEff, h, if_neg Bool.false_ne_true, if_pos ⟨hself, hfrom⟩]

theorem routeUpdateEff_other (h : namedHere s f (BitVec.ofNat 64 (pfld f.payload 0 8)) = false)
    (hother : ¬ (s.fabric.registrar = some s.steward.serial ∧ f.hdr.src ≠ srcField s)) : routeUpdateEff s b f es = takeFrame b f (forwardBcast b f s) := by
  rw [routeUpdateEff, h, if_neg Bool.false_ne_true, if_neg hother]

/-- An update already seen, and one for another engine where this one is no registrar, change no table. -/
theorem routeUpdateEff_idle (h : msgSeen s f = true ∨ (namedHere s f (BitVec.ofNat 64 (pfld f.payload 0 8)) = false ∧ s.fabric.registrar ≠ some s.steward.serial)) :
    unsent (routeUpdateEff s b f es).fabric = unsent s.fabric := by
  rcases hnamed : namedHere s f (BitVec.ofNat 64 (pfld f.payload 0 8))
  · by_cases hself : s.fabric.registrar = some s.steward.serial ∧ f.hdr.src ≠ srcField s
    · have hseen := h.resolve_right fun hidle => hidle.2 hself.1
      rw [routeUpdateEff_registrar hnamed hself.1 hself.2, takeMsg_forwarded_unsent hseen]
    · rw [routeUpdateEff_other hnamed hself]
      exact forwardBcast_unsent ..
  · have hseen := h.resolve_right fun hidle => Bool.false_ne_true (hidle.1.symm.trans hnamed)
    rw [routeUpdateEff_named hnamed, takeMsg_forwarded_unsent hseen]

/-- The state in which an update waits for its beat. -/
def updateWaits (r : RouteUpd) (s : State) : State := modFabric (fun z => { z with updates := z.updates ++ [r], tableRejected := rejectedBy z r.entries }) s

theorem gotUpdate_first (hfirst : ∀ x ∈ s.fabric.updates, x.epoch ≠ r.epoch) (hnew : r.epoch ≠ s.fabric.epoch ∨ s.fabric.epoch = 0) :
    gotUpdate r es s = if r.beat < beatOf s then takeUpdate r (updateWaits r s) else updateWaits r s := by
  have hnone : s.fabric.updates.find? (fun x => x.epoch == r.epoch) = none :=
    List.find?_eq_none.2 fun x hx => by simpa using hfirst x hx
  have hgoes : ¬ (r.epoch = s.fabric.epoch ∧ s.fabric.epoch ≠ 0) := fun h => hnew.elim (fun hother => hother h.1) h.2
  simp only [gotUpdate, hnone, if_neg hgoes]
  rfl

/-- A new update waits for its beat, or takes effect at once where that has begun. -/
theorem gotUpdate_acts (hfirst : ∀ x ∈ s.fabric.updates, x.epoch ≠ r.epoch) (hnew : r.epoch ≠ s.fabric.epoch ∨ s.fabric.epoch = 0) :
    (beatOf s ≤ r.beat → (gotUpdate r es s).fabric.updates = s.fabric.updates ++ [r] ∧ (gotUpdate r es s).fabric.routes = s.fabric.routes ∧
      (gotUpdate r es s).fabric.epoch = s.fabric.epoch) ∧
    (r.beat < beatOf s → (gotUpdate r es s).fabric.updates = s.fabric.updates ∧ (gotUpdate r es s).fabric.routes = r.entries ∧
      (gotUpdate r es s).fabric.epoch = r.epoch) := by
  rw [gotUpdate_first hfirst hnew]
  refine ⟨fun hahead => ?_, fun hlate => ?_⟩
  · rw [if_neg (Nat.not_lt.2 hahead)]
    exact ⟨rfl, rfl, rfl⟩
  · obtain ⟨hupdates, hroutes, -, hepoch, -⟩ := takeUpdate_takes r (updateWaits r s)
    have hkept : s.fabric.updates.filter (· ≠ r) = s.fabric.updates :=
      List.filter_eq_self.2 fun x hx => decide_eq_true fun hr => hfirst x hx (congrArg RouteUpd.epoch hr)
    rw [if_pos hlate, hupdates, updateWaits, modFabric_fabric, List.filter_append, hkept]
    exact ⟨by simp, hroutes, hepoch⟩

theorem gotUpdate_further (hx : s.fabric.updates.find? (fun x => x.epoch == r.epoch) = some x) :
    { x with entries := addEntries x.entries es } ∈ (gotUpdate r es s).fabric.updates ∧ (gotUpdate r es s).fabric.routes = s.fabric.routes := by
  simp only [gotUpdate, hx]
  exact ⟨List.mem_map.2 ⟨x, List.mem_of_find?_eq_some hx, if_pos rfl⟩, rfl⟩

/-- A table given in its first frame is held, whether or not an update follows. -/
theorem gotTable_holds (left : Nat) (hsome : entryTable es ≠ []) : (serial, entryTable es) ∈ (gotTable serial true left es s).fabric.given := by
  have hheld : ∀ (gs : List (BitVec 64 × Tab (BitVec 32))), (serial, entryTable es) ∈ gs ++ (if (entryTable es).isEmpty then [] else [(serial, entryTable es)]) := by
    intro gs
    rw [if_neg (by simpa using hsome)]
    exact List.mem_append_right _ (List.mem_singleton_self _)
  unfold gotTable
  dsimp only
  split
  · rw [reissue_given]
    exact hheld _
  · exact hheld _

theorem routeUpdate_acts (hin : inInbox s b f = true) : ∀ es serial r, serial = BitVec.ofNat 64 (pfld f.payload 0 8) →
    r = ⟨pfld f.payload 8 4, fullBeat (beatOf s) f.hdr.aux.toNat, entryTable es⟩ → answers (.routeUpdate b f es) s fun u =>
      (msgSeen s f = true ∨ (namedHere s f serial = false ∧ s.fabric.registrar ≠ some s.steward.serial) →
        u.fabric.updates = s.fabric.updates ∧ u.fabric.routes = s.fabric.routes ∧ u.fabric.epoch = s.fabric.epoch ∧ u.fabric.given = s.fabric.given) ∧
      (namedHere s f serial = true → msgSeen s f = false → (∀ x ∈ s.fabric.updates, x.epoch ≠ r.epoch) → r.epoch ≠ s.fabric.epoch ∨ s.fabric.epoch = 0 →
        (beatOf s ≤ r.beat → u.fabric.updates = s.fabric.updates ++ [r] ∧ u.fabric.routes = s.fabric.routes ∧ u.fabric.epoch = s.fabric.epoch) ∧
        (r.beat < beatOf s → u.fabric.updates = s.fabric.updates ∧ u.fabric.routes = r.entries ∧ u.fabric.epoch = r.epoch)) ∧
      (namedHere s f serial = true → msgSeen s f = false → ∀ x, s.fabric.updates.find? (fun x => x.epoch == r.epoch) = some x →
        { x with entries := addEntries x.entries es } ∈ u.fabric.updates ∧ u.fabric.routes = s.fabric.routes) ∧
      (namedHere s f serial = false → s.fabric.registrar = some s.steward.serial → f.hdr.src ≠ srcField s → msgSeen s f = false →
        f.hdr.aux.toNat + 1 = pfld f.payload 8 4 → entryTable es ≠ [] → (serial, entryTable es) ∈ u.fabric.given) := by
  rintro es _ r rfl rfl
  have hunsent := broadcastTaken_unsent b f s
  have hupdates : (broadcastTaken b f s).fabric.updates = s.fabric.updates := field_of_unsent Fabric.updates hunsent
  have hroutes : (broadcastTaken b f s).fabric.routes = s.fabric.routes := field_of_unsent Fabric.routes hunsent
  have hepoch : (broadcastTaken b f s).fabric.epoch = s.fabric.epoch := field_of_unsent Fabric.epoch hunsent
  refine answers_due rfl hin ⟨fun hidle => ?_, fun hnamed hnew hfirst hother => ?_, fun hnamed hnew x hx => ?_, fun hnamed hself hfrom hnew hwhole hsome => ?_⟩
  · have h := routeUpdateEff_idle (b := b) (es := es) hidle
    exact ⟨field_of_unsent Fabric.updates h, field_of_unsent Fabric.routes h, field_of_unsent Fabric.epoch h, field_of_unsent Fabric.given h⟩
  · rw [routeUpdateEff_named hnamed, takeMsg_forwarded hnew]
    have hacts := gotUpdate_acts (s := broadcastTaken b f s) (r := updateOf s f es) (es := es) (hupdates ▸ hfirst) (hepoch ▸ hother)
    rwa [broadcastTaken_beat, hupdates, hroutes, hepoch] at hacts
  · rw [routeUpdateEff_named hnamed, takeMsg_forwarded hnew, ← hroutes]
    exact gotUpdate_further (hupdates ▸ hx)
  · rw [routeUpdateEff_registrar hnamed hself hfrom, takeMsg_forwarded hnew, beq_iff_eq.2 hwhole]
    exact gotTable_holds _ hsome

/-! DRAIN and INPUT_PORT_SWITCH_TIMEOUT (13 R392). -/

theorem drain_acts (hready : drainReady s b f = true) : answers (.drain b f) s fun u => u.fabric.onOld = s.fabric.onOld.erase b ∧
    u.fabric.inbox = s.fabric.inbox.erase (b, f) ∧ (f.hdr.epoch.toNat ≠ s.fabric.epoch → (b, f.hdr.epoch.toNat) ∈ u.fabric.early) := by
  refine answers_due rfl hready ?_
  unfold drainEff
  dsimp only
  split
  next hforce => exact ⟨rfl, rfl, fun hother => absurd hforce hother⟩
  next => exact ⟨rfl, rfl, fun _ => List.mem_cons_self⟩

theorem inputPortSwitchTimeout_switches (hthere : bundleThere s b = true) (hold : b ∈ s.fabric.onOld) (hdown : (tabGet bundleZero s.fabric.bundles b).up = false)
    (hlate : s.fabric.switchAt ≤ upBeat s) : answers (.inputPortSwitchTimeout b) s fun u => u.fabric.onOld = s.fabric.onOld.erase b ∧ u.fabric.routes = s.fabric.routes := by
  refine answers_dueAt rfl hthere ?_ ?_
  · rw [List.contains_iff_mem.2 hold, hdown, decide_eq_true hlate]
    rfl
  · exact ⟨rfl, rfl⟩

end

/-- Settles O30: a frame is routed by its header and its entry, and a route update acts by whom it names, whether it is new and whether its beat has begun. -/
theorem fabricRoutesFrames : Obligations.FabricRoutesFrames := fun _ _ _ _ hd _ he _ hunicast =>
  ⟨fun hthere hup _ hin => frameRoute_routes hthere hup hin _ hd _ he _ hunicast, ack_answers, fun _ _ _ => messageResend_acts, routeUpdate_acts,
    fun _ => routeEffective_takes, drain_acts, inputPortSwitchTimeout_switches⟩

end Sys2Proof.Machine

/-!
Roll calls start, gather and close, addresses and admission are taken, bundles change, and an engine is a fabric of one (13 R382 to R384, R390 to R395).
-/
namespace Sys2Proof.Machine

section
variable {s u : State} {b : Nat} {f : Frame} {r : AdmRec} {serial : BitVec 64} {addr st reason : Nat}

/-! A broadcast of a roll call is taken and passed on (13 R382, R387). -/

/-- The state in which a broadcast of a roll call is acknowledged and passed on. -/
def rollHeard (b : Nat) (f : Frame) (s : State) : State := forwardBcast b f (ackFrame f (takeFrame b f s))

theorem rollHeard_unsent (b : Nat) (f : Frame) (s : State) : unsent (rollHeard b f s).fabric = unsent s.fabric :=
  ((forwardBcast_unsent ..).trans (ackFrame_unsent ..)).trans rfl

theorem rollHeard_steward (b : Nat) (f : Frame) (s : State) : (rollHeard b f s).steward = s.steward :=
  ((forwardBcast_steward ..).trans (ackFrame_steward ..)).trans rfl

theorem upBeat_rollHeard (b : Nat) (f : Frame) (s : State) : upBeat (rollHeard b f s) = upBeat s := by
  rw [upBeat, rollHeard, forwardBcast_time, (ackFrame_leaves ..).time (by decide)]
  rfl

theorem rankNow_rollHeard (b : Nat) (f : Frame) (s : State) : rankNow (rollHeard b f s) = rankNow s := by
  rw [rankNow, field_of_unsent Fabric.newRank (rollHeard_unsent b f s), field_of_unsent Fabric.rank (rollHeard_unsent b f s), rankNow]

theorem rollStartEff_joins (hhigher : s.fabric.rollSeen < f.hdr.tag.toNat) : rollStartEff s b f = joinRoll f.hdr.tag.toNat (rollHeard b f s) := if_pos hhigher

theorem rollStartEff_passes (hseen : f.hdr.tag.toNat ≤ s.fabric.rollSeen) : rollStartEff s b f = rollHeard b f s := if_neg (Nat.not_lt.2 hseen)

/-- An engine that joins a roll call has its own record alone, with the rank committed for it. -/
theorem joinRoll_joins (n : Nat) (s : State) : (joinRoll n s).fabric.rollSeen = n ∧ (joinRoll n s).fabric.rolling = true ∧ (joinRoll n s).fabric.lastRoll = upBeat s ∧
    (joinRoll n s).fabric.rank = rankNow s ∧ (joinRoll n s).fabric.newRank = none ∧ (joinRoll n s).fabric.records = [selfRecord s] :=
  ⟨rfl, rfl, rfl, rfl, rfl, rfl⟩

theorem rollStart_acts (hin : inInbox s b f = true) : answers (.rollStart b f) s fun u =>
    (s.fabric.rollSeen < f.hdr.tag.toNat → u.fabric.rollSeen = f.hdr.tag.toNat ∧ u.fabric.rolling = true ∧ u.fabric.lastRoll = upBeat s ∧ u.fabric.rank = rankNow s ∧
      u.fabric.newRank = none ∧ ∃ r, u.fabric.records = [r] ∧ r.serial = s.steward.serial ∧ r.rank = rankNow s ∧ r.epoch = s.fabric.epoch) ∧
    (f.hdr.tag.toNat ≤ s.fabric.rollSeen → u.fabric.rollSeen = s.fabric.rollSeen ∧ u.fabric.rolling = s.fabric.rolling ∧ u.fabric.records = s.fabric.records) := by
  have hunsent := rollHeard_unsent b f s
  refine answers_due rfl hin ⟨fun hhigher => ?_, fun hseen => ?_⟩
  · obtain ⟨hnumber, hrolling, hbeat, hrank, hnone, hrecords⟩ := joinRoll_joins f.hdr.tag.toNat (rollHeard b f s)
    rw [rollStartEff_joins hhigher]
    exact ⟨hnumber, hrolling, hbeat.trans (upBeat_rollHeard ..), hrank.trans (rankNow_rollHeard ..), hnone, _, hrecords,
      congrArg Steward.serial (rollHeard_steward ..), rankNow_rollHeard .., field_of_unsent Fabric.epoch hunsent⟩
  · rw [rollStartEff_passes hseen]
    exact ⟨field_of_unsent Fabric.rollSeen hunsent, field_of_unsent Fabric.rolling hunsent, field_of_unsent Fabric.records hunsent⟩

theorem rollEff_gathers (hnew : rollNew s f = true) : rollEff s b f = learnPeer (admOf f.payload).serial (admOf f.payload).addr
    (modFabric (fun x => { x with records := x.records ++ [admOf f.payload], lastRoll := upBeat s }) (rollHeard b f s)) := if_pos hnew

theorem rollEff_passes (hold : rollNew s f = false) : rollEff s b f = rollHeard b f s := if_neg (Bool.eq_false_iff.1 hold)

theorem roll_acts (hin : inInbox s b f = true) : answers (.roll b f) s fun u =>
    (rollNew s f = true → u.fabric.records = s.fabric.records ++ [admOf f.payload] ∧ u.fabric.lastRoll = upBeat s) ∧
    (rollNew s f = false → u.fabric.records = s.fabric.records ∧ u.fabric.lastRoll = s.fabric.lastRoll) := by
  have hunsent := rollHeard_unsent b f s
  refine answers_due rfl hin ⟨fun hnew => ?_, fun hold => ?_⟩
  · rw [rollEff_gathers hnew, ← field_of_unsent Fabric.records hunsent]
    exact ⟨rfl, rfl⟩
  · rw [rollEff_passes hold]
    exact ⟨field_of_unsent Fabric.records hunsent, field_of_unsent Fabric.lastRoll hunsent⟩

/-! Addresses and admission (13 R383, R395). -/

/-- What the note of an announced address or state may change. -/
theorem noteTold_changes (serial : BitVec 64) (at' kind v : Nat) (s : State) :
    ∃ bundles members told, noteTold serial at' kind v s = modFabric (fun x => { x with bundles := bundles, members := members, told := told }) s := by
  unfold noteTold
  split
  · exact ⟨_, _, _, rfl⟩
  · exact ⟨_, _, _, rfl⟩

theorem noteTold_steward (serial : BitVec 64) (at' kind v : Nat) (s : State) : (noteTold serial at' kind v s).steward = s.steward := by
  obtain ⟨_, _, _, h⟩ := noteTold_changes serial at' kind v s
  rw [h]
  rfl

theorem setFabric_fabricSt (k : Nat) (s : State) : (setFabric k s).steward.fabricSt = k := by
  unfold setFabric
  split
  next hsame => exact hsame
  next => exact (raiseInt_leaves ..).steward_fabricSt (by decide)

theorem stopKeeping_fabricSt (s : State) : (stopKeeping s).steward.fabricSt = s.steward.fabricSt :=
  (stopKeeping_only (P := (· ≠ .fabricSt)) (by simp) (by simp) (by simp) only_refl).steward_fabricSt (by simp)

theorem takeAdmission_fabricSt (alone : Bool) (st why : Nat) (s : State) : (takeAdmission alone st why s).steward.fabricSt = if alone then 0 else st := by
  unfold takeAdmission
  dsimp only
  generalize (if alone = true then 0 else st) = admitted
  split
  · rw [stopKeeping_fabricSt, setFabric_fabricSt]
  · exact setFabric_fabricSt ..

/-- The state in which ASSIGN has been passed on and what it says is noted. -/
def assignNoted (b : Nat) (f : Frame) (serial : BitVec 64) (addr : Nat) (s : State) : State :=
  noteTold serial (pfld f.payload 12 4) 3 (addr % 2 ^ 13) (forwardBcast b f (takeFrame b f s))

theorem assignNoted_addr : (assignNoted b f serial addr s).fabric.addr = s.fabric.addr := by
  obtain ⟨_, _, _, h⟩ := noteTold_changes serial (pfld f.payload 12 4) 3 (addr % 2 ^ 13) (forwardBcast b f (takeFrame b f s))
  rw [assignNoted, h]
  exact (field_of_unsent Fabric.addr (forwardBcast_unsent b f (takeFrame b f s)) :)

theorem assignEff_named (hnamed : namedHere s f serial = true) (hnew : msgSeen s f = false) : assignEff s b f serial addr =
    ackFrame f (modFabric (fun x => { x with seen := x.seen ++ [msgKey f], addr := some (addr % 2 ^ 13) }) (assignNoted b f serial addr s)) := by
  rw [assignEff, if_pos hnamed, hnew]
  rfl

theorem assignEff_other_addr (hother : namedHere s f serial = false) : (assignEff s b f serial addr).fabric.addr = s.fabric.addr := by
  rw [assignEff, hother, if_neg Bool.false_ne_true]
  split
  · exact (field_of_unsent Fabric.addr (ackFrame_unsent ..)).trans assignNoted_addr
  · exact assignNoted_addr

theorem assign_acts (hin : inInbox s b f = true) (serial : BitVec 64) (addr : Nat) : answers (.assign b f serial addr) s fun u =>
    (namedHere s f serial = true → msgSeen s f = false → u.fabric.addr = some (addr % 2 ^ 13)) ∧ (namedHere s f serial = false → u.fabric.addr = s.fabric.addr) := by
  refine answers_due rfl hin ⟨fun hnamed hnew => ?_, assignEff_other_addr⟩
  rw [assignEff_named hnamed hnew]
  exact field_of_unsent Fabric.addr (ackFrame_unsent ..)

/-- The state in which ADMIT has been passed on and what it says is noted. -/
def admitNoted (b : Nat) (f : Frame) (serial : BitVec 64) (st reason : Nat) (s : State) : State :=
  noteTold serial (pfld f.payload 12 4) 4 (stateNoted st reason) (forwardBcast b f s)

theorem admitEff_named (hnamed : namedHere s f serial = true) :
    admitEff s b f serial st reason = takeMsg b f (takeAdmission false st reason) (admitNoted b f serial st reason s) := if_pos hnamed

theorem admitEff_other (hother : namedHere s f serial = false) : admitEff s b f serial st reason = takeFrame b f (admitNoted b f serial st reason s) :=
  if_neg (Bool.eq_false_iff.1 hother)

/-- Noting what an ADMIT says leaves this engine's own admission, and whether the message was acted on. -/
theorem admitNoted_stands : (admitNoted b f serial st reason s).fabric.admission = s.fabric.admission ∧
    (admitNoted b f serial st reason s).fabric.reason = s.fabric.reason ∧ msgSeen (admitNoted b f serial st reason s) f = msgSeen s f := by
  obtain ⟨_, _, _, hnoted⟩ := noteTold_changes serial (pfld f.payload 12 4) 4 (stateNoted st reason) (forwardBcast b f s)
  obtain ⟨_, _, _, hpassed⟩ := forwardBcast_changes b f s
  rw [admitNoted, hnoted, hpassed]
  exact ⟨rfl, rfl, rfl⟩

theorem admitFrame_acts (hin : inInbox s b f = true) (serial : BitVec 64) (st reason : Nat) : answers (.admitFrame b f serial st reason) s fun u =>
    (namedHere s f serial = true → msgSeen s f = false → u.fabric.admission = st ∧ u.fabric.reason = reason ∧ u.steward.fabricSt = st) ∧
    (namedHere s f serial = false → u.fabric.admission = s.fabric.admission ∧ u.fabric.reason = s.fabric.reason ∧ u.steward.fabricSt = s.steward.fabricSt) := by
  obtain ⟨hadmission, hreason, hseen⟩ := admitNoted_stands (b := b) (f := f) (serial := serial) (st := st) (reason := reason) (s := s)
  refine answers_due rfl hin ⟨fun hnamed hnew => ?_, fun hother => ?_⟩
  · rw [admitEff_named hnamed, takeMsg_first (hseen.trans hnew), takeAdmission_fabric]
    exact ⟨rfl, rfl, takeAdmission_fabricSt ..⟩
  · rw [admitEff_other hother]
    exact ⟨hadmission, hreason, congrArg Steward.fabricSt ((noteTold_steward ..).trans (forwardBcast_steward ..))⟩

/-! The registrar announces addresses and states, and issues an update (13 R383, R391, R393). -/

/-- What announcing leaves: the roll call, the registrar, the updates, and the beat. -/
structure Announced (s u : State) : Prop where
  fabric : unannounced u.fabric = unannounced s.fabric
  beat   : beatOf u = beatOf s

theorem Announced.trans {v : State} (h : Announced s u) (h' : Announced u v) : Announced s v := ⟨h'.fabric.trans h.fabric, h'.beat.trans h.beat⟩

theorem announced_noteTold (h : Announced s u) (serial : BitVec 64) (at' kind v : Nat) : Announced s (noteTold serial at' kind v u) :=
  h.trans (by
    obtain ⟨_, _, _, hnoted⟩ := noteTold_changes serial at' kind v u
    rw [hnoted]
    exact ⟨rfl, rfl⟩)

theorem announced_sendNamed (h : Announced s u) (kind aux : Nat) (serial : BitVec 64) (value at' : Nat) (p : List Byte) :
    Announced s (sendNamed kind aux serial value at' p u) :=
  h.trans ⟨unannounced_of_unsent (sendNamed_unsent ..), beatOf_of_time ((sendNamed_only (P := (· ≠ .time)) (by simp) _ _ _ _ _ _ only_refl).time (by simp))⟩

theorem announced_sendTo (h : Announced s u) (dst kind aux : Nat) (serial : BitVec 64) (value at' : Nat) (p : List Byte) :
    Announced s (sendTo dst kind aux serial value at' p u) :=
  h.trans ⟨unannounced_of_unsent (sendTo_unsent ..), beatOf_of_time ((sendTo_only (P := (· ≠ .time)) (by simp) _ _ _ _ _ _ _ only_refl).time (by simp))⟩

theorem beatOf_stopKeeping (s : State) : beatOf (stopKeeping s) = beatOf s := by
  unfold stopKeeping
  split
  · rw [beatOf, setTimeSt_record]
    rfl
  · rfl

theorem announced_takeAdmission (h : Announced s u) (alone : Bool) (st why : Nat) : Announced s (takeAdmission alone st why u) := by
  refine h.trans ⟨by rw [takeAdmission_fabric]; rfl, ?_⟩
  have hset : ∀ k v, beatOf (setFabric k v) = beatOf v := fun _ _ => beatOf_of_time (setFabric_time ..)
  unfold takeAdmission
  dsimp only
  generalize (if alone = true then 0 else st) = admitted
  split
  · rw [beatOf_stopKeeping, hset]
    rfl
  · exact hset ..

theorem announced_announceAll (me : AdmRec) (alone : Bool) : ∀ (js : List (AdmRec × Nat × Nat × Nat)) (s : State), Announced s (announceAll me alone js s)
  | [], _ => ⟨rfl, rfl⟩
  | (r, a, st, why) :: js, s => by
    refine Announced.trans ?_ (announced_announceAll me alone js _)
    have haddr : Announced s (modFabric (fun x => { x with addr := some a }) s) := ⟨rfl, rfl⟩
    have htaken := announced_takeAdmission haddr alone st why
    split
    · refine announced_noteTold (announced_sendNamed ?_ ..) ..
      split
      · exact htaken
      · exact announced_noteTold (announced_sendNamed htaken ..) ..
    · refine announced_noteTold (announced_sendTo ?_ ..) ..
      split
      · exact ⟨rfl, rfl⟩
      · exact announced_noteTold (announced_sendTo ⟨rfl, rfl⟩ ..) ..

theorem le_foldl_max : ∀ (ks : List Nat) (k : Nat), k ≤ ks.foldl max k
  | [], k => Nat.le_refl k
  | j :: ks, k => (Nat.le_max_left k j).trans (le_foldl_max ks _)

theorem updateBeat_ahead (s : State) : beatOf s + 64 ≤ updateBeat s := (Nat.le_add_right ..).trans (le_foldl_max ..)

theorem nextEpoch_of_fabric (h : unannounced u.fabric = unannounced s.fabric) (newly : Bool) : nextEpoch u newly = nextEpoch s newly := by
  rw [nextEpoch, epochSoFar, field_of_unannounced Fabric.updates h, field_of_unannounced Fabric.epoch h, field_of_unannounced Fabric.records h, nextEpoch, epochSoFar]

/-- An update that is issued joins those that wait, and the registrar and the roll call stand. -/
theorem issueUpdate_issues (newly : Bool) (js : List (AdmRec × Nat × Nat × Nat)) (s : State) :
    (∃ x, (issueUpdate newly js s).fabric.updates = s.fabric.updates ++ [x] ∧ x.beat = updateBeat s ∧ x.epoch = nextEpoch s newly) ∧
    (issueUpdate newly js s).fabric.registrar = s.fabric.registrar ∧ (issueUpdate newly js s).fabric.rolling = s.fabric.rolling :=
  ⟨⟨_, (field_of_unannounced Fabric.updates (sendUpdates_unannounced ..)).trans rfl, rfl, rfl⟩,
    (field_of_unannounced Fabric.registrar (sendUpdates_unannounced ..)).trans rfl, (field_of_unannounced Fabric.rolling (sendUpdates_unannounced ..)).trans rfl⟩

theorem registrarActs_issues (me : AdmRec) (newly : Bool) (s : State) :
    (∃ x, (registrarActs me newly s).fabric.updates = s.fabric.updates ++ [x] ∧ beatOf s + 64 ≤ x.beat ∧ x.epoch = nextEpoch s newly) ∧
    (registrarActs me newly s).fabric.registrar = s.fabric.registrar ∧ (registrarActs me newly s).fabric.rolling = s.fabric.rolling := by
  unfold registrarActs
  dsimp only
  generalize judgeAll me _ _ = js
  obtain ⟨hfabric, hbeat⟩ := announced_announceAll me (decide (s.fabric.records.length ≤ 1)) js s
  obtain ⟨⟨x, hupdates, hat, hepoch⟩, hregistrar, hrolling⟩ := issueUpdate_issues newly js (announceAll me (decide (s.fabric.records.length ≤ 1)) js s)
  refine ⟨⟨x, hupdates.trans ?_, ?_, hepoch.trans (nextEpoch_of_fabric hfabric newly)⟩, hregistrar.trans (field_of_unannounced Fabric.registrar hfabric),
    hrolling.trans (field_of_unannounced Fabric.rolling hfabric)⟩
  · rw [field_of_unannounced Fabric.updates hfabric]
  · rw [hat, ← hbeat]
    exact updateBeat_ahead _

/-! ROLL_CALL_CLOSE (13 R383, R408, R411). -/

theorem haltWith_unsent (n status : Nat) (fr : Option FaultRec) (repair : Bool) (s : State) : unsent (haltWith n status fr repair s).fabric = unsent s.fabric := by
  unfold haltWith
  split
  · rfl
  split
  · rfl
  split
  · rfl
  dsimp only
  split
  · rfl
  split
  · exact tellMembers_unsent ..
  · exact sendMgmt_unsent ..

theorem haltTask_unsent (n status : Nat) (fr : Option FaultRec) (repair : Bool) (s : State) : unsent (haltTask n status fr repair s).fabric = unsent s.fabric := by
  obtain ⟨fr', h⟩ := haltTask_eq_haltWith n status fr repair s
  rw [h, haltWith_unsent]

theorem checkMembers_unsent (t : Task) (s : State) : unsent (checkMembers t s).fabric = unsent s.fabric := by
  unfold checkMembers
  dsimp only
  split
  · rfl
  split
  · split
    · exact haltWith_unsent ..
    · split
      · exact refuseRound_unsent ..
      · rfl
  split
  · split
    · rfl
    · split
      · rw [finishTask_fabric]
      · rfl
  · rfl

theorem checkAll_unsent : ∀ (ts : List Task) (s : State), unsent (checkAll ts s).fabric = unsent s.fabric
  | [], _ => rfl
  | t :: ts, s => (checkAll_unsent ts _).trans (checkMembers_unsent t s)

/-- The state in which the roll call is closed and the engine of a record is the registrar. -/
def rollClosed (r : AdmRec) (s : State) : State := modFabric (fun x => { x with
  rolling := false, registrar := some r.serial, members := x.told.foldl (fun ms e => ms.map (toldOf e)) x.records, told := [] }) s

/-- The state in which the registrar, where this engine is it, has acted. -/
def rollSettled (r : AdmRec) (s : State) : State :=
  if r.serial = s.steward.serial then registrarActs r (s.fabric.registrar != some r.serial) (rollClosed r s) else rollClosed r s

theorem rollCloseEff_none (hnone : elected s.fabric.records = none) : rollCloseEff s = modFabric (fun x => { x with rolling := false }) s := by
  rw [rollCloseEff, hnone]

theorem rollCloseEff_elects (hr : elected s.fabric.records = some r) : rollCloseEff s = promote (checkAll s.steward.tasks (rollSettled r s)) := by
  rw [rollCloseEff, hr]
  rfl

theorem rollCloseEff_unsent (hr : elected s.fabric.records = some r) : unsent (rollCloseEff s).fabric = unsent (rollSettled r s).fabric := by
  rw [rollCloseEff_elects hr, (promote_leaves _).fabric (by decide), checkAll_unsent]

theorem rollSettled_elects (r : AdmRec) (s : State) : (rollSettled r s).fabric.rolling = false ∧ (rollSettled r s).fabric.registrar = some r.serial ∧
    (r.serial = s.steward.serial → ∃ x, (rollSettled r s).fabric.updates = s.fabric.updates ++ [x] ∧ beatOf s + 64 ≤ x.beat ∧
      x.epoch = nextEpoch s (s.fabric.registrar != some r.serial)) ∧
    (r.serial ≠ s.steward.serial → (rollSettled r s).fabric.updates = s.fabric.updates) := by
  obtain ⟨hissued, hregistrar, hrolling⟩ := registrarActs_issues r (s.fabric.registrar != some r.serial) (rollClosed r s)
  unfold rollSettled
  split
  next hself => exact ⟨hrolling, hregistrar, fun _ => hissued, fun hother => absurd hself hother⟩
  next hother => exact ⟨rfl, rfl, fun hself => absurd hself hother, fun _ => rfl⟩

theorem rollCallClose_acts (hready : rollCloseReady s = true) : answers .rollCallClose s fun u => u.fabric.rolling = false ∧
    (∀ r, elected s.fabric.records = some r → u.fabric.registrar = some r.serial ∧
      (r.serial = s.steward.serial → ∃ x, u.fabric.updates = s.fabric.updates ++ [x] ∧ beatOf s + 64 ≤ x.beat ∧
        x.epoch = nextEpoch s (s.fabric.registrar != some r.serial)) ∧
      (r.serial ≠ s.steward.serial → u.fabric.updates = s.fabric.updates)) := by
  refine answers_due rfl hready ?_
  rcases hr : elected s.fabric.records with _ | r
  · rw [rollCloseEff_none hr]
    exact ⟨rfl, fun _ h => by cases h⟩
  · have hunsent := rollCloseEff_unsent hr
    obtain ⟨hrolling, hregistrar, hself, hother⟩ := rollSettled_elects r s
    refine ⟨(field_of_unsent Fabric.rolling hunsent).trans hrolling, fun _ h => ?_⟩
    cases h
    rw [field_of_unsent Fabric.registrar hunsent, field_of_unsent Fabric.updates hunsent]
    exact ⟨hregistrar, hself, hother⟩

/-! FABRIC_OF_ONE (13 R384, 15 R441). -/

theorem keepOwn_fabric (s : State) : (keepOwn s).fabric = s.fabric := setTimeSt_fabric ..

theorem keepOwn_keeps (s : State) : (keepOwn s).time.announcing = true ∧ (keepOwn s).time.keeper = none ∧ (keepOwn s).time.st = 1 := by
  rw [keepOwn, setTimeSt_record]
  exact ⟨rfl, rfl, rfl⟩

theorem keepOwn_fabricSt (s : State) : (keepOwn s).steward.fabricSt = s.steward.fabricSt :=
  (keepOwn_only (P := (· ≠ .fabricSt)) (by simp) (by simp) (by simp) only_refl).steward_fabricSt (by simp)

theorem fabricOfOne_acts (hready : ofOneReady s = true) : answers .fabricOfOne s fun u => u.fabric.addr = some 0 ∧ u.fabric.epoch = 0 ∧
    u.fabric.registrar = some s.steward.serial ∧ u.fabric.admission = 0 ∧ u.steward.fabricSt = 0 ∧ u.time.announcing = true ∧ u.time.keeper = none ∧ u.time.st = 1 := by
  refine answers_due rfl hready ?_
  rw [ofOne, keepOwn_fabric, setFabric_fabric, keepOwn_fabricSt, setFabric_fabricSt]
  exact ⟨rfl, rfl, rfl, rfl, rfl, keepOwn_keeps _⟩

/-! BUNDLE_CHANGE (13 R382, 14 R430, 17 R489). -/

theorem startRoll_starts (s : State) : (startRoll s).fabric.bundles = s.fabric.bundles ∧ (startRoll s).fabric.rollSeen = s.fabric.rollSeen + 1 ∧
    (startRoll s).fabric.rolling = true := ⟨rfl, rfl, rfl⟩

/-- What a refreshed bundle changes of the fabric is that bundle, which has the lanes of its ports. -/
theorem refreshBundle_bundle {g : Nat} (hlanes : laneMask s g b ≠ 0) (up : Bool) : ∃ x, (refreshBundle g b up s).fabric = { s.fabric with
    bundles := tabPut bundleZero s.fabric.bundles b x } ∧ x.up = up ∧ x.lanes = laneMask s g b := by
  unfold refreshBundle
  split
  next hnone => exact absurd (by rw [laneMask, hnone]; rfl) hlanes
  next => exact ⟨_, (markLatency_only (P := (· ≠ .fabric)) (by simp) _ _ _ only_refl).fabric (by simp), rfl, rfl⟩

theorem bundleReady_lanes (h : bundleReady s b true = true) : laneMask s (b / 8) b ≠ 0 := by
  simp only [bundleReady, if_true, Bool.and_eq_true, bne_iff_ne] at h
  exact h.1.2

theorem bundleEff_up (hready : bundleReady s b true = true) : (tabGet bundleZero (bundleEff s b true).fabric.bundles b).up = true ∧
    (tabGet bundleZero (bundleEff s b true).fabric.bundles b).lanes = laneMask s (b / 8) b ∧ (bundleEff s b true).fabric.rollSeen = s.fabric.rollSeen + 1 ∧
    (bundleEff s b true).fabric.rolling = true := by
  obtain ⟨x, hfabric, hup, hlanes⟩ := refreshBundle_bundle (bundleReady_lanes hready) true
  obtain ⟨hbundles, hnumber, hrolling⟩ := startRoll_starts (refreshBundle (b / 8) b true s)
  rw [bundleEff, if_pos rfl, hbundles, hnumber, hrolling, hfabric, tabGet_put, if_pos rfl]
  exact ⟨hup, hlanes, rfl, rfl⟩

theorem haltForRepair_unsent (code : Nat) : ∀ (ns : List Nat) (s : State), unsent (haltForRepair code ns s).fabric = unsent s.fabric
  | [], _ => rfl
  | _ :: ns, _ => (haltForRepair_unsent code ns _).trans (haltTask_unsent ..)

/-- The state in which the bundle is down and the tasks with claims on it are halted. -/
def bundleLost (b : Nat) (s : State) : State := haltForRepair 0x0D02 (claimTasks s b) (markRepair (claimTasks s b)
  (modFabric (fun x => { x with bundles := tabMod bundleZero x.bundles b fun y => { y with up := false } }) s))

theorem bundleLost_bundles : (bundleLost b s).fabric.bundles = tabMod bundleZero s.fabric.bundles b (fun y => { y with up := false }) :=
  (field_of_unsent Fabric.bundles (haltForRepair_unsent ..)).trans rfl

theorem bundleLost_rollSeen : (bundleLost b s).fabric.rollSeen = s.fabric.rollSeen :=
  (field_of_unsent Fabric.rollSeen (haltForRepair_unsent ..)).trans rfl

theorem bundleEff_down : (tabGet bundleZero (bundleEff s b false).fabric.bundles b).up = false ∧ (bundleEff s b false).fabric.rollSeen = s.fabric.rollSeen + 1 ∧
    (bundleEff s b false).fabric.rolling = true := by
  have heff : bundleEff s b false = startRoll (bundleLost b s) := rfl
  obtain ⟨hbundles, hnumber, hrolling⟩ := startRoll_starts (bundleLost b s)
  rw [heff, hbundles, hnumber, hrolling, bundleLost_bundles, bundleLost_rollSeen, tabGet_mod, if_pos rfl]
  exact ⟨rfl, rfl, rfl⟩

theorem bundleChange_acts (up : Bool) (hthere : bundleThere s b = true) (hready : bundleReady s b up = true) : answers (.bundleChange b up) s fun u =>
    (tabGet bundleZero u.fabric.bundles b).up = up ∧ (up = true → (tabGet bundleZero u.fabric.bundles b).lanes = laneMask s (b / 8) b) ∧
      u.fabric.rollSeen = s.fabric.rollSeen + 1 ∧ u.fabric.rolling = true := by
  refine answers_dueAt rfl hthere hready ?_
  cases up with
  | true =>
    obtain ⟨hup, hlanes, hnumber, hrolling⟩ := bundleEff_up hready
    exact ⟨hup, fun _ => hlanes, hnumber, hrolling⟩
  | false =>
    obtain ⟨hdown, hnumber, hrolling⟩ := bundleEff_down (s := s) (b := b)
    exact ⟨hdown, fun h => Bool.noConfusion h, hnumber, hrolling⟩

end

/-- Settles O31: a roll call is joined, gathered and closed, the registrar's messages reach whom they name, and a bundle that changes opens a roll call. -/
theorem fabricMembershipActs : Obligations.FabricMembershipActs := fun _ _ _ =>
  ⟨rollStart_acts, roll_acts, rollCallClose_acts, assign_acts, admitFrame_acts, fabricOfOne_acts, bundleChange_acts⟩

end Sys2Proof.Machine

/-!
What a port sends and records, and what it makes of each block that it receives (14 R418 to R421, R425 to R428, R436).
-/
namespace Sys2Proof.Machine

section
variable {α β : Type} {s t u : State} {g p q k b sl lane beat pos low : Nat} {x y z : Port} {bytes : List Byte} {again : Bool} {errors : Nat} {blocks : List Block}

/-! The block of a position (14 R420, R426). -/

theorem beatOf_beginSlot : beatOf (beginSlot g p s) = beatOf s := by
  rw [beatOf, (beginSlot_only (P := (· ≠ .time)) (by simp) (by simp) g p only_refl).time (by simp), beatOf]

/-- The block chosen leaves of the port all but the queues and the test from which it comes. -/
theorem field_spareBlock (field : Port → α) (hf : ∀ x n w l r c, field { x with nakQ := n, swapQ := w, loopQ := l, replayQ := r, replays := c } = field x)
    (s : State) (g p : Nat) (x : Port) : field (spareBlock s g p x).2 = field x := by
  fun_cases spareBlock s g p x
  all_goals exact hf x _ _ _ _ _

theorem field_testBlock (field : Port → α) (hf : ∀ x o e, field { x with test := o, echoQ := e } = field x) (x : Port) : field (testBlock x).2 = field x := by
  fun_cases testBlock x
  all_goals exact hf x _ _

/-- What a port keeps as it sends a block that begins no beat. -/
theorem field_txBlock (field : Port → α) (hspare : ∀ x n w l r c, field { x with nakQ := n, swapQ := w, loopQ := l, replayQ := r, replays := c } = field x)
    (htest : ∀ x o e, field { x with test := o, echoQ := e } = field x) (hinside : atBeatStart s x = false) : field (txBlock s g p x bytes).2.1 = field x := by
  unfold txBlock
  rw [hinside, if_neg Bool.false_ne_true]
  split
  · rfl
  · split
    · rfl
    · split
      · rfl
      · split
        · exact field_testBlock field htest x
        · rfl
    · exact field_spareBlock field hspare s g p x

theorem txBlock_beatStart (hstart : atBeatStart s x = true) : txBlock s g p x bytes =
    (.beatMark (beatOf s) (if x.txPos = 0 then 0 else x.txPos - (lsPos x.rate 63 + lsLen x.rate)) (if x.st = 5 then x.logical else 0x1F),
      { x with txBeat := beatOf s, txPos := 0, waitMark := false, departs := noteMark x.departs (beatOf s) (leaves s x) }, false) := if_pos hstart

theorem st_of_carries (h : carries x = true) : x.st = 5 := by
  simp only [carries, Bool.and_eq_true, beq_iff_eq] at h
  exact h.1

theorem txBlock_slotMark (hinside : atBeatStart s x = false) (hcarries : carries x = true) (hslot : slotAt x.rate x.txPos = some (sl, 0)) :
    (txBlock s g p x bytes).1 = .slotMark (x.txBeat % 65536) sl bytes := by
  simp [txBlock, hinside, hcarries, hslot, st_of_carries hcarries]

theorem txBlock_data (hinside : atBeatStart s x = false) (hcarries : carries x = true) (hslot : slotAt x.rate x.txPos = some (sl, k + 1)) :
    (txBlock s g p x bytes).1 = .data bytes := by
  simp [txBlock, hinside, hcarries, hslot, st_of_carries hcarries]

/-- Sending a block changes neither the state of a port nor the codeword under way. -/
theorem txBlock_keeps (s : State) (g p : Nat) (x : Port) (bytes : List Byte) :
    (txBlock s g p x bytes).2.1.st = x.st ∧ (txBlock s g p x bytes).2.1.cwBlocks = x.cwBlocks := by
  rcases hstart : atBeatStart s x with _ | _
  · exact ⟨field_txBlock Port.st (fun _ _ _ _ _ _ => rfl) (fun _ _ _ => rfl) hstart, field_txBlock Port.cwBlocks (fun _ _ _ _ _ _ => rfl) (fun _ _ _ => rfl) hstart⟩
  · rw [txBlock_beatStart hstart]
    exact ⟨rfl, rfl⟩

/-! The block sent is recorded (14 R418, R427). -/

theorem recordSent_st (x : Port) (b : Block) (again : Bool) : (recordSent x b again).st = x.st := by
  fun_cases recordSent x b again <;> rfl

theorem recordSent_last (x : Port) (b : Block) (again : Bool) : ∃ e,
    (recordSent x b again).sent.getLast? = some e ∧ e.beat = x.txBeat ∧ e.pos = x.txPos ∧ e.block = b := by
  fun_cases recordSent x b again <;> exact ⟨_, List.getLast?_concat, rfl, rfl, rfl⟩

theorem length_foldl_of_grows {f : List α × β → Nat → List α × β} (hf : ∀ a k, (f a k).1.length = a.1.length + 1) (ks : List Nat) (a : List α × β) :
    (ks.foldl f a).1.length = a.1.length + ks.length := by
  induction ks generalizing a with
  | nil => rfl
  | cons k ks ih => rw [List.foldl_cons, ih, hf, List.length_cons, Nat.add_assoc, Nat.add_comm 1]

theorem length_lineWords (pre : Bool) (cw y : Nat) : (lineWords pre cw y).1.length = 20 :=
  (length_foldl_of_grows (fun _ _ => List.length_append) _ _).trans (by rw [List.length_range]; rfl)

theorem recordSent_completes (hlast : x.cwBlocks.length = 19) (b : Block) : (recordSent x b again).cwBlocks = [] ∧ (recordSent x b again).line.length = 20 := by
  have hfull : ¬ (x.cwBlocks ++ [b]).length < 20 := by simp [hlast]
  unfold recordSent
  dsimp only
  rw [if_neg hfull]
  exact ⟨rfl, length_lineWords ..⟩

theorem recordSent_fills (hfew : x.cwBlocks.length < 19) (b : Block) : (recordSent x b again).cwBlocks.length = x.cwBlocks.length + 1 := by
  have hroom : (x.cwBlocks ++ [b]).length < 20 := by simp; omega
  unfold recordSent
  dsimp only
  rw [if_pos hroom]
  exact List.length_append

/-- BLOCK_TRANSMIT makes of the port what sending and recording a block make of it as its slot has been cut. -/
theorem portOf_blockTransmitEff : portOf (blockTransmitEff s g p bytes) g p =
    recordSent (txBlock (beginSlot g p s) g p (portOf (beginSlot g p s) g p) bytes).2.1 (txBlock (beginSlot g p s) g p (portOf (beginSlot g p s) g p) bytes).1
      (txBlock (beginSlot g p s) g p (portOf (beginSlot g p s) g p) bytes).2.2 := portOf_putPort ..

theorem blockTransmitEff_records (hx : x = portOf s g p) : ∃ e, (portOf (blockTransmitEff s g p bytes) g p).sent.getLast? = some e ∧
    (atBeatStart s x = true → e.beat = beatOf s ∧ e.pos = 0 ∧ ∃ n, e.block = .beatMark (beatOf s) n (if x.st = 5 then x.logical else 0x1F)) ∧
    (atBeatStart s x = false → e.beat = x.txBeat ∧ e.pos = x.txPos ∧
      (∀ sl, carries x = true → slotAt x.rate x.txPos = some (sl, 0) → e.block = .slotMark (x.txBeat % 65536) sl bytes) ∧
      (∀ sl k, carries x = true → slotAt x.rate x.txPos = some (sl, k + 1) → e.block = .data bytes)) := by
  have hsame := field_beginSlot (g := g) (fun x => (x.txPos, x.rate, x.txBeat, x.st, x.logical, carries x)) (fun _ _ => rfl) p s
  have hstart := atBeatStart_beginSlot (s := s) (g := g) (p := p)
  have htime := beatOf_beginSlot (s := s) (g := g) (p := p)
  rw [portOf_blockTransmitEff]
  rw [← hx] at hsame hstart
  generalize portOf (beginSlot g p s) g p = y at hsame hstart ⊢
  generalize beginSlot g p s = t at hstart htime ⊢
  simp only [Prod.mk.injEq] at hsame
  obtain ⟨hpos, hrate, hbeat, hst, hlane, hcarries⟩ := hsame
  obtain ⟨e, he, hebeat, hepos, heblock⟩ := recordSent_last (txBlock t g p y bytes).2.1 (txBlock t g p y bytes).1 (txBlock t g p y bytes).2.2
  rw [← hstart, ← hpos, ← hrate, ← hbeat, ← hst, ← hlane, ← hcarries, ← htime]
  refine ⟨e, he, fun h => ?_, fun h => ⟨?_, ?_, fun sl hc hslot => ?_, fun sl k hc hslot => ?_⟩⟩
  · rw [hebeat, hepos, heblock, txBlock_beatStart h]
    exact ⟨rfl, rfl, _, rfl⟩
  · exact hebeat.trans (field_txBlock Port.txBeat (fun _ _ _ _ _ _ => rfl) (fun _ _ _ => rfl) h)
  · exact hepos.trans (field_txBlock Port.txPos (fun _ _ _ _ _ _ => rfl) (fun _ _ _ => rfl) h)
  · exact heblock.trans (txBlock_slotMark h hc hslot)
  · exact heblock.trans (txBlock_data h hc hslot)

theorem blockTransmit_acts (hthere : portThere s g p = true) (hx : x = portOf s g p) (hready : blockTransmitReady s g p bytes = true) :
    answers (.blockTransmit g p bytes) s fun u =>
      (portOf u g p).txPos = (if atBeatStart s x then 1 else x.txPos + 1) ∧ (portOf u g p).st = x.st ∧
      (∃ e, (portOf u g p).sent.getLast? = some e ∧
        (atBeatStart s x = true → e.beat = beatOf s ∧ e.pos = 0 ∧ ∃ n, e.block = .beatMark (beatOf s) n (if x.st = 5 then x.logical else 0x1F)) ∧
        (atBeatStart s x = false → e.beat = x.txBeat ∧ e.pos = x.txPos ∧
          (∀ sl, carries x = true → slotAt x.rate x.txPos = some (sl, 0) → e.block = .slotMark (x.txBeat % 65536) sl bytes) ∧
          (∀ sl k, carries x = true → slotAt x.rate x.txPos = some (sl, k + 1) → e.block = .data bytes))) ∧
      (x.cwBlocks.length = 19 → (portOf u g p).cwBlocks = [] ∧ (portOf u g p).line.length = 20) ∧
      (x.cwBlocks.length < 19 → (portOf u g p).cwBlocks.length = x.cwBlocks.length + 1) := by
  obtain ⟨hst, hblocks⟩ := txBlock_keeps (beginSlot g p s) g p (portOf (beginSlot g p s) g p) bytes
  rw [field_beginSlot Port.st fun _ _ => rfl, ← hx] at hst
  rw [field_beginSlot Port.cwBlocks fun _ _ => rfl, ← hx] at hblocks
  refine answers_dueAt rfl hthere hready ⟨?_, ?_, blockTransmitEff_records hx, ?_, ?_⟩
  · rw [portOf_blockTransmitEff, recordSent_txPos, txBlock_txPos, atBeatStart_beginSlot, field_beginSlot Port.txPos fun _ _ => rfl, ← hx]
    split <;> rfl
  · rw [portOf_blockTransmitEff, recordSent_st, hst]
  · rw [portOf_blockTransmitEff, ← hblocks]
    exact fun hlast => recordSent_completes hlast _
  · rw [portOf_blockTransmitEff, ← hblocks]
    exact fun hfew => recordSent_fills hfew _

/-! Received blocks that are passed over leave what a test has counted, and begin no replay (14 R427, R433). -/

theorem rxNext_test (x : Port) (lost : Bool) : (rxNext x lost).test = x.test := by
  unfold rxNext
  split <;> rfl

theorem rxNext_replay (x : Port) (lost : Bool) : (rxNext x lost).replay = x.replay := by
  unfold rxNext
  split <;> rfl

section
variable (count : LinkTst → α) (hcount : ∀ q r, count { q with prbsRx := r } = count q)
include hcount

theorem skipTest_counts (x : Port) : (skipTest x).test.map count = x.test.map count := by
  unfold skipTest
  split
  next q _ _ htest _ => exact (congrArg some (hcount q _)).trans (congrArg (Option.map count) htest).symm
  next => rfl

theorem rxDamaged_counts (x : Port) : (rxDamaged x).test.map count = x.test.map count := by
  unfold rxDamaged
  dsimp only
  rw [rxNext_test]
  split
  · rfl
  · exact skipTest_counts count hcount x

theorem rxSettle_counts (is : List RxItem) (x : Port) : (rxSettle is x).test.map count = x.test.map count := by
  fun_induction rxSettle is x
  case case1 => rfl
  case case2 ih => exact ih.trans (rxDamaged_counts count hcount _)
  case case3 ih => exact ih.trans (congrArg (Option.map count) (rxNext_test _ _))
  case case4 ih => exact ih.trans (rxDamaged_counts count hcount _)
  case case5 => rfl

end

theorem skipTest_replay (x : Port) : (skipTest x).replay = x.replay := by
  unfold skipTest
  split <;> rfl

theorem rxDamaged_no_replay (hnone : x.replay = none) : (rxDamaged x).replay = none := by
  unfold rxDamaged
  dsimp only
  rw [rxNext_replay]
  split
  · rw [hnone]
    rfl
  · rw [skipTest_replay, hnone]

theorem rxSettle_no_replay (is : List RxItem) (x : Port) (hnone : x.replay = none) : (rxSettle is x).replay = none := by
  fun_induction rxSettle is x
  case case1 => exact hnone
  case case2 ih => exact ih (rxDamaged_no_replay hnone)
  case case3 ih => exact ih ((rxNext_replay _ _).trans hnone)
  case case4 ih => exact ih (rxDamaged_no_replay hnone)
  case case5 => exact hnone

theorem rxPop_no_replay (hnone : x.replay = none) : (rxPop x).replay = none := rxSettle_no_replay _ _ ((rxNext_replay _ _).trans hnone)

/-! CODEWORD_DECODE (14 R418, R426). -/

/-- The port as it takes a codeword of at most 15 errors. -/
def codewordCorrected (errors : Nat) (x : Port) : Port :=
  { x with test := x.test.map (testCount errors), corrected := satAdd (2 ^ 32 - 1) x.corrected errors, consecBad := 0, locked := true }

/-- The port as it takes a codeword of more, which it names in two NAKs where it is UP and receives a lane. -/
def codewordLost (errors : Nat) (x : Port) : Port :=
  let nak := Block.nak ((nakName x).1 % 65536) ((nakName x).2 % 1024) x.rxLane
  { x with
    test := x.test.map (testCount errors), uncorr := satInc 65535 x.uncorr, consecBad := x.consecBad + 1, goodTrain := 0
    nakQ := if x.st = 5 ∧ x.rxLane ≠ 0x1F then x.nakQ ++ [nak, nak] else x.nakQ }

theorem portOf_codewordEff_corrected (hfew : errors ≤ 15) : portOf (codewordEff s g p errors blocks) g p =
    rxSettle (blocks.map fun b => .good (readBlock (blockBits b))) (codewordCorrected errors (portOf s g p)) := by
  unfold codewordEff
  dsimp only
  rw [if_pos hfew]
  exact portOf_putPort ..

theorem portOf_codewordEff_lost (hmany : 15 < errors) :
    portOf (codewordEff s g p errors blocks) g p = rxSettle (blocks.map fun _ => .damaged) (codewordLost errors (portOf s g p)) := by
  unfold codewordEff
  dsimp only
  rw [if_neg (Nat.not_le.2 hmany)]
  exact portOf_putPort ..

/-- A test has counted the codeword whatever the port then makes of its blocks. -/
theorem rxSettle_counted {r : LinkTst} (hr : x.test = some r) (hy : y.test = x.test.map (testCount errors)) (is : List RxItem) :
    ∃ v, (rxSettle is y).test = some v ∧ v.fixed = (testCount errors r).fixed ∧ v.unc = (testCount errors r).unc := by
  have hsame := rxSettle_counts (fun v => (v.fixed, v.unc)) (fun _ _ => rfl) is y
  rw [hy, hr] at hsame
  obtain ⟨v, hv, hcounts⟩ := Option.map_eq_some_iff.1 hsame
  exact ⟨v, hv, Prod.mk.inj hcounts⟩

theorem codewordEff_corrects (hx : x = portOf s g p) (hfew : errors ≤ 15) (hu : u = codewordEff s g p errors blocks) :
    (portOf u g p).corrected = min (2 ^ 32 - 1) (x.corrected + errors) ∧ (portOf u g p).consecBad = 0 ∧ (portOf u g p).uncorr = x.uncorr ∧
      (portOf u g p).nakQ = x.nakQ ∧ (portOf u g p).locked = true ∧ ∀ q, x.test = some q → ∃ r, (portOf u g p).test = some r ∧ r.fixed = q.fixed + errors := by
  rw [hu, portOf_codewordEff_corrected hfew, ← hx]
  generalize blocks.map _ = is
  have hkept := (passed_rxSettle is (codewordCorrected errors x)).field (fun x => (x.corrected, x.consecBad, x.uncorr, x.nakQ, x.locked)) fun _ _ _ _ _ _ _ => rfl
  simp only [Prod.mk.injEq] at hkept
  obtain ⟨hcorrected, hconsec, huncorr, hnaks, hlocked⟩ := hkept
  refine ⟨hcorrected, hconsec, huncorr, hnaks, hlocked, fun q hq => ?_⟩
  obtain ⟨r, hr, hfixed, -⟩ := rxSettle_counted (y := codewordCorrected errors x) hq rfl is
  exact ⟨r, hr, hfixed.trans (by rw [testCount, if_pos hfew])⟩

theorem codewordEff_loses (hx : x = portOf s g p) (hmany : 15 < errors) (hu : u = codewordEff s g p errors blocks) :
    (portOf u g p).uncorr = satInc 65535 x.uncorr ∧ (portOf u g p).consecBad = x.consecBad + 1 ∧ (portOf u g p).corrected = x.corrected ∧
      (portOf u g p).goodTrain = 0 ∧ (∀ q, x.test = some q → ∃ r, (portOf u g p).test = some r ∧ r.unc = q.unc + 1) ∧
      (x.st = 5 → x.rxLane ≠ 0x1F → ∀ n, n = Block.nak ((nakName x).1 % 65536) ((nakName x).2 % 1024) x.rxLane → (portOf u g p).nakQ = x.nakQ ++ [n, n]) := by
  rw [hu, portOf_codewordEff_lost hmany, ← hx]
  generalize blocks.map _ = is
  have hkept := (passed_rxSettle is (codewordLost errors x)).field (fun x => (x.uncorr, x.consecBad, x.corrected, x.goodTrain, x.nakQ)) fun _ _ _ _ _ _ _ => rfl
  simp only [Prod.mk.injEq] at hkept
  obtain ⟨huncorr, hconsec, hcorrected, hgood, hnaks⟩ := hkept
  refine ⟨huncorr, hconsec, hcorrected, hgood, fun q hq => ?_, fun hup hlane n hn => ?_⟩
  · obtain ⟨r, hr, -, hunc⟩ := rxSettle_counted (y := codewordLost errors x) hq rfl is
    exact ⟨r, hr, hunc.trans (by rw [testCount, if_neg (Nat.not_le.2 hmany)])⟩
  · rw [hnaks, hn]
    exact if_pos ⟨hup, hlane⟩

theorem codewordDecode_acts (hthere : portThere s g p = true) (hx : x = portOf s g p) (hready : codewordReady s g p blocks = true) :
    answers (.codewordDecode g p errors blocks) s fun u =>
      (errors ≤ 15 → (portOf u g p).corrected = min (2 ^ 32 - 1) (x.corrected + errors) ∧ (portOf u g p).consecBad = 0 ∧ (portOf u g p).uncorr = x.uncorr ∧
        (portOf u g p).nakQ = x.nakQ ∧ (portOf u g p).locked = true ∧ ∀ q, x.test = some q → ∃ r, (portOf u g p).test = some r ∧ r.fixed = q.fixed + errors) ∧
      (15 < errors → (portOf u g p).uncorr = satInc 65535 x.uncorr ∧ (portOf u g p).consecBad = x.consecBad + 1 ∧ (portOf u g p).corrected = x.corrected ∧
        (portOf u g p).goodTrain = 0 ∧ (∀ q, x.test = some q → ∃ r, (portOf u g p).test = some r ∧ r.unc = q.unc + 1) ∧
        (x.st = 5 → x.rxLane ≠ 0x1F → ∀ n, n = Block.nak ((nakName x).1 % 65536) ((nakName x).2 % 1024) x.rxLane → (portOf u g p).nakQ = x.nakQ ++ [n, n])) :=
  answers_dueAt rfl hthere hready ⟨fun hfew => codewordEff_corrects hx hfew rfl, fun hmany => codewordEff_loses hx hmany rfl⟩

/-! BEAT_MARK (14 R420, R429, R431). -/

/-- The state in which a lane that appears on another port has brought its waiting lane-slots along. -/
def laneBrought (s : State) (g p beat lane : Nat) : State :=
  match (match rxPortOf s g p lane with
    | some q => if q = p then none else some q
    | none => none) with
  | some q => putPort g q { portOf s g q with
      rxLane := 0x1F, rxSlots := [], nextLs := none, delivered := [], lostLs := []
      rxVia := if s.links.rxSwaps.any (fun w => w.gate == g && w.lane == lane && decide (w.target ≤ beat)) then some p else none }
    (putPort g p { portOf s g p with
      rxSlots := (portOf s g q).rxSlots, nextLs := (portOf s g q).nextLs, delivered := (portOf s g q).delivered, lostLs := (portOf s g q).lostLs } s)
  | none => s

theorem portOf_beatMarkEff (prevEnd : Nat) : portOf (beatMarkEff s g p beat prevEnd lane) g p =
    rxPop (markedPort s beat prevEnd lane (portOf (laneBrought s g p beat lane) g p)) :=
  (portOf_of_ports rfl g p).trans (portOf_modPort g p (fun x => rxPop (markedPort s beat prevEnd lane x)) (laneBrought s g p beat lane))

theorem field_laneBrought (field : Port → α) (hf : ∀ x a c d e, field { x with rxSlots := a, nextLs := c, delivered := d, lostLs := e } = field x) :
    field (portOf (laneBrought s g p beat lane) g p) = field (portOf s g p) := by
  unfold laneBrought
  split
  next q hmoved =>
    have hne : q ≠ p := fun h => by
      split at hmoved
      · split at hmoved <;> simp_all
      · cases hmoved
    rw [portOf_putPort_ne hne, portOf_putPort, hf]
  next => rfl

theorem beatMark_acts {prevEnd : Nat} (hthere : portThere s g p = true) (hx : x = portOf s g p) (hhead : rxHead x (.beatMark beat prevEnd lane) = true) :
    answers (.beatMark g p beat prevEnd lane) s fun u => (portOf u g p).rxLane = lane ∧ (portOf u g p).markBeat = upBeat s ∧ (portOf u g p).rxPrevEnd = prevEnd ∧
      (portOf u g p).arrives = noteMark x.arrives beat (comes s x) := by
  subst hx
  have harrives := field_laneBrought (s := s) (g := g) (p := p) (beat := beat) (lane := lane) (fun x => noteMark x.arrives beat (comes s x)) fun _ _ _ _ _ => rfl
  have hkept := (passed_rxPop (markedPort s beat prevEnd lane (portOf (laneBrought s g p beat lane) g p))).field
    (fun x => (x.rxLane, x.markBeat, x.rxPrevEnd, x.arrives)) fun _ _ _ _ _ _ _ => rfl
  simp only [Prod.mk.injEq] at hkept
  obtain ⟨hlane, hmark, hend, hnoted⟩ := hkept
  refine answers_dueAt rfl hthere hhead ?_
  rw [portOf_beatMarkEff]
  exact ⟨hlane, hmark, hend, hnoted.trans harrives⟩

/-! Where the bytes of a block go: to a lane-slot, or to the next position of a replay (14 R425, R428, R431). -/

theorem field_putLane (field : Port → α) (hf : ∀ x ds ls, field { x with delivered := ds, lostLs := ls } = field x) (hq : (portOf s g p).rxVia.getD p = q) :
    field (portOf (putLane g p beat sl k bytes s) g q) = field (rxPut (portOf s g q) beat sl k bytes) := by
  unfold putLane
  dsimp only
  rw [hq, field_takeSlots field hf, portOf_modPort]

theorem putReplay_none (hnone : (portOf s g p).replay = none) : putReplay g p bytes s = s := by
  rw [putReplay, hnone]

theorem putReplay_left {r : RxReplay} {qs : List Nat} (hr : (portOf s g p).replay = some r) (hleft : r.left = q :: qs) :
    (portOf (putReplay g p bytes s) g p).replay = some { r with left := qs } := by
  simp only [putReplay, hr, hleft]
  split
  · rw [field_takeSlots Port.replay fun _ _ _ => rfl, field_modPort Port.replay fun x => field_rxPut Port.replay (fun _ _ _ _ => rfl) .., portOf_modPort]
  · rw [portOf_modPort]

/-- A block outside every lane-slot is taken; in a replay it uses up the next position. -/
theorem putReplay_takes (hx : x = portOf s g p) (hu : u = putReplay g p bytes (modPort g p rxPop s)) : (x.replay = none → portOf u g p = rxPop x) ∧
    ∀ r q qs, (rxPop x).replay = some r → r.left = q :: qs → (portOf u g p).replay = some { r with left := qs } := by
  subst hx hu
  refine ⟨fun hnone => ?_, fun r q qs hr hleft => putReplay_left (by rwa [portOf_modPort]) hleft⟩
  rw [putReplay_none (by rw [portOf_modPort, rxPop_no_replay hnone]), portOf_modPort]

/-! SLOT_MARK and DATA_BLOCK (14 R419, R420, R425, R428). -/

theorem slotMarkEff_earlier (hx : x = portOf s g p) (hb : b = beatNear x low) (hearlier : b < x.rxBeat ∨ (b = x.rxBeat ∧ lsPos x.rate sl < x.rxPos)) :
    slotMarkEff s g p low sl bytes = putReplay g p bytes (modPort g p rxPop s) := by
  subst hx hb
  exact if_pos hearlier

/-- The state in which the port has moved to the place that a SLOT_MARK names and taken the block. -/
def slotPlaced (s : State) (g p b sl : Nat) (x : Port) : State := putPort g p (rxPop { x with rxBeat := b, rxPos := lsPos x.rate sl }) s

theorem slotPlaced_via : (portOf (slotPlaced s g p b sl x) g p).rxVia = x.rxVia := by
  rw [slotPlaced, portOf_putPort, (passed_rxPop _).field Port.rxVia fun _ _ _ _ _ _ _ => rfl]

theorem slotMarkEff_later (hx : x = portOf s g p) (hb : b = beatNear x low) (hlater : x.rxBeat < b ∨ (b = x.rxBeat ∧ x.rxPos ≤ lsPos x.rate sl)) :
    slotMarkEff s g p low sl bytes = putLane g p b sl 0 (bytes.take (lsBytes x.rate % 32)) (slotPlaced s g p b sl x) := by
  have hnot : ¬ (b < x.rxBeat ∨ (b = x.rxBeat ∧ lsPos x.rate sl < x.rxPos)) := by omega
  subst hx hb
  exact if_neg hnot

/-- What the bytes of a lane-slot make of the port that now carries the lane. -/
theorem rxFields_putLane (hq : (portOf s g p).rxVia.getD p = q) (hz : z = rxPut (portOf s g q) beat sl k bytes) (hu : u = putLane g p beat sl k bytes s) :
    (portOf u g q).rxq = z.rxq ∧ (portOf u g q).rxSlots = z.rxSlots ∧ (portOf u g q).nextLs = z.nextLs ∧ (portOf u g q).rxPos = z.rxPos := by
  have hfields := field_putLane (beat := beat) (sl := sl) (k := k) (bytes := bytes) (fun x => (x.rxq, x.rxSlots, x.nextLs, x.rxPos)) (fun _ _ _ => rfl) hq
  rw [← hu, ← hz] at hfields
  simpa only [Prod.mk.injEq] using hfields

theorem slotMark_acts (hthere : portThere s g p = true) (hx : x = portOf s g p) (hhead : rxHead x (.slotMark low sl bytes) = true) (hb : b = beatNear x low) :
    answers (.slotMark g p low sl bytes) s fun u =>
      (b < x.rxBeat ∨ (b = x.rxBeat ∧ lsPos x.rate sl < x.rxPos) → (x.replay = none → portOf u g p = rxPop x) ∧
        ∀ r q qs, (rxPop x).replay = some r → r.left = q :: qs → (portOf u g p).replay = some { r with left := qs }) ∧
      (x.rxBeat < b ∨ (b = x.rxBeat ∧ x.rxPos ≤ lsPos x.rate sl) →
        (x.rxVia = none → ∀ z, z = rxPut (rxPop { x with rxBeat := b, rxPos := lsPos x.rate sl }) b sl 0 (bytes.take (lsBytes x.rate % 32)) →
          (portOf u g p).rxq = z.rxq ∧ (portOf u g p).rxSlots = z.rxSlots ∧ (portOf u g p).nextLs = z.nextLs ∧ (portOf u g p).rxPos = z.rxPos) ∧
        (∀ q, x.rxVia = some q → q ≠ p → ∀ z, z = rxPut (portOf s g q) b sl 0 (bytes.take (lsBytes x.rate % 32)) →
          (portOf u g q).rxSlots = z.rxSlots ∧ (portOf u g q).nextLs = z.nextLs)) := by
  refine answers_dueAt rfl hthere (hx ▸ hhead) ⟨fun hearlier => putReplay_takes hx (slotMarkEff_earlier hx hb hearlier), fun hlater => ?_⟩
  have heff := slotMarkEff_later (bytes := bytes) hx hb hlater
  refine ⟨fun hvia z hz => ?_, fun q hvia hq z hz => ?_⟩
  · exact rxFields_putLane (by rw [slotPlaced_via, hvia]; rfl) (by rw [hz, slotPlaced, portOf_putPort]) heff
  · have hport : portOf (slotPlaced s g p b sl x) g q = portOf s g q := by rw [slotPlaced, portOf_putPort_ne (Ne.symm hq)]
    obtain ⟨-, hslots, hnext, -⟩ := rxFields_putLane (q := q) (z := z) (by rw [slotPlaced_via, hvia]; rfl) (by rw [hz, hport]) heff
    exact ⟨hslots, hnext⟩

theorem dataBlockEff_outside (hx : x = portOf s g p) (hst : x.st ≠ 8) (hnone : slotAt x.rate x.rxPos = none) :
    dataBlockEff s g p bytes = putReplay g p bytes (modPort g p rxPop s) := by
  subst hx
  simp only [dataBlockEff, if_neg hst, hnone]

theorem dataBlockEff_inside (hx : x = portOf s g p) (hst : x.st ≠ 8) (hslot : slotAt x.rate x.rxPos = some (sl, k)) :
    dataBlockEff s g p bytes = putLane g p x.rxBeat sl k bytes (modPort g p rxPop s) := by
  subst hx
  simp only [dataBlockEff, if_neg hst, hslot]

theorem dataBlock_acts (hthere : portThere s g p = true) (hx : x = portOf s g p) (hhead : rxHead x (.data bytes) = true) : answers (.dataBlock g p bytes) s fun u =>
    (x.st = 8 → portOf u g p = rxPop (testData bytes x)) ∧
    (x.st ≠ 8 → slotAt x.rate x.rxPos = none → (x.replay = none → portOf u g p = rxPop x) ∧
      ∀ r q qs, (rxPop x).replay = some r → r.left = q :: qs → (portOf u g p).replay = some { r with left := qs }) ∧
    (∀ sl k, x.st ≠ 8 → slotAt x.rate x.rxPos = some (sl, k) → x.rxVia = none → ∀ z, z = rxPut (rxPop x) x.rxBeat sl k bytes →
      (portOf u g p).rxq = z.rxq ∧ (portOf u g p).rxSlots = z.rxSlots ∧ (portOf u g p).nextLs = z.nextLs ∧ (portOf u g p).rxPos = z.rxPos) := by
  refine answers_dueAt rfl hthere (hx ▸ hhead)
    ⟨fun htest => ?_, fun hst hnone => putReplay_takes hx (dataBlockEff_outside hx hst hnone), fun sl k hst hslot hvia z hz => ?_⟩
  · rw [dataBlockEff, if_pos (hx ▸ htest), portOf_modPort, hx]
  · refine rxFields_putLane ?_ (by rw [hz, portOf_modPort, hx]) (dataBlockEff_inside hx hst hslot)
    rw [portOf_modPort, (passed_rxPop _).field Port.rxVia fun _ _ _ _ _ _ _ => rfl, ← hx, hvia]
    rfl

/-! NAK (14 R427): the port that carries the lane knows the codeword by the NAK that named it, and queues its replay once. -/

theorem nakEff_unplaced (hnone : txPortOf (modPort g p rxPop s) g lane = none) : nakEff s g p beat pos lane = modPort g p rxPop s := by
  simp only [nakEff, hnone]

theorem replayInTime_nakSeen (x : Port) (seen : List (Nat × Nat)) (es : List SentBlk) : replayInTime { x with nakSeen := seen } es = replayInTime x es := rfl

section
variable (hq : txPortOf (modPort g p rxPop s) g lane = some q) (hy : y = portOf (modPort g p rxPop s) g q)
include hq hy

theorem portOf_nakEff_known (hseen : (beat, pos) ∈ y.nakSeen) : portOf (nakEff s g p beat pos lane) g q = y := by
  subst hy
  simp only [nakEff, hq, List.contains_iff_mem.2 hseen, if_true]

theorem portOf_nakEff_first {es : List SentBlk} (hnew : (beat, pos) ∉ y.nakSeen)
    (hes : es = y.sent.filter fun e => e.cwBeat % 65536 == beat && e.cwPos == pos && e.again) : ∃ live, portOf (nakEff s g p beat pos lane) g q =
      { y with
        nakSeen := (beat, pos) :: live
        replayQ := if es.isEmpty = false ∧ replayInTime y es = true then y.replayQ ++ [.replayHead beat pos lane :: es.map (·.block)] else y.replayQ } := by
  have hunseen : y.nakSeen.contains (beat, pos) = false := by simpa using hnew
  refine ⟨y.nakSeen.filter fun n => y.sent.any fun e => e.cwBeat % 65536 == n.1 && e.cwPos == n.2, ?_⟩
  simp only [nakEff, hq, ← hy, hunseen, replayInTime_nakSeen, ← hes, Bool.false_eq_true, if_false]
  by_cases htime : es.isEmpty = false ∧ replayInTime y es = true
  · rw [if_pos htime, if_pos htime, portOf_putPort]
  · rw [if_neg htime, if_neg htime, portOf_putPort]

end

theorem nak_acts (hthere : portThere s g p = true) (hhead : rxHead (portOf s g p) (.nak beat pos lane) = true) : answers (.nak g p beat pos lane) s fun u =>
    (txPortOf (modPort g p rxPop s) g lane = none → portOf u g p = rxPop (portOf s g p)) ∧
    ∀ q y, txPortOf (modPort g p rxPop s) g lane = some q → y = portOf (modPort g p rxPop s) g q →
      ∀ es, es = (y.sent.filter fun e => e.cwBeat % 65536 == beat && e.cwPos == pos && e.again) →
      (beat, pos) ∈ (portOf u g q).nakSeen ∧ ((beat, pos) ∈ y.nakSeen → portOf u g q = y) ∧
      ((beat, pos) ∉ y.nakSeen → es ≠ [] → replayInTime y es = true → (portOf u g q).replayQ = y.replayQ ++ [.replayHead beat pos lane :: es.map (·.block)]) ∧
      ((beat, pos) ∉ y.nakSeen → es = [] ∨ replayInTime y es = false → (portOf u g q).replayQ = y.replayQ) := by
  refine answers_dueAt rfl hthere hhead ⟨fun hnone => by rw [nakEff_unplaced hnone, portOf_modPort], fun q y hq hy es hes => ?_⟩
  by_cases hseen : (beat, pos) ∈ y.nakSeen
  · rw [portOf_nakEff_known hq hy hseen]
    exact ⟨hseen, fun _ => rfl, fun hnew => absurd hseen hnew, fun hnew => absurd hseen hnew⟩
  · obtain ⟨live, hport⟩ := portOf_nakEff_first hq hy hseen hes
    rw [hport]
    refine ⟨List.mem_cons_self, fun h => absurd h hseen, fun _ hsome htime => if_pos ⟨by simpa using hsome, htime⟩,
      fun _ hnot => if_neg fun ⟨hsome, htime⟩ => ?_⟩
    rcases hnot with hnone | hlate
    · rw [hnone] at hsome
      cases hsome
    · rw [hlate] at htime
      cases htime

/-! REPLAY_HEAD and LANE_SLOT_DEADLINE (14 R425, R428, R436). -/

theorem replayHeadEff_unplaced {blocks : List (Nat × Block)} (hnone : rxPortOf (modPort g p rxPop s) g p lane = none) :
    replayHeadEff s g p beat pos lane blocks = modPort g p rxPop s := by
  simp only [replayHeadEff, hnone]

theorem replayHead_acts {blocks : List (Nat × Block)} (hthere : portThere s g p = true) (hhead : rxHead (portOf s g p) (.replayHead beat pos lane) = true) :
    answers (.replayHead g p beat pos lane blocks) s fun u =>
      (rxPortOf (modPort g p rxPop s) g p lane = none → portOf u g p = rxPop (portOf s g p)) ∧
      ∀ q, rxPortOf (modPort g p rxPop s) g p lane = some q →
        (portOf u g p).replay = some ⟨q, beatNear (rxPop (portOf s g p)) beat, pos, blocks.map (·.1)⟩ := by
  refine answers_dueAt rfl hthere hhead ⟨fun hnone => by rw [replayHeadEff_unplaced hnone, portOf_modPort], fun q hq => ?_⟩
  simp only [replayHeadEff, hq, portOf_modPort]

/-- Delivery never goes back behind the next lane-slot. -/
theorem deliver_next {m : Nat} (n : Nat) (x : Port) (hnext : x.nextLs = some m) : ∃ k, (deliver n x).nextLs = some k ∧ m ≤ k := by
  induction n generalizing x m with
  | zero => exact ⟨m, hnext, le_rfl⟩
  | succ n ih =>
    simp only [deliver, hnext]
    split
    · exact ⟨m, hnext, le_rfl⟩
    · split
      · refine (ih (m := m + 1) _ ?_).imp fun _ ⟨hk, hle⟩ => ⟨hk, Nat.le_of_succ_le hle⟩
        rfl
      · exact ⟨m, hnext, le_rfl⟩

theorem laneSlotDeadline_acts {slot : Nat} (hthere : portThere s g p = true) (hready : deadlineReady s g p beat slot = true) :
    answers (.laneSlotDeadline g p beat slot) s fun u => (portOf u g p).slotsLost = satInc 255 (portOf s g p).slotsLost ∧
      ∃ m, (portOf u g p).nextLs = some m ∧ 64 * beat + slot < m := by
  refine answers_dueAt rfl hthere hready ⟨?_, ?_⟩
  · rw [deadlineEff]
    rw [field_takeSlots Port.slotsLost fun _ _ _ => rfl, portOf_modPort, field_deliver Port.slotsLost fun _ _ _ _ => rfl]
  · rw [deadlineEff]
    rw [field_takeSlots Port.nextLs fun _ _ _ => rfl, portOf_modPort]
    exact deliver_next _ _ rfl

end

/-- Settles O34: a port sends and records the block of its position, and each block received is taken and acts on the port that carries its lane. -/
theorem linkBlocksFlow : Obligations.LinkBlocksFlow := by
  rintro s g p x hthere rfl
  exact ⟨fun _ hready => blockTransmit_acts hthere rfl hready, fun _ _ hready => codewordDecode_acts hthere rfl hready, fun _ _ _ hhead => beatMark_acts hthere rfl hhead,
    fun _ _ _ hhead _ hb => slotMark_acts hthere rfl hhead hb, fun _ hhead => dataBlock_acts hthere rfl hhead, fun _ _ _ hhead => nak_acts hthere hhead,
    fun _ _ _ _ hhead => replayHead_acts hthere hhead, fun _ _ hready => laneSlotDeadline_acts hthere hready⟩

end Sys2Proof.Machine

/-!
Training port by port, the loss of a port and the end of a gatehouse's training (14 R417, R422 to R424, R429, R430), with all that each leaves.
-/
namespace Sys2Proof.Machine

section
variable {α : Type} {s t u : State} {g p q b c r pg pp rates st etx erx : Nat} {serial : BitVec 64} {preq : Bool} {x y : Port}

/-! SIGNAL_DETECT and ADAPT_DONE (14 R422). -/

theorem signalDetect_acts (hthere : portThere s g p = true) (hst : (portOf s g p).st = 1) (hidled : (portOf s g p).idled = false) :
    answers (.signalDetect g p) s fun u => (portOf u g p).st = 2 ∧ (portOf u g p).rate = 0 ∧ (portOf u g p).rates = 0 ∧ (portOf u g p).since = upBeat s ∧
      (portOf u g p).held = false := by
  refine answers_dueAt rfl hthere (by rw [hst, hidled]; rfl) ?_
  rw [portOf_modPort]
  exact ⟨rfl, rfl, rfl, rfl, rfl⟩

theorem stillTrains_of_adapt (hp : p < 26) (hadapt : (portOf s g p).st = 2) : stillTrains s g = true :=
  List.any_eq_true.2 ⟨p, List.mem_range.2 hp, by simp [hadapt]⟩

theorem adaptDone_succeeds (hthere : portThere s g p = true) (hst : (portOf s g p).st = 2) : answers (.adaptDone g p true) s fun u =>
    (portOf u g p).st = 3 ∧ (portOf u g p).rate = (portOf s g p).rate ∧ (portOf u g p).rates = (portOf s g p).rates ||| 2 ^ (portOf s g p).rate ∧
      (portOf u g p).txPos = 0 ∧ (portOf u g p).txLevel = 0 ∧ (portOf u g p).goodTrain = 0 ∧ (portOf u g p).locked = false := by
  refine answers_dueAt rfl hthere (by rw [hst]; rfl) ?_
  rw [settleTraining_waits (stillTrains_of_lock (portThere_lt hthere) (by rw [portOf_modPort]; rfl)), portOf_modPort]
  exact ⟨rfl, rfl, rfl, rfl, rfl, rfl, rfl⟩

/-- What a failed adaptation makes of the port. -/
def adaptFailed (s : State) (x : Port) : Port :=
  if x.rate < 2 ∧ x.held = false then enter s 2 { x with rate := x.rate + 1 } else enter s 7 { x with rate := 3, measured := false }

theorem exec_adaptDone_false : exec (.adaptDone g p false) s = dueAt (portThere s g p) ((portOf s g p).st == 2) s
    (settleTraining g (modPort g p (adaptFailed s) { s with freeCtr := s.freeCtr + 1 })) := rfl

theorem adaptFailed_lowers (hrate : x.rate < 2) (hheld : x.held = false) : adaptFailed s x = enter s 2 { x with rate := x.rate + 1 } := if_pos ⟨hrate, hheld⟩

theorem adaptFailed_gives_up (h : 2 ≤ x.rate ∨ x.held = true) : adaptFailed s x = enter s 7 { x with rate := 3, measured := false } :=
  if_neg fun ⟨hrate, hheld⟩ => h.elim (Nat.not_le.2 hrate) (Bool.eq_false_iff.1 hheld)

theorem adaptDone_fails (hthere : portThere s g p = true) (hst : (portOf s g p).st = 2) : answers (.adaptDone g p false) s fun u =>
    ((portOf s g p).rate < 2 → (portOf s g p).held = false → (portOf u g p).st = 2 ∧ (portOf u g p).rate = (portOf s g p).rate + 1) ∧
      (2 ≤ (portOf s g p).rate ∨ (portOf s g p).held = true → (portOf u g p).st = 7) := by
  refine answers_dueAt exec_adaptDone_false hthere (by rw [hst]; rfl) ⟨fun hrate hheld => ?_, fun hlast => ?_⟩
  · have hport : portOf (modPort g p (adaptFailed s) { s with freeCtr := s.freeCtr + 1 }) g p = enter s 2 { portOf s g p with rate := (portOf s g p).rate + 1 } := by
      rw [portOf_modPort]
      exact adaptFailed_lowers hrate hheld
    rw [settleTraining_waits (stillTrains_of_adapt (portThere_lt hthere) (by rw [hport]; rfl)), hport]
    exact ⟨rfl, rfl⟩
  · have hport : portOf (modPort g p (adaptFailed s) { s with freeCtr := s.freeCtr + 1 }) g p = enter s 7 { portOf s g p with rate := 3, measured := false } := by
      rw [portOf_modPort]
      exact adaptFailed_gives_up hlast
    rw [portOf_settleTraining_unmeasured (by rw [hport]; rfl), hport]
    rfl

/-! TRAIN (14 R423): what a block makes of its port in LOCK, in MEASURE, and elsewhere. -/

/-- The peer that a TRAIN block names is noted. -/
def peerNoted (serial : BitVec 64) (pg pp rates : Nat) (x : Port) : Port := { x with peerSerial := serial, peerGate := pg, peerPort := pp, peerRates := rates }

/-- The port in LOCK that the block leaves: it sends as the peer asks, and has one more good block. -/
def lockNoted (serial : BitVec 64) (pg pp rates : Nat) (preq : Bool) (x : Port) : Port :=
  { peerNoted serial pg pp rates x with preTx := preq, goodTrain := x.goodTrain + 1 }

/-- What a port in LOCK becomes once it has counted a good block. -/
def lockCounted (s : State) (rates : Nat) (y : Port) : Port :=
  if y.goodTrain < 64 then y
  else match bestRate y.rates rates with
    | some r => if r = y.rate ∨ y.held = true then enter s 4 { y with goodTrain := 0, echoes := 0, echoMax := 0 } else enter s 2 { y with rate := r, goodTrain := 0 }
    | none => y

/-- What a port in MEASURE becomes with an echo; until the peer has an echo to return, none counts. -/
def echoTaken (s : State) (etx erx : Nat) (y : Port) : Port :=
  if erx = 0 ∧ y.echoes = 0 then { y with peerEcho := etx }
  else { y with peerEcho := etx, echoes := y.echoes + 1, echoMax := max y.echoMax (((portTicks s y % 2 ^ 32 + 2 ^ 32 - erx) % 2 ^ 32 + 1) / 2) }

/-- Counting a good block changes neither the peer nor what it asks for. -/
theorem lockCounted_peer (rates : Nat) (y : Port) : (lockCounted s rates y).peerSerial = y.peerSerial ∧ (lockCounted s rates y).peerGate = y.peerGate ∧
    (lockCounted s rates y).preTx = y.preTx := by
  fun_cases lockCounted s rates y <;> exact ⟨rfl, rfl, rfl⟩

theorem lockCounted_few (hfew : x.goodTrain + 1 < 64) :
    lockCounted s rates (lockNoted serial pg pp rates preq x) = lockNoted serial pg pp rates preq x := if_pos hfew

theorem lockCounted_none (hnone : bestRate x.rates rates = none) :
    lockCounted s rates (lockNoted serial pg pp rates preq x) = lockNoted serial pg pp rates preq x := by
  simp only [lockCounted, lockNoted, peerNoted, hnone, ite_self]

theorem lockCounted_measures (hmany : ¬ x.goodTrain + 1 < 64) (hbest : bestRate x.rates rates = some r) (hkeep : r = x.rate ∨ x.held = true) :
    lockCounted s rates (lockNoted serial pg pp rates preq x) =
      enter s 4 { lockNoted serial pg pp rates preq x with goodTrain := 0, echoes := 0, echoMax := 0 } := by
  simp only [lockCounted, lockNoted, peerNoted, hmany, hbest, hkeep, if_false, if_true]

theorem lockCounted_retrains (hmany : ¬ x.goodTrain + 1 < 64) (hbest : bestRate x.rates rates = some r) (hkeep : ¬ (r = x.rate ∨ x.held = true)) :
    lockCounted s rates (lockNoted serial pg pp rates preq x) = enter s 2 { lockNoted serial pg pp rates preq x with rate := r, goodTrain := 0 } := by
  simp only [lockCounted, lockNoted, peerNoted, hmany, hbest, hkeep, if_false]

theorem trainEff_lock (hlock : (rxPop (portOf s g p)).st = 3) : portOf (trainEff s g p serial pg pp rates preq etx erx) g p =
    lockCounted s rates (lockNoted serial pg pp rates preq (rxPop (portOf s g p))) := by
  unfold trainEff
  dsimp only
  generalize rxPop (portOf s g p) = x at hlock ⊢
  rw [if_pos hlock]
  by_cases hfew : x.goodTrain + 1 < 64
  · rw [if_pos hfew, portOf_putPort, lockCounted_few hfew]
    rfl
  · rw [if_neg hfew]
    rcases hbest : bestRate x.rates rates with _ | r
    · rw [lockCounted_none hbest]
      exact portOf_putPort ..
    · dsimp only
      by_cases hkeep : r = x.rate ∨ x.held = true
      · rw [if_pos hkeep, portOf_putPort, lockCounted_measures hfew hbest hkeep]
        rfl
      · rw [if_neg hkeep, portOf_putPort, lockCounted_retrains hfew hbest hkeep]
        rfl

theorem trainEff_measure (hst : (rxPop (portOf s g p)).st = 4) (hopen : (rxPop (portOf s g p)).measured = false)
    (hfew : (echoTaken s etx erx (peerNoted serial pg pp rates (rxPop (portOf s g p)))).echoes < 64) : trainEff s g p serial pg pp rates preq etx erx =
      putPort g p (echoTaken s etx erx (peerNoted serial pg pp rates (rxPop (portOf s g p)))) s := by
  have hlock : (rxPop (portOf s g p)).st ≠ 3 := by omega
  unfold trainEff
  dsimp only
  rw [if_neg hlock, if_pos ⟨hst, hopen⟩]
  exact if_pos hfew

theorem trainEff_last (hst : (rxPop (portOf s g p)).st = 4) (hopen : (rxPop (portOf s g p)).measured = false)
    (htraining : (tabGet none s.links.training g).isSome = true) (hy : y = echoTaken s etx erx (peerNoted serial pg pp rates (rxPop (portOf s g p))))
    (hlast : 64 ≤ y.echoes) : trainEff s g p serial pg pp rates preq etx erx =
      settleTraining g (putPort g p { y with l1 := min 1023 y.echoMax, measured := true } s) := by
  have hlock : (rxPop (portOf s g p)).st ≠ 3 := by omega
  subst hy
  unfold trainEff
  dsimp only
  rw [if_neg hlock, if_pos ⟨hst, hopen⟩]
  exact (if_neg (Nat.not_lt.2 hlast)).trans (if_pos htraining)

theorem trainEff_measured (hst : (rxPop (portOf s g p)).st = 4) (hmeasured : (rxPop (portOf s g p)).measured = true) :
    trainEff s g p serial pg pp rates preq etx erx = putPort g p { peerNoted serial pg pp rates (rxPop (portOf s g p)) with peerEcho := etx } s := by
  simp only [trainEff, hst, hmeasured, peerNoted, Nat.reduceEqDiff, Bool.true_eq_false, and_false, if_false, if_true]

theorem trainEff_elsewhere (hlock : (rxPop (portOf s g p)).st ≠ 3) (hmeasure : (rxPop (portOf s g p)).st ≠ 4) :
    trainEff s g p serial pg pp rates preq etx erx = putPort g p (peerNoted serial pg pp rates (rxPop (portOf s g p))) s := by
  simp only [trainEff, hlock, hmeasure, peerNoted, false_and, if_false]

/-- What passing over received blocks leaves of a port in training. -/
theorem rxPop_training (x : Port) : (rxPop x).st = x.st ∧ (rxPop x).rate = x.rate ∧ (rxPop x).rates = x.rates ∧ (rxPop x).held = x.held ∧
    (rxPop x).goodTrain = x.goodTrain ∧ (rxPop x).echoes = x.echoes ∧ (rxPop x).echoMax = x.echoMax ∧ (rxPop x).measured = x.measured := by
  have hkept := (passed_rxPop x).field (fun x => (x.st, x.rate, x.rates, x.held, x.goodTrain, x.echoes, x.echoMax, x.measured)) fun _ _ _ _ _ _ _ => rfl
  simpa only [Prod.mk.injEq] using hkept

theorem train_in_lock (hst : (portOf s g p).st = 3) (hx : x = portOf s g p) (hu : u = trainEff s g p serial pg pp rates preq etx erx) :
    (portOf u g p).peerSerial = serial ∧ (portOf u g p).peerGate = pg ∧ (portOf u g p).preTx = preq ∧
      (x.goodTrain < 63 → (portOf u g p).st = 3 ∧ (portOf u g p).goodTrain = x.goodTrain + 1) ∧
      (63 ≤ x.goodTrain → bestRate x.rates rates = none → (portOf u g p).st = 3) ∧
      (63 ≤ x.goodTrain → ∀ r, bestRate x.rates rates = some r →
        (r = x.rate ∨ x.held = true → (portOf u g p).st = 4 ∧ (portOf u g p).rate = x.rate ∧ (portOf u g p).echoes = 0) ∧
        (r ≠ x.rate → x.held = false → (portOf u g p).st = 2 ∧ (portOf u g p).rate = r)) := by
  obtain ⟨hsame, hrate, hrates, hheld, hgood, -⟩ := rxPop_training x
  have hlock : (rxPop x).st = 3 := by rw [hsame, hx, hst]
  have hport : portOf u g p = lockCounted s rates (lockNoted serial pg pp rates preq (rxPop x)) := by
    rw [hu, trainEff_lock (hx ▸ hlock), hx]
  obtain ⟨hserial, hgate, hpre⟩ := lockCounted_peer (s := s) rates (lockNoted serial pg pp rates preq (rxPop x))
  rw [hport, ← hrate, ← hrates, ← hheld, ← hgood]
  refine ⟨hserial, hgate, hpre, fun hfew => ?_, fun _ hnone => ?_, fun hmany r hbest => ⟨fun hkeep => ?_, fun hother hfree => ?_⟩⟩
  · rw [lockCounted_few (Nat.succ_lt_succ hfew)]
    exact ⟨hlock, rfl⟩
  · rw [lockCounted_none hnone]
    exact hlock
  · rw [lockCounted_measures (Nat.not_lt.2 (Nat.succ_le_succ hmany)) hbest hkeep]
    exact ⟨rfl, rfl, rfl⟩
  · rw [lockCounted_retrains (Nat.not_lt.2 (Nat.succ_le_succ hmany)) hbest (not_or.2 ⟨hother, Bool.eq_false_iff.1 hfree⟩)]
    exact ⟨rfl, rfl⟩

theorem echoTaken_notes (etx erx : Nat) (y : Port) : (echoTaken s etx erx y).st = y.st ∧ (echoTaken s etx erx y).peerEcho = etx ∧
    (echoTaken s etx erx y).peerSerial = y.peerSerial ∧ (echoTaken s etx erx y).echoes = if erx = 0 ∧ y.echoes = 0 then y.echoes else y.echoes + 1 := by
  unfold echoTaken
  split <;> exact ⟨rfl, rfl, rfl, rfl⟩

theorem train_in_measure (hst : (portOf s g p).st = 4) (hopen : (portOf s g p).measured = false) (hfew : (portOf s g p).echoes < 63)
    (hu : u = trainEff s g p serial pg pp rates preq etx erx) : (portOf u g p).st = 4 ∧ (portOf u g p).peerEcho = etx ∧ (portOf u g p).peerSerial = serial ∧
      (portOf u g p).echoes = if erx = 0 ∧ (portOf s g p).echoes = 0 then (portOf s g p).echoes else (portOf s g p).echoes + 1 := by
  obtain ⟨hst', -, -, -, -, hechoes, -, hmeasured⟩ := rxPop_training (portOf s g p)
  obtain ⟨hsame, hecho, hserial, hcount⟩ := echoTaken_notes (s := s) etx erx (peerNoted serial pg pp rates (rxPop (portOf s g p)))
  change _ = if erx = 0 ∧ (rxPop (portOf s g p)).echoes = 0 then (rxPop (portOf s g p)).echoes else (rxPop (portOf s g p)).echoes + 1 at hcount
  rw [hechoes] at hcount
  have hunder : (echoTaken s etx erx (peerNoted serial pg pp rates (rxPop (portOf s g p)))).echoes < 64 := by
    rw [hcount]
    split <;> omega
  rw [hu, trainEff_measure (hst'.trans hst) (hmeasured.trans hopen) hunder, portOf_putPort]
  exact ⟨hsame.trans (hst'.trans hst), hecho, hserial, hcount⟩

/-- With one more port in LOCK, the port that is measured waits (log 112). -/
theorem train_last_echo (hst : (portOf s g p).st = 4) (hopen : (portOf s g p).measured = false) (hlast : (portOf s g p).echoes = 63)
    (htraining : (tabGet none s.links.training g).isSome = true) (hother : ∃ q, q < 26 ∧ q ≠ p ∧ (portOf s g q).st = 3)
    (hu : u = trainEff s g p serial pg pp rates preq etx erx) : (portOf u g p).st = 4 ∧ (portOf u g p).measured = true ∧
      (portOf u g p).l1 = min 1023 (max (portOf s g p).echoMax (((portTicks s (rxPop (portOf s g p)) % 2 ^ 32 + 2 ^ 32 - erx) % 2 ^ 32 + 1) / 2)) := by
  obtain ⟨hst', -, -, -, -, hechoes, hmax, hmeasured⟩ := rxPop_training (portOf s g p)
  obtain ⟨q, hq, hne, hlock⟩ := hother
  have hmany : ¬ (erx = 0 ∧ (peerNoted serial pg pp rates (rxPop (portOf s g p))).echoes = 0) := fun ⟨_, hzero⟩ => by
    have : (rxPop (portOf s g p)).echoes = 0 := hzero
    omega
  generalize hy : echoTaken s etx erx (peerNoted serial pg pp rates (rxPop (portOf s g p))) = y
  have hwaits : stillTrains (putPort g p { y with l1 := min 1023 y.echoMax, measured := true } s) g = true :=
    stillTrains_of_lock hq (by rw [portOf_putPort_ne (Ne.symm hne), hlock])
  have hcount : y.echoes = 64 := by
    rw [← hy, echoTaken, if_neg hmany]
    exact congrArg (· + 1) (hechoes.trans hlast)
  rw [hu, trainEff_last (hst'.trans hst) (hmeasured.trans hopen) htraining hy.symm (by omega), settleTraining_waits hwaits, portOf_putPort, ← hy, echoTaken, if_neg hmany,
    ← hmax]
  exact ⟨hst'.trans hst, rfl, rfl⟩

theorem train_acts (hthere : portThere s g p = true) (hx : x = portOf s g p) (hhead : rxHead x (.train serial pg pp rates preq st etx erx) = true) :
    answers (.train g p serial pg pp rates preq st etx erx) s fun u =>
      (x.st = 3 → (portOf u g p).peerSerial = serial ∧ (portOf u g p).peerGate = pg ∧ (portOf u g p).preTx = preq ∧
        (x.goodTrain < 63 → (portOf u g p).st = 3 ∧ (portOf u g p).goodTrain = x.goodTrain + 1) ∧
        (63 ≤ x.goodTrain → bestRate x.rates rates = none → (portOf u g p).st = 3) ∧
        (63 ≤ x.goodTrain → ∀ r, bestRate x.rates rates = some r →
          (r = x.rate ∨ x.held = true → (portOf u g p).st = 4 ∧ (portOf u g p).rate = x.rate ∧ (portOf u g p).echoes = 0) ∧
          (r ≠ x.rate → x.held = false → (portOf u g p).st = 2 ∧ (portOf u g p).rate = r))) ∧
      (x.st = 4 → x.measured = false → x.echoes < 63 → (portOf u g p).st = 4 ∧ (portOf u g p).peerEcho = etx ∧ (portOf u g p).peerSerial = serial ∧
        (portOf u g p).echoes = if erx = 0 ∧ x.echoes = 0 then x.echoes else x.echoes + 1) ∧
      (x.st = 4 → x.measured = false → x.echoes = 63 → (tabGet none s.links.training g).isSome = true → (∃ q, q < 26 ∧ q ≠ p ∧ (portOf s g q).st = 3) →
        (portOf u g p).st = 4 ∧ (portOf u g p).measured = true ∧
          (portOf u g p).l1 = min 1023 (max x.echoMax (((portTicks s (rxPop x) % 2 ^ 32 + 2 ^ 32 - erx) % 2 ^ 32 + 1) / 2))) ∧
      (x.st = 4 → x.measured = true → (portOf u g p).st = 4 ∧ (portOf u g p).peerEcho = etx) ∧
      (x.st ≠ 3 → x.st ≠ 4 → (portOf u g p).st = x.st ∧ (portOf u g p).peerSerial = serial) := by
  subst hx
  obtain ⟨hst, -, -, -, -, -, -, hmeasured⟩ := rxPop_training (portOf s g p)
  refine answers_dueAt rfl hthere hhead ⟨fun hlock => train_in_lock hlock rfl rfl, fun h4 hopen hfew => train_in_measure h4 hopen hfew rfl,
    fun h4 hopen hlast htraining hother => train_last_echo h4 hopen hlast htraining hother rfl, fun h4 hdone => ?_, fun h3 h4 => ?_⟩
  · rw [trainEff_measured (hst.trans h4) (hmeasured.trans hdone), portOf_putPort]
    exact ⟨hst.trans h4, rfl⟩
  · rw [trainEff_elsewhere (by rwa [hst]) (by rwa [hst]), portOf_putPort]
    exact ⟨hst, rfl⟩

/-! PORT_LOSS (14 R429). -/

/-- What becomes of the lane of a port that is lost leaves that port as it has failed. -/
theorem field_portLossEff (field : Port → α) (hf : ∀ x l, field { x with latExcess := l } = field x) :
    field (portOf (portLossEff s g p) g p) = field (portOf (portFailed g p s) g p) := by
  by_cases hst : (portOf s g p).st = 5
  · rcases hq : standbyFor s g p with _ | q
    · rw [portLossEff_exhausted hst hq,
        portOf_of_links ((markExhausted_only (P := (· ≠ .links)) (by simp) (by simp) (by simp) (by simp) _ only_refl).links (by simp))]
    · rw [portLossEff_replaced hst hq,
        portOf_of_links ((settleHealth_only (P := (· ≠ .links)) (by simp) (by simp) (by simp) (markSpare_only (by simp) (by simp) (by simp) only_refl)).links (by simp)),
        field_moveLatency field hf, portOf_modPort_ne (standbyFor_ne hq)]
  · rw [portLossEff_standby hst]

theorem portLossEff_gives (hst : (portOf s g p).st = 5) (hq : standbyFor s g p = some q) (hu : u = portLossEff s g p) : (portOf u g q).st = 5 ∧
    (portOf u g q).logical = (portOf s g p).logical ∧ (portOf u g q).bundle = (portOf s g p).bundle ∧ (portOf u g q).waitMark = true ∧ u.health.spareUsed = true := by
  have htaken : ((portOf u g q).st, (portOf u g q).logical, (portOf u g q).bundle, (portOf u g q).waitMark) = (5, (portOf s g p).logical, (portOf s g p).bundle, true) := by
    rw [hu, portLossEff_replaced hst hq,
      portOf_of_links ((settleHealth_only (P := (· ≠ .links)) (by simp) (by simp) (by simp) (markSpare_only (by simp) (by simp) (by simp) only_refl)).links (by simp)),
      field_moveLatency (fun x => (x.st, x.logical, x.bundle, x.waitMark)) (fun _ _ => rfl), portOf_modPort]
    rfl
  have hspare : u.health.spareUsed = true := by rw [hu, portLossEff_replaced hst hq, settleHealth_health, markSpare_health]
  simp only [Prod.mk.injEq] at htaken
  obtain ⟨hup, hlane, hbundle, hwait⟩ := htaken
  exact ⟨hup, hlane, hbundle, hwait, hspare⟩

theorem markExhausted_healthSt (s : State) : (markExhausted true s).steward.healthSt = 2 := setHealth_healthSt ..

theorem portLoss_acts (hthere : portThere s g p = true) (hst : (portOf s g p).st = 5 ∨ (portOf s g p).st = 6) : answers (.portLoss g p) s fun u =>
    (portOf u g p).st = 7 ∧ (portOf u g p).lost = true ∧ (portOf u g p).logical = 0x1F ∧
      ((portOf s g p).st = 5 → ∀ q, standbyFor s g p = some q → (portOf u g q).st = 5 ∧ (portOf u g q).logical = (portOf s g p).logical ∧
        (portOf u g q).bundle = (portOf s g p).bundle ∧ (portOf u g q).waitMark = true ∧ u.health.spareUsed = true) ∧
      ((portOf s g p).st = 5 → standbyFor s g p = none → u.health.exhausted = true ∧ u.steward.healthSt = 2) := by
  obtain ⟨hfailed, hlost⟩ := portLossEff_fails (s := s) (g := g) (p := p)
  refine answers_dueAt rfl hthere (by simpa using hst) ⟨hfailed, hlost, ?_, fun hup q hq => portLossEff_gives hup hq rfl, fun hup hnone => ?_⟩
  · rw [field_portLossEff Port.logical fun _ _ => rfl, portOf_portFailed]
    rfl
  · rw [portLossEff_exhausted hup hnone, markExhausted_health]
    exact ⟨rfl, markExhausted_healthSt _⟩

/-! TRAINING_END (14 R424): a bundle is up exactly where it has UP ports. -/

theorem bundlePorts_congr (h : ∀ p, ((portOf u g p).st, (portOf u g p).bundle) = ((portOf s g p).st, (portOf s g p).bundle)) (b : Nat) :
    bundlePorts u g b = bundlePorts s g b := by
  simp only [Prod.mk.injEq] at h
  simp only [bundlePorts, fun p => (h p).1, fun p => (h p).2]

theorem bundlePorts_refreshBundle (b : Nat) (up : Bool) (s : State) (c : Nat) : bundlePorts (refreshBundle g b up s) g c = bundlePorts s g c := by
  refine bundlePorts_congr (fun p => ?_) c
  unfold refreshBundle
  split
  · rfl
  · rw [field_markLatency (fun x => (x.st, x.bundle)) (fun _ _ => rfl)]
    rfl

theorem markLatency_fabric (g b lat : Nat) (s : State) : (markLatency g b lat s).fabric = s.fabric :=
  (markLatency_only (P := (· ≠ .fabric)) (by simp) _ _ _ only_refl).fabric (by simp)

theorem refreshBundle_other (hc : b ≠ c) (up : Bool) (s : State) :
    tabGet bundleZero (refreshBundle g b up s).fabric.bundles c = tabGet bundleZero s.fabric.bundles c := by
  unfold refreshBundle
  split
  · rw [tabGet_put, if_neg hc]
  · rw [markLatency_fabric, tabGet_put, if_neg hc]

theorem refreshBundle_up (b : Nat) (s : State) : (tabGet bundleZero (refreshBundle g b true s).fabric.bundles b).up = true ↔ bundlePorts s g b ≠ [] := by
  unfold refreshBundle
  split
  next hnone =>
    rw [tabGet_put, if_pos rfl]
    exact ⟨fun h => Bool.noConfusion h, fun h => absurd hnone h⟩
  next hsome =>
    rw [markLatency_fabric, tabGet_put, if_pos rfl, hsome]
    exact ⟨fun _ => List.cons_ne_nil _ _, fun _ => rfl⟩

theorem refreshAll_other : ∀ (bs : List Nat) (s : State), c ∉ bs →
    tabGet bundleZero (refreshAll g true bs s).fabric.bundles c = tabGet bundleZero s.fabric.bundles c
  | [], _, _ => rfl
  | b :: bs, s, hc => by
    obtain ⟨hb, hbs⟩ := not_or.1 fun h => hc (List.mem_cons.2 h)
    rw [refreshAll, refreshAll_other bs _ hbs, refreshBundle_other (Ne.symm hb)]

theorem refreshAll_up (bs : List Nat) (s : State) (hc : c ∈ bs) :
    (tabGet bundleZero (refreshAll g true bs s).fabric.bundles c).up = true ↔ bundlePorts s g c ≠ [] := by
  induction bs generalizing s with
  | nil => exact absurd hc List.not_mem_nil
  | cons b bs ih =>
    rw [refreshAll]
    by_cases hbs : c ∈ bs
    · rw [ih _ hbs, bundlePorts_refreshBundle]
    · obtain rfl : c = b := (List.mem_cons.1 hc).resolve_right hbs
      rw [refreshAll_other bs _ hbs, refreshBundle_up]

theorem rollCalled_bundles (u : State) : (rollCalled g u).fabric.bundles = u.fabric.bundles := by
  unfold rollCalled
  split <;> rfl

theorem joinBegun_bundles (s r : State) : (joinBegun s r).fabric.bundles = r.fabric.bundles := by
  unfold joinBegun
  dsimp only
  split
  · split
    · rw [setPhase_fabric]
    · rfl
  · rfl

theorem trainingEndEff_bundles (ht : t = if (portNums.any fun q => (portOf s g q).st == 4 && (portOf s g q).measured) then placeAll g s else s) (hlow : 8 * g ≤ b)
    (hhigh : b < 8 * g + 8) : (tabGet bundleZero (trainingEndEff s g).fabric.bundles b).up = true ↔ bundlePorts t g b ≠ [] := by
  have hmem : b ∈ (List.range 8).map fun k => 8 * g + k := List.mem_map.2 ⟨b - 8 * g, List.mem_range.2 (by omega), by omega⟩
  rw [trainingEndEff_eq, joinBegun_bundles, rollCalled_bundles, bundlesRaised, refreshAll_up _ _ hmem, ht]
  rfl

theorem trainingEnd_acts (hthere : portThere s g p = true) (hready : trainingEndReady s g = true)
    (ht : t = if (portNums.any fun q => (portOf s g q).st == 4 && (portOf s g q).measured) then placeAll g s else s) : answers (.trainingEnd g) s fun u =>
      tabGet none u.links.training g = none ∧
        ∀ b, 8 * g ≤ b → b < 8 * g + 8 → ((tabGet bundleZero u.fabric.bundles b).up = true ↔ bundlePorts t g b ≠ []) :=
  answers_dueAt rfl (Bool.and_eq_true_iff.1 hthere).1 hready
    ⟨by rw [trainingEndEff_eq, joinBegun_links, rollCalled_links, bundlesRaised_training], fun _ hlow hhigh => trainingEndEff_bundles ht hlow hhigh⟩

end

/-- Settles O35: each event takes its port to the next state of its training, or out of service, and the end of training brings up the bundles that have ports. -/
theorem linkPortsTrain : Obligations.LinkPortsTrain := by
  rintro s g p x hthere rfl
  exact ⟨signalDetect_acts hthere, fun hst => ⟨adaptDone_succeeds hthere hst, adaptDone_fails hthere hst⟩, fun _ _ _ _ _ _ _ _ hhead => train_acts hthere rfl hhead,
    lockTimeout_fails hthere, failedRetry_detects hthere, portLoss_acts hthere, fun hready _ ht => trainingEnd_acts hthere hready ht, eyeMarginReport_notes hthere⟩

end Sys2Proof.Machine

/-!
Lanes move, and port tests start, end or find no peer (14 R431 to R433), with all that each leaves.
-/
namespace Sys2Proof.Machine

section
variable {s : State} {g p m beats lane target : Nat} {w : MsgWord} {start : Bool} {y : Port} {q : LinkTst}

/-! SWAP and SWAP_TARGET (14 R431). -/

theorem swapEff_unplaced (hnone : rxPortOf (modPort g p rxPop s) g p lane = none) : swapEff s g p target lane = modPort g p rxPop s := by
  simp only [swapEff, hnone]

theorem swap_acts (hthere : portThere s g p = true) (hhead : rxHead (portOf s g p) (.swap target lane) = true) : answers (.swap g p target lane) s fun u =>
    (rxPortOf (modPort g p rxPop s) g p lane = none → portOf u g p = rxPop (portOf s g p) ∧ u.links.rxSwaps = s.links.rxSwaps) ∧
    ∀ k, rxPortOf (modPort g p rxPop s) g p lane = some k → ∃ v ∈ u.links.rxSwaps, v.gate = g ∧ v.lane = lane ∧ v.target = target := by
  rcases hplace : rxPortOf (modPort g p rxPop s) g p lane with _ | k
  · refine answers_dueAt rfl hthere hhead ⟨fun _ => ?_, nofun⟩
    rw [swapEff_unplaced hplace, portOf_modPort]
    exact ⟨rfl, rfl⟩
  · obtain ⟨u, hu, hnoted⟩ := swap_noted hthere hhead hplace
    exact ⟨u, hu, nofun, fun _ _ => hnoted⟩

theorem modPorts_swaps (f : Nat → Port → Port) : ∀ (ps : List Nat) (s : State), (modPorts g f ps s).links.swaps = s.links.swaps
  | [], _ => rfl
  | _ :: ps, _ => (modPorts_swaps f ps _).trans rfl

theorem moveLatency_swaps (b : Nat) (s : State) : (moveLatency g b s).links.swaps = s.links.swaps := (modPorts_swaps _ _ _).trans rfl

theorem swapTargetEff_gives {v : LaneSwap} (hdue : swapDue s g lane = some v) (hnew : v.new ≠ v.old) :
    (portOf (swapTargetEff s g lane) g v.new).bundle = (portOf s g v.old).bundle ∧ (portOf (swapTargetEff s g lane) g v.new).waitMark = true ∧
      (portOf (swapTargetEff s g lane) g v.new).sent = (portOf s g v.old).sent := by
  simp only [swapTargetEff, hdue]
  rw [field_moveLatency Port.bundle fun _ _ => rfl, field_moveLatency Port.waitMark fun _ _ => rfl, field_moveLatency Port.sent fun _ _ => rfl,
    portOf_modPort_ne (Ne.symm hnew), portOf_modPort]
  exact ⟨rfl, rfl, rfl⟩

theorem swapTargetEff_swaps {v : LaneSwap} (hdue : swapDue s g lane = some v) : (swapTargetEff s g lane).links.swaps = s.links.swaps.filter (· ≠ v) := by
  simp only [swapTargetEff, hdue]
  exact moveLatency_swaps ..

theorem swapTargetEff_releases {v : LaneSwap} (hdue : swapDue s g lane = some v) :
    (portOf (swapTargetEff s g lane) g v.old).st = 6 ∧ (portOf (swapTargetEff s g lane) g v.old).logical = 0x1F ∧ v ∉ (swapTargetEff s g lane).links.swaps := by
  refine ⟨?_, ?_, by simp [swapTargetEff_swaps hdue]⟩
  · simp only [swapTargetEff, hdue]
    rw [field_moveLatency Port.st fun _ _ => rfl, portOf_modPort]
    rfl
  · simp only [swapTargetEff, hdue]
    rw [field_moveLatency Port.logical fun _ _ => rfl, portOf_modPort]
    rfl

theorem swapTarget_acts {v : LaneSwap} (hthere : portThere s g p = true) (hdue : swapDue s g lane = some v) (hnew : v.new ≠ v.old) :
    answers (.swapTarget g lane) s fun u => (portOf u g v.new).st = 5 ∧ (portOf u g v.new).logical = lane ∧
      (portOf u g v.new).bundle = (portOf s g v.old).bundle ∧ (portOf u g v.new).waitMark = true ∧ (portOf u g v.new).sent = (portOf s g v.old).sent ∧
      (portOf u g v.old).st = 6 ∧ (portOf u g v.old).logical = 0x1F ∧ v ∉ u.links.swaps := by
  have hgate : decide (g < s.params.gatehouses) = true := (Bool.and_eq_true_iff.1 hthere).1
  obtain ⟨hup, hlane⟩ := swapTargetEff_moves hdue hnew
  obtain ⟨hbundle, hwait, hsent⟩ := swapTargetEff_gives hdue hnew
  exact answers_dueAt rfl hgate (by rw [hdue]; rfl) ⟨hup, hlane, hbundle, hwait, hsent, swapTargetEff_releases hdue⟩

/-! LOOP (14 R432): what it makes of the port, by the test that the port has and by what the block says (log 29). -/

section
variable (hy : y = rxPop (portOf s g p))
include hy

theorem loopEff_accepted (htest : y.test = some q) (hwaits : q.running = false) :
    loopEff s g p true beats = putPort g p (enterTest s q y) { modPort g p rxPop s with freeCtr := s.freeCtr + 1 } := by
  simp only [loopEff, portOf_modPort, ← hy, htest, hwaits, Bool.false_eq_true, if_false, if_true]
  rfl

theorem loopEff_refused (htest : y.test = some q) (hwaits : q.running = false) (hbox : q.mbox = some m) :
    loopEff s g p false beats = respond m 0x0A02 [] (putPort g p { y with test := none } (modPort g p rxPop s)) := by
  simp only [loopEff, portOf_modPort, ← hy, htest, hwaits, hbox, Bool.false_eq_true, if_false]

theorem loopEff_runs (htest : y.test = some q) (hruns : q.running = true) : loopEff s g p true beats = modPort g p rxPop s := by
  simp only [loopEff, portOf_modPort, ← hy, htest, hruns, if_true]

theorem loopEff_ends (htest : y.test = some q) (hruns : q.running = true) (hfar : q.mbox = none) :
    loopEff s g p false beats = modPort g p (fun x => enter s 1 { x with test := none }) (modPort g p rxPop s) := by
  simp only [loopEff, portOf_modPort, ← hy, htest, hruns, hfar, Bool.false_eq_true, if_false, if_true, Option.isNone_none]

theorem loopEff_accepts (hnone : y.test = none) (htestable : testable y = true) : loopEff s g p true beats = putPort g p
    { enterTest s ⟨2, if y.rate < 3 then y.rate else 0, y.preTx, beats, none, upBeat s, true, 0, 0, 0, 0, 0, 0⟩ y with loopQ := [.loop true beats] }
    (modPort g p rxPop s) := by
  simp only [loopEff, portOf_modPort, ← hy, hnone, htestable, and_self, if_true]

theorem loopEff_refuses (hnone : y.test = none) (hbusy : testable y = false) :
    loopEff s g p true beats = putPort g p { y with loopQ := y.loopQ ++ [.loop false beats] } (modPort g p rxPop s) := by
  simp only [loopEff, portOf_modPort, ← hy, hnone, hbusy, Bool.false_eq_true, and_false, if_false, if_true]

theorem loopEff_idle (hnone : y.test = none) : loopEff s g p false beats = modPort g p rxPop s := by
  simp only [loopEff, portOf_modPort, ← hy, hnone, Bool.false_eq_true, false_and, if_false]

end

theorem loop_acts (hthere : portThere s g p = true) (hhead : rxHead (portOf s g p) (.loop start beats) = true) (hy : y = rxPop (portOf s g p)) :
    answers (.loop g p start beats) s fun u =>
      (∀ q, y.test = some q → q.running = false → start = true → (portOf u g p).st = 8 ∧ (portOf u g p).rate = q.rate ∧ (portOf u g p).preTx = q.precode ∧
        ∃ r, (portOf u g p).test = some r ∧ r.running = true ∧ r.since = upBeat s ∧ r.mbox = q.mbox) ∧
      (∀ q m w, y.test = some q → q.running = false → start = false → q.mbox = some m → (mbox s m).executing = some w →
        (portOf u g p).test = none ∧ answered s u m w 0x0A02 []) ∧
      (∀ q, y.test = some q → q.running = true → start = true → portOf u g p = y) ∧
      (∀ q, y.test = some q → q.running = true → start = false → q.mbox = none → (portOf u g p).st = 1 ∧ (portOf u g p).test = none) ∧
      (y.test = none → start = true → testable y = true → (portOf u g p).st = 8 ∧ (portOf u g p).loopQ = [.loop true beats]) ∧
      (y.test = none → start = true → testable y = false →
        (portOf u g p).st = (portOf s g p).st ∧ (portOf u g p).loopQ = (portOf s g p).loopQ ++ [.loop false beats]) ∧
      (y.test = none → start = false → portOf u g p = y) := by
  refine answers_dueAt rfl hthere hhead ⟨?_, ?_, ?_, ?_, ?_, ?_, ?_⟩
  · rintro q htest hwaits rfl
    rw [loopEff_accepted hy htest hwaits, portOf_putPort]
    exact ⟨rfl, rfl, rfl, _, rfl, rfl, rfl, rfl⟩
  · rintro q m w htest hwaits rfl hbox hex
    rw [loopEff_refused hy htest hwaits hbox, portOf_respond, portOf_putPort]
    exact ⟨rfl, (⟨hex, rfl, rfl⟩ : Executes s s m w).answered_of_mboxes rfl⟩
  · rintro q htest hruns rfl
    rw [loopEff_runs hy htest hruns, portOf_modPort, hy]
  · rintro q htest hruns rfl hfar
    rw [loopEff_ends hy htest hruns hfar, portOf_modPort]
    exact ⟨rfl, rfl⟩
  · rintro hnone rfl htestable
    rw [loopEff_accepts hy hnone htestable, portOf_putPort]
    exact ⟨rfl, rfl⟩
  · rintro hnone rfl hbusy
    have hkept : (y.st, y.loopQ) = ((portOf s g p).st, (portOf s g p).loopQ) := by
      rw [hy, (passed_rxPop _).field (fun x => (x.st, x.loopQ)) fun _ _ _ _ _ _ _ => rfl]
    obtain ⟨hst, hqueue⟩ := Prod.mk.inj hkept
    rw [loopEff_refuses hy hnone hbusy, portOf_putPort, ← hst, ← hqueue]
    exact ⟨rfl, rfl⟩
  · rintro hnone rfl
    rw [loopEff_idle hy hnone, portOf_modPort, hy]

/-! LINK_TEST_END and LINK_NO_PEER (14 R432, R433). -/

/-- A test that a command waits for ends with the counts of its checker. -/
theorem testEndReady_counts {r : LinkTestResult} (hready : testEndReady s g p r = true) (hdone : testDone s g p = some q) (hbox : q.mbox = some m) :
    r = testCounts q r.lockLost := by
  rw [testEndReady, hdone] at hready
  simpa [hbox] using hready

theorem linkTestEndEff_answers {r : LinkTestResult} (hready : testEndReady s g p r = true) (hdone : testDone s g p = some q) (hbox : q.mbox = some m) :
    linkTestEndEff s g p r = respond m 0 [(0x08, 8, q.blocks % 2 ^ 64), (0x10, 8, q.bad % 2 ^ 64), (0x18, 8, q.fixed % 2 ^ 64), (0x20, 4, q.unc % 2 ^ 32),
      (0x24, 1, if r.lockLost then 1 else 0)] (modPort g p (fun x => enter s 1 { x with test := none, rate := 3 }) s) := by
  have hcounts := testEndReady_counts hready hdone hbox
  simp only [linkTestEndEff, hdone, hbox]
  rw [hcounts]
  rfl

theorem linkTestEnd_acts {r : LinkTestResult} (hthere : portThere s g p = true) (hready : testEndReady s g p r = true) (hdone : testDone s g p = some q)
    (hbox : q.mbox = some m) (hex : (mbox s m).executing = some w) : answers (.linkTestEnd g p r) s fun u => (portOf u g p).st = 1 ∧ (portOf u g p).test = none ∧
      answered s u m w 0 [(0x08, 8, q.blocks % 2 ^ 64), (0x10, 8, q.bad % 2 ^ 64), (0x18, 8, q.fixed % 2 ^ 64), (0x20, 4, q.unc % 2 ^ 32),
        (0x24, 1, if r.lockLost then 1 else 0)] := by
  refine answers_dueAt rfl hthere hready ?_
  rw [linkTestEndEff_answers hready hdone hbox, portOf_respond, portOf_modPort]
  exact ⟨rfl, rfl, (⟨hex, rfl, rfl⟩ : Executes s s m w).answered_of_mboxes rfl⟩

theorem linkNoPeer_acts (hthere : portThere s g p = true) (htest : (portOf s g p).test = some q) (hwaits : q.running = false) (hlong : q.since + 64 ≤ upBeat s)
    (hbox : q.mbox = some m) (hex : (mbox s m).executing = some w) : answers (.linkNoPeer g p) s fun u =>
      (portOf u g p).test = none ∧ answered s u m w 0x0A03 [] := by
  refine answers_dueAt rfl hthere (by simp [noPeer, htest, hwaits, hlong]) ?_
  simp only [linkNoPeerEff, htest, hbox]
  rw [portOf_respond, portOf_modPort]
  exact ⟨rfl, (⟨hex, rfl, rfl⟩ : Executes s s m w).answered_of_mboxes rfl⟩

end

/-- Settles O36: a move is noted, then made at its target; a LOOP acts by the test that its port has; and a test that a command waits for ends in the command's answer. -/
theorem linkMovesAndTests : Obligations.LinkMovesAndTests := by
  rintro s g p _ hthere rfl
  refine ⟨fun _ _ hhead => swap_acts hthere hhead, fun _ _ hdue hnew => swapTarget_acts hthere hdue hnew, fun _ _ hhead _ hy => loop_acts hthere hhead hy, ?_, ?_⟩
  · exact fun _ _ _ _ hready hdone hbox hex => linkTestEnd_acts hthere hready hdone hbox hex
  · exact fun _ _ _ htest hwaits hlong hbox hex => linkNoPeer_acts hthere htest hwaits hlong hbox hex

end Sys2Proof.Machine

/-!
One step (95): the rule of the host port's tags (19 R534) through every step, and what a step does with a command in front and with none (logs 7 and 55).
-/
namespace Sys2Proof.Machine

section
variable {c : Instr} {s t u : State}

theorem due_tags {g : Bool} (h : due g s t = .next u) (hs : tagsHeld s) (ht : tagsHeld t) : tagsHeld u := by
  cases g
  · cases h; exact hs
  · cases h; exact ht

theorem dueAt_tags {b g : Bool} (h : dueAt b g s t = .next u) (hs : tagsHeld s) (ht : tagsHeld t) : tagsHeld u := due_tags h hs ht

theorem next_tags (h : (Host.Outcome.next t : Host.Outcome State Fault Refusal) = .next u) (ht : tagsHeld t) : tagsHeld u := by
  cases h; exact ht

/-- A command that may change no request by the table of frames keeps the rule. -/
theorem tags_of_mayChange (h : exec c s = .next u) (hc : (mayChange c).elem .requests = false) (hs : tagsHeld s) : tagsHeld u := by
  obtain ⟨hout, hlate, -⟩ := (exec_framed h).same .requests (by simpa using hc)
  exact tags_of_eq hout hlate hs

/-- A message of the fabric is taken, which is no request, and acted on. -/
theorem frameRow_tags {b kind : Nat} {f : Frame} {act : State → State} (h : frameRow b f kind s act = .next u) (hs : tagsHeld s)
    (hact : ∀ p, tagsHeld p → tagsHeld (act p)) : tagsHeld u := due_tags h hs (takeMsg_tags b f act hact hs)

theorem takeTime_tags (b : Nat) (f : Option Frame) (act : State → State) (hact : ∀ p, tagsHeld p → tagsHeld (act p)) (hs : tagsHeld s) :
    tagsHeld (takeTime b f act s) := by
  cases f with
  | none => exact hs
  | some f => exact hact _ (tags_of_frame (takeFrame_only (by simp) b f only_refl) hs)

theorem raiseInt_tags (k : Nat) (hs : tagsHeld s) : tagsHeld (raiseInt k s) := tags_of_frame (raiseInt_only (by simp) (by simp) k only_refl) hs

/-- Every command keeps the rule of 19 R534: one that may change the requests, by what its effect makes of them. -/
theorem exec_tags (h : exec c s = .next u) (hs : tagsHeld s) : tagsHeld u := by
  cases c with
  | narrowAccessService => exact dueAt_tags h hs (narrowServiceEff_tags _ hs)
  | beatBoundary =>
    exact due_tags h hs (boundaryEff_tags (tags_of_frame (by apply_rules [advance_only, closePace_only, only_refl] <;> simp) hs))
  | cellarPortCycle => exact dueAt_tags h hs (portCycleEff_tags _ hs)
  | remoteAccessService => exact dueAt_tags h hs (remoteEff_tags _ hs)
  | granuleClearDone => exact due_tags h hs (retryWaiting_tags _ hs)
  | taskLaunchBoundary => exact due_tags h hs (launchBoundaryEff_tags _ hs)
  | endReport => exact dueAt_tags h hs (endReportEff_tags _ _ hs)
  | endFrame => exact frameRow_tags h hs fun _ => endFrameEff_tags _
  | done => exact frameRow_tags h hs fun _ => doneEff_tags _
  | completionRecordAck => exact due_tags h hs (recordAckEff_tags _ hs)
  | taskHalted => exact due_tags h hs (taskHaltedEff_tags _ hs)
  | nop => exact dueAt_tags h hs (respond_tags _ _ _ hs)
  | identify => exact dueAt_tags h hs (respond_tags _ _ _ hs)
  | mbxBind => exact dueAt_tags h hs (mbxBindEff_tags _ _ hs)
  | healthQuery => exact dueAt_tags h hs (healthQueryEff_tags _ _ hs)
  | mbxRequestFetch => exact dueAt_tags h hs (fetchEff_tags _ hs)
  | requestWord => exact dueAt_tags h hs (requestEff_tags _ _ hs)
  | ctxCreate => exact dueAt_tags h hs (ctxCreateEff_tags _ _ hs)
  | ctxDestroy => exact dueAt_tags h hs (ctxDestroyEff_tags _ _ hs)
  | ctxDestroyComplete => exact due_tags h hs (destroyDoneEff_tags _ hs)
  | ctxQuery => exact dueAt_tags h hs (ctxQueryEff_tags _ _ hs)
  | queueCreate => exact dueAt_tags h hs (queueCreateEff_tags _ _ hs)
  | queueDestroy => exact dueAt_tags h hs (queueDestroyEff_tags _ _ hs)
  | fenceAlloc => exact dueAt_tags h hs (fenceAllocEff_tags _ _ hs)
  | fenceFree => exact dueAt_tags h hs (fenceFreeEff_tags _ _ hs)
  | fenceSignal => exact dueAt_tags h hs (fenceSignalEff_tags _ _ hs)
  | taskLaunch => exact dueAt_tags h hs (taskLaunchEff_tags _ _ hs)
  | taskAbort => exact dueAt_tags h hs (taskAbortEff_tags _ _ hs)
  | imageLoad => exact dueAt_tags h hs (imageLoadEff_tags _ _ _ hs)
  | imageUnload => exact dueAt_tags h hs (imageUnloadEff_tags _ _ hs)
  | qstateReset => exact dueAt_tags h hs (qstateResetEff_tags _ _ hs)
  | granuleAlloc => exact dueAt_tags h hs (tryAlloc_tags _ _ hs)
  | granuleFree => exact dueAt_tags h hs (granuleFreeEff_tags _ _ hs)
  | windowOpen => exact dueAt_tags h hs (windowOpenEff_tags _ _ hs)
  | windowClose => exact dueAt_tags h hs (windowCloseEff_tags _ _ hs)
  | storeCopy => exact dueAt_tags h hs (storeCopyEff_tags _ _ _ hs)
  | paceSet => exact dueAt_tags h hs (stage_tags _ _ _ hs)
  | powerSet => exact dueAt_tags h hs (stage_tags _ _ _ hs)
  | timeSet => exact dueAt_tags h hs (stage_tags _ _ _ hs)
  | sbPinSet => exact dueAt_tags h hs (sbPinSetEff_tags _ _ hs)
  | fabricSet => exact dueAt_tags h hs (fabricSetEff_tags _ _ _ hs)
  | healthSet => exact dueAt_tags h hs (healthSetEff_tags _ _ hs)
  | snapshotFreeze => exact dueAt_tags h hs (freezeEff_tags _ _ hs)
  | snapshotRelease => exact dueAt_tags h hs (releaseEff_tags _ hs)
  | linkTest => exact dueAt_tags h hs (linkTestEff_tags _ _ hs)
  | loop => exact dueAt_tags h hs (loopEff_tags _ _ _ _ hs)
  | fwUpdate => exact dueAt_tags h hs (fwUpdateEff_tags _ _ _ hs)
  | resetRequest => exact dueAt_tags h hs (resetRequestEff_tags _ _ hs)
  | resetTakeEffect => exact due_tags h hs (takeEffectEff_tags hs)
  | hardPartResetRelease => exact due_tags h hs (startHard_tags _ _ _ hs)
  | supplyWarn => exact next_tags h (supplyWarnEff_tags hs)
  | railGoodFall => exact dueAt_tags h hs (afterDrop_tags _ hs)
  | railDropTimeout => exact due_tags h hs (dropNext_tags hs)
  | railFailure => exact dueAt_tags h hs (collapse_tags _ _ hs)
  | shellReset => exact next_tags h (tags_ite (collapse_tags _ _ hs) hs)
  | wake => exact due_tags h hs (wakeEff_tags hs)
  | vauxGoodFall => exact due_tags h hs (vauxFallEff_tags hs)
  | stagedCommit => exact due_tags h hs (commitDue_tags _ hs)
  | deferredNotApplied => exact dueAt_tags h hs (notAppliedEff_tags _ hs)
  | mbxEnable => exact dueAt_tags h hs (ctrlWrite_tags _ _ hs)
  | mbxDisable => exact dueAt_tags h hs (ctrlWrite_tags _ _ hs)
  | postedObserved => exact due_tags h hs (postedEff_tags _ _ _ hs)
  | descriptorFetch => exact due_tags h hs (descFetchEff_tags _ hs)
  | chainFetchTimeout => exact due_tags h hs (chainTimeoutEff_tags _ hs)
  | descriptorArrival => exact due_tags h hs (descArrivalEff_tags _ _ hs)
  | fenceAction => exact due_tags h hs (fenceActionEff_tags _ hs)
  | hatchDisable => exact due_tags h hs (globalWrite_tags _ hs)
  | hatchBurstLanded => exact dueAt_tags h hs (landedEff_tags _ _ hs)
  | keepUnitAck => exact due_tags h hs (keepAckEff_tags _ _ hs)
  | snapAck => exact due_tags h hs (answerFreeze_tags _ (modShell_tags _ (tags_ite (raiseInt_tags _ hs) hs)))
  | snapAckTimeout => exact due_tags h hs (answerFreeze_tags _ (raiseInt_tags _ (modShell_tags _ hs)))
  | freezeEnd => exact due_tags h hs (freezeEndEff_tags hs)
  | rollCallClose => exact due_tags h hs (rollCloseEff_tags hs)
  | ready => exact frameRow_tags h hs fun _ => readyEff_tags _
  | refuse => exact frameRow_tags h hs fun _ => refuseEff_tags _
  | withdraw => exact frameRow_tags h hs fun _ => withdrawEff_tags _
  | linkTestEnd => exact dueAt_tags h hs (linkTestEndEff_tags _ _ _ hs)
  | linkNoPeer => exact dueAt_tags h hs (linkNoPeerEff_tags _ _ hs)
  | stamp => exact due_tags h hs (takeTime_tags _ _ _ (fun _ => stampEff_tags _ _ _ _) hs)
  | referencePulse => exact due_tags h hs (pulseEff_tags _ hs)
  | holdoverBoundExceeded => exact due_tags h hs (splitEff_tags hs)
  | stewardTakeover => exact due_tags h hs (takeoverEff_tags hs)
  | powerDownStart => exact due_tags h hs (powerDownEff_tags hs)
  | pointOfNoReturn => exact due_tags h hs (noReturnEff_tags hs)
  | hostResponse => exact next_tags h (hostRspEff_tags _ _ _ hs)
  | requestTimeout => exact due_tags h hs (timeoutEff_tags _ hs)
  | snoopInvalidate => exact next_tags h (snoopInvEff_tags _ _ hs)
  | hostRegisterWrite => exact due_tags h hs (registerWriteEff_tags _ _ _ _ hs)
  | tagRelease => exact due_tags h hs (pumpReq_tags (modHost_sub_tags _ (List.Sublist.refl _) List.filter_sublist hs))
  | _ => exact tags_of_mayChange h rfl hs

/-- On an empty queue the work of ops goes on, which makes no request; a command in front is executed. -/
theorem step_tags (hs : tagsHeld s) (h : step s = .next t) : tagsHeld t := by
  unfold step at h
  split at h
  case h_1 => exact next_tags h (tags_of_frame (by apply advanceRooms_only (h := only_refl) <;> simp) hs)
  case h_2 c rest _ => exact exec_tags (s := { s with pending := rest }) h hs

end

/-- Settles O50: what a command may change of the requests keeps the rule of the tags, effect by effect. -/
theorem stepKeepsTheTags : Obligations.StepKeepsTheTags := fun _ _ => step_tags

/-- Settles O1: a queue with a command in front is no empty queue. -/
theorem stepRunsFrontCommand : Obligations.StepRunsFrontCommand := fun _ _ _ => rfl

/-! An empty queue (logs 7 and 55). -/

section
variable {s : State} {room : Nat}

/-- A room whose arrival at a `sync` is noted, or that holds at none, has nothing to note. -/
theorem noteArrival_noted (h : ∀ op g k b, (roomOf s room).hold ≠ .sync op g k b none) : noteArrival room s = s := by
  unfold noteArrival
  extract_lets x
  split
  · next hhold => exact absurd hhold (h _ _ _ _)
  · rfl

/-- Time passes over a room with no op in flight and no arrival to note. -/
theorem advanceRoom_idle (hidle : (roomOf s room).inflight = []) (hnoted : ∀ op g k b, (roomOf s room).hold ≠ .sync op g k b none) : advanceRoom room s = s := by
  rw [advanceRoom, hidle, List.map_nil, List.foldl_nil, settle, hidle]
  exact noteArrival_noted hnoted

end

/-- Settles O2: with nothing in front time passes, and it passes over every room that has neither an op in flight nor an arrival to note. -/
theorem stepIdlesOnEmptyQueue : Obligations.StepIdlesOnEmptyQueue := by
  intro s hempty
  have hstep : step s = .next (advanceRooms s) := by rw [step, hempty]
  refine ⟨hstep, fun hrooms => hstep.trans (congrArg Host.Outcome.next ?_)⟩
  refine List.foldlRecOn (motive := (· = s)) _ _ rfl fun t ht room hroom => ?_
  obtain ⟨e, he, rfl⟩ := List.mem_map.1 hroom
  obtain ⟨hidle, hnoted⟩ := hrooms e he
  rw [ht]
  exact advanceRoom_idle hidle hnoted

end Sys2Proof.Machine


/-!
ENGINE_PHASE 0x7 (18 R513): what each command makes of a sequencer that has stopped.
-/
namespace Sys2Proof.Machine

/-- The engine has stopped in ENGINE_PHASE 0x7, and RESET_CAUSE.FAIL holds `n` (18 R513, R525). -/
def stoppedWith (n : Nat) (s : State) : Prop := stopped s ∧ s.seq.fail = n

/-- The parts that do not say whether the engine has stopped. -/
abbrev apartFromStop (p : Part) : Prop := p ∉ ([.phase, .serving, .seq] : List Part)

section
variable {n : Nat} {c : Instr} {s t u : State}

theorem stoppedWith_of_frame (h : changesOnly apartFromStop s t) (hs : stoppedWith n s) : stoppedWith n t := by
  have hphase : t.steward.phase = s.steward.phase := h.same .phase (by decide)
  have hserving : t.steward.standby = s.steward.standby ∧ t.steward.up = s.steward.up := h.same .serving (by decide)
  have hseq : t.seq = s.seq := h.same .seq (by decide)
  simpa only [stoppedWith, stopped, hphase, hserving.2, hseq] using hs

/-- An update of the sequencer that leaves its step, its pending reset and power-down, and FAIL. -/
theorem modSeq_stopped (f : Seq → Seq) (hs : stoppedWith n s)
    (hf : ∀ q, q.pd = none → (f q).step = q.step ∧ (f q).resetReq = q.resetReq ∧ (f q).pd = none ∧ (f q).fail = q.fail) : stoppedWith n (modSeq f s) := by
  obtain ⟨⟨hstep, hphase, hup, hreset, hpd⟩, hfail⟩ := hs
  obtain ⟨hstep', hreset', hpd', hfail'⟩ := hf s.seq hpd
  exact ⟨⟨hstep'.trans hstep, hphase, hup, hreset'.trans hreset, hpd'⟩, hfail'.trans hfail⟩

theorem stoppedWith_ite {p : Prop} [Decidable p] (ht : stoppedWith n t) (hu : stoppedWith n u) : stoppedWith n (if p then t else u) := by
  split <;> assumption

/-- No reset waits for its answer (18 R522). -/
theorem resetAnswer_stopped (hs : stoppedWith n s) : stoppedWith n (resetAnswer s) := by
  obtain ⟨⟨-, -, -, hreset, -⟩, -⟩ := id hs
  rwa [resetAnswer, hreset]

/-! The rows that may answer a reset's requester (18 R522). -/

theorem signalled_only {s₀ : State} (t : Task) (h : changesOnly apartFromStop s₀ s) :
    changesOnly apartFromStop s₀ (match t.state, t.sigFence with
      | .completed, some f => setFence f true s
      | _, _ => s) := by
  split
  · apply setFence_only (h := h) <;> decide
  · exact h

theorem recordAckEff_stopped (k : Nat) (hs : stoppedWith n s) : stoppedWith n (recordAckEff s k) := by
  unfold recordAckEff
  split
  · exact hs
  next t _ =>
    extract_lets a b c
    have ha : changesOnly apartFromStop s a := by apply_rules [putStatus_only, modQueue_only, modTask_only, only_refl] <;> decide
    have hb : changesOnly apartFromStop s b := signalled_only t ha
    have hc : changesOnly apartFromStop s c := only_ite (addEvt_only (by decide) _ hb) hb
    have hd : changesOnly apartFromStop s (if t.status = 0 then c else trace 1 t.status c) := only_ite hc (trace_only (by decide) _ _ hc)
    refine resetAnswer_stopped (stoppedWith_of_frame ?_ hs)
    apply_rules [promote_only, endQueue_only, tryRecord_only] <;> decide

theorem taskHaltedEff_stopped (k : Nat) (hs : stoppedWith n s) : stoppedWith n (taskHaltedEff s k) := by
  unfold taskHaltedEff
  split
  · exact hs
  · extract_lets b
    have hb : changesOnly apartFromStop s b := by apply_rules [sayHalted_only, releaseTask_only, scramble_only, only_refl] <;> decide
    refine stoppedWith_ite (stoppedWith_of_frame ?_ hs) (resetAnswer_stopped (stoppedWith_of_frame ?_ hs))
    · apply sendBack_only (h := hb) <;> decide
    · apply_rules [promote_only, finishTask_only, answerAborts_only, modTask_only] <;> decide

theorem gotRecord_stopped (k status addr : Nat) (hs : stoppedWith n s) : stoppedWith n (gotRecord k status addr s) := by
  unfold gotRecord
  split
  · exact hs
  next t _ =>
    extract_lets a b
    have ha : changesOnly apartFromStop s a := by apply_rules [ctxFault_only, modTask_only, only_refl] <;> decide
    have hb : changesOnly apartFromStop s b := signalled_only t ha
    refine stoppedWith_ite (stoppedWith_of_frame (modTask_only (by decide) _ _ only_refl) hs) (resetAnswer_stopped (stoppedWith_of_frame ?_ hs))
    apply_rules [endQueue_only, tryRecord_only] <;> decide

theorem fillAnswered_only (addr status : Nat) (own : Bool) (data : List Byte) : changesOnly apartFromStop s
    (if status = 0 then createDone addr (porchWant addr (porchInstall addr own data s)) else if own then createDone addr (lineError addr s) else doorError addr s) := by
  refine only_ite ?_ (only_ite ?_ ?_)
  · apply_rules [createDone_only, porchWant_only, porchInstall_only, only_refl] <;> decide
  · apply_rules [createDone_only, lineError_only, only_refl] <;> decide
  · apply doorError_only (h := only_refl) <;> decide

theorem gotAnswer_stopped (r : HostReq) (status : Nat) (data : List Byte) (hs : stoppedWith n s) : stoppedWith n (gotAnswer r status data s) := by
  unfold gotAnswer
  cases r.purpose with
  | recordWrite k => exact gotRecord_stopped k status r.addr hs
  | reqFetch m => exact stoppedWith_of_frame (gotReq_only (by decide) m status data only_refl) hs
  | rspWrite m => exact stoppedWith_of_frame (gotRspAck_only (by decide) m status only_refl) hs
  | copyWrite m k => exact stoppedWith_of_frame (gotCopy_only (by decide) (by decide) (by decide) m k status only_refl) hs
  | descFetch q => exact stoppedWith_of_frame (by apply gotDesc_only (h := only_refl) <;> decide) hs
  | fill own => exact stoppedWith_of_frame (fillAnswered_only r.addr status own data) hs
  | writeBack =>
    have herror : changesOnly apartFromStop s (lineError r.addr s) := by apply lineError_only (h := only_refl) <;> decide
    exact stoppedWith_of_frame (porchWant_only (by decide) (by decide) _ (only_ite only_refl herror)) hs
  | dead => exact hs

theorem freeReq_stopped (tag : Nat) (hs : stoppedWith n s) : stoppedWith n (freeReq tag s) :=
  stoppedWith_of_frame (freeReq_only (by decide) (by decide) tag only_refl) hs

theorem hostRspEff_stopped (tag status : Nat) (data : List Byte) (hs : stoppedWith n s) : stoppedWith n (hostRspEff s tag status data) := by
  unfold hostRspEff
  refine stoppedWith_ite hs ?_
  split
  · exact gotAnswer_stopped _ status data (freeReq_stopped tag hs)
  · exact stoppedWith_ite hs hs

theorem timeoutEff_stopped (tag : Nat) (hs : stoppedWith n s) : stoppedWith n (timeoutEff s tag) := by
  unfold timeoutEff
  split
  · exact hs
  · exact gotAnswer_stopped _ 3 [] (freeReq_stopped tag hs)

/-! The rows that note a fact of the sequencer: samples of SUPPLY_WARN, a thermal trip, writes of the keep, writes of RESET_CAUSE. -/

theorem boundaryEff_stopped (hs : stoppedWith n s) : stoppedWith n (boundaryEff s) := by
  unfold boundaryEff
  generalize hin : readyBoundary _ = a
  have ha : changesOnly apartFromStop s a := by
    subst hin
    apply_rules [readyBoundary_only, answerHalts_only, lateChecks_only, hatchBeat_only, annexTakes_only, traceOut_only, timeOfDay_only, beatOut_only, finishMsgs_only,
      powerBoundary_only, only_refl] <;> decide
  have hsampled : stoppedWith n (sampleWarn a) := modSeq_stopped _ (stoppedWith_of_frame ha hs) fun q hq => ⟨rfl, rfl, by rw [hq]; rfl, rfl⟩
  refine stoppedWith_of_frame ?_ hsampled
  apply_rules [noteStaged_only, recordBoundary_only, powerDownPorch_only, only_refl] <;> decide

theorem thermalTrip_stopped (hs : stoppedWith n s) : stoppedWith n (thermalTrip s) :=
  stoppedWith_ite hs (stoppedWith_of_frame (haltAll_only (by decide) (by decide) _ _ _ only_refl) hs)

theorem controlEff_stopped (tele : Telemetry) (hs : stoppedWith n s) : stoppedWith n (controlEff s tele) := by
  unfold controlEff
  extract_lets vs vl a b c d
  have hb : changesOnly apartFromStop s b := modHalls_only (by decide) _ _ (hallEvents_only (by decide) (by decide) (by decide) tele _ only_refl)
  have hc : changesOnly apartFromStop s c := railSums_only (by decide) tele (modPower_only (by decide) _ hb)
  have hmoved : changesOnly apartFromStop s d := by apply_rules [moveVcore_only, capMove_only] <;> decide
  have hd : stoppedWith n d := stoppedWith_of_frame hmoved hs
  exact stoppedWith_ite (thermalTrip_stopped hd) hd

theorem forgetWrite_stopped (item : Nat) (hs : stoppedWith n s) : stoppedWith n (forgetWrite item s) := by
  unfold forgetWrite
  extract_lets t
  have ht : stoppedWith n t := modSeq_stopped _ hs fun q hq => ⟨rfl, rfl, by rw [hq]; rfl, rfl⟩
  split
  · exact ht
  · exact ht
  · exact ht

/-- No power-down is under way, whose flush could be complete (18 R516). -/
theorem flushDone_stopped (hs : stoppedWith n s) : stoppedWith n (flushDone s) := by
  obtain ⟨⟨-, -, -, -, hpd⟩, -⟩ := id hs
  rwa [flushDone, hpd]

theorem keepFailed_stopped (w : KeepWrite) (ws : List KeepWrite) (hs : stoppedWith n s) : stoppedWith n (keepFailed w ws s) := by
  unfold keepFailed
  extract_lets slot t
  have ht : stoppedWith n t := forgetWrite_stopped _ hs
  split
  · exact stoppedWith_of_frame (respond_only (by decide) (by decide) (by decide) _ _ _ only_refl) ht
  · exact ht

theorem keepAckEff_stopped (err : Bool) (data : List Byte) (hs : stoppedWith n s) : stoppedWith n (keepAckEff s err data) := by
  unfold keepAckEff
  split
  · refine flushDone_stopped (stoppedWith_ite (keepFailed_stopped _ _ hs) (stoppedWith_of_frame ?_ hs))
    apply keepWrote_only (h := only_refl) <;> decide
  · exact stoppedWith_of_frame (keepRead_only (by decide) err data only_refl) hs

/-- RESET_CAUSE takes only the writes that clear ABANDONED and CANCELLED (18 R525). -/
theorem engineWord_stopped (off : Nat) (v : BitVec 32) (hs : stoppedWith n s) : stoppedWith n (engineWord off v s) := by
  unfold engineWord
  split
  case h_8 => exact stoppedWith_of_frame (intEnableWrite_only (by decide) (by decide) v only_refl) hs
  case h_9 => exact stoppedWith_of_frame (hpCfgWrite_only (by decide) v only_refl) hs
  all_goals exact hs

theorem regWord_stopped (off : Nat) (v : BitVec 32) (hs : stoppedWith n s) : stoppedWith n (regWord off v s) := by
  unfold regWord
  refine stoppedWith_ite hs (stoppedWith_ite ?_ (stoppedWith_ite (engineWord_stopped off v hs) ?_))
  · exact stoppedWith_of_frame (mboxWord_only (by decide) (by decide) _ _ v only_refl) hs
  refine stoppedWith_ite ?_ (stoppedWith_ite ?_ (stoppedWith_ite hs (stoppedWith_ite ?_ ?_)))
  · exact stoppedWith_of_frame (by apply globalWrite_only (h := only_refl) <;> decide) hs
  · exact stoppedWith_of_frame (by apply hatchWord_only (h := only_refl) <;> decide) hs
  · exact stoppedWith_of_frame (hallWord_only (by decide) _ _ v only_refl) hs
  · exact stoppedWith_of_frame (gateWord_only (by decide) _ _ v only_refl) hs

theorem registerWriteEff_stopped (tag off width : Nat) (v : BitVec 64) (hs : stoppedWith n s) : stoppedWith n (registerWriteEff s tag off width v) := by
  unfold registerWriteEff
  extract_lets lo hi word t u
  have hword (o : Nat) (x : BitVec 32) {p : State} (hp : stoppedWith n p) : stoppedWith n (word o x p) := stoppedWith_ite (regWord_stopped o x hp) hp
  have ht : stoppedWith n t := hword off lo hs
  exact stoppedWith_of_frame (regReply_only (by decide) _ _ _ only_refl) (stoppedWith_ite (hword (off + 4) hi ht) ht)

/-- Only the end of training of an engine that trains moves its phase on (18 R510). -/
theorem trainingEndEff_stopped (g : Nat) (hs : stoppedWith n s) : stoppedWith n (trainingEndEff s g) := by
  unfold trainingEndEff
  extract_lets t ls u r fb v
  have ht : stoppedWith n t := stoppedWith_ite (stoppedWith_of_frame (placeAll_only (by decide) (by decide) g only_refl) hs) hs
  clear_value t
  have hu : stoppedWith n u := stoppedWith_of_frame (refreshAll_only (by decide) (by decide) g true _ only_refl) ht
  clear_value u
  have hr : stoppedWith n r := stoppedWith_ite (stoppedWith_of_frame (startRoll_only (by decide) only_refl) hu) hu
  clear_value r
  have hv : stoppedWith n v := hr
  have hphase : v.steward.phase ≠ 3 := by rw [hv.1.2.1]; decide
  rw [if_neg hphase]
  exact stoppedWith_ite hv hr

/-! The rows of the sequencer. -/

/-- Once the engine has stopped, a collapse of its rails leaves ENGINE_PHASE 0x7 (18 R513, R519). -/
theorem collapse_stopped (trigger rail : Nat) (hs : stoppedWith n s) : stoppedWith n (collapse trigger rail s) := by
  obtain ⟨⟨hstep, -, -, -, -⟩, hfail⟩ := hs
  unfold collapse
  extract_lets k t
  rw [if_pos hstep]
  exact ⟨⟨rfl, rfl, rfl, rfl, rfl⟩, hfail⟩

theorem supplyWarnEff_stopped (hs : stoppedWith n s) : stoppedWith n (supplyWarnEff s) := by
  have hstep : s.seq.step = .failed := hs.1.1
  have hwarn : stoppedWith n (modSeq (fun q => { q with warn := true, warnSeen := true, lowMs := false }) s) := modSeq_stopped _ hs fun q hq => ⟨rfl, rfl, hq, rfl⟩
  unfold supplyWarnEff
  rw [if_neg (by simp [hstep]), warnEarly]
  simp only [modSeq, hstep] at hwarn ⊢
  exact hwarn

/-- A supply action is no longer awaited. -/
theorem tryStart_stopped (hs : stoppedWith n s) : stoppedWith n (tryStart s) := by
  have hstep : s.seq.step = .failed := hs.1.1
  rwa [tryStart, if_neg (by simp [hstep])]

/-! Every command. -/

theorem due_stopped {g : Bool} (h : due g s t = .next u) (hs : stoppedWith n s) (ht : g = true → stoppedWith n t) : stoppedWith n u := by
  cases g
  · cases h; exact hs
  · cases h; exact ht rfl

/-- A row that is due at other steps of the sequencer than the stop. -/
theorem notDue_stopped {g : Bool} (h : due g s t = .next u) (hs : stoppedWith n s) (hg : g = false) : stoppedWith n u :=
  due_stopped h hs fun k => by simp [hg] at k

theorem next_stopped (h : (Host.Outcome.next t : Host.Outcome State Fault Refusal) = .next u) (ht : stoppedWith n t) : stoppedWith n u := by
  cases h; exact ht

theorem stoppedWith_of_mayChange (h : exec c s = .next u) (hc : ([.phase, .serving, .seq].all fun p => !(mayChange c).elem p) = true) (hs : stoppedWith n s) :
    stoppedWith n u := by
  refine stoppedWith_of_frame (only_mono (fun p hp hstop => ?_) (exec_framed h)) hs
  have hnot := List.all_eq_true.1 hc p hstop
  exact absurd hp (by simpa using hnot)

theorem exec_stopped (h : exec c s = .next u) (hwake : c ≠ .wake) (hvaux : c ≠ .vauxGoodFall) (hs : stoppedWith n s) : stoppedWith n u := by
  obtain ⟨⟨hstep, hphase, hup, hreset, hpd⟩, hfail⟩ := id hs
  cases c with
  | wake => exact absurd rfl hwake
  | vauxGoodFall => exact absurd rfl hvaux
  | beatBoundary => exact due_stopped h hs fun _ => boundaryEff_stopped (stoppedWith_of_frame (by apply_rules [advance_only, closePace_only, only_refl] <;> decide) hs)
  | completionRecordAck => exact due_stopped h hs fun _ => recordAckEff_stopped _ hs
  | taskHalted => exact due_stopped h hs fun _ => taskHaltedEff_stopped _ hs
  | hostResponse => exact next_stopped h (hostRspEff_stopped _ _ _ hs)
  | requestTimeout => exact due_stopped h hs fun _ => timeoutEff_stopped _ hs
  | controlInterval => exact due_stopped h hs fun _ => controlEff_stopped _ hs
  | keepUnitAck => exact due_stopped h hs fun _ => keepAckEff_stopped _ _ hs
  | hostRegisterWrite => exact due_stopped h hs fun _ => registerWriteEff_stopped _ _ _ _ hs
  | trainingEnd => exact due_stopped h hs fun _ => trainingEndEff_stopped _ hs
  | railFailure => exact due_stopped h hs fun _ => collapse_stopped _ _ (modSeq_stopped _ hs fun q hq => ⟨rfl, rfl, hq, rfl⟩)
  | shellReset => exact next_stopped h (modSeq_stopped _ (stoppedWith_ite (collapse_stopped _ _ hs) hs) fun q hq => ⟨rfl, rfl, hq, rfl⟩)
  | supplyWarn => exact next_stopped h (supplyWarnEff_stopped hs)
  | supplyWarnLow => exact next_stopped h (tryStart_stopped (modSeq_stopped _ hs fun q hq => ⟨rfl, rfl, hq, rfl⟩))
  | shellResetRelease => exact next_stopped h (tryStart_stopped (modSeq_stopped _ hs fun q hq => ⟨rfl, rfl, hq, rfl⟩))
  | railGoodRise =>
    refine due_stopped h hs fun _ => ?_
    exact ⟨⟨by simp [modSeq, goodRise, hstep], hphase, hup, hreset, hpd⟩, hfail⟩
  | railGoodFall =>
    refine due_stopped h hs fun _ => ?_
    rw [afterDrop, if_neg (by simp [modSeq, hstep])]
    exact modSeq_stopped _ hs fun q hq => ⟨rfl, rfl, hq, rfl⟩
  | resetRequest => exact notDue_stopped h hs (by simp [cmdReady, hup])
  | resetTakeEffect => exact notDue_stopped h hs (by simp [takeEffectReady, hreset])
  | stewardTakeover => exact notDue_stopped h hs (by simp [takeoverReady, hup])
  | powerDownStart => exact notDue_stopped h hs (by simp [powerDownReady, hstep])
  | powerDownCancel => exact notDue_stopped h hs (by simp [cancelReady, hpd])
  | pointOfNoReturn => exact notDue_stopped h hs (by simp [noReturnReady, hpd])
  | firmwareVerified => exact notDue_stopped h hs (by simp [firmwareReady, hstep])
  | engineReady => exact notDue_stopped h hs (by simp [engineReadyDue, hstep])
  | railRequest => exact notDue_stopped h hs (by simp [nextRail, hstep])
  | railTimeout => exact notDue_stopped h hs (by simp [awaitsGood, hstep])
  | railDropTimeout => exact notDue_stopped h hs (by simp [dropping, hstep])
  | vauxGood | hardPartResetRelease | selfTestComplete | powerDownSettle => exact notDue_stopped h hs (by simp [hstep])
  | _ => exact stoppedWith_of_mayChange h rfl hs

end

/-- Settles O53: each row but the two is due before the stop alone, or leaves what says that the engine has stopped, and FAIL with it. -/
theorem aStoppedEngineStaysStopped : Obligations.AStoppedEngineStaysStopped :=
  fun _ _ _ hs hwake hvaux h => exec_stopped h hwake hvaux ⟨hs, rfl⟩

end Sys2Proof.Machine

/-!
Power-up, power-down and the collapse of the rails (18 R509 to R521): every effect of each of the sequencer's steps.
-/
namespace Sys2Proof.Machine

section
variable {s t u : State} {r n : Nat}

/-! The hard part's state is lost (18 R508, R523). -/

theorem hardReset_stateLost (s : State) : stateLost s (hardReset s) :=
  ⟨rfl, rfl, rfl, rfl, rfl, rfl, rfl, rfl, rfl, rfl, rfl, rfl, rfl, rfl, rfl, rfl, rfl⟩

/-- Neither the phase nor the sequencer's registers, nor what they tell the host, are part of what is lost; that the steward is down is. -/
theorem stateLost_of_frame (h : changesOnly (· ∈ ([.phase, .serving, .intStatus, .messages, .seq] : List Part)) t u) (hup : u.steward.up = false)
    (ht : stateLost s t) : stateLost s u := by
  obtain ⟨hrooms, hoffered, hstore, hfabric, hlinks, htime, hpace, hpower, htasks, hqueues, hctxs, hmboxes, -, hout, hhatch, hmem, hparams⟩ := ht
  exact ⟨(h.rooms (by decide)).trans hrooms, (h.offered (by decide)).trans hoffered, (h.store (by decide)).trans hstore, (h.fabric (by decide)).trans hfabric,
    (h.links (by decide)).trans hlinks, (h.time (by decide)).trans htime, (h.pace (by decide)).trans hpace, (h.power (by decide)).trans hpower,
    (h.steward_tasks (by decide)).trans htasks, (h.steward_queues (by decide)).trans hqueues, (h.steward_ctxs (by decide)).trans hctxs,
    (h.steward_mboxes (by decide)).trans hmboxes, hup, (h.same .requests (by decide)).1.trans hout, (h.shell_hatch (by decide)).trans hhatch,
    (congrArg Keep.mem (h.shell_keep (by decide))).trans hmem, (h.params (by decide)).trans hparams⟩

/-- The steward serves no longer (18 R513). -/
theorem failWith_up (fail : Nat) (s : State) : (failWith fail s).steward.up = false := ((setPhase_leaves 7 _).same .serving (by decide)).2

theorem failWith_stateLost {fail : Nat} (ht : stateLost s t) : stateLost s (failWith fail t) := by
  refine stateLost_of_frame ?_ (failWith_up fail t) ht
  apply failWith_only (h := only_refl) <;> decide

theorem collapse_stateLost (trigger rail : Nat) (s : State) : stateLost s (collapse trigger rail s) := by
  fun_cases collapse trigger rail s
  case case1 => exact hardReset_stateLost s
  case case2 => exact failWith_stateLost (hardReset_stateLost s)
  case case3 => exact hardReset_stateLost s

theorem collapse_causes (trigger rail : Nat) (s : State) : (collapse trigger rail s).seq.req = 0 ∧ (collapse trigger rail s).seq.trigger = trigger ∧
    (collapse trigger rail s).seq.good = s.seq.good ∧ (collapse trigger rail s).seq.abandoned = (s.seq.abandoned || s.seq.pd.isSome) := by
  fun_cases collapse trigger rail s
  case case1 => exact ⟨rfl, rfl, rfl, rfl⟩
  case case2 =>
    obtain ⟨-, b, hseq⟩ := failWith_fails 4 (modSeq _ (hardReset s))
    rw [hseq]
    exact ⟨rfl, rfl, rfl, rfl⟩
  case case3 => exact ⟨rfl, rfl, rfl, rfl⟩

/-- The rails of an engine that had not failed settle, unless a rail failure has ended its power-up (18 R519, R521). -/
theorem collapse_settles (trigger rail : Nat) (hstep : s.seq.step ≠ .failed) (hrising : ¬(s.seq.rising = true ∧ rail ≠ 0)) :
    (collapse trigger rail s).seq.step = .settle ∧ (collapse trigger rail s).steward.phase = 0 ∧ (collapse trigger rail s).seq.pending = worse s.seq.pending 1 := by
  unfold collapse
  extract_lets k t
  rw [if_neg hstep, if_neg fun h => hrising ⟨h.1, h.2.1⟩]
  exact ⟨rfl, rfl, rfl⟩

/-- In ENGINE_PHASE 0x7 the phase stays (18 R513). -/
theorem collapse_failed (trigger rail : Nat) (hstep : s.seq.step = .failed) :
    (collapse trigger rail s).seq.step = .failed ∧ (collapse trigger rail s).steward.phase = 7 ∧ (collapse trigger rail s).seq.pending = 3 := by
  unfold collapse
  extract_lets k t
  rw [if_pos hstep]
  exact ⟨rfl, rfl, rfl⟩

theorem railFailure_collapses (hrail : isRail r = true) (hready : railFailReady s r = true) : answers (.railFailure r) s fun u =>
    u.seq.req = 0 ∧ stateLost s u ∧ u.seq.trigger = 7 ∧ u.seq.rail = r ∧ u.seq.good = railOff s.seq.good r ∧ (s.seq.pd ≠ none → u.seq.abandoned = true) ∧
      (s.seq.rising = false → s.seq.step ≠ .failed → u.seq.step = .settle ∧ u.steward.phase = 0 ∧ u.seq.pending = worse s.seq.pending 1) ∧
      (s.seq.step = .failed → u.seq.step = .failed ∧ u.steward.phase = 7 ∧ u.seq.pending = 3) := by
  have hr : r ≠ 0 := by
    rintro rfl
    exact absurd hrail (by decide)
  refine answers_dueAt rfl hrail hready ?_
  obtain ⟨-, -, hnamed⟩ := collapse_rail 7 hr (modSeq (fun q => { q with good := railOff q.good r }) s)
  obtain ⟨hreq, htrigger, hgood, habandoned⟩ := collapse_causes 7 r (modSeq (fun q => { q with good := railOff q.good r }) s)
  refine ⟨hreq, collapse_stateLost 7 r _, htrigger, hnamed, hgood, fun hpd => ?_, fun hrising hstep => ?_, fun hstep => collapse_failed 7 r hstep⟩
  · rw [habandoned]
    exact Bool.or_eq_true_iff.2 (.inr (Option.isSome_iff_ne_none.2 hpd))
  · exact collapse_settles 7 r hstep fun h => Bool.false_ne_true (hrising.symm.trans h.1)

theorem shellReset_collapses (s : State) : answers .shellReset s fun u => u.seq.shellRst = true ∧
    (hardUp s = true → u.seq.req = 0 ∧ stateLost s u ∧ u.seq.trigger = 8 ∧ (s.seq.step = .run → u.seq.step = .settle ∧ u.steward.phase = 0)) ∧
    (hardUp s = false → u = { s with seq := { s.seq with shellRst := true } }) := by
  refine ⟨_, rfl, rfl, fun hup => ?_, fun hdown => by rw [if_neg (by simp [hdown])]; rfl⟩
  obtain ⟨hreq, htrigger, -, -⟩ := collapse_causes 8 0 s
  rw [if_pos hup]
  refine ⟨hreq, collapse_stateLost 8 0 s, htrigger, fun hstep => ?_⟩
  obtain ⟨hsettle, hphase, -⟩ := collapse_settles 8 0 (s := s) (by simp [hstep]) fun h => h.2 rfl
  exact ⟨hsettle, hphase⟩

/-! A held supply action (18 R521). -/

theorem tryStart_starts (hheld : s.seq.step = .held) (hpending : s.seq.pending = 1) (hlow : s.seq.lowMs = true) (hhigh : s.seq.shellRst = false) :
    (tryStart s).seq.step = .wait ∧ (tryStart s).seq.pending = 0 := by
  rw [tryStart, if_pos ⟨hheld, hpending, hlow, hhigh⟩]
  exact ⟨rfl, rfl⟩

theorem tryStart_rests (h : ¬(s.seq.step = .held ∧ s.seq.pending = 1 ∧ s.seq.lowMs = true ∧ s.seq.shellRst = false)) : tryStart s = s := if_neg h

end

/-- Settles O44: what a failure or a reset of the shell makes of the state is the collapse, read case by case. -/
theorem failuresCollapseTheRails : Obligations.FailuresCollapseTheRails := by
  intro s
  refine ⟨fun r hrail hready => railFailure_collapses hrail hready, shellReset_collapses s,
    ⟨_, rfl, (tryStart_inputs _).2, fun hheld hpending hlow => ?_, fun hheld => ?_⟩, fun hlive => ?_⟩
  · exact tryStart_starts (s := modSeq _ s) hheld hpending hlow rfl
  · refine congrArg (·.seq.step) (tryStart_rests fun h => ?_)
    exact hheld h.1
  · refine answers_due rfl (bne_iff_ne.2 hlive) ?_
    exact ⟨rfl, hardReset_stateLost s, rfl⟩

end Sys2Proof.Machine

/-!
SELF_TEST_COMPLETE (18 R512) restores the newest health record that reads well; whether FIRMWARE_VERIFIED found one is noted apart, in `recAbsent`.
-/
namespace Sys2Proof.Machine

/-- A self-test that finds nothing leaves the mappings that the newest health record holds (17 R483). -/
theorem selfTestComplete_map {s u : State} {iFull : List Nat} (hstep : s.seq.step = .run) (hphase : s.steward.phase = 2)
    (hnext : exec (.selfTestComplete [] [] iFull) s = .next u) : u.health.map = (newestHolds s.shell.keep 4 s.health.saved).getD mappingZero := by
  have hdue : exec (.selfTestComplete [] [] iFull) s = .next (selfTestEff s [] iFull) := by
    simp only [exec, execSelfTestComplete, hstep, hphase]
    rfl
  cases hdue.symm.trans hnext
  change (leaveSelfTest _).health.map = _
  rw [leaveSelfTest_health, modHealth_health]
  change (setIFull iFull _).health.map = _
  rw [(setIFull_only (P := (· = .power)) rfl iFull only_refl).health (by simp), settleHealth_health]
  rfl

/-- The mapping of a record that notes the steward core 0 as failed (17 R495). -/
def coreLostMap : Mapping := { mappingZero with coreFail := some 0 }

/-- A keep whose slot A of the health record is a valid copy with an empty payload (12 R368). -/
def recordedKeep : Keep := { keepReset with mem := tabPutList 0 [] (keepOff 4 0) (keepHdr 4 1 []) }

theorem newestHolds_recordedKeep : newestHolds recordedKeep 4 [(0, coreLostMap)] = some coreLostMap := by decide +kernel

/-- An engine in self-test whose keep holds a health record, with `recAbsent` set. -/
def recordUnnoted : State := { State.reset with
  seq := { seqReset with step := .run }
  steward := { stewardReset with phase := 2, up := true }
  shell := { shellReset with keep := recordedKeep }
  health := { healthReset with recAbsent := true, saved := [(0, coreLostMap)] } }

/-- Refutes O42: SELF_TEST_COMPLETE restores the newest health record that reads well whatever `recAbsent` notes, and the statement asks for no mappings wherever it is
set. In `recordUnnoted` it is set and the keep holds a record of a failed steward core: the model restores the record. -/
theorem not_sequencerPowersUp : ¬ Obligations.SequencerPowersUp := by
  intro h
  obtain ⟨-, -, -, -, -, -, hselfTest, -, -⟩ := h recordUnnoted
  obtain ⟨u, hnext, -, hclean⟩ := hselfTest [] [] [] [] rfl rfl rfl false rfl
  obtain ⟨-, -, hrestored⟩ := hclean rfl
  obtain ⟨-, hmap⟩ := hrestored rfl
  have hmodel := selfTestComplete_map rfl rfl hnext
  rw [show newestHolds recordUnnoted.shell.keep 4 recordUnnoted.health.saved = _ from newestHolds_recordedKeep] at hmodel
  exact absurd (hmodel.symm.trans hmap) (by decide)

end Sys2Proof.Machine

/-!
Power-down (18 R511, R515 to R518, R521): every effect of each of its steps.
-/
namespace Sys2Proof.Machine

section
variable {s t u : State} {n code r : Nat} {x : Task}

/-! SUPPLY_WARN (18 R511, R515, R518). -/

/-- What the drop of a request and the settling of the rails leave of the sequencer. -/
theorem dropNext_field {α : Type} (f : Seq → α) (hdrop : ∀ q req step, f { q with req := req, step := step } = f q) (hstop : ∀ q, f (seqStop .settle q) = f q) (s : State) :
    f (dropNext s).seq = f s.seq := by
  fun_cases dropNext s
  case case1 => exact hdrop ..
  case case2 => exact hdrop ..
  case case3 => exact hstop _

/-- A change of the sequencer that leaves the requests does not matter to the next drop. -/
theorem dropNext_modSeq_dropsNext {f : Seq → Seq} (hreq : (f s.seq).req = s.seq.req) : dropsNext s.seq s (dropNext (modSeq f s)) := by
  have hdrops := dropNext_dropsNext (modSeq f s)
  have hkept : (modSeq f s).seq.req = s.seq.req := hreq
  rw [dropsNext, hkept] at hdrops
  exact hdrops

theorem warnEarly_lowMs (s : State) : (warnEarly s).seq.lowMs = s.seq.lowMs := by
  unfold warnEarly
  split
  · exact dropNext_field Seq.lowMs (fun _ _ _ => rfl) (fun _ => rfl) _
  · exact dropNext_field Seq.lowMs (fun _ _ _ => rfl) (fun _ => rfl) _
  · rfl

theorem supplyWarnEff_lowMs (s : State) : (supplyWarnEff s).seq.lowMs = false := by
  unfold supplyWarnEff
  extract_lets t
  split
  · split
    · rfl
    · split
      · rfl
      · rfl
  · exact warnEarly_lowMs t

/-- Once VCORE is requested, SUPPLY_WARN abandons the power-up (18 R511). -/
theorem supplyWarnEff_abandons (hstep : s.seq.step = .rise r ∨ s.seq.step = .gap r) : supplyWarnEff s =
    dropNext (modSeq (fun q => { q with warn := true, warnSeen := true, lowMs := false, trigger := 1, pending := 1, rising := false }) s) := by
  rcases hstep with hstep | hstep
  · simp only [supplyWarnEff, warnEarly, modSeq, hstep, reduceCtorEq, if_false]
  · simp only [supplyWarnEff, warnEarly, modSeq, hstep, reduceCtorEq, if_false]

theorem supplyWarn_acts (s : State) : answers .supplyWarn s fun u => u.seq.warn = true ∧ u.seq.lowMs = false ∧
    (s.seq.step = .run → s.seq.pd = none → s.seq.trips.any (fun x => x.1 == 1) = false → u.seq.trips = s.seq.trips ++ [(1, upBeat s)]) ∧
    (s.seq.step = .run → s.seq.pd = none → s.seq.trips.any (fun x => x.1 == 1) = true → u.seq.trips = s.seq.trips) ∧
    (s.seq.step = .run → s.seq.pd ≠ none → u.seq.pending = worse s.seq.pending 1) ∧
    (∀ r, s.seq.step = .rise r ∨ s.seq.step = .gap r → u.seq.trigger = 1 ∧ u.seq.pending = 1 ∧ dropsNext s.seq s u) ∧
    (s.seq.step = .wait → u.seq.step = .wait ∧ u.seq.req = s.seq.req) := by
  refine ⟨_, rfl, supplyWarnEff_warn s, supplyWarnEff_lowMs s, fun hstep hpd hfirst => ?_, fun hstep hpd hagain => ?_, fun hstep hpd => ?_, fun r hstep => ?_, fun hstep => ?_⟩
  · simp only [supplyWarnEff, hstep, hpd, hfirst, Bool.false_eq_true, if_true, if_false]
    rfl
  · simp only [supplyWarnEff, hstep, hpd, hagain, if_true]
    rfl
  · obtain ⟨p, hp⟩ := Option.ne_none_iff_exists'.1 hpd
    simp only [supplyWarnEff, hstep, hp, if_true]
    rfl
  · rw [supplyWarnEff_abandons hstep]
    exact ⟨dropNext_field Seq.trigger (fun _ _ _ => rfl) (fun _ => rfl) _, dropNext_field Seq.pending (fun _ _ _ => rfl) (fun _ => rfl) _, dropNext_modSeq_dropsNext rfl⟩
  · simp only [supplyWarnEff, warnEarly, modSeq, hstep, reduceCtorEq, if_false]
    exact ⟨trivial, trivial⟩

/-! POWER_DOWN_START (18 R515, R516). -/

theorem haltTask_halts_again {fr : Option FaultRec} {repair : Bool} (m status : Nat) (h : halts s n code) : halts (haltTask m status fr repair s) n code := by
  obtain ⟨fr', hm⟩ := haltTask_eq_haltWith m status fr repair s
  rw [hm]
  exact halts_haltWith_again m h

theorem haltAll_halts_again {repair : Bool} (status : Nat) : ∀ (ns : List Nat) {s : State}, halts s n code → halts (haltAll status repair ns s) n code
  | [], _, h => h
  | m :: ns, _, h => haltAll_halts_again status ns (haltTask_halts_again m status h)

/-- Every launched task of a list that is halted halts with the status, once, whatever else is halted before and after it. -/
theorem halts_haltAll {repair : Bool} : ∀ (ns : List Nat) {s : State}, taskOf s n = some x → x.state = .launched → x.halting = false → n ∈ ns →
    halts (haltAll code repair ns s) n code
  | [], _, _, _, _, h => by cases h
  | m :: ns, s, hx, hlaunched, hruns, hin => by
    rw [haltAll]
    by_cases hm : m = n
    · rw [hm]
      exact haltAll_halts_again code ns (halts_haltTask hx hlaunched hruns)
    · obtain ⟨fr', hother⟩ := haltTask_eq_haltWith m code (some (plainFault code)) repair s
      refine halts_haltAll ns ?_ hlaunched hruns ((List.mem_cons.1 hin).resolve_left (Ne.symm hm))
      rw [hother, taskOf_haltWith_ne hm, hx]

theorem mem_launchedTasks_of_taskOf (hx : taskOf s n = some x) (hlaunched : x.state = .launched) : n ∈ launchedTasks s := by
  have hnum : x.num = n := by simpa using List.find?_some hx
  exact List.mem_map.2 ⟨x, List.mem_filter.2 ⟨List.mem_of_find?_eq_some hx, by simpa using hlaunched⟩, hnum⟩

/-- A halt of every launched task halts each that runs. -/
theorem halts_haltLaunched {repair : Bool} (hx : taskOf s n = some x) (hlaunched : x.state = .launched) (hruns : x.halting = false) :
    halts (haltAll code repair (launchedTasks s) s) n code :=
  halts_haltAll _ hx hlaunched hruns (mem_launchedTasks_of_taskOf hx hlaunched)

theorem discardStaged_removes (x : Staged) (s : State) : (discardStaged x s).steward.staged = s.steward.staged.filter fun z => z != x := by
  unfold discardStaged
  extract_lets t
  split
  · exact (undoRaise_only (P := (· = .power)) rfl only_refl).steward_staged (by simp)
  · rfl

/-- Each item of the list is staged no longer. -/
theorem refuseStaged_staged : ∀ (xs : List Staged) (s : State), ∀ y ∈ (refuseStaged xs s).steward.staged, y ∈ s.steward.staged ∧ y ∉ xs
  | [], _, y, hy => ⟨hy, List.not_mem_nil⟩
  | x :: xs, s, y, hy => by
    obtain ⟨hmem, hnot⟩ := refuseStaged_staged xs _ y hy
    rw [(respond_leaves ..).steward_staged (by decide), discardStaged_removes] at hmem
    obtain ⟨hmem, hne⟩ := List.mem_filter.1 hmem
    exact ⟨hmem, fun h => (List.mem_cons.1 h).elim (by simpa using hne) hnot⟩

theorem refuseStaged_all (s : State) : (refuseStaged s.steward.staged s).steward.staged = [] :=
  List.eq_nil_iff_forall_not_mem.2 fun y hy => (refuseStaged_staged _ s y hy).2 (refuseStaged_staged _ s y hy).1

/-- The sequencer's record of a power-down that begins (18 R515, R516). -/
theorem powerDownEff_seq (s : State) : ∃ q b, (powerDownEff s).seq = { (q : Seq) with
    trigger := (s.seq.trips.map (·.1)).headD 1, pending := (s.seq.trips.map (·.1)).foldl (fun p c => worse p (actionOf c)) 0, flushed := false, trips := [],
    pd := some ⟨upBeat s, (s.seq.trips.map (·.1)).all (· == 1), 0, false, false⟩, rising := false, phaseBeat := b } := by
  unfold powerDownEff
  extract_lets codes halt a b
  obtain ⟨k, hk⟩ := setPhase_seq 6 (haltAll halt false (launchedTasks b) b)
  refine ⟨(overtakeReset s).seq, k, ?_⟩
  rw [hk, (haltAll_only (P := (· ≠ .seq)) (by simp) (by simp) _ _ _ only_refl).seq (by simp), (stopChannels_only (P := (· ≠ .seq)) (by simp) _ only_refl).seq (by simp),
    (refuseStaged_only (P := (· ≠ .seq)) (by simp) (by simp) (by simp) (by simp) (by simp) _ only_refl).seq (by simp)]
  rfl

theorem powerDownEff_staged (s : State) : (powerDownEff s).steward.staged = [] := by
  unfold powerDownEff
  extract_lets codes halt a b
  rw [(setPhase_leaves ..).steward_staged (by decide), (haltAll_only (P := (· ≠ .staged)) (by simp) (by simp) _ _ _ only_refl).steward_staged (by simp),
    (stopChannels_only (P := (· ≠ .staged)) (by simp) _ only_refl).steward_staged (by simp)]
  exact refuseStaged_all a

theorem powerDownEff_halts (hx : taskOf s n = some x) (hlaunched : x.state = .launched) (hruns : x.halting = false) :
    halts (powerDownEff s) n (if (s.seq.trips.map (·.1)).contains 2 then 0x0C01 else 0x0E01) := by
  unfold powerDownEff
  extract_lets codes halt a b
  have ha : changesOnly (· ≠ .tasks) s a := modSeq_only (by simp) _ (overtakeReset_only (by simp) (by simp) (by simp) (by simp) only_refl)
  have hb : changesOnly (· ≠ .tasks) s b := by apply_rules [stopChannels_only, refuseStaged_only] <;> simp
  have hkept : taskOf b n = some x := (taskOf_of_tasks (hb.steward_tasks (by simp)) n).trans hx
  have hhalts : halts (haltAll halt false (launchedTasks b) b) n halt := halts_haltLaunched hkept hlaunched hruns
  rwa [halts, taskOf_of_tasks ((setPhase_leaves ..).steward_tasks (by decide))]

theorem powerDownStart_acts (hready : powerDownReady s = true) : answers .powerDownStart s fun u => u.steward.phase = 6 ∧ u.seq.trips = [] ∧
    u.seq.trigger = (s.seq.trips.map (·.1)).headD 1 ∧ u.seq.pd = some ⟨upBeat s, (s.seq.trips.map (·.1)).all (· == 1), 0, false, false⟩ ∧ u.seq.flushed = false ∧
    u.steward.staged = [] ∧ u.seq.pending = (s.seq.trips.map (·.1)).foldl (fun p c => worse p (actionOf c)) 0 ∧
    ∀ t, taskOf s t.num = some t → t.state = .launched → t.halting = false → halts u t.num (if (s.seq.trips.map (·.1)).contains 2 then 0x0C01 else 0x0E01) := by
  obtain ⟨hphase, -⟩ := powerDownEff_starts s
  obtain ⟨q, b, hseq⟩ := powerDownEff_seq s
  refine answers_due rfl hready ⟨hphase, ?_, ?_, ?_, ?_, powerDownEff_staged s, ?_, fun t ht hlaunched hruns => powerDownEff_halts ht hlaunched hruns⟩
  all_goals rw [hseq]

/-! POWER_DOWN_CANCEL and POINT_OF_NO_RETURN (18 R516, R518). -/

theorem raiseInt_intStatus (k : Nat) (s : State) : (raiseInt k s).steward.intStatus = s.steward.intStatus ||| BitVec.ofNat 32 (2 ^ k) :=
  congrArg Steward.intStatus (ite_addEvt_steward ..)

/-- The bit of INT_STATUS is set (20 R564). -/
theorem raiseInt_bit {k : Nat} (hk : k < 32) (s : State) : (raiseInt k s).steward.intStatus.getLsbD k = true := by
  rw [raiseInt_intStatus, BitVec.getLsbD_or, BitVec.getLsbD_ofNat, Nat.testBit_two_pow_self]
  simp [hk]

theorem powerDownCancel_acts (hready : cancelReady s = true) : answers .powerDownCancel s fun u =>
    u.steward.phase = 5 ∧ u.seq.pd = none ∧ u.seq.pending = 0 ∧ u.seq.cancelled = true ∧ u.steward.intStatus.getLsbD 10 = true := by
  obtain ⟨b, hb⟩ := setPhase_seq 5 (modSeq (fun q => { q with pd := none, pending := 0, cancelled := true }) s)
  refine answers_due rfl hready ⟨?_, ?_, ?_, ?_, ?_⟩
  · rw [(promote_leaves _).steward_phase (by decide), (raiseInt_leaves ..).steward_phase (by decide), setPhase_phase]
  · rw [promote_seq, raiseInt_seq, hb]
    rfl
  · rw [promote_seq, raiseInt_seq, hb]
    rfl
  · rw [promote_seq, raiseInt_seq, hb]
    rfl
  · rw [(promote_leaves _).same .intStatus (by decide)]
    exact raiseInt_bit (by decide) _

/-- The writes of the final flush: the health record, and the link trims item where a rank is unsaved (18 R516). -/
theorem startFlush_items (s : State) : (startFlush s).shell.keep.writes.map (·.item) = if rankUnsaved s then [4, 3] else [4] := by
  unfold startFlush
  extract_lets a b
  have hunsaved : rankUnsaved b = rankUnsaved s := rfl
  rw [hunsaved]
  split
  · rfl
  · rfl

theorem pointOfNoReturn_acts (hready : noReturnReady s = true) : answers .pointOfNoReturn s fun u =>
    (∀ p, s.seq.pd = some p → u.seq.pd = some { p with past := true }) ∧ u.steward.up = false ∧ u.host.txq = [] ∧ u.host.evts = [] ∧ u.host.held = [] ∧
      u.host.waitq = [] ∧ (rankUnsaved s = false → u.shell.keep.writes.map (·.item) = [4]) ∧ (rankUnsaved s = true → u.shell.keep.writes.map (·.item) = [4, 3]) := by
  refine answers_due rfl hready ?_
  rw [noReturnEff]
  generalize hd : dropUnwritten _ = d
  have hflush : changesOnly (· ∈ ([.freeCtr, .keep, .health] : List Part)) d (startFlush d) := startFlush_only (by decide) (by decide) (by decide) only_refl
  have hitems := startFlush_items d
  have hunsaved : rankUnsaved d = rankUnsaved s := by subst hd; rfl
  have hpast (p : PowerDown) (hp : s.seq.pd = some p) : d.seq.pd = some { p with past := true } := by
    subst hd
    exact congrArg (Option.map fun p : PowerDown => { p with past := true }) hp
  have hquiet : d.steward.up = false ∧ d.host.txq = [] ∧ d.host.evts = [] ∧ d.host.held = [] ∧ d.host.waitq = [] := by subst hd; exact ⟨rfl, rfl, rfl, rfl, rfl⟩
  rw [hunsaved] at hitems
  obtain ⟨-, htxq, hevts, -⟩ := hflush.same .messages (by decide)
  obtain ⟨-, hheld⟩ := hflush.same .porch (by decide)
  obtain ⟨-, -, hwaitq⟩ := hflush.same .requests (by decide)
  obtain ⟨-, hup⟩ := hflush.same .serving (by decide)
  rw [hflush.seq (by decide), htxq, hevts, hheld, hwaitq, hup]
  obtain ⟨hup, htxq, hevts, hheld, hwaitq⟩ := hquiet
  refine ⟨hpast, hup, htxq, hevts, hheld, hwaitq, fun hsaved => ?_, fun hrank => ?_⟩
  · exact hitems.trans (if_neg (by simp [hsaved]))
  · exact hitems.trans (if_pos hrank)

/-! The fall of the rails, and the pending action (18 R516, R521). -/

theorem railGoodFall_acts (hrail : isRail r = true) (hgood : railOn s.seq.good r = true) (hreq : railOn s.seq.req r = false) : answers (.railGoodFall r) s fun u =>
    u.seq.good = railOff s.seq.good r ∧ (s.seq.step = .drop r → dropsNext s.seq s u) ∧ (s.seq.step ≠ .drop r → u.seq.step = s.seq.step ∧ u.seq.req = s.seq.req) := by
  refine answers_dueAt rfl hrail (by simp [hgood, hreq]) ?_
  by_cases hstep : s.seq.step = .drop r
  · have heff : afterDrop r (modSeq (fun q => { q with good := railOff q.good r }) s) = dropNext (modSeq (fun q => { q with good := railOff q.good r }) s) := if_pos hstep
    rw [heff]
    exact ⟨(dropNext_inputs _).2, fun _ => dropNext_modSeq_dropsNext rfl, fun h => absurd hstep h⟩
  · have heff : afterDrop r (modSeq (fun q => { q with good := railOff q.good r }) s) = modSeq (fun q => { q with good := railOff q.good r }) s := if_neg hstep
    rw [heff]
    exact ⟨rfl, fun h => absurd h hstep, fun _ => ⟨rfl, rfl⟩⟩

theorem powerDownSettle_acts (hstep : s.seq.step = .settle) : answers .powerDownSettle s fun u =>
    (s.seq.pending = 2 → u.seq.step = .wait ∧ u.seq.pending = 0) ∧ (s.seq.pending = 3 → u.seq.step = .held ∧ u.seq.pending = 3) ∧
    (s.seq.pending = 1 → s.seq.lowMs = true → s.seq.shellRst = false → u.seq.step = .wait ∧ u.seq.pending = 0) ∧
    (s.seq.pending = 1 → s.seq.lowMs = false ∨ s.seq.shellRst = true → u.seq.step = .held ∧ u.seq.pending = 1) := by
  refine answers_due rfl (beq_iff_eq.2 hstep) ⟨fun hp => ?_, fun hp => ?_, fun hp hlow hhigh => ?_, fun hp hwaits => ?_⟩
  · rw [if_pos hp]
    exact ⟨rfl, rfl⟩
  · rw [if_neg (by simp [hp]), tryStart_rests (by simp [modSeq, hp])]
    exact ⟨rfl, hp⟩
  · rw [if_neg (by simp [hp])]
    exact tryStart_starts rfl hp hlow hhigh
  · rw [if_neg (by simp [hp]), tryStart_rests (by rcases hwaits with h | h <;> simp [modSeq, h])]
    exact ⟨rfl, hp⟩

end

/-- Settles O43: each step of a power-down is read at what its effect makes of the sequencer, the tasks and the keep. -/
theorem sequencerPowersDown : Obligations.SequencerPowersDown := by
  intro s
  refine ⟨supplyWarn_acts s, ⟨_, rfl, (tryStart_inputs _).1, ?_, fun hheld hpending hhigh => tryStart_starts (s := modSeq _ s) hheld hpending rfl hhigh, fun hheld => ?_⟩,
    fun hready => powerDownStart_acts hready, fun hready => powerDownCancel_acts hready, fun hready => pointOfNoReturn_acts hready,
    fun r hrail hgood hreq => railGoodFall_acts hrail hgood hreq, fun r hstep => ?_, fun hstep => powerDownSettle_acts hstep⟩
  · unfold tryStart
    split
    · rfl
    · rfl
  · have hrests := tryStart_rests (s := modSeq (fun q => { q with warn := false, lowMs := true }) s) fun h => hheld h.1
    exact ⟨congrArg (·.seq.step) hrests, congrArg (·.seq.pending) hrests⟩
  · exact answers_due rfl (by rw [dropping, hstep]; rfl) ⟨(dropNext_inputs s).2, dropNext_dropsNext s⟩

end Sys2Proof.Machine

/-!
The time unit (15 R438 to R450): every effect of each of its steps.
-/
namespace Sys2Proof.Machine

section
variable {s : State} {b cls rank hops : Nat} {serial : BitVec 64} {f : Frame} {x : Exchange} {th2 : Int} {ref : Bool}

/-! Little-endian fields of a payload (00 R13). -/

theorem leVal_leBytes : ∀ n v : Nat, leVal (leBytes n v) = v % 256 ^ n
  | 0, _ => by simp [leBytes, leVal, Nat.mod_one]
  | n + 1, v => by
    rw [leBytes, leVal, leVal_leBytes n, BitVec.toNat_ofNat]
    exact (Nat.pow_succ' (n := n) ▸ Nat.mod_mul).symm

/-- A field at the front is read as its value. -/
theorem pfld_here (c : List Byte) (n v : Nat) : pfld (leBytes n v ++ c) 0 n = v % 256 ^ n := by
  rw [pfld, List.drop_zero, List.take_left' (length_leBytes v n), leVal_leBytes]

/-- A field before the one that is read is passed over. -/
theorem pfld_skip {m off : Nat} (c : List Byte) (v n : Nat) (h : m ≤ off) : pfld (leBytes m v ++ c) off n = pfld c (off - m) n := by
  rw [pfld, pfld, List.drop_append, length_leBytes, List.drop_eq_nil_of_le (by rw [length_leBytes]; exact h), List.nil_append]

/-! Interrupt bits stand (20 R564). -/

theorem raiseInt_keepsBit {j : Nat} (k : Nat) (h : s.steward.intStatus.getLsbD j = true) : (raiseInt k s).steward.intStatus.getLsbD j = true := by
  rw [raiseInt_intStatus, BitVec.getLsbD_or, h, Bool.true_or]

theorem setTimeSt_keepsBit {j : Nat} (k : Nat) (h : s.steward.intStatus.getLsbD j = true) : (setTimeSt k s).steward.intStatus.getLsbD j = true := by
  unfold setTimeSt
  split
  · exact h
  · exact raiseInt_keepsBit (s := { s with time := { s.time with st := k } }) 7 h

/-- A split raises the time interrupt (15 R446). -/
theorem splitEff_bit (s : State) : (splitEff s).steward.intStatus.getLsbD 7 = true := by
  unfold splitEff
  extract_lets t w
  have hkept : changesOnly (· ≠ .intStatus) t (promote (withdrawRounds ((w.steward.tasks.filter awaitsLaunch).map (·.num)) w)) :=
    promote_only (by simp) (withdrawRounds_only (by simp) (by simp) (by simp) (by simp) (by simp) _ (haltAll_only (by simp) (by simp) _ _ _ only_refl))
  rw [hkept.same .intStatus (by simp)]
  exact raiseInt_bit (by decide) _

/-! The discipline (15 R444, R446, R450). -/

/-- A rate works against its offset, within 200 ppm (15 R444). -/
theorem freeRate_against (th2 : Int) (s : State) : freeRate th2 s * th2.sign ≤ 0 ∧ (freeRate th2 s).natAbs ≤ 200000 := by
  have hsize : Config.freeNat s.freeCtr % 200000 < 200000 := Nat.mod_lt _ (by decide)
  unfold freeRate
  rcases lt_trichotomy th2 0 with h | h | h
  · rw [Int.sign_eq_neg_one_of_neg h]
    omega
  · rw [h]
    simp
  · rw [Int.sign_eq_one_of_pos h]
    omega

/-- Within 16 ticks READY is released and the rate removes the offset (15 R444, R446). -/
theorem applyTheta_near (hnear : th2.natAbs ≤ 2 * 16 * 65536) : (applyTheta ref th2 s).time = { s.time with
    offset := offsetOf th2, lastUse := if ref then s.time.lastUse else upBeat s, holdFrom := if ref then s.time.holdFrom else none, unsync := false,
    rate := freeRate th2 s, streak := if ref then s.time.streak else if th2.natAbs ≤ 2 * 2 * 65536 then s.time.streak + 1 else 0,
    st := if ref then s.time.st else 2 } := by
  simp only [applyTheta, hnear, if_true]
  cases ref with
  | true => rfl
  | false => exact setTimeSt_record ..

/-- Beyond 16 ticks a split, and beyond 512 ticks a step that waits (15 R446). -/
theorem applyTheta_far (hfar : 2 * 16 * 65536 < th2.natAbs) : (applyTheta ref th2 s).time = { s.time with
    offset := offsetOf th2, lastUse := if ref then s.time.lastUse else upBeat s, holdFrom := if ref then s.time.holdFrom else none, split := true, unsync := true,
    streak := 0,
    step := if 2 * 512 * 65536 < th2.natAbs then some ⟨waitingBeats s.time + stepBeats th2, th2 - 2 * 1024 * 65536 * stepBeats th2,
      (s.time.step.map (·.since)).getD (upBeat s), ref⟩ else s.time.step,
    st := if ref = true ∨ (2 * 512 * 65536 < th2.natAbs ∧ s.time.st ≠ 3) then s.time.st else 2 } := by
  have hnear : ¬th2.natAbs ≤ 2 * 16 * 65536 := Nat.not_le.2 hfar
  simp only [applyTheta, hnear, if_false]
  by_cases hstep : 2 * 512 * 65536 < th2.natAbs
  · by_cases hstands : ref = true ∨ s.time.st ≠ 3
    · simp only [hstep, modTime_time, hstands, if_true, true_and, splitEff_record]
      rfl
    · simp only [hstep, modTime_time, hstands, if_true, if_false, true_and, splitEff_record, setTimeSt_record]
      rfl
  · cases ref with
    | true =>
      simp only [hstep, if_true, if_false, true_or, splitEff_record]
      rfl
    | false =>
      simp only [hstep, if_false, Bool.false_eq_true, false_and, or_self, splitEff_record, setTimeSt_record]
      rfl

theorem applyTheta_splits (hfar : 2 * 16 * 65536 < th2.natAbs) : (applyTheta ref th2 s).steward.intStatus.getLsbD 7 = true := by
  have hnear : ¬th2.natAbs ≤ 2 * 16 * 65536 := Nat.not_le.2 hfar
  simp only [applyTheta, hnear, if_false]
  generalize hd : splitEff _ = d
  have hbit : d.steward.intStatus.getLsbD 7 = true := hd ▸ splitEff_bit _
  split
  · split
    · exact hbit
    · exact setTimeSt_keepsBit (s := modTime _ d) 2 hbit
  · split
    · exact hbit
    · exact setTimeSt_keepsBit 2 hbit

/-! The keeper (15 R441). -/

/-- An engine floods an ANNOUNCE that names it (15 R441, R443). -/
theorem sendAnnounce_floods (s : State) : ∃ f, f.hdr.kind = 8 ∧ f.hdr.dst = 0x8000 ∧
    f.payload = timePayload 1 (timeClass s) s.fabric.rank s.steward.serial 0 0 0 0 0 ∧ ∀ b ∈ upBundles s, b ≠ 64 → (b, f) ∈ (sendAnnounce s).fabric.out :=
  ⟨makeFrame 0x8000 0x08 s.fabric.nextTag 0 0 (timePayload 1 (timeClass s) s.fabric.rank s.steward.serial 0 0 0 0 0) s, rfl, rfl, rfl, fun b hb h64 =>
    List.mem_append_right _ (List.mem_map.2 ⟨b, List.mem_filter.2 ⟨hb, decide_eq_true h64⟩, rfl⟩)⟩

/-- An ANNOUNCE changes no more than the time unit. -/
theorem announceEff_fabric (s : State) (cls rank : Nat) (serial : BitVec 64) (hops : Nat) : (announceEff s cls rank serial hops).fabric = s.fabric :=
  (announceEff_only (P := (· ≠ .fabric)) (by simp) (by simp) (by simp) cls rank serial hops only_refl).fabric (by simp)

/-- Whether this engine takes an ANNOUNCE for its keeper's (15 R441). -/
def takesAnnounce (s : State) (cls rank : Nat) (serial : BitVec 64) : Prop :=
  ∀ k, s.time.keeper = some k → k.serial = serial ∨ betterTime cls rank serial k.cls k.rank k.serial = true ∨
    k.beat + (if timeClass s = 3 ∨ s.time.st = 3 then 4096 else 256) ≤ upBeat s

/-- What an ANNOUNCE makes of the state, by whether it is better and taken (15 R441). -/
theorem announceEff_cases (s : State) (cls rank : Nat) (serial : BitVec 64) (hops : Nat) :
    (betterTime cls rank serial (timeClass s) s.fabric.rank s.steward.serial = true ∧ takesAnnounce s cls rank serial ∧
      (announceEff s cls rank serial hops).time.keeper = some ⟨cls, rank, serial, 32 - hops, upBeat s⟩ ∧ (announceEff s cls rank serial hops).time.announcing = false ∧
      (announceEff s cls rank serial hops).time.quiet = upBeat s ∧ (announceEff s cls rank serial hops).time.st = if s.time.announcing then 0 else s.time.st) ∨
    (¬(betterTime cls rank serial (timeClass s) s.fabric.rank s.steward.serial = true ∧ takesAnnounce s cls rank serial) ∧
      announceEff s cls rank serial hops = s) := by
  unfold announceEff
  extract_lets mine takes fresh t
  have htakes : takes = true ↔ takesAnnounce s cls rank serial := by
    unfold takesAnnounce takes
    cases s.time.keeper with
    | none => simp
    | some k =>
      simp only [Option.some.injEq, forall_eq', Bool.or_eq_true, beq_iff_eq, decide_eq_true_eq, or_assoc]
      rfl
  by_cases h : mine = true ∧ takes = true
  · refine .inl ⟨h.1, htakes.1 h.2, ?_⟩
    rw [if_pos h]
    by_cases hkeeps : s.time.announcing = true
    · rw [if_pos hkeeps, if_pos hkeeps, setTimeSt_record]
      exact ⟨rfl, rfl, rfl, rfl⟩
    · rw [if_neg hkeeps, if_neg hkeeps]
      exact ⟨rfl, rfl, rfl, rfl⟩
  · exact .inr ⟨fun hboth => h ⟨hboth.1, htakes.2 hboth.2⟩, if_neg h⟩

theorem announce_acts (hf : announceFrame s b cls rank serial hops = some f) : answers (.announce b cls rank serial hops) s fun u =>
    u.fabric = (takeFrame b f s).fabric ∧
    ∀ mine takes, mine = betterTime cls rank serial (timeClass s) s.fabric.rank s.steward.serial →
      (takes ↔ takesAnnounce s cls rank serial) →
      (mine = true → takes → u.time.keeper = some ⟨cls, rank, serial, 32 - hops, upBeat s⟩ ∧ u.time.announcing = false ∧ u.time.quiet = upBeat s ∧
        u.time.st = if s.time.announcing then 0 else s.time.st) ∧
      (mine = false ∨ ¬takes → u.time = s.time) := by
  refine answers_due rfl (by rw [hf]; rfl) ?_
  rw [hf]
  refine ⟨announceEff_fabric (takeFrame b f s) .., ?_⟩
  rintro mine takes rfl htakes
  rcases announceEff_cases (takeFrame b f s) cls rank serial hops with ⟨hmine, htaken, hfollows⟩ | ⟨hnot, hrests⟩
  · exact ⟨fun _ _ => hfollows, fun h => h.elim (fun hworse => absurd (hmine.symm.trans hworse) (by decide)) fun hleft => absurd (htakes.2 htaken) hleft⟩
  · exact ⟨fun hmine h => absurd ⟨hmine, htakes.1 h⟩ hnot, fun _ => (congrArg State.time hrests).trans rfl⟩

/-- What an engine that keeps time itself announces is what it could before (15 R441). -/
theorem keeperTimeoutEff_floods (s : State) : ∃ f, f.hdr.kind = 8 ∧ f.payload = timePayload 1 (timeClass s) s.fabric.rank s.steward.serial 0 0 0 0 0 ∧
    ∀ b ∈ upBundles s, b ≠ 64 → (b, f) ∈ (keeperTimeoutEff s).fabric.out := by
  rw [keeperTimeoutEff]
  generalize ht : setTimeSt 1 (modTime becomeKeeper s) = t
  have hkept : changesOnly (· ∈ ([.intStatus, .messages, .time] : List Part)) (modTime becomeKeeper s) t := ht ▸ setTimeSt_leaves 1 _
  have hclass : timeClass t = timeClass s := by rw [← ht, timeClass, setTimeSt_record]; rfl
  have hup : upBundles t = upBundles s := by rw [upBundles, hkept.fabric (by decide)]; rfl
  obtain ⟨f, hkind, -, hpayload, hout⟩ := sendAnnounce_floods t
  rw [hclass, hkept.fabric (by decide), hkept.steward_serial (by decide)] at hpayload
  exact ⟨f, hkind, hpayload, hup ▸ hout⟩

/-! Stamps (15 R443, R444). -/

/-- The STAMP that a list of bundles sends on one of them (15 R443). -/
theorem sendStamps_out (keeper : BitVec 64) (cls rank : Nat) : ∀ (bs : List Nat) (s : State),
    (∀ e ∈ s.fabric.out, e ∈ (sendStamps keeper cls rank bs s).fabric.out) ∧
    ∀ b ∈ bs, ∃ f, (b, f) ∈ (sendStamps keeper cls rank bs s).fabric.out ∧ f.hdr.kind = 8 ∧
      f.hdr.dst = BitVec.ofNat 16 (tabGet bundleZero s.fabric.bundles b).peerAddr ∧ f.payload = stampPayload keeper cls rank (lowestPort s b)
  | [], _ => ⟨fun _ he => he, fun _ hb => by cases hb⟩
  | b :: bs, s => by
    rw [sendStamps]
    generalize hf : makeFrame (BitVec.ofNat 16 (tabGet bundleZero s.fabric.bundles b).peerAddr) 0x08 0 0 0 (stampPayload keeper cls rank (lowestPort s b)) s = f
    obtain ⟨hkept, hsent⟩ := sendStamps_out keeper cls rank bs { s with fabric := { s.fabric with out := s.fabric.out ++ [(b, f)] } }
    refine ⟨fun e he => hkept e (List.mem_append_left _ he), fun b' hb' => ?_⟩
    rcases List.mem_cons.1 hb' with rfl | hmem
    · exact ⟨f, hkept _ (List.mem_append_right _ (List.mem_singleton.2 rfl)), hf ▸ rfl, hf ▸ rfl, hf ▸ rfl⟩
    · exact hsent b' hmem

/-- The fields of a STAMP: the last mark sent and the last received on a port (15 R443). -/
theorem stampPayload_fields (keeper : BitVec 64) (cls rank : Nat) (p : Port) : (stampPayload keeper cls rank p).head? = some 2 ∧
    (stampPayload keeper cls rank p).length = 64 ∧ ∀ d a, d = lastMark p.departs → a = lastMark p.arrives →
      pfld (stampPayload keeper cls rank p) 0x10 8 = d.1 % 2 ^ 64 ∧ (pfld (stampPayload keeper cls rank p) 0x18 4 : Int) = d.2 % (1024 * 65536) ∧
      pfld (stampPayload keeper cls rank p) 0x20 8 = a.1 % 2 ^ 64 ∧ (pfld (stampPayload keeper cls rank p) 0x28 8 : Int) = a.2 / 65536 % 2 ^ 64 ∧
      (pfld (stampPayload keeper cls rank p) 0x30 2 : Int) = a.2 % 65536 := by
  refine ⟨rfl, by simp [stampPayload, timePayload, length_leBytes], ?_⟩
  rintro d a rfl rfl
  simp (disch := decide) only [stampPayload, timePayload, List.append_assoc, pfld_skip, Nat.reduceSub, pfld_here]
  omega

/-- What STAMP_PERIOD sends is what the bundles of the state send (15 R443). -/
theorem stampPeriodEff_out (s : State) : ∀ b ∈ upBundles s, ∃ f keeper cls rank, (b, f) ∈ (stampPeriodEff s).fabric.out ∧ f.hdr.kind = 8 ∧
    f.hdr.dst = BitVec.ofNat 16 (tabGet bundleZero s.fabric.bundles b).peerAddr ∧ f.payload = stampPayload keeper cls rank (lowestPort s b) := by
  intro b hb
  unfold stampPeriodEff
  extract_lets t
  split
  · obtain ⟨f, hf⟩ := (sendStamps_out _ _ _ (upBundles s) t).2 b hb
    exact ⟨f, _, _, _, hf⟩
  · obtain ⟨f, hf⟩ := (sendStamps_out _ _ _ (upBundles s) t).2 b hb
    exact ⟨f, _, _, _, hf⟩

theorem stampPeriod_acts (hruns : s.time.running = true) (hdue : s.time.lastStamp + 16 ≤ upBeat s) : answers .stampPeriod s fun u => u.time.lastStamp = upBeat s ∧
    ∀ b ∈ upBundles s, ∃ f, (b, f) ∈ u.fabric.out ∧ f.hdr.kind = 8 ∧ f.hdr.dst = BitVec.ofNat 16 (tabGet bundleZero s.fabric.bundles b).peerAddr ∧
      f.payload.head? = some 2 ∧ f.payload.length = 64 ∧ ∀ d a, d = lastMark (lowestPort s b).departs → a = lastMark (lowestPort s b).arrives →
        pfld f.payload 0x10 8 = d.1 % 2 ^ 64 ∧ (pfld f.payload 0x18 4 : Int) = d.2 % (1024 * 65536) ∧ pfld f.payload 0x20 8 = a.1 % 2 ^ 64 ∧
        (pfld f.payload 0x28 8 : Int) = a.2 / 65536 % 2 ^ 64 ∧ (pfld f.payload 0x30 2 : Int) = a.2 % 65536 := by
  refine answers_due rfl (by simp [hruns, hdue]) ⟨congrArg TimeUnit.lastStamp (stampPeriodEff_record s), fun b hb => ?_⟩
  obtain ⟨f, keeper, cls, rank, hout, hkind, hdst, hpayload⟩ := stampPeriodEff_out s b hb
  refine ⟨f, hout, hkind, hdst, ?_⟩
  rw [hpayload]
  exact stampPayload_fields ..

/-- A STAMP that is taken is the one that has been delivered. -/
theorem stamp_takes {lost : Bool} {Q : State → Prop} (hf : stampFrame s b = some f) (hready : stampReady s b cls x lost = true)
    (hq : Q (stampEff (takeFrame b f s) b cls x lost)) : answers (.stamp b cls x lost) s Q := by
  refine answers_due rfl hready ?_
  rw [hf]
  exact hq

/-- What a parent's STAMP does of the discipline (15 R444, R446). -/
def Disciplined (s u : State) (cls : Nat) (x : Exchange) : Prop :=
  u.time.offset = offsetOf (theta2 x) ∧ u.time.lastUse = upBeat s ∧ u.time.holdFrom = none ∧
    (∀ k, s.time.keeper = some k → u.time.keeper = some { k with cls := cls }) ∧
    ((theta2 x).natAbs ≤ 2 * 16 * 65536 → u.time.st = 2 ∧ u.time.unsync = false ∧ u.time.split = s.time.split ∧ u.time.step = none ∧
      u.time.rate * (theta2 x).sign ≤ 0 ∧ u.time.rate.natAbs ≤ 200000 ∧
      u.time.streak = if (theta2 x).natAbs ≤ 2 * 2 * 65536 then s.time.streak + 1 else 0) ∧
    (2 * 16 * 65536 < (theta2 x).natAbs → u.time.split = true ∧ u.time.unsync = true ∧ u.time.streak = 0 ∧ u.steward.intStatus.getLsbD 7 = true) ∧
    (2 * 16 * 65536 < (theta2 x).natAbs → (theta2 x).natAbs ≤ 2 * 512 * 65536 → u.time.step = none ∧ u.time.st = 2) ∧
    (2 * 512 * 65536 < (theta2 x).natAbs →
      u.time.step = some ⟨stepBeats (theta2 x), theta2 x - 2 * 1024 * 65536 * stepBeats (theta2 x), upBeat s, false⟩)

theorem stampEff_parent (hfollows : s.time.announcing = false) (hparent : parentBundle s = some b) (hstep : s.time.step = none) :
    Disciplined s (stampEff s b cls x false) cls x := by
  have heff : stampEff s b cls x false = applyTheta false (theta2 x) (modTime (fun t => { t with keeper := t.keeper.map fun k => { k with cls := cls } }) s) :=
    if_neg (by simp [hfollows, hparent])
  rw [heff]
  generalize hv : modTime _ s = v
  have hbeat : upBeat v = upBeat s := hv ▸ rfl
  have hkeeper (k : KeeperRec) (hk : s.time.keeper = some k) : v.time.keeper = some { k with cls := cls } := by
    rw [← hv, modTime_time, hk]
    rfl
  have hsplit : v.time.split = s.time.split := hv ▸ rfl
  have hstreak : v.time.streak = s.time.streak := hv ▸ rfl
  have hwaits : v.time.step = none := by rw [← hv, modTime_time, hstep]
  by_cases hnear : (theta2 x).natAbs ≤ 2 * 16 * 65536
  · have hnot (n : Nat) (hn : 2 * 16 * 65536 ≤ n) : ¬n < (theta2 x).natAbs := by omega
    unfold Disciplined
    rw [applyTheta_near hnear]
    refine ⟨rfl, hbeat, rfl, hkeeper, fun _ => ⟨rfl, rfl, hsplit, hwaits, (freeRate_against _ _).1, (freeRate_against _ _).2, ?_⟩,
      fun h => absurd h (hnot _ le_rfl), fun h => absurd h (hnot _ le_rfl), fun h => absurd h (hnot _ (by decide))⟩
    simp only [Bool.false_eq_true, if_false, hstreak]
  · have hfar := Nat.not_le.1 hnear
    have hbit := applyTheta_splits (s := v) (ref := false) hfar
    unfold Disciplined
    rw [applyTheta_far hfar]
    refine ⟨rfl, hbeat, rfl, hkeeper, fun h => absurd h hnear, fun _ => ⟨rfl, rfl, rfl, hbit⟩, fun _ hnostep => ⟨?_, ?_⟩, fun hfarther => ?_⟩
    · exact (if_neg (Nat.not_lt.2 hnostep)).trans hwaits
    · exact if_neg (by simp [Nat.not_lt.2 hnostep])
    · simp only [hfarther, if_true, waitingBeats, hwaits, hbeat]
      simp

/-! A step of fabric time (15 R446, R454). -/

theorem timeStepEff_record {k : TimeStep} (hk : s.time.step = some k) : ∃ p, (timeStepEff s).time = { s.time with
    ticks := (((s.time.ticks : Int) - 1024 * k.beats) % 2 ^ 64).toNat, atime := (((s.time.ticks : Int) - 1024 * k.beats) % 2 ^ 64).toNat, pulse := p,
    step := none, stepped := true, rate := freeRate k.left s, st := if k.ref then s.time.st else 2 } := by
  refine ⟨s.time.pulse.map fun p => (p.1 - 1024 * k.beats, p.2), ?_⟩
  simp only [timeStepEff, hk]
  cases k.ref with
  | true => exact raiseInt_time ..
  | false => exact (setTimeSt_record ..).trans (congrArg (fun t : TimeUnit => { t with st := 2 }) (raiseInt_time ..))

theorem timeStepEff_bit {k : TimeStep} (hk : s.time.step = some k) : (timeStepEff s).steward.intStatus.getLsbD 7 = true := by
  simp only [timeStepEff, hk]
  split
  · exact raiseInt_bit (by decide) _
  · exact setTimeSt_keepsBit 2 (raiseInt_bit (by decide) _)

theorem timeStep_acts {k : TimeStep} (hk : s.time.step = some k) (hsince : k.since < upBeat s) : answers .timeStep s fun u =>
    u.time.ticks = (((s.time.ticks : Int) - 1024 * k.beats) % 2 ^ 64).toNat ∧ u.time.atime = u.time.ticks ∧ u.time.step = none ∧ u.time.stepped = true ∧
    u.time.up = s.time.up ∧ u.steward.intStatus.getLsbD 7 = true ∧ u.time.rate * k.left.sign ≤ 0 ∧ u.time.rate.natAbs ≤ 200000 ∧
    (k.ref = false → u.time.st = 2) ∧ (k.ref = true → u.time.st = s.time.st) := by
  refine answers_due rfl (by simp [stepDue, hk, hsince]) ?_
  obtain ⟨p, hrecord⟩ := timeStepEff_record hk
  obtain ⟨hsign, hsize⟩ := freeRate_against k.left s
  rw [hrecord]
  exact ⟨rfl, rfl, rfl, rfl, rfl, timeStepEff_bit hk, hsign, hsize, fun href => by simp [href], fun href => by simp [href]⟩

end

/-- Settles O37: what each event makes of the time unit's record, and the frames that it puts out. -/
theorem timeFollowsAndKeeps : Obligations.TimeFollowsAndKeeps := by
  intro s cls
  refine ⟨fun b rank serial hops f hf => announce_acts hf, fun hkeeps hfabric hdue => ?_, fun hready => ?_, fun hruns hdue => stampPeriod_acts hruns hdue,
    fun b x f hf => ⟨fun hready => stamp_takes hf hready rfl, fun hready hother => stamp_takes hf hready (if_pos (.inr hother)), fun hready hfollows hparent =>
      stamp_takes hf hready (stampEff_parent (s := takeFrame b f s) hfollows hparent ?_)⟩, fun k hk hsince => timeStep_acts hk hsince⟩
  · exact answers_due rfl (by simp [hkeeps, hfabric, hdue]) ⟨congrArg TimeUnit.lastAnn (sendAnnounce_record s), sendAnnounce_floods s⟩
  · refine answers_due rfl hready ?_
    rw [keeperTimeoutEff_record]
    exact ⟨rfl, rfl, rfl, rfl, rfl, rfl, keeperTimeoutEff_floods s⟩
  · rw [stampReady, Bool.and_eq_true] at hready
    exact Option.isNone_iff_eq_none.1 hready.1

end Sys2Proof.Machine

/-!
Holdover, the reference input and the latching read (15 R438, R446, R449, R450): every effect.
-/
namespace Sys2Proof.Machine

section
variable {s : State} {edge : Nat}

theorem holdoverEntry_acts (hkeeper : s.time.keeper.isSome = true) (hfollows : s.time.announcing = false) (hst : s.time.st ≠ 3)
    (huse : s.time.lastUse + 64 ≤ upBeat s) : answers .holdoverEntry s fun u =>
      u.time.st = 3 ∧ u.time.holdFrom = some (s.time.up, decide (16 ≤ s.time.streak)) ∧ u.time.rate = s.time.rate ∧ u.time.ticks = s.time.ticks := by
  refine answers_due rfl (by simp [hkeeper, hfollows, hst, huse]) ?_
  rw [setTimeSt_record]
  exact ⟨rfl, rfl, rfl, rfl⟩

theorem holdoverBoundExceeded_acts (hbound : boundExceeded s = true) (hsync : s.time.unsync = false) : answers .holdoverBoundExceeded s fun u =>
    u.time.split = true ∧ u.time.unsync = true ∧ u.time.st = s.time.st ∧ u.time.step = s.time.step ∧ u.steward.intStatus.getLsbD 7 = true := by
  refine answers_due rfl (by simp [hbound, hsync]) ?_
  rw [splitEff_record]
  exact ⟨rfl, rfl, rfl, rfl, splitEff_bit s⟩

/-- What discipline by the reference leaves of the unit (15 R450): everything but the offset, the rate, a split and a step. -/
structure KeepsReference (s : State) (t : TimeUnit) : Prop where
  st : t.st = s.time.st
  lastUse : t.lastUse = s.time.lastUse
  holdFrom : t.holdFrom = s.time.holdFrom
  pulse : t.pulse = s.time.pulse
  setOn : t.setOn = s.time.setOn
  refLock : t.refLock = s.time.refLock
  refGone : t.refGone = s.time.refGone
  pulseBase : t.pulseBase = s.time.pulseBase

theorem applyTheta_keepsReference (th2 : Int) (s : State) : KeepsReference s (applyTheta true th2 s).time := by
  by_cases hnear : th2.natAbs ≤ 2 * 16 * 65536
  · rw [applyTheta_near hnear]
    exact ⟨rfl, rfl, rfl, rfl, rfl, rfl, rfl, rfl⟩
  · rw [applyTheta_far (Nat.not_le.1 hnear)]
    exact ⟨by simp, rfl, rfl, rfl, rfl, rfl, rfl, rfl⟩

/-- A pulse that is noted, before its discipline (15 R450). -/
def notePulse (s : State) (stamp : Int) : State :=
  modTime (fun t => { t with
    setOn := false, pulseBase := if s.time.setOn then t.setTime else t.pulseBase, pulse := some (stamp, t.up),
    refLock := s.time.refLock || pulseSpaced s.time stamp, refGone := t.refGone && !(s.time.refLock || pulseSpaced s.time stamp) }) s

/-- The offset that a pulse shows: from SET_TIME, or from the nearest expected tick (15 R450). -/
def pulseTheta (t : TimeUnit) (a : Int) : Int := if t.setOn then a - t.setTime else pulseOffset t a

/-- A pulse of SET_TIME, or in step, disciplines; any other is noted (15 R450). -/
theorem pulseEff_cases (s : State) (stamp : Int) : pulseEff s stamp =
    if s.time.setOn = true ∨ (s.time.refLock || pulseSpaced s.time stamp) = true then
      applyTheta true (2 * 65536 * pulseTheta s.time (stamp - 1024 * waitingBeats s.time)) (notePulse s stamp)
    else notePulse s stamp := rfl

theorem waitingBeats_eq (t : TimeUnit) : 1024 * waitingBeats t = match t.step with | some k => 1024 * k.beats | none => 0 := by
  unfold waitingBeats
  cases t.step with
  | none => rfl
  | some k => rfl

/-- The fields of the unit's record that a pulse sets, whether it disciplines or not (15 R450). -/
theorem pulseEff_notesRecord (s : State) (stamp : Int) : KeepsReference (notePulse s stamp) (pulseEff s stamp).time := by
  rw [pulseEff_cases]
  split
  · exact applyTheta_keepsReference ..
  · exact ⟨rfl, rfl, rfl, rfl, rfl, rfl, rfl, rfl⟩

theorem pulseEff_offset {stamp : Int} (h : s.time.setOn = true ∨ s.time.refLock = true ∨ pulseSpaced s.time stamp = true) :
    (pulseEff s stamp).time.offset = offsetOf (2 * 65536 * pulseTheta s.time (stamp - 1024 * waitingBeats s.time)) := by
  rw [pulseEff_cases, if_pos (by simpa using h)]
  exact (applyTheta_notes ..).offset

theorem pulseEff_rests {stamp : Int} (hset : s.time.setOn = false) (hlock : s.time.refLock = false) (hspaced : pulseSpaced s.time stamp = false) :
    pulseEff s stamp = notePulse s stamp := by
  rw [pulseEff_cases, if_neg (by simp [hset, hlock, hspaced])]

theorem referencePulse_acts (hruns : s.time.running = true) (henabled : s.time.refEn = true) (hpin : timeInOn s = true) :
    answers (.referencePulse edge) s fun u => ∀ stamp a, stamp = pulseStamp s edge →
        a = stamp - (match s.time.step with | some k => 1024 * k.beats | none => 0) →
        u.time.pulse = some (stamp, s.time.up) ∧ u.time.setOn = false ∧ u.time.st = s.time.st ∧
        u.time.lastUse = s.time.lastUse ∧ u.time.holdFrom = s.time.holdFrom ∧
        (s.time.refLock = true ∨ pulseSpaced s.time stamp = true → u.time.refLock = true ∧ u.time.refGone = false) ∧
        (s.time.refLock = false → pulseSpaced s.time stamp = false → u.time.refLock = false) ∧
        (s.time.setOn = true → u.time.pulseBase = s.time.setTime ∧ u.time.offset = offsetOf (2 * 65536 * (a - s.time.setTime))) ∧
        (s.time.setOn = false → u.time.pulseBase = s.time.pulseBase) ∧
        (s.time.setOn = false → s.time.refLock = true ∨ pulseSpaced s.time stamp = true → u.time.offset = offsetOf (2 * 65536 * pulseOffset s.time a)) ∧
        (s.time.setOn = false → s.time.refLock = false → pulseSpaced s.time stamp = false → u.time.offset = s.time.offset ∧ u.time.rate = s.time.rate) := by
  refine answers_due rfl (by simp [hruns, henabled, hpin]) ?_
  rintro stamp a rfl rfl
  generalize pulseStamp s edge = stamp
  rw [← waitingBeats_eq]
  obtain ⟨hst, huse, hhold, hpulse, hset, hlock, hgone, hbase⟩ := pulseEff_notesRecord s stamp
  rw [hst, huse, hhold, hpulse, hset, hlock, hgone, hbase]
  refine ⟨rfl, rfl, rfl, rfl, rfl, fun h => ?_, fun hunlocked hodd => ?_, fun hfirst => ⟨?_, ?_⟩, fun hlater => ?_, fun hlater h => ?_, fun hlater hunlocked hodd => ?_⟩
  · have hlocked : (s.time.refLock || pulseSpaced s.time stamp) = true := by simpa using h
    simp [notePulse, hlocked]
  · simp [notePulse, hunlocked, hodd]
  · simp [notePulse, hfirst]
  · rw [pulseEff_offset (.inl hfirst), pulseTheta, if_pos hfirst]
  · simp [notePulse, hlater]
  · rw [pulseEff_offset (.inr h), pulseTheta, if_neg (by simp [hlater])]
  · rw [pulseEff_rests hlater hunlocked hodd]
    exact ⟨rfl, rfl⟩

/-- Fabric time does not go back (15 R437). -/
theorem timeAt_forward (t : TimeUnit) (sub frac : Nat) : t.ticks ≤ (timeAt t sub frac).1 := by
  unfold timeAt
  extract_lets x
  split
  next h => exact h.le
  next => exact le_rfl

theorem timeNowLo_acts (s : State) (tag sub frac : Nat) :
    (s.time.running = true → answers (.timeNowLo tag sub frac) s fun u => ∀ t, t = timeAt s.time sub frac →
        regAnswered u tag 0 (leBytes 4 t.1) ∧ u.time.latchHi = t.1 / 2 ^ 32 % 2 ^ 32 ∧ u.time.latchFrac = t.2 ∧
        u.time.ticks = t.1 ∧ u.time.frac = t.2 ∧ s.time.ticks ≤ u.time.ticks) ∧
      (s.time.running = false → answers (.timeNowLo tag sub frac) s fun u => regAnswered u tag 0 (leBytes 4 0) ∧ u.time = s.time) := by
  refine ⟨fun hruns => ⟨_, congrArg Host.Outcome.next (if_pos hruns), ?_⟩, fun hstops => ⟨_, congrArg Host.Outcome.next (if_neg (by simp [hstops])), ?_⟩⟩
  · rintro t rfl
    refine ⟨regReply_answers .., ?_⟩
    rw [timeNowEff, regReply_time]
    exact ⟨rfl, rfl, rfl, rfl, timeAt_forward ..⟩
  · exact ⟨regReply_answers .., regReply_time ..⟩

end

/-- Settles O38: what each event makes of the time unit's record. -/
theorem timeHoldsAndLocks : Obligations.TimeHoldsAndLocks := by
  intro s
  refine ⟨fun hkeeper hfollows hst huse => holdoverEntry_acts hkeeper hfollows hst huse, fun hbound hsync => holdoverBoundExceeded_acts hbound hsync,
    fun edge stamp a hruns henabled hpin hstamp ha => ?_, fun henabled hthere hlate => ?_, fun tag sub frac => timeNowLo_acts s tag sub frac⟩
  · obtain ⟨u, hu, hacts⟩ := referencePulse_acts hruns henabled hpin
    exact ⟨u, hu, hacts stamp a hstamp ha⟩
  · refine answers_due rfl (by simp [henabled, hthere, hlate]) ?_
    rw [raiseInt_time]
    exact ⟨rfl, rfl, rfl, raiseInt_bit (by decide) _⟩

end Sys2Proof.Machine

/-!
Wear and proactive replacement (17 R484, R486, R497): every effect.
-/
namespace Sys2Proof.Machine

section
variable {s : State} {kind index bank mv l : Nat}

theorem tabGet_tabPut_same (t : Tab Nat) (a x : Nat) : tabGet 0 (tabPut 0 t a x) a = x := (tabGet_put ..).trans (if_pos rfl)

/-! Wear (17 R484, R486). -/

theorem unitOf_modUnit_ne {k i k' i' : Nat} (f : UnitRec → UnitRec) (s : State) (h : unitKey k i ≠ unitKey k' i') :
    unitOf (modUnit k i f s) k' i' = unitOf s k' i' := by
  rw [unitOf, modUnit, tabMod, tabGet_put, if_neg h, unitOf]

/-- What the sampled unit holds (17 R486). -/
def sampledUnit (x : WearSample) (s : State) (u : UnitRec) : UnitRec :=
  let ss := (x.wear :: (unitOf s x.kind x.index).samples).take 1000
  { u with wear := x.wear, samples := ss, life := lifeOf x.kind x.index ss }

/-- A sample changes its unit's record, whatever replacement it asks for (17 R486, R497). -/
theorem wearSample_unit (x : WearSample) (s : State) (k i : Nat) :
    unitOf (wearSample x s) k i = unitOf (modUnit x.kind x.index (sampledUnit x s) s) k i := by
  unfold wearSample
  extract_lets ss life t
  have ht : t = modUnit x.kind x.index (sampledUnit x s) s := rfl
  rw [← ht]
  clear_value life t
  split
  · split
    · exact unitOf_wantReplace ..
    · rfl
  · rfl

/-- Samples of other units leave a unit's record. -/
theorem wearSamples_other : ∀ (xs : List WearSample) (s : State), (∀ y ∈ xs, unitKey y.kind y.index ≠ unitKey kind index) →
    unitOf (wearSamples xs s) kind index = unitOf s kind index
  | [], _, _ => rfl
  | x :: xs, s, h => by
    obtain ⟨hx, hxs⟩ := List.forall_mem_cons.1 h
    rw [wearSamples, wearSamples_other xs _ hxs]
    split
    · rw [wearSample_unit, unitOf_modUnit_ne _ _ hx]
    · rfl

theorem wearSamples_append : ∀ (xs ys : List WearSample) (s : State), wearSamples (xs ++ ys) s = wearSamples ys (wearSamples xs s)
  | [], _, _ => rfl
  | x :: xs, ys, s => by
    rw [List.cons_append, wearSamples, wearSamples, wearSamples_append xs]

theorem unitExists_wearSamples (xs : List WearSample) (s : State) : unitExists (wearSamples xs s) kind index = unitExists s kind index := by
  have hkept := (wearSamples_only (P := (· = .health)) rfl xs only_refl (s := s)).params (by simp)
  unfold unitExists
  rw [hkept]

/-- A unit that is sampled once holds its sample first (17 R486). -/
theorem wearSamples_sampled (a : List WearSample) (x : WearSample) (b : List WearSample) (s : State)
    (honce : ∀ y ∈ a ++ b, unitKey y.kind y.index ≠ unitKey x.kind x.index) (hthere : unitExists s x.kind x.index = true) :
    unitOf (wearSamples (a ++ x :: b) s) x.kind x.index = sampledUnit x s (unitOf s x.kind x.index) := by
  obtain ⟨ha, hb⟩ := List.forall_mem_append.1 honce
  have hbefore := wearSamples_other a s ha
  rw [wearSamples_append, wearSamples, wearSamples_other b _ hb, if_pos ((unitExists_wearSamples a s).trans hthere), wearSample_unit, unitOf_modUnit, sampledUnit,
    hbefore, sampledUnit]

theorem wearPrediction_acts (hruns : s.time.running = true) (xs : List WearSample) : answers (.wearPrediction xs) s fun u =>
    (∀ a x b, xs = a ++ x :: b → (∀ y ∈ a ++ b, unitKey y.kind y.index ≠ unitKey x.kind x.index) → unitExists s x.kind x.index = true →
      (unitOf u x.kind x.index).wear = x.wear ∧ (unitOf u x.kind x.index).samples = (x.wear :: (unitOf s x.kind x.index).samples).take 1000 ∧
        (unitOf u x.kind x.index).life = lifeOf x.kind x.index (unitOf u x.kind x.index).samples) ∧
    (∀ k i, (∀ y ∈ xs, unitKey y.kind y.index ≠ unitKey k i) → unitOf u k i = unitOf s k i) := by
  refine answers_due rfl hruns ⟨?_, fun k i hothers => wearSamples_other xs s hothers⟩
  rintro a x b rfl honce hthere
  rw [wearSamples_sampled a x b s honce hthere]
  exact ⟨rfl, rfl, rfl⟩

theorem marginRowTest_acts (hruns : s.time.running = true) (hthere : unitExists s 4 bank = true) : answers (.marginRowTest bank mv) s fun u =>
    tabGet 0 u.health.margins bank = mv ∧ (unitOf u 4 bank).wear = mv := by
  refine answers_dueAt rfl hthere hruns ⟨tabGet_tabPut_same s.health.margins bank mv, ?_⟩
  rw [unitOf_modUnit]

/-! Proactive replacement (17 R497). -/

theorem proactiveEff_noSpare (hnone : hasSpare s kind index = false) :
    proactiveEff s kind index = modHealth (fun h => { h with replaceQ := h.replaceQ.erase (kind, index) }) s := if_neg (by simp [hnone])

theorem proactiveEff_begins (hspare : hasSpare s kind index = true) (hkind : kind ≠ 5) : (kind, index) ∈ (proactiveEff s kind index).health.replacing := by
  have heff : proactiveEff s kind index = modHealth (fun h => { h with replacing := h.replacing ++ [(kind, index)] })
      (modHealth (fun h => { h with replaceQ := h.replaceQ.erase (kind, index) }) s) := (if_pos hspare).trans (if_neg hkind)
  rw [heff]
  exact List.mem_append_right _ (List.mem_singleton.2 rfl)

theorem proactiveEff_lane (hspare : hasSpare s 5 index = true) : (proactiveEff s 5 index).health.evProact = satInc 255 s.health.evProact ∧
    (proactiveEff s 5 index).health.spareUsed = true ∧
    ∃ w ∈ (proactiveEff s 5 index).links.swaps, w.gate = index / 26 ∧ w.old = index % 26 ∧ w.lane = (portOf s (index / 26) (index % 26)).logical := by
  obtain ⟨-, q, hq⟩ : (portOf s (index / 26) (index % 26)).st = 5 ∧ ∃ q, standbyFor s (index / 26) (index % 26) = some q := by
    simpa [hasSpare, Option.isSome_iff_exists] using hspare
  simp only [proactiveEff, hspare, hq, if_true]
  refine ⟨?_, ?_, ?_⟩
  · rw [modHealth_health, markSpare_health, startSwap_health]
    rfl
  · rw [modHealth_health, markSpare_health]
  · rw [modHealth_links, (markSpare_only (P := (· ≠ .links)) (by simp) (by simp) (by simp) only_refl).links (by simp), startSwap, modPorts_swaps]
    exact ⟨_, List.mem_append_right _ (List.mem_singleton.2 rfl), rfl, rfl, rfl⟩

/-! The end of a replacement (17 R497). -/

/-- What the end of a replacement notes, before the mapping. -/
def endReplacing (kind index : Nat) (h : Health) : Health :=
  { h with replacing := h.replacing.erase (kind, index), evProact := satInc 255 h.evProact, recDue := true }

/-- The mapping of a replacement leaves the rest of the health unit's record. -/
theorem replacementEndEff_remapped (s : State) (kind index : Nat) : Remapped (endReplacing kind index s.health) (replacementEndEff s kind index).health := by
  rw [replacementEndEff, settleHealth_health]
  generalize ht : modHealth _ s = t
  have hnoted : t.health = endReplacing kind index s.health := ht ▸ rfl
  rw [← hnoted]
  split
  · exact replaceMould_remapped ..
  · split
    next l _ =>
      have hin : (bringIn (index / 17) (.spare l) t).health = t.health := rfl
      rw [← hin]
      exact mapSpare_remapped ..
    next => exact .refl _

theorem mapSpare_maps (h l : Nat) (s : State) : tabGet 0 (mapSpare h l s).health.map.roomMap (16 * h + l) = 17 ∧ (mapSpare h l s).health.spareUsed = true := by
  unfold mapSpare
  extract_lets p
  rw [markSpare_health]
  exact ⟨tabGet_tabPut_same s.health.map.roomMap _ 17, rfl⟩

theorem replacementEndEff_room (hkind : kind ≠ 2) (hserved : servedBy s (index / 17) (index % 17) = some l) :
    tabGet 0 (replacementEndEff s kind index).health.map.roomMap (16 * (index / 17) + l) = 17 ∧ (replacementEndEff s kind index).health.spareUsed = true := by
  rw [replacementEndEff, settleHealth_health, if_neg hkind]
  generalize ht : modHealth _ s = t
  have hserved' : servedBy t (index / 17) (index % 17) = some l := ht ▸ hserved
  rw [hserved']
  exact mapSpare_maps ..

/-- A replaced mould gives up a row that is none, and else a column (17 R497, log 35). -/
theorem replaceMould_gives (index : Nat) (s : State) :
    (tabGet 0 s.health.map.rowMap index = 0 → ∃ r, r < 129 ∧ tabGet 0 (replaceMould index s).health.map.rowMap index = r + 1) ∧
    (tabGet 0 s.health.map.rowMap index ≠ 0 → ∃ c, c < 33 ∧ tabGet 0 (replaceMould index s).health.map.colMap index = c + 1) := by
  refine ⟨fun hnone => ⟨Config.freeNat s.freeCtr % 129, Nat.mod_lt _ (by decide), ?_⟩, fun hmapped => ⟨Config.freeNat s.freeCtr % 33, Nat.mod_lt _ (by decide), ?_⟩⟩
  · rw [replaceMould, if_pos hnone, applyAct, markSpare_health]
    exact tabGet_tabPut_same s.health.map.rowMap index (Config.freeNat s.freeCtr % 129 + 1)
  · rw [replaceMould, if_neg hmapped, applyAct, markSpare_health]
    exact tabGet_tabPut_same s.health.map.colMap index (Config.freeNat s.freeCtr % 33 + 1)

theorem replacementEndEff_mould (s : State) (index : Nat) : (replacementEndEff s 2 index).health =
    (replaceMould index { s with health := endReplacing 2 index s.health }).health := by
  rw [replacementEndEff, settleHealth_health]
  rfl

theorem replacementEnd_acts (hthere : unitExists s kind index = true) (hruns : (kind, index) ∈ s.health.replacing) : answers (.replacementEnd kind index) s fun u =>
    u.health.replacing = s.health.replacing.erase (kind, index) ∧ u.health.evProact = satInc 255 s.health.evProact ∧ u.health.recDue = true ∧
    (kind ≠ 2 → ∀ l, servedBy s (index / 17) (index % 17) = some l → tabGet 0 u.health.map.roomMap (16 * (index / 17) + l) = 17 ∧ u.health.spareUsed = true) ∧
    (kind = 2 → tabGet 0 s.health.map.rowMap index = 0 → ∃ r, r < 129 ∧ tabGet 0 u.health.map.rowMap index = r + 1) ∧
    (kind = 2 → tabGet 0 s.health.map.rowMap index ≠ 0 → ∃ c, c < 33 ∧ tabGet 0 u.health.map.colMap index = c + 1) := by
  have hkept := replacementEndEff_remapped s kind index
  refine answers_dueAt rfl hthere (by simpa using hruns) ⟨hkept.field Health.replacing fun _ _ _ _ _ _ => rfl, hkept.field Health.evProact fun _ _ _ _ _ _ => rfl,
    hkept.field Health.recDue fun _ _ _ _ _ _ => rfl, fun hkind l hserved => replacementEndEff_room hkind hserved, ?_, ?_⟩
  · rintro rfl hnone
    rw [replacementEndEff_mould]
    exact (replaceMould_gives index { s with health := endReplacing 2 index s.health }).1 hnone
  · rintro rfl hmapped
    rw [replacementEndEff_mould]
    exact (replaceMould_gives index { s with health := endReplacing 2 index s.health }).2 hmapped

end

/-- Settles O41: what the samples make of each unit's record, and what a replacement makes of the mappings. -/
theorem wearAndReplacement : Obligations.WearAndReplacement := by
  intro s
  refine ⟨fun hruns xs => wearPrediction_acts hruns xs, fun bank mv hruns hthere => marginRowTest_acts hruns hthere,
    fun kind index hthere hready => answers_dueAt rfl hthere hready ⟨proactiveEff_unqueued s kind index, fun hnone => ?_, fun hspare hkind => proactiveEff_begins hspare hkind,
      ?_⟩, fun kind index hthere hruns => replacementEnd_acts hthere hruns⟩
  · rw [proactiveEff_noSpare hnone, modHealth_health]
  · rintro hspare rfl
    exact proactiveEff_lane hspare

end Sys2Proof.Machine

/-!
The governor (16 R458 to R475): every effect of a control interval, of a gap's end, of a hold's end and of a pre-ramp's start.
-/
namespace Sys2Proof.Machine

section
variable {s : State} {tele : Telemetry} {room unit h : Nat}

/-! The events of the halls (16 R467, R473, R475). -/

/-- The record differs in what the events of the halls note, and a critical temperature stays noted. -/
structure EventsNoted (p p' : Power) : Prop where
  same : ∃ rise rises hallLimited thermHot thermCrit,
    p' = { p with rise := rise, rises := rises, hallLimited := hallLimited, thermHot := thermHot, thermCrit := thermCrit }
  crit : p.thermCrit = true → p'.thermCrit = true

theorem EventsNoted.refl (p : Power) : EventsNoted p p := ⟨⟨p.rise, p.rises, p.hallLimited, p.thermHot, p.thermCrit, rfl⟩, id⟩

theorem EventsNoted.trans {p p' p'' : Power} (h : EventsNoted p p') (h' : EventsNoted p' p'') : EventsNoted p p'' := by
  obtain ⟨⟨_, _, _, _, _, rfl⟩, hcrit⟩ := h
  obtain ⟨⟨_, _, _, _, _, rfl⟩, hcrit'⟩ := h'
  exact ⟨⟨_, _, _, _, _, rfl⟩, hcrit' ∘ hcrit⟩

/-- An event changes the record where it happens. -/
theorem event_power (b : Prop) [Decidable b] (n : Nat) (f : Power → Power) (s : State) :
    (if b then raiseInt n (modPower f s) else s).power = if b then f s.power else s.power := by
  split
  · exact raiseInt_power ..
  · rfl

theorem EventsNoted.event {b : Prop} [Decidable b] {n : Nat} {f : Power → Power} (h : EventsNoted s.power (f s.power)) :
    EventsNoted s.power (if b then raiseInt n (modPower f s) else s).power := by
  rw [event_power]
  split
  · exact h
  · exact .refl _

/-- The events of the halls change no more than what they note, and a hall at 112 degrees sets THERM_CRIT (16 R475). -/
theorem hallEvents_noted (tele : Telemetry) : ∀ (hs : List Nat) (s : State), EventsNoted s.power (hallEvents tele hs s).power ∧
    ∀ h ∈ hs, 112 ≤ tele.hallTj.getD h 0 → (hallEvents tele hs s).power.thermCrit = true
  | [], s => ⟨.refl _, fun _ hin => by cases hin⟩
  | h :: hs, s => by
    unfold hallEvents
    extract_lets x amps tj s₁ s₂ s₃ s₄
    have hrise : EventsNoted s.power s₁.power := .event ⟨⟨_, _, _, _, _, rfl⟩, id⟩
    have hlimit : EventsNoted s₁.power s₂.power := .event ⟨⟨_, _, _, _, _, rfl⟩, id⟩
    have hhot : EventsNoted s₂.power s₃.power := .event ⟨⟨_, _, _, _, _, rfl⟩, id⟩
    have hcrit : EventsNoted s₃.power s₄.power := .event ⟨⟨_, _, _, _, _, rfl⟩, fun _ => rfl⟩
    have hset (hot : 112 ≤ tj) : s₄.power.thermCrit = true := by
      unfold s₄
      rw [event_power, if_pos hot]
    clear_value s₁ s₂ s₃ s₄
    obtain ⟨hrest, hothers⟩ := hallEvents_noted tele hs s₄
    refine ⟨hrise.trans (hlimit.trans (hhot.trans (hcrit.trans hrest))), fun k hk hot => ?_⟩
    rcases List.mem_cons.1 hk with rfl | hmem
    · exact hrest.crit (hset hot)
    · exact hothers k hmem hot

/-! The halls (16 R467). -/

theorem hallPow_modHall_ne {h k : Nat} (f : HallPow → HallPow) (s : State) (hne : h ≠ k) : hallPow (modHall h f s) k = hallPow s k := by
  simp [hallPow, modHall, modPower, hne]

theorem hallPow_modHalls_out (f : Nat → HallPow → HallPow) : ∀ (hs : List Nat) (s : State), h ∉ hs → hallPow (modHalls f hs s) h = hallPow s h
  | [], _, _ => rfl
  | k :: hs, s, hout => by
    obtain ⟨hne, hrest⟩ := not_or.1 (mt List.mem_cons.2 hout)
    rw [modHalls, hallPow_modHalls_out f hs _ hrest, hallPow_modHall_ne _ _ (Ne.symm hne)]

/-- Each hall of a list without repeats changes once. -/
theorem hallPow_modHalls (f : Nat → HallPow → HallPow) : ∀ (hs : List Nat) (s : State), hs.Nodup → h ∈ hs → hallPow (modHalls f hs s) h = f h (hallPow s h)
  | [], _, _, hin => by cases hin
  | k :: hs, s, hnodup, hin => by
    obtain ⟨hout, hrest⟩ := List.nodup_cons.1 hnodup
    rw [modHalls]
    rcases List.mem_cons.1 hin with rfl | hmem
    · rw [hallPow_modHalls_out f hs _ hout, hallPow_modHall]
    · rw [hallPow_modHalls f hs _ hrest hmem, hallPow_modHall_ne]
      rintro rfl
      exact hout hmem

theorem modHalls_record (f : Nat → HallPow → HallPow) : ∀ (hs : List Nat) (s : State), ∃ halls, (modHalls f hs s).power = { s.power with halls := halls }
  | [], s => ⟨s.power.halls, rfl⟩
  | h :: hs, s => by
    obtain ⟨halls, hrest⟩ := modHalls_record f hs (modHall h (f h) s)
    exact ⟨halls, hrest⟩

/-! The cap and the setpoint (16 R461, R464). -/

theorem capAt_record (k : Nat) (s : State) : ∃ lim now, (capAt k s).power = { s.power with capStep := k, capLimited := lim, limNow := now } := by
  unfold capAt
  extract_lets t
  split
  · exact ⟨true, true, raiseInt_power ..⟩
  · exact ⟨_, _, rfl⟩

/-- The step of the cap moves by at most one (16 R461). -/
theorem capMove_record (draw : Nat) (s : State) : ∃ gaps lim now, (capMove draw s).power = { s.power with
    capStep := if overCap draw s then (if capExhausted s then min 7 (s.power.capStep + 1) else s.power.capStep) else s.power.capStep - 1,
    gaps := gaps, capLimited := lim, limNow := now } := by
  unfold capMove
  extract_lets high k
  obtain ⟨lim, now, hrecord⟩ := capAt_record (if high then (if capExhausted s then min 7 (k + 1) else k) else k - 1)
    (modPower (fun p => { p with gaps := if high = true ∧ k = 1 then p.gaps.drop 1 else p.gaps }) { s with freeCtr := s.freeCtr + 1 })
  exact ⟨_, lim, now, hrecord⟩

/-- A setpoint one code nearer to what is asked for, unless it has moved (16 R464). -/
theorem oneCode (moved : Bool) (v w : Nat) : (if moved then v else if v < w then v + 1 else if w < v then v - 1 else v) ≤ v + 1 ∧
    v ≤ (if moved then v else if v < w then v + 1 else if w < v then v - 1 else v) + 1 ∧
    (moved = true → (if moved then v else if v < w then v + 1 else if w < v then v - 1 else v) = v) := by
  cases moved with
  | true => simp
  | false =>
    simp only [Bool.false_eq_true, if_false, false_implies, and_true]
    split
    · omega
    · split
      · omega
      · omega

/-- The setpoint moves by at most one code, and not twice in a beat (16 R464). -/
theorem moveVcore_record (s : State) : ∃ v was lim now, (moveVcore s).power = { s.power with
    vMoved := true, vWas := was, vcore := v, capLimited := lim, limNow := now } ∧
    v ≤ s.power.vcore + 1 ∧ s.power.vcore ≤ v + 1 ∧ (s.power.vMoved = true → v = s.power.vcore) := by
  unfold moveVcore
  extract_lets w v lim forPace t
  have hpower : (if lim then raiseInt 5 t else t).power = t.power := by
    split
    · exact raiseInt_power ..
    · rfl
  rw [hpower]
  exact ⟨if s.power.vMoved then v else if v < w then v + 1 else if w < v then v - 1 else v, _, _, _, rfl, oneCode s.power.vMoved v w⟩

/-! A thermal trip (16 R475). -/

theorem thermalTrip_record (s : State) : (thermalTrip s).power = { s.power with tripped := true } := by
  unfold thermalTrip
  split
  next h => rw [← h]
  next => exact (haltAll_only (P := (· ≠ .power)) (by simp) (by simp) _ _ _ only_refl).power (by simp)

/-- The first trip tells the sequencer and halts every launched task (16 R475). -/
theorem thermalTrip_trips (hfirst : s.power.tripped = false) : (thermalTrip s).seq.trips = s.seq.trips ++ [(2, upBeat s)] ∧
    ∀ t, taskOf s t.num = some t → t.state = .launched → t.halting = false → halts (thermalTrip s) t.num 0x0C01 := by
  unfold thermalTrip
  rw [if_neg (by simp [hfirst])]
  refine ⟨?_, fun t ht hlaunched hruns => ?_⟩
  · rw [(haltAll_only (P := (· ≠ .seq)) (by simp) (by simp) _ _ _ only_refl).seq (by simp)]
  · exact halts_haltLaunched (s := { s with power := { s.power with tripped := true }, seq := { s.seq with trips := s.seq.trips ++ [(2, upBeat s)] } })
      ht hlaunched hruns

/-! A control interval (16 R458). -/

/-- The measurements of an interval in every hall and in the sums, before the governor moves. -/
def intervalTaken (s : State) (tele : Telemetry) : State :=
  railSums tele (modPower (fun p => { p with ivCount := p.ivCount + 1, wSum := p.wSum + drawOf tele })
    (modHalls (fun h x => hallInterval s.power.cfg (teleWatts tele 1) (teleWatts tele 2) (teleHall tele h) (tele.hallTj.getD h 0) x) (hallNums s)
      (hallEvents tele (hallNums s) s)))

/-- The moves of the governor in an interval. -/
def intervalMoved (s : State) (tele : Telemetry) : State := moveVcore (capMove (drawOf tele) (intervalTaken s tele))

theorem controlEff_eq (s : State) (tele : Telemetry) :
    controlEff s tele = if trips s tele then thermalTrip (intervalMoved s tele) else intervalMoved s tele := rfl

/-- What the measurements leave as it was: all but the halls, the sums, and what the events note. -/
theorem intervalTaken_record (s : State) (tele : Telemetry) : ∃ rise rises hallLimited thermHot thermCrit halls rails, (intervalTaken s tele).power = { s.power with
    rise := rise, rises := rises, hallLimited := hallLimited, thermHot := thermHot, thermCrit := thermCrit, halls := halls, rails := rails,
    ivCount := s.power.ivCount + 1, wSum := s.power.wSum + drawOf tele } ∧ ∀ h < s.params.halls, 112 ≤ tele.hallTj.getD h 0 → thermCrit = true := by
  obtain ⟨⟨⟨rise, rises, hallLimited, thermHot, thermCrit, hnoted⟩, -⟩, hcrit⟩ := hallEvents_noted tele (hallNums s) s
  obtain ⟨halls, hhalls⟩ := modHalls_record (fun h x => hallInterval s.power.cfg (teleWatts tele 1) (teleWatts tele 2) (teleHall tele h) (tele.hallTj.getD h 0) x)
    (hallNums s) (hallEvents tele (hallNums s) s)
  rw [hnoted] at hhalls hcrit
  refine ⟨rise, rises, hallLimited, thermHot, thermCrit, halls, (intervalTaken s tele).power.rails, ?_, fun h hh hot => hcrit h (List.mem_range.2 hh) hot⟩
  rw [intervalTaken, railSums, modPower_power, modPower_power, hhalls]

/-- Each hall holds its current and its temperature (16 R467). -/
theorem intervalTaken_hall (hh : h < s.params.halls) : hallPow (intervalTaken s tele) h =
    hallInterval s.power.cfg (teleWatts tele 1) (teleWatts tele 2) (teleHall tele h) (tele.hallTj.getD h 0) (hallPow s h) := by
  obtain ⟨⟨⟨_, _, _, _, _, hnoted⟩, -⟩, -⟩ := hallEvents_noted tele (hallNums s) s
  have hhall : hallPow (hallEvents tele (hallNums s) s) h = hallPow s h := by rw [hallPow, hnoted, hallPow]
  exact (hallPow_modHalls _ (hallNums s) _ List.nodup_range (List.mem_range.2 hh)).trans (by rw [hhall])

/-- The draw of an interval exceeds the cap as the state before it tells (16 R457, R461). -/
theorem overCap_intervalTaken (s : State) (tele : Telemetry) : overCap (drawOf tele) (intervalTaken s tele) =
    (decide (8 * capOf s < drawOf tele) || decide (8 * capOf s < forecastDraw s) ||
      decide (64 * (8 * capOf s) < s.power.draws.sum + (s.power.wSum + drawOf tele) / (s.power.ivCount + 1))) := by
  obtain ⟨_, _, _, _, _, _, _, hrecord, -⟩ := intervalTaken_record s tele
  have hkept : changesOnly (· ∈ ([.intStatus, .messages, .power] : List Part)) s (intervalTaken s tele) :=
    railSums_only (by decide) tele (modPower_only (by decide) _ (modHalls_only (by decide) _ _ (hallEvents_only (by decide) (by decide) (by decide) tele _ only_refl)))
  have hcap : capOf (intervalTaken s tele) = capOf s := by rw [capOf, hrecord, hkept.params (by decide), capOf]
  have hforecast : forecastDraw (intervalTaken s tele) = forecastDraw s := by rw [forecastDraw, hkept.freeCtr (by decide), forecastDraw]
  have hwindow : windowDraw (intervalTaken s tele) = s.power.draws.sum + (s.power.wSum + drawOf tele) / (s.power.ivCount + 1) := by
    rw [windowDraw, hrecord, Nat.max_eq_right (Nat.le_add_left 1 _)]
  rw [overCap, hcap, hforecast, hwindow]

/-- What an interval makes of the governor's record (16 R458 to R464, R475). -/
structure IntervalRecord (s : State) (tele : Telemetry) (p : Power) : Prop where
  ivCount : p.ivCount = s.power.ivCount + 1
  wSum : p.wSum = s.power.wSum + drawOf tele
  halls : p.halls = (intervalTaken s tele).power.halls
  thermCrit : ∀ h < s.params.halls, 112 ≤ tele.hallTj.getD h 0 → p.thermCrit = true
  vMoved : p.vMoved = true
  vUp : p.vcore ≤ s.power.vcore + 1
  vDown : s.power.vcore ≤ p.vcore + 1
  vOnce : s.power.vMoved = true → p.vcore = s.power.vcore
  capStep : p.capStep = if overCap (drawOf tele) (intervalTaken s tele) then
    (if capExhausted (intervalTaken s tele) then min 7 (s.power.capStep + 1) else s.power.capStep) else s.power.capStep - 1

theorem intervalMoved_record (s : State) (tele : Telemetry) :
    IntervalRecord s tele (intervalMoved s tele).power ∧ (intervalMoved s tele).power.tripped = s.power.tripped := by
  obtain ⟨_, _, _, _, _, _, _, htaken, hcrit⟩ := intervalTaken_record s tele
  obtain ⟨_, _, _, hcap⟩ := capMove_record (drawOf tele) (intervalTaken s tele)
  obtain ⟨v, _, _, _, hmoved, hup, hdown, honce⟩ := moveVcore_record (capMove (drawOf tele) (intervalTaken s tele))
  have hhalls : (intervalMoved s tele).power.halls = (intervalTaken s tele).power.halls := by rw [intervalMoved, hmoved, hcap]
  rw [hcap, htaken] at hmoved hup hdown honce
  refine ⟨⟨?_, ?_, hhalls, fun h hh hot => ?_, ?_, ?_, ?_, ?_, ?_⟩, ?_⟩
  all_goals rw [intervalMoved, hmoved]
  · exact hcrit h hh hot
  · exact hup
  · exact hdown
  · exact honce

theorem intervalMoved_kept (s : State) (tele : Telemetry) :
    changesOnly (· ∈ ([.freeCtr, .intStatus, .messages, .links, .power] : List Part)) s (intervalMoved s tele) :=
  moveVcore_only (by decide) (by decide) (by decide) (by decide) (capMove_only (by decide) (by decide) (by decide) (by decide) (by decide) _
    (railSums_only (by decide) tele (modPower_only (by decide) _ (modHalls_only (by decide) _ _
      (hallEvents_only (by decide) (by decide) (by decide) tele _ only_refl)))))

/-- A hall at or above 120 degrees is a trip. -/
theorem trips_iff : trips s tele = true ↔ ∃ h, h < s.params.halls ∧ 120 ≤ tele.hallTj.getD h 0 := by
  simp [trips, hallNums]

/-- A trip changes no more of the record than that it is one (16 R475). -/
theorem controlEff_record (s : State) (tele : Telemetry) : IntervalRecord s tele (controlEff s tele).power := by
  obtain ⟨hmoved, -⟩ := intervalMoved_record s tele
  rw [controlEff_eq]
  split
  · rw [thermalTrip_record]
    exact ⟨hmoved.ivCount, hmoved.wSum, hmoved.halls, hmoved.thermCrit, hmoved.vMoved, hmoved.vUp, hmoved.vDown, hmoved.vOnce, hmoved.capStep⟩
  · exact hmoved

theorem controlEff_trips (htrips : trips s tele = true) : (controlEff s tele).power.tripped = true ∧ (s.power.tripped = false →
    (controlEff s tele).seq.trips = s.seq.trips ++ [(2, upBeat s)] ∧
      ∀ t, taskOf s t.num = some t → t.state = .launched → t.halting = false → halts (controlEff s tele) t.num 0x0C01) := by
  obtain ⟨-, hstands⟩ := intervalMoved_record s tele
  have hkept := intervalMoved_kept s tele
  rw [controlEff_eq, if_pos htrips, thermalTrip_record]
  refine ⟨rfl, fun hfirst => ?_⟩
  obtain ⟨htold, hhalts⟩ := thermalTrip_trips (s := intervalMoved s tele) (hstands.trans hfirst)
  refine ⟨?_, fun t ht => hhalts t ((taskOf_of_tasks (hkept.steward_tasks (by decide)) _).trans ht)⟩
  rw [htold, hkept.seq (by decide), upBeat, hkept.time (by decide), upBeat]

/-- Each hall after an interval is as it was measured (16 R467). -/
theorem controlEff_hall (hh : h < s.params.halls) : hallPow (controlEff s tele) h =
    hallInterval s.power.cfg (teleWatts tele 1) (teleWatts tele 2) (teleHall tele h) (tele.hallTj.getD h 0) (hallPow s h) := by
  rw [← intervalTaken_hall hh, hallPow, (controlEff_record s tele).halls, hallPow]

/-- What an interval that ends shows of every hall and of the governor (16 R458 to R475). -/
theorem controlInterval_acts (hruns : s.time.running = true) (hfew : s.power.ivCount < 16) (hsamples : 4 ≤ tele.samples.length) :
    answers (.controlInterval tele) s fun u =>
      u.power.ivCount = s.power.ivCount + 1 ∧ u.power.wSum = s.power.wSum + drawOf tele ∧
      u.power.vcore ≤ s.power.vcore + 1 ∧ s.power.vcore ≤ u.power.vcore + 1 ∧ (s.power.vMoved = true → u.power.vcore = s.power.vcore) ∧ u.power.vMoved = true ∧
      (∀ high, high = (decide (8 * capOf s < drawOf tele) || decide (8 * capOf s < forecastDraw s) ||
          decide (64 * (8 * capOf s) < s.power.draws.sum + (s.power.wSum + drawOf tele) / (s.power.ivCount + 1))) →
        (high = false → u.power.capStep = s.power.capStep - 1) ∧
        (high = true → s.power.capStep ≤ 7 → s.power.capStep ≤ u.power.capStep ∧ u.power.capStep ≤ s.power.capStep + 1)) ∧
      (∀ h, h < s.params.halls → ∀ tj : Int, tj = tele.hallTj.getD h 0 → (hallPow u h).ivAmps = teleHall tele h ∧ (hallPow u h).tj = tj ∧
        (hallPow u h).throttle = (hallPow s h).throttle ∧
        (tj > (s.power.cfg.tjHot : Int) → (hallPow u h).hot = true) ∧ (tj < (s.power.cfg.tjHot : Int) - 3 → (hallPow u h).hot = false) ∧
        (112 ≤ tj → (hallPow u h).crit = true ∧ u.power.thermCrit = true) ∧ (tj < 108 → (hallPow u h).crit = false)) ∧
      ((∃ h, h < s.params.halls ∧ 120 ≤ tele.hallTj.getD h 0) → u.power.tripped = true ∧
        (s.power.tripped = false → u.seq.trips = s.seq.trips ++ [(2, upBeat s)] ∧
          ∀ t, taskOf s t.num = some t → t.state = .launched → t.halting = false → halts u t.num 0x0C01)) := by
  have hrecord := controlEff_record s tele
  refine answers_due rfl (by simp [hruns, hfew, hsamples]) ⟨hrecord.ivCount, hrecord.wSum, hrecord.vUp, hrecord.vDown, hrecord.vOnce, hrecord.vMoved, ?_, ?_,
    fun hhot => controlEff_trips (trips_iff.2 hhot)⟩
  · rintro high hhigh
    rw [hrecord.capStep, overCap_intervalTaken, ← hhigh]
    refine ⟨?_, ?_⟩
    · rintro rfl
      rfl
    · rintro rfl hmost
      rw [if_pos rfl]
      split
      · omega
      · omega
  · rintro h hh tj rfl
    rw [controlEff_hall hh]
    refine ⟨rfl, rfl, rfl, fun hhot => if_pos hhot, fun hcool => ?_, fun hcrit => ⟨if_pos hcrit, hrecord.thermCrit h hh hcrit⟩, fun hcool => ?_⟩
    · exact (if_neg (by omega)).trans (if_pos hcool)
    · exact (if_neg (by omega)).trans (if_pos hcool)

/-! The end of a gap's fill (16 R469, R470). -/

/-- With nothing left to draw in a hall that is in no ramp, a hold of FLOOR percent begins (16 R470); else the hall goes on. -/
theorem gapFillEnd_acts (hhall : room / 16 < s.params.halls) (hgap : gapOn s room unit = true) : answers (.gapFillEnd room unit) s fun u =>
    gapOn u room unit = false ∧
    (hallBusy u (room / 16) = false → (hallPow s (room / 16)).ramp = .none →
      (hallPow u (room / 16)).ramp = .hold (s.power.cfg.floor * iPre (hallPow s (room / 16)) / 100) (upBeat s + 1)) ∧
    (hallBusy u (room / 16) = true → hallPow u (room / 16) = hallPow s (room / 16)) ∧
    ((hallPow s (room / 16)).ramp ≠ .none → hallPow u (room / 16) = hallPow s (room / 16)) := by
  refine answers_dueAt rfl (by simp [hhall]) hgap ⟨gapFillEndEff_ended s room unit, ?_⟩
  unfold gapFillEndEff
  extract_lets t
  have hkept : hallPow t (room / 16) = hallPow s (room / 16) := rfl
  by_cases hholds : hallBusy t (room / 16) = false ∧ (hallPow t (room / 16)).ramp = .none
  · obtain ⟨hidle, hflat⟩ := hholds
    have hidle' : hallBusy (enterHold (room / 16) t) (room / 16) = false := hidle
    rw [if_pos ⟨hidle, hflat⟩, hidle']
    refine ⟨fun _ _ => ?_, fun hbusy => absurd hbusy (by decide), fun hramp => absurd hflat hramp⟩
    rw [enterHold, hallPow_modHall]
    rfl
  · rw [if_neg hholds]
    exact ⟨fun hidle hflat => absurd ⟨hidle, hflat⟩ hholds, fun _ => hkept, fun _ => hkept⟩

end

/-- Settles O39: what the interval's measurements and moves make of the governor's record, and what the ends and starts of ramps make of a hall's. -/
theorem governorActs : Obligations.GovernorActs := by
  intro s
  exact ⟨fun tele hruns hfew hsamples => controlInterval_acts hruns hfew hsamples, fun room unit hhall hgap => gapFillEnd_acts hhall hgap,
    fun hall level start hhall hramp hover => barrierHoldEnd_descends hhall hramp hover,
    fun hall t level hhall hready hrise => preRampStart_ramps hhall hready hrise⟩

end Sys2Proof.Machine

/-!
The host port and the porch (19 R530 to R539): every effect of an answer, of its absence, of credits and of snoops.
-/
namespace Sys2Proof.Machine

section
variable {s : State} {m : HostMsg} {r : HostReq} {tag status addr n q : Nat} {data : List Byte}

/-! Messages that wait or are sent are not lost (19 R530). -/

theorem told_pumpTx (h : told s m) : told (pumpTx s) m := by
  rcases h with hwaits | hsent
  · exact (mem_sendMsgs _ _ hwaits).imp_right (List.mem_append_right _)
  · exact .inr (List.mem_append_left _ (List.mem_append_left _ hsent))

theorem told_sendMsg_other (x : HostMsg) (h : told s m) : told (sendMsg x s) m :=
  told_pumpTx (s := { s with host := { s.host with txq := s.host.txq ++ [x] } }) (h.imp_left (List.mem_append_left _))

theorem told_issueReq (p : Purpose) (x : HostMsg) (h : told s m) : told (issueReq p x s) m := by
  unfold issueReq
  split
  next t _ =>
    split
    · exact told_sendMsg_other (s := { s with host := { s.host with out := s.host.out ++ [⟨t, p, x.addr, s.time.up⟩] } }) _ h
    · exact h
  next => exact h

theorem told_porchFill (own : Bool) (addr : Nat) (h : told s m) : told (porchFill own addr s) m := by
  unfold porchFill
  split
  · exact h
  · exact told_issueReq _ _ h

theorem told_porchWant (addr : Nat) (h : told s m) : told (porchWant addr s) m := by
  unfold porchWant
  split
  · exact told_porchFill true addr h
  · split
    · exact told_porchFill false addr h
    · exact h

/-! A tag that is held back stays so until its late response or its time (19 R534): nothing that an answer does changes the list. -/

@[simp] theorem issueReq_late (p : Purpose) (x : HostMsg) (s : State) : (issueReq p x s).host.late = s.host.late := by
  unfold issueReq
  split
  · split
    · rw [((sendMsg_only (P := (· = .messages)) rfl _ only_refl).host_late (by simp))]
    · rfl
  · rfl

@[simp] theorem writeRsp_late (k : Nat) (w : MsgWord) (replay notify : Bool) (s : State) : (writeRsp k w replay notify s).host.late = s.host.late :=
  issueReq_late ..

@[simp] theorem respond_late (k status : Nat) (fs : List (Nat × Nat × Nat)) (s : State) : (respond k status fs s).host.late = s.host.late := by
  unfold respond
  split
  · rfl
  · exact writeRsp_late ..

@[simp] theorem respondAll_late (status : Nat) : ∀ (ks : List Nat) (s : State), (respondAll status ks s).host.late = s.host.late
  | [], _ => rfl
  | _ :: ks, _ => (respondAll_late status ks _).trans (respond_late ..)

@[simp] theorem resetAnswer_late (s : State) : (resetAnswer s).host.late = s.host.late := by
  unfold resetAnswer
  split
  · split
    · exact respondAll_late ..
    · rfl
  · rfl

@[simp] theorem porchFill_late (own : Bool) (addr : Nat) (s : State) : (porchFill own addr s).host.late = s.host.late := by
  unfold porchFill
  split
  · rfl
  · exact issueReq_late ..

@[simp] theorem porchPut_late (addr offset : Nat) (data : List Byte) (s : State) : (porchPut addr offset data s).host.late = s.host.late := by
  unfold porchPut
  split
  · split
    · rfl
    · exact porchFill_late ..
  · exact porchFill_late ..

@[simp] theorem putStatusAll_late : ∀ (qs : List Nat) (s : State), (putStatusAll qs s).host.late = s.host.late
  | [], _ => rfl
  | q :: qs, s => by
    rw [putStatusAll, putStatusAll_late, putStatus]
    split
    · split
      · rfl
      · exact porchPut_late ..
    · rfl

@[simp] theorem ctxFault_late (c code q addr : Nat) (s : State) : (ctxFault c code q addr s).host.late = s.host.late := by
  unfold ctxFault
  split
  · rw [putStatusAll_late]
    exact (modCtx_only (P := (· = .ctxs)) rfl _ _ only_refl).host_late (by simp)
  · rfl

@[simp] theorem setFence_late (f : Nat) (sig : Bool) (s : State) : (setFence f sig s).host.late = s.host.late := by
  unfold setFence
  extract_lets x y t
  split
  · rfl
  · rw [(promote_leaves _).host_late (by decide), putMirror]
    split
    · split
      · rfl
      · exact porchPut_late ..
    · rfl

@[simp] theorem endQueue_late (q : Nat) (s : State) : (endQueue q s).host.late = s.host.late := by
  unfold endQueue
  split
  · rfl
  · split
    · rfl
    · split
      · exact respond_late ..
      · rfl

@[simp] theorem tryRecord_late (q : Nat) (s : State) : (tryRecord q s).host.late = s.host.late := by
  unfold tryRecord
  split
  · rfl
  · split
    · rfl
    · split
      · rfl
      · exact issueReq_late ..

@[simp] theorem gotRecord_late (n status addr : Nat) (s : State) : (gotRecord n status addr s).host.late = s.host.late := by
  unfold gotRecord
  split
  · rfl
  · split
    · rfl
    · extract_lets a b
      have ha : a.host.late = s.host.late := ctxFault_late ..
      have hb : b.host.late = a.host.late := by
        unfold b
        split
        · exact setFence_late ..
        · rfl
      rw [resetAnswer_late, endQueue_late, tryRecord_late, hb, ha]

@[simp] theorem gotDesc_late (q status addr : Nat) (data : List Byte) (s : State) : (gotDesc q status addr data s).host.late = s.host.late := by
  unfold gotDesc
  split
  · rfl
  · extract_lets t
    split
    · exact ctxFault_late ..
    · rfl

@[simp] theorem gotCopy_late (k n status : Nat) (s : State) : (gotCopy k n status s).host.late = s.host.late := by
  unfold gotCopy
  split
  · rfl
  · extract_lets d rest
    split
    · unfold endCopy
      split
      · exact respond_late ..
      · split
        · exact respond_late ..
        · exact respond_late ..
    · rfl

@[simp] theorem createDone_late (addr : Nat) (s : State) : (createDone addr s).host.late = s.host.late := by
  have hall : ∀ (bs : List (Nat × Mailbox)) (s : State), (answerCreates addr bs s).host.late = s.host.late := by
    intro bs
    induction bs with
    | nil => exact fun _ => rfl
    | cons e bs ih =>
      intro s
      rw [answerCreates, ih]
      split
      · split
        · split
          · exact respond_late ..
          · rfl
        · rfl
      · rfl
  exact hall ..

@[simp] theorem porchWant_late (addr : Nat) (s : State) : (porchWant addr s).host.late = s.host.late := by
  unfold porchWant
  split
  · exact porchFill_late ..
  · split
    · exact porchFill_late ..
    · rfl

@[simp] theorem porchEvict_late (addr : Nat) (s : State) : (porchEvict addr s).host.late = s.host.late := by
  unfold porchEvict
  extract_lets ls
  clear_value ls
  split
  · rfl
  · split
    · rfl
    · extract_lets t
      split
      · exact issueReq_late ..
      · rfl

@[simp] theorem porchInstall_late (addr : Nat) (own : Bool) (data : List Byte) (s : State) : (porchInstall addr own data s).host.late = s.host.late :=
  porchEvict_late ..

/-- Faults of the contexts of a list change no tag that is held back. -/
theorem foldl_late {α : Type} {g : State → α → State} (hg : ∀ s x, (g s x).host.late = s.host.late) : ∀ (xs : List α) (s : State),
    (xs.foldl g s).host.late = s.host.late
  | [], _ => rfl
  | x :: xs, s => (foldl_late hg xs _).trans (hg s x)

@[simp] theorem lineError_late (addr : Nat) (s : State) : (lineError addr s).host.late = s.host.late := by
  unfold lineError
  extract_lets t u
  rw [foldl_late]
  · exact foldl_late (fun _ _ => ctxFault_late ..) _ _
  · intro s x
    split
    · exact ctxFault_late ..
    · rfl

@[simp] theorem doorError_late (addr : Nat) (s : State) : (doorError addr s).host.late = s.host.late := foldl_late (fun _ _ => ctxFault_late ..) _ _

theorem gotAnswer_late (r : HostReq) (status : Nat) (data : List Byte) (s : State) : (gotAnswer r status data s).host.late = s.host.late := by
  unfold gotAnswer
  split
  case h_1 =>
    unfold gotReq
    split
    · rfl
    · rfl
  case h_2 =>
    unfold gotRspAck
    split
    · rfl
    · rfl
  case h_3 => exact gotCopy_late ..
  case h_4 => exact gotDesc_late ..
  case h_5 => exact gotRecord_late ..
  case h_6 =>
    split
    · rw [createDone_late, porchWant_late, porchInstall_late]
    · split
      · rw [createDone_late, lineError_late]
      · exact doorError_late ..
  case h_7 =>
    rw [porchWant_late]
    split
    · rfl
    · exact lineError_late ..
  case h_8 => rfl

theorem pumpReq_late (s : State) : (pumpReq s).host.late = s.host.late := by
  unfold pumpReq
  split
  · rfl
  · split
    · exact issueReq_late ..
    · rfl

theorem timeoutEff_notes (hready : timeoutReady s tag = true) : (timeoutEff s tag).host.timeouts = satInc 65535 s.host.timeouts ∧
    (tag, s.time.up + 4000 * s.host.timeout) ∈ (timeoutEff s tag).host.late := by
  rcases hr : reqOf s tag with _ | r
  · simp [timeoutReady, hr] at hready
  · simp only [timeoutEff, hr]
    refine ⟨?_, ?_⟩
    · rw [(gotAnswer_only (P := (· ≠ .hostErrors)) (by simp) (by simp) (by simp) (by simp) (by simp) (by simp) (by simp) (by simp) (by simp) r 3 [] (freeReq_only
        (by simp) (by simp) tag only_refl)).host_timeouts (by simp)]
      rfl
    · rw [gotAnswer_late, freeReq, pumpReq_late]
      exact List.mem_append_right _ (List.mem_singleton.2 rfl)

/-! What the answer of each request makes (10 R300 to R303, 11 R334, R335, 19 R537). -/

/-- Freeing a tag sends what waits for one, and changes no more than the host port's requests and messages. -/
theorem freeReq_leaves (tag : Nat) (s : State) : changesOnly (· ∈ ([.requests, .messages] : List Part)) s (freeReq tag s) :=
  freeReq_only (by decide) (by decide) tag only_refl

theorem gotReq_answered (k status : Nat) (data : List Byte) (s : State) : (mbox (gotReq k status data s) k).fetching = false ∧
    (status = 0 → (mbox (gotReq k status data s) k).arrived = some (bytesWord data) ∧ (mbox (gotReq k status data s) k).reqHead = (mbox s k).reqHead + 1) ∧
    (status ≠ 0 → (mbox (gotReq k status data s) k).st = 2 ∧ (mbox (gotReq k status data s) k).haltCause = 2) := by
  by_cases hstatus : status = 0
  · rw [gotReq, if_pos hstatus, mbox_modMbox]
    exact ⟨rfl, fun _ => ⟨rfl, rfl⟩, fun hfails => absurd hstatus hfails⟩
  · rw [gotReq, if_neg hstatus, mbox_modMbox]
    exact ⟨rfl, fun hgood => absurd hgood hstatus, fun _ => ⟨rfl, rfl⟩⟩

theorem gotRspAck_answered (k status : Nat) (s : State) : (status = 0 → (mbox (gotRspAck k status s) k).rspAcked = true) ∧
    (status ≠ 0 → (mbox s k).enable = true → (mbox (gotRspAck k status s) k).rsp = none ∧ (mbox (gotRspAck k status s) k).st = 2 ∧
      (mbox (gotRspAck k status s) k).haltCause = 3) ∧
    (status ≠ 0 → (mbox s k).enable = false → (mbox (gotRspAck k status s) k).rsp = none ∧ (mbox (gotRspAck k status s) k).st = 0) := by
  by_cases hstatus : status = 0
  · rw [gotRspAck, if_pos hstatus, mbox_modMbox]
    exact ⟨fun _ => rfl, fun hfails => absurd hstatus hfails, fun hfails => absurd hstatus hfails⟩
  · rw [gotRspAck, if_neg hstatus, mbox_modMbox]
    refine ⟨fun hgood => absurd hgood hstatus, fun _ hon => ?_, fun _ hoff => ?_⟩
    · rw [if_pos hon]
      exact ⟨rfl, rfl, rfl⟩
    · rw [if_neg (by simp [hoff])]
      exact ⟨rfl, rfl⟩

theorem gotDesc_answered {x : Queue} (hx : queueOf s q = some x) (hruns : x.state = 0) :
    (status = 0 → queueOf (gotDesc q status addr data s) q = some { x with fetching := none, arrived := some (bytesWord data) }) ∧
    (status ≠ 0 → (ctxOf s x.ctx).state = 0 → x.ctx ≠ 0 → (ctxOf (gotDesc q status addr data s) x.ctx).state = 1 ∧
      (ctxOf (gotDesc q status addr data s) x.ctx).fault = 0x0222 ∧ (ctxOf (gotDesc q status addr data s) x.ctx).faultQueue = q) := by
  simp only [gotDesc, hx]
  refine ⟨fun hgood => ?_, fun hfails hok hc => ?_⟩
  · rw [if_neg (fun h => h.1 hgood), queueOf_modQueue_same (by exact fun _ => rfl) hx]
    simp [hgood, hruns]
  · rw [if_pos ⟨hfails, hruns⟩, ctxFault_raises (s := modQueue q _ s) hok hc]
    exact ⟨rfl, rfl, rfl⟩

theorem ctxFault_leaves (c code q addr : Nat) (s : State) :
    changesOnly (· ∈ ([.ctxs, .queues, .requests, .messages, .porch] : List Part)) s (ctxFault c code q addr s) :=
  ctxFault_only (by decide) (by decide) (by decide) (by decide) (by decide) c code q addr only_refl

theorem endQueue_leaves (q : Nat) (s : State) : changesOnly (· ∈ ([.mboxes, .queues, .requests, .messages, .porch] : List Part)) s (endQueue q s) :=
  endQueue_only (by decide) (by decide) (by decide) (by decide) (by decide) q only_refl

/-- A fence that is set leaves a task that is no longer queued in its state. -/
theorem taskOf_setFence {t : Task} {f : Nat} {sig : Bool} (ht : taskOf s n = some t) (hstate : t.state ≠ .queued) :
    ∃ v, taskOf (setFence f sig s) n = some v ∧ v.state = t.state ∧ v.status = t.status := by
  unfold setFence
  extract_lets x y fs u
  split
  · exact ⟨t, ht, rfl, rfl⟩
  · obtain ⟨w, hw, hkept⟩ : ∃ w, taskOf u n = some w ∧ w.state = t.state ∧ w.status = t.status := by
      cases sig with
      | false => exact ⟨t, ht, rfl, rfl⟩
      | true =>
        have hnum : (fun v : Task => v.num == n) ∘ (fun v => if v.waitFence = some f ∧ atHead s v = true then { v with waitDone := true } else v) =
            fun v => v.num == n := by
          funext v
          simp only [Function.comp]
          split
          · rfl
          · rfl
        rw [taskOf] at ht
        simp only [taskOf, u, if_true, List.find?_map, hnum, ht, Option.map_some]
        refine ⟨_, rfl, ?_⟩
        split
        · exact ⟨rfl, rfl⟩
        · exact ⟨rfl, rfl⟩
    obtain ⟨v, hv, hpromoted⟩ := taskOf_promote ((taskOf_of_tasks ((putMirror_leaves f u).steward_tasks (by decide)) n).trans hw)
    have hsame : v = w := hpromoted.stays (by rw [hkept.1]; exact hstate)
    exact ⟨v, hv, hsame ▸ hkept⟩

/-- The fence of a completed task whose record's write failed is signalled all the same (11 R335). -/
def fenceAfterFailure (t : Task) (s : State) : State :=
  match t.state, t.sigFence with
  | .completed, some f => setFence f true s
  | _, _ => s

theorem taskOf_fenceAfterFailure {t v : Task} (hv : taskOf s n = some v) (hstate : v.state = t.state) (hstatus : v.status = t.status) :
    ∃ w, taskOf (fenceAfterFailure t s) n = some w ∧ w.state = t.state ∧ w.status = t.status := by
  unfold fenceAfterFailure
  split
  next f hdone _ =>
    obtain ⟨w, hw, hsame, hsame'⟩ := taskOf_setFence (f := f) (sig := true) hv (by rw [hstate, hdone]; decide)
    exact ⟨w, hw, hsame.trans hstate, hsame'.trans hstatus⟩
  next => exact ⟨v, hv, hstate, hstatus⟩

theorem fenceAfterFailure_ctxs (t : Task) (s : State) : (fenceAfterFailure t s).steward.ctxs = s.steward.ctxs := by
  unfold fenceAfterFailure
  split
  · exact (setFence_leaves ..).steward_ctxs (by decide)
  · rfl

theorem gotRecord_acks {t : Task} (ht : taskOf s n = some t) : taskOf (gotRecord n 0 addr s) n = some { t with record := .acked } := by
  simp only [gotRecord, ht, if_true]
  exact taskOf_modTask_same n _ (by exact fun _ => rfl) s t ht

/-- A record whose write failed is dropped: its context faults, and the task keeps its final state (11 R335). -/
theorem gotRecord_fails {t : Task} (ht : taskOf s n = some t) (hfails : status ≠ 0) : gotRecord n status addr s = resetAnswer (endQueue t.queue (tryRecord t.queue
    (fenceAfterFailure t (ctxFault t.ctx 0x0225 t.queue addr (modTask n (fun t => { t with record := .dropped }) s))))) := by
  simp only [gotRecord, ht, if_neg hfails]
  rfl

theorem gotRecord_keepsTask {t : Task} (ht : taskOf s n = some t) (hfails : status ≠ 0) :
    ∃ v, taskOf (gotRecord n status addr s) n = some v ∧ v.state = t.state ∧ v.status = t.status := by
  have hdropped : taskOf (modTask n (fun t => { t with record := .dropped }) s) n = some { t with record := .dropped } :=
    taskOf_modTask_same n _ (by exact fun _ => rfl) s t ht
  have hfaulted : taskOf (ctxFault t.ctx 0x0225 t.queue addr (modTask n (fun t => { t with record := .dropped }) s)) n = some { t with record := .dropped } :=
    (taskOf_of_tasks ((ctxFault_leaves ..).steward_tasks (by decide)) n).trans hdropped
  obtain ⟨w, hw, hstate, hstatus⟩ := taskOf_fenceAfterFailure (t := t) hfaulted rfl rfl
  obtain ⟨rec, hrec⟩ := taskOf_tryRecord t.queue hw
  rw [gotRecord_fails ht hfails, taskOf_of_tasks ((resetAnswer_leaves ..).steward_tasks (by decide)), taskOf_of_tasks ((endQueue_leaves ..).steward_tasks (by decide))]
  exact ⟨_, hrec, hstate, hstatus⟩

theorem gotRecord_faultsCtx {t : Task} (ht : taskOf s n = some t) (hfails : status ≠ 0) (hok : (ctxOf s t.ctx).state = 0) (hc : t.ctx ≠ 0) :
    (ctxOf (gotRecord n status addr s) t.ctx).state = 1 ∧ (ctxOf (gotRecord n status addr s) t.ctx).fault = 0x0225 ∧
      (ctxOf (gotRecord n status addr s) t.ctx).faultQueue = t.queue := by
  rw [gotRecord_fails ht hfails, ctxOf_of_ctxs ((resetAnswer_leaves ..).steward_ctxs (by decide)), ctxOf_of_ctxs ((endQueue_leaves ..).steward_ctxs (by decide)),
    ctxOf_of_ctxs ((tryRecord_leaves ..).steward_ctxs (by decide)), ctxOf_of_ctxs (fenceAfterFailure_ctxs ..), ctxFault_raises (s := modTask n _ s) hok hc]
  exact ⟨rfl, rfl, rfl⟩

/-- A line that arrives stands in the porch with what was held for it (19 R537). -/
theorem porchInstall_line (addr : Nat) (own : Bool) (data : List Byte) (s : State) : ∃ l ∈ (porchInstall addr own data s).host.porch, l.addr = addr ∧
    (own = false → l.data = data ∧ l.modified = false) ∧ (own = true → l.data = heldData addr s.host.held data) := by
  refine ⟨_, List.mem_append_right _ (List.mem_singleton.2 rfl), rfl, ?_, ?_⟩
  · rintro rfl
    exact ⟨rfl, rfl⟩
  · rintro rfl
    rfl

theorem createDone_porchWant_porch (addr : Nat) (s : State) : (createDone addr (porchWant addr s)).host.porch = s.host.porch := by
  rw [(createDone_only (P := (· ≠ .porch)) (by simp) (by simp) (by simp) addr only_refl).host_porch (by simp),
    (porchWant_only (P := (· ≠ .porch)) (by simp) (by simp) addr only_refl).host_porch (by simp)]

theorem hostRspEff_answers (hvalid : status < 4) (hr : reqOf s tag = some r) : hostRspEff s tag status data = gotAnswer r status data (freeReq tag s) := by
  rw [hostRspEff, if_neg (Nat.not_le.2 hvalid), hr]

/-- What an answer that is awaited makes, by what the request was for (19 R534). -/
theorem hostResponse_acts (hvalid : status < 4) (hr : reqOf s tag = some r) : answers (.hostResponse tag status data) s fun u =>
    (∀ m, r.purpose = .reqFetch m → (mbox u m).fetching = false ∧
      (status = 0 → (mbox u m).arrived = some (bytesWord data) ∧ (mbox u m).reqHead = (mbox s m).reqHead + 1) ∧
      (status ≠ 0 → (mbox u m).st = 2 ∧ (mbox u m).haltCause = 2)) ∧
    (∀ m, r.purpose = .rspWrite m → (status = 0 → (mbox u m).rspAcked = true) ∧
      (status ≠ 0 → (mbox s m).enable = true → (mbox u m).rsp = none ∧ (mbox u m).st = 2 ∧ (mbox u m).haltCause = 3) ∧
      (status ≠ 0 → (mbox s m).enable = false → (mbox u m).rsp = none ∧ (mbox u m).st = 0)) ∧
    (∀ q x, r.purpose = .descFetch q → queueOf s q = some x → x.state = 0 →
      (status = 0 → queueOf u q = some { x with fetching := none, arrived := some (bytesWord data) }) ∧
      (status ≠ 0 → (ctxOf s x.ctx).state = 0 → x.ctx ≠ 0 → (ctxOf u x.ctx).state = 1 ∧ (ctxOf u x.ctx).fault = 0x0222 ∧ (ctxOf u x.ctx).faultQueue = q)) ∧
    (∀ n t, r.purpose = .recordWrite n → taskOf s n = some t →
      (status = 0 → taskOf u n = some { t with record := .acked }) ∧
      (status ≠ 0 → (∃ v, taskOf u n = some v ∧ v.state = t.state ∧ v.status = t.status) ∧
        ((ctxOf s t.ctx).state = 0 → t.ctx ≠ 0 → (ctxOf u t.ctx).state = 1 ∧ (ctxOf u t.ctx).fault = 0x0225 ∧ (ctxOf u t.ctx).faultQueue = t.queue))) ∧
    (∀ own, r.purpose = .fill own → status = 0 → ∃ l ∈ u.host.porch, l.addr = r.addr ∧ (own = false → l.data = data ∧ l.modified = false) ∧
      (own = true → l.data = heldData r.addr s.host.held data)) := by
  refine ⟨_, rfl, ?_⟩
  rw [hostRspEff_answers hvalid hr]
  generalize hv : freeReq tag s = v
  have hkept : changesOnly (· ∈ ([.requests, .messages] : List Part)) s v := hv ▸ freeReq_leaves tag s
  have hmbox (k : Nat) : mbox v k = mbox s k := mbox_of_mboxes (hkept.steward_mboxes (by decide)) k
  have hctx (c : Nat) : ctxOf v c = ctxOf s c := ctxOf_of_ctxs (hkept.steward_ctxs (by decide)) c
  refine ⟨fun k hp => ?_, fun k hp => ?_, fun q x hp hx hruns => ?_, fun n t hp ht => ?_, ?_⟩
  · simp only [gotAnswer, hp, ← hmbox]
    exact gotReq_answered ..
  · simp only [gotAnswer, hp, ← hmbox]
    exact gotRspAck_answered ..
  · simp only [gotAnswer, hp, ← hctx]
    exact gotDesc_answered ((queueOf_of_queues (hkept.steward_queues (by decide)) q).trans hx) hruns
  · have ht' : taskOf v n = some t := (taskOf_of_tasks (hkept.steward_tasks (by decide)) n).trans ht
    simp only [gotAnswer, hp, ← hctx]
    refine ⟨?_, fun hfails => ⟨gotRecord_keepsTask ht' hfails, fun hok hc => gotRecord_faultsCtx ht' hfails hok hc⟩⟩
    rintro rfl
    exact gotRecord_acks ht'
  · rintro own hp rfl
    rw [← hkept.host_held (by decide)]
    simp only [gotAnswer, hp, if_true, createDone_porchWant_porch]
    exact porchInstall_line ..

theorem hostResponse_late (hvalid : status < 4) (hnone : reqOf s tag = none) (hlate : isLate s tag = true) : answers (.hostResponse tag status data) s fun u =>
    u.host.lateRsp = satInc 255 s.host.lateRsp ∧ isLate u tag = false ∧ u.host.out = s.host.out := by
  refine ⟨_, rfl, ?_⟩
  rw [hostRspEff, if_neg (Nat.not_le.2 hvalid), hnone]
  simp only [hlate, if_true]
  exact ⟨rfl, by simp [isLate, modHost], rfl⟩

theorem hostResponse_unawaited (hvalid : status < 4) (hnone : reqOf s tag = none) (hlate : isLate s tag = false) :
    answers (.hostResponse tag status data) s fun u => u = s := by
  refine ⟨_, rfl, ?_⟩
  rw [hostRspEff, if_neg (Nat.not_le.2 hvalid), hnone]
  exact if_neg (by simp [hlate])

theorem tagRelease_frees {x : Nat × Nat} (hx : x ∈ s.host.late) (htag : x.1 = tag) (hover : x.2 ≤ s.time.up) :
    answers (.tagRelease tag) s fun u => isLate u tag = false := by
  refine answers_due rfl (List.any_eq_true.2 ⟨x, hx, by simp [htag, hover]⟩) ?_
  rw [isLate, pumpReq_late]
  simp [modHost]

/-! Credits (19 R530). -/

/-- With nothing that waits, credits are kept as they come. -/
theorem pumpTx_idle (htxq : s.host.txq = []) (hevts : s.host.evts = []) (v : Nat) : tabGet 0 (pumpTx s).host.credit v = tabGet 0 s.host.credit v := by
  simp only [pumpTx, htxq, hevts, sendMsgs, sendEvts, tabGet_put]
  split
  next h => rw [h]
  next => rfl

theorem hpTxCredit_acts (s : State) (vn n : Nat) : answers (.hpTxCredit vn n) s fun u => (∀ m, told s m → told u m) ∧
    (s.host.txq = [] → s.host.evts = [] → tabGet 0 u.host.credit (vn % 4) = tabGet 0 s.host.credit (vn % 4) + n) := by
  refine ⟨_, rfl, fun m h => told_pumpTx (s := modHost _ s) h, fun htxq hevts => ?_⟩
  have hidle := pumpTx_idle (s := modHost (fun h => { h with credit := tabMod 0 h.credit (vn % 4) (· + n) }) s) htxq hevts (vn % 4)
  exact hidle.trans ((tabGet_mod 0 s.host.credit (vn % 4) (· + n) (vn % 4)).trans (if_pos rfl))

/-! Snoops (19 R538, R539). -/

/-- The answer of a snoop (19 R538). -/
def snoopAnswer (tag : Nat) (p : Nat × List Byte) : HostMsg := ⟨1, 0x30, tag, 0, p.1, 0, p.2.length / 64, p.2⟩

theorem snoopResult_modified {l : PorchLine} (hl : porchLine s.host addr = some l) (hmod : l.modified = true) : snoopResult s addr = (2, l.data) := by
  simp only [snoopResult, hl, hmod, if_true]

theorem snoopResult_shared {l : PorchLine} (hl : porchLine s.host addr = some l) (hmod : l.modified = false) : snoopResult s addr = (1, []) := by
  simp only [snoopResult, hl, hmod, Bool.false_eq_true, if_false]

theorem snoopResult_absent (hnone : porchLine s.host addr = none) : snoopResult s addr = (if backInFlight s addr then 3 else 0, []) := by
  simp only [snoopResult, hnone]

theorem snoopReply_porch (tag : Nat) (p : Nat × List Byte) (s : State) : (snoopReply tag p s).host.porch = s.host.porch :=
  (sendMsg_only (P := (· = .messages)) rfl _ only_refl).host_porch (by simp)

theorem snoopInvalidate_acts (s : State) (tag addr : Nat) : answers (.snoopInvalidate tag addr) s fun u =>
    told u (snoopAnswer tag (snoopResult s addr)) ∧ ∀ l ∈ u.host.porch, l.addr ≠ addr := by
  refine ⟨_, rfl, told_porchWant addr ?_, fun l hl => ?_⟩
  · exact told_sendMsg (snoopAnswer tag (snoopResult s addr)) s
  · rw [snoopInvEff, (porchWant_only (P := (· ≠ .porch)) (by simp) (by simp) addr only_refl).host_porch (by simp)] at hl
    simpa using (List.mem_filter.1 hl).2

theorem snoopShare_acts (s : State) (tag addr : Nat) : answers (.snoopShare tag addr) s fun u =>
    told u (snoopAnswer tag (snoopResult s addr)) ∧ ∀ l ∈ u.host.porch, l.addr = addr → l.modified = false := by
  refine ⟨_, rfl, told_sendMsg (snoopAnswer tag (snoopResult s addr)) s, fun l hl haddr => ?_⟩
  obtain ⟨x, -, rfl⟩ := List.mem_map.1 hl
  split at haddr
  next h => rw [if_pos h]
  next h => exact absurd haddr h

/-- A snoop's answer is told by what the porch holds of the line, and the line is left as the snoop asks. -/
theorem snoop_acts {c : Instr} (hc : c ∈ [Instr.snoopInvalidate tag addr, .snoopShare tag addr]) : answers c s fun u =>
    told u (snoopAnswer tag (snoopResult s addr)) ∧ (c = .snoopInvalidate tag addr → ∀ l ∈ u.host.porch, l.addr ≠ addr) ∧
      (c = .snoopShare tag addr → ∀ l ∈ u.host.porch, l.addr = addr → l.modified = false) := by
  simp only [List.mem_cons, List.not_mem_nil, or_false] at hc
  rcases hc with rfl | rfl
  · obtain ⟨u, hu, htold, hgone⟩ := snoopInvalidate_acts s tag addr
    exact ⟨u, hu, htold, fun _ => hgone, fun h => (by cases h)⟩
  · obtain ⟨u, hu, htold, hshared⟩ := snoopShare_acts s tag addr
    exact ⟨u, hu, htold, fun h => (by cases h), fun _ => hshared⟩

end

/-- Settles O45: what each answer, its absence and each snoop make, read at what the request was for and at what the porch holds. -/
theorem hostTrafficActs : Obligations.HostTrafficActs := by
  intro s
  refine ⟨fun tag status data hbad => ⟨_, rfl, if_pos hbad⟩, fun tag status data r hvalid hr => hostResponse_acts hvalid hr,
    fun tag status data hvalid hnone hlate => hostResponse_late hvalid hnone hlate, fun tag status data hvalid hnone hlate => hostResponse_unawaited hvalid hnone hlate,
    fun tag hready => answers_due rfl hready (timeoutEff_notes hready), fun tag x hx htag hover => tagRelease_frees hx htag hover, ⟨_, rfl, rfl⟩,
    fun vn n => hpTxCredit_acts s vn n, fun tag => ⟨⟨_, rfl, told_sendMsg ..⟩, ⟨_, rfl, rfl⟩⟩, fun tag addr c hc => ?_⟩
  obtain ⟨u, hu, htold, hleft⟩ := snoop_acts (s := s) hc
  refine ⟨u, hu, fun l hl hmod => ?_, fun l hl hmod => ?_, fun hnone => ?_, hleft⟩
  · rwa [snoopResult_modified hl hmod] at htold
  · rwa [snoopResult_shared hl hmod] at htold
  · rw [snoopResult_absent hnone] at htold
    simpa only [snoopAnswer, List.length_nil, Nat.zero_div] using htold

end Sys2Proof.Machine
